-- ==== Sys2Proof/Word.lean ====
section
/-!
DEFINITION. The word types of the Omkin: bytes, 32-bit and 64-bit words (00_scope.md R6, R11).
-/

namespace Sys2Proof

/-- A byte: 8 bits (R5). -/
abbrev Byte := BitVec 8

/-- A 32-bit word: an FP32, INT32 or raw element of the vector engine and the arrays. -/
abbrev W32 := BitVec 32

/-- A 64-bit word: a control-space register (R11) or a memory word (R5). -/
abbrev W64 := BitVec 64

end Sys2Proof
end

