-- ==== Sys2Proof/Syntax.lean ====
section
/-!
DEFINITION. The commands of the Omkin, one constructor of `Instr` for each row of spec/opcode_table.json.
The table gives no operand bits (every row's "fields" is empty): the operands here name the engine the event happens on
and what the outside brings (a frame, a slot, a reading, a value written).
-/

namespace Sys2Proof

/-- The register blocks of the control space (R9, R10). -/
inductive Blk where
  | dev | stk | chm | mem | lnk | fab | col | hst | prt | sec | tel | pwr | err | knd
  | mxa | vec | spd | flu | blw | xlt | grf | atn
deriving DecidableEq, Repr

/-- Who performs a control-space access (R36, R37, R225, R423): a queue pair (0–1023 data, 1024 the management queue
pair), the Stoker on its own account, or a partition's graph engine. -/
inductive Caller where
  | qp (q : Nat)
  | stoker
  | graphEngine (p : Nat)
deriving DecidableEq, Repr

/-- A delivery entry of a GRAPH_SUBMIT (R425). -/
structure Delivery where
  srcVa : Nat
  len : Nat
  rkey : Nat
  hostVa : Nat
deriving DecidableEq, Repr

/-- What a link receives in a data slot (R343, R347, R349): whether the codeword decodes and how many symbols it corrects,
whether the CRC matches, the 80-bit link word, the 8-byte flit header and the 248 body bytes. -/
structure SlotRx where
  decodes : Bool
  corrected : Nat
  crcOk : Bool
  linkWord : BitVec 80
  header : BitVec 64
  body : List Byte
deriving DecidableEq, Repr

/-- How a training attempt of a link ends (R360, R365): the physical steps' outcome and what they found. -/
structure TrainResult where
  physOk : Bool
  lanesOk : BitVec 4
  inverted : BitVec 4
  reversed : Bool
  snr : List Nat
  rttNs : Nat
deriving DecidableEq, Repr

/-- One period's readings of a firebox's power loop (R488, R564, R565); `power` is none where a read gets no valid
response. -/
structure PowerReading where
  power : Option Nat
  temp : Nat
  vddMv : Nat
  fbEnergyMj : Nat
  devPowerW : Nat
  devEnergyMj : Nat
deriving DecidableEq, Repr

/-- The sensor that trips (R491, R512): a firebox, a base die or an HBM stack. -/
inductive TripSite where
  | firebox (f : Nat) | baseDie (d : Nat) | stack (k : Nat)
deriving DecidableEq, Repr

/-- What raises a hearth fault (R510). -/
inductive HearthFaultCause where
  | repeatedUe | stateParity | secondEccUe | selfTest | verdict
deriving DecidableEq, Repr

/-- Why a received frame is dropped (R410, R411, R412, R417, R418). -/
inductive DropReason where
  | badFrame | notHandled | poolFull (prio : Nat) | icrc
deriving DecidableEq, Repr

/-- What the outside brings to a cold start (R532, R537, R543–R545): which reference inputs are valid, whether the flash
answers in octal mode, which pseudo-channels and hearths fail their tests, whether the bridges calibrate. -/
structure BootInputs where
  refA : Bool
  refB : Bool
  octal : Bool
  flashMhz : Nat
  lastStart : Nat
  failedPcs : List (Nat × Nat)
  failedHearths : List Nat
  bridgesOk : Bool
  stageTimes : List Nat
deriving DecidableEq, Repr

/-- What a warm reset finds at its steps 5 to 9 (R245, R503). -/
structure WarmResults where
  imageVerifies : Bool
  bridgesOk : Bool
  slicesOk : Bool
  failedPcs : List (Nat × Nat)
  failedHearths : List Nat
deriving DecidableEq, Repr

/-- A fabric management packet of the digest check (R518). -/
structure DigMsg where
  srcDev : Nat
  spart : Nat
  dpart : Nat
  coll : Nat
  epoch : Nat
  dir : Nat
deriving DecidableEq, Repr

/-- A RATE packet's fields (R485). -/
structure RateMsg where
  slice : Nat
  group : Nat
  spart : Nat
  dec : Nat
  origDst : Nat
deriving DecidableEq, Repr

/-- The commands: one constructor per row of spec/opcode_table.json, in table order. -/
inductive Instr where
  -- control space
  | csrRead (qp addr ctag : Nat)
  | csrWrite (qp addr : Nat) (value : W64) (ctag : Nat)
  | registerWrite (who : Caller) (addr : Nat) (value : W64)
  | counterClear (blk : Blk) (inst : Nat)
  | errLogClear (blk : Blk) (inst : Nat)
  -- matrix arrays
  | matmul (h : Nat)
  | tileLoad (h : Nat)
  | swap (h a : Nat)
  | rowEntry (h a : Nat)
  | preloadStart (h a : Nat)
  | preloadDone (h a : Nat)
  | accDrain (h a : Nat)
  | outputTileFull (h a : Nat)
  | mxaArrayEn (h : Nat) (en0 en1 : Bool)
  -- vector engine
  | ember (h : Nat)
  | invocationStart (h : Nat)
  | invocationEnd (h : Nat)
  | invocationOutputFull (h : Nat)
  | nop (h : Nat)
  | ld (h : Nat)
  | st (h : Nat)
  | fadd (h : Nat)
  | fsub (h : Nat)
  | fmul (h : Nat)
  | fma (h : Nat)
  | fmax (h : Nat)
  | fmin (h : Nat)
  | fabs (h : Nat)
  | fneg (h : Nat)
  | fcmp (h : Nat)
  | sel (h : Nat)
  | mov (h : Nat)
  | div (h : Nat)
  | sqrt (h : Nat)
  | exp2 (h : Nat)
  | exp (h : Nat)
  | log2 (h : Nat)
  | rcp (h : Nat)
  | rsqrt (h : Nat)
  | tanh (h : Nat)
  | sigmoid (h : Nat)
  | silu (h : Nat)
  | sin (h : Nat)
  | cos (h : Nat)
  | rsum (h : Nat)
  | rmax (h : Nat)
  | cvt (h : Nat)
  | qnt (h : Nat)
  | dqnt (h : Nat)
  -- scratchpads
  | spfill (h : Nat)
  | spcopy (h : Nat)
  | spempty (h : Nat)
  | spdOpStart (h m : Nat)
  | spdOpDone (h m : Nat)
  | bankLate (h m row port : Nat)
  | wbufRetire (h : Nat)
  | spdHandleWrite (h idx : Nat) (value : W64)
  | spdScrub (h : Nat)
  | spdScrubDone (h : Nat)
  -- flues and bellows
  | flueIn (h f : Nat)
  | flueOut (h f : Nat)
  | flueLink (h f : Nat)
  | flueEnd (h f : Nat)
  | blwGather (h b : Nat)
  | blwScatter (h b : Nat)
  | blwLink (h b : Nat)
  | blwEnd (h b : Nat)
  | descBurst (h e : Nat)
  | readRequestIssue (h : Nat)
  | writeRequestIssue (h : Nat)
  | blwElementRequest (h b : Nat)
  | readResponse (h i : Nat)
  | writeAck (h i : Nat)
  | outTileRead (h f : Nat)
  | dueCheck (h e tile : Nat)
  | nextStreamStart (h e : Nat)
  | hintIssue (h f : Nat)
  | fluHintClr (h : Nat)
  -- chimney
  | chmRead (s i : Nat)
  | chmWrite (s i : Nat)
  | chmFillComplete (s i : Nat)
  | chmHint (s i : Nat)
  | mcastTimeBudget (s p g : Nat)
  | arbRound (s : Nat)
  | chmPatrolRead (s : Nat)
  | chmScrub (s p : Nat)
  | chmScrubDone (s : Nat)
  -- HBM
  | hbmRead (k pc i : Nat)
  | hbmWrite (k pc : Nat)
  | hbmCorrectionRewrite (k : Nat)
  | hbmRefresh (k pc bank : Nat)
  | hbmPatrolRead (k : Nat)
  | hbmFence (k pc kind : Nat)
  | hbmInitFillDone
  | hbmRetrain (k : Nat)
  | hbmRetrainSelfRefresh (k : Nat)
  | hbmRetrainDone (k : Nat) (failedPcs : BitVec 32)
  -- translation
  | walkComplete (d i : Nat)
  | xltOpqTailWrite (p g tail : Nat)
  | map (p g : Nat)
  | unmap (p g : Nat)
  | share (p g : Nat)
  | protect (p g : Nat)
  | unshare (p g : Nat)
  | rekey (p g : Nat)
  | rekeyMeta (p g : Nat)
  | shootdownAck (p h : Nat)
  | shootdownComplete (p : Nat)
  | xltResume (p g : Nat)
  | releaseRingHeadWrite (p head : Nat)
  | copyOnWrite (p : Nat)
  | cowCopyDone (p : Nat)
  -- graphs
  | graphSubmit (qp headerVa ctag : Nat) (deliveries : List Delivery)
  | graphCancel (qp graphId : Nat)
  | mixPost (qp : Nat) (item : BitVec 256)
  | graphLoad (p : Nat)
  | graphActivate (p : Nat)
  | taskPlace (p : Nat)
  | taskStart (h : Nat)
  | semrel (h : Nat)
  | taskComplete (h : Nat) (draining : Bool)
  | taskAbort (h : Nat) (draining : Bool) (code : Nat)
  | completionRecordWrite (qp : Nat)
  | mixStepForm (p : Nat)
  | grfMixTableWrite (p va : Nat)
  -- attention
  | attendAppend (h : Nat)
  | attendWork (h : Nat)
  | attendMerge (h : Nat)
  | attendPlan (p : Nat)
  -- links
  | linkSlotTx (n : Nat)
  | linkDataSlotRx (n : Nat) (slot : SlotRx)
  | param (n dev link port cls links : Nat)
  | linkEcho (n : Nat) (ts : W64)
  | linkEchoReply (n : Nat) (ts : W64)
  | down (n cause : Nat)
  | retrainReq (n : Nat)
  | replayTimeout (n : Nat)
  | linkLos (n lane : Nat)
  | fecLimit (n : Nat)
  | noSlotTimeout (n : Nat)
  | linkDownTxEnd (n : Nat)
  | linkTrainStart (n : Nat)
  | linkTrainDone (n : Nat) (r : TrainResult)
  | linkRetrain (n : Nat)
  | linkDrainDone (n : Nat)
  | linkDrainTimeout (n : Nat)
  | linkDisable (n : Nat) (disable : Bool)
  -- routing, flows and collectives
  | packetRoute (n vc : Nat)
  | packetAccept (n vc : Nat)
  | escapeTimeout (port vc : Nat)
  | ackTimer (flow : Nat)
  | ackReceive (n vc : Nat)
  | resendTimeout (flow seq : Nat)
  | discSend (n : Nat)
  | discReceive (n vc : Nat)
  | portDiscovery (port : Nat)
  | colLoad (p : Nat)
  | colUnload (p : Nat)
  | colReset (p entry : Nat)
  | colCtlFlush (p c epoch actLen : Nat)
  | bucketStart (p c b : Nat)
  | reduceScatter (p c b : Nat)
  | allReduce (p c b : Nat)
  | allGather (p c b : Nat)
  | allToAll (p c : Nat)
  | broadcast (p c b : Nat)
  | multicast (p c b : Nat)
  | contrib (i : Nat)
  | result (i : Nat)
  | block (i : Nat)
  | bcast (i : Nat)
  | counts (i : Nat)
  | done (i : Nat)
  | gap (i : Nat)
  | fetch (i : Nat)
  | colInstanceComplete (p c : Nat)
  | backupDeadline (p c b rank : Nat)
  | fetchTimeout (p c : Nat)
  | collWatchdog (p c : Nat)
  -- host port
  | arpRequest (targetIp senderIp : Nat) (senderMac : Nat)
  | neighborSolicitation (targetIp6 senderIp6 : Nat) (senderMac : Nat)
  | ethFrameDrop (why : DropReason)
  | pfcReceive (prios : BitVec 8) (quanta : Nat)
  | pfcRefresh (prio : Nat)
  | send (qp : Nat) (data : List Byte) (ce : Bool)
  | rdmaWrite (qp rkey va : Nat) (data : List Byte) (imm ce : Bool)
  | rdmaRead (qp rkey va len : Nat)
  | roceAckReceive (qp psn : Nat) (syndrome : Nat)
  | cnpReceive (qp : Nat)
  | qpAckTimeout (qp : Nat)
  | echo (qp : Nat) (tsHost : W64) (ctag : Nat)
  | qpRts (qp : Nat)
  | qpReset (qp : Nat)
  | hostLinkDown (up : Bool)
  | ipfixExport
  | ipfixTemplateRefresh
  -- partitions, keys, reports
  | form (p : Nat) (units : BitVec 16) (zeroFill : Bool)
  | grow (p : Nat) (units : BitVec 16)
  | shrink (p : Nat) (units : BitVec 16)
  | dissolve (p : Nat)
  | hearthLeave (h : Nat)
  | prtQuotaWrite (p : Nat) (value : W64)
  | prtRateWrite (p : Nat) (value : W64)
  | rotateImport (p blobVa : Nat)
  | rotateGen (p : Nat)
  | loadFab (p blobVa : Nat)
  | clearFab (p slot : Nat)
  | keySweepDone (p : Nat)
  | platformReport
  | tenantReport (p : Nat)
  | peerChangedClear (port : Nat)
  -- measurement and control
  | histSnap
  | histClr
  | clockMeasure (khz : List Nat)
  | damperWindow (port : Nat)
  | rate (m : RateMsg)
  | rateIncrease (flow : Nat)
  | rateResetTimeout (flow : Nat)
  | powerLoopPeriod (f : Nat) (r : PowerReading)
  -- faults and recovery
  | thermalTrip (site : TripSite)
  | thermalCooled
  | hardThermalLimit
  | hearthFault (h : Nat) (cause : HearthFaultCause)
  | hearthResetDone (h : Nat) (pass : Bool)
  | taskWatchdog (h : Nat) (draining : Bool)
  | requestAgeExpiry (h i : Nat)
  | stokerWatchdog
  | suspectStart (p : Nat)
  | suspectRun (p : Nat)
  | sliceTagParity (s : Nat)
  | bridgeFailure (b : Nat)
  | refclkALoss
  | refclkBLoss
  | refclkBothLoss
  | warmReset (remap : Bool)
  | warmResetServing (r : WarmResults)
  | hrtService (h : Nat)
  | hrtReturn (h : Nat)
  | releaseHold (h : Nat)
  | fwSwitch (bank : Nat)
  | fwOkSet
  | fwTrialTimeout
  | digCheck
  | digReq (m : DigMsg)
  | digReply (m : DigMsg) (bytes crc : W64)
  | digReplyTimeout
  | errInjectArm (value : W64)
  -- start-up, flash, fuses, test port
  | coldStart (b : BootInputs)
  | resetAssert
  | refclkSample (a b : Bool)
  | refclkTimeout
  | erase (addr : Nat)
  | program (addr len : Nat)
  | read (addr len : Nat)
  | verify (copy : Nat)
  | ownerFuse
  | svnRaise
  | jtagBypass
  | jtagIdcode
  | jtagSamplePreload (pins : W64)
  | jtagExtest
  -- the events added at the table's end
  | pfcPauseExpiry (prio : Nat)
  | stokerRestartDone
  | rnrRetryTimeout (qp : Nat)
  | refclkReturn (a : Bool)
  | flashCmdDone (ok : Bool)
  | prtCmdDone
  | secKeyCmdDone
  | secReportDone
deriving DecidableEq, Repr

end Sys2Proof
end

