-- ==== Sys2Proof/Config.lean ====
section
/-!
DEFINITION. What an implementation fixes and the values that the manual leaves open. Every `opaque` here is a free value: nothing
constrains it, and a statement about the model holds whatever it is.
-/

namespace Sys2Proof.Config

/-- FREE VALUE. The value that use number `n` of an open value takes: syndromes (R157, R229, R248), the word and bits an
injected error shows (R578), random seeds and nonces (R441, R452), the sensor readings that a status register shows (R248, R495). -/
opaque free : Nat → W64

/-- FREE VALUE. The result of an approximating ember instruction (opcode of R109, FP32 operand) where R117 states only a
bound: a fixed function of the operand bits (R116), taken where it meets the bound. -/
opaque approx : Nat → W32 → W32

/-- FREE VALUE. The rank of block `b` (32 elements) among the blocks that the APPEND task of an ATTEND descriptor converts: the order of
its conversions, and so of its draws, is not stated (R67, R326); it is one order for every run of the task (R338). -/
opaque appendOrder : Nat → Nat → Nat

/-- FREE VALUE. The mask of the XOR hash that selects a line's bank (R193, log 60). -/
opaque chmHash : Byte

/-- The part number (R2): false OMK4-0960-LC, true OMK4-0960-LCX. Each device is one of the two; a statement holds for both. -/
opaque lcx : Bool

/-- FREE VALUE. Byte `i` of the AES-256-GCM ciphertext and tag of `plain` under the key of number `key` (R375): the standard's
arithmetic is not restated by the specification, and no key is ever shown. -/
opaque gcmByte : (key nonce : Nat) → (aad plain : List Byte) → (i : Nat) → Byte

/-- FREE VALUE. Whether the tag of a received packet passes under the key of number `key` (R375). -/
opaque gcmOk : (key nonce : Nat) → (aad cipher : List Byte) → Bool

/-- FREE VALUE. Byte `i` of the plaintext of a received packet whose tag passes (R375). -/
opaque gcmPlain : (key nonce : Nat) → (aad cipher : List Byte) → (i : Nat) → Byte

/-- FREE VALUE. Byte `i` of what a 16-byte block's ciphertext, made of `plain` under key `tag`, decrypts to under key `key` (R451): one value for one
ciphertext and key, since the tweak is the block's address. -/
opaque wrongKey : (tag key block : Nat) → (plain : List Byte) → (i : Nat) → Byte

/-- FREE VALUE. The number of the key material that an accepted key blob holds (R454): one blob for one device, partition and forming gives one
material. -/
opaque blobKey : (cold part count : Nat) → (blob : List Byte) → Nat

/-- FREE VALUE. Whether the GCM tag of a key blob passes (R454, R455), for a device in its cold start number `cold`, a partition and its
FORM_COUNT: ML-KEM-768 and AES-256-GCM are not restated by the specification. -/
opaque blobOk : (cold part count : Nat) → (blob : List Byte) → Bool

/-- FREE VALUE. The key check value (R456): the first 8 bytes of SHA3-256 over 0x01 and the key material, which `key` numbers and no agent sees; one
material shows one value. -/
opaque kcv : (key : Nat) → W64

/-- FREE VALUE. Byte `i` of a flit's body beyond the bytes in use (R349). -/
opaque flitPad : (i : Nat) → Byte

/-- The silicon stepping (R556): fixed for each part. -/
opaque stepping : Nat

/-- FREE VALUE. Byte `i` of the device's identity public key (R461): derived from a seed in the fuses that is never shown. -/
opaque identityKey : (i : Nat) → Byte

/-- FREE VALUE. Byte `i` of the ML-KEM-768 encapsulation key of cold start number `cold` (R455). -/
opaque kemKey : (cold i : Nat) → Byte

/-- FREE VALUE. Byte `i` of the device's ML-DSA-44 signature over a digest (R461): FIPS 204 is not restated by the specification. -/
opaque signByte : (digest : List Byte) → (i : Nat) → Byte

/-- FREE VALUE. Whether an ML-DSA-44 signature over a digest verifies under a public key (R537). -/
opaque sigOk : (key digest sig : List Byte) → Bool

/-- FREE VALUE. Byte `i` of the digest of the Gygavik firmware key in the fuses (R537): fixed at manufacture. -/
opaque firmwareKey : (i : Nat) → Byte

/-- FREE VALUE. The code that IDCODE shifts out (R570). -/
opaque idcode : W32

end Sys2Proof.Config
end

