-- ==== Sys2Proof/Machine/Tbl.lean ====
section
/-!
DEFINITION. Sparse tables: the plain-data shape of everything the Omkin has many of. A table is a list of keys and
values with strictly rising keys. `Mem` is a byte memory in the canonical form: no entry equal to what an unlisted
address reads as (0).
-/

namespace Sys2Proof.Machine

/-- A sparse table keyed by natural numbers, keys strictly rising. -/
abbrev Tbl (α : Type) := List (Nat × α)

/-- The entry at key `k`, if the table lists one. -/
def tget {α : Type} (t : Tbl α) (k : Nat) : Option α :=
  match t with
  | [] => none
  | (k', v) :: r => if k' = k then some v else tget r k

/-- The entry at key `k`, or `d`. -/
def tgetD {α : Type} (t : Tbl α) (k : Nat) (d : α) : α := (tget t k).getD d

/-- Writes key `k`, keeping the keys rising. -/
def tput {α : Type} (t : Tbl α) (k : Nat) (v : α) : Tbl α :=
  match t with
  | [] => [(k, v)]
  | (k', v') :: r =>
    if k < k' then (k, v) :: (k', v') :: r
    else if k = k' then (k, v) :: r
    else (k', v') :: tput r k v

/-- Removes key `k`. -/
def tdel {α : Type} (t : Tbl α) (k : Nat) : Tbl α :=
  match t with
  | [] => []
  | (k', v') :: r => if k' = k then tdel r k else (k', v') :: tdel r k

/-- Changes the entry at key `k` (from `d` where none is listed). -/
def tmod {α : Type} (t : Tbl α) (k : Nat) (d : α) (f : α → α) : Tbl α := tput t k (f (tgetD t k d))

/-- The keys are strictly rising. -/
def keysRise {α : Type} (t : Tbl α) : Bool :=
  match t with
  | [] => true
  | [_] => true
  | (a, _) :: (b, y) :: r => decide (a < b) && keysRise ((b, y) :: r)

/-- A byte memory: addresses strictly rising, no listed byte equal to 0, the value an unlisted address reads as. -/
abbrev Mem := List Host.Cell

/-- What an unlisted address of a byte memory reads as: HBM is zero-filled at every cold start and remap (R244) and the
scratchpads are scrubbed to 0 (R146). -/
def memDefault : Byte := 0

/-- The byte at address `a`. -/
def memGet (m : Mem) (a : Nat) : Byte := tgetD m a memDefault

/-- Writes one byte, keeping the canonical form. -/
def memPut (m : Mem) (a : Nat) (b : Byte) : Mem := if b = memDefault then tdel m a else tput m a b

/-- Writes consecutive bytes from address `a`. -/
def memPutL (m : Mem) (a : Nat) (bs : List Byte) : Mem :=
  match bs with
  | [] => m
  | b :: r => memPutL (memPut m a b) (a + 1) r

/-- `n` consecutive bytes from address `a`. -/
def memGetL (m : Mem) (a n : Nat) : List Byte := (List.range n).map (fun i => memGet m (a + i))

/-- Clears every listed byte from `a` up to `a + n`. -/
def memZero (m : Mem) (a n : Nat) : Mem := m.filter (fun c => c.1 < a || a + n ≤ c.1)

/-- The canonical form of a byte memory. -/
def Memory.wf (m : Mem) : Bool := keysRise m && m.all (fun c => c.2 ≠ memDefault)

/-- Little-endian value of bytes (R6). -/
def leVal (bs : List Byte) : Nat :=
  match bs with
  | [] => 0
  | b :: r => b.toNat + 256 * leVal r

/-- The `n` little-endian bytes of `v` (R6). -/
def leBytes (n v : Nat) : List Byte :=
  match n with
  | 0 => []
  | n + 1 => BitVec.ofNat 8 v :: leBytes n (v / 256)

/-- The `n` bytes of `v`, most significant first (Imael, Ethernet and IPFIX fields, R6). -/
def beBytes (n v : Nat) : List Byte := (leBytes n v).reverse

/-- Value of bytes sent most significant first. -/
def beVal (bs : List Byte) : Nat := leVal bs.reverse

/-- Bits `lo` to `lo + len - 1` of a number (R6, R8). -/
def bits (w lo len : Nat) : Nat := (w >>> lo) % 2 ^ len

/-- Bit `i` of a number. -/
def bit (w i : Nat) : Bool := bits w i 1 = 1

/-- A field value placed at bit `lo`, `len` bits wide. -/
def fieldAt (lo len v : Nat) : Nat := (v % 2 ^ len) <<< lo

/-- `w` with its bits `lo` to `lo + len - 1` replaced by `v`. -/
def setBits (w lo len v : Nat) : Nat := (w - fieldAt lo len (bits w lo len)) + fieldAt lo len v

/-- A Boolean as one bit. -/
def b1 (b : Bool) : Nat := if b then 1 else 0

/-- Quotient rounded up. -/
def cdiv (a b : Nat) : Nat := (a + b - 1) / b

/-- A two's-complement reading of the low `n` bits. -/
def sbits (w n : Nat) : Int := if 2 ^ (n - 1) ≤ w % 2 ^ n then ((w % 2 ^ n : Nat) : Int) - ((2 ^ n : Nat) : Int) else ((w % 2 ^ n : Nat) : Int)

/-- Replaces element `i` of a list. -/
def lset {α : Type} (l : List α) (i : Nat) (v : α) : List α :=
  match l, i with
  | [], _ => []
  | _ :: r, 0 => v :: r
  | x :: r, i + 1 => x :: lset r i v

/-- Removes element `i` of a list. -/
def ldel {α : Type} (l : List α) (i : Nat) : List α :=
  match l, i with
  | [], _ => []
  | _ :: r, 0 => r
  | x :: r, i + 1 => x :: ldel r i

/-- Element `i` of a list. -/
def lget {α : Type} (l : List α) (i : Nat) : Option α :=
  match l, i with
  | [], _ => none
  | x :: _, 0 => some x
  | _ :: r, i + 1 => lget r i

/-- The index of the first element that satisfies `p`. -/
def lfind {α : Type} (l : List α) (p : α → Bool) : Option Nat :=
  match l with
  | [] => none
  | x :: r => if p x then some 0 else (lfind r p).map (· + 1)

end Sys2Proof.Machine
end

