-- ==== Sys2Proof/Machine/Sha3.lean ====
section
/-!
DEFINITION. SHA3-256 of FIPS 202, which R376, R461, R520, R535–R537, R546 and R549 name: 25 lanes of 64 bits, lane (x, y) at index x + 5y.
-/

namespace Sys2Proof.Machine

def lane (a : List Nat) (x y : Nat) : Nat := a.getD (x % 5 + 5 * (y % 5)) 0
def lanes (f : Nat → Nat → Nat) : List Nat := (List.range 25).map (fun i => f (i % 5) (i / 5))
def rotl64 (v n : Nat) : Nat := if n = 0 then v else (v <<< n ||| v >>> (64 - n)) % 2 ^ 64

/-- The column parities and what each column adds to its neighbours. -/
def kTheta (a : List Nat) : List Nat :=
  let c := (List.range 5).map (fun x => lane a x 0 ^^^ lane a x 1 ^^^ lane a x 2 ^^^ lane a x 3 ^^^ lane a x 4)
  lanes (fun x y => lane a x y ^^^ c.getD ((x + 4) % 5) 0 ^^^ rotl64 (c.getD ((x + 1) % 5) 0) 1)

/-- Rotation of lane (x, y), x + 5y. -/
def kOffsets : List Nat :=
  [0, 1, 62, 28, 27, 36, 44, 6, 55, 20, 3, 10, 43, 25, 39, 41, 45, 15, 21, 8, 18, 2, 61, 56, 14]

/-- Rotation and transposition: lane (y, 2x + 3y) takes lane (x, y); so lane (x, y) takes lane (x + 3y, x). -/
def kRhoPi (a : List Nat) : List Nat :=
  lanes (fun x y => rotl64 (lane a (x + 3 * y) x) (kOffsets.getD ((x + 3 * y) % 5 + 5 * x) 0))

def kChi (a : List Nat) : List Nat :=
  lanes (fun x y => lane a x y ^^^ ((2 ^ 64 - 1 - lane a (x + 1) y) &&& lane a (x + 2) y))

def kConsts : List Nat :=
  [0x1, 0x8082, 0x800000000000808A, 0x8000000080008000, 0x808B, 0x80000001, 0x8000000080008081, 0x8000000000008009, 0x8A, 0x88, 0x80008009,
   0x8000000A, 0x8000808B, 0x800000000000008B, 0x8000000000008089, 0x8000000000008003, 0x8000000000008002, 0x8000000000000080, 0x800A,
   0x800000008000000A, 0x8000000080008081, 0x8000000000008080, 0x80000001, 0x8000000080008008]

def kRound (a : List Nat) (rc : Nat) : List Nat :=
  let b := kChi (kRhoPi (kTheta a))
  lset b 0 (lane b 0 0 ^^^ rc)

def keccakF (a : List Nat) : List Nat := kConsts.foldl kRound a

/-- Takes one block of 136 bytes into the state. -/
def kAbsorb (a : List Nat) (blk : List Byte) : List Nat :=
  keccakF (lanes (fun x y => lane a x y ^^^ leVal ((blk.drop (8 * (x + 5 * y))).take 8)))

/-- The padding: 06H, zeros, and 80H in the last byte of the block. -/
def kPad (m : List Byte) : List Byte :=
  let n := 136 - m.length % 136
  if n = 1 then m ++ [0x86] else m ++ 0x06 :: (List.replicate (n - 2) 0 ++ [0x80])

/-- SHA3-256. -/
def sha3 (m : List Byte) : List Byte :=
  let p := kPad m
  let a := (List.range (p.length / 136)).foldl (fun a i => kAbsorb a ((p.drop (136 * i)).take 136)) (List.replicate 25 0)
  (List.range 4).flatMap (fun x => leBytes 8 (lane a x 0))

end Sys2Proof.Machine
end

