-- ==== Sys2Proof/Machine/FabTypes.lean ====
section
/-!
DEFINITION. The plain data of fabric links (12), of packets, flows and collectives (13).
-/

namespace Sys2Proof.Machine

/-- A flit (R349): its header as a number and its body bytes in use. -/
structure Flit where
  hdr : Nat
  body : List Byte
deriving DecidableEq, Repr

/-- A flit in a retry buffer (R354): its SEQ, its packet, and whether it has been acknowledged. -/
structure RetryFlit where
  seq : Nat
  pkt : Nat
  flit : Flit
  acked : Bool
deriving DecidableEq, Repr

/-- A packet that waits on, or leaves by, a link (R361): its number, VC, the flits not yet sent, whether its EOP is among them
or sent, the receive pool it occupies (link, VC), whether its first flit has left, its destination, the slice whose outbound staging holds its
flits (R210), and whether its transit has been measured (R481). -/
structure TxPkt where
  id : Nat
  vc : Nat
  flits : List Flit
  whole : Bool
  src : Option (Nat × Nat)
  begun : Bool
  dst : Nat
  stage : Option Nat
  seen : Bool
deriving DecidableEq, Repr

/-- What becomes of a packet in a receive pool (R379, R387): not yet routed, addressed to this device, in transit by a port and
link, or dropped while flits of it still arrive. -/
inductive RxWay where
  | fresh | local_ | transit (port link : Nat) | dropped
deriving DecidableEq, Repr

/-- A packet in a receive pool (R211): its number, flits, how many are held, whether its EOP has come, its way, and the
TEL_TIME at which its SOP was accepted (R481). -/
structure RxPkt where
  id : Nat
  flits : List Flit
  held : Nat
  whole : Bool
  way : RxWay
  t0 : Nat
deriving DecidableEq, Repr

/-- A slot that a link sends (R343, R347, R351): a control slot with its position, its message and the message's content, or a data slot with
its link word and flit; each with the CRC-32 of R348. -/
inductive SlotTx where
  | control (pos msg content crc : Nat)
  | data (word : Nat) (flit : Option Flit) (crc : Nat)
deriving DecidableEq, Repr

/-- A fabric link (R342–R366). `st` is LNK_STATUS.STATE; `go` lets a link that is down start training; `downTx` is the cause it
sends in DOWN; `chg` lists the VCs whose freed count is unreported, oldest first; `plinks` the link count of the partner's PARAM;
`lim` LNK_CFG as taken at the last training (R368); `rtt` the largest ECHO round trip of this training, ns; `tries` the failed attempts since
the last UP and `fails` those of this series (R365, R368); `cw` the times of the uncorrectable codewords of the last millisecond (R362);
`share` the flits of each VC sent in this round of the sharing by WEIGHT (R384). -/
structure Link where
  st : Nat
  tries : Nat
  refuse : Nat
  laneOk : Nat
  rev : Bool
  win : Bool
  go : Bool
  downTx : Option Nat
  pos : Nat
  txSeq : Nat
  retry : List RetryFlit
  replay : Option Nat
  nakUntil : Nat
  replays : Nat
  rxExp : Nat
  nak : Bool
  sent : Tbl Nat
  cc : Tbl Nat
  freed : Tbl Nat
  chg : List Nat
  step : Nat
  txq : List TxPkt
  rx : Tbl (List RxPkt)
  msgs : List (Nat × Nat)
  echoes : List Nat
  plinks : Nat
  lim : Nat
  rtt : Nat
  fails : Nat
  cw : List Nat
  share : Tbl Nat
  out : Option SlotTx
deriving DecidableEq, Repr

/-- A link as a device reset leaves it (R368). -/
def Link.reset : Link :=
  ⟨0, 0, 0, 0, false, false, false, none, 0, 0, [], none, 0, 0, 0, false, [], [], [], [], 0, [], [], [], [], 0, 0, 0, 0, [], [], none⟩

/-- A fabric port: its part in the damper (R484: flits sent in this window, congested, packets that have left while it was), and
in discovery (R377, R378: partner matches, DISC hash agrees, MISMATCH held by the peer lock). -/
structure Port where
  sent : Nat
  cong : Bool
  cnt : Nat
  match_ : Bool
  disc : Bool
  lock : Bool
deriving DecidableEq, Repr

/-- A port before its first window. -/
def Port.reset : Port := ⟨0, false, 0, false, false, false⟩

/-- A collective packet to be sent (R374): KIND, entry, rank of the sender, EPOCH, bucket, offset, backup mark, payload. -/
structure ColPkt where
  kind : Nat
  coll : Nat
  rank : Nat
  epoch : Nat
  b : Nat
  off : Nat
  bk : Bool
  data : List Byte
deriving DecidableEq, Repr

/-- An unacknowledged packet of a send flow (R388): SEQ, its routing header and the body after it as first sent, resends, and the
collective instance it belongs to (entry, EPOCH). -/
structure Unacked where
  seq : Nat
  hdr : List Byte
  body : List Byte
  resends : Nat
  coll : Nat
  epoch : Nat
deriving DecidableEq, Repr

/-- A send flow (R386, R388, R486): partitions, peer device, VC, next SEQ, unacknowledged packets, packets that wait for the
window of 1,024 or for the damper, whether it has failed; the damper's limit in MB/s (0: unlimited), the TEL_TIME of the last cut,
and the TEL_TIME at which the limit lets the next packet start. -/
structure SendFlow where
  id : Nat
  spart : Nat
  dpart : Nat
  dev : Nat
  vc : Nat
  next : Nat
  un : List Unacked
  wait : List ColPkt
  failed : Bool
  limit : Nat
  cutAt : Option Nat
  freeAt : Nat
deriving DecidableEq, Repr

/-- A receive flow (R386, R387, R459): BASE, the SEQs marked above it, acceptances not yet acknowledged, the SEQ of the next ACK. -/
structure RecvFlow where
  id : Nat
  spart : Nat
  dpart : Nat
  dev : Nat
  vc : Nat
  base : Nat
  marks : List Nat
  pend : Nat
  ackSeq : Nat
deriving DecidableEq, Repr

/-- A collective message that has been accepted and not yet handled (R374, R396): local partition, the sender's device and partition,
entry, KIND, SRC_RANK, EPOCH, bucket, offset, backup mark, payload. -/
structure ColMsg where
  part : Nat
  dev : Nat
  spart : Nat
  coll : Nat
  kind : Nat
  rank : Nat
  epoch : Nat
  b : Nat
  off : Nat
  bk : Bool
  data : List Byte
deriving DecidableEq, Repr

/-- A contribution, block or broadcast bucket as it arrives (R396, R399): bucket, rank, whether it is the backup's copy, its
pieces by offset, and whether it has been taken. -/
structure Contrib where
  b : Nat
  rank : Nat
  bk : Bool
  got : List (Nat × List Byte)
  taken : Bool
deriving DecidableEq, Repr

/-- Bytes moved with a peer for the digest log (R398): peer device and partition, direction (1 received), bucket, offset, data. -/
structure DigPart where
  dev : Nat
  part : Nat
  dir : Nat
  b : Nat
  off : Nat
  data : List Byte
deriving DecidableEq, Repr

/-- A FETCH that has been sent (R399, R401): bucket, offset, the rank asked, whether it asks for a backup contribution. -/
structure FetchReq where
  b : Nat
  off : Nat
  rank : Nat
  bk : Bool
deriving DecidableEq, Repr

/-- A loaded collective entry and its instance (R389–R404): the entry's 512 bits, ranks, own rank, the group's entries, its data VC;
STATE, FAIL, EPOCH, INT_SAT; ACT_LEN once known; bytes written by bucket, of this instance and of the next; buckets in flight, buckets
whose operation has run, buckets released, buckets whose part of RECV is written, and bytes of RECV written by bucket; contributions;
COUNTS received; ranks past their deadline by bucket; children that have sent DONE, children pruned, ranks served by unicast; FETCHes;
digest pieces; DONE sent; participating ranks of a MULTICAST; the ranges of SEND written before the flush, of this instance and of the next
(R393); pieces of a tree's data that have arrived: bucket, offset, bytes (R401); the pieces that some child has taken and another has not, oldest
first: bucket, offset, bytes, and when the first child took it (R206, R400). -/
structure ColEnt where
  raw : Nat
  n : Nat
  self : Nat
  grp : List Nat
  vc : Nat
  st : Nat
  fail : Nat
  epoch : Nat
  sat : Bool
  act : Option Nat
  cnt : Tbl Nat
  cntN : Tbl Nat
  flight : List Nat
  ran : List Nat
  ended : List Nat
  wrote : List Nat
  got : Tbl Nat
  held : List Contrib
  counts : Tbl Nat
  late : List (Nat × Nat)
  kids : List Nat
  pruned : List Nat
  uni : List Nat
  fetches : List FetchReq
  dig : List DigPart
  doneTx : Bool
  mask : List Nat
  writ : List (Nat × Nat)
  writN : List (Nat × Nat)
  pcs : List (Nat × Nat × Nat)
  ents : List (Nat × Nat × Nat × Nat)
deriving DecidableEq, Repr

/-- An entry as it is loaded: EPOCH 0, armed (R389). `act` is ACT_LEN where CTL_EN = 0. -/
def ColEnt.load (raw n self : Nat) (grp : List Nat) (vc : Nat) (act : Option Nat) : ColEnt :=
  ⟨raw, n, self, grp, vc, 1, 0, 0, false, act, [], [], [], [], [], [], [], [], [], [], [], [], [], [], [], false, [], [], [], [], []⟩

/-- An entry whose instance runs: with its start INT_SAT means this instance (R408). -/
def ColEnt.run (e : ColEnt) : ColEnt := if e.st = 1 then { e with st := 2, sat := false } else { e with st := 2 }

/-- An entry armed again for the next instance, with the bytes already written for it (R397, R404). -/
def ColEnt.rearm (e : ColEnt) (act : Option Nat) : ColEnt :=
  { ColEnt.load e.raw e.n e.self e.grp e.vc act with epoch := (e.epoch + 1) % 4294967296, sat := e.sat, cnt := e.cntN, writ := e.writN }

end Sys2Proof.Machine
end

