-- ==== Sys2Proof/Machine/HearthTypes.lean ====
section
/-!
DEFINITION. The plain data of a hearth: scratchpads and slots (05), matrix arrays (03), vector engine (04).
-/

namespace Sys2Proof.Machine

/-- A slot of 16 rows (R135). `by_` is the task whose pass, invocation, operation or transfer holds the reservation, as its
task id plus 1 (0: none). -/
structure Slot where
  full : Bool
  rsv : Bool
  touched : Bool
  by_ : Nat
deriving DecidableEq, Repr

/-- A slot that nothing has changed: EMPTY, not reserved, not touched (R137). -/
def Slot.empty : Slot := ⟨false, false, false, 0⟩

/-- A row waiting in its bank's write buffer (R131). -/
structure WbRow where
  mem : Nat
  row : Nat
  data : List Byte
deriving DecidableEq, Repr

/-- A fill or copy that passed its checks (R144): opcode, absolute first rows, count, fill word, task, and the rows already written. -/
structure SpdOp where
  op : Nat
  dst : Nat
  rows : Nat
  src : Nat
  value : Nat
  own : Nat
  done : Nat
deriving DecidableEq, Repr

/-- The operation unit of one memory (R144): operations queued, the head running when `run`. -/
structure OpUnit where
  q : List SpdOp
  run : Bool
deriving DecidableEq, Repr

/-- The three memories of a hearth with their slots and handles (R127–R150). `ues` holds the rows (memory × 65536 + row) and words at which an
uncorrectable error was found since a task last completed (R149). -/
structure Scratch where
  wm : Mem
  am : Mem
  pm : Mem
  wbuf : List WbRow
  slots : Tbl Slot
  handles : Tbl Nat
  op0 : OpUnit
  op1 : OpUnit
  op2 : OpUnit
  scrub : Bool
  ues : List (Nat × Nat)
deriving DecidableEq, Repr

/-- A tile in a weight set (R71–R74): task, pass number, blocks (j, t) it was loaded for, format, N, valid K-rows, element
codes k × N + n and scale codes (k div 32) × N + n. -/
structure WTile where
  own : Nat
  seq : Nat
  j : Nat
  t : Nat
  fmt : Nat
  n : Nat
  kv : Nat
  cells : List Nat
  scales : List Nat
deriving DecidableEq, Repr

/-- An accumulator set (R80): state 0 free, 1 preloading, 2 accumulating, 3 draining; the task, pass and output tile it serves; values
keyed row × 256 + column (unlisted: +0); drain cycles left. -/
structure AccSet where
  st : Nat
  own : Nat
  seq : Nat
  j : Nat
  vals : Tbl Nat
  left : Nat
deriving DecidableEq, Repr

/-- A free accumulator set. -/
def AccSet.free : AccSet := ⟨0, 0, 0, 0, [], 0⟩

/-- A pass in a pass queue (R77, R79): its 256-bit descriptor, its task and pass number, the cycles since it entered, the
position (j, t, i) of its next row, whether the block's tile is active, preloads started, and the next tile to load. -/
structure Pass where
  desc : Nat
  own : Nat
  seq : Nat
  age : Nat
  j : Nat
  t : Nat
  i : Nat
  sw : Bool
  pre : Nat
  lj : Nat
  lt : Nat
deriving DecidableEq, Repr

/-- An output tile whose rows have all entered (R81): its pass, index, set, and whether its drain has started. -/
structure OutTile where
  desc : Nat
  own : Nat
  seq : Nat
  j : Nat
  set : Nat
  drain : Bool
deriving DecidableEq, Repr

/-- One matrix array. -/
structure MxArray where
  active : Option WTile
  shadow : Option WTile
  q : List Pass
  set0 : AccSet
  set1 : AccSet
  outs : List OutTile
deriving DecidableEq, Repr

/-- An idle array. -/
def MxArray.idle : MxArray := ⟨none, none, [], .free, .free, []⟩

/-- The two arrays of a hearth and the shared tile loader (R71, R72): the arrays that wait for it, the array it loads and the cycles left of that
load. -/
structure Matrix where
  a0 : MxArray
  a1 : MxArray
  ldReq : List Nat
  ldBusy : Option Nat
  ldLeft : Nat
deriving DecidableEq, Repr

/-- An element register: the format code of its static type (11: E8M0 codes) and its element codes (unlisted: 0, R110). -/
structure EReg where
  ty : Nat
  v : Tbl Nat
deriving DecidableEq, Repr

/-- A reference to a finished output tile (R118, R126). -/
structure TqEntry where
  own : Nat
  handle : Nat
  row : Nat
  offset : Nat
  ncode : Nat
  int : Bool
  array : Nat
  valid : Nat
  seq : Nat
  tile : Nat
deriving DecidableEq, Repr

/-- Tile-queue entries a pass has reserved and not yet pushed (R118). -/
structure TqResv where
  own : Nat
  array : Nat
  seq : Nat
  count : Nat
deriving DecidableEq, Repr

/-- An invocation (R101): its 1,024-bit descriptor, its task and number, its rows, and the tile it takes. -/
structure Invoc where
  desc : Nat
  own : Nat
  seq : Nat
  rows : Nat
  tq : Option TqEntry
deriving DecidableEq, Repr

/-- When a register was last written, for the issue rule of R112: issue cycle, latency, chunks, and whether by a reduction. -/
structure Wrote where
  t : Nat
  l : Nat
  n : Nat
  red : Bool
deriving DecidableEq, Repr

/-- Output slots of an invocation whose last store has issued (R137). -/
structure OutFull where
  own : Nat
  slots : List Nat
deriving DecidableEq, Repr

/-- The vector engine of a hearth (R99). `stateOwn` is the task whose state the registers hold (R100), as task id plus 1. -/
structure Vector where
  e : Tbl EReg
  a : Tbl Nat
  vl : Nat
  r : Nat
  seg : Nat
  pc : Nat
  prog : Tbl Nat
  q : List Invoc
  running : Bool
  tq : List TqEntry
  resv : List TqResv
  draw : Nat
  stateOwn : Nat
  clk : Nat
  eW : Tbl Wrote
  aW : Tbl Wrote
  stored : List Nat
  outs : List OutFull
deriving DecidableEq, Repr

/-- The vector engine after a hearth reset. -/
def Vector.reset : Vector := ⟨[], [], 0, 0, 0, 0, [], [], false, [], [], 0, 0, 0, [], [], [], []⟩

/-- Scratchpads after a scrub (R146). -/
def Scratch.reset : Scratch := ⟨[], [], [], [], [], [], ⟨[], false⟩, ⟨[], false⟩, ⟨[], false⟩, false, []⟩

/-- The arrays after a hearth reset. -/
def Matrix.reset : Matrix := ⟨.idle, .idle, [], none, 0⟩

end Sys2Proof.Machine
end

