-- ==== Sys2Proof/Machine/StreamTypes.lean ====
section
/-!
DEFINITION. The plain data of flues, bellows and their requests (06), of the hearth's translation buffer (09), of a task
bound to a hearth (10), and of the hearth as a whole.
-/

namespace Sys2Proof.Machine

/-- An entry of the generation watch list (R169): frame, generation, task, engine, slots covered (memory × 4096 + slot), STALE mark, and the
tile or element of the request that took it (descriptor number × 65536 + index). -/
structure Watch where
  frame : Nat
  gen : Nat
  own : Nat
  eng : Nat
  slots : List Nat
  stale : Bool
  tile : Nat
deriving DecidableEq, Repr

/-- What an outstanding request of a hearth is for (R158, R166): tile data, a descriptor burst, bellows data, an outbound
write, or a hint. -/
inductive ReqKind where
  | tile | burst | elem | write | hint
deriving DecidableEq, Repr

/-- An outstanding request of a hearth (R163–R166): its number, use, engine (flues 0–7, bellows 8–9), task, whether it was
made for a stream that has since been cancelled, the virtual and physical address, key slot, length, bank group, first
destination row (memory × 65536 + row), whether it uses the bellows' own pool of 256, the tile or element it belongs to
(descriptor number × 65536 + index), and the engine under which it counts (R178: RUN_FLUE for a RUN-mode gather). -/
structure HReq where
  id : Nat
  kind : ReqKind
  eng : Nat
  own : Nat
  dead : Bool
  va : Nat
  pa : Nat
  k : Nat
  len : Nat
  bg : Nat
  dst : Nat
  pool : Bool
  tile : Nat
  cnt : Nat
deriving DecidableEq, Repr

/-- A tile, or a bellows destination slot, that has started (R167, R168): index, first row and rows, due cycle relative to the
task's start, reached, rows landed, whether it belongs to the descriptor now running, and the index that the engine's log names (R187,
R191). -/
structure Tile where
  idx : Nat
  mem : Nat
  row : Nat
  rows : Nat
  due : Option Int
  reached : Bool
  got : Nat
  now : Bool
  elem : Nat
deriving DecidableEq, Repr

/-- A response on its way to a hearth (R166): the request's number, its data, and the uncorrectable-error indication. -/
structure Resp where
  id : Nat
  data : List Byte
  ue : Bool
deriving DecidableEq, Repr

/-- A page under walk for a hearth (R256): page, task, engine, the tile or element named in the engine's log, whether a
write asked, and whether a hint did. -/
structure Walk where
  vpn : Nat
  own : Nat
  eng : Nat
  tile : Nat
  wr : Bool
  hint : Bool
deriving DecidableEq, Repr

/-- A hint that waits to be issued (R176): flue, task's partition address and length. -/
structure Hint where
  flue : Nat
  va : Nat
  len : Nat
deriving DecidableEq, Repr

/-- A descriptor burst in flight (R162): its request, its entries, and their bytes once they have arrived. -/
structure Fly where
  id : Nat
  n : Nat
  data : Option (List Byte)
deriving DecidableEq, Repr

/-- A read request of a stream (R163): its descriptor, the tile or element it belongs to (descriptor number × 65536 + index), its address and
length (0: an element of index 0xFFFF_FFFF), its destination, the destination's first row and rows, and their due cycle. -/
structure ReadReq where
  d : Nat
  unit : Nat
  va : Nat
  len : Nat
  mem : Nat
  row : Nat
  first : Nat
  rows : Nat
  due : Option Int
deriving DecidableEq, Repr

/-- A stream on a flue or bellows (R159–R162, R178): its task, first and next descriptor address, buffered descriptors,
bursts in flight, requests that the bank-group cap holds back while later ones issue (R164), the running descriptor, the ring position, the
next tile or element and byte within it, started tiles, END taken, whether the next outbound tile has been read and its bytes, the
descriptors reached, its first IN descriptor (R176), and the replay mark of R209. -/
structure Stream where
  own : Nat
  first : Nat
  ptr : Nat
  buf : List Nat
  fly : List Fly
  skip : List ReadReq
  cur : Option Nat
  ring : Nat
  tile : Nat
  off : Nat
  tiles : List Tile
  ended : Bool
  outRead : Bool
  outData : List Byte
  ndesc : Nat
  firstIn : Option Nat
  replay : Bool
deriving DecidableEq, Repr

/-- A stream at its first descriptor (R172). -/
def Stream.start (own first : Nat) (replay : Bool) : Stream :=
  ⟨own, first, first, [], [], [], none, 0, 0, 0, [], false, false, [], 0, none, replay⟩

/-- An engine's current and next stream (R159), whether the next stream issues, the last stall cause counted (R181; 15 none),
the stream of a task bound while a draining and a running task still hold the two (R296, R298), and whether a request of it was looked for in the
present core cycle. -/
structure Engine where
  cur : Option Stream
  next : Option Stream
  more : Option Stream
  go : Bool
  cause : Nat
  seen : Bool
deriving DecidableEq, Repr

/-- An engine with no stream. -/
def Engine.idle : Engine := ⟨none, none, none, false, 15, false⟩

/-- Stride memory of a flue for one SID (R176): VA of tile 0 of the last start, last delta, equal deltas in a row, and the
first IN descriptor. -/
structure Stride where
  sid : Nat
  va : Nat
  delta : Int
  same : Nat
  desc : Nat
deriving DecidableEq, Repr

/-- A TLB entry (R255): page, partition, frame, generation, leaf bits W, COW, key slot, parity bit. -/
structure TlbEnt where
  vpn : Nat
  part : Nat
  frame : Nat
  gen : Nat
  w : Bool
  cow : Bool
  k : Nat
  par : Bool
deriving DecidableEq, Repr

/-- A schedule entry that has not issued (R290): issue cycle, descriptor bits, size code. -/
structure SchedEnt where
  cycle : Nat
  desc : Nat
  size : Nat
deriving DecidableEq, Repr

/-- A buffer of a bound task's handle list (R289, R296): handle, identity, completion action, whether it was installed by
the binding (else held before it). -/
structure Bound where
  handle : Nat
  buf : Nat
  action : Nat
  inst : Bool
deriving DecidableEq, Repr

/-- A job: one query block (R328): its length-table entry (KV_VA, CAP, KEYS, QROWS, Q_INDEX), first new token and tokens, key end, and the
index of its first partial record when it is split (R334, R336). -/
structure AttJob where
  kv : Nat
  cap : Nat
  keys : Nat
  qrows : Nat
  qidx : Nat
  t0 : Nat
  toks : Nat
  kend : Nat
  split : Option Nat
deriving DecidableEq, Repr

/-- A unit of a WORK task: a job's index, its first segment and one past its last (R333). -/
structure AttUnit where
  job : Nat
  g0 : Nat
  g1 : Nat
  cost : Nat
deriving DecidableEq, Repr

/-- A plan (R332–R335): the group's graph and descriptor with PHASE and INDEX 0, the length table, jobs, the units of each WORK task in
the order received, pages of the partial buffer, merge items, largest load, units, and the group's tasks still in flight. -/
structure Plan where
  graph : Nat
  desc : Nat
  ents : List Nat
  jobs : List AttJob
  work : List (List AttUnit)
  pages : Nat
  items : Nat
  maxLoad : Nat
  units : Nat
  splits : Nat
  left : Nat
deriving DecidableEq, Repr

/-- A task bound to a hearth (R296, R298): its partition, graph, descriptor, schedule left, programs, buffers, semaphores
held, flags, sequence numbers, seed, start cycle, an abort code that waits for its first cycle (R162, R175), and its ATTEND
descriptor (R320; 0: none) with its group's plan. -/
structure TaskRun where
  id : Nat
  part : Nat
  graph : Nat
  desc : Nat
  sched : List SchedEnt
  progs : List Nat
  bufs : List Bound
  sems : List Nat
  cvt : Nat
  sat : Nat
  passSeq : Nat
  invSeq : Nat
  seed : Nat
  start : Nat
  mark : Option Nat
  att : Nat
  plan : Option Plan
deriving DecidableEq, Repr

/-- A hearth (R21): engines, tasks, translation buffer, and its place in the device (R293, R436, R502, R505, R511). -/
structure Hearth where
  spd : Scratch
  mx : Matrix
  vec : Vector
  flues : Tbl Engine
  bellows : Tbl Engine
  reqs : List HReq
  nextId : Nat
  land : Tbl (Nat × Nat)
  watch : List Watch
  stride : Tbl (List Stride)
  unread : List (Nat × Nat)
  tlb : List TlbEnt
  walks : List Walk
  resps : List Resp
  hints : List Hint
  cur : Option TaskRun
  drain : Option TaskRun
  next : Option TaskRun
  part : Option Nat
  leaving : Bool
  inReset : Bool
  oos : Bool
  held : Bool
  prevCycles : Nat
  faults : List Nat
deriving DecidableEq, Repr

/-- A hearth after a hearth reset, in no partition (R146, R177, R259, R295, R502). -/
def Hearth.fresh : Hearth :=
  ⟨.reset, .reset, .reset, [], [], [], 0, [], [], [], [], [], [], [], [], none, none, none, none, false, false, false, false, 0, []⟩

end Sys2Proof.Machine
end

