-- ==== Sys2Proof/Machine/GraphTypes.lean ====
section
/-!
DEFINITION. The plain data of a partition's graph engine and planner (10, 11).
-/

namespace Sys2Proof.Machine

/-- Where a task in flight is (R286, R291, R292, R307, R309): waiting on its counter, ready, bound to a hearth as next, running,
draining, or held under ABORT_WATCHDOG. -/
inductive TaskPlace where
  | waiting | ready | bound (h : Nat) | running (h : Nat) | draining (h : Nat) | held
deriving DecidableEq, Repr

/-- A task in flight (R286, R287). `deps` is its dependence counter; `front` the stamp of its last requeue (R292; 0: none);
`hearth` where it last ran; `sat` the saturation flags of its last run (R92); `ue` the hearths on which it took ABORT_ECC_UE (R510); `sus`, from the moment it is held, the hearth
where it was held and whether that hearth can be at fault (R516). -/
structure Task where
  id : Nat
  gid : Nat
  idx : Nat
  desc : Nat
  succ : List Nat
  deps : Nat
  place : TaskPlace
  prio : Nat
  urgent : Bool
  front : Nat
  replays : Nat
  preempts : Nat
  lastAbort : Nat
  hearth : Nat
  ue : List Nat
  sus : Option (Nat × Bool)
  sat : Nat
deriving DecidableEq, Repr

/-- A graph queued for load (R284, R425): queue pair, header address, delivery entries; from step mixing, its step number and the
GRAPH_ID it must follow (R315); when its command was accepted (R481). -/
structure LoadReq where
  qp : Nat
  va : Nat
  dels : List Delivery
  mix : Option Nat
  after : Option Nat
  acc : Option Nat
deriving DecidableEq, Repr

/-- A graph that has passed R285 (R286). `tasks` holds the descriptors and successor lists, and `mcg` the multicast list, until
its slots are taken. -/
structure Graph where
  id : Nat
  qp : Nat
  prio : Nat
  urgent : Bool
  after : Option Nat
  status : Nat
  failTask : Nat
  failAbort : Nat
  t0 : Nat
  dels : List Delivery
  mcg : List Nat
  tasks : List (Nat × List Nat)
  mix : Option Nat
  acc : Option Nat
deriving DecidableEq, Repr

/-- A mix item in the mix queue (R312): the queue pair that posted it and its 256 bits. -/
structure MixItem where
  qp : Nat
  bits : Nat
deriving DecidableEq, Repr

/-- A group that waits for its plan (R332): task, graph and ATTEND descriptor. -/
structure PlanReq where
  task : Nat
  graph : Nat
  desc : Nat
deriving DecidableEq, Repr

/-- A partition's graph engine (R282): load queue, the graph loaded and waiting, graphs and tasks in flight, residency map (hearth,
handle, BUF_ID), mix queue, step number, HALT, mixed steps in flight (step, GRAPH_ID), the last step's GRAPH_ID, plans, the group being
planned, whether a task is held for a plan slot, and the stamp of requeues. -/
structure GraphEng where
  loadq : List LoadReq
  loaded : Option Graph
  graphs : List Graph
  tasks : List Task
  resid : List (Nat × Nat × Nat)
  mixq : List MixItem
  step : Nat
  mixHalt : Bool
  mixRun : List (Nat × Nat)
  mixLast : Option Nat
  plans : Tbl Plan
  planReq : Option PlanReq
  planWait : List (Nat × Nat)
  order : Nat
deriving DecidableEq, Repr

/-- Graphs in the load queue (R284): a graph that has passed its checks stays at the head until its slots are free (R286). -/
def loadLen (g : GraphEng) : Nat := g.loadq.length + (if g.loaded.isSome then 1 else 0)

/-- A graph engine after a device reset or at formation (R295, R304). -/
def GraphEng.empty : GraphEng := ⟨[], none, [], [], [], [], 0, false, [], none, [], none, [], 0⟩

end Sys2Proof.Machine
end

