-- ==== Sys2Proof/Machine/HostTypes.lean ====
section
/-!
DEFINITION. The plain data of the host Ethernet port (14): completion records, queue pairs, the messages the port sends.
-/

namespace Sys2Proof.Machine

/-- A completion record that has not been written (R310): its fields, and for a GRAPH record the time at which the engine began to
read the header (its COUNT is taken when it is written); and the TEL_TIME at which the graph command it answers was accepted (R481). -/
structure Rec where
  kind : Nat
  gid : Nat
  task : Nat
  status : Nat
  abort : Nat
  flags : Nat
  hearth : Nat
  replays : Nat
  preempts : Nat
  count : Nat
  tag : Nat
  t0 : Option Nat
  acc : Option Nat
deriving DecidableEq, Repr

/-- A message that the device sends as requester (R417, R421): first PSN, packets, kind (0 SEND, 1 RDMA WRITE, 2 RDMA WRITE with
immediate), payload, host address, R_Key, immediate, and the delivery it belongs to (0: none). -/
structure TxMsg where
  psn : Nat
  pkts : Nat
  op : Nat
  data : List Byte
  va : Nat
  rkey : Nat
  imm : Nat
  del : Nat
deriving DecidableEq, Repr

/-- A graph whose deliveries are under way (R425): number, its GRAPH record, whether a source failed. -/
structure DelRun where
  id : Nat
  record : Rec
  left : Nat
deriving DecidableEq, Repr

/-- A command in a queue pair's command queue (R422, R423): one to perform, one that waits in its turn for a hearth in reset (R38), or a
bad one with its OP and CTAG. All carry the TEL_TIME of their acceptance. -/
inductive Cmd where
  | good (i : Instr) (t : Nat)
  | held (i : Instr) (t : Nat)
  | bad (op ctag t : Nat)
deriving DecidableEq, Repr

/-- A queue pair (R417–R428): commands waiting, records pending, deliveries, unacknowledged messages, the next PSN of each
direction, message sequence number, retries of the oldest PSN, RNR retries, when a CNP was last sent (TEL_TIME), ERR, the damper's limit
in MB/s (0: none) and the TEL_TIME of its last cut, the SEQ of the next record, whether an RNR NAK is waited out, the messages that wait
for the limit (R487), and the TEL_TIME at which it lets the next one start. -/
structure QPair where
  cmds : List Cmd
  recs : List Rec
  dels : List DelRun
  sq : List TxMsg
  sqPsn : Nat
  rqPsn : Nat
  msn : Nat
  retry : Nat
  rnr : Nat
  cnpAt : Option Nat
  err : Nat
  limit : Nat
  nextSeq : Nat
  cutAt : Option Nat
  rnrWait : Bool
  pace : List TxMsg
  freeAt : Nat
deriving DecidableEq, Repr

/-- A queue pair in RESET. -/
def QPair.reset : QPair := ⟨[], [], [], [], 0, 0, 0, 0, 0, none, 0, 0, 0, none, false, [], 0⟩

/-- What the host port sends (R411, R413, R416, R417, R424, R431): a requester's message on a queue pair; an ACK, a NAK or a RDMA
READ response; a Congestion Notification Packet; an ARP reply or Neighbor Advertisement; a PFC frame; an IPFIX message. -/
inductive HostMsg where
  | request (q : Nat) (m : TxMsg)
  | ack (q psn syndrome msn : Nat)
  | readData (q psn : Nat) (data : List Byte)
  | cnp (q : Nat)
  | arpReply (mac ip : Nat)
  | neighborAdv (mac ip6 : Nat)
  | pfc (prio quanta : Nat)
  | ipfix (bytes : List Byte)
deriving DecidableEq, Repr

/-- A message as it leaves the port: its tag, VID and PCP (R410); its ECN field, 2 for ECT(0) (R416, R431); of a message to a queue pair's peer the
DSCP and the peer's QPN, MAC address and IP address, high and low half (R411, R434); UDP ports, from and to, where the spec gives them. -/
structure TxFrame where
  msg : HostMsg
  tag : Option (Nat × Nat)
  ecn : Nat
  dscp : Option Nat
  peer : Option (Nat × Nat × Nat × Nat)
  udp : Option (Option Nat × Nat)
deriving DecidableEq, Repr

/-- A message that stands in the receive pool (R412): its queue pair, its priority, the bytes of its frames, and the request it brings. -/
structure RxMsg where
  q : Nat
  prio : Nat
  bytes : Nat
  cmd : Instr
deriving DecidableEq, Repr

/-- The host port (R409–R416, R431): link up; priorities that the host pauses; priorities on which the device holds XOFF; messages
that wait for a paused priority; the IPFIX sequence number and export time of the templates; next delivery number; the receive pool, oldest first. -/
structure HostPort where
  up : Bool
  paused : Nat
  xoff : Nat
  wait : List (Nat × HostMsg)
  ipfixSeq : Nat
  nextDel : Nat
  pool : List RxMsg
deriving DecidableEq, Repr

/-- What the IPFIX export remembers (R477, R479, R492): the value of each exported counter when it was last sampled, by address, and the
increase not yet exported, by field of a record. -/
structure Ipfix where
  last : Tbl Nat
  owed : Tbl Nat
deriving DecidableEq, Repr

/-- The loop of a firebox (R488): periods of hold left, and the powers of the last periods, newest first. -/
structure PowerLoop where
  hold : Nat
  hist : List Nat
deriving DecidableEq, Repr

end Sys2Proof.Machine
end

