-- ==== Sys2Proof/Machine/MemTypes.lean ====
section
/-!
DEFINITION. The plain data of the chimney's slices (07), the HBM controllers (08) and a partition's translation (09).
-/

namespace Sys2Proof.Machine

/-- A firebox request in a slice's queue (R197, R202): hearth and request number, read, write or hint, partition, physical
address, length, data of a write, ALLOC, multicast group, key slot, the member identity of R205 with its replay mark, whether its stream
has DUE_EN (R214), and the TEL_TIME at which it entered the queue (R481). -/
structure MReq where
  h : Nat
  id : Nat
  wr : Bool
  hint : Bool
  part : Nat
  pa : Nat
  len : Nat
  data : List Byte
  alloc : Bool
  mcast : Nat
  k : Nat
  eng : Nat
  own : Nat
  replay : Bool
  due : Bool
  t0 : Nat
deriving DecidableEq, Repr

/-- A cached line of the general region (R195, R272): partition, line address (PA div 256), key slot, bytes, dirty, poisoned, and
the mark of the second-chance clock (R198). -/
structure Line where
  part : Nat
  addr : Nat
  k : Nat
  data : List Byte
  dirty : Bool
  pois : Bool
  ref : Bool
deriving DecidableEq, Repr

/-- The data of one line on its way: line address, bytes, uncorrectable-error indication. -/
structure LineData where
  addr : Nat
  data : List Byte
  ue : Bool
deriving DecidableEq, Repr

/-- A fill in progress (R199, R203): partition, key slot, its line addresses, those whose line is taken for installation, and
the data once the HBM read is done. -/
structure Fill where
  id : Nat
  part : Nat
  k : Nat
  lines : List Nat
  take : List Nat
  ret : Option (List LineData)
deriving DecidableEq, Repr

/-- A request that is served when its missing lines arrive (R199, R200): the lines still needed and the data held. `mc` marks
a copy taken from a multicast entry. -/
structure MWait where
  req : MReq
  need : List Nat
  got : List LineData
  mc : Bool
deriving DecidableEq, Repr

/-- A member of a multicast group (R205): hearth, engine, task. -/
structure Member where
  h : Nat
  eng : Nat
  own : Nat
deriving DecidableEq, Repr

/-- A multicast group of a partition, one for the four slices (R205, R208, R209): members that have joined, members that have left, the number of
members pruned before they joined, of members pruned, and of entries created. -/
structure McGroup where
  joined : List Member
  left : List Member
  gone : Nat
  pruned : Nat
  made : Nat
deriving DecidableEq, Repr

/-- A multicast entry (R206): 8 pinned lines of a granule. `lines` holds those that no line of the cache holds, `need` those still
filling, `taken` the members that have taken it, `born` its number among the entries created for the group; `cyc` and `boxes` are the base-die cycle of its last copies and
the fireboxes whose bond they crossed (R207). -/
structure McEnt where
  part : Nat
  group : Nat
  gran : Nat
  k : Nat
  lines : List LineData
  need : List Nat
  taken : List Member
  born : Nat
  cyc : Nat
  boxes : List Nat
deriving DecidableEq, Repr

/-- A chimney slice. `lines` lies in clock order (R198); `staging` counts the pinned lines of collective staging buffers by
partition (R392), `stagePois` the partitions that have a poisoned line there (R217); `fillWait` says that a request has found too few
free fill lines (R203); `arbW` and `rates` are the weights of the round in progress (R214). -/
structure Slice where
  lines : List Line
  entries : List McEnt
  staging : Tbl Nat
  stagePois : List Nat
  reqs : List MReq
  fills : List Fill
  waits : List MWait
  nfill : Nat
  fillWait : Bool
  arbW : Nat
  rates : Tbl Nat
  scrub : Bool
  flush : Bool
  patrol : Nat
deriving DecidableEq, Repr

/-- A slice after a device reset (R220, R226): empty, with the reset weights in force. -/
def Slice.empty : Slice := ⟨[], [], [], [], [], [], [], 0, false, 0x10102040830, [], false, false, 0⟩

/-- A read in a pseudo-channel's read queue (R234): the slice and fill it serves. -/
structure HbmRd where
  s : Nat
  fid : Nat
deriving DecidableEq, Repr

/-- A write in a pseudo-channel's write queue (R234, R235): address, bytes, the number of the key they are encrypted
under, whether a poisoned line is written back, and the partition named in MEM_ERR_LOG. -/
structure HbmWr where
  pa : Nat
  data : List Byte
  key : Nat
  pois : Bool
  part : Nat
  pv : Bool
deriving DecidableEq, Repr

/-- A pseudo-channel's controller (R234, R240, R242): queues, postponed refreshes by bank, the granules found with an
uncorrectable word in this patrol pass, whether an access has met its fence, and whether a request has found its read or its write queue
full and still waits for it. -/
structure PsCh where
  rq : List HbmRd
  wq : List HbmWr
  post : Tbl Nat
  ueGr : List Nat
  fenceHit : Bool
  refR : Bool
  refW : Bool
deriving DecidableEq, Repr

def PsCh.idle : PsCh := ⟨[], [], [], [], false, false, false⟩

/-- A stack (R237, R241, R246, R248): MEM_STATUS.STATE, the words in its correction queue, the next patrol slot. -/
structure Stack where
  st : Nat
  corr : List Nat
  patrol : Nat
deriving DecidableEq, Repr

/-- A stack that serves. -/
def Stack.serving : Stack := ⟨2, [], 0⟩

/-- HBM: bytes as written, keyed by physical address (R232); the number of the key each 16-byte block was encrypted
under (R451; 0: the zero fill of R244), and the ranges of blocks (first, one past the last) filled with zeros under a key (R441), newest
first; words with a poison mark (R239); words whose stored bits do not decode (R238: no command of the table stores one, log 14); positions
retired from the interleave (R232). -/
structure Hbm where
  mem : Mem
  tags : Tbl Nat
  zkeys : List (Nat × Nat × Nat)
  pois : Tbl Bool
  ues : Tbl Bool
  dead : List Nat
  pcs : Tbl PsCh
  stk : Tbl Stack
deriving DecidableEq, Repr

/-- HBM after a cold start (R244). -/
def Hbm.zero : Hbm := ⟨[], [], [], [], [], [], [], []⟩

/-- Why a shootdown runs (R268): the end of a ring's operation with the status it will write, a batch that is full, a copy-on-write, or a
rekey. -/
inductive SdWhy where
  | op (ring status : Nat)
  | batch
  | cow
  | rekey
deriving DecidableEq, Repr

/-- A shootdown in progress (R268): the pages, whether they exceed 64, the released frames, the hearths that have yet to
acknowledge, and the write requests each must see acknowledged first (hearth, request). -/
structure Shoot where
  why : SdWhy
  pages : List Nat
  frames : List Nat
  left : List Nat
  writes : List (Nat × Nat)
deriving DecidableEq, Repr

/-- A write that waits for copy-on-write (R270): hearth and engine, task, page, and the tile or element named in the engine's log. -/
structure CowReq where
  h : Nat
  eng : Nat
  own : Nat
  vpn : Nat
  tile : Nat
deriving DecidableEq, Repr

/-- A copy in progress (R270): the request, the shared frame, the frame taken for the copy and the key slot it was taken under (R272). -/
structure CowRun where
  req : CowReq
  src : Nat
  frame : Nat
  k : Nat
deriving DecidableEq, Repr

/-- An operation ring as the update unit runs it (R262, R265): why it is halted (0 not, 1 a failed operation, 2 a ring fault, 3
interrupted by a reset), the record it has read, the next page of the operation begun, whether it waits for its shootdown, the pages and
released frames that join it, and whether the next record is carried out again from its DONE_PAGES. -/
structure RingRun where
  halt : Nat
  cmd : Nat
  page : Option Nat
  fin : Bool
  pages : List Nat
  frames : List Nat
  again : Bool
deriving DecidableEq, Repr

/-- A ring with no operation begun. -/
def RingRun.idle : RingRun := ⟨0, 0, none, false, [], [], false⟩

/-- A REKEY in progress (R273): its ring, its frame, and whether its pages have been shot down. -/
structure RekeyRun where
  ring : Nat
  frame : Nat
  ready : Bool
deriving DecidableEq, Repr

/-- A partition's translation (R260–R274): its two rings, which one the update unit took last, batched pages and released
frames, shootdowns, the pending list, copy-on-write and REKEY. -/
structure Xlt where
  r0 : RingRun
  r1 : RingRun
  last : Nat
  bPages : List Nat
  bFrames : List Nat
  sds : List Shoot
  pend : List Nat
  cow : List CowReq
  cowRun : Option CowRun
  rk : Option RekeyRun
deriving DecidableEq, Repr

/-- Translation with nothing in progress. -/
def Xlt.idle : Xlt := ⟨.idle, .idle, 1, [], [], [], [], [], none, none⟩

/-- A walk at a walker (R256): hearth, partition, and the hearth's record of it. -/
structure WalkReq where
  h : Nat
  part : Nat
  w : Walk
deriving DecidableEq, Repr

/-- An L1 entry in a walk cache (R256): base die, partition, VA[47:28], the frame and key slot it names. -/
structure WalkEnt where
  die : Nat
  part : Nat
  hi : Nat
  frame : Nat
  k : Nat
deriving DecidableEq, Repr

/-- A partition (R436–R445, R451, R457): STATE (0 FREE, 1 FORMING, 2 FORMED, 3 DISSOLVING); the numbers of the memory keys in
its two slots (0: empty) and which were imported; units held and units leaving; first HBM block and blocks; formations; formed with
ZERO_FILL; the numbers of the two fabric keys and their USED bits; last accepted KEY_SEQ of each kind; the sweep (0 none, 1 nothing posted,
4 a REKEY posted, 5 a failed one skipped, 2 its REKEY_META posted) and the page it has reached; whether OVER_QUOTA was 1. -/
structure Part where
  st : Nat
  key0 : Nat
  key1 : Nat
  src : Nat
  units : Nat
  leaving : Nat
  lo : Nat
  blks : Nat
  count : Nat
  zeroed : Bool
  fab0 : Nat
  fab1 : Nat
  used : Nat
  seqMem : Nat
  seqFab : Nat
  sweep : Nat
  sweepVpn : Nat
  over_ : Bool
deriving DecidableEq, Repr

/-- A partition that has never been formed. -/
def Part.none_ : Part := ⟨0, 0, 0, 0, 0, 0, 0, 0, 0, false, 0, 0, 0, 0, 0, 0, 0, false⟩

end Sys2Proof.Machine
end

