-- ==== Sys2Proof/Machine/RegMap.lean ====
section
/-!
DEFINITION. The register map of the control space: one name for each row of the register tables of spec/ (R93, R120, R151,
R182, R188, R225, R247, R278, R317, R339, R367, R370, R405, R407, R433, R467, R470, R493, R495, R526, R528, R554, R556), with the
offset in its block, its indices, its reset value, the bits that software may write (by anyone who reaches it, or by the
Stoker alone), the bits cleared by writing 1, and the width of a counter that CNT_CLR clears. Bits in none of the masks
are read-only, write-only or reserved (R13, R14). Bases: R9, R10, R35, R278, R317, R339, R367, R405, R407, R433, R467, R470, R493.
-/

namespace Sys2Proof.Machine

/-- The names of the registers. -/
inductive RegId where
  | mxaCap | mxaCtrl | mxaStatus | mxaTaskFlags | mxaErrLog | mxaErrCount | mxaValidRowsA | mxaBubGapA | mxaBubDrainA
  | mxaBubAccldA | mxaBubLoadA | mxaBubFeedA | mxaBubMaskA | mxaPassesA | mxaTileLoadsA | vecCap | vecCtrl
  | vecStatus | vecTaskFlags | vecErrLog | vecErrCount | vecTqHead | vecDrawCount | vecInvocations | vecIssueCycles
  | vecDepWait | vecIdle | vecTqPushes | vecTqPops | spdCap | spdCtrl | spdStatus | spdErrLog | spdErrCount
  | spdCeLog | spdCeCountM | spdUeCountM | spdConflictM | spdWbDropM | spdOpRowsM | spdHandleH | spdSlotFullW
  | fluCap | fluCtrl | fluStatus | fluErrLog | fluErrCount | fluWastedBytes | fluHintBytes | fluReqs | fluBursts
  | fluDescPtrF | fluStateF | fluBytesInF | fluBytesOutF | fluTilesF | fluStallC | blwCap | blwCtrl | blwStatus
  | blwErrLog | blwErrCount | blwDescPtrB | blwStateB | blwElemsB | blwBytesB | blwStallBC | chmCap | chmCtrl
  | chmStatus | chmErrLog | chmErrCount | chmCeLog | chmMcBudget | chmArbWeight | chmScrub | chmHits | chmMisses
  | chmFillWait | chmWbLines | chmCeCount | chmUeCount | chmMcCopies | chmMcPrunes | chmMcUnicast | chmHintDrop
  | chmBytesDown | chmBytesUp | chmBytesHbmRd | chmBytesHbmWr | chmPartQuotaP | chmPartUseP | chmPartRateP
  | chmPartDenyP | chmMcgPG | memCap | memCtrl | memStatus | memErrLog | memErrCount | memCeLog | memScrubCfg
  | memFence | memRetired | memTrain | memRdBytes | memWrBytes | memScrubPasses | memCorrDrop | memCeCountP
  | memUeCountP | memRefForcedP | memQfullP | xltCap | xltCtrl | xltStatus | xltErrLog | xltErrCount | xltRange
  | xltKey | xltFrames | xltOpqBaseG | xltOpqCfgG | xltOpqTailG | xltOpqHeadG | xltRsvBase | xltRsvCfg | xltRsvTail
  | xltRsvHead | xltRelBase | xltRelCfg | xltRelTail | xltRelHead | xltWalks | xltWalkHbm | xltCowCopies
  | xltCowUpgrades | xltShootdowns | xltFrees | xltFaults | xltRsvSkip | xltTlbPerr | xltRootI | xltTlbMissH | grfCap
  | grfCtrl | grfStatus | grfErrLog | grfErrCount | grfWdog | grfMixCfg | grfMixTable | grfMixStatus | grfTasksDone
  | grfTasksFailed | grfReplays | grfPreempts | grfUnbinds | grfPlaceAffine | grfPlaceOrder | grfGraphsDone
  | grfMixSteps | grfMixPadRows | grfAbortsC | grfSemS | grfHearthI | atnCap | atnCtrl | atnStatus | atnErrLog
  | atnErrCount | atnPlanG | atnPlanLoadG | atnPlanPartG | atnGroups | atnUnits | atnSplitJobs | atnKeyTiles
  | atnKvBytes | atnPartBytes | atnMergeSegs | atnAppendTokens | atnPlanWait | lnkCap | lnkCtrl | lnkStatus | lnkCfg
  | lnkPartner | lnkRtt | lnkErrLog | lnkErrCount | lnkLaneL | lnkTxFlits | lnkRxFlits | lnkFecCorr | lnkFecSym
  | lnkFecUncorr | lnkCrcErr | lnkProtoErr | lnkReplays | lnkReplayTo | lnkWinStall | lnkCreditStall | lnkDownEvents
  | lnkRetrains | lnkVcV | lnkPortCfgP | lnkPortStatusP | lnkPortNarrowP | lnkPortReplayedP | lnkPortStompsP | fabCap
  | fabCtrl | fabAddr | fabTopo | fabTopoHash | fabE2eCfg | fabStatus | fabErrLog | fabErrCount | fabTransitPkts
  | fabTransitFlits | fabDelivered | fabSent | fabDupDrop | fabDefer | fabResends | fabAuthFail | fabTtlDrop
  | fabVcMismatch | fabNoRoute | fabEscEntries | fabAltRouted | fabFlowFailed | fabAdjP | fabVcmapV | fabRouteD
  | colCap | colCtrl | colNanPolicy | colDigHead | colErrLog | colErrCount | colInstances | colBytesSent
  | colBytesRecv | colBackupTaken | colBackupDiscard | colLate | colPrunes | colGaps | colFetches | colNan
  | colFailed | colPartTableP | colPartCtrlP | colPartStatusP | colNanLogP | colEntryPC | colDigI | hstCap | hstCtrl
  | hstStatus | hstErrLog | hstErrCount | hstMacAddr | hstIpCfg | hstIp6Hi | hstIp6Lo | hstPfcCfg | hstEcnCfg
  | hstIpfixCfg | hstPfcThrI | hstRxFrames | hstTxFrames | hstRxBytes | hstTxBytes | hstRxDropFull | hstRxDropOther
  | hstFecCorr | hstFecUncorr | hstIcrcErr | hstNakSent | hstRetrans | hstCeSeen | hstCnpSent | hstCnpRecv
  | hstReleaseBad | hstIpfixDrop | hstPauseRxI | hstPauseTxI | hstQpCtrlQ | hstQpPeerQ | hstQpMacQ | hstQpIpHiQ
  | hstQpIpLoQ | hstQpPsnQ | hstQpCqQ | hstQpStatusQ | prtCap | prtCmd | prtCmdStatus | prtUnitsFree | prtErrLog
  | prtErrCount | prtBlocksFree | prtStatusP | prtQuotaP | prtRateP | prtAccessErrP | prtMemP | secCap | secCtrl
  | secStatus | secErrLog | secErrCount | secDeviceId | secKeyCmd | secKeyStatus | secReportCmd | secReportStatus
  | secNonceI | secKeyLoads | secKeyRefused | secReports | secSweepPages | secPartKeysP | secFabCtrlP | secKeySeqP
  | secKcvPK | secPeerP | secPeerPrevP | secReportBuf | telCap | telCtrl | telTime | telIpfixPen | telDmpCfg
  | telDmpLim | telDmpStatus | telRateSent | telRateRecv | telRateDrop | telRateNoflow | telRateCuts
  | telIpfixRecords | telClkD | telHrtIdleF | telColDamperP | telHistHB | telHsnapHB | telFecNB | telHrtGateH
  | telHrtNotaskH | pwrCap | pwrCtrl | pwrDevPower | pwrDevEnergy | pwrTrip | pwrFbCapF | pwrFbStatusF
  | pwrFbGateCyclesF | pwrFbEnergyF | pwrFbOverF | pwrBdStatusD | errCap | errCtrl | errSummary | errDevLog
  | errDevCount | errUnitLog | errUnitCount | errInject | errRefclk | errSlices | errReqLost | errHrtFaults
  | errOosEvents | errHrtFaultI | errHrtOosI | stkCap | stkCmd | stkCmdStatus | stkStatus | stkWdogCfg | stkFwInfo
  | stkAshHead | stkHoldMaskI | stkDigQuery | stkDigResult | stkWarmResets | stkHrtResets | stkSuspectRuns
  | stkWdogTask | stkWdogColl | stkRestarts | stkAshBufK | kndCap | kndStatus | kndErrLog | kndErrCount | kndFlashCmd
  | kndFlashStatus | kndCmd | kndCmdStatus | kndOwnerDigestI | kndCopyInfoC | kndCopyDigCI | kndStageTimeS
  | kndFlashBuf | kndCertBuf | devCap | devStatus | devFuses
deriving DecidableEq, Repr

/-- One row of a register table: offset in the block, two indices (count and stride), reset value, writable masks. -/
structure RegRow where
  off : Nat
  n1 : Nat
  s1 : Nat
  n2 : Nat
  s2 : Nat
  rst : Nat
  rw : Nat
  stk : Nat
  w1c : Nat
  cnt : Nat
deriving DecidableEq, Repr

/-- A row of a register table. -/
def row (id : RegId) (off n1 s1 n2 s2 rst rw stk w1c cnt : Nat) : RegId × RegRow :=
  (id, ⟨off, n1, s1, n2, s2, rst, rw, stk, w1c, cnt⟩)

/-- The base of instance `i` of a block (R9, R10, R35). -/
def blkBase (b : Blk) (i : Nat) : Nat :=
  match b with
  | .dev => 0x0
  | .stk => 0x100000
  | .chm => 0x1000000 + i * 0x100000
  | .mem => 0x2000000 + i * 0x10000
  | .lnk => 0x3000000 + i * 0x10000
  | .fab => 0x3400000
  | .col => 0x3800000
  | .hst => 0x4000000
  | .prt => 0x5000000
  | .sec => 0x5800000
  | .tel => 0x6000000
  | .pwr => 0x6400000
  | .err => 0x6800000
  | .knd => 0x7000000
  | .mxa => 0x100000000 + i * 0x100000
  | .vec => 0x100010000 + i * 0x100000
  | .spd => 0x100020000 + i * 0x100000
  | .flu => 0x100030000 + i * 0x100000
  | .blw => 0x100040000 + i * 0x100000
  | .xlt => 0x200000000 + i * 0x1000000
  | .grf => 0x200004000 + i * 0x1000000
  | .atn => 0x200008000 + i * 0x1000000

/-- The rows of the MXA_ tables. -/
def mxaMap : List (RegId × RegRow) :=
  row .mxaCap 0 1 0 1 0 0x2274080 0 0 0 0 ::
  row .mxaCtrl 8 1 0 1 0 3 4 3 0 0 ::
  row .mxaStatus 0x10 1 0 1 0 0 0 0 0 0 ::
  row .mxaTaskFlags 0x18 1 0 1 0 0 0 0 0 0 ::
  row .mxaErrLog 0x20 1 0 1 0 0 0 0 1 0 ::
  row .mxaErrCount 0x28 1 0 1 0 0 0 0 0 0 ::
  row .mxaValidRowsA 0x100 2 0x80 1 0 0 0 0 0 48 ::
  row .mxaBubGapA 0x108 2 0x80 1 0 0 0 0 0 48 ::
  row .mxaBubDrainA 0x110 2 0x80 1 0 0 0 0 0 48 ::
  row .mxaBubAccldA 0x118 2 0x80 1 0 0 0 0 0 48 ::
  row .mxaBubLoadA 0x120 2 0x80 1 0 0 0 0 0 48 ::
  row .mxaBubFeedA 0x128 2 0x80 1 0 0 0 0 0 48 ::
  row .mxaBubMaskA 0x130 2 0x80 1 0 0 0 0 0 48 ::
  row .mxaPassesA 0x138 2 0x80 1 0 0 0 0 0 48 ::
  row .mxaTileLoadsA 0x140 2 0x80 1 0 0 0 0 0 48 :: []

/-- The rows of the VEC_ tables. -/
def vecMap : List (RegId × RegRow) :=
  row .vecCap 0 1 0 1 0 0x10882008008040 0 0 0 0 ::
  row .vecCtrl 8 1 0 1 0 0 1 0 0 0 ::
  row .vecStatus 0x10 1 0 1 0 0 0 0 0 0 ::
  row .vecTaskFlags 0x18 1 0 1 0 0 0 0 0 0 ::
  row .vecErrLog 0x20 1 0 1 0 0 0 0 1 0 ::
  row .vecErrCount 0x28 1 0 1 0 0 0 0 0 0 ::
  row .vecTqHead 0x30 1 0 1 0 0 0 0 0 0 ::
  row .vecDrawCount 0x38 1 0 1 0 0 0 0 0 0 ::
  row .vecInvocations 0x100 1 0 1 0 0 0 0 0 48 ::
  row .vecIssueCycles 0x108 1 0 1 0 0 0 0 0 48 ::
  row .vecDepWait 0x110 1 0 1 0 0 0 0 0 48 ::
  row .vecIdle 0x118 1 0 1 0 0 0 0 0 48 ::
  row .vecTqPushes 0x120 1 0 1 0 0 0 0 0 48 ::
  row .vecTqPops 0x128 1 0 1 0 0 0 0 0 48 :: []

/-- The rows of the SPD_ tables. -/
def spdMap : List (RegId × RegRow) :=
  row .spdCap 0 1 0 1 0 0x8001040081810 0 0 0 0 ::
  row .spdCtrl 8 1 0 1 0 8 9 0 0 0 ::
  row .spdStatus 0x10 1 0 1 0 0 0 0 0 0 ::
  row .spdErrLog 0x20 1 0 1 0 0 0 0 1 0 ::
  row .spdErrCount 0x28 1 0 1 0 0 0 0 0 0 ::
  row .spdCeLog 0x30 1 0 1 0 0 0 0 1 0 ::
  row .spdCeCountM 0x100 3 0x40 1 0 0 0 0 0 48 ::
  row .spdUeCountM 0x108 3 0x40 1 0 0 0 0 0 48 ::
  row .spdConflictM 0x110 3 0x40 1 0 0 0 0 0 48 ::
  row .spdWbDropM 0x118 3 0x40 1 0 0 0 0 0 48 ::
  row .spdOpRowsM 0x120 3 0x40 1 0 0 0 0 0 48 ::
  row .spdHandleH 0x1000 64 8 1 0 0 0 0xffffffffffffff 0 0 ::
  row .spdSlotFullW 0x2000 96 8 1 0 0 0 0 0 0 :: []

/-- The rows of the FLU_ tables. -/
def fluMap : List (RegId × RegRow) :=
  row .fluCap 0 1 0 1 0 0x100102040083008 0 0 0 0 ::
  row .fluCtrl 8 1 0 1 0 0 1 4 0 0 ::
  row .fluStatus 0x10 1 0 1 0 0 0 0 0 0 ::
  row .fluErrLog 0x18 1 0 1 0 0 0 0 1 0 ::
  row .fluErrCount 0x20 1 0 1 0 0 0 0 0 0 ::
  row .fluWastedBytes 0x28 1 0 1 0 0 0 0 0 64 ::
  row .fluHintBytes 0x30 1 0 1 0 0 0 0 0 64 ::
  row .fluReqs 0x38 1 0 1 0 0 0 0 0 48 ::
  row .fluBursts 0x40 1 0 1 0 0 0 0 0 48 ::
  row .fluDescPtrF 0x100 8 0x40 1 0 0 0 0 0 0 ::
  row .fluStateF 0x108 8 0x40 1 0 0 0 0 0 0 ::
  row .fluBytesInF 0x110 8 0x40 1 0 0 0 0 0 64 ::
  row .fluBytesOutF 0x118 8 0x40 1 0 0 0 0 0 64 ::
  row .fluTilesF 0x120 8 0x40 1 0 0 0 0 0 48 ::
  row .fluStallC 0x400 12 8 1 0 0 0 0 0 48 :: []

/-- The rows of the BLW_ tables. -/
def blwMap : List (RegId × RegRow) :=
  row .blwCap 0 1 0 1 0 0x4002010002 0 0 0 0 ::
  row .blwCtrl 8 1 0 1 0 0 1 0 0 0 ::
  row .blwStatus 0x10 1 0 1 0 0 0 0 0 0 ::
  row .blwErrLog 0x18 1 0 1 0 0 0 0 1 0 ::
  row .blwErrCount 0x20 1 0 1 0 0 0 0 0 0 ::
  row .blwDescPtrB 0x100 2 0x40 1 0 0 0 0 0 0 ::
  row .blwStateB 0x108 2 0x40 1 0 0 0 0 0 0 ::
  row .blwElemsB 0x110 2 0x40 1 0 0 0 0 0 48 ::
  row .blwBytesB 0x118 2 0x40 1 0 0 0 0 0 64 ::
  row .blwStallBC 0x400 2 0x80 12 8 0 0 0 0 48 :: []

/-- The rows of the CHM_ tables. -/
def chmMap : List (RegId × RegRow) :=
  row .chmCap 0 1 0 1 0 0 0 0 0 0 ::
  row .chmCtrl 8 1 0 1 0 0x40c 0xf0d 0 0 0 ::
  row .chmStatus 0x10 1 0 1 0 0x8000 0 0 0 0 ::
  row .chmErrLog 0x18 1 0 1 0 0 0 0 1 0 ::
  row .chmErrCount 0x20 1 0 1 0 0 0 0 0 0 ::
  row .chmCeLog 0x28 1 0 1 0 0 0 0 1 0 ::
  row .chmMcBudget 0x30 1 0 1 0 0xc81000 0xffffffff 0 0 0 ::
  row .chmArbWeight 0x38 1 0 1 0 0x10102040830 0 0xffffffffffff 0 0 ::
  row .chmScrub 0x40 1 0 1 0 0 0 0 0 0 ::
  row .chmHits 0x100 1 0 1 0 0 0 0 0 48 ::
  row .chmMisses 0x108 1 0 1 0 0 0 0 0 48 ::
  row .chmFillWait 0x110 1 0 1 0 0 0 0 0 48 ::
  row .chmWbLines 0x118 1 0 1 0 0 0 0 0 48 ::
  row .chmCeCount 0x120 1 0 1 0 0 0 0 0 48 ::
  row .chmUeCount 0x128 1 0 1 0 0 0 0 0 48 ::
  row .chmMcCopies 0x130 1 0 1 0 0 0 0 0 48 ::
  row .chmMcPrunes 0x138 1 0 1 0 0 0 0 0 48 ::
  row .chmMcUnicast 0x140 1 0 1 0 0 0 0 0 48 ::
  row .chmHintDrop 0x148 1 0 1 0 0 0 0 0 48 ::
  row .chmBytesDown 0x150 1 0 1 0 0 0 0 0 64 ::
  row .chmBytesUp 0x158 1 0 1 0 0 0 0 0 64 ::
  row .chmBytesHbmRd 0x160 1 0 1 0 0 0 0 0 64 ::
  row .chmBytesHbmWr 0x168 1 0 1 0 0 0 0 0 64 ::
  row .chmPartQuotaP 0x1000 16 0x20 1 0 0 0 0xfffff 0 0 ::
  row .chmPartUseP 0x1008 16 0x20 1 0 0 0 0 0 0 ::
  row .chmPartRateP 0x1010 16 0x20 1 0 0 0 0x1ff 0 0 ::
  row .chmPartDenyP 0x1018 16 0x20 1 0 0 0 0 0 48 ::
  row .chmMcgPG 0x80000 16 0x800 256 8 0 0 0xffffffffff 0 0 :: []

/-- The rows of the MEM_ tables. -/
def memMap : List (RegId × RegRow) :=
  row .memCap 0 1 0 1 0 0 0 0 0 0 ::
  row .memCtrl 8 1 0 1 0 0x100c 0xd 0xff00 0 0 ::
  row .memStatus 0x10 1 0 1 0 0 0 0 0 0 ::
  row .memErrLog 0x18 1 0 1 0 0 0 0 1 0 ::
  row .memErrCount 0x20 1 0 1 0 0 0 0 0 0 ::
  row .memCeLog 0x28 1 0 1 0 0 0 0 1 0 ::
  row .memScrubCfg 0x30 1 0 1 0 0x800000 0xffffffff 0 0 0 ::
  row .memFence 0x38 1 0 1 0 0 0 0xffffffff 0 0 ::
  row .memRetired 0x40 1 0 1 0 0x28000000000 0 0xffffffff 0 0 ::
  row .memTrain 0x48 1 0 1 0 0 0 0 0 0 ::
  row .memRdBytes 0x80 1 0 1 0 0 0 0 0 64 ::
  row .memWrBytes 0x88 1 0 1 0 0 0 0 0 64 ::
  row .memScrubPasses 0x90 1 0 1 0 0 0 0 0 48 ::
  row .memCorrDrop 0x98 1 0 1 0 0 0 0 0 48 ::
  row .memCeCountP 0x100 32 0x20 1 0 0 0 0 0 48 ::
  row .memUeCountP 0x108 32 0x20 1 0 0 0 0 0 48 ::
  row .memRefForcedP 0x110 32 0x20 1 0 0 0 0 0 48 ::
  row .memQfullP 0x118 32 0x20 1 0 0 0 0 0 48 :: []

/-- The rows of the XLT_ tables. -/
def xltMap : List (RegId × RegRow) :=
  row .xltCap 0 1 0 1 0 0x8100408033010 0 0 0 0 ::
  row .xltCtrl 8 1 0 1 0 0 1 0 0 0 ::
  row .xltStatus 0x10 1 0 1 0 0 0 0 0 0 ::
  row .xltErrLog 0x18 1 0 1 0 0 0 0 1 0 ::
  row .xltErrCount 0x20 1 0 1 0 0 0 0 0 0 ::
  row .xltRange 0x28 1 0 1 0 0 0 0xffffff00ffffff 0 0 ::
  row .xltKey 0x30 1 0 1 0 0 0 3 0 0 ::
  row .xltFrames 0x38 1 0 1 0 0 0 0xffffff00000000 0 0 ::
  row .xltOpqBaseG 0x80 2 0x20 1 0 0 0xffffffffffff 0 0 0 ::
  row .xltOpqCfgG 0x88 2 0x20 1 0 6 0x1f 0 0 0 ::
  row .xltOpqTailG 0x90 2 0x20 1 0 0 0xffffffff 0 0 0 ::
  row .xltOpqHeadG 0x98 2 0x20 1 0 0 0 0 0 0 ::
  row .xltRsvBase 0xc0 1 0 1 0 0 0xffffffffffff 0 0 0 ::
  row .xltRsvCfg 0xc8 1 0 1 0 0xa 0x1f 0 0 0 ::
  row .xltRsvTail 0xd0 1 0 1 0 0 0xffffffff 0 0 0 ::
  row .xltRsvHead 0xd8 1 0 1 0 0 0 0 0 0 ::
  row .xltRelBase 0xe0 1 0 1 0 0 0xffffffffffff 0 0 0 ::
  row .xltRelCfg 0xe8 1 0 1 0 0xa 0x1f 0 0 0 ::
  row .xltRelTail 0xf0 1 0 1 0 0 0 0 0 0 ::
  row .xltRelHead 0xf8 1 0 1 0 0 0xffffffff 0 0 0 ::
  row .xltWalks 0x100 1 0 1 0 0 0 0 0 48 ::
  row .xltWalkHbm 0x108 1 0 1 0 0 0 0 0 48 ::
  row .xltCowCopies 0x110 1 0 1 0 0 0 0 0 48 ::
  row .xltCowUpgrades 0x118 1 0 1 0 0 0 0 0 48 ::
  row .xltShootdowns 0x120 1 0 1 0 0 0 0 0 48 ::
  row .xltFrees 0x128 1 0 1 0 0 0 0 0 48 ::
  row .xltFaults 0x130 1 0 1 0 0 0 0 0 48 ::
  row .xltRsvSkip 0x138 1 0 1 0 0 0 0 0 48 ::
  row .xltTlbPerr 0x140 1 0 1 0 0 0 0 0 48 ::
  row .xltRootI 0x1000 256 8 1 0 0 0 0 0 0 ::
  row .xltTlbMissH 0x2000 256 8 1 0 0 0 0 0 48 :: []

/-- The rows of the GRF_ tables. -/
def grfMap : List (RegId × RegRow) :=
  row .grfCap 0 1 0 1 0 0x80102010000 0 0 0 0 ::
  row .grfCtrl 8 1 0 1 0 0x4300 0xff01 0xc 0 0 ::
  row .grfStatus 0x10 1 0 1 0 0 0 0 0 0 ::
  row .grfErrLog 0x18 1 0 1 0 0 0 0 1 0 ::
  row .grfErrCount 0x20 1 0 1 0 0 0 0 0 0 ::
  row .grfWdog 0x28 1 0 1 0 0x10000000 0 0xffffffff 0 0 ::
  row .grfMixCfg 0x30 1 0 1 0 0x400100 0x7ffffff 0 0 0 ::
  row .grfMixTable 0x38 1 0 1 0 0 0xffffffffffff 0 0 0 ::
  row .grfMixStatus 0x40 1 0 1 0 0 0 0 0 0 ::
  row .grfTasksDone 0x100 1 0 1 0 0 0 0 0 48 ::
  row .grfTasksFailed 0x108 1 0 1 0 0 0 0 0 48 ::
  row .grfReplays 0x110 1 0 1 0 0 0 0 0 48 ::
  row .grfPreempts 0x118 1 0 1 0 0 0 0 0 48 ::
  row .grfUnbinds 0x120 1 0 1 0 0 0 0 0 48 ::
  row .grfPlaceAffine 0x128 1 0 1 0 0 0 0 0 48 ::
  row .grfPlaceOrder 0x130 1 0 1 0 0 0 0 0 48 ::
  row .grfGraphsDone 0x138 1 0 1 0 0 0 0 0 48 ::
  row .grfMixSteps 0x140 1 0 1 0 0 0 0 0 48 ::
  row .grfMixPadRows 0x148 1 0 1 0 0 0 0 0 48 ::
  row .grfAbortsC 0x200 15 8 1 0 0 0 0 0 48 ::
  row .grfSemS 0x1000 256 8 1 0 0 0xffff 0 0 0 ::
  row .grfHearthI 0x2000 256 8 1 0 0 0 0 0 0 :: []

/-- The rows of the ATN_ tables. -/
def atnMap : List (RegId × RegRow) :=
  row .atnCap 0 1 0 1 0 0x40008004800400 0 0 0 0 ::
  row .atnCtrl 8 1 0 1 0 0 1 0 0 0 ::
  row .atnStatus 0x10 1 0 1 0 0 0 0 0 0 ::
  row .atnErrLog 0x18 1 0 1 0 0 0 0 1 0 ::
  row .atnErrCount 0x20 1 0 1 0 0 0 0 0 0 ::
  row .atnPlanG 0x100 4 0x20 1 0 0 0 0 0 0 ::
  row .atnPlanLoadG 0x108 4 0x20 1 0 0 0 0 0 0 ::
  row .atnPlanPartG 0x110 4 0x20 1 0 0 0 0 0 0 ::
  row .atnGroups 0x200 1 0 1 0 0 0 0 0 48 ::
  row .atnUnits 0x208 1 0 1 0 0 0 0 0 48 ::
  row .atnSplitJobs 0x210 1 0 1 0 0 0 0 0 48 ::
  row .atnKeyTiles 0x218 1 0 1 0 0 0 0 0 48 ::
  row .atnKvBytes 0x220 1 0 1 0 0 0 0 0 64 ::
  row .atnPartBytes 0x228 1 0 1 0 0 0 0 0 64 ::
  row .atnMergeSegs 0x230 1 0 1 0 0 0 0 0 48 ::
  row .atnAppendTokens 0x238 1 0 1 0 0 0 0 0 48 ::
  row .atnPlanWait 0x240 1 0 1 0 0 0 0 0 48 :: []

/-- The rows of the LNK_ tables. -/
def lnkMap : List (RegId × RegRow) :=
  row .lnkCap 0 1 0 1 0 0 0 0 0 0 ::
  row .lnkCtrl 8 1 0 1 0 0x10 1 0x18 0 0 ::
  row .lnkStatus 0x10 1 0 1 0 0 0 0 0 0 ::
  row .lnkCfg 0x18 1 0 1 0 0x38101f00 0 0xffff1f03 0 0 ::
  row .lnkPartner 0x20 1 0 1 0 0 0 0 0 0 ::
  row .lnkRtt 0x28 1 0 1 0 0 0 0 0 0 ::
  row .lnkErrLog 0x30 1 0 1 0 0 0 0 1 0 ::
  row .lnkErrCount 0x38 1 0 1 0 0 0 0 0 0 ::
  row .lnkLaneL 0x80 4 8 1 0 0 0 0 0 0 ::
  row .lnkTxFlits 0x100 1 0 1 0 0 0 0 0 48 ::
  row .lnkRxFlits 0x108 1 0 1 0 0 0 0 0 48 ::
  row .lnkFecCorr 0x110 1 0 1 0 0 0 0 0 48 ::
  row .lnkFecSym 0x118 1 0 1 0 0 0 0 0 48 ::
  row .lnkFecUncorr 0x120 1 0 1 0 0 0 0 0 48 ::
  row .lnkCrcErr 0x128 1 0 1 0 0 0 0 0 48 ::
  row .lnkProtoErr 0x130 1 0 1 0 0 0 0 0 48 ::
  row .lnkReplays 0x138 1 0 1 0 0 0 0 0 48 ::
  row .lnkReplayTo 0x140 1 0 1 0 0 0 0 0 48 ::
  row .lnkWinStall 0x148 1 0 1 0 0 0 0 0 48 ::
  row .lnkCreditStall 0x150 1 0 1 0 0 0 0 0 48 ::
  row .lnkDownEvents 0x158 1 0 1 0 0 0 0 0 48 ::
  row .lnkRetrains 0x160 1 0 1 0 0 0 0 0 48 ::
  row .lnkVcV 0x200 32 8 1 0 0 0 0 0 0 ::
  row .lnkPortCfgP 0x200000 18 0x40 1 0 0 0 0x1fffff 0 0 ::
  row .lnkPortStatusP 0x200008 18 0x40 1 0 0 0 0 0 0 ::
  row .lnkPortNarrowP 0x200010 18 0x40 1 0 0 0 0 0 0 ::
  row .lnkPortReplayedP 0x200018 18 0x40 1 0 0 0 0 0 0 ::
  row .lnkPortStompsP 0x200020 18 0x40 1 0 0 0 0 0 0 :: []

/-- The rows of the FAB_ tables. -/
def fabMap : List (RegId × RegRow) :=
  row .fabCap 0 1 0 1 0 0x200018201000 0 0 0 0 ::
  row .fabCtrl 8 1 0 1 0 0 1 0 0 0 ::
  row .fabAddr 0x10 1 0 1 0 0 0 0x1ffff 0 0 ::
  row .fabTopo 0x18 1 0 1 0 0 0 0xfff3 0 0 ::
  row .fabTopoHash 0x20 1 0 1 0 0 0 0xffffffffffffffff 0 0 ::
  row .fabE2eCfg 0x28 1 0 1 0 0x4000540014 0 0xff0fffffff 0 0 ::
  row .fabStatus 0x30 1 0 1 0 0 0 0 0 0 ::
  row .fabErrLog 0x38 1 0 1 0 0 0 0 1 0 ::
  row .fabErrCount 0x40 1 0 1 0 0 0 0 0 0 ::
  row .fabTransitPkts 0x100 1 0 1 0 0 0 0 0 48 ::
  row .fabTransitFlits 0x108 1 0 1 0 0 0 0 0 48 ::
  row .fabDelivered 0x110 1 0 1 0 0 0 0 0 48 ::
  row .fabSent 0x118 1 0 1 0 0 0 0 0 48 ::
  row .fabDupDrop 0x120 1 0 1 0 0 0 0 0 48 ::
  row .fabDefer 0x128 1 0 1 0 0 0 0 0 48 ::
  row .fabResends 0x130 1 0 1 0 0 0 0 0 48 ::
  row .fabAuthFail 0x138 1 0 1 0 0 0 0 0 48 ::
  row .fabTtlDrop 0x140 1 0 1 0 0 0 0 0 48 ::
  row .fabVcMismatch 0x148 1 0 1 0 0 0 0 0 48 ::
  row .fabNoRoute 0x150 1 0 1 0 0 0 0 0 48 ::
  row .fabEscEntries 0x158 1 0 1 0 0 0 0 0 48 ::
  row .fabAltRouted 0x160 1 0 1 0 0 0 0 0 48 ::
  row .fabFlowFailed 0x168 1 0 1 0 0 0 0 0 48 ::
  row .fabAdjP 0x400 18 8 1 0 0 0 0x3fffff 0x1000000 0 ::
  row .fabVcmapV 0x1000 24 8 1 0 0 0 0xff0ffff1 0 0 ::
  row .fabRouteD 0x2000 4096 8 1 0 0 0 0x3f3f 0 0 :: []

/-- The rows of the COL_ tables. -/
def colMap : List (RegId × RegRow) :=
  row .colCap 0 1 0 1 0 0x2191210000100 0 0 0 0 ::
  row .colCtrl 8 1 0 1 0 0 1 0 0 0 ::
  row .colNanPolicy 0x10 1 0 1 0 0 0xffff 0 0 0 ::
  row .colDigHead 0x18 1 0 1 0 0 0 0 0 0 ::
  row .colErrLog 0x20 1 0 1 0 0 0 0 1 0 ::
  row .colErrCount 0x28 1 0 1 0 0 0 0 0 0 ::
  row .colInstances 0x100 1 0 1 0 0 0 0 0 48 ::
  row .colBytesSent 0x108 1 0 1 0 0 0 0 0 64 ::
  row .colBytesRecv 0x110 1 0 1 0 0 0 0 0 64 ::
  row .colBackupTaken 0x118 1 0 1 0 0 0 0 0 48 ::
  row .colBackupDiscard 0x120 1 0 1 0 0 0 0 0 64 ::
  row .colLate 0x128 1 0 1 0 0 0 0 0 48 ::
  row .colPrunes 0x130 1 0 1 0 0 0 0 0 48 ::
  row .colGaps 0x138 1 0 1 0 0 0 0 0 48 ::
  row .colFetches 0x140 1 0 1 0 0 0 0 0 48 ::
  row .colNan 0x148 1 0 1 0 0 0 0 0 48 ::
  row .colFailed 0x150 1 0 1 0 0 0 0 0 48 ::
  row .colPartTableP 0x1000 16 0x40 1 0 0 0x1ffffffffffffff 0 0 0 ::
  row .colPartCtrlP 0x1008 16 0x40 1 0 0 0xff00fff0 0 0 0 ::
  row .colPartStatusP 0x1010 16 0x40 1 0 0 0 0 0 0 ::
  row .colNanLogP 0x1018 16 0x40 1 0 0 0 0 1 0 ::
  row .colEntryPC 0x40000 16 0x800 256 8 0 0 0 0 0 ::
  row .colDigI 0x80000 4096 0x20 4 8 0 0 0 0 0 :: []

/-- The rows of the HST_ tables. -/
def hstMap : List (RegId × RegRow) :=
  row .hstCap 0 1 0 1 0 0x2400c08400400 0 0 0 0 ::
  row .hstCtrl 8 1 0 1 0 4 0xfff1 4 0 0 ::
  row .hstStatus 0x10 1 0 1 0 0 0 0 0 0 ::
  row .hstErrLog 0x18 1 0 1 0 0 0 0 1 0 ::
  row .hstErrCount 0x20 1 0 1 0 0 0 0 0 0 ::
  row .hstMacAddr 0x28 1 0 1 0 0 0 0xffffffffffff 0 0 ::
  row .hstIpCfg 0x30 1 0 1 0 0 0 0x3ffffffff 0 0 ::
  row .hstIp6Hi 0x38 1 0 1 0 0 0 0xffffffffffffffff 0 0 ::
  row .hstIp6Lo 0x40 1 0 1 0 0 0 0xffffffffffffffff 0 0 ::
  row .hstPfcCfg 0x48 1 0 1 0 0x140188 0xff01ff 0 0 0 ::
  row .hstEcnCfg 0x50 1 0 1 0 0x1320040 0x1ff03ff 0 0 0 ::
  row .hstIpfixCfg 0x58 1 0 1 0 0x703e812830000 0x7ffffffff0001 0 0 0 ::
  row .hstPfcThrI 0x80 8 8 1 0 0 0x3ff03ff03ff 0 0 0 ::
  row .hstRxFrames 0x100 1 0 1 0 0 0 0 0 48 ::
  row .hstTxFrames 0x108 1 0 1 0 0 0 0 0 48 ::
  row .hstRxBytes 0x110 1 0 1 0 0 0 0 0 64 ::
  row .hstTxBytes 0x118 1 0 1 0 0 0 0 0 64 ::
  row .hstRxDropFull 0x120 1 0 1 0 0 0 0 0 48 ::
  row .hstRxDropOther 0x128 1 0 1 0 0 0 0 0 48 ::
  row .hstFecCorr 0x130 1 0 1 0 0 0 0 0 48 ::
  row .hstFecUncorr 0x138 1 0 1 0 0 0 0 0 48 ::
  row .hstIcrcErr 0x140 1 0 1 0 0 0 0 0 48 ::
  row .hstNakSent 0x148 1 0 1 0 0 0 0 0 48 ::
  row .hstRetrans 0x150 1 0 1 0 0 0 0 0 48 ::
  row .hstCeSeen 0x158 1 0 1 0 0 0 0 0 48 ::
  row .hstCnpSent 0x160 1 0 1 0 0 0 0 0 48 ::
  row .hstCnpRecv 0x168 1 0 1 0 0 0 0 0 48 ::
  row .hstReleaseBad 0x170 1 0 1 0 0 0 0 0 48 ::
  row .hstIpfixDrop 0x178 1 0 1 0 0 0 0 0 48 ::
  row .hstPauseRxI 0x200 8 0x10 1 0 0 0 0 0 48 ::
  row .hstPauseTxI 0x208 8 0x10 1 0 0 0 0 0 48 ::
  row .hstQpCtrlQ 0x10000 1025 0x40 1 0 0x7ee698 0x1ffffff 0 0 0 ::
  row .hstQpPeerQ 0x10008 1025 0x40 1 0 0 0xffffffff00ffffff 0 0 0 ::
  row .hstQpMacQ 0x10010 1025 0x40 1 0 0 0xffffffffffff 0 0 0 ::
  row .hstQpIpHiQ 0x10018 1025 0x40 1 0 0 0xffffffffffffffff 0 0 0 ::
  row .hstQpIpLoQ 0x10020 1025 0x40 1 0 0 0xffffffffffffffff 0 0 0 ::
  row .hstQpPsnQ 0x10028 1025 0x40 1 0 0 0xffffff00ffffff 0 0 0 ::
  row .hstQpCqQ 0x10030 1025 0x40 1 0 0 0x1fffffffffffff 0 0 0 ::
  row .hstQpStatusQ 0x10038 1025 0x40 1 0 0 0 0 0 0 :: []

/-- The rows of the PRT_ tables. -/
def prtMap : List (RegId × RegRow) :=
  row .prtCap 0 1 0 1 0 0xf000101010 0 0 0 0 ::
  row .prtCmd 8 1 0 1 0 0 0 0 0 0 ::
  row .prtCmdStatus 0x10 1 0 1 0 0 0 0 0 0 ::
  row .prtUnitsFree 0x18 1 0 1 0 0xffff 0 0 0 0 ::
  row .prtErrLog 0x20 1 0 1 0 0 0 0 1 0 ::
  row .prtErrCount 0x28 1 0 1 0 0 0 0 0 0 ::
  row .prtBlocksFree 0x30 1 0 1 0 0xffff 0 0 0 0 ::
  row .prtStatusP 0x1000 16 0x40 1 0 0 0 0 0 0 ::
  row .prtQuotaP 0x1008 16 0x40 1 0 0 0xfffff00ffffff 0 0 0 ::
  row .prtRateP 0x1010 16 0x40 1 0 0 0x1ff 0 0 0 ::
  row .prtAccessErrP 0x1018 16 0x40 1 0 0 0 0 0 48 ::
  row .prtMemP 0x1020 16 0x40 1 0 0 0 0 0 0 :: []

/-- The rows of the SEC_ tables. -/
def secMap : List (RegId × RegRow) :=
  row .secCap 0 1 0 1 0 0x4a00822 0 0 0 0 ::
  row .secCtrl 8 1 0 1 0 0 5 0 0 0 ::
  row .secStatus 0x10 1 0 1 0 0 0 0 0 0 ::
  row .secErrLog 0x18 1 0 1 0 0 0 0 1 0 ::
  row .secErrCount 0x20 1 0 1 0 0 0 0 0 0 ::
  row .secDeviceId 0x28 1 0 1 0 0 0 0 0 0 ::
  row .secKeyCmd 0x30 1 0 1 0 0 0 0 0 0 ::
  row .secKeyStatus 0x38 1 0 1 0 0 0 0 0 0 ::
  row .secReportCmd 0x40 1 0 1 0 0 0 0 0 0 ::
  row .secReportStatus 0x48 1 0 1 0 0 0 0 0 0 ::
  row .secNonceI 0x60 4 8 1 0 0 0xffffffffffffffff 0 0 0 ::
  row .secKeyLoads 0x100 1 0 1 0 0 0 0 0 48 ::
  row .secKeyRefused 0x108 1 0 1 0 0 0 0 0 48 ::
  row .secReports 0x110 1 0 1 0 0 0 0 0 48 ::
  row .secSweepPages 0x118 1 0 1 0 0 0 0 0 48 ::
  row .secPartKeysP 0x1000 16 0x40 1 0 0 0 0 0 0 ::
  row .secFabCtrlP 0x1008 16 0x40 1 0 0 1 0 0 0 ::
  row .secKeySeqP 0x1010 16 0x40 1 0 0 0 0 0 0 ::
  row .secKcvPK 0x1020 16 0x40 4 8 0 0 0 0 0 ::
  row .secPeerP 0x2000 18 0x10 1 0 0 0 0 0 0 ::
  row .secPeerPrevP 0x2008 18 0x10 1 0 0 0 0 0 0 ::
  row .secReportBuf 0x10000 1024 8 1 0 0 0 0 0 0 :: []

/-- The rows of the TEL_ tables. -/
def telMap : List (RegId × RegRow) :=
  row .telCap 0 1 0 1 0 0x640201b 0 0 0 0 ::
  row .telCtrl 8 1 0 1 0 0 1 0 0 0 ::
  row .telTime 0x10 1 0 1 0 0 0 0 0 0 ::
  row .telIpfixPen 0x18 1 0 1 0 0 0 0xffffffff 0 0 ::
  row .telDmpCfg 0x20 1 0 1 0 0x1000a2814406b5 0xffffffffffffff 0 0 0 ::
  row .telDmpLim 0x28 1 0 1 0 0x1002003e801 0x103ffffffff 0 0 0 ::
  row .telDmpStatus 0x30 1 0 1 0 0 0 0 0 0 ::
  row .telRateSent 0x100 1 0 1 0 0 0 0 0 48 ::
  row .telRateRecv 0x108 1 0 1 0 0 0 0 0 48 ::
  row .telRateDrop 0x110 1 0 1 0 0 0 0 0 48 ::
  row .telRateNoflow 0x118 1 0 1 0 0 0 0 0 48 ::
  row .telRateCuts 0x120 1 0 1 0 0 0 0 0 48 ::
  row .telIpfixRecords 0x128 1 0 1 0 0 0 0 0 48 ::
  row .telClkD 0x200 23 8 1 0 0 0 0 0 0 ::
  row .telHrtIdleF 0x400 4 8 1 0 0 0 0 0 64 ::
  row .telColDamperP 0x500 16 8 1 0 0 0 0 0 48 ::
  row .telHistHB 0x1000 27 0x200 32 8 0 0 0 0 0 ::
  row .telHsnapHB 0x1100 27 0x200 32 8 0 0 0 0 0 ::
  row .telFecNB 0x6000 18 0x40 6 8 0 0 0 0 48 ::
  row .telHrtGateH 0x7000 256 8 1 0 0 0 0 0 48 ::
  row .telHrtNotaskH 0x7800 256 8 1 0 0 0 0 0 48 :: []

/-- The rows of the PWR_ tables. -/
def pwrMap : List (RegId × RegRow) :=
  row .pwrCap 0 1 0 1 0 0x6a40af00004 0 0 0 0 ::
  row .pwrCtrl 8 1 0 1 0 0x36401 0xfff03 0 0 0 ::
  row .pwrDevPower 0x10 1 0 1 0 0 0 0 0 0 ::
  row .pwrDevEnergy 0x18 1 0 1 0 0 0 0 0 64 ::
  row .pwrTrip 0x20 1 0 1 0 0x6e696e 0 0xffffff 0 0 ::
  row .pwrFbCapF 0x100 4 0x40 1 0 0x385f0a1a9 0x3ffffffff 0 0 0 ::
  row .pwrFbStatusF 0x108 4 0x40 1 0 0 0 0 0 0 ::
  row .pwrFbGateCyclesF 0x110 4 0x40 1 0 0 0 0 0 64 ::
  row .pwrFbEnergyF 0x118 4 0x40 1 0 0 0 0 0 64 ::
  row .pwrFbOverF 0x120 4 0x40 1 0 0 0 0 0 48 ::
  row .pwrBdStatusD 0x300 4 8 1 0 0 0 0 0 0 :: []

/-- The rows of the ERR_ tables. -/
def errMap : List (RegId × RegRow) :=
  row .errCap 0 1 0 1 0 0x14040100 0 0 0 0 ::
  row .errCtrl 8 1 0 1 0 0xe100200 0xffff0f01 0 0 0 ::
  row .errSummary 0x10 1 0 1 0 0 0 0 0 0 ::
  row .errDevLog 0x18 1 0 1 0 0 0 0 1 0 ::
  row .errDevCount 0x20 1 0 1 0 0 0 0 0 0 ::
  row .errUnitLog 0x28 1 0 1 0 0 0 0 1 0 ::
  row .errUnitCount 0x30 1 0 1 0 0 0 0 0 0 ::
  row .errInject 0x38 1 0 1 0 0 0xffffff0f 0 0 0 ::
  row .errRefclk 0x40 1 0 1 0 0 0 0 0 0 ::
  row .errSlices 0x48 1 0 1 0 0xf 0 0 0 0 ::
  row .errReqLost 0x100 1 0 1 0 0 0 0 0 48 ::
  row .errHrtFaults 0x108 1 0 1 0 0 0 0 0 48 ::
  row .errOosEvents 0x110 1 0 1 0 0 0 0 0 48 ::
  row .errHrtFaultI 0x200 4 8 1 0 0 0 0 0xffffffffffffffff 0 ::
  row .errHrtOosI 0x220 4 8 1 0 0 0 0 0 0 :: []

/-- The rows of the STK_ tables. -/
def stkMap : List (RegId × RegRow) :=
  row .stkCap 0 1 0 1 0 0x32020408 0 0 0 0 ::
  row .stkCmd 8 1 0 1 0 0 0 0 0 0 ::
  row .stkCmdStatus 0x10 1 0 1 0 0 0 0 0 0 ::
  row .stkStatus 0x18 1 0 1 0 0 0 0 0 0 ::
  row .stkWdogCfg 0x20 1 0 1 0 0x7d064006403e8 0xffffffffffffff 0 0 0 ::
  row .stkFwInfo 0x28 1 0 1 0 0 0 0 0 0 ::
  row .stkAshHead 0x30 1 0 1 0 0 0 0 0 0 ::
  row .stkHoldMaskI 0x40 4 8 1 0 0 0xffffffffffffffff 0 0 0 ::
  row .stkDigQuery 0x60 1 0 1 0 0 0xffffffffffffff1f 0 0 0 ::
  row .stkDigResult 0x68 1 0 1 0 0 0 0 0 0 ::
  row .stkWarmResets 0x100 1 0 1 0 0 0 0 0 48 ::
  row .stkHrtResets 0x108 1 0 1 0 0 0 0 0 48 ::
  row .stkSuspectRuns 0x110 1 0 1 0 0 0 0 0 48 ::
  row .stkWdogTask 0x118 1 0 1 0 0 0 0 0 48 ::
  row .stkWdogColl 0x120 1 0 1 0 0 0 0 0 48 ::
  row .stkRestarts 0x128 1 0 1 0 0 0 0 0 48 ::
  row .stkAshBufK 0x10000 8 0x1000 512 8 0 0 0 0 0 :: []

/-- The rows of the KND_ tables. -/
def kndMap : List (RegId × RegRow) :=
  row .kndCap 0 1 0 1 0 0xc84020 0 0 0 0 ::
  row .kndStatus 0x10 1 0 1 0 0 0 0 0 0 ::
  row .kndErrLog 0x18 1 0 1 0 0 0 0 1 0 ::
  row .kndErrCount 0x20 1 0 1 0 0 0 0 0 0 ::
  row .kndFlashCmd 0x28 1 0 1 0 0 0 0 0 0 ::
  row .kndFlashStatus 0x30 1 0 1 0 0 0 0 0 0 ::
  row .kndCmd 0x38 1 0 1 0 0 0 0 0 0 ::
  row .kndCmdStatus 0x40 1 0 1 0 0 0 0 0 0 ::
  row .kndOwnerDigestI 0x60 4 8 1 0 0 0xffffffffffffffff 0 0 0 ::
  row .kndCopyInfoC 0x100 2 0x40 1 0 0 0 0 0 0 ::
  row .kndCopyDigCI 0x108 2 0x40 4 8 0 0 0 0 0 ::
  row .kndStageTimeS 0x200 11 8 1 0 0 0 0 0 0 ::
  row .kndFlashBuf 0x10000 8192 8 1 0 0 0xffffffffffffffff 0 0 0 ::
  row .kndCertBuf 0x20000 469 8 1 0 0 0 0 0 0 :: []

/-- The rows of the DEV_ tables. -/
def devMap : List (RegId × RegRow) :=
  row .devCap 0 1 0 1 0 0 0 0 0 0 ::
  row .devStatus 8 1 0 1 0 0 0 0 0 0 ::
  row .devFuses 0x10 1 0 1 0 0 0 0 0 0 :: []

/-- The rows of a block. -/
def blkRows (b : Blk) : List (RegId × RegRow) :=
  match b with
  | .mxa => mxaMap
  | .vec => vecMap
  | .spd => spdMap
  | .flu => fluMap
  | .blw => blwMap
  | .chm => chmMap
  | .mem => memMap
  | .xlt => xltMap
  | .grf => grfMap
  | .atn => atnMap
  | .lnk => lnkMap
  | .fab => fabMap
  | .col => colMap
  | .hst => hstMap
  | .prt => prtMap
  | .sec => secMap
  | .tel => telMap
  | .pwr => pwrMap
  | .err => errMap
  | .stk => stkMap
  | .knd => kndMap
  | .dev => devMap

/-- A register of the control space as the model names it: its address and its value after cold start. -/
structure Reg where
  addr : Nat
  rst : Nat
deriving DecidableEq, Repr

namespace R

/-- MXA_CAP (R93). -/
def mxaCap (h : Nat) : Reg := ⟨blkBase .mxa h + 0, 0x2274080⟩
/-- MXA_CTRL (R93). -/
def mxaCtrl (h : Nat) : Reg := ⟨blkBase .mxa h + 8, 3⟩
/-- MXA_STATUS (R93). -/
def mxaStatus (h : Nat) : Reg := ⟨blkBase .mxa h + 0x10, 0⟩
/-- MXA_TASK_FLAGS (R93). -/
def mxaTaskFlags (h : Nat) : Reg := ⟨blkBase .mxa h + 0x18, 0⟩
/-- MXA_ERR_LOG (R93). -/
def mxaErrLog (h : Nat) : Reg := ⟨blkBase .mxa h + 0x20, 0⟩
/-- MXA_ERR_COUNT (R93). -/
def mxaErrCount (h : Nat) : Reg := ⟨blkBase .mxa h + 0x28, 0⟩
/-- MXA_VALID_ROWS_a (R93). -/
def mxaValidRowsA (h i : Nat) : Reg := ⟨blkBase .mxa h + 0x100 + i * 0x80, 0⟩
/-- MXA_BUB_GAP_a (R93). -/
def mxaBubGapA (h i : Nat) : Reg := ⟨blkBase .mxa h + 0x108 + i * 0x80, 0⟩
/-- MXA_BUB_DRAIN_a (R93). -/
def mxaBubDrainA (h i : Nat) : Reg := ⟨blkBase .mxa h + 0x110 + i * 0x80, 0⟩
/-- MXA_BUB_ACCLD_a (R93). -/
def mxaBubAccldA (h i : Nat) : Reg := ⟨blkBase .mxa h + 0x118 + i * 0x80, 0⟩
/-- MXA_BUB_LOAD_a (R93). -/
def mxaBubLoadA (h i : Nat) : Reg := ⟨blkBase .mxa h + 0x120 + i * 0x80, 0⟩
/-- MXA_BUB_FEED_a (R93). -/
def mxaBubFeedA (h i : Nat) : Reg := ⟨blkBase .mxa h + 0x128 + i * 0x80, 0⟩
/-- MXA_BUB_MASK_a (R93). -/
def mxaBubMaskA (h i : Nat) : Reg := ⟨blkBase .mxa h + 0x130 + i * 0x80, 0⟩
/-- MXA_PASSES_a (R93). -/
def mxaPassesA (h i : Nat) : Reg := ⟨blkBase .mxa h + 0x138 + i * 0x80, 0⟩
/-- MXA_TILE_LOADS_a (R93). -/
def mxaTileLoadsA (h i : Nat) : Reg := ⟨blkBase .mxa h + 0x140 + i * 0x80, 0⟩
/-- VEC_CAP (R120). -/
def vecCap (h : Nat) : Reg := ⟨blkBase .vec h + 0, 0x10882008008040⟩
/-- VEC_CTRL (R120). -/
def vecCtrl (h : Nat) : Reg := ⟨blkBase .vec h + 8, 0⟩
/-- VEC_STATUS (R120). -/
def vecStatus (h : Nat) : Reg := ⟨blkBase .vec h + 0x10, 0⟩
/-- VEC_TASK_FLAGS (R120). -/
def vecTaskFlags (h : Nat) : Reg := ⟨blkBase .vec h + 0x18, 0⟩
/-- VEC_ERR_LOG (R120). -/
def vecErrLog (h : Nat) : Reg := ⟨blkBase .vec h + 0x20, 0⟩
/-- VEC_ERR_COUNT (R120). -/
def vecErrCount (h : Nat) : Reg := ⟨blkBase .vec h + 0x28, 0⟩
/-- VEC_TQ_HEAD (R120). -/
def vecTqHead (h : Nat) : Reg := ⟨blkBase .vec h + 0x30, 0⟩
/-- VEC_DRAW_COUNT (R120). -/
def vecDrawCount (h : Nat) : Reg := ⟨blkBase .vec h + 0x38, 0⟩
/-- VEC_INVOCATIONS (R120). -/
def vecInvocations (h : Nat) : Reg := ⟨blkBase .vec h + 0x100, 0⟩
/-- VEC_ISSUE_CYCLES (R120). -/
def vecIssueCycles (h : Nat) : Reg := ⟨blkBase .vec h + 0x108, 0⟩
/-- VEC_DEP_WAIT (R120). -/
def vecDepWait (h : Nat) : Reg := ⟨blkBase .vec h + 0x110, 0⟩
/-- VEC_IDLE (R120). -/
def vecIdle (h : Nat) : Reg := ⟨blkBase .vec h + 0x118, 0⟩
/-- VEC_TQ_PUSHES (R120). -/
def vecTqPushes (h : Nat) : Reg := ⟨blkBase .vec h + 0x120, 0⟩
/-- VEC_TQ_POPS (R120). -/
def vecTqPops (h : Nat) : Reg := ⟨blkBase .vec h + 0x128, 0⟩
/-- SPD_CAP (R151). -/
def spdCap (h : Nat) : Reg := ⟨blkBase .spd h + 0, 0x8001040081810⟩
/-- SPD_CTRL (R151). -/
def spdCtrl (h : Nat) : Reg := ⟨blkBase .spd h + 8, 8⟩
/-- SPD_STATUS (R151). -/
def spdStatus (h : Nat) : Reg := ⟨blkBase .spd h + 0x10, 0⟩
/-- SPD_ERR_LOG (R151). -/
def spdErrLog (h : Nat) : Reg := ⟨blkBase .spd h + 0x20, 0⟩
/-- SPD_ERR_COUNT (R151). -/
def spdErrCount (h : Nat) : Reg := ⟨blkBase .spd h + 0x28, 0⟩
/-- SPD_CE_LOG (R151). -/
def spdCeLog (h : Nat) : Reg := ⟨blkBase .spd h + 0x30, 0⟩
/-- SPD_CE_COUNT_m (R151). -/
def spdCeCountM (h i : Nat) : Reg := ⟨blkBase .spd h + 0x100 + i * 0x40, 0⟩
/-- SPD_UE_COUNT_m (R151). -/
def spdUeCountM (h i : Nat) : Reg := ⟨blkBase .spd h + 0x108 + i * 0x40, 0⟩
/-- SPD_CONFLICT_m (R151). -/
def spdConflictM (h i : Nat) : Reg := ⟨blkBase .spd h + 0x110 + i * 0x40, 0⟩
/-- SPD_WB_DROP_m (R151). -/
def spdWbDropM (h i : Nat) : Reg := ⟨blkBase .spd h + 0x118 + i * 0x40, 0⟩
/-- SPD_OP_ROWS_m (R151). -/
def spdOpRowsM (h i : Nat) : Reg := ⟨blkBase .spd h + 0x120 + i * 0x40, 0⟩
/-- SPD_HANDLE_h (R151). -/
def spdHandleH (h i : Nat) : Reg := ⟨blkBase .spd h + 0x1000 + i * 8, 0⟩
/-- SPD_SLOT_FULL_w (R151). -/
def spdSlotFullW (h i : Nat) : Reg := ⟨blkBase .spd h + 0x2000 + i * 8, 0⟩
/-- FLU_CAP (R182). -/
def fluCap (h : Nat) : Reg := ⟨blkBase .flu h + 0, 0x100102040083008⟩
/-- FLU_CTRL (R182). -/
def fluCtrl (h : Nat) : Reg := ⟨blkBase .flu h + 8, 0⟩
/-- FLU_STATUS (R182). -/
def fluStatus (h : Nat) : Reg := ⟨blkBase .flu h + 0x10, 0⟩
/-- FLU_ERR_LOG (R182). -/
def fluErrLog (h : Nat) : Reg := ⟨blkBase .flu h + 0x18, 0⟩
/-- FLU_ERR_COUNT (R182). -/
def fluErrCount (h : Nat) : Reg := ⟨blkBase .flu h + 0x20, 0⟩
/-- FLU_WASTED_BYTES (R182). -/
def fluWastedBytes (h : Nat) : Reg := ⟨blkBase .flu h + 0x28, 0⟩
/-- FLU_HINT_BYTES (R182). -/
def fluHintBytes (h : Nat) : Reg := ⟨blkBase .flu h + 0x30, 0⟩
/-- FLU_REQS (R182). -/
def fluReqs (h : Nat) : Reg := ⟨blkBase .flu h + 0x38, 0⟩
/-- FLU_BURSTS (R182). -/
def fluBursts (h : Nat) : Reg := ⟨blkBase .flu h + 0x40, 0⟩
/-- FLU_DESC_PTR_f (R182). -/
def fluDescPtrF (h i : Nat) : Reg := ⟨blkBase .flu h + 0x100 + i * 0x40, 0⟩
/-- FLU_STATE_f (R182). -/
def fluStateF (h i : Nat) : Reg := ⟨blkBase .flu h + 0x108 + i * 0x40, 0⟩
/-- FLU_BYTES_IN_f (R182). -/
def fluBytesInF (h i : Nat) : Reg := ⟨blkBase .flu h + 0x110 + i * 0x40, 0⟩
/-- FLU_BYTES_OUT_f (R182). -/
def fluBytesOutF (h i : Nat) : Reg := ⟨blkBase .flu h + 0x118 + i * 0x40, 0⟩
/-- FLU_TILES_f (R182). -/
def fluTilesF (h i : Nat) : Reg := ⟨blkBase .flu h + 0x120 + i * 0x40, 0⟩
/-- FLU_STALL_c (R182). -/
def fluStallC (h i : Nat) : Reg := ⟨blkBase .flu h + 0x400 + i * 8, 0⟩
/-- BLW_CAP (R188). -/
def blwCap (h : Nat) : Reg := ⟨blkBase .blw h + 0, 0x4002010002⟩
/-- BLW_CTRL (R188). -/
def blwCtrl (h : Nat) : Reg := ⟨blkBase .blw h + 8, 0⟩
/-- BLW_STATUS (R188). -/
def blwStatus (h : Nat) : Reg := ⟨blkBase .blw h + 0x10, 0⟩
/-- BLW_ERR_LOG (R188). -/
def blwErrLog (h : Nat) : Reg := ⟨blkBase .blw h + 0x18, 0⟩
/-- BLW_ERR_COUNT (R188). -/
def blwErrCount (h : Nat) : Reg := ⟨blkBase .blw h + 0x20, 0⟩
/-- BLW_DESC_PTR_b (R188). -/
def blwDescPtrB (h i : Nat) : Reg := ⟨blkBase .blw h + 0x100 + i * 0x40, 0⟩
/-- BLW_STATE_b (R188). -/
def blwStateB (h i : Nat) : Reg := ⟨blkBase .blw h + 0x108 + i * 0x40, 0⟩
/-- BLW_ELEMS_b (R188). -/
def blwElemsB (h i : Nat) : Reg := ⟨blkBase .blw h + 0x110 + i * 0x40, 0⟩
/-- BLW_BYTES_b (R188). -/
def blwBytesB (h i : Nat) : Reg := ⟨blkBase .blw h + 0x118 + i * 0x40, 0⟩
/-- BLW_STALL_b_c (R188). -/
def blwStallBC (h i j : Nat) : Reg := ⟨blkBase .blw h + 0x400 + i * 0x80 + j * 8, 0⟩
/-- CHM_CAP (R225). -/
def chmCap (s : Nat) : Reg := ⟨blkBase .chm s + 0, 0⟩
/-- CHM_CTRL (R225). -/
def chmCtrl (s : Nat) : Reg := ⟨blkBase .chm s + 8, 0x40c⟩
/-- CHM_STATUS (R225). -/
def chmStatus (s : Nat) : Reg := ⟨blkBase .chm s + 0x10, 0x8000⟩
/-- CHM_ERR_LOG (R225). -/
def chmErrLog (s : Nat) : Reg := ⟨blkBase .chm s + 0x18, 0⟩
/-- CHM_ERR_COUNT (R225). -/
def chmErrCount (s : Nat) : Reg := ⟨blkBase .chm s + 0x20, 0⟩
/-- CHM_CE_LOG (R225). -/
def chmCeLog (s : Nat) : Reg := ⟨blkBase .chm s + 0x28, 0⟩
/-- CHM_MC_BUDGET (R225). -/
def chmMcBudget (s : Nat) : Reg := ⟨blkBase .chm s + 0x30, 0xc81000⟩
/-- CHM_ARB_WEIGHT (R225). -/
def chmArbWeight (s : Nat) : Reg := ⟨blkBase .chm s + 0x38, 0x10102040830⟩
/-- CHM_SCRUB (R225). -/
def chmScrub (s : Nat) : Reg := ⟨blkBase .chm s + 0x40, 0⟩
/-- CHM_HITS (R225). -/
def chmHits (s : Nat) : Reg := ⟨blkBase .chm s + 0x100, 0⟩
/-- CHM_MISSES (R225). -/
def chmMisses (s : Nat) : Reg := ⟨blkBase .chm s + 0x108, 0⟩
/-- CHM_FILL_WAIT (R225). -/
def chmFillWait (s : Nat) : Reg := ⟨blkBase .chm s + 0x110, 0⟩
/-- CHM_WB_LINES (R225). -/
def chmWbLines (s : Nat) : Reg := ⟨blkBase .chm s + 0x118, 0⟩
/-- CHM_CE_COUNT (R225). -/
def chmCeCount (s : Nat) : Reg := ⟨blkBase .chm s + 0x120, 0⟩
/-- CHM_UE_COUNT (R225). -/
def chmUeCount (s : Nat) : Reg := ⟨blkBase .chm s + 0x128, 0⟩
/-- CHM_MC_COPIES (R225). -/
def chmMcCopies (s : Nat) : Reg := ⟨blkBase .chm s + 0x130, 0⟩
/-- CHM_MC_PRUNES (R225). -/
def chmMcPrunes (s : Nat) : Reg := ⟨blkBase .chm s + 0x138, 0⟩
/-- CHM_MC_UNICAST (R225). -/
def chmMcUnicast (s : Nat) : Reg := ⟨blkBase .chm s + 0x140, 0⟩
/-- CHM_HINT_DROP (R225). -/
def chmHintDrop (s : Nat) : Reg := ⟨blkBase .chm s + 0x148, 0⟩
/-- CHM_BYTES_DOWN (R225). -/
def chmBytesDown (s : Nat) : Reg := ⟨blkBase .chm s + 0x150, 0⟩
/-- CHM_BYTES_UP (R225). -/
def chmBytesUp (s : Nat) : Reg := ⟨blkBase .chm s + 0x158, 0⟩
/-- CHM_BYTES_HBM_RD (R225). -/
def chmBytesHbmRd (s : Nat) : Reg := ⟨blkBase .chm s + 0x160, 0⟩
/-- CHM_BYTES_HBM_WR (R225). -/
def chmBytesHbmWr (s : Nat) : Reg := ⟨blkBase .chm s + 0x168, 0⟩
/-- CHM_PART_QUOTA_p (R225). -/
def chmPartQuotaP (s i : Nat) : Reg := ⟨blkBase .chm s + 0x1000 + i * 0x20, 0⟩
/-- CHM_PART_USE_p (R225). -/
def chmPartUseP (s i : Nat) : Reg := ⟨blkBase .chm s + 0x1008 + i * 0x20, 0⟩
/-- CHM_PART_RATE_p (R225). -/
def chmPartRateP (s i : Nat) : Reg := ⟨blkBase .chm s + 0x1010 + i * 0x20, 0⟩
/-- CHM_PART_DENY_p (R225). -/
def chmPartDenyP (s i : Nat) : Reg := ⟨blkBase .chm s + 0x1018 + i * 0x20, 0⟩
/-- CHM_MCG_p_g (R225). -/
def chmMcgPG (s i j : Nat) : Reg := ⟨blkBase .chm s + 0x80000 + i * 0x800 + j * 8, 0⟩
/-- MEM_CAP (R247). -/
def memCap (k : Nat) : Reg := ⟨blkBase .mem k + 0, 0⟩
/-- MEM_CTRL (R247). -/
def memCtrl (k : Nat) : Reg := ⟨blkBase .mem k + 8, 0x100c⟩
/-- MEM_STATUS (R247). -/
def memStatus (k : Nat) : Reg := ⟨blkBase .mem k + 0x10, 0⟩
/-- MEM_ERR_LOG (R247). -/
def memErrLog (k : Nat) : Reg := ⟨blkBase .mem k + 0x18, 0⟩
/-- MEM_ERR_COUNT (R247). -/
def memErrCount (k : Nat) : Reg := ⟨blkBase .mem k + 0x20, 0⟩
/-- MEM_CE_LOG (R247). -/
def memCeLog (k : Nat) : Reg := ⟨blkBase .mem k + 0x28, 0⟩
/-- MEM_SCRUB_CFG (R247). -/
def memScrubCfg (k : Nat) : Reg := ⟨blkBase .mem k + 0x30, 0x800000⟩
/-- MEM_FENCE (R247). -/
def memFence (k : Nat) : Reg := ⟨blkBase .mem k + 0x38, 0⟩
/-- MEM_RETIRED (R247). -/
def memRetired (k : Nat) : Reg := ⟨blkBase .mem k + 0x40, 0x28000000000⟩
/-- MEM_TRAIN (R247). -/
def memTrain (k : Nat) : Reg := ⟨blkBase .mem k + 0x48, 0⟩
/-- MEM_RD_BYTES (R247). -/
def memRdBytes (k : Nat) : Reg := ⟨blkBase .mem k + 0x80, 0⟩
/-- MEM_WR_BYTES (R247). -/
def memWrBytes (k : Nat) : Reg := ⟨blkBase .mem k + 0x88, 0⟩
/-- MEM_SCRUB_PASSES (R247). -/
def memScrubPasses (k : Nat) : Reg := ⟨blkBase .mem k + 0x90, 0⟩
/-- MEM_CORR_DROP (R247). -/
def memCorrDrop (k : Nat) : Reg := ⟨blkBase .mem k + 0x98, 0⟩
/-- MEM_CE_COUNT_p (R247). -/
def memCeCountP (k i : Nat) : Reg := ⟨blkBase .mem k + 0x100 + i * 0x20, 0⟩
/-- MEM_UE_COUNT_p (R247). -/
def memUeCountP (k i : Nat) : Reg := ⟨blkBase .mem k + 0x108 + i * 0x20, 0⟩
/-- MEM_REF_FORCED_p (R247). -/
def memRefForcedP (k i : Nat) : Reg := ⟨blkBase .mem k + 0x110 + i * 0x20, 0⟩
/-- MEM_QFULL_p (R247). -/
def memQfullP (k i : Nat) : Reg := ⟨blkBase .mem k + 0x118 + i * 0x20, 0⟩
/-- XLT_CAP (R278). -/
def xltCap (p : Nat) : Reg := ⟨blkBase .xlt p + 0, 0x8100408033010⟩
/-- XLT_CTRL (R278). -/
def xltCtrl (p : Nat) : Reg := ⟨blkBase .xlt p + 8, 0⟩
/-- XLT_STATUS (R278). -/
def xltStatus (p : Nat) : Reg := ⟨blkBase .xlt p + 0x10, 0⟩
/-- XLT_ERR_LOG (R278). -/
def xltErrLog (p : Nat) : Reg := ⟨blkBase .xlt p + 0x18, 0⟩
/-- XLT_ERR_COUNT (R278). -/
def xltErrCount (p : Nat) : Reg := ⟨blkBase .xlt p + 0x20, 0⟩
/-- XLT_RANGE (R278). -/
def xltRange (p : Nat) : Reg := ⟨blkBase .xlt p + 0x28, 0⟩
/-- XLT_KEY (R278). -/
def xltKey (p : Nat) : Reg := ⟨blkBase .xlt p + 0x30, 0⟩
/-- XLT_FRAMES (R278). -/
def xltFrames (p : Nat) : Reg := ⟨blkBase .xlt p + 0x38, 0⟩
/-- XLT_OPQ_BASE_g (R278). -/
def xltOpqBaseG (p i : Nat) : Reg := ⟨blkBase .xlt p + 0x80 + i * 0x20, 0⟩
/-- XLT_OPQ_CFG_g (R278). -/
def xltOpqCfgG (p i : Nat) : Reg := ⟨blkBase .xlt p + 0x88 + i * 0x20, 6⟩
/-- XLT_OPQ_TAIL_g (R278). -/
def xltOpqTailG (p i : Nat) : Reg := ⟨blkBase .xlt p + 0x90 + i * 0x20, 0⟩
/-- XLT_OPQ_HEAD_g (R278). -/
def xltOpqHeadG (p i : Nat) : Reg := ⟨blkBase .xlt p + 0x98 + i * 0x20, 0⟩
/-- XLT_RSV_BASE (R278). -/
def xltRsvBase (p : Nat) : Reg := ⟨blkBase .xlt p + 0xc0, 0⟩
/-- XLT_RSV_CFG (R278). -/
def xltRsvCfg (p : Nat) : Reg := ⟨blkBase .xlt p + 0xc8, 0xa⟩
/-- XLT_RSV_TAIL (R278). -/
def xltRsvTail (p : Nat) : Reg := ⟨blkBase .xlt p + 0xd0, 0⟩
/-- XLT_RSV_HEAD (R278). -/
def xltRsvHead (p : Nat) : Reg := ⟨blkBase .xlt p + 0xd8, 0⟩
/-- XLT_REL_BASE (R278). -/
def xltRelBase (p : Nat) : Reg := ⟨blkBase .xlt p + 0xe0, 0⟩
/-- XLT_REL_CFG (R278). -/
def xltRelCfg (p : Nat) : Reg := ⟨blkBase .xlt p + 0xe8, 0xa⟩
/-- XLT_REL_TAIL (R278). -/
def xltRelTail (p : Nat) : Reg := ⟨blkBase .xlt p + 0xf0, 0⟩
/-- XLT_REL_HEAD (R278). -/
def xltRelHead (p : Nat) : Reg := ⟨blkBase .xlt p + 0xf8, 0⟩
/-- XLT_WALKS (R278). -/
def xltWalks (p : Nat) : Reg := ⟨blkBase .xlt p + 0x100, 0⟩
/-- XLT_WALK_HBM (R278). -/
def xltWalkHbm (p : Nat) : Reg := ⟨blkBase .xlt p + 0x108, 0⟩
/-- XLT_COW_COPIES (R278). -/
def xltCowCopies (p : Nat) : Reg := ⟨blkBase .xlt p + 0x110, 0⟩
/-- XLT_COW_UPGRADES (R278). -/
def xltCowUpgrades (p : Nat) : Reg := ⟨blkBase .xlt p + 0x118, 0⟩
/-- XLT_SHOOTDOWNS (R278). -/
def xltShootdowns (p : Nat) : Reg := ⟨blkBase .xlt p + 0x120, 0⟩
/-- XLT_FREES (R278). -/
def xltFrees (p : Nat) : Reg := ⟨blkBase .xlt p + 0x128, 0⟩
/-- XLT_FAULTS (R278). -/
def xltFaults (p : Nat) : Reg := ⟨blkBase .xlt p + 0x130, 0⟩
/-- XLT_RSV_SKIP (R278). -/
def xltRsvSkip (p : Nat) : Reg := ⟨blkBase .xlt p + 0x138, 0⟩
/-- XLT_TLB_PERR (R278). -/
def xltTlbPerr (p : Nat) : Reg := ⟨blkBase .xlt p + 0x140, 0⟩
/-- XLT_ROOT_i (R278). -/
def xltRootI (p i : Nat) : Reg := ⟨blkBase .xlt p + 0x1000 + i * 8, 0⟩
/-- XLT_TLB_MISS_h (R278). -/
def xltTlbMissH (p i : Nat) : Reg := ⟨blkBase .xlt p + 0x2000 + i * 8, 0⟩
/-- GRF_CAP (R317). -/
def grfCap (p : Nat) : Reg := ⟨blkBase .grf p + 0, 0x80102010000⟩
/-- GRF_CTRL (R317). -/
def grfCtrl (p : Nat) : Reg := ⟨blkBase .grf p + 8, 0x4300⟩
/-- GRF_STATUS (R317). -/
def grfStatus (p : Nat) : Reg := ⟨blkBase .grf p + 0x10, 0⟩
/-- GRF_ERR_LOG (R317). -/
def grfErrLog (p : Nat) : Reg := ⟨blkBase .grf p + 0x18, 0⟩
/-- GRF_ERR_COUNT (R317). -/
def grfErrCount (p : Nat) : Reg := ⟨blkBase .grf p + 0x20, 0⟩
/-- GRF_WDOG (R317). -/
def grfWdog (p : Nat) : Reg := ⟨blkBase .grf p + 0x28, 0x10000000⟩
/-- GRF_MIX_CFG (R317). -/
def grfMixCfg (p : Nat) : Reg := ⟨blkBase .grf p + 0x30, 0x400100⟩
/-- GRF_MIX_TABLE (R317). -/
def grfMixTable (p : Nat) : Reg := ⟨blkBase .grf p + 0x38, 0⟩
/-- GRF_MIX_STATUS (R317). -/
def grfMixStatus (p : Nat) : Reg := ⟨blkBase .grf p + 0x40, 0⟩
/-- GRF_TASKS_DONE (R317). -/
def grfTasksDone (p : Nat) : Reg := ⟨blkBase .grf p + 0x100, 0⟩
/-- GRF_TASKS_FAILED (R317). -/
def grfTasksFailed (p : Nat) : Reg := ⟨blkBase .grf p + 0x108, 0⟩
/-- GRF_REPLAYS (R317). -/
def grfReplays (p : Nat) : Reg := ⟨blkBase .grf p + 0x110, 0⟩
/-- GRF_PREEMPTS (R317). -/
def grfPreempts (p : Nat) : Reg := ⟨blkBase .grf p + 0x118, 0⟩
/-- GRF_UNBINDS (R317). -/
def grfUnbinds (p : Nat) : Reg := ⟨blkBase .grf p + 0x120, 0⟩
/-- GRF_PLACE_AFFINE (R317). -/
def grfPlaceAffine (p : Nat) : Reg := ⟨blkBase .grf p + 0x128, 0⟩
/-- GRF_PLACE_ORDER (R317). -/
def grfPlaceOrder (p : Nat) : Reg := ⟨blkBase .grf p + 0x130, 0⟩
/-- GRF_GRAPHS_DONE (R317). -/
def grfGraphsDone (p : Nat) : Reg := ⟨blkBase .grf p + 0x138, 0⟩
/-- GRF_MIX_STEPS (R317). -/
def grfMixSteps (p : Nat) : Reg := ⟨blkBase .grf p + 0x140, 0⟩
/-- GRF_MIX_PAD_ROWS (R317). -/
def grfMixPadRows (p : Nat) : Reg := ⟨blkBase .grf p + 0x148, 0⟩
/-- GRF_ABORTS_c (R317). -/
def grfAbortsC (p i : Nat) : Reg := ⟨blkBase .grf p + 0x200 + i * 8, 0⟩
/-- GRF_SEM_s (R317). -/
def grfSemS (p i : Nat) : Reg := ⟨blkBase .grf p + 0x1000 + i * 8, 0⟩
/-- GRF_HEARTH_i (R317). -/
def grfHearthI (p i : Nat) : Reg := ⟨blkBase .grf p + 0x2000 + i * 8, 0⟩
/-- ATN_CAP (R339). -/
def atnCap (p : Nat) : Reg := ⟨blkBase .atn p + 0, 0x40008004800400⟩
/-- ATN_CTRL (R339). -/
def atnCtrl (p : Nat) : Reg := ⟨blkBase .atn p + 8, 0⟩
/-- ATN_STATUS (R339). -/
def atnStatus (p : Nat) : Reg := ⟨blkBase .atn p + 0x10, 0⟩
/-- ATN_ERR_LOG (R339). -/
def atnErrLog (p : Nat) : Reg := ⟨blkBase .atn p + 0x18, 0⟩
/-- ATN_ERR_COUNT (R339). -/
def atnErrCount (p : Nat) : Reg := ⟨blkBase .atn p + 0x20, 0⟩
/-- ATN_PLAN_g (R339). -/
def atnPlanG (p i : Nat) : Reg := ⟨blkBase .atn p + 0x100 + i * 0x20, 0⟩
/-- ATN_PLAN_LOAD_g (R339). -/
def atnPlanLoadG (p i : Nat) : Reg := ⟨blkBase .atn p + 0x108 + i * 0x20, 0⟩
/-- ATN_PLAN_PART_g (R339). -/
def atnPlanPartG (p i : Nat) : Reg := ⟨blkBase .atn p + 0x110 + i * 0x20, 0⟩
/-- ATN_GROUPS (R339). -/
def atnGroups (p : Nat) : Reg := ⟨blkBase .atn p + 0x200, 0⟩
/-- ATN_UNITS (R339). -/
def atnUnits (p : Nat) : Reg := ⟨blkBase .atn p + 0x208, 0⟩
/-- ATN_SPLIT_JOBS (R339). -/
def atnSplitJobs (p : Nat) : Reg := ⟨blkBase .atn p + 0x210, 0⟩
/-- ATN_KEY_TILES (R339). -/
def atnKeyTiles (p : Nat) : Reg := ⟨blkBase .atn p + 0x218, 0⟩
/-- ATN_KV_BYTES (R339). -/
def atnKvBytes (p : Nat) : Reg := ⟨blkBase .atn p + 0x220, 0⟩
/-- ATN_PART_BYTES (R339). -/
def atnPartBytes (p : Nat) : Reg := ⟨blkBase .atn p + 0x228, 0⟩
/-- ATN_MERGE_SEGS (R339). -/
def atnMergeSegs (p : Nat) : Reg := ⟨blkBase .atn p + 0x230, 0⟩
/-- ATN_APPEND_TOKENS (R339). -/
def atnAppendTokens (p : Nat) : Reg := ⟨blkBase .atn p + 0x238, 0⟩
/-- ATN_PLAN_WAIT (R339). -/
def atnPlanWait (p : Nat) : Reg := ⟨blkBase .atn p + 0x240, 0⟩
/-- LNK_CAP (R367). -/
def lnkCap (n : Nat) : Reg := ⟨blkBase .lnk n + 0, 0⟩
/-- LNK_CTRL (R367). -/
def lnkCtrl (n : Nat) : Reg := ⟨blkBase .lnk n + 8, 0x10⟩
/-- LNK_STATUS (R367). -/
def lnkStatus (n : Nat) : Reg := ⟨blkBase .lnk n + 0x10, 0⟩
/-- LNK_CFG (R367). -/
def lnkCfg (n : Nat) : Reg := ⟨blkBase .lnk n + 0x18, 0x38101f00⟩
/-- LNK_PARTNER (R367). -/
def lnkPartner (n : Nat) : Reg := ⟨blkBase .lnk n + 0x20, 0⟩
/-- LNK_RTT (R367). -/
def lnkRtt (n : Nat) : Reg := ⟨blkBase .lnk n + 0x28, 0⟩
/-- LNK_ERR_LOG (R367). -/
def lnkErrLog (n : Nat) : Reg := ⟨blkBase .lnk n + 0x30, 0⟩
/-- LNK_ERR_COUNT (R367). -/
def lnkErrCount (n : Nat) : Reg := ⟨blkBase .lnk n + 0x38, 0⟩
/-- LNK_LANE_l (R367). -/
def lnkLaneL (n i : Nat) : Reg := ⟨blkBase .lnk n + 0x80 + i * 8, 0⟩
/-- LNK_TX_FLITS (R367). -/
def lnkTxFlits (n : Nat) : Reg := ⟨blkBase .lnk n + 0x100, 0⟩
/-- LNK_RX_FLITS (R367). -/
def lnkRxFlits (n : Nat) : Reg := ⟨blkBase .lnk n + 0x108, 0⟩
/-- LNK_FEC_CORR (R367). -/
def lnkFecCorr (n : Nat) : Reg := ⟨blkBase .lnk n + 0x110, 0⟩
/-- LNK_FEC_SYM (R367). -/
def lnkFecSym (n : Nat) : Reg := ⟨blkBase .lnk n + 0x118, 0⟩
/-- LNK_FEC_UNCORR (R367). -/
def lnkFecUncorr (n : Nat) : Reg := ⟨blkBase .lnk n + 0x120, 0⟩
/-- LNK_CRC_ERR (R367). -/
def lnkCrcErr (n : Nat) : Reg := ⟨blkBase .lnk n + 0x128, 0⟩
/-- LNK_PROTO_ERR (R367). -/
def lnkProtoErr (n : Nat) : Reg := ⟨blkBase .lnk n + 0x130, 0⟩
/-- LNK_REPLAYS (R367). -/
def lnkReplays (n : Nat) : Reg := ⟨blkBase .lnk n + 0x138, 0⟩
/-- LNK_REPLAY_TO (R367). -/
def lnkReplayTo (n : Nat) : Reg := ⟨blkBase .lnk n + 0x140, 0⟩
/-- LNK_WIN_STALL (R367). -/
def lnkWinStall (n : Nat) : Reg := ⟨blkBase .lnk n + 0x148, 0⟩
/-- LNK_CREDIT_STALL (R367). -/
def lnkCreditStall (n : Nat) : Reg := ⟨blkBase .lnk n + 0x150, 0⟩
/-- LNK_DOWN_EVENTS (R367). -/
def lnkDownEvents (n : Nat) : Reg := ⟨blkBase .lnk n + 0x158, 0⟩
/-- LNK_RETRAINS (R367). -/
def lnkRetrains (n : Nat) : Reg := ⟨blkBase .lnk n + 0x160, 0⟩
/-- LNK_VC_v (R367). -/
def lnkVcV (n i : Nat) : Reg := ⟨blkBase .lnk n + 0x200 + i * 8, 0⟩
/-- LNK_PORT_CFG_p (R370). -/
def lnkPortCfgP (i : Nat) : Reg := ⟨blkBase .lnk 0 + 0x200000 + i * 0x40, 0⟩
/-- LNK_PORT_STATUS_p (R370). -/
def lnkPortStatusP (i : Nat) : Reg := ⟨blkBase .lnk 0 + 0x200008 + i * 0x40, 0⟩
/-- LNK_PORT_NARROW_p (R370). -/
def lnkPortNarrowP (i : Nat) : Reg := ⟨blkBase .lnk 0 + 0x200010 + i * 0x40, 0⟩
/-- LNK_PORT_REPLAYED_p (R370). -/
def lnkPortReplayedP (i : Nat) : Reg := ⟨blkBase .lnk 0 + 0x200018 + i * 0x40, 0⟩
/-- LNK_PORT_STOMPS_p (R370). -/
def lnkPortStompsP (i : Nat) : Reg := ⟨blkBase .lnk 0 + 0x200020 + i * 0x40, 0⟩
/-- FAB_CAP (R405). -/
def fabCap : Reg := ⟨blkBase .fab 0 + 0, 0x200018201000⟩
/-- FAB_CTRL (R405). -/
def fabCtrl : Reg := ⟨blkBase .fab 0 + 8, 0⟩
/-- FAB_ADDR (R405). -/
def fabAddr : Reg := ⟨blkBase .fab 0 + 0x10, 0⟩
/-- FAB_TOPO (R405). -/
def fabTopo : Reg := ⟨blkBase .fab 0 + 0x18, 0⟩
/-- FAB_TOPO_HASH (R405). -/
def fabTopoHash : Reg := ⟨blkBase .fab 0 + 0x20, 0⟩
/-- FAB_E2E_CFG (R405). -/
def fabE2eCfg : Reg := ⟨blkBase .fab 0 + 0x28, 0x4000540014⟩
/-- FAB_STATUS (R405). -/
def fabStatus : Reg := ⟨blkBase .fab 0 + 0x30, 0⟩
/-- FAB_ERR_LOG (R405). -/
def fabErrLog : Reg := ⟨blkBase .fab 0 + 0x38, 0⟩
/-- FAB_ERR_COUNT (R405). -/
def fabErrCount : Reg := ⟨blkBase .fab 0 + 0x40, 0⟩
/-- FAB_TRANSIT_PKTS (R405). -/
def fabTransitPkts : Reg := ⟨blkBase .fab 0 + 0x100, 0⟩
/-- FAB_TRANSIT_FLITS (R405). -/
def fabTransitFlits : Reg := ⟨blkBase .fab 0 + 0x108, 0⟩
/-- FAB_DELIVERED (R405). -/
def fabDelivered : Reg := ⟨blkBase .fab 0 + 0x110, 0⟩
/-- FAB_SENT (R405). -/
def fabSent : Reg := ⟨blkBase .fab 0 + 0x118, 0⟩
/-- FAB_DUP_DROP (R405). -/
def fabDupDrop : Reg := ⟨blkBase .fab 0 + 0x120, 0⟩
/-- FAB_DEFER (R405). -/
def fabDefer : Reg := ⟨blkBase .fab 0 + 0x128, 0⟩
/-- FAB_RESENDS (R405). -/
def fabResends : Reg := ⟨blkBase .fab 0 + 0x130, 0⟩
/-- FAB_AUTH_FAIL (R405). -/
def fabAuthFail : Reg := ⟨blkBase .fab 0 + 0x138, 0⟩
/-- FAB_TTL_DROP (R405). -/
def fabTtlDrop : Reg := ⟨blkBase .fab 0 + 0x140, 0⟩
/-- FAB_VC_MISMATCH (R405). -/
def fabVcMismatch : Reg := ⟨blkBase .fab 0 + 0x148, 0⟩
/-- FAB_NO_ROUTE (R405). -/
def fabNoRoute : Reg := ⟨blkBase .fab 0 + 0x150, 0⟩
/-- FAB_ESC_ENTRIES (R405). -/
def fabEscEntries : Reg := ⟨blkBase .fab 0 + 0x158, 0⟩
/-- FAB_ALT_ROUTED (R405). -/
def fabAltRouted : Reg := ⟨blkBase .fab 0 + 0x160, 0⟩
/-- FAB_FLOW_FAILED (R405). -/
def fabFlowFailed : Reg := ⟨blkBase .fab 0 + 0x168, 0⟩
/-- FAB_ADJ_p (R405). -/
def fabAdjP (i : Nat) : Reg := ⟨blkBase .fab 0 + 0x400 + i * 8, 0⟩
/-- FAB_VCMAP_v (R405). -/
def fabVcmapV (i : Nat) : Reg := ⟨blkBase .fab 0 + 0x1000 + i * 8, 0⟩
/-- FAB_ROUTE_d (R405). -/
def fabRouteD (i : Nat) : Reg := ⟨blkBase .fab 0 + 0x2000 + i * 8, 0⟩
/-- COL_CAP (R407). -/
def colCap : Reg := ⟨blkBase .col 0 + 0, 0x2191210000100⟩
/-- COL_CTRL (R407). -/
def colCtrl : Reg := ⟨blkBase .col 0 + 8, 0⟩
/-- COL_NAN_POLICY (R407). -/
def colNanPolicy : Reg := ⟨blkBase .col 0 + 0x10, 0⟩
/-- COL_DIG_HEAD (R407). -/
def colDigHead : Reg := ⟨blkBase .col 0 + 0x18, 0⟩
/-- COL_ERR_LOG (R407). -/
def colErrLog : Reg := ⟨blkBase .col 0 + 0x20, 0⟩
/-- COL_ERR_COUNT (R407). -/
def colErrCount : Reg := ⟨blkBase .col 0 + 0x28, 0⟩
/-- COL_INSTANCES (R407). -/
def colInstances : Reg := ⟨blkBase .col 0 + 0x100, 0⟩
/-- COL_BYTES_SENT (R407). -/
def colBytesSent : Reg := ⟨blkBase .col 0 + 0x108, 0⟩
/-- COL_BYTES_RECV (R407). -/
def colBytesRecv : Reg := ⟨blkBase .col 0 + 0x110, 0⟩
/-- COL_BACKUP_TAKEN (R407). -/
def colBackupTaken : Reg := ⟨blkBase .col 0 + 0x118, 0⟩
/-- COL_BACKUP_DISCARD (R407). -/
def colBackupDiscard : Reg := ⟨blkBase .col 0 + 0x120, 0⟩
/-- COL_LATE (R407). -/
def colLate : Reg := ⟨blkBase .col 0 + 0x128, 0⟩
/-- COL_PRUNES (R407). -/
def colPrunes : Reg := ⟨blkBase .col 0 + 0x130, 0⟩
/-- COL_GAPS (R407). -/
def colGaps : Reg := ⟨blkBase .col 0 + 0x138, 0⟩
/-- COL_FETCHES (R407). -/
def colFetches : Reg := ⟨blkBase .col 0 + 0x140, 0⟩
/-- COL_NAN (R407). -/
def colNan : Reg := ⟨blkBase .col 0 + 0x148, 0⟩
/-- COL_FAILED (R407). -/
def colFailed : Reg := ⟨blkBase .col 0 + 0x150, 0⟩
/-- COL_PART_TABLE_p (R407). -/
def colPartTableP (i : Nat) : Reg := ⟨blkBase .col 0 + 0x1000 + i * 0x40, 0⟩
/-- COL_PART_CTRL_p (R407). -/
def colPartCtrlP (i : Nat) : Reg := ⟨blkBase .col 0 + 0x1008 + i * 0x40, 0⟩
/-- COL_PART_STATUS_p (R407). -/
def colPartStatusP (i : Nat) : Reg := ⟨blkBase .col 0 + 0x1010 + i * 0x40, 0⟩
/-- COL_NAN_LOG_p (R407). -/
def colNanLogP (i : Nat) : Reg := ⟨blkBase .col 0 + 0x1018 + i * 0x40, 0⟩
/-- COL_ENTRY_p_c (R407). -/
def colEntryPC (i j : Nat) : Reg := ⟨blkBase .col 0 + 0x40000 + i * 0x800 + j * 8, 0⟩
/-- COL_DIG_i (R407). -/
def colDigI (i j : Nat) : Reg := ⟨blkBase .col 0 + 0x80000 + i * 0x20 + j * 8, 0⟩
/-- HST_CAP (R433). -/
def hstCap : Reg := ⟨blkBase .hst 0 + 0, 0x2400c08400400⟩
/-- HST_CTRL (R433). -/
def hstCtrl : Reg := ⟨blkBase .hst 0 + 8, 4⟩
/-- HST_STATUS (R433). -/
def hstStatus : Reg := ⟨blkBase .hst 0 + 0x10, 0⟩
/-- HST_ERR_LOG (R433). -/
def hstErrLog : Reg := ⟨blkBase .hst 0 + 0x18, 0⟩
/-- HST_ERR_COUNT (R433). -/
def hstErrCount : Reg := ⟨blkBase .hst 0 + 0x20, 0⟩
/-- HST_MAC_ADDR (R433). -/
def hstMacAddr : Reg := ⟨blkBase .hst 0 + 0x28, 0⟩
/-- HST_IP_CFG (R433). -/
def hstIpCfg : Reg := ⟨blkBase .hst 0 + 0x30, 0⟩
/-- HST_IP6_HI (R433). -/
def hstIp6Hi : Reg := ⟨blkBase .hst 0 + 0x38, 0⟩
/-- HST_IP6_LO (R433). -/
def hstIp6Lo : Reg := ⟨blkBase .hst 0 + 0x40, 0⟩
/-- HST_PFC_CFG (R433). -/
def hstPfcCfg : Reg := ⟨blkBase .hst 0 + 0x48, 0x140188⟩
/-- HST_ECN_CFG (R433). -/
def hstEcnCfg : Reg := ⟨blkBase .hst 0 + 0x50, 0x1320040⟩
/-- HST_IPFIX_CFG (R433). -/
def hstIpfixCfg : Reg := ⟨blkBase .hst 0 + 0x58, 0x703e812830000⟩
/-- HST_PFC_THR_i (R433). -/
def hstPfcThrI (i : Nat) : Reg := ⟨blkBase .hst 0 + 0x80 + i * 8, if i = 3 ∨ i = 7 then 0x80008000C0 else 0⟩
/-- HST_RX_FRAMES (R433). -/
def hstRxFrames : Reg := ⟨blkBase .hst 0 + 0x100, 0⟩
/-- HST_TX_FRAMES (R433). -/
def hstTxFrames : Reg := ⟨blkBase .hst 0 + 0x108, 0⟩
/-- HST_RX_BYTES (R433). -/
def hstRxBytes : Reg := ⟨blkBase .hst 0 + 0x110, 0⟩
/-- HST_TX_BYTES (R433). -/
def hstTxBytes : Reg := ⟨blkBase .hst 0 + 0x118, 0⟩
/-- HST_RX_DROP_FULL (R433). -/
def hstRxDropFull : Reg := ⟨blkBase .hst 0 + 0x120, 0⟩
/-- HST_RX_DROP_OTHER (R433). -/
def hstRxDropOther : Reg := ⟨blkBase .hst 0 + 0x128, 0⟩
/-- HST_FEC_CORR (R433). -/
def hstFecCorr : Reg := ⟨blkBase .hst 0 + 0x130, 0⟩
/-- HST_FEC_UNCORR (R433). -/
def hstFecUncorr : Reg := ⟨blkBase .hst 0 + 0x138, 0⟩
/-- HST_ICRC_ERR (R433). -/
def hstIcrcErr : Reg := ⟨blkBase .hst 0 + 0x140, 0⟩
/-- HST_NAK_SENT (R433). -/
def hstNakSent : Reg := ⟨blkBase .hst 0 + 0x148, 0⟩
/-- HST_RETRANS (R433). -/
def hstRetrans : Reg := ⟨blkBase .hst 0 + 0x150, 0⟩
/-- HST_CE_SEEN (R433). -/
def hstCeSeen : Reg := ⟨blkBase .hst 0 + 0x158, 0⟩
/-- HST_CNP_SENT (R433). -/
def hstCnpSent : Reg := ⟨blkBase .hst 0 + 0x160, 0⟩
/-- HST_CNP_RECV (R433). -/
def hstCnpRecv : Reg := ⟨blkBase .hst 0 + 0x168, 0⟩
/-- HST_RELEASE_BAD (R433). -/
def hstReleaseBad : Reg := ⟨blkBase .hst 0 + 0x170, 0⟩
/-- HST_IPFIX_DROP (R433). -/
def hstIpfixDrop : Reg := ⟨blkBase .hst 0 + 0x178, 0⟩
/-- HST_PAUSE_RX_i (R433). -/
def hstPauseRxI (i : Nat) : Reg := ⟨blkBase .hst 0 + 0x200 + i * 0x10, 0⟩
/-- HST_PAUSE_TX_i (R433). -/
def hstPauseTxI (i : Nat) : Reg := ⟨blkBase .hst 0 + 0x208 + i * 0x10, 0⟩
/-- HST_QP_CTRL_q (R433). -/
def hstQpCtrlQ (i : Nat) : Reg := ⟨blkBase .hst 0 + 0x10000 + i * 0x40, 0x7ee698⟩
/-- HST_QP_PEER_q (R433). -/
def hstQpPeerQ (i : Nat) : Reg := ⟨blkBase .hst 0 + 0x10008 + i * 0x40, 0⟩
/-- HST_QP_MAC_q (R433). -/
def hstQpMacQ (i : Nat) : Reg := ⟨blkBase .hst 0 + 0x10010 + i * 0x40, 0⟩
/-- HST_QP_IP_HI_q (R433). -/
def hstQpIpHiQ (i : Nat) : Reg := ⟨blkBase .hst 0 + 0x10018 + i * 0x40, 0⟩
/-- HST_QP_IP_LO_q (R433). -/
def hstQpIpLoQ (i : Nat) : Reg := ⟨blkBase .hst 0 + 0x10020 + i * 0x40, 0⟩
/-- HST_QP_PSN_q (R433). -/
def hstQpPsnQ (i : Nat) : Reg := ⟨blkBase .hst 0 + 0x10028 + i * 0x40, 0⟩
/-- HST_QP_CQ_q (R433). -/
def hstQpCqQ (i : Nat) : Reg := ⟨blkBase .hst 0 + 0x10030 + i * 0x40, 0⟩
/-- HST_QP_STATUS_q (R433). -/
def hstQpStatusQ (i : Nat) : Reg := ⟨blkBase .hst 0 + 0x10038 + i * 0x40, 0⟩
/-- PRT_CAP (R467). -/
def prtCap : Reg := ⟨blkBase .prt 0 + 0, 0xf000101010⟩
/-- PRT_CMD (R467). -/
def prtCmd : Reg := ⟨blkBase .prt 0 + 8, 0⟩
/-- PRT_CMD_STATUS (R467). -/
def prtCmdStatus : Reg := ⟨blkBase .prt 0 + 0x10, 0⟩
/-- PRT_UNITS_FREE (R467). -/
def prtUnitsFree : Reg := ⟨blkBase .prt 0 + 0x18, 0xffff⟩
/-- PRT_ERR_LOG (R467). -/
def prtErrLog : Reg := ⟨blkBase .prt 0 + 0x20, 0⟩
/-- PRT_ERR_COUNT (R467). -/
def prtErrCount : Reg := ⟨blkBase .prt 0 + 0x28, 0⟩
/-- PRT_BLOCKS_FREE (R467). -/
def prtBlocksFree : Reg := ⟨blkBase .prt 0 + 0x30, 0xffff⟩
/-- PRT_STATUS_p (R467). -/
def prtStatusP (i : Nat) : Reg := ⟨blkBase .prt 0 + 0x1000 + i * 0x40, 0⟩
/-- PRT_QUOTA_p (R467). -/
def prtQuotaP (i : Nat) : Reg := ⟨blkBase .prt 0 + 0x1008 + i * 0x40, 0⟩
/-- PRT_RATE_p (R467). -/
def prtRateP (i : Nat) : Reg := ⟨blkBase .prt 0 + 0x1010 + i * 0x40, 0⟩
/-- PRT_ACCESS_ERR_p (R467). -/
def prtAccessErrP (i : Nat) : Reg := ⟨blkBase .prt 0 + 0x1018 + i * 0x40, 0⟩
/-- PRT_MEM_p (R467). -/
def prtMemP (i : Nat) : Reg := ⟨blkBase .prt 0 + 0x1020 + i * 0x40, 0⟩
/-- SEC_CAP (R470). -/
def secCap : Reg := ⟨blkBase .sec 0 + 0, 0x4a00822⟩
/-- SEC_CTRL (R470). -/
def secCtrl : Reg := ⟨blkBase .sec 0 + 8, 0⟩
/-- SEC_STATUS (R470). -/
def secStatus : Reg := ⟨blkBase .sec 0 + 0x10, 0⟩
/-- SEC_ERR_LOG (R470). -/
def secErrLog : Reg := ⟨blkBase .sec 0 + 0x18, 0⟩
/-- SEC_ERR_COUNT (R470). -/
def secErrCount : Reg := ⟨blkBase .sec 0 + 0x20, 0⟩
/-- SEC_DEVICE_ID (R470). -/
def secDeviceId : Reg := ⟨blkBase .sec 0 + 0x28, 0⟩
/-- SEC_KEY_CMD (R470). -/
def secKeyCmd : Reg := ⟨blkBase .sec 0 + 0x30, 0⟩
/-- SEC_KEY_STATUS (R470). -/
def secKeyStatus : Reg := ⟨blkBase .sec 0 + 0x38, 0⟩
/-- SEC_REPORT_CMD (R470). -/
def secReportCmd : Reg := ⟨blkBase .sec 0 + 0x40, 0⟩
/-- SEC_REPORT_STATUS (R470). -/
def secReportStatus : Reg := ⟨blkBase .sec 0 + 0x48, 0⟩
/-- SEC_NONCE_i (R470). -/
def secNonceI (i : Nat) : Reg := ⟨blkBase .sec 0 + 0x60 + i * 8, 0⟩
/-- SEC_KEY_LOADS (R470). -/
def secKeyLoads : Reg := ⟨blkBase .sec 0 + 0x100, 0⟩
/-- SEC_KEY_REFUSED (R470). -/
def secKeyRefused : Reg := ⟨blkBase .sec 0 + 0x108, 0⟩
/-- SEC_REPORTS (R470). -/
def secReports : Reg := ⟨blkBase .sec 0 + 0x110, 0⟩
/-- SEC_SWEEP_PAGES (R470). -/
def secSweepPages : Reg := ⟨blkBase .sec 0 + 0x118, 0⟩
/-- SEC_PART_KEYS_p (R470). -/
def secPartKeysP (i : Nat) : Reg := ⟨blkBase .sec 0 + 0x1000 + i * 0x40, 0⟩
/-- SEC_FAB_CTRL_p (R470). -/
def secFabCtrlP (i : Nat) : Reg := ⟨blkBase .sec 0 + 0x1008 + i * 0x40, 0⟩
/-- SEC_KEY_SEQ_p (R470). -/
def secKeySeqP (i : Nat) : Reg := ⟨blkBase .sec 0 + 0x1010 + i * 0x40, 0⟩
/-- SEC_KCV_p_k (R470). -/
def secKcvPK (i j : Nat) : Reg := ⟨blkBase .sec 0 + 0x1020 + i * 0x40 + j * 8, 0⟩
/-- SEC_PEER_p (R470). -/
def secPeerP (i : Nat) : Reg := ⟨blkBase .sec 0 + 0x2000 + i * 0x10, 0⟩
/-- SEC_PEER_PREV_p (R470). -/
def secPeerPrevP (i : Nat) : Reg := ⟨blkBase .sec 0 + 0x2008 + i * 0x10, 0⟩
/-- SEC_REPORT_BUF (R470). -/
def secReportBuf (i : Nat) : Reg := ⟨blkBase .sec 0 + 0x10000 + i * 8, 0⟩
/-- TEL_CAP (R493). -/
def telCap : Reg := ⟨blkBase .tel 0 + 0, 0x640201b⟩
/-- TEL_CTRL (R493). -/
def telCtrl : Reg := ⟨blkBase .tel 0 + 8, 0⟩
/-- TEL_TIME (R493). -/
def telTime : Reg := ⟨blkBase .tel 0 + 0x10, 0⟩
/-- TEL_IPFIX_PEN (R493). -/
def telIpfixPen : Reg := ⟨blkBase .tel 0 + 0x18, 0⟩
/-- TEL_DMP_CFG (R493). -/
def telDmpCfg : Reg := ⟨blkBase .tel 0 + 0x20, 0x1000a2814406b5⟩
/-- TEL_DMP_LIM (R493). -/
def telDmpLim : Reg := ⟨blkBase .tel 0 + 0x28, 0x1002003e801⟩
/-- TEL_DMP_STATUS (R493). -/
def telDmpStatus : Reg := ⟨blkBase .tel 0 + 0x30, 0⟩
/-- TEL_RATE_SENT (R493). -/
def telRateSent : Reg := ⟨blkBase .tel 0 + 0x100, 0⟩
/-- TEL_RATE_RECV (R493). -/
def telRateRecv : Reg := ⟨blkBase .tel 0 + 0x108, 0⟩
/-- TEL_RATE_DROP (R493). -/
def telRateDrop : Reg := ⟨blkBase .tel 0 + 0x110, 0⟩
/-- TEL_RATE_NOFLOW (R493). -/
def telRateNoflow : Reg := ⟨blkBase .tel 0 + 0x118, 0⟩
/-- TEL_RATE_CUTS (R493). -/
def telRateCuts : Reg := ⟨blkBase .tel 0 + 0x120, 0⟩
/-- TEL_IPFIX_RECORDS (R493). -/
def telIpfixRecords : Reg := ⟨blkBase .tel 0 + 0x128, 0⟩
/-- TEL_CLK_d (R493). -/
def telClkD (i : Nat) : Reg := ⟨blkBase .tel 0 + 0x200 + i * 8, 0⟩
/-- TEL_HRT_IDLE_f (R493). -/
def telHrtIdleF (i : Nat) : Reg := ⟨blkBase .tel 0 + 0x400 + i * 8, 0⟩
/-- TEL_COL_DAMPER_p (R493). -/
def telColDamperP (i : Nat) : Reg := ⟨blkBase .tel 0 + 0x500 + i * 8, 0⟩
/-- TEL_HIST_h_b (R493). -/
def telHistHB (i j : Nat) : Reg := ⟨blkBase .tel 0 + 0x1000 + i * 0x200 + j * 8, 0⟩
/-- TEL_HSNAP_h_b (R493). -/
def telHsnapHB (i j : Nat) : Reg := ⟨blkBase .tel 0 + 0x1100 + i * 0x200 + j * 8, 0⟩
/-- TEL_FEC_n_b (R493). -/
def telFecNB (i j : Nat) : Reg := ⟨blkBase .tel 0 + 0x6000 + i * 0x40 + j * 8, 0⟩
/-- TEL_HRT_GATE_h (R493). -/
def telHrtGateH (i : Nat) : Reg := ⟨blkBase .tel 0 + 0x7000 + i * 8, 0⟩
/-- TEL_HRT_NOTASK_h (R493). -/
def telHrtNotaskH (i : Nat) : Reg := ⟨blkBase .tel 0 + 0x7800 + i * 8, 0⟩
/-- PWR_CAP (R495). -/
def pwrCap : Reg := ⟨blkBase .pwr 0 + 0, 0x6a40af00004⟩
/-- PWR_CTRL (R495). -/
def pwrCtrl : Reg := ⟨blkBase .pwr 0 + 8, 0x36401⟩
/-- PWR_DEV_POWER (R495). -/
def pwrDevPower : Reg := ⟨blkBase .pwr 0 + 0x10, 0⟩
/-- PWR_DEV_ENERGY (R495). -/
def pwrDevEnergy : Reg := ⟨blkBase .pwr 0 + 0x18, 0⟩
/-- PWR_TRIP (R495). -/
def pwrTrip : Reg := ⟨blkBase .pwr 0 + 0x20, 0x6e696e⟩
/-- PWR_FB_CAP_f (R495). -/
def pwrFbCapF (i : Nat) : Reg := ⟨blkBase .pwr 0 + 0x100 + i * 0x40, 0x385f0a1a9⟩
/-- PWR_FB_STATUS_f (R495). -/
def pwrFbStatusF (i : Nat) : Reg := ⟨blkBase .pwr 0 + 0x108 + i * 0x40, 0⟩
/-- PWR_FB_GATE_CYCLES_f (R495). -/
def pwrFbGateCyclesF (i : Nat) : Reg := ⟨blkBase .pwr 0 + 0x110 + i * 0x40, 0⟩
/-- PWR_FB_ENERGY_f (R495). -/
def pwrFbEnergyF (i : Nat) : Reg := ⟨blkBase .pwr 0 + 0x118 + i * 0x40, 0⟩
/-- PWR_FB_OVER_f (R495). -/
def pwrFbOverF (i : Nat) : Reg := ⟨blkBase .pwr 0 + 0x120 + i * 0x40, 0⟩
/-- PWR_BD_STATUS_d (R495). -/
def pwrBdStatusD (i : Nat) : Reg := ⟨blkBase .pwr 0 + 0x300 + i * 8, 0⟩
/-- ERR_CAP (R526). -/
def errCap : Reg := ⟨blkBase .err 0 + 0, 0x14040100⟩
/-- ERR_CTRL (R526). -/
def errCtrl : Reg := ⟨blkBase .err 0 + 8, 0xe100200⟩
/-- ERR_SUMMARY (R526). -/
def errSummary : Reg := ⟨blkBase .err 0 + 0x10, 0⟩
/-- ERR_DEV_LOG (R526). -/
def errDevLog : Reg := ⟨blkBase .err 0 + 0x18, 0⟩
/-- ERR_DEV_COUNT (R526). -/
def errDevCount : Reg := ⟨blkBase .err 0 + 0x20, 0⟩
/-- ERR_UNIT_LOG (R526). -/
def errUnitLog : Reg := ⟨blkBase .err 0 + 0x28, 0⟩
/-- ERR_UNIT_COUNT (R526). -/
def errUnitCount : Reg := ⟨blkBase .err 0 + 0x30, 0⟩
/-- ERR_INJECT (R526). -/
def errInject : Reg := ⟨blkBase .err 0 + 0x38, 0⟩
/-- ERR_REFCLK (R526). -/
def errRefclk : Reg := ⟨blkBase .err 0 + 0x40, 0⟩
/-- ERR_SLICES (R526). -/
def errSlices : Reg := ⟨blkBase .err 0 + 0x48, 0xf⟩
/-- ERR_REQ_LOST (R526). -/
def errReqLost : Reg := ⟨blkBase .err 0 + 0x100, 0⟩
/-- ERR_HRT_FAULTS (R526). -/
def errHrtFaults : Reg := ⟨blkBase .err 0 + 0x108, 0⟩
/-- ERR_OOS_EVENTS (R526). -/
def errOosEvents : Reg := ⟨blkBase .err 0 + 0x110, 0⟩
/-- ERR_HRT_FAULT_i (R526). -/
def errHrtFaultI (i : Nat) : Reg := ⟨blkBase .err 0 + 0x200 + i * 8, 0⟩
/-- ERR_HRT_OOS_i (R526). -/
def errHrtOosI (i : Nat) : Reg := ⟨blkBase .err 0 + 0x220 + i * 8, 0⟩
/-- STK_CAP (R528). -/
def stkCap : Reg := ⟨blkBase .stk 0 + 0, 0x32020408⟩
/-- STK_CMD (R528). -/
def stkCmd : Reg := ⟨blkBase .stk 0 + 8, 0⟩
/-- STK_CMD_STATUS (R528). -/
def stkCmdStatus : Reg := ⟨blkBase .stk 0 + 0x10, 0⟩
/-- STK_STATUS (R528). -/
def stkStatus : Reg := ⟨blkBase .stk 0 + 0x18, 0⟩
/-- STK_WDOG_CFG (R528). -/
def stkWdogCfg : Reg := ⟨blkBase .stk 0 + 0x20, 0x7d064006403e8⟩
/-- STK_FW_INFO (R528). -/
def stkFwInfo : Reg := ⟨blkBase .stk 0 + 0x28, 0⟩
/-- STK_ASH_HEAD (R528). -/
def stkAshHead : Reg := ⟨blkBase .stk 0 + 0x30, 0⟩
/-- STK_HOLD_MASK_i (R528). -/
def stkHoldMaskI (i : Nat) : Reg := ⟨blkBase .stk 0 + 0x40 + i * 8, 0⟩
/-- STK_DIG_QUERY (R528). -/
def stkDigQuery : Reg := ⟨blkBase .stk 0 + 0x60, 0⟩
/-- STK_DIG_RESULT (R528). -/
def stkDigResult : Reg := ⟨blkBase .stk 0 + 0x68, 0⟩
/-- STK_WARM_RESETS (R528). -/
def stkWarmResets : Reg := ⟨blkBase .stk 0 + 0x100, 0⟩
/-- STK_HRT_RESETS (R528). -/
def stkHrtResets : Reg := ⟨blkBase .stk 0 + 0x108, 0⟩
/-- STK_SUSPECT_RUNS (R528). -/
def stkSuspectRuns : Reg := ⟨blkBase .stk 0 + 0x110, 0⟩
/-- STK_WDOG_TASK (R528). -/
def stkWdogTask : Reg := ⟨blkBase .stk 0 + 0x118, 0⟩
/-- STK_WDOG_COLL (R528). -/
def stkWdogColl : Reg := ⟨blkBase .stk 0 + 0x120, 0⟩
/-- STK_RESTARTS (R528). -/
def stkRestarts : Reg := ⟨blkBase .stk 0 + 0x128, 0⟩
/-- STK_ASH_BUF_k (R528). -/
def stkAshBufK (i j : Nat) : Reg := ⟨blkBase .stk 0 + 0x10000 + i * 0x1000 + j * 8, 0⟩
/-- KND_CAP (R554). -/
def kndCap : Reg := ⟨blkBase .knd 0 + 0, 0xc84020⟩
/-- KND_STATUS (R554). -/
def kndStatus : Reg := ⟨blkBase .knd 0 + 0x10, 0⟩
/-- KND_ERR_LOG (R554). -/
def kndErrLog : Reg := ⟨blkBase .knd 0 + 0x18, 0⟩
/-- KND_ERR_COUNT (R554). -/
def kndErrCount : Reg := ⟨blkBase .knd 0 + 0x20, 0⟩
/-- KND_FLASH_CMD (R554). -/
def kndFlashCmd : Reg := ⟨blkBase .knd 0 + 0x28, 0⟩
/-- KND_FLASH_STATUS (R554). -/
def kndFlashStatus : Reg := ⟨blkBase .knd 0 + 0x30, 0⟩
/-- KND_CMD (R554). -/
def kndCmd : Reg := ⟨blkBase .knd 0 + 0x38, 0⟩
/-- KND_CMD_STATUS (R554). -/
def kndCmdStatus : Reg := ⟨blkBase .knd 0 + 0x40, 0⟩
/-- KND_OWNER_DIGEST_i (R554). -/
def kndOwnerDigestI (i : Nat) : Reg := ⟨blkBase .knd 0 + 0x60 + i * 8, 0⟩
/-- KND_COPY_INFO_c (R554). -/
def kndCopyInfoC (i : Nat) : Reg := ⟨blkBase .knd 0 + 0x100 + i * 0x40, 0⟩
/-- KND_COPY_DIG_c_i (R554). -/
def kndCopyDigCI (i j : Nat) : Reg := ⟨blkBase .knd 0 + 0x108 + i * 0x40 + j * 8, 0⟩
/-- KND_STAGE_TIME_s (R554). -/
def kndStageTimeS (i : Nat) : Reg := ⟨blkBase .knd 0 + 0x200 + i * 8, 0⟩
/-- KND_FLASH_BUF (R554). -/
def kndFlashBuf (i : Nat) : Reg := ⟨blkBase .knd 0 + 0x10000 + i * 8, 0⟩
/-- KND_CERT_BUF (R554). -/
def kndCertBuf (i : Nat) : Reg := ⟨blkBase .knd 0 + 0x20000 + i * 8, 0⟩
/-- DEV_CAP (R556). -/
def devCap : Reg := ⟨blkBase .dev 0 + 0, 0⟩
/-- DEV_STATUS (R556). -/
def devStatus : Reg := ⟨blkBase .dev 0 + 8, 0⟩
/-- DEV_FUSES (R556). -/
def devFuses : Reg := ⟨blkBase .dev 0 + 0x10, 0⟩

end R

end Sys2Proof.Machine
end

