-- ==== Sys2Proof/Machine/StokerTypes.lean ====
section
/-!
DEFINITION. The plain data of start-up, the Stoker and recovery (17, 18), the flash and the fuses (18), and the pins (19).
-/

namespace Sys2Proof.Machine

/-- What the device as a whole does: it runs; DEV_RESET_N is low (R531); the boot ROM samples the reference inputs (R532); it has
stopped at a boot failure (R532, R538); a warm reset is in progress (R503); it has halted (R513); the hard thermal limit has
stopped every clock (R571). -/
inductive Phase where
  | run | low | sampling | stopped | warm | halted | cut
deriving DecidableEq, Repr

/-- A firmware bank (R522): whether it holds firmware, the digest of its code, VERSION and SVN. -/
structure FwBank where
  valid : Bool
  digest : List Byte
  version : Nat
  svn : Nat
deriving DecidableEq, Repr

/-- An empty bank. -/
def FwBank.empty : FwBank := ⟨false, [], 0, 0⟩

/-- The suspect procedure (R514, R515): its partition, the suspect that runs alone (task and hearth), and whether the one hearth of
the partition has been reset for the next suspect. -/
structure Suspects where
  part : Nat
  run : Option (Nat × Nat)
  ready : Bool
deriving DecidableEq, Repr

/-- A digest check that waits for its reply (R518): the local entry's BYTES and CRC, or none; peer device, local and peer
partition, entry, EPOCH, direction at the peer. -/
structure DigWait where
  entry : Option (Nat × Nat)
  dev : Nat
  part : Nat
  peer : Nat
  coll : Nat
  epoch : Nat
  dir : Nat
deriving DecidableEq, Repr

/-- A flash command in progress (R550): OP, address, bytes, copy. -/
structure FlashRun where
  op : Nat
  addr : Nat
  len : Nat
  copy : Nat
deriving DecidableEq, Repr

/-- One-time fuses (R553): owner digest once written, SVN_MIN, operations left. -/
structure Fuses where
  owner : Option (List Byte)
  svnMin : Nat
  left : Nat
deriving DecidableEq, Repr

/-- The test access port (R570): the instruction in its register (0 IDCODE, 1 BYPASS, 2 SAMPLE/PRELOAD, 3 EXTEST) and the boundary
cells of the flash, sideband and AVSBus pins. -/
structure Jtag where
  ir : Nat
  cells : Nat
deriving DecidableEq, Repr

/-- The Stoker's own state and what outlives its restarts. `refA` and `refB`: valid reference inputs; `coreB` and `serdesB`: what feeds the
PLLs (R33, R512); `bridges` and `slices`: those in order (R527); `faultN` and `thermN`: DEV_FAULT_N and DEV_THERMTRIP_N low; `trip`: a
thermal trip waits to cool (R512); `service`, `tested`: the hearth that HRT_SERVICE has taken, and the one that HRT_RETURN or RELEASE_HOLD resets; `warmRun`: LAST_START of the warm reset in progress and REMAP; `warmQ`: a WARM_RESET that waits; `digs`: the
digest check in progress; `trial`: the copy of a firmware switch in trial; `imgDigest`: the digest of the Kindling image in use; `expiries`:
seconds at which the Stoker watchdog expired; `ash`: the ash ring; `ashDue`: the record of R509 waits for the restart; `flash` holds each byte
inverted, so that an erased byte (FFH) is the unlisted value; `report` and `cert`: the report and certificate buffers; `bootIn`: a cold start
that waits for a reference input; `base`: the register file as the last cold start left it. -/
structure Stoker where
  phase : Phase
  refA : Bool
  refB : Bool
  coreB : Bool
  serdesB : Bool
  bridges : Nat
  slices : Nat
  faultN : Bool
  thermN : Bool
  trip : Bool
  warmRun : Option (Nat × Bool)
  warmQ : Option Bool
  susp : Option Suspects
  service : Option Nat
  tested : Option Nat
  digs : Option DigWait
  fw0 : FwBank
  fw1 : FwBank
  trial : Option Nat
  imgDigest : List Byte
  expiries : List Nat
  ash : Tbl (List Byte)
  ashDue : Bool
  flash : Mem
  flashRun : Option FlashRun
  fuses : Fuses
  report : List Byte
  cert : List Byte
  bootIn : Option BootInputs
  base : Tbl Nat
  jtag : Jtag
deriving DecidableEq, Repr

end Sys2Proof.Machine
end

