-- ==== Sys2Proof/Machine/State.lean ====
section
/-!
DEFINITION. The state of the Omkin: everything 00 to 19 of spec/ give the device, as plain data; the queue of waiting commands;
the faults and refusals; the state after reset.
-/

namespace Sys2Proof.Machine

/-- The device. `pending`: the commands that wait, oldest first. `now`: time since the timer PLL locked, in ticks of 1/440 ns (R32, R473).
`fresh`: the model's own counter of free values. `dueAborts`, `dueHrt`: aborts and hearth faults that the command in progress has raised; empty
between commands. `csr`: the register file by control-space address (R9–R11), an unlisted register at its reset value. `nextKey`, `nextPkt`,
`nextFlow`: the model's own numbering of keys, packets and flows. `tx`: what the host port sent in the last command. `held`: an access of the command in progress has to wait; false between commands. `away`: the Stoker is
restarting (R523). `mcast`: the multicast groups by partition and group (R205). `colUnl`: partitions whose collective table is to be unloaded. `keyRun`, `repRun`: the key command and the report in progress
(R452, R464). `alert`: fireboxes whose last period had no valid reading (R565). -/
structure State where
  pending : List Instr
  now : Nat
  fresh : Nat
  dueAborts : List (Nat × Nat × Nat)
  dueHrt : List (Nat × HearthFaultCause)
  csr : Tbl Nat
  hearths : Tbl Hearth
  graphs : Tbl GraphEng
  slices : Tbl Slice
  mcast : Tbl McGroup
  hbm : Hbm
  xlts : Tbl Xlt
  walks : Tbl (List WalkReq)
  walkCache : List WalkEnt
  parts : Tbl Part
  nextKey : Nat
  links : Tbl Link
  ports : Tbl Port
  nextPkt : Nat
  sflows : List SendFlow
  rflows : List RecvFlow
  nextFlow : Nat
  colIn : List ColMsg
  cols : Tbl ColEnt
  qps : Tbl QPair
  hport : HostPort
  tx : List TxFrame
  held : Bool
  away : Bool
  colUnl : List Nat
  keyRun : Option (Nat × Nat × Nat)
  repRun : Option (List Byte)
  coldStarts : Nat
  ipfix : Ipfix
  loops : Tbl PowerLoop
  alert : Nat
  stk : Stoker
deriving DecidableEq, Repr

/-- Nothing faults the model: every command of the table has an effect or finds no occasion (R10, R576: what the device itself turns away is
answered or ignored, and that is its effect). -/
inductive Fault where
deriving DecidableEq, Repr

/-- The one refusal. -/
inductive Refusal where
  /-- Raised by an arm of `exec` whose command has no meaning in the model yet, under its mnemonic. Safe: the run stops. No arm raises it. -/
  | notModelled (mnemonic : String)
deriving DecidableEq, Repr

/-- Registers that differ from their reset value when the device first serves (R430, R522, R543): STK_STATUS STATE SERVING and FW_OK, STK_FW_INFO
with bank 0, and the management queue pair at RTS on priority 7. -/
def csrServing : Tbl Nat :=
  [(R.stkStatus.addr, 0x11), (R.stkFwInfo.addr, 0x100000000), ((R.hstQpCtrlQ 1024).addr, 0x7EE6B9)]

/-- The Stoker when the device first serves: both reference inputs valid, the core PLLs fed from A and the SerDes PLLs from B (R33); bridges and
slices in order; bank 0 running; every fuse as at manufacture (R556). DESIGN CHOICE: the flash is blank and the firmware's digest, VERSION and SVN are
0 (log 1). -/
def Stoker.serving : Stoker :=
  { phase := .run, refA := true, refB := true, coreB := false, serdesB := true, bridges := 0x3F, slices := 0xF, faultN := false, thermN := false,
    trip := false, warmRun := none, warmQ := none, susp := none, service := none, tested := none, digs := none,
    fw0 := ⟨true, [], 0, 0⟩, fw1 := FwBank.empty, trial := none, imgDigest := [], expiries := [], ash := [], ashDue := false, flash := [],
    flashRun := none, fuses := ⟨none, 0, 32⟩, report := [], cert := [], bootIn := none, base := csrServing, jtag := ⟨0, 0⟩ }

/-- The device when STK_STATUS.STATE first reads SERVING after a cold start (R552). The registers that the Kindling image sets hold their reset
values (log 1). -/
def State.reset : State :=
  { pending := [], now := 0, fresh := 0, dueAborts := [], dueHrt := [], csr := csrServing, hearths := [], graphs := [], slices := [], mcast := [],
    hbm := Hbm.zero, xlts := [], walks := [], walkCache := [], parts := [], nextKey := 1, links := [], ports := [], nextPkt := 0,
    sflows := [], rflows := [], nextFlow := 0, colIn := [], cols := [], qps := [(1024, QPair.reset)], hport := ⟨true, 0, 0, [], 0, 1, []⟩,
    tx := [], held := false, away := false, colUnl := [], keyRun := none, repRun := none, coldStarts := 0, ipfix := ⟨[], []⟩, loops := [], alert := 0,
    stk := .serving }

end Sys2Proof.Machine
end

