-- ==== Sys2Proof/Machine/Ops.lean ====
section
/-!
DEFINITION. The named operations over the machine's registers and parts that every family of commands shares: reading and
writing a register, counters with CNT_FREEZE (R476), error logs (R575), abort requests, armed injections (R578).
-/

namespace Sys2Proof.Machine

/-- The stored value of a register (R11); an unlisted register holds its value after cold start. -/
def rd (s : State) (r : Reg) : Nat := tgetD s.csr r.addr r.rst

/-- A register file with one register given a value, kept canonical: no entry equal to the reset value. -/
def csrPut (t : Tbl Nat) (r : Reg) (v : Nat) : Tbl Nat := if v = r.rst then tdel t r.addr else tput t r.addr v

/-- Stores a register's value. -/
def wr (s : State) (r : Reg) (v : Nat) : State := { s with csr := csrPut s.csr r v }

/-- A field of a register. -/
def rdf (s : State) (r : Reg) (lo len : Nat) : Nat := bits (rd s r) lo len

/-- Stores a field of a register. -/
def wrf (s : State) (r : Reg) (lo len v : Nat) : State := wr s r (setBits (rd s r) lo len v)

/-- A counter of `w` bits advances by `n` unless frozen, and wraps to 0 (R17, R476). -/
def bump (s : State) (frz : Bool) (r : Reg) (n : Nat) (w : Nat := 48) : State :=
  if frz then s else wr s r ((rd s r + n) % 2 ^ w)

/-- An error is detected (R575): the log captures the first while VALID is 0; COUNT counts every one and saturates at
65,535, then sets OVF. `rec` carries the fields above VALID. -/
def logErr (s : State) (log cnt : Reg) (rec : Nat) : State :=
  let s1 := if bit (rd s log) 0 then s else wr s log (rec / 2 * 2 + 1)
  let c := rd s1 cnt
  if bits c 0 16 < 65535 then wr s1 cnt (c + 1) else wr s1 cnt (setBits c 16 1 1)

/-- Hearth `h`; an unlisted hearth is as after a hearth reset, in no partition. -/
def hget (s : State) (h : Nat) : Hearth := tgetD s.hearths h .fresh

/-- Stores hearth `h`. -/
def hput (s : State) (h : Nat) (x : Hearth) : State := { s with hearths := tput s.hearths h x }

/-- Changes hearth `h`. -/
def hmod (s : State) (h : Nat) (f : Hearth → Hearth) : State := hput s h (f (hget s h))

/-- The graph engine of partition `p`. -/
def gget (s : State) (p : Nat) : GraphEng := tgetD s.graphs p .empty

/-- Stores the graph engine of partition `p`. -/
def gput (s : State) (p : Nat) (x : GraphEng) : State := { s with graphs := tput s.graphs p x }

/-- Changes the graph engine of partition `p`. -/
def gmod (s : State) (p : Nat) (f : GraphEng → GraphEng) : State := gput s p (f (gget s p))

/-- Asks for the abort of a task of hearth `h` with a code of R18: it is taken before the command ends. -/
def reqAbort (s : State) (h own code : Nat) : State := { s with dueAborts := s.dueAborts ++ [(h, own, code)] }

/-- A hearth fault (R510) is due: it is taken before the command ends. -/
def reqFault (s : State) (h : Nat) (c : HearthFaultCause) : State := { s with dueHrt := s.dueHrt ++ [(h, c)] }

/-- A fresh free value of `len` bits, and the state with the counter of free values advanced. -/
def freeBits (s : State) (len : Nat) : Nat × State :=
  ((Config.free s.fresh).toNat % 2 ^ len, { s with fresh := s.fresh + 1 })

/-- Is an abort of this task of hearth `h` already due. -/
def abortDue (s : State) (h own : Nat) : Bool := s.dueAborts.any (fun a => a.1 = h && a.2.1 = own)

/-- The KIND that an armed injection fires with at an access of block `b`, instance `i` (R578): none when not armed there. -/
def injKind (s : State) (b i : Nat) : Option Nat :=
  let v := rd s R.errInject
  if bit v 0 && bits v 8 8 = b && bits v 16 16 = i then some (bits v 1 3) else none

/-- The injection has taken effect: FIRED is set and ARM reads 0 (R578). -/
def injFired (s : State) : State := wr s R.errInject (setBits (setBits (rd s R.errInject) 0 1 0) 32 1 1)

/-- Core cycles since power-on: one cycle is 400 ticks of 1/440 ns (R32). -/
def coreNow (s : State) : Nat := s.now / 400

/-- Counts of TEL_TIME, one per 275 ticks (R473). -/
def telNow (s : State) : Nat := s.now / 275

/-- The bin of a latency in base-die cycles (R481): 0 below 64, else the greatest k of 1 to 31 whose lower edge it reaches. -/
def histBin (lat : Nat) : Nat :=
  ((List.range 31).filter (fun i => let k := i + 1; 2 ^ (5 + (k + 1) / 2) * (2 + (k + 1) % 2) / 2 ≤ lat)).length

/-- An event is counted in one bin of histogram `h` (R481, R476): the time since `t0` in counts of TEL_TIME. -/
def histCount (s : State) (h t0 : Nat) : State :=
  bump s (bit (rd s R.telCtrl) 0) (R.telHistHB h (histBin (telNow s - t0))) 1

/-- The number of a field of an IPFIX record: its template (257 is 1) and place. -/
def oweKey (t i : Nat) : Nat := 65536 * t + i

/-- An increase to be exported (R492). -/
def owe (s : State) (key n : Nat) : State :=
  if n = 0 then s else { s with ipfix := { s.ipfix with owed := tput s.ipfix.owed key (tgetD s.ipfix.owed key 0 + n) } }

/-- A counter of `w` bits is sampled: its increase since the last sample is owed to a field; with `key` 0 it belongs to no record
(R477, R479, R492). -/
def sample (s : State) (e : Nat × Reg × Nat) : State :=
  let v := rd s e.2.1
  let old := tgetD s.ipfix.last e.2.1.addr 0
  let d := (v + 2 ^ e.2.2 - old) % 2 ^ e.2.2
  if d = 0 then s
  else
    let s1 := { s with ipfix := { s.ipfix with last := tput s.ipfix.last e.2.1.addr v } }
    if e.1 = 0 then s1 else owe s1 e.1 d

def sampleAll (s : State) (l : List (Nat × Reg × Nat)) : State := l.foldl sample s

/-- DEVICE_ID: the first 8 bytes of the SHA3-256 digest of the identity public key (R461). -/
def deviceId : Nat := leVal ((sha3 ((List.range 1312).map Config.identityKey)).take 8)


end Sys2Proof.Machine
end

