-- ==== Sys2Proof/Machine/Hbm.lean ====
section
/-!
DEFINITION. HBM3E memory (08): the address interleave (R232), queues and ordering (R234, R235), the protection's effects (R236–R239),
refresh (R240), patrol scrub (R241), fencing (R242) and live retraining (R246). Contents are kept as the bytes written and
the key they were encrypted under (R451): a read under another key returns free values.
-/

namespace Sys2Proof.Machine

/-! Address interleave (R232). -/

/-- The live list: positions i = 20p + k, ascending, without the retired ones. -/
def liveList (dead : List Nat) : List Nat := (List.range 640).filter (fun i => !dead.contains i)

/-- L. -/
def liveCount (dead : List Nat) : Nat := (liveList dead).length

/-- The rotation H of block q. -/
def hashH (q L : Nat) : Nat := ((q * 2654435761) % 4294967296) % L

/-- Where a physical address lies (R232), and where the check words of its granule lie in the same bank group (R233). -/
structure HbmLoc where
  k : Nat
  p : Nat
  bg : Nat
  bank : Nat
  row : Nat
  byte : Nat
  slot : Nat
  chkBank : Nat
  chkRow : Nat
  chkByte : Nat
deriving DecidableEq, Repr

/-- The placement of a physical address under the current live list, and of its check words in the carve-out. -/
def hbmLoc (dead : List Nat) (pa : Nat) : HbmLoc :=
  let L := liveCount dead
  let g := pa / 2048
  let q := g / L
  let j := g % L
  let pos := (j + hashH q L) % L
  let i := (lget (liveList dead) pos).getD 0
  let bank := q / 16 % 4
  let row := q / 64
  ⟨i % 20, i / 20, q % 16, bank, row, pa % 2048, q, bank ^^^ 1, 9152 + row / 4, 512 * (row % 4) + 2 * (pa % 2048 / 8)⟩

/-- The key of a pseudo-channel in the tables of controllers. -/
def pcKey (k p : Nat) : Nat := k * 32 + p

/-- The home slice of an address: the base die that owns its stack (R22, R26). -/
def homeSlice (dead : List Nat) (pa : Nat) : Nat := (hbmLoc dead pa).k / 5

/-- The bank group of an address, as R164 counts it. -/
def bankGroup (dead : List Nat) (pa : Nat) : Nat :=
  let l := hbmLoc dead pa
  pcKey l.k l.p * 16 + l.bg

/-- The data capacity in use (R230, R243). -/
def hbmCapacity (dead : List Nat) : Nat := liveCount dead * 1199570944

def pcGet (s : State) (k p : Nat) : PsCh := tgetD s.hbm.pcs (pcKey k p) .idle

def pcPut (s : State) (k p : Nat) (x : PsCh) : State := { s with hbm := { s.hbm with pcs := tput s.hbm.pcs (pcKey k p) x } }

def stkGet (s : State) (k : Nat) : Stack := tgetD s.hbm.stk k .serving

def stkPut (s : State) (k : Nat) (x : Stack) : State := { s with hbm := { s.hbm with stk := tput s.hbm.stk k x } }

/-- A stack whose requests are served: it serves, or it has failed and its pseudo-channels are fenced (R245, R246). -/
def stkServes (s : State) (k : Nat) : Bool := (stkGet s k).st = 2 || (stkGet s k).st = 5

/-- The stack of an address serves. -/
def paServes (s : State) (pa : Nat) : Bool := stkServes s (hbmLoc s.hbm.dead pa).k

/-- Is pseudo-channel `p` of stack `k` fenced (R242). -/
def fenced (s : State) (k p : Nat) : Bool := bit (rd s (R.memFence k)) p

/-- Counters of the MEM_ block under MEM_CTRL.CNT_FREEZE. -/
def memBump (s : State) (k : Nat) (r : Reg) (n : Nat) (w : Nat := 48) : State :=
  bump s (bit (rd s (R.memCtrl k)) 0) r n w

/-- MEM_ERR_LOG captures an error at an address (R248): kind, word within the granule, partition when one is named, source. -/
def memErr (s : State) (pa kind : Nat) (part : Option Nat) (src : Nat) : State :=
  let l := hbmLoc s.hbm.dead pa
  logErr s (R.memErrLog l.k) (R.memErrCount l.k)
    (fieldAt 8 4 kind + fieldAt 12 5 l.p + fieldAt 17 4 l.bg + fieldAt 21 2 l.bank + fieldAt 23 14 l.row +
      fieldAt 37 8 (l.byte / 8) + fieldAt 45 4 (part.getD 0) + fieldAt 49 2 src + fieldAt 51 1 (b1 part.isSome))

/-! Contents under encryption (R451). -/

/-- The number of the key under which a block was last written; 0 when none was. -/
def blockTag (hb : Hbm) (b : Nat) : Nat :=
  match tget hb.tags b with
  | some k => k
  | none => match hb.zkeys.find? (fun z => z.1 ≤ b && b < z.2.1) with
    | some z => z.2.2
    | none => 0

/-- One 16-byte block as key `key` decrypts it: the bytes written under that key, else the free values that this key gives its ciphertext. -/
def blockGet (hb : Hbm) (fresh key b : Nat) : List Byte × Nat :=
  let plain := memGetL hb.mem (16 * b) 16
  if key ≠ 0 && blockTag hb b = key then (plain, fresh)
  else ((List.range 16).map (Config.wrongKey (blockTag hb b) key b plain), fresh)

/-- `n` blocks from block `b`. -/
def blocksGet (hb : Hbm) (fresh key b n : Nat) : List Byte × Nat :=
  match n with
  | 0 => ([], fresh)
  | n + 1 =>
    let x := blockGet hb fresh key b
    let y := blocksGet hb x.2 key (b + 1) n
    (x.1 ++ y.1, y.2)

/-- Bytes written under a key from address `pa`: a block written in part under another key keeps free values elsewhere. -/
def blocksPut (hb : Hbm) (fresh key pa : Nat) (bs : List Byte) (n : Nat) : Hbm × Nat :=
  match n with
  | 0 => (hb, fresh)
  | n + 1 =>
    if bs.isEmpty then (hb, fresh)
    else
      let b := pa / 16
      let len := min bs.length (16 - pa % 16)
      let base := if len = 16 then (List.replicate 16 (0 : Byte), fresh) else blockGet hb fresh key b
      let whole := base.1.take (pa % 16) ++ bs.take len ++ base.1.drop (pa % 16 + len)
      let hb1 := { hb with mem := memPutL hb.mem (16 * b) whole, tags := tput hb.tags b key }
      blocksPut hb1 base.2 key (pa + len) (bs.drop len) n

/-- Frames `lo` to `hi` filled with zero plaintext under a key (R441). -/
def framesZero (hb : Hbm) (key lo hi : Nat) : Hbm :=
  { hb with mem := memZero hb.mem (65536 * lo) (65536 * (hi - lo)), tags := hb.tags.filter (fun e => e.1 < 4096 * lo || 4096 * hi ≤ e.1),
            zkeys := (4096 * lo, 4096 * hi, key) :: hb.zkeys, pois := hb.pois.filter (fun e => e.1 < 8192 * lo || 8192 * hi ≤ e.1),
            ues := hb.ues.filter (fun e => e.1 < 8192 * lo || 8192 * hi ≤ e.1) }

/-- The 64-bit words that a range of bytes covers whole. -/
def wordsWhole (pa len : Nat) : List Nat :=
  (List.range ((pa + len) / 8 - (pa + 7) / 8)).map (fun i => (pa + 7) / 8 + i)

/-- The 64-bit words that a range of bytes touches in part only. -/
def wordsPart (pa len : Nat) : List Nat :=
  let w0 := pa / 8
  let w1 := (pa + len) / 8
  (if pa % 8 = 0 then [] else [w0]) ++ (if (pa + len) % 8 = 0 ∨ (pa % 8 ≠ 0 ∧ w1 = w0) then [] else [w1])

/-- A write as the array holds it (R235, R239): bytes, key, and poison marks set or cleared on the words it covers. -/
def hbApply (hb : Hbm) (fresh : Nat) (w : HbmWr) : Hbm × Nat :=
  let x := blocksPut hb fresh w.key w.pa w.data (w.data.length / 16 + 2)
  let ws := wordsWhole w.pa w.data.length
  let pois := if w.pois then ws.foldl (fun t i => tput t i true) x.1.pois else ws.foldl (fun t i => tdel t i) x.1.pois
  ({ x.1 with pois := pois, ues := ws.foldl (fun t i => tdel t i) x.1.ues }, x.2)

/-- The array as later reads see it, with the queued writes of a controller applied (R235). -/
def hbView (hb : Hbm) (fresh : Nat) (wq : List HbmWr) : Hbm × Nat :=
  match wq with
  | [] => (hb, fresh)
  | w :: r => let x := hbApply hb fresh w; hbView x.1 x.2 r

/-- The number of the memory key in a slot of a partition; 0 when the slot is empty. -/
def keySer (s : State) (part k : Nat) : Nat :=
  let p := tgetD s.parts part .none_
  if k = 0 then p.key0 else p.key1

/-- An access of the command in progress has to wait (R201, R244, R246): the command finds no occasion yet (log 59). -/
def hold (s : State) : State := { s with held := true }

/-- An access meets a fence (R242): the first one records FENCED_ACCESS. -/
def fenceAccess (s : State) (pa : Nat) (part : Option Nat) (src : Nat) : State :=
  let l := hbmLoc s.hbm.dead pa
  let x := pcGet s l.k l.p
  if x.fenceHit then s else memErr (pcPut s l.k l.p { x with fenceHit := true }) pa 3 part src

/-- A granule with an uncorrectable word counts toward the fence (R242). -/
def ueGranule (s : State) (pa : Nat) : State :=
  let l := hbmLoc s.hbm.dead pa
  let x := pcGet s l.k l.p
  if x.ueGr.contains l.slot then s else pcPut s l.k l.p { x with ueGr := x.ueGr ++ [l.slot] }

/-- A corrected word (R237, R241): counted and logged; queued for rewriting, or rewritten in place by the patrol, which writes its 8
bytes. -/
def memCe (s : State) (pa : Nat) (two : Bool) (syn : Nat) (patrol : Bool) : State :=
  let l := hbmLoc s.hbm.dead pa
  let s1 := memBump s l.k (R.memCeCountP l.k l.p) 1
  let s2 := wr s1 (R.memCeLog l.k)
    (1 + fieldAt 1 1 (b1 two) + fieldAt 2 5 l.p + fieldAt 7 4 l.bg + fieldAt 11 2 l.bank + fieldAt 13 14 l.row +
      fieldAt 27 8 (l.byte / 8) + fieldAt 35 16 syn + fieldAt 51 1 (b1 patrol) + fieldAt 52 1 (b1 patrol))
  if patrol then memBump s2 l.k (R.memWrBytes l.k) 8 64
  else if !bit (rd s2 (R.memCtrl l.k)) 3 then s2
  else
    let x := stkGet s2 l.k
    if 32 ≤ x.corr.length then memBump s2 l.k (R.memCorrDrop l.k) 1
    else stkPut s2 l.k { x with corr := x.corr ++ [pa / 8] }

/-- An uncorrectable word (R238). -/
def memUe (s : State) (pa : Nat) (part : Option Nat) (src : Nat) : State :=
  let l := hbmLoc s.hbm.dead pa
  ueGranule (memErr (memBump s l.k (R.memUeCountP l.k l.p) 1) pa 1 part src) pa

/-- An armed injection fires at a read of these 64-bit words of one granule (R236, R578): the word that shows an uncorrectable
error. Which word of the read it hits is a free value (log 14). A poison mark stays one under up to 2 bit errors (R239). -/
def memInject (s : State) (hb : Hbm) (words : List Nat) (part : Option Nat) (src : Nat) : Option Nat × State :=
  let l := hbmLoc s.hbm.dead (8 * words.head?.getD 0)
  match injKind s 17 l.k with
  | none => (none, s)
  | some kind =>
    let w := freeBits s 8
    let word := words.getD (w.1 % words.length) 0
    let f := freeBits (injFired w.2) 16
    if kind = 3 then (some word, memUe f.2 (8 * word) part src)
    else if tgetD hb.pois word false then (none, f.2)
    else (none, memCe f.2 (8 * word) (kind = 2) f.1 (src = 1))

/-- The 32 words of each of these lines. -/
def lineWords (lines : List Nat) : List Nat := lines.flatMap (fun a => (List.range 32).map (fun i => 32 * a + i))

/-- The words of these lines that a table marks. -/
def wordsIn (t : Tbl Bool) (lines : List Nat) : List Nat := (t.filter (fun e => e.2 && lines.contains (e.1 / 32))).map (·.1)

/-- What the decoder finds in a read of these lines of one granule (R236–R239): the words that are not delivered good, each counted and
logged. -/
def memDecode (s : State) (hb : Hbm) (lines : List Nat) (part : Option Nat) (src : Nat) : List Nat × State :=
  let inj := memInject s hb (lineWords lines) part src
  let marks := (wordsIn hb.pois lines).filter (fun w => !decide (inj.1 = some w))
  let bad := (wordsIn hb.ues lines).filter (fun w => !decide (inj.1 = some w))
  let s1 := marks.foldl (fun t w => memErr t (8 * w) 2 part src) inj.2
  (marks ++ bad ++ inj.1.toList, bad.foldl (fun t w => memUe t (8 * w) part src) s1)

/-- Reads whole lines of one granule for a partition under its key slot (R234–R239). A queued write of the pseudo-channel gives its data
(R235). -/
def hbmReadLines (s : State) (part k : Nat) (lines : List Nat) : List LineData × State :=
  match lines with
  | [] => ([], s)
  | a :: _ =>
    let pa := 256 * a
    let l := hbmLoc s.hbm.dead pa
    if fenced s l.k l.p then (lines.map (fun x => ⟨x, List.replicate 256 0, true⟩), fenceAccess s pa (some part) 0)
    else
      let v := hbView s.hbm s.fresh (pcGet s l.k l.p).wq
      let d := memDecode { s with fresh := v.2 } v.1 lines (some part) 0
      let out := lines.foldl (fun (acc : List LineData × State) x =>
          let b := blocksGet v.1 acc.2.fresh (keySer s part k) (16 * x) 16
          (acc.1 ++ [⟨x, b.1, d.1.any (fun w => w / 32 = x)⟩], { acc.2 with fresh := b.2 })) ([], d.2)
      (out.1, memBump out.2 l.k (R.memRdBytes l.k) (256 * lines.length) 64)

/-- The words that a write covers only in part are read and merged (R235): those that read as uncorrectable or as a poison mark are logged, and
the merged word takes a poison mark. -/
def mergeReads (s : State) (w : HbmWr) (words : List Nat) : List Nat × State :=
  let part := if w.pv then some w.part else none
  let bad := words.filter (fun i => tgetD s.hbm.ues i false)
  let marks := words.filter (fun i => tgetD s.hbm.pois i false && !tgetD s.hbm.ues i false)
  (bad ++ marks, marks.foldl (fun t i => memErr t (8 * i) 2 part 2) (bad.foldl (fun t i => memUe t (8 * i) part 2) s))

/-- A controller makes a write (R235, R239, R242). A write that a fence discards is no read: SRC of its FENCED_ACCESS is 0 (DESIGN CHOICE,
log 67). -/
def hbmApplyWr (s : State) (w : HbmWr) : State :=
  let l := hbmLoc s.hbm.dead w.pa
  if fenced s l.k l.p then fenceAccess s w.pa (if w.pv then some w.part else none) 0
  else
    let m := mergeReads s w (wordsPart w.pa w.data.length)
    let x := hbApply m.2.hbm m.2.fresh w
    let hb := { x.1 with pois := m.1.foldl (fun t i => tput t i true) x.1.pois, ues := m.1.foldl (fun t i => tdel t i) x.1.ues }
    memBump { m.2 with hbm := hb, fresh := x.2 } l.k (R.memWrBytes l.k) w.data.length 64

/-- The controller of a pseudo-channel makes its oldest queued write; the queue then has room. -/
def hbmPop (s : State) (k p : Nat) : State :=
  let x := pcGet s k p
  match x.wq with
  | [] => s
  | w :: r => hbmApplyWr (pcPut s k p { x with wq := r, refW := false }) w

/-- HBM_WRITE: the oldest queued write of a pseudo-channel of a stack that serves is made. -/
def hbmWrite (s : State) (k p : Nat) : State := if stkServes s k then hbmPop s k p else s

/-- Every queued write of a pseudo-channel, oldest first. -/
def hbmDrain (s : State) (k p n : Nat) : State :=
  match n with
  | 0 => s
  | n + 1 => hbmDrain (hbmPop s k p) k p n

/-- A write of an agent on a base die reaches the array after the writes queued before it; at a stack that does not serve it waits. -/
def hbmWriteNow (s : State) (w : HbmWr) : State :=
  let l := hbmLoc s.hbm.dead w.pa
  if !stkServes s l.k then hold s else hbmApplyWr (hbmDrain s l.k l.p (pcGet s l.k l.p).wq.length) w

/-- The address of the granule that slot `q` of a live pseudo-channel holds (R232). -/
def slotPa (dead : List Nat) (k p q : Nat) : Nat :=
  let L := liveCount dead
  let pos := (liveList dead).findIdx (· = 20 * p + k)
  2048 * (q * L + (pos + L - hashH q L) % L)

/-- The granules of frames `lo` to `hi` outside whole blocks of R232, and the first and the end block of the whole ones. -/
def fillParts (L lo hi : Nat) : List Nat × Nat × Nat :=
  let g0 := 32 * lo
  let g1 := 32 * hi
  let q0 := cdiv g0 L
  let q1 := g1 / L
  (if q1 ≤ q0 then (List.range (g1 - g0)).map (fun i => g0 + i)
   else (List.range (q0 * L - g0)).map (fun i => g0 + i) ++ (List.range (g1 - q1 * L)).map (fun i => q1 * L + i), q0, q1)

/-- Fenced pseudo-channels that are still live: positions `i` of R232. -/
def fencedLive (s : State) : List Nat := (liveList s.hbm.dead).filter (fun i => fenced s (i % 20) (i / 20))

/-- MEM_WR_BYTES counts the zero fill of frames `lo` to `hi` in each stack (R247, R441): whole blocks give each live pseudo-channel one granule. A
fenced one writes nothing (R242). -/
def zeroFillCount (s : State) (lo hi : Nat) : State :=
  let f := fillParts (liveCount s.hbm.dead) lo hi
  let shut := fencedLive s
  let ends := (f.1.map (fun g => hbmLoc s.hbm.dead (2048 * g))).filter (fun l => !shut.contains (20 * l.p + l.k))
  (List.range 20).foldl (fun t k =>
    let live := ((liveList s.hbm.dead).filter (fun i => i % 20 = k && !shut.contains i)).length
    let n := (f.2.2 - f.2.1) * live + (ends.map (·.k)).count k
    if n = 0 then t else memBump t k (R.memWrBytes k) (2048 * n) 64) s

/-- A zero fill of frames `lo` to `hi` meets the fences (R242): each pseudo-channel that it writes and that is fenced records its first access. -/
def zeroFillFences (s : State) (lo hi : Nat) : State :=
  let f := fillParts (liveCount s.hbm.dead) lo hi
  (fencedLive s).foldl (fun t i =>
    let k := i % 20
    let p := i / 20
    let edge := (f.1.map (fun g => 2048 * g)).filter (fun pa => decide ((hbmLoc s.hbm.dead pa).k = k) && decide ((hbmLoc s.hbm.dead pa).p = p))
    match (edge ++ if f.2.1 < f.2.2 then [slotPa s.hbm.dead k p f.2.1] else []).min? with
    | some pa => fenceAccess t pa none 0
    | none => t) s

/-- Frames `lo` to `hi` are filled with zero plaintext under a key (R441): counted, and recorded where a fence discards it. What a fenced
pseudo-channel holds shows nowhere any more: it gives no data before the remap loses it (R242, R243). -/
def zeroFill (s : State) (key lo hi : Nat) : State :=
  zeroFillCount (zeroFillFences { s with hbm := framesZero s.hbm key lo hi } lo hi) lo hi

/-- HBM_CORRECTION_REWRITE: the oldest word of a stack's correction queue is rewritten (R237); a fence discards the write (R242). -/
def hbmCorrectionRewrite (s : State) (k : Nat) : State :=
  let x := stkGet s k
  match x.corr with
  | [] => s
  | w :: r =>
    let s1 := stkPut s k { x with corr := r }
    let l := hbmLoc s.hbm.dead (8 * w)
    if fenced s k l.p then fenceAccess s1 (8 * w) none 0
    else
    let log := rd s1 (R.memCeLog k)
    let same := bit log 0 && bits log 2 5 = l.p && bits log 7 4 = l.bg && bits log 11 2 = l.bank && bits log 13 14 = l.row &&
      bits log 27 8 = l.byte / 8
    let s2 := if same then wrf s1 (R.memCeLog k) 52 1 1 else s1
    memBump s2 k (R.memWrBytes k) 8 64

/-- Does a queued read wait on a bank (R240): it activates the bank of its granule and that of its check words (R233). -/
def readWaits (s : State) (k p bank : Nat) : Bool :=
  (pcGet s k p).rq.any (fun r =>
    match (tgetD s.slices r.s .empty).fills.find? (fun f => f.id = r.fid) with
    | none => false
    | some f => f.lines.any (fun a =>
        let l := hbmLoc s.hbm.dead (256 * a)
        decide (l.bg * 4 + l.bank = bank) || decide (l.bg * 4 + l.chkBank = bank)))

/-- HBM_REFRESH: a bank's refresh falls due (R240): postponed while a read waits, forced at 8. -/
def hbmRefresh (s : State) (k p bank : Nat) : State :=
  let x := pcGet s k p
  let n := tgetD x.post bank 0
  if readWaits s k p bank then
    if n < 8 then pcPut s k p { x with post := tput x.post bank (n + 1) } else memBump s k (R.memRefForcedP k p) 1
  else pcPut s k p { x with post := tdel x.post bank }

/-- One patrol read of a pseudo-channel's granule (R241): one that is still live though fenced gives no access to the array (R242). -/
def patrolPc (s : State) (k p slot : Nat) : State :=
  if s.hbm.dead.contains (20 * p + k) then s
  else
    let pa := slotPa s.hbm.dead k p slot
    if fenced s k p then fenceAccess s pa none 1
    else
      let v := hbView s.hbm s.fresh (pcGet s k p).wq
      memBump (memDecode { s with fresh := v.2 } v.1 ((List.range 8).map (fun i => pa / 256 + i)) none 1).2 k (R.memRdBytes k) 2048 64

/-- HBM_PATROL_READ: each live pseudo-channel of the stack is read at the next slot; a pass ends after slot 585,727. -/
def hbmPatrolRead (s : State) (k : Nat) : State :=
  if !bit (rd s (R.memCtrl k)) 2 || (stkGet s k).st ≠ 2 then s
  else
    let slot := (stkGet s k).patrol
    let s0 := if slot = 0 then
        (List.range 32).foldl (fun s p => if (pcGet s k p).ueGr.isEmpty then s else pcPut s k p { pcGet s k p with ueGr := [] }) s
      else s
    let s1 := (List.range 32).foldl (fun s p => patrolPc s k p slot) s0
    let x := stkGet s1 k
    if slot + 1 < 585728 then stkPut s1 k { x with patrol := slot + 1 }
    else memBump (stkPut s1 k { x with patrol := 0 }) k (R.memScrubPasses k) 1

/-- Can a request that waits at a slice be one that pseudo-channel `p` of stack `k` has refused (R234): a request for its granules, a write that waits
for its fill, or, where the write queue was full, one whose allocation may take a victim. -/
def refusedWaits (s : State) (k p : Nat) (wr : Bool) : Bool :=
  let here := fun (pa : Nat) => let l := hbmLoc s.hbm.dead pa; decide (l.k = k) && decide (l.p = p)
  s.slices.any (fun e => e.2.reqs.any (fun r => here r.pa || (wr && r.alloc)) || (wr && e.2.waits.any (fun w => w.req.wr && here w.req.pa)))

/-- One cycle of the HBM-controller clock: each pseudo-channel at which a request waits for a full queue counts it (R234), and a stack in
self-refresh for a live retrain starts training (R246 step 3). A refused request that has been cancelled waits no longer. -/
def hbmTick (s : State) : State :=
  let s1 := s.hbm.pcs.foldl (fun t e =>
    if e.2.refR || e.2.refW then
      let k := e.1 / 32
      let p := e.1 % 32
      let r := e.2.refR && refusedWaits s k p false
      let w := e.2.refW && refusedWaits s k p true
      let u := if r || w then memBump t k (R.memQfullP k p) 1 else t
      if r = e.2.refR ∧ w = e.2.refW then u else pcPut u k p { e.2 with refR := r, refW := w }
    else t) s
  s1.hbm.stk.foldl (fun t e => if e.2.st = 3 && bit (rd t (R.memTrain e.1)) 1 then stkPut t e.1 { e.2 with st := 4 } else t) s1

/-- Every queued write of HBM is made. -/
def hbmFlush (s : State) : State := s.hbm.pcs.foldl (fun t e => hbmDrain t (e.1 / 32) (e.1 % 32) e.2.wq.length) s

/-- A pseudo-channel is fenced: its MEM_FENCE bit is set (R242). -/
def fenceSet (s : State) (k p : Nat) : State := wr s (R.memFence k) (setBits (rd s (R.memFence k)) p 1 1)

/-- HBM_FENCE: the Stoker fences a pseudo-channel for a training failure (kind 0), the uncorrectable granules of this pass
(kind 1) or a persistent pin fault (kind 2). -/
def hbmFence (s : State) (k p kind : Nat) : State :=
  let pa0 := fieldAt 12 5 p
  match kind with
  | 0 => fenceSet (logErr s (R.memErrLog k) (R.memErrCount k) (fieldAt 8 4 4 + pa0)) k p
  | 1 => if bits (rd s (R.memCtrl k)) 8 8 ≤ (pcGet s k p).ueGr.length then fenceSet s k p else s
  | 2 => fenceSet (logErr s (R.memErrLog k) (R.memErrCount k) (fieldAt 8 4 5 + pa0)) k p
  | _ => s

/-- HBM_INIT_FILL_DONE: the zero fill ends and the filling stacks serve (R244); MEM_WR_BYTES counts the words of the live pseudo-channels that are
not fenced (R247). -/
def hbmInitFillDone (s : State) : State :=
  let shut := fencedLive s
  (List.range 20).foldl (fun s k =>
    if (stkGet s k).st = 1 then
      let n := ((liveList s.hbm.dead).filter (fun i => i % 20 = k && !shut.contains i)).length
      memBump (stkPut s k { stkGet s k with st := 2 }) k (R.memWrBytes k) (1199570944 * n) 64
    else s) s

/-- HBM_RETRAIN: a write of MEM_TRAIN.GO (R246); ignored while any stack's BUSY is 1. -/
def hbmRetrain (s : State) (k : Nat) : State :=
  if 20 ≤ k || (List.range 20).any (fun j => bit (rd s (R.memTrain j)) 1) then s else wr s (R.memTrain k) 2

/-- Does a live retrain of a stack stop the graph engines from starting tasks (R246). -/
def retrainHold (s : State) : Bool := (List.range 20).any (fun j => bit (rd s (R.memTrain j)) 1)

/-- HBM_RETRAIN_SELF_REFRESH: with every running task completed, the stack, be it one that has failed, completes its queues and retrains (R246
step 2). -/
def hbmRetrainSelfRefresh (s : State) (k : Nat) : State :=
  if !bit (rd s (R.memTrain k)) 1 || !stkServes s k || s.hearths.any (fun e => e.2.cur.isSome || e.2.drain.isSome) ||
      (List.range 32).any (fun p => !(pcGet s k p).rq.isEmpty) then s
  else
    let s1 := (List.range 32).foldl (fun s p => hbmDrain s k p (pcGet s k p).wq.length) s
    let s2 := (stkGet s1 k).corr.foldl (fun s _ => hbmCorrectionRewrite s k) s1
    stkPut s2 k { stkGet s2 k with st := 3 }

/-- HBM_RETRAIN_DONE: the PHY retrain ends (R246 steps 3 and 4); pseudo-channels that failed are fenced and recorded. -/
def hbmRetrainDone (s : State) (k : Nat) (failed : BitVec 32) : State :=
  if !bit (rd s (R.memTrain k)) 1 || ((stkGet s k).st ≠ 3 && (stkGet s k).st ≠ 4) then s
  else
    let f := failed.toNat
    let s1 := (List.range 32).foldl (fun s p => if bit f p then hbmFence s k p 0 else s) s
    let res := if f = 0 then 1 else if f = 4294967295 then 3 else 2
    stkPut (wr s1 (R.memTrain k) (fieldAt 2 2 res + fieldAt 32 32 f)) k { stkGet s1 k with st := if res = 3 then 5 else 2 }

/-- HBM_READ: the controller performs queued read `i` of a pseudo-channel and its data returns to the slice (R234–R239). -/
def hbmRead (s : State) (k p i : Nat) : State :=
  let x := pcGet s k p
  if !stkServes s k then s
  else
    match lget x.rq i with
    | none => s
    | some r =>
      let s1 := pcPut s k p { x with rq := ldel x.rq i, refR := false }
      let sl := tgetD s1.slices r.s .empty
      match sl.fills.find? (fun f => f.id = r.fid) with
      | none => s1
      | some f =>
        let d := hbmReadLines s1 f.part f.k f.lines
        let s2 := d.2
        let sl2 := tgetD s2.slices r.s .empty
        let fs := sl2.fills.map (fun g => if g.id = r.fid then { g with ret := some d.1 } else g)
        let s3 := { s2 with slices := tput s2.slices r.s { sl2 with fills := fs } }
        bump s3 (bit (rd s3 (R.chmCtrl r.s)) 0) (R.chmBytesHbmRd r.s) (256 * f.lines.length) 64

end Sys2Proof.Machine
end

