-- ==== Sys2Proof/Machine/Chimney.lean ====
section
/-!
DEFINITION. The chimney (07): lookup, fills and installation (R195–R203), hints (R204), multicast (R205–R209), arbitration rounds
(R213, R214), protection (R216–R218), the tenant scrub (R219), and the accesses of agents on the base dies (R577).
-/

namespace Sys2Proof.Machine

def slGet (s : State) (sl : Nat) : Slice := tgetD s.slices sl .empty

def slPut (s : State) (sl : Nat) (x : Slice) : State := { s with slices := tput s.slices sl x }

def slMod (s : State) (sl : Nat) (f : Slice → Slice) : State := slPut s sl (f (slGet s sl))

/-- Counters of the CHM_ block under CHM_CTRL.CNT_FREEZE. -/
def chmBump (s : State) (sl : Nat) (r : Reg) (n : Nat) (w : Nat := 48) : State :=
  bump s (bit (rd s (R.chmCtrl sl)) 0) r n w

/-- The line addresses that a request touches (R197). -/
def reqLines (pa len : Nat) : List Nat :=
  if len = 0 then [] else (List.range ((pa + len - 1) / 256 + 1 - pa / 256)).map (fun i => pa / 256 + i)

/-- Fill lines in use (R203): the lines of fills, and those of multicast entries not yet delivered count with their fill. -/
def fillUsed (x : Slice) : Nat := (x.fills.map (fun f => f.lines.length)).sum

/-- Fill lines of a slice (R203). -/
def fillLines : Nat := 32768

/-- Does a multicast entry of the partition hold the granule of a line: the line is then one of its 8 pinned lines (R206). -/
def entHolds (x : Slice) (p a : Nat) : Bool := x.entries.any (fun e => e.part = p && e.gran = a / 8)

/-- Cached lines of a partition (R228), those taken for fills in progress included; a pinned line is none. -/
def cachedUse (x : Slice) (p : Nat) : Nat :=
  (x.lines.filter (fun l => l.part = p && !entHolds x p l.addr)).length +
    ((x.fills.filter (fun f => f.part = p)).map (fun f => (f.take.filter (fun a => !entHolds x p a)).length)).sum

/-- Pinned lines of a partition (R228): 8 for each multicast entry, and staging buffers. -/
def pinnedUse (x : Slice) (p : Nat) : Nat := 8 * (x.entries.filter (fun e => e.part = p)).length + tgetD x.staging p 0

/-- Lines of the general region (R194, R196). -/
def generalLines : Nat := 983040

/-- Lines of the general region in use. -/
def generalUse (x : Slice) : Nat := ((List.range 16).map (fun p => cachedUse x p + pinnedUse x p)).sum

/-- A partition's quota in a slice (R196). -/
def chmQuota (s : State) (sl p : Nat) : Nat := bits (rd s (R.chmPartQuotaP sl p)) 0 20

/-- The line of a partition at a line address (R195): a cached one, or one that a multicast entry alone holds. -/
def lineFind (x : Slice) (p a : Nat) : Option Line :=
  match x.lines.find? (fun l => l.part = p && l.addr = a) with
  | some l => some l
  | none => x.entries.findSome? (fun e =>
      if e.part = p then (e.lines.find? (fun d => d.addr = a)).map (fun d => ⟨p, a, e.k, d.data, false, d.ue, true⟩) else none)

/-- The entries of a partition without their own copy of a line. -/
def entsDrop (x : Slice) (p a : Nat) : List McEnt :=
  x.entries.map (fun e => if e.part = p then { e with lines := e.lines.filter (fun d => d.addr ≠ a) } else e)

/-- Replaces a line. A line that an entry alone held becomes a cached line, which the entry keeps pinned: the chimney holds one copy
(R26). -/
def linePut (x : Slice) (l : Line) : Slice :=
  if x.lines.any (fun m => m.part = l.part && m.addr = l.addr) then
    { x with lines := x.lines.map (fun m => if m.part = l.part ∧ m.addr = l.addr then l else m) }
  else { x with lines := x.lines ++ [l], entries := entsDrop x l.part l.addr }

/-- Removes a cached line; the entry that pins it keeps the data. -/
def lineDrop (x : Slice) (p a : Nat) : Slice :=
  match x.lines.find? (fun l => l.part = p && l.addr = a) with
  | none => x
  | some l =>
    { x with lines := x.lines.filter (fun m => !(m.part = p && m.addr = a)),
             entries := x.entries.map (fun e =>
               if e.part = p ∧ e.gran = a / 8 then { e with lines := e.lines ++ [⟨a, l.data, l.pois⟩] } else e) }

/-- Marks a line poisoned where it is (R217). -/
def lineMark (x : Slice) (p a : Nat) : Slice :=
  { x with lines := x.lines.map (fun m => if m.part = p ∧ m.addr = a then { m with pois := true } else m),
           entries := x.entries.map (fun e =>
             if e.part = p then { e with lines := e.lines.map (fun d => if d.addr = a then { d with ue := true } else d) } else e) }

/-- Has a line a write in progress (R198): one that waits for its fill. -/
def lineBusy (x : Slice) (p a : Nat) : Bool :=
  x.waits.any (fun w => w.req.wr && w.req.part = p && (w.need.contains a || w.got.any (fun d => d.addr = a)))

/-- The second-chance clock over a partition's cached lines (R198): the victim, and the lines that remain, in clock order. A pinned line and
one with a write in progress are never chosen. -/
def clockVictim (x : Slice) (p : Nat) : Option (Line × List Line) :=
  let may (l : Line) : Bool := l.part = p && l.addr < 2 ^ 40 && !entHolds x p l.addr && !lineBusy x p l.addr
  let mine := x.lines.filter may
  let others := x.lines.filter (fun l => !may l)
  let clear (l : Line) : Line := { l with ref := false }
  match lfind mine (fun l => !l.ref) with
  | some n =>
    match lget mine n with
    | some v => some (v, others ++ mine.drop (n + 1) ++ (mine.take n).map clear)
    | none => none
  | none =>
    match mine with
    | [] => none
    | v :: r => some (v, others ++ r.map clear)

/-- Room in the write queue of an address's pseudo-channel (R234). -/
def wqRoom (s : State) (pa : Nat) : Bool :=
  let l := hbmLoc s.hbm.dead pa
  (pcGet s l.k l.p).wq.length < 64

/-- Room in the read queue of an address's pseudo-channel (R234). -/
def rqRoom (s : State) (pa : Nat) : Bool :=
  let l := hbmLoc s.hbm.dead pa
  (pcGet s l.k l.p).rq.length < 64

/-- A request found a controller's write queue (`wr`) or read queue full and waits for it (R234). -/
def qFull (s : State) (pa : Nat) (wr : Bool) : State :=
  let l := hbmLoc s.hbm.dead pa
  let x := pcGet s l.k l.p
  pcPut s l.k l.p (if wr then { x with refW := true } else { x with refR := true })

/-- A write enters its pseudo-channel's write queue (R200). -/
def wqPush (s : State) (sl : Nat) (w : HbmWr) : State :=
  let l := hbmLoc s.hbm.dead w.pa
  let x := pcGet s l.k l.p
  chmBump (pcPut s l.k l.p { x with wq := x.wq ++ [w] }) sl (R.chmBytesHbmWr sl) w.data.length 64

/-- A dirty line is written back under the slot with which it was installed (R200, R217, R272). -/
def writeBack (s : State) (sl : Nat) (l : Line) : State :=
  let s1 := wqPush s sl ⟨256 * l.addr, l.data, keySer s l.part l.k, l.pois, l.part, true⟩
  chmBump s1 sl (R.chmWbLines sl) 1

/-- Takes a line of the general region for a partition (R197): below quota, or in place of a victim. `none`: refused, or the
victim's write-back finds its queue full (second component: the victim's address). -/
def takeLine (s : State) (sl p : Nat) : Option State × Option Nat :=
  let x := slGet s sl
  if cachedUse x p + pinnedUse x p < chmQuota s sl p && generalUse x < generalLines then (some s, none)
  else
    match clockVictim x p with
    | none => (none, none)
    | some (v, ls) =>
      if v.dirty && !wqRoom s (256 * v.addr) then (none, some v.addr)
      else
        let s1 := slPut s sl { x with lines := ls }
        (some (if v.dirty then writeBack s1 sl v else s1), none)

/-- Takes a line for line address `a`: one that an entry pins has its place already (R206). -/
def takeFor (s : State) (sl p a : Nat) : Option State × Option Nat := if entHolds (slGet s sl) p a then (some s, none) else takeLine s sl p

/-- The number of a line among the lines of its home slice, in the order of their addresses (R26, R232). -/
def sliceLine (dead : List Nat) (a : Nat) : Nat :=
  let L := liveCount dead
  let q := a / 8 / L
  let mine := fun (i : Nat) => decide (i % 20 / 5 = homeSlice dead (256 * a))
  let live := liveList dead
  let row := live.drop (hashH q L) ++ live.take (hashH q L)
  8 * (q * (live.filter mine).length + ((row.take (a / 8 % L)).filter mine).length) + a % 8

/-- The bank of a line (R193). The spec gives no hash: 256 consecutive line addresses of one slice fall in 256 different banks only where the bank
depends on the low 8 bits of the line's number in the slice alone; the model XORs them with a free value (DESIGN CHOICE, log 60). -/
def chmBank (dead : List Nat) (a : Nat) : Nat := (sliceLine dead a % 256) ^^^ Config.chmHash.toNat

/-- CHM_ERR_LOG (R229), for line address `a` where one is concerned. Line and word within the slice are places the spec does not compute, so free
values. -/
def chmErr (s : State) (sl kind region abort part : Nat) (a : Option Nat) : State :=
  let f := freeBits s 33
  logErr f.2 (R.chmErrLog sl) (R.chmErrCount sl)
    (fieldAt 8 4 kind + fieldAt 12 2 region + fieldAt 16 8 abort + fieldAt 24 4 part +
      fieldAt 28 8 (match a with | some a => chmBank s.hbm.dead a | none => f.1) + fieldAt 36 25 (f.1 / 256))

/-- A corrected word (R216). -/
def chmCe (s : State) (sl : Nat) (two : Bool) (a : Option Nat) : State :=
  let f := freeBits s 49
  wr (chmBump f.2 sl (R.chmCeCount sl) 1) (R.chmCeLog sl)
    (1 + fieldAt 1 1 (b1 two) + fieldAt 2 8 (match a with | some a => chmBank s.hbm.dead a | none => f.1) + fieldAt 10 41 (f.1 / 256) +
      fieldAt 51 1 (b1 (bit (rd s (R.chmCtrl sl)) 2)))

/-- An uncorrectable word in a line of the general region (R217): a clean cached line is invalidated, a dirty or pinned one poisoned, which
raises `abort` in the reader. -/
def chmUeLine (s : State) (sl : Nat) (l : Line) (abort : Nat) : State :=
  let s1 := chmBump s sl (R.chmUeCount sl) 1
  if l.dirty || entHolds (slGet s sl) l.part l.addr then
    slMod (chmErr s1 sl 2 0 abort l.part (some l.addr)) sl (fun x => lineMark x l.part l.addr)
  else slMod (chmErr s1 sl 1 0 0 l.part (some l.addr)) sl (fun x => lineDrop x l.part l.addr)

/-- An armed injection fires at a read of a line of a slice (R578): none for a corrected word, some for an uncorrectable
one. -/
def chmInject (s : State) (sl : Nat) (a : Option Nat) : Bool × State :=
  match injKind s 16 sl with
  | none => (false, s)
  | some kind => if kind = 3 then (true, injFired s) else (false, chmCe (injFired s) sl (kind = 2) a)

/-- Bytes `off` to `off + n` of a request from the lines that hold it. -/
def gather (pa len : Nat) (got : List LineData) : List Byte :=
  let ls := reqLines pa len
  let all := ls.flatMap (fun a => ((got.find? (fun d => d.addr = a)).map LineData.data).getD (List.replicate 256 0))
  (all.drop (pa % 256)).take len

/-- A response leaves for a hearth (R166, R207): data toward a firebox counts in CHM_BYTES_DOWN. -/
def respond (s : State) (r : MReq) (got : List LineData) : State :=
  let data := if r.wr then [] else gather r.pa r.len got
  let ue := got.any LineData.ue
  if r.hint then hmod s r.h (fun x => { x with reqs := x.reqs.filter (fun q => q.id ≠ r.id) })
  else hmod s r.h (fun x => { x with resps := x.resps ++ [⟨r.id, data, ue⟩] })

/-- Bytes that a delivery puts on a bond. -/
def downBytes (s : State) (sl n : Nat) : State := chmBump s sl (R.chmBytesDown sl) n 64

/-! Multicast (R205–R209). -/

def mcKey (p g : Nat) : Nat := p * 256 + g

def McGroup.fresh : McGroup := ⟨[], [], 0, 0, 0⟩

/-- Group `g` of partition `p`: its members are those of all four slices (R205). -/
def mcGet (s : State) (p g : Nat) : McGroup := tgetD s.mcast (mcKey p g) .fresh

def mcPut (s : State) (p g : Nat) (m : McGroup) : State := { s with mcast := tput s.mcast (mcKey p g) m }

/-- MEMBERS of a group in a slice's CHM_MCG_p_g. -/
def mcMembers (s : State) (sl p g : Nat) : Nat := bits (rd s (R.chmMcgPG sl p g)) 1 7

/-- Members a group still expects: neither joined nor gone. -/
def mcRoom (m : McGroup) (members : Nat) : Nat := members - (m.joined.length + m.left.length + m.gone)

/-- Frees the entries of a group that every member that has not left has taken (R206, R209). -/
def mcTrim (x : Slice) (m : McGroup) (p g members : Nat) : Slice :=
  { x with entries := x.entries.filter (fun e =>
      !(e.part = p && e.group = g && mcRoom m members = 0 && m.joined.all (fun j => e.taken.contains j))) }

/-- The same in every slice. -/
def mcTrimAll (s : State) (p g : Nat) : State :=
  [0, 1, 2, 3].foldl (fun s sl => slMod s sl (fun x => mcTrim x (mcGet s p g) p g (mcMembers s sl p g))) s

/-- A member leaves a group (R209): one that has joined, or one whose first request still waits in a queue. -/
def mcLeaveGroup (s : State) (key : Nat) (j : Member) : State :=
  let p := key / 256
  let g := key % 256
  let m := mcGet s p g
  let queued := s.slices.any (fun e => e.2.reqs.any (fun r => r.part = p && r.mcast = g && decide ((⟨r.h, r.eng, r.own⟩ : Member) = j)))
  if m.joined.contains j then
    mcTrimAll (mcPut s p g { m with joined := m.joined.filter (· ≠ j), left := m.left ++ [j] }) p g
  else if queued && !m.left.contains j && mcRoom m (mcMembers s 0 p g) ≠ 0 then
    mcTrimAll (mcPut s p g { m with left := m.left ++ [j] }) p g
  else s

/-- The groups that have members or requests. -/
def mcKeys (s : State) : List Nat :=
  (s.mcast.map (·.1) ++ s.slices.flatMap (fun e => (e.2.reqs.filter (fun r => r.mcast ≠ 0)).map (fun r => mcKey r.part r.mcast))).dedup

/-- MCAST_LEAVE: a member leaves its groups (R209). -/
def mcLeave (s : State) (j : Member) : State := (mcKeys s).foldl (fun s k => mcLeaveGroup s k j) s

/-- The live entries of a group, in every slice. -/
def mcEntries (s : State) (p g : Nat) : List McEnt :=
  [0, 1, 2, 3].flatMap (fun sl => (slGet s sl).entries.filter (fun e => e.part = p && e.group = g))

/-- The oldest of these entries. -/
def mcOldest (l : List McEnt) : Option McEnt :=
  l.foldl (fun o e => match o with | none => some e | some d => if e.born < d.born then some e else o) none

/-- Prunes every member that has not taken the oldest live entry (R208): it leaves the group in every slice (R209). Slice `sl` counts. -/
def mcPrune (s : State) (sl p g : Nat) : State :=
  match mcOldest (mcEntries s p g) with
  | none => s
  | some e =>
    let m := mcGet s p g
    let out := m.joined.filter (fun j => !e.taken.contains j)
    let room := mcRoom m (mcMembers s sl p g)
    let n := out.length + room
    chmBump (mcTrimAll (mcPut s p g { m with
      joined := m.joined.filter (fun j => e.taken.contains j), left := m.left ++ out, gone := m.gone + room, pruned := m.pruned + n }) p g)
      sl (R.chmMcPrunes sl) n

/-- The budget of a group in bytes (R208). -/
def mcBudget (s : State) (sl p g : Nat) : Nat :=
  let kib := bits (rd s (R.chmMcgPG sl p g)) 8 16
  1024 * (if kib = 0 then bits (rd s (R.chmMcBudget sl)) 0 16 else kib)

/-- MCAST_TIME_BUDGET: the oldest live entry of a group reaches its time budget (R208). -/
def mcastTimeBudget (s : State) (sl p g : Nat) : State := mcPrune s sl p g

/-! Reads (R197, R199, R203). -/

/-- Is an older request, or a write that waits for its fill, in line for one of these lines (R201). -/
def lineBlocked (x : Slice) (i : Nat) (r : MReq) : Bool :=
  let ls := reqLines r.pa r.len
  let hit (q : MReq) : Bool := q.part = r.part && (reqLines q.pa q.len).any (fun a => ls.contains a)
  (x.reqs.take i).any hit || x.waits.any (fun w => (w.req.wr || r.wr) && hit w.req) ||
    (r.wr && x.fills.any (fun f => f.part = r.part && f.lines.any (fun a => ls.contains a)))

/-- Takes lines for the installation of these line addresses: the ones taken, whether any was refused, and the address of a victim whose
write-back found its queue full. -/
def takeLines (s : State) (sl p : Nat) (as : List Nat) (acc : List Nat) (deny : Bool) : State × List Nat × Bool × Option Nat :=
  match as with
  | [] => (s, acc, deny, none)
  | a :: r =>
    match takeFor s sl p a with
    | (some s1, _) =>
      -- a placeholder keeps the count of lines taken while the request is served
      let s2 := if entHolds (slGet s1 sl) p a then s1
        else slMod s1 sl (fun x => { x with lines := x.lines ++ [⟨p, 2 ^ 40 + a, 0, [], false, false, true⟩] })
      takeLines s2 sl p r (acc ++ [a]) deny
    | (none, some v) => (s, acc, deny, some v)
    | (none, none) => takeLines s sl p r acc true

/-- Removes the placeholders of `takeLines`. -/
def dropHolders (s : State) (sl : Nat) : State :=
  slMod s sl (fun x => { x with lines := x.lines.filter (fun l => l.addr < 2 ^ 40) })

/-- What serving a read finds (R197): held at once, or in progress; none when it must stay in its queue. `new` gives the line
addresses to fill. -/
structure Serve where
  st : State
  got : List LineData
  need : List Nat
  hit : Bool
deriving DecidableEq, Repr

/-- Marks the lines that a request hits for the clock (R198). -/
def touch (x : Slice) (p : Nat) (as : List Nat) : Slice :=
  { x with lines := x.lines.map (fun l => if l.part = p ∧ as.contains l.addr then { l with ref := true } else l) }

/-- Lines of a read that no line and no fill in progress gives. -/
def freshLines (x : Slice) (p : Nat) (as : List Nat) : List Nat :=
  as.filter (fun a => (lineFind x p a).isNone && !x.fills.any (fun f => f.part = p && f.lines.contains a))

/-- Does a condition of R203 or R234 keep a read in its queue: no line is then read. -/
def readBlocked (s : State) (sl p : Nat) (as : List Nat) : Bool :=
  let x := slGet s sl
  let fresh := freshLines x p as
  let pa := 256 * fresh.head?.getD 0
  !fresh.isEmpty && (!paServes s pa || fillLines < fillUsed x + fresh.length || !rqRoom s pa)

/-- The lines of a read that starts a fill enter the read queue (R199, R203): `take` are those taken for installation. -/
def fillStart (s : State) (sl p k : Nat) (fresh take : List Nat) : State :=
  let x := slGet s sl
  let loc := hbmLoc s.hbm.dead (256 * fresh.head?.getD 0)
  let s1 := slPut s sl { x with fills := x.fills ++ [⟨x.nfill, p, k, fresh, take, none⟩], nfill := x.nfill + 1 }
  let c := pcGet s1 loc.k loc.p
  pcPut s1 loc.k loc.p { c with rq := c.rq ++ [⟨sl, x.nfill⟩] }

/-- Serves the lines of a read for a partition (R197): present lines are held, absent ones join a fill or start one. `none`: a
condition of R203 or R234 keeps the request in its queue; the state then carries what that counts. -/
def serveLines (s : State) (sl p k : Nat) (as : List Nat) (alloc : Bool) : Option Serve × State :=
  let at0 := as.head?.getD 0
  let inj := if readBlocked s sl p as then (false, s) else chmInject s sl (some at0)
  let hit0 := lineFind (slGet inj.2 sl) p at0
  let s0 := match inj.1, hit0 with
    | true, some l => chmUeLine inj.2 sl l 5
    | _, _ => inj.2
  let fillUe := inj.1 && hit0.isNone
  let s1 := if fillUe then chmErr (chmBump s0 sl (R.chmUeCount sl) 1) sl 3 1 5 0 (some at0) else s0
  let x := slGet s1 sl
  let got := as.filterMap (fun a => (lineFind x p a).map (fun l => (⟨a, l.data, l.pois⟩ : LineData)))
  let need := as.filter (fun a => (lineFind x p a).isNone)
  let fresh := freshLines x p as
  let pa := 256 * fresh.head?.getD 0
  if fillUe then (some ⟨s1, as.map (fun a => ⟨a, List.replicate 256 0, true⟩), [], false⟩, s1)
  else if need.isEmpty then
    (some ⟨slPut s1 sl (touch x p as), got, [], true⟩, s1)
  else if !fresh.isEmpty && !paServes s1 pa then (none, s1)
  else if fillLines < fillUsed x + fresh.length then (none, slPut s1 sl { x with fillWait := true })
  else if !fresh.isEmpty && !rqRoom s1 pa then (none, qFull s1 pa false)
  else
    let untaken := need.filter (fun a => !x.fills.any (fun f => f.part = p && f.take.contains a))
    let t := if alloc then takeLines s1 sl p untaken [] false else (s1, [], false, none)
    let s2 := dropHolders t.1 sl
    match t.2.2.2 with
    | some v => (none, qFull s1 (256 * v) true)
    | none =>
      let s3 := if t.2.2.1 then chmBump s2 sl (R.chmPartDenyP sl p) 1 else s2
      let y := slGet s3 sl
      let joined := y.fills.map (fun f =>
        if f.part = p then { f with take := f.take ++ (t.2.1.filter (fun a => f.lines.contains a)) } else f)
      let s4 := slPut s3 sl { touch y p as with fills := joined }
      (some ⟨if fresh.isEmpty then s4 else fillStart s4 sl p k fresh (t.2.1.filter (fun a => fresh.contains a)), got, need, false⟩, s3)

/-- A request that is served leaves the queue and counts (R197, R202). -/
def served (s : State) (sl i : Nat) (hit : Bool) : State :=
  let s1 := slMod s sl (fun x => { x with reqs := ldel x.reqs i })
  if hit then chmBump s1 sl (R.chmHits sl) 1 else chmBump s1 sl (R.chmMisses sl) 1

/-- Copies of a granule and firebox that cross in one base-die cycle (R207): group, granule and firebox. -/
def crossKey (r : MReq) : Nat × Nat × Nat := (mcKey r.part r.mcast, r.pa / 2048, r.h / 64)

/-- Multicast copies are delivered (R207): those to members in one firebox in the same base-die cycle cross its bond once. -/
def mcDeliver (s : State) (sl : Nat) (rs : List MReq) : State :=
  let now := telNow s
  let seen := (slGet s sl).entries.flatMap (fun e => if e.cyc = now then e.boxes.map (fun b => (mcKey e.part e.group, e.gran, b)) else [])
  let out := rs.foldl (fun (acc : List (Nat × Nat × Nat) × Nat × Nat) r =>
      if acc.1.contains (crossKey r) then acc else (crossKey r :: acc.1, acc.2.1 + 1, acc.2.2 + r.len)) (seen, 0, 0)
  let s1 := slMod s sl (fun x => { x with entries := x.entries.map (fun e =>
    let mine := (out.1.filter (fun c => c.1 = mcKey e.part e.group && c.2.1 = e.gran)).map (fun c => c.2.2)
    if mine.isEmpty then e else { e with cyc := now, boxes := mine }) })
  if out.2.1 = 0 then s1 else downBytes (chmBump s1 sl (R.chmMcCopies sl) out.2.1) sl out.2.2

/-- Answers a read, hit or miss, or leaves it waiting for its lines. -/
def answer (s : State) (sl : Nat) (r : MReq) (got : List LineData) (need : List Nat) (mc hit : Bool) : State :=
  if need.isEmpty then
    let s1 := respond (histCount s ((if hit then 18 else 22) + sl) r.t0) r got
    if mc then mcDeliver s1 sl [r] else downBytes s1 sl r.len
  else slMod s sl (fun x => { x with waits := x.waits ++ [⟨r, need, got, mc⟩] })

/-- A read served as unicast (R197): `tagged` one of a multicast group, `deny` one for which no entry could be created (R206). -/
def readUni (s : State) (sl i : Nat) (r : MReq) (tagged deny : Bool) : State :=
  match serveLines s sl r.part r.k (reqLines r.pa r.len) r.alloc with
  | (none, s1) => s1
  | (some v, _) =>
    let s1 := answer (served v.st sl i v.hit) sl r v.got v.need false v.hit
    let s2 := if tagged then chmBump s1 sl (R.chmMcUnicast sl) 1 else s1
    if deny then chmBump s2 sl (R.chmPartDenyP sl r.part) 1 else s2

/-- Is this the entry of a request's group and granule. -/
def entOf (r : MReq) (e : McEnt) : Bool := e.part = r.part && e.group = r.mcast && e.gran = r.pa / 2048

/-- A member takes a granule from its entry (R206): lines present are copied, absent ones are read into the entry under R197. A slice that
cannot serve the read is left without the entry when it is `new`. -/
def readEnt (s : State) (sl i : Nat) (r : MReq) (j : Member) (members : Nat) (new : Bool) : State :=
  match serveLines s sl r.part r.k (reqLines r.pa r.len) r.alloc with
  | (none, s1) => if new then slMod s1 sl (fun x => { x with entries := x.entries.filter (fun e => !entOf r e) }) else s1
  | (some v, _) =>
    let s1 := slMod (served v.st sl i v.hit) sl (fun x =>
      let own := v.got.filter (fun d => (lineFind x r.part d.addr).isNone)
      { x with entries := x.entries.map (fun e =>
          if entOf r e then
            { e with lines := e.lines ++ own, need := e.need ++ v.need.filter (fun a => !e.need.contains a), taken := e.taken ++ [j] }
          else e) })
    let s2 := answer s1 sl r v.got v.need true v.hit
    slMod s2 sl (fun x => mcTrim x (mcGet s2 r.part r.mcast) r.part r.mcast members)

/-- The bytes that a request's group holds in the four slices. -/
def mcHeld (s : State) (r : MReq) : Nat := 2048 * (mcEntries s r.part r.mcast).length

/-- A member's request creates an entry within the group's budget, or is served as unicast (R206, R208). -/
def readNewEnt (s : State) (sl i : Nat) (r : MReq) (j : Member) (members : Nat) : State :=
  let budget := mcBudget s sl r.part r.mcast
  let s1 := if budget < mcHeld s r + 2048 then mcPrune s sl r.part r.mcast else s
  let m := mcGet s1 r.part r.mcast
  if !m.joined.contains j || budget < mcHeld s1 r + 2048 then readUni s1 sl i r true false
  else
    let e : McEnt := ⟨r.part, r.mcast, r.pa / 2048, r.k, [], [], [], m.made, 0, []⟩
    readEnt (slMod (mcPut s1 r.part r.mcast { m with made := m.made + 1 }) sl (fun x => { x with entries := x.entries ++ [e] })) sl i r j members true

/-- Is there room for a new entry (R194, R206): the partition is below its quota, and 8 pinned lines in place of those of the granule that are
cached fit the quota and the general region (a smaller room counts as none: DESIGN CHOICE, log 67). -/
def entRoom (s : State) (sl p gran : Nat) : Bool :=
  let x := slGet s sl
  let use := cachedUse x p + pinnedUse x p
  let cost := 8 - (x.lines.filter (fun l => l.part = p && l.addr / 8 = gran)).length
  use < chmQuota s sl p && use + cost ≤ chmQuota s sl p && generalUse x + cost ≤ generalLines

/-- Must request `i` wait for one of a DUE_EN stream of its partition (R214): those go before the others, in the order of their arrival. One that waits
itself, for its line or for a queue, holds nothing back (R201, R203). -/
def dueWaits (s : State) (sl i : Nat) (r : MReq) : Bool :=
  let x := slGet s sl
  x.reqs.zipIdx.any (fun e => e.1.due && e.1.part = r.part && (!r.due || decide (e.2 < i)) && decide (e.2 ≠ i) && !lineBlocked x e.2 e.1 &&
    !readBlocked s sl e.1.part (reqLines e.1.pa e.1.len))

/-- CHM_READ: the home slice serves read `i` of its queue (R197, R199, R201, R205, R206). -/
def chmRead (s : State) (sl i : Nat) : State :=
  let x := slGet s sl
  match lget x.reqs i with
  | none => s
  | some r =>
    if r.wr || r.hint || lineBlocked x i r || dueWaits s sl i r then s
    else if r.mcast = 0 then readUni s sl i r false false
    else
      let g := rd s (R.chmMcgPG sl r.part r.mcast)
      let members := bits g 1 7
      let m := mcGet s r.part r.mcast
      let j : Member := ⟨r.h, r.eng, r.own⟩
      if !bit g 0 || r.replay || m.left.contains j || (!m.joined.contains j && mcRoom m members = 0) then readUni s sl i r true false
      else
        let m1 : McGroup := if m.joined.contains j then m else { m with joined := m.joined ++ [j] }
        let s1 := mcPut s r.part r.mcast m1
        match x.entries.find? (entOf r) with
        | some e => if e.taken.contains j then readUni s1 sl i r true false else readEnt s1 sl i r j members false
        | none =>
          if entRoom s sl r.part (r.pa / 2048) then readNewEnt s1 sl i r j members else readUni s1 sl i r true true

/-! Writes (R200). -/

/-- The part of a write that lies in line `a`: offset in the line and its bytes. -/
def linePart (pa : Nat) (data : List Byte) (a : Nat) : Nat × List Byte :=
  let lo := max pa (256 * a)
  let hi := min (pa + data.length) (256 * a + 256)
  (lo - 256 * a, (data.drop (lo - pa)).take (hi - lo))

/-- A line with bytes written over it: dirty, and no longer poisoned when overwritten in full (R200, R217). -/
def lineWrite (l : Line) (off : Nat) (bs : List Byte) : Line :=
  { l with data := l.data.take off ++ bs ++ l.data.drop (off + bs.length), dirty := true,
           pois := l.pois && bs.length < 256, ref := true }

/-- Why a write stays in its queue (R203, R234): a full queue of the controller of an address, a write queue when `wr`, or too few fill lines. -/
inductive WrStop where
  | queue (pa : Nat) (wr : Bool)
  | fill
deriving DecidableEq, Repr

/-- How much of a write has gone to the controller: the end of its newest part there, which a part that follows on it joins, since the controller's
queue holds requests of up to 2 KiB (R234); and the fill lines its parts take (R200, R203). -/
structure WrPass where
  tail : Option Nat
  lines : Nat
deriving DecidableEq, Repr

/-- A part of a write passes on to the controller, through fill lines (R200). -/
def wrPass (s : State) (sl : Nat) (w : HbmWr) (b : WrPass) : Except WrStop (State × WrPass) :=
  let l := hbmLoc s.hbm.dead w.pa
  let x := pcGet s l.k l.p
  let b1 : WrPass := ⟨some (w.pa + w.data.length), b.lines + 1⟩
  if fillLines < fillUsed (slGet s sl) + b1.lines then .error .fill
  else
    match x.wq.getLast?, b.tail with
    | some v, some e =>
      if e = w.pa ∧ v.pa + v.data.length = w.pa ∧ v.key = w.key ∧ v.pois = false then
        .ok (chmBump (pcPut s l.k l.p { x with wq := x.wq.dropLast ++ [{ v with data := v.data ++ w.data }] }) sl (R.chmBytesHbmWr sl) w.data.length 64, b1)
      else if wqRoom s w.pa then .ok (wqPush s sl w, b1) else .error (.queue w.pa true)
    | _, _ => if wqRoom s w.pa then .ok (wqPush s sl w, b1) else .error (.queue w.pa true)

/-- A write's lines served one by one (R200): hits update, whole lines install, partial lines under ALLOC fill first, the
rest goes to the controller. Returns the lines that must fill and whether an allocation was refused, or what keeps the request waiting. -/
def writeLines (s : State) (sl : Nat) (r : MReq) (as : List Nat) (fills : List Nat) (deny : Bool) (b : WrPass) :
    Except WrStop (State × List Nat × Bool) :=
  match as with
  | [] => .ok (s, fills, deny)
  | a :: rest =>
    let x := slGet s sl
    let part := linePart r.pa r.data a
    let pa := 256 * a + part.1
    match lineFind x r.part a with
    | some l => writeLines (slPut s sl (linePut x (lineWrite l part.1 part.2))) sl r rest fills deny b
    | none =>
      let pass := wrPass s sl ⟨pa, part.2, keySer s r.part r.k, false, r.part, true⟩ b
      if !r.alloc then
        match pass with
        | .ok (s1, b1) => writeLines s1 sl r rest fills deny b1
        | .error e => .error e
      else
        match takeFor s sl r.part a with
        | (none, some v) => .error (.queue (256 * v) true)
        | (none, none) =>
          match pass with
          | .ok (s1, b1) => writeLines s1 sl r rest fills true b1
          | .error e => .error e
        | (some s1, _) =>
          if part.2.length = 256 then
            writeLines (slMod s1 sl (fun y => { y with lines := y.lines ++ [⟨r.part, a, r.k, part.2, true, false, true⟩] })) sl r rest fills deny b
          else if fillLines < fillUsed (slGet s1 sl) + b.lines + 1 then .error .fill
          else if !rqRoom s1 pa then .error (.queue pa false)
          else writeLines (fillStart s1 sl r.part r.k [a] [a]) sl r rest (fills ++ [a]) deny b

/-- CHM_WRITE: the home slice serves write `i` of its queue and acknowledges it (R200, R201). -/
def chmWrite (s : State) (sl i : Nat) : State :=
  let x := slGet s sl
  match lget x.reqs i with
  | none => s
  | some r =>
    let as := reqLines r.pa r.len
    let absent := as.filter (fun a => (lineFind x r.part a).isNone)
    if !r.wr || lineBlocked x i r || dueWaits s sl i r then s
    else if !absent.isEmpty && !paServes s r.pa then s
    else
      match writeLines s sl r as [] false ⟨none, 0⟩ with
      | .error (.queue pa wr) => qFull s pa wr
      | .error .fill => slPut s sl { x with fillWait := true }
      | .ok (s1, fills, deny) =>
        let s2 := chmBump (served s1 sl i absent.isEmpty) sl (R.chmBytesUp sl) r.len 64
        let s3 := if deny then chmBump s2 sl (R.chmPartDenyP sl r.part) 1 else s2
        if fills.isEmpty then respond s3 r [] else slMod s3 sl (fun y => { y with waits := y.waits ++ [⟨r, fills, [], false⟩] })

/-! Fill completion (R199, R200). -/

/-- A filled line is installed when one was taken for it and it has no error (R199, R217). -/
def install (x : Slice) (f : Fill) (d : LineData) : Slice :=
  if f.take.contains d.addr && !d.ue && (lineFind x f.part d.addr).isNone then
    { x with lines := x.lines ++ [⟨f.part, d.addr, f.k, d.data, false, false, true⟩] }
  else x

/-- A waiting request receives filled lines. -/
def waitGive (part : Nat) (ds : List LineData) (w : MWait) : MWait :=
  if w.req.part = part then
    { w with got := w.got ++ ds.filter (fun d => w.need.contains d.addr),
             need := w.need.filter (fun a => !ds.any (fun d => d.addr = a)) }
  else w

/-- An entry receives filled lines: it holds those that the cache does not. -/
def entGive (x : Slice) (part : Nat) (ds : List LineData) (e : McEnt) : McEnt :=
  if e.part = part then
    { e with lines := e.lines ++ ds.filter (fun d => e.need.contains d.addr && (lineFind x part d.addr).isNone),
             need := e.need.filter (fun a => !ds.any (fun d => d.addr = a)) }
  else e

/-- A write whose fills have come back merges into its lines, or passes on to the controller (R200). -/
def mergeWrite (s : State) (sl : Nat) (w : MWait) : State :=
  w.got.foldl (fun s d =>
    let x := slGet s sl
    let part := linePart w.req.pa w.req.data d.addr
    match lineFind x w.req.part d.addr with
    | some l => slPut s sl (linePut x (lineWrite l part.1 part.2))
    | none => wqPush s sl ⟨256 * d.addr + part.1, part.2, keySer s w.req.part w.req.k, false, w.req.part, true⟩) s

/-- A request whose last line has come is answered. -/
def finish (s : State) (sl : Nat) (w : MWait) : State :=
  if w.req.wr then respond (mergeWrite s sl w) w.req []
  else respond (histCount s (22 + sl) w.req.t0) w.req w.got

/-- Lines that a waiting write passes on to the controller when these lines come back: those with the uncorrectable-error indication (R200). -/
def passOn (ds : List LineData) (w : MWait) : Nat :=
  if w.req.wr then (w.got.filter (·.ue)).length + (ds.filter (fun d => d.ue && w.need.contains d.addr)).length else 0

/-- CHM_FILL_COMPLETE: the data of fill `i` returns; joined requests are served, the lines are installed or freed. Writes that must pass on
wait for room in the write queue. -/
def chmFillComplete (s : State) (sl i : Nat) : State :=
  let x := slGet s sl
  match lget x.fills i with
  | none => s
  | some f =>
    match f.ret with
    | none => s
    | some ds =>
      let pa := 256 * f.lines.head?.getD 0
      let l := hbmLoc s.hbm.dead pa
      let pass := ((x.waits.filter (fun w => w.req.part = f.part)).map (passOn ds)).sum
      if pass ≠ 0 && 64 < (pcGet s l.k l.p).wq.length + pass then qFull s pa true
      else
        let x1 := ds.foldl (fun x d => install x f d) { x with fills := ldel x.fills i }
        let ws := x1.waits.map (waitGive f.part ds)
        let ready := ws.filter (fun w => w.need.isEmpty)
        let s1 := slPut s sl { x1 with waits := ws.filter (fun w => !w.need.isEmpty), entries := x1.entries.map (entGive x1 f.part ds) }
        let s2 := ready.foldl (fun s w => finish s sl w) s1
        let reads := ready.filter (fun w => !w.req.wr && !w.req.hint)
        let uni := reads.filter (fun w => !w.mc)
        downBytes (mcDeliver s2 sl ((reads.filter MWait.mc).map MWait.req)) sl (uni.map (fun w => w.req.len)).sum

/-! Hints (R204). -/

/-- CHM_HINT: the slice serves hint `i` of its queue, or drops it; a hint that finds too few fill lines or a full controller queue waits (R203,
R234), as does one behind an older request for its lines (R201). One that the room below the quota does not hold whole is served for its first
lines (DESIGN CHOICE, log 67). -/
def chmHint (s : State) (sl i : Nat) : State :=
  let x := slGet s sl
  match lget x.reqs i with
  | none => s
  | some r =>
    if !r.hint || lineBlocked x i r then s
    else
      let gone := respond (slPut s sl { x with reqs := ldel x.reqs i }) r []
      let free := fillLines - fillUsed x
      let use := cachedUse x r.part + pinnedUse x r.part
      let room := min (chmQuota s sl r.part - use) (generalLines - generalUse x)
      if free * 16 < bits (rd s (R.chmCtrl sl)) 8 4 * fillLines || room = 0 || !paServes s r.pa then
        chmBump gone sl (R.chmHintDrop sl) 1
      else
        let as := (freshLines x r.part (reqLines r.pa r.len)).take room
        if as.isEmpty then gone
        else if free < as.length then slPut s sl { x with fillWait := true }
        else if !rqRoom s r.pa then qFull s r.pa false
        else fillStart gone sl r.part r.k as as

/-- Does a request in the queue need more fill lines than are free (R203). -/
def fillShort (x : Slice) (r : MReq) : Bool :=
  let fresh := freshLines x r.part (reqLines r.pa r.len)
  let need := if r.wr && r.alloc then fresh.filter (fun a => (linePart r.pa r.data a).2.length < 256) else fresh
  fillLines < fillUsed x + need.length

/-- One base-die cycle of a slice: CHM_FILL_WAIT counts while a request that has found too few free fill lines waits for them (R203). -/
def fillTick (s : State) (sl : Nat) : State :=
  let x := slGet s sl
  if !x.fillWait then s
  else if x.reqs.any (fillShort x) then chmBump s sl (R.chmFillWait sl) 1
  else slPut s sl { x with fillWait := false }

/-! Rounds, patrol, scrub. -/

/-- ARB_ROUND: a round starts with the weights then in force (R214, R449). -/
def arbRound (s : State) (sl : Nat) : State :=
  slMod s sl (fun x =>
    { x with arbW := rd s (R.chmArbWeight sl),
             rates := (List.range 16).foldl (fun t p =>
               let w := bits (rd s (R.chmPartRateP sl p)) 0 9
               if w = 0 then tdel t p else tput t p w) [] })

/-- What a patrol read of a slice finds where a line is held in the general or the fill region (R217, R218): cached lines, lines of entries,
staging lines, returned fills, in that order; past them nothing is held. -/
def patrolHit (s : State) (sl n : Nat) : State :=
  let x := slGet s sl
  let own := x.entries.flatMap (fun e => e.lines.map (fun d => (⟨e.part, d.addr, e.k, d.data, false, d.ue, true⟩ : Line)))
  let held := x.lines ++ own
  let stage := x.staging.flatMap (fun e => List.replicate e.2 e.1)
  let fl := x.fills.flatMap (fun f => match f.ret with | some ds => ds.map (fun d => (f.id, d.addr)) | none => [])
  match lget held n with
  | some l => chmUeLine s sl l 0
  | none =>
    match lget stage (n - held.length) with
    | some p =>
      slMod (chmErr (chmBump s sl (R.chmUeCount sl) 1) sl 2 0 0 p none) sl (fun x => { x with stagePois := x.stagePois ++ [p] })
    | none =>
      match lget fl (n - held.length - stage.length) with
      | some (id, a) =>
        slMod (chmErr (chmBump s sl (R.chmUeCount sl) 1) sl 3 1 0 0 (some a)) sl (fun x => { x with fills := x.fills.map (fun f =>
          if f.id = id then { f with ret := f.ret.map (fun ds => ds.map (fun d => if d.addr = a then { d with ue := true } else d)) } else f) })
      | none => s

/-- Lines that `patrolHit` can find. -/
def patrolLines (x : Slice) : Nat :=
  x.lines.length + (x.entries.map (fun e => e.lines.length)).sum + (x.staging.map (·.2)).sum +
    (x.fills.map (fun f => (f.ret.getD []).length)).sum

/-- Is a partition formed (R219, R441). -/
def prtFormed (s : State) (p : Nat) : Bool := (tgetD s.parts p .none_).st = 2

/-- Discards every line of a partition in a slice (R219). -/
def sliceDiscard (x : Slice) (p : Nat) : Slice :=
  { x with lines := x.lines.filter (fun l => l.part ≠ p), entries := x.entries.filter (fun e => e.part ≠ p),
           staging := tdel x.staging p,
           stagePois := x.stagePois.filter (· ≠ p),
           fills := x.fills.map (fun f => if f.part = p then { f with take := [] } else f) }

/-- CHM_SCRUB: a Stoker write of CHM_SCRUB with GO = 1 (R219). -/
def chmScrub (s : State) (sl p : Nat) : State :=
  if prtFormed s p then chmErr s sl 7 0 0 p none
  else slMod { s with mcast := s.mcast.filter (fun g => g.1 / 256 ≠ p) } sl (fun x => { sliceDiscard x p with scrub := true })

/-- CHM_SCRUB_DONE: the tenant scrub completes. -/
def chmScrubDone (s : State) (sl : Nat) : State := slMod s sl (fun x => { x with scrub := false })

/-! Accesses of agents on the base dies (R577): the update unit, graph engine, host port, Stoker and collective engine. The
slice, the controller and the agent meet in one step: the access is answered as it is served. Where the slice or the stack would keep it
waiting, the agent's whole command waits (`hold`, log 59). -/

/-- Must an agent's access wait for an older request of a firebox for the line (R201). -/
def agBehind (x : Slice) (part a : Nat) (wr : Bool) : Bool :=
  x.reqs.any (fun q => q.part = part && (reqLines q.pa q.len).contains a) ||
    x.waits.any (fun w => w.req.part = part && (wr || w.req.wr) && (w.need.contains a || (w.req.wr && w.got.any (fun d => d.addr = a))))

/-- Takes a line for an agent. A victim's write-back that finds its queue full is made after the controller's oldest write. -/
def agTake (s : State) (sl part a : Nat) : Option State :=
  match takeFor s sl part a with
  | (some t, _) => some t
  | (none, none) => none
  | (none, some v) =>
    if !paServes s (256 * v) then some (hold s)
    else
      let l := hbmLoc s.hbm.dead (256 * v)
      some ((takeFor (hbmPop s l.k l.p) sl part a).1.getD (hold s))

/-- An agent's access to one line: its data, whether HBM was read, whether an allocation was refused. -/
structure AgLine where
  ld : LineData
  hbm : Bool
  deny : Bool
  st : State
deriving DecidableEq, Repr

/-- The fill in progress that holds a line of a partition. -/
def fillOf (x : Slice) (part a : Nat) : Option Fill := x.fills.find? (fun f => f.part = part && f.lines.contains a)

/-- The read of a fill in progress is made (R199): its data is there. -/
def fillRead (s : State) (sl : Nat) (f : Fill) : State :=
  let l := hbmLoc s.hbm.dead (256 * f.lines.head?.getD 0)
  match f.ret, lfind (pcGet s l.k l.p).rq (fun r => r.s = sl && r.fid = f.id) with
  | none, some i => hbmRead s l.k l.p i
  | _, _ => s

/-- Has a slice no fill line free for an agent's access (R203). -/
def agFillShort (s : State) (sl : Nat) : Bool := fillLines ≤ fillUsed (slGet s sl)

/-- A line for an agent's read that the slice does not hold: from the fill in progress, which the read joins, or from HBM; installed under
ALLOC (R197, R199). -/
def agFill (s : State) (sl part k a : Nat) (alloc : Bool) : AgLine :=
  let zero : LineData := ⟨a, List.replicate 256 0, true⟩
  if !paServes s (256 * a) || ((fillOf (slGet s sl) part a).isNone && agFillShort s sl) then ⟨zero, true, false, hold s⟩
  else
    match fillOf (slGet s sl) part a with
    | some f =>
      let s1 := fillRead s sl f
      let g := (fillOf (slGet s1 sl) part a).getD f
      let ld := ((g.ret.getD []).find? (fun d => d.addr = a)).getD zero
      if !alloc || ld.ue || g.take.contains a then ⟨ld, true, false, s1⟩
      else
        match agTake s1 sl part a with
        | some s2 =>
          ⟨ld, true, false, slMod s2 sl (fun x => { x with fills := x.fills.map (fun h => if h.id = g.id then { h with take := h.take ++ [a] } else h) })⟩
        | none => ⟨ld, true, true, s1⟩
    | none =>
      let d := hbmReadLines s part k [a]
      let ld := (d.1.head?).getD zero
      let s1 := chmBump d.2 sl (R.chmBytesHbmRd sl) 256 64
      if !alloc || ld.ue then ⟨ld, true, false, s1⟩
      else
        match agTake s1 sl part a with
        | some s2 => ⟨ld, true, false, slMod s2 sl (fun x => { x with lines := x.lines ++ [⟨part, a, k, ld.data, false, false, true⟩] })⟩
        | none => ⟨ld, true, true, s1⟩

/-- A line for an agent's read, from the slice or from HBM. An armed injection fires at it (R578): an uncorrectable word invalidates a clean
cached line, which is then read from HBM, poisons a dirty or pinned one, and frees a fill line (R217). -/
def agLine (s : State) (part k a : Nat) (alloc : Bool) : AgLine :=
  let sl := homeSlice s.hbm.dead (256 * a)
  if agBehind (slGet s sl) part a false then ⟨⟨a, List.replicate 256 0, true⟩, false, false, hold s⟩
  else
    let inj := chmInject s sl (some a)
    match lineFind (slGet inj.2 sl) part a, inj.1 with
    | some l, false => ⟨⟨a, l.data, l.pois⟩, false, false, slMod inj.2 sl (fun x => touch x part [a])⟩
    | some l, true =>
      let s1 := chmUeLine inj.2 sl l 0
      match lineFind (slGet s1 sl) part a with
      | some m => ⟨⟨a, m.data, true⟩, false, false, slMod s1 sl (fun x => touch x part [a])⟩
      | none => agFill s1 sl part k a alloc
    | none, false => agFill inj.2 sl part k a alloc
    | none, true =>
      ⟨⟨a, List.replicate 256 0, true⟩, true, false, chmErr (chmBump inj.2 sl (R.chmUeCount sl) 1) sl 3 1 0 0 (some a)⟩

/-- The lines of an agent's request: data, whether HBM was read, whether an allocation was refused. -/
def agLines (s : State) (part k : Nat) (as : List Nat) (alloc : Bool) : List LineData × Bool × Bool × State :=
  match as with
  | [] => ([], false, false, s)
  | a :: r =>
    let x := agLine s part k a alloc
    let y := agLines x.st part k r alloc
    (x.ld :: y.1, x.hbm || y.2.1, x.deny || y.2.2.1, y.2.2.2)

/-- What an agent's access returns: bytes, the uncorrectable-error indication, whether HBM was read. -/
structure AgRead where
  data : List Byte
  ue : Bool
  hbm : Bool
  st : State
deriving DecidableEq, Repr

/-- A range cut at every 2 KiB granule (R197): address and length of each request. -/
def granules (pa len : Nat) : List (Nat × Nat) :=
  if len = 0 then []
  else (List.range ((pa + len - 1) / 2048 + 1 - pa / 2048)).map (fun i =>
    let lo := max pa (2048 * (pa / 2048 + i))
    (lo, min (pa + len) (2048 * (pa / 2048 + i + 1)) - lo))

/-- CHM_HITS or CHM_MISSES counts a request at its home slice, CHM_PART_DENY_p a refused allocation, once (R197). -/
def agCount (s : State) (part pa : Nat) (hit deny : Bool) : State :=
  let sl := homeSlice s.hbm.dead pa
  let s1 := if hit then chmBump s sl (R.chmHits sl) 1 else chmBump s sl (R.chmMisses sl) 1
  if deny then chmBump s1 sl (R.chmPartDenyP sl part) 1 else s1

/-- An agent's read of partition memory by physical address, one request for each granule (R197, R577). -/
def agRead (s : State) (part k pa len : Nat) (alloc : Bool) : AgRead :=
  (granules pa len).foldl (fun acc g =>
    let x := agLines acc.st part k (reqLines g.1 g.2) alloc
    let h := (if x.2.1 then 22 else 18) + homeSlice s.hbm.dead g.1
    ⟨acc.data ++ gather g.1 g.2 x.1, acc.ue || x.1.any LineData.ue, acc.hbm || x.2.1,
      histCount (agCount x.2.2.2 part g.1 (!x.2.1) x.2.2.1) h (telNow s)⟩) ⟨[], false, false, s⟩

/-- An agent's write to one line (R200): a hit updates the line; a miss under ALLOC installs it, or fills it, joining the fill in progress (R199);
else HBM is written. Data returned by a fill in progress is updated too, so that the slice keeps one order of writes (R201). The second component: an
allocation was refused. -/
def agWriteLine (s : State) (part k pa : Nat) (data : List Byte) (a : Nat) (alloc : Bool) : Bool × State :=
  let sl := homeSlice s.hbm.dead (256 * a)
  let p := linePart pa data a
  let x := slGet s sl
  let put (d : LineData) : LineData :=
    if d.addr = a then { d with data := d.data.take p.1 ++ p.2 ++ d.data.drop (p.1 + p.2.length) } else d
  let x1 := { x with fills := x.fills.map (fun f => if f.part = part then { f with ret := f.ret.map (fun l => l.map put) } else f) }
  let s0 := slPut s sl x1
  let direct (s : State) : State :=
    if agFillShort s sl then hold s
    else chmBump (hbmWriteNow s ⟨256 * a + p.1, p.2, keySer s part k, false, part, true⟩) sl (R.chmBytesHbmWr sl) p.2.length 64
  if agBehind x part a true then (false, hold s)
  else
    match lineFind x1 part a with
    | some l => (false, slPut s0 sl (linePut x1 (lineWrite l p.1 p.2)))
    | none =>
      if !alloc then (false, direct s0)
      else
        let had := (fillOf x1 part a).any (fun f => f.take.contains a)
        match if had then some s0 else agTake s0 sl part a with
        | none => (true, direct s0)
        | some s1 =>
          -- a line that a fill in progress took keeps its place
          let new (s : State) (l : Line) : State := slMod s sl (fun y => { y with
            lines := y.lines ++ [l],
            fills := y.fills.map (fun f => if f.part = part then { f with take := f.take.filter (· ≠ a) } else f) })
          if p.2.length = 256 then (false, new s1 ⟨part, a, k, p.2, true, false, true⟩)
          else
            let d := agFill s1 sl part k a false
            if d.st.held then (false, d.st)
            else if d.ld.ue then (false, direct d.st)
            else (false, new d.st (lineWrite ⟨part, a, k, d.ld.data, true, false, true⟩ p.1 p.2))

/-- The lines of one request of an agent that writes. -/
def agWriteLines (s : State) (part k pa : Nat) (data : List Byte) (as : List Nat) (alloc deny : Bool) : Bool × State :=
  match as with
  | [] => (deny, s)
  | a :: r =>
    let x := agWriteLine s part k pa data a alloc
    agWriteLines x.2 part k pa data r alloc (deny || x.1)

/-- An agent's write of partition memory by physical address, one request for each granule. -/
def agWrite (s : State) (part k pa : Nat) (data : List Byte) (alloc : Bool) : State :=
  (granules pa data.length).foldl (fun s g =>
    let as := reqLines g.1 g.2
    let hit := as.all (fun a => (lineFind (slGet s (homeSlice s.hbm.dead (256 * a))) part a).isSome)
    let x := agWriteLines s part k g.1 ((data.drop (g.1 - pa)).take g.2) as alloc false
    agCount x.2 part g.1 hit x.1) s

end Sys2Proof.Machine
end

