-- ==== Sys2Proof/Machine/Num.lean ====
section
/-!
DEFINITION. The number formats, block scales and conversions of 02_number_formats.md: exact values as dyadic rationals,
one rounding function, and the FP32 and BF16 arithmetic of the arrays (R53–R57) and the vector engine (R114).
-/

namespace Sys2Proof.Machine

/-- A value: NaN, an infinity, or (−1)^neg × m × 2^e exactly. -/
inductive FVal where
  | nan
  | inf (neg : Bool)
  | fin (neg : Bool) (m : Nat) (e : Int)
deriving DecidableEq, Repr

/-- A float layout: exponent bits, fraction bits, bias. -/
structure FFmt where
  eb : Nat
  mb : Nat
  bias : Nat
deriving DecidableEq, Repr

/-- FP32, FP16 and BF16 (R41), F8 (R42), F4 (R43). -/
def fp32 : FFmt := ⟨8, 23, 127⟩
def fp16 : FFmt := ⟨5, 10, 15⟩
def bf16 : FFmt := ⟨8, 7, 127⟩
def ff8 : FFmt := ⟨4, 3, 7⟩
def ff4 : FFmt := ⟨2, 1, 1⟩

/-- The exponent of the least significant bit of a subnormal. -/
def FFmt.emin (f : FFmt) : Int := 1 - (f.bias : Int) - (f.mb : Int)

/-- The value of a magnitude code as a finite number: subnormal below 2^mb, normal above. -/
def magVal (f : FFmt) (neg : Bool) (mag : Nat) : FVal :=
  let ef := mag / 2 ^ f.mb
  let fr := mag % 2 ^ f.mb
  if ef = 0 then .fin neg fr f.emin else .fin neg (2 ^ f.mb + fr) (f.emin + ((ef : Int) - 1))

/-- An IEEE code's value (R41). -/
def ieeeVal (f : FFmt) (code : Nat) : FVal :=
  let mag := code % 2 ^ (f.eb + f.mb)
  let neg := bit code (f.eb + f.mb)
  let infc := (2 ^ f.eb - 1) * 2 ^ f.mb
  if mag < infc then magVal f neg mag else if mag = infc then .inf neg else .nan

/-- F8 code (R42). -/
def f8Val (code : Nat) : FVal := if code % 128 = 127 then .nan else magVal ff8 (bit code 7) (code % 128)

/-- F4 code (R43). -/
def f4Val (code : Nat) : FVal := if code % 16 = 8 then .nan else magVal ff4 (bit code 3) (code % 8)

/-- Two's complement code of `n` bits (R44). -/
def intVal (n code : Nat) : FVal := let v := sbits code n; .fin (decide (v < 0)) v.natAbs 0

/-- The value of a code of format code `fmt` (R39); blocked formats have the values of their element format. -/
def fmtVal (fmt code : Nat) : FVal :=
  match fmt with
  | 0 => ieeeVal fp32 code
  | 1 => ieeeVal fp16 code
  | 2 => ieeeVal bf16 code
  | 3 => f8Val code
  | 4 => f4Val code
  | 5 => intVal 8 code
  | 6 => intVal 4 code
  | 7 => intVal 32 code
  | 8 => f8Val code
  | 9 => f4Val code
  | 10 => intVal 4 code
  | _ => .nan

/-- Element width in bits of a format code (R39). -/
def fmtWidth (fmt : Nat) : Nat :=
  match fmt with
  | 0 => 32 | 1 => 16 | 2 => 16 | 3 => 8 | 4 => 4 | 5 => 8 | 6 => 4 | 7 => 32 | 8 => 8 | 9 => 4 | 10 => 4 | _ => 8

/-- Float class (R39); INT8, INT4 and INT32 are the integer class. -/
def fmtFloat (fmt : Nat) : Bool := !(fmt = 5 || fmt = 6 || fmt = 7)

/-- Blocked formats (R39). -/
def fmtBlocked (fmt : Nat) : Bool := fmt = 8 || fmt = 9 || fmt = 10

/-- The element format of a blocked format. -/
def fmtElem (fmt : Nat) : Nat := match fmt with | 8 => 3 | 9 => 4 | 10 => 6 | f => f

/-- Canonical NaN codes (R46). -/
def canonNaN (fmt : Nat) : Nat :=
  match fmt with
  | 0 => 0x7FC00000 | 1 => 0x7E00 | 2 => 0x7FC0 | 3 => 0x7F | 4 => 8 | 8 => 0x7F | 9 => 8 | _ => 0

/-- Floor of log₂ of m × 2^e, for m > 0. -/
def flog2 (m : Nat) (e : Int) : Int := (Nat.log2 m : Int) + e

/-- m × 2^e on the grid of step 2^q: the integer part, and the remainder as a numerator over 2^d. -/
def gridSplit (m : Nat) (e q : Int) : Nat × Nat × Nat :=
  if q ≤ e then (m <<< (e - q).toNat, 0, 0)
  else let d := (q - e).toNat; (m >>> d, m % 2 ^ d, d)

/-- Round to nearest, ties to even, of n + rem / 2^d (R59). -/
def rneUp (n rem d : Nat) : Nat :=
  if 2 * rem > 2 ^ d then n + 1
  else if 2 * rem = 2 ^ d ∧ d ≠ 0 then n + n % 2
  else n

/-- Stochastic rounding of n + rem / 2^d with the 16-bit draw r (R59): up when r < floor(2^16 × fraction). -/
def srUp (n rem d r : Nat) : Nat := if r < (rem <<< 16) >>> d then n + 1 else n

/-- One rounding step: `none` is RNE, `some r` is SR with draw r. -/
def roundUp (mode : Option Nat) (n rem d : Nat) : Nat :=
  match mode with
  | none => rneUp n rem d
  | some r => srUp n rem d r

/-- The magnitude code of m × 2^e rounded on the float grid with its exponent unbounded above (R59, R62). -/
def roundMag (f : FFmt) (mode : Option Nat) (m : Nat) (e : Int) : Nat :=
  if m = 0 then 0
  else
    let q := max f.emin (flog2 m e - (f.mb : Int))
    let s := gridSplit m e q
    (q - f.emin).toNat * 2 ^ f.mb + roundUp mode s.1 s.2.1 s.2.2

/-- The code of an IEEE format for an exact value, rounded once; NaN is the canonical NaN (R46, R61). -/
def ieeeRound (f : FFmt) (nanc : Nat) (mode : Option Nat) (v : FVal) : Nat :=
  let sg (neg : Bool) : Nat := b1 neg * 2 ^ (f.eb + f.mb)
  let infc := (2 ^ f.eb - 1) * 2 ^ f.mb
  match v with
  | .nan => nanc
  | .inf neg => sg neg + infc
  | .fin neg m e => sg neg + min (roundMag f mode m e) infc

/-- FP32 code of an exact value under RNE. -/
def rnd32 (v : FVal) : W32 := BitVec.ofNat 32 (ieeeRound fp32 0x7FC00000 none v)

/-- BF16 code of an exact value under RNE. -/
def rndB16 (v : FVal) : W32 := BitVec.ofNat 32 (ieeeRound bf16 0x7FC0 none v)

/-- The value of an FP32 code. -/
def v32 (w : W32) : FVal := ieeeVal fp32 w.toNat

/-- Exact negation. -/
def fvNeg (v : FVal) : FVal :=
  match v with
  | .nan => .nan | .inf n => .inf (!n) | .fin n m e => .fin (!n) m e

/-- Exact sum, with the zero signs of R57: an exact zero is +0 unless both addends are −0. -/
def fvAdd (a b : FVal) : FVal :=
  match a, b with
  | .nan, _ => .nan
  | _, .nan => .nan
  | .inf n, .inf n' => if n = n' then .inf n else .nan
  | .inf n, .fin _ _ _ => .inf n
  | .fin _ _ _, .inf n => .inf n
  | .fin n m e, .fin n' m' e' =>
    let q := min e e'
    let x : Int := (if n then -1 else 1) * ((m <<< (e - q).toNat : Nat) : Int)
    let y : Int := (if n' then -1 else 1) * ((m' <<< (e' - q).toNat : Nat) : Int)
    let z := x + y
    if z = 0 then .fin (n && n' && m = 0 && m' = 0) 0 0 else .fin (decide (z < 0)) z.natAbs q

/-- Exact product; infinity times zero is NaN (R55). -/
def fvMul (a b : FVal) : FVal :=
  match a, b with
  | .nan, _ => .nan
  | _, .nan => .nan
  | .inf n, .inf n' => .inf (n != n')
  | .inf n, .fin n' m _ => if m = 0 then .nan else .inf (n != n')
  | .fin n m _, .inf n' => if m = 0 then .nan else .inf (n != n')
  | .fin n m e, .fin n' m' e' => .fin (n != n') (m * m') (e + e')

/-- Quotient to 2 bits beyond any rounding position, with a sticky last bit; the rounding of R114 is then exact. -/
def fvDiv (a b : FVal) : FVal :=
  match a, b with
  | .nan, _ => .nan
  | _, .nan => .nan
  | .inf _, .inf _ => .nan
  | .inf n, .fin n' _ _ => .inf (n != n')
  | .fin n _ _, .inf n' => .fin (n != n') 0 0
  | .fin n m e, .fin n' m' e' =>
    if m' = 0 then (if m = 0 then .nan else .inf (n != n'))
    else if m = 0 then .fin (n != n') 0 0
    else
      let k := 64 + Nat.log2 m'
      let qt := (m <<< k) / m'
      let sticky := if (m <<< k) % m' = 0 then 0 else 1
      .fin (n != n') (2 * qt + sticky) (e - e' - (k : Int) - 1)

/-- Integer square root by bits from 2^i down. -/
def isqrtGo (n : Nat) (i : Nat) (r : Nat) : Nat :=
  match i with
  | 0 => if (r + 1) * (r + 1) ≤ n then r + 1 else r
  | i + 1 => let c := r + 2 ^ (i + 1); isqrtGo n i (if c * c ≤ n then c else r)

/-- Integer square root, rounded down. -/
def isqrt (n : Nat) : Nat := isqrtGo n (Nat.log2 n / 2 + 1) 0

/-- Square root with a sticky last bit (R114): −0 is kept, other negatives are NaN. -/
def fvSqrt (a : FVal) : FVal :=
  match a with
  | .nan => .nan
  | .inf n => if n then .nan else .inf false
  | .fin n m e =>
    if m = 0 then .fin n 0 0
    else if n then .nan
    else
      let sh : Nat := 64 + (if (e % 2 = 0) then 0 else 1)
      let m' := m <<< sh
      let r := isqrt m'
      .fin false (2 * r + (if r * r = m' then 0 else 1)) ((e - (sh : Int)) / 2 - 1)

/-- Comparison of two values that are not NaN: −1, 0 or 1; +0 and −0 compare equal. -/
def fvCmp (a b : FVal) : Int :=
  match a, b with
  | .inf n, .inf n' => (if n = n' then 0 else if n then -1 else 1)
  | .inf n, _ => if n then -1 else 1
  | _, .inf n => if n then 1 else -1
  | .fin n m e, .fin n' m' e' =>
    let q := min e e'
    let x : Int := (if n then -1 else 1) * ((m <<< (e - q).toNat : Nat) : Int)
    let y : Int := (if n' then -1 else 1) * ((m' <<< (e' - q).toNat : Nat) : Int)
    (x - y).sign
  | _, _ => 0

/-- Is the value NaN. -/
def FVal.isNaN (v : FVal) : Bool := match v with | .nan => true | _ => false

/-- Is the value zero of either sign. -/
def FVal.isZero (v : FVal) : Bool := match v with | .fin _ 0 _ => true | _ => false

/-- Is the value negative (−0 included). -/
def FVal.neg (v : FVal) : Bool := match v with | .nan => false | .inf n => n | .fin n _ _ => n

/-- Maximum with NaN propagating and +0 above −0 (R114), as values. -/
def fvMax (a b : FVal) : FVal :=
  if a.isNaN || b.isNaN then .nan
  else if fvCmp a b = 0 then (if a.neg then b else a)
  else if fvCmp a b = 1 then a else b

/-- Minimum with NaN propagating and −0 below +0 (R114). -/
def fvMin (a b : FVal) : FVal :=
  if a.isNaN || b.isNaN then .nan
  else if fvCmp a b = 0 then (if a.neg then a else b)
  else if fvCmp a b = 1 then b else a

/-- FP32 addition with one RNE rounding (R54, R115). -/
def add32 (a b : W32) : W32 := rnd32 (fvAdd (v32 a) (v32 b))

/-- FP32 multiplication with one RNE rounding. -/
def mul32 (a b : W32) : W32 := rnd32 (fvMul (v32 a) (v32 b))

/-- FP32 maximum (FMAX, R114). -/
def max32 (a b : W32) : W32 := rnd32 (fvMax (v32 a) (v32 b))

/-- INT32 addition that saturates (R56): the value and whether it saturated. -/
def addSat32 (a : W32) (b : Int) : W32 × Bool :=
  let s := a.toInt + b
  if s > 2147483647 then (0x7FFFFFFF#32, true)
  else if s < -2147483648 then (0x80000000#32, true)
  else (BitVec.ofInt 32 s, false)

/-- The conversion flags of R63: CVT_NAN, CVT_NAN_INT, CVT_SAT, CVT_OVF, CVT_UNF in bits 0 to 4. -/
abbrev CvtFlags := BitVec 5

def fNan : CvtFlags := 1#5
def fNanInt : CvtFlags := 2#5
def fSat : CvtFlags := 4#5
def fOvf : CvtFlags := 8#5
def fUnf : CvtFlags := 16#5

/-- CVT_UNF when a nonzero finite source gives a zero magnitude (R62). -/
def unfOf (m mag : Nat) : CvtFlags := if m ≠ 0 ∧ mag = 0 then fUnf else 0

/-- Conversion of an exact value to format code `fmt` (0x0–0x7) under one rounding mode (R59–R62). -/
def convert (fmt : Nat) (mode : Option Nat) (v : FVal) : Nat × CvtFlags :=
  let ieee (f : FFmt) (nanc : Nat) : Nat × CvtFlags :=
    let infc := (2 ^ f.eb - 1) * 2 ^ f.mb
    match v with
    | .nan => (nanc, fNan)
    | .inf n => (b1 n * 2 ^ (f.eb + f.mb) + infc, 0)
    | .fin n m e =>
      let mag := roundMag f mode m e
      (b1 n * 2 ^ (f.eb + f.mb) + min mag infc, (if infc ≤ mag then fOvf else 0) ||| unfOf m mag)
  let int (n : Nat) : Nat × CvtFlags :=
    match v with
    | .nan => (0, fNanInt)
    | .inf neg => (if neg then 2 ^ (n - 1) else 2 ^ (n - 1) - 1, fSat)
    | .fin neg m e =>
      let s := gridSplit m e 0
      let mag := roundUp mode s.1 s.2.1 s.2.2
      if neg then
        (if mag > 2 ^ (n - 1) then (2 ^ (n - 1), fSat) else ((2 ^ n - mag) % 2 ^ n, unfOf m mag))
      else
        (if mag > 2 ^ (n - 1) - 1 then (2 ^ (n - 1) - 1, fSat) else (mag, unfOf m mag))
  match fmt with
  | 0 => ieee fp32 0x7FC00000
  | 1 => ieee fp16 0x7E00
  | 2 => ieee bf16 0x7FC0
  | 3 =>
    match v with
    | .nan => (0x7F, fNan)
    | .inf n => (b1 n * 128 + 0x7E, fSat)
    | .fin n m e =>
      let mag := roundMag ff8 mode m e
      if mag > 0x7E then (b1 n * 128 + 0x7E, fSat) else (b1 n * 128 + mag, unfOf m mag)
  | 4 =>
    match v with
    | .nan => (8, fNan)
    | .inf n => (b1 n * 8 + 7, fSat)
    | .fin n m e =>
      let mag := roundMag ff4 mode m e
      if mag > 7 then (b1 n * 8 + 7, fSat)
      else if mag = 0 then (0, unfOf m mag) else (b1 n * 8 + mag, 0)
  | 5 => int 8
  | 6 => int 4
  | _ => int 32

/-- E8M0 scale code as a power of two, 2^(c − 127); code 255 is NaN (R48). -/
def scaleVal (c : Nat) : FVal := if c = 255 then .nan else .fin false 1 ((c : Int) - 127)

/-- The largest exponent of an element format (R64). -/
def blkEmax (fmt : Nat) : Int := if fmt = 8 then 8 else 2

/-- The scale code of a block of FP32 values (R64). -/
def blockScale (fmt : Nat) (xs : List FVal) : Nat :=
  if xs.any (fun x => match x with | .fin _ _ _ => false | _ => true) then 255
  else if xs.all FVal.isZero then 127
  else
    let lg := xs.foldl (fun acc x => match x with | .fin _ m e => if m = 0 then acc else max acc (flog2 m e) | _ => acc) (-200)
    (min (max (lg - blkEmax fmt + 127) 0) 254).toNat

/-- Dequantised value v × 2^(c − 127) as FP32, with the flags of R65. -/
def dequant (fmt code c : Nat) : W32 × CvtFlags :=
  let v := fvMul (fmtVal fmt code) (scaleVal c)
  let r := rnd32 v
  (r, match v with
      | .nan => fNan
      | .inf _ => 0
      | .fin _ _ _ => if r.toNat % 2 ^ 31 = 0x7F800000 then fOvf else 0)

/-- The mixing function of the stochastic generator (R67), modulo 2^64. -/
def srMix (a b : Nat) : Nat :=
  let M := 2 ^ 64
  let z0 := (a + b * 0x9E3779B97F4A7C15) % M
  let z1 := ((z0 ^^^ (z0 >>> 30)) * 0xBF58476D1CE4E5B9) % M
  let z2 := ((z1 ^^^ (z1 >>> 27)) * 0x94D049BB133111EB) % M
  z2 ^^^ (z2 >>> 31)

/-- The 16-bit draw of a seed and counter (R67). -/
def srDraw (seed ctr : Nat) : Nat := srMix seed ctr % 65536

end Sys2Proof.Machine
end

