-- ==== Sys2Proof/Machine/Operands.lean ====
section
/-!
DEFINITION. The operand forms: every descriptor and table entry of spec/ as field readers over its bits (little-endian, R6):
passes (R77), invocations and their streams (R101, R102), instructions (R108), scratchpad operations (R143), handles (R155),
stream descriptors (R160, R178), graph headers, tasks, handle lists and schedules (R283, R287, R289, R290), mix items (R312).
-/

namespace Sys2Proof.Machine

/-- A descriptor's bits from its bytes (R6). -/
def descBits (bs : List Byte) : Nat := leVal bs

/-! Pass descriptor (R77). -/

def psArray (d : Nat) : Nat := bits d 8 1
def psAFmt (d : Nat) : Nat := bits d 9 4
def psWFmt (d : Nat) : Nat := bits d 13 4
def psWTrans (d : Nat) : Bool := bit d 17
def psTileSrc (d : Nat) : Nat := bits d 18 1
def psAccLoad (d : Nat) : Bool := bit d 19
def psMaskEn (d : Nat) : Bool := bit d 20
def psTqPush (d : Nat) : Bool := bit d 21
def psM (d : Nat) : Nat := bits d 32 13
def psKTiles (d : Nat) : Nat := bits d 45 9
def psKLast (d : Nat) : Nat := bits d 54 8
def psAHandle (d : Nat) : Nat := bits d 64 6
def psAStride (d : Nat) : Nat := bits d 70 10
def psAOffset (d : Nat) : Nat := bits d 80 16
def psWHandle (d : Nat) : Nat := bits d 96 6
def psWStride (d : Nat) : Nat := bits d 102 10
def psWOffset (d : Nat) : Nat := bits d 112 16
def psAsHandle (d : Nat) : Nat := bits d 128 6
def psMaskHandle (d : Nat) : Nat := bits d 134 6
def psAsOffset (d : Nat) : Nat := bits d 144 16
def psWsHandle (d : Nat) : Nat := bits d 160 6
def psWsOffset (d : Nat) : Nat := bits d 176 16
def psOHandle (d : Nat) : Nat := bits d 192 6
def psLHandle (d : Nat) : Nat := bits d 198 6
def psOOffset (d : Nat) : Nat := bits d 208 16
def psLOffset (d : Nat) : Nat := bits d 224 16
def psMaskOffset (d : Nat) : Nat := bits d 240 16

/-- A pass of the float class (R39, R52): one of its operands is; INT4 beside a blocked operand counts as I4B (R51, log 57). -/
def psFloat (d : Nat) : Bool := fmtFloat (psAFmt d) || fmtFloat (psWFmt d)

/-- The mode's N: 64, 128 or 256 columns by the wider operand (R52, R70). -/
def psN (d : Nat) : Nat :=
  let w := max (fmtWidth (psAFmt d)) (fmtWidth (psWFmt d))
  if w ≤ 4 then 256 else if w ≤ 8 then 128 else 64

/-- Output tiles of a pass (R79). -/
def psTiles (d : Nat) : Nat := cdiv (psM d) 64

/-- Rows of output tile `j` (R79). -/
def psTileRows (d j : Nat) : Nat := min 64 (psM d - 64 * j)

/-- K-rows of K-tile `t` that count (R54, R77). -/
def psKRows (d t : Nat) : Nat := if t + 1 = psKTiles d then psKLast d else 128

/-- Scratchpad rows of one operand row of K elements in format `f`. -/
def lineRows (f elems : Nat) : Nat := cdiv (elems * fmtWidth f) 512

/-- Rows from one line of the row operand to the next: A_STRIDE, or packed (R77). -/
def psAStep (d : Nat) : Nat := if psAStride d = 0 then lineRows (psAFmt d) (128 * psKTiles d) else psAStride d

/-- Rows from one line of the stationary operand to the next: W_STRIDE, or packed (R75). A packed line of less than 64 bytes takes a whole row:
DESIGN CHOICE (log 64), since a line must begin on a 64-byte boundary. -/
def psWStep (d : Nat) : Nat :=
  if psWStride d = 0 then
    (if psWTrans d then lineRows (psWFmt d) (128 * psKTiles d) else lineRows (psWFmt d) (psN d))
  else psWStride d

/-- The reserved bits of a pass descriptor (R77). -/
def psReserved (d : Nat) : Bool :=
  bits d 22 10 ≠ 0 || bits d 62 2 ≠ 0 || bits d 140 4 ≠ 0 || bits d 166 10 ≠ 0 || bits d 204 4 ≠ 0

/-! Invocation descriptor (R101) and its streams (R102). -/

def ivProg (d : Nat) : Nat := bits d 8 3
def ivVl (d : Nat) : Nat := bits d 12 12
def ivRows (d : Nat) : Nat := bits d 24 7
def ivTqRelease (d : Nat) : Bool := bit d 31
def ivCols (d : Nat) : Nat := bits d 32 14
def ivAccInit (d a : Nat) : Nat := bits d (46 + 2 * a) 2
def ivC (d c : Nat) : Nat := bits d (64 + 32 * c) 32
def ivS (d i : Nat) : Nat := bits d (320 + 64 * i) 64
def stEn (w : Nat) : Bool := bit w 0
def stSrc (w : Nat) : Bool := bit w 1
/-- A scale stream. DESIGN CHOICE (log 64): R102 does not say what SRC = 1 with KIND = 1 means; the model reads the tile queue's elements (R110,
R118), so KIND counts only for SRC = 0. -/
def stKind (w : Nat) : Bool := bit w 2 && !bit w 1
/-- The element format of a stream; a blocked code names its element codes (R102); a scale stream is E8M0 (11); FMT is ignored for SRC = 1, whose
elements are of 32 bits (R110). -/
def stFmt (w : Nat) : Nat := if stSrc w then 0 else if stKind w then 11 else fmtElem (bits w 3 4)
def stHandle (w : Nat) : Nat := bits w 7 6
def stOffset (w : Nat) : Nat := bits w 13 16
def stStride (w : Nat) : Nat := bits w 29 16

/-- The segments of a row (R103). -/
def ivSegs (d : Nat) : Nat := cdiv (ivCols d) (ivVl d)

/-- The current VL of segment `s` (R103). -/
def ivSegVl (d s : Nat) : Nat := min (ivVl d) (ivCols d - s * ivVl d)

/-- The reserved bits of an invocation descriptor (R101, R102). -/
def ivReserved (d : Nat) : Bool :=
  bit d 11 || bits d 54 10 ≠ 0 || bits d 704 320 ≠ 0 || (List.range 6).any (fun i => bits (ivS d i) 45 19 ≠ 0)

/-! Instruction word (R108). -/

def inOp (w : Nat) : Nat := bits w 0 6
def inVd (w : Nat) : Nat := bits w 6 4
def inSa (w : Nat) : Nat := bits w 10 5
def inSb (w : Nat) : Nat := bits w 15 5
def inSc (w : Nat) : Nat := bits w 20 5
def inW (w : Nat) : Bool := bit w 25
def inS (w : Nat) : Bool := bit w 26
def inX (w : Nat) : Nat := bits w 27 5

/-! Scratchpad operation (R143). -/

def opCode (d : Nat) : Nat := bits d 0 8
def opDst (d : Nat) : Nat := bits d 8 6
def opDstOff (d : Nat) : Nat := bits d 16 16
def opRows (d : Nat) : Nat := bits d 32 16
def opSrc (d : Nat) : Nat := bits d 48 6
def opSrcOff (d : Nat) : Nat := bits d 64 16
def opValue (d : Nat) : Nat := bits d 128 64

/-- What R143 rejects at load: reserved bits, multiples of 16, unused fields. -/
def opBad (d : Nat) : Bool :=
  bits d 14 2 ≠ 0 || bits d 54 10 ≠ 0 || bits d 80 48 ≠ 0 || bits d 192 64 ≠ 0 || opDstOff d % 16 ≠ 0 ||
  opRows d % 16 ≠ 0 || opRows d = 0 ||
  (opCode d ≠ 4 && (opSrc d ≠ 0 || opSrcOff d ≠ 0)) || (opCode d ≠ 3 && opValue d ≠ 0)

/-! Handle entry (R155). -/

def hdValid (v : Nat) : Bool := bit v 0
def hdOwned (v : Nat) : Bool := bit v 1
def hdMem (v : Nat) : Nat := bits v 2 2
def hdWrite (v : Nat) : Bool := bit v 4
def hdStream (v : Nat) : Bool := bit v 5
def hdAction (v : Nat) : Nat := bits v 6 2
def hdBase (v : Nat) : Nat := bits v 8 16
def hdLen (v : Nat) : Nat := bits v 24 16
def hdOwner (v : Nat) : Nat := bits v 40 16

/-- A handle entry from its fields (R155). -/
def hdMake (mem access mode action base len owner : Nat) : Nat :=
  3 + fieldAt 2 2 mem + fieldAt 4 1 access + fieldAt 5 1 mode + fieldAt 6 2 action + fieldAt 8 16 base +
  fieldAt 24 16 len + fieldAt 40 16 owner

/-! Flue descriptor (R160) and bellows descriptor (R178). -/

def fdKind (d : Nat) : Nat := bits d 0 4
def fdAhead (d : Nat) : Nat := bits d 4 8
def fdHandle (d : Nat) : Nat := bits d 12 6
def fdAlloc (d : Nat) : Bool := bit d 18
def fdRelease (d : Nat) : Bool := bit d 19
def fdDueEn (d : Nat) : Bool := bit d 20
def fdSid (d : Nat) : Nat := bits d 21 8
def fdTiles (d : Nat) : Nat := bits d 32 16
def fdVa (d : Nat) : Nat := bits d 64 48
def fdTileStride (d : Nat) : Nat := bits d 128 32
def fdLineUnits (d : Nat) : Nat := bits d 160 8
def fdLines (d : Nat) : Nat := bits d 168 8
def fdLineStride (d : Nat) : Nat := bits d 176 32
def fdMcast (d : Nat) : Nat := bits d 208 16
def fdDueBase (d : Nat) : Int := sbits (bits d 224 32) 32
def fdDuePeriod (d : Nat) : Nat := bits d 256 16
def fdNext (d : Nat) : Nat := bits d 320 48

/-- Bytes of one line and of one tile (R161). -/
def fdLineBytes (d : Nat) : Nat := fdLineUnits d * 256
def fdTileBytes (d : Nat) : Nat := fdLines d * fdLineBytes d
def fdTileRows (d : Nat) : Nat := fdTileBytes d / 64

def bdMode (d : Nat) : Bool := bit d 4
def bdIdx (d : Nat) : Nat := bits d 5 6
def bdData (d : Nat) : Nat := bits d 11 6
def bdAlloc (d : Nat) : Bool := bit d 17
def bdDueEn (d : Nat) : Bool := bit d 18
def bdRunFlue (d : Nat) : Nat := bits d 19 3
def bdIdxOff (d : Nat) : Nat := bits d 32 16
def bdDataOff (d : Nat) : Nat := bits d 48 16
def bdBase (d : Nat) : Nat := bits d 64 48
def bdScale (d : Nat) : Nat := bits d 128 32
def bdUnits (d : Nat) : Nat := bits d 160 16
def bdCount (d : Nat) : Nat := bits d 176 16
def bdDueBase (d : Nat) : Int := sbits (bits d 192 32) 32
def bdDuePeriod (d : Nat) : Nat := bits d 224 16
def bdNext (d : Nat) : Nat := bits d 256 48

/-! Graph header and multicast list entry (R283). -/

def ghId (d : Nat) : Nat := bits d 0 16
def ghPrio (d : Nat) : Nat := bits d 16 2
def ghUrgent (d : Nat) : Bool := bit d 18
def ghAfterEn (d : Nat) : Bool := bit d 19
def ghAfter (d : Nat) : Nat := bits d 32 16
def ghTasks (d : Nat) : Nat := bits d 64 17
def ghTaskVa (d : Nat) : Nat := bits d 128 48
def ghMcgVa (d : Nat) : Nat := bits d 192 48
def ghMcgCount (d : Nat) : Nat := bits d 240 8

/-- What R283 and R285 refuse in a graph header's own fields. -/
def ghBad (d : Nat) : Bool :=
  bits d 20 12 ≠ 0 || bits d 48 16 ≠ 0 || bits d 81 47 ≠ 0 || bits d 176 16 ≠ 0 || bits d 248 264 ≠ 0 ||
  ghTasks d = 0 || ghTasks d > 65536 || ghTaskVa d % 128 ≠ 0 || ghMcgVa d % 8 ≠ 0

/-- What R283 refuses in a multicast list entry. -/
def mcgBad (e : Nat) : Bool :=
  bits e 48 16 ≠ 0 || bits e 40 8 = 0 ||
  (if bit e 0 then bits e 1 7 < 2 || bits e 1 7 > 64 else bits e 1 39 ≠ 0)

/-! Task descriptor (R287). -/

def tdId (d : Nat) : Nat := bits d 0 16
def tdReplay (d : Nat) : Nat := bits d 16 16
def tdLayerEnd (d : Nat) : Bool := bit d 32
def tdCrEn (d : Nat) : Bool := bit d 33
def tdFixed (d : Nat) : Bool := bit d 34
def tdSem0En (d : Nat) : Bool := bit d 35
def tdSem1En (d : Nat) : Bool := bit d 36
def tdHearth (d : Nat) : Nat := bits d 40 8
def tdDeps (d : Nat) : Nat := bits d 48 16
def tdNsucc (d : Nat) : Nat := bits d 64 16
def tdSucc (d i : Nat) : Nat := bits d (80 + 16 * i) 16
def tdSuccVa (d : Nat) : Nat := bits d 144 48
def tdSem0 (d : Nat) : Nat := bits d 192 8
def tdSem1 (d : Nat) : Nat := bits d 200 8
def tdCycles (d : Nat) : Nat := bits d 224 32
def tdSchedVa (d : Nat) : Nat := bits d 256 48
def tdSchedUnits (d : Nat) : Nat := bits d 304 10
def tdProgVa (d : Nat) : Nat := bits d 320 48
def tdProgCount (d : Nat) : Nat := bits d 368 4
def tdHlistVa (d : Nat) : Nat := bits d 384 48
def tdHlistCount (d : Nat) : Nat := bits d 432 7
def tdStreamBase (d : Nat) : Nat := bits d 448 48
def tdStreamEn (d i : Nat) : Bool := bit d (496 + i)
def tdStreamOff (d i : Nat) : Nat := bits d (512 + 16 * i) 16
def tdTag (d : Nat) : Nat := bits d 704 64

/-- The semaphores a task acquires, SEM0 then SEM1 (R287). -/
def tdSems (d : Nat) : List Nat :=
  (if tdSem0En d then [tdSem0 d] else []) ++ (if tdSem1En d then [tdSem1 d] else [])

/-- What R285 refuses in a task descriptor's own fields. -/
def tdBad (d : Nat) : Bool :=
  bits d 37 3 ≠ 0 || bits d 208 16 ≠ 0 || bits d 314 6 ≠ 0 || bits d 372 12 ≠ 0 || bits d 439 9 ≠ 0 ||
  bits d 506 6 ≠ 0 || bits d 672 32 ≠ 0 || bits d 768 256 ≠ 0 || tdSuccVa d % 64 ≠ 0 || tdCycles d = 0 ||
  tdSchedVa d % 64 ≠ 0 || tdSchedUnits d = 0 || tdSchedUnits d > 512 || tdProgVa d % 128 ≠ 0 ||
  tdProgCount d > 8 || tdHlistVa d % 16 ≠ 0 || tdHlistCount d > 64 || tdStreamBase d % 64 ≠ 0

/-! Handle-list entry (R289). -/

def hlHandle (e : Nat) : Nat := bits e 0 6
def hlKind (e : Nat) : Nat := bits e 6 2
def hlMem (e : Nat) : Nat := bits e 8 2
def hlAccess (e : Nat) : Nat := bits e 10 1
def hlMode (e : Nat) : Nat := bits e 11 1
def hlAction (e : Nat) : Nat := bits e 12 2
def hlLen (e : Nat) : Nat := bits e 16 16
def hlAlt (e : Nat) : Nat := bits e 32 4
def hlBuf (e : Nat) : Nat := bits e 64 32

/-! Mix item (R312). -/

def mxKind (d : Nat) : Nat := bits d 0 2
def mxSplit (d : Nat) : Bool := bit d 2
def mxRows (d : Nat) : Nat := bits d 16 13
def mxSeq (d : Nat) : Nat := bits d 32 32
def mxStart (d : Nat) : Nat := bits d 64 32
def mxList (d : Nat) : Nat := bits d 96 48

/-! What R162 and R178 call a bad descriptor, but for its handles. -/

/-- The fields of DUE_EN (R162). -/
def dueBad (en : Bool) (base : Int) (period : Nat) : Bool := if en then period = 0 else base ≠ 0 || period ≠ 0

def fdReserved (d : Nat) : Bool :=
  bits d 29 3 ≠ 0 || bits d 48 16 ≠ 0 || bits d 112 16 ≠ 0 || bits d 272 48 ≠ 0 || bits d 368 144 ≠ 0

/-- The geometry of IN and OUT descriptors (R160, R161). -/
def fdShapeBad (d : Nat) : Bool :=
  fdTiles d = 0 || fdVa d % 256 ≠ 0 || fdTileStride d % 256 ≠ 0 || fdLineUnits d = 0 || fdLines d = 0 ||
  fdLineStride d % 256 ≠ 0 || fdTileBytes d % 1024 ≠ 0

def fdInBad (d : Nat) : Bool :=
  fdReserved d || fdShapeBad d || fdAhead d = 0 || 64 < fdAhead d || fdRelease d || fdNext d ≠ 0 || 255 < fdMcast d ||
  dueBad (fdDueEn d) (fdDueBase d) (fdDuePeriod d)

def fdOutBad (d : Nat) : Bool :=
  fdReserved d || fdShapeBad d || fdAhead d ≠ 0 || fdMcast d ≠ 0 || fdSid d ≠ 0 || fdDueEn d || fdNext d ≠ 0 ||
  dueBad false (fdDueBase d) (fdDuePeriod d)

/-- LINK: every field but KIND and NEXT_VA is 0 (R162). -/
def fdLinkBad (d : Nat) : Bool := d ≠ bits d 0 4 + fieldAt 320 48 (fdNext d) || fdNext d % 64 ≠ 0

/-- END: every field but KIND is 0 (R162). -/
def fdEndBad (d : Nat) : Bool := d ≠ bits d 0 4

/-- GATHER and SCATTER: reserved fields 0, and every field in its range (R162, R178). RUN_FLUE nonzero in ELEMENT mode, and DUE_EN or a due field
nonzero in a SCATTER, make the descriptor bad: R178 does not say (DESIGN CHOICE, log 58). -/
def bdWorkBad (d : Nat) : Bool :=
  bits d 22 10 ≠ 0 || bits d 112 16 ≠ 0 || bits d 240 16 ≠ 0 || bits d 304 208 ≠ 0 || bdNext d ≠ 0 ||
  bdDataOff d % 16 ≠ 0 || bdBase d % 64 ≠ 0 || bdScale d % 64 ≠ 0 || bdCount d = 0 ||
  (if bdMode d then bdUnits d < 32 || 1024 < bdUnits d || bdUnits d % 32 ≠ 0
   else bdUnits d = 0 || 64 < bdUnits d || bdRunFlue d ≠ 0) ||
  (if bits d 0 4 = 1 then dueBad (bdDueEn d) (bdDueBase d) (bdDuePeriod d)
   else bdDueEn d || dueBad false (bdDueBase d) (bdDuePeriod d))

def bdLinkBad (d : Nat) : Bool := d ≠ bits d 0 4 + fieldAt 256 48 (bdNext d) || bdNext d % 64 ≠ 0

/-! Collective entry (R390) and group entries (R391). -/

def ceOp (d : Nat) : Nat := bits d 0 4
def ceElem (d : Nat) : Nat := bits d 4 2
def ceMax (d : Nat) : Bool := bit d 6
def ceDemand (d : Nat) : Bool := bit d 7
def ceGroup (d : Nat) : Nat := bits d 8 4
def ceSemEn (d : Nat) : Bool := bit d 12
def ceCtlEn (d : Nat) : Bool := bit d 13
def ceSem (d : Nat) : Nat := bits d 16 8
def ceBucket (d : Nat) : Nat := 2 ^ (18 + bits d 24 4)
def ceRoot (d : Nat) : Nat := bits d 32 12
def ceSend (d : Nat) : Nat := bits d 64 48
def ceRecv (d : Nat) : Nat := bits d 112 48
def ceAux (d : Nat) : Nat := bits d 160 48
def ceGrpVa (d : Nat) : Nat := bits d 208 48
def ceLen (d : Nat) : Nat := bits d 256 32
def ceDeadline (d : Nat) : Nat := bits d 288 16
def ceBudgetKib (d : Nat) : Nat := bits d 304 16
def ceBudgetUs (d : Nat) : Nat := bits d 320 16
def geDev (e : Nat) : Nat := bits e 0 16
def gePart (e : Nat) : Nat := bits e 16 4
def geBkValid (e : Nat) : Bool := bit e 20
def geBk (e : Nat) : Nat := bits e 32 12

/-- Bytes of SEND, RECV and AUX of an entry in a group of `n` ranks (R390, R391, R396). -/
def ceSendLen (d n : Nat) : Nat := if ceOp d = 4 then n * ceLen d else ceLen d
def ceRecvLen (d n : Nat) : Nat := if ceOp d = 4 ∨ ceOp d = 2 then n * ceLen d else ceLen d
def ceAuxLen (d n : Nat) : Nat := 64 + (if ceOp d = 4 then 4 * n else if ceOp d = 6 then 512 else 0)

end Sys2Proof.Machine
end

