-- ==== Sys2Proof/Machine/Scratch.lean ====
section
/-!
DEFINITION. Hearth scratchpads (05): rows, banks and write buffers (R127–R131), handles (R132–R134), slots (R135–R142), the
scratchpad operations SPFILL, SPCOPY, SPEMPTY and their units (R143–R145), the scrub (R146), DEC-TED effects (R147–R150).
-/

namespace Sys2Proof.Machine

/-- Rows of memory `m` (R127). -/
def memRows (m : Nat) : Nat := match m with | 0 => 32768 | 1 => 49152 | 2 => 16384 | _ => 0

/-- Banks of memory `m` (R127). -/
def memBanks (m : Nat) : Nat := match m with | 0 => 16 | 1 => 24 | _ => 8

/-- The bank of a row (R128). -/
def bankOf (m row : Nat) : Nat := row % memBanks m

/-- A memory's bytes; there is no memory 3 (R155). -/
def spMem (sp : Scratch) (m : Nat) : Mem := match m with | 0 => sp.wm | 1 => sp.am | 2 => sp.pm | _ => []

/-- A memory's bytes replaced. -/
def spSetMem (sp : Scratch) (m : Nat) (b : Mem) : Scratch :=
  match m with
  | 0 => { sp with wm := b }
  | 1 => { sp with am := b }
  | 2 => { sp with pm := b }
  | _ => sp

/-- The 64 bytes of a row. -/
def row64 (d : List Byte) : List Byte := (d ++ List.replicate 64 0).take 64

/-- The newest buffered data of a row, if any (R131). -/
def wbFind (l : List WbRow) (m row : Nat) : Option (List Byte) :=
  match l with
  | [] => none
  | w :: r =>
    match wbFind r m row with
    | some d => some d
    | none => if w.mem = m ∧ w.row = row then some w.data else none

/-- The 64 bytes of a row as a reader sees them: a buffered write is returned (R131). -/
def rowGet (sp : Scratch) (m row : Nat) : List Byte :=
  match wbFind sp.wbuf m row with
  | some d => row64 d
  | none => memGetL (spMem sp m) (row * 64) 64

/-- Bytes of consecutive rows. -/
def rowsGet (sp : Scratch) (m row n : Nat) : List Byte := (List.range n).flatMap (fun i => rowGet sp m (row + i))

/-- The rows of a bank's write buffer that are used (R131). -/
def wbCount (sp : Scratch) (m bank : Nat) : Nat := (sp.wbuf.filter (fun w => w.mem = m && bankOf m w.row = bank)).length

/-- The oldest entry of each bank leaves its buffer for the bank; `seen` holds the banks served (R131). -/
def wbRetire (l : List WbRow) (seen : List (Nat × Nat)) (sp : Scratch) : List WbRow × Scratch :=
  match l with
  | [] => ([], sp)
  | w :: r =>
    let b := (w.mem, bankOf w.mem w.row)
    if seen.contains b then
      let x := wbRetire r seen sp
      (w :: x.1, x.2)
    else wbRetire r (b :: seen) (spSetMem sp w.mem (memPutL (spMem sp w.mem) (w.row * 64) (row64 w.data)))

/-- One cycle of retirement in every bank (R131). -/
def wbCycle (sp : Scratch) : Scratch :=
  let x := wbRetire sp.wbuf [] sp
  { x.2 with wbuf := x.1 }

/-- Rows that land in one cycle; the first that finds its bank's buffer full is returned (R131). -/
def wbPush (sp : Scratch) (ws : List WbRow) : Scratch × Option WbRow :=
  match ws with
  | [] => (sp, none)
  | w :: r =>
    if 8 ≤ wbCount sp w.mem (bankOf w.mem w.row) then (sp, some w)
    else wbPush { sp with wbuf := sp.wbuf ++ [w] } r

/-- Rows that land cycle after cycle, each bank retiring one row per cycle (R131). -/
def wbStream (sp : Scratch) (cycles : List (List WbRow)) : Scratch × Option WbRow :=
  match cycles with
  | [] => (sp, none)
  | ws :: r =>
    match wbPush sp ws with
    | (sp', some w) => (sp', some w)
    | (sp', none) => wbStream (wbCycle sp') r

/-- Has the row's bank at least 3 free entries (R131: flue, bellows, fill and copy writes). -/
def wbRoom (sp : Scratch) (m row : Nat) : Bool := wbCount sp m (bankOf m row) ≤ 5

/-- A flue, bellows, fill or copy row enters its bank's buffer: it waits, while the banks retire, until 3 entries are free (R131). `n` bounds the
cycles of the wait. -/
def wbEnter (n : Nat) (sp : Scratch) (w : WbRow) : Scratch :=
  match n with
  | 0 => { sp with wbuf := sp.wbuf ++ [w] }
  | n + 1 =>
    if wbCount sp w.mem (bankOf w.mem w.row) ≤ 5 then { sp with wbuf := sp.wbuf ++ [w] } else wbEnter n (wbCycle sp) w

/-- Consecutive rows of 64 bytes enter the buffers in order (R131). -/
def rowsEnter (sp : Scratch) (m row : Nat) (ds : List (List Byte)) : Scratch :=
  (ds.zipIdx).foldl (fun sp z => wbEnter 8 sp ⟨m, row + z.2, z.1⟩) sp

/-! Slots (R135–R137). -/

/-- The key of the slot that holds a row. -/
def slotKey (m row : Nat) : Nat := m * 4096 + row / 16

/-- The keys of the slots that `n` rows from `row` touch (R136). -/
def slotKeys (m row n : Nat) : List Nat :=
  if n = 0 then [] else (List.range ((row + n - 1) / 16 + 1 - row / 16)).map (fun i => slotKey m row + i)

def slotGet (sp : Scratch) (k : Nat) : Slot := tgetD sp.slots k .empty

def slotPut (sp : Scratch) (k : Nat) (x : Slot) : Scratch :=
  { sp with slots := if x = .empty then tdel sp.slots k else tput sp.slots k x }

def slotsMod (sp : Scratch) (ks : List Nat) (f : Slot → Slot) : Scratch :=
  ks.foldl (fun sp k => slotPut sp k (f (slotGet sp k))) sp

def slotsFull (sp : Scratch) (ks : List Nat) : Bool := ks.all (fun k => (slotGet sp k).full)

/-- Every slot EMPTY and not reserved: what a write requires (R136). -/
def slotsFree (sp : Scratch) (ks : List Nat) : Bool := ks.all (fun k => !(slotGet sp k).full && !(slotGet sp k).rsv)

def slotReserve (own : Nat) (x : Slot) : Slot := { x with rsv := true, by_ := own + 1 }
def slotFill (x : Slot) : Slot := { x with full := true, rsv := false, touched := true, by_ := 0 }
def slotEmpty (x : Slot) : Slot := { x with full := false, touched := true }
def slotRelease (x : Slot) : Slot := { x with rsv := false, by_ := 0 }

/-! Handles (R132–R134). -/

def hdl (sp : Scratch) (i : Nat) : Nat := tgetD sp.handles i 0

def hdlPut (sp : Scratch) (i v : Nat) : Scratch :=
  { sp with handles := if v = 0 then tdel sp.handles i else tput sp.handles i v }

/-- A use of a handle passes R134: valid, owned by the task, the memory that the use wants (any: 3), rows below LENGTH, and
read-write access for a write. -/
def hdlOk (sp : Scratch) (own i mem : Nat) (write : Bool) (endRow : Nat) : Bool :=
  let v := hdl sp i
  hdValid v && hdOwned v && hdOwner v = own && (mem = 3 || hdMem v = mem) && endRow ≤ hdLen v && (!write || hdWrite v)

/-- The absolute row of an offset in a handle. -/
def hdlRow (sp : Scratch) (i off : Nat) : Nat := hdBase (hdl sp i) + off

/-- The slot keys of a handle. -/
def hdlSlots (v : Nat) : List Nat := slotKeys (hdMem v) (hdBase v) (hdLen v)

/-- The conditions of R133 on a valid entry `i` beside the other entries. MEM 3 and DONE_ACTION 3, reserved in R155, are refused with them: DESIGN
CHOICE (log 64), R133 does not list them; the refusal is logged as HANDLE_BAD. -/
def hdlFits (sp : Scratch) (i v : Nat) : Bool :=
  !hdValid v ||
  (hdMem v < 3 && hdAction v < 3 && hdBase v % 16 = 0 && hdLen v % 16 = 0 && 16 ≤ hdLen v &&
    hdBase v + hdLen v ≤ memRows (hdMem v) &&
    sp.handles.all (fun e => e.1 = i || !hdValid e.2 || hdMem e.2 ≠ hdMem v ||
      hdBase e.2 + hdLen e.2 ≤ hdBase v || hdBase v + hdLen v ≤ hdBase e.2))

/-! Reads of a hearth's rows on the state: DEC-TED injection, read marks. -/

/-- The rows of these keys are read: they no longer count as wasted (R174). -/
def rowsSpent (x : Hearth) (m row n : Nat) : Hearth :=
  { x with unread := x.unread.filter (fun e => !(e.1 = m && row ≤ e.2 && e.2 < row + n)) }

/-- A scheduled reader reads these rows (R130): the tiles that hold them are reached (R167). -/
def rowsReach (x : Hearth) (m row n : Nat) : Hearth :=
  let reach (t : Tile) : Tile := if t.mem = m ∧ row < t.row + t.rows ∧ t.row < row + n then { t with reached := true } else t
  let str (st : Stream) : Stream := { st with tiles := st.tiles.map reach }
  let eng (e : Engine) : Engine := { e with cur := e.cur.map str, next := e.next.map str }
  { x with flues := x.flues.map (fun e => (e.1, eng e.2)), bellows := x.bellows.map (fun e => (e.1, eng e.2)) }

/-- The ports of scheduled reads (R130): loader, row feeders, preloads, LD. -/
def schedPort (port : Nat) : Bool := port = 0 || port = 1 || port = 2 || port = 5 || port = 6

/-- What a read through a port leaves behind. -/
def rowsRead (x : Hearth) (port m row n : Nat) : Hearth :=
  let y := rowsSpent x m row n
  if schedPort port then rowsReach y m row n else y

/-- Frees the watch entries whose every slot is EMPTY (R169). -/
def watchTrim (x : Hearth) : Hearth :=
  { x with watch := x.watch.filter (fun w => w.slots.any (fun k => (slotGet x.spd k).full || (slotGet x.spd k).rsv)) }

/-- The slots become EMPTY and their unread rows are forgotten. With `waste`, a task or its binding ends: the bytes of those rows are counted as
wasted (R174), and no write to the slots is in flight any more; an SPEMPTY or a pop leaves such a write its rows to land (R137). -/
def emptySlots (x : Hearth) (ks : List Nat) (f : Slot → Slot) (waste : Bool) : Hearth × Nat :=
  let gone := x.unread.filter (fun e => ks.contains (slotKey e.1 e.2))
  let x1 := { x with spd := slotsMod x.spd ks f, unread := x.unread.filter (fun e => !ks.contains (slotKey e.1 e.2)),
                     land := if waste then x.land.filter (fun e => !ks.contains e.1) else x.land }
  (watchTrim x1, if waste then 64 * gone.length else 0)

/-- FLU_WASTED_BYTES advances (R174). -/
def wasted (s : State) (h n : Nat) : State :=
  if n = 0 then s else bump s (bit (rd s (R.fluCtrl h)) 0) (R.fluWastedBytes h) n 64

/-- SPD_ERR_LOG captures an error (R156). -/
def spdErr (s : State) (h kind mem ab port hd row word : Nat) : State :=
  logErr s (R.spdErrLog h) (R.spdErrCount h)
    (fieldAt 8 4 kind + fieldAt 12 2 mem + fieldAt 16 8 ab + fieldAt 24 4 port + fieldAt 28 6 hd + fieldAt 34 16 row +
      fieldAt 50 3 word)

/-- Counters of the SPD_ block freeze under SPD_CTRL.CNT_FREEZE. -/
def spdBump (s : State) (h : Nat) (r : Reg) (n : Nat) : State := bump s (bit (rd s (R.spdCtrl h)) 0) r n

/-- The handle in use at a row (R156): the valid entry whose range holds it, 0 where none does. No two ranges overlap (R133). -/
def hdlAt (sp : Scratch) (m row : Nat) : Nat :=
  ((sp.handles.find? (fun e => hdValid e.2 && hdMem e.2 = m && hdBase e.2 ≤ row && row < hdBase e.2 + hdLen e.2)).map (·.1)).getD 0

/-- An uncorrectable word aborts the reading task and is logged; a repeat at the same row and word, with no completed task
between, is a hearth fault (R149). -/
def spdUe (s : State) (h own port m row word : Nat) : State :=
  let s1 := spdErr (spdBump s h (R.spdUeCountM h m) 1) h 4 m 5 port (hdlAt (hget s h).spd m row) row word
  let place := (m * 65536 + row, word)
  let again := (hget s1 h).spd.ues.contains place
  let s2 := if again then s1 else hmod s1 h (fun x => { x with spd := { x.spd with ues := x.spd.ues ++ [place] } })
  let s3 := reqAbort s2 h own 5
  if again then reqFault s3 h .repeatedUe else s3

/-- A corrected word (R148, R157): counted, logged with its syndrome, written back when the buffer allows. -/
def spdCe (s : State) (h m row word : Nat) (two : Bool) (syn : Nat) : State :=
  let x := hget s h
  let en := bit (rd s (R.spdCtrl h)) 3
  let pend := (wbFind x.spd.wbuf m row).isSome
  let room := wbCount x.spd m (bankOf m row) ≤ 4
  let ok := en && !pend && room
  let s1 := spdBump s h (R.spdCeCountM h m) 1
  let s2 := if en && !ok then spdBump s1 h (R.spdWbDropM h m) 1 else s1
  let s3 := if ok then
      hmod s2 h (fun x => { x with spd := { x.spd with wbuf := x.spd.wbuf ++ [⟨m, row, rowGet x.spd m row⟩] } })
    else s2
  wr s3 (R.spdCeLog h) (1 + fieldAt 1 1 (b1 two) + fieldAt 2 2 m + fieldAt 4 16 row + fieldAt 20 3 word +
    fieldAt 23 16 syn + fieldAt 39 1 (b1 ok))

/-- The STALE watch entry that covers a read of these rows (R170). -/
def staleHit (x : Hearth) (m row n : Nat) : Option Watch :=
  x.watch.find? (fun w => w.stale && (slotKeys m row n).any (fun k => w.slots.contains k))

/-- A read of a slot covered by a STALE entry aborts the task with ABORT_STALE_SOURCE, logged by the engine (R170). -/
def staleAbort (s : State) (h own : Nat) (w : Watch) : State :=
  let rec_ := fieldAt 8 4 3 + fieldAt 16 8 3 + fieldAt 24 16 own + fieldAt 40 16 w.tile
  let s1 :=
    if w.eng < 8 then logErr s (R.fluErrLog h) (R.fluErrCount h) (rec_ + fieldAt 12 3 w.eng)
    else logErr s (R.blwErrLog h) (R.blwErrCount h) (rec_ + fieldAt 12 1 (w.eng - 8))
  reqAbort s1 h own 3

/-- An armed injection fires at a read of a hearth's memories (R578): the word read shows a correctable or an uncorrectable
error. The second component is false when the reader is aborted. -/
def spdInject (s : State) (h own port m row : Nat) : State × Bool :=
  match injKind s 3 h with
  | none => (s, true)
  | some k =>
    let w := freeBits s 3
    let f := freeBits (injFired w.2) 16
    if k = 3 then (spdUe f.2 h own port m row w.1, false)
    else (spdCe f.2 h m row w.1 (k = 2) f.1, true)

/-- A read of row ranges of one memory by a port of a hearth: STALE sources, injected errors, and the marks of R167 and
R174. False when the reader is aborted. The slot check is the caller's. -/
def portRead (s : State) (h own port m : Nat) (segs : List (Nat × Nat)) : State × Bool :=
  match segs with
  | [] => (s, true)
  | (row, n) :: r =>
    match staleHit (hget s h) m row n with
    | some w => (staleAbort s h own w, false)
    | none =>
      match spdInject s h own port m row with
      | (s1, false) => (s1, false)
      | (s1, true) => portRead (hmod s1 h (fun x => rowsRead x port m row n)) h own port m r

/-- The slots of row ranges. -/
def segKeys (m : Nat) (segs : List (Nat × Nat)) : List Nat := segs.flatMap (fun g => slotKeys m g.1 g.2)

/-! Due cycles (R168). -/

/-- Engine `e` of a hearth: flues 0–7, bellows 8–9. -/
def engGet (x : Hearth) (e : Nat) : Engine := if e < 8 then tgetD x.flues e .idle else tgetD x.bellows (e - 8) .idle

/-- FLU_ERR_LOG or BLW_ERR_LOG captures an error of an engine (R187, R191). -/
def engErr (s : State) (h eng kind abort own tile : Nat) : State :=
  let v := fieldAt 8 4 kind + fieldAt 16 8 abort + fieldAt 24 16 own + fieldAt 40 16 tile
  if eng < 8 then logErr s (R.fluErrLog h) (R.fluErrCount h) (v + fieldAt 12 3 eng)
  else logErr s (R.blwErrLog h) (R.blwErrCount h) (v + fieldAt 12 1 (eng - 8))

/-- The start of a task that runs or drains on the hearth. -/
def startOf (x : Hearth) (own : Nat) : Option Nat :=
  ((x.cur.toList ++ x.drain.toList).find? (fun t => t.id = own)).map TaskRun.start

/-- Core cycles since the start of a task that runs or drains. -/
def sinceStart (s : State) (h own : Nat) : Option Int :=
  (startOf (hget s h) own).map (fun a => (coreNow s : Int) - (a : Int))

/-- Where the next tile of a flue stream goes in its ring (R161). -/
def ringPlace (v ring rows : Nat) : Nat := if hdLen v < ring + rows then 0 else ring

/-- The ring position of the tile `n` places after the next. -/
def ringAhead (v ring rows : Nat) : Nat → Nat
  | 0 => ringPlace v ring rows
  | n + 1 => ringAhead v (ringPlace v ring rows + rows) rows n

/-- The tile of a descriptor in hand, not yet started, that is due `t` core cycles after the task's start: its number, its first slots' memory, row
and rows. -/
def dueAhead (x : Hearth) (e : Nat) (st : Stream) (d : Nat) (t : Int) : Option (Nat × Nat × Nat × Nat) :=
  let at_ := fun (base : Int) (period : Nat) (lo n : Nat) =>
    (List.range (n - lo)).find? (fun i => base + (((lo + i) * period : Nat) : Int) = t)
  if fdKind d ≠ 1 then none
  else if e < 8 then
    let v := hdl x.spd (fdHandle d)
    if !fdDueEn d then none
    else (at_ (fdDueBase d) (fdDuePeriod d) st.tile (fdTiles d)).map (fun i =>
      (st.tile + i, hdMem v, hdBase v + ringAhead v st.ring (fdTileRows d) i, fdTileRows d))
  else
    let v := hdl x.spd (bdData d)
    let lo := cdiv (st.tile * bdUnits d) 16
    if !bdDueEn d then none
    else (at_ (bdDueBase d) (bdDuePeriod d) lo (cdiv (bdCount d * bdUnits d) 16)).map (fun i =>
      (16 * (lo + i) / bdUnits d, hdMem v, hdBase v + bdDataOff d + 16 * (lo + i), 16))

/-- The tile of an engine's stream that is due in this very cycle and owns one of these slots, none of which is FULL: the engine, and the
index that its log names. -/
def dueHit (s : State) (h own : Nat) (ks : List Nat) : Option (Nat × Nat) :=
  let x := hget s h
  let bad := ks.filter (fun k => !(slotGet x.spd k).full)
  let holds := fun (m row rows : Nat) => (slotKeys m row rows).any (fun k => bad.contains k)
  match sinceStart s h own with
  | none => none
  | some t =>
    (List.range 10).findSome? (fun e =>
      let g := engGet x e
      match (g.cur.toList ++ g.next.toList).find? (fun st => st.own = own) with
      | none => none
      | some st =>
        match st.tiles.find? (fun q => q.due = some t && q.got < q.rows && holds q.mem q.row q.rows) with
        | some q => some (e, q.elem)
        | none =>
          match st.cur.bind (fun d => dueAhead x e st d t) with
          | some (i, m, row, rows) => if holds m row rows then some (e, i) else none
          | none => none)

/-- The abort code of a scheduled read that fails its slot check: ABORT_SLOT_EMPTY (R140), or ABORT_UNDERRUN, recorded by the engine, in the due
cycle of the tile it reads (R168). -/
def emptyCode (s : State) (h own : Nat) (ks : List Nat) : Nat × State :=
  match dueHit s h own ks with
  | some (e, i) => (6, engErr s h e 2 6 own i)
  | none => (1, s)

/-! Issue of a schedule entry (R290). -/

/-- The next schedule entry of the running task when its opcode is one of `ops`; the entry leaves the schedule. -/
def schedTake (s : State) (h : Nat) (ops : List Nat) : Option (TaskRun × Nat × State) :=
  match (hget s h).cur with
  | none => none
  | some t =>
    match t.sched with
    | [] => none
    | e :: r =>
      if ops.contains (bits e.desc 0 8) then
        some (t, e.desc, hmod s h (fun x => { x with cur := some { t with sched := r } }))
      else none

/-! Scratchpad operations (R143–R145). -/

def opUnit (sp : Scratch) (m : Nat) : OpUnit := match m with | 0 => sp.op0 | 1 => sp.op1 | _ => sp.op2

def opUnitPut (sp : Scratch) (m : Nat) (u : OpUnit) : Scratch :=
  match m with
  | 0 => { sp with op0 := u }
  | 1 => { sp with op1 := u }
  | _ => { sp with op2 := u }

/-- A failed check of an operation: logged on port 8 and the task aborted. -/
def opFail (s : State) (h own kind mem ab hd row : Nat) : State :=
  reqAbort (spdErr s h kind mem ab 8 hd row 0) h own ab

/-- A fill or copy enters its memory's queue after the checks of R144. -/
def spdOpIssue (s : State) (h own d : Nat) : State :=
  let sp := (hget s h).spd
  let copy := opCode d = 4
  let dv := hdl sp (opDst d)
  let m := hdMem dv
  let u := opUnit sp m
  let row := hdlRow sp (opDst d) (opDstOff d)
  let src := hdlRow sp (opSrc d) (opSrcOff d)
  if 4 ≤ u.q.length then opFail s h own 7 m 2 (opDst d) 0
  else if !hdlOk sp own (opDst d) 3 true (opDstOff d + opRows d) then opFail s h own 1 m 10 (opDst d) 0
  else if copy && !hdlOk sp own (opSrc d) m false (opSrcOff d + opRows d) then opFail s h own 1 m 10 (opSrc d) 0
  else if !slotsFree sp (slotKeys m row (opRows d)) then opFail s h own 3 m 2 (opDst d) row
  else if copy && !slotsFull sp (slotKeys m src (opRows d)) then opFail s h own 2 m 1 (opSrc d) src
  else
    let u' : OpUnit := ⟨u.q ++ [⟨opCode d, row, opRows d, src, opValue d, own, 0⟩], u.run⟩
    hmod s h (fun x =>
      { x with spd := opUnitPut (slotsMod x.spd (slotKeys m row (opRows d)) (slotReserve own)) m u' })

/-- An operation unit starts the head of its queue (R144). -/
def spdOpStart (s : State) (h m : Nat) : State :=
  hmod s h (fun x =>
    let u := opUnit x.spd m
    if u.run || u.q.isEmpty then x else { x with spd := opUnitPut x.spd m { u with run := true } })

/-- Row `i` of an operation as it is written (R145). -/
def opRow (sp : Scratch) (m : Nat) (o : SpdOp) (i : Nat) : List Byte :=
  if o.op = 4 then rowGet sp m (o.src + i) else (List.replicate 8 (leBytes 8 o.value)).flatten

/-- The rows that an operation has still to write. -/
def opData (sp : Scratch) (m : Nat) (o : SpdOp) : List (List Byte) :=
  (List.range (o.rows - o.done)).map (fun i => opRow sp m o (o.done + i))

/-- The rows that a running operation writes in one cycle: one per bank for a fill, half as many for a copy, while their banks have room (R131,
R145). The count of rows written. -/
def opCycleGo (n : Nat) (sp : Scratch) (m : Nat) (o : SpdOp) (k : Nat) : Scratch × Nat :=
  match n with
  | 0 => (sp, k)
  | n + 1 =>
    if o.rows ≤ o.done + k ∨ wbRoom sp m (o.dst + o.done + k) = false then (sp, k)
    else opCycleGo n { sp with wbuf := sp.wbuf ++ [⟨m, o.dst + o.done + k, opRow sp m o (o.done + k)⟩] } m o (k + 1)

/-- One cycle of the operation unit of a memory (R144, R145). A copy reads through the decoder (R147, R578); its reads are not scheduled reads
(R130, R170). The last row waits for SPD_OP_DONE. -/
def opCycle (s : State) (h m : Nat) : State :=
  let u := opUnit (hget s h).spd m
  match u.run, u.q with
  | true, o :: r =>
    if o.rows ≤ o.done + 1 then s
    else
      let go (s : State) : State :=
        let sp := (hget s h).spd
        let y := opCycleGo (min (if o.op = 4 then memBanks m / 2 else memBanks m) (o.rows - o.done - 1)) sp m o 0
        let s1 := hmod s h (fun x =>
          let x1 := { x with spd := opUnitPut y.1 m ⟨{ o with done := o.done + y.2 } :: r, true⟩ }
          if o.op = 4 then rowsSpent x1 m (o.src + o.done) y.2 else x1)
        spdBump s1 h (R.spdOpRowsM h m) y.2
      if o.op = 4 then
        match spdInject s h o.own 8 m (o.src + o.done) with
        | (s1, false) => s1
        | (s1, true) => go s1
      else go s
  | _, _ => s

/-- A finished operation: its remaining rows are written, its destination slots become FULL (R145). -/
def spdOpLand (s : State) (h m : Nat) (o : SpdOp) (r : List SpdOp) : State :=
  let x := hget s h
  let sp1 := rowsEnter x.spd m (o.dst + o.done) (opData x.spd m o)
  let sp2 := slotsMod sp1 (slotKeys m o.dst o.rows) slotFill
  let x1 := { x with spd := opUnitPut sp2 m ⟨r, false⟩ }
  let x2 := if o.op = 4 then rowsSpent x1 m (o.src + o.done) (o.rows - o.done) else x1
  spdBump (hput s h x2) h (R.spdOpRowsM h m) (o.rows - o.done)

/-- The running operation's last row lands (R145): what it had still to write is written. -/
def spdOpDone (s : State) (h m : Nat) : State :=
  let u := opUnit (hget s h).spd m
  match u.run, u.q with
  | true, o :: r =>
    if o.op = 4 then
      match spdInject s h o.own 8 m (o.src + o.done) with
      | (s1, false) => s1
      | (s1, true) => spdOpLand s1 h m o r
    else spdOpLand s h m o r
  | _, _ => s

/-- SPEMPTY (R140, R144): every slot of the range is FULL and TOUCHED, or of a STREAM handle, and becomes EMPTY. -/
def spdOpEmpty (s : State) (h own d : Nat) : State :=
  let x := hget s h
  let sp := x.spd
  let dv := hdl sp (opDst d)
  let m := hdMem dv
  let row := hdlRow sp (opDst d) (opDstOff d)
  let ks := slotKeys m row (opRows d)
  if 4 ≤ (opUnit sp m).q.length then opFail s h own 7 m 2 (opDst d) 0
  else if !hdlOk sp own (opDst d) 3 false (opDstOff d + opRows d) then opFail s h own 1 m 10 (opDst d) 0
  else if !(hdStream dv || ks.all (fun k => (slotGet sp k).full && (slotGet sp k).touched)) then
    opFail s h own 8 m 10 (opDst d) row
  else hput s h (emptySlots x ks slotEmpty false).1

/-- A scheduled read's slack runs out (R130): the task that reads through the port is aborted with ABORT_UNDERRUN. -/
def bankLateTask (x : Hearth) (port : Nat) : Option Nat :=
  match port with
  | 0 => (x.mx.ldBusy).bind (fun a => ((if a = 0 then x.mx.a0 else x.mx.a1).q.head?).map Pass.own)
  | 1 => x.mx.a0.q.head?.map Pass.own
  | 2 => x.mx.a1.q.head?.map Pass.own
  | 5 => ((x.mx.a0.q ++ x.mx.a1.q).find? (fun p => psAccLoad p.desc)).map Pass.own
  | 6 => if x.vec.running then x.vec.q.head?.map Invoc.own else none
  | _ => none

/-- The latency of a row's bank by its distance class (R129), and the slack of a read of it (R130). -/
def bankLatency (m row : Nat) : Nat :=
  let b := bankOf m row
  match m with
  | 0 => if b < 4 then 3 else if b < 12 then 5 else 7
  | 1 => if b < 6 then 3 else if b < 16 then 5 else 7
  | _ => if b < 2 then 3 else if b < 6 then 5 else 7

def bankSlack (m row : Nat) : Nat := 7 - bankLatency m row

/-- Is a read granted within its slack: `port` is the port (0–7) plus 8 for each cycle the read has waited when it is granted; with none it is
not granted. -/
def bankGranted (m row port : Nat) : Bool := decide (0 < port / 8) && decide (port / 8 ≤ bankSlack m row)

/-- A scheduled read of a row is not granted at once (R130): one granted within its slack counts the cycles it waited, any other aborts its task. -/
def bankLate (s : State) (h m row port : Nat) : State :=
  match bankLateTask (hget s h) (port % 8) with
  | none => s
  | some own =>
    if m < 3 ∧ row < memRows m then
      if bankGranted m row port then spdBump s h (R.spdConflictM h m) (port / 8)
      else reqAbort (spdErr s h 5 m 6 (port % 8) (hdlAt (hget s h).spd m row) row 0) h own 6
    else s

/-- A Stoker write of a handle entry (R132, R133). DESIGN CHOICE (log 64): the record of a refused write, to which no port applies, has PORT 0. -/
def handleWrite (s : State) (h i v : Nat) : State :=
  let v' := bits v 0 56
  if hdlFits (hget s h).spd i v' then hmod s h (fun x => { x with spd := hdlPut x.spd i v' })
  else spdErr s h 9 (hdMem v') 0 0 i 0 0

/-- The scrub of R146: memories, slots and handles zeroed, SCRUB_BUSY until it ends. The errors of R149 are kept: no task has completed. -/
def scrubSpd (sp : Scratch) : Scratch := { Scratch.reset with scrub := true, ues := sp.ues }

/-- A Stoker write of SPD_CTRL.SCRUB: ignored while a task runs. The buffers of the residency map go with it (R295). -/
def spdScrub (s : State) (h : Nat) : State :=
  let x := hget s h
  if x.cur.isSome || x.drain.isSome then s
  else
    let s1 := hput s h { x with spd := scrubSpd x.spd, land := [], unread := [], watch := [] }
    match x.part with
    | none => s1
    | some p => gmod s1 p (fun g => { g with resid := g.resid.filter (fun e => e.1 ≠ h) })

/-- The scrub ends (R146). -/
def spdScrubDone (s : State) (h : Nat) : State := hmod s h (fun x => { x with spd := { x.spd with scrub := false } })

end Sys2Proof.Machine
end

