-- ==== Sys2Proof/Machine/Translate.lean ====
section
/-!
DEFINITION. Address translation (09): tables and the frame table (R250–R254), lookups and walks (R255–R259), operation rings
(R260–R266), frames and quotas (R267), shootdowns (R268), copy-on-write (R270), key slots of frames (R272–R275).
-/

namespace Sys2Proof.Machine

def xlGet (s : State) (p : Nat) : Xlt := tgetD s.xlts p .idle

def xlPut (s : State) (p : Nat) (x : Xlt) : State := { s with xlts := tput s.xlts p x }

def xlMod (s : State) (p : Nat) (f : Xlt → Xlt) : State := xlPut s p (f (xlGet s p))

/-- Counters of the XLT_ block under XLT_CTRL.CNT_FREEZE. -/
def xltBump (s : State) (p : Nat) (r : Reg) (n : Nat) : State := bump s (bit (rd s (R.xltCtrl p)) 0) r n

/-- XLT_ERR_LOG (R281). -/
def xltErr (s : State) (p kind ring abort h vpn : Nat) : State :=
  logErr s (R.xltErrLog p) (R.xltErrCount p)
    (fieldAt 8 4 kind + fieldAt 12 1 ring + fieldAt 16 8 abort + fieldAt 24 8 h + fieldAt 32 32 vpn)

/-- An abort of a task of hearth `h`: due now when it runs or drains, in its first cycle when it has not started (R162, R175). -/
def engAbort (s : State) (h own code : Nat) : State :=
  let x := hget s h
  match x.next with
  | some t =>
    if t.id = own && !((x.cur.map TaskRun.id) = some own) && !((x.drain.map TaskRun.id) = some own) then
      (if t.mark.isSome then s else hput s h { x with next := some { t with mark := some code } })
    else reqAbort s h own code
  | none => reqAbort s h own code

/-- An engine's error that aborts its task: logged, and the abort due. -/
def engFail (s : State) (h eng kind code own tile : Nat) : State := engAbort (engErr s h eng kind code own tile) h own code

/-! Tables (R250–R253). -/

def xLo (s : State) (p : Nat) : Nat := rdf s (R.xltRange p) 0 24
def xHi (s : State) (p : Nat) : Nat := rdf s (R.xltRange p) 32 24
def xCur (s : State) (p : Nat) : Nat := rdf s (R.xltKey p) 0 1
def xFtK (s : State) (p : Nat) : Nat := rdf s (R.xltKey p) 1 1
def xMapped (s : State) (p : Nat) : Nat := rdf s (R.xltFrames p) 0 24
def xQuota (s : State) (p : Nat) : Nat := rdf s (R.xltFrames p) 32 24

/-- Frames of the frame table (R253). -/
def ftFrames (lo hi : Nat) : Nat := cdiv ((hi - lo) * 8) 65536

/-- Entry fields (R252). -/
def leV (e : Nat) : Bool := bit e 0
def leW (e : Nat) : Bool := bit e 1
def leCow (e : Nat) : Bool := bit e 2
def leK (e : Nat) : Nat := bits e 3 1
def leGen (e : Nat) : Nat := bits e 8 8
def leFrame (e : Nat) : Nat := bits e 16 24
def leNext (e : Nat) : Nat := bits e 64 32

/-- A leaf entry from its fields (R252). -/
def leafMake (w cow : Bool) (k gen frame next : Nat) : Nat :=
  1 + fieldAt 1 1 (b1 w) + fieldAt 2 1 (b1 cow) + fieldAt 3 1 k + fieldAt 8 8 gen + fieldAt 16 24 frame + fieldAt 64 32 next

/-- A table pointer: V, K and FRAME (R252). -/
def ptrMake (k frame : Nat) : Nat := 1 + fieldAt 3 1 k + fieldAt 16 24 frame

/-- Frame-table entry fields (R253). -/
def feGen (e : Nat) : Nat := bits e 0 8
def feRefs (e : Nat) : Nat := bits e 8 16
def feState (e : Nat) : Nat := bits e 24 3
def feK (e : Nat) : Nat := bits e 27 1

/-- A frame-table entry (R253). -/
def frameMake (gen refs st k : Nat) : Nat := fieldAt 0 8 gen + fieldAt 8 16 refs + fieldAt 24 3 st + fieldAt 27 1 k

def vpRoot (vpn : Nat) : Nat := bits vpn 24 8
def vpL1 (vpn : Nat) : Nat := bits vpn 12 12
def vpL0 (vpn : Nat) : Nat := bits vpn 0 12

/-- An entry read by the update unit or a walker (R256: ALLOC = 1): none on the uncorrectable-error indication. -/
def entRead (s : State) (p k pa n : Nat) : Option Nat × Bool × State :=
  let r := agRead s p k pa n true
  (if r.ue then none else some (leVal r.data), r.hbm, r.st)

/-- An entry written by the update unit (R260). -/
def entWrite (s : State) (p k pa n v : Nat) : State := agWrite s p k pa (leBytes n v) true

/-- The address of a frame's entry in the frame table (R253). -/
def ftPa (s : State) (p f : Nat) : Nat := 65536 * xLo s p + 8 * (f - xLo s p)

/-- A frame's entry. -/
def frGet (s : State) (p f : Nat) : Option Nat × State :=
  let r := entRead s p (xFtK s p) (ftPa s p f) 8
  (r.1, r.2.2)

/-- Writes a frame's entry. -/
def frPut (s : State) (p f v : Nat) : State := entWrite s p (xFtK s p) (ftPa s p f) 8 v

/-- Is a frame in the partition's range (R250). -/
def inRange (s : State) (p f : Nat) : Bool := xLo s p ≤ f && f < xHi s p

/-! Walks (R251, R256, R258). -/

/-- What a walk finds: the leaf's value and address with the K of its table, an entry that is not valid, or the
uncorrectable-error indication. -/
inductive WalkRes where
  | leaf (e pa k : Nat)
  | invalid
  | ue
deriving DecidableEq, Repr

/-- Keeps the newest 1,024 entries of each walker's cache (R256). -/
def wcTrim (l : List WalkEnt) (die : Nat) : List WalkEnt :=
  if (l.filter (fun e => e.die = die)).length ≤ 1024 then l
  else match lfind l.reverse (fun e => e.die = die) with
    | some i => ldel l (l.length - 1 - i)
    | none => l

/-- The L0 table that covers a page: from the walk cache, or by the root and L1 entries. -/
def walkL1 (s : State) (die p vpn : Nat) (cache : Bool) : Option (Option (Nat × Nat)) × Bool × State :=
  match s.walkCache.find? (fun e => cache && e.die = die && e.part = p && e.hi = vpn / 4096) with
  | some e => (some (some (e.frame, e.k)), false, s)
  | none =>
    let root := rd s (R.xltRootI p (vpRoot vpn))
    if !leV root then (some none, false, s)
    else
      let r := entRead s p (leK root) (65536 * leFrame root + 16 * vpL1 vpn) 16
      match r.1 with
      | none => (none, r.2.1, r.2.2)
      | some e =>
        if !leV e then (some none, r.2.1, r.2.2)
        else
          let s1 := r.2.2
          let s2 := if cache then { s1 with walkCache := wcTrim (⟨die, p, vpn / 4096, leFrame e, leK e⟩ :: s1.walkCache) die } else s1
          (some (some (leFrame e, leK e)), r.2.1, s2)

/-- A walk: counted when it is a walker's (R278). -/
def walk (s : State) (die p vpn : Nat) (count : Bool) : WalkRes × State :=
  let a := walkL1 s die p vpn count
  let fin (res : WalkRes) (hbm : Bool) (s : State) : WalkRes × State :=
    if !count then (res, s)
    else
      let s1 := xltBump s p (R.xltWalks p) 1
      (res, if hbm then xltBump s1 p (R.xltWalkHbm p) 1 else s1)
  match a.1 with
  | none => fin .ue a.2.1 a.2.2
  | some none => fin .invalid a.2.1 a.2.2
  | some (some (f, k)) =>
    let pa := 65536 * f + 16 * vpL0 vpn
    let r := entRead a.2.2 p k pa 16
    match r.1 with
    | none => fin .ue (a.2.1 || r.2.1) r.2.2
    | some e => if leV e then fin (.leaf e pa k) (a.2.1 || r.2.1) r.2.2 else fin .invalid (a.2.1 || r.2.1) r.2.2

/-- Is a frame held by an action of the update unit (R261): its ring by a REKEY or a copy-on-write, or the frame the copy goes to. -/
def frameHeld (s : State) (p frame : Nat) : Bool :=
  let x := xlGet s p
  (match x.rk with | some k => decide (k.frame = frame) | none => false) ||
  (match x.cowRun with | some c => decide (c.src = frame) || decide (c.frame = frame) | none => false)

/-- A walk for an agent of base die `die`: one that reads an entry held by an action waits (R261). -/
def agWalk (s : State) (die p va : Nat) : WalkRes × State :=
  let w := walk s die p (va / 65536 % 2 ^ 32) true
  match w.1 with
  | .leaf e _ _ => if frameHeld s p (leFrame e) then (w.1, hold w.2) else w
  | _ => w

/-- A partition virtual address range read by an agent on base die `die` (R577): none where the translation faults or the data carries
the uncorrectable-error indication (second component). -/
def vaRead (s : State) (die p va len n : Nat) (alloc : Bool) : Option (List Byte) × Bool × State :=
  match n with
  | 0 => (some [], false, s)
  | n + 1 =>
    if len = 0 then (some [], false, s)
    else
      let part := min len (65536 - va % 65536)
      let w := agWalk s die p va
      match w.1 with
      | .leaf e _ _ =>
        let r := agRead w.2 p (leK e) (65536 * leFrame e + va % 65536) part alloc
        if r.ue then (none, true, r.st)
        else
          let rest := vaRead r.st die p (va + part) (len - part) n alloc
          (rest.1.map (fun d => r.data ++ d), rest.2.1, rest.2.2)
      | .invalid => (none, false, w.2)
      | .ue => (none, true, w.2)

/-- Pages that a range touches, an upper bound for recursion. -/
def pageFuel (len : Nat) : Nat := len / 65536 + 2

/-- A read of partition memory by virtual address by an agent of base die 0. -/
def vaGet (s : State) (p va len : Nat) (alloc : Bool) : Option (List Byte) × Bool × State := vaRead s 0 p va len (pageFuel len) alloc

/-- The same by an agent of base die `die`. -/
def vaGetAt (s : State) (die p va len : Nat) (alloc : Bool) : Option (List Byte) × Bool × State := vaRead s die p va len (pageFuel len) alloc

/-! Frames under their counts (R267, R275). -/

/-- XLT_KEY.FRAMES of slot `k` changes. -/
def keyCount (s : State) (p k : Nat) (up : Bool) : State :=
  let lo := if k = 0 then 8 else 32
  let n := rdf s (R.xltKey p) lo 24
  wrf s (R.xltKey p) lo 24 (if up then n + 1 else n - 1)

/-- XLT_FRAMES.MAPPED changes. -/
def mappedCount (s : State) (p : Nat) (up : Bool) : State :=
  wrf s (R.xltFrames p) 0 24 (if up then xMapped s p + 1 else xMapped s p - 1)

/-- A frame becomes DATA or TABLE under CUR (R272), keeping its generation. -/
def frTake (s : State) (p f refs st : Nat) : State :=
  let e := frGet s p f
  keyCount (mappedCount (frPut e.2 p f (frameMake (feGen (e.1.getD 0)) refs st (xCur s p))) p true) p (xCur s p) true

/-- A frame leaves DATA or TABLE and is RELEASING (R264, R268). -/
def frRelease (s : State) (p f : Nat) : State :=
  let e := frGet s p f
  let v := e.1.getD 0
  keyCount (mappedCount (frPut e.2 p f (frameMake (feGen v) 0 4 (feK v))) p false) p (feK v) false

/-- Writes REFS of a frame. -/
def frRefs (s : State) (p f refs : Nat) : State :=
  let e := frGet s p f
  frPut e.2 p f (setBits (e.1.getD 0) 8 16 refs)

/-- Changes REFS of a table by one; true when it reaches 0. -/
def tableRefs (s : State) (p f : Nat) (up : Bool) : Bool × State :=
  let e := frGet s p f
  let n := feRefs (e.1.getD 0)
  let n' := if up then n + 1 else n - 1
  (n' = 0, frPut e.2 p f (setBits (e.1.getD 0) 8 16 n'))

/-! The reserve ring (R266). -/

def rsvSize (s : State) (p : Nat) : Nat := 2 ^ rdf s (R.xltRsvCfg p) 0 5

/-- What a search of the reserve ring comes to: frames found, entries to discard and the index after the last entry used; too few, with the
entries to discard and the index of the first usable frame; a ring access that faulted, or that carried the uncorrectable-error indication. -/
inductive RsvRes where
  | found (fs : List Nat) (skip next : Nat)
  | few (skip next : Nat)
  | fault (ue : Bool)
deriving DecidableEq, Repr

/-- Looks for `want` usable frames from index `n`. A frame out of range or not FREE is discarded (R266); of a ring with too few usable frames the
entries before the first usable one are (DEDUCED, log 65). -/
def rsvScan (s : State) (p n left want : Nat) (acc : List Nat) (skip : Nat) (first : Option (Nat × Nat)) : RsvRes × State :=
  if want = 0 then (.found acc skip n, s)
  else
    match left with
    | 0 => (match first with | some f => .few f.1 f.2 | none => .few skip n, s)
    | left + 1 =>
      let r := vaGet s p (rd s (R.xltRsvBase p) + 4 * (n % rsvSize s p)) 4 true
      match r.1 with
      | none => (.fault r.2.1, r.2.2)
      | some d =>
        let f := leVal (d.take 3)
        let e := if inRange r.2.2 p f then frGet r.2.2 p f else (none, r.2.2)
        let ok := match e.1 with | some v => feState v = 0 && !acc.contains f | none => false
        if ok then rsvScan e.2 p ((n + 1) % 2 ^ 32) left (want - 1) (acc ++ [f]) skip (first.or (some (skip, n)))
        else rsvScan e.2 p ((n + 1) % 2 ^ 32) left want acc (skip + 1) first

/-- Finds `want` frames in the reserve ring without changing it; none are needed for 0. -/
def rsvFind (s : State) (p want : Nat) (avoid : List Nat) : RsvRes × State :=
  let head := rd s (R.xltRsvHead p)
  if want = 0 then (.found [] 0 head, s)
  else rsvScan s p head ((rd s (R.xltRsvTail p) + 2 ^ 32 - head) % 2 ^ 32) want avoid 0 none

/-- Takes the frames found: HEAD advances, discarded entries are counted. -/
def rsvTake (s : State) (p skip head : Nat) : State :=
  xltBump (wr s (R.xltRsvHead p) head) p (R.xltRsvSkip p) skip

/-! Rings of leaves (R254, R261). -/

/-- The pages of the ring that page `vpn` belongs to, following NEXT at most `n` times. -/
def ringPages (s : State) (p start vpn n : Nat) (acc : List Nat) : List Nat × State :=
  match n with
  | 0 => (acc, s)
  | n + 1 =>
    let w := walk s 0 p vpn false
    match w.1 with
    | .leaf e _ _ =>
      if leNext e = start then (acc ++ [vpn], w.2) else ringPages w.2 p start (leNext e) n (acc ++ [vpn])
    | _ => (acc ++ [vpn], w.2)

/-- Every mapping of the frame that page `vpn` maps. -/
def ringOf (s : State) (p vpn refs : Nat) : List Nat × State := ringPages s p vpn vpn refs []

/-- Changes the leaf of a page. -/
def leafMod (s : State) (p vpn : Nat) (f : Nat → Nat) : State :=
  let w := walk s 0 p vpn false
  match w.1 with
  | .leaf e pa k => entWrite w.2 p k pa 16 (f e)
  | _ => w.2

/-- Changes the leaves of pages. -/
def leavesMod (s : State) (p : Nat) (vs : List Nat) (f : Nat → Nat) : State := vs.foldl (fun s v => leafMod s p v f) s

/-- Takes page `vpn` out of its ring of `refs` entries: its predecessor's NEXT skips it. -/
def ringOut (s : State) (p vpn refs next : Nat) : State :=
  let r := ringOf s p vpn refs
  match r.1.getLast? with
  | some v => if v = vpn then r.2 else leafMod r.2 p v (fun e => setBits e 64 32 next)
  | none => r.2

/-! Tables that an operation needs (R264). -/

/-- How many tables a page lacks: none when a table read has an error. -/
def tablesMissing (s : State) (p vpn : Nat) : Option Nat × State :=
  let root := rd s (R.xltRootI p (vpRoot vpn))
  if !leV root then (some 2, s)
  else
    let r := entRead s p (leK root) (65536 * leFrame root + 16 * vpL1 vpn) 16
    (r.1.map (fun e => if leV e then 0 else 1), r.2.2)

/-- Fills a frame with zeros under a key slot. -/
def frameZero (s : State) (p f k : Nat) : State := agWrite s p k (65536 * f) (List.replicate 65536 0) false

/-- Makes the tables that a page lacks from the frames taken for them (R264). -/
def tablesMake (s : State) (p vpn : Nat) (fs : List Nat) : State :=
  match fs with
  | [] => s
  | f :: rest =>
    let cur := xCur s p
    let root := rd s (R.xltRootI p (vpRoot vpn))
    let s1 := frameZero s p f cur
    if !leV root then
      let s2 := wr (frTake s1 p f 0 2) (R.xltRootI p (vpRoot vpn)) (ptrMake cur f)
      tablesMake s2 p vpn rest
    else
      let s2 := entWrite (frTake s1 p f 0 2) p (leK root) (65536 * leFrame root + 16 * vpL1 vpn) 16 (ptrMake cur f)
      tablesMake (tableRefs s2 p (leFrame root) true).2 p vpn rest

/-- Writes a new leaf and counts it in its table. -/
def leafNew (s : State) (p vpn e : Nat) : State :=
  let a := walkL1 s 0 p vpn false
  match a.1 with
  | some (some (f, k)) =>
    (tableRefs (entWrite a.2.2 p k (65536 * f + 16 * vpL0 vpn) 16 e) p f true).2
  | _ => a.2.2

/-- Clears a leaf; a table whose REFS reaches 0 is released with it and its parent entry cleared (R264): the tables
released. -/
def leafClear (s : State) (p vpn : Nat) : List Nat × State :=
  let a := walkL1 s 0 p vpn false
  match a.1 with
  | some (some (f, k)) =>
    let t := tableRefs (entWrite a.2.2 p k (65536 * f + 16 * vpL0 vpn) 16 0) p f false
    if !t.1 then ([], t.2)
    else
      let s1 := frRelease t.2 p f
      let root := rd s1 (R.xltRootI p (vpRoot vpn))
      let s2 := entWrite s1 p (leK root) (65536 * leFrame root + 16 * vpL1 vpn) 16 0
      let u := tableRefs s2 p (leFrame root) false
      if !u.1 then ([f], u.2)
      else ([f, leFrame root], wr (frRelease u.2 p (leFrame root)) (R.xltRootI p (vpRoot vpn)) 0)
  | _ => ([], a.2.2)

/-! Shootdowns (R268). -/

/-- The hearths of a partition. -/
def partHearths (s : State) (p : Nat) : List Nat := (s.hearths.filter (fun e => e.2.part = some p)).map (·.1)

/-- Does a set of pages cover page `vpn`: a set of more than 64 covers every page (R268). -/
def sdCovers (pages : List Nat) (vpn : Nat) : Bool := 64 < pages.length || pages.contains vpn

/-- Step 1 of R268 for one released frame: its generation rises and its watch entries become STALE. -/
def sdFrame (s : State) (p f : Nat) : State :=
  let e := frGet s p f
  let v := e.1.getD 0
  let s1 := frPut e.2 p f (setBits v 0 8 ((feGen v + 1) % 256))
  (partHearths s1 p).foldl (fun s h => hmod s h (fun x =>
    { x with watch := x.watch.map (fun w => if w.frame = f then { w with stale := true } else w) })) s1

/-- Steps 1 and 2 of a shootdown, and what its step 3 waits for. -/
def sdStart (s : State) (p : Nat) (why : SdWhy) (pages frames : List Nat) : State :=
  let s1 := frames.foldl (fun s f => sdFrame s p f) s
  let hs := partHearths s1 p
  let writes := hs.flatMap (fun h => ((hget s1 h).reqs.filter (fun q => q.kind = .write && sdCovers pages (q.va / 65536))).map
    (fun q => (h, q.id)))
  let s2 := hs.foldl (fun s h => hmod s h (fun x =>
    { x with tlb := x.tlb.filter (fun t => !(t.part = p && sdCovers pages t.vpn)) })) s1
  let s3 := { s2 with walkCache := s2.walkCache.filter (fun e => !(e.part = p && pages.any (fun v => v / 4096 = e.hi))) }
  let left := hs.filter (fun h => !(hget s3 h).inReset)
  xlMod s3 p (fun x => { x with sds := x.sds ++ [⟨why, pages, frames, left, writes⟩] })

/-- SHOOTDOWN_ACK: a hearth acknowledges the oldest shootdown that waits for it (R268 step 3). -/
def shootdownAck (s : State) (p h : Nat) : State :=
  let x := xlGet s p
  match lfind x.sds (fun d => d.left.contains h) with
  | none => s
  | some i =>
    match lget x.sds i with
    | none => s
    | some d =>
      let y := hget s h
      let waits := !y.inReset && d.writes.any (fun w => w.1 = h && y.reqs.any (fun q => q.id = w.2))
      if waits then s else xlPut s p { x with sds := lset x.sds i { d with left := d.left.filter (· ≠ h) } }

def relSize (s : State) (p : Nat) : Nat := 2 ^ rdf s (R.xltRelCfg p) 0 5
def relUsed (s : State) (p : Nat) : Nat := (rd s (R.xltRelTail p) + 2 ^ 32 - rd s (R.xltRelHead p)) % 2 ^ 32

/-- Status of a virtual write by the device. -/
inductive WrRes where
  | ok | fault | prot | cowWait | ue
deriving DecidableEq, Repr

/-- A write by the device through translation, on pages whose leaves have W = 1 (R262). -/
def vaWrite (s : State) (die p va : Nat) (data : List Byte) (n : Nat) : WrRes × State :=
  match n with
  | 0 => (.ok, s)
  | n + 1 =>
    if data.isEmpty then (.ok, s)
    else
      let part := min data.length (65536 - va % 65536)
      let w := agWalk s die p va
      match w.1 with
      | .leaf e _ _ =>
        if leW e then vaWrite (agWrite w.2 p (leK e) (65536 * leFrame e + va % 65536) (data.take part) false) die p (va + part) (data.drop part) n
        else if leCow e then (.cowWait, w.2) else (.prot, w.2)
      | .invalid => (.fault, w.2)
      | .ue => (.ue, w.2)

def vaPut (s : State) (p va : Nat) (data : List Byte) : WrRes × State := vaWrite s 0 p va data (pageFuel data.length)

/-- The same by an agent of base die `die` (R577). -/
def vaPutAt (s : State) (die p va : Nat) (data : List Byte) : WrRes × State := vaWrite s die p va data (pageFuel data.length)

/-- Moves waiting frames into the release ring while it has room (R266). A ring page that cannot be written leaves its frame
waiting. -/
def relMove (s : State) (p n : Nat) : State :=
  match n with
  | 0 => s
  | n + 1 =>
    match (xlGet s p).pend with
    | [] => s
    | f :: rest =>
      if relSize s p ≤ relUsed s p then s
      else
        let e := frGet s p f
        let tail := rd s (R.xltRelTail p)
        let w := vaPut e.2 p (rd s (R.xltRelBase p) + 4 * (tail % relSize s p)) (leBytes 3 f ++ leBytes 1 (feGen (e.1.getD 0)))
        if w.1 = .ok then
          relMove (wr (xlMod w.2 p (fun x => { x with pend := rest })) (R.xltRelTail p) ((tail + 1) % 2 ^ 32)) p n
        else w.2

/-- RELEASE_RING_HEAD_WRITE: the host advances HEAD; waiting frames take the room (R266). -/
def releaseRingHeadWrite (s : State) (p head : Nat) : State :=
  let s1 := wr s (R.xltRelHead p) (head % 2 ^ 32)
  relMove s1 p (xlGet s1 p).pend.length

/-! Operation rings (R262–R266). -/

def ringGet (x : Xlt) (g : Nat) : RingRun := if g = 0 then x.r0 else x.r1
def ringSet (x : Xlt) (g : Nat) (r : RingRun) : Xlt := if g = 0 then { x with r0 := r } else { x with r1 := r }

def opqSize (s : State) (p g : Nat) : Nat := 2 ^ rdf s (R.xltOpqCfgG p g) 0 5

/-- The virtual address of the record at a ring's HEAD (R262). -/
def opqVa (s : State) (p g : Nat) : Nat := rd s (R.xltOpqBaseG p g) + 32 * (rd s (R.xltOpqHeadG p g) % opqSize s p g)

/-- Has a ring a record that the update unit may run. -/
def opqReady (s : State) (p g : Nat) : Bool :=
  let r := ringGet (xlGet s p) g
  r.halt = 0 && !r.fin && rd s (R.xltOpqHeadG p g) ≠ rd s (R.xltOpqTailG p g)

/-- XLT_OPQ_TAIL_WRITE (R262): ignored with RING_OVF when the ring would overflow. -/
def opqTailWrite (s : State) (p g tail : Nat) : State :=
  let t := tail % 2 ^ 32
  if opqSize s p g < (t + 2 ^ 32 - rd s (R.xltOpqHeadG p g)) % 2 ^ 32 then xltErr s p 8 g 0 0 0
  else wr s (R.xltOpqTailG p g) t

/-- Record fields (R263). -/
def rcOp (r : Nat) : Nat := bits r 0 8
def rcBatch (r : Nat) : Bool := bit r 8
def rcWrite (r : Nat) : Bool := bit r 9
def rcFlist (r : Nat) : Bool := bit r 10
def rcPages (r : Nat) : Nat := bits r 32 32
def rcVa (r : Nat) : Nat := bits r 64 48
def rcVa2 (r : Nat) : Nat := bits r 128 48
def rcFrame (r : Nat) : Nat := bits r 192 24
def rcDone (r : Nat) : Nat := bits r 224 32

/-- What R265 tests for the whole record before page 0. -/
def rcBad (r : Nat) : Bool :=
  rcOp r = 0 || 7 < rcOp r || bits r 11 5 ≠ 0 || bits r 24 8 ≠ 0 || bits r 112 16 ≠ 0 || bits r 176 16 ≠ 0 ||
  bits r 216 8 ≠ 0 || rcPages r = 0 ||
  (if rcOp r = 7 then rcPages r ≠ 1
   else rcVa r % 65536 ≠ 0 || rcVa2 r % 65536 ≠ 0 || 2 ^ 48 < rcVa r + 65536 * rcPages r ||
     (rcOp r = 3 && 2 ^ 48 < rcVa2 r + 65536 * rcPages r))

/-- A ring halts (R265): a ring fault reads the record again, and keeps whether it is carried out again. -/
def ringHalt (s : State) (p g why : Nat) : State :=
  xlMod s p (fun x => ringSet x g { RingRun.idle with halt := why, cmd := (ringGet x g).cmd, again := why = 2 && (ringGet x g).again })

/-- STATUS and DONE_PAGES are written into the record (R263). -/
def recordStatus (s : State) (p g status pages : Nat) : State :=
  let va := opqVa s p g
  (vaPut (vaPut s p (va + 2) (leBytes 1 status)).2 p (va + 28) (leBytes 4 pages)).2

/-- An operation ends (R265): OK advances HEAD; a failure is logged with the page concerned and halts the ring. -/
def opEnd (s : State) (p g status pages : Nat) : State :=
  let vpn := (rcVa (ringGet (xlGet s p) g).cmd / 65536 + pages) % 2 ^ 32
  let s1 := recordStatus s p g status pages
  if status = 1 then
    wr (xlMod s1 p (fun x => ringSet x g .idle)) (R.xltOpqHeadG p g) ((rd s (R.xltOpqHeadG p g) + 1) % 2 ^ 32)
  else ringHalt (xltErr s1 p 6 g 0 0 vpn) p g 1

/-- The pages of an operation are done, or it failed at page `i`: its shootdown starts with the batched pages, or it joins the
batch, or there is nothing to shoot down (R265, R268). -/
def opFinish (s : State) (p g status i : Nat) (batch : Bool) : State :=
  let x := xlGet s p
  let r := ringGet x g
  let pages := x.bPages ++ r.pages
  let frames := x.bFrames ++ r.frames
  if status = 1 && batch && frames.length < 4096 then
    opEnd (xlPut s p { x with bPages := pages, bFrames := frames }) p g 1 i
  else if pages.isEmpty && frames.isEmpty then opEnd s p g status i
  else
    let x1 := ringSet { x with bPages := [], bFrames := [] } g { r with fin := true, page := some i, pages := [], frames := [] }
    sdStart (xlPut s p x1) p (.op g status) pages frames

/-- Inside an operation with BATCH, a batch whose frames reach 4,096 closes: its shootdown starts and the operation goes on (R268). -/
def batchClose (s : State) (p g : Nat) : State :=
  let x := xlGet s p
  let r := ringGet x g
  let frames := x.bFrames ++ r.frames
  if frames.length < 4096 then s
  else sdStart (xlPut s p (ringSet { x with bPages := [], bFrames := [] } g { r with pages := [], frames := [] })) p .batch (x.bPages ++ r.pages) frames

/-- Released frames become FREE one after another, as long as the release ring or the pending list of 4,096 has room (R266, R268 step 4): the
frames that find none. The pending list holds only what the ring could not take. -/
def relTake (s : State) (p : Nat) (fs : List Nat) : List Nat × State :=
  match fs with
  | [] => ([], s)
  | f :: rest =>
    if 4096 ≤ (xlGet s p).pend.length then (f :: rest, s)
    else
      let e := frGet s p f
      let s1 := frPut e.2 p f (setBits (e.1.getD 0) 24 3 0)
      relTake (xltBump (relMove (xlMod s1 p (fun x => { x with pend := x.pend ++ [f] })) p 1) p (R.xltFrees p) 1) p rest

/-- The frames of shootdown `i` find room, as many as can; when none is left, its operation completes (R268 step 4). -/
def shootdownEnd (s : State) (p i : Nat) (d : Shoot) : State :=
  let r := relTake (if d.frames.isEmpty then s else relMove s p (xlGet s p).pend.length) p d.frames
  let s1 := xlMod r.2 p (fun x => { x with sds := if r.1.isEmpty then ldel x.sds i else lset x.sds i { d with frames := r.1 } })
  if !r.1.isEmpty then s1
  else
    let s2 := xltBump s1 p (R.xltShootdowns p) 1
    match d.why with
    | .op g status => opEnd s2 p g status (((ringGet (xlGet s2 p) g).page).getD 0)
    | .batch => s2
    | .cow => s2
    | .rekey => xlMod s2 p (fun x => { x with rk := x.rk.map (fun r => { r with ready := true }) })

/-- SHOOTDOWN_COMPLETE: the first shootdown that every hearth has acknowledged ends, `n` being tried from the `i`-th on. One whose frames find no
room waits (R266), as does one whose ring access meets a page held by an action (R261); the next such shootdown goes before it. -/
def shootdownFrom (s : State) (p i n : Nat) : State :=
  match n with
  | 0 => s
  | n + 1 =>
    match lget (xlGet s p).sds i with
    | none => s
    | some d =>
      if !d.left.isEmpty then shootdownFrom s p (i + 1) n
      else
        let t := shootdownEnd s p i d
        if t.held || (xlGet t p).sds = (xlGet s p).sds then shootdownFrom s p (i + 1) n else t

def shootdownComplete (s : State) (p : Nat) : State := shootdownFrom s p 0 (xlGet s p).sds.length

/-- What one page of an operation comes to: the new state with the pages and frames that join the shootdown, a STATUS that
fails it, or a wait. A failing page leaves only what its reads count, and the reserve entries it discards. -/
inductive PageRes where
  | ok (s : State) (pages frames : List Nat)
  | fail (s : State) (status : Nat)
  | wait (s : State)
deriving DecidableEq, Repr

/-- A page that finds no frame (R265, R266): entries to discard leave the ring; NO_FRAME, or FAULT where the ring access failed. -/
def noFrame (s : State) (p : Nat) (r : RsvRes) : PageRes :=
  match r with
  | .few skip next => .fail (rsvTake s p skip next) 9
  | _ => .fail s 11

/-- MAP of one page (R264). -/
def mapPage (s : State) (p r i : Nat) : PageRes :=
  let vpn := rcVa r / 65536 + i
  let fr : Option Nat × State :=
    if rcFlist r then
      let d := vaGet s p (rcVa2 r + 4 * i) 4 false
      (d.1.map (fun b => bits (leVal b) 0 32), d.2.2)
    else (some (rcFrame r + i), s)
  match fr.1 with
  | none => .fail s 11
  | some f =>
    if !inRange fr.2 p f then .fail s 3
    else
      let e := frGet fr.2 p f
      let w := walk e.2 0 p vpn false
      let t := tablesMissing w.2 p vpn
      match e.1, t.1 with
      | some fe, some n =>
        if feState fe ≠ 0 then .fail s 4
        else
          match w.1 with
          | .leaf _ _ _ => .fail s 6
          | .ue => .fail s 11
          | .invalid =>
            if xQuota s p < xMapped s p + 1 + n then .fail s 8
            else
              let q := rsvFind t.2 p n [f]
              match q.1 with
              | .few _ _ | .fault _ => noFrame q.2 p q.1
              | .found fs skip head =>
                let s1 := if n = 0 then q.2 else tablesMake (rsvTake q.2 p skip head) p vpn (fs.filter (· ≠ f))
                .ok (leafNew (frTake s1 p f 1 1) p vpn (leafMake (rcWrite r) false (xCur s p) (feGen fe) f vpn)) [] []
      | _, _ => .fail s 11

/-- UNMAP of one page (R264). -/
def unmapPage (s : State) (p r i : Nat) : PageRes :=
  let vpn := rcVa r / 65536 + i
  let w := walk s 0 p vpn false
  match w.1 with
  | .invalid => .fail s 5
  | .ue => .fail s 11
  | .leaf e _ _ =>
    let f := frGet w.2 p (leFrame e)
    match f.1 with
    | none => .fail s 11
    | some fe =>
      let s1 := ringOut f.2 p vpn (feRefs fe) (leNext e)
      let s2 := if feRefs fe ≤ 1 then frRelease s1 p (leFrame e) else frRefs s1 p (leFrame e) (feRefs fe - 1)
      let c := leafClear s2 p vpn
      .ok c.2 [vpn] ((if feRefs fe ≤ 1 then [leFrame e] else []) ++ c.1)

/-- SHARE of one page (R264). -/
def sharePage (s : State) (p r i : Nat) : PageRes :=
  let src := rcVa r / 65536 + i
  let dst := rcVa2 r / 65536 + i
  let w := walk s 0 p src false
  match w.1 with
  | .invalid => .fail s 5
  | .ue => .fail s 11
  | .leaf e _ _ =>
    let v := walk w.2 0 p dst false
    match v.1 with
    | .leaf _ _ _ => .fail s 6
    | .ue => .fail s 11
    | .invalid =>
      let f := frGet v.2 p (leFrame e)
      let t := tablesMissing f.2 p dst
      match f.1, t.1 with
      | some fe, some n =>
        if 65535 ≤ feRefs fe then .fail s 7
        else if n ≠ 0 && xQuota s p < xMapped s p + n then .fail s 8
        else
          let q := rsvFind t.2 p n []
          match q.1 with
          | .few _ _ | .fault _ => noFrame q.2 p q.1
          | .found fs skip head =>
            let s1 := if n = 0 then q.2 else tablesMake (rsvTake q.2 p skip head) p dst fs
            let s2 := leafNew s1 p dst (leafMake false (leW e || leCow e) (leK e) (leGen e) (leFrame e) (leNext e))
            let e' := setBits (if leW e then setBits (setBits e 1 1 0) 2 1 1 else e) 64 32 dst
            .ok (frRefs (leafMod s2 p src (fun _ => e')) p (leFrame e) (feRefs fe + 1)) (if leW e then [src] else []) []
      | _, _ => .fail s 11

/-- PROTECT of one page (R264). -/
def protectPage (s : State) (p r i : Nat) : PageRes :=
  let vpn := rcVa r / 65536 + i
  let w := walk s 0 p vpn false
  match w.1 with
  | .invalid => .fail s 5
  | .ue => .fail s 11
  | .leaf e _ _ =>
    let f := frGet w.2 p (leFrame e)
    match f.1 with
    | none => .fail s 11
    | some fe =>
      if rcWrite r then
        if 1 < feRefs fe then .fail s 10 else .ok (leafMod f.2 p vpn (fun e => setBits (setBits e 1 1 1) 2 1 0)) [] []
      else
        let ring := ringOf f.2 p vpn (feRefs fe)
        .ok (leavesMod ring.2 p ring.1 (fun e => setBits (setBits e 1 1 0) 2 1 0)) ring.1 []

/-- The 256 lines of a frame copied from one frame to another (R270): read under `k`, written under `k'`. False when a read
returned the uncorrectable-error indication. -/
def frameCopy (s : State) (p src k dst k' n : Nat) : Bool × State :=
  match n with
  | 0 => (true, s)
  | n + 1 =>
    let r := agRead s p k (65536 * src + 256 * n) 256 false
    let x := frameCopy (agWrite r.st p k' (65536 * dst + 256 * n) r.data true) p src k dst k' n
    (x.1 && !r.ue, x.2)

/-- The remapping that ends a copy-on-write (R270 step 3): the frame `f`, taken and copied under key slot `k`, becomes the page's. -/
def cowRemap (s : State) (p vpn f k : Nat) : State :=
  let w := walk s 0 p vpn false
  match w.1 with
  | .leaf e _ _ =>
    let o := frGet w.2 p (leFrame e)
    let refs := feRefs (o.1.getD 0)
    let g := frGet o.2 p f
    let s2 := ringOut g.2 p vpn refs (leNext e)
    let s3 := frRefs s2 p (leFrame e) (refs - 1)
    let s4 := leafMod s3 p vpn (fun _ => leafMake true false k (feGen (g.1.getD 0)) f vpn)
    xltBump s4 p (R.xltCowCopies p) 1
  | _ => w.2

/-- What a copy-on-write finds (R270): nothing to do, an upgrade in place, a frame for a copy with the shared frame and its key slot, or a
refusal with the STATUS that names it. -/
inductive CowRes where
  | none
  | upgraded
  | copy (src k frame skip next : Nat)
  | refuse (status : Nat)
deriving DecidableEq, Repr

/-- The first half of a copy-on-write of a page: steps 1 and 2, and the finding of a frame (R266, R267, R270). A frame entry with an
uncorrectable word refuses it with 11, a reserve ring that cannot be read with 12. -/
def cowFind (s : State) (p vpn : Nat) : CowRes × State :=
  let w := walk s 0 p vpn false
  match w.1 with
  | .ue => (.refuse 11, w.2)
  | .invalid => (.refuse 5, w.2)
  | .leaf e _ _ =>
    if leW e || !leCow e then (.none, w.2)
    else
      let f := frGet w.2 p (leFrame e)
      if f.1.isNone then (.refuse 11, f.2)
      else if feRefs (f.1.getD 0) ≤ 1 then
        (.upgraded, xltBump (leafMod f.2 p vpn (fun e => setBits (setBits e 1 1 1) 2 1 0)) p (R.xltCowUpgrades p) 1)
      else if xQuota s p ≤ xMapped s p then (.refuse 8, f.2)
      else
        let q := rsvFind f.2 p 1 []
        match q.1 with
        | .found (f0 :: _) skip next => (.copy (leFrame e) (leK e) f0 skip next, q.2)
        | .few skip next => (.refuse 9, rsvTake q.2 p skip next)
        | .fault true => (.refuse 11, q.2)
        | _ => (.refuse 12, q.2)

/-- A copy-on-write of an agent's page, whole (R264 UNSHARE, R419): the page to shoot down, or the STATUS that refuses it. A copy that read an
uncorrectable word is not mapped: FAULT (DESIGN CHOICE, log 61). -/
def cowWhole (s : State) (p vpn : Nat) : Nat × List Nat × State :=
  let c := cowFind s p vpn
  match c.1 with
  | .none => (1, [], c.2)
  | .upgraded => (1, [], c.2)
  | .copy src k f skip next =>
    let cp := frameCopy c.2 p src k f (xCur s p) 256
    if cp.1 then (1, [vpn], cowRemap (frTake (rsvTake cp.2 p skip next) p f 1 1) p vpn f (xCur s p)) else (11, [], cp.2)
  | .refuse st => (st, [], c.2)

/-- UNSHARE of one page (R264). -/
def unsharePage (s : State) (p r i : Nat) : PageRes :=
  let c := cowWhole s p (rcVa r / 65536 + i)
  if c.1 = 1 then .ok c.2.2 c.2.1 [] else .fail c.2.2 (if c.1 = 12 then 11 else c.1)

/-- The chimney lines of a frame are written back and leave their slices (R273 step 3). -/
def frameFlush (s : State) (p f : Nat) : State :=
  (reqLines (65536 * f) 65536).foldl (fun s a =>
    let sl := homeSlice s.hbm.dead (256 * a)
    match lineFind (slGet s sl) p a with
    | none => s
    | some l =>
      let s1 := if l.dirty then
          chmBump (hbmWriteNow s ⟨256 * a, l.data, keySer s p l.k, l.pois, p, true⟩) sl (R.chmWbLines sl) 1
        else s
      slMod s1 sl (fun x => lineDrop x p a)) s

/-- The granules of a frame are read under one slot and written under another (R273 step 4). -/
def frameRecrypt (s : State) (p f k k' : Nat) : State :=
  (reqLines (65536 * f) 65536).foldl (fun s a =>
    let d := hbmReadLines s p k [a]
    match d.1 with
    | l :: _ => hbmWriteNow d.2 ⟨256 * a, l.data, keySer s p k', l.ue, p, true⟩
    | [] => d.2) (frameFlush s p f)

/-- The frame's key slot changes in its entry and the counts (R273, R275). -/
def frameKey (s : State) (p f k' : Nat) : State :=
  let e := frGet s p f
  let v := e.1.getD 0
  keyCount (keyCount (frPut e.2 p f (setBits v 27 1 k')) p (feK v) false) p k' true

/-- REKEY of one page (R273): first the ring's pages are shot down, then the frame is rewritten under CUR. -/
def rekeyPage (s : State) (p g r i : Nat) : PageRes :=
  let vpn := rcVa r / 65536 + i
  let w := walk s 0 p vpn false
  match w.1 with
  | .invalid => .fail s 5
  | .ue => .fail s 11
  | .leaf e _ _ =>
    let f := frGet w.2 p (leFrame e)
    let fe := f.1.getD 0
    let cur := xCur s p
    if f.1.isNone then .fail s 11
    else if feK fe = cur then .ok f.2 [] []
    else
      let ring := ringOf f.2 p vpn (feRefs fe)
      match (xlGet s p).rk with
      | none =>
        .wait (sdStart (xlMod ring.2 p (fun x => { x with rk := some ⟨g, leFrame e, false⟩ })) p .rekey ring.1 [])
      | some k =>
        if k.ring = g && k.ready then
          let s1 := frameRecrypt ring.2 p (leFrame e) (feK fe) cur
          let s2 := leavesMod (frameKey s1 p (leFrame e) cur) p ring.1 (fun e => setBits e 3 1 cur)
          .ok (xlMod s2 p (fun x => { x with rk := none })) [] []
        else .wait s

/-- A table frame under another slot than CUR is rewritten (R274): the parent's new entry, when it changes. -/
def tableRekey (s : State) (p ptr : Nat) : Option Nat × State :=
  let f := leFrame ptr
  let cur := xCur s p
  let e := frGet s p f
  let v := e.1.getD 0
  if feK v = cur then (none, e.2)
  else (some (setBits ptr 3 1 cur), frameKey (frameRecrypt e.2 p f (feK v) cur) p f cur)

/-- The L0 tables of an L1 table (R274). -/
def l1Rekey (s : State) (p frame n : Nat) : State :=
  match n with
  | 0 => s
  | n + 1 =>
    let pa := 65536 * frame + 16 * n
    let k := feK ((frGet s p frame).1.getD 0)
    let r := entRead s p k pa 16
    let s1 := match r.1 with
      | some e =>
        if leV e then
          (match tableRekey r.2.2 p e with
           | (some e', s2) => entWrite s2 p k pa 16 e'
           | (none, s2) => s2)
        else r.2.2
      | none => r.2.2
    l1Rekey s1 p frame n

/-- REKEY_META (R274): tables first, then the frame table. -/
def rekeyMetaAll (s : State) (p : Nat) : State :=
  let cur := xCur s p
  let s1 := (List.range 256).foldl (fun s i =>
    let root := rd s (R.xltRootI p i)
    if !leV root then s
    else
      let s2 := match tableRekey s p root with
        | (some r', s2) => wr s2 (R.xltRootI p i) r'
        | (none, s2) => s2
      l1Rekey s2 p (leFrame root) 4096) s
  let old := xFtK s1 p
  let n := ftFrames (xLo s1 p) (xHi s1 p)
  if old = cur then s1
  else
    let s2 := (List.range n).foldl (fun s i => frameRecrypt s p (xLo s p + i) old cur) s1
    let s3 := wrf s2 (R.xltKey p) 1 1 cur
    (List.range n).foldl (fun s i => frameKey s p (xLo s p + i) cur) s3

/-- One page of an operation by its opcode (R263). -/
def opPage (s : State) (p g r i : Nat) : PageRes :=
  match rcOp r with
  | 1 => mapPage s p r i
  | 2 => unmapPage s p r i
  | 3 => sharePage s p r i
  | 4 => protectPage s p r i
  | 5 => unsharePage s p r i
  | 6 => rekeyPage s p g r i
  | 7 => .ok { rekeyMetaAll s p with walkCache := s.walkCache.filter (fun e => e.part ≠ p) } [] []
  | _ => .fail s 2

/-- Is the update unit of a partition within an action other than the operation of ring `g` (R260, R261): a copy-on-write, or a REKEY page of
the other ring. Between two pages of an operation a waiting copy-on-write goes first; a REKEY page that has begun is not between pages. -/
def unitBusy (x : Xlt) (g : Nat) : Bool :=
  x.cowRun.isSome ||
    (match x.rk with
     | some k => decide (k.ring ≠ g)
     | none => (ringGet x g).page.isSome && !x.cow.isEmpty)

/-- The record at a ring's HEAD, translated for writing (R265). -/
def recordRead (s : State) (p g : Nat) : Option (List Byte) × State :=
  let va := opqVa s p g
  let w := agWalk s 0 p va
  match w.1 with
  | .leaf e _ _ => if leW e then (let d := vaGet w.2 p va 32 true; (d.1, d.2.2)) else (none, w.2)
  | _ => (none, w.2)

/-- The update unit performs the next page of the operation that a ring has begun (R264, R265). -/
def ringPage (s : State) (p g i : Nat) : State :=
  let rc := (ringGet (xlGet s p) g).cmd
  match opPage s p g rc i with
  | .wait s2 => xlMod s2 p (fun x => ringSet x g { ringGet x g with page := some i })
  | .fail s2 st => opFinish s2 p g st i (rcBatch rc)
  | .ok s2 pages frames =>
    let s3 := xlMod s2 p (fun x =>
      let q := ringGet x g
      ringSet x g { q with page := some (i + 1), pages := q.pages ++ pages, frames := q.frames ++ frames })
    if rcPages rc ≤ i + 1 || rcOp rc = 7 then opFinish s3 p g 1 (i + 1) (rcBatch rc)
    else if rcBatch rc then batchClose s3 p g
    else s3

/-- The update unit performs the next page of the operation at a ring's HEAD, when that operation has opcode `op` (R260–R265). A record of no
opcode is INVALID whatever `op`. -/
def ringOp (s : State) (p g op : Nat) : State :=
  let x := xlGet s p
  let r := ringGet x g
  let mine := fun (rc : Nat) => rcOp rc = op || rcOp rc = 0 || 7 < rcOp rc
  if 2 ≤ g || !prtFormed s p || !opqReady s p g || unitBusy x g then s
  else
    match r.page with
    | some i => if mine r.cmd then ringPage s p g i else s
    | none =>
      if x.last = g && opqReady s p (1 - g) then s
      else
        let rec0 := recordRead s p g
        match rec0.1 with
        | none => ringHalt (xltErr rec0.2 p 7 g 0 0 (opqVa s p g / 65536)) p g 2
        | some bs =>
          let rc := leVal bs
          if !mine rc then s
          else
            let i := if r.again then rcDone rc else 0
            let s1 := xlMod rec0.2 p (fun x => ringSet { x with last := g } g { ringGet x g with cmd := rc, again := false })
            if rcBad rc then opFinish s1 p g 2 0 false else ringPage s1 p g i

/-- A REKEY of the sweep that is skipped has not completed (R470): code 5 of `sweep`. -/
def sweepSkip (s : State) (p g : Nat) : State :=
  match tget s.parts p with
  | some x => if g = 1 && x.sweep = 4 then { s with parts := tput s.parts p { x with sweep := 5 } } else s
  | none => s

/-- XLT_RESUME (R265): a failed record is skipped, an interrupted one is carried out again from DONE_PAGES, a ring fault reads the record
again. -/
def xltResume (s : State) (p g : Nat) : State :=
  let r := ringGet (xlGet s p) g
  match r.halt with
  | 1 => wr (xlMod (sweepSkip s p g) p (fun x => ringSet x g .idle)) (R.xltOpqHeadG p g) ((rd s (R.xltOpqHeadG p g) + 1) % 2 ^ 32)
  | 2 => xlMod s p (fun x => ringSet x g { ringGet x g with halt := 0 })
  | 3 => xlMod s p (fun x => ringSet x g { RingRun.idle with again := true })
  | _ => s

/-! Copy-on-write of the hearths' writes (R270). -/

/-- A write of a hearth waits for copy-on-write. -/
def cowWait (s : State) (p h eng own vpn tile : Nat) : State :=
  let x := xlGet s p
  let same := fun (c : CowReq) => c.h = h && c.eng = eng && c.own = own && c.vpn = vpn
  let busy := match x.cowRun with | some r => r.req.vpn = vpn | none => false
  if x.cow.any same || busy then s else xlPut s p { x with cow := x.cow ++ [⟨h, eng, own, vpn, tile⟩] }

/-- A copy-on-write that is refused aborts the writer's task (R267, R270), by the STATUS that names the refusal: QUOTA, the uncorrectable-error
indication, or an unmapped page; a reserve ring that is empty, or that cannot be read, gives NO_FRAME. -/
def cowRefuse (s : State) (p st : Nat) (c : CowReq) : State :=
  let xlate := fun (kind : Nat) =>
    engFail (xltBump (xltErr s p kind 0 4 c.h c.vpn) p (R.xltFaults p) 1) c.h c.eng 4 4 c.own c.tile
  if st = 8 then engFail (xltErr s p 4 0 11 c.h c.vpn) c.h c.eng 6 11 c.own c.tile
  else if st = 9 || st = 12 then xlate 3
  else if st = 5 then xlate 1
  else engFail (xltErr s p 5 0 5 c.h c.vpn) c.h c.eng 5 5 c.own c.tile

/-- The writer's TLB entry of the page goes; the request is translated again (R270 step 4). -/
def cowAgain (s : State) (p : Nat) (c : CowReq) : State :=
  hmod s c.h (fun y => { y with tlb := y.tlb.filter (fun e => !(e.part = p && e.vpn = c.vpn)) })

/-- COPY_ON_WRITE: the update unit takes the oldest waiting write's page: upgraded in place, a frame taken for the copy, or the
task aborted at the quota or with no frame (R267, R270). The frame is DATA from then on, so that no other action takes it (R254). -/
def copyOnWrite (s : State) (p : Nat) : State :=
  let x := xlGet s p
  match x.cow, x.cowRun, x.rk with
  | c :: rest, none, none =>
    let t := cowFind (xlPut s p { x with cow := rest }) p c.vpn
    match t.1 with
    | .none => cowAgain t.2 p c
    | .upgraded => cowAgain t.2 p c
    | .copy src _ f skip next =>
      xlMod (frTake (rsvTake t.2 p skip next) p f 1 1) p (fun x => { x with cowRun := some ⟨c, src, f, xCur t.2 p⟩ })
    | .refuse st => cowRefuse t.2 p st c
  | _, _, _ => s

/-- COW_COPY_DONE: the copy ends; the leaf is remapped and the writer's page shot down (R270 steps 3 and 4). A copy that read an uncorrectable
word is not mapped: its frame is released and the writer's task aborts with ABORT_ECC_UE (DESIGN CHOICE, log 61). -/
def cowCopyDone (s : State) (p : Nat) : State :=
  let x := xlGet s p
  match x.cowRun with
  | none => s
  | some c =>
    let w := walk (xlPut s p { x with cowRun := none, cow := x.cow.filter (fun d => d ≠ c.req) }) 0 p c.req.vpn false
    let k := match w.1 with | .leaf e _ _ => leK e | _ => 0
    let cp := frameCopy w.2 p c.src k c.frame c.k 256
    if cp.1 then sdStart (cowRemap cp.2 p c.req.vpn c.frame c.k) p .cow [c.req.vpn] []
    else cowRefuse (sdStart (frRelease cp.2 p c.frame) p .cow [] [c.frame]) p 11 c.req

/-! The hearth's translation buffer (R255–R258). -/

/-- The parity of an entry (R255). The spec does not say over which bits it runs: all of them (DESIGN CHOICE, log 61). -/
def tlbParity (t : TlbEnt) : Bool :=
  let w := t.vpn + fieldAt 32 4 t.part + fieldAt 36 24 t.frame + fieldAt 60 8 t.gen + fieldAt 68 1 (b1 t.w) + fieldAt 69 1 (b1 t.cow) +
    fieldAt 70 1 t.k
  ((List.range 71).filter (fun i => bit w i)).length % 2 = 1

/-- An entry of a walk's result, with its parity bit. -/
def tlbMake (vpn part e : Nat) : TlbEnt :=
  let t : TlbEnt := ⟨vpn, part, leFrame e, leGen e, leW e, leCow e, leK e, false⟩
  { t with par := tlbParity t }

/-- A lookup: the entry, and the hearth with it most recently used. An entry with a parity error is discarded; the third component says
so (R255). -/
def tlbFind (x : Hearth) (p vpn : Nat) : Option TlbEnt × Hearth × Bool :=
  match x.tlb.find? (fun t => t.part = p && t.vpn = vpn) with
  | none => (none, x, false)
  | some t =>
    let others := x.tlb.filter (fun u => !(u.part = p && u.vpn = vpn))
    if tlbParity t = t.par then (some t, { x with tlb := t :: others }, false) else (none, { x with tlb := others }, true)

/-- A fill: the least recently used of 128 entries leaves. -/
def tlbFill (x : Hearth) (t : TlbEnt) : Hearth :=
  { x with tlb := (t :: x.tlb.filter (fun u => !(u.part = t.part && u.vpn = t.vpn))).take 128 }

/-- WALK_REQUEST (R256): a miss asks the walker on the hearth's base die; at most 4 pages of a hearth are under walk. -/
def walkAsk (s : State) (h p : Nat) (w : Walk) : State :=
  let x := hget s h
  if x.walks.any (fun v => v.vpn = w.vpn) || 4 ≤ x.walks.length then s
  else
    let s1 := xltBump (hput s h { x with walks := x.walks ++ [w] }) p (R.xltTlbMissH p h) 1
    { s1 with walks := tput s1.walks (h / 64) (tgetD s1.walks (h / 64) [] ++ [⟨h, p, w⟩]) }

/-- A walk fault: XLT_ERR_LOG and the engine's log record it and the task aborts (R175, R258). A hint that faults is dropped (R176). -/
def walkFault (s : State) (q : WalkReq) (kind code : Nat) : State :=
  if q.w.hint then
    hmod s q.h (fun x => { x with hints := x.hints.filter (fun n => !(n.flue = q.w.eng && n.va / 65536 % 2 ^ 32 = q.w.vpn)) })
  else
    let s1 := xltErr s q.part kind 0 code q.h q.w.vpn
    let s2 := if code = 4 then xltBump s1 q.part (R.xltFaults q.part) 1 else s1
    engFail s2 q.h q.w.eng (if code = 4 then 4 else 5) code q.w.own q.w.tile

/-- WALK_COMPLETE: walk `i` of the 64 in flight at the walker of base die `d` ends (R251, R256, R258): the TLB is filled, or the
fault reported. A walk that reads an entry held by an action waits (R261). -/
def walkComplete (s : State) (d i : Nat) : State :=
  let l := tgetD s.walks d []
  match lget l i with
  | none => s
  | some q =>
    let drop (s : State) : State :=
      let s1 := hmod s q.h (fun x => { x with walks := x.walks.filter (· ≠ q.w) })
      { s1 with walks := tput s1.walks d (ldel l i) }
    if 64 ≤ i then s
    else
      let w := walk s d q.part q.w.vpn true
      match w.1 with
      | .invalid => walkFault (drop w.2) q 1 4
      | .ue => walkFault (drop w.2) q 5 5
      | .leaf e _ _ =>
        if frameHeld s q.part (leFrame e) then s
        else if q.w.wr && !leW e && !leCow e then walkFault (drop w.2) q 2 4
        else
          drop (hmod w.2 q.h (fun x => tlbFill x (tlbMake q.w.vpn q.part e)))

/-- A lookup in a hearth's TLB, an entry with a parity error being counted (R255). -/
def tlbLook (s : State) (h p vpn : Nat) : Option TlbEnt × State :=
  match tlbFind (hget s h) p vpn with
  | (o, x, bad) => (o, if bad then xltBump (hput s h x) p (R.xltTlbPerr p) 1 else hput s h x)

/-- A page's translation leaves a hearth's TLB. -/
def tlbDrop (s : State) (h p vpn : Nat) : State := hmod s h (fun x => { x with tlb := x.tlb.filter (fun u => !(u.part = p && u.vpn = vpn)) })

/-- What a hearth's translation gives an engine (R255, R258): an entry, or a wait (a walk, a copy-on-write). -/
def hearthXlate (s : State) (h p va own eng tile : Nat) (write : Bool) : Option TlbEnt × State :=
  let vpn := va / 65536 % 2 ^ 32
  match tlbLook s h p vpn with
  | (none, s1) => (none, walkAsk s1 h p ⟨vpn, own, eng, tile, write, false⟩)
  | (some t, s1) =>
    if !write || t.w then (some t, s1)
    else if t.cow then (none, cowWait s1 p h eng own vpn tile)
    else (none, walkAsk (tlbDrop s1 h p vpn) h p ⟨vpn, own, eng, tile, write, false⟩)

/-- The translation of a hint of flue `f` (R176): an entry, or a wait for its walk. -/
def hintXlate (s : State) (h p va f : Nat) : Option TlbEnt × State :=
  let vpn := va / 65536 % 2 ^ 32
  match tlbLook s h p vpn with
  | (none, s1) => (none, walkAsk s1 h p ⟨vpn, 0, f, 0, false, true⟩)
  | (some t, s1) => (some t, s1)

end Sys2Proof.Machine
end

