-- ==== Sys2Proof/Machine/AttPlan.lean ====
section
/-!
DEFINITION. The ATTEND descriptor and length table (R320–R324), query blocks, jobs and costs (R328, R333), and the planner's work
(R332, R334–R336).
-/

namespace Sys2Proof.Machine

/-! ATTEND descriptor (R322). -/

def adPhase (d : Nat) : Nat := bits d 8 2
def adBf (d : Nat) : Bool := bit d 10
def adF4 (d : Nat) : Bool := bit d 11
def adCausal (d : Nat) : Bool := bit d 12
def adSr (d : Nat) : Bool := bit d 13
def adId (d : Nat) : Nat := bits d 16 16
def adIndex (d : Nat) : Nat := bits d 32 11
def adH (d : Nat) : Nat := bits d 48 4
def adG (d : Nat) : Nat := bits d 52 5
def adAppends (d : Nat) : Nat := bits d 64 7
def adWorkers (d : Nat) : Nat := bits d 71 11
def adMerges (d : Nat) : Nat := bits d 82 9
def adSeqs (d : Nat) : Nat := bits d 96 13
def adLayer (d : Nat) : Nat := bits d 112 16
def adLt (d : Nat) : Nat := bits d 128 48
def adQ (d : Nat) : Nat := bits d 192 48
def adO (d : Nat) : Nat := bits d 256 48
def adNew (d : Nat) : Nat := bits d 320 48
def adPart (d : Nat) : Nat := bits d 384 48
def adPages (d : Nat) : Nat := bits d 448 32
def adScale (d : Nat) : Nat := bits d 480 32
def adPace (d : Nat) : Nat := bits d 512 16

/-- The descriptor with PHASE and INDEX 0: what the tasks of a group share (R321). -/
def adGroup (d : Nat) : Nat := setBits (setBits d 8 2 0) 32 11 0

/-- What R320 and R322 refuse in an ATTEND descriptor's own fields. -/
def adBad (d : Nat) : Bool :=
  bits d 0 8 ≠ 7 || adPhase d = 3 || bits d 14 2 ≠ 0 || bits d 43 5 ≠ 0 || bits d 57 7 ≠ 0 || bits d 91 5 ≠ 0 ||
  bits d 109 3 ≠ 0 || bits d 176 16 ≠ 0 || bits d 240 16 ≠ 0 || bits d 304 16 ≠ 0 || bits d 368 16 ≠ 0 || bits d 432 16 ≠ 0 ||
  bits d 528 496 ≠ 0 || adH d = 0 || 8 < adH d || adG d = 0 || 16 < adG d || 64 < adAppends d || adWorkers d = 0 ||
  1024 < adWorkers d || 256 < adMerges d || adSeqs d = 0 || 4096 < adSeqs d || adLt d % 64 ≠ 0 || adQ d % 64 ≠ 0 ||
  adO d % 64 ≠ 0 || adNew d % 64 ≠ 0 || adPart d % 65536 ≠ 0 || adPace d = 0

/-- Query heads (R322). -/
def adHq (d : Nat) : Nat := adH d * adG d

/-- Bytes of a token row (R325). -/
def adTb (d : Nat) : Nat := if adF4 d then 64 * (2 * adH d + 1) else 256 * adH d

/-! Length-table entry (R323). -/

def ltKv (e : Nat) : Nat := bits e 0 48
def ltCap (e : Nat) : Nat := bits e 64 32
def ltKeys (e : Nat) : Nat := bits e 96 32
def ltRows (e : Nat) : Nat := bits e 128 16
def ltQidx (e : Nat) : Nat := bits e 160 32

/-- LT_BAD: an entry breaks R323, or has QROWS > KEYS (R335). -/
def ltBad (e : Nat) : Bool :=
  bits e 48 16 ≠ 0 || bits e 144 16 ≠ 0 || bits e 192 64 ≠ 0 || ltKv e % 65536 ≠ 0 || ltCap e % 128 ≠ 0 || ltCap e < 128 ||
  ltCap e < ltKeys e || 4096 < ltRows e || ltKeys e < ltRows e

/-- ROWS_DUP for two entries (R335). -/
def ltClash (a b : Nat) : Bool :=
  ltRows a ≠ 0 && ltRows b ≠ 0 &&
  (ltKv a = ltKv b || (ltQidx a < ltQidx b + ltRows b && ltQidx b < ltQidx a + ltRows a))

/-- The index of the first entry that clashes with an earlier one. -/
def ltDup (es : List Nat) : Option Nat :=
  (List.range es.length).find? (fun i => (es.take i).any (fun a => ltClash a (es.getD i 0)))

/-! Jobs (R328). -/

/-- Tokens of a query block. -/
def adQb (d : Nat) : Nat := 64 / adG d

/-- The query blocks of an entry. -/
def entJobs (d e : Nat) : List AttJob :=
  (List.range (cdiv (ltRows e) (adQb d))).map (fun b =>
    let t0 := b * adQb d
    let toks := min (adQb d) (ltRows e - t0)
    let p1 := ltKeys e - ltRows e + t0 + toks - 1
    ⟨ltKv e, ltCap e, ltKeys e, ltRows e, ltQidx e, t0, toks, if adCausal d then p1 + 1 else ltKeys e, none⟩)

/-- The jobs of a table, in table order and block order (R334). -/
def adJobs (d : Nat) (es : List Nat) : List AttJob := es.flatMap (entJobs d)

def jobSegs (j : AttJob) : Nat := cdiv j.kend 1024

/-- Rows of a job (R328). -/
def jobRows (d : Nat) (j : AttJob) : Nat := j.toks * adHq d

/-- Key tiles of segments `g0` up to `g1` (R328). -/
def segTiles (j : AttJob) (g0 g1 : Nat) : Nat := cdiv (min j.kend (1024 * g1)) 128 - 8 * g0

/-- Cost of a WORK unit (R333). -/
def unitCost (d : Nat) (j : AttJob) (g0 g1 : Nat) : Nat := 1024 + adPace d * segTiles j g0 g1

def jobCost (d : Nat) (j : AttJob) : Nat := unitCost d j 0 (jobSegs j)

/-! Units and their assignment (R334). -/

/-- Segments of the pieces of a job cut into `n`. -/
def pieceLens (segs n : Nat) : List Nat := (List.range n).map (fun i => segs / n + (if i < segs % n then 1 else 0))

/-- Pieces from their lengths. -/
def piecesFrom (d i : Nat) (j : AttJob) (g : Nat) (lens : List Nat) : List AttUnit :=
  match lens with
  | [] => []
  | n :: r => ⟨i, g, g + n, unitCost d j g (g + n)⟩ :: piecesFrom d i j (g + n) r

/-- The units of job `i`, and whether it is split. -/
def jobUnits (d limit i : Nat) (j : AttJob) : List AttUnit × Bool :=
  let segs := jobSegs j
  if limit < jobCost d j ∧ 1 < segs then
    let n := min segs (cdiv (jobCost d j) limit)
    (piecesFrom d i j 0 (pieceLens segs n), true)
  else ([⟨i, 0, segs, jobCost d j⟩], false)

/-- The jobs with their units, record indexes given to split jobs in order (R334, R336). -/
def planJobs (d limit i base : Nat) (js : List AttJob) : List AttJob × List AttUnit × Nat :=
  match js with
  | [] => ([], [], base)
  | j :: r =>
    let u := jobUnits d limit i j
    let rest := planJobs d limit (i + 1) (if u.2 then base + jobSegs j * jobRows d j else base) r
    ((if u.2 then { j with split := some base } else j) :: rest.1, u.1 ++ rest.2.1, rest.2.2)

/-- Inserts a unit in a list sorted by cost, descending, behind units of the same cost. -/
def unitInsert (u : AttUnit) (l : List AttUnit) : List AttUnit :=
  match l with
  | [] => [u]
  | v :: r => if u.cost ≤ v.cost then v :: unitInsert u r else u :: v :: r

/-- Stable sort by cost, descending. -/
def unitSort (l : List AttUnit) : List AttUnit := l.foldl (fun acc u => unitInsert u acc) []

/-- The lowest load's first index. -/
def leastLoad (l : List (Nat × List AttUnit)) (i best : Nat) (low : Nat) : Nat :=
  match l with
  | [] => best
  | x :: r => if x.1 < low then leastLoad r (i + 1) i x.1 else leastLoad r (i + 1) best low

/-- Assigns sorted units to WORK tasks. -/
def assign (us : List AttUnit) (loads : List (Nat × List AttUnit)) : List (Nat × List AttUnit) :=
  match us with
  | [] => loads
  | u :: r =>
    let i := leastLoad loads 0 0 ((loads.headD (0, [])).1)
    let x := loads.getD i (0, [])
    assign r (lset loads i (x.1 + u.cost, x.2 ++ [u]))

/-- The plan of a group, or the KIND of R341 and the entry that refuse it (R335). -/
def planMake (graph d : Nat) (es : List Nat) : Except (Nat × Nat) Plan :=
  let jobs := adJobs d es
  let qm := jobs.foldl (fun m j => max m j.toks) 0
  match lfind es ltBad, ltDup es with
  | some i, _ => .error (1, i)
  | none, some i => .error (2, i)
  | none, none =>
    if adPace d < adH d * max (if adBf d then 128 else 64) (17 * adG d * qm) then .error (7, 0)
    else
      let limit := cdiv (jobs.foldl (fun n j => n + jobCost d j) 0) (adWorkers d)
      let u := planJobs d limit 0 0 jobs
      let items := u.1.foldl (fun n j => if j.split.isSome then n + jobRows d j else n) 0
      let pages := cdiv (u.2.2 * 576) 65536
      if 16384 < u.2.1.length then .error (4, 0)
      else if adPages d < pages then .error (5, 0)
      else if items ≠ 0 ∧ adMerges d = 0 then .error (6, 0)
      else
        let w := assign (unitSort u.2.1) (List.replicate (adWorkers d) (0, []))
        .ok ⟨graph, adGroup d, es, u.1, w.map (·.2), pages, items, w.foldl (fun m x => max m x.1) 0, u.2.1.length,
             (u.1.filter (fun j => j.split.isSome)).length, adAppends d + adWorkers d + adMerges d⟩

/-! A task's share (R327, R333–R335). -/

/-- New tokens of the group in table order: each with its entry and its position in it (R327). -/
def newTokens (es : List Nat) : List (Nat × Nat) := es.flatMap (fun e => (List.range (ltRows e)).map (fun t => (e, t)))

/-- The tokens of APPEND task `a`. -/
def appendShare (d : Nat) (es : List Nat) (a : Nat) : List (Nat × Nat) :=
  if adAppends d = 0 then [] else ((newTokens es).zipIdx).filterMap (fun z => if z.2 % adAppends d = a then some z.1 else none)

/-- The merge items in job order and row order: job and row (R334). -/
def mergeItems (d : Nat) (js : List AttJob) : List (AttJob × Nat) :=
  (js.filter (fun j => j.split.isSome)).flatMap (fun j => (List.range (jobRows d j)).map (fun r => (j, r)))

/-- The items of MERGE task `i`. -/
def mergeShare (d : Nat) (pl : Plan) (i : Nat) : List (AttJob × Nat) :=
  if adMerges d = 0 then []
  else
    let lo := i * pl.items / adMerges d
    ((mergeItems d pl.jobs).drop lo).take ((i + 1) * pl.items / adMerges d - lo)

/-- TASK_CYCLES of a bound ATTEND task: its cost, or 1 when it has no work (R333, R335). -/
def attCycles (d : Nat) (pl : Plan) : Nat :=
  let c := match adPhase d with
    | 0 => let n := (appendShare d pl.ents (adIndex d)).length
           if n = 0 then 0 else 256 + 128 * n
    | 1 => ((pl.work.getD (adIndex d) []).map AttUnit.cost).sum
    | _ => let l := mergeShare d pl (adIndex d)
           if l.isEmpty then 0 else 512 + 6 * (l.map (fun x => jobSegs x.1)).sum
  if c = 0 then 1 else c

/-- The handles that binding an ATTEND task installs, as handle-list entries (R337): NEW, read-write, DONE_ACTION FREE. The rings that
flues and bellows fill are STREAM handles. -/
def attHandles (d : Nat) : List Nat :=
  let e (h mem mode rows : Nat) : Nat :=
    fieldAt 0 6 h + fieldAt 8 2 mem + fieldAt 10 1 1 + fieldAt 11 1 mode + fieldAt 12 2 2 + fieldAt 16 16 rows
  [e 56 1 1 (if adF4 d then 17408 else 32768), e 57 1 1 2048, e 58 1 0 4096, e 59 2 0 8192, e 60 2 0 4096, e 61 2 0 1024, e 62 2 0 64]

/-- ATN_ERR_LOG captures a planning failure (R341). -/
def atnErr (s : State) (p kind d task ent : Nat) : State :=
  logErr s (R.atnErrLog p) (R.atnErrCount p)
    (fieldAt 8 4 kind + fieldAt 12 2 (adPhase d) + fieldAt 16 16 (adId d) + fieldAt 32 16 task + fieldAt 48 13 ent)

/-- Counters of the ATN_ block. -/
def atnBump (s : State) (p : Nat) (r : Reg) (n : Nat) (w : Nat := 48) : State := bump s (bit (rd s (R.atnCtrl p)) 0) r n w

/-- The plan a group has, by graph and ATT_ID. -/
def planOf (g : GraphEng) (d : Nat) : Option (Nat × Plan) := g.plans.find? (fun e => adId e.2.desc = adId d)

/-- The lowest free plan slot of 4 (R332). -/
def planSlot (g : GraphEng) : Option Nat := (List.range 4).find? (fun i => (tget g.plans i).isNone)

/-- One task of a plan's group leaves flight; with the last, the plan is freed (R332). -/
def planLeave (g : GraphEng) (gid d : Nat) : GraphEng :=
  match planOf g d with
  | none => g
  | some (i, pl) =>
    if pl.graph ≠ gid then g
    else if pl.left ≤ 1 then { g with plans := tdel g.plans i }
    else { g with plans := tput g.plans i { pl with left := pl.left - 1 } }

/-- Is a task of the partition held for a plan slot (R332): it is ready, its group has no plan and none is being made, and no slot is free. -/
def planHeld (g : GraphEng) : Bool :=
  (planSlot g).isNone && g.planWait.any (fun w =>
    g.tasks.any (fun t => t.id = w.1 && t.place = .ready) && (planOf g w.2).isNone && g.planReq.all (fun r => adId r.desc ≠ adId w.2))

/-- The plans of a graph are freed: it failed, was cancelled or ended (R332, R335). -/
def plansDrop (g : GraphEng) (gid : Nat) : GraphEng :=
  { g with plans := g.plans.filter (fun e => e.2.graph ≠ gid), planReq := g.planReq.bind (fun r => if r.graph = gid then none else some r) }

end Sys2Proof.Machine
end

