-- ==== Sys2Proof/Machine/Approx.lean ====
section
/-!
DEFINITION. The approximating instructions of the vector engine (R117): their exact and special results, the bound that the rule states
for every other operand, and the free value that the bound leaves. The exact functions are computed in fixed point with more than 2^-70 of relative
accuracy; the bound is widened by 2^-40 of itself, which covers that error (log 8).
-/

namespace Sys2Proof.Machine

/-- ln 2 and log₂ e with 160 fraction bits, 2π with 300. -/
def cLn2 : Nat := 0xb17217f7d1cf79abc9e3b39803f2f6af40f34326
def cLog2e : Nat := 0x171547652b82fe1777d0ffda0d23a7d11d6aef551
def cTwoPi : Nat := 0x6487ed5110b4611a62633145c06e0e68948127044533e63a0105df531d89cd9128a5043cc71a

/-- ±m × 2^e × k with `q` fraction bits, rounded down. -/
def fixOf (neg : Bool) (m : Nat) (e : Int) (k : Nat) (q : Int) : Int :=
  let v : Nat := m * k
  let w : Int := if 0 ≤ e + q then ((v <<< (e + q).toNat : Nat) : Int) else ((v >>> (-(e + q)).toNat : Nat) : Int)
  if neg then -w else w

/-- The series of e^r for r with 160 fraction bits, `n` more terms. -/
def expSeries (n k r term acc : Nat) : Nat :=
  match n with
  | 0 => acc
  | n + 1 => let t := (term * r) >>> 160; expSeries n (k + 1) r (t / k) (acc + t / k)

/-- 2^z for z with 160 fraction bits. -/
def exp2Fix (z : Int) : FVal :=
  let f := (z % (2 ^ 160 : Nat)).toNat
  .fin false (expSeries 50 1 ((f * cLn2) >>> 160) (2 ^ 160) (2 ^ 160)) (z / (2 ^ 160 : Nat) - 160)

/-- A finite operand held to magnitudes of at most 1,024, beyond which e^x is below every bound or absorbed by 1. -/
def held (m : Nat) (e : Int) : Nat × Int := if flog2 m e ≥ 10 then (1, 10) else (m, e)

/-- e^(±m × 2^e). -/
def expOf (neg : Bool) (m : Nat) (e : Int) : FVal := let g := held m e; exp2Fix (fixOf neg g.1 g.2 cLog2e 0)

/-- The bits of log₂ of a mantissa in [1, 2) with 160 fraction bits, by repeated squaring. -/
def logBits (n mant acc : Nat) : Nat :=
  match n with
  | 0 => acc
  | n + 1 =>
    let sq := (mant * mant) >>> 160
    if 2 ^ 161 ≤ sq then logBits n (sq >>> 1) (2 * acc + 1) else logBits n sq (2 * acc)

/-- log₂(m × 2^e) for m > 0, with 80 fraction bits. -/
def log2Of (m : Nat) (e : Int) : FVal :=
  let l := Nat.log2 m
  let z : Int := ((l : Int) + e) * (2 ^ 80 : Nat) + (logBits 80 ((m <<< 160) >>> l) 0 : Nat)
  .fin (decide (z < 0)) z.natAbs (-80)

/-- The sine or cosine series with 160 fraction bits: `k` is the factor of the next term. -/
def trigSeries (n k : Nat) (sq term : Nat) (plus : Bool) (acc : Int) : Int :=
  match n with
  | 0 => acc
  | n + 1 =>
    let t := ((term * sq) >>> 160) / (k * (k + 1))
    trigSeries n (k + 2) sq t (!plus) (if plus then acc + t else acc - t)

/-- sin or cos of ±m × 2^e, reduced by 2π. -/
def trigOf (cos : Bool) (neg : Bool) (m : Nat) (e : Int) : FVal :=
  let r := ((fixOf false m e 1 300).toNat % cTwoPi) >>> 140
  let sq := (r * r) >>> 160
  let y := if cos then trigSeries 40 1 sq (2 ^ 160) false ((2 ^ 160 : Nat) : Int) else trigSeries 40 2 sq r false (r : Int)
  let z := if neg && !cos then -y else y
  .fin (decide (z < 0)) z.natAbs (-160)

/-- 1 + v and 1 − v. -/
def onePlus (v : FVal) : FVal := fvAdd (.fin false 1 0) v
def oneMinus (v : FVal) : FVal := fvAdd (.fin false 1 0) (fvNeg v)

/-- tanh: the series x − x³ ÷ 3 + 2x⁵ ÷ 15 below 2^-12, and (1 − e^−2x) ÷ (1 + e^−2x) above. -/
def tanhOf (neg : Bool) (m : Nat) (e : Int) : FVal :=
  let x : FVal := .fin false m e
  let y := if flog2 m e < -12 then
      let x2 := fvMul x x
      fvMul x (fvAdd (oneMinus (fvDiv x2 (.fin false 3 0))) (fvDiv (fvMul (fvMul x2 x2) (.fin false 2 0)) (.fin false 15 0)))
    else let u := expOf true m (e + 1); fvDiv (oneMinus u) (onePlus u)
  if neg then fvNeg y else y

/-- 1 ÷ (1 + e^−x). -/
def sigmoidOf (neg : Bool) (m : Nat) (e : Int) : FVal := fvDiv (.fin false 1 0) (onePlus (expOf (!neg) m e))

/-- The exact result of an approximating opcode for a finite operand that has no special result, to the accuracy above. -/
def exactOf (op : Nat) (neg : Bool) (m : Nat) (e : Int) : FVal :=
  match op with
  | 0x18 => exp2Fix (fixOf neg m e 1 160)
  | 0x19 => expOf neg m e
  | 0x1A => log2Of m e
  | 0x1B => fvDiv (.fin false 1 0) (.fin neg m e)
  | 0x1C => fvSqrt (fvDiv (.fin false 1 0) (.fin neg m e))
  | 0x1D => tanhOf neg m e
  | 0x1E => sigmoidOf neg m e
  | 0x1F => fvMul (.fin neg m e) (sigmoidOf neg m e)
  | 0x20 => trigOf false neg m e
  | _ => trigOf true neg m e

/-- `k` ulp of a result, with ulp(y) as the rule defines it; the widening by 2^-40 included. -/
def ulps (k : Nat) (y : FVal) : FVal :=
  match y with
  | .fin _ m e => .fin false (k * (2 ^ 40 + 1)) ((if m = 0 then -126 else max (flog2 m e) (-126)) - 23 - 40)
  | _ => .fin false 0 0

/-- An absolute bound of 2^e, widened alike. -/
def absBound (e : Int) : FVal := .fin false (2 ^ 40 + 1) (e - 40)

/-- The error that R117 allows an opcode at an operand whose exact result is `y`. -/
def approxBound (op : Nat) (x y : FVal) : FVal :=
  match op with
  | 0x18 => ulps 1 y
  | 0x19 => ulps 2 y
  | 0x1A => if 0 ≤ fvCmp x (.fin false 1 (-1)) ∧ fvCmp x (.fin false 2 0) ≤ 0 then absBound (-22) else ulps 1 y
  | 0x1B => ulps 1 y
  | 0x1C => ulps 1 y
  | 0x1D => ulps 2 y
  | 0x1E => ulps 2 y
  | 0x1F => ulps 3 y
  | _ =>
    let big : Bool := match x with | .fin _ m e => decide (fvCmp (.fin false m e) (.fin false 1 18) = 1) | _ => true
    if big then absBound (-16) else fvMax (ulps 2 y) (absBound (-24))

/-- The magnitude of a value. -/
def fvAbs (v : FVal) : FVal := match v with | .nan => .nan | .inf _ => .inf false | .fin _ m e => .fin false m e

/-- Does a finite code meet the bound, and is it no zero where the correctly rounded result is none: nothing is flushed (R47). -/
def approxMeets (op : Nat) (x y : FVal) (z : W32) : Bool :=
  match v32 z with
  | .fin n m e => (m ≠ 0 || (v32 (rnd32 y)).isZero) && fvCmp (fvAbs (fvAdd (.fin n m e) (fvNeg y))) (approxBound op x y) ≤ 0
  | _ => false

/-- A result within the bound: the free value where it meets the bound, the correctly rounded result otherwise. So the result is a number that
R117 allows and that nothing else constrains; it is no NaN (R46), and a subnormal is not flushed (R47). -/
def approxWithin (op : Nat) (x : W32) (neg : Bool) (m : Nat) (e : Int) : W32 :=
  let y := exactOf op neg m e
  if approxMeets op (.fin neg m e) y (Config.approx op x) then Config.approx op x else rnd32 y

/-- Special and exact results of the approximating instructions (R117); none where only a bound is stated. -/
def approxSpecial (op : Nat) (x : FVal) : Option FVal :=
  let one : FVal := .fin false 1 0
  let cmp (n : Bool) (m : Nat) (e : Int) : Int := fvCmp x (.fin n m e)
  match x with
  | .nan => some .nan
  | .inf neg =>
    if op = 0x18 ∨ op = 0x19 then some (if neg then .fin false 0 0 else .inf false)
    else if op = 0x1A ∨ op = 0x1C then some (if neg then .nan else if op = 0x1A then .inf false else .fin false 0 0)
    else if op = 0x1B then some (.fin neg 0 0)
    else if op = 0x1D then some (.fin neg 1 0)
    else if op = 0x1E then some (if neg then .fin false 0 0 else one)
    else if op = 0x1F then some (if neg then .fin true 0 0 else .inf false)
    else some .nan
  | .fin neg m e =>
    if op = 0x18 then
      if cmp false 128 0 ≥ 0 then some (.inf false)
      else if cmp true 150 0 ≤ 0 then some (.fin false 0 0)
      else
        let g := gridSplit m e 0
        if g.2.1 = 0 then some (.fin false 1 (if neg then -(g.1 : Int) else g.1)) else none
    else if op = 0x19 then
      if m = 0 then some one
      -- 88.72283 and 103.97208 as the decimal fractions that R117 prints
      else if !neg ∧ fvCmp (fvMul x (.fin false 100000 0)) (.fin false 8872283 0) = 1 then some (.inf false)
      else if neg ∧ fvCmp (fvMul x (.fin false 100000 0)) (.fin true 10397208 0) = -1 then some (.fin false 0 0)
      else none
    else if op = 0x1A then
      if m = 0 then some (.inf true)
      else if neg then some .nan
      else if m = 2 ^ Nat.log2 m then (let l := flog2 m e; some (.fin (decide (l < 0)) l.natAbs 0))
      else none
    else if op = 0x1B then
      if m = 0 then some (.inf neg)
      else if m = 2 ^ Nat.log2 m ∧ -149 ≤ -(flog2 m e) ∧ -(flog2 m e) ≤ 127 then some (.fin neg 1 (-(flog2 m e)))
      else none
    else if op = 0x1C then
      if m = 0 then some (.inf neg) else if neg then some .nan else none
    else if op = 0x1D ∨ op = 0x1F ∨ op = 0x20 then (if m = 0 then some (.fin neg 0 0) else none)
    else if op = 0x1E then (if m = 0 then some (.fin false 1 (-1)) else none)
    else if op = 0x21 then (if m = 0 then some one else none)
    else none

/-- An approximating instruction (R117): special results as stated, TANH odd bit for bit, otherwise a fixed function of the operand within its
bound. -/
def approx32 (op : Nat) (x : W32) : W32 :=
  match approxSpecial op (v32 x) with
  | some v => rnd32 v
  | none =>
    match v32 x with
    | .fin neg m e =>
      if op = 0x1D ∧ neg = true then approxWithin op (x &&& 0x7FFFFFFF#32) false m e ^^^ 0x80000000#32
      else approxWithin op x neg m e
    | _ => 0x7FC00000#32

end Sys2Proof.Machine
end

