-- ==== Sys2Proof/Machine/Matrix.lean ====
section
/-!
DEFINITION. Matrix arrays (03): the pass checks (R84), tile loads and swaps (R71–R76), rows and bubbles (R79, R87, R88) with the
arithmetic of R53–R57, preloads and drains (R80–R82), finished tiles (R83), load-time rejections (R78, R136).
-/

namespace Sys2Proof.Machine

def arr (x : Hearth) (a : Nat) : MxArray := if a = 0 then x.mx.a0 else x.mx.a1

def arrPut (x : Hearth) (a : Nat) (r : MxArray) : Hearth :=
  if a = 0 then { x with mx := { x.mx with a0 := r } } else { x with mx := { x.mx with a1 := r } }

def arrMod (s : State) (h a : Nat) (f : MxArray → MxArray) : State := hmod s h (fun x => arrPut x a (f (arr x a)))

def accSet (r : MxArray) (i : Nat) : AccSet := if i = 0 then r.set0 else r.set1

def accPut (r : MxArray) (i : Nat) (v : AccSet) : MxArray := if i = 0 then { r with set0 := v } else { r with set1 := v }

/-- MXA_ERR_LOG captures an error (R98). -/
def mxaErr (s : State) (h kind a ab seq row : Nat) : State :=
  logErr s (R.mxaErrLog h) (R.mxaErrCount h)
    (fieldAt 8 4 kind + fieldAt 12 1 a + fieldAt 16 8 ab + fieldAt 24 16 seq + fieldAt 40 13 row)

/-- The counters of the MXA_ block (R93) advance unless MXA_CTRL.CNT_FREEZE. -/
def mxaBump (s : State) (h : Nat) (r : Reg) : State := bump s (bit (rd s (R.mxaCtrl h)) 2) r 1

/-- The array detects an error and the task is aborted. -/
def mxaFail (s : State) (h own kind a ab seq row : Nat) : State := reqAbort (mxaErr s h kind a ab seq row) h own ab

/-- A read of the array fails its slot check (R140, R168). -/
def mxaEmpty (s : State) (h own kind a seq row : Nat) (ks : List Nat) : State :=
  let c := emptyCode s h own ks
  mxaFail c.2 h own kind a c.1 seq row

/-- K-rows of the whole pass (R84). -/
def psKExt (d : Nat) : Nat := 128 * (psKTiles d - 1) + psKLast d

/-- One past the last row that the stationary operand addresses, from its handle's base (R75, R84). -/
def psWEnd (d : Nat) : Nat :=
  if psWTrans d then psWOffset d + (psN d - 1) * psWStep d + lineRows (psWFmt d) (psKExt d)
  else psWOffset d + (psKExt d - 1) * psWStep d + lineRows (psWFmt d) (psN d)

def psAEnd (d : Nat) : Nat := psAOffset d + (psM d - 1) * psAStep d + lineRows (psAFmt d) (psKExt d)

/-- Bytes of the stationary operand's scales up to its extent (R76). -/
def psWsBytes (d : Nat) : Nat :=
  if psWTrans d then (psN d - 1) * (4 * psKTiles d) + cdiv (psKExt d) 32 else psN d * cdiv (psKExt d) 32

def psAsBytes (d : Nat) : Nat := (psM d - 1) * (4 * psKTiles d) + cdiv (psKExt d) 32

/-- Check 1 of R84 with the handle conditions of R134. -/
def psBoundOk (sp : Scratch) (own d : Nat) : Bool :=
  let src := psTileSrc d
  hdlOk sp own (psWHandle d) src false (psWEnd d) &&
  hdlOk sp own (psAHandle d) 1 false (psAEnd d) &&
  (!fmtBlocked (psWFmt d) || hdlOk sp own (psWsHandle d) src false (psWsOffset d + cdiv (psWsBytes d) 64)) &&
  (!fmtBlocked (psAFmt d) || hdlOk sp own (psAsHandle d) 1 false (psAsOffset d + cdiv (psAsBytes d) 64)) &&
  (!psMaskEn d || hdlOk sp own (psMaskHandle d) 1 false (psMaskOffset d + cdiv (psM d) 512)) &&
  hdlOk sp own (psOHandle d) 2 true (psOOffset d + 4 * psN d * psTiles d) &&
  (!psAccLoad d || hdlOk sp own (psLHandle d) 2 false (psLOffset d + 4 * psN d * psTiles d))

/-- The slots of the pass's outputs, and of its accumulator loads. -/
def psOKeys (sp : Scratch) (d : Nat) : List Nat :=
  slotKeys 2 (hdlRow sp (psOHandle d) (psOOffset d)) (4 * psN d * psTiles d)

def psLKeys (sp : Scratch) (d : Nat) : List Nat :=
  if psAccLoad d then slotKeys 2 (hdlRow sp (psLHandle d) (psLOffset d)) (4 * psN d * psTiles d) else []

/-- Tile-queue entries pushed or reserved (R118). -/
def tqUsed (v : Vector) : Nat := v.tq.length + v.resv.foldl (fun n r => n + r.count) 0

/-- The array asks the loader for its next tile (R72), once. -/
def ldRequest (x : Hearth) (a : Nat) : Hearth :=
  if x.mx.ldReq.contains a then x else { x with mx := { x.mx with ldReq := x.mx.ldReq ++ [a] } }

/-- A pass issues to its array (R84, R86). -/
def passIssue (s : State) (h own seq d : Nat) : State :=
  let x := hget s h
  let a := psArray d
  let r := arr x a
  let sp := x.spd
  if 2 ≤ r.q.length then mxaFail s h own 1 a 2 seq 0
  else if !psBoundOk sp own d then mxaFail s h own 6 a 10 seq 0
  else if !slotsFree sp (psOKeys sp d) then mxaFail s h own 3 a 2 seq 0
  else if !(psLKeys sp d).all (fun k => (slotGet sp k).full && !(slotGet sp k).rsv) then mxaEmpty s h own 8 a seq 0 (psLKeys sp d)
  else if psTqPush d && 8 < tqUsed x.vec + psTiles d then mxaFail s h own 7 a 2 seq 0
  else
    let sp1 := slotsMod sp (psOKeys sp d ++ psLKeys sp d) (slotReserve own)
    let v1 := if psTqPush d then { x.vec with resv := x.vec.resv ++ [⟨own, a, seq, psTiles d⟩] } else x.vec
    let x1 := arrPut { x with spd := sp1, vec := v1 } a { r with q := r.q ++ [⟨d, own, seq, 0, 0, 0, 0, false, 0, 0, 0⟩] }
    hput s h (if r.shadow.isNone && x.mx.ldBusy ≠ some a then ldRequest x1 a else x1)

/-! Tile loads and swaps. -/

/-- The load in progress ends: the tile load is counted (R93). -/
def ldFinish (s : State) (h : Nat) : State :=
  match (hget s h).mx.ldBusy with
  | none => s
  | some a => mxaBump (hmod s h (fun x => { x with mx := { x.mx with ldBusy := none, ldLeft := 0 } })) h (R.mxaTileLoadsA h a)

/-- A core cycle passes in a load of array `a`: it ends with its 32nd cycle (R71, R72). -/
def ldCycle (s : State) (h a : Nat) : State :=
  let mx := (hget s h).mx
  if mx.ldBusy ≠ some a then s
  else if mx.ldLeft ≤ 1 then ldFinish s h
  else hmod s h (fun x => { x with mx := { x.mx with ldLeft := x.mx.ldLeft - 1 } })

/-- The first pass of the queue with tiles still to load, and its index (R72, R87). -/
def ldNext (q : List Pass) : Option (Nat × Pass) :=
  match q with
  | [] => none
  | p :: r => if p.lj < psTiles p.desc then some (0, p) else (ldNext r).map (fun z => (z.1 + 1, z.2))

/-- Row ranges of the tile for block (j, t) in the tile's memory, from absolute row `b` (R75). -/
def tileSegs (d b t : Nat) : List (Nat × Nat) :=
  if psWTrans d then
    (List.range (psN d)).map (fun n =>
      (b + n * psWStep d + t * (128 * fmtWidth (psWFmt d) / 512), lineRows (psWFmt d) (psKRows d t)))
  else (List.range (psKRows d t)).map (fun k => (b + (128 * t + k) * psWStep d, lineRows (psWFmt d) (psN d)))

/-- The byte of the stationary scales for K-row `k` of the pass and column `n` (R76). -/
def wsByte (d k n : Nat) : Nat := if psWTrans d then n * (4 * psKTiles d) + k / 32 else psN d * (k / 32) + n

/-- Row ranges of the tile's scales (R76). -/
def tileScaleSegs (d b t : Nat) : List (Nat × Nat) :=
  if !fmtBlocked (psWFmt d) then []
  else
    let g := cdiv (psKRows d t) 32
    if psWTrans d then
      (List.range (psN d)).map (fun n => (b + wsByte d (128 * t) n / 64, 1))
    else (List.range g).flatMap (fun i =>
      [(b + wsByte d (128 * t + 32 * i) 0 / 64, cdiv (wsByte d (128 * t + 32 * i) 0 % 64 + psN d) 64)])

/-- One line's codes as a number. -/
def lineVal (sp : Scratch) (m row n : Nat) : Nat := leVal (rowsGet sp m row n)

/-- The element codes of the tile, k × N + n (R74, R75). -/
def tileCells (sp : Scratch) (m d b t : Nat) : List Nat :=
  let w := fmtWidth (psWFmt d)
  let lines := (tileSegs d b t).map (fun g => lineVal sp m g.1 g.2)
  if psWTrans d then (List.range (psKRows d t)).flatMap (fun k => lines.map (fun l => bits l (k * w) w))
  else lines.flatMap (fun l => (List.range (psN d)).map (fun n => bits l (n * w) w))

/-- A byte of a buffer that starts at absolute row `b`. -/
def bufByte (sp : Scratch) (m b i : Nat) : Nat := ((rowGet sp m (b + i / 64)).getD (i % 64) 0).toNat

/-- The scale codes of the tile, (k div 32) × N + n; 127 for an unblocked operand (R51). -/
def tileScales (sp : Scratch) (m d b t : Nat) : List Nat :=
  (List.range 4).flatMap (fun i => (List.range (psN d)).map (fun n =>
    if fmtBlocked (psWFmt d) && 32 * i < psKRows d t then bufByte sp m b (wsByte d (128 * t + 32 * i) n) else 127))

/-- The position after tile (j, t): the next K-tile, or the first of the next output tile (R79). -/
def nextTile (d j t : Nat) : Nat × Nat := if t + 1 < psKTiles d then (j, t + 1) else (j + 1, 0)

/-- The loader takes the first waiting request and loads the array's next tile into its shadow set (R71, R72). The tile's
slots are checked when the load begins (R85). The load lasts for 32 core cycles of the array (`ldCycle`); the next TILE_LOAD or the SWAP to the
tile, whose arrival says that it has ended, ends it too (log 3). -/
def tileLoad (s : State) (h : Nat) : State :=
  let s0 := ldFinish s h
  let x := hget s0 h
  match x.mx.ldReq with
  | [] => s
  | a :: rest =>
    let r := arr x a
    match ldNext r.q with
    | none => hput s0 h { x with mx := { x.mx with ldReq := rest } }
    | some (qi, p) =>
      let d := p.desc
      let m := psTileSrc d
      let b := hdlRow x.spd (psWHandle d) (psWOffset d)
      let bs := hdlRow x.spd (psWsHandle d) (psWsOffset d)
      let segs := tileSegs d b p.lt
      let ssegs := tileScaleSegs d bs p.lt
      if !slotsFull x.spd (segKeys m segs ++ segKeys m ssegs) then mxaEmpty s0 h p.own 5 a p.seq 0 (segKeys m segs ++ segKeys m ssegs)
      else
        match portRead s0 h p.own 0 m (segs ++ ssegs) with
        | (s1, false) => s1
        | (s1, true) =>
          let tile : WTile := ⟨p.own, p.seq, p.lj, p.lt, psWFmt d, psN d, psKRows d p.lt,
            tileCells x.spd m d b p.lt, tileScales x.spd m d bs p.lt⟩
          let nx := nextTile d p.lj p.lt
          hmod s1 h (fun x =>
            let r := arr x a
            let x1 := arrPut x a { r with shadow := some tile, q := lset r.q qi { p with lj := nx.1, lt := nx.2 } }
            { x1 with mx := { x1.mx with ldReq := rest, ldBusy := some a, ldLeft := 32 } })

/-- Is the shadow set's tile the one for the pass's current block. -/
def shadowFits (r : MxArray) (p : Pass) : Bool :=
  match r.shadow with
  | none => false
  | some w => w.own = p.own && w.seq = p.seq && w.j = p.j && w.t = p.t

/-- The sets are exchanged once the block before has entered and the load has finished; the next load is requested (R72,
R73). -/
def mxSwap (s : State) (h a : Nat) : State :=
  let r := arr (hget s h) a
  match r.q with
  | [] => s
  | p :: q =>
    if p.sw || !shadowFits r p then s
    else
      let s1 := if (hget s h).mx.ldBusy = some a then ldFinish s h else s
      hmod s1 h (fun x =>
        let r := arr x a
        let x1 := arrPut x a { r with active := r.shadow, shadow := none, q := { p with sw := true } :: q }
        if (ldNext ({ p with sw := true } :: q)).isSome then ldRequest x1 a else x1)

/-! Rows. -/

/-- Tree sum of 2^n addends in the fixed order of R54. -/
def pairSum (l : List W32) : List W32 :=
  match l with
  | a :: b :: r => add32 a b :: pairSum r
  | l => l

def treeSum (n : Nat) (l : List W32) : List W32 :=
  match n with
  | 0 => l
  | n + 1 => treeSum n (pairSum l)

/-- The 2^7 products of one column, padded with +0 beyond the K extent (R53, R54), summed. -/
def dotFloat (prods : List W32) : W32 := ((treeSum 7 (prods ++ List.replicate (128 - prods.length) 0)).head?).getD 0

/-- One product with its two block scales, rounded once (R49, R53, R55). -/
def product (fa fw ca cw a w : Nat) : W32 :=
  rnd32 (fvMul (fvMul (fmtVal fa a) (fmtVal fw w)) (fvMul (scaleVal ca) (scaleVal cw)))

/-- The row operand of one entry: element codes of the K-segment and its four block scales. -/
structure RowOp where
  codes : List Nat
  scales : List Nat
deriving DecidableEq, Repr

/-- The sum of one column for one row: an FP32 value, or an exact integer (R53–R56). -/
def colFloat (d : Nat) (o : RowOp) (w : WTile) (n : Nat) : W32 :=
  dotFloat ((List.range (min w.kv o.codes.length)).map (fun k =>
    product (psAFmt d) w.fmt (o.scales.getD (k / 32) 127) (w.scales.getD ((k / 32) * w.n + n) 127)
      (o.codes.getD k 0) (w.cells.getD (k * w.n + n) 0)))

def colInt (d : Nat) (o : RowOp) (w : WTile) (n : Nat) : Int :=
  (List.range (min w.kv o.codes.length)).foldl (fun acc k =>
    acc + sbits (o.codes.getD k 0) (fmtWidth (psAFmt d)) * sbits (w.cells.getD (k * w.n + n) 0) (fmtWidth w.fmt)) 0

/-- The set serves output tile `j` of pass `p` (R80). -/
def AccSet.serves (v : AccSet) (own seq j : Nat) : Bool := v.st ≠ 0 && v.own = own && v.seq = seq && v.j = j

/-- The accumulator row after one row entered (R54, R56, R57), and whether an INT32 addition saturated. -/
def accRow (d : Nat) (o : RowOp) (w : WTile) (row : Nat) (vals : Tbl Nat) (ns : List Nat) : Tbl Nat × Bool :=
  match ns with
  | [] => (vals, false)
  | n :: r =>
    let key := row * 256 + n
    let old := BitVec.ofNat 32 (tgetD vals key 0)
    let nv : W32 × Bool := if psFloat d then (add32 old (colFloat d o w n), false) else addSat32 old (colInt d o w n)
    let vals' := if nv.1 = 0 then tdel vals key else tput vals key nv.1.toNat
    let x := accRow d o w row vals' r
    (x.1, nv.2 || x.2)

/-- Row ranges that row `i`, K-segment `t` of the row operand reads, in activation memory, from absolute row `b` (R75, R85). -/
def rowSegs (d b i t : Nat) : List (Nat × Nat) :=
  [(b + i * psAStep d + t * (128 * fmtWidth (psAFmt d) / 512), lineRows (psAFmt d) (psKRows d t))]

def rowScaleByte (d i t : Nat) : Nat := i * (4 * psKTiles d) + 4 * t

def rowScaleSegs (d b i t : Nat) : List (Nat × Nat) :=
  if fmtBlocked (psAFmt d) then [(b + rowScaleByte d i t / 64, 1)] else []

/-- The row operand's codes and scales as read. -/
def rowOperand (sp : Scratch) (d b bs i t : Nat) : RowOp :=
  let w := fmtWidth (psAFmt d)
  let line := (rowSegs d b i t).foldl (fun _ g => lineVal sp 1 g.1 g.2) 0
  ⟨(List.range (psKRows d t)).map (fun k => bits line (k * w) w),
   (List.range 4).map (fun g =>
     if fmtBlocked (psAFmt d) && 32 * g < psKRows d t then bufByte sp 1 bs (rowScaleByte d i t + g) else 127)⟩

/-- The mask bit of row `i` (R77). -/
def maskBit (sp : Scratch) (d i : Nat) : Bool :=
  bit (bufByte sp 1 (hdlRow sp (psMaskHandle d) (psMaskOffset d)) (i / 8)) (i % 8)

def maskSegs (sp : Scratch) (d i : Nat) : List (Nat × Nat) :=
  if psMaskEn d then [(hdlRow sp (psMaskHandle d) (psMaskOffset d) + i / 512, 1)] else []

/-- The pass after the row that just entered or was masked: next row, next block, next output tile, or out of the queue;
with the finished output tile, if the row was its last (R79). -/
def rowAdvance (p : Pass) : Option Pass × Option OutTile :=
  let d := p.desc
  if p.i + 1 < psTileRows d p.j then (some { p with i := p.i + 1 }, none)
  else if p.t + 1 < psKTiles d then (some { p with i := 0, t := p.t + 1, sw := false }, none)
  else
    let out : OutTile := ⟨d, p.own, p.seq, p.j, p.j % 2, false⟩
    if p.j + 1 < psTiles d then (some { p with i := 0, t := 0, j := p.j + 1, sw := false }, some out)
    else (none, some out)

/-- The array after the row advanced. -/
def arrAdvance (r : MxArray) (p : Pass) (q : List Pass) : MxArray :=
  let nx := rowAdvance p
  let r1 := { r with q := (match nx.1 with | some p' => p' :: q | none => q) }
  match nx.2 with
  | none => r1
  | some o => { accPut r1 o.set { accSet r1 o.set with st := 3, left := psN p.desc } with outs := r1.outs ++ [o] }

/-- One core cycle passes in the array: passes age and a started drain moves on (R81, R87). -/
def arrTick (r : MxArray) : MxArray :=
  let tick (i : Nat) (v : AccSet) : AccSet :=
    if v.st = 3 ∧ r.outs.any (fun o => o.set = i && o.drain && v.serves o.own o.seq o.j) ∧ 0 < v.left then
      (if v.left = 1 then .free else { v with left := v.left - 1 })
    else v
  { r with q := r.q.map (fun p => { p with age := p.age + 1 }), set0 := tick 0 r.set0, set1 := tick 1 r.set1 }

/-- The bubble cause that applies in this cycle, if any (R88): the counter's register. An output tile may begin only when its set is free (R80): one
that another output tile still holds is counted as DRAIN. -/
def bubble (r : MxArray) (h a : Nat) : Option Reg :=
  match r.q with
  | [] => some (R.mxaBubGapA h a)
  | p :: _ =>
    let v := accSet r (p.j % 2)
    let mine := v.serves p.own p.seq p.j
    if !mine && v.st ≠ 0 then some (R.mxaBubDrainA h a)
    else if psAccLoad p.desc && !(mine && v.st = 2) then some (R.mxaBubAccldA h a)
    else if !p.sw then some (R.mxaBubLoadA h a)
    else if p.age < 7 then some (R.mxaBubFeedA h a)
    else none

/-- The task's INT32 saturation flag of the array is set (R92). -/
def setSat (x : Hearth) (own a : Nat) : Hearth :=
  let f (t : TaskRun) : TaskRun := if t.id = own then { t with sat := t.sat ||| (1 <<< a) } else t
  { x with cur := x.cur.map f, drain := x.drain.map f }

/-- The set as the next row of the pass finds it: accumulating for the pass's output tile, from +0 when the tile begins (R79). -/
def accBegin (v : AccSet) (p : Pass) : AccSet :=
  if v.st = 2 ∧ v.serves p.own p.seq p.j then v else ⟨2, p.own, p.seq, p.j, [], 0⟩

/-- A valid row enters and its accumulators are updated (R53–R57, R79, R87). -/
def rowEnter (s : State) (h a : Nat) (p : Pass) (q : List Pass) : State :=
  let x := hget s h
  let d := p.desc
  let row := 64 * p.j + p.i
  let b := hdlRow x.spd (psAHandle d) (psAOffset d)
  let bs := hdlRow x.spd (psAsHandle d) (psAsOffset d)
  let segs := rowSegs d b row p.t ++ rowScaleSegs d bs row p.t
  if !slotsFull x.spd (segKeys 1 segs) then mxaEmpty s h p.own 4 a p.seq row (segKeys 1 segs)
  else
    match portRead s h p.own (1 + a) 1 segs with
    | (s1, false) => s1
    | (s1, true) =>
      if injKind s1 1 h = some 3 then mxaFail (injFired s1) h p.own 2 a 5 p.seq row
      else
        let r := arr (hget s1 h) a
        let set := p.j % 2
        let v := accSet r set
        let v0 := accBegin v p
        match r.active with
        | none => s1
        | some w =>
          let y := accRow d (rowOperand x.spd d b bs row p.t) w p.i v0.vals (List.range w.n)
          let s2 := arrMod s1 h a (fun r => arrAdvance (accPut r set { v0 with vals := y.1 }) p q)
          mxaBump (if y.2 then hmod s2 h (fun x => setSat x p.own a) else s2) h (R.mxaValidRowsA h a)

/-- A core cycle passes in an array and its load: passes age, a drain and a load move on (R71, R81, R87). -/
def arrCycle (s : State) (h a : Nat) : State := arrMod (ldCycle s h a) h a arrTick

/-- A core cycle in which the array enters no row: a bubble counted under its first cause (R88). An array whose next row is ready waits for its
ROW_ENTRY. -/
def arrIdle (s : State) (h a : Nat) : State :=
  match bubble (arrTick (arr (hget s h) a)) h a with
  | some c => mxaBump (arrCycle s h a) h c
  | none => s

/-- ROW_ENTRY: in one core cycle the array enters a valid row or a bubble counted under its first cause (R87, R88). The
mask is read, and its slot must be FULL (R85). -/
def rowEntry (s : State) (h a : Nat) : State :=
  let s0 := arrCycle s h a
  let x := hget s0 h
  let r := arr x a
  match bubble r h a with
  | some c => mxaBump s0 h c
  | none =>
    match r.q with
    | [] => s0
    | p :: q =>
      let row := 64 * p.j + p.i
      let ms := maskSegs x.spd p.desc row
      if !slotsFull x.spd (segKeys 1 ms) then mxaEmpty s0 h p.own 4 a p.seq row (segKeys 1 ms)
      else
        match portRead s0 h p.own (1 + a) 1 ms with
        | (s1, false) => s1
        | (s1, true) =>
          if psMaskEn p.desc && !maskBit x.spd p.desc row then
            let v := accSet r (p.j % 2)
            let v0 := accBegin v p
            mxaBump (arrMod s1 h a (fun r => arrAdvance (accPut r (p.j % 2) v0) p q)) h (R.mxaBubMaskA h a)
          else rowEnter s1 h a p q

/-! Preloads and drains. -/

/-- The next output tile whose preload has not started, in output-tile order across passes (R81). -/
def preNext (q : List Pass) : Option (Nat × Pass) :=
  match q with
  | [] => none
  | p :: r => if psAccLoad p.desc && p.pre < psTiles p.desc then some (0, p) else (preNext r).map (fun z => (z.1 + 1, z.2))

/-- Values of 64 rows of N from L tile `j` (R82). -/
def loadTile (sp : Scratch) (d j : Nat) : Tbl Nat :=
  let b := hdlRow sp (psLHandle d) (psLOffset d + j * 4 * psN d)
  (List.range 64).foldl (fun t r =>
    let line := leVal (rowsGet sp 2 (b + r * psN d / 16) (cdiv (psN d) 16))
    (List.range (psN d)).foldl (fun t n =>
      let v := bits line (32 * n) 32
      if v = 0 then t else tput t (r * 256 + n) v) t) []

/-- An earlier output tile of the queue has still to take set `set`: a preload of the waiting pass leaves it the set. DEDUCED (log 12): R81 asks
that the set is free; a set that an output tile ahead in the order needs first is not free for a later one, or neither could go on (R80). -/
def setAwaited (q : List Pass) (qi set : Nat) : Bool :=
  match q with
  | p :: _ => qi ≠ 0 && (p.j % 2 = set || p.j + 1 < psTiles p.desc)
  | [] => false

/-- PRELOAD_START (R81): the pass is in the queue, its set is free, and no preload is in progress. -/
def preloadStart (s : State) (h a : Nat) : State :=
  let x := hget s h
  let r := arr x a
  match preNext r.q with
  | none => s
  | some (qi, p) =>
    let set := p.pre % 2
    if (accSet r set).st ≠ 0 ∨ r.set0.st = 1 ∨ r.set1.st = 1 ∨ setAwaited r.q qi set then s
    else
      let d := p.desc
      match portRead s h p.own 5 2 [(hdlRow x.spd (psLHandle d) (psLOffset d + p.pre * 4 * psN d), 4 * psN d)] with
      | (s1, false) => s1
      | (s1, true) =>
        arrMod s1 h a (fun r =>
          { accPut r set ⟨1, p.own, p.seq, p.pre, loadTile x.spd d p.pre, 0⟩ with q := lset r.q qi { p with pre := p.pre + 1 } })

/-- PRELOAD_DONE (R81): the output tile may begin. DESIGN CHOICE (log 64): between the end of its preload and the first row of its output tile, for
which R80 and R96 name no state, the set shows 2, accumulating. -/
def preloadDone (s : State) (h a : Nat) : State :=
  let f (v : AccSet) : AccSet := if v.st = 1 then { v with st := 2 } else v
  arrMod s h a (fun r => { r with set0 := f r.set0, set1 := f r.set1 })

/-- The rows that a drain writes: four per cycle for N cycles (R81, R82). -/
def drainRows (b n : Nat) (vals : Tbl Nat) : List (List WbRow) :=
  (List.range n).map (fun c => (List.range 4).map (fun i =>
    let row := 4 * c + i
    ⟨2, b + row, (List.range 16).flatMap (fun e =>
      let k := row * 16 + e
      leBytes 4 (tgetD vals ((k / n) * 256 + k % n) 0))⟩))

/-- The first finished output tile whose drain has not started. -/
def drainNext (l : List OutTile) : Option (Nat × OutTile) :=
  match l with
  | [] => none
  | o :: r => if o.drain then (drainNext r).map (fun z => (z.1 + 1, z.2)) else some (0, o)

/-- ACC_DRAIN (R81, R131): the tile's rows land through the bank write buffers; a full buffer aborts the task; a parity error
in a value read aborts it (R91). The other set's drain has ended. DESIGN CHOICE (log 64): the parity error that an injection shows to a drain is
found in the tile's first row, and the record's ROW is that row of the pass. -/
def accDrain (s : State) (h a : Nat) : State :=
  let x := hget s h
  let r := arr x a
  match drainNext r.outs with
  | none => s
  | some (i, o) =>
    if injKind s 1 h = some 3 then mxaFail (injFired s) h o.own 2 a 5 o.seq (64 * o.j)
    else
      let b := hdlRow x.spd (psOHandle o.desc) (psOOffset o.desc + o.j * 4 * psN o.desc)
      match wbStream x.spd (drainRows b (psN o.desc) (accSet r o.set).vals) with
      | (_, some w) => reqAbort (spdErr s h 6 2 6 (3 + a) (psOHandle o.desc) w.row 0) h o.own 6
      | (sp, none) =>
        let other := accSet r (1 - o.set)
        let ended := r.outs.any (fun p => p.set = 1 - o.set && p.drain && other.serves p.own p.seq p.j)
        hmod s h (fun x =>
          let r := arr x a
          let r1 := { r with outs := lset r.outs i { o with drain := true } }
          arrPut { x with spd := sp } a (if other.st = 3 && ended then accPut r1 (1 - o.set) .free else r1))

/-- The tile-queue reference of a finished output tile (R118, R126). -/
def tqEntry (sp : Scratch) (o : OutTile) (a : Nat) : TqEntry :=
  ⟨o.own, psOHandle o.desc, hdlRow sp (psOHandle o.desc) (psOOffset o.desc + o.j * 4 * psN o.desc),
   psOOffset o.desc + o.j * 4 * psN o.desc, (if psN o.desc = 64 then 0 else if psN o.desc = 128 then 1 else 2),
   !psFloat o.desc, a, psTileRows o.desc o.j, o.seq % 65536, o.j % 8⟩

/-- One reservation of a pass becomes an entry (R118). -/
def tqTake (l : List TqResv) (own a seq : Nat) : List TqResv :=
  match l with
  | [] => []
  | r :: t =>
    if r.own = own ∧ r.array = a ∧ r.seq = seq then (if r.count ≤ 1 then t else { r with count := r.count - 1 } :: t)
    else r :: tqTake t own a seq

/-- OUTPUT_TILE_FULL (R83): the last write of the oldest draining tile lands, its slots become FULL, its set is free, and
with TQ_PUSH a reference is pushed. A pass with its last tile FULL is complete. -/
def outputTileFull (s : State) (h a : Nat) : State :=
  let x := hget s h
  let r := arr x a
  match r.outs with
  | [] => s
  | o :: rest =>
    if !o.drain then s
    else
      let d := o.desc
      let b := hdlRow x.spd (psOHandle d) (psOOffset d + o.j * 4 * psN d)
      let sp1 := slotsMod x.spd (slotKeys 2 b (4 * psN d)) slotFill
      let last := o.j + 1 = psTiles d
      let sp2 := if last then slotsMod sp1 (psLKeys x.spd d) slotRelease else sp1
      let v := accSet r o.set
      let r1 := { r with outs := rest }
      let r2 := if v.st = 3 ∧ v.serves o.own o.seq o.j then accPut r1 o.set .free else r1
      let v1 := if psTqPush d then
          { x.vec with tq := x.vec.tq ++ [tqEntry x.spd o a], resv := tqTake x.vec.resv o.own a o.seq }
        else x.vec
      let s1 := hput s h (arrPut { x with spd := sp2, vec := v1 } a r2)
      let s2 := if psTqPush d then bump s1 (bit (rd s1 (R.vecCtrl h)) 0) (R.vecTqPushes h) 1 else s1
      if last then mxaBump s2 h (R.mxaPassesA h a) else s2

/-- The operands may pair (R51, R52): of one class, or INT4 with a blocked format. DEDUCED (log 57): R51 treats an INT4 operand that is paired with
a blocked operand as blocked, so as I4B, which is of the float class; R52's rejection of a float class with an integer class then concerns the
other pairs. -/
def psPair (a w : Nat) : Bool :=
  fmtFloat a = fmtFloat w || (a = 6 && fmtBlocked w) || (fmtBlocked a && w = 6)

/-- Load-time rejection of a pass (R40, R52, R78, R136): `en` holds the array enables. -/
def passReject (d en : Nat) : Bool :=
  let op (f : Nat) : Bool := f ≤ 10 && f ≠ 0 && f ≠ 7
  bits d 0 8 ≠ 1 || psReserved d || psM d = 0 || psM d > 4096 || psKTiles d = 0 || psKTiles d > 256 ||
  psKLast d = 0 || psKLast d > 128 || !op (psAFmt d) || !op (psWFmt d) || !psPair (psAFmt d) (psWFmt d) ||
  (psTqPush d && psM d > 512) || psOOffset d % 16 ≠ 0 || psLOffset d % 16 ≠ 0 || !bit en (psArray d) ||
  (psAccLoad d && psOHandle d = psLHandle d &&
    psOOffset d < psLOffset d + 4 * psN d * psTiles d && psLOffset d < psOOffset d + 4 * psN d * psTiles d)

/-- What an abort does to an array (R90): rows, preloads, drains and the task's passes go; both sets become free. -/
def arrAbort (owns : List Nat) (r : MxArray) : MxArray :=
  { r with active := none, shadow := none, q := r.q.filter (fun p => !owns.contains p.own), set0 := .free, set1 := .free,
           outs := r.outs.filter (fun o => !owns.contains o.own) }

end Sys2Proof.Machine
end

