-- ==== Sys2Proof/Machine/Ember.lean ====
section
/-!
DEFINITION. The vector engine and ember programs (04): invocations and their checks (R100–R107), instruction meanings (R109,
R113–R117), conversions with their flags and draws (R63–R67), the issue rule (R112), the tile queue (R118), load-time
rejections (R105, R110, R111).
-/

namespace Sys2Proof.Machine

def vecErr (s : State) (h kind ab seq pc row : Nat) : State :=
  logErr s (R.vecErrLog h) (R.vecErrCount h)
    (fieldAt 8 4 kind + fieldAt 16 8 ab + fieldAt 24 16 seq + fieldAt 40 5 pc + fieldAt 45 6 row)

def vecFail (s : State) (h own kind ab seq : Nat) : State := reqAbort (vecErr s h kind ab seq 0 0) h own ab

def vecBump (s : State) (h : Nat) (r : Reg) (n : Nat) : State := bump s (bit (rd s (R.vecCtrl h)) 0) r n

def vmod (s : State) (h : Nat) (f : Vector → Vector) : State := hmod s h (fun x => { x with vec := f x.vec })

/-- An invocation issues (R107). -/
def emberIssue (s : State) (h own seq d : Nat) : State :=
  if 2 ≤ (hget s h).vec.q.length then vecFail s h own 1 2 seq
  else vmod s h (fun v => { v with q := v.q ++ [⟨d, own, seq, ivRows d, none⟩] })

/-! Programs. -/

/-- The length of a program (R111): one more than the index of its last nonzero word. -/
def progLen (ws : List Nat) : Nat := (ws.reverse.dropWhile (fun w => w = 0)).length

/-- The words of a program-store slot. -/
def progOf (v : Vector) (slot : Nat) : List Nat := (List.range 32).map (fun i => tgetD v.prog (slot * 32 + i) 0)

/-- Latency L of an opcode (R109). -/
def opLat (op : Nat) : Nat :=
  if op = 0x01 ∨ op = 0x02 then 8
  else if op = 0x13 ∨ op = 0x14 then 14
  else if 0x18 ≤ op ∧ op ≤ 0x21 then 10
  else if op = 0x28 ∨ op = 0x29 then 12
  else if op = 0x31 then 6
  else 4

/-- How many of SA, SB, SC an opcode reads as sources (R109); none for a reserved opcode. -/
def opArity (op : Nat) : Option Nat :=
  if op ≤ 1 then some 0
  else if op = 2 then some 1
  else if op = 0x0B ∨ op = 0x11 then some 3
  else if op = 0x0E ∨ op = 0x0F ∨ op = 0x12 ∨ op = 0x14 then some 1
  else if 0x08 ≤ op ∧ op ≤ 0x13 then some 2
  else if 0x18 ≤ op ∧ op ≤ 0x21 then some 1
  else if op = 0x28 ∨ op = 0x29 ∨ op = 0x30 ∨ op = 0x31 then some 1
  else if op = 0x32 then some 2
  else none

/-- The opcodes that allow W = 1, and those that allow S = 1 (R109). -/
def opW (op : Nat) : Bool := 0x08 ≤ op && op ≤ 0x12
def opS (op : Nat) : Bool := (0x08 ≤ op && op ≤ 0x14) || (0x18 ≤ op && op ≤ 0x21)

/-- Register type of a stream as an LD gives it (R110); `tq` is the type taken for a tile-queue stream. With `tq` 16 no invocation gives the
streams, and the type 16 stands for any. -/
def streamTy (w tq : Nat) : Nat := if tq = 16 then 16 else if stSrc w then tq else stFmt w

/-- The source type: an element register's type when some earlier instruction wrote it, FP32 otherwise (R110, R111). -/
def srcTy (ty : Tbl Nat) (c : Nat) : Option Nat := if c < 16 then tget ty c else if c ≤ 0x1D then some 0 else none

/-- One instruction against R111, with the register types so far; the types after it. With `tq` 16 the program is checked by itself, before any
invocation: what the streams and VL decide is left out. -/
def instrOk (d tq w : Nat) (ty : Tbl Nat) : Option (Tbl Nat) :=
  let op := inOp w
  let x := inX w
  match opArity op with
  | none => none
  | some n =>
    let srcs := ([inSa w, inSb w, inSc w]).take n
    let unused := ([inSa w, inSb w, inSc w]).drop n
    let unusedOk := unused.all (fun c => c = 0) || (op = 0x31 && inSb w = 0 && inSc w < 16)
    let known := srcs.all (fun c => (srcTy ty c).isSome)
    let constW := !inW w || srcs.all (fun c => c < 16)
    -- S = 1 where the table of R109 says No: DEDUCED (log 13) from that column, R111 does not list it; a NOP, whose column is a dash, may have it
    let scal := !inS w || op = 0 || (opS op && inVd w < 4 && srcs.all (fun c => 16 ≤ c && c ≠ 0x1C))
    let tyOf (c : Nat) : Nat := (srcTy ty c).getD 15
    let is (c t : Nat) : Bool := tyOf c = t || tyOf c = 16
    let free : Bool := tq = 16
    if !unusedOk || !known || (inW w && !opW op) || !constW || !scal then none
    else if op = 0x00 then (if x = 0 then some ty else none)
    else if op = 0x01 then
      let st := ivS d (bits x 0 2)
      if 4 ≤ x || (!free && (!stEn st || (stSrc st && tq = 15))) then none
      else if !free && stKind st && ivVl d % 32 ≠ 0 then none
      else if !free && fmtWidth (stFmt st) = 4 && ivVl d % 2 ≠ 0 then none
      else some (tput ty (inVd w) (streamTy st tq))
    else if op = 0x02 then
      let st := ivS d x
      if (x ≠ 4 && x ≠ 5) || (!free && (!stEn st || tyOf (inSa w) ≠ stFmt st)) then none
      else if !free && stKind st && ivVl d % 32 ≠ 0 then none
      else if !free && fmtWidth (stFmt st) = 4 && ivVl d % 2 ≠ 0 then none
      else some ty
    else if op = 0x28 ∨ op = 0x29 then
      (if x = 0 && inVd w < 4 && is (inSa w) 0 then some ty else none)
    else if op = 0x30 then
      (if bits x 0 4 ≤ 7 && (tyOf (inSa w) ≤ 7 || is (inSa w) 16) then some (tput ty (inVd w) (bits x 0 4)) else none)
    else if op = 0x31 then
      (if 8 ≤ bits x 0 4 && bits x 0 4 ≤ 10 && is (inSa w) 0 && (free || ivVl d % 32 = 0) then
        some (tput (tput ty (inVd w) (fmtElem (bits x 0 4))) (inSc w) 11) else none)
    else if op = 0x32 then
      (if 8 ≤ x && x ≤ 10 && is (inSa w) (fmtElem x) && is (inSb w) 11 && (free || ivVl d % 32 = 0) then
        some (tput ty (inVd w) 0) else none)
    else
      let want := if inW w then 2 else 0
      if !srcs.all (fun c => is c want) then none
      else if op = 0x10 && 3 < x then none
      else if op ≠ 0x10 && x ≠ 0 then none
      else some (if inS w then ty else tput ty (inVd w) want)

/-- A program against R111 with one reading of its tile-queue stream. -/
def progOk (d tq : Nat) (ws : List Nat) (ty : Tbl Nat) : Bool :=
  match ws with
  | [] => true
  | w :: r =>
    match instrOk d tq w ty with
    | none => false
    | some ty' => progOk d tq r ty'

/-- Has the invocation a tile-queue stream. -/
def ivTq (d : Nat) : Bool := (List.range 4).any (fun i => stEn (ivS d i) && stSrc (ivS d i))

/-- The program is valid with its tile-queue stream as FP32 (0) or INT32 (7) (R110). -/
def progFor (d : Nat) (ws : List Nat) (tq : Nat) : Bool := progOk d tq (ws.take (progLen ws)) []

/-- The programs of a program table, whether an invocation names them or not, are none that R40 or R111 rejects by itself. -/
def tableOk (progs : List Nat) (nprog : Nat) : Bool :=
  (List.range nprog).all (fun i => progFor 0 ((progs.drop (32 * i)).take 32) 16)

/-- Bytes of one row of a stream (R102). -/
def stRowBytes (d w : Nat) : Nat := if stKind w then cdiv (ivCols d) 32 else cdiv (ivCols d * fmtWidth (stFmt w)) 8

/-- Load-time rejection of an invocation with its program (R40, R101, R102, R105, R111, R136, R290). A ROW_STRIDE below the minimum of R102 is
rejected with the rest: DEDUCED (log 64), R102 says only that it must not be. -/
def invReject (d : Nat) (progs : List Nat) (nprog : Nat) : Bool :=
  let ws := (progs.drop (32 * ivProg d)).take 32
  let en (i : Nat) : Bool := stEn (ivS d i)
  bits d 0 8 ≠ 2 || ivReserved d || ivVl d = 0 || ivVl d > 2048 || (!ivTq d && (ivRows d = 0 || ivRows d > 64)) || ivCols d = 0 ||
  ivVl d > ivCols d || nprog ≤ ivProg d ||
  (List.range 6).any (fun i => en i && !stSrc (ivS d i) &&
    ((!stKind (ivS d i) && bits (ivS d i) 3 4 > 10) || stStride (ivS d i) < cdiv (stRowBytes d (ivS d i)) 64)) ||
  (en 4 && (stSrc (ivS d 4) || stOffset (ivS d 4) % 16 ≠ 0)) ||
  (en 5 && (stSrc (ivS d 5) || stOffset (ivS d 5) % 16 ≠ 0)) ||
  1 < ((List.range 4).filter (fun i => en i && stSrc (ivS d i))).length ||
  (if ivTq d then !(progFor d ws 0) && !(progFor d ws 7) else !(progFor d ws 15))

/-! Invocation start and end. -/

/-- The task run of a hearth with this id, running or draining. -/
def runOf (x : Hearth) (own : Nat) : Option TaskRun :=
  match x.cur with
  | some t => if t.id = own then some t else (x.drain.bind (fun u => if u.id = own then some u else none))
  | none => x.drain.bind (fun u => if u.id = own then some u else none)

/-- The engine state that a task's first invocation finds (R100). -/
def vecFirst (x : Hearth) (own : Nat) : Vector :=
  let v := x.vec
  if v.stateOwn = own + 1 then v
  else
    let ps := ((runOf x own).map TaskRun.progs).getD []
    { v with e := [], a := [], draw := 0, stateOwn := own + 1, eW := [], aW := [],
             prog := (ps.zipIdx).filterMap (fun z => if z.1 = 0 then none else some (z.2, z.1)) }

/-- Row ranges of a handle stream for `rows` rows (R102). -/
def stSegs (sp : Scratch) (d w rows : Nat) : List (Nat × Nat) :=
  (List.range rows).map (fun r => (hdlRow sp (stHandle w) (stOffset w + r * stStride w), cdiv (stRowBytes d w) 64))

def stKeys (sp : Scratch) (d w rows : Nat) : List Nat := segKeys (hdMem (hdl sp (stHandle w))) (stSegs sp d w rows)

/-- One past the last row of a stream from its handle's base. -/
def stEnd (d w rows : Nat) : Nat := stOffset w + (rows - 1) * stStride w + cdiv (stRowBytes d w) 64

/-- The output slots of an invocation's stream. -/
def outKeys (sp : Scratch) (v : Invoc) (i : Nat) : List Nat :=
  if stEn (ivS v.desc i) then stKeys sp v.desc (ivS v.desc i) v.rows else []

/-- ACC_INIT (R101) on the 64 entries of each accumulator. -/
def accInit (d : Nat) (a : Tbl Nat) : Tbl Nat :=
  (List.range 4).foldl (fun a i =>
    let c := ivAccInit d i
    if c = 0 then a
    else
      let v := if c = 1 then 0x80000000 else if c = 2 then 0xFF800000 else 0x7F800000
      (List.range 64).foldl (fun a r => tput a (i * 64 + r) v) a) a

/-- INVOCATION_START (R100, R106, R118). -/
def invStart (s : State) (h : Nat) : State :=
  let x := hget s h
  let v0 := x.vec
  if v0.running then s
  else
    match v0.q with
    | [] => s
    | iv :: q =>
      let d := iv.desc
      let sp := x.spd
      let tq := ivTq d
      let rows := if tq then ((v0.tq.head?).map TqEntry.valid).getD 1 else ivRows d
      let iv1 : Invoc := { iv with rows := rows, tq := if tq then v0.tq.head? else none }
      let ins := (List.range 4).filter (fun i => stEn (ivS d i) && !stSrc (ivS d i))
      let outs := [4, 5].filter (fun i => stEn (ivS d i))
      let okH (wr : Bool) (i : Nat) : Bool := hdlOk sp iv.own (stHandle (ivS d i)) 3 wr (stEnd d (ivS d i) rows)
      let ws := ((((runOf x iv.own).map TaskRun.progs).getD []).drop (32 * ivProg d)).take 32
      let bad5 : Bool := match v0.tq with
        | [] => false
        | e :: _ => e.own ≠ iv.own || !(progFor d ws (if e.int then 7 else 0)) ||
            ivCols d > (if e.ncode = 0 then 64 else if e.ncode = 1 then 128 else 256)
      if !(ins.all (okH false) && outs.all (okH true)) then vecFail s h iv.own 5 10 iv.seq
      else if !slotsFree sp (outs.flatMap (outKeys sp iv1)) then vecFail s h iv.own 4 2 iv.seq
      else if !ins.all (fun i => slotsFull sp (stKeys sp d (ivS d i) rows)) then
        let c := emptyCode s h iv.own (ins.flatMap (fun i => stKeys sp d (ivS d i) rows))
        vecFail c.2 h iv.own 3 c.1 iv.seq
      else if tq && v0.tq.isEmpty then vecFail s h iv.own 2 1 iv.seq
      else if tq && bad5 then vecFail s h iv.own 7 10 iv.seq
      else
        let v1 := vecFirst x iv.own
        let v2 := { v1 with q := iv1 :: q, running := true, r := 0, seg := 0, pc := 0, vl := ivSegVl d 0, stored := [],
                            a := accInit d v1.a, clk := max v1.clk (coreNow s) }
        hput s h { x with vec := v2, spd := slotsMod sp (outs.flatMap (outKeys sp iv1)) (slotReserve iv.own) }

/-- INVOCATION_END (R103, R118): after the last chunk, or at once for an empty program. -/
def invEnd (s : State) (h : Nat) : State :=
  let x := hget s h
  let v := x.vec
  match v.running, v.q with
  | true, iv :: q =>
    if progLen (progOf v (ivProg iv.desc)) ≠ 0 ∧ v.r < iv.rows then s
    else
      let idle := ([4, 5].filter (fun i => !v.stored.contains i)).flatMap (outKeys x.spd iv)
      let x1 := { x with spd := slotsMod x.spd idle slotRelease }
      let pop := iv.tq.isSome
      let v1 := { v with running := false, q := q, tq := if pop then v.tq.drop 1 else v.tq, r := 0, seg := 0, pc := 0 }
      let x2 := { x1 with vec := v1 }
      let x3 := match iv.tq with
        | some e =>
          if ivTqRelease iv.desc then
            (emptySlots x2 (slotKeys 2 e.row (4 * (if e.ncode = 0 then 64 else if e.ncode = 1 then 128 else 256))) slotEmpty false).1
          else x2
        | none => x2
      let s1 := vecBump (hput s h x3) h (R.vecInvocations h) 1
      if pop then vecBump s1 h (R.vecTqPops h) 1 else s1
  | _, _ => s

/-- INVOCATION_OUTPUT_FULL (R137): the oldest invocation whose last store has issued has its output slots FULL. -/
def invOutFull (s : State) (h : Nat) : State :=
  let x := hget s h
  match x.vec.outs with
  | [] => s
  | o :: r => hput s h { x with vec := { x.vec with outs := r }, spd := slotsMod x.spd o.slots slotFill }

/-! Instruction meanings. -/

/-- An integer as FP32 (COL_IDX, ROW_IDX). -/
def nat32 (n : Nat) : Nat := (rnd32 (.fin false n 0)).toNat

/-- The code of source `c` for element `i` (R104, R108). -/
def srcCode (v : Vector) (d c i : Nat) : Nat :=
  if c < 16 then tgetD (tgetD v.e c ⟨0, []⟩).v i 0
  else if c < 0x18 then ivC d (c - 0x10)
  else if c < 0x1C then tgetD v.a ((c - 0x18) * 64 + v.r) 0
  else if c = 0x1C then nat32 (v.seg * ivVl d + i)
  else nat32 v.r

/-- The type of source `c`. -/
def srcType (v : Vector) (c : Nat) : Nat := if c < 16 then (tgetD v.e c ⟨0, []⟩).ty else 0

/-- Width's layout, canonical NaN and code of 1.0. -/
def wFmt (w : Bool) : FFmt := if w then bf16 else fp32
def wNaN (w : Bool) : Nat := if w then 0x7FC0 else 0x7FC00000
def wOne (w : Bool) : Nat := if w then 0x3F80 else 0x3F800000

/-- A NaN code becomes the canonical NaN (R46, R114); every other code is kept. -/
def canonCode (w : Bool) (c : Nat) : Nat := if (ieeeVal (wFmt w) c).isNaN then wNaN w else c

/-- The value of one element of an arithmetic, selecting or approximating instruction (R114, R117), as a code of the width. -/
def arith (op : Nat) (w : Bool) (x a b c : Nat) : Nat :=
  let f := wFmt w
  let va := ieeeVal f a
  let vb := ieeeVal f b
  let vc := ieeeVal f c
  let rnd (v : FVal) : Nat := ieeeRound f (wNaN w) none v
  let sign := 2 ^ (f.eb + f.mb)
  match op with
  | 0x08 => rnd (fvAdd va vb)
  | 0x09 => rnd (fvAdd va (fvNeg vb))
  | 0x0A => rnd (fvMul va vb)
  | 0x0B => rnd (fvAdd (fvMul va vb) vc)
  | 0x0C => rnd (fvMax va vb)
  | 0x0D => rnd (fvMin va vb)
  | 0x0E => if va.isNaN then wNaN w else a % sign
  | 0x0F => if va.isNaN then wNaN w else if bit a (f.eb + f.mb) then a - sign else a + sign
  | 0x10 =>
    let nan := va.isNaN || vb.isNaN
    let t := if nan then decide (x = 3)
      else if x = 0 then decide (fvCmp va vb = -1)
      else if x = 1 then decide (fvCmp va vb ≤ 0)
      else if x = 2 then decide (fvCmp va vb = 0)
      else decide (fvCmp va vb ≠ 0)
    if t then wOne w else 0
  | 0x11 => canonCode w (if va.isZero then c else b)
  | 0x12 => canonCode w a
  | 0x13 => rnd (fvDiv va vb)
  | 0x14 => rnd (fvSqrt va)
  | _ => (approx32 op (BitVec.ofNat 32 a)).toNat

/-- Element codes written to the active elements of a register; the inactive ones keep theirs (R104). -/
def eWrite (v : Vector) (r ty : Nat) (codes : List Nat) : Vector :=
  let old := (tgetD v.e r ⟨0, []⟩).v
  let put (t : Tbl Nat) (z : Nat × Nat) : Tbl Nat := if z.1 = 0 then tdel t z.2 else tput t z.2 z.1
  { v with e := tput v.e r ⟨ty, codes.zipIdx.foldl put old⟩ }

/-- The tree reduction of R115 over the active elements: the identity pads to a power of two, which the tree ignores. -/
def pairFold (op : W32 → W32 → W32) (l : List W32) : List W32 :=
  match l with
  | a :: b :: r => op a b :: pairFold op r
  | l => l

def treeFold (n : Nat) (op : W32 → W32 → W32) (l : List W32) : List W32 :=
  match n with
  | 0 => l
  | n + 1 => treeFold n op (pairFold op l)

def reduce (op : W32 → W32 → W32) (ident : W32) (l : List W32) : W32 :=
  ((treeFold 11 op (l ++ List.replicate (2048 - l.length) ident)).head?).getD ident

/-- Conversion of codes, one draw per element in SR mode (R61, R67): codes, flags, draw counter. -/
def cvtList (src dst : Nat) (sr : Bool) (seed ctr : Nat) (cs : List Nat) : List Nat × CvtFlags × Nat :=
  match cs with
  | [] => ([], 0, ctr)
  | c :: r =>
    let y := convert dst (if sr then some (srDraw seed ctr) else none) (fmtVal src c)
    let z := cvtList src dst sr seed (if sr then (ctr + 1) % 2 ^ 64 else ctr) r
    (y.1 :: z.1, y.2 ||| z.2.1, z.2.2)

/-- The exact values of a block divided by 2^(c − 127), converted to the element format; CVT_SAT is never set (R64). -/
def qntElems (fmt c : Nat) (sr : Bool) (seed ctr : Nat) (xs : List FVal) : List Nat × CvtFlags × Nat :=
  match xs with
  | [] => ([], 0, ctr)
  | v :: r =>
    let y := convert (fmtElem fmt) (if sr then some (srDraw seed ctr) else none) (fvMul v (.fin false 1 (127 - (c : Int))))
    let z := qntElems fmt c sr seed (if sr then (ctr + 1) % 2 ^ 64 else ctr) r
    (y.1 :: z.1, (y.2 &&& ~~~fSat) ||| z.2.1, z.2.2)

/-- One block quantised (R64): element codes, scale code, flags, draw counter. -/
def qntBlock (fmt : Nat) (sr : Bool) (seed ctr : Nat) (cs : List Nat) : List Nat × Nat × CvtFlags × Nat :=
  let xs := cs.map (fun c => ieeeVal fp32 c)
  let c := blockScale fmt xs
  if c = 255 then (cs.map (fun _ => 0), 255, fNan, ctr)
  else if xs.all FVal.isZero then (cs.map (fun _ => 0), 127, 0, ctr)
  else
    let y := qntElems fmt c sr seed ctr xs
    (y.1, c, y.2.1, y.2.2)

/-- Blocks of at most 32 of a list; `n` bounds the count. -/
def blocks (n : Nat) (cs : List Nat) : List (List Nat) :=
  match n with
  | 0 => []
  | n + 1 => if cs.isEmpty then [] else cs.take 32 :: blocks n (cs.drop 32)

/-- Quantise the active elements block by block (R64, R104). -/
def qntAll (fmt : Nat) (sr : Bool) (seed ctr : Nat) (bs : List (List Nat)) : List Nat × List Nat × CvtFlags × Nat :=
  match bs with
  | [] => ([], [], 0, ctr)
  | b :: r =>
    let y := qntBlock fmt sr seed ctr b
    let z := qntAll fmt sr seed y.2.2.2 r
    (y.1 ++ z.1, y.2.1 :: z.2.1, y.2.2.1 ||| z.2.2.1, z.2.2.2)

/-- The task's conversion flags gain these (R63). -/
def setCvt (x : Hearth) (own : Nat) (f : CvtFlags) : Hearth :=
  let g (t : TaskRun) : TaskRun := if t.id = own then { t with cvt := t.cvt ||| f.toNat } else t
  { x with cur := x.cur.map g, drain := x.drain.map g }

/-! The issue rule. -/

/-- Chunks of an instruction (timing text before R112). -/
def chunks (v : Vector) (d w : Nat) : Nat :=
  let op := inOp w
  let per (wide : Bool) : Nat := cdiv v.vl (if wide then 64 else 128)
  if op = 0 ∨ inS w then 1
  else if op = 1 then
    (let st := ivS d (bits (inX w) 0 2)
     if stKind st then 1 else per (stSrc st || fmtWidth (stFmt st) = 32))
  else if op = 2 then (if stKind (ivS d (inX w)) then 1 else per (fmtWidth (srcType v (inSa w)) = 32))
  else if op = 0x30 then per (fmtWidth (bits (inX w) 0 4) = 32 || fmtWidth (srcType v (inSa w)) = 32)
  else per (!inW w)

/-- The first cycle that a source allows an instruction of `n` chunks (R112). -/
def srcReady (v : Vector) (n c : Nat) : Nat :=
  if c < 16 then (match tget v.eW c with | some p => p.t + p.l + (p.n - n) | none => 0)
  else if 0x18 ≤ c ∧ c < 0x1C then
    (match tget v.aW (c - 0x18) with | some p => p.t + p.l + (if p.red then p.n - 1 else 0) | none => 0)
  else 0

/-- The sources of an instruction for the issue rule; a reduction's accumulator counts as one (R112). -/
def issueSrcs (w : Nat) : List Nat :=
  ([inSa w, inSb w, inSc w]).take ((opArity (inOp w)).getD 0) ++
    (if inOp w = 0x28 ∨ inOp w = 0x29 then [0x18 + inVd w % 4] else [])

/-- The issue cycle of the instruction (R112). -/
def issueAt (v : Vector) (d w : Nat) : Nat :=
  (issueSrcs w).foldl (fun t c => max t (srcReady v (chunks v d w) c)) v.clk

/-- The registers remember the write (R112). -/
def noteWrite (v : Vector) (w t n : Nat) : Vector :=
  let op := inOp w
  let e : Wrote := ⟨t, opLat op, n, op = 0x28 || op = 0x29⟩
  if op = 0 ∨ op = 2 then v
  else if inS w ∨ op = 0x28 ∨ op = 0x29 then { v with aW := tput v.aW (inVd w % 4) e }
  else
    let v1 := { v with eW := tput v.eW (inVd w) e }
    if op = 0x31 then { v1 with eW := tput v1.eW (inSc w % 16) e } else v1

/-- The next instruction, segment and row (R103); after the last, `r` equals the row count. -/
def vecAdvance (v : Vector) (iv : Invoc) : Vector :=
  let d := iv.desc
  if v.pc + 1 < progLen (progOf v (ivProg d)) then { v with pc := v.pc + 1 }
  else if v.seg + 1 < ivSegs d then { v with pc := 0, seg := v.seg + 1, vl := ivSegVl d (v.seg + 1) }
  else { v with pc := 0, seg := 0, r := v.r + 1, vl := ivSegVl d 0 }

/-! Loads and stores (R102, R104, R113, R118). -/

/-- Memory, first absolute row and first byte from it of the data of a stream at the current row and segment. -/
def stPlace (sp : Scratch) (v : Vector) (iv : Invoc) (w : Nat) : Nat × Nat × Nat :=
  let col := v.seg * ivVl iv.desc
  if stSrc w then
    match iv.tq with
    | some e => (2, e.row + v.r * ((if e.ncode = 0 then 64 else if e.ncode = 1 then 128 else 256) / 16), col * 4)
    | none => (2, 0, 0)
  else
    (hdMem (hdl sp (stHandle w)), hdlRow sp (stHandle w) (stOffset w + v.r * stStride w),
      if stKind w then col / 32 else col * fmtWidth (stFmt w) / 8)

/-- Type and width of what a load of the stream gives (R110). -/
def ldTy (iv : Invoc) (w : Nat) : Nat :=
  if stSrc w then (match iv.tq with | some e => if e.int then 7 else 0 | none => 0) else stFmt w

def tyWidth (ty : Nat) : Nat := if ty = 11 then 8 else fmtWidth ty

/-- LD. -/
def vecLd (s : State) (h : Nat) (iv : Invoc) (w : Nat) : State × Bool :=
  let x := hget s h
  let v := x.vec
  let st := ivS iv.desc (bits (inX w) 0 2)
  let p := stPlace x.spd v iv st
  let ty := ldTy iv st
  let cnt := if stKind st then cdiv v.vl 32 else v.vl
  let nb := cdiv (cnt * tyWidth ty) 8
  let row := p.2.1 + p.2.2 / 64
  let n := cdiv (p.2.2 % 64 + nb) 64
  match portRead s h iv.own 6 p.1 [(row, n)] with
  | (s1, false) => (if (staleHit x p.1 row n).isSome then s1 else vecErr s1 h 6 5 iv.seq v.pc v.r, false)
  | (s1, true) =>
    let line := leVal (rowsGet x.spd p.1 row n)
    let codes := (List.range cnt).map (fun i => bits line (8 * (p.2.2 % 64) + i * tyWidth ty) (tyWidth ty))
    (vmod s1 h (fun v => eWrite v (inVd w) ty codes), true)

/-- The rows that take `len` bits of value `val` at bit `off` from absolute row `b` (R104: only these bits change). -/
def bitRows (sp : Scratch) (m b off len val : Nat) : List WbRow :=
  (List.range (if len = 0 then 0 else (off + len - 1) / 512 + 1 - off / 512)).map (fun i =>
    let r := off / 512 + i
    let lo := max off (r * 512)
    let hi := min (off + len) (r * 512 + 512)
    ⟨m, b + r, leBytes 64 (setBits (leVal (rowGet sp m (b + r))) (lo - r * 512) (hi - lo) (val >>> (lo - off)))⟩)

/-- A store's chunks land cycle after cycle in the bank buffers (R113, R131). -/
def stChunks (sp : Scratch) (m b off width per : Nat) (n : Nat) (codes : List Nat) : Scratch × Option WbRow :=
  match n with
  | 0 => (sp, none)
  | n + 1 =>
    let c := codes.take per
    let val := (c.zipIdx).foldl (fun a z => a + ((z.1 % 2 ^ width) <<< (z.2 * width))) 0
    match wbPush sp (bitRows sp m b off (c.length * width) val) with
    | (sp1, some w) => (sp1, some w)
    | (sp1, none) => stChunks (wbCycle sp1) m b (off + c.length * width) width per n (codes.drop per)

/-- Does a store follow in the program after `pc`. -/
def laterSt (ws : List Nat) (pc : Nat) : Bool := (ws.drop (pc + 1)).any (fun w => inOp w = 2)

/-- ST. -/
def vecSt (s : State) (h : Nat) (iv : Invoc) (w : Nat) : State × Bool :=
  let x := hget s h
  let v := x.vec
  let i := inX w
  let st := ivS iv.desc i
  let p := stPlace x.spd v iv st
  let width := tyWidth (stFmt st)
  let cnt := if stKind st then cdiv v.vl 32 else v.vl
  let codes := (List.range cnt).map (fun j => srcCode v iv.desc (inSa w) j)
  let per := if stKind st then 128 else if width = 32 then 64 else 128
  match stChunks x.spd p.1 p.2.1 (8 * p.2.2) width per (cdiv cnt per) codes with
  | (_, some b) => (reqAbort (spdErr s h 6 p.1 6 7 (stHandle st) b.row 0) h iv.own 6, false)
  | (sp1, none) =>
    let stored := if v.stored.contains i then v.stored else v.stored ++ [i]
    let prog := progOf v (ivProg iv.desc)
    let last := v.r + 1 = iv.rows && v.seg + 1 = ivSegs iv.desc && !laterSt (prog.take (progLen prog)) v.pc
    let v1 := { v with stored := stored,
                       outs := if last then v.outs ++ [⟨iv.own, stored.flatMap (outKeys x.spd iv)⟩] else v.outs }
    (hput s h { x with spd := sp1, vec := v1 }, true)

/-- The effect of an instruction other than LD and ST on the engine: the engine, its flags, its draws. A QNT whose VD and SC name one register
leaves the scale codes in it: DESIGN CHOICE (log 64), R109 does not say which of the two writes remains. -/
def vecCompute (v : Vector) (iv : Invoc) (seed w : Nat) : Vector × CvtFlags :=
  let op := inOp w
  let d := iv.desc
  let src (c i : Nat) : Nat := srcCode v d c i
  let act := List.range v.vl
  if op = 0 then (v, 0)
  else if op = 0x28 ∨ op = 0x29 then
    let key := (inVd w % 4) * 64 + v.r
    let f := if op = 0x28 then add32 else max32
    let ident : W32 := if op = 0x28 then 0x80000000#32 else 0xFF800000#32
    let sum := reduce f ident (act.map (fun i => BitVec.ofNat 32 (src (inSa w) i)))
    ({ v with a := tput v.a key (f (BitVec.ofNat 32 (tgetD v.a key 0)) sum).toNat }, 0)
  else if op = 0x30 then
    let y := cvtList (srcType v (inSa w)) (bits (inX w) 0 4) (bit (inX w) 4) seed v.draw (act.map (src (inSa w)))
    (eWrite { v with draw := y.2.2 } (inVd w) (bits (inX w) 0 4) y.1, y.2.1)
  else if op = 0x31 then
    let fmt := bits (inX w) 0 4
    let y := qntAll fmt (bit (inX w) 4) seed v.draw (blocks 64 (act.map (src (inSa w))))
    (eWrite (eWrite { v with draw := y.2.2.2 } (inVd w) (fmtElem fmt) y.1) (inSc w % 16) 11 y.2.1, y.2.2.1)
  else if op = 0x32 then
    let fmt := bits (inX w) 0 4
    let ys := act.map (fun i => dequant fmt (src (inSa w) i) (src (inSb w) (i / 32)))
    (eWrite v (inVd w) 0 (ys.map (fun y => y.1.toNat)), ys.foldl (fun a y => a ||| y.2) 0)
  else if inS w then
    let y := arith op false (inX w) (src (inSa w) 0) (src (inSb w) 0) (src (inSc w) 0)
    ({ v with a := tput v.a ((inVd w % 4) * 64 + v.r) y }, 0)
  else
    (eWrite v (inVd w) (if inW w then 2 else 0)
      (act.map (fun i => arith op (inW w) (inX w) (src (inSa w) i) (src (inSb w) i) (src (inSc w) i))), 0)

/-- The running invocation's next instruction, when its opcode is `op`, issues and takes effect (R103, R112). -/
def vecRun (s : State) (h op : Nat) : State :=
  let x := hget s h
  let v := x.vec
  match v.running, v.q with
  | true, iv :: _ =>
    let prog := progOf v (ivProg iv.desc)
    let w := prog.getD v.pc 0
    if progLen prog ≤ v.pc ∨ iv.rows ≤ v.r ∨ inOp w ≠ op then s
    else
      let n := chunks v iv.desc w
      let t := issueAt v iv.desc w
      let seed := ((runOf x iv.own).map TaskRun.seed).getD 0
      let res : State × Bool :=
        if op = 1 then vecLd s h iv w
        else if op = 2 then vecSt s h iv w
        else
          let y := vecCompute v iv seed w
          (hmod s h (fun x => setCvt { x with vec := y.1 } iv.own y.2), true)
      match res with
      | (s1, false) => s1
      | (s1, true) =>
        let s2 := vecBump (vecBump s1 h (R.vecIssueCycles h) n) h (R.vecDepWait h) (t - v.clk)
        vmod s2 h (fun u => vecAdvance { noteWrite u w t n with clk := t + n } iv)
  | _, _ => s

/-- What an abort does to the vector engine (R119): the task's invocations, tile-queue entries and reservations go. -/
def vecAbort (owns : List Nat) (v : Vector) : Vector :=
  let mine (o : Nat) : Bool := owns.contains o
  let run := v.running && ((v.q.head?).map (fun i => mine i.own)).getD false
  let v0 : Vector := (if run then { v with r := 0, seg := 0, pc := 0 } else v)
  { v0 with q := v.q.filter (fun i => !mine i.own), running := v.running && !run, tq := v.tq.filter (fun e => !mine e.own),
            resv := v.resv.filter (fun r => !mine r.own), outs := v.outs.filter (fun o => !mine o.own) }

end Sys2Proof.Machine
end

