-- ==== Sys2Proof/Machine/HostTx.lean ====
section
/-!
DEFINITION. What the device sends on the host port: queue pairs, frames and their lengths (R410, R415, R417), requester messages
(R421), completion records pending (R427), and deliveries (R425).
-/

namespace Sys2Proof.Machine

def qpGet (s : State) (q : Nat) : QPair := tgetD s.qps q .reset
def qpPut (s : State) (q : Nat) (x : QPair) : State := { s with qps := tput s.qps q x }
def qpMod (s : State) (q : Nat) (f : QPair → QPair) : State := qpPut s q (f (qpGet s q))

/-- HST_QP_CTRL.STATE: 0 RESET, 1 RTS, 2 ERROR. -/
def qpState (s : State) (q : Nat) : Nat := rdf s (R.hstQpCtrlQ q) 0 3

/-- The priority of a queue pair's packets; the management queue pair uses 7 (R430, R434). -/
def qpPrio (s : State) (q : Nat) : Nat := if q = 1024 then 7 else rdf s (R.hstQpCtrlQ q) 3 3

/-- The partition of a data queue pair (R418). -/
def qpPart (q : Nat) : Nat := q / 64

def hstBump (s : State) (r : Reg) (n : Nat) (w : Nat := 48) : State := bump s (bit (rd s R.hstCtrl) 0) r n w

/-- HST_ERR_LOG (R435). -/
def hstErr (s : State) (kind q prio : Nat) : State :=
  logErr s R.hstErrLog R.hstErrCount (fieldAt 8 4 kind + fieldAt 16 11 q + fieldAt 27 3 prio)

/-! Frame lengths (R410, R417): Ethernet header and tag 18, IP 20 or 40, UDP 8, BTH 12, ICRC 4, FCS 4. -/

/-- Bytes of an IP header towards a queue pair's peer. -/
def qpIp (s : State) (q : Nat) : Nat := if bit (rd s (R.hstQpCtrlQ q)) 23 then 40 else 20

/-- A frame that carries a RoCEv2 packet with `ext` bytes of extension headers and `n` of payload. -/
def roceLen (ip ext n : Nat) : Nat := max 64 (18 + ip + 8 + 12 + ext + 4 * cdiv n 4 + 4 + 4)

/-- Packets of a payload at path MTU 4,096 (R417). -/
def pktCount (n : Nat) : Nat := max 1 (cdiv n 4096)

/-- Frames and bytes of a payload cut into packets, `ext` bytes of headers in the first. -/
def burstLen (ip ext n : Nat) : Nat × Nat :=
  let k := pktCount n
  (k, ((List.range k).map (fun i => roceLen ip (if i = 0 then ext else 0) (min 4096 (n - 4096 * i)))).sum)

/-- Frames and bytes that a message takes, and its priority. -/
def msgSize (s : State) (m : HostMsg) : Nat × Nat × Nat :=
  match m with
  | .request q t =>
    let b := burstLen (qpIp s q) (if t.op = 0 then 0 else if t.op = 1 then 16 else 20) t.data.length
    (qpPrio s q, b.1, b.2)
  | .ack q _ _ _ => (qpPrio s q, 1, roceLen (qpIp s q) 4 0)
  | .readData q _ d => let b := burstLen (qpIp s q) 4 d.length; (qpPrio s q, b.1, b.2)
  | .cnp q => (qpPrio s q, 1, roceLen (qpIp s q) 16 0)
  | .arpReply _ _ => (0, 1, 64)
  | .neighborAdv _ _ => (0, 1, 94)
  | .pfc _ _ => (8, 1, 64)
  | .ipfix b => (rdf s R.hstIpfixCfg 48 3, 1, max 64 (18 + qpIp s 1024 + 8 + b.length + 4))

/-- The queue pair to whose peer a message goes. -/
def msgQp (m : HostMsg) : Option Nat :=
  match m with
  | .request q _ | .ack q _ _ _ | .readData q _ _ | .cnp q => some q
  | .ipfix _ => some 1024
  | .arpReply _ _ | .neighborAdv _ _ | .pfc _ _ => none

/-- A queue pair's peer: QPN, MAC address, IP address. -/
def qpPeer (s : State) (q : Nat) : Nat × Nat × Nat × Nat :=
  (rdf s (R.hstQpPeerQ q) 0 24, rd s (R.hstQpMacQ q), rd s (R.hstQpIpHiQ q), rd s (R.hstQpIpLoQ q))

/-- The frame of a message: tag (R410), ECT(0) in every packet of RoCEv2 and of IPFIX (R416, R431), addresses. A PFC frame, a MAC control frame of
IEEE 802.1Q, carries no tag (PRESUMED, log 32). -/
def frameOf (s : State) (m : HostMsg) : TxFrame :=
  let prio := (msgSize s m).1
  let q := msgQp m
  { msg := m, tag := if prio < 8 then some (rdf s R.hstCtrl 4 12, prio) else none, ecn := if q.isSome then 2 else 0,
    dscp := match m with | .ipfix _ => none | _ => q.map (fun q => rdf s (R.hstQpCtrlQ q) 6 6),
    peer := q.map (qpPeer s),
    udp := match m with | .ipfix _ => some (some 4739, rdf s R.hstIpfixCfg 16 16) | _ => q.map (fun _ => (none, 4791)) }

/-- A message leaves the port. -/
def hostOut (s : State) (m : HostMsg) : State :=
  let z := msgSize s m
  hstBump (hstBump { s with tx := s.tx ++ [frameOf s m] } R.hstTxFrames z.2.1) R.hstTxBytes z.2.2 64

/-- Bytes waiting in the transmit pool (R412). -/
def txPool (s : State) : Nat := (s.hport.wait.map (fun e => (msgSize s e.2).2.2)).sum

/-- A message is sent, or waits in the transmit pool while its priority is paused (R415). PFC frames are never paused. With the transmit pool
full, the sender waits (R412). -/
def hostEmit (s : State) (m : HostMsg) : State :=
  let z := msgSize s m
  if z.1 < 8 && bit s.hport.paused z.1 && bit (rd s R.hstPfcCfg) 8 then
    if 262144 < txPool s + z.2.2 then hold s else { s with hport := { s.hport with wait := s.hport.wait ++ [(z.1, m)] } }
  else hostOut s m

/-- TEL_TIME counts that `n` bytes take at a limit in MB/s, counts of 0.625 ns; no limit takes none (R486, R487; log 41). -/
def paceTime (limit n : Nat) : Nat := if limit = 0 then 0 else cdiv (1600 * n) limit

/-- The messages of a queue pair leave in order, as far as its send rate and an RNR NAK let them (R421, R487). -/
def paceRun (s : State) (q n : Nat) : State :=
  match n with
  | 0 => s
  | n + 1 =>
    let x := qpGet s q
    match x.pace with
    | [] => s
    | m :: r =>
      if qpState s q ≠ 1 || x.rnrWait || (x.limit ≠ 0 && telNow s < x.freeAt) then s
      else
        let t := telNow s + paceTime x.limit (msgSize s (.request q m)).2.2
        paceRun (hostEmit (qpPut s q { x with pace := r, freeAt := t }) (.request q m)) q n

/-- A message of a queue pair as requester: numbered by PSN and kept until acknowledged (R421). A queue pair in ERROR sends
nothing; one in RESET holds nothing. -/
def hostReq (s : State) (q op : Nat) (data : List Byte) (va rkey imm del : Nat) : State :=
  if qpState s q = 0 then s
  else
    let x := qpGet s q
    let m : TxMsg := ⟨x.sqPsn, pktCount data.length, op, data, va, rkey, imm, del⟩
    paceRun (qpPut s q { x with sq := x.sq ++ [m], sqPsn := (x.sqPsn + m.pkts) % 2 ^ 24, pace := x.pace ++ [m] }) q (x.pace.length + 1)

/-! Completion records (R310, R427). -/

/-- A record joins its queue pair's pending queue; those past the 64th are producers that wait. -/
def recPush (s : State) (q : Nat) (r : Rec) : State := qpMod s q (fun x => { x with recs := x.recs ++ [r] })

/-- Has the pending queue room for a task's record. -/
def recRoom (s : State) (q : Nat) : Bool := (qpGet s q).recs.length < 64

/-- A REJECT record (R284, R312, R423). -/
def recReject (s : State) (q status : Nat) : State := recPush s q ⟨3, 0, 0, status, 0, 0, 0, 0, 0, 0, 0, none, none⟩

/-! Deliveries (R425). -/

/-- The writes of delivery entries in order: how many were sent, and whether every source could be read. -/
def deliver (s : State) (q p id : Nat) (ds : List Delivery) (n : Nat) : Nat × Bool × State :=
  match ds with
  | [] => (n, true, s)
  | d :: r =>
    let v := vaGet s p d.srcVa d.len false
    match v.1 with
    | none => (n, false, v.2.2)
    | some bs => deliver (hostReq v.2.2 q 1 bs d.hostVa d.rkey 0 id) q p id r (n + 1)

/-- A GRAPH record with its deliveries: written once the host has acknowledged every write. A source that cannot be read ends
the deliveries with LOAD_FAULT. -/
def recDeliver (s : State) (q p : Nat) (r : Rec) (ds : List Delivery) : State :=
  if ds.isEmpty || r.status ≠ 0 || qpState s q = 0 then recPush s q r
  else
    let id := s.hport.nextDel
    let s0 := { s with hport := { s.hport with nextDel := id + 1 } }
    let d := deliver s0 q p id ds 0
    let r1 := if d.2.1 then r else { r with status := 7 }
    if d.1 = 0 then recPush d.2.2 q r1
    else qpMod d.2.2 q (fun x => { x with dels := x.dels ++ [⟨id, r1, d.1⟩] })

end Sys2Proof.Machine
end

