-- ==== Sys2Proof/Machine/ColCount.lean ====
section
/-!
DEFINITION. What a collective entry asks of the writes of its partition (R392, R404), an instance's failure (R404) and its digest entries
(R398).
-/

namespace Sys2Proof.Machine

def colGet (s : State) (p c : Nat) : Option ColEnt := tget s.cols (p * 256 + c)
def colPut (s : State) (p c : Nat) (e : ColEnt) : State := { s with cols := tput s.cols (p * 256 + c) e }

/-- Changes a loaded entry. -/
def colMod (s : State) (p c : Nat) (f : ColEnt → ColEnt) : State :=
  match colGet s p c with
  | none => s
  | some e => colPut s p c (f e)

def colBump (s : State) (r : Reg) (k : Nat) (w : Nat := 48) : State := bump s (bit (rd s R.colCtrl) 0) r k w

/-- COL_ERR_LOG (R408). -/
def colErr (s : State) (kind p c code : Nat) : State :=
  logErr s R.colErrLog R.colErrCount (fieldAt 8 4 kind + fieldAt 12 4 p + fieldAt 16 8 c + fieldAt 24 8 code)

/-! Digests (R398). -/

/-- `n` bits of the CRC-64 of ECMA-182. -/
def crcBits (n crc : Nat) : Nat :=
  match n with
  | 0 => crc
  | n + 1 => crcBits n (if bit crc 63 then ((crc * 2) % 2 ^ 64).xor 0x42F0E1EBA9EA3693 else crc * 2)

/-- CRC-64 of bytes: initial value 0, no reflection, no final XOR. -/
def crc64 (bs : List Byte) : Nat := bs.foldl (fun c b => crcBits 8 (c.xor (b.toNat * 2 ^ 56))) 0

/-- Pieces in ascending (bucket, offset) order. -/
def digSort (x : DigPart) (l : List DigPart) : List DigPart :=
  match l with
  | [] => [x]
  | y :: r => if x.b < y.b || (x.b = y.b && x.off < y.off) then x :: y :: r else y :: digSort x r

/-- One digest entry is written and the log advances (R398). -/
def digPut (s : State) (p c epoch : Nat) (k : Nat × Nat × Nat) (data : List Byte) : State :=
  let i := rdf s R.colDigHead 0 12
  let s1 := wr s (R.colDigI i 0) (fieldAt 0 8 c + fieldAt 8 4 p + fieldAt 12 1 k.2.2 + fieldAt 16 4 k.2.1 + fieldAt 32 16 k.1)
  let s2 := wr (wr (wr s1 (R.colDigI i 1) epoch) (R.colDigI i 2) data.length) (R.colDigI i 3) (crc64 data)
  wr s2 R.colDigHead ((i + 1) % 4096 + fieldAt 16 48 (rdf s R.colDigHead 16 48 + 1))

/-- The digest entries of an instance that ends: one for each peer and direction that moved bytes. -/
def digEnd (s : State) (p c : Nat) (e : ColEnt) : State :=
  let keys := (e.dig.map (fun d => (d.dev, d.part, d.dir))).dedup
  keys.foldl (fun t k =>
    let ps := (e.dig.filter (fun d => (d.dev, d.part, d.dir) = k)).foldl (fun l d => digSort d l) []
    digPut t p c e.epoch k (ps.flatMap (·.data))) s

/-! Failure and counting. -/

/-- An instance fails with a code (R404): its digest is written; the entry stays FAILED until it is reset. -/
def colFail (s : State) (p c code : Nat) : State :=
  match colGet s p c with
  | none => s
  | some e =>
    if e.st = 3 then s
    else
      let s1 := colPut (digEnd s p c e) p c { e with st := 3, fail := code, dig := [] }
      colErr (colBump s1 R.colFailed 1) 6 p c code

/-- The failed collective entry whose SEND, RECV or AUX region a range of a partition touches: its code (R404). -/
def colFailAt (s : State) (p va len : Nat) : Option Nat :=
  let meets (lo n : Nat) : Bool := lo < va + len && va < lo + n
  (s.cols.find? (fun e => e.1 / 256 = p && e.2.st = 3 &&
    (meets (ceSend e.2.raw) (ceSendLen e.2.raw e.2.n) || meets (ceRecv e.2.raw) (ceRecvLen e.2.raw e.2.n) ||
     meets (ceAux e.2.raw) (ceAuxLen e.2.raw e.2.n)))).map (fun e => e.2.fail)

/-- Bytes of SEND's bucket `b` that an instance sends (R392, R393). -/
def bucketLen (e : ColEnt) (b : Nat) : Nat :=
  let len := match e.act with | some a => if ceOp e.raw = 4 then ceSendLen e.raw e.n else a | none => ceSendLen e.raw e.n
  min (ceBucket e.raw) (len - b * ceBucket e.raw)

/-- A write of `len` bytes into a bucket that a running instance has not yet released waits (R392). -/
def colHold (s : State) (p va len : Nat) : Bool :=
  s.cols.any (fun e => e.1 / 256 = p && e.2.st = 2 &&
    (let lo := ceSend e.2.raw
     let a := max va lo - lo
     let z := min (va + len) (lo + ceSendLen e.2.raw e.2.n) - lo
     a < z && (List.range ((z - 1) / ceBucket e.2.raw - a / ceBucket e.2.raw + 1)).any (fun i =>
       let b := a / ceBucket e.2.raw + i
       !e.2.ended.contains b && bucketLen e.2 b ≤ tgetD e.2.cnt b 0)))

/-- Of `k` bytes of SEND from offset `off`, those that count: the ones below ACT_LEN once it is known (R393). -/
def bytesBelow (e : ColEnt) (off k : Nat) : Nat :=
  match e.act with
  | some a => if ceOp e.raw = 4 then k else min k (a - off)
  | none => k

/-- A range joins those written before the flush; one that continues the last range of its bucket lengthens it. -/
def ranAdd (bsz off k : Nat) (l : List (Nat × Nat)) : List (Nat × Nat) :=
  match l with
  | [] => [(off, k)]
  | (o, n) :: r => if o + n = off && off % bsz ≠ 0 then (o, n + k) :: r else (off, k) :: l

/-- The counts of the buckets at a flush: of the ranges written before it, the bytes below ACT_LEN (R393). -/
def flushCnt (bsz a : Nat) (l : List (Nat × Nat)) : Tbl Nat :=
  l.foldl (fun t r => if min r.2 (a - r.1) = 0 then t else tput t (r.1 / bsz) (tgetD t (r.1 / bsz) 0 + min r.2 (a - r.1))) []

/-- Has a bucket been written beyond full. -/
def overfull (e : ColEnt) : Bool := e.cnt.any (fun x => bucketLen e x.1 < x.2)

/-- An instance fails because a write goes beyond full (R392). -/
def colOver (s : State) (p c : Nat) : State := colFail (colErr s 5 p c 10) p c 10

/-- `n` bytes of SEND from offset `off` have been written: they count in their buckets; bytes beyond full fail the instance (R392). Bytes of a
bucket that has been released count for the next instance. -/
def colAdd (s : State) (p c off n fuel : Nat) : State :=
  match fuel with
  | 0 => s
  | fuel + 1 =>
    if n = 0 then s
    else
      match colGet s p c with
      | none => s
      | some e =>
        let bsz := ceBucket e.raw
        let b := off / bsz
        let k := min n (bsz - off % bsz)
        let s1 :=
          if e.ended.contains b then
            colPut s p c { e with cntN := tput e.cntN b (tgetD e.cntN b 0 + k), writN := if ceCtlEn e.raw then ranAdd bsz off k e.writN else [] }
          else if bucketLen e b < tgetD e.cnt b 0 + bytesBelow e off k then colOver s p c
          else if bytesBelow e off k = 0 then s
          else colPut s p c { e with cnt := tput e.cnt b (tgetD e.cnt b 0 + bytesBelow e off k),
                                     writ := if e.act.isNone then ranAdd bsz off k e.writ else e.writ }
        colAdd s1 p c (off + k) (n - k) fuel

/-- The partition has written `n` bytes at `va` (R392): every entry whose SEND they touch counts them, but a FAILED one. -/
def colCount (s : State) (p va n : Nat) : State :=
  (s.cols.filter (fun e => e.1 / 256 = p && e.2.st ≠ 3)).foldl (fun t x =>
    let lo := max va (ceSend x.2.raw)
    let hi := min (va + n) (ceSend x.2.raw + ceSendLen x.2.raw x.2.n)
    if lo < hi then colAdd t p (x.1 % 256) (lo - ceSend x.2.raw) (hi - lo) (n / ceBucket x.2.raw + 2) else t) s

end Sys2Proof.Machine
end

