-- ==== Sys2Proof/Machine/Streams.lean ====
section
/-!
DEFINITION. Flues, bellows and their streams (06): descriptors (R160–R162, R178), requests and their choice (R163–R166),
fetch-ahead and due cycles (R167, R168), generation tags (R169), outbound streams (R171), learned strides (R176), gathers and
scatters (R179, R180), stall causes (R181).
-/

namespace Sys2Proof.Machine


def engPut (x : Hearth) (e : Nat) (g : Engine) : Hearth :=
  if e < 8 then { x with flues := tput x.flues e g } else { x with bellows := tput x.bellows (e - 8) g }

/-- The stream that would issue next on an engine, and whether it is the next stream (R159). -/
def issuing (g : Engine) : Option (Stream × Bool) :=
  match g.cur with
  | some st => if !st.ended then some (st, false) else (if g.go then g.next.bind (fun n => if n.ended then none else some (n, true)) else none)
  | none => if g.go then g.next.bind (fun n => if n.ended then none else some (n, true)) else none

/-- Replaces the issuing stream. -/
def streamPut (s : State) (h e : Nat) (nx : Bool) (st : Stream) : State :=
  hmod s h (fun x =>
    let g := engGet x e
    engPut x e (if nx then { g with next := some st } else { g with cur := some st }))

/-- Counters of the FLU_ and BLW_ blocks under their CNT_FREEZE. -/
def fluBump (s : State) (h : Nat) (r : Reg) (n : Nat) (w : Nat := 48) : State := bump s (bit (rd s (R.fluCtrl h)) 0) r n w
def blwBump (s : State) (h : Nat) (r : Reg) (n : Nat) (w : Nat := 48) : State := bump s (bit (rd s (R.blwCtrl h)) 0) r n w

/-- The partition of the task that owns a stream: the hearth's. -/
def hPart (x : Hearth) : Nat := x.part.getD 0

/-! Credits and caps (R164, R179). -/

/-- Outstanding requests among the 48 (R158). -/
def readsOut (x : Hearth) : List HReq := x.reqs.filter (fun q => q.kind ≠ .write && q.kind ≠ .hint && !q.pool)
def writesOut (x : Hearth) : List HReq := x.reqs.filter (fun q => q.kind = .write && !q.pool)
def poolOut (x : Hearth) (e : Nat) : List HReq := x.reqs.filter (fun q => q.pool && q.eng = e)

/-- Has a firebox one of its 4,096 credits toward a slice (R202): its reads, writes and hints in the queue hold them. -/
def creditFree (s : State) (h sl : Nat) : Bool :=
  (((tgetD s.slices sl .empty).reqs.filter (fun r => r.h / 64 = h / 64)).length) < 4096

/-- Has the descriptor in hand of a stream DUE_EN (R168, R214). -/
def streamDue (e : Nat) (st : Stream) : Bool :=
  match st.cur with
  | some d => if e < 8 then fdDueEn d else bdDueEn d
  | none => false

/-- A request leaves a hearth for its home slice. `due`: its stream has DUE_EN (R214). `lost` is the injection of R578, KIND 4. -/
def sendReq (s : State) (h : Nat) (q : HReq) (data : List Byte) (alloc : Bool) (mcast : Nat) (replay due lost : Bool) : State :=
  let x := hget s h
  let r : MReq := ⟨h, q.id, q.kind = .write, q.kind = .hint, hPart x, q.pa, q.len, data, alloc, mcast, q.k, q.eng, q.own, replay, due, telNow s⟩
  let s1 := hput s h { x with reqs := x.reqs ++ [q], nextId := x.nextId + 1 }
  if lost then s1 else slMod s1 (homeSlice s.hbm.dead q.pa) (fun y => { y with reqs := y.reqs ++ [r] })

/-- Is a write of engine `e` lost to an armed injection (R578). -/
def writeLost (s : State) (h e : Nat) : Bool × State :=
  if injKind s (if e < 8 then 4 else 5) h = some 4 then (true, injFired s) else (false, s)

/-! Descriptors (R159–R162). -/

/-- A descriptor's handle serves a stream (R162): valid, the task's own, STREAM, at least `rows` long. R127 gives partial-sum memory no flue or
bellows writer, and no rule refuses a STREAM handle there: the model lets it pass (DESIGN CHOICE, log 58). -/
def streamHdl (sp : Scratch) (own i rows : Nat) : Bool :=
  let v := hdl sp i
  hdValid v && hdOwned v && hdOwner v = own && hdStream v && rows ≤ hdLen v

/-- An index handle (R162): valid and the task's own. -/
def indexHdl (sp : Scratch) (own i rows : Nat) : Bool :=
  let v := hdl sp i
  hdValid v && hdOwned v && hdOwner v = own && rows ≤ hdLen v

/-- What the engine finds at the head of its buffer when it has no descriptor in hand. -/
def descHead (s : State) (h e : Nat) : Option (Stream × Bool × Nat) :=
  match issuing (engGet (hget s h) e) with
  | none => none
  | some (st, nx) =>
    match st.cur, st.buf with
    | none, d :: _ => some (st, nx, d)
    | _, _ => none

/-- The stream after it takes the descriptor at its head. -/
def descTake (st : Stream) (cur : Option Nat) : Stream :=
  { st with buf := st.buf.tail, ptr := st.ptr + 64, cur := cur, tile := 0, off := 0, outRead := false, outData := [],
            ndesc := st.ndesc + 1, tiles := st.tiles.map (fun t => { t with now := false }) }

/-- A bad descriptor (R162): DESC_BAD and ABORT_BOUND. -/
def descBad (s : State) (h e : Nat) (st : Stream) : State := engFail s h e 1 10 st.own 0

/-- A descriptor reached when its first due cycle has passed aborts with ABORT_UNDERRUN (R168). -/
def dueAtReach (s : State) (h e own : Nat) (en : Bool) (base : Int) : State :=
  match en, sinceStart s h own with
  | true, some t => if base < t then engFail s h e 2 6 own 0 else s
  | _, _ => s

/-- Stride learning at the first IN descriptor of a stream (R176). -/
def strideLearn (s : State) (h f d : Nat) : State :=
  if !bit (rd s (R.fluCtrl h)) 2 then s
  else
    hmod s h (fun x =>
      let l := tgetD x.stride f []
      let n : Stride := match l.find? (fun r => r.sid = fdSid d) with
        | none => ⟨fdSid d, fdVa d, 0, 0, d⟩
        | some r =>
          let delta : Int := (fdVa d : Int) - (r.va : Int)
          ⟨fdSid d, fdVa d, delta, if delta = r.delta ∧ delta ≠ 0 then r.same + 1 else if delta ≠ 0 then 1 else 0, d⟩
      { x with stride := tput x.stride f ((n :: l.filter (fun r => r.sid ≠ fdSid d)).take 4) })

/-- FLUE_IN: a flue reaches an IN descriptor (R160–R162, R168, R176). A reserved KIND is bad whichever event meets it. -/
def flueIn (s : State) (h f : Nat) : State :=
  match descHead s h f with
  | none => s
  | some (st, nx, d) =>
    if fdKind d = 0 || 4 < fdKind d then descBad s h f st
    else if fdKind d ≠ 1 then s
    else if fdInBad d || !streamHdl (hget s h).spd st.own (fdHandle d) (fdTileRows d) then descBad s h f st
    else
      let first := st.firstIn.isNone
      let s1 := streamPut s h f nx { descTake st (some d) with firstIn := if first then some d else st.firstIn }
      let s2 := if first then strideLearn s1 h f d else s1
      dueAtReach s2 h f st.own (fdDueEn d) (fdDueBase d)

/-- FLUE_OUT: a flue reaches an OUT descriptor (R171). -/
def flueOut (s : State) (h f : Nat) : State :=
  match descHead s h f with
  | none => s
  | some (st, nx, d) =>
    if fdKind d = 0 || 4 < fdKind d then descBad s h f st
    else if fdKind d ≠ 2 then s
    else if fdOutBad d || !streamHdl (hget s h).spd st.own (fdHandle d) (fdTileRows d) then descBad s h f st
    else streamPut s h f nx (descTake st (some d))

/-- The stream after a LINK: its buffer is discarded, bursts in flight with it, and it continues at NEXT_VA (R162). -/
def linkTake (st : Stream) (next : Nat) : Stream := { descTake st none with buf := [], fly := [], ptr := next }

/-- FLUE_LINK. -/
def flueLink (s : State) (h f : Nat) : State :=
  match descHead s h f with
  | none => s
  | some (st, nx, d) =>
    if fdKind d = 0 || 4 < fdKind d then descBad s h f st
    else if fdKind d ≠ 3 then s
    else if fdLinkBad d then descBad s h f st
    else streamPut s h f nx (linkTake st (fdNext d))

/-- The read requests of a run of bytes, cut at 2 KiB (R163). -/
def cut2k (va len n : Nat) : List (Nat × Nat) :=
  match n with
  | 0 => []
  | n + 1 =>
    if len = 0 then []
    else
      let l := min len (2048 - va % 2048)
      (va, l) :: cut2k (va + l) (len - l) n

/-- The requests of one tile of a descriptor placed at VA `va0` (R161, R163). -/
def tileCuts (d va0 i : Nat) : List (Nat × Nat) :=
  (List.range (fdLines d)).flatMap (fun l =>
    cut2k (va0 + i * fdTileStride d + l * fdLineStride d) (fdLineBytes d) (fdLineBytes d / 2048 + 2))

/-- The hints of a learned stride: the first 8 tiles at VA + delta, with the geometry of the first descriptor (R176). -/
def hintsFor (f : Nat) (r : Stride) : List Hint :=
  let va0 : Int := (r.va : Int) + r.delta
  (List.range (min 8 (fdTiles r.desc))).flatMap (fun i => (tileCuts r.desc (va0.toNat % 2 ^ 48) i).map (fun c => ⟨f, c.1 % 2 ^ 48, c.2⟩))

/-- The stream reaches END (R159): it leaves its multicast groups (R209), and a learned stride of its SID is hinted (R176). -/
def endTake (s : State) (h e : Nat) (nx : Bool) (st : Stream) : State :=
  let s1 := streamPut s h e nx { descTake st none with buf := [], fly := [], ended := true }
  let s2 := mcLeave s1 ⟨h, e, st.own⟩
  let g := engGet (hget s2 h) e
  let learned := if e < 8 && !nx && g.next.isNone && bit (rd s2 (R.fluCtrl h)) 2 then
      st.firstIn.bind (fun d => (tgetD (hget s2 h).stride e []).find? (fun r => r.sid = fdSid d && 2 ≤ r.same))
    else none
  match learned with
  | some r => hmod s2 h (fun x => { x with hints := x.hints ++ hintsFor e r })
  | none => s2

/-- FLUE_END: END is taken once every request that the descriptors before it name has issued (R159). -/
def flueEnd (s : State) (h f : Nat) : State :=
  match descHead s h f with
  | none => s
  | some (st, nx, d) =>
    if fdKind d = 0 || 4 < fdKind d then descBad s h f st
    else if fdKind d ≠ 4 then s
    else if fdEndBad d then descBad s h f st
    else if !st.skip.isEmpty then s
    else endTake s h f nx st

/-- The handles of a bellows descriptor (R162, R178, R179). -/
def blwHdls (sp : Scratch) (own d : Nat) : Bool :=
  streamHdl sp own (bdData d) (bdDataOff d + bdCount d * bdUnits d) && indexHdl sp own (bdIdx d) (bdIdxOff d + cdiv (bdCount d) 16)

/-- BLW_GATHER: a bellows reaches a GATHER descriptor (R178, R179). -/
def blwGather (s : State) (h b : Nat) : State :=
  match descHead s h (8 + b) with
  | none => s
  | some (st, nx, d) =>
    if fdKind d = 0 || 4 < fdKind d then descBad s h (8 + b) st
    else if fdKind d ≠ 1 then s
    else if bdWorkBad d || !blwHdls (hget s h).spd st.own d then descBad s h (8 + b) st
    else dueAtReach (streamPut s h (8 + b) nx (descTake st (some d))) h (8 + b) st.own (bdDueEn d) (bdDueBase d)

/-- BLW_SCATTER: a bellows reaches a SCATTER descriptor (R180). -/
def blwScatter (s : State) (h b : Nat) : State :=
  match descHead s h (8 + b) with
  | none => s
  | some (st, nx, d) =>
    if fdKind d = 0 || 4 < fdKind d then descBad s h (8 + b) st
    else if fdKind d ≠ 2 then s
    else if bdWorkBad d || !blwHdls (hget s h).spd st.own d then descBad s h (8 + b) st
    else streamPut s h (8 + b) nx (descTake st (some d))

/-- BLW_LINK. -/
def blwLink (s : State) (h b : Nat) : State :=
  match descHead s h (8 + b) with
  | none => s
  | some (st, nx, d) =>
    if fdKind d = 0 || 4 < fdKind d then descBad s h (8 + b) st
    else if fdKind d ≠ 3 then s
    else if bdLinkBad d then descBad s h (8 + b) st
    else streamPut s h (8 + b) nx (linkTake st (bdNext d))

/-- BLW_END. -/
def blwEnd (s : State) (h b : Nat) : State :=
  match descHead s h (8 + b) with
  | none => s
  | some (st, nx, d) =>
    if fdKind d = 0 || 4 < fdKind d then descBad s h (8 + b) st
    else if fdKind d ≠ 4 then s
    else if fdEndBad d then descBad s h (8 + b) st
    else if !st.skip.isEmpty then s
    else endTake s h (8 + b) nx st

/-- NEXT_STREAM_START: the next stream of an engine begins issuing when the current one has reached END (R159). -/
def nextStreamStart (s : State) (h e : Nat) : State :=
  hmod s h (fun x =>
    let g := engGet x e
    match g.cur, g.next with
    | some c, some _ => if c.ended then engPut x e { g with go := true } else x
    | none, some _ => engPut x e { g with go := true }
    | _, none => x)

/-! Bursts (R162). -/

/-- Does the buffer already hold the LINK or END that ends it. -/
def bufEnds (buf : List Nat) : Bool := buf.any (fun d => fdKind d = 3 || fdKind d = 4)

/-- Entries of the descriptor buffer that hold a descriptor or wait for one in flight. -/
def bufUsed (st : Stream) : Nat := st.buf.length + (st.fly.map Fly.n).sum

/-- The next burst of an engine, when one is due: stream, whether it is the next stream, address and length. It is due while 32 of the 64
entries are free. A stream whose LINK or END is in the buffer has no descriptor still to fetch before it is taken, and issues none (DESIGN
CHOICE, log 58). -/
def burstDue (x : Hearth) (e : Nat) : Option (Stream × Bool × Nat × Nat) :=
  match issuing (engGet x e) with
  | none => none
  | some (st, nx) =>
    if 32 < bufUsed st || bufEnds st.buf then none
    else
      let va := st.ptr + 64 * bufUsed st
      some (st, nx, va, 2048 - va % 2048)

/-- Is there room for a read request of the hearth's 48 in bank group `bg` (R164). -/
def bankRoom (x : Hearth) (bg : Nat) : Bool := ((readsOut x).filter (fun q => q.bg = bg)).length < 8

/-! Candidates for issue (R165). -/

/-- A request an engine could issue this cycle: whether it is of a next stream, a descriptor burst, its due cycle, the flue number it counts
under, its stream and the stream once it has issued, what it carries, and the index rows it reads. -/
structure Cand where
  eng : Nat
  nx : Bool
  burst : Bool
  due : Option Int
  flue : Nat
  st : Stream
  next : Stream
  req : ReadReq
  ent : TlbEnt
  idx : List Nat
deriving DecidableEq, Repr

/-- Order of R165: bursts, current before next, then the earliest due cycle, then the lower flue number. On a tie between a flue and a RUN-mode
bellows that names it, which the rule leaves open, the lower engine number: the flue (DESIGN CHOICE, log 58). -/
def candLess (a b : Cand) : Bool :=
  if a.burst ≠ b.burst then a.burst
  else if a.nx ≠ b.nx then !a.nx
  else match a.due, b.due with
    | some x, some y => if x ≠ y then x < y else a.flue < b.flue
    | some _, none => true
    | none, some _ => false
    | none, none => a.flue < b.flue

/-- The best candidate; of two that tie, the one looked at first, of the lower engine. -/
def candBest (cs : List Cand) : Option Cand :=
  cs.foldl (fun acc c => match acc with | none => some c | some a => if candLess c a then some c else some a) none

/-- What an engine comes to in this cycle: a candidate, a stall cause (R181), no work left, or work of the other issue (reads or writes) alone;
and the state with the walks and copy-on-writes that it asked for. -/
inductive Look where
  | idle
  | other
  | wait (cause : Nat)
  | ready (c : Cand)
deriving DecidableEq, Repr

/-- The absolute due cycle of a tile (R168): from the start of its task; of a task that has not started, from the present cycle, before which it
cannot start (DESIGN CHOICE, log 58). -/
def dueAbs (s : State) (h own : Nat) (rel : Option Int) : Option Int :=
  rel.map (fun r => ((startOf (hget s h) own).getD (coreNow s) : Int) + r)

/-- Does a watch entry serve a read of this frame (R169): one of the same tile of a flue, or of a bellows destination slot that the read
writes. -/
def watchServes (own eng tile frame gen : Nat) (keys : List Nat) (w : Watch) : Bool :=
  w.own = own && w.eng = eng && w.frame = frame && w.gen = gen && !w.stale &&
    (if eng < 8 then w.tile = tile else keys.any (fun k => w.slots.contains k))

/-- Is a watch entry held or free for a read (R169). -/
def watchFree (x : Hearth) (own eng tile frame gen : Nat) (keys : List Nat) : Bool :=
  x.watch.length < 256 || x.watch.any (watchServes own eng tile frame gen keys)

/-- Holds a watch entry for a read (R169). -/
def watchHold (x : Hearth) (own eng tile frame gen : Nat) (keys : List Nat) : Hearth :=
  match lfind x.watch (watchServes own eng tile frame gen keys) with
  | some i =>
    match lget x.watch i with
    | some w => { x with watch := lset x.watch i { w with slots := (w.slots ++ keys.filter (fun k => !w.slots.contains k)) } }
    | none => x
  | none => { x with watch := x.watch ++ [⟨frame, gen, own, eng, keys, false, tile⟩] }

/-- Is a walk for this page of the hearth in progress (R181: XLATE). -/
def walking (x : Hearth) (va : Nat) : Bool := x.walks.any (fun w => w.vpn = va / 65536 % 2 ^ 32)

/-- The final checks of a read: translation, watch entry, credits and caps (R163, R164, R169, R179, R202). `pool`: one of a bellows' own 256.
`keys`: the slots it writes; none for a burst. The entry, or the cause of the wait (15: the task aborts). -/
def readGate (s : State) (h e own va len unit : Nat) (keys : List Nat) (pool : Bool) : Option TlbEnt × Nat × State :=
  match colFailAt s (hPart (hget s h)) va len with
  | some code => (none, 15, engAbort s h own code)
  | none =>
    let t := hearthXlate s h (hPart (hget s h)) va own e (unit % 65536) false
    match t.1 with
    | none => (none, 1, t.2)
    | some u =>
      let x := hget t.2 h
      let pa := 65536 * u.frame + va % 65536
      let bg := bankGroup s.hbm.dead pa
      let full := if pool then 256 ≤ (poolOut x e).length else 48 ≤ (readsOut x).length
      let hot := if pool then 32 ≤ ((poolOut x e).filter (fun q => q.bg = bg)).length else !bankRoom x bg
      if !keys.isEmpty && !watchFree x own e unit u.frame u.gen keys then (none, 5, t.2)
      else if full || !creditFree t.2 h (homeSlice s.hbm.dead pa) then (none, 6, t.2)
      else if hot then (none, 8, t.2)
      else (some u, 15, t.2)

def noEnt : TlbEnt := ⟨0, 0, 0, 0, false, false, 0, false⟩

/-- Has a stream no descriptor to run (R181, DESC). -/
def noDesc (st : Stream) : Bool := st.cur.isNone && st.buf.isEmpty && st.skip.isEmpty

/-- A due descriptor burst goes before every data request of its engine (R162). -/
def burstLook (s : State) (h e : Nat) (st : Stream) (nx : Bool) (va len : Nat) : Look × State :=
  let g := readGate s h e st.own va (2048 - va % 2048) 0 [] false
  let r : ReadReq := ⟨0, 0, va, len, 0, 0, 0, 0, none⟩
  match g.1 with
  | some u => (.ready ⟨e, nx, true, none, e, st, st, r, u, []⟩, g.2.2)
  | none => (if g.2.1 = 15 then .idle else .wait (if noDesc st then 0 else g.2.1), g.2.2)

/-- The next request of an IN descriptor (R161, R163). -/
def flueReq (x : Hearth) (st : Stream) (d : Nat) : ReadReq :=
  let v := hdl x.spd (fdHandle d)
  let first := hdBase v + ringPlace v st.ring (fdTileRows d)
  let at_ := st.off % fdLineBytes d
  let va := (fdVa d + st.tile * fdTileStride d + st.off / fdLineBytes d * fdLineStride d + at_) % 2 ^ 48
  ⟨d, st.ndesc * 65536 + st.tile, va, min (fdLineBytes d - at_) (2048 - va % 2048), hdMem v, first + st.off / 64, first, fdTileRows d,
    if fdDueEn d then some (fdDueBase d + (st.tile * fdDuePeriod d : Nat)) else none⟩

/-- The stream past a request of `len` bytes of its descriptor. -/
def flueStep (x : Hearth) (st : Stream) (d len : Nat) : Stream :=
  let off := st.off + len
  if off < fdTileBytes d then { st with off := off }
  else
    let ring := ringPlace (hdl x.spd (fdHandle d)) st.ring (fdTileRows d) + fdTileRows d
    { st with off := 0, tile := st.tile + 1, ring := ring, cur := if fdTiles d ≤ st.tile + 1 then none else some d }

/-- The record of the tile that a request starts (R167). -/
def tileOf (st : Stream) (r : ReadReq) : Tile := ⟨r.unit, r.mem, r.first, r.rows, r.due, false, 0, r.unit / 65536 = st.ndesc, r.unit % 65536⟩

/-- Has a tile started. -/
def tileBegun (st : Stream) (r : ReadReq) : Bool := st.tiles.any (fun t => t.idx = r.unit)

/-- Why a request's tile may not start (R167): the fetch-ahead depth, or a destination slot that is not EMPTY, is reserved, or is that of an
earlier tile that has not started. -/
def tileWait (x : Hearth) (st : Stream) (r : ReadReq) : Option Nat :=
  let keys := slotKeys r.mem r.first r.rows
  if tileBegun st r then none
  else if fdAhead r.d ≤ (st.tiles.filter (fun t => t.idx / 65536 = r.unit / 65536 && !t.reached)).length then some 2
  else if !slotsFree x.spd keys then some 3
  else if st.skip.any (fun q => q.unit ≠ r.unit && !tileBegun st q && (slotKeys q.mem q.first q.rows).any (fun k => keys.contains k)) then some 3
  else none

/-- Could a flue issue this request, as a candidate of `st` that leaves `next`. -/
def flueTry (s : State) (h f : Nat) (nx : Bool) (st next : Stream) (r : ReadReq) : Look × State :=
  let x := hget s h
  if walking x r.va then (.wait 1, s)
  else
    match tileWait x st r with
    | some c => (.wait c, s)
    | none =>
      let g := readGate s h f st.own r.va r.len r.unit (slotKeys r.mem r.row (r.len / 64)) false
      match g.1 with
      | some u => (.ready ⟨f, nx, false, dueAbs s h st.own r.due, f, st, next, r, u, []⟩, g.2.2)
      | none => (if g.2.1 = 15 then .idle else .wait g.2.1, g.2.2)

/-- The requests that the bank-group cap holds back, in issue order: the first that may issue; one still at its cap is passed over (R164). -/
def flueSkips (s : State) (h f : Nat) (nx : Bool) (st : Stream) (n i : Nat) : Look × State :=
  match n with
  | 0 => (.wait 8, s)
  | n + 1 =>
    match lget st.skip i with
    | none => (.wait 8, s)
    | some r =>
      match flueTry s h f nx { st with skip := st.skip.take i } { st with skip := ldel st.skip i } r with
      | (.wait 8, s1) => flueSkips s1 h f nx st n (i + 1)
      | l => l

/-- A flue's requests from its position on: one held back by the bank-group cap does not block the ones after it (R164). When every request left of
the descriptor in hand is held back, the stream keeps them and is free to take its next descriptor. -/
def flueScan (s : State) (h f : Nat) (nx : Bool) (st : Stream) (n : Nat) : Look × State :=
  let hot := !st.skip.isEmpty
  match n, st.cur with
  | n + 1, some d =>
    if fdKind d ≠ 1 then (if hot then .wait 8 else .other, s)
    else
      let x := hget s h
      let r := flueReq x st d
      let past := flueStep x st d r.len
      match flueTry s h f nx st past r with
      | (.wait c, s1) =>
        if c = 8 then flueScan s1 h f nx { past with skip := st.skip ++ [r] } n else (.wait (if hot then 8 else c), s1)
      | l => l
  | _, none => (if hot then .wait 8 else if st.buf.isEmpty then .wait 0 else .idle, if hot then streamPut s h f nx st else s)
  | 0, some _ => (.wait 8, s)

/-- Requests that a scan passes over at most: more than 64 tiles of the fetch-ahead depth never start. -/
def scanFuel : Nat := 4096

/-- What a flue could read (R163, R164, R167). -/
def flueLook (s : State) (h f : Nat) : Look × State :=
  match issuing (engGet (hget s h) f), burstDue (hget s h) f with
  | none, _ => (.idle, s)
  | some (st, nx), some (_, _, va, len) => burstLook s h f st nx va len
  | some (st, nx), none =>
    match (if st.skip.isEmpty then (.wait 8, s) else flueSkips s h f nx st st.skip.length 0) with
    | (.wait 8, s1) => flueScan s1 h f nx st scanFuel
    | l => l

/-! Bellows reads (R178, R179). -/

/-- The index of element `e` of a bellows descriptor: its row, and its value when the slot is FULL (R179). -/
def blwIndex (x : Hearth) (d e : Nat) : Nat × Option Nat :=
  let v := hdl x.spd (bdIdx d)
  let row := hdBase v + bdIdxOff d + e / 16
  (row, if (slotGet x.spd (slotKey (hdMem v) row)).full then
      some (leVal (((rowGet x.spd (hdMem v) row).drop (4 * (e % 16))).take 4)) else none)

/-- The started record of a bellows destination slot (R179, R180): slot `i` counts from the descriptor's first row. -/
def blwTile (st : Stream) (d v i : Nat) : Tile :=
  let first := hdBase v + bdDataOff d
  let key := st.ndesc * 65536 + i
  match st.tiles.find? (fun t => t.idx = key) with
  | some t => t
  | none => ⟨key, hdMem v, first + 16 * i, min 16 (bdCount d * bdUnits d - 16 * i),
      if bdDueEn d then some (bdDueBase d + (i * bdDuePeriod d : Nat)) else none, false, 0, true, 16 * i / bdUnits d⟩

/-- The destination slots that a request of a GATHER in hand writes, as records. -/
def blwTiles (x : Hearth) (st : Stream) (d row n : Nat) : List Tile :=
  let v := hdl x.spd (bdData d)
  let first := hdBase v + bdDataOff d
  (slotKeys (hdMem v) row n).map (fun k => blwTile st d v (k % 4096 - first / 16))

/-- The next request of a GATHER: in RUN mode a granule, in ELEMENT mode 64 bytes (R179). Length 0: index 0xFFFF_FFFF, which issues no
request and writes zero rows. -/
def gatherReq (x : Hearth) (st : Stream) (d ix : Nat) : ReadReq :=
  let v := hdl x.spd (bdData d)
  let first := hdBase v + bdDataOff d
  let row := first + st.tile * bdUnits d + st.off / 64
  let va := (bdBase d + ix * bdScale d + st.off) % 2 ^ 48
  let len := if ix = 4294967295 then 0 else if bdMode d then min (64 * bdUnits d - st.off) (2048 - va % 2048) else 64
  ⟨d, st.ndesc * 65536 + st.tile, va, len, hdMem v, row, first, bdCount d * bdUnits d, (blwTile st d v (row / 16 - first / 16)).due⟩

/-- Rows that a request of a GATHER writes: the whole element when it is written as zeros. -/
def gatherRows (r : ReadReq) : Nat := if r.len = 0 then bdUnits r.d else r.len / 64

/-- The stream of a bellows past a request of `len` bytes of its element; 0: past the element. -/
def blwStep (st : Stream) (d len : Nat) : Stream :=
  let off := st.off + len
  let last := len = 0 || 64 * bdUnits d ≤ off
  { st with off := if last then 0 else off, tile := if last then st.tile + 1 else st.tile,
            cur := if last && bdCount d ≤ st.tile + 1 then none else some d }

/-- The slots of a request that no request of the same descriptor has reserved yet. -/
def freshSlots (st : Stream) (r : ReadReq) : List Nat :=
  (slotKeys r.mem r.row (gatherRows r)).filter (fun k =>
    !st.tiles.any (fun t => t.idx / 65536 = r.unit / 65536 && slotKey t.mem t.row = k))

/-- Translation and credits of a write of engine `e` (R163, R164, R202): the entry, or the cause of the wait (15: the task aborts). A flue's
writes take the 16, a bellows' its pool of 256 with 32 to a bank group. A write into a collective bucket that is not released waits (R392), under
WREQ_FULL (DESIGN CHOICE, log 58). -/
def writeGate (s : State) (h e own va len unit : Nat) : Option TlbEnt × Nat × State :=
  let p := hPart (hget s h)
  match colFailAt s p va len with
  | some code => (none, 15, engAbort s h own code)
  | none =>
    let t := hearthXlate s h p va own e (unit % 65536) true
    match t.1 with
    | none => (none, 1, t.2)
    | some u =>
      let x := hget t.2 h
      let pa := 65536 * u.frame + va % 65536
      let bg := bankGroup s.hbm.dead pa
      let room := creditFree t.2 h (homeSlice s.hbm.dead pa)
      if e < 8 then
        if 16 ≤ (writesOut x).length || colHold s p va len || !room then (none, 7, t.2) else (some u, 15, t.2)
      else if 256 ≤ (poolOut x e).length || !room then (none, 6, t.2)
      else if colHold s p va len then (none, 7, t.2)
      else if 32 ≤ ((poolOut x e).filter (fun q => q.bg = bg)).length then (none, 8, t.2)
      else (some u, 15, t.2)

/-- The write of element bytes that a SCATTER comes to next, for index `ix` (R180); length 0: index 0xFFFF_FFFF. -/
def scatterReq (x : Hearth) (st : Stream) (d ix : Nat) : ReadReq :=
  let v := hdl x.spd (bdData d)
  let row := hdBase v + bdDataOff d + st.tile * bdUnits d + st.off / 64
  ⟨d, st.ndesc * 65536 + st.tile, (bdBase d + ix * bdScale d + st.off) % 2 ^ 48, if ix = 4294967295 then 0 else 64, hdMem v, row, row, 1, none⟩

/-- Are all slots of the element that a SCATTER comes to next FULL (R180). -/
def scatterFull (x : Hearth) (st : Stream) (d : Nat) : Bool :=
  let v := hdl x.spd (bdData d)
  slotsFull x.spd (slotKeys (hdMem v) (hdBase v + bdDataOff d + st.tile * bdUnits d) (bdUnits d))

/-- Could a bellows that has its index send its next request: nothing but the outbound port holds it back. -/
def blwFree (s : State) (h e : Nat) (st : Stream) (d ix : Nat) : Bool :=
  let x := hget s h
  if fdKind d = 1 then
    let r := gatherReq x st d ix
    slotsFree x.spd (freshSlots st r) && (r.len = 0 || (!walking x r.va &&
      (readGate s h e st.own r.va r.len r.unit (slotKeys r.mem r.row (gatherRows r)) (!bdMode d)).1.isSome))
  else
    let r := scatterReq x st d ix
    r.len = 0 || (scatterFull x st d && !walking x r.va && (writeGate s h e st.own r.va r.len r.unit).1.isSome)

/-- Does an engine claim the outbound port, and for a next stream (R171): a FULL tile that is not yet read, an index or an element that is
ready and whose request nothing else holds back. -/
def portClaim (s : State) (h e : Nat) : Option Bool :=
  let x := hget s h
  match issuing (engGet x e) with
  | none => none
  | some (st, nx) =>
    match st.cur with
    | none => none
    | some d =>
      if e < 8 then
        let v := hdl x.spd (fdHandle d)
        let row := hdBase v + ringPlace v st.ring (fdTileRows d)
        if fdKind d = 2 && !st.outRead && slotsFull x.spd (slotKeys (hdMem v) row (fdTileRows d)) then some nx else none
      else
        match (blwIndex x d st.tile).2 with
        | none => none
        | some ix => if (fdKind d = 1 && st.off ≠ 0) || !blwFree s h e st d ix then none else some nx

/-- The engine that the outbound port goes to (R171): current streams before next streams, then the lower engine. -/
def portFirst (s : State) (h : Nat) : Option Nat :=
  match (List.range 10).find? (fun e => portClaim s h e = some false) with
  | some e => some e
  | none => (List.range 10).find? (fun e => portClaim s h e = some true)

/-- Is the outbound port taken by another engine. -/
def portTaken (s : State) (h e : Nat) : Bool := match portFirst s h with | some p => decide (p ≠ e) | none => false

/-- Could a bellows issue this request of a GATHER, as a candidate of `st` that leaves `next` and reads these index rows. -/
def gatherTry (s : State) (h e : Nat) (nx : Bool) (st next : Stream) (r : ReadReq) (idx : List Nat) : Look × State :=
  let x := hget s h
  let c : Cand := ⟨e, nx, false, dueAbs s h st.own r.due, if bdMode r.d then bdRunFlue r.d else e, st, next, r, noEnt, idx⟩
  if r.len ≠ 0 && walking x r.va then (.wait 1, s)
  else if !slotsFree x.spd (freshSlots st r) then (.wait 3, s)
  else if r.len = 0 then (if portTaken s h e then .wait 10 else .ready c, s)
  else
    let g := readGate s h e st.own r.va r.len r.unit (slotKeys r.mem r.row (gatherRows r)) (!bdMode r.d)
    match g.1 with
    | some u => (if !idx.isEmpty && portTaken s h e then .wait 10 else .ready { c with ent := u }, g.2.2)
    | none => (if g.2.1 = 15 then .idle else .wait g.2.1, g.2.2)

/-- The requests of a RUN-mode GATHER that the bank-group cap holds back (R164, R179). -/
def gatherSkips (s : State) (h e : Nat) (nx : Bool) (st : Stream) (n i : Nat) : Look × State :=
  match n with
  | 0 => (.wait 8, s)
  | n + 1 =>
    match lget st.skip i with
    | none => (.wait 8, s)
    | some r =>
      match gatherTry s h e nx st { st with skip := ldel st.skip i } r [] with
      | (.wait 8, s1) => gatherSkips s1 h e nx st n (i + 1)
      | l => l

/-- A bellows' GATHER requests of mode `run` from its position on. In RUN mode one held back by the bank-group cap does not block the ones after
it; each new element reads its index row. A RUN-mode element must lie at a multiple of 2 KiB. -/
def gatherScan (s : State) (h e : Nat) (nx : Bool) (run : Bool) (st : Stream) (idx : List Nat) (n : Nat) : Look × State :=
  let hot := !st.skip.isEmpty
  match n, st.cur with
  | n + 1, some d =>
    if fdKind d ≠ 1 || bdMode d ≠ run then (if hot && run then .wait 8 else .other, s)
    else
      let x := hget s h
      let i := blwIndex x d st.tile
      match i.2 with
      | none =>
        let r := gatherReq x st d 0
        (.wait (if hot then 8 else if !slotsFree x.spd (freshSlots st r) then 3 else 4), s)
      | some ix =>
        let r := gatherReq x st d ix
        let rows := if st.off = 0 then idx ++ [i.1] else idx
        if run && r.len ≠ 0 && (bdBase d + ix * bdScale d) % 2048 ≠ 0 then (.idle, engFail s h e 1 10 st.own st.tile)
        else
          let past := blwStep st d r.len
          match gatherTry s h e nx st past r rows with
          | (.wait c, s1) =>
            if run && c = 8 then gatherScan s1 h e nx run { past with skip := st.skip ++ [r] } rows n
            else (.wait (if hot then 8 else c), s1)
          | l => l
  | _, none =>
    (if hot then .wait 8 else if !run then .other else if st.buf.isEmpty then .wait 0 else .idle, if hot && run then streamPut s h e nx st else s)
  | 0, some _ => (.wait 8, s)

/-- What a bellows could read with the hearth's 48 (R162, R164, R179): a due burst, or a RUN-mode GATHER. -/
def runLook (s : State) (h b : Nat) : Look × State :=
  let e := 8 + b
  match issuing (engGet (hget s h) e), burstDue (hget s h) e with
  | none, _ => (.idle, s)
  | some (st, nx), some (_, _, va, len) => burstLook s h e st nx va len
  | some (st, nx), none =>
    match (if st.skip.isEmpty then (.wait 8, s) else gatherSkips s h e nx st st.skip.length 0) with
    | (.wait 8, s1) => gatherScan s1 h e nx true st [] scanFuel
    | l => l

/-- What a bellows could read with its own 256: an ELEMENT-mode GATHER. A due burst goes first. -/
def elementLook (s : State) (h b : Nat) : Look × State :=
  let e := 8 + b
  match issuing (engGet (hget s h) e), burstDue (hget s h) e with
  | some (st, nx), none => gatherScan s h e nx false st [] 1
  | _, _ => (.other, s)

/-! Issue of reads. -/

/-- Counts one cycle of an engine under a cause; 15 none (R181). -/
def stall (s : State) (h e cause : Nat) : State :=
  let s1 := hmod s h (fun x => engPut x e { engGet x e with cause := cause, seen := true })
  if cause = 15 then s1
  else if e < 8 then fluBump s1 h (R.fluStallC h cause) 1
  else blwBump s1 h (R.blwStallBC h (e - 8) cause) 1

/-- Counts an engine's cycle from what it came to, when it did not issue; `lost`: a request that loses a race for a slot (R139, R181). -/
def stallLook (s : State) (h e : Nat) (l : Look) (lost : Bool) : State :=
  match l with
  | .idle => if (issuing (engGet (hget s h) e)).isSome then stall s h e 15 else s
  | .other => s
  | .wait c => stall s h e c
  | .ready c => stall s h e (if lost then 9 else if c.burst && noDesc c.st then 0 else 11)

/-- The tile record joins the stream's started tiles, or replaces its older copy. -/
def tilePut (ts : List Tile) (t : Tile) : List Tile :=
  if ts.any (fun u => u.idx = t.idx) then ts.map (fun u => if u.idx = t.idx then t else u) else ts ++ [t]

/-- Rows that a slot of the destination still expects, when it is first reserved. -/
def landNeed (x : Hearth) (keys : List Nat) (first rows : Nat) : Hearth :=
  { x with land := keys.foldl (fun t k =>
      let lo := max first ((k % 4096) * 16)
      let hi := min (first + rows) ((k % 4096) * 16 + 16)
      tput t k (0, hi - lo)) x.land }

/-- Tiles reached and landed are forgotten. -/
def tilesKeep (ts : List Tile) : List Tile := ts.filter (fun t => !(t.reached && t.rows ≤ t.got))

/-- The slots that a candidate's issue newly reserves (R137, R167). -/
def candSlots (c : Cand) : List Nat :=
  if c.burst then []
  else if c.eng < 8 then (if tileBegun c.st c.req then [] else slotKeys c.req.mem c.req.first c.req.rows)
  else freshSlots c.st c.req

/-- The request that a candidate sends. -/
def candReq (s : State) (h : Nat) (c : Cand) (kind : ReqKind) (pool : Bool) : HReq :=
  let pa := 65536 * c.ent.frame + c.req.va % 65536
  ⟨(hget s h).nextId, kind, c.eng, c.st.own, false, c.req.va, pa, c.ent.k, c.req.len, bankGroup s.hbm.dead pa, c.req.mem * 65536 + c.req.row,
    pool, c.req.unit, c.flue⟩

/-- An engine issues a descriptor burst (R162): ALLOC = 1, one of the 48. -/
def burstIssue (s : State) (h : Nat) (c : Cand) : State :=
  let q := candReq s h c .burst false
  let st := { c.st with fly := c.st.fly ++ [⟨q.id, c.req.len / 64, none⟩] }
  let s1 := sendReq (streamPut s h c.eng c.nx st) h q [] true 0 c.st.replay (streamDue c.eng c.st) false
  fluBump (fluBump (stall s1 h c.eng 15) h (R.fluReqs h) 1) h (R.fluBursts h) 1

/-- A flue issues the read request of a candidate (R163–R169). -/
def flueIssue (s : State) (h : Nat) (c : Cand) : State :=
  let r := c.req
  let x := hget s h
  let new := candSlots c
  let x1 := if tileBegun c.st r then x
    else landNeed { x with spd := slotsMod x.spd new (slotReserve c.st.own) } new r.first r.rows
  let x2 := watchHold x1 c.st.own c.eng r.unit c.ent.frame c.ent.gen (slotKeys r.mem r.row (r.len / 64))
  let ts := tilesKeep c.next.tiles
  let st := { c.next with tiles := if tileBegun c.st r then ts else ts ++ [tileOf c.next r] }
  let q := candReq s h c .tile false
  let s1 := streamPut (hput s h x2) h c.eng c.nx st
  fluBump (stall (sendReq s1 h q [] (fdAlloc r.d) (fdMcast r.d) c.st.replay (fdDueEn r.d) false) h c.eng 15) h (R.fluReqs h) 1

/-- Rows land in their slots (R166): they enter the bank write buffers as these have room, are marked unread, and each slot is FULL when its
last row lands. -/
def landRows (x : Hearth) (mem row : Nat) (data : List Byte) : Hearth :=
  let n := data.length / 64
  let sp := rowsEnter x.spd mem row ((List.range n).map (fun i => (data.drop (64 * i)).take 64))
  let x1 := { x with spd := sp, unread := x.unread ++ (List.range n).map (fun i => (mem, row + i)) }
  (List.range n).foldl (fun x i =>
    let k := slotKey mem (row + i)
    let l := tgetD x.land k (0, 16)
    if l.2 ≤ l.1 + 1 then { x with land := tdel x.land k, spd := slotsMod x.spd [k] slotFill }
    else { x with land := tput x.land k (l.1 + 1, l.2) }) x1

/-- Rows landed count in the tile that holds them. -/
def tileGot (x : Hearth) (e own mem row n : Nat) : Hearth :=
  let upd (t : Tile) : Tile :=
    let lo := max row t.row
    let hi := min (row + n) (t.row + t.rows)
    if t.mem = mem ∧ lo < hi then { t with got := t.got + (hi - lo) } else t
  let str (st : Stream) : Stream := if st.own = own then { st with tiles := st.tiles.map upd } else st
  let g := engGet x e
  engPut x e { g with cur := g.cur.map str, next := g.next.map str }

/-- Index rows are read through the outbound port (R171, R179): STALE sources and the decoder apply (R147, R170). -/
def indexRead (s : State) (h own mem : Nat) (rows : List Nat) : State × Bool := portRead s h own 11 mem (rows.map (fun r => (r, 1)))

/-- A bellows issues the read request of a candidate, or writes an element of index 0xFFFF_FFFF as zero rows (R179). -/
def gatherIssue (s : State) (h : Nat) (c : Cand) : State :=
  let r := c.req
  match indexRead s h c.st.own (hdMem (hdl (hget s h).spd (bdIdx r.d))) c.idx with
  | (s0, false) => s0
  | (s0, true) =>
    let x := hget s0 h
    let n := gatherRows r
    let new := freshSlots c.st r
    let x1 := landNeed { x with spd := slotsMod x.spd new (slotReserve c.st.own) } new r.first r.rows
    let tls := (blwTiles x { c.next with ndesc := r.unit / 65536 } r.d r.row n).map (fun t => { t with now := r.unit / 65536 = c.next.ndesc })
    let st := { c.next with tiles := tls.foldl tilePut (tilesKeep c.next.tiles) }
    if r.len = 0 then
      let s1 := streamPut (hput s0 h x1) h c.eng c.nx st
      let s2 := hmod s1 h (fun y => tileGot (landRows y r.mem r.row (List.replicate (64 * n) 0)) c.eng c.st.own r.mem r.row n)
      blwBump (stall s2 h c.eng 15) h (R.blwElemsB h (c.eng - 8)) 1
    else
      let x2 := watchHold x1 c.st.own c.eng r.unit c.ent.frame c.ent.gen (slotKeys r.mem r.row n)
      let q := candReq s0 h c .elem (!bdMode r.d)
      let s1 := streamPut (hput s0 h x2) h c.eng c.nx st
      let s2 := stall (sendReq s1 h q [] (bdAlloc r.d) 0 c.st.replay (bdDueEn r.d) false) h c.eng 15
      if bdMode r.d then fluBump s2 h (R.fluReqs h) 1 else s2

/-- A candidate issues. -/
def candIssue (s : State) (h : Nat) (c : Cand) : State :=
  if c.burst then burstIssue s h c else if c.eng < 8 then flueIssue s h c else gatherIssue s h c

/-- Looks at the engines of a list in turn. -/
def lookAll (s : State) (h : Nat) (es : List Nat) (acc : List (Nat × Look)) : List (Nat × Look) × State :=
  match es with
  | [] => (acc, s)
  | e :: r =>
    let l := if e < 8 then flueLook s h e else runLook s h (e - 8)
    lookAll l.2 h r (acc ++ [(e, l.1)])

/-- The candidates among what the engines came to. -/
def cands (ls : List (Nat × Look)) : List Cand := ls.filterMap (fun e => match e.2 with | .ready c => some c | _ => none)

/-- Does an engine's request lose a race for a slot to the one chosen (R139): a slot that both would reserve. -/
def slotLost (c : Cand) (l : Look) : Bool := match l with | .ready b => (candSlots b).any (fun k => (candSlots c).contains k) | _ => false

/-- The engines that issue nothing count the cycle (R181); `best` is the request chosen, if any. -/
def stallAll (s : State) (h : Nat) (ls : List (Nat × Look)) (best : Option Cand) : State :=
  ls.foldl (fun s e =>
    match best with
    | some c => if e.1 = c.eng then s else stallLook s h e.1 e.2 (slotLost c e.2)
    | none => stallLook s h e.1 e.2 false) s

/-- One core cycle of a hearth's read issue (R163–R165, R181). With `only`, it has an occasion only when the request chosen is that engine's
burst. -/
def readCycle (s : State) (h : Nat) (only : Option Nat) : State :=
  if (hget s h).inReset then s
  else
    let l := lookAll s h (List.range 10) []
    let best := candBest (cands l.1)
    let mine := match only, best with
      | none, _ => true
      | some e, some c => c.burst && decide (c.eng = e)
      | some _, none => false
    if !mine then s
    else
      let s1 := stallAll l.2 h l.1 best
      match best with
      | some c => candIssue s1 h c
      | none => s1

/-- READ_REQUEST_ISSUE. -/
def readRequestIssue (s : State) (h : Nat) : State := readCycle s h none

/-- DESC_BURST: an engine issues a descriptor burst (R162), in its turn among the hearth's reads (R165). -/
def descBurst (s : State) (h e : Nat) : State := readCycle s h (some e)

/-! Writes (R164, R165, R171, R180). -/

/-- What a flue with an OUT descriptor could write: its tile is read first (OUT_TILE_READ). A due burst goes first (R162). -/
def outLook (s : State) (h f : Nat) : Look × State :=
  let x := hget s h
  match issuing (engGet x f), burstDue x f with
  | none, _ => (.other, s)
  | some _, some _ => (.other, s)
  | some (st, nx), none =>
    match st.cur with
    | none => (.other, s)
    | some d =>
      if fdKind d ≠ 2 then (.other, s)
      else
        let v := hdl x.spd (fdHandle d)
        let row := hdBase v + ringPlace v st.ring (fdTileRows d)
        let at_ := st.off % fdLineBytes d
        let va := (fdVa d + st.tile * fdTileStride d + (st.off / fdLineBytes d) * fdLineStride d + at_) % 2 ^ 48
        let len := min (fdLineBytes d - at_) (2048 - va % 2048)
        if walking x va then (.wait 1, s)
        else if !st.outRead then
          (if !slotsFull x.spd (slotKeys (hdMem v) row (fdTileRows d)) then .wait 4 else if portTaken s h f then .wait 10 else .idle, s)
        else
          let r : ReadReq := ⟨d, st.ndesc * 65536 + st.tile, va, len, hdMem v, row, row, fdTileRows d, none⟩
          let g := writeGate s h f st.own va r.len r.unit
          match g.1 with
          | some u => (.ready ⟨f, nx, false, none, f, st, st, r, u, []⟩, g.2.2)
          | none => (if g.2.1 = 15 then .idle else .wait g.2.1, g.2.2)

/-- What a bellows with a SCATTER descriptor could write: 64 bytes of an element whose slots are all FULL (R180). A due burst goes first (R162). An element of index 0xFFFF_FFFF
writes nothing, waits for no source and counts as completed (DESIGN CHOICE, log 58: R179 gives the index its meaning for a GATHER alone). -/
def scatterLook (s : State) (h b : Nat) : Look × State :=
  let x := hget s h
  let e := 8 + b
  match issuing (engGet x e), burstDue x e with
  | none, _ => (.other, s)
  | some _, some _ => (.other, s)
  | some (st, nx), none =>
    match st.cur with
    | none => (.other, s)
    | some d =>
      if fdKind d ≠ 2 then (.other, s)
      else
        let i := blwIndex x d st.tile
        match i.2 with
        | none => (.wait 4, s)
        | some ix =>
          let r := scatterReq x st d ix
          let c : Cand := ⟨e, nx, false, none, e, st, blwStep st d r.len, r, noEnt, if st.off = 0 then [i.1] else []⟩
          if r.len = 0 then (if portTaken s h e then .wait 10 else .ready c, s)
          else if bdMode d && (bdBase d + ix * bdScale d) % 2048 ≠ 0 then (.idle, engFail s h e 1 10 st.own st.tile)
          else if walking x r.va then (.wait 1, s)
          else if !scatterFull x st d then (.wait 4, s)
          else
            let g := writeGate s h e st.own r.va r.len r.unit
            match g.1 with
            | some u => (if portTaken s h e then .wait 10 else .ready { c with ent := u }, g.2.2)
            | none => (if g.2.1 = 15 then .idle else .wait g.2.1, g.2.2)

/-- A flue issues one write request of the tile it has read (R171). -/
def outIssue (s : State) (h : Nat) (c : Cand) : State :=
  let d := c.req.d
  let lost := writeLost s h c.eng
  let x := hget lost.2 h
  let off := c.st.off + c.req.len
  let last := fdTileBytes d ≤ off
  let data := (c.st.outData.drop c.st.off).take c.req.len
  let past := flueStep x c.st d c.req.len
  let st := { past with outRead := !last, outData := if last then [] else c.st.outData }
  let q := { candReq lost.2 h c .write false with dst := 0 }
  let s1 := sendReq (streamPut lost.2 h c.eng c.nx st) h q data (fdAlloc d) 0 c.st.replay false lost.1
  let s2 := fluBump (stall s1 h c.eng 15) h (R.fluBytesOutF h c.eng) c.req.len 64
  if last then fluBump s2 h (R.fluTilesF h c.eng) 1 else s2

/-- A bellows issues one write request of a SCATTER (R180). -/
def scatterIssue (s : State) (h : Nat) (c : Cand) : State :=
  let b := c.eng - 8
  let r := c.req
  let fin := fun (s : State) => if c.next.tile ≠ c.st.tile then blwBump s h (R.blwElemsB h b) 1 else s
  match indexRead s h c.st.own (hdMem (hdl (hget s h).spd (bdIdx r.d))) c.idx with
  | (s0, false) => s0
  | (s0, true) =>
    if r.len = 0 then fin (stall (streamPut s0 h c.eng c.nx c.next) h c.eng 15)
    else
      match portRead s0 h c.st.own 11 r.mem [(r.row, 1)] with
      | (s1, false) => s1
      | (s1, true) =>
        let lost := writeLost s1 h c.eng
        let data := rowGet (hget lost.2 h).spd r.mem r.row
        let q := { candReq lost.2 h c .write true with dst := 0 }
        let s2 := sendReq (streamPut lost.2 h c.eng c.nx c.next) h q data (bdAlloc r.d) 0 c.st.replay false lost.1
        fin (blwBump (stall s2 h c.eng 15) h (R.blwBytesB h b) 64 64)

/-- Looks at the writers in turn. -/
def lookWr (s : State) (h : Nat) (es : List Nat) (acc : List (Nat × Look)) : List (Nat × Look) × State :=
  match es with
  | [] => (acc, s)
  | e :: r =>
    let l := if e < 8 then outLook s h e else scatterLook s h (e - 8)
    lookWr l.2 h r (acc ++ [(e, l.1)])

/-- One core cycle of a hearth's write issue: current streams before next, then the lower engine (R165). With `only`, it has an occasion only when
the request chosen is that engine's. -/
def writeCycle (s : State) (h : Nat) (only : Option Nat) : State :=
  if (hget s h).inReset then s
  else
    let l := lookWr s h (List.range 10) []
    let best := candBest (cands l.1)
    let mine := match only, best with
      | none, _ => true
      | some e, some c => decide (c.eng = e)
      | some _, none => false
    if !mine then s
    else
      let s1 := stallAll l.2 h l.1 best
      match best with
      | some c => if c.eng < 8 then outIssue s1 h c else scatterIssue s1 h c
      | none => s1

/-- WRITE_REQUEST_ISSUE. -/
def writeRequestIssue (s : State) (h : Nat) : State := writeCycle s h none

/-- The descriptor in hand of an engine's issuing stream. -/
def curDesc (s : State) (h e : Nat) : Nat :=
  match issuing (engGet (hget s h) e) with
  | some (st, _) => st.cur.getD 0
  | none => 0

/-- BLW_ELEMENT_REQUEST: a bellows issues one 64-byte request of its own pool (R179, R180); a write in its turn among the hearth's writes
(R165). -/
def blwElementRequest (s : State) (h b : Nat) : State :=
  if (hget s h).inReset || 2 ≤ b then s
  else if fdKind (curDesc s h (8 + b)) = 2 then writeCycle s h (some (8 + b))
  else
    let l := elementLook s h b
    match l.1 with
    | .ready c => candIssue l.2 h c
    | .wait c => stall l.2 h (8 + b) c
    | .idle => l.2
    | .other => s

/-- OUT_TILE_READ: the next tile of an OUT stream is read through the outbound port when all of its slots are FULL and no engine goes before it;
with RELEASE its slots become EMPTY (R171). -/
def outTileRead (s : State) (h f : Nat) : State :=
  let x := hget s h
  match issuing (engGet x f) with
  | none => s
  | some (st, nx) =>
    match st.cur with
    | none => s
    | some d =>
      let v := hdl x.spd (fdHandle d)
      let row := hdBase v + ringPlace v st.ring (fdTileRows d)
      let keys := slotKeys (hdMem v) row (fdTileRows d)
      if fdKind d ≠ 2 || st.outRead || !slotsFull x.spd keys || portTaken s h f then s
      else
        match portRead s h st.own 11 (hdMem v) [(row, fdTileRows d)] with
        | (s1, false) => s1
        | (s1, true) =>
          let y := hget s1 h
          let data := rowsGet y.spd (hdMem v) row (fdTileRows d)
          let s2 := streamPut s1 h f nx { st with outRead := true, outData := data }
          if fdRelease d then hmod s2 h (fun z => (emptySlots z keys slotEmpty false).1) else s2

/-! Responses (R166, R172, R175). -/

/-- Bursts that have arrived move into the buffer in the order in which they were issued. -/
def flyLand (fly : List Fly) (buf : List Nat) : List Fly × List Nat :=
  match fly with
  | [] => ([], buf)
  | b :: r =>
    match b.data with
    | none => (b :: r, buf)
    | some data => flyLand r (buf ++ (List.range b.n).map (fun i => leVal ((data.drop (64 * i)).take 64)))

/-- The descriptors of a burst enter the buffer of the stream that fetched them; those of a burst that a LINK has discarded do not (R162). -/
def burstLand (x : Hearth) (q : HReq) (data : List Byte) : Hearth :=
  let str (st : Stream) : Stream :=
    if st.own ≠ q.own then st
    else
      let l := flyLand (st.fly.map (fun b => if b.id = q.id then { b with data := some data } else b)) st.buf
      { st with fly := l.1, buf := l.2 }
  let g := engGet x q.eng
  engPut x q.eng { g with cur := g.cur.map str, next := g.next.map str }

/-- A tile is complete, or an element is, once its last row has landed: FLU_TILES or BLW_ELEMS advances. -/
def landCount (s : State) (h : Nat) (q : HReq) : State :=
  let x := hget s h
  let g := engGet x q.eng
  let sts := g.cur.toList ++ g.next.toList
  let more := x.reqs.any (fun r => r.eng = q.eng && r.own = q.own && r.tile = q.tile && r.kind = q.kind)
  if q.eng < 8 then
    let full := sts.any (fun st => st.own = q.own && st.tiles.any (fun t => t.idx = q.tile && t.rows ≤ t.got))
    if full && !more then fluBump s h (R.fluTilesF h q.eng) 1 else s
  else
    let issued := sts.any (fun st => st.own = q.own && (st.ndesc * 65536 + st.tile ≠ q.tile || st.cur.isNone) && !st.skip.any (fun r => r.unit = q.tile))
    if issued && !more then blwBump s h (R.blwElemsB h (q.eng - 8)) 1 else s

/-- READ_RESPONSE: response `i` arrives at a hearth: its credit returns; its data lands, is discarded, or aborts the task (R166, R172, R174,
R175). -/
def readResponse (s : State) (h i : Nat) : State :=
  let x := hget s h
  match lget x.resps i with
  | none => s
  | some r =>
    match x.reqs.find? (fun q => q.id = r.id) with
    | none => hput s h { x with resps := ldel x.resps i }
    | some q =>
      let mem := q.dst / 65536
      let row := q.dst % 65536
      let x1 := { x with resps := ldel x.resps i, reqs := x.reqs.filter (fun p => p.id ≠ r.id) }
      if q.kind = .write then s
      else if q.dead then
        let s1 := hput s h x1
        if q.kind = .burst then s1 else wasted s1 h q.len
      else if r.ue then engFail (hput s h x1) h q.eng 5 5 q.own (if q.kind = .burst then 0 else q.tile % 65536)
      else if q.kind = .burst then hput s h (burstLand x1 q r.data)
      else
        let s1 := hput s h (tileGot (landRows x1 mem row r.data) q.eng q.own mem row (q.len / 64))
        let s2 := landCount s1 h q
        if q.eng < 8 then fluBump s2 h (R.fluBytesInF h q.eng) q.len 64 else blwBump s2 h (R.blwBytesB h (q.eng - 8)) q.len 64

/-- WRITE_ACK: acknowledgement `i` arrives and the write credit returns (R166). -/
def writeAck (s : State) (h i : Nat) : State :=
  let x := hget s h
  match lget x.resps i with
  | none => s
  | some r =>
    match x.reqs.find? (fun q => q.id = r.id) with
    | none => s
    | some q =>
      if q.kind ≠ .write then s
      else
        let s1 := hput s h { x with resps := ldel x.resps i, reqs := x.reqs.filter (fun p => p.id ≠ r.id) }
        colCount s1 (hPart x) q.va q.len

/-- The index that an engine's log names when tile `tile` of a stream is late (R168, R180, R191): a started tile that is not complete, a tile whose
requests the bank-group cap holds back, or one of the descriptor in hand that has not started. `tile` counts in the descriptor in hand, or
names a tile by descriptor and index. -/
def dueLate (e tile : Nat) (st : Stream) : Option Nat :=
  match st.tiles.find? (fun t => t.idx = tile || (t.now && t.idx % 65536 = tile)) with
  | some t => if t.due.isSome && t.got < t.rows then some t.elem else none
  | none =>
    match st.skip.find? (fun r => r.unit = tile || (r.unit / 65536 = st.ndesc && r.unit % 65536 = tile)) with
    | some r => if r.due.isSome then some (r.unit % 65536) else none
    | none =>
      match st.cur with
      | none => none
      | some d =>
        let en := fdKind d = 1 && (if e < 8 then fdDueEn d else bdDueEn d)
        let n := if e < 8 then fdTiles d else cdiv (bdCount d * bdUnits d) 16
        let begun := if e < 8 then st.tile else cdiv (st.tile * bdUnits d) 16
        if en && begun ≤ tile && tile < n then some (if e < 8 then tile else 16 * tile / bdUnits d) else none

/-- DUE_CHECK: at the end of a tile's due cycle its slots must have been filled, or the task, which runs or drains, aborts with ABORT_UNDERRUN
(R168, R180). -/
def dueCheck (s : State) (h e tile : Nat) : State :=
  let x := hget s h
  let g := engGet x e
  let late := (g.cur.toList ++ g.next.toList).findSome? (fun st =>
    if (startOf x st.own).isSome then (dueLate e tile st).map (fun i => (st.own, i)) else none)
  match late with
  | some (own, i) => engFail s h e 2 6 own i
  | none => s

/-- Can a read request of the hearth issue: of its 48, or of a bellows' own pool. -/
def readReady (s : State) (h : Nat) : Bool :=
  !(cands (lookAll s h (List.range 10) [] ).1).isEmpty ||
    [0, 1].any (fun b => match (elementLook s h b).1 with | .ready _ => true | _ => false)

/-- What an engine comes to in a core cycle: among the reads of the 48, its own pool, or the writes. -/
def lookOf (s : State) (h e : Nat) : Look :=
  match (if e < 8 then flueLook s h e else runLook s h (e - 8)).1 with
  | .other =>
    match (if e < 8 then .other else (elementLook s h (e - 8)).1) with
    | .other => (if e < 8 then outLook s h e else scatterLook s h (e - 8)).1
    | l => l
  | l => l

/-- An engine in a core cycle that has passed: a wait in which none of its requests was looked for counts here (R181). -/
def engineTick (s : State) (h e : Nat) : State :=
  let g := engGet (hget s h) e
  let fresh (s : State) : State := hmod s h (fun x => engPut x e { engGet x e with seen := false })
  if (issuing g).isNone then s
  else if g.seen then fresh s
  else
    match lookOf s h e with
    | .wait c => fresh (stall s h e c)
    | _ => if g.cause = 15 then s else fresh (stall s h e 15)

/-- The engines of a hearth in a core cycle that has passed. -/
def enginesTick (s : State) (h : Nat) : State :=
  let x := hget s h
  if x.inReset then s
  else (x.flues.map (fun (e : Nat × Engine) => e.1) ++ x.bellows.map (fun (e : Nat × Engine) => 8 + e.1)).foldl (fun t e => engineTick t h e) s

/-- HINT_ISSUE: a flue issues its next hint when no other read request can be issued (R176). It is translated by the hearth's TLB, and a miss asks
for a walk (R256); a hint whose walk faults is dropped (DESIGN CHOICE, log 58). -/
def hintIssue (s : State) (h f : Nat) : State :=
  let x := hget s h
  match lfind x.hints (fun n => n.flue = f) with
  | none => s
  | some i =>
    match lget x.hints i with
    | none => s
    | some n =>
      let p := hPart x
      if !bit (rd s (R.fluCtrl h)) 2 then hput s h { x with hints := ldel x.hints i }
      else if 8 ≤ (x.reqs.filter (fun q => q.kind = .hint)).length || readReady s h then s
      else
        let w := hintXlate s h p n.va f
        match w.1 with
        | some e =>
          let pa := 65536 * e.frame + n.va % 65536
          let bg := bankGroup s.hbm.dead pa
          if 8 ≤ ((readsOut x ++ x.reqs.filter (fun q => q.kind = .hint)).filter (fun q => q.bg = bg)).length ||
              !creditFree s h (homeSlice s.hbm.dead pa) then s
          else
            let q : HReq := ⟨x.nextId, .hint, f, 0, false, n.va, pa, e.k, n.len, bg, 0, false, 0, f⟩
            fluBump (sendReq (hmod w.2 h (fun y => { y with hints := ldel y.hints i })) h q [] true 0 false false false) h (R.fluHintBytes h) n.len 64
        | none => w.2

/-- FLU_HINT_CLR: a Stoker write of FLU_CTRL.HINT_CLR empties the stride memory (R177). -/
def fluHintClr (s : State) (h : Nat) : State := hmod s h (fun x => { x with stride := [], hints := [] })

/-! Cancellation and abort (R172, R173). -/

/-- The slots of the tiles that a task's streams have started on a hearth (R173). -/
def streamSlots (x : Hearth) (own : Nat) : List Nat :=
  ((x.flues ++ x.bellows).flatMap (fun (e : Nat × Engine) => e.2.cur.toList ++ e.2.next.toList ++ e.2.more.toList)).flatMap (fun st =>
    if st.own = own then st.tiles.flatMap (fun t => slotKeys t.mem t.row t.rows) else [])

/-- The streams of a task stop: what it issued no longer lands, its watch entries and walks go, it leaves its multicast
groups. The hearth afterwards, with no stream of that task. -/
def streamsStop (s : State) (h own : Nat) : State :=
  let x := hget s h
  let gone (o : Option Stream) : Option Stream := o.bind (fun st => if st.own = own then none else some st)
  let eng (g : Engine) : Engine := ⟨gone g.cur, gone g.next, gone g.more, g.go && (gone g.next).isSome, g.cause, g.seen⟩
  let x1 := { x with flues := x.flues.map (fun e => (e.1, eng e.2)), bellows := x.bellows.map (fun e => (e.1, eng e.2)),
                     reqs := x.reqs.map (fun q => if q.own = own ∧ q.kind ≠ .hint then { q with dead := true } else q),
                     watch := x.watch.filter (fun w => w.own ≠ own), walks := x.walks.filter (fun w => w.hint || w.own ≠ own) }
  let s1 := hput s h x1
  let s2 := { s1 with walks := s1.walks.map (fun e => (e.1, e.2.filter (fun q => !(q.h = h && q.w.own = own && !q.w.hint)))) }
  let s3 := match x.part with
    | none => s2
    | some p => xlMod s2 p (fun y => { y with cow := y.cow.filter (fun c => !(c.h = h && c.own = own)) })
  (List.range 10).foldl (fun s e => mcLeave s ⟨h, e, own⟩) s3

/-- Has a stream finished (R159): END taken, every read answered, every write acknowledged. -/
def streamFinished (x : Hearth) (e : Nat) (st : Stream) : Bool :=
  st.ended && !x.reqs.any (fun q => q.eng = e && q.own = st.own && !q.dead && q.kind ≠ .hint)

end Sys2Proof.Machine
end

