-- ==== Sys2Proof/Machine/Graph.lean ====
section
/-!
DEFINITION. The graph engine (10): loading, dependences, placement and binding, start, completion, abort and replay, records.
-/

namespace Sys2Proof.Machine

/-! Registers and small helpers. -/

def grfBump (s : State) (p : Nat) (r : Reg) (n : Nat) : State := bump s (bit (rd s (R.grfCtrl p)) 0) r n

/-- GRF_ERR_LOG (R319). -/
def grfErr (s : State) (p kind abort gid task : Nat) : State :=
  logErr s (R.grfErrLog p) (R.grfErrCount p) (fieldAt 8 4 kind + fieldAt 16 8 abort + fieldAt 24 16 gid + fieldAt 40 16 task)

def grfReplayMax (s : State) (p : Nat) : Nat := rdf s (R.grfCtrl p) 8 4
def grfPreemptMax (s : State) (p : Nat) : Nat := rdf s (R.grfCtrl p) 12 4
def grfStop (s : State) (p : Nat) : Bool := bit (rd s (R.grfCtrl p)) 3

def semGet (s : State) (p i : Nat) : Nat := rdf s (R.grfSemS p i) 0 16

/-- A semaphore's count rises by 1; past 65,535 it stays and SEM_OVF is recorded (R304). -/
def semUp (s : State) (p i gid task : Nat) : State :=
  if semGet s p i = 65535 then grfErr s p 6 0 gid task else wrf s (R.grfSemS p i) 0 16 (semGet s p i + 1)

def semDown (s : State) (p i : Nat) : State := wrf s (R.grfSemS p i) 0 16 (semGet s p i - 1)

/-- Releases every semaphore of a list (R297, R307). -/
def semsFree (s : State) (p gid task : Nat) (l : List Nat) : State := l.foldl (fun s i => semUp s p i gid task) s

def taskGet (s : State) (p id : Nat) : Option Task := (gget s p).tasks.find? (fun t => t.id = id)

def taskMod (s : State) (p id : Nat) (f : Task → Task) : State :=
  gmod s p (fun g => { g with tasks := g.tasks.map (fun t => if t.id = id then f t else t) })

def taskDrop (s : State) (p id : Nat) : State := gmod s p (fun g => { g with tasks := g.tasks.filter (fun t => t.id ≠ id) })

def graphGet (s : State) (p gid : Nat) : Option Graph := (gget s p).graphs.find? (fun g => g.id = gid)

def graphMod (s : State) (p gid : Nat) (f : Graph → Graph) : State :=
  gmod s p (fun g => { g with graphs := g.graphs.map (fun x => if x.id = gid then f x else x) })

/-- Tasks whose counter has reached 0 become ready, where their graph no longer waits (R286, R291). -/
def readyUp (s : State) (p gid : Nat) : State :=
  match graphGet s p gid with
  | none => s
  | some gr =>
    if gr.after.isSome || gr.status ≠ 0 then s
    else gmod s p (fun g => { g with tasks := g.tasks.map (fun t =>
      if t.gid = gid ∧ t.place = .waiting ∧ t.deps = 0 then { t with place := .ready } else t) })

/-! Graph ends (R285, R286, R309, R310). -/

/-- The GRAPH record of a graph. -/
def graphRec (gid status task abort t0 : Nat) (acc : Option Nat) : Rec := ⟨2, gid, task, status, abort, 0, 0, 0, 0, 0, 0, some t0, acc⟩

/-- The record of a graph that ends, or its deliveries first; mixing sees it gone. -/
def graphClose (s : State) (p : Nat) (gr : Graph) : State :=
  let s1 := gmod s p (fun g => { g with mixRun := g.mixRun.filter (fun e => some e.1 ≠ gr.mix) })
  recDeliver (grfBump s1 p (R.grfGraphsDone p) 1) gr.qp p (graphRec gr.id gr.status gr.failTask gr.failAbort gr.t0 gr.acc) gr.dels

/-- A graph in flight ends: it leaves flight and its plans go. -/
def graphOut (s : State) (p : Nat) (gr : Graph) : State :=
  graphClose (gmod s p (fun g =>
    let g1 := plansDrop g gr.id
    { g1 with graphs := g1.graphs.filter (fun x => x.id ≠ gr.id) })) p gr

/-- The graphs that waited for a graph that ended go on, or end with AFTER_FAILED, in turn with those that wait for them. -/
def afterEnd (s : State) (p gid status n : Nat) : State :=
  match n with
  | 0 => s
  | n + 1 =>
    let g := gget s p
    let mine := g.graphs.filter (fun x => x.after = some gid)
    let s1 := mine.foldl (fun s x =>
      if status = 0 then readyUp (graphMod s p x.id (fun y => { y with after := none })) p x.id
      else
        let s2 := gmod s p (fun g => { g with tasks := g.tasks.filter (fun t => t.gid ≠ x.id) })
        afterEnd (graphOut s2 p { x with status := 10 }) p x.id 10 n) s
    match (gget s1 p).loaded with
    | none => s1
    | some x =>
      if x.after ≠ some gid then s1
      else if status = 0 then gmod s1 p (fun g => { g with loaded := some { x with after := none } })
      else graphClose (gmod s1 p (fun g => { g with loaded := none })) p { x with status := 10 }

/-- A graph none of whose tasks is in flight ends (R310). -/
def graphLeave (s : State) (p gid : Nat) : State :=
  match graphGet s p gid with
  | none => s
  | some gr =>
    if (gget s p).tasks.any (fun t => t.gid = gid) then s
    else afterEnd (graphOut s p gr) p gid gr.status ((gget s p).graphs.length + 1)

/-! Unbinding (R297). -/

/-- The handles of a task leave it: installed entries are cleared, held buffers become unowned. `f` changes the slots of the
installed ones when they are emptied with their entries. -/
def handlesFree (s : State) (h : Nat) (bufs : List Bound) (empty : Bool) : State :=
  bufs.foldl (fun s b =>
    let x := hget s h
    let v := hdl x.spd b.handle
    if b.inst then
      let e := if empty then emptySlots x (hdlSlots v) (fun _ => Slot.empty) true else (x, 0)
      wasted (hput s h { e.1 with spd := hdlPut e.1.spd b.handle 0 }) h e.2
    else hput s h { x with spd := hdlPut x.spd b.handle (setBits v 1 1 0) }) s

/-- A hearth's next task is unbound; it returns to the ready queue when it is still in flight. The slots that its streams had begun to fill are
emptied, those of held buffers too (R173). -/
def unbind (s : State) (h : Nat) : State :=
  match (hget s h).next with
  | none => s
  | some t =>
    let e := emptySlots (hget s h) (streamSlots (hget s h) t.id) (fun _ => Slot.empty) true
    let s0 := wasted (hput s h { e.1 with next := none }) h e.2
    let s2 := semsFree (handlesFree (streamsStop s0 h t.id) h t.bufs true) t.part t.graph t.id t.sems
    grfBump (taskMod s2 t.part t.id (fun k => { k with place := .ready })) t.part (R.grfUnbinds t.part) 1

/-! Failures and cancellation (R309). -/

/-- A graph fails or is cancelled: no further task of it is placed, its bound tasks are unbound, and every task that neither
runs nor drains leaves flight. -/
def graphStop (s : State) (p gid status task abort : Nat) : State :=
  match graphGet s p gid with
  | none => s
  | some gr =>
    let s1 := if gr.status = 0 then graphMod s p gid (fun y => { y with status := status, failTask := task, failAbort := abort }) else s
    let hs := (partHearths s1 p).filter (fun h => ((hget s1 h).next.map TaskRun.graph) = some gid)
    let s2 := hs.foldl unbind s1
    let busy (t : Task) : Bool := match t.place with | .running _ => true | .draining _ => true | _ => false
    let s3 := gmod s2 p (fun g => plansDrop { g with tasks := g.tasks.filter (fun t => t.gid ≠ gid || busy t) } gid)
    graphLeave s3 p gid

/-- A TASK record (R310). -/
def taskRec (t : Task) (status flags count : Nat) : Rec :=
  ⟨1, t.gid, t.id, status, t.lastAbort, flags, t.hearth, min 15 t.replays, min 15 t.preempts, min count 4294967295, tdTag t.desc, none, none⟩

/-- A task fails (R309): its record, its graph, and it leaves flight. ABORT of both records is the code of its last abort (R310); FLAGS keeps
the saturation flags of its last run (R92), whose conversion flags went with its outputs (R63). -/
def taskFail (s : State) (p id status abort count : Nat) : State :=
  match taskGet s p id with
  | none => s
  | some t =>
    let t1 := { t with lastAbort := if abort = 0 then t.lastAbort else abort }
    let s1 := match graphGet s p t.gid with
      | some gr => recPush s gr.qp (taskRec t1 status (32 * t.sat) count)
      | none => s
    let s2 := taskDrop (grfBump s1 p (R.grfTasksFailed p) 1) p id
    graphLeave (graphStop s2 p t.gid 2 id t1.lastAbort) p t.gid

/-! Aborts (R90, R119, R141, R144, R172, R300, R307). -/

/-- A task goes back to the ready queue ahead of every other ready task of its PRIO (R292). -/
def requeue (s : State) (p id : Nat) (f : Task → Task) : State :=
  let n := (gget s p).order + 1
  taskMod (gmod s p (fun g => { g with order := n })) p id (fun t => { f t with place := .ready, front := n })

/-- What the engines of a hearth lose when tasks abort (R90, R119, R144). -/
def enginesAbort (x : Hearth) (owns : List Nat) : Hearth :=
  let op (u : OpUnit) : OpUnit := ⟨u.q.filter (fun o => !owns.contains o.own), u.run && ((u.q.head?).map (fun o => !owns.contains o.own)).getD false⟩
  let mx : Matrix := ⟨arrAbort owns x.mx.a0, arrAbort owns x.mx.a1, [], none, 0⟩
  let spd := { x.spd with op0 := op x.spd.op0, op1 := op x.spd.op1, op2 := op x.spd.op2 }
  { x with mx := mx, vec := vecAbort owns x.vec, spd := spd }

/-- Slots after an abort (R141): TOUCHED slots of the tasks' handles and every slot of their STREAM handles become EMPTY; the
reservations of the tasks go. -/
def slotsAbort (s : State) (h : Nat) (owns : List Nat) : State :=
  let x := hget s h
  let mine := x.spd.handles.filter (fun e => hdValid e.2 && hdOwned e.2 && owns.contains (hdOwner e.2))
  let ks := mine.flatMap (fun e => (hdlSlots e.2).filter (fun k => hdStream e.2 || (slotGet x.spd k).touched))
  let rs := (x.spd.slots.filter (fun e => e.2.rsv && owns.any (fun o => e.2.by_ = o + 1))).map (·.1)
  let e := emptySlots { x with spd := slotsMod x.spd rs slotRelease } ks (fun _ => Slot.empty) true
  wasted (hput s h e.1) h e.2

/-- A task that runs or drains on hearth `h` loses everything it holds there (R307 steps 1 to 5). -/
def runAbort (s : State) (h : Nat) (t : TaskRun) (code : Nat) : State :=
  let s0 := taskMod s t.part t.id (fun k => { k with sat := t.sat })
  let s1 := handlesFree (streamsStop s0 h t.id) h t.bufs false
  grfBump (semsFree s1 t.part t.graph t.id t.sems) t.part (R.grfAbortsC t.part code) 1

/-- Is a hearth's partition left with one hearth (R515, R516). -/
def soleHearth (s : State) (p : Nat) : Bool := (partHearths s p).length ≤ 1

/-- ABORT_PREEMPT aborts of a task are counted in its record and in GRF_PREEMPTS, whatever follows (R310, R317). -/
def preemptCount (s : State) (p id code : Nat) : State :=
  if code = 8 then grfBump (taskMod s p id (fun t => { t with preempts := t.preempts + 1 })) p (R.grfPreempts p) 1 else s

/-- R307 step 6: a task that aborted with `code` is requeued, held or fails. -/
def taskAborted (s : State) (p id h code count : Nat) : State :=
  match taskGet s p id with
  | none => s
  | some t =>
    let failed := match graphGet s p t.gid with | some gr => decide (gr.status ≠ 0) | none => true
    let s1 := preemptCount (taskMod s p id (fun t => { t with lastAbort := code, sus := if code = 7 then t.sus else none })) p id code
    if failed then taskFail s1 p id 2 code count
    else if code = 1 ∨ code = 2 ∨ code = 3 ∨ code = 5 ∨ code = 6 ∨ code = 9 then
      let s2 := if code = 5 then
          (if t.ue.contains h then reqFault s1 h .secondEccUe else taskMod s1 p id (fun t => { t with ue := t.ue ++ [h] }))
        else s1
      if t.replays < grfReplayMax s p then
        requeue (grfBump s2 p (R.grfReplays p) 1) p id (fun t => { t with replays := t.replays + 1 })
      else taskFail (grfErr s2 p 8 code t.gid id) p id 2 code count
    else if code = 8 then requeue (grfBump s1 p (R.grfReplays p) 1) p id (fun t => t)
    else if code = 7 then
      if t.sus.isSome then taskFail s1 p id 2 code count
      else taskMod s1 p id (fun t => { t with place := .held, sus := some (h, true) })
    else taskFail s1 p id 2 code count

/-- A draining task that aborts with the running one is replayed and counts no replay (R300). -/
def pairRequeue (s : State) (p id code count : Nat) : State :=
  match taskGet s p id with
  | none => s
  | some t =>
    let failed := match graphGet s p t.gid with | some gr => decide (gr.status ≠ 0) | none => true
    let s1 := preemptCount (taskMod s p id (fun t => { t with lastAbort := code })) p id code
    if failed then taskFail s1 p id 2 code count else requeue s1 p id (fun t => t)

/-- The tasks of hearth `h` leave it, aborted with `code` (R307 steps 1 to 5). -/
def hearthStop (s : State) (h code : Nat) : State :=
  let x := hget s h
  let ts := x.cur.toList ++ x.drain.toList
  let owns := ts.map TaskRun.id
  let s1 := hput s h { enginesAbort x owns with cur := none, drain := none }
  ts.foldl (fun s t => runAbort s h t code) (slotsAbort s1 h owns)

/-- TASK_ABORT: the task of hearth `h` with this id aborts with `code`; where a draining and a running task overlap, both abort
(R300). -/
def hearthAbort (s : State) (h own code : Nat) : State :=
  let x := hget s h
  if !(x.cur.toList ++ x.drain.toList).any (fun t => t.id = own) then s
  else
    let s1 := hearthStop s h code
    let count (t : TaskRun) : Nat := coreNow s - t.start
    match x.cur, x.drain with
    | some t, some d => pairRequeue (taskAborted s1 t.part t.id h code (count t)) d.part d.id code (count d)
    | some t, none => taskAborted s1 t.part t.id h code (count t)
    | none, some d => taskAborted s1 d.part d.id h code (count d)
    | none, none => s1

/-- The aborts that became due in this command are taken (R307, R507): where two name one task, the first whose code is not
ABORT_WATCHDOG. -/
def settleAborts (s : State) : State :=
  let l := s.dueAborts
  let pick (a : Nat × Nat × Nat) : Nat :=
    match l.find? (fun b => b.1 = a.1 && b.2.1 = a.2.1 && b.2.2 ≠ 7) with | some b => b.2.2 | none => a.2.2
  l.foldl (fun s a => hearthAbort s a.1 a.2.1 (pick a)) { s with dueAborts := [] }

/-! Submission and cancellation (R284, R309). -/

/-- GRAPH_SUBMIT on a data queue pair. -/
def graphEnqueue (s : State) (p : Nat) (r : LoadReq) : State :=
  if 64 ≤ loadLen (gget s p) then recReject (grfErr s p 7 0 0 0) r.qp 9
  else gmod s p (fun g => { g with loadq := g.loadq ++ [r] })

/-- The GRAPH_ID in the header at an address. -/
def headerId (s : State) (p va : Nat) : Option Nat × State :=
  let v := vaGet s p va 64 false
  (v.1.map (fun bs => ghId (descBits bs)), v.2.2)

/-- The first queued load whose header carries a GRAPH_ID. -/
def loadqFind (s : State) (p gid : Nat) (l : List LoadReq) (i : Nat) : Option (Nat × LoadReq) × State :=
  match l with
  | [] => (none, s)
  | r :: rest =>
    let v := headerId s p r.va
    if v.1 = some gid then (some (i, r), v.2) else loadqFind v.2 p gid rest (i + 1)

/-- GRAPH_CANCEL: a graph in flight stops as R309 states; one still queued or loaded is removed with a CANCELLED record. -/
def graphCancelOp (s : State) (p gid : Nat) : State :=
  let g := gget s p
  if g.graphs.any (fun x => x.id = gid) then graphStop s p gid 3 0 0
  else
    match g.loaded with
    | some x =>
      if x.id = gid then graphClose (gmod s p (fun g => { g with loaded := none })) p { x with status := 3 }
      else
        let f := loadqFind s p gid g.loadq 0
        (match f.1 with
         | some (i, r) => graphClose (gmod f.2 p (fun g => { g with loadq := ldel g.loadq i })) p
             ⟨gid, r.qp, 0, false, none, 3, 0, 0, telNow s, [], [], [], r.mix, r.acc⟩
         | none => f.2)
    | none =>
      let f := loadqFind s p gid g.loadq 0
      match f.1 with
      | some (i, r) => graphClose (gmod f.2 p (fun g => { g with loadq := ldel g.loadq i })) p
          ⟨gid, r.qp, 0, false, none, 3, 0, 0, telNow s, [], [], [], r.mix, r.acc⟩
      | none => f.2

/-! Loading (R285). -/

/-- Successor ids of a descriptor and of the list at SUCC_VA. -/
def succIds (d : Nat) (tail : List Byte) : List Nat :=
  ((List.range (min 4 (tdNsucc d))).map (fun i => tdSucc d i)) ++
  ((List.range (tdNsucc d - 4)).map (fun i => leVal ((tail.drop (2 * i)).take 2)))

/-- What a load finds: descriptors and lists, or the STATUS that ends the graph. -/
def loadDescs (s : State) (p va n : Nat) : Except Nat (List (Nat × List Nat)) × State :=
  match n with
  | 0 => (.ok [], s)
  | n + 1 =>
    let v := vaGet s p va 128 false
    match v.1 with
    | none => (.error 7, v.2.2)
    | some bs =>
      let d := descBits bs
      if tdBad d then (.error 6, v.2.2)
      else
        let t := if tdNsucc d ≤ 4 then (some [], false, v.2.2) else vaGet v.2.2 p (tdSuccVa d) (2 * (tdNsucc d - 4)) false
        match t.1 with
        | none => (.error 7, t.2.2)
        | some tail =>
          let r := loadDescs t.2.2 p (va + 128) n
          match r.1 with
          | .error e => (.error e, r.2)
          | .ok l => (.ok ((d, succIds d tail) :: l), r.2)

/-- The multicast list. -/
def loadMcg (s : State) (p va n : Nat) : Except Nat (List Nat) × State :=
  match n with
  | 0 => (.ok [], s)
  | n + 1 =>
    let v := vaGet s p va 8 false
    match v.1 with
    | none => (.error 7, v.2.2)
    | some bs =>
      let e := leVal bs
      if mcgBad e then (.error 6, v.2.2)
      else
        let r := loadMcg v.2.2 p (va + 8) n
        match r.1 with
        | .error e => (.error e, r.2)
        | .ok l => (.ok (e :: l), r.2)

/-- Removes, round by round, the tasks whose predecessors are all gone: false when a cycle remains (R285). -/
def acyclic (l : List (Nat × Nat × List Nat)) (n : Nat) : Bool :=
  match n with
  | 0 => l.isEmpty
  | n + 1 =>
    let out := l.filter (fun e => e.2.1 = 0)
    if out.isEmpty then l.isEmpty
    else
      let dec := out.flatMap (fun e => e.2.2)
      acyclic ((l.filter (fun e => e.2.1 ≠ 0)).map (fun e => (e.1, e.2.1 - dec.count e.1, e.2.2))) n

/-- The checks of the graph as a whole (R285). -/
def graphWhole (l : List (Nat × List Nat)) (mcg : List Nat) : Bool :=
  let ids := l.map (fun e => tdId e.1)
  let succ := l.flatMap (fun e => e.2)
  let groups := mcg.map (fun e => bits e 40 8)
  ids.dedup.length = ids.length && succ.all (fun i => ids.contains i) &&
  l.all (fun e => tdDeps e.1 = succ.count (tdId e.1)) && groups.dedup.length = groups.length &&
  acyclic (l.map (fun e => (tdId e.1, tdDeps e.1, e.2))) l.length

/-- A graph ends at load with a status (R285). -/
def loadFail (s : State) (p : Nat) (r : LoadReq) (gid status t0 : Nat) : State :=
  let s1 := if status = 6 then grfErr s p 1 0 gid 0 else if status = 7 then grfErr s p 2 0 gid 0 else s
  graphClose s1 p ⟨gid, r.qp, 0, false, none, status, 0, 0, t0, [], [], [], r.mix, r.acc⟩

/-- GRAPH_LOAD: the engine reads and checks the graph at the head of the load queue, in the order of R285. -/
def graphLoadOp (s : State) (p : Nat) : State :=
  let g := gget s p
  match g.loaded, g.loadq with
  | none, r :: rest =>
    let t0 := telNow s
    let s0 := gput s p { g with loadq := rest }
    let v := vaGet s0 p r.va 64 false
    match v.1 with
    | none => loadFail v.2.2 p r 0 7 t0
    | some bs =>
      let hd := descBits bs
      let id := ghId hd
      if ghBad hd || r.va % 64 ≠ 0 then loadFail v.2.2 p r id 6 t0
      else
        let d := loadDescs v.2.2 p (ghTaskVa hd) (ghTasks hd)
        match d.1 with
        | .error e => loadFail d.2 p r id e t0
        | .ok l =>
          let m := loadMcg d.2 p (ghMcgVa hd) (ghMcgCount hd)
          match m.1 with
          | .error e => loadFail m.2 p r id e t0
          | .ok mcg =>
            if !graphWhole l mcg then loadFail m.2 p r id 6 t0
            else if (gget m.2 p).graphs.any (fun x => x.id = id) then loadFail m.2 p r id 8 t0
            else
              let want := if r.mix.isSome then r.after else if ghAfterEn hd then some (ghAfter hd) else none
              let after := want.bind (fun a => if (gget m.2 p).graphs.any (fun x => x.id = a) then some a else none)
              gmod m.2 p (fun g => { g with loaded := some ⟨id, r.qp, ghPrio hd, ghUrgent hd, after, 0, 0, 0, t0, r.dels, mcg, l, r.mix, r.acc⟩ })
  | _, _ => s

/-- Writes a multicast list entry into CHM_MCG_p_g of all four slices; the group starts anew (R205, R286). -/
def mcgSet (s : State) (p e : Nat) : State :=
  let g := bits e 40 8
  [0, 1, 2, 3].foldl (fun s sl =>
    let s1 := slMod s sl (fun x => { x with entries := x.entries.filter (fun y => !(y.part = p && y.group = g)) })
    wr s1 (R.chmMcgPG sl p g) (bits e 0 40)) { s with mcast := tdel s.mcast (mcKey p g) }

/-- GRAPH_ACTIVATE: the loaded graph takes its slots once no task in flight holds its TASK_IDs and no stream is a member of its
groups (R286). -/
def graphActivateOp (s : State) (p : Nat) : State :=
  match (gget s p).loaded with
  | none => s
  | some gr =>
    let ids := gr.tasks.map (fun e => tdId e.1)
    let busy := (gget s p).tasks.any (fun t => ids.contains t.id)
    let joined := gr.mcg.any (fun e => !(mcGet s p (bits e 40 8)).joined.isEmpty)
    if busy || joined then s
    else
      let s1 := gr.mcg.foldl (fun s e => mcgSet s p e) s
      let ts := (gr.tasks.zipIdx).map (fun z =>
        (⟨tdId z.1.1, gr.id, z.2, z.1.1, z.1.2, tdDeps z.1.1, .waiting, gr.prio, gr.urgent, 0, 0, 0, 0, 0, [], none, 0⟩ : Task))
      let s2 := gmod s1 p (fun g => { g with loaded := none, graphs := g.graphs ++ [{ gr with tasks := [], mcg := [] }],
                                             tasks := g.tasks ++ ts })
      readyUp s2 p gr.id

/-! Handle lists, schedules and programs (R289, R290, R296). -/

/-- The entries of a handle list. -/
def hlEntries (bs : List Byte) (n : Nat) : List Nat := (List.range n).map (fun i => leVal ((bs.drop (16 * i)).take 16))

/-- What R289 refuses in one entry of a handle list. -/
def hlEntBad (e : Nat) : Bool :=
  bits e 14 2 ≠ 0 || bits e 36 28 ≠ 0 || bits e 96 32 ≠ 0 || hlKind e = 3 || hlMem e = 3 || hlAction e = 3 ||
  hlLen e % 16 ≠ 0 || hlLen e = 0 || (hlKind e ≠ 0 && hlBuf e = 0) || (hlKind e = 2 && 9 < hlAlt e)

/-- What R289 refuses in a handle list. -/
def hlBad (es : List Nat) : Bool := (es.map hlHandle).dedup.length ≠ es.length || es.any hlEntBad

/-- The entries that placement considers (R293): a list is checked at binding only (R296), so until then an entry that R289 refuses,
or that names a handle twice, asks nothing of a hearth (DESIGN CHOICE, log 62). -/
def hlClean (es : List Nat) : List Nat :=
  (es.filter (fun e => !hlEntBad e)).foldl (fun l e => if (l.map hlHandle).contains (hlHandle e) then l else l ++ [e]) []

/-- Parses a schedule (R290): none when an issue word is bad or no entry carries END. -/
def schedParse (bs : List Byte) (n : Nat) : Option (List SchedEnt) :=
  match n with
  | 0 => none
  | n + 1 =>
    let w := leVal (bs.take 8)
    let size := bits w 32 2
    let len := if size = 1 then 32 else 128
    if bits w 35 29 ≠ 0 || size = 0 || size = 3 || bs.length < 8 + len then none
    else
      let e : SchedEnt := ⟨bits w 0 32, leVal ((bs.drop 8).take len), size⟩
      if bit w 34 then some [e] else (schedParse (bs.drop (8 + len)) n).map (fun l => e :: l)

/-- The issue cycles strictly increase and lie below TASK_CYCLES (R290). -/
def cyclesOk (l : List SchedEnt) (prev : Option Nat) (cycles : Nat) : Bool :=
  match l with
  | [] => true
  | e :: r => (match prev with | some c => decide (c < e.cycle) | none => true) && e.cycle < cycles && cyclesOk r (some e.cycle) cycles

/-- A task that carries an ATTEND entry breaks none of the conditions of R320. -/
def attOk (td : Nat) (l : List SchedEnt) : Bool :=
  match l with
  | [e] => e.cycle = 0 && e.size = 2 && !adBad e.desc && bits td 496 10 = 0 && tdHlistCount td = 0 && tdProgCount td = 0 &&
           !tdSem0En td && !tdSem1En td
  | _ => false

/-- Task-load rejection of one entry (R40, R78, R105, R111, R143, R290). -/
def entReject (td en : Nat) (progs : List Nat) (e : SchedEnt) : Bool :=
  match bits e.desc 0 8 with
  | 1 => e.size ≠ 1 || passReject e.desc en
  | 2 => e.size ≠ 2 || invReject e.desc progs (tdProgCount td)
  | 3 => e.size ≠ 1 || opBad e.desc
  | 4 => e.size ≠ 1 || opBad e.desc
  | 5 => e.size ≠ 1 || opBad e.desc
  | 6 => e.size ≠ 1 || bits e.desc 9 247 ≠ 0 || !(if bit e.desc 8 then tdSem1En td else tdSem0En td)
  | _ => true

/-- The load checks of a whole schedule. -/
def schedOk (td en : Nat) (progs : List Nat) (l : List SchedEnt) : Bool :=
  let rel := (l.filter (fun e => bits e.desc 0 8 = 6)).map (fun e => bit e.desc 8)
  tableOk progs (tdProgCount td) && cyclesOk l none (tdCycles td) && rel.dedup.length = rel.length &&
  (if l.any (fun e => bits e.desc 0 8 = 7) then attOk td l else !l.any (entReject td en progs))

/-- A task's schedule. -/
def schedRead (s : State) (p td : Nat) : Option (List SchedEnt) × State :=
  let v := vaGet s p (tdSchedVa td) (64 * tdSchedUnits td) false
  (v.1.bind (fun bs => schedParse bs (2 * tdSchedUnits td)), v.2.2)

/-- A task's programs, 32 words each. -/
def progsRead (s : State) (p td : Nat) : Option (List Nat) × State :=
  if tdProgCount td = 0 then (some [], s)
  else
    let v := vaGet s p (tdProgVa td) (128 * tdProgCount td) false
    (v.1.map (fun bs => (List.range (32 * tdProgCount td)).map (fun i => leVal ((bs.drop (4 * i)).take 4))), v.2.2)

/-! Eligibility and score (R293, R294). -/

/-- Does hearth `h` hold the buffer of an entry (R293). -/
def holds (s : State) (p h e : Nat) : Bool :=
  let sp := (hget s h).spd
  let v := hdl sp (hlHandle e)
  hdValid v && !hdOwned v && (gget s p).resid.contains (h, hlHandle e, hlBuf e) &&
  (hlKind e ≠ 2 || slotsFull sp (hdlSlots v))

/-- The lowest free range of `len` rows of memory `m`, inside no valid handle (R293). -/
def freeRange (sp : Scratch) (m len : Nat) : Option Nat :=
  let vs := (sp.handles.map (·.2)).filter (fun v => hdValid v && hdMem v = m)
  let ok (b : Nat) : Bool := b + len ≤ memRows m && vs.all (fun v => hdBase v + hdLen v ≤ b || b + len ≤ hdBase v)
  (0 :: vs.map (fun v => hdBase v + hdLen v)).foldl (fun acc b =>
    if ok b then (match acc with | some a => some (min a b) | none => some b) else acc) none

/-- Installs the entries of a list that are not held (R296 step 1): none where a handle is in use or no range is free. -/
def install1 (sp : Scratch) (own : Nat) (es : List Nat) : Option Scratch :=
  match es with
  | [] => some sp
  | e :: r =>
    if hdValid (hdl sp (hlHandle e)) then none
    else
      match freeRange sp (hlMem e) (hlLen e) with
      | none => none
      | some b => install1 (hdlPut sp (hlHandle e) (hdMake (hlMem e) (hlAccess e) (hlMode e) (hlAction e) b (hlLen e) own)) own r

/-- The entries to install on hearth `h`: NEW, and PREFER not held. -/
def toInstall (s : State) (p h : Nat) (es : List Nat) : List Nat :=
  es.filter (fun e => hlKind e = 0 || (hlKind e = 2 && !holds s p h e))

/-- Every semaphore that a task names has count enough (R293). -/
def semsOk (s : State) (p td : Nat) : Bool :=
  let l := tdSems td
  l.all (fun i => l.count i ≤ semGet s p i)

/-- All of R293 but the next-task slot. -/
def fitsHearth (s : State) (p h : Nat) (es : List Nat) : Bool :=
  let x := hget s h
  x.part = some p && !x.leaving && !x.inReset && !x.oos && !x.held &&
  es.all (fun e => hlKind e ≠ 1 || holds s p h e) && (install1 x.spd 0 (toInstall s p h es)).isSome

/-- The score of a hearth (R294). -/
def score (s : State) (p h : Nat) (es : List Nat) : Nat :=
  (es.map (fun e => if hlKind e ≠ 0 && holds s p h e then 64 * hlLen e else 0)).sum

/-- A candidate hearth with its score and whether it is idle; lists stand in ascending hearth index. -/
structure PlaceCand where
  h : Nat
  score : Nat
  idle : Bool
deriving DecidableEq, Repr

/-- The best candidate: highest score, then idle, then lowest index (R294). -/
def placeBest (l : List PlaceCand) : Option PlaceCand :=
  l.foldl (fun acc c =>
    match acc with
    | none => some c
    | some a => if a.score < c.score || (a.score = c.score && c.idle && !a.idle) then some c else acc) none

def placeCand (s : State) (p : Nat) (es : List Nat) (h : Nat) : PlaceCand := ⟨h, score s p h es, (hget s h).cur.isNone⟩

/-! Binding (R296). -/

/-- Streams of a task become next streams (R159, R288). -/
def streamsBind (x : Hearth) (td own off : Nat) (replay : Bool) (es : List Nat) : Hearth :=
  (es.filter (fun i => tdStreamEn td i)).foldl (fun x i =>
    let g := engGet x i
    let st := Stream.start own (tdStreamBase td + 64 * tdStreamOff td i) replay
    engPut x i (if off.testBit i then g else if g.next.isSome then { g with more := some st } else { g with next := some st, go := false })) x

/-- The bound copies of a handle list. -/
def boundOf (s : State) (p h : Nat) (es : List Nat) : List Bound :=
  es.map (fun e => ⟨hlHandle e, hlBuf e, hlAction e, (toInstall s p h es).contains e⟩)

/-- A held buffer becomes owned and takes the entry's ACCESS, MODE and DONE_ACTION. -/
def takeHeld (sp : Scratch) (own e : Nat) : Scratch :=
  let v := hdl sp (hlHandle e)
  hdlPut sp (hlHandle e) (hdMake (hdMem v) (hlAccess e) (hlMode e) (hlAction e) (hdBase v) (hdLen v) own)

/-- A placement with its score (R317). -/
def placeCount (s : State) (p sc : Nat) : State :=
  if 0 < sc then grfBump s p (R.grfPlaceAffine p) 1 else grfBump s p (R.grfPlaceOrder p) 1

/-- Binds a task to a hearth whose next-task slot is free: handles, semaphores, schedule, programs and streams. -/
def bindTask (s : State) (p h : Nat) (t : Task) (es : List Nat) (l : List SchedEnt) (progs : List Nat) (td : Nat) (plan : Option Plan) : State :=
  let x := hget s h
  let ins := toInstall s p h es
  let held := es.filter (fun e => !ins.contains e)
  let sp := held.foldl (fun sp e => takeHeld sp t.id e) ((install1 x.spd t.id ins).getD x.spd)
  let off := (held.filter (fun e => hlKind e = 2)).foldl (fun m e => m ||| (1 <<< hlAlt e)) 0
  let run : TaskRun := ⟨t.id, p, t.gid, td, l, progs, boundOf s p h es, tdSems td, 0, 0, 0, 0, srMix t.id (tdReplay td), 0, none,
    (match plan with | some _ => (l.headD ⟨0, 0, 0⟩).desc | none => 0), plan⟩
  let x1 := streamsBind { x with spd := sp, next := some run } td t.id off (0 < t.replays + t.preempts || t.lastAbort ≠ 0) (List.range 10)
  let sc := score s p h es
  let s1 := (tdSems td).foldl (fun s i => semDown s p i) (hput s h x1)
  placeCount (taskMod s1 p t.id (fun t => { t with place := .bound h, front := 0 })) p sc

/-- A task that fails its load checks, or whose plan cannot be made: INVALID_DESC (R296, R335). -/
def placeInvalid (s : State) (p : Nat) (t : Task) : State := taskFail (grfErr s p 3 0 t.gid t.id) p t.id 1 0 0

/-- Reads what binding reads, checks it, and binds (R296); a binding that fails its checks is a placement that is undone (R317). `bad`: what else makes the binding fail; 0 a handle list that could not be read or
breaks R289, above 0 the KIND of R335. -/
def bindOn (s : State) (p h : Nat) (t : Task) (es : List Nat) (bad : Option Nat) (plan : Option Plan) : State :=
  let sc := schedRead s p t.desc
  let bad_ := fun (u : State) => placeInvalid (grfBump (placeCount u p (score s p h es)) p (R.grfUnbinds p) 1) p t
  match sc.1 with
  | none => bad_ sc.2
  | some l =>
    match bad with
    | some 0 => bad_ sc.2
    | some k => bad_ (atnErr sc.2 p k (l.headD ⟨0, 0, 0⟩).desc t.id 0)
    | none =>
      let pr := progsRead sc.2 p t.desc
      match pr.1 with
      | none => bad_ pr.2
      | some progs =>
        if !schedOk t.desc (bits (rd s (R.mxaCtrl h)) 0 2) progs l then bad_ pr.2
        else
          let td := match plan, l with
            | some pl, e :: _ => setBits t.desc 224 32 (attCycles e.desc pl)
            | _, _ => t.desc
          bindTask pr.2 p h t es l progs td plan

/-! Placement (R294, R302, R303). -/

/-- Chooses a hearth and binds, or leaves the task ready: true when something was done. -/
def placeOn (s : State) (p : Nat) (t : Task) (hs es : List Nat) (bad : Option Nat) (plan : Option Plan) : Bool × State :=
  if es.any (fun e => hlKind e = 1) &&
      !(partHearths s p).any (fun h => es.all (fun e => hlKind e ≠ 1 || holds s p h e)) then
    (true, taskFail (grfErr s p 4 0 t.gid t.id) p t.id 4 0 0)
  else if !semsOk s p t.desc then (false, s)
  else
    let fit := hs.filter (fun h => fitsHearth s p h es)
    let free := fit.filter (fun h => (hget s h).next.isNone)
    let taken := fit.filter (fun h => (hget s h).next.isSome)
    match placeBest (free.map (placeCand s p es)) with
    | some b =>
      if taken.any (fun h => b.score < score s p h es) then (false, s) else (true, bindOn s p b.h t es bad plan)
    | none =>
      let low := taken.filter (fun h =>
        match (hget s h).next with | some n => ((taskGet s p n.id).map (fun k => decide (k.prio < t.prio))).getD false | none => false)
      match placeBest (low.map (placeCand s p es)) with
      | some b => (true, bindOn (unbind s b.h) p b.h t es bad plan)
      | none =>
        if !(bit (rd s (R.grfCtrl p)) 2 && t.urgent) then (false, s)
        else
          let weak (r : TaskRun) : Bool :=
            ((taskGet s p r.id).map (fun k => decide (k.prio < t.prio) && decide (k.preempts < grfPreemptMax s p))).getD false
          let after (h : Nat) : State :=
            match (hget s h).cur with
            | some c => hearthAbort (unbind s h) h c.id 8
            | none => s
          let cands := hs.filter (fun h =>
            let x := hget s h
            x.cur.isSome && (x.cur.toList ++ x.drain.toList).all weak && fitsHearth (after h) p h es)
          match placeBest (cands.map (fun h => ⟨h, score (after h) p h es, false⟩)) with
          | some b => (true, bindOn (after b.h) p b.h t es bad plan)
          | none => (false, s)

/-- A ready ATTEND task (R332, R335, R337): it waits for its group's plan, or is placed with the handles of R337; its binding fails
where R335 says so. -/
def placeAttend (s : State) (p : Nat) (t : Task) (hs : List Nat) (d : Nat) : Bool × State :=
  let g := gget s p
  let fail (kind : Nat) : Bool × State := placeOn s p t hs (attHandles d) (some kind) none
  match planOf g d with
  | some (_, pl) =>
    if pl.graph ≠ t.gid || pl.desc ≠ adGroup d then fail 8
    else if tdCycles t.desc < attCycles d pl then fail 3
    else placeOn s p t hs (attHandles d) none (some pl)
  | none =>
    match g.planReq with
    | some r =>
      if adId r.desc = adId d ∧ (r.graph ≠ t.gid ∨ adGroup r.desc ≠ adGroup d) then fail 8 else (false, s)
    | none =>
      match planSlot g with
      | none => (false, gmod s p (fun g => { g with planWait := if g.planWait.contains (t.id, d) then g.planWait else g.planWait ++ [(t.id, d)] }))
      | some _ => (false, gmod s p (fun g => { g with planReq := some ⟨t.id, t.gid, d⟩ }))

/-- One ready task is considered (R293–R296): true when it was bound or failed. -/
def placeOne (s : State) (p : Nat) (t : Task) : Bool × State :=
  let all := partHearths s p
  if tdFixed t.desc && all.length ≤ tdHearth t.desc then (true, taskFail (grfErr s p 5 0 t.gid t.id) p t.id 5 0 0)
  else
    let hs := if tdFixed t.desc then (all.drop (tdHearth t.desc)).take 1 else all
    let v := vaGet s p (tdHlistVa t.desc) (16 * tdHlistCount t.desc) false
    let all := hlEntries (v.1.getD []) (tdHlistCount t.desc)
    let bad := if v.1.isNone || hlBad all then some 0 else none
    let es := if v.1.isNone then [] else hlClean all
    let bare := bits t.desc 496 10 = 0 && tdHlistCount t.desc = 0 && tdProgCount t.desc = 0 && (tdSems t.desc).isEmpty
    if !bare then placeOn v.2.2 p t hs es bad none
    else
      let sc := schedRead v.2.2 p t.desc
      match sc.1 with
      | some [e] =>
        if bits e.desc 0 8 = 7 && schedOk t.desc 0 [] [e] then placeAttend sc.2 p t hs e.desc else placeOn sc.2 p t hs es bad none
      | _ => placeOn sc.2 p t hs es bad none

/-- Queue order of two ready tasks (R292): PRIO, requeues first, load order of their graphs, descriptor index. -/
def readyLess (g : GraphEng) (a b : Task) : Bool :=
  let ord (t : Task) : Nat := (lfind g.graphs (fun x => x.id = t.gid)).getD 0
  if a.prio ≠ b.prio then b.prio < a.prio
  else if a.front ≠ b.front then b.front < a.front
  else if ord a ≠ ord b then ord a < ord b
  else a.idx < b.idx

/-- Inserts a task in a ready queue. -/
def readyInsert (g : GraphEng) (t : Task) (l : List Task) : List Task :=
  match l with
  | [] => [t]
  | u :: r => if readyLess g t u then t :: u :: r else u :: readyInsert g t r

/-- The ready queue (R292). -/
def readyQueue (g : GraphEng) : List Task :=
  (g.tasks.filter (fun t => t.place = .ready)).foldl (fun acc t => readyInsert g t acc) []

/-- Tries the ready tasks in order until one is placed or fails. -/
def placeLoop (s : State) (p : Nat) (l : List Task) : State :=
  match l with
  | [] => s
  | t :: r =>
    match placeOne s p t with
    | (true, s1) => s1
    | (false, s1) => placeLoop s1 p r

/-- Tasks that are no longer ready wait for no plan slot. -/
def waitPrune (g : GraphEng) : GraphEng :=
  { g with planWait := g.planWait.filter (fun w => g.tasks.any (fun t => t.id = w.1 && t.place = .ready)) }

/-- TASK_PLACE. -/
def taskPlaceOp (s : State) (p : Nat) : State :=
  placeLoop (gmod s p waitPrune) p (readyQueue (gget s p))

/-! Start (R298). -/

/-- Finished streams of an engine leave it, and the stream of the running task becomes current; of another task's stream, when no task runs (R159).
While the draining task's stream has not finished, the running task's stay next: DESIGN CHOICE (log 58), where R159 lets an engine hold two
streams and R298 makes the second current at the start. -/
def engShift (x : Hearth) (e : Nat) (out : Stream → Bool) : Hearth :=
  let g := engGet x e
  let cur := g.cur.bind (fun st => if out st then none else some st)
  let turn := g.next.any (fun n => x.cur.all (fun t => t.id = n.own))
  if cur.isNone && turn then engPut x e { g with cur := g.next, next := g.more, more := none, go := false }
  else if cur = g.cur then x
  else engPut x e { g with cur := cur }

/-- The gate level of a hearth's firebox (R488, R489). -/
def gateLevel (s : State) (h : Nat) : Nat := rdf s (R.pwrFbStatusF (h / 64)) 32 6

/-- Does every condition of R298 hold for the hearth's next task. -/
def startOk (s : State) (h : Nat) : Bool :=
  let x := hget s h
  match x.next with
  | none => false
  | some t =>
    !grfStop s t.part && !retrainHold s && !s.stk.trip && !x.inReset && x.drain.isNone &&
    (match x.cur with
     | none => true
     | some c => c.sched.isEmpty && !tdLayerEnd c.desc && gateLevel s h = 0)

/-- A next task becomes the running task, and the running one drains (R137, R298). -/
def startRun (s : State) (h : Nat) (t : TaskRun) : State :=
  let x := hget s h
  let mine := x.spd.handles.filter (fun e => hdValid e.2 && hdOwned e.2 && hdOwner e.2 = t.id)
  let sp := slotsMod x.spd (mine.flatMap (fun e => hdlSlots e.2)) (fun k => { k with touched := false })
  let run := { t with cvt := 0, sat := 0, passSeq := 0, invSeq := 0, start := coreNow s, mark := none }
  let vec := if x.vec.stateOwn = t.id + 1 then { x.vec with stateOwn := 0 } else x.vec
  let x1 := { x with spd := sp, vec := vec, next := none, cur := some run, drain := x.cur }
  let x2 := (List.range 10).foldl (fun x e => engShift x e (fun st => st.own ≠ t.id && streamFinished x e st)) x1
  let g := gateLevel s h
  let s1 := if g = 0 then hput s h x2
    else
      let w := x.prevCycles * g / (64 - g)
      bump (bump (hput s h x2) (bit (rd s R.telCtrl) 0) (R.telHrtGateH h) w) (bit (rd s R.pwrCtrl) 1) (R.pwrFbGateCyclesF (h / 64)) w 64
  let s2 := taskMod s1 t.part t.id (fun k => { k with place := .running h, hearth := h })
  let s3 := match x.cur with
    | some c => taskMod s2 c.part c.id (fun k => { k with place := .draining h })
    | none => s2
  match t.mark with
  | some code => reqAbort s3 h t.id code
  | none => s3

/-- TASK_START. -/
def taskStartOp (s : State) (h : Nat) : State :=
  match (hget s h).next with
  | none => s
  | some t => if startOk s h then startRun s h t else s

/-- SEMREL: the running task's next schedule entry releases a semaphore (R304). -/
def semrelOp (s : State) (h : Nat) : State :=
  match schedTake s h [6] with
  | none => s
  | some (t, d, s1) =>
    let i := if bit d 8 then tdSem1 t.desc else tdSem0 t.desc
    if !t.sems.contains i then s1
    else semUp (hmod s1 h (fun x => { x with cur := x.cur.map (fun r => { r with sems := r.sems.erase i }) })) t.part i t.graph t.id

/-! Completion (R291, R299, R301). -/

/-- No array, engine or operation unit holds work of a task. -/
def workDone (x : Hearth) (own : Nat) : Bool :=
  let arr (r : MxArray) : Bool := r.q.all (fun p => p.own ≠ own) && r.outs.all (fun o => o.own ≠ own)
  arr x.mx.a0 && arr x.mx.a1 && x.vec.q.all (fun i => i.own ≠ own) && x.vec.outs.all (fun o => o.own ≠ own) &&
  (x.spd.op0.q ++ x.spd.op1.q ++ x.spd.op2.q).all (fun o => o.own ≠ own)

/-- Every stream of a task has finished. -/
def streamsDone (x : Hearth) (own : Nat) : Bool :=
  (List.range 10).all (fun e =>
    let g := engGet x e
    (g.cur.toList ++ g.next.toList ++ g.more.toList).all (fun st => st.own ≠ own || streamFinished x e st))

/-- The layer drain: arrays, vector engine and operation units idle (R301). -/
def layerDone (x : Hearth) : Bool :=
  let arr (r : MxArray) : Bool := r.q.isEmpty && r.outs.isEmpty && r.set0.st = 0 && r.set1.st = 0
  arr x.mx.a0 && arr x.mx.a1 && x.vec.q.isEmpty && x.vec.outs.isEmpty && x.spd.op0.q.isEmpty && x.spd.op1.q.isEmpty && x.spd.op2.q.isEmpty

/-- R299 and R301 for a task of the hearth. -/
def completes (x : Hearth) (t : TaskRun) : Bool :=
  t.sched.isEmpty && workDone x t.id && streamsDone x t.id && (!tdLayerEnd t.desc || layerDone x)

/-- The handles of a hearth that a task owns (R132). -/
def ownedBy (sp : Scratch) (own : Nat) : List Nat :=
  (sp.handles.filter (fun e => hdValid e.2 && hdOwned e.2 && hdOwner e.2 = own)).map (·.1)

/-- DONE_ACTION of every handle the task owns (R142), with the residency map (R295); a completed task ends the wait of R149. -/
def doneActions (s : State) (p h own : Nat) (bufs : List Bound) : State :=
  (ownedBy (hget s h).spd own).foldl (fun s i =>
    let x := hget s h
    let v := hdl x.spd i
    let act := hdAction v
    let e := if act = 0 then (x, 0) else emptySlots x (hdlSlots v) slotEmpty true
    let v' := if act = 2 then setBits v 0 1 0 else setBits v 1 1 0
    let s1 := wasted (hput s h { e.1 with spd := hdlPut e.1.spd i v' }) h e.2
    let buf := ((bufs.find? (fun b => b.handle = i)).map Bound.buf).getD 0
    gmod s1 p (fun g =>
      let l := g.resid.filter (fun r => !(r.1 = h && r.2.1 = i))
      { g with resid := if act = 2 || buf = 0 then l else l ++ [(h, i, buf)] }))
    (hmod s h (fun x => { x with spd := { x.spd with ues := [] } }))

/-- The counters of a task's successors are decremented in order (R291 step 4). -/
def succDown (s : State) (p gid : Nat) (l : List Nat) : State :=
  readyUp (l.foldl (fun s i => taskMod s p i (fun t => if t.gid = gid then { t with deps := t.deps - 1 } else t)) s) p gid

/-- Verdict HEARTH or INTERFERENCE of a suspect that completes (R516). -/
def verdict (s : State) (p : Nat) (t : Task) : State :=
  match t.sus with
  | none => s
  | some (h, own) => if soleHearth s p || !own then
      logErr s R.errUnitLog R.errUnitCount (fieldAt 8 4 4 + fieldAt 16 8 h + fieldAt 24 4 p + fieldAt 32 16 t.id)
    else reqFault s h .verdict

/-- A task of hearth `h` completes (R291). -/
def complete (s : State) (h : Nat) (r : TaskRun) (t : Task) (gr : Graph) : State :=
  let p := r.part
  let s1 := doneActions s p h r.id r.bufs
  let x := hget s1 h
  let out (o : Option TaskRun) : Option TaskRun := o.bind (fun u => if u.id = r.id then none else some u)
  let vec := { x.vec with tq := x.vec.tq.filter (fun e => e.own ≠ r.id), resv := x.vec.resv.filter (fun e => e.own ≠ r.id) }
  let x1 := { x with cur := out x.cur, drain := out x.drain, vec := vec, prevCycles := tdCycles r.desc }
  let x2 := (List.range 10).foldl (fun x e => engShift x e (fun st => st.own = r.id)) x1
  let s2 := hput s1 h x2
  let s3 := if tdCrEn t.desc then recPush s2 gr.qp (taskRec t 0 (r.cvt + 32 * r.sat) (coreNow s - r.start)) else s2
  let s4 := taskDrop (grfBump s3 p (R.grfTasksDone p) 1) p t.id
  let s5 := if gr.status = 0 then succDown s4 p t.gid t.succ else s4
  let s6 := if r.att = 0 then s5 else gmod s5 p (fun g => planLeave g t.gid r.att)
  graphLeave (verdict s6 p t) p t.gid

/-- TASK_COMPLETE of the running or the draining task of hearth `h`; one that still holds a semaphore is aborted with
ABORT_SEM_HELD (R305). A task whose record finds the pending queue full waits (R427). -/
def taskCompleteOp (s : State) (h : Nat) (draining : Bool) : State :=
  let x := hget s h
  match (if draining then x.drain else x.cur) with
  | none => s
  | some r =>
    if !completes x r then s
    else if !r.sems.isEmpty then reqAbort s h r.id 12
    else
      match taskGet s r.part r.id with
      | none => s
      | some t =>
        match graphGet s r.part t.gid with
        | none => s
        | some gr => if tdCrEn t.desc && !recRoom s gr.qp then s else complete s h r t gr

/-- TASK_ABORT of the running or the draining task with a code of R18. -/
def taskAbortOp (s : State) (h : Nat) (draining : Bool) (code : Nat) : State :=
  let x := hget s h
  match (if draining then x.drain else x.cur) with
  | none => s
  | some r => if code = 0 || 14 < code then s else reqAbort s h r.id code

/-! The planner (R332). -/

/-- The length table of a group: none where it cannot be read. -/
def ltRead (s : State) (p d : Nat) : Option (List Nat) × State :=
  let v := vaGet s p (adLt d) (32 * adSeqs d) false
  (v.1.map (fun bs => (List.range (adSeqs d)).map (fun i => leVal ((bs.drop (32 * i)).take 32))), v.2.2)

/-- ATTEND_PLAN: the planner reads the length table and makes the plan, or the binding that waits for it fails (R335). -/
def attendPlanOp (s : State) (p : Nat) : State :=
  let g := gget s p
  match g.planReq with
  | none => s
  | some r =>
    let s0 := gput s p { g with planReq := none }
    match taskGet s p r.task, planSlot g with
    | some t, some i =>
      let l := ltRead s0 p r.desc
      (match l.1 with
       | none => placeInvalid (atnErr l.2 p 9 r.desc t.id 0) p t
       | some es =>
         match planMake r.graph r.desc es with
         | .error (kind, ent) => placeInvalid (atnErr l.2 p kind r.desc t.id ent) p t
         | .ok pl =>
           let s1 := gmod l.2 p (fun g => { g with plans := tput g.plans i pl })
           atnBump (atnBump (atnBump s1 p (R.atnGroups p) 1) p (R.atnUnits p) pl.units) p (R.atnSplitJobs p) pl.splits)
    | _, _ => s0

/-! Step mixing (R312–R315). -/

/-- Has a mix item a nonzero reserved field (R312). -/
def mixReserved (d : Nat) : Bool := bits d 3 13 ≠ 0 || bits d 29 3 ≠ 0 || bits d 144 112 ≠ 0

/-- What makes a mix item a bad command (R312, R423). -/
def mixBad (d : Nat) : Bool :=
  mxKind d = 3 || mixReserved d ||
  (mxKind d ≠ 2 && (mxRows d = 0 || 512 < mxRows d)) || (mxKind d = 0 && mxList d % 8 ≠ 0)

/-- MIX_POST on a data queue pair. An item with a nonzero reserved field is a bad command, too (R423, R435). -/
def mixPostOp (s : State) (q p item : Nat) : State :=
  if mixReserved item then recReject (hstErr s 4 q 0) q 1
  else if mixBad item then recReject s q 1
  else if 1024 ≤ (gget s p).mixq.length then recReject (grfErr s p 7 0 0 0) q 9
  else gmod s p (fun g => { g with mixq := g.mixq ++ [⟨q, item⟩] })

/-- DECODE items taken ahead of the CLOSE (R314): rows so far, items taken, items left. -/
def mixDecode (l : List MixItem) (rows max : Nat) (stop : Bool) : Nat × List MixItem × List MixItem :=
  match l with
  | [] => (rows, [], [])
  | i :: r =>
    if mxKind i.bits ≠ 0 then let x := mixDecode r rows max stop; (x.1, x.2.1, i :: x.2.2)
    else if stop || max < rows + mxRows i.bits then let x := mixDecode r rows max true; (x.1, x.2.1, i :: x.2.2)
    else let x := mixDecode r (rows + mxRows i.bits) max false; (x.1, i :: x.2.1, x.2.2)

/-- A PREFILL item with its first `n` rows taken. -/
def mixCut (i : MixItem) (n : Nat) : MixItem × MixItem :=
  ({ i with bits := setBits i.bits 16 13 n },
   { i with bits := setBits (setBits i.bits 16 13 (mxRows i.bits - n)) 64 32 ((mxStart i.bits + n) % 2 ^ 32) })

/-- PREFILL items taken (R314). -/
def mixPrefill (l : List MixItem) (rows target max : Nat) (stop : Bool) : Nat × List MixItem × List MixItem :=
  match l with
  | [] => (rows, [], [])
  | i :: r =>
    if mxKind i.bits ≠ 1 || stop || target ≤ rows then let x := mixPrefill r rows target max stop; (x.1, x.2.1, i :: x.2.2)
    else
      let n := mxRows i.bits
      let part := 32 * ((target - rows) / 32)
      if rows + n ≤ target then let x := mixPrefill r (rows + n) target max false; (x.1, i :: x.2.1, x.2.2)
      else if mxSplit i.bits && 32 ≤ target - rows then
        let c := mixCut i part
        let x := mixPrefill r (rows + part) target max false
        (x.1, c.1 :: x.2.1, c.2 :: x.2.2)
      else if rows + n ≤ max then let x := mixPrefill r (rows + n) target max false; (x.1, i :: x.2.1, x.2.2)
      else let x := mixPrefill r rows target max true; (x.1, x.2.1, i :: x.2.2)

/-- A row-table record (R315). -/
def mixRow (ref pos : Nat) (valid prefill : Bool) : List Byte :=
  leBytes 16 (fieldAt 0 32 ref + fieldAt 32 32 pos + fieldAt 64 1 (b1 valid) + fieldAt 65 1 (b1 prefill))

/-- The rows of the items taken; a DECODE list that cannot be read leaves the rows it would give open. -/
def mixRows (s : State) (p : Nat) (l : List MixItem) : List (List Byte) × State :=
  match l with
  | [] => ([], s)
  | i :: r =>
    let here := if mxKind i.bits = 1 then
        ((List.range (mxRows i.bits)).map (fun k => mixRow (mxSeq i.bits) (mxStart i.bits + k) true true), s)
      else
        let v := vaGet s p (mxList i.bits) (8 * mxRows i.bits) false
        (match v.1 with
         | some bs => ((List.range (mxRows i.bits)).map (fun k =>
             mixRow (leVal ((bs.drop (8 * k)).take 4)) (leVal ((bs.drop (8 * k + 4)).take 4)) true false), v.2.2)
         | none => (List.range (mxRows i.bits)).foldl (fun acc _ =>
             let f := freeBits acc.2 64
             (acc.1 ++ [mixRow (bits f.1 0 32) (bits f.1 32 32) true false], f.2)) ([], v.2.2))
    let rest := mixRows here.2 p r
    (here.1 ++ rest.1, rest.2)

/-- The present variant of the smallest class that holds `rows`, from class `c` on: class, header and row-table addresses (R313). -/
def mixVariant (s : State) (p bank rows c n : Nat) : Option (Nat × Nat × Nat) × State :=
  match n with
  | 0 => (none, s)
  | n + 1 =>
    if 32 * (c + 1) < rows then mixVariant s p bank rows (c + 1) n
    else
      let v := vaGet s p (bits (rd s (R.grfMixTable p)) 0 48 + 16 * (16 * bank + c)) 16 false
      match v.1 with
      | some bs =>
        let e := leVal bs
        if bits e 0 48 = 0 then mixVariant v.2.2 p bank rows (c + 1) n else (some (c, bits e 0 48, bits e 64 48), v.2.2)
      | none => mixVariant v.2.2 p bank rows (c + 1) n

/-- MIX_STEP_FORM (R314, R315). -/
def mixStepOp (s : State) (p : Nat) : State :=
  let g := gget s p
  let cfg := rd s (R.grfMixCfg p)
  match lfind g.mixq (fun i => mxKind i.bits = 2) with
  | none => s
  | some at_ =>
    let close := (lget g.mixq at_).getD ⟨0, 0⟩
    if !bit cfg 26 || g.mixHalt || g.mixRun.any (fun e => (e.1 + 2) % 2 ^ 32 = g.step) then s
    else
      let ahead := g.mixq.take at_
      let behind := g.mixq.drop (at_ + 1)
      let dec := mixDecode ahead 0 (bits cfg 13 13) false
      let pre := mixPrefill dec.2.2 dec.1 (bits cfg 0 13) (bits cfg 13 13) false
      if pre.1 = 0 then gput s p { g with mixq := ahead ++ behind }
      else
        let v := mixVariant s p (g.step % 2) pre.1 0 16
        match v.1 with
        | none => grfErr (gmod v.2 p (fun g => { g with mixHalt := true })) p 9 0 0 0
        | some (c, hva, rva) =>
          let items := dec.2.1 ++ pre.2.1
          let rows := mixRows v.2 p items
          let cap := 32 * (c + 1)
          let pad := cap - pre.1
          let table := (rows.1 ++ List.replicate pad (mixRow 0 0 false false)).flatten
          let w := vaPut rows.2 p rva table
          let id := headerId w.2 p hva
          let gid := id.1.getD 0
          let s1 := gmod id.2 p (fun g => { g with mixq := pre.2.2 ++ behind, step := (g.step + 1) % 2 ^ 32,
                                                   mixRun := g.mixRun ++ [(g.step, gid)], mixLast := some gid })
          let s2 := grfBump (grfBump s1 p (R.grfMixSteps p) 1) p (R.grfMixPadRows p) pad
          let s3 := recPush s2 close.qp ⟨4, gid, g.step % 65536, 0, 0, 0, 0, 0, 0, pre.1 + fieldAt 16 13 items.length, 0, none, none⟩
          let s4 := graphEnqueue s3 p ⟨close.qp, hva, [], some g.step, g.mixLast, none⟩
          if 64 ≤ loadLen (gget s3 p) then
            gmod s4 p (fun g' => { g' with mixRun := g'.mixRun.filter (fun e => e.1 ≠ g.step) })
          else s4

/-- GRF_MIX_TABLE_WRITE: ignored while a mixed step is in flight (R317); clears HALT (R318). -/
def mixTableOp (s : State) (p va : Nat) : State :=
  let g := gget s p
  if !g.mixRun.isEmpty || va % 16 ≠ 0 || 2 ^ 48 ≤ va then s
  else wr (gput s p { g with mixHalt := false }) (R.grfMixTable p) va

end Sys2Proof.Machine
end

