-- ==== Sys2Proof/Machine/Attend.lean ====
section
/-!
DEFINITION. The ATTEND phases on a hearth (11): token rows (R325–R327), segment partials and their fold (R329–R331), records (R336).
A phase runs as one command: its gathers, products and writes are composed of whole reads and writes of partition memory, through the TLB of
the hearth and the walker of its base die (R255–R258). Between commands bellows 0 and flues 0 and 1 therefore hold no stream of ATTEND (log 25).
-/

namespace Sys2Proof.Machine

/-! Writes with copy-on-write (R270, R327, R419). -/

/-- A write inside one page; a page with COW = 1 is copied first and its writer's old translation shot down. The copy waits for the update
unit to be within no copy and no REKEY page (R260). The first component is none, or the abort code that refuses the write. -/
def putPage (s : State) (die p va : Nat) (data : List Byte) : Option Nat × State :=
  let w := vaPutAt s die p va data
  match w.1 with
  | .ok => (none, w.2)
  | .fault => (some 4, w.2)
  | .prot => (some 4, w.2)
  | .ue => (some 5, w.2)
  | .cowWait =>
    let vpn := va / 65536 % 2 ^ 32
    let c := cowWhole w.2 p vpn
    if (xlGet w.2 p).cowRun.isSome || (xlGet w.2 p).rk.isSome then (none, hold w.2)
    else if c.1 = 8 then (some 11, c.2.2)
    else if c.1 = 11 then (some 5, c.2.2)
    else if c.1 ≠ 1 then (some 4, c.2.2)
    else
      let s1 := if c.2.1.isEmpty then c.2.2 else sdStart c.2.2 p .cow c.2.1 []
      let w2 := vaPutAt s1 die p va data
      (if w2.1 = .ok then none else some 4, w2.2)

/-- A write of any length, page by page. -/
def putPages (s : State) (die p va : Nat) (data : List Byte) (n : Nat) : Option Nat × State :=
  match n with
  | 0 => (none, s)
  | n + 1 =>
    if data.isEmpty then (none, s)
    else
      let part := min data.length (65536 - va % 65536)
      let w := putPage s die p va (data.take part)
      match w.1 with
      | some c => (some c, w.2)
      | none => putPages w.2 die p (va + part) (data.drop part) n

def putCow (s : State) (p va : Nat) (data : List Byte) : Option Nat × State := putPages s 0 p va data (pageFuel data.length)

/-! Layout (R322, R324, R325). -/

/-- The start of layer LAYER of a sequence (R324). -/
def layerVa (d kv cap : Nat) : Nat := kv + adLayer d * 65536 * cdiv (cap * adTb d) 65536

/-- Vector `v` of a token row: keys of head v below HEADS_KV, values of head v − HEADS_KV above (R325). -/
def tokCode (d row v k : Nat) : Nat := if adF4 d then bits row (512 * v + 4 * k) 4 else bits row (1024 * v + 8 * k) 8

/-- The scale code of element `k` of vector `v`; 127, a factor of 1, for KV-F8. -/
def tokScale (d row v k : Nat) : Nat :=
  if adF4 d then
    let b := if v < adH d then 4 * v + k / 32 else 32 + 4 * (v - adH d) + k / 32
    bits row (8 * (128 * adH d + b)) 8
  else 127

/-- Format codes of the cached vectors, of Q and of P (R322, R329). -/
def kvFmt (d : Nat) : Nat := if adF4 d then 9 else 3
def qFmt (d : Nat) : Nat := if adBf d then 2 else 3

/-! APPEND (R326, R327). -/

/-- A block of 32 elements converted: element codes, scale codes, flags. -/
structure NewBlk where
  codes : List Nat
  scales : List Nat
  flags : CvtFlags
deriving DecidableEq, Repr

/-- One block converted from draw `ctr` on, and the draw counter after it. -/
def appendBlk (d seed ctr : Nat) (src : List Nat) : NewBlk × Nat :=
  if adF4 d then let y := qntBlock 9 (adSr d) seed ctr src; (⟨y.1, [y.2.1], y.2.2.1⟩, y.2.2.2)
  else let y := cvtList 0 3 (adSr d) seed ctr src; (⟨y.1, [], y.2.1⟩, y.2.2)

/-- Inserts a block in an order of conversion. -/
def orderInsert (d b : Nat) (l : List Nat) : List Nat :=
  match l with
  | [] => [b]
  | c :: r => if Config.appendOrder d b < Config.appendOrder d c then b :: c :: r else c :: orderInsert d b r

/-- The order in which an APPEND task converts its `n` blocks (log 8): every order is one of `Config.appendOrder`'s; under RNE no draw is
taken, and the order shows nowhere. -/
def blockOrder (d n : Nat) : List Nat := if adSr d then (List.range n).foldl (fun l b => orderInsert d b l) [] else List.range n

/-- The blocks `order` of the FP32 rows `new`, converted one after another: the draw counter starts at 0 and rises by 1 with each draw (R67). -/
def appendBlks (d seed ctr : Nat) (new : List Byte) (order : List Nat) : Tbl NewBlk × Nat :=
  order.foldl (fun acc b =>
    let y := appendBlk d seed acc.2 ((List.range 32).map (fun k => leVal ((new.drop (128 * b + 4 * k)).take 4)))
    (tput acc.1 b y.1, y.2)) ([], ctr)

/-- A token row of its 8H blocks, keys then values in head order (R325): bytes and flags. -/
def tokenRow (d : Nat) (ys : List NewBlk) : List Byte × CvtFlags :=
  let w := if adF4 d then 4 else 8
  let pack (cs : List Nat) : List Byte := leBytes (4 * w) (cs.zipIdx.foldl (fun a z => a + fieldAt (w * z.2) w z.1) 0)
  let codes := ys.flatMap (fun y => pack y.codes)
  let sc (l : List NewBlk) : List Byte :=
    let b := l.flatMap (fun y => y.scales.map (fun c => (BitVec.ofNat 8 c : Byte)))
    b ++ List.replicate (32 - b.length) 0
  (if adF4 d then codes ++ sc (ys.take (4 * adH d)) ++ sc (ys.drop (4 * adH d)) else codes, ys.foldl (fun f y => f ||| y.flags) 0)

/-- A TLB miss of an ATTEND task's request: a walk by the walker of the hearth's base die fills the TLB, or its fault is recorded and the task
aborts (R256, R258). -/
def attWalk (s : State) (h p vpn own eng : Nat) (wr : Bool) : Option TlbEnt × State :=
  let w := agWalk (xltBump s p (R.xltTlbMissH p h) 1) (h / 64) p (65536 * vpn)
  let fault := walkFault w.2 ⟨h, p, ⟨vpn, own, eng, 0, wr, false⟩⟩
  match w.1 with
  | .invalid => (none, fault 1 4)
  | .ue => (none, fault 5 5)
  | .leaf e _ _ =>
    if wr && !leW e && !leCow e then (none, fault 2 4)
    else (some (tlbMake vpn p e), hmod w.2 h (fun x => tlbFill x (tlbMake vpn p e)))

/-- The translation of an ATTEND task's request (R255–R258): the entry that its page has in the hearth's TLB, or its abort. -/
def attXlate (s : State) (h p vpn own eng : Nat) (wr : Bool) : Option TlbEnt × State :=
  match tlbLook s h p vpn with
  | (none, s1) => attWalk s1 h p vpn own eng wr
  | (some t, s1) => if !wr || t.w || t.cow then (some t, s1) else attWalk (tlbDrop s1 h p vpn) h p vpn own eng wr

/-- A phase reads the rows of handle `hd` by a read port (R156: 0 the tile loader, 6 the vector engine's LD): the read passes through the decoder,
where an armed injection fires (R147, R578). Which row of the handle is read then is a free value (log 25). False when the task aborts. -/
def attDecode (s : State) (h own port hd : Nat) : State × Bool :=
  match injKind s 3 h with
  | none => (s, true)
  | some _ =>
    let v := hdl (hget s h).spd hd
    let r := freeBits s 16
    spdInject r.2 h own port (hdMem v) (hdBase v + r.1 % max 1 (hdLen v))

/-- A read for an ATTEND task, page by page: the data, or the task's abort (R175, R258). -/
def attRead (s : State) (h p own eng va len n : Nat) : Option (List Byte) × State :=
  match n with
  | 0 => (some [], s)
  | n + 1 =>
    if len = 0 then (some [], s)
    else
      let part := min len (65536 - va % 65536)
      let t := attXlate s h p (va / 65536 % 2 ^ 32) own eng false
      match t.1 with
      | none => (none, t.2)
      | some e =>
        let r := agRead t.2 p e.k (65536 * e.frame + va % 65536) part true
        if r.ue then (none, engFail r.st h eng 5 5 own 0)
        else
          let rest := attRead r.st h p own eng (va + part) (len - part) n
          (rest.1.map (fun d => r.data ++ d), rest.2)

/-- A read for an ATTEND task: the data, or the task's abort; a range of a failed collective entry aborts it with the entry's code (R404). -/
def attGet (s : State) (h p own eng va len : Nat) : Option (List Byte) × State :=
  match colFailAt s p va len with
  | some code => (none, engAbort s h own code)
  | none => attRead s h p own eng va len (pageFuel len)

/-- Requests of a range: one for each 2 KiB granule it meets (R163). -/
def granuleCount (va len : Nat) : Nat := if len = 0 then 0 else (va + len - 1) / 2048 - va / 2048 + 1

/-- What flue 0 brings in for an ATTEND task (R337) counts as a flue's (R182): requests and bytes. -/
def attIn (s : State) (h va len : Nat) : State :=
  fluBump (fluBump s h (R.fluBytesInF h 0) len 64) h (R.fluReqs h) (granuleCount va len)

/-- What bellows 0 gathers for an ATTEND task (R337): elements and bytes (R188). -/
def attGather (s : State) (h elems len : Nat) : State :=
  blwBump (blwBump s h (R.blwElemsB h 0) elems) h (R.blwBytesB h 0) len 64

/-- The tiles that ATTEND's own descriptors make of what flues 0 and 1 move: the spec gives these descriptors no TILES, so their number is a
free value (log 25). -/
def attTiles (s : State) (h : Nat) : State :=
  let a := freeBits s 48
  let b := freeBits a.2 48
  fluBump (fluBump b.2 h (R.fluTilesF h 0) a.1) h (R.fluTilesF h 1) b.1

/-- A page of an ATTEND task's write, by flue 1: with COW = 1 it is copied first and its writer's translation shot down (R270), which waits for the
update unit to be within no copy and no REKEY page (R260). False when the write was refused: the refusal is recorded as for any hearth's write. -/
def attPage (s : State) (h p own va : Nat) (data : List Byte) : Bool × State :=
  let vpn := va / 65536 % 2 ^ 32
  let put := fun (s : State) (e : TlbEnt) => agWrite s p e.k (65536 * e.frame + va % 65536) data false
  let t := attXlate s h p vpn own 1 true
  match t.1 with
  | none => (false, t.2)
  | some e =>
    if e.w then (true, put t.2 e)
    else if (xlGet t.2 p).cowRun.isSome || (xlGet t.2 p).rk.isSome then (true, hold t.2)
    else
      let c := cowWhole t.2 p vpn
      if c.1 ≠ 1 then (false, cowRefuse c.2.2 p c.1 ⟨h, 1, own, vpn, 0⟩)
      else
        let s1 := if c.2.1.isEmpty then c.2.2 else sdStart c.2.2 p .cow c.2.1 []
        let u := attXlate (tlbDrop s1 h p vpn) h p vpn own 1 true
        match u.1 with
        | none => (false, u.2)
        | some e => (true, put u.2 e)

/-- A write of any length, page by page. -/
def attWrite (s : State) (h p own va : Nat) (data : List Byte) (n : Nat) : Bool × State :=
  match n with
  | 0 => (true, s)
  | n + 1 =>
    if data.isEmpty then (true, s)
    else
      let part := min data.length (65536 - va % 65536)
      let w := attPage s h p own va (data.take part)
      if w.1 then attWrite w.2 h p own (va + part) (data.drop part) n else w

/-- A write for an ATTEND task, by flue 1 (R337); false when it was refused and the task aborts, or when it has to wait (R392). -/
def attPut (s : State) (h p own : Nat) (va : Nat) (data : List Byte) : Bool × State :=
  match colFailAt s p va data.length with
  | some code => (false, engAbort s h own code)
  | none =>
    if colHold s p va data.length then (false, hold s)
    else
      let w := attWrite s h p own va data (pageFuel data.length)
      if w.1 then (true, fluBump (colCount w.2 p va data.length) h (R.fluBytesOutF h 1) data.length 64) else w

/-- Reads the FP32 rows of a share (R322), up to the first that faults. -/
def appendRead (s : State) (h : Nat) (t : TaskRun) (l : List (Nat × Nat)) : List Byte × State :=
  match l with
  | [] => ([], s)
  | (e, k) :: r =>
    let d := t.att
    let va := adNew d + (ltQidx e + k) * adH d * 1024
    let src := attGet s h t.part t.id 0 va (adH d * 1024)
    match src.1 with
    | none => ([], src.2)
    | some bs =>
      match attDecode (attIn src.2 h va (adH d * 1024)) h t.id 6 57 with
      | (s1, false) => ([], s1)
      | (s1, true) => let x := appendRead s1 h t r; (bs ++ x.1, x.2)

/-- Writes the token rows of a share from the `i`-th on, as far as they were read (R327). -/
def appendWrite (s : State) (h : Nat) (t : TaskRun) (l : List (Nat × Nat)) (ys : Tbl NewBlk) (i : Nat) : State :=
  match l with
  | [] => s
  | (e, k) :: r =>
    let d := t.att
    match (List.range (8 * adH d)).mapM (fun b => tget ys (8 * adH d * i + b)) with
    | none => s
    | some bs =>
      let y := tokenRow d bs
      let pos := ltKeys e - ltRows e + k
      let w := attPut (hmod s h (fun x => setCvt x t.id y.2)) h t.part t.id (layerVa d (ltKv e) (ltCap e) + pos * adTb d) y.1
      if w.1 then appendWrite (atnBump w.2 t.part (R.atnAppendTokens t.part) 1) h t r ys (i + 1) else w.2

/-- Reads, converts and writes the tokens of a share; the task's draw counter stands behind its last draw (R67, R327). -/
def appendTokens (s : State) (h : Nat) (t : TaskRun) (l : List (Nat × Nat)) : State :=
  let src := appendRead s h t l
  let y := appendBlks t.att t.seed 0 src.1 (blockOrder t.att (src.1.length / 128))
  let s1 := hmod src.2 h (fun x => if x.vec.q.isEmpty then { x with vec := { x.vec with draw := y.2, stateOwn := t.id + 1 } } else x)
  appendWrite s1 h t l y.1 0

/-! WORK (R328–R331). -/

/-- A segment partial (R329). -/
structure SegPart where
  m : W32
  l : W32
  o : List W32
deriving DecidableEq, Repr

def negInf : W32 := 0xFF800000#32

/-- One operation of the vector engine on FP32 values (R114, R117). -/
def f32op (op : Nat) (a b c : W32) : W32 := BitVec.ofNat 32 (arith op false 0 a.toNat b.toNat c.toNat)

/-- The score of a query row against a token (R329). -/
def attScore (d hk : Nat) (q : List Nat) (row : Nat) : W32 :=
  add32 0 (dotFloat ((List.range 128).map (fun k =>
    product (qFmt d) (kvFmt d) 127 (tokScale d row hk k) (q.getD k 0) (tokCode d row hk k))))

/-- P · V for element `k`: one array sum per key tile, in ascending order (R329, R331). -/
def attPv (d hk k : Nat) (tiles : List (List (Nat × Nat))) : W32 :=
  tiles.foldl (fun acc t => add32 acc (dotFloat (t.map (fun e =>
    product (qFmt d) (kvFmt d) 127 (tokScale d e.2 (adH d + hk) k) e.1 (tokCode d e.2 (adH d + hk) k))))) 0

/-- Lists of at most 128. -/
def tiles128 {α : Type} (n : Nat) (l : List α) : List (List α) :=
  match n with
  | 0 => []
  | n + 1 => if l.isEmpty then [] else l.take 128 :: tiles128 n (l.drop 128)

/-- The partial of one row over a segment whose real keys have token rows `ks` from position `j0` (R329), with its flags. -/
def segPart (d hk p j0 : Nat) (q ks : List Nat) : SegPart × CvtFlags :=
  let sm : W32 := BitVec.ofNat 32 (adScale d)
  let ts := ks.zipIdx.map (fun z => if adCausal d && p < j0 + z.2 then negInf else f32op 0x0A (attScore d hk q z.1) sm 0)
  let m := reduce max32 negInf ts
  if m = negInf then (⟨negInf, 0, List.replicate 128 0⟩, 0)
  else
    let es := ts.map (fun t => f32op 0x18 (f32op 0x09 t m 0) 0 0)
    let l := reduce add32 0x80000000#32 es
    let ps := es.map (fun e => convert (qFmt d) none (v32 e))
    let tiles := tiles128 8 ((ps.map (·.1)).zip ks)
    (⟨m, l, (List.range 128).map (fun k => attPv d hk k tiles)⟩, ps.foldl (fun f y => f ||| y.2) 0)

/-- A row's running state before its first segment (R329). -/
def rowStart : SegPart := ⟨negInf, 0, List.replicate 128 0⟩

/-- Folds a segment partial into a row (R329); a segment whose m is −infinity leaves it unchanged. -/
def rowFold (r g : SegPart) : SegPart :=
  if g.m = negInf then r
  else
    let m2 := f32op 0x0C r.m g.m 0
    let a := f32op 0x18 (f32op 0x09 r.m m2 0) 0 0
    let b := f32op 0x18 (f32op 0x09 g.m m2 0) 0 0
    ⟨m2, f32op 0x0B g.l b (f32op 0x0A r.l a 0), (r.o.zip g.o).map (fun z => f32op 0x0B z.2 b (f32op 0x0A z.1 a 0))⟩

/-- The BF16 output of a row, and its flags (R329). -/
def rowOut (r : SegPart) : List Byte × CvtFlags :=
  let ys := r.o.map (fun o => convert 2 none (v32 (f32op 0x13 o r.l 0)))
  (ys.flatMap (fun y => leBytes 2 y.1), ys.foldl (fun f y => f ||| y.2) 0)

/-- A record (R336). -/
def partBytes (g : SegPart) : List Byte :=
  g.o.flatMap (fun w => leBytes 4 w.toNat) ++ leBytes 4 g.m.toNat ++ leBytes 4 g.l.toNat ++ List.replicate 56 0

/-- A segment partial from its record. -/
def partOf (bs : List Byte) : SegPart :=
  let w (i : Nat) : W32 := BitVec.ofNat 32 (leVal ((bs.drop (4 * i)).take 4))
  ⟨w 128, w 129, (List.range 128).map w⟩

/-- The token rows of positions `j0` to `j1` − 1 out of a unit's gathered bytes that begin at position `base`. -/
def tokRows (d base j0 j1 : Nat) (bs : List Byte) : List Nat :=
  (List.range (j1 - j0)).map (fun i => leVal ((bs.drop ((j0 + i - base) * adTb d)).take (adTb d)))

/-- The query codes of a head of a row (R322). -/
def queryCodes (d q : Nat) (bs : List Byte) : List Nat :=
  let w := if adBf d then 2 else 1
  (List.range 128).map (fun k => leVal ((bs.drop ((q * 128 + k) * w)).take w))

/-- The partials of one row over the segments of a unit, in ascending order. -/
def rowParts (d hk p : Nat) (j : AttJob) (u : AttUnit) (q : List Nat) (bs : List Byte) : List (SegPart × CvtFlags) :=
  (List.range (u.g1 - u.g0)).map (fun i =>
    let g := u.g0 + i
    segPart d hk p (1024 * g) q (tokRows d (1024 * u.g0) (1024 * g) (min j.kend (1024 * (g + 1))) bs))

/-- Writes the records of a row of a split job from segment `g` on. -/
def recordsPut (s : State) (h : Nat) (t : TaskRun) (base rj r g : Nat) (l : List SegPart) : Bool × State :=
  match l with
  | [] => (true, s)
  | x :: rest =>
    let w := attPut s h t.part t.id (adPart t.att + 576 * (base + g * rj + r)) (partBytes x)
    if w.1 then recordsPut (atnBump w.2 t.part (R.atnPartBytes t.part) 576 64) h t base rj r (g + 1) rest else w

/-- The rows of one token of a unit, head after head: outputs of an unsplit job, records of a piece (R336). -/
def unitHeads (s : State) (h : Nat) (t : TaskRun) (j : AttJob) (u : AttUnit) (bs qb : List Byte) (tok : Nat) (l : List Nat) : Bool × State :=
  match l with
  | [] => (true, s)
  | q :: rest =>
    let d := t.att
    let p := j.keys - j.qrows + j.t0 + tok
    let ps := rowParts d (q / adG d) p j u (queryCodes d q qb) bs
    let fl := ps.foldl (fun f y => f ||| y.2) 0
    let done : Bool × State :=
      match j.split with
      | some base => recordsPut (hmod s h (fun x => setCvt x t.id fl)) h t base (jobRows d j) (tok * adHq d + q) u.g0 (ps.map (·.1))
      | none =>
        let o := rowOut ((ps.map (·.1)).foldl rowFold rowStart)
        attPut (hmod s h (fun x => setCvt x t.id (fl ||| o.2))) h t.part t.id (adO d + (j.qidx + j.t0 + tok) * adHq d * 256 + q * 256) o.1
    if done.1 then unitHeads done.2 h t j u bs qb tok rest else done

/-- The rows of a unit, token after token: each token's Q row is brought in once. -/
def unitRows (s : State) (h : Nat) (t : TaskRun) (j : AttJob) (u : AttUnit) (bs : List Byte) (l : List Nat) : Bool × State :=
  match l with
  | [] => (true, s)
  | tok :: rest =>
    let d := t.att
    let len := adHq d * 128 * (if adBf d then 2 else 1)
    let va := adQ d + (j.qidx + j.t0 + tok) * len
    let qr := attGet s h t.part t.id 0 va len
    match qr.1 with
    | none => (false, qr.2)
    | some qb =>
      let done := unitHeads (attIn qr.2 h va len) h t j u bs qb tok (List.range (adHq d))
      if done.1 then unitRows done.2 h t j u bs rest else done

/-- A WORK task's units, back to back (R334). -/
def workUnits (s : State) (h : Nat) (t : TaskRun) (jobs : List AttJob) (us : List AttUnit) : State :=
  match us with
  | [] => s
  | u :: r =>
    match lget jobs u.job with
    | none => workUnits s h t jobs r
    | some j =>
      let d := t.att
      let fin := 32 * cdiv (min j.kend (1024 * u.g1)) 32
      let len := (fin - 1024 * u.g0) * adTb d
      let kv := attGet s h t.part t.id 8 (layerVa d j.kv j.cap + 1024 * u.g0 * adTb d) len
      match kv.1 with
      | none => kv.2
      | some bs =>
        let s0 := fluBump (attGather kv.2 h (len / (32 * adTb d)) len) h (R.fluReqs h) (len / 2048)
        let s1 := atnBump (atnBump s0 t.part (R.atnKvBytes t.part) len 64) t.part (R.atnKeyTiles t.part) (segTiles j u.g0 u.g1)
        match attDecode s1 h t.id 0 56 with
        | (s2, false) => s2
        | (s2, true) =>
          let x := unitRows s2 h t j u bs (List.range j.toks)
          if x.1 then workUnits x.2 h t jobs r else x.2

/-! MERGE (R334, R336). -/

/-- Folds the records of one item from segment `g` on. -/
def mergeRow (s : State) (h : Nat) (t : TaskRun) (base rj r g n : Nat) (acc : SegPart) : Option SegPart × State :=
  match n with
  | 0 => (some acc, s)
  | n + 1 =>
    let v := attGet s h t.part t.id 8 (adPart t.att + 576 * (base + g * rj + r)) 576
    match v.1 with
    | none => (none, v.2)
    | some bs =>
      match attDecode (atnBump (attGather v.2 h 1 576) t.part (R.atnMergeSegs t.part) 1) h t.id 6 56 with
      | (s1, false) => (none, s1)
      | (s1, true) => mergeRow s1 h t base rj r (g + 1) n (rowFold acc (partOf bs))

/-- The items of a MERGE task. -/
def mergeItemsRun (s : State) (h : Nat) (t : TaskRun) (l : List (AttJob × Nat)) : State :=
  match l with
  | [] => s
  | (j, r) :: rest =>
    let d := t.att
    let v := mergeRow s h t (j.split.getD 0) (jobRows d j) r 0 (jobSegs j) rowStart
    match v.1 with
    | none => v.2
    | some acc =>
      let o := rowOut acc
      let step := j.qidx + j.t0 + r / adHq d
      let w := attPut (hmod v.2 h (fun x => setCvt x t.id o.2)) h t.part t.id (adO d + step * adHq d * 256 + (r % adHq d) * 256) o.1
      if w.1 then mergeItemsRun w.2 h t rest else w.2

/-! The three commands. -/

/-- The running ATTEND task whose entry is in the given phase issues it. -/
def attTake (s : State) (h phase : Nat) : Option (TaskRun × Plan × State) :=
  match (hget s h).cur with
  | none => none
  | some r =>
    if r.att = 0 || adPhase r.att ≠ phase then none
    else
      match schedTake s h [7], r.plan with
      | some (t, _, s1), some pl => some (t, pl, s1)
      | _, _ => none

/-- ATTEND_APPEND. -/
def attendAppendOp (s : State) (h : Nat) : State :=
  match attTake s h 0 with
  | none => s
  | some (t, pl, s1) => attTiles (appendTokens s1 h t (appendShare t.att pl.ents (adIndex t.att))) h

/-- ATTEND_WORK. The slots of handles 56 to 62 are as the binding left them: the spec names no event of ATTEND's own transfers that changes them
(DESIGN CHOICE, log 25). -/
def attendWorkOp (s : State) (h : Nat) : State :=
  match attTake s h 1 with
  | none => s
  | some (t, pl, s1) => attTiles (workUnits s1 h t pl.jobs (pl.work.getD (adIndex t.att) [])) h

/-- ATTEND_MERGE. -/
def attendMergeOp (s : State) (h : Nat) : State :=
  match attTake s h 2 with
  | none => s
  | some (t, pl, s1) => attTiles (mergeItemsRun s1 h t (mergeShare t.att pl (adIndex t.att))) h

/-- The due check of a key tile of a WORK task (R168, R337): it has not been gathered while the phase has not run. -/
def attDue (s : State) (h e tile : Nat) : State :=
  match (hget s h).cur with
  | none => s
  | some r =>
    match r.plan with
    | none => s
    | some pl =>
      let us := pl.work.getD (adIndex r.att) []
      let tiles := (us.map (fun u => ((lget pl.jobs u.job).map (fun j => segTiles j u.g0 u.g1)).getD 0)).sum
      if e = 8 && r.att ≠ 0 && adPhase r.att = 1 && !r.sched.isEmpty && tile < tiles then engFail s h 8 2 6 r.id tile else s

end Sys2Proof.Machine
end

