-- ==== Sys2Proof/Machine/Packet.lean ====
section
/-!
DEFINITION. Fabric packets: flits (R349, R350), the routing header (R374), logical ports (R359, R361, R370), routing
(R379–R383), and the damper's cut of a send flow (R485, R486).
-/

namespace Sys2Proof.Machine

def lkGet (s : State) (n : Nat) : Link := tgetD s.links n .reset
def lkPut (s : State) (n : Nat) (x : Link) : State := { s with links := tput s.links n x }
def lkMod (s : State) (n : Nat) (f : Link → Link) : State := lkPut s n (f (lkGet s n))
def portGet (s : State) (p : Nat) : Port := tgetD s.ports p .reset
def portMod (s : State) (p : Nat) (f : Port → Port) : State := { s with ports := tput s.ports p (f (portGet s p)) }

def lkBump (s : State) (n : Nat) (r : Reg) (k : Nat) : State := bump s (bit (rd s (R.lnkCtrl n)) 0) r k
def fabBump (s : State) (r : Reg) (k : Nat) : State := bump s (bit (rd s R.fabCtrl) 0) r k
def telBump (s : State) (r : Reg) (k : Nat) (w : Nat := 48) : State := bump s (bit (rd s R.telCtrl) 0) r k w

/-- FAB_ERR_LOG (R406). -/
def fabErr (s : State) (kind port dev vc slice : Nat) : State :=
  logErr s R.fabErrLog R.fabErrCount
    (fieldAt 8 4 kind + fieldAt 12 5 port + fieldAt 24 16 dev + fieldAt 40 5 vc + fieldAt 45 12 slice)

/-! Flits. -/

/-- `n`-byte pieces of a list. -/
def pieces (n : Nat) (l : List Byte) : List (List Byte) :=
  (List.range (cdiv l.length n)).map (fun i => (l.drop (n * i)).take n)

/-- A flit header (R349). -/
def flitHdr (vc : Nat) (sop eop abort : Bool) (valid : Nat) : Nat :=
  vc % 32 + fieldAt 5 1 (b1 sop) + fieldAt 6 1 (b1 eop) + fieldAt 7 1 (b1 abort) + fieldAt 8 8 valid

/-- A packet's flits: 248 body bytes in every flit but the last (R349). -/
def flitsOf (vc : Nat) (body : List Byte) : List Flit :=
  let ps := pieces 248 body
  (List.range ps.length).map (fun i =>
    let b := ps.getD i []
    ⟨flitHdr vc (i = 0) (i + 1 = ps.length) false b.length, b⟩)

/-- The EOP flit that ends a packet void (R349, R363). -/
def stompFlit (vc : Nat) : Flit := ⟨flitHdr vc false true true 1, [0]⟩

def flEop (f : Flit) : Bool := bit f.hdr 6
def flAbort (f : Flit) : Bool := bit f.hdr 7
def flSop (f : Flit) : Bool := bit f.hdr 5
def flValid (f : Flit) : Nat := bits f.hdr 8 8
def onVc (vc : Nat) (f : Flit) : Flit := { f with hdr := setBits f.hdr 0 5 vc }

/-- The body bytes of a packet. -/
def bodyOf (fs : List Flit) : List Byte := fs.flatMap (fun f => f.body.take (flValid f))

/-! The routing header (R374). -/

def hB (h : List Byte) (i n : Nat) : Nat := beVal ((h.drop i).take n)
def phType (h : List Byte) : Nat := bits (hB h 0 1) 0 4
def phFlags (h : List Byte) : Nat := hB h 1 1
def phEsc (h : List Byte) : Bool := bit (phFlags h) 7
def phAlt (h : List Byte) : Bool := bit (phFlags h) 6
def phEnc (h : List Byte) : Bool := bit (phFlags h) 5
def phKslot (h : List Byte) : Nat := bits (phFlags h) 4 1
def phBackup (h : List Byte) : Bool := bit (phFlags h) 3
def phDst (h : List Byte) : Nat := hB h 2 2
def phSrc (h : List Byte) : Nat := hB h 4 2
def phSlice (h : List Byte) : Nat := bits (hB h 6 2) 4 12
def phGroup (h : List Byte) : Nat := bits (hB h 6 2) 0 4
def phDpart (h : List Byte) : Nat := bits (hB h 8 1) 4 4
def phSpart (h : List Byte) : Nat := bits (hB h 8 1) 0 4
def phHops (h : List Byte) : Nat := hB h 9 1
def phSeq (h : List Byte) : Nat := hB h 10 6
def phKind (h : List Byte) : Nat := hB h 16 1
def phColl (h : List Byte) : Nat := hB h 17 1
def phRank (h : List Byte) : Nat := bits (hB h 18 2) 0 12
def phEpoch (h : List Byte) : Nat := hB h 20 4
def phBucket (h : List Byte) : Nat := hB h 24 2
def phOff (h : List Byte) : Nat := hB h 26 4
def phPlen (h : List Byte) : Nat := hB h 30 2

/-- Bytes 0 to 15 of a routing header with VER = 1; `tail` is bytes 16 to 31. -/
def mkHdr (ty flags dst src slice group dpart spart hops seq : Nat) (tail : List Byte) : List Byte :=
  beBytes 1 (16 + ty) ++ beBytes 1 flags ++ beBytes 2 dst ++ beBytes 2 src ++ beBytes 2 (16 * slice + group)
    ++ beBytes 1 (16 * dpart + spart) ++ beBytes 1 hops ++ beBytes 6 seq ++ tail

def setByte (h : List Byte) (i v : Nat) : List Byte := lset h i (BitVec.ofNat 8 v)
def setAlt (h : List Byte) : List Byte := setByte h 1 (setBits (phFlags h) 6 1 1)
def setEsc (h : List Byte) : List Byte := setByte h 1 (setBits (phFlags h) 7 1 1)

/-- The first flit with its routing header replaced. -/
def rehead (h : List Byte) (fs : List Flit) : List Flit :=
  match fs with
  | [] => []
  | f :: r => { f with body := h ++ f.body.drop 32 } :: r

/-! Logical ports. -/

def ownDev (s : State) : Nat := rdf s R.fabAddr 0 16
def lkPort (s : State) (n : Nat) : Nat := rdf s (R.lnkCfg n) 8 5
def portLinks (s : State) (p : Nat) : List Nat := (List.range 18).filter (fun n => bit (rd s (R.lnkPortCfgP p)) n)
def portOn (s : State) (p : Nat) : Bool := bit (rd s (R.lnkPortCfgP p)) 20

/-- Links UP in a port (R370). -/
def portLive (s : State) (p : Nat) : List Nat := (portLinks s p).filter (fun n => (lkGet s n).st = 2)
def portWidth (s : State) (p : Nat) : Nat := (portLive s p).length

/-- FAB_ADJ_p.STATE: 0 unused, 1 ACTIVE, 2 MISMATCH, 3 LOST. -/
def adjState (s : State) (p : Nat) : Nat := rdf s (R.fabAdjP p) 22 2
def portActive (s : State) (p : Nat) : Bool := adjState s p = 1

/-- Flits waiting to be sent on a link. -/
def txWaiting (x : Link) : Nat := (x.txq.map (fun q => q.flits.length)).sum

/-- The live link with the fewest flits waiting, the lowest number on a tie (R361). -/
def pickLink (s : State) (l : List Nat) : Option Nat :=
  l.foldl (fun acc n =>
    match acc with
    | none => some n
    | some m => if txWaiting (lkGet s n) < txWaiting (lkGet s m) then some n else some m) none

/-- The slice whose packet region holds a link's receive pool (R210, R361): links 0–4, 5–8, 9–13 and 14–17. -/
def linkSlice (n : Nat) : Nat := if n < 5 then 0 else if n < 9 then 1 else if n < 14 then 2 else 3

/-- Flits of the outbound staging of a slice (R210): 1,088, 3,328, 2,112 and 3,328 KiB, 256 bytes a flit. -/
def stagingFlits (sl : Nat) : Nat := if sl = 0 then 4352 else if sl = 2 then 8448 else 13312

/-- Flits of the device's own packets that a slice's outbound staging holds. -/
def stagingUse (s : State) (sl : Nat) : Nat :=
  (s.links.map (fun e => ((e.2.txq.filter (fun q => q.stage = some sl)).map (fun q => q.flits.length)).sum)).sum

/-- Has the staging of the link that a packet of `k` flits would take by a port room for it (R210). -/
def stagingRoom (s : State) (p k : Nat) : Bool :=
  match pickLink s (portLive s p) with
  | none => true
  | some n => stagingUse s (linkSlice n) + k ≤ stagingFlits (linkSlice n)

/-- The slice that stages a packet of this device sent by a port: that of the link which the packet will take. -/
def stageOf (s : State) (p : Nat) : Option Nat := (pickLink s (portLive s p)).map linkSlice

/-- A packet joins the queue of one live link of its port (R361). -/
def txPut (s : State) (p : Nat) (q : TxPkt) : State :=
  match pickLink s (portLive s p) with
  | none => s
  | some n => lkMod s n (fun x => { x with txq := x.txq ++ [q] })

/-! Torus geometry (R371, R376, R380, R381). -/

def topoKind (s : State) : Nat := rdf s R.fabTopo 0 2
def topoSize (s : State) (d : Nat) : Nat := rdf s R.fabTopo (4 + 4 * d) 4 + 1
def coord (a d : Nat) : Nat := bits a (4 * d) 4

/-- The port opposite to a torus port. -/
def oppPort (p : Nat) : Nat := if p % 2 = 0 then p + 1 else p - 1

/-- Does leaving by torus port `p` cross its dimension's dateline. -/
def wrapHop (s : State) (p : Nat) : Bool :=
  let c := coord (ownDev s) (p / 2)
  if p % 2 = 0 then c + 1 = topoSize s (p / 2) else c = 0

/-- The escape VC of a hop, `base` 24 or 26 (R381, R382): the second from the dateline's crossing to the end of the dimension. -/
def escVc (s : State) (base : Nat) (inPort : Option Nat) (vcIn out : Nat) : Nat :=
  if topoKind s ≠ 1 then (if vcIn = base + 1 then base + 1 else base)
  else if wrapHop s out then base + 1
  else if inPort.any (fun p => p / 2 = out / 2) && vcIn = base + 1 then base + 1
  else base

/-- The torus route to a device (R380): PRIMARY port, and ALT when valid. -/
def torusRoute (s : State) (dst : Nat) : Option (Nat × Option Nat) :=
  let own := ownDev s
  match [0, 1, 2].find? (fun d => coord own d ≠ coord dst d) with
  | none => none
  | some d =>
    let n := topoSize s d
    let delta := (coord dst d + n - coord own d) % n
    let p := if delta ≤ n - delta then 2 * d else 2 * d + 1
    let a := oppPort p
    some (p, if 2 ≤ n && portActive s a then some a else none)

/-- Is a device address inside the declared torus. -/
def inTorus (s : State) (a : Nat) : Bool := [0, 1, 2].all (fun d => coord a d < topoSize s d)

/-- FAB_ROUTE_d as R380 computes it. -/
def routeWord (s : State) (d : Nat) : Nat :=
  if !inTorus s d then 0
  else
    match torusRoute s d with
    | none => 0
    | some (p, a) => p + 32 + (match a with | none => 0 | some q => fieldAt 8 5 q + fieldAt 13 1 1)

/-- For a torus, the Stoker computes every route again (R380, R405). -/
def routesAgain (s : State) : State :=
  if topoKind s ≠ 1 then s
  else (List.range 4096).foldl (fun t d => wr t (R.fabRouteD d) (routeWord s d)) s

/-! Routing (R379). -/

/-- A route for a packet: a port with a VC and the header as it leaves, or a drop (1 VC_MISMATCH, 3 NO_ROUTE). -/
inductive Route where
  | out (port vc : Nat) (hdr : List Byte) (alt : Bool)
  | drop (why : Nat)
deriving DecidableEq, Repr

/-- Does FAB_VCMAP_v assign a data VC to the header's SLICE and GROUP (R373). -/
def vcOwns (s : State) (vc : Nat) (h : List Byte) : Bool :=
  let m := rd s (R.fabVcmapV vc)
  bit m 0 && bits m 4 12 = phSlice h && bits m 16 4 = phGroup h

/-- The PRIMARY and ALT ports of a destination, where usable. -/
def primaryOf (s : State) (d : Nat) : Option Nat :=
  let r := rd s (R.fabRouteD d)
  if d < 4096 && bit r 5 && portActive s (bits r 0 5) then some (bits r 0 5) else none
def altOf (s : State) (d : Nat) : Option Nat :=
  let r := rd s (R.fabRouteD d)
  if d < 4096 && bit r 13 && portActive s (bits r 8 5) then some (bits r 8 5) else none

/-- The VC on which a packet leaves by its PRIMARY (R379 step 4, R382). -/
def primaryVc (s : State) (inPort : Option Nat) (vc out : Nat) : Nat :=
  if vc = 24 || vc = 25 then escVc s 24 inPort vc out else vc

/-- A packet that already has ALT = 1 (R381). -/
def routeAlt (s : State) (inPort : Option Nat) (vc : Nat) (h : List Byte) : Route :=
  let go := fun p => Route.out p (escVc s 26 inPort vc p) h false
  if topoKind s ≠ 1 then
    match altOf s (phDst h) with
    | some p => go p
    | none => .drop 3
  else
    match inPort with
    | none => .drop 3
    | some q =>
      if coord (ownDev s) (q / 2) ≠ coord (phDst h) (q / 2) then
        (if portActive s (oppPort q) then go (oppPort q) else .drop 3)
      else
        match primaryOf s (phDst h) with
        | some p => go p
        | none => match altOf s (phDst h) with
          | some p => go p
          | none => .drop 3

/-- Steps 3 to 5 of R379 for a packet that arrived by `inPort` (none: its own) on `vc`. -/
def routeOf (s : State) (inPort : Option Nat) (vc : Nat) (h : List Byte) : Route :=
  if vc < 24 && !vcOwns s vc h then .drop 1
  else if phAlt h then routeAlt s inPort vc h
  else
    match primaryOf s (phDst h) with
    | some p => .out p (primaryVc s inPort vc p) h false
    | none =>
      match altOf s (phDst h) with
      | some p => .out p (escVc s 26 none vc p) (setAlt h) true
      | none => .drop 3

/-- A drop is counted and logged (R379, R406). -/
def dropCount (s : State) (why port vc : Nat) (h : List Byte) : State :=
  let s1 := if why = 1 then fabBump s R.fabVcMismatch 1 else if why = 2 then fabBump s R.fabTtlDrop 1 else fabBump s R.fabNoRoute 1
  fabErr s1 why port (phSrc h) vc (phSlice h)

/-! The damper at the source (R486). -/

def dmpCfg (s : State) (lo len : Nat) : Nat := rdf s R.telDmpCfg lo len

/-- A cut of a rate R in MB/s, from `start` when unlimited. -/
def rateCut (s : State) (limit start dec : Nat) : Nat :=
  max (100 * rdf s R.telDmpLim 0 8) ((if limit = 0 then start else limit) * (256 - dec) / 256)

/-- Does the last cut, at this TEL_TIME, lie no more than CUT_US in the past. -/
def cutRecent (s : State) (at_ : Option Nat) : Bool := at_.any (fun t => telNow s ≤ t + 1600 * dmpCfg s 20 8)

/-- The rate of a device's outbound port, 100 GB/s a live link. -/
def flowRate (s : State) (dev : Nat) : Nat :=
  match (primaryOf s dev).or (altOf s dev) with
  | some p => 100000 * portWidth s p
  | none => 100000

/-- A RATE packet's effect on the send flows (R486). -/
def rateApply (s : State) (slice group spart dec dev : Nat) : State :=
  let s1 := telBump s R.telRateRecv 1
  let hit := fun (f : SendFlow) =>
    let m := rd s (R.fabVcmapV f.vc)
    f.vc < 24 && f.spart = spart && f.dev = dev && bit m 0 && bits m 4 12 = slice && bits m 16 4 = group
  if !s.sflows.any hit then telBump s1 R.telRateNoflow 1
  else
    let cut := fun (f : SendFlow) => hit f && !cutRecent s f.cutAt
    let s2 := telBump s1 R.telRateCuts (s.sflows.filter cut).length
    { s2 with sflows := s.sflows.map (fun f =>
        if cut f then { f with limit := rateCut s f.limit (flowRate s dev) dec, cutAt := some (telNow s) } else f) }

/-- Bytes 16 to 31 of a RATE packet (R485). -/
def rateTail (s : State) (dst port : Nat) : List Byte :=
  beBytes 1 1 ++ beBytes 1 (dmpCfg s 12 8) ++ beBytes 2 dst ++ beBytes 2 (ownDev s) ++ beBytes 1 port ++ [0] ++ beBytes 8 (telNow s)

/-- RATE packets queued at a port. -/
def rateQueued (s : State) (p : Nat) : Nat :=
  ((portLinks s p).map (fun n => ((lkGet s n).txq.filter (fun q => q.vc = 30 && q.src = none)).length)).sum

/-- Has the VC of a link credit for one more flit (R357). -/
def owed (x : Link) (vc : Nat) : Nat := (tgetD x.sent vc 0 + 4096 - tgetD x.cc vc 0) % 4096
def credit (x : Link) (vc : Nat) : Bool :=
  owed x vc < 32 || (owed x vc < 1056 && ((List.range 32).map (fun u => owed x u - 32)).sum < 3328)

/-- Is a header that of a RATE packet, which is never sampled (R485). -/
def isRate (h : List Byte) : Bool := phType h = 3 && hB h 16 1 = 1

/-- A RATE packet to the source of a sampled packet (R485). One that the outbound staging has no room for is dropped as one that its queue has no
room for (log 41). -/
def rateSend (s : State) (port : Nat) (h : List Byte) : State :=
  if phSrc h = ownDev s then rateApply s (phSlice h) (phGroup h) (phSpart h) (dmpCfg s 12 8) (phDst h)
  else
    let r := mkHdr 3 0 (phSrc h) (ownDev s) (phSlice h) (phGroup h) 0 (phSpart h) (rdf s R.fabE2eCfg 32 8) 0 (rateTail s (phDst h) port)
    match routeOf s none 30 r with
    | .drop _ => telBump s R.telRateDrop 1
    | .out p vc h' _ =>
      if 64 ≤ rateQueued s p || (portLive s p).all (fun n => !credit (lkGet s n) vc) || !stagingRoom s p 1 then telBump s R.telRateDrop 1
      else
        let s1 := telBump { s with nextPkt := s.nextPkt + 1 } R.telRateSent 1
        txPut (owe s1 (oweKey 2 (16 * port + 8)) (b1 (!bit (rd s R.telCtrl) 0))) p
          ⟨s.nextPkt, vc, flitsOf vc h', true, none, false, phSrc h, stageOf s p, false⟩

/-- A packet leaves by a port: it is queued, and sampled while the port is congested (R484). -/
def portSend (s : State) (p : Nat) (h : List Byte) (q : TxPkt) : State :=
  let s1 := txPut s p q
  let x := portGet s1 p
  if x.cong && q.vc ≤ 27 && !isRate h then
    let s2 := portMod s1 p (fun x => { x with cnt := x.cnt + 1 })
    if (x.cnt + 1) % 2 ^ dmpCfg s 8 4 = 0 then rateSend s2 p h else s2
  else s1

/-- A packet of this device is sent by the route in force: its flits, or a drop that is recovered end to end (R388). It waits while the
outbound staging has no room for it (R210). -/
def sendOwn (s : State) (vc : Nat) (h body : List Byte) : State :=
  match routeOf s none vc h with
  | .drop w => dropCount s w 0 vc h
  | .out p vc' h' alt =>
    let fs := flitsOf vc' (h' ++ body)
    if !stagingRoom s p fs.length then hold s
    else
      let s1 := if alt then fabBump s R.fabAltRouted 1 else s
      portSend { s1 with nextPkt := s.nextPkt + 1 } p h'
        ⟨s.nextPkt, vc', fs, true, none, false, phDst h, stageOf s p, false⟩

end Sys2Proof.Machine
end

