-- ==== Sys2Proof/Machine/Ipfix.lean ====
section
/-!
DEFINITION. The counters that the IPFIX export reads, with the record field each belongs to (R478, R483, R492), and the sampling of a
hearth that joins or leaves a partition (R479).
-/

namespace Sys2Proof.Machine

/-- The field of a STALL record: partition and stall code (R478). -/
def stallKey (p code : Nat) : Nat := oweKey 4 (256 * p + code)

/-- The partition number that stands here for the codes counted for the whole device. -/
def devPart : Nat := 16

/-- The stall counters of a hearth (R478). -/
def hearthStalls (h : Nat) : List (Nat × Reg) :=
  let two := fun (f : Nat → List (Nat × Reg)) => f 0 ++ f 1
  two (fun a => [(1, R.mxaBubGapA h a), (2, R.mxaBubDrainA h a), (3, R.mxaBubAccldA h a), (4, R.mxaBubLoadA h a), (5, R.mxaBubFeedA h a),
    (6, R.mxaBubMaskA h a)])
  ++ [(0x11, R.vecDepWait h), (0x12, R.vecIdle h), (0x21, R.spdConflictM h 0), (0x22, R.spdConflictM h 1), (0x23, R.spdConflictM h 2),
    (0x81, R.telHrtGateH h), (0x82, R.telHrtNotaskH h)]
  ++ (List.range 12).map (fun c => (0x30 + c, R.fluStallC h c))
  ++ two (fun b => (List.range 12).map (fun c => (0x40 + c, R.blwStallBC h b c)))

/-- A hearth's stall counters are sampled for its partition (R479). -/
def hearthSample (s : State) (h : Nat) : State :=
  sampleAll s ((hearthStalls h).map (fun e =>
    (match (hget s h).part with | some p => stallKey p e.1 | none => 0, e.2, 48)))

/-- The device's stall counters. -/
def devStalls : List (Nat × Reg × Nat) :=
  (List.range 4).map (fun sl => (stallKey devPart 0x51, R.chmFillWait sl, 48))
  ++ (List.range 20).flatMap (fun k => (List.range 32).flatMap (fun p =>
      [(stallKey devPart 0x61, R.memQfullP k p, 48), (stallKey devPart 0x62, R.memRefForcedP k p, 48)]))
  ++ (List.range 18).flatMap (fun n => [(stallKey devPart 0x71, R.lnkWinStall n, 48), (stallKey devPart 0x72, R.lnkCreditStall n, 48)])
  ++ (List.range 16).map (fun p => (stallKey p 0x91, R.telColDamperP p, 48))

/-- The counters of a port's links: the fields of the PORT record from TX_FLITS to CREDIT_STALL (R483, R492). -/
def portItems (s : State) : List (Nat × Reg × Nat) :=
  (List.range 18).flatMap (fun n =>
    let k := fun i => if lkPort s n < 18 then oweKey 2 (16 * lkPort s n + i) else 0
    [(k 3, R.lnkTxFlits n, 48), (k 4, R.lnkRxFlits n, 48), (k 5, R.telFecNB n 5, 48), (k 5, R.lnkCrcErr n, 48), (k 5, R.lnkReplays n, 48),
     (k 6, R.lnkCreditStall n, 48)])
  ++ (List.range 18).map (fun p => (oweKey 2 (16 * p + 5), R.lnkPortStompsP p, 48))

def histItems : List (Nat × Reg × Nat) :=
  (List.range 27).flatMap (fun h => (List.range 32).map (fun b => (oweKey 3 (32 * h + b), R.telHistHB h b, 48)))

/-- TASKS_DONE, TASKS_FAILED, REPLAYS, ABORTS and ACCESS_ERR of the PARTITION record. -/
def partItems : List (Nat × Reg × Nat) :=
  (List.range 16).flatMap (fun p =>
    let k := fun i => oweKey 5 (16 * p + i)
    [(k 0, R.grfTasksDone p, 48), (k 1, R.grfTasksFailed p, 48), (k 2, R.grfReplays p, 48), (k 4, R.prtAccessErrP p, 48)]
    ++ (List.range 15).map (fun c => (k 3, R.grfAbortsC p c, 48)))

/-- GATE_CYCLES and ENERGY_MJ of the POWER record, and the device's energy. -/
def powerItems : List (Nat × Reg × Nat) :=
  (oweKey 1 0, R.pwrDevEnergy, 64) :: (List.range 4).flatMap (fun f =>
    [(oweKey 6 (2 * f), R.pwrFbGateCyclesF f, 64), (oweKey 6 (2 * f + 1), R.pwrFbEnergyF f, 64)])

/-- SPD_CE to FEC_UNCORR of the ERRORS record. -/
def errorItems : List (Nat × Reg × Nat) :=
  (List.range 256).flatMap (fun h => (List.range 3).flatMap (fun m => [(oweKey 7 0, R.spdCeCountM h m, 48), (oweKey 7 1, R.spdUeCountM h m, 48)]))
  ++ (List.range 4).flatMap (fun sl => [(oweKey 7 2, R.chmCeCount sl, 48), (oweKey 7 3, R.chmUeCount sl, 48)])
  ++ (List.range 20).flatMap (fun k => (List.range 32).flatMap (fun p =>
      [(oweKey 7 4, R.memCeCountP k p, 48), (oweKey 7 5, R.memUeCountP k p, 48)]))
  ++ (List.range 18).map (fun n => (oweKey 7 6, R.lnkFecUncorr n, 48))

/-- The counters of a block, by its address range, are sampled before CNT_CLR clears them (R477). -/
def blkSample (s : State) (lo n : Nat) : State :=
  let own := fun (e : Nat × Reg × Nat) => lo ≤ e.2.1.addr && e.2.1.addr < lo + n
  let s1 := (List.range 256).foldl (fun t h =>
    if (hearthStalls h).any (fun e => lo ≤ e.2.addr && e.2.addr < lo + n) then hearthSample t h else t) s
  sampleAll s1 ((devStalls ++ portItems s ++ histItems ++ partItems ++ powerItems ++ errorItems).filter own)

/-- Every exported counter is sampled (R492). -/
def allSample (s : State) : State :=
  let s1 := (List.range 256).foldl hearthSample s
  sampleAll s1 (devStalls ++ portItems s ++ histItems ++ partItems ++ powerItems ++ errorItems)

/-- Counters that a reset or a clear has set to 0: the next increase counts from 0. -/
def samplesZero (s : State) (lo n : Nat) : State :=
  { s with ipfix := { s.ipfix with last := s.ipfix.last.filter (fun e => e.1 < lo || lo + n ≤ e.1) } }

end Sys2Proof.Machine
end

