-- ==== Sys2Proof/Machine/Link.lean ====
section
/-!
DEFINITION. Fabric links (12): slots (R343–R351), acknowledgement and retry (R352–R355), credits (R357, R358), training, links down and
retraining (R359–R366). Also R482's bin of a received codeword (TEL_FEC_n_b, R483).
-/

namespace Sys2Proof.Machine

/-! The bytes of a slot (R343, R347–R349, R351). -/

/-- One byte of a CRC-32 with the IEEE 802.3 polynomial, least significant bit first. -/
def crcByte (c : Nat) (b : Byte) : Nat :=
  (List.range 8).foldl (fun c _ => if c % 2 = 1 then (c / 2) ^^^ 0xEDB88320 else c / 2) (c ^^^ b.toNat)

/-- CRC-32 of a list of bytes (R348). -/
def crc32 (l : List Byte) : Nat := (l.foldl crcByte 0xFFFFFFFF) ^^^ 0xFFFFFFFF

/-- The 256 bytes of a flit (R349): header, body, and after the bytes in use bytes that the spec leaves open. -/
def flitBytes (f : Flit) : List Byte :=
  leBytes 8 f.hdr ++ (List.range 248).map (fun i => if i < flValid f then f.body.getD i 0 else Config.flitPad i)

/-- Bytes 0 to 265 of a control slot (R351). -/
def controlBytes (pos msg content : Nat) : List Byte :=
  List.replicate 15 0x3C ++ leBytes 1 pos ++ leBytes 1 msg ++ leBytes 31 content ++ List.replicate 218 0

/-- Bytes 0 to 265 of a data slot (R347): the flit bytes of an IDLE slot are 0. -/
def dataBytes (word : Nat) (f : Option Flit) : List Byte :=
  leBytes 10 word ++ (match f with | some f => flitBytes f | none => List.replicate 256 0)

/-- A control slot and a data slot with their CRC. -/
def controlOf (pos msg content : Nat) : SlotTx := .control pos msg content (crc32 (controlBytes pos msg content))
def dataOf (word : Nat) (f : Option Flit) : SlotTx := .data word f (crc32 (dataBytes word f))

/-! The retry buffer. -/

/-- Flits sent and not acknowledged. -/
def unacked (x : Link) : List RetryFlit := x.retry.filter (fun f => !f.acked)

/-- The oldest unacknowledged SEQ, or the next SEQ. -/
def oldestSeq (x : Link) : Nat := match unacked x with | [] => x.txSeq | f :: _ => f.seq

/-- LNK_ERR_LOG (R369). -/
def lnkErr (s : State) (n kind lane : Nat) : State :=
  let x := lkGet s n
  logErr s (R.lnkErrLog n) (R.lnkErrCount n)
    (fieldAt 8 4 kind + fieldAt 12 2 lane + fieldAt 16 3 x.st + fieldAt 24 12 (oldestSeq x) + fieldAt 36 10 x.retry.length)

/-- Flits acknowledged up to SEQ `a`; a flit is freed with the EOP flit of its packet (R354). ACK advancing ends a run of
replays (R355). -/
def ackUpTo (x : Link) (a : Nat) : Link :=
  let u := (unacked x).length
  let d := (a + 4096 + 1 - oldestSeq x) % 4096
  if d = 0 || u < d then x
  else
    let seqs := ((unacked x).take d).map (·.seq)
    let r := x.retry.map (fun f => if !f.acked && seqs.contains f.seq then { f with acked := true } else f)
    let done_ := (r.filter (fun f => f.acked && flEop f.flit)).map (·.pkt)
    { x with retry := r.filter (fun f => !(f.acked && done_.contains f.pkt)), replays := 0 }

/-! Receive pools. -/

def rxPool (x : Link) (vc : Nat) : List RxPkt := tgetD x.rx vc []
def rxSet (x : Link) (vc : Nat) (l : List RxPkt) : Link :=
  { x with rx := if l.isEmpty then tdel x.rx vc else tput x.rx vc l }

/-- Flits of a VC are freed (R358). -/
def rxFree (x : Link) (vc k : Nat) : Link :=
  if k = 0 then x
  else { x with freed := tput x.freed vc ((tgetD x.freed vc 0 + k) % 4096), chg := if x.chg.contains vc then x.chg else x.chg ++ [vc] }

/-- A packet leaves its receive pool and its flits are freed (R211, R387). -/
def rxDrop (s : State) (n vc id : Nat) : State :=
  let x := lkGet s n
  let k := (((rxPool x vc).filter (fun q => q.id = id)).map (·.held)).sum
  lkPut s n (rxFree (rxSet x vc ((rxPool x vc).filter (fun q => q.id ≠ id))) vc k)

def rxMod (s : State) (n vc id : Nat) (f : RxPkt → RxPkt) : State :=
  lkMod s n (fun x => rxSet x vc ((rxPool x vc).map (fun q => if q.id = id then f q else q)))

/-- The rest of a packet that is dropped while it still arrives is freed flit by flit. -/
def rxVoid (s : State) (n vc id : Nat) : State :=
  match (rxPool (lkGet s n) vc).find? (fun q => q.id = id) with
  | none => s
  | some q =>
    if q.whole then rxDrop s n vc id
    else lkMod (rxMod s n vc id (fun q => { q with held := 0, way := .dropped })) n (fun x => rxFree x vc q.held)

/-- The link on which a transit packet waits or is being sent. -/
def txLink (s : State) (id : Nat) : Option Nat := (List.range 18).find? (fun n => (lkGet s n).txq.any (fun q => q.id = id))

def txMod (s : State) (n id : Nat) (f : TxPkt → TxPkt) : State :=
  lkMod s n (fun x => { x with txq := x.txq.map (fun q => if q.id = id then f q else q) })

/-- A transit packet that will not arrive whole is ended on its outbound link with ABORT, or removed if no flit of it has left
(R363). -/
def txStomp (s : State) (id : Nat) : State :=
  match txLink s id with
  | none => s
  | some n =>
    match (lkGet s n).txq.find? (fun q => q.id = id) with
    | none => s
    | some q =>
      if q.begun then
        bump (txMod s n id (fun q => { q with flits := [stompFlit q.vc], whole := true })) (bit (rd s (R.lnkCtrl n)) 0)
          (R.lnkPortStompsP (lkPort s n)) 1
      else lkMod s n (fun x => { x with txq := x.txq.filter (fun q => q.id ≠ id) })

/-- A packet in a pool is discarded with what has been forwarded of it (R350, R363). -/
def rxDiscard (s : State) (n vc : Nat) (q : RxPkt) : State :=
  match q.way with
  | .transit _ _ => rxDrop (txStomp s q.id) n vc q.id
  | _ => rxDrop s n vc q.id

/-! Down (R362–R364). -/

/-- A packet of a lost port is routed again (R364, R379), or dropped. -/
def reroute (s : State) (q : TxPkt) : State :=
  let h := ((q.flits.head?.map (·.body)).getD []).take 32
  let freeSrc := fun (s : State) => match q.src with | some (l, v) => rxVoid s l v q.id | none => s
  if q.vc = 31 || q.flits.isEmpty then freeSrc s
  else
    match routeOf s none q.vc h with
    | .drop w => freeSrc (dropCount s w (match q.src with | some (l, _) => lkPort s l | none => 0) q.vc h)
    | .out p vc h' alt =>
      let s1 := if alt then fabBump s R.fabAltRouted 1 else s
      portSend s1 p h' { q with vc := vc, flits := rehead h' q.flits, begun := false }

/-- A packet of a link that has gone down: to a surviving link of the port, or to rerouting. -/
def moveOn (s : State) (p : Nat) (q : TxPkt) : State := if portWidth s p = 0 then reroute s q else txPut s p q

/-- The first of each packet number, in order. -/
def firsts (l : List Nat) : List Nat := l.foldl (fun acc i => if acc.contains i then acc else acc ++ [i]) []

/-- The packets with flits in the retry buffer, whole again, in the order of their first SEQ (R363). -/
def retried (x : Link) : List TxPkt :=
  (firsts (x.retry.map (·.pkt))).map (fun id =>
    let sent := (x.retry.filter (fun f => f.pkt = id)).map (·.flit)
    match x.txq.find? (fun q => q.id = id) with
    | some q => { q with flits := sent ++ q.flits, begun := false, stage := none }
    | none =>
      let f := sent.headD ⟨0, []⟩
      ⟨id, bits f.hdr 0 5, sent, true, none, false, phDst (f.body.take 32), none, true⟩)

/-- The packets of a lost port that wait on its links and have not started go to rerouting (R364); those of VC 31 belong to their link. -/
def portReroute (s : State) (p : Nat) : State :=
  let waits := fun (q : TxPkt) => !q.begun && q.vc ≠ 31
  let ns := (portLinks s p).filter (fun n => (lkGet s n).txq.any waits)
  let qs := ns.flatMap (fun n => (lkGet s n).txq.filter waits)
  qs.foldl reroute (ns.foldl (fun t n => lkMod t n (fun x => { x with txq := x.txq.filter (fun q => !waits q) })) s)

/-- A change of a link's state, with the width of its port: NARROW counts a decrease; a port whose width falls to 0 is LOST (R364, R377), the
torus routes are computed again (R380), and what waits on the port goes to rerouting (R364). With its first live link a port is LOST no more. -/
def lkState (s : State) (n st : Nat) : State :=
  let p := lkPort s n
  let w := portWidth s p
  let s1 := lkMod s n (fun x => { x with st := st })
  if p < 18 && portWidth s1 p < w then
    let s2 := bump s1 (bit (rd s (R.lnkCtrl n)) 0) (R.lnkPortNarrowP p) 1
    if portWidth s1 p = 0 && portOn s1 p then
      portReroute (routesAgain (wrf (portMod s2 p (fun x => { x with match_ := false, disc := false })) (R.fabAdjP p) 22 2 3)) p
    else s2
  else if p < 18 && w = 0 && 0 < portWidth s1 p && adjState s1 p = 3 then wrf s1 (R.fabAdjP p) 22 2 0
  else s1

/-- What a link that is down leaves (R363): its packets, the retried first, go on, and the packets open without EOP at its receiver are discarded. -/
def linkLeaves (s : State) (n : Nat) (qs : List TxPkt) : State :=
  (List.range 32).foldl (fun t vc =>
    ((rxPool (lkGet t n) vc).filter (fun q => !q.whole)).foldl (fun t q => rxDiscard t n vc q) t)
    (qs.foldl (fun t q => moveOn t (lkPort s n) q) s)

/-- A link goes down (R362, R363): `kind` as in LNK_ERR_LOG, `st` DOWN or DISABLED. -/
def linkDown (s : State) (n kind lane st : Nat) : State :=
  let x := lkGet s n
  let p := lkPort s n
  let again := retried x
  let ids := again.map (·.id)
  let rest := x.txq.filter (fun q => !ids.contains q.id)
  let s1 := lkBump (if kind = 0 then s else lnkErr s n kind lane) n (R.lnkDownEvents n) 1
  let auto := bit (rd s (R.lnkCtrl n)) 4 && st = 4
  let s2 := lkMod s1 n (fun x => { x with retry := [], txq := [], replay := none, replays := 0, nak := false, downTx := some kind,
                                          go := auto, msgs := [], echoes := [], fails := 0, cw := [], out := none })
  let s3 := lkState s2 n st
  let s4 := bump s3 (bit (rd s (R.lnkCtrl n)) 0) (R.lnkPortReplayedP p) again.length
  linkLeaves s4 n (again ++ rest)

/-- Is a link running (UP or DRAINING). -/
def lkRuns (s : State) (n : Nat) : Bool := (lkGet s n).st = 2 || (lkGet s n).st = 3

/-- Limits in force: LNK_CFG as taken at the last training (R368). -/
def replayLimit (x : Link) : Nat := bits x.lim 24 4
def trainTries (x : Link) : Nat := bits x.lim 28 4

/-- A replay starts at ACK + 1 (R353), counted in `r`, or the link goes down when REPLAY_LIMIT replays have passed without ACK advancing
(R355). -/
def replayStart (s : State) (n : Nat) (r : Reg) : State :=
  let x := lkGet s n
  if replayLimit x ≤ x.replays then linkDown s n 3 0 4
  else lkPut (lkBump s n r 1) n { x with replay := some (oldestSeq x), nakUntil := s.now + 440 * rdf s (R.lnkRtt n) 0 16, replays := x.replays + 1 }

/-! Sending (R344, R347, R351, R354, R357). -/

/-- Packets of the queue that may send a flit now: the first of their VC, with a flit at hand. -/
def txReady (x : Link) : List TxPkt :=
  x.txq.filter (fun q => !q.flits.isEmpty && (x.txq.find? (fun r => r.vc = q.vc)).any (fun r => r.id = q.id))

/-- The same, of a link of the device: the links of a port in MISMATCH carry only VCs 30 and 31 (R377). -/
def txFree (s : State) (n : Nat) : List TxPkt :=
  if adjState s (lkPort s n) = 2 then (txReady (lkGet s n)).filter (fun q => 30 ≤ q.vc) else txReady (lkGet s n)

/-- FAB_VCMAP_v.WEIGHT, where 0 counts as 1 (R384). -/
def vcWeight (s : State) (v : Nat) : Nat := if v < 24 then max 1 (rdf s (R.fabVcmapV v) 24 8) else 1

/-- Of packets with credit, those that may go: of transit packets, those of VCs that have not had WEIGHT flits of this round; when every VC with
waiting flits has had them, a new round begins (R384). The second part is the round's count as it then stands. -/
def txShare (s : State) (n : Nat) (l : List TxPkt) : List TxPkt × Tbl Nat :=
  let x := lkGet s n
  let tr := l.filter (fun q => q.src.isSome)
  let ok := tr.filter (fun q => tgetD x.share q.vc 0 < vcWeight s q.vc)
  if tr.isEmpty then (l, x.share) else if ok.isEmpty then (l, []) else (l.filter (fun q => q.src.isNone) ++ ok, x.share)

/-- The link word of a data slot (R347, R358), and the link with its credit report taken. -/
def linkWord (x : Link) (type seq : Nat) : Nat × Link :=
  let cc := fun v => tgetD x.freed v 0
  let v0 := x.chg.headD x.step
  (type + fieldAt 2 12 seq + fieldAt 14 12 (x.rxExp + 4095) + fieldAt 26 1 (b1 x.nak) + fieldAt 27 5 v0 + fieldAt 32 12 (cc v0)
    + fieldAt 44 5 x.step + fieldAt 49 12 (cc x.step),
   { x with chg := (x.chg.drop 1).filter (· ≠ x.step), step := (x.step + 1) % 32 })

/-- A data slot leaves. -/
def dataOut (s : State) (n type seq : Nat) (f : Option Flit) : State :=
  let w := linkWord (lkGet s n) type seq
  let s1 := lkPut s n { w.2 with out := some (dataOf w.1 f) }
  if type = 1 then portMod (lkBump s1 n (R.lnkTxFlits n) 1) (lkPort s n) (fun p => { p with sent := p.sent + 1 }) else s1

/-- A new flit of a waiting packet is sent; with its last flit the packet leaves its receive pool (R211). -/
def sendNew (s : State) (n : Nat) (q : TxPkt) : State :=
  match q.flits with
  | [] => s
  | f0 :: r =>
    let x := lkGet s n
    let f := onVc q.vc f0
    let ended := q.whole && r.isEmpty
    let x1 := { x with retry := x.retry ++ [⟨x.txSeq, q.id, f, false⟩], txSeq := (x.txSeq + 1) % 4096,
                       sent := tput x.sent q.vc ((tgetD x.sent q.vc 0 + 1) % 4096),
                       share := if q.src.isSome then tput x.share q.vc (tgetD x.share q.vc 0 + 1) else x.share,
                       txq := if ended then x.txq.filter (fun t => t.id ≠ q.id)
                              else x.txq.map (fun t => if t.id = q.id then { t with flits := r, begun := true, seen := true } else t) }
    let s1 := dataOut (lkPut s n x1) n 1 x.txSeq (some f)
    match q.src with
    | none => s1
    | some (l, v) =>
      let s0 := if q.seen then s1
        else match (rxPool (lkGet s1 l) v).find? (fun r => r.id = q.id) with
          | some r => histCount s1 (lkPort s n) r.t0
          | none => s1
      let s2 := fabBump s0 R.fabTransitFlits 1
      if ended then rxDrop s2 l v q.id else s2

/-- A data slot of a running link. -/
def dataSlot (s : State) (n : Nat) : State :=
  let x := lkGet s n
  let again : Option RetryFlit := match x.replay with
      | none => none
      | some k => (unacked x).find? (fun f => (f.seq + 4096 - k) % 4096 < 2048)
  match again with
  | some f => dataOut (lkPut s n { x with replay := some ((f.seq + 1) % 4096) }) n 1 f.seq (some f.flit)
  | none =>
    let s0 := lkPut s n { x with replay := none }
    let idle := fun (t : State) => dataOut t n 0 0 none
    match txFree s n with
    | [] => idle s0
    | _ :: _ =>
      if 512 ≤ x.retry.length then idle (lkBump s0 n (R.lnkWinStall n) 1)
      else
        match (txFree s n).filter (fun q => credit x q.vc) with
        | [] => idle (lkBump s0 n (R.lnkCreditStall n) 1)
        | l =>
          let m := txShare s n l
          let s1 := lkMod s0 n (fun x => { x with share := m.2 })
          match m.1 with
          | [q] => sendNew s1 n q
          | l =>
            let d := freeBits s1 16
            match lget l (d.1 % l.length) with
            | some q => sendNew d.2 n q
            | none => s1

/-- A control slot (R351): DOWN while the link is taken down, else a message or an ECHO_REPLY that waits, in training an ECHO. -/
def controlSlot (s : State) (n : Nat) : State :=
  let x := lkGet s n
  match x.downTx with
  | some c => lkPut s n { x with out := some (controlOf x.pos 4 c) }
  | none =>
    match x.msgs with
    | m :: r => lkPut s n { x with msgs := r, out := some (controlOf x.pos m.1 m.2) }
    | [] =>
      match x.echoes with
      | t :: r => lkPut s n { x with echoes := r, out := some (controlOf x.pos 3 t) }
      | [] => lkPut s n { x with out := some (if x.st = 1 then controlOf x.pos 2 (telNow s) else controlOf x.pos 0 0) }

/-- LINK_SLOT_TX (R352). A link that is down sends control slots alone, while it sends DOWN; one in training sends control slots and
IDLE slots. -/
def linkSlotTx (s : State) (n : Nat) : State :=
  let x := lkGet s n
  if 18 ≤ n || !(lkRuns s n || x.st = 1 || x.downTx.isSome) then s
  else
    let step := fun t => lkMod t n (fun x => { x with pos := (x.pos + 1) % 128 })
    if x.pos = 0 || x.pos = 43 || x.pos = 86 then step (controlSlot s n)
    else if lkRuns s n then step (dataSlot s n)
    else if x.st = 1 && x.downTx.isNone then step (dataOut s n 0 0 none)
    else step (lkMod s n (fun x => { x with out := none }))

/-! Receiving (R348, R350, R353). -/

/-- Is a flit header in rule, with the open packet of its VC (R350). -/
def flitOk (x : Link) (f : Flit) : Bool :=
  let vc := bits f.hdr 0 5
  let open_ := (rxPool x vc).find? (fun q => !q.whole)
  let v := flValid f
  (flSop f = open_.isNone) && open_.all (fun q => q.flits.length < 34) && (flEop f || !flAbort f)
    && (if flEop f then 1 ≤ v && v ≤ 248 else v = 248)

/-- An accepted flit joins its packet; a transit packet's flit joins the outbound copy; an EOP with ABORT voids the packet. -/
def flitTake (s : State) (n : Nat) (f : Flit) : State :=
  let vc := bits f.hdr 0 5
  let x := lkGet s n
  let eop := flEop f
  if flSop f then
    if flAbort f then lkPut s n (rxFree x vc 1)
    else lkPut { s with nextPkt := s.nextPkt + 1 } n (rxSet x vc (rxPool x vc ++ [⟨s.nextPkt, [f], 1, eop, .fresh, telNow s⟩]))
  else
    match (rxPool x vc).find? (fun q => !q.whole) with
    | none => s
    | some q =>
      let grow := fun (s : State) => rxMod s n vc q.id (fun q => { q with flits := q.flits ++ [f], held := q.held + 1, whole := eop })
      match q.way with
      | .dropped =>
        let s1 := lkMod s n (fun x => rxFree x vc 1)
        if eop then lkMod s1 n (fun x => rxSet x vc ((rxPool x vc).filter (fun r => r.id ≠ q.id)))
        else rxMod s1 n vc q.id (fun q => { q with flits := q.flits ++ [f] })
      | .transit _ _ =>
        match txLink s q.id with
        | none => if eop then rxDrop (grow s) n vc q.id else grow s
        | some l =>
          if flAbort f then rxDrop (txStomp (grow s) q.id) n vc q.id
          else txMod (grow s) l q.id (fun t => { t with flits := t.flits ++ [f], whole := eop })
      | _ => if flAbort f then rxDrop (grow s) n vc q.id else grow s

/-- A flit out of rule is discarded with the open packet of its VC, and their credits return (R350). -/
def flitBad (s : State) (n : Nat) (f : Flit) : State :=
  let vc := bits f.hdr 0 5
  let s1 := lnkErr (lkBump s n (R.lnkProtoErr n) 1) n 9 0
  let s2 := lkMod s1 n (fun x => rxFree x vc 1)
  match (rxPool (lkGet s n) vc).find? (fun q => !q.whole) with
  | none => s2
  | some q => rxDiscard s2 n vc q

/-- The acknowledgement, NAK and credit fields of an accepted slot. -/
def wordApply (s : State) (n w : Nat) : State :=
  let x := ackUpTo (lkGet s n) (bits w 14 12)
  let x1 := { x with cc := tput (tput x.cc (bits w 27 5) (bits w 32 12)) (bits w 44 5) (bits w 49 12) }
  let s1 := lkPut s n x1
  if bit w 26 && x1.nakUntil ≤ s.now && !(unacked x1).isEmpty then replayStart s1 n (R.lnkReplays n) else s1

/-- A codeword that is not correctable: counted, and kept for a millisecond (R348, R362). -/
def cwBad (s : State) (n : Nat) : State :=
  lkMod (lkBump s n (R.lnkFecUncorr n) 1) n (fun x => { x with cw := x.cw.filter (fun t => s.now < t + 440000000) ++ [s.now] })

/-- A codeword that decodes: its bin of R483, and the counters of R367. -/
def cwGood (s : State) (n k : Nat) : State :=
  let s0 := telBump s (R.telFecNB n k) 1
  if k = 0 then s0 else lkBump (lkBump s0 n (R.lnkFecCorr n) 1) n (R.lnkFecSym n) k

/-- LINK_DATA_SLOT_RX (R353). -/
def linkDataSlotRx (s : State) (n : Nat) (k : SlotRx) : State :=
  if 18 ≤ n || !lkRuns s n then s
  else
    let nak := fun t => lkMod t n (fun x => { x with nak := true })
    let ok := k.decodes && k.corrected ≤ 4
    if !ok then nak (cwBad (telBump s (R.telFecNB n 5) 1) n)
    else
      let s1 := cwGood s n k.corrected
      let w := k.linkWord.toNat
      let inj := bits w 0 2 = 1 && injKind s 0x20 n = some 5
      let s2 := if inj then injFired s1 else s1
      if !k.crcOk || inj then nak (lkBump s2 n (R.lnkCrcErr n) 1)
      else
        let s3 := wordApply s2 n w
        if bits w 0 2 ≠ 1 || !lkRuns s3 n then s3
        else if bits w 2 12 ≠ (lkGet s3 n).rxExp then nak s3
        else
          let f : Flit := ⟨k.header.toNat, k.body⟩
          let s4 := lkMod (lkBump s3 n (R.lnkRxFlits n) 1) n (fun x => { x with rxExp := (x.rxExp + 1) % 4096, nak := false })
          if flitOk (lkGet s4 n) f then flitTake s4 n f else flitBad s4 n f

/-! Control messages received (R351). -/

/-- The codeword of a control slot whose message has come: how many of its symbols were corrected, 0 to 4, is a free value. -/
def controlRx (s : State) (n : Nat) : State :=
  let f := freeBits s 8
  cwGood f.2 n (f.1 % 5)

/-- PARAM (R360): it is kept for the checks at the end of training. -/
def paramRx (s : State) (n dev link port cls links : Nat) : State :=
  if 18 ≤ n || !(lkRuns s n || (lkGet s n).st = 1) then s
  else
    let v := fieldAt 0 16 dev + fieldAt 16 5 link + fieldAt 21 5 port + fieldAt 26 2 cls + fieldAt 28 1 1
    lkMod (wr (controlRx s n) (R.lnkPartner n) v) n (fun x => { x with plinks := links % 8 })

def linkEcho (s : State) (n ts : Nat) : State :=
  if 18 ≤ n || !(lkRuns s n || (lkGet s n).st = 1) then s
  else lkMod (controlRx s n) n (fun x => { x with echoes := x.echoes ++ [ts] })

/-- ECHO_REPLY: in training, the largest round trip is kept (R365). -/
def linkEchoReply (s : State) (n ts : Nat) : State :=
  if 18 ≤ n || !(lkRuns s n || (lkGet s n).st = 1) then s
  else if (lkGet s n).st = 1 then lkMod (controlRx s n) n (fun x => { x with rtt := max x.rtt ((telNow s - ts) * 5 / 8) })
  else controlRx s n

def downRx (s : State) (n : Nat) : State := if n < 18 && lkRuns s n then linkDown (controlRx s n) n 4 0 4 else s

def drainStart (s : State) (n : Nat) : State :=
  if n < 18 && lkRuns s n then
    (if (lkGet s n).st = 2 then lkState (controlRx s n) n 3 else controlRx s n)
  else s

/-! Events (R355, R362). -/

def replayTimeout (s : State) (n : Nat) : State :=
  if n < 18 && lkRuns s n && !(unacked (lkGet s n)).isEmpty then replayStart s n (R.lnkReplayTo n) else s

def linkLos (s : State) (n lane : Nat) : State :=
  if n < 18 && lane < 4 && lkRuns s n then
    let s1 := linkDown s n 1 lane 4
    lkMod (wrf s1 (R.lnkLaneL n lane) 0 1 0) n (fun x => { x with laneOk := setBits x.laneOk lane 1 0 })
  else s

/-- FEC_LIMIT: more than CW_ERR_LIMIT uncorrectable codewords within 1 ms. -/
def fecLimit (s : State) (n : Nat) : State :=
  let x := lkGet s n
  if n < 18 && lkRuns s n && bits x.lim 16 8 < (x.cw.filter (fun t => s.now < t + 440000000)).length then linkDown s n 2 0 4 else s

def noSlotTimeout (s : State) (n : Nat) : State := if n < 18 && lkRuns s n then linkDown s n 5 0 4 else s
def linkDownTxEnd (s : State) (n : Nat) : State := lkMod s n (fun x => { x with downTx := none })

/-! Training (R360, R365). -/

/-- Link count of a link's own port. -/
def ownLinks (s : State) (n : Nat) : Nat := (portLinks s (lkPort s n)).length

/-- The content of this device's PARAM. -/
def paramOut (s : State) (n : Nat) : Nat :=
  fieldAt 0 16 (ownDev s) + fieldAt 16 5 n + fieldAt 21 5 (lkPort s n) + fieldAt 26 2 (rdf s (R.lnkCfg n) 0 2) + fieldAt 28 3 (ownLinks s n)

/-- A training attempt begins: counted, PARAM sent, the limits of LNK_CFG taken, no lane locked. -/
def trainBegin (s : State) (n : Nat) : State :=
  let s1 := wrf (lkBump (lkState s n 1) n (R.lnkRetrains n) 1) (R.lnkPartner n) 28 1 0
  let s2 := (List.range 4).foldl (fun t l => wrf t (R.lnkLaneL n l) 0 1 0) s1
  lkMod s2 n (fun x => { x with go := false, msgs := [(1, paramOut s n)], echoes := [], lim := rd s (R.lnkCfg n), rtt := 0, laneOk := 0,
                                downTx := none })

/-- A link's reach class is enabled on this part (R2). -/
def classOn (s : State) (n : Nat) : Bool := !Config.lcx || rdf s (R.lnkCfg n) 0 2 = 2

def linkTrainStart (s : State) (n : Nat) : State :=
  let x := lkGet s n
  if 18 ≤ n || !x.go || lkRuns s n || x.st = 1 || bit (rd s (R.lnkCtrl n)) 3 || 18 ≤ lkPort s n || !portOn s (lkPort s n) then s
  else if !classOn s n then lkState (lkMod (lnkErr s n 8 0) n (fun x => { x with go := false, refuse := 1 })) n 6
  else trainBegin s n

/-- The check of R360: 0, or the cause of a refusal. -/
def paramCheck (s : State) (n : Nat) : Nat :=
  let v := rd s (R.lnkPartner n)
  let same := fun m => bits (rd s (R.lnkPartner m)) 0 16 = bits v 0 16 && bits (rd s (R.lnkPartner m)) 21 5 = bits v 21 5
  if !bit v 28 then 3
  else if bits v 26 2 ≠ rdf s (R.lnkCfg n) 0 2 then 2
  else if (lkGet s n).plinks ≠ ownLinks s n then 4
  else match portLive s (lkPort s n) with
    | [] => 0
    | m :: _ => if same m then 0 else 3

/-- Lanes as training found them. -/
def lanesSet (s : State) (n : Nat) (r : TrainResult) : State :=
  (List.range 4).foldl (fun t l =>
    wr t (R.lnkLaneL n l) (b1 (bit r.lanesOk.toNat l) + fieldAt 1 1 (b1 (bit r.inverted.toNat l)) + fieldAt 8 8 (r.snr.getD l 0))) s

/-- LINK_TRAIN_DONE (R365). A live retrain that fails leaves the link down, and what waited for it goes to the surviving links (R363). -/
def linkTrainDone (s : State) (n : Nat) (r : TrainResult) : State :=
  let x := lkGet s n
  if 18 ≤ n || x.st ≠ 1 then s
  else
    let s1 := lkMod (lanesSet s n r) n (fun x => { x with laneOk := r.lanesOk.toNat, rev := r.reversed })
    if !r.physOk || r.lanesOk ≠ 15#4 then
      let s2 := lnkErr s1 n 7 (((List.range 4).find? (fun l => !bit r.lanesOk.toNat l)).getD 0)
      let last := trainTries x ≤ x.fails + 1
      linkLeaves (lkState (lkMod s2 n (fun x => { x with tries := min 15 (x.tries + 1), fails := x.fails + 1, go := !last, msgs := [], txq := [] })) n
        (if last then 5 else 4)) n x.txq
    else
      match paramCheck s1 n with
      | 0 =>
        let rtt := max x.rtt r.rttNs
        let s2 := wr s1 (R.lnkRtt n) (min rtt 65535 + fieldAt 16 16 (min (2 * rtt + 100) 65535))
        let up := fun (x : Link) => { x with
          tries := 0, fails := 0, cw := [], share := [], refuse := 0, win := 131072 < 100 * rtt, txSeq := 0, retry := [], replay := none, nakUntil := 0, replays := 0,
          rxExp := 0, nak := false, sent := [], cc := [], freed := [], chg := [], step := 0, msgs := [], echoes := [], downTx := none }
        lkState (lkMod s2 n up) n 2
      | c => linkLeaves (lkState (lkMod (lnkErr s1 n 8 0) n (fun x => { x with refuse := c, msgs := [], txq := [] })) n 6) n x.txq

/-! Retraining and disabling (R366). -/

/-- LINK_RETRAIN: a write of LNK_CTRL.RETRAIN = 1 by the Stoker. -/
def linkRetrain (s : State) (n : Nat) : State :=
  if 18 ≤ n then s
  else
    match (lkGet s n).st with
    | 2 => lkMod (lkState s n 3) n (fun x => { x with msgs := x.msgs ++ [(5, 0)] })
    | 4 => lkMod s n (fun x => { x with go := true })
    | 5 => lkMod s n (fun x => { x with go := true, fails := 0 })
    | _ => s

def linkDrainDone (s : State) (n : Nat) : State :=
  if n < 18 && (lkGet s n).st = 3 && (lkGet s n).retry.isEmpty then trainBegin s n else s

/-- A DRAINING link whose retry buffer is not empty goes down (R366); no KIND of R369 names it. -/
def linkDrainTimeout (s : State) (n : Nat) : State :=
  if n < 18 && (lkGet s n).st = 3 && !(lkGet s n).retry.isEmpty then linkDown s n 0 0 4 else s

/-- LINK_DISABLE: a write of LNK_CTRL.DISABLE. -/
def linkDisable (s : State) (n : Nat) (dis : Bool) : State :=
  if 18 ≤ n then s
  else
    let s1 := wrf s (R.lnkCtrl n) 3 1 (b1 dis)
    if dis then
      (if lkRuns s n then linkDown s1 n 6 0 0
       else linkLeaves (lkState (lkMod s1 n (fun x => { x with go := false, msgs := [], txq := [] })) n 0) n (lkGet s n).txq)
    else if (lkGet s n).st = 0 && bit (rd s (R.lnkCtrl n)) 3 then lkMod s1 n (fun x => { x with go := true })
    else s1

end Sys2Proof.Machine
end

