-- ==== Sys2Proof/Machine/Flow.lean ====
section
/-!
DEFINITION. Packets of the fabric end to end: routing on arrival (R379), flows (R386–R388), fabric encryption (R375, R457, R459),
discovery (R377, R378, R465), escape (R382).
-/

namespace Sys2Proof.Machine

def partGet (s : State) (p : Nat) : Part := tgetD s.parts p .none_
def partMod (s : State) (p : Nat) (f : Part → Part) : State := { s with parts := tput s.parts p (f (partGet s p)) }
def secBump (s : State) (r : Reg) (k : Nat) : State := bump s (bit (rd s R.secCtrl) 0) r k

/-- SEC_ERR_LOG (R472). -/
def secErr (s : State) (kind p result port newId : Nat) : State :=
  logErr s R.secErrLog R.secErrCount
    (fieldAt 8 4 kind + fieldAt 12 4 p + fieldAt 16 4 result + fieldAt 24 5 port + fieldAt 32 32 newId)

/-! Arrival (R379). -/

/-- The routing header of a packet. -/
def pktHdr (fs : List Flit) : List Byte := ((fs.head?.map (·.body)).getD []).take 32

/-- An uncorrectable word in a packet of a receive pool: the packet is dropped (R217), with what has been forwarded of it ended (R363). -/
def rxUe (s : State) (n vc : Nat) (q : RxPkt) : State :=
  let sl := linkSlice n
  let h := pktHdr q.flits
  let s1 := fabErr (chmErr (chmBump s sl (R.chmUeCount sl) 1) sl 4 2 0 0 none) 7 (lkPort s n) (phSrc h) vc (phSlice h)
  rxVoid (match q.way with | .transit _ _ => txStomp s1 q.id | _ => s1) n vc q.id

/-- An uncorrectable word in a packet of a slice's outbound staging: the packet is dropped (R217). -/
def txUe (s : State) (n : Nat) (q : TxPkt) : State :=
  let sl := q.stage.getD (linkSlice n)
  let h := pktHdr q.flits
  txStomp (fabErr (chmErr (chmBump s sl (R.chmUeCount sl) 1) sl 4 2 0 0 none) 7 (lkPort s n) (phSrc h) q.vc (phSlice h)) q.id

/-- An uncorrectable word in a flit of a link's retry buffer: its packet is dropped (R217). What of it has been sent, or is sent again, ends
void (R363). -/
def retryUe (s : State) (n : Nat) (r : RetryFlit) : State :=
  let sl := linkSlice n
  let x := lkGet s n
  let vc := bits r.flit.hdr 0 5
  let h := pktHdr ((x.retry.filter (fun f => f.pkt = r.pkt)).map (·.flit))
  let s1 := fabErr (chmErr (chmBump s sl (R.chmUeCount sl) 1) sl 4 2 0 0 none) 7 (lkPort s n) (phSrc h) vc (phSlice h)
  let void := fun (f : RetryFlit) => if f.pkt = r.pkt && flEop f.flit then { f with flit := stompFlit vc } else f
  txStomp (lkMod s1 n (fun x => { x with retry := x.retry.map void })) r.pkt

/-- PACKET_ROUTE: the oldest packet of a VC's pool that has not been routed. -/
def packetRoute (s : State) (n vc : Nat) : State :=
  match (rxPool (lkGet s n) vc).find? (fun q => q.way = .fresh) with
  | none => s
  | some q =>
    let h := pktHdr q.flits
    let port := lkPort s n
    let inj := chmInject s (linkSlice n) none
    if inj.1 then rxUe inj.2 n vc q
    else
      let s0 := inj.2
      if phHops h = 0 then rxVoid (dropCount s0 2 port vc h) n vc q.id
      else
        let h1 := setByte h 9 (phHops h - 1)
        if phDst h = ownDev s || (vc = 31 && phDst h = 65535) then
          rxMod s0 n vc q.id (fun q => { q with flits := rehead h1 q.flits, way := .local_ })
        else
          match routeOf s (some port) vc h1 with
          | .drop w => rxVoid (dropCount s0 w port vc h) n vc q.id
          | .out p vc' h' alt =>
            match pickLink s (portLive s p) with
            | none => rxVoid (dropCount s0 3 port vc h) n vc q.id
            | some l =>
              let s1 := fabBump (if alt then fabBump s0 R.fabAltRouted 1 else s0) R.fabTransitPkts 1
              let s2 := rxMod s1 n vc q.id (fun q => { q with flits := rehead h' q.flits, way := .transit p l })
              portSend s2 p h' ⟨q.id, vc', rehead h' q.flits, q.whole, some (n, vc), false, phDst h', none, false⟩

/-- ESCAPE_TIMEOUT: the packet at the head of a data VC of a port, for which no live link has credit, moves to the escape network
(R382). -/
def escapeTimeout (s : State) (port vc : Nat) : State :=
  if 24 ≤ vc || 18 ≤ port then s
  else
    let heads := (portLive s port).filterMap (fun n =>
      match (lkGet s n).txq.find? (fun q => q.vc = vc) with
      | some q => if !q.begun && !q.flits.isEmpty && !credit (lkGet s n) vc then some (n, q) else none
      | none => none)
    match heads with
    | [] => s
    | (n, q) :: _ =>
      let h := setEsc (pktHdr q.flits)
      let inPort := q.src.map (fun e => lkPort s e.1)
      let v := escVc s 24 inPort vc port
      let s1 := lkMod s n (fun x => { x with txq := x.txq.filter (fun r => r.id ≠ q.id) ++ [{ q with vc := v, flits := rehead h q.flits }] })
      fabBump s1 R.fabEscEntries 1

/-! Fabric encryption (R375, R457). -/

def fabKey (s : State) (p slot : Nat) : Nat := if slot = 0 then (partGet s p).fab0 else (partGet s p).fab1
def txSlot (s : State) (p : Nat) : Nat := rdf s (R.secFabCtrlP p) 0 1

/-- The 96-bit nonce of a packet: SRC, DST, SPART, DPART, the flow's VC, KSLOT, 00, SEQ. -/
def fabNonce (src dst spart dpart vc kslot seq : Nat) : Nat :=
  seq + fieldAt 50 1 kslot + fieldAt 51 5 vc + fieldAt 56 4 dpart + fieldAt 60 4 spart + fieldAt 64 16 dst + fieldAt 80 16 src

/-- The additional authenticated data: the header with HOPS and FLAGS[7:6] 0. -/
def fabAad (h : List Byte) : List Byte := setByte (setByte h 9 0) 1 (phFlags h % 64)

/-- Ciphertext and tag. -/
def gcmSeal (key nonce : Nat) (aad plain : List Byte) : List Byte :=
  (List.range (plain.length + 16)).map (Config.gcmByte key nonce aad plain)

/-- Plaintext of a body whose tag passes. -/
def gcmOpen (key nonce : Nat) (aad body : List Byte) : Option (List Byte) :=
  if body.length < 16 || key = 0 || !Config.gcmOk key nonce aad body then none
  else some ((List.range (body.length - 16)).map (Config.gcmPlain key nonce aad body))

/-- The data VC of a group (R373). -/
def groupVc (s : State) (slice group : Nat) : Option Nat :=
  (List.range 24).find? (fun v =>
    let m := rd s (R.fabVcmapV v)
    bit m 0 && bits m 4 12 = slice && bits m 16 4 = group)

def colSlice (s : State) (p : Nat) : Nat := rdf s (R.colPartCtrlP p) 4 12

/-! Sending (R386, R388). -/

def sfMod (s : State) (id : Nat) (f : SendFlow → SendFlow) : State :=
  { s with sflows := s.sflows.map (fun x => if x.id = id then f x else x) }

/-- A packet is numbered, encrypted under TX_SLOT and sent by the route in force. -/
def flowOut (s : State) (f : SendFlow) (k : ColPkt) : State :=
  let slot := txSlot s f.spart
  let group := ((colGet s f.spart k.coll).map (fun e => ceGroup e.raw)).getD 0
  let tail := beBytes 1 k.kind ++ beBytes 1 k.coll ++ beBytes 2 k.rank ++ beBytes 4 k.epoch ++ beBytes 2 k.b ++ beBytes 4 k.off ++ beBytes 2 k.data.length
  let h := mkHdr 0 (fieldAt 5 1 1 + fieldAt 4 1 slot + fieldAt 3 1 (b1 k.bk)) f.dev (ownDev s) (colSlice s f.spart) group f.dpart f.spart
    (rdf s R.fabE2eCfg 32 8) f.next tail
  let body := gcmSeal (fabKey s f.spart slot) (fabNonce (ownDev s) f.dev f.spart f.dpart f.vc slot f.next) (fabAad h) k.data
  let s1 := sfMod s f.id (fun f => { f with next := f.next + 1, un := f.un ++ [⟨f.next, h, body, 0, k.coll, k.epoch⟩],
                                            freeAt := telNow s + paceTime f.limit (h ++ body).length })
  sendOwn (colBump (fabBump s1 R.fabSent 1) R.colBytesSent k.data.length 64) f.vc h body

/-- Does the damper hold the next packet of a flow (R486). -/
def flowHeld (s : State) (f : SendFlow) : Bool := f.limit ≠ 0 && telNow s < f.freeAt

/-- Packets that wait are sent while fewer than 1,024 are unacknowledged (R386), the damper holds none (R486), and the outbound staging has room
(R210). -/
def flowPump (s : State) (id n : Nat) : State :=
  match n with
  | 0 => s
  | n + 1 =>
    match s.sflows.find? (fun f => f.id = id) with
    | none => s
    | some f =>
      match f.wait with
      | [] => s
      | k :: r =>
        if f.failed || 1024 ≤ f.un.length || flowHeld s f then s
        else
          let t := flowOut (sfMod s id (fun f => { f with wait := r })) { f with wait := r } k
          if t.held && !s.held then s else flowPump t id n

/-- A packet for a peer on a VC. -/
def flowSend (s : State) (p dev dpart vc : Nat) (k : ColPkt) : State :=
  match s.sflows.find? (fun f => f.spart = p && f.dev = dev && f.dpart = dpart && f.vc = vc) with
  | none => s
  | some f => flowPump (sfMod s f.id (fun f => { f with wait := f.wait ++ [k] })) f.id 1

/-- A flow fails (R388): every loaded collective that uses it fails with 0x09. -/
def flowFail (s : State) (f : SendFlow) : State :=
  let port := ((rd s (R.fabRouteD f.dev)) % 32)
  let s1 := fabErr (fabBump (sfMod s f.id (fun f => { f with failed := true })) R.fabFlowFailed 1) 5 port f.dev f.vc (colSlice s f.spart)
  let uses := s.cols.filter (fun e => e.1 / 256 = f.spart && (f.vc = 28 || e.2.vc = f.vc) &&
    e.2.grp.any (fun g => geDev g = f.dev && gePart g = f.dpart))
  uses.foldl (fun t e => colFail t f.spart (e.1 % 256) 9) s1

/-- RESEND_TIMEOUT (R388). A resend, too, starts only when the damper's limit lets a packet of the flow start (R486). -/
def resendTimeout (s : State) (flow seq : Nat) : State :=
  match s.sflows.find? (fun f => f.id = flow) with
  | none => s
  | some f =>
    match f.un.find? (fun u => u.seq = seq) with
    | none => s
    | some u =>
      if f.failed then s
      else if rdf s R.fabE2eCfg 16 4 ≤ u.resends then flowFail s f
      else if flowHeld s f then hold s
      else
        let s1 := sfMod s flow (fun f => { f with
          freeAt := telNow s + paceTime f.limit (u.hdr ++ u.body).length,
          un := f.un.map (fun v => if v.seq = seq then { v with resends := v.resends + 1 } else v) })
        sendOwn (fabBump s1 R.fabResends 1) f.vc u.hdr u.body

/-! Accepting (R387). -/

def rfMod (s : State) (id : Nat) (f : RecvFlow → RecvFlow) : State :=
  { s with rflows := s.rflows.map (fun x => if x.id = id then f x else x) }

/-- BASE rises over the SEQs marked above it. -/
def baseUp (base : Nat) (marks : List Nat) (n : Nat) : Nat × List Nat :=
  match n with
  | 0 => (base, marks)
  | n + 1 => if marks.contains (base + 1) then baseUp (base + 1) (marks.filter (· ≠ base + 1)) n else (base, marks)

/-- A SEQ is marked, and an acknowledgement is owed. -/
def flowMark (s : State) (id seq : Nat) : State :=
  rfMod s id (fun f =>
    let b := baseUp f.base (f.marks ++ [seq]) (f.marks.length + 1)
    { f with base := b.1, marks := b.2, pend := f.pend + 1 })

/-- Buckets of a reduction that the staging window holds: the two lowest unfinished (R395). A packet of a bucket that is written needs no
staging: it is acknowledged and discarded (R399). -/
def inWindow (e : ColEnt) (kind b : Nat) : Bool :=
  if (ceOp e.raw = 1 || ceOp e.raw = 3) && kind ≤ 2 then
    e.wrote.contains b || ((List.range b).filter (fun x => !e.wrote.contains x)).length < 2
  else true

/-- An ACK packet of a receive flow (R374, R387, R459). -/
def ackSend (s : State) (f : RecvFlow) : State :=
  let slot := txSlot s f.dpart
  let map_ := ((List.range 64).map (fun i => if f.marks.contains (f.base + 1 + i) then 2 ^ i else 0)).sum
  let tail := beBytes 6 f.base ++ beBytes 1 f.vc ++ [0] ++ beBytes 8 map_
  let group := ((List.range 24).find? (fun v => v = f.vc)).map (fun v => rdf s (R.fabVcmapV v) 16 4)
  let h := mkHdr 1 (fieldAt 5 1 1 + fieldAt 4 1 slot) f.dev (ownDev s) (colSlice s f.dpart) (group.getD 0) f.spart f.dpart
    (rdf s R.fabE2eCfg 32 8) f.ackSeq tail
  let body := gcmSeal (fabKey s f.dpart slot) (fabNonce (ownDev s) f.dev f.dpart f.spart f.vc slot f.ackSeq) (fabAad h) []
  sendOwn (rfMod s f.id (fun f => { f with pend := 0, ackSeq := f.ackSeq + 1 })) 29 h body

/-- ACK_TIMER: a flow that owes an acknowledgement sends it (R387). -/
def ackTimer (s : State) (flow : Nat) : State :=
  match s.rflows.find? (fun f => f.id = flow) with
  | none => s
  | some f => if f.pend = 0 then s else ackSend s f

/-- A flow sends an ACK after every 8 accepted packets (R387). -/
def ackEight (s : State) (flow : Nat) : State :=
  match s.rflows.find? (fun f => f.id = flow) with
  | none => s
  | some f => if f.pend < 8 then s else ackSend s f

/-- PACKET_ACCEPT: the oldest COLL packet of a VC's pool that is addressed here and whole. -/
def packetAccept (s : State) (n vc : Nat) : State :=
  match (rxPool (lkGet s n) vc).find? (fun q => q.way = .local_ && q.whole && phType (pktHdr q.flits) = 0) with
  | none => s
  | some q =>
    let h := pktHdr q.flits
    let s0 := rxDrop s n vc q.id
    let fvc := if 5 ≤ phKind h then some 28 else groupVc s (phSlice h) (phGroup h)
    match s.rflows.find? (fun f => f.dev = phSrc h && f.spart = phSpart h && f.dpart = phDpart h && some f.vc = fvc) with
    | none => s0
    | some f =>
      let seq := phSeq h
      if seq ≤ f.base || f.marks.contains seq then fabBump s0 R.fabDupDrop 1
      else if f.base + 1024 < seq then s0
      else
        match colGet s f.dpart (phColl h) with
        | none => fabBump s0 R.fabDefer 1
        | some e =>
          let old := phEpoch h ≠ e.epoch && (e.epoch + 4294967296 - phEpoch h) % 4294967296 < 2147483648
          if phEpoch h ≠ e.epoch && !old then fabBump s0 R.fabDefer 1
          else if !old && !inWindow e (phKind h) (phBucket h) then fabBump s0 R.fabDefer 1
          else
            let body := (bodyOf q.flits).drop 32
            let key := fabKey s f.dpart (phKslot h)
            match gcmOpen key (fabNonce f.dev (ownDev s) f.spart f.dpart f.vc (phKslot h) seq) (fabAad h) body with
            | none => fabErr (fabBump s0 R.fabAuthFail 1) 4 (lkPort s n) (phSrc h) vc (phSlice h)
            | some plain =>
              let s1 := ackEight (flowMark s0 f.id seq) f.id
              if old then fabBump s1 R.fabDupDrop 1
              else
                let s2 := colBump (fabBump s1 R.fabDelivered 1) R.colBytesRecv plain.length 64
                let m : ColMsg := ⟨f.dpart, f.dev, f.spart, phColl h, phKind h, phRank h, phEpoch h, phBucket h, phOff h, phBackup h, plain⟩
                { s2 with colIn := s2.colIn ++ [m] }

/-- ACK_RECEIVE: the oldest ACK packet of a VC's pool frees what it acknowledges. -/
def ackReceive (s : State) (n vc : Nat) : State :=
  match (rxPool (lkGet s n) vc).find? (fun q => q.way = .local_ && q.whole && phType (pktHdr q.flits) = 1) with
  | none => s
  | some q =>
    let h := pktHdr q.flits
    let s0 := rxDrop s n vc q.id
    let fvc := hB h 22 1
    let key := fabKey s (phDpart h) (phKslot h)
    match gcmOpen key (fabNonce (phSrc h) (ownDev s) (phSpart h) (phDpart h) fvc (phKslot h) (phSeq h)) (fabAad h) ((bodyOf q.flits).drop 32) with
    | none => fabErr (fabBump s0 R.fabAuthFail 1) 4 (lkPort s n) (phSrc h) vc (phSlice h)
    | some _ =>
      match s.sflows.find? (fun f => f.dev = phSrc h && f.dpart = phSpart h && f.spart = phDpart h && f.vc = fvc) with
      | none => s0
      | some f =>
        let base := hB h 16 6
        let got := fun x => x ≤ base || (x ≤ base + 64 && bit (hB h 24 8) (x - base - 1))
        flowPump (sfMod s0 f.id (fun f => { f with un := f.un.filter (fun u => !got u.seq) })) f.id f.wait.length

/-! Discovery (R376–R378, R465). -/

/-- A port's neighbour as expected: device and port. -/
def expected (s : State) (p : Nat) : Option (Nat × Nat) :=
  if topoKind s = 1 then
    (if 6 ≤ p then none
     else
       let d := p / 2
       let n := topoSize s d
       let c := coord (ownDev s) d
       let c' := if p % 2 = 0 then (c + 1) % n else (c + n - 1) % n
       some (setBits (ownDev s) (4 * d) 4 c', oppPort p))
  else
    let a := rd s (R.fabAdjP p)
    if bit a 21 then some (bits a 0 16, bits a 16 5) else none

def adjSet (s : State) (p st : Nat) : State := wrf s (R.fabAdjP p) 22 2 st

/-- A port whose partner matches and whose DISC exchange agrees is ACTIVE; the routes of a torus follow (R377, R380). -/
def portSettle (s : State) (p : Nat) : State :=
  let x := portGet s p
  if portWidth s p = 0 then s
  else if x.match_ && x.disc && !x.lock then (if adjState s p = 1 then s else routesAgain (adjSet s p 1)) else s

/-- A check fails: MISMATCH, logged (R377). -/
def portMismatch (s : State) (p dev : Nat) : State := routesAgain (adjSet (fabErr s 6 p dev 0 0) p 2)

/-- PORT_DISCOVERY: a port's partner (LNK_PARTNER of its first live link) is compared with the expected neighbour. -/
def portDiscovery (s : State) (p : Nat) : State :=
  if 18 ≤ p || s.away then s
  else
    match portLive s p with
    | [] => s
    | n :: _ =>
      let v := rd s (R.lnkPartner n)
      if expected s p = some (bits v 0 16, bits v 21 5) then portSettle (portMod s p (fun x => { x with match_ := true })) p
      else portMismatch (portMod s p (fun x => { x with match_ := false })) p (bits v 0 16)

/-- DISC_SEND: a live link sends its device's address, port, topology hash and identity to the other end (R378). -/
def discSend (s : State) (n : Nat) : State :=
  if 18 ≤ n || (lkGet s n).st ≠ 2 then s
  else
    let h := mkHdr 2 0 65535 (ownDev s) 0 0 0 0 1 0 (List.replicate 14 0 ++ beBytes 2 19)
    let body := beBytes 2 (ownDev s) ++ beBytes 1 (lkPort s n) ++ beBytes 8 (rd s R.fabTopoHash) ++ beBytes 8 deviceId
    let q : TxPkt := ⟨s.nextPkt, 31, flitsOf 31 (h ++ body), true, none, false, 65535, some (linkSlice n), false⟩
    if stagingFlits (linkSlice n) < stagingUse s (linkSlice n) + 1 then hold s
    else lkMod { s with nextPkt := s.nextPkt + 1 } n (fun x => { x with txq := x.txq ++ [q] })

/-- A new identity is seen on a port (R465). -/
def peerSeen (s : State) (p id : Nat) : State :=
  let old := rd s (R.secPeerP p)
  if old = id then s
  else if old = 0 then wr s (R.secPeerP p) id
  else
    let s1 := wr (wr (wrf s (R.fabAdjP p) 24 1 1) (R.secPeerPrevP p) old) (R.secPeerP p) id
    let s2 := secErr s1 3 0 0 p id
    if bit (rd s R.secCtrl) 2 then routesAgain (adjSet (portMod s2 p (fun x => { x with lock := true })) p 2) else s2

/-- DISC_RECEIVE: the oldest DISC packet of a VC's pool is compared. -/
def discReceive (s : State) (n vc : Nat) : State :=
  match (rxPool (lkGet s n) vc).find? (fun q => q.way = .local_ && q.whole && phType (pktHdr q.flits) = 2) with
  | none => s
  | some q =>
    let b := (bodyOf q.flits).drop 32
    let p := lkPort s n
    if s.away || 18 ≤ p then s
    else
      let s0 := peerSeen (rxDrop s n vc q.id) p (hB b 11 8)
      if hB b 3 8 = rd s R.fabTopoHash then portSettle (portMod s0 p (fun x => { x with disc := true })) p
      else portMismatch (portMod s0 p (fun x => { x with disc := false })) p (hB b 0 2)

/-- PEER_CHANGED_CLEAR: a write of 1 to FAB_ADJ_p.PEER_CHANGED (R465). -/
def peerChangedClear (s : State) (p : Nat) : State :=
  if 18 ≤ p then s
  else
    let s1 := wrf s (R.fabAdjP p) 24 1 0
    if (portGet s p).lock then portSettle (portMod s1 p (fun x => { x with lock := false })) p else s1

end Sys2Proof.Machine
end

