-- ==== Sys2Proof/Machine/Collective.lean ====
section
/-!
DEFINITION. The collective engine (R389–R404): loading a table, buckets, operations and their messages, reductions in rank order, backups,
trees, NaN handling, completion and failure.
-/

namespace Sys2Proof.Machine

/-! Geometry (R393, R395, R396). -/

def ceRed (d : Nat) : Bool := ceOp d = 1 || ceOp d = 3
def ceTree (d : Nat) : Bool := ceOp d = 5 || ceOp d = 6

/-- ACT_LEN of an entry before any flush: LENGTH with CTL_EN = 0 (R393). -/
def actStart (raw : Nat) : Option Nat := if ceCtlEn raw then none else some (ceLen raw)

/-- Buckets of an instance whose ACT_LEN is known. -/
def bucketCount (e : ColEnt) : Option Nat := e.act.map (fun a => cdiv a (ceBucket e.raw))

/-- Shard `j` of a bucket of `m` bytes among `n` ranks: first byte and bytes (R395). -/
def shardLo (m n j : Nat) : Nat := min m (j * (256 * cdiv m (256 * n)))
def shardLen (m n j : Nat) : Nat := shardLo m n (j + 1) - shardLo m n j

/-- The ranks that share a tree, the root first (R400). -/
def treeRanks (e : ColEnt) : List Nat :=
  let root := ceRoot e.raw
  let l := if ceOp e.raw = 6 then (List.range e.n).filter (fun k => k = root || e.mask.contains k) else List.range e.n
  l.filter (fun k => root ≤ k) ++ l.filter (fun k => k < root)

def treeIdx (e : ColEnt) : Option Nat := lfind (treeRanks e) (fun k => k = e.self)

/-- The children of this rank in the tree. -/
def treeKids (e : ColEnt) : List Nat :=
  match treeIdx e with
  | none => []
  | some x => ((List.range 12).filter (fun m => x < 2 ^ m)).filterMap (fun m => lget (treeRanks e) (x + 2 ^ m))

/-- The parent: the highest set bit cleared. -/
def treeParent (e : ColEnt) : Option Nat :=
  match treeIdx e with
  | none => none
  | some 0 => none
  | some x => lget (treeRanks e) (x - 2 ^ Nat.log2 x)

/-- The rank that backs rank `k`. -/
def backOf (e : ColEnt) (k : Nat) : Option Nat :=
  match lget e.grp k with
  | some g => if geBkValid g then some (geBk g) else none
  | none => none

/-- The ranks that this rank backs. -/
def backed (e : ColEnt) : List Nat := (List.range e.n).filter (fun k => k ≠ e.self && backOf e k = some e.self)

/-! Sending (R396). -/

def digAdd (s : State) (p c dev part dir b off : Nat) (data : List Byte) : State :=
  if data.isEmpty then s else colMod s p c (fun e => { e with dig := e.dig ++ [⟨dev, part, dir, b, off, data⟩] })

/-- A control message to rank `k` on VC 28. -/
def colCtl (s : State) (p c : Nat) (e : ColEnt) (k kind b off : Nat) (data : List Byte) : State :=
  match lget e.grp k with
  | none => s
  | some g => flowSend s p (geDev g) (gePart g) 28 ⟨kind, c, e.self, e.epoch, b, off, false, data⟩

/-- Data of bucket `b` from offset `off` to rank `k`, in packets of 8,192 bytes; `rank` is the contribution's rank and `bk` marks a
backup's copy. -/
def colData (s : State) (p c : Nat) (e : ColEnt) (k kind b off : Nat) (data : List Byte) (bk : Bool) (rank : Nat) : State :=
  match lget e.grp k with
  | none => s
  | some g =>
    let ps := pieces 8192 data
    (List.range ps.length).foldl (fun t i =>
      let d := ps.getD i []
      let o := off + 8192 * i
      digAdd (flowSend t p (geDev g) (gePart g) e.vc ⟨kind, c, rank, e.epoch, b, o, bk, d⟩) p c (geDev g) (gePart g) 0 b o d) s

/-- The slices whose parts of the engine hold granules of a range inside one page (R389, R577): a part serves what its slice is home of
(DEDUCED, log 66). The part that comes first serves a page that is not mapped. -/
def colDies (s : State) (p va len : Nat) : List Nat :=
  match (walk s 0 p (va / 65536 % 2 ^ 32) false).1 with
  | .leaf e _ _ =>
    ((List.range (granuleCount va len)).map (fun i => homeSlice s.hbm.dead (65536 * leFrame e + (va % 65536 / 2048 + i) * 2048))).dedup
  | _ => [0]

/-- Every part that serves a page walks it on its own base die (R577); the first one's walk is the access's own. -/
def colWalks (s : State) (p va : Nat) (dies : List Nat) : State := (dies.drop 1).foldl (fun t d => (agWalk t d p va).2) s

/-- A read by the parts of the engine, page by page: as `vaGet`. -/
def colPages (s : State) (p va len n : Nat) : Option (List Byte) × Bool × State :=
  match n with
  | 0 => (some [], false, s)
  | n + 1 =>
    if len = 0 then (some [], false, s)
    else
      let part := min len (65536 - va % 65536)
      let dies := colDies s p va part
      let r := vaGetAt (colWalks s p va dies) (dies.headD 0) p va part false
      match r.1 with
      | none => r
      | some bs =>
        let x := colPages r.2.2 p (va + part) (len - part) n
        (x.1.map (fun d => bs ++ d), x.2.1, x.2.2)

/-- Partition memory as the engine reads it; a failed read fails the instance. -/
def colRead (s : State) (p c va len : Nat) : Option (List Byte) × State :=
  let r := colPages s p va len (pageFuel len)
  match r.1 with
  | some bs => (some bs, r.2.2)
  | none => (none, colFail r.2.2 p c (if r.2.1 then 5 else 4))

/-- A write by the parts of the engine, page by page: as `putCow`. -/
def colPut1 (s : State) (p va : Nat) (data : List Byte) (n : Nat) : Option Nat × State :=
  match n with
  | 0 => (none, s)
  | n + 1 =>
    if data.isEmpty then (none, s)
    else
      let part := min data.length (65536 - va % 65536)
      let dies := colDies s p va part
      let w := putPage (colWalks s p va dies) (dies.headD 0) p va (data.take part)
      match w.1 with
      | some c => (some c, w.2)
      | none => colPut1 w.2 p (va + part) (data.drop part) n

/-- A write by the engine; a refused one fails the instance. -/
def colWrite (s : State) (p c va : Nat) (data : List Byte) : Bool × State :=
  let w := colPut1 s p va data (pageFuel data.length)
  match w.1 with
  | none => (true, w.2)
  | some code => (false, colFail w.2 p c code)

/-- Bytes of RECV written for a bucket; the bucket is written when `need` bytes are. -/
def recvGot (s : State) (p c b k need : Nat) : State :=
  colMod s p c (fun e =>
    let g := tgetD e.got b 0 + k
    { e with got := tput e.got b g, wrote := if need ≤ g && !e.wrote.contains b then e.wrote ++ [b] else e.wrote })

/-! Contributions (R399). -/

def heldFind (e : ColEnt) (b rank : Nat) (bk : Bool) : Option Contrib :=
  e.held.find? (fun x => x.b = b && x.rank = rank && x.bk = bk)

def gotBytes (x : Contrib) : Nat := (x.got.map (fun y => y.2.length)).sum

/-- A contribution's bytes in order of offset. -/
def contribData (x : Contrib) : List Byte :=
  ((x.got.map (fun y => (⟨0, 0, 0, 0, y.1, y.2⟩ : DigPart))).foldl (fun l d => digSort d l) []).flatMap (·.data)

/-- Bytes that a contribution of rank `rank` must bring here: this rank's shard, the bucket, or the block. -/
def contribNeed (e : ColEnt) (b rank : Nat) : Option Nat :=
  if ceRed e.raw then some (shardLen (bucketLen e b) e.n e.self)
  else if ceOp e.raw = 2 then some (bucketLen e b)
  else tget e.counts rank

def contribWhole (e : ColEnt) (b rank : Nat) (bk : Bool) : Option (List Byte) :=
  match contribNeed e b rank, heldFind e b rank bk with
  | some 0, _ => some []
  | some need, some x => if need ≤ gotBytes x then some (contribData x) else none
  | _, _ => none

/-- The copy taken for rank `rank`: the one that has been marked as taken, else the primary once it is complete, or past the deadline the backup's
(R399). -/
def contribTake (e : ColEnt) (b rank : Nat) : Option (List Byte × Bool) :=
  match e.held.find? (fun x => x.b = b && x.rank = rank && x.taken) with
  | some x => some (contribData x, x.bk)
  | none =>
    match contribWhole e b rank false with
    | some d => some (d, false)
    | none =>
      if e.late.contains (b, rank) then (contribWhole e b rank true).map (fun d => (d, true)) else none

/-- A copy that can be taken is marked: past the deadline it is the one that was complete first (R399). -/
def contribMark (e : ColEnt) (b rank : Nat) : ColEnt :=
  match contribTake e b rank with
  | none => e
  | some (_, bk) => { e with held := e.held.map (fun x => if x.b = b && x.rank = rank && x.bk = bk then { x with taken := true } else x) }

/-- A piece joins a contribution. -/
def heldAdd (e : ColEnt) (b rank : Nat) (bk : Bool) (off : Nat) (data : List Byte) : ColEnt :=
  contribMark
    (if (heldFind e b rank bk).isSome then
      { e with held := e.held.map (fun x => if x.b = b && x.rank = rank && x.bk = bk then { x with got := x.got ++ [(off, data)] } else x) }
    else { e with held := e.held ++ [⟨b, rank, bk, [(off, data)], false⟩] }) b rank

/-- The copies of a contribution are done with: those not taken are counted (R399). -/
def heldDrop (s : State) (p c b rank : Nat) (bk : Bool) : State :=
  match colGet s p c with
  | none => s
  | some e =>
    let lost := ((e.held.filter (fun x => x.b = b && x.rank = rank && x.bk ≠ bk)).map gotBytes).sum
    let s1 := colPut s p c { e with held := e.held.filter (fun x => !(x.b = b && x.rank = rank)) }
    let s2 := if lost = 0 then s1 else colBump s1 R.colBackupDiscard lost 64
    if bk then colBump s2 R.colBackupTaken 1 else s2

/-- A FETCH of `len` bytes of rank `want`'s data, to rank `k` (R399, R401). -/
def fetchSend (s : State) (p c : Nat) (e : ColEnt) (k b off len want : Nat) (bk : Bool) : State :=
  let s1 := colMod s p c (fun e => { e with fetches := e.fetches ++ [⟨b, off, k, bk⟩] })
  colCtl (colBump s1 R.colFetches 1) p c e k 8 b off (leBytes 4 len ++ leBytes 2 want ++ [0, 0])

/-- This rank's own bytes of its shard of a bucket. -/
def ownShard (s : State) (p c : Nat) (e : ColEnt) (b : Nat) : Option (List Byte) × State :=
  let m := bucketLen e b
  colRead s p c (ceSend e.raw + b * ceBucket e.raw + shardLo m e.n e.self) (shardLen m e.n e.self)

/-- The backup's copy of rank `k`'s contribution to bucket `b`: from this rank's own SEND when it is the backup, by FETCH otherwise. -/
def backFetch (s : State) (p c : Nat) (e : ColEnt) (b k : Nat) : State :=
  match backOf e k with
  | none => s
  | some r =>
    if (heldFind e b k true).isSome || e.fetches.any (fun f => f.b = b && f.rank = r && f.bk) then s
    else if r = e.self then
      let d := if ceRed e.raw then ownShard s p c e b
               else if ceOp e.raw = 2 then colRead s p c (ceSend e.raw + b * ceBucket e.raw) (bucketLen e b)
               else colRead s p c (ceSend e.raw + e.self * ceLen e.raw) ((tget e.counts k).getD 0)
      match d.1 with
      | none => d.2
      | some bs => colMod d.2 p c (fun e => heldAdd e b k true 0 bs)
    else
      let lo := if ceRed e.raw then shardLo (bucketLen e b) e.n e.self else 0
      fetchSend s p c e r b lo ((contribNeed e b k).getD (ceLen e.raw)) k true

/-! Reduction (R394, R402). -/

def toWords (bs : List Byte) : List W32 := (pieces 4 bs).map (fun w => BitVec.ofNat 32 (leVal w))
def fromWords (ws : List W32) : List Byte := ws.flatMap (fun w => leBytes 4 w.toNat)
def isNan32 (w : W32) : Bool := FVal.isNaN (v32 w)

/-- One element's reduction by the next contribution, and whether an INT32 sum saturated. -/
def redStep (raw : Nat) (a b : W32) : W32 × Bool :=
  if ceElem raw = 1 then addSat32 a (sbits b.toNat 32) else (if ceMax raw then max32 a b else add32 a b, false)

/-- Contributions reduced strictly in rank order; a NaN of a lone FP32 contribution gives the canonical NaN (R402). -/
def redAll (raw : Nat) (l : List (List W32)) : List W32 × Bool :=
  match l with
  | [] => ([], false)
  | [c0] => (if ceElem raw = 1 then c0 else c0.map (fun w => if isNan32 w then 0x7FC00000 else w), false)
  | c0 :: r => r.foldl (fun acc c =>
      let z := List.zipWith (redStep raw) acc.1 c
      (z.map (·.1), acc.2 || z.any (·.2))) (c0, false)

/-- The copy used of each rank's contribution with NaN substitution (R402): none while a backup's copy is awaited; a failure is left to
the caller as the ranks with no clean copy. -/
def redPick (s : State) (p c : Nat) (e : ColEnt) (b : Nat) (l : List (Nat × List W32 × Bool)) :
    Option (List (Nat × List W32 × Bool)) × Bool × State :=
  match l with
  | [] => (some [], false, s)
  | (k, ws, bk) :: r =>
    if !ws.any isNan32 then
      let t := redPick s p c e b r
      (t.1.map (fun x => (k, ws, bk) :: x), t.2.1, t.2.2)
    else
      match backOf e k with
      | none => (none, true, s)
      | some q =>
        let s1 := if q = e.self then backFetch s p c e b k else s
        let e1 := (colGet s1 p c).getD e
        match contribWhole e1 b k true with
        | some d =>
          if (toWords d).any isNan32 then (none, true, s1)
          else
            let t := redPick s1 p c e b r
            (t.1.map (fun x => (k, toWords d, true) :: x), t.2.1, t.2.2)
        | none => (none, false, backFetch s1 p c e1 b k)

/-- The count of a bucket with a NaN contribution, and its record, which only the policy that propagates the NaN asks for (R402, R407). -/
def nanNote (s : State) (p c b lo : Nat) (l : List (Nat × List W32 × Bool)) : State :=
  match l.find? (fun x => x.2.1.any isNan32) with
  | none => s
  | some (k, ws, _) =>
    let i := (lfind ws isNan32).getD 0
    let s1 := colBump s R.colNan 1
    if bit (rd s1 (R.colNanLogP p)) 0 || bit (rd s1 R.colNanPolicy) p then s1
    else wr s1 (R.colNanLogP p) (1 + fieldAt 1 8 c + fieldAt 9 12 k + fieldAt 21 14 b + fieldAt 35 23 (lo / 4 + i))

/-- The reduced shard is written to RECV; ALL_REDUCE sends it to every other rank (R396). -/
def redDone (s : State) (p c : Nat) (e : ColEnt) (b : Nat) (bs : List Byte) : State :=
  let m := bucketLen e b
  let lo := shardLo m e.n e.self
  let w := colWrite s p c (ceRecv e.raw + b * ceBucket e.raw + lo) bs
  if !w.1 then w.2
  else
    let s1 := colMod w.2 p c (fun e => { e with flight := e.flight.filter (· ≠ b), ended := e.ended ++ [b] })
    if ceOp e.raw = 1 then colMod s1 p c (fun e => { e with wrote := e.wrote ++ [b] })
    else
      let s2 := recvGot s1 p c b bs.length m
      (List.range e.n).foldl (fun t k => if k = e.self then t else colData t p c e k 2 b lo bs false e.self) s2

/-- A reduction reads its staging in every slice: an uncorrectable word poisons a staging line (R217), and a poisoned one gives the
uncorrectable-error indication. Which of a partition's staging lines is poisoned is not held: whether it is among those read is a free
value (log 14). -/
def stageRead (s : State) (p : Nat) : Bool × State :=
  [0, 1, 2, 3].foldl (fun acc sl =>
    let s := acc.2
    if tgetD (slGet s sl).staging p 0 = 0 then acc
    else
      let i := chmInject s sl none
      if i.1 then (true, chmErr (chmBump i.2 sl (R.chmUeCount sl) 1) sl 2 0 5 p none)
      else if !(slGet i.2 sl).stagePois.contains p then (acc.1, i.2)
      else
        let f := freeBits i.2 1
        if f.1 = 1 then (true, slMod f.2 sl (fun x => { x with stagePois := x.stagePois.erase p })) else (acc.1, f.2)) (false, s)

/-- The owner reduces its shard of a bucket once every contribution is held. -/
def redTry (s : State) (p c b : Nat) : State :=
  match colGet s p c with
  | none => s
  | some e =>
    if e.st ≠ 2 || !e.ran.contains b || e.ended.contains b then s
    else
      let others := (List.range e.n).filter (· ≠ e.self)
      if others.any (fun k => (contribTake e b k).isNone) then s
      else
        let o := ownShard s p c e b
        match o.1 with
        | none => o.2
        | some own =>
          let l := (List.range e.n).map (fun k =>
            if k = e.self then (k, toWords own, false)
            else let t := (contribTake e b k).getD ([], false); (k, toWords t.1, t.2))
          let lo := shardLo (bucketLen e b) e.n e.self
          let fp := ceElem e.raw = 0
          let pick := if fp && bit (rd s R.colNanPolicy) p then redPick o.2 p c e b l else (some l, false, o.2)
          if pick.2.1 then colFail (nanNote pick.2.2 p c b lo l) p c 13
          else
            match pick.1 with
            | none => pick.2.2
            | some l' =>
              let s1 := if fp then nanNote pick.2.2 p c b lo l else pick.2.2
              if (stageRead s1 p).1 then colFail (stageRead s1 p).2 p c 5 else
              let r := redAll e.raw (l'.map (fun x => x.2.1))
              let s2 := l'.foldl (fun t x => heldDrop t p c b x.1 x.2.2) (stageRead s1 p).2
              let s3 := if r.2 then colMod s2 p c (fun e => { e with sat := true }) else s2
              redDone s3 p c e b (fromWords r.1)

/-- A contribution of ALL_GATHER or a block of ALL_TO_ALL is taken into RECV. -/
def gatherTake (s : State) (p c b rank : Nat) : State :=
  match colGet s p c with
  | none => s
  | some e =>
    let key := if ceOp e.raw = 4 then rank else b * 4096 + rank
    if e.st ≠ 2 || tgetD e.got (2 ^ 32 + key) 0 = 1 then s
    else
      match contribTake e b rank with
      | none => s
      | some (d, bk) =>
        let w := colWrite s p c (ceRecv e.raw + rank * ceLen e.raw + b * ceBucket e.raw) d
        if !w.1 then w.2
        else
          let s1 := colMod (heldDrop w.2 p c b rank bk) p c (fun e => { e with got := tput e.got (2 ^ 32 + key) 1 })
          if ceOp e.raw = 4 then colMod s1 p c (fun e => { e with wrote := e.wrote ++ [rank] })
          else recvGot s1 p c b d.length (e.n * bucketLen e b)

/-- What a change in the contributions of a bucket lets happen. -/
def colTry (s : State) (p c b rank : Nat) : State :=
  match colGet s p c with
  | none => s
  | some e => if ceRed e.raw then redTry s p c b else if ceTree e.raw then s else gatherTake s p c b rank

/-! Buckets and operations (R395, R396). -/

/-- BUCKET_START: a full bucket starts when fewer than 2 are in flight; one of a MULTICAST not before the flush, which reads the mask (R396). -/
def bucketStart (s : State) (p c b : Nat) : State :=
  match colGet s p c with
  | none => s
  | some e =>
    let m := bucketLen e b
    if e.st = 0 || e.st = 3 || ceOp e.raw = 4 || (ceTree e.raw && e.self ≠ ceRoot e.raw) || (ceOp e.raw = 6 && e.act.isNone) || m = 0 || tgetD e.cnt b 0 < m
      || e.flight.contains b || e.ran.contains b || 2 ≤ e.flight.length then s
    else colPut s p c { e.run with flight := e.flight ++ [b] }

/-- A bucket in flight whose operation, `op`, has not run. -/
def opReady (e : ColEnt) (op b : Nat) : Bool := e.st = 2 && ceOp e.raw = op && e.flight.contains b && !e.ran.contains b

/-- The contributions of a reduction leave for their owners, and with BK_MODE EAGER the backup copies of the ranks this rank backs. -/
def reduceOp (s : State) (p c op b : Nat) : State :=
  match colGet s p c with
  | none => s
  | some e =>
    if !opReady e op b then s
    else
      let m := bucketLen e b
      let d := colRead s p c (ceSend e.raw + b * ceBucket e.raw) m
      match d.1 with
      | none => d.2
      | some bs =>
        let shard := fun j => (bs.drop (shardLo m e.n j)).take (shardLen m e.n j)
        let s1 := colMod d.2 p c (fun e => { e with ran := e.ran ++ [b] })
        let s2 := (List.range e.n).foldl (fun t j =>
          if j = e.self then t else colData t p c e j 1 b (shardLo m e.n j) (shard j) false e.self) s1
        let s3 := if ceDemand e.raw then s2
          else (backed e).foldl (fun t k =>
            let t1 := if shardLen m e.n e.self = 0 then t else colMod t p c (fun e => heldAdd e b k true 0 (shard e.self))
            (List.range e.n).foldl (fun t j =>
              if j = e.self || j = k then t else colData t p c e j 1 b (shardLo m e.n j) (shard j) true k) t1) s2
        redTry s3 p c b

def reduceScatter (s : State) (p c b : Nat) : State := reduceOp s p c 1 b
def allReduce (s : State) (p c b : Nat) : State := reduceOp s p c 3 b

/-- ALL_GATHER: the bucket to every other rank, and into this rank's part of RECV. -/
def allGather (s : State) (p c b : Nat) : State :=
  match colGet s p c with
  | none => s
  | some e =>
    if !opReady e 2 b then s
    else
      let m := bucketLen e b
      let d := colRead s p c (ceSend e.raw + b * ceBucket e.raw) m
      match d.1 with
      | none => d.2
      | some bs =>
        let s1 := colMod d.2 p c (fun e => { e with ran := e.ran ++ [b], flight := e.flight.filter (· ≠ b), ended := e.ended ++ [b] })
        let s2 := (List.range e.n).foldl (fun t j => if j = e.self then t else colData t p c e j 1 b 0 bs false e.self) s1
        let s3 := if ceDemand e.raw then s2
          else (backed e).foldl (fun t k =>
            let t1 := colMod t p c (fun e => heldAdd e b k true 0 bs)
            (List.range e.n).foldl (fun t j => if j = e.self || j = k then t else colData t p c e j 1 b 0 bs true k) t1) s2
        let w := colWrite s3 p c (ceRecv e.raw + e.self * ceLen e.raw + b * ceBucket e.raw) bs
        if w.1 then recvGot w.2 p c b m (e.n * m) else w.2

/-- The bytes of slot `j` of SEND that an ALL_TO_ALL instance sends. -/
def slotRead (s : State) (p c : Nat) (e : ColEnt) (j a : Nat) : Option (List Byte) × State :=
  colRead s p c (ceSend e.raw + j * ceLen e.raw) a

/-- A block to rank `k`: cut at the bucket boundaries. -/
def blockSend (s : State) (p c : Nat) (e : ColEnt) (k : Nat) (bs : List Byte) (bk : Bool) (rank : Nat) : State :=
  let ps := pieces (ceBucket e.raw) bs
  (List.range ps.length).foldl (fun t b => colData t p c e k 3 b 0 (ps.getD b []) bk rank) s

/-- COUNTS and BLOCK of slot `j` to rank `j`, a copy of the block to its backup, and the blocks of the ranks this rank backs. The header has
no field for the slot: the copy to a backup carries BACKUP = 1 and the sender's own rank (DESIGN CHOICE, log 63). -/
def toRank (s : State) (p c : Nat) (e : ColEnt) (a j : Nat) : State :=
  if j = e.self || (colGet s p c).any (fun e => e.st = 3) then s
  else
    let d := slotRead s p c e j a
    match d.1 with
    | none => d.2
    | some bs =>
      let s1 := colCtl d.2 p c e j 5 0 0 (leBytes 4 a)
      let s2 := blockSend s1 p c e j bs false e.self
      let s3 := match backOf e j with
        | some r => if r = e.self then s2 else blockSend s2 p c e r bs true e.self
        | none => s2
      if ceDemand e.raw then s3
      else (backed e).foldl (fun t k => if k = j then t else blockSend t p c e j bs true k) s3

/-- ALL_TO_ALL, at the flush. -/
def allToAll (s : State) (p c : Nat) : State :=
  match colGet s p c with
  | none => s
  | some e =>
    match e.act with
    | none => s
    | some a =>
      if ceOp e.raw ≠ 4 || e.st ≠ 2 || e.ran.contains 0 then s
      else
        let s1 := colPut s p c { e with ran := [0] }
        let s2 := (List.range e.n).foldl (fun t j => toRank t p c e a j) s1
        let d := slotRead s2 p c e e.self a
        match d.1 with
        | none => d.2
        | some bs =>
          let w := colWrite d.2 p c (ceRecv e.raw + e.self * ceLen e.raw) bs
          let w2 := if w.1 then colWrite w.2 p c (ceAux e.raw + 64 + 4 * e.self) (leBytes 4 a) else w
          if w2.1 then colMod w2.2 p c (fun e => { e with wrote := e.wrote ++ [e.self] }) else w2.2

/-! Trees (R400, R401). -/

/-- The send flow to rank `k` on the entry's data VC. -/
def kidFlow (s : State) (p : Nat) (e : ColEnt) (k : Nat) : Option SendFlow :=
  match lget e.grp k with
  | none => none
  | some g => s.sflows.find? (fun f => f.spart = p && f.dev = geDev g && f.dpart = gePart g && f.vc = e.vc)

/-- Is a waiting packet data of this instance's tree. -/
def treePkt (c epoch : Nat) (w : ColPkt) : Bool := w.kind = 4 && w.coll = c && w.epoch = epoch

/-- The pieces that a child has not taken: those that wait for it, bucket, offset and bytes. -/
def kidWaits (s : State) (p c : Nat) (e : ColEnt) (k : Nat) : List (Nat × Nat × Nat) :=
  match kidFlow s p e k with
  | none => []
  | some f => (f.wait.filter (treePkt c e.epoch)).map (fun w => (w.b, w.off, w.data.length))

/-- The entry's budget in bytes, and in microseconds: CHM_MC_BUDGET's by default (R208, R390). -/
def treeBudget (s : State) (e : ColEnt) : Nat :=
  1024 * (if ceBudgetKib e.raw = 0 then rdf s (R.chmMcBudget 0) 0 16 else ceBudgetKib e.raw)
def treeTime (s : State) (e : ColEnt) : Nat := if ceBudgetUs e.raw = 0 then rdf s (R.chmMcBudget 0) 16 16 else ceBudgetUs e.raw

/-- The live multicast entries of a node (R206, R400): the pieces that a child has taken and another child has not, with the time at which the
first took it. -/
def treeLive (s : State) (p c : Nat) (e : ColEnt) : List (Nat × Nat × Nat × Nat) :=
  let ws := ((treeKids e).filter (fun k => !e.pruned.contains k)).map (kidWaits s p c e)
  let live := ws.flatten.dedup.filter (fun x => ws.any (fun w => !w.contains x))
  let old := e.ents.filter (fun x => live.contains (x.1, x.2.1, x.2.2.1))
  old ++ ((live.filter (fun x => !old.any (fun y => (y.1, y.2.1, y.2.2.1) = x))).map (fun x => (x.1, x.2.1, x.2.2, s.now)))

/-- A child is pruned (R208, R401): what waits for it is not sent, and a GAP names the first piece it has not taken. CHM_MC_PRUNES counts it in the
slice that is home of that piece. -/
def kidPrune (s : State) (p c b off k : Nat) : State :=
  match colGet s p c with
  | none => s
  | some e =>
    let ws := kidWaits s p c e k
    let sl := (colDies s p (ceRecv e.raw + b * ceBucket e.raw + off) 1).headD 0
    let g := (lget e.grp k).getD 0
    let gone := fun (d : DigPart) => d.dev = geDev g && d.part = gePart g && d.dir = 0 && ws.any (fun w => w.1 = d.b && w.2.1 = d.off)
    let s1 := colPut s p c { e with pruned := e.pruned ++ [k], dig := e.dig.filter (fun d => !gone d) }
    let s2 := match kidFlow s p e k with
      | some f => sfMod s1 f.id (fun f => { f with wait := f.wait.filter (fun w => !treePkt c e.epoch w) })
      | none => s1
    colCtl (colBump (colBump (chmBump s2 sl (R.chmMcPrunes sl) 1) R.colPrunes 1) R.colGaps 1) p c e k 7 b off []

/-- While the live entries hold more bytes than the budget, or the oldest has reached its time, every child that has not taken the oldest is pruned
(R208, R400). -/
def treeCheck (s : State) (p c n : Nat) : State :=
  match n with
  | 0 => s
  | n + 1 =>
    match colGet s p c with
    | none => s
    | some e =>
      if !ceTree e.raw || e.st ≠ 2 then s
      else
        let live := treeLive s p c e
        let s1 := if live = e.ents then s else colPut s p c { e with ents := live }
        match live with
        | [] => s1
        | x :: _ =>
          if treeBudget s e < (live.map (fun y => y.2.2.1)).sum || x.2.2.2 + 440000 * treeTime s e ≤ s.now then
            let out := (treeKids e).filter (fun k => !e.pruned.contains k && (kidWaits s p c e k).contains (x.1, x.2.1, x.2.2.1))
            treeCheck (out.foldl (fun t k => kidPrune t p c x.1 x.2.1 k) s1) p c n
          else s1

/-- The trees of a partition's entries are checked. -/
def treesCheck (s : State) : State := s.cols.foldl (fun t e => treeCheck t (e.1 / 256) (e.1 % 256) 13) s

/-- ACK_RECEIVE: what was acknowledged may let waiting packets of a tree be taken. -/
def ackIn (s : State) (n vc : Nat) : State := treesCheck (ackReceive s n vc)

/-- Data to a child that is not pruned. -/
def toChild (s : State) (p c b off : Nat) (bs : List Byte) (k : Nat) : State :=
  match colGet s p c with
  | none => s
  | some e => if e.pruned.contains k then s else colData s p c e k 4 b off bs false e.self

/-- Data of a tree goes on to the children, through entries of which each child takes its copy (R400), and to the ranks served by unicast. -/
def treeDown (s : State) (p c : Nat) (e : ColEnt) (b off : Nat) (bs : List Byte) : State :=
  let s1 := (treeKids e).foldl (fun t k => toChild t p c b off bs k) s
  e.uni.foldl (fun t k => colData t p c e k 4 b off bs false e.self) (treeCheck s1 p c 13)

/-- The root's bucket is sent down; the root keeps it until the instance completes. -/
def treeOp (s : State) (p c op b : Nat) : State :=
  match colGet s p c with
  | none => s
  | some e =>
    if !opReady e op b then s
    else
      let m := bucketLen e b
      let d := colRead s p c (ceSend e.raw + b * ceBucket e.raw) m
      match d.1 with
      | none => d.2
      | some bs =>
        let s1 := colMod d.2 p c (fun e => { e with ran := e.ran ++ [b], flight := e.flight.filter (· ≠ b) })
        let w := colWrite (treeDown s1 p c e b 0 bs) p c (ceRecv e.raw + b * ceBucket e.raw) bs
        if w.1 then recvGot w.2 p c b m m else w.2

def broadcast (s : State) (p c b : Nat) : State := treeOp s p c 5 b
def multicast (s : State) (p c b : Nat) : State := treeOp s p c 6 b

/-- Does this rank hold every bucket and have the DONE of every child. -/
def treeHeld (e : ColEnt) : Bool :=
  match bucketCount e with
  | none => false
  | some nb => (List.range nb).all (fun b => e.wrote.contains b) && (treeKids e).all (fun k => e.kids.contains k)

/-- A node sends DONE to its parent (R400). -/
def doneTry (s : State) (p c : Nat) : State :=
  match colGet s p c with
  | none => s
  | some e =>
    if !ceTree e.raw || e.st ≠ 2 || e.doneTx || !treeHeld e then s
    else
      match treeParent e with
      | none => s
      | some k => colCtl (colPut s p c { e with doneTx := true }) p c e k 6 0 0 []

/-! Messages. -/

/-- Message `i` of the accepted ones, of a KIND, for the instance that its entry runs; and the state without it. A message of another
instance, or of a FAILED one, is discarded. -/
def msgTake (s : State) (i kind : Nat) : Option (ColMsg × ColEnt) × State :=
  match lget s.colIn i with
  | none => (none, s)
  | some m =>
    if m.kind ≠ kind then (none, s)
    else
      let s1 := { s with colIn := ldel s.colIn i }
      match colGet s m.part m.coll with
      | none => (none, s1)
      | some e =>
        if e.epoch ≠ m.epoch || e.st = 3 || e.st = 0 then (none, s1)
        else
          let s2 := colPut s1 m.part m.coll e.run
          let s3 := if kind ≤ 4 then digAdd s2 m.part m.coll m.dev m.spart 1 m.b m.off m.data else s2
          (some (m, e.run), s3)

/-- A contribution or block of a bucket already taken is acknowledged and discarded (R399). -/
def lateCopy (e : ColEnt) (b rank : Nat) : Bool :=
  if ceRed e.raw then e.ended.contains b
  else tgetD e.got (2 ^ 32 + (if ceOp e.raw = 4 then rank else b * 4096 + rank)) 0 = 1

/-- A piece of a contribution arrives. -/
def contribIn (s : State) (m : ColMsg) (e : ColEnt) (b off : Nat) : State :=
  if lateCopy e b m.rank then colBump s R.colBackupDiscard m.data.length 64
  else
    let s1 := colMod s m.part m.coll (fun e =>
      heldAdd { e with fetches := e.fetches.filter (fun f => !(f.b = b && m.bk && f.bk && backOf e m.rank = some f.rank)) } b m.rank m.bk off m.data)
    colTry s1 m.part m.coll b m.rank

def contribMsg (s : State) (i : Nat) : State :=
  let t := msgTake s i 1
  match t.1 with
  | none => t.2
  | some (m, e) =>
    contribIn t.2 m e m.b (if ceRed e.raw then m.off - shardLo (bucketLen e m.b) e.n e.self else m.off)

/-- BLOCK. RECV has no place for the copy of another rank's slot (R396): a backup acknowledges and discards it (DESIGN CHOICE, log 63). -/
def blockMsg (s : State) (i : Nat) : State :=
  let t := msgTake s i 3
  match t.1 with
  | none => t.2
  | some (m, e) =>
    if m.bk && (lget e.grp m.rank).any (fun g => geDev g = m.dev && gePart g = m.spart) then
      colBump t.2 R.colBackupDiscard m.data.length 64
    else contribIn t.2 m e 0 (m.b * ceBucket e.raw + m.off)

def resultMsg (s : State) (i : Nat) : State :=
  let t := msgTake s i 2
  match t.1 with
  | none => t.2
  | some (m, e) =>
    let w := colWrite t.2 m.part m.coll (ceRecv e.raw + m.b * ceBucket e.raw + m.off) m.data
    if w.1 then recvGot w.2 m.part m.coll m.b m.data.length (bucketLen e m.b) else w.2

/-- BCAST. A node of a MULTICAST handles its data once its own flush has read the mask (R396): until then the message stays. -/
def bcastMsg (s : State) (i : Nat) : State :=
  let t := msgTake s i 4
  match t.1 with
  | none => t.2
  | some (m, e) =>
    if ceOp e.raw = 6 && e.act.isNone then s else
    let w := colWrite t.2 m.part m.coll (ceRecv e.raw + m.b * ceBucket e.raw + m.off) m.data
    if !w.1 then w.2
    else
      let s1 := recvGot w.2 m.part m.coll m.b m.data.length (bucketLen e m.b)
      let s2 := colMod s1 m.part m.coll (fun e => { e with
        fetches := e.fetches.filter (fun f => !(f.b ≤ m.b)), pcs := e.pcs ++ [(m.b, m.off, m.data.length)] })
      doneTry (treeDown s2 m.part m.coll e m.b m.off m.data) m.part m.coll

def countsMsg (s : State) (i : Nat) : State :=
  let t := msgTake s i 5
  match t.1 with
  | none => t.2
  | some (m, e) =>
    let w := colWrite t.2 m.part m.coll (ceAux e.raw + 64 + 4 * m.rank) (m.data.take 4)
    if !w.1 then w.2
    else gatherTake (colMod w.2 m.part m.coll (fun e => { e with counts := tput e.counts m.rank (leVal (m.data.take 4)) })) m.part m.coll 0 m.rank

def doneMsg (s : State) (i : Nat) : State :=
  let t := msgTake s i 6
  match t.1 with
  | none => t.2
  | some (m, _) => doneTry (colMod t.2 m.part m.coll (fun e => { e with kids := e.kids ++ [m.rank] })) m.part m.coll

/-- A pruned child asks the root for what follows (R401). -/
def gapMsg (s : State) (i : Nat) : State :=
  let t := msgTake s i 7
  match t.1 with
  | none => t.2
  | some (m, e) => fetchSend t.2 m.part m.coll e (ceRoot e.raw) m.b m.off 4294967295 (ceRoot e.raw) false

/-- A tree's FETCH: what is held from the range's start on, then later pieces as they come (R401). The root serves its retained buckets; its
backup the pieces that have arrived. -/
def fetchTree (s : State) (m : ColMsg) (e : ColEnt) : State :=
  let root := e.self = ceRoot e.raw
  let s1 := colMod s m.part m.coll (fun e => { e with uni := if e.uni.contains m.rank then e.uni else e.uni ++ [m.rank] })
  let all := if root then e.ran.map (fun b => (b, 0, bucketLen e b)) else e.pcs
  let held := all.filter (fun x => m.b < x.1 || (m.b = x.1 && m.off < x.2.1 + x.2.2))
  held.foldl (fun t x =>
    let off := if x.1 = m.b then max m.off x.2.1 else x.2.1
    let d := colRead t m.part m.coll ((if root then ceSend e.raw else ceRecv e.raw) + x.1 * ceBucket e.raw + off) (x.2.1 + x.2.2 - off)
    match d.1 with
    | none => d.2
    | some bs => colData d.2 m.part m.coll e m.rank 4 x.1 off bs false e.self) s1

/-- A FETCH of a backup contribution, answered once the bucket is full here; until then it waits (R399). -/
def fetchBack (s : State) (m : ColMsg) (e : ColEnt) : State :=
  let len := leVal (m.data.take 4)
  let want := leVal ((m.data.drop 4).take 2)
  let a2a := ceOp e.raw = 4
  let va := if a2a then ceSend e.raw + m.rank * ceLen e.raw + m.b * ceBucket e.raw + m.off else ceSend e.raw + m.b * ceBucket e.raw + m.off
  let d := colRead s m.part m.coll va len
  match d.1 with
  | none => d.2
  | some x => if a2a then blockSend d.2 m.part m.coll e m.rank x true want else colData d.2 m.part m.coll e m.rank 1 m.b m.off x true want

def fetchMsg (s : State) (i : Nat) : State :=
  let t := msgTake s i 8
  match t.1 with
  | none => t.2
  | some (m, e) =>
    if ceTree e.raw then fetchTree t.2 m e
    else if (if ceOp e.raw = 4 then e.act.isNone else tgetD e.cnt m.b 0 < bucketLen e m.b) then s
    else fetchBack t.2 m e

/-! Deadlines (R399, R401, R506). -/

/-- BACKUP_DEADLINE: the primary contribution of `rank` to a bucket (or its block, bucket 0) is not complete at the deadline. -/
def backupDeadline (s : State) (p c b rank : Nat) : State :=
  match colGet s p c with
  | none => s
  | some e =>
    if e.st ≠ 2 || ceDeadline e.raw = 0 || ceTree e.raw || e.n ≤ rank || rank = e.self || lateCopy e b rank ||
      (contribWhole e b rank false).isSome || e.late.contains (b, rank) then s
    else
      let s1 := colBump s R.colLate 1
      match backOf e rank with
      | none => s1
      | some _ =>
        let e1 := contribMark { e with late := e.late ++ [(b, rank)] } b rank
        let s2 := colPut s1 p c e1
        colTry (if ceDemand e.raw then backFetch s2 p c e1 b rank else s2) p c b rank

/-- FETCH_TIMEOUT: a child's FETCH goes unanswered (R401). -/
def fetchTimeout (s : State) (p c : Nat) : State :=
  match colGet s p c with
  | none => s
  | some e =>
    if e.st ≠ 2 || !ceTree e.raw then s
    else
      match e.fetches with
      | [] => s
      | f :: _ =>
        match (if f.bk then none else backOf e (ceRoot e.raw)) with
        | none => colFail s p c 9
        | some r =>
          if r = e.self then colFail s p c 9
          else
            let e1 := { e with fetches := e.fetches.drop 1 }
            fetchSend (colPut s p c e1) p c e1 r f.b f.off 4294967295 (ceRoot e.raw) true

/-- COLL_WATCHDOG: no packet progress for COLL_MS: counted, recorded WDOG_COLL, and the instance fails (R506). -/
def collWatchdog (s : State) (p c : Nat) : State :=
  match colGet s p c with
  | none => s
  | some e => if e.st = 2 then 
      colFail (logErr (bump s false R.stkWdogColl 1) R.errUnitLog R.errUnitCount (fieldAt 8 4 5 + fieldAt 24 4 p)) p c 9
    else s

/-! Flush, completion, reset (R393, R397, R404). -/

/-- The buckets whose bytes of RECV are all there under the ACT_LEN of the flush are written (R393). -/
def recvAgain (e : ColEnt) : ColEnt :=
  let need := fun b => (if ceOp e.raw = 2 then e.n else 1) * bucketLen e b
  if ceOp e.raw = 1 || ceOp e.raw = 4 then e
  else { e with wrote := e.wrote ++ (e.got.filter (fun x => x.1 < 2 ^ 32 && !e.wrote.contains x.1 && need x.1 ≤ x.2)).map (·.1) }

/-- What a flush leaves of an entry: ACT_LEN is known, and the bytes at or beyond it are absent (R393). -/
def flushEnt (e : ColEnt) (a : Nat) : ColEnt :=
  recvAgain { e.run with act := some a, cnt := if ceOp e.raw = 4 then e.cnt else flushCnt (ceBucket e.raw) a e.writ, writ := [] }

/-- What the flush lets happen: bytes written beyond full, pieces of an ALL_GATHER that are now whole, DONE. -/
def flushEnd (s : State) (p c : Nat) (e : ColEnt) : State :=
  let s1 := colPut s p c e
  if overfull e then colOver s1 p c
  else
    doneTry (if ceOp e.raw = 2 then e.held.foldl (fun t x => gatherTake t p c x.b x.rank) s1 else s1) p c

/-- COL_CTL_FLUSH: a write of an entry's CTL word. -/
def colCtlFlush (s : State) (p c epoch a : Nat) : State :=
  match colGet s p c with
  | none => s
  | some e =>
    if !ceCtlEn e.raw then s
    else if epoch ≠ e.epoch then colErr s 7 p c 0
    else if e.st = 3 || e.act.isSome || ceLen e.raw < a || a % 256 ≠ 0 then s
    else
      let e1 := flushEnt e a
      if ceOp e.raw = 6 then
        let d := colRead s p c (ceAux e.raw + 64) 512
        match d.1 with
        | none => d.2
        | some bs => flushEnd d.2 p c { e1 with mask := (List.range e.n).filter (fun k => bit (leVal ((bs.drop (k / 8)).take 1)) (k % 8)) }
      else flushEnd s p c e1

/-- Has every part of RECV been written and every child finished (R397). -/
def colWhole (e : ColEnt) : Bool :=
  match bucketCount e with
  | none => false
  | some nb =>
    if ceOp e.raw = 4 then (List.range e.n).all (fun k => e.wrote.contains k)
    else if ceTree e.raw then
      (treeIdx e).isNone || (treeHeld e && (e.self = ceRoot e.raw || e.doneTx))
    else (List.range nb).all (fun b => e.wrote.contains b)

/-- Has every packet that the instance sent been acknowledged. -/
def colAcked (s : State) (p c epoch : Nat) : Bool :=
  s.sflows.all (fun f => f.spart ≠ p ||
    (f.un.all (fun u => !(u.coll = c && u.epoch = epoch)) && f.wait.all (fun w => !(w.coll = c && w.epoch = epoch))))

/-- Flows and staging are freed (R389). -/
def unloadNow (s : State) (p : Nat) : State :=
  let s1 := wrf { s with cols := s.cols.filter (fun e => e.1 / 256 ≠ p), sflows := s.sflows.filter (fun f => f.spart ≠ p),
                         rflows := s.rflows.filter (fun f => f.dpart ≠ p), colIn := s.colIn.filter (fun m => m.part ≠ p),
                         colUnl := s.colUnl.filter (· ≠ p) } (R.colPartCtrlP p) 2 2 0
  [0, 1, 2, 3].foldl (fun t sl => slMod t sl (fun x => { x with staging := tdel x.staging p, stagePois := x.stagePois.filter (· ≠ p) })) s1

/-- An UNLOAD that waits is done once no instance runs. -/
def unloadTry (s : State) (p : Nat) : State :=
  if s.colUnl.contains p && !s.cols.any (fun e => e.1 / 256 = p && e.2.st = 2) then unloadNow s p else s

/-- COL_INSTANCE_COMPLETE (R397). Bytes beyond full that were written for the next instance fail that one as it is armed (R392). -/
def colInstanceComplete (s : State) (p c : Nat) : State :=
  match colGet s p c with
  | none => s
  | some e =>
    if e.st ≠ 2 || !colWhole e || !colAcked s p c e.epoch then s
    else
      let next := e.rearm (actStart e.raw)
      let s0 := colPut (digEnd s p c e) p c next
      let s1 := if overfull next then colOver s0 p c else s0
      let s2 := colBump { s1 with colIn := s1.colIn.filter (fun m => !(m.part = p && m.coll = c && m.epoch = e.epoch)) } R.colInstances 1
      unloadTry (if ceSemEn e.raw then semUp s2 p (ceSem e.raw) 0 0 else s2) p

/-- COL_RESET: a write of COL_PART_CTRL_p.RESET with ENTRY (R404). -/
def colReset (s : State) (p c : Nat) : State :=
  match colGet s p c with
  | none => s
  | some e =>
    if e.st ≠ 3 then s
    else
      let s1 := colPut s p c { e.rearm (actStart e.raw) with cnt := [], writ := [] }
      let drop := fun (f : SendFlow) => if f.spart = p then { f with wait := f.wait.filter (fun w => w.coll ≠ c) } else f
      { s1 with colIn := s1.colIn.filter (fun m => !(m.part = p && m.coll = c)), sflows := s1.sflows.map drop }

/-! Loading (R389–R391, R458). -/

def entryBad (d : Nat) : Bool :=
  ceOp d = 0 || 6 < ceOp d || ceElem d = 3 || (ceRed d && (1 < ceElem d || (ceMax d && ceElem d ≠ 0))) || bits d 14 2 ≠ 0 || bits d 28 4 ≠ 0
    || bits d 44 20 ≠ 0 || bits d 336 176 ≠ 0 || 7 < bits d 24 4 || ceSend d % 65536 ≠ 0 || ceRecv d % 65536 ≠ 0 || ceAux d % 64 ≠ 0
    || ceGrpVa d % 64 ≠ 0 || ceLen d % 256 ≠ 0 || ((ceOp d = 4 || ceOp d = 6) && !ceCtlEn d)

/-- A group entry out of rule (R371, R391). -/
def groupBad (n k g : Nat) : Bool := 4095 < geDev g || (geBkValid g && (n ≤ geBk g || geBk g = k))

/-- Reads and checks one entry with its group: the loaded entry, or KIND of the failure. -/
def entryLoad (s : State) (p : Nat) (d : Nat) : Except Nat ColEnt × State :=
  if entryBad d then (.error 1, s)
  else
    let h := vaGet s p (ceGrpVa d) 64 false
    match h.1 with
    | none => (.error 2, h.2.2)
    | some hb =>
      let w := leVal hb
      let n := bits w 0 13
      let self := bits w 16 12
      if n = 0 || 4096 < n || n ≤ self || w ≠ n + fieldAt 16 12 self then (.error 2, h.2.2)
      else
        let g := vaGet h.2.2 p (ceGrpVa d + 64) (8 * n) false
        match g.1 with
        | none => (.error 2, g.2.2)
        | some gb =>
          let es := (List.range n).map (fun k => leVal ((gb.drop (8 * k)).take 8))
          let me := es.getD self 0
          if (List.range n).any (fun k => groupBad n k (es.getD k 0)) || geDev me ≠ ownDev s || gePart me ≠ p || (ceTree d && n ≤ ceRoot d) then
            (.error 2, g.2.2)
          else
            match groupVc s (colSlice s p) (ceGroup d) with
            | none => (.error 3, g.2.2)
            | some v => (.ok (ColEnt.load d n self es v (actStart d)), g.2.2)

/-- Every entry of the table, or the first failure: KIND and entry. It is read through the walker of base die 0: DEDUCED (log 66), R389 names no die. -/
def tableLoad (s : State) (p va i n : Nat) : Except (Nat × Nat) (List ColEnt) × State :=
  match n with
  | 0 => (.ok [], s)
  | n + 1 =>
    let r := vaGet s p (va + 64 * i) 64 false
    match r.1 with
    | none => (.error (1, i), r.2.2)
    | some bs =>
      let e := entryLoad r.2.2 p (leVal bs)
      match e.1 with
      | .error k => (.error (k, i), e.2)
      | .ok x =>
        let t := tableLoad e.2 p va (i + 1) n
        (match t.1 with | .ok l => .ok (x :: l) | .error f => .error f, t.2)

/-- The flows that a table needs: peer device, peer partition, VC. -/
def flowKeys (l : List ColEnt) : List (Nat × Nat × Nat) :=
  (l.flatMap (fun e => (List.range e.n).flatMap (fun k =>
    if k = e.self then [] else let g := e.grp.getD k 0; [(geDev g, gePart g, e.vc), (geDev g, gePart g, 28)]))).dedup

def flowsMake (s : State) (p : Nat) (ks : List (Nat × Nat × Nat)) : State :=
  ks.foldl (fun t k =>
    let f : SendFlow := ⟨t.nextFlow, p, k.2.1, k.1, k.2.2, 1, [], [], false, 0, none, 0⟩
    let r : RecvFlow := ⟨t.nextFlow, k.2.1, p, k.1, k.2.2, 0, [], 0, 2 ^ 47 + 1⟩
    { t with sflows := t.sflows ++ [f], rflows := t.rflows ++ [r], nextFlow := t.nextFlow + 1 }) s

/-- Lines of a reduction's staging in each slice: a quarter of its two buckets. -/
def stageLines (l : List ColEnt) : Nat := ((l.filter (fun e => ceRed e.raw)).map (fun e => 2 * ceBucket e.raw / 1024)).sum

/-- Pins `n` lines of a slice for staging; cached lines of the partition give way (R196, R197). A victim that finds its write queue full
waits (R234), as does the pinning while no line can give way. -/
def stagePin (s : State) (sl p n : Nat) : State :=
  match n with
  | 0 => s
  | n + 1 =>
    let l := takeLine s sl p
    let t := match l with
      | (some t, _) => t
      | (none, some a) => hold (qFull s (256 * a) true)
      | (none, none) => hold s
    stagePin (slMod t sl (fun x => { x with staging := tput x.staging p (tgetD x.staging p 0 + 1) })) sl p n

/-- Would the staging fit every slice's quota beside the lines already pinned. -/
def stageFits (s : State) (p k : Nat) : Bool := [0, 1, 2, 3].all (fun sl => pinnedUse (slGet s sl) p + k ≤ chmQuota s sl p)

def loadFailed (s : State) (p kind c : Nat) : State := wrf (colErr s kind p c 0) (R.colPartCtrlP p) 2 2 3

/-- COL_LOAD: a write of COL_PART_CTRL_p.LOAD. -/
def colLoad (s : State) (p : Nat) : State :=
  let st := rdf s (R.colPartCtrlP p) 2 2
  if 16 ≤ p || !prtFormed s p || st = 1 || st = 2 then s
  else
    let slot := txSlot s p
    let tbl := rd s (R.colPartTableP p)
    let t := tableLoad s p (bits tbl 0 48) 0 (bits tbl 48 9)
    match t.1 with
    | .error (kind, c) => loadFailed t.2 p kind c
    | .ok l =>
      let s1 := t.2
      if fabKey s1 p slot = 0 || bit (partGet s1 p).used slot then loadFailed (secErr s1 2 p 0 0 0) p 3 0
      else
        let ks := flowKeys l
        let k := stageLines l
        if 8192 < s1.sflows.length + ks.length || 8192 < s1.rflows.length + ks.length then loadFailed s1 p 3 0
        else if !stageFits s1 p k then loadFailed s1 p 4 0
        else
          let s2 := flowsMake s1 p ks
          let s3 := [0, 1, 2, 3].foldl (fun t sl => stagePin t sl p k) s2
          let s4 := (List.range l.length).foldl (fun t c => match lget l c with | some e => colPut t p c e | none => t) s3
          wrf (partMod s4 p (fun x => { x with used := setBits x.used slot 1 1 })) (R.colPartCtrlP p) 2 2 2

/-- COL_UNLOAD: a write of COL_PART_CTRL_p.UNLOAD; it waits for running instances to end. -/
def colUnload (s : State) (p : Nat) : State :=
  if 16 ≤ p || rdf s (R.colPartCtrlP p) 2 2 ≠ 2 then s
  else unloadTry { s with colUnl := if s.colUnl.contains p then s.colUnl else s.colUnl ++ [p] } p

end Sys2Proof.Machine
end

