-- ==== Sys2Proof/Machine/HostPort.lean ====
section
/-!
DEFINITION. The host Ethernet port (14): frames and flow control (R410–R416), the RoCEv2 responder and requester (R417–R421), commands
(R422–R425), completion rings (R426–R428), queue-pair states (R426, R432).
-/

namespace Sys2Proof.Machine

/-! Frames received. -/

/-- Frames and bytes of a received message on a queue pair: `ext` bytes of extension headers, `n` of payload. -/
def rxCount (s : State) (q ext n : Nat) : State :=
  let z := burstLen (qpIp s q) ext n
  hstBump (hstBump s R.hstRxFrames z.1) R.hstRxBytes z.2 64

/-- A frame of a length that the command does not give. -/
def rxFree1 (s : State) : State :=
  let f := freeBits s 14
  hstBump (hstBump f.2 R.hstRxFrames 1) R.hstRxBytes f.1 64

def pfcOn (s : State) : Bool := bit (rd s R.hstPfcCfg) 8
def lossless (s : State) (prio : Nat) : Bool := bit (rd s R.hstPfcCfg) prio

/-! The receive pool (R412, R413). -/

/-- Bytes of a priority in the receive pool, and of all. -/
def rxOcc (s : State) (prio : Nat) : Nat := ((s.hport.pool.filter (fun m => m.prio = prio)).map RxMsg.bytes).sum
def rxOccAll (s : State) : Nat := (s.hport.pool.map RxMsg.bytes).sum

/-- XOFF_KIB, XON_KIB, and XOFF_KIB + HEADROOM_KIB of a priority, in bytes. -/
def xoffAt (s : State) (prio : Nat) : Nat := 1024 * rdf s (R.hstPfcThrI prio) 0 10
def xonAt (s : State) (prio : Nat) : Nat := 1024 * rdf s (R.hstPfcThrI prio) 16 10
def rxLimit (s : State) (prio : Nat) : Nat := xoffAt s prio + 1024 * rdf s (R.hstPfcThrI prio) 32 10

/-- The unused reserve of the lossless priorities. -/
def rxReserve (s : State) : Nat := (((List.range 8).filter (lossless s)).map (fun i => rxLimit s i - rxOcc s i)).sum

/-- Is a frame of `n` bytes admitted. -/
def rxAdmit (s : State) (prio n : Nat) : Bool :=
  if lossless s prio then rxOcc s prio < rxLimit s prio else rxOccAll s + n + rxReserve s ≤ 786432

/-- `k` frames that are not admitted are dropped. -/
def rxFull (s : State) (prio k : Nat) : State := hstErr (hstBump s R.hstRxDropFull k) 2 0 prio

/-- XOFF for a priority. -/
def xoffSend (s : State) (prio : Nat) : State := hostOut (hstBump s (R.hstPauseTxI prio) 1) (.pfc prio 65535)

/-- A message joins the receive pool; XOFF goes out when the occupancy of a lossless priority reaches XOFF_KIB. -/
def rxEnter (s : State) (m : RxMsg) : State :=
  let s1 := { s with hport := { s.hport with pool := s.hport.pool ++ [m] } }
  if pfcOn s && lossless s m.prio && !bit s.hport.xoff m.prio && xoffAt s m.prio ≤ rxOcc s1 m.prio then
    xoffSend { s1 with hport := { s1.hport with xoff := setBits s1.hport.xoff m.prio 1 1 } } m.prio
  else s1

/-- The first message of a queue pair leaves the receive pool; quanta 0 go out when the occupancy falls below XON_KIB. -/
def rxLeave (s : State) (m : RxMsg) : State :=
  let s1 := { s with hport := { s.hport with pool := s.hport.pool.eraseP (fun x => x.q = m.q) } }
  if bit s.hport.xoff m.prio && rxOcc s1 m.prio < xonAt s m.prio then
    hostOut { s1 with hport := { s1.hport with xoff := setBits s1.hport.xoff m.prio 1 0 } } (.pfc m.prio 0)
  else s1

/-- Does the damper hold a partition congested (R487): frames addressed to its queue pairs occupy at least PART_KIB of the receive pool. -/
def partCong (s : State) (p : Nat) : Bool :=
  bit (rd s R.telDmpLim) 40 &&
    1024 * rdf s R.telDmpLim 24 10 ≤ ((s.hport.pool.filter (fun m => m.q / 64 = p)).map RxMsg.bytes).sum

/-- `k` packets counted as CE cause a CNP, at most one every CNP_US (R416). -/
def ceSeen (s : State) (q : Nat) (ce : Bool) (k : Nat) : State :=
  if ce || (bit (rd s R.hstEcnCfg) 24 && 1024 * rdf s R.hstEcnCfg 0 10 ≤ rxOcc s (qpPrio s q)) || (q < 1024 && partCong s (qpPart q)) then
    let s1 := hstBump s R.hstCeSeen k
    let x := qpGet s1 q
    if x.cnpAt.any (fun t => telNow s < t + 1600 * rdf s R.hstEcnCfg 16 8) then s1
    else hostEmit (hstBump (qpPut s1 q { x with cnpAt := some (telNow s) }) R.hstCnpSent 1) (.cnp q)
  else s

/-- Is a packet addressed to no queue pair, to one in RESET, or to one of a partition that is not formed (R418). -/
def qpNone (s : State) (q : Nat) : Bool := 1024 < q || qpState s q = 0 || (q < 1024 && !prtFormed s (qpPart q))

/-- Is a request on a queue pair taken: the link is up, the queue pair is RTS and its partition formed (R418). The second component
is the state after a frame that is not. -/
def rxTaken (s : State) (q ext n : Nat) : Bool × State :=
  let s1 := rxCount s q ext n
  if !s.hport.up then (false, s)
  else if qpNone s q then (false, hstBump s1 R.hstRxDropOther (burstLen (qpIp s q) ext n).1)
  else if qpState s q ≠ 1 then (false, s1)
  else
    let i := chmInject s1 0 none
    if i.1 then (false, chmErr (chmBump i.2 0 (R.chmUeCount 0) 1) 0 5 3 0 0 none) else (true, i.2)

/-- An acknowledgement or NAK with the current PSN; the request's packets are counted. -/
def qpAck (s : State) (q pkts syndrome : Nat) : State :=
  let x := qpGet s q
  let good := syndrome < 32
  let x1 := if good then { x with rqPsn := (x.rqPsn + pkts) % 2 ^ 24, msn := (x.msn + 1) % 2 ^ 24 } else x
  let psn := if good then (x.rqPsn + pkts + 2 ^ 24 - 1) % 2 ^ 24 else x.rqPsn
  let s1 := qpPut s q x1
  hostEmit (if good then s1 else hstBump s1 R.hstNakSent 1) (.ack q psn syndrome x1.msn)

def nakInvalid : Nat := 0x61
def nakAccess : Nat := 0x62
def nakOperational : Nat := 0x63

/-! Rings (R426–R428). -/

def cqVa (s : State) (q : Nat) : Nat := rdf s (R.hstQpCqQ q) 0 48
def cqSlots (s : State) (q : Nat) : Nat := 2 ^ rdf s (R.hstQpCqQ q) 48 5

/-- The queue pair of a partition whose ring a range touches. -/
def ringTouched (s : State) (p va len : Nat) : Option Nat :=
  ((List.range 64).map (fun i => 64 * p + i)).find? (fun q =>
    qpState s q ≠ 0 && len ≠ 0 && va < cqVa s q + 32 * cqSlots s q && cqVa s q < va + len)

/-- RING_RELEASE (R428): an 8-byte write to a slot's first 8 bytes. -/
def ringRelease (s : State) (p q va : Nat) (data : List Byte) : State :=
  let bad := fun (s : State) => hstErr (hstBump s R.hstReleaseBad 1) 5 q 0
  let r := vaGet s p va 8 false
  match r.1 with
  | none => bad r.2.2
  | some bs =>
    if leVal (bs.take 1) = 1 && bs.drop 4 = data.drop 4 then (vaPut r.2.2 p va [0]).2 else bad r.2.2

/-! Responder (R417, R419). -/

/-- Why an access of a range is refused: a page not mapped, as every page from 2^48 on is, or a write to one with W = 0 and COW = 0 (R419). An empty
range touches no page. -/
def rangeBad (s : State) (p va len : Nat) (write : Bool) : Bool × State :=
  if len = 0 then (false, s)
  else if 2 ^ 48 < va + len then (true, s)
  else (List.range (cdiv (va % 65536 + len) 65536)).foldl (fun acc i =>
    if acc.1 then acc
    else
      let w := agWalk acc.2 0 p (65536 * (va / 65536 + i))
      match w.1 with
      | .leaf e _ _ => (write && !leW e && !leCow e, w.2)
      | _ => (true, w.2)) (false, s)

def rkeyOf (s : State) (q : Nat) : Nat := rdf s (R.hstQpPeerQ q) 32 32

/-- An RDMA WRITE is served. A write into a collective bucket that is not released waits (R392). -/
def writeServe (s : State) (q rkey va : Nat) (data : List Byte) : State :=
  let p := qpPart q
  let fin := fun (s : State) syn => qpAck s q (pktCount data.length) syn
  if q = 1024 then fin s nakInvalid
  else if colHold s p va data.length then hold s
  else if rkey ≠ rkeyOf s q then fin s nakAccess
  else
    match ringTouched s p va data.length with
    | some r =>
      if data.length = 8 && cqVa s r ≤ va && (va - cqVa s r) % 32 = 0 && leVal (data.take 1) = 2 then fin (ringRelease s p q va data) 31
      else fin s nakAccess
    | none =>
      let b := rangeBad s p va data.length true
      if b.1 then fin b.2 nakAccess
      else
        let w := putCow b.2 p va data
        match w.1 with
        | none => fin (colCount w.2 p va data.length) 31
        | some c => fin w.2 (if c = 5 then nakOperational else nakAccess)

/-- An RDMA READ is served: the data, or a NAK. -/
def readServe (s : State) (q rkey va len : Nat) : State :=
  let p := qpPart q
  if q = 1024 || len = 0 || 1048576 < len then qpAck s q 1 nakInvalid
  else if rkey ≠ rkeyOf s q || 2 ^ 48 < va + len then qpAck s q 1 nakAccess
  else
    let r := vaGet s p va len false
    match r.1 with
    | none => qpAck r.2.2 q 1 (if r.2.1 then nakOperational else nakAccess)
    | some bs =>
      let x := qpGet r.2.2 q
      let s1 := qpPut r.2.2 q { x with rqPsn := (x.rqPsn + pktCount len) % 2 ^ 24, msn := (x.msn + 1) % 2 ^ 24 }
      hostEmit s1 (.readData q x.rqPsn bs)

/-! Commands (R422–R424). -/

/-- The 32-byte response to a command (R424). -/
def hostAnswer (s : State) (q op status ctag value extra : Nat) : State :=
  hostReq s q 0 (leBytes 1 (op % 128 + 128) ++ leBytes 1 status ++ leBytes 2 0 ++ leBytes 4 ctag ++ leBytes 8 value ++ leBytes 16 extra) 0 0 0 0

/-- A delivery entry, with its reserved bytes. -/
def dlvParse (b : List Byte) : Delivery × Bool :=
  let f := fun i n => leVal ((b.drop i).take n)
  (⟨f 0 6, f 8 4, f 12 4, f 16 8⟩, f 6 2 = 0 && f 24 8 = 0 && 1 ≤ f 8 4 && f 8 4 ≤ 2147483648)

/-- The command of a SEND message on a queue pair (R423): none when it is bad. -/
def cmdParse (q : Nat) (d : List Byte) : Option Instr :=
  let f := fun i n => leVal ((d.drop i).take n)
  let op := f 0 1
  let len := f 2 2
  let ctag := f 4 4
  if len ≠ d.length || f 1 1 ≠ 0 || f 8 8 ≠ 0 then none
  else if op = 1 then (if len = 24 && f 21 3 = 0 then some (.csrRead q (f 16 5) ctag) else none)
  else if op = 2 then (if len = 32 && f 21 3 = 0 then some (.csrWrite q (f 16 5) (BitVec.ofNat 64 (f 24 8)) ctag) else none)
  else if op = 3 then (if len = 24 then some (.echo q (BitVec.ofNat 64 (f 16 8)) ctag) else none)
  else if q = 1024 then none
  else if op = 16 then
    let n := f 24 8
    let es := (List.range n).map (fun i => dlvParse ((d.drop (32 + 32 * i)).take 32))
    (if n ≤ 8 && len = 32 + 32 * n && f 22 2 = 0 && es.all (·.2) then some (.graphSubmit q (f 16 6) ctag (es.map (·.1))) else none)
  else if op = 17 then (if len = 24 && f 18 6 = 0 then some (.graphCancel q (f 16 2)) else none)
  else if op = 18 then (if len = 48 then some (.mixPost q (BitVec.ofNat 256 (f 16 32))) else none)
  else none

/-- Is an OP that of a graph command, whose answer is a record. -/
def graphOp (op : Nat) : Bool := 16 ≤ op && op ≤ 18

/-- A bad command is answered, or rejected when it is a graph command of a data queue pair (R423). -/
def cmdBad (s : State) (q op ctag t : Nat) : State :=
  let s1 := hstErr s 4 q 0
  if graphOp op && q < 1024 then recPush s1 q ⟨3, 0, 0, 1, 0, 0, 0, 0, 0, 0, 0, none, some t⟩
  else histCount (hostAnswer s1 q op 2 ctag 0 0) 26 t

/-- Bad commands at the head of a queue are answered; one whose answer is a record waits while the pending queue is full (R427). -/
def cmdsPump (s : State) (q n : Nat) : State :=
  match n with
  | 0 => s
  | n + 1 =>
    match (qpGet s q).cmds with
    | .bad op ctag t :: r => if qpState s q = 1 && (!graphOp op || recRoom s q) then cmdsPump (cmdBad (qpMod s q (fun x => { x with cmds := r })) q op ctag t) q n else s
    | _ => s

/-- The hearth whose window holds an address (R10). -/
def windowHearth (a : Nat) : Option Nat :=
  if 0x100000000 ≤ a && a < 0x110000000 then some ((a - 0x100000000) / 0x100000) else none

/-- An access to a hearth in reset is held (R38). -/
def accessHeld (s : State) (a : Nat) : Bool := (windowHearth a).any (fun h => (hget s h).inReset)

/-- Is a command of a queue pair an access to a hearth in reset, inside the queue pair's window. -/
def cmdWaits (s : State) (q : Nat) (i : Instr) : Bool :=
  let w := fun a => accessHeld s a && (q = 1024 || (windowHearth a).any (fun h => (hget s h).part = some (qpPart q)))
  match i with
  | .csrRead _ a _ => w a
  | .csrWrite _ a _ _ => w a
  | _ => false

def Cmd.isHeld (c : Cmd) : Bool := match c with | .held _ _ => true | _ => false

/-- A command behind the held ones of its queue pair joins them (R37, R38): the next one that waits in the queue, or a new one when all are held. -/
def cmdHold (s : State) (q : Nat) (i : Instr) : State :=
  let cs := (qpGet s q).cmds
  let hd := cs.takeWhile Cmd.isHeld
  match cs.drop hd.length with
  | [] => if cs.length < 64 then qpMod s q (fun x => { x with cmds := cs ++ [.held i (telNow s)] }) else s
  | .good j t :: r => if j = i then qpMod s q (fun x => { x with cmds := hd ++ .held i t :: r }) else s
  | _ => s

/-- A command is performed when it heads its queue pair's queue, or the queue is empty; its acceptance time. -/
def cmdTake (s : State) (q : Nat) (i : Instr) : Option (Nat × State) :=
  match (qpGet s q).cmds with
  | [] => some (telNow s, s)
  | .good j t :: r => if j = i then some (t, qpMod s q (fun x => { x with cmds := r })) else none
  | _ => none

/-- The time of a graph command stays with the REJECT record that answers it (R481). -/
def recStamp (s : State) (q n t : Nat) : State :=
  qpMod s q (fun x => { x with recs := x.recs.take n ++ (x.recs.drop n).map (fun r => if r.kind = 3 then { r with acc := some t } else r) })

/-- Are a queue pair's commands performed: it is RTS, and its partition formed (R418). -/
def cmdsRun (s : State) (q : Nat) : Bool := q ≤ 1024 && qpState s q = 1 && (q = 1024 || prtFormed s (qpPart q))

/-- A host command: taken in its turn, performed, and the bad ones behind it answered; an access to a hearth in reset waits, and
all behind it. -/
def hostCmd (s : State) (q : Nat) (i : Instr) (f : Nat → State → State) : State :=
  if !cmdsRun s q then s
  else if cmdWaits s q i || (qpGet s q).cmds.any Cmd.isHeld then cmdHold s q i
  else
    match cmdTake s q i with
    | none => s
    | some (t, s1) => cmdsPump (f t s1) q 64

/-- A SEND is served: one command enters the queue pair's command queue, or is answered with RNR NAK when it is full (R422). -/
def sendServe (s : State) (q : Nat) (data : List Byte) : State :=
  let fin := fun (s : State) syn => qpAck s q 1 syn
  if data.length < 16 || 1024 < data.length then fin s nakInvalid
  else if 64 ≤ (qpGet s q).cmds.length then
    let f := freeBits s 5
    fin f.2 (32 + f.1)
  else
    let c : Cmd := match cmdParse q data with
      | some i => .good i (telNow s)
      | none => .bad (leVal (data.take 1)) (leVal ((data.drop 4).take 4)) (telNow s)
    fin (cmdsPump (qpMod s q (fun x => { x with cmds := x.cmds ++ [c] })) q 64) 31

/-- The request of a message in the receive pool is served. -/
def rxServe (s : State) (q : Nat) (i : Instr) : State :=
  match i with
  | .rdmaWrite _ rkey va data _ _ => writeServe s q rkey va data
  | .rdmaRead _ rkey va len => readServe s q rkey va len
  | .send _ data _ => sendServe s q data
  | _ => s

/-- A request arrives on a queue pair, with `ext` bytes of extension headers and `n` of payload: its frames are admitted or dropped (R412); it is
served at once, or, where an access of it or an older request of its queue pair waits, stands in the receive pool. -/
def hostRx (s : State) (q ext n : Nat) (i : Instr) (ce : Bool) : State :=
  let t := rxTaken s q ext n
  let z := burstLen (qpIp s q) ext n
  let prio := qpPrio s q
  if !t.1 then t.2
  else if !rxAdmit t.2 prio (roceLen (qpIp s q) ext (min 4096 n)) then rxFull t.2 prio z.1
  else
    let s1 := ceSeen t.2 q ce z.1
    let u := if s1.hport.pool.any (fun m => m.q = q) then hold s1 else rxServe s1 q i
    if u.held && !s1.held then (if rxAdmit s1 prio z.2 then rxEnter s1 ⟨q, prio, z.2, i⟩ else rxFull s1 prio z.1) else u

/-- RDMA_WRITE (R419), RDMA_READ (R419) and SEND (R422). -/
def rdmaWrite (s : State) (q rkey va : Nat) (data : List Byte) (imm ce : Bool) : State :=
  hostRx s q (if imm then 20 else 16) data.length (.rdmaWrite q rkey va data imm ce) ce
def rdmaRead (s : State) (q rkey va len : Nat) : State := hostRx s q 16 0 (.rdmaRead q rkey va len) false
def sendRx (s : State) (q : Nat) (data : List Byte) (ce : Bool) : State := hostRx s q 0 data.length (.send q data ce) ce

/-- The oldest request of a queue pair in the receive pool is served, if it need not wait. One of a queue pair that is no longer RTS is dropped. -/
def rxStep (s : State) (q : Nat) : State :=
  match s.hport.pool.find? (fun m => m.q = q) with
  | none => s
  | some m =>
    if !cmdsRun s q then rxLeave s m
    else
      let t := rxServe s q m.cmd
      if t.held && !s.held then s else rxLeave t m

/-- The receive pool is served, for every queue pair its oldest request: no order holds between queue pairs (R420). -/
def poolStep (s : State) : State := ((s.hport.pool.map RxMsg.q).dedup).foldl rxStep s

/-- ECHO (R474). -/
def echoDo (s : State) (q : Nat) (ts : W64) (ctag t : Nat) : State :=
  histCount (hostAnswer s q 3 0 ctag ts.toNat (t % 2 ^ 64 + 2 ^ 64 * (telNow s % 2 ^ 64))) 26 t

def graphSubmitDo (s : State) (q va : Nat) (ds : List Delivery) (t : Nat) : State :=
  recStamp (graphEnqueue s (qpPart q) ⟨q, va, ds, none, none, some t⟩) q (qpGet s q).recs.length t

def graphCancelDo (s : State) (q gid t : Nat) : State := recStamp (graphCancelOp s (qpPart q) gid) q (qpGet s q).recs.length t

def mixPostDo (s : State) (q : Nat) (item : BitVec 256) (t : Nat) : State :=
  recStamp (mixPostOp s q (qpPart q) item.toNat) q (qpGet s q).recs.length t

def echoOp (s : State) (q : Nat) (ts : W64) (ctag : Nat) : State := hostCmd s q (.echo q ts ctag) (fun t s => echoDo s q ts ctag t)

/-- A graph command, whose answer may be a record, waits while the pending queue is full (R427). -/
def graphSubmitOp (s : State) (q va ctag : Nat) (ds : List Delivery) : State :=
  if 1024 ≤ q || !recRoom s q then s else hostCmd s q (.graphSubmit q va ctag ds) (fun t s => graphSubmitDo s q va ds t)

def graphCancelCmd (s : State) (q gid : Nat) : State :=
  if 1024 ≤ q || !recRoom s q then s else hostCmd s q (.graphCancel q gid) (fun t s => graphCancelDo s q gid t)

def mixPostCmd (s : State) (q : Nat) (item : BitVec 256) : State :=
  if 1024 ≤ q || !recRoom s q then s else hostCmd s q (.mixPost q item) (fun t s => mixPostDo s q item t)

/-! Completion records (R310, R427). -/

/-- The 32 bytes of a record with STATE FULL. -/
def recBytes (s : State) (r : Rec) (seq : Nat) : List Byte :=
  let count := match r.t0 with | none => r.count | some t => (telNow s - t) / 1600
  leBytes 1 1 ++ leBytes 1 r.kind ++ leBytes 2 r.gid ++ leBytes 4 seq ++ leBytes 2 r.task ++ leBytes 1 r.status ++ leBytes 1 r.abort
    ++ leBytes 1 r.flags ++ leBytes 1 r.hearth ++ leBytes 1 (min 15 r.replays + 16 * min 15 r.preempts) ++ [0]
    ++ leBytes 4 (min count 4294967295) ++ leBytes 4 0 ++ leBytes 8 r.tag

/-- COMPLETION_RECORD_WRITE: the oldest pending record is written when its slot is EMPTY. A bad command that waited for room among the pending
records is answered. -/
def completionRecordWrite (s : State) (q : Nat) : State :=
  if 1024 ≤ q || qpState s q ≠ 1 then s
  else
    let x := qpGet s q
    match x.recs with
    | [] => s
    | r :: rest =>
      let p := qpPart q
      let va := cqVa s q + 32 * (x.nextSeq % cqSlots s q)
      let d := vaGet s p va 1 true
      match d.1 with
      | some [0] =>
        let w := vaPut d.2.2 p va (recBytes s r x.nextSeq)
        if w.1 ≠ .ok then s
        else
          let s0 := qpMod w.2 q (fun x => { x with recs := rest, nextSeq := (x.nextSeq + 1) % 2 ^ 32 })
          let s1 := match r.acc with | some t => histCount s0 26 t | none => s0
          cmdsPump (if bit (rd s (R.hstQpCtrlQ q)) 24 then hostReq s1 q 2 [] 0 0 x.nextSeq 0 else s1) q 64
      | _ => s

/-! Requester (R421, R425). -/

/-- Messages of a queue pair that wait for a paused priority are not sent. -/
def waitDrop (s : State) (q : Nat) : State :=
  { s with hport := { s.hport with wait := s.hport.wait.filter (fun e => match e.2 with
      | .request r _ | .ack r _ _ _ | .readData r _ _ | .cnp r => r ≠ q
      | _ => true) } }

/-- A queue pair enters ERROR: it sends nothing more (R421). -/
def qpError (s : State) (q code : Nat) : State :=
  waitDrop (qpMod (hstErr (wrf s (R.hstQpCtrlQ q) 0 3 2) 1 q (qpPrio s q)) q (fun x => { x with err := code })) q

/-- Go-back-N from the oldest unacknowledged PSN. -/
def qpResend (s : State) (q : Nat) : State :=
  let x := qpGet s q
  let s1 := x.sq.foldl (fun t m => hstBump t R.hstRetrans m.pkts) s
  paceRun (qpPut s1 q { x with pace := x.sq }) q x.sq.length

/-- An acknowledged write of a delivery; the last one releases the GRAPH record (R425). -/
def delAcked (s : State) (q id : Nat) : State :=
  let x := qpGet s q
  match x.dels.find? (fun d => d.id = id) with
  | none => s
  | some d =>
    if d.left ≤ 1 then recPush (qpPut s q { x with dels := x.dels.filter (fun e => e.id ≠ id) }) q d.record
    else qpPut s q { x with dels := x.dels.map (fun e => if e.id = id then { e with left := e.left - 1 } else e) }

/-- Messages acknowledged up to a PSN leave; a message acknowledged in part keeps its rest. -/
def sqAck (s : State) (q psn n : Nat) : State :=
  match n with
  | 0 => s
  | n + 1 =>
    let x := qpGet s q
    match x.sq with
    | [] => s
    | m :: r =>
      let d := (psn + 1 + 2 ^ 24 - m.psn) % 2 ^ 24
      if d = 0 || 2 ^ 23 ≤ d then s
      else if d < m.pkts then
        qpPut s q { x with sq := { m with psn := (m.psn + d) % 2 ^ 24, pkts := m.pkts - d, data := m.data.drop (4096 * d), va := m.va + 4096 * d } :: r,
                           retry := 0, rnr := 0 }
      else
        let s1 := qpPut s q { x with sq := r, retry := 0, rnr := 0 }
        sqAck (if m.del = 0 then s1 else delAcked s1 q m.del) q psn n

/-- One more retransmission of the oldest PSN, or ERROR after RETRY of them. -/
def qpRetry (s : State) (q : Nat) : State :=
  let x := qpGet s q
  if x.sq.isEmpty then s
  else if rdf s (R.hstQpCtrlQ q) 17 3 ≤ x.retry then qpError s q 1
  else qpResend (qpPut s q { x with retry := x.retry + 1 }) q

/-- ROCE_ACK_RECEIVE: an ACK, RNR NAK or NAK for the device's own requests. -/
def roceAckReceive (s : State) (q psn syndrome : Nat) : State :=
  let r := hstBump (hstBump s R.hstRxFrames 1) R.hstRxBytes (roceLen (qpIp s q) 4 0) 64
  let s0 := ceSeen r q false 1
  if !s.hport.up then s
  else if qpNone s q then hstBump r R.hstRxDropOther 1
  else if qpState s q ≠ 1 then r
  else if syndrome < 32 then sqAck s0 q psn ((qpGet s q).sq.length + 1)
  else
    let prev := (psn + 2 ^ 24 - 1) % 2 ^ 24
    let s1 := sqAck s0 q prev ((qpGet s q).sq.length + 1)
    if syndrome < 64 then qpMod s1 q (fun x => { x with rnrWait := !x.sq.isEmpty })
    else if syndrome = 96 then qpRetry s1 q
    else if 96 < syndrome && syndrome < 128 then qpError s1 q 3
    else s1

/-- QP_ACK_TIMEOUT (R421). -/
def qpAckTimeout (s : State) (q : Nat) : State := if 1024 < q || qpState s q ≠ 1 then s else qpRetry s q

/-- RNR_RETRY_TIMEOUT (R421). -/
def rnrRetryTimeout (s : State) (q : Nat) : State :=
  let x := qpGet s q
  if 1024 < q || qpState s q ≠ 1 || !x.rnrWait then s
  else
    let lim := rdf s (R.hstQpCtrlQ q) 20 3
    let s1 := qpPut s q { x with rnrWait := false, rnr := x.rnr + 1 }
    if lim < 7 && lim ≤ x.rnr then qpError s1 q 2 else qpResend s1 q

/-- CNP_RECEIVE: the damper cuts the queue pair's rate (R416, R487). -/
def cnpReceive (s : State) (q : Nat) : State :=
  let r := hstBump (hstBump s R.hstRxFrames 1) R.hstRxBytes (roceLen (qpIp s q) 16 0) 64
  if !s.hport.up then s
  else if qpNone s q then hstBump r R.hstRxDropOther 1
  else if qpState s q ≠ 1 then r
  else
    let s1 := hstBump (ceSeen r q false 1) R.hstCnpRecv 1
    let x := qpGet s1 q
    if !bit (rd s R.telDmpLim) 40 || cutRecent s x.cutAt then s1
    else telBump (qpPut s1 q { x with limit := rateCut s x.limit 100000 (dmpCfg s 12 8), cutAt := some (telNow s) }) R.telRateCuts 1

/-! Queue-pair states (R426, R432). -/

/-- QP_RTS: a write of STATE = RTS to a queue pair in RESET; the ring is zeroed. -/
def qpRts (s : State) (q : Nat) : State :=
  if 1024 ≤ q || qpState s q ≠ 0 || !prtFormed s (qpPart q) then s
  else
    let s1 := wrf s (R.hstQpCtrlQ q) 0 3 1
    let x : QPair := { QPair.reset with sqPsn := rdf s (R.hstQpPsnQ q) 0 24, rqPsn := rdf s (R.hstQpPsnQ q) 32 24, nextSeq := 1 }
    (putPages (qpPut s1 q x) 0 (qpPart q) (cqVa s q) (List.replicate (32 * cqSlots s q) 0) (pageFuel (32 * cqSlots s q))).2

/-- A queue pair enters RESET: commands, pending records and deliveries are discarded (R432). -/
def qpDrop (s : State) (q : Nat) : State :=
  let s1 := waitDrop s q
  { wrf s1 (R.hstQpCtrlQ q) 0 3 0 with qps := tdel s1.qps q }

/-- QP_RESET, of a data queue pair. -/
def qpReset (s : State) (q : Nat) : State := if 1024 ≤ q then s else qpDrop s q

/-! Pause, addresses, drops (R409–R415). -/

/-- Messages that waited for a priority leave in order. -/
def pauseEnd (s : State) (prio : Nat) : State :=
  let go := s.hport.wait.filter (fun e => e.1 = prio)
  let s1 := { s with hport := { s.hport with paused := setBits s.hport.paused prio 1 0, wait := s.hport.wait.filter (fun e => e.1 ≠ prio) } }
  go.foldl (fun t e => hostOut t e.2) s1

/-- PFC_RECEIVE: each named priority is paused for the quanta, or resumed by quanta 0. -/
def pfcReceive (s : State) (prios : BitVec 8) (quanta : Nat) : State :=
  if !s.hport.up then s
  else
    let s0 := hstBump (hstBump s R.hstRxFrames 1) R.hstRxBytes 64 64
    if !pfcOn s then hstBump s0 R.hstRxDropOther 1
    else
      (List.range 8).foldl (fun t i =>
        if !bit prios.toNat i then t
        else if quanta = 0 then pauseEnd t i
        else hstBump { t with hport := { t.hport with paused := setBits t.hport.paused i 1 1 } } (R.hstPauseRxI i) 1) s0

def pfcPauseExpiry (s : State) (prio : Nat) : State := if prio < 8 && bit s.hport.paused prio then pauseEnd s prio else s

/-- PFC_REFRESH: the XOFF frame again while it is held. -/
def pfcRefresh (s : State) (prio : Nat) : State := if prio < 8 && bit s.hport.xoff prio && pfcOn s then xoffSend s prio else s

def arpRequest (s : State) (target sender mac : Nat) : State :=
  if !s.hport.up then s
  else
    let s0 := hstBump (hstBump s R.hstRxFrames 1) R.hstRxBytes 64 64
    if bit (rd s R.hstIpCfg) 32 && target = rdf s R.hstIpCfg 0 32 then hostEmit s0 (.arpReply mac sender) else hstBump s0 R.hstRxDropOther 1

def neighborSolicitation (s : State) (target sender mac : Nat) : State :=
  if !s.hport.up then s
  else
    let s0 := rxFree1 s
    if bit (rd s R.hstIpCfg) 33 && target = 2 ^ 64 * rd s R.hstIp6Hi + rd s R.hstIp6Lo then hostEmit s0 (.neighborAdv mac sender)
    else hstBump s0 R.hstRxDropOther 1

/-- ETH_FRAME_DROP. A frame of a priority is dropped for want of room only where the receive pool does not admit a frame of 9,216 bytes of it
(R412). -/
def ethFrameDrop (s : State) (why : DropReason) : State :=
  if !s.hport.up then s
  else
    let s0 := rxFree1 s
    match why with
    | .badFrame => hstBump s0 R.hstRxDropOther 1
    | .notHandled => hstBump s0 R.hstRxDropOther 1
    | .icrc => hstErr (hstBump s0 R.hstIcrcErr 1) 3 0 0
    | .poolFull prio => if prio < 8 && !rxAdmit s prio 9216 then rxFull s0 prio 1 else s

/-- HOST_LINK_DOWN: the port's link goes down, or comes back (R409). -/
def hostLinkDown (s : State) (up : Bool) : State :=
  let s1 := { s with hport := { s.hport with up := up && bit (rd s R.hstCtrl) 2 } }
  if !up && s.hport.up then hstErr s1 6 0 0 else s1

/-! The patrol of a slice (R218): it reads all regions. -/

/-- An uncorrectable word in a message of the host region, one that waits to be served or to be sent: the message is dropped, and RoCEv2
retransmission recovers it (R217). -/
def hostTxUe (s : State) (i : Nat) : State :=
  let s1 := chmErr (chmBump s 0 (R.chmUeCount 0) 1) 0 4 3 0 0 none
  match lget s1.hport.pool i with
  | some m => rxLeave s1 m
  | none => { s1 with hport := { s1.hport with wait := s1.hport.wait.eraseIdx (i - s1.hport.pool.length) } }

/-- CHM_PATROL_READ (R218): one line of a slice is read. Which line stands at the patrol's place is not held, so an uncorrectable word that it
finds lies in a line of the general or fill region, a packet or a retry flit of the packet region, a message of the host region, or an unused line,
by a free value (log 14). -/
def chmPatrolRead (s : State) (sl : Nat) : State :=
  if !bit (rd s (R.chmCtrl sl)) 3 then s
  else
    let i := chmInject (slMod s sl (fun x => { x with patrol := (x.patrol + 1) % 1048576 })) sl none
    if !i.1 then i.2
    else
      let mine := (i.2.links.filter (fun e => linkSlice e.1 = sl))
      let rxs := mine.flatMap (fun e => e.2.rx.flatMap (fun v => v.2.map (fun q => (e.1, v.1, q))))
      let txs := i.2.links.flatMap (fun e => (e.2.txq.filter (fun q => q.stage = some sl)).map (fun q => (e.1, q)))
      let res := mine.flatMap (fun e => e.2.retry.map (fun r => (e.1, r)))
      let host := if sl = 0 then i.2.hport.pool.length + i.2.hport.wait.length else 0
      let n := patrolLines (slGet i.2 sl)
      let f := freeBits i.2 64
      let k := f.1 % (n + rxs.length + txs.length + res.length + host + 1)
      if k < n then patrolHit f.2 sl k
      else
        match lget rxs (k - n), lget txs (k - n - rxs.length), lget res (k - n - rxs.length - txs.length) with
        | some (l, vc, q), _, _ => rxUe f.2 l vc q
        | none, some (l, q), _ => txUe f.2 l q
        | none, none, some (l, r) => retryUe f.2 l r
        | none, none, none =>
          let j := k - n - rxs.length - txs.length - res.length
          if j < host then hostTxUe f.2 j else f.2

end Sys2Proof.Machine
end

