-- ==== Sys2Proof/Machine/Partition.lean ====
section
/-!
DEFINITION. Partitions and keys (15): forming, growing, shrinking and dissolving (R441–R444), quotas and rates (R447–R449), memory and
fabric keys (R452–R458).
-/

namespace Sys2Proof.Machine

/-! Units and blocks (R436–R439). -/

def formedParts (s : State) : List Nat := (List.range 16).filter (fun p => (partGet s p).units ≠ 0)

/-- Units that no partition holds. -/
def unitsFree (s : State) : Nat :=
  ((List.range 16).map (fun u => if (List.range 16).any (fun p => bit (partGet s p).units u) then 0 else 2 ^ u)).sum

def blockTaken (s : State) (b : Nat) : Bool := (List.range 16).any (fun p => let x := partGet s p; x.lo ≤ b && b < x.lo + x.blks)
def blocksFree (s : State) : Nat := ((List.range 16).map (fun b => if blockTaken s b then 0 else 2 ^ b)).sum

def popcount (n : Nat) : Nat := ((List.range 16).filter (fun i => bit n i)).length

/-- Frames of a block: 1,144 × L (R438). -/
def blockFrames (s : State) : Nat := 1144 * liveCount s.hbm.dead

/-- The lowest run of `n` consecutive free blocks (R439). -/
def blockRun (s : State) (n : Nat) : Option Nat :=
  (List.range 16).find? (fun b => b + n ≤ 16 && (List.range n).all (fun i => !blockTaken s (b + i)))

def unitHearths (mask : Nat) : List Nat := (List.range 256).filter (fun h => bit mask (h / 16))

/-! Command results (R468, R469). -/

/-- PRT_ERR_LOG. -/
def prtErr (s : State) (kind p result addr : Nat) : State :=
  logErr s R.prtErrLog R.prtErrCount (fieldAt 8 4 kind + fieldAt 12 4 p + fieldAt 16 4 result + fieldAt 24 40 addr)

def prtBusy (s : State) : Bool := bit (rd s R.prtCmdStatus) 0

/-- PRT_CMD_STATUS. -/
def prtStat (s : State) (busy : Bool) (op p result : Nat) : State :=
  wr s R.prtCmdStatus (b1 busy + fieldAt 1 3 op + fieldAt 4 4 p + fieldAt 8 4 result)

def prtRefuse (s : State) (op p result : Nat) : State := prtErr (prtStat s false op p result) 1 p result 0

/-- Why a command for a partition in a state is refused: BUSY while it is FORMING or DISSOLVING, else PART_STATE. -/
def stateRefusal (x : Part) : Nat := if x.st = 1 || x.st = 3 then 6 else 1

/-- A command written while another is in progress is not performed (R468); one for a partition that is FORMING or DISSOLVING is refused with BUSY
(R444), which PRT_ERR_LOG and RESULT show, while BUSY, OP and PART of PRT_CMD_STATUS keep the command in progress. -/
def prtWhileBusy (s : State) (p : Nat) : State :=
  if stateRefusal (partGet s p) = 6 then prtErr (wrf s R.prtCmdStatus 8 4 6) 1 p 6 0 else s

/-! Quotas (R447). -/

def quotaLines (s : State) (p : Nat) : Nat := chmQuota s 0 p
def partRate (s : State) (p : Nat) : Nat := rdf s (R.chmPartRateP 0 p) 0 9

/-- The chimney quota and rate in every slice, and PRT_QUOTA_p and PRT_RATE_p. -/
def quotaSet (s : State) (p hbm lines weight : Nat) : State :=
  let s1 := [0, 1, 2, 3].foldl (fun t sl => wrf (wrf t (R.chmPartQuotaP sl p) 0 20 lines) (R.chmPartRateP sl p) 0 9 weight) s
  let s2 := wr (wr s1 (R.prtQuotaP p) (hbm + fieldAt 32 20 lines)) (R.prtRateP p) weight
  wrf s2 (R.xltFrames p) 32 24 hbm

/-- The sum of the chimney quotas of the other partitions. -/
def otherLines (s : State) (p : Nat) : Nat := (((List.range 16).filter (· ≠ p)).map (fun q => quotaLines s q)).sum

/-- The limit of the HBM quota: k × F − FT. -/
def hbmLimit (s : State) (p : Nat) : Nat :=
  let n := (partGet s p).blks * blockFrames s
  n - ftFrames 0 n

/-- PRT_QUOTA_WRITE. -/
def prtQuotaWrite (s : State) (p : Nat) (v : Nat) : State :=
  let hbm := bits v 0 24
  let lines := bits v 32 20
  if 16 ≤ p || !prtFormed s p || hbmLimit s p < hbm || 983040 < lines + otherLines s p then s
  else quotaSet s p hbm lines (partRate s p)

/-- PRT_RATE_WRITE. -/
def prtRateWrite (s : State) (p : Nat) (v : Nat) : State :=
  if 16 ≤ p || !prtFormed s p || 256 < bits v 0 9 then s else quotaSet s p (xQuota s p) (quotaLines s p) (bits v 0 9)

/-- HBM_OVER and CHM_OVER (R448). -/
def hbmOver (s : State) (p : Nat) : Bool := xQuota s p < xMapped s p
def chmOver (s : State) (p : Nat) : Bool :=
  [0, 1, 2, 3].any (fun sl => let x := slGet s sl; chmQuota s sl p < cachedUse x p + pinnedUse x p)

/-- OVER_QUOTA's first transition to 1 is recorded (R448). -/
def overNote (s : State) (p : Nat) : State :=
  let o := hbmOver s p || chmOver s p
  if o = (partGet s p).over_ then s
  else
    let s1 := partMod s p (fun x => { x with over_ := o })
    if o then prtErr s1 3 p 0 0 else s1

/-! Forming (R441, R442). -/

/-- Registers of a block return to their reset values. -/
def csrRange (s : State) (lo n : Nat) : State := samplesZero { s with csr := s.csr.filter (fun e => e.1 < lo || lo + n ≤ e.1) } lo n

/-- The residency map forgets a hearth. -/
def residDrop (s : State) (h : Nat) : State :=
  { s with graphs := s.graphs.map (fun e => (e.1, { e.2 with resid := e.2.resid.filter (fun r => r.1 ≠ h) })) }

/-- A hearth changes its partition: stride memory, TLB, walks and residency are empty (R177, R259, R295). -/
def hearthMoves (s : State) (h : Nat) (p : Option Nat) : State :=
  let s1 := residDrop { s with walks := s.walks.map (fun e => (e.1, e.2.filter (fun q => q.h ≠ h))) } h
  hmod s1 h (fun x => { x with part := p, leaving := false, stride := [], tlb := [], walks := [] })

/-- Hearths join a partition. -/
def hearthsJoin (s : State) (p mask : Nat) : State :=
  (unitHearths mask).foldl (fun t h => if (hget t h).oos then t else hearthMoves (hearthSample t h) h (some p)) s

/-- FORM's steps 1 to 6; writes that still wait in a controller's queue go before its own. The fill meets every stack, and waits for one that
retrains or fills (R244, R246). -/
def formSteps (s00 : State) (p mask blk n : Nat) (zf : Bool) : State :=
  let s0 := if (List.range 20).all (fun k => stkServes s00 k) then s00 else hold s00
  let s := hbmFlush s0
  let F := blockFrames s
  let lo := blk * F
  let hi := (blk + n) * F
  let ft := ftFrames lo hi
  let key := 2 * s.nextKey
  let old := partGet s p
  let x : Part := { Part.none_ with st := 1, key0 := key, units := mask, lo := blk, blks := n, count := old.count + 1, zeroed := zf,
                                    fab0 := old.fab0, fab1 := old.fab1, used := old.used, seqMem := old.seqMem, seqFab := old.seqFab }
  let s1 := { s with nextKey := s.nextKey + 1, parts := tput s.parts p x, graphs := tdel s.graphs p, xlts := tdel s.xlts p }
  let s2 := csrRange s1 (blkBase .xlt p) 0x4000
  let s3 := wr (wr (wr s2 (R.xltRange p) (lo + fieldAt 32 24 hi)) (R.xltKey p) (fieldAt 8 24 ft)) (R.secKcvPK p 0) (Config.kcv key).toNat
  let s4 := wr (zeroFill s3 key lo (if zf then hi else lo + ft)) (R.secKcvPK p 1) 0
  let s5 := (List.range ft).foldl (fun t i => frPut t p (lo + i) (frameMake 0 0 3 0)) s4
  let s6 := (List.range 256).foldl (fun t i => wrf t (R.grfSemS p i) 0 16 0) s5
  hearthsJoin (quotaSet s6 p (hi - lo - ft) (min (61440 * n) (983040 - otherLines s p)) (16 * n)) p mask

/-- FORM: accepted, it runs until PRT_CMD_DONE. -/
def formOp (s : State) (p : Nat) (mask : Nat) (zf : Bool) : State :=
  if 16 ≤ p then s
  else if prtBusy s then prtWhileBusy s p
  else
    let x := partGet s p
    if x.st ≠ 0 then prtRefuse s 1 p (stateRefusal x)
    else if mask = 0 then prtRefuse s 1 p 4
    else if (List.range 16).any (fun u => bit mask u && !bit (unitsFree s) u) then prtRefuse s 1 p 2
    else
      match blockRun s (popcount mask) with
      | none => prtRefuse s 1 p 3
      | some b => prtStat (formSteps s p mask b (popcount mask) zf) true 1 p 0

/-- GROW. -/
def growOp (s : State) (p : Nat) (mask : Nat) : State :=
  if 16 ≤ p then s
  else if prtBusy s then prtWhileBusy s p
  else
    let x := partGet s p
    if x.st ≠ 2 then prtRefuse s 2 p (stateRefusal x)
    else if mask = 0 then prtRefuse s 2 p 4
    else if (List.range 16).any (fun u => bit mask u && !bit (unitsFree s) u) then prtRefuse s 2 p 2
    else
      let n := popcount mask
      let lines := min (quotaLines s p + 61440 * n) (983040 - otherLines s p)
      let s1 := quotaSet (partMod s p (fun x => { x with units := x.units + mask })) p (xQuota s p) lines (min 256 (partRate s p + 16 * n))
      prtStat (hearthsJoin s1 p mask) false 2 p 0

/-- Units of a mask that are not in another. -/
def maskMinus (a b : Nat) : Nat := ((List.range 16).map (fun u => if bit a u && !bit b u then 2 ^ u else 0)).sum

/-- SHRINK: the hearths of the named units are marked leaving. -/
def shrinkOp (s : State) (p : Nat) (mask : Nat) : State :=
  if 16 ≤ p then s
  else if prtBusy s then prtWhileBusy s p
  else
    let x := partGet s p
    if x.st ≠ 2 then prtRefuse s 3 p (stateRefusal x)
    else if mask = 0 || maskMinus mask x.units ≠ 0 then prtRefuse s 3 p 4
    else if maskMinus (maskMinus x.units x.leaving) mask = 0 then prtRefuse s 3 p 5
    else
      let new := maskMinus mask x.leaving
      let n := popcount new
      let s1 := quotaSet (partMod s p (fun x => { x with leaving := x.leaving + new })) p (xQuota s p) (quotaLines s p - 61440 * n) (partRate s p - 16 * n)
      let hs := (unitHearths new).filter (fun h => (hget s h).part = some p)
      prtStat (hs.foldl (fun t h => unbind (hmod t h (fun y => { y with leaving := true })) h) s1) false 3 p 0

/-- HEARTH_LEAVE: a leaving hearth with no task left leaves its partition and is scrubbed (R443). -/
def hearthLeave (s : State) (h : Nat) : State :=
  let x := hget s h
  if 256 ≤ h || !x.leaving || x.cur.isSome || x.drain.isSome || x.part.isNone || s.stk.service = some h then s
  else
    hearthMoves (spdScrub (hearthSample s h) h) h none

/-- A unit whose hearths have all left and been scrubbed is free (R443). -/
def unitsLeave (s : State) (p : Nat) : State :=
  let x := partGet s p
  if x.leaving = 0 then s
  else
    let gone := (List.range 16).filter (fun u => bit x.leaving u &&
      (unitHearths (2 ^ u)).all (fun h => (hget s h).part ≠ some p && !(hget s h).spd.scrub))
    let m := (gone.map (fun u => 2 ^ u)).sum
    if m = 0 then s else partMod s p (fun x => { x with units := x.units - m, leaving := x.leaving - m })

/-! Dissolving (R444). -/

/-- A hearth of a dissolved partition: its tasks end, and it is scrubbed out of the partition; its requests are gone with the partition's lines. -/
def hearthDissolve (s : State) (h : Nat) : State :=
  let s1 := unbind s h
  let s2 := (((hget s1 h).cur.toList ++ (hget s1 h).drain.toList).map TaskRun.id).foldl (fun t own => hearthAbort t h own 14) s1
  hmod (hearthMoves (spdScrub (hearthSample s2 h) h) h none) h (fun y => { y with reqs := [], resps := [], hints := [] })

/-- The collective table of a partition is unloaded; running instances end without completion. -/
def colDissolve (s : State) (p : Nat) : State :=
  unloadNow ((s.cols.filter (fun e => e.1 / 256 = p && e.2.st = 2)).foldl (fun t e => digEnd t p (e.1 % 256) e.2) s) p

def dissolveSteps (s : State) (p : Nat) : State :=
  let s0 := partMod s p (fun x => { x with st := 3 })
  let s1 := (partHearths s0 p).foldl hearthDissolve s0
  let s2 := (List.range 64).foldl (fun t i => qpReset t (64 * p + i)) s1
  let s3 := [0, 1, 2, 3].foldl (fun t sl => csrRange (slMod (chmScrub t sl p) sl (fun x =>
    { x with reqs := x.reqs.filter (fun q => q.part ≠ p), waits := x.waits.filter (fun w => w.req.part ≠ p) }))
    (R.chmMcgPG sl p 0).addr 0x800) (colDissolve s2 p)
  let s4 := partMod s3 p (fun x => { x with key0 := 0, key1 := 0, src := 0, fab0 := 0, fab1 := 0, used := 0, sweep := 0 })
  let s5 := (List.range 4).foldl (fun t k => wr t (R.secKcvPK p k) 0) s4
  let s6 := { s5 with graphs := tdel s5.graphs p, xlts := tdel s5.xlts p, walkCache := s5.walkCache.filter (fun e => e.part ≠ p),
                      walks := s5.walks.map (fun e => (e.1, e.2.filter (fun q => q.part ≠ p))) }
  csrRange s6 (blkBase .xlt p) 0xC000

/-- The scrubs of a DISSOLVE, of the hearths of its units and of the slices, end (R146, R219). -/
def scrubsEnd (s : State) (p : Nat) : State :=
  [0, 1, 2, 3].foldl chmScrubDone ((unitHearths (partGet s p).units).foldl spdScrubDone s)

/-- DISSOLVE: accepted, it runs until PRT_CMD_DONE. -/
def dissolveOp (s : State) (p : Nat) : State :=
  if 16 ≤ p then s
  else if prtBusy s then prtWhileBusy s p
  else
    let x := partGet s p
    if x.st ≠ 2 then prtRefuse s 4 p (stateRefusal x) else prtStat (dissolveSteps s p) true 4 p 0

/-- PRT_CMD_DONE: a FORM or DISSOLVE in progress finishes. A DISSOLVE's scrubs have ended by then, since its steps run in order (R444). -/
def prtCmdDone (s : State) : State :=
  if !prtBusy s then s
  else
    let op := rdf s R.prtCmdStatus 1 3
    let p := rdf s R.prtCmdStatus 4 4
    let s1 := prtStat s false op p 0
    if op = 1 then partMod s1 p (fun x => { x with st := 2 })
    else
      let s2 := partMod (scrubsEnd s1 p) p (fun x => { x with st := 0, units := 0, leaving := 0, lo := 0, blks := 0, zeroed := false, over_ := false })
      quotaSet s2 p 0 0 0

/-! Keys (R452–R458). -/

def keyBusy (s : State) : Bool := s.keyRun.isSome

/-- A key command's result waits for SEC_KEY_CMD_DONE; a refusal is counted and logged. -/
def keyEnd (s : State) (op p result : Nat) : State :=
  let s1 := { s with keyRun := some (op, p, result) }
  if result = 0 then s1 else secErr (secBump s1 R.secKeyRefused 1) 1 p result 0 0

/-- SEC_KEY_CMD_DONE. -/
def secKeyCmdDone (s : State) : State :=
  match s.keyRun with
  | none => s
  | some (op, p, result) => wr { s with keyRun := none } R.secKeyStatus (op + fieldAt 4 4 p + fieldAt 8 4 result)

def memKey (x : Part) (k : Nat) : Nat := if k = 0 then x.key0 else x.key1
def frCount (s : State) (p k : Nat) : Nat := rdf s (R.xltKey p) (if k = 0 then 8 else 32) 24

/-- A rotation is refused while the other slot is loaded or in use (R452). -/
def slotBusy (s : State) (p : Nat) : Bool :=
  let k := 1 - xCur s p
  memKey (partGet s p) k ≠ 0 || frCount s p k ≠ 0

/-- The new key enters the other slot, which becomes current, and the sweep begins. Keys are numbered by their material: a generated one is even,
an imported one odd. -/
def rotateTo (s : State) (p key : Nat) : State :=
  let k := 1 - xCur s p
  let imported := key % 2 = 1
  let s1 := partMod s p (fun x =>
    let y := if k = 0 then { x with key0 := key } else { x with key1 := key }
    { y with src := setBits x.src k 1 (b1 imported), sweep := 1, sweepVpn := 0 })
  secBump (wrf (wr s1 (R.secKcvPK p k) (Config.kcv key).toNat) (R.xltKey p) 0 1 k) R.secKeyLoads 1

/-- ROTATE_GEN. -/
def rotateGen (s : State) (p : Nat) : State :=
  if 16 ≤ p || keyBusy s then s
  else if !prtFormed s p then keyEnd s 2 p 5
  else if slotBusy s p then keyEnd s 2 p 1
  else keyEnd (rotateTo { s with nextKey := s.nextKey + 1 } p (2 * s.nextKey)) 2 p 0

/-- The checks of a key blob (R455): KEY_SEQ, SLOT and the key's number, or the RESULT of a refusal. `last` is the last
accepted KEY_SEQ. -/
def blobRead (s : State) (p va kind last : Nat) : Except Nat (Nat × Nat × Nat) × State :=
  let r := vaGet s p va 1184 false
  match r.1 with
  | none => (.error 4, r.2.2)
  | some b =>
    let f := fun i n => leVal ((b.drop i).take n)
    if f 0 1 ≠ kind || 1 < f 1 1 || (kind = 0 && f 1 1 ≠ 0) || f 2 2 ≠ 0 || f 8 8 ≠ 0 then (.error 7, r.2.2)
    else if kind = 1 && f 1 1 = txSlot s p && rdf s (R.colPartCtrlP p) 2 2 = 2 then (.error 6, r.2.2)
    else if !Config.blobOk s.coldStarts p (partGet s p).count b then (.error 2, r.2.2)
    else if f 4 4 ≤ last then (.error 3, r.2.2)
    else (.ok (f 4 4, f 1 1, 2 * Config.blobKey s.coldStarts p (partGet s p).count b + 1), r.2.2)

/-- SEC_KEY_SEQ_p. -/
def keySeqSet (s : State) (p : Nat) : State :=
  let x := partGet s p
  wr s (R.secKeySeqP p) (x.seqMem + fieldAt 32 32 x.seqFab)

/-- ROTATE_IMPORT. -/
def rotateImport (s : State) (p va : Nat) : State :=
  if 16 ≤ p || keyBusy s then s
  else if !prtFormed s p then keyEnd s 1 p 5
  else if slotBusy s p then keyEnd s 1 p 1
  else
    let b := blobRead s p va 0 (partGet s p).seqMem
    match b.1 with
    | .error r => keyEnd b.2 1 p r
    | .ok (q, _, key) => keyEnd (keySeqSet (partMod (rotateTo b.2 p key) p (fun x => { x with seqMem := q })) p) 1 p 0

/-- A fabric slot takes a key, or is erased; USED is cleared. -/
def fabSet (s : State) (p slot key : Nat) : State :=
  let s1 := partMod s p (fun x =>
    let y := if slot = 0 then { x with fab0 := key } else { x with fab1 := key }
    { y with used := setBits x.used slot 1 0 })
  wr s1 (R.secKcvPK p (2 + slot)) (if key = 0 then 0 else (Config.kcv key).toNat)

/-- LOAD_FAB. -/
def loadFabOp (s : State) (p va : Nat) : State :=
  if 16 ≤ p || keyBusy s then s
  else if !prtFormed s p then keyEnd s 3 p 5
  else
    let b := blobRead s p va 1 (partGet s p).seqFab
    match b.1 with
    | .error r => keyEnd b.2 3 p r
    | .ok (q, slot, key) =>
      let s1 := fabSet b.2 p slot key
      keyEnd (secBump (keySeqSet (partMod s1 p (fun x => { x with seqFab := q })) p) R.secKeyLoads 1) 3 p 0

/-- CLEAR_FAB. -/
def clearFabOp (s : State) (p slot : Nat) : State :=
  if 16 ≤ p || 1 < slot || keyBusy s then s
  else if !prtFormed s p then keyEnd s 4 p 5
  else if slot = txSlot s p && rdf s (R.colPartCtrlP p) 2 2 = 2 then keyEnd s 4 p 6
  else keyEnd (fabSet s p slot 0) 4 p 0

/-! The sweep (R452, R453). -/

/-- The next page at or after `vpn` with a valid leaf whose frame has K ≠ CUR. -/
def sweepFind (s : State) (p vpn n : Nat) : Option Nat × State :=
  match n with
  | 0 => (none, s)
  | n + 1 =>
    if 2 ^ 32 ≤ vpn then (none, s)
    else
      let t := tablesMissing s p vpn
      if t.1 ≠ some 0 then sweepFind t.2 p ((vpn / 4096 + 1) * 4096) n
      else
        let w := walk t.2 0 p vpn false
        match w.1 with
        | .leaf e _ _ =>
          let f := frGet w.2 p (leFrame e)
          if f.1.any (fun v => feK v ≠ xCur s p) then (some vpn, f.2) else sweepFind f.2 p (vpn + 1) n
        | _ => sweepFind w.2 p (vpn + 1) n

/-- A REKEY or REKEY_META record of the Stoker joins ring 1. -/
def sweepPut (s : State) (p op vpn : Nat) : State :=
  let tail := rd s (R.xltOpqTailG p 1)
  let va := rd s (R.xltOpqBaseG p 1) + 32 * (tail % opqSize s p 1)
  let r := op + fieldAt 32 32 1 + fieldAt 64 48 (65536 * vpn)
  opqTailWrite (vaPut s p va (leBytes 32 r)).2 p 1 ((tail + 1) % 2 ^ 32)

/-- The Stoker posts the sweep's next record once ring 1 has done the last one: codes of `sweep` are 1 nothing posted, 4 a REKEY posted,
5 one posted that has failed and is skipped, 2 the REKEY_META posted. SEC_SWEEP_PAGES counts the REKEY pages completed (R470). -/
def sweepStep (s : State) (p : Nat) : State :=
  let x := partGet s p
  if x.sweep = 0 || x.sweep = 2 || s.away || rd s (R.xltOpqTailG p 1) ≠ rd s (R.xltOpqHeadG p 1) then s
  else
    let s0 := if x.sweep = 4 then secBump s R.secSweepPages 1 else s
    let f := sweepFind s0 p x.sweepVpn (2 ^ 32)
    match f.1 with
    | some v => partMod (sweepPut f.2 p 6 v) p (fun x => { x with sweep := 4, sweepVpn := v + 1 })
    | none => partMod (sweepPut f.2 p 7 0) p (fun x => { x with sweep := 2 })

/-- KEY_SWEEP_DONE: the old slot's frame count has reached 0 (R452). -/
def keySweepDone (s : State) (p : Nat) : State :=
  let old := 1 - xCur s p
  if 16 ≤ p || (partGet s p).sweep = 0 || frCount s p old ≠ 0 || s.away then s
  else
    wr (partMod s p (fun x =>
      let y := if old = 0 then { x with key0 := 0 } else { x with key1 := 0 }
      { y with src := setBits x.src old 1 0, sweep := 0 })) (R.secKcvPK p old) 0

end Sys2Proof.Machine
end

