-- ==== Sys2Proof/Machine/RegRange.lean ====
section
/-!
DEFINITION. The values that a register takes: a write that would give a field a value outside its range is not performed (R576). The ranges stand
in the field tables of R227, R247, R278, R318, R359, R368, R376, R406, R407, R413, R434, R467, R471, R494, R496, R527 and R529.
-/

namespace Sys2Proof.Machine

/-- A field lies in a range. -/
def fieldIn (v lo len a b : Nat) : Bool := let x := bits v lo len; decide (a ≤ x) && decide (x ≤ b)

/-- Bytes of the receive pool that the thresholds of the lossless priorities claim, in KiB (R413), with register `i` at value `v`. -/
def pfcClaim (s : State) (lossless i v : Nat) : Nat :=
  ((List.range 8).map (fun j =>
    let w := if j = i then v else rd s (R.hstPfcThrI j)
    if bit lossless j then bits w 0 10 + bits w 32 10 else 0)).sum

/-- XON below XOFF, and the claim of the lossless priorities within the pool (R413, R434). -/
def pfcThrOk (s : State) (i v : Nat) : Bool :=
  decide (bits v 16 10 < bits v 0 10) && decide (pfcClaim s (rdf s R.hstPfcCfg 0 8) i v ≤ 768)

/-- The power caps of the fireboxes together (R487, R496), with firebox `f` at value `v`. -/
def capSum (s : State) (f v : Nat) : Nat :=
  ((List.range 4).map (fun g => bits (if g = f then v else rd s (R.pwrFbCapF g)) 0 12)).sum

/-- May a register take this value: `i` is its first index, `old` the value it holds. -/
def rangeOk (s : State) (id : RegId) (i old v : Nat) : Bool :=
  match id with
  | .chmMcBudget => decide (bits v 0 16 ≠ 0) && decide (bits v 16 16 ≠ 0)
  | .chmArbWeight => decide (bits v 0 8 ≠ 0) && decide (bits v 8 8 ≠ 0)
  | .chmPartRateP => fieldIn v 0 9 0 256
  | .chmMcgPG => !bit v 0 || fieldIn v 1 7 2 64
  | .memCtrl => fieldIn v 8 8 1 255
  | .memScrubCfg => fieldIn v 0 32 12500 (2 ^ 32)
  | .xltOpqCfgG => fieldIn v 0 5 6 16
  | .xltRsvCfg => fieldIn v 0 5 10 20
  | .xltRelCfg => fieldIn v 0 5 10 20
  | .xltOpqBaseG => decide (v % 32 = 0)
  | .xltRsvBase => decide (v % 4 = 0)
  | .xltRelBase => decide (v % 4 = 0)
  | .grfWdog => decide (bits v 0 32 ≠ 0)
  | .grfMixCfg =>
    fieldIn v 0 13 32 512 && decide (bits v 0 13 % 32 = 0) && fieldIn v 13 13 (bits v 0 13) 512 && decide (bits v 13 13 % 32 = 0)
  | .grfMixTable => decide (v % 16 = 0)
  | .lnkCfg =>
    fieldIn v 0 2 0 2 && (fieldIn v 8 5 0 17 || fieldIn v 8 5 31 31) && fieldIn v 16 8 1 255 && fieldIn v 24 4 1 15 && fieldIn v 28 4 1 15
  | .fabAddr => fieldIn v 0 16 0 4095
  | .fabTopo => fieldIn v 0 2 0 2
  | .fabRouteD => fieldIn v 0 5 0 17 && fieldIn v 8 5 0 17
  | .colPartTableP => decide (bits v 0 48 % 64 = 0) && fieldIn v 48 9 0 256
  | .hstPfcCfg => fieldIn v 16 8 1 40
  | .hstPfcThrI => pfcThrOk s i v
  | .hstEcnCfg => fieldIn v 16 8 1 255
  | .hstIpfixCfg => fieldIn v 32 16 10 65535
  | .hstQpCtrlQ =>
    fieldIn v 12 5 1 31 && (bits v 0 3 = bits old 0 3 || bits v 0 3 = 0 || (bits v 0 3 = 1 && bits old 0 3 = 0))
  | .hstQpCqQ => decide (bits v 0 48 % 256 = 0) && fieldIn v 48 5 4 16
  | .prtRateP => fieldIn v 0 9 0 256
  | .telDmpCfg =>
    fieldIn v 1 7 50 99 && fieldIn v 8 4 0 12 && fieldIn v 12 8 1 255 && fieldIn v 20 8 1 255 && fieldIn v 28 8 1 255 && fieldIn v 44 12 1 1056
  | .telDmpLim => fieldIn v 0 8 1 255 && fieldIn v 8 16 1 65535 && fieldIn v 24 10 1 768
  | .pwrCtrl => fieldIn v 8 8 10 255
  | .pwrFbCapF =>
    fieldIn v 0 12 100 1000 && fieldIn v 12 8 1 255 && fieldIn v 20 8 60 105 && fieldIn v 28 6 0 60 && decide (capSum s i v ≤ 1700)
  | .errCtrl => fieldIn v 8 4 1 15 && fieldIn v 16 16 1 65535
  | .stkWdogCfg => fieldIn v 0 16 100 65535 && fieldIn v 16 16 1 65535 && fieldIn v 32 8 10 255 && fieldIn v 40 16 500 65535
  | _ => true

end Sys2Proof.Machine
end

