-- ==== Sys2Proof/Machine/Flash.lean ====
section
/-!
DEFINITION. The flash of the Kindling image (18): bytes, sectors and programming (R533, R550), the checks of a copy (R535–R537, R539–R542), and
the health record (R546, R547).
-/

namespace Sys2Proof.Machine

def stkMod (s : State) (f : Stoker → Stoker) : State := { s with stk := f s.stk }

/-! Bytes. -/

/-- Bytes of the flash; an erased byte is FFH, held inverted. -/
def flRead (s : State) (a n : Nat) : List Byte := (memGetL s.stk.flash a n).map (fun b => ~~~ b)

/-- The 64 KiB sector that holds an address is erased. -/
def flErase (s : State) (a : Nat) : State := stkMod s (fun k => { k with flash := memZero k.flash (a / 65536 * 65536) 65536 })

/-- Bytes are programmed: a programmed bit is 0, and programming sets no bit. -/
def flProgram (s : State) (a : Nat) (bs : List Byte) : State :=
  stkMod s (fun k => { k with flash := memPutL k.flash a (List.zipWith (fun o b => o ||| ~~~ b) (memGetL k.flash a bs.length) bs) })

/-- A little-endian field of a record. -/
def lv (b : List Byte) (i n : Nat) : Nat := leVal ((b.drop i).take n)

def zeroAt (b : List Byte) (i n : Nat) : Bool := ((b.drop i).take n).all (fun x => x = 0)

/-- A record of 4,064 bytes with its SHA3-256 digest after it (R520, R546). -/
def sealed (b : List Byte) : List Byte := b ++ sha3 b
def sealOk (b : List Byte) : Bool := decide (sha3 (b.take 4064) = (b.drop 4064).take 32)

/-! The header (R535) and its sections (R536). -/

def copyBase (c : Nat) : Nat := c * 0x2000000

/-- A section entry: index, TYPE, OFFSET, LENGTH, digest. -/
structure Sec where
  idx : Nat
  ty : Nat
  off : Nat
  len : Nat
  dig : List Byte
deriving DecidableEq, Repr

def secEntry (hd : List Byte) (i : Nat) : List Byte := (hd.drop (1344 + 48 * i)).take 48

def secOf (hd : List Byte) (i : Nat) : Sec :=
  let e := secEntry hd i
  ⟨i, lv e 0 2, lv e 4 4, lv e 8 4, e.drop 16⟩

def hdSecs (hd : List Byte) : List Sec := (List.range (lv hd 6 2)).map (secOf hd)

def secFind (l : List Sec) (ty : Nat) : Option Sec := l.find? (fun x => x.ty = ty)

/-- One entry: a known TYPE, reserved bytes 0, aligned and inside the copy. -/
def secOk (hd : List Byte) (x : Sec) : Bool :=
  let e := secEntry hd x.idx
  zeroAt e 2 2 && zeroAt e 12 4 && decide (1 ≤ x.ty) && decide (x.ty ≤ 6) && decide (x.off % 4096 = 0) && decide (8192 ≤ x.off) &&
    decide (x.off + x.len ≤ lv hd 8 4)

def secsApart (l : List Sec) : Bool :=
  l.all (fun x => l.all (fun y => x.idx = y.idx || (x.ty ≠ y.ty && (x.off + x.len ≤ y.off || y.off + y.len ≤ x.off))))

/-- Check 1 of R537. -/
def headerOk (hd : List Byte) : Bool :=
  decide (lv hd 0 4 = 0x31444E4B) && decide (lv hd 4 2 = 1) && decide (1 ≤ lv hd 6 2) && decide (lv hd 6 2 ≤ 16) &&
    decide (8192 ≤ lv hd 8 4) && decide (lv hd 8 4 ≤ 0x2000000) && zeroAt hd 1328 16 && zeroAt hd 4532 3660 &&
    zeroAt hd (1344 + 48 * lv hd 6 2) (48 * (16 - lv hd 6 2)) && (hdSecs hd).all (secOk hd) && secsApart (hdSecs hd)

/-- The image digest: SHA3-256 of bytes 0 to 2,111. -/
def imgDigest (hd : List Byte) : List Byte := sha3 (hd.take 2112)

/-! The configuration sections (R539–R542). -/

def dvAddr (d : List Byte) : Nat := lv d 0 2

/-- The DEVICE section: fields in range, reserved bytes 0. -/
def deviceOk (d : List Byte) : Bool :=
  decide (d.length = 256) && decide (dvAddr d ≤ 4095) && decide (lv d 2 1 ≤ 1) && decide (lv d 3 1 < 32) && decide (lv d 10 2 ≤ 4095) &&
    zeroAt d 35 1 && zeroAt d 46 2 && zeroAt d 67 1 && zeroAt d 71 1 && zeroAt d 76 180

/-- Entry of port `p`. -/
def ptEntry (d : List Byte) (p : Nat) : List Byte := (d.drop (16 * p)).take 16
def ptLinks (d : List Byte) (p : Nat) : Nat := lv (ptEntry d p) 0 4
def ptClass (d : List Byte) (p : Nat) : Nat := lv (ptEntry d p) 4 1
def ptOn (d : List Byte) (p : Nat) : Bool := decide (lv (ptEntry d p) 5 1 = 1)
def linkCount (m : Nat) : Nat := ((List.range 18).filter (fun n => bit m n)).length

def portOk (d : List Byte) (p : Nat) : Bool :=
  let e := ptEntry d p
  let n := linkCount (ptLinks d p)
  decide (ptLinks d p < 2 ^ 18) && decide (ptClass d p ≤ 2) && decide (lv e 5 1 ≤ 1) && zeroAt e 9 7 &&
    (n = 0 || (decide (1 ≤ lv e 6 1) && decide (1 ≤ lv e 7 1) && decide (lv e 7 1 ≤ 15) && decide (1 ≤ lv e 8 1) && decide (lv e 8 1 ≤ 15))) &&
    (!ptOn d p || (decide (1 ≤ n) && decide (n ≤ 6)))

/-- The PORTS section: fields in range, no link in two ports, 1 to 6 links in an enabled port. -/
def portsOk (d : List Byte) : Bool :=
  decide (d.length = 288) && (List.range 18).all (portOk d) &&
    (List.range 18).all (fun n => decide (((List.range 18).filter (fun p => bit (ptLinks d p) n)).length ≤ 1))

def tpKind (t : List Byte) : Nat := lv t 0 1
def tpSize (t : List Byte) (d : Nat) : Nat := lv t (1 + d) 1
def tpDevs (t : List Byte) : Nat := lv t 4 2
def tpAdj (t : List Byte) (d p : Nat) : Nat := lv t (16 + 72 * d + 4 * p) 4

/-- The TOPOLOGY section and the checks that join it to the others (R542). -/
def topoOk (dev ports t : List Byte) (routes : Bool) : Bool :=
  let dims := [0, 1, 2]
  (tpKind t = 1 || tpKind t = 2) && dims.all (fun d => decide (1 ≤ tpSize t d) && decide (tpSize t d ≤ 16)) && decide (1 ≤ tpDevs t) &&
    decide (tpDevs t ≤ 4096) && zeroAt t 6 10 &&
    (if tpKind t = 1 then
      decide (t.length = 16) && dims.all (fun d => decide (bits (dvAddr dev) (4 * d) 4 < tpSize t d)) &&
        dims.all (fun d => tpSize t d = 1 || (ptOn ports (2 * d) && ptOn ports (2 * d + 1)))
    else
      decide (t.length = 16 + 72 * tpDevs t) && decide (dvAddr dev < tpDevs t) && routes &&
        (List.range (tpDevs t)).all (fun d => (List.range 18).all (fun p =>
          let e := tpAdj t d p
          decide (e < 2 ^ 22) && (!bit e 21 || (decide (bits e 0 16 ≤ 4095) && decide (bits e 16 5 ≤ 17))))))

def routeEntryOk (e : Nat) : Bool :=
  decide (bits e 6 2 = 0) && decide (e < 2 ^ 14) && (!bit e 5 || decide (bits e 0 5 ≤ 17)) && (!bit e 13 || decide (bits e 8 5 ≤ 17))

def routesOk (r : List Byte) : Bool := decide (r.length = 16384) && (List.range 4096).all (fun d => routeEntryOk (lv r (4 * d) 4))

/-- The TUNING section: the values of FAB_E2E_CFG, TEL_DMP_CFG, TEL_DMP_LIM and PWR_FB_CAP_0 to 3. -/
def tuningOk (s : State) (t : List Byte) : Bool :=
  decide (t.length = 56) && rangeOk s .telDmpCfg 0 0 (lv t 8 8) && rangeOk s .telDmpLim 0 0 (lv t 16 8) &&
    (List.range 4).all (fun f => let v := lv t (24 + 8 * f) 8
      fieldIn v 0 12 100 1000 && fieldIn v 12 8 1 255 && fieldIn v 20 8 60 105 && fieldIn v 28 6 0 60) &&
    decide (((List.range 4).map (fun f => bits (lv t (24 + 8 * f) 8) 0 12)).sum ≤ 1700)

/-! Verification (R537). -/

/-- A copy that verifies: IMAGE_VERSION, SVN and VERSION of the firmware, image and firmware digests, and the configuration sections (empty where
the copy has none). -/
structure Img where
  version : Nat
  svn : Nat
  fwVersion : Nat
  digest : List Byte
  fwDigest : List Byte
  dev : List Byte
  ports : List Byte
  topo : List Byte
  routes : List Byte
  tuning : List Byte
deriving DecidableEq, Repr

def secBytes (s : State) (c : Nat) (x : Sec) : List Byte := flRead s (copyBase c + x.off) x.len
def secData (s : State) (c : Nat) (l : List Sec) (ty : Nat) : List Byte := ((secFind l ty).map (secBytes s c)).getD []

/-- The digest of the Gygavik firmware key in fuses. -/
def gygavikDigest : List Byte := (List.range 32).map Config.firmwareKey

/-- Check 2: the owner key. DEV_FUSES shows what the fuses held at the cold start (R553). -/
def ownerOk (s : State) (hd : List Byte) : Bool :=
  let d := sha3 ((hd.drop 16).take 1312)
  if bit (rd s R.devFuses) 0 then decide (some d = s.stk.fuses.owner) else decide (d = gygavikDigest)

/-- Check 5: the firmware key, the signature over the code, and SVN. -/
def firmwareOk (s : State) (fw : List Byte) : Bool :=
  let key := (fw.drop 8).take 1312
  decide (3740 ≤ fw.length) && decide (sha3 key = gygavikDigest) && Config.sigOk key (sha3 (fw.drop 3740)) ((fw.drop 1320).take 2420) &&
    decide (bits (rd s R.devFuses) 8 16 ≤ lv fw 0 4)

/-- Check 6: the section whose check fails first, by entry index; 0 where a required one is missing. -/
def configFail (s : State) (l : List Sec) (dev ports topo routes tuning : List Byte) : Option Nat :=
  let at_ := fun ty => ((secFind l ty).map Sec.idx).getD 0
  if (secFind l 2).isNone || (secFind l 3).isNone || (secFind l 4).isNone then some 0
  else if !deviceOk dev then some (at_ 2)
  else if !portsOk ports then some (at_ 3)
  else if !topoOk dev ports topo (secFind l 5).isSome then some (at_ 4)
  else if (secFind l 5).isSome && !routesOk routes then some (at_ 5)
  else if (secFind l 6).isSome && !tuningOk s tuning then some (at_ 6)
  else none

/-- The checks of R537 on a copy: the image, or the KIND and SECTION of the first failure. -/
def imgVerify (s : State) (c : Nat) : Except (Nat × Nat) Img :=
  let hd := flRead s (copyBase c) 8192
  if !headerOk hd then .error (1, 0)
  else if !ownerOk s hd then .error (2, 0)
  else if !Config.sigOk ((hd.drop 16).take 1312) (imgDigest hd) ((hd.drop 2112).take 2420) then .error (3, 0)
  else
    let l := hdSecs hd
    match l.find? (fun x => sha3 (secBytes s c x) ≠ x.dig) with
    | some x => .error (4, x.idx)
    | none =>
      let fw := secData s c l 1
      if !firmwareOk s fw then .error (5, ((secFind l 1).map Sec.idx).getD 0)
      else
        let dev := secData s c l 2
        let ports := secData s c l 3
        let topo := secData s c l 4
        let routes := secData s c l 5
        let tuning := secData s c l 6
        match configFail s l dev ports topo routes tuning with
        | some i => .error (6, i)
        | none => .ok ⟨lv hd 12 4, lv fw 0 4, lv fw 4 4, imgDigest hd, sha3 (fw.drop 3740), dev, ports, topo, routes, tuning⟩

/-- KND_ERR_LOG (R555). -/
def kndErr (s : State) (kind copy sec : Nat) : State :=
  logErr s R.kndErrLog R.kndErrCount (fieldAt 8 4 kind + fieldAt 12 1 copy + fieldAt 16 4 sec)

/-- KND_COPY_INFO_c and KND_COPY_DIG_c_i after a check; FAIL_KIND keeps the KIND of the last failure (R555). -/
def copyNote (s : State) (c : Nat) (r : Except (Nat × Nat) Img) : State :=
  let hd := flRead s (copyBase c) 8192
  let fw := match secFind (hdSecs hd) 1 with | some x => flRead s (copyBase c + x.off) 2 | none => [0, 0]
  let old := rd s (R.kndCopyInfoC c)
  let v := match r with
    | .ok m => fieldAt 0 32 m.version + fieldAt 32 1 1 + fieldAt 33 1 1 + fieldAt 36 4 (bits old 36 4) + fieldAt 48 16 m.svn
    | .error e => fieldAt 0 32 (lv hd 12 4) + fieldAt 32 1 1 + fieldAt 36 4 e.1 + (if e.1 = 1 then 0 else fieldAt 48 16 (leVal fw))
  let d := imgDigest hd
  (List.range 4).foldl (fun t i => wr t (R.kndCopyDigCI c i) (lv d (8 * i) 8)) (wr s (R.kndCopyInfoC c) v)

/-- A copy is checked and the outcome recorded: a failure in KND_ERR_LOG (R537). -/
def copyCheck (s : State) (c : Nat) : Except (Nat × Nat) Img × State :=
  let r := imgVerify s c
  let s1 := copyNote s c r
  (r, match r with | .ok _ => s1 | .error e => kndErr s1 e.1 c e.2)

/-! The health record (R546, R547). -/

def healthSlot (i : Nat) : Nat := 0x4000000 + 0x10000 * i

/-- The record in a slot, where it is valid. -/
def slotRecord (s : State) (i : Nat) : Option (List Byte) :=
  let b := flRead s (healthSlot i) 4096
  if lv b 0 4 = 0x31544C48 && sealOk b then some b else none

/-- The current record and its slot; none when the record is blank. -/
def healthNow (s : State) : Option (Nat × List Byte) :=
  match slotRecord s 0, slotRecord s 1 with
  | some a, some b => if lv a 4 4 < lv b 4 4 then some (1, b) else some (0, a)
  | some a, none => some (0, a)
  | none, some b => some (1, b)
  | none, none => none

/-- A bit map of the out-of-service hearths, in bytes. -/
def oosBytes (s : State) : List Byte := (List.range 32).map (fun i =>
  BitVec.ofNat 8 ((List.range 8).map (fun j => if (tgetD s.hearths (8 * i + j) .fresh).oos then 2 ^ j else 0)).sum)

/-- The record of the device's present sets, IN_USE and COLD_STARTS, with a SEQ. -/
def healthBytes (s : State) (seq : Nat) : List Byte :=
  let b := leBytes 4 0x31544C48 ++ leBytes 4 seq ++ leBytes 4 (rdf s R.kndStatus 0 1) ++ leBytes 4 s.coldStarts ++ leBytes 8 0 ++
    (List.range 20).flatMap (fun k => leBytes 4 (rdf s (R.memRetired k) 0 32)) ++ oosBytes s ++ List.replicate 3928 0
  sealed b

/-- A new record with SEQ + 1 is written into the slot that is not current. -/
def healthWrite (s : State) : State :=
  let n := match healthNow s with | some (i, b) => (1 - i, lv b 4 4 + 1) | none => (0, 1)
  flProgram (flErase s (healthSlot n.1)) (healthSlot n.1) (healthBytes s n.2)

end Sys2Proof.Machine
end

