-- ==== Sys2Proof/Machine/Telemetry.lean ====
section
/-!
DEFINITION. Measurement and control (16): histograms (R481, R482), clock measurement (R475), the damper (R484–R487), the power loops
(R488–R490, R565), the IPFIX export (R431, R477–R479, R492).
-/

namespace Sys2Proof.Machine

/-! Histograms (R482). -/

def histRegs : List (Nat × Nat) := (List.range 27).flatMap (fun h => (List.range 32).map (fun b => (h, b)))

/-- HIST_SNAP: every live bin is copied to its snapshot. -/
def histSnap (s : State) : State := histRegs.foldl (fun t e => wr t (R.telHsnapHB e.1 e.2) (rd s (R.telHistHB e.1 e.2))) s

/-- HIST_CLR: every live bin is cleared; the export loses none of its counts. -/
def histClr (s : State) : State :=
  let s1 := sampleAll s histItems
  let s2 := histRegs.foldl (fun t e => wr t (R.telHistHB e.1 e.2) 0) s1
  samplesZero s2 (blkBase .tel 0 + 0x1000) (27 * 0x200)

/-! Clocks (R475). -/

/-- A link or port that is down reads 0. -/
def clkDown (s : State) (d : Nat) : Bool := (d = 4 && !s.hport.up) || (5 ≤ d && !lkRuns s (d - 5))

/-- CLOCK_MEASURE: the Stoker measures every domain. -/
def clockMeasure (s : State) (khz : List Nat) : State :=
  if s.away then s
  else (List.range 23).foldl (fun t d => wr t (R.telClkD d) (if clkDown s d then 0 else khz.getD d 0 % 2 ^ 32)) s

/-! The damper (R484–R487). -/

/-- Flits that wait on a port, by a test of their VC. -/
def portWaiting (s : State) (p : Nat) (f : Nat → Bool) : Nat :=
  ((portLive s p).map (fun n => (((lkGet s n).txq.filter (fun q => f q.vc)).map (fun q => q.flits.length)).sum)).sum

/-- Flits that one live link can send in a window: 4,096 slots of 2.5 ns, 125 of 128 data slots (R343, R344). -/
def windowFlits : Nat := 4000

/-- DAMPER_WINDOW: a port's load in the window that ends decides whether it is congested in the next. -/
def damperWindow (s : State) (p : Nat) : State :=
  if 18 ≤ p then s
  else
    let x := portGet s p
    let w := portWidth s p
    let cong := bit (rd s R.telDmpCfg) 0 && 0 < w
      && dmpCfg s 1 7 * (windowFlits * w) ≤ 100 * (x.sent + portWaiting s p (fun _ => true))
      && (List.range 24).any (fun v => dmpCfg s 44 12 ≤ portWaiting s p (fun u => u = v))
    let s1 := portMod s p (fun x => { x with sent := 0, cong := cong, cnt := if cong && x.cong then x.cnt else 0 })
    if cong then owe s1 (oweKey 2 (16 * p + 7)) (b1 (!bit (rd s R.telCtrl) 0)) else s1

/-- A RATE message in a receive pool that carries these fields: link, VC, number. -/
def rateHeld (s : State) (m : RateMsg) : Option (Nat × Nat × Nat) :=
  ((List.range 18).flatMap (fun n => (List.range 32).flatMap (fun vc =>
    ((rxPool (lkGet s n) vc).filter (fun q =>
      let h := pktHdr q.flits
      q.way = .local_ && q.whole && phType h = 3 && hB h 16 1 = 1 && phSlice h = m.slice && phGroup h = m.group && phSpart h = m.spart
        && hB h 17 1 = m.dec && hB h 18 2 = m.origDst)).map (fun q => (n, vc, q.id))))).head?

/-- RATE: a received RATE message; its packet leaves the receive pool. With EN = 0 it is counted and cuts nothing. -/
def rateOp (s : State) (m : RateMsg) : State :=
  let s1 := match rateHeld s m with | some (n, vc, id) => rxDrop s n vc id | none => s
  if bit (rd s R.telDmpCfg) 0 then rateApply s1 m.slice m.group m.spart m.dec m.origDst else telBump s1 R.telRateRecv 1

/-- Numbers from 2^32 name queue pairs: their send rates rise by the same rule (R487). -/
def rateQp (flow : Nat) : Option Nat := if 2 ^ 32 ≤ flow then some (flow - 2 ^ 32) else none

/-- A change of the limit of a flow or queue pair that is limited. -/
def rateMod (s : State) (flow : Nat) (f : Nat → Nat) (free : Bool) : State :=
  match rateQp flow with
  | some q => if (tget s.qps q).isNone then s
      else qpMod s q (fun x => if x.limit = 0 then x else { x with limit := f x.limit, cutAt := if free then none else x.cutAt })
  | none => sfMod s flow (fun x => if x.limit = 0 then x else { x with limit := f x.limit, cutAt := if free then none else x.cutAt })

/-- RATE_INCREASE: R rises by AI, in units of 100 MB/s. -/
def rateIncrease (s : State) (flow : Nat) : State := rateMod s flow (fun r => r + 100 * dmpCfg s 36 8) false

/-- RATE_RESET_TIMEOUT: R returns to unlimited. -/
def rateReset (s : State) (flow : Nat) : State := rateMod s flow (fun _ => 0) true

/-! The power loops (R488, R490, R565). -/

def loopGet (s : State) (f : Nat) : PowerLoop := tgetD s.loops f ⟨0, []⟩
def pwrBump (s : State) (r : Reg) (n : Nat) (w : Nat := 48) : State := bump s (bit (rd s R.pwrCtrl) 1) r n w
def fbCap (s : State) (f lo len : Nat) : Nat := rdf s (R.pwrFbCapF f) lo len
def mean (l : List Nat) : Nat := if l.isEmpty then 0 else l.sum / l.length

/-- P or T over its limit; a period without a valid reading counts as P over CAP_W (R565). -/
def fbOver (s : State) (f : Nat) (r : PowerReading) : Bool :=
  r.power.all (fun p => decide (fbCap s f 0 12 < p)) || fbCap s f 20 8 < r.temp

/-- P and T below the limits by the hysteresis. -/
def fbUnder (s : State) (f : Nat) (r : PowerReading) : Bool :=
  r.power.any (fun p => decide (p + fbCap s f 12 8 < fbCap s f 0 12)) && r.temp + 3 < fbCap s f 20 8

/-- The next gate level: G_MAX bounds it; it rises over a limit and falls below both, outside the hold. -/
def gateNext (s : State) (f g : Nat) (r : PowerReading) : Nat :=
  let gmax := fbCap s f 28 6
  let hot := fbCap s f 20 8 + 5 < r.temp
  let g0 := min g gmax
  if (loopGet s f).hold ≠ 0 && !hot then g0
  else if fbOver s f r then min (g0 + 1) gmax
  else if fbUnder s f r then g0 - 1
  else g0

/-- POWER_LOOP_PERIOD: the loop of a firebox at the end of a period. -/
def powerLoop (s : State) (f : Nat) (r : PowerReading) : State :=
  if 4 ≤ f then s
  else
    let x := loopGet s f
    let en := bit (rd s R.pwrCtrl) 0
    let st := rd s (R.pwrFbStatusF f)
    let g := bits st 32 6
    let g' := if en then gateNext s f g r else g
    let hist := match r.power with | some p => (p :: x.hist).take 10 | none => x.hist
    let hold := if g' ≠ g then rdf s R.pwrCtrl 16 4 else x.hold - 1
    let atMax := en && g = fbCap s f 28 6 && fbOver s f r
    let pw := r.power.getD (bits st 0 12)
    let mv := if r.power.isSome && en then r.vddMv else bits st 40 12
    let st' := fieldAt 0 12 pw + fieldAt 12 12 (mean hist) + fieldAt 24 8 r.temp + fieldAt 32 6 g' + fieldAt 40 12 mv + fieldAt 52 1 (b1 atMax)
    let s1 := { wr s (R.pwrFbStatusF f) st' with loops := tput s.loops f ⟨hold, hist⟩,
                                                 alert := setBits s.alert f 1 (b1 r.power.isNone) }
    let s2 := if atMax then pwrBump s1 (R.pwrFbOverF f) 1 else s1
    let s3 := pwrBump (pwrBump s2 (R.pwrFbEnergyF f) r.fbEnergyMj 64) R.pwrDevEnergy r.devEnergyMj 64
    wr s3 R.pwrDevPower (r.devPowerW % 65536)

/-! IPFIX (R431, R492; RFC 7011 for the form of a message). -/

/-- The fields of a template: Information Element and length. -/
def tplFields (t : Nat) : List (Nat × Nat) :=
  (1, 8) ::
  match t with
  | 256 => [(2, 2), (3, 2), (4, 2), (5, 2), (6, 8)]
  | 257 => [(10, 1), (11, 1), (12, 1), (13, 8), (14, 8), (15, 8), (16, 8), (17, 8), (18, 8)]
  | 258 => (30, 1) :: (List.range 32).map (fun b => (31 + b, 8))
  | 259 => [(70, 1), (71, 1), (72, 8)]
  | 260 => [(70, 1), (80, 8), (81, 8), (82, 8), (83, 8), (84, 4), (85, 4), (86, 8), (87, 1)]
  | 261 => [(90, 1), (91, 2), (92, 1), (93, 1), (94, 2), (95, 8), (96, 8)]
  | 262 => [(100, 8), (101, 8), (102, 8), (103, 8), (104, 8), (105, 8), (106, 8), (107, 2)]
  | _ => []

/-- A record of a template: its values after LOCAL_TS. -/
def recordBytes (t ts : Nat) (vals : List Nat) : List Byte :=
  (List.zipWith (fun (f : Nat × Nat) v => beBytes f.2 v) (tplFields t) (ts :: vals)).flatten

/-- A set: its ID, its length, its content. -/
def ipfixSet (id : Nat) (b : List Byte) : List Byte := beBytes 2 id ++ beBytes 2 (b.length + 4) ++ b

/-- A message: version 10, length, seconds since the cold start, sequence number, Observation Domain ID. -/
def ipfixMsg (s : State) (b : List Byte) : List Byte :=
  beBytes 2 10 ++ beBytes 2 (b.length + 16) ++ beBytes 4 (telNow s / 1600000000) ++ beBytes 4 s.hport.ipfixSeq ++ beBytes 4 (ownDev s + 1) ++ b

/-- A message leaves, or is dropped and counted when the transmit pool of 256 KiB is full (R431). `n` is its data records. -/
def ipfixOut (s : State) (b : List Byte) (n : Nat) : State :=
  let m := HostMsg.ipfix (ipfixMsg s b)
  if 262144 < txPool s + (msgSize s m).2.2 then hstErr (hstBump s R.hstIpfixDrop 1) 7 0 0
  else
    let s1 := hostEmit s m
    telBump { s1 with hport := { s1.hport with ipfixSeq := (s1.hport.ipfixSeq + n) % 2 ^ 32 } } R.telIpfixRecords n

/-- The records of one template, in as many messages as 4,096 bytes each require. -/
def ipfixRecords (s : State) (t : Nat) (rs : List (List Byte)) : State :=
  let len := ((tplFields t).map (·.2)).sum
  let per := (4096 - 20) / len
  (List.range (cdiv rs.length per)).foldl (fun u i =>
    let part := (rs.drop (per * i)).take per
    ipfixOut u (ipfixSet t part.flatten) part.length) s

def owedGet (s : State) (k : Nat) : Nat := tgetD s.ipfix.owed k 0

/-- DEVICE. -/
def devRecord (s : State) : List Nat :=
  [ownDev s, liveCount s.hbm.dead, (formedParts s).length, rdf s R.pwrDevPower 0 16, owedGet s (oweKey 1 0)]

/-- PORT, for each declared port. -/
def portRecords (s : State) : List (List Nat) :=
  ((List.range 18).filter (portOn s)).map (fun p =>
    [p, portWidth s p, adjState s p] ++ (List.range 6).map (fun i => owedGet s (oweKey 2 (16 * p + 3 + i))))

/-- HIST, for each histogram with an increase. -/
def histRecords (s : State) : List (List Nat) :=
  ((List.range 27).map (fun h => h :: (List.range 32).map (fun b => owedGet s (oweKey 3 (32 * h + b))))).filter (fun r => r.tail.any (· ≠ 0))

/-- STALL, for each partition and code with an increase; `dev` stands in the records of the device's codes. -/
def stallRecords (s : State) (dev : Nat) : List (List Nat) :=
  (s.ipfix.owed.filter (fun e => e.1 / 65536 = 4)).map (fun e =>
    let p := e.1 % 65536 / 256
    [if p = devPart then dev else p, e.1 % 256, e.2])

/-- PARTITION, for each formed partition. -/
def partRecords (s : State) : List (List Nat) :=
  ((List.range 16).filter (prtFormed s)).map (fun p =>
    let k := fun i => owedGet s (oweKey 5 (16 * p + i))
    [p, k 0, k 1, k 2, k 3, rdf s (R.prtQuotaP p) 0 24, rdf s (R.prtQuotaP p) 32 20, k 4, b1 (partGet s p).over_])

/-- POWER, for each firebox. -/
def powerRecords (s : State) : List (List Nat) :=
  (List.range 4).map (fun f =>
    let v := rd s (R.pwrFbStatusF f)
    [f, bits v 12 12, bits v 24 8, bits v 32 6, bits v 40 12, owedGet s (oweKey 6 (2 * f)), owedGet s (oweKey 6 (2 * f + 1))])

/-- Pseudo-channels fenced. -/
def fencedCount (s : State) : Nat :=
  ((List.range 20).map (fun k => ((List.range 32).filter (fun p => fenced s k p)).length)).sum

/-- ERRORS. -/
def errorRecord (s : State) : List Nat := (List.range 7).map (fun i => owedGet s (oweKey 7 i)) ++ [fencedCount s]

def ipfixOn (s : State) : Bool := bit (rd s R.hstIpfixCfg) 0 && !s.away

/-- IPFIX_EXPORT: the Stoker reads every counter and exports the increases (R492). -/
def ipfixExport (s : State) : State :=
  if !ipfixOn s then s
  else
    let f := freeBits (allSample s) 8
    let v := f.2
    let ts := telNow s
    let put := fun (u : State) t (rs : List (List Nat)) => ipfixRecords u t (rs.map (recordBytes t ts))
    let s1 := put v 256 [devRecord v]
    let s2 := put s1 257 (portRecords v)
    let s3 := put s2 258 (histRecords v)
    let s4 := put s3 259 (stallRecords v f.1)
    let s5 := put s4 260 (partRecords v)
    let s6 := put s5 261 (powerRecords v)
    let s7 := put s6 262 [errorRecord v]
    { s7 with ipfix := { s7.ipfix with owed := [] } }

/-- A template: its ID, its fields with the enterprise bit and TEL_IPFIX_PEN. -/
def tplBytes (s : State) (t : Nat) : List Byte :=
  beBytes 2 t ++ beBytes 2 (tplFields t).length
    ++ (tplFields t).flatMap (fun f => beBytes 2 (32768 + f.1) ++ beBytes 2 f.2 ++ beBytes 4 (rdf s R.telIpfixPen 0 32))

/-- The templates, in one message. -/
def ipfixTemplates (s : State) : State := ipfixOut s (ipfixSet 2 ((List.range 7).flatMap (fun i => tplBytes s (256 + i)))) 0

/-- IPFIX_TEMPLATE_REFRESH: every 600 s (R431). -/
def ipfixRefresh (s : State) : State := if ipfixOn s then ipfixTemplates s else s

end Sys2Proof.Machine
end

