-- ==== Sys2Proof/Machine/Views.lean ====
section
/-!
DEFINITION. Registers that show the state of a unit: what a read of each returns (R96, R97, R123, R124, R126, R154, R155, R185, R186, R190, R226,
R228, R248, R280, R318, R340, R368, R370, R405, R407, R434, R467, R468, R470, R471, R475, R493, R495, R526, R527, R529, R554, R556).
-/

namespace Sys2Proof.Machine

/-- A mask of the members of a list below `n` that satisfy a test. -/
def maskOf (n : Nat) (f : Nat → Bool) : Nat := ((List.range n).map (fun i => if f i then 2 ^ i else 0)).sum

/-! The hearth window. -/

/-- MXA_STATUS (R96). -/
def vMxaStatus (x : Hearth) : Nat :=
  let m := x.mx
  b1 (!m.a0.q.isEmpty) + fieldAt 1 1 (b1 (!m.a1.q.isEmpty)) + fieldAt 2 2 m.a0.q.length + fieldAt 4 2 m.a1.q.length
    + fieldAt 6 1 (b1 m.ldBusy.isSome) + fieldAt 7 1 (m.ldBusy.getD 0) + fieldAt 8 2 m.a0.set0.st + fieldAt 10 2 m.a0.set1.st
    + fieldAt 12 2 m.a1.set0.st + fieldAt 14 2 m.a1.set1.st

/-- The current core cycle is a dependence wait (R112, R123): the next instruction could issue but for its sources. -/
def depWait (x : Hearth) (now : Nat) : Bool :=
  let v := x.vec
  match v.running, v.q with
  | true, iv :: _ =>
    let prog := progOf v (ivProg iv.desc)
    v.pc < progLen prog && v.r < iv.rows && v.clk ≤ now && now < issueAt v iv.desc (prog.getD v.pc 0)
  | _, _ => false

/-- VEC_STATUS (R123). -/
def vVecStatus (x : Hearth) (now : Nat) : Nat :=
  let v := x.vec
  let row := if v.running then ((v.q.head?).map (fun i => min v.r (i.rows - 1))).getD 0 else 0
  let prog := if v.running then ((v.q.head?).map (fun i => ivProg i.desc)).getD 0 else 0
  b1 v.running + fieldAt 1 2 v.q.length + fieldAt 3 1 (b1 (depWait x now)) + fieldAt 4 4 v.tq.length + fieldAt 8 4 ((v.resv.map TqResv.count).sum) + fieldAt 12 3 prog
    + fieldAt 15 6 row

/-- VEC_TQ_HEAD (R126). -/
def vTqHead (x : Hearth) : Nat :=
  match x.vec.tq with
  | [] => 0
  | e :: _ => 1 + fieldAt 1 6 e.handle + fieldAt 7 16 e.offset + fieldAt 23 2 e.ncode + fieldAt 25 1 (b1 e.int) + fieldAt 26 1 e.array
      + fieldAt 27 7 e.valid + fieldAt 34 16 e.seq + fieldAt 50 3 e.tile

/-- SPD_STATUS (R154). -/
def vSpdStatus (x : Hearth) : Nat :=
  let p := x.spd
  fieldAt 0 3 p.op0.q.length + fieldAt 3 3 p.op1.q.length + fieldAt 6 3 p.op2.q.length + fieldAt 9 1 (b1 p.scrub)
    + fieldAt 10 7 (p.handles.filter (fun e => hdValid e.2)).length

/-- SPD_SLOT_FULL_w (R151): words 0–31, 32–79 and 80–95 for the three memories. -/
def vSlotFull (x : Hearth) (w : Nat) : Nat :=
  let m := if w < 32 then 0 else if w < 80 then 1 else 2
  let base := if w < 32 then 0 else if w < 80 then 32 else 80
  maskOf 64 (fun j => (slotGet x.spd (m * 4096 + 64 * (w - base) + j)).full)

/-- Read requests that count for a flue among those the flues hold (R178: a RUN-mode gather's count for its RUN_FLUE). -/
def reqsOf (x : Hearth) (e : Nat) : Nat := ((readsOut x).filter (fun q => q.cnt = e)).length

/-- CUR of FLU_STATE_f and BLW_STATE_b (R186): an engine whose stream has ended is idle once nothing is outstanding. -/
def vCur (x : Hearth) (e : Nat) : Nat :=
  match (engGet x e).cur with
  | none => 0
  | some st =>
    if st.ended then (if x.reqs.any (fun q => q.eng = e && q.kind ≠ .hint && q.own = st.own && !q.dead) then 3 else 0)
    else if (engGet x e).cause = 15 then 1 else 2

/-- CAUSE: none for an engine of which no stream issues. -/
def vCause (x : Hearth) (e : Nat) : Nat := if (issuing (engGet x e)).isNone then 15 else (engGet x e).cause

/-- The next tile or element to start within the current descriptor: the first that the bank-group cap holds back unstarted, or the next. -/
def vNextTile (x : Hearth) (e : Nat) : Nat :=
  ((engGet x e).cur.map (fun st =>
    match st.skip.find? (fun r => r.unit / 65536 = st.ndesc && !tileBegun st r) with
    | some r => r.unit % 65536
    | none => if st.off = 0 then st.tile else st.tile + 1)).getD 0

/-- FLU_STATUS (R185). -/
def vFluStatus (x : Hearth) : Nat :=
  fieldAt 0 6 (readsOut x).length + fieldAt 6 5 (writesOut x).length + fieldAt 11 9 x.watch.length
    + fieldAt 20 8 (maskOf 8 (fun f => (engGet x f).cur.isSome)) + fieldAt 28 4 (x.reqs.filter (fun q => q.kind = .hint)).length

/-- FLU_STATE_f (R186). -/
def vFluState (x : Hearth) (f : Nat) : Nat :=
  let g := engGet x f
  let own := (g.cur.map Stream.own).getD 0
  let ahead := (g.cur.map (fun st => (st.tiles.filter (fun t => t.now && !t.reached)).length)).getD 0
  fieldAt 0 2 (vCur x f) + fieldAt 2 1 (b1 g.next.isSome) + fieldAt 7 16 own + fieldAt 23 7 ahead + fieldAt 30 6 (reqsOf x f)
    + fieldAt 36 4 (vCause x f) + fieldAt 40 16 (vNextTile x f)

/-- BLW_STATUS (R190). -/
def vBlwStatus (x : Hearth) : Nat :=
  fieldAt 0 9 (poolOut x 8).length + fieldAt 9 9 (poolOut x 9).length + fieldAt 18 2 (maskOf 2 (fun b => (engGet x (8 + b)).cur.isSome))

/-- BLW_STATE_b (R190). -/
def vBlwState (x : Hearth) (b : Nat) : Nat :=
  let g := engGet x (8 + b)
  let mode := (g.cur.bind Stream.cur).map (fun d => b1 (bdMode d))
  fieldAt 0 2 (vCur x (8 + b)) + fieldAt 2 1 (b1 g.next.isSome) + fieldAt 3 1 (mode.getD 0) + fieldAt 7 16 ((g.cur.map Stream.own).getD 0)
    + fieldAt 23 9 (poolOut x (8 + b)).length + fieldAt 32 4 (vCause x (8 + b)) + fieldAt 36 16 (vNextTile x (8 + b))

/-- The next descriptor address of an engine. -/
def vDescPtr (x : Hearth) (e : Nat) : Nat := ((engGet x e).cur.map Stream.ptr).getD 0

/-! Base dies. -/

/-- CHM_STATUS (R226). -/
def vChmStatus (s : State) (sl : Nat) : Nat :=
  let x := slGet s sl
  fieldAt 0 16 (fillLines - fillUsed x) + fieldAt 16 17 x.entries.length + fieldAt 33 15 x.reqs.length + fieldAt 48 1 (b1 x.scrub)
    + fieldAt 49 1 (b1 x.flush)

/-- CHM_PART_USE_p (R228). -/
def vPartUse (s : State) (sl p : Nat) : Nat :=
  let x := slGet s sl
  let c := cachedUse x p
  let q := pinnedUse x p
  fieldAt 0 20 c + fieldAt 20 20 q + fieldAt 40 1 (b1 (chmQuota s sl p < c + q))

/-- CHM_MCG_p_g: HELD and PRUNED beside what was written (R228); g = 0 is reserved (R225). -/
def vMcg (s : State) (sl p g : Nat) : Nat :=
  let x := slGet s sl
  if g = 0 then 0
  else bits (rd s (R.chmMcgPG sl p g)) 0 40 + fieldAt 40 15 (x.entries.filter (fun e => e.part = p && e.group = g)).length
    + fieldAt 55 7 (mcGet s p g).pruned

/-- MEM_STATUS (R248). The temperature is the sensor's: a free value; REF_2X follows it (R240). -/
def vMemStatus (s : State) (k : Nat) : Nat :=
  let t := (Config.free s.fresh).toNat % 256
  (stkGet s k).st + fieldAt 8 8 t + fieldAt 16 1 (b1 (85 < t))

/-- XLT_STATUS (R280). -/
def vXltStatus (s : State) (p : Nat) : Nat :=
  let x := xlGet s p
  let walks := ((s.walks.map (fun e => ((e.2.take 64).filter (fun q => q.part = p)).length)).sum)
  b1 (x.r0.halt ≠ 0) + fieldAt 1 1 (b1 (x.r1.halt ≠ 0)) + fieldAt 2 1 (b1 (!x.sds.isEmpty)) + fieldAt 3 1 (b1 (!x.cow.isEmpty || x.cowRun.isSome))
    + fieldAt 4 13 x.pend.length + fieldAt 17 9 walks

/-- Does a task of a partition run or drain. -/
def partRuns (s : State) (p : Nat) : Bool :=
  (partHearths s p).any (fun h => (hget s h).cur.isSome || (hget s h).drain.isSome)

/-- GRF_SEM_s: COUNT, and the ready tasks whose placement waits on the semaphore (R293, R304). -/
def vGrfSem (s : State) (p i : Nat) : Nat :=
  let c := rdf s (R.grfSemS p i) 0 16
  c + fieldAt 16 17 (((gget s p).tasks.filter (fun t => t.place = .ready && decide (c < (tdSems t.desc).count i))).length)

/-- GRF_STATUS (R318). -/
def vGrfStatus (s : State) (p : Nat) : Nat :=
  let g := gget s p
  fieldAt 0 17 g.tasks.length + fieldAt 17 17 (g.tasks.filter (fun t => t.place = .ready)).length + fieldAt 34 7 (loadLen g)
    + fieldAt 41 1 (b1 (grfStop s p && !partRuns s p))

/-- GRF_MIX_STATUS (R318). -/
def vMixStatus (s : State) (p : Nat) : Nat :=
  let g := gget s p
  fieldAt 0 11 g.mixq.length + fieldAt 11 11 (g.mixq.filter (fun i => mxKind i.bits = 2)).length + fieldAt 22 32 g.step
    + fieldAt 54 1 (b1 g.mixHalt)

/-- GRF_HEARTH_i (R318). -/
def vGrfHearth (s : State) (p i : Nat) : Nat :=
  match (partHearths s p)[i]? with
  | none => 0
  | some h =>
    let x := hget s h
    let st := if x.inReset then 3 else if x.cur.isSome then (if x.drain.isSome then 2 else 1) else 0
    h + fieldAt 8 1 1 + fieldAt 9 1 (b1 x.leaving) + fieldAt 10 2 st + fieldAt 12 16 ((x.cur.map TaskRun.id).getD 0)
      + fieldAt 28 1 (b1 x.next.isSome) + fieldAt 29 16 ((x.next.map TaskRun.id).getD 0)

/-- ATN_STATUS, ATN_PLAN_g, ATN_PLAN_LOAD_g and ATN_PLAN_PART_g (R340). -/
def vAtnStatus (s : State) (p : Nat) : Nat :=
  let g := gget s p
  fieldAt 0 3 g.plans.length + fieldAt 3 1 (b1 g.planReq.isSome) + fieldAt 4 1 (b1 (planHeld g))
def vAtnPlan (s : State) (p g : Nat) : Nat :=
  match tget (gget s p).plans g with
  | none => 0
  | some pl => 1 + fieldAt 16 16 (adId pl.desc) + fieldAt 32 16 pl.graph + fieldAt 48 15 pl.units
def vAtnLoad (s : State) (p g : Nat) : Nat :=
  match tget (gget s p).plans g with
  | none => 0
  | some pl => fieldAt 0 32 pl.maxLoad + fieldAt 32 16 pl.splits
def vAtnPart (s : State) (p g : Nat) : Nat :=
  match tget (gget s p).plans g with
  | none => 0
  | some pl => fieldAt 0 32 pl.pages + fieldAt 32 24 pl.items

/-! Fabric. -/

/-- LNK_CAP (R368): CLASSES follow the part. -/
def vLnkCap (n : Nat) : Nat := (if Config.lcx then 0x47082000400 else 0x77082000400) + n

/-- LNK_STATUS (R368). -/
def vLnkStatus (s : State) (n : Nat) : Nat :=
  let x := lkGet s n
  fieldAt 0 3 x.st + fieldAt 3 1 (b1 x.replay.isSome) + fieldAt 4 1 (b1 x.win) + fieldAt 5 10 x.retry.length + fieldAt 16 4 x.laneOk
    + fieldAt 20 1 (b1 x.rev) + fieldAt 21 4 (min 15 x.tries) + fieldAt 25 4 x.refuse

/-- LNK_VC_v (R368). -/
def vLnkVc (s : State) (n v : Nat) : Nat :=
  let x := lkGet s n
  fieldAt 0 11 (owed x v) + fieldAt 16 11 (((rxPool x v).map RxPkt.held).sum)

/-- LNK_PORT_STATUS_p (R370). -/
def vPortStatus (s : State) (p : Nat) : Nat :=
  let w := portWidth s p
  fieldAt 0 18 (((portLive s p).map (2 ^ ·)).sum) + fieldAt 18 3 w + fieldAt 21 1 (b1 (portOn s p && w = 0))

/-- FAB_STATUS.DISC: 0 before the device serves, 1 while a port with a live link has not settled, 2 otherwise (R377, R406). -/
def discState (s : State) : Nat :=
  if s.stk.phase ≠ .run then 0
  else if (List.range 18).any (fun p => portOn s p && portWidth s p ≠ 0 && (adjState s p = 0 || adjState s p = 3)) then 1
  else 2

/-- FAB_STATUS (R406): discovery is complete once the device serves (R543). -/
def vFabStatus (s : State) : Nat :=
  discState s + fieldAt 2 18 (maskOf 18 (portActive s)) + fieldAt 20 14 s.sflows.length + fieldAt 34 14 s.rflows.length

/-- COL_ENTRY_p_c and COL_PART_STATUS_p (R407, R408). -/
def vColEntry (s : State) (p c : Nat) : Nat :=
  match colGet s p c with
  | none => 0
  | some e => fieldAt 0 3 e.st + fieldAt 8 8 e.fail + fieldAt 16 32 e.epoch + fieldAt 48 1 (b1 e.sat)
def vColPart (s : State) (p : Nat) : Nat :=
  fieldAt 0 20 (([0, 1, 2, 3].map (fun sl => tgetD (slGet s sl).staging p 0)).sum)
    + fieldAt 20 14 (s.sflows.filter (fun f => f.spart = p)).length + fieldAt 34 14 (s.rflows.filter (fun f => f.dpart = p)).length

/-! Host port, partitions, keys. -/

/-- HST_STATUS (R434). -/
def vHstStatus (s : State) : Nat :=
  let h := s.hport
  b1 h.up + fieldAt 1 1 (rdf s R.hstStatus 1 1) + fieldAt 2 10 (min 768 (cdiv (rxOccAll s) 1024)) + fieldAt 12 9 (min 256 (cdiv (txPool s) 1024)) + fieldAt 21 8 h.paused + fieldAt 29 8 h.xoff

/-- HST_QP_STATUS_q (R434). -/
def vQpStatus (s : State) (q : Nat) : Nat :=
  let x := qpGet s q
  fieldAt 0 32 x.nextSeq + fieldAt 32 7 (min 64 x.recs.length) + fieldAt 39 7 x.cmds.length + fieldAt 48 4 x.err

/-- PRT_STATUS_p and PRT_MEM_p (R468). -/
def vPrtStatus (s : State) (p : Nat) : Nat :=
  let x := partGet s p
  let ho := hbmOver s p
  let co := chmOver s p
  fieldAt 0 2 x.st + fieldAt 2 1 (b1 (ho || co)) + fieldAt 3 1 (b1 ho) + fieldAt 4 1 (b1 co) + fieldAt 5 1 (b1 x.zeroed) + fieldAt 16 16 x.units
    + fieldAt 32 16 x.leaving
def vPrtMem (s : State) (p : Nat) : Nat :=
  let x := partGet s p
  fieldAt 0 4 x.lo + fieldAt 4 5 x.blks + fieldAt 32 32 x.count

/-- SEC_STATUS and SEC_PART_KEYS_p (R471). -/
def vSecStatus (s : State) : Nat :=
  b1 (keyBusy s) + fieldAt 1 1 (b1 s.repRun.isSome) + fieldAt 2 16 (maskOf 16 (fun p => (partGet s p).sweep ≠ 0))
def vPartKeys (s : State) (p : Nat) : Nat :=
  let x := partGet s p
  let left := if x.sweep = 0 then 0 else frCount s p (1 - xCur s p)
  xCur s p + fieldAt 1 2 (b1 (x.key0 ≠ 0) + 2 * b1 (x.key1 ≠ 0)) + fieldAt 3 2 x.src + fieldAt 5 1 (b1 (x.sweep ≠ 0))
    + fieldAt 8 2 (b1 (x.fab0 ≠ 0) + 2 * b1 (x.fab1 ≠ 0)) + fieldAt 10 2 x.used + fieldAt 12 1 (txSlot s p) + fieldAt 32 24 left

/-! Measurement, errors, the Stoker. -/

/-- TEL_DMP_STATUS (R493). -/
def vDmpStatus (s : State) : Nat :=
  fieldAt 0 18 (maskOf 18 (fun p => (portGet s p).cong)) + fieldAt 18 16 (maskOf 16 (partCong s)) + fieldAt 34 14 (s.sflows.filter (fun f => f.limit ≠ 0)).length

/-- PWR_BD_STATUS_d (R495): sensors, free values. -/
def vBdStatus (s : State) : Nat :=
  let f := (Config.free s.fresh).toNat
  fieldAt 0 8 f + fieldAt 8 12 (f / 256) + fieldAt 20 8 (f / 1048576)

/-- The ERR_LOG registers by block code and instance, in the order of R521. -/
def errLogs : List (Nat × Nat × Reg) :=
  let per := fun (n code : Nat) (f : Nat → Reg) => (List.range n).map (fun i => (code, i, f i))
  per 256 1 R.mxaErrLog ++ per 256 2 R.vecErrLog ++ per 256 3 R.spdErrLog ++ per 256 4 R.fluErrLog ++ per 256 5 R.blwErrLog
    ++ per 4 0x10 R.chmErrLog ++ per 20 0x11 R.memErrLog ++ per 16 0x12 R.xltErrLog ++ per 16 0x13 R.grfErrLog ++ per 16 0x14 R.atnErrLog
    ++ per 18 0x20 R.lnkErrLog
    ++ [(0x21, 0, R.fabErrLog), (0x22, 0, R.colErrLog), (0x23, 0, R.hstErrLog), (0x24, 0, R.prtErrLog), (0x25, 0, R.secErrLog),
        (0x30, 0, R.errDevLog), (0x30, 0, R.errUnitLog)]

/-- The block codes in ascending order (R521). -/
def blkCodes : List Nat := [1, 2, 3, 4, 5, 0x10, 0x11, 0x12, 0x13, 0x14, 0x20, 0x21, 0x22, 0x23, 0x24, 0x25, 0x30, 0x31]

/-- INSTANCE of a record: the partition it names for PRT_ and SEC_ (R521). -/
def logInst (blk i v : Nat) : Nat := if blk = 0x24 || blk = 0x25 then bits v 12 4 else i

/-- The logs that hold a valid record. -/
def validLogs (s : State) : List (Nat × Nat × Nat) :=
  (errLogs.filter (fun e => bit (rd s e.2.2) 0)).map (fun e => (e.1, logInst e.1 e.2.1 (rd s e.2.2), rd s e.2.2))

/-- ERR_SUMMARY (R527). -/
def vErrSummary (s : State) : Nat :=
  let v := (validLogs s).map (·.1)
  maskOf 18 (fun i => v.contains (blkCodes.getD i 0))

/-- ERR_REFCLK and ERR_SLICES (R526). -/
def vRefclk (s : State) : Nat := b1 s.stk.refA + 2 * b1 s.stk.refB + 4 * b1 s.stk.coreB + 8 * b1 s.stk.serdesB
def vSlices (s : State) : Nat := s.stk.slices + fieldAt 8 6 s.stk.bridges

/-- Tasks of a partition held under ABORT_WATCHDOG, in ascending TASK_ID. -/
def heldTasks (s : State) (p : Nat) : List Task :=
  ((gget s p).tasks.filter (fun t => t.place = .held)).mergeSort (fun a b => a.id ≤ b.id)

/-- STK_STATUS (R529): SUSPECTS counts those held and the one that runs alone. -/
def vStkStatus (s : State) : Nat :=
  let v := rd s R.stkStatus
  match s.stk.susp with
  | none => bits v 0 8
  | some u => bits v 0 8 + fieldAt 8 4 u.part + fieldAt 16 12 ((heldTasks s u.part).length + b1 u.run.isSome)

/-- Word `i` of a buffer. -/
def bufWord (b : List Byte) (i : Nat) : Nat := leVal ((b.drop (8 * i)).take 8)

/-- What a read of a register returns where it shows the state of a unit; `none` where it returns what is stored. `n` is the block's
instance, `i` and `j` the register's indices. -/
def viewOf (s : State) (id : RegId) (n i j : Nat) : Option Nat :=
  match id with
  | .mxaStatus => some (vMxaStatus (hget s n))
  | .mxaTaskFlags => some (((hget s n).cur.map TaskRun.sat).getD 0)
  | .vecStatus => some (vVecStatus (hget s n) (coreNow s))
  | .vecTaskFlags => some (((hget s n).cur.map TaskRun.cvt).getD 0)
  | .vecTqHead => some (vTqHead (hget s n))
  | .vecDrawCount => some ((hget s n).vec.draw)
  | .spdStatus => some (vSpdStatus (hget s n))
  | .spdHandleH => some (tgetD (hget s n).spd.handles i 0)
  | .spdSlotFullW => some (vSlotFull (hget s n) i)
  | .fluStatus => some (vFluStatus (hget s n))
  | .fluDescPtrF => some (vDescPtr (hget s n) i)
  | .fluStateF => some (vFluState (hget s n) i)
  | .blwStatus => some (vBlwStatus (hget s n))
  | .blwDescPtrB => some (vDescPtr (hget s n) (8 + i))
  | .blwStateB => some (vBlwState (hget s n) i)
  | .chmCap => some (if n = 0 then 0x100107080F010000 else 0x100008080F010000 + n)
  | .chmStatus => some (vChmStatus s n)
  | .chmScrub => some (fieldAt 8 1 (b1 (slGet s n).scrub))
  | .chmPartUseP => some (vPartUse s n i)
  | .chmMcgPG => some (vMcg s n i j)
  | .memCap => some (0x2CB040102000 + n)
  | .memStatus => some (vMemStatus s n)
  | .memRetired => some (rdf s (R.memRetired n) 0 32 + fieldAt 32 10 (liveCount s.hbm.dead))
  | .xltStatus => some (vXltStatus s n)
  | .xltTlbMissH => if (hget s i).part = some n then none else some 0
  | .grfStatus => some (vGrfStatus s n)
  | .grfSemS => some (vGrfSem s n i)
  | .grfMixStatus => some (vMixStatus s n)
  | .grfHearthI => some (vGrfHearth s n i)
  | .atnStatus => some (vAtnStatus s n)
  | .atnPlanG => some (vAtnPlan s n i)
  | .atnPlanLoadG => some (vAtnLoad s n i)
  | .atnPlanPartG => some (vAtnPart s n i)
  | .lnkCap => some (vLnkCap n)
  | .lnkStatus => some (vLnkStatus s n)
  | .lnkVcV => some (vLnkVc s n i)
  | .lnkPortStatusP => some (vPortStatus s i)
  | .fabStatus => some (vFabStatus s)
  | .colEntryPC => some (vColEntry s i j)
  | .colPartStatusP => some (vColPart s i)
  | .hstStatus => some (vHstStatus s)
  | .hstQpStatusQ => some (vQpStatus s i)
  | .prtUnitsFree => some (unitsFree s)
  | .prtBlocksFree => some (blocksFree s)
  | .prtStatusP => some (vPrtStatus s i)
  | .prtMemP => some (vPrtMem s i)
  | .secStatus => some (vSecStatus s)
  | .secDeviceId => some deviceId
  | .secPartKeysP => some (vPartKeys s i)
  | .secReportBuf => some (bufWord s.stk.report i)
  | .telTime => some (telNow s % 2 ^ 64)
  | .telDmpStatus => some (vDmpStatus s)
  | .telClkD => if clkDown s i then some 0 else none
  | .pwrBdStatusD => some (vBdStatus s)
  | .errSummary => some (vErrSummary s)
  | .errRefclk => some (vRefclk s)
  | .errSlices => some (vSlices s)
  | .stkStatus => some (vStkStatus s)
  | .stkAshBufK => some (bufWord (tgetD s.stk.ash i []) j)
  | .kndCertBuf => some (bufWord s.stk.cert i)
  | .devCap => some (b1 Config.lcx + fieldAt 8 4 Config.stepping)
  | .devFuses => some (bits (rd s R.devFuses) 0 24 + fieldAt 24 8 s.stk.fuses.left)
  | _ => none

end Sys2Proof.Machine
end

