-- ==== Sys2Proof/Machine/Ash.lean ====
section
/-!
DEFINITION. What the Stoker records (17): device and unit faults (R497, R527), ash records (R519, R520) and their area of the flash (R548), the
status of a Stoker command and of a procedure (R499, R529).
-/

namespace Sys2Proof.Machine

/-! Status (R529). -/

def stkState (s : State) (v : Nat) : State := wrf s R.stkStatus 0 3 v
def procSet (s : State) (v : Nat) : State := wrf s R.stkStatus 5 3 v
def procBusy (s : State) : Bool := decide (rdf s R.stkStatus 5 3 ≠ 0)
def cmdBusy (s : State) : Bool := bit (rd s R.stkCmdStatus) 0

/-- STK_CMD_STATUS. -/
def cmdStat (s : State) (busy : Bool) (op result : Nat) : State := wr s R.stkCmdStatus (b1 busy + fieldAt 1 4 op + fieldAt 8 4 result)

/-- A Stoker command is refused; one in progress goes on (R499). -/
def cmdRefuse (s : State) (op result : Nat) : State := cmdStat s (cmdBusy s) op result

/-- The Stoker command in progress ends. -/
def cmdEnd (s : State) (result : Nat) : State := if cmdBusy s then cmdStat s false (rdf s R.stkCmdStatus 1 4) result else s

def errBump (s : State) (r : Reg) (n : Nat) : State := bump s (bit (rd s R.errCtrl) 0) r n
def stkBump (s : State) (r : Reg) : State := bump s false r 1

/-- Seconds of TEL_TIME. -/
def telSec (s : State) : Nat := s.now / 440000000000

/-! Ash records (R519, R520). -/

def ashSeq (s : State) : Nat := rdf s R.stkAshHead 32 32

/-- The bank whose firmware runs. -/
def fwRun (s : State) : FwBank := if bit (rd s R.stkStatus) 3 then s.stk.fw1 else s.stk.fw0

/-- A digest field of 32 bytes. -/
def dig32 (b : List Byte) : List Byte := (b ++ List.replicate 32 0).take 32

/-- The entry of one error log. -/
def ashLog (e : Nat × Nat × Nat) : List Byte := leBytes 1 e.1 ++ [0] ++ leBytes 2 e.2.1 ++ leBytes 4 0 ++ leBytes 8 e.2.2

/-- The block of a partition. -/
def ashPart (s : State) (p : Nat) : List Byte :=
  let held := (heldTasks s p).take 8
  leBytes 8 (vGrfStatus s p) ++ leBytes 8 (rd s (R.grfErrLog p)) ++ leBytes 8 (vXltStatus s p) ++ leBytes 8 (vPrtStatus s p) ++
    held.flatMap (fun t => leBytes 2 t.id ++ leBytes 2 t.gid) ++ List.replicate (32 - 4 * held.length) 255 ++ List.replicate 64 0

/-- The record: CLASS, CAUSE, ACTION, INSTANCE, PART (0xFF: none), and whether it is written after a Stoker restart. -/
def ashBytes (s : State) (seq cls cause action inst part : Nat) (restart : Bool) : List Byte :=
  let logs := validLogs s
  let flags := b1 (64 < logs.length) + 2 * b1 (3 ≤ cls) + 4 * b1 restart
  let head := leBytes 4 0x31485341 ++ leBytes 2 1 ++ leBytes 2 (min 64 logs.length) ++ leBytes 4 4096 ++ leBytes 4 seq ++ leBytes 8 deviceId ++
    leBytes 8 (telNow s) ++ leBytes 4 s.coldStarts ++ leBytes 4 (rd s R.stkWarmResets) ++ leBytes 1 cls ++ leBytes 1 cause ++
    leBytes 1 action ++ leBytes 1 flags ++ leBytes 2 inst ++ leBytes 1 part ++ [0]
  let entries := (logs.take 64).flatMap ashLog ++ List.replicate (16 * (64 - logs.length)) 0
  let four := [0, 1, 2, 3]
  sealed (head ++ dig32 (fwRun s).digest ++ dig32 s.stk.imgDigest ++ List.replicate 16 0 ++ entries ++
    four.flatMap (fun i => leBytes 8 (rd s (R.errHrtFaultI i))) ++ four.flatMap (fun i => leBytes 8 (rd s (R.errHrtOosI i))) ++
    (List.range 20).flatMap (fun k => leBytes 8 (rd s (R.memFence k))) ++ (List.range 18).flatMap (fun n => leBytes 8 (vLnkStatus s n)) ++
    four.flatMap (fun f => leBytes 8 (rd s (R.pwrFbStatusF f))) ++
    four.flatMap (fun d => leBytes 8 (vBdStatus { s with fresh := s.fresh + d })) ++
    (List.range 16).flatMap (ashPart s) ++ List.replicate 432 0)

def ashSlot (seq : Nat) : Nat := 0x4020000 + 4096 * (seq % 1024)

/-- A record goes to the ring, and one of class DEVICE or FATAL to the flash. With the first slot of a sector, the next sector is erased, so that
the next 16 slots stay erased in advance (R548). -/
def ashWrite (s : State) (cls cause action inst part : Nat) (restart : Bool) : State :=
  let seq := (ashSeq s + 1) % 2 ^ 32
  let slot := rdf s R.stkAshHead 0 3
  let b := ashBytes s seq cls cause action inst part restart
  let s1 := stkMod { s with fresh := s.fresh + 4 } (fun k => { k with ash := tput k.ash slot b })
  let s2 := wr s1 R.stkAshHead ((slot + 1) % 8 + fieldAt 32 32 seq)
  let s3 := if 3 ≤ cls then flProgram s2 (ashSlot seq) b else s2
  if seq % 16 = 0 then flErase s3 (ashSlot (seq + 16)) else s3

/-! Fault logs (R497, R527). -/

/-- ERR_UNIT_LOG. -/
def unitLog (s : State) (kind h p task pos : Nat) : State :=
  logErr s R.errUnitLog R.errUnitCount (fieldAt 8 4 kind + fieldAt 16 8 h + fieldAt 24 4 p + fieldAt 32 16 task + fieldAt 48 10 pos)

/-- ERR_DEV_LOG, with the SEQ of the record about to be written. -/
def devLog (s : State) (kind inst mask : Nat) : State :=
  logErr s R.errDevLog R.errDevCount (fieldAt 8 4 kind + fieldAt 16 8 inst + fieldAt 32 16 mask + fieldAt 48 16 (ashSeq s + 1))

/-- PART of an ash record, where a partition is concerned. -/
def ashPartNo (p : Option Nat) : Nat := p.getD 255

end Sys2Proof.Machine
end

