-- ==== Sys2Proof/Machine/Recovery.lean ====
section
/-!
DEFINITION. Hearth faults and hearth resets (R501, R502, R505, R510, R511, R524), watchdogs (R506–R509), and the suspect procedure
(R514–R517).
-/

namespace Sys2Proof.Machine

/-! Hearth resets (R501, R502). -/

/-- The tasks of a hearth with a hearth fault end with ABORT_ECC_UE: the running one counts a replay; a draining one does not (R501). -/
def hearthDrop (s : State) (h : Nat) : State :=
  let x := hget s h
  match x.cur, x.drain with
  | some c, _ => hearthAbort s h c.id 5
  | none, some d => pairRequeue (hearthStop s h 5) d.part d.id 5 (coreNow s - d.start)
  | none, none => s

/-- A hearth in reset acknowledges every shootdown at once (R268). -/
def shootdownsAck (s : State) (h : Nat) : State :=
  { s with xlts := s.xlts.map (fun e => (e.1, { e.2 with sds := e.2.sds.map (fun d => { d with left := d.left.filter (· ≠ h) }) })) }

/-- A hearth reset begins: its tasks have ended; its next task is unbound. -/
def hearthReset (s : State) (h : Nat) : State :=
  if (hget s h).inReset then s
  else
    let s1 := unbind (hearthDrop (hmod s h (fun x => { x with inReset := true })) h) h
    stkBump (residDrop (shootdownsAck s1 h) h) R.stkHrtResets

/-- The write requests of a hearth that are still unacknowledged are cancelled at their home slices and counted (R502). -/
def writesCancel (s : State) (h : Nat) : State :=
  let lost := ((hget s h).reqs.filter (fun q => q.kind = .write)).length
  let sl := s.slices.map (fun e => (e.1, { e.2 with
    reqs := e.2.reqs.filter (fun q => !(q.h = h && q.wr)), waits := e.2.waits.filter (fun w => !(w.req.h = h && w.req.wr)) }))
  errBump { s with slices := sl, walks := s.walks.map (fun e => (e.1, e.2.filter (fun q => q.h ≠ h))) } R.errReqLost lost

/-- The counters and error logs of a hearth's window return to their reset values; its control registers stay (R93, R120, R151, R182). -/
def hearthRegs (s : State) (h : Nat) : State :=
  let lo := blkBase .mxa h
  let keep := [R.mxaCtrl h, R.vecCtrl h, R.spdCtrl h, R.fluCtrl h, R.blwCtrl h].map Reg.addr
  let s1 := hearthSample s h
  samplesZero { s1 with csr := s1.csr.filter (fun e => e.1 < lo || lo + 0x100000 ≤ e.1 || keep.contains e.1) } lo 0x100000

/-- The hearth as the reset leaves it. -/
def hearthClean (x : Hearth) : Hearth :=
  { Hearth.fresh with
    part := x.part, leaving := x.leaving, oos := x.oos, faults := x.faults, nextId := x.nextId, spd := { Scratch.reset with ues := x.spd.ues } }

/-- The formed partition that holds a hearth's unit, and whether the unit is leaving it. -/
def unitOwner (s : State) (h : Nat) : Option (Nat × Bool) :=
  ((List.range 16).find? (fun p => bit (partGet s p).units (h / 16))).map (fun p => (p, bit (partGet s p).leaving (h / 16)))

/-- A hearth whose service ends is leaving only where its unit is (R443, R524). -/
def serviceFree (s : State) (h : Nat) : State :=
  hmod s h (fun x => { x with leaving := match unitOwner s h with | some (_, l) => l | none => x.leaving })

/-- A hearth joins the partition of its unit; its stall cycles are divided at this moment (R479). -/
def hearthRejoin (s : State) (h : Nat) : State :=
  match unitOwner s h with
  | some (p, false) => hmod s h (fun x => { x with part := some p, leaving := false })
  | _ => s

/-- A hearth is taken out of service (R511). -/
def hearthOut (s : State) (h : Nat) : State :=
  let x := hget s h
  if x.oos then s
  else
    let s1 := residDrop (shootdownsAck (unbind (hearthSample s h) h) h) h
    let s2 := hmod s1 h (fun x => { x with oos := true, part := none, leaving := false, tlb := [], walks := [] })
    let r := R.errHrtOosI (h / 64)
    let s3 := errBump (wr s2 r (setBits (rd s2 r) (h % 64) 1 1)) R.errOosEvents 1
    healthWrite (unitLog s3 2 h (x.part.getD 0) 0 0)

/-! Hearth faults (R510, R511). -/

/-- ERR_UNIT_LOG.KIND while a record is held. -/
def unitKind (s : State) : Nat := rdf s R.errUnitLog 8 4

/-- A hearth fault is marked and recorded: ERR_HRT_FAULT_i, ERR_HRT_FAULTS, the seconds of the hearth's faults, ERR_UNIT_LOG. -/
def faultNote (s : State) (h : Nat) (p : Option Nat) : State :=
  let r := R.errHrtFaultI (h / 64)
  let s1 := errBump (wr s r (setBits (rd s r) (h % 64) 1 1)) R.errHrtFaults 1
  let w := rdf s R.errCtrl 16 16
  let s2 := hmod s1 h (fun x => { x with faults := x.faults.filter (fun t => telSec s < t + w) ++ [telSec s] })
  unitLog s2 1 h (p.getD 0) 0 0

/-- FAULT_LIMIT faults within FAULT_WINDOW_S. -/
def faultLimit (s : State) (h : Nat) : Bool := decide (rdf s R.errCtrl 8 4 ≤ (hget s h).faults.length)

/-- A parity error in the handle table or the slot bits is recorded (R150, R156): the memory it lies in is open; no port, handle or row applies. -/
def statePerr (s : State) (h : Nat) : State :=
  let f := freeBits s 2
  spdErr f.2 h 10 f.1 5 0 0 0 0

/-- A hearth fault: recorded, the ash record complete, then the hearth reset or the hearth out of service. The record of a verdict carries the
KIND that ERR_UNIT_LOG holds, as it covers the end of the suspect procedure too (R519). -/
def hearthFaultOp (s : State) (h : Nat) (cause : HearthFaultCause) : State :=
  let x := hget s h
  if 256 ≤ h || x.inReset || x.oos then s
  else
    let s0 := if cause = .stateParity then statePerr s h else s
    let s1 := faultNote (hearthDrop s0 h) h x.part
    let out := faultLimit s1 h
    let kind := if cause = .verdict then unitKind s1 else 1
    let s2 := ashWrite s1 2 kind (if out then 6 else 1) h (ashPartNo x.part) false
    if out then hearthOut s2 h else hearthReset s2 h

/-- The service procedure or the command that reset the hearth ends (R511, R524). -/
def serviceEnd (s : State) (h : Nat) (ok : Bool) : State :=
  if s.stk.service = some h then cmdEnd (procSet (stkMod s (fun k => { k with service := none })) 0) (if ok then 0 else 5)
  else if s.stk.tested = some h then cmdEnd (stkMod s (fun k => { k with tested := none })) (if ok then 0 else 5)
  else s

/-- HEARTH_RESET_DONE: the memories are scrubbed, the self-test has passed or failed, and the hearth rejoins placement, or is out of service
(R502, R511). -/
def hearthResetDone (s : State) (h : Nat) (pass : Bool) : State :=
  let x := hget s h
  if 256 ≤ h || !x.inReset then s
  else
    let s1 := hmod (hearthRegs (writesCancel s h) h) h hearthClean
    let s2 := stkMod s1 (fun k => { k with susp := k.susp.map (fun u => if x.part = some u.part then { u with ready := true } else u) })
    if pass then
      let s3 := if x.oos then
          let r := R.errHrtOosI (h / 64)
          healthWrite (hearthRejoin (hmod (wr s2 r (setBits (rd s2 r) (h % 64) 1 0)) h (fun y => { y with oos := false })) h)
        else if s2.stk.service = some h then serviceFree s2 h
        else s2
      serviceEnd s3 h true
    else
      let s3 := faultNote (unitLog s2 7 h (x.part.getD 0) 0 0) h x.part
      serviceEnd (hearthOut (ashWrite s3 2 7 6 h (ashPartNo x.part) false) h) h false

/-! Service, return and release (R505, R511, R524). -/

/-- A command that asks for a procedure finds the Stoker free (R499). -/
def procFree (s : State) : Bool := !procBusy s && !cmdBusy s

/-- HRT_SERVICE: the hearth is marked leaving. -/
def hrtService (s : State) (h : Nat) : State :=
  let x := hget s h
  if !procFree s then cmdRefuse s 2 1
  else if 256 ≤ h || x.part.isNone || x.leaving || x.inReset || x.oos || x.held then cmdRefuse s 2 2
  else
    let s1 := unbind (hmod s h (fun x => { x with leaving := true })) h
    procSet (cmdStat (stkMod s1 (fun k => { k with service := some h })) true 2 0) 2

/-- A hearth in service whose tasks have completed gets its reset (R524 step 2). -/
def serviceStep (s : State) : State :=
  match s.stk.service with
  | none => s
  | some h => let x := hget s h; if x.inReset || x.cur.isSome || x.drain.isSome then s else hearthReset s h

/-- HRT_RETURN: an out-of-service hearth is reset and tested. -/
def hrtReturn (s : State) (h : Nat) : State :=
  let x := hget s h
  if cmdBusy s then cmdRefuse s 3 1
  else if 256 ≤ h || !x.oos || x.inReset then cmdRefuse s 3 2
  else hearthReset (cmdStat (stkMod s (fun k => { k with tested := some h })) true 3 0) h

/-- RELEASE_HOLD: a held hearth is reset and rejoins its partition. -/
def releaseHold (s : State) (h : Nat) : State :=
  let x := hget s h
  if cmdBusy s then cmdRefuse s 6 1
  else if 256 ≤ h || !x.held || x.inReset then cmdRefuse s 6 2
  else hearthReset (cmdStat (stkMod s (fun k => { k with tested := some h })) true 6 0) h

/-! Task and request watchdogs (R506–R508). -/

/-- TASK_WATCHDOG: a task that meets R299 completes (R507); any other is aborted with ABORT_WATCHDOG and recorded. -/
def taskWatchdog (s : State) (h : Nat) (draining : Bool) : State :=
  let x := hget s h
  match (if draining then x.drain else x.cur) with
  | none => s
  | some t =>
    if completes x t then taskCompleteOp s h draining
    else hearthAbort (unitLog (stkBump s R.stkWdogTask) 4 h t.part t.id 0) h t.id 7

/-- A request at its home slice: waiting in the queue, or for HBM; and the slices without it. -/
def atHbm (s : State) (h id : Nat) : Bool := s.slices.any (fun e => e.2.waits.any (fun w => w.req.h = h && w.req.id = id && !w.need.isEmpty))
def reqCancel (s : State) (h id : Nat) : State :=
  { s with slices := s.slices.map (fun e => (e.1, { e.2 with
      reqs := e.2.reqs.filter (fun q => !(q.h = h && q.id = id)), waits := e.2.waits.filter (fun w => !(w.req.h = h && w.req.id = id)) })) }

/-- A lost request is counted and recorded, and its task aborted and held (R508). `own` says whether it was one of the hearth's own engines. -/
def reqLost (s : State) (h task pos : Nat) (own : Bool) : State :=
  let x := hget s h
  let p := x.part.getD 0
  let s1 := unitLog (errBump s R.errReqLost 1) 3 h p task pos
  if !(x.cur.toList ++ x.drain.toList).any (fun t => t.id = task) then s1
  else
    let s2 := hearthAbort s1 h task 7
    if own then s2 else taskMod s2 p task (fun t => { t with sus := t.sus.map (fun u => (u.1, false)) })

/-- REQUEST_AGE_EXPIRY: outstanding request `i` of a hearth, its walks after its requests, passes its age limit (R508). A hint belongs to no
stream, and no task owns it (65,536 is no task's number). -/
def requestAgeExpiry (s : State) (h i : Nat) : State :=
  let x := hget s h
  match lget x.reqs i with
  | some q =>
    let l := hbmLoc s.hbm.dead q.pa
    let pos := if atHbm s h q.id then 20 * l.p + l.k else 0
    let s1 := hmod (reqCancel s h q.id) h (fun x => { x with reqs := ldel x.reqs i })
    reqLost s1 h (if q.kind = .hint then 65536 else q.own) pos true
  | none =>
    match lget x.walks (i - x.reqs.length) with
    | none => s
    | some w =>
      let s1 := hmod s h (fun x => { x with walks := x.walks.filter (· ≠ w) })
      reqLost { s1 with walks := s1.walks.map (fun e => (e.1, e.2.filter (fun q => !(q.h = h && q.w = w)))) } h (if w.hint then 65536 else w.own) 0 false

/-! The suspect procedure (R514–R517). -/

/-- A firmware switch in trial returns to the other bank. -/
def trialBack (s : State) : State :=
  match s.stk.trial with
  | none => s
  | some _ =>
    let v := rd s R.stkStatus
    stkState (stkMod (wr s R.stkStatus (setBits v 3 1 (1 - bits v 3 1))) (fun k => { k with trial := none })) 1

/-- A live retrain is abandoned: its stack serves again. -/
def retrainDrop (s : State) : State :=
  (List.range 20).foldl (fun s k =>
    if bit (rd s (R.memTrain k)) 1 then
      let s1 := wr s (R.memTrain k) 0
      if (stkGet s1 k).st = 3 || (stkGet s1 k).st = 4 then stkPut s1 k { stkGet s1 k with st := 2 } else s1
    else s) s

/-- The procedures below the suspect procedure in R499's order are abandoned: their command ends with FAILED. -/
def lowerDrop (s : State) : State :=
  let s1 := match s.stk.service with
    | some h => stkMod (serviceFree s h) (fun k => { k with service := none })
    | none => s
  let s2 := trialBack (retrainDrop (stkMod s1 (fun k => { k with digs := none })))
  let op := rdf s R.stkCmdStatus 1 4
  procSet (if op = 2 || op = 4 || op = 5 then cmdEnd s2 5 else s2) 0

/-- SUSPECT_START: a procedure of lower precedence is abandoned, and STOP = 1 in the partition. -/
def suspectStart (s : State) (p : Nat) : State :=
  if 16 ≤ p || s.stk.susp.isSome || (heldTasks s p).isEmpty then s
  else procSet (wrf (stkMod (lowerDrop s) (fun k => { k with susp := some ⟨p, none, false⟩ })) (R.grfCtrl p) 3 1 1) 1

/-- May a hearth take a suspect. -/
def suspectIdle (s : State) (h : Nat) : Bool :=
  let x := hget s h
  x.cur.isNone && x.drain.isNone && !x.inReset && !x.oos && !x.leaving && !x.held

/-- The handle list of a task. -/
def hlistOf (s : State) (p : Nat) (t : Task) : Option (List Nat) × State :=
  let v := vaGet s p (tdHlistVa t.desc) (16 * tdHlistCount t.desc) false
  (v.1.map (fun bs => hlEntries bs (tdHlistCount t.desc)), v.2.2)

/-- The plan of an ATTEND task, where one has been made, with its descriptor. -/
def suspectPlan (s : State) (p : Nat) (t : Task) : Option (Nat × Plan) × State :=
  let sc := schedRead s p t.desc
  match sc.1 with
  | some (e :: _) => (if bits e.desc 0 8 = 7 then (planOf (gget s p) e.desc).map (fun x => (e.desc, x.2)) else none, sc.2)
  | _ => (none, sc.2)

/-- The handles that placement considers for a suspect (R293, R337), and what its list does wrong (R289). -/
def suspectHandles (l : Option (List Nat)) (pl : Option (Nat × Plan)) : List Nat × Option Nat :=
  match pl, l with
  | some x, _ => (attHandles x.1, none)
  | none, none => ([], some 0)
  | none, some es => (hlClean es, if hlBad es then some 0 else none)

/-- A suspect is bound to a hearth and started alone; STOP holds every other task (R515 steps 3 and 4). -/
def suspectGo (s : State) (p h : Nat) (t : Task) : State :=
  let l := hlistOf (unbind s h) p t
  let pl := suspectPlan l.2 p t
  let es := suspectHandles l.1 pl.1
  if !fitsHearth pl.2 p h es.1 then s
  else
    let s1 := bindOn pl.2 p h t es.1 es.2 (pl.1.map (·.2))
    match (hget s1 h).next with
    | none => s1
    | some r =>
      if r.id ≠ t.id then s1
      else
        let s2 := stkMod (startRun s1 h r) (fun k => { k with susp := some ⟨p, some (t.id, h), false⟩ })
        stkBump s2 R.stkSuspectRuns

/-- SUSPECT_RUN: with no task of the partition running, the suspect of lowest TASK_ID runs on the lowest idle hearth other than the one where it
was held; in a partition of one hearth, on that hearth after a reset. -/
def suspectRun (s : State) (p : Nat) : State :=
  match s.stk.susp, heldTasks s p with
  | some u, t :: _ =>
    if u.part ≠ p || u.run.isSome || partRuns s p || retrainHold s || s.stk.trip then s
    else
      let h0 := (t.sus.map (·.1)).getD t.hearth
      match (partHearths s p).filter (suspectIdle s) with
      | [h] =>
        if soleHearth s p then (if u.ready then suspectGo s p h t else hearthReset s h)
        else if h = h0 then s else suspectGo s p h t
      | hs =>
        match hs.find? (· ≠ h0) with
        | some h => suspectGo s p h t
        | none => s
  | _, _ => s

/-- A hearth fault on the hearth that runs a suspect ends the run, and the suspect stays one (R517). -/
def suspectAgain (s : State) : State :=
  match s.stk.susp with
  | some ⟨p, some (t, h), _⟩ =>
    let second := s.dueAborts.any (fun a => a.1 = h && a.2.1 = t && a.2.2 = 5) && ((taskGet s p t).map (fun k => k.ue.contains h)).getD false
    if s.dueHrt.any (fun f => f.1 = h) || second then
      let s1 := taskMod (hearthStop s h 5) p t (fun k => { k with place := .held })
      let s2 := stkMod s1 (fun k => { k with susp := some ⟨p, none, false⟩ })
      if second then reqFault s2 h .secondEccUe else s2
    else s
  | _ => s

/-- Does the suspect still run, or stand bound, on the hearth of its run. -/
def suspectRuns (s : State) (p t h : Nat) : Bool :=
  match taskGet s p t with
  | some k => k.place = .running h || k.place = .bound h || k.place = .draining h
  | none => false

/-- The end of a run, and of the procedure when no suspect is left: STOP = 0. `noted`: an ash record of the same moment covers it (R519). -/
def suspectSettle (s : State) (noted : Bool) : State :=
  match s.stk.susp with
  | none => s
  | some u =>
    let goes := match u.run with | some (t, h) => suspectRuns s u.part t h | none => false
    if goes then s
    else if (heldTasks s u.part).isEmpty then
      let s1 := procSet (wrf (stkMod s (fun k => { k with susp := none })) (R.grfCtrl u.part) 3 1 0) 0
      if noted then s1 else ashWrite s1 2 (unitKind s1) 0 0 u.part false
    else stkMod s (fun k => { k with susp := some { u with run := none } })

/-- The suspect procedure is abandoned; its suspects stay held (R499, R523). -/
def suspectDrop (s : State) : State :=
  match s.stk.susp with
  | none => s
  | some u => wrf (stkMod s (fun k => { k with susp := none })) (R.grfCtrl u.part) 3 1 0

/-- The hearth faults that became due in this command are taken; one hearth's are one fault. -/
def settleFaults (s : State) : State := s.dueHrt.foldl (fun t f => hearthFaultOp t f.1 f.2) { s with dueHrt := [] }

end Sys2Proof.Machine
end

