-- ==== Sys2Proof/Machine/Reset.lean ====
section
/-!
DEFINITION. Device resets (17): warm resets (R245, R277, R498, R501, R503–R505), device faults and FATAL faults (R497, R512, R513), the hard thermal
limit (R571), and a flash command that a reset ends (R551).
-/

namespace Sys2Proof.Machine

/-! Flash commands that end early (R551). -/

/-- KND_FLASH_STATUS. -/
def flashStat (s : State) (busy : Bool) (op result : Nat) : State := wr s R.kndFlashStatus (b1 busy + fieldAt 1 3 op + fieldAt 4 4 result)

/-- Free bytes. -/
def freeList (s : State) (n : Nat) : List Byte := (List.range n).map (fun i => BitVec.ofNat 8 (Config.free (s.fresh + i)).toNat)

/-- The words of KND_FLASH_BUF. -/
def flashBuf (s : State) (n : Nat) : List Byte := ((List.range (cdiv n 8)).flatMap (fun i => leBytes 8 (rd s (R.kndFlashBuf i)))).take n

/-- What an erase or a program that does not finish leaves: of the bits it would have changed, an open choice has changed. -/
def flashPart (s : State) (r : FlashRun) : State :=
  let a := if r.op = 1 then r.addr / 65536 * 65536 else r.addr
  let n := if r.op = 1 then 65536 else if r.op = 2 then r.len else 0
  let old := memGetL s.stk.flash a n
  let f := freeList s n
  let new := if r.op = 1 then List.zipWith (fun o x => o &&& x) old f
    else List.zipWith (fun o x => o ||| x) old (List.zipWith (fun b x => ~~~ b &&& x) (flashBuf s n) f)
  stkMod { s with fresh := s.fresh + n } (fun k => { k with flash := memPutL k.flash a new })

/-- A reset or a device fault ends a flash command with ABORTED. -/
def flashAbort (s : State) : State :=
  match s.stk.flashRun with
  | none => s
  | some r => flashStat (stkMod (flashPart s r) (fun k => { k with flashRun := none })) false r.op 4

/-! Links at a start (R2, R359, R365). -/

/-- Every link as a start leaves it: a link of an enabled port trains, and the port, of width 0, is LOST (R377); one whose reach class this part
does not have is refused. -/
def linksStart (s : State) : State :=
  (List.range 18).foldl (fun t n =>
    let p := lkPort t n
    if p < 18 && !classOn t n then
      lkPut (lnkErr (lkPut (wrf t (R.lnkPortCfgP p) 20 1 0) n .reset) n 8 0) n { Link.reset with st := 6, refuse := 1 }
    else if p < 18 && portOn t p then lkPut (wrf t (R.fabAdjP p) 22 2 3) n { Link.reset with st := 4, go := true }
    else lkPut t n .reset) { s with links := [] }

/-! Step 1 of a warm reset: translation (R277). -/

/-- A shootdown whose released frames find no room completes for its operation; its frames go on waiting (R266). -/
def shootdownPart (s : State) (p : Nat) (d : Shoot) : State :=
  match d.why with
  | .op g status => opEnd s p g status (((ringGet (xlGet s p) g).page).getD 0)
  | _ => s

/-- Every shootdown of a partition is acknowledged and completes. -/
def shootdownsEnd (s : State) (p : Nat) : State :=
  let x := xlGet s p
  let s1 := xlPut s p { x with sds := x.sds.map (fun d => { d with left := [] }) }
  let s2 := x.sds.foldl (fun t _ => shootdownComplete t p) s1
  let rest := (xlGet s2 p).sds
  xlMod (rest.foldl (fun t d => shootdownPart t p d) s2) p (fun y =>
    { y with sds := y.sds.map (fun d => { d with why := .batch, pages := [], writes := [] }) })

/-- An operation in progress is interrupted: STATUS INTERRUPTED with DONE_PAGES, its ring halted. -/
def ringInterrupt (s : State) (p g : Nat) : State :=
  match (ringGet (xlGet s p) g).page with
  | none => s
  | some i => ringHalt (recordStatus s p g 0x0C i) p g 3

/-- The update unit finishes its page: a rekey or a copy in progress ends; pages already done are shot down; operations in progress are interrupted. -/
def xltStop (s : State) (p : Nat) : State :=
  let s1 := shootdownsEnd (cowCopyDone (shootdownsEnd s p) p) p
  let s2 := match (xlGet s1 p).rk with
    | some k => (match (ringGet (xlGet s1 p) k.ring).page with | some i => ringPage s1 p k.ring i | none => s1)
    | none => s1
  let s3 := shootdownsEnd s2 p
  let x := xlGet s3 p
  let pages := x.bPages ++ x.r0.pages ++ x.r1.pages
  let frames := x.bFrames ++ x.r0.frames ++ x.r1.frames
  let s4 := xlPut s3 p { x with bPages := [], bFrames := [], r0 := { x.r0 with pages := [], frames := [] },
                                r1 := { x.r1 with pages := [], frames := [] } }
  let s5 := if pages.isEmpty && frames.isEmpty then s4 else shootdownsEnd (sdStart s4 p .cow pages frames) p
  ringInterrupt (ringInterrupt s5 p 0) p 1

/-! The warm reset (R503–R505). -/

/-- Every running and draining task ends with ABORT_STOKER. -/
def tasksStop (s : State) : State :=
  (s.hearths.map (·.1)).foldl (fun t h =>
    match (hget t h).cur, (hget t h).drain with
    | some c, _ => hearthAbort t h c.id 14
    | none, some d => hearthAbort t h d.id 14
    | none, none => t) s

/-- The fills in progress at a slice end. -/
def fillsEnd (s : State) (sl : Nat) : State :=
  (slGet s sl).fills.foldl (fun t _ =>
    match (slGet t sl).fills with
    | f :: _ => chmFillComplete (fillRead (hbmFlush t) sl f) sl 0
    | [] => t) s

/-- The write requests that wait at a slice are served; the reads of the tasks that have ended are not (R245). An inoperative slice serves none. -/
def writesEnd (s : State) (sl : Nat) : State :=
  if !bit s.stk.slices sl then slMod s sl (fun x => { x with reqs := [], waits := [], fills := [] })
  else
    let s1 := fillsEnd (slMod s sl (fun x => { x with reqs := x.reqs.filter MReq.wr, waits := x.waits.filter (fun w => w.req.wr) })) sl
    let s2 := (slGet s1 sl).reqs.foldl (fun t _ => fillsEnd (chmWrite (hbmFlush t) sl 0) sl) s1
    slMod s2 sl (fun x => { x with reqs := [], waits := [] })

/-- Stacks in self-refresh leave it for the accesses of the reset's first steps (DEDUCED from R221 and R277, log 46). -/
def stacksWake (s : State) : State :=
  (List.range 20).foldl (fun t k => if (stkGet t k).st = 3 || (stkGet t k).st = 4 then stkPut t k { stkGet t k with st := 2 } else t) s

def dataQps (s : State) : List Nat := (s.qps.map (·.1)).filter (· < 1024)

/-- Steps 1 to 3: procedures end, tasks and data queue pairs stop, the update units stop, and the ash record is written unless the fault has
written it. `start`: LAST_START. -/
def warmBegin (s : State) (start : Nat) (remap noted : Bool) : State :=
  let s1 := [0, 1, 2, 3].foldl writesEnd (stacksWake (tasksStop (lowerDrop (suspectDrop s))))
  let s2 := (List.range 16).foldl (fun t p => if prtFormed t p then xltStop t p else t) ((dataQps s1).foldl qpReset s1)
  let s3 := [0, 1, 2, 3].foldl (fun t sl => if bit t.stk.slices sl then slMod t sl (fun x => { x with flush := true }) else t) (flashAbort s2)
  let s4 := if noted then s3 else ashWrite s3 3 0 (if remap then 4 else 3) 0 255 false
  { stkState (stkMod s4 (fun k => { k with phase := .warm, warmRun := some (start, remap), tested := none, trip := false })) 3 with
    held := false, away := false, dueAborts := [], dueHrt := [] }

/-- A WARM_RESET that waits: REMAP bits are ORed together. -/
def warmWait (s : State) (remap : Bool) : State := stkMod s (fun k => { k with warmQ := some ((k.warmQ.getD false) || remap) })

/-- Is a warm reset before the end of its step 3: a slice's flush is not complete (R221, R245). -/
def beforeFlush (s : State) : Bool := s.slices.any (fun e => e.2.flush)

/-- WARM_RESET: before step 3 of a warm reset in progress is done it merges with it, and later it waits. It waits while a procedure runs, and starts
otherwise (R499, R504). -/
def warmReset (s : State) (remap : Bool) : State :=
  match s.stk.phase with
  | .warm =>
    if beforeFlush s then stkMod s (fun k => { k with warmRun := k.warmRun.map (fun w => (w.1, w.2 || remap)) }) else warmWait s remap
  | .run =>
    if procBusy s || s.away || s.stk.trip then warmWait s remap
    else warmBegin (cmdStat s true 1 0) 2 remap false
  | _ => s

/-- The warm reset that waited starts when no procedure runs. -/
def warmNext (s : State) : State :=
  match s.stk.warmQ with
  | none => s
  | some r =>
    if s.stk.phase ≠ .run || procBusy s || s.away || s.stk.trip then s
    else warmBegin (cmdStat (stkMod s (fun k => { k with warmQ := none })) true 1 0) 2 r false

/-- The hearths that STK_HOLD_MASK_i holds. -/
def holdBit (s : State) (h : Nat) : Bool := bit (rd s (R.stkHoldMaskI (h / 64))) (h % 64)

/-- Ranges of registers that a warm reset keeps (first address, bytes): R243, R277, R445, R455, R498, R554, R556. -/
def keptRanges (s : State) (remap : Bool) : List (Nat × Nat) :=
  let one := fun (r : Reg) => (r.addr, 8)
  let parts := List.range 16
  [(blkBase .dev 0, 0x100000), one R.stkAshHead, one R.stkWarmResets, one R.stkFwInfo, one R.errDevLog, one R.errDevCount,
   ((R.errHrtOosI 0).addr, 32), one R.kndStatus, one R.kndFlashStatus, ((R.kndCopyInfoC 0).addr, 0x80), ((R.kndStageTimeS 0).addr, 0x58),
   ((R.secPeerP 0).addr, 0x120)] ++
  (List.range 20).flatMap (fun k => if remap then [one (R.memRetired k)] else [one (R.memFence k), one (R.memRetired k)]) ++
  parts.map (fun p => one (R.secKeySeqP p)) ++
  (if remap then []
   else parts.flatMap (fun p => [((R.xltRange p).addr, 0x18), ((R.xltOpqBaseG p 0).addr, 0x80), ((R.xltRootI p 0).addr, 0x800),
      one (R.prtQuotaP p), one (R.prtRateP p), ((R.secKcvPK p 0).addr, 0x20)] ++
      [0, 1, 2, 3].flatMap (fun sl => [one (R.chmPartQuotaP sl p), one (R.chmPartRateP sl p)])) ++
    (if prtBusy s then [one R.prtCmdStatus] else []))

/-- The register file after the reset: as the cold start left it, but for what is kept. -/
def warmCsr (s : State) (remap : Bool) : Tbl Nat :=
  let ks := keptRanges s remap
  let keep := fun (a : Nat) => ks.any (fun r => decide (r.1 ≤ a) && decide (a < r.1 + r.2))
  (s.csr.filter (fun e => keep e.1)).foldl (fun t e => tput t e.1 e.2) (s.stk.base.filter (fun e => !keep e.1))

/-- Step 3: every dirty line of the operative slices is written back and every queue completes (R221, R245). -/
def flushAll (s : State) : State :=
  let s1 := s.slices.foldl (fun t e =>
    if bit s.stk.slices e.1 then (e.2.lines.filter (·.dirty)).foldl (fun u l => writeBack u e.1 l) t else t) s
  let s2 := hbmFlush s1
  (List.range 20).foldl (fun t k => (stkGet t k).corr.foldl (fun u _ => hbmCorrectionRewrite u k) t) s2

/-- Step 3 of a warm reset (R221, R245): the flush completes and, without remap, every stack that serves enters self-refresh. It comes at the first
edge of the HBM-controller clock that finds no command waiting, and with WARM_RESET_SERVING at the latest (DESIGN CHOICE, log 3). -/
def warmFlush (s : State) : State :=
  match s.stk.phase, s.stk.warmRun with
  | .warm, some (_, remap) =>
    if !beforeFlush s then s
    else
      let s1 := if remap then s else flushAll s
      let s2 := { s1 with slices := s1.slices.map (fun e => (e.1, { e.2 with flush := false, lines := e.2.lines.map (fun l => { l with dirty := false }) })) }
      if remap then s2
      else (List.range 20).foldl (fun t k => if (stkGet t k).st = 2 then stkPut t k { stkGet t k with st := 3 } else t) s2
  | _, _ => s

/-- The retired positions of every stack (R243). -/
def retiredList (s : State) : List Nat :=
  (List.range 640).filter (fun i => bit (rd s (R.memRetired (i % 20))) (i / 20))

/-- HBM after the reset: kept, or rebuilt under the new live list and filled with zeros (R243–R245). -/
def warmHbm (s : State) (remap : Bool) : Hbm :=
  if remap then
    { Hbm.zero with dead := retiredList s, stk := (List.range 20).foldl (fun t k => tput t k { Stack.serving with st := 1 }) [] }
  else { s.hbm with pcs := [], stk := [] }

/-- A hearth after the reset; a held one keeps its scratchpads (R445, R505). -/
def warmHearth (s : State) (remap : Bool) (h : Nat) (x : Hearth) : Hearth :=
  let y := { Hearth.fresh with part := if remap then none else x.part, leaving := x.leaving && !remap, oos := x.oos, faults := x.faults,
                               nextId := x.nextId }
  if holdBit s h then { y with spd := { x.spd with op0 := ⟨[], false⟩, op1 := ⟨[], false⟩, op2 := ⟨[], false⟩, wbuf := x.spd.wbuf }, held := true }
  else y

/-- Translation after a reset without remap: halted rings, pending frames, and released frames that still wait for room (R266, R277). -/
def warmXlt (x : Xlt) : Xlt := { Xlt.idle with r0 := x.r0, r1 := x.r1, last := x.last, pend := x.pend, sds := x.sds }

/-- A partition that a remap dissolves keeps its count of formations and last key sequence numbers. -/
def partRemapped (x : Part) : Part := { Part.none_ with count := x.count, seqMem := x.seqMem, seqFab := x.seqFab }

/-- The management queue pair with the numbers of the Kindling image (R430, R539). -/
def mgmtQp (s : State) : QPair :=
  { QPair.reset with sqPsn := rdf s (R.hstQpPsnQ 1024) 0 24, rqPsn := rdf s (R.hstQpPsnQ 1024) 32 24 }

/-- Hearths whose self-test fails at a start: recorded and out of service (R511, R545). -/
def selfTestsFail (s : State) (l : List Nat) : State :=
  l.foldl (fun t h =>
    if 256 ≤ h || (hget t h).oos then t
    else
      let p := (hget t h).part
      hearthOut (ashWrite (faultNote (unitLog t 7 h (p.getD 0) 0 0) h p) 2 7 6 h (ashPartNo p) false) h) s

/-- FATAL: recorded where the Stoker can still write, and the device halts (R497, R513). -/
def fatal (s : State) (kind inst : Nat) (canWrite : Bool) : State :=
  let s0 := flashAbort s
  let s1 := if canWrite then ashWrite (devLog s0 kind inst 0) 4 kind 5 inst 255 false else devLog s0 kind inst 0
  { stkState (stkMod s1 (fun k => { k with phase := .halted, faultN := true, warmRun := none, susp := none, service := none, tested := none,
                                           digs := none, trial := none })) 5 with
    links := [], hport := { s1.hport with up := false }, dueAborts := [], dueHrt := [] }

/-- WARM_RESET_SERVING: steps 3 to 9, or a failure, which is FATAL; the slices are empty after it either way (R220). -/
def warmServing (s : State) (r : WarmResults) : State :=
  match s.stk.phase, s.stk.warmRun with
  | .warm, some (start, remap) =>
    if !r.imageVerifies || !r.bridgesOk || !r.slicesOk then { fatal s 7 0 true with slices := [], mcast := [] }
    else
      let s0 := warmFlush s
      let st := rd s R.stkStatus
      let hs := (List.range 256).foldl (fun (t : Tbl Hearth) h => if (tget s0.hearths h).isSome || holdBit s0 h
        then tput t h (warmHearth s0 remap h (hget s0 h)) else t) []
      let s1 : State := { s0 with
        csr := warmCsr s0 remap, hearths := hs, hbm := warmHbm s0 remap, graphs := [], slices := [], mcast := [], walks := [], walkCache := [],
        xlts := if remap then [] else s0.xlts.map (fun e => (e.1, warmXlt e.2)),
        parts := if remap then s0.parts.map (fun e => (e.1, partRemapped e.2)) else s0.parts,
        ports := [], sflows := [], rflows := [], colIn := [], cols := [], colUnl := [], keyRun := none, repRun := none, away := false,
        ipfix := ⟨[], []⟩, loops := [], alert := 0, held := false }
      let s2 := stkMod s1 (fun k => { k with
        phase := .run, warmRun := none, bridges := 0x3F, slices := 0xF, report := [], digs := none, ashDue := false, expiries := [] })
      let s3 := wr s2 R.stkStatus (setBits (fieldAt 3 2 (bits st 3 2)) 0 3 1)
      let s4 := bump s3 false R.stkWarmResets 1
      let s5 := wrf s4 R.devStatus 32 4 (if remap then 4 else start)
      let s6 := { s5 with qps := [(1024, mgmtQp s5)], hport := { s5.hport with up := bit (rd s5 R.hstCtrl) 2, paused := 0, xoff := 0, wait := [], pool := [] } }
      let s7 := r.failedPcs.foldl (fun t f => if f.1 < 20 && f.2 < 32 then hbmFence t f.1 f.2 0 else t) (linksStart s6)
      let s8 := (List.range 20).foldl (fun t k =>
        if (List.range 32).all (fun p => r.failedPcs.contains (k, p)) then stkPut t k { stkGet t k with st := 5 } else t) s7
      selfTestsFail (routesAgain s8) r.failedHearths
  | _, _ => s

/-! Device faults (R512). -/

/-- May a device fault be raised: the device runs, or is in a warm reset, which then covers it. -/
def faultable (s : State) : Bool := s.stk.phase = .run || s.stk.phase = .warm

/-- A device fault: ERR_DEV_LOG and the ash record, and its warm reset. -/
def devFault (s : State) (kind inst mask : Nat) : State :=
  let s1 := ashWrite (devLog (flashAbort s) kind inst mask) 3 kind 3 inst 255 false
  if s.stk.phase = .warm then s1 else warmBegin s1 3 false true

/-- SLICE_TAG_PARITY: PART of the record is a free value, since a tag in error names no partition (DESIGN CHOICE, log 67). The slice is inoperative until the reset; its lines are lost, and PART_MASK names the partitions that had lines there. -/
def sliceTagParity (s : State) (sl : Nat) : State :=
  if 4 ≤ sl || !faultable s then s
  else
    let mask := maskOf 16 (fun p => vPartUse s sl p ≠ 0)
    let f := freeBits s 4
    devFault (stkMod (chmErr f.2 sl 6 0 0 f.1 none) (fun k => { k with slices := setBits k.slices sl 1 0 })) 1 sl mask

/-- BRIDGE_FAILURE. -/
def bridgeFailure (s : State) (b : Nat) : State :=
  if 6 ≤ b || !faultable s then s else devFault (stkMod s (fun k => { k with bridges := setBits k.bridges b 1 0 })) 2 b 0

/-- REFCLK_BOTH_LOSS: FATAL; whether the Stoker can still write the record is open. -/
def refclkBothLoss (s : State) : State :=
  let s1 := stkMod s (fun k => { k with refA := false, refB := false })
  if !faultable s then s1
  else
    let f := freeBits s1 1
    fatal f.2 8 0 (f.1 = 1)

/-- REFCLK_A_LOSS: every PLL is fed from input B after the warm reset. -/
def refclkALoss (s : State) : State :=
  if !s.stk.refA then s
  else if !s.stk.refB then refclkBothLoss s
  else
    let s1 := stkMod s (fun k => { k with refA := false })
    if !faultable s then s1 else devFault (stkMod s1 (fun k => { k with coreB := true, serdesB := true })) 3 0 0

/-- REFCLK_B_LOSS: the SerDes PLLs are fed from input A after the warm reset; PLLs fed from B move to A. -/
def refclkBLoss (s : State) : State :=
  if !s.stk.refB then s
  else if !s.stk.refA then refclkBothLoss s
  else
    let s1 := stkMod s (fun k => { k with refB := false })
    if !faultable s then s1 else devFault (stkMod s1 (fun k => { k with coreB := false, serdesB := false })) 4 0 0

/-- REFCLK_RETURN: ERR_REFCLK shows the input again; the PLLs stay as they are fed until a cold start. -/
def refclkReturn (s : State) (a : Bool) : State := stkMod s (fun k => if a then { k with refA := true } else { k with refB := true })

def siteNo (t : TripSite) : Nat := match t with | .firebox f => f | .baseDie d => d | .stack k => k

/-- THERMAL_TRIP: no hearth starts a task and HBM enters self-refresh; the warm reset waits for THERMAL_COOLED. -/
def thermalTrip (s : State) (t : TripSite) : State :=
  if s.stk.phase ≠ .run || s.stk.trip then s
  else
    let s1 := ashWrite (devLog (flashAbort s) 5 (siteNo t) 0) 3 5 3 (siteNo t) 255 false
    let s2 := stkState (stkMod (lowerDrop (suspectDrop s1)) (fun k => { k with trip := true })) 2
    { s2 with away := false, hbm := { s2.hbm with
      stk := (List.range 20).foldl (fun m k => if (tgetD m k Stack.serving).st = 2 then tput m k { tgetD m k .serving with st := 3 } else m) s2.hbm.stk } }

/-- THERMAL_COOLED: the warm reset of the trip begins. -/
def thermalCooled (s : State) : State := if s.stk.phase = .run && s.stk.trip then warmBegin s 3 false true else s

/-- HARD_THERMAL_LIMIT: every clock and lane stops; no ash record is written (R571). -/
def hardThermal (s : State) : State :=
  match s.stk.phase with
  | .low => s
  | _ =>
    { stkMod s (fun k => { k with phase := .cut, thermN := true, warmRun := none, trip := false }) with
      links := [], hport := { s.hport with up := false }, dueAborts := [], dueHrt := [] }

/-! The Stoker's own watchdog (R509, R523). -/

/-- The Stoker restarts: its commands in progress end with FAILED, and its procedures are abandoned. -/
def stokerRestart (s : State) : State :=
  let s1 := lowerDrop (suspectDrop s)
  { stkBump (cmdEnd s1 5) R.stkRestarts with away := true }

/-- STOKER_WATCHDOG: the third expiry within 600 s is a device fault; any other restarts the Stoker. -/
def stokerWatchdog (s : State) : State :=
  if s.stk.phase ≠ .run || s.away then s
  else
    let l := s.stk.expiries.filter (fun t => telSec s < t + 600) ++ [telSec s]
    if 3 ≤ l.length then devFault (stkMod s (fun k => { k with expiries := [] })) 6 0 0
    else stokerRestart (stkMod s (fun k => { k with expiries := l, ashDue := true }))

/-- STOKER_RESTART_DONE: the record of the expiry is written, and what waited goes on. -/
def stokerRestartDone (s : State) : State :=
  if !s.away || (s.stk.phase ≠ .run && s.stk.phase ≠ .warm) then s
  else
    let s1 := { s with away := false }
    if s1.stk.ashDue then ashWrite (stkMod s1 (fun k => { k with ashDue := false })) 2 0 2 0 255 true else s1

end Sys2Proof.Machine
end

