-- ==== Sys2Proof/Machine/Firmware.lean ====
section
/-!
DEFINITION. Procedures of the Stoker that serve while the device runs: stack retrain (R246), firmware switch (R522), digest check (R518), error
injection (R578); the commands of the KND_ block: flash (R550) and fuses (R553); the test port (R570).
-/

namespace Sys2Proof.Machine

/-! Stack retrain (R246, R499). -/

/-- HBM_RETRAIN: a procedure, not performed while another runs. -/
def retrainStart (s : State) (k : Nat) : State :=
  if 20 ≤ k || procBusy s || retrainHold s then s else procSet (hbmRetrain s k) 3

/-- HBM_RETRAIN_DONE. -/
def retrainDone (s : State) (k : Nat) (failed : BitVec 32) : State :=
  let s1 := hbmRetrainDone s k failed
  if retrainHold s && !retrainHold s1 && rdf s R.stkStatus 5 3 = 3 then procSet s1 0 else s1

/-! Firmware (R522). -/

/-- STK_FW_INFO: VERSION of the running bank, and which banks hold firmware. -/
def fwInfo (s : State) : State :=
  wr s R.stkFwInfo (fieldAt 0 32 (fwRun s).version + fieldAt 32 1 (b1 s.stk.fw0.valid) + fieldAt 33 1 (b1 s.stk.fw1.valid))

/-- FW_SWITCH: the copy is verified, its firmware loaded into the other bank, and the Stoker restarts from it in trial. -/
def fwSwitch (s : State) (copy : Nat) : State :=
  if !procFree s then cmdRefuse s 4 1
  else if 2 ≤ copy then cmdRefuse s 4 2
  else
    let r := copyCheck s copy
    match r.1 with
    | .error _ => cmdStat r.2 false 4 3
    | .ok m =>
      let v := rd r.2 R.stkStatus
      let other := 1 - bits v 3 1
      let fw : FwBank := ⟨true, m.fwDigest, m.fwVersion, m.svn⟩
      let s1 := stkMod r.2 (fun k => if other = 0 then { k with fw0 := fw, trial := some copy } else { k with fw1 := fw, trial := some copy })
      let s2 := wr s1 R.stkStatus (setBits (setBits (setBits v 3 1 other) 4 1 0) 0 3 4)
      fwInfo { stkBump (procSet (cmdStat s2 true 4 0) 5) R.stkRestarts with away := true }

/-- FW_OK_SET: the switched copy becomes the copy in use and running (R522, R547). -/
def fwOkSet (s : State) : State :=
  match s.stk.trial with
  | none => s
  | some c =>
    if s.away then s
    else
      let d := (List.range 4).flatMap (fun i => leBytes 8 (rd s (R.kndCopyDigCI c i)))
      let s1 := stkMod s (fun k => { k with trial := none, imgDigest := d })
      let s2 := wr s1 R.stkStatus (setBits (setBits (rd s1 R.stkStatus) 4 1 1) 0 3 1)
      let s3 := wrf (wr s2 R.kndStatus (setBits (rd s2 R.kndStatus) 0 2 (3 * c))) R.devStatus 36 1 c
      healthWrite (cmdEnd (procSet s3 0) 0)

/-- FW_TRIAL_TIMEOUT: the Stoker restarts from the previous bank. -/
def fwTrialTimeout (s : State) : State :=
  match s.stk.trial with
  | none => s
  | some _ => fwInfo { stkBump (cmdEnd (procSet (trialBack s) 0) 4) R.stkRestarts with away := true }

/-! Digest check (R518). -/

/-- The latest entry of the digest log for a local partition, entry, instance, direction and peer device: BYTES, CRC, peer partition. -/
def digFind (s : State) (p c epoch dir dev : Nat) : Option (Nat × Nat × Nat) :=
  let next := rdf s R.colDigHead 0 12
  let n := min 4096 (rdf s R.colDigHead 16 48)
  (((List.range n).map (fun j => (next + 4095 - j) % 4096)).find? (fun i =>
    let w := rd s (R.colDigI i 0)
    bits w 0 8 = c && bits w 8 4 = p && bits w 12 1 = dir && bits w 32 16 = dev && rd s (R.colDigI i 1) = epoch)).map
    (fun i => (rd s (R.colDigI i 2), rd s (R.colDigI i 3), bits (rd s (R.colDigI i 0)) 16 4))

/-- A digest message on VC 30: MSG, the entry it names, 16 bytes of payload. -/
def digSend (s : State) (msg dst dpart spart coll epoch dir : Nat) (body : List Byte) : State :=
  let tail := beBytes 1 msg ++ beBytes 1 coll ++ beBytes 4 epoch ++ beBytes 1 dir ++ List.replicate 7 0 ++ beBytes 2 16
  sendOwn s 30 (mkHdr 3 0 dst (ownDev s) 0 0 dpart spart (rdf s R.fabE2eCfg 32 8) 0 tail) body

/-- A digest message that has arrived leaves its receive pool. -/
def digTaken (s : State) (msg : Nat) (m : DigMsg) : State :=
  let held := ((List.range 18).flatMap (fun n => (List.range 32).flatMap (fun vc =>
    ((rxPool (lkGet s n) vc).filter (fun q =>
      let h := pktHdr q.flits
      q.way = .local_ && q.whole && phType h = 3 && hB h 16 1 = msg && phSrc h = m.srcDev && phSpart h = m.spart && phDpart h = m.dpart
        && hB h 17 1 = m.coll && hB h 18 4 = m.epoch && hB h 22 1 = m.dir)).map (fun q => (n, vc, q.id))))).head?
  match held with | some (n, vc, id) => rxDrop s n vc id | none => s

/-- STK_DIG_RESULT; the check ends. -/
def digResult (s : State) (v : Nat) : State :=
  cmdEnd (procSet (wr (stkMod s (fun k => { k with digs := none })) R.stkDigResult v) 0) 0

/-- DIG_CHECK: the entry that STK_DIG_QUERY names is sought here and asked of the peer. -/
def digCheck (s : State) : State :=
  if !procFree s then cmdRefuse s 5 1
  else
    let q := rd s R.stkDigQuery
    let p := bits q 0 4
    let dir := bits q 4 1
    let c := bits q 8 8
    let dev := bits q 16 16
    let epoch := bits q 32 32
    let s1 := procSet (cmdStat s true 5 0) 4
    match digFind s p c epoch dir dev with
    | none => digResult s1 3
    | some (n, crc, peer) =>
      let s2 := wr (stkMod s1 (fun k => { k with digs := some ⟨some (n, crc), dev, p, peer, c, epoch, 1 - dir⟩ })) R.stkDigResult 0
      digSend s2 2 dev peer p c epoch (1 - dir) (List.replicate 16 0)

/-- DIG_REQ: answered with the entry's BYTES and CRC, or 16 zero bytes. -/
def digReq (s : State) (m : DigMsg) : State :=
  let s1 := digTaken s 2 m
  let e := if prtFormed s m.dpart then digFind s m.dpart m.coll m.epoch m.dir m.srcDev else none
  let body := match e with | some (n, crc, _) => beBytes 8 n ++ beBytes 8 crc | none => List.replicate 16 0
  digSend s1 3 m.srcDev m.spart m.dpart m.coll m.epoch m.dir body

/-- DIG_REPLY: compared with the local entry; a mismatch is recorded. -/
def digReply (s : State) (m : DigMsg) (n crc : Nat) : State :=
  let s1 := digTaken s 3 m
  match s.stk.digs with
  | none => s1
  | some w =>
    if m.srcDev ≠ w.dev || m.coll ≠ w.coll || m.epoch ≠ w.epoch then s1
    else if n = 0 && crc = 0 then digResult s1 3
    else if w.entry = some (n, crc) then digResult s1 1
    else ashWrite (unitLog (digResult s1 2) 6 0 w.part 0 0) 2 6 0 0 w.part false

/-- DIG_REPLY_TIMEOUT. -/
def digReplyTimeout (s : State) : State := if s.stk.digs.isSome then digResult s 4 else s

/-! Error injection (R578). -/

/-- The combinations of KIND and BLOCK that R578 lists. -/
def injOk (kind blk : Nat) : Bool :=
  (1 ≤ kind && kind ≤ 3 && (blk = 3 || blk = 0x10 || blk = 0x11)) || (kind = 3 && blk = 1) || (kind = 4 && (blk = 4 || blk = 5)) ||
    (kind = 5 && blk = 0x20)

/-- ERR_INJECT_ARM: a write of ERR_INJECT; FIRED is cleared. -/
def errInjectArm (s : State) (v : Nat) : State :=
  if bit v 0 && (!bit (rd s R.errCap) 31 || !injOk (bits v 1 3) (bits v 8 8)) then s
  else wr s R.errInject (bits v 0 4 + fieldAt 8 24 (bits v 8 24))

/-! Flash commands (R550). -/

/-- The copy that KND_STATUS.RUN_COPY does not name. -/
def idleCopy (s : State) : Nat := 1 - rdf s R.kndStatus 1 1

/-- Does a range lie inside the copy that is not running. -/
def inIdleCopy (s : State) (a n : Nat) : Bool := let b := copyBase (idleCopy s); decide (b ≤ a) && decide (a + n ≤ b + 0x2000000)

def flashRefuse (s : State) (op result : Nat) : State := flashStat s s.stk.flashRun.isSome op result

/-- A flash command starts, or is refused: BUSY, BAD_ARG, PROTECTED. -/
def flashStart (s : State) (r : FlashRun) : State :=
  let rw := r.op = 2 || r.op = 3
  if s.stk.flashRun.isSome || s.stk.trial.isSome then flashRefuse s r.op 2
  else if 0x8000000 ≤ r.addr || 2 ≤ r.copy || (rw && (r.addr % 256 ≠ 0 || r.len % 256 ≠ 0 || r.len = 0 || 65536 < r.len ||
      0x8000000 < r.addr + r.len)) then flashRefuse s r.op 3
  else if (r.op = 1 && !inIdleCopy s (r.addr / 65536 * 65536) 65536) || (r.op = 2 && !inIdleCopy s r.addr r.len) then flashRefuse s r.op 1
  else flashStat (stkMod s (fun k => { k with flashRun := some r })) true r.op 0

def flashErase (s : State) (addr : Nat) : State := flashStart s ⟨1, addr, 0, 0⟩
def flashProgram (s : State) (addr len : Nat) : State := flashStart s ⟨2, addr, len, 0⟩
def flashReadCmd (s : State) (addr len : Nat) : State := flashStart s ⟨3, addr, len, 0⟩
def flashVerify (s : State) (copy : Nat) : State := flashStart s ⟨4, 0, 0, copy⟩

/-- Bytes into KND_FLASH_BUF. -/
def bufPut (s : State) (b : List Byte) : State :=
  (List.range (cdiv b.length 8)).foldl (fun t i => wr t (R.kndFlashBuf i) (bufWord b i)) s

/-- FLASH_CMD_DONE: the command's effect and result; a flash that does not answer gives FLASH_ERROR. -/
def flashCmdDone (s : State) (ok : Bool) : State :=
  match s.stk.flashRun with
  | none => s
  | some r =>
    let s0 := stkMod s (fun k => { k with flashRun := none })
    if !ok then flashStat (kndErr (flashPart s0 r) 7 0 0) false r.op 5
    else
      match r.op with
      | 1 => flashStat (flErase s0 r.addr) false 1 0
      | 2 => flashStat (flProgram s0 r.addr (flashBuf s0 r.len)) false 2 0
      | 3 => flashStat (bufPut s0 (flRead s0 r.addr r.len)) false 3 0
      | _ =>
        let v := copyCheck s0 r.copy
        flashStat v.2 false 4 (match v.1 with | .ok _ => 0 | .error _ => 6)

/-! Fuse commands (R553). -/

def kndStat (s : State) (result : Nat) : State := wr s R.kndCmdStatus (fieldAt 4 4 result)

/-- OWNER_FUSE: the owner digest is written once. -/
def ownerFuse (s : State) : State :=
  let f := s.stk.fuses
  if f.owner.isSome then kndStat s 1
  else if f.left = 0 then kndStat s 3
  else
    let d := (List.range 4).flatMap (fun i => leBytes 8 (rd s (R.kndOwnerDigestI i)))
    kndStat (stkMod s (fun k => { k with fuses := { f with owner := some d, left := f.left - 1 } })) 0

/-- SVN_RAISE: SVN_MIN becomes the SVN of the running firmware. -/
def svnRaise (s : State) : State :=
  let f := s.stk.fuses
  let v := (fwRun s).svn % 65536
  if f.svnMin = v then kndStat s 2
  else if f.left = 0 then kndStat s 3
  else kndStat (stkMod s (fun k => { k with fuses := { f with svnMin := v, left := f.left - 1 } })) 0

/-! The test access port (R570). -/

def jtagSet (s : State) (ir : Nat) : State := stkMod s (fun k => { k with jtag := { k.jtag with ir := ir } })
def jtagBypass (s : State) : State := jtagSet s 1
def jtagIdcode (s : State) : State := jtagSet s 0

/-- SAMPLE/PRELOAD: only while DEV_RESET_N is low. -/
def jtagSamplePreload (s : State) (pins : Nat) : State :=
  if s.stk.phase = .low then stkMod s (fun k => { k with jtag := ⟨2, pins⟩ }) else s

/-- EXTEST: the boundary cells drive their pins; only while DEV_RESET_N is low. -/
def jtagExtest (s : State) : State := if s.stk.phase = .low then jtagSet s 3 else s

end Sys2Proof.Machine
end

