-- ==== Sys2Proof/Machine/Boot.lean ====
section
/-!
DEFINITION. The cold start (18): reset pins and reference inputs (R530–R532), the choice of the copy (R538), what the configuration sections set
(R539–R541), the boot stages (R543–R549), and the state in which the device first serves (R552).
-/

namespace Sys2Proof.Machine

/-! What is held in no register and no cell (R501, R531). -/

/-- The Stoker with nothing running: the flash, the fuses, the test port, the reference inputs and the pins stay. -/
def stkOff (k : Stoker) : Stoker :=
  { phase := .low, refA := k.refA, refB := k.refB, coreB := k.coreB, serdesB := k.serdesB, bridges := 0x3F, slices := 0xF,
    faultN := k.faultN, thermN := k.thermN, trip := false, warmRun := none, warmQ := none, susp := none, service := none, tested := none,
    digs := none, fw0 := FwBank.empty, fw1 := FwBank.empty, trial := none, imgDigest := [], expiries := [], ash := [], ashDue := false,
    flash := k.flash, flashRun := none, fuses := k.fuses, report := [], cert := [], bootIn := none, base := [], jtag := k.jtag }

/-- The device with all activity ended: the waiting commands, the free values used, the numbering of the model, the flash, the fuses and the pins
stay. -/
def offState (s : State) : State :=
  { pending := s.pending, now := 0, fresh := s.fresh, dueAborts := [], dueHrt := [], csr := [], hearths := [], graphs := [], slices := [], mcast := [],
    hbm := Hbm.zero, xlts := [], walks := [], walkCache := [], parts := [], nextKey := s.nextKey, links := [], ports := [],
    nextPkt := s.nextPkt, sflows := [], rflows := [], nextFlow := s.nextFlow, colIn := [], cols := [], qps := [],
    hport := ⟨false, 0, 0, [], 0, 1, []⟩, tx := [], held := false, away := false, colUnl := [], keyRun := none, repRun := none, coldStarts := 0,
    ipfix := ⟨[], []⟩, loops := [], alert := 0, stk := stkOff s.stk }

/-! Configuration (R539–R541). -/

/-- The DEVICE section. -/
def cfgDevice (s : State) (d : List Byte) : State :=
  let fl := lv d 3 1
  let s1 := wr s R.fabAddr (dvAddr d + fieldAt 16 1 1)
  let s2 := wrf (wr s1 R.hstMacAddr (lv d 4 6)) R.hstCtrl 4 12 (lv d 10 2)
  let s3 := wrf (wrf s2 R.errCap 31 1 (bits fl 0 1)) R.secCtrl 2 1 (bits fl 1 1)
  let s4 := wr s3 R.hstIpCfg (lv d 12 4 + fieldAt 32 1 (bits fl 2 1) + fieldAt 33 1 (bits fl 3 1))
  let s5 := wr (wr s4 R.hstIp6Lo (lv d 16 8)) R.hstIp6Hi (lv d 24 8)
  let s6 := wrf s5 (R.hstQpCtrlQ 1024) 23 1 (bits fl 4 1)
  let s7 := wr (wr s6 (R.hstQpPeerQ 1024) (lv d 32 3 + fieldAt 32 32 (lv d 36 4))) (R.hstQpMacQ 1024) (lv d 40 6)
  let s8 := wr (wr s7 (R.hstQpIpLoQ 1024) (lv d 48 8)) (R.hstQpIpHiQ 1024) (lv d 56 8)
  let s9 := wr s8 (R.hstQpPsnQ 1024) (lv d 64 3 + fieldAt 32 24 (lv d 68 3))
  wrf (wr s9 R.telIpfixPen (lv d 72 4)) R.hstStatus 1 1 (bits (lv d 2 1) 0 1)

/-- The PORTS section: LNK_PORT_CFG_p, and LNK_CFG of each link of a port. -/
def cfgPorts (s : State) (d : List Byte) : State :=
  (List.range 18).foldl (fun t p =>
    let e := ptEntry d p
    let t1 := wr t (R.lnkPortCfgP p) (fieldAt 0 18 (ptLinks d p) + fieldAt 18 2 (ptClass d p) + fieldAt 20 1 (b1 (ptOn d p)))
    ((List.range 18).filter (fun n => bit (ptLinks d p) n)).foldl (fun u n =>
      wr u (R.lnkCfg n) (ptClass d p + fieldAt 8 5 p + fieldAt 16 8 (lv e 6 1) + fieldAt 24 4 (lv e 7 1) + fieldAt 28 4 (lv e 8 1))) t1) s

/-- The TOPOLOGY and ROUTES sections. -/
def cfgTopo (s : State) (t r : List Byte) : State :=
  let s1 := wr s R.fabTopo (tpKind t + fieldAt 4 4 (tpSize t 0 - 1) + fieldAt 8 4 (tpSize t 1 - 1) + fieldAt 12 4 (tpSize t 2 - 1))
  let s2 := wr s1 R.fabTopoHash (lv (sha3 t) 0 8)
  if tpKind t ≠ 2 then s2
  else
    let s3 := (List.range 18).foldl (fun u p => wr u (R.fabAdjP p) (tpAdj t (ownDev s) p)) s2
    (List.range 4096).foldl (fun u d => wr u (R.fabRouteD d) (bits (lv r (4 * d) 4) 0 14)) s3

/-- The TUNING section, written over the reset values where it is present. -/
def cfgTuning (s : State) (t : List Byte) : State :=
  if t.isEmpty then s
  else
    let s1 := wr (wr (wr s R.fabE2eCfg (lv t 0 8)) R.telDmpCfg (lv t 8 8)) R.telDmpLim (lv t 16 8)
    (List.range 4).foldl (fun u f => wr u (R.pwrFbCapF f) (lv t (24 + 8 * f) 8)) s1

/-- The image's settings, and the management queue pair at RTS on priority 7 (R430). -/
def cfgImage (s : State) (m : Img) : State :=
  let s1 := cfgTuning (cfgTopo (cfgPorts (cfgDevice s m.dev) m.ports) m.topo m.routes) m.tuning
  wrf (wrf s1 (R.hstQpCtrlQ 1024) 0 3 1) (R.hstQpCtrlQ 1024) 3 3 7

/-! The stages (R543). -/

/-- Boot failure: DEV_FAULT_N is asserted until the next cold start (R532, R538). -/
def bootStop (s : State) : State := stkMod s (fun k => { k with phase := .stopped, faultN := true, bootIn := none })

/-- Which copy runs (R538): the copy in use, else the other; the image, the copy, and the registers that record the checks. -/
def bootCopy (s : State) (inUse : Nat) : Option (Img × Nat) × State :=
  let r := copyCheck s inUse
  match r.1 with
  | .ok m => (some (m, inUse), r.2)
  | .error _ =>
    let q := copyCheck r.2 (1 - inUse)
    match q.1 with
    | .ok m => (some (m, 1 - inUse), q.2)
    | .error _ => (none, q.2)

/-- IN_USE, COLD_STARTS, retired set and out-of-service set of the health record; blank: 0 and empty sets (R547). -/
def bootHealth (s : State) : State :=
  match healthNow s with
  | none => { wr s R.kndStatus (fieldAt 3 1 1) with coldStarts := 0 }
  | some (_, b) =>
    let s1 := (List.range 20).foldl (fun t k => wrf t (R.memRetired k) 0 32 (lv b (24 + 4 * k) 4)) (wr s R.kndStatus (fieldAt 0 1 (lv b 8 1)))
    let s2 := (List.range 256).foldl (fun t h => if bit (lv b (104 + h / 8) 1) (h % 8) then
      let r := R.errHrtOosI (h / 64)
      wr (hput t h { Hearth.fresh with oos := true }) r (setBits (rd t r) (h % 64) 1 1) else t) s1
    { s2 with coldStarts := lv b 12 4 }

/-- Stage 3: the highest SEQ of the ash area (R519, R548). -/
def bootAsh (s : State) : State :=
  let seqs := (List.range 1024).map (fun i => let b := flRead s (ashSlot i) 16; if lv b 0 4 = 0x31485341 then lv b 12 4 else 0)
  wr s R.stkAshHead (fieldAt 32 32 (seqs.foldl max 0))

/-- Stage 3: the certificate (R549). -/
def bootCert (s : State) : State :=
  let b := flRead s 0x4420000 3748
  let own := leBytes 8 deviceId ++ (List.range 1312).map Config.identityKey
  stkMod (wrf s R.kndStatus 4 1 (b1 (decide (b.take 1320 = own)))) (fun k => { k with cert := b })

/-- Stages 6 to 8: a pseudo-channel that fails is retired, and the live list is built (R232, R545). -/
def bootHbm (s : State) (failed : List (Nat × Nat)) : State :=
  let s1 := failed.foldl (fun t f => if f.1 < 20 && f.2 < 32 then
    wr t (R.memRetired f.1) (setBits (rd t (R.memRetired f.1)) f.2 1 1) else t) s
  { s1 with hbm := { Hbm.zero with dead := retiredList s1 } }

/-- Stages 3 to 10, with the copy that verified. -/
def bootRun (s : State) (b : BootInputs) (m : Img) (copy : Nat) : State :=
  let inUse := rdf s R.kndStatus 0 1
  let s1 := wr s R.kndStatus (setBits (setBits (setBits (rd s R.kndStatus) 1 1 copy) 2 1 (b1 b.octal)) 8 8 b.flashMhz)
  let n := s1.coldStarts + 1
  let s2 := healthWrite { s1 with coldStarts := n }
  let s3 := wr s2 R.devStatus (fieldAt 0 32 n + fieldAt 32 4 (b.lastStart % 2) + fieldAt 36 1 copy + fieldAt 37 1 (b1 (decide (copy ≠ inUse))))
  let s4 := bootCert (bootAsh s3)
  let s5 := fwInfo (stkMod s4 (fun k => { k with phase := .run, fw0 := ⟨true, m.fwDigest, m.fwVersion, m.svn⟩, imgDigest := m.digest }))
  let s6 := wr s5 R.stkStatus (fieldAt 4 1 1)
  if !b.bridgesOk then fatal s6 2 0 true
  else
    let s7 := selfTestsFail s6 b.failedHearths
    let s8 := bootHbm s7 b.failedPcs
    let s9 := if b.failedPcs.isEmpty then s8 else healthWrite s8
    let c := cfgImage { s9 with csr := [] } m
    let base := csrPut c.csr R.stkStatus (fieldAt 0 3 1 + fieldAt 4 1 1)
    let s10 := stkMod { s9 with csr := s9.csr.foldl (fun t e => tput t e.1 e.2) base } (fun k => { k with base := base })
    let times := b.stageTimes.take 10
    let s11 := (List.range times.length).foldl (fun t i => wr t (R.kndStageTimeS (i + 1)) ((times.drop i).headD 0)) s10
    let s12 := stkState { s11 with now := 275 * times.getLastD 0, qps := [(1024, mgmtQp s11)],
                                   hport := { s11.hport with up := bit (rd s11 R.hstCtrl) 2 } } 1
    ipfixRefresh (routesAgain (linksStart s12))

/-- Stages 1 and 2: the PLLs are fed from the valid inputs, the fuses are latched, the health record names the copy in use, and a copy is
verified. -/
def boot (s : State) (b : BootInputs) : State :=
  let both := s.stk.refA && s.stk.refB
  let s1 := stkMod (offState s) (fun k =>
    { k with faultN := false, thermN := false, coreB := !k.refA, serdesB := both || !k.refA })
  let f := s1.stk.fuses
  let s2 := wr s1 R.devFuses (b1 f.owner.isSome + fieldAt 8 16 f.svnMin)
  let s3 := bootHealth s2
  let r := bootCopy s3 (rdf s3 R.kndStatus 0 1)
  match r.1 with
  | none => bootStop r.2
  | some (m, copy) => bootRun r.2 b m copy

/-! The commands. -/

/-- RESET_ASSERT: DEV_RESET_N or DEV_PWROK falls; all activity ends (R531). -/
def resetAssert (s : State) : State := offState (flashAbort s)

/-- COLD_START: DEV_RESET_N rises; with no valid reference input the ROM samples on (R530, R532). -/
def coldStart (s : State) (b : BootInputs) : State :=
  let s1 := stkMod (offState (flashAbort s)) (fun k => { k with refA := b.refA, refB := b.refB, faultN := false, thermN := false })
  if b.refA || b.refB then boot s1 b else stkMod s1 (fun k => { k with phase := .sampling, bootIn := some b })

/-- REFCLK_SAMPLE: the ROM samples the inputs again (R532). -/
def refclkSample (s : State) (a b : Bool) : State :=
  match s.stk.phase, s.stk.bootIn with
  | .sampling, some i =>
    let s1 := stkMod s (fun k => { k with refA := a, refB := b })
    if a || b then boot s1 { i with refA := a, refB := b } else s1
  | _, _ => s

/-- REFCLK_TIMEOUT: 100 ms after DEV_RESET_N rose no input is valid (R532). -/
def refclkTimeout (s : State) : State := if s.stk.phase = .sampling then bootStop s else s

end Sys2Proof.Machine
end

