-- ==== Sys2Proof/Machine/Report.lean ====
section
/-!
DEFINITION. Attestation reports (15): the platform report (R462), the tenant report (R463), their signature (R461) and completion (R464).
-/

namespace Sys2Proof.Machine

/-- SEC_NONCE_0 to 3. -/
def nonce (s : State) : List Byte := (List.range 4).flatMap (fun i => leBytes 8 (rd s (R.secNonceI i)))

def zeros (n : Nat) : List Byte := List.replicate n 0

/-- The signature over the SHA3-256 digest of the bytes before it (R461). -/
def signed (b : List Byte) : List Byte := b ++ (List.range 2420).map (Config.signByte (sha3 b))

/-- FORMAT, LENGTH, DEVICE_ID and NONCE. -/
def reportHead (s : State) (format len : Nat) : List Byte := leBytes 2 format ++ zeros 2 ++ leBytes 4 len ++ leBytes 8 deviceId ++ nonce s

/-- Digests of the running firmware and of the image in use. -/
def reportDigests (s : State) : List Byte := dig32 (fwRun s).digest ++ dig32 s.stk.imgDigest

/-- A partition's entry of the platform report. -/
def partEntry (s : State) (p : Nat) : List Byte :=
  let x := partGet s p
  leBytes 1 x.st ++ zeros 1 ++ leBytes 2 x.units ++ leBytes 4 x.count ++ leBytes 2 (colSlice s p) ++ zeros 6

/-- The platform report before its signature. -/
def platformBytes (s : State) : List Byte :=
  reportHead s 1 5460 ++ leBytes 4 s.coldStarts ++ leBytes 4 (rd s R.stkWarmResets) ++ leBytes 4 (telSec s) ++ leBytes 1 (b1 Config.lcx) ++
    leBytes 1 (rdf s R.kndStatus 1 1) ++ leBytes 2 (ownDev s) ++ reportDigests s ++ leBytes 8 (rd s R.fabTopoHash) ++
    leBytes 2 (liveCount s.hbm.dead) ++ zeros 6 ++ (List.range 16).flatMap (partEntry s) ++
    (List.range 18).flatMap (fun p => leBytes 8 (rd s (R.secPeerP p))) ++ (List.range 1312).map Config.identityKey ++
    (List.range 1184).map (Config.kemKey s.coldStarts)

/-- The bitmap of the hearths of a partition. -/
def hearthBytes (s : State) (p : Nat) : List Byte := (List.range 32).map (fun i =>
  BitVec.ofNat 8 ((List.range 8).map (fun j => if (hget s (8 * i + j)).part = some p then 2 ^ j else 0)).sum)

/-- The tenant report before its signature. -/
def tenantBytes (s : State) (p : Nat) : List Byte :=
  let x := partGet s p
  reportHead s 2 2644 ++ leBytes 4 x.count ++ leBytes 1 p ++ leBytes 1 (b1 x.zeroed + 2 + 4 * b1 (hbmOver s p || chmOver s p)) ++
    leBytes 2 x.units ++ leBytes 2 (colSlice s p) ++ leBytes 2 (ownDev s) ++ leBytes 4 s.coldStarts ++ reportDigests s ++
    leBytes 4 (xLo s p) ++ leBytes 4 (xHi s p) ++ leBytes 4 (xQuota s p) ++ leBytes 4 (quotaLines s p) ++ leBytes 2 (partRate s p) ++ zeros 2 ++
    leBytes 4 (vPartKeys s p) ++ leBytes 4 x.seqMem ++ leBytes 4 x.seqFab ++
    (List.range 4).flatMap (fun i => leBytes 8 (rd s (R.secKcvPK p i))) ++ hearthBytes s p

/-- SEC_REPORT_STATUS. -/
def reportStat (s : State) (busy : Bool) (result len : Nat) : State :=
  wr s R.secReportStatus (b1 busy + fieldAt 1 3 result + fieldAt 16 16 len)

/-- A report begins: the buffer is empty until it ends. -/
def reportStart (s : State) (b : List Byte) : State :=
  reportStat { stkMod s (fun k => { k with report := [] }) with repRun := some (signed b) } true 0 0

/-- A report asked for while one is in progress is not performed: RESULT shows BUSY (R471), and BUSY and LENGTH stay the running report's. -/
def reportWhileBusy (s : State) : State := wrf s R.secReportStatus 1 3 2

/-- PLATFORM_REPORT. -/
def platformReport (s : State) : State := if s.repRun.isSome then reportWhileBusy s else reportStart s (platformBytes s)

/-- TENANT_REPORT: refused for a partition that is not FORMED, which SEC_ERR_LOG records. -/
def tenantReport (s : State) (p : Nat) : State :=
  if 16 ≤ p then s
  else if s.repRun.isSome then reportWhileBusy s
  else if !prtFormed s p then secErr (reportStat s false 1 (rdf s R.secReportStatus 16 16)) 4 p 1 0 0
  else reportStart s (tenantBytes s p)

/-- SEC_REPORT_DONE: the signed report is in SEC_REPORT_BUF. -/
def secReportDone (s : State) : State :=
  match s.repRun with
  | none => s
  | some b =>
    secBump (reportStat { stkMod s (fun k => { k with report := b }) with repRun := none } false 0 b.length) R.secReports 1

end Sys2Proof.Machine
end

