-- ==== Sys2Proof/Machine/Csr.lean ====
section
/-!
DEFINITION. Control space: the map (R9–R12, R35), windows (R36, R446), reads, writes (R13, R14, R576), counter and log clears (R477, R575), and the
command registers, which call the same operations as the table's own rows.
-/

namespace Sys2Proof.Machine

/-! The map (R35). -/

/-- The block, instance and offset of an address; none where it lies in no block. -/
def locate (a : Nat) : Option (Blk × Nat × Nat) :=
  let sub := fun (b : Blk) (i : Nat) => some (b, i, a - blkBase b i)
  if a < 0x100000 then sub .dev 0
  else if a < 0x1000000 then sub .stk 0
  else if a < 0x1400000 then sub .chm ((a - 0x1000000) / 0x100000)
  else if 0x2000000 ≤ a && a < 0x2140000 then sub .mem ((a - 0x2000000) / 0x10000)
  else if 0x3000000 ≤ a && a < 0x3200000 then sub .lnk ((a - 0x3000000) / 0x10000)
  else if 0x3200000 ≤ a && a < 0x3400000 then sub .lnk 0
  else if 0x3400000 ≤ a && a < 0x3800000 then sub .fab 0
  else if 0x3800000 ≤ a && a < 0x4000000 then sub .col 0
  else if 0x4000000 ≤ a && a < 0x5000000 then sub .hst 0
  else if 0x5000000 ≤ a && a < 0x5800000 then sub .prt 0
  else if 0x5800000 ≤ a && a < 0x6000000 then sub .sec 0
  else if 0x6000000 ≤ a && a < 0x6400000 then sub .tel 0
  else if 0x6400000 ≤ a && a < 0x6800000 then sub .pwr 0
  else if 0x6800000 ≤ a && a < 0x7000000 then sub .err 0
  else if 0x7000000 ≤ a && a < 0x8000000 then sub .knd 0
  else if 0x100000000 ≤ a && a < 0x110000000 then
    let h := (a - 0x100000000) / 0x100000
    let o := a % 0x100000
    if o < 0x10000 then sub .mxa h else if o < 0x20000 then sub .vec h else if o < 0x30000 then sub .spd h else if o < 0x40000 then sub .flu h
    else sub .blw h
  else if 0x200000000 ≤ a && a < 0x210000000 then
    let p := (a - 0x200000000) / 0x1000000
    let o := a % 0x1000000
    if o < 0x4000 then sub .xlt p else if o < 0x8000 then sub .grf p else sub .atn p
  else none

/-- The indices of a row's register at an offset of its block. -/
def rowIndex (r : RegRow) (off : Nat) : Option (Nat × Nat) :=
  if off < r.off then none
  else
    let d := off - r.off
    let i := if r.s1 = 0 then 0 else d / r.s1
    let e := d - i * r.s1
    let j := if r.s2 = 0 then 0 else e / r.s2
    if i < r.n1 && j < r.n2 && e = j * r.s2 then some (i, j) else none

/-- The register at an offset of a block: its name, its row, its indices; links beyond 17 have none. -/
def findRow (b : Blk) (inst off : Nat) : Option (RegId × RegRow × Nat × Nat) :=
  if b = .lnk && (18 ≤ inst || (0 < inst && 0x10000 ≤ off)) then none
  else (blkRows b).findSome? (fun e => (rowIndex e.2 off).map (fun ij => (e.1, e.2, ij.1, ij.2)))

/-- Does an address hold a counter that CNT_CLR clears: every counter but STK_WARM_RESETS (R528). -/
def isCounter (a : Nat) : Bool :=
  if a = R.stkWarmResets.addr then false
  else match locate a with
  | none => false
  | some (b, i, off) => match findRow b i off with | none => false | some (_, r, _, _) => r.cnt ≠ 0

/-- Bytes of a block's instance that hold its registers. -/
def blkSize (b : Blk) : Nat :=
  match b with
  | .dev => 0x100000 | .stk => 0xF00000 | .chm => 0x100000 | .mem => 0x10000 | .lnk => 0x10000 | .fab => 0x400000 | .col => 0x800000
  | .hst => 0x1000000 | .prt => 0x800000 | .sec => 0x800000 | .tel => 0x400000 | .pwr => 0x400000 | .err => 0x800000 | .knd => 0x1000000
  | .mxa => 0x10000 | .vec => 0x10000 | .spd => 0x10000 | .flu => 0x10000 | .blw => 0x10000
  | .xlt => 0x4000 | .grf => 0x4000 | .atn => 0x4000

/-! Clears. -/

/-- COUNTER_CLEAR: a block's counters are sampled for the export and become 0 (R477). -/
def counterClear (s : State) (b : Blk) (inst : Nat) : State :=
  let lo := blkBase b inst
  let n := blkSize b
  let s1 := blkSample s lo n
  let stays := fun (a : Nat) => decide (a < lo) || decide (lo + n ≤ a) || !isCounter a
  { s1 with csr := s1.csr.filter (fun e => stays e.1), ipfix := { s1.ipfix with last := s1.ipfix.last.filter (fun e => stays e.1) } }

/-- The error log of a block and its count; for ERR_, instance 0 is ERR_DEV_LOG and 1 ERR_UNIT_LOG. -/
def errLogOf (b : Blk) (i : Nat) : Option (Reg × Reg) :=
  match b with
  | .mxa => some (R.mxaErrLog i, R.mxaErrCount i)
  | .vec => some (R.vecErrLog i, R.vecErrCount i)
  | .spd => some (R.spdErrLog i, R.spdErrCount i)
  | .flu => some (R.fluErrLog i, R.fluErrCount i)
  | .blw => some (R.blwErrLog i, R.blwErrCount i)
  | .chm => some (R.chmErrLog i, R.chmErrCount i)
  | .mem => some (R.memErrLog i, R.memErrCount i)
  | .xlt => some (R.xltErrLog i, R.xltErrCount i)
  | .grf => some (R.grfErrLog i, R.grfErrCount i)
  | .atn => some (R.atnErrLog i, R.atnErrCount i)
  | .lnk => some (R.lnkErrLog i, R.lnkErrCount i)
  | .fab => some (R.fabErrLog, R.fabErrCount)
  | .col => some (R.colErrLog, R.colErrCount)
  | .hst => some (R.hstErrLog, R.hstErrCount)
  | .prt => some (R.prtErrLog, R.prtErrCount)
  | .sec => some (R.secErrLog, R.secErrCount)
  | .err => some (if i = 0 then (R.errDevLog, R.errDevCount) else (R.errUnitLog, R.errUnitCount))
  | .knd => some (R.kndErrLog, R.kndErrCount)
  | .dev | .stk | .tel | .pwr => none

/-- ERR_LOG_CLEAR: writing 1 to VALID clears VALID, COUNT and OVF (R575). -/
def errLogClear (s : State) (b : Blk) (i : Nat) : State :=
  match errLogOf b i with
  | none => s
  | some (l, c) => wr (wrf s l 0 1 0) c 0

/-! Windows (R36). -/

/-- Does an address lie in the window of a data queue pair's partition. -/
def csrWindow (s : State) (p a : Nat) : Bool :=
  match locate a with
  | some (b, i, _) =>
    match b with
    | .mxa | .vec | .spd | .flu | .blw => decide ((hget s i).part = some p)
    | .xlt | .grf | .atn => decide (i = p)
    | _ => false
  | none => false

/-- May a queue pair reach an address. -/
def reaches (s : State) (q a : Nat) : Bool := if q = 1024 then (locate a).isSome else csrWindow s (qpPart q) a

/-- A refused access is counted and recorded, but for the management queue pair (R446). -/
def accessRefused (s : State) (q a : Nat) : State :=
  if q = 1024 then s
  else prtErr (bump s false (R.prtAccessErrP (qpPart q)) 1) 2 (qpPart q) 0 a

/-! Reads. -/

/-- Does a read show a sensor, whose value is open. -/
def sensor (id : RegId) : Bool := match id with | .pwrBdStatusD | .memStatus => true | _ => false

/-- The reset value of a row's register (R413: HST_PFC_THR_3 and HST_PFC_THR_7 differ from the others). -/
def rowRst (id : RegId) (r : RegRow) (i : Nat) : Nat := if id = .hstPfcThrI && (i = 3 || i = 7) then 0x80008000C0 else r.rst

/-- The value that a read returns (R12, R13): unassigned addresses and write-only registers read 0. -/
def regRead (s : State) (a : Nat) : Nat :=
  match locate a with
  | none => 0
  | some (b, inst, off) =>
    match findRow b inst off with
    | none => 0
    | some (id, r, i, j) => (viewOf s id inst i j).getD (rd s ⟨a, rowRst id r i⟩)

/-- After a read of a sensor, the next reading is another open value. -/
def readDone (s : State) (a : Nat) : State :=
  match locate a with
  | none => s
  | some (b, inst, off) =>
    match findRow b inst off with
    | some (id, _, _, _) => if sensor id then { s with fresh := s.fresh + 1 } else s
    | none => s

/-! Writes. -/

/-- `old` with the bits of a mask taken from `v`. -/
def maskIn (old m v : Nat) : Nat := (old - (old &&& m)) + (v &&& m)

/-- FAB_ registers that the Stoker writes on the host's behalf (R405). -/
def fabOnBehalf (id : RegId) : Bool := match id with | .fabE2eCfg | .fabAdjP | .fabVcmapV | .fabRouteD => true | _ => false

/-- The bits that a caller may write (R13, R153, R184, R225, R278, R405). -/
def writeMask (who : Caller) (id : RegId) (r : RegRow) (i : Nat) : Nat :=
  let ring1 := i = 1 && (id = .xltOpqBaseG || id = .xltOpqCfgG || id = .xltOpqTailG)
  match who with
  | .stoker => r.rw ||| r.stk
  | .graphEngine _ => if id = .chmMcgPG then r.stk else 0
  | .qp q =>
    if ring1 then 0
    else if q = 1024 then (if fabOnBehalf id then r.rw ||| r.stk else r.rw)
    else if id = .spdCtrl then 1 else r.rw

/-- Is the write one that the Stoker makes on its own account. -/
def ownAccount (who : Caller) : Bool := match who with | .stoker => true | _ => false

/-- A caller that is no partition. -/
def notPart (who : Caller) : Bool := match who with | .stoker => true | .qp q => decide (q = 1024) | .graphEngine _ => false

/-- CNT_CLR at a bit of a written value. -/
def clrBit (s : State) (b : Blk) (inst v i : Nat) : State := if bit v i then counterClear s b inst else s

/-- MXA_CTRL.ARRAY_EN: a bound task that the new value refuses is unbound and placed again (R95). -/
def mxaArrayEn (s : State) (h en : Nat) : State :=
  if 256 ≤ h then s
  else
    let s1 := wrf s (R.mxaCtrl h) 0 2 en
    match (hget s h).next with
    | none => s1
    | some t => if schedOk t.desc (bits en 0 2) t.progs t.sched then s1 else unbind s1 h

/-- Data VCs that name a SLICE, with entry `v` of FAB_VCMAP at value `w`. -/
def vcsOf (s : State) (slice v w : Nat) : Nat :=
  ((List.range 24).filter (fun u => let m := if u = v then w else rd s (R.fabVcmapV u); bit m 0 && bits m 4 12 = slice)).length

/-- The allowance of R440: floor(3n / 2) data VCs for each formed partition of that slice. -/
def vcmapOk (s : State) (v w : Nat) : Bool :=
  !bit w 0 || (List.range 16).all (fun p =>
    !prtFormed s p || colSlice s p ≠ bits w 4 12 || decide (vcsOf s (bits w 4 12) v w ≤ 3 * popcount (partGet s p).units / 2))

/-- HST_QP_CTRL_q: the other fields only while RESET, RTS from RESET, RESET from any state (R432, R434). The management queue pair has no ring. -/
def qpCtrlWrite (s : State) (q new : Nat) : State :=
  if 1024 < q then s
  else if qpState s q ≠ 0 then (if bits new 0 3 = 0 && setBits (rd s (R.hstQpCtrlQ q)) 0 3 0 = new then qpDrop s q else s)
  else
    let s1 := wr s (R.hstQpCtrlQ q) (setBits new 0 3 0)
    if bits new 0 3 ≠ 1 then s1 else if q = 1024 then qpPut (wrf s1 (R.hstQpCtrlQ q) 0 3 1) q (mgmtQp s1) else qpRts s1 q

/-- May a caller write the HST_QP_ registers of a queue pair: those of the management queue pair only the Stoker (R430). -/
def qpMine (who : Caller) (q : Nat) : Bool := q < 1024 || (q = 1024 && ownAccount who)

/-- STK_CMD (R528, R529). -/
def stkCmd (s : State) (v : Nat) : State :=
  let h := bits v 8 8
  match bits v 0 4 with
  | 0 => s
  | 1 => warmReset s (bit v 4)
  | 2 => hrtService s h
  | 3 => hrtReturn s h
  | 4 => fwSwitch s (bits v 16 1)
  | 5 => digCheck s
  | 6 => releaseHold s h
  | n => cmdRefuse s n 2

/-- PRT_CMD (R468). -/
def prtCmd (s : State) (v : Nat) : State :=
  let p := bits v 4 4
  let m := bits v 16 16
  match bits v 0 3 with
  | 1 => formOp s p m (bit v 8)
  | 2 => growOp s p m
  | 3 => shrinkOp s p m
  | 4 => dissolveOp s p
  | _ => s

/-- SEC_KEY_CMD (R471). -/
def secKeyCmd (s : State) (v : Nat) : State :=
  let p := bits v 4 4
  let va := 64 * bits v 16 42
  match bits v 0 3 with
  | 1 => rotateImport s p va
  | 2 => rotateGen s p
  | 3 => loadFabOp s p va
  | 4 => clearFabOp s p (bits v 8 1)
  | _ => s

/-- SEC_REPORT_CMD (R471). -/
def secReportCmd (s : State) (v : Nat) : State :=
  match bits v 0 2 with
  | 1 => platformReport s
  | 2 => tenantReport s (bits v 4 4)
  | _ => s

/-- KND_FLASH_CMD (R550, R555). -/
def kndFlashCmd (s : State) (v : Nat) : State :=
  let a := bits v 8 27
  let n := bits v 35 17
  match bits v 0 3 with
  | 1 => flashErase s a
  | 2 => flashProgram s a n
  | 3 => flashReadCmd s a n
  | 4 => flashVerify s (bits v 3 1)
  | o => flashRefuse s o 3

/-- KND_CMD (R553, R555). -/
def kndCmd (s : State) (v : Nat) : State :=
  match bits v 0 2 with
  | 1 => ownerFuse s
  | 2 => svnRaise s
  | _ => s

/-- COL_PART_CTRL_p (R389, R404, R407); SLICE changes only while STATE is 0 (R408). -/
def colCtrlWrite (s : State) (p new v : Nat) : State :=
  let old := rd s (R.colPartCtrlP p)
  if bits old 2 2 ≠ 0 && bits new 4 12 ≠ bits old 4 12 then s
  else
    let s1 := wr s (R.colPartCtrlP p) new
    let s2 := if bit v 0 then colLoad s1 p else if bit v 1 then colUnload s1 p else s1
    if bit v 16 then colReset s2 p (bits v 24 8) else s2

/-- LNK_CTRL (R366–R368): the Stoker's bits on its own account only. -/
def lnkCtrlWrite (s : State) (who : Caller) (n new v : Nat) : State :=
  let s1 := clrBit (wrf s (R.lnkCtrl n) 0 1 new) .lnk n v 1
  if !ownAccount who then s1
  else
    let s2 := wrf s1 (R.lnkCtrl n) 4 1 (bits new 4 1)
    let s3 := if bit new 3 = bit (rd s2 (R.lnkCtrl n)) 3 then s2 else linkDisable s2 n (bit new 3)
    if bit v 2 then linkRetrain s3 n else s3

/-- CHM_MCG_p_g of one slice: the group starts anew, with no member and no entry there (DESIGN CHOICE, log 67: R205 does not say what becomes of a
group in use). -/
def mcgWrite (s : State) (sl p g new : Nat) : State :=
  wr (slMod { s with mcast := tdel s.mcast (mcKey p g) } sl (fun x => { x with entries := x.entries.filter (fun y => !(y.part = p && y.group = g)) }))
    (R.chmMcgPG sl p g) new

/-- What a write does that its ranges allow: `r` the register, `old` and `new` its values, `v` the value written, `i` and `j` its indices. -/
def regEffect (s : State) (who : Caller) (b : Blk) (inst : Nat) (id : RegId) (i j : Nat) (r : Reg) (old new v : Nat) : State :=
  match id with
  | .mxaCtrl =>
    let s1 := wrf s r 2 1 (bits new 2 1)
    clrBit (if bits new 0 2 = bits old 0 2 then s1 else mxaArrayEn s1 inst (bits new 0 2)) b inst v 3
  | .vecCtrl | .blwCtrl | .chmCtrl | .memCtrl | .grfCtrl | .atnCtrl | .fabCtrl | .colCtrl | .secCtrl | .errCtrl => clrBit (wr s r new) b inst v 1
  | .spdCtrl =>
    let s1 := clrBit (wr s r new) b inst v 1
    if bit v 2 && notPart who then spdScrub s1 inst else s1
  | .spdHandleH => if ownAccount who then handleWrite s inst i v else s
  | .fluCtrl =>
    let s1 := clrBit (wr s r new) b inst v 1
    if bit v 3 && ownAccount who then fluHintClr s1 inst else s1
  | .chmPartQuotaP =>
    -- the Stoker never brings the sum of the quotas above the general region (R196; DESIGN CHOICE, log 67)
    if generalLines < (((List.range 16).filter (· ≠ i)).map (chmQuota s inst)).sum + bits new 0 20 then s else wr s r new
  | .chmScrub => if ownAccount who && bit v 4 then chmScrub s inst (bits v 0 4) else s
  | .chmMcgPG =>
    if j = 0 then s else
    match who with
    | .stoker => mcgWrite s inst i j new
    | .graphEngine p => if p = i then mcgWrite s inst i j new else s
    | .qp _ => s
  | .memRetired => if new = old then s else healthWrite (wr s r new)
  | .memTrain => if ownAccount who && bit v 0 then retrainStart s inst else s
  | .xltCtrl =>
    let s1 := clrBit (wr s r new) b inst v 1
    let s2 := if bit v 2 then xltResume s1 inst 0 else s1
    if bit v 3 && ownAccount who then xltResume s2 inst 1 else s2
  | .xltOpqBaseG | .xltOpqCfgG =>
    if rd s (R.xltOpqHeadG inst i) = rd s (R.xltOpqTailG inst i) then wr s r new else s
  | .xltOpqTailG => if i = 0 || ownAccount who then opqTailWrite s inst i (bits v 0 32) else s
  | .xltRsvBase | .xltRsvCfg => if rd s (R.xltRsvHead inst) = rd s (R.xltRsvTail inst) then wr s r new else s
  | .xltRelBase | .xltRelCfg => if rd s (R.xltRelHead inst) = rd s (R.xltRelTail inst) then wr s r new else s
  | .xltRelHead => releaseRingHeadWrite s inst (bits v 0 32)
  | .grfMixTable => mixTableOp s inst new
  | .lnkCtrl => lnkCtrlWrite s who inst new v
  | .lnkCfg => if bits new 0 16 = bits old 0 16 then wr s r new else s
  | .lnkPortCfgP | .fabAddr | .fabTopo | .fabTopoHash => s
  | .fabAdjP =>
    let s1 := wr s r new
    if bit v 24 then peerChangedClear s1 i else s1
  | .fabVcmapV => if vcmapOk s i new then wr s r new else s
  | .colPartCtrlP => colCtrlWrite s i new v
  | .hstCtrl =>
    let s1 := clrBit (wr s r new) b inst v 1
    { s1 with hport := { s1.hport with up := s1.hport.up && bit new 2 } }
  | .hstIpfixCfg =>
    let s1 := wr s r new
    if bit new 0 && new ≠ old then ipfixRefresh s1 else s1
  | .telIpfixPen => if new = old then s else ipfixRefresh (wr s r new)
  | .hstQpCtrlQ => if qpMine who i then qpCtrlWrite s i new else s
  | .hstQpPeerQ | .hstQpMacQ | .hstQpIpHiQ | .hstQpIpLoQ | .hstQpPsnQ | .hstQpCqQ => if qpMine who i && qpState s i = 0 then wr s r new else s
  | .prtCmd => prtCmd (if prtBusy s then s else clrBit s b inst v 3) v
  | .prtQuotaP => prtQuotaWrite s i new
  | .prtRateP => prtRateWrite s i new
  | .secKeyCmd => secKeyCmd s v
  | .secReportCmd => secReportCmd s v
  | .secFabCtrlP => if rdf s (R.colPartCtrlP i) 2 2 = 2 then s else wr s r new
  | .telCtrl =>
    let s1 := clrBit (wr s r new) b inst v 1
    let s2 := if bit v 2 then histSnap s1 else s1
    if bit v 3 then histClr s2 else s2
  | .pwrCtrl => clrBit (wr s r new) b inst v 2
  | .errInject => errInjectArm s new
  | .errDevLog => if bit v 0 then errLogClear s .err 0 else s
  | .errUnitLog => if bit v 0 then errLogClear s .err 1 else s
  | .errHrtFaultI => wr s r (old - (old &&& v))
  | .stkCmd => stkCmd (clrBit s b inst v 5) v
  | .kndFlashCmd => kndFlashCmd s v
  | .kndCmd => kndCmd s v
  | .mxaErrLog | .vecErrLog | .spdErrLog | .fluErrLog | .blwErrLog | .chmErrLog | .memErrLog | .xltErrLog | .grfErrLog | .atnErrLog | .lnkErrLog
  | .fabErrLog | .colErrLog | .hstErrLog | .prtErrLog | .secErrLog | .kndErrLog => if bit v 0 then errLogClear s b inst else s
  | .spdCeLog | .chmCeLog | .memCeLog | .colNanLogP => if bit v 0 then wrf s r 0 1 0 else s
  | _ => if new = old then s else wr s r new

/-- A write by a caller that reaches the address: whole or not at all (R576). -/
def regWrite (s : State) (who : Caller) (a v : Nat) : State :=
  match locate a with
  | none => s
  | some (b, inst, off) =>
    match findRow b inst off with
    | none => s
    | some (id, row, i, j) =>
      let r : Reg := ⟨a, rowRst id row i⟩
      let old := rd s r
      let m := writeMask who id row i
      let new := maskIn old m v
      if m ≠ 0 && !rangeOk s id i old new then s else regEffect s who b inst id i j r old new v

/-! The commands. -/

/-- A read performed for a queue pair, and its response (R423, R424); `t` is the time of its acceptance. -/
def csrReadDo (s : State) (q a ctag t : Nat) : State :=
  if !reaches s q a then histCount (hostAnswer (accessRefused s q a) q 1 1 ctag 0 0) 26 t
  else if a % 8 ≠ 0 then histCount (hostAnswer s q 1 1 ctag 0 0) 26 t
  else histCount (readDone (hostAnswer s q 1 0 ctag (regRead s a) 0) a) 26 t

/-- A write performed for a queue pair, and its response: one that is ignored or not performed is answered OK. -/
def csrWriteDo (s : State) (q a : Nat) (v : W64) (ctag t : Nat) : State :=
  if !reaches s q a then histCount (hostAnswer (accessRefused s q a) q 2 1 ctag 0 0) 26 t
  else if a % 8 ≠ 0 then histCount (hostAnswer s q 2 1 ctag 0 0) 26 t
  else histCount (hostAnswer (regWrite s (.qp q) a v.toNat) q 2 0 ctag 0 0) 26 t

/-- CSR_READ. -/
def csrReadOp (s : State) (q a ctag : Nat) : State :=
  if s.away then s else hostCmd s q (.csrRead q a ctag) (fun t s => csrReadDo s q a ctag t)

/-- CSR_WRITE. -/
def csrWriteOp (s : State) (q a : Nat) (v : W64) (ctag : Nat) : State :=
  if s.away then s else hostCmd s q (.csrWrite q a v ctag) (fun t s => csrWriteDo s q a v ctag t)

/-- A command that was held is performed. -/
def cmdDo (s : State) (q : Nat) (i : Instr) (t : Nat) : State :=
  match i with
  | .csrRead _ a c => csrReadDo s q a c t
  | .csrWrite _ a v c => csrWriteDo s q a v c t
  | .echo _ ts c => echoDo s q ts c t
  | .graphSubmit _ va _ ds => graphSubmitDo s q va ds t
  | .graphCancel _ g => graphCancelDo s q g t
  | .mixPost _ x => mixPostDo s q x t
  | _ => s

/-- Is a command one whose answer may be a record. -/
def cmdRecords (i : Instr) : Bool := match i with | .graphSubmit .. | .graphCancel .. | .mixPost .. => true | _ => false

/-- The held commands at the head of a queue, in order, up to the next that still waits (R38). -/
def heldRun (s : State) (q n : Nat) : State :=
  match n with
  | 0 => s
  | n + 1 =>
    match (qpGet s q).cmds with
    | .held i t :: r =>
      if cmdWaits s q i || !cmdsRun s q || (cmdRecords i && !recRoom s q) then s
      else heldRun (cmdsPump (cmdDo (qpMod s q (fun x => { x with cmds := r })) q i t) q 64) q n
    | _ => s

/-- A hearth's reset has ended: the accesses that it held are performed against its state after reset. -/
def heldRelease (s : State) : State := (List.range 1025).foldl (fun t q => heldRun t q 64) s

/-- REGISTER_WRITE: the effect of a write on a register, whoever makes it. -/
def registerWriteOp (s : State) (who : Caller) (a : Nat) (v : W64) : State :=
  if s.away || a % 8 ≠ 0 || accessHeld s a then s
  else
    match who with
    | .qp q => if reaches s q a then regWrite s who a v.toNat else accessRefused s q a
    | _ => regWrite s who a v.toNat

end Sys2Proof.Machine
end

