-- ==== Sys2Proof/WellFormed.lean ====
section
/-!
DEFINITION. Well-formed commands: those that name units the device has (R10, R21, R36). An event at a unit that does not exist does not happen:
the meanings leave everything as it is.
-/

namespace Sys2Proof

/-- A sensor that the device has (R491, R512). -/
def TripSite.ok (t : TripSite) : Bool :=
  match t with
  | .firebox f => decide (f < 4)
  | .baseDie d => decide (d < 4)
  | .stack k => decide (k < 20)

/-- The units named are units of the device: 256 hearths of 2 arrays, 8 flues, 2 bellows and 3 memories, 4 fireboxes, 4 slices, 20 stacks of 32
pseudo-channels, 16 partitions, 18 links and ports, 1,024 queue pairs and the management queue pair. -/
def Instr.wf (i : Instr) : Bool :=
  match i with
  | .csrRead qp _ _ => decide (qp ≤ 1024)
  | .csrWrite qp _ _ _ => decide (qp ≤ 1024)
  | .registerWrite _ _ _ => true
  | .counterClear _ _ => true
  | .errLogClear _ _ => true
  | .matmul h => decide (h < 256)
  | .tileLoad h => decide (h < 256)
  | .swap h a => decide (h < 256 ∧ a < 2)
  | .rowEntry h a => decide (h < 256 ∧ a < 2)
  | .preloadStart h a => decide (h < 256 ∧ a < 2)
  | .preloadDone h a => decide (h < 256 ∧ a < 2)
  | .accDrain h a => decide (h < 256 ∧ a < 2)
  | .outputTileFull h a => decide (h < 256 ∧ a < 2)
  | .mxaArrayEn h _ _ => decide (h < 256)
  | .ember h => decide (h < 256)
  | .invocationStart h => decide (h < 256)
  | .invocationEnd h => decide (h < 256)
  | .invocationOutputFull h => decide (h < 256)
  | .nop h => decide (h < 256)
  | .ld h => decide (h < 256)
  | .st h => decide (h < 256)
  | .fadd h => decide (h < 256)
  | .fsub h => decide (h < 256)
  | .fmul h => decide (h < 256)
  | .fma h => decide (h < 256)
  | .fmax h => decide (h < 256)
  | .fmin h => decide (h < 256)
  | .fabs h => decide (h < 256)
  | .fneg h => decide (h < 256)
  | .fcmp h => decide (h < 256)
  | .sel h => decide (h < 256)
  | .mov h => decide (h < 256)
  | .div h => decide (h < 256)
  | .sqrt h => decide (h < 256)
  | .exp2 h => decide (h < 256)
  | .exp h => decide (h < 256)
  | .log2 h => decide (h < 256)
  | .rcp h => decide (h < 256)
  | .rsqrt h => decide (h < 256)
  | .tanh h => decide (h < 256)
  | .sigmoid h => decide (h < 256)
  | .silu h => decide (h < 256)
  | .sin h => decide (h < 256)
  | .cos h => decide (h < 256)
  | .rsum h => decide (h < 256)
  | .rmax h => decide (h < 256)
  | .cvt h => decide (h < 256)
  | .qnt h => decide (h < 256)
  | .dqnt h => decide (h < 256)
  | .spfill h => decide (h < 256)
  | .spcopy h => decide (h < 256)
  | .spempty h => decide (h < 256)
  | .spdOpStart h m => decide (h < 256 ∧ m < 3)
  | .spdOpDone h m => decide (h < 256 ∧ m < 3)
  | .bankLate h _ _ _ => decide (h < 256)
  | .wbufRetire h => decide (h < 256)
  | .spdHandleWrite h idx _ => decide (h < 256 ∧ idx < 64)
  | .spdScrub h => decide (h < 256)
  | .spdScrubDone h => decide (h < 256)
  | .flueIn h f => decide (h < 256 ∧ f < 8)
  | .flueOut h f => decide (h < 256 ∧ f < 8)
  | .flueLink h f => decide (h < 256 ∧ f < 8)
  | .flueEnd h f => decide (h < 256 ∧ f < 8)
  | .blwGather h b => decide (h < 256 ∧ b < 2)
  | .blwScatter h b => decide (h < 256 ∧ b < 2)
  | .blwLink h b => decide (h < 256 ∧ b < 2)
  | .blwEnd h b => decide (h < 256 ∧ b < 2)
  | .descBurst h e => decide (h < 256 ∧ e < 10)
  | .readRequestIssue h => decide (h < 256)
  | .writeRequestIssue h => decide (h < 256)
  | .blwElementRequest h b => decide (h < 256 ∧ b < 2)
  | .readResponse h _ => decide (h < 256)
  | .writeAck h _ => decide (h < 256)
  | .outTileRead h f => decide (h < 256 ∧ f < 8)
  | .dueCheck h e _ => decide (h < 256 ∧ e < 10)
  | .nextStreamStart h e => decide (h < 256 ∧ e < 10)
  | .hintIssue h f => decide (h < 256 ∧ f < 8)
  | .fluHintClr h => decide (h < 256)
  | .chmRead sl _ => decide (sl < 4)
  | .chmWrite sl _ => decide (sl < 4)
  | .chmFillComplete sl _ => decide (sl < 4)
  | .chmHint sl _ => decide (sl < 4)
  | .mcastTimeBudget sl _ _ => decide (sl < 4)
  | .arbRound sl => decide (sl < 4)
  | .chmPatrolRead sl => decide (sl < 4)
  | .chmScrub sl p => decide (sl < 4 ∧ p < 16)
  | .chmScrubDone sl => decide (sl < 4)
  | .hbmRead k pc _ => decide (k < 20 ∧ pc < 32)
  | .hbmWrite k pc => decide (k < 20 ∧ pc < 32)
  | .hbmCorrectionRewrite k => decide (k < 20)
  | .hbmRefresh k pc bank => decide (k < 20 ∧ pc < 32 ∧ bank < 64)
  | .hbmPatrolRead k => decide (k < 20)
  | .hbmFence k pc _ => decide (k < 20 ∧ pc < 32)
  | .hbmInitFillDone => true
  | .hbmRetrain k => decide (k < 20)
  | .hbmRetrainSelfRefresh k => decide (k < 20)
  | .hbmRetrainDone k _ => decide (k < 20)
  | .walkComplete d _ => decide (d < 4)
  | .xltOpqTailWrite p g _ => decide (p < 16 ∧ g < 2)
  | .map p g => decide (p < 16 ∧ g < 2)
  | .unmap p g => decide (p < 16 ∧ g < 2)
  | .share p g => decide (p < 16 ∧ g < 2)
  | .protect p g => decide (p < 16 ∧ g < 2)
  | .unshare p g => decide (p < 16 ∧ g < 2)
  | .rekey p g => decide (p < 16 ∧ g < 2)
  | .rekeyMeta p g => decide (p < 16 ∧ g < 2)
  | .shootdownAck p h => decide (p < 16 ∧ h < 256)
  | .shootdownComplete p => decide (p < 16)
  | .xltResume p g => decide (p < 16 ∧ g < 2)
  | .releaseRingHeadWrite p _ => decide (p < 16)
  | .copyOnWrite p => decide (p < 16)
  | .cowCopyDone p => decide (p < 16)
  | .graphSubmit qp _ _ _ => decide (qp ≤ 1024)
  | .graphCancel qp _ => decide (qp ≤ 1024)
  | .mixPost qp _ => decide (qp ≤ 1024)
  | .graphLoad p => decide (p < 16)
  | .graphActivate p => decide (p < 16)
  | .taskPlace p => decide (p < 16)
  | .taskStart h => decide (h < 256)
  | .semrel h => decide (h < 256)
  | .taskComplete h _ => decide (h < 256)
  | .taskAbort h _ _ => decide (h < 256)
  | .completionRecordWrite qp => decide (qp ≤ 1024)
  | .mixStepForm p => decide (p < 16)
  | .grfMixTableWrite p _ => decide (p < 16)
  | .attendAppend h => decide (h < 256)
  | .attendWork h => decide (h < 256)
  | .attendMerge h => decide (h < 256)
  | .attendPlan p => decide (p < 16)
  | .linkSlotTx n => decide (n < 18)
  | .linkDataSlotRx n _ => decide (n < 18)
  | .param n _ _ _ _ _ => decide (n < 18)
  | .linkEcho n _ => decide (n < 18)
  | .linkEchoReply n _ => decide (n < 18)
  | .down n _ => decide (n < 18)
  | .retrainReq n => decide (n < 18)
  | .replayTimeout n => decide (n < 18)
  | .linkLos n _ => decide (n < 18)
  | .fecLimit n => decide (n < 18)
  | .noSlotTimeout n => decide (n < 18)
  | .linkDownTxEnd n => decide (n < 18)
  | .linkTrainStart n => decide (n < 18)
  | .linkTrainDone n _ => decide (n < 18)
  | .linkRetrain n => decide (n < 18)
  | .linkDrainDone n => decide (n < 18)
  | .linkDrainTimeout n => decide (n < 18)
  | .linkDisable n _ => decide (n < 18)
  | .packetRoute n _ => decide (n < 18)
  | .packetAccept n _ => decide (n < 18)
  | .escapeTimeout port _ => decide (port < 18)
  | .ackTimer _ => true
  | .ackReceive n _ => decide (n < 18)
  | .resendTimeout _ _ => true
  | .discSend n => decide (n < 18)
  | .discReceive n _ => decide (n < 18)
  | .portDiscovery port => decide (port < 18)
  | .colLoad p => decide (p < 16)
  | .colUnload p => decide (p < 16)
  | .colReset p _ => decide (p < 16)
  | .colCtlFlush p _ _ _ => decide (p < 16)
  | .bucketStart p _ _ => decide (p < 16)
  | .reduceScatter p _ _ => decide (p < 16)
  | .allReduce p _ _ => decide (p < 16)
  | .allGather p _ _ => decide (p < 16)
  | .allToAll p _ => decide (p < 16)
  | .broadcast p _ _ => decide (p < 16)
  | .multicast p _ _ => decide (p < 16)
  | .contrib _ => true
  | .result _ => true
  | .block _ => true
  | .bcast _ => true
  | .counts _ => true
  | .done _ => true
  | .gap _ => true
  | .fetch _ => true
  | .colInstanceComplete p _ => decide (p < 16)
  | .backupDeadline p _ _ _ => decide (p < 16)
  | .fetchTimeout p _ => decide (p < 16)
  | .collWatchdog p _ => decide (p < 16)
  | .arpRequest _ _ _ => true
  | .neighborSolicitation _ _ _ => true
  | .ethFrameDrop _ => true
  | .pfcReceive _ _ => true
  | .pfcRefresh prio => decide (prio < 8)
  | .send qp _ _ => decide (qp ≤ 1024)
  | .rdmaWrite qp _ _ _ _ _ => decide (qp ≤ 1024)
  | .rdmaRead qp _ _ _ => decide (qp ≤ 1024)
  | .roceAckReceive qp _ _ => decide (qp ≤ 1024)
  | .cnpReceive qp => decide (qp ≤ 1024)
  | .qpAckTimeout qp => decide (qp ≤ 1024)
  | .echo qp _ _ => decide (qp ≤ 1024)
  | .qpRts qp => decide (qp ≤ 1024)
  | .qpReset qp => decide (qp ≤ 1024)
  | .hostLinkDown _ => true
  | .ipfixExport => true
  | .ipfixTemplateRefresh => true
  | .form p _ _ => decide (p < 16)
  | .grow p _ => decide (p < 16)
  | .shrink p _ => decide (p < 16)
  | .dissolve p => decide (p < 16)
  | .hearthLeave h => decide (h < 256)
  | .prtQuotaWrite p _ => decide (p < 16)
  | .prtRateWrite p _ => decide (p < 16)
  | .rotateImport p _ => decide (p < 16)
  | .rotateGen p => decide (p < 16)
  | .loadFab p _ => decide (p < 16)
  | .clearFab p _ => decide (p < 16)
  | .keySweepDone p => decide (p < 16)
  | .platformReport => true
  | .tenantReport p => decide (p < 16)
  | .peerChangedClear port => decide (port < 18)
  | .histSnap => true
  | .histClr => true
  | .clockMeasure _ => true
  | .damperWindow port => decide (port < 18)
  | .rate _ => true
  | .rateIncrease _ => true
  | .rateResetTimeout _ => true
  | .powerLoopPeriod f _ => decide (f < 4)
  | .thermalTrip site => site.ok
  | .thermalCooled => true
  | .hardThermalLimit => true
  | .hearthFault h _ => decide (h < 256)
  | .hearthResetDone h _ => decide (h < 256)
  | .taskWatchdog h _ => decide (h < 256)
  | .requestAgeExpiry h _ => decide (h < 256)
  | .stokerWatchdog => true
  | .suspectStart p => decide (p < 16)
  | .suspectRun p => decide (p < 16)
  | .sliceTagParity sl => decide (sl < 4)
  | .bridgeFailure b => decide (b < 6)
  | .refclkALoss => true
  | .refclkBLoss => true
  | .refclkBothLoss => true
  | .warmReset _ => true
  | .warmResetServing _ => true
  | .hrtService h => decide (h < 256)
  | .hrtReturn h => decide (h < 256)
  | .releaseHold h => decide (h < 256)
  | .fwSwitch _ => true
  | .fwOkSet => true
  | .fwTrialTimeout => true
  | .digCheck => true
  | .digReq _ => true
  | .digReply _ _ _ => true
  | .digReplyTimeout => true
  | .errInjectArm _ => true
  | .coldStart _ => true
  | .resetAssert => true
  | .refclkSample _ _ => true
  | .refclkTimeout => true
  | .erase _ => true
  | .program _ _ => true
  | .read _ _ => true
  | .verify _ => true
  | .ownerFuse => true
  | .svnRaise => true
  | .jtagBypass => true
  | .jtagIdcode => true
  | .jtagSamplePreload _ => true
  | .jtagExtest => true
  | .pfcPauseExpiry prio => decide (prio < 8)
  | .stokerRestartDone => true
  | .rnrRetryTimeout qp => decide (qp ≤ 1024)
  | .refclkReturn _ => true
  | .flashCmdDone _ => true
  | .prtCmdDone => true
  | .secKeyCmdDone => true
  | .secReportDone => true

end Sys2Proof
end

