-- ==== Sys2Proof/Machine/Settle.lean ====
section
/-!
DEFINITION. What follows from a command before it ends: aborts and hearth faults that became due (R307, R507, R510), the suspect procedure's steps
(R515, R517), tables that are to be unloaded, units that leave, quotas, sweeps and waiting procedures. The forms in which a command acts.
-/

namespace Sys2Proof.Machine

/-- The steps of the partitions: units leave (R443), OVER_QUOTA is noted (R448). -/
def partStep (s : State) (p : Nat) : State := overNote (unitsLeave s p) p

/-- A step that finds no occasion, because an access of it would have to wait, is left for a later moment (log 59). -/
def tryStep (f : State → State) (s : State) : State :=
  let t := f s
  if t.held && !s.held then s else t

/-- The Stoker's own steps: sweeps post their next record (R452), a hearth in service is reset (R524), a waiting warm reset starts (R499). -/
def stokerStep (s : State) : State :=
  if s.away then s else warmNext (serviceStep ((s.parts.map (·.1)).foldl (fun t p => tryStep (sweepStep · p) t) s))

/-- What follows from a command while the device runs. -/
def settleRun (s : State) : State :=
  let noted := s.dueHrt.any (fun f => f.2 = .verdict)
  let s1 := suspectSettle (settleFaults (settleAborts (suspectAgain s))) noted
  let s2 := s1.colUnl.foldl (fun t p => tryStep (unloadTry · p) t) s1
  settleAborts (stokerStep ((s2.parts.map (·.1)).foldl partStep s2))

/-- A command ends: nothing stays due. -/
def settle (s : State) : State :=
  let t := if s.stk.phase = .run then settleRun s else s
  { t with dueAborts := [], dueHrt := [] }

/-! The forms. A command that finds no occasion changes nothing but `tx`. -/

/-- What the host port sent in the last command is gone. -/
def quiet (s : State) : State := { s with tx := [], held := false }

/-- What a command comes to whose effect is `t`: where an access of it would have to wait, the command finds no occasion (log 59). -/
def unlessHeld (s t : State) : State := if t.held then quiet s else t

/-- The outcome of a command that leads from `s` to `t`: what follows from it has happened, and the commands that wait are as they were. -/
def ends (s t : State) : Host.Outcome State Fault Refusal := .next { unlessHeld s (settle t) with pending := s.pending }

/-- An event of the running device. -/
def act (f : State → State) (s : State) : Host.Outcome State Fault Refusal :=
  if s.stk.phase = .run then ends s (f (quiet s)) else ends s (quiet s)

/-- What the Stoker performs: not while it restarts (R523). -/
def actStk (f : State → State) (s : State) : Host.Outcome State Fault Refusal :=
  if s.stk.phase = .run ∧ s.away = false then ends s (f (quiet s)) else ends s (quiet s)

/-- An event that the device takes in any phase: a reset, a clock input, the test port, a device fault. -/
def actAny (f : State → State) (s : State) : Host.Outcome State Fault Refusal := ends s (f (quiet s))

/-- An effect of a unit that the device has; an event at no unit changes nothing. -/
def only (c : Prop) [Decidable c] (f : State → State) (s : State) : State := if c then f s else s

/-! Time. -/

/-- One core cycle: the bubbles of arrays that enter no row (R88), the waits of flues and bellows (R181), and the counters that advance in every cycle of a wait (R120, R493). -/
def coreTick (s : State) : State :=
  (List.range 256).foldl (fun t h =>
    let x := hget t h
    let t0 := arrIdle (arrIdle t h 0) h 1
    let t1 := enginesTick (if x.vec.running then t0 else vecBump t0 h (R.vecIdle h) 1) h
    if x.cur.isSome || x.drain.isSome || x.next.isSome then t1
    else
      let frz := bit (rd t1 R.telCtrl) 0
      bump (bump t1 frz (R.telHrtNotaskH h) 1) frz (R.telHrtIdleF (h / 64)) 1 64) s

/-- One base-die cycle of the damper: a packet that a limit has held leaves when the limit lets it, and TEL_COL_DAMPER_p counts while one waits
(R486, R487); the trees' entries are checked against their budgets (R208, R400). -/
def damperTick (s : State) : State :=
  let s1 := treesCheck ((s.sflows.filter (fun f => !f.wait.isEmpty && !f.failed)).foldl (fun t f => tryStep (flowPump · f.id f.wait.length) t) s)
  let s2 := (List.range 16).foldl (fun t p =>
    if t.sflows.any (fun f => f.spart = p && !f.wait.isEmpty && !f.failed && flowHeld t f) then telBump t (R.telColDamperP p) 1 else t) s1
  (s2.qps.filter (fun e => !e.2.pace.isEmpty)).foldl (fun t e => tryStep (paceRun · e.1 e.2.pace.length) t) s2

/-- One base-die cycle: the host port's receive pool is served (R412), CHM_FILL_WAIT (R203), ATN_PLAN_WAIT (R339), the damper. -/
def baseTick (s : State) : State :=
  let s1 := poolStep ([0, 1, 2, 3].foldl fillTick s)
  damperTick
    ((s1.graphs.map (·.1)).foldl (fun t p => if planHeld (gget t p) then bump t (bit (rd t (R.atnCtrl p)) 0) (R.atnPlanWait p) 1 else t) s1)

/-- The next edge of a clock of the given period. -/
def edge (now period : Nat) : Nat := (now / period + 1) * period

/-- With no command waiting, time goes on to the next edge of the core, base-die, HBM-controller or Stoker clock (R32, R473); in a phase without
clocks nothing happens. In a warm reset its step 3 comes at such an edge (log 3). -/
def tick (s : State) : State :=
  match s.stk.phase with
  | .run | .warm | .halted =>
    let n := min (min (edge s.now 400) (edge s.now 275)) (min (edge s.now 352) (edge s.now 550))
    let s1 := { quiet s with now := n }
    if s.stk.phase = .run then
      let s2 := if n % 400 = 0 then coreTick s1 else s1
      let s3 := if n % 275 = 0 then baseTick s2 else s2
      if n % 352 = 0 then hbmTick s3 else s3
    else if n % 352 = 0 then warmFlush s1
    else s1
  | .low | .sampling | .stopped | .cut => s

end Sys2Proof.Machine
end

