-- ==== Sys2Proof/Machine/CmdChimney.lean ====
section
/-!
DEFINITION. The meanings of the chimney commands (chapter 07).
-/

namespace Sys2Proof.Machine

/-- CHM_READ (R197). -/
def execChmRead (sl i : Nat) (s : State) : Host.Outcome State Fault Refusal := act (only (sl < 4) (fun t => chmRead t sl i)) s
/-- CHM_WRITE (R200). -/
def execChmWrite (sl i : Nat) (s : State) : Host.Outcome State Fault Refusal := act (only (sl < 4) (fun t => chmWrite t sl i)) s
/-- CHM_FILL_COMPLETE (R199). -/
def execChmFillComplete (sl i : Nat) (s : State) : Host.Outcome State Fault Refusal := act (only (sl < 4) (fun t => chmFillComplete t sl i)) s
/-- CHM_HINT (R204). -/
def execChmHint (sl i : Nat) (s : State) : Host.Outcome State Fault Refusal := act (only (sl < 4) (fun t => chmHint t sl i)) s
/-- MCAST_TIME_BUDGET (R208). -/
def execMcastTimeBudget (sl p g : Nat) (s : State) : Host.Outcome State Fault Refusal := act (only (sl < 4) (fun t => mcastTimeBudget t sl p g)) s
/-- ARB_ROUND (R214). -/
def execArbRound (sl : Nat) (s : State) : Host.Outcome State Fault Refusal := act (only (sl < 4) (fun t => arbRound t sl)) s
/-- CHM_PATROL_READ (R218). -/
def execChmPatrolRead (sl : Nat) (s : State) : Host.Outcome State Fault Refusal := act (only (sl < 4) (fun t => chmPatrolRead t sl)) s
/-- CHM_SCRUB (R219). -/
def execChmScrub (sl p : Nat) (s : State) : Host.Outcome State Fault Refusal := actStk (only (sl < 4 ∧ p < 16) (fun t => chmScrub t sl p)) s
/-- CHM_SCRUB_DONE (R219). -/
def execChmScrubDone (sl : Nat) (s : State) : Host.Outcome State Fault Refusal := act (only (sl < 4) (fun t => chmScrubDone t sl)) s

end Sys2Proof.Machine
end

