-- ==== Sys2Proof/Machine/CmdControl.lean ====
section
/-!
DEFINITION. The meanings of the control-space commands (R423, R475–R477, R575, R576).
-/

namespace Sys2Proof.Machine

/-- CSR_READ (R423). -/
def execCsrRead (qp addr ctag : Nat) (s : State) : Host.Outcome State Fault Refusal := act (only (qp ≤ 1024) (fun t => csrReadOp t qp addr ctag)) s
/-- CSR_WRITE (R423). -/
def execCsrWrite (qp addr : Nat) (value : W64) (ctag : Nat) (s : State) : Host.Outcome State Fault Refusal :=
  act (only (qp ≤ 1024) (fun t => csrWriteOp t qp addr value ctag)) s
/-- REGISTER_WRITE (R576). -/
def execRegisterWrite (who : Caller) (addr : Nat) (value : W64) (s : State) : Host.Outcome State Fault Refusal :=
  act (fun t => registerWriteOp t who addr value) s
/-- COUNTER_CLEAR (R477). -/
def execCounterClear (blk : Blk) (inst : Nat) (s : State) : Host.Outcome State Fault Refusal := actStk (fun t => counterClear t blk inst) s
/-- ERR_LOG_CLEAR (R575). -/
def execErrLogClear (blk : Blk) (inst : Nat) (s : State) : Host.Outcome State Fault Refusal := actStk (fun t => errLogClear t blk inst) s

end Sys2Proof.Machine
end

