-- ==== Sys2Proof/Machine/CmdFabric.lean ====
section
/-!
DEFINITION. The meanings of the routing and collective commands (chapter 13).
-/

namespace Sys2Proof.Machine

/-- PACKET_ROUTE (R379). -/
def execPacketRoute (n vc : Nat) (s : State) : Host.Outcome State Fault Refusal := act (only (n < 18) (fun t => packetRoute t n vc)) s
/-- PACKET_ACCEPT (R387). -/
def execPacketAccept (n vc : Nat) (s : State) : Host.Outcome State Fault Refusal := act (only (n < 18) (fun t => packetAccept t n vc)) s
/-- ESCAPE_TIMEOUT (R382). -/
def execEscapeTimeout (port vc : Nat) (s : State) : Host.Outcome State Fault Refusal := act (only (port < 18) (fun t => escapeTimeout t port vc)) s
/-- ACK_TIMER (R387). -/
def execAckTimer (flow : Nat) (s : State) : Host.Outcome State Fault Refusal := act (fun t => ackTimer t flow) s
/-- ACK_RECEIVE (R387). -/
def execAckReceive (n vc : Nat) (s : State) : Host.Outcome State Fault Refusal := act (only (n < 18) (fun t => ackIn t n vc)) s
/-- RESEND_TIMEOUT (R388). -/
def execResendTimeout (flow seq : Nat) (s : State) : Host.Outcome State Fault Refusal := act (fun t => resendTimeout t flow seq) s
/-- DISC_SEND (R378). -/
def execDiscSend (n : Nat) (s : State) : Host.Outcome State Fault Refusal := act (only (n < 18) (fun t => discSend t n)) s
/-- DISC_RECEIVE (R378). -/
def execDiscReceive (n vc : Nat) (s : State) : Host.Outcome State Fault Refusal := act (only (n < 18) (fun t => discReceive t n vc)) s
/-- PORT_DISCOVERY (R377). -/
def execPortDiscovery (port : Nat) (s : State) : Host.Outcome State Fault Refusal := act (only (port < 18) (fun t => portDiscovery t port)) s
/-- COL_LOAD (R389). -/
def execColLoad (p : Nat) (s : State) : Host.Outcome State Fault Refusal := actStk (only (p < 16) (fun t => colLoad t p)) s
/-- COL_UNLOAD (R389). -/
def execColUnload (p : Nat) (s : State) : Host.Outcome State Fault Refusal := actStk (only (p < 16) (fun t => colUnload t p)) s
/-- COL_RESET (R404). -/
def execColReset (p entry : Nat) (s : State) : Host.Outcome State Fault Refusal := actStk (only (p < 16) (fun t => colReset t p entry)) s
/-- COL_CTL_FLUSH (R393). -/
def execColCtlFlush (p c epoch actLen : Nat) (s : State) : Host.Outcome State Fault Refusal :=
  act (only (p < 16) (fun t => colCtlFlush t p c epoch actLen)) s
/-- BUCKET_START (R395). -/
def execBucketStart (p c b : Nat) (s : State) : Host.Outcome State Fault Refusal := act (only (p < 16) (fun t => bucketStart t p c b)) s
/-- REDUCE_SCATTER (R396). -/
def execReduceScatter (p c b : Nat) (s : State) : Host.Outcome State Fault Refusal := act (only (p < 16) (fun t => reduceScatter t p c b)) s
/-- ALL_REDUCE (R396). -/
def execAllReduce (p c b : Nat) (s : State) : Host.Outcome State Fault Refusal := act (only (p < 16) (fun t => allReduce t p c b)) s
/-- ALL_GATHER (R396). -/
def execAllGather (p c b : Nat) (s : State) : Host.Outcome State Fault Refusal := act (only (p < 16) (fun t => allGather t p c b)) s
/-- ALL_TO_ALL (R396). -/
def execAllToAll (p c : Nat) (s : State) : Host.Outcome State Fault Refusal := act (only (p < 16) (fun t => allToAll t p c)) s
/-- BROADCAST (R400). -/
def execBroadcast (p c b : Nat) (s : State) : Host.Outcome State Fault Refusal := act (only (p < 16) (fun t => broadcast t p c b)) s
/-- MULTICAST (R396). -/
def execMulticast (p c b : Nat) (s : State) : Host.Outcome State Fault Refusal := act (only (p < 16) (fun t => multicast t p c b)) s
/-- CONTRIB (R394). -/
def execContrib (i : Nat) (s : State) : Host.Outcome State Fault Refusal := act (fun t => contribMsg t i) s
/-- RESULT (R396). -/
def execResult (i : Nat) (s : State) : Host.Outcome State Fault Refusal := act (fun t => resultMsg t i) s
/-- BLOCK (R396). -/
def execBlock (i : Nat) (s : State) : Host.Outcome State Fault Refusal := act (fun t => blockMsg t i) s
/-- BCAST (R400). -/
def execBcast (i : Nat) (s : State) : Host.Outcome State Fault Refusal := act (fun t => bcastMsg t i) s
/-- COUNTS (R396). -/
def execCounts (i : Nat) (s : State) : Host.Outcome State Fault Refusal := act (fun t => countsMsg t i) s
/-- DONE (R400). -/
def execDone (i : Nat) (s : State) : Host.Outcome State Fault Refusal := act (fun t => doneMsg t i) s
/-- GAP (R401). -/
def execGap (i : Nat) (s : State) : Host.Outcome State Fault Refusal := act (fun t => gapMsg t i) s
/-- FETCH (R401). -/
def execFetch (i : Nat) (s : State) : Host.Outcome State Fault Refusal := act (fun t => fetchMsg t i) s
/-- COL_INSTANCE_COMPLETE (R397). -/
def execColInstanceComplete (p c : Nat) (s : State) : Host.Outcome State Fault Refusal := act (only (p < 16) (fun t => colInstanceComplete t p c)) s
/-- BACKUP_DEADLINE (R399). -/
def execBackupDeadline (p c b rank : Nat) (s : State) : Host.Outcome State Fault Refusal :=
  act (only (p < 16) (fun t => backupDeadline t p c b rank)) s
/-- FETCH_TIMEOUT (R401). -/
def execFetchTimeout (p c : Nat) (s : State) : Host.Outcome State Fault Refusal := act (only (p < 16) (fun t => fetchTimeout t p c)) s
/-- COLL_WATCHDOG (R506). -/
def execCollWatchdog (p c : Nat) (s : State) : Host.Outcome State Fault Refusal := act (only (p < 16) (fun t => collWatchdog t p c)) s

end Sys2Proof.Machine
end

