-- ==== Sys2Proof/Machine/CmdGraph.lean ====
section
/-!
DEFINITION. The meanings of the graph and attention commands (chapters 10 and 11).
-/

namespace Sys2Proof.Machine

/-- GRAPH_SUBMIT (R284). -/
def execGraphSubmit (qp headerVa ctag : Nat) (deliveries : List Delivery) (s : State) : Host.Outcome State Fault Refusal :=
  act (only (qp ≤ 1024) (fun t => graphSubmitOp t qp headerVa ctag deliveries)) s
/-- GRAPH_CANCEL (R309). -/
def execGraphCancel (qp graphId : Nat) (s : State) : Host.Outcome State Fault Refusal :=
  act (only (qp ≤ 1024) (fun t => graphCancelCmd t qp graphId)) s
/-- MIX_POST (R312). -/
def execMixPost (qp : Nat) (item : BitVec 256) (s : State) : Host.Outcome State Fault Refusal :=
  act (only (qp ≤ 1024) (fun t => mixPostCmd t qp item)) s
/-- GRAPH_LOAD (R285). -/
def execGraphLoad (p : Nat) (s : State) : Host.Outcome State Fault Refusal := act (only (p < 16) (fun t => graphLoadOp t p)) s
/-- GRAPH_ACTIVATE (R286). -/
def execGraphActivate (p : Nat) (s : State) : Host.Outcome State Fault Refusal := act (only (p < 16) (fun t => graphActivateOp t p)) s
/-- TASK_PLACE (R294). -/
def execTaskPlace (p : Nat) (s : State) : Host.Outcome State Fault Refusal := act (only (p < 16) (fun t => taskPlaceOp t p)) s
/-- TASK_START (R298). -/
def execTaskStart (h : Nat) (s : State) : Host.Outcome State Fault Refusal := act (only (h < 256) (fun t => taskStartOp t h)) s
/-- SEMREL (R304). -/
def execSemrel (h : Nat) (s : State) : Host.Outcome State Fault Refusal := act (only (h < 256) (fun t => semrelOp t h)) s
/-- TASK_COMPLETE (R291). -/
def execTaskComplete (h : Nat) (draining : Bool) (s : State) : Host.Outcome State Fault Refusal :=
  act (only (h < 256) (fun t => taskCompleteOp t h draining)) s
/-- TASK_ABORT (R307). -/
def execTaskAbort (h : Nat) (draining : Bool) (code : Nat) (s : State) : Host.Outcome State Fault Refusal :=
  act (only (h < 256) (fun t => taskAbortOp t h draining code)) s
/-- COMPLETION_RECORD_WRITE (R427). -/
def execCompletionRecordWrite (qp : Nat) (s : State) : Host.Outcome State Fault Refusal :=
  act (only (qp ≤ 1024) (fun t => completionRecordWrite t qp)) s
/-- MIX_STEP_FORM (R314). -/
def execMixStepForm (p : Nat) (s : State) : Host.Outcome State Fault Refusal := act (only (p < 16) (fun t => mixStepOp t p)) s
/-- GRF_MIX_TABLE_WRITE (R318). -/
def execGrfMixTableWrite (p va : Nat) (s : State) : Host.Outcome State Fault Refusal := actStk (only (p < 16) (fun t => mixTableOp t p va)) s
/-- ATTEND_APPEND (R327). -/
def execAttendAppend (h : Nat) (s : State) : Host.Outcome State Fault Refusal := act (only (h < 256) (fun t => attendAppendOp t h)) s
/-- ATTEND_WORK (R329). -/
def execAttendWork (h : Nat) (s : State) : Host.Outcome State Fault Refusal := act (only (h < 256) (fun t => attendWorkOp t h)) s
/-- ATTEND_MERGE (R334). -/
def execAttendMerge (h : Nat) (s : State) : Host.Outcome State Fault Refusal := act (only (h < 256) (fun t => attendMergeOp t h)) s
/-- ATTEND_PLAN (R332). -/
def execAttendPlan (p : Nat) (s : State) : Host.Outcome State Fault Refusal := act (only (p < 16) (fun t => attendPlanOp t p)) s

end Sys2Proof.Machine
end

