-- ==== Sys2Proof/Machine/CmdHbm.lean ====
section
/-!
DEFINITION. The meanings of the HBM commands (chapter 08).
-/

namespace Sys2Proof.Machine

/-- HBM_READ (R238). -/
def execHbmRead (k pc i : Nat) (s : State) : Host.Outcome State Fault Refusal := act (only (k < 20 ∧ pc < 32) (fun t => hbmRead t k pc i)) s
/-- HBM_WRITE (R235). -/
def execHbmWrite (k pc : Nat) (s : State) : Host.Outcome State Fault Refusal := act (only (k < 20 ∧ pc < 32) (fun t => hbmWrite t k pc)) s
/-- HBM_CORRECTION_REWRITE (R237). -/
def execHbmCorrectionRewrite (k : Nat) (s : State) : Host.Outcome State Fault Refusal := act (only (k < 20) (fun t => hbmCorrectionRewrite t k)) s
/-- HBM_REFRESH (R240). -/
def execHbmRefresh (k pc bank : Nat) (s : State) : Host.Outcome State Fault Refusal :=
  act (only (k < 20 ∧ pc < 32 ∧ bank < 64) (fun t => hbmRefresh t k pc bank)) s
/-- HBM_PATROL_READ (R241). -/
def execHbmPatrolRead (k : Nat) (s : State) : Host.Outcome State Fault Refusal := act (only (k < 20) (fun t => hbmPatrolRead t k)) s
/-- HBM_FENCE (R242). -/
def execHbmFence (k pc kind : Nat) (s : State) : Host.Outcome State Fault Refusal :=
  actStk (only (k < 20 ∧ pc < 32) (fun t => hbmFence t k pc kind)) s
/-- HBM_INIT_FILL_DONE (R244). -/
def execHbmInitFillDone (s : State) : Host.Outcome State Fault Refusal := act hbmInitFillDone s
/-- HBM_RETRAIN (R246). -/
def execHbmRetrain (k : Nat) (s : State) : Host.Outcome State Fault Refusal := actStk (only (k < 20) (fun t => retrainStart t k)) s
/-- HBM_RETRAIN_SELF_REFRESH (R246). -/
def execHbmRetrainSelfRefresh (k : Nat) (s : State) : Host.Outcome State Fault Refusal := act (only (k < 20) (fun t => hbmRetrainSelfRefresh t k)) s
/-- HBM_RETRAIN_DONE (R246). -/
def execHbmRetrainDone (k : Nat) (failedPcs : BitVec 32) (s : State) : Host.Outcome State Fault Refusal :=
  act (only (k < 20) (fun t => retrainDone t k failedPcs)) s

end Sys2Proof.Machine
end

