-- ==== Sys2Proof/Machine/CmdHost.lean ====
section
/-!
DEFINITION. The meanings of the host-port commands (chapter 14).
-/

namespace Sys2Proof.Machine

/-- ARP_REQUEST (R411). -/
def execArpRequest (targetIp senderIp senderMac : Nat) (s : State) : Host.Outcome State Fault Refusal :=
  act (fun t => arpRequest t targetIp senderIp senderMac) s
/-- NEIGHBOR_SOLICITATION (R411). -/
def execNeighborSolicitation (targetIp6 senderIp6 senderMac : Nat) (s : State) : Host.Outcome State Fault Refusal :=
  act (fun t => neighborSolicitation t targetIp6 senderIp6 senderMac) s
/-- ETH_FRAME_DROP (R411). -/
def execEthFrameDrop (why : DropReason) (s : State) : Host.Outcome State Fault Refusal := act (fun t => ethFrameDrop t why) s
/-- PFC_RECEIVE (R415). -/
def execPfcReceive (prios : BitVec 8) (quanta : Nat) (s : State) : Host.Outcome State Fault Refusal := act (fun t => pfcReceive t prios quanta) s
/-- PFC_REFRESH (R413). -/
def execPfcRefresh (prio : Nat) (s : State) : Host.Outcome State Fault Refusal := act (only (prio < 8) (fun t => pfcRefresh t prio)) s
/-- SEND (R422). -/
def execSend (qp : Nat) (data : List Byte) (ce : Bool) (s : State) : Host.Outcome State Fault Refusal :=
  act (only (qp ≤ 1024) (fun t => sendRx t qp data ce)) s
/-- RDMA_WRITE (R419). -/
def execRdmaWrite (qp rkey va : Nat) (data : List Byte) (imm ce : Bool) (s : State) : Host.Outcome State Fault Refusal :=
  act (only (qp ≤ 1024) (fun t => rdmaWrite t qp rkey va data imm ce)) s
/-- RDMA_READ (R419). -/
def execRdmaRead (qp rkey va len : Nat) (s : State) : Host.Outcome State Fault Refusal :=
  act (only (qp ≤ 1024) (fun t => rdmaRead t qp rkey va len)) s
/-- ROCE_ACK_RECEIVE (R421). -/
def execRoceAckReceive (qp psn syndrome : Nat) (s : State) : Host.Outcome State Fault Refusal :=
  act (only (qp ≤ 1024) (fun t => roceAckReceive t qp psn syndrome)) s
/-- CNP_RECEIVE (R487). -/
def execCnpReceive (qp : Nat) (s : State) : Host.Outcome State Fault Refusal := act (only (qp ≤ 1024) (fun t => cnpReceive t qp)) s
/-- QP_ACK_TIMEOUT (R421). -/
def execQpAckTimeout (qp : Nat) (s : State) : Host.Outcome State Fault Refusal := act (only (qp ≤ 1024) (fun t => qpAckTimeout t qp)) s
/-- ECHO (R474). -/
def execEcho (qp : Nat) (tsHost : W64) (ctag : Nat) (s : State) : Host.Outcome State Fault Refusal :=
  act (only (qp ≤ 1024) (fun t => echoOp t qp tsHost ctag)) s
/-- QP_RTS (R426). -/
def execQpRts (qp : Nat) (s : State) : Host.Outcome State Fault Refusal := actStk (only (qp ≤ 1024) (fun t => qpRts t qp)) s
/-- QP_RESET (R432). -/
def execQpReset (qp : Nat) (s : State) : Host.Outcome State Fault Refusal := actStk (only (qp ≤ 1024) (fun t => qpReset t qp)) s
/-- HOST_LINK_DOWN (R409). -/
def execHostLinkDown (up : Bool) (s : State) : Host.Outcome State Fault Refusal := act (fun t => hostLinkDown t up) s
/-- IPFIX_EXPORT (R492). -/
def execIpfixExport (s : State) : Host.Outcome State Fault Refusal := act ipfixExport s
/-- IPFIX_TEMPLATE_REFRESH (R431). -/
def execIpfixTemplateRefresh (s : State) : Host.Outcome State Fault Refusal := act ipfixRefresh s

end Sys2Proof.Machine
end

