-- ==== Sys2Proof/Machine/CmdLink.lean ====
section
/-!
DEFINITION. The meanings of the link commands (chapter 12).
-/

namespace Sys2Proof.Machine

/-- LINK_SLOT_TX (R352). -/
def execLinkSlotTx (n : Nat) (s : State) : Host.Outcome State Fault Refusal := act (only (n < 18) (fun t => linkSlotTx t n)) s
/-- LINK_DATA_SLOT_RX (R353). -/
def execLinkDataSlotRx (n : Nat) (slot : SlotRx) (s : State) : Host.Outcome State Fault Refusal :=
  act (only (n < 18) (fun t => linkDataSlotRx t n slot)) s
/-- PARAM (R360). -/
def execParam (n dev link port cls links : Nat) (s : State) : Host.Outcome State Fault Refusal :=
  act (only (n < 18) (fun t => paramRx t n dev link port cls links)) s
/-- LINK_ECHO (R351). -/
def execLinkEcho (n : Nat) (ts : W64) (s : State) : Host.Outcome State Fault Refusal := act (only (n < 18) (fun t => linkEcho t n ts.toNat)) s
/-- LINK_ECHO_REPLY (R365). -/
def execLinkEchoReply (n : Nat) (ts : W64) (s : State) : Host.Outcome State Fault Refusal :=
  act (only (n < 18) (fun t => linkEchoReply t n ts.toNat)) s
/-- DOWN (R362). -/
def execDown (n _cause : Nat) (s : State) : Host.Outcome State Fault Refusal := act (only (n < 18) (fun t => downRx t n)) s
/-- RETRAIN_REQ (R366). -/
def execRetrainReq (n : Nat) (s : State) : Host.Outcome State Fault Refusal := act (only (n < 18) (fun t => drainStart t n)) s
/-- REPLAY_TIMEOUT (R355). -/
def execReplayTimeout (n : Nat) (s : State) : Host.Outcome State Fault Refusal := act (only (n < 18) (fun t => replayTimeout t n)) s
/-- LINK_LOS (R362). -/
def execLinkLos (n lane : Nat) (s : State) : Host.Outcome State Fault Refusal := act (only (n < 18) (fun t => linkLos t n lane)) s
/-- FEC_LIMIT (R362). -/
def execFecLimit (n : Nat) (s : State) : Host.Outcome State Fault Refusal := act (only (n < 18) (fun t => fecLimit t n)) s
/-- NO_SLOT_TIMEOUT (R362). -/
def execNoSlotTimeout (n : Nat) (s : State) : Host.Outcome State Fault Refusal := act (only (n < 18) (fun t => noSlotTimeout t n)) s
/-- LINK_DOWN_TX_END (R362). -/
def execLinkDownTxEnd (n : Nat) (s : State) : Host.Outcome State Fault Refusal := act (only (n < 18) (fun t => linkDownTxEnd t n)) s
/-- LINK_TRAIN_START (R365). -/
def execLinkTrainStart (n : Nat) (s : State) : Host.Outcome State Fault Refusal := act (only (n < 18) (fun t => linkTrainStart t n)) s
/-- LINK_TRAIN_DONE (R365). -/
def execLinkTrainDone (n : Nat) (r : TrainResult) (s : State) : Host.Outcome State Fault Refusal :=
  act (only (n < 18) (fun t => linkTrainDone t n r)) s
/-- LINK_RETRAIN (R366). -/
def execLinkRetrain (n : Nat) (s : State) : Host.Outcome State Fault Refusal := actStk (only (n < 18) (fun t => linkRetrain t n)) s
/-- LINK_DRAIN_DONE (R366). -/
def execLinkDrainDone (n : Nat) (s : State) : Host.Outcome State Fault Refusal := act (only (n < 18) (fun t => linkDrainDone t n)) s
/-- LINK_DRAIN_TIMEOUT (R366). -/
def execLinkDrainTimeout (n : Nat) (s : State) : Host.Outcome State Fault Refusal := act (only (n < 18) (fun t => linkDrainTimeout t n)) s
/-- LINK_DISABLE (R366). -/
def execLinkDisable (n : Nat) (disable : Bool) (s : State) : Host.Outcome State Fault Refusal :=
  actStk (only (n < 18) (fun t => linkDisable t n disable)) s

end Sys2Proof.Machine
end

