-- ==== Sys2Proof/Machine/CmdMatrix.lean ====
section
/-!
DEFINITION. The meanings of the matrix-array commands (chapter 03).
-/

namespace Sys2Proof.Machine

/-- The next schedule entry is a pass: it issues to its array with its number within the task (R84, R290). -/
def passRow (s : State) (h : Nat) : State :=
  match schedTake s h [1] with
  | none => s
  | some (t, d, s1) =>
    passIssue (hmod s1 h (fun x => { x with cur := x.cur.map (fun r => { r with passSeq := (r.passSeq + 1) % 65536 }) })) h t.id t.passSeq d

/-- MATMUL (R84). -/
def execMatmul (h : Nat) (s : State) : Host.Outcome State Fault Refusal := act (only (h < 256) (fun t => passRow t h)) s
/-- TILE_LOAD (R71). -/
def execTileLoad (h : Nat) (s : State) : Host.Outcome State Fault Refusal := act (only (h < 256) (fun t => tileLoad t h)) s
/-- SWAP (R73). -/
def execSwap (h a : Nat) (s : State) : Host.Outcome State Fault Refusal := act (only (h < 256 ∧ a < 2) (fun t => mxSwap t h a)) s
/-- ROW_ENTRY (R87). -/
def execRowEntry (h a : Nat) (s : State) : Host.Outcome State Fault Refusal := act (only (h < 256 ∧ a < 2) (fun t => rowEntry t h a)) s
/-- PRELOAD_START (R81). -/
def execPreloadStart (h a : Nat) (s : State) : Host.Outcome State Fault Refusal := act (only (h < 256 ∧ a < 2) (fun t => preloadStart t h a)) s
/-- PRELOAD_DONE (R81). -/
def execPreloadDone (h a : Nat) (s : State) : Host.Outcome State Fault Refusal := act (only (h < 256 ∧ a < 2) (fun t => preloadDone t h a)) s
/-- ACC_DRAIN (R81). -/
def execAccDrain (h a : Nat) (s : State) : Host.Outcome State Fault Refusal := act (only (h < 256 ∧ a < 2) (fun t => accDrain t h a)) s
/-- OUTPUT_TILE_FULL (R83). -/
def execOutputTileFull (h a : Nat) (s : State) : Host.Outcome State Fault Refusal := act (only (h < 256 ∧ a < 2) (fun t => outputTileFull t h a)) s
/-- MXA_ARRAY_EN (R95). -/
def execMxaArrayEn (h : Nat) (en0 en1 : Bool) (s : State) : Host.Outcome State Fault Refusal :=
  actStk (only (h < 256) (fun t => mxaArrayEn t h (b1 en0 + 2 * b1 en1))) s

end Sys2Proof.Machine
end

