-- ==== Sys2Proof/Machine/CmdMeasure.lean ====
section
/-!
DEFINITION. The meanings of the measurement commands (chapter 16).
-/

namespace Sys2Proof.Machine

/-- HIST_SNAP (R482). -/
def execHistSnap (s : State) : Host.Outcome State Fault Refusal := actStk histSnap s
/-- HIST_CLR (R482). -/
def execHistClr (s : State) : Host.Outcome State Fault Refusal := actStk histClr s
/-- CLOCK_MEASURE (R475). -/
def execClockMeasure (khz : List Nat) (s : State) : Host.Outcome State Fault Refusal := actStk (fun t => clockMeasure t khz) s
/-- DAMPER_WINDOW (R484). -/
def execDamperWindow (port : Nat) (s : State) : Host.Outcome State Fault Refusal := act (only (port < 18) (fun t => damperWindow t port)) s
/-- RATE (R486). -/
def execRate (m : RateMsg) (s : State) : Host.Outcome State Fault Refusal := act (fun t => rateOp t m) s
/-- RATE_INCREASE (R486). -/
def execRateIncrease (flow : Nat) (s : State) : Host.Outcome State Fault Refusal := act (fun t => rateIncrease t flow) s
/-- RATE_RESET_TIMEOUT (R486). -/
def execRateResetTimeout (flow : Nat) (s : State) : Host.Outcome State Fault Refusal := act (fun t => rateReset t flow) s
/-- POWER_LOOP_PERIOD (R488). -/
def execPowerLoopPeriod (f : Nat) (r : PowerReading) (s : State) : Host.Outcome State Fault Refusal := act (only (f < 4) (fun t => powerLoop t f r)) s

end Sys2Proof.Machine
end

