-- ==== Sys2Proof/Machine/CmdPartition.lean ====
section
/-!
DEFINITION. The meanings of the partition, key and report commands (chapter 15).
-/

namespace Sys2Proof.Machine

/-- FORM (R441). -/
def execForm (p : Nat) (units : BitVec 16) (zeroFill : Bool) (s : State) : Host.Outcome State Fault Refusal :=
  actStk (only (p < 16) (fun t => formOp t p units.toNat zeroFill)) s
/-- GROW (R442). -/
def execGrow (p : Nat) (units : BitVec 16) (s : State) : Host.Outcome State Fault Refusal :=
  actStk (only (p < 16) (fun t => growOp t p units.toNat)) s
/-- SHRINK (R443). -/
def execShrink (p : Nat) (units : BitVec 16) (s : State) : Host.Outcome State Fault Refusal :=
  actStk (only (p < 16) (fun t => shrinkOp t p units.toNat)) s
/-- DISSOLVE (R444). -/
def execDissolve (p : Nat) (s : State) : Host.Outcome State Fault Refusal := actStk (only (p < 16) (fun t => dissolveOp t p)) s
/-- HEARTH_LEAVE (R443). -/
def execHearthLeave (h : Nat) (s : State) : Host.Outcome State Fault Refusal := act (only (h < 256) (fun t => hearthLeave t h)) s
/-- PRT_QUOTA_WRITE (R447). -/
def execPrtQuotaWrite (p : Nat) (value : W64) (s : State) : Host.Outcome State Fault Refusal :=
  actStk (only (p < 16) (fun t => prtQuotaWrite t p value.toNat)) s
/-- PRT_RATE_WRITE (R449). -/
def execPrtRateWrite (p : Nat) (value : W64) (s : State) : Host.Outcome State Fault Refusal :=
  actStk (only (p < 16) (fun t => prtRateWrite t p value.toNat)) s
/-- ROTATE_IMPORT (R452). -/
def execRotateImport (p blobVa : Nat) (s : State) : Host.Outcome State Fault Refusal := actStk (only (p < 16) (fun t => rotateImport t p blobVa)) s
/-- ROTATE_GEN (R452). -/
def execRotateGen (p : Nat) (s : State) : Host.Outcome State Fault Refusal := actStk (only (p < 16) (fun t => rotateGen t p)) s
/-- LOAD_FAB (R457). -/
def execLoadFab (p blobVa : Nat) (s : State) : Host.Outcome State Fault Refusal := actStk (only (p < 16) (fun t => loadFabOp t p blobVa)) s
/-- CLEAR_FAB (R457). -/
def execClearFab (p slot : Nat) (s : State) : Host.Outcome State Fault Refusal := actStk (only (p < 16) (fun t => clearFabOp t p slot)) s
/-- KEY_SWEEP_DONE (R452). -/
def execKeySweepDone (p : Nat) (s : State) : Host.Outcome State Fault Refusal := act (only (p < 16) (fun t => keySweepDone t p)) s
/-- PLATFORM_REPORT (R462). -/
def execPlatformReport (s : State) : Host.Outcome State Fault Refusal := actStk platformReport s
/-- TENANT_REPORT (R463). -/
def execTenantReport (p : Nat) (s : State) : Host.Outcome State Fault Refusal := actStk (only (p < 16) (fun t => tenantReport t p)) s
/-- PEER_CHANGED_CLEAR (R465). -/
def execPeerChangedClear (port : Nat) (s : State) : Host.Outcome State Fault Refusal := actStk (only (port < 18) (fun t => peerChangedClear t port)) s

end Sys2Proof.Machine
end

