-- ==== Sys2Proof/Machine/CmdRecovery.lean ====
section
/-!
DEFINITION. The meanings of the fault and recovery commands (chapter 17).
-/

namespace Sys2Proof.Machine

/-- THERMAL_TRIP (R512). -/
def execThermalTrip (site : TripSite) (s : State) : Host.Outcome State Fault Refusal := act (only (site.ok = true) (fun t => thermalTrip t site)) s
/-- THERMAL_COOLED (R512). -/
def execThermalCooled (s : State) : Host.Outcome State Fault Refusal := actStk thermalCooled s
/-- HARD_THERMAL_LIMIT (R571). -/
def execHardThermalLimit (s : State) : Host.Outcome State Fault Refusal := actAny hardThermal s
/-- HEARTH_FAULT (R510). -/
def execHearthFault (h : Nat) (cause : HearthFaultCause) (s : State) : Host.Outcome State Fault Refusal :=
  act (only (h < 256) (fun t => reqFault t h cause)) s
/-- HEARTH_RESET_DONE (R502). -/
def execHearthResetDone (h : Nat) (pass : Bool) (s : State) : Host.Outcome State Fault Refusal :=
  act (only (h < 256) (fun t => heldRelease (hearthResetDone t h pass))) s
/-- TASK_WATCHDOG (R506). -/
def execTaskWatchdog (h : Nat) (draining : Bool) (s : State) : Host.Outcome State Fault Refusal :=
  act (only (h < 256) (fun t => taskWatchdog t h draining)) s
/-- REQUEST_AGE_EXPIRY (R508). -/
def execRequestAgeExpiry (h i : Nat) (s : State) : Host.Outcome State Fault Refusal := act (only (h < 256) (fun t => requestAgeExpiry t h i)) s
/-- STOKER_WATCHDOG (R509). -/
def execStokerWatchdog (s : State) : Host.Outcome State Fault Refusal := act stokerWatchdog s
/-- SUSPECT_START (R514). -/
def execSuspectStart (p : Nat) (s : State) : Host.Outcome State Fault Refusal := actStk (only (p < 16) (fun t => suspectStart t p)) s
/-- SUSPECT_RUN (R515). -/
def execSuspectRun (p : Nat) (s : State) : Host.Outcome State Fault Refusal := actStk (only (p < 16) (fun t => suspectRun t p)) s
/-- SLICE_TAG_PARITY (R512). -/
def execSliceTagParity (sl : Nat) (s : State) : Host.Outcome State Fault Refusal := actAny (only (sl < 4) (fun t => sliceTagParity t sl)) s
/-- BRIDGE_FAILURE (R512). -/
def execBridgeFailure (b : Nat) (s : State) : Host.Outcome State Fault Refusal := actAny (only (b < 6) (fun t => bridgeFailure t b)) s
/-- REFCLK_A_LOSS (R512). -/
def execRefclkALoss (s : State) : Host.Outcome State Fault Refusal := actAny refclkALoss s
/-- REFCLK_B_LOSS (R512). -/
def execRefclkBLoss (s : State) : Host.Outcome State Fault Refusal := actAny refclkBLoss s
/-- REFCLK_BOTH_LOSS (R513). -/
def execRefclkBothLoss (s : State) : Host.Outcome State Fault Refusal := actAny refclkBothLoss s
/-- WARM_RESET (R503). -/
def execWarmReset (remap : Bool) (s : State) : Host.Outcome State Fault Refusal := actAny (fun t => warmReset t remap) s
/-- WARM_RESET_SERVING (R503). -/
def execWarmResetServing (r : WarmResults) (s : State) : Host.Outcome State Fault Refusal := actAny (fun t => warmServing t r) s
/-- HRT_SERVICE (R524). -/
def execHrtService (h : Nat) (s : State) : Host.Outcome State Fault Refusal := actStk (only (h < 256) (fun t => hrtService t h)) s
/-- HRT_RETURN (R511). -/
def execHrtReturn (h : Nat) (s : State) : Host.Outcome State Fault Refusal := actStk (only (h < 256) (fun t => hrtReturn t h)) s
/-- RELEASE_HOLD (R505). -/
def execReleaseHold (h : Nat) (s : State) : Host.Outcome State Fault Refusal := actStk (only (h < 256) (fun t => releaseHold t h)) s
/-- FW_SWITCH (R522). -/
def execFwSwitch (bank : Nat) (s : State) : Host.Outcome State Fault Refusal := actStk (fun t => fwSwitch t bank) s
/-- FW_OK_SET (R522). -/
def execFwOkSet (s : State) : Host.Outcome State Fault Refusal := actStk fwOkSet s
/-- FW_TRIAL_TIMEOUT (R522). -/
def execFwTrialTimeout (s : State) : Host.Outcome State Fault Refusal := act fwTrialTimeout s
/-- DIG_CHECK (R518). -/
def execDigCheck (s : State) : Host.Outcome State Fault Refusal := actStk digCheck s
/-- DIG_REQ (R518). -/
def execDigReq (m : DigMsg) (s : State) : Host.Outcome State Fault Refusal := actStk (fun t => digReq t m) s
/-- DIG_REPLY (R518). -/
def execDigReply (m : DigMsg) (bytes crc : W64) (s : State) : Host.Outcome State Fault Refusal :=
  actStk (fun t => digReply t m bytes.toNat crc.toNat) s
/-- DIG_REPLY_TIMEOUT (R518). -/
def execDigReplyTimeout (s : State) : Host.Outcome State Fault Refusal := act digReplyTimeout s
/-- ERR_INJECT_ARM (R578). -/
def execErrInjectArm (value : W64) (s : State) : Host.Outcome State Fault Refusal := actStk (fun t => errInjectArm t value.toNat) s

end Sys2Proof.Machine
end

