-- ==== Sys2Proof/Machine/CmdScratch.lean ====
section
/-!
DEFINITION. The meanings of the scratchpad commands (chapter 05).
-/

namespace Sys2Proof.Machine

/-- The next schedule entry is a fill, a copy or a release: it enters its operation unit, or takes effect at once (R140, R143, R144). -/
def fillRow (s : State) (h : Nat) : State :=
  match schedTake s h [3] with
  | none => s
  | some (t, d, s1) => spdOpIssue s1 h t.id d

def copyRow (s : State) (h : Nat) : State :=
  match schedTake s h [4] with
  | none => s
  | some (t, d, s1) => spdOpIssue s1 h t.id d

def emptyRow (s : State) (h : Nat) : State :=
  match schedTake s h [5] with
  | none => s
  | some (t, d, s1) => spdOpEmpty s1 h t.id d

/-- One cycle of the banks: every write buffer retires its oldest row (R131), and the running operations write their next rows (R145). -/
def wbufRetireOp (s : State) (h : Nat) : State :=
  opCycle (opCycle (opCycle (hmod s h (fun x => { x with spd := wbCycle x.spd })) h 0) h 1) h 2

/-- SPFILL (R145). -/
def execSpfill (h : Nat) (s : State) : Host.Outcome State Fault Refusal := act (only (h < 256) (fun t => fillRow t h)) s
/-- SPCOPY (R145). -/
def execSpcopy (h : Nat) (s : State) : Host.Outcome State Fault Refusal := act (only (h < 256) (fun t => copyRow t h)) s
/-- SPEMPTY (R140). -/
def execSpempty (h : Nat) (s : State) : Host.Outcome State Fault Refusal := act (only (h < 256) (fun t => emptyRow t h)) s
/-- SPD_OP_START (R144). -/
def execSpdOpStart (h m : Nat) (s : State) : Host.Outcome State Fault Refusal := act (only (h < 256 ∧ m < 3) (fun t => spdOpStart t h m)) s
/-- SPD_OP_DONE (R145). -/
def execSpdOpDone (h m : Nat) (s : State) : Host.Outcome State Fault Refusal := act (only (h < 256 ∧ m < 3) (fun t => spdOpDone t h m)) s
/-- BANK_LATE (R130). -/
def execBankLate (h m row port : Nat) (s : State) : Host.Outcome State Fault Refusal :=
  act (only (h < 256) (fun t => bankLate t h m row port)) s
/-- WBUF_RETIRE (R131). -/
def execWbufRetire (h : Nat) (s : State) : Host.Outcome State Fault Refusal := act (only (h < 256) (fun t => wbufRetireOp t h)) s
/-- SPD_HANDLE_WRITE (R133). -/
def execSpdHandleWrite (h idx : Nat) (value : W64) (s : State) : Host.Outcome State Fault Refusal :=
  actStk (only (h < 256 ∧ idx < 64) (fun t => handleWrite t h idx value.toNat)) s
/-- SPD_SCRUB (R146). -/
def execSpdScrub (h : Nat) (s : State) : Host.Outcome State Fault Refusal := actStk (only (h < 256) (fun t => spdScrub t h)) s
/-- SPD_SCRUB_DONE (R146). -/
def execSpdScrubDone (h : Nat) (s : State) : Host.Outcome State Fault Refusal := act (only (h < 256) (fun t => spdScrubDone t h)) s

end Sys2Proof.Machine
end

