-- ==== Sys2Proof/Machine/CmdStartup.lean ====
section
/-!
DEFINITION. The meanings of the start-up, flash, fuse and test-port commands (chapter 18), and of the rows at the table's end.
-/

namespace Sys2Proof.Machine

/-- COLD_START (R543). -/
def execColdStart (b : BootInputs) (s : State) : Host.Outcome State Fault Refusal := actAny (fun t => coldStart t b) s
/-- RESET_ASSERT (R531). -/
def execResetAssert (s : State) : Host.Outcome State Fault Refusal := actAny resetAssert s
/-- REFCLK_SAMPLE (R532). -/
def execRefclkSample (a b : Bool) (s : State) : Host.Outcome State Fault Refusal := actAny (fun t => refclkSample t a b) s
/-- REFCLK_TIMEOUT (R532). -/
def execRefclkTimeout (s : State) : Host.Outcome State Fault Refusal := actAny refclkTimeout s
/-- ERASE (R550). -/
def execErase (addr : Nat) (s : State) : Host.Outcome State Fault Refusal := actStk (fun t => flashErase t addr) s
/-- PROGRAM (R550). -/
def execProgram (addr len : Nat) (s : State) : Host.Outcome State Fault Refusal := actStk (fun t => flashProgram t addr len) s
/-- READ (R550). -/
def execRead (addr len : Nat) (s : State) : Host.Outcome State Fault Refusal := actStk (fun t => flashReadCmd t addr len) s
/-- VERIFY (R550). -/
def execVerify (copy : Nat) (s : State) : Host.Outcome State Fault Refusal := actStk (fun t => flashVerify t copy) s
/-- OWNER_FUSE (R553). -/
def execOwnerFuse (s : State) : Host.Outcome State Fault Refusal := actStk ownerFuse s
/-- SVN_RAISE (R553). -/
def execSvnRaise (s : State) : Host.Outcome State Fault Refusal := actStk svnRaise s
/-- JTAG_BYPASS (R570). -/
def execJtagBypass (s : State) : Host.Outcome State Fault Refusal := actAny jtagBypass s
/-- JTAG_IDCODE (R570). -/
def execJtagIdcode (s : State) : Host.Outcome State Fault Refusal := actAny jtagIdcode s
/-- JTAG_SAMPLE_PRELOAD (R570). -/
def execJtagSamplePreload (pins : W64) (s : State) : Host.Outcome State Fault Refusal := actAny (fun t => jtagSamplePreload t pins.toNat) s
/-- JTAG_EXTEST (R570). -/
def execJtagExtest (s : State) : Host.Outcome State Fault Refusal := actAny jtagExtest s
/-- PFC_PAUSE_EXPIRY (R415). -/
def execPfcPauseExpiry (prio : Nat) (s : State) : Host.Outcome State Fault Refusal := act (only (prio < 8) (fun t => pfcPauseExpiry t prio)) s
/-- STOKER_RESTART_DONE (R523). -/
def execStokerRestartDone (s : State) : Host.Outcome State Fault Refusal := actAny stokerRestartDone s
/-- RNR_RETRY_TIMEOUT (R421). -/
def execRnrRetryTimeout (qp : Nat) (s : State) : Host.Outcome State Fault Refusal := act (only (qp ≤ 1024) (fun t => rnrRetryTimeout t qp)) s
/-- REFCLK_RETURN (R526). -/
def execRefclkReturn (a : Bool) (s : State) : Host.Outcome State Fault Refusal := actAny (fun t => refclkReturn t a) s
/-- FLASH_CMD_DONE (R551). -/
def execFlashCmdDone (ok : Bool) (s : State) : Host.Outcome State Fault Refusal := actStk (fun t => flashCmdDone t ok) s
/-- PRT_CMD_DONE (R468). -/
def execPrtCmdDone (s : State) : Host.Outcome State Fault Refusal := actStk prtCmdDone s
/-- SEC_KEY_CMD_DONE (R455). -/
def execSecKeyCmdDone (s : State) : Host.Outcome State Fault Refusal := actStk secKeyCmdDone s
/-- SEC_REPORT_DONE (R464). -/
def execSecReportDone (s : State) : Host.Outcome State Fault Refusal := actStk secReportDone s

end Sys2Proof.Machine
end

