-- ==== Sys2Proof/Machine/CmdStreams.lean ====
section
/-!
DEFINITION. The meanings of the flue and bellows commands (chapter 06).
-/

namespace Sys2Proof.Machine

/-- FLUE_IN (R161). -/
def execFlueIn (h f : Nat) (s : State) : Host.Outcome State Fault Refusal := act (only (h < 256 ∧ f < 8) (fun t => flueIn t h f)) s
/-- FLUE_OUT (R171). -/
def execFlueOut (h f : Nat) (s : State) : Host.Outcome State Fault Refusal := act (only (h < 256 ∧ f < 8) (fun t => flueOut t h f)) s
/-- FLUE_LINK (R162). -/
def execFlueLink (h f : Nat) (s : State) : Host.Outcome State Fault Refusal := act (only (h < 256 ∧ f < 8) (fun t => flueLink t h f)) s
/-- FLUE_END (R159). -/
def execFlueEnd (h f : Nat) (s : State) : Host.Outcome State Fault Refusal := act (only (h < 256 ∧ f < 8) (fun t => flueEnd t h f)) s
/-- BLW_GATHER (R179). -/
def execBlwGather (h b : Nat) (s : State) : Host.Outcome State Fault Refusal := act (only (h < 256 ∧ b < 2) (fun t => blwGather t h b)) s
/-- BLW_SCATTER (R180). -/
def execBlwScatter (h b : Nat) (s : State) : Host.Outcome State Fault Refusal := act (only (h < 256 ∧ b < 2) (fun t => blwScatter t h b)) s
/-- BLW_LINK (R178). -/
def execBlwLink (h b : Nat) (s : State) : Host.Outcome State Fault Refusal := act (only (h < 256 ∧ b < 2) (fun t => blwLink t h b)) s
/-- BLW_END (R178). -/
def execBlwEnd (h b : Nat) (s : State) : Host.Outcome State Fault Refusal := act (only (h < 256 ∧ b < 2) (fun t => blwEnd t h b)) s
/-- DESC_BURST (R162). -/
def execDescBurst (h e : Nat) (s : State) : Host.Outcome State Fault Refusal := act (only (h < 256 ∧ e < 10) (fun t => descBurst t h e)) s
/-- READ_REQUEST_ISSUE (R165). -/
def execReadRequestIssue (h : Nat) (s : State) : Host.Outcome State Fault Refusal := act (only (h < 256) (fun t => readRequestIssue t h)) s
/-- WRITE_REQUEST_ISSUE (R165). -/
def execWriteRequestIssue (h : Nat) (s : State) : Host.Outcome State Fault Refusal := act (only (h < 256) (fun t => writeRequestIssue t h)) s
/-- BLW_ELEMENT_REQUEST (R179). -/
def execBlwElementRequest (h b : Nat) (s : State) : Host.Outcome State Fault Refusal :=
  act (only (h < 256 ∧ b < 2) (fun t => blwElementRequest t h b)) s
/-- READ_RESPONSE (R166). -/
def execReadResponse (h i : Nat) (s : State) : Host.Outcome State Fault Refusal := act (only (h < 256) (fun t => readResponse t h i)) s
/-- WRITE_ACK (R166). -/
def execWriteAck (h i : Nat) (s : State) : Host.Outcome State Fault Refusal := act (only (h < 256) (fun t => writeAck t h i)) s
/-- OUT_TILE_READ (R171). -/
def execOutTileRead (h f : Nat) (s : State) : Host.Outcome State Fault Refusal := act (only (h < 256 ∧ f < 8) (fun t => outTileRead t h f)) s
/-- DUE_CHECK (R168). -/
def execDueCheck (h e tile : Nat) (s : State) : Host.Outcome State Fault Refusal :=
  act (only (h < 256 ∧ e < 10) (fun t => attDue (dueCheck t h e tile) h e tile)) s
/-- NEXT_STREAM_START (R159). -/
def execNextStreamStart (h e : Nat) (s : State) : Host.Outcome State Fault Refusal := act (only (h < 256 ∧ e < 10) (fun t => nextStreamStart t h e)) s
/-- HINT_ISSUE (R176). -/
def execHintIssue (h f : Nat) (s : State) : Host.Outcome State Fault Refusal := act (only (h < 256 ∧ f < 8) (fun t => hintIssue t h f)) s
/-- FLU_HINT_CLR (R177). -/
def execFluHintClr (h : Nat) (s : State) : Host.Outcome State Fault Refusal := actStk (only (h < 256) (fun t => fluHintClr t h)) s

end Sys2Proof.Machine
end

