-- ==== Sys2Proof/Machine/CmdTranslate.lean ====
section
/-!
DEFINITION. The meanings of the translation commands (chapter 09).
-/

namespace Sys2Proof.Machine

/-- WALK_COMPLETE (R257). -/
def execWalkComplete (d i : Nat) (s : State) : Host.Outcome State Fault Refusal := act (only (d < 4) (fun t => walkComplete t d i)) s
/-- XLT_OPQ_TAIL_WRITE (R262). -/
def execXltOpqTailWrite (p g tail : Nat) (s : State) : Host.Outcome State Fault Refusal :=
  actStk (only (p < 16 ∧ g < 2) (fun t => opqTailWrite t p g tail)) s
/-- MAP (R264). -/
def execMap (p g : Nat) (s : State) : Host.Outcome State Fault Refusal := act (only (p < 16 ∧ g < 2) (fun t => ringOp t p g 1)) s
/-- UNMAP (R264). -/
def execUnmap (p g : Nat) (s : State) : Host.Outcome State Fault Refusal := act (only (p < 16 ∧ g < 2) (fun t => ringOp t p g 2)) s
/-- SHARE (R264). -/
def execShare (p g : Nat) (s : State) : Host.Outcome State Fault Refusal := act (only (p < 16 ∧ g < 2) (fun t => ringOp t p g 3)) s
/-- PROTECT (R264). -/
def execProtect (p g : Nat) (s : State) : Host.Outcome State Fault Refusal := act (only (p < 16 ∧ g < 2) (fun t => ringOp t p g 4)) s
/-- UNSHARE (R264). -/
def execUnshare (p g : Nat) (s : State) : Host.Outcome State Fault Refusal := act (only (p < 16 ∧ g < 2) (fun t => ringOp t p g 5)) s
/-- REKEY (R273). -/
def execRekey (p g : Nat) (s : State) : Host.Outcome State Fault Refusal := act (only (p < 16 ∧ g < 2) (fun t => ringOp t p g 6)) s
/-- REKEY_META (R274). -/
def execRekeyMeta (p g : Nat) (s : State) : Host.Outcome State Fault Refusal := act (only (p < 16 ∧ g < 2) (fun t => ringOp t p g 7)) s
/-- SHOOTDOWN_ACK (R268). -/
def execShootdownAck (p h : Nat) (s : State) : Host.Outcome State Fault Refusal := act (only (p < 16 ∧ h < 256) (fun t => shootdownAck t p h)) s
/-- SHOOTDOWN_COMPLETE (R268). -/
def execShootdownComplete (p : Nat) (s : State) : Host.Outcome State Fault Refusal := act (only (p < 16) (fun t => shootdownComplete t p)) s
/-- XLT_RESUME (R265). -/
def execXltResume (p g : Nat) (s : State) : Host.Outcome State Fault Refusal := actStk (only (p < 16 ∧ g < 2) (fun t => xltResume t p g)) s
/-- RELEASE_RING_HEAD_WRITE (R266). -/
def execReleaseRingHeadWrite (p head : Nat) (s : State) : Host.Outcome State Fault Refusal :=
  actStk (only (p < 16) (fun t => releaseRingHeadWrite t p head)) s
/-- COPY_ON_WRITE (R270). -/
def execCopyOnWrite (p : Nat) (s : State) : Host.Outcome State Fault Refusal := act (only (p < 16) (fun t => copyOnWrite t p)) s
/-- COW_COPY_DONE (R270). -/
def execCowCopyDone (p : Nat) (s : State) : Host.Outcome State Fault Refusal := act (only (p < 16) (fun t => cowCopyDone t p)) s

end Sys2Proof.Machine
end

