-- ==== Sys2Proof/Machine/CmdVector.lean ====
section
/-!
DEFINITION. The meanings of the vector-engine commands and of the ember instructions (chapter 04).
-/

namespace Sys2Proof.Machine

/-- The next schedule entry is an invocation: it issues with its number within the task (R107, R290). -/
def invRow (s : State) (h : Nat) : State :=
  match schedTake s h [2] with
  | none => s
  | some (t, d, s1) =>
    emberIssue (hmod s1 h (fun x => { x with cur := x.cur.map (fun r => { r with invSeq := (r.invSeq + 1) % 65536 }) })) h t.id t.invSeq d

/-- EMBER (R107). -/
def execEmber (h : Nat) (s : State) : Host.Outcome State Fault Refusal := act (only (h < 256) (fun t => invRow t h)) s
/-- INVOCATION_START (R106). -/
def execInvocationStart (h : Nat) (s : State) : Host.Outcome State Fault Refusal := act (only (h < 256) (fun t => invStart t h)) s
/-- INVOCATION_END (R118). -/
def execInvocationEnd (h : Nat) (s : State) : Host.Outcome State Fault Refusal := act (only (h < 256) (fun t => invEnd t h)) s
/-- INVOCATION_OUTPUT_FULL (R137). -/
def execInvocationOutputFull (h : Nat) (s : State) : Host.Outcome State Fault Refusal := act (only (h < 256) (fun t => invOutFull t h)) s
/-- NOP (R109). -/
def execNop (h : Nat) (s : State) : Host.Outcome State Fault Refusal := act (only (h < 256) (fun t => vecRun t h 0x00)) s
/-- LD (R113). -/
def execLd (h : Nat) (s : State) : Host.Outcome State Fault Refusal := act (only (h < 256) (fun t => vecRun t h 0x01)) s
/-- ST (R113). -/
def execSt (h : Nat) (s : State) : Host.Outcome State Fault Refusal := act (only (h < 256) (fun t => vecRun t h 0x02)) s
/-- FADD (R114). -/
def execFadd (h : Nat) (s : State) : Host.Outcome State Fault Refusal := act (only (h < 256) (fun t => vecRun t h 0x08)) s
/-- FSUB (R114). -/
def execFsub (h : Nat) (s : State) : Host.Outcome State Fault Refusal := act (only (h < 256) (fun t => vecRun t h 0x09)) s
/-- FMUL (R114). -/
def execFmul (h : Nat) (s : State) : Host.Outcome State Fault Refusal := act (only (h < 256) (fun t => vecRun t h 0x0A)) s
/-- FMA (R114). -/
def execFma (h : Nat) (s : State) : Host.Outcome State Fault Refusal := act (only (h < 256) (fun t => vecRun t h 0x0B)) s
/-- FMAX (R114). -/
def execFmax (h : Nat) (s : State) : Host.Outcome State Fault Refusal := act (only (h < 256) (fun t => vecRun t h 0x0C)) s
/-- FMIN (R114). -/
def execFmin (h : Nat) (s : State) : Host.Outcome State Fault Refusal := act (only (h < 256) (fun t => vecRun t h 0x0D)) s
/-- FABS (R114). -/
def execFabs (h : Nat) (s : State) : Host.Outcome State Fault Refusal := act (only (h < 256) (fun t => vecRun t h 0x0E)) s
/-- FNEG (R114). -/
def execFneg (h : Nat) (s : State) : Host.Outcome State Fault Refusal := act (only (h < 256) (fun t => vecRun t h 0x0F)) s
/-- FCMP (R114). -/
def execFcmp (h : Nat) (s : State) : Host.Outcome State Fault Refusal := act (only (h < 256) (fun t => vecRun t h 0x10)) s
/-- SEL (R114). -/
def execSel (h : Nat) (s : State) : Host.Outcome State Fault Refusal := act (only (h < 256) (fun t => vecRun t h 0x11)) s
/-- MOV (R109). -/
def execMov (h : Nat) (s : State) : Host.Outcome State Fault Refusal := act (only (h < 256) (fun t => vecRun t h 0x12)) s
/-- DIV (R114). -/
def execDiv (h : Nat) (s : State) : Host.Outcome State Fault Refusal := act (only (h < 256) (fun t => vecRun t h 0x13)) s
/-- SQRT (R114). -/
def execSqrt (h : Nat) (s : State) : Host.Outcome State Fault Refusal := act (only (h < 256) (fun t => vecRun t h 0x14)) s
/-- EXP2 (R117). -/
def execExp2 (h : Nat) (s : State) : Host.Outcome State Fault Refusal := act (only (h < 256) (fun t => vecRun t h 0x18)) s
/-- EXP (R117). -/
def execExp (h : Nat) (s : State) : Host.Outcome State Fault Refusal := act (only (h < 256) (fun t => vecRun t h 0x19)) s
/-- LOG2 (R117). -/
def execLog2 (h : Nat) (s : State) : Host.Outcome State Fault Refusal := act (only (h < 256) (fun t => vecRun t h 0x1A)) s
/-- RCP (R117). -/
def execRcp (h : Nat) (s : State) : Host.Outcome State Fault Refusal := act (only (h < 256) (fun t => vecRun t h 0x1B)) s
/-- RSQRT (R117). -/
def execRsqrt (h : Nat) (s : State) : Host.Outcome State Fault Refusal := act (only (h < 256) (fun t => vecRun t h 0x1C)) s
/-- TANH (R117). -/
def execTanh (h : Nat) (s : State) : Host.Outcome State Fault Refusal := act (only (h < 256) (fun t => vecRun t h 0x1D)) s
/-- SIGMOID (R117). -/
def execSigmoid (h : Nat) (s : State) : Host.Outcome State Fault Refusal := act (only (h < 256) (fun t => vecRun t h 0x1E)) s
/-- SILU (R117). -/
def execSilu (h : Nat) (s : State) : Host.Outcome State Fault Refusal := act (only (h < 256) (fun t => vecRun t h 0x1F)) s
/-- SIN (R117). -/
def execSin (h : Nat) (s : State) : Host.Outcome State Fault Refusal := act (only (h < 256) (fun t => vecRun t h 0x20)) s
/-- COS (R117). -/
def execCos (h : Nat) (s : State) : Host.Outcome State Fault Refusal := act (only (h < 256) (fun t => vecRun t h 0x21)) s
/-- RSUM (R115). -/
def execRsum (h : Nat) (s : State) : Host.Outcome State Fault Refusal := act (only (h < 256) (fun t => vecRun t h 0x28)) s
/-- RMAX (R115). -/
def execRmax (h : Nat) (s : State) : Host.Outcome State Fault Refusal := act (only (h < 256) (fun t => vecRun t h 0x29)) s
/-- CVT (R61). -/
def execCvt (h : Nat) (s : State) : Host.Outcome State Fault Refusal := act (only (h < 256) (fun t => vecRun t h 0x30)) s
/-- QNT (R64). -/
def execQnt (h : Nat) (s : State) : Host.Outcome State Fault Refusal := act (only (h < 256) (fun t => vecRun t h 0x31)) s
/-- DQNT (R65). -/
def execDqnt (h : Nat) (s : State) : Host.Outcome State Fault Refusal := act (only (h < 256) (fun t => vecRun t h 0x32)) s

end Sys2Proof.Machine
end

