-- ==== Sys2Proof/Machine/Dispatch.lean ====
section
/-!
DEFINITION. The dispatch: one arm per command, each a direct call of its meaning.
-/

namespace Sys2Proof.Machine

def exec (i : Instr) (s : State) : Host.Outcome State Fault Refusal :=
  match i with
  | .csrRead qp addr ctag => Sys2Proof.Machine.execCsrRead qp addr ctag s
  | .csrWrite qp addr value ctag => Sys2Proof.Machine.execCsrWrite qp addr value ctag s
  | .registerWrite who addr value => Sys2Proof.Machine.execRegisterWrite who addr value s
  | .counterClear blk inst => Sys2Proof.Machine.execCounterClear blk inst s
  | .errLogClear blk inst => Sys2Proof.Machine.execErrLogClear blk inst s
  | .matmul h => Sys2Proof.Machine.execMatmul h s
  | .tileLoad h => Sys2Proof.Machine.execTileLoad h s
  | .swap h a => Sys2Proof.Machine.execSwap h a s
  | .rowEntry h a => Sys2Proof.Machine.execRowEntry h a s
  | .preloadStart h a => Sys2Proof.Machine.execPreloadStart h a s
  | .preloadDone h a => Sys2Proof.Machine.execPreloadDone h a s
  | .accDrain h a => Sys2Proof.Machine.execAccDrain h a s
  | .outputTileFull h a => Sys2Proof.Machine.execOutputTileFull h a s
  | .mxaArrayEn h en0 en1 => Sys2Proof.Machine.execMxaArrayEn h en0 en1 s
  | .ember h => Sys2Proof.Machine.execEmber h s
  | .invocationStart h => Sys2Proof.Machine.execInvocationStart h s
  | .invocationEnd h => Sys2Proof.Machine.execInvocationEnd h s
  | .invocationOutputFull h => Sys2Proof.Machine.execInvocationOutputFull h s
  | .nop h => Sys2Proof.Machine.execNop h s
  | .ld h => Sys2Proof.Machine.execLd h s
  | .st h => Sys2Proof.Machine.execSt h s
  | .fadd h => Sys2Proof.Machine.execFadd h s
  | .fsub h => Sys2Proof.Machine.execFsub h s
  | .fmul h => Sys2Proof.Machine.execFmul h s
  | .fma h => Sys2Proof.Machine.execFma h s
  | .fmax h => Sys2Proof.Machine.execFmax h s
  | .fmin h => Sys2Proof.Machine.execFmin h s
  | .fabs h => Sys2Proof.Machine.execFabs h s
  | .fneg h => Sys2Proof.Machine.execFneg h s
  | .fcmp h => Sys2Proof.Machine.execFcmp h s
  | .sel h => Sys2Proof.Machine.execSel h s
  | .mov h => Sys2Proof.Machine.execMov h s
  | .div h => Sys2Proof.Machine.execDiv h s
  | .sqrt h => Sys2Proof.Machine.execSqrt h s
  | .exp2 h => Sys2Proof.Machine.execExp2 h s
  | .exp h => Sys2Proof.Machine.execExp h s
  | .log2 h => Sys2Proof.Machine.execLog2 h s
  | .rcp h => Sys2Proof.Machine.execRcp h s
  | .rsqrt h => Sys2Proof.Machine.execRsqrt h s
  | .tanh h => Sys2Proof.Machine.execTanh h s
  | .sigmoid h => Sys2Proof.Machine.execSigmoid h s
  | .silu h => Sys2Proof.Machine.execSilu h s
  | .sin h => Sys2Proof.Machine.execSin h s
  | .cos h => Sys2Proof.Machine.execCos h s
  | .rsum h => Sys2Proof.Machine.execRsum h s
  | .rmax h => Sys2Proof.Machine.execRmax h s
  | .cvt h => Sys2Proof.Machine.execCvt h s
  | .qnt h => Sys2Proof.Machine.execQnt h s
  | .dqnt h => Sys2Proof.Machine.execDqnt h s
  | .spfill h => Sys2Proof.Machine.execSpfill h s
  | .spcopy h => Sys2Proof.Machine.execSpcopy h s
  | .spempty h => Sys2Proof.Machine.execSpempty h s
  | .spdOpStart h m => Sys2Proof.Machine.execSpdOpStart h m s
  | .spdOpDone h m => Sys2Proof.Machine.execSpdOpDone h m s
  | .bankLate h m row port => Sys2Proof.Machine.execBankLate h m row port s
  | .wbufRetire h => Sys2Proof.Machine.execWbufRetire h s
  | .spdHandleWrite h idx value => Sys2Proof.Machine.execSpdHandleWrite h idx value s
  | .spdScrub h => Sys2Proof.Machine.execSpdScrub h s
  | .spdScrubDone h => Sys2Proof.Machine.execSpdScrubDone h s
  | .flueIn h f => Sys2Proof.Machine.execFlueIn h f s
  | .flueOut h f => Sys2Proof.Machine.execFlueOut h f s
  | .flueLink h f => Sys2Proof.Machine.execFlueLink h f s
  | .flueEnd h f => Sys2Proof.Machine.execFlueEnd h f s
  | .blwGather h b => Sys2Proof.Machine.execBlwGather h b s
  | .blwScatter h b => Sys2Proof.Machine.execBlwScatter h b s
  | .blwLink h b => Sys2Proof.Machine.execBlwLink h b s
  | .blwEnd h b => Sys2Proof.Machine.execBlwEnd h b s
  | .descBurst h e => Sys2Proof.Machine.execDescBurst h e s
  | .readRequestIssue h => Sys2Proof.Machine.execReadRequestIssue h s
  | .writeRequestIssue h => Sys2Proof.Machine.execWriteRequestIssue h s
  | .blwElementRequest h b => Sys2Proof.Machine.execBlwElementRequest h b s
  | .readResponse h idx => Sys2Proof.Machine.execReadResponse h idx s
  | .writeAck h idx => Sys2Proof.Machine.execWriteAck h idx s
  | .outTileRead h f => Sys2Proof.Machine.execOutTileRead h f s
  | .dueCheck h e tile => Sys2Proof.Machine.execDueCheck h e tile s
  | .nextStreamStart h e => Sys2Proof.Machine.execNextStreamStart h e s
  | .hintIssue h f => Sys2Proof.Machine.execHintIssue h f s
  | .fluHintClr h => Sys2Proof.Machine.execFluHintClr h s
  | .chmRead sl idx => Sys2Proof.Machine.execChmRead sl idx s
  | .chmWrite sl idx => Sys2Proof.Machine.execChmWrite sl idx s
  | .chmFillComplete sl idx => Sys2Proof.Machine.execChmFillComplete sl idx s
  | .chmHint sl idx => Sys2Proof.Machine.execChmHint sl idx s
  | .mcastTimeBudget sl p g => Sys2Proof.Machine.execMcastTimeBudget sl p g s
  | .arbRound sl => Sys2Proof.Machine.execArbRound sl s
  | .chmPatrolRead sl => Sys2Proof.Machine.execChmPatrolRead sl s
  | .chmScrub sl p => Sys2Proof.Machine.execChmScrub sl p s
  | .chmScrubDone sl => Sys2Proof.Machine.execChmScrubDone sl s
  | .hbmRead k pc idx => Sys2Proof.Machine.execHbmRead k pc idx s
  | .hbmWrite k pc => Sys2Proof.Machine.execHbmWrite k pc s
  | .hbmCorrectionRewrite k => Sys2Proof.Machine.execHbmCorrectionRewrite k s
  | .hbmRefresh k pc bank => Sys2Proof.Machine.execHbmRefresh k pc bank s
  | .hbmPatrolRead k => Sys2Proof.Machine.execHbmPatrolRead k s
  | .hbmFence k pc kind => Sys2Proof.Machine.execHbmFence k pc kind s
  | .hbmInitFillDone => Sys2Proof.Machine.execHbmInitFillDone s
  | .hbmRetrain k => Sys2Proof.Machine.execHbmRetrain k s
  | .hbmRetrainSelfRefresh k => Sys2Proof.Machine.execHbmRetrainSelfRefresh k s
  | .hbmRetrainDone k failedPcs => Sys2Proof.Machine.execHbmRetrainDone k failedPcs s
  | .walkComplete d idx => Sys2Proof.Machine.execWalkComplete d idx s
  | .xltOpqTailWrite p g tail => Sys2Proof.Machine.execXltOpqTailWrite p g tail s
  | .map p g => Sys2Proof.Machine.execMap p g s
  | .unmap p g => Sys2Proof.Machine.execUnmap p g s
  | .share p g => Sys2Proof.Machine.execShare p g s
  | .protect p g => Sys2Proof.Machine.execProtect p g s
  | .unshare p g => Sys2Proof.Machine.execUnshare p g s
  | .rekey p g => Sys2Proof.Machine.execRekey p g s
  | .rekeyMeta p g => Sys2Proof.Machine.execRekeyMeta p g s
  | .shootdownAck p h => Sys2Proof.Machine.execShootdownAck p h s
  | .shootdownComplete p => Sys2Proof.Machine.execShootdownComplete p s
  | .xltResume p g => Sys2Proof.Machine.execXltResume p g s
  | .releaseRingHeadWrite p head => Sys2Proof.Machine.execReleaseRingHeadWrite p head s
  | .copyOnWrite p => Sys2Proof.Machine.execCopyOnWrite p s
  | .cowCopyDone p => Sys2Proof.Machine.execCowCopyDone p s
  | .graphSubmit qp headerVa ctag deliveries => Sys2Proof.Machine.execGraphSubmit qp headerVa ctag deliveries s
  | .graphCancel qp graphId => Sys2Proof.Machine.execGraphCancel qp graphId s
  | .mixPost qp item => Sys2Proof.Machine.execMixPost qp item s
  | .graphLoad p => Sys2Proof.Machine.execGraphLoad p s
  | .graphActivate p => Sys2Proof.Machine.execGraphActivate p s
  | .taskPlace p => Sys2Proof.Machine.execTaskPlace p s
  | .taskStart h => Sys2Proof.Machine.execTaskStart h s
  | .semrel h => Sys2Proof.Machine.execSemrel h s
  | .taskComplete h draining => Sys2Proof.Machine.execTaskComplete h draining s
  | .taskAbort h draining code => Sys2Proof.Machine.execTaskAbort h draining code s
  | .completionRecordWrite qp => Sys2Proof.Machine.execCompletionRecordWrite qp s
  | .mixStepForm p => Sys2Proof.Machine.execMixStepForm p s
  | .grfMixTableWrite p va => Sys2Proof.Machine.execGrfMixTableWrite p va s
  | .attendAppend h => Sys2Proof.Machine.execAttendAppend h s
  | .attendWork h => Sys2Proof.Machine.execAttendWork h s
  | .attendMerge h => Sys2Proof.Machine.execAttendMerge h s
  | .attendPlan p => Sys2Proof.Machine.execAttendPlan p s
  | .linkSlotTx n => Sys2Proof.Machine.execLinkSlotTx n s
  | .linkDataSlotRx n slot => Sys2Proof.Machine.execLinkDataSlotRx n slot s
  | .param n dev link port cls links => Sys2Proof.Machine.execParam n dev link port cls links s
  | .linkEcho n ts => Sys2Proof.Machine.execLinkEcho n ts s
  | .linkEchoReply n ts => Sys2Proof.Machine.execLinkEchoReply n ts s
  | .down n cause => Sys2Proof.Machine.execDown n cause s
  | .retrainReq n => Sys2Proof.Machine.execRetrainReq n s
  | .replayTimeout n => Sys2Proof.Machine.execReplayTimeout n s
  | .linkLos n lane => Sys2Proof.Machine.execLinkLos n lane s
  | .fecLimit n => Sys2Proof.Machine.execFecLimit n s
  | .noSlotTimeout n => Sys2Proof.Machine.execNoSlotTimeout n s
  | .linkDownTxEnd n => Sys2Proof.Machine.execLinkDownTxEnd n s
  | .linkTrainStart n => Sys2Proof.Machine.execLinkTrainStart n s
  | .linkTrainDone n r => Sys2Proof.Machine.execLinkTrainDone n r s
  | .linkRetrain n => Sys2Proof.Machine.execLinkRetrain n s
  | .linkDrainDone n => Sys2Proof.Machine.execLinkDrainDone n s
  | .linkDrainTimeout n => Sys2Proof.Machine.execLinkDrainTimeout n s
  | .linkDisable n disable => Sys2Proof.Machine.execLinkDisable n disable s
  | .packetRoute n vc => Sys2Proof.Machine.execPacketRoute n vc s
  | .packetAccept n vc => Sys2Proof.Machine.execPacketAccept n vc s
  | .escapeTimeout port vc => Sys2Proof.Machine.execEscapeTimeout port vc s
  | .ackTimer flow => Sys2Proof.Machine.execAckTimer flow s
  | .ackReceive n vc => Sys2Proof.Machine.execAckReceive n vc s
  | .resendTimeout flow seq => Sys2Proof.Machine.execResendTimeout flow seq s
  | .discSend n => Sys2Proof.Machine.execDiscSend n s
  | .discReceive n vc => Sys2Proof.Machine.execDiscReceive n vc s
  | .portDiscovery port => Sys2Proof.Machine.execPortDiscovery port s
  | .colLoad p => Sys2Proof.Machine.execColLoad p s
  | .colUnload p => Sys2Proof.Machine.execColUnload p s
  | .colReset p entry => Sys2Proof.Machine.execColReset p entry s
  | .colCtlFlush p c epoch actLen => Sys2Proof.Machine.execColCtlFlush p c epoch actLen s
  | .bucketStart p c b => Sys2Proof.Machine.execBucketStart p c b s
  | .reduceScatter p c b => Sys2Proof.Machine.execReduceScatter p c b s
  | .allReduce p c b => Sys2Proof.Machine.execAllReduce p c b s
  | .allGather p c b => Sys2Proof.Machine.execAllGather p c b s
  | .allToAll p c => Sys2Proof.Machine.execAllToAll p c s
  | .broadcast p c b => Sys2Proof.Machine.execBroadcast p c b s
  | .multicast p c b => Sys2Proof.Machine.execMulticast p c b s
  | .contrib idx => Sys2Proof.Machine.execContrib idx s
  | .result idx => Sys2Proof.Machine.execResult idx s
  | .block idx => Sys2Proof.Machine.execBlock idx s
  | .bcast idx => Sys2Proof.Machine.execBcast idx s
  | .counts idx => Sys2Proof.Machine.execCounts idx s
  | .done idx => Sys2Proof.Machine.execDone idx s
  | .gap idx => Sys2Proof.Machine.execGap idx s
  | .fetch idx => Sys2Proof.Machine.execFetch idx s
  | .colInstanceComplete p c => Sys2Proof.Machine.execColInstanceComplete p c s
  | .backupDeadline p c b rank => Sys2Proof.Machine.execBackupDeadline p c b rank s
  | .fetchTimeout p c => Sys2Proof.Machine.execFetchTimeout p c s
  | .collWatchdog p c => Sys2Proof.Machine.execCollWatchdog p c s
  | .arpRequest targetIp senderIp senderMac => Sys2Proof.Machine.execArpRequest targetIp senderIp senderMac s
  | .neighborSolicitation targetIp6 senderIp6 senderMac => Sys2Proof.Machine.execNeighborSolicitation targetIp6 senderIp6 senderMac s
  | .ethFrameDrop why => Sys2Proof.Machine.execEthFrameDrop why s
  | .pfcReceive prios quanta => Sys2Proof.Machine.execPfcReceive prios quanta s
  | .pfcRefresh prio => Sys2Proof.Machine.execPfcRefresh prio s
  | .send qp data ce => Sys2Proof.Machine.execSend qp data ce s
  | .rdmaWrite qp rkey va data imm ce => Sys2Proof.Machine.execRdmaWrite qp rkey va data imm ce s
  | .rdmaRead qp rkey va len => Sys2Proof.Machine.execRdmaRead qp rkey va len s
  | .roceAckReceive qp psn syndrome => Sys2Proof.Machine.execRoceAckReceive qp psn syndrome s
  | .cnpReceive qp => Sys2Proof.Machine.execCnpReceive qp s
  | .qpAckTimeout qp => Sys2Proof.Machine.execQpAckTimeout qp s
  | .echo qp tsHost ctag => Sys2Proof.Machine.execEcho qp tsHost ctag s
  | .qpRts qp => Sys2Proof.Machine.execQpRts qp s
  | .qpReset qp => Sys2Proof.Machine.execQpReset qp s
  | .hostLinkDown up => Sys2Proof.Machine.execHostLinkDown up s
  | .ipfixExport => Sys2Proof.Machine.execIpfixExport s
  | .ipfixTemplateRefresh => Sys2Proof.Machine.execIpfixTemplateRefresh s
  | .form p units zeroFill => Sys2Proof.Machine.execForm p units zeroFill s
  | .grow p units => Sys2Proof.Machine.execGrow p units s
  | .shrink p units => Sys2Proof.Machine.execShrink p units s
  | .dissolve p => Sys2Proof.Machine.execDissolve p s
  | .hearthLeave h => Sys2Proof.Machine.execHearthLeave h s
  | .prtQuotaWrite p value => Sys2Proof.Machine.execPrtQuotaWrite p value s
  | .prtRateWrite p value => Sys2Proof.Machine.execPrtRateWrite p value s
  | .rotateImport p blobVa => Sys2Proof.Machine.execRotateImport p blobVa s
  | .rotateGen p => Sys2Proof.Machine.execRotateGen p s
  | .loadFab p blobVa => Sys2Proof.Machine.execLoadFab p blobVa s
  | .clearFab p slot => Sys2Proof.Machine.execClearFab p slot s
  | .keySweepDone p => Sys2Proof.Machine.execKeySweepDone p s
  | .platformReport => Sys2Proof.Machine.execPlatformReport s
  | .tenantReport p => Sys2Proof.Machine.execTenantReport p s
  | .peerChangedClear port => Sys2Proof.Machine.execPeerChangedClear port s
  | .histSnap => Sys2Proof.Machine.execHistSnap s
  | .histClr => Sys2Proof.Machine.execHistClr s
  | .clockMeasure khz => Sys2Proof.Machine.execClockMeasure khz s
  | .damperWindow port => Sys2Proof.Machine.execDamperWindow port s
  | .rate m => Sys2Proof.Machine.execRate m s
  | .rateIncrease flow => Sys2Proof.Machine.execRateIncrease flow s
  | .rateResetTimeout flow => Sys2Proof.Machine.execRateResetTimeout flow s
  | .powerLoopPeriod f r => Sys2Proof.Machine.execPowerLoopPeriod f r s
  | .thermalTrip site => Sys2Proof.Machine.execThermalTrip site s
  | .thermalCooled => Sys2Proof.Machine.execThermalCooled s
  | .hardThermalLimit => Sys2Proof.Machine.execHardThermalLimit s
  | .hearthFault h cause => Sys2Proof.Machine.execHearthFault h cause s
  | .hearthResetDone h pass => Sys2Proof.Machine.execHearthResetDone h pass s
  | .taskWatchdog h draining => Sys2Proof.Machine.execTaskWatchdog h draining s
  | .requestAgeExpiry h idx => Sys2Proof.Machine.execRequestAgeExpiry h idx s
  | .stokerWatchdog => Sys2Proof.Machine.execStokerWatchdog s
  | .suspectStart p => Sys2Proof.Machine.execSuspectStart p s
  | .suspectRun p => Sys2Proof.Machine.execSuspectRun p s
  | .sliceTagParity sl => Sys2Proof.Machine.execSliceTagParity sl s
  | .bridgeFailure b => Sys2Proof.Machine.execBridgeFailure b s
  | .refclkALoss => Sys2Proof.Machine.execRefclkALoss s
  | .refclkBLoss => Sys2Proof.Machine.execRefclkBLoss s
  | .refclkBothLoss => Sys2Proof.Machine.execRefclkBothLoss s
  | .warmReset remap => Sys2Proof.Machine.execWarmReset remap s
  | .warmResetServing r => Sys2Proof.Machine.execWarmResetServing r s
  | .hrtService h => Sys2Proof.Machine.execHrtService h s
  | .hrtReturn h => Sys2Proof.Machine.execHrtReturn h s
  | .releaseHold h => Sys2Proof.Machine.execReleaseHold h s
  | .fwSwitch bank => Sys2Proof.Machine.execFwSwitch bank s
  | .fwOkSet => Sys2Proof.Machine.execFwOkSet s
  | .fwTrialTimeout => Sys2Proof.Machine.execFwTrialTimeout s
  | .digCheck => Sys2Proof.Machine.execDigCheck s
  | .digReq m => Sys2Proof.Machine.execDigReq m s
  | .digReply m bytes crc => Sys2Proof.Machine.execDigReply m bytes crc s
  | .digReplyTimeout => Sys2Proof.Machine.execDigReplyTimeout s
  | .errInjectArm value => Sys2Proof.Machine.execErrInjectArm value s
  | .coldStart b => Sys2Proof.Machine.execColdStart b s
  | .resetAssert => Sys2Proof.Machine.execResetAssert s
  | .refclkSample a b => Sys2Proof.Machine.execRefclkSample a b s
  | .refclkTimeout => Sys2Proof.Machine.execRefclkTimeout s
  | .erase addr => Sys2Proof.Machine.execErase addr s
  | .program addr len => Sys2Proof.Machine.execProgram addr len s
  | .read addr len => Sys2Proof.Machine.execRead addr len s
  | .verify copy => Sys2Proof.Machine.execVerify copy s
  | .ownerFuse => Sys2Proof.Machine.execOwnerFuse s
  | .svnRaise => Sys2Proof.Machine.execSvnRaise s
  | .jtagBypass => Sys2Proof.Machine.execJtagBypass s
  | .jtagIdcode => Sys2Proof.Machine.execJtagIdcode s
  | .jtagSamplePreload pins => Sys2Proof.Machine.execJtagSamplePreload pins s
  | .jtagExtest => Sys2Proof.Machine.execJtagExtest s
  | .pfcPauseExpiry prio => Sys2Proof.Machine.execPfcPauseExpiry prio s
  | .stokerRestartDone => Sys2Proof.Machine.execStokerRestartDone s
  | .rnrRetryTimeout qp => Sys2Proof.Machine.execRnrRetryTimeout qp s
  | .refclkReturn a => Sys2Proof.Machine.execRefclkReturn a s
  | .flashCmdDone ok => Sys2Proof.Machine.execFlashCmdDone ok s
  | .prtCmdDone => Sys2Proof.Machine.execPrtCmdDone s
  | .secKeyCmdDone => Sys2Proof.Machine.execSecKeyCmdDone s
  | .secReportDone => Sys2Proof.Machine.execSecReportDone s

end Sys2Proof.Machine
end

