-- ==== Sys2Proof/Safety.lean ====
section
/-!
DEFINITION. The terms in which statements speak of a run of the device: a calm device, what a command may change besides its own effect, and
frames.
-/

namespace Sys2Proof.Machine

/-- A calm device: it serves, the Stoker does not restart (R523), no access waits, no abort or hearth fault is due, no suspect procedure, hearth service or warm
reset waits (R499, R515, R524), no collective table waits to be unloaded (R389), no unit leaves a partition (R443) and no sweep has work to post
(R452). What follows from a command then is at most the note of a partition over its quota (R448). -/
structure Calm (s : State) : Prop where
  run : s.stk.phase = .run
  here : s.away = false
  free : s.held = false
  aborts : s.dueAborts = []
  faults : s.dueHrt = []
  susp : s.stk.susp = none
  service : s.stk.service = none
  warmQ : s.stk.warmQ = none
  unl : s.colUnl = []
  parts : ∀ p, (partGet s p).leaving = 0 ∧ ((partGet s p).sweep = 0 ∨ (partGet s p).sweep = 2)

/-- The registers in which a partition over its quota is noted (R448). -/
def noteRegs : List Nat := [R.prtErrLog.addr, R.prtErrCount.addr]

/-- `t` is `u` with the commands `q` waiting, but for the note of partitions over their quota. -/
structure Follows (q : List Instr) (u t : State) : Prop where
  eq : t = { u with pending := q, csr := t.csr, parts := t.parts, dueAborts := [], dueHrt := [] }
  regs : ∀ r : Reg, r.addr ∉ noteRegs → rd t r = rd u r
  parts : ∀ p, { partGet t p with over_ := false } = { partGet u p with over_ := false }

/-- A command is carried out: its next state holds `P`. -/
def Completes (c : Instr) (s : State) (P : State → Prop) : Prop := ∃ t, exec c s = .next t ∧ P t

/-- A command leads to `v`, but for the note of partitions over their quota; the commands that wait are kept. -/
def Leads (c : Instr) (s v : State) : Prop := Completes c s (Follows s.pending v)

/-- Registers outside a list, and outside the note of R448, hold what they held; so do the partitions but for OVER_QUOTA. -/
structure SameRegs (s t : State) (rs : List Reg) : Prop where
  regs : ∀ r : Reg, r.addr ∉ rs.map Reg.addr → r.addr ∉ noteRegs → rd t r = rd s r
  parts : ∀ p, { partGet t p with over_ := false } = { partGet s p with over_ := false }

/-- A command of hearth `h` changed nothing but that hearth and the registers listed: the commands that wait, every other hearth and every other
part of the device are as they were. -/
structure HearthOnly (s t : State) (h : Nat) (rs : List Reg) : Prop extends SameRegs s t rs where
  eq : t = { s with hearths := t.hearths, csr := t.csr, parts := t.parts, tx := [] }
  other : ∀ k, k ≠ h → hget t k = hget s k

/-- Nothing but registers changed. -/
structure RegsOnly (s t : State) (rs : List Reg) : Prop extends SameRegs s t rs where
  eq : t = { s with csr := t.csr, parts := t.parts, tx := [] }

/-- Nothing changed but the parts that `f` puts back from `s`, registers and the note of R448. -/
structure ChangesOnly (s t : State) (f : State → State → State) (rs : List Reg) : Prop extends SameRegs s t rs where
  eq : t = { f s t with csr := t.csr, parts := t.parts, tx := t.tx, fresh := t.fresh }

/-- A queue pair may send at once: it has no message to send before, no RNR NAK holds it back (R421), its send rate leaves it free (R487), and the host
does not pause its priority (R415). -/
structure Sends (s : State) (q : Nat) : Prop where
  pace : (qpGet s q).pace = []
  rnr : (qpGet s q).rnrWait = false
  rate : (qpGet s q).limit = 0 ∨ (qpGet s q).freeAt ≤ telNow s
  prio : bit s.hport.paused (qpPrio s q) = false

/-- A queue pair sends `m` as requester: it leaves at once, and waits for its acknowledgement (R421). -/
def Sent (s t : State) (q : Nat) (m : TxMsg) : Prop := (qpGet t q).sq = (qpGet s q).sq ++ [m] ∧ t.tx = [frameOf s (.request q m)]

/-- The SEND message that answers a host command (R424). -/
def answerMsg (s : State) (q op status ctag value extra : Nat) : TxMsg :=
  ⟨(qpGet s q).sqPsn, 1, 0, leBytes 1 (op % 128 + 128) ++ leBytes 1 status ++ leBytes 2 0 ++ leBytes 4 ctag ++ leBytes 8 value ++ leBytes 16 extra,
    0, 0, 0, 0⟩

/-- The registers that an answered host command counts in: frames, bytes and the shortest command latency (R435, R481). -/
def answerRegs : List Reg := [R.hstTxFrames, R.hstTxBytes, R.telHistHB 26 0]

/-- A queue pair takes host commands, has none waiting (R418, R422), and may answer at once. -/
structure Listens (s : State) (q : Nat) : Prop extends Sends s q where
  qp : q ≤ 1024
  rts : qpState s q = 1
  formed : q < 1024 → prtFormed s (qpPart q) = true
  cmds : (qpGet s q).cmds = []

/-- The update unit may go on with page `i` of the record `rc` at the head of ring `g` of partition `p`, from state `w` (R260–R265): the ring is ready
and no other action of the unit is under way; the operation has begun and `i` is its next page, or the ring's turn has come and the record is read. -/
structure RingHead (s : State) (p g rc i : Nat) (w : State) : Prop where
  part : p < 16
  ring : g < 2
  formed : prtFormed s p = true
  ready : opqReady s p g = true
  free : unitBusy (xlGet s p) g = false
  turn : (ringGet (xlGet s p) g).page = some i ∧ rc = (ringGet (xlGet s p) g).cmd ∧ w = quiet s ∨
    (ringGet (xlGet s p) g).page = none ∧ ((xlGet s p).last ≠ g ∨ opqReady s p (1 - g) = false) ∧ rcBad rc = false ∧
      i = (if (ringGet (xlGet s p) g).again then rcDone rc else 0) ∧
      ∃ bs w1, recordRead (quiet s) p g = (some bs, w1) ∧ rc = leVal bs ∧
        w = xlMod w1 p (fun x => ringSet { x with last := g } g { ringGet x g with cmd := rc, again := false })

/-- No packet of a queue pair is taken as marked CE by the device itself (R416, R487). -/
def NoCe (s : State) (q : Nat) : Prop :=
  (bit (rd s R.hstEcnCfg) 24 = false ∨ rxOcc s (qpPrio s q) < 1024 * rdf s R.hstEcnCfg 0 10) ∧ (q < 1024 → partCong s (qpPart q) = false)

/-- The port takes a request of a queue pair and answers it at once: the link is up, no word of the host region fails, no older request of the queue pair
waits, none of its packets is taken as marked, and the host does not pause its priority (R412, R415–R418). -/
structure Hears (s : State) (q : Nat) : Prop where
  up : s.hport.up = true
  inj : injKind s 16 0 = none
  pool : ∀ m ∈ s.hport.pool, m.q ≠ q
  ce : NoCe s q
  prio : bit s.hport.paused (qpPrio s q) = false

/-- Messages of a queue pair that wait for its priority. -/
def hasWaiting (s : State) (q : Nat) : Prop := ∃ e ∈ s.hport.wait, match e.2 with
  | .request r _ | .ack r _ _ _ | .readData r _ _ | .cnp r => r = q
  | _ => False

/-- A device at rest: no partition is formed, no task is on a hearth, no data queue pair is in use, and no retrain, firmware trial or flash command is
under way. -/
structure AtRest (s : State) : Prop where
  formed : ∀ p, prtFormed s p = false
  tasks : ∀ h, (hget s h).cur = none ∧ (hget s h).drain = none
  qps : dataQps s = []
  trains : ∀ k, bit (rd s (R.memTrain k)) 1 = false
  trial : s.stk.trial = none
  flash : s.stk.flashRun = none

/-- Registers that hold what their callers write into them, and whose writes do nothing else. -/
def plainIds : List RegId :=
  [.chmMcBudget, .chmArbWeight, .memScrubCfg, .grfMixCfg, .fabRouteD, .hstPfcCfg, .hstEcnCfg, .telDmpCfg, .telDmpLim, .pwrFbCapF, .stkWdogCfg]

/-- The vector engine runs the invocation `iv`, whose next instruction is `w` (R103). -/
def NextWord (v : Vector) (iv : Invoc) (q : List Invoc) (w : Nat) : Prop :=
  v.running = true ∧ v.q = iv :: q ∧ v.pc < progLen (progOf v (ivProg iv.desc)) ∧ v.r < iv.rows ∧
    (progOf v (ivProg iv.desc)).getD v.pc 0 = w

/-- The elementwise instructions of the table of R109, with their opcodes. -/
def elementwise (h : Nat) : List (Instr × Nat) :=
  [(.fadd h, 0x08), (.fsub h, 0x09), (.fmul h, 0x0A), (.fma h, 0x0B), (.fmax h, 0x0C), (.fmin h, 0x0D), (.fabs h, 0x0E), (.fneg h, 0x0F),
   (.fcmp h, 0x10), (.sel h, 0x11), (.mov h, 0x12), (.div h, 0x13), (.sqrt h, 0x14), (.exp2 h, 0x18), (.exp h, 0x19), (.log2 h, 0x1A),
   (.rcp h, 0x1B), (.rsqrt h, 0x1C), (.tanh h, 0x1D), (.sigmoid h, 0x1E), (.silu h, 0x1F), (.sin h, 0x20), (.cos h, 0x21)]

/-- What engine `e` holds once its issuing stream is `st` (R159). -/
def engineWith (x : Hearth) (e : Nat) (nx : Bool) (st : Stream) : Engine :=
  if nx then { engGet x e with next := some st } else { engGet x e with cur := some st }

end Sys2Proof.Machine
end

