-- ==== Sys2Proof/Certificates/Slice0/Obligations.lean ====
section
/-!
DEFINITION. The statements for the provers. Each gives, for every state and operands that meet its hypotheses, what a command leads to: `Completes` says
that the command ends in a next state and what that state holds. Where a hypothesis names a calm device, nothing else is due then.
-/

open Sys2Proof Sys2Proof.Machine

/-! Matrix arrays and number formats (chapters 02, 03). -/

/-- R42–R44: the values of the F8, F4, INT8, INT4 and INT32 codes. F8 has the layout S.EEEE.MMM with bias 7 and subnormals, two NaN codes and no
infinity; F4 has the values of its table, one NaN, no infinity and no −0; the integers are two's complement, with their ranges. -/
def Obligations.NarrowFormats : Prop :=
  let val (v : FVal) (x : ℚ) : Prop := ∃ n m e, v = .fin n m e ∧ (if n then -1 else 1) * (m : ℚ) * (2 : ℚ) ^ e = x
  (∀ c, c < 256 →
    let S : Nat := c / 128
    let E : Nat := c / 8 % 16
    let M : Nat := c % 8
    (E = 15 ∧ M = 7 → fmtVal 3 c = .nan) ∧
    (E = 0 → val (fmtVal 3 c) ((-1 : ℚ) ^ S * (2 : ℚ) ^ (-6 : ℤ) * ((M : ℚ) / 8))) ∧
    (E ≠ 0 → ¬(E = 15 ∧ M = 7) → val (fmtVal 3 c) ((-1 : ℚ) ^ S * (2 : ℚ) ^ ((E : ℤ) - 7) * (1 + (M : ℚ) / 8))) ∧
    ∀ n, fmtVal 3 c ≠ .inf n) ∧
  (∃ e, fmtVal 3 0x00 = .fin false 0 e ∧ fmtVal 3 0x80 = .fin true 0 e) ∧
  (∀ x ∈ [((0, 0) : Nat × ℚ), (1, 1 / 2), (2, 1), (3, 3 / 2), (4, 2), (5, 3), (6, 4), (7, 6), (9, -(1 / 2)), (10, -1), (11, -(3 / 2)), (12, -2), (13, -3),
    (14, -4), (15, -6)], val (fmtVal 4 x.1) x.2) ∧
  fmtVal 4 8 = .nan ∧ (∀ c, c < 16 → (∀ n, fmtVal 4 c ≠ .inf n) ∧ ∀ e, fmtVal 4 c ≠ .fin true 0 e) ∧
  ∀ x ∈ [((5, 8) : Nat × Nat), (6, 4), (7, 32)], ∀ w, w < 2 ^ x.2 →
    val (fmtVal x.1 w) ((BitVec.ofNat x.2 w).toInt : ℚ) ∧ -2 ^ (x.2 - 1) ≤ (BitVec.ofNat x.2 w).toInt ∧
      (BitVec.ofNat x.2 w).toInt ≤ 2 ^ (x.2 - 1) - 1

/-- R84, R86: a pass that meets the checks of its issue enters the tail of its array's queue, its output slots and its L slots are reserved, and
with TQ_PUSH so are its tile-queue entries; the entry leaves the schedule. The loader's list of requests may grow; nothing else of the hearth and
nothing else of the device changes. Completes: MATMUL. -/
def Obligations.MatmulEntersQueue : Prop :=
  ∀ (s : State) (h : Nat) (t : TaskRun) (e : SchedEnt) (r : List SchedEnt), h < 256 → Calm s → (hget s h).cur = some t → t.sched = e :: r →
    bits e.desc 0 8 = 1 →
    let x := hget s h
    let d := e.desc
    let a := psArray d
    (arr x a).q.length < 2 → psBoundOk x.spd t.id d = true → slotsFree x.spd (psOKeys x.spd d) = true →
    (∀ k ∈ psLKeys x.spd d, (slotGet x.spd k).full = true ∧ (slotGet x.spd k).rsv = false) →
    (psTqPush d = true → tqUsed x.vec + psTiles d ≤ 8) →
    Completes (.matmul h) s (fun u => HearthOnly s u h [] ∧
      let y : Hearth := arrPut { x with
          spd := slotsMod x.spd (psOKeys x.spd d ++ psLKeys x.spd d) (slotReserve t.id)
          vec := if psTqPush d then { x.vec with resv := x.vec.resv ++ [⟨t.id, a, t.passSeq, psTiles d⟩] } else x.vec
          cur := some { t with sched := r, passSeq := (t.passSeq + 1) % 65536 } } a
        { arr x a with q := (arr x a).q ++ [⟨d, t.id, t.passSeq, 0, 0, 0, 0, false, 0, 0, 0⟩] }
      hget u h = if (arr x a).shadow.isNone && x.mx.ldBusy ≠ some a then ldRequest y a else y)

/-- R53–R57, R79, R85, R87, R88, R92: in a core cycle of an array with no cause for a bubble the next row of the pass enters: with its slots FULL
and its mask bit set, or no mask, each column's sum is added to that row's accumulator, the pass goes on to its next row, block or output tile, and
MXA_VALID_ROWS counts; an INT32 saturation sets the task's flag. A cycle with a cause for a bubble is counted under that cause alone, in MXA_BUB_GAP
with no pass queued. A load of the array whose 32nd cycle this is ends and is counted. Completes: ROW_ENTRY. -/
def Obligations.RowsEnter : Prop :=
  (∀ (s : State) (h a : Nat) (p : Pass) (q : List Pass) (w : WTile), h < 256 → a < 2 → Calm s →
    let x := hget s h
    let r := arrTick (arr x a)
    let d := p.desc
    let row := 64 * p.j + p.i
    let b := hdlRow x.spd (psAHandle d) (psAOffset d)
    let bs := hdlRow x.spd (psAsHandle d) (psAsOffset d)
    let segs := maskSegs x.spd d row ++ rowSegs d b row p.t ++ rowScaleSegs d bs row p.t
    r.q = p :: q → bubble r h a = none → r.active = some w → psMaskEn d = false ∨ maskBit x.spd d row = true →
    slotsFull x.spd (segKeys 1 segs) = true → injKind s 3 h = none → injKind s 1 h = none → (∀ g ∈ segs, staleHit x 1 g.1 g.2 = none) →
    let v := accSet r (p.j % 2)
    let v0 := accBegin v p
    let y := accRow d (rowOperand x.spd d b bs row p.t) w p.i v0.vals (List.range w.n)
    Completes (.rowEntry h a) s (fun u => HearthOnly s u h [R.mxaValidRowsA h a, R.mxaTileLoadsA h a] ∧ (hget u h).spd = x.spd ∧ (hget u h).vec = x.vec ∧
      arr (hget u h) a = arrAdvance (accPut r (p.j % 2) { v0 with vals := y.1 }) p q ∧ arr (hget u h) (1 - a) = arr x (1 - a) ∧
      (bit (rd s (R.mxaCtrl h)) 2 = false → rd u (R.mxaValidRowsA h a) = (rd s (R.mxaValidRowsA h a) + 1) % 2 ^ 48) ∧
      (∀ t, x.cur = some t → t.id = p.own → y.2 = true → (hget u h).cur = some { t with sat := t.sat ||| (1 <<< a) }))) ∧
  (∀ (s : State) (h a : Nat) (c : Reg), h < 256 → a < 2 → Calm s → bubble (arrTick (arr (hget s h) a)) h a = some c →
    bit (rd s (R.mxaCtrl h)) 2 = false →
    Completes (.rowEntry h a) s (fun u => HearthOnly s u h [c, R.mxaTileLoadsA h a] ∧ rd u c = (rd s c + 1) % 2 ^ 48 ∧
      ((arr (hget s h) a).q = [] → c = R.mxaBubGapA h a) ∧ arr (hget u h) a = arrTick (arr (hget s h) a) ∧
      arr (hget u h) (1 - a) = arr (hget s h) (1 - a) ∧ (hget u h).spd = (hget s h).spd ∧ (hget u h).vec = (hget s h).vec ∧
      ((hget s h).mx.ldBusy = some a → (hget s h).mx.ldLeft ≤ 1 → (hget u h).mx.ldBusy = none ∧
        rd u (R.mxaTileLoadsA h a) = (rd s (R.mxaTileLoadsA h a) + 1) % 2 ^ 48)))

/-- R71–R73, R81, R83, R93, R95: a loaded tile that fits the first pass becomes the active set; a preload puts 64 rows of L into the free set of its
output tile and ends with the set ready; the last write of a draining tile fills its slots and frees its set; ARRAY_EN takes the bits written.
Completes: SWAP, TILE_LOAD, PRELOAD_START, PRELOAD_DONE, ACC_DRAIN, OUTPUT_TILE_FULL, MXA_ARRAY_EN. -/
def Obligations.ArrayOperations : Prop :=
  (∀ (s : State) (h a : Nat) (p : Pass) (q : List Pass), h < 256 → a < 2 → Calm s → (arr (hget s h) a).q = p :: q → p.sw = false →
    shadowFits (arr (hget s h) a) p = true →
    Completes (.swap h a) s (fun u => HearthOnly s u h [R.mxaTileLoadsA h a] ∧ (hget u h).mx.ldBusy ≠ some a ∧ (arr (hget u h) a).active = (arr (hget s h) a).shadow ∧
      (arr (hget u h) a).shadow = none ∧ (arr (hget u h) a).q = { p with sw := true } :: q ∧ arr (hget u h) (1 - a) = arr (hget s h) (1 - a) ∧
      (hget u h).spd = (hget s h).spd ∧ (hget u h).vec = (hget s h).vec)) ∧
  (∀ (s : State) (h a : Nat) (rest : List Nat) (qi : Nat) (p : Pass), h < 256 → a < 2 → Calm s →
    (hget s h).mx.ldReq = a :: rest → ldNext (arr (hget s h) a).q = some (qi, p) →
    let x := hget s h
    let m := psTileSrc p.desc
    let b := hdlRow x.spd (psWHandle p.desc) (psWOffset p.desc)
    let bs := hdlRow x.spd (psWsHandle p.desc) (psWsOffset p.desc)
    let segs := tileSegs p.desc b p.lt ++ tileScaleSegs p.desc bs p.lt
    slotsFull x.spd (segKeys m segs) = true → injKind s 3 h = none → (∀ g ∈ segs, staleHit x m g.1 g.2 = none) →
    Completes (.tileLoad h) s (fun u => HearthOnly s u h [R.mxaTileLoadsA h 0, R.mxaTileLoadsA h 1] ∧ (hget u h).mx.ldReq = rest ∧
      (hget u h).mx.ldBusy = some a ∧ (hget u h).mx.ldLeft = 32 ∧
      (arr (hget u h) a).shadow = some ⟨p.own, p.seq, p.lj, p.lt, psWFmt p.desc, psN p.desc, psKRows p.desc p.lt,
        tileCells x.spd m p.desc b p.lt, tileScales x.spd m p.desc bs p.lt⟩ ∧
      (arr (hget u h) a).active = (arr x a).active ∧ (hget u h).spd = x.spd ∧ (hget u h).vec = x.vec)) ∧
  (∀ (s : State) (h a qi : Nat) (p : Pass), h < 256 → a < 2 → Calm s → preNext (arr (hget s h) a).q = some (qi, p) →
    let x := hget s h
    let r := arr x a
    let row := hdlRow x.spd (psLHandle p.desc) (psLOffset p.desc + p.pre * 4 * psN p.desc)
    (accSet r (p.pre % 2)).st = 0 → r.set0.st ≠ 1 → r.set1.st ≠ 1 → setAwaited r.q qi (p.pre % 2) = false →
    injKind s 3 h = none → staleHit x 2 row (4 * psN p.desc) = none →
    Completes (.preloadStart h a) s (fun u => HearthOnly s u h [] ∧
      accSet (arr (hget u h) a) (p.pre % 2) = ⟨1, p.own, p.seq, p.pre, loadTile x.spd p.desc p.pre, 0⟩ ∧
      (arr (hget u h) a).q = lset r.q qi { p with pre := p.pre + 1 } ∧ (hget u h).spd = x.spd)) ∧
  (∀ (s : State) (h a i : Nat), h < 256 → a < 2 → i < 2 → Calm s → (accSet (arr (hget s h) a) i).st = 1 →
    Completes (.preloadDone h a) s (fun u => HearthOnly s u h [] ∧
      accSet (arr (hget u h) a) i = { accSet (arr (hget s h) a) i with st := 2 } ∧ (arr (hget u h) a).q = (arr (hget s h) a).q ∧
      (hget u h).spd = (hget s h).spd)) ∧
  (∀ (s : State) (h a i : Nat) (o : OutTile), h < 256 → a < 2 → Calm s → drainNext (arr (hget s h) a).outs = some (i, o) → injKind s 1 h = none →
    let x := hget s h
    let b := hdlRow x.spd (psOHandle o.desc) (psOOffset o.desc + o.j * 4 * psN o.desc)
    let w := wbStream x.spd (drainRows b (psN o.desc) (accSet (arr x a) o.set).vals)
    w.2 = none →
    Completes (.accDrain h a) s (fun u => HearthOnly s u h [] ∧ (hget u h).spd = w.1 ∧
      (arr (hget u h) a).outs = lset (arr x a).outs i { o with drain := true } ∧ (arr (hget u h) a).q = (arr x a).q)) ∧
  (∀ (s : State) (h a : Nat) (o : OutTile) (rest : List OutTile), h < 256 → a < 2 → Calm s → (arr (hget s h) a).outs = o :: rest →
    o.drain = true → psTqPush o.desc = false → o.j + 1 ≠ psTiles o.desc →
    let x := hget s h
    Completes (.outputTileFull h a) s (fun u => HearthOnly s u h [] ∧ (arr (hget u h) a).outs = rest ∧
      (hget u h).spd = slotsMod x.spd (slotKeys 2 (hdlRow x.spd (psOHandle o.desc) (psOOffset o.desc + o.j * 4 * psN o.desc)) (4 * psN o.desc))
        slotFill ∧ (hget u h).vec = x.vec)) ∧
  (∀ (s : State) (h : Nat) (e0 e1 : Bool), h < 256 → Calm s → (hget s h).next = none →
    Completes (.mxaArrayEn h e0 e1) s (fun u => HearthOnly s u h [R.mxaCtrl h] ∧ hget u h = hget s h ∧
      rd u (R.mxaCtrl h) = setBits (rd s (R.mxaCtrl h)) 0 2 (b1 e0 + 2 * b1 e1)))

/-! Vector engine (chapter 04). -/

/-- R104, R108, R109, R112: with S = 0 an elementwise instruction gives each of the VL active elements of VD the result for that element's source
codes and leaves the inactive ones, every other register and the scratchpads; the next instruction is next; VEC_ISSUE_CYCLES gains its chunks.
Completes: FADD, FSUB, FMUL, FMA, FMAX, FMIN, FABS, FNEG, FCMP, SEL, MOV, DIV, SQRT, EXP2, EXP, LOG2, RCP, RSQRT, TANH, SIGMOID, SILU, SIN, COS. -/
def Obligations.ElementwiseResults : Prop :=
  ∀ (s : State) (h : Nat) (iv : Invoc) (q : List Invoc) (w : Nat) (c : Instr × Nat), h < 256 → Calm s → c ∈ elementwise h →
    NextWord (hget s h).vec iv q w → inOp w = c.2 → inS w = false →
    let v := (hget s h).vec
    Completes c.1 s (fun u =>
      let z := (hget u h).vec
      HearthOnly s u h [R.vecIssueCycles h, R.vecDepWait h] ∧ (hget u h).spd = (hget s h).spd ∧ z.a = v.a ∧ z.draw = v.draw ∧
      (bit (rd s (R.vecCtrl h)) 0 = false → rd u (R.vecIssueCycles h) = (rd s (R.vecIssueCycles h) + chunks v iv.desc w) % 2 ^ 48) ∧
      (∀ i, tgetD (tgetD z.e (inVd w) ⟨0, []⟩).v i 0 =
        if i < v.vl then arith c.2 (inW w) (inX w) (srcCode v iv.desc (inSa w) i) (srcCode v iv.desc (inSb w) i) (srcCode v iv.desc (inSc w) i)
        else tgetD (tgetD v.e (inVd w) ⟨0, []⟩).v i 0) ∧
      (tgetD z.e (inVd w) ⟨0, []⟩).ty = (if inW w then 2 else 0) ∧ (∀ r, r ≠ inVd w → tget z.e r = tget v.e r) ∧
      (z.pc, z.seg, z.r) = ((vecAdvance v iv).pc, (vecAdvance v iv).seg, (vecAdvance v iv).r))

/-- R104, R115, R116: with S = 1 an instruction writes entry r of the accumulator named by VD from element 0 of its sources; RSUM adds the tree sum
of the active elements to entry r, and RMAX takes their maximum with it; nothing else of the registers changes. Completes: RSUM, RMAX, FADD, FSUB,
FMUL, FMA, FMAX, FMIN, FABS, FNEG, FCMP, SEL, MOV, DIV, SQRT, EXP2, EXP, LOG2, RCP, RSQRT, TANH, SIGMOID, SILU, SIN, COS. -/
def Obligations.AccumulatorResults : Prop :=
  (∀ (s : State) (h : Nat) (iv : Invoc) (q : List Invoc) (w : Nat) (c : Instr × Nat), h < 256 → Calm s → c ∈ elementwise h →
    NextWord (hget s h).vec iv q w → inOp w = c.2 → inS w = true →
    let v := (hget s h).vec
    Completes c.1 s (fun u =>
      let z := (hget u h).vec
      HearthOnly s u h [R.vecIssueCycles h, R.vecDepWait h] ∧ (hget u h).spd = (hget s h).spd ∧ z.e = v.e ∧
      ∀ k, tget z.a k = if k = inVd w % 4 * 64 + v.r then
        some (arith c.2 false (inX w) (srcCode v iv.desc (inSa w) 0) (srcCode v iv.desc (inSb w) 0) (srcCode v iv.desc (inSc w) 0))
        else tget v.a k)) ∧
  (∀ (s : State) (h : Nat) (iv : Invoc) (q : List Invoc) (w : Nat) (c : Instr × Nat × (W32 → W32 → W32) × W32), h < 256 → Calm s →
    c ∈ [(Instr.rsum h, 0x28, add32, 0x80000000#32), (Instr.rmax h, 0x29, max32, 0xFF800000#32)] →
    NextWord (hget s h).vec iv q w → inOp w = c.2.1 →
    let v := (hget s h).vec
    let key := inVd w % 4 * 64 + v.r
    Completes c.1 s (fun u =>
      let z := (hget u h).vec
      HearthOnly s u h [R.vecIssueCycles h, R.vecDepWait h] ∧ (hget u h).spd = (hget s h).spd ∧ z.e = v.e ∧
      ∀ k, tget z.a k = if k = key then
        some (c.2.2.1 (BitVec.ofNat 32 (tgetD v.a key 0))
          (reduce c.2.2.1 c.2.2.2 ((List.range v.vl).map (fun i => BitVec.ofNat 32 (srcCode v iv.desc (inSa w) i))))).toNat
        else tget v.a k))

/-- R63, R64, R67, R104, R109: NOP changes no register. CVT converts the active elements of SA in order; QNT gives element codes in VD and scale codes in
SC, block by block; DQNT gives the values of element codes under their scale codes. The elements of VD and SC beyond those written, every other
register and the scratchpads are unchanged; the draw counter moves on by the draws made; the conversion flags of the invocation's task gain those of
the conversion; the next instruction is next, and VEC_ISSUE_CYCLES gains the chunks. Where QNT names one register as VD and SC, the scale codes
stand in it: the model's choice (log 64). Completes: NOP, CVT, QNT, DQNT. -/
def Obligations.ConversionResults : Prop :=
  ∀ (s : State) (h : Nat) (iv : Invoc) (q : List Invoc) (w : Nat), h < 256 → Calm s → NextWord (hget s h).vec iv q w →
    let x := hget s h
    let v := x.vec
    let seed := ((runOf x iv.own).map TaskRun.seed).getD 0
    let old (r i : Nat) : Nat := tgetD (tgetD v.e r ⟨0, []⟩).v i 0
    let act (r : Nat) : List Nat := (List.range v.vl).map (srcCode v iv.desc r)
    let flagged (f : CvtFlags) (t : TaskRun) : TaskRun := if t.id = iv.own then { t with cvt := t.cvt ||| f.toNat } else t
    let new (u : State) (r i : Nat) : Nat := tgetD (tgetD (hget u h).vec.e r ⟨0, []⟩).v i 0
    let ty (u : State) (r : Nat) : Nat := (tgetD (hget u h).vec.e r ⟨0, []⟩).ty
    let runs (f : CvtFlags) (draw : Nat) (rs : List Nat) (u : State) : Prop :=
      let z := (hget u h).vec
      HearthOnly s u h [R.vecIssueCycles h, R.vecDepWait h] ∧
      (bit (rd s (R.vecCtrl h)) 0 = false → rd u (R.vecIssueCycles h) = (rd s (R.vecIssueCycles h) + chunks v iv.desc w) % 2 ^ 48) ∧
      hget u h = { x with vec := z, cur := x.cur.map (flagged f), drain := x.drain.map (flagged f) } ∧
      z.draw = draw ∧ z.a = v.a ∧ (∀ r, r ∉ rs → tget z.e r = tget v.e r) ∧
      (z.pc, z.seg, z.r) = ((vecAdvance v iv).pc, (vecAdvance v iv).seg, (vecAdvance v iv).r)
    (inOp w = 0 → Completes (.nop h) s (runs 0 v.draw [])) ∧
    (inOp w = 0x30 →
      let y := cvtList (srcType v (inSa w)) (bits (inX w) 0 4) (bit (inX w) 4) seed v.draw (act (inSa w))
      Completes (.cvt h) s (fun u => runs y.2.1 y.2.2 [inVd w] u ∧ ty u (inVd w) = bits (inX w) 0 4 ∧
        ∀ i, new u (inVd w) i = if i < v.vl then y.1.getD i 0 else old (inVd w) i)) ∧
    (inOp w = 0x31 →
      let sc := inSc w % 16
      let y := qntAll (bits (inX w) 0 4) (bit (inX w) 4) seed v.draw (blocks 64 (act (inSa w)))
      Completes (.qnt h) s (fun u => runs y.2.2.1 y.2.2.2 [inVd w, sc] u ∧ ty u sc = 11 ∧
        (inVd w ≠ sc → ty u (inVd w) = fmtElem (bits (inX w) 0 4)) ∧
        (∀ i, inVd w ≠ sc → new u (inVd w) i = if i < y.1.length then y.1.getD i 0 else old (inVd w) i) ∧
        ∀ i, new u sc i = if i < y.2.1.length then y.2.1.getD i 0 else if inVd w = sc ∧ i < y.1.length then y.1.getD i 0 else old sc i)) ∧
    (inOp w = 0x32 →
      let ys := (List.range v.vl).map (fun i => dequant (bits (inX w) 0 4) (srcCode v iv.desc (inSa w) i) (srcCode v iv.desc (inSb w) (i / 32)))
      Completes (.dqnt h) s (fun u => runs (ys.foldl (fun a y => a ||| y.2) 0) v.draw [inVd w] u ∧ ty u (inVd w) = 0 ∧
        ∀ i, new u (inVd w) i = if i < v.vl then ((ys.getD i (0, 0)).1).toNat else old (inVd w) i))

/-- R102, R104, R113, R131: a load gives the elements of VD the codes that lie at the stream's place in the scratchpads, which do not change; a
store's elements go to the bank write buffers of the stream's rows, and no register changes. Completes: LD, ST. -/
def Obligations.LoadsAndStores : Prop :=
  (∀ (s : State) (h : Nat) (iv : Invoc) (q : List Invoc) (w : Nat), h < 256 → Calm s → NextWord (hget s h).vec iv q w → inOp w = 1 →
    let x := hget s h
    let v := x.vec
    let st := ivS iv.desc (bits (inX w) 0 2)
    let p := stPlace x.spd v iv st
    let wd := tyWidth (ldTy iv st)
    let cnt := if stKind st then cdiv v.vl 32 else v.vl
    let row := p.2.1 + p.2.2 / 64
    let n := cdiv (p.2.2 % 64 + cdiv (cnt * wd) 8) 64
    injKind s 3 h = none → staleHit x p.1 row n = none →
    Completes (.ld h) s (fun u => HearthOnly s u h [R.vecIssueCycles h, R.vecDepWait h] ∧ (hget u h).spd = x.spd ∧ (hget u h).vec.a = v.a ∧
      (∀ i, i < cnt → tgetD (tgetD (hget u h).vec.e (inVd w) ⟨0, []⟩).v i 0 =
        bits (leVal (rowsGet x.spd p.1 row n)) (8 * (p.2.2 % 64) + i * wd) wd) ∧
      (tgetD (hget u h).vec.e (inVd w) ⟨0, []⟩).ty = ldTy iv st ∧ (∀ r, r ≠ inVd w → tget (hget u h).vec.e r = tget v.e r))) ∧
  (∀ (s : State) (h : Nat) (iv : Invoc) (q : List Invoc) (w : Nat), h < 256 → Calm s → NextWord (hget s h).vec iv q w → inOp w = 2 →
    let x := hget s h
    let v := x.vec
    let st := ivS iv.desc (inX w)
    let p := stPlace x.spd v iv st
    let wd := tyWidth (stFmt st)
    let cnt := if stKind st then cdiv v.vl 32 else v.vl
    let per := if stKind st then 128 else if wd = 32 then 64 else 128
    let z := stChunks x.spd p.1 p.2.1 (8 * p.2.2) wd per (cdiv cnt per) ((List.range cnt).map (srcCode v iv.desc (inSa w)))
    z.2 = none →
    Completes (.st h) s (fun u => HearthOnly s u h [R.vecIssueCycles h, R.vecDepWait h] ∧ (hget u h).spd = z.1 ∧ (hget u h).vec.e = v.e ∧
      (hget u h).vec.a = v.a))

/-- R101, R106, R107, R118, R137: an invocation enters a queue that holds fewer than 2; it starts with its output slots reserved, at row 0, segment
0 and instruction 0; after its last chunk it leaves the queue and is counted; when its last store has landed its output slots become FULL.
Completes: EMBER, INVOCATION_START, INVOCATION_END, INVOCATION_OUTPUT_FULL. -/
def Obligations.InvocationLife : Prop :=
  (∀ (s : State) (h : Nat) (t : TaskRun) (e : SchedEnt) (r : List SchedEnt), h < 256 → Calm s → (hget s h).cur = some t → t.sched = e :: r →
    bits e.desc 0 8 = 2 → (hget s h).vec.q.length < 2 →
    Completes (.ember h) s (fun u => HearthOnly s u h [] ∧ hget u h =
      { hget s h with
        cur := some { t with sched := r, invSeq := (t.invSeq + 1) % 65536 }
        vec := { (hget s h).vec with q := (hget s h).vec.q ++ [⟨e.desc, t.id, t.invSeq, ivRows e.desc, none⟩] } })) ∧
  (∀ (s : State) (h : Nat) (iv : Invoc) (q : List Invoc), h < 256 → Calm s →
    let x := hget s h
    x.vec.running = false → x.vec.q = iv :: q → ivTq iv.desc = false →
    let iv1 : Invoc := { iv with rows := ivRows iv.desc, tq := none }
    let ins := (List.range 4).filter (fun i => stEn (ivS iv.desc i) && !stSrc (ivS iv.desc i))
    let outs := [4, 5].filter (fun i => stEn (ivS iv.desc i))
    (∀ i ∈ ins, hdlOk x.spd iv.own (stHandle (ivS iv.desc i)) 3 false (stEnd iv.desc (ivS iv.desc i) (ivRows iv.desc)) = true ∧
      slotsFull x.spd (stKeys x.spd iv.desc (ivS iv.desc i) (ivRows iv.desc)) = true) →
    (∀ i ∈ outs, hdlOk x.spd iv.own (stHandle (ivS iv.desc i)) 3 true (stEnd iv.desc (ivS iv.desc i) (ivRows iv.desc)) = true) →
    slotsFree x.spd (outs.flatMap (outKeys x.spd iv1)) = true →
    Completes (.invocationStart h) s (fun u => HearthOnly s u h [] ∧
      (hget u h).spd = slotsMod x.spd (outs.flatMap (outKeys x.spd iv1)) (slotReserve iv.own) ∧
      (hget u h).vec.running = true ∧ (hget u h).vec.q = iv1 :: q ∧ (hget u h).vec.r = 0 ∧ (hget u h).vec.seg = 0 ∧ (hget u h).vec.pc = 0 ∧
      (hget u h).vec.vl = ivSegVl iv.desc 0)) ∧
  (∀ (s : State) (h : Nat) (iv : Invoc) (q : List Invoc), h < 256 → Calm s → (hget s h).vec.running = true → (hget s h).vec.q = iv :: q →
    iv.rows ≤ (hget s h).vec.r → iv.tq = none → bit (rd s (R.vecCtrl h)) 0 = false →
    Completes (.invocationEnd h) s (fun u => HearthOnly s u h [R.vecInvocations h] ∧ (hget u h).vec.running = false ∧ (hget u h).vec.q = q ∧
      (hget u h).vec.e = (hget s h).vec.e ∧ rd u (R.vecInvocations h) = (rd s (R.vecInvocations h) + 1) % 2 ^ 48)) ∧
  (∀ (s : State) (h : Nat) (o : OutFull) (r : List OutFull), h < 256 → Calm s → (hget s h).vec.outs = o :: r →
    Completes (.invocationOutputFull h) s (fun u => HearthOnly s u h [] ∧ (hget u h).spd = slotsMod (hget s h).spd o.slots slotFill ∧
      (hget u h).vec = { (hget s h).vec with outs := r }))

/-! Scratchpads and streams (chapters 05, 06). -/

/-- R140, R143–R145: SPFILL and SPCOPY enter the queue of their destination's memory with its slots reserved; SPEMPTY empties the slots of its
range; a unit starts the head of its queue; an operation that finishes leaves in every row it had still to write the fill word or the source row,
every other row as it was, the slots FULL, and the rows counted. Completes: SPEMPTY, SPD_OP_START, SPD_OP_DONE, SPFILL, SPCOPY. -/
def Obligations.ScratchpadOperations : Prop :=
  (∀ (s : State) (h : Nat) (t : TaskRun) (e : SchedEnt) (r : List SchedEnt) (c : Instr × Nat), h < 256 → Calm s → (hget s h).cur = some t →
    t.sched = e :: r → c ∈ [(Instr.spfill h, 3), (Instr.spcopy h, 4)] → bits e.desc 0 8 = c.2 →
    let x := hget s h
    let sp := x.spd
    let d := e.desc
    let m := hdMem (hdl sp (opDst d))
    let q := opUnit sp m
    let row := hdlRow sp (opDst d) (opDstOff d)
    let src := hdlRow sp (opSrc d) (opSrcOff d)
    q.q.length < 4 → hdlOk sp t.id (opDst d) 3 true (opDstOff d + opRows d) = true → slotsFree sp (slotKeys m row (opRows d)) = true →
    (opCode d = 4 → hdlOk sp t.id (opSrc d) m false (opSrcOff d + opRows d) = true ∧ slotsFull sp (slotKeys m src (opRows d)) = true) →
    Completes c.1 s (fun u => HearthOnly s u h [] ∧ hget u h =
      { x with
        cur := some { t with sched := r }
        spd := opUnitPut (slotsMod sp (slotKeys m row (opRows d)) (slotReserve t.id)) m
          ⟨q.q ++ [⟨opCode d, row, opRows d, src, opValue d, t.id, 0⟩], q.run⟩ })) ∧
  (∀ (s : State) (h : Nat) (t : TaskRun) (e : SchedEnt) (r : List SchedEnt), h < 256 → Calm s → (hget s h).cur = some t →
    t.sched = e :: r → bits e.desc 0 8 = 5 →
    let x := hget s h
    let sp := x.spd
    let d := e.desc
    let dv := hdl sp (opDst d)
    let ks := slotKeys (hdMem dv) (hdlRow sp (opDst d) (opDstOff d)) (opRows d)
    (opUnit sp (hdMem dv)).q.length < 4 → hdlOk sp t.id (opDst d) 3 false (opDstOff d + opRows d) = true →
    (hdStream dv = true ∨ ∀ k ∈ ks, (slotGet sp k).full = true ∧ (slotGet sp k).touched = true) →
    Completes (.spempty h) s (fun u => HearthOnly s u h [] ∧ (hget u h).spd = slotsMod sp ks slotEmpty ∧
      (hget u h).cur = some { t with sched := r })) ∧
  (∀ (s : State) (h m : Nat) (o : SpdOp) (q : List SpdOp), h < 256 → m < 3 → Calm s → opUnit (hget s h).spd m = ⟨o :: q, false⟩ →
    Completes (.spdOpStart h m) s (fun u => HearthOnly s u h [] ∧ (hget u h).spd = opUnitPut (hget s h).spd m ⟨o :: q, true⟩)) ∧
  (∀ (s : State) (h m : Nat) (o : SpdOp) (q : List SpdOp), h < 256 → m < 3 → Calm s → opUnit (hget s h).spd m = ⟨o :: q, true⟩ →
    (o.op = 4 → injKind s 3 h = none) →
    let x := hget s h
    Completes (.spdOpDone h m) s (fun u => HearthOnly s u h [R.spdOpRowsM h m] ∧
      (∀ i, o.done ≤ i → i < o.rows → rowGet (hget u h).spd m (o.dst + i) =
        if o.op = 4 then rowGet x.spd m (o.src + i) else (List.replicate 8 (leBytes 8 o.value)).flatten) ∧
      (∀ m' row, m' < 3 → m' ≠ m ∨ row < o.dst + o.done ∨ o.dst + o.rows ≤ row → rowGet (hget u h).spd m' row = rowGet x.spd m' row) ∧
      opUnit (hget u h).spd m = ⟨q, false⟩ ∧ (∀ k ∈ slotKeys m o.dst o.rows, (slotGet (hget u h).spd k).full = true) ∧
      (bit (rd s (R.spdCtrl h)) 0 = false → rd u (R.spdOpRowsM h m) = (rd s (R.spdOpRowsM h m) + (o.rows - o.done)) % 2 ^ 48)))

/-- R131–R133, R145, R146: one cycle of the bank write buffers takes the oldest row of each bank into the bank; a running fill or copy then puts its next
rows, at most one per bank and half as many for a copy, while their banks have room, and no other row changes as it is read. A handle entry takes the
56 bits written when they meet R133, and no other entry changes; a write that does not is recorded as HANDLE_BAD and changes nothing. A scrub of a
hearth that runs no task leaves every byte of the hearth's memories 0, every slot EMPTY and every handle invalid, the residency map forgets the
hearth, and the scrub ends; on a hearth that runs a task it is ignored. Completes: WBUF_RETIRE, SPD_HANDLE_WRITE, SPD_SCRUB, SPD_SCRUB_DONE. -/
def Obligations.ScratchpadUpkeep : Prop :=
  (∀ (s : State) (h : Nat), h < 256 → Calm s → injKind s 3 h = none →
    let sp := (hget s h).spd
    let due (m : Nat) (o : SpdOp) : Prop := ∃ q, opUnit sp m = ⟨o :: q, true⟩ ∧ o.done + 1 < o.rows
    Completes (.wbufRetire h) s (fun u => HearthOnly s u h [R.spdOpRowsM h 0, R.spdOpRowsM h 1, R.spdOpRowsM h 2] ∧
      ∀ m, m < 3 →
        ((∀ o, ¬due m o) → (∀ row, rowGet (hget u h).spd m row = rowGet sp m row) ∧ opUnit (hget u h).spd m = opUnit sp m ∧
          ∀ bank, wbCount (hget u h).spd m bank = wbCount sp m bank - 1) ∧
        ∀ o q, opUnit sp m = ⟨o :: q, true⟩ → o.done + 1 < o.rows → (o.op = 4 → o.src + o.rows ≤ o.dst ∨ o.dst + o.rows ≤ o.src) →
          ∃ k, k ≤ (if o.op = 4 then memBanks m / 2 else memBanks m) ∧ o.done + k < o.rows ∧
            opUnit (hget u h).spd m = ⟨{ o with done := o.done + k } :: q, true⟩ ∧
            (∀ i, i < k → rowGet (hget u h).spd m (o.dst + o.done + i) =
              if o.op = 4 then rowGet sp m (o.src + o.done + i) else (List.replicate 8 (leBytes 8 o.value)).flatten) ∧
            (∀ row, row < o.dst + o.done ∨ o.dst + o.done + k ≤ row → rowGet (hget u h).spd m row = rowGet sp m row) ∧
            (bit (rd s (R.spdCtrl h)) 0 = false → rd u (R.spdOpRowsM h m) = (rd s (R.spdOpRowsM h m) + k) % 2 ^ 48))) ∧
  (∀ (s : State) (h i : Nat) (v : W64), h < 256 → i < 64 → Calm s →
    (hdlFits (hget s h).spd i (bits v.toNat 0 56) = true →
      Completes (.spdHandleWrite h i v) s (fun u => HearthOnly s u h [] ∧ hdl (hget u h).spd i = bits v.toNat 0 56 ∧
        (∀ j, j ≠ i → hdl (hget u h).spd j = hdl (hget s h).spd j) ∧
        hget u h = { hget s h with spd := { (hget s h).spd with handles := (hget u h).spd.handles } })) ∧
    (hdlFits (hget s h).spd i (bits v.toNat 0 56) = false →
      Completes (.spdHandleWrite h i v) s (fun u => RegsOnly s u [R.spdErrLog h, R.spdErrCount h] ∧
        (bit (rd s (R.spdErrLog h)) 0 = false → bit (rd u (R.spdErrLog h)) 0 = true ∧ rdf u (R.spdErrLog h) 8 4 = 9 ∧
          rdf u (R.spdErrLog h) 28 6 = i)))) ∧
  (∀ (s : State) (h : Nat), h < 256 → Calm s →
    ((hget s h).cur = none → (hget s h).drain = none →
      Completes (.spdScrub h) s (fun u => SameRegs s u [] ∧ (∀ k, k ≠ h → hget u k = hget s k) ∧ u.hbm = s.hbm ∧ u.slices = s.slices ∧
        (hget u h).spd.scrub = true ∧ (∀ m row, m < 3 → rowGet (hget u h).spd m row = List.replicate 64 0) ∧
        (∀ k, slotGet (hget u h).spd k = Slot.empty) ∧ (∀ i, hdl (hget u h).spd i = 0) ∧
        (∀ p, (hget s h).part = some p → gget u p = { gget s p with resid := (gget s p).resid.filter (fun e => e.1 ≠ h) }) ∧
        ∀ p, (hget s h).part ≠ some p → gget u p = gget s p)) ∧
    ((hget s h).cur.isSome ∨ (hget s h).drain.isSome → Completes (.spdScrub h) s (fun u => RegsOnly s u []))) ∧
  (∀ (s : State) (h : Nat), h < 256 → Calm s →
    Completes (.spdScrubDone h) s (fun u => HearthOnly s u h [] ∧ hget u h = { hget s h with spd := { (hget s h).spd with scrub := false } }))

/-- R160–R162, R171, R178–R180: a descriptor that meets its checks leaves the buffer and is taken in hand: IN, OUT, GATHER and SCATTER at tile 0;
LINK empties the buffer and goes on at NEXT_VA; END, with no request held back, ends the stream. The hearth's memories and its other engines do not
change. Completes: FLUE_IN, FLUE_OUT, FLUE_LINK, FLUE_END, BLW_GATHER, BLW_SCATTER, BLW_LINK, BLW_END. -/
def Obligations.DescriptorsTaken : Prop :=
  ∀ (s : State) (h e d : Nat) (st : Stream) (nx : Bool), h < 256 → e < 10 → Calm s → descHead s h e = some (st, nx, d) →
    let sp := (hget s h).spd
    let P (g : Stream) (u : State) : Prop := (∀ k, k ≠ h → hget u k = hget s k) ∧ u.hbm = s.hbm ∧ (hget u h).spd = sp ∧
      engGet (hget u h) e = engineWith (hget s h) e nx g ∧ ∀ j, j < 10 → j ≠ e → engGet (hget u h) j = engGet (hget s h) j
    let notLate (en : Bool) (base : Int) : Prop := en = true → ∀ t, sinceStart s h st.own = some t → t ≤ base
    (e < 8 → fdKind d = 1 → fdInBad d = false → streamHdl sp st.own (fdHandle d) (fdTileRows d) = true → notLate (fdDueEn d) (fdDueBase d) →
      Completes (.flueIn h e) s (P { descTake st (some d) with firstIn := if st.firstIn.isNone then some d else st.firstIn })) ∧
    (e < 8 → fdKind d = 2 → fdOutBad d = false → streamHdl sp st.own (fdHandle d) (fdTileRows d) = true →
      Completes (.flueOut h e) s (P (descTake st (some d)))) ∧
    (e < 8 → fdKind d = 3 → fdLinkBad d = false → Completes (.flueLink h e) s (P (linkTake st (fdNext d)))) ∧
    (e < 8 → fdKind d = 4 → fdEndBad d = false → st.skip = [] →
      Completes (.flueEnd h e) s (P { descTake st none with buf := [], fly := [], ended := true })) ∧
    (8 ≤ e → fdKind d = 1 → bdWorkBad d = false → blwHdls sp st.own d = true → notLate (bdDueEn d) (bdDueBase d) →
      Completes (.blwGather h (e - 8)) s (P (descTake st (some d)))) ∧
    (8 ≤ e → fdKind d = 2 → bdWorkBad d = false → blwHdls sp st.own d = true →
      Completes (.blwScatter h (e - 8)) s (P (descTake st (some d)))) ∧
    (8 ≤ e → fdKind d = 3 → bdLinkBad d = false → Completes (.blwLink h (e - 8)) s (P (linkTake st (bdNext d)))) ∧
    (8 ≤ e → fdKind d = 4 → fdEndBad d = false → st.skip = [] →
      Completes (.blwEnd h (e - 8)) s (P { descTake st none with buf := [], fly := [], ended := true }))

/-- R162–R166, R171, R176, R179, R180, R214: the burst, the best read candidate of a flue or of a RUN-mode bellows, the best write candidate of a flue or
of a SCATTER, an element of a bellows and a hint leave the hearth as a request: it joins the hearth's outstanding requests and, at the same moment,
the queue of the home slice of its address, with the DUE_EN mark of its descriptor. The hypotheses name what the engines come to in this cycle.
Completes: DESC_BURST, READ_REQUEST_ISSUE, WRITE_REQUEST_ISSUE, BLW_ELEMENT_REQUEST, HINT_ISSUE. -/
def Obligations.RequestsLeave : Prop :=
  ∀ (s : State) (h : Nat), h < 256 → Calm s → (hget s h).inReset = false →
    let s0 := quiet s
    let looks (w : State) : Prop := Calm w ∧ w.slices = s.slices ∧ w.hbm = s.hbm ∧ w.now = s.now
    let sends (w : State) (q : HReq) (data : List Byte) (alloc : Bool) (mc : Nat) (replay due : Bool) (u : State) : Prop :=
      (hget u h).reqs = (hget w h).reqs ++ [q] ∧ (hget u h).nextId = (hget w h).nextId + 1 ∧
      ∀ sl, (slGet u sl).reqs = if sl = homeSlice s.hbm.dead q.pa then
        (slGet s sl).reqs ++ [⟨h, q.id, q.kind = .write, q.kind = .hint, hPart (hget w h), q.pa, q.len, data, alloc, mc, q.k, q.eng, q.own, replay, due,
          telNow s⟩]
        else (slGet s sl).reqs
    let rowsOk (w : State) (m : Nat) (rows : List Nat) : Prop := injKind w 3 h = none ∧ ∀ r ∈ rows, staleHit (hget w h) m r 1 = none
    let index (w : State) (c : Cand) : Prop := rowsOk w (hdMem (hdl (hget w h).spd (bdIdx c.req.d))) c.idx
    let element (w : State) (c : Cand) : State → Prop :=
      sends w (candReq w h c .elem (!bdMode c.req.d)) [] (bdAlloc c.req.d) 0 c.st.replay (bdDueEn c.req.d)
    (∀ l w c, lookAll s0 h (List.range 10) [] = (l, w) → looks w → candBest (cands l) = some c →
      (c.burst = true → ∀ cmd ∈ [Instr.descBurst h c.eng, .readRequestIssue h],
        Completes cmd s (sends w (candReq w h c .burst false) [] true 0 c.st.replay (streamDue c.eng c.st))) ∧
      (c.burst = false → c.eng < 8 →
        Completes (.readRequestIssue h) s (sends w (candReq w h c .tile false) [] (fdAlloc c.req.d) (fdMcast c.req.d) c.st.replay (fdDueEn c.req.d))) ∧
      (c.burst = false → 8 ≤ c.eng → c.req.len ≠ 0 → index w c → Completes (.readRequestIssue h) s (element w c))) ∧
    (∀ l w c, lookWr s0 h (List.range 10) [] = (l, w) → looks w → candBest (cands l) = some c →
      let q : HReq := { candReq w h c .write (decide (8 ≤ c.eng)) with dst := 0 }
      (c.eng < 8 → injKind w 4 h ≠ some 4 → Completes (.writeRequestIssue h) s
        (sends w q ((c.st.outData.drop c.st.off).take c.req.len) (fdAlloc c.req.d) 0 c.st.replay false)) ∧
      (8 ≤ c.eng → c.req.len ≠ 0 → injKind w 5 h ≠ some 4 → index w c → rowsOk w c.req.mem [c.req.row] →
        let scatters := sends w q (rowGet (hget w h).spd c.req.mem c.req.row) (bdAlloc c.req.d) 0 c.st.replay false
        Completes (.writeRequestIssue h) s scatters ∧
        (∀ b, b < 2 → c.eng = 8 + b → fdKind (curDesc s0 h c.eng) = 2 → Completes (.blwElementRequest h b) s scatters))) ∧
    (∀ b w c, b < 2 → fdKind (curDesc s0 h (8 + b)) ≠ 2 → elementLook s0 h b = (.ready c, w) → looks w → c.burst = false → c.eng = 8 + b →
      c.req.len ≠ 0 → index w c → Completes (.blwElementRequest h b) s (element w c)) ∧
    (∀ f i n e w, f < 8 → lfind (hget s h).hints (fun n => n.flue = f) = some i → lget (hget s h).hints i = some n →
      bit (rd s (R.fluCtrl h)) 2 = true → ((hget s h).reqs.filter (fun q => q.kind = .hint)).length < 8 → readReady s0 h = false →
      hintXlate s0 h (hPart (hget s h)) n.va f = (some e, w) → looks w →
      let pa := 65536 * e.frame + n.va % 65536
      let bg := bankGroup s.hbm.dead pa
      ((readsOut (hget s h) ++ (hget s h).reqs.filter (fun q => q.kind = .hint)).filter (fun q => q.bg = bg)).length < 8 →
      creditFree s h (homeSlice s.hbm.dead pa) = true →
      Completes (.hintIssue h f) s (sends w
        ⟨(hget s h).nextId, .hint, f, 0, false, n.va, pa, e.k, n.len, bg, 0, false, 0, f⟩ [] true 0 false false))

/-- R159, R166, R171, R177: the data of a response lands in its rows and the credit returns; a burst's descriptors join their stream; an
acknowledgement returns the write credit; the next tile of an OUT stream is read, and with RELEASE its slots become EMPTY; the next stream begins;
HINT_CLR empties the stride memory and drops the hints not issued.
Completes: READ_RESPONSE, WRITE_ACK, OUT_TILE_READ, NEXT_STREAM_START, FLU_HINT_CLR. -/
def Obligations.ResponsesLand : Prop :=
  (∀ (s : State) (h i : Nat) (r : Resp) (q : HReq), h < 256 → Calm s → lget (hget s h).resps i = some r →
    (hget s h).reqs.find? (fun q => q.id = r.id) = some q → q.dead = false → r.ue = false →
    let x := hget s h
    let x1 : Hearth := { x with resps := ldel x.resps i, reqs := x.reqs.filter (fun p => p.id ≠ r.id) }
    (q.kind = .burst → Completes (.readResponse h i) s (fun u => HearthOnly s u h [] ∧ hget u h = burstLand x1 q r.data)) ∧
    (q.kind = .tile → q.eng < 8 →
      Completes (.readResponse h i) s (fun u => HearthOnly s u h [R.fluTilesF h q.eng, R.fluBytesInF h q.eng] ∧
        hget u h = tileGot (landRows x1 (q.dst / 65536) (q.dst % 65536) r.data) q.eng q.own (q.dst / 65536) (q.dst % 65536) (q.len / 64) ∧
        (bit (rd s (R.fluCtrl h)) 0 = false → rd u (R.fluBytesInF h q.eng) = (rd s (R.fluBytesInF h q.eng) + q.len) % 2 ^ 64))) ∧
    (q.kind = .write → s.cols = [] → Completes (.writeAck h i) s (fun u => HearthOnly s u h [] ∧ hget u h = x1))) ∧
  (∀ (s : State) (h f d : Nat) (st : Stream) (nx : Bool), h < 256 → f < 8 → Calm s → issuing (engGet (hget s h) f) = some (st, nx) →
    st.cur = some d → fdKind d = 2 → st.outRead = false →
    let x := hget s h
    let v := hdl x.spd (fdHandle d)
    let row := hdBase v + ringPlace v st.ring (fdTileRows d)
    let ks := slotKeys (hdMem v) row (fdTileRows d)
    slotsFull x.spd ks = true → portTaken (quiet s) h f = false → injKind s 3 h = none → staleHit x (hdMem v) row (fdTileRows d) = none →
    Completes (.outTileRead h f) s (fun u => HearthOnly s u h [] ∧ (hget u h).spd = (if fdRelease d then slotsMod x.spd ks slotEmpty else x.spd) ∧
      (if nx then (engGet (hget u h) f).next else (engGet (hget u h) f).cur) =
        some { st with outRead := true, outData := rowsGet x.spd (hdMem v) row (fdTileRows d) })) ∧
  (∀ (s : State) (h e : Nat) (c n : Stream), h < 256 → e < 10 → Calm s → (engGet (hget s h) e).cur = some c → (engGet (hget s h) e).next = some n →
    c.ended = true → Completes (.nextStreamStart h e) s (fun u => HearthOnly s u h [] ∧
      hget u h = engPut (hget s h) e { engGet (hget s h) e with go := true })) ∧
  (∀ (s : State) (h : Nat), h < 256 → Calm s →
    Completes (.fluHintClr h) s (fun u => HearthOnly s u h [] ∧ hget u h = { hget s h with stride := [], hints := [] }))

/-! Control space (chapters 00, 01, 14-16). -/

/-- R12, R422–R424: CSR_READ within the window is answered with the register's value; CSR_WRITE of a value in range gives the register the bits that
the caller may write and is answered OK. No other register changes but the counters of the answer. Completes: CSR_READ, CSR_WRITE. -/
def Obligations.HostReadsAndWrites : Prop :=
  ∀ (s : State) (q a ctag : Nat), Calm s → Listens s q → a % 8 = 0 → reaches s q a = true → accessHeld s a = false →
    Completes (.csrRead q a ctag) s (fun u => Sent s u q (answerMsg s q 1 0 ctag (regRead s a) 0) ∧ SameRegs s u answerRegs ∧
      u.hearths = s.hearths ∧ u.slices = s.slices ∧ u.hbm = s.hbm) ∧
    ∀ (v : W64) (b : Blk) (inst off : Nat) (id : RegId) (row : RegRow) (i j : Nat), locate a = some (b, inst, off) →
      findRow b inst off = some (id, row, i, j) → id ∈ plainIds →
      let r : Reg := ⟨a, rowRst id row i⟩
      let new := maskIn (rd s r) (writeMask (.qp q) id row i) v.toNat
      rangeOk s id i (rd s r) new = true →
      Completes (.csrWrite q a v ctag) s (fun u => rd u r = new ∧ Sent s u q (answerMsg s q 2 0 ctag 0 0) ∧ SameRegs s u (r :: answerRegs) ∧
        u.hearths = s.hearths ∧ u.slices = s.slices ∧ u.hbm = s.hbm)

/-- R13, R576: a write that reaches a plain register gives it the bits that the caller may write and changes nothing else; a write that would give a
field a value outside its range is performed in no field. Completes: REGISTER_WRITE. -/
def Obligations.RegisterWriteWhole : Prop :=
  ∀ (s : State) (who : Caller) (a : Nat) (v : W64) (b : Blk) (inst off : Nat) (id : RegId) (row : RegRow) (i j : Nat), Calm s → a % 8 = 0 →
    accessHeld s a = false → (∀ q, who = .qp q → reaches s q a = true) → locate a = some (b, inst, off) →
    findRow b inst off = some (id, row, i, j) →
    let r : Reg := ⟨a, rowRst id row i⟩
    let m := writeMask who id row i
    let new := maskIn (rd s r) m v.toNat
    (id ∈ plainIds → rangeOk s id i (rd s r) new = true →
      Completes (.registerWrite who a v) s (fun u => RegsOnly s u [r] ∧ rd u r = new)) ∧
    (m ≠ 0 → rangeOk s id i (rd s r) new = false → Leads (.registerWrite who a v) s (quiet s))

/-- R477, R528, R575: CNT_CLR of a block makes each of its counters 0 and no other register; writing 1 to VALID clears VALID, COUNT and OVF of a
block's log and leaves the log's other fields. Completes: COUNTER_CLEAR, ERR_LOG_CLEAR. -/
def Obligations.CountersAndLogsClear : Prop :=
  (∀ (s : State) (b : Blk) (inst : Nat), Calm s →
    Completes (.counterClear b inst) s (fun u =>
      (∀ r : Reg, r.addr ∉ noteRegs →
        rd u r = if blkBase b inst ≤ r.addr ∧ r.addr < blkBase b inst + blkSize b ∧ isCounter r.addr = true then r.rst else rd s r) ∧
      u = { s with csr := u.csr, parts := u.parts, ipfix := u.ipfix, tx := [] })) ∧
  (∀ (s : State) (b : Blk) (inst : Nat) (l c : Reg), Calm s → errLogOf b inst = some (l, c) → l.addr ∉ noteRegs → c.addr ∉ noteRegs → l.addr ≠ c.addr →
    Completes (.errLogClear b inst) s (fun u => RegsOnly s u [l, c] ∧ rd u l = setBits (rd s l) 0 1 0 ∧ rd u c = 0))

/-- R446: an access outside the caller's window is refused: it is answered with an access error that carries no bit of a register, and reads or
changes nothing else. A partition's is counted in its PRT_ACCESS_ERR_p, and the first since PRT_ERR_LOG was cleared is recorded there with its
address; one on the management queue pair is not counted. Completes: CSR_READ, CSR_WRITE. -/
def Obligations.WindowKept : Prop :=
  ∀ (s : State) (q a ctag : Nat) (v : W64), Calm s → Listens s q → a < 2 ^ 40 → reaches s q a = false →
    let P (op : Nat) (u : State) : Prop := Sent s u q (answerMsg s q op 1 ctag 0 0) ∧ u.hearths = s.hearths ∧ u.slices = s.slices ∧ u.hbm = s.hbm ∧
      u.graphs = s.graphs ∧ u.xlts = s.xlts ∧
      (q < 1024 → rd u (R.prtAccessErrP (qpPart q)) = (rd s (R.prtAccessErrP (qpPart q)) + 1) % 2 ^ 48 ∧
        (bit (rd s R.prtErrLog) 0 = false → bit (rd u R.prtErrLog) 0 = true ∧ rdf u R.prtErrLog 8 4 = 2 ∧ rdf u R.prtErrLog 12 4 = qpPart q ∧
          rdf u R.prtErrLog 24 40 = a) ∧
        SameRegs s u (R.prtAccessErrP (qpPart q) :: answerRegs)) ∧
      (q = 1024 → SameRegs s u answerRegs)
    Completes (.csrRead q a ctag) s (P 1) ∧ Completes (.csrWrite q a v ctag) s (P 2)

/-! The chimney and HBM (chapters 07, 08). -/

/-- R197, R200, R202, R205, R214: a read whose lines the slice holds, with no older request for them and no request of its partition with DUE_EN before
it, is answered with their bytes at once and counts as a hit; one of a multicast group that is not VALID is served so too, as unicast. A write that
hits is merged into the line, which is dirty from then on, and is acknowledged. No byte of HBM changes, and no other slice. Completes: CHM_READ,
CHM_WRITE. -/
def Obligations.SliceHits : Prop :=
  ∀ (s : State) (sl i : Nat) (r : MReq), sl < 4 → Calm s → lget (slGet s sl).reqs i = some r → r.hint = false → lineBlocked (slGet s sl) i r = false →
    dueWaits s sl i r = false →
    let x := slGet s sl
    let F : State → State → State := fun s t => { s with hearths := t.hearths, slices := t.slices }
    (∀ got : List Line, r.wr = false → r.mcast = 0 ∨ bit (rd s (R.chmMcgPG sl r.part r.mcast)) 0 = false → injKind s 16 sl = none → (reqLines r.pa r.len).map (lineFind x r.part) = got.map some →
      Completes (.chmRead sl i) s (fun u =>
        ChangesOnly s u F [R.chmHits sl, R.chmBytesDown sl, R.chmMcUnicast sl, R.telHistHB (18 + sl) (histBin (telNow s - r.t0))] ∧
        (hget u r.h).resps = (hget s r.h).resps ++
          [⟨r.id, (((got.flatMap Line.data).drop (r.pa % 256)).take r.len), got.any Line.pois⟩] ∧
        slGet u sl = { touch x r.part (reqLines r.pa r.len) with reqs := ldel x.reqs i } ∧ (∀ k, k ≠ sl → slGet u k = slGet s k) ∧
        (bit (rd s (R.chmCtrl sl)) 0 = false → rd u (R.chmHits sl) = (rd s (R.chmHits sl) + 1) % 2 ^ 48 ∧
          (r.mcast ≠ 0 → rd u (R.chmMcUnicast sl) = (rd s (R.chmMcUnicast sl) + 1) % 2 ^ 48)) ∧
        (r.mcast = 0 → rd u (R.chmMcUnicast sl) = rd s (R.chmMcUnicast sl)))) ∧
    (∀ (a : Nat) (l : Line), r.wr = true → reqLines r.pa r.len = [a] → lineFind x r.part a = some l →
      Completes (.chmWrite sl i) s (fun u => ChangesOnly s u F [R.chmHits sl, R.chmBytesUp sl] ∧
        (let off := (linePart r.pa r.data a).1
         let bs := (linePart r.pa r.data a).2
         lineFind (slGet u sl) r.part a =
           some { l with data := l.data.take off ++ bs ++ l.data.drop (off + bs.length), dirty := true, pois := l.pois && decide (bs.length < 256), ref := true }) ∧
        (∀ p b, (p, b) ≠ (r.part, a) → lineFind (slGet u sl) p b = lineFind x p b) ∧
        (hget u r.h).resps = (hget s r.h).resps ++ [⟨r.id, [], false⟩] ∧ (slGet u sl).reqs = ldel x.reqs i ∧
        (slGet u sl).fills = x.fills ∧ ∀ k, k ≠ sl → slGet u k = slGet s k))

/-- R199, R204: a returned fill whose lines one read awaited answers that read, installs the lines taken for it that came without error, and leaves;
every line that the slice held stays. A hint below quota, with fill lines free above the threshold, starts a fill of its absent lines and reserves
them, and one whose lines are all held ends; one that finds fewer free, no room or a stack that does not serve is dropped and counted. Completes: CHM_FILL_COMPLETE, CHM_HINT. -/
def Obligations.FillsAndHints : Prop :=
  (∀ (s : State) (sl i : Nat) (f : Fill) (ds : List LineData) (w : MWait), sl < 4 → Calm s → lget (slGet s sl).fills i = some f → f.ret = some ds →
    (slGet s sl).waits = [w] → w.req.wr = false → w.req.hint = false → w.req.part = f.part → (∀ a ∈ w.need, ∃ d ∈ ds, d.addr = a) →
    let x := slGet s sl
    let got := w.got ++ ds.filter (fun d => w.need.contains d.addr)
    Completes (.chmFillComplete sl i) s (fun u => u.hbm = s.hbm ∧ (slGet u sl).waits = [] ∧ (slGet u sl).fills = ldel x.fills i ∧
      (hget u w.req.h).resps = (hget s w.req.h).resps ++ [⟨w.req.id, gather w.req.pa w.req.len got, got.any LineData.ue⟩] ∧
      (∀ p a l, lineFind x p a = some l → lineFind (slGet u sl) p a = some l) ∧
      ((ds.map LineData.addr).Nodup → ∀ d ∈ ds, d.addr ∈ f.take → d.ue = false → lineFind x f.part d.addr = none →
        lineFind (slGet u sl) f.part d.addr = some ⟨f.part, d.addr, f.k, d.data, false, false, true⟩) ∧
      ∀ l ∈ (slGet u sl).lines, l ∈ x.lines ∨ ∃ d ∈ ds, d.addr ∈ f.take ∧ d.ue = false ∧ l = ⟨f.part, d.addr, f.k, d.data, false, false, true⟩)) ∧
  (∀ (s : State) (sl i : Nat) (r : MReq), sl < 4 → Calm s → lget (slGet s sl).reqs i = some r → r.hint = true →
    lineBlocked (slGet s sl) i r = false →
    let x := slGet s sl
    let room := min (chmQuota s sl r.part - (cachedUse x r.part + pinnedUse x r.part)) (generalLines - generalUse x)
    let as := (freshLines x r.part (reqLines r.pa r.len)).take room
    let loc := hbmLoc s.hbm.dead (256 * as.head?.getD 0)
    let low : Prop := (fillLines - fillUsed x) * 16 < bits (rd s (R.chmCtrl sl)) 8 4 * fillLines
    (¬ low → room ≠ 0 → paServes s r.pa = true → as ≠ [] → rqRoom s r.pa = true → as.length ≤ fillLines - fillUsed x →
      Completes (.chmHint sl i) s (fun u => (slGet u sl).fills = x.fills ++ [⟨x.nfill, r.part, r.k, as, as, none⟩] ∧
        (pcGet u loc.k loc.p).rq = (pcGet s loc.k loc.p).rq ++ [⟨sl, x.nfill⟩] ∧ (slGet u sl).reqs = ldel x.reqs i ∧ (slGet u sl).lines = x.lines ∧
        u.hbm.mem = s.hbm.mem ∧ SameRegs s u [])) ∧
    (¬ low → room ≠ 0 → paServes s r.pa = true → as = [] →
      Completes (.chmHint sl i) s (fun u => slGet u sl = { x with reqs := ldel x.reqs i } ∧ u.hbm = s.hbm ∧ SameRegs s u [])) ∧
    (low ∨ room = 0 ∨ paServes s r.pa = false →
      Completes (.chmHint sl i) s (fun u => slGet u sl = { x with reqs := ldel x.reqs i } ∧ u.hbm = s.hbm ∧ SameRegs s u [R.chmHintDrop sl] ∧
        (bit (rd s (R.chmCtrl sl)) 0 = false → rd u (R.chmHintDrop sl) = (rd s (R.chmHintDrop sl) + 1) % 2 ^ 48))))

/-- R208, R209, R214, R218, R219: at the time budget every member that has not taken the group's oldest live entry leaves the group, and is counted;
a round takes the weights in force as it starts; a patrol read goes
on to the next line; a scrub discards a partition's lines and entries and keeps every other partition's, and is not performed for a formed one.
Completes: MCAST_TIME_BUDGET, ARB_ROUND, CHM_PATROL_READ, CHM_SCRUB, CHM_SCRUB_DONE. -/
def Obligations.SliceUpkeep : Prop :=
  ∀ (s : State) (sl : Nat), sl < 4 → Calm s →
    let x := slGet s sl
    let F : State → State → State := fun s t => { s with slices := t.slices, mcast := t.mcast }
    (∀ (p g : Nat) (e : McEnt), mcOldest (mcEntries s p g) = some e →
      let m := mcGet s p g
      let out := m.joined.filter (fun j => !e.taken.contains j)
      let room := mcRoom m (mcMembers s sl p g)
      Completes (.mcastTimeBudget sl p g) s (fun u => ChangesOnly s u F [R.chmMcPrunes sl] ∧
        mcGet u p g = { m with
          joined := m.joined.filter (fun j => e.taken.contains j), left := m.left ++ out, gone := m.gone + room,
          pruned := m.pruned + (out.length + room) } ∧
        (∀ k, k < 4 → (slGet u k).lines = (slGet s k).lines) ∧
        (bit (rd s (R.chmCtrl sl)) 0 = false → rd u (R.chmMcPrunes sl) = (rd s (R.chmMcPrunes sl) + (out.length + room)) % 2 ^ 48))) ∧
    Completes (.arbRound sl) s (fun u => ChangesOnly s u F [] ∧ (slGet u sl).arbW = rd s (R.chmArbWeight sl) ∧ (slGet u sl).reqs = x.reqs ∧
      ∀ p, p < 16 → tgetD (slGet u sl).rates p 0 = bits (rd s (R.chmPartRateP sl p)) 0 9) ∧
    (bit (rd s (R.chmCtrl sl)) 3 = true → injKind s 16 sl = none →
      Leads (.chmPatrolRead sl) s (slPut (quiet s) sl { x with patrol := (x.patrol + 1) % 1048576 })) ∧
    (∀ p, p < 16 → Machine.prtFormed s p = false →
      Completes (.chmScrub sl p) s (fun u => ChangesOnly s u F [] ∧ (slGet u sl).scrub = true ∧ (∀ a, lineFind (slGet u sl) p a = none) ∧
        ∀ q a, q ≠ p → lineFind (slGet u sl) q a = lineFind x q a)) ∧
    (∀ p, p < 16 → Machine.prtFormed s p = true →
      Completes (.chmScrub sl p) s (fun u => ChangesOnly s u (fun s _ => s) [R.chmErrLog sl, R.chmErrCount sl])) ∧
    Leads (.chmScrubDone sl) s (slPut (quiet s) sl { x with scrub := false })

/-- R220: after a device reset (the reset pin, a cold start, or a warm reset that has run its course) every slice is empty, so that the first use of
any line by any partition misses. At a warm reset this is said where no key sweep goes on in the same command with its next record, which would be a
use. Completes: RESET_ASSERT, COLD_START, WARM_RESET_SERVING. -/
def Obligations.ResetEmptiesSlices : Prop :=
  let Empty (u : State) : Prop := ∀ sl, slGet u sl = .empty ∧ ∀ p a, lineFind (slGet u sl) p a = none
  (∀ s : State, Completes .resetAssert s Empty ∧ ∀ b : BootInputs, Completes (.coldStart b) s Empty) ∧
  (∀ (s : State) (start : Nat) (remap : Bool) (r : WarmResults), s.stk.phase = .warm → s.stk.warmRun = some (start, remap) →
    s.dueAborts = [] → s.dueHrt = [] → s.stk.susp = none → s.stk.service = none → s.stk.warmQ = none →
    (∀ p, (partGet s p).sweep = 0 ∨ (partGet s p).sweep = 2) → Completes (.warmResetServing r) s Empty)

/-- R232, R234, R235: a queued read of lines written under the partition's key returns the bytes that the array holds; a queued write of whole
blocks puts its bytes at its address under its key, with a poison mark on each of its words when it writes back a poisoned line and on none else,
and changes no other byte; behind a fence nothing is written. Completes: HBM_READ, HBM_WRITE. -/
def Obligations.HbmReadsAndWrites : Prop :=
  (∀ (s : State) (k p i : Nat) (r : HbmRd) (f : Fill) (a : Nat), k < 20 → p < 32 → Calm s → stkServes s k = true →
    lget (pcGet s k p).rq i = some r → (slGet s r.s).fills.find? (fun f => f.id = r.fid) = some f → f.lines = [a] →
    (hbmLoc s.hbm.dead (256 * a)).k = k → (hbmLoc s.hbm.dead (256 * a)).p = p → fenced s k p = false → injKind s 17 k = none →
    (pcGet s k p).wq = [] → keySer s f.part f.k ≠ 0 → (∀ b, b < 16 → blockTag s.hbm (16 * a + b) = keySer s f.part f.k) →
    wordsIn s.hbm.pois [a] = [] → wordsIn s.hbm.ues [a] = [] →
    Completes (.hbmRead k p i) s (fun u => u.hbm.mem = s.hbm.mem ∧ (pcGet u k p).rq = ldel (pcGet s k p).rq i ∧
      (slGet u r.s).fills = (slGet s r.s).fills.map (fun g => if g.id = r.fid then { g with ret := some [⟨a, memGetL s.hbm.mem (256 * a) 256, false⟩] } else g) ∧
      SameRegs s u [R.memRdBytes k, R.chmBytesHbmRd r.s])) ∧
  (∀ (s : State) (k p : Nat) (w : HbmWr) (q : List HbmWr), k < 20 → p < 32 → Calm s → stkServes s k = true → (pcGet s k p).wq = w :: q →
    (hbmLoc s.hbm.dead w.pa).k = k → (hbmLoc s.hbm.dead w.pa).p = p → w.pa % 16 = 0 → w.data.length % 16 = 0 →
    (fenced s k p = false →
      Completes (.hbmWrite k p) s (fun u => memGetL u.hbm.mem w.pa w.data.length = w.data ∧
        (∀ c, c < w.pa ∨ w.pa + w.data.length ≤ c → memGet u.hbm.mem c = memGet s.hbm.mem c) ∧
        (∀ b, b < w.data.length / 16 → blockTag u.hbm (w.pa / 16 + b) = w.key) ∧
        (∀ b, b < w.pa / 16 ∨ (w.pa + w.data.length) / 16 ≤ b → blockTag u.hbm b = blockTag s.hbm b) ∧
        (∀ i, tgetD u.hbm.pois i false = if w.pa / 8 ≤ i ∧ i < (w.pa + w.data.length) / 8 then w.pois else tgetD s.hbm.pois i false) ∧
        (pcGet u k p).wq = q ∧ SameRegs s u [R.memWrBytes k] ∧ u.slices = s.slices)) ∧
    (fenced s k p = true →
      Completes (.hbmWrite k p) s (fun u => u.hbm.mem = s.hbm.mem ∧ u.hbm.tags = s.hbm.tags ∧ (pcGet u k p).wq = q ∧
        SameRegs s u [R.memErrLog k, R.memErrCount k])))

/-- R237, R240–R242, R244, R246: the correction queue, refreshes, the patrol, fences and the end of the zero fill. No byte of memory changes. A
retrain starts when no stack retrains, waits for the queues and the running tasks, and ends with the failed pseudo-channels fenced and the RESULT
that they give: 1 when all pass, 3 when all fail, else 2. Completes: HBM_CORRECTION_REWRITE, HBM_REFRESH, HBM_PATROL_READ, HBM_FENCE,
HBM_INIT_FILL_DONE, HBM_RETRAIN, HBM_RETRAIN_SELF_REFRESH, HBM_RETRAIN_DONE. -/
def Obligations.HbmUpkeep : Prop :=
  (∀ (s : State) (k : Nat), k < 20 → Calm s →
     let F : State → State → State := fun s t => { s with hbm := { s.hbm with pcs := t.hbm.pcs, stk := t.hbm.stk } }
     (∀ w q, (stkGet s k).corr = w :: q →
       let l := hbmLoc s.hbm.dead (8 * w)
       (fenced s k l.p = false →
         Completes (.hbmCorrectionRewrite k) s (fun u => ChangesOnly s u F [R.memCeLog k, R.memWrBytes k] ∧ stkGet u k = { stkGet s k with corr := q } ∧
           (bit (rd s (R.memCtrl k)) 0 = false → rd u (R.memWrBytes k) = (rd s (R.memWrBytes k) + 8) % 2 ^ 64))) ∧
       (fenced s k l.p = true →
         Completes (.hbmCorrectionRewrite k) s (fun u => ChangesOnly s u F [R.memErrLog l.k, R.memErrCount l.k] ∧
           stkGet u k = { stkGet s k with corr := q }))) ∧
     (∀ p b, p < 32 → b < 64 →
       let n := tgetD (pcGet s k p).post b 0
       Completes (.hbmRefresh k p b) s (fun u => ChangesOnly s u F [R.memRefForcedP k p] ∧
         (readWaits s k p b = false → tgetD (pcGet u k p).post b 0 = 0) ∧
         (readWaits s k p b = true → n < 8 → tgetD (pcGet u k p).post b 0 = n + 1 ∧ rd u (R.memRefForcedP k p) = rd s (R.memRefForcedP k p)) ∧
         (readWaits s k p b = true → 8 ≤ n → bit (rd s (R.memCtrl k)) 0 = false →
           rd u (R.memRefForcedP k p) = (rd s (R.memRefForcedP k p) + 1) % 2 ^ 48))) ∧
     (bit (rd s (R.memCtrl k)) 2 = true → (stkGet s k).st = 2 →
       Completes (.hbmPatrolRead k) s (fun u => u.hbm.mem = s.hbm.mem ∧
         (stkGet u k).patrol = if (stkGet s k).patrol + 1 < 585728 then (stkGet s k).patrol + 1 else 0)) ∧
     (∀ p kind, p < 32 → kind = 0 ∨ kind = 2 →
       Completes (.hbmFence k p kind) s (fun u => ChangesOnly s u F [R.memErrLog k, R.memErrCount k, R.memFence k] ∧
         rd u (R.memFence k) = setBits (rd s (R.memFence k)) p 1 1)) ∧
     (∀ p, p < 32 → bits (rd s (R.memCtrl k)) 8 8 ≤ (pcGet s k p).ueGr.length →
       Completes (.hbmFence k p 1) s (fun u => ChangesOnly s u F [R.memFence k] ∧ rd u (R.memFence k) = setBits (rd s (R.memFence k)) p 1 1)) ∧
     Completes .hbmInitFillDone s (fun u => ChangesOnly s u F ((List.range 20).map R.memWrBytes) ∧
       ∀ j, j < 20 → (stkGet u j).st = (if (stkGet s j).st = 1 then 2 else (stkGet s j).st) ∧
         ((stkGet s j).st ≠ 1 → rd u (R.memWrBytes j) = rd s (R.memWrBytes j)))) ∧
  (∀ (s : State) (k : Nat), k < 20 → Calm s →
     (procBusy s = false → (∀ j, j < 20 → bit (rd s (R.memTrain j)) 1 = false) →
       Completes (.hbmRetrain k) s (fun u => ChangesOnly s u (fun s _ => s) [R.memTrain k, R.stkStatus] ∧ rd u (R.memTrain k) = 2)) ∧
     (bit (rd s (R.memTrain k)) 1 = true → stkServes s k = true → (∀ e ∈ s.hearths, e.2.cur = none ∧ e.2.drain = none) →
       (∀ p, p < 32 → (pcGet s k p).rq = []) →
       Completes (.hbmRetrainSelfRefresh k) s (fun u => (stkGet u k).st = 3 ∧ (∀ p, p < 32 → (pcGet u k p).wq = []))) ∧
     (∀ (f : BitVec 32), bit (rd s (R.memTrain k)) 1 = true → (stkGet s k).st = 3 ∨ (stkGet s k).st = 4 →
       Completes (.hbmRetrainDone k f) s (fun u =>
         let res := if f = 0 then 1 else if f = 4294967295#32 then 3 else 2
         (stkGet u k).st = (if res = 3 then 5 else 2) ∧ rd u (R.memTrain k) = 4 * res + 2 ^ 32 * f.toNat ∧
         (∀ p, p < 32 → bit (rd u (R.memFence k)) p = (bit (rd s (R.memFence k)) p || bit f.toNat p)) ∧ u.hbm.mem = s.hbm.mem)))

/-! Translation and KV paging (chapter 09). -/

/-- R260–R266, R274: the update unit does one page of the operation at a ring's head: while pages are left the ring goes on to the next page, with
what the page adds to the operation's shootdown. The last page of an operation that leaves nothing to shoot down ends it: STATUS and DONE_PAGES are
written into its record and HEAD advances by one. A page that fails with nothing to shoot down writes its STATUS and the pages done, is logged with
the page, and halts the ring. TAIL is written when the ring does not overflow, and otherwise keeps its value and RING_OVF is recorded; RESUME skips
a failed record, carries an interrupted one out again and reads the record of a ring fault again; the release ring's HEAD is the host's. Completes:
XLT_OPQ_TAIL_WRITE, XLT_RESUME, RELEASE_RING_HEAD_WRITE, MAP, UNMAP, SHARE, PROTECT, UNSHARE, REKEY, REKEY_META. -/
def Obligations.RingOperations : Prop :=
  ((∀ (s w s2 : State) (p g rc i op : Nat) (pages frames : List Nat) (c : Instr), Calm s → RingHead s p g rc i w →
      (c, op) ∈ [(Instr.map p g, 1), (.unmap p g, 2), (.share p g, 3), (.protect p g, 4), (.unshare p g, 5), (.rekey p g, 6)] → rcOp rc = op →
      i + 1 < rcPages rc → opPage w p g rc i = .ok s2 pages frames → Calm s2 →
      (rcBatch rc = true → ((xlGet s2 p).bFrames ++ (ringGet (xlGet s2 p) g).frames ++ frames).length < 4096) →
      Leads c s (xlMod s2 p (fun x =>
        let q := ringGet x g
        ringSet x g { q with page := some (i + 1), pages := q.pages ++ pages, frames := q.frames ++ frames }))) ∧
   (∀ (s w s2 : State) (p g rc i op : Nat) (c : Instr), Calm s → RingHead s p g rc i w →
      (c, op) ∈ [(Instr.map p g, 1), (.unmap p g, 2), (.share p g, 3), (.protect p g, 4), (.unshare p g, 5), (.rekey p g, 6), (.rekeyMeta p g, 7)] →
      rcOp rc = op → (xlGet s2 p).bPages = [] → (xlGet s2 p).bFrames = [] → (ringGet (xlGet s2 p) g).pages = [] →
      (ringGet (xlGet s2 p) g).frames = [] →
      (opPage w p g rc i = .ok s2 [] [] → i + 1 = rcPages rc → rcBatch rc = false →
        let s3 := recordStatus (xlMod s2 p (fun x => ringSet x g { ringGet x g with page := some (i + 1) })) p g 1 (i + 1)
        Calm s3 →
        Leads c s (wr (xlMod s3 p (fun x => ringSet x g .idle)) (R.xltOpqHeadG p g) ((rd s2 (R.xltOpqHeadG p g) + 1) % 2 ^ 32))) ∧
      (∀ st, opPage w p g rc i = .fail s2 st → st ≠ 1 → (ringGet (xlGet s2 p) g).cmd = rc →
        let s3 := ringHalt (xltErr (recordStatus s2 p g st i) p 6 g 0 0 ((rcVa rc / 65536 + i) % 2 ^ 32)) p g 1
        Calm s3 → Leads c s s3))) ∧
  (∀ (s : State) (p g : Nat), p < 16 → g < 2 → Calm s →
     (∀ tail, (tail % 2 ^ 32 + 2 ^ 32 - rd s (R.xltOpqHeadG p g)) % 2 ^ 32 ≤ opqSize s p g →
       Leads (.xltOpqTailWrite p g tail) s (wr (quiet s) (R.xltOpqTailG p g) (tail % 2 ^ 32))) ∧
     (∀ tail, opqSize s p g < (tail % 2 ^ 32 + 2 ^ 32 - rd s (R.xltOpqHeadG p g)) % 2 ^ 32 →
       Completes (.xltOpqTailWrite p g tail) s (fun u => RegsOnly s u [R.xltErrLog p, R.xltErrCount p] ∧
         rd u (R.xltOpqTailG p g) = rd s (R.xltOpqTailG p g))) ∧
     ((ringGet (xlGet s p) g).halt = 1 → Completes (.xltResume p g) s (fun u => ringGet (xlGet u p) g = .idle ∧
       ringGet (xlGet u p) (1 - g) = ringGet (xlGet s p) (1 - g) ∧ SameRegs s u [R.xltOpqHeadG p g] ∧
       rd u (R.xltOpqHeadG p g) = (rd s (R.xltOpqHeadG p g) + 1) % 2 ^ 32)) ∧
     ((ringGet (xlGet s p) g).halt = 2 →
       Leads (.xltResume p g) s (xlMod (quiet s) p (fun x => ringSet x g { ringGet x g with halt := 0 }))) ∧
     ((ringGet (xlGet s p) g).halt = 3 →
       Leads (.xltResume p g) s (xlMod (quiet s) p (fun x => ringSet x g { RingRun.idle with again := true }))) ∧
     (∀ head, (xlGet s p).pend = [] → Leads (.releaseRingHeadWrite p head) s (wr (quiet s) (R.xltRelHead p) (head % 2 ^ 32))))

/-- R255–R257, R266, R268, R270: a walk that finds a valid leaf fills the hearth's TLB; a hearth that has none of the shootdown's writes outstanding
acknowledges it; the first shootdown that every hearth has acknowledged ends once its frames have found room, is counted, and lets the operation or the
REKEY that waits for it go on; a waiting write's page is upgraded, or a frame is taken and its copy starts; a copy that ends remaps the page. Completes: WALK_COMPLETE, SHOOTDOWN_ACK, SHOOTDOWN_COMPLETE,
COPY_ON_WRITE, COW_COPY_DONE. -/
def Obligations.WalksAndShootdowns : Prop :=
  (∀ (s w : State) (d i e a b : Nat) (q : WalkReq), d < 4 → i < 64 → Calm s → lget (tgetD s.walks d []) i = some q →
    walk (quiet s) d q.part q.w.vpn true = (.leaf e a b, w) → Calm w → frameHeld s q.part (leFrame e) = false →
    (q.w.wr = true → leW e = true ∨ leCow e = true) →
    Completes (.walkComplete d i) s (fun u => tgetD u.walks d [] = ldel (tgetD s.walks d []) i ∧
      (hget u q.h).tlb = (tlbMake q.w.vpn q.part e ::
        (hget w q.h).tlb.filter (fun t => !(t.part = q.part && t.vpn = q.w.vpn))).take 128 ∧
      (hget u q.h).walks = (hget w q.h).walks.filter (· ≠ q.w))) ∧
  (∀ (s : State) (p h i : Nat) (d : Shoot), p < 16 → h < 256 → Calm s → lfind (xlGet s p).sds (fun d => d.left.contains h) = some i →
    lget (xlGet s p).sds i = some d → (∀ w ∈ d.writes, w.1 = h → ∀ q ∈ (hget s h).reqs, q.id ≠ w.2) →
    Leads (.shootdownAck p h) s (xlPut (quiet s) p { xlGet s p with sds := lset (xlGet s p).sds i { d with left := d.left.filter (· ≠ h) } })) ∧
  (∀ (s v : State) (p i : Nat) (d : Shoot), p < 16 → Calm s → lfind (xlGet s p).sds (fun d => d.left.isEmpty) = some i →
    lget (xlGet s p).sds i = some d →
    relTake (if d.frames.isEmpty then quiet s else relMove (quiet s) p (xlGet s p).pend.length) p d.frames = ([], v) → Calm v →
    (xlGet v p).sds = (xlGet s p).sds →
    let t := xltBump (xlMod v p (fun x => { x with sds := ldel x.sds i })) p (R.xltShootdowns p) 1
    (d.why = .cow ∨ d.why = .batch → Leads (.shootdownComplete p) s t) ∧
    (d.why = .rekey → Leads (.shootdownComplete p) s (xlMod t p (fun x => { x with rk := x.rk.map (fun r => { r with ready := true }) }))) ∧
    (∀ g st, d.why = .op g st →
      let t2 := opEnd t p g st (((ringGet (xlGet t p) g).page).getD 0)
      Calm t2 → (xlGet t2 p).sds = (xlGet t p).sds → Leads (.shootdownComplete p) s t2)) ∧
  (∀ (s w : State) (p : Nat) (c : CowReq) (rest : List CowReq), p < 16 → Calm s → (xlGet s p).cow = c :: rest → (xlGet s p).cowRun = none →
    (xlGet s p).rk = none →
    (∀ src k f skip next, cowFind (xlPut (quiet s) p { xlGet s p with cow := rest }) p c.vpn = (.copy src k f skip next, w) →
      let v := xlMod (frTake (rsvTake w p skip next) p f 1 1) p (fun x => { x with cowRun := some ⟨c, src, f, xCur w p⟩ })
      Calm v → Leads (.copyOnWrite p) s v) ∧
    ((cowFind (xlPut (quiet s) p { xlGet s p with cow := rest }) p c.vpn).1 ∈ [CowRes.none, .upgraded] →
      w = (cowFind (xlPut (quiet s) p { xlGet s p with cow := rest }) p c.vpn).2 → Calm w →
      Leads (.copyOnWrite p) s (hmod w c.h (fun y => { y with tlb := y.tlb.filter (fun e => !(e.part = p && e.vpn = c.vpn)) })))) ∧
  (∀ (s w w2 : State) (p e a b : Nat) (c : CowRun), p < 16 → Calm s → (xlGet s p).cowRun = some c →
    walk (xlPut (quiet s) p { xlGet s p with cowRun := none, cow := (xlGet s p).cow.filter (fun d => d ≠ c.req) }) 0 p c.req.vpn false
      = (.leaf e a b, w) → frameCopy w p c.src (leK e) c.frame c.k 256 = (true, w2) →
    let v := sdStart (cowRemap w2 p c.req.vpn c.frame c.k) p .cow [c.req.vpn] []
    Calm v → Leads (.cowCopyDone p) s v)

/-! Graphs and attention (chapters 10, 11). -/

/-- R284, R309, R312, R423, R427, R435: with room among the pending records, a submitted graph and a posted mix item join their queues while these have
room, and are answered with a REJECT record when not; so is a bad item, of which one with a nonzero reserved field is recorded as BAD_CMD; a loaded
graph that is cancelled leaves with a CANCELLED record. Completes: GRAPH_SUBMIT, MIX_POST, GRAPH_CANCEL. -/
def Obligations.GraphCommands : Prop :=
  ∀ (s : State) (q : Nat), Calm s → Listens s q → q < 1024 → recRoom s q = true →
    let p := qpPart q
    let g := gget s p
    let reject (st : Nat) : Rec := ⟨3, 0, 0, st, 0, 0, 0, 0, 0, 0, 0, none, some (telNow s)⟩
    (∀ va ctag ds, loadLen g < 64 → Completes (.graphSubmit q va ctag ds) s (fun u =>
      gget u p = { g with loadq := g.loadq ++ [⟨q, va, ds, none, none, some (telNow s)⟩] } ∧ SameRegs s u [] ∧ (qpGet u q).recs = (qpGet s q).recs)) ∧
    (∀ va ctag ds, 64 ≤ loadLen g → Completes (.graphSubmit q va ctag ds) s (fun u =>
      gget u p = g ∧ SameRegs s u [R.grfErrLog p, R.grfErrCount p] ∧ (qpGet u q).recs = (qpGet s q).recs ++ [reject 9])) ∧
    (∀ item : BitVec 256, mixBad item.toNat = false → g.mixq.length < 1024 → Completes (.mixPost q item) s (fun u =>
      gget u p = { g with mixq := g.mixq ++ [⟨q, item.toNat⟩] } ∧ SameRegs s u [] ∧ (qpGet u q).recs = (qpGet s q).recs)) ∧
    (∀ item : BitVec 256, mixBad item.toNat = false → 1024 ≤ g.mixq.length → Completes (.mixPost q item) s (fun u =>
      gget u p = g ∧ SameRegs s u [R.grfErrLog p, R.grfErrCount p] ∧ (qpGet u q).recs = (qpGet s q).recs ++ [reject 9])) ∧
    (∀ item : BitVec 256, mixBad item.toNat = true → Completes (.mixPost q item) s (fun u =>
      gget u p = g ∧ (qpGet u q).recs = (qpGet s q).recs ++ [reject 1] ∧
      (mixReserved item.toNat = false → SameRegs s u []) ∧
      (mixReserved item.toNat = true → SameRegs s u [R.hstErrLog, R.hstErrCount] ∧
        (bit (rd s R.hstErrLog) 0 = false → bit (rd u R.hstErrLog) 0 = true ∧ rdf u R.hstErrLog 8 4 = 4)))) ∧
    (∀ (gid : Nat) (gr : Graph), (∀ x ∈ g.graphs, x.id ≠ gid) → g.loaded = some gr → gr.id = gid → gr.dels = [] →
      Completes (.graphCancel q gid) s (fun u => (gget u p).loaded = none ∧ (gget u p).loadq = g.loadq ∧ (gget u p).graphs = g.graphs ∧
        (qpGet u gr.qp).recs = (qpGet s gr.qp).recs ++ [⟨2, gid, gr.failTask, 3, gr.failAbort, 0, 0, 0, 0, 0, 0, some gr.t0, gr.acc⟩] ∧
        SameRegs s u [R.grfGraphsDone p]))

/-- R285, R286: a graph whose header, descriptors and lists are sound is loaded; once no task in flight holds one of its TASK_IDs and no stream is a
member of its groups it takes its slots: its tasks are in flight, those without predecessors ready. Completes: GRAPH_LOAD, GRAPH_ACTIVATE. -/
def Obligations.GraphsLoad : Prop :=
  (∀ (s w1 w2 w3 : State) (p : Nat) (r : LoadReq) (rest : List LoadReq) (bs : List Byte) (ue : Bool) (l : List (Nat × List Nat)) (mcg : List Nat),
    p < 16 → Calm s → (gget s p).loaded = none → (gget s p).loadq = r :: rest → r.mix = none →
    vaGet (gput (quiet s) p { gget s p with loadq := rest }) p r.va 64 false = (some bs, ue, w1) →
    let hd := descBits bs
    ghBad hd = false → r.va % 64 = 0 → loadDescs w1 p (ghTaskVa hd) (ghTasks hd) = (.ok l, w2) →
    loadMcg w2 p (ghMcgVa hd) (ghMcgCount hd) = (.ok mcg, w3) → graphWhole l mcg = true → (∀ x ∈ (gget w3 p).graphs, x.id ≠ ghId hd) → Calm w3 →
    Completes (.graphLoad p) s (fun u => ∃ after, (gget u p).loaded =
        some ⟨ghId hd, r.qp, ghPrio hd, ghUrgent hd, after, 0, 0, 0, telNow s, r.dels, mcg, l, none, r.acc⟩ ∧
      (after = if ghAfterEn hd = true ∧ ∃ x ∈ (gget w3 p).graphs, x.id = ghAfter hd then some (ghAfter hd) else none))) ∧
  (∀ (s : State) (p : Nat) (gr : Graph), p < 16 → Calm s → (gget s p).loaded = some gr → (∀ x ∈ (gget s p).graphs, x.id ≠ gr.id) →
    (∀ t ∈ (gget s p).tasks, ∀ e ∈ gr.tasks, t.id ≠ tdId e.1) →
    (∀ e ∈ gr.mcg, (mcGet s p (bits e 40 8)).joined = []) →
    Completes (.graphActivate p) s (fun u => (gget u p).loaded = none ∧
      (gget u p).graphs = (gget s p).graphs ++ [{ gr with tasks := [], mcg := [] }] ∧
      (∀ e ∈ gr.tasks, ∃ t ∈ (gget u p).tasks, t.id = tdId e.1 ∧ t.gid = gr.id ∧ t.desc = e.1 ∧ t.succ = e.2 ∧ t.deps = tdDeps e.1 ∧
        t.place = if gr.after = none ∧ gr.status = 0 ∧ tdDeps e.1 = 0 then .ready else .waiting) ∧
      (∀ e, gr.mcg = [e] → ∀ sl, sl < 4 → rd u (R.chmMcgPG sl p (bits e 40 8)) = bits e 0 40)))

/-- R293, R294, R296: the first ready task is bound to the best hearth that fits it, of its partition's hearths or, when its hearth is fixed, that one
alone, where buffers that must be held stand on a hearth: the next task of that hearth has its schedule, programs and semaphores. An ATTEND task, of
which nothing but its schedule is set, is bound otherwise. Completes: TASK_PLACE. -/
def Obligations.TasksPlaced : Prop :=
  ∀ (s w1 w2 w3 : State) (p : Nat) (t : Task) (r : List Task) (bs : List Byte) (ue : Bool) (b : PlaceCand) (l : List SchedEnt) (progs : List Nat),
    p < 16 → Calm s → readyQueue (gget s p) = t :: r → (tdFixed t.desc = true → tdHearth t.desc < (partHearths s p).length) →
    bits t.desc 496 10 ≠ 0 ∨ tdHlistCount t.desc ≠ 0 ∨ tdProgCount t.desc ≠ 0 ∨ tdSems t.desc ≠ [] →
    let s0 := gmod (quiet s) p waitPrune
    let hs := if tdFixed t.desc then ((partHearths s p).drop (tdHearth t.desc)).take 1 else partHearths s p
    vaGet s0 p (tdHlistVa t.desc) (16 * tdHlistCount t.desc) false = (some bs, ue, w1) →
    let es := hlEntries bs (tdHlistCount t.desc)
    hlBad es = false → ((∃ e ∈ es, hlKind e = 1) → ∃ h ∈ partHearths s p, ∀ e ∈ es, hlKind e = 1 → holds w1 p h e = true) →
    semsOk w1 p t.desc = true →
    let fit := hs.filter (fun h => fitsHearth w1 p h es)
    placeBest ((fit.filter (fun h => (hget w1 h).next.isNone)).map (placeCand w1 p es)) = some b →
    (∀ h ∈ fit, (hget w1 h).next ≠ none → score w1 p h es ≤ b.score) →
    schedRead w1 p t.desc = (some l, w2) → progsRead w2 p t.desc = (some progs, w3) →
    schedOk t.desc (bits (rd w1 (R.mxaCtrl b.h)) 0 2) progs l = true → Calm w3 →
    Completes (.taskPlace p) s (fun u => (∃ run, (hget u b.h).next = some run ∧ run.id = t.id ∧ run.part = p ∧ run.graph = t.gid ∧ run.sched = l ∧
        run.progs = progs ∧ run.sems = tdSems t.desc) ∧
      ∀ k ∈ (gget u p).tasks, k.id = t.id → k.place = .bound b.h)

/-- R298, R300, R304: a hearth whose next task may start runs it, and the task that ran drains; SEMREL releases a semaphore that the task holds: its
count rises by one and the task no longer holds it. Completes: TASK_START, SEMREL. -/
def Obligations.TasksRun : Prop :=
  (∀ (s : State) (h : Nat) (t : TaskRun), h < 256 → Calm s → (hget s h).next = some t → startOk s h = true → t.mark = none →
    Completes (.taskStart h) s (fun u => (hget u h).next = none ∧ (hget u h).drain = (hget s h).cur ∧
      (hget u h).cur = some { t with cvt := 0, sat := 0, passSeq := 0, invSeq := 0, start := coreNow s, mark := none } ∧
      SameRegs s u [R.telHrtGateH h, R.pwrFbGateCyclesF (h / 64)] ∧ u.hbm = s.hbm ∧ u.slices = s.slices ∧ ∀ k, k ≠ h → hget u k = hget s k)) ∧
  (∀ (s : State) (h : Nat) (t : TaskRun) (e : SchedEnt) (r : List SchedEnt), h < 256 → Calm s → (hget s h).cur = some t → t.sched = e :: r →
    bits e.desc 0 8 = 6 →
    let i := if bit e.desc 8 then tdSem1 t.desc else tdSem0 t.desc
    i ∈ t.sems → semGet s t.part i < 65535 →
    Completes (.semrel h) s (fun u => HearthOnly s u h [R.grfSemS t.part i] ∧ semGet u t.part i = semGet s t.part i + 1 ∧
      (hget u h).cur = some { t with sched := r, sems := t.sems.erase i }))

/-- R291, R299, R305: a task whose work is done and that holds no semaphore leaves its hearth and flight, is counted, its record joins the queue
pair's pending records when CR_EN asks for one, and each of its successors counts one dependence less. Completes: TASK_COMPLETE. -/
def Obligations.TasksComplete : Prop :=
  ∀ (s : State) (h : Nat) (r : TaskRun) (t : Task) (gr : Graph), h < 256 → Calm s → (hget s h).cur = some r → (hget s h).drain = none →
    completes (hget s h) r = true → r.sems = [] → r.att = 0 → taskGet s r.part r.id = some t → graphGet s r.part t.gid = some gr → gr.status = 0 →
    t.sus = none → (tdCrEn t.desc = true → recRoom s gr.qp = true) → (∃ k ∈ (gget s r.part).tasks, k.gid = t.gid ∧ k.id ≠ t.id) →
    Completes (.taskComplete h false) s (fun u => (hget u h).cur = none ∧ (∀ k ∈ (gget u r.part).tasks, k.id ≠ t.id) ∧
      (∀ k ∈ (gget s r.part).tasks, k.id ≠ t.id → ∃ k' ∈ (gget u r.part).tasks, k'.id = k.id ∧ k'.desc = k.desc ∧
        k'.deps = if k.gid = t.gid then k.deps - t.succ.count k.id else k.deps) ∧
      (qpGet u gr.qp).recs = (qpGet s gr.qp).recs ++
        (if tdCrEn t.desc then [taskRec t 0 (r.cvt + 32 * r.sat) (coreNow s - r.start)] else []) ∧
      (bit (rd s (R.grfCtrl r.part)) 0 = false → rd u (R.grfTasksDone r.part) = (rd s (R.grfTasksDone r.part) + 1) % 2 ^ 48))

/-- R130, R140, R168, R307, R507: an abort of the task that runs alone on a hearth takes it off the hearth at once and makes it ready again, ahead,
with one more replay, while its replays last; so does a scheduled read that waits longer than its bank's slack, and a tile not filled when it falls
due. A read granted within its slack aborts nothing and counts the cycles it waited. A task at its watchdog's limit is held as a suspect instead.
Completes: TASK_ABORT, BANK_LATE, DUE_CHECK, TASK_WATCHDOG. -/
def Obligations.AbortsTaken : Prop :=
  ∀ (s : State) (h : Nat) (r : TaskRun) (t : Task) (gr : Graph), h < 256 → Calm s → (hget s h).cur = some r → (hget s h).drain = none →
    (hget s h).next = none → taskGet s r.part r.id = some t → graphGet s r.part t.gid = some gr → gr.status = 0 →
    t.replays < grfReplayMax s r.part →
    let P (code : Nat) (u : State) : Prop := (hget u h).cur = none ∧ (hget u h).drain = none ∧
      (∀ k ∈ (gget u r.part).tasks, k.id = r.id → k.place = .ready ∧ k.lastAbort = code) ∧
      (∃ k ∈ (gget u r.part).tasks, k.id = r.id ∧ k.replays = t.replays + 1) ∧ ∀ k, k ≠ h → (hget u k).cur = (hget s k).cur
    (∀ code, code ∈ [1, 2, 3, 6, 9] → Completes (.taskAbort h false code) s (P code)) ∧
    (∀ m row port, m < 3 → row < memRows m → bankLateTask (hget s h) (port % 8) = some r.id →
      (bankGranted m row port = false → Completes (.bankLate h m row port) s (P 6)) ∧
      (bankGranted m row port = true → Completes (.bankLate h m row port) s (fun u => u.hearths = s.hearths ∧ SameRegs s u [R.spdConflictM h m] ∧
        (bit (rd s (R.spdCtrl h)) 0 = false → rd u (R.spdConflictM h m) = (rd s (R.spdConflictM h m) + port / 8) % 2 ^ 48)))) ∧
    (∀ e tile st i, e < 10 → (engGet (hget s h) e).cur = some st → st.own = r.id → dueLate e tile st = some i → r.plan = none →
      Completes (.dueCheck h e tile) s (P 6)) ∧
    (completes (hget s h) r = false → t.sus = none →
      Completes (.taskWatchdog h false) s (fun u => (hget u h).cur = none ∧
        ∀ k ∈ (gget u r.part).tasks, k.id = r.id → k.place = .held ∧ k.sus = some (h, true) ∧ k.lastAbort = 7))

/-- R314, R315, R318: a mixed step of a present variant is formed when its CLOSE is reached; the table's address is written while no step is in
flight, and HALT ends with it. Completes: MIX_STEP_FORM, GRF_MIX_TABLE_WRITE. -/
def Obligations.MixedSteps : Prop :=
  (∀ (s w w1 w2 w3 : State) (p i c hva rva gid : Nat) (rows : List (List Byte)) (st : WrRes), p < 16 → Calm s →
    let g := gget s p
    let cfg := rd s (R.grfMixCfg p)
    lfind g.mixq (fun i => mxKind i.bits = 2) = some i → bit cfg 26 = true → g.mixHalt = false →
    (∀ e ∈ g.mixRun, (e.1 + 2) % 2 ^ 32 ≠ g.step) →
    let dec := mixDecode (g.mixq.take i) 0 (bits cfg 13 13) false
    let pre := mixPrefill dec.2.2 dec.1 (bits cfg 0 13) (bits cfg 13 13) false
    let close := (lget g.mixq i).getD ⟨0, 0⟩
    let items := dec.2.1 ++ pre.2.1
    let pad := 32 * (c + 1) - pre.1
    pre.1 ≠ 0 → mixVariant (quiet s) p (g.step % 2) pre.1 0 16 = (some (c, hva, rva), w) → mixRows w p items = (rows, w1) →
    vaPut w1 p rva (rows ++ List.replicate pad (mixRow 0 0 false false)).flatten = (st, w2) → headerId w2 p hva = (some gid, w3) →
    Calm w3 → w3.graphs = s.graphs → w3.qps = s.qps → loadLen g < 64 →
    Completes (.mixStepForm p) s (fun u => (gget u p).step = (g.step + 1) % 2 ^ 32 ∧ (gget u p).mixq = pre.2.2 ++ g.mixq.drop (i + 1) ∧
      (gget u p).mixRun = g.mixRun ++ [(g.step, gid)] ∧ (gget u p).loadq = g.loadq ++ [⟨close.qp, hva, [], some g.step, g.mixLast, none⟩] ∧
      (qpGet u close.qp).recs = (qpGet s close.qp).recs ++
        [⟨4, gid, g.step % 65536, 0, 0, 0, 0, 0, 0, pre.1 + fieldAt 16 13 items.length, 0, none, none⟩])) ∧
  (∀ (s : State) (p va : Nat), p < 16 → Calm s → (gget s p).mixRun = [] → va % 16 = 0 → va < 2 ^ 48 →
    Completes (.grfMixTableWrite p va) s (fun u => rd u (R.grfMixTable p) = va ∧ gget u p = { gget s p with mixHalt := false } ∧
      SameRegs s u [R.grfMixTable p]))

/-- R327, R329, R331, R332, R334, R336: the planner's plan takes a free slot and counts its group; an APPEND, WORK or MERGE task does its share of
the plan. A record gives back the partial that was written in it, bit for bit; a segment without visible keys leaves a row as it was. Completes:
ATTEND_PLAN, ATTEND_APPEND, ATTEND_WORK, ATTEND_MERGE. -/
def Obligations.AttentionPhases : Prop :=
  ((∀ (s w : State) (p i : Nat) (r : PlanReq) (t : Task) (es : List Nat) (pl : Plan), p < 16 → Calm s → (gget s p).planReq = some r →
     taskGet s p r.task = some t → planSlot (gget s p) = some i →
     ltRead (gput (quiet s) p { gget s p with planReq := none }) p r.desc = (some es, w) → planMake r.graph r.desc es = .ok pl → Calm w →
     Completes (.attendPlan p) s (fun u => tget (gget u p).plans i = some pl ∧
       (bit (rd w (R.atnCtrl p)) 0 = false → rd u (R.atnGroups p) = (rd w (R.atnGroups p) + 1) % 2 ^ 48 ∧
         rd u (R.atnUnits p) = (rd w (R.atnUnits p) + pl.units) % 2 ^ 48))) ∧
   (∀ (s : State) (h : Nat) (t : TaskRun) (e : SchedEnt) (r : List SchedEnt) (pl : Plan), h < 256 → Calm s → (hget s h).cur = some t →
     t.sched = e :: r → bits e.desc 0 8 = 7 → t.plan = some pl → t.att ≠ 0 →
     let s1 := hmod (quiet s) h (fun x => { x with cur := some { t with sched := r } })
     (∀ w, adPhase t.att = 0 → attTiles (appendTokens s1 h t (appendShare t.att pl.ents (adIndex t.att))) h = w → Calm w →
       Leads (.attendAppend h) s w) ∧
     (∀ w, adPhase t.att = 1 → attTiles (workUnits s1 h t pl.jobs (pl.work.getD (adIndex t.att) [])) h = w → Calm w → Leads (.attendWork h) s w) ∧
     (∀ w, adPhase t.att = 2 → attTiles (mergeItemsRun s1 h t (mergeShare t.att pl (adIndex t.att))) h = w → Calm w → Leads (.attendMerge h) s w))) ∧
  ((∀ g : SegPart, g.o.length = 128 → partOf (partBytes g) = g ∧ (partBytes g).length = 576) ∧
   (∀ (r g : SegPart), g.m = negInf → rowFold r g = r) ∧
   ∀ (d hk p j0 : Nat) (q ks : List Nat), adCausal d = true → p < j0 → (segPart d hk p j0 q ks).1.m = negInf)

/-! Fabric links (chapter 12). -/

/-- R343, R344, R347, R348, R350, R351, R353, R354: in a data slot of a running link a flit is sent again while a replay goes on, else the next flit of
the one packet that may go is sent under the next SEQ and kept in the retry buffer, and the packet leaves its receive pool with its last flit; with
no packet the slot is IDLE. In a control slot the link sends DOWN, or the message that waits, or none. Each slot carries the CRC-32 of its bytes. A
slot that does not decode or whose CRC fails, and a data slot out of order, is NAKed; an IDLE slot acknowledges and reports credit; the data slot that
is due is accepted: its flit opens a packet of the pool of its VC or joins the open one. Completes: LINK_SLOT_TX, LINK_DATA_SLOT_RX. -/
def Obligations.SlotsExchanged : Prop :=
  ∀ (s : State) (n : Nat), n < 18 → Calm s →
    let x := lkGet s n
    (lkRuns s n = true → x.pos ∉ [0, 43, 86] →
      (∀ k f, x.replay = some k → (unacked x).find? (fun f => (f.seq + 4096 - k) % 4096 < 2048) = some f → f.seq < 4096 →
        Completes (.linkSlotTx n) s (fun u => (lkGet u n).pos = (x.pos + 1) % 128 ∧ (lkGet u n).replay = some ((f.seq + 1) % 4096) ∧
          (lkGet u n).retry = x.retry ∧ (lkGet u n).txSeq = x.txSeq ∧ (∀ k, k ≠ n → lkGet u k = lkGet s k) ∧
          ∃ w, (lkGet u n).out = some (dataOf w (some f.flit)) ∧ bits w 0 2 = 1 ∧ bits w 2 12 = f.seq)) ∧
      (∀ q f r, x.replay = none → (txFree s n).filter (fun q => credit x q.vc) = [q] → q.flits = f :: r → x.retry.length < 512 → x.txSeq < 4096 →
        Completes (.linkSlotTx n) s (fun u => (lkGet u n).pos = (x.pos + 1) % 128 ∧ (lkGet u n).txSeq = (x.txSeq + 1) % 4096 ∧
          (lkGet u n).retry = x.retry ++ [⟨x.txSeq, q.id, onVc q.vc f, false⟩] ∧ (q.src = none → ∀ k, k ≠ n → lkGet u k = lkGet s k) ∧
          (∀ l v, q.src = some (l, v) → q.whole = true → r = [] → ∀ p ∈ rxPool (lkGet u l) v, p.id ≠ q.id) ∧
          ∃ w, (lkGet u n).out = some (dataOf w (some (onVc q.vc f))) ∧ bits w 0 2 = 1 ∧ bits w 2 12 = x.txSeq ∧
            bits w 14 12 = (x.rxExp + 4095) % 4096)) ∧
      (x.replay = none → txFree s n = [] → Completes (.linkSlotTx n) s (fun u => (lkGet u n).pos = (x.pos + 1) % 128 ∧ (lkGet u n).retry = x.retry ∧
        (lkGet u n).txSeq = x.txSeq ∧ (∀ k, k ≠ n → lkGet u k = lkGet s k) ∧ ∃ w, (lkGet u n).out = some (dataOf w none) ∧ bits w 0 2 = 0))) ∧
    (x.pos ∈ [0, 43, 86] →
      (∀ c, x.downTx = some c → Leads (.linkSlotTx n) s (lkPut (quiet s) n { x with out := some (controlOf x.pos 4 c), pos := (x.pos + 1) % 128 })) ∧
      (∀ m r, lkRuns s n = true ∨ x.st = 1 → x.downTx = none → x.msgs = m :: r →
        Leads (.linkSlotTx n) s (lkPut (quiet s) n { x with msgs := r, out := some (controlOf x.pos m.1 m.2), pos := (x.pos + 1) % 128 })) ∧
      (lkRuns s n = true → x.downTx = none → x.msgs = [] → x.echoes = [] →
        Leads (.linkSlotTx n) s (lkPut (quiet s) n { x with out := some (controlOf x.pos 0 0), pos := (x.pos + 1) % 128 }))) ∧
    (∀ k : SlotRx, lkRuns s n = true → k.decodes = false ∨ 4 < k.corrected →
      Completes (.linkDataSlotRx n k) s (fun u =>
        lkGet u n = { x with nak := true, cw := x.cw.filter (fun t => s.now < t + 440000000) ++ [s.now] } ∧
        SameRegs s u [R.telFecNB n 5, R.lnkFecUncorr n] ∧
        (bit (rd s (R.lnkCtrl n)) 0 = false → rd u (R.lnkFecUncorr n) = (rd s (R.lnkFecUncorr n) + 1) % 2 ^ 48))) ∧
    (∀ k : SlotRx, lkRuns s n = true → k.decodes = true → k.corrected ≤ 4 → k.crcOk = false →
      Completes (.linkDataSlotRx n k) s (fun u => (lkGet u n).nak = true ∧ (lkGet u n).rx = x.rx ∧ (lkGet u n).rxExp = x.rxExp ∧
        (bit (rd s (R.lnkCtrl n)) 0 = false → rd u (R.lnkCrcErr n) = (rd s (R.lnkCrcErr n) + 1) % 2 ^ 48))) ∧
    (∀ k : SlotRx, lkRuns s n = true → k.decodes = true → k.corrected ≤ 4 → k.crcOk = true → bit k.linkWord.toNat 26 = false →
      let w := k.linkWord.toNat
      let a := ackUpTo x (bits w 14 12)
      (bits w 0 2 ≠ 1 → Completes (.linkDataSlotRx n k) s (fun u =>
        lkGet u n = { a with cc := tput (tput a.cc (bits w 27 5) (bits w 32 12)) (bits w 44 5) (bits w 49 12) } ∧ ∀ k, k ≠ n → lkGet u k = lkGet s k)) ∧
      (bits w 0 2 = 1 → injKind s 0x20 n ≠ some 5 →
        (bits w 2 12 ≠ x.rxExp → Completes (.linkDataSlotRx n k) s (fun u => (lkGet u n).nak = true ∧ (lkGet u n).rx = x.rx ∧
          (lkGet u n).rxExp = x.rxExp ∧ (lkGet u n).retry = a.retry)) ∧
        let f : Flit := ⟨k.header.toNat, k.body⟩
        let vc := bits f.hdr 0 5
        (bits w 2 12 = x.rxExp → flitOk x f = true → flAbort f = false →
          (flSop f = true → Completes (.linkDataSlotRx n k) s (fun u => (lkGet u n).nak = false ∧ (lkGet u n).rxExp = (x.rxExp + 1) % 4096 ∧
            rxPool (lkGet u n) vc = rxPool x vc ++ [⟨s.nextPkt, [f], 1, flEop f, .fresh, telNow s⟩] ∧
            ∀ v, v ≠ vc → rxPool (lkGet u n) v = rxPool x v)) ∧
          (∀ q, flSop f = false → (rxPool x vc).find? (fun q => !q.whole) = some q → q.way = .fresh ∨ q.way = .local_ →
            Completes (.linkDataSlotRx n k) s (fun u => (lkGet u n).nak = false ∧ (lkGet u n).rxExp = (x.rxExp + 1) % 4096 ∧
              rxPool (lkGet u n) vc =
                (rxPool x vc).map (fun p => if p.id = q.id then { p with flits := p.flits ++ [f], held := p.held + 1, whole := flEop f } else p) ∧
              ∀ v, v ≠ vc → rxPool (lkGet u n) v = rxPool x v)))))

/-- R351, R360, R365, R366: what a control message leaves on a link that runs or trains: the partner's parameters, the time to echo, the largest round
trip of the training, the drain that the partner asks for; besides that its codeword is counted. The end of the link's own DOWN. Completes: PARAM,
LINK_ECHO, LINK_ECHO_REPLY, RETRAIN_REQ, LINK_DOWN_TX_END. -/
def Obligations.LinkMessages : Prop :=
  ∀ (s : State) (n : Nat), n < 18 → Calm s →
    let x := lkGet s n
    let fec : List Reg := (List.range 5).map (R.telFecNB n) ++ [R.lnkFecCorr n, R.lnkFecSym n]
    (lkRuns s n = true ∨ x.st = 1 →
      (∀ dev link port cls links, dev < 65536 → link < 32 → port < 32 → cls < 4 →
        Completes (.param n dev link port cls links) s (fun u => rd u (R.lnkPartner n) = dev + 2 ^ 16 * link + 2 ^ 21 * port + 2 ^ 26 * cls + 2 ^ 28 ∧
          lkGet u n = { x with plinks := links % 8 } ∧ (∀ k, k ≠ n → lkGet u k = lkGet s k) ∧ SameRegs s u (R.lnkPartner n :: fec))) ∧
      (∀ ts, Completes (.linkEcho n ts) s (fun u => lkGet u n = { x with echoes := x.echoes ++ [ts.toNat] } ∧ (∀ k, k ≠ n → lkGet u k = lkGet s k) ∧
        SameRegs s u fec)) ∧
      (∀ ts, Completes (.linkEchoReply n ts) s (fun u =>
        lkGet u n = (if x.st = 1 then { x with rtt := max x.rtt ((telNow s - ts.toNat) * 5 / 8) } else x) ∧
        (∀ k, k ≠ n → lkGet u k = lkGet s k) ∧ SameRegs s u fec))) ∧
    (x.st = 2 → Completes (.retrainReq n) s (fun u => (lkGet u n).st = 3 ∧
      ((lkPort s n < 18 → ∃ m ∈ portLive s (lkPort s n), m ≠ n) → lkGet u n = { x with st := 3 } ∧ ∀ k, k ≠ n → lkGet u k = lkGet s k))) ∧
    Leads (.linkDownTxEnd n) s (lkPut (quiet s) n { x with downTx := none })

/-- R355, R360, R362, R363, R365, R366: a running link goes down on its partner's DOWN, a lost signal, more uncorrectable codewords than its limit
within a millisecond, 2 µs without a slot, the last replay without an acknowledgement, or a drain that does not end: it sends DOWN with the cause,
its retry buffer empties and the event is counted. A replay that times out before starts again from the oldest unacknowledged flit. Training starts
on a link that may start and sends PARAM; it is refused to a class that the part does not enable; it ends UP with empty counters when the lanes lock
and the partner's parameters agree, REFUSED when they do not, DOWN or after the last try FAILED when the lanes do not lock. RETRAIN drains a link
that is UP, which trains again when drained, and lets one start that is down; DISABLE takes a link down and its end lets it start. Completes: DOWN,
LINK_LOS, FEC_LIMIT, NO_SLOT_TIMEOUT, LINK_DRAIN_TIMEOUT, REPLAY_TIMEOUT, LINK_TRAIN_START, LINK_TRAIN_DONE, LINK_RETRAIN, LINK_DRAIN_DONE,
LINK_DISABLE. -/
def Obligations.LinkStates : Prop :=
  (∀ (s : State) (n : Nat), n < 18 → Calm s → lkRuns s n = true →
     let x := lkGet s n
     let P (kind : Nat) (u : State) : Prop := (lkGet u n).st = 4 ∧ (lkGet u n).retry = [] ∧ (lkGet u n).downTx = some kind ∧ (lkGet u n).replay = none ∧
       (bit (rd s (R.lnkCtrl n)) 0 = false → rd u (R.lnkDownEvents n) = (rd s (R.lnkDownEvents n) + 1) % 2 ^ 48)
     (∀ cause, Completes (.down n cause) s (P 4)) ∧
     (∀ lane, lane < 4 → Completes (.linkLos n lane) s (fun u => P 1 u ∧ bit (rd u (R.lnkLaneL n lane)) 0 = false)) ∧
     (bits x.lim 16 8 < (x.cw.filter (fun t => s.now < t + 440000000)).length → Completes (.fecLimit n) s (P 2)) ∧
     Completes (.noSlotTimeout n) s (P 5) ∧
     (x.st = 3 → x.retry ≠ [] → Completes (.linkDrainTimeout n) s (P 0)) ∧
     (unacked x ≠ [] → replayLimit x ≤ x.replays → Completes (.replayTimeout n) s (P 3)) ∧
     (unacked x ≠ [] → x.replays < replayLimit x → Completes (.replayTimeout n) s (fun u => (lkGet u n).replay = some (oldestSeq x) ∧
       (lkGet u n).replays = x.replays + 1 ∧ (lkGet u n).retry = x.retry ∧ (lkGet u n).st = x.st ∧ SameRegs s u [R.lnkReplayTo n]))) ∧
  (∀ (s : State) (n : Nat), n < 18 → Calm s →
     let x := lkGet s n
     (x.go = true → lkRuns s n = false → x.st ≠ 1 → bit (rd s (R.lnkCtrl n)) 3 = false → lkPort s n < 18 → portOn s (lkPort s n) = true →
       (classOn s n = true → Completes (.linkTrainStart n) s (fun u => (lkGet u n).st = 1 ∧ (lkGet u n).msgs = [(1, paramOut s n)] ∧
         (lkGet u n).go = false ∧ (lkGet u n).rtt = 0 ∧ (lkGet u n).lim = rd s (R.lnkCfg n) ∧ (lkGet u n).laneOk = 0 ∧
         (bit (rd s (R.lnkCtrl n)) 0 = false → rd u (R.lnkRetrains n) = (rd s (R.lnkRetrains n) + 1) % 2 ^ 48))) ∧
       (classOn s n = false → Completes (.linkTrainStart n) s (fun u => (lkGet u n).st = 6 ∧ (lkGet u n).refuse = 1 ∧ (lkGet u n).go = false))) ∧
     (∀ r : TrainResult, x.st = 1 → r.physOk = true → r.lanesOk = 15#4 →
       (paramCheck s n = 0 → Completes (.linkTrainDone n r) s (fun u => (lkGet u n).st = 2 ∧ (lkGet u n).txSeq = 0 ∧ (lkGet u n).rxExp = 0 ∧
         (lkGet u n).retry = [] ∧ (lkGet u n).laneOk = 15 ∧ bits (rd u (R.lnkRtt n)) 0 16 = min (max x.rtt r.rttNs) 65535)) ∧
       (∀ c, paramCheck s n = c → c ≠ 0 → Completes (.linkTrainDone n r) s (fun u => (lkGet u n).st = 6 ∧ (lkGet u n).refuse = c))) ∧
     (∀ r : TrainResult, x.st = 1 → r.physOk = false ∨ r.lanesOk ≠ 15#4 → Completes (.linkTrainDone n r) s (fun u =>
       (lkGet u n).st = (if trainTries x ≤ x.fails + 1 then 5 else 4) ∧ (lkGet u n).go = decide (x.fails + 1 < trainTries x) ∧
       (lkGet u n).tries = min 15 (x.tries + 1))) ∧
     (x.st = 2 → Completes (.linkRetrain n) s (fun u => (lkGet u n).st = 3 ∧ (lkGet u n).msgs = x.msgs ++ [(5, 0)])) ∧
     (x.st = 4 → Leads (.linkRetrain n) s (lkPut (quiet s) n { x with go := true })) ∧
     (x.st = 5 → Leads (.linkRetrain n) s (lkPut (quiet s) n { x with go := true, fails := 0 })) ∧
     (x.st = 3 → x.retry = [] → Completes (.linkDrainDone n) s (fun u => (lkGet u n).st = 1 ∧ (lkGet u n).msgs = [(1, paramOut s n)])) ∧
     (lkRuns s n = true → Completes (.linkDisable n true) s (fun u => (lkGet u n).st = 0 ∧ (lkGet u n).downTx = some 6 ∧
       bit (rd u (R.lnkCtrl n)) 3 = true)) ∧
     (lkRuns s n = false → Completes (.linkDisable n true) s (fun u => (lkGet u n).st = 0 ∧ (lkGet u n).go = false ∧
       bit (rd u (R.lnkCtrl n)) 3 = true)) ∧
     (x.st = 0 → bit (rd s (R.lnkCtrl n)) 3 = true → Completes (.linkDisable n false) s (fun u => lkGet u n = { x with go := true } ∧
       bit (rd u (R.lnkCtrl n)) 3 = false)))

/-! Routing, flows and collectives (chapter 13). -/

/-- R379, R380, R382: of the packets of a pool the oldest one not yet routed is routed. One without hops left is dropped and counted, as is one
whose data VC belongs to another slice or that no route takes; a packet for this device loses a hop and stays; a transit packet takes the port that
its route gives, which is its PRIMARY where that is usable, and joins the least loaded live link of that port. A packet that has waited too long for
credit moves to the escape network. Completes: PACKET_ROUTE, ESCAPE_TIMEOUT. -/
def Obligations.FabricPackets : Prop :=
  (∀ (s : State) (n vc : Nat) (q : RxPkt), n < 18 → Calm s → (rxPool (lkGet s n) vc).find? (fun q => q.way = .fresh) = some q →
    (rxPool (lkGet s n) vc).find? (fun p => p.id = q.id) = some q → injKind s 16 (linkSlice n) = none →
    let h := pktHdr q.flits
    let h1 := setByte h 9 (phHops h - 1)
    let away (u : State) : Prop := q.whole = true → ∀ p ∈ rxPool (lkGet u n) vc, p.id ≠ q.id
    let pool (f : RxPkt → RxPkt) : List RxPkt := (rxPool (lkGet s n) vc).map (fun p => if p.id = q.id then f p else p)
    (phHops h = 0 → Completes (.packetRoute n vc) s (fun u => away u ∧
      (bit (rd s R.fabCtrl) 0 = false → rd u R.fabTtlDrop = (rd s R.fabTtlDrop + 1) % 2 ^ 48))) ∧
    (phHops h ≠ 0 → phDst h = ownDev s ∨ (vc = 31 ∧ phDst h = 65535) → Completes (.packetRoute n vc) s (fun u =>
      rxPool (lkGet u n) vc = pool (fun p => { p with flits := rehead h1 p.flits, way := .local_ }) ∧ SameRegs s u [])) ∧
    (phHops h ≠ 0 → phDst h ≠ ownDev s → ¬ (vc = 31 ∧ phDst h = 65535) →
      (routeOf s (some (lkPort s n)) vc h1 = .drop 1 → Completes (.packetRoute n vc) s (fun u => away u ∧
        (bit (rd s R.fabCtrl) 0 = false → rd u R.fabVcMismatch = (rd s R.fabVcMismatch + 1) % 2 ^ 48))) ∧
      (routeOf s (some (lkPort s n)) vc h1 = .drop 3 → Completes (.packetRoute n vc) s (fun u => away u ∧
        (bit (rd s R.fabCtrl) 0 = false → rd u R.fabNoRoute = (rd s R.fabNoRoute + 1) % 2 ^ 48))) ∧
      (∀ p v h' alt l, routeOf s (some (lkPort s n)) vc h1 = .out p v h' alt → pickLink s (portLive s p) = some l → (portGet s p).cong = false →
        Completes (.packetRoute n vc) s (fun u =>
          rxPool (lkGet u n) vc = pool (fun p' => { p' with flits := rehead h' p'.flits, way := .transit p l }) ∧
          (lkGet u l).txq = (lkGet s l).txq ++ [⟨q.id, v, rehead h' q.flits, q.whole, some (n, vc), false, phDst h', none, false⟩] ∧
          (bit (rd s R.fabCtrl) 0 = false → rd u R.fabTransitPkts = (rd s R.fabTransitPkts + 1) % 2 ^ 48))) ∧
      (vc < 24 → vcOwns s vc h1 = false → routeOf s (some (lkPort s n)) vc h1 = .drop 1) ∧
      (∀ p, (vc < 24 → vcOwns s vc h1 = true) → phAlt h1 = false → primaryOf s (phDst h1) = some p →
        routeOf s (some (lkPort s n)) vc h1 = .out p (primaryVc s (some (lkPort s n)) vc p) h1 false))) ∧
  (∀ (s : State) (port l v : Nat) (r : List Nat) (k : TxPkt), Calm s → port < 18 → v < 24 → portLive s port = l :: r →
    (lkGet s l).txq.find? (fun q => q.vc = v) = some k → k.begun = false → k.flits ≠ [] → credit (lkGet s l) v = false →
    Completes (.escapeTimeout port v) s (fun u =>
      (lkGet u l).txq = (lkGet s l).txq.filter (fun q => q.id ≠ k.id) ++
        [{ k with vc := escVc s 24 (k.src.map (fun e => lkPort s e.1)) v port, flits := rehead (setEsc (pktHdr k.flits)) k.flits }] ∧
      (bit (rd s R.fabCtrl) 0 = false → rd u R.fabEscEntries = (rd s R.fabEscEntries + 1) % 2 ^ 48)))

/-- R387, R388: the receiver drops a duplicate, defers a packet of no loaded entry, drops one whose tag fails, and accepts the next SEQ: BASE rises
and an acknowledgement is owed, which the eighth accepted packet sends and else the timer, on VC 29. The sender frees what an acknowledgement covers,
sends an overdue packet again, and fails the flow and its collectives after the last resend. Completes: PACKET_ACCEPT, ACK_RECEIVE, ACK_TIMER,
RESEND_TIMEOUT. -/
def Obligations.FlowsKept : Prop :=
  ∀ s : State, Calm s →
    (∀ (n vc : Nat) (q : RxPkt), n < 18 →
      let h := pktHdr q.flits
      let body := (bodyOf q.flits).drop 32
      let first (ty : Nat) : Prop := (rxPool (lkGet s n) vc).find? (fun q => q.way = .local_ && q.whole && phType (pktHdr q.flits) = ty) = some q
      let away (u : State) : Prop := ∀ p ∈ rxPool (lkGet u n) vc, p.id ≠ q.id
      (∀ f fvc, first 0 → (if 5 ≤ phKind h then some 28 else groupVc s (phSlice h) (phGroup h)) = some fvc →
        s.rflows.find? (fun f => f.dev = phSrc h && f.spart = phSpart h && f.dpart = phDpart h && f.vc = fvc) = some f →
        (phSeq h ≤ f.base ∨ phSeq h ∈ f.marks → Completes (.packetAccept n vc) s (fun u => away u ∧ u.rflows = s.rflows ∧
          u.colIn = s.colIn ∧ (bit (rd s R.fabCtrl) 0 = false → rd u R.fabDupDrop = (rd s R.fabDupDrop + 1) % 2 ^ 48))) ∧
        (phSeq h = f.base + 1 → f.marks = [] →
          (colGet s f.dpart (phColl h) = none → Completes (.packetAccept n vc) s (fun u => away u ∧ u.rflows = s.rflows ∧
            u.colIn = s.colIn ∧ (bit (rd s R.fabCtrl) 0 = false → rd u R.fabDefer = (rd s R.fabDefer + 1) % 2 ^ 48))) ∧
          (∀ e, colGet s f.dpart (phColl h) = some e → phEpoch h = e.epoch → inWindow e (phKind h) (phBucket h) = true →
            let r := gcmOpen (fabKey s f.dpart (phKslot h)) (fabNonce f.dev (ownDev s) f.spart f.dpart f.vc (phKslot h) (phSeq h)) (fabAad h) body
            (r = none → Completes (.packetAccept n vc) s (fun u => away u ∧ u.rflows = s.rflows ∧ u.colIn = s.colIn ∧
              (bit (rd s R.fabCtrl) 0 = false → rd u R.fabAuthFail = (rd s R.fabAuthFail + 1) % 2 ^ 48))) ∧
            (∀ plain, r = some plain →
              let Q (u : State) : Prop := away u ∧
                u.colIn = s.colIn ++ [⟨f.dpart, f.dev, f.spart, phColl h, phKind h, phRank h, phEpoch h, phBucket h, phOff h, phBackup h, plain⟩]
              (f.pend < 7 → s.rflows.find? (fun g => g.id = f.id) = some f → Completes (.packetAccept n vc) s (fun u => Q u ∧
                { f with base := phSeq h, pend := f.pend + 1 } ∈ u.rflows)) ∧
              (7 ≤ f.pend → s.rflows.find? (fun g => g.id = f.id) = some f → (∀ p, stagingRoom s p 1 = true) →
                Completes (.packetAccept n vc) s (fun u => Q u ∧
                  { f with base := phSeq h, pend := 0, ackSeq := f.ackSeq + 1 } ∈ u.rflows)))))) ∧
      let acked (x : Unacked) : Prop := x.seq ≤ hB h 16 6 ∨ (x.seq ≤ hB h 16 6 + 64 ∧ bit (hB h 24 8) (x.seq - hB h 16 6 - 1) = true)
      (∀ f r, first 1 →
        gcmOpen (fabKey s (phDpart h) (phKslot h)) (fabNonce (phSrc h) (ownDev s) (phSpart h) (phDpart h) (hB h 22 1) (phKslot h) (phSeq h)) (fabAad h)
          body = some r →
        s.sflows.find? (fun f => f.dev = phSrc h && f.dpart = phSpart h && f.spart = phDpart h && f.vc = hB h 22 1) = some f →
        s.sflows.find? (fun g => g.id = f.id) = some f →
        Completes (.ackReceive n vc) s (fun u => away u ∧ ∃ g ∈ u.sflows, g.id = f.id ∧
          (∀ x ∈ f.un, ¬ acked x → x ∈ g.un) ∧ ∀ x ∈ g.un, (x ∈ f.un ∧ ¬ acked x) ∨ f.next ≤ x.seq))) ∧
    (∀ (i p l : Nat) (f : RecvFlow), s.rflows.find? (fun f => f.id = i) = some f → f.pend ≠ 0 → f.dev < 4096 → f.base < 2 ^ 48 → f.vc < 32 →
      primaryOf s f.dev = some p → pickLink s (portLive s p) = some l → stagingRoom s p 1 = true →
      Completes (.ackTimer i) s (fun u => { f with pend := 0, ackSeq := f.ackSeq + 1 } ∈ u.rflows ∧
        ∃ h body, (lkGet u l).txq = (lkGet s l).txq ++ [⟨s.nextPkt, 29, flitsOf 29 (h ++ body), true, none, false, f.dev, some (linkSlice l), false⟩] ∧
          h.length = 32 ∧ phType h = 1 ∧ phDst h = f.dev ∧ hB h 16 6 = f.base ∧ hB h 22 1 = f.vc)) ∧
    (∀ (i seq : Nat) (f : SendFlow) (x : Unacked), s.sflows.find? (fun f => f.id = i) = some f → f.un.find? (fun x => x.seq = seq) = some x →
      f.failed = false →
      (x.resends < rdf s R.fabE2eCfg 16 4 → flowHeld s f = false →
        (∀ p, (portGet s p).cong = false ∧ stagingRoom s p (cdiv (x.hdr.length + x.body.length) 248) = true) →
        Completes (.resendTimeout i seq) s (fun u =>
          { f with
            freeAt := telNow s + paceTime f.limit (x.hdr ++ x.body).length,
            un := f.un.map (fun y => if y.seq = seq then { y with resends := y.resends + 1 } else y) } ∈ u.sflows ∧
          (bit (rd s R.fabCtrl) 0 = false → rd u R.fabResends = (rd s R.fabResends + 1) % 2 ^ 48))) ∧
      (rdf s R.fabE2eCfg 16 4 ≤ x.resends → Completes (.resendTimeout i seq) s (fun u => { f with failed := true } ∈ u.sflows ∧
        (bit (rd s R.fabCtrl) 0 = false → rd u R.fabFlowFailed = (rd s R.fabFlowFailed + 1) % 2 ^ 48) ∧
        ∀ c e, c < 256 → colGet s f.spart c = some e → e.st ≠ 3 → f.vc = 28 ∨ e.vc = f.vc → (∃ g ∈ e.grp, geDev g = f.dev ∧ gePart g = f.dpart) →
          ∃ e', colGet u f.spart c = some e' ∧ e'.st = 3 ∧ e'.fail = 9)))

/-- R377, R378, R465: a live link sends its identity on VC 31; a port whose partner and topology hash agree is ACTIVE, a differing one is MISMATCH;
a new identity is kept with the old one and marked until it is cleared. Completes: DISC_SEND, DISC_RECEIVE, PORT_DISCOVERY, PEER_CHANGED_CLEAR. -/
def Obligations.NeighboursFound : Prop :=
  ∀ s : State, Calm s →
    (∀ n, n < 18 → (lkGet s n).st = 2 → stagingUse s (linkSlice n) < stagingFlits (linkSlice n) → Completes (.discSend n) s (fun u =>
      lkGet u n = { lkGet s n with txq := (lkGet s n).txq ++ [⟨s.nextPkt, 31,
        flitsOf 31 (mkHdr 2 0 65535 (ownDev s) 0 0 0 0 1 0 (List.replicate 14 0 ++ beBytes 2 19) ++
          (beBytes 2 (ownDev s) ++ beBytes 1 (lkPort s n) ++ beBytes 8 (rd s R.fabTopoHash) ++ beBytes 8 deviceId)), true, none, false, 65535,
        some (linkSlice n), false⟩] } ∧
      SameRegs s u [])) ∧
    (∀ (n vc : Nat) (q : RxPkt), n < 18 →
      (rxPool (lkGet s n) vc).find? (fun q => q.way = .local_ && q.whole && phType (pktHdr q.flits) = 2) = some q →
      let b := (bodyOf q.flits).drop 32
      let p := lkPort s n
      let away (u : State) : Prop := ∀ p ∈ rxPool (lkGet u n) vc, p.id ≠ q.id
      p < 18 →
      (hB b 11 8 = rd s (R.secPeerP p) →
        (hB b 3 8 ≠ rd s R.fabTopoHash → Completes (.discReceive n vc) s (fun u => adjState u p = 2 ∧ (portGet u p).disc = false ∧ away u)) ∧
        (hB b 3 8 = rd s R.fabTopoHash → portWidth s p ≠ 0 → (portGet s p).match_ = true → (portGet s p).lock = false →
          Completes (.discReceive n vc) s (fun u => adjState u p = 1 ∧ (portGet u p).disc = true ∧ away u))) ∧
      (hB b 11 8 ≠ rd s (R.secPeerP p) → rd s (R.secPeerP p) ≠ 0 → Completes (.discReceive n vc) s (fun u => bit (rd u (R.fabAdjP p)) 24 = true ∧
        rd u (R.secPeerPrevP p) = rd s (R.secPeerP p) ∧ rd u (R.secPeerP p) = hB b 11 8))) ∧
    (∀ (p n : Nat) (r : List Nat), p < 18 → portLive s p = n :: r →
      let v := rd s (R.lnkPartner n)
      (expected s p = some (bits v 0 16, bits v 21 5) → (portGet s p).disc = true → (portGet s p).lock = false →
        Completes (.portDiscovery p) s (fun u => adjState u p = 1 ∧ (portGet u p).match_ = true)) ∧
      (expected s p ≠ some (bits v 0 16, bits v 21 5) → Completes (.portDiscovery p) s (fun u => adjState u p = 2 ∧ (portGet u p).match_ = false))) ∧
    (∀ p, p < 18 → (portGet s p).lock = false → Completes (.peerChangedClear p) s (fun u => bit (rd u (R.fabAdjP p)) 24 = false ∧
      SameRegs s u [R.fabAdjP p])) ∧
    (∀ p, p < 18 → portWidth s p ≠ 0 → (portGet s p).match_ = true → (portGet s p).disc = true → (portGet s p).lock = true →
      Completes (.peerChangedClear p) s (fun u => bit (rd u (R.fabAdjP p)) 24 = false ∧ (portGet u p).lock = false ∧ adjState u p = 1))

/-- R389, R392, R393, R395, R397, R404: a sound table of a formed partition is loaded and its entries armed; an unsound one, one without a key, with
too many flows or too much staging is not; UNLOAD frees it once no instance runs. A flush sets ACT_LEN for the entry's EPOCH alone, and the bytes at
or beyond it no longer count. A full bucket goes into flight while fewer than 2 are. A whole and acknowledged instance completes and a failed one is
reset: EPOCH advances and the entry is armed again; bytes beyond full, written for the next instance, fail that one. Completes: COL_LOAD, COL_UNLOAD,
COL_RESET, COL_CTL_FLUSH, BUCKET_START, COL_INSTANCE_COMPLETE. -/
def Obligations.CollectiveTables : Prop :=
  ∀ (s : State) (p : Nat), p < 16 → Calm s →
    (prtFormed s p = true → rdf s (R.colPartCtrlP p) 2 2 ∉ [1, 2] →
      let t := tableLoad (quiet s) p (rdf s (R.colPartTableP p) 0 48) 0 (rdf s (R.colPartTableP p) 48 9)
      let w := t.2
      (∀ l, t.1 = .ok l →
        (l.length ≤ 256 → fabKey w p (txSlot s p) ≠ 0 → bit (partGet w p).used (txSlot s p) = false →
          w.sflows.length + (flowKeys l).length ≤ 8192 → w.rflows.length + (flowKeys l).length ≤ 8192 → stageFits w p (stageLines l) = true →
          Calm ([0, 1, 2, 3].foldl (fun t sl => stagePin t sl p (stageLines l)) (flowsMake w p (flowKeys l))) →
          Completes (.colLoad p) s (fun u => rdf u (R.colPartCtrlP p) 2 2 = 2 ∧ bit (partGet u p).used (txSlot s p) = true ∧
            ∀ c, c < l.length → colGet u p c = lget l c)) ∧
        (fabKey w p (txSlot s p) = 0 ∨ bit (partGet w p).used (txSlot s p) = true ∨ 8192 < w.sflows.length + (flowKeys l).length ∨
          stageFits w p (stageLines l) = false → Calm w →
          Completes (.colLoad p) s (fun u => rdf u (R.colPartCtrlP p) 2 2 = 3 ∧ u.cols = w.cols ∧ u.sflows = w.sflows))) ∧
      (∀ k i, t.1 = .error (k, i) → Calm w →
        Completes (.colLoad p) s (fun u => rdf u (R.colPartCtrlP p) 2 2 = 3 ∧ u.cols = w.cols))) ∧
    (rdf s (R.colPartCtrlP p) 2 2 = 2 →
      ((∀ x ∈ s.cols, x.1 / 256 = p → x.2.st ≠ 2) → Completes (.colUnload p) s (fun u =>
        rdf u (R.colPartCtrlP p) 2 2 = 0 ∧ (∀ c, c < 256 → colGet u p c = none) ∧ (∀ f ∈ u.sflows, f.spart ≠ p) ∧ (∀ f ∈ u.rflows, f.dpart ≠ p) ∧
        ∀ k c, k ≠ p → c < 256 → colGet u k c = colGet s k c)) ∧
      ((∃ x ∈ s.cols, x.1 / 256 = p ∧ x.2.st = 2) → Completes (.colUnload p) s (fun u => u.colUnl = [p] ∧ u.cols = s.cols ∧ SameRegs s u []))) ∧
    (∀ c e, colGet s p c = some e →
      (e.st = 3 → Completes (.colReset p c) s (fun u => colGet u p c = some { e.rearm (actStart e.raw) with cnt := [], writ := [] } ∧ SameRegs s u [])) ∧
      (∀ a, ceCtlEn e.raw = true → e.st ≠ 3 → e.act = none → a ≤ ceLen e.raw → a % 256 = 0 →
        (ceOp e.raw ∉ [2, 6] → overfull (flushEnt e a) = false → ceTree e.raw = false ∨ treeHeld (flushEnt e a) = false →
          Completes (.colCtlFlush p c e.epoch a) s (fun u => colGet u p c = some (flushEnt e a) ∧ SameRegs s u [])) ∧
        (ceOp e.raw ≠ 6 → Calm (colCtlFlush (quiet s) p c e.epoch a) → Completes (.colCtlFlush p c e.epoch a) s (fun u =>
          ∃ e', colGet u p c = some e' ∧ e'.act = some a ∧ e'.epoch = e.epoch ∧ (e'.st = 2 ∨ e'.st = 3))) ∧
        (∀ w bs, ceOp e.raw = 6 → colRead (quiet s) p c (ceAux e.raw + 64) 512 = (some bs, w) →
          Calm (colCtlFlush (quiet s) p c e.epoch a) → Completes (.colCtlFlush p c e.epoch a) s (fun u =>
            ∃ e', colGet u p c = some e' ∧ e'.act = some a ∧ e'.epoch = e.epoch ∧ (e'.st = 2 ∨ e'.st = 3) ∧
              e'.mask = (List.range e.n).filter (fun k => bit (leVal ((bs.drop (k / 8)).take 1)) (k % 8))))) ∧
      (∀ ep a, ceCtlEn e.raw = true → ep ≠ e.epoch → Completes (.colCtlFlush p c ep a) s (fun u =>
        u.cols = s.cols ∧ SameRegs s u [R.colErrLog, R.colErrCount])) ∧
      (∀ b, e.st = 1 ∨ e.st = 2 → ceOp e.raw ≠ 4 → (ceTree e.raw = true → e.self = ceRoot e.raw) → (ceOp e.raw = 6 → e.act ≠ none) →
        0 < bucketLen e b → bucketLen e b ≤ tgetD e.cnt b 0 → b ∉ e.flight → b ∉ e.ran → e.flight.length < 2 →
        Completes (.bucketStart p c b) s (fun u => colGet u p c = some { e.run with flight := e.flight ++ [b] } ∧ SameRegs s u [])) ∧
      (∀ b, 2 ≤ e.flight.length ∨ tgetD e.cnt b 0 < bucketLen e b → Completes (.bucketStart p c b) s (fun u => u.cols = s.cols ∧ SameRegs s u [])) ∧
      (e.st = 2 → colWhole e = true → colAcked s p c e.epoch = true →
        let counted (u : State) : Prop := bit (rd s R.colCtrl) 0 = false → rd u R.colInstances = (rd s R.colInstances + 1) % 2 ^ 48
        (overfull (e.rearm (actStart e.raw)) = false → Completes (.colInstanceComplete p c) s (fun u =>
          colGet u p c = some (e.rearm (actStart e.raw)) ∧ counted u ∧
          (ceSemEn e.raw = true → semGet s p (ceSem e.raw) < 65535 → semGet u p (ceSem e.raw) = semGet s p (ceSem e.raw) + 1))) ∧
        (overfull (e.rearm (actStart e.raw)) = true → Completes (.colInstanceComplete p c) s (fun u =>
          (∃ e', colGet u p c = some e' ∧ e'.st = 3 ∧ e'.fail = 10 ∧ e'.epoch = (e.epoch + 1) % 4294967296) ∧ counted u))))

/-- R396, R400: a reduction's bucket leaves for its owners, a shard to each other rank; ALL_GATHER's and a tree's bucket goes out and into RECV, but
to no pruned child; ALL_TO_ALL's slots leave at the flush. Each runs once. Completes: ALL_GATHER, ALL_TO_ALL, REDUCE_SCATTER, ALL_REDUCE, BROADCAST,
MULTICAST. -/
def Obligations.CollectiveOperations : Prop :=
  (∀ (s w : State) (p c b : Nat) (e : ColEnt) (bs : List Byte), p < 16 → Calm s → colGet s p c = some e →
    colRead (quiet s) p c (ceSend e.raw + b * ceBucket e.raw) (bucketLen e b) = (some bs, w) → w.cols = s.cols →
    bs.length = bucketLen e b → 0 < bucketLen e b → e.grp.length = e.n →
    let sent (j off : Nat) (d : List Byte) : DigPart := ⟨geDev (e.grp.getD j 0), gePart (e.grp.getD j 0), 0, b, off, d.take 8192⟩
    let lo := shardLo (bucketLen e b) e.n
    let len := shardLen (bucketLen e b) e.n
    (∀ i ∈ [(Instr.reduceScatter p c b, 1), (Instr.allReduce p c b, 3)], opReady e i.2 b = true → Calm (reduceOp (quiet s) p c i.2 b) →
      Completes i.1 s (fun u => ∃ e', colGet u p c = some e' ∧ e'.ran = e.ran ++ [b] ∧
        (e'.st = 2 → (b ∈ e'.ended ∨ e'.flight = e.flight) ∧
          ∀ j, j < e.n → j ≠ e.self → 0 < len j → sent j (lo j) ((bs.drop (lo j)).take (len j)) ∈ e'.dig))) ∧
    (opReady e 2 b = true → Calm (allGather (quiet s) p c b) → Completes (.allGather p c b) s (fun u => ∃ e', colGet u p c = some e' ∧
      b ∈ e'.ran ∧ b ∈ e'.ended ∧ b ∉ e'.flight ∧
      (e'.st = 2 → tgetD e'.got b 0 = tgetD e.got b 0 + bucketLen e b ∧ ∀ j, j < e.n → j ≠ e.self → sent j 0 bs ∈ e'.dig))) ∧
    (∀ i ∈ [(Instr.broadcast p c b, 5), (Instr.multicast p c b, 6)], opReady e i.2 b = true → Calm (treeOp (quiet s) p c i.2 b) →
      Completes i.1 s (fun u => ∃ e', colGet u p c = some e' ∧ b ∈ e'.ran ∧ b ∉ e'.flight ∧ (e'.st = 2 → b ∈ e'.wrote ∧
        ∀ k ∈ treeKids e, k ∈ e'.pruned ∨ sent k 0 bs ∈ e'.dig)))) ∧
  (∀ (s : State) (p c a : Nat) (e : ColEnt), p < 16 → Calm s → colGet s p c = some e → e.act = some a → ceOp e.raw = 4 → e.st = 2 → 0 ∉ e.ran →
    Calm (allToAll (quiet s) p c) → Completes (.allToAll p c) s (fun u =>
      ∃ e', colGet u p c = some e' ∧ e'.ran = [0] ∧ (e'.st = 2 → e.self ∈ e'.wrote)))

/-- R396, R399, R400, R401, R404, R506: what each accepted message leaves in its instance; what a deadline, an unanswered FETCH and the collective
watchdog do. A copy that comes late is acknowledged, discarded and counted. Completes: CONTRIB, BLOCK, RESULT, BCAST, COUNTS, DONE, GAP, FETCH,
BACKUP_DEADLINE, FETCH_TIMEOUT, COLL_WATCHDOG. -/
def Obligations.CollectiveMessages : Prop :=
  (∀ (s : State) (i : Nat) (m : ColMsg) (e : ColEnt), Calm s → lget s.colIn i = some m → colGet s m.part m.coll = some e → e.epoch = m.epoch →
    e.st = 1 ∨ e.st = 2 →
    let P (u : State) (Q : ColEnt → Prop) : Prop := u.colIn = ldel s.colIn i ∧ ∃ e', colGet u m.part m.coll = some e' ∧ Q e'
    let piece (e' : ColEnt) (b off : Nat) : Prop := ∃ x ∈ e'.held, x.b = b ∧ x.rank = m.rank ∧ x.bk = m.bk ∧ (off, m.data) ∈ x.got
    let lost (u : State) : Prop := P u (fun e' => e'.st = 2 ∧ e'.held = e.held) ∧
      (bit (rd s R.colCtrl) 0 = false → rd u R.colBackupDiscard = (rd s R.colBackupDiscard + m.data.length) % 2 ^ 64)
    (m.kind = 1 →
      (lateCopy e m.b m.rank = true → Completes (.contrib i) s lost) ∧
      (ceRed e.raw = true → m.b ∉ e.ended → m.b ∉ e.ran → Completes (.contrib i) s (fun u => P u (fun e' => e'.st = 2 ∧
        piece e' m.b (m.off - shardLo (bucketLen e m.b) e.n e.self)))) ∧
      (ceOp e.raw = 2 → lateCopy e m.b m.rank = false → Calm (contribMsg (quiet s) i) → Completes (.contrib i) s (fun u => P u (fun e' =>
        e'.st = 2 → piece e' m.b m.off ∨ lateCopy e' m.b m.rank = true)))) ∧
    (m.kind = 3 → ceOp e.raw = 4 →
      let back : Prop := m.bk = true ∧ ∃ g, lget e.grp m.rank = some g ∧ geDev g = m.dev ∧ gePart g = m.spart
      (back ∨ lateCopy e 0 m.rank = true → Completes (.block i) s lost) ∧
      (¬ back → lateCopy e 0 m.rank = false → Calm (blockMsg (quiet s) i) → Completes (.block i) s (fun u => P u (fun e' =>
        e'.st = 2 → piece e' 0 (m.b * ceBucket e.raw + m.off) ∨ m.rank ∈ e'.wrote)))) ∧
    (m.kind = 2 → Calm (resultMsg (quiet s) i) → Completes (.result i) s (fun u => P u (fun e' =>
      e'.st = 2 → tgetD e'.got m.b 0 = tgetD e.got m.b 0 + m.data.length))) ∧
    (m.kind = 4 →
      (ceOp e.raw ≠ 6 ∨ e.act ≠ none → Calm (bcastMsg (quiet s) i) → Completes (.bcast i) s (fun u => P u (fun e' =>
        e'.st = 2 → tgetD e'.got m.b 0 = tgetD e.got m.b 0 + m.data.length ∧ (m.b, m.off, m.data.length) ∈ e'.pcs ∧ ∀ x ∈ e'.fetches, m.b < x.b))) ∧
      (ceOp e.raw = 6 → e.act = none → Completes (.bcast i) s (fun u => u.colIn = s.colIn ∧ u.cols = s.cols))) ∧
    (m.kind = 5 → Calm (countsMsg (quiet s) i) → Completes (.counts i) s (fun u => P u (fun e' =>
      e'.st = 2 → tget e'.counts m.rank = some (leVal (m.data.take 4))))) ∧
    (m.kind = 6 → Completes (.done i) s (fun u => P u (fun e' => e'.st = 2 ∧ e'.kids = e.kids ++ [m.rank]))) ∧
    (m.kind = 7 → Completes (.gap i) s (fun u => P u (fun e' => e'.st = 2 ∧ e'.fetches = e.fetches ++ [⟨m.b, m.off, ceRoot e.raw, false⟩]) ∧
      (bit (rd s R.colCtrl) 0 = false → rd u R.colFetches = (rd s R.colFetches + 1) % 2 ^ 48))) ∧
    (m.kind = 8 →
      (ceTree e.raw = true → Calm (fetchMsg (quiet s) i) → Completes (.fetch i) s (fun u => P u (fun e' => m.rank ∈ e'.uni))) ∧
      (ceTree e.raw = false → (ceOp e.raw = 4 → e.act = none) → (ceOp e.raw ≠ 4 → tgetD e.cnt m.b 0 < bucketLen e m.b) →
        Completes (.fetch i) s (fun u => u.colIn = s.colIn ∧ u.cols = s.cols)) ∧
      (ceTree e.raw = false → (ceOp e.raw = 4 → e.act ≠ none) → (ceOp e.raw ≠ 4 → bucketLen e m.b ≤ tgetD e.cnt m.b 0) →
        Calm (fetchMsg (quiet s) i) → Completes (.fetch i) s (fun u => P u (fun _ => True))))) ∧
  (∀ (s : State) (p c : Nat) (e : ColEnt), p < 16 → Calm s → colGet s p c = some e → e.st = 2 →
    (∀ b rank, ceDeadline e.raw ≠ 0 → ceTree e.raw = false → rank < e.n → rank ≠ e.self → lateCopy e b rank = false →
      contribWhole e b rank false = none → (b, rank) ∉ e.late →
      (backOf e rank = none → Completes (.backupDeadline p c b rank) s (fun u => u.cols = s.cols ∧ SameRegs s u [R.colLate] ∧
        (bit (rd s R.colCtrl) 0 = false → rd u R.colLate = (rd s R.colLate + 1) % 2 ^ 48))) ∧
      (∀ k, backOf e rank = some k → Calm (backupDeadline (quiet s) p c b rank) → Completes (.backupDeadline p c b rank) s (fun u =>
        (bit (rd s R.colCtrl) 0 = false → rd u R.colLate = (rd s R.colLate + 1) % 2 ^ 48) ∧
        ∃ e', colGet u p c = some e' ∧ (b, rank) ∈ e'.late))) ∧
    (∀ f r, ceTree e.raw = true → e.fetches = f :: r → f.bk = true ∨ backOf e (ceRoot e.raw) = none ∨ backOf e (ceRoot e.raw) = some e.self →
      Completes (.fetchTimeout p c) s (fun u => ∃ e', colGet u p c = some e' ∧ e'.st = 3 ∧ e'.fail = 9)) ∧
    (∀ f r k, ceTree e.raw = true → e.fetches = f :: r → f.bk = false → backOf e (ceRoot e.raw) = some k → k ≠ e.self →
      Completes (.fetchTimeout p c) s (fun u => ∃ e', colGet u p c = some e' ∧ e'.st = 2 ∧ e'.fetches = r ++ [⟨f.b, f.off, k, true⟩])) ∧
    Completes (.collWatchdog p c) s (fun u => (∃ e', colGet u p c = some e' ∧ e'.st = 3 ∧ e'.fail = 9) ∧
      rd u R.stkWdogColl = (rd s R.stkWdogColl + 1) % 2 ^ 48))

/-! The host port (chapter 14). -/

/-- R409–R413, R415: the port answers an ARP request and a Neighbor Solicitation for its own address, and drops and counts what it does not handle,
and a frame that the receive pool has no room for; XOFF is sent again while it is held; a received PFC frame pauses or resumes each priority it
names; the messages of a priority that resumes leave in order; a link that goes down is logged. Completes: ARP_REQUEST, NEIGHBOR_SOLICITATION,
ETH_FRAME_DROP, PFC_RECEIVE, HOST_LINK_DOWN, PFC_REFRESH, PFC_PAUSE_EXPIRY. -/
def Obligations.HostFrames : Prop :=
  ∀ s : State, Calm s →
    let on := bit (rd s R.hstCtrl) 0 = false
    let emitted : List Reg := [R.hstRxFrames, R.hstRxBytes, R.hstTxFrames, R.hstTxBytes]
    let other (u : State) : Prop := u.tx = [] ∧ (on → rd u R.hstRxDropOther = (rd s R.hstRxDropOther + 1) % 2 ^ 48) ∧
      SameRegs s u [R.hstRxFrames, R.hstRxBytes, R.hstRxDropOther]
    (s.hport.up = true → bit s.hport.paused 0 = false →
      (∀ t ip mac, bit (rd s R.hstIpCfg) 32 = true → t = rdf s R.hstIpCfg 0 32 → Completes (.arpRequest t ip mac) s (fun u =>
        u.tx = [frameOf s (.arpReply mac ip)] ∧ SameRegs s u emitted ∧ (on → rd u R.hstTxFrames = (rd s R.hstTxFrames + 1) % 2 ^ 48))) ∧
      (∀ t ip mac, bit (rd s R.hstIpCfg) 33 = true → t = 2 ^ 64 * rd s R.hstIp6Hi + rd s R.hstIp6Lo →
        Completes (.neighborSolicitation t ip mac) s (fun u => u.tx = [frameOf s (.neighborAdv mac ip)] ∧ SameRegs s u emitted))) ∧
    (s.hport.up = true →
      (∀ t ip mac, bit (rd s R.hstIpCfg) 32 = false ∨ t ≠ rdf s R.hstIpCfg 0 32 → Completes (.arpRequest t ip mac) s other) ∧
      (∀ t ip mac, bit (rd s R.hstIpCfg) 33 = false ∨ t ≠ 2 ^ 64 * rd s R.hstIp6Hi + rd s R.hstIp6Lo →
        Completes (.neighborSolicitation t ip mac) s other) ∧
      (∀ why, why = .badFrame ∨ why = .notHandled → Completes (.ethFrameDrop why) s other) ∧
      Completes (.ethFrameDrop .icrc) s (fun u => u.tx = [] ∧ (on → rd u R.hstIcrcErr = (rd s R.hstIcrcErr + 1) % 2 ^ 48)) ∧
      (∀ p, p < 8 → rxAdmit s p 9216 = false → Completes (.ethFrameDrop (.poolFull p)) s (fun u => u.tx = [] ∧ u.hport = s.hport ∧
        (on → rd u R.hstRxDropFull = (rd s R.hstRxDropFull + 1) % 2 ^ 48))) ∧
      (∀ p, p < 8 → rxAdmit s p 9216 = true → Leads (.ethFrameDrop (.poolFull p)) s (quiet s)) ∧
      (∀ (named : BitVec 8) quanta, pfcOn s = true → Completes (.pfcReceive named quanta) s (fun u =>
        ∀ i, i < 8 → bit u.hport.paused i = if bit named.toNat i then decide (quanta ≠ 0) else bit s.hport.paused i)) ∧
      Completes (.hostLinkDown false) s (fun u => u.hport = { s.hport with up := false } ∧ SameRegs s u [R.hstErrLog, R.hstErrCount])) ∧
    (∀ p, p < 8 → bit s.hport.xoff p = true → pfcOn s = true → Completes (.pfcRefresh p) s (fun u => u.tx = [frameOf s (.pfc p 65535)] ∧
      u.hport = s.hport)) ∧
    (∀ p, p < 8 → bit s.hport.paused p = true → Completes (.pfcPauseExpiry p) s (fun u => bit u.hport.paused p = false ∧
      u.tx = (s.hport.wait.filter (fun e => e.1 = p)).map (fun e => frameOf s e.2) ∧ u.hport.wait = s.hport.wait.filter (fun e => e.1 ≠ p))) ∧
    Completes (.hostLinkDown true) s (fun u => u.hport.up = bit (rd s R.hstCtrl) 2 ∧ SameRegs s u [])

/-- R412, R413, R416, R417, R419, R420, R422–R424, R428, R474: a SEND joins the command queue and is acknowledged, is answered BAD_CMD or with a
REJECT record when it spells no command, is met with an RNR NAK when 64 wait, and NAKed when it is too short or too long. An RDMA WRITE in range is
stored and acknowledged, a READ returns the partition's bytes; a wrong R_Key or a range out of bounds is NAKed and nothing is stored. A WRITE into a
collective bucket not yet released waits in the receive pool, which sends XOFF when it reaches its threshold; what the pool has no room for is
dropped and counted. ECHO returns the host's time with the device's. Completes: SEND, RDMA_WRITE, RDMA_READ, ECHO. -/
def Obligations.HostRequests : Prop :=
  ∀ (s : State) (q : Nat), Calm s → q ≤ 1024 → qpState s q = 1 → (q < 1024 → prtFormed s (qpPart q) = true) →
    let x := qpGet s q
    let p := qpPart q
    let prio := qpPrio s q
    let admits (ext n : Nat) : Prop := rxAdmit s prio (roceLen (qpIp s q) ext (min 4096 n)) = true
    let ack (t u : State) (syn : Nat) : Prop := ∃ psn msn, u.tx = t.tx ++ [frameOf t (.ack q psn syn msn)]
    let noBad (l : List Cmd) : Prop := ∀ op ctag t r, l ≠ .bad op ctag t :: r
    (Hears s q →
      (∀ d : List Byte, admits 0 d.length →
        (16 ≤ d.length → d.length ≤ 1024 → x.cmds.length < 64 →
          (∀ i, cmdParse q d = some i → noBad x.cmds → Completes (.send q d false) s (fun u =>
            qpGet u q = { x with cmds := x.cmds ++ [.good i (telNow s)], rqPsn := (x.rqPsn + 1) % 2 ^ 24, msn := (x.msn + 1) % 2 ^ 24 } ∧
            u.tx = [frameOf s (.ack q (x.rqPsn % 2 ^ 24) 31 ((x.msn + 1) % 2 ^ 24))])) ∧
          (cmdParse q d = none → x.cmds = [] →
            let op := leVal (d.take 1)
            (Sends s q → q = 1024 ∨ graphOp op = false → Completes (.send q d false) s (fun u =>
              let m := answerMsg s q op 2 (leVal ((d.drop 4).take 4)) 0 0
              (qpGet u q).sq = x.sq ++ [m] ∧ (qpGet u q).cmds = [] ∧
              u.tx = [frameOf s (.request q m), frameOf s (.ack q (x.rqPsn % 2 ^ 24) 31 ((x.msn + 1) % 2 ^ 24))])) ∧
            (q < 1024 → graphOp op = true → recRoom s q = true → Completes (.send q d false) s (fun u =>
              (qpGet u q).recs = x.recs ++ [⟨3, 0, 0, 1, 0, 0, 0, 0, 0, 0, 0, none, some (telNow s)⟩] ∧ (qpGet u q).cmds = [] ∧
              u.tx = [frameOf s (.ack q (x.rqPsn % 2 ^ 24) 31 ((x.msn + 1) % 2 ^ 24))])))) ∧
        (16 ≤ d.length → d.length ≤ 1024 → 64 ≤ x.cmds.length → Completes (.send q d false) s (fun u => qpGet u q = x ∧
          ∃ f, f < 32 ∧ u.tx = [frameOf s (.ack q x.rqPsn (32 + f) x.msn)])) ∧
        (d.length < 16 ∨ 1024 < d.length → Completes (.send q d false) s (fun u => qpGet u q = x ∧
          u.tx = [frameOf s (.ack q x.rqPsn nakInvalid x.msn)]))) ∧
      (∀ key va (d : List Byte) imm, q < 1024 → admits (if imm then 20 else 16) d.length →
        let w0 := rxCount (quiet s) q (if imm then 20 else 16) d.length
        (colHold s p va d.length = false →
          (key ≠ rkeyOf s q → Completes (.rdmaWrite q key va d imm false) s (fun u => u.tx = [frameOf s (.ack q x.rqPsn nakAccess x.msn)] ∧
            qpGet u q = x ∧ u.slices = s.slices ∧ u.hbm = s.hbm ∧ u.cols = s.cols)) ∧
          (∀ w1, key = rkeyOf s q → ringTouched s p va d.length = none → rangeBad w0 p va d.length true = (true, w1) → Calm w1 →
            w1.hport = s.hport → qpPrio w1 q = prio → Completes (.rdmaWrite q key va d imm false) s (fun u => ack w1 u nakAccess ∧ u.slices = w1.slices ∧
              u.hbm = w1.hbm ∧ u.cols = w1.cols)) ∧
          (∀ w1 w2, key = rkeyOf s q → ringTouched s p va d.length = none → rangeBad w0 p va d.length true = (false, w1) →
            putCow w1 p va d = (none, w2) → let w := colCount w2 p va d.length
            Calm w → w.hport = s.hport → qpPrio w q = prio → Completes (.rdmaWrite q key va d imm false) s (fun u =>
              (qpGet u q).rqPsn = ((qpGet w q).rqPsn + pktCount d.length) % 2 ^ 24 ∧ ack w u 31 ∧
              u.slices = w.slices ∧ u.hbm = w.hbm ∧ u.cols = w.cols))) ∧
        (colHold s p va d.length = true →
          let z := burstLen (qpIp s q) (if imm then 20 else 16) d.length
          rxAdmit s prio z.2 = true → Completes (.rdmaWrite q key va d imm false) s (fun u =>
            u.hport.pool = s.hport.pool ++ [⟨q, prio, z.2, .rdmaWrite q key va d imm false⟩] ∧ qpGet u q = x ∧ u.hbm = s.hbm ∧
            (pfcOn s = true → lossless s prio = true → bit s.hport.xoff prio = false → xoffAt s prio ≤ rxOcc s prio + z.2 →
              bit u.hport.xoff prio = true ∧ u.tx = [frameOf s (.pfc prio 65535)])))) ∧
      (∀ va n, q < 1024 → 0 < n → n ≤ 1048576 → va + n ≤ 2 ^ 48 → admits 16 0 →
        (∀ bs ue w, vaGet (rxCount (quiet s) q 16 0) p va n false = (some bs, ue, w) → Calm w → w.hport = s.hport → qpPrio w q = prio →
          Completes (.rdmaRead q (rkeyOf s q) va n) s (fun u =>
            u.tx = w.tx ++ [frameOf w (.readData q (qpGet w q).rqPsn bs)] ∧ (qpGet u q).rqPsn = ((qpGet w q).rqPsn + pktCount n) % 2 ^ 24 ∧
            u.slices = w.slices ∧ u.hbm = w.hbm)) ∧
        (∀ ue w, vaGet (rxCount (quiet s) q 16 0) p va n false = (none, ue, w) → Calm w → w.hport = s.hport → qpPrio w q = prio →
          Completes (.rdmaRead q (rkeyOf s q) va n) s (fun u => ack w u (if ue then nakOperational else nakAccess)))) ∧
      (∀ d : List Byte, rxAdmit s prio (roceLen (qpIp s q) 0 (min 4096 d.length)) = false → Completes (.send q d false) s (fun u => qpGet u q = x ∧
        u.tx = [] ∧ (bit (rd s R.hstCtrl) 0 = false →
          rd u R.hstRxDropFull = (rd s R.hstRxDropFull + (burstLen (qpIp s q) 0 d.length).1) % 2 ^ 48)))) ∧
    (∀ (ts : W64) ctag, Sends s q →
      (x.cmds = [] → Completes (.echo q ts ctag) s (fun u =>
        Sent s u q (answerMsg s q 3 0 ctag ts.toNat (telNow s % 2 ^ 64 + 2 ^ 64 * (telNow s % 2 ^ 64))) ∧ SameRegs s u answerRegs)) ∧
      (∀ t r, x.cmds = .good (.echo q ts ctag) t :: r → noBad r → r.any Cmd.isHeld = false → Completes (.echo q ts ctag) s (fun u =>
        (qpGet u q).cmds = r ∧ Sent s u q (answerMsg s q 3 0 ctag ts.toNat (t % 2 ^ 64 + 2 ^ 64 * (telNow s % 2 ^ 64))))))

/-- R310, R421, R426, R427, R432, R487: a pending record is written into its EMPTY slot under the next SEQ; a full ring holds it. An acknowledgement
frees what it covers; an RNR NAK is waited out; a NAK or a timeout sends again all that is unacknowledged, at once where no rate holds it, until the
retries end in ERROR, in which the queue pair sends nothing more. A CNP cuts the rate. RTS starts a queue pair with the PSNs set; RESET discards it.
Completes: COMPLETION_RECORD_WRITE, ROCE_ACK_RECEIVE, QP_ACK_TIMEOUT, RNR_RETRY_TIMEOUT, CNP_RECEIVE, QP_RTS, QP_RESET. -/
def Obligations.QueuePairs : Prop :=
  ∀ (s : State) (q : Nat), Calm s → q ≤ 1024 →
    let x := qpGet s q
    let runs : Prop := bit s.hport.paused (qpPrio s q) = false
    let all (u : State) : Prop := x.limit = 0 → u.tx = x.sq.map (fun m => frameOf s (.request q m)) ∧ (qpGet u q).pace = []
    let but (y u : QPair) : Prop := u = { y with pace := u.pace, freeAt := u.freeAt }
    let dead (u : State) (e : Nat) : Prop := qpState u q = 2 ∧ (qpGet u q).err = e ∧ ¬ hasWaiting u q
    (∀ (r : Rec) rest ue w1 w2, q < 1024 → qpState s q = 1 → x.recs = r :: rest →
      let va := cqVa s q + 32 * (x.nextSeq % cqSlots s q)
      vaGet (quiet s) (qpPart q) va 1 true = (some [0], ue, w1) →
      vaPut w1 (qpPart q) va (recBytes (quiet s) r x.nextSeq) = (.ok, w2) → Calm w2 → w2.qps = s.qps → qpState w2 q = 1 →
      bit w2.hport.paused (qpPrio w2 q) = false →
      Completes (.completionRecordWrite q) s (fun u => (∃ l, (qpGet u q).recs = rest ++ l) ∧ (qpGet u q).nextSeq = (x.nextSeq + 1) % 2 ^ 32 ∧
        u.slices = w2.slices ∧ u.hbm = w2.hbm ∧
        ((∀ op ctag t r, x.cmds ≠ .bad op ctag t :: r) → (qpGet u q).recs = rest ∧
          (qpGet u q).sq = if bit (rd s (R.hstQpCtrlQ q)) 24 then x.sq ++ [⟨x.sqPsn, 1, 2, [], 0, 0, x.nextSeq, 0⟩] else x.sq))) ∧
    (∀ (r : Rec) rest ue w1 b, q < 1024 → qpState s q = 1 → x.recs = r :: rest →
      vaGet (quiet s) (qpPart q) (cqVa s q + 32 * (x.nextSeq % cqSlots s q)) 1 true = (some [b], ue, w1) → b ≠ 0 →
      Leads (.completionRecordWrite q) s (quiet s)) ∧
    (s.hport.up = true → qpState s q = 1 → (q < 1024 → prtFormed s (qpPart q) = true) → NoCe s q →
      (∀ m : TxMsg, x.sq = [m] → 0 < m.pkts → m.pkts < 2 ^ 23 → m.psn < 2 ^ 24 →
        (∀ syn, syn < 32 → Completes (.roceAckReceive q ((m.psn + m.pkts - 1) % 2 ^ 24) syn) s (fun u => (qpGet u q).sq = [] ∧ (qpGet u q).retry = 0 ∧
          (m.del ≠ 0 → ∀ d : DelRun, x.dels = [d] → d.id = m.del → d.left = 1 → (qpGet u q).dels = [] ∧ (qpGet u q).recs = x.recs ++ [d.record]))) ∧
        (∀ syn, 32 ≤ syn → syn < 64 → Completes (.roceAckReceive q m.psn syn) s (fun u => qpGet u q = { x with rnrWait := true })) ∧
        (x.retry < rdf s (R.hstQpCtrlQ q) 17 3 → runs → Completes (.roceAckReceive q m.psn 96) s (fun u =>
          but { x with retry := x.retry + 1 } (qpGet u q) ∧ (x.rnrWait = false → all u))) ∧
        (∀ syn, 96 < syn → syn < 128 → Completes (.roceAckReceive q m.psn syn) s (fun u => dead u 3))) ∧
      (bit (rd s R.telDmpLim) 40 = true → cutRecent s x.cutAt = false → Completes (.cnpReceive q) s (fun u =>
        qpGet u q = { x with limit := rateCut s x.limit 100000 (dmpCfg s 12 8), cutAt := some (telNow s) })) ∧
      (bit (rd s R.telDmpLim) 40 = false ∨ cutRecent s x.cutAt = true → Completes (.cnpReceive q) s (fun u => qpGet u q = x ∧
        (bit (rd s R.hstCtrl) 0 = false → rd u R.hstCnpRecv = (rd s R.hstCnpRecv + 1) % 2 ^ 48)))) ∧
    (qpState s q = 1 → x.sq ≠ [] →
      (x.retry < rdf s (R.hstQpCtrlQ q) 17 3 → runs → Completes (.qpAckTimeout q) s (fun u =>
        but { x with retry := x.retry + 1 } (qpGet u q) ∧ (x.rnrWait = false → all u))) ∧
      (rdf s (R.hstQpCtrlQ q) 17 3 ≤ x.retry → Completes (.qpAckTimeout q) s (fun u => dead u 1 ∧ qpGet u q = { x with err := 1 } ∧
        SameRegs s u [R.hstQpCtrlQ q, R.hstErrLog, R.hstErrCount]))) ∧
    (qpState s q = 1 → x.rnrWait = true →
      (x.rnr < rdf s (R.hstQpCtrlQ q) 20 3 ∨ rdf s (R.hstQpCtrlQ q) 20 3 = 7 → runs → Completes (.rnrRetryTimeout q) s (fun u =>
        but { x with rnrWait := false, rnr := x.rnr + 1 } (qpGet u q) ∧ all u)) ∧
      (rdf s (R.hstQpCtrlQ q) 20 3 < 7 → rdf s (R.hstQpCtrlQ q) 20 3 ≤ x.rnr → Completes (.rnrRetryTimeout q) s (fun u => dead u 2))) ∧
    (q < 1024 → qpState s q = 0 → prtFormed s (qpPart q) = true → Calm (qpRts (quiet s) q) → Completes (.qpRts q) s (fun u => qpState u q = 1 ∧
      qpGet u q = { QPair.reset with sqPsn := rdf s (R.hstQpPsnQ q) 0 24, rqPsn := rdf s (R.hstQpPsnQ q) 32 24, nextSeq := 1 })) ∧
    (q < 1024 → Completes (.qpReset q) s (fun u => qpState u q = 0 ∧ qpGet u q = QPair.reset ∧ SameRegs s u [R.hstQpCtrlQ q] ∧ ¬ hasWaiting u q))

/-! Partitions, keys and reports (chapter 15). -/

/-- R438, R439, R441–R444, R447, R449: FORM of free units takes the lowest run of free blocks, a new key, and the default quotas, and its hearths
join; it is refused with the code of the first cause. GROW adds free units; SHRINK marks the hearths of units leaving, and each leaves and is
scrubbed at its task boundary; DISSOLVE erases the keys and empties the partition. While one is in progress no other is performed, and one for a
partition that is FORMING or DISSOLVING shows BUSY. Quotas and rates are written whole, or not at all. Completes: FORM, GROW, SHRINK, DISSOLVE,
PRT_CMD_DONE, PRT_QUOTA_WRITE, PRT_RATE_WRITE, HEARTH_LEAVE. -/
def Obligations.PartitionsHeld : Prop :=
  ∀ (s : State) (p : Nat), p < 16 → Calm s →
    let x := partGet s p
    let res (u : State) := rdf u R.prtCmdStatus 8 4
    let free (m : BitVec 16) : Prop := ∀ i, i < 16 → bit m.toNat i = true → bit (unitsFree s) i = true
    (prtBusy s = false → ∀ (m : BitVec 16) zf,
      (x.st = 0 → m ≠ 0 → free m →
        (∀ b, blockRun s (popcount m.toNat) = some b → Calm (formOp (quiet s) p m.toNat zf) → Completes (.form p m zf) s (fun u =>
          (partGet u p).st = 1 ∧ (partGet u p).units = m.toNat ∧ (partGet u p).lo = b ∧ (partGet u p).blks = popcount m.toNat ∧
          (partGet u p).key0 = 2 * s.nextKey ∧ u.nextKey = s.nextKey + 1 ∧ (partGet u p).count = x.count + 1 ∧ prtBusy u = true ∧
          (∀ h ∈ unitHearths m.toNat, (hget s h).oos = false → (hget u h).part = some p) ∧
          quotaLines u p = min (61440 * popcount m.toNat) (983040 - otherLines s p))) ∧
        (blockRun s (popcount m.toNat) = none → Completes (.form p m zf) s (fun u => res u = 3 ∧ prtBusy u = false ∧
          u.hearths = s.hearths ∧ u.nextKey = s.nextKey))) ∧
      (x.st ≠ 0 → Completes (.form p m zf) s (fun u => res u = stateRefusal x ∧ u.hearths = s.hearths ∧ u.nextKey = s.nextKey)) ∧
      (x.st = 0 → m = 0 → Completes (.form p m zf) s (fun u => res u = 4 ∧ u.hearths = s.hearths ∧ u.nextKey = s.nextKey)) ∧
      (x.st = 0 → m ≠ 0 → ¬ free m → Completes (.form p m zf) s (fun u => res u = 2 ∧ u.hearths = s.hearths ∧ u.nextKey = s.nextKey)) ∧
      (x.st = 2 → m ≠ 0 → free m → Completes (.grow p m) s (fun u => (partGet u p).units = x.units + m.toNat ∧ res u = 0 ∧ prtBusy u = false ∧
        (∀ h ∈ unitHearths m.toNat, (hget s h).oos = false → (hget u h).part = some p) ∧ xQuota u p = xQuota s p % 2 ^ 24 ∧
        quotaLines u p = min (quotaLines s p + 61440 * popcount m.toNat) (983040 - otherLines s p))) ∧
      (x.st = 2 → m ≠ 0 → maskMinus m.toNat x.units = 0 → maskMinus x.units m.toNat ≠ 0 →
        (∀ i, i < 16 → bit m.toNat i = true → ∃ h ∈ unitHearths (2 ^ i), (hget s h).part = some p) → Completes (.shrink p m) s (fun u =>
          (partGet u p).leaving = m.toNat ∧ (partGet u p).units = x.units ∧ res u = 0 ∧
          quotaLines u p = quotaLines s p - 61440 * popcount m.toNat ∧
          ∀ h ∈ unitHearths m.toNat, (hget s h).part = some p → (hget u h).leaving = true ∧ (hget u h).next = none)) ∧
      (x.st = 2 → maskMinus x.units m.toNat = 0 → m ≠ 0 → maskMinus m.toNat x.units = 0 → Completes (.shrink p m) s (fun u => res u = 5 ∧
        u.hearths = s.hearths)) ∧
      (x.st = 2 → Calm (dissolveOp (quiet s) p) → Completes (.dissolve p) s (fun u => (partGet u p).st = 3 ∧ prtBusy u = true ∧
        (partGet u p).key0 = 0 ∧ (partGet u p).key1 = 0 ∧ (partGet u p).fab0 = 0 ∧ (partGet u p).fab1 = 0 ∧ gget u p = .empty ∧
        ∀ h, (hget u h).part ≠ some p))) ∧
    (prtBusy s = true → ∀ (m : BitVec 16) zf, ∀ i ∈ [Instr.form p m zf, .grow p m, .shrink p m, .dissolve p], Completes i s (fun u =>
      prtBusy u = true ∧ u.hearths = s.hearths ∧ u.nextKey = s.nextKey ∧ { partGet u p with over_ := false } = { x with over_ := false } ∧
      res u = if x.st = 1 ∨ x.st = 3 then 6 else res s)) ∧
    (prtBusy s = true → rdf s R.prtCmdStatus 4 4 = p →
      (rdf s R.prtCmdStatus 1 3 = 1 → Completes .prtCmdDone s (fun u => (partGet u p).st = 2 ∧ prtBusy u = false ∧ res u = 0)) ∧
      (rdf s R.prtCmdStatus 1 3 = 4 → Completes .prtCmdDone s (fun u => (partGet u p).st = 0 ∧ (partGet u p).units = 0 ∧ (partGet u p).blks = 0 ∧
        quotaLines u p = 0 ∧ prtBusy u = false))) ∧
    (prtFormed s p = true → ∀ v : W64,
      (bits v.toNat 0 24 ≤ hbmLimit s p → bits v.toNat 32 20 + otherLines s p ≤ 983040 → Completes (.prtQuotaWrite p v) s (fun u =>
        xQuota u p = bits v.toNat 0 24 ∧ (∀ sl, sl < 4 → chmQuota u sl p = bits v.toNat 32 20) ∧ partRate u p = partRate s p)) ∧
      (hbmLimit s p < bits v.toNat 0 24 ∨ 983040 < bits v.toNat 32 20 + otherLines s p → Leads (.prtQuotaWrite p v) s (quiet s)) ∧
      (bits v.toNat 0 9 ≤ 256 → Completes (.prtRateWrite p v) s (fun u => (∀ sl, sl < 4 → rdf u (R.chmPartRateP sl p) 0 9 = bits v.toNat 0 9) ∧
        quotaLines u p = quotaLines s p)) ∧
      (256 < bits v.toNat 0 9 → Leads (.prtRateWrite p v) s (quiet s))) ∧
    (∀ (t : State) (h : Nat), Calm (partMod t p (fun x => { x with leaving := 0 })) → h < 256 → (hget t h).leaving = true → (hget t h).cur = none →
      (hget t h).drain = none → (hget t h).part = some p → Completes (.hearthLeave h) t (fun u => (hget u h).part = none ∧
        (hget u h).leaving = false ∧ (hget u h).spd.scrub = true ∧ ∀ k, k ≠ h → hget u k = hget t k))

/-- R452, R455, R457, R461–R464: a rotation puts a new key into the slot that is not current, makes it current and starts the sweep, and is refused
while that slot is in use; a blob's key enters the slot it names under its KEY_SEQ, and a blob that fails a check enters none; a partition that is
not formed has no keys; a sweep that has left no frame under the old slot erases it. A key command's result and a signed report appear when they are
done; a report asked for meanwhile shows BUSY. That equal key material makes equal keys, and the numbers by which keys are told apart, are the
model's (log 19). Completes: ROTATE_GEN, ROTATE_IMPORT, LOAD_FAB, CLEAR_FAB, SEC_KEY_CMD_DONE,
KEY_SWEEP_DONE, PLATFORM_REPORT, TENANT_REPORT, SEC_REPORT_DONE. -/
def Obligations.KeysAndReports : Prop :=
  ∀ (s : State) (p : Nat), p < 16 → Calm s →
    let x := partGet s p
    (s.keyRun = none → prtFormed s p = true →
      (slotBusy s p = false → Completes (.rotateGen p) s (fun u => u.keyRun = some (2, p, 0) ∧ xCur u p = 1 - xCur s p ∧
        memKey (partGet u p) (1 - xCur s p) = 2 * s.nextKey ∧ u.nextKey = s.nextKey + 1 ∧ memKey (partGet u p) (xCur s p) = memKey x (xCur s p))) ∧
      (slotBusy s p = true → Completes (.rotateGen p) s (fun u => u.keyRun = some (2, p, 1) ∧ u.nextKey = s.nextKey ∧
        (bit (rd s R.secCtrl) 0 = false → rd u R.secKeyRefused = (rd s R.secKeyRefused + 1) % 2 ^ 48) ∧ xCur u p = xCur s p)) ∧
      (slotBusy s p = true → ∀ va, Completes (.rotateImport p va) s (fun u => u.keyRun = some (1, p, 1) ∧ xCur u p = xCur s p)) ∧
      (∀ va n slot key w, slotBusy s p = false → blobRead (quiet s) p va 0 x.seqMem = (.ok (n, slot, key), w) → Calm w →
        Completes (.rotateImport p va) s (fun u => u.keyRun = some (1, p, 0) ∧ xCur u p = 1 - xCur w p ∧
          memKey (partGet u p) (1 - xCur w p) = key ∧ u.nextKey = w.nextKey ∧ (partGet u p).seqMem = n)) ∧
      (∀ va c w, slotBusy s p = false → blobRead (quiet s) p va 0 x.seqMem = (.error c, w) → Calm w → c ≠ 0 →
        Completes (.rotateImport p va) s (fun u => u.keyRun = some (1, p, c) ∧ u.nextKey = w.nextKey ∧ xCur u p = xCur w p)) ∧
      (∀ va n slot key w, blobRead (quiet s) p va 1 x.seqFab = (.ok (n, slot, key), w) → slot < 2 → Calm w → Completes (.loadFab p va) s (fun u =>
        u.keyRun = some (3, p, 0) ∧ fabKey u p slot = key ∧ bit (partGet u p).used slot = false ∧ (partGet u p).seqFab = n)) ∧
      (∀ va c w, blobRead (quiet s) p va 1 x.seqFab = (.error c, w) → Calm w → c ≠ 0 → Completes (.loadFab p va) s (fun u =>
        u.keyRun = some (3, p, c) ∧ ∀ slot, fabKey u p slot = fabKey w p slot)) ∧
      (∀ slot, slot < 2 → slot ≠ txSlot s p ∨ rdf s (R.colPartCtrlP p) 2 2 ≠ 2 → Completes (.clearFab p slot) s (fun u =>
        u.keyRun = some (4, p, 0) ∧ fabKey u p slot = 0 ∧ rd u (R.secKcvPK p (2 + slot)) = 0 ∧ fabKey u p (1 - slot) = fabKey s p (1 - slot))) ∧
      (rdf s (R.colPartCtrlP p) 2 2 = 2 → Completes (.clearFab p (txSlot s p)) s (fun u => u.keyRun = some (4, p, 6) ∧
        fabKey u p (txSlot s p) = fabKey s p (txSlot s p)))) ∧
    (s.keyRun = none → prtFormed s p = false →
      let none_ (op : Nat) (u : State) : Prop := u.keyRun = some (op, p, 5) ∧ u.nextKey = s.nextKey ∧ xCur u p = xCur s p ∧
        { partGet u p with over_ := false } = { x with over_ := false }
      Completes (.rotateGen p) s (none_ 2) ∧ (∀ va, Completes (.rotateImport p va) s (none_ 1) ∧ Completes (.loadFab p va) s (none_ 3)) ∧
      ∀ slot, slot < 2 → Completes (.clearFab p slot) s (none_ 4)) ∧
    (∀ op r, s.keyRun = some (op, p, r) → op < 16 → r < 16 → Completes .secKeyCmdDone s (fun u => u.keyRun = none ∧
      rd u R.secKeyStatus = op + 16 * p + 256 * r ∧ SameRegs s u [R.secKeyStatus])) ∧
    (x.sweep = 2 → frCount s p (1 - xCur s p) = 0 → Completes (.keySweepDone p) s (fun u => memKey (partGet u p) (1 - xCur s p) = 0 ∧
      (partGet u p).sweep = 0 ∧ memKey (partGet u p) (xCur s p) = memKey x (xCur s p) ∧ rd u (R.secKcvPK p (1 - xCur s p)) = 0)) ∧
    (s.repRun = none →
      Completes .platformReport s (fun u => u.repRun = some (signed (platformBytes s)) ∧ u.stk.report = [] ∧
        bit (rd u R.secReportStatus) 0 = true ∧ SameRegs s u [R.secReportStatus]) ∧
      (prtFormed s p = true → Completes (.tenantReport p) s (fun u => u.repRun = some (signed (tenantBytes s p)) ∧ u.stk.report = [] ∧
        bit (rd u R.secReportStatus) 0 = true ∧ SameRegs s u [R.secReportStatus])) ∧
      (prtFormed s p = false → Completes (.tenantReport p) s (fun u => u.repRun = none ∧ rdf u R.secReportStatus 1 3 = 1 ∧
        SameRegs s u [R.secReportStatus, R.secErrLog, R.secErrCount]))) ∧
    (∀ b, s.repRun = some b → ∀ i ∈ [Instr.platformReport, .tenantReport p], Completes i s (fun u => u.repRun = some b ∧
      rdf u R.secReportStatus 1 3 = 2 ∧ SameRegs s u [R.secReportStatus])) ∧
    (∀ b, s.repRun = some b → b.length < 65536 → Completes .secReportDone s (fun u => u.stk.report = b ∧ u.repRun = none ∧
      rd u R.secReportStatus = 65536 * b.length ∧ SameRegs s u [R.secReportStatus, R.secReports]))

/-! Measurement and control (chapter 16). -/

/-- R431, R475, R482, R492: HIST_SNAP copies every live bin and HIST_CLR clears every live bin, neither touches the other set; a clock measurement
shows every domain, 0 for a link that is down. With the export on, an export leaves no increase owed and sends only IPFIX messages; the templates
are sent in one message, dropped and counted when the pool is full. Completes: HIST_SNAP, HIST_CLR, CLOCK_MEASURE, IPFIX_EXPORT,
IPFIX_TEMPLATE_REFRESH. -/
def Obligations.MeasuresTaken : Prop :=
  ∀ s : State, Calm s →
    Completes .histSnap s (fun u => (∀ h b, h < 27 → b < 32 → rd u (R.telHsnapHB h b) = rd s (R.telHistHB h b)) ∧
      SameRegs s u (histRegs.map (fun e => R.telHsnapHB e.1 e.2))) ∧
    Completes .histClr s (fun u => (∀ h b, h < 27 → b < 32 → rd u (R.telHistHB h b) = 0) ∧
      SameRegs s u (histRegs.map (fun e => R.telHistHB e.1 e.2))) ∧
    (∀ khz : List Nat, Completes (.clockMeasure khz) s (fun u =>
      (∀ d, d < 23 → rd u (R.telClkD d) = if clkDown s d then 0 else khz.getD d 0 % 2 ^ 32) ∧ SameRegs s u ((List.range 23).map R.telClkD))) ∧
    (bit (rd s R.hstIpfixCfg) 0 = true →
      Completes .ipfixExport s (fun u => u.ipfix.owed = [] ∧ ∀ f ∈ u.tx, ∃ b, f = frameOf s (.ipfix b)) ∧
      let m := HostMsg.ipfix (ipfixMsg s (ipfixSet 2 ((List.range 7).flatMap (fun i => tplBytes s (256 + i)))))
      (txPool s + (msgSize s m).2.2 ≤ 262144 → bit s.hport.paused (msgSize s m).1 = false → Completes .ipfixTemplateRefresh s (fun u => u.tx = [frameOf s m] ∧
        u.hport.wait = s.hport.wait)) ∧
      (262144 < txPool s + (msgSize s m).2.2 → Completes .ipfixTemplateRefresh s (fun u => u.tx = [] ∧ u.hport = s.hport ∧
        (bit (rd s R.hstCtrl) 0 = false → rd u R.hstIpfixDrop = (rd s R.hstIpfixDrop + 1) % 2 ^ 48)))) ∧
    (bit (rd s R.hstIpfixCfg) 0 = false → Leads .ipfixExport s (quiet s) ∧ Leads .ipfixTemplateRefresh s (quiet s))

/-- R484, R486–R488, R565: a port is congested in the next window when its load and one VC's queue reach the limits, never with the damper off. A
RATE cuts the flows it names and counts one that names none; the rate then rises by steps and returns to unlimited. A firebox's gate level rises
over a limit, falls below both, and rests with the loop off; energy adds up. Completes: DAMPER_WINDOW, RATE, RATE_INCREASE, RATE_RESET_TIMEOUT,
POWER_LOOP_PERIOD. -/
def Obligations.RatesAndPowerKept : Prop :=
  ∀ s : State, Calm s →
    (∀ p, p < 18 → (bit (rd s R.telDmpCfg) 0 = false ∨ portWidth s p = 0 → Completes (.damperWindow p) s (fun u =>
        portGet u p = { portGet s p with sent := 0, cong := false, cnt := 0 } ∧ SameRegs s u [])) ∧
      (bit (rd s R.telDmpCfg) 0 = true → 0 < portWidth s p →
        dmpCfg s 1 7 * (4000 * portWidth s p) ≤ 100 * ((portGet s p).sent + portWaiting s p (fun _ => true)) →
        (∃ v, v < 24 ∧ dmpCfg s 44 12 ≤ portWaiting s p (fun x => x = v)) → Completes (.damperWindow p) s (fun u =>
          portGet u p = { portGet s p with sent := 0, cong := true, cnt := if (portGet s p).cong then (portGet s p).cnt else 0 } ∧
          SameRegs s u []))) ∧
    (∀ m : RateMsg, bit (rd s R.telDmpCfg) 0 = true →
      let hits (f : SendFlow) : Prop := f.vc < 24 ∧ f.spart = m.spart ∧ f.dev = m.origDst ∧ bit (rd s (R.fabVcmapV f.vc)) 0 = true ∧
        rdf s (R.fabVcmapV f.vc) 4 12 = m.slice ∧ rdf s (R.fabVcmapV f.vc) 16 4 = m.group
      ((∀ f ∈ s.sflows, ¬ hits f) → Completes (.rate m) s (fun u => u.sflows = s.sflows ∧
        (bit (rd s R.telCtrl) 0 = false → rd u R.telRateNoflow = (rd s R.telRateNoflow + 1) % 2 ^ 48))) ∧
      (∀ f ∈ s.sflows, hits f → cutRecent s f.cutAt = false → rateHeld s m = none → Completes (.rate m) s (fun u =>
        { f with limit := max (100 * rdf s R.telDmpLim 0 8) ((if f.limit = 0 then flowRate s m.origDst else f.limit) * (256 - m.dec) / 256),
                 cutAt := some (telNow s) } ∈ u.sflows ∧
        (bit (rd s R.telCtrl) 0 = false → rd u R.telRateRecv = (rd s R.telRateRecv + 1) % 2 ^ 48)))) ∧
    (∀ f ∈ s.sflows, f.limit ≠ 0 → f.id < 2 ^ 32 →
      Completes (.rateIncrease f.id) s (fun u => { f with limit := f.limit + 100 * dmpCfg s 36 8 } ∈ u.sflows ∧ SameRegs s u []) ∧
      Completes (.rateResetTimeout f.id) s (fun u => { f with limit := 0, cutAt := none } ∈ u.sflows ∧ SameRegs s u [])) ∧
    (∀ (q : Nat) (x : QPair), tget s.qps q = some x → x.limit ≠ 0 →
      Completes (.rateIncrease (2 ^ 32 + q)) s (fun u => qpGet u q = { x with limit := x.limit + 100 * dmpCfg s 36 8 }) ∧
      Completes (.rateResetTimeout (2 ^ 32 + q)) s (fun u => qpGet u q = { x with limit := 0, cutAt := none })) ∧
    (∀ (f : Nat) (r : PowerReading), f < 4 →
      let g := bits (rd s (R.pwrFbStatusF f)) 32 6
      let P (v : Nat) (u : State) : Prop := bits (rd u (R.pwrFbStatusF f)) 32 6 = v ∧ (bit (rd s R.pwrCtrl) 1 = false →
        rd u (R.pwrFbEnergyF f) = (rd s (R.pwrFbEnergyF f) + r.fbEnergyMj) % 2 ^ 64)
      (bit (rd s R.pwrCtrl) 0 = false → Completes (.powerLoopPeriod f r) s (P g)) ∧
      (bit (rd s R.pwrCtrl) 0 = true → (loopGet s f).hold = 0 → g ≤ fbCap s f 28 6 →
        (fbOver s f r = true → Completes (.powerLoopPeriod f r) s (P (min (g + 1) (fbCap s f 28 6)))) ∧
        (fbOver s f r = false → fbUnder s f r = true → Completes (.powerLoopPeriod f r) s (P (g - 1))) ∧
        (fbOver s f r = false → fbUnder s f r = false → Completes (.powerLoopPeriod f r) s (P g))))

/-! Faults, hangs and recovery (chapter 17). -/

/-- R501, R502, R505, R508, R510, R511, R524: a hearth fault ends the tasks of the hearth and resets it, or takes it out of service with the
FAULT_LIMIT-th fault of the window; a reset that passes leaves a clean hearth in its partition, one that fails takes it out of service; a hearth that
returns joins the partition of its unit. Service waits for the hearth's tasks and then resets it; return and release reset the hearth they name; each
is refused while another command is in progress, and for a hearth that it does not fit. A request or a walk past its age is lost and counted, and its
task ends. Completes: HEARTH_FAULT, HEARTH_RESET_DONE, HRT_SERVICE, HRT_RETURN, RELEASE_HOLD, REQUEST_AGE_EXPIRY. -/
def Obligations.HearthsReset : Prop :=
  ∀ (s : State) (h : Nat), h < 256 → Calm s →
    let x := hget s h
    let idle : Prop := x.cur = none ∧ x.drain = none
    let ended (u : State) : Prop := (hget u h).cur = none ∧ (hget u h).drain = none
    (x.inReset = false → x.oos = false → ∀ cause, idle ∨ Calm (hearthFaultOp (quiet s) h cause) →
      let l := x.faults.filter (fun t => telSec s < t + rdf s R.errCtrl 16 16) ++ [telSec s]
      (l.length < rdf s R.errCtrl 8 4 → Completes (.hearthFault h cause) s (fun u => (hget u h).inReset = true ∧ (hget u h).oos = false ∧ ended u ∧
        (hget u h).faults = l ∧ bit (rd u (R.errHrtFaultI (h / 64))) (h % 64) = true)) ∧
      (rdf s R.errCtrl 8 4 ≤ l.length → Completes (.hearthFault h cause) s (fun u => (hget u h).oos = true ∧ (hget u h).part = none ∧ ended u ∧
        (hget u h).next = none ∧ bit (rd u (R.errHrtOosI (h / 64))) (h % 64) = true))) ∧
    (x.inReset = true → (∀ q i t r, (qpGet s q).cmds ≠ .held i t :: r) →
      (x.oos = false → Completes (.hearthResetDone h true) s (fun u =>
        hget u h = { Hearth.fresh with
          part := x.part, leaving := x.leaving, faults := x.faults, nextId := x.nextId, spd := { Scratch.reset with ues := x.spd.ues } } ∧
        ∀ r : Reg, blkBase .mxa h ≤ r.addr → r.addr < blkBase .mxa h + 0x100000 →
          r.addr ∉ [R.mxaCtrl h, R.vecCtrl h, R.spdCtrl h, R.fluCtrl h, R.blwCtrl h].map Reg.addr → rd u r = r.rst)) ∧
      (x.oos = true → Completes (.hearthResetDone h true) s (fun u => (hget u h).oos = false ∧ (hget u h).inReset = false ∧
        bit (rd u (R.errHrtOosI (h / 64))) (h % 64) = false ∧
        ∀ p, unitOwner s h = some (p, false) → (hget u h).part = some p ∧ (hget u h).leaving = false)) ∧
      Completes (.hearthResetDone h false) s (fun u => (hget u h).oos = true ∧
        (x.oos = false → (hget u h).part = none ∧ bit (rd u (R.errHrtOosI (h / 64))) (h % 64) = true))) ∧
    (∀ p, procFree s = true → x.part = some p → x.leaving = false → x.inReset = false → x.oos = false → x.held = false →
      Completes (.hrtService h) s (fun u => u.stk.service = some h ∧ (hget u h).leaving = true ∧ (hget u h).next = none ∧
        (hget u h).cur = x.cur ∧ (hget u h).drain = x.drain ∧ (hget u h).inReset = (x.cur.isNone && x.drain.isNone) ∧ cmdBusy u = true)) ∧
    (cmdBusy s = false → x.inReset = false →
      (x.oos = true → idle ∨ Calm (hrtReturn (quiet s) h) → Completes (.hrtReturn h) s (fun u => u.stk.tested = some h ∧ (hget u h).inReset = true ∧
        ended u ∧ cmdBusy u = true)) ∧
      (x.held = true → idle ∨ Calm (releaseHold (quiet s) h) → Completes (.releaseHold h) s (fun u => u.stk.tested = some h ∧
        (hget u h).inReset = true ∧ ended u ∧ cmdBusy u = true))) ∧
    (let refused (c : Nat) (u : State) : Prop := rdf u R.stkCmdStatus 8 4 = c ∧ u.hearths = s.hearths ∧ u.stk = s.stk
     (cmdBusy s = true → Completes (.hrtService h) s (refused 1) ∧ Completes (.hrtReturn h) s (refused 1) ∧ Completes (.releaseHold h) s (refused 1)) ∧
      (procFree s = true → x.part = none ∨ x.leaving = true ∨ x.inReset = true ∨ x.oos = true ∨ x.held = true →
        Completes (.hrtService h) s (refused 2)) ∧
      (cmdBusy s = false → x.oos = false ∨ x.inReset = true → Completes (.hrtReturn h) s (refused 2)) ∧
      (cmdBusy s = false → x.held = false ∨ x.inReset = true → Completes (.releaseHold h) s (refused 2))) ∧
    (∀ i,
      let lost (u : State) : Prop := bit (rd s R.errCtrl) 0 = false → rd u R.errReqLost = (rd s R.errReqLost + 1) % 2 ^ 48
      (∀ q, lget x.reqs i = some q → idle → Completes (.requestAgeExpiry h i) s (fun u => (hget u h).reqs = ldel x.reqs i ∧ lost u)) ∧
      (∀ q, lget x.reqs i = some q → Calm (requestAgeExpiry (quiet s) h i) → Completes (.requestAgeExpiry h i) s (fun u => lost u ∧
        (q.kind ≠ .hint → (∃ t ∈ x.cur.toList ++ x.drain.toList, t.id = q.own) → ended u))) ∧
      (∀ w, lget x.reqs i = none → lget x.walks (i - x.reqs.length) = some w → Calm (requestAgeExpiry (quiet s) h i) →
        Completes (.requestAgeExpiry h i) s (fun u => lost u ∧ w ∉ (hget u h).walks)))

/-- R497–R499, R503–R505, R509, R512, R513, R523, R526, R571: each device fault starts a warm reset; what has no recovery halts the device. On a device
at rest, where no activity that the reset ends can write to the same logs, the fault is logged with its KIND and INSTANCE, with one more ash record.
A warm reset waits for a procedure; while one is in progress it merges with it or waits (log 46: which, the steps tell); it ends with the device
serving, its tasks gone; a failed one halts. Completes: SLICE_TAG_PARITY, BRIDGE_FAILURE, REFCLK_A_LOSS, REFCLK_B_LOSS, THERMAL_TRIP,
THERMAL_COOLED, STOKER_WATCHDOG, HARD_THERMAL_LIMIT, REFCLK_BOTH_LOSS, REFCLK_RETURN, WARM_RESET, WARM_RESET_SERVING, STOKER_RESTART_DONE. -/
def Obligations.DeviceFaultsReset : Prop :=
  (∀ s : State, Calm s →
    let logged (kind inst : Nat) (u : State) : Prop := rdf u R.stkAshHead 32 32 = (ashSeq s + 1) % 2 ^ 32 ∧
      (bit (rd s R.errDevLog) 0 = false → rdf u R.errDevLog 8 4 = kind ∧ rdf u R.errDevLog 16 8 = inst)
    let warm (start : Nat) (remap : Bool) (u : State) : Prop := u.stk.phase = .warm ∧ u.stk.warmRun = some (start, remap) ∧ rdf u R.stkStatus 0 3 = 3
    (∀ sl, sl < 4 → Completes (.sliceTagParity sl) s (fun u => warm 3 false u ∧ (AtRest s → logged 1 sl u ∧ bit u.stk.slices sl = false))) ∧
    (∀ b, b < 6 → Completes (.bridgeFailure b) s (fun u => warm 3 false u ∧ (AtRest s → logged 2 b u ∧ bit u.stk.bridges b = false))) ∧
    (s.stk.refA = true → s.stk.refB = true →
      Completes .refclkALoss s (fun u => warm 3 false u ∧
        (AtRest s → logged 3 0 u ∧ u.stk.refA = false ∧ u.stk.coreB = true ∧ u.stk.serdesB = true)) ∧
      Completes .refclkBLoss s (fun u => warm 3 false u ∧
        (AtRest s → logged 4 0 u ∧ u.stk.refB = false ∧ u.stk.coreB = false ∧ u.stk.serdesB = false))) ∧
    (∀ site : TripSite, site.ok = true → s.stk.trip = false → Completes (.thermalTrip site) s (fun u => u.stk.trip = true ∧
      u.stk.phase = .run ∧ rdf u R.stkStatus 0 3 = 2 ∧ (∀ k, k < 20 → (stkGet s k).st = 2 → (stkGet u k).st = 3) ∧
      (AtRest s → logged 5 (siteNo site) u))) ∧
    (s.stk.trip = true → Completes .thermalCooled s (warm 3 false)) ∧
    (let l := s.stk.expiries.filter (fun t => telSec s < t + 600)
     (l.length < 2 → Completes .stokerWatchdog s (fun u => u.away = true ∧ u.stk.ashDue = true ∧ u.stk.expiries = l ++ [telSec s] ∧
        rd u R.stkRestarts = (rd s R.stkRestarts + 1) % 2 ^ 48)) ∧
      (2 ≤ l.length → Completes .stokerWatchdog s (fun u => warm 3 false u ∧ (AtRest s → logged 6 0 u ∧ u.stk.expiries = [])))) ∧
    Completes .hardThermalLimit s (fun u => u.stk.phase = .cut ∧ u.stk.thermN = true ∧ u.hport.up = false ∧ u.links = []) ∧
    Completes .refclkBothLoss s (fun u => u.stk.phase = .halted ∧ u.stk.faultN = true ∧ rdf u R.stkStatus 0 3 = 5 ∧ u.hport.up = false ∧
      u.links = [] ∧ u.stk.refA = false ∧ u.stk.refB = false) ∧
    (∀ a, Leads (.refclkReturn a) s (stkMod (quiet s) (fun k => if a then { k with refA := true } else { k with refB := true }))) ∧
    (∀ remap, s.stk.trip = false → (procBusy s = false → Completes (.warmReset remap) s (warm 2 remap)) ∧
      (procBusy s = true → Completes (.warmReset remap) s (fun u => u.stk.phase = .run ∧ u.stk.warmQ = some remap)))) ∧
  (∀ (s : State) (start : Nat) (r0 : Bool), s.stk.phase = .warm → s.stk.warmRun = some (start, r0) →
    (∀ remap, Completes (.warmReset remap) s (fun u => u.stk.phase = .warm ∧
      (u.stk.warmRun = some (start, r0 || remap) ∧ u.stk.warmQ = s.stk.warmQ ∨
        u.stk.warmRun = some (start, r0) ∧ u.stk.warmQ = some (s.stk.warmQ.getD false || remap)))) ∧
    (∀ r : WarmResults, (r.imageVerifies && r.bridgesOk && r.slicesOk) = false → Completes (.warmResetServing r) s (fun u =>
      u.stk.phase = .halted ∧ u.stk.faultN = true ∧ rdf u R.stkStatus 0 3 = 5)) ∧
    (∀ r : WarmResults, Calm { s with stk := { s.stk with phase := .run } } → r.imageVerifies = true → r.bridgesOk = true → r.slicesOk = true →
      r.failedPcs = [] → r.failedHearths = [] → start < 16 → Completes (.warmResetServing r) s (fun u =>
        u.stk.phase = .run ∧ rdf u R.stkStatus 0 3 = 1 ∧ rdf u R.devStatus 32 4 = (if r0 then 4 else start) ∧ u.graphs = [] ∧ u.cols = [] ∧
        u.sflows = [] ∧ (∀ h, (hget u h).cur = none ∧ (hget u h).drain = none) ∧ (∀ q, q < 1024 → qpGet u q = QPair.reset) ∧
        (∀ p, (partGet u p).units = if r0 then 0 else (partGet s p).units) ∧ (r0 = true → u.hbm.mem = [])))) ∧
  (∀ s : State, s.away = true → Calm { s with away := false } →
    (s.stk.ashDue = true → Completes .stokerRestartDone s (fun u => u.away = false ∧ u.stk.ashDue = false ∧ ashSeq u = (ashSeq s + 1) % 2 ^ 32)) ∧
    (s.stk.ashDue = false → Completes .stokerRestartDone s (fun u => u.away = false ∧ u.stk = s.stk ∧ SameRegs s u [])))

/-- R514, R515, R518, R522, R578: the suspect procedure stops its partition and runs the held tasks alone, on a hearth other than the one where each
was held; in a partition of one hearth, after a reset of it. A firmware switch loads a verified copy and restarts in trial; it is kept or taken
back. A digest is compared with the peer's. An injection is armed only where the image allows it and the table lists it. Completes: SUSPECT_START,
FW_SWITCH, FW_OK_SET, FW_TRIAL_TIMEOUT, DIG_CHECK, DIG_REQ, DIG_REPLY, DIG_REPLY_TIMEOUT, ERR_INJECT_ARM, SUSPECT_RUN. -/
def Obligations.ProceduresRun : Prop :=
  (∀ s : State, Calm s →
    (∀ p, p < 16 → heldTasks s p ≠ [] → Completes (.suspectStart p) s (fun u => u.stk.susp = some ⟨p, none, false⟩ ∧ rdf u R.stkStatus 5 3 = 1 ∧
      bit (rd u (R.grfCtrl p)) 3 = true)) ∧
    (∀ c w m, c < 2 → procFree s = true → copyCheck (quiet s) c = (.ok m, w) →
      let other := 1 - rdf s R.stkStatus 3 1
      Completes (.fwSwitch c) s (fun u => u.away = true ∧ u.stk.trial = some c ∧ rdf u R.stkStatus 3 1 = other ∧ rdf u R.stkStatus 0 3 = 4 ∧
        bit (rd u R.stkStatus) 4 = false ∧ (if other = 0 then u.stk.fw0 else u.stk.fw1) = ⟨true, m.fwDigest, m.fwVersion, m.svn⟩)) ∧
    (∀ c w k, c < 2 → procFree s = true → copyCheck (quiet s) c = (.error k, w) → Completes (.fwSwitch c) s (fun u =>
      rdf u R.stkCmdStatus 8 4 = 3 ∧ u.away = false ∧ u.stk = s.stk)) ∧
    (∀ c, s.stk.trial = some c → c < 2 →
      Completes .fwOkSet s (fun u => u.stk.trial = none ∧ bit (rd u R.stkStatus) 4 = true ∧ rdf u R.stkStatus 0 3 = 1 ∧
        rdf u R.kndStatus 0 1 = c ∧ rdf u R.kndStatus 1 1 = c) ∧
      Completes .fwTrialTimeout s (fun u => u.stk.trial = none ∧ u.away = true ∧ rdf u R.stkStatus 3 1 = 1 - rdf s R.stkStatus 3 1)) ∧
    (procFree s = true →
      let q := rd s R.stkDigQuery
      let e := digFind s (bits q 0 4) (bits q 8 8) (bits q 32 32) (bits q 4 1) (bits q 16 16)
      (e = none → Completes .digCheck s (fun u => rd u R.stkDigResult = 3 ∧ u.stk.digs = none ∧ rdf u R.stkStatus 5 3 = 0)) ∧
      (∀ n crc peer, e = some (n, crc, peer) → (∀ port, stagingRoom s port 1 = true) → Completes .digCheck s (fun u => rd u R.stkDigResult = 0 ∧ rdf u R.stkStatus 5 3 = 4 ∧
        u.stk.digs = some ⟨some (n, crc), bits q 16 16, bits q 0 4, peer, bits q 8 8, bits q 32 32, 1 - bits q 4 1⟩))) ∧
    (∀ (m : DigMsg) port l, m.srcDev < 4096 → primaryOf s m.srcDev = some port → pickLink s (portLive s port) = some l →
      stagingRoom (digTaken (quiet s) 2 m) port 1 = true →
      let e := if prtFormed s m.dpart then digFind s m.dpart m.coll m.epoch m.dir m.srcDev else none
      Completes (.digReq m) s (fun u => ∃ h, (lkGet u l).txq = (lkGet s l).txq ++ [⟨s.nextPkt, 30, flitsOf 30 (h ++
        (match e with | some (n, crc, _) => beBytes 8 n ++ beBytes 8 crc | none => List.replicate 16 0)), true, none, false, m.srcDev, some (linkSlice l), false⟩] ∧
        phType h = 3 ∧ phDst h = m.srcDev)) ∧
    (∀ w : DigWait, s.stk.digs = some w →
      (∀ (m : DigMsg) (n crc : W64), m.srcDev = w.dev → m.coll = w.coll → m.epoch = w.epoch →
        Completes (.digReply m n crc) s (fun u => u.stk.digs = none ∧ rd u R.stkDigResult =
          if n = 0 ∧ crc = 0 then 3 else if w.entry = some (n.toNat, crc.toNat) then 1 else 2)) ∧
      Completes .digReplyTimeout s (fun u => u.stk.digs = none ∧ rd u R.stkDigResult = 4)) ∧
    (∀ v : W64, bit v.toNat 0 = true →
      (bit (rd s R.errCap) 31 = true → injOk (bits v.toNat 1 3) (bits v.toNat 8 8) = true → Completes (.errInjectArm v) s (fun u =>
        rd u R.errInject = bits v.toNat 0 4 + 256 * bits v.toNat 8 24 ∧ SameRegs s u [R.errInject])) ∧
      (bit (rd s R.errCap) 31 = false ∨ injOk (bits v.toNat 1 3) (bits v.toNat 8 8) = false → Leads (.errInjectArm v) s (quiet s)))) ∧
  (∀ (s : State) (p : Nat) (ready : Bool) (t : Task) (l : List Task), p < 16 → Calm { s with stk := { s.stk with susp := none } } →
    s.stk.susp = some ⟨p, none, ready⟩ → heldTasks s p = t :: l → partRuns s p = false → retrainHold s = false → s.stk.trip = false →
    let hs := (partHearths s p).filter (suspectIdle s)
    let h0 := (t.sus.map (·.1)).getD t.hearth
    (∀ h, hs = [h] → soleHearth s p = true → ready = false → Completes (.suspectRun p) s (fun u => (hget u h).inReset = true)) ∧
    (∀ h a b r lst w1 w2 w3 pl k, hs = a :: b :: r → hs.find? (· ≠ h0) = some h → hlistOf (unbind (quiet s) h) p t = (lst, w1) →
      suspectPlan w1 p t = (pl, w2) → let es := suspectHandles lst pl
      fitsHearth w2 p h es.1 = true → bindOn w2 p h t es.1 es.2 (pl.map (·.2)) = w3 → (hget w3 h).next = some k →
      k.id = t.id → w3.stk = s.stk → let w := startRun w3 h k
      Calm { w with stk := { s.stk with susp := none } } → suspectRuns w p t.id h = true →
      Completes (.suspectRun p) s (fun u => u.stk.susp = some ⟨p, some (t.id, h), false⟩ ∧ u.hearths = w.hearths ∧ u.graphs = w.graphs)))

/-! Start-up, and the device as a whole (chapter 18). -/

/-- R530–R532, R537, R538, R543, R552: a reset ends all activity and keeps the flash and the fuses; a cold start with a valid reference input and a
copy that verifies serves, one more cold start counted; with no copy that verifies it stops with DEV_FAULT_N asserted; with no valid input it
samples on, and stops at the timeout. Completes: RESET_ASSERT, COLD_START, REFCLK_SAMPLE, REFCLK_TIMEOUT. -/
def Obligations.ColdStartsServe : Prop :=
  ∀ s : State, s.stk.flashRun = none →
    let stopped (u : State) : Prop := u.stk.phase = .stopped ∧ u.stk.faultN = true
    Completes .resetAssert s (fun u => u.stk.phase = .low ∧ u.hearths = [] ∧ u.parts = [] ∧ u.csr = [] ∧ u.hbm = Hbm.zero ∧ u.qps = [] ∧
      u.stk.flash = s.stk.flash ∧ u.stk.fuses = s.stk.fuses ∧ u.hport.up = false) ∧
    (∀ b : BootInputs, b.refA = false → b.refB = false → Completes (.coldStart b) s (fun u => u.stk.phase = .sampling ∧ u.stk.bootIn = some b ∧
      u.stk.flash = s.stk.flash)) ∧
    (∀ b : BootInputs, b.refA || b.refB → s.stk.flash = [] → Completes (.coldStart b) s stopped) ∧
    (∀ (b : BootInputs) (m : Img) c w, b.refA || b.refB → b.bridgesOk = true → b.failedPcs = [] → b.failedHearths = [] →
      let k := s.stk.fuses
      let feed (x : Stoker) : Stoker := { x with coreB := !b.refA, serdesB := b.refA && b.refB || !b.refA }
      let s1 := stkMod (offState s) (fun x => feed { x with refA := b.refA, refB := b.refB, faultN := false, thermN := false })
      let s2 := bootHealth (wr s1 R.devFuses (b1 k.owner.isSome + fieldAt 8 16 k.svnMin))
      bootCopy s2 (rdf s2 R.kndStatus 0 1) = (some (m, c), w) → Completes (.coldStart b) s (fun u => u.stk.phase = .run ∧
        rdf u R.stkStatus 0 3 = 1 ∧ u.coldStarts = w.coldStarts + 1 ∧ u.stk.imgDigest = m.digest ∧ u.stk.faultN = false ∧ u.parts = [])) ∧
    (∀ i : BootInputs, s.stk.phase = .sampling → s.stk.bootIn = some i →
      Completes (.refclkSample false false) s (fun u => u.stk.phase = .sampling ∧ u.stk.refA = false ∧ u.stk.refB = false) ∧
      (∀ a b, a || b → s.stk.flash = [] → Completes (.refclkSample a b) s stopped) ∧ Completes .refclkTimeout s stopped)

/-- R550, R551, R553, R570: a flash command is accepted while none runs, inside its limits, and on the copy that does not run; ERASE leaves a sector
of ones, PROGRAM clears bits and sets none, READ fills the buffer, VERIFY runs the checks; a flash that does not answer is FLASH_ERROR. The owner
fuses are written once and SVN_MIN follows the firmware. The test port takes its instructions, the pin ones only under reset. Completes: ERASE,
PROGRAM, READ, VERIFY, FLASH_CMD_DONE, OWNER_FUSE, SVN_RAISE, JTAG_BYPASS, JTAG_IDCODE, JTAG_SAMPLE_PRELOAD, JTAG_EXTEST. -/
def Obligations.FlashAndFusesKept : Prop :=
  (∀ s : State, Calm s →
    (s.stk.flashRun = none → s.stk.trial = none →
      let started (r : FlashRun) (u : State) : Prop := u.stk.flashRun = some r ∧ bit (rd u R.kndFlashStatus) 0 = true ∧ u.stk.flash = s.stk.flash
      (∀ a, a < 0x8000000 →
        (inIdleCopy s (a / 65536 * 65536) 65536 = true → Completes (.erase a) s (started ⟨1, a, 0, 0⟩)) ∧
        (inIdleCopy s (a / 65536 * 65536) 65536 = false → Completes (.erase a) s (fun u => rdf u R.kndFlashStatus 4 4 = 1 ∧ u.stk = s.stk))) ∧
      (∀ a n, a % 256 = 0 → n % 256 = 0 → 0 < n → n ≤ 65536 → a + n ≤ 0x8000000 →
        (inIdleCopy s a n = true → Completes (.program a n) s (started ⟨2, a, n, 0⟩)) ∧ Completes (.read a n) s (started ⟨3, a, n, 0⟩)) ∧
      (∀ c, c < 2 → Completes (.verify c) s (started ⟨4, 0, 0, c⟩))) ∧
    (∀ r : FlashRun, s.stk.flashRun = some r →
      let done_ (c : Nat) (u : State) : Prop := u.stk.flashRun = none ∧ rdf u R.kndFlashStatus 4 4 = c ∧ bit (rd u R.kndFlashStatus) 0 = false
      (∀ a, Completes (.erase a) s (fun u => rdf u R.kndFlashStatus 4 4 = 2 ∧ u.stk = s.stk)) ∧
      (r.op = 1 → Completes (.flashCmdDone true) s (fun u => done_ 0 u ∧
        (∀ a, a / 65536 = r.addr / 65536 → memGet u.stk.flash a = 0) ∧ ∀ a, a / 65536 ≠ r.addr / 65536 → memGet u.stk.flash a = memGet s.stk.flash a)) ∧
      (r.op = 2 → Completes (.flashCmdDone true) s (fun u => done_ 0 u ∧
        (∀ i, i < (flashBuf s r.len).length → memGet u.stk.flash (r.addr + i) = memGet s.stk.flash (r.addr + i) ||| ~~~ (flashBuf s r.len).getD i 0) ∧
        ∀ a, a < r.addr ∨ r.addr + (flashBuf s r.len).length ≤ a → memGet u.stk.flash a = memGet s.stk.flash a)) ∧
      (r.op = 3 → r.len % 8 = 0 → r.len ≤ 65536 → Completes (.flashCmdDone true) s (fun u => done_ 0 u ∧ u.stk.flash = s.stk.flash ∧
        ∀ i, i < r.len / 8 → rd u (R.kndFlashBuf i) = bufWord (flRead s r.addr r.len) i)) ∧
      (r.op = 4 → Completes (.flashCmdDone true) s (fun u => u.stk.flash = s.stk.flash ∧
        done_ (match (copyCheck s r.copy).1 with | .ok _ => 0 | .error _ => 6) u)) ∧
      Completes (.flashCmdDone false) s (done_ 5)) ∧
    (let f := s.stk.fuses
      let d := (List.range 4).flatMap (fun i => leBytes 8 (rd s (R.kndOwnerDigestI i)))
      (f.owner = none → f.left ≠ 0 → Leads .ownerFuse s
        (wr (stkMod (quiet s) (fun k => { k with fuses := { f with owner := some d, left := f.left - 1 } })) R.kndCmdStatus 0)) ∧
      (f.owner ≠ none → Leads .ownerFuse s (wr (quiet s) R.kndCmdStatus 16)) ∧
      (f.svnMin ≠ (fwRun s).svn % 65536 → f.left ≠ 0 → Leads .svnRaise s
        (wr (stkMod (quiet s) (fun k => { k with fuses := { f with svnMin := (fwRun s).svn % 65536, left := f.left - 1 } })) R.kndCmdStatus 0)) ∧
      (f.svnMin = (fwRun s).svn % 65536 → Leads .svnRaise s (wr (quiet s) R.kndCmdStatus 32))) ∧
    Leads .jtagBypass s (stkMod (quiet s) (fun k => { k with jtag := { k.jtag with ir := 1 } })) ∧
    Leads .jtagIdcode s (stkMod (quiet s) (fun k => { k with jtag := { k.jtag with ir := 0 } })) ∧
    (∀ pins, Leads (.jtagSamplePreload pins) s (quiet s)) ∧ Leads .jtagExtest s (quiet s)) ∧
  (∀ s : State, s.stk.phase = .low →
    (∀ pins : W64, Completes (.jtagSamplePreload pins) s (fun u => u.stk = { s.stk with jtag := ⟨2, pins.toNat⟩ } ∧ u.csr = s.csr)) ∧
    Completes .jtagExtest s (fun u => u.stk = { s.stk with jtag := { s.stk.jtag with ir := 3 } } ∧ u.csr = s.csr))

/-- A step takes the command at the front of the queue and performs it on the device with the rest of the queue; with none waiting the clocks go on
to their next edge and the queue stays empty (log 3). -/
def Obligations.StepRunsTheFront : Prop :=
  (∀ (c : Instr) (q : List Instr) (s : State), step { s with pending := c :: q } = exec c { s with pending := q }) ∧
  (∀ s : State, s.pending = [] → step s = .next (tick s) ∧ (tick s).pending = [])

/-- Commands are performed first in, first out, and none stops the device: from every state, `n` steps with at least `n` commands waiting lead to a
state in which the others wait in their order. -/
def Obligations.CommandsRunInOrder : Prop :=
  ∀ (n : Nat) (s : State), n ≤ s.pending.length → ∃ t, core.run n s = .next t ∧ t.pending = s.pending.drop n

/-- Between commands no abort and no hearth fault is due (R307, R510): every step from a state with none due leads to one with none due. -/
def Obligations.NothingStaysDue : Prop :=
  ∀ s t : State, s.dueAborts = [] → s.dueHrt = [] → step s = .next t → t.dueAborts = [] ∧ t.dueHrt = []

/-- R513, R571: only a cold start leaves a halted device, and only a cold start leaves one that the hard thermal limit has stopped: whatever command
comes next, it stays halted (or reaches that limit), transmits nothing, and its registers, its hearths and its memory stay as they are. -/
def Obligations.HaltedUntilReset : Prop :=
  ∀ s t : State, step s = .next t → s.stk.phase = .halted ∨ s.stk.phase = .cut → (∀ q, s.pending ≠ .resetAssert :: q) →
    (∀ b q, s.pending ≠ .coldStart b :: q) →
    (t.stk.phase = s.stk.phase ∨ t.stk.phase = .cut ∧ ∃ q, s.pending = .hardThermalLimit :: q) ∧ (s.links = [] → t.links = []) ∧
    (s.hport.up = false → t.hport.up = false) ∧ (s.tx = [] → t.tx = []) ∧ t.csr = s.csr ∧ t.hearths = s.hearths ∧ t.hbm = s.hbm ∧
    t.stk.flash = s.stk.flash ∧ t.stk.fuses = s.stk.fuses

/-- R445, R530, R552: right after reset the device serves on bank 0 with its firmware accepted; no command waits, every partition is FREE, no link
is up, every hearth is idle and in service, and the management queue pair is RTS on priority 7 while every data queue pair is in RESET. -/
def Obligations.ResetServes : Prop :=
  rdf State.reset R.stkStatus 0 3 = 1 ∧ bit (rd State.reset R.stkStatus) 4 = true ∧ State.reset.stk.phase = .run ∧ State.reset.pending = [] ∧
  (∀ p, (partGet State.reset p).st = 0) ∧ (∀ n, (lkGet State.reset n).st = 0) ∧
  (∀ h, (hget State.reset h).cur = none ∧ (hget State.reset h).oos = false ∧ (hget State.reset h).part = none) ∧
  qpState State.reset 1024 = 1 ∧ rdf State.reset (R.hstQpCtrlQ 1024) 3 3 = 7 ∧ Calm State.reset
end

