-- ==== Sys2Proof/Laws/State.lean ====
section
/-!
SUPPORT. One lemma per field and update of State: what each update leaves alone, and what the updated field then holds.
-/

namespace Sys2Proof.Machine

/-! wr -/

@[simp] theorem wr_pending (s : State) (r : Reg) (v : Nat) : (wr s r v).pending = s.pending := rfl
@[simp] theorem wr_now (s : State) (r : Reg) (v : Nat) : (wr s r v).now = s.now := rfl
@[simp] theorem wr_fresh (s : State) (r : Reg) (v : Nat) : (wr s r v).fresh = s.fresh := rfl
@[simp] theorem wr_dueAborts (s : State) (r : Reg) (v : Nat) : (wr s r v).dueAborts = s.dueAborts := rfl
@[simp] theorem wr_dueHrt (s : State) (r : Reg) (v : Nat) : (wr s r v).dueHrt = s.dueHrt := rfl
@[simp] theorem wr_csr (s : State) (r : Reg) (v : Nat) : (wr s r v).csr = csrPut s.csr r v := rfl
@[simp] theorem wr_hearths (s : State) (r : Reg) (v : Nat) : (wr s r v).hearths = s.hearths := rfl
@[simp] theorem wr_graphs (s : State) (r : Reg) (v : Nat) : (wr s r v).graphs = s.graphs := rfl
@[simp] theorem wr_slices (s : State) (r : Reg) (v : Nat) : (wr s r v).slices = s.slices := rfl
@[simp] theorem wr_mcast (s : State) (r : Reg) (v : Nat) : (wr s r v).mcast = s.mcast := rfl
@[simp] theorem wr_hbm (s : State) (r : Reg) (v : Nat) : (wr s r v).hbm = s.hbm := rfl
@[simp] theorem wr_xlts (s : State) (r : Reg) (v : Nat) : (wr s r v).xlts = s.xlts := rfl
@[simp] theorem wr_walks (s : State) (r : Reg) (v : Nat) : (wr s r v).walks = s.walks := rfl
@[simp] theorem wr_walkCache (s : State) (r : Reg) (v : Nat) : (wr s r v).walkCache = s.walkCache := rfl
@[simp] theorem wr_parts (s : State) (r : Reg) (v : Nat) : (wr s r v).parts = s.parts := rfl
@[simp] theorem wr_nextKey (s : State) (r : Reg) (v : Nat) : (wr s r v).nextKey = s.nextKey := rfl
@[simp] theorem wr_links (s : State) (r : Reg) (v : Nat) : (wr s r v).links = s.links := rfl
@[simp] theorem wr_ports (s : State) (r : Reg) (v : Nat) : (wr s r v).ports = s.ports := rfl
@[simp] theorem wr_nextPkt (s : State) (r : Reg) (v : Nat) : (wr s r v).nextPkt = s.nextPkt := rfl
@[simp] theorem wr_sflows (s : State) (r : Reg) (v : Nat) : (wr s r v).sflows = s.sflows := rfl
@[simp] theorem wr_rflows (s : State) (r : Reg) (v : Nat) : (wr s r v).rflows = s.rflows := rfl
@[simp] theorem wr_nextFlow (s : State) (r : Reg) (v : Nat) : (wr s r v).nextFlow = s.nextFlow := rfl
@[simp] theorem wr_colIn (s : State) (r : Reg) (v : Nat) : (wr s r v).colIn = s.colIn := rfl
@[simp] theorem wr_cols (s : State) (r : Reg) (v : Nat) : (wr s r v).cols = s.cols := rfl
@[simp] theorem wr_qps (s : State) (r : Reg) (v : Nat) : (wr s r v).qps = s.qps := rfl
@[simp] theorem wr_hport (s : State) (r : Reg) (v : Nat) : (wr s r v).hport = s.hport := rfl
@[simp] theorem wr_tx (s : State) (r : Reg) (v : Nat) : (wr s r v).tx = s.tx := rfl
@[simp] theorem wr_held (s : State) (r : Reg) (v : Nat) : (wr s r v).held = s.held := rfl
@[simp] theorem wr_away (s : State) (r : Reg) (v : Nat) : (wr s r v).away = s.away := rfl
@[simp] theorem wr_colUnl (s : State) (r : Reg) (v : Nat) : (wr s r v).colUnl = s.colUnl := rfl
@[simp] theorem wr_keyRun (s : State) (r : Reg) (v : Nat) : (wr s r v).keyRun = s.keyRun := rfl
@[simp] theorem wr_repRun (s : State) (r : Reg) (v : Nat) : (wr s r v).repRun = s.repRun := rfl
@[simp] theorem wr_coldStarts (s : State) (r : Reg) (v : Nat) : (wr s r v).coldStarts = s.coldStarts := rfl
@[simp] theorem wr_ipfix (s : State) (r : Reg) (v : Nat) : (wr s r v).ipfix = s.ipfix := rfl
@[simp] theorem wr_loops (s : State) (r : Reg) (v : Nat) : (wr s r v).loops = s.loops := rfl
@[simp] theorem wr_alert (s : State) (r : Reg) (v : Nat) : (wr s r v).alert = s.alert := rfl
@[simp] theorem wr_stk (s : State) (r : Reg) (v : Nat) : (wr s r v).stk = s.stk := rfl

/-! wrf -/

@[simp] theorem wrf_pending (s : State) (r : Reg) (lo len v : Nat) : (wrf s r lo len v).pending = s.pending := rfl
@[simp] theorem wrf_now (s : State) (r : Reg) (lo len v : Nat) : (wrf s r lo len v).now = s.now := rfl
@[simp] theorem wrf_fresh (s : State) (r : Reg) (lo len v : Nat) : (wrf s r lo len v).fresh = s.fresh := rfl
@[simp] theorem wrf_dueAborts (s : State) (r : Reg) (lo len v : Nat) : (wrf s r lo len v).dueAborts = s.dueAborts := rfl
@[simp] theorem wrf_dueHrt (s : State) (r : Reg) (lo len v : Nat) : (wrf s r lo len v).dueHrt = s.dueHrt := rfl
@[simp] theorem wrf_hearths (s : State) (r : Reg) (lo len v : Nat) : (wrf s r lo len v).hearths = s.hearths := rfl
@[simp] theorem wrf_graphs (s : State) (r : Reg) (lo len v : Nat) : (wrf s r lo len v).graphs = s.graphs := rfl
@[simp] theorem wrf_slices (s : State) (r : Reg) (lo len v : Nat) : (wrf s r lo len v).slices = s.slices := rfl
@[simp] theorem wrf_mcast (s : State) (r : Reg) (lo len v : Nat) : (wrf s r lo len v).mcast = s.mcast := rfl
@[simp] theorem wrf_hbm (s : State) (r : Reg) (lo len v : Nat) : (wrf s r lo len v).hbm = s.hbm := rfl
@[simp] theorem wrf_xlts (s : State) (r : Reg) (lo len v : Nat) : (wrf s r lo len v).xlts = s.xlts := rfl
@[simp] theorem wrf_walks (s : State) (r : Reg) (lo len v : Nat) : (wrf s r lo len v).walks = s.walks := rfl
@[simp] theorem wrf_walkCache (s : State) (r : Reg) (lo len v : Nat) : (wrf s r lo len v).walkCache = s.walkCache := rfl
@[simp] theorem wrf_parts (s : State) (r : Reg) (lo len v : Nat) : (wrf s r lo len v).parts = s.parts := rfl
@[simp] theorem wrf_nextKey (s : State) (r : Reg) (lo len v : Nat) : (wrf s r lo len v).nextKey = s.nextKey := rfl
@[simp] theorem wrf_links (s : State) (r : Reg) (lo len v : Nat) : (wrf s r lo len v).links = s.links := rfl
@[simp] theorem wrf_ports (s : State) (r : Reg) (lo len v : Nat) : (wrf s r lo len v).ports = s.ports := rfl
@[simp] theorem wrf_nextPkt (s : State) (r : Reg) (lo len v : Nat) : (wrf s r lo len v).nextPkt = s.nextPkt := rfl
@[simp] theorem wrf_sflows (s : State) (r : Reg) (lo len v : Nat) : (wrf s r lo len v).sflows = s.sflows := rfl
@[simp] theorem wrf_rflows (s : State) (r : Reg) (lo len v : Nat) : (wrf s r lo len v).rflows = s.rflows := rfl
@[simp] theorem wrf_nextFlow (s : State) (r : Reg) (lo len v : Nat) : (wrf s r lo len v).nextFlow = s.nextFlow := rfl
@[simp] theorem wrf_colIn (s : State) (r : Reg) (lo len v : Nat) : (wrf s r lo len v).colIn = s.colIn := rfl
@[simp] theorem wrf_cols (s : State) (r : Reg) (lo len v : Nat) : (wrf s r lo len v).cols = s.cols := rfl
@[simp] theorem wrf_qps (s : State) (r : Reg) (lo len v : Nat) : (wrf s r lo len v).qps = s.qps := rfl
@[simp] theorem wrf_hport (s : State) (r : Reg) (lo len v : Nat) : (wrf s r lo len v).hport = s.hport := rfl
@[simp] theorem wrf_tx (s : State) (r : Reg) (lo len v : Nat) : (wrf s r lo len v).tx = s.tx := rfl
@[simp] theorem wrf_held (s : State) (r : Reg) (lo len v : Nat) : (wrf s r lo len v).held = s.held := rfl
@[simp] theorem wrf_away (s : State) (r : Reg) (lo len v : Nat) : (wrf s r lo len v).away = s.away := rfl
@[simp] theorem wrf_colUnl (s : State) (r : Reg) (lo len v : Nat) : (wrf s r lo len v).colUnl = s.colUnl := rfl
@[simp] theorem wrf_keyRun (s : State) (r : Reg) (lo len v : Nat) : (wrf s r lo len v).keyRun = s.keyRun := rfl
@[simp] theorem wrf_repRun (s : State) (r : Reg) (lo len v : Nat) : (wrf s r lo len v).repRun = s.repRun := rfl
@[simp] theorem wrf_coldStarts (s : State) (r : Reg) (lo len v : Nat) : (wrf s r lo len v).coldStarts = s.coldStarts := rfl
@[simp] theorem wrf_ipfix (s : State) (r : Reg) (lo len v : Nat) : (wrf s r lo len v).ipfix = s.ipfix := rfl
@[simp] theorem wrf_loops (s : State) (r : Reg) (lo len v : Nat) : (wrf s r lo len v).loops = s.loops := rfl
@[simp] theorem wrf_alert (s : State) (r : Reg) (lo len v : Nat) : (wrf s r lo len v).alert = s.alert := rfl
@[simp] theorem wrf_stk (s : State) (r : Reg) (lo len v : Nat) : (wrf s r lo len v).stk = s.stk := rfl

/-! hput -/

@[simp] theorem hput_pending (s : State) (h : Nat) (x : Hearth) : (hput s h x).pending = s.pending := rfl
@[simp] theorem hput_now (s : State) (h : Nat) (x : Hearth) : (hput s h x).now = s.now := rfl
@[simp] theorem hput_fresh (s : State) (h : Nat) (x : Hearth) : (hput s h x).fresh = s.fresh := rfl
@[simp] theorem hput_dueAborts (s : State) (h : Nat) (x : Hearth) : (hput s h x).dueAborts = s.dueAborts := rfl
@[simp] theorem hput_dueHrt (s : State) (h : Nat) (x : Hearth) : (hput s h x).dueHrt = s.dueHrt := rfl
@[simp] theorem hput_csr (s : State) (h : Nat) (x : Hearth) : (hput s h x).csr = s.csr := rfl
@[simp] theorem hput_hearths (s : State) (h : Nat) (x : Hearth) : (hput s h x).hearths = tput s.hearths h x := rfl
@[simp] theorem hput_graphs (s : State) (h : Nat) (x : Hearth) : (hput s h x).graphs = s.graphs := rfl
@[simp] theorem hput_slices (s : State) (h : Nat) (x : Hearth) : (hput s h x).slices = s.slices := rfl
@[simp] theorem hput_mcast (s : State) (h : Nat) (x : Hearth) : (hput s h x).mcast = s.mcast := rfl
@[simp] theorem hput_hbm (s : State) (h : Nat) (x : Hearth) : (hput s h x).hbm = s.hbm := rfl
@[simp] theorem hput_xlts (s : State) (h : Nat) (x : Hearth) : (hput s h x).xlts = s.xlts := rfl
@[simp] theorem hput_walks (s : State) (h : Nat) (x : Hearth) : (hput s h x).walks = s.walks := rfl
@[simp] theorem hput_walkCache (s : State) (h : Nat) (x : Hearth) : (hput s h x).walkCache = s.walkCache := rfl
@[simp] theorem hput_parts (s : State) (h : Nat) (x : Hearth) : (hput s h x).parts = s.parts := rfl
@[simp] theorem hput_nextKey (s : State) (h : Nat) (x : Hearth) : (hput s h x).nextKey = s.nextKey := rfl
@[simp] theorem hput_links (s : State) (h : Nat) (x : Hearth) : (hput s h x).links = s.links := rfl
@[simp] theorem hput_ports (s : State) (h : Nat) (x : Hearth) : (hput s h x).ports = s.ports := rfl
@[simp] theorem hput_nextPkt (s : State) (h : Nat) (x : Hearth) : (hput s h x).nextPkt = s.nextPkt := rfl
@[simp] theorem hput_sflows (s : State) (h : Nat) (x : Hearth) : (hput s h x).sflows = s.sflows := rfl
@[simp] theorem hput_rflows (s : State) (h : Nat) (x : Hearth) : (hput s h x).rflows = s.rflows := rfl
@[simp] theorem hput_nextFlow (s : State) (h : Nat) (x : Hearth) : (hput s h x).nextFlow = s.nextFlow := rfl
@[simp] theorem hput_colIn (s : State) (h : Nat) (x : Hearth) : (hput s h x).colIn = s.colIn := rfl
@[simp] theorem hput_cols (s : State) (h : Nat) (x : Hearth) : (hput s h x).cols = s.cols := rfl
@[simp] theorem hput_qps (s : State) (h : Nat) (x : Hearth) : (hput s h x).qps = s.qps := rfl
@[simp] theorem hput_hport (s : State) (h : Nat) (x : Hearth) : (hput s h x).hport = s.hport := rfl
@[simp] theorem hput_tx (s : State) (h : Nat) (x : Hearth) : (hput s h x).tx = s.tx := rfl
@[simp] theorem hput_held (s : State) (h : Nat) (x : Hearth) : (hput s h x).held = s.held := rfl
@[simp] theorem hput_away (s : State) (h : Nat) (x : Hearth) : (hput s h x).away = s.away := rfl
@[simp] theorem hput_colUnl (s : State) (h : Nat) (x : Hearth) : (hput s h x).colUnl = s.colUnl := rfl
@[simp] theorem hput_keyRun (s : State) (h : Nat) (x : Hearth) : (hput s h x).keyRun = s.keyRun := rfl
@[simp] theorem hput_repRun (s : State) (h : Nat) (x : Hearth) : (hput s h x).repRun = s.repRun := rfl
@[simp] theorem hput_coldStarts (s : State) (h : Nat) (x : Hearth) : (hput s h x).coldStarts = s.coldStarts := rfl
@[simp] theorem hput_ipfix (s : State) (h : Nat) (x : Hearth) : (hput s h x).ipfix = s.ipfix := rfl
@[simp] theorem hput_loops (s : State) (h : Nat) (x : Hearth) : (hput s h x).loops = s.loops := rfl
@[simp] theorem hput_alert (s : State) (h : Nat) (x : Hearth) : (hput s h x).alert = s.alert := rfl
@[simp] theorem hput_stk (s : State) (h : Nat) (x : Hearth) : (hput s h x).stk = s.stk := rfl

/-! hmod -/

@[simp] theorem hmod_pending (s : State) (h : Nat) (f : Hearth → Hearth) : (hmod s h f).pending = s.pending := rfl
@[simp] theorem hmod_now (s : State) (h : Nat) (f : Hearth → Hearth) : (hmod s h f).now = s.now := rfl
@[simp] theorem hmod_fresh (s : State) (h : Nat) (f : Hearth → Hearth) : (hmod s h f).fresh = s.fresh := rfl
@[simp] theorem hmod_dueAborts (s : State) (h : Nat) (f : Hearth → Hearth) : (hmod s h f).dueAborts = s.dueAborts := rfl
@[simp] theorem hmod_dueHrt (s : State) (h : Nat) (f : Hearth → Hearth) : (hmod s h f).dueHrt = s.dueHrt := rfl
@[simp] theorem hmod_csr (s : State) (h : Nat) (f : Hearth → Hearth) : (hmod s h f).csr = s.csr := rfl
@[simp] theorem hmod_graphs (s : State) (h : Nat) (f : Hearth → Hearth) : (hmod s h f).graphs = s.graphs := rfl
@[simp] theorem hmod_slices (s : State) (h : Nat) (f : Hearth → Hearth) : (hmod s h f).slices = s.slices := rfl
@[simp] theorem hmod_mcast (s : State) (h : Nat) (f : Hearth → Hearth) : (hmod s h f).mcast = s.mcast := rfl
@[simp] theorem hmod_hbm (s : State) (h : Nat) (f : Hearth → Hearth) : (hmod s h f).hbm = s.hbm := rfl
@[simp] theorem hmod_xlts (s : State) (h : Nat) (f : Hearth → Hearth) : (hmod s h f).xlts = s.xlts := rfl
@[simp] theorem hmod_walks (s : State) (h : Nat) (f : Hearth → Hearth) : (hmod s h f).walks = s.walks := rfl
@[simp] theorem hmod_walkCache (s : State) (h : Nat) (f : Hearth → Hearth) : (hmod s h f).walkCache = s.walkCache := rfl
@[simp] theorem hmod_parts (s : State) (h : Nat) (f : Hearth → Hearth) : (hmod s h f).parts = s.parts := rfl
@[simp] theorem hmod_nextKey (s : State) (h : Nat) (f : Hearth → Hearth) : (hmod s h f).nextKey = s.nextKey := rfl
@[simp] theorem hmod_links (s : State) (h : Nat) (f : Hearth → Hearth) : (hmod s h f).links = s.links := rfl
@[simp] theorem hmod_ports (s : State) (h : Nat) (f : Hearth → Hearth) : (hmod s h f).ports = s.ports := rfl
@[simp] theorem hmod_nextPkt (s : State) (h : Nat) (f : Hearth → Hearth) : (hmod s h f).nextPkt = s.nextPkt := rfl
@[simp] theorem hmod_sflows (s : State) (h : Nat) (f : Hearth → Hearth) : (hmod s h f).sflows = s.sflows := rfl
@[simp] theorem hmod_rflows (s : State) (h : Nat) (f : Hearth → Hearth) : (hmod s h f).rflows = s.rflows := rfl
@[simp] theorem hmod_nextFlow (s : State) (h : Nat) (f : Hearth → Hearth) : (hmod s h f).nextFlow = s.nextFlow := rfl
@[simp] theorem hmod_colIn (s : State) (h : Nat) (f : Hearth → Hearth) : (hmod s h f).colIn = s.colIn := rfl
@[simp] theorem hmod_cols (s : State) (h : Nat) (f : Hearth → Hearth) : (hmod s h f).cols = s.cols := rfl
@[simp] theorem hmod_qps (s : State) (h : Nat) (f : Hearth → Hearth) : (hmod s h f).qps = s.qps := rfl
@[simp] theorem hmod_hport (s : State) (h : Nat) (f : Hearth → Hearth) : (hmod s h f).hport = s.hport := rfl
@[simp] theorem hmod_tx (s : State) (h : Nat) (f : Hearth → Hearth) : (hmod s h f).tx = s.tx := rfl
@[simp] theorem hmod_held (s : State) (h : Nat) (f : Hearth → Hearth) : (hmod s h f).held = s.held := rfl
@[simp] theorem hmod_away (s : State) (h : Nat) (f : Hearth → Hearth) : (hmod s h f).away = s.away := rfl
@[simp] theorem hmod_colUnl (s : State) (h : Nat) (f : Hearth → Hearth) : (hmod s h f).colUnl = s.colUnl := rfl
@[simp] theorem hmod_keyRun (s : State) (h : Nat) (f : Hearth → Hearth) : (hmod s h f).keyRun = s.keyRun := rfl
@[simp] theorem hmod_repRun (s : State) (h : Nat) (f : Hearth → Hearth) : (hmod s h f).repRun = s.repRun := rfl
@[simp] theorem hmod_coldStarts (s : State) (h : Nat) (f : Hearth → Hearth) : (hmod s h f).coldStarts = s.coldStarts := rfl
@[simp] theorem hmod_ipfix (s : State) (h : Nat) (f : Hearth → Hearth) : (hmod s h f).ipfix = s.ipfix := rfl
@[simp] theorem hmod_loops (s : State) (h : Nat) (f : Hearth → Hearth) : (hmod s h f).loops = s.loops := rfl
@[simp] theorem hmod_alert (s : State) (h : Nat) (f : Hearth → Hearth) : (hmod s h f).alert = s.alert := rfl
@[simp] theorem hmod_stk (s : State) (h : Nat) (f : Hearth → Hearth) : (hmod s h f).stk = s.stk := rfl

/-! vmod -/

@[simp] theorem vmod_pending (s : State) (h : Nat) (f : Vector → Vector) : (vmod s h f).pending = s.pending := rfl
@[simp] theorem vmod_now (s : State) (h : Nat) (f : Vector → Vector) : (vmod s h f).now = s.now := rfl
@[simp] theorem vmod_fresh (s : State) (h : Nat) (f : Vector → Vector) : (vmod s h f).fresh = s.fresh := rfl
@[simp] theorem vmod_dueAborts (s : State) (h : Nat) (f : Vector → Vector) : (vmod s h f).dueAborts = s.dueAborts := rfl
@[simp] theorem vmod_dueHrt (s : State) (h : Nat) (f : Vector → Vector) : (vmod s h f).dueHrt = s.dueHrt := rfl
@[simp] theorem vmod_csr (s : State) (h : Nat) (f : Vector → Vector) : (vmod s h f).csr = s.csr := rfl
@[simp] theorem vmod_graphs (s : State) (h : Nat) (f : Vector → Vector) : (vmod s h f).graphs = s.graphs := rfl
@[simp] theorem vmod_slices (s : State) (h : Nat) (f : Vector → Vector) : (vmod s h f).slices = s.slices := rfl
@[simp] theorem vmod_mcast (s : State) (h : Nat) (f : Vector → Vector) : (vmod s h f).mcast = s.mcast := rfl
@[simp] theorem vmod_hbm (s : State) (h : Nat) (f : Vector → Vector) : (vmod s h f).hbm = s.hbm := rfl
@[simp] theorem vmod_xlts (s : State) (h : Nat) (f : Vector → Vector) : (vmod s h f).xlts = s.xlts := rfl
@[simp] theorem vmod_walks (s : State) (h : Nat) (f : Vector → Vector) : (vmod s h f).walks = s.walks := rfl
@[simp] theorem vmod_walkCache (s : State) (h : Nat) (f : Vector → Vector) : (vmod s h f).walkCache = s.walkCache := rfl
@[simp] theorem vmod_parts (s : State) (h : Nat) (f : Vector → Vector) : (vmod s h f).parts = s.parts := rfl
@[simp] theorem vmod_nextKey (s : State) (h : Nat) (f : Vector → Vector) : (vmod s h f).nextKey = s.nextKey := rfl
@[simp] theorem vmod_links (s : State) (h : Nat) (f : Vector → Vector) : (vmod s h f).links = s.links := rfl
@[simp] theorem vmod_ports (s : State) (h : Nat) (f : Vector → Vector) : (vmod s h f).ports = s.ports := rfl
@[simp] theorem vmod_nextPkt (s : State) (h : Nat) (f : Vector → Vector) : (vmod s h f).nextPkt = s.nextPkt := rfl
@[simp] theorem vmod_sflows (s : State) (h : Nat) (f : Vector → Vector) : (vmod s h f).sflows = s.sflows := rfl
@[simp] theorem vmod_rflows (s : State) (h : Nat) (f : Vector → Vector) : (vmod s h f).rflows = s.rflows := rfl
@[simp] theorem vmod_nextFlow (s : State) (h : Nat) (f : Vector → Vector) : (vmod s h f).nextFlow = s.nextFlow := rfl
@[simp] theorem vmod_colIn (s : State) (h : Nat) (f : Vector → Vector) : (vmod s h f).colIn = s.colIn := rfl
@[simp] theorem vmod_cols (s : State) (h : Nat) (f : Vector → Vector) : (vmod s h f).cols = s.cols := rfl
@[simp] theorem vmod_qps (s : State) (h : Nat) (f : Vector → Vector) : (vmod s h f).qps = s.qps := rfl
@[simp] theorem vmod_hport (s : State) (h : Nat) (f : Vector → Vector) : (vmod s h f).hport = s.hport := rfl
@[simp] theorem vmod_tx (s : State) (h : Nat) (f : Vector → Vector) : (vmod s h f).tx = s.tx := rfl
@[simp] theorem vmod_held (s : State) (h : Nat) (f : Vector → Vector) : (vmod s h f).held = s.held := rfl
@[simp] theorem vmod_away (s : State) (h : Nat) (f : Vector → Vector) : (vmod s h f).away = s.away := rfl
@[simp] theorem vmod_colUnl (s : State) (h : Nat) (f : Vector → Vector) : (vmod s h f).colUnl = s.colUnl := rfl
@[simp] theorem vmod_keyRun (s : State) (h : Nat) (f : Vector → Vector) : (vmod s h f).keyRun = s.keyRun := rfl
@[simp] theorem vmod_repRun (s : State) (h : Nat) (f : Vector → Vector) : (vmod s h f).repRun = s.repRun := rfl
@[simp] theorem vmod_coldStarts (s : State) (h : Nat) (f : Vector → Vector) : (vmod s h f).coldStarts = s.coldStarts := rfl
@[simp] theorem vmod_ipfix (s : State) (h : Nat) (f : Vector → Vector) : (vmod s h f).ipfix = s.ipfix := rfl
@[simp] theorem vmod_loops (s : State) (h : Nat) (f : Vector → Vector) : (vmod s h f).loops = s.loops := rfl
@[simp] theorem vmod_alert (s : State) (h : Nat) (f : Vector → Vector) : (vmod s h f).alert = s.alert := rfl
@[simp] theorem vmod_stk (s : State) (h : Nat) (f : Vector → Vector) : (vmod s h f).stk = s.stk := rfl

/-! arrMod -/

@[simp] theorem arrMod_pending (s : State) (h a : Nat) (f : MxArray → MxArray) : (arrMod s h a f).pending = s.pending := rfl
@[simp] theorem arrMod_now (s : State) (h a : Nat) (f : MxArray → MxArray) : (arrMod s h a f).now = s.now := rfl
@[simp] theorem arrMod_fresh (s : State) (h a : Nat) (f : MxArray → MxArray) : (arrMod s h a f).fresh = s.fresh := rfl
@[simp] theorem arrMod_dueAborts (s : State) (h a : Nat) (f : MxArray → MxArray) : (arrMod s h a f).dueAborts = s.dueAborts := rfl
@[simp] theorem arrMod_dueHrt (s : State) (h a : Nat) (f : MxArray → MxArray) : (arrMod s h a f).dueHrt = s.dueHrt := rfl
@[simp] theorem arrMod_csr (s : State) (h a : Nat) (f : MxArray → MxArray) : (arrMod s h a f).csr = s.csr := rfl
@[simp] theorem arrMod_graphs (s : State) (h a : Nat) (f : MxArray → MxArray) : (arrMod s h a f).graphs = s.graphs := rfl
@[simp] theorem arrMod_slices (s : State) (h a : Nat) (f : MxArray → MxArray) : (arrMod s h a f).slices = s.slices := rfl
@[simp] theorem arrMod_mcast (s : State) (h a : Nat) (f : MxArray → MxArray) : (arrMod s h a f).mcast = s.mcast := rfl
@[simp] theorem arrMod_hbm (s : State) (h a : Nat) (f : MxArray → MxArray) : (arrMod s h a f).hbm = s.hbm := rfl
@[simp] theorem arrMod_xlts (s : State) (h a : Nat) (f : MxArray → MxArray) : (arrMod s h a f).xlts = s.xlts := rfl
@[simp] theorem arrMod_walks (s : State) (h a : Nat) (f : MxArray → MxArray) : (arrMod s h a f).walks = s.walks := rfl
@[simp] theorem arrMod_walkCache (s : State) (h a : Nat) (f : MxArray → MxArray) : (arrMod s h a f).walkCache = s.walkCache := rfl
@[simp] theorem arrMod_parts (s : State) (h a : Nat) (f : MxArray → MxArray) : (arrMod s h a f).parts = s.parts := rfl
@[simp] theorem arrMod_nextKey (s : State) (h a : Nat) (f : MxArray → MxArray) : (arrMod s h a f).nextKey = s.nextKey := rfl
@[simp] theorem arrMod_links (s : State) (h a : Nat) (f : MxArray → MxArray) : (arrMod s h a f).links = s.links := rfl
@[simp] theorem arrMod_ports (s : State) (h a : Nat) (f : MxArray → MxArray) : (arrMod s h a f).ports = s.ports := rfl
@[simp] theorem arrMod_nextPkt (s : State) (h a : Nat) (f : MxArray → MxArray) : (arrMod s h a f).nextPkt = s.nextPkt := rfl
@[simp] theorem arrMod_sflows (s : State) (h a : Nat) (f : MxArray → MxArray) : (arrMod s h a f).sflows = s.sflows := rfl
@[simp] theorem arrMod_rflows (s : State) (h a : Nat) (f : MxArray → MxArray) : (arrMod s h a f).rflows = s.rflows := rfl
@[simp] theorem arrMod_nextFlow (s : State) (h a : Nat) (f : MxArray → MxArray) : (arrMod s h a f).nextFlow = s.nextFlow := rfl
@[simp] theorem arrMod_colIn (s : State) (h a : Nat) (f : MxArray → MxArray) : (arrMod s h a f).colIn = s.colIn := rfl
@[simp] theorem arrMod_cols (s : State) (h a : Nat) (f : MxArray → MxArray) : (arrMod s h a f).cols = s.cols := rfl
@[simp] theorem arrMod_qps (s : State) (h a : Nat) (f : MxArray → MxArray) : (arrMod s h a f).qps = s.qps := rfl
@[simp] theorem arrMod_hport (s : State) (h a : Nat) (f : MxArray → MxArray) : (arrMod s h a f).hport = s.hport := rfl
@[simp] theorem arrMod_tx (s : State) (h a : Nat) (f : MxArray → MxArray) : (arrMod s h a f).tx = s.tx := rfl
@[simp] theorem arrMod_held (s : State) (h a : Nat) (f : MxArray → MxArray) : (arrMod s h a f).held = s.held := rfl
@[simp] theorem arrMod_away (s : State) (h a : Nat) (f : MxArray → MxArray) : (arrMod s h a f).away = s.away := rfl
@[simp] theorem arrMod_colUnl (s : State) (h a : Nat) (f : MxArray → MxArray) : (arrMod s h a f).colUnl = s.colUnl := rfl
@[simp] theorem arrMod_keyRun (s : State) (h a : Nat) (f : MxArray → MxArray) : (arrMod s h a f).keyRun = s.keyRun := rfl
@[simp] theorem arrMod_repRun (s : State) (h a : Nat) (f : MxArray → MxArray) : (arrMod s h a f).repRun = s.repRun := rfl
@[simp] theorem arrMod_coldStarts (s : State) (h a : Nat) (f : MxArray → MxArray) : (arrMod s h a f).coldStarts = s.coldStarts := rfl
@[simp] theorem arrMod_ipfix (s : State) (h a : Nat) (f : MxArray → MxArray) : (arrMod s h a f).ipfix = s.ipfix := rfl
@[simp] theorem arrMod_loops (s : State) (h a : Nat) (f : MxArray → MxArray) : (arrMod s h a f).loops = s.loops := rfl
@[simp] theorem arrMod_alert (s : State) (h a : Nat) (f : MxArray → MxArray) : (arrMod s h a f).alert = s.alert := rfl
@[simp] theorem arrMod_stk (s : State) (h a : Nat) (f : MxArray → MxArray) : (arrMod s h a f).stk = s.stk := rfl

/-! gput -/

@[simp] theorem gput_pending (s : State) (p : Nat) (x : GraphEng) : (gput s p x).pending = s.pending := rfl
@[simp] theorem gput_now (s : State) (p : Nat) (x : GraphEng) : (gput s p x).now = s.now := rfl
@[simp] theorem gput_fresh (s : State) (p : Nat) (x : GraphEng) : (gput s p x).fresh = s.fresh := rfl
@[simp] theorem gput_dueAborts (s : State) (p : Nat) (x : GraphEng) : (gput s p x).dueAborts = s.dueAborts := rfl
@[simp] theorem gput_dueHrt (s : State) (p : Nat) (x : GraphEng) : (gput s p x).dueHrt = s.dueHrt := rfl
@[simp] theorem gput_csr (s : State) (p : Nat) (x : GraphEng) : (gput s p x).csr = s.csr := rfl
@[simp] theorem gput_hearths (s : State) (p : Nat) (x : GraphEng) : (gput s p x).hearths = s.hearths := rfl
@[simp] theorem gput_graphs (s : State) (p : Nat) (x : GraphEng) : (gput s p x).graphs = tput s.graphs p x := rfl
@[simp] theorem gput_slices (s : State) (p : Nat) (x : GraphEng) : (gput s p x).slices = s.slices := rfl
@[simp] theorem gput_mcast (s : State) (p : Nat) (x : GraphEng) : (gput s p x).mcast = s.mcast := rfl
@[simp] theorem gput_hbm (s : State) (p : Nat) (x : GraphEng) : (gput s p x).hbm = s.hbm := rfl
@[simp] theorem gput_xlts (s : State) (p : Nat) (x : GraphEng) : (gput s p x).xlts = s.xlts := rfl
@[simp] theorem gput_walks (s : State) (p : Nat) (x : GraphEng) : (gput s p x).walks = s.walks := rfl
@[simp] theorem gput_walkCache (s : State) (p : Nat) (x : GraphEng) : (gput s p x).walkCache = s.walkCache := rfl
@[simp] theorem gput_parts (s : State) (p : Nat) (x : GraphEng) : (gput s p x).parts = s.parts := rfl
@[simp] theorem gput_nextKey (s : State) (p : Nat) (x : GraphEng) : (gput s p x).nextKey = s.nextKey := rfl
@[simp] theorem gput_links (s : State) (p : Nat) (x : GraphEng) : (gput s p x).links = s.links := rfl
@[simp] theorem gput_ports (s : State) (p : Nat) (x : GraphEng) : (gput s p x).ports = s.ports := rfl
@[simp] theorem gput_nextPkt (s : State) (p : Nat) (x : GraphEng) : (gput s p x).nextPkt = s.nextPkt := rfl
@[simp] theorem gput_sflows (s : State) (p : Nat) (x : GraphEng) : (gput s p x).sflows = s.sflows := rfl
@[simp] theorem gput_rflows (s : State) (p : Nat) (x : GraphEng) : (gput s p x).rflows = s.rflows := rfl
@[simp] theorem gput_nextFlow (s : State) (p : Nat) (x : GraphEng) : (gput s p x).nextFlow = s.nextFlow := rfl
@[simp] theorem gput_colIn (s : State) (p : Nat) (x : GraphEng) : (gput s p x).colIn = s.colIn := rfl
@[simp] theorem gput_cols (s : State) (p : Nat) (x : GraphEng) : (gput s p x).cols = s.cols := rfl
@[simp] theorem gput_qps (s : State) (p : Nat) (x : GraphEng) : (gput s p x).qps = s.qps := rfl
@[simp] theorem gput_hport (s : State) (p : Nat) (x : GraphEng) : (gput s p x).hport = s.hport := rfl
@[simp] theorem gput_tx (s : State) (p : Nat) (x : GraphEng) : (gput s p x).tx = s.tx := rfl
@[simp] theorem gput_held (s : State) (p : Nat) (x : GraphEng) : (gput s p x).held = s.held := rfl
@[simp] theorem gput_away (s : State) (p : Nat) (x : GraphEng) : (gput s p x).away = s.away := rfl
@[simp] theorem gput_colUnl (s : State) (p : Nat) (x : GraphEng) : (gput s p x).colUnl = s.colUnl := rfl
@[simp] theorem gput_keyRun (s : State) (p : Nat) (x : GraphEng) : (gput s p x).keyRun = s.keyRun := rfl
@[simp] theorem gput_repRun (s : State) (p : Nat) (x : GraphEng) : (gput s p x).repRun = s.repRun := rfl
@[simp] theorem gput_coldStarts (s : State) (p : Nat) (x : GraphEng) : (gput s p x).coldStarts = s.coldStarts := rfl
@[simp] theorem gput_ipfix (s : State) (p : Nat) (x : GraphEng) : (gput s p x).ipfix = s.ipfix := rfl
@[simp] theorem gput_loops (s : State) (p : Nat) (x : GraphEng) : (gput s p x).loops = s.loops := rfl
@[simp] theorem gput_alert (s : State) (p : Nat) (x : GraphEng) : (gput s p x).alert = s.alert := rfl
@[simp] theorem gput_stk (s : State) (p : Nat) (x : GraphEng) : (gput s p x).stk = s.stk := rfl

/-! gmod -/

@[simp] theorem gmod_pending (s : State) (p : Nat) (f : GraphEng → GraphEng) : (gmod s p f).pending = s.pending := rfl
@[simp] theorem gmod_now (s : State) (p : Nat) (f : GraphEng → GraphEng) : (gmod s p f).now = s.now := rfl
@[simp] theorem gmod_fresh (s : State) (p : Nat) (f : GraphEng → GraphEng) : (gmod s p f).fresh = s.fresh := rfl
@[simp] theorem gmod_dueAborts (s : State) (p : Nat) (f : GraphEng → GraphEng) : (gmod s p f).dueAborts = s.dueAborts := rfl
@[simp] theorem gmod_dueHrt (s : State) (p : Nat) (f : GraphEng → GraphEng) : (gmod s p f).dueHrt = s.dueHrt := rfl
@[simp] theorem gmod_csr (s : State) (p : Nat) (f : GraphEng → GraphEng) : (gmod s p f).csr = s.csr := rfl
@[simp] theorem gmod_hearths (s : State) (p : Nat) (f : GraphEng → GraphEng) : (gmod s p f).hearths = s.hearths := rfl
@[simp] theorem gmod_slices (s : State) (p : Nat) (f : GraphEng → GraphEng) : (gmod s p f).slices = s.slices := rfl
@[simp] theorem gmod_mcast (s : State) (p : Nat) (f : GraphEng → GraphEng) : (gmod s p f).mcast = s.mcast := rfl
@[simp] theorem gmod_hbm (s : State) (p : Nat) (f : GraphEng → GraphEng) : (gmod s p f).hbm = s.hbm := rfl
@[simp] theorem gmod_xlts (s : State) (p : Nat) (f : GraphEng → GraphEng) : (gmod s p f).xlts = s.xlts := rfl
@[simp] theorem gmod_walks (s : State) (p : Nat) (f : GraphEng → GraphEng) : (gmod s p f).walks = s.walks := rfl
@[simp] theorem gmod_walkCache (s : State) (p : Nat) (f : GraphEng → GraphEng) : (gmod s p f).walkCache = s.walkCache := rfl
@[simp] theorem gmod_parts (s : State) (p : Nat) (f : GraphEng → GraphEng) : (gmod s p f).parts = s.parts := rfl
@[simp] theorem gmod_nextKey (s : State) (p : Nat) (f : GraphEng → GraphEng) : (gmod s p f).nextKey = s.nextKey := rfl
@[simp] theorem gmod_links (s : State) (p : Nat) (f : GraphEng → GraphEng) : (gmod s p f).links = s.links := rfl
@[simp] theorem gmod_ports (s : State) (p : Nat) (f : GraphEng → GraphEng) : (gmod s p f).ports = s.ports := rfl
@[simp] theorem gmod_nextPkt (s : State) (p : Nat) (f : GraphEng → GraphEng) : (gmod s p f).nextPkt = s.nextPkt := rfl
@[simp] theorem gmod_sflows (s : State) (p : Nat) (f : GraphEng → GraphEng) : (gmod s p f).sflows = s.sflows := rfl
@[simp] theorem gmod_rflows (s : State) (p : Nat) (f : GraphEng → GraphEng) : (gmod s p f).rflows = s.rflows := rfl
@[simp] theorem gmod_nextFlow (s : State) (p : Nat) (f : GraphEng → GraphEng) : (gmod s p f).nextFlow = s.nextFlow := rfl
@[simp] theorem gmod_colIn (s : State) (p : Nat) (f : GraphEng → GraphEng) : (gmod s p f).colIn = s.colIn := rfl
@[simp] theorem gmod_cols (s : State) (p : Nat) (f : GraphEng → GraphEng) : (gmod s p f).cols = s.cols := rfl
@[simp] theorem gmod_qps (s : State) (p : Nat) (f : GraphEng → GraphEng) : (gmod s p f).qps = s.qps := rfl
@[simp] theorem gmod_hport (s : State) (p : Nat) (f : GraphEng → GraphEng) : (gmod s p f).hport = s.hport := rfl
@[simp] theorem gmod_tx (s : State) (p : Nat) (f : GraphEng → GraphEng) : (gmod s p f).tx = s.tx := rfl
@[simp] theorem gmod_held (s : State) (p : Nat) (f : GraphEng → GraphEng) : (gmod s p f).held = s.held := rfl
@[simp] theorem gmod_away (s : State) (p : Nat) (f : GraphEng → GraphEng) : (gmod s p f).away = s.away := rfl
@[simp] theorem gmod_colUnl (s : State) (p : Nat) (f : GraphEng → GraphEng) : (gmod s p f).colUnl = s.colUnl := rfl
@[simp] theorem gmod_keyRun (s : State) (p : Nat) (f : GraphEng → GraphEng) : (gmod s p f).keyRun = s.keyRun := rfl
@[simp] theorem gmod_repRun (s : State) (p : Nat) (f : GraphEng → GraphEng) : (gmod s p f).repRun = s.repRun := rfl
@[simp] theorem gmod_coldStarts (s : State) (p : Nat) (f : GraphEng → GraphEng) : (gmod s p f).coldStarts = s.coldStarts := rfl
@[simp] theorem gmod_ipfix (s : State) (p : Nat) (f : GraphEng → GraphEng) : (gmod s p f).ipfix = s.ipfix := rfl
@[simp] theorem gmod_loops (s : State) (p : Nat) (f : GraphEng → GraphEng) : (gmod s p f).loops = s.loops := rfl
@[simp] theorem gmod_alert (s : State) (p : Nat) (f : GraphEng → GraphEng) : (gmod s p f).alert = s.alert := rfl
@[simp] theorem gmod_stk (s : State) (p : Nat) (f : GraphEng → GraphEng) : (gmod s p f).stk = s.stk := rfl

/-! slPut -/

@[simp] theorem slPut_pending (s : State) (sl : Nat) (x : Slice) : (slPut s sl x).pending = s.pending := rfl
@[simp] theorem slPut_now (s : State) (sl : Nat) (x : Slice) : (slPut s sl x).now = s.now := rfl
@[simp] theorem slPut_fresh (s : State) (sl : Nat) (x : Slice) : (slPut s sl x).fresh = s.fresh := rfl
@[simp] theorem slPut_dueAborts (s : State) (sl : Nat) (x : Slice) : (slPut s sl x).dueAborts = s.dueAborts := rfl
@[simp] theorem slPut_dueHrt (s : State) (sl : Nat) (x : Slice) : (slPut s sl x).dueHrt = s.dueHrt := rfl
@[simp] theorem slPut_csr (s : State) (sl : Nat) (x : Slice) : (slPut s sl x).csr = s.csr := rfl
@[simp] theorem slPut_hearths (s : State) (sl : Nat) (x : Slice) : (slPut s sl x).hearths = s.hearths := rfl
@[simp] theorem slPut_graphs (s : State) (sl : Nat) (x : Slice) : (slPut s sl x).graphs = s.graphs := rfl
@[simp] theorem slPut_slices (s : State) (sl : Nat) (x : Slice) : (slPut s sl x).slices = tput s.slices sl x := rfl
@[simp] theorem slPut_mcast (s : State) (sl : Nat) (x : Slice) : (slPut s sl x).mcast = s.mcast := rfl
@[simp] theorem slPut_hbm (s : State) (sl : Nat) (x : Slice) : (slPut s sl x).hbm = s.hbm := rfl
@[simp] theorem slPut_xlts (s : State) (sl : Nat) (x : Slice) : (slPut s sl x).xlts = s.xlts := rfl
@[simp] theorem slPut_walks (s : State) (sl : Nat) (x : Slice) : (slPut s sl x).walks = s.walks := rfl
@[simp] theorem slPut_walkCache (s : State) (sl : Nat) (x : Slice) : (slPut s sl x).walkCache = s.walkCache := rfl
@[simp] theorem slPut_parts (s : State) (sl : Nat) (x : Slice) : (slPut s sl x).parts = s.parts := rfl
@[simp] theorem slPut_nextKey (s : State) (sl : Nat) (x : Slice) : (slPut s sl x).nextKey = s.nextKey := rfl
@[simp] theorem slPut_links (s : State) (sl : Nat) (x : Slice) : (slPut s sl x).links = s.links := rfl
@[simp] theorem slPut_ports (s : State) (sl : Nat) (x : Slice) : (slPut s sl x).ports = s.ports := rfl
@[simp] theorem slPut_nextPkt (s : State) (sl : Nat) (x : Slice) : (slPut s sl x).nextPkt = s.nextPkt := rfl
@[simp] theorem slPut_sflows (s : State) (sl : Nat) (x : Slice) : (slPut s sl x).sflows = s.sflows := rfl
@[simp] theorem slPut_rflows (s : State) (sl : Nat) (x : Slice) : (slPut s sl x).rflows = s.rflows := rfl
@[simp] theorem slPut_nextFlow (s : State) (sl : Nat) (x : Slice) : (slPut s sl x).nextFlow = s.nextFlow := rfl
@[simp] theorem slPut_colIn (s : State) (sl : Nat) (x : Slice) : (slPut s sl x).colIn = s.colIn := rfl
@[simp] theorem slPut_cols (s : State) (sl : Nat) (x : Slice) : (slPut s sl x).cols = s.cols := rfl
@[simp] theorem slPut_qps (s : State) (sl : Nat) (x : Slice) : (slPut s sl x).qps = s.qps := rfl
@[simp] theorem slPut_hport (s : State) (sl : Nat) (x : Slice) : (slPut s sl x).hport = s.hport := rfl
@[simp] theorem slPut_tx (s : State) (sl : Nat) (x : Slice) : (slPut s sl x).tx = s.tx := rfl
@[simp] theorem slPut_held (s : State) (sl : Nat) (x : Slice) : (slPut s sl x).held = s.held := rfl
@[simp] theorem slPut_away (s : State) (sl : Nat) (x : Slice) : (slPut s sl x).away = s.away := rfl
@[simp] theorem slPut_colUnl (s : State) (sl : Nat) (x : Slice) : (slPut s sl x).colUnl = s.colUnl := rfl
@[simp] theorem slPut_keyRun (s : State) (sl : Nat) (x : Slice) : (slPut s sl x).keyRun = s.keyRun := rfl
@[simp] theorem slPut_repRun (s : State) (sl : Nat) (x : Slice) : (slPut s sl x).repRun = s.repRun := rfl
@[simp] theorem slPut_coldStarts (s : State) (sl : Nat) (x : Slice) : (slPut s sl x).coldStarts = s.coldStarts := rfl
@[simp] theorem slPut_ipfix (s : State) (sl : Nat) (x : Slice) : (slPut s sl x).ipfix = s.ipfix := rfl
@[simp] theorem slPut_loops (s : State) (sl : Nat) (x : Slice) : (slPut s sl x).loops = s.loops := rfl
@[simp] theorem slPut_alert (s : State) (sl : Nat) (x : Slice) : (slPut s sl x).alert = s.alert := rfl
@[simp] theorem slPut_stk (s : State) (sl : Nat) (x : Slice) : (slPut s sl x).stk = s.stk := rfl

/-! slMod -/

@[simp] theorem slMod_pending (s : State) (sl : Nat) (f : Slice → Slice) : (slMod s sl f).pending = s.pending := rfl
@[simp] theorem slMod_now (s : State) (sl : Nat) (f : Slice → Slice) : (slMod s sl f).now = s.now := rfl
@[simp] theorem slMod_fresh (s : State) (sl : Nat) (f : Slice → Slice) : (slMod s sl f).fresh = s.fresh := rfl
@[simp] theorem slMod_dueAborts (s : State) (sl : Nat) (f : Slice → Slice) : (slMod s sl f).dueAborts = s.dueAborts := rfl
@[simp] theorem slMod_dueHrt (s : State) (sl : Nat) (f : Slice → Slice) : (slMod s sl f).dueHrt = s.dueHrt := rfl
@[simp] theorem slMod_csr (s : State) (sl : Nat) (f : Slice → Slice) : (slMod s sl f).csr = s.csr := rfl
@[simp] theorem slMod_hearths (s : State) (sl : Nat) (f : Slice → Slice) : (slMod s sl f).hearths = s.hearths := rfl
@[simp] theorem slMod_graphs (s : State) (sl : Nat) (f : Slice → Slice) : (slMod s sl f).graphs = s.graphs := rfl
@[simp] theorem slMod_mcast (s : State) (sl : Nat) (f : Slice → Slice) : (slMod s sl f).mcast = s.mcast := rfl
@[simp] theorem slMod_hbm (s : State) (sl : Nat) (f : Slice → Slice) : (slMod s sl f).hbm = s.hbm := rfl
@[simp] theorem slMod_xlts (s : State) (sl : Nat) (f : Slice → Slice) : (slMod s sl f).xlts = s.xlts := rfl
@[simp] theorem slMod_walks (s : State) (sl : Nat) (f : Slice → Slice) : (slMod s sl f).walks = s.walks := rfl
@[simp] theorem slMod_walkCache (s : State) (sl : Nat) (f : Slice → Slice) : (slMod s sl f).walkCache = s.walkCache := rfl
@[simp] theorem slMod_parts (s : State) (sl : Nat) (f : Slice → Slice) : (slMod s sl f).parts = s.parts := rfl
@[simp] theorem slMod_nextKey (s : State) (sl : Nat) (f : Slice → Slice) : (slMod s sl f).nextKey = s.nextKey := rfl
@[simp] theorem slMod_links (s : State) (sl : Nat) (f : Slice → Slice) : (slMod s sl f).links = s.links := rfl
@[simp] theorem slMod_ports (s : State) (sl : Nat) (f : Slice → Slice) : (slMod s sl f).ports = s.ports := rfl
@[simp] theorem slMod_nextPkt (s : State) (sl : Nat) (f : Slice → Slice) : (slMod s sl f).nextPkt = s.nextPkt := rfl
@[simp] theorem slMod_sflows (s : State) (sl : Nat) (f : Slice → Slice) : (slMod s sl f).sflows = s.sflows := rfl
@[simp] theorem slMod_rflows (s : State) (sl : Nat) (f : Slice → Slice) : (slMod s sl f).rflows = s.rflows := rfl
@[simp] theorem slMod_nextFlow (s : State) (sl : Nat) (f : Slice → Slice) : (slMod s sl f).nextFlow = s.nextFlow := rfl
@[simp] theorem slMod_colIn (s : State) (sl : Nat) (f : Slice → Slice) : (slMod s sl f).colIn = s.colIn := rfl
@[simp] theorem slMod_cols (s : State) (sl : Nat) (f : Slice → Slice) : (slMod s sl f).cols = s.cols := rfl
@[simp] theorem slMod_qps (s : State) (sl : Nat) (f : Slice → Slice) : (slMod s sl f).qps = s.qps := rfl
@[simp] theorem slMod_hport (s : State) (sl : Nat) (f : Slice → Slice) : (slMod s sl f).hport = s.hport := rfl
@[simp] theorem slMod_tx (s : State) (sl : Nat) (f : Slice → Slice) : (slMod s sl f).tx = s.tx := rfl
@[simp] theorem slMod_held (s : State) (sl : Nat) (f : Slice → Slice) : (slMod s sl f).held = s.held := rfl
@[simp] theorem slMod_away (s : State) (sl : Nat) (f : Slice → Slice) : (slMod s sl f).away = s.away := rfl
@[simp] theorem slMod_colUnl (s : State) (sl : Nat) (f : Slice → Slice) : (slMod s sl f).colUnl = s.colUnl := rfl
@[simp] theorem slMod_keyRun (s : State) (sl : Nat) (f : Slice → Slice) : (slMod s sl f).keyRun = s.keyRun := rfl
@[simp] theorem slMod_repRun (s : State) (sl : Nat) (f : Slice → Slice) : (slMod s sl f).repRun = s.repRun := rfl
@[simp] theorem slMod_coldStarts (s : State) (sl : Nat) (f : Slice → Slice) : (slMod s sl f).coldStarts = s.coldStarts := rfl
@[simp] theorem slMod_ipfix (s : State) (sl : Nat) (f : Slice → Slice) : (slMod s sl f).ipfix = s.ipfix := rfl
@[simp] theorem slMod_loops (s : State) (sl : Nat) (f : Slice → Slice) : (slMod s sl f).loops = s.loops := rfl
@[simp] theorem slMod_alert (s : State) (sl : Nat) (f : Slice → Slice) : (slMod s sl f).alert = s.alert := rfl
@[simp] theorem slMod_stk (s : State) (sl : Nat) (f : Slice → Slice) : (slMod s sl f).stk = s.stk := rfl

/-! pcPut -/

@[simp] theorem pcPut_pending (s : State) (k p : Nat) (x : PsCh) : (pcPut s k p x).pending = s.pending := rfl
@[simp] theorem pcPut_now (s : State) (k p : Nat) (x : PsCh) : (pcPut s k p x).now = s.now := rfl
@[simp] theorem pcPut_fresh (s : State) (k p : Nat) (x : PsCh) : (pcPut s k p x).fresh = s.fresh := rfl
@[simp] theorem pcPut_dueAborts (s : State) (k p : Nat) (x : PsCh) : (pcPut s k p x).dueAborts = s.dueAborts := rfl
@[simp] theorem pcPut_dueHrt (s : State) (k p : Nat) (x : PsCh) : (pcPut s k p x).dueHrt = s.dueHrt := rfl
@[simp] theorem pcPut_csr (s : State) (k p : Nat) (x : PsCh) : (pcPut s k p x).csr = s.csr := rfl
@[simp] theorem pcPut_hearths (s : State) (k p : Nat) (x : PsCh) : (pcPut s k p x).hearths = s.hearths := rfl
@[simp] theorem pcPut_graphs (s : State) (k p : Nat) (x : PsCh) : (pcPut s k p x).graphs = s.graphs := rfl
@[simp] theorem pcPut_slices (s : State) (k p : Nat) (x : PsCh) : (pcPut s k p x).slices = s.slices := rfl
@[simp] theorem pcPut_mcast (s : State) (k p : Nat) (x : PsCh) : (pcPut s k p x).mcast = s.mcast := rfl
@[simp] theorem pcPut_xlts (s : State) (k p : Nat) (x : PsCh) : (pcPut s k p x).xlts = s.xlts := rfl
@[simp] theorem pcPut_walks (s : State) (k p : Nat) (x : PsCh) : (pcPut s k p x).walks = s.walks := rfl
@[simp] theorem pcPut_walkCache (s : State) (k p : Nat) (x : PsCh) : (pcPut s k p x).walkCache = s.walkCache := rfl
@[simp] theorem pcPut_parts (s : State) (k p : Nat) (x : PsCh) : (pcPut s k p x).parts = s.parts := rfl
@[simp] theorem pcPut_nextKey (s : State) (k p : Nat) (x : PsCh) : (pcPut s k p x).nextKey = s.nextKey := rfl
@[simp] theorem pcPut_links (s : State) (k p : Nat) (x : PsCh) : (pcPut s k p x).links = s.links := rfl
@[simp] theorem pcPut_ports (s : State) (k p : Nat) (x : PsCh) : (pcPut s k p x).ports = s.ports := rfl
@[simp] theorem pcPut_nextPkt (s : State) (k p : Nat) (x : PsCh) : (pcPut s k p x).nextPkt = s.nextPkt := rfl
@[simp] theorem pcPut_sflows (s : State) (k p : Nat) (x : PsCh) : (pcPut s k p x).sflows = s.sflows := rfl
@[simp] theorem pcPut_rflows (s : State) (k p : Nat) (x : PsCh) : (pcPut s k p x).rflows = s.rflows := rfl
@[simp] theorem pcPut_nextFlow (s : State) (k p : Nat) (x : PsCh) : (pcPut s k p x).nextFlow = s.nextFlow := rfl
@[simp] theorem pcPut_colIn (s : State) (k p : Nat) (x : PsCh) : (pcPut s k p x).colIn = s.colIn := rfl
@[simp] theorem pcPut_cols (s : State) (k p : Nat) (x : PsCh) : (pcPut s k p x).cols = s.cols := rfl
@[simp] theorem pcPut_qps (s : State) (k p : Nat) (x : PsCh) : (pcPut s k p x).qps = s.qps := rfl
@[simp] theorem pcPut_hport (s : State) (k p : Nat) (x : PsCh) : (pcPut s k p x).hport = s.hport := rfl
@[simp] theorem pcPut_tx (s : State) (k p : Nat) (x : PsCh) : (pcPut s k p x).tx = s.tx := rfl
@[simp] theorem pcPut_held (s : State) (k p : Nat) (x : PsCh) : (pcPut s k p x).held = s.held := rfl
@[simp] theorem pcPut_away (s : State) (k p : Nat) (x : PsCh) : (pcPut s k p x).away = s.away := rfl
@[simp] theorem pcPut_colUnl (s : State) (k p : Nat) (x : PsCh) : (pcPut s k p x).colUnl = s.colUnl := rfl
@[simp] theorem pcPut_keyRun (s : State) (k p : Nat) (x : PsCh) : (pcPut s k p x).keyRun = s.keyRun := rfl
@[simp] theorem pcPut_repRun (s : State) (k p : Nat) (x : PsCh) : (pcPut s k p x).repRun = s.repRun := rfl
@[simp] theorem pcPut_coldStarts (s : State) (k p : Nat) (x : PsCh) : (pcPut s k p x).coldStarts = s.coldStarts := rfl
@[simp] theorem pcPut_ipfix (s : State) (k p : Nat) (x : PsCh) : (pcPut s k p x).ipfix = s.ipfix := rfl
@[simp] theorem pcPut_loops (s : State) (k p : Nat) (x : PsCh) : (pcPut s k p x).loops = s.loops := rfl
@[simp] theorem pcPut_alert (s : State) (k p : Nat) (x : PsCh) : (pcPut s k p x).alert = s.alert := rfl
@[simp] theorem pcPut_stk (s : State) (k p : Nat) (x : PsCh) : (pcPut s k p x).stk = s.stk := rfl

/-! stkPut -/

@[simp] theorem stkPut_pending (s : State) (k : Nat) (x : Stack) : (stkPut s k x).pending = s.pending := rfl
@[simp] theorem stkPut_now (s : State) (k : Nat) (x : Stack) : (stkPut s k x).now = s.now := rfl
@[simp] theorem stkPut_fresh (s : State) (k : Nat) (x : Stack) : (stkPut s k x).fresh = s.fresh := rfl
@[simp] theorem stkPut_dueAborts (s : State) (k : Nat) (x : Stack) : (stkPut s k x).dueAborts = s.dueAborts := rfl
@[simp] theorem stkPut_dueHrt (s : State) (k : Nat) (x : Stack) : (stkPut s k x).dueHrt = s.dueHrt := rfl
@[simp] theorem stkPut_csr (s : State) (k : Nat) (x : Stack) : (stkPut s k x).csr = s.csr := rfl
@[simp] theorem stkPut_hearths (s : State) (k : Nat) (x : Stack) : (stkPut s k x).hearths = s.hearths := rfl
@[simp] theorem stkPut_graphs (s : State) (k : Nat) (x : Stack) : (stkPut s k x).graphs = s.graphs := rfl
@[simp] theorem stkPut_slices (s : State) (k : Nat) (x : Stack) : (stkPut s k x).slices = s.slices := rfl
@[simp] theorem stkPut_mcast (s : State) (k : Nat) (x : Stack) : (stkPut s k x).mcast = s.mcast := rfl
@[simp] theorem stkPut_xlts (s : State) (k : Nat) (x : Stack) : (stkPut s k x).xlts = s.xlts := rfl
@[simp] theorem stkPut_walks (s : State) (k : Nat) (x : Stack) : (stkPut s k x).walks = s.walks := rfl
@[simp] theorem stkPut_walkCache (s : State) (k : Nat) (x : Stack) : (stkPut s k x).walkCache = s.walkCache := rfl
@[simp] theorem stkPut_parts (s : State) (k : Nat) (x : Stack) : (stkPut s k x).parts = s.parts := rfl
@[simp] theorem stkPut_nextKey (s : State) (k : Nat) (x : Stack) : (stkPut s k x).nextKey = s.nextKey := rfl
@[simp] theorem stkPut_links (s : State) (k : Nat) (x : Stack) : (stkPut s k x).links = s.links := rfl
@[simp] theorem stkPut_ports (s : State) (k : Nat) (x : Stack) : (stkPut s k x).ports = s.ports := rfl
@[simp] theorem stkPut_nextPkt (s : State) (k : Nat) (x : Stack) : (stkPut s k x).nextPkt = s.nextPkt := rfl
@[simp] theorem stkPut_sflows (s : State) (k : Nat) (x : Stack) : (stkPut s k x).sflows = s.sflows := rfl
@[simp] theorem stkPut_rflows (s : State) (k : Nat) (x : Stack) : (stkPut s k x).rflows = s.rflows := rfl
@[simp] theorem stkPut_nextFlow (s : State) (k : Nat) (x : Stack) : (stkPut s k x).nextFlow = s.nextFlow := rfl
@[simp] theorem stkPut_colIn (s : State) (k : Nat) (x : Stack) : (stkPut s k x).colIn = s.colIn := rfl
@[simp] theorem stkPut_cols (s : State) (k : Nat) (x : Stack) : (stkPut s k x).cols = s.cols := rfl
@[simp] theorem stkPut_qps (s : State) (k : Nat) (x : Stack) : (stkPut s k x).qps = s.qps := rfl
@[simp] theorem stkPut_hport (s : State) (k : Nat) (x : Stack) : (stkPut s k x).hport = s.hport := rfl
@[simp] theorem stkPut_tx (s : State) (k : Nat) (x : Stack) : (stkPut s k x).tx = s.tx := rfl
@[simp] theorem stkPut_held (s : State) (k : Nat) (x : Stack) : (stkPut s k x).held = s.held := rfl
@[simp] theorem stkPut_away (s : State) (k : Nat) (x : Stack) : (stkPut s k x).away = s.away := rfl
@[simp] theorem stkPut_colUnl (s : State) (k : Nat) (x : Stack) : (stkPut s k x).colUnl = s.colUnl := rfl
@[simp] theorem stkPut_keyRun (s : State) (k : Nat) (x : Stack) : (stkPut s k x).keyRun = s.keyRun := rfl
@[simp] theorem stkPut_repRun (s : State) (k : Nat) (x : Stack) : (stkPut s k x).repRun = s.repRun := rfl
@[simp] theorem stkPut_coldStarts (s : State) (k : Nat) (x : Stack) : (stkPut s k x).coldStarts = s.coldStarts := rfl
@[simp] theorem stkPut_ipfix (s : State) (k : Nat) (x : Stack) : (stkPut s k x).ipfix = s.ipfix := rfl
@[simp] theorem stkPut_loops (s : State) (k : Nat) (x : Stack) : (stkPut s k x).loops = s.loops := rfl
@[simp] theorem stkPut_alert (s : State) (k : Nat) (x : Stack) : (stkPut s k x).alert = s.alert := rfl
@[simp] theorem stkPut_stk (s : State) (k : Nat) (x : Stack) : (stkPut s k x).stk = s.stk := rfl

/-! qpPut -/

@[simp] theorem qpPut_pending (s : State) (q : Nat) (x : QPair) : (qpPut s q x).pending = s.pending := rfl
@[simp] theorem qpPut_now (s : State) (q : Nat) (x : QPair) : (qpPut s q x).now = s.now := rfl
@[simp] theorem qpPut_fresh (s : State) (q : Nat) (x : QPair) : (qpPut s q x).fresh = s.fresh := rfl
@[simp] theorem qpPut_dueAborts (s : State) (q : Nat) (x : QPair) : (qpPut s q x).dueAborts = s.dueAborts := rfl
@[simp] theorem qpPut_dueHrt (s : State) (q : Nat) (x : QPair) : (qpPut s q x).dueHrt = s.dueHrt := rfl
@[simp] theorem qpPut_csr (s : State) (q : Nat) (x : QPair) : (qpPut s q x).csr = s.csr := rfl
@[simp] theorem qpPut_hearths (s : State) (q : Nat) (x : QPair) : (qpPut s q x).hearths = s.hearths := rfl
@[simp] theorem qpPut_graphs (s : State) (q : Nat) (x : QPair) : (qpPut s q x).graphs = s.graphs := rfl
@[simp] theorem qpPut_slices (s : State) (q : Nat) (x : QPair) : (qpPut s q x).slices = s.slices := rfl
@[simp] theorem qpPut_mcast (s : State) (q : Nat) (x : QPair) : (qpPut s q x).mcast = s.mcast := rfl
@[simp] theorem qpPut_hbm (s : State) (q : Nat) (x : QPair) : (qpPut s q x).hbm = s.hbm := rfl
@[simp] theorem qpPut_xlts (s : State) (q : Nat) (x : QPair) : (qpPut s q x).xlts = s.xlts := rfl
@[simp] theorem qpPut_walks (s : State) (q : Nat) (x : QPair) : (qpPut s q x).walks = s.walks := rfl
@[simp] theorem qpPut_walkCache (s : State) (q : Nat) (x : QPair) : (qpPut s q x).walkCache = s.walkCache := rfl
@[simp] theorem qpPut_parts (s : State) (q : Nat) (x : QPair) : (qpPut s q x).parts = s.parts := rfl
@[simp] theorem qpPut_nextKey (s : State) (q : Nat) (x : QPair) : (qpPut s q x).nextKey = s.nextKey := rfl
@[simp] theorem qpPut_links (s : State) (q : Nat) (x : QPair) : (qpPut s q x).links = s.links := rfl
@[simp] theorem qpPut_ports (s : State) (q : Nat) (x : QPair) : (qpPut s q x).ports = s.ports := rfl
@[simp] theorem qpPut_nextPkt (s : State) (q : Nat) (x : QPair) : (qpPut s q x).nextPkt = s.nextPkt := rfl
@[simp] theorem qpPut_sflows (s : State) (q : Nat) (x : QPair) : (qpPut s q x).sflows = s.sflows := rfl
@[simp] theorem qpPut_rflows (s : State) (q : Nat) (x : QPair) : (qpPut s q x).rflows = s.rflows := rfl
@[simp] theorem qpPut_nextFlow (s : State) (q : Nat) (x : QPair) : (qpPut s q x).nextFlow = s.nextFlow := rfl
@[simp] theorem qpPut_colIn (s : State) (q : Nat) (x : QPair) : (qpPut s q x).colIn = s.colIn := rfl
@[simp] theorem qpPut_cols (s : State) (q : Nat) (x : QPair) : (qpPut s q x).cols = s.cols := rfl
@[simp] theorem qpPut_qps (s : State) (q : Nat) (x : QPair) : (qpPut s q x).qps = tput s.qps q x := rfl
@[simp] theorem qpPut_hport (s : State) (q : Nat) (x : QPair) : (qpPut s q x).hport = s.hport := rfl
@[simp] theorem qpPut_tx (s : State) (q : Nat) (x : QPair) : (qpPut s q x).tx = s.tx := rfl
@[simp] theorem qpPut_held (s : State) (q : Nat) (x : QPair) : (qpPut s q x).held = s.held := rfl
@[simp] theorem qpPut_away (s : State) (q : Nat) (x : QPair) : (qpPut s q x).away = s.away := rfl
@[simp] theorem qpPut_colUnl (s : State) (q : Nat) (x : QPair) : (qpPut s q x).colUnl = s.colUnl := rfl
@[simp] theorem qpPut_keyRun (s : State) (q : Nat) (x : QPair) : (qpPut s q x).keyRun = s.keyRun := rfl
@[simp] theorem qpPut_repRun (s : State) (q : Nat) (x : QPair) : (qpPut s q x).repRun = s.repRun := rfl
@[simp] theorem qpPut_coldStarts (s : State) (q : Nat) (x : QPair) : (qpPut s q x).coldStarts = s.coldStarts := rfl
@[simp] theorem qpPut_ipfix (s : State) (q : Nat) (x : QPair) : (qpPut s q x).ipfix = s.ipfix := rfl
@[simp] theorem qpPut_loops (s : State) (q : Nat) (x : QPair) : (qpPut s q x).loops = s.loops := rfl
@[simp] theorem qpPut_alert (s : State) (q : Nat) (x : QPair) : (qpPut s q x).alert = s.alert := rfl
@[simp] theorem qpPut_stk (s : State) (q : Nat) (x : QPair) : (qpPut s q x).stk = s.stk := rfl

/-! qpMod -/

@[simp] theorem qpMod_pending (s : State) (q : Nat) (f : QPair → QPair) : (qpMod s q f).pending = s.pending := rfl
@[simp] theorem qpMod_now (s : State) (q : Nat) (f : QPair → QPair) : (qpMod s q f).now = s.now := rfl
@[simp] theorem qpMod_fresh (s : State) (q : Nat) (f : QPair → QPair) : (qpMod s q f).fresh = s.fresh := rfl
@[simp] theorem qpMod_dueAborts (s : State) (q : Nat) (f : QPair → QPair) : (qpMod s q f).dueAborts = s.dueAborts := rfl
@[simp] theorem qpMod_dueHrt (s : State) (q : Nat) (f : QPair → QPair) : (qpMod s q f).dueHrt = s.dueHrt := rfl
@[simp] theorem qpMod_csr (s : State) (q : Nat) (f : QPair → QPair) : (qpMod s q f).csr = s.csr := rfl
@[simp] theorem qpMod_hearths (s : State) (q : Nat) (f : QPair → QPair) : (qpMod s q f).hearths = s.hearths := rfl
@[simp] theorem qpMod_graphs (s : State) (q : Nat) (f : QPair → QPair) : (qpMod s q f).graphs = s.graphs := rfl
@[simp] theorem qpMod_slices (s : State) (q : Nat) (f : QPair → QPair) : (qpMod s q f).slices = s.slices := rfl
@[simp] theorem qpMod_mcast (s : State) (q : Nat) (f : QPair → QPair) : (qpMod s q f).mcast = s.mcast := rfl
@[simp] theorem qpMod_hbm (s : State) (q : Nat) (f : QPair → QPair) : (qpMod s q f).hbm = s.hbm := rfl
@[simp] theorem qpMod_xlts (s : State) (q : Nat) (f : QPair → QPair) : (qpMod s q f).xlts = s.xlts := rfl
@[simp] theorem qpMod_walks (s : State) (q : Nat) (f : QPair → QPair) : (qpMod s q f).walks = s.walks := rfl
@[simp] theorem qpMod_walkCache (s : State) (q : Nat) (f : QPair → QPair) : (qpMod s q f).walkCache = s.walkCache := rfl
@[simp] theorem qpMod_parts (s : State) (q : Nat) (f : QPair → QPair) : (qpMod s q f).parts = s.parts := rfl
@[simp] theorem qpMod_nextKey (s : State) (q : Nat) (f : QPair → QPair) : (qpMod s q f).nextKey = s.nextKey := rfl
@[simp] theorem qpMod_links (s : State) (q : Nat) (f : QPair → QPair) : (qpMod s q f).links = s.links := rfl
@[simp] theorem qpMod_ports (s : State) (q : Nat) (f : QPair → QPair) : (qpMod s q f).ports = s.ports := rfl
@[simp] theorem qpMod_nextPkt (s : State) (q : Nat) (f : QPair → QPair) : (qpMod s q f).nextPkt = s.nextPkt := rfl
@[simp] theorem qpMod_sflows (s : State) (q : Nat) (f : QPair → QPair) : (qpMod s q f).sflows = s.sflows := rfl
@[simp] theorem qpMod_rflows (s : State) (q : Nat) (f : QPair → QPair) : (qpMod s q f).rflows = s.rflows := rfl
@[simp] theorem qpMod_nextFlow (s : State) (q : Nat) (f : QPair → QPair) : (qpMod s q f).nextFlow = s.nextFlow := rfl
@[simp] theorem qpMod_colIn (s : State) (q : Nat) (f : QPair → QPair) : (qpMod s q f).colIn = s.colIn := rfl
@[simp] theorem qpMod_cols (s : State) (q : Nat) (f : QPair → QPair) : (qpMod s q f).cols = s.cols := rfl
@[simp] theorem qpMod_hport (s : State) (q : Nat) (f : QPair → QPair) : (qpMod s q f).hport = s.hport := rfl
@[simp] theorem qpMod_tx (s : State) (q : Nat) (f : QPair → QPair) : (qpMod s q f).tx = s.tx := rfl
@[simp] theorem qpMod_held (s : State) (q : Nat) (f : QPair → QPair) : (qpMod s q f).held = s.held := rfl
@[simp] theorem qpMod_away (s : State) (q : Nat) (f : QPair → QPair) : (qpMod s q f).away = s.away := rfl
@[simp] theorem qpMod_colUnl (s : State) (q : Nat) (f : QPair → QPair) : (qpMod s q f).colUnl = s.colUnl := rfl
@[simp] theorem qpMod_keyRun (s : State) (q : Nat) (f : QPair → QPair) : (qpMod s q f).keyRun = s.keyRun := rfl
@[simp] theorem qpMod_repRun (s : State) (q : Nat) (f : QPair → QPair) : (qpMod s q f).repRun = s.repRun := rfl
@[simp] theorem qpMod_coldStarts (s : State) (q : Nat) (f : QPair → QPair) : (qpMod s q f).coldStarts = s.coldStarts := rfl
@[simp] theorem qpMod_ipfix (s : State) (q : Nat) (f : QPair → QPair) : (qpMod s q f).ipfix = s.ipfix := rfl
@[simp] theorem qpMod_loops (s : State) (q : Nat) (f : QPair → QPair) : (qpMod s q f).loops = s.loops := rfl
@[simp] theorem qpMod_alert (s : State) (q : Nat) (f : QPair → QPair) : (qpMod s q f).alert = s.alert := rfl
@[simp] theorem qpMod_stk (s : State) (q : Nat) (f : QPair → QPair) : (qpMod s q f).stk = s.stk := rfl

/-! lkPut -/

@[simp] theorem lkPut_pending (s : State) (n : Nat) (x : Link) : (lkPut s n x).pending = s.pending := rfl
@[simp] theorem lkPut_now (s : State) (n : Nat) (x : Link) : (lkPut s n x).now = s.now := rfl
@[simp] theorem lkPut_fresh (s : State) (n : Nat) (x : Link) : (lkPut s n x).fresh = s.fresh := rfl
@[simp] theorem lkPut_dueAborts (s : State) (n : Nat) (x : Link) : (lkPut s n x).dueAborts = s.dueAborts := rfl
@[simp] theorem lkPut_dueHrt (s : State) (n : Nat) (x : Link) : (lkPut s n x).dueHrt = s.dueHrt := rfl
@[simp] theorem lkPut_csr (s : State) (n : Nat) (x : Link) : (lkPut s n x).csr = s.csr := rfl
@[simp] theorem lkPut_hearths (s : State) (n : Nat) (x : Link) : (lkPut s n x).hearths = s.hearths := rfl
@[simp] theorem lkPut_graphs (s : State) (n : Nat) (x : Link) : (lkPut s n x).graphs = s.graphs := rfl
@[simp] theorem lkPut_slices (s : State) (n : Nat) (x : Link) : (lkPut s n x).slices = s.slices := rfl
@[simp] theorem lkPut_mcast (s : State) (n : Nat) (x : Link) : (lkPut s n x).mcast = s.mcast := rfl
@[simp] theorem lkPut_hbm (s : State) (n : Nat) (x : Link) : (lkPut s n x).hbm = s.hbm := rfl
@[simp] theorem lkPut_xlts (s : State) (n : Nat) (x : Link) : (lkPut s n x).xlts = s.xlts := rfl
@[simp] theorem lkPut_walks (s : State) (n : Nat) (x : Link) : (lkPut s n x).walks = s.walks := rfl
@[simp] theorem lkPut_walkCache (s : State) (n : Nat) (x : Link) : (lkPut s n x).walkCache = s.walkCache := rfl
@[simp] theorem lkPut_parts (s : State) (n : Nat) (x : Link) : (lkPut s n x).parts = s.parts := rfl
@[simp] theorem lkPut_nextKey (s : State) (n : Nat) (x : Link) : (lkPut s n x).nextKey = s.nextKey := rfl
@[simp] theorem lkPut_links (s : State) (n : Nat) (x : Link) : (lkPut s n x).links = tput s.links n x := rfl
@[simp] theorem lkPut_ports (s : State) (n : Nat) (x : Link) : (lkPut s n x).ports = s.ports := rfl
@[simp] theorem lkPut_nextPkt (s : State) (n : Nat) (x : Link) : (lkPut s n x).nextPkt = s.nextPkt := rfl
@[simp] theorem lkPut_sflows (s : State) (n : Nat) (x : Link) : (lkPut s n x).sflows = s.sflows := rfl
@[simp] theorem lkPut_rflows (s : State) (n : Nat) (x : Link) : (lkPut s n x).rflows = s.rflows := rfl
@[simp] theorem lkPut_nextFlow (s : State) (n : Nat) (x : Link) : (lkPut s n x).nextFlow = s.nextFlow := rfl
@[simp] theorem lkPut_colIn (s : State) (n : Nat) (x : Link) : (lkPut s n x).colIn = s.colIn := rfl
@[simp] theorem lkPut_cols (s : State) (n : Nat) (x : Link) : (lkPut s n x).cols = s.cols := rfl
@[simp] theorem lkPut_qps (s : State) (n : Nat) (x : Link) : (lkPut s n x).qps = s.qps := rfl
@[simp] theorem lkPut_hport (s : State) (n : Nat) (x : Link) : (lkPut s n x).hport = s.hport := rfl
@[simp] theorem lkPut_tx (s : State) (n : Nat) (x : Link) : (lkPut s n x).tx = s.tx := rfl
@[simp] theorem lkPut_held (s : State) (n : Nat) (x : Link) : (lkPut s n x).held = s.held := rfl
@[simp] theorem lkPut_away (s : State) (n : Nat) (x : Link) : (lkPut s n x).away = s.away := rfl
@[simp] theorem lkPut_colUnl (s : State) (n : Nat) (x : Link) : (lkPut s n x).colUnl = s.colUnl := rfl
@[simp] theorem lkPut_keyRun (s : State) (n : Nat) (x : Link) : (lkPut s n x).keyRun = s.keyRun := rfl
@[simp] theorem lkPut_repRun (s : State) (n : Nat) (x : Link) : (lkPut s n x).repRun = s.repRun := rfl
@[simp] theorem lkPut_coldStarts (s : State) (n : Nat) (x : Link) : (lkPut s n x).coldStarts = s.coldStarts := rfl
@[simp] theorem lkPut_ipfix (s : State) (n : Nat) (x : Link) : (lkPut s n x).ipfix = s.ipfix := rfl
@[simp] theorem lkPut_loops (s : State) (n : Nat) (x : Link) : (lkPut s n x).loops = s.loops := rfl
@[simp] theorem lkPut_alert (s : State) (n : Nat) (x : Link) : (lkPut s n x).alert = s.alert := rfl
@[simp] theorem lkPut_stk (s : State) (n : Nat) (x : Link) : (lkPut s n x).stk = s.stk := rfl

/-! lkMod -/

@[simp] theorem lkMod_pending (s : State) (n : Nat) (f : Link → Link) : (lkMod s n f).pending = s.pending := rfl
@[simp] theorem lkMod_now (s : State) (n : Nat) (f : Link → Link) : (lkMod s n f).now = s.now := rfl
@[simp] theorem lkMod_fresh (s : State) (n : Nat) (f : Link → Link) : (lkMod s n f).fresh = s.fresh := rfl
@[simp] theorem lkMod_dueAborts (s : State) (n : Nat) (f : Link → Link) : (lkMod s n f).dueAborts = s.dueAborts := rfl
@[simp] theorem lkMod_dueHrt (s : State) (n : Nat) (f : Link → Link) : (lkMod s n f).dueHrt = s.dueHrt := rfl
@[simp] theorem lkMod_csr (s : State) (n : Nat) (f : Link → Link) : (lkMod s n f).csr = s.csr := rfl
@[simp] theorem lkMod_hearths (s : State) (n : Nat) (f : Link → Link) : (lkMod s n f).hearths = s.hearths := rfl
@[simp] theorem lkMod_graphs (s : State) (n : Nat) (f : Link → Link) : (lkMod s n f).graphs = s.graphs := rfl
@[simp] theorem lkMod_slices (s : State) (n : Nat) (f : Link → Link) : (lkMod s n f).slices = s.slices := rfl
@[simp] theorem lkMod_mcast (s : State) (n : Nat) (f : Link → Link) : (lkMod s n f).mcast = s.mcast := rfl
@[simp] theorem lkMod_hbm (s : State) (n : Nat) (f : Link → Link) : (lkMod s n f).hbm = s.hbm := rfl
@[simp] theorem lkMod_xlts (s : State) (n : Nat) (f : Link → Link) : (lkMod s n f).xlts = s.xlts := rfl
@[simp] theorem lkMod_walks (s : State) (n : Nat) (f : Link → Link) : (lkMod s n f).walks = s.walks := rfl
@[simp] theorem lkMod_walkCache (s : State) (n : Nat) (f : Link → Link) : (lkMod s n f).walkCache = s.walkCache := rfl
@[simp] theorem lkMod_parts (s : State) (n : Nat) (f : Link → Link) : (lkMod s n f).parts = s.parts := rfl
@[simp] theorem lkMod_nextKey (s : State) (n : Nat) (f : Link → Link) : (lkMod s n f).nextKey = s.nextKey := rfl
@[simp] theorem lkMod_ports (s : State) (n : Nat) (f : Link → Link) : (lkMod s n f).ports = s.ports := rfl
@[simp] theorem lkMod_nextPkt (s : State) (n : Nat) (f : Link → Link) : (lkMod s n f).nextPkt = s.nextPkt := rfl
@[simp] theorem lkMod_sflows (s : State) (n : Nat) (f : Link → Link) : (lkMod s n f).sflows = s.sflows := rfl
@[simp] theorem lkMod_rflows (s : State) (n : Nat) (f : Link → Link) : (lkMod s n f).rflows = s.rflows := rfl
@[simp] theorem lkMod_nextFlow (s : State) (n : Nat) (f : Link → Link) : (lkMod s n f).nextFlow = s.nextFlow := rfl
@[simp] theorem lkMod_colIn (s : State) (n : Nat) (f : Link → Link) : (lkMod s n f).colIn = s.colIn := rfl
@[simp] theorem lkMod_cols (s : State) (n : Nat) (f : Link → Link) : (lkMod s n f).cols = s.cols := rfl
@[simp] theorem lkMod_qps (s : State) (n : Nat) (f : Link → Link) : (lkMod s n f).qps = s.qps := rfl
@[simp] theorem lkMod_hport (s : State) (n : Nat) (f : Link → Link) : (lkMod s n f).hport = s.hport := rfl
@[simp] theorem lkMod_tx (s : State) (n : Nat) (f : Link → Link) : (lkMod s n f).tx = s.tx := rfl
@[simp] theorem lkMod_held (s : State) (n : Nat) (f : Link → Link) : (lkMod s n f).held = s.held := rfl
@[simp] theorem lkMod_away (s : State) (n : Nat) (f : Link → Link) : (lkMod s n f).away = s.away := rfl
@[simp] theorem lkMod_colUnl (s : State) (n : Nat) (f : Link → Link) : (lkMod s n f).colUnl = s.colUnl := rfl
@[simp] theorem lkMod_keyRun (s : State) (n : Nat) (f : Link → Link) : (lkMod s n f).keyRun = s.keyRun := rfl
@[simp] theorem lkMod_repRun (s : State) (n : Nat) (f : Link → Link) : (lkMod s n f).repRun = s.repRun := rfl
@[simp] theorem lkMod_coldStarts (s : State) (n : Nat) (f : Link → Link) : (lkMod s n f).coldStarts = s.coldStarts := rfl
@[simp] theorem lkMod_ipfix (s : State) (n : Nat) (f : Link → Link) : (lkMod s n f).ipfix = s.ipfix := rfl
@[simp] theorem lkMod_loops (s : State) (n : Nat) (f : Link → Link) : (lkMod s n f).loops = s.loops := rfl
@[simp] theorem lkMod_alert (s : State) (n : Nat) (f : Link → Link) : (lkMod s n f).alert = s.alert := rfl
@[simp] theorem lkMod_stk (s : State) (n : Nat) (f : Link → Link) : (lkMod s n f).stk = s.stk := rfl

/-! portMod -/

@[simp] theorem portMod_pending (s : State) (p : Nat) (f : Port → Port) : (portMod s p f).pending = s.pending := rfl
@[simp] theorem portMod_now (s : State) (p : Nat) (f : Port → Port) : (portMod s p f).now = s.now := rfl
@[simp] theorem portMod_fresh (s : State) (p : Nat) (f : Port → Port) : (portMod s p f).fresh = s.fresh := rfl
@[simp] theorem portMod_dueAborts (s : State) (p : Nat) (f : Port → Port) : (portMod s p f).dueAborts = s.dueAborts := rfl
@[simp] theorem portMod_dueHrt (s : State) (p : Nat) (f : Port → Port) : (portMod s p f).dueHrt = s.dueHrt := rfl
@[simp] theorem portMod_csr (s : State) (p : Nat) (f : Port → Port) : (portMod s p f).csr = s.csr := rfl
@[simp] theorem portMod_hearths (s : State) (p : Nat) (f : Port → Port) : (portMod s p f).hearths = s.hearths := rfl
@[simp] theorem portMod_graphs (s : State) (p : Nat) (f : Port → Port) : (portMod s p f).graphs = s.graphs := rfl
@[simp] theorem portMod_slices (s : State) (p : Nat) (f : Port → Port) : (portMod s p f).slices = s.slices := rfl
@[simp] theorem portMod_mcast (s : State) (p : Nat) (f : Port → Port) : (portMod s p f).mcast = s.mcast := rfl
@[simp] theorem portMod_hbm (s : State) (p : Nat) (f : Port → Port) : (portMod s p f).hbm = s.hbm := rfl
@[simp] theorem portMod_xlts (s : State) (p : Nat) (f : Port → Port) : (portMod s p f).xlts = s.xlts := rfl
@[simp] theorem portMod_walks (s : State) (p : Nat) (f : Port → Port) : (portMod s p f).walks = s.walks := rfl
@[simp] theorem portMod_walkCache (s : State) (p : Nat) (f : Port → Port) : (portMod s p f).walkCache = s.walkCache := rfl
@[simp] theorem portMod_parts (s : State) (p : Nat) (f : Port → Port) : (portMod s p f).parts = s.parts := rfl
@[simp] theorem portMod_nextKey (s : State) (p : Nat) (f : Port → Port) : (portMod s p f).nextKey = s.nextKey := rfl
@[simp] theorem portMod_links (s : State) (p : Nat) (f : Port → Port) : (portMod s p f).links = s.links := rfl
@[simp] theorem portMod_ports (s : State) (p : Nat) (f : Port → Port) : (portMod s p f).ports = tput s.ports p (f (portGet s p)) := rfl
@[simp] theorem portMod_nextPkt (s : State) (p : Nat) (f : Port → Port) : (portMod s p f).nextPkt = s.nextPkt := rfl
@[simp] theorem portMod_sflows (s : State) (p : Nat) (f : Port → Port) : (portMod s p f).sflows = s.sflows := rfl
@[simp] theorem portMod_rflows (s : State) (p : Nat) (f : Port → Port) : (portMod s p f).rflows = s.rflows := rfl
@[simp] theorem portMod_nextFlow (s : State) (p : Nat) (f : Port → Port) : (portMod s p f).nextFlow = s.nextFlow := rfl
@[simp] theorem portMod_colIn (s : State) (p : Nat) (f : Port → Port) : (portMod s p f).colIn = s.colIn := rfl
@[simp] theorem portMod_cols (s : State) (p : Nat) (f : Port → Port) : (portMod s p f).cols = s.cols := rfl
@[simp] theorem portMod_qps (s : State) (p : Nat) (f : Port → Port) : (portMod s p f).qps = s.qps := rfl
@[simp] theorem portMod_hport (s : State) (p : Nat) (f : Port → Port) : (portMod s p f).hport = s.hport := rfl
@[simp] theorem portMod_tx (s : State) (p : Nat) (f : Port → Port) : (portMod s p f).tx = s.tx := rfl
@[simp] theorem portMod_held (s : State) (p : Nat) (f : Port → Port) : (portMod s p f).held = s.held := rfl
@[simp] theorem portMod_away (s : State) (p : Nat) (f : Port → Port) : (portMod s p f).away = s.away := rfl
@[simp] theorem portMod_colUnl (s : State) (p : Nat) (f : Port → Port) : (portMod s p f).colUnl = s.colUnl := rfl
@[simp] theorem portMod_keyRun (s : State) (p : Nat) (f : Port → Port) : (portMod s p f).keyRun = s.keyRun := rfl
@[simp] theorem portMod_repRun (s : State) (p : Nat) (f : Port → Port) : (portMod s p f).repRun = s.repRun := rfl
@[simp] theorem portMod_coldStarts (s : State) (p : Nat) (f : Port → Port) : (portMod s p f).coldStarts = s.coldStarts := rfl
@[simp] theorem portMod_ipfix (s : State) (p : Nat) (f : Port → Port) : (portMod s p f).ipfix = s.ipfix := rfl
@[simp] theorem portMod_loops (s : State) (p : Nat) (f : Port → Port) : (portMod s p f).loops = s.loops := rfl
@[simp] theorem portMod_alert (s : State) (p : Nat) (f : Port → Port) : (portMod s p f).alert = s.alert := rfl
@[simp] theorem portMod_stk (s : State) (p : Nat) (f : Port → Port) : (portMod s p f).stk = s.stk := rfl

/-! partMod -/

@[simp] theorem partMod_pending (s : State) (p : Nat) (f : Part → Part) : (partMod s p f).pending = s.pending := rfl
@[simp] theorem partMod_now (s : State) (p : Nat) (f : Part → Part) : (partMod s p f).now = s.now := rfl
@[simp] theorem partMod_fresh (s : State) (p : Nat) (f : Part → Part) : (partMod s p f).fresh = s.fresh := rfl
@[simp] theorem partMod_dueAborts (s : State) (p : Nat) (f : Part → Part) : (partMod s p f).dueAborts = s.dueAborts := rfl
@[simp] theorem partMod_dueHrt (s : State) (p : Nat) (f : Part → Part) : (partMod s p f).dueHrt = s.dueHrt := rfl
@[simp] theorem partMod_csr (s : State) (p : Nat) (f : Part → Part) : (partMod s p f).csr = s.csr := rfl
@[simp] theorem partMod_hearths (s : State) (p : Nat) (f : Part → Part) : (partMod s p f).hearths = s.hearths := rfl
@[simp] theorem partMod_graphs (s : State) (p : Nat) (f : Part → Part) : (partMod s p f).graphs = s.graphs := rfl
@[simp] theorem partMod_slices (s : State) (p : Nat) (f : Part → Part) : (partMod s p f).slices = s.slices := rfl
@[simp] theorem partMod_mcast (s : State) (p : Nat) (f : Part → Part) : (partMod s p f).mcast = s.mcast := rfl
@[simp] theorem partMod_hbm (s : State) (p : Nat) (f : Part → Part) : (partMod s p f).hbm = s.hbm := rfl
@[simp] theorem partMod_xlts (s : State) (p : Nat) (f : Part → Part) : (partMod s p f).xlts = s.xlts := rfl
@[simp] theorem partMod_walks (s : State) (p : Nat) (f : Part → Part) : (partMod s p f).walks = s.walks := rfl
@[simp] theorem partMod_walkCache (s : State) (p : Nat) (f : Part → Part) : (partMod s p f).walkCache = s.walkCache := rfl
@[simp] theorem partMod_parts (s : State) (p : Nat) (f : Part → Part) : (partMod s p f).parts = tput s.parts p (f (partGet s p)) := rfl
@[simp] theorem partMod_nextKey (s : State) (p : Nat) (f : Part → Part) : (partMod s p f).nextKey = s.nextKey := rfl
@[simp] theorem partMod_links (s : State) (p : Nat) (f : Part → Part) : (partMod s p f).links = s.links := rfl
@[simp] theorem partMod_ports (s : State) (p : Nat) (f : Part → Part) : (partMod s p f).ports = s.ports := rfl
@[simp] theorem partMod_nextPkt (s : State) (p : Nat) (f : Part → Part) : (partMod s p f).nextPkt = s.nextPkt := rfl
@[simp] theorem partMod_sflows (s : State) (p : Nat) (f : Part → Part) : (partMod s p f).sflows = s.sflows := rfl
@[simp] theorem partMod_rflows (s : State) (p : Nat) (f : Part → Part) : (partMod s p f).rflows = s.rflows := rfl
@[simp] theorem partMod_nextFlow (s : State) (p : Nat) (f : Part → Part) : (partMod s p f).nextFlow = s.nextFlow := rfl
@[simp] theorem partMod_colIn (s : State) (p : Nat) (f : Part → Part) : (partMod s p f).colIn = s.colIn := rfl
@[simp] theorem partMod_cols (s : State) (p : Nat) (f : Part → Part) : (partMod s p f).cols = s.cols := rfl
@[simp] theorem partMod_qps (s : State) (p : Nat) (f : Part → Part) : (partMod s p f).qps = s.qps := rfl
@[simp] theorem partMod_hport (s : State) (p : Nat) (f : Part → Part) : (partMod s p f).hport = s.hport := rfl
@[simp] theorem partMod_tx (s : State) (p : Nat) (f : Part → Part) : (partMod s p f).tx = s.tx := rfl
@[simp] theorem partMod_held (s : State) (p : Nat) (f : Part → Part) : (partMod s p f).held = s.held := rfl
@[simp] theorem partMod_away (s : State) (p : Nat) (f : Part → Part) : (partMod s p f).away = s.away := rfl
@[simp] theorem partMod_colUnl (s : State) (p : Nat) (f : Part → Part) : (partMod s p f).colUnl = s.colUnl := rfl
@[simp] theorem partMod_keyRun (s : State) (p : Nat) (f : Part → Part) : (partMod s p f).keyRun = s.keyRun := rfl
@[simp] theorem partMod_repRun (s : State) (p : Nat) (f : Part → Part) : (partMod s p f).repRun = s.repRun := rfl
@[simp] theorem partMod_coldStarts (s : State) (p : Nat) (f : Part → Part) : (partMod s p f).coldStarts = s.coldStarts := rfl
@[simp] theorem partMod_ipfix (s : State) (p : Nat) (f : Part → Part) : (partMod s p f).ipfix = s.ipfix := rfl
@[simp] theorem partMod_loops (s : State) (p : Nat) (f : Part → Part) : (partMod s p f).loops = s.loops := rfl
@[simp] theorem partMod_alert (s : State) (p : Nat) (f : Part → Part) : (partMod s p f).alert = s.alert := rfl
@[simp] theorem partMod_stk (s : State) (p : Nat) (f : Part → Part) : (partMod s p f).stk = s.stk := rfl

/-! xlPut -/

@[simp] theorem xlPut_pending (s : State) (p : Nat) (x : Xlt) : (xlPut s p x).pending = s.pending := rfl
@[simp] theorem xlPut_now (s : State) (p : Nat) (x : Xlt) : (xlPut s p x).now = s.now := rfl
@[simp] theorem xlPut_fresh (s : State) (p : Nat) (x : Xlt) : (xlPut s p x).fresh = s.fresh := rfl
@[simp] theorem xlPut_dueAborts (s : State) (p : Nat) (x : Xlt) : (xlPut s p x).dueAborts = s.dueAborts := rfl
@[simp] theorem xlPut_dueHrt (s : State) (p : Nat) (x : Xlt) : (xlPut s p x).dueHrt = s.dueHrt := rfl
@[simp] theorem xlPut_csr (s : State) (p : Nat) (x : Xlt) : (xlPut s p x).csr = s.csr := rfl
@[simp] theorem xlPut_hearths (s : State) (p : Nat) (x : Xlt) : (xlPut s p x).hearths = s.hearths := rfl
@[simp] theorem xlPut_graphs (s : State) (p : Nat) (x : Xlt) : (xlPut s p x).graphs = s.graphs := rfl
@[simp] theorem xlPut_slices (s : State) (p : Nat) (x : Xlt) : (xlPut s p x).slices = s.slices := rfl
@[simp] theorem xlPut_mcast (s : State) (p : Nat) (x : Xlt) : (xlPut s p x).mcast = s.mcast := rfl
@[simp] theorem xlPut_hbm (s : State) (p : Nat) (x : Xlt) : (xlPut s p x).hbm = s.hbm := rfl
@[simp] theorem xlPut_xlts (s : State) (p : Nat) (x : Xlt) : (xlPut s p x).xlts = tput s.xlts p x := rfl
@[simp] theorem xlPut_walks (s : State) (p : Nat) (x : Xlt) : (xlPut s p x).walks = s.walks := rfl
@[simp] theorem xlPut_walkCache (s : State) (p : Nat) (x : Xlt) : (xlPut s p x).walkCache = s.walkCache := rfl
@[simp] theorem xlPut_parts (s : State) (p : Nat) (x : Xlt) : (xlPut s p x).parts = s.parts := rfl
@[simp] theorem xlPut_nextKey (s : State) (p : Nat) (x : Xlt) : (xlPut s p x).nextKey = s.nextKey := rfl
@[simp] theorem xlPut_links (s : State) (p : Nat) (x : Xlt) : (xlPut s p x).links = s.links := rfl
@[simp] theorem xlPut_ports (s : State) (p : Nat) (x : Xlt) : (xlPut s p x).ports = s.ports := rfl
@[simp] theorem xlPut_nextPkt (s : State) (p : Nat) (x : Xlt) : (xlPut s p x).nextPkt = s.nextPkt := rfl
@[simp] theorem xlPut_sflows (s : State) (p : Nat) (x : Xlt) : (xlPut s p x).sflows = s.sflows := rfl
@[simp] theorem xlPut_rflows (s : State) (p : Nat) (x : Xlt) : (xlPut s p x).rflows = s.rflows := rfl
@[simp] theorem xlPut_nextFlow (s : State) (p : Nat) (x : Xlt) : (xlPut s p x).nextFlow = s.nextFlow := rfl
@[simp] theorem xlPut_colIn (s : State) (p : Nat) (x : Xlt) : (xlPut s p x).colIn = s.colIn := rfl
@[simp] theorem xlPut_cols (s : State) (p : Nat) (x : Xlt) : (xlPut s p x).cols = s.cols := rfl
@[simp] theorem xlPut_qps (s : State) (p : Nat) (x : Xlt) : (xlPut s p x).qps = s.qps := rfl
@[simp] theorem xlPut_hport (s : State) (p : Nat) (x : Xlt) : (xlPut s p x).hport = s.hport := rfl
@[simp] theorem xlPut_tx (s : State) (p : Nat) (x : Xlt) : (xlPut s p x).tx = s.tx := rfl
@[simp] theorem xlPut_held (s : State) (p : Nat) (x : Xlt) : (xlPut s p x).held = s.held := rfl
@[simp] theorem xlPut_away (s : State) (p : Nat) (x : Xlt) : (xlPut s p x).away = s.away := rfl
@[simp] theorem xlPut_colUnl (s : State) (p : Nat) (x : Xlt) : (xlPut s p x).colUnl = s.colUnl := rfl
@[simp] theorem xlPut_keyRun (s : State) (p : Nat) (x : Xlt) : (xlPut s p x).keyRun = s.keyRun := rfl
@[simp] theorem xlPut_repRun (s : State) (p : Nat) (x : Xlt) : (xlPut s p x).repRun = s.repRun := rfl
@[simp] theorem xlPut_coldStarts (s : State) (p : Nat) (x : Xlt) : (xlPut s p x).coldStarts = s.coldStarts := rfl
@[simp] theorem xlPut_ipfix (s : State) (p : Nat) (x : Xlt) : (xlPut s p x).ipfix = s.ipfix := rfl
@[simp] theorem xlPut_loops (s : State) (p : Nat) (x : Xlt) : (xlPut s p x).loops = s.loops := rfl
@[simp] theorem xlPut_alert (s : State) (p : Nat) (x : Xlt) : (xlPut s p x).alert = s.alert := rfl
@[simp] theorem xlPut_stk (s : State) (p : Nat) (x : Xlt) : (xlPut s p x).stk = s.stk := rfl

/-! xlMod -/

@[simp] theorem xlMod_pending (s : State) (p : Nat) (f : Xlt → Xlt) : (xlMod s p f).pending = s.pending := rfl
@[simp] theorem xlMod_now (s : State) (p : Nat) (f : Xlt → Xlt) : (xlMod s p f).now = s.now := rfl
@[simp] theorem xlMod_fresh (s : State) (p : Nat) (f : Xlt → Xlt) : (xlMod s p f).fresh = s.fresh := rfl
@[simp] theorem xlMod_dueAborts (s : State) (p : Nat) (f : Xlt → Xlt) : (xlMod s p f).dueAborts = s.dueAborts := rfl
@[simp] theorem xlMod_dueHrt (s : State) (p : Nat) (f : Xlt → Xlt) : (xlMod s p f).dueHrt = s.dueHrt := rfl
@[simp] theorem xlMod_csr (s : State) (p : Nat) (f : Xlt → Xlt) : (xlMod s p f).csr = s.csr := rfl
@[simp] theorem xlMod_hearths (s : State) (p : Nat) (f : Xlt → Xlt) : (xlMod s p f).hearths = s.hearths := rfl
@[simp] theorem xlMod_graphs (s : State) (p : Nat) (f : Xlt → Xlt) : (xlMod s p f).graphs = s.graphs := rfl
@[simp] theorem xlMod_slices (s : State) (p : Nat) (f : Xlt → Xlt) : (xlMod s p f).slices = s.slices := rfl
@[simp] theorem xlMod_mcast (s : State) (p : Nat) (f : Xlt → Xlt) : (xlMod s p f).mcast = s.mcast := rfl
@[simp] theorem xlMod_hbm (s : State) (p : Nat) (f : Xlt → Xlt) : (xlMod s p f).hbm = s.hbm := rfl
@[simp] theorem xlMod_walks (s : State) (p : Nat) (f : Xlt → Xlt) : (xlMod s p f).walks = s.walks := rfl
@[simp] theorem xlMod_walkCache (s : State) (p : Nat) (f : Xlt → Xlt) : (xlMod s p f).walkCache = s.walkCache := rfl
@[simp] theorem xlMod_parts (s : State) (p : Nat) (f : Xlt → Xlt) : (xlMod s p f).parts = s.parts := rfl
@[simp] theorem xlMod_nextKey (s : State) (p : Nat) (f : Xlt → Xlt) : (xlMod s p f).nextKey = s.nextKey := rfl
@[simp] theorem xlMod_links (s : State) (p : Nat) (f : Xlt → Xlt) : (xlMod s p f).links = s.links := rfl
@[simp] theorem xlMod_ports (s : State) (p : Nat) (f : Xlt → Xlt) : (xlMod s p f).ports = s.ports := rfl
@[simp] theorem xlMod_nextPkt (s : State) (p : Nat) (f : Xlt → Xlt) : (xlMod s p f).nextPkt = s.nextPkt := rfl
@[simp] theorem xlMod_sflows (s : State) (p : Nat) (f : Xlt → Xlt) : (xlMod s p f).sflows = s.sflows := rfl
@[simp] theorem xlMod_rflows (s : State) (p : Nat) (f : Xlt → Xlt) : (xlMod s p f).rflows = s.rflows := rfl
@[simp] theorem xlMod_nextFlow (s : State) (p : Nat) (f : Xlt → Xlt) : (xlMod s p f).nextFlow = s.nextFlow := rfl
@[simp] theorem xlMod_colIn (s : State) (p : Nat) (f : Xlt → Xlt) : (xlMod s p f).colIn = s.colIn := rfl
@[simp] theorem xlMod_cols (s : State) (p : Nat) (f : Xlt → Xlt) : (xlMod s p f).cols = s.cols := rfl
@[simp] theorem xlMod_qps (s : State) (p : Nat) (f : Xlt → Xlt) : (xlMod s p f).qps = s.qps := rfl
@[simp] theorem xlMod_hport (s : State) (p : Nat) (f : Xlt → Xlt) : (xlMod s p f).hport = s.hport := rfl
@[simp] theorem xlMod_tx (s : State) (p : Nat) (f : Xlt → Xlt) : (xlMod s p f).tx = s.tx := rfl
@[simp] theorem xlMod_held (s : State) (p : Nat) (f : Xlt → Xlt) : (xlMod s p f).held = s.held := rfl
@[simp] theorem xlMod_away (s : State) (p : Nat) (f : Xlt → Xlt) : (xlMod s p f).away = s.away := rfl
@[simp] theorem xlMod_colUnl (s : State) (p : Nat) (f : Xlt → Xlt) : (xlMod s p f).colUnl = s.colUnl := rfl
@[simp] theorem xlMod_keyRun (s : State) (p : Nat) (f : Xlt → Xlt) : (xlMod s p f).keyRun = s.keyRun := rfl
@[simp] theorem xlMod_repRun (s : State) (p : Nat) (f : Xlt → Xlt) : (xlMod s p f).repRun = s.repRun := rfl
@[simp] theorem xlMod_coldStarts (s : State) (p : Nat) (f : Xlt → Xlt) : (xlMod s p f).coldStarts = s.coldStarts := rfl
@[simp] theorem xlMod_ipfix (s : State) (p : Nat) (f : Xlt → Xlt) : (xlMod s p f).ipfix = s.ipfix := rfl
@[simp] theorem xlMod_loops (s : State) (p : Nat) (f : Xlt → Xlt) : (xlMod s p f).loops = s.loops := rfl
@[simp] theorem xlMod_alert (s : State) (p : Nat) (f : Xlt → Xlt) : (xlMod s p f).alert = s.alert := rfl
@[simp] theorem xlMod_stk (s : State) (p : Nat) (f : Xlt → Xlt) : (xlMod s p f).stk = s.stk := rfl

/-! colPut -/

@[simp] theorem colPut_pending (s : State) (p c : Nat) (e : ColEnt) : (colPut s p c e).pending = s.pending := rfl
@[simp] theorem colPut_now (s : State) (p c : Nat) (e : ColEnt) : (colPut s p c e).now = s.now := rfl
@[simp] theorem colPut_fresh (s : State) (p c : Nat) (e : ColEnt) : (colPut s p c e).fresh = s.fresh := rfl
@[simp] theorem colPut_dueAborts (s : State) (p c : Nat) (e : ColEnt) : (colPut s p c e).dueAborts = s.dueAborts := rfl
@[simp] theorem colPut_dueHrt (s : State) (p c : Nat) (e : ColEnt) : (colPut s p c e).dueHrt = s.dueHrt := rfl
@[simp] theorem colPut_csr (s : State) (p c : Nat) (e : ColEnt) : (colPut s p c e).csr = s.csr := rfl
@[simp] theorem colPut_hearths (s : State) (p c : Nat) (e : ColEnt) : (colPut s p c e).hearths = s.hearths := rfl
@[simp] theorem colPut_graphs (s : State) (p c : Nat) (e : ColEnt) : (colPut s p c e).graphs = s.graphs := rfl
@[simp] theorem colPut_slices (s : State) (p c : Nat) (e : ColEnt) : (colPut s p c e).slices = s.slices := rfl
@[simp] theorem colPut_mcast (s : State) (p c : Nat) (e : ColEnt) : (colPut s p c e).mcast = s.mcast := rfl
@[simp] theorem colPut_hbm (s : State) (p c : Nat) (e : ColEnt) : (colPut s p c e).hbm = s.hbm := rfl
@[simp] theorem colPut_xlts (s : State) (p c : Nat) (e : ColEnt) : (colPut s p c e).xlts = s.xlts := rfl
@[simp] theorem colPut_walks (s : State) (p c : Nat) (e : ColEnt) : (colPut s p c e).walks = s.walks := rfl
@[simp] theorem colPut_walkCache (s : State) (p c : Nat) (e : ColEnt) : (colPut s p c e).walkCache = s.walkCache := rfl
@[simp] theorem colPut_parts (s : State) (p c : Nat) (e : ColEnt) : (colPut s p c e).parts = s.parts := rfl
@[simp] theorem colPut_nextKey (s : State) (p c : Nat) (e : ColEnt) : (colPut s p c e).nextKey = s.nextKey := rfl
@[simp] theorem colPut_links (s : State) (p c : Nat) (e : ColEnt) : (colPut s p c e).links = s.links := rfl
@[simp] theorem colPut_ports (s : State) (p c : Nat) (e : ColEnt) : (colPut s p c e).ports = s.ports := rfl
@[simp] theorem colPut_nextPkt (s : State) (p c : Nat) (e : ColEnt) : (colPut s p c e).nextPkt = s.nextPkt := rfl
@[simp] theorem colPut_sflows (s : State) (p c : Nat) (e : ColEnt) : (colPut s p c e).sflows = s.sflows := rfl
@[simp] theorem colPut_rflows (s : State) (p c : Nat) (e : ColEnt) : (colPut s p c e).rflows = s.rflows := rfl
@[simp] theorem colPut_nextFlow (s : State) (p c : Nat) (e : ColEnt) : (colPut s p c e).nextFlow = s.nextFlow := rfl
@[simp] theorem colPut_colIn (s : State) (p c : Nat) (e : ColEnt) : (colPut s p c e).colIn = s.colIn := rfl
@[simp] theorem colPut_cols (s : State) (p c : Nat) (e : ColEnt) : (colPut s p c e).cols = tput s.cols (p * 256 + c) e := rfl
@[simp] theorem colPut_qps (s : State) (p c : Nat) (e : ColEnt) : (colPut s p c e).qps = s.qps := rfl
@[simp] theorem colPut_hport (s : State) (p c : Nat) (e : ColEnt) : (colPut s p c e).hport = s.hport := rfl
@[simp] theorem colPut_tx (s : State) (p c : Nat) (e : ColEnt) : (colPut s p c e).tx = s.tx := rfl
@[simp] theorem colPut_held (s : State) (p c : Nat) (e : ColEnt) : (colPut s p c e).held = s.held := rfl
@[simp] theorem colPut_away (s : State) (p c : Nat) (e : ColEnt) : (colPut s p c e).away = s.away := rfl
@[simp] theorem colPut_colUnl (s : State) (p c : Nat) (e : ColEnt) : (colPut s p c e).colUnl = s.colUnl := rfl
@[simp] theorem colPut_keyRun (s : State) (p c : Nat) (e : ColEnt) : (colPut s p c e).keyRun = s.keyRun := rfl
@[simp] theorem colPut_repRun (s : State) (p c : Nat) (e : ColEnt) : (colPut s p c e).repRun = s.repRun := rfl
@[simp] theorem colPut_coldStarts (s : State) (p c : Nat) (e : ColEnt) : (colPut s p c e).coldStarts = s.coldStarts := rfl
@[simp] theorem colPut_ipfix (s : State) (p c : Nat) (e : ColEnt) : (colPut s p c e).ipfix = s.ipfix := rfl
@[simp] theorem colPut_loops (s : State) (p c : Nat) (e : ColEnt) : (colPut s p c e).loops = s.loops := rfl
@[simp] theorem colPut_alert (s : State) (p c : Nat) (e : ColEnt) : (colPut s p c e).alert = s.alert := rfl
@[simp] theorem colPut_stk (s : State) (p c : Nat) (e : ColEnt) : (colPut s p c e).stk = s.stk := rfl

/-! stkMod -/

@[simp] theorem stkMod_pending (s : State) (f : Stoker → Stoker) : (stkMod s f).pending = s.pending := rfl
@[simp] theorem stkMod_now (s : State) (f : Stoker → Stoker) : (stkMod s f).now = s.now := rfl
@[simp] theorem stkMod_fresh (s : State) (f : Stoker → Stoker) : (stkMod s f).fresh = s.fresh := rfl
@[simp] theorem stkMod_dueAborts (s : State) (f : Stoker → Stoker) : (stkMod s f).dueAborts = s.dueAborts := rfl
@[simp] theorem stkMod_dueHrt (s : State) (f : Stoker → Stoker) : (stkMod s f).dueHrt = s.dueHrt := rfl
@[simp] theorem stkMod_csr (s : State) (f : Stoker → Stoker) : (stkMod s f).csr = s.csr := rfl
@[simp] theorem stkMod_hearths (s : State) (f : Stoker → Stoker) : (stkMod s f).hearths = s.hearths := rfl
@[simp] theorem stkMod_graphs (s : State) (f : Stoker → Stoker) : (stkMod s f).graphs = s.graphs := rfl
@[simp] theorem stkMod_slices (s : State) (f : Stoker → Stoker) : (stkMod s f).slices = s.slices := rfl
@[simp] theorem stkMod_mcast (s : State) (f : Stoker → Stoker) : (stkMod s f).mcast = s.mcast := rfl
@[simp] theorem stkMod_hbm (s : State) (f : Stoker → Stoker) : (stkMod s f).hbm = s.hbm := rfl
@[simp] theorem stkMod_xlts (s : State) (f : Stoker → Stoker) : (stkMod s f).xlts = s.xlts := rfl
@[simp] theorem stkMod_walks (s : State) (f : Stoker → Stoker) : (stkMod s f).walks = s.walks := rfl
@[simp] theorem stkMod_walkCache (s : State) (f : Stoker → Stoker) : (stkMod s f).walkCache = s.walkCache := rfl
@[simp] theorem stkMod_parts (s : State) (f : Stoker → Stoker) : (stkMod s f).parts = s.parts := rfl
@[simp] theorem stkMod_nextKey (s : State) (f : Stoker → Stoker) : (stkMod s f).nextKey = s.nextKey := rfl
@[simp] theorem stkMod_links (s : State) (f : Stoker → Stoker) : (stkMod s f).links = s.links := rfl
@[simp] theorem stkMod_ports (s : State) (f : Stoker → Stoker) : (stkMod s f).ports = s.ports := rfl
@[simp] theorem stkMod_nextPkt (s : State) (f : Stoker → Stoker) : (stkMod s f).nextPkt = s.nextPkt := rfl
@[simp] theorem stkMod_sflows (s : State) (f : Stoker → Stoker) : (stkMod s f).sflows = s.sflows := rfl
@[simp] theorem stkMod_rflows (s : State) (f : Stoker → Stoker) : (stkMod s f).rflows = s.rflows := rfl
@[simp] theorem stkMod_nextFlow (s : State) (f : Stoker → Stoker) : (stkMod s f).nextFlow = s.nextFlow := rfl
@[simp] theorem stkMod_colIn (s : State) (f : Stoker → Stoker) : (stkMod s f).colIn = s.colIn := rfl
@[simp] theorem stkMod_cols (s : State) (f : Stoker → Stoker) : (stkMod s f).cols = s.cols := rfl
@[simp] theorem stkMod_qps (s : State) (f : Stoker → Stoker) : (stkMod s f).qps = s.qps := rfl
@[simp] theorem stkMod_hport (s : State) (f : Stoker → Stoker) : (stkMod s f).hport = s.hport := rfl
@[simp] theorem stkMod_tx (s : State) (f : Stoker → Stoker) : (stkMod s f).tx = s.tx := rfl
@[simp] theorem stkMod_held (s : State) (f : Stoker → Stoker) : (stkMod s f).held = s.held := rfl
@[simp] theorem stkMod_away (s : State) (f : Stoker → Stoker) : (stkMod s f).away = s.away := rfl
@[simp] theorem stkMod_colUnl (s : State) (f : Stoker → Stoker) : (stkMod s f).colUnl = s.colUnl := rfl
@[simp] theorem stkMod_keyRun (s : State) (f : Stoker → Stoker) : (stkMod s f).keyRun = s.keyRun := rfl
@[simp] theorem stkMod_repRun (s : State) (f : Stoker → Stoker) : (stkMod s f).repRun = s.repRun := rfl
@[simp] theorem stkMod_coldStarts (s : State) (f : Stoker → Stoker) : (stkMod s f).coldStarts = s.coldStarts := rfl
@[simp] theorem stkMod_ipfix (s : State) (f : Stoker → Stoker) : (stkMod s f).ipfix = s.ipfix := rfl
@[simp] theorem stkMod_loops (s : State) (f : Stoker → Stoker) : (stkMod s f).loops = s.loops := rfl
@[simp] theorem stkMod_alert (s : State) (f : Stoker → Stoker) : (stkMod s f).alert = s.alert := rfl
@[simp] theorem stkMod_stk (s : State) (f : Stoker → Stoker) : (stkMod s f).stk = f s.stk := rfl

/-! reqAbort -/

@[simp] theorem reqAbort_pending (s : State) (h own code : Nat) : (reqAbort s h own code).pending = s.pending := rfl
@[simp] theorem reqAbort_now (s : State) (h own code : Nat) : (reqAbort s h own code).now = s.now := rfl
@[simp] theorem reqAbort_fresh (s : State) (h own code : Nat) : (reqAbort s h own code).fresh = s.fresh := rfl
@[simp] theorem reqAbort_dueAborts (s : State) (h own code : Nat) : (reqAbort s h own code).dueAborts = s.dueAborts ++ [(h, own, code)] := rfl
@[simp] theorem reqAbort_dueHrt (s : State) (h own code : Nat) : (reqAbort s h own code).dueHrt = s.dueHrt := rfl
@[simp] theorem reqAbort_csr (s : State) (h own code : Nat) : (reqAbort s h own code).csr = s.csr := rfl
@[simp] theorem reqAbort_hearths (s : State) (h own code : Nat) : (reqAbort s h own code).hearths = s.hearths := rfl
@[simp] theorem reqAbort_graphs (s : State) (h own code : Nat) : (reqAbort s h own code).graphs = s.graphs := rfl
@[simp] theorem reqAbort_slices (s : State) (h own code : Nat) : (reqAbort s h own code).slices = s.slices := rfl
@[simp] theorem reqAbort_mcast (s : State) (h own code : Nat) : (reqAbort s h own code).mcast = s.mcast := rfl
@[simp] theorem reqAbort_hbm (s : State) (h own code : Nat) : (reqAbort s h own code).hbm = s.hbm := rfl
@[simp] theorem reqAbort_xlts (s : State) (h own code : Nat) : (reqAbort s h own code).xlts = s.xlts := rfl
@[simp] theorem reqAbort_walks (s : State) (h own code : Nat) : (reqAbort s h own code).walks = s.walks := rfl
@[simp] theorem reqAbort_walkCache (s : State) (h own code : Nat) : (reqAbort s h own code).walkCache = s.walkCache := rfl
@[simp] theorem reqAbort_parts (s : State) (h own code : Nat) : (reqAbort s h own code).parts = s.parts := rfl
@[simp] theorem reqAbort_nextKey (s : State) (h own code : Nat) : (reqAbort s h own code).nextKey = s.nextKey := rfl
@[simp] theorem reqAbort_links (s : State) (h own code : Nat) : (reqAbort s h own code).links = s.links := rfl
@[simp] theorem reqAbort_ports (s : State) (h own code : Nat) : (reqAbort s h own code).ports = s.ports := rfl
@[simp] theorem reqAbort_nextPkt (s : State) (h own code : Nat) : (reqAbort s h own code).nextPkt = s.nextPkt := rfl
@[simp] theorem reqAbort_sflows (s : State) (h own code : Nat) : (reqAbort s h own code).sflows = s.sflows := rfl
@[simp] theorem reqAbort_rflows (s : State) (h own code : Nat) : (reqAbort s h own code).rflows = s.rflows := rfl
@[simp] theorem reqAbort_nextFlow (s : State) (h own code : Nat) : (reqAbort s h own code).nextFlow = s.nextFlow := rfl
@[simp] theorem reqAbort_colIn (s : State) (h own code : Nat) : (reqAbort s h own code).colIn = s.colIn := rfl
@[simp] theorem reqAbort_cols (s : State) (h own code : Nat) : (reqAbort s h own code).cols = s.cols := rfl
@[simp] theorem reqAbort_qps (s : State) (h own code : Nat) : (reqAbort s h own code).qps = s.qps := rfl
@[simp] theorem reqAbort_hport (s : State) (h own code : Nat) : (reqAbort s h own code).hport = s.hport := rfl
@[simp] theorem reqAbort_tx (s : State) (h own code : Nat) : (reqAbort s h own code).tx = s.tx := rfl
@[simp] theorem reqAbort_held (s : State) (h own code : Nat) : (reqAbort s h own code).held = s.held := rfl
@[simp] theorem reqAbort_away (s : State) (h own code : Nat) : (reqAbort s h own code).away = s.away := rfl
@[simp] theorem reqAbort_colUnl (s : State) (h own code : Nat) : (reqAbort s h own code).colUnl = s.colUnl := rfl
@[simp] theorem reqAbort_keyRun (s : State) (h own code : Nat) : (reqAbort s h own code).keyRun = s.keyRun := rfl
@[simp] theorem reqAbort_repRun (s : State) (h own code : Nat) : (reqAbort s h own code).repRun = s.repRun := rfl
@[simp] theorem reqAbort_coldStarts (s : State) (h own code : Nat) : (reqAbort s h own code).coldStarts = s.coldStarts := rfl
@[simp] theorem reqAbort_ipfix (s : State) (h own code : Nat) : (reqAbort s h own code).ipfix = s.ipfix := rfl
@[simp] theorem reqAbort_loops (s : State) (h own code : Nat) : (reqAbort s h own code).loops = s.loops := rfl
@[simp] theorem reqAbort_alert (s : State) (h own code : Nat) : (reqAbort s h own code).alert = s.alert := rfl
@[simp] theorem reqAbort_stk (s : State) (h own code : Nat) : (reqAbort s h own code).stk = s.stk := rfl

/-! reqFault -/

@[simp] theorem reqFault_pending (s : State) (h : Nat) (c : HearthFaultCause) : (reqFault s h c).pending = s.pending := rfl
@[simp] theorem reqFault_now (s : State) (h : Nat) (c : HearthFaultCause) : (reqFault s h c).now = s.now := rfl
@[simp] theorem reqFault_fresh (s : State) (h : Nat) (c : HearthFaultCause) : (reqFault s h c).fresh = s.fresh := rfl
@[simp] theorem reqFault_dueAborts (s : State) (h : Nat) (c : HearthFaultCause) : (reqFault s h c).dueAborts = s.dueAborts := rfl
@[simp] theorem reqFault_dueHrt (s : State) (h : Nat) (c : HearthFaultCause) : (reqFault s h c).dueHrt = s.dueHrt ++ [(h, c)] := rfl
@[simp] theorem reqFault_csr (s : State) (h : Nat) (c : HearthFaultCause) : (reqFault s h c).csr = s.csr := rfl
@[simp] theorem reqFault_hearths (s : State) (h : Nat) (c : HearthFaultCause) : (reqFault s h c).hearths = s.hearths := rfl
@[simp] theorem reqFault_graphs (s : State) (h : Nat) (c : HearthFaultCause) : (reqFault s h c).graphs = s.graphs := rfl
@[simp] theorem reqFault_slices (s : State) (h : Nat) (c : HearthFaultCause) : (reqFault s h c).slices = s.slices := rfl
@[simp] theorem reqFault_mcast (s : State) (h : Nat) (c : HearthFaultCause) : (reqFault s h c).mcast = s.mcast := rfl
@[simp] theorem reqFault_hbm (s : State) (h : Nat) (c : HearthFaultCause) : (reqFault s h c).hbm = s.hbm := rfl
@[simp] theorem reqFault_xlts (s : State) (h : Nat) (c : HearthFaultCause) : (reqFault s h c).xlts = s.xlts := rfl
@[simp] theorem reqFault_walks (s : State) (h : Nat) (c : HearthFaultCause) : (reqFault s h c).walks = s.walks := rfl
@[simp] theorem reqFault_walkCache (s : State) (h : Nat) (c : HearthFaultCause) : (reqFault s h c).walkCache = s.walkCache := rfl
@[simp] theorem reqFault_parts (s : State) (h : Nat) (c : HearthFaultCause) : (reqFault s h c).parts = s.parts := rfl
@[simp] theorem reqFault_nextKey (s : State) (h : Nat) (c : HearthFaultCause) : (reqFault s h c).nextKey = s.nextKey := rfl
@[simp] theorem reqFault_links (s : State) (h : Nat) (c : HearthFaultCause) : (reqFault s h c).links = s.links := rfl
@[simp] theorem reqFault_ports (s : State) (h : Nat) (c : HearthFaultCause) : (reqFault s h c).ports = s.ports := rfl
@[simp] theorem reqFault_nextPkt (s : State) (h : Nat) (c : HearthFaultCause) : (reqFault s h c).nextPkt = s.nextPkt := rfl
@[simp] theorem reqFault_sflows (s : State) (h : Nat) (c : HearthFaultCause) : (reqFault s h c).sflows = s.sflows := rfl
@[simp] theorem reqFault_rflows (s : State) (h : Nat) (c : HearthFaultCause) : (reqFault s h c).rflows = s.rflows := rfl
@[simp] theorem reqFault_nextFlow (s : State) (h : Nat) (c : HearthFaultCause) : (reqFault s h c).nextFlow = s.nextFlow := rfl
@[simp] theorem reqFault_colIn (s : State) (h : Nat) (c : HearthFaultCause) : (reqFault s h c).colIn = s.colIn := rfl
@[simp] theorem reqFault_cols (s : State) (h : Nat) (c : HearthFaultCause) : (reqFault s h c).cols = s.cols := rfl
@[simp] theorem reqFault_qps (s : State) (h : Nat) (c : HearthFaultCause) : (reqFault s h c).qps = s.qps := rfl
@[simp] theorem reqFault_hport (s : State) (h : Nat) (c : HearthFaultCause) : (reqFault s h c).hport = s.hport := rfl
@[simp] theorem reqFault_tx (s : State) (h : Nat) (c : HearthFaultCause) : (reqFault s h c).tx = s.tx := rfl
@[simp] theorem reqFault_held (s : State) (h : Nat) (c : HearthFaultCause) : (reqFault s h c).held = s.held := rfl
@[simp] theorem reqFault_away (s : State) (h : Nat) (c : HearthFaultCause) : (reqFault s h c).away = s.away := rfl
@[simp] theorem reqFault_colUnl (s : State) (h : Nat) (c : HearthFaultCause) : (reqFault s h c).colUnl = s.colUnl := rfl
@[simp] theorem reqFault_keyRun (s : State) (h : Nat) (c : HearthFaultCause) : (reqFault s h c).keyRun = s.keyRun := rfl
@[simp] theorem reqFault_repRun (s : State) (h : Nat) (c : HearthFaultCause) : (reqFault s h c).repRun = s.repRun := rfl
@[simp] theorem reqFault_coldStarts (s : State) (h : Nat) (c : HearthFaultCause) : (reqFault s h c).coldStarts = s.coldStarts := rfl
@[simp] theorem reqFault_ipfix (s : State) (h : Nat) (c : HearthFaultCause) : (reqFault s h c).ipfix = s.ipfix := rfl
@[simp] theorem reqFault_loops (s : State) (h : Nat) (c : HearthFaultCause) : (reqFault s h c).loops = s.loops := rfl
@[simp] theorem reqFault_alert (s : State) (h : Nat) (c : HearthFaultCause) : (reqFault s h c).alert = s.alert := rfl
@[simp] theorem reqFault_stk (s : State) (h : Nat) (c : HearthFaultCause) : (reqFault s h c).stk = s.stk := rfl

/-! quiet -/

@[simp] theorem quiet_pending (s : State) : (quiet s).pending = s.pending := rfl
@[simp] theorem quiet_now (s : State) : (quiet s).now = s.now := rfl
@[simp] theorem quiet_fresh (s : State) : (quiet s).fresh = s.fresh := rfl
@[simp] theorem quiet_dueAborts (s : State) : (quiet s).dueAborts = s.dueAborts := rfl
@[simp] theorem quiet_dueHrt (s : State) : (quiet s).dueHrt = s.dueHrt := rfl
@[simp] theorem quiet_csr (s : State) : (quiet s).csr = s.csr := rfl
@[simp] theorem quiet_hearths (s : State) : (quiet s).hearths = s.hearths := rfl
@[simp] theorem quiet_graphs (s : State) : (quiet s).graphs = s.graphs := rfl
@[simp] theorem quiet_slices (s : State) : (quiet s).slices = s.slices := rfl
@[simp] theorem quiet_mcast (s : State) : (quiet s).mcast = s.mcast := rfl
@[simp] theorem quiet_hbm (s : State) : (quiet s).hbm = s.hbm := rfl
@[simp] theorem quiet_xlts (s : State) : (quiet s).xlts = s.xlts := rfl
@[simp] theorem quiet_walks (s : State) : (quiet s).walks = s.walks := rfl
@[simp] theorem quiet_walkCache (s : State) : (quiet s).walkCache = s.walkCache := rfl
@[simp] theorem quiet_parts (s : State) : (quiet s).parts = s.parts := rfl
@[simp] theorem quiet_nextKey (s : State) : (quiet s).nextKey = s.nextKey := rfl
@[simp] theorem quiet_links (s : State) : (quiet s).links = s.links := rfl
@[simp] theorem quiet_ports (s : State) : (quiet s).ports = s.ports := rfl
@[simp] theorem quiet_nextPkt (s : State) : (quiet s).nextPkt = s.nextPkt := rfl
@[simp] theorem quiet_sflows (s : State) : (quiet s).sflows = s.sflows := rfl
@[simp] theorem quiet_rflows (s : State) : (quiet s).rflows = s.rflows := rfl
@[simp] theorem quiet_nextFlow (s : State) : (quiet s).nextFlow = s.nextFlow := rfl
@[simp] theorem quiet_colIn (s : State) : (quiet s).colIn = s.colIn := rfl
@[simp] theorem quiet_cols (s : State) : (quiet s).cols = s.cols := rfl
@[simp] theorem quiet_qps (s : State) : (quiet s).qps = s.qps := rfl
@[simp] theorem quiet_hport (s : State) : (quiet s).hport = s.hport := rfl
@[simp] theorem quiet_tx (s : State) : (quiet s).tx = [] := rfl
@[simp] theorem quiet_held (s : State) : (quiet s).held = false := rfl
@[simp] theorem quiet_away (s : State) : (quiet s).away = s.away := rfl
@[simp] theorem quiet_colUnl (s : State) : (quiet s).colUnl = s.colUnl := rfl
@[simp] theorem quiet_keyRun (s : State) : (quiet s).keyRun = s.keyRun := rfl
@[simp] theorem quiet_repRun (s : State) : (quiet s).repRun = s.repRun := rfl
@[simp] theorem quiet_coldStarts (s : State) : (quiet s).coldStarts = s.coldStarts := rfl
@[simp] theorem quiet_ipfix (s : State) : (quiet s).ipfix = s.ipfix := rfl
@[simp] theorem quiet_loops (s : State) : (quiet s).loops = s.loops := rfl
@[simp] theorem quiet_alert (s : State) : (quiet s).alert = s.alert := rfl
@[simp] theorem quiet_stk (s : State) : (quiet s).stk = s.stk := rfl

/-! freeBits -/

@[simp] theorem freeBits_pending (s : State) (len : Nat) : (freeBits s len).2.pending = s.pending := rfl
@[simp] theorem freeBits_now (s : State) (len : Nat) : (freeBits s len).2.now = s.now := rfl
@[simp] theorem freeBits_fresh (s : State) (len : Nat) : (freeBits s len).2.fresh = s.fresh + 1 := rfl
@[simp] theorem freeBits_dueAborts (s : State) (len : Nat) : (freeBits s len).2.dueAborts = s.dueAborts := rfl
@[simp] theorem freeBits_dueHrt (s : State) (len : Nat) : (freeBits s len).2.dueHrt = s.dueHrt := rfl
@[simp] theorem freeBits_csr (s : State) (len : Nat) : (freeBits s len).2.csr = s.csr := rfl
@[simp] theorem freeBits_hearths (s : State) (len : Nat) : (freeBits s len).2.hearths = s.hearths := rfl
@[simp] theorem freeBits_graphs (s : State) (len : Nat) : (freeBits s len).2.graphs = s.graphs := rfl
@[simp] theorem freeBits_slices (s : State) (len : Nat) : (freeBits s len).2.slices = s.slices := rfl
@[simp] theorem freeBits_mcast (s : State) (len : Nat) : (freeBits s len).2.mcast = s.mcast := rfl
@[simp] theorem freeBits_hbm (s : State) (len : Nat) : (freeBits s len).2.hbm = s.hbm := rfl
@[simp] theorem freeBits_xlts (s : State) (len : Nat) : (freeBits s len).2.xlts = s.xlts := rfl
@[simp] theorem freeBits_walks (s : State) (len : Nat) : (freeBits s len).2.walks = s.walks := rfl
@[simp] theorem freeBits_walkCache (s : State) (len : Nat) : (freeBits s len).2.walkCache = s.walkCache := rfl
@[simp] theorem freeBits_parts (s : State) (len : Nat) : (freeBits s len).2.parts = s.parts := rfl
@[simp] theorem freeBits_nextKey (s : State) (len : Nat) : (freeBits s len).2.nextKey = s.nextKey := rfl
@[simp] theorem freeBits_links (s : State) (len : Nat) : (freeBits s len).2.links = s.links := rfl
@[simp] theorem freeBits_ports (s : State) (len : Nat) : (freeBits s len).2.ports = s.ports := rfl
@[simp] theorem freeBits_nextPkt (s : State) (len : Nat) : (freeBits s len).2.nextPkt = s.nextPkt := rfl
@[simp] theorem freeBits_sflows (s : State) (len : Nat) : (freeBits s len).2.sflows = s.sflows := rfl
@[simp] theorem freeBits_rflows (s : State) (len : Nat) : (freeBits s len).2.rflows = s.rflows := rfl
@[simp] theorem freeBits_nextFlow (s : State) (len : Nat) : (freeBits s len).2.nextFlow = s.nextFlow := rfl
@[simp] theorem freeBits_colIn (s : State) (len : Nat) : (freeBits s len).2.colIn = s.colIn := rfl
@[simp] theorem freeBits_cols (s : State) (len : Nat) : (freeBits s len).2.cols = s.cols := rfl
@[simp] theorem freeBits_qps (s : State) (len : Nat) : (freeBits s len).2.qps = s.qps := rfl
@[simp] theorem freeBits_hport (s : State) (len : Nat) : (freeBits s len).2.hport = s.hport := rfl
@[simp] theorem freeBits_tx (s : State) (len : Nat) : (freeBits s len).2.tx = s.tx := rfl
@[simp] theorem freeBits_held (s : State) (len : Nat) : (freeBits s len).2.held = s.held := rfl
@[simp] theorem freeBits_away (s : State) (len : Nat) : (freeBits s len).2.away = s.away := rfl
@[simp] theorem freeBits_colUnl (s : State) (len : Nat) : (freeBits s len).2.colUnl = s.colUnl := rfl
@[simp] theorem freeBits_keyRun (s : State) (len : Nat) : (freeBits s len).2.keyRun = s.keyRun := rfl
@[simp] theorem freeBits_repRun (s : State) (len : Nat) : (freeBits s len).2.repRun = s.repRun := rfl
@[simp] theorem freeBits_coldStarts (s : State) (len : Nat) : (freeBits s len).2.coldStarts = s.coldStarts := rfl
@[simp] theorem freeBits_ipfix (s : State) (len : Nat) : (freeBits s len).2.ipfix = s.ipfix := rfl
@[simp] theorem freeBits_loops (s : State) (len : Nat) : (freeBits s len).2.loops = s.loops := rfl
@[simp] theorem freeBits_alert (s : State) (len : Nat) : (freeBits s len).2.alert = s.alert := rfl
@[simp] theorem freeBits_stk (s : State) (len : Nat) : (freeBits s len).2.stk = s.stk := rfl

/-! bump -/

@[simp] theorem bump_pending (s : State) (frz : Bool) (r : Reg) (n w : Nat) : (bump s frz r n w).pending = s.pending := by unfold bump; split <;> rfl
@[simp] theorem bump_now (s : State) (frz : Bool) (r : Reg) (n w : Nat) : (bump s frz r n w).now = s.now := by unfold bump; split <;> rfl
@[simp] theorem bump_fresh (s : State) (frz : Bool) (r : Reg) (n w : Nat) : (bump s frz r n w).fresh = s.fresh := by unfold bump; split <;> rfl
@[simp] theorem bump_dueAborts (s : State) (frz : Bool) (r : Reg) (n w : Nat) : (bump s frz r n w).dueAborts = s.dueAborts := by unfold bump; split <;> rfl
@[simp] theorem bump_dueHrt (s : State) (frz : Bool) (r : Reg) (n w : Nat) : (bump s frz r n w).dueHrt = s.dueHrt := by unfold bump; split <;> rfl
@[simp] theorem bump_hearths (s : State) (frz : Bool) (r : Reg) (n w : Nat) : (bump s frz r n w).hearths = s.hearths := by unfold bump; split <;> rfl
@[simp] theorem bump_graphs (s : State) (frz : Bool) (r : Reg) (n w : Nat) : (bump s frz r n w).graphs = s.graphs := by unfold bump; split <;> rfl
@[simp] theorem bump_slices (s : State) (frz : Bool) (r : Reg) (n w : Nat) : (bump s frz r n w).slices = s.slices := by unfold bump; split <;> rfl
@[simp] theorem bump_mcast (s : State) (frz : Bool) (r : Reg) (n w : Nat) : (bump s frz r n w).mcast = s.mcast := by unfold bump; split <;> rfl
@[simp] theorem bump_hbm (s : State) (frz : Bool) (r : Reg) (n w : Nat) : (bump s frz r n w).hbm = s.hbm := by unfold bump; split <;> rfl
@[simp] theorem bump_xlts (s : State) (frz : Bool) (r : Reg) (n w : Nat) : (bump s frz r n w).xlts = s.xlts := by unfold bump; split <;> rfl
@[simp] theorem bump_walks (s : State) (frz : Bool) (r : Reg) (n w : Nat) : (bump s frz r n w).walks = s.walks := by unfold bump; split <;> rfl
@[simp] theorem bump_walkCache (s : State) (frz : Bool) (r : Reg) (n w : Nat) : (bump s frz r n w).walkCache = s.walkCache := by unfold bump; split <;> rfl
@[simp] theorem bump_parts (s : State) (frz : Bool) (r : Reg) (n w : Nat) : (bump s frz r n w).parts = s.parts := by unfold bump; split <;> rfl
@[simp] theorem bump_nextKey (s : State) (frz : Bool) (r : Reg) (n w : Nat) : (bump s frz r n w).nextKey = s.nextKey := by unfold bump; split <;> rfl
@[simp] theorem bump_links (s : State) (frz : Bool) (r : Reg) (n w : Nat) : (bump s frz r n w).links = s.links := by unfold bump; split <;> rfl
@[simp] theorem bump_ports (s : State) (frz : Bool) (r : Reg) (n w : Nat) : (bump s frz r n w).ports = s.ports := by unfold bump; split <;> rfl
@[simp] theorem bump_nextPkt (s : State) (frz : Bool) (r : Reg) (n w : Nat) : (bump s frz r n w).nextPkt = s.nextPkt := by unfold bump; split <;> rfl
@[simp] theorem bump_sflows (s : State) (frz : Bool) (r : Reg) (n w : Nat) : (bump s frz r n w).sflows = s.sflows := by unfold bump; split <;> rfl
@[simp] theorem bump_rflows (s : State) (frz : Bool) (r : Reg) (n w : Nat) : (bump s frz r n w).rflows = s.rflows := by unfold bump; split <;> rfl
@[simp] theorem bump_nextFlow (s : State) (frz : Bool) (r : Reg) (n w : Nat) : (bump s frz r n w).nextFlow = s.nextFlow := by unfold bump; split <;> rfl
@[simp] theorem bump_colIn (s : State) (frz : Bool) (r : Reg) (n w : Nat) : (bump s frz r n w).colIn = s.colIn := by unfold bump; split <;> rfl
@[simp] theorem bump_cols (s : State) (frz : Bool) (r : Reg) (n w : Nat) : (bump s frz r n w).cols = s.cols := by unfold bump; split <;> rfl
@[simp] theorem bump_qps (s : State) (frz : Bool) (r : Reg) (n w : Nat) : (bump s frz r n w).qps = s.qps := by unfold bump; split <;> rfl
@[simp] theorem bump_hport (s : State) (frz : Bool) (r : Reg) (n w : Nat) : (bump s frz r n w).hport = s.hport := by unfold bump; split <;> rfl
@[simp] theorem bump_tx (s : State) (frz : Bool) (r : Reg) (n w : Nat) : (bump s frz r n w).tx = s.tx := by unfold bump; split <;> rfl
@[simp] theorem bump_held (s : State) (frz : Bool) (r : Reg) (n w : Nat) : (bump s frz r n w).held = s.held := by unfold bump; split <;> rfl
@[simp] theorem bump_away (s : State) (frz : Bool) (r : Reg) (n w : Nat) : (bump s frz r n w).away = s.away := by unfold bump; split <;> rfl
@[simp] theorem bump_colUnl (s : State) (frz : Bool) (r : Reg) (n w : Nat) : (bump s frz r n w).colUnl = s.colUnl := by unfold bump; split <;> rfl
@[simp] theorem bump_keyRun (s : State) (frz : Bool) (r : Reg) (n w : Nat) : (bump s frz r n w).keyRun = s.keyRun := by unfold bump; split <;> rfl
@[simp] theorem bump_repRun (s : State) (frz : Bool) (r : Reg) (n w : Nat) : (bump s frz r n w).repRun = s.repRun := by unfold bump; split <;> rfl
@[simp] theorem bump_coldStarts (s : State) (frz : Bool) (r : Reg) (n w : Nat) : (bump s frz r n w).coldStarts = s.coldStarts := by unfold bump; split <;> rfl
@[simp] theorem bump_ipfix (s : State) (frz : Bool) (r : Reg) (n w : Nat) : (bump s frz r n w).ipfix = s.ipfix := by unfold bump; split <;> rfl
@[simp] theorem bump_loops (s : State) (frz : Bool) (r : Reg) (n w : Nat) : (bump s frz r n w).loops = s.loops := by unfold bump; split <;> rfl
@[simp] theorem bump_alert (s : State) (frz : Bool) (r : Reg) (n w : Nat) : (bump s frz r n w).alert = s.alert := by unfold bump; split <;> rfl
@[simp] theorem bump_stk (s : State) (frz : Bool) (r : Reg) (n w : Nat) : (bump s frz r n w).stk = s.stk := by unfold bump; split <;> rfl

/-! logErr -/

@[simp] theorem logErr_pending (s : State) (log cnt : Reg) (v : Nat) : (logErr s log cnt v).pending = s.pending := by unfold logErr; dsimp only; split <;> split <;> rfl
@[simp] theorem logErr_now (s : State) (log cnt : Reg) (v : Nat) : (logErr s log cnt v).now = s.now := by unfold logErr; dsimp only; split <;> split <;> rfl
@[simp] theorem logErr_fresh (s : State) (log cnt : Reg) (v : Nat) : (logErr s log cnt v).fresh = s.fresh := by unfold logErr; dsimp only; split <;> split <;> rfl
@[simp] theorem logErr_dueAborts (s : State) (log cnt : Reg) (v : Nat) : (logErr s log cnt v).dueAborts = s.dueAborts := by unfold logErr; dsimp only; split <;> split <;> rfl
@[simp] theorem logErr_dueHrt (s : State) (log cnt : Reg) (v : Nat) : (logErr s log cnt v).dueHrt = s.dueHrt := by unfold logErr; dsimp only; split <;> split <;> rfl
@[simp] theorem logErr_hearths (s : State) (log cnt : Reg) (v : Nat) : (logErr s log cnt v).hearths = s.hearths := by unfold logErr; dsimp only; split <;> split <;> rfl
@[simp] theorem logErr_graphs (s : State) (log cnt : Reg) (v : Nat) : (logErr s log cnt v).graphs = s.graphs := by unfold logErr; dsimp only; split <;> split <;> rfl
@[simp] theorem logErr_slices (s : State) (log cnt : Reg) (v : Nat) : (logErr s log cnt v).slices = s.slices := by unfold logErr; dsimp only; split <;> split <;> rfl
@[simp] theorem logErr_mcast (s : State) (log cnt : Reg) (v : Nat) : (logErr s log cnt v).mcast = s.mcast := by unfold logErr; dsimp only; split <;> split <;> rfl
@[simp] theorem logErr_hbm (s : State) (log cnt : Reg) (v : Nat) : (logErr s log cnt v).hbm = s.hbm := by unfold logErr; dsimp only; split <;> split <;> rfl
@[simp] theorem logErr_xlts (s : State) (log cnt : Reg) (v : Nat) : (logErr s log cnt v).xlts = s.xlts := by unfold logErr; dsimp only; split <;> split <;> rfl
@[simp] theorem logErr_walks (s : State) (log cnt : Reg) (v : Nat) : (logErr s log cnt v).walks = s.walks := by unfold logErr; dsimp only; split <;> split <;> rfl
@[simp] theorem logErr_walkCache (s : State) (log cnt : Reg) (v : Nat) : (logErr s log cnt v).walkCache = s.walkCache := by unfold logErr; dsimp only; split <;> split <;> rfl
@[simp] theorem logErr_parts (s : State) (log cnt : Reg) (v : Nat) : (logErr s log cnt v).parts = s.parts := by unfold logErr; dsimp only; split <;> split <;> rfl
@[simp] theorem logErr_nextKey (s : State) (log cnt : Reg) (v : Nat) : (logErr s log cnt v).nextKey = s.nextKey := by unfold logErr; dsimp only; split <;> split <;> rfl
@[simp] theorem logErr_links (s : State) (log cnt : Reg) (v : Nat) : (logErr s log cnt v).links = s.links := by unfold logErr; dsimp only; split <;> split <;> rfl
@[simp] theorem logErr_ports (s : State) (log cnt : Reg) (v : Nat) : (logErr s log cnt v).ports = s.ports := by unfold logErr; dsimp only; split <;> split <;> rfl
@[simp] theorem logErr_nextPkt (s : State) (log cnt : Reg) (v : Nat) : (logErr s log cnt v).nextPkt = s.nextPkt := by unfold logErr; dsimp only; split <;> split <;> rfl
@[simp] theorem logErr_sflows (s : State) (log cnt : Reg) (v : Nat) : (logErr s log cnt v).sflows = s.sflows := by unfold logErr; dsimp only; split <;> split <;> rfl
@[simp] theorem logErr_rflows (s : State) (log cnt : Reg) (v : Nat) : (logErr s log cnt v).rflows = s.rflows := by unfold logErr; dsimp only; split <;> split <;> rfl
@[simp] theorem logErr_nextFlow (s : State) (log cnt : Reg) (v : Nat) : (logErr s log cnt v).nextFlow = s.nextFlow := by unfold logErr; dsimp only; split <;> split <;> rfl
@[simp] theorem logErr_colIn (s : State) (log cnt : Reg) (v : Nat) : (logErr s log cnt v).colIn = s.colIn := by unfold logErr; dsimp only; split <;> split <;> rfl
@[simp] theorem logErr_cols (s : State) (log cnt : Reg) (v : Nat) : (logErr s log cnt v).cols = s.cols := by unfold logErr; dsimp only; split <;> split <;> rfl
@[simp] theorem logErr_qps (s : State) (log cnt : Reg) (v : Nat) : (logErr s log cnt v).qps = s.qps := by unfold logErr; dsimp only; split <;> split <;> rfl
@[simp] theorem logErr_hport (s : State) (log cnt : Reg) (v : Nat) : (logErr s log cnt v).hport = s.hport := by unfold logErr; dsimp only; split <;> split <;> rfl
@[simp] theorem logErr_tx (s : State) (log cnt : Reg) (v : Nat) : (logErr s log cnt v).tx = s.tx := by unfold logErr; dsimp only; split <;> split <;> rfl
@[simp] theorem logErr_held (s : State) (log cnt : Reg) (v : Nat) : (logErr s log cnt v).held = s.held := by unfold logErr; dsimp only; split <;> split <;> rfl
@[simp] theorem logErr_away (s : State) (log cnt : Reg) (v : Nat) : (logErr s log cnt v).away = s.away := by unfold logErr; dsimp only; split <;> split <;> rfl
@[simp] theorem logErr_colUnl (s : State) (log cnt : Reg) (v : Nat) : (logErr s log cnt v).colUnl = s.colUnl := by unfold logErr; dsimp only; split <;> split <;> rfl
@[simp] theorem logErr_keyRun (s : State) (log cnt : Reg) (v : Nat) : (logErr s log cnt v).keyRun = s.keyRun := by unfold logErr; dsimp only; split <;> split <;> rfl
@[simp] theorem logErr_repRun (s : State) (log cnt : Reg) (v : Nat) : (logErr s log cnt v).repRun = s.repRun := by unfold logErr; dsimp only; split <;> split <;> rfl
@[simp] theorem logErr_coldStarts (s : State) (log cnt : Reg) (v : Nat) : (logErr s log cnt v).coldStarts = s.coldStarts := by unfold logErr; dsimp only; split <;> split <;> rfl
@[simp] theorem logErr_ipfix (s : State) (log cnt : Reg) (v : Nat) : (logErr s log cnt v).ipfix = s.ipfix := by unfold logErr; dsimp only; split <;> split <;> rfl
@[simp] theorem logErr_loops (s : State) (log cnt : Reg) (v : Nat) : (logErr s log cnt v).loops = s.loops := by unfold logErr; dsimp only; split <;> split <;> rfl
@[simp] theorem logErr_alert (s : State) (log cnt : Reg) (v : Nat) : (logErr s log cnt v).alert = s.alert := by unfold logErr; dsimp only; split <;> split <;> rfl
@[simp] theorem logErr_stk (s : State) (log cnt : Reg) (v : Nat) : (logErr s log cnt v).stk = s.stk := by unfold logErr; dsimp only; split <;> split <;> rfl

end Sys2Proof.Machine
end

