-- ==== Sys2Proof/Laws/Tbl.lean ====
section
/-!
SUPPORT. Laws of sparse tables and of byte memories: a read after a write, every other place untouched, and the canonical form, which every
memory operation keeps.
-/

namespace Sys2Proof.Machine

variable {α : Type}

@[simp] theorem tget_nil (k : Nat) : tget ([] : Tbl α) k = none := rfl

theorem tget_cons (k' : Nat) (v : α) (r : Tbl α) (k : Nat) : tget ((k', v) :: r) k = if k' = k then some v else tget r k := rfl

@[simp] theorem tget_tput_same (t : Tbl α) (k : Nat) (v : α) : tget (tput t k v) k = some v := by
  induction t with
  | nil => simp [tput, tget]
  | cons e r ih =>
    obtain ⟨k', v'⟩ := e
    simp only [tput]
    split
    · simp [tget]
    · split
      · simp [tget]
      · rename_i h1 h2
        simp [tget, ih, Ne.symm h2]

theorem tget_tput_other (t : Tbl α) {j k : Nat} (h : j ≠ k) (v : α) : tget (tput t k v) j = tget t j := by
  induction t with
  | nil => simp [tput, tget, Ne.symm h]
  | cons e r ih =>
    obtain ⟨k', v'⟩ := e
    simp only [tput]
    split
    · simp [tget, Ne.symm h]
    · split
      · subst_vars
        simp [tget, Ne.symm h]
      · simp [tget, ih]

theorem tget_tdel_other (t : Tbl α) {j k : Nat} (h : j ≠ k) : tget (tdel t k) j = tget t j := by
  induction t with
  | nil => rfl
  | cons e r ih =>
    obtain ⟨k', v'⟩ := e
    simp only [tdel]
    split
    · subst_vars
      simp [tget, Ne.symm h, ih]
    · simp [tget, ih]

@[simp] theorem tget_tdel_same (t : Tbl α) (k : Nat) : tget (tdel t k) k = none := by
  induction t with
  | nil => rfl
  | cons e r ih =>
    obtain ⟨k', v'⟩ := e
    simp only [tdel]
    split
    · exact ih
    · rename_i hk
      simp [tget, hk, ih]

@[simp] theorem tgetD_tput_same (t : Tbl α) (k : Nat) (v d : α) : tgetD (tput t k v) k d = v := by simp [tgetD]

theorem tgetD_tput_other (t : Tbl α) {j k : Nat} (h : j ≠ k) (v d : α) : tgetD (tput t k v) j d = tgetD t j d := by
  simp [tgetD, tget_tput_other t h]

theorem tgetD_tdel_other (t : Tbl α) {j k : Nat} (h : j ≠ k) (d : α) : tgetD (tdel t k) j d = tgetD t j d := by
  simp [tgetD, tget_tdel_other t h]

/-- The keys rise exactly when they are pairwise in order. -/
theorem keysRise_iff (t : Tbl α) : keysRise t = true ↔ t.Pairwise (fun a b => a.1 < b.1) := by
  induction t with
  | nil => simp [keysRise]
  | cons e r ih =>
    cases r with
    | nil => simp [keysRise]
    | cons f q =>
      simp only [keysRise, Bool.and_eq_true, decide_eq_true_eq, ih, List.pairwise_cons, List.mem_cons, forall_eq_or_imp]
      constructor
      · rintro ⟨h1, h2, h3⟩
        exact ⟨⟨h1, fun a ha => Nat.lt_trans h1 (h2 a ha)⟩, h2, h3⟩
      · rintro ⟨⟨h1, _⟩, h2, h3⟩
        exact ⟨h1, h2, h3⟩

theorem mem_tput {t : Tbl α} {k : Nat} {v : α} {e : Nat × α} (h : e ∈ tput t k v) : e = (k, v) ∨ e ∈ t := by
  induction t with
  | nil => exact .inl (by simpa [tput] using h)
  | cons f r ih =>
    obtain ⟨k', v'⟩ := f
    simp only [tput] at h
    split at h
    · simpa using h
    · split at h
      · rcases List.mem_cons.1 h with h | h
        · exact .inl h
        · exact .inr (List.mem_cons_of_mem _ h)
      · rcases List.mem_cons.1 h with h | h
        · exact .inr (by simp [h])
        · rcases ih h with h | h
          · exact .inl h
          · exact .inr (List.mem_cons_of_mem _ h)

theorem mem_tdel {t : Tbl α} {k : Nat} {e : Nat × α} (h : e ∈ tdel t k) : e ∈ t := by
  induction t with
  | nil => simp [tdel] at h
  | cons f r ih =>
    obtain ⟨k', v'⟩ := f
    simp only [tdel] at h
    split at h
    · exact List.mem_cons_of_mem _ (ih h)
    · rcases List.mem_cons.1 h with h | h
      · simp [h]
      · exact List.mem_cons_of_mem _ (ih h)

theorem keysRise_tput {t : Tbl α} (h : keysRise t = true) (k : Nat) (v : α) : keysRise (tput t k v) = true := by
  rw [keysRise_iff] at *
  induction t with
  | nil => simp [tput]
  | cons e r ih =>
    obtain ⟨k', v'⟩ := e
    rw [List.pairwise_cons] at h
    simp only [tput]
    split
    · rename_i hk
      refine List.pairwise_cons.2 ⟨?_, List.pairwise_cons.2 h⟩
      intro a ha
      rcases List.mem_cons.1 ha with rfl | ha
      · exact hk
      · exact Nat.lt_trans hk (h.1 a ha)
    · split
      · rename_i hk
        subst hk
        exact List.pairwise_cons.2 ⟨h.1, h.2⟩
      · rename_i h1 h2
        refine List.pairwise_cons.2 ⟨?_, ih h.2⟩
        intro a ha
        rcases mem_tput ha with rfl | ha
        · exact Nat.lt_of_le_of_ne (Nat.le_of_not_lt h1) (Ne.symm h2)
        · exact h.1 a ha

theorem keysRise_tdel {t : Tbl α} (h : keysRise t = true) (k : Nat) : keysRise (tdel t k) = true := by
  rw [keysRise_iff] at *
  induction t with
  | nil => simp [tdel]
  | cons e r ih =>
    obtain ⟨k', v'⟩ := e
    rw [List.pairwise_cons] at h
    simp only [tdel]
    split
    · exact ih h.2
    · exact List.pairwise_cons.2 ⟨fun a ha => h.1 a (mem_tdel ha), ih h.2⟩

theorem keysRise_filter {t : Tbl α} (h : keysRise t = true) (p : Nat × α → Bool) : keysRise (t.filter p) = true := by
  rw [keysRise_iff] at *
  exact h.filter p

/-! Byte memories. -/

theorem memory_wf_nil : Memory.wf [] = true := rfl

theorem memory_wf_iff (m : Mem) : Memory.wf m = true ↔ keysRise m = true ∧ ∀ c ∈ m, c.2 ≠ memDefault := by
  simp [Memory.wf, List.all_eq_true]

/-- A read after a write of one byte to the same address gives the byte written. -/
@[simp] theorem memGet_memPut_same (m : Mem) (a : Nat) (b : Byte) : memGet (memPut m a b) a = b := by
  unfold memGet memPut
  split
  · rename_i hb
    simp [tgetD, hb]
  · simp

/-- A write of one byte leaves every other address alone. -/
theorem memGet_memPut_other (m : Mem) {a c : Nat} (h : c ≠ a) (b : Byte) : memGet (memPut m a b) c = memGet m c := by
  unfold memGet memPut
  split
  · exact tgetD_tdel_other m h _
  · exact tgetD_tput_other m h _ _

theorem memory_wf_memPut {m : Mem} (h : Memory.wf m = true) (a : Nat) (b : Byte) : Memory.wf (memPut m a b) = true := by
  rw [memory_wf_iff] at *
  unfold memPut
  split
  · exact ⟨keysRise_tdel h.1 a, fun c hc => h.2 c (mem_tdel hc)⟩
  · rename_i hb
    refine ⟨keysRise_tput h.1 a b, fun c hc => ?_⟩
    rcases mem_tput hc with rfl | hc
    · exact hb
    · exact h.2 c hc

theorem memory_wf_memPutL (bs : List Byte) {m : Mem} (h : Memory.wf m = true) (a : Nat) : Memory.wf (memPutL m a bs) = true := by
  induction bs generalizing m a with
  | nil => exact h
  | cons b r ih => exact ih (memory_wf_memPut h a b) (a + 1)

theorem memory_wf_memZero {m : Mem} (h : Memory.wf m = true) (a n : Nat) : Memory.wf (memZero m a n) = true := by
  rw [memory_wf_iff] at *
  exact ⟨keysRise_filter h.1 _, fun c hc => h.2 c (List.mem_of_mem_filter hc)⟩

/-- A write of consecutive bytes leaves every address outside them alone. -/
theorem memGet_memPutL_other (bs : List Byte) (m : Mem) (a : Nat) {c : Nat} (h : c < a ∨ a + bs.length ≤ c) :
    memGet (memPutL m a bs) c = memGet m c := by
  induction bs generalizing m a with
  | nil => rfl
  | cons b r ih =>
    simp only [memPutL, List.length_cons] at *
    rw [ih _ _ (by omega), memGet_memPut_other m (by omega)]

/-- A read after a write of consecutive bytes gives the bytes written. -/
theorem memGet_memPutL (bs : List Byte) (m : Mem) (a i : Nat) (hi : i < bs.length) :
    memGet (memPutL m a bs) (a + i) = bs[i] := by
  induction bs generalizing m a i with
  | nil => simp at hi
  | cons b r ih =>
    simp only [memPutL]
    cases i with
    | zero => rw [memGet_memPutL_other _ _ _ (by omega)]; simp
    | succ i =>
      have := ih (memPut m a b) (a + 1) i (by simpa using hi)
      rw [show a + (i + 1) = a + 1 + i by omega, this]
      simp

theorem memGetL_memPutL (bs : List Byte) (m : Mem) (a : Nat) : memGetL (memPutL m a bs) a bs.length = bs := by
  apply List.ext_getElem
  · simp [memGetL]
  · intro i h1 h2
    simp [memGetL, memGet_memPutL bs m a i h2]

theorem tget_filter_key (t : Tbl α) (q : Nat → Bool) (k : Nat) : tget (t.filter (fun c => q c.1)) k = if q k then tget t k else none := by
  induction t with
  | nil => simp [tget]
  | cons e r ih =>
    obtain ⟨k', v'⟩ := e
    simp only [List.filter_cons]
    by_cases hq : q k' = true
    · rw [if_pos (by simpa using hq), tget_cons, tget_cons, ih]
      by_cases hk : k' = k
      · subst hk; simp [hq]
      · simp [hk]
    · rw [if_neg (by simpa using hq), ih, tget_cons]
      by_cases hk : k' = k
      · subst hk; simp [hq]
      · simp [hk]

/-- Clearing a range: inside it every byte reads 0, outside it every byte is as before. -/
theorem memGet_memZero (m : Mem) (a n c : Nat) : memGet (memZero m a n) c = if c < a ∨ a + n ≤ c then memGet m c else 0 := by
  have h := tget_filter_key m (fun k => decide (k < a) || decide (a + n ≤ k)) c
  simp only [memGet, memZero, tgetD]
  rw [h]
  by_cases hc : c < a ∨ a + n ≤ c
  · simp [hc]
  · simp [hc, memDefault]

/-! Lists by position. -/

@[simp] theorem lget_nil (i : Nat) : lget ([] : List α) i = none := rfl

theorem lget_eq (l : List α) (i : Nat) : lget l i = l[i]? := by
  induction l generalizing i with
  | nil => rfl
  | cons x r ih => cases i <;> simp [lget, ih]

theorem lset_eq (l : List α) (i : Nat) (v : α) : lset l i v = l.set i v := by
  induction l generalizing i with
  | nil => rfl
  | cons x r ih => cases i <;> simp [lset, ih]

theorem ldel_eq (l : List α) (i : Nat) : ldel l i = l.eraseIdx i := by
  induction l generalizing i with
  | nil => rfl
  | cons x r ih => cases i <;> simp [ldel, ih]

end Sys2Proof.Machine
end

