-- ==== Sys2Proof/Laws/Settle.lean ====
section
/-!
SUPPORT. Laws of registers, of hearths and units after an update, and of what follows from a command: on a calm device nothing but the note of
R448.
-/

namespace Sys2Proof.Machine

/-! Registers. -/

@[simp] theorem rd_wr_same (s : State) (r : Reg) (v : Nat) : rd (wr s r v) r = v := by
  unfold rd wr csrPut
  by_cases h : v = r.rst
  · simp [h, tgetD]
  · simp [h]

theorem rd_wr_other (s : State) {r q : Reg} (h : q.addr ≠ r.addr) (v : Nat) : rd (wr s r v) q = rd s q := by
  unfold rd wr csrPut
  dsimp only
  split
  · exact tgetD_tdel_other _ h _
  · exact tgetD_tput_other _ h _ _

theorem rd_congr {s t : State} (h : t.csr = s.csr) (r : Reg) : rd t r = rd s r := by simp [rd, h]

theorem rd_bump_same (s : State) (frz : Bool) (r : Reg) (n w : Nat) :
    rd (bump s frz r n w) r = if frz then rd s r else (rd s r + n) % 2 ^ w := by
  unfold bump
  split <;> simp_all

theorem rd_bump_other (s : State) (frz : Bool) {r q : Reg} (h : q.addr ≠ r.addr) (n w : Nat) : rd (bump s frz r n w) q = rd s q := by
  unfold bump
  split
  · rfl
  · exact rd_wr_other s h _

theorem rd_logErr_other (s : State) {l c q : Reg} (h1 : q.addr ≠ l.addr) (h2 : q.addr ≠ c.addr) (v : Nat) : rd (logErr s l c v) q = rd s q := by
  unfold logErr
  dsimp only
  split <;> split <;> simp [rd_wr_other _ h1, rd_wr_other _ h2]

/-! Units after an update. -/

@[simp] theorem hget_hput_same (s : State) (h : Nat) (x : Hearth) : hget (hput s h x) h = x := by simp [hget]
theorem hget_hput_other (s : State) {h k : Nat} (hk : k ≠ h) (x : Hearth) : hget (hput s h x) k = hget s k := tgetD_tput_other _ hk _ _
@[simp] theorem hget_hmod_same (s : State) (h : Nat) (f : Hearth → Hearth) : hget (hmod s h f) h = f (hget s h) := by simp [hmod]
theorem hget_hmod_other (s : State) {h k : Nat} (hk : k ≠ h) (f : Hearth → Hearth) : hget (hmod s h f) k = hget s k := hget_hput_other s hk _
theorem hget_congr {s t : State} (h : t.hearths = s.hearths) (k : Nat) : hget t k = hget s k := by simp [hget, h]
@[simp] theorem gget_gput_same (s : State) (p : Nat) (x : GraphEng) : gget (gput s p x) p = x := by simp [gget]
@[simp] theorem gget_gmod_same (s : State) (p : Nat) (f : GraphEng → GraphEng) : gget (gmod s p f) p = f (gget s p) := by simp [gmod]
theorem gget_congr {s t : State} (h : t.graphs = s.graphs) (k : Nat) : gget t k = gget s k := by simp [gget, h]
@[simp] theorem slGet_slPut_same (s : State) (sl : Nat) (x : Slice) : slGet (slPut s sl x) sl = x := by simp [slGet]
@[simp] theorem slGet_slMod_same (s : State) (sl : Nat) (f : Slice → Slice) : slGet (slMod s sl f) sl = f (slGet s sl) := by simp [slMod]
theorem slGet_congr {s t : State} (h : t.slices = s.slices) (k : Nat) : slGet t k = slGet s k := by simp [slGet, h]
theorem partGet_congr {s t : State} (h : t.parts = s.parts) (p : Nat) : partGet t p = partGet s p := by simp [partGet, h]

/-! What follows from a command. -/

theorem follows_overNote {q : List Instr} {u s : State} (h : Follows q u { s with pending := q, dueAborts := [], dueHrt := [] }) (p : Nat) :
    Follows q u { overNote s p with pending := q, dueAborts := [], dueHrt := [] } := by
  have key : ∀ (s1 : State), s1 = partMod s p (fun x => { x with over_ := (hbmOver s p || chmOver s p) }) →
      Follows q u { s1 with pending := q, dueAborts := [], dueHrt := [] } := by
    rintro _ rfl
    refine ⟨?_, ?_, ?_⟩
    · have := h.eq
      rw [State.mk.injEq] at this ⊢
      simp at this ⊢
      tauto
    · intro r hr
      rw [← h.regs r hr]
      rfl
    · intro k
      rw [← h.parts k]
      by_cases hk : k = p
      · subst hk
        simp [partGet, partMod]
      · simp [partGet, partMod, tgetD_tput_other _ hk]
  unfold overNote
  dsimp only
  split
  · exact h
  · split
    · have h1 := key _ rfl
      refine ⟨?_, ?_, ?_⟩
      · have := h1.eq
        rw [State.mk.injEq] at this ⊢
        simp [prtErr] at this ⊢
        tauto
      · intro r hr
        rw [← h1.regs r hr]
        simp only [noteRegs, List.mem_cons, not_or] at hr
        exact rd_logErr_other _ hr.1 hr.2.1 _
      · intro k
        rw [← h1.parts k]
        simp [partGet, prtErr]
    · exact key _ rfl

theorem partStep_eq {s : State} {p : Nat} (h : (partGet s p).leaving = 0) : partStep s p = overNote s p := by
  simp [partStep, unitsLeave, h]

theorem follows_partSteps {q : List Instr} {u : State} (hu : ∀ p, (partGet u p).leaving = 0 ∧ ((partGet u p).sweep = 0 ∨ (partGet u p).sweep = 2))
    (l : List Nat) {s : State} (h : Follows q u { s with pending := q, dueAborts := [], dueHrt := [] }) :
    Follows q u { l.foldl partStep s with pending := q, dueAborts := [], dueHrt := [] } := by
  induction l generalizing s with
  | nil => exact h
  | cons p r ih =>
    have hp : (partGet s p).leaving = 0 := by
      have := congrArg Part.leaving (h.parts p)
      simp at this
      rw [show partGet s p = partGet { s with pending := q, dueAborts := [], dueHrt := [] } p from rfl, this]
      exact (hu p).1
    rw [List.foldl_cons, partStep_eq hp]
    exact ih (follows_overNote h p)

theorem sweepStep_eq {s : State} {p : Nat} (h : (partGet s p).sweep = 0 ∨ (partGet s p).sweep = 2) : sweepStep s p = s := by
  rcases h with h | h <;> simp [sweepStep, h]

theorem tryStep_id {f : State → State} {s : State} (h : f s = s) : tryStep f s = s := by simp [tryStep, h]

theorem sweepSteps_eq {s : State} (h : ∀ p, (partGet s p).sweep = 0 ∨ (partGet s p).sweep = 2) (l : List Nat) :
    l.foldl (fun t p => tryStep (sweepStep · p) t) s = s := by
  induction l with
  | nil => rfl
  | cons p r ih => rw [List.foldl_cons, tryStep_id (sweepStep_eq (h p)), ih]

/-- On a calm device nothing follows from a command but the note of R448. -/
theorem settle_calm {u : State} (h : Calm u) (q : List Instr) : Follows q u { settle u with pending := q } := by
  have e1 : suspectAgain u = u := by simp [suspectAgain, h.susp]
  have e2 : settleAborts u = u := by
    simp only [settleAborts, h.aborts, List.foldl_nil]
    rw [← h.aborts]
  have e3 : settleFaults u = u := by
    simp only [settleFaults, h.faults, List.foldl_nil]
    rw [← h.faults]
  have e4 : ∀ b, suspectSettle u b = u := by intro b; simp [suspectSettle, h.susp]
  have e5 : u.colUnl.foldl (fun t p => tryStep (unloadTry · p) t) u = u := by simp [h.unl]
  have h0 : Follows q u { u with pending := q, dueAborts := [], dueHrt := [] } := ⟨rfl, fun _ _ => rfl, fun _ => rfl⟩
  have h1 := follows_partSteps h.parts (u.parts.map (·.1)) h0
  set w := (u.parts.map (·.1)).foldl partStep u with hw
  have hwu : w = { u with csr := w.csr, parts := w.parts, dueAborts := w.dueAborts, dueHrt := w.dueHrt, pending := w.pending } := by
    have := h1.eq
    rw [State.mk.injEq] at this ⊢
    simp at this ⊢
    tauto
  have hd : ∀ (l : List Nat) (s : State), (l.foldl partStep s).dueAborts = s.dueAborts := by
    intro l
    induction l with
    | nil => intro s; rfl
    | cons p r ih =>
      intro s
      rw [List.foldl_cons, ih]
      unfold partStep overNote unitsLeave
      dsimp only
      repeat' split
      all_goals simp [prtErr]
  have hda : w.dueAborts = [] := by rw [hw, hd, h.aborts]
  have hps : ∀ p, (partGet w p).sweep = 0 ∨ (partGet w p).sweep = 2 := by
    intro p
    have := congrArg Part.sweep (h1.parts p)
    simp at this
    rw [show partGet w p = partGet { w with pending := q, dueAborts := [], dueHrt := [] } p from rfl, this]
    exact (h.parts p).2
  have hsv : w.stk = u.stk := by rw [hwu]
  have e6 : stokerStep w = w := by
    unfold stokerStep
    rw [sweepSteps_eq hps]
    split
    · rfl
    · simp [serviceStep, warmNext, hsv, h.service, h.warmQ]
  have e7 : settleAborts w = w := by
    simp only [settleAborts, hda, List.foldl_nil]
    rw [← hda]
  have e8 : settleRun u = w := by
    simp only [settleRun, e1, e2, e3, e4, e5]
    rw [← hw, e6, e7]
  have e9 : ({ settle u with pending := q } : State) = { w with pending := q, dueAborts := [], dueHrt := [] } := by
    simp [settle, h.run, e8]
  rw [e9]
  exact h1

/-- A command of a calm device that leaves it calm has its effect and nothing else. -/
theorem ends_calm (s : State) {u : State} (h : Calm u) : ∃ t, ends s u = .next t ∧ Follows s.pending u t := by
  have hf := settle_calm h s.pending
  have hh : (settle u).held = false := by
    have := congrArg State.held hf.eq
    simpa [h.free] using this
  exact ⟨_, rfl, by simpa [unlessHeld, hh] using hf⟩

theorem act_only {c : Prop} [Decidable c] {f : State → State} {s : State} (hr : s.stk.phase = .run) (hc : c) (h : Calm (f (quiet s))) :
    ∃ t, act (only c f) s = .next t ∧ Follows s.pending (f (quiet s)) t := by
  simp only [act, hr, only, hc, if_true]
  exact ends_calm s h

theorem act_calm {f : State → State} {s : State} (hr : s.stk.phase = .run) (h : Calm (f (quiet s))) :
    ∃ t, act f s = .next t ∧ Follows s.pending (f (quiet s)) t := by
  simp only [act, hr, if_true]
  exact ends_calm s h

theorem actStk_only {c : Prop} [Decidable c] {f : State → State} {s : State} (hr : s.stk.phase = .run) (ha : s.away = false) (hc : c)
    (h : Calm (f (quiet s))) : ∃ t, actStk (only c f) s = .next t ∧ Follows s.pending (f (quiet s)) t := by
  simp only [actStk, hr, ha, only, hc, and_self, if_true]
  exact ends_calm s h

theorem actStk_calm {f : State → State} {s : State} (hr : s.stk.phase = .run) (ha : s.away = false) (h : Calm (f (quiet s))) :
    ∃ t, actStk f s = .next t ∧ Follows s.pending (f (quiet s)) t := by
  simp only [actStk, hr, ha, and_self, if_true]
  exact ends_calm s h

theorem actAny_calm {f : State → State} {s : State} (h : Calm (f (quiet s))) :
    ∃ t, actAny f s = .next t ∧ Follows s.pending (f (quiet s)) t := ends_calm s h

theorem lead_act {c : Prop} [Decidable c] {f : State → State} {s v : State} (hc : Calm s) (hg : c) (e : f (quiet s) = v) (hv : Calm v) :
    ∃ t, act (only c f) s = .next t ∧ Follows s.pending v t := by subst e; exact act_only hc.run hg hv

theorem lead_all {f : State → State} {s v : State} (hc : Calm s) (e : f (quiet s) = v) (hv : Calm v) :
    ∃ t, act f s = .next t ∧ Follows s.pending v t := by subst e; exact act_calm hc.run hv

theorem lead_stk {c : Prop} [Decidable c] {f : State → State} {s v : State} (hc : Calm s) (hg : c) (e : f (quiet s) = v) (hv : Calm v) :
    ∃ t, actStk (only c f) s = .next t ∧ Follows s.pending v t := by subst e; exact actStk_only hc.run hc.here hg hv

theorem lead_stkAll {f : State → State} {s v : State} (hc : Calm s) (e : f (quiet s) = v) (hv : Calm v) :
    ∃ t, actStk f s = .next t ∧ Follows s.pending v t := by subst e; exact actStk_calm hc.run hc.here hv

/-- A state that agrees with a calm one on what calm speaks of is calm. -/
theorem Calm.of {s t : State} (h : Calm s) (h1 : t.stk = s.stk) (h2 : t.away = s.away) (h3 : t.dueAborts = s.dueAborts) (h4 : t.dueHrt = s.dueHrt)
    (h5 : t.colUnl = s.colUnl) (h6 : t.parts = s.parts) (h7 : t.held = s.held) : Calm t :=
  ⟨h1 ▸ h.run, h2 ▸ h.here, h7 ▸ h.free, h3 ▸ h.aborts, h4 ▸ h.faults, h1 ▸ h.susp, h1 ▸ h.service, h1 ▸ h.warmQ, h5 ▸ h.unl,
   fun p => by rw [partGet_congr h6]; exact h.parts p⟩

/-! What a command leaves, read off the state that its operation leads to. -/

theorem Follows.hget {q : List Instr} {v u : State} (h : Follows q v u) (k : Nat) : Machine.hget u k = Machine.hget v k := by rw [h.eq]; rfl
theorem Follows.gget {q : List Instr} {v u : State} (h : Follows q v u) (k : Nat) : Machine.gget u k = Machine.gget v k := by rw [h.eq]; rfl
theorem Follows.slGet {q : List Instr} {v u : State} (h : Follows q v u) (k : Nat) : Machine.slGet u k = Machine.slGet v k := by rw [h.eq]; rfl
theorem Follows.rd {q : List Instr} {v u : State} (h : Follows q v u) (r : Reg) (hr : r.addr ∉ noteRegs) : Machine.rd u r = Machine.rd v r :=
  h.regs r hr

theorem HearthOnly.intro {s v u : State} {h : Nat} {rs : List Reg} (hf : Follows s.pending v u) (ha : s.dueAborts = []) (hd : s.dueHrt = [])
    (h1 : v = { s with hearths := v.hearths, csr := v.csr, tx := [] }) (h2 : ∀ k, k ≠ h → Machine.hget v k = Machine.hget s k)
    (h3 : ∀ r : Reg, r.addr ∉ rs.map Reg.addr → Machine.rd v r = Machine.rd s r) : HearthOnly s u h rs := by
  refine ⟨⟨fun r hr hn => by rw [hf.rd r hn, h3 r hr], fun p => ?_⟩, ?_, fun k hk => by rw [hf.hget, h2 k hk]⟩
  · rw [hf.parts p, h1]
    rfl
  · have e := hf.eq
    rw [h1] at e
    rw [State.mk.injEq] at e ⊢
    simp [ha, hd] at e ⊢
    tauto

theorem Calm.quiet {s : State} (h : Calm s) : Calm (Machine.quiet s) := h.of rfl rfl rfl rfl rfl rfl h.free.symm

/-- On a device where no access waits, `quiet` drops what the host port sent and nothing else. -/
theorem quiet_eq {s : State} (h : s.held = false) : quiet s = { s with tx := [] } := by unfold quiet; rw [h]

theorem Calm.hput {s : State} (hc : Calm s) (h : Nat) (x : Hearth) : Calm (Machine.hput s h x) := hc.of rfl rfl rfl rfl rfl rfl rfl

theorem Follows.hearthOnly {s u : State} {h : Nat} {x : Hearth} (hc : Calm s) (hf : Follows s.pending (hput (quiet s) h x) u) :
    HearthOnly s u h [] ∧ Machine.hget u h = x := by
  refine ⟨HearthOnly.intro hf hc.aborts hc.faults ?_ ?_ ?_, ?_⟩
  · rw [quiet_eq hc.free, State.mk.injEq]; simp
  · intro k hk; exact hget_hput_other _ hk _
  · intro r _; exact rd_congr (by simp) r
  · rw [hf.hget]; exact hget_hput_same _ _ _

/-- A command of one hearth whose operation gives that hearth a new value does just that on a calm device. -/
theorem act_hput {c : Prop} [Decidable c] {f : State → State} {s : State} {h : Nat} {x : Hearth} (hc : Calm s) (hg : c)
    (e : f (quiet s) = hput (quiet s) h x) : ∃ u, act (only c f) s = .next u ∧ HearthOnly s u h [] ∧ hget u h = x := by
  obtain ⟨u, hu, hf⟩ := act_only (f := f) hc.run hg (e ▸ hc.quiet.hput h x)
  rw [e] at hf
  exact ⟨u, hu, hf.hearthOnly hc⟩

theorem actStk_hput {c : Prop} [Decidable c] {f : State → State} {s : State} {h : Nat} {x : Hearth} (hc : Calm s) (hg : c)
    (e : f (quiet s) = hput (quiet s) h x) : ∃ u, actStk (only c f) s = .next u ∧ HearthOnly s u h [] ∧ hget u h = x := by
  obtain ⟨u, hu, hf⟩ := actStk_only (f := f) hc.run hc.here hg (e ▸ hc.quiet.hput h x)
  rw [e] at hf
  exact ⟨u, hu, hf.hearthOnly hc⟩

@[simp] theorem hget_quiet (s : State) (h : Nat) : hget (quiet s) h = hget s h := rfl
@[simp] theorem rd_quiet (s : State) (r : Reg) : rd (quiet s) r = rd s r := rfl
@[simp] theorem rd_hput (s : State) (h : Nat) (x : Hearth) (r : Reg) : rd (hput s h x) r = rd s r := rfl
@[simp] theorem rd_hmod (s : State) (h : Nat) (f : Hearth → Hearth) (r : Reg) : rd (hmod s h f) r = rd s r := rfl
@[simp] theorem hget_wr (s : State) (r : Reg) (v h : Nat) : hget (wr s r v) h = hget s h := rfl
@[simp] theorem hput_hput (s : State) (h : Nat) (x y : Hearth) : hput (hput s h x) h y = hput s h y := by
  have key : ∀ t : Tbl Hearth, tput (tput t h x) h y = tput t h y := by
    intro t
    induction t with
    | nil => simp [tput]
    | cons e r ih =>
      obtain ⟨k, v⟩ := e
      by_cases h1 : h < k
      · simp [tput, h1]
      · by_cases h2 : h = k
        · subst h2; simp [tput]
        · simp [tput, h1, h2, ih]
  simp only [hput]
  rw [key]
@[simp] theorem injKind_hput (s : State) (h : Nat) (x : Hearth) (b i : Nat) : injKind (hput s h x) b i = injKind s b i := rfl
@[simp] theorem injKind_quiet (s : State) (b i : Nat) : injKind (quiet s) b i = injKind s b i := rfl

@[simp] theorem arr_arrPut_same (x : Hearth) (a : Nat) (r : MxArray) : arr (arrPut x a r) a = r := by
  unfold arr arrPut; split <;> simp_all
theorem arr_arrPut_other (x : Hearth) {a b : Nat} (ha : a < 2) (hb : b < 2) (h : a ≠ b) (r : MxArray) : arr (arrPut x a r) b = arr x b := by
  have : (a = 0 ∧ b = 1) ∨ (a = 1 ∧ b = 0) := by omega
  rcases this with ⟨rfl, rfl⟩ | ⟨rfl, rfl⟩ <;> simp [arr, arrPut]
@[simp] theorem arrPut_spd (x : Hearth) (a : Nat) (r : MxArray) : (arrPut x a r).spd = x.spd := by unfold arrPut; split <;> rfl
@[simp] theorem arrPut_vec (x : Hearth) (a : Nat) (r : MxArray) : (arrPut x a r).vec = x.vec := by unfold arrPut; split <;> rfl
@[simp] theorem arrPut_cur (x : Hearth) (a : Nat) (r : MxArray) : (arrPut x a r).cur = x.cur := by unfold arrPut; split <;> rfl
@[simp] theorem arrPut_next (x : Hearth) (a : Nat) (r : MxArray) : (arrPut x a r).next = x.next := by unfold arrPut; split <;> rfl

/-- A command of one hearth that gives it a new value and changes registers of `rs`. -/
theorem act_hearthRegs {c : Prop} [Decidable c] {f : State → State} {s v : State} {h : Nat} {x : Hearth} (rs : List Reg) (hc : Calm s) (hg : c)
    (e : f (quiet s) = v) (h1 : v = { s with hearths := tput s.hearths h x, csr := v.csr, tx := [] })
    (h3 : ∀ r : Reg, r.addr ∉ rs.map Reg.addr → rd v r = rd s r) :
    ∃ u, act (only c f) s = .next u ∧ HearthOnly s u h rs ∧ hget u h = x ∧ ∀ r : Reg, r.addr ∉ noteRegs → rd u r = rd v r := by
  have hcv : Calm v := by rw [h1]; exact hc.of rfl rfl rfl rfl rfl rfl rfl
  obtain ⟨u, hu, hf⟩ := act_only (f := f) hc.run hg (e ▸ hcv)
  rw [e] at hf
  refine ⟨u, hu, HearthOnly.intro hf hc.aborts hc.faults ?_ ?_ h3, ?_, fun r hr => hf.rd r hr⟩
  · rw [h1]
  · intro k hk; rw [h1]; exact hget_hput_other s hk x
  · rw [hf.hget, h1]; exact hget_hput_same s h x

/-! Reads of a hearth's memories. -/

theorem staleHit_rowsRead (x : Hearth) (port m row n k r c : Nat) : staleHit (rowsRead x port m row n) k r c = staleHit x k r c := by
  unfold rowsRead rowsReach rowsSpent
  dsimp only
  split <;> rfl

/-- The marks that a scheduled read leaves on a hearth: rows no longer count as wasted, their tiles are reached (R167, R174). -/
theorem portRead_ok {s : State} {h own port m : Nat} (hi : injKind s 3 h = none) (segs : List (Nat × Nat))
    (hs : ∀ g ∈ segs, staleHit (hget s h) m g.1 g.2 = none) :
    (portRead s h own port m segs).2 = true ∧
      ((segs = [] ∧ (portRead s h own port m segs).1 = s) ∨
       (portRead s h own port m segs).1 = hput s h (segs.foldl (fun x g => rowsRead x port m g.1 g.2) (hget s h))) := by
  induction segs generalizing s with
  | nil => exact ⟨rfl, .inl ⟨rfl, rfl⟩⟩
  | cons g r ih =>
    obtain ⟨row, n⟩ := g
    have h0 := hs (row, n) (by simp)
    have e : portRead s h own port m ((row, n) :: r) = portRead (hmod s h (fun x => rowsRead x port m row n)) h own port m r := by
      simp [portRead, h0, spdInject, hi]
    rw [e]
    have hst : ∀ g ∈ r, staleHit (hget (hmod s h (fun x => rowsRead x port m row n)) h) m g.1 g.2 = none := by
      intro g hg
      have := hs g (List.mem_cons_of_mem _ hg)
      rw [hget_hmod_same, staleHit_rowsRead]
      exact this
    obtain ⟨h1, h2⟩ := ih (s := hmod s h (fun x => rowsRead x port m row n)) hi hst
    refine ⟨h1, .inr ?_⟩
    rcases h2 with ⟨rfl, h2⟩ | h2
    · rw [h2]; rfl
    · rw [h2, hget_hmod_same]
      simp [hmod]

end Sys2Proof.Machine
end

