-- ==== Sys2Proof/Tests/Slice0.lean ====
section
/-!
SUPPORT. Tests: an ill-formed command for each check of well-formedness, worked examples of the spec, and for every statement with hypotheses a
witness: states and operands that meet all the hypotheses of a clause together.
-/

namespace Sys2Proof.Tests

open Sys2Proof.Machine

set_option Elab.async false

/-! ## Well-formed commands: each check refuses a command that names a unit the device has not -/

theorem test_wf_queue_pair : (Instr.csrRead 1025 0 0).wf = false ∧ (Instr.csrRead 1024 0 0).wf = true := by decide
theorem test_wf_hearth : (Instr.matmul 256).wf = false ∧ (Instr.matmul 255).wf = true := by decide
theorem test_wf_array : (Instr.swap 0 2).wf = false ∧ (Instr.swap 0 1).wf = true := by decide
theorem test_wf_memory : (Instr.spdOpStart 0 3).wf = false ∧ (Instr.spdOpStart 0 2).wf = true := by decide
theorem test_wf_handle : (Instr.spdHandleWrite 0 64 0).wf = false ∧ (Instr.spdHandleWrite 0 63 0).wf = true := by decide
theorem test_wf_flue : (Instr.flueIn 0 8).wf = false ∧ (Instr.flueIn 0 7).wf = true := by decide
theorem test_wf_bellows : (Instr.blwEnd 0 2).wf = false ∧ (Instr.blwEnd 0 1).wf = true := by decide
theorem test_wf_engine : (Instr.descBurst 0 10).wf = false ∧ (Instr.descBurst 0 9).wf = true := by decide
theorem test_wf_slice : (Instr.arbRound 4).wf = false ∧ (Instr.arbRound 3).wf = true := by decide
theorem test_wf_stack : (Instr.hbmRetrain 20).wf = false ∧ (Instr.hbmRetrain 19).wf = true := by decide
theorem test_wf_pseudo_channel : (Instr.hbmWrite 0 32).wf = false ∧ (Instr.hbmWrite 0 31).wf = true := by decide
theorem test_wf_bank : (Instr.hbmRefresh 0 0 64).wf = false ∧ (Instr.hbmRefresh 0 0 63).wf = true := by decide
theorem test_wf_die : (Instr.walkComplete 4 0).wf = false ∧ (Instr.walkComplete 3 0).wf = true := by decide
theorem test_wf_partition : (Instr.dissolve 16).wf = false ∧ (Instr.dissolve 15).wf = true := by decide
theorem test_wf_ring : (Instr.map 0 2).wf = false ∧ (Instr.map 0 1).wf = true := by decide
theorem test_wf_link : (Instr.linkRetrain 18).wf = false ∧ (Instr.linkRetrain 17).wf = true := by decide
theorem test_wf_priority : (Instr.pfcRefresh 8).wf = false ∧ (Instr.pfcRefresh 7).wf = true := by decide
theorem test_wf_bridge : (Instr.bridgeFailure 6).wf = false ∧ (Instr.bridgeFailure 5).wf = true := by decide
theorem test_wf_sensor : (Instr.thermalTrip (.stack 20)).wf = false ∧ (Instr.thermalTrip (.stack 19)).wf = true := by decide

/-! ## Worked examples -/

/-- The worked examples of spec/00_scope.md and spec/01_omkin_at_a_glance.md: the register blocks of hearth 137, stack 13, slice 2, hearth 80 and
partition 5. -/
theorem test_register_blocks : blkBase .flu 137 = 0x108930000 ∧ blkBase .mem 13 = 0x20D0000 ∧ blkBase .chm 2 = 0x1200000 ∧
    blkBase .mxa 80 = 0x105000000 ∧ blkBase .xlt 5 = 0x205000000 := by decide

/-- The worked example of R233 (spec/08_hbm3e_memory.md): the granule at 0x7A12_0000 on a device with all 640 pseudo-channels. -/
theorem test_placement : let l := hbmLoc [] 0x7A120000
    l.k = 2 ∧ l.p = 22 ∧ l.bg = 10 ∧ l.bank = 1 ∧ l.row = 24 ∧ l.chkBank = 0 ∧ l.chkRow = 9158 ∧ l.chkByte = 0 := by decide +kernel

/-- FP32 codes of 0.8, 0.3, 0.2, −0.19, 0.0625 and −0.03, the elements of the worked example of R64 (spec/02_number_formats.md). -/
def quantEx : List Nat := [0x3F4CCCCD, 0x3E99999A, 0x3E4CCCCD, 0xBE428F5C, 0x3D800000, 0xBCF5C28F]

/-- The worked example of R64: the scale code, the element codes, and CVT_UNF for the last. -/
theorem test_quantise : qntBlock 9 false 0 0 quantEx = ([7, 4, 3, 0xB, 1, 0], 124, fUnf, 0) := by decide +kernel

/-- The published check value of the CRC-32 of R348 (the IEEE 802.3 polynomial, reflected): the nine bytes of "123456789" give 0xCBF43926. -/
theorem test_crc32 : crc32 ((List.range 9).map (fun i => BitVec.ofNat 8 (0x31 + i))) = 0xCBF43926 := by decide +kernel

/-- The worked example of R488 (spec/16_measurement_and_control.md): a gate level rises over CAP_W, and stays between it and the hysteresis. -/
theorem test_gate : let s := wr State.reset (R.pwrFbCapF 2) (425 + 2 ^ 12 * 10 + 2 ^ 20 * 90 + 2 ^ 28 * 32)
    gateNext s 2 7 ⟨some 427, 40, 700, 0, 0, 0⟩ = 8 ∧ gateNext s 2 8 ⟨some 421, 40, 700, 0, 0, 0⟩ = 8 := by decide +kernel

/-! ## Witnesses

Each theorem below applies a statement to concrete states and operands: its proof gives every hypothesis of the clause it names, so the hypotheses can be
met together. -/

/-- A calm device, as a value. -/
def calmB (s : State) : Bool :=
  decide (s.stk.phase = .run) && !s.away && !s.held && s.dueAborts.isEmpty && s.dueHrt.isEmpty && s.stk.susp.isNone && s.stk.service.isNone &&
    s.stk.warmQ.isNone && s.colUnl.isEmpty && s.parts.all (fun e => e.2.leaving = 0 && (e.2.sweep = 0 || e.2.sweep = 2))

theorem calm_by {s : State} (h : calmB s = true) : Calm s := by
  simp only [calmB, Bool.and_eq_true, decide_eq_true_eq, Bool.not_eq_true', List.isEmpty_iff, Option.isNone_iff_eq_none, List.all_eq_true,
    Bool.or_eq_true] at h
  obtain ⟨⟨⟨⟨⟨⟨⟨⟨⟨h1, h2⟩, h0⟩, h3⟩, h4⟩, h5⟩, h6⟩, h7⟩, h8⟩, h9⟩ := h
  refine ⟨h1, h2, h0, h3, h4, h5, h6, h7, h8, fun p => ?_⟩
  have key : ∀ l : Tbl Part, (∀ e ∈ l, e.2.leaving = 0 ∧ (e.2.sweep = 0 ∨ e.2.sweep = 2)) →
      (tgetD l p Part.none_).leaving = 0 ∧ ((tgetD l p Part.none_).sweep = 0 ∨ (tgetD l p Part.none_).sweep = 2) := by
    intro l hl
    induction l with
    | nil => simp [tgetD, tget, Part.none_]
    | cons e r ih =>
      obtain ⟨k, v⟩ := e
      by_cases hk : k = p
      · simpa [tgetD, tget, hk] using hl (k, v) (by simp)
      · have := ih (fun e he => hl e (by simp [he]))
        simpa [tgetD, tget, hk] using this
  exact key _ h9

theorem comes {c : Instr} {s : State} {P : State → Prop} (h : Completes c s P) : Completes c s (fun _ => True) := h.imp (fun _ h => ⟨h.1, trivial⟩)

theorem leads {c : Instr} {s v : State} (h : Leads c s v) : Completes c s (fun _ => True) := comes h

/-- The device with hearth 0 as given. -/
def wH (x : Hearth) : State := { State.reset with hearths := [(0, x)] }

/-- Task 5 of partition 2 on its hearth, with the schedule entries given. -/
def wRun (sched : List SchedEnt) : TaskRun := ⟨5, 2, 7, 0, sched, [], [], [], 0, 0, 0, 0, 0, 0, none, 0, none⟩

/-- A handle of task 5: 2,048 rows of a memory from a base row, read-write (R155). -/
def wHdl (mem : Nat) (base : Nat) : Nat := 3 + 4 * mem + 16 + 256 * base + 2 ^ 24 * 2048 + 2 ^ 40 * 5

/-- Slots that are FULL. -/
def wFull (ks : List Nat) : Tbl Slot := ks.map (fun k => (k, ⟨true, false, true, 0⟩))

/-- Handles 1 to 4 in the three memories; the slots of rows 0–255 of weight and 0–15 of activation memory, and of rows 2,048–2,303 of partial-sum
memory are FULL. -/
def wSpd : Scratch :=
  { Scratch.reset with
    handles := [(1, wHdl 0 0), (2, wHdl 1 0), (3, wHdl 2 0), (4, wHdl 2 2048)]
    slots := wFull (List.range 16) ++ wFull [4096] ++ wFull ((List.range 16).map (· + 8320)) }

/-- A pass over FP16 rows, one K-tile of 128, loading its accumulators (R77). -/
def wPass (m : Nat) : Nat :=
  1 + 2 ^ 9 * 1 + 2 ^ 13 * 1 + 2 ^ 19 + 2 ^ 32 * m + 2 ^ 45 * 1 + 2 ^ 54 * 128 + 2 ^ 64 * 2 + 2 ^ 96 * 1 + 2 ^ 192 * 3 + 2 ^ 198 * 4

/-- Hearth 0 with task 5, the two arrays, and a schedule. -/
def wMx (r : MxArray) (sched : List SchedEnt) : State :=
  wH { Hearth.fresh with spd := wSpd, mx := { Matrix.reset with a0 := r }, cur := some (wRun sched) }

theorem wit_MatmulEntersQueue (ob : Obligations.MatmulEntersQueue) :
    Completes (.matmul 0) (wMx .idle [⟨0, wPass 1, 2⟩]) (fun _ => True) := by
  have h := ob (wMx .idle [⟨0, wPass 1, 2⟩]) 0 (wRun [⟨0, wPass 1, 2⟩]) ⟨0, wPass 1, 2⟩ []
  repeat specialize h (by first | decide +kernel | exact calm_by (by decide +kernel) | rfl)
  exact comes h

def wP (age lj pre : Nat) (sw : Bool) : Pass := ⟨wPass 1, 5, 0, age, 0, 0, 0, sw, pre, lj, 0⟩
def wTile : WTile := ⟨5, 0, 0, 0, 1, 64, 128, [], []⟩
def wSet (st : Nat) : AccSet := ⟨st, 5, 0, 0, [], 0⟩

theorem wit_RowsEnter (ob : Obligations.RowsEnter) :
    Completes (.rowEntry 0 0) (wMx ⟨some wTile, none, [wP 6 1 1 true], wSet 2, .free, []⟩ []) (fun _ => True) ∧
    Completes (.rowEntry 0 1) (wMx .idle []) (fun _ => True) := by
  refine ⟨?_, ?_⟩
  · have h := ob.1 (wMx ⟨some wTile, none, [wP 6 1 1 true], wSet 2, .free, []⟩ []) 0 0 (wP 7 1 1 true) [] wTile
    repeat specialize h (by first | decide +kernel | exact calm_by (by decide +kernel) | rfl)
    exact comes h
  · have h := ob.2 (wMx .idle []) 0 1 (R.mxaBubGapA 0 1)
    repeat specialize h (by first | decide +kernel | exact calm_by (by decide +kernel) | rfl)
    exact comes h

theorem wit_ArrayOperations (ob : Obligations.ArrayOperations) :
    Completes (.swap 0 0) (wMx ⟨none, some wTile, [wP 6 1 1 false], wSet 2, .free, []⟩ []) (fun _ => True) ∧
    Completes (.tileLoad 0) (wH { Hearth.fresh with spd := wSpd, mx := { Matrix.reset with a0 := { MxArray.idle with q := [wP 0 0 0 false] }, ldReq := [0] } })
      (fun _ => True) ∧
    Completes (.preloadStart 0 0) (wMx { MxArray.idle with q := [wP 0 0 0 false] } []) (fun _ => True) ∧
    Completes (.preloadDone 0 0) (wMx { MxArray.idle with set0 := wSet 1 } []) (fun _ => True) ∧
    Completes (.accDrain 0 0) (wMx { MxArray.idle with set0 := wSet 3, outs := [⟨wPass 1, 5, 0, 0, 0, false⟩] } []) (fun _ => True) ∧
    Completes (.outputTileFull 0 0) (wMx { MxArray.idle with set0 := wSet 3, outs := [⟨wPass 65, 5, 0, 0, 0, true⟩] } []) (fun _ => True) ∧
    Completes (.mxaArrayEn 255 true false) State.reset (fun _ => True) := by
  obtain ⟨h1, h2, h3, h4, h5, h6, h7⟩ := ob
  refine ⟨?_, ?_, ?_, ?_, ?_, ?_, ?_⟩
  · have h := h1 (wMx ⟨none, some wTile, [wP 6 1 1 false], wSet 2, .free, []⟩ []) 0 0 (wP 6 1 1 false) []
    repeat specialize h (by first | decide +kernel | exact calm_by (by decide +kernel) | rfl)
    exact comes h
  · have h := h2 (wH { Hearth.fresh with spd := wSpd, mx := { Matrix.reset with a0 := { MxArray.idle with q := [wP 0 0 0 false] }, ldReq := [0] } })
      0 0 [] 0 (wP 0 0 0 false)
    repeat specialize h (by first | decide +kernel | exact calm_by (by decide +kernel) | rfl)
    exact comes h
  · have h := h3 (wMx { MxArray.idle with q := [wP 0 0 0 false] } []) 0 0 0 (wP 0 0 0 false)
    repeat specialize h (by first | decide +kernel | exact calm_by (by decide +kernel) | rfl)
    exact comes h
  · have h := h4 (wMx { MxArray.idle with set0 := wSet 1 } []) 0 0 0
    repeat specialize h (by first | decide +kernel | exact calm_by (by decide +kernel) | rfl)
    exact comes h
  · have h := h5 (wMx { MxArray.idle with set0 := wSet 3, outs := [⟨wPass 1, 5, 0, 0, 0, false⟩] } []) 0 0 0 ⟨wPass 1, 5, 0, 0, 0, false⟩
    repeat specialize h (by first | decide +kernel | exact calm_by (by decide +kernel) | rfl)
    exact comes h
  · have h := h6 (wMx { MxArray.idle with set0 := wSet 3, outs := [⟨wPass 65, 5, 0, 0, 0, true⟩] } []) 0 0 ⟨wPass 65, 5, 0, 0, 0, true⟩ []
    repeat specialize h (by first | decide +kernel | exact calm_by (by decide +kernel) | rfl)
    exact comes h
  · have h := h7 State.reset 255 true false
    repeat specialize h (by first | decide +kernel | exact calm_by (by decide +kernel) | rfl)
    exact comes h

/-- An invocation of program slot 0 over 4 elements, one row and one column segment; stream 0 reads handle 2, stream 4 writes handle 3 (FP32). -/
def wDesc : Nat :=
  0x20000181000000000000000000000000000000000000000000000000000000002000010100000000000000000000000000000000000000000000000000000000000000000000000401004002
def wInv : Invoc := ⟨wDesc, 5, 0, 1, none⟩

/-- Hearth 0 whose vector engine runs `wInv`, with the word `w` as its next and only instruction. -/
def wVec (w : Nat) : State :=
  wH { Hearth.fresh with
    spd := wSpd, cur := some (wRun [])
    vec := { Vector.reset with q := [wInv], running := true, vl := 4, prog := [(0, w)] } }

/-- An instruction word of opcode `o` from E1, E2, E3 to E0 or, with `sb`, to A0 (R108). -/
def wWord (o sb x : Nat) : Nat := o + 2 ^ 10 * 1 + 2 ^ 15 * 2 + 2 ^ 20 * 3 + 2 ^ 26 * sb + 2 ^ 27 * x

def sElementwiseResults1 : State :=
  wVec (wWord 0x08 0 0)

def sElementwiseResults2 : State :=
  wVec (wWord 0x21 0 0)

theorem wit_ElementwiseResults_1 (ob : Obligations.ElementwiseResults) : Completes (.fadd 0) sElementwiseResults1 (fun _ => True) := by
  have h := ob sElementwiseResults1 0 wInv [] (wWord 0x08 0 0) (.fadd 0, 0x08)
  repeat specialize h (by first | decide +kernel | exact calm_by (by decide +kernel) | with_reducible rfl | exact fun hh => absurd hh (by decide +kernel))
  have n : NextWord (hget (wVec (wWord 0x08 0 0)) 0).vec wInv [] (wWord 0x08 0 0) := ⟨rfl, rfl, by decide +kernel, by decide +kernel, rfl⟩
  have h := h n
  repeat specialize h (by first | decide +kernel | exact calm_by (by decide +kernel) | with_reducible rfl | exact fun hh => absurd hh (by decide +kernel))
  exact comes h

theorem wit_ElementwiseResults_2 (ob : Obligations.ElementwiseResults) : Completes (.cos 0) sElementwiseResults2 (fun _ => True) := by
  have h := ob sElementwiseResults2 0 wInv [] (wWord 0x21 0 0) (.cos 0, 0x21)
  repeat specialize h (by first | decide +kernel | exact calm_by (by decide +kernel) | with_reducible rfl | exact fun hh => absurd hh (by decide +kernel))
  have n : NextWord (hget (wVec (wWord 0x21 0 0)) 0).vec wInv [] (wWord 0x21 0 0) := ⟨rfl, rfl, by decide +kernel, by decide +kernel, rfl⟩
  have h := h n
  repeat specialize h (by first | decide +kernel | exact calm_by (by decide +kernel) | with_reducible rfl | exact fun hh => absurd hh (by decide +kernel))
  exact comes h

def sAccumulatorResults : State :=
  wVec (wWord 0x0A 1 0)

theorem wit_AccumulatorResults (ob : Obligations.AccumulatorResults) : Completes (.fmul 0) sAccumulatorResults (fun _ => True) := by
  have h := ob.1 sAccumulatorResults 0 wInv [] (wWord 0x0A 1 0) (.fmul 0, 0x0A)
  repeat specialize h (by first | decide +kernel | exact calm_by (by decide +kernel) | with_reducible rfl | exact fun hh => absurd hh (by decide +kernel))
  have n : NextWord (hget (wVec (wWord 0x0A 1 0)) 0).vec wInv [] (wWord 0x0A 1 0) := ⟨rfl, rfl, by decide +kernel, by decide +kernel, rfl⟩
  have h := h n
  repeat specialize h (by first | decide +kernel | exact calm_by (by decide +kernel) | with_reducible rfl | exact fun hh => absurd hh (by decide +kernel))
  exact comes h

def sConversionResults1 : State :=
  wVec (wWord 0 0 0)

def sConversionResults2 : State :=
  wVec (wWord 0x30 0 3)

def sConversionResults3 : State :=
  wVec (wWord 0x31 0 8)

def sConversionResults4 : State :=
  wVec (wWord 0x32 0 8)

theorem wit_ConversionResults_1 (ob : Obligations.ConversionResults) : Completes (.nop 0) sConversionResults1 (fun _ => True) := by
  have h := ob sConversionResults1 0 wInv [] (wWord 0 0 0)
  repeat specialize h (by first | decide +kernel | exact calm_by (by decide +kernel) | with_reducible rfl | exact fun hh => absurd hh (by decide +kernel))
  have n : NextWord (hget sConversionResults1 0).vec wInv [] (wWord 0 0 0) := ⟨rfl, rfl, by decide +kernel, by decide +kernel, rfl⟩
  have h := h n
  have h := h.1
  repeat specialize h (by first | decide +kernel | exact calm_by (by decide +kernel) | with_reducible rfl | exact fun hh => absurd hh (by decide +kernel))
  exact comes h

theorem wit_ConversionResults_2 (ob : Obligations.ConversionResults) : Completes (.cvt 0) sConversionResults2 (fun _ => True) := by
  have h := ob sConversionResults2 0 wInv [] (wWord 0x30 0 3)
  repeat specialize h (by first | decide +kernel | exact calm_by (by decide +kernel) | with_reducible rfl | exact fun hh => absurd hh (by decide +kernel))
  have n : NextWord (hget sConversionResults2 0).vec wInv [] (wWord 0x30 0 3) := ⟨rfl, rfl, by decide +kernel, by decide +kernel, rfl⟩
  have h := h n
  have h := h.2.1
  repeat specialize h (by first | decide +kernel | exact calm_by (by decide +kernel) | with_reducible rfl | exact fun hh => absurd hh (by decide +kernel))
  exact comes h

theorem wit_ConversionResults_3 (ob : Obligations.ConversionResults) : Completes (.qnt 0) sConversionResults3 (fun _ => True) := by
  have h := ob sConversionResults3 0 wInv [] (wWord 0x31 0 8)
  repeat specialize h (by first | decide +kernel | exact calm_by (by decide +kernel) | with_reducible rfl | exact fun hh => absurd hh (by decide +kernel))
  have n : NextWord (hget sConversionResults3 0).vec wInv [] (wWord 0x31 0 8) := ⟨rfl, rfl, by decide +kernel, by decide +kernel, rfl⟩
  have h := h n
  have h := h.2.2.1
  repeat specialize h (by first | decide +kernel | exact calm_by (by decide +kernel) | with_reducible rfl | exact fun hh => absurd hh (by decide +kernel))
  exact comes h

theorem wit_ConversionResults_4 (ob : Obligations.ConversionResults) : Completes (.dqnt 0) sConversionResults4 (fun _ => True) := by
  have h := ob sConversionResults4 0 wInv [] (wWord 0x32 0 8)
  repeat specialize h (by first | decide +kernel | exact calm_by (by decide +kernel) | with_reducible rfl | exact fun hh => absurd hh (by decide +kernel))
  have n : NextWord (hget sConversionResults4 0).vec wInv [] (wWord 0x32 0 8) := ⟨rfl, rfl, by decide +kernel, by decide +kernel, rfl⟩
  have h := h n
  have h := h.2.2.2
  repeat specialize h (by first | decide +kernel | exact calm_by (by decide +kernel) | with_reducible rfl | exact fun hh => absurd hh (by decide +kernel))
  exact comes h

def sLoadsAndStores1 : State :=
  wVec (wWord 1 0 0)

def sLoadsAndStores2 : State :=
  wVec (wWord 2 0 4)

theorem wit_LoadsAndStores_1 (ob : Obligations.LoadsAndStores) : Completes (.ld 0) sLoadsAndStores1 (fun _ => True) := by
  have h := ob.1 sLoadsAndStores1 0 wInv [] (wWord 1 0 0)
  repeat specialize h (by first | decide +kernel | exact calm_by (by decide +kernel) | with_reducible rfl | exact fun hh => absurd hh (by decide +kernel))
  have n : NextWord (hget (wVec (wWord 1 0 0)) 0).vec wInv [] (wWord 1 0 0) := ⟨rfl, rfl, by decide +kernel, by decide +kernel, rfl⟩
  have h := h n
  repeat specialize h (by first | decide +kernel | exact calm_by (by decide +kernel) | with_reducible rfl | exact fun hh => absurd hh (by decide +kernel))
  exact comes h

theorem wit_LoadsAndStores_2 (ob : Obligations.LoadsAndStores) : Completes (.st 0) sLoadsAndStores2 (fun _ => True) := by
  have h := ob.2 sLoadsAndStores2 0 wInv [] (wWord 2 0 4)
  repeat specialize h (by first | decide +kernel | exact calm_by (by decide +kernel) | with_reducible rfl | exact fun hh => absurd hh (by decide +kernel))
  have n : NextWord (hget (wVec (wWord 2 0 4)) 0).vec wInv [] (wWord 2 0 4) := ⟨rfl, rfl, by decide +kernel, by decide +kernel, rfl⟩
  have h := h n
  repeat specialize h (by first | decide +kernel | exact calm_by (by decide +kernel) | with_reducible rfl | exact fun hh => absurd hh (by decide +kernel))
  exact comes h

def sInvocationLife1 : State :=
  wH { Hearth.fresh with cur := some (wRun [⟨0, wDesc, 2⟩]) }

def sInvocationLife2 : State :=
  wH { Hearth.fresh with spd := wSpd, cur := some (wRun []), vec := { Vector.reset with q := [wInv] } }

def sInvocationLife3 : State :=
  wH { Hearth.fresh with vec := { Vector.reset with q := [wInv], running := true, r := 1 } }

def sInvocationLife4 : State :=
  wH { Hearth.fresh with vec := { Vector.reset with outs := [⟨5, [8320]⟩] } }

theorem wit_InvocationLife_1 (ob : Obligations.InvocationLife) : Completes (.ember 0) sInvocationLife1 (fun _ => True) := by
  have h := ob.1 sInvocationLife1 0 (wRun [⟨0, wDesc, 2⟩]) ⟨0, wDesc, 2⟩ []
  repeat specialize h (by first | decide +kernel | exact calm_by (by decide +kernel) | with_reducible rfl | exact fun hh => absurd hh (by decide +kernel))
  exact comes h

theorem wit_InvocationLife_2 (ob : Obligations.InvocationLife) : Completes (.invocationStart 0) sInvocationLife2 (fun _ => True) := by
  have h := ob.2.1 sInvocationLife2 0 wInv []
  repeat specialize h (by first | decide +kernel | exact calm_by (by decide +kernel) | with_reducible rfl | exact fun hh => absurd hh (by decide +kernel))
  exact comes h

theorem wit_InvocationLife_3 (ob : Obligations.InvocationLife) : Completes (.invocationEnd 0) sInvocationLife3 (fun _ => True) := by
  have h := ob.2.2.1 sInvocationLife3 0 wInv []
  repeat specialize h (by first | decide +kernel | exact calm_by (by decide +kernel) | with_reducible rfl | exact fun hh => absurd hh (by decide +kernel))
  exact comes h

theorem wit_InvocationLife_4 (ob : Obligations.InvocationLife) : Completes (.invocationOutputFull 0) sInvocationLife4 (fun _ => True) := by
  have h := ob.2.2.2 sInvocationLife4 0 ⟨5, [8320]⟩ []
  repeat specialize h (by first | decide +kernel | exact calm_by (by decide +kernel) | with_reducible rfl | exact fun hh => absurd hh (by decide +kernel))
  exact comes h

/-- A formed partition 2 with hearth 0: frames 0 to 1,143, its root table at frame 16, an L0 table at frame 17, and page v below 4 on frame 32 + v; `d` are further bytes
of its memory, written under its key. -/
def wF (x : Hearth) (d : List (Nat × List Byte)) : State :=
  let leaf := fun v => (65536 * 17 + 16 * v, leBytes 16 (leafMake true false 0 0 (32 + v) v))
  let base : List (Nat × List Byte) := (List.range 4).map (fun v => (8 * (32 + v), leBytes 8 (frameMake 0 1 1 0))) ++
    [(65536 * 16, leBytes 16 (ptrMake 0 17))] ++ (List.range 4).map leaf ++ d
  let s : State := { State.reset with
    hearths := [(0, { x with part := some 2 })], parts := [(2, { Part.none_ with st := 2, units := 1, lo := 0, blks := 1, key0 := 1 })], nextKey := 2,
    hbm := { Hbm.zero with zkeys := [(0, 4096 * 1144, 1)], mem := base.foldl (fun m e => memPutL m e.1 e.2) [] } }
  wr (wr s (R.xltRange 2) (1144 * 2 ^ 32)) (R.xltRootI 2 0) (ptrMake 0 16)

/-- A stream handle of task 5: rows 1,024–3,071 of weight memory. -/
def wStr : Nat := wHdl 0 1024 + 32
/-- `wSpd` with a stream handle, and with index rows of zeros that are FULL. -/
def wSpd5 : Scratch := { wSpd with handles := wSpd.handles ++ [(5, wStr)] }

/-- IN, OUT, GATHER and SCATTER descriptors of one tile or element at VA 0 through handle 5, indices through handle 2 (R160, R178). -/
def wIn : Nat := 1 + 2 ^ 4 * 1 + 2 ^ 12 * 5 + 2 ^ 32 * 1 + 2 ^ 160 * 4 + 2 ^ 168 * 1
def wOut : Nat := 2 + 2 ^ 12 * 5 + 2 ^ 32 * 1 + 2 ^ 160 * 4 + 2 ^ 168 * 1
def wGat : Nat := 1 + 2 ^ 5 * 2 + 2 ^ 11 * 5 + 2 ^ 160 * 1 + 2 ^ 176 * 16
def wSca : Nat := wGat + 1
def wLink : Nat := 3 + 2 ^ 320 * 4096
def wBLink : Nat := 3 + 2 ^ 256 * 4096

/-- A stream of task 5 with a descriptor buffer, and with a descriptor in hand. -/
def wSt (b : List Nat) : Stream := { Stream.start 5 0 false with buf := b }
def wStC (d : Nat) : Stream := { wSt [4] with cur := some d, ndesc := 1 }

/-- Hearth 0 with one engine's stream, task 5 running, and page 0 in its TLB. -/
def wEng (e : Nat) (st : Stream) : Hearth :=
  engPut { Hearth.fresh with spd := wSpd5, cur := some (wRun []), tlb := [tlbMake 0 2 (leafMake true false 0 0 32 0)], part := some 2 } e { Engine.idle with cur := some st }

def noCand : Cand := ⟨0, false, false, none, 0, wSt [], wSt [], ⟨0, 0, 0, 0, 0, 0, 0, 0, none⟩, noEnt, []⟩
/-- What the read and write issues of hearth 0 come to. -/
def wLook (s : State) : List (Nat × Look) := (lookAll (quiet s) 0 (List.range 10) []).1
def wLookW (s : State) : List (Nat × Look) := (lookWr (quiet s) 0 (List.range 10) []).1
def wLooked (s : State) : State := (lookAll (quiet s) 0 (List.range 10) []).2
def wLookedW (s : State) : State := (lookWr (quiet s) 0 (List.range 10) []).2
def wBest (l : List (Nat × Look)) : Cand := (candBest (cands l)).getD noCand

def sScratchpadOperations1 : State :=
  wH { Hearth.fresh with spd := wSpd, cur := some (wRun [⟨0, (3 + 2 ^ 8 * 2 + 2 ^ 16 * 16 + 2 ^ 32 * 16 + 2 ^ 48 * 0 + 2 ^ 128 * 7), 2⟩]) }

def sScratchpadOperations2 : State :=
  wH { Hearth.fresh with spd := wSpd, cur := some (wRun [⟨0, (4 + 2 ^ 8 * 2 + 2 ^ 16 * 16 + 2 ^ 32 * 16 + 2 ^ 48 * 2), 2⟩]) }

def sScratchpadOperations3 : State :=
  wH { Hearth.fresh with spd := wSpd, cur := some (wRun [⟨0, (5 + 2 ^ 8 * 2 + 2 ^ 32 * 16), 2⟩]) }

def sScratchpadOperations4 : State :=
  wH { Hearth.fresh with spd := { wSpd with op0 := ⟨[⟨3, 64, 16, 0, 7, 5, 0⟩], false⟩ } }

def sScratchpadOperations5 : State :=
  wH { Hearth.fresh with spd := { wSpd with op1 := ⟨[⟨4, 64, 16, 0, 0, 5, 4⟩], true⟩ } }

theorem wit_ScratchpadOperations_1 (ob : Obligations.ScratchpadOperations) : Completes (.spfill 0) sScratchpadOperations1 (fun _ => True) := by
  have h := ob.1 sScratchpadOperations1 0 (wRun [⟨0, (3 + 2 ^ 8 * 2 + 2 ^ 16 * 16 + 2 ^ 32 * 16 + 2 ^ 48 * 0 + 2 ^ 128 * 7), 2⟩]) ⟨0, (3 + 2 ^ 8 * 2 + 2 ^ 16 * 16 + 2 ^ 32 * 16 + 2 ^ 48 * 0 + 2 ^ 128 * 7), 2⟩ [] (.spfill 0, 3)
  repeat specialize h (by first | decide +kernel | exact calm_by (by decide +kernel) | with_reducible rfl | exact fun hh => absurd hh (by decide +kernel))
  exact comes h

theorem wit_ScratchpadOperations_2 (ob : Obligations.ScratchpadOperations) : Completes (.spcopy 0) sScratchpadOperations2 (fun _ => True) := by
  have h := ob.1 sScratchpadOperations2 0 (wRun [⟨0, (4 + 2 ^ 8 * 2 + 2 ^ 16 * 16 + 2 ^ 32 * 16 + 2 ^ 48 * 2), 2⟩]) ⟨0, (4 + 2 ^ 8 * 2 + 2 ^ 16 * 16 + 2 ^ 32 * 16 + 2 ^ 48 * 2), 2⟩ [] (.spcopy 0, 4)
  repeat specialize h (by first | decide +kernel | exact calm_by (by decide +kernel) | with_reducible rfl | exact fun hh => absurd hh (by decide +kernel))
  exact comes h

theorem wit_ScratchpadOperations_3 (ob : Obligations.ScratchpadOperations) : Completes (.spempty 0) sScratchpadOperations3 (fun _ => True) := by
  have h := ob.2.1 sScratchpadOperations3 0 (wRun [⟨0, (5 + 2 ^ 8 * 2 + 2 ^ 32 * 16), 2⟩]) ⟨0, (5 + 2 ^ 8 * 2 + 2 ^ 32 * 16), 2⟩ []
  repeat specialize h (by first | decide +kernel | exact calm_by (by decide +kernel) | with_reducible rfl | exact fun hh => absurd hh (by decide +kernel))
  exact comes h

theorem wit_ScratchpadOperations_4 (ob : Obligations.ScratchpadOperations) : Completes (.spdOpStart 0 0) sScratchpadOperations4 (fun _ => True) := by
  have h := ob.2.2.1 sScratchpadOperations4 0 0 ⟨3, 64, 16, 0, 7, 5, 0⟩ []
  repeat specialize h (by first | decide +kernel | exact calm_by (by decide +kernel) | with_reducible rfl | exact fun hh => absurd hh (by decide +kernel))
  exact comes h

theorem wit_ScratchpadOperations_5 (ob : Obligations.ScratchpadOperations) : Completes (.spdOpDone 0 1) sScratchpadOperations5 (fun _ => True) := by
  have h := ob.2.2.2 sScratchpadOperations5 0 1 ⟨4, 64, 16, 0, 0, 5, 4⟩ []
  repeat specialize h (by first | decide +kernel | exact calm_by (by decide +kernel) | with_reducible rfl | exact fun hh => absurd hh (by decide +kernel))
  exact comes h

def sScratchpadUpkeep2 : State :=
  { State.reset with hearths := [(255, { Hearth.fresh with spd := { wSpd with op0 := ⟨[⟨3, 64, 16, 0, 7, 5, 0⟩], true⟩ } })] }

def sScratchpadUpkeep7 : State :=
  wH { Hearth.fresh with cur := some (wRun []) }

theorem wit_ScratchpadUpkeep_1 (ob : Obligations.ScratchpadUpkeep) : Completes (.wbufRetire 0) State.reset (fun _ => True) := by
  have h := ob.1 State.reset 0
  repeat specialize h (by first | decide +kernel | exact calm_by (by decide +kernel) | with_reducible rfl | exact fun hh => absurd hh (by decide +kernel))
  exact comes h

theorem wit_ScratchpadUpkeep_2 (ob : Obligations.ScratchpadUpkeep) : Completes (.wbufRetire 255) sScratchpadUpkeep2 (fun _ => True) := by
  have h := ob.1 sScratchpadUpkeep2 255
  repeat specialize h (by first | decide +kernel | exact calm_by (by decide +kernel) | with_reducible rfl | exact fun hh => absurd hh (by decide +kernel))
  exact comes h

theorem wit_ScratchpadUpkeep_3 (ob : Obligations.ScratchpadUpkeep) : Completes (.spdHandleWrite 0 9 (BitVec.ofNat 64 (wHdl 0 0))) State.reset (fun _ => True) := by
  have h := ob.2.1 State.reset 0 9 (BitVec.ofNat 64 (wHdl 0 0))
  repeat specialize h (by first | decide +kernel | exact calm_by (by decide +kernel) | with_reducible rfl | exact fun hh => absurd hh (by decide +kernel))
  have h := h.1
  repeat specialize h (by first | decide +kernel | exact calm_by (by decide +kernel) | with_reducible rfl | exact fun hh => absurd hh (by decide +kernel))
  exact comes h

/-- Rows 4,090 to 6,137 of the 5,120 rows of activation memory: one handle entry that R133 does not allow. -/
theorem wit_ScratchpadUpkeep_6 (ob : Obligations.ScratchpadUpkeep) : Completes (.spdHandleWrite 0 63 (BitVec.ofNat 64 (wHdl 1 65000))) State.reset (fun _ => True) := by
  have h := ob.2.1 State.reset 0 63 (BitVec.ofNat 64 (wHdl 1 65000))
  repeat specialize h (by first | decide +kernel | exact calm_by (by decide +kernel) | with_reducible rfl | exact fun hh => absurd hh (by decide +kernel))
  have h := h.2
  repeat specialize h (by first | decide +kernel | exact calm_by (by decide +kernel) | with_reducible rfl | exact fun hh => absurd hh (by decide +kernel))
  exact comes h

theorem wit_ScratchpadUpkeep_4 (ob : Obligations.ScratchpadUpkeep) : Completes (.spdScrub 0) State.reset (fun _ => True) := by
  have h := ob.2.2.1 State.reset 0
  repeat specialize h (by first | decide +kernel | exact calm_by (by decide +kernel) | with_reducible rfl | exact fun hh => absurd hh (by decide +kernel))
  have h := h.1
  repeat specialize h (by first | decide +kernel | exact calm_by (by decide +kernel) | with_reducible rfl | exact fun hh => absurd hh (by decide +kernel))
  exact comes h

theorem wit_ScratchpadUpkeep_7 (ob : Obligations.ScratchpadUpkeep) : Completes (.spdScrub 0) sScratchpadUpkeep7 (fun _ => True) := by
  have h := ob.2.2.1 sScratchpadUpkeep7 0
  repeat specialize h (by first | decide +kernel | exact calm_by (by decide +kernel) | with_reducible rfl | exact fun hh => absurd hh (by decide +kernel))
  have h := h.2 (.inl rfl)
  repeat specialize h (by first | decide +kernel | exact calm_by (by decide +kernel) | with_reducible rfl | exact fun hh => absurd hh (by decide +kernel))
  exact comes h

theorem wit_ScratchpadUpkeep_5 (ob : Obligations.ScratchpadUpkeep) : Completes (.spdScrubDone 0) State.reset (fun _ => True) := by
  have h := ob.2.2.2 State.reset 0
  repeat specialize h (by first | decide +kernel | exact calm_by (by decide +kernel) | with_reducible rfl | exact fun hh => absurd hh (by decide +kernel))
  exact comes h

def sDescriptorsTaken1 : State :=
  wF (wEng 0 (wSt [wIn])) []

def sDescriptorsTaken2 : State :=
  wF (wEng 0 (wSt [wOut])) []

def sDescriptorsTaken3 : State :=
  wF (wEng 0 (wSt [wLink])) []

def sDescriptorsTaken4 : State :=
  wF (wEng 0 (wSt [4])) []

def sDescriptorsTaken5 : State :=
  wF (wEng 8 (wSt [wGat])) []

def sDescriptorsTaken6 : State :=
  wF (wEng 9 (wSt [wSca])) []

def sDescriptorsTaken7 : State :=
  wF (wEng 8 (wSt [wBLink])) []

def sDescriptorsTaken8 : State :=
  wF (wEng 9 (wSt [4])) []

theorem wit_DescriptorsTaken_1 (ob : Obligations.DescriptorsTaken) : Completes (.flueIn 0 0) sDescriptorsTaken1 (fun _ => True) := by
  have h := ob sDescriptorsTaken1 0 0 (wIn) (wSt [wIn]) false
  repeat specialize h (by first | decide +kernel | exact calm_by (by decide +kernel) | with_reducible rfl | exact fun hh => absurd hh (by decide +kernel))
  have h := h.1
  repeat specialize h (by first | decide +kernel | exact calm_by (by decide +kernel) | with_reducible rfl | exact fun hh => absurd hh (by decide +kernel))
  exact comes h

theorem wit_DescriptorsTaken_2 (ob : Obligations.DescriptorsTaken) : Completes (.flueOut 0 0) sDescriptorsTaken2 (fun _ => True) := by
  have h := ob sDescriptorsTaken2 0 0 (wOut) (wSt [wOut]) false
  repeat specialize h (by first | decide +kernel | exact calm_by (by decide +kernel) | with_reducible rfl | exact fun hh => absurd hh (by decide +kernel))
  have h := h.2.1
  repeat specialize h (by first | decide +kernel | exact calm_by (by decide +kernel) | with_reducible rfl | exact fun hh => absurd hh (by decide +kernel))
  exact comes h

theorem wit_DescriptorsTaken_3 (ob : Obligations.DescriptorsTaken) : Completes (.flueLink 0 0) sDescriptorsTaken3 (fun _ => True) := by
  have h := ob sDescriptorsTaken3 0 0 (wLink) (wSt [wLink]) false
  repeat specialize h (by first | decide +kernel | exact calm_by (by decide +kernel) | with_reducible rfl | exact fun hh => absurd hh (by decide +kernel))
  have h := h.2.2.1
  repeat specialize h (by first | decide +kernel | exact calm_by (by decide +kernel) | with_reducible rfl | exact fun hh => absurd hh (by decide +kernel))
  exact comes h

theorem wit_DescriptorsTaken_4 (ob : Obligations.DescriptorsTaken) : Completes (.flueEnd 0 0) sDescriptorsTaken4 (fun _ => True) := by
  have h := ob sDescriptorsTaken4 0 0 (4) (wSt [4]) false
  repeat specialize h (by first | decide +kernel | exact calm_by (by decide +kernel) | with_reducible rfl | exact fun hh => absurd hh (by decide +kernel))
  have h := h.2.2.2.1
  repeat specialize h (by first | decide +kernel | exact calm_by (by decide +kernel) | with_reducible rfl | exact fun hh => absurd hh (by decide +kernel))
  exact comes h

theorem wit_DescriptorsTaken_5 (ob : Obligations.DescriptorsTaken) : Completes (.blwGather 0 0) sDescriptorsTaken5 (fun _ => True) := by
  have h := ob sDescriptorsTaken5 0 8 (wGat) (wSt [wGat]) false
  repeat specialize h (by first | decide +kernel | exact calm_by (by decide +kernel) | with_reducible rfl | exact fun hh => absurd hh (by decide +kernel))
  have h := h.2.2.2.2.1
  repeat specialize h (by first | decide +kernel | exact calm_by (by decide +kernel) | with_reducible rfl | exact fun hh => absurd hh (by decide +kernel))
  exact comes h

theorem wit_DescriptorsTaken_6 (ob : Obligations.DescriptorsTaken) : Completes (.blwScatter 0 1) sDescriptorsTaken6 (fun _ => True) := by
  have h := ob sDescriptorsTaken6 0 9 (wSca) (wSt [wSca]) false
  repeat specialize h (by first | decide +kernel | exact calm_by (by decide +kernel) | with_reducible rfl | exact fun hh => absurd hh (by decide +kernel))
  have h := h.2.2.2.2.2.1
  repeat specialize h (by first | decide +kernel | exact calm_by (by decide +kernel) | with_reducible rfl | exact fun hh => absurd hh (by decide +kernel))
  exact comes h

theorem wit_DescriptorsTaken_7 (ob : Obligations.DescriptorsTaken) : Completes (.blwLink 0 0) sDescriptorsTaken7 (fun _ => True) := by
  have h := ob sDescriptorsTaken7 0 8 (wBLink) (wSt [wBLink]) false
  repeat specialize h (by first | decide +kernel | exact calm_by (by decide +kernel) | with_reducible rfl | exact fun hh => absurd hh (by decide +kernel))
  have h := h.2.2.2.2.2.2.1
  repeat specialize h (by first | decide +kernel | exact calm_by (by decide +kernel) | with_reducible rfl | exact fun hh => absurd hh (by decide +kernel))
  exact comes h

theorem wit_DescriptorsTaken_8 (ob : Obligations.DescriptorsTaken) : Completes (.blwEnd 0 1) sDescriptorsTaken8 (fun _ => True) := by
  have h := ob sDescriptorsTaken8 0 9 (4) (wSt [4]) false
  repeat specialize h (by first | decide +kernel | exact calm_by (by decide +kernel) | with_reducible rfl | exact fun hh => absurd hh (by decide +kernel))
  have h := h.2.2.2.2.2.2.2
  repeat specialize h (by first | decide +kernel | exact calm_by (by decide +kernel) | with_reducible rfl | exact fun hh => absurd hh (by decide +kernel))
  exact comes h

def sRequestsLeave1 : State :=
  wF (wEng 0 (wSt [])) []

def sRequestsLeave2 : State :=
  wF (wEng 0 (wStC wIn)) []

def sRequestsLeave3 : State :=
  wF (wEng 0 { wStC wOut with outRead := true, outData := List.replicate 1024 0 }) []

def sRequestsLeave4 : State :=
  wF (wEng 8 (wStC wGat)) []

def sRequestsLeave5 : State :=
  wr (wF { Hearth.fresh with hints := [⟨0, 0, 2048⟩], tlb := [tlbMake 0 2 (leafMake true false 0 0 32 0)] } []) (R.fluCtrl 0) 4

/-- A RUN-mode GATHER, and a SCATTER whose index row and slots are FULL. -/
def sRequestsLeave6 : State :=
  wF (wEng 8 (wStC (wGat + 2 ^ 4))) []

def sRequestsLeave7 : State :=
  wF { wEng 9 (wStC wSca) with spd := { wSpd5 with slots := wSpd5.slots ++ wFull [64] } } []

def wElem (l : Look) : Cand := match l with | .ready c => c | _ => noCand
def wHinted (s : State) : TlbEnt := (hintXlate (quiet s) 0 2 0 0).1.getD noEnt

theorem wit_RequestsLeave_1 (ob : Obligations.RequestsLeave) : Completes (.descBurst 0 0) sRequestsLeave1 (fun _ => True) := by
  have h := ob sRequestsLeave1 0
  repeat specialize h (by first | decide +kernel | exact calm_by (by decide +kernel) | with_reducible rfl | exact fun hh => absurd hh (by decide +kernel))
  have h := h.1 (wLook sRequestsLeave1) (wLooked sRequestsLeave1) (wBest (wLook sRequestsLeave1))
  repeat specialize h (by first | decide +kernel | exact calm_by (by decide +kernel) | with_reducible rfl | exact fun hh => absurd hh (by decide +kernel))
  have k : Calm (wLooked sRequestsLeave1) ∧ (wLooked sRequestsLeave1).slices = sRequestsLeave1.slices ∧ (wLooked sRequestsLeave1).hbm = sRequestsLeave1.hbm ∧ (wLooked sRequestsLeave1).now = sRequestsLeave1.now := ⟨calm_by (by decide +kernel), by decide +kernel, by decide +kernel, by decide +kernel⟩
  have h := h k
  repeat specialize h (by first | decide +kernel | exact calm_by (by decide +kernel) | with_reducible rfl | exact fun hh => absurd hh (by decide +kernel))
  have h := h.1
  repeat specialize h (by first | decide +kernel | exact calm_by (by decide +kernel) | with_reducible rfl | exact fun hh => absurd hh (by decide +kernel))
  have h := h (.descBurst 0 (wBest (wLook sRequestsLeave1)).eng) (by simp)
  exact comes h

theorem wit_RequestsLeave_2 (ob : Obligations.RequestsLeave) : Completes (.readRequestIssue 0) sRequestsLeave2 (fun _ => True) := by
  have h := ob sRequestsLeave2 0
  repeat specialize h (by first | decide +kernel | exact calm_by (by decide +kernel) | with_reducible rfl | exact fun hh => absurd hh (by decide +kernel))
  have h := h.1 (wLook sRequestsLeave2) (wLooked sRequestsLeave2) (wBest (wLook sRequestsLeave2))
  repeat specialize h (by first | decide +kernel | exact calm_by (by decide +kernel) | with_reducible rfl | exact fun hh => absurd hh (by decide +kernel))
  have k : Calm (wLooked sRequestsLeave2) ∧ (wLooked sRequestsLeave2).slices = sRequestsLeave2.slices ∧ (wLooked sRequestsLeave2).hbm = sRequestsLeave2.hbm ∧ (wLooked sRequestsLeave2).now = sRequestsLeave2.now := ⟨calm_by (by decide +kernel), by decide +kernel, by decide +kernel, by decide +kernel⟩
  have h := h k
  repeat specialize h (by first | decide +kernel | exact calm_by (by decide +kernel) | with_reducible rfl | exact fun hh => absurd hh (by decide +kernel))
  have h := h.2.1
  repeat specialize h (by first | decide +kernel | exact calm_by (by decide +kernel) | with_reducible rfl | exact fun hh => absurd hh (by decide +kernel))
  exact comes h

theorem wit_RequestsLeave_3 (ob : Obligations.RequestsLeave) : Completes (.writeRequestIssue 0) sRequestsLeave3 (fun _ => True) := by
  have h := ob sRequestsLeave3 0
  repeat specialize h (by first | decide +kernel | exact calm_by (by decide +kernel) | with_reducible rfl | exact fun hh => absurd hh (by decide +kernel))
  have h := h.2.1 (wLookW sRequestsLeave3) (wLookedW sRequestsLeave3) (wBest (wLookW sRequestsLeave3))
  repeat specialize h (by first | decide +kernel | exact calm_by (by decide +kernel) | with_reducible rfl | exact fun hh => absurd hh (by decide +kernel))
  have k : Calm (wLookedW sRequestsLeave3) ∧ (wLookedW sRequestsLeave3).slices = sRequestsLeave3.slices ∧ (wLookedW sRequestsLeave3).hbm = sRequestsLeave3.hbm ∧ (wLookedW sRequestsLeave3).now = sRequestsLeave3.now := ⟨calm_by (by decide +kernel), by decide +kernel, by decide +kernel, by decide +kernel⟩
  have h := h k
  repeat specialize h (by first | decide +kernel | exact calm_by (by decide +kernel) | with_reducible rfl | exact fun hh => absurd hh (by decide +kernel))
  have h := h.1
  repeat specialize h (by first | decide +kernel | exact calm_by (by decide +kernel) | with_reducible rfl | exact fun hh => absurd hh (by decide +kernel))
  exact comes h

theorem wit_RequestsLeave_4 (ob : Obligations.RequestsLeave) : Completes (.blwElementRequest 0 0) sRequestsLeave4 (fun _ => True) := by
  have h := ob sRequestsLeave4 0
  repeat specialize h (by first | decide +kernel | exact calm_by (by decide +kernel) | with_reducible rfl | exact fun hh => absurd hh (by decide +kernel))
  have h := h.2.2.1 0 (elementLook (quiet sRequestsLeave4) 0 0).2 (wElem (elementLook (quiet sRequestsLeave4) 0 0).1)
  repeat specialize h (by first | decide +kernel | exact calm_by (by decide +kernel) | with_reducible rfl | exact fun hh => absurd hh (by decide +kernel))
  have k : Calm ((elementLook (quiet sRequestsLeave4) 0 0).2) ∧ ((elementLook (quiet sRequestsLeave4) 0 0).2).slices = sRequestsLeave4.slices ∧ ((elementLook (quiet sRequestsLeave4) 0 0).2).hbm = sRequestsLeave4.hbm ∧ ((elementLook (quiet sRequestsLeave4) 0 0).2).now = sRequestsLeave4.now := ⟨calm_by (by decide +kernel), by decide +kernel, by decide +kernel, by decide +kernel⟩
  have h := h k
  repeat specialize h (by first | decide +kernel | exact calm_by (by decide +kernel) | with_reducible rfl | exact fun hh => absurd hh (by decide +kernel))
  exact comes h

theorem wit_RequestsLeave_5 (ob : Obligations.RequestsLeave) : Completes (.hintIssue 0 0) sRequestsLeave5 (fun _ => True) := by
  have h := ob sRequestsLeave5 0
  repeat specialize h (by first | decide +kernel | exact calm_by (by decide +kernel) | with_reducible rfl | exact fun hh => absurd hh (by decide +kernel))
  have h := h.2.2.2 0 0 ⟨0, 0, 2048⟩ (wHinted sRequestsLeave5) (hintXlate (quiet sRequestsLeave5) 0 2 0 0).2
  repeat specialize h (by first | decide +kernel | exact calm_by (by decide +kernel) | with_reducible rfl | exact fun hh => absurd hh (by decide +kernel))
  have k : Calm ((hintXlate (quiet sRequestsLeave5) 0 2 0 0).2) ∧ ((hintXlate (quiet sRequestsLeave5) 0 2 0 0).2).slices = sRequestsLeave5.slices ∧ ((hintXlate (quiet sRequestsLeave5) 0 2 0 0).2).hbm = sRequestsLeave5.hbm ∧ ((hintXlate (quiet sRequestsLeave5) 0 2 0 0).2).now = sRequestsLeave5.now := ⟨calm_by (by decide +kernel), by decide +kernel, by decide +kernel, by decide +kernel⟩
  have h := h k
  repeat specialize h (by first | decide +kernel | exact calm_by (by decide +kernel) | with_reducible rfl | exact fun hh => absurd hh (by decide +kernel))
  exact comes h

theorem wit_RequestsLeave_6 (ob : Obligations.RequestsLeave) : Completes (.readRequestIssue 0) sRequestsLeave6 (fun _ => True) := by
  have h := ob sRequestsLeave6 0
  repeat specialize h (by first | decide +kernel | exact calm_by (by decide +kernel) | with_reducible rfl | exact fun hh => absurd hh (by decide +kernel))
  have h := h.1 (wLook sRequestsLeave6) (wLooked sRequestsLeave6) (wBest (wLook sRequestsLeave6))
  repeat specialize h (by first | decide +kernel | exact calm_by (by decide +kernel) | with_reducible rfl | exact fun hh => absurd hh (by decide +kernel))
  have k : Calm (wLooked sRequestsLeave6) ∧ (wLooked sRequestsLeave6).slices = sRequestsLeave6.slices ∧ (wLooked sRequestsLeave6).hbm = sRequestsLeave6.hbm ∧ (wLooked sRequestsLeave6).now = sRequestsLeave6.now := ⟨calm_by (by decide +kernel), by decide +kernel, by decide +kernel, by decide +kernel⟩
  have h := h k
  repeat specialize h (by first | decide +kernel | exact calm_by (by decide +kernel) | with_reducible rfl | exact fun hh => absurd hh (by decide +kernel))
  have h := h.2.2
  repeat specialize h (by first | decide +kernel | exact calm_by (by decide +kernel) | with_reducible rfl | exact fun hh => absurd hh (by decide +kernel))
  exact comes h

theorem wit_RequestsLeave_7 (ob : Obligations.RequestsLeave) : Completes (.writeRequestIssue 0) sRequestsLeave7 (fun _ => True) := by
  have h := ob sRequestsLeave7 0
  repeat specialize h (by first | decide +kernel | exact calm_by (by decide +kernel) | with_reducible rfl | exact fun hh => absurd hh (by decide +kernel))
  have h := h.2.1 (wLookW sRequestsLeave7) (wLookedW sRequestsLeave7) (wBest (wLookW sRequestsLeave7))
  repeat specialize h (by first | decide +kernel | exact calm_by (by decide +kernel) | with_reducible rfl | exact fun hh => absurd hh (by decide +kernel))
  have k : Calm (wLookedW sRequestsLeave7) ∧ (wLookedW sRequestsLeave7).slices = sRequestsLeave7.slices ∧ (wLookedW sRequestsLeave7).hbm = sRequestsLeave7.hbm ∧ (wLookedW sRequestsLeave7).now = sRequestsLeave7.now := ⟨calm_by (by decide +kernel), by decide +kernel, by decide +kernel, by decide +kernel⟩
  have h := h k
  repeat specialize h (by first | decide +kernel | exact calm_by (by decide +kernel) | with_reducible rfl | exact fun hh => absurd hh (by decide +kernel))
  have h := h.2
  repeat specialize h (by first | decide +kernel | exact calm_by (by decide +kernel) | with_reducible rfl | exact fun hh => absurd hh (by decide +kernel))
  have h := h.1
  exact comes h

theorem wit_RequestsLeave_8 (ob : Obligations.RequestsLeave) : Completes (.blwElementRequest 0 1) sRequestsLeave7 (fun _ => True) := by
  have h := ob sRequestsLeave7 0
  repeat specialize h (by first | decide +kernel | exact calm_by (by decide +kernel) | with_reducible rfl | exact fun hh => absurd hh (by decide +kernel))
  have h := h.2.1 (wLookW sRequestsLeave7) (wLookedW sRequestsLeave7) (wBest (wLookW sRequestsLeave7))
  repeat specialize h (by first | decide +kernel | exact calm_by (by decide +kernel) | with_reducible rfl | exact fun hh => absurd hh (by decide +kernel))
  have k : Calm (wLookedW sRequestsLeave7) ∧ (wLookedW sRequestsLeave7).slices = sRequestsLeave7.slices ∧ (wLookedW sRequestsLeave7).hbm = sRequestsLeave7.hbm ∧ (wLookedW sRequestsLeave7).now = sRequestsLeave7.now := ⟨calm_by (by decide +kernel), by decide +kernel, by decide +kernel, by decide +kernel⟩
  have h := h k
  repeat specialize h (by first | decide +kernel | exact calm_by (by decide +kernel) | with_reducible rfl | exact fun hh => absurd hh (by decide +kernel))
  have h := h.2
  repeat specialize h (by first | decide +kernel | exact calm_by (by decide +kernel) | with_reducible rfl | exact fun hh => absurd hh (by decide +kernel))
  have h := h.2 1
  repeat specialize h (by first | decide +kernel | exact calm_by (by decide +kernel) | with_reducible rfl | exact fun hh => absurd hh (by decide +kernel))
  exact comes h

def sResponsesLand1 : State :=
  wF { wEng 0 { wSt [] with fly := [⟨3, 32, none⟩] } with reqs := [⟨3, .burst, 0, 5, false, 0, 65536 * 32, 0, 2048, 0, 1024, false, 65536, 0⟩], resps := [⟨3, List.replicate 2048 0, false⟩], nextId := 4 } []

def sResponsesLand2 : State :=
  wF { wEng 0 { wStC wIn with tiles := [⟨65536, 0, 1024, 16, none, false, 0, true, 0⟩] } with reqs := [⟨3, .tile, 0, 5, false, 0, 65536 * 32, 0, 1024, 0, 1024, false, 65536, 0⟩], resps := [⟨3, List.replicate 1024 0, false⟩], nextId := 4 } []

def sResponsesLand3 : State :=
  wF { wEng 0 (wSt []) with reqs := [⟨3, .write, 0, 5, false, 0, 65536 * 32, 0, 1024, 0, 1024, false, 65536, 0⟩], resps := [⟨3, List.replicate 1024 0, false⟩], nextId := 4 } []

def sResponsesLand4 : State :=
  wF { wEng 0 (wStC wOut) with spd := { wSpd5 with slots := wFull [64] } } []

def sResponsesLand5 : State :=
  wF (engPut Hearth.fresh 0 ⟨some { wSt [] with ended := true }, some (wSt []), none, false, 15, false⟩) []

theorem wit_ResponsesLand_1 (ob : Obligations.ResponsesLand) : Completes (.readResponse 0 0) sResponsesLand1 (fun _ => True) := by
  have h := ob.1 sResponsesLand1 0 0 ⟨3, List.replicate 2048 0, false⟩ ⟨3, .burst, 0, 5, false, 0, 65536 * 32, 0, 2048, 0, 1024, false, 65536, 0⟩
  repeat specialize h (by first | decide +kernel | exact calm_by (by decide +kernel) | with_reducible rfl | exact fun hh => absurd hh (by decide +kernel))
  have h := h.1
  repeat specialize h (by first | decide +kernel | exact calm_by (by decide +kernel) | with_reducible rfl | exact fun hh => absurd hh (by decide +kernel))
  exact comes h

theorem wit_ResponsesLand_2 (ob : Obligations.ResponsesLand) : Completes (.readResponse 0 0) sResponsesLand2 (fun _ => True) := by
  have h := ob.1 sResponsesLand2 0 0 ⟨3, List.replicate 1024 0, false⟩ ⟨3, .tile, 0, 5, false, 0, 65536 * 32, 0, 1024, 0, 1024, false, 65536, 0⟩
  repeat specialize h (by first | decide +kernel | exact calm_by (by decide +kernel) | with_reducible rfl | exact fun hh => absurd hh (by decide +kernel))
  have h := h.2.1
  repeat specialize h (by first | decide +kernel | exact calm_by (by decide +kernel) | with_reducible rfl | exact fun hh => absurd hh (by decide +kernel))
  exact comes h

theorem wit_ResponsesLand_3 (ob : Obligations.ResponsesLand) : Completes (.writeAck 0 0) sResponsesLand3 (fun _ => True) := by
  have h := ob.1 sResponsesLand3 0 0 ⟨3, List.replicate 1024 0, false⟩ ⟨3, .write, 0, 5, false, 0, 65536 * 32, 0, 1024, 0, 1024, false, 65536, 0⟩
  repeat specialize h (by first | decide +kernel | exact calm_by (by decide +kernel) | with_reducible rfl | exact fun hh => absurd hh (by decide +kernel))
  have h := h.2.2
  repeat specialize h (by first | decide +kernel | exact calm_by (by decide +kernel) | with_reducible rfl | exact fun hh => absurd hh (by decide +kernel))
  exact comes h

theorem wit_ResponsesLand_4 (ob : Obligations.ResponsesLand) : Completes (.outTileRead 0 0) sResponsesLand4 (fun _ => True) := by
  have h := ob.2.1 sResponsesLand4 0 0 wOut (wStC wOut) false
  repeat specialize h (by first | decide +kernel | exact calm_by (by decide +kernel) | with_reducible rfl | exact fun hh => absurd hh (by decide +kernel))
  exact comes h

theorem wit_ResponsesLand_5 (ob : Obligations.ResponsesLand) : Completes (.nextStreamStart 0 0) sResponsesLand5 (fun _ => True) := by
  have h := ob.2.2.1 sResponsesLand5 0 0 { wSt [] with ended := true } (wSt [])
  repeat specialize h (by first | decide +kernel | exact calm_by (by decide +kernel) | with_reducible rfl | exact fun hh => absurd hh (by decide +kernel))
  exact comes h

theorem wit_ResponsesLand_6 (ob : Obligations.ResponsesLand) : Completes (.fluHintClr 0) State.reset (fun _ => True) := by
  have h := ob.2.2.2 State.reset 0
  repeat specialize h (by first | decide +kernel | exact calm_by (by decide +kernel) | with_reducible rfl | exact fun hh => absurd hh (by decide +kernel))
  exact comes h

theorem wListens : Listens State.reset 1024 :=
  { pace := rfl, rnr := rfl, rate := .inl rfl, prio := by decide +kernel, qp := by decide, rts := by decide +kernel, formed := by decide, cmds := rfl }

/-- MEM_SCRUB_CFG of stack 3 (R247). -/
def wReg : Nat := (R.memScrubCfg 3).addr
def wRow : RegRow := ⟨48, 1, 0, 1, 0, 8388608, 4294967295, 0, 0, 0⟩

theorem wit_HostReadsAndWrites_1 (ob : Obligations.HostReadsAndWrites) : Completes (.csrRead 1024 wReg 7) State.reset (fun _ => True) := by
  have h := ob State.reset 1024 wReg 7
  repeat specialize h (by first | decide +kernel | exact calm_by (by decide +kernel) | with_reducible rfl | exact fun hh => absurd hh (by decide +kernel))
  have h := h wListens
  repeat specialize h (by first | decide +kernel | exact calm_by (by decide +kernel) | with_reducible rfl | exact fun hh => absurd hh (by decide +kernel))
  have h := h.1
  exact comes h

theorem wit_HostReadsAndWrites_2 (ob : Obligations.HostReadsAndWrites) : Completes (.csrWrite 1024 wReg 8388609 7) State.reset (fun _ => True) := by
  have h := ob State.reset 1024 wReg 7
  repeat specialize h (by first | decide +kernel | exact calm_by (by decide +kernel) | with_reducible rfl | exact fun hh => absurd hh (by decide +kernel))
  have h := h wListens
  repeat specialize h (by first | decide +kernel | exact calm_by (by decide +kernel) | with_reducible rfl | exact fun hh => absurd hh (by decide +kernel))
  have h := h.2 8388609 .mem 3 48 .memScrubCfg wRow 0 0
  repeat specialize h (by first | decide +kernel | exact calm_by (by decide +kernel) | with_reducible rfl | exact fun hh => absurd hh (by decide +kernel))
  exact comes h

theorem wit_RegisterWriteWhole_1 (ob : Obligations.RegisterWriteWhole) : Completes (.registerWrite .stoker wReg 8388609) State.reset (fun _ => True) := by
  have h := ob State.reset .stoker wReg 8388609 .mem 3 48 .memScrubCfg wRow 0 0
  repeat specialize h (by first | decide +kernel | exact calm_by (by decide +kernel) | with_reducible rfl | exact fun hh => absurd hh (by decide +kernel))
  have h := h (fun q h => by cases h)
  repeat specialize h (by first | decide +kernel | exact calm_by (by decide +kernel) | with_reducible rfl | exact fun hh => absurd hh (by decide +kernel))
  have h := h.1
  repeat specialize h (by first | decide +kernel | exact calm_by (by decide +kernel) | with_reducible rfl | exact fun hh => absurd hh (by decide +kernel))
  exact comes h

theorem wit_RegisterWriteWhole_2 (ob : Obligations.RegisterWriteWhole) : Completes (.registerWrite .stoker wReg 1) State.reset (fun _ => True) := by
  have h := ob State.reset .stoker wReg 1 .mem 3 48 .memScrubCfg wRow 0 0
  repeat specialize h (by first | decide +kernel | exact calm_by (by decide +kernel) | with_reducible rfl | exact fun hh => absurd hh (by decide +kernel))
  have h := h (fun q h => by cases h)
  repeat specialize h (by first | decide +kernel | exact calm_by (by decide +kernel) | with_reducible rfl | exact fun hh => absurd hh (by decide +kernel))
  have h := h.2
  repeat specialize h (by first | decide +kernel | exact calm_by (by decide +kernel) | with_reducible rfl | exact fun hh => absurd hh (by decide +kernel))
  exact comes h

theorem wit_CountersAndLogsClear_1 (ob : Obligations.CountersAndLogsClear) : Completes (.counterClear .mxa 0) State.reset (fun _ => True) := by
  have h := ob.1 State.reset .mxa 0
  repeat specialize h (by first | decide +kernel | exact calm_by (by decide +kernel) | with_reducible rfl | exact fun hh => absurd hh (by decide +kernel))
  exact comes h

theorem wit_CountersAndLogsClear_2 (ob : Obligations.CountersAndLogsClear) : Completes (.errLogClear .chm 2) State.reset (fun _ => True) := by
  have h := ob.2 State.reset .chm 2 (R.chmErrLog 2) (R.chmErrCount 2)
  repeat specialize h (by first | decide +kernel | exact calm_by (by decide +kernel) | with_reducible rfl | exact fun hh => absurd hh (by decide +kernel))
  exact comes h

/-- The device with slice 1 as given. -/
def wSl (x : Slice) : State := { State.reset with slices := [(1, x)] }
/-- Line 8,192 of partition 2, and a request of hearth 0 for it. -/
def wLine : Line := ⟨2, 8192, 0, List.replicate 256 1, false, false, false⟩
def wReq (wr hint : Bool) (data : List Byte) : MReq := ⟨0, 1, wr, hint, 2, 2097152, if wr then data.length else 256, data, true, 0, 0, 0, 5, false, false, 0⟩
def wMc : McEnt := ⟨2, 1, 0, 0, [], [], [], 0, 0, []⟩

/-- The stack and the pseudo-channel of line 8,192. -/
def wK : Nat := (hbmLoc [] 2097152).k
def wPc : Nat := (hbmLoc [] 2097152).p
def wHb (x : PsCh) : State := let s := wF Hearth.fresh []; { s with hbm := { s.hbm with pcs := [(pcKey wK wPc, x)] } }
def wWr : HbmWr := ⟨2097152, List.replicate 32 7, 1, false, 2, true⟩
def wStk (x : Stack) : State := { State.reset with hbm := { Hbm.zero with stk := [(3, x)] } }

def sSliceHits1 : State :=
  wSl { Slice.empty with lines := [wLine], reqs := [wReq false false []] }

def sSliceHits2 : State :=
  wSl { Slice.empty with lines := [wLine], reqs := [wReq true false [3, 4]] }

theorem wit_SliceHits_1 (ob : Obligations.SliceHits) : Completes (.chmRead 1 0) sSliceHits1 (fun _ => True) := by
  have h := ob sSliceHits1 1 0 (wReq false false [])
  repeat specialize h (by first | decide +kernel | exact calm_by (by decide +kernel) | with_reducible rfl | exact fun hh => absurd hh (by decide +kernel))
  have h := h.1 [wLine]
  repeat specialize h (by first | decide +kernel | exact calm_by (by decide +kernel) | with_reducible rfl | exact fun hh => absurd hh (by decide +kernel))
  exact comes h

theorem wit_SliceHits_2 (ob : Obligations.SliceHits) : Completes (.chmWrite 1 0) sSliceHits2 (fun _ => True) := by
  have h := ob sSliceHits2 1 0 (wReq true false [3, 4])
  repeat specialize h (by first | decide +kernel | exact calm_by (by decide +kernel) | with_reducible rfl | exact fun hh => absurd hh (by decide +kernel))
  have h := h.2 8192 wLine
  repeat specialize h (by first | decide +kernel | exact calm_by (by decide +kernel) | with_reducible rfl | exact fun hh => absurd hh (by decide +kernel))
  exact comes h

def sFillsAndHints1 : State :=
  wSl { Slice.empty with fills := [⟨0, 2, 0, [8192], [8192], some [⟨8192, List.replicate 256 0, false⟩]⟩], waits := [⟨wReq false false [], [8192], [], false⟩], nfill := 1 }

def sFillsAndHints2 : State :=
  wr (wSl { Slice.empty with reqs := [wReq false true []] }) (R.chmPartQuotaP 1 2) 100

def sFillsAndHints3 : State :=
  wSl { Slice.empty with reqs := [wReq false true []] }

theorem wit_FillsAndHints_1 (ob : Obligations.FillsAndHints) : Completes (.chmFillComplete 1 0) sFillsAndHints1 (fun _ => True) := by
  have h := ob.1 sFillsAndHints1 1 0 ⟨0, 2, 0, [8192], [8192], some [⟨8192, List.replicate 256 0, false⟩]⟩ [⟨8192, List.replicate 256 0, false⟩] ⟨wReq false false [], [8192], [], false⟩
  repeat specialize h (by first | decide +kernel | exact calm_by (by decide +kernel) | with_reducible rfl | exact fun hh => absurd hh (by decide +kernel))
  exact comes h

theorem wit_FillsAndHints_2 (ob : Obligations.FillsAndHints) : Completes (.chmHint 1 0) sFillsAndHints2 (fun _ => True) := by
  have h := ob.2 sFillsAndHints2 1 0 (wReq false true [])
  repeat specialize h (by first | decide +kernel | exact calm_by (by decide +kernel) | with_reducible rfl | exact fun hh => absurd hh (by decide +kernel))
  have h := h.1
  repeat specialize h (by first | decide +kernel | exact calm_by (by decide +kernel) | with_reducible rfl | exact fun hh => absurd hh (by decide +kernel))
  exact comes h

theorem wit_FillsAndHints_3 (ob : Obligations.FillsAndHints) : Completes (.chmHint 1 0) sFillsAndHints3 (fun _ => True) := by
  have h := ob.2 sFillsAndHints3 1 0 (wReq false true [])
  repeat specialize h (by first | decide +kernel | exact calm_by (by decide +kernel) | with_reducible rfl | exact fun hh => absurd hh (by decide +kernel))
  have h := h.2.2 (.inr (.inl (by decide +kernel)))
  exact comes h

def sSliceUpkeep1 : State :=
  { wSl { Slice.empty with entries := [wMc] } with mcast := [(mcKey 2 1, ⟨[⟨0, 0, 5⟩, ⟨1, 0, 6⟩], [], 0, 0, 1⟩)] }

def sSliceUpkeep4 : State :=
  wSl { Slice.empty with lines := [wLine] }

def sSliceUpkeep5 : State :=
  wF Hearth.fresh []

theorem wit_SliceUpkeep_1 (ob : Obligations.SliceUpkeep) : Completes (.mcastTimeBudget 1 2 1) sSliceUpkeep1 (fun _ => True) := by
  have h := ob sSliceUpkeep1 1
  repeat specialize h (by first | decide +kernel | exact calm_by (by decide +kernel) | with_reducible rfl | exact fun hh => absurd hh (by decide +kernel))
  have h := h.1 2 1 wMc
  repeat specialize h (by first | decide +kernel | exact calm_by (by decide +kernel) | with_reducible rfl | exact fun hh => absurd hh (by decide +kernel))
  exact comes h

theorem wit_SliceUpkeep_2 (ob : Obligations.SliceUpkeep) : Completes (.arbRound 1) State.reset (fun _ => True) := by
  have h := ob State.reset 1
  repeat specialize h (by first | decide +kernel | exact calm_by (by decide +kernel) | with_reducible rfl | exact fun hh => absurd hh (by decide +kernel))
  have h := h.2.1
  exact comes h

theorem wit_SliceUpkeep_3 (ob : Obligations.SliceUpkeep) : Completes (.chmPatrolRead 1) State.reset (fun _ => True) := by
  have h := ob State.reset 1
  repeat specialize h (by first | decide +kernel | exact calm_by (by decide +kernel) | with_reducible rfl | exact fun hh => absurd hh (by decide +kernel))
  have h := h.2.2.1
  repeat specialize h (by first | decide +kernel | exact calm_by (by decide +kernel) | with_reducible rfl | exact fun hh => absurd hh (by decide +kernel))
  exact comes h

theorem wit_SliceUpkeep_4 (ob : Obligations.SliceUpkeep) : Completes (.chmScrub 1 2) sSliceUpkeep4 (fun _ => True) := by
  have h := ob sSliceUpkeep4 1
  repeat specialize h (by first | decide +kernel | exact calm_by (by decide +kernel) | with_reducible rfl | exact fun hh => absurd hh (by decide +kernel))
  have h := h.2.2.2.1 (2)
  repeat specialize h (by first | decide +kernel | exact calm_by (by decide +kernel) | with_reducible rfl | exact fun hh => absurd hh (by decide +kernel))
  exact comes h

theorem wit_SliceUpkeep_5 (ob : Obligations.SliceUpkeep) : Completes (.chmScrub 1 2) sSliceUpkeep5 (fun _ => True) := by
  have h := ob sSliceUpkeep5 1
  repeat specialize h (by first | decide +kernel | exact calm_by (by decide +kernel) | with_reducible rfl | exact fun hh => absurd hh (by decide +kernel))
  have h := h.2.2.2.2.1 (2)
  repeat specialize h (by first | decide +kernel | exact calm_by (by decide +kernel) | with_reducible rfl | exact fun hh => absurd hh (by decide +kernel))
  exact comes h

theorem wit_SliceUpkeep_6 (ob : Obligations.SliceUpkeep) : Completes (.chmScrubDone 1) State.reset (fun _ => True) := by
  have h := ob State.reset 1
  repeat specialize h (by first | decide +kernel | exact calm_by (by decide +kernel) | with_reducible rfl | exact fun hh => absurd hh (by decide +kernel))
  have h := h.2.2.2.2.2
  exact comes h

def sHbmReadsAndWrites1 : State :=
  { wHb { PsCh.idle with rq := [⟨1, 0⟩] } with slices := [(1, { Slice.empty with fills := [⟨0, 2, 0, [8192], [], none⟩] })] }

def sHbmReadsAndWrites2 : State :=
  wHb { PsCh.idle with wq := [wWr] }

def sHbmReadsAndWrites3 : State :=
  wr (wHb { PsCh.idle with wq := [wWr] }) (R.memFence wK) (2 ^ wPc)

theorem wit_HbmReadsAndWrites_1 (ob : Obligations.HbmReadsAndWrites) : Completes (.hbmRead wK wPc 0) sHbmReadsAndWrites1 (fun _ => True) := by
  have h := ob.1 sHbmReadsAndWrites1 wK wPc 0 ⟨1, 0⟩ ⟨0, 2, 0, [8192], [], none⟩ 8192
  repeat specialize h (by first | decide +kernel | exact calm_by (by decide +kernel) | with_reducible rfl | exact fun hh => absurd hh (by decide +kernel))
  exact comes h

theorem wit_HbmReadsAndWrites_2 (ob : Obligations.HbmReadsAndWrites) : Completes (.hbmWrite wK wPc) sHbmReadsAndWrites2 (fun _ => True) := by
  have h := ob.2 sHbmReadsAndWrites2 wK wPc wWr []
  repeat specialize h (by first | decide +kernel | exact calm_by (by decide +kernel) | with_reducible rfl | exact fun hh => absurd hh (by decide +kernel))
  have h := h.1
  repeat specialize h (by first | decide +kernel | exact calm_by (by decide +kernel) | with_reducible rfl | exact fun hh => absurd hh (by decide +kernel))
  exact comes h

theorem wit_HbmReadsAndWrites_3 (ob : Obligations.HbmReadsAndWrites) : Completes (.hbmWrite wK wPc) sHbmReadsAndWrites3 (fun _ => True) := by
  have h := ob.2 sHbmReadsAndWrites3 wK wPc wWr []
  repeat specialize h (by first | decide +kernel | exact calm_by (by decide +kernel) | with_reducible rfl | exact fun hh => absurd hh (by decide +kernel))
  have h := h.2
  repeat specialize h (by first | decide +kernel | exact calm_by (by decide +kernel) | with_reducible rfl | exact fun hh => absurd hh (by decide +kernel))
  exact comes h

def sHbmUpkeep1 : State :=
  wStk ⟨2, [64], 0⟩

def sHbmUpkeep2 : State :=
  wr (wStk ⟨2, [64], 0⟩) (R.memFence 3) (2 ^ 32 - 1)

def sHbmUpkeep4 : State :=
  wStk ⟨2, [], 585727⟩

def sHbmUpkeep6 : State :=
  { State.reset with hbm := { Hbm.zero with pcs := [(pcKey 3 5, { PsCh.idle with ueGr := List.range 255 })] } }

def sHbmUpkeep7 : State :=
  wStk ⟨1, [], 0⟩

def sHbmUpkeep9 : State :=
  wr State.reset (R.memTrain 3) 2

def sHbmUpkeep10 : State :=
  wr (wStk ⟨3, [], 0⟩) (R.memTrain 3) 2

theorem wit_HbmUpkeep_1 (ob : Obligations.HbmUpkeep) : Completes (.hbmCorrectionRewrite 3) sHbmUpkeep1 (fun _ => True) := by
  have h := ob.1 sHbmUpkeep1 3
  repeat specialize h (by first | decide +kernel | exact calm_by (by decide +kernel) | with_reducible rfl | exact fun hh => absurd hh (by decide +kernel))
  have h := h.1 64 []
  repeat specialize h (by first | decide +kernel | exact calm_by (by decide +kernel) | with_reducible rfl | exact fun hh => absurd hh (by decide +kernel))
  have h := h.1
  repeat specialize h (by first | decide +kernel | exact calm_by (by decide +kernel) | with_reducible rfl | exact fun hh => absurd hh (by decide +kernel))
  exact comes h

theorem wit_HbmUpkeep_2 (ob : Obligations.HbmUpkeep) : Completes (.hbmCorrectionRewrite 3) sHbmUpkeep2 (fun _ => True) := by
  have h := ob.1 sHbmUpkeep2 3
  repeat specialize h (by first | decide +kernel | exact calm_by (by decide +kernel) | with_reducible rfl | exact fun hh => absurd hh (by decide +kernel))
  have h := h.1 64 []
  repeat specialize h (by first | decide +kernel | exact calm_by (by decide +kernel) | with_reducible rfl | exact fun hh => absurd hh (by decide +kernel))
  have h := h.2
  repeat specialize h (by first | decide +kernel | exact calm_by (by decide +kernel) | with_reducible rfl | exact fun hh => absurd hh (by decide +kernel))
  exact comes h

theorem wit_HbmUpkeep_3 (ob : Obligations.HbmUpkeep) : Completes (.hbmRefresh 3 5 63) State.reset (fun _ => True) := by
  have h := ob.1 State.reset 3
  repeat specialize h (by first | decide +kernel | exact calm_by (by decide +kernel) | with_reducible rfl | exact fun hh => absurd hh (by decide +kernel))
  have h := h.2.1 5 63
  repeat specialize h (by first | decide +kernel | exact calm_by (by decide +kernel) | with_reducible rfl | exact fun hh => absurd hh (by decide +kernel))
  exact comes h

theorem wit_HbmUpkeep_4 (ob : Obligations.HbmUpkeep) : Completes (.hbmPatrolRead 3) sHbmUpkeep4 (fun _ => True) := by
  have h := ob.1 sHbmUpkeep4 3
  repeat specialize h (by first | decide +kernel | exact calm_by (by decide +kernel) | with_reducible rfl | exact fun hh => absurd hh (by decide +kernel))
  have h := h.2.2.1
  repeat specialize h (by first | decide +kernel | exact calm_by (by decide +kernel) | with_reducible rfl | exact fun hh => absurd hh (by decide +kernel))
  exact comes h

theorem wit_HbmUpkeep_5 (ob : Obligations.HbmUpkeep) : Completes (.hbmFence 3 31 2) State.reset (fun _ => True) := by
  have h := ob.1 State.reset 3
  repeat specialize h (by first | decide +kernel | exact calm_by (by decide +kernel) | with_reducible rfl | exact fun hh => absurd hh (by decide +kernel))
  have h := h.2.2.2.1 31 2
  repeat specialize h (by first | decide +kernel | exact calm_by (by decide +kernel) | with_reducible rfl | exact fun hh => absurd hh (by decide +kernel))
  exact comes h

theorem wit_HbmUpkeep_6 (ob : Obligations.HbmUpkeep) : Completes (.hbmFence 3 5 1) sHbmUpkeep6 (fun _ => True) := by
  have h := ob.1 sHbmUpkeep6 3
  repeat specialize h (by first | decide +kernel | exact calm_by (by decide +kernel) | with_reducible rfl | exact fun hh => absurd hh (by decide +kernel))
  have h := h.2.2.2.2.1 5
  repeat specialize h (by first | decide +kernel | exact calm_by (by decide +kernel) | with_reducible rfl | exact fun hh => absurd hh (by decide +kernel))
  exact comes h

theorem wit_HbmUpkeep_7 (ob : Obligations.HbmUpkeep) : Completes .hbmInitFillDone sHbmUpkeep7 (fun _ => True) := by
  have h := ob.1 sHbmUpkeep7 3
  repeat specialize h (by first | decide +kernel | exact calm_by (by decide +kernel) | with_reducible rfl | exact fun hh => absurd hh (by decide +kernel))
  have h := h.2.2.2.2.2
  exact comes h

theorem wit_HbmUpkeep_8 (ob : Obligations.HbmUpkeep) : Completes (.hbmRetrain 3) State.reset (fun _ => True) := by
  have h := ob.2 State.reset 3
  repeat specialize h (by first | decide +kernel | exact calm_by (by decide +kernel) | with_reducible rfl | exact fun hh => absurd hh (by decide +kernel))
  have h := h.1
  repeat specialize h (by first | decide +kernel | exact calm_by (by decide +kernel) | with_reducible rfl | exact fun hh => absurd hh (by decide +kernel))
  exact comes h

theorem wit_HbmUpkeep_9 (ob : Obligations.HbmUpkeep) : Completes (.hbmRetrainSelfRefresh 3) sHbmUpkeep9 (fun _ => True) := by
  have h := ob.2 sHbmUpkeep9 3
  repeat specialize h (by first | decide +kernel | exact calm_by (by decide +kernel) | with_reducible rfl | exact fun hh => absurd hh (by decide +kernel))
  have h := h.2.1
  repeat specialize h (by first | decide +kernel | exact calm_by (by decide +kernel) | with_reducible rfl | exact fun hh => absurd hh (by decide +kernel))
  exact comes h

theorem wit_HbmUpkeep_10 (ob : Obligations.HbmUpkeep) : Completes (.hbmRetrainDone 3 1) sHbmUpkeep10 (fun _ => True) := by
  have h := ob.2 sHbmUpkeep10 3
  repeat specialize h (by first | decide +kernel | exact calm_by (by decide +kernel) | with_reducible rfl | exact fun hh => absurd hh (by decide +kernel))
  have h := h.2.2 (1)
  repeat specialize h (by first | decide +kernel | exact calm_by (by decide +kernel) | with_reducible rfl | exact fun hh => absurd hh (by decide +kernel))
  exact comes h

/-- Partition 2 with its translation unit and some of its registers as given. -/
def wX (x : Xlt) (d : List (Nat × List Byte)) (r : List (Reg × Nat)) : State :=
  r.foldl (fun s e => wr s e.1 e.2) { wF Hearth.fresh d with xlts := [(2, x)] }
/-- A record of opcode `op` and flags `fl` for `n` pages from page `v` (R263). -/
def wRc (op fl n v : Nat) : Nat := op + fl + 2 ^ 32 * n + 2 ^ 64 * (65536 * v)
/-- Ring 0 within the operation of a record, at page 0. -/
def wRing (rc : Nat) : State := wX { Xlt.idle with r0 := { RingRun.idle with page := some 0, cmd := rc } } [] [(R.xltOpqTailG 2 0, 1)]
/-- What page 0 of a record comes to. -/
def wPage (s : State) (rc : Nat) : PageRes := opPage (quiet s) 2 0 rc 0
def PageRes.st : PageRes → State
  | .ok s _ _ => s
  | .fail s _ => s
  | .wait s => s
def PageRes.tag : PageRes → Option (List Nat × List Nat) × Nat
  | .ok _ a b => (some (a, b), 0)
  | .fail _ n => (none, n)
  | .wait _ => (some ([], []), 1)
theorem PageRes.ok_of {r : PageRes} {a b : List Nat} (h : PageRes.tag r = (some (a, b), 0)) : r = .ok (PageRes.st r) a b := by
  cases r <;> simp_all [PageRes.tag, PageRes.st]
theorem PageRes.fail_of {r : PageRes} {n : Nat} (h : PageRes.tag r = (none, n)) : r = .fail (PageRes.st r) n := by
  cases r <;> simp_all [PageRes.tag, PageRes.st]
def wLeaf (w : WalkRes) : Nat := match w with | .leaf e _ _ => e | _ => 0
def wLeafPa (w : WalkRes) : Nat := match w with | .leaf _ a _ => a | _ => 0

theorem wRingHead (s : State) (rc : Nat) (h1 : prtFormed s 2 = true) (h2 : opqReady s 2 0 = true) (h3 : unitBusy (xlGet s 2) 0 = false)
    (h4 : (ringGet (xlGet s 2) 0).page = some 0) (h5 : rc = (ringGet (xlGet s 2) 0).cmd) :
    RingHead s 2 0 rc 0 (quiet s) := ⟨by decide, by decide, h1, h2, h3, .inl ⟨h4, h5, rfl⟩⟩

def sRingOperations1 : State :=
  wRing (wRc 2 0 2 2)

def sRingOperations2 : State :=
  wRing (wRc 4 512 1 2)

def sRingOperations3 : State :=
  wRing (wRc 2 0 1 99)

def sRingOperations6 : State :=
  wX { Xlt.idle with r0 := { RingRun.idle with halt := 1 } } [] []

def sRingOperations7 : State :=
  wX { Xlt.idle with r0 := { RingRun.idle with halt := 2 } } [] []

def sRingOperations8 : State :=
  wX { Xlt.idle with r0 := { RingRun.idle with halt := 3 } } [] []

theorem wit_RingOperations_1 (ob : Obligations.RingOperations) : Completes (.unmap 2 0) sRingOperations1 (fun _ => True) := by
  have h := ob.1.1 sRingOperations1 (quiet sRingOperations1) (PageRes.st (wPage sRingOperations1 (wRc 2 0 2 2))) 2 0 (wRc 2 0 2 2) 0 2 [2] [34, 17, 16] (.unmap 2 0)
  repeat specialize h (by first | decide +kernel | exact calm_by (by decide +kernel) | with_reducible rfl | exact fun hh => absurd hh (by decide +kernel))
  have h := h (wRingHead sRingOperations1 (wRc 2 0 2 2) (by decide +kernel) (by decide +kernel) (by decide +kernel) (by decide +kernel) (by decide +kernel))
  repeat specialize h (by first | exact PageRes.ok_of (by decide +kernel) | decide +kernel | exact calm_by (by decide +kernel) | with_reducible rfl | exact fun hh => absurd hh (by decide +kernel))
  exact comes h

theorem wit_RingOperations_2 (ob : Obligations.RingOperations) : Completes (.protect 2 0) sRingOperations2 (fun _ => True) := by
  have h := ob.1.2 sRingOperations2 (quiet sRingOperations2) (PageRes.st (wPage sRingOperations2 (wRc 4 512 1 2))) 2 0 (wRc 4 512 1 2) 0 4 (.protect 2 0)
  repeat specialize h (by first | decide +kernel | exact calm_by (by decide +kernel) | with_reducible rfl | exact fun hh => absurd hh (by decide +kernel))
  have h := h (wRingHead sRingOperations2 (wRc 4 512 1 2) (by decide +kernel) (by decide +kernel) (by decide +kernel) (by decide +kernel) (by decide +kernel))
  repeat specialize h (by first | decide +kernel | exact calm_by (by decide +kernel) | with_reducible rfl | exact fun hh => absurd hh (by decide +kernel))
  have h := h.1
  repeat specialize h (by first | exact PageRes.ok_of (by decide +kernel) | decide +kernel | exact calm_by (by decide +kernel) | with_reducible rfl | exact fun hh => absurd hh (by decide +kernel))
  exact comes h

theorem wit_RingOperations_3 (ob : Obligations.RingOperations) : Completes (.unmap 2 0) sRingOperations3 (fun _ => True) := by
  have h := ob.1.2 sRingOperations3 (quiet sRingOperations3) (PageRes.st (wPage sRingOperations3 (wRc 2 0 1 99))) 2 0 (wRc 2 0 1 99) 0 2 (.unmap 2 0)
  repeat specialize h (by first | decide +kernel | exact calm_by (by decide +kernel) | with_reducible rfl | exact fun hh => absurd hh (by decide +kernel))
  have h := h (wRingHead sRingOperations3 (wRc 2 0 1 99) (by decide +kernel) (by decide +kernel) (by decide +kernel) (by decide +kernel) (by decide +kernel))
  repeat specialize h (by first | decide +kernel | exact calm_by (by decide +kernel) | with_reducible rfl | exact fun hh => absurd hh (by decide +kernel))
  have h := h.2 (5) (PageRes.fail_of (by decide +kernel))
  repeat specialize h (by first | decide +kernel | exact calm_by (by decide +kernel) | with_reducible rfl | exact fun hh => absurd hh (by decide +kernel))
  exact comes h

theorem wit_RingOperations_4 (ob : Obligations.RingOperations) : Completes (.xltOpqTailWrite 2 0 1) State.reset (fun _ => True) := by
  have h := ob.2 State.reset 2 0
  repeat specialize h (by first | decide +kernel | exact calm_by (by decide +kernel) | with_reducible rfl | exact fun hh => absurd hh (by decide +kernel))
  have h := h.1 (1)
  repeat specialize h (by first | decide +kernel | exact calm_by (by decide +kernel) | with_reducible rfl | exact fun hh => absurd hh (by decide +kernel))
  exact comes h

theorem wit_RingOperations_5 (ob : Obligations.RingOperations) : Completes (.xltOpqTailWrite 2 0 4294967295) State.reset (fun _ => True) := by
  have h := ob.2 State.reset 2 0
  repeat specialize h (by first | decide +kernel | exact calm_by (by decide +kernel) | with_reducible rfl | exact fun hh => absurd hh (by decide +kernel))
  have h := h.2.1 (4294967295)
  repeat specialize h (by first | decide +kernel | exact calm_by (by decide +kernel) | with_reducible rfl | exact fun hh => absurd hh (by decide +kernel))
  exact comes h

theorem wit_RingOperations_6 (ob : Obligations.RingOperations) : Completes (.xltResume 2 0) sRingOperations6 (fun _ => True) := by
  have h := ob.2 sRingOperations6 2 0
  repeat specialize h (by first | decide +kernel | exact calm_by (by decide +kernel) | with_reducible rfl | exact fun hh => absurd hh (by decide +kernel))
  have h := h.2.2.1
  repeat specialize h (by first | decide +kernel | exact calm_by (by decide +kernel) | with_reducible rfl | exact fun hh => absurd hh (by decide +kernel))
  exact comes h

theorem wit_RingOperations_7 (ob : Obligations.RingOperations) : Completes (.xltResume 2 0) sRingOperations7 (fun _ => True) := by
  have h := ob.2 sRingOperations7 2 0
  repeat specialize h (by first | decide +kernel | exact calm_by (by decide +kernel) | with_reducible rfl | exact fun hh => absurd hh (by decide +kernel))
  have h := h.2.2.2.1
  repeat specialize h (by first | decide +kernel | exact calm_by (by decide +kernel) | with_reducible rfl | exact fun hh => absurd hh (by decide +kernel))
  exact comes h

theorem wit_RingOperations_8 (ob : Obligations.RingOperations) : Completes (.xltResume 2 0) sRingOperations8 (fun _ => True) := by
  have h := ob.2 sRingOperations8 2 0
  repeat specialize h (by first | decide +kernel | exact calm_by (by decide +kernel) | with_reducible rfl | exact fun hh => absurd hh (by decide +kernel))
  have h := h.2.2.2.2.1
  repeat specialize h (by first | decide +kernel | exact calm_by (by decide +kernel) | with_reducible rfl | exact fun hh => absurd hh (by decide +kernel))
  exact comes h

theorem wit_RingOperations_9 (ob : Obligations.RingOperations) : Completes (.releaseRingHeadWrite 2 5) State.reset (fun _ => True) := by
  have h := ob.2 State.reset 2 0
  repeat specialize h (by first | decide +kernel | exact calm_by (by decide +kernel) | with_reducible rfl | exact fun hh => absurd hh (by decide +kernel))
  have h := h.2.2.2.2.2 (5)
  repeat specialize h (by first | decide +kernel | exact calm_by (by decide +kernel) | with_reducible rfl | exact fun hh => absurd hh (by decide +kernel))
  exact comes h

def sWalksAndShootdowns1 : State :=
  { wF { Hearth.fresh with walks := [⟨2, 5, 0, 0, true, false⟩] } [] with walks := [(0, [⟨0, 2, ⟨2, 5, 0, 0, true, false⟩⟩])] }

def sWalksAndShootdowns2 : State :=
  wX { Xlt.idle with sds := [⟨.batch, [2], [], [0], []⟩] } [] []

def sWalksAndShootdowns3 : State :=
  wX { Xlt.idle with sds := [⟨.batch, [2], [], [], []⟩] } [] []

def sWalksAndShootdowns4 : State :=
  wX { Xlt.idle with sds := [⟨.cow, [2], [], [], []⟩] } [] []

def sWalksAndShootdowns5 : State :=
  wX ({ Xlt.idle with cow := [⟨0, 0, 5, 3, 0⟩] }) [(8 * 35, leBytes 8 (frameMake 0 2 1 0)), (8 * 40, leBytes 8 (frameMake 0 0 0 0)), (65536 * 17 + 48, leBytes 16 (leafMake false true 0 0 35 3)), (65536 * 34, leBytes 4 40)] [(R.xltRsvBase 2, 131072), (R.xltRsvTail 2, 1), (R.xltFrames 2, 100 * 2 ^ 32)]

def sWalksAndShootdowns6 : State :=
  wX ({ Xlt.idle with cow := [⟨0, 0, 5, 3, 0⟩] }) [(8 * 35, leBytes 8 (frameMake 0 1 1 0)), (8 * 40, leBytes 8 (frameMake 0 0 0 0)), (65536 * 17 + 48, leBytes 16 (leafMake false true 0 0 35 3)), (65536 * 34, leBytes 4 40)] [(R.xltRsvBase 2, 131072), (R.xltRsvTail 2, 1), (R.xltFrames 2, 100 * 2 ^ 32)]

theorem wit_WalksAndShootdowns_1 (ob : Obligations.WalksAndShootdowns) : Completes (.walkComplete 0 0) sWalksAndShootdowns1 (fun _ => True) := by
  have h := ob.1 sWalksAndShootdowns1 (walk (quiet sWalksAndShootdowns1) 0 2 2 true).2 0 0 (wLeaf (walk (quiet sWalksAndShootdowns1) 0 2 2 true).1) (wLeafPa (walk (quiet sWalksAndShootdowns1) 0 2 2 true).1) 0 ⟨0, 2, ⟨2, 5, 0, 0, true, false⟩⟩
  repeat specialize h (by first | decide +kernel | exact calm_by (by decide +kernel) | with_reducible rfl | exact fun hh => absurd hh (by decide +kernel))
  exact comes h

theorem wit_WalksAndShootdowns_2 (ob : Obligations.WalksAndShootdowns) : Completes (.shootdownAck 2 0) sWalksAndShootdowns2 (fun _ => True) := by
  have h := ob.2.1 sWalksAndShootdowns2 2 0 0 ⟨.batch, [2], [], [0], []⟩
  repeat specialize h (by first | decide +kernel | exact calm_by (by decide +kernel) | with_reducible rfl | exact fun hh => absurd hh (by decide +kernel))
  exact comes h

theorem wit_WalksAndShootdowns_3 (ob : Obligations.WalksAndShootdowns) : Completes (.shootdownComplete 2) sWalksAndShootdowns3 (fun _ => True) := by
  have h := ob.2.2.1 sWalksAndShootdowns3 (relTake (quiet sWalksAndShootdowns3) 2 []).2 2 0 ⟨.batch, [2], [], [], []⟩
  repeat specialize h (by first | decide +kernel | exact calm_by (by decide +kernel) | with_reducible rfl | exact fun hh => absurd hh (by decide +kernel))
  have h := h.1
  repeat specialize h (by first | decide +kernel | exact calm_by (by decide +kernel) | with_reducible rfl | exact fun hh => absurd hh (by decide +kernel))
  exact comes h

theorem wit_WalksAndShootdowns_4 (ob : Obligations.WalksAndShootdowns) : Completes (.shootdownComplete 2) sWalksAndShootdowns4 (fun _ => True) := by
  have h := ob.2.2.1 sWalksAndShootdowns4 (relTake (quiet sWalksAndShootdowns4) 2 []).2 2 0 ⟨.cow, [2], [], [], []⟩
  repeat specialize h (by first | decide +kernel | exact calm_by (by decide +kernel) | with_reducible rfl | exact fun hh => absurd hh (by decide +kernel))
  have h := h.1
  repeat specialize h (by first | decide +kernel | exact calm_by (by decide +kernel) | with_reducible rfl | exact fun hh => absurd hh (by decide +kernel))
  exact comes h

theorem wit_WalksAndShootdowns_5 (ob : Obligations.WalksAndShootdowns) : Completes (.copyOnWrite 2) sWalksAndShootdowns5 (fun _ => True) := by
  have h := ob.2.2.2.1 sWalksAndShootdowns5 (cowFind (xlPut (quiet sWalksAndShootdowns5) 2 { xlGet sWalksAndShootdowns5 2 with cow := [] }) 2 3).2 2 ⟨0, 0, 5, 3, 0⟩ []
  repeat specialize h (by first | decide +kernel | exact calm_by (by decide +kernel) | with_reducible rfl | exact fun hh => absurd hh (by decide +kernel))
  have h := h.1 35 0 40 0 1
  repeat specialize h (by first | decide +kernel | exact calm_by (by decide +kernel) | with_reducible rfl | exact fun hh => absurd hh (by decide +kernel))
  exact comes h

theorem wit_WalksAndShootdowns_6 (ob : Obligations.WalksAndShootdowns) : Completes (.copyOnWrite 2) sWalksAndShootdowns6 (fun _ => True) := by
  have h := ob.2.2.2.1 sWalksAndShootdowns6 (cowFind (xlPut (quiet sWalksAndShootdowns6) 2 { xlGet sWalksAndShootdowns6 2 with cow := [] }) 2 3).2 2 ⟨0, 0, 5, 3, 0⟩ []
  repeat specialize h (by first | decide +kernel | exact calm_by (by decide +kernel) | with_reducible rfl | exact fun hh => absurd hh (by decide +kernel))
  have h := h.2
  repeat specialize h (by first | decide +kernel | exact calm_by (by decide +kernel) | with_reducible rfl | exact fun hh => absurd hh (by decide +kernel))
  exact comes h

def sWalksAndShootdowns7 : State :=
  wX { Xlt.idle with sds := [⟨.rekey, [2], [], [], []⟩], rk := some ⟨0, 34, false⟩ } [] []

def sWalksAndShootdowns8 : State :=
  wX { Xlt.idle with r0 := { Xlt.idle.r0 with page := some 2 }, sds := [⟨.op 0 0, [2], [], [], []⟩] } [] []

theorem wit_WalksAndShootdowns_7 (ob : Obligations.WalksAndShootdowns) : Completes (.shootdownComplete 2) sWalksAndShootdowns7 (fun _ => True) := by
  have h := ob.2.2.1 sWalksAndShootdowns7 (relTake (quiet sWalksAndShootdowns7) 2 []).2 2 0 ⟨.rekey, [2], [], [], []⟩
  repeat specialize h (by first | decide +kernel | exact calm_by (by decide +kernel) | with_reducible rfl | exact fun hh => absurd hh (by decide +kernel))
  have h := h.2.1
  repeat specialize h (by first | decide +kernel | exact calm_by (by decide +kernel) | with_reducible rfl | exact fun hh => absurd hh (by decide +kernel))
  exact comes h

theorem wit_WalksAndShootdowns_8 (ob : Obligations.WalksAndShootdowns) : Completes (.shootdownComplete 2) sWalksAndShootdowns8 (fun _ => True) := by
  have h := ob.2.2.1 sWalksAndShootdowns8 (relTake (quiet sWalksAndShootdowns8) 2 []).2 2 0 ⟨.op 0 0, [2], [], [], []⟩
  repeat specialize h (by first | decide +kernel | exact calm_by (by decide +kernel) | with_reducible rfl | exact fun hh => absurd hh (by decide +kernel))
  have h := h.2.2 0 0
  repeat specialize h (by first | decide +kernel | exact calm_by (by decide +kernel) | with_reducible rfl | exact fun hh => absurd hh (by decide +kernel))
  exact comes h

def sWalksAndShootdowns9 : State :=
  wX { Xlt.idle with cowRun := some ⟨⟨0, 0, 5, 3, 0⟩, 35, 40, 0⟩ } [(8 * 35, leBytes 8 (frameMake 0 2 1 0)), (8 * 40, leBytes 8 (frameMake 0 1 1 0)),
    (65536 * 17 + 48, leBytes 16 (leafMake false true 0 0 35 3)), (65536 * 34, leBytes 4 40)] [(R.xltRsvBase 2, 131072), (R.xltRsvTail 2, 1),
    (R.xltFrames 2, 100 * 2 ^ 32)]
/-- The leaf of the page to copy, the copy, and the state after it. -/
def wCowLeaf : WalkRes × State := walk (xlPut (quiet sWalksAndShootdowns9) 2 { xlGet sWalksAndShootdowns9 2 with
  cowRun := none, cow := (xlGet sWalksAndShootdowns9 2).cow.filter (fun d => d ≠ ⟨0, 0, 5, 3, 0⟩) }) 0 2 3 false
def wLeafOf (w : WalkRes) : Nat × Nat × Nat := match w with | .leaf e a b => (e, a, b) | _ => (0, 0, 0)
def wCowCopy : Bool × State := frameCopy wCowLeaf.2 2 35 (leK (wLeafOf wCowLeaf.1).1) 40 0 256
def wCowEnd : State := sdStart (cowRemap wCowCopy.2 2 3 40 0) 2 .cow [3] []

theorem wPair {α β : Type} {x : α × β} {a : α} (h : x.1 = a) : x = (a, x.2) := Prod.ext h rfl

set_option maxRecDepth 100000 in
/-- The two premises are closed Booleans that evaluate to true; the kernel would take minutes over the 256 lines of the copy. -/
theorem wit_WalksAndShootdowns_9 (ob : Obligations.WalksAndShootdowns) (g : wCowCopy.1 = true) (g2 : calmB wCowEnd = true) :
    Completes (.cowCopyDone 2) sWalksAndShootdowns9 (fun _ => True) := by
  have l : wCowLeaf.1 = .leaf (wLeafOf wCowLeaf.1).1 (wLeafOf wCowLeaf.1).2.1 (wLeafOf wCowLeaf.1).2.2 := by decide +kernel
  have e : wCowLeaf = (.leaf (wLeafOf wCowLeaf.1).1 (wLeafOf wCowLeaf.1).2.1 (wLeafOf wCowLeaf.1).2.2, wCowLeaf.2) := wPair l
  unfold wCowLeaf at e
  have h := ob.2.2.2.2 sWalksAndShootdowns9 wCowLeaf.2 wCowCopy.2 2 (wLeafOf wCowLeaf.1).1 (wLeafOf wCowLeaf.1).2.1 (wLeafOf wCowLeaf.1).2.2
    ⟨⟨0, 0, 5, 3, 0⟩, 35, 40, 0⟩ (by decide +kernel) (calm_by (by decide +kernel)) (by decide +kernel) e (wPair g)
  exact comes (h (calm_by g2))

/-- Partition 2 with its hearth, its graph engine, bytes of its memory and some of its registers as given. -/
def wG (x : Hearth) (g : GraphEng) (d : List (Nat × List Byte)) (r : List (Reg × Nat)) : State :=
  r.foldl (fun s e => wr s e.1 e.2) { wF x d with graphs := [(2, g)] }
def wTask (d : Nat) (pl : TaskPlace) : Task := ⟨5, 7, 0, d, [], 0, pl, 0, false, 0, 0, 0, 0, 0, [], none, 0⟩
def wGr : Graph := ⟨7, 128, 0, false, none, 0, 0, 0, 0, [], [], [], none, none⟩
/-- A graph engine with graph 7 and its task 5 in flight. -/
def wEg (t : Task) : GraphEng := { GraphEng.empty with graphs := [wGr], tasks := [t] }
/-- Queue pair 128 of partition 2, ready to send. -/
def wQ : List (Reg × Nat) := [(R.hstQpCtrlQ 128, 1)]

theorem wListensQ (s : State) (h1 : (qpGet s 128).pace = []) (h2 : (qpGet s 128).rnrWait = false) (h3 : (qpGet s 128).limit = 0)
    (h4 : bit s.hport.paused (qpPrio s 128) = false) (h5 : qpState s 128 = 1) (h6 : prtFormed s 2 = true) (h7 : (qpGet s 128).cmds = []) : Listens s 128 :=
  { pace := h1, rnr := h2, rate := .inl h3, prio := h4, qp := by decide, rts := h5, formed := fun _ => h6, cmds := h7 }

theorem opt2w {α : Type} {x : Option α × State} {a : α} (h : x.1 = some a) : x = (some a, x.2) := by
  obtain ⟨b, c⟩ := x; simp_all
theorem opt3w {α β : Type} {x : Option α × β × State} {a : α} (h : x.1 = some a) : x = (some a, x.2.1, x.2.2) := by
  obtain ⟨b, c⟩ := x; simp_all
theorem exOk {ε α : Type} {x : Except ε α} {d : α} (h : x.toOption.isSome = true) : x = .ok (x.toOption.getD d) := by
  cases x <;> simp_all [Except.toOption]
theorem ex2w {α : Type} {x : Except Nat α × State} {a : α} (h : x.1.toOption = some a) : x = (.ok a, x.2) := by
  obtain ⟨b, c⟩ := x; cases b <;> simp_all [Except.toOption]
theorem opt2g {α : Type} {x : Option α × State} {d : α} (h : x.1.isSome = true) : x = (some (x.1.getD d), x.2) := by
  obtain ⟨b, c⟩ := x; cases b <;> simp_all

/-- A header of graph 3 with one task, its descriptor and its schedule: an SPEMPTY of handle 2 (R283–R290). -/
def wHead : Nat := 3 + 2 ^ 64 * 1 + 2 ^ 128 * (65536 + 128)
def wTd : Nat := 5 + 2 ^ 224 * 100 + 2 ^ 256 * (65536 + 256) + 2 ^ 304 * 1 + 2 ^ 320 * 131072 + 2 ^ 368 * 1
def wSched : List Byte := leBytes 8 (2 ^ 32 + 2 ^ 34) ++ leBytes 32 (5 + 2 ^ 8 * 2 + 2 ^ 32 * 16)
def wImg : List (Nat × List Byte) :=
  [(65536 * 33, leBytes 64 wHead), (65536 * 33 + 128, leBytes 128 wTd), (65536 * 33 + 256, wSched)]
def wMix : Nat := 0 + 2 ^ 16 * 1 + 2 ^ 96 * 131072

def sGraphCommands1 : State :=
  wG Hearth.fresh GraphEng.empty [] wQ

def sGraphCommands2 : State :=
  wG Hearth.fresh { GraphEng.empty with loadq := List.replicate 64 ⟨128, 0, [], none, none, none⟩ } [] wQ

def sGraphCommands5 : State :=
  wG Hearth.fresh { GraphEng.empty with loaded := some wGr } [] wQ

theorem wit_GraphCommands_1 (ob : Obligations.GraphCommands) : Completes (.graphSubmit 128 65536 9 []) sGraphCommands1 (fun _ => True) := by
  have h := ob sGraphCommands1 128
  repeat specialize h (by first | decide +kernel | exact calm_by (by decide +kernel) | with_reducible rfl | exact fun hh => absurd hh (by decide +kernel))
  have h := h (wListensQ sGraphCommands1 (by decide +kernel) (by decide +kernel) (by decide +kernel) (by decide +kernel) (by decide +kernel) (by decide +kernel) (by decide +kernel))
  repeat specialize h (by first | decide +kernel | exact calm_by (by decide +kernel) | with_reducible rfl | exact fun hh => absurd hh (by decide +kernel))
  have h := h.1 65536 9 []
  repeat specialize h (by first | decide +kernel | exact calm_by (by decide +kernel) | with_reducible rfl | exact fun hh => absurd hh (by decide +kernel))
  exact comes h

theorem wit_GraphCommands_2 (ob : Obligations.GraphCommands) : Completes (.graphSubmit 128 65536 9 []) sGraphCommands2 (fun _ => True) := by
  have h := ob sGraphCommands2 128
  repeat specialize h (by first | decide +kernel | exact calm_by (by decide +kernel) | with_reducible rfl | exact fun hh => absurd hh (by decide +kernel))
  have h := h (wListensQ sGraphCommands2 (by decide +kernel) (by decide +kernel) (by decide +kernel) (by decide +kernel) (by decide +kernel) (by decide +kernel) (by decide +kernel))
  repeat specialize h (by first | decide +kernel | exact calm_by (by decide +kernel) | with_reducible rfl | exact fun hh => absurd hh (by decide +kernel))
  have h := h.2.1 65536 9 []
  repeat specialize h (by first | decide +kernel | exact calm_by (by decide +kernel) | with_reducible rfl | exact fun hh => absurd hh (by decide +kernel))
  exact comes h

theorem wit_GraphCommands_3 (ob : Obligations.GraphCommands) : Completes (.mixPost 128 65537) sGraphCommands1 (fun _ => True) := by
  have h := ob sGraphCommands1 128
  repeat specialize h (by first | decide +kernel | exact calm_by (by decide +kernel) | with_reducible rfl | exact fun hh => absurd hh (by decide +kernel))
  have h := h (wListensQ sGraphCommands1 (by decide +kernel) (by decide +kernel) (by decide +kernel) (by decide +kernel) (by decide +kernel) (by decide +kernel) (by decide +kernel))
  repeat specialize h (by first | decide +kernel | exact calm_by (by decide +kernel) | with_reducible rfl | exact fun hh => absurd hh (by decide +kernel))
  have h := h.2.2.1 65537
  repeat specialize h (by first | decide +kernel | exact calm_by (by decide +kernel) | with_reducible rfl | exact fun hh => absurd hh (by decide +kernel))
  exact comes h

theorem wit_GraphCommands_4 (ob : Obligations.GraphCommands) : Completes (.mixPost 128 3) sGraphCommands1 (fun _ => True) := by
  have h := ob sGraphCommands1 128
  repeat specialize h (by first | decide +kernel | exact calm_by (by decide +kernel) | with_reducible rfl | exact fun hh => absurd hh (by decide +kernel))
  have h := h (wListensQ sGraphCommands1 (by decide +kernel) (by decide +kernel) (by decide +kernel) (by decide +kernel) (by decide +kernel) (by decide +kernel) (by decide +kernel))
  repeat specialize h (by first | decide +kernel | exact calm_by (by decide +kernel) | with_reducible rfl | exact fun hh => absurd hh (by decide +kernel))
  have h := h.2.2.2.2.1 3
  repeat specialize h (by first | decide +kernel | exact calm_by (by decide +kernel) | with_reducible rfl | exact fun hh => absurd hh (by decide +kernel))
  exact comes h

theorem wit_GraphCommands_7 (ob : Obligations.GraphCommands) : Completes (.mixPost 128 (65537 + 2 ^ 255)) sGraphCommands1 (fun _ => True) := by
  have h := ob sGraphCommands1 128
  repeat specialize h (by first | decide +kernel | exact calm_by (by decide +kernel) | with_reducible rfl | exact fun hh => absurd hh (by decide +kernel))
  have h := h (wListensQ sGraphCommands1 (by decide +kernel) (by decide +kernel) (by decide +kernel) (by decide +kernel) (by decide +kernel) (by decide +kernel) (by decide +kernel))
  repeat specialize h (by first | decide +kernel | exact calm_by (by decide +kernel) | with_reducible rfl | exact fun hh => absurd hh (by decide +kernel))
  have h := h.2.2.2.2.1 (65537 + 2 ^ 255)
  repeat specialize h (by first | decide +kernel | exact calm_by (by decide +kernel) | with_reducible rfl | exact fun hh => absurd hh (by decide +kernel))
  exact comes h

theorem wit_GraphCommands_5 (ob : Obligations.GraphCommands) : Completes (.graphCancel 128 7) sGraphCommands5 (fun _ => True) := by
  have h := ob sGraphCommands5 128
  repeat specialize h (by first | decide +kernel | exact calm_by (by decide +kernel) | with_reducible rfl | exact fun hh => absurd hh (by decide +kernel))
  have h := h (wListensQ sGraphCommands5 (by decide +kernel) (by decide +kernel) (by decide +kernel) (by decide +kernel) (by decide +kernel) (by decide +kernel) (by decide +kernel))
  repeat specialize h (by first | decide +kernel | exact calm_by (by decide +kernel) | with_reducible rfl | exact fun hh => absurd hh (by decide +kernel))
  have h := h.2.2.2.2.2 7 wGr
  repeat specialize h (by first | decide +kernel | exact calm_by (by decide +kernel) | with_reducible rfl | exact fun hh => absurd hh (by decide +kernel))
  exact comes h

def sGraphCommands6 : State :=
  wG Hearth.fresh { GraphEng.empty with mixq := List.replicate 1024 ⟨128, 65537⟩ } [] wQ

theorem wit_GraphCommands_6 (ob : Obligations.GraphCommands) : Completes (.mixPost 128 65537) sGraphCommands6 (fun _ => True) := by
  have h := ob sGraphCommands6 128
  repeat specialize h (by first | decide +kernel | exact calm_by (by decide +kernel) | with_reducible rfl | exact fun hh => absurd hh (by decide +kernel))
  have h := h (wListensQ sGraphCommands6 (by decide +kernel) (by decide +kernel) (by decide +kernel) (by decide +kernel) (by decide +kernel) (by decide +kernel) (by decide +kernel))
  repeat specialize h (by first | decide +kernel | exact calm_by (by decide +kernel) | with_reducible rfl | exact fun hh => absurd hh (by decide +kernel))
  have h := h.2.2.2.1 65537
  repeat specialize h (by first | decide +kernel | exact calm_by (by decide +kernel) | with_reducible rfl | exact fun hh => absurd hh (by decide +kernel))
  exact comes h

def sGraphsLoad1 : State :=
  wG Hearth.fresh { GraphEng.empty with loadq := [⟨128, 65536, [], none, none, some 0⟩] } wImg wQ

def sGraphsLoad2 : State :=
  wG Hearth.fresh { GraphEng.empty with loaded := some { wGr with tasks := [(wTd, [])] } } [] wQ

theorem wit_GraphsLoad_1 (ob : Obligations.GraphsLoad) : Completes (.graphLoad 2) sGraphsLoad1 (fun _ => True) := by
  have h := ob.1 sGraphsLoad1 (vaGet (gput (quiet sGraphsLoad1) 2 { gget sGraphsLoad1 2 with loadq := [] }) 2 65536 64 false).2.2 (loadDescs (vaGet (gput (quiet sGraphsLoad1) 2 { gget sGraphsLoad1 2 with loadq := [] }) 2 65536 64 false).2.2 2 65664 1).2 (loadMcg (loadDescs (vaGet (gput (quiet sGraphsLoad1) 2 { gget sGraphsLoad1 2 with loadq := [] }) 2 65536 64 false).2.2 2 65664 1).2 2 0 0).2 2 ⟨128, 65536, [], none, none, some 0⟩ [] (leBytes 64 wHead) (vaGet (gput (quiet sGraphsLoad1) 2 { gget sGraphsLoad1 2 with loadq := [] }) 2 65536 64 false).2.1 [(wTd, [])] []
  repeat specialize h (by first | decide +kernel | exact calm_by (by decide +kernel) | with_reducible rfl | exact fun hh => absurd hh (by decide +kernel))
  exact comes h

theorem wit_GraphsLoad_2 (ob : Obligations.GraphsLoad) : Completes (.graphActivate 2) sGraphsLoad2 (fun _ => True) := by
  have h := ob.2 sGraphsLoad2 2 { wGr with tasks := [(wTd, [])] }
  repeat specialize h (by first | decide +kernel | exact calm_by (by decide +kernel) | with_reducible rfl | exact fun hh => absurd hh (by decide +kernel))
  exact comes h

def sTasksPlaced : State :=
  wG Hearth.fresh (wEg (wTask wTd .ready)) wImg []

theorem wit_TasksPlaced (ob : Obligations.TasksPlaced) : Completes (.taskPlace 2) sTasksPlaced (fun _ => True) := by
  have h := ob sTasksPlaced (vaGet (gmod (quiet sTasksPlaced) 2 waitPrune) 2 0 0 false).2.2 (schedRead (vaGet (gmod (quiet sTasksPlaced) 2 waitPrune) 2 0 0 false).2.2 2 wTd).2 (progsRead (schedRead (vaGet (gmod (quiet sTasksPlaced) 2 waitPrune) 2 0 0 false).2.2 2 wTd).2 2 wTd).2 2 (wTask wTd .ready) [] [] (vaGet (gmod (quiet sTasksPlaced) 2 waitPrune) 2 0 0 false).2.1 ⟨0, 0, true⟩ [⟨0, 5 + 2 ^ 8 * 2 + 2 ^ 32 * 16, 1⟩] (List.replicate 32 0)
  repeat specialize h (by first | decide +kernel | exact calm_by (by decide +kernel) | with_reducible rfl | exact fun hh => absurd hh (by decide +kernel))
  exact comes h

def sTasksRun1 : State :=
  wG { Hearth.fresh with next := some (wRun []) } (wEg (wTask 0 (.bound 0))) [] []

def sTasksRun2 : State :=
  wG { Hearth.fresh with cur := some { wRun [⟨0, 6, 1⟩] with sems := [0] } } (wEg (wTask 0 (.running 0))) [] []

theorem wit_TasksRun_1 (ob : Obligations.TasksRun) : Completes (.taskStart 0) sTasksRun1 (fun _ => True) := by
  have h := ob.1 sTasksRun1 0 (wRun [])
  repeat specialize h (by first | decide +kernel | exact calm_by (by decide +kernel) | with_reducible rfl | exact fun hh => absurd hh (by decide +kernel))
  exact comes h

theorem wit_TasksRun_2 (ob : Obligations.TasksRun) : Completes (.semrel 0) sTasksRun2 (fun _ => True) := by
  have h := ob.2 sTasksRun2 0 { wRun [⟨0, 6, 1⟩] with sems := [0] } ⟨0, 6, 1⟩ []
  repeat specialize h (by first | decide +kernel | exact calm_by (by decide +kernel) | with_reducible rfl | exact fun hh => absurd hh (by decide +kernel))
  exact comes h

def sTasksComplete : State :=
  wG { Hearth.fresh with cur := some (wRun []) } { GraphEng.empty with graphs := [wGr], tasks := [wTask 0 (.running 0), { wTask 0 .waiting with id := 6 }] } [] []

theorem wit_TasksComplete (ob : Obligations.TasksComplete) : Completes (.taskComplete 0 false) sTasksComplete (fun _ => True) := by
  have h := ob sTasksComplete 0 (wRun []) (wTask 0 (.running 0)) wGr
  repeat specialize h (by first | decide +kernel | exact calm_by (by decide +kernel) | with_reducible rfl | exact fun hh => absurd hh (by decide +kernel))
  exact comes h

def sAbortsTaken1 : State :=
  wG ({ Hearth.fresh with cur := some (wRun []) }) (wEg (wTask 0 (.running 0))) [] []

def sAbortsTaken2 : State :=
  wG ({ Hearth.fresh with cur := some (wRun []), mx := { Matrix.reset with a0 := { MxArray.idle with q := [wP 0 0 0 false] } } }) (wEg (wTask 0 (.running 0))) [] []

def sAbortsTaken4 : State :=
  wG (engPut { Hearth.fresh with cur := some (wRun []) } 0 { Engine.idle with cur := some { wSt [] with tiles := [⟨0, 0, 0, 64, some 5, true, 0, false, 0⟩] } }) (wEg (wTask 0 (.running 0))) [] []

theorem wit_AbortsTaken_1 (ob : Obligations.AbortsTaken) : Completes (.taskAbort 0 false 6) sAbortsTaken1 (fun _ => True) := by
  have h := ob sAbortsTaken1 0 (wRun []) (wTask 0 (.running 0)) wGr
  repeat specialize h (by first | decide +kernel | exact calm_by (by decide +kernel) | with_reducible rfl | exact fun hh => absurd hh (by decide +kernel))
  have h := h.1 (6)
  repeat specialize h (by first | decide +kernel | exact calm_by (by decide +kernel) | with_reducible rfl | exact fun hh => absurd hh (by decide +kernel))
  exact comes h

theorem wit_AbortsTaken_2 (ob : Obligations.AbortsTaken) : Completes (.bankLate 0 0 0 1) sAbortsTaken2 (fun _ => True) := by
  have h := ob sAbortsTaken2 0 (wRun []) (wTask 0 (.running 0)) wGr
  repeat specialize h (by first | decide +kernel | exact calm_by (by decide +kernel) | with_reducible rfl | exact fun hh => absurd hh (by decide +kernel))
  have h := h.2.1 0 0 1
  repeat specialize h (by first | decide +kernel | exact calm_by (by decide +kernel) | with_reducible rfl | exact fun hh => absurd hh (by decide +kernel))
  have h := h.1
  repeat specialize h (by first | decide +kernel | exact calm_by (by decide +kernel) | with_reducible rfl | exact fun hh => absurd hh (by decide +kernel))
  exact comes h

theorem wit_AbortsTaken_3 (ob : Obligations.AbortsTaken) : Completes (.bankLate 0 0 0 17) sAbortsTaken2 (fun _ => True) := by
  have h := ob sAbortsTaken2 0 (wRun []) (wTask 0 (.running 0)) wGr
  repeat specialize h (by first | decide +kernel | exact calm_by (by decide +kernel) | with_reducible rfl | exact fun hh => absurd hh (by decide +kernel))
  have h := h.2.1 0 0 17
  repeat specialize h (by first | decide +kernel | exact calm_by (by decide +kernel) | with_reducible rfl | exact fun hh => absurd hh (by decide +kernel))
  have h := h.2
  repeat specialize h (by first | decide +kernel | exact calm_by (by decide +kernel) | with_reducible rfl | exact fun hh => absurd hh (by decide +kernel))
  exact comes h

theorem wit_AbortsTaken_4 (ob : Obligations.AbortsTaken) : Completes (.dueCheck 0 0 0) sAbortsTaken4 (fun _ => True) := by
  have h := ob sAbortsTaken4 0 (wRun []) (wTask 0 (.running 0)) wGr
  repeat specialize h (by first | decide +kernel | exact calm_by (by decide +kernel) | with_reducible rfl | exact fun hh => absurd hh (by decide +kernel))
  have h := h.2.2.1 0 0 { wSt [] with tiles := [⟨0, 0, 0, 64, some 5, true, 0, false, 0⟩] } 0
  repeat specialize h (by first | decide +kernel | exact calm_by (by decide +kernel) | with_reducible rfl | exact fun hh => absurd hh (by decide +kernel))
  exact comes h

theorem wit_AbortsTaken_5 (ob : Obligations.AbortsTaken) : Completes (.taskWatchdog 0 false) sAbortsTaken2 (fun _ => True) := by
  have h := ob sAbortsTaken2 0 (wRun []) (wTask 0 (.running 0)) wGr
  repeat specialize h (by first | decide +kernel | exact calm_by (by decide +kernel) | with_reducible rfl | exact fun hh => absurd hh (by decide +kernel))
  have h := h.2.2.2
  repeat specialize h (by first | decide +kernel | exact calm_by (by decide +kernel) | with_reducible rfl | exact fun hh => absurd hh (by decide +kernel))
  exact comes h

/-- What a mixed step of partition 2 takes, and what it reads and writes on the way. -/
def wDec (s : State) : Nat × List MixItem × List MixItem := mixDecode ((gget s 2).mixq.take 1) 0 (bits (rd s (R.grfMixCfg 2)) 13 13) false
def wPre (s : State) : Nat × List MixItem × List MixItem :=
  mixPrefill (wDec s).2.2 (wDec s).1 (bits (rd s (R.grfMixCfg 2)) 0 13) (bits (rd s (R.grfMixCfg 2)) 13 13) false
def wMv (s : State) : Option (Nat × Nat × Nat) × State := mixVariant (quiet s) 2 ((gget s 2).step % 2) (wPre s).1 0 16
def wMr (s : State) : List (List Byte) × State := mixRows (wMv s).2 2 ((wDec s).2.1 ++ (wPre s).2.1)
def wVp (s : State) : WrRes × State :=
  vaPut (wMr s).2 2 (3 * 65536) ((wMr s).1 ++ List.replicate (32 * (0 + 1) - (wPre s).1) (mixRow 0 0 false false)).flatten
def wHi (s : State) : Option Nat × State := headerId (wVp s).2 2 65536

def sMixedSteps1 : State :=
  wG Hearth.fresh { GraphEng.empty with mixq := [⟨128, wMix⟩, ⟨128, 2⟩] } (wImg ++ [(65536 * 34 + 512, leBytes 16 (65536 + 2 ^ 64 * (3 * 65536)))]) (wQ ++ [(R.grfMixCfg 2, 2 ^ 26 + 2 ^ 13 * 32 + 32), (R.grfMixTable 2, 131072 + 512)])

def sMixedSteps2 : State :=
  wG Hearth.fresh GraphEng.empty [] []

theorem wit_MixedSteps_1 (ob : Obligations.MixedSteps) : Completes (.mixStepForm 2) sMixedSteps1 (fun _ => True) := by
  have h := ob.1 sMixedSteps1 (wMv sMixedSteps1).2 (wMr sMixedSteps1).2 (wVp sMixedSteps1).2 (wHi sMixedSteps1).2 2 1 0 65536 (3 * 65536) 3 (wMr sMixedSteps1).1 (wVp sMixedSteps1).1
  specialize h (by first | decide +kernel | exact calm_by (by decide +kernel) | with_reducible rfl | exact fun hh => absurd hh (by decide +kernel))
  specialize h (by first | decide +kernel | exact calm_by (by decide +kernel) | with_reducible rfl | exact fun hh => absurd hh (by decide +kernel))
  specialize h (by first | decide +kernel | exact calm_by (by decide +kernel) | with_reducible rfl | exact fun hh => absurd hh (by decide +kernel))
  specialize h (by first | decide +kernel | exact calm_by (by decide +kernel) | with_reducible rfl | exact fun hh => absurd hh (by decide +kernel))
  specialize h (by first | decide +kernel | exact calm_by (by decide +kernel) | with_reducible rfl | exact fun hh => absurd hh (by decide +kernel))
  specialize h (by first | decide +kernel | exact calm_by (by decide +kernel) | with_reducible rfl | exact fun hh => absurd hh (by decide +kernel))
  specialize h (by first | decide +kernel | exact calm_by (by decide +kernel) | with_reducible rfl | exact fun hh => absurd hh (by decide +kernel))
  have h := h (opt2w (x := wMv sMixedSteps1) (by decide +kernel))
  have h := h (Prod.mk.eta (p := wMr sMixedSteps1)).symm
  have h := h (Prod.mk.eta (p := wVp sMixedSteps1)).symm
  have h := h (opt2w (x := wHi sMixedSteps1) (by decide +kernel))
  repeat specialize h (by first | decide +kernel | exact calm_by (by decide +kernel) | with_reducible rfl | exact fun hh => absurd hh (by decide +kernel))
  exact comes h

theorem wit_MixedSteps_2 (ob : Obligations.MixedSteps) : Completes (.grfMixTableWrite 2 64) sMixedSteps2 (fun _ => True) := by
  have h := ob.2 sMixedSteps2 2 64
  repeat specialize h (by first | decide +kernel | exact calm_by (by decide +kernel) | with_reducible rfl | exact fun hh => absurd hh (by decide +kernel))
  exact comes h

/-- An ATTEND descriptor of one head, one worker and one sequence whose length table is at page 1 (R322, R323). -/
def wAd (phase : Nat) : Nat := 7 + 2 ^ 8 * phase + 2 ^ 16 * 9 + 2 ^ 48 + 2 ^ 52 + 2 ^ 71 + 2 ^ 96 + 2 ^ 128 * 65536 + 2 ^ 512 * 4096
def wLt : Nat := 65536 + 2 ^ 64 * 128 + 2 ^ 96 * 4 + 2 ^ 128 * 1
def wPlan : Plan := ⟨7, adGroup (wAd 0), [wLt], [], [], 0, 0, 0, 0, 0, 1⟩
def wAtt (phase : Nat) : TaskRun := { wRun [⟨0, wAd phase, 2⟩] with att := wAd phase, plan := some wPlan }

def sAttentionPhases1 : State :=
  wG Hearth.fresh { wEg (wTask 0 .ready) with planReq := some ⟨5, 7, wAd 0⟩ } [(65536 * 33, leBytes 32 wLt)] []

def sAttentionPhases2 : State :=
  wG { Hearth.fresh with cur := some (wAtt 0) } (wEg (wTask 0 (.running 0))) [] [(R.fluCtrl 0, 1)]

def sAttentionPhases3 : State :=
  wG { Hearth.fresh with cur := some (wAtt 1) } (wEg (wTask 0 (.running 0))) [] [(R.fluCtrl 0, 1)]

def sAttentionPhases4 : State :=
  wG { Hearth.fresh with cur := some (wAtt 2) } (wEg (wTask 0 (.running 0))) [] [(R.fluCtrl 0, 1)]

theorem wit_AttentionPhases_1 (ob : Obligations.AttentionPhases) : Completes (.attendPlan 2) sAttentionPhases1 (fun _ => True) := by
  have h := ob.1.1 sAttentionPhases1 (ltRead (gput (quiet sAttentionPhases1) 2 { gget sAttentionPhases1 2 with planReq := none }) 2 (wAd 0)).2 2 0 ⟨5, 7, wAd 0⟩ (wTask 0 .ready) [wLt] ((planMake 7 (wAd 0) [wLt]).toOption.getD wPlan)
  repeat specialize h (by first | decide +kernel | exact calm_by (by decide +kernel) | with_reducible rfl | exact fun hh => absurd hh (by decide +kernel))
  exact comes h

theorem wit_AttentionPhases_2 (ob : Obligations.AttentionPhases) : Completes (.attendAppend 0) sAttentionPhases2 (fun _ => True) := by
  have h := ob.1.2 sAttentionPhases2 0 (wAtt 0) ⟨0, wAd 0, 2⟩ [] wPlan
  repeat specialize h (by first | decide +kernel | exact calm_by (by decide +kernel) | with_reducible rfl | exact fun hh => absurd hh (by decide +kernel))
  have h := h.1 _ (by decide +kernel) rfl
  repeat specialize h (by first | decide +kernel | exact calm_by (by decide +kernel) | with_reducible rfl | exact fun hh => absurd hh (by decide +kernel))
  exact comes h

theorem wit_AttentionPhases_3 (ob : Obligations.AttentionPhases) : Completes (.attendWork 0) sAttentionPhases3 (fun _ => True) := by
  have h := ob.1.2 sAttentionPhases3 0 (wAtt 1) ⟨0, wAd 1, 2⟩ [] wPlan
  repeat specialize h (by first | decide +kernel | exact calm_by (by decide +kernel) | with_reducible rfl | exact fun hh => absurd hh (by decide +kernel))
  have h := h.2.1 _ (by decide +kernel) rfl
  repeat specialize h (by first | decide +kernel | exact calm_by (by decide +kernel) | with_reducible rfl | exact fun hh => absurd hh (by decide +kernel))
  exact comes h

theorem wit_AttentionPhases_4 (ob : Obligations.AttentionPhases) : Completes (.attendMerge 0) sAttentionPhases4 (fun _ => True) := by
  have h := ob.1.2 sAttentionPhases4 0 (wAtt 2) ⟨0, wAd 2, 2⟩ [] wPlan
  repeat specialize h (by first | decide +kernel | exact calm_by (by decide +kernel) | with_reducible rfl | exact fun hh => absurd hh (by decide +kernel))
  have h := h.2.2 _ (by decide +kernel) rfl
  repeat specialize h (by first | decide +kernel | exact calm_by (by decide +kernel) | with_reducible rfl | exact fun hh => absurd hh (by decide +kernel))
  exact comes h

/-- The device with link 3 and some of its registers as given. -/
def wLk (x : Link) (r : List (Reg × Nat)) : State := r.foldl (fun s e => wr s e.1 e.2) { State.reset with links := [(3, x)] }
def wUp : Link := { Link.reset with st := 2, lim := 2 ^ 24 * 3 + 2 ^ 28 * 3 }
/-- A flit of one byte on VC 24 that is a packet (R349), and a received slot that holds it (R347). -/
def wFlit : Flit := ⟨24 + 32 + 64 + 256, [5]⟩
def wSlot (ok crc : Bool) (seq : Nat) : SlotRx := ⟨ok, 0, crc, BitVec.ofNat 80 (1 + 4 * seq), BitVec.ofNat 64 (24 + 32 + 64 + 256), [5]⟩
def wTx : TxPkt := ⟨1, 24, [wFlit], true, none, false, 0, none, false⟩
def wTrained (ok : Bool) : TrainResult := ⟨ok, 15, 0, false, [], 70⟩

theorem wClass {s : State} {n : Nat} (h : rdf s (R.lnkCfg n) 0 2 = 2) : classOn s n = true := by simp [classOn, h]

def sSlotsExchanged1 : State :=
  wLk { wUp with pos := 1, txq := [wTx] } []

def sSlotsExchanged2 : State :=
  wLk { wUp with msgs := [(4, 0)] } []

def sSlotsExchanged3 : State :=
  wLk wUp []

theorem wit_SlotsExchanged_1 (ob : Obligations.SlotsExchanged) : Completes (.linkSlotTx 3) sSlotsExchanged1 (fun _ => True) := by
  have h := ob sSlotsExchanged1 3
  repeat specialize h (by first | decide +kernel | exact calm_by (by decide +kernel) | with_reducible rfl | exact fun hh => absurd hh (by decide +kernel))
  have h := h.1
  repeat specialize h (by first | decide +kernel | exact calm_by (by decide +kernel) | with_reducible rfl | exact fun hh => absurd hh (by decide +kernel))
  have h := h.2.1 wTx wFlit []
  repeat specialize h (by first | decide +kernel | exact calm_by (by decide +kernel) | with_reducible rfl | exact fun hh => absurd hh (by decide +kernel))
  exact comes h

theorem wit_SlotsExchanged_2 (ob : Obligations.SlotsExchanged) : Completes (.linkSlotTx 3) sSlotsExchanged2 (fun _ => True) := by
  have h := ob sSlotsExchanged2 3
  repeat specialize h (by first | decide +kernel | exact calm_by (by decide +kernel) | with_reducible rfl | exact fun hh => absurd hh (by decide +kernel))
  have h := h.2.1
  repeat specialize h (by first | decide +kernel | exact calm_by (by decide +kernel) | with_reducible rfl | exact fun hh => absurd hh (by decide +kernel))
  have h := h.2.1 (4, 0) [] (.inl (by decide +kernel))
  repeat specialize h (by first | decide +kernel | exact calm_by (by decide +kernel) | with_reducible rfl | exact fun hh => absurd hh (by decide +kernel))
  exact comes h

theorem wit_SlotsExchanged_3 (ob : Obligations.SlotsExchanged) : Completes (.linkDataSlotRx 3 (wSlot false false 0)) sSlotsExchanged3 (fun _ => True) := by
  have h := ob sSlotsExchanged3 3
  repeat specialize h (by first | decide +kernel | exact calm_by (by decide +kernel) | with_reducible rfl | exact fun hh => absurd hh (by decide +kernel))
  have h := h.2.2.1 (wSlot false false 0)
  repeat specialize h (by first | decide +kernel | exact calm_by (by decide +kernel) | with_reducible rfl | exact fun hh => absurd hh (by decide +kernel))
  exact comes h

theorem wit_SlotsExchanged_4 (ob : Obligations.SlotsExchanged) : Completes (.linkDataSlotRx 3 (wSlot true false 0)) sSlotsExchanged3 (fun _ => True) := by
  have h := ob sSlotsExchanged3 3
  repeat specialize h (by first | decide +kernel | exact calm_by (by decide +kernel) | with_reducible rfl | exact fun hh => absurd hh (by decide +kernel))
  have h := h.2.2.2.1 (wSlot true false 0)
  repeat specialize h (by first | decide +kernel | exact calm_by (by decide +kernel) | with_reducible rfl | exact fun hh => absurd hh (by decide +kernel))
  exact comes h

theorem wit_SlotsExchanged_5 (ob : Obligations.SlotsExchanged) : Completes (.linkDataSlotRx 3 (wSlot true true 9)) sSlotsExchanged3 (fun _ => True) := by
  have h := ob sSlotsExchanged3 3
  repeat specialize h (by first | decide +kernel | exact calm_by (by decide +kernel) | with_reducible rfl | exact fun hh => absurd hh (by decide +kernel))
  have h := h.2.2.2.2 (wSlot true true 9)
  repeat specialize h (by first | decide +kernel | exact calm_by (by decide +kernel) | with_reducible rfl | exact fun hh => absurd hh (by decide +kernel))
  have h := h.2
  repeat specialize h (by first | decide +kernel | exact calm_by (by decide +kernel) | with_reducible rfl | exact fun hh => absurd hh (by decide +kernel))
  have h := h.1
  repeat specialize h (by first | decide +kernel | exact calm_by (by decide +kernel) | with_reducible rfl | exact fun hh => absurd hh (by decide +kernel))
  exact comes h

theorem wit_SlotsExchanged_6 (ob : Obligations.SlotsExchanged) : Completes (.linkDataSlotRx 3 (wSlot true true 0)) sSlotsExchanged3 (fun _ => True) := by
  have h := ob sSlotsExchanged3 3
  repeat specialize h (by first | decide +kernel | exact calm_by (by decide +kernel) | with_reducible rfl | exact fun hh => absurd hh (by decide +kernel))
  have h := h.2.2.2.2 (wSlot true true 0)
  repeat specialize h (by first | decide +kernel | exact calm_by (by decide +kernel) | with_reducible rfl | exact fun hh => absurd hh (by decide +kernel))
  have h := h.2
  repeat specialize h (by first | decide +kernel | exact calm_by (by decide +kernel) | with_reducible rfl | exact fun hh => absurd hh (by decide +kernel))
  have h := h.2
  repeat specialize h (by first | decide +kernel | exact calm_by (by decide +kernel) | with_reducible rfl | exact fun hh => absurd hh (by decide +kernel))
  have h := h.1
  repeat specialize h (by first | decide +kernel | exact calm_by (by decide +kernel) | with_reducible rfl | exact fun hh => absurd hh (by decide +kernel))
  exact comes h

/-- A replay from SEQ 4,095, an idle link, DOWN due and a control slot with nothing to send, a slot of 5 corrected symbols, an IDLE slot, and a flit
that goes on in an open packet. -/
def sSlotsExchanged7 : State :=
  wLk { wUp with pos := 127, retry := [⟨4095, 1, wFlit, false⟩], replay := some 4095 } []

def sSlotsExchanged8 : State :=
  wLk { wUp with pos := 1 } []

def sSlotsExchanged9 : State :=
  wLk { Link.reset with st := 4, downTx := some 2, pos := 86 } []

def wSlot5 : SlotRx := { wSlot true true 0 with corrected := 5 }
def wIdle : SlotRx := { wSlot true true 0 with linkWord := 0 }
def wMore : SlotRx := { wSlot true true 0 with header := BitVec.ofNat 64 (24 + 64 + 256) }
def wOpen : RxPkt := ⟨9, [wFlit], 1, false, .fresh, 0⟩

def sSlotsExchanged12 : State :=
  wLk { wUp with rx := [(24, [wOpen])] } []

theorem wit_SlotsExchanged_7 (ob : Obligations.SlotsExchanged) : Completes (.linkSlotTx 3) sSlotsExchanged7 (fun _ => True) := by
  have h := ob sSlotsExchanged7 3
  repeat specialize h (by first | decide +kernel | exact calm_by (by decide +kernel) | with_reducible rfl | exact fun hh => absurd hh (by decide +kernel))
  have h := h.1
  repeat specialize h (by first | decide +kernel | exact calm_by (by decide +kernel) | with_reducible rfl | exact fun hh => absurd hh (by decide +kernel))
  have h := h.1 4095 ⟨4095, 1, wFlit, false⟩
  repeat specialize h (by first | decide +kernel | exact calm_by (by decide +kernel) | with_reducible rfl | exact fun hh => absurd hh (by decide +kernel))
  exact comes h

theorem wit_SlotsExchanged_8 (ob : Obligations.SlotsExchanged) : Completes (.linkSlotTx 3) sSlotsExchanged8 (fun _ => True) := by
  have h := ob sSlotsExchanged8 3
  repeat specialize h (by first | decide +kernel | exact calm_by (by decide +kernel) | with_reducible rfl | exact fun hh => absurd hh (by decide +kernel))
  have h := h.1
  repeat specialize h (by first | decide +kernel | exact calm_by (by decide +kernel) | with_reducible rfl | exact fun hh => absurd hh (by decide +kernel))
  have h := h.2.2
  repeat specialize h (by first | decide +kernel | exact calm_by (by decide +kernel) | with_reducible rfl | exact fun hh => absurd hh (by decide +kernel))
  exact comes h

theorem wit_SlotsExchanged_9 (ob : Obligations.SlotsExchanged) : Completes (.linkSlotTx 3) sSlotsExchanged9 (fun _ => True) := by
  have h := ob sSlotsExchanged9 3
  repeat specialize h (by first | decide +kernel | exact calm_by (by decide +kernel) | with_reducible rfl | exact fun hh => absurd hh (by decide +kernel))
  have h := h.2.1
  repeat specialize h (by first | decide +kernel | exact calm_by (by decide +kernel) | with_reducible rfl | exact fun hh => absurd hh (by decide +kernel))
  have h := h.1 2
  repeat specialize h (by first | decide +kernel | exact calm_by (by decide +kernel) | with_reducible rfl | exact fun hh => absurd hh (by decide +kernel))
  exact comes h

theorem wit_SlotsExchanged_10 (ob : Obligations.SlotsExchanged) : Completes (.linkSlotTx 3) sSlotsExchanged3 (fun _ => True) := by
  have h := ob sSlotsExchanged3 3
  repeat specialize h (by first | decide +kernel | exact calm_by (by decide +kernel) | with_reducible rfl | exact fun hh => absurd hh (by decide +kernel))
  have h := h.2.1
  repeat specialize h (by first | decide +kernel | exact calm_by (by decide +kernel) | with_reducible rfl | exact fun hh => absurd hh (by decide +kernel))
  have h := h.2.2
  repeat specialize h (by first | decide +kernel | exact calm_by (by decide +kernel) | with_reducible rfl | exact fun hh => absurd hh (by decide +kernel))
  exact comes h

theorem wit_SlotsExchanged_11 (ob : Obligations.SlotsExchanged) : Completes (.linkDataSlotRx 3 wSlot5) sSlotsExchanged3 (fun _ => True) := by
  have h := ob sSlotsExchanged3 3
  repeat specialize h (by first | decide +kernel | exact calm_by (by decide +kernel) | with_reducible rfl | exact fun hh => absurd hh (by decide +kernel))
  have h := h.2.2.1 wSlot5
  repeat specialize h (by first | decide +kernel | exact calm_by (by decide +kernel) | with_reducible rfl | exact fun hh => absurd hh (by decide +kernel))
  exact comes h

theorem wit_SlotsExchanged_12 (ob : Obligations.SlotsExchanged) : Completes (.linkDataSlotRx 3 wMore) sSlotsExchanged12 (fun _ => True) := by
  have h := ob sSlotsExchanged12 3
  repeat specialize h (by first | decide +kernel | exact calm_by (by decide +kernel) | with_reducible rfl | exact fun hh => absurd hh (by decide +kernel))
  have h := h.2.2.2.2 wMore
  repeat specialize h (by first | decide +kernel | exact calm_by (by decide +kernel) | with_reducible rfl | exact fun hh => absurd hh (by decide +kernel))
  have h := h.2
  repeat specialize h (by first | decide +kernel | exact calm_by (by decide +kernel) | with_reducible rfl | exact fun hh => absurd hh (by decide +kernel))
  have h := h.2
  repeat specialize h (by first | decide +kernel | exact calm_by (by decide +kernel) | with_reducible rfl | exact fun hh => absurd hh (by decide +kernel))
  have h := h.2 wOpen
  repeat specialize h (by first | decide +kernel | exact calm_by (by decide +kernel) | with_reducible rfl | exact fun hh => absurd hh (by decide +kernel))
  exact comes h

theorem wit_SlotsExchanged_13 (ob : Obligations.SlotsExchanged) : Completes (.linkDataSlotRx 3 wIdle) sSlotsExchanged3 (fun _ => True) := by
  have h := ob sSlotsExchanged3 3
  repeat specialize h (by first | decide +kernel | exact calm_by (by decide +kernel) | with_reducible rfl | exact fun hh => absurd hh (by decide +kernel))
  have h := h.2.2.2.2 wIdle
  repeat specialize h (by first | decide +kernel | exact calm_by (by decide +kernel) | with_reducible rfl | exact fun hh => absurd hh (by decide +kernel))
  have h := h.1
  repeat specialize h (by first | decide +kernel | exact calm_by (by decide +kernel) | with_reducible rfl | exact fun hh => absurd hh (by decide +kernel))
  exact comes h

def sLinkMessages1 : State :=
  wLk { Link.reset with st := 1 } []

def sLinkMessages2 : State :=
  wLk wUp []

theorem wit_LinkMessages_1 (ob : Obligations.LinkMessages) : Completes (.param 3 1 2 3 2 4) sLinkMessages1 (fun _ => True) := by
  have h := ob sLinkMessages1 3
  repeat specialize h (by first | decide +kernel | exact calm_by (by decide +kernel) | with_reducible rfl | exact fun hh => absurd hh (by decide +kernel))
  have h := h.1 (.inr (by decide +kernel))
  repeat specialize h (by first | decide +kernel | exact calm_by (by decide +kernel) | with_reducible rfl | exact fun hh => absurd hh (by decide +kernel))
  have h := h.1 1 2 3 2 4
  repeat specialize h (by first | decide +kernel | exact calm_by (by decide +kernel) | with_reducible rfl | exact fun hh => absurd hh (by decide +kernel))
  exact comes h

theorem wit_LinkMessages_2 (ob : Obligations.LinkMessages) : Completes (.linkEcho 3 9) sLinkMessages2 (fun _ => True) := by
  have h := ob sLinkMessages2 3
  repeat specialize h (by first | decide +kernel | exact calm_by (by decide +kernel) | with_reducible rfl | exact fun hh => absurd hh (by decide +kernel))
  have h := h.1 (.inl (by decide +kernel))
  repeat specialize h (by first | decide +kernel | exact calm_by (by decide +kernel) | with_reducible rfl | exact fun hh => absurd hh (by decide +kernel))
  have h := h.2.1 9
  repeat specialize h (by first | decide +kernel | exact calm_by (by decide +kernel) | with_reducible rfl | exact fun hh => absurd hh (by decide +kernel))
  exact comes h

theorem wit_LinkMessages_3 (ob : Obligations.LinkMessages) : Completes (.linkEchoReply 3 0) sLinkMessages1 (fun _ => True) := by
  have h := ob sLinkMessages1 3
  repeat specialize h (by first | decide +kernel | exact calm_by (by decide +kernel) | with_reducible rfl | exact fun hh => absurd hh (by decide +kernel))
  have h := h.1 (.inr (by decide +kernel))
  repeat specialize h (by first | decide +kernel | exact calm_by (by decide +kernel) | with_reducible rfl | exact fun hh => absurd hh (by decide +kernel))
  have h := h.2.2 0
  repeat specialize h (by first | decide +kernel | exact calm_by (by decide +kernel) | with_reducible rfl | exact fun hh => absurd hh (by decide +kernel))
  exact comes h

theorem wit_LinkMessages_4 (ob : Obligations.LinkMessages) : Completes (.retrainReq 3) sLinkMessages2 (fun _ => True) := by
  have h := ob sLinkMessages2 3
  repeat specialize h (by first | decide +kernel | exact calm_by (by decide +kernel) | with_reducible rfl | exact fun hh => absurd hh (by decide +kernel))
  have h := h.2.1
  repeat specialize h (by first | decide +kernel | exact calm_by (by decide +kernel) | with_reducible rfl | exact fun hh => absurd hh (by decide +kernel))
  exact comes h

theorem wit_LinkMessages_5 (ob : Obligations.LinkMessages) : Completes (.linkDownTxEnd 3) sLinkMessages2 (fun _ => True) := by
  have h := ob sLinkMessages2 3
  repeat specialize h (by first | decide +kernel | exact calm_by (by decide +kernel) | with_reducible rfl | exact fun hh => absurd hh (by decide +kernel))
  have h := h.2.2
  repeat specialize h (by first | decide +kernel | exact calm_by (by decide +kernel) | with_reducible rfl | exact fun hh => absurd hh (by decide +kernel))
  exact comes h

def sLinkStates1 : State :=
  wLk wUp []

/-- Four codewords in the last millisecond, with CW_ERR_LIMIT at 3. -/
def sLinkStates3 : State :=
  wLk { wUp with lim := wUp.lim + 2 ^ 16 * 3, cw := [0, 0, 0, 0] } []

def sLinkStates5 : State :=
  wLk { wUp with st := 3, retry := [⟨0, 1, wFlit, false⟩] } []

def sLinkStates7 : State :=
  wLk { Link.reset with go := true } [(R.lnkCfg 3, 2 + 2 ^ 8 * 2), (R.lnkPortCfgP 2, 2 ^ 3 + 2 ^ 20)]

def sLinkStates8 : State :=
  wLk { Link.reset with st := 1 } [(R.lnkCfg 3, 2 + 2 ^ 8 * 2), (R.lnkPartner 3, 2 ^ 16 * 2 + 2 ^ 26 * 2 + 2 ^ 28)]

def sLinkStates9 : State :=
  wLk { Link.reset with st := 1 } [(R.lnkCfg 3, 2 + 2 ^ 8 * 2)]

def sLinkStates12 : State :=
  wLk { wUp with st := 3 } []

def sLinkStates14 : State :=
  wLk Link.reset [(R.lnkCtrl 3, 8)]

theorem wit_LinkStates_1 (ob : Obligations.LinkStates) : Completes (.down 3 4) sLinkStates1 (fun _ => True) := by
  have h := ob.1 sLinkStates1 3
  repeat specialize h (by first | decide +kernel | exact calm_by (by decide +kernel) | with_reducible rfl | exact fun hh => absurd hh (by decide +kernel))
  have h := h.1 (4)
  exact comes h

theorem wit_LinkStates_2 (ob : Obligations.LinkStates) : Completes (.linkLos 3 2) sLinkStates1 (fun _ => True) := by
  have h := ob.1 sLinkStates1 3
  repeat specialize h (by first | decide +kernel | exact calm_by (by decide +kernel) | with_reducible rfl | exact fun hh => absurd hh (by decide +kernel))
  have h := h.2.1 (2)
  repeat specialize h (by first | decide +kernel | exact calm_by (by decide +kernel) | with_reducible rfl | exact fun hh => absurd hh (by decide +kernel))
  exact comes h

theorem wit_LinkStates_3 (ob : Obligations.LinkStates) : Completes (.fecLimit 3) sLinkStates3 (fun _ => True) := by
  have h := ob.1 sLinkStates3 3
  repeat specialize h (by first | decide +kernel | exact calm_by (by decide +kernel) | with_reducible rfl | exact fun hh => absurd hh (by decide +kernel))
  have h := h.2.2.1
  repeat specialize h (by first | decide +kernel | exact calm_by (by decide +kernel) | with_reducible rfl | exact fun hh => absurd hh (by decide +kernel))
  exact comes h

theorem wit_LinkStates_4 (ob : Obligations.LinkStates) : Completes (.noSlotTimeout 3) sLinkStates1 (fun _ => True) := by
  have h := ob.1 sLinkStates1 3
  repeat specialize h (by first | decide +kernel | exact calm_by (by decide +kernel) | with_reducible rfl | exact fun hh => absurd hh (by decide +kernel))
  have h := h.2.2.2.1
  exact comes h

theorem wit_LinkStates_5 (ob : Obligations.LinkStates) : Completes (.linkDrainTimeout 3) sLinkStates5 (fun _ => True) := by
  have h := ob.1 sLinkStates5 3
  repeat specialize h (by first | decide +kernel | exact calm_by (by decide +kernel) | with_reducible rfl | exact fun hh => absurd hh (by decide +kernel))
  have h := h.2.2.2.2.1
  repeat specialize h (by first | decide +kernel | exact calm_by (by decide +kernel) | with_reducible rfl | exact fun hh => absurd hh (by decide +kernel))
  exact comes h

theorem wit_LinkStates_6 (ob : Obligations.LinkStates) : Completes (.replayTimeout 3) sLinkStates5 (fun _ => True) := by
  have h := ob.1 sLinkStates5 3
  repeat specialize h (by first | decide +kernel | exact calm_by (by decide +kernel) | with_reducible rfl | exact fun hh => absurd hh (by decide +kernel))
  have h := h.2.2.2.2.2.2
  repeat specialize h (by first | decide +kernel | exact calm_by (by decide +kernel) | with_reducible rfl | exact fun hh => absurd hh (by decide +kernel))
  exact comes h

theorem wit_LinkStates_7 (ob : Obligations.LinkStates) : Completes (.linkTrainStart 3) sLinkStates7 (fun _ => True) := by
  have h := ob.2 sLinkStates7 3
  repeat specialize h (by first | decide +kernel | exact calm_by (by decide +kernel) | with_reducible rfl | exact fun hh => absurd hh (by decide +kernel))
  have h := h.1
  repeat specialize h (by first | decide +kernel | exact calm_by (by decide +kernel) | with_reducible rfl | exact fun hh => absurd hh (by decide +kernel))
  have h := h.1 (wClass (by decide +kernel))
  repeat specialize h (by first | decide +kernel | exact calm_by (by decide +kernel) | with_reducible rfl | exact fun hh => absurd hh (by decide +kernel))
  exact comes h

theorem wit_LinkStates_8 (ob : Obligations.LinkStates) : Completes (.linkTrainDone 3 (wTrained true)) sLinkStates8 (fun _ => True) := by
  have h := ob.2 sLinkStates8 3
  repeat specialize h (by first | decide +kernel | exact calm_by (by decide +kernel) | with_reducible rfl | exact fun hh => absurd hh (by decide +kernel))
  have h := h.2.1 (wTrained true)
  repeat specialize h (by first | decide +kernel | exact calm_by (by decide +kernel) | with_reducible rfl | exact fun hh => absurd hh (by decide +kernel))
  have h := h.1
  repeat specialize h (by first | decide +kernel | exact calm_by (by decide +kernel) | with_reducible rfl | exact fun hh => absurd hh (by decide +kernel))
  exact comes h

theorem wit_LinkStates_9 (ob : Obligations.LinkStates) : Completes (.linkTrainDone 3 (wTrained true)) sLinkStates9 (fun _ => True) := by
  have h := ob.2 sLinkStates9 3
  repeat specialize h (by first | decide +kernel | exact calm_by (by decide +kernel) | with_reducible rfl | exact fun hh => absurd hh (by decide +kernel))
  have h := h.2.1 (wTrained true)
  repeat specialize h (by first | decide +kernel | exact calm_by (by decide +kernel) | with_reducible rfl | exact fun hh => absurd hh (by decide +kernel))
  have h := h.2 (3)
  repeat specialize h (by first | decide +kernel | exact calm_by (by decide +kernel) | with_reducible rfl | exact fun hh => absurd hh (by decide +kernel))
  exact comes h

theorem wit_LinkStates_10 (ob : Obligations.LinkStates) : Completes (.linkTrainDone 3 (wTrained false)) sLinkStates9 (fun _ => True) := by
  have h := ob.2 sLinkStates9 3
  repeat specialize h (by first | decide +kernel | exact calm_by (by decide +kernel) | with_reducible rfl | exact fun hh => absurd hh (by decide +kernel))
  have h := h.2.2.1 (wTrained false)
  repeat specialize h (by first | decide +kernel | exact calm_by (by decide +kernel) | with_reducible rfl | exact fun hh => absurd hh (by decide +kernel))
  exact comes h

theorem wit_LinkStates_11 (ob : Obligations.LinkStates) : Completes (.linkRetrain 3) sLinkStates1 (fun _ => True) := by
  have h := ob.2 sLinkStates1 3
  repeat specialize h (by first | decide +kernel | exact calm_by (by decide +kernel) | with_reducible rfl | exact fun hh => absurd hh (by decide +kernel))
  have h := h.2.2.2.1
  repeat specialize h (by first | decide +kernel | exact calm_by (by decide +kernel) | with_reducible rfl | exact fun hh => absurd hh (by decide +kernel))
  exact comes h

theorem wit_LinkStates_12 (ob : Obligations.LinkStates) : Completes (.linkDrainDone 3) sLinkStates12 (fun _ => True) := by
  have h := ob.2 sLinkStates12 3
  repeat specialize h (by first | decide +kernel | exact calm_by (by decide +kernel) | with_reducible rfl | exact fun hh => absurd hh (by decide +kernel))
  have h := h.2.2.2.2.2.2.1
  repeat specialize h (by first | decide +kernel | exact calm_by (by decide +kernel) | with_reducible rfl | exact fun hh => absurd hh (by decide +kernel))
  exact comes h

theorem wit_LinkStates_13 (ob : Obligations.LinkStates) : Completes (.linkDisable 3 true) sLinkStates1 (fun _ => True) := by
  have h := ob.2 sLinkStates1 3
  repeat specialize h (by first | decide +kernel | exact calm_by (by decide +kernel) | with_reducible rfl | exact fun hh => absurd hh (by decide +kernel))
  have h := h.2.2.2.2.2.2.2.1
  repeat specialize h (by first | decide +kernel | exact calm_by (by decide +kernel) | with_reducible rfl | exact fun hh => absurd hh (by decide +kernel))
  exact comes h

theorem wit_LinkStates_14 (ob : Obligations.LinkStates) : Completes (.linkDisable 3 false) sLinkStates14 (fun _ => True) := by
  have h := ob.2 sLinkStates14 3
  repeat specialize h (by first | decide +kernel | exact calm_by (by decide +kernel) | with_reducible rfl | exact fun hh => absurd hh (by decide +kernel))
  have h := h.2.2.2.2.2.2.2.2.2
  repeat specialize h (by first | decide +kernel | exact calm_by (by decide +kernel) | with_reducible rfl | exact fun hh => absurd hh (by decide +kernel))
  exact comes h

/-- A class that an OMKIN-LCX does not enable (Config.lcx); a link that is DOWN and one that has FAILED; a replay after the last. -/
def sLinkStates15 : State :=
  wLk { Link.reset with go := true } [(R.lnkCfg 3, 1 + 2 ^ 8 * 2), (R.lnkPortCfgP 2, 2 ^ 3 + 2 ^ 20)]

def sLinkStates16 : State :=
  wLk { Link.reset with st := 4 } []

def sLinkStates17 : State :=
  wLk { Link.reset with st := 5 } []

def sLinkStates18 : State :=
  wLk { wUp with retry := [⟨0, 1, wFlit, false⟩], replays := replayLimit wUp } []

def sLinkStates19 : State :=
  wLk Link.reset []

theorem wit_LinkStates_16 (ob : Obligations.LinkStates) : Completes (.linkRetrain 3) sLinkStates16 (fun _ => True) := by
  have h := ob.2 sLinkStates16 3
  repeat specialize h (by first | decide +kernel | exact calm_by (by decide +kernel) | with_reducible rfl | exact fun hh => absurd hh (by decide +kernel))
  have h := h.2.2.2.2.1
  repeat specialize h (by first | decide +kernel | exact calm_by (by decide +kernel) | with_reducible rfl | exact fun hh => absurd hh (by decide +kernel))
  exact comes h

theorem wit_LinkStates_17 (ob : Obligations.LinkStates) : Completes (.linkRetrain 3) sLinkStates17 (fun _ => True) := by
  have h := ob.2 sLinkStates17 3
  repeat specialize h (by first | decide +kernel | exact calm_by (by decide +kernel) | with_reducible rfl | exact fun hh => absurd hh (by decide +kernel))
  have h := h.2.2.2.2.2.1
  repeat specialize h (by first | decide +kernel | exact calm_by (by decide +kernel) | with_reducible rfl | exact fun hh => absurd hh (by decide +kernel))
  exact comes h

theorem wit_LinkStates_18 (ob : Obligations.LinkStates) : Completes (.replayTimeout 3) sLinkStates18 (fun _ => True) := by
  have h := ob.1 sLinkStates18 3
  repeat specialize h (by first | decide +kernel | exact calm_by (by decide +kernel) | with_reducible rfl | exact fun hh => absurd hh (by decide +kernel))
  have h := h.2.2.2.2.2.1
  repeat specialize h (by first | decide +kernel | exact calm_by (by decide +kernel) | with_reducible rfl | exact fun hh => absurd hh (by decide +kernel))
  exact comes h

theorem wit_LinkStates_19 (ob : Obligations.LinkStates) : Completes (.linkDisable 3 true) sLinkStates19 (fun _ => True) := by
  have h := ob.2 sLinkStates19 3
  repeat specialize h (by first | decide +kernel | exact calm_by (by decide +kernel) | with_reducible rfl | exact fun hh => absurd hh (by decide +kernel))
  have h := h.2.2.2.2.2.2.2.2.1
  repeat specialize h (by first | decide +kernel | exact calm_by (by decide +kernel) | with_reducible rfl | exact fun hh => absurd hh (by decide +kernel))
  exact comes h

theorem wit_LinkStates_15 (ob : Obligations.LinkStates) (l : Config.lcx = true) : Completes (.linkTrainStart 3) sLinkStates15 (fun _ => True) := by
  have h := ob.2 sLinkStates15 3
  repeat specialize h (by first | decide +kernel | exact calm_by (by decide +kernel) | with_reducible rfl | exact fun hh => absurd hh (by decide +kernel))
  have h := h.1
  repeat specialize h (by first | decide +kernel | exact calm_by (by decide +kernel) | with_reducible rfl | exact fun hh => absurd hh (by decide +kernel))
  have h := h.2 (by unfold classOn; rw [l]; decide +kernel)
  exact comes h

/-- Registers of a device whose port 2 is link 4 and reaches devices 1 and 5, and whose VC 2 carries slice 0, group 0. -/
def wRt : List (Reg × Nat) :=
  [(R.lnkPortCfgP 2, 2 ^ 4 + 2 ^ 20), (R.fabAdjP 2, 2 ^ 22), (R.fabRouteD 1, 2 + 32), (R.fabRouteD 5, 2 + 32), (R.fabVcmapV 2, 1)]
/-- A routing header and a packet of it in the receive pool of link 3 (R374). -/
def wPh (ty dst hops seq kind coll epoch : Nat) : List Byte :=
  mkHdr ty 0 dst 1 0 0 2 1 hops seq (beBytes 1 kind ++ beBytes 1 coll ++ beBytes 2 0 ++ beBytes 4 epoch ++ beBytes 8 0)
def wRx (w : RxWay) (h : List Byte) : RxPkt := ⟨1, flitsOf 24 h, 1, true, w, 0⟩
/-- The device with a packet on VC 24 of link 3, link 4 UP, flows and collective entries. -/
def wFab (q : List RxPkt) (k : Link) (sf : List SendFlow) (rf : List RecvFlow) (co : List (Nat × ColEnt)) (r : List (Reg × Nat)) : State :=
  (wRt ++ r).foldl (fun s e => wr s e.1 e.2)
    { State.reset with links := [(3, { wUp with rx := if q.isEmpty then [] else [(24, q)] }), (4, k)], sflows := sf, rflows := rf, cols := co }
theorem wNoPort {s : State} {k : Nat} (h : ∀ sl, sl < 4 → stagingUse s sl + k ≤ stagingFlits sl) (p : Nat) : stagingRoom s p k = true := by
  unfold stagingRoom
  split
  · rfl
  · rename_i n _
    exact decide_eq_true (h (linkSlice n) (by unfold linkSlice; split <;> (try split) <;> (try split) <;> omega))
def wSf (un : List Unacked) : SendFlow := ⟨7, 2, 1, 1, 2, 9, un, [], false, 0, none, 0⟩
def wRf (pend : Nat) : RecvFlow := ⟨8, 1, 2, 1, 2, 5, [], pend, 1⟩
/-- Collective entries of ranks on devices 0 and 1, 256 bytes a bucket at page 0, RECV at page 2, counts at page 3 (R389, R390). -/
def wRaw (op ctl : Nat) : Nat := op + 2 ^ 13 * ctl + 2 ^ 112 * 131072 + 2 ^ 160 * 196608 + 2 ^ 208 * 65536 + 2 ^ 256 * 256
def wGrp : List Nat := [2 ^ 16 * 2, 1 + 2 ^ 16]
def wCe (op ctl : Nat) : ColEnt := ColEnt.load (wRaw op ctl) 2 0 wGrp 2 (actStart (wRaw op ctl))

def sFabricPackets1 : State :=
  wFab [(wRx .fresh (wPh 0 5 0 0 0 0 0))] (wUp) [] [] [] []

def sFabricPackets2 : State :=
  wFab [(wRx .fresh (wPh 0 0 3 0 0 0 0))] (wUp) [] [] [] []

def sFabricPackets3 : State :=
  wFab [(wRx .fresh (wPh 0 5 3 0 0 0 0))] (wUp) [] [] [] []

def sFabricPackets4 : State :=
  wFab [(wRx .fresh (wPh 0 5 3 0 0 0 0))] ({ wUp with sent := [(3, 1056)], txq := [⟨1, 3, flitsOf 3 (wPh 0 5 3 0 0 0 0), true, none, false, 5, none, false⟩] }) [] [] [] []

/-- What the routing of the packet of `sFabricPackets3` comes to. -/
def wRouted : Route := routeOf sFabricPackets3 (some (lkPort sFabricPackets3 3)) 24 (setByte (wPh 0 5 3 0 0 0 0) 9 2)
def outVc (r : Route) : Nat := match r with | .out _ v _ _ => v | _ => 0
def outHdr (r : Route) : List Byte := match r with | .out _ _ h _ => h | _ => []
def outAlt (r : Route) : Bool := match r with | .out _ _ _ a => a | _ => false

/-- A packet on a data VC that its group does not own, and one to a device that no route reaches. -/
def sFabricPackets5 : State :=
  { State.reset with links := [(3, { wUp with rx := [(7, [wRx .fresh (wPh 0 5 3 0 0 0 0)])] })] }

def sFabricPackets6 : State :=
  { State.reset with links := [(3, { wUp with rx := [(28, [wRx .fresh (wPh 0 5 1 0 0 0 0)])] })] }

theorem wit_FabricPackets_1 (ob : Obligations.FabricPackets) : Completes (.packetRoute 3 24) sFabricPackets1 (fun _ => True) := by
  have h := ob.1 sFabricPackets1 3 24 (wRx .fresh (wPh 0 5 0 0 0 0 0))
  repeat specialize h (by first | decide +kernel | exact calm_by (by decide +kernel) | with_reducible rfl | exact fun hh => absurd hh (by decide +kernel))
  have h := h.1
  repeat specialize h (by first | decide +kernel | exact calm_by (by decide +kernel) | with_reducible rfl | exact fun hh => absurd hh (by decide +kernel))
  exact comes h

theorem wit_FabricPackets_2 (ob : Obligations.FabricPackets) : Completes (.packetRoute 3 24) sFabricPackets2 (fun _ => True) := by
  have h := ob.1 sFabricPackets2 3 24 (wRx .fresh (wPh 0 0 3 0 0 0 0))
  repeat specialize h (by first | decide +kernel | exact calm_by (by decide +kernel) | with_reducible rfl | exact fun hh => absurd hh (by decide +kernel))
  have h := h.2.1
  repeat specialize h (by first | decide +kernel | exact calm_by (by decide +kernel) | with_reducible rfl | exact fun hh => absurd hh (by decide +kernel))
  exact comes h

theorem wit_FabricPackets_3 (ob : Obligations.FabricPackets) : Completes (.packetRoute 3 24) sFabricPackets3 (fun _ => True) := by
  have h := ob.1 sFabricPackets3 3 24 (wRx .fresh (wPh 0 5 3 0 0 0 0))
  repeat specialize h (by first | decide +kernel | exact calm_by (by decide +kernel) | with_reducible rfl | exact fun hh => absurd hh (by decide +kernel))
  have h := h.2.2
  repeat specialize h (by first | decide +kernel | exact calm_by (by decide +kernel) | with_reducible rfl | exact fun hh => absurd hh (by decide +kernel))
  have h := h.2.2.1 2 (outVc wRouted) (outHdr wRouted) (outAlt wRouted) 4
  repeat specialize h (by first | decide +kernel | exact calm_by (by decide +kernel) | with_reducible rfl | exact fun hh => absurd hh (by decide +kernel))
  exact comes h

theorem wit_FabricPackets_4 (ob : Obligations.FabricPackets) : Completes (.escapeTimeout 2 3) sFabricPackets4 (fun _ => True) := by
  have h := ob.2 sFabricPackets4 2 4 3 [] ⟨1, 3, flitsOf 3 (wPh 0 5 3 0 0 0 0), true, none, false, 5, none, false⟩
  repeat specialize h (by first | decide +kernel | exact calm_by (by decide +kernel) | with_reducible rfl | exact fun hh => absurd hh (by decide +kernel))
  exact comes h

theorem wit_FabricPackets_5 (ob : Obligations.FabricPackets) : Completes (.packetRoute 3 7) sFabricPackets5 (fun _ => True) := by
  have h := ob.1 sFabricPackets5 3 7 (wRx .fresh (wPh 0 5 3 0 0 0 0))
  repeat specialize h (by first | decide +kernel | exact calm_by (by decide +kernel) | with_reducible rfl | exact fun hh => absurd hh (by decide +kernel))
  have h := h.2.2
  repeat specialize h (by first | decide +kernel | exact calm_by (by decide +kernel) | with_reducible rfl | exact fun hh => absurd hh (by decide +kernel))
  have h := h.1
  repeat specialize h (by first | decide +kernel | exact calm_by (by decide +kernel) | with_reducible rfl | exact fun hh => absurd hh (by decide +kernel))
  exact comes h

theorem wit_FabricPackets_6 (ob : Obligations.FabricPackets) : Completes (.packetRoute 3 28) sFabricPackets6 (fun _ => True) := by
  have h := ob.1 sFabricPackets6 3 28 (wRx .fresh (wPh 0 5 1 0 0 0 0))
  repeat specialize h (by first | decide +kernel | exact calm_by (by decide +kernel) | with_reducible rfl | exact fun hh => absurd hh (by decide +kernel))
  have h := h.2.2
  repeat specialize h (by first | decide +kernel | exact calm_by (by decide +kernel) | with_reducible rfl | exact fun hh => absurd hh (by decide +kernel))
  have h := h.2.1
  repeat specialize h (by first | decide +kernel | exact calm_by (by decide +kernel) | with_reducible rfl | exact fun hh => absurd hh (by decide +kernel))
  exact comes h

def sFlowsKept1 : State :=
  wFab [(wRx .local_ (wPh 0 0 3 5 1 0 0))] (wUp) [] [wRf 0] [] []

def sFlowsKept2 : State :=
  wFab [(wRx .local_ (wPh 0 0 3 6 1 0 0))] (wUp) [] [wRf 0] [] []

def sFlowsKept3 : State :=
  wFab [(wRx .local_ (wPh 0 0 3 6 1 0 0))] (wUp) [] [wRf 0] [(512, wCe 1 0)] []

def sFlowsKept4 : State :=
  wFab [] (wUp) [] [wRf 1] [] []

def sFlowsKept5 : State :=
  wFab [] (wUp) [wSf [⟨3, wPh 0 1 3 3 1 0 0, [], 0, 0, 0⟩]] [] [] []

def sFlowsKept6 : State :=
  wFab [] (wUp) [wSf [⟨3, wPh 0 1 3 3 1 0 0, [], 15, 0, 0⟩]] [] [] []

/-- A packet with a tag, whose tag passes when the free value says so (R375). -/
theorem gcmPasses {key nonce : Nat} {aad body : List Byte} (h : (decide (body.length < 16) || decide (key = 0)) = false)
    (g : Config.gcmOk key nonce aad body = true) :
    gcmOpen key nonce aad body = some ((List.range (body.length - 16)).map (Config.gcmPlain key nonce aad body)) := by
  simp only [Bool.or_eq_false_iff, decide_eq_false_iff_not] at h
  simp [gcmOpen, h.1, h.2, g]

def wTagged (h : List Byte) : RxPkt := ⟨1, flitsOf 24 (h ++ List.replicate 16 0), 1, true, .local_, 0⟩
def wKeyed (s : State) : State := { s with parts := [(2, { Part.none_ with st := 2, units := 1, fab0 := 5 })] }
def wGcm (s : State) (dpart dev spart vc kslot seq : Nat) (q : RxPkt) : Bool :=
  Config.gcmOk (fabKey s dpart kslot) (fabNonce dev (ownDev s) spart dpart vc kslot seq) (fabAad (pktHdr q.flits)) ((bodyOf q.flits).drop 32)
def wPlain (s : State) (dpart dev spart vc kslot seq : Nat) (q : RxPkt) : List Byte :=
  (List.range (((bodyOf q.flits).drop 32).length - 16)).map
    (Config.gcmPlain (fabKey s dpart kslot) (fabNonce dev (ownDev s) spart dpart vc kslot seq) (fabAad (pktHdr q.flits)) ((bodyOf q.flits).drop 32))
def wAccPkt : RxPkt := wTagged (wPh 0 0 3 6 1 0 0)
def wAckHdr : List Byte := mkHdr 1 0 0 1 0 0 2 1 3 4 (beBytes 6 5 ++ beBytes 1 2 ++ beBytes 1 0 ++ beBytes 8 0)
def wAckPkt : RxPkt := wTagged wAckHdr

def sFlowsKept7 : State :=
  wKeyed (wFab [wAccPkt] wUp [] [wRf 6] [(512, wCe 1 0)] [])

def sFlowsKept8 : State :=
  wKeyed (wFab [wAccPkt] wUp [] [wRf 7] [(512, wCe 1 0)] [])

def sFlowsKept9 : State :=
  wKeyed (wFab [wAckPkt] wUp [wSf [⟨3, wPh 0 1 3 3 1 0 0, [], 0, 0, 0⟩]] [] [] [])

theorem wit_FlowsKept_1 (ob : Obligations.FlowsKept) : Completes (.packetAccept 3 24) sFlowsKept1 (fun _ => True) := by
  have h := ob sFlowsKept1
  repeat specialize h (by first | decide +kernel | exact calm_by (by decide +kernel) | with_reducible rfl | exact fun hh => absurd hh (by decide +kernel))
  have h := h.1 3 24 (wRx .local_ (wPh 0 0 3 5 1 0 0))
  repeat specialize h (by first | decide +kernel | exact calm_by (by decide +kernel) | with_reducible rfl | exact fun hh => absurd hh (by decide +kernel))
  have h := h.1 (wRf 0) (2)
  repeat specialize h (by first | decide +kernel | exact calm_by (by decide +kernel) | with_reducible rfl | exact fun hh => absurd hh (by decide +kernel))
  have h := h.1 (.inl (by decide +kernel))
  exact comes h

theorem wit_FlowsKept_2 (ob : Obligations.FlowsKept) : Completes (.packetAccept 3 24) sFlowsKept2 (fun _ => True) := by
  have h := ob sFlowsKept2
  repeat specialize h (by first | decide +kernel | exact calm_by (by decide +kernel) | with_reducible rfl | exact fun hh => absurd hh (by decide +kernel))
  have h := h.1 3 24 (wRx .local_ (wPh 0 0 3 6 1 0 0))
  repeat specialize h (by first | decide +kernel | exact calm_by (by decide +kernel) | with_reducible rfl | exact fun hh => absurd hh (by decide +kernel))
  have h := h.1 (wRf 0) (2)
  repeat specialize h (by first | decide +kernel | exact calm_by (by decide +kernel) | with_reducible rfl | exact fun hh => absurd hh (by decide +kernel))
  have h := h.2
  repeat specialize h (by first | decide +kernel | exact calm_by (by decide +kernel) | with_reducible rfl | exact fun hh => absurd hh (by decide +kernel))
  have h := h.1
  repeat specialize h (by first | decide +kernel | exact calm_by (by decide +kernel) | with_reducible rfl | exact fun hh => absurd hh (by decide +kernel))
  exact comes h

theorem wit_FlowsKept_3 (ob : Obligations.FlowsKept) : Completes (.packetAccept 3 24) sFlowsKept3 (fun _ => True) := by
  have h := ob sFlowsKept3
  repeat specialize h (by first | decide +kernel | exact calm_by (by decide +kernel) | with_reducible rfl | exact fun hh => absurd hh (by decide +kernel))
  have h := h.1 3 24 (wRx .local_ (wPh 0 0 3 6 1 0 0))
  repeat specialize h (by first | decide +kernel | exact calm_by (by decide +kernel) | with_reducible rfl | exact fun hh => absurd hh (by decide +kernel))
  have h := h.1 (wRf 0) (2)
  repeat specialize h (by first | decide +kernel | exact calm_by (by decide +kernel) | with_reducible rfl | exact fun hh => absurd hh (by decide +kernel))
  have h := h.2
  repeat specialize h (by first | decide +kernel | exact calm_by (by decide +kernel) | with_reducible rfl | exact fun hh => absurd hh (by decide +kernel))
  have h := h.2 (wCe 1 0)
  repeat specialize h (by first | decide +kernel | exact calm_by (by decide +kernel) | with_reducible rfl | exact fun hh => absurd hh (by decide +kernel))
  have h := h.1
  repeat specialize h (by first | decide +kernel | exact calm_by (by decide +kernel) | with_reducible rfl | exact fun hh => absurd hh (by decide +kernel))
  exact comes h

theorem wit_FlowsKept_4 (ob : Obligations.FlowsKept) : Completes (.ackTimer 8) sFlowsKept4 (fun _ => True) := by
  have h := ob sFlowsKept4
  repeat specialize h (by first | decide +kernel | exact calm_by (by decide +kernel) | with_reducible rfl | exact fun hh => absurd hh (by decide +kernel))
  have h := h.2.1 8 2 4 (wRf 1)
  repeat specialize h (by first | decide +kernel | exact calm_by (by decide +kernel) | with_reducible rfl | exact fun hh => absurd hh (by decide +kernel))
  exact comes h

theorem wit_FlowsKept_5 (ob : Obligations.FlowsKept) : Completes (.resendTimeout 7 3) sFlowsKept5 (fun _ => True) := by
  have h := ob sFlowsKept5
  repeat specialize h (by first | decide +kernel | exact calm_by (by decide +kernel) | with_reducible rfl | exact fun hh => absurd hh (by decide +kernel))
  have h := h.2.2 7 3 (wSf [⟨3, wPh 0 1 3 3 1 0 0, [], 0, 0, 0⟩]) ⟨3, wPh 0 1 3 3 1 0 0, [], 0, 0, 0⟩
  repeat specialize h (by first | decide +kernel | exact calm_by (by decide +kernel) | with_reducible rfl | exact fun hh => absurd hh (by decide +kernel))
  have h := h.1
  repeat specialize h (by first | decide +kernel | exact calm_by (by decide +kernel) | with_reducible rfl | exact fun hh => absurd hh (by decide +kernel))
  have h := h (fun p => ⟨rfl, wNoPort (by decide +kernel) p⟩)
  repeat specialize h (by first | decide +kernel | exact calm_by (by decide +kernel) | with_reducible rfl | exact fun hh => absurd hh (by decide +kernel))
  exact comes h

theorem wit_FlowsKept_6 (ob : Obligations.FlowsKept) : Completes (.resendTimeout 7 3) sFlowsKept6 (fun _ => True) := by
  have h := ob sFlowsKept6
  repeat specialize h (by first | decide +kernel | exact calm_by (by decide +kernel) | with_reducible rfl | exact fun hh => absurd hh (by decide +kernel))
  have h := h.2.2 7 3 (wSf [⟨3, wPh 0 1 3 3 1 0 0, [], 15, 0, 0⟩]) ⟨3, wPh 0 1 3 3 1 0 0, [], 15, 0, 0⟩
  repeat specialize h (by first | decide +kernel | exact calm_by (by decide +kernel) | with_reducible rfl | exact fun hh => absurd hh (by decide +kernel))
  have h := h.2
  repeat specialize h (by first | decide +kernel | exact calm_by (by decide +kernel) | with_reducible rfl | exact fun hh => absurd hh (by decide +kernel))
  exact comes h

theorem wit_FlowsKept_7 (ob : Obligations.FlowsKept) (g : wGcm sFlowsKept7 2 1 1 2 0 6 wAccPkt = true) : Completes (.packetAccept 3 24) sFlowsKept7 (fun _ => True) := by
  have h := ob sFlowsKept7
  repeat specialize h (by first | decide +kernel | exact calm_by (by decide +kernel) | with_reducible rfl | exact fun hh => absurd hh (by decide +kernel))
  have h := h.1 3 24 wAccPkt
  repeat specialize h (by first | decide +kernel | exact calm_by (by decide +kernel) | with_reducible rfl | exact fun hh => absurd hh (by decide +kernel))
  have h := h.1 (wRf 6) 2
  repeat specialize h (by first | decide +kernel | exact calm_by (by decide +kernel) | with_reducible rfl | exact fun hh => absurd hh (by decide +kernel))
  have h := h.2
  repeat specialize h (by first | decide +kernel | exact calm_by (by decide +kernel) | with_reducible rfl | exact fun hh => absurd hh (by decide +kernel))
  have h := h.2 (wCe 1 0)
  repeat specialize h (by first | decide +kernel | exact calm_by (by decide +kernel) | with_reducible rfl | exact fun hh => absurd hh (by decide +kernel))
  have h := h.2 _ (gcmPasses (by decide +kernel) g)
  repeat specialize h (by first | decide +kernel | exact calm_by (by decide +kernel) | with_reducible rfl | exact fun hh => absurd hh (by decide +kernel))
  have h := h.1
  repeat specialize h (by first | decide +kernel | exact calm_by (by decide +kernel) | with_reducible rfl | exact fun hh => absurd hh (by decide +kernel))
  exact comes h

theorem wit_FlowsKept_8 (ob : Obligations.FlowsKept) (g : wGcm sFlowsKept8 2 1 1 2 0 6 wAccPkt = true) : Completes (.packetAccept 3 24) sFlowsKept8 (fun _ => True) := by
  have h := ob sFlowsKept8
  repeat specialize h (by first | decide +kernel | exact calm_by (by decide +kernel) | with_reducible rfl | exact fun hh => absurd hh (by decide +kernel))
  have h := h.1 3 24 wAccPkt
  repeat specialize h (by first | decide +kernel | exact calm_by (by decide +kernel) | with_reducible rfl | exact fun hh => absurd hh (by decide +kernel))
  have h := h.1 (wRf 7) 2
  repeat specialize h (by first | decide +kernel | exact calm_by (by decide +kernel) | with_reducible rfl | exact fun hh => absurd hh (by decide +kernel))
  have h := h.2
  repeat specialize h (by first | decide +kernel | exact calm_by (by decide +kernel) | with_reducible rfl | exact fun hh => absurd hh (by decide +kernel))
  have h := h.2 (wCe 1 0)
  repeat specialize h (by first | decide +kernel | exact calm_by (by decide +kernel) | with_reducible rfl | exact fun hh => absurd hh (by decide +kernel))
  have h := h.2 _ (gcmPasses (by decide +kernel) g)
  repeat specialize h (by first | decide +kernel | exact calm_by (by decide +kernel) | with_reducible rfl | exact fun hh => absurd hh (by decide +kernel))
  have h := h.2
  repeat specialize h (by first | decide +kernel | exact calm_by (by decide +kernel) | with_reducible rfl | exact fun hh => absurd hh (by decide +kernel))
  have h := h (fun p => wNoPort (by decide +kernel) p)
  exact comes h

theorem wit_FlowsKept_9 (ob : Obligations.FlowsKept) (g : wGcm sFlowsKept9 2 1 1 2 0 4 wAckPkt = true) : Completes (.ackReceive 3 24) sFlowsKept9 (fun _ => True) := by
  have h := ob sFlowsKept9
  repeat specialize h (by first | decide +kernel | exact calm_by (by decide +kernel) | with_reducible rfl | exact fun hh => absurd hh (by decide +kernel))
  have h := h.1 3 24 wAckPkt
  repeat specialize h (by first | decide +kernel | exact calm_by (by decide +kernel) | with_reducible rfl | exact fun hh => absurd hh (by decide +kernel))
  have h := h.2 (wSf [⟨3, wPh 0 1 3 3 1 0 0, [], 0, 0, 0⟩]) (wPlain sFlowsKept9 2 1 1 2 0 4 wAckPkt)
  repeat specialize h (by first | decide +kernel | exact calm_by (by decide +kernel) | with_reducible rfl | exact fun hh => absurd hh (by decide +kernel))
  have h := h (gcmPasses (by decide +kernel) g)
  repeat specialize h (by first | decide +kernel | exact calm_by (by decide +kernel) | with_reducible rfl | exact fun hh => absurd hh (by decide +kernel))
  exact comes h

def sNeighboursFound1 : State :=
  wFab [] (wUp) [] [] [] []

def sNeighboursFound2 : State :=
  wFab [(wRx .local_ (mkHdr 2 0 65535 1 0 0 0 0 1 0 (List.replicate 14 0 ++ beBytes 2 19) ++ (beBytes 2 1 ++ beBytes 1 0 ++ beBytes 8 1 ++ beBytes 8 77)))] (wUp) [] [] [] [(R.lnkCfg 3, 2 + 2 ^ 8 * 2), (R.secPeerP 2, 77)]

def sNeighboursFound3 : State :=
  { wFab [(wRx .local_ (mkHdr 2 0 65535 1 0 0 0 0 1 0 (List.replicate 14 0 ++ beBytes 2 19) ++ (beBytes 2 1 ++ beBytes 1 0 ++ beBytes 8 9 ++ beBytes 8 77)))] (wUp) [] [] [] [(R.lnkCfg 3, 2 + 2 ^ 8 * 2), (R.lnkPortCfgP 2, 2 ^ 3 + 2 ^ 20), (R.secPeerP 2, 77), (R.fabTopoHash, 9)] with ports := [(2, ⟨0, false, 0, true, false, false⟩)] }

def sNeighboursFound4 : State :=
  wFab [(wRx .local_ (mkHdr 2 0 65535 1 0 0 0 0 1 0 (List.replicate 14 0 ++ beBytes 2 19) ++ (beBytes 2 1 ++ beBytes 1 0 ++ beBytes 8 1 ++ beBytes 8 78)))] (wUp) [] [] [] [(R.lnkCfg 3, 2 + 2 ^ 8 * 2), (R.secPeerP 2, 77)]

def sNeighboursFound5 : State :=
  { wFab [] (wUp) [] [] [] [(R.lnkCfg 3, 2 + 2 ^ 8 * 2), (R.lnkPortCfgP 2, 2 ^ 3 + 2 ^ 20), (R.fabTopo, 1 + 2 ^ 4 * 1 + 2 ^ 8 * 1), (R.lnkPartner 3, 2 ^ 28 + 16 + 2 ^ 21 * 3)] with ports := [(2, ⟨0, false, 0, false, true, false⟩)] }

def sNeighboursFound6 : State :=
  wFab [] (wUp) [] [] [] [(R.lnkCfg 3, 2 + 2 ^ 8 * 2), (R.lnkPortCfgP 2, 2 ^ 3 + 2 ^ 20), (R.lnkPartner 3, 2 ^ 28 + 7)]

def sNeighboursFound8 : State :=
  { wFab [] (wUp) [] [] [] [(R.lnkPortCfgP 2, 2 ^ 3 + 2 ^ 20)] with ports := [(2, ⟨0, false, 0, true, true, true⟩)] }

theorem wit_NeighboursFound_1 (ob : Obligations.NeighboursFound) : Completes (.discSend 4) sNeighboursFound1 (fun _ => True) := by
  have h := ob sNeighboursFound1
  repeat specialize h (by first | decide +kernel | exact calm_by (by decide +kernel) | with_reducible rfl | exact fun hh => absurd hh (by decide +kernel))
  have h := h.1 (4)
  repeat specialize h (by first | decide +kernel | exact calm_by (by decide +kernel) | with_reducible rfl | exact fun hh => absurd hh (by decide +kernel))
  exact comes h

theorem wit_NeighboursFound_2 (ob : Obligations.NeighboursFound) : Completes (.discReceive 3 24) sNeighboursFound2 (fun _ => True) := by
  have h := ob sNeighboursFound2
  repeat specialize h (by first | decide +kernel | exact calm_by (by decide +kernel) | with_reducible rfl | exact fun hh => absurd hh (by decide +kernel))
  have h := h.2.1 3 24 (wRx .local_ (mkHdr 2 0 65535 1 0 0 0 0 1 0 (List.replicate 14 0 ++ beBytes 2 19) ++ (beBytes 2 1 ++ beBytes 1 0 ++ beBytes 8 1 ++ beBytes 8 77)))
  repeat specialize h (by first | decide +kernel | exact calm_by (by decide +kernel) | with_reducible rfl | exact fun hh => absurd hh (by decide +kernel))
  have h := h.1
  repeat specialize h (by first | decide +kernel | exact calm_by (by decide +kernel) | with_reducible rfl | exact fun hh => absurd hh (by decide +kernel))
  have h := h.1
  repeat specialize h (by first | decide +kernel | exact calm_by (by decide +kernel) | with_reducible rfl | exact fun hh => absurd hh (by decide +kernel))
  exact comes h

theorem wit_NeighboursFound_3 (ob : Obligations.NeighboursFound) : Completes (.discReceive 3 24) sNeighboursFound3 (fun _ => True) := by
  have h := ob sNeighboursFound3
  repeat specialize h (by first | decide +kernel | exact calm_by (by decide +kernel) | with_reducible rfl | exact fun hh => absurd hh (by decide +kernel))
  have h := h.2.1 3 24 (wRx .local_ (mkHdr 2 0 65535 1 0 0 0 0 1 0 (List.replicate 14 0 ++ beBytes 2 19) ++ (beBytes 2 1 ++ beBytes 1 0 ++ beBytes 8 9 ++ beBytes 8 77)))
  repeat specialize h (by first | decide +kernel | exact calm_by (by decide +kernel) | with_reducible rfl | exact fun hh => absurd hh (by decide +kernel))
  have h := h.1
  repeat specialize h (by first | decide +kernel | exact calm_by (by decide +kernel) | with_reducible rfl | exact fun hh => absurd hh (by decide +kernel))
  have h := h.2
  repeat specialize h (by first | decide +kernel | exact calm_by (by decide +kernel) | with_reducible rfl | exact fun hh => absurd hh (by decide +kernel))
  exact comes h

theorem wit_NeighboursFound_4 (ob : Obligations.NeighboursFound) : Completes (.discReceive 3 24) sNeighboursFound4 (fun _ => True) := by
  have h := ob sNeighboursFound4
  repeat specialize h (by first | decide +kernel | exact calm_by (by decide +kernel) | with_reducible rfl | exact fun hh => absurd hh (by decide +kernel))
  have h := h.2.1 3 24 (wRx .local_ (mkHdr 2 0 65535 1 0 0 0 0 1 0 (List.replicate 14 0 ++ beBytes 2 19) ++ (beBytes 2 1 ++ beBytes 1 0 ++ beBytes 8 1 ++ beBytes 8 78)))
  repeat specialize h (by first | decide +kernel | exact calm_by (by decide +kernel) | with_reducible rfl | exact fun hh => absurd hh (by decide +kernel))
  have h := h.2
  repeat specialize h (by first | decide +kernel | exact calm_by (by decide +kernel) | with_reducible rfl | exact fun hh => absurd hh (by decide +kernel))
  exact comes h

theorem wit_NeighboursFound_5 (ob : Obligations.NeighboursFound) : Completes (.portDiscovery 2) sNeighboursFound5 (fun _ => True) := by
  have h := ob sNeighboursFound5
  repeat specialize h (by first | decide +kernel | exact calm_by (by decide +kernel) | with_reducible rfl | exact fun hh => absurd hh (by decide +kernel))
  have h := h.2.2.1 2 3 []
  repeat specialize h (by first | decide +kernel | exact calm_by (by decide +kernel) | with_reducible rfl | exact fun hh => absurd hh (by decide +kernel))
  have h := h.1
  repeat specialize h (by first | decide +kernel | exact calm_by (by decide +kernel) | with_reducible rfl | exact fun hh => absurd hh (by decide +kernel))
  exact comes h

theorem wit_NeighboursFound_6 (ob : Obligations.NeighboursFound) : Completes (.portDiscovery 2) sNeighboursFound6 (fun _ => True) := by
  have h := ob sNeighboursFound6
  repeat specialize h (by first | decide +kernel | exact calm_by (by decide +kernel) | with_reducible rfl | exact fun hh => absurd hh (by decide +kernel))
  have h := h.2.2.1 2 3 []
  repeat specialize h (by first | decide +kernel | exact calm_by (by decide +kernel) | with_reducible rfl | exact fun hh => absurd hh (by decide +kernel))
  have h := h.2
  repeat specialize h (by first | decide +kernel | exact calm_by (by decide +kernel) | with_reducible rfl | exact fun hh => absurd hh (by decide +kernel))
  exact comes h

theorem wit_NeighboursFound_7 (ob : Obligations.NeighboursFound) : Completes (.peerChangedClear 2) State.reset (fun _ => True) := by
  have h := ob State.reset
  repeat specialize h (by first | decide +kernel | exact calm_by (by decide +kernel) | with_reducible rfl | exact fun hh => absurd hh (by decide +kernel))
  have h := h.2.2.2.1 (2)
  repeat specialize h (by first | decide +kernel | exact calm_by (by decide +kernel) | with_reducible rfl | exact fun hh => absurd hh (by decide +kernel))
  exact comes h

theorem wit_NeighboursFound_8 (ob : Obligations.NeighboursFound) : Completes (.peerChangedClear 2) sNeighboursFound8 (fun _ => True) := by
  have h := ob sNeighboursFound8
  repeat specialize h (by first | decide +kernel | exact calm_by (by decide +kernel) | with_reducible rfl | exact fun hh => absurd hh (by decide +kernel))
  have h := h.2.2.2.2 (2)
  repeat specialize h (by first | decide +kernel | exact calm_by (by decide +kernel) | with_reducible rfl | exact fun hh => absurd hh (by decide +kernel))
  exact comes h

/-- Partition 2 with collective entries, messages accepted, and registers. -/
def wCo (co : List (Nat × ColEnt)) (m : List ColMsg) (r : List (Reg × Nat)) : State :=
  (wRt ++ r).foldl (fun s e => wr s e.1 e.2) { wF Hearth.fresh [] with cols := co, colIn := m }
/-- Partition 2 with a collective table of one entry, and its group. -/
def wTab (bytes : Nat) : State :=
  let s := wF Hearth.fresh [(65536 * 33, leBytes 64 2), (65536 * 33 + 64, leBytes 8 (2 ^ 16 * 2) ++ leBytes 8 (1 + 2 ^ 16)), (65536 * 33 + 128, leBytes 64 bytes)]
  ([(R.colPartTableP 2, 65536 + 128 + 2 ^ 48)] ++ wRt).foldl (fun (s : State) (e : Reg × Nat) => wr s e.1 e.2)
    { s with parts := [(2, { Part.none_ with st := 2, units := 1, lo := 0, blks := 1, key0 := 1, fab0 := 9 })] }
def wTl (s : State) : Except (Nat × Nat) (List ColEnt) × State :=
  tableLoad (quiet s) 2 (rdf s (R.colPartTableP 2) 0 48) 0 (rdf s (R.colPartTableP 2) 48 9)
theorem exw {ε α : Type} {x : Except ε α × State} {a : α} (h : x.1.toOption = some a) : x = (.ok a, x.2) := by
  obtain ⟨b, c⟩ := x; cases b <;> simp_all [Except.toOption]
theorem exOkEq {ε α : Type} {x : Except ε α} {a : α} (h : x.toOption = some a) : x = .ok a := by
  cases x <;> simp_all [Except.toOption]
def exErr {ε α : Type} (x : Except ε α) : Option ε := match x with | .error e => some e | .ok _ => none
theorem exe {ε α : Type} {x : Except ε α × State} {a : ε} (h : exErr x.1 = some a) : x = (.error a, x.2) := by
  obtain ⟨b, c⟩ := x; cases b <;> simp_all [exErr]

theorem exErrEq {ε α : Type} {x : Except ε α} {a : ε} (h : exErr x = some a) : x = .error a := by
  cases x <;> simp_all [exErr]

def sCollectiveTables1 : State :=
  wTab (wRaw 2 0)

def sCollectiveTables2 : State :=
  wTab 0

def sCollectiveTables3 : State :=
  wCo [(512, wCe 2 0)] [] [(R.colPartCtrlP 2, 8)]

def sCollectiveTables4 : State :=
  wCo [(512, { wCe 2 0 with st := 3 })] [] []

def sCollectiveTables5 : State :=
  wCo [(512, wCe 2 1)] [] []

def sCollectiveTables6 : State :=
  wCo [(512, wCe 6 1)] [] []

def sCollectiveTables8 : State :=
  wCo [(512, { wCe 2 0 with cnt := [(0, 256)] })] [] []

def sCollectiveTables9 : State :=
  wCo [(512, { wCe 2 0 with flight := [3, 4] })] [] []

def sCollectiveTables10 : State :=
  wCo [(512, { wCe 2 0 with st := 2, wrote := [0] })] [] []

theorem wit_CollectiveTables_1 (ob : Obligations.CollectiveTables) : Completes (.colLoad 2) sCollectiveTables1 (fun _ => True) := by
  have h := ob sCollectiveTables1 2
  repeat specialize h (by first | decide +kernel | exact calm_by (by decide +kernel) | with_reducible rfl | exact fun hh => absurd hh (by decide +kernel))
  have h := h.1
  repeat specialize h (by first | decide +kernel | exact calm_by (by decide +kernel) | with_reducible rfl | exact fun hh => absurd hh (by decide +kernel))
  have h := h.1 [wCe 2 0] (exOkEq (x := (wTl sCollectiveTables1).1) (by decide +kernel))
  repeat specialize h (by first | decide +kernel | exact calm_by (by decide +kernel) | with_reducible rfl | exact fun hh => absurd hh (by decide +kernel))
  have h := h.1
  repeat specialize h (by first | decide +kernel | exact calm_by (by decide +kernel) | with_reducible rfl | exact fun hh => absurd hh (by decide +kernel))
  exact comes h

theorem wit_CollectiveTables_2 (ob : Obligations.CollectiveTables) : Completes (.colLoad 2) sCollectiveTables2 (fun _ => True) := by
  have h := ob sCollectiveTables2 2
  repeat specialize h (by first | decide +kernel | exact calm_by (by decide +kernel) | with_reducible rfl | exact fun hh => absurd hh (by decide +kernel))
  have h := h.1
  repeat specialize h (by first | decide +kernel | exact calm_by (by decide +kernel) | with_reducible rfl | exact fun hh => absurd hh (by decide +kernel))
  have h := h.2 1 0 (exErrEq (x := (wTl sCollectiveTables2).1) (by decide +kernel))
  repeat specialize h (by first | decide +kernel | exact calm_by (by decide +kernel) | with_reducible rfl | exact fun hh => absurd hh (by decide +kernel))
  exact comes h

theorem wit_CollectiveTables_3 (ob : Obligations.CollectiveTables) : Completes (.colUnload 2) sCollectiveTables3 (fun _ => True) := by
  have h := ob sCollectiveTables3 2
  repeat specialize h (by first | decide +kernel | exact calm_by (by decide +kernel) | with_reducible rfl | exact fun hh => absurd hh (by decide +kernel))
  have h := h.2.1
  repeat specialize h (by first | decide +kernel | exact calm_by (by decide +kernel) | with_reducible rfl | exact fun hh => absurd hh (by decide +kernel))
  have h := h.1
  repeat specialize h (by first | decide +kernel | exact calm_by (by decide +kernel) | with_reducible rfl | exact fun hh => absurd hh (by decide +kernel))
  exact comes h

theorem wit_CollectiveTables_4 (ob : Obligations.CollectiveTables) : Completes (.colReset 2 0) sCollectiveTables4 (fun _ => True) := by
  have h := ob sCollectiveTables4 2
  repeat specialize h (by first | decide +kernel | exact calm_by (by decide +kernel) | with_reducible rfl | exact fun hh => absurd hh (by decide +kernel))
  have h := h.2.2 0 ({ wCe 2 0 with st := 3 })
  repeat specialize h (by first | decide +kernel | exact calm_by (by decide +kernel) | with_reducible rfl | exact fun hh => absurd hh (by decide +kernel))
  have h := h.1
  repeat specialize h (by first | decide +kernel | exact calm_by (by decide +kernel) | with_reducible rfl | exact fun hh => absurd hh (by decide +kernel))
  exact comes h

theorem wit_CollectiveTables_5 (ob : Obligations.CollectiveTables) : Completes (.colCtlFlush 2 0 0 256) sCollectiveTables5 (fun _ => True) := by
  have h := ob sCollectiveTables5 2
  repeat specialize h (by first | decide +kernel | exact calm_by (by decide +kernel) | with_reducible rfl | exact fun hh => absurd hh (by decide +kernel))
  have h := h.2.2 0 (wCe 2 1)
  repeat specialize h (by first | decide +kernel | exact calm_by (by decide +kernel) | with_reducible rfl | exact fun hh => absurd hh (by decide +kernel))
  have h := h.2.1 256
  repeat specialize h (by first | decide +kernel | exact calm_by (by decide +kernel) | with_reducible rfl | exact fun hh => absurd hh (by decide +kernel))
  have h := h.2.1
  repeat specialize h (by first | decide +kernel | exact calm_by (by decide +kernel) | with_reducible rfl | exact fun hh => absurd hh (by decide +kernel))
  exact comes h

theorem wit_CollectiveTables_6 (ob : Obligations.CollectiveTables) : Completes (.colCtlFlush 2 0 0 256) sCollectiveTables6 (fun _ => True) := by
  have h := ob sCollectiveTables6 2
  repeat specialize h (by first | decide +kernel | exact calm_by (by decide +kernel) | with_reducible rfl | exact fun hh => absurd hh (by decide +kernel))
  have h := h.2.2 0 (wCe 6 1)
  repeat specialize h (by first | decide +kernel | exact calm_by (by decide +kernel) | with_reducible rfl | exact fun hh => absurd hh (by decide +kernel))
  have h := h.2.1 256
  repeat specialize h (by first | decide +kernel | exact calm_by (by decide +kernel) | with_reducible rfl | exact fun hh => absurd hh (by decide +kernel))
  have h := h.2.2 (colRead (quiet sCollectiveTables6) 2 0 (ceAux (wCe 6 1).raw + 64) 512).2 ((colRead (quiet sCollectiveTables6) 2 0 (ceAux (wCe 6 1).raw + 64) 512).1.getD [])
  repeat specialize h (by first | decide +kernel | exact calm_by (by decide +kernel) | with_reducible rfl | exact fun hh => absurd hh (by decide +kernel))
  exact comes h

theorem wit_CollectiveTables_7 (ob : Obligations.CollectiveTables) : Completes (.colCtlFlush 2 0 5 256) sCollectiveTables5 (fun _ => True) := by
  have h := ob sCollectiveTables5 2
  repeat specialize h (by first | decide +kernel | exact calm_by (by decide +kernel) | with_reducible rfl | exact fun hh => absurd hh (by decide +kernel))
  have h := h.2.2 0 (wCe 2 1)
  repeat specialize h (by first | decide +kernel | exact calm_by (by decide +kernel) | with_reducible rfl | exact fun hh => absurd hh (by decide +kernel))
  have h := h.2.2.1 5 256
  repeat specialize h (by first | decide +kernel | exact calm_by (by decide +kernel) | with_reducible rfl | exact fun hh => absurd hh (by decide +kernel))
  exact comes h

theorem wit_CollectiveTables_8 (ob : Obligations.CollectiveTables) : Completes (.bucketStart 2 0 0) sCollectiveTables8 (fun _ => True) := by
  have h := ob sCollectiveTables8 2
  repeat specialize h (by first | decide +kernel | exact calm_by (by decide +kernel) | with_reducible rfl | exact fun hh => absurd hh (by decide +kernel))
  have h := h.2.2 0 ({ wCe 2 0 with cnt := [(0, 256)] })
  repeat specialize h (by first | decide +kernel | exact calm_by (by decide +kernel) | with_reducible rfl | exact fun hh => absurd hh (by decide +kernel))
  have h := h.2.2.2.1 0 (.inl rfl)
  repeat specialize h (by first | decide +kernel | exact calm_by (by decide +kernel) | with_reducible rfl | exact fun hh => absurd hh (by decide +kernel))
  exact comes h

theorem wit_CollectiveTables_9 (ob : Obligations.CollectiveTables) : Completes (.bucketStart 2 0 0) sCollectiveTables9 (fun _ => True) := by
  have h := ob sCollectiveTables9 2
  repeat specialize h (by first | decide +kernel | exact calm_by (by decide +kernel) | with_reducible rfl | exact fun hh => absurd hh (by decide +kernel))
  have h := h.2.2 0 ({ wCe 2 0 with flight := [3, 4] })
  repeat specialize h (by first | decide +kernel | exact calm_by (by decide +kernel) | with_reducible rfl | exact fun hh => absurd hh (by decide +kernel))
  have h := h.2.2.2.2.1 0
  repeat specialize h (by first | decide +kernel | exact calm_by (by decide +kernel) | with_reducible rfl | exact fun hh => absurd hh (by decide +kernel))
  exact comes h

theorem wit_CollectiveTables_10 (ob : Obligations.CollectiveTables) : Completes (.colInstanceComplete 2 0) sCollectiveTables10 (fun _ => True) := by
  have h := ob sCollectiveTables10 2
  repeat specialize h (by first | decide +kernel | exact calm_by (by decide +kernel) | with_reducible rfl | exact fun hh => absurd hh (by decide +kernel))
  have h := h.2.2 0 ({ wCe 2 0 with st := 2, wrote := [0] })
  repeat specialize h (by first | decide +kernel | exact calm_by (by decide +kernel) | with_reducible rfl | exact fun hh => absurd hh (by decide +kernel))
  have h := h.2.2.2.2.2
  repeat specialize h (by first | decide +kernel | exact calm_by (by decide +kernel) | with_reducible rfl | exact fun hh => absurd hh (by decide +kernel))
  have h := h.1
  repeat specialize h (by first | decide +kernel | exact calm_by (by decide +kernel) | with_reducible rfl | exact fun hh => absurd hh (by decide +kernel))
  exact comes h

/-- A table loaded without a key; an UNLOAD while an instance runs; a flush of a reduction, 2^24 bytes of its length; an instance whose next one was
written beyond full. -/
def sCollectiveTables11 : State :=
  { sCollectiveTables1 with parts := [(2, { Part.none_ with st := 2, units := 1, lo := 0, blks := 1, key0 := 1 })] }

def sCollectiveTables12 : State :=
  wCo [(512, { wCe 2 0 with st := 2 })] [] [(R.colPartCtrlP 2, 8)]

def sCollectiveTables13 : State :=
  wCo [(512, wCe 1 1)] [] []

def sCollectiveTables14 : State :=
  wCo [(512, { wCe 2 0 with st := 2, wrote := [0], cntN := [(0, 257)] })] [] []

theorem wit_CollectiveTables_11 (ob : Obligations.CollectiveTables) : Completes (.colLoad 2) sCollectiveTables11 (fun _ => True) := by
  have h := ob sCollectiveTables11 2
  repeat specialize h (by first | decide +kernel | exact calm_by (by decide +kernel) | with_reducible rfl | exact fun hh => absurd hh (by decide +kernel))
  have h := h.1
  repeat specialize h (by first | decide +kernel | exact calm_by (by decide +kernel) | with_reducible rfl | exact fun hh => absurd hh (by decide +kernel))
  have h := h.1 [wCe 2 0] (exOkEq (x := (wTl sCollectiveTables11).1) (by decide +kernel))
  repeat specialize h (by first | decide +kernel | exact calm_by (by decide +kernel) | with_reducible rfl | exact fun hh => absurd hh (by decide +kernel))
  have h := h.2 (.inl (by decide +kernel))
  repeat specialize h (by first | decide +kernel | exact calm_by (by decide +kernel) | with_reducible rfl | exact fun hh => absurd hh (by decide +kernel))
  exact comes h

theorem wit_CollectiveTables_12 (ob : Obligations.CollectiveTables) : Completes (.colUnload 2) sCollectiveTables12 (fun _ => True) := by
  have h := ob sCollectiveTables12 2
  repeat specialize h (by first | decide +kernel | exact calm_by (by decide +kernel) | with_reducible rfl | exact fun hh => absurd hh (by decide +kernel))
  have h := h.2.1
  repeat specialize h (by first | decide +kernel | exact calm_by (by decide +kernel) | with_reducible rfl | exact fun hh => absurd hh (by decide +kernel))
  have h := h.2
  repeat specialize h (by first | decide +kernel | exact calm_by (by decide +kernel) | with_reducible rfl | exact fun hh => absurd hh (by decide +kernel))
  exact comes h

theorem wit_CollectiveTables_13 (ob : Obligations.CollectiveTables) : Completes (.colCtlFlush 2 0 0 0) sCollectiveTables13 (fun _ => True) := by
  have h := ob sCollectiveTables13 2
  repeat specialize h (by first | decide +kernel | exact calm_by (by decide +kernel) | with_reducible rfl | exact fun hh => absurd hh (by decide +kernel))
  have h := h.2.2 0 (wCe 1 1)
  repeat specialize h (by first | decide +kernel | exact calm_by (by decide +kernel) | with_reducible rfl | exact fun hh => absurd hh (by decide +kernel))
  have h := h.2.1 0
  repeat specialize h (by first | decide +kernel | exact calm_by (by decide +kernel) | with_reducible rfl | exact fun hh => absurd hh (by decide +kernel))
  have h := h.1
  repeat specialize h (by first | decide +kernel | exact calm_by (by decide +kernel) | with_reducible rfl | exact fun hh => absurd hh (by decide +kernel))
  exact comes h

theorem wit_CollectiveTables_14 (ob : Obligations.CollectiveTables) : Completes (.colInstanceComplete 2 0) sCollectiveTables14 (fun _ => True) := by
  have h := ob sCollectiveTables14 2
  repeat specialize h (by first | decide +kernel | exact calm_by (by decide +kernel) | with_reducible rfl | exact fun hh => absurd hh (by decide +kernel))
  have h := h.2.2 0 ({ wCe 2 0 with st := 2, wrote := [0], cntN := [(0, 257)] })
  repeat specialize h (by first | decide +kernel | exact calm_by (by decide +kernel) | with_reducible rfl | exact fun hh => absurd hh (by decide +kernel))
  have h := h.2.2.2.2.2
  repeat specialize h (by first | decide +kernel | exact calm_by (by decide +kernel) | with_reducible rfl | exact fun hh => absurd hh (by decide +kernel))
  have h := h.2
  repeat specialize h (by first | decide +kernel | exact calm_by (by decide +kernel) | with_reducible rfl | exact fun hh => absurd hh (by decide +kernel))
  exact comes h

def sCollectiveOperations1 : State :=
  wCo [(512, { wCe 1 0 with st := 2, flight := [0] })] [] []

def sCollectiveOperations2 : State :=
  wCo [(512, { wCe 3 0 with st := 2, flight := [0] })] [] []

def sCollectiveOperations3 : State :=
  wCo [(512, { wCe 2 0 with st := 2, flight := [0] })] [] []

def sCollectiveOperations4 : State :=
  wCo [(512, { wCe 5 0 with st := 2, flight := [0] })] [] []

def sCollectiveOperations5 : State :=
  wCo [(512, { wCe 6 1 with st := 2, flight := [0], act := some 256 })] [] []

def sCollectiveOperations6 : State :=
  wCo [(512, { wCe 4 1 with st := 2, act := some 256 })] [] []

theorem wit_CollectiveOperations_1 (ob : Obligations.CollectiveOperations) : Completes (.reduceScatter 2 0 0) sCollectiveOperations1 (fun _ => True) := by
  have h := ob.1 sCollectiveOperations1 (colRead (quiet sCollectiveOperations1) 2 0 0 256).2 2 0 0 ({ wCe 1 0 with st := 2, flight := [0] }) ((colRead (quiet sCollectiveOperations1) 2 0 0 256).1.getD [])
  repeat specialize h (by first | decide +kernel | exact calm_by (by decide +kernel) | with_reducible rfl | exact fun hh => absurd hh (by decide +kernel))
  have h := h.1 (.reduceScatter 2 0 0, 1)
  repeat specialize h (by first | decide +kernel | exact calm_by (by decide +kernel) | with_reducible rfl | exact fun hh => absurd hh (by decide +kernel))
  exact comes h

theorem wit_CollectiveOperations_2 (ob : Obligations.CollectiveOperations) : Completes (.allReduce 2 0 0) sCollectiveOperations2 (fun _ => True) := by
  have h := ob.1 sCollectiveOperations2 (colRead (quiet sCollectiveOperations2) 2 0 0 256).2 2 0 0 ({ wCe 3 0 with st := 2, flight := [0] }) ((colRead (quiet sCollectiveOperations2) 2 0 0 256).1.getD [])
  repeat specialize h (by first | decide +kernel | exact calm_by (by decide +kernel) | with_reducible rfl | exact fun hh => absurd hh (by decide +kernel))
  have h := h.1 (.allReduce 2 0 0, 3)
  repeat specialize h (by first | decide +kernel | exact calm_by (by decide +kernel) | with_reducible rfl | exact fun hh => absurd hh (by decide +kernel))
  exact comes h

theorem wit_CollectiveOperations_3 (ob : Obligations.CollectiveOperations) : Completes (.allGather 2 0 0) sCollectiveOperations3 (fun _ => True) := by
  have h := ob.1 sCollectiveOperations3 (colRead (quiet sCollectiveOperations3) 2 0 0 256).2 2 0 0 ({ wCe 2 0 with st := 2, flight := [0] }) ((colRead (quiet sCollectiveOperations3) 2 0 0 256).1.getD [])
  repeat specialize h (by first | decide +kernel | exact calm_by (by decide +kernel) | with_reducible rfl | exact fun hh => absurd hh (by decide +kernel))
  have h := h.2.1
  repeat specialize h (by first | decide +kernel | exact calm_by (by decide +kernel) | with_reducible rfl | exact fun hh => absurd hh (by decide +kernel))
  exact comes h

theorem wit_CollectiveOperations_4 (ob : Obligations.CollectiveOperations) : Completes (.broadcast 2 0 0) sCollectiveOperations4 (fun _ => True) := by
  have h := ob.1 sCollectiveOperations4 (colRead (quiet sCollectiveOperations4) 2 0 0 256).2 2 0 0 ({ wCe 5 0 with st := 2, flight := [0] }) ((colRead (quiet sCollectiveOperations4) 2 0 0 256).1.getD [])
  repeat specialize h (by first | decide +kernel | exact calm_by (by decide +kernel) | with_reducible rfl | exact fun hh => absurd hh (by decide +kernel))
  have h := h.2.2 (.broadcast 2 0 0, 5)
  repeat specialize h (by first | decide +kernel | exact calm_by (by decide +kernel) | with_reducible rfl | exact fun hh => absurd hh (by decide +kernel))
  exact comes h

theorem wit_CollectiveOperations_5 (ob : Obligations.CollectiveOperations) : Completes (.multicast 2 0 0) sCollectiveOperations5 (fun _ => True) := by
  have h := ob.1 sCollectiveOperations5 (colRead (quiet sCollectiveOperations5) 2 0 0 256).2 2 0 0 ({ wCe 6 1 with st := 2, flight := [0], act := some 256 }) ((colRead (quiet sCollectiveOperations5) 2 0 0 256).1.getD [])
  repeat specialize h (by first | decide +kernel | exact calm_by (by decide +kernel) | with_reducible rfl | exact fun hh => absurd hh (by decide +kernel))
  have h := h.2.2 (.multicast 2 0 0, 6)
  repeat specialize h (by first | decide +kernel | exact calm_by (by decide +kernel) | with_reducible rfl | exact fun hh => absurd hh (by decide +kernel))
  exact comes h

theorem wit_CollectiveOperations_6 (ob : Obligations.CollectiveOperations) : Completes (.allToAll 2 0) sCollectiveOperations6 (fun _ => True) := by
  have h := ob.2 sCollectiveOperations6 2 0 256 ({ wCe 4 1 with st := 2, act := some 256 })
  repeat specialize h (by first | decide +kernel | exact calm_by (by decide +kernel) | with_reducible rfl | exact fun hh => absurd hh (by decide +kernel))
  exact comes h

def sCollectiveMessages1 : State :=
  wCo [(512, wCe 1 0)] [⟨2, 1, 1, 0, 1, 1, 0, 0, 0, false, List.replicate 4 3⟩] []

def sCollectiveMessages2 : State :=
  wCo [(512, { wCe 4 1 with st := 2, act := none })] [⟨2, 1, 1, 0, 3, 1, 0, 0, 0, false, List.replicate 4 3⟩] []

def sCollectiveMessages3 : State :=
  wCo [(512, wCe 1 0)] [⟨2, 1, 1, 0, 2, 1, 0, 0, 0, false, List.replicate 8 3⟩] []

def sCollectiveMessages4 : State :=
  wCo [(512, wCe 5 0)] [⟨2, 1, 1, 0, 4, 1, 0, 0, 0, false, List.replicate 8 3⟩] []

def sCollectiveMessages5 : State :=
  wCo [(512, { wCe 4 1 with st := 2, act := some 256 })] [⟨2, 1, 1, 0, 5, 1, 0, 0, 0, false, List.replicate 4 3⟩] []

def sCollectiveMessages6 : State :=
  wCo [(512, wCe 5 0)] [⟨2, 1, 1, 0, 6, 1, 0, 0, 0, false, List.replicate 0 3⟩] []

def sCollectiveMessages7 : State :=
  wCo [(512, wCe 5 0)] [⟨2, 1, 1, 0, 7, 1, 0, 0, 0, false, List.replicate 0 3⟩] []

def sCollectiveMessages8 : State :=
  wCo [(512, wCe 5 0)] [⟨2, 1, 1, 0, 8, 1, 0, 0, 0, false, List.replicate 0 3⟩] []

def sCollectiveMessages9 : State :=
  wCo [(512, wCe 2 0)] [⟨2, 1, 1, 0, 8, 1, 0, 0, 0, false, List.replicate 0 3⟩] []

def sCollectiveMessages10 : State :=
  wCo [(512, { wCe 2 0 with cnt := [(0, 256)] })] [⟨2, 1, 1, 0, 8, 1, 0, 0, 0, false, List.replicate 0 3⟩] []

def sCollectiveMessages11 : State :=
  wCo [(512, { ColEnt.load (wRaw 1 0 + 2 ^ 288 * 5) 2 0 wGrp 2 (actStart (wRaw 1 0)) with st := 2 })] [] []

def sCollectiveMessages12 : State :=
  wCo [(512, { ColEnt.load (wRaw 1 0 + 2 ^ 288 * 5) 2 0 [2 ^ 16 * 2, 1 + 2 ^ 16 + 2 ^ 20] 2 (actStart (wRaw 1 0)) with st := 2 })] [] []

def sCollectiveMessages13 : State :=
  wCo [(512, { ColEnt.load (wRaw 5 0 + 2 ^ 32) 2 0 wGrp 2 (some 256) with st := 2, fetches := [⟨0, 0, 1, false⟩] })] [] []

def sCollectiveMessages14 : State :=
  wCo [(512, { ColEnt.load (wRaw 5 0 + 2 ^ 32) 3 0 [2 ^ 16 * 2, 1 + 2 ^ 16 + 2 ^ 20 + 2 ^ 32 * 2, 2 + 2 ^ 16] 2 (some 256) with st := 2, fetches := [⟨0, 0, 1, false⟩] })] [] []

theorem wit_CollectiveMessages_1 (ob : Obligations.CollectiveMessages) : Completes (.contrib 0) sCollectiveMessages1 (fun _ => True) := by
  have h := ob.1 sCollectiveMessages1 0 ⟨2, 1, 1, 0, 1, 1, 0, 0, 0, false, List.replicate 4 3⟩ (wCe 1 0)
  repeat specialize h (by first | decide +kernel | exact calm_by (by decide +kernel) | with_reducible rfl | exact fun hh => absurd hh (by decide +kernel))
  have h := h.1
  repeat specialize h (by first | decide +kernel | exact calm_by (by decide +kernel) | with_reducible rfl | exact fun hh => absurd hh (by decide +kernel))
  have h := h.2.1
  repeat specialize h (by first | decide +kernel | exact calm_by (by decide +kernel) | with_reducible rfl | exact fun hh => absurd hh (by decide +kernel))
  exact comes h

theorem wit_CollectiveMessages_2 (ob : Obligations.CollectiveMessages) : Completes (.block 0) sCollectiveMessages2 (fun _ => True) := by
  have h := ob.1 sCollectiveMessages2 0 ⟨2, 1, 1, 0, 3, 1, 0, 0, 0, false, List.replicate 4 3⟩ ({ wCe 4 1 with st := 2, act := none })
  repeat specialize h (by first | decide +kernel | exact calm_by (by decide +kernel) | with_reducible rfl | exact fun hh => absurd hh (by decide +kernel))
  have h := h.2.1
  repeat specialize h (by first | decide +kernel | exact calm_by (by decide +kernel) | with_reducible rfl | exact fun hh => absurd hh (by decide +kernel))
  have h := h.2 (by rintro ⟨b, _⟩; exact absurd b (by decide))
  repeat specialize h (by first | decide +kernel | exact calm_by (by decide +kernel) | with_reducible rfl | exact fun hh => absurd hh (by decide +kernel))
  exact comes h

theorem wit_CollectiveMessages_3 (ob : Obligations.CollectiveMessages) : Completes (.result 0) sCollectiveMessages3 (fun _ => True) := by
  have h := ob.1 sCollectiveMessages3 0 ⟨2, 1, 1, 0, 2, 1, 0, 0, 0, false, List.replicate 8 3⟩ (wCe 1 0)
  repeat specialize h (by first | decide +kernel | exact calm_by (by decide +kernel) | with_reducible rfl | exact fun hh => absurd hh (by decide +kernel))
  have h := h.2.2.1
  repeat specialize h (by first | decide +kernel | exact calm_by (by decide +kernel) | with_reducible rfl | exact fun hh => absurd hh (by decide +kernel))
  exact comes h

theorem wit_CollectiveMessages_4 (ob : Obligations.CollectiveMessages) : Completes (.bcast 0) sCollectiveMessages4 (fun _ => True) := by
  have h := ob.1 sCollectiveMessages4 0 ⟨2, 1, 1, 0, 4, 1, 0, 0, 0, false, List.replicate 8 3⟩ (wCe 5 0)
  repeat specialize h (by first | decide +kernel | exact calm_by (by decide +kernel) | with_reducible rfl | exact fun hh => absurd hh (by decide +kernel))
  have h := h.2.2.2.1
  repeat specialize h (by first | decide +kernel | exact calm_by (by decide +kernel) | with_reducible rfl | exact fun hh => absurd hh (by decide +kernel))
  have h := h.1
  repeat specialize h (by first | decide +kernel | exact calm_by (by decide +kernel) | with_reducible rfl | exact fun hh => absurd hh (by decide +kernel))
  exact comes h

theorem wit_CollectiveMessages_5 (ob : Obligations.CollectiveMessages) : Completes (.counts 0) sCollectiveMessages5 (fun _ => True) := by
  have h := ob.1 sCollectiveMessages5 0 ⟨2, 1, 1, 0, 5, 1, 0, 0, 0, false, List.replicate 4 3⟩ ({ wCe 4 1 with st := 2, act := some 256 })
  repeat specialize h (by first | decide +kernel | exact calm_by (by decide +kernel) | with_reducible rfl | exact fun hh => absurd hh (by decide +kernel))
  have h := h.2.2.2.2.1
  repeat specialize h (by first | decide +kernel | exact calm_by (by decide +kernel) | with_reducible rfl | exact fun hh => absurd hh (by decide +kernel))
  exact comes h

theorem wit_CollectiveMessages_6 (ob : Obligations.CollectiveMessages) : Completes (.done 0) sCollectiveMessages6 (fun _ => True) := by
  have h := ob.1 sCollectiveMessages6 0 ⟨2, 1, 1, 0, 6, 1, 0, 0, 0, false, List.replicate 0 3⟩ (wCe 5 0)
  repeat specialize h (by first | decide +kernel | exact calm_by (by decide +kernel) | with_reducible rfl | exact fun hh => absurd hh (by decide +kernel))
  have h := h.2.2.2.2.2.1
  repeat specialize h (by first | decide +kernel | exact calm_by (by decide +kernel) | with_reducible rfl | exact fun hh => absurd hh (by decide +kernel))
  exact comes h

theorem wit_CollectiveMessages_7 (ob : Obligations.CollectiveMessages) : Completes (.gap 0) sCollectiveMessages7 (fun _ => True) := by
  have h := ob.1 sCollectiveMessages7 0 ⟨2, 1, 1, 0, 7, 1, 0, 0, 0, false, List.replicate 0 3⟩ (wCe 5 0)
  repeat specialize h (by first | decide +kernel | exact calm_by (by decide +kernel) | with_reducible rfl | exact fun hh => absurd hh (by decide +kernel))
  have h := h.2.2.2.2.2.2.1
  repeat specialize h (by first | decide +kernel | exact calm_by (by decide +kernel) | with_reducible rfl | exact fun hh => absurd hh (by decide +kernel))
  exact comes h

theorem wit_CollectiveMessages_8 (ob : Obligations.CollectiveMessages) : Completes (.fetch 0) sCollectiveMessages8 (fun _ => True) := by
  have h := ob.1 sCollectiveMessages8 0 ⟨2, 1, 1, 0, 8, 1, 0, 0, 0, false, List.replicate 0 3⟩ (wCe 5 0)
  repeat specialize h (by first | decide +kernel | exact calm_by (by decide +kernel) | with_reducible rfl | exact fun hh => absurd hh (by decide +kernel))
  have h := h.2.2.2.2.2.2.2
  repeat specialize h (by first | decide +kernel | exact calm_by (by decide +kernel) | with_reducible rfl | exact fun hh => absurd hh (by decide +kernel))
  have h := h.1
  repeat specialize h (by first | decide +kernel | exact calm_by (by decide +kernel) | with_reducible rfl | exact fun hh => absurd hh (by decide +kernel))
  exact comes h

theorem wit_CollectiveMessages_9 (ob : Obligations.CollectiveMessages) : Completes (.fetch 0) sCollectiveMessages9 (fun _ => True) := by
  have h := ob.1 sCollectiveMessages9 0 ⟨2, 1, 1, 0, 8, 1, 0, 0, 0, false, List.replicate 0 3⟩ (wCe 2 0)
  repeat specialize h (by first | decide +kernel | exact calm_by (by decide +kernel) | with_reducible rfl | exact fun hh => absurd hh (by decide +kernel))
  have h := h.2.2.2.2.2.2.2
  repeat specialize h (by first | decide +kernel | exact calm_by (by decide +kernel) | with_reducible rfl | exact fun hh => absurd hh (by decide +kernel))
  have h := h.2.1
  repeat specialize h (by first | decide +kernel | exact calm_by (by decide +kernel) | with_reducible rfl | exact fun hh => absurd hh (by decide +kernel))
  exact comes h

theorem wit_CollectiveMessages_10 (ob : Obligations.CollectiveMessages) : Completes (.fetch 0) sCollectiveMessages10 (fun _ => True) := by
  have h := ob.1 sCollectiveMessages10 0 ⟨2, 1, 1, 0, 8, 1, 0, 0, 0, false, List.replicate 0 3⟩ ({ wCe 2 0 with cnt := [(0, 256)] })
  repeat specialize h (by first | decide +kernel | exact calm_by (by decide +kernel) | with_reducible rfl | exact fun hh => absurd hh (by decide +kernel))
  have h := h.2.2.2.2.2.2.2
  repeat specialize h (by first | decide +kernel | exact calm_by (by decide +kernel) | with_reducible rfl | exact fun hh => absurd hh (by decide +kernel))
  have h := h.2.2
  repeat specialize h (by first | decide +kernel | exact calm_by (by decide +kernel) | with_reducible rfl | exact fun hh => absurd hh (by decide +kernel))
  exact comes h

theorem wit_CollectiveMessages_11 (ob : Obligations.CollectiveMessages) : Completes (.backupDeadline 2 0 0 1) sCollectiveMessages11 (fun _ => True) := by
  have h := ob.2 sCollectiveMessages11 2 0 ({ ColEnt.load (wRaw 1 0 + 2 ^ 288 * 5) 2 0 wGrp 2 (actStart (wRaw 1 0)) with st := 2 })
  repeat specialize h (by first | decide +kernel | exact calm_by (by decide +kernel) | with_reducible rfl | exact fun hh => absurd hh (by decide +kernel))
  have h := h.1 0 1
  repeat specialize h (by first | decide +kernel | exact calm_by (by decide +kernel) | with_reducible rfl | exact fun hh => absurd hh (by decide +kernel))
  have h := h.1
  repeat specialize h (by first | decide +kernel | exact calm_by (by decide +kernel) | with_reducible rfl | exact fun hh => absurd hh (by decide +kernel))
  exact comes h

theorem wit_CollectiveMessages_12 (ob : Obligations.CollectiveMessages) : Completes (.backupDeadline 2 0 0 1) sCollectiveMessages12 (fun _ => True) := by
  have h := ob.2 sCollectiveMessages12 2 0 ({ ColEnt.load (wRaw 1 0 + 2 ^ 288 * 5) 2 0 [2 ^ 16 * 2, 1 + 2 ^ 16 + 2 ^ 20] 2 (actStart (wRaw 1 0)) with st := 2 })
  repeat specialize h (by first | decide +kernel | exact calm_by (by decide +kernel) | with_reducible rfl | exact fun hh => absurd hh (by decide +kernel))
  have h := h.1 0 1
  repeat specialize h (by first | decide +kernel | exact calm_by (by decide +kernel) | with_reducible rfl | exact fun hh => absurd hh (by decide +kernel))
  have h := h.2 (0)
  repeat specialize h (by first | decide +kernel | exact calm_by (by decide +kernel) | with_reducible rfl | exact fun hh => absurd hh (by decide +kernel))
  exact comes h

theorem wit_CollectiveMessages_13 (ob : Obligations.CollectiveMessages) : Completes (.fetchTimeout 2 0) sCollectiveMessages13 (fun _ => True) := by
  have h := ob.2 sCollectiveMessages13 2 0 ({ ColEnt.load (wRaw 5 0 + 2 ^ 32) 2 0 wGrp 2 (some 256) with st := 2, fetches := [⟨0, 0, 1, false⟩] })
  repeat specialize h (by first | decide +kernel | exact calm_by (by decide +kernel) | with_reducible rfl | exact fun hh => absurd hh (by decide +kernel))
  have h := h.2.1 ⟨0, 0, 1, false⟩ []
  repeat specialize h (by first | decide +kernel | exact calm_by (by decide +kernel) | with_reducible rfl | exact fun hh => absurd hh (by decide +kernel))
  exact comes h

theorem wit_CollectiveMessages_14 (ob : Obligations.CollectiveMessages) : Completes (.fetchTimeout 2 0) sCollectiveMessages14 (fun _ => True) := by
  have h := ob.2 sCollectiveMessages14 2 0 ({ ColEnt.load (wRaw 5 0 + 2 ^ 32) 3 0 [2 ^ 16 * 2, 1 + 2 ^ 16 + 2 ^ 20 + 2 ^ 32 * 2, 2 + 2 ^ 16] 2 (some 256) with st := 2, fetches := [⟨0, 0, 1, false⟩] })
  repeat specialize h (by first | decide +kernel | exact calm_by (by decide +kernel) | with_reducible rfl | exact fun hh => absurd hh (by decide +kernel))
  have h := h.2.2.1 ⟨0, 0, 1, false⟩ [] 2
  repeat specialize h (by first | decide +kernel | exact calm_by (by decide +kernel) | with_reducible rfl | exact fun hh => absurd hh (by decide +kernel))
  exact comes h

theorem wit_CollectiveMessages_15 (ob : Obligations.CollectiveMessages) : Completes (.collWatchdog 2 0) sCollectiveMessages11 (fun _ => True) := by
  have h := ob.2 sCollectiveMessages11 2 0 ({ ColEnt.load (wRaw 1 0 + 2 ^ 288 * 5) 2 0 wGrp 2 (actStart (wRaw 1 0)) with st := 2 })
  repeat specialize h (by first | decide +kernel | exact calm_by (by decide +kernel) | with_reducible rfl | exact fun hh => absurd hh (by decide +kernel))
  have h := h.2.2.2
  exact comes h

/-- A copy of a bucket that has ended; a piece of an ALL_GATHER; a block that its own rank's backup sends, and one that was taken; a piece of a
MULTICAST before its flush. -/
def sCollectiveMessages16 : State :=
  wCo [(512, { wCe 1 0 with ended := [0] })] [⟨2, 1, 1, 0, 1, 1, 0, 0, 0, false, List.replicate 4 3⟩] []

def sCollectiveMessages17 : State :=
  wCo [(512, wCe 2 0)] [⟨2, 1, 1, 0, 1, 1, 0, 0, 0, false, List.replicate 4 3⟩] []

def sCollectiveMessages18 : State :=
  wCo [(512, { wCe 4 1 with st := 2, act := none })] [⟨2, 1, 1, 0, 3, 1, 0, 0, 0, true, List.replicate 4 3⟩] []

def sCollectiveMessages19 : State :=
  wCo [(512, wCe 6 1)] [⟨2, 1, 1, 0, 4, 1, 0, 0, 0, false, List.replicate 8 3⟩] []

theorem wit_CollectiveMessages_16 (ob : Obligations.CollectiveMessages) : Completes (.contrib 0) sCollectiveMessages16 (fun _ => True) := by
  have h := ob.1 sCollectiveMessages16 0 ⟨2, 1, 1, 0, 1, 1, 0, 0, 0, false, List.replicate 4 3⟩ ({ wCe 1 0 with ended := [0] })
  repeat specialize h (by first | decide +kernel | exact calm_by (by decide +kernel) | with_reducible rfl | exact fun hh => absurd hh (by decide +kernel))
  have h := h.1
  repeat specialize h (by first | decide +kernel | exact calm_by (by decide +kernel) | with_reducible rfl | exact fun hh => absurd hh (by decide +kernel))
  have h := h.1
  repeat specialize h (by first | decide +kernel | exact calm_by (by decide +kernel) | with_reducible rfl | exact fun hh => absurd hh (by decide +kernel))
  exact comes h

theorem wit_CollectiveMessages_17 (ob : Obligations.CollectiveMessages) : Completes (.contrib 0) sCollectiveMessages17 (fun _ => True) := by
  have h := ob.1 sCollectiveMessages17 0 ⟨2, 1, 1, 0, 1, 1, 0, 0, 0, false, List.replicate 4 3⟩ (wCe 2 0)
  repeat specialize h (by first | decide +kernel | exact calm_by (by decide +kernel) | with_reducible rfl | exact fun hh => absurd hh (by decide +kernel))
  have h := h.1
  repeat specialize h (by first | decide +kernel | exact calm_by (by decide +kernel) | with_reducible rfl | exact fun hh => absurd hh (by decide +kernel))
  have h := h.2.2
  repeat specialize h (by first | decide +kernel | exact calm_by (by decide +kernel) | with_reducible rfl | exact fun hh => absurd hh (by decide +kernel))
  exact comes h

theorem wit_CollectiveMessages_18 (ob : Obligations.CollectiveMessages) : Completes (.block 0) sCollectiveMessages18 (fun _ => True) := by
  have h := ob.1 sCollectiveMessages18 0 ⟨2, 1, 1, 0, 3, 1, 0, 0, 0, true, List.replicate 4 3⟩ ({ wCe 4 1 with st := 2, act := none })
  repeat specialize h (by first | decide +kernel | exact calm_by (by decide +kernel) | with_reducible rfl | exact fun hh => absurd hh (by decide +kernel))
  have h := h.2.1
  repeat specialize h (by first | decide +kernel | exact calm_by (by decide +kernel) | with_reducible rfl | exact fun hh => absurd hh (by decide +kernel))
  have h := h.1 (.inl ⟨rfl, _, rfl, by decide +kernel, by decide +kernel⟩)
  repeat specialize h (by first | decide +kernel | exact calm_by (by decide +kernel) | with_reducible rfl | exact fun hh => absurd hh (by decide +kernel))
  exact comes h

theorem wit_CollectiveMessages_19 (ob : Obligations.CollectiveMessages) : Completes (.bcast 0) sCollectiveMessages19 (fun _ => True) := by
  have h := ob.1 sCollectiveMessages19 0 ⟨2, 1, 1, 0, 4, 1, 0, 0, 0, false, List.replicate 8 3⟩ (wCe 6 1)
  repeat specialize h (by first | decide +kernel | exact calm_by (by decide +kernel) | with_reducible rfl | exact fun hh => absurd hh (by decide +kernel))
  have h := h.2.2.2.1
  repeat specialize h (by first | decide +kernel | exact calm_by (by decide +kernel) | with_reducible rfl | exact fun hh => absurd hh (by decide +kernel))
  have h := h.2
  repeat specialize h (by first | decide +kernel | exact calm_by (by decide +kernel) | with_reducible rfl | exact fun hh => absurd hh (by decide +kernel))
  exact comes h

/-- A running host port, with queue pair 128 of partition 2 in RTS, and registers as given. -/
def wHq (hp : HostPort) (x : QPair) (d : List (Nat × List Byte)) (r : List (Reg × Nat)) : State :=
  (wQ ++ r).foldl (fun (s : State) (e : Reg × Nat) => wr s e.1 e.2) { wF Hearth.fresh d with hport := hp, qps := [(128, x)] }
def wHp : HostPort := ⟨true, 0, 0, [], 0, 1, []⟩
def wRec : Rec := ⟨1, 7, 5, 0, 0, 0, 0, 0, 0, 3, 9, none, none⟩
def wMsg (del : Nat) : TxMsg := ⟨4, 2, 0, [], 0, 0, 0, del⟩
/-- An ECHO command and one of no opcode, as SEND payloads (R423). -/
def wEcho : List Byte := leBytes 24 (3 + 2 ^ 16 * 24 + 2 ^ 32 * 9)
def wNone : List Byte := leBytes 16 (2 ^ 16 * 16)
def wMixNone : List Byte := leBytes 16 (16 + 2 ^ 16 * 16)
theorem pairw {α : Type} {x : α × State} {a : α} (h : x.1 = a) : x = (a, x.2) := by
  obtain ⟨b, c⟩ := x; simp_all
theorem wSends (s : State) (h1 : (qpGet s 128).pace = []) (h2 : (qpGet s 128).rnrWait = false) (h3 : (qpGet s 128).limit = 0)
    (h4 : bit s.hport.paused (qpPrio s 128) = false) : Sends s 128 := { pace := h1, rnr := h2, rate := .inl h3, prio := h4 }

def sHostFrames1 : State :=
  wHq wHp (QPair.reset) [] [(R.hstIpCfg, 5 + 2 ^ 32 + 2 ^ 33)]

def sHostFrames4 : State :=
  wHq wHp (QPair.reset) [] []

def sHostFrames6 : State :=
  wHq { wHp with pool := [⟨128, 2, 786432, .nop 0⟩] } QPair.reset [] [(R.hstPfcCfg, 2 ^ 8 + 4)]

def sHostFrames9 : State :=
  wHq ⟨true, 0, 4, [], 0, 1, []⟩ (QPair.reset) [] [(R.hstPfcCfg, 2 ^ 8 + 4)]

def sHostFrames10 : State :=
  wHq ⟨true, 4, 0, [(2, .cnp 128)], 0, 1, []⟩ (QPair.reset) [] []

theorem wit_HostFrames_1 (ob : Obligations.HostFrames) : Completes (.arpRequest 5 6 7) sHostFrames1 (fun _ => True) := by
  have h := ob sHostFrames1
  repeat specialize h (by first | decide +kernel | exact calm_by (by decide +kernel) | with_reducible rfl | exact fun hh => absurd hh (by decide +kernel))
  have h := h.1
  repeat specialize h (by first | decide +kernel | exact calm_by (by decide +kernel) | with_reducible rfl | exact fun hh => absurd hh (by decide +kernel))
  have h := h.1 5 6 7
  repeat specialize h (by first | decide +kernel | exact calm_by (by decide +kernel) | with_reducible rfl | exact fun hh => absurd hh (by decide +kernel))
  exact comes h

theorem wit_HostFrames_2 (ob : Obligations.HostFrames) : Completes (.neighborSolicitation 0 6 7) sHostFrames1 (fun _ => True) := by
  have h := ob sHostFrames1
  repeat specialize h (by first | decide +kernel | exact calm_by (by decide +kernel) | with_reducible rfl | exact fun hh => absurd hh (by decide +kernel))
  have h := h.1
  repeat specialize h (by first | decide +kernel | exact calm_by (by decide +kernel) | with_reducible rfl | exact fun hh => absurd hh (by decide +kernel))
  have h := h.2 0 6 7
  repeat specialize h (by first | decide +kernel | exact calm_by (by decide +kernel) | with_reducible rfl | exact fun hh => absurd hh (by decide +kernel))
  exact comes h

theorem wit_HostFrames_3 (ob : Obligations.HostFrames) : Completes (.arpRequest 4 6 7) sHostFrames1 (fun _ => True) := by
  have h := ob sHostFrames1
  repeat specialize h (by first | decide +kernel | exact calm_by (by decide +kernel) | with_reducible rfl | exact fun hh => absurd hh (by decide +kernel))
  have h := h.2.1
  repeat specialize h (by first | decide +kernel | exact calm_by (by decide +kernel) | with_reducible rfl | exact fun hh => absurd hh (by decide +kernel))
  have h := h.1 4 6 7 (.inr (by decide +kernel))
  repeat specialize h (by first | decide +kernel | exact calm_by (by decide +kernel) | with_reducible rfl | exact fun hh => absurd hh (by decide +kernel))
  exact comes h

theorem wit_HostFrames_4 (ob : Obligations.HostFrames) : Completes (.ethFrameDrop .badFrame) sHostFrames4 (fun _ => True) := by
  have h := ob sHostFrames4
  repeat specialize h (by first | decide +kernel | exact calm_by (by decide +kernel) | with_reducible rfl | exact fun hh => absurd hh (by decide +kernel))
  have h := h.2.1
  repeat specialize h (by first | decide +kernel | exact calm_by (by decide +kernel) | with_reducible rfl | exact fun hh => absurd hh (by decide +kernel))
  have h := h.2.2.1 .badFrame (.inl rfl)
  repeat specialize h (by first | decide +kernel | exact calm_by (by decide +kernel) | with_reducible rfl | exact fun hh => absurd hh (by decide +kernel))
  exact comes h

theorem wit_HostFrames_5 (ob : Obligations.HostFrames) : Completes (.ethFrameDrop .icrc) sHostFrames4 (fun _ => True) := by
  have h := ob sHostFrames4
  repeat specialize h (by first | decide +kernel | exact calm_by (by decide +kernel) | with_reducible rfl | exact fun hh => absurd hh (by decide +kernel))
  have h := h.2.1
  repeat specialize h (by first | decide +kernel | exact calm_by (by decide +kernel) | with_reducible rfl | exact fun hh => absurd hh (by decide +kernel))
  have h := h.2.2.2.1
  repeat specialize h (by first | decide +kernel | exact calm_by (by decide +kernel) | with_reducible rfl | exact fun hh => absurd hh (by decide +kernel))
  exact comes h

theorem wit_HostFrames_6 (ob : Obligations.HostFrames) : Completes (.ethFrameDrop (.poolFull 2)) sHostFrames6 (fun _ => True) := by
  have h := ob sHostFrames6
  repeat specialize h (by first | decide +kernel | exact calm_by (by decide +kernel) | with_reducible rfl | exact fun hh => absurd hh (by decide +kernel))
  have h := h.2.1
  repeat specialize h (by first | decide +kernel | exact calm_by (by decide +kernel) | with_reducible rfl | exact fun hh => absurd hh (by decide +kernel))
  have h := h.2.2.2.2.1 2
  repeat specialize h (by first | decide +kernel | exact calm_by (by decide +kernel) | with_reducible rfl | exact fun hh => absurd hh (by decide +kernel))
  exact comes h

theorem wit_HostFrames_7 (ob : Obligations.HostFrames) : Completes (.pfcReceive 4 9) sHostFrames6 (fun _ => True) := by
  have h := ob sHostFrames6
  repeat specialize h (by first | decide +kernel | exact calm_by (by decide +kernel) | with_reducible rfl | exact fun hh => absurd hh (by decide +kernel))
  have h := h.2.1
  repeat specialize h (by first | decide +kernel | exact calm_by (by decide +kernel) | with_reducible rfl | exact fun hh => absurd hh (by decide +kernel))
  have h := h.2.2.2.2.2.2.1 4 9
  repeat specialize h (by first | decide +kernel | exact calm_by (by decide +kernel) | with_reducible rfl | exact fun hh => absurd hh (by decide +kernel))
  exact comes h

theorem wit_HostFrames_8 (ob : Obligations.HostFrames) : Completes (.hostLinkDown false) sHostFrames4 (fun _ => True) := by
  have h := ob sHostFrames4
  repeat specialize h (by first | decide +kernel | exact calm_by (by decide +kernel) | with_reducible rfl | exact fun hh => absurd hh (by decide +kernel))
  have h := h.2.1
  repeat specialize h (by first | decide +kernel | exact calm_by (by decide +kernel) | with_reducible rfl | exact fun hh => absurd hh (by decide +kernel))
  have h := h.2.2.2.2.2.2.2
  exact comes h

theorem wit_HostFrames_9 (ob : Obligations.HostFrames) : Completes (.pfcRefresh 2) sHostFrames9 (fun _ => True) := by
  have h := ob sHostFrames9
  repeat specialize h (by first | decide +kernel | exact calm_by (by decide +kernel) | with_reducible rfl | exact fun hh => absurd hh (by decide +kernel))
  have h := h.2.2.1 (2)
  repeat specialize h (by first | decide +kernel | exact calm_by (by decide +kernel) | with_reducible rfl | exact fun hh => absurd hh (by decide +kernel))
  exact comes h

theorem wit_HostFrames_10 (ob : Obligations.HostFrames) : Completes (.pfcPauseExpiry 2) sHostFrames10 (fun _ => True) := by
  have h := ob sHostFrames10
  repeat specialize h (by first | decide +kernel | exact calm_by (by decide +kernel) | with_reducible rfl | exact fun hh => absurd hh (by decide +kernel))
  have h := h.2.2.2.1 (2)
  repeat specialize h (by first | decide +kernel | exact calm_by (by decide +kernel) | with_reducible rfl | exact fun hh => absurd hh (by decide +kernel))
  exact comes h

theorem wit_HostFrames_11 (ob : Obligations.HostFrames) : Completes (.hostLinkDown true) State.reset (fun _ => True) := by
  have h := ob State.reset
  repeat specialize h (by first | decide +kernel | exact calm_by (by decide +kernel) | with_reducible rfl | exact fun hh => absurd hh (by decide +kernel))
  have h := h.2.2.2.2
  exact comes h

theorem wit_HostFrames_12 (ob : Obligations.HostFrames) : Completes (.neighborSolicitation 1 6 7) sHostFrames1 (fun _ => True) := by
  have h := ob sHostFrames1
  repeat specialize h (by first | decide +kernel | exact calm_by (by decide +kernel) | with_reducible rfl | exact fun hh => absurd hh (by decide +kernel))
  have h := h.2.1
  repeat specialize h (by first | decide +kernel | exact calm_by (by decide +kernel) | with_reducible rfl | exact fun hh => absurd hh (by decide +kernel))
  have h := h.2.1 1 6 7 (.inr (by decide +kernel))
  repeat specialize h (by first | decide +kernel | exact calm_by (by decide +kernel) | with_reducible rfl | exact fun hh => absurd hh (by decide +kernel))
  exact comes h

theorem wit_HostFrames_13 (ob : Obligations.HostFrames) : Completes (.ethFrameDrop (.poolFull 7)) sHostFrames4 (fun _ => True) := by
  have h := ob sHostFrames4
  repeat specialize h (by first | decide +kernel | exact calm_by (by decide +kernel) | with_reducible rfl | exact fun hh => absurd hh (by decide +kernel))
  have h := h.2.1
  repeat specialize h (by first | decide +kernel | exact calm_by (by decide +kernel) | with_reducible rfl | exact fun hh => absurd hh (by decide +kernel))
  have h := h.2.2.2.2.2.1 7
  repeat specialize h (by first | decide +kernel | exact calm_by (by decide +kernel) | with_reducible rfl | exact fun hh => absurd hh (by decide +kernel))
  exact comes h

def sHostRequests1 : State :=
  wHq wHp (QPair.reset) [] []

def sHostRequests3 : State :=
  wHq wHp ({ QPair.reset with cmds := List.replicate 64 (.bad 0 0 0) }) [] []

theorem wHears (s : State) (h1 : s.hport.up = true) (h2 : injKind s 16 0 = none) (h3 : s.hport.pool = []) (h4 : rxOcc s (qpPrio s 128) < 1024 * rdf s R.hstEcnCfg 0 10)
    (h5 : partCong s (qpPart 128) = false) (h6 : bit s.hport.paused (qpPrio s 128) = false) : Hears s 128 :=
  { up := h1, inj := h2, pool := by simp [h3], ce := ⟨.inr h4, fun _ => h5⟩, prio := h6 }

theorem wit_HostRequests_1 (ob : Obligations.HostRequests) : Completes (.send 128 wEcho false) sHostRequests1 (fun _ => True) := by
  have h := ob sHostRequests1 128
  repeat specialize h (by first | decide +kernel | exact calm_by (by decide +kernel) | with_reducible rfl | exact fun hh => absurd hh (by decide +kernel))
  have h := h.1
  have h := h (wHears sHostRequests1 (by decide +kernel) (by decide +kernel) rfl (by decide +kernel) (by decide +kernel) (by decide +kernel))
  repeat specialize h (by first | decide +kernel | exact calm_by (by decide +kernel) | with_reducible rfl | exact fun hh => absurd hh (by decide +kernel))
  have h := h.1 wEcho
  repeat specialize h (by first | decide +kernel | exact calm_by (by decide +kernel) | with_reducible rfl | exact fun hh => absurd hh (by decide +kernel))
  have h := h.1
  repeat specialize h (by first | decide +kernel | exact calm_by (by decide +kernel) | with_reducible rfl | exact fun hh => absurd hh (by decide +kernel))
  have h := h.1 (.echo 128 0 9)
  repeat specialize h (by first | decide +kernel | exact calm_by (by decide +kernel) | with_reducible rfl | exact fun hh => absurd hh (by decide +kernel))
  have h := h (by intro op ctag t r hh; exact absurd hh (by simp [sHostRequests1, wHq, qpGet, tgetD, tget, QPair.reset, wQ, wr]))
  repeat specialize h (by first | decide +kernel | exact calm_by (by decide +kernel) | with_reducible rfl | exact fun hh => absurd hh (by decide +kernel))
  exact comes h

theorem wit_HostRequests_2 (ob : Obligations.HostRequests) : Completes (.send 128 wNone false) sHostRequests1 (fun _ => True) := by
  have h := ob sHostRequests1 128
  repeat specialize h (by first | decide +kernel | exact calm_by (by decide +kernel) | with_reducible rfl | exact fun hh => absurd hh (by decide +kernel))
  have h := h.1
  have h := h (wHears sHostRequests1 (by decide +kernel) (by decide +kernel) rfl (by decide +kernel) (by decide +kernel) (by decide +kernel))
  repeat specialize h (by first | decide +kernel | exact calm_by (by decide +kernel) | with_reducible rfl | exact fun hh => absurd hh (by decide +kernel))
  have h := h.1 wNone
  repeat specialize h (by first | decide +kernel | exact calm_by (by decide +kernel) | with_reducible rfl | exact fun hh => absurd hh (by decide +kernel))
  have h := h.1
  repeat specialize h (by first | decide +kernel | exact calm_by (by decide +kernel) | with_reducible rfl | exact fun hh => absurd hh (by decide +kernel))
  have h := h.2
  repeat specialize h (by first | decide +kernel | exact calm_by (by decide +kernel) | with_reducible rfl | exact fun hh => absurd hh (by decide +kernel))
  have h := h.1
  repeat specialize h (by first | decide +kernel | exact calm_by (by decide +kernel) | with_reducible rfl | exact fun hh => absurd hh (by decide +kernel))
  have h := h (wSends sHostRequests1 (by decide +kernel) (by decide +kernel) (by decide +kernel) (by decide +kernel))
  repeat specialize h (by first | decide +kernel | exact calm_by (by decide +kernel) | with_reducible rfl | exact fun hh => absurd hh (by decide +kernel))
  exact comes h

theorem wit_HostRequests_3 (ob : Obligations.HostRequests) : Completes (.send 128 wEcho false) sHostRequests3 (fun _ => True) := by
  have h := ob sHostRequests3 128
  repeat specialize h (by first | decide +kernel | exact calm_by (by decide +kernel) | with_reducible rfl | exact fun hh => absurd hh (by decide +kernel))
  have h := h.1
  have h := h (wHears sHostRequests3 (by decide +kernel) (by decide +kernel) rfl (by decide +kernel) (by decide +kernel) (by decide +kernel))
  repeat specialize h (by first | decide +kernel | exact calm_by (by decide +kernel) | with_reducible rfl | exact fun hh => absurd hh (by decide +kernel))
  have h := h.1 wEcho
  repeat specialize h (by first | decide +kernel | exact calm_by (by decide +kernel) | with_reducible rfl | exact fun hh => absurd hh (by decide +kernel))
  have h := h.2.1
  repeat specialize h (by first | decide +kernel | exact calm_by (by decide +kernel) | with_reducible rfl | exact fun hh => absurd hh (by decide +kernel))
  exact comes h

theorem wit_HostRequests_4 (ob : Obligations.HostRequests) : Completes (.rdmaWrite 128 9 0 [1, 2] false false) sHostRequests1 (fun _ => True) := by
  have h := ob sHostRequests1 128
  repeat specialize h (by first | decide +kernel | exact calm_by (by decide +kernel) | with_reducible rfl | exact fun hh => absurd hh (by decide +kernel))
  have h := h.1
  have h := h (wHears sHostRequests1 (by decide +kernel) (by decide +kernel) rfl (by decide +kernel) (by decide +kernel) (by decide +kernel))
  repeat specialize h (by first | decide +kernel | exact calm_by (by decide +kernel) | with_reducible rfl | exact fun hh => absurd hh (by decide +kernel))
  have h := h.2.1 9 0 [1, 2] false
  repeat specialize h (by first | decide +kernel | exact calm_by (by decide +kernel) | with_reducible rfl | exact fun hh => absurd hh (by decide +kernel))
  have h := h.1
  repeat specialize h (by first | decide +kernel | exact calm_by (by decide +kernel) | with_reducible rfl | exact fun hh => absurd hh (by decide +kernel))
  have h := h.1
  repeat specialize h (by first | decide +kernel | exact calm_by (by decide +kernel) | with_reducible rfl | exact fun hh => absurd hh (by decide +kernel))
  exact comes h

theorem wit_HostRequests_5 (ob : Obligations.HostRequests) : Completes (.rdmaWrite 128 (rkeyOf sHostRequests1 128) 4096 [1, 2] false false) sHostRequests1 (fun _ => True) := by
  have h := ob sHostRequests1 128
  repeat specialize h (by first | decide +kernel | exact calm_by (by decide +kernel) | with_reducible rfl | exact fun hh => absurd hh (by decide +kernel))
  have h := h.1
  have h := h (wHears sHostRequests1 (by decide +kernel) (by decide +kernel) rfl (by decide +kernel) (by decide +kernel) (by decide +kernel))
  repeat specialize h (by first | decide +kernel | exact calm_by (by decide +kernel) | with_reducible rfl | exact fun hh => absurd hh (by decide +kernel))
  have h := h.2.1 (rkeyOf sHostRequests1 128) 4096 [1, 2] false
  repeat specialize h (by first | decide +kernel | exact calm_by (by decide +kernel) | with_reducible rfl | exact fun hh => absurd hh (by decide +kernel))
  have h := h.1
  repeat specialize h (by first | decide +kernel | exact calm_by (by decide +kernel) | with_reducible rfl | exact fun hh => absurd hh (by decide +kernel))
  have h := h.2.2 (rangeBad (rxCount (quiet sHostRequests1) 128 16 [1, 2].length) (qpPart 128) 4096 [1, 2].length true).2 (putCow (rangeBad (rxCount (quiet sHostRequests1) 128 16 [1, 2].length) (qpPart 128) 4096 [1, 2].length true).2 (qpPart 128) 4096 [1, 2]).2
  repeat specialize h (by first | decide +kernel | exact calm_by (by decide +kernel) | with_reducible rfl | exact fun hh => absurd hh (by decide +kernel))
  exact comes h

theorem wit_HostRequests_6 (ob : Obligations.HostRequests) : Completes (.rdmaRead 128 (rkeyOf sHostRequests1 128) 0 4) sHostRequests1 (fun _ => True) := by
  have h := ob sHostRequests1 128
  repeat specialize h (by first | decide +kernel | exact calm_by (by decide +kernel) | with_reducible rfl | exact fun hh => absurd hh (by decide +kernel))
  have h := h.1
  have h := h (wHears sHostRequests1 (by decide +kernel) (by decide +kernel) rfl (by decide +kernel) (by decide +kernel) (by decide +kernel))
  repeat specialize h (by first | decide +kernel | exact calm_by (by decide +kernel) | with_reducible rfl | exact fun hh => absurd hh (by decide +kernel))
  have h := h.2.2.1 0 4
  repeat specialize h (by first | decide +kernel | exact calm_by (by decide +kernel) | with_reducible rfl | exact fun hh => absurd hh (by decide +kernel))
  have h := h.1 [0, 0, 0, 0] (vaGet (rxCount (quiet sHostRequests1) 128 16 0) (qpPart 128) 0 4 false).2.1 (vaGet (rxCount (quiet sHostRequests1) 128 16 0) (qpPart 128) 0 4 false).2.2
  repeat specialize h (by first | decide +kernel | exact calm_by (by decide +kernel) | with_reducible rfl | exact fun hh => absurd hh (by decide +kernel))
  exact comes h

theorem wit_HostRequests_7 (ob : Obligations.HostRequests) : Completes (.echo 128 3 9) sHostRequests1 (fun _ => True) := by
  have h := ob sHostRequests1 128
  repeat specialize h (by first | decide +kernel | exact calm_by (by decide +kernel) | with_reducible rfl | exact fun hh => absurd hh (by decide +kernel))
  have h := h.2 3 9
  have h := h (wSends sHostRequests1 (by decide +kernel) (by decide +kernel) (by decide +kernel) (by decide +kernel))
  repeat specialize h (by first | decide +kernel | exact calm_by (by decide +kernel) | with_reducible rfl | exact fun hh => absurd hh (by decide +kernel))
  have h := h.1
  repeat specialize h (by first | decide +kernel | exact calm_by (by decide +kernel) | with_reducible rfl | exact fun hh => absurd hh (by decide +kernel))
  exact comes h

/-- A range that passes the end of the address space; a WRITE into a full bucket that has not been released; an ECHO that heads the command queue; a
full receive pool. -/
def sHostRequests10 : State :=
  { wHq wHp QPair.reset [] [] with cols := [(512, { wCe 1 0 with st := 2, cnt := [(0, 256)] })] }

def sHostRequests11 : State :=
  wHq wHp { QPair.reset with cmds := [.good (.echo 128 3 9) 5] } [] []

def sHostRequests12 : State :=
  wHq { wHp with pool := [⟨960, 5, 786432, .nop 0⟩] } QPair.reset [] []

theorem wit_HostRequests_8 (ob : Obligations.HostRequests) : Completes (.send 128 [] false) sHostRequests1 (fun _ => True) := by
  have h := ob sHostRequests1 128
  repeat specialize h (by first | decide +kernel | exact calm_by (by decide +kernel) | with_reducible rfl | exact fun hh => absurd hh (by decide +kernel))
  have h := h.1
  have h := h (wHears sHostRequests1 (by decide +kernel) (by decide +kernel) rfl (by decide +kernel) (by decide +kernel) (by decide +kernel))
  repeat specialize h (by first | decide +kernel | exact calm_by (by decide +kernel) | with_reducible rfl | exact fun hh => absurd hh (by decide +kernel))
  have h := h.1 []
  repeat specialize h (by first | decide +kernel | exact calm_by (by decide +kernel) | with_reducible rfl | exact fun hh => absurd hh (by decide +kernel))
  have h := h.2.2 (.inl (by decide))
  repeat specialize h (by first | decide +kernel | exact calm_by (by decide +kernel) | with_reducible rfl | exact fun hh => absurd hh (by decide +kernel))
  exact comes h

theorem wit_HostRequests_9 (ob : Obligations.HostRequests) : Completes (.rdmaWrite 128 (rkeyOf sHostRequests1 128) (2 ^ 48 - 1) [1, 2] false false) sHostRequests1 (fun _ => True) := by
  have h := ob sHostRequests1 128
  repeat specialize h (by first | decide +kernel | exact calm_by (by decide +kernel) | with_reducible rfl | exact fun hh => absurd hh (by decide +kernel))
  have h := h.1
  have h := h (wHears sHostRequests1 (by decide +kernel) (by decide +kernel) rfl (by decide +kernel) (by decide +kernel) (by decide +kernel))
  repeat specialize h (by first | decide +kernel | exact calm_by (by decide +kernel) | with_reducible rfl | exact fun hh => absurd hh (by decide +kernel))
  have h := h.2.1 (rkeyOf sHostRequests1 128) (2 ^ 48 - 1) [1, 2] false
  repeat specialize h (by first | decide +kernel | exact calm_by (by decide +kernel) | with_reducible rfl | exact fun hh => absurd hh (by decide +kernel))
  have h := h.1
  repeat specialize h (by first | decide +kernel | exact calm_by (by decide +kernel) | with_reducible rfl | exact fun hh => absurd hh (by decide +kernel))
  have h := h.2.1 (rangeBad (rxCount (quiet sHostRequests1) 128 16 [1, 2].length) (qpPart 128) (2 ^ 48 - 1) [1, 2].length true).2
  repeat specialize h (by first | decide +kernel | exact calm_by (by decide +kernel) | with_reducible rfl | exact fun hh => absurd hh (by decide +kernel))
  exact comes h

theorem wit_HostRequests_10 (ob : Obligations.HostRequests) : Completes (.rdmaWrite 128 9 255 [1] true false) sHostRequests10 (fun _ => True) := by
  have h := ob sHostRequests10 128
  repeat specialize h (by first | decide +kernel | exact calm_by (by decide +kernel) | with_reducible rfl | exact fun hh => absurd hh (by decide +kernel))
  have h := h.1
  have h := h (wHears sHostRequests10 (by decide +kernel) (by decide +kernel) rfl (by decide +kernel) (by decide +kernel) (by decide +kernel))
  repeat specialize h (by first | decide +kernel | exact calm_by (by decide +kernel) | with_reducible rfl | exact fun hh => absurd hh (by decide +kernel))
  have h := h.2.1 9 255 [1] true
  repeat specialize h (by first | decide +kernel | exact calm_by (by decide +kernel) | with_reducible rfl | exact fun hh => absurd hh (by decide +kernel))
  have h := h.2
  repeat specialize h (by first | decide +kernel | exact calm_by (by decide +kernel) | with_reducible rfl | exact fun hh => absurd hh (by decide +kernel))
  exact comes h

theorem wit_HostRequests_11 (ob : Obligations.HostRequests) : Completes (.rdmaRead 128 (rkeyOf sHostRequests1 128) (2 ^ 48 - 4) 4) sHostRequests1 (fun _ => True) := by
  have h := ob sHostRequests1 128
  repeat specialize h (by first | decide +kernel | exact calm_by (by decide +kernel) | with_reducible rfl | exact fun hh => absurd hh (by decide +kernel))
  have h := h.1
  have h := h (wHears sHostRequests1 (by decide +kernel) (by decide +kernel) rfl (by decide +kernel) (by decide +kernel) (by decide +kernel))
  repeat specialize h (by first | decide +kernel | exact calm_by (by decide +kernel) | with_reducible rfl | exact fun hh => absurd hh (by decide +kernel))
  have h := h.2.2.1 (2 ^ 48 - 4) 4
  repeat specialize h (by first | decide +kernel | exact calm_by (by decide +kernel) | with_reducible rfl | exact fun hh => absurd hh (by decide +kernel))
  have h := h.2 (vaGet (rxCount (quiet sHostRequests1) 128 16 0) (qpPart 128) (2 ^ 48 - 4) 4 false).2.1 (vaGet (rxCount (quiet sHostRequests1) 128 16 0) (qpPart 128) (2 ^ 48 - 4) 4 false).2.2
  repeat specialize h (by first | decide +kernel | exact calm_by (by decide +kernel) | with_reducible rfl | exact fun hh => absurd hh (by decide +kernel))
  exact comes h

theorem wit_HostRequests_12 (ob : Obligations.HostRequests) : Completes (.echo 128 3 9) sHostRequests11 (fun _ => True) := by
  have h := ob sHostRequests11 128
  repeat specialize h (by first | decide +kernel | exact calm_by (by decide +kernel) | with_reducible rfl | exact fun hh => absurd hh (by decide +kernel))
  have h := h.2 3 9
  have h := h (wSends sHostRequests11 (by decide +kernel) (by decide +kernel) (by decide +kernel) (by decide +kernel))
  repeat specialize h (by first | decide +kernel | exact calm_by (by decide +kernel) | with_reducible rfl | exact fun hh => absurd hh (by decide +kernel))
  have h := h.2 5 [] rfl (by simp)
  repeat specialize h (by first | decide +kernel | exact calm_by (by decide +kernel) | with_reducible rfl | exact fun hh => absurd hh (by decide +kernel))
  exact comes h

theorem wit_HostRequests_13 (ob : Obligations.HostRequests) : Completes (.send 128 wEcho false) sHostRequests12 (fun _ => True) := by
  have h := ob sHostRequests12 128
  repeat specialize h (by first | decide +kernel | exact calm_by (by decide +kernel) | with_reducible rfl | exact fun hh => absurd hh (by decide +kernel))
  have h := h.1
  have h := h { up := rfl, inj := by decide +kernel, pool := by decide +kernel, ce := ⟨.inr (by decide +kernel), fun _ => by decide +kernel⟩, prio := by decide +kernel }
  repeat specialize h (by first | decide +kernel | exact calm_by (by decide +kernel) | with_reducible rfl | exact fun hh => absurd hh (by decide +kernel))
  have h := h.2.2.2 wEcho
  repeat specialize h (by first | decide +kernel | exact calm_by (by decide +kernel) | with_reducible rfl | exact fun hh => absurd hh (by decide +kernel))
  exact comes h

theorem wit_HostRequests_14 (ob : Obligations.HostRequests) : Completes (.send 128 wMixNone false) sHostRequests1 (fun _ => True) := by
  have h := ob sHostRequests1 128
  repeat specialize h (by first | decide +kernel | exact calm_by (by decide +kernel) | with_reducible rfl | exact fun hh => absurd hh (by decide +kernel))
  have h := h.1
  have h := h (wHears sHostRequests1 (by decide +kernel) (by decide +kernel) rfl (by decide +kernel) (by decide +kernel) (by decide +kernel))
  repeat specialize h (by first | decide +kernel | exact calm_by (by decide +kernel) | with_reducible rfl | exact fun hh => absurd hh (by decide +kernel))
  have h := h.1 wMixNone
  repeat specialize h (by first | decide +kernel | exact calm_by (by decide +kernel) | with_reducible rfl | exact fun hh => absurd hh (by decide +kernel))
  have h := h.1
  repeat specialize h (by first | decide +kernel | exact calm_by (by decide +kernel) | with_reducible rfl | exact fun hh => absurd hh (by decide +kernel))
  have h := h.2
  repeat specialize h (by first | decide +kernel | exact calm_by (by decide +kernel) | with_reducible rfl | exact fun hh => absurd hh (by decide +kernel))
  have h := h.2
  repeat specialize h (by first | decide +kernel | exact calm_by (by decide +kernel) | with_reducible rfl | exact fun hh => absurd hh (by decide +kernel))
  exact comes h

def sQueuePairs1 : State :=
  wHq wHp ({ QPair.reset with recs := [wRec], nextSeq := 1 }) [] [(R.hstQpCtrlQ 128, 1 + 2 ^ 17 * 3 + 2 ^ 20 * 3), (R.hstQpCqQ 128, 65536 + 2 ^ 48 * 4)]

def sQueuePairs2 : State :=
  wHq wHp ({ QPair.reset with recs := [wRec], nextSeq := 1 }) [(65536 * 33 + 32, [1])] [(R.hstQpCtrlQ 128, 1 + 2 ^ 17 * 3 + 2 ^ 20 * 3), (R.hstQpCqQ 128, 65536 + 2 ^ 48 * 4)]

def sQueuePairs3 : State :=
  wHq wHp ({ QPair.reset with sq := [wMsg 0] }) [] []

def sQueuePairs5 : State :=
  wHq wHp ({ QPair.reset with sq := [wMsg 0] }) [] [(R.hstQpCtrlQ 128, 1 + 2 ^ 17 * 3 + 2 ^ 20 * 3), (R.hstQpCqQ 128, 65536 + 2 ^ 48 * 4)]

def sQueuePairs8 : State :=
  wHq wHp ({ QPair.reset with sq := [wMsg 0], retry := 3 }) [] [(R.hstQpCtrlQ 128, 1 + 2 ^ 17 * 3 + 2 ^ 20 * 3), (R.hstQpCqQ 128, 65536 + 2 ^ 48 * 4)]

def sQueuePairs9 : State :=
  wHq wHp ({ QPair.reset with sq := [wMsg 0], rnrWait := true }) [] [(R.hstQpCtrlQ 128, 1 + 2 ^ 17 * 3 + 2 ^ 20 * 3), (R.hstQpCqQ 128, 65536 + 2 ^ 48 * 4)]

def sQueuePairs10 : State :=
  wHq wHp ({ QPair.reset with sq := [wMsg 0], rnrWait := true, rnr := 3 }) [] [(R.hstQpCtrlQ 128, 1 + 2 ^ 17 * 3 + 2 ^ 20 * 3), (R.hstQpCqQ 128, 65536 + 2 ^ 48 * 4)]

def sQueuePairs11 : State :=
  wHq wHp (QPair.reset) [] [(R.telDmpLim, 2 ^ 40 + 2 ^ 24 * 64)]

def sQueuePairs12 : State :=
  wHq wHp (QPair.reset) [] [(R.telDmpLim, 0)]

def sQueuePairs13 : State :=
  wHq wHp (QPair.reset) [] [(R.hstQpCtrlQ 128, 0), (R.hstQpPsnQ 128, 5)]

theorem wit_QueuePairs_1 (ob : Obligations.QueuePairs) : Completes (.completionRecordWrite 128) sQueuePairs1 (fun _ => True) := by
  have h := ob sQueuePairs1 128
  repeat specialize h (by first | decide +kernel | exact calm_by (by decide +kernel) | with_reducible rfl | exact fun hh => absurd hh (by decide +kernel))
  have h := h.1 wRec [] (vaGet (quiet sQueuePairs1) (qpPart 128) (cqVa sQueuePairs1 128 + 32 * (1 % cqSlots sQueuePairs1 128)) 1 true).2.1 (vaGet (quiet sQueuePairs1) (qpPart 128) (cqVa sQueuePairs1 128 + 32 * (1 % cqSlots sQueuePairs1 128)) 1 true).2.2 (vaPut (vaGet (quiet sQueuePairs1) (qpPart 128) (cqVa sQueuePairs1 128 + 32 * (1 % cqSlots sQueuePairs1 128)) 1 true).2.2 (qpPart 128) (cqVa sQueuePairs1 128 + 32 * (1 % cqSlots sQueuePairs1 128)) (recBytes (quiet sQueuePairs1) wRec 1)).2
  specialize h (by first | decide +kernel | exact calm_by (by decide +kernel) | with_reducible rfl | exact fun hh => absurd hh (by decide +kernel))
  specialize h (by first | decide +kernel | exact calm_by (by decide +kernel) | with_reducible rfl | exact fun hh => absurd hh (by decide +kernel))
  specialize h (by first | decide +kernel | exact calm_by (by decide +kernel) | with_reducible rfl | exact fun hh => absurd hh (by decide +kernel))
  have h := h (opt3w (x := (vaGet (quiet sQueuePairs1) (qpPart 128) (cqVa sQueuePairs1 128 + 32 * (1 % cqSlots sQueuePairs1 128)) 1 true)) (by decide +kernel))
  have h := h (pairw (x := (vaPut (vaGet (quiet sQueuePairs1) (qpPart 128) (cqVa sQueuePairs1 128 + 32 * (1 % cqSlots sQueuePairs1 128)) 1 true).2.2 (qpPart 128) (cqVa sQueuePairs1 128 + 32 * (1 % cqSlots sQueuePairs1 128)) (recBytes (quiet sQueuePairs1) wRec 1))) (by decide +kernel))
  repeat specialize h (by first | decide +kernel | exact calm_by (by decide +kernel) | with_reducible rfl | exact fun hh => absurd hh (by decide +kernel))
  exact comes h

theorem wit_QueuePairs_2 (ob : Obligations.QueuePairs) : Completes (.completionRecordWrite 128) sQueuePairs2 (fun _ => True) := by
  have h := ob sQueuePairs2 128
  repeat specialize h (by first | decide +kernel | exact calm_by (by decide +kernel) | with_reducible rfl | exact fun hh => absurd hh (by decide +kernel))
  have h := h.2.1 wRec [] (vaGet (quiet sQueuePairs2) (qpPart 128) (cqVa sQueuePairs2 128 + 32 * (1 % cqSlots sQueuePairs2 128)) 1 true).2.1 (vaGet (quiet sQueuePairs2) (qpPart 128) (cqVa sQueuePairs2 128 + 32 * (1 % cqSlots sQueuePairs2 128)) 1 true).2.2 (1)
  specialize h (by first | decide +kernel | exact calm_by (by decide +kernel) | with_reducible rfl | exact fun hh => absurd hh (by decide +kernel))
  specialize h (by first | decide +kernel | exact calm_by (by decide +kernel) | with_reducible rfl | exact fun hh => absurd hh (by decide +kernel))
  specialize h (by first | decide +kernel | exact calm_by (by decide +kernel) | with_reducible rfl | exact fun hh => absurd hh (by decide +kernel))
  have h := h (opt3w (x := (vaGet (quiet sQueuePairs2) (qpPart 128) (cqVa sQueuePairs2 128 + 32 * (1 % cqSlots sQueuePairs2 128)) 1 true)) (by decide +kernel))
  repeat specialize h (by first | decide +kernel | exact calm_by (by decide +kernel) | with_reducible rfl | exact fun hh => absurd hh (by decide +kernel))
  exact comes h

theorem wit_QueuePairs_3 (ob : Obligations.QueuePairs) : Completes (.roceAckReceive 128 ((wMsg 0).psn + (wMsg 0).pkts - 1) 0) sQueuePairs3 (fun _ => True) := by
  have h := ob sQueuePairs3 128
  repeat specialize h (by first | decide +kernel | exact calm_by (by decide +kernel) | with_reducible rfl | exact fun hh => absurd hh (by decide +kernel))
  have h := h.2.2.1
  repeat specialize h (by first | decide +kernel | exact calm_by (by decide +kernel) | with_reducible rfl | exact fun hh => absurd hh (by decide +kernel))
  have h := h ⟨.inr (by decide +kernel), fun _ => by decide +kernel⟩
  repeat specialize h (by first | decide +kernel | exact calm_by (by decide +kernel) | with_reducible rfl | exact fun hh => absurd hh (by decide +kernel))
  have h := h.1 (wMsg 0)
  repeat specialize h (by first | decide +kernel | exact calm_by (by decide +kernel) | with_reducible rfl | exact fun hh => absurd hh (by decide +kernel))
  have h := h.1 0
  repeat specialize h (by first | decide +kernel | exact calm_by (by decide +kernel) | with_reducible rfl | exact fun hh => absurd hh (by decide +kernel))
  exact comes h

theorem wit_QueuePairs_4 (ob : Obligations.QueuePairs) : Completes (.roceAckReceive 128 4 33) sQueuePairs3 (fun _ => True) := by
  have h := ob sQueuePairs3 128
  repeat specialize h (by first | decide +kernel | exact calm_by (by decide +kernel) | with_reducible rfl | exact fun hh => absurd hh (by decide +kernel))
  have h := h.2.2.1
  repeat specialize h (by first | decide +kernel | exact calm_by (by decide +kernel) | with_reducible rfl | exact fun hh => absurd hh (by decide +kernel))
  have h := h ⟨.inr (by decide +kernel), fun _ => by decide +kernel⟩
  repeat specialize h (by first | decide +kernel | exact calm_by (by decide +kernel) | with_reducible rfl | exact fun hh => absurd hh (by decide +kernel))
  have h := h.1 (wMsg 0)
  repeat specialize h (by first | decide +kernel | exact calm_by (by decide +kernel) | with_reducible rfl | exact fun hh => absurd hh (by decide +kernel))
  have h := h.2.1 33
  repeat specialize h (by first | decide +kernel | exact calm_by (by decide +kernel) | with_reducible rfl | exact fun hh => absurd hh (by decide +kernel))
  exact comes h

theorem wit_QueuePairs_5 (ob : Obligations.QueuePairs) : Completes (.roceAckReceive 128 4 96) sQueuePairs5 (fun _ => True) := by
  have h := ob sQueuePairs5 128
  repeat specialize h (by first | decide +kernel | exact calm_by (by decide +kernel) | with_reducible rfl | exact fun hh => absurd hh (by decide +kernel))
  have h := h.2.2.1
  repeat specialize h (by first | decide +kernel | exact calm_by (by decide +kernel) | with_reducible rfl | exact fun hh => absurd hh (by decide +kernel))
  have h := h ⟨.inr (by decide +kernel), fun _ => by decide +kernel⟩
  repeat specialize h (by first | decide +kernel | exact calm_by (by decide +kernel) | with_reducible rfl | exact fun hh => absurd hh (by decide +kernel))
  have h := h.1 (wMsg 0)
  repeat specialize h (by first | decide +kernel | exact calm_by (by decide +kernel) | with_reducible rfl | exact fun hh => absurd hh (by decide +kernel))
  have h := h.2.2.1
  repeat specialize h (by first | decide +kernel | exact calm_by (by decide +kernel) | with_reducible rfl | exact fun hh => absurd hh (by decide +kernel))
  exact comes h

theorem wit_QueuePairs_6 (ob : Obligations.QueuePairs) : Completes (.roceAckReceive 128 4 97) sQueuePairs3 (fun _ => True) := by
  have h := ob sQueuePairs3 128
  repeat specialize h (by first | decide +kernel | exact calm_by (by decide +kernel) | with_reducible rfl | exact fun hh => absurd hh (by decide +kernel))
  have h := h.2.2.1
  repeat specialize h (by first | decide +kernel | exact calm_by (by decide +kernel) | with_reducible rfl | exact fun hh => absurd hh (by decide +kernel))
  have h := h ⟨.inr (by decide +kernel), fun _ => by decide +kernel⟩
  repeat specialize h (by first | decide +kernel | exact calm_by (by decide +kernel) | with_reducible rfl | exact fun hh => absurd hh (by decide +kernel))
  have h := h.1 (wMsg 0)
  repeat specialize h (by first | decide +kernel | exact calm_by (by decide +kernel) | with_reducible rfl | exact fun hh => absurd hh (by decide +kernel))
  have h := h.2.2.2 97
  repeat specialize h (by first | decide +kernel | exact calm_by (by decide +kernel) | with_reducible rfl | exact fun hh => absurd hh (by decide +kernel))
  exact comes h

theorem wit_QueuePairs_7 (ob : Obligations.QueuePairs) : Completes (.qpAckTimeout 128) sQueuePairs5 (fun _ => True) := by
  have h := ob sQueuePairs5 128
  repeat specialize h (by first | decide +kernel | exact calm_by (by decide +kernel) | with_reducible rfl | exact fun hh => absurd hh (by decide +kernel))
  have h := h.2.2.2.1
  repeat specialize h (by first | decide +kernel | exact calm_by (by decide +kernel) | with_reducible rfl | exact fun hh => absurd hh (by decide +kernel))
  have h := h.1
  repeat specialize h (by first | decide +kernel | exact calm_by (by decide +kernel) | with_reducible rfl | exact fun hh => absurd hh (by decide +kernel))
  exact comes h

theorem wit_QueuePairs_8 (ob : Obligations.QueuePairs) : Completes (.qpAckTimeout 128) sQueuePairs8 (fun _ => True) := by
  have h := ob sQueuePairs8 128
  repeat specialize h (by first | decide +kernel | exact calm_by (by decide +kernel) | with_reducible rfl | exact fun hh => absurd hh (by decide +kernel))
  have h := h.2.2.2.1
  repeat specialize h (by first | decide +kernel | exact calm_by (by decide +kernel) | with_reducible rfl | exact fun hh => absurd hh (by decide +kernel))
  have h := h.2
  repeat specialize h (by first | decide +kernel | exact calm_by (by decide +kernel) | with_reducible rfl | exact fun hh => absurd hh (by decide +kernel))
  exact comes h

theorem wit_QueuePairs_9 (ob : Obligations.QueuePairs) : Completes (.rnrRetryTimeout 128) sQueuePairs9 (fun _ => True) := by
  have h := ob sQueuePairs9 128
  repeat specialize h (by first | decide +kernel | exact calm_by (by decide +kernel) | with_reducible rfl | exact fun hh => absurd hh (by decide +kernel))
  have h := h.2.2.2.2.1
  repeat specialize h (by first | decide +kernel | exact calm_by (by decide +kernel) | with_reducible rfl | exact fun hh => absurd hh (by decide +kernel))
  have h := h.1 (.inl (by decide +kernel))
  repeat specialize h (by first | decide +kernel | exact calm_by (by decide +kernel) | with_reducible rfl | exact fun hh => absurd hh (by decide +kernel))
  exact comes h

theorem wit_QueuePairs_10 (ob : Obligations.QueuePairs) : Completes (.rnrRetryTimeout 128) sQueuePairs10 (fun _ => True) := by
  have h := ob sQueuePairs10 128
  repeat specialize h (by first | decide +kernel | exact calm_by (by decide +kernel) | with_reducible rfl | exact fun hh => absurd hh (by decide +kernel))
  have h := h.2.2.2.2.1
  repeat specialize h (by first | decide +kernel | exact calm_by (by decide +kernel) | with_reducible rfl | exact fun hh => absurd hh (by decide +kernel))
  have h := h.2
  repeat specialize h (by first | decide +kernel | exact calm_by (by decide +kernel) | with_reducible rfl | exact fun hh => absurd hh (by decide +kernel))
  exact comes h

theorem wit_QueuePairs_11 (ob : Obligations.QueuePairs) : Completes (.cnpReceive 128) sQueuePairs11 (fun _ => True) := by
  have h := ob sQueuePairs11 128
  repeat specialize h (by first | decide +kernel | exact calm_by (by decide +kernel) | with_reducible rfl | exact fun hh => absurd hh (by decide +kernel))
  have h := h.2.2.1
  repeat specialize h (by first | decide +kernel | exact calm_by (by decide +kernel) | with_reducible rfl | exact fun hh => absurd hh (by decide +kernel))
  have h := h ⟨.inr (by decide +kernel), fun _ => by decide +kernel⟩
  repeat specialize h (by first | decide +kernel | exact calm_by (by decide +kernel) | with_reducible rfl | exact fun hh => absurd hh (by decide +kernel))
  have h := h.2.1
  repeat specialize h (by first | decide +kernel | exact calm_by (by decide +kernel) | with_reducible rfl | exact fun hh => absurd hh (by decide +kernel))
  exact comes h

theorem wit_QueuePairs_12 (ob : Obligations.QueuePairs) : Completes (.cnpReceive 128) sQueuePairs12 (fun _ => True) := by
  have h := ob sQueuePairs12 128
  repeat specialize h (by first | decide +kernel | exact calm_by (by decide +kernel) | with_reducible rfl | exact fun hh => absurd hh (by decide +kernel))
  have h := h.2.2.1
  repeat specialize h (by first | decide +kernel | exact calm_by (by decide +kernel) | with_reducible rfl | exact fun hh => absurd hh (by decide +kernel))
  have h := h ⟨.inr (by decide +kernel), fun _ => by decide +kernel⟩
  repeat specialize h (by first | decide +kernel | exact calm_by (by decide +kernel) | with_reducible rfl | exact fun hh => absurd hh (by decide +kernel))
  have h := h.2.2 (.inl (by decide +kernel))
  repeat specialize h (by first | decide +kernel | exact calm_by (by decide +kernel) | with_reducible rfl | exact fun hh => absurd hh (by decide +kernel))
  exact comes h

theorem wit_QueuePairs_13 (ob : Obligations.QueuePairs) : Completes (.qpRts 128) sQueuePairs13 (fun _ => True) := by
  have h := ob sQueuePairs13 128
  repeat specialize h (by first | decide +kernel | exact calm_by (by decide +kernel) | with_reducible rfl | exact fun hh => absurd hh (by decide +kernel))
  have h := h.2.2.2.2.2.1
  repeat specialize h (by first | decide +kernel | exact calm_by (by decide +kernel) | with_reducible rfl | exact fun hh => absurd hh (by decide +kernel))
  exact comes h

theorem wit_QueuePairs_14 (ob : Obligations.QueuePairs) : Completes (.qpReset 128) sQueuePairs3 (fun _ => True) := by
  have h := ob sQueuePairs3 128
  repeat specialize h (by first | decide +kernel | exact calm_by (by decide +kernel) | with_reducible rfl | exact fun hh => absurd hh (by decide +kernel))
  have h := h.2.2.2.2.2.2
  repeat specialize h (by first | decide +kernel | exact calm_by (by decide +kernel) | with_reducible rfl | exact fun hh => absurd hh (by decide +kernel))
  exact comes h

/-- The device with partitions, hearths and registers as given. -/
def wPt (ps : List (Nat × Part)) (hs : List (Nat × Hearth)) (r : List (Reg × Nat)) : State :=
  r.foldl (fun (s : State) (e : Reg × Nat) => wr s e.1 e.2) { State.reset with parts := ps, hearths := hs, nextKey := 2 }
def wPart (units : Nat) : Part := { Part.none_ with st := 2, units := units, lo := 0, blks := 1, key0 := 1 }
def wBl (s : State) : Except Nat (Nat × Nat × Nat) × State := blobRead (quiet s) 2 (2 ^ 40) 0 (partGet s 2).seqMem

def sPartitionsHeld1 : State :=
  wPt [(1, { wPart 0 with blks := 16 })] [] []

def sPartitionsHeld2 : State :=
  wPt [(2, wPart 1)] [] []

def sPartitionsHeld4 : State :=
  wPt [(2, wPart 3)] [(16, { Hearth.fresh with part := some 2 })] []

def sPartitionsHeld7 : State :=
  wPt [(2, { wPart 1 with st := 1 })] [] [(R.prtCmdStatus, 1 + 2 * 1 + 16 * 2)]

def sPartitionsHeld8 : State :=
  wPt [(2, { wPart 1 with st := 3 })] [] [(R.prtCmdStatus, 1 + 2 * 4 + 16 * 2)]

def sPartitionsHeld13 : State :=
  wPt [(2, { wPart 3 with leaving := 2 })] [(16, { Hearth.fresh with part := some 2, leaving := true })] []

theorem wit_PartitionsHeld_1 (ob : Obligations.PartitionsHeld) : Completes (.form 2 1 true) sPartitionsHeld1 (fun _ => True) := by
  have h := ob sPartitionsHeld1 2
  repeat specialize h (by first | decide +kernel | exact calm_by (by decide +kernel) | with_reducible rfl | exact fun hh => absurd hh (by decide +kernel))
  have h := h.1
  repeat specialize h (by first | decide +kernel | exact calm_by (by decide +kernel) | with_reducible rfl | exact fun hh => absurd hh (by decide +kernel))
  have h := h 1 true
  have h := h.1
  repeat specialize h (by first | decide +kernel | exact calm_by (by decide +kernel) | with_reducible rfl | exact fun hh => absurd hh (by decide +kernel))
  have h := h.2
  repeat specialize h (by first | decide +kernel | exact calm_by (by decide +kernel) | with_reducible rfl | exact fun hh => absurd hh (by decide +kernel))
  exact comes h

theorem wit_PartitionsHeld_2 (ob : Obligations.PartitionsHeld) : Completes (.form 2 1 true) sPartitionsHeld2 (fun _ => True) := by
  have h := ob sPartitionsHeld2 2
  repeat specialize h (by first | decide +kernel | exact calm_by (by decide +kernel) | with_reducible rfl | exact fun hh => absurd hh (by decide +kernel))
  have h := h.1
  repeat specialize h (by first | decide +kernel | exact calm_by (by decide +kernel) | with_reducible rfl | exact fun hh => absurd hh (by decide +kernel))
  have h := h 1 true
  have h := h.2.1
  repeat specialize h (by first | decide +kernel | exact calm_by (by decide +kernel) | with_reducible rfl | exact fun hh => absurd hh (by decide +kernel))
  exact comes h

theorem wit_PartitionsHeld_3 (ob : Obligations.PartitionsHeld) : Completes (.grow 2 2) sPartitionsHeld2 (fun _ => True) := by
  have h := ob sPartitionsHeld2 2
  repeat specialize h (by first | decide +kernel | exact calm_by (by decide +kernel) | with_reducible rfl | exact fun hh => absurd hh (by decide +kernel))
  have h := h.1
  repeat specialize h (by first | decide +kernel | exact calm_by (by decide +kernel) | with_reducible rfl | exact fun hh => absurd hh (by decide +kernel))
  have h := h 2 true
  repeat specialize h (by first | decide +kernel | exact calm_by (by decide +kernel) | with_reducible rfl | exact fun hh => absurd hh (by decide +kernel))
  have h := h.2.2.2.2.1
  repeat specialize h (by first | decide +kernel | exact calm_by (by decide +kernel) | with_reducible rfl | exact fun hh => absurd hh (by decide +kernel))
  exact comes h

theorem wit_PartitionsHeld_4 (ob : Obligations.PartitionsHeld) : Completes (.shrink 2 2) sPartitionsHeld4 (fun _ => True) := by
  have h := ob sPartitionsHeld4 2
  repeat specialize h (by first | decide +kernel | exact calm_by (by decide +kernel) | with_reducible rfl | exact fun hh => absurd hh (by decide +kernel))
  have h := h.1
  repeat specialize h (by first | decide +kernel | exact calm_by (by decide +kernel) | with_reducible rfl | exact fun hh => absurd hh (by decide +kernel))
  have h := h 2 true
  repeat specialize h (by first | decide +kernel | exact calm_by (by decide +kernel) | with_reducible rfl | exact fun hh => absurd hh (by decide +kernel))
  have h := h.2.2.2.2.2.1
  repeat specialize h (by first | decide +kernel | exact calm_by (by decide +kernel) | with_reducible rfl | exact fun hh => absurd hh (by decide +kernel))
  exact comes h

theorem wit_PartitionsHeld_5 (ob : Obligations.PartitionsHeld) : Completes (.shrink 2 1) sPartitionsHeld2 (fun _ => True) := by
  have h := ob sPartitionsHeld2 2
  repeat specialize h (by first | decide +kernel | exact calm_by (by decide +kernel) | with_reducible rfl | exact fun hh => absurd hh (by decide +kernel))
  have h := h.1
  repeat specialize h (by first | decide +kernel | exact calm_by (by decide +kernel) | with_reducible rfl | exact fun hh => absurd hh (by decide +kernel))
  have h := h 1 true
  repeat specialize h (by first | decide +kernel | exact calm_by (by decide +kernel) | with_reducible rfl | exact fun hh => absurd hh (by decide +kernel))
  have h := h.2.2.2.2.2.2.1
  repeat specialize h (by first | decide +kernel | exact calm_by (by decide +kernel) | with_reducible rfl | exact fun hh => absurd hh (by decide +kernel))
  exact comes h

theorem wit_PartitionsHeld_6 (ob : Obligations.PartitionsHeld) : Completes (.dissolve 2) sPartitionsHeld2 (fun _ => True) := by
  have h := ob sPartitionsHeld2 2
  repeat specialize h (by first | decide +kernel | exact calm_by (by decide +kernel) | with_reducible rfl | exact fun hh => absurd hh (by decide +kernel))
  have h := h.1
  repeat specialize h (by first | decide +kernel | exact calm_by (by decide +kernel) | with_reducible rfl | exact fun hh => absurd hh (by decide +kernel))
  have h := h 1 true
  repeat specialize h (by first | decide +kernel | exact calm_by (by decide +kernel) | with_reducible rfl | exact fun hh => absurd hh (by decide +kernel))
  have h := h.2.2.2.2.2.2.2
  repeat specialize h (by first | decide +kernel | exact calm_by (by decide +kernel) | with_reducible rfl | exact fun hh => absurd hh (by decide +kernel))
  exact comes h

theorem wit_PartitionsHeld_7 (ob : Obligations.PartitionsHeld) : Completes (.prtCmdDone) sPartitionsHeld7 (fun _ => True) := by
  have h := ob sPartitionsHeld7 2
  repeat specialize h (by first | decide +kernel | exact calm_by (by decide +kernel) | with_reducible rfl | exact fun hh => absurd hh (by decide +kernel))
  have h := h.2.2.1
  repeat specialize h (by first | decide +kernel | exact calm_by (by decide +kernel) | with_reducible rfl | exact fun hh => absurd hh (by decide +kernel))
  have h := h.1
  repeat specialize h (by first | decide +kernel | exact calm_by (by decide +kernel) | with_reducible rfl | exact fun hh => absurd hh (by decide +kernel))
  exact comes h

theorem wit_PartitionsHeld_8 (ob : Obligations.PartitionsHeld) : Completes (.prtCmdDone) sPartitionsHeld8 (fun _ => True) := by
  have h := ob sPartitionsHeld8 2
  repeat specialize h (by first | decide +kernel | exact calm_by (by decide +kernel) | with_reducible rfl | exact fun hh => absurd hh (by decide +kernel))
  have h := h.2.2.1
  repeat specialize h (by first | decide +kernel | exact calm_by (by decide +kernel) | with_reducible rfl | exact fun hh => absurd hh (by decide +kernel))
  have h := h.2
  repeat specialize h (by first | decide +kernel | exact calm_by (by decide +kernel) | with_reducible rfl | exact fun hh => absurd hh (by decide +kernel))
  exact comes h

theorem wit_PartitionsHeld_9 (ob : Obligations.PartitionsHeld) : Completes (.prtQuotaWrite 2 5) sPartitionsHeld2 (fun _ => True) := by
  have h := ob sPartitionsHeld2 2
  repeat specialize h (by first | decide +kernel | exact calm_by (by decide +kernel) | with_reducible rfl | exact fun hh => absurd hh (by decide +kernel))
  have h := h.2.2.2.1
  repeat specialize h (by first | decide +kernel | exact calm_by (by decide +kernel) | with_reducible rfl | exact fun hh => absurd hh (by decide +kernel))
  have h := h 5
  repeat specialize h (by first | decide +kernel | exact calm_by (by decide +kernel) | with_reducible rfl | exact fun hh => absurd hh (by decide +kernel))
  have h := h.1
  repeat specialize h (by first | decide +kernel | exact calm_by (by decide +kernel) | with_reducible rfl | exact fun hh => absurd hh (by decide +kernel))
  exact comes h

theorem wit_PartitionsHeld_10 (ob : Obligations.PartitionsHeld) : Completes (.prtQuotaWrite 2 16777215) sPartitionsHeld2 (fun _ => True) := by
  have h := ob sPartitionsHeld2 2
  repeat specialize h (by first | decide +kernel | exact calm_by (by decide +kernel) | with_reducible rfl | exact fun hh => absurd hh (by decide +kernel))
  have h := h.2.2.2.1
  repeat specialize h (by first | decide +kernel | exact calm_by (by decide +kernel) | with_reducible rfl | exact fun hh => absurd hh (by decide +kernel))
  have h := h 16777215
  repeat specialize h (by first | decide +kernel | exact calm_by (by decide +kernel) | with_reducible rfl | exact fun hh => absurd hh (by decide +kernel))
  have h := h.2.1 (.inl (by decide +kernel))
  repeat specialize h (by first | decide +kernel | exact calm_by (by decide +kernel) | with_reducible rfl | exact fun hh => absurd hh (by decide +kernel))
  exact comes h

theorem wit_PartitionsHeld_11 (ob : Obligations.PartitionsHeld) : Completes (.prtRateWrite 2 5) sPartitionsHeld2 (fun _ => True) := by
  have h := ob sPartitionsHeld2 2
  repeat specialize h (by first | decide +kernel | exact calm_by (by decide +kernel) | with_reducible rfl | exact fun hh => absurd hh (by decide +kernel))
  have h := h.2.2.2.1
  repeat specialize h (by first | decide +kernel | exact calm_by (by decide +kernel) | with_reducible rfl | exact fun hh => absurd hh (by decide +kernel))
  have h := h 5
  repeat specialize h (by first | decide +kernel | exact calm_by (by decide +kernel) | with_reducible rfl | exact fun hh => absurd hh (by decide +kernel))
  have h := h.2.2.1
  repeat specialize h (by first | decide +kernel | exact calm_by (by decide +kernel) | with_reducible rfl | exact fun hh => absurd hh (by decide +kernel))
  exact comes h

theorem wit_PartitionsHeld_12 (ob : Obligations.PartitionsHeld) : Completes (.prtRateWrite 2 511) sPartitionsHeld2 (fun _ => True) := by
  have h := ob sPartitionsHeld2 2
  repeat specialize h (by first | decide +kernel | exact calm_by (by decide +kernel) | with_reducible rfl | exact fun hh => absurd hh (by decide +kernel))
  have h := h.2.2.2.1
  repeat specialize h (by first | decide +kernel | exact calm_by (by decide +kernel) | with_reducible rfl | exact fun hh => absurd hh (by decide +kernel))
  have h := h 511
  repeat specialize h (by first | decide +kernel | exact calm_by (by decide +kernel) | with_reducible rfl | exact fun hh => absurd hh (by decide +kernel))
  have h := h.2.2.2
  repeat specialize h (by first | decide +kernel | exact calm_by (by decide +kernel) | with_reducible rfl | exact fun hh => absurd hh (by decide +kernel))
  exact comes h

theorem wit_PartitionsHeld_13 (ob : Obligations.PartitionsHeld) : Completes (.hearthLeave 16) sPartitionsHeld13 (fun _ => True) := by
  have h := ob (wPt [] [] []) 2
  repeat specialize h (by first | decide +kernel | exact calm_by (by decide +kernel) | with_reducible rfl | exact fun hh => absurd hh (by decide +kernel))
  have h := h.2.2.2.2 sPartitionsHeld13 16
  repeat specialize h (by first | decide +kernel | exact calm_by (by decide +kernel) | with_reducible rfl | exact fun hh => absurd hh (by decide +kernel))
  exact comes h

theorem wit_PartitionsHeld_14 (ob : Obligations.PartitionsHeld) : Completes (.form 2 0 true) State.reset (fun _ => True) := by
  have h := ob State.reset 2
  repeat specialize h (by first | decide +kernel | exact calm_by (by decide +kernel) | with_reducible rfl | exact fun hh => absurd hh (by decide +kernel))
  have h := h.1
  repeat specialize h (by first | decide +kernel | exact calm_by (by decide +kernel) | with_reducible rfl | exact fun hh => absurd hh (by decide +kernel))
  have h := h 0 true
  repeat specialize h (by first | decide +kernel | exact calm_by (by decide +kernel) | with_reducible rfl | exact fun hh => absurd hh (by decide +kernel))
  have h := h.2.2.1
  repeat specialize h (by first | decide +kernel | exact calm_by (by decide +kernel) | with_reducible rfl | exact fun hh => absurd hh (by decide +kernel))
  exact comes h

theorem wit_PartitionsHeld_15 (ob : Obligations.PartitionsHeld) : Completes (.form 3 1 true) sPartitionsHeld2 (fun _ => True) := by
  have h := ob sPartitionsHeld2 3
  repeat specialize h (by first | decide +kernel | exact calm_by (by decide +kernel) | with_reducible rfl | exact fun hh => absurd hh (by decide +kernel))
  have h := h.1
  repeat specialize h (by first | decide +kernel | exact calm_by (by decide +kernel) | with_reducible rfl | exact fun hh => absurd hh (by decide +kernel))
  have h := h 1 true
  repeat specialize h (by first | decide +kernel | exact calm_by (by decide +kernel) | with_reducible rfl | exact fun hh => absurd hh (by decide +kernel))
  have h := h.2.2.2.1
  repeat specialize h (by first | decide +kernel | exact calm_by (by decide +kernel) | with_reducible rfl | exact fun hh => absurd hh (by decide +kernel))
  exact comes h

theorem wit_PartitionsHeld_16 (ob : Obligations.PartitionsHeld) : Completes (.grow 2 2) sPartitionsHeld7 (fun _ => True) := by
  have h := ob sPartitionsHeld7 2
  repeat specialize h (by first | decide +kernel | exact calm_by (by decide +kernel) | with_reducible rfl | exact fun hh => absurd hh (by decide +kernel))
  have h := h.2.1
  repeat specialize h (by first | decide +kernel | exact calm_by (by decide +kernel) | with_reducible rfl | exact fun hh => absurd hh (by decide +kernel))
  have h := h 2 true (.grow 2 2) (by simp)
  exact comes h

/-- The premise is a closed Boolean that evaluates to true; the kernel would take minutes over its 90 frame table pages. -/
theorem wit_PartitionsHeld_17 (ob : Obligations.PartitionsHeld)
    (g : calmB (formOp (quiet State.reset) 2 1 true) = true) : Completes (.form 2 1 true) State.reset (fun _ => True) := by
  have h := ob State.reset 2
  repeat specialize h (by first | decide +kernel | exact calm_by (by decide +kernel) | with_reducible rfl | exact fun hh => absurd hh (by decide +kernel))
  have h := h.1
  repeat specialize h (by first | decide +kernel | exact calm_by (by decide +kernel) | with_reducible rfl | exact fun hh => absurd hh (by decide +kernel))
  have h := h 1 true
  repeat specialize h (by first | decide +kernel | exact calm_by (by decide +kernel) | with_reducible rfl | exact fun hh => absurd hh (by decide +kernel))
  have h := h.1
  repeat specialize h (by first | decide +kernel | exact calm_by (by decide +kernel) | with_reducible rfl | exact fun hh => absurd hh (by decide +kernel))
  have h := h.1 ((blockRun State.reset 1).getD 0)
  repeat specialize h (by first | decide +kernel | exact calm_by (by decide +kernel) | with_reducible rfl | exact fun hh => absurd hh (by decide +kernel))
  exact comes (h (calm_by g))

def sKeysAndReports1 : State :=
  wPt [(2, wPart 1)] [] []

def sKeysAndReports2 : State :=
  wPt [(2, { wPart 1 with key1 := 5 })] [] []

def sKeysAndReports5 : State :=
  wPt [(2, wPart 1)] [] [(R.colPartCtrlP 2, 8)]

def sKeysAndReports6 : State :=
  { wPt [(2, wPart 1)] [] [] with keyRun := some (2, 2, 0) }

def sKeysAndReports7 : State :=
  wPt [(2, { wPart 1 with sweep := 2, key1 := 5 })] [] []

def sKeysAndReports11 : State :=
  { wPt [(2, wPart 1)] [] [] with repRun := some [1, 2] }

/-- A key blob of KIND `kind` at VA 0, of SLOT 0 and KEY_SEQ 1 (R454), which a partition whose free value accepts it takes. -/
def wBlob (kind : Nat) : State := wF Hearth.fresh [(65536 * 32, leBytes 8 (kind + 2 ^ 32))]
def wBlobBytes (kind : Nat) : List Byte := (vaGet (quiet (wBlob kind)) 2 0 1184 false).1.getD []
def wBlobEnd (kind : Nat) : State := (vaGet (quiet (wBlob kind)) 2 0 1184 false).2.2
def wBlobOk (kind : Nat) : Bool := Config.blobOk 0 2 0 (wBlobBytes kind)
theorem blobTaken {s w : State} {bs : List Byte} {ue : Bool} {kind : Nat} (h : vaGet s 2 0 1184 false = (some bs, ue, w))
    (g : Config.blobOk s.coldStarts 2 (partGet s 2).count bs = true)
    (k : leVal ((bs.drop 0).take 1) = kind ∧ leVal ((bs.drop 1).take 1) = 0 ∧ leVal ((bs.drop 2).take 2) = 0 ∧ leVal ((bs.drop 4).take 4) = 1 ∧
      leVal ((bs.drop 8).take 8) = 0) (t : (decide (kind = 1) && decide (0 = txSlot s 2) && decide (rdf s (R.colPartCtrlP 2) 2 2 = 2)) = false) :
    blobRead s 2 0 kind 0 = (.ok (1, 0, 2 * Config.blobKey s.coldStarts 2 (partGet s 2).count bs + 1), w) := by
  obtain ⟨k1, k2, k3, k4, k5⟩ := k
  simp only [blobRead, h, k1, k2, k3, k4, k5, g]
  simpa using t

theorem wit_KeysAndReports_1 (ob : Obligations.KeysAndReports) : Completes (.rotateGen 2) sKeysAndReports1 (fun _ => True) := by
  have h := ob sKeysAndReports1 2
  repeat specialize h (by first | decide +kernel | exact calm_by (by decide +kernel) | with_reducible rfl | exact fun hh => absurd hh (by decide +kernel))
  have h := h.1
  repeat specialize h (by first | decide +kernel | exact calm_by (by decide +kernel) | with_reducible rfl | exact fun hh => absurd hh (by decide +kernel))
  have h := h.1
  repeat specialize h (by first | decide +kernel | exact calm_by (by decide +kernel) | with_reducible rfl | exact fun hh => absurd hh (by decide +kernel))
  exact comes h

theorem wit_KeysAndReports_2 (ob : Obligations.KeysAndReports) : Completes (.rotateGen 2) sKeysAndReports2 (fun _ => True) := by
  have h := ob sKeysAndReports2 2
  repeat specialize h (by first | decide +kernel | exact calm_by (by decide +kernel) | with_reducible rfl | exact fun hh => absurd hh (by decide +kernel))
  have h := h.1
  repeat specialize h (by first | decide +kernel | exact calm_by (by decide +kernel) | with_reducible rfl | exact fun hh => absurd hh (by decide +kernel))
  have h := h.2.1
  repeat specialize h (by first | decide +kernel | exact calm_by (by decide +kernel) | with_reducible rfl | exact fun hh => absurd hh (by decide +kernel))
  exact comes h

theorem wit_KeysAndReports_3 (ob : Obligations.KeysAndReports) : Completes (.rotateImport 2 (2 ^ 40)) sKeysAndReports1 (fun _ => True) := by
  have h := ob sKeysAndReports1 2
  repeat specialize h (by first | decide +kernel | exact calm_by (by decide +kernel) | with_reducible rfl | exact fun hh => absurd hh (by decide +kernel))
  have h := h.1
  repeat specialize h (by first | decide +kernel | exact calm_by (by decide +kernel) | with_reducible rfl | exact fun hh => absurd hh (by decide +kernel))
  have h := h.2.2.2.2.1 (2 ^ 40) 4 (wBl sKeysAndReports1).2
  repeat specialize h (by first | decide +kernel | exact calm_by (by decide +kernel) | with_reducible rfl | exact fun hh => absurd hh (by decide +kernel))
  exact comes h

theorem wit_KeysAndReports_4 (ob : Obligations.KeysAndReports) : Completes (.clearFab 2 1) sKeysAndReports1 (fun _ => True) := by
  have h := ob sKeysAndReports1 2
  repeat specialize h (by first | decide +kernel | exact calm_by (by decide +kernel) | with_reducible rfl | exact fun hh => absurd hh (by decide +kernel))
  have h := h.1
  repeat specialize h (by first | decide +kernel | exact calm_by (by decide +kernel) | with_reducible rfl | exact fun hh => absurd hh (by decide +kernel))
  have h := h.2.2.2.2.2.2.2.1 1
  repeat specialize h (by first | decide +kernel | exact calm_by (by decide +kernel) | with_reducible rfl | exact fun hh => absurd hh (by decide +kernel))
  exact comes h

theorem wit_KeysAndReports_5 (ob : Obligations.KeysAndReports) : Completes (.clearFab 2 (txSlot sKeysAndReports5 2)) sKeysAndReports5 (fun _ => True) := by
  have h := ob sKeysAndReports5 2
  repeat specialize h (by first | decide +kernel | exact calm_by (by decide +kernel) | with_reducible rfl | exact fun hh => absurd hh (by decide +kernel))
  have h := h.1
  repeat specialize h (by first | decide +kernel | exact calm_by (by decide +kernel) | with_reducible rfl | exact fun hh => absurd hh (by decide +kernel))
  have h := h.2.2.2.2.2.2.2.2
  repeat specialize h (by first | decide +kernel | exact calm_by (by decide +kernel) | with_reducible rfl | exact fun hh => absurd hh (by decide +kernel))
  exact comes h

theorem wit_KeysAndReports_6 (ob : Obligations.KeysAndReports) : Completes (.secKeyCmdDone) sKeysAndReports6 (fun _ => True) := by
  have h := ob sKeysAndReports6 2
  repeat specialize h (by first | decide +kernel | exact calm_by (by decide +kernel) | with_reducible rfl | exact fun hh => absurd hh (by decide +kernel))
  have h := h.2.2.1 2 0
  repeat specialize h (by first | decide +kernel | exact calm_by (by decide +kernel) | with_reducible rfl | exact fun hh => absurd hh (by decide +kernel))
  exact comes h

theorem wit_KeysAndReports_7 (ob : Obligations.KeysAndReports) : Completes (.keySweepDone 2) sKeysAndReports7 (fun _ => True) := by
  have h := ob sKeysAndReports7 2
  repeat specialize h (by first | decide +kernel | exact calm_by (by decide +kernel) | with_reducible rfl | exact fun hh => absurd hh (by decide +kernel))
  have h := h.2.2.2.1
  repeat specialize h (by first | decide +kernel | exact calm_by (by decide +kernel) | with_reducible rfl | exact fun hh => absurd hh (by decide +kernel))
  exact comes h

theorem wit_KeysAndReports_8 (ob : Obligations.KeysAndReports) : Completes (.platformReport) sKeysAndReports1 (fun _ => True) := by
  have h := ob sKeysAndReports1 2
  repeat specialize h (by first | decide +kernel | exact calm_by (by decide +kernel) | with_reducible rfl | exact fun hh => absurd hh (by decide +kernel))
  have h := h.2.2.2.2.1
  repeat specialize h (by first | decide +kernel | exact calm_by (by decide +kernel) | with_reducible rfl | exact fun hh => absurd hh (by decide +kernel))
  have h := h.1
  repeat specialize h (by first | decide +kernel | exact calm_by (by decide +kernel) | with_reducible rfl | exact fun hh => absurd hh (by decide +kernel))
  exact comes h

theorem wit_KeysAndReports_9 (ob : Obligations.KeysAndReports) : Completes (.tenantReport 2) sKeysAndReports1 (fun _ => True) := by
  have h := ob sKeysAndReports1 2
  repeat specialize h (by first | decide +kernel | exact calm_by (by decide +kernel) | with_reducible rfl | exact fun hh => absurd hh (by decide +kernel))
  have h := h.2.2.2.2.1
  repeat specialize h (by first | decide +kernel | exact calm_by (by decide +kernel) | with_reducible rfl | exact fun hh => absurd hh (by decide +kernel))
  have h := h.2.1
  repeat specialize h (by first | decide +kernel | exact calm_by (by decide +kernel) | with_reducible rfl | exact fun hh => absurd hh (by decide +kernel))
  exact comes h

theorem wit_KeysAndReports_10 (ob : Obligations.KeysAndReports) : Completes (.tenantReport 2) State.reset (fun _ => True) := by
  have h := ob State.reset 2
  repeat specialize h (by first | decide +kernel | exact calm_by (by decide +kernel) | with_reducible rfl | exact fun hh => absurd hh (by decide +kernel))
  have h := h.2.2.2.2.1
  repeat specialize h (by first | decide +kernel | exact calm_by (by decide +kernel) | with_reducible rfl | exact fun hh => absurd hh (by decide +kernel))
  have h := h.2.2
  repeat specialize h (by first | decide +kernel | exact calm_by (by decide +kernel) | with_reducible rfl | exact fun hh => absurd hh (by decide +kernel))
  exact comes h

theorem wit_KeysAndReports_11 (ob : Obligations.KeysAndReports) : Completes (.secReportDone) sKeysAndReports11 (fun _ => True) := by
  have h := ob sKeysAndReports11 2
  repeat specialize h (by first | decide +kernel | exact calm_by (by decide +kernel) | with_reducible rfl | exact fun hh => absurd hh (by decide +kernel))
  have h := h.2.2.2.2.2.2 [1, 2]
  repeat specialize h (by first | decide +kernel | exact calm_by (by decide +kernel) | with_reducible rfl | exact fun hh => absurd hh (by decide +kernel))
  exact comes h

theorem wit_KeysAndReports_12 (ob : Obligations.KeysAndReports) : Completes (.rotateImport 2 9) sKeysAndReports2 (fun _ => True) := by
  have h := ob sKeysAndReports2 2
  repeat specialize h (by first | decide +kernel | exact calm_by (by decide +kernel) | with_reducible rfl | exact fun hh => absurd hh (by decide +kernel))
  have h := h.1
  repeat specialize h (by first | decide +kernel | exact calm_by (by decide +kernel) | with_reducible rfl | exact fun hh => absurd hh (by decide +kernel))
  have h := h.2.2.1
  repeat specialize h (by first | decide +kernel | exact calm_by (by decide +kernel) | with_reducible rfl | exact fun hh => absurd hh (by decide +kernel))
  have h := h 9
  repeat specialize h (by first | decide +kernel | exact calm_by (by decide +kernel) | with_reducible rfl | exact fun hh => absurd hh (by decide +kernel))
  exact comes h

theorem wit_KeysAndReports_13 (ob : Obligations.KeysAndReports) (g : wBlobOk 0 = true) : Completes (.rotateImport 2 0) (wBlob 0) (fun _ => True) := by
  have h := ob (wBlob 0) 2
  repeat specialize h (by first | decide +kernel | exact calm_by (by decide +kernel) | with_reducible rfl | exact fun hh => absurd hh (by decide +kernel))
  have h := h.1
  repeat specialize h (by first | decide +kernel | exact calm_by (by decide +kernel) | with_reducible rfl | exact fun hh => absurd hh (by decide +kernel))
  have h := h.2.2.2.1 0 1 0 (2 * Config.blobKey 0 2 0 (wBlobBytes 0) + 1) (wBlobEnd 0)
  repeat specialize h (by first | decide +kernel | exact calm_by (by decide +kernel) | with_reducible rfl | exact fun hh => absurd hh (by decide +kernel))
  have h := h (blobTaken (s := quiet (wBlob 0)) (ue := (vaGet (quiet (wBlob 0)) 2 0 1184 false).2.1) (opt3w (by decide +kernel)) g (by decide +kernel) (by decide +kernel))
  repeat specialize h (by first | decide +kernel | exact calm_by (by decide +kernel) | with_reducible rfl | exact fun hh => absurd hh (by decide +kernel))
  exact comes h

theorem wit_KeysAndReports_14 (ob : Obligations.KeysAndReports) (g : wBlobOk 1 = true) : Completes (.loadFab 2 0) (wBlob 1) (fun _ => True) := by
  have h := ob (wBlob 1) 2
  repeat specialize h (by first | decide +kernel | exact calm_by (by decide +kernel) | with_reducible rfl | exact fun hh => absurd hh (by decide +kernel))
  have h := h.1
  repeat specialize h (by first | decide +kernel | exact calm_by (by decide +kernel) | with_reducible rfl | exact fun hh => absurd hh (by decide +kernel))
  have h := h.2.2.2.2.2.1 0 1 0 (2 * Config.blobKey 0 2 0 (wBlobBytes 1) + 1) (wBlobEnd 1)
  repeat specialize h (by first | decide +kernel | exact calm_by (by decide +kernel) | with_reducible rfl | exact fun hh => absurd hh (by decide +kernel))
  have h := h (blobTaken (s := quiet (wBlob 1)) (ue := (vaGet (quiet (wBlob 1)) 2 0 1184 false).2.1) (opt3w (by decide +kernel)) g (by decide +kernel) (by decide +kernel))
  repeat specialize h (by first | decide +kernel | exact calm_by (by decide +kernel) | with_reducible rfl | exact fun hh => absurd hh (by decide +kernel))
  exact comes h

theorem wit_KeysAndReports_15 (ob : Obligations.KeysAndReports) : Completes (.loadFab 2 (2 ^ 40)) sKeysAndReports1 (fun _ => True) := by
  have h := ob sKeysAndReports1 2
  repeat specialize h (by first | decide +kernel | exact calm_by (by decide +kernel) | with_reducible rfl | exact fun hh => absurd hh (by decide +kernel))
  have h := h.1
  repeat specialize h (by first | decide +kernel | exact calm_by (by decide +kernel) | with_reducible rfl | exact fun hh => absurd hh (by decide +kernel))
  have h := h.2.2.2.2.2.2.1 (2 ^ 40) 4 (blobRead (quiet sKeysAndReports1) 2 (2 ^ 40) 1 (partGet sKeysAndReports1 2).seqFab).2
  repeat specialize h (by first | decide +kernel | exact calm_by (by decide +kernel) | with_reducible rfl | exact fun hh => absurd hh (by decide +kernel))
  exact comes h

theorem wit_KeysAndReports_16 (ob : Obligations.KeysAndReports) : Completes (.rotateGen 2) State.reset (fun _ => True) := by
  have h := ob State.reset 2
  repeat specialize h (by first | decide +kernel | exact calm_by (by decide +kernel) | with_reducible rfl | exact fun hh => absurd hh (by decide +kernel))
  have h := h.2.1
  repeat specialize h (by first | decide +kernel | exact calm_by (by decide +kernel) | with_reducible rfl | exact fun hh => absurd hh (by decide +kernel))
  have h := h.1
  repeat specialize h (by first | decide +kernel | exact calm_by (by decide +kernel) | with_reducible rfl | exact fun hh => absurd hh (by decide +kernel))
  exact comes h

theorem wit_KeysAndReports_17 (ob : Obligations.KeysAndReports) : Completes (.platformReport) sKeysAndReports11 (fun _ => True) := by
  have h := ob sKeysAndReports11 2
  repeat specialize h (by first | decide +kernel | exact calm_by (by decide +kernel) | with_reducible rfl | exact fun hh => absurd hh (by decide +kernel))
  have h := h.2.2.2.2.2.1 [1, 2]
  repeat specialize h (by first | decide +kernel | exact calm_by (by decide +kernel) | with_reducible rfl | exact fun hh => absurd hh (by decide +kernel))
  have h := h .platformReport (by simp)
  exact comes h

def wFlow (dev limit : Nat) : SendFlow := { id := 7, vc := 3, spart := 2, dev := dev, limit := limit, cutAt := none, dpart := 2, next := 0, un := [], wait := [], failed := false, freeAt := 0 }
def wFl (l : List SendFlow) (r : List (Reg × Nat)) : State := r.foldl (fun (s : State) (e : Reg × Nat) => wr s e.1 e.2) { State.reset with sflows := l }
/-- The device with a live link 3 on port 0 and registers as given. -/
def wPort (x : Link) (r : List (Reg × Nat)) : State := r.foldl (fun s e => wr s e.1 e.2) { State.reset with links := [(3, x)] }

def sMeasuresTaken4 : State :=
  wPt [] [] [(R.hstIpfixCfg, 1)]

def sMeasuresTaken6 : State :=
  { wPt [] [] [(R.hstIpfixCfg, 1)] with hport := { (wPt [] [] [(R.hstIpfixCfg, 1)]).hport with wait := List.replicate 4200 (0, .arpReply 0 0) } }

theorem wit_MeasuresTaken_1 (ob : Obligations.MeasuresTaken) : Completes .histSnap State.reset (fun _ => True) := by
  have h := ob State.reset
  repeat specialize h (by first | decide +kernel | exact calm_by (by decide +kernel) | with_reducible rfl | exact fun hh => absurd hh (by decide +kernel))
  have h := h.1
  exact comes h

theorem wit_MeasuresTaken_2 (ob : Obligations.MeasuresTaken) : Completes .histClr State.reset (fun _ => True) := by
  have h := ob State.reset
  repeat specialize h (by first | decide +kernel | exact calm_by (by decide +kernel) | with_reducible rfl | exact fun hh => absurd hh (by decide +kernel))
  have h := h.2.1
  exact comes h

theorem wit_MeasuresTaken_3 (ob : Obligations.MeasuresTaken) : Completes (.clockMeasure [5, 6]) State.reset (fun _ => True) := by
  have h := ob State.reset
  repeat specialize h (by first | decide +kernel | exact calm_by (by decide +kernel) | with_reducible rfl | exact fun hh => absurd hh (by decide +kernel))
  have h := h.2.2.1 [5, 6]
  exact comes h

theorem wit_MeasuresTaken_4 (ob : Obligations.MeasuresTaken) : Completes .ipfixExport sMeasuresTaken4 (fun _ => True) := by
  have h := ob sMeasuresTaken4
  repeat specialize h (by first | decide +kernel | exact calm_by (by decide +kernel) | with_reducible rfl | exact fun hh => absurd hh (by decide +kernel))
  have h := h.2.2.2.1
  repeat specialize h (by first | decide +kernel | exact calm_by (by decide +kernel) | with_reducible rfl | exact fun hh => absurd hh (by decide +kernel))
  have h := h.1
  exact comes h

theorem wit_MeasuresTaken_5 (ob : Obligations.MeasuresTaken) : Completes .ipfixTemplateRefresh sMeasuresTaken4 (fun _ => True) := by
  have h := ob sMeasuresTaken4
  repeat specialize h (by first | decide +kernel | exact calm_by (by decide +kernel) | with_reducible rfl | exact fun hh => absurd hh (by decide +kernel))
  have h := h.2.2.2.1
  repeat specialize h (by first | decide +kernel | exact calm_by (by decide +kernel) | with_reducible rfl | exact fun hh => absurd hh (by decide +kernel))
  have h := h.2.1
  repeat specialize h (by first | decide +kernel | exact calm_by (by decide +kernel) | with_reducible rfl | exact fun hh => absurd hh (by decide +kernel))
  exact comes h

theorem wit_MeasuresTaken_6 (ob : Obligations.MeasuresTaken) : Completes .ipfixTemplateRefresh sMeasuresTaken6 (fun _ => True) := by
  have h := ob sMeasuresTaken6
  repeat specialize h (by first | decide +kernel | exact calm_by (by decide +kernel) | with_reducible rfl | exact fun hh => absurd hh (by decide +kernel))
  have h := h.2.2.2.1
  repeat specialize h (by first | decide +kernel | exact calm_by (by decide +kernel) | with_reducible rfl | exact fun hh => absurd hh (by decide +kernel))
  have h := h.2.2
  repeat specialize h (by first | decide +kernel | exact calm_by (by decide +kernel) | with_reducible rfl | exact fun hh => absurd hh (by decide +kernel))
  exact comes h

theorem wit_MeasuresTaken_7 (ob : Obligations.MeasuresTaken) : Completes .ipfixExport State.reset (fun _ => True) := by
  have h := ob State.reset
  repeat specialize h (by first | decide +kernel | exact calm_by (by decide +kernel) | with_reducible rfl | exact fun hh => absurd hh (by decide +kernel))
  have h := h.2.2.2.2
  repeat specialize h (by first | decide +kernel | exact calm_by (by decide +kernel) | with_reducible rfl | exact fun hh => absurd hh (by decide +kernel))
  have h := h.1
  exact comes h

theorem wit_MeasuresTaken_8 (ob : Obligations.MeasuresTaken) : Completes .ipfixTemplateRefresh State.reset (fun _ => True) := by
  have h := ob State.reset
  repeat specialize h (by first | decide +kernel | exact calm_by (by decide +kernel) | with_reducible rfl | exact fun hh => absurd hh (by decide +kernel))
  have h := h.2.2.2.2
  repeat specialize h (by first | decide +kernel | exact calm_by (by decide +kernel) | with_reducible rfl | exact fun hh => absurd hh (by decide +kernel))
  have h := h.2
  exact comes h

def sRatesAndPowerKept2 : State :=
  wFl [wFlow 8 0] [(R.telDmpCfg, 1), (R.fabVcmapV 3, 1 + 2 ^ 4 * 4)]

def sRatesAndPowerKept3 : State :=
  wFl [wFlow 9 0] [(R.telDmpCfg, 1), (R.fabVcmapV 3, 1 + 2 ^ 4 * 4)]

def sRatesAndPowerKept4 : State :=
  wFl [wFlow 9 500] []

def sRatesAndPowerKept6 : State :=
  { State.reset with qps := [(5, { QPair.reset with limit := 700 })] }

def sRatesAndPowerKept8 : State :=
  wPt [] [] [(R.pwrCtrl, 0)]

def sRatesAndPowerKept9 : State :=
  wPt [] [] [(R.pwrCtrl, 1), (R.pwrFbCapF 1, 200 + 2 ^ 12 * 10 + 2 ^ 20 * 90 + 2 ^ 28 * 20)]

theorem wit_RatesAndPowerKept_1 (ob : Obligations.RatesAndPowerKept) : Completes (.damperWindow 2) State.reset (fun _ => True) := by
  have h := ob State.reset
  repeat specialize h (by first | decide +kernel | exact calm_by (by decide +kernel) | with_reducible rfl | exact fun hh => absurd hh (by decide +kernel))
  have h := h.1 (2)
  repeat specialize h (by first | decide +kernel | exact calm_by (by decide +kernel) | with_reducible rfl | exact fun hh => absurd hh (by decide +kernel))
  have h := h.1 (.inr (by decide +kernel))
  exact comes h

theorem wit_RatesAndPowerKept_2 (ob : Obligations.RatesAndPowerKept) : Completes (.rate ⟨4, 0, 2, 128, 9⟩) sRatesAndPowerKept2 (fun _ => True) := by
  have h := ob sRatesAndPowerKept2
  repeat specialize h (by first | decide +kernel | exact calm_by (by decide +kernel) | with_reducible rfl | exact fun hh => absurd hh (by decide +kernel))
  have h := h.2.1 ⟨4, 0, 2, 128, 9⟩
  specialize h (by first | decide +kernel | exact calm_by (by decide +kernel) | with_reducible rfl | exact fun hh => absurd hh (by decide +kernel))
  dsimp only at h
  have h := h.1
  repeat specialize h (by first | decide +kernel | exact calm_by (by decide +kernel) | with_reducible rfl | exact fun hh => absurd hh (by decide +kernel))
  exact comes h

theorem wit_RatesAndPowerKept_3 (ob : Obligations.RatesAndPowerKept) : Completes (.rate ⟨4, 0, 2, 128, 9⟩) sRatesAndPowerKept3 (fun _ => True) := by
  have h := ob sRatesAndPowerKept3
  repeat specialize h (by first | decide +kernel | exact calm_by (by decide +kernel) | with_reducible rfl | exact fun hh => absurd hh (by decide +kernel))
  have h := h.2.1 ⟨4, 0, 2, 128, 9⟩
  specialize h (by first | decide +kernel | exact calm_by (by decide +kernel) | with_reducible rfl | exact fun hh => absurd hh (by decide +kernel))
  dsimp only at h
  have h := h.2 (wFlow 9 0)
  repeat specialize h (by first | decide +kernel | exact calm_by (by decide +kernel) | with_reducible rfl | exact fun hh => absurd hh (by decide +kernel))
  exact comes h

theorem wit_RatesAndPowerKept_4 (ob : Obligations.RatesAndPowerKept) : Completes (.rateIncrease 7) sRatesAndPowerKept4 (fun _ => True) := by
  have h := ob sRatesAndPowerKept4
  repeat specialize h (by first | decide +kernel | exact calm_by (by decide +kernel) | with_reducible rfl | exact fun hh => absurd hh (by decide +kernel))
  have h := h.2.2.1 (wFlow 9 500)
  repeat specialize h (by first | decide +kernel | exact calm_by (by decide +kernel) | with_reducible rfl | exact fun hh => absurd hh (by decide +kernel))
  have h := h.1
  exact comes h

theorem wit_RatesAndPowerKept_5 (ob : Obligations.RatesAndPowerKept) : Completes (.rateResetTimeout 7) sRatesAndPowerKept4 (fun _ => True) := by
  have h := ob sRatesAndPowerKept4
  repeat specialize h (by first | decide +kernel | exact calm_by (by decide +kernel) | with_reducible rfl | exact fun hh => absurd hh (by decide +kernel))
  have h := h.2.2.1 (wFlow 9 500)
  repeat specialize h (by first | decide +kernel | exact calm_by (by decide +kernel) | with_reducible rfl | exact fun hh => absurd hh (by decide +kernel))
  have h := h.2
  exact comes h

theorem wit_RatesAndPowerKept_6 (ob : Obligations.RatesAndPowerKept) : Completes (.rateIncrease (2 ^ 32 + 5)) sRatesAndPowerKept6 (fun _ => True) := by
  have h := ob sRatesAndPowerKept6
  repeat specialize h (by first | decide +kernel | exact calm_by (by decide +kernel) | with_reducible rfl | exact fun hh => absurd hh (by decide +kernel))
  have h := h.2.2.2.1 (5)
  have h := h { QPair.reset with limit := 700 }
  repeat specialize h (by first | decide +kernel | exact calm_by (by decide +kernel) | with_reducible rfl | exact fun hh => absurd hh (by decide +kernel))
  have h := h.1
  exact comes h

theorem wit_RatesAndPowerKept_7 (ob : Obligations.RatesAndPowerKept) : Completes (.rateResetTimeout (2 ^ 32 + 5)) sRatesAndPowerKept6 (fun _ => True) := by
  have h := ob sRatesAndPowerKept6
  repeat specialize h (by first | decide +kernel | exact calm_by (by decide +kernel) | with_reducible rfl | exact fun hh => absurd hh (by decide +kernel))
  have h := h.2.2.2.1 (5)
  have h := h { QPair.reset with limit := 700 }
  repeat specialize h (by first | decide +kernel | exact calm_by (by decide +kernel) | with_reducible rfl | exact fun hh => absurd hh (by decide +kernel))
  have h := h.2
  exact comes h

theorem wit_RatesAndPowerKept_8 (ob : Obligations.RatesAndPowerKept) : Completes (.powerLoopPeriod 1 ⟨some 300, 30, 700, 5, 100, 9⟩) sRatesAndPowerKept8 (fun _ => True) := by
  have h := ob sRatesAndPowerKept8
  repeat specialize h (by first | decide +kernel | exact calm_by (by decide +kernel) | with_reducible rfl | exact fun hh => absurd hh (by decide +kernel))
  have h := h.2.2.2.2 (1)
  have h := h ⟨some 300, 30, 700, 5, 100, 9⟩
  specialize h (by first | decide +kernel | exact calm_by (by decide +kernel) | with_reducible rfl | exact fun hh => absurd hh (by decide +kernel))
  have h := h.1
  repeat specialize h (by first | decide +kernel | exact calm_by (by decide +kernel) | with_reducible rfl | exact fun hh => absurd hh (by decide +kernel))
  exact comes h

theorem wit_RatesAndPowerKept_9 (ob : Obligations.RatesAndPowerKept) : Completes (.powerLoopPeriod 1 ⟨some 300, 30, 700, 5, 100, 9⟩) sRatesAndPowerKept9 (fun _ => True) := by
  have h := ob sRatesAndPowerKept9
  repeat specialize h (by first | decide +kernel | exact calm_by (by decide +kernel) | with_reducible rfl | exact fun hh => absurd hh (by decide +kernel))
  have h := h.2.2.2.2 (1)
  have h := h ⟨some 300, 30, 700, 5, 100, 9⟩
  specialize h (by first | decide +kernel | exact calm_by (by decide +kernel) | with_reducible rfl | exact fun hh => absurd hh (by decide +kernel))
  have h := h.2
  specialize h (by first | decide +kernel | exact calm_by (by decide +kernel) | with_reducible rfl | exact fun hh => absurd hh (by decide +kernel))
  specialize h (by first | decide +kernel | exact calm_by (by decide +kernel) | with_reducible rfl | exact fun hh => absurd hh (by decide +kernel))
  specialize h (by first | decide +kernel | exact calm_by (by decide +kernel) | with_reducible rfl | exact fun hh => absurd hh (by decide +kernel))
  have h := h.1
  repeat specialize h (by first | decide +kernel | exact calm_by (by decide +kernel) | with_reducible rfl | exact fun hh => absurd hh (by decide +kernel))
  exact comes h

theorem wit_RatesAndPowerKept_10 (ob : Obligations.RatesAndPowerKept) : Completes (.powerLoopPeriod 1 ⟨some 100, 30, 700, 5, 100, 9⟩) sRatesAndPowerKept9 (fun _ => True) := by
  have h := ob sRatesAndPowerKept9
  repeat specialize h (by first | decide +kernel | exact calm_by (by decide +kernel) | with_reducible rfl | exact fun hh => absurd hh (by decide +kernel))
  have h := h.2.2.2.2 (1)
  have h := h ⟨some 100, 30, 700, 5, 100, 9⟩
  specialize h (by first | decide +kernel | exact calm_by (by decide +kernel) | with_reducible rfl | exact fun hh => absurd hh (by decide +kernel))
  have h := h.2
  specialize h (by first | decide +kernel | exact calm_by (by decide +kernel) | with_reducible rfl | exact fun hh => absurd hh (by decide +kernel))
  specialize h (by first | decide +kernel | exact calm_by (by decide +kernel) | with_reducible rfl | exact fun hh => absurd hh (by decide +kernel))
  specialize h (by first | decide +kernel | exact calm_by (by decide +kernel) | with_reducible rfl | exact fun hh => absurd hh (by decide +kernel))
  have h := h.2.1
  repeat specialize h (by first | decide +kernel | exact calm_by (by decide +kernel) | with_reducible rfl | exact fun hh => absurd hh (by decide +kernel))
  exact comes h

theorem wit_RatesAndPowerKept_11 (ob : Obligations.RatesAndPowerKept) : Completes (.powerLoopPeriod 1 ⟨some 195, 30, 700, 5, 100, 9⟩) sRatesAndPowerKept9 (fun _ => True) := by
  have h := ob sRatesAndPowerKept9
  repeat specialize h (by first | decide +kernel | exact calm_by (by decide +kernel) | with_reducible rfl | exact fun hh => absurd hh (by decide +kernel))
  have h := h.2.2.2.2 (1)
  have h := h ⟨some 195, 30, 700, 5, 100, 9⟩
  specialize h (by first | decide +kernel | exact calm_by (by decide +kernel) | with_reducible rfl | exact fun hh => absurd hh (by decide +kernel))
  have h := h.2
  specialize h (by first | decide +kernel | exact calm_by (by decide +kernel) | with_reducible rfl | exact fun hh => absurd hh (by decide +kernel))
  specialize h (by first | decide +kernel | exact calm_by (by decide +kernel) | with_reducible rfl | exact fun hh => absurd hh (by decide +kernel))
  specialize h (by first | decide +kernel | exact calm_by (by decide +kernel) | with_reducible rfl | exact fun hh => absurd hh (by decide +kernel))
  have h := h.2.2
  repeat specialize h (by first | decide +kernel | exact calm_by (by decide +kernel) | with_reducible rfl | exact fun hh => absurd hh (by decide +kernel))
  exact comes h

/-- Partition 2 with one hearth or two, task 5 of it held as a suspect of hearth 0, in the suspect procedure. -/
def wSus (hs : List (Nat × Hearth)) : State :=
  let s := wG Hearth.fresh (wEg { wTask wTd .held with hearth := 0 }) wImg []
  { s with hearths := hs, stk := { s.stk with susp := some ⟨2, none, false⟩ } }
def wFr : Hearth := { Hearth.fresh with part := some 2 }
def wSusT : Task := { wTask wTd .held with hearth := 0 }
def wSus2 : State := wSus [(0, wFr), (1, wFr)]
def wSusL : Option (List Nat) × State := hlistOf (unbind (quiet wSus2) 1) 2 wSusT
def wSusP : Option (Nat × Plan) × State := suspectPlan wSusL.2 2 wSusT
def wSusE : List Nat × Option Nat := suspectHandles wSusL.1 wSusP.1
def wSusB : State := bindOn wSusP.2 2 1 wSusT wSusE.1 wSusE.2 (wSusP.1.map (·.2))
def wHReq : HReq := ⟨3, .tile, 0, 5, false, 0, 65536 * 32, 0, 1024, 0, 1024, false, 65536, 0⟩
theorem wNoCmds {s : State} (h : s.qps = [(1024, QPair.reset)]) (q : Nat) : (qpGet s q).cmds = [] := by
  unfold qpGet tgetD tget tget
  rw [h]
  by_cases hq : 1024 = q <;> simp [hq, QPair.reset]
theorem wAtRest {s : State} (h1 : s.parts = []) (h2 : s.hearths = []) (h3 : dataQps s = []) (h4 : s.csr = csrServing) (h5 : s.stk.trial = none)
    (h6 : s.stk.flashRun = none) : AtRest s :=
  { formed := fun p => by simp [prtFormed, partGet, tgetD, tget, h1, Part.none_]
    tasks := fun h => by simp [hget, tgetD, tget, h2, Hearth.fresh]
    qps := h3
    trains := fun k => by
      have a1 : R.stkStatus.addr ≠ (R.memTrain k).addr := by simp only [R.stkStatus, R.memTrain, blkBase]; omega
      have a2 : R.stkFwInfo.addr ≠ (R.memTrain k).addr := by simp only [R.stkFwInfo, R.memTrain, blkBase]; omega
      have a3 : (R.hstQpCtrlQ 1024).addr ≠ (R.memTrain k).addr := by simp only [R.hstQpCtrlQ, R.memTrain, blkBase]; omega
      have e : tget csrServing (R.memTrain k).addr = none := by simp only [csrServing, tget, if_neg a1, if_neg a2, if_neg a3]
      rw [rd, tgetD, h4, e]; show bit 0 1 = false; decide
    trial := h5
    flash := h6 }
theorem wOneHeld {s : State} {p : Nat} {t : Task} (h : (gget s p).tasks.filter (fun t => t.place = .held) = [t]) : heldTasks s p = [t] := by
  simp [heldTasks, h]

def sHearthsReset1 : State :=
  wPt [] [(16, Hearth.fresh)] [(R.errCtrl, 2 ^ 4 * 0 + 2 ^ 8 * 3 + 2 ^ 16 * 600)]

def sHearthsReset2 : State :=
  wPt [] [(16, { Hearth.fresh with faults := [0, 0, 0] })] [(R.errCtrl, 2 ^ 4 * 0 + 2 ^ 8 * 3 + 2 ^ 16 * 600)]

def sHearthsReset3 : State :=
  wPt [] [(16, { Hearth.fresh with inReset := true })] [(R.errCtrl, 2 ^ 4 * 0 + 2 ^ 8 * 3 + 2 ^ 16 * 600)]

def sHearthsReset4 : State :=
  wPt [(2, { wPart 1 with units := 2 })] [(16, { Hearth.fresh with inReset := true, oos := true })] [(R.errCtrl, 2 ^ 4 * 0 + 2 ^ 8 * 3 + 2 ^ 16 * 600)]

def sHearthsReset6 : State :=
  wPt [(2, { wPart 1 with units := 2 })] [(16, { Hearth.fresh with part := some 2 })] [(R.errCtrl, 2 ^ 4 * 0 + 2 ^ 8 * 3 + 2 ^ 16 * 600)]

def sHearthsReset7 : State :=
  wPt [] [(16, { Hearth.fresh with oos := true })] [(R.errCtrl, 2 ^ 4 * 0 + 2 ^ 8 * 3 + 2 ^ 16 * 600)]

def sHearthsReset8 : State :=
  wPt [] [(16, { Hearth.fresh with held := true })] [(R.errCtrl, 2 ^ 4 * 0 + 2 ^ 8 * 3 + 2 ^ 16 * 600)]

def sHearthsReset9 : State :=
  wPt [] [(16, Hearth.fresh)] [(R.stkCmdStatus, 1)]

def sHearthsReset12 : State :=
  wPt [] [(16, { Hearth.fresh with reqs := [wHReq] })] [(R.errCtrl, 2 ^ 4 * 0 + 2 ^ 8 * 3 + 2 ^ 16 * 600)]

theorem wit_HearthsReset_1 (ob : Obligations.HearthsReset) : Completes (.hearthFault 16 .selfTest) sHearthsReset1 (fun _ => True) := by
  have h := ob sHearthsReset1 16
  repeat specialize h (by first | decide +kernel | exact calm_by (by decide +kernel) | with_reducible rfl | exact fun hh => absurd hh (by decide +kernel))
  have h := h.1
  repeat specialize h (by first | decide +kernel | exact calm_by (by decide +kernel) | with_reducible rfl | exact fun hh => absurd hh (by decide +kernel))
  have h := h .selfTest (.inl ⟨rfl, rfl⟩)
  repeat specialize h (by first | decide +kernel | exact calm_by (by decide +kernel) | with_reducible rfl | exact fun hh => absurd hh (by decide +kernel))
  have h := h.1
  repeat specialize h (by first | decide +kernel | exact calm_by (by decide +kernel) | with_reducible rfl | exact fun hh => absurd hh (by decide +kernel))
  exact comes h

theorem wit_HearthsReset_2 (ob : Obligations.HearthsReset) : Completes (.hearthFault 16 .selfTest) sHearthsReset2 (fun _ => True) := by
  have h := ob sHearthsReset2 16
  repeat specialize h (by first | decide +kernel | exact calm_by (by decide +kernel) | with_reducible rfl | exact fun hh => absurd hh (by decide +kernel))
  have h := h.1
  repeat specialize h (by first | decide +kernel | exact calm_by (by decide +kernel) | with_reducible rfl | exact fun hh => absurd hh (by decide +kernel))
  have h := h .selfTest (.inl ⟨rfl, rfl⟩)
  repeat specialize h (by first | decide +kernel | exact calm_by (by decide +kernel) | with_reducible rfl | exact fun hh => absurd hh (by decide +kernel))
  have h := h.2
  repeat specialize h (by first | decide +kernel | exact calm_by (by decide +kernel) | with_reducible rfl | exact fun hh => absurd hh (by decide +kernel))
  exact comes h

theorem wit_HearthsReset_3 (ob : Obligations.HearthsReset) : Completes (.hearthResetDone 16 true) sHearthsReset3 (fun _ => True) := by
  have h := ob sHearthsReset3 16
  repeat specialize h (by first | decide +kernel | exact calm_by (by decide +kernel) | with_reducible rfl | exact fun hh => absurd hh (by decide +kernel))
  have h := h.2.1
  repeat specialize h (by first | decide +kernel | exact calm_by (by decide +kernel) | with_reducible rfl | exact fun hh => absurd hh (by decide +kernel))
  have h := h (fun q i t r hh => by rw [wNoCmds rfl] at hh; cases hh)
  repeat specialize h (by first | decide +kernel | exact calm_by (by decide +kernel) | with_reducible rfl | exact fun hh => absurd hh (by decide +kernel))
  have h := h.1
  repeat specialize h (by first | decide +kernel | exact calm_by (by decide +kernel) | with_reducible rfl | exact fun hh => absurd hh (by decide +kernel))
  exact comes h

theorem wit_HearthsReset_4 (ob : Obligations.HearthsReset) : Completes (.hearthResetDone 16 true) sHearthsReset4 (fun _ => True) := by
  have h := ob sHearthsReset4 16
  repeat specialize h (by first | decide +kernel | exact calm_by (by decide +kernel) | with_reducible rfl | exact fun hh => absurd hh (by decide +kernel))
  have h := h.2.1
  repeat specialize h (by first | decide +kernel | exact calm_by (by decide +kernel) | with_reducible rfl | exact fun hh => absurd hh (by decide +kernel))
  have h := h (fun q i t r hh => by rw [wNoCmds rfl] at hh; cases hh)
  repeat specialize h (by first | decide +kernel | exact calm_by (by decide +kernel) | with_reducible rfl | exact fun hh => absurd hh (by decide +kernel))
  have h := h.2.1
  repeat specialize h (by first | decide +kernel | exact calm_by (by decide +kernel) | with_reducible rfl | exact fun hh => absurd hh (by decide +kernel))
  exact comes h

theorem wit_HearthsReset_5 (ob : Obligations.HearthsReset) : Completes (.hearthResetDone 16 false) sHearthsReset3 (fun _ => True) := by
  have h := ob sHearthsReset3 16
  repeat specialize h (by first | decide +kernel | exact calm_by (by decide +kernel) | with_reducible rfl | exact fun hh => absurd hh (by decide +kernel))
  have h := h.2.1
  repeat specialize h (by first | decide +kernel | exact calm_by (by decide +kernel) | with_reducible rfl | exact fun hh => absurd hh (by decide +kernel))
  have h := h (fun q i t r hh => by rw [wNoCmds rfl] at hh; cases hh)
  repeat specialize h (by first | decide +kernel | exact calm_by (by decide +kernel) | with_reducible rfl | exact fun hh => absurd hh (by decide +kernel))
  have h := h.2.2
  exact comes h

theorem wit_HearthsReset_6 (ob : Obligations.HearthsReset) : Completes (.hrtService 16) sHearthsReset6 (fun _ => True) := by
  have h := ob sHearthsReset6 16
  repeat specialize h (by first | decide +kernel | exact calm_by (by decide +kernel) | with_reducible rfl | exact fun hh => absurd hh (by decide +kernel))
  have h := h.2.2.1 2
  repeat specialize h (by first | decide +kernel | exact calm_by (by decide +kernel) | with_reducible rfl | exact fun hh => absurd hh (by decide +kernel))
  exact comes h

theorem wit_HearthsReset_7 (ob : Obligations.HearthsReset) : Completes (.hrtReturn 16) sHearthsReset7 (fun _ => True) := by
  have h := ob sHearthsReset7 16
  repeat specialize h (by first | decide +kernel | exact calm_by (by decide +kernel) | with_reducible rfl | exact fun hh => absurd hh (by decide +kernel))
  have h := h.2.2.2.1
  repeat specialize h (by first | decide +kernel | exact calm_by (by decide +kernel) | with_reducible rfl | exact fun hh => absurd hh (by decide +kernel))
  have h := h.1
  repeat specialize h (by first | decide +kernel | exact calm_by (by decide +kernel) | with_reducible rfl | exact fun hh => absurd hh (by decide +kernel))
  have h := h (.inl ⟨rfl, rfl⟩)
  repeat specialize h (by first | decide +kernel | exact calm_by (by decide +kernel) | with_reducible rfl | exact fun hh => absurd hh (by decide +kernel))
  exact comes h

theorem wit_HearthsReset_8 (ob : Obligations.HearthsReset) : Completes (.releaseHold 16) sHearthsReset8 (fun _ => True) := by
  have h := ob sHearthsReset8 16
  repeat specialize h (by first | decide +kernel | exact calm_by (by decide +kernel) | with_reducible rfl | exact fun hh => absurd hh (by decide +kernel))
  have h := h.2.2.2.1
  repeat specialize h (by first | decide +kernel | exact calm_by (by decide +kernel) | with_reducible rfl | exact fun hh => absurd hh (by decide +kernel))
  have h := h.2
  repeat specialize h (by first | decide +kernel | exact calm_by (by decide +kernel) | with_reducible rfl | exact fun hh => absurd hh (by decide +kernel))
  have h := h (.inl ⟨rfl, rfl⟩)
  repeat specialize h (by first | decide +kernel | exact calm_by (by decide +kernel) | with_reducible rfl | exact fun hh => absurd hh (by decide +kernel))
  exact comes h

theorem wit_HearthsReset_9 (ob : Obligations.HearthsReset) : Completes (.hrtService 16) sHearthsReset9 (fun _ => True) := by
  have h := ob sHearthsReset9 16
  repeat specialize h (by first | decide +kernel | exact calm_by (by decide +kernel) | with_reducible rfl | exact fun hh => absurd hh (by decide +kernel))
  have h := h.2.2.2.2.1
  repeat specialize h (by first | decide +kernel | exact calm_by (by decide +kernel) | with_reducible rfl | exact fun hh => absurd hh (by decide +kernel))
  have h := h.1
  repeat specialize h (by first | decide +kernel | exact calm_by (by decide +kernel) | with_reducible rfl | exact fun hh => absurd hh (by decide +kernel))
  have h := h.1
  exact comes h

theorem wit_HearthsReset_10 (ob : Obligations.HearthsReset) : Completes (.hrtReturn 16) sHearthsReset9 (fun _ => True) := by
  have h := ob sHearthsReset9 16
  repeat specialize h (by first | decide +kernel | exact calm_by (by decide +kernel) | with_reducible rfl | exact fun hh => absurd hh (by decide +kernel))
  have h := h.2.2.2.2.1
  repeat specialize h (by first | decide +kernel | exact calm_by (by decide +kernel) | with_reducible rfl | exact fun hh => absurd hh (by decide +kernel))
  have h := h.1
  repeat specialize h (by first | decide +kernel | exact calm_by (by decide +kernel) | with_reducible rfl | exact fun hh => absurd hh (by decide +kernel))
  have h := h.2.1
  exact comes h

theorem wit_HearthsReset_11 (ob : Obligations.HearthsReset) : Completes (.releaseHold 16) sHearthsReset9 (fun _ => True) := by
  have h := ob sHearthsReset9 16
  repeat specialize h (by first | decide +kernel | exact calm_by (by decide +kernel) | with_reducible rfl | exact fun hh => absurd hh (by decide +kernel))
  have h := h.2.2.2.2.1
  repeat specialize h (by first | decide +kernel | exact calm_by (by decide +kernel) | with_reducible rfl | exact fun hh => absurd hh (by decide +kernel))
  have h := h.1
  repeat specialize h (by first | decide +kernel | exact calm_by (by decide +kernel) | with_reducible rfl | exact fun hh => absurd hh (by decide +kernel))
  have h := h.2.2
  exact comes h

theorem wit_HearthsReset_12 (ob : Obligations.HearthsReset) : Completes (.requestAgeExpiry 16 0) sHearthsReset12 (fun _ => True) := by
  have h := ob sHearthsReset12 16
  repeat specialize h (by first | decide +kernel | exact calm_by (by decide +kernel) | with_reducible rfl | exact fun hh => absurd hh (by decide +kernel))
  have h := h.2.2.2.2.2 0
  repeat specialize h (by first | decide +kernel | exact calm_by (by decide +kernel) | with_reducible rfl | exact fun hh => absurd hh (by decide +kernel))
  have h := h.1 wHReq
  repeat specialize h (by first | decide +kernel | exact calm_by (by decide +kernel) | with_reducible rfl | exact fun hh => absurd hh (by decide +kernel))
  exact comes h

/-- A walk that has aged, the 64th of its hearth. -/
def sHearthsReset13 : State :=
  wPt [] [(16, { Hearth.fresh with walks := (List.range 64).map (fun i => ⟨i, 5, 0, 0, true, false⟩) })] []

theorem wit_HearthsReset_13 (ob : Obligations.HearthsReset) : Completes (.requestAgeExpiry 16 63) sHearthsReset13 (fun _ => True) := by
  have h := ob sHearthsReset13 16
  repeat specialize h (by first | decide +kernel | exact calm_by (by decide +kernel) | with_reducible rfl | exact fun hh => absurd hh (by decide +kernel))
  have h := h.2.2.2.2.2 63
  repeat specialize h (by first | decide +kernel | exact calm_by (by decide +kernel) | with_reducible rfl | exact fun hh => absurd hh (by decide +kernel))
  have h := h.2.2 ⟨63, 5, 0, 0, true, false⟩
  repeat specialize h (by first | decide +kernel | exact calm_by (by decide +kernel) | with_reducible rfl | exact fun hh => absurd hh (by decide +kernel))
  exact comes h

theorem wit_HearthsReset_14 (ob : Obligations.HearthsReset) : Completes (.requestAgeExpiry 16 0) sHearthsReset12 (fun _ => True) := by
  have h := ob sHearthsReset12 16
  repeat specialize h (by first | decide +kernel | exact calm_by (by decide +kernel) | with_reducible rfl | exact fun hh => absurd hh (by decide +kernel))
  have h := h.2.2.2.2.2 0
  repeat specialize h (by first | decide +kernel | exact calm_by (by decide +kernel) | with_reducible rfl | exact fun hh => absurd hh (by decide +kernel))
  have h := h.2.1 wHReq
  repeat specialize h (by first | decide +kernel | exact calm_by (by decide +kernel) | with_reducible rfl | exact fun hh => absurd hh (by decide +kernel))
  exact comes h

theorem wit_HearthsReset_15 (ob : Obligations.HearthsReset) : Completes (.hrtService 16) sHearthsReset1 (fun _ => True) := by
  have h := ob sHearthsReset1 16
  repeat specialize h (by first | decide +kernel | exact calm_by (by decide +kernel) | with_reducible rfl | exact fun hh => absurd hh (by decide +kernel))
  have h := h.2.2.2.2.1
  repeat specialize h (by first | decide +kernel | exact calm_by (by decide +kernel) | with_reducible rfl | exact fun hh => absurd hh (by decide +kernel))
  have h := h.2.1
  repeat specialize h (by first | decide +kernel | exact calm_by (by decide +kernel) | with_reducible rfl | exact fun hh => absurd hh (by decide +kernel))
  exact comes h

theorem wit_HearthsReset_16 (ob : Obligations.HearthsReset) : Completes (.hrtReturn 16) sHearthsReset1 (fun _ => True) := by
  have h := ob sHearthsReset1 16
  repeat specialize h (by first | decide +kernel | exact calm_by (by decide +kernel) | with_reducible rfl | exact fun hh => absurd hh (by decide +kernel))
  have h := h.2.2.2.2.1
  repeat specialize h (by first | decide +kernel | exact calm_by (by decide +kernel) | with_reducible rfl | exact fun hh => absurd hh (by decide +kernel))
  have h := h.2.2.1
  repeat specialize h (by first | decide +kernel | exact calm_by (by decide +kernel) | with_reducible rfl | exact fun hh => absurd hh (by decide +kernel))
  exact comes h

theorem wit_HearthsReset_17 (ob : Obligations.HearthsReset) : Completes (.releaseHold 16) sHearthsReset1 (fun _ => True) := by
  have h := ob sHearthsReset1 16
  repeat specialize h (by first | decide +kernel | exact calm_by (by decide +kernel) | with_reducible rfl | exact fun hh => absurd hh (by decide +kernel))
  have h := h.2.2.2.2.1
  repeat specialize h (by first | decide +kernel | exact calm_by (by decide +kernel) | with_reducible rfl | exact fun hh => absurd hh (by decide +kernel))
  have h := h.2.2.2
  repeat specialize h (by first | decide +kernel | exact calm_by (by decide +kernel) | with_reducible rfl | exact fun hh => absurd hh (by decide +kernel))
  exact comes h

def sDeviceFaultsReset6 : State :=
  { State.reset with stk := { State.reset.stk with trip := true } }

def sDeviceFaultsReset8 : State :=
  { State.reset with stk := { State.reset.stk with expiries := [0, 0] } }

def sDeviceFaultsReset13 : State :=
  { State.reset with stk := { State.reset.stk with flashRun := none } }

def sDeviceFaultsReset14 : State :=
  { State.reset with stk := { State.reset.stk with phase := .warm, warmRun := some (2, false) } }

def sDeviceFaultsReset15 : State :=
  { State.reset with away := true, stk := { State.reset.stk with ashDue := true } }

def sDeviceFaultsReset16 : State :=
  { State.reset with away := true }

theorem wit_DeviceFaultsReset_1 (ob : Obligations.DeviceFaultsReset) : Completes (.sliceTagParity 2) State.reset (fun _ => True) := by
  have h := ob.1 State.reset
  repeat specialize h (by first | decide +kernel | exact calm_by (by decide +kernel) | with_reducible rfl | exact fun hh => absurd hh (by decide +kernel))
  have h := h.1 (2)
  repeat specialize h (by first | decide +kernel | exact calm_by (by decide +kernel) | with_reducible rfl | exact fun hh => absurd hh (by decide +kernel))
  exact comes h

theorem wit_DeviceFaultsReset_2 (ob : Obligations.DeviceFaultsReset) : Completes (.bridgeFailure 5) State.reset (fun _ => True) := by
  have h := ob.1 State.reset
  repeat specialize h (by first | decide +kernel | exact calm_by (by decide +kernel) | with_reducible rfl | exact fun hh => absurd hh (by decide +kernel))
  have h := h.2.1 (5)
  repeat specialize h (by first | decide +kernel | exact calm_by (by decide +kernel) | with_reducible rfl | exact fun hh => absurd hh (by decide +kernel))
  exact comes h

theorem wit_DeviceFaultsReset_3 (ob : Obligations.DeviceFaultsReset) : Completes .refclkALoss State.reset (fun _ => True) := by
  have h := ob.1 State.reset
  repeat specialize h (by first | decide +kernel | exact calm_by (by decide +kernel) | with_reducible rfl | exact fun hh => absurd hh (by decide +kernel))
  have h := h.2.2.1
  repeat specialize h (by first | decide +kernel | exact calm_by (by decide +kernel) | with_reducible rfl | exact fun hh => absurd hh (by decide +kernel))
  have h := h.1
  exact comes h

theorem wit_DeviceFaultsReset_4 (ob : Obligations.DeviceFaultsReset) : Completes .refclkBLoss State.reset (fun _ => True) := by
  have h := ob.1 State.reset
  repeat specialize h (by first | decide +kernel | exact calm_by (by decide +kernel) | with_reducible rfl | exact fun hh => absurd hh (by decide +kernel))
  have h := h.2.2.1
  repeat specialize h (by first | decide +kernel | exact calm_by (by decide +kernel) | with_reducible rfl | exact fun hh => absurd hh (by decide +kernel))
  have h := h.2
  exact comes h

theorem wit_DeviceFaultsReset_5 (ob : Obligations.DeviceFaultsReset) : Completes (.thermalTrip (.stack 19)) State.reset (fun _ => True) := by
  have h := ob.1 State.reset
  repeat specialize h (by first | decide +kernel | exact calm_by (by decide +kernel) | with_reducible rfl | exact fun hh => absurd hh (by decide +kernel))
  have h := h.2.2.2.1 (.stack 19)
  repeat specialize h (by first | decide +kernel | exact calm_by (by decide +kernel) | with_reducible rfl | exact fun hh => absurd hh (by decide +kernel))
  exact comes h

theorem wit_DeviceFaultsReset_6 (ob : Obligations.DeviceFaultsReset) : Completes .thermalCooled sDeviceFaultsReset6 (fun _ => True) := by
  have h := ob.1 sDeviceFaultsReset6
  repeat specialize h (by first | decide +kernel | exact calm_by (by decide +kernel) | with_reducible rfl | exact fun hh => absurd hh (by decide +kernel))
  have h := h.2.2.2.2.1
  repeat specialize h (by first | decide +kernel | exact calm_by (by decide +kernel) | with_reducible rfl | exact fun hh => absurd hh (by decide +kernel))
  exact comes h

theorem wit_DeviceFaultsReset_7 (ob : Obligations.DeviceFaultsReset) : Completes .stokerWatchdog State.reset (fun _ => True) := by
  have h := ob.1 State.reset
  repeat specialize h (by first | decide +kernel | exact calm_by (by decide +kernel) | with_reducible rfl | exact fun hh => absurd hh (by decide +kernel))
  have h := h.2.2.2.2.2.1.1
  repeat specialize h (by first | decide +kernel | exact calm_by (by decide +kernel) | with_reducible rfl | exact fun hh => absurd hh (by decide +kernel))
  exact comes h

theorem wit_DeviceFaultsReset_8 (ob : Obligations.DeviceFaultsReset) : Completes .stokerWatchdog sDeviceFaultsReset8 (fun _ => True) := by
  have h := ob.1 sDeviceFaultsReset8
  repeat specialize h (by first | decide +kernel | exact calm_by (by decide +kernel) | with_reducible rfl | exact fun hh => absurd hh (by decide +kernel))
  have h := h.2.2.2.2.2.1.2
  repeat specialize h (by first | decide +kernel | exact calm_by (by decide +kernel) | with_reducible rfl | exact fun hh => absurd hh (by decide +kernel))
  exact comes h

theorem wit_DeviceFaultsReset_9 (ob : Obligations.DeviceFaultsReset) : Completes .hardThermalLimit State.reset (fun _ => True) := by
  have h := ob.1 State.reset
  repeat specialize h (by first | decide +kernel | exact calm_by (by decide +kernel) | with_reducible rfl | exact fun hh => absurd hh (by decide +kernel))
  have h := h.2.2.2.2.2.2.1
  exact comes h

theorem wit_DeviceFaultsReset_10 (ob : Obligations.DeviceFaultsReset) : Completes .refclkBothLoss State.reset (fun _ => True) := by
  have h := ob.1 State.reset
  repeat specialize h (by first | decide +kernel | exact calm_by (by decide +kernel) | with_reducible rfl | exact fun hh => absurd hh (by decide +kernel))
  have h := h.2.2.2.2.2.2.2.1
  exact comes h

theorem wit_DeviceFaultsReset_11 (ob : Obligations.DeviceFaultsReset) : Completes (.refclkReturn true) State.reset (fun _ => True) := by
  have h := ob.1 State.reset
  repeat specialize h (by first | decide +kernel | exact calm_by (by decide +kernel) | with_reducible rfl | exact fun hh => absurd hh (by decide +kernel))
  have h := h.2.2.2.2.2.2.2.2.1 true
  exact comes h

theorem wit_DeviceFaultsReset_12 (ob : Obligations.DeviceFaultsReset) : Completes (.warmReset true) State.reset (fun _ => True) := by
  have h := ob.1 State.reset
  repeat specialize h (by first | decide +kernel | exact calm_by (by decide +kernel) | with_reducible rfl | exact fun hh => absurd hh (by decide +kernel))
  have h := h.2.2.2.2.2.2.2.2.2 true
  specialize h (by first | decide +kernel | exact calm_by (by decide +kernel) | with_reducible rfl | exact fun hh => absurd hh (by decide +kernel))
  have h := h.1
  repeat specialize h (by first | decide +kernel | exact calm_by (by decide +kernel) | with_reducible rfl | exact fun hh => absurd hh (by decide +kernel))
  exact comes h

theorem wit_DeviceFaultsReset_13 (ob : Obligations.DeviceFaultsReset) : Completes (.warmReset false) sDeviceFaultsReset13 (fun _ => True) := by
  have h := ob.1 sDeviceFaultsReset13
  repeat specialize h (by first | decide +kernel | exact calm_by (by decide +kernel) | with_reducible rfl | exact fun hh => absurd hh (by decide +kernel))
  have h := h.2.2.2.2.2.2.2.2.2 false
  specialize h (by first | decide +kernel | exact calm_by (by decide +kernel) | with_reducible rfl | exact fun hh => absurd hh (by decide +kernel))
  have h := h.1
  repeat specialize h (by first | decide +kernel | exact calm_by (by decide +kernel) | with_reducible rfl | exact fun hh => absurd hh (by decide +kernel))
  exact comes h

theorem wit_DeviceFaultsReset_14 (ob : Obligations.DeviceFaultsReset) : Completes (.warmReset true) sDeviceFaultsReset14 (fun _ => True) := by
  have h := ob.2.1 sDeviceFaultsReset14 2 false
  repeat specialize h (by first | decide +kernel | exact calm_by (by decide +kernel) | with_reducible rfl | exact fun hh => absurd hh (by decide +kernel))
  have h := h.1 true
  exact comes h

theorem wit_DeviceFaultsReset_15 (ob : Obligations.DeviceFaultsReset) : Completes .stokerRestartDone sDeviceFaultsReset15 (fun _ => True) := by
  have h := ob.2.2 sDeviceFaultsReset15
  repeat specialize h (by first | decide +kernel | exact calm_by (by decide +kernel) | with_reducible rfl | exact fun hh => absurd hh (by decide +kernel))
  have h := h.1
  repeat specialize h (by first | decide +kernel | exact calm_by (by decide +kernel) | with_reducible rfl | exact fun hh => absurd hh (by decide +kernel))
  exact comes h

theorem wit_DeviceFaultsReset_16 (ob : Obligations.DeviceFaultsReset) : Completes .stokerRestartDone sDeviceFaultsReset16 (fun _ => True) := by
  have h := ob.2.2 sDeviceFaultsReset16
  repeat specialize h (by first | decide +kernel | exact calm_by (by decide +kernel) | with_reducible rfl | exact fun hh => absurd hh (by decide +kernel))
  have h := h.2
  repeat specialize h (by first | decide +kernel | exact calm_by (by decide +kernel) | with_reducible rfl | exact fun hh => absurd hh (by decide +kernel))
  exact comes h

def wResults (ok : Bool) : WarmResults := ⟨ok, true, true, [], []⟩

def sDeviceFaultsReset19 : State :=
  wrf { State.reset with stk := { State.reset.stk with flashRun := some ⟨0, 0, 0, 0⟩ } } R.stkStatus 5 3 4

theorem wit_DeviceFaultsReset_17 (ob : Obligations.DeviceFaultsReset) : Completes (.warmResetServing (wResults false)) sDeviceFaultsReset14 (fun _ => True) := by
  have h := ob.2.1 sDeviceFaultsReset14 2 false
  repeat specialize h (by first | decide +kernel | exact calm_by (by decide +kernel) | with_reducible rfl | exact fun hh => absurd hh (by decide +kernel))
  have h := h.2.1 (wResults false)
  repeat specialize h (by first | decide +kernel | exact calm_by (by decide +kernel) | with_reducible rfl | exact fun hh => absurd hh (by decide +kernel))
  exact comes h

theorem wit_DeviceFaultsReset_18 (ob : Obligations.DeviceFaultsReset) : Completes (.warmResetServing (wResults true)) sDeviceFaultsReset14 (fun _ => True) := by
  have h := ob.2.1 sDeviceFaultsReset14 2 false
  repeat specialize h (by first | decide +kernel | exact calm_by (by decide +kernel) | with_reducible rfl | exact fun hh => absurd hh (by decide +kernel))
  have h := h.2.2 (wResults true)
  repeat specialize h (by first | decide +kernel | exact calm_by (by decide +kernel) | with_reducible rfl | exact fun hh => absurd hh (by decide +kernel))
  exact comes h

theorem wit_DeviceFaultsReset_19 (ob : Obligations.DeviceFaultsReset) : Completes (.warmReset true) sDeviceFaultsReset19 (fun _ => True) := by
  have h := ob.1 sDeviceFaultsReset19
  repeat specialize h (by first | decide +kernel | exact calm_by (by decide +kernel) | with_reducible rfl | exact fun hh => absurd hh (by decide +kernel))
  have h := h.2.2.2.2.2.2.2.2.2 true
  repeat specialize h (by first | decide +kernel | exact calm_by (by decide +kernel) | with_reducible rfl | exact fun hh => absurd hh (by decide +kernel))
  have h := h.2
  repeat specialize h (by first | decide +kernel | exact calm_by (by decide +kernel) | with_reducible rfl | exact fun hh => absurd hh (by decide +kernel))
  exact comes h

/-- The device at reset is at rest. -/
theorem wit_AtRest : AtRest State.reset := wAtRest rfl rfl (by decide +kernel) rfl rfl rfl

def sProceduresRun1 : State :=
  wG Hearth.fresh (wEg { wTask 0 .held with hearth := 0 }) [] []

def sProceduresRun3 : State :=
  { State.reset with stk := { State.reset.stk with trial := some 1 } }

def sProceduresRun6 : State :=
  wFab [] wUp [] [] [] [(R.errCap, 2 ^ 31), (R.colDigHead, 1 + 2 ^ 16), (R.colDigI 0 0, 5 + 2 ^ 8 * 2 + 2 ^ 32 * 9), (R.colDigI 0 1, 7), (R.colDigI 0 2, 64), (R.colDigI 0 3, 99), (R.stkDigQuery, 2 + 2 ^ 8 * 5 + 2 ^ 16 * 9 + 2 ^ 32 * 7)]

def sProceduresRun7 : State :=
  wFab [] wUp [] [] [] []

def sProceduresRun8 : State :=
  { State.reset with stk := { State.reset.stk with digs := some ⟨none, 5, 2, 0, 5, 7, 0⟩ } }

def sProceduresRun12 : State :=
  wSus [(0, wFr)]

theorem wit_ProceduresRun_1 (ob : Obligations.ProceduresRun) : Completes (.suspectStart 2) sProceduresRun1 (fun _ => True) := by
  have h := ob.1 sProceduresRun1
  repeat specialize h (by first | decide +kernel | exact calm_by (by decide +kernel) | with_reducible rfl | exact fun hh => absurd hh (by decide +kernel))
  have h := h.1 (2)
  repeat specialize h (by first | decide +kernel | exact calm_by (by decide +kernel) | with_reducible rfl | exact fun hh => absurd hh (by decide +kernel))
  exact comes h

theorem wit_ProceduresRun_2 (ob : Obligations.ProceduresRun) : Completes (.fwSwitch 1) State.reset (fun _ => True) := by
  have h := ob.1 State.reset
  repeat specialize h (by first | decide +kernel | exact calm_by (by decide +kernel) | with_reducible rfl | exact fun hh => absurd hh (by decide +kernel))
  exact comes (h.2.2.1 1 _ (1, 0) (by decide) (by decide +kernel) (exe (by decide +kernel)))

theorem wit_ProceduresRun_3 (ob : Obligations.ProceduresRun) : Completes .fwOkSet sProceduresRun3 (fun _ => True) := by
  have h := ob.1 sProceduresRun3
  repeat specialize h (by first | decide +kernel | exact calm_by (by decide +kernel) | with_reducible rfl | exact fun hh => absurd hh (by decide +kernel))
  have h := h.2.2.2.1 (1)
  repeat specialize h (by first | decide +kernel | exact calm_by (by decide +kernel) | with_reducible rfl | exact fun hh => absurd hh (by decide +kernel))
  have h := h.1
  exact comes h

theorem wit_ProceduresRun_4 (ob : Obligations.ProceduresRun) : Completes .fwTrialTimeout sProceduresRun3 (fun _ => True) := by
  have h := ob.1 sProceduresRun3
  repeat specialize h (by first | decide +kernel | exact calm_by (by decide +kernel) | with_reducible rfl | exact fun hh => absurd hh (by decide +kernel))
  have h := h.2.2.2.1 (1)
  repeat specialize h (by first | decide +kernel | exact calm_by (by decide +kernel) | with_reducible rfl | exact fun hh => absurd hh (by decide +kernel))
  have h := h.2
  exact comes h

theorem wit_ProceduresRun_5 (ob : Obligations.ProceduresRun) : Completes .digCheck State.reset (fun _ => True) := by
  have h := ob.1 State.reset
  repeat specialize h (by first | decide +kernel | exact calm_by (by decide +kernel) | with_reducible rfl | exact fun hh => absurd hh (by decide +kernel))
  have h := h.2.2.2.2.1
  repeat specialize h (by first | decide +kernel | exact calm_by (by decide +kernel) | with_reducible rfl | exact fun hh => absurd hh (by decide +kernel))
  have h := h.1
  repeat specialize h (by first | decide +kernel | exact calm_by (by decide +kernel) | with_reducible rfl | exact fun hh => absurd hh (by decide +kernel))
  exact comes h

theorem wit_ProceduresRun_6 (ob : Obligations.ProceduresRun) : Completes .digCheck sProceduresRun6 (fun _ => True) := by
  have h := ob.1 sProceduresRun6
  repeat specialize h (by first | decide +kernel | exact calm_by (by decide +kernel) | with_reducible rfl | exact fun hh => absurd hh (by decide +kernel))
  have h := h.2.2.2.2.1
  repeat specialize h (by first | decide +kernel | exact calm_by (by decide +kernel) | with_reducible rfl | exact fun hh => absurd hh (by decide +kernel))
  have h := h.2 64 99 0
  repeat specialize h (by first | decide +kernel | exact calm_by (by decide +kernel) | with_reducible rfl | exact fun hh => absurd hh (by decide +kernel))
  have h := h (fun p => wNoPort (by decide +kernel) p)
  exact comes h

theorem wit_ProceduresRun_7 (ob : Obligations.ProceduresRun) : Completes (.digReq ⟨5, 2, 2, 5, 7, 0⟩) sProceduresRun7 (fun _ => True) := by
  have h := ob.1 sProceduresRun7
  repeat specialize h (by first | decide +kernel | exact calm_by (by decide +kernel) | with_reducible rfl | exact fun hh => absurd hh (by decide +kernel))
  have h := h.2.2.2.2.2.1 ⟨5, 2, 2, 5, 7, 0⟩ 2 4
  repeat specialize h (by first | decide +kernel | exact calm_by (by decide +kernel) | with_reducible rfl | exact fun hh => absurd hh (by decide +kernel))
  exact comes h

theorem wit_ProceduresRun_8 (ob : Obligations.ProceduresRun) : Completes (.digReply ⟨5, 2, 2, 5, 7, 0⟩ 64 99) sProceduresRun8 (fun _ => True) := by
  have h := ob.1 sProceduresRun8
  repeat specialize h (by first | decide +kernel | exact calm_by (by decide +kernel) | with_reducible rfl | exact fun hh => absurd hh (by decide +kernel))
  have h := h.2.2.2.2.2.2.1 ⟨none, 5, 2, 0, 5, 7, 0⟩
  repeat specialize h (by first | decide +kernel | exact calm_by (by decide +kernel) | with_reducible rfl | exact fun hh => absurd hh (by decide +kernel))
  have h := h.1 ⟨5, 2, 2, 5, 7, 0⟩ 64 99
  repeat specialize h (by first | decide +kernel | exact calm_by (by decide +kernel) | with_reducible rfl | exact fun hh => absurd hh (by decide +kernel))
  exact comes h

theorem wit_ProceduresRun_9 (ob : Obligations.ProceduresRun) : Completes .digReplyTimeout sProceduresRun8 (fun _ => True) := by
  have h := ob.1 sProceduresRun8
  repeat specialize h (by first | decide +kernel | exact calm_by (by decide +kernel) | with_reducible rfl | exact fun hh => absurd hh (by decide +kernel))
  have h := h.2.2.2.2.2.2.1 ⟨none, 5, 2, 0, 5, 7, 0⟩
  repeat specialize h (by first | decide +kernel | exact calm_by (by decide +kernel) | with_reducible rfl | exact fun hh => absurd hh (by decide +kernel))
  have h := h.2
  exact comes h

theorem wit_ProceduresRun_10 (ob : Obligations.ProceduresRun) : Completes (.errInjectArm 0x303) sProceduresRun6 (fun _ => True) := by
  have h := ob.1 sProceduresRun6
  repeat specialize h (by first | decide +kernel | exact calm_by (by decide +kernel) | with_reducible rfl | exact fun hh => absurd hh (by decide +kernel))
  have h := h.2.2.2.2.2.2.2 0x303
  repeat specialize h (by first | decide +kernel | exact calm_by (by decide +kernel) | with_reducible rfl | exact fun hh => absurd hh (by decide +kernel))
  have h := h.1
  repeat specialize h (by first | decide +kernel | exact calm_by (by decide +kernel) | with_reducible rfl | exact fun hh => absurd hh (by decide +kernel))
  exact comes h

theorem wit_ProceduresRun_11 (ob : Obligations.ProceduresRun) : Completes (.errInjectArm 0x303) State.reset (fun _ => True) := by
  have h := ob.1 State.reset
  repeat specialize h (by first | decide +kernel | exact calm_by (by decide +kernel) | with_reducible rfl | exact fun hh => absurd hh (by decide +kernel))
  have h := h.2.2.2.2.2.2.2 0x303
  repeat specialize h (by first | decide +kernel | exact calm_by (by decide +kernel) | with_reducible rfl | exact fun hh => absurd hh (by decide +kernel))
  have h := h.2 (.inl (by decide +kernel))
  exact comes h

theorem wit_ProceduresRun_12 (ob : Obligations.ProceduresRun) : Completes (.suspectRun 2) sProceduresRun12 (fun _ => True) := by
  have h := ob.2 sProceduresRun12 2 false wSusT []
  specialize h (by first | decide +kernel | exact calm_by (by decide +kernel) | with_reducible rfl | exact fun hh => absurd hh (by decide +kernel))
  specialize h (by first | decide +kernel | exact calm_by (by decide +kernel) | with_reducible rfl | exact fun hh => absurd hh (by decide +kernel))
  have h := h rfl (wOneHeld (by decide +kernel))
  repeat specialize h (by first | decide +kernel | exact calm_by (by decide +kernel) | with_reducible rfl | exact fun hh => absurd hh (by decide +kernel))
  have h := h.1 (0)
  repeat specialize h (by first | decide +kernel | exact calm_by (by decide +kernel) | with_reducible rfl | exact fun hh => absurd hh (by decide +kernel))
  exact comes h

set_option maxRecDepth 100000 in
theorem wit_ProceduresRun_13 (ob : Obligations.ProceduresRun) : Completes (.suspectRun 2) wSus2 (fun _ => True) := by
  have h := ob.2 wSus2 2 false wSusT []
  specialize h (by first | decide +kernel | exact calm_by (by decide +kernel) | with_reducible rfl | exact fun hh => absurd hh (by decide +kernel))
  specialize h (by first | decide +kernel | exact calm_by (by decide +kernel) | with_reducible rfl | exact fun hh => absurd hh (by decide +kernel))
  have h := h rfl (wOneHeld (by decide +kernel))
  repeat specialize h (by first | decide +kernel | exact calm_by (by decide +kernel) | with_reducible rfl | exact fun hh => absurd hh (by decide +kernel))
  have h := h.2 1 0 1 [] wSusL.1 wSusL.2 wSusP.2 wSusB wSusP.1 (((hget wSusB 1).next).getD (wRun []))
  have h := h (by decide +kernel) (by decide +kernel) (show wSusL = _ from rfl) (show wSusP = _ from rfl) (by decide +kernel)
    (by unfold wSusB wSusE; rfl) (by decide +kernel) (by decide +kernel) (by decide +kernel) (calm_by (by decide +kernel)) (by decide +kernel)
  exact comes h

def sDeviceFaultsResetLater1 : State :=
  { State.reset with stk := { State.reset.stk with phase := .warm, warmRun := some (2, false) } }

theorem wit_DeviceFaultsResetLater_1 (ob : Obligations.DeviceFaultsReset) : Completes (.warmResetServing ⟨false, true, true, [], []⟩) sDeviceFaultsResetLater1 (fun _ => True) := by
  have h := ob.2.1 sDeviceFaultsResetLater1 2 false
  repeat specialize h (by first | decide +kernel | exact calm_by (by decide +kernel) | with_reducible rfl | exact fun hh => absurd hh (by decide +kernel))
  have h := h.2.1 ⟨false, true, true, [], []⟩
  repeat specialize h (by first | decide +kernel | exact calm_by (by decide +kernel) | with_reducible rfl | exact fun hh => absurd hh (by decide +kernel))
  exact comes h

theorem wit_DeviceFaultsResetLater_2 (ob : Obligations.DeviceFaultsReset) : Completes (.warmResetServing ⟨true, true, true, [], []⟩) sDeviceFaultsResetLater1 (fun _ => True) := by
  have h := ob.2.1 sDeviceFaultsResetLater1 2 false
  repeat specialize h (by first | decide +kernel | exact calm_by (by decide +kernel) | with_reducible rfl | exact fun hh => absurd hh (by decide +kernel))
  have h := h.2.2 ⟨true, true, true, [], []⟩
  repeat specialize h (by first | decide +kernel | exact calm_by (by decide +kernel) | with_reducible rfl | exact fun hh => absurd hh (by decide +kernel))
  exact comes h

def sColdStartsServe4 : State :=
  { State.reset with stk := { State.reset.stk with phase := .sampling, bootIn := some ⟨false, false, true, 166, 0, [], [], true, []⟩ } }

theorem wit_ColdStartsServe_1 (ob : Obligations.ColdStartsServe) : Completes .resetAssert State.reset (fun _ => True) := by
  have h := ob State.reset rfl
  have h := h.1
  exact comes h

theorem wit_ColdStartsServe_2 (ob : Obligations.ColdStartsServe) : Completes (.coldStart ⟨false, false, true, 166, 0, [], [], true, []⟩) State.reset (fun _ => True) := by
  have h := ob State.reset rfl
  have h := h.2.1 ⟨false, false, true, 166, 0, [], [], true, []⟩
  repeat specialize h (by first | decide +kernel | exact calm_by (by decide +kernel) | with_reducible rfl | exact fun hh => absurd hh (by decide +kernel))
  exact comes h

theorem wit_ColdStartsServe_3 (ob : Obligations.ColdStartsServe) : Completes (.coldStart ⟨true, false, true, 166, 0, [], [], true, []⟩) State.reset (fun _ => True) := by
  have h := ob State.reset rfl
  have h := h.2.2.1 ⟨true, false, true, 166, 0, [], [], true, []⟩
  repeat specialize h (by first | decide +kernel | exact calm_by (by decide +kernel) | with_reducible rfl | exact fun hh => absurd hh (by decide +kernel))
  exact comes h

theorem wit_ColdStartsServe_4 (ob : Obligations.ColdStartsServe) : Completes (.refclkSample false false) sColdStartsServe4 (fun _ => True) := by
  have h := ob sColdStartsServe4 rfl
  have h := h.2.2.2.2 ⟨false, false, true, 166, 0, [], [], true, []⟩
  repeat specialize h (by first | decide +kernel | exact calm_by (by decide +kernel) | with_reducible rfl | exact fun hh => absurd hh (by decide +kernel))
  have h := h.1
  exact comes h

theorem wit_ColdStartsServe_5 (ob : Obligations.ColdStartsServe) : Completes (.refclkSample false true) sColdStartsServe4 (fun _ => True) := by
  have h := ob sColdStartsServe4 rfl
  have h := h.2.2.2.2 ⟨false, false, true, 166, 0, [], [], true, []⟩
  repeat specialize h (by first | decide +kernel | exact calm_by (by decide +kernel) | with_reducible rfl | exact fun hh => absurd hh (by decide +kernel))
  have h := h.2.1 false true
  repeat specialize h (by first | decide +kernel | exact calm_by (by decide +kernel) | with_reducible rfl | exact fun hh => absurd hh (by decide +kernel))
  exact comes h

theorem wit_ColdStartsServe_6 (ob : Obligations.ColdStartsServe) : Completes .refclkTimeout sColdStartsServe4 (fun _ => True) := by
  have h := ob sColdStartsServe4 rfl
  have h := h.2.2.2.2 ⟨false, false, true, 166, 0, [], [], true, []⟩
  repeat specialize h (by first | decide +kernel | exact calm_by (by decide +kernel) | with_reducible rfl | exact fun hh => absurd hh (by decide +kernel))
  have h := h.2.2
  exact comes h

def sFlashAndFusesKept6 : State :=
  { State.reset with stk := { State.reset.stk with flashRun := some ⟨1, 0x2000000, 0, 0⟩ } }

def sFlashAndFusesKept8 : State :=
  { State.reset with stk := { State.reset.stk with flashRun := some ⟨2, 0x2000000, 256, 0⟩ } }

def sFlashAndFusesKept9 : State :=
  { State.reset with stk := { State.reset.stk with flashRun := some ⟨3, 0x2000000, 256, 0⟩ } }

def sFlashAndFusesKept10 : State :=
  { State.reset with stk := { State.reset.stk with flashRun := some ⟨4, 0, 0, 1⟩ } }

def sFlashAndFusesKept13 : State :=
  { State.reset with stk := { State.reset.stk with fuses := ⟨some [], 0, 31⟩ } }

def sFlashAndFusesKept14 : State :=
  { State.reset with stk := { State.reset.stk with fw0 := ⟨true, [], 1, 3⟩ } }

def sFlashAndFusesKept20 : State :=
  { State.reset with stk := { State.reset.stk with phase := .low } }

theorem wit_FlashAndFusesKept_1 (ob : Obligations.FlashAndFusesKept) : Completes (.erase 0x2000000) State.reset (fun _ => True) := by
  have h := ob.1 State.reset
  repeat specialize h (by first | decide +kernel | exact calm_by (by decide +kernel) | with_reducible rfl | exact fun hh => absurd hh (by decide +kernel))
  have h := h.1
  repeat specialize h (by first | decide +kernel | exact calm_by (by decide +kernel) | with_reducible rfl | exact fun hh => absurd hh (by decide +kernel))
  have h := h.1 0x2000000
  specialize h (by first | decide +kernel | exact calm_by (by decide +kernel) | with_reducible rfl | exact fun hh => absurd hh (by decide +kernel))
  have h := h.1
  repeat specialize h (by first | decide +kernel | exact calm_by (by decide +kernel) | with_reducible rfl | exact fun hh => absurd hh (by decide +kernel))
  exact comes h

theorem wit_FlashAndFusesKept_2 (ob : Obligations.FlashAndFusesKept) : Completes (.erase 0x0) State.reset (fun _ => True) := by
  have h := ob.1 State.reset
  repeat specialize h (by first | decide +kernel | exact calm_by (by decide +kernel) | with_reducible rfl | exact fun hh => absurd hh (by decide +kernel))
  have h := h.1
  repeat specialize h (by first | decide +kernel | exact calm_by (by decide +kernel) | with_reducible rfl | exact fun hh => absurd hh (by decide +kernel))
  have h := h.1 (0x0)
  specialize h (by first | decide +kernel | exact calm_by (by decide +kernel) | with_reducible rfl | exact fun hh => absurd hh (by decide +kernel))
  have h := h.2
  repeat specialize h (by first | decide +kernel | exact calm_by (by decide +kernel) | with_reducible rfl | exact fun hh => absurd hh (by decide +kernel))
  exact comes h

theorem wit_FlashAndFusesKept_3 (ob : Obligations.FlashAndFusesKept) : Completes (.program 0x2000100 512) State.reset (fun _ => True) := by
  have h := ob.1 State.reset
  repeat specialize h (by first | decide +kernel | exact calm_by (by decide +kernel) | with_reducible rfl | exact fun hh => absurd hh (by decide +kernel))
  have h := h.1
  repeat specialize h (by first | decide +kernel | exact calm_by (by decide +kernel) | with_reducible rfl | exact fun hh => absurd hh (by decide +kernel))
  have h := h.2.1 0x2000100 512
  specialize h (by first | decide +kernel | exact calm_by (by decide +kernel) | with_reducible rfl | exact fun hh => absurd hh (by decide +kernel))
  specialize h (by first | decide +kernel | exact calm_by (by decide +kernel) | with_reducible rfl | exact fun hh => absurd hh (by decide +kernel))
  specialize h (by first | decide +kernel | exact calm_by (by decide +kernel) | with_reducible rfl | exact fun hh => absurd hh (by decide +kernel))
  specialize h (by first | decide +kernel | exact calm_by (by decide +kernel) | with_reducible rfl | exact fun hh => absurd hh (by decide +kernel))
  specialize h (by first | decide +kernel | exact calm_by (by decide +kernel) | with_reducible rfl | exact fun hh => absurd hh (by decide +kernel))
  have h := h.1
  repeat specialize h (by first | decide +kernel | exact calm_by (by decide +kernel) | with_reducible rfl | exact fun hh => absurd hh (by decide +kernel))
  exact comes h

theorem wit_FlashAndFusesKept_4 (ob : Obligations.FlashAndFusesKept) : Completes (.read 0x7FFFF00 256) State.reset (fun _ => True) := by
  have h := ob.1 State.reset
  repeat specialize h (by first | decide +kernel | exact calm_by (by decide +kernel) | with_reducible rfl | exact fun hh => absurd hh (by decide +kernel))
  have h := h.1
  repeat specialize h (by first | decide +kernel | exact calm_by (by decide +kernel) | with_reducible rfl | exact fun hh => absurd hh (by decide +kernel))
  have h := h.2.1 0x7FFFF00 256
  specialize h (by first | decide +kernel | exact calm_by (by decide +kernel) | with_reducible rfl | exact fun hh => absurd hh (by decide +kernel))
  specialize h (by first | decide +kernel | exact calm_by (by decide +kernel) | with_reducible rfl | exact fun hh => absurd hh (by decide +kernel))
  specialize h (by first | decide +kernel | exact calm_by (by decide +kernel) | with_reducible rfl | exact fun hh => absurd hh (by decide +kernel))
  specialize h (by first | decide +kernel | exact calm_by (by decide +kernel) | with_reducible rfl | exact fun hh => absurd hh (by decide +kernel))
  specialize h (by first | decide +kernel | exact calm_by (by decide +kernel) | with_reducible rfl | exact fun hh => absurd hh (by decide +kernel))
  have h := h.2
  exact comes h

theorem wit_FlashAndFusesKept_5 (ob : Obligations.FlashAndFusesKept) : Completes (.verify 1) State.reset (fun _ => True) := by
  have h := ob.1 State.reset
  repeat specialize h (by first | decide +kernel | exact calm_by (by decide +kernel) | with_reducible rfl | exact fun hh => absurd hh (by decide +kernel))
  have h := h.1
  repeat specialize h (by first | decide +kernel | exact calm_by (by decide +kernel) | with_reducible rfl | exact fun hh => absurd hh (by decide +kernel))
  have h := h.2.2 (1)
  repeat specialize h (by first | decide +kernel | exact calm_by (by decide +kernel) | with_reducible rfl | exact fun hh => absurd hh (by decide +kernel))
  exact comes h

theorem wit_FlashAndFusesKept_6 (ob : Obligations.FlashAndFusesKept) : Completes (.erase 5) sFlashAndFusesKept6 (fun _ => True) := by
  have h := ob.1 sFlashAndFusesKept6
  repeat specialize h (by first | decide +kernel | exact calm_by (by decide +kernel) | with_reducible rfl | exact fun hh => absurd hh (by decide +kernel))
  have h := h.2.1 ⟨1, 0x2000000, 0, 0⟩
  repeat specialize h (by first | decide +kernel | exact calm_by (by decide +kernel) | with_reducible rfl | exact fun hh => absurd hh (by decide +kernel))
  have h := h.1 (5)
  exact comes h

theorem wit_FlashAndFusesKept_7 (ob : Obligations.FlashAndFusesKept) : Completes (.flashCmdDone true) sFlashAndFusesKept6 (fun _ => True) := by
  have h := ob.1 sFlashAndFusesKept6
  repeat specialize h (by first | decide +kernel | exact calm_by (by decide +kernel) | with_reducible rfl | exact fun hh => absurd hh (by decide +kernel))
  have h := h.2.1 ⟨1, 0x2000000, 0, 0⟩
  repeat specialize h (by first | decide +kernel | exact calm_by (by decide +kernel) | with_reducible rfl | exact fun hh => absurd hh (by decide +kernel))
  have h := h.2.1
  repeat specialize h (by first | decide +kernel | exact calm_by (by decide +kernel) | with_reducible rfl | exact fun hh => absurd hh (by decide +kernel))
  exact comes h

theorem wit_FlashAndFusesKept_8 (ob : Obligations.FlashAndFusesKept) : Completes (.flashCmdDone true) sFlashAndFusesKept8 (fun _ => True) := by
  have h := ob.1 sFlashAndFusesKept8
  repeat specialize h (by first | decide +kernel | exact calm_by (by decide +kernel) | with_reducible rfl | exact fun hh => absurd hh (by decide +kernel))
  have h := h.2.1 ⟨2, 0x2000000, 256, 0⟩
  repeat specialize h (by first | decide +kernel | exact calm_by (by decide +kernel) | with_reducible rfl | exact fun hh => absurd hh (by decide +kernel))
  have h := h.2.2.1
  repeat specialize h (by first | decide +kernel | exact calm_by (by decide +kernel) | with_reducible rfl | exact fun hh => absurd hh (by decide +kernel))
  exact comes h

theorem wit_FlashAndFusesKept_9 (ob : Obligations.FlashAndFusesKept) : Completes (.flashCmdDone true) sFlashAndFusesKept9 (fun _ => True) := by
  have h := ob.1 sFlashAndFusesKept9
  repeat specialize h (by first | decide +kernel | exact calm_by (by decide +kernel) | with_reducible rfl | exact fun hh => absurd hh (by decide +kernel))
  have h := h.2.1 ⟨3, 0x2000000, 256, 0⟩
  repeat specialize h (by first | decide +kernel | exact calm_by (by decide +kernel) | with_reducible rfl | exact fun hh => absurd hh (by decide +kernel))
  have h := h.2.2.2.1
  repeat specialize h (by first | decide +kernel | exact calm_by (by decide +kernel) | with_reducible rfl | exact fun hh => absurd hh (by decide +kernel))
  exact comes h

theorem wit_FlashAndFusesKept_10 (ob : Obligations.FlashAndFusesKept) : Completes (.flashCmdDone true) sFlashAndFusesKept10 (fun _ => True) := by
  have h := ob.1 sFlashAndFusesKept10
  repeat specialize h (by first | decide +kernel | exact calm_by (by decide +kernel) | with_reducible rfl | exact fun hh => absurd hh (by decide +kernel))
  have h := h.2.1 ⟨4, 0, 0, 1⟩
  repeat specialize h (by first | decide +kernel | exact calm_by (by decide +kernel) | with_reducible rfl | exact fun hh => absurd hh (by decide +kernel))
  have h := h.2.2.2.2.1
  repeat specialize h (by first | decide +kernel | exact calm_by (by decide +kernel) | with_reducible rfl | exact fun hh => absurd hh (by decide +kernel))
  exact comes h

theorem wit_FlashAndFusesKept_11 (ob : Obligations.FlashAndFusesKept) : Completes (.flashCmdDone false) sFlashAndFusesKept6 (fun _ => True) := by
  have h := ob.1 sFlashAndFusesKept6
  repeat specialize h (by first | decide +kernel | exact calm_by (by decide +kernel) | with_reducible rfl | exact fun hh => absurd hh (by decide +kernel))
  have h := h.2.1 ⟨1, 0x2000000, 0, 0⟩
  repeat specialize h (by first | decide +kernel | exact calm_by (by decide +kernel) | with_reducible rfl | exact fun hh => absurd hh (by decide +kernel))
  have h := h.2.2.2.2.2
  exact comes h

theorem wit_FlashAndFusesKept_12 (ob : Obligations.FlashAndFusesKept) : Completes .ownerFuse State.reset (fun _ => True) := by
  have h := ob.1 State.reset
  repeat specialize h (by first | decide +kernel | exact calm_by (by decide +kernel) | with_reducible rfl | exact fun hh => absurd hh (by decide +kernel))
  have h := h.2.2.1.1
  repeat specialize h (by first | decide +kernel | exact calm_by (by decide +kernel) | with_reducible rfl | exact fun hh => absurd hh (by decide +kernel))
  exact comes h

theorem wit_FlashAndFusesKept_13 (ob : Obligations.FlashAndFusesKept) : Completes .ownerFuse sFlashAndFusesKept13 (fun _ => True) := by
  have h := ob.1 sFlashAndFusesKept13
  repeat specialize h (by first | decide +kernel | exact calm_by (by decide +kernel) | with_reducible rfl | exact fun hh => absurd hh (by decide +kernel))
  have h := h.2.2.1.2.1
  repeat specialize h (by first | decide +kernel | exact calm_by (by decide +kernel) | with_reducible rfl | exact fun hh => absurd hh (by decide +kernel))
  exact comes h

theorem wit_FlashAndFusesKept_14 (ob : Obligations.FlashAndFusesKept) : Completes .svnRaise sFlashAndFusesKept14 (fun _ => True) := by
  have h := ob.1 sFlashAndFusesKept14
  repeat specialize h (by first | decide +kernel | exact calm_by (by decide +kernel) | with_reducible rfl | exact fun hh => absurd hh (by decide +kernel))
  have h := h.2.2.1.2.2.1
  repeat specialize h (by first | decide +kernel | exact calm_by (by decide +kernel) | with_reducible rfl | exact fun hh => absurd hh (by decide +kernel))
  exact comes h

theorem wit_FlashAndFusesKept_15 (ob : Obligations.FlashAndFusesKept) : Completes .svnRaise State.reset (fun _ => True) := by
  have h := ob.1 State.reset
  repeat specialize h (by first | decide +kernel | exact calm_by (by decide +kernel) | with_reducible rfl | exact fun hh => absurd hh (by decide +kernel))
  have h := h.2.2.1.2.2.2
  repeat specialize h (by first | decide +kernel | exact calm_by (by decide +kernel) | with_reducible rfl | exact fun hh => absurd hh (by decide +kernel))
  exact comes h

theorem wit_FlashAndFusesKept_16 (ob : Obligations.FlashAndFusesKept) : Completes .jtagBypass State.reset (fun _ => True) := by
  have h := ob.1 State.reset
  repeat specialize h (by first | decide +kernel | exact calm_by (by decide +kernel) | with_reducible rfl | exact fun hh => absurd hh (by decide +kernel))
  have h := h.2.2.2.1
  exact comes h

theorem wit_FlashAndFusesKept_17 (ob : Obligations.FlashAndFusesKept) : Completes .jtagIdcode State.reset (fun _ => True) := by
  have h := ob.1 State.reset
  repeat specialize h (by first | decide +kernel | exact calm_by (by decide +kernel) | with_reducible rfl | exact fun hh => absurd hh (by decide +kernel))
  have h := h.2.2.2.2.1
  exact comes h

theorem wit_FlashAndFusesKept_18 (ob : Obligations.FlashAndFusesKept) : Completes (.jtagSamplePreload 5) State.reset (fun _ => True) := by
  have h := ob.1 State.reset
  repeat specialize h (by first | decide +kernel | exact calm_by (by decide +kernel) | with_reducible rfl | exact fun hh => absurd hh (by decide +kernel))
  have h := h.2.2.2.2.2.1 (5)
  exact comes h

theorem wit_FlashAndFusesKept_19 (ob : Obligations.FlashAndFusesKept) : Completes .jtagExtest State.reset (fun _ => True) := by
  have h := ob.1 State.reset
  repeat specialize h (by first | decide +kernel | exact calm_by (by decide +kernel) | with_reducible rfl | exact fun hh => absurd hh (by decide +kernel))
  have h := h.2.2.2.2.2.2
  exact comes h

theorem wit_FlashAndFusesKept_20 (ob : Obligations.FlashAndFusesKept) : Completes (.jtagSamplePreload 5) sFlashAndFusesKept20 (fun _ => True) := by
  have h := ob.2 sFlashAndFusesKept20
  repeat specialize h (by first | decide +kernel | exact calm_by (by decide +kernel) | with_reducible rfl | exact fun hh => absurd hh (by decide +kernel))
  have h := h.1 (5)
  exact comes h

theorem wit_FlashAndFusesKept_21 (ob : Obligations.FlashAndFusesKept) : Completes .jtagExtest sFlashAndFusesKept20 (fun _ => True) := by
  have h := ob.2 sFlashAndFusesKept20
  repeat specialize h (by first | decide +kernel | exact calm_by (by decide +kernel) | with_reducible rfl | exact fun hh => absurd hh (by decide +kernel))
  have h := h.2
  exact comes h

/-- Commands wait, so the run that the statement speaks of exists. -/
def wQueue : State := { State.reset with pending := [.histClr, .histSnap, .jtagBypass] }

theorem wit_CommandsRunInOrder (ob : Obligations.CommandsRunInOrder) : ∃ t, core.run 2 wQueue = .next t ∧ t.pending = [.jtagBypass] :=
  ob 2 wQueue (by decide)

theorem wit_StepRunsTheFront (ob : Obligations.StepRunsTheFront) : step State.reset = .next (tick State.reset) := (ob.2 State.reset rfl).1

/-- A step from the device at reset is one that the statement speaks of. -/
theorem wit_NothingStaysDue (ob : Obligations.NothingStaysDue) (h : Obligations.StepRunsTheFront) : (tick State.reset).dueAborts = [] :=
  (ob State.reset _ rfl rfl (h.2 State.reset rfl).1).1

def wHalted : State := { State.reset with stk := { State.reset.stk with phase := .halted, faultN := true }, hport := { State.reset.hport with up := false } }

theorem wit_HaltedUntilReset (ob : Obligations.HaltedUntilReset) (h : Obligations.StepRunsTheFront) : (tick wHalted).csr = wHalted.csr :=
  (ob wHalted _ (h.2 wHalted rfl).1 (.inl rfl) (by intro q hq; exact absurd hq (List.cons_ne_nil _ _).symm)
    (by intro b q hq; exact absurd hq (List.cons_ne_nil _ _).symm)).2.2.2.2.1

/-- Codes that meet each clause: the NaN code, a subnormal, a normal, and integers at the ends of their ranges. -/
theorem wit_NarrowFormats (ob : Obligations.NarrowFormats) : fmtVal 3 0xFF = .nan ∧ (∀ n, fmtVal 3 0x01 ≠ .inf n) ∧ (∀ n, fmtVal 3 0x7E ≠ .inf n) ∧
    (∀ n, fmtVal 4 15 ≠ .inf n) ∧ -2 ^ 3 ≤ (BitVec.ofNat 4 15).toInt ∧ -2 ^ 31 ≤ (BitVec.ofNat 32 (2 ^ 31)).toInt :=
  ⟨(ob.1 0xFF (by decide)).1 (by decide), (ob.1 0x01 (by decide)).2.2.2, (ob.1 0x7E (by decide)).2.2.2, (ob.2.2.2.2.1 15 (by decide)).1,
    (ob.2.2.2.2.2 (6, 4) (by decide) 15 (by decide)).2.1, (ob.2.2.2.2.2 (7, 32) (by decide) (2 ^ 31) (by decide)).2.1⟩

/-- The subnormal and the normal clause, at the smallest and the largest magnitude. -/
theorem wit_NarrowFormats_2 (ob : Obligations.NarrowFormats) :
    (∃ n m e, fmtVal 3 0x01 = .fin n m e) ∧ ∃ n m e, fmtVal 3 0x7E = .fin n m e :=
  ⟨((ob.1 0x01 (by decide)).2.1 (by decide)).imp fun _ h => h.imp fun _ h => h.imp fun _ h => h.1,
    ((ob.1 0x7E (by decide)).2.2.1 (by decide) (by decide)).imp fun _ h => h.imp fun _ h => h.imp fun _ h => h.1⟩

def sResetEmptiesSlices2 : State :=
  { State.reset with stk := { State.reset.stk with phase := .warm, warmRun := some (2, false) } }

theorem wit_ResetEmptiesSlices_1 (ob : Obligations.ResetEmptiesSlices) : Completes .resetAssert State.reset (fun _ => True) := by
  have h := ob.1 State.reset
  have h := h.1
  exact comes h

theorem wit_ResetEmptiesSlices_2 (ob : Obligations.ResetEmptiesSlices) : Completes (.warmResetServing ⟨true, true, true, [], []⟩) sResetEmptiesSlices2 (fun _ => True) := by
  have h := ob.2 sResetEmptiesSlices2 2 false ⟨true, true, true, [], []⟩
  specialize h (by first | decide +kernel | exact calm_by (by decide +kernel) | with_reducible rfl | exact fun hh => absurd hh (by decide +kernel))
  specialize h (by first | decide +kernel | exact calm_by (by decide +kernel) | with_reducible rfl | exact fun hh => absurd hh (by decide +kernel))
  specialize h (by first | decide +kernel | exact calm_by (by decide +kernel) | with_reducible rfl | exact fun hh => absurd hh (by decide +kernel))
  specialize h (by first | decide +kernel | exact calm_by (by decide +kernel) | with_reducible rfl | exact fun hh => absurd hh (by decide +kernel))
  specialize h (by first | decide +kernel | exact calm_by (by decide +kernel) | with_reducible rfl | exact fun hh => absurd hh (by decide +kernel))
  specialize h (by first | decide +kernel | exact calm_by (by decide +kernel) | with_reducible rfl | exact fun hh => absurd hh (by decide +kernel))
  have h := h rfl (fun p => .inl (by simp [partGet, tgetD, tget, sResetEmptiesSlices2, State.reset, Part.none_]))
  exact comes h

def sWindowKept1 : State :=
  wG Hearth.fresh GraphEng.empty [] wQ

theorem wit_WindowKept_1 (ob : Obligations.WindowKept) : Completes (.csrRead 128 0x100000 7) sWindowKept1 (fun _ => True) := by
  have h := ob sWindowKept1 128 0x100000 7 0
  specialize h (by first | decide +kernel | exact calm_by (by decide +kernel) | with_reducible rfl | exact fun hh => absurd hh (by decide +kernel))
  have h := h (wListensQ sWindowKept1 (by decide +kernel) (by decide +kernel) (by decide +kernel) (by decide +kernel) (by decide +kernel) (by decide +kernel) (by decide +kernel))
  repeat specialize h (by first | decide +kernel | exact calm_by (by decide +kernel) | with_reducible rfl | exact fun hh => absurd hh (by decide +kernel))
  have h := h.1
  exact comes h

theorem wit_WindowKept_2 (ob : Obligations.WindowKept) : Completes (.csrWrite 128 0x100000 0 7) sWindowKept1 (fun _ => True) := by
  have h := ob sWindowKept1 128 0x100000 7 0
  specialize h (by first | decide +kernel | exact calm_by (by decide +kernel) | with_reducible rfl | exact fun hh => absurd hh (by decide +kernel))
  have h := h (wListensQ sWindowKept1 (by decide +kernel) (by decide +kernel) (by decide +kernel) (by decide +kernel) (by decide +kernel) (by decide +kernel) (by decide +kernel))
  repeat specialize h (by first | decide +kernel | exact calm_by (by decide +kernel) | with_reducible rfl | exact fun hh => absurd hh (by decide +kernel))
  have h := h.2
  exact comes h

end Sys2Proof.Tests
end

/-!
SUPPORT and proofs for the control-space accesses of chapter 00 (R12, R13, R576): plain registers, the answer to a host command, O15 and O16.
-/

namespace Sys2Proof.Machine

/-! Where plain registers lie. -/

/-- Where the map of R35 has the host port, the partitions and the telemetry. -/
theorem locate_hst_prt_tel (a : Nat) :
    (0x4000000 ≤ a ∧ a < 0x5000000 → locate a = some (.hst, 0, a - 0x4000000)) ∧
    (0x5000000 ≤ a ∧ a < 0x5800000 → locate a = some (.prt, 0, a - 0x5000000)) ∧
    (0x6000000 ≤ a ∧ a < 0x6400000 → locate a = some (.tel, 0, a - 0x6000000)) := by
  unfold locate
  refine ⟨?hst, ?prt, ?tel⟩
  all_goals
    rintro ⟨h1, h2⟩
    dsimp only
    repeat rw [if_neg (by simp; omega)]
    rw [if_pos (by simp; omega)]
    rfl

/-- An index of a row names the offset that it was found at. -/
theorem rowIndex_off {r : RegRow} {off i j : Nat} (h : rowIndex r off = some (i, j)) : off = r.off + i * r.s1 + j * r.s2 := by
  have hle : (if r.s1 = 0 then 0 else (off - r.off) / r.s1) * r.s1 ≤ off - r.off := by
    split
    · omega
    · exact Nat.div_mul_le_self _ _
  simp only [rowIndex, Option.ite_none_left_eq_some, Option.ite_none_right_eq_some, Option.some.injEq, Prod.mk.injEq, Bool.and_eq_true,
    decide_eq_true_eq] at h
  obtain ⟨hlo, ⟨-, he⟩, rfl, rfl⟩ := h
  omega

theorem findRow_mem {b : Blk} {inst off : Nat} {id : RegId} {row : RegRow} {i j : Nat} (h : findRow b inst off = some (id, row, i, j)) :
    (id, row) ∈ blkRows b ∧ rowIndex row off = some (i, j) := by
  unfold findRow at h
  split at h
  · cases h
  · obtain ⟨e, he, hij⟩ := List.exists_of_findSome?_eq_some h
    obtain ⟨ij, hx, hy⟩ := Option.map_eq_some_iff.1 hij
    cases hy
    exact ⟨he, hx⟩

theorem hstMap_plain : ∀ e ∈ hstMap, e.1 ∈ plainIds → (e.2.off = 0x48 ∨ e.2.off = 0x50) ∧ e.2.s1 = 0 ∧ e.2.s2 = 0 := by decide
theorem prtMap_plain : ∀ e ∈ prtMap, e.1 ∉ plainIds := by decide
theorem telMap_plain : ∀ e ∈ telMap, e.1 ∈ plainIds → (e.2.off = 0x20 ∨ e.2.off = 0x28) ∧ e.2.s1 = 0 ∧ e.2.s2 = 0 := by decide

/-- An address holds the register `id`, of a row and its indices. -/
def HoldsReg (a : Nat) (b : Blk) (inst off : Nat) (id : RegId) (row : RegRow) (i j : Nat) : Prop :=
  locate a = some (b, inst, off) ∧ findRow b inst off = some (id, row, i, j)

section
variable {a : Nat} {b : Blk} {inst off : Nat} {id : RegId} {row : RegRow} {i j : Nat}

/-- Of the host port, the partitions and the telemetry, only four registers are plain: HST_PFC_CFG, HST_ECN_CFG, TEL_DMP_CFG and TEL_DMP_LIM. -/
theorem plain_addr (h : HoldsReg a b inst off id row i j) (hp : id ∈ plainIds) :
    a < 0x4000000 ∨ (0x5800000 ≤ a ∧ a < 0x6000000) ∨ 0x6400000 ≤ a ∨ a = 0x4000048 ∨ a = 0x4000050 ∨ a = 0x6000020 ∨ a = 0x6000028 := by
  obtain ⟨hl, hf⟩ := h
  obtain ⟨hm, hx⟩ := findRow_mem hf
  have ho := rowIndex_off hx
  obtain ⟨at_hst, at_prt, at_tel⟩ := locate_hst_prt_tel a
  by_cases hst : 0x4000000 ≤ a ∧ a < 0x5000000
  · obtain ⟨rfl, rfl, rfl⟩ : Blk.hst = b ∧ 0 = inst ∧ a - 0x4000000 = off := by simpa [at_hst hst] using hl
    obtain ⟨h1 : row.off = 0x48 ∨ row.off = 0x50, h2 : row.s1 = 0, h3 : row.s2 = 0⟩ := hstMap_plain _ hm hp
    simp only [h2, h3, Nat.mul_zero, Nat.add_zero] at ho
    omega
  by_cases prt : 0x5000000 ≤ a ∧ a < 0x5800000
  · obtain ⟨rfl, -, -⟩ : Blk.prt = b ∧ 0 = inst ∧ a - 0x5000000 = off := by simpa [at_prt prt] using hl
    exact absurd hp (prtMap_plain _ hm)
  by_cases tel : 0x6000000 ≤ a ∧ a < 0x6400000
  · obtain ⟨rfl, rfl, rfl⟩ : Blk.tel = b ∧ 0 = inst ∧ a - 0x6000000 = off := by simpa [at_tel tel] using hl
    obtain ⟨h1 : row.off = 0x20 ∨ row.off = 0x28, h2 : row.s1 = 0, h3 : row.s2 = 0⟩ := telMap_plain _ hm hp
    simp only [h2, h3, Nat.mul_zero, Nat.add_zero] at ho
    omega
  omega

theorem plain_not_noteRegs (h : HoldsReg a b inst off id row i j) (hp : id ∈ plainIds) : a ∉ noteRegs := by
  have := plain_addr h hp
  simp [noteRegs, R.prtErrLog, R.prtErrCount, blkBase]
  omega

theorem answerRegs_addr : answerRegs.map Reg.addr = [0x4000108, 0x4000118, 0x6004400] := rfl

theorem plain_not_answerRegs (h : HoldsReg a b inst off id row i j) (hp : id ∈ plainIds) : a ∉ answerRegs.map Reg.addr := by
  have := plain_addr h hp
  simp [answerRegs_addr]
  omega

/-- The registers that the frame of a queue pair's message is made of. -/
def frameRegs (q : Nat) : List Reg :=
  [R.hstCtrl, R.hstQpCtrlQ q, R.hstQpPeerQ q, R.hstQpMacQ q, R.hstQpIpHiQ q, R.hstQpIpLoQ q]

theorem plain_not_frameRegs (h : HoldsReg a b inst off id row i j) (hp : id ∈ plainIds) {q : Nat} (hq : q ≤ 1024) :
    ∀ r ∈ frameRegs q, r.addr ≠ a := by
  have := plain_addr h hp
  simp [frameRegs, R.hstCtrl, R.hstQpCtrlQ, R.hstQpPeerQ, R.hstQpMacQ, R.hstQpIpHiQ, R.hstQpIpLoQ, blkBase]
  omega

/-! Writes of registers. -/

/-- `t` is `s` with the value `v` in register `r`. -/
structure RegTaken (s t : State) (r : Reg) (v : Nat) : Prop where
  eq : t = { s with csr := t.csr }
  val : rd t r = v
  other : ∀ r' : Reg, r'.addr ≠ r.addr → rd t r' = rd s r'

theorem regTaken_wr (s : State) (r : Reg) (v : Nat) : RegTaken s (wr s r v) r v :=
  ⟨rfl, rd_wr_same s r v, fun _ h => rd_wr_other s h v⟩

theorem regTaken_self {s : State} {r : Reg} {v : Nat} (h : v = rd s r) : RegTaken s s r v := ⟨rfl, h.symm, fun _ _ => rfl⟩

/-- A plain register has no effect of its own: a write of it stores the new value. -/
theorem regEffect_plain (hp : id ∈ plainIds) (s : State) (who : Caller) (r : Reg) (old new v : Nat) :
    regEffect s who b inst id i j r old new v = if new = old then s else wr s r new := by
  simp only [plainIds, List.mem_cons, List.not_mem_nil, or_false] at hp
  rcases hp with rfl | rfl | rfl | rfl | rfl | rfl | rfl | rfl | rfl | rfl | rfl <;> rfl

theorem regWrite_eq (h : HoldsReg a b inst off id row i j) (s : State) (who : Caller) (v : Nat) :
    regWrite s who a v =
      let r : Reg := ⟨a, rowRst id row i⟩
      let new := maskIn (rd s r) (writeMask who id row i) v
      if writeMask who id row i ≠ 0 && !rangeOk s id i (rd s r) new then s else regEffect s who b inst id i j r (rd s r) new v := by
  obtain ⟨hl, hf⟩ := h
  simp only [regWrite, hl, hf]

/-- A value within its range: the plain register takes the bits that the caller may write (R13). -/
theorem regWrite_plain (h : HoldsReg a b inst off id row i j) (hp : id ∈ plainIds) {s : State} {who : Caller} {v : Nat}
    (hr : rangeOk s id i (rd s ⟨a, rowRst id row i⟩) (maskIn (rd s ⟨a, rowRst id row i⟩) (writeMask who id row i) v) = true) :
    RegTaken s (regWrite s who a v) ⟨a, rowRst id row i⟩ (maskIn (rd s ⟨a, rowRst id row i⟩) (writeMask who id row i) v) := by
  rw [regWrite_eq h]
  simp only [hr, Bool.not_true, Bool.and_false, Bool.false_eq_true, if_false, regEffect_plain hp]
  split
  case isTrue hk => exact regTaken_self hk
  case isFalse => exact regTaken_wr _ _ _

/-- A value outside its range: the write is performed in no field (R576). -/
theorem regWrite_refused (h : HoldsReg a b inst off id row i j) {s : State} {who : Caller} {v : Nat} (hm : writeMask who id row i ≠ 0)
    (hr : rangeOk s id i (rd s ⟨a, rowRst id row i⟩) (maskIn (rd s ⟨a, rowRst id row i⟩) (writeMask who id row i) v) = false) :
    regWrite s who a v = s := by
  rw [regWrite_eq h]
  simp [hm, hr]

end

/-- REGISTER_WRITE of an address that the caller reaches and no reset holds is the write. -/
theorem registerWriteOp_reached {s : State} {who : Caller} {a : Nat} {v : W64} (ha : s.away = false) (h8 : a % 8 = 0)
    (hh : accessHeld s a = false) (hw : ∀ q, who = .qp q → reaches s q a = true) : registerWriteOp s who a v = regWrite s who a v.toNat := by
  unfold registerWriteOp
  simp only [ha, h8, hh, ne_eq, not_true_eq_false, decide_false, Bool.or_false, Bool.false_eq_true, if_false]
  cases who with
  | stoker => rfl
  | graphEngine p => rfl
  | qp q => simp [hw q rfl]

/-! From the state that a command's operation leads to, to what the command leaves. -/

theorem RegsOnly.intro {s v u : State} {rs : List Reg} (hc : Calm s) (hf : Follows s.pending v u) (h1 : v = { s with csr := v.csr, tx := [] })
    (h2 : ∀ r : Reg, r.addr ∉ rs.map Reg.addr → Machine.rd v r = Machine.rd s r) : RegsOnly s u rs := by
  refine ⟨⟨fun r hr hn => by rw [hf.rd r hn, h2 r hr], fun p => ?_⟩, ?_⟩
  · rw [hf.parts p, h1]
    rfl
  · have e := hf.eq
    rw [h1] at e
    rw [State.mk.injEq] at e ⊢
    simp [hc.aborts, hc.faults] at e ⊢
    tauto

theorem Calm.csr {s t : State} (hc : Calm s) (h : t = { s with csr := t.csr }) : Calm t := by
  rw [h]
  exact hc.of rfl rfl rfl rfl rfl rfl rfl

theorem RegTaken.completes {s v u : State} {r : Reg} {x : Nat} (hc : Calm s) (hv : RegTaken (Machine.quiet s) v r x) (hn : r.addr ∉ noteRegs)
    (hf : Follows s.pending v u) : RegsOnly s u [r] ∧ Machine.rd u r = x := by
  refine ⟨RegsOnly.intro hc hf ?_ fun r' hr' => hv.other r' (by simpa using hr'), (hf.rd r hn).trans hv.val⟩
  have e := hv.eq
  rwa [quiet_eq hc.free] at e

/-- Settles O16: a write reaches `regWrite`, which stores the masked value of a plain register, or leaves the state when the range refuses it. -/
theorem registerWriteWhole : Obligations.RegisterWriteWhole := by
  unfold Obligations.RegisterWriteWhole
  intro s who a v b inst off id row i j hc h8 hh hw hl hf
  have hreg : HoldsReg a b inst off id row i j := ⟨hl, hf⟩
  have e : registerWriteOp (quiet s) who a v = regWrite (quiet s) who a v.toNat := registerWriteOp_reached hc.here h8 hh hw
  dsimp only
  refine ⟨fun hp hr => ?_, fun hm hr => ?_⟩
  · have hv := regWrite_plain (s := quiet s) hreg hp hr
    obtain ⟨u, hu, hfu⟩ := lead_all (f := fun t => registerWriteOp t who a v) hc e (hc.quiet.csr hv.eq)
    exact ⟨u, hu, hv.completes hc (plain_not_noteRegs hreg hp) hfu⟩
  · exact lead_all (f := fun t => registerWriteOp t who a v) hc (e.trans (regWrite_refused (s := quiet s) hreg hm hr)) hc.quiet

/-! The answer to a host command (R421–R424). -/

section
variable {s t : State} {q : Nat}

/-- The frame of a request is made of `frameRegs` and the message. -/
theorem frameOf_request_congr (h : ∀ r ∈ frameRegs q, rd t r = rd s r) (m : TxMsg) : frameOf t (.request q m) = frameOf s (.request q m) := by
  simp only [frameRegs, List.forall_mem_cons, List.not_mem_nil, false_imp_iff, implies_true, and_true] at h
  obtain ⟨hctrl, hqp, hpeer, hmac, hhi, hlo⟩ := h
  simp [frameOf, msgSize, msgQp, qpPrio, qpPeer, rdf, hctrl, hqp, hpeer, hmac, hhi, hlo]

/-- A queue pair may still send when registers other than its control register have changed. -/
theorem Sends.csr (h : Sends s q) (ht : t = { s with csr := t.csr }) (hq : rd t (R.hstQpCtrlQ q) = rd s (R.hstQpCtrlQ q)) : Sends t q := by
  have hx : qpGet t q = qpGet s q := by rw [ht]; rfl
  have hn : telNow t = telNow s := by rw [ht]; rfl
  have hp : qpPrio t q = qpPrio s q := by simp only [qpPrio, rdf, hq]
  have hh : t.hport = s.hport := by rw [ht]
  exact ⟨by rw [hx, h.pace], by rw [hx, h.rnr], by rw [hx, hn]; exact h.rate, by rw [hh, hp, h.prio]⟩

theorem hostEmit_unpaused (m : HostMsg) (h : bit s.hport.paused (msgSize s m).1 = false) : hostEmit s m = hostOut s m := by
  simp [hostEmit, h]

theorem hostOut_eq (s : State) (m : HostMsg) : hostOut s m = { s with csr := (hostOut s m).csr, tx := s.tx ++ [frameOf s m] } := by
  rw [State.mk.injEq]
  simp [hostOut, hstBump]

theorem rd_hostOut_other (s : State) (m : HostMsg) {r : Reg} (h : r.addr ∉ answerRegs.map Reg.addr) : rd (hostOut s m) r = rd s r := by
  simp only [answerRegs, List.map_cons, List.mem_cons, not_or] at h
  obtain ⟨hframes, hbytes, -⟩ := h
  simp only [hostOut, hstBump]
  rw [rd_bump_other _ _ hbytes, rd_bump_other _ _ hframes]
  rfl

/-- A requester message that joins a queue pair, as `hostReq` numbers it (R421). -/
def reqMsg (s : State) (q op : Nat) (data : List Byte) (va rkey imm del : Nat) : TxMsg :=
  ⟨(qpGet s q).sqPsn, pktCount data.length, op, data, va, rkey, imm, del⟩

/-- The queue pair that a message joins: it is numbered, waits for its acknowledgement, and is to be sent behind the others. -/
def qpJoined (x : QPair) (m : TxMsg) : QPair := { x with sq := x.sq ++ [m], sqPsn := (x.sqPsn + m.pkts) % 2 ^ 24, pace := x.pace ++ [m] }

/-- The queue pair once its messages have left; it may send again from `at_`. -/
def qpSent (x : QPair) (m : TxMsg) (at_ : Nat) : QPair := { qpJoined x m with pace := [], freeAt := at_ }

theorem hostReq_eq (hs : qpState s q = 1) (op : Nat) (data : List Byte) (va rkey imm del : Nat) :
    hostReq s q op data va rkey imm del =
      paceRun (qpPut s q (qpJoined (qpGet s q) (reqMsg s q op data va rkey imm del))) q ((qpGet s q).pace.length + 1) := by
  simp only [hostReq, hs, qpJoined, reqMsg, Nat.one_ne_zero, if_false]

theorem tput_tput {α : Type} (l : Tbl α) (k : Nat) (v w : α) : tput (tput l k v) k w = tput l k w := by
  induction l with
  | nil => simp [tput]
  | cons e r ih =>
    obtain ⟨j, u⟩ := e
    rcases Nat.lt_trichotomy k j with hlt | rfl | hgt
    · simp [tput, hlt]
    · simp [tput]
    · simp [tput, Nat.lt_asymm hgt, Nat.ne_of_gt hgt, ih]

@[simp] theorem qpGet_qpPut_same (s : State) (q : Nat) (x : QPair) : qpGet (qpPut s q x) q = x := tgetD_tput_same _ _ _ _
@[simp] theorem qpPut_qpPut (s : State) (q : Nat) (x y : QPair) : qpPut (qpPut s q x) q y = qpPut s q y := by
  simp only [qpPut, tput_tput]

/-- The one message that stands in a queue pair's order leaves, with nothing to hold it back (R421, R487). -/
theorem paceRun_one {m : TxMsg} (hp : (qpGet s q).pace = [m]) (hs : qpState s q = 1) (hr : (qpGet s q).rnrWait = false)
    (hrate : (qpGet s q).limit = 0 ∨ (qpGet s q).freeAt ≤ telNow s) :
    ∃ n, paceRun s q 1 = hostEmit (qpPut s q { qpGet s q with pace := [], freeAt := n }) (.request q m) := by
  refine ⟨telNow s + paceTime (qpGet s q).limit (msgSize s (.request q m)).2.2, ?_⟩
  simp only [paceRun, hp, hs, hr]
  refine (if_neg ?_).trans rfl
  simpa using fun h0 => hrate.resolve_left h0

/-- A queue pair that may send at once puts its message on the wire. -/
theorem hostReq_sends (h : Sends s q) (hs : qpState s q = 1) (op : Nat) (data : List Byte) (va rkey imm del : Nat) :
    ∃ n, hostReq s q op data va rkey imm del =
      hostOut (qpPut s q (qpSent (qpGet s q) (reqMsg s q op data va rkey imm del) n)) (.request q (reqMsg s q op data va rkey imm del)) := by
  set m := reqMsg s q op data va rkey imm del
  have hy : qpGet (qpPut s q (qpJoined (qpGet s q) m)) q = qpJoined (qpGet s q) m := qpGet_qpPut_same _ _ _
  have hpace : (qpJoined (qpGet s q) m).pace = [m] := by simp [qpJoined, h.pace]
  obtain ⟨n, hn⟩ := paceRun_one (s := qpPut s q (qpJoined (qpGet s q) m)) (q := q) (m := m) (by rw [hy, hpace]) hs
    (by rw [hy]; exact h.rnr) (by rw [hy]; exact h.rate)
  refine ⟨n, ?_⟩
  rw [hostReq_eq hs, h.pace, List.length_nil, hn, hostEmit_unpaused _ h.prio, hy, qpPut_qpPut]
  rfl

@[simp] theorem length_leBytes (n v : Nat) : (leBytes n v).length = n := by
  induction n generalizing v with
  | zero => rfl
  | succ n ih => simp [leBytes, ih]

/-- `t` is `s` after queue pair `q` has sent `m` as its answer to a command: beside the queue pair, what the port sent and the counters of the answer
nothing has changed but the counter of free values. -/
structure Answered (s t : State) (q : Nat) (m : TxMsg) : Prop where
  eq : t = { s with csr := t.csr, qps := t.qps, tx := s.tx ++ [frameOf s (.request q m)], fresh := t.fresh }
  sq : (qpGet t q).sq = (qpGet s q).sq ++ [m]
  cmds : (qpGet t q).cmds = (qpGet s q).cmds
  regs : ∀ r : Reg, r.addr ∉ answerRegs.map Reg.addr → rd t r = rd s r

theorem hostAnswer_answered (h : Sends s q) (hs : qpState s q = 1) (op status ctag value extra : Nat) :
    Answered s (hostAnswer s q op status ctag value extra) q (answerMsg s q op status ctag value extra) := by
  set m := answerMsg s q op status ctag value extra with hm
  obtain ⟨n, hn⟩ := hostReq_sends h hs 0 m.data 0 0 0 0
  have hreq : reqMsg s q 0 m.data 0 0 0 0 = m := by simp [reqMsg, hm, answerMsg, pktCount, cdiv]
  rw [hreq] at hn
  set s1 := qpPut s q (qpSent (qpGet s q) m n)
  have e : hostAnswer s q op status ctag value extra = hostOut s1 (.request q m) := hn
  have hq : qpGet (hostOut s1 (.request q m)) q = qpSent (qpGet s q) m n := by
    rw [hostOut_eq]
    exact qpGet_qpPut_same _ _ _
  rw [e]
  refine ⟨?_, by rw [hq]; rfl, by rw [hq]; rfl, fun r hr => rd_hostOut_other s1 _ hr⟩
  rw [State.mk.injEq]
  simp [hostOut, hstBump, s1]
  rfl

/-- The latency of an answer given at once is counted in the lowest bin (R481). -/
theorem Answered.histCount {m : TxMsg} (h : Answered s t q m) : Answered s (Machine.histCount t 26 (telNow s)) q m := by
  have hnow : telNow t = telNow s := by rw [h.eq]; rfl
  have e : Machine.histCount t 26 (telNow s) = bump t (bit (rd t R.telCtrl) 0) (R.telHistHB 26 0) 1 := by
    have h0 : histBin 0 = 0 := by decide
    simp only [Machine.histCount, hnow, Nat.sub_self, h0]
  rw [e]
  refine ⟨?_, ?_, ?_, fun r hr => ?_⟩
  · have he := h.eq
    rw [State.mk.injEq] at he ⊢
    simpa using he
  · simpa [qpGet] using h.sq
  · simpa [qpGet] using h.cmds
  · have hbin : r.addr ≠ (R.telHistHB 26 0).addr := fun hx => hr (by simp [answerRegs, hx])
    rw [rd_bump_other t _ hbin, h.regs r hr]

theorem readDone_eq (s : State) (a : Nat) : ∃ n, readDone s a = { s with fresh := n } := by
  unfold readDone
  repeat' split
  all_goals exact ⟨_, rfl⟩

theorem Answered.readDone {m : TxMsg} (h : Answered s t q m) (a : Nat) : Answered s (Machine.readDone t a) q m := by
  obtain ⟨n, hn⟩ := readDone_eq t a
  rw [hn]
  refine ⟨?_, h.sq, h.cmds, h.regs⟩
  have he := h.eq
  rw [State.mk.injEq] at he ⊢
  simpa using he

/-! The commands of a queue pair that listens (R418, R422). -/

theorem cmdsPump_empty (h : (qpGet s q).cmds = []) (n : Nat) : cmdsPump s q n = s := by
  cases n <;> simp [cmdsPump, h]

/-- A command of a queue pair that listens is performed at once, and nothing waits behind it. -/
theorem hostCmd_listens (h : Listens s q) {i : Instr} (hw : cmdWaits s q i = false) {f : Nat → State → State}
    (hf : (qpGet (f (telNow s) s) q).cmds = []) : hostCmd s q i f = f (telNow s) s := by
  have hrun : cmdsRun s q = true := by
    rcases Nat.lt_or_eq_of_le h.qp with hlt | rfl
    · simp [cmdsRun, h.qp, h.rts, h.formed hlt]
    · simp [cmdsRun, h.rts]
  simp [hostCmd, hrun, hw, h.cmds, cmdTake, cmdsPump_empty hf]

theorem Listens.quiet (h : Listens s q) : Listens (Machine.quiet s) q :=
  ⟨⟨h.pace, h.rnr, h.rate, h.prio⟩, h.qp, h.rts, h.formed, h.cmds⟩

/-- What an answered command of a calm device leaves: `v` is the device as the command's own effect leaves its registers, `w` after the answer. -/
theorem Answered.completes {s v w u : State} {q : Nat} {m : TxMsg} {rs : List Reg} (hv : v = { Machine.quiet s with csr := v.csr })
    (hr : ∀ r : Reg, r.addr ∉ rs.map Reg.addr → rd v r = rd s r) (hq : ∀ r ∈ frameRegs q, rd v r = rd s r) (hw : Answered v w q m)
    (hf : Follows s.pending w u) :
    Sent s u q m ∧ SameRegs s u (rs ++ answerRegs) ∧ u.hearths = s.hearths ∧ u.slices = s.slices ∧ u.hbm = s.hbm := by
  have hqu : qpGet u q = qpGet w q := by rw [hf.eq]; rfl
  have hvs : qpGet v q = qpGet s q := by rw [hv]; rfl
  have htx : u.tx = [frameOf s (.request q m)] := by
    rw [hf.eq, hw.eq, frameOf_request_congr hq, hv]
    rfl
  refine ⟨⟨by rw [hqu, hw.sq, hvs], htx⟩, ⟨fun r hn hnote => ?_, fun p => ?_⟩, ?_, ?_, ?_⟩
  · simp only [List.map_append, List.mem_append, not_or] at hn
    rw [hf.rd r hnote, hw.regs r hn.2, hr r hn.1]
  · rw [hf.parts p, hw.eq, hv]
    rfl
  all_goals
    rw [hf.eq, hw.eq, hv]
    rfl

end

theorem regRead_quiet (s : State) (a : Nat) : regRead (quiet s) a = regRead s a := by
  have hview : ∀ id n i j, viewOf (quiet s) id n i j = viewOf s id n i j := fun id n i j => by cases id <;> rfl
  simp [regRead, hview]

section
variable {s : State} {q a : Nat}

theorem cmdWaits_of_not_held (h : accessHeld s a = false) (ctag : Nat) (v : W64) :
    cmdWaits s q (.csrRead q a ctag) = false ∧ cmdWaits s q (.csrWrite q a v ctag) = false := by
  simp [cmdWaits, h]

/-- A read that the queue pair reaches is answered OK with the register's value. -/
theorem csrReadOp_answered (ha : s.away = false) (h : Listens s q) (h8 : a % 8 = 0) (hreach : reaches s q a = true)
    (hheld : accessHeld s a = false) (ctag : Nat) :
    Answered s (csrReadOp s q a ctag) q (answerMsg s q 1 0 ctag (regRead s a) 0) := by
  have hans := ((hostAnswer_answered h.toSends h.rts 1 0 ctag (regRead s a) 0).readDone a).histCount
  have e : csrReadDo s q a ctag (telNow s) = Machine.histCount (Machine.readDone (hostAnswer s q 1 0 ctag (regRead s a) 0) a) 26 (telNow s) := by
    simp [csrReadDo, hreach, h8]
  rw [← e] at hans
  have hop : csrReadOp s q a ctag = csrReadDo s q a ctag (telNow s) := by
    simp only [csrReadOp, ha, Bool.false_eq_true, if_false]
    exact hostCmd_listens h (cmdWaits_of_not_held hheld ctag 0).1 (hans.cmds.trans h.cmds)
  rwa [hop]

/-- A write that the queue pair reaches takes its effect and is answered OK. -/
theorem csrWriteOp_answered (ha : s.away = false) (h : Listens s q) (h8 : a % 8 = 0) (hreach : reaches s q a = true)
    (hheld : accessHeld s a = false) (v : W64) (ctag : Nat) {t : State} (hw : regWrite s (.qp q) a v.toNat = t)
    (ht : t = { s with csr := t.csr }) (hq : rd t (R.hstQpCtrlQ q) = rd s (R.hstQpCtrlQ q)) :
    Answered t (csrWriteOp s q a v ctag) q (answerMsg s q 2 0 ctag 0 0) := by
  have hnow : telNow t = telNow s := by rw [ht]; rfl
  have hqp : qpGet t q = qpGet s q := by rw [ht]; rfl
  have hrts : qpState t q = 1 := by
    rw [← h.rts]
    simp only [qpState, rdf, hq]
  have hmsg : answerMsg t q 2 0 ctag 0 0 = answerMsg s q 2 0 ctag 0 0 := by simp only [answerMsg, hqp]
  have hans := (hostAnswer_answered (h.toSends.csr ht hq) hrts 2 0 ctag 0 0).histCount
  have e : csrWriteDo s q a v ctag (telNow s) = Machine.histCount (hostAnswer t q 2 0 ctag 0 0) 26 (telNow t) := by
    simp [csrWriteDo, hreach, h8, hw, hnow]
  rw [← e, hmsg] at hans
  have hop : csrWriteOp s q a v ctag = csrWriteDo s q a v ctag (telNow s) := by
    simp only [csrWriteOp, ha, Bool.false_eq_true, if_false]
    exact hostCmd_listens h (cmdWaits_of_not_held hheld ctag v).2 (by rw [hans.cmds, hqp, h.cmds])
  rwa [hop]

theorem Answered.calm {t : State} {m : TxMsg} (h : Answered s t q m) (hc : Calm s) : Calm t := by
  rw [h.eq]
  exact hc.of rfl rfl rfl rfl rfl rfl rfl

end

/-- Settles O15: the answer of a queue pair that listens leaves at once (`Answered`), after a read of the register or after `regWrite` has stored the
masked value of a plain register, which is none of those that the answer is made of or counted in. -/
theorem hostReadsAndWrites : Obligations.HostReadsAndWrites := by
  unfold Obligations.HostReadsAndWrites
  intro s q a ctag hc hl h8 hreach hheld
  constructor
  · have hw := csrReadOp_answered (s := quiet s) hc.here hl.quiet h8 hreach hheld ctag
    rw [regRead_quiet] at hw
    obtain ⟨u, hu, hf⟩ := lead_act (f := fun t => csrReadOp t q a ctag) hc hl.qp rfl (hw.calm hc.quiet)
    exact ⟨u, hu, hw.completes (s := s) (v := quiet s) (rs := []) rfl (fun _ _ => rfl) (fun _ _ => rfl) hf⟩
  · intro v b inst off id row i j hloc hrow hp r new hr
    have hreg : HoldsReg a b inst off id row i j := ⟨hloc, hrow⟩
    have ht : RegTaken (quiet s) (regWrite (quiet s) (.qp q) a v.toNat) r new := regWrite_plain (s := quiet s) hreg hp hr
    have hframe : ∀ x ∈ frameRegs q, rd (regWrite (quiet s) (.qp q) a v.toNat) x = rd s x := fun x hx =>
      ht.other x (plain_not_frameRegs hreg hp hl.qp x hx)
    have hw := csrWriteOp_answered (s := quiet s) hc.here hl.quiet h8 hreach hheld v ctag rfl ht.eq (hframe _ (by simp [frameRegs]))
    obtain ⟨u, hu, hf⟩ := lead_act (f := fun t => csrWriteOp t q a v ctag) hc hl.qp rfl (hw.calm (hc.quiet.csr ht.eq))
    have hval : rd u r = new := by
      rw [hf.rd r (plain_not_noteRegs hreg hp), hw.regs r (plain_not_answerRegs hreg hp), ht.val]
    exact ⟨u, hu, hval, hw.completes (rs := [r]) ht.eq (fun x hx => ht.other x (by simpa using hx)) hframe hf⟩

end Sys2Proof.Machine

/-!
SUPPORT and proofs for the number formats of chapter 02: the values of codes (O1), the conversions of the vector engine (O7) and the rows that enter
the matrix arrays (O3).
-/

namespace Sys2Proof.Machine

/-! Values of codes as rational numbers (R42–R44). -/

/-- A finite value is the rational number `x`. -/
def FVal.IsRat (v : FVal) (x : ℚ) : Prop := ∃ n m e, v = .fin n m e ∧ (if n then -1 else 1) * (m : ℚ) * (2 : ℚ) ^ e = x

theorem isRat_fin (n : Bool) (m : Nat) (e : Int) : (FVal.fin n m e).IsRat ((if n then -1 else 1) * (m : ℚ) * (2 : ℚ) ^ e) :=
  ⟨n, m, e, rfl, rfl⟩

theorem magVal_of_exp_zero {f : FFmt} {mag : Nat} (h : mag / 2 ^ f.mb = 0) (n : Bool) : magVal f n mag = .fin n (mag % 2 ^ f.mb) f.emin :=
  if_pos h

theorem magVal_of_exp_pos {f : FFmt} {mag : Nat} (h : mag / 2 ^ f.mb ≠ 0) (n : Bool) :
    magVal f n mag = .fin n (2 ^ f.mb + mag % 2 ^ f.mb) (f.emin + (((mag / 2 ^ f.mb : Nat) : Int) - 1)) :=
  if_neg h

/-- Only the magnitude 0 has a zero significand. -/
theorem magVal_eq_zero {f : FFmt} {n k : Bool} {mag : Nat} {e : Int} (h : magVal f n mag = .fin k 0 e) : mag = 0 ∧ k = n := by
  by_cases hex : mag / 2 ^ f.mb = 0
  · rw [magVal_of_exp_zero hex] at h
    obtain ⟨rfl, hfr, -⟩ := FVal.fin.inj h
    exact ⟨by rw [← Nat.div_add_mod mag (2 ^ f.mb), hex, hfr, Nat.mul_zero], rfl⟩
  · rw [magVal_of_exp_pos hex] at h
    obtain ⟨-, hfr, -⟩ := FVal.fin.inj h
    exact absurd hfr (by have := Nat.two_pow_pos f.mb; omega)

theorem magVal_ne_inf (f : FFmt) (n k : Bool) (mag : Nat) : magVal f n mag ≠ .inf k := by
  unfold magVal
  dsimp only
  split <;> simp

theorem two_zpow_emin (f : FFmt) : (2 : ℚ) ^ f.emin = 2 ^ (1 - (f.bias : ℤ)) / 2 ^ f.mb := by
  rw [FFmt.emin, zpow_sub₀ two_ne_zero, zpow_natCast]

/-- A subnormal code has the value ±2^(1 − bias) × fraction. -/
theorem magVal_subnormal {f : FFmt} {mag : Nat} (h : mag / 2 ^ f.mb = 0) (n : Bool) :
    (magVal f n mag).IsRat ((if n then -1 else 1) * 2 ^ (1 - (f.bias : ℤ)) * (((mag % 2 ^ f.mb : Nat) : ℚ) / 2 ^ f.mb)) := by
  rw [magVal_of_exp_zero h]
  convert isRat_fin _ _ _ using 1
  rw [two_zpow_emin]
  ring

/-- A normal code has the value ±2^(exponent − bias) × (1 + fraction). -/
theorem magVal_normal {f : FFmt} {mag : Nat} (h : mag / 2 ^ f.mb ≠ 0) (n : Bool) :
    (magVal f n mag).IsRat
      ((if n then -1 else 1) * 2 ^ (((mag / 2 ^ f.mb : Nat) : ℤ) - f.bias) * (1 + ((mag % 2 ^ f.mb : Nat) : ℚ) / 2 ^ f.mb)) := by
  rw [magVal_of_exp_pos h]
  convert isRat_fin _ _ _ using 1
  have hexp : (2 : ℚ) ^ (((mag / 2 ^ f.mb : Nat) : ℤ) - f.bias) = 2 ^ (1 - (f.bias : ℤ)) * 2 ^ (((mag / 2 ^ f.mb : Nat) : ℤ) - 1) := by
    rw [← zpow_add₀ two_ne_zero]
    congr 1
    ring
  have hmb : (2 : ℚ) ^ f.mb ≠ 0 := pow_ne_zero _ two_ne_zero
  rw [zpow_add₀ two_ne_zero, two_zpow_emin, hexp]
  push_cast
  field_simp

theorem bit_eq_decide (w i : Nat) : bit w i = decide (w / 2 ^ i % 2 = 1) := by rw [bit, bits, Nat.shiftRight_eq_div_pow, pow_one]

/-! F8 (R42). -/

theorem f8Val_nan {c : Nat} (h : c % 128 = 127) : f8Val c = .nan := if_pos h
theorem f8Val_mag {c : Nat} (h : c % 128 ≠ 127) : f8Val c = magVal ff8 (bit c 7) (c % 128) := if_neg h

theorem f8Val_ne_inf (c : Nat) (n : Bool) : f8Val c ≠ .inf n := by
  by_cases h : c % 128 = 127
  · simp [f8Val_nan h]
  · rw [f8Val_mag h]
    exact magVal_ne_inf _ _ _ _

/-- The sign bit of an F8 code. -/
theorem f8_sign {c : Nat} (hc : c < 256) : (if bit c 7 then -1 else 1 : ℚ) = (-1) ^ (c / 128) := by
  rcases (by omega : c / 128 = 0 ∨ c / 128 = 1) with h | h <;> simp [bit_eq_decide, h]

/-- The exponent and fraction fields of an F8 code. -/
theorem f8_fields (c : Nat) : c % 128 / 2 ^ ff8.mb = c / 8 % 16 ∧ c % 128 % 2 ^ ff8.mb = c % 8 := by
  rw [show 2 ^ ff8.mb = 8 from rfl]
  omega

theorem f8Val_subnormal {c : Nat} (hc : c < 256) (hE : c / 8 % 16 = 0) :
    (f8Val c).IsRat ((-1) ^ (c / 128) * 2 ^ (-6 : ℤ) * (((c % 8 : Nat) : ℚ) / 8)) := by
  obtain ⟨he, hm⟩ := f8_fields c
  have h := magVal_subnormal (f := ff8) (he.trans hE) (bit c 7)
  rw [f8_sign hc, hm] at h
  rw [f8Val_mag (by omega)]
  convert h using 2 <;> norm_num [ff8]

theorem f8Val_normal {c : Nat} (hc : c < 256) (hE : c / 8 % 16 ≠ 0) (hn : ¬(c / 8 % 16 = 15 ∧ c % 8 = 7)) :
    (f8Val c).IsRat ((-1) ^ (c / 128) * 2 ^ (((c / 8 % 16 : Nat) : ℤ) - 7) * (1 + ((c % 8 : Nat) : ℚ) / 8)) := by
  obtain ⟨he, hm⟩ := f8_fields c
  have h := magVal_normal (f := ff8) (he.trans_ne hE) (bit c 7)
  rw [f8_sign hc, hm, he] at h
  rw [f8Val_mag (by omega)]
  convert h using 3 <;> norm_num [ff8]

/-! F4 (R43). -/

theorem f4Val_ne_inf (c : Nat) (n : Bool) : f4Val c ≠ .inf n := by
  unfold f4Val
  split
  · simp
  · exact magVal_ne_inf _ _ _ _

/-- The code that would be −0 is the NaN of F4. -/
theorem f4Val_ne_negZero {c : Nat} (hc : c < 16) (e : Int) : f4Val c ≠ .fin true 0 e := by
  by_cases h8 : c % 16 = 8
  · simp [f4Val, h8]
  · rw [f4Val, if_neg h8]
    intro h
    obtain ⟨h0, hs⟩ := magVal_eq_zero h
    have h3 : c / 8 % 2 = 1 := by simpa [bit_eq_decide] using hs.symm
    omega

/-! Integers (R44). -/

/-- `sbits` reads the low bits of a number in two's complement. -/
theorem sbits_eq_toInt {n : Nat} (hn : 0 < n) (w : Nat) : sbits w n = (BitVec.ofNat n w).toInt := by
  have hp : 2 ^ n = 2 * 2 ^ (n - 1) := by rw [← pow_succ', Nat.sub_add_cancel hn]
  rw [sbits, BitVec.toInt_eq_toNat_cond, BitVec.toNat_ofNat]
  split_ifs <;> omega

theorem intVal_isRat {n : Nat} (hn : 0 < n) (w : Nat) : (intVal n w).IsRat ((BitVec.ofNat n w).toInt : ℚ) := by
  rw [← sbits_eq_toInt hn]
  refine ⟨_, _, _, rfl, ?_⟩
  have habs : ((sbits w n).natAbs : ℚ) = |(sbits w n : ℚ)| := by rw [Nat.cast_natAbs, Int.cast_abs]
  rw [habs, zpow_zero, mul_one]
  by_cases h : sbits w n < 0
  · simp [h, abs_of_neg (Int.cast_lt_zero.2 h)]
  · simp [h, abs_of_nonneg (Int.cast_nonneg (not_lt.1 h))]

/-- Settles O1: an F8 code by the value of a magnitude (`magVal_subnormal`, `magVal_normal`), the table of F4 line by line, an integer by its
two's complement reading (`sbits_eq_toInt`). -/
theorem narrowFormats : Obligations.NarrowFormats := by
  unfold Obligations.NarrowFormats
  intro val
  refine ⟨fun c hc => ⟨fun h => ?_, f8Val_subnormal hc, f8Val_normal hc, f8Val_ne_inf c⟩, ⟨_, rfl, rfl⟩, ?_, rfl,
    fun c hc => ⟨f4Val_ne_inf c, f4Val_ne_negZero hc⟩, ?_⟩
  · exact f8Val_nan (by omega)
  · intro x hx
    simp only [List.mem_cons, List.not_mem_nil, or_false] at hx
    rcases hx with rfl | rfl | rfl | rfl | rfl | rfl | rfl | rfl | rfl | rfl | rfl | rfl | rfl | rfl | rfl
    all_goals exact ⟨_, _, _, rfl, by norm_num [bit_eq_decide, ff4, FFmt.emin]⟩
  · intro x hx w _
    simp only [List.mem_cons, List.not_mem_nil, or_false] at hx
    rcases hx with rfl | rfl | rfl
    all_goals exact ⟨intVal_isRat (by decide) w, BitVec.le_toInt _, Int.le_sub_one_of_lt BitVec.toInt_lt⟩

/-! A hearth and two counters. -/

@[simp] theorem hget_bump (s : State) (frz : Bool) (r : Reg) (n w h : Nat) : hget (bump s frz r n w) h = hget s h :=
  hget_congr (bump_hearths s frz r n w) h

/-- A counter of the device and a hearth do not meet. -/
@[simp] theorem hput_bump (s : State) (frz : Bool) (r : Reg) (n w h : Nat) (x : Hearth) :
    hput (bump s frz r n w) h x = bump (hput s h x) frz r n w := by
  cases frz <;> rfl

@[simp] theorem hmod_bump (s : State) (frz : Bool) (r : Reg) (n w h : Nat) (f : Hearth → Hearth) :
    hmod (bump s frz r n w) h f = bump (hmod s h f) frz r n w := by
  simp [hmod]

/-- A command of one hearth that gives it a new value and advances two counters. -/
theorem act_hput_bumps {c : Prop} [Decidable c] {f : State → State} {s : State} {h : Nat} {x : Hearth} {f1 f2 : Bool} {r1 r2 : Reg} {n1 n2 : Nat}
    (hc : Calm s) (hg : c) (e : f (quiet s) = bump (bump (hput (quiet s) h x) f1 r1 n1) f2 r2 n2) (h12 : r1.addr ≠ r2.addr)
    (hn1 : r1.addr ∉ noteRegs) (hn2 : r2.addr ∉ noteRegs) {rs : List Reg} (hrs : r1 ∈ rs ∧ r2 ∈ rs) :
    ∃ u, act (only c f) s = .next u ∧ HearthOnly s u h rs ∧ hget u h = x ∧
      rd u r1 = (if f1 then rd s r1 else (rd s r1 + n1) % 2 ^ 48) ∧ rd u r2 = (if f2 then rd s r2 else (rd s r2 + n2) % 2 ^ 48) := by
  have hq := quiet_eq hc.free
  have hrd : ∀ r : Reg, rd (hput (quiet s) h x) r = rd s r := fun r => rfl
  obtain ⟨u, hu, honly, hx, hreg⟩ := act_hearthRegs (h := h) (x := x) rs hc hg e
    (by rw [State.mk.injEq]; simp [hq])
    (fun r hr => by
      have h1 : r.addr ≠ r1.addr := fun h => hr (h ▸ List.mem_map_of_mem hrs.1)
      have h2 : r.addr ≠ r2.addr := fun h => hr (h ▸ List.mem_map_of_mem hrs.2)
      rw [rd_bump_other _ _ h2, rd_bump_other _ _ h1, hrd])
  refine ⟨u, hu, honly, hx, ?_, ?_⟩
  · rw [hreg r1 hn1, rd_bump_other _ _ h12, rd_bump_same, hrd]
  · rw [hreg r2 hn2, rd_bump_same, rd_bump_other _ _ h12.symm, hrd]

/-! Element registers (R104). -/

/-- Element `i` of register `r`. -/
def eCode (v : Vector) (r i : Nat) : Nat := tgetD (tgetD v.e r ⟨0, []⟩).v i 0

/-- The type of register `r`. -/
def eType (v : Vector) (r : Nat) : Nat := (tgetD v.e r ⟨0, []⟩).ty

/-- One code stored at its place in a register; 0 is not listed. -/
def codePut (t : Tbl Nat) (z : Nat × Nat) : Tbl Nat := if z.1 = 0 then tdel t z.2 else tput t z.2 z.1

theorem eWrite_eq (v : Vector) (r ty : Nat) (codes : List Nat) :
    eWrite v r ty codes = { v with e := tput v.e r ⟨ty, codes.zipIdx.foldl codePut (tgetD v.e r ⟨0, []⟩).v⟩ } := rfl

theorem tgetD_codePut (t : Tbl Nat) (c k i : Nat) : tgetD (codePut t (c, k)) i 0 = if i = k then c else tgetD t i 0 := by
  unfold codePut
  by_cases hi : i = k
  · subst hi
    by_cases hc : c = 0 <;> simp [hc, tgetD]
  · split <;> simp [hi, tgetD_tdel_other, tgetD_tput_other]

theorem tgetD_codePuts (codes : List Nat) (t : Tbl Nat) (k i : Nat) :
    tgetD ((codes.zipIdx k).foldl codePut t) i 0 = if k ≤ i ∧ i < k + codes.length then codes.getD (i - k) 0 else tgetD t i 0 := by
  induction codes generalizing t k with
  | nil => simp
  | cons c r ih =>
    rw [List.zipIdx_cons, List.foldl_cons, ih, tgetD_codePut]
    rcases Nat.lt_trichotomy i k with hlt | rfl | hgt
    · rw [if_neg (by omega), if_neg (by omega), if_neg (by omega)]
    · rw [if_neg (by omega), if_pos rfl, if_pos (by simp)]
      simp
    · have hsub : i - k = i - (k + 1) + 1 := by omega
      have hiff : (k + 1 ≤ i ∧ i < k + 1 + r.length) ↔ k ≤ i ∧ i < k + (c :: r).length := by simp; omega
      simp only [hiff, if_neg (Nat.ne_of_gt hgt), hsub, List.getD_cons_succ]

/-- A written register holds the codes, and what it held beyond them. -/
theorem eCode_eWrite_same (v : Vector) (r ty : Nat) (codes : List Nat) (i : Nat) :
    eCode (eWrite v r ty codes) r i = if i < codes.length then codes.getD i 0 else eCode v r i := by
  simp [eCode, eWrite_eq, tgetD_codePuts]

theorem eCode_congr {v z : Vector} (h : z.e = v.e) (r i : Nat) : eCode z r i = eCode v r i := by simp [eCode, h]
theorem eType_congr {v z : Vector} (h : z.e = v.e) (r : Nat) : eType z r = eType v r := by simp [eType, h]

theorem tget_eWrite_other (v : Vector) {r k : Nat} (h : k ≠ r) (ty : Nat) (codes : List Nat) : tget (eWrite v r ty codes).e k = tget v.e k :=
  tget_tput_other _ h _

/-- Two writes leave the other registers. -/
theorem tget_eWrite_eWrite_other (v : Vector) {r r' k : Nat} (h : k ∉ [r, r']) (ty ty' : Nat) (codes codes' : List Nat) :
    tget (eWrite (eWrite v r ty codes) r' ty' codes').e k = tget v.e k := by
  simp only [List.mem_cons, List.not_mem_nil, or_false, not_or] at h
  rw [tget_eWrite_other _ h.2, tget_eWrite_other _ h.1]

theorem eCode_eWrite_other (v : Vector) {r k : Nat} (h : k ≠ r) (ty : Nat) (codes : List Nat) (i : Nat) :
    eCode (eWrite v r ty codes) k i = eCode v k i := by
  simp [eCode, tgetD, tget_eWrite_other v h]

@[simp] theorem eType_eWrite_same (v : Vector) (r ty : Nat) (codes : List Nat) : eType (eWrite v r ty codes) r = ty := by simp [eType, eWrite_eq]

theorem eType_eWrite_other (v : Vector) {r k : Nat} (h : k ≠ r) (ty : Nat) (codes : List Nat) : eType (eWrite v r ty codes) k = eType v k := by
  simp [eType, tgetD, tget_eWrite_other v h]

/-! An instruction issues (R103, R112). -/

/-- The issue rule notes writes and changes nothing else of the engine. -/
theorem noteWrite_eq (v : Vector) (w t n : Nat) : noteWrite v w t n = { v with eW := (noteWrite v w t n).eW, aW := (noteWrite v w t n).aW } := by
  unfold noteWrite
  dsimp only
  repeat' split
  all_goals rfl

/-- The next instruction's place is all that changes with it. -/
theorem vecAdvance_eq (v : Vector) (iv : Invoc) :
    vecAdvance v iv = { v with pc := (vecAdvance v iv).pc, seg := (vecAdvance v iv).seg, r := (vecAdvance v iv).r, vl := (vecAdvance v iv).vl } := by
  unfold vecAdvance
  dsimp only
  repeat' split
  all_goals rfl

/-- The engine `z` that an instruction's effect has left, once the instruction has issued from engine `v`. -/
def vecIssued (v : Vector) (iv : Invoc) (w : Nat) (z : Vector) : Vector :=
  vecAdvance { noteWrite z w (issueAt v iv.desc w) (chunks v iv.desc w) with clk := issueAt v iv.desc w + chunks v iv.desc w } iv

section
variable {v z : Vector} {iv : Invoc} {w : Nat}

theorem vecIssued_regs : (vecIssued v iv w z).e = z.e ∧ (vecIssued v iv w z).a = z.a ∧ (vecIssued v iv w z).draw = z.draw := by
  rw [vecIssued, vecAdvance_eq, noteWrite_eq]
  exact ⟨rfl, rfl, rfl⟩

/-- An effect that changes element registers and the draw counter only leaves the next instruction's place. -/
theorem vecIssued_place (hz : z = { v with e := z.e, draw := z.draw }) :
    ((vecIssued v iv w z).pc, (vecIssued v iv w z).seg, (vecIssued v iv w z).r) =
      ((vecAdvance v iv).pc, (vecAdvance v iv).seg, (vecAdvance v iv).r) := by
  rw [vecIssued, noteWrite_eq, hz]
  unfold vecAdvance progOf
  dsimp only
  repeat' split
  all_goals rfl

end

/-- Neither a load nor a store: the instruction's effect is `vecCompute`. -/
theorem vecRun_compute {s : State} {h op w : Nat} {iv : Invoc} {q : List Invoc} (hn : NextWord (hget s h).vec iv q w) (hop : inOp w = op)
    (h1 : op ≠ 1) (h2 : op ≠ 2) :
    let x := hget s h
    let y := vecCompute x.vec iv (((runOf x iv.own).map TaskRun.seed).getD 0) w
    vecRun s h op =
      bump (bump (hput s h { setCvt x iv.own y.2 with vec := vecIssued x.vec iv w y.1 }) (bit (rd s (R.vecCtrl h)) 0) (R.vecIssueCycles h)
          (chunks x.vec iv.desc w))
        (bit (rd s (R.vecCtrl h)) 0) (R.vecDepWait h) (issueAt x.vec iv.desc w - x.vec.clk) := by
  obtain ⟨hrun, hq, hpc, hr, hw⟩ := hn
  have hctrl : (R.vecCtrl h).addr ≠ (R.vecIssueCycles h).addr := by simp [R.vecCtrl, R.vecIssueCycles]
  unfold vecRun
  simp only [hrun, hq, hw, hop, h1, h2, Nat.not_le.2 hpc, Nat.not_le.2 hr, if_false, or_self, ne_eq, not_true_eq_false, vecBump, vmod,
    rd_bump_other _ _ hctrl, rd_hmod, hmod_bump]
  simp only [hmod, hget_hput_same, hput_hput]
  rfl

/-- Beside its own effect on the element registers, what a conversion leaves of the device. -/
def ConvRuns (s : State) (h : Nat) (iv : Invoc) (w : Nat) (f : CvtFlags) (draw : Nat) (rs : List Nat) (u : State) : Prop :=
  let x := hget s h
  let z := (hget u h).vec
  let flagged (t : TaskRun) : TaskRun := if t.id = iv.own then { t with cvt := t.cvt ||| f.toNat } else t
  HearthOnly s u h [R.vecIssueCycles h, R.vecDepWait h] ∧
  (bit (rd s (R.vecCtrl h)) 0 = false → rd u (R.vecIssueCycles h) = (rd s (R.vecIssueCycles h) + chunks x.vec iv.desc w) % 2 ^ 48) ∧
  hget u h = { x with vec := z, cur := x.cur.map flagged, drain := x.drain.map flagged } ∧
  z.draw = draw ∧ z.a = x.vec.a ∧ (∀ r, r ∉ rs → tget z.e r = tget x.vec.e r) ∧
  (z.pc, z.seg, z.r) = ((vecAdvance x.vec iv).pc, (vecAdvance x.vec iv).seg, (vecAdvance x.vec iv).r)

/-- An instruction whose effect lies in the element registers `rs`, the draw counter and the flags. -/
theorem vecRun_converts {s : State} {h op w : Nat} {iv : Invoc} {q : List Invoc} {y : Vector × CvtFlags} {rs : List Nat} (hh : h < 256)
    (hc : Calm s) (hn : NextWord (hget s h).vec iv q w) (hop : inOp w = op) (h1 : op ≠ 1) (h2 : op ≠ 2)
    (hy : vecCompute (hget s h).vec iv (((runOf (hget s h) iv.own).map TaskRun.seed).getD 0) w = y)
    (hz : y.1 = { (hget s h).vec with e := y.1.e, draw := y.1.draw }) (he : ∀ r, r ∉ rs → tget y.1.e r = tget (hget s h).vec.e r) :
    ∃ u, act (only (h < 256) (fun t => vecRun t h op)) s = .next u ∧ ConvRuns s h iv w y.2 y.1.draw rs u ∧ (hget u h).vec.e = y.1.e := by
  have hrun := vecRun_compute (s := quiet s) hn hop h1 h2
  simp only [hget_quiet, rd_quiet, hy] at hrun
  obtain ⟨u, hu, honly, hx, hissue, -⟩ := act_hput_bumps (f := fun t => vecRun t h op) (rs := [R.vecIssueCycles h, R.vecDepWait h]) hc hh hrun
    (by simp [R.vecIssueCycles, R.vecDepWait]) (by simp [noteRegs, R.prtErrLog, R.prtErrCount, R.vecIssueCycles, blkBase]; omega)
    (by simp [noteRegs, R.prtErrLog, R.prtErrCount, R.vecDepWait, blkBase]; omega) (by simp)
  obtain ⟨ee, ea, ed⟩ := vecIssued_regs (v := (hget s h).vec) (z := y.1) (iv := iv) (w := w)
  have hvec : (hget u h).vec = vecIssued (hget s h).vec iv w y.1 := by rw [hx]
  refine ⟨u, hu, ⟨honly, fun hfrz => by rw [hissue, hfrz]; rfl, ?_, ?_, ?_, fun r hr => ?_, ?_⟩, by rw [hvec, ee]⟩
  · rw [hvec, hx]; rfl
  · rw [hvec, ed]
  · rw [hvec, ea, hz]
  · rw [hvec, ee, he r hr]
  · rw [hvec, vecIssued_place hz]

/-! The four conversions (R63–R67, R109). -/

theorem length_cvtList (src dst : Nat) (sr : Bool) (seed ctr : Nat) (cs : List Nat) : (cvtList src dst sr seed ctr cs).1.length = cs.length := by
  induction cs generalizing ctr with
  | nil => rfl
  | cons c r ih => simp [cvtList, ih]

section
variable (v : Vector) (iv : Invoc) (seed : Nat) {w : Nat}

theorem vecCompute_nop (h : inOp w = 0) : vecCompute v iv seed w = (v, 0) := by simp [vecCompute, h]

theorem vecCompute_cvt (h : inOp w = 0x30) :
    let y := cvtList (srcType v (inSa w)) (bits (inX w) 0 4) (bit (inX w) 4) seed v.draw ((List.range v.vl).map (srcCode v iv.desc (inSa w)))
    vecCompute v iv seed w = (eWrite { v with draw := y.2.2 } (inVd w) (bits (inX w) 0 4) y.1, y.2.1) := by
  simp [vecCompute, h]

theorem vecCompute_qnt (h : inOp w = 0x31) :
    let fmt := bits (inX w) 0 4
    let y := qntAll fmt (bit (inX w) 4) seed v.draw (blocks 64 ((List.range v.vl).map (srcCode v iv.desc (inSa w))))
    vecCompute v iv seed w =
      (eWrite (eWrite { v with draw := y.2.2.2 } (inVd w) (fmtElem fmt) y.1) (inSc w % 16) 11 y.2.1, y.2.2.1) := by
  simp [vecCompute, h]

theorem vecCompute_dqnt (h : inOp w = 0x32) :
    let ys := (List.range v.vl).map (fun i => dequant (bits (inX w) 0 4) (srcCode v iv.desc (inSa w) i) (srcCode v iv.desc (inSb w) (i / 32)))
    vecCompute v iv seed w = (eWrite v (inVd w) 0 (ys.map (fun y => y.1.toNat)), ys.foldl (fun a y => a ||| y.2) 0) := by
  simp [vecCompute, h]

end

/-- Settles O7: each of the four instructions issues (`vecRun_converts`), and its effect on the element registers is one `eWrite`, or for QNT two. -/
theorem conversionResults : Obligations.ConversionResults := by
  unfold Obligations.ConversionResults
  intro s h iv q w hh hc hn x v seed old act flagged new ty runs
  refine ⟨fun hop => ?nop, fun hop => ?cvt, fun hop => ?qnt, fun hop => ?dqnt⟩
  case nop =>
    obtain ⟨u, hu, hruns, -⟩ := vecRun_converts (rs := []) hh hc hn hop (by decide) (by decide) (vecCompute_nop v iv seed hop) rfl
      (fun _ _ => rfl)
    exact ⟨u, hu, hruns⟩
  case cvt =>
    obtain ⟨u, hu, hruns, he⟩ := vecRun_converts (rs := [inVd w]) hh hc hn hop (by decide) (by decide) (vecCompute_cvt v iv seed hop) rfl
      (fun r hr => tget_eWrite_other _ (by simpa using hr) _ _)
    refine ⟨u, hu, hruns, (eType_congr he _).trans (eType_eWrite_same _ _ _ _), fun i => (eCode_congr he _ i).trans ?_⟩
    rw [eCode_eWrite_same, length_cvtList, List.length_map, List.length_range]
    rfl
  case qnt =>
    obtain ⟨u, hu, hruns, he⟩ := vecRun_converts (rs := [inVd w, inSc w % 16]) hh hc hn hop (by decide) (by decide) (vecCompute_qnt v iv seed hop)
      rfl (fun r hr => tget_eWrite_eWrite_other _ hr _ _ _ _)
    refine ⟨u, hu, hruns, (eType_congr he _).trans (eType_eWrite_same _ _ _ _), fun hne => (eType_congr he _).trans ?_,
      fun i hne => (eCode_congr he _ i).trans ?_, fun i => (eCode_congr he _ i).trans ?_⟩
    · rw [eType_eWrite_other _ hne, eType_eWrite_same]
    · rw [eCode_eWrite_other _ hne, eCode_eWrite_same]
      rfl
    · rw [eCode_eWrite_same]
      by_cases hsame : inVd w = inSc w % 16
      · rw [← hsame, eCode_eWrite_same]
        simp only [true_and]
        rfl
      · rw [eCode_eWrite_other _ (Ne.symm hsame)]
        simp only [hsame, false_and, if_false]
        rfl
  case dqnt =>
    obtain ⟨u, hu, hruns, he⟩ := vecRun_converts (rs := [inVd w]) hh hc hn hop (by decide) (by decide) (vecCompute_dqnt v iv seed hop) rfl
      (fun r hr => tget_eWrite_other _ (by simpa using hr) _ _)
    refine ⟨u, hu, hruns, (eType_congr he _).trans (eType_eWrite_same _ _ _ _), fun i => (eCode_congr he _ i).trans ?_⟩
    rw [eCode_eWrite_same, List.length_map, List.length_map, List.length_range]
    exact congrArg (fun c => if i < v.vl then c else old (inVd w) i) (List.getD_map (f := fun y : W32 × CvtFlags => y.1.toNat) (d := (0, 0)) ..)

/-! A core cycle of an array (R71, R81, R87). -/

/-- The loader's state after a core cycle of array `a`. -/
def ldTick (mx : Matrix) (a : Nat) : Matrix :=
  if mx.ldBusy ≠ some a then mx
  else if mx.ldLeft ≤ 1 then { mx with ldBusy := none, ldLeft := 0 }
  else { mx with ldLeft := mx.ldLeft - 1 }

/-- The cycle is the last of a load of array `a`. -/
def ldEnds (mx : Matrix) (a : Nat) : Bool := mx.ldBusy = some a && mx.ldLeft ≤ 1

/-- The hearth after a core cycle of array `a`. -/
def arrCycled (x : Hearth) (a : Nat) : Hearth := arrPut { x with mx := ldTick x.mx a } a (arrTick (arr x a))

section
variable (x : Hearth) (a : Nat)

theorem ldTick_arrays (mx : Matrix) : (ldTick mx a).a0 = mx.a0 ∧ (ldTick mx a).a1 = mx.a1 := by
  unfold ldTick
  repeat' split
  all_goals exact ⟨rfl, rfl⟩

theorem arr_ldTick (b : Nat) : arr { x with mx := ldTick x.mx a } b = arr x b := by
  obtain ⟨h0, h1⟩ := ldTick_arrays a x.mx
  simp [arr, h0, h1]

@[simp] theorem arr_arrCycled_same : arr (arrCycled x a) a = arrTick (arr x a) := arr_arrPut_same _ _ _

theorem arr_arrCycled_other {a b : Nat} (ha : a < 2) (hb : b < 2) (h : a ≠ b) : arr (arrCycled x a) b = arr x b := by
  rw [arrCycled, arr_arrPut_other _ ha hb h, arr_ldTick]

@[simp] theorem arrPut_watch (r : MxArray) : (arrPut x a r).watch = x.watch := by unfold arrPut; split <;> rfl
@[simp] theorem arrPut_ldBusy (r : MxArray) : (arrPut x a r).mx.ldBusy = x.mx.ldBusy := by unfold arrPut; split <;> rfl
@[simp] theorem arrCycled_spd : (arrCycled x a).spd = x.spd := arrPut_spd _ _ _
@[simp] theorem arrCycled_vec : (arrCycled x a).vec = x.vec := arrPut_vec _ _ _
@[simp] theorem arrCycled_cur : (arrCycled x a).cur = x.cur := arrPut_cur _ _ _
@[simp] theorem arrCycled_watch : (arrCycled x a).watch = x.watch := arrPut_watch _ _ _

/-- A core cycle of an array: the load goes on, is counted when it ends, and the array's passes and drain move on. -/
theorem arrCycle_eq (s : State) (h : Nat) :
    arrCycle s h a =
      bump (hput s h (arrCycled (hget s h) a)) (!ldEnds (hget s h).mx a || bit (rd s (R.mxaCtrl h)) 2) (R.mxaTileLoadsA h a) 1 := by
  have hmod_tick : ∀ mx, mx = ldTick (hget s h).mx a →
      arrMod (hmod s h (fun x => { x with mx := mx })) h a arrTick = hput s h (arrCycled (hget s h) a) := by
    rintro _ rfl
    simp only [arrMod, hmod, hget_hput_same, hput_hput, arr_ldTick, arrCycled]
  by_cases hb : (hget s h).mx.ldBusy = some a
  · by_cases hl : (hget s h).mx.ldLeft ≤ 1
    · have hends : ldEnds (hget s h).mx a = true := by simp [ldEnds, hb, hl]
      have htick := hmod_tick { (hget s h).mx with ldBusy := none, ldLeft := 0 } (by simp [ldTick, hb, hl])
      simp only [arrCycle, ldCycle, ldFinish, hb, hl, ne_eq, not_true_eq_false, if_false, if_true, mxaBump, rd_hmod, hends, Bool.not_true,
        Bool.false_or]
      rw [← htick]
      exact hmod_bump _ _ _ _ _ _ _
    · have hends : ldEnds (hget s h).mx a = false := by simp [ldEnds, hl]
      simp only [arrCycle, ldCycle, hb, hl, ne_eq, not_true_eq_false, if_false, hends]
      exact hmod_tick { (hget s h).mx with ldLeft := (hget s h).mx.ldLeft - 1 } (by simp [ldTick, hb, hl])
  · have hends : ldEnds (hget s h).mx a = false := by simp [ldEnds, hb]
    have htick : ldTick (hget s h).mx a = (hget s h).mx := by simp [ldTick, hb]
    simp only [arrCycle, ldCycle, hb, ne_eq, not_false_eq_true, if_true, hends, arrCycled, htick]
    rfl

end

/-! Reads of rows leave marks (R167, R174). -/

/-- `y` is `x` but for the marks that reads of its memories leave. -/
def Marked (x y : Hearth) : Prop := y = { x with unread := y.unread, flues := y.flues, bellows := y.bellows }

theorem marked_rowsRead (x : Hearth) (port m row n : Nat) : Marked x (rowsRead x port m row n) := by
  unfold rowsRead
  dsimp only
  split <;> rfl

theorem Marked.trans {x y z : Hearth} (h1 : Marked x y) (h2 : Marked y z) : Marked x z := by
  unfold Marked at *
  rw [h1] at h2
  exact h2

theorem marked_rowsReads (port m : Nat) (segs : List (Nat × Nat)) (x : Hearth) :
    Marked x (segs.foldl (fun x g => rowsRead x port m g.1 g.2) x) := by
  induction segs generalizing x with
  | nil => rfl
  | cons g r ih => exact (marked_rowsRead x port m g.1 g.2).trans (ih _)

theorem staleHit_congr {x y : Hearth} (h : y.watch = x.watch) (m row n : Nat) : staleHit y m row n = staleHit x m row n := by
  rw [staleHit, staleHit, h]

/-- A read with no injection armed and no stale source leaves its marks on the hearth and nothing else. -/
theorem portRead_marks {s : State} {h : Nat} {x : Hearth} (own port m : Nat) {segs : List (Nat × Nat)} (hi : injKind s 3 h = none)
    (hs : ∀ g ∈ segs, staleHit x m g.1 g.2 = none) :
    ∃ y, Marked x y ∧ portRead (hput s h x) h own port m segs = (hput s h y, true) := by
  obtain ⟨hok, hread⟩ := portRead_ok (s := hput s h x) (own := own) (port := port) hi segs (by simpa using hs)
  rcases hread with ⟨-, hread⟩ | hread
  · exact ⟨x, rfl, Prod.ext hread hok⟩
  · rw [hget_hput_same, hput_hput] at hread
    exact ⟨_, marked_rowsReads port m segs x, Prod.ext hread hok⟩

/-! Counters of an array (R93). -/

/-- The counters of the bubble causes (R88). -/
def bubbleRegs (h a : Nat) : List Reg := [R.mxaBubGapA h a, R.mxaBubDrainA h a, R.mxaBubAccldA h a, R.mxaBubLoadA h a, R.mxaBubFeedA h a]

theorem bubble_mem {r : MxArray} {h a : Nat} {c : Reg} (hb : bubble r h a = some c) : c ∈ bubbleRegs h a := by
  unfold bubble at hb
  dsimp only at hb
  repeat' split at hb
  all_goals simp_all [bubbleRegs]

theorem bubble_gap {r : MxArray} {h a : Nat} {c : Reg} (hb : bubble r h a = some c) (hq : r.q = []) : c = R.mxaBubGapA h a := by
  simpa [bubble, hq, eq_comm] using hb

theorem arrTick_q (r : MxArray) : (arrTick r).q = r.q.map (fun p => { p with age := p.age + 1 }) := rfl

/-- A counter of an array's rows and bubbles is none of the registers that a core cycle reads or writes beside it. -/
theorem array_counter_addr {h a : Nat} (ha : a < 2) {c : Reg} (hm : c ∈ R.mxaValidRowsA h a :: bubbleRegs h a) :
    (R.mxaTileLoadsA h a).addr ≠ c.addr ∧ c.addr ∉ noteRegs := by
  simp only [bubbleRegs, List.mem_cons, List.not_mem_nil, or_false] at hm
  simp only [noteRegs, R.mxaTileLoadsA, R.prtErrLog, R.prtErrCount, List.mem_cons, List.not_mem_nil, or_false]
  rcases hm with rfl | rfl | rfl | rfl | rfl | rfl
  all_goals
    simp only [R.mxaValidRowsA, R.mxaBubGapA, R.mxaBubDrainA, R.mxaBubAccldA, R.mxaBubLoadA, R.mxaBubFeedA, blkBase]
    omega

theorem tileLoads_addr (h a : Nat) : (R.mxaTileLoadsA h a).addr ∉ noteRegs ∧ (R.mxaCtrl h).addr ≠ (R.mxaTileLoadsA h a).addr ∧
    R.errInject.addr ≠ (R.mxaTileLoadsA h a).addr := by
  simp [noteRegs, R.mxaTileLoadsA, R.mxaCtrl, R.errInject, R.prtErrLog, R.prtErrCount, blkBase]
  omega

/-- A core cycle of array `a` that moves a counter of the array: what the device is left with. -/
theorem arrayCycle_counts {f : State → State} {s : State} {h a : Nat} {x : Hearth} {c : Reg} (hh : h < 256) (ha : a < 2) (hc : Calm s)
    (hm : c ∈ R.mxaValidRowsA h a :: bubbleRegs h a)
    (e : f (quiet s) = bump (bump (hput (quiet s) h x) (!ldEnds (hget s h).mx a || bit (rd s (R.mxaCtrl h)) 2) (R.mxaTileLoadsA h a) 1)
      (bit (rd s (R.mxaCtrl h)) 2) c 1) :
    ∃ u, act (only (h < 256 ∧ a < 2) f) s = .next u ∧ HearthOnly s u h [c, R.mxaTileLoadsA h a] ∧ hget u h = x ∧
      (bit (rd s (R.mxaCtrl h)) 2 = false → rd u c = (rd s c + 1) % 2 ^ 48 ∧
        (ldEnds (hget s h).mx a = true → rd u (R.mxaTileLoadsA h a) = (rd s (R.mxaTileLoadsA h a) + 1) % 2 ^ 48)) := by
  have hg : h < 256 ∧ a < 2 := ⟨hh, ha⟩
  obtain ⟨hne, hnote⟩ := array_counter_addr ha hm
  obtain ⟨u, hu, honly, hx, htile, hcnt⟩ := act_hput_bumps hc hg e hne (tileLoads_addr h a).1 hnote
    (rs := [c, R.mxaTileLoadsA h a]) (by simp)
  exact ⟨u, hu, honly, hx, fun hf => ⟨by simpa [hf] using hcnt, fun he => by simpa [hf, he] using htile⟩⟩

/-! ROW_ENTRY. -/

/-- A cycle with a cause for a bubble is counted under that cause (R88). -/
theorem rowEntry_bubble {s : State} {h a : Nat} {c : Reg} (hb : bubble (arrTick (arr (hget s h) a)) h a = some c) :
    rowEntry s h a =
      bump (bump (hput s h (arrCycled (hget s h) a)) (!ldEnds (hget s h).mx a || bit (rd s (R.mxaCtrl h)) 2) (R.mxaTileLoadsA h a) 1)
        (bit (rd s (R.mxaCtrl h)) 2) c 1 := by
  unfold rowEntry
  rw [arrCycle_eq]
  simp only [hget_bump, hget_hput_same, arr_arrCycled_same, hb, mxaBump, rd_bump_other _ _ (tileLoads_addr h a).2.1, rd_hput]

theorem rowEntry_bubble_completes {s : State} {h a : Nat} {c : Reg} (hh : h < 256) (ha : a < 2) (hc : Calm s)
    (hb : bubble (arrTick (arr (hget s h) a)) h a = some c) (hf : bit (rd s (R.mxaCtrl h)) 2 = false) :
    Completes (.rowEntry h a) s (fun u => HearthOnly s u h [c, R.mxaTileLoadsA h a] ∧ rd u c = (rd s c + 1) % 2 ^ 48 ∧
      ((arr (hget s h) a).q = [] → c = R.mxaBubGapA h a) ∧ arr (hget u h) a = arrTick (arr (hget s h) a) ∧
      arr (hget u h) (1 - a) = arr (hget s h) (1 - a) ∧ (hget u h).spd = (hget s h).spd ∧ (hget u h).vec = (hget s h).vec ∧
      ((hget s h).mx.ldBusy = some a → (hget s h).mx.ldLeft ≤ 1 → (hget u h).mx.ldBusy = none ∧
        rd u (R.mxaTileLoadsA h a) = (rd s (R.mxaTileLoadsA h a) + 1) % 2 ^ 48)) := by
  obtain ⟨u, hu, honly, hx, hcnt⟩ := arrayCycle_counts (f := fun t => rowEntry t h a) hh ha hc (List.mem_cons_of_mem _ (bubble_mem hb))
    (rowEntry_bubble (s := quiet s) hb)
  obtain ⟨hrd, htile⟩ := hcnt hf
  rw [hget_quiet] at hx
  refine ⟨u, hu, honly, hrd, fun hq => bubble_gap hb (by rw [arrTick_q, hq]; rfl), ?_, ?_, ?_, ?_, fun hbusy hleft => ⟨?_, ?_⟩⟩
  · rw [hx, arr_arrCycled_same]
  · rw [hx, arr_arrCycled_other _ ha (by omega) (by omega)]
  · rw [hx, arrCycled_spd]
  · rw [hx, arrCycled_vec]
  · rw [hx, arrCycled, arrPut_ldBusy]
    simp [ldTick, hbusy, hleft]
  · exact htile (by simp [ldEnds, hbusy, hleft])

/-- The row ranges that the next row of a pass reads (R75, R76). -/
def rowReads (sp : Scratch) (p : Pass) : List (Nat × Nat) :=
  let row := 64 * p.j + p.i
  rowSegs p.desc (hdlRow sp (psAHandle p.desc) (psAOffset p.desc)) row p.t ++
    rowScaleSegs p.desc (hdlRow sp (psAsHandle p.desc) (psAsOffset p.desc)) row p.t

/-- The accumulators of the next row of a pass after it has entered, and whether an INT32 addition saturated. -/
def rowSums (sp : Scratch) (r : MxArray) (p : Pass) (w : WTile) : Tbl Nat × Bool :=
  accRow p.desc (rowOperand sp p.desc (hdlRow sp (psAHandle p.desc) (psAOffset p.desc)) (hdlRow sp (psAsHandle p.desc) (psAsOffset p.desc))
    (64 * p.j + p.i) p.t) w p.i (accBegin (accSet r (p.j % 2)) p).vals (List.range w.n)

/-- The array after the next row of its first pass has entered. -/
def arrEntered (sp : Scratch) (r : MxArray) (p : Pass) (q : List Pass) (w : WTile) : MxArray :=
  arrAdvance (accPut r (p.j % 2) { accBegin (accSet r (p.j % 2)) p with vals := (rowSums sp r p w).1 }) p q

/-- The hearth after the next row of the first pass of array `a` has entered. -/
def rowEntered (x : Hearth) (a : Nat) (p : Pass) (q : List Pass) (w : WTile) : Hearth :=
  let x1 := arrPut x a (arrEntered x.spd (arr x a) p q w)
  if (rowSums x.spd (arr x a) p w).2 then setSat x1 p.own a else x1

section
variable (x : Hearth) (a : Nat) (p : Pass) (q : List Pass) (w : WTile)

theorem rowEntered_mems : (rowEntered x a p q w).spd = x.spd ∧ (rowEntered x a p q w).vec = x.vec := by
  unfold rowEntered
  dsimp only
  split
  · exact ⟨arrPut_spd _ _ _, arrPut_vec _ _ _⟩
  · exact ⟨arrPut_spd _ _ _, arrPut_vec _ _ _⟩

theorem arr_rowEntered (b : Nat) : arr (rowEntered x a p q w) b = arr (arrPut x a (arrEntered x.spd (arr x a) p q w)) b := by
  unfold rowEntered
  dsimp only
  split <;> rfl

/-- A row whose addition saturates sets the flag of its task (R92). -/
theorem rowEntered_cur {t : TaskRun} (ht : x.cur = some t) (hown : t.id = p.own) (hsat : (rowSums x.spd (arr x a) p w).2 = true) :
    (rowEntered x a p q w).cur = some { t with sat := t.sat ||| (1 <<< a) } := by
  simp [rowEntered, hsat, setSat, ht, hown]

end

section
variable {s : State} {h a : Nat} {x : Hearth} {p : Pass} {q : List Pass} {w : WTile}

/-- A row whose operand is FULL enters (R85, R87). -/
theorem rowEnter_enters (hi3 : injKind s 3 h = none) (hi1 : injKind s 1 h = none) (hw : (arr x a).active = some w)
    (hfull : slotsFull x.spd (segKeys 1 (rowReads x.spd p)) = true) (hstale : ∀ g ∈ rowReads x.spd p, staleHit x 1 g.1 g.2 = none) :
    ∃ z, Marked x z ∧ rowEnter (hput s h x) h a p q =
      bump (hput s h (rowEntered z a p q w)) (bit (rd s (R.mxaCtrl h)) 2) (R.mxaValidRowsA h a) 1 := by
  obtain ⟨z, hz, hread⟩ := portRead_marks p.own (1 + a) 1 (s := s) (h := h) hi3 hstale
  refine ⟨z, hz, ?_⟩
  have harr : arr z a = arr x a := by rw [hz]; rfl
  have hspd : z.spd = x.spd := by rw [hz]
  simp only [rowReads] at hfull hread
  unfold rowEnter
  simp only [hget_hput_same, hfull, hread, Bool.not_true, Bool.false_eq_true, if_false, injKind_hput, hi1, reduceCtorEq, harr, hw, arrMod, hmod,
    hput_hput, mxaBump, rowEntered, hspd, ← apply_ite (hput s h), rd_hput]
  rfl

/-- A row that is ready, and whose mask bit lets it, enters in its core cycle (R87, R88). -/
theorem rowEntry_enters (hi3 : injKind s 3 h = none) (hi1 : injKind s 1 h = none) (hx : hget s h = x) (hq : (arrTick (arr x a)).q = p :: q)
    (hb : bubble (arrTick (arr x a)) h a = none) (hw : (arrTick (arr x a)).active = some w)
    (hmask : psMaskEn p.desc = false ∨ maskBit x.spd p.desc (64 * p.j + p.i) = true)
    (hfull : slotsFull x.spd (segKeys 1 (maskSegs x.spd p.desc (64 * p.j + p.i) ++ rowReads x.spd p)) = true)
    (hstale : ∀ g ∈ maskSegs x.spd p.desc (64 * p.j + p.i) ++ rowReads x.spd p, staleHit x 1 g.1 g.2 = none) :
    ∃ z, Marked (arrCycled x a) z ∧ rowEntry s h a =
      bump (bump (hput s h (rowEntered z a p q w)) (!ldEnds x.mx a || bit (rd s (R.mxaCtrl h)) 2) (R.mxaTileLoadsA h a) 1)
        (bit (rd s (R.mxaCtrl h)) 2) (R.mxaValidRowsA h a) 1 := by
  obtain ⟨-, hctrl, hinj⟩ := tileLoads_addr h a
  obtain ⟨hfm, hfr⟩ : slotsFull x.spd (segKeys 1 (maskSegs x.spd p.desc (64 * p.j + p.i))) = true ∧
      slotsFull x.spd (segKeys 1 (rowReads x.spd p)) = true := by
    simpa [slotsFull, segKeys] using hfull
  set s1 := bump s (!ldEnds x.mx a || bit (rd s (R.mxaCtrl h)) 2) (R.mxaTileLoadsA h a) 1 with hs1
  have hinj1 : ∀ b, injKind s1 b h = injKind s b h := fun b => by simp only [injKind, hs1, rd_bump_other _ _ hinj]
  have hctrl1 : rd s1 (R.mxaCtrl h) = rd s (R.mxaCtrl h) := rd_bump_other _ _ hctrl _ _
  have hcycle : arrCycle s h a = hput s1 h (arrCycled x a) := by rw [arrCycle_eq, hx, hs1, hput_bump]
  have hst : ∀ g ∈ maskSegs x.spd p.desc (64 * p.j + p.i) ++ rowReads x.spd p, staleHit (arrCycled x a) 1 g.1 g.2 = none := fun g hg =>
    (staleHit_congr (arrCycled_watch x a) _ _ _).trans (hstale g hg)
  obtain ⟨y, hy, hread⟩ := portRead_marks p.own (1 + a) 1 (s := s1) (h := h) ((hinj1 3).trans hi3)
    (fun g hg => hst g (List.mem_append_left _ hg))
  have hyarr : arr y a = arrTick (arr x a) := by rw [hy]; exact arr_arrCycled_same x a
  have hyspd : y.spd = x.spd := by rw [hy]; exact arrCycled_spd x a
  have hywatch : y.watch = (arrCycled x a).watch := by rw [hy]
  obtain ⟨z, hz, hrow⟩ := rowEnter_enters (s := s1) (h := h) (x := y) (a := a) (p := p) (q := q) (w := w) ((hinj1 3).trans hi3)
    ((hinj1 1).trans hi1) (hyarr ▸ hw) (hyspd ▸ hfr)
    (fun g hg => (staleHit_congr hywatch _ _ _).trans (hst g (List.mem_append_right _ (hyspd ▸ hg))))
  refine ⟨z, hy.trans hz, ?_⟩
  have hbit : (psMaskEn p.desc && !maskBit x.spd p.desc (64 * p.j + p.i)) = false := by rcases hmask with h | h <;> simp [h]
  unfold rowEntry
  simp only [hcycle, hget_hput_same, arr_arrCycled_same, arrCycled_spd, hb, hq, hfm, hread, hbit, Bool.not_true, Bool.false_eq_true, if_false,
    hrow, hctrl1]
  rw [hs1, hput_bump]

end

/-- Settles O3: a ready row enters (`rowEntry_enters`), and a cycle with a cause for a bubble is counted (`rowEntry_bubble`); both are a core
cycle of the array that moves one of its counters (`arrayCycle_counts`). The model's own `rowsEnter` writes rows of a scratchpad. -/
theorem RowEntry.rowsEnter : Obligations.RowsEnter := by
  unfold Obligations.RowsEnter
  refine ⟨?_, fun s h a c hh ha hc hb hf => rowEntry_bubble_completes hh ha hc hb hf⟩
  intro s h a p q w hh ha hc x r d row b bs segs hq hb hw hmask hfull hi3 hi1 hstale v v0 y
  have hsegs : segs = maskSegs x.spd d row ++ rowReads x.spd p := List.append_assoc _ _ _
  rw [hsegs] at hfull hstale
  obtain ⟨z, hz, hrow⟩ := rowEntry_enters (s := quiet s) (h := h) (a := a) (x := x) hi3 hi1 rfl hq hb hw hmask hfull hstale
  obtain ⟨u, hu, honly, hx, hcnt⟩ := arrayCycle_counts (f := fun t => rowEntry t h a) hh ha hc List.mem_cons_self hrow
  have hzarr : ∀ k, arr z k = arr (arrCycled x a) k := fun k => by rw [hz]; rfl
  have hzspd : z.spd = x.spd := by rw [hz]; exact arrCycled_spd x a
  have hzvec : z.vec = x.vec := by rw [hz]; exact arrCycled_vec x a
  have hzcur : z.cur = x.cur := by rw [hz]; exact arrCycled_cur x a
  obtain ⟨hspd, hvec⟩ := rowEntered_mems z a p q w
  refine ⟨u, hu, honly, ?_, ?_, ?_, ?_, fun hf => (hcnt hf).1, fun t ht hown hsat => ?_⟩
  · rw [hx, hspd, hzspd]
  · rw [hx, hvec, hzvec]
  · rw [hx, arr_rowEntered, arr_arrPut_same, hzarr, arr_arrCycled_same, hzspd]
    rfl
  · rw [hx, arr_rowEntered, arr_arrPut_other _ ha (by omega) (by omega), hzarr, arr_arrCycled_other _ ha (by omega) (by omega)]
  · rw [hx]
    exact rowEntered_cur z a p q w (hzcur.trans ht) hown (by rw [hzarr, arr_arrCycled_same, hzspd]; exact hsat)

end Sys2Proof.Machine

/-!
SUPPORT and proofs for the operations of the matrix arrays (chapter 03): the issue of a pass (O2), and tile loads, swaps, preloads, drains, finished
tiles and array enables (O4).
-/

namespace Sys2Proof.Machine

/-! MATMUL (R84, R86). -/

theorem schedTake_head {s : State} {h : Nat} {ops : List Nat} {t : TaskRun} {e : SchedEnt} {r : List SchedEnt} (ht : (hget s h).cur = some t)
    (hs : t.sched = e :: r) (hop : bits e.desc 0 8 ∈ ops) :
    schedTake s h ops = some (t, e.desc, hmod s h (fun x => { x with cur := some { t with sched := r } })) := by
  simp [schedTake, ht, hs, hop]

/-- The hearth after pass `d` has entered the queue of its array (R84, R86). -/
def passQueued (x : Hearth) (own seq d : Nat) : Hearth :=
  let a := psArray d
  arrPut { x with
      spd := slotsMod x.spd (psOKeys x.spd d ++ psLKeys x.spd d) (slotReserve own)
      vec := if psTqPush d then { x.vec with resv := x.vec.resv ++ [⟨own, a, seq, psTiles d⟩] } else x.vec } a
    { arr x a with q := (arr x a).q ++ [⟨d, own, seq, 0, 0, 0, 0, false, 0, 0, 0⟩] }

/-- The checks of a pass's issue (R84, R86). -/
structure PassFits (x : Hearth) (own d : Nat) : Prop where
  room : (arr x (psArray d)).q.length < 2
  bound : psBoundOk x.spd own d = true
  outs : slotsFree x.spd (psOKeys x.spd d) = true
  loads : ∀ k ∈ psLKeys x.spd d, (slotGet x.spd k).full = true ∧ (slotGet x.spd k).rsv = false
  tq : psTqPush d = true → tqUsed x.vec + psTiles d ≤ 8

theorem passIssue_fits {s : State} {h own d : Nat} (seq : Nat) (hf : PassFits (hget s h) own d) :
    let x := hget s h
    let a := psArray d
    passIssue s h own seq d = hput s h (if (arr x a).shadow.isNone && x.mx.ldBusy ≠ some a then ldRequest (passQueued x own seq d) a
      else passQueued x own seq d) := by
  obtain ⟨hroom, hbound, houts, hloads, htq⟩ := hf
  have hloads' : (psLKeys (hget s h).spd d).all (fun k => (slotGet (hget s h).spd k).full && !(slotGet (hget s h).spd k).rsv) = true :=
    List.all_eq_true.2 fun k hk => by simp [hloads k hk]
  have htq' : (psTqPush d && 8 < tqUsed (hget s h).vec + psTiles d) = false := by
    cases hp : psTqPush d
    · rfl
    · simpa using htq hp
  simp only [passIssue, Nat.not_le.2 hroom, hbound, houts, hloads', htq', Bool.not_true, Bool.false_eq_true, if_false]
  rfl

/-- Settles O2: the entry is taken from the schedule (`schedTake_head`), and its pass, which meets every check, is queued (`passIssue_fits`). -/
theorem matmulEntersQueue : Obligations.MatmulEntersQueue := by
  unfold Obligations.MatmulEntersQueue
  intro s h t e r hh hc hcur hsched hop x d a hroom hbound houts hloads htq
  have htake := schedTake_head (s := quiet s) (h := h) (ops := [1]) hcur hsched (by simp [hop])
  have hissue := passIssue_fits (s := hput (quiet s) h { x with cur := some { t with sched := r, passSeq := (t.passSeq + 1) % 65536 } })
    (h := h) (own := t.id) (d := d) t.passSeq (by rw [hget_hput_same]; exact ⟨hroom, hbound, houts, hloads, htq⟩)
  refine act_hput (f := fun u => passRow u h) hc hh ?_
  simp only [hget_hput_same, hput_hput] at hissue
  simp only [passRow, htake, hmod, hget_hput_same, hput_hput, Option.map_some]
  exact hissue

/-! One counter of a hearth's command. -/

/-- A command of one hearth that gives it a new value and advances one counter. -/
theorem act_hput_bump {c : Prop} [Decidable c] {f : State → State} {s : State} {h : Nat} {x : Hearth} {frz : Bool} {r : Reg} {n : Nat}
    (hc : Calm s) (hg : c) (e : f (quiet s) = bump (hput (quiet s) h x) frz r n) :
    ∃ u, act (only c f) s = .next u ∧ HearthOnly s u h [r] ∧ hget u h = x ∧
      (r.addr ∉ noteRegs → rd u r = if frz then rd s r else (rd s r + n) % 2 ^ 48) := by
  obtain ⟨u, hu, honly, hx, hreg⟩ := act_hearthRegs (h := h) (x := x) [r] hc hg e
    (by rw [State.mk.injEq]; simp [quiet_eq hc.free])
    (fun k hk => by rw [rd_bump_other _ _ (by simpa using hk)]; rfl)
  exact ⟨u, hu, honly, hx, fun hr => by rw [hreg r hr, rd_bump_same]; rfl⟩

theorem HearthOnly.mono {s t : State} {h : Nat} {rs rs' : List Reg} (ho : HearthOnly s t h rs) (hs : rs ⊆ rs') : HearthOnly s t h rs' :=
  ⟨⟨fun r hr hn => ho.regs r (fun hm => hr (List.map_subset _ hs hm)) hn, ho.parts⟩, ho.eq, ho.other⟩

/-! The loader (R71, R72). -/

/-- The loader once its load has ended. -/
def ldFreed (mx : Matrix) : Matrix := if mx.ldBusy.isNone then mx else { mx with ldBusy := none, ldLeft := 0 }

theorem ldFreed_of_none {mx : Matrix} (h : mx.ldBusy = none) : ldFreed mx = mx := by simp [ldFreed, h]
theorem ldFreed_of_some {mx : Matrix} {b : Nat} (h : mx.ldBusy = some b) : ldFreed mx = { mx with ldBusy := none, ldLeft := 0 } := by
  simp [ldFreed, h]

theorem ldFreed_eq (mx : Matrix) : ldFreed mx = { mx with ldBusy := none, ldLeft := (ldFreed mx).ldLeft } := by
  cases h : mx.ldBusy with
  | none => rw [ldFreed_of_none h, ← h]
  | some b => rw [ldFreed_of_some h]

/-- The counter in which the end of the present load is counted: that of the array that the loader names. -/
def loadCounter (x : Hearth) (h : Nat) : Reg := R.mxaTileLoadsA h (x.mx.ldBusy.getD 0)

section
variable (s : State) (h : Nat)

theorem hget_ldFinish : hget (ldFinish s h) h = { hget s h with mx := ldFreed (hget s h).mx } := by
  unfold ldFinish
  cases hb : (hget s h).mx.ldBusy with
  | none => simp only [ldFreed_of_none hb]
  | some b => simp only [mxaBump, hget_bump, hget_hmod_same, ldFreed_of_some hb]

/-- The end of a load is counted once, and a loader with no load counts nothing. -/
theorem hput_ldFinish (y : Hearth) : hput (ldFinish s h) h y =
    bump (hput s h y) ((hget s h).mx.ldBusy.isNone || bit (rd s (R.mxaCtrl h)) 2) (loadCounter (hget s h) h) 1 := by
  unfold ldFinish loadCounter
  cases hb : (hget s h).mx.ldBusy with
  | none => simp [bump]
  | some b => simp only [mxaBump, hput_bump, hmod, hput_hput, rd_hput, Option.isNone_some, Bool.false_or, Option.getD_some]

theorem injKind_ldFinish (b i : Nat) : injKind (ldFinish s h) b i = injKind s b i := by
  unfold ldFinish
  split
  · rfl
  · simp only [injKind, mxaBump, rd_bump_other _ _ (tileLoads_addr h _).2.2, rd_hmod]

end

/-- A read with no injection armed and no stale source, followed by a change of the hearth. -/
theorem portRead_hmod {s : State} {h own port m : Nat} {segs : List (Nat × Nat)} (hi : injKind s 3 h = none)
    (hs : ∀ g ∈ segs, staleHit (hget s h) m g.1 g.2 = none) :
    ∃ z t, Marked (hget s h) z ∧ portRead s h own port m segs = (t, true) ∧ ∀ f, hmod t h f = hput s h (f z) := by
  obtain ⟨hok, ⟨-, hread⟩ | hread⟩ := portRead_ok (own := own) (port := port) hi segs hs
  · exact ⟨hget s h, s, rfl, Prod.ext hread hok, fun _ => rfl⟩
  · refine ⟨_, hput s h _, marked_rowsReads port m segs _, Prod.ext hread hok, fun f => ?_⟩
    rw [hmod, hget_hput_same, hput_hput]

theorem ldRequest_eq (x : Hearth) (a : Nat) : ldRequest x a = { x with mx := { x.mx with ldReq := (ldRequest x a).mx.ldReq } } := by
  unfold ldRequest
  split <;> rfl

/-! TILE_LOAD (R71, R72). -/

/-- The row ranges that the load of a pass's next tile reads (R75, R76). -/
def tileReads (sp : Scratch) (p : Pass) : List (Nat × Nat) :=
  tileSegs p.desc (hdlRow sp (psWHandle p.desc) (psWOffset p.desc)) p.lt ++
    tileScaleSegs p.desc (hdlRow sp (psWsHandle p.desc) (psWsOffset p.desc)) p.lt

/-- The next tile of a pass (R74–R76). -/
def loadedTile (sp : Scratch) (p : Pass) : WTile :=
  let m := psTileSrc p.desc
  ⟨p.own, p.seq, p.lj, p.lt, psWFmt p.desc, psN p.desc, psKRows p.desc p.lt,
    tileCells sp m p.desc (hdlRow sp (psWHandle p.desc) (psWOffset p.desc)) p.lt,
    tileScales sp m p.desc (hdlRow sp (psWsHandle p.desc) (psWsOffset p.desc)) p.lt⟩

/-- The hearth `x` once array `a` is loaded with tile `w`, the next of pass `p`, which stands at `qi` of the array's queue. -/
def tileLoaded (x : Hearth) (a : Nat) (rest : List Nat) (qi : Nat) (p : Pass) (w : WTile) : Hearth :=
  let nx := nextTile p.desc p.lj p.lt
  let x1 := arrPut x a { arr x a with shadow := some w, q := lset (arr x a).q qi { p with lj := nx.1, lt := nx.2 } }
  { x1 with mx := { x1.mx with ldReq := rest, ldBusy := some a, ldLeft := 32 } }

theorem arr_tileLoaded (x : Hearth) (a : Nat) (rest : List Nat) (qi : Nat) (p : Pass) (w : WTile) :
    (arr (tileLoaded x a rest qi p w) a).shadow = some w ∧ (arr (tileLoaded x a rest qi p w) a).active = (arr x a).active := by
  unfold tileLoaded arr arrPut
  dsimp only
  split <;> exact ⟨rfl, rfl⟩

theorem tileLoaded_mems (x : Hearth) (a : Nat) (rest : List Nat) (qi : Nat) (p : Pass) (w : WTile) :
    (tileLoaded x a rest qi p w).spd = x.spd ∧ (tileLoaded x a rest qi p w).vec = x.vec := ⟨arrPut_spd _ _ _, arrPut_vec _ _ _⟩

section
variable {s : State} {h a qi : Nat} {rest : List Nat} {p : Pass}

theorem tileLoad_eq (hreq : (hget s h).mx.ldReq = a :: rest) (hn : ldNext (arr (hget s h) a).q = some (qi, p))
    (hfull : slotsFull (hget s h).spd (segKeys (psTileSrc p.desc) (tileReads (hget s h).spd p)) = true) (hi : injKind s 3 h = none)
    (hstale : ∀ g ∈ tileReads (hget s h).spd p, staleHit (hget s h) (psTileSrc p.desc) g.1 g.2 = none) :
    ∃ z, Marked { hget s h with mx := ldFreed (hget s h).mx } z ∧ tileLoad s h =
      bump (hput s h (tileLoaded z a rest qi p (loadedTile (hget s h).spd p)))
        ((hget s h).mx.ldBusy.isNone || bit (rd s (R.mxaCtrl h)) 2) (loadCounter (hget s h) h) 1 := by
  set x := hget s h with hx
  set y : Hearth := { x with mx := ldFreed x.mx } with hy
  have hget0 : hget (ldFinish s h) h = y := hget_ldFinish s h
  have hmx : y.mx = { x.mx with ldBusy := none, ldLeft := (ldFreed x.mx).ldLeft } := ldFreed_eq x.mx
  have hreq0 : y.mx.ldReq = a :: rest := by rw [hmx]; exact hreq
  have hnext0 : ldNext (arr y a).q = some (qi, p) := by rw [← hn, arr, arr, hmx]
  obtain ⟨z, t, hz, hread, hthen⟩ := portRead_hmod (s := ldFinish s h) (h := h) (own := p.own) (port := 0) (m := psTileSrc p.desc)
    (segs := tileReads y.spd p) ((injKind_ldFinish s h 3 h).trans hi) (by rw [hget0]; exact hstale)
  rw [hget0] at hz
  have hfull0 : slotsFull y.spd (segKeys (psTileSrc p.desc) (tileSegs p.desc (hdlRow y.spd (psWHandle p.desc) (psWOffset p.desc)) p.lt) ++
      segKeys (psTileSrc p.desc) (tileScaleSegs p.desc (hdlRow y.spd (psWsHandle p.desc) (psWsOffset p.desc)) p.lt)) = true := by
    rw [← hfull, tileReads, segKeys, segKeys, segKeys, List.flatMap_append]
  refine ⟨z, hz, ?_⟩
  rw [← hput_ldFinish, ← hthen (fun z => tileLoaded z a rest qi p (loadedTile (hget s h).spd p))]
  simp only [tileReads] at hread
  unfold tileLoad
  simp only [hget0, hreq0, hnext0, hfull0, hread, Bool.not_true, Bool.false_eq_true, if_false]
  rfl

/-- A load of a waiting array: it begins, and the load before it ends, counted under the array that the loader names. -/
theorem tileLoad_completes (hh : h < 256) (hc : Calm s) (hreq : (hget s h).mx.ldReq = a :: rest)
    (hn : ldNext (arr (hget s h) a).q = some (qi, p))
    (hfull : slotsFull (hget s h).spd (segKeys (psTileSrc p.desc) (tileReads (hget s h).spd p)) = true) (hi : injKind s 3 h = none)
    (hstale : ∀ g ∈ tileReads (hget s h).spd p, staleHit (hget s h) (psTileSrc p.desc) g.1 g.2 = none) :
    Completes (.tileLoad h) s (fun u => HearthOnly s u h [loadCounter (hget s h) h] ∧ (hget u h).mx.ldReq = rest ∧ (hget u h).mx.ldBusy = some a ∧
      (hget u h).mx.ldLeft = 32 ∧ (arr (hget u h) a).shadow = some (loadedTile (hget s h).spd p) ∧
      (arr (hget u h) a).active = (arr (hget s h) a).active ∧ (hget u h).spd = (hget s h).spd ∧ (hget u h).vec = (hget s h).vec ∧
      ((hget s h).mx.ldBusy.isSome = true → bit (rd s (R.mxaCtrl h)) 2 = false →
        rd u (loadCounter (hget s h) h) = (rd s (loadCounter (hget s h) h) + 1) % 2 ^ 48)) := by
  obtain ⟨z, hz, e⟩ := tileLoad_eq (s := quiet s) (h := h) hreq hn hfull hi hstale
  obtain ⟨u, hu, honly, hx, hcount⟩ := act_hput_bump (f := fun t => tileLoad t h) hc hh e
  obtain ⟨hshadow, hactive⟩ := arr_tileLoaded z a rest qi p (loadedTile (hget s h).spd p)
  obtain ⟨hspd, hvec⟩ := tileLoaded_mems z a rest qi p (loadedTile (hget s h).spd p)
  have hmx : z.mx = ldFreed (hget s h).mx := by rw [hz]; rfl
  have harr : arr z a = arr (hget s h) a := by rw [arr, arr, hmx, ldFreed_eq]
  refine ⟨u, hu, honly, ?_, ?_, ?_, ?_, ?_, ?_, ?_, fun hb hf => ?_⟩
  · rw [hx]; rfl
  · rw [hx]; rfl
  · rw [hx]; rfl
  · rw [hx]; exact hshadow
  · rw [hx]; exact hactive.trans (congrArg MxArray.active harr)
  · rw [hx]; exact hspd.trans (by rw [hz]; rfl)
  · rw [hx]; exact hvec.trans (by rw [hz]; rfl)
  · refine (hcount (tileLoads_addr _ _).1).trans ?_
    simp [Option.isNone_eq_false_iff.2 hb, hf]

end

/-! O4 fails: nothing in its hypotheses says that the loader names an array of the hearth. -/

/-- A pass of task 5, just queued: one FP16 row against one K-row of 64 columns, from handle 1 in weight memory (R77). -/
def oneRowPass : Pass := ⟨1 + 2 ^ 9 * 1 + 2 ^ 13 * 1 + 2 ^ 32 * 1 + 2 ^ 45 * 1 + 2 ^ 54 * 1 + 2 ^ 96 * 1, 5, 0, 0, 0, 0, 0, false, 0, 0, 0⟩

/-- A device at rest but for hearth 0: array 0 waits for the first tile of its pass, whose slot is FULL, and the loader is at work for an array 2, which
the hearth does not have. The model's loader only ever takes an array that `ldRequest` has queued for a pass or a SWAP, so no command leads there;
but `Calm` and the clause's hypotheses let it in. -/
def strayLoader : State :=
  { State.reset with hearths := [(0, { Hearth.fresh with
      spd := { Scratch.reset with handles := [(1, 3 + 16 + 2 ^ 24 * 16 + 2 ^ 40 * 5)], slots := [(0, ⟨true, false, true, 0⟩)] }
      mx := { Matrix.reset with
        a0 := { MxArray.idle with q := [oneRowPass] }, ldReq := [0], ldBusy := some 2, ldLeft := 1 } })] }

theorem strayLoader_calm : Calm strayLoader :=
  ⟨rfl, rfl, rfl, rfl, rfl, rfl, rfl, rfl, rfl, fun _ => ⟨rfl, .inl rfl⟩⟩

/-- Refutes O4: TILE_LOAD ends the load of a loader that names an array 2 and counts it at offset 0x240 of the block (`tileLoad_completes`), which the
statement says keeps its value. -/
theorem not_arrayOperations : ¬ Obligations.ArrayOperations := by
  unfold Obligations.ArrayOperations
  rintro ⟨-, hload, -⟩
  obtain ⟨u, hu, honly, -⟩ := hload strayLoader 0 0 [] 0 oneRowPass (by decide) (by decide) strayLoader_calm rfl rfl (by decide +kernel)
    (by decide +kernel) (by decide +kernel)
  obtain ⟨t, ht, -, -, -, -, -, -, -, -, hcount⟩ := tileLoad_completes (s := strayLoader) (h := 0) (a := 0) (rest := []) (qi := 0)
    (p := oneRowPass) (by decide) strayLoader_calm rfl rfl (by decide +kernel) (by decide +kernel) (by decide +kernel)
  obtain rfl : u = t := Host.Outcome.next.inj (hu.symm.trans ht)
  have hkept : rd u (R.mxaTileLoadsA 0 2) = rd strayLoader (R.mxaTileLoadsA 0 2) := honly.regs _ (by decide) (by decide)
  have hcounted : rd u (R.mxaTileLoadsA 0 2) = (rd strayLoader (R.mxaTileLoadsA 0 2) + 1) % 2 ^ 48 := hcount rfl (by decide +kernel)
  have hzero : rd strayLoader (R.mxaTileLoadsA 0 2) = 0 := by decide +kernel
  rw [hkept, hzero] at hcounted
  exact absurd hcounted (by decide)

/-! What the array commands do (R71–R73, R81, R83, R95). These are the clauses of O4: six hold as they stand, and that of TILE_LOAD
(`tileLoad_completes`) where the loader is idle or names an array of the hearth. -/

/-- The counters that a TILE_LOAD may change, for a loader that is idle or names an array of the hearth. -/
theorem HearthOnly.loads {s u : State} {h : Nat} (ho : HearthOnly s u h [loadCounter (hget s h) h])
    (hb : ∀ b, (hget s h).mx.ldBusy = some b → b < 2) : HearthOnly s u h [R.mxaTileLoadsA h 0, R.mxaTileLoadsA h 1] := by
  refine ho.mono fun r hr => ?_
  obtain rfl := List.mem_singleton.1 hr
  unfold loadCounter
  cases hx : (hget s h).mx.ldBusy with
  | none => simp
  | some b =>
    obtain rfl | rfl : b = 0 ∨ b = 1 := by have := hb b hx; omega
    · simp
    · simp

section
variable {s : State} {h a : Nat}

/-- The hearth once array `a` has exchanged its sets for the block of its first pass (R72, R73). -/
def setsSwapped (x : Hearth) (a : Nat) (p : Pass) (q : List Pass) : Hearth :=
  let x1 := arrPut x a { arr x a with active := (arr x a).shadow, shadow := none, q := { p with sw := true } :: q }
  if (ldNext ({ p with sw := true } :: q)).isSome then ldRequest x1 a else x1

theorem arr_setsSwapped (x : Hearth) (a b : Nat) (p : Pass) (q : List Pass) : arr (setsSwapped x a p q) b =
    arr (arrPut x a { arr x a with active := (arr x a).shadow, shadow := none, q := { p with sw := true } :: q }) b := by
  unfold setsSwapped
  dsimp only
  split
  · rw [ldRequest_eq]; rfl
  · rfl

theorem setsSwapped_frame (x : Hearth) (a : Nat) (p : Pass) (q : List Pass) :
    (setsSwapped x a p q).spd = x.spd ∧ (setsSwapped x a p q).vec = x.vec ∧ (setsSwapped x a p q).mx.ldBusy = x.mx.ldBusy := by
  unfold setsSwapped
  dsimp only
  split
  · rw [ldRequest_eq]; simp
  · simp

theorem mxSwap_eq {p : Pass} {q : List Pass} (hq : (arr (hget s h) a).q = p :: q) (hsw : p.sw = false)
    (hfit : shadowFits (arr (hget s h) a) p = true) :
    ∃ y, y.mx.ldBusy ≠ some a ∧ (∀ b, arr y b = arr (hget s h) b) ∧ y.spd = (hget s h).spd ∧ y.vec = (hget s h).vec ∧
      mxSwap s h a =
        bump (hput s h (setsSwapped y a p q)) (!((hget s h).mx.ldBusy = some a) || bit (rd s (R.mxaCtrl h)) 2) (R.mxaTileLoadsA h a) 1 := by
  unfold mxSwap
  by_cases hb : (hget s h).mx.ldBusy = some a
  · refine ⟨{ hget s h with mx := ldFreed (hget s h).mx }, by rw [ldFreed_of_some hb]; simp, fun b => ?_, rfl, rfl, ?_⟩
    · rw [ldFreed_of_some hb]; rfl
    · simp only [hq, hsw, hfit, hb, Bool.not_true, Bool.or_self, Bool.false_eq_true, if_false, if_true, hmod, hget_ldFinish, hput_ldFinish,
        loadCounter, Option.isNone_some, Option.getD_some, decide_true]
      rfl
  · refine ⟨hget s h, hb, fun _ => rfl, rfl, rfl, ?_⟩
    simp only [hq, hsw, hfit, hb, Bool.not_true, Bool.or_self, Bool.false_eq_true, if_false, hmod, decide_false, Bool.not_false, Bool.true_or]
    rfl

/-- A loaded tile that fits the first pass becomes the active set; a load still under way for the array has ended and is counted (R72, R73). -/
theorem swap_completes {p : Pass} {q : List Pass} (hh : h < 256) (ha : a < 2) (hc : Calm s) (hq : (arr (hget s h) a).q = p :: q)
    (hsw : p.sw = false) (hfit : shadowFits (arr (hget s h) a) p = true) :
    Completes (.swap h a) s (fun u => HearthOnly s u h [R.mxaTileLoadsA h a] ∧ (hget u h).mx.ldBusy ≠ some a ∧
      (arr (hget u h) a).active = (arr (hget s h) a).shadow ∧ (arr (hget u h) a).shadow = none ∧
      (arr (hget u h) a).q = { p with sw := true } :: q ∧ arr (hget u h) (1 - a) = arr (hget s h) (1 - a) ∧
      (hget u h).spd = (hget s h).spd ∧ (hget u h).vec = (hget s h).vec) := by
  obtain ⟨y, hbusy, harr, hspd, hvec, e⟩ := mxSwap_eq (s := quiet s) hq hsw hfit
  obtain ⟨u, hu, honly, hx, -⟩ := act_hput_bump (f := fun t => mxSwap t h a) hc (And.intro hh ha) e
  obtain ⟨fspd, fvec, fbusy⟩ := setsSwapped_frame y a p q
  refine ⟨u, hu, honly, ?_, ?_, ?_, ?_, ?_, ?_, ?_⟩
  · rwa [hx, fbusy]
  · rw [hx, arr_setsSwapped, arr_arrPut_same, harr]; rfl
  · rw [hx, arr_setsSwapped, arr_arrPut_same]
  · rw [hx, arr_setsSwapped, arr_arrPut_same]
  · rw [hx, arr_setsSwapped, arr_arrPut_other _ ha (by omega) (by omega), harr]; rfl
  · rw [hx, fspd, hspd]; rfl
  · rw [hx, fvec, hvec]; rfl

/-! Accumulator sets (R80). -/

@[simp] theorem accSet_accPut_same (r : MxArray) (i : Nat) (v : AccSet) : accSet (accPut r i v) i = v := by
  unfold accSet accPut; split <;> simp_all
@[simp] theorem accPut_q (r : MxArray) (i : Nat) (v : AccSet) : (accPut r i v).q = r.q := by unfold accPut; split <;> rfl
@[simp] theorem accPut_outs (r : MxArray) (i : Nat) (v : AccSet) : (accPut r i v).outs = r.outs := by unfold accPut; split <;> rfl

/-- A preload puts 64 rows of L into the free set of its output tile (R81, R82). -/
theorem preloadStart_completes {qi : Nat} {p : Pass} (hh : h < 256) (ha : a < 2) (hc : Calm s)
    (hn : preNext (arr (hget s h) a).q = some (qi, p)) (hfree : (accSet (arr (hget s h) a) (p.pre % 2)).st = 0)
    (h0 : (arr (hget s h) a).set0.st ≠ 1) (h1 : (arr (hget s h) a).set1.st ≠ 1) (hset : setAwaited (arr (hget s h) a).q qi (p.pre % 2) = false)
    (hi : injKind s 3 h = none)
    (hstale : staleHit (hget s h) 2 (hdlRow (hget s h).spd (psLHandle p.desc) (psLOffset p.desc + p.pre * 4 * psN p.desc)) (4 * psN p.desc) = none) :
    Completes (.preloadStart h a) s (fun u => HearthOnly s u h [] ∧
      accSet (arr (hget u h) a) (p.pre % 2) = ⟨1, p.own, p.seq, p.pre, loadTile (hget s h).spd p.desc p.pre, 0⟩ ∧
      (arr (hget u h) a).q = lset (arr (hget s h) a).q qi { p with pre := p.pre + 1 } ∧ (hget u h).spd = (hget s h).spd) := by
  obtain ⟨z, t, hz, hread, hthen⟩ := portRead_hmod (s := quiet s) (h := h) (own := p.own) (port := 5) (m := 2)
    (segs := [(hdlRow (hget s h).spd (psLHandle p.desc) (psLOffset p.desc + p.pre * 4 * psN p.desc), 4 * psN p.desc)]) hi (by simpa using hstale)
  set r : MxArray := accPut (arr z a) (p.pre % 2) ⟨1, p.own, p.seq, p.pre, loadTile (hget s h).spd p.desc p.pre, 0⟩ with hr
  set w : MxArray := { r with q := lset (arr z a).q qi { p with pre := p.pre + 1 } } with hw
  have harr : arr z a = arr (hget s h) a := by rw [hz]; rfl
  have e : preloadStart (quiet s) h a = hput (quiet s) h (arrPut z a w) := by
    unfold preloadStart
    simp only [hget_quiet, hn, hfree, h0, h1, hset, hread, ne_eq, not_true_eq_false, Bool.false_eq_true, or_self, if_false, arrMod, hthen]
    rfl
  obtain ⟨u, hu, honly, hx⟩ := act_hput (f := fun t => preloadStart t h a) hc (And.intro hh ha) e
  refine ⟨u, hu, honly, ?_, ?_, ?_⟩
  · rw [hx, arr_arrPut_same]
    exact accSet_accPut_same _ _ _
  · rw [hx, arr_arrPut_same, hw, harr]
  · rw [hx, arrPut_spd, hz]; rfl

/-- A preload ends with its set ready (R81). -/
theorem preloadDone_completes {i : Nat} (hh : h < 256) (ha : a < 2) (hc : Calm s) (hst : (accSet (arr (hget s h) a) i).st = 1) :
    Completes (.preloadDone h a) s (fun u => HearthOnly s u h [] ∧
      accSet (arr (hget u h) a) i = { accSet (arr (hget s h) a) i with st := 2 } ∧ (arr (hget u h) a).q = (arr (hget s h) a).q ∧
      (hget u h).spd = (hget s h).spd) := by
  obtain ⟨u, hu, honly, hx⟩ := act_hput (f := fun t => preloadDone t h a) hc (And.intro hh ha) rfl
  refine ⟨u, hu, honly, ?_, ?_, ?_⟩
  · rw [hx, arr_arrPut_same]
    unfold accSet at hst ⊢
    split at hst
    case isTrue hi => simp [hi, hst]
    case isFalse hi => simp [hi, hst]
  · rw [hx, arr_arrPut_same]; rfl
  · rw [hx, arrPut_spd]; rfl

section
variable {i : Nat} {o : OutTile}

/-- The rows that the drain of an output tile sends to the write buffers (R81, R82). -/
def drainOf (x : Hearth) (a : Nat) (o : OutTile) : List (List WbRow) :=
  drainRows (hdlRow x.spd (psOHandle o.desc) (psOOffset o.desc + o.j * 4 * psN o.desc)) (psN o.desc) (accSet (arr x a) o.set).vals

/-- A drain that the write buffers hold marks its output tile; it may free the other set, whose drain has then ended. -/
theorem accDrain_eq (hn : drainNext (arr (hget s h) a).outs = some (i, o)) (hi : injKind s 1 h = none)
    (hw : (wbStream (hget s h).spd (drainOf (hget s h) a o)).2 = none) :
    ∃ r, r.outs = lset (arr (hget s h) a).outs i { o with drain := true } ∧ r.q = (arr (hget s h) a).q ∧
      accDrain s h a = hput s h (arrPut { hget s h with spd := (wbStream (hget s h).spd (drainOf (hget s h) a o)).1 } a r) := by
  set sp := (wbStream (hget s h).spd (drainOf (hget s h) a o)).1 with hsp
  have hwb : wbStream (hget s h).spd (drainOf (hget s h) a o) = (sp, none) := Prod.ext rfl hw
  unfold drainOf at hwb
  unfold accDrain
  simp only [hn, hi, hwb, reduceCtorEq, if_false, hmod]
  refine ⟨_, ?_, ?_, rfl⟩
  · split
    · exact accPut_outs _ _ _
    · rfl
  · split
    · exact accPut_q _ _ _
    · rfl

/-- A drain sends its tile's rows through the write buffers, and its output tile is marked (R81, R82). -/
theorem accDrain_completes (hh : h < 256) (ha : a < 2) (hc : Calm s) (hn : drainNext (arr (hget s h) a).outs = some (i, o))
    (hi : injKind s 1 h = none) (hw : (wbStream (hget s h).spd (drainOf (hget s h) a o)).2 = none) :
    Completes (.accDrain h a) s (fun u => HearthOnly s u h [] ∧ (hget u h).spd = (wbStream (hget s h).spd (drainOf (hget s h) a o)).1 ∧
      (arr (hget u h) a).outs = lset (arr (hget s h) a).outs i { o with drain := true } ∧ (arr (hget u h) a).q = (arr (hget s h) a).q) := by
  obtain ⟨r, houts, hq, e⟩ := accDrain_eq (s := quiet s) hn hi hw
  obtain ⟨u, hu, honly, hx⟩ := act_hput (f := fun t => accDrain t h a) hc (And.intro hh ha) e
  exact ⟨u, hu, honly, by rw [hx, arrPut_spd]; rfl, by rw [hx, arr_arrPut_same, houts]; rfl, by rw [hx, arr_arrPut_same, hq]; rfl⟩

/-- The slots of an output tile (R82, R83). -/
def outTileKeys (sp : Scratch) (o : OutTile) : List Nat :=
  slotKeys 2 (hdlRow sp (psOHandle o.desc) (psOOffset o.desc + o.j * 4 * psN o.desc)) (4 * psN o.desc)

/-- The array without its oldest finished output tile, whose set is free if it still drains the tile (R83). -/
def outDropped (r : MxArray) (o : OutTile) (rest : List OutTile) : MxArray :=
  let v := accSet r o.set
  if v.st = 3 ∧ v.serves o.own o.seq o.j then accPut { r with outs := rest } o.set .free else { r with outs := rest }

theorem outDropped_outs (r : MxArray) (o : OutTile) (rest : List OutTile) : (outDropped r o rest).outs = rest := by
  unfold outDropped
  dsimp only
  split
  · exact accPut_outs _ _ _
  · rfl

theorem outDropped_freed {r : MxArray} {o : OutTile} (rest : List OutTile) (hst : (accSet r o.set).st = 3)
    (hserves : (accSet r o.set).serves o.own o.seq o.j = true) : accSet (outDropped r o rest) o.set = .free := by
  simp [outDropped, hst, hserves]

theorem outputTileFull_eq {rest : List OutTile} (ho : (arr (hget s h) a).outs = o :: rest) (hd : o.drain = true)
    (htq : psTqPush o.desc = false) (hlast : o.j + 1 ≠ psTiles o.desc) :
    outputTileFull s h a = hput s h (arrPut { hget s h with spd := slotsMod (hget s h).spd (outTileKeys (hget s h).spd o) slotFill } a
      (outDropped (arr (hget s h) a) o rest)) := by
  unfold outputTileFull
  simp only [ho, hd, htq, hlast, Bool.not_true, Bool.false_eq_true, if_false]
  rfl

/-- The last write of a draining tile, not the last of its pass and without TQ_PUSH: the tile's slots become FULL, and the set that drained it is free
(R83). -/
theorem outputTileFull_completes {rest : List OutTile} (hh : h < 256) (ha : a < 2) (hc : Calm s)
    (ho : (arr (hget s h) a).outs = o :: rest) (hd : o.drain = true) (htq : psTqPush o.desc = false) (hlast : o.j + 1 ≠ psTiles o.desc) :
    Completes (.outputTileFull h a) s (fun u => HearthOnly s u h [] ∧ (arr (hget u h) a).outs = rest ∧
      (hget u h).spd = slotsMod (hget s h).spd (outTileKeys (hget s h).spd o) slotFill ∧ (hget u h).vec = (hget s h).vec ∧
      ((accSet (arr (hget s h) a) o.set).st = 3 → (accSet (arr (hget s h) a) o.set).serves o.own o.seq o.j = true →
        accSet (arr (hget u h) a) o.set = .free)) := by
  obtain ⟨u, hu, honly, hx⟩ := act_hput (f := fun t => outputTileFull t h a) hc (And.intro hh ha)
    (outputTileFull_eq (s := quiet s) ho hd htq hlast)
  refine ⟨u, hu, honly, ?_, ?_, ?_, fun hst hserves => ?_⟩
  · rw [hx, arr_arrPut_same, outDropped_outs]
  · rw [hx, arrPut_spd]; rfl
  · rw [hx, arrPut_vec]; rfl
  · rw [hx, arr_arrPut_same]
    exact outDropped_freed rest hst hserves

end

/-- ARRAY_EN takes the bits written (R93, R95). -/
theorem mxaArrayEn_completes (e0 e1 : Bool) (hh : h < 256) (hc : Calm s) (hn : (hget s h).next = none) :
    Completes (.mxaArrayEn h e0 e1) s (fun u => HearthOnly s u h [R.mxaCtrl h] ∧ hget u h = hget s h ∧
      rd u (R.mxaCtrl h) = setBits (rd s (R.mxaCtrl h)) 0 2 (b1 e0 + 2 * b1 e1)) := by
  have e : mxaArrayEn (quiet s) h (b1 e0 + 2 * b1 e1) = wrf (quiet s) (R.mxaCtrl h) 0 2 (b1 e0 + 2 * b1 e1) := by
    simp [mxaArrayEn, Nat.not_le.2 hh, hn]
  obtain ⟨u, hu, hf⟩ := lead_stk (f := fun t => mxaArrayEn t h (b1 e0 + 2 * b1 e1)) hc hh e (hc.quiet.csr rfl)
  refine ⟨u, hu, HearthOnly.intro hf hc.aborts hc.faults (by rw [quiet_eq hc.free]; rfl) (fun _ _ => rfl)
    (fun r hr => rd_wr_other _ (by simpa using hr) _), hf.hget h, ?_⟩
  rw [hf.rd _ (by simp [noteRegs, R.mxaCtrl, R.prtErrLog, R.prtErrCount, blkBase]; omega)]
  exact rd_wr_same _ _ _

end

end Sys2Proof.Machine

/-!
SUPPORT and proofs for the vector engine and ember programs of chapter 04: elementwise results (O5), accumulator results (O6), loads and stores (O8),
and the life of an invocation (O9).
-/

namespace Sys2Proof.Machine

/-! The effect of an instruction, and its issue (R103, R112). -/

/-- What an instruction other than LD and ST makes of the engine, and its flags, with the seed of the task that it runs for. -/
def wordComputed (x : Hearth) (iv : Invoc) (w : Nat) : Vector × CvtFlags :=
  vecCompute x.vec iv (((runOf x iv.own).map TaskRun.seed).getD 0) w

/-- The effect of the instruction `w` of opcode `op` on the device, and whether it is made: LD, ST, or what `wordComputed` gives. -/
def wordEffect (s : State) (h op : Nat) (iv : Invoc) (w : Nat) : State × Bool :=
  if op = 1 then vecLd s h iv w
  else if op = 2 then vecSt s h iv w
  else (hmod s h (fun x => setCvt { x with vec := (wordComputed (hget s h) iv w).1 } iv.own (wordComputed (hget s h) iv w).2), true)

/-- The hearth `y` that an instruction's effect has left, once the instruction has issued from the hearth `x`. -/
def wordIssued (x : Hearth) (iv : Invoc) (w : Nat) (y : Hearth) : Hearth := { y with vec := vecIssued x.vec iv w y.vec }

section
variable {s : State} {h op w : Nat} {iv : Invoc} {q : List Invoc} {y : Hearth}

/-- An instruction whose effect is a new value of its hearth issues, and the two counters of R112 advance. -/
theorem vecRun_issues (hn : NextWord (hget s h).vec iv q w) (hop : inOp w = op) (he : wordEffect s h op iv w = (hput s h y, true)) :
    vecRun s h op =
      bump (bump (hput s h (wordIssued (hget s h) iv w y)) (bit (rd s (R.vecCtrl h)) 0) (R.vecIssueCycles h) (chunks (hget s h).vec iv.desc w))
        (bit (rd s (R.vecCtrl h)) 0) (R.vecDepWait h) (issueAt (hget s h).vec iv.desc w - (hget s h).vec.clk) := by
  obtain ⟨hrun, hq, hpc, hr, hw⟩ := hn
  have hctrl : (R.vecCtrl h).addr ≠ (R.vecIssueCycles h).addr := by simp [R.vecCtrl, R.vecIssueCycles]
  unfold wordEffect wordComputed at he
  unfold vecRun
  simp only [hrun, hq, hw, hop, Nat.not_le.2 hpc, Nat.not_le.2 hr, or_self, ne_eq, not_true_eq_false, if_false]
  rw [he]
  simp only [vecBump, vmod, hmod, rd_bump_other _ _ hctrl, rd_hput, hget_bump, hget_hput_same, hput_bump, hput_hput]
  rfl

/-- What a command leaves that runs an instruction on a calm device. -/
theorem vecRun_completes (hh : h < 256) (hc : Calm s) (hn : NextWord (hget s h).vec iv q w) (hop : inOp w = op)
    (he : wordEffect (quiet s) h op iv w = (hput (quiet s) h y, true)) :
    ∃ u, act (only (h < 256) (fun t => vecRun t h op)) s = .next u ∧ HearthOnly s u h [R.vecIssueCycles h, R.vecDepWait h] ∧
      hget u h = wordIssued (hget s h) iv w y := by
  obtain ⟨u, hu, honly, hx, -⟩ := act_hput_bumps (f := fun t => vecRun t h op) (rs := [R.vecIssueCycles h, R.vecDepWait h]) hc hh
    (vecRun_issues (s := quiet s) hn hop he)
    (by simp [R.vecIssueCycles, R.vecDepWait]) (by simp [noteRegs, R.prtErrLog, R.prtErrCount, R.vecIssueCycles, blkBase]; omega)
    (by simp [noteRegs, R.prtErrLog, R.prtErrCount, R.vecDepWait, blkBase]; omega) (by simp)
  exact ⟨u, hu, honly, hx⟩

theorem wordIssued_regs (x : Hearth) : (wordIssued x iv w y).spd = y.spd ∧ (wordIssued x iv w y).vec.e = y.vec.e ∧
    (wordIssued x iv w y).vec.a = y.vec.a := by
  obtain ⟨he, ha, -⟩ := vecIssued_regs (v := x.vec) (z := y.vec) (iv := iv) (w := w)
  exact ⟨rfl, he, ha⟩

end

/-! Elementwise instructions (R104, R109, R114, R117). -/

/-- An opcode of the arithmetic, selecting and approximating instructions, which give one result for each element. -/
def ArithOp (op : Nat) : Prop := op ∉ [0x00, 0x01, 0x02, 0x28, 0x29, 0x30, 0x31, 0x32]

theorem elementwise_arithOp {h : Nat} {c : Instr × Nat} (hm : c ∈ elementwise h) : ArithOp c.2 := by
  have hops : ∀ op ∈ (elementwise 0).map Prod.snd, ArithOp op := by unfold ArithOp; decide
  exact hops _ (List.mem_map_of_mem (l := elementwise h) hm)

/-- Every elementwise command runs the next instruction when that has its opcode. -/
theorem exec_elementwise {h : Nat} {c : Instr × Nat} (hm : c ∈ elementwise h) (s : State) :
    exec c.1 s = act (only (h < 256) (fun t => vecRun t h c.2)) s := by
  have hall : ∀ c ∈ elementwise h, exec c.1 s = act (only (h < 256) (fun t => vecRun t h c.2)) s := by
    simp only [elementwise, List.forall_mem_cons]
    exact ⟨rfl, rfl, rfl, rfl, rfl, rfl, rfl, rfl, rfl, rfl, rfl, rfl, rfl, rfl, rfl, rfl, rfl, rfl, rfl, rfl, rfl, rfl, rfl, nofun⟩
  exact hall c hm

theorem vecCompute_elements (v : Vector) (iv : Invoc) (seed : Nat) {op w : Nat} (hop : inOp w = op) (ha : ArithOp op) (hS : inS w = false) :
    vecCompute v iv seed w = (eWrite v (inVd w) (if inW w then 2 else 0) ((List.range v.vl).map (fun i =>
      arith op (inW w) (inX w) (srcCode v iv.desc (inSa w) i) (srcCode v iv.desc (inSb w) i) (srcCode v iv.desc (inSc w) i))), 0) := by
  simp only [ArithOp, List.mem_cons, List.not_mem_nil, or_false, not_or] at ha
  simp [vecCompute, hop, ha, hS]

/-- A register written with the results of a function of the element's place. -/
theorem eCode_eWrite_range (v : Vector) (r ty n : Nat) (f : Nat → Nat) (i : Nat) :
    eCode (eWrite v r ty ((List.range n).map f)) r i = if i < n then f i else eCode v r i := by
  rw [eCode_eWrite_same, List.length_map, List.length_range]
  exact ite_congr rfl (fun hi => by simp [hi]) fun _ => rfl

/-- Settles O5: the instruction issues (`vecRun_converts`), and its effect on the element registers is one `eWrite` (`vecCompute_elements`). -/
theorem elementwiseResults : Obligations.ElementwiseResults := by
  unfold Obligations.ElementwiseResults
  intro s h iv q w c hh hc hm hn hop hS v
  have ha := elementwise_arithOp hm
  obtain ⟨u, hu, ⟨honly, hissue, hx, hdraw, hacc, hother, hplace⟩, he⟩ := vecRun_converts (rs := [inVd w]) hh hc hn hop
    (fun h1 => by simp [ArithOp, h1] at ha) (fun h2 => by simp [ArithOp, h2] at ha) (vecCompute_elements v iv _ hop ha hS) rfl
    (fun r hr => tget_eWrite_other _ (by simpa using hr) _ _)
  exact ⟨u, (exec_elementwise hm s).trans hu, honly, by rw [hx], hacc, hdraw, hissue,
    fun i => (eCode_congr he _ i).trans (eCode_eWrite_range _ _ _ _ _ i), (eType_congr he _).trans (eType_eWrite_same _ _ _ _),
    fun r hr => hother r (by simpa using hr), hplace⟩

/-! Accumulators (R104, R115, R116). -/

theorem tget_tput {α : Type} (t : Tbl α) (k j : Nat) (v : α) : tget (tput t k v) j = if j = k then some v else tget t j := by
  by_cases hj : j = k
  · simp [hj]
  · simp [hj, tget_tput_other t hj]

/-- The entry of the accumulators that an instruction with S = 1, or a reduction, writes (R104). -/
def accEntry (v : Vector) (w : Nat) : Nat := inVd w % 4 * 64 + v.r

section
variable (v : Vector) (iv : Invoc) (seed : Nat) {op w : Nat}

theorem vecCompute_scalar (hop : inOp w = op) (ha : ArithOp op) (hS : inS w = true) :
    vecCompute v iv seed w = ({ v with a := tput v.a (accEntry v w) (arith op false (inX w) (srcCode v iv.desc (inSa w) 0)
      (srcCode v iv.desc (inSb w) 0) (srcCode v iv.desc (inSc w) 0)) }, 0) := by
  simp only [ArithOp, List.mem_cons, List.not_mem_nil, or_false, not_or] at ha
  simp [vecCompute, accEntry, hop, ha, hS]

/-- RSUM and RMAX fold the active elements by `f`, whose identity is `e`, into an entry of an accumulator (R115). -/
theorem vecCompute_reduction {f : W32 → W32 → W32} {e : W32} (hop : inOp w = op)
    (hf : (op, f, e) ∈ [(0x28, add32, 0x80000000#32), (0x29, max32, 0xFF800000#32)]) :
    vecCompute v iv seed w = ({ v with a := tput v.a (accEntry v w) (f (BitVec.ofNat 32 (tgetD v.a (accEntry v w) 0))
      (reduce f e ((List.range v.vl).map (fun i => BitVec.ofNat 32 (srcCode v iv.desc (inSa w) i))))).toNat }, 0) := by
  simp only [List.mem_cons, Prod.mk.injEq, List.not_mem_nil, or_false] at hf
  obtain ⟨rfl, rfl, rfl⟩ | ⟨rfl, rfl, rfl⟩ := hf
  all_goals simp [vecCompute, accEntry, hop]

end

section
variable {s : State} {h op w : Nat} {iv : Invoc} {q : List Invoc}

/-- Neither a load nor a store: the effect is that of `vecCompute`. -/
theorem wordEffect_compute {z : Vector × CvtFlags} (h1 : op ≠ 1) (h2 : op ≠ 2)
    (hz : ∀ seed, vecCompute (hget s h).vec iv seed w = z) :
    wordEffect s h op iv w = (hput s h (setCvt { hget s h with vec := z.1 } iv.own z.2), true) := by
  simp only [wordEffect, wordComputed, h1, h2, if_false, hz, hmod]

/-- An instruction that writes `val` to entry `key` of the accumulators changes no other register and no scratchpad. -/
theorem vecRun_accumulates {key val : Nat} (hh : h < 256) (hc : Calm s) (hn : NextWord (hget s h).vec iv q w) (hop : inOp w = op)
    (h1 : op ≠ 1) (h2 : op ≠ 2)
    (hz : ∀ seed, vecCompute (hget s h).vec iv seed w = ({ (hget s h).vec with a := tput (hget s h).vec.a key val }, 0)) :
    ∃ u, act (only (h < 256) (fun t => vecRun t h op)) s = .next u ∧ HearthOnly s u h [R.vecIssueCycles h, R.vecDepWait h] ∧
      (hget u h).spd = (hget s h).spd ∧ (hget u h).vec.e = (hget s h).vec.e ∧
      ∀ k, tget (hget u h).vec.a k = if k = key then some val else tget (hget s h).vec.a k := by
  obtain ⟨u, hu, honly, hx⟩ := vecRun_completes hh hc hn hop (wordEffect_compute (s := quiet s) h1 h2 hz)
  obtain ⟨hspd, he, ha⟩ := wordIssued_regs (hget s h) (iv := iv) (w := w)
    (y := setCvt { hget s h with vec := { (hget s h).vec with a := tput (hget s h).vec.a key val } } iv.own 0)
  refine ⟨u, hu, honly, by rw [hx]; exact hspd, by rw [hx]; exact he, fun k => ?_⟩
  rw [hx]
  exact (congrArg (tget · k) ha).trans (tget_tput _ _ _ _)

end

/-- Settles O6: the instruction issues and writes one entry of an accumulator (`vecRun_accumulates`): the scalar result of an elementwise instruction
(`vecCompute_scalar`), or that of a reduction (`vecCompute_reduction`). -/
theorem accumulatorResults : Obligations.AccumulatorResults := by
  unfold Obligations.AccumulatorResults
  refine ⟨?scalar, ?reduction⟩
  case scalar =>
    intro s h iv q w c hh hc hm hn hop hS v
    have ha := elementwise_arithOp hm
    obtain ⟨u, hu, hres⟩ := vecRun_accumulates hh hc hn hop (fun h1 => by simp [ArithOp, h1] at ha) (fun h2 => by simp [ArithOp, h2] at ha)
      (fun seed => vecCompute_scalar v iv seed hop ha hS)
    exact ⟨u, (exec_elementwise hm s).trans hu, hres⟩
  case reduction =>
    intro s h iv q w c hh hc hm hn hop v key
    simp only [List.mem_cons, List.not_mem_nil, or_false] at hm
    obtain rfl | rfl := hm
    all_goals exact vecRun_accumulates hh hc hn hop (by decide) (by decide) (fun seed => vecCompute_reduction v iv seed hop (by simp))

/-! Loads and stores (R102, R104, R113). -/

section
variable (x : Hearth) (iv : Invoc) (w st : Nat)

/-- The elements that a load or store of the stream `st` moves: one scale for each block of 32 in a scale stream (R102). -/
def streamCount : Nat := if stKind st then cdiv x.vec.vl 32 else x.vec.vl

/-- The memory, the first row and the number of rows that a load of the stream `st` reads (R113). -/
def ldMem : Nat := (stPlace x.spd x.vec iv st).1
def ldRow : Nat := (stPlace x.spd x.vec iv st).2.1 + (stPlace x.spd x.vec iv st).2.2 / 64
def ldRows : Nat := cdiv ((stPlace x.spd x.vec iv st).2.2 % 64 + cdiv (streamCount x st * tyWidth (ldTy iv st)) 8) 64

/-- The code of element `i` of a load of the stream `st`. -/
def ldCode (i : Nat) : Nat :=
  bits (leVal (rowsGet x.spd (ldMem x iv st) (ldRow x iv st) (ldRows x iv st)))
    (8 * ((stPlace x.spd x.vec iv st).2.2 % 64) + i * tyWidth (ldTy iv st)) (tyWidth (ldTy iv st))

/-- The engine once a load has given its register the codes of the stream `st`. -/
def loaded : Vector := eWrite x.vec (inVd w) (ldTy iv st) ((List.range (streamCount x st)).map (ldCode x iv st))

/-- The elements of a chunk of a store to the stream `st`. -/
def stChunk : Nat := if stKind st then 128 else if tyWidth (stFmt st) = 32 then 64 else 128

/-- The scratchpads after a store to the stream `st` has sent its elements to the bank write buffers, and the row that found no room, if any
(R113, R131). -/
def stored : Scratch × Option WbRow :=
  stChunks x.spd (stPlace x.spd x.vec iv st).1 (stPlace x.spd x.vec iv st).2.1 (8 * (stPlace x.spd x.vec iv st).2.2) (tyWidth (stFmt st))
    (stChunk st) (cdiv (streamCount x st) (stChunk st)) ((List.range (streamCount x st)).map (srcCode x.vec iv.desc (inSa w)))

end

section
variable {s : State} {h w st : Nat} {iv : Invoc}

/-- A load that finds no injection and no stale source gives its register the codes, and leaves the marks of a read. -/
theorem wordEffect_load (hst : st = ivS iv.desc (bits (inX w) 0 2)) (hi : injKind s 3 h = none)
    (hstale : staleHit (hget s h) (ldMem (hget s h) iv st) (ldRow (hget s h) iv st) (ldRows (hget s h) iv st) = none) :
    ∃ z, Marked (hget s h) z ∧ wordEffect s h 1 iv w = (hput s h { z with vec := loaded (hget s h) iv w st }, true) := by
  obtain ⟨z, t, hz, hread, hthen⟩ := portRead_hmod (s := s) (h := h) (own := iv.own) (port := 6)
    (segs := [(ldRow (hget s h) iv st, ldRows (hget s h) iv st)]) hi (by simpa using hstale)
  refine ⟨z, hz, ?_⟩
  have hvec : z.vec = (hget s h).vec := by rw [hz]
  subst hst
  simp only [ldMem, ldRow, ldRows, streamCount] at hread
  simp only [wordEffect, if_true, vecLd, hread, vmod, hthen, hvec]
  rfl

/-- A store whose rows all find room changes the write buffers, and of the engine only what it keeps of its stores. -/
theorem wordEffect_store (hst : st = ivS iv.desc (inX w)) (hroom : (stored (hget s h) iv w st).2 = none) :
    ∃ v, wordEffect s h 2 iv w = (hput s h { hget s h with spd := (stored (hget s h) iv w st).1, vec := v }, true) ∧
      v.e = (hget s h).vec.e ∧ v.a = (hget s h).vec.a := by
  have hres : stored (hget s h) iv w st = ((stored (hget s h) iv w st).1, none) := Prod.ext rfl hroom
  set sp := (stored (hget s h) iv w st).1
  subst hst
  simp only [stored, stChunk, streamCount] at hres
  simp only [wordEffect, OfNat.ofNat_ne_one, if_false, if_true, vecSt, hres]
  exact ⟨_, rfl, rfl, rfl⟩

end

/-- Settles O8: a load writes the codes of its stream to one register (`wordEffect_load`), and a store sends its elements to the write buffers
(`wordEffect_store`). -/
theorem loadsAndStores : Obligations.LoadsAndStores := by
  unfold Obligations.LoadsAndStores
  refine ⟨?load, ?store⟩
  case load =>
    intro s h iv q w hh hc hn hop x v st p wd cnt row n hi hstale
    obtain ⟨z, hz, heff⟩ := wordEffect_load (s := quiet s) (w := w) rfl hi hstale
    obtain ⟨u, hu, honly, hx⟩ := vecRun_completes hh hc hn hop heff
    obtain ⟨hspd, he, ha⟩ := wordIssued_regs x (iv := iv) (w := w) (y := { z with vec := loaded x iv w st })
    have hue : (hget u h).vec.e = (loaded x iv w st).e := by rw [hx]; exact he
    refine ⟨u, hu, honly, ?_, by rw [hx]; exact ha,
      fun i hlt => (eCode_congr hue _ i).trans ((eCode_eWrite_range _ _ _ _ _ i).trans (if_pos hlt)),
      (eType_congr hue _).trans (eType_eWrite_same _ _ _ _), fun r hr => by rw [hue]; exact tget_eWrite_other _ hr _ _⟩
    rw [hx]
    exact hspd.trans (by rw [hz]; rfl)
  case store =>
    intro s h iv q w hh hc hn hop x v st p wd cnt per z hroom
    obtain ⟨y, heff, hye, hya⟩ := wordEffect_store (s := quiet s) (h := h) (iv := iv) (w := w) rfl hroom
    obtain ⟨u, hu, honly, hx⟩ := vecRun_completes hh hc hn hop heff
    obtain ⟨hspd, he, ha⟩ := wordIssued_regs x (iv := iv) (w := w) (y := { x with spd := (stored x iv w st).1, vec := y })
    exact ⟨u, hu, honly, by rw [hx]; exact hspd, by rw [hx]; exact he.trans hye, by rw [hx]; exact ha.trans hya⟩

/-! The life of an invocation (R101, R106, R107, R118, R137). -/

section
variable {s : State} {h : Nat} {iv : Invoc} {q : List Invoc}

/-- An invocation at the head of the schedule enters a queue that holds fewer than 2 (R107, R290). -/
theorem invRow_enters {t : TaskRun} {e : SchedEnt} {r : List SchedEnt} (hcur : (hget s h).cur = some t) (hsched : t.sched = e :: r)
    (hop : bits e.desc 0 8 = 2) (hroom : (hget s h).vec.q.length < 2) :
    invRow s h = hput s h { hget s h with
      cur := some { t with sched := r, invSeq := (t.invSeq + 1) % 65536 }
      vec := { (hget s h).vec with q := (hget s h).vec.q ++ [⟨e.desc, t.id, t.invSeq, ivRows e.desc, none⟩] } } := by
  have htake := schedTake_head (s := s) (h := h) (ops := [2]) hcur hsched (by simp [hop])
  simp only [invRow, htake, emberIssue, vmod, hmod, hget_hput_same, hput_hput, Option.map_some, Nat.not_le.2 hroom, if_false]

/-- The handle streams that an invocation reads, and those that it writes (R102). -/
def inStreams (d : Nat) : List Nat := (List.range 4).filter (fun i => stEn (ivS d i) && !stSrc (ivS d i))
def outStreams (d : Nat) : List Nat := [4, 5].filter (fun i => stEn (ivS d i))

/-- The handle of stream `i` of an invocation passes R134 for a use of all its rows. -/
def streamOk (sp : Scratch) (iv : Invoc) (write : Bool) (i : Nat) : Bool :=
  hdlOk sp iv.own (stHandle (ivS iv.desc i)) 3 write (stEnd iv.desc (ivS iv.desc i) (ivRows iv.desc))

/-- An invocation without a tile-queue stream as it starts: its rows are those of its descriptor. -/
def invRows (iv : Invoc) : Invoc := { iv with rows := ivRows iv.desc, tq := none }

/-- The output slots of an invocation that starts. -/
def outSlots (sp : Scratch) (iv : Invoc) : List Nat := (outStreams iv.desc).flatMap (outKeys sp (invRows iv))

/-- The checks that the start of an invocation makes (R106). -/
structure InvFits (sp : Scratch) (iv : Invoc) : Prop where
  reads : ∀ i ∈ inStreams iv.desc, streamOk sp iv false i = true ∧ slotsFull sp (stKeys sp iv.desc (ivS iv.desc i) (ivRows iv.desc)) = true
  writes : ∀ i ∈ outStreams iv.desc, streamOk sp iv true i = true
  free : slotsFree sp (outSlots sp iv) = true

/-- The engine once an invocation that passes its checks has started, in core cycle `now`. -/
def invStarted (x : Hearth) (iv : Invoc) (q : List Invoc) (now : Nat) : Vector :=
  let v := vecFirst x iv.own
  { v with q := invRows iv :: q, running := true, r := 0, seg := 0, pc := 0, vl := ivSegVl iv.desc 0, stored := [],
           a := accInit iv.desc v.a, clk := max v.clk now }

theorem invStart_starts (hrun : (hget s h).vec.running = false) (hq : (hget s h).vec.q = iv :: q) (htq : ivTq iv.desc = false)
    (hf : InvFits (hget s h).spd iv) :
    invStart s h = hput s h { hget s h with
      vec := invStarted (hget s h) iv q (coreNow s)
      spd := slotsMod (hget s h).spd (outSlots (hget s h).spd iv) (slotReserve iv.own) } := by
  obtain ⟨hreads, hwrites, hfree⟩ := hf
  have hin : (inStreams iv.desc).all (streamOk (hget s h).spd iv false) = true := List.all_eq_true.2 fun i hi => (hreads i hi).1
  have hout : (outStreams iv.desc).all (streamOk (hget s h).spd iv true) = true := List.all_eq_true.2 hwrites
  have hfull : (inStreams iv.desc).all
      (fun i => slotsFull (hget s h).spd (stKeys (hget s h).spd iv.desc (ivS iv.desc i) (ivRows iv.desc))) = true :=
    List.all_eq_true.2 fun i hi => (hreads i hi).2
  unfold streamOk inStreams at hin
  unfold streamOk outStreams at hout
  unfold inStreams at hfull
  unfold outSlots outStreams invRows at hfree
  unfold invStart
  simp only [hrun, hq, htq, hin, hout, hfull, hfree, Bool.false_eq_true, Bool.and_self, Bool.not_true, Bool.false_and, if_false]
  rfl

/-- The hearth once its running invocation, which took no tile-queue entry, has ended: the slots of the outputs that it never stored to are
released. -/
def invEnded (x : Hearth) (iv : Invoc) (q : List Invoc) : Hearth :=
  { x with
    spd := slotsMod x.spd (([4, 5].filter (fun i => !x.vec.stored.contains i)).flatMap (outKeys x.spd iv)) slotRelease
    vec := { x.vec with running := false, q := q, r := 0, seg := 0, pc := 0 } }

theorem invEnd_ends (hrun : (hget s h).vec.running = true) (hq : (hget s h).vec.q = iv :: q) (hr : iv.rows ≤ (hget s h).vec.r)
    (htq : iv.tq = none) :
    invEnd s h = bump (hput s h (invEnded (hget s h) iv q)) (bit (rd s (R.vecCtrl h)) 0) (R.vecInvocations h) 1 := by
  unfold invEnd
  simp only [hrun, hq, Nat.not_lt.2 hr, and_false, if_false, htq, Option.isSome_none, Bool.false_eq_true, vecBump, rd_hput]
  rfl

theorem invOutFull_fills {o : OutFull} {r : List OutFull} (ho : (hget s h).vec.outs = o :: r) :
    invOutFull s h =
      hput s h { hget s h with vec := { (hget s h).vec with outs := r }, spd := slotsMod (hget s h).spd o.slots slotFill } := by
  simp only [invOutFull, ho]

end

/-- Settles O9: the invocation enters its queue (`invRow_enters`), starts (`invStart_starts`), ends and is counted (`invEnd_ends`), and fills its
output slots (`invOutFull_fills`). -/
theorem invocationLife : Obligations.InvocationLife := by
  unfold Obligations.InvocationLife
  refine ⟨?enter, ?start, ?finish, ?fill⟩
  case enter =>
    intro s h t e r hh hc hcur hsched hop hroom
    exact act_hput (f := fun u => invRow u h) hc hh (invRow_enters (s := quiet s) hcur hsched hop hroom)
  case start =>
    intro s h iv q hh hc x hrun hq htq iv1 ins outs hreads hwrites hfree
    obtain ⟨u, hu, honly, hx⟩ := act_hput (f := fun t => invStart t h) hc hh
      (invStart_starts (s := quiet s) hrun hq htq ⟨hreads, hwrites, hfree⟩)
    refine ⟨u, hu, honly, ?_⟩
    rw [hx]
    exact ⟨rfl, rfl, rfl, rfl, rfl, rfl, rfl⟩
  case finish =>
    intro s h iv q hh hc hrun hq hr htq hfrz
    obtain ⟨u, hu, honly, hx, hcount⟩ := act_hput_bump (f := fun t => invEnd t h) hc hh (invEnd_ends (s := quiet s) hrun hq hr htq)
    refine ⟨u, hu, honly, by rw [hx]; rfl, by rw [hx]; rfl, by rw [hx]; rfl, ?_⟩
    rw [hcount (by simp [noteRegs, R.prtErrLog, R.prtErrCount, R.vecInvocations, blkBase]; omega), rd_quiet, hfrz]
    rfl
  case fill =>
    intro s h o r hh hc ho
    obtain ⟨u, hu, honly, hx⟩ := act_hput (f := fun t => invOutFull t h) hc hh (invOutFull_fills (s := quiet s) ho)
    exact ⟨u, hu, honly, by rw [hx]; rfl, by rw [hx]; rfl⟩

end Sys2Proof.Machine

/-!
SUPPORT and proofs for the scratchpads of chapter 05: rows under the bank write buffers (R127–R131), slots and handles (R132–R137), the operation units
(O10).
-/

namespace Sys2Proof.Machine

/-! Rows as a reader sees them (R127, R131). -/

@[simp] theorem length_row64 (d : List Byte) : (row64 d).length = 64 := by simp [row64]

theorem row64_eq {d : List Byte} (h : d.length = 64) : row64 d = d := by simp [row64, ← h]

/-- A row as the entries `l` of the write buffers show it over the memories of `sp`. -/
def rowView (l : List WbRow) (sp : Scratch) (m row : Nat) : List Byte :=
  match wbFind l m row with
  | some d => row64 d
  | none => memGetL (spMem sp m) (row * 64) 64

theorem rowGet_eq_rowView (sp : Scratch) (m row : Nat) : rowGet sp m row = rowView sp.wbuf sp m row := rfl

@[simp] theorem length_rowView (l : List WbRow) (sp : Scratch) (m row : Nat) : (rowView l sp m row).length = 64 := by
  unfold rowView
  split
  · exact length_row64 _
  · simp [memGetL]

@[simp] theorem length_rowGet (sp : Scratch) (m row : Nat) : (rowGet sp m row).length = 64 := length_rowView _ _ _ _

theorem rowView_congr {l : List WbRow} {sp sp' : Scratch} {m : Nat} (h : spMem sp' m = spMem sp m) (row : Nat) :
    rowView l sp' m row = rowView l sp m row := by
  unfold rowView
  rw [h]

theorem wbFind_append (l : List WbRow) (w : WbRow) (m row : Nat) :
    wbFind (l ++ [w]) m row = if w.mem = m ∧ w.row = row then some w.data else wbFind l m row := by
  induction l with
  | nil => rfl
  | cons v r ih =>
    simp only [List.cons_append, wbFind, ih]
    split_ifs <;> rfl

/-- A row that joins the write buffers is the one that a reader of its place sees. -/
theorem rowGet_append (sp : Scratch) (w : WbRow) (m row : Nat) :
    rowGet { sp with wbuf := sp.wbuf ++ [w] } m row = if w.mem = m ∧ w.row = row then row64 w.data else rowGet sp m row := by
  simp only [rowGet, wbFind_append]
  split_ifs <;> rfl

theorem wbCount_append (sp : Scratch) (w : WbRow) (m bank : Nat) :
    wbCount { sp with wbuf := sp.wbuf ++ [w] } m bank = wbCount sp m bank + if w.mem = m ∧ bankOf m w.row = bank then 1 else 0 := by
  unfold wbCount
  rw [List.filter_append, List.length_append]
  by_cases h : w.mem = m ∧ bankOf m w.row = bank <;> simp [h]

/-- The scratchpads `b` differ from `a` in the bytes of the memories and the write buffers at most. -/
def MemsOnly (a b : Scratch) : Prop := b = { a with wm := b.wm, am := b.am, pm := b.pm, wbuf := b.wbuf }

theorem MemsOnly.trans {a b c : Scratch} (h1 : MemsOnly a b) (h2 : MemsOnly b c) : MemsOnly a c := by
  unfold MemsOnly at *
  rw [h2, h1]

/-! A row of a memory written (R128). -/

theorem spMem_spSetMem_same (sp : Scratch) {m : Nat} (hm : m < 3) (b : Mem) : spMem (spSetMem sp m b) m = b := by
  obtain rfl | rfl | rfl : m = 0 ∨ m = 1 ∨ m = 2 := by omega
  all_goals rfl

theorem spMem_spSetMem_other (sp : Scratch) {k m : Nat} (h : k ≠ m) (b : Mem) : spMem (spSetMem sp k b) m = spMem sp m := by
  match k, m with
  | 0, 0 | 1, 1 | 2, 2 => exact absurd rfl h
  | 0, 1 | 0, 2 | 0, _ + 3 | 1, 0 | 1, 2 | 1, _ + 3 | 2, 0 | 2, 1 | 2, _ + 3 | _ + 3, _ => rfl

/-- The memories of `sp` once the row of `w` has been written into its bank. -/
def rowStored (sp : Scratch) (w : WbRow) : Scratch :=
  spSetMem sp w.mem (memPutL (spMem sp w.mem) (w.row * 64) (row64 w.data))

theorem rowStored_mems (sp : Scratch) (w : WbRow) : MemsOnly sp (rowStored sp w) := by
  unfold rowStored spSetMem
  split <;> rfl

theorem memGetL_memPutL_other (bs : List Byte) (b : Mem) {a c n : Nat} (h : c + n ≤ a ∨ a + bs.length ≤ c) :
    memGetL (memPutL b a bs) c n = memGetL b c n := by
  unfold memGetL
  refine List.map_congr_left fun i hi => memGet_memPutL_other bs b a ?_
  have := List.mem_range.1 hi
  omega

theorem memGetL_rowStored (sp : Scratch) (w : WbRow) {m : Nat} (hm : m < 3) (row : Nat) :
    memGetL (spMem (rowStored sp w) m) (row * 64) 64 =
      if w.mem = m ∧ w.row = row then row64 w.data else memGetL (spMem sp m) (row * 64) 64 := by
  unfold rowStored
  by_cases hw : w.mem = m
  · subst hw
    rw [spMem_spSetMem_same _ hm]
    by_cases hr : w.row = row
    · subst hr
      rw [if_pos ⟨rfl, rfl⟩]
      have h := memGetL_memPutL (row64 w.data) (spMem sp w.mem) (w.row * 64)
      rwa [length_row64] at h
    · rw [if_neg fun h => hr h.2, memGetL_memPutL_other]
      rw [length_row64]
      omega
  · rw [spMem_spSetMem_other _ hw, if_neg fun h => hw h.1]

/-! A cycle of the banks (R131). -/

theorem wbRetire_seen (w : WbRow) (r : List WbRow) {seen : List (Nat × Nat)} (h : (w.mem, bankOf w.mem w.row) ∈ seen) (sp : Scratch) :
    wbRetire (w :: r) seen sp = (w :: (wbRetire r seen sp).1, (wbRetire r seen sp).2) := by
  simp [wbRetire, h]

theorem wbRetire_oldest (w : WbRow) (r : List WbRow) {seen : List (Nat × Nat)} (h : (w.mem, bankOf w.mem w.row) ∉ seen) (sp : Scratch) :
    wbRetire (w :: r) seen sp = wbRetire r ((w.mem, bankOf w.mem w.row) :: seen) (rowStored sp w) := by
  simp [wbRetire, h, rowStored]

theorem wbRetire_mems (l : List WbRow) (seen : List (Nat × Nat)) (sp : Scratch) : MemsOnly sp (wbRetire l seen sp).2 := by
  induction l generalizing seen sp with
  | nil => rfl
  | cons w r ih =>
    by_cases hs : (w.mem, bankOf w.mem w.row) ∈ seen
    · rw [wbRetire_seen w r hs]
      exact ih seen sp
    · rw [wbRetire_oldest w r hs]
      exact (rowStored_mems sp w).trans (ih _ _)

/-- In a bank that has been served every entry stays. -/
theorem wbFind_wbRetire (l : List WbRow) {seen : List (Nat × Nat)} (sp : Scratch) {m row : Nat} (h : (m, bankOf m row) ∈ seen) :
    wbFind (wbRetire l seen sp).1 m row = wbFind l m row := by
  induction l generalizing seen sp with
  | nil => rfl
  | cons w r ih =>
    by_cases hs : (w.mem, bankOf w.mem w.row) ∈ seen
    · rw [wbRetire_seen w r hs]
      simp only [wbFind, ih sp h]
    · have hne : ¬(w.mem = m ∧ w.row = row) := by
        rintro ⟨rfl, rfl⟩
        exact hs h
      rw [wbRetire_oldest w r hs, ih _ (List.mem_cons_of_mem _ h)]
      simp only [wbFind, hne, if_false]
      cases wbFind r m row <;> rfl

/-- Retirement changes no row as it is read. -/
theorem rowView_wbRetire (l : List WbRow) (seen : List (Nat × Nat)) (sp : Scratch) {m : Nat} (hm : m < 3) (row : Nat) :
    rowView (wbRetire l seen sp).1 (wbRetire l seen sp).2 m row = rowView l sp m row := by
  induction l generalizing seen sp with
  | nil => rfl
  | cons w r ih =>
    by_cases hs : (w.mem, bankOf w.mem w.row) ∈ seen
    · rw [wbRetire_seen w r hs]
      have h := ih seen sp
      unfold rowView at h ⊢
      simp only [wbFind]
      by_cases hw : w.mem = m ∧ w.row = row
      · obtain ⟨rfl, rfl⟩ := hw
        rw [wbFind_wbRetire r sp hs]
        cases wbFind r w.mem w.row <;> simp
      · simp only [hw, if_false]
        cases h1 : wbFind (wbRetire r seen sp).1 m row <;> cases h2 : wbFind r m row <;> rw [h1, h2] at h <;> exact h
    · rw [wbRetire_oldest w r hs, ih]
      unfold rowView
      simp only [wbFind]
      cases wbFind r m row with
      | some d => rfl
      | none =>
        by_cases hw : w.mem = m ∧ w.row = row
        · simp [memGetL_rowStored sp w hm, hw]
        · simp [memGetL_rowStored sp w hm, hw]

/-- The entries of a bank that a buffer holds. -/
def bankRows (l : List WbRow) (m bank : Nat) : Nat := (l.filter (fun w => w.mem = m && bankOf m w.row = bank)).length

theorem wbCount_eq_bankRows (sp : Scratch) (m bank : Nat) : wbCount sp m bank = bankRows sp.wbuf m bank := rfl

theorem bankRows_cons (w : WbRow) (r : List WbRow) (m bank : Nat) :
    bankRows (w :: r) m bank = bankRows r m bank + if w.mem = m ∧ bankOf m w.row = bank then 1 else 0 := by
  unfold bankRows
  by_cases h : w.mem = m ∧ bankOf m w.row = bank <;> simp [h]

theorem bankRows_wbRetire (l : List WbRow) (seen : List (Nat × Nat)) (sp : Scratch) (m bank : Nat) :
    bankRows (wbRetire l seen sp).1 m bank = if (m, bank) ∈ seen then bankRows l m bank else bankRows l m bank - 1 := by
  induction l generalizing seen sp with
  | nil => simp [wbRetire, bankRows]
  | cons w r ih =>
    by_cases hs : (w.mem, bankOf w.mem w.row) ∈ seen
    · rw [wbRetire_seen w r hs, bankRows_cons, bankRows_cons, ih]
      by_cases hw : w.mem = m ∧ bankOf m w.row = bank
      · obtain ⟨rfl, rfl⟩ := hw
        rw [if_pos hs, if_pos hs]
      · simp [hw]
    · rw [wbRetire_oldest w r hs, bankRows_cons, ih]
      by_cases hw : w.mem = m ∧ bankOf m w.row = bank
      · obtain ⟨rfl, rfl⟩ := hw
        simp [hs]
      · have hne : (m, bank) ≠ (w.mem, bankOf w.mem w.row) := by
          rintro h
          obtain ⟨rfl, rfl⟩ := Prod.mk.inj h
          exact hw ⟨rfl, rfl⟩
        simp [hw, List.mem_cons, hne]

theorem wbCycle_mems (sp : Scratch) : MemsOnly sp (wbCycle sp) :=
  MemsOnly.trans (b := (wbRetire sp.wbuf [] sp).2) (wbRetire_mems _ _ _) rfl

theorem rowGet_wbCycle (sp : Scratch) {m : Nat} (hm : m < 3) (row : Nat) : rowGet (wbCycle sp) m row = rowGet sp m row := by
  rw [rowGet_eq_rowView, rowGet_eq_rowView, ← rowView_wbRetire sp.wbuf [] sp hm]
  exact rowView_congr (by unfold wbCycle spMem; dsimp only) row

theorem wbCount_wbCycle (sp : Scratch) (m bank : Nat) : wbCount (wbCycle sp) m bank = wbCount sp m bank - 1 := by
  rw [wbCount_eq_bankRows, wbCount_eq_bankRows]
  exact (bankRows_wbRetire sp.wbuf [] sp m bank).trans (if_neg (by simp))

/-! Rows enter the write buffers (R131). -/

theorem rowGet_wbEnter (n : Nat) (sp : Scratch) (w : WbRow) {m : Nat} (hm : m < 3) (row : Nat) :
    rowGet (wbEnter n sp w) m row = if w.mem = m ∧ w.row = row then row64 w.data else rowGet sp m row := by
  induction n generalizing sp with
  | zero => exact rowGet_append sp w m row
  | succ n ih =>
    simp only [wbEnter]
    split
    · exact rowGet_append sp w m row
    · rw [ih, rowGet_wbCycle sp hm]

/-- The rows `z.1` enter one by one, each at its number `z.2` from `row` on. -/
def rowIn (m row : Nat) (sp : Scratch) (z : List Byte × Nat) : Scratch := wbEnter 8 sp ⟨m, row + z.2, z.1⟩

theorem rowGet_rowIns (ds : List (List Byte)) (sp : Scratch) (m row k : Nat) {m' : Nat} (hm : m' < 3) (r : Nat) :
    rowGet ((ds.zipIdx k).foldl (rowIn m row) sp) m' r =
      if m' = m ∧ row + k ≤ r ∧ r < row + k + ds.length then row64 (ds.getD (r - (row + k)) []) else rowGet sp m' r := by
  induction ds generalizing k sp with
  | nil => simp
  | cons d ds ih =>
    rw [List.zipIdx_cons, List.foldl_cons, ih, rowIn, rowGet_wbEnter _ _ _ hm, List.length_cons]
    dsimp only
    by_cases hmm : m' = m
    · rcases Nat.lt_trichotomy r (row + k) with hlt | rfl | hgt
      · rw [if_neg (by omega), if_neg (by omega), if_neg (by omega)]
      · rw [if_neg (by omega), if_pos ⟨hmm.symm, rfl⟩, if_pos (by omega)]
        simp
      · have hsub : r - (row + k) = r - (row + (k + 1)) + 1 := by omega
        rw [hsub, List.getD_cons_succ, if_neg (by omega : ¬(m = m' ∧ row + k = r))]
        exact if_congr (by omega) rfl rfl
    · simp [hmm, Ne.symm hmm]

/-- Rows that have entered the buffers are read at their places, and every other row as before. -/
theorem rowGet_rowsEnter (sp : Scratch) (m row : Nat) (ds : List (List Byte)) {m' : Nat} (hm : m' < 3) (r : Nat) :
    rowGet (rowsEnter sp m row ds) m' r =
      if m' = m ∧ row ≤ r ∧ r < row + ds.length then row64 (ds.getD (r - row) []) else rowGet sp m' r :=
  rowGet_rowIns ds sp m row 0 hm r

/-! Slots (R135–R137). -/

theorem slotGet_slotPut (sp : Scratch) (k j : Nat) (x : Slot) : slotGet (slotPut sp k x) j = if j = k then x else slotGet sp j := by
  unfold slotGet slotPut
  dsimp only
  by_cases hj : j = k
  · subst hj
    by_cases hx : x = .empty <;> simp [hx, tgetD]
  · split <;> simp [hj, tgetD_tdel_other, tgetD_tput_other]

theorem slotsMod_cons (sp : Scratch) (k : Nat) (ks : List Nat) (f : Slot → Slot) :
    slotsMod sp (k :: ks) f = slotsMod (slotPut sp k (f (slotGet sp k))) ks f := rfl

/-- Each slot is changed once for each time it is named. -/
theorem slotGet_slotsMod (sp : Scratch) (ks : List Nat) (f : Slot → Slot) (j : Nat) :
    slotGet (slotsMod sp ks f) j = f^[ks.count j] (slotGet sp j) := by
  induction ks generalizing sp with
  | nil => rfl
  | cons k ks ih =>
    rw [slotsMod_cons, ih, slotGet_slotPut, List.count_cons]
    by_cases hj : j = k
    · subst hj
      simp
    · simp [hj, Ne.symm hj]

theorem slotsMod_frame (sp : Scratch) (ks : List Nat) (f : Slot → Slot) :
    slotsMod sp ks f = { sp with slots := (slotsMod sp ks f).slots } := by
  induction ks generalizing sp with
  | nil => rfl
  | cons k ks ih =>
    rw [slotsMod_cons, ih]
    rfl

theorem full_slotsMod_fill (sp : Scratch) {ks : List Nat} {k : Nat} (hk : k ∈ ks) : (slotGet (slotsMod sp ks slotFill) k).full = true := by
  obtain ⟨n, hn⟩ := Nat.exists_eq_succ_of_ne_zero (List.count_pos_iff.2 hk).ne'
  rw [slotGet_slotsMod, hn, Function.iterate_succ_apply']
  rfl

theorem rowGet_slotsMod (sp : Scratch) (ks : List Nat) (f : Slot → Slot) (m row : Nat) : rowGet (slotsMod sp ks f) m row = rowGet sp m row := by
  rw [slotsMod_frame]
  rfl

/-! Operation units (R144). -/

@[simp] theorem opUnit_opUnitPut_same (sp : Scratch) (m : Nat) (u : OpUnit) : opUnit (opUnitPut sp m u) m = u :=
  match m with
  | 0 | 1 | _ + 2 => rfl

theorem opUnit_opUnitPut_other (sp : Scratch) {m k : Nat} (hm : m < 3) (hk : k < 3) (h : k ≠ m) (u : OpUnit) :
    opUnit (opUnitPut sp m u) k = opUnit sp k :=
  match m, k with
  | 0, 0 | 1, 1 | 2, 2 => absurd rfl h
  | 0, 1 | 0, 2 | 1, 0 | 1, 2 | 2, 0 | 2, 1 => rfl

theorem opUnitPut_frame (sp : Scratch) (m : Nat) (u : OpUnit) :
    let y := opUnitPut sp m u
    y = { sp with op0 := y.op0, op1 := y.op1, op2 := y.op2 } := by
  unfold opUnitPut
  split <;> rfl

@[simp] theorem rowGet_opUnitPut (sp : Scratch) (m : Nat) (u : OpUnit) (k row : Nat) : rowGet (opUnitPut sp m u) k row = rowGet sp k row := by
  rw [opUnitPut_frame]
  rfl

@[simp] theorem slotGet_opUnitPut (sp : Scratch) (m : Nat) (u : OpUnit) (k : Nat) : slotGet (opUnitPut sp m u) k = slotGet sp k := by
  rw [opUnitPut_frame]
  rfl

section
variable {s : State} {h : Nat}

/-- A fill or copy that passes the checks of R144 reserves the slots of its destination and joins the queue of its memory. -/
theorem spdOpIssue_enters {own d : Nat} (hroom : (opUnit (hget s h).spd (hdMem (hdl (hget s h).spd (opDst d)))).q.length < 4)
    (hdst : hdlOk (hget s h).spd own (opDst d) 3 true (opDstOff d + opRows d) = true)
    (hfree : slotsFree (hget s h).spd
      (slotKeys (hdMem (hdl (hget s h).spd (opDst d))) (hdlRow (hget s h).spd (opDst d) (opDstOff d)) (opRows d)) = true)
    (hcopy : opCode d = 4 →
      hdlOk (hget s h).spd own (opSrc d) (hdMem (hdl (hget s h).spd (opDst d))) false (opSrcOff d + opRows d) = true ∧
      slotsFull (hget s h).spd
        (slotKeys (hdMem (hdl (hget s h).spd (opDst d))) (hdlRow (hget s h).spd (opSrc d) (opSrcOff d)) (opRows d)) = true) :
    let x := hget s h
    let m := hdMem (hdl x.spd (opDst d))
    let row := hdlRow x.spd (opDst d) (opDstOff d)
    spdOpIssue s h own d = hput s h { x with
      spd := opUnitPut (slotsMod x.spd (slotKeys m row (opRows d)) (slotReserve own)) m
        ⟨(opUnit x.spd m).q ++ [⟨opCode d, row, opRows d, hdlRow x.spd (opSrc d) (opSrcOff d), opValue d, own, 0⟩], (opUnit x.spd m).run⟩ } := by
  unfold spdOpIssue
  by_cases hop : opCode d = 4
  · obtain ⟨hsrc, hfull⟩ := hcopy hop
    simp only [Nat.not_le.2 hroom, hdst, hfree, hsrc, hfull, Bool.not_true, Bool.and_false, Bool.false_eq_true, if_false]
    rfl
  · simp only [Nat.not_le.2 hroom, hdst, hfree, hop, Bool.not_true, decide_false, Bool.false_and, Bool.false_eq_true, if_false]
    rfl

/-- An SPEMPTY that passes its checks empties the slots of its range (R140, R144). -/
theorem spdOpEmpty_empties {own d : Nat} (hroom : (opUnit (hget s h).spd (hdMem (hdl (hget s h).spd (opDst d)))).q.length < 4)
    (hdst : hdlOk (hget s h).spd own (opDst d) 3 false (opDstOff d + opRows d) = true)
    (hfull : hdStream (hdl (hget s h).spd (opDst d)) = true ∨
      ∀ k ∈ slotKeys (hdMem (hdl (hget s h).spd (opDst d))) (hdlRow (hget s h).spd (opDst d) (opDstOff d)) (opRows d),
        (slotGet (hget s h).spd k).full = true ∧ (slotGet (hget s h).spd k).touched = true) :
    spdOpEmpty s h own d = hput s h (emptySlots (hget s h)
      (slotKeys (hdMem (hdl (hget s h).spd (opDst d))) (hdlRow (hget s h).spd (opDst d) (opDstOff d)) (opRows d)) slotEmpty false).1 := by
  unfold spdOpEmpty
  simp only [Nat.not_le.2 hroom, hdst, Bool.not_true, Bool.false_eq_true, if_false]
  rw [if_neg]
  obtain hstream | hall := hfull
  · simp [hstream]
  · simpa using fun _ => hall

theorem spdOpStart_starts {m : Nat} {o : SpdOp} {q : List SpdOp} (hu : opUnit (hget s h).spd m = ⟨o :: q, false⟩) :
    spdOpStart s h m = hput s h { hget s h with spd := opUnitPut (hget s h).spd m ⟨o :: q, true⟩ } := by
  simp only [spdOpStart, hmod, hu, List.isEmpty_cons, Bool.or_false, Bool.false_eq_true, if_false]

/-- The rows that an operation has still to write, in the scratchpads once they have landed (R145). -/
def opLanded (sp : Scratch) (m : Nat) (o : SpdOp) (q : List SpdOp) : Scratch :=
  opUnitPut (slotsMod (rowsEnter sp m (o.dst + o.done) (opData sp m o)) (slotKeys m o.dst o.rows) slotFill) m ⟨q, false⟩

theorem spdOpDone_lands {m : Nat} {o : SpdOp} {q : List SpdOp} (hu : opUnit (hget s h).spd m = ⟨o :: q, true⟩)
    (hi : o.op = 4 → injKind s 3 h = none) :
    ∃ x, x.spd = opLanded (hget s h).spd m o q ∧
      spdOpDone s h m = bump (hput s h x) (bit (rd s (R.spdCtrl h)) 0) (R.spdOpRowsM h m) (o.rows - o.done) := by
  unfold spdOpDone
  rw [hu]
  by_cases hop : o.op = 4
  · simp only [hop, if_true, spdInject, hi hop, spdOpLand, spdBump, rd_hput]
    exact ⟨_, rfl, rfl⟩
  · simp only [hop, if_false, spdOpLand, spdBump, rd_hput]
    exact ⟨_, rfl, rfl⟩

end

theorem length_opRow (sp : Scratch) (m : Nat) (o : SpdOp) (i : Nat) : (opRow sp m o i).length = 64 := by
  unfold opRow
  split
  · exact length_rowGet _ _ _
  · simp

theorem row64_opRow (sp : Scratch) (m : Nat) (o : SpdOp) (i : Nat) : row64 (opRow sp m o i) = opRow sp m o i := row64_eq (length_opRow sp m o i)

theorem rowGet_opLanded (sp : Scratch) (m : Nat) (o : SpdOp) (q : List SpdOp) {k : Nat} (hk : k < 3) (row : Nat) :
    rowGet (opLanded sp m o q) k row =
      if k = m ∧ o.dst + o.done ≤ row ∧ row < o.dst + o.rows then opRow sp m o (row - o.dst) else rowGet sp k row := by
  rw [opLanded, rowGet_opUnitPut, rowGet_slotsMod, rowGet_rowsEnter _ _ _ _ hk, opData, List.length_map, List.length_range]
  by_cases hrow : k = m ∧ o.dst + o.done ≤ row ∧ row < o.dst + o.rows
  · have hlt : row - (o.dst + o.done) < o.rows - o.done := by omega
    rw [if_pos (by omega), if_pos hrow, List.getD_eq_getElem _ _ (by simpa using hlt), List.getElem_map, List.getElem_range, row64_opRow]
    congr 1
    omega
  · rw [if_neg (by omega), if_neg hrow]

theorem spdOpRows_addr (h m : Nat) : (R.spdOpRowsM h m).addr ∉ noteRegs := by
  simp [noteRegs, R.prtErrLog, R.prtErrCount, R.spdOpRowsM, blkBase]
  omega

/-- Settles O10: an operation enters its queue (`spdOpIssue_enters`), SPEMPTY empties its slots (`spdOpEmpty_empties`), a unit starts its head
(`spdOpStart_starts`), and a finished operation has its rows landed (`spdOpDone_lands`, `rowGet_opLanded`). -/
theorem scratchpadOperations : Obligations.ScratchpadOperations := by
  unfold Obligations.ScratchpadOperations
  refine ⟨?issue, ?empty, ?start, ?done⟩
  case issue =>
    intro s h t e r c hh hc hcur hsched hm hop x sp d m q row src hroom hdst hfree hcopy
    have hissue := spdOpIssue_enters (s := hput (quiet s) h { x with cur := some { t with sched := r } }) (h := h) (own := t.id) (d := d)
    simp only [hget_hput_same, hput_hput] at hissue
    simp only [List.mem_cons, List.not_mem_nil, or_false] at hm
    obtain rfl | rfl := hm
    · refine act_hput (f := fun u => fillRow u h) hc hh ?_
      have htake := schedTake_head (s := quiet s) (h := h) (ops := [3]) hcur hsched (by simp [hop])
      simp only [fillRow, htake, hmod]
      exact hissue hroom hdst hfree hcopy
    · refine act_hput (f := fun u => copyRow u h) hc hh ?_
      have htake := schedTake_head (s := quiet s) (h := h) (ops := [4]) hcur hsched (by simp [hop])
      simp only [copyRow, htake, hmod]
      exact hissue hroom hdst hfree hcopy
  case empty =>
    intro s h t e r hh hc hcur hsched hop x sp d dv ks hroom hdst hfull
    have htake := schedTake_head (s := quiet s) (h := h) (ops := [5]) hcur hsched (by simp [hop])
    have hempty := spdOpEmpty_empties (s := hput (quiet s) h { x with cur := some { t with sched := r } }) (h := h) (own := t.id) (d := d)
    simp only [hget_hput_same, hput_hput] at hempty
    obtain ⟨u, hu, honly, hx⟩ := act_hput (f := fun u => emptyRow u h) hc hh
      (show emptyRow (quiet s) h = _ by
        simp only [emptyRow, htake, hmod]
        exact hempty hroom hdst hfull)
    refine ⟨u, hu, honly, ?_, ?_⟩
    · rw [hx]; rfl
    · rw [hx]; rfl
  case start =>
    intro s h m o q hh hm hc hu
    obtain ⟨u, hstep, honly, hx⟩ := act_hput (f := fun t => spdOpStart t h m) hc (And.intro hh hm) (spdOpStart_starts (s := quiet s) hu)
    exact ⟨u, hstep, honly, by rw [hx]; rfl⟩
  case done =>
    intro s h m o q hh hm hc hu hi x
    obtain ⟨y, hy, hdone⟩ := spdOpDone_lands (s := quiet s) hu hi
    obtain ⟨u, hstep, honly, hx, hcount⟩ := act_hput_bump (f := fun t => spdOpDone t h m) hc (And.intro hh hm) hdone
    have hspd : (hget u h).spd = opLanded x.spd m o q := by rw [hx]; exact hy
    refine ⟨u, hstep, honly, fun i hlo hhi => ?_, fun m' row hm' hout => ?_, ?_, fun k hk => ?_, fun hfrz => ?_⟩
    · rw [hspd, rowGet_opLanded _ _ _ _ hm, if_pos (by omega), Nat.add_sub_cancel_left]
      rfl
    · rw [hspd, rowGet_opLanded _ _ _ _ hm', if_neg (by omega)]
    · rw [hspd, opLanded, opUnit_opUnitPut_same]
    · rw [hspd, opLanded, slotGet_opUnitPut]
      exact full_slotsMod_fill _ hk
    · rw [hcount (spdOpRows_addr h m), rd_quiet, hfrz]
      rfl

end Sys2Proof.Machine

/-!
SUPPORT and proofs for the upkeep of the scratchpads (R131–R133, R145, R146): a cycle of the banks with the operation units, handle writes and the
scrub (O11).
-/

namespace Sys2Proof.Machine

/-! One memory of two scratchpads. -/

/-- Memory `m` is read alike in `a` and `b`, its operation unit is the same, and its buffers hold as many rows. -/
structure SameMem (m : Nat) (a b : Scratch) : Prop where
  rows : ∀ row, rowGet b m row = rowGet a m row
  unit : opUnit b m = opUnit a m
  count : ∀ bank, wbCount b m bank = wbCount a m bank

theorem SameMem.refl (m : Nat) (a : Scratch) : SameMem m a a := ⟨fun _ => rfl, rfl, fun _ => rfl⟩

theorem SameMem.trans {m : Nat} {a b c : Scratch} (h1 : SameMem m a b) (h2 : SameMem m b c) : SameMem m a c :=
  ⟨fun row => (h2.rows row).trans (h1.rows row), h2.unit.trans h1.unit, fun bank => (h2.count bank).trans (h1.count bank)⟩

theorem MemsOnly.opUnit {a b : Scratch} (h : MemsOnly a b) (m : Nat) : Machine.opUnit b m = Machine.opUnit a m := by rw [h]; rfl

theorem opRow_congr {a b : Scratch} {m : Nat} (h : ∀ row, rowGet b m row = rowGet a m row) (o : SpdOp) (i : Nat) : opRow b m o i = opRow a m o i := by
  unfold opRow
  rw [h]

/-! What a running operation writes in one cycle (R145). -/

/-- The scratchpads with row `k` of an operation, counted from those already written, in the write buffers. -/
def opPut (sp : Scratch) (m : Nat) (o : SpdOp) (k : Nat) : Scratch :=
  { sp with wbuf := sp.wbuf ++ [⟨m, o.dst + o.done + k, opRow sp m o (o.done + k)⟩] }

theorem opCycleGo_succ (n : Nat) (sp : Scratch) (m : Nat) (o : SpdOp) (k : Nat) :
    opCycleGo (n + 1) sp m o k = (sp, k) ∨ o.done + k < o.rows ∧ opCycleGo (n + 1) sp m o k = opCycleGo n (opPut sp m o k) m o (k + 1) := by
  rw [opCycleGo]
  split
  · exact .inl rfl
  · next h => exact .inr ⟨by omega, rfl⟩

theorem opPut_other (sp : Scratch) {m j : Nat} (h : j ≠ m) (o : SpdOp) (k : Nat) : SameMem j sp (opPut sp m o k) :=
  ⟨fun row => (rowGet_append _ _ _ _).trans (if_neg fun hw => h hw.1.symm), rfl,
    fun bank => (wbCount_append _ _ _ _).trans (by rw [if_neg fun hw => h hw.1.symm, Nat.add_zero])⟩

theorem opCycleGo_other (n : Nat) (sp : Scratch) {m j : Nat} (h : j ≠ m) (o : SpdOp) (k : Nat) : SameMem j sp (opCycleGo n sp m o k).1 := by
  induction n generalizing sp k with
  | zero => exact .refl j sp
  | succ n ih =>
    obtain he | ⟨-, he⟩ := opCycleGo_succ n sp m o k
    · rw [he]; exact .refl j sp
    · rw [he]; exact (opPut_other sp h o k).trans (ih _ _)

theorem opCycleGo_count (n : Nat) (sp : Scratch) (m : Nat) (o : SpdOp) (k : Nat) : (opCycleGo n sp m o k).2 ≤ k + n := by
  induction n generalizing sp k with
  | zero => exact le_rfl
  | succ n ih =>
    obtain he | ⟨-, he⟩ := opCycleGo_succ n sp m o k
    · rw [he]; exact Nat.le_add_right _ _
    · rw [he]; exact (ih _ _).trans (by omega)

/-- A copy whose source and destination do not overlap. -/
def SpdOp.Apart (o : SpdOp) : Prop := o.op = 4 → o.src + o.rows ≤ o.dst ∨ o.dst + o.rows ≤ o.src

/-- Of `sp0`, the operation has put its next `k` rows: they are read at their places, and every other row of the memory as before. -/
def OpWrote (sp0 : Scratch) (m : Nat) (o : SpdOp) (k : Nat) (sp : Scratch) : Prop :=
  ∀ row, rowGet sp m row = if o.dst + o.done ≤ row ∧ row < o.dst + o.done + k then opRow sp0 m o (row - o.dst) else rowGet sp0 m row

/-- The source of an operation that is apart from its destination is read as it was before the operation wrote. -/
theorem OpWrote.source {sp0 sp : Scratch} {m k : Nat} {o : SpdOp} (h : OpWrote sp0 m o k sp) (ho : o.Apart) (hk : o.done + k < o.rows) :
    opRow sp m o (o.done + k) = opRow sp0 m o (o.done + k) := by
  unfold opRow
  split
  · next hop => rw [h, if_neg (by have := ho hop; omega)]
  · rfl

theorem OpWrote.put {sp0 sp : Scratch} {m k : Nat} {o : SpdOp} (h : OpWrote sp0 m o k sp) (ho : o.Apart) (hk : o.done + k < o.rows) :
    OpWrote sp0 m o (k + 1) (opPut sp m o k) := by
  intro row
  rw [opPut, rowGet_append, row64_opRow, h.source ho hk, h row]
  dsimp only
  by_cases hrow : row = o.dst + o.done + k
  · rw [if_pos ⟨rfl, hrow.symm⟩, if_pos (by omega), hrow, Nat.add_assoc, Nat.add_sub_cancel_left]
  · rw [if_neg fun hw => hrow hw.2.symm]
    exact if_congr (by omega) rfl rfl

theorem OpWrote.go {sp0 : Scratch} {m : Nat} {o : SpdOp} (ho : o.Apart) (n : Nat) {sp : Scratch} {k : Nat} (h : OpWrote sp0 m o k sp) :
    OpWrote sp0 m o (opCycleGo n sp m o k).2 (opCycleGo n sp m o k).1 := by
  induction n generalizing sp k with
  | zero => exact h
  | succ n ih =>
    obtain he | ⟨hk, he⟩ := opCycleGo_succ n sp m o k
    · rw [he]; exact h
    · rw [he]; exact ih (h.put ho hk)

/-! The cycle of one operation unit (R144, R145). -/

/-- The unit of memory `m` runs `o` and has more than its last row to write. -/
def OpDue (sp : Scratch) (m : Nat) (o : SpdOp) (q : List SpdOp) : Prop := opUnit sp m = ⟨o :: q, true⟩ ∧ o.done + 1 < o.rows

/-- The rows that an operation may write in one cycle: one per bank for a fill, half as many for a copy. -/
def opLimit (m : Nat) (o : SpdOp) : Nat := if o.op = 4 then memBanks m / 2 else memBanks m

/-- The scratchpads after the rows of this cycle, and their count. -/
def opWritten (sp : Scratch) (m : Nat) (o : SpdOp) : Scratch × Nat := opCycleGo (min (opLimit m o) (o.rows - o.done - 1)) sp m o 0

section
variable {s : State} {h m : Nat}

theorem opCycle_idle (hd : ∀ o q, ¬OpDue (hget s h).spd m o q) : opCycle s h m = s := by
  unfold opCycle
  dsimp only
  split
  · next o q hrun hq =>
    have hu : opUnit (hget s h).spd m = ⟨o :: q, true⟩ := by rw [← hrun, ← hq]
    rw [if_pos (Nat.le_of_not_lt fun hlt => hd o q ⟨hu, hlt⟩)]
  · rfl

theorem opCycle_due {o : SpdOp} {q : List SpdOp} (hd : OpDue (hget s h).spd m o q) (hi : injKind s 3 h = none) :
    let y := opWritten (hget s h).spd m o
    ∃ x, x.spd = opUnitPut y.1 m ⟨{ o with done := o.done + y.2 } :: q, true⟩ ∧
      opCycle s h m = bump (hput s h x) (bit (rd s (R.spdCtrl h)) 0) (R.spdOpRowsM h m) y.2 := by
  obtain ⟨hu, hlt⟩ := hd
  unfold opCycle opWritten opLimit
  rw [hu]
  by_cases hop : o.op = 4
  · simp only [hop, Nat.not_le.2 hlt, if_true, if_false, spdInject, hi, spdBump, rd_hmod]
    exact ⟨_, rfl, rfl⟩
  · simp only [hop, Nat.not_le.2 hlt, if_false, spdBump, rd_hmod]
    exact ⟨_, rfl, rfl⟩

end

/-! What the cycle leaves unchanged. -/

/-- The state `v` is `s` with another value of hearth `h` and of registers. -/
def HearthPut (s : State) (h : Nat) (v : State) : Prop := v = { hput s h (hget v h) with csr := v.csr }

theorem HearthPut.hput {s v : State} {h : Nat} (hv : HearthPut s h v) (x : Hearth) : HearthPut s h (Machine.hput v h x) := by
  unfold HearthPut at *
  rw [hget_hput_same]
  conv_lhs => rw [hv]
  exact congrArg (fun l : Tbl Hearth => { s with hearths := l, csr := v.csr }) (tput_tput _ _ _ _)

theorem HearthPut.bump {s v : State} {h : Nat} (hv : HearthPut s h v) (frz : Bool) (r : Reg) (n w : Nat) :
    HearthPut s h (Machine.bump v frz r n w) := by
  unfold HearthPut at *
  rw [hget_bump]
  cases frz
  · conv_lhs => rw [Machine.bump, hv]
    rfl
  · exact hv

/-- The operation units of the memories `ms` of hearth `h` have taken their cycles: beside the hearth, only their counters change, and no other
memory. -/
structure OpsTaken (h : Nat) (ms : List Nat) (s t : State) : Prop where
  put : ∀ s0, HearthPut s0 h s → HearthPut s0 h t
  regs : ∀ r : Reg, (∀ m ∈ ms, r.addr ≠ (R.spdOpRowsM h m).addr) → rd t r = rd s r
  mems : ∀ j, j < 3 → j ∉ ms → SameMem j (hget s h).spd (hget t h).spd

theorem OpsTaken.refl (h : Nat) (ms : List Nat) (s : State) : OpsTaken h ms s s := ⟨fun _ hs => hs, fun _ _ => rfl, fun j _ _ => .refl j _⟩

theorem OpsTaken.cons {h m : Nat} {ms : List Nat} {s t u : State} (h1 : OpsTaken h [m] s t) (h2 : OpsTaken h ms t u) : OpsTaken h (m :: ms) s u where
  put s0 hs := h2.put s0 (h1.put s0 hs)
  regs r hr := (h2.regs r fun k hk => hr k (.tail _ hk)).trans (h1.regs r fun k hk => hr k (List.mem_singleton.1 hk ▸ .head _))
  mems j hj hn := (h1.mems j hj fun hk => hn (List.mem_singleton.1 hk ▸ .head _)).trans (h2.mems j hj (fun hk => hn (.tail _ hk)))

theorem OpsTaken.injKind {h : Nat} {ms : List Nat} {s t : State} (ht : OpsTaken h ms s t) (b i : Nat) : Machine.injKind t b i = Machine.injKind s b i := by
  unfold Machine.injKind
  rw [ht.regs]
  intro m _
  simp only [R.errInject, R.spdOpRowsM, blkBase]
  omega

theorem opCycle_taken {s : State} {h m : Nat} (hm : m < 3) (hi : injKind s 3 h = none) : OpsTaken h [m] s (opCycle s h m) := by
  by_cases hd : ∃ o q, OpDue (hget s h).spd m o q
  · obtain ⟨o, q, hd⟩ := hd
    obtain ⟨x, hx, he⟩ := opCycle_due hd hi
    rw [he]
    refine ⟨fun s0 hs => (hs.hput x).bump _ _ _ _, fun r hr => ?_, fun j hj hn => ?_⟩
    · rw [rd_bump_other _ _ (hr m (by simp)), rd_hput]
    · have hne : j ≠ m := by simpa using hn
      rw [hget_bump, hget_hput_same, hx]
      refine (opCycleGo_other _ _ hne o 0).trans ⟨fun row => rowGet_opUnitPut _ _ _ _ _, opUnit_opUnitPut_other _ hm hj hne _, fun bank => ?_⟩
      rw [opUnitPut_frame]
      rfl
  · rw [opCycle_idle fun o q h => hd ⟨o, q, h⟩]
    exact .refl h [m] s

/-- The cycles of several operation units, one after the other. -/
def opCycles (s : State) (h : Nat) (ms : List Nat) : State := ms.foldl (fun t m => opCycle t h m) s

theorem opCycles_taken {s : State} {h : Nat} {ms : List Nat} (hm : ∀ m ∈ ms, m < 3) (hi : injKind s 3 h = none) :
    OpsTaken h ms s (opCycles s h ms) := by
  induction ms generalizing s with
  | nil => exact .refl h [] s
  | cons m ms ih =>
    have h1 := opCycle_taken (hm m (by simp)) hi
    exact h1.cons (ih (fun k hk => hm k (.tail _ hk)) ((h1.injKind 3 h).trans hi))

/-! What the cycle does to the memory of a running operation. -/

/-- From the scratchpads `a` to `b`, operation `o` at the head of its unit has written its next `k` rows (R145). -/
structure OpRuns (m : Nat) (o : SpdOp) (q : List SpdOp) (k : Nat) (a b : Scratch) : Prop where
  limit : k ≤ opLimit m o
  last : o.done + k < o.rows
  unit : opUnit b m = ⟨{ o with done := o.done + k } :: q, true⟩
  rows : o.Apart → OpWrote a m o k b

theorem OpRuns.congr {m k : Nat} {o : SpdOp} {q : List SpdOp} {a a' b b' : Scratch} (h : OpRuns m o q k a b)
    (ha : ∀ row, rowGet a m row = rowGet a' m row) (hb : SameMem m b b') : OpRuns m o q k a' b' :=
  ⟨h.limit, h.last, hb.unit.trans h.unit, fun ho row => by rw [hb.rows, h.rows ho, opRow_congr ha, ha]⟩

theorem opCycle_runs {s : State} {h m : Nat} {o : SpdOp} {q : List SpdOp} (hd : OpDue (hget s h).spd m o q) (hi : injKind s 3 h = none) :
    ∃ k, OpRuns m o q k (hget s h).spd (hget (opCycle s h m) h).spd ∧
      (bit (rd s (R.spdCtrl h)) 0 = false → rd (opCycle s h m) (R.spdOpRowsM h m) = (rd s (R.spdOpRowsM h m) + k) % 2 ^ 48) := by
  obtain ⟨x, hx, he⟩ := opCycle_due hd hi
  obtain ⟨-, hlt⟩ := hd
  have hcount : (opWritten (hget s h).spd m o).2 ≤ 0 + min (opLimit m o) (o.rows - o.done - 1) := opCycleGo_count _ _ _ _ _
  have hwrote : OpWrote (hget s h).spd m o 0 (hget s h).spd := fun row => (if_neg (by omega)).symm
  refine ⟨(opWritten (hget s h).spd m o).2, ⟨by omega, by omega, ?_, fun ho row => ?_⟩, fun hfrz => ?_⟩
  · rw [he, hget_bump, hget_hput_same, hx, opUnit_opUnitPut_same]
  · rw [he, hget_bump, hget_hput_same, hx, rowGet_opUnitPut]
    exact hwrote.go ho _ row
  · rw [he, rd_bump_same, hfrz, rd_hput]
    rfl

/-! The cycle of the banks and the units (R131). -/

section
variable {s : State} {h : Nat}

theorem wbufRetireOp_eq (s : State) (h : Nat) :
    wbufRetireOp s h = opCycles (hput s h { hget s h with spd := wbCycle (hget s h).spd }) h [0, 1, 2] := rfl

/-- Among the units that take their cycles one after the other, that of memory `m` finds its memory and its registers as they were, and the others
leave them so. -/
theorem opCycles_mem {l1 l2 : List Nat} {m : Nat} (hlt : ∀ j ∈ l1 ++ m :: l2, j < 3) (h1 : m ∉ l1) (h2 : m ∉ l2) (hi : injKind s 3 h = none) :
    let u := opCycles s h (l1 ++ m :: l2)
    ((∀ o q, ¬OpDue (hget s h).spd m o q) → SameMem m (hget s h).spd (hget u h).spd) ∧
      ∀ o q, OpDue (hget s h).spd m o q → ∃ k, OpRuns m o q k (hget s h).spd (hget u h).spd ∧
        (bit (rd s (R.spdCtrl h)) 0 = false → rd u (R.spdOpRowsM h m) = (rd s (R.spdOpRowsM h m) + k) % 2 ^ 48) := by
  have hm : m < 3 := hlt m (by simp)
  have hrows : ∀ l : List Nat, m ∉ l → ∀ j ∈ l, (R.spdOpRowsM h m).addr ≠ (R.spdOpRowsM h j).addr := by
    intro l hl j hj
    have : j ≠ m := fun he => hl (he ▸ hj)
    simp only [R.spdOpRowsM]
    omega
  have hctrl : ∀ j ∈ l1, (R.spdCtrl h).addr ≠ (R.spdOpRowsM h j).addr := by
    intro j _
    simp only [R.spdOpRowsM, R.spdCtrl]
    omega
  set a := opCycles s h l1
  have ha : OpsTaken h l1 s a := opCycles_taken (fun j hj => hlt j (by simp [hj])) hi
  have hia : injKind a 3 h = none := (ha.injKind 3 h).trans hi
  have hb : OpsTaken h l2 (opCycle a h m) (opCycles (opCycle a h m) h l2) :=
    opCycles_taken (fun j hj => hlt j (by simp [hj])) (((opCycle_taken hm hia).injKind 3 h).trans hia)
  have hu : opCycles s h (l1 ++ m :: l2) = opCycles (opCycle a h m) h l2 := by simp only [opCycles, List.foldl_append, List.foldl_cons]; rfl
  have hsa := ha.mems m hm h1
  have hsb := hb.mems m hm h2
  have hdue : ∀ o q, OpDue (hget a h).spd m o q ↔ OpDue (hget s h).spd m o q := fun o q => by rw [OpDue, OpDue, hsa.unit]
  dsimp only
  rw [hu]
  refine ⟨fun hidle => ?_, fun o q hd => ?_⟩
  · rw [opCycle_idle fun o q hd => hidle o q ((hdue o q).1 hd)] at hsb ⊢
    exact hsa.trans hsb
  · obtain ⟨k, hruns, hcount⟩ := opCycle_runs ((hdue o q).2 hd) hia
    refine ⟨k, hruns.congr hsa.rows hsb, fun hfrz => ?_⟩
    rw [hb.regs _ (hrows l2 h2), hcount (by rw [ha.regs _ hctrl, hfrz]), ha.regs _ (hrows l1 h1)]

end

/-- The state with which the units' cycles begin: every bank has retired its oldest row. -/
def wbCycled (s : State) (h : Nat) : State := hput s h { hget s h with spd := wbCycle (hget s h).spd }

/-- What a cycle of the banks and the units does to memory `m` (R131, R145). -/
theorem wbufRetireOp_mem {s : State} {h m : Nat} (hm : m < 3) (hi : injKind s 3 h = none) :
    ((∀ o q, ¬OpDue (hget s h).spd m o q) → SameMem m (wbCycle (hget s h).spd) (hget (wbufRetireOp s h) h).spd) ∧
      ∀ o q, OpDue (hget s h).spd m o q → ∃ k, OpRuns m o q k (hget s h).spd (hget (wbufRetireOp s h) h).spd ∧
        (bit (rd s (R.spdCtrl h)) 0 = false → rd (wbufRetireOp s h) (R.spdOpRowsM h m) = (rd s (R.spdOpRowsM h m) + k) % 2 ^ 48) := by
  obtain ⟨l1, l2, hl, h1, h2⟩ : ∃ l1 l2, [0, 1, 2] = l1 ++ m :: l2 ∧ m ∉ l1 ∧ m ∉ l2 := by
    obtain rfl | rfl | rfl : m = 0 ∨ m = 1 ∨ m = 2 := by omega
    · exact ⟨[], [1, 2], rfl, by decide, by decide⟩
    · exact ⟨[0], [2], rfl, by decide, by decide⟩
    · exact ⟨[0, 1], [], rfl, by decide, by decide⟩
  have hlt : ∀ j ∈ l1 ++ m :: l2, j < 3 := by rw [← hl]; decide
  obtain ⟨hidle, hruns⟩ := opCycles_mem (s := wbCycled s h) (h := h) hlt h1 h2 hi
  have hspd : (hget (wbCycled s h) h).spd = wbCycle (hget s h).spd := by rw [wbCycled, hget_hput_same]
  have hdue : ∀ o q, OpDue (wbCycle (hget s h).spd) m o q ↔ OpDue (hget s h).spd m o q := fun o q => by
    rw [OpDue, OpDue, (wbCycle_mems _).opUnit]
  rw [hspd] at hidle hruns
  rw [wbufRetireOp_eq, hl]
  refine ⟨fun h => hidle fun o q hd => h o q ((hdue o q).1 hd), fun o q hd => ?_⟩
  obtain ⟨k, hk, hcount⟩ := hruns o q ((hdue o q).2 hd)
  exact ⟨k, hk.congr (rowGet_wbCycle _ hm) (.refl _ _), hcount⟩

/-- A command whose effect gives hearth `h` a new value and changes registers of `rs`. -/
theorem HearthPut.completes {c : Prop} [Decidable c] {f : State → State} {s v : State} {h : Nat} (hv : HearthPut (quiet s) h v) (rs : List Reg)
    (hc : Calm s) (hg : c) (e : f (quiet s) = v) (hr : ∀ r : Reg, r.addr ∉ rs.map Reg.addr → rd v r = rd s r) :
    ∃ u, act (only c f) s = .next u ∧ HearthOnly s u h rs ∧ hget u h = hget v h ∧ ∀ r : Reg, r.addr ∉ noteRegs → rd u r = rd v r :=
  act_hearthRegs rs hc hg e (by rw [quiet_eq hc.free] at hv; exact hv) hr

/-- A cycle of the banks completes and changes nothing but the hearth and the counters of its units. -/
theorem wbufRetire_completes {s : State} {h : Nat} (hh : h < 256) (hc : Calm s) (hi : injKind s 3 h = none) :
    Completes (.wbufRetire h) s (fun u => HearthOnly s u h [R.spdOpRowsM h 0, R.spdOpRowsM h 1, R.spdOpRowsM h 2] ∧
      hget u h = hget (wbufRetireOp (quiet s) h) h ∧
        ∀ m, rd u (R.spdOpRowsM h m) = rd (wbufRetireOp (quiet s) h) (R.spdOpRowsM h m)) := by
  have htaken : OpsTaken h [0, 1, 2] (wbCycled (quiet s) h) (wbufRetireOp (quiet s) h) := opCycles_taken (by decide) hi
  have hput : HearthPut (quiet s) h (wbCycled (quiet s) h) := by
    unfold HearthPut wbCycled
    rw [hget_hput_same]
  obtain ⟨u, hu, honly, hx, hregs⟩ := (htaken.put _ hput).completes (f := fun t => wbufRetireOp t h)
    [R.spdOpRowsM h 0, R.spdOpRowsM h 1, R.spdOpRowsM h 2] hc hh rfl (fun r hr => htaken.regs r (by simpa using hr))
  exact ⟨u, hu, honly, hx, fun m => hregs _ (spdOpRows_addr h m)⟩

/-! Handles (R132, R133). -/

theorem hdl_hdlPut (sp : Scratch) (i v j : Nat) : hdl (hdlPut sp i v) j = if j = i then v else hdl sp j := by
  unfold hdl hdlPut
  dsimp only
  by_cases hj : j = i
  · subst hj
    by_cases hv : v = 0 <;> simp [hv, tgetD]
  · split <;> simp [hj, tgetD_tdel_other, tgetD_tput_other]

theorem rd_logErr_first {s : State} {l c : Reg} (hlc : l.addr ≠ c.addr) (hv : bit (rd s l) 0 = false) (v : Nat) :
    rd (logErr s l c v) l = v / 2 * 2 + 1 := by
  unfold logErr
  simp only [hv, Bool.false_eq_true, if_false]
  split <;> rw [rd_wr_other _ hlc, rd_wr_same]

theorem logErr_eq (s : State) (l c : Reg) (v : Nat) : logErr s l c v = { s with csr := (logErr s l c v).csr } := by
  unfold logErr
  dsimp only
  split <;> split <;> rfl

/-- A Stoker command whose effect is an entry in an error log changes the log and its count. -/
theorem actStk_logErr {c : Prop} [Decidable c] {f : State → State} {s : State} {l n : Reg} {v : Nat} (hc : Calm s) (hg : c)
    (e : f (quiet s) = logErr (quiet s) l n v) :
    ∃ u, actStk (only c f) s = .next u ∧ RegsOnly s u [l, n] ∧ ∀ r : Reg, r.addr ∉ noteRegs → rd u r = rd (logErr (quiet s) l n v) r := by
  have hregs : ∀ r : Reg, r.addr ∉ [l, n].map Reg.addr → rd (logErr (quiet s) l n v) r = rd s r := fun r hr => by
    simp only [List.map_cons, List.map_nil, List.mem_cons, List.not_mem_nil, or_false, not_or] at hr
    exact rd_logErr_other _ hr.1 hr.2 _
  have hcsr := logErr_eq (quiet s) l n v
  generalize logErr (quiet s) l n v = w at *
  obtain ⟨u, hu, hf⟩ := lead_stk hc hg e (hc.quiet.csr hcsr)
  exact ⟨u, hu, RegsOnly.intro hc hf (by rw [quiet_eq hc.free] at hcsr; exact hcsr) hregs, fun r hr => hf.rd r hr⟩

/-- SPD_ERR_LOG as it records a refused write of handle entry `i` (R133, R156). -/
theorem handleBad_fields {k i : Nat} (hi : i < 64) :
    let w := (fieldAt 8 4 9 + fieldAt 12 2 k + fieldAt 16 8 0 + fieldAt 24 4 0 + fieldAt 28 6 i + fieldAt 34 16 0 + fieldAt 50 3 0) / 2 * 2 + 1
    bit w 0 = true ∧ bits w 8 4 = 9 ∧ bits w 28 6 = i := by
  simp only [bit_eq_decide, bits, fieldAt, Nat.shiftRight_eq_div_pow, Nat.shiftLeft_eq, decide_eq_true_eq]
  omega

section
variable {s : State} {h i : Nat} {v : W64}

theorem handleWrite_takes (hh : h < 256) (hi : i < 64) (hc : Calm s) (hfits : hdlFits (hget s h).spd i (bits v.toNat 0 56) = true) :
    Completes (.spdHandleWrite h i v) s (fun u => HearthOnly s u h [] ∧
      hget u h = { hget s h with spd := hdlPut (hget s h).spd i (bits v.toNat 0 56) }) := by
  refine actStk_hput (f := fun t => handleWrite t h i v.toNat) hc (And.intro hh hi) ?_
  rw [handleWrite, hget_quiet, if_pos hfits]
  rfl

theorem handleWrite_refused (hh : h < 256) (hi : i < 64) (hc : Calm s) (hfits : hdlFits (hget s h).spd i (bits v.toNat 0 56) = false) :
    Completes (.spdHandleWrite h i v) s (fun u => RegsOnly s u [R.spdErrLog h, R.spdErrCount h] ∧
      (bit (rd s (R.spdErrLog h)) 0 = false → bit (rd u (R.spdErrLog h)) 0 = true ∧ rdf u (R.spdErrLog h) 8 4 = 9 ∧
        rdf u (R.spdErrLog h) 28 6 = i)) := by
  have heff : handleWrite (quiet s) h i v.toNat = spdErr (quiet s) h 9 (hdMem (bits v.toNat 0 56)) 0 0 i 0 0 := by
    rw [handleWrite, hget_quiet, hfits]
    rfl
  obtain ⟨u, hu, honly, hregs⟩ := actStk_logErr (f := fun t => handleWrite t h i v.toNat) hc (And.intro hh hi) heff
  refine ⟨u, hu, honly, fun hvalid => ?_⟩
  have hlog : (R.spdErrLog h).addr ∉ noteRegs := by
    simp [noteRegs, R.prtErrLog, R.prtErrCount, R.spdErrLog, blkBase]
    omega
  rw [rdf, rdf, hregs _ hlog, rd_logErr_first (s := quiet s) (by simp [R.spdErrLog, R.spdErrCount]) hvalid]
  exact handleBad_fields hi

end

/-! The scrub (R146, R295). -/

section
variable {s : State} {h : Nat}

theorem rowGet_scrubSpd (sp : Scratch) {m : Nat} (hm : m < 3) (row : Nat) : rowGet (scrubSpd sp) m row = List.replicate 64 0 := by
  obtain rfl | rfl | rfl : m = 0 ∨ m = 1 ∨ m = 2 := by omega
  all_goals rfl

/-- The hearth as a scrub leaves it. -/
def scrubbed (x : Hearth) : Hearth := { x with spd := scrubSpd x.spd, land := [], unread := [], watch := [] }

/-- The residency map without the buffers of hearth `h`. -/
def residDropped (h : Nat) (g : GraphEng) : GraphEng := { g with resid := g.resid.filter (fun e => e.1 ≠ h) }

theorem spdScrub_scrubs (hcur : (hget s h).cur = none) (hdrain : (hget s h).drain = none) :
    spdScrub s h = match (hget s h).part with
      | none => hput s h (scrubbed (hget s h))
      | some p => gmod (hput s h (scrubbed (hget s h))) p (residDropped h) := by
  unfold spdScrub
  simp only [hcur, hdrain, Option.isSome_none, Bool.or_self, Bool.false_eq_true, if_false, scrubbed]
  cases (hget s h).part <;> rfl

theorem spdScrub_ignored (ht : (hget s h).cur.isSome ∨ (hget s h).drain.isSome) : spdScrub s h = s := by
  unfold spdScrub
  rw [if_pos (by simpa using ht)]

theorem gget_gmod_other (s : State) {p k : Nat} (hk : k ≠ p) (f : GraphEng → GraphEng) : gget (gmod s p f) k = gget s k :=
  tgetD_tput_other _ hk _ _

/-- A scrub changes its hearth and, in its partition, the residency map. -/
theorem spdScrub_changes (hcur : (hget s h).cur = none) (hdrain : (hget s h).drain = none) :
    ∃ v, spdScrub s h = v ∧ v = { hput s h (scrubbed (hget s h)) with graphs := v.graphs } ∧
      (∀ p, (hget s h).part = some p → gget v p = residDropped h (gget s p)) ∧ ∀ p, (hget s h).part ≠ some p → gget v p = gget s p := by
  rw [spdScrub_scrubs hcur hdrain]
  cases hp : (hget s h).part with
  | none => exact ⟨_, rfl, rfl, nofun, fun _ _ => rfl⟩
  | some k =>
    refine ⟨_, rfl, rfl, fun p hpk => ?_, fun p hpk => gget_gmod_other _ (by rintro rfl; exact hpk rfl) _⟩
    obtain rfl := Option.some.inj hpk
    exact gget_gmod_same _ _ _

theorem spdScrub_completes (hh : h < 256) (hc : Calm s) (hcur : (hget s h).cur = none) (hdrain : (hget s h).drain = none) :
    Completes (.spdScrub h) s (fun u => SameRegs s u [] ∧ (∀ k, k ≠ h → hget u k = hget s k) ∧ u.hbm = s.hbm ∧ u.slices = s.slices ∧
      hget u h = scrubbed (hget s h) ∧ (∀ p, (hget s h).part = some p → gget u p = residDropped h (gget s p)) ∧
      ∀ p, (hget s h).part ≠ some p → gget u p = gget s p) := by
  obtain ⟨v, heff, hv, hmine, hothers⟩ := spdScrub_changes (s := quiet s) hcur hdrain
  have hcv : Calm v := by rw [hv]; exact hc.quiet.of rfl rfl rfl rfl rfl rfl rfl
  obtain ⟨u, hu, hf⟩ := lead_stk (f := fun t => spdScrub t h) hc hh heff hcv
  have heq := hf.eq
  rw [hv] at heq
  refine ⟨u, hu, ⟨fun r _ hn => ?_, fun p => ?_⟩, fun k hk => ?_, by rw [heq]; rfl, by rw [heq]; rfl, ?_, fun p hp => ?_, fun p hp => ?_⟩
  · rw [hf.rd r hn, hv]; rfl
  · rw [hf.parts p, hv]; rfl
  · rw [hf.hget, hv]; exact hget_hput_other _ hk _
  · rw [hf.hget, hv]; exact hget_hput_same _ _ _
  · rw [hf.gget]; exact hmine p hp
  · rw [hf.gget]; exact hothers p hp

end

/-- Settles O11: a cycle of the banks (`wbufRetire_completes`, `wbufRetireOp_mem`), a handle write taken or refused (`handleWrite_takes`,
`handleWrite_refused`), a scrub (`spdScrub_completes`) and its end. -/
theorem scratchpadUpkeep : Obligations.ScratchpadUpkeep := by
  unfold Obligations.ScratchpadUpkeep
  refine ⟨?cycle, ?handle, ?scrub, ?scrubDone⟩
  case cycle =>
    intro s h hh hc hi sp due
    obtain ⟨u, hu, honly, hx, hregs⟩ := wbufRetire_completes hh hc hi
    refine ⟨u, hu, honly, fun m hm => ?_⟩
    obtain ⟨hidle, hruns⟩ := wbufRetireOp_mem (s := quiet s) (h := h) hm hi
    rw [hx]
    refine ⟨fun hnot => ?_, fun o q hunit hlt hapart => ?_⟩
    · have hsame := hidle fun o q hd => hnot o ⟨q, hd⟩
      exact ⟨fun row => (hsame.rows row).trans (rowGet_wbCycle _ hm row), hsame.unit.trans ((wbCycle_mems _).opUnit m),
        fun bank => (hsame.count bank).trans (wbCount_wbCycle _ m bank)⟩
    · obtain ⟨k, hk, hcount⟩ := hruns o q ⟨hunit, hlt⟩
      have hwrote := hk.rows hapart
      refine ⟨k, hk.limit, hk.last, hk.unit, fun i hi => ?_, fun row hrow => ?_, fun hfrz => (hregs m).trans (hcount hfrz)⟩
      · rw [hwrote, if_pos (by omega), Nat.add_assoc, Nat.add_sub_cancel_left, opRow, Nat.add_assoc]
        rfl
      · rw [hwrote, if_neg (by omega)]
        rfl
  case handle =>
    intro s h i v hh hi hc
    refine ⟨fun hfits => ?_, handleWrite_refused hh hi hc⟩
    obtain ⟨u, hu, honly, hx⟩ := handleWrite_takes hh hi hc hfits
    refine ⟨u, hu, honly, ?_, fun j hj => ?_, ?_⟩
    · rw [hx]; exact (hdl_hdlPut _ _ _ _).trans (if_pos rfl)
    · rw [hx]; exact (hdl_hdlPut _ _ _ _).trans (if_neg hj)
    · rw [hx]; rfl
  case scrub =>
    intro s h hh hc
    refine ⟨fun hcur hdrain => ?_, fun ht => ?_⟩
    · obtain ⟨u, hu, hregs, hothers, hhbm, hsl, hx, hmine, hparts⟩ := spdScrub_completes hh hc hcur hdrain
      refine ⟨u, hu, hregs, hothers, hhbm, hsl, ?_, fun m row hm => ?_, fun k => ?_, fun i => ?_, hmine, hparts⟩
      · rw [hx]; rfl
      · rw [hx]; exact rowGet_scrubSpd _ hm row
      · rw [hx]; rfl
      · rw [hx]; rfl
    · obtain ⟨u, hu, hf⟩ := lead_stk (f := fun t => spdScrub t h) hc hh (spdScrub_ignored (s := quiet s) ht) hc.quiet
      exact ⟨u, hu, RegsOnly.intro hc hf (quiet_eq hc.free) fun _ _ => rfl⟩
  case scrubDone =>
    intro s h hh hc
    exact act_hput (f := fun t => spdScrubDone t h) hc hh rfl

end Sys2Proof.Machine

/-!
SUPPORT and proofs for the aborts of a task (R130, R168, R307, R507): what a task that leaves its hearth frees, its requeue or hold, an abort that
falls due in a command, and O32.
-/

namespace Sys2Proof.Machine

/-! What a task frees on its hearth (R307 steps 1 to 5). -/

/-- From `s` to `t`, hearth `h` has lost what a task of partition `p` held there: of the device only that hearth, slices, multicast groups, walks and
registers change. The hearth's tasks and the control register of the graph engine are as they were. -/
structure Freed (h p : Nat) (s t : State) : Prop where
  eq : t = { s with hearths := t.hearths, csr := t.csr, slices := t.slices, mcast := t.mcast, xlts := t.xlts, walks := t.walks }
  tasks : (hget t h).cur = (hget s h).cur ∧ (hget t h).drain = (hget s h).drain
  other : ∀ k, k ≠ h → hget t k = hget s k
  ctrl : rd t (R.grfCtrl p) = rd s (R.grfCtrl p)

section
variable {h p : Nat} {s t u : State}

theorem Freed.refl (h p : Nat) (s : State) : Freed h p s s := ⟨rfl, ⟨rfl, rfl⟩, fun _ _ => rfl, rfl⟩

theorem Freed.trans (h1 : Freed h p s t) (h2 : Freed h p t u) : Freed h p s u where
  eq := by
    have e := h2.eq
    rw [h1.eq] at e
    exact e
  tasks := ⟨h2.tasks.1.trans h1.tasks.1, h2.tasks.2.trans h1.tasks.2⟩
  other k hk := (h2.other k hk).trans (h1.other k hk)
  ctrl := h2.ctrl.trans h1.ctrl

theorem Freed.hput (h1 : Freed h p s t) {x : Hearth} (hc : x.cur = (hget t h).cur) (hd : x.drain = (hget t h).drain) :
    Freed h p s (Machine.hput t h x) :=
  h1.trans ⟨rfl, by rw [hget_hput_same]; exact ⟨hc, hd⟩, fun _ hk => hget_hput_other _ hk _, rfl⟩

theorem Freed.bump (h1 : Freed h p s t) (frz : Bool) {r : Reg} (hr : (R.grfCtrl p).addr ≠ r.addr) (n w : Nat) :
    Freed h p s (Machine.bump t frz r n w) :=
  h1.trans ⟨by cases frz <;> rfl, by rw [hget_bump]; exact ⟨rfl, rfl⟩, fun _ _ => hget_bump _ _ _ _ _ _, rd_bump_other _ _ hr _ _⟩

theorem slMod_freed (w : State) (sl : Nat) (f : Slice → Slice) : Freed h p w (slMod w sl f) := ⟨rfl, ⟨rfl, rfl⟩, fun _ _ => rfl, rfl⟩

theorem mcPut_freed (w : State) (q g : Nat) (m : McGroup) : Freed h p w (mcPut w q g m) := ⟨rfl, ⟨rfl, rfl⟩, fun _ _ => rfl, rfl⟩

/-- A fold whose every step frees. -/
theorem Freed.foldl {α : Type} {f : State → α → State} {l : List α} (hf : ∀ a ∈ l, ∀ w, Freed h p w (f w a)) (s : State) :
    Freed h p s (l.foldl f s) := by
  induction l generalizing s with
  | nil => exact .refl h p s
  | cons a l ih => exact (hf a (by simp) s).trans (ih (fun b hb => hf b (.tail _ hb)) _)

/-! Members leave their groups (R209), streams stop (R172). -/

theorem mcTrimAll_freed (q g : Nat) (w : State) : Freed h p w (mcTrimAll w q g) := Freed.foldl (fun sl _ w => slMod_freed w sl _) w

theorem mcLeaveGroup_freed (key : Nat) (j : Member) (w : State) : Freed h p w (mcLeaveGroup w key j) := by
  unfold mcLeaveGroup
  dsimp only
  split_ifs
  · exact (mcPut_freed _ _ _ _).trans (mcTrimAll_freed _ _ _)
  · exact (mcPut_freed _ _ _ _).trans (mcTrimAll_freed _ _ _)
  · exact .refl h p w

theorem mcLeave_freed (j : Member) (w : State) : Freed h p w (mcLeave w j) := Freed.foldl (fun key _ w => mcLeaveGroup_freed key j w) w

/-- A change of the hearth that keeps its tasks, with the walks that are left, frees. -/
theorem engines_freed (w : State) {x : Hearth} (hc : x.cur = (hget w h).cur) (hd : x.drain = (hget w h).drain) (l : Tbl (List WalkReq)) :
    Freed h p w { Machine.hput w h x with walks := l } :=
  ⟨rfl, ⟨(congrArg Hearth.cur (hget_hput_same w h x)).trans hc, (congrArg Hearth.drain (hget_hput_same w h x)).trans hd⟩,
    fun _ hk => hget_hput_other w hk x, rfl⟩

theorem xlMod_freed (w : State) (q : Nat) (f : Xlt → Xlt) : Freed h p w (xlMod w q f) := ⟨rfl, ⟨rfl, rfl⟩, fun _ _ => rfl, rfl⟩

theorem streamsStop_freed (own : Nat) (w : State) : Freed h p w (streamsStop w h own) := by
  unfold streamsStop
  dsimp only
  refine Freed.trans ?_ (Freed.foldl (fun _ _ w => mcLeave_freed _ w) _)
  split
  · exact engines_freed w (by rfl) (by rfl) _
  · exact (engines_freed w (by rfl) (by rfl) _).trans (xlMod_freed _ _ _)

/-! Handles, semaphores and slots (R141, R297, R307). -/

theorem wasted_freed (w : State) (n : Nat) : Freed h p w (wasted w h n) := by
  unfold wasted
  split
  · exact .refl h p w
  · refine (Freed.refl h p w).bump _ ?_ _ _
    simp only [R.grfCtrl, R.fluWastedBytes, blkBase]
    omega

theorem handlesFree_freed (bufs : List Bound) (empty : Bool) (w : State) : Freed h p w (handlesFree w h bufs empty) := by
  refine Freed.foldl (fun b _ w => ?_) w
  dsimp only
  split
  · refine Freed.trans ((Freed.refl h p w).hput ?_ ?_) (wasted_freed _ _)
    all_goals cases empty <;> rfl
  · exact (Freed.refl h p w).hput rfl rfl

theorem logErr_freed (w : State) {l c : Reg} (hl : (R.grfCtrl p).addr ≠ l.addr) (hc : (R.grfCtrl p).addr ≠ c.addr) (v : Nat) :
    Freed h p w (logErr w l c v) := by
  have hctrl := rd_logErr_other w hl hc v
  have heq := logErr_eq w l c v
  generalize logErr w l c v = u at *
  rw [heq] at hctrl ⊢
  exact ⟨rfl, ⟨rfl, rfl⟩, fun _ _ => rfl, hctrl⟩

theorem semUp_freed (i gid task : Nat) (w : State) : Freed h p w (semUp w p i gid task) := by
  unfold semUp
  split
  · exact logErr_freed w (by simp [R.grfCtrl, R.grfErrLog]) (by simp [R.grfCtrl, R.grfErrCount]) _
  · refine ⟨rfl, ⟨rfl, rfl⟩, fun _ _ => rfl, rd_wr_other _ ?_ _⟩
    simp only [R.grfCtrl, R.grfSemS]
    omega

theorem semsFree_freed (gid task : Nat) (l : List Nat) (w : State) : Freed h p w (semsFree w p gid task l) :=
  Freed.foldl (fun i _ w => semUp_freed i gid task w) w

theorem slotsAbort_freed (owns : List Nat) (w : State) : Freed h p w (slotsAbort w h owns) := by
  unfold slotsAbort
  exact ((Freed.refl h p w).hput (by rfl) (by rfl)).trans (wasted_freed _ _)

end

/-! The tasks of a graph engine (R286, R307). -/

/-- The graph engine with `f` done to its task `id`. -/
def tasksMap (id : Nat) (f : Task → Task) (g : GraphEng) : GraphEng := { g with tasks := g.tasks.map (fun t => if t.id = id then f t else t) }

section
variable {id : Nat} {f : Task → Task} {g : GraphEng}

theorem find_tasksMap (hf : ∀ t, (f t).id = t.id) :
    (tasksMap id f g).tasks.find? (fun t => t.id = id) = (g.tasks.find? (fun t => t.id = id)).map f := by
  have hid : ((fun t : Task => decide (t.id = id)) ∘ fun t => if t.id = id then f t else t) = fun t => decide (t.id = id) := by
    funext t
    dsimp only [Function.comp]
    split <;> simp [hf]
  rw [tasksMap, List.find?_map, hid]
  cases h : g.tasks.find? (fun t => t.id = id) with
  | none => rfl
  | some t =>
    have ht : t.id = id := by simpa using List.find?_some h
    simp [ht]

theorem tasksMap_tasksMap {f' : Task → Task} (hf : ∀ t, (f' t).id = t.id) : tasksMap id f (tasksMap id f' g) = tasksMap id (f ∘ f') g := by
  unfold tasksMap
  dsimp only
  rw [List.map_map]
  congr 2
  funext t
  by_cases h : t.id = id <;> simp [h, hf]

theorem mem_tasksMap {k : Task} (hk : k ∈ (tasksMap id f g).tasks) (hid : k.id = id) :
    ∃ t ∈ g.tasks, t.id = id ∧ k = f t := by
  obtain ⟨t, ht, rfl⟩ := List.mem_map.1 hk
  split at hid
  · next h => exact ⟨t, ht, h, if_pos h⟩
  · next h => exact absurd hid h

end

/-! A hearth whose task has left it. -/

/-- From `s` to `t`, the task of hearth `h` has left it, and the graph engine of its partition `p` has become `g`: the other hearths keep their tasks,
and nothing that a calm device is asked changes. -/
structure TaskOff (s : State) (h p : Nat) (g : GraphEng) (t : State) : Prop where
  eq : t = { s with hearths := t.hearths, csr := t.csr, slices := t.slices, mcast := t.mcast, xlts := t.xlts, walks := t.walks, graphs := t.graphs }
  off : (hget t h).cur = none ∧ (hget t h).drain = none
  other : ∀ k, k ≠ h → (hget t k).cur = (hget s k).cur
  engine : gget t p = g
  ctrl : rd t (R.grfCtrl p) = rd s (R.grfCtrl p)

section
variable {s t u : State} {h p : Nat} {g : GraphEng}

theorem taskOff_hput (s : State) (h p : Nat) {x : Hearth} (hc : x.cur = none) (hd : x.drain = none) : TaskOff s h p (gget s p) (hput s h x) :=
  ⟨rfl, by rw [hget_hput_same]; exact ⟨hc, hd⟩, fun _ hk => congrArg Hearth.cur (hget_hput_other s hk x), rfl, rfl⟩

theorem TaskOff.freed (h1 : TaskOff s h p g t) (h2 : Freed h p t u) : TaskOff s h p g u where
  eq := by
    have hg : u.graphs = t.graphs := by rw [h2.eq]
    have e := h2.eq
    rw [h1.eq, ← hg] at e
    exact e
  off := ⟨h2.tasks.1.trans h1.off.1, h2.tasks.2.trans h1.off.2⟩
  other k hk := (congrArg Hearth.cur (h2.other k hk)).trans (h1.other k hk)
  engine := by
    rw [← h1.engine, h2.eq]
    rfl
  ctrl := h2.ctrl.trans h1.ctrl

theorem TaskOff.gmod (h1 : TaskOff s h p g t) (f : GraphEng → GraphEng) : TaskOff s h p (f g) (Machine.gmod t p f) where
  eq := by
    conv_lhs => rw [Machine.gmod, gput, h1.eq]
    rfl
  off := h1.off
  other := h1.other
  engine := by rw [gget_gmod_same, h1.engine]
  ctrl := h1.ctrl

theorem TaskOff.calm (h1 : TaskOff s h p g t) (hc : Calm s) : Calm t := by
  rw [h1.eq]
  exact hc.of rfl rfl rfl rfl rfl rfl rfl

end

/-! The end of a run (R307). -/

theorem grfAborts_freed (h p code : Nat) (w : State) : Freed h p w (grfBump w p (R.grfAbortsC p code) 1) :=
  (Freed.refl h p w).bump _ (by simp [R.grfCtrl, R.grfAbortsC]; omega) _ _

theorem grfReplays_freed (h p : Nat) (w : State) : Freed h p w (grfBump w p (R.grfReplays p) 1) :=
  (Freed.refl h p w).bump _ (by simp [R.grfCtrl, R.grfReplays]) _ _

/-- A task keeps the saturation flags of its last run (R92). -/
def satKept (r : TaskRun) (k : Task) : Task := { k with sat := r.sat }

theorem runAbort_off {s w : State} {h : Nat} {g : GraphEng} {r : TaskRun} (hw : TaskOff s h r.part g w) (code : Nat) :
    TaskOff s h r.part (tasksMap r.id (satKept r) g) (runAbort w h r code) := by
  have h1 : TaskOff s h r.part (tasksMap r.id (satKept r) g) (taskMod w r.part r.id (satKept r)) := hw.gmod _
  have h2 := h1.freed (streamsStop_freed r.id _)
  have h3 := h2.freed (handlesFree_freed r.bufs false _)
  have h4 := h3.freed (semsFree_freed r.graph r.id r.sems _)
  exact h4.freed (grfAborts_freed h r.part code _)

theorem hearthStop_off {s : State} {h : Nat} {r : TaskRun} (hcur : (hget s h).cur = some r) (hdrain : (hget s h).drain = none) (code : Nat) :
    TaskOff s h r.part (tasksMap r.id (satKept r) (gget s r.part)) (hearthStop s h code) := by
  have h1 : TaskOff s h r.part (gget s r.part)
      (hput s h { enginesAbort (hget s h) [r.id] with cur := none, drain := none }) := taskOff_hput s h r.part rfl rfl
  have h2 := runAbort_off (h1.freed (slotsAbort_freed [r.id] _)) code
  rw [hearthStop, hcur, hdrain]
  exact h2

/-- The hypotheses of an abort: task `t` of graph `gr`, which has not failed, runs alone on hearth `h` as `r`, and its replays last. -/
structure RunsAlone (s : State) (h : Nat) (r : TaskRun) (t : Task) (gr : Graph) : Prop where
  cur : (hget s h).cur = some r
  drain : (hget s h).drain = none
  task : taskGet s r.part r.id = some t
  graph : graphGet s r.part t.gid = some gr
  status : gr.status = 0
  replays : t.replays < grfReplayMax s r.part

section
variable {s : State} {h : Nat} {r : TaskRun} {t : Task} {gr : Graph}

theorem hearthAbort_alone (ha : RunsAlone s h r t gr) (code : Nat) :
    hearthAbort s h r.id code = taskAborted (hearthStop s h code) r.part r.id h code (coreNow s - r.start) := by
  simp [hearthAbort, ha.cur, ha.drain]

theorem taskGet_hearthStop (ha : RunsAlone s h r t gr) (code : Nat) : taskGet (hearthStop s h code) r.part r.id = some (satKept r t) := by
  rw [taskGet, (hearthStop_off ha.cur ha.drain code).engine, find_tasksMap (f := satKept r) fun _ => rfl]
  exact congrArg (Option.map (satKept r)) ha.task

theorem graphGet_hearthStop (ha : RunsAlone s h r t gr) (code : Nat) : graphGet (hearthStop s h code) r.part (satKept r t).gid = some gr := by
  rw [graphGet, (hearthStop_off ha.cur ha.drain code).engine]
  exact ha.graph

theorem grfReplayMax_hearthStop (ha : RunsAlone s h r t gr) (code : Nat) :
    grfReplayMax (hearthStop s h code) r.part = grfReplayMax s r.part := by
  rw [grfReplayMax, rdf, (hearthStop_off ha.cur ha.drain code).ctrl]
  rfl

end

/-! What follows from an abort (R307 step 6). -/

/-- The codes after which a task is replayed while its replays last. -/
def replayCodes : List Nat := [1, 2, 3, 6, 9]

section
variable {s w : State} {h p id code count : Nat} {t : Task} {gr : Graph} {g : GraphEng}

/-- A task of a graph that has not failed is requeued with one more replay. -/
theorem taskAborted_replays (ht : taskGet w p id = some t) (hg : graphGet w p t.gid = some gr) (hs : gr.status = 0) (hc : code ∈ replayCodes)
    (hr : t.replays < grfReplayMax w p) :
    taskAborted w p id h code count =
      requeue (grfBump (taskMod w p id (fun t => { t with lastAbort := code, sus := none })) p (R.grfReplays p) 1) p id
        (fun t => { t with replays := t.replays + 1 }) := by
  simp only [replayCodes, List.mem_cons, List.not_mem_nil, or_false] at hc
  obtain rfl | rfl | rfl | rfl | rfl := hc
  all_goals simp [taskAborted, ht, hg, hs, hr, preemptCount]

theorem taskAborted_holds (ht : taskGet w p id = some t) (hg : graphGet w p t.gid = some gr) (hs : gr.status = 0) (hsus : t.sus = none) :
    taskAborted w p id h 7 count =
      taskMod (taskMod w p id (fun t => { t with lastAbort := 7 })) p id (fun t => { t with place := .held, sus := some (h, true) }) := by
  simp [taskAborted, ht, hg, hs, hsus, preemptCount]

theorem TaskOff.taskMod (h1 : TaskOff s h p g w) (id : Nat) (f : Task → Task) : TaskOff s h p (tasksMap id f g) (Machine.taskMod w p id f) :=
  h1.gmod _

/-- The requeue of a task gives it the next stamp (R292). -/
theorem TaskOff.requeue (h1 : TaskOff s h p g w) (id : Nat) (f : Task → Task) :
    ∃ n g', TaskOff s h p g' (Machine.requeue w p id f) ∧
      g'.tasks = (tasksMap id (fun t => { f t with place := .ready, front := n }) g).tasks := by
  have hstamp := h1.gmod (fun g => { g with order := (gget w p).order + 1 })
  have hmap := hstamp.taskMod id (fun t => { f t with place := .ready, front := (gget w p).order + 1 })
  exact ⟨_, _, hmap, by rfl⟩

end

section
variable {s : State} {h : Nat} {r : TaskRun} {t : Task} {gr : Graph} {code : Nat}

/-- A task after an abort that is replayed, with the stamp `n`. -/
def replayed (r : TaskRun) (code n : Nat) (k : Task) : Task :=
  { k with sat := r.sat, lastAbort := code, sus := none, replays := k.replays + 1, place := .ready, front := n }

/-- A task after ABORT_WATCHDOG, held as a suspect of hearth `h` (R507, R516). -/
def suspected (r : TaskRun) (h : Nat) (k : Task) : Task := { k with sat := r.sat, lastAbort := 7, place := .held, sus := some (h, true) }

/-- The abort of a task that runs alone, with a code of R307 step 6, replays it. -/
theorem hearthAbort_replays (ha : RunsAlone s h r t gr) (hc : code ∈ replayCodes) :
    ∃ n g, TaskOff s h r.part g (hearthAbort s h r.id code) ∧ g.tasks = (tasksMap r.id (replayed r code n) (gget s r.part)).tasks := by
  have hstop := hearthStop_off ha.cur ha.drain code
  have hcount := (hstop.taskMod r.id (fun t => { t with lastAbort := code, sus := none })).freed (grfReplays_freed h r.part _)
  rw [hearthAbort_alone ha, taskAborted_replays (taskGet_hearthStop ha code) (graphGet_hearthStop ha code) ha.status hc
    (by rw [grfReplayMax_hearthStop ha]; exact ha.replays)]
  obtain ⟨n, g, hoff, htasks⟩ := hcount.requeue r.id (fun t => { t with replays := t.replays + 1 })
  refine ⟨n, g, hoff, htasks.trans ?_⟩
  rw [tasksMap_tasksMap, tasksMap_tasksMap]
  · rfl
  all_goals exact fun _ => rfl

/-- The abort of a task that runs alone, and is no suspect, with ABORT_WATCHDOG holds it. -/
theorem hearthAbort_holds (ha : RunsAlone s h r t gr) (hsus : t.sus = none) :
    ∃ g, TaskOff s h r.part g (hearthAbort s h r.id 7) ∧ g.tasks = (tasksMap r.id (suspected r h) (gget s r.part)).tasks := by
  have hstop := hearthStop_off ha.cur ha.drain 7
  rw [hearthAbort_alone ha, taskAborted_holds (taskGet_hearthStop ha 7) (graphGet_hearthStop ha 7) ha.status hsus]
  refine ⟨_, (hstop.taskMod _ _).taskMod _ _, ?_⟩
  rw [tasksMap_tasksMap, tasksMap_tasksMap]
  · rfl
  all_goals exact fun _ => rfl

end

/-! An abort that falls due in a command (R307, R507). -/

theorem suspectAgain_calm {s : State} (h : s.stk.susp = none) : suspectAgain s = s := by simp [suspectAgain, h]

/-- An abort that fell due is taken before the command ends, and on a calm device nothing else follows but the note of R448. -/
theorem settle_reqAbort {v : State} {h own code : Nat} (hv : Calm v) (hw : Calm (hearthAbort v h own code)) :
    settle (reqAbort v h own code) = settle (hearthAbort v h own code) := by
  have htake : settleAborts (reqAbort v h own code) = hearthAbort v h own code := by
    have hv' : ({ reqAbort v h own code with dueAborts := [] } : State) = v := by rw [reqAbort, ← hv.aborts]
    simp only [settleAborts, reqAbort, hv.aborts, List.nil_append, List.foldl_cons, List.foldl_nil]
    congr 1
    split
    · next b hb => simpa using congrArg (fun a : Nat × Nat × Nat => a.2.2) (List.mem_singleton.1 (List.mem_of_find?_eq_some hb))
    · rfl
  generalize hearthAbort v h own code = w at *
  have hnone : settleAborts w = w := by
    simp only [settleAborts, hw.aborts, List.foldl_nil]
    rw [← hw.aborts]
  have hrun : settleRun (reqAbort v h own code) = settleRun w := by
    unfold settleRun
    rw [suspectAgain_calm (s := reqAbort v h own code) hv.susp, suspectAgain_calm hw.susp, htake, hnone,
      show (reqAbort v h own code).dueHrt = [] from hv.faults, hw.faults]
  unfold settle
  rw [hrun, if_pos hw.run, if_pos (show (reqAbort v h own code).stk.phase = .run from hv.run)]

/-- A command whose effect makes an abort due leads to the abort. -/
theorem act_reqAbort {c : Prop} [Decidable c] {f : State → State} {s v : State} {h own code : Nat} (hc : Calm s) (hg : c)
    (e : f (quiet s) = reqAbort v h own code) (hv : Calm v) (hw : Calm (hearthAbort v h own code)) :
    ∃ u, act (only c f) s = .next u ∧ Follows s.pending (hearthAbort v h own code) u := by
  obtain ⟨u, hu, hf⟩ := ends_calm s hw
  refine ⟨u, ?_, hf⟩
  simp only [act, hc.run, only, hg, if_true, e]
  rw [← hu, ends, ends, settle_reqAbort hv hw]

/-! A command that notes an error in registers and then aborts a task that runs alone. -/

/-- From `s` to `v` only registers have changed, and the control register of the graph engine of partition `p` is as it was. -/
structure Noted (s : State) (p : Nat) (v : State) : Prop where
  eq : v = { s with csr := v.csr }
  ctrl : rd v (R.grfCtrl p) = rd s (R.grfCtrl p)

section
variable {s v w : State} {h p : Nat} {r : TaskRun} {t : Task} {gr : Graph}

theorem Noted.trans (h1 : Noted s p v) (h2 : Noted v p w) : Noted s p w :=
  ⟨by have e := h2.eq
      rw [h1.eq] at e
      exact e, h2.ctrl.trans h1.ctrl⟩

theorem noted_logErr (s : State) {l c : Reg} (hl : (R.grfCtrl p).addr ≠ l.addr) (hc : (R.grfCtrl p).addr ≠ c.addr) (x : Nat) :
    Noted s p (logErr s l c x) := ⟨logErr_eq _ _ _ _, rd_logErr_other _ hl hc _⟩

theorem noted_bump (s : State) {q : Reg} (hq : (R.grfCtrl p).addr ≠ q.addr) : Noted s p (stkBump s q) := ⟨rfl, rd_bump_other s _ hq _ _⟩

theorem noted_spdErr (s : State) (h kind mem ab port hd row word : Nat) : Noted s p (spdErr s h kind mem ab port hd row word) :=
  noted_logErr s (by simp only [R.grfCtrl, R.spdErrLog, blkBase]; omega) (by simp only [R.grfCtrl, R.spdErrCount, blkBase]; omega) _

theorem noted_engErr (s : State) (h eng kind abort own tile : Nat) : Noted s p (engErr s h eng kind abort own tile) := by
  unfold engErr
  dsimp only
  split
  · exact noted_logErr s (by simp only [R.grfCtrl, R.fluErrLog, blkBase]; omega) (by simp only [R.grfCtrl, R.fluErrCount, blkBase]; omega) _
  · exact noted_logErr s (by simp only [R.grfCtrl, R.blwErrLog, blkBase]; omega) (by simp only [R.grfCtrl, R.blwErrCount, blkBase]; omega) _

/-- What the watchdog of a task counts and records (R507). -/
theorem noted_watchdog (s : State) (kind h part task pos : Nat) : Noted s p (unitLog (stkBump s R.stkWdogTask) kind h part task pos) := by
  have hlt : R.stkWdogTask.addr < (R.grfCtrl p).addr := by
    unfold R.grfCtrl R.stkWdogTask blkBase
    dsimp only
    omega
  have hbump : Noted s p (stkBump s R.stkWdogTask) := noted_bump s hlt.ne'
  exact hbump.trans (noted_logErr _ (by simp only [R.grfCtrl, R.errUnitLog, blkBase]; omega)
    (by simp only [R.grfCtrl, R.errUnitCount, blkBase]; omega) _)

theorem RunsAlone.noted (ha : RunsAlone s h r t gr) (hv : Noted s r.part v) : RunsAlone v h r t gr where
  cur := by rw [hv.eq]; exact ha.cur
  drain := by rw [hv.eq]; exact ha.drain
  task := by rw [hv.eq]; exact ha.task
  graph := by rw [hv.eq]; exact ha.graph
  status := ha.status
  replays := by rw [grfReplayMax, rdf, hv.ctrl]; exact ha.replays

theorem RunsAlone.quiet (ha : RunsAlone s h r t gr) : RunsAlone (Machine.quiet s) h r t gr := ⟨ha.cur, ha.drain, ha.task, ha.graph, ha.status, ha.replays⟩

/-- What an abort leaves: the hearth has no task, every task `r.id` of its partition is as `f` makes a task of the state before, so is `t`, and the
other hearths keep their tasks. -/
structure Aborted (s : State) (h : Nat) (r : TaskRun) (t : Task) (f : Task → Task) (u : State) : Prop where
  cur : (hget u h).cur = none
  drain : (hget u h).drain = none
  all : ∀ k ∈ (gget u r.part).tasks, k.id = r.id → ∃ k0, k = f k0
  task : f t ∈ (gget u r.part).tasks
  other : ∀ k, k ≠ h → (hget u k).cur = (hget s k).cur

theorem taskGet_id {id : Nat} (ht : taskGet s p id = some t) : t.id = id := by simpa using List.find?_some ht

theorem Follows.aborted {q : List Instr} {u : State} {g : GraphEng} {f : Task → Task} (hf : Follows q w u) (hoff : TaskOff v h r.part g w)
    (hg : g.tasks = (tasksMap r.id f (Machine.gget v r.part)).tasks) (ha : RunsAlone v h r t gr) (hs : v.hearths = s.hearths) :
    Aborted s h r t f u where
  cur := by rw [hf.hget]; exact hoff.off.1
  drain := by rw [hf.hget]; exact hoff.off.2
  all k hk hid := by
    rw [hf.gget, hoff.engine, hg] at hk
    obtain ⟨k0, -, -, he⟩ := mem_tasksMap hk hid
    exact ⟨k0, he⟩
  task := by
    rw [hf.gget, hoff.engine, hg]
    exact List.mem_map.2 ⟨t, List.mem_of_find?_eq_some ha.task, if_pos (taskGet_id ha.task)⟩
  other k hk := by rw [hf.hget, hoff.other k hk, hget_congr hs]

/-- A command that notes an error and makes the abort of a task that runs alone due leads to the replay of the task. -/
theorem abort_completes {c : Prop} [Decidable c] {f : State → State} {code : Nat} (hc : Calm s) (hg : c) (ha : RunsAlone s h r t gr)
    (hcode : code ∈ replayCodes) (hv : Noted (Machine.quiet s) r.part v) (e : f (Machine.quiet s) = reqAbort v h r.id code) :
    ∃ u, act (only c f) s = .next u ∧ ∃ n, Aborted s h r t (replayed r code n) u := by
  have hcv : Calm v := hc.quiet.csr hv.eq
  have hav := ha.quiet.noted hv
  obtain ⟨n, g, hoff, htasks⟩ := hearthAbort_replays hav hcode
  obtain ⟨u, hu, hf⟩ := act_reqAbort hc hg e hcv (hoff.calm hcv)
  exact ⟨u, hu, n, hf.aborted hoff htasks hav (by rw [hv.eq]; rfl)⟩

theorem watchdog_completes (hh : h < 256) (hc : Calm s) (ha : RunsAlone s h r t gr) (hcomp : completes (hget s h) r = false) (hsus : t.sus = none) :
    Completes (.taskWatchdog h false) s (Aborted s h r t (suspected r h)) := by
  have hv := noted_watchdog (p := r.part) (Machine.quiet s) 4 h r.part r.id 0
  have hcv : Calm (unitLog (stkBump (Machine.quiet s) R.stkWdogTask) 4 h r.part r.id 0) := hc.quiet.csr hv.eq
  have heff : taskWatchdog (Machine.quiet s) h false = hearthAbort (unitLog (stkBump (Machine.quiet s) R.stkWdogTask) 4 h r.part r.id 0) h r.id 7 := by
    simp [taskWatchdog, ha.cur, hcomp]
  generalize unitLog (stkBump (Machine.quiet s) R.stkWdogTask) 4 h r.part r.id 0 = v at *
  have hav := ha.quiet.noted hv
  obtain ⟨g, hoff, htasks⟩ := hearthAbort_holds hav hsus
  obtain ⟨u, hu, hf⟩ := lead_act (f := fun t => taskWatchdog t h false) hc hh heff (hoff.calm hcv)
  exact ⟨u, hu, hf.aborted hoff htasks hav (by rw [hv.eq]; rfl)⟩

/-! The commands that abort (R130, R168, R307). -/

theorem taskAbort_completes {code : Nat} (hh : h < 256) (hc : Calm s) (ha : RunsAlone s h r t gr) (hcode : code ∈ replayCodes) :
    Completes (.taskAbort h false code) s (fun u => ∃ n, Aborted s h r t (replayed r code n) u) := by
  refine abort_completes (f := fun t => taskAbortOp t h false code) hc hh ha hcode ⟨rfl, rfl⟩ ?_
  have hne : code ≠ 0 ∧ ¬14 < code := by
    simp only [replayCodes, List.mem_cons, List.not_mem_nil, or_false] at hcode
    omega
  simp [taskAbortOp, ha.cur, hne]

section
variable {m row port : Nat}

theorem bankLate_refused (hm : m < 3) (hrow : row < memRows m) (ht : bankLateTask (hget s h) (port % 8) = some r.id)
    (hgr : bankGranted m row port = false) :
    bankLate s h m row port = reqAbort (spdErr s h 5 m 6 (port % 8) (hdlAt (hget s h).spd m row) row 0) h r.id 6 := by
  simp [bankLate, ht, hm, hrow, hgr]

theorem bankLate_granted (hm : m < 3) (hrow : row < memRows m) (ht : bankLateTask (hget s h) (port % 8) = some r.id)
    (hgr : bankGranted m row port = true) : bankLate s h m row port = spdBump s h (R.spdConflictM h m) (port / 8) := by
  simp [bankLate, ht, hm, hrow, hgr]

/-- A read granted within its slack counts the cycles that it waited. -/
theorem bankLate_counts (hh : h < 256) (hc : Calm s) (hm : m < 3) (hrow : row < memRows m) (ht : bankLateTask (hget s h) (port % 8) = some r.id)
    (hgr : bankGranted m row port = true) :
    Completes (.bankLate h m row port) s (fun u => u.hearths = s.hearths ∧ SameRegs s u [R.spdConflictM h m] ∧
      (bit (rd s (R.spdCtrl h)) 0 = false → rd u (R.spdConflictM h m) = (rd s (R.spdConflictM h m) + port / 8) % 2 ^ 48)) := by
  have hregs : ∀ q : Reg, q.addr ∉ [R.spdConflictM h m].map Reg.addr → rd (spdBump (Machine.quiet s) h (R.spdConflictM h m) (port / 8)) q = rd s q :=
    fun q hq => rd_bump_other _ _ (by simpa using hq) _ _
  have hcount := rd_bump_same (Machine.quiet s) (bit (rd (Machine.quiet s) (R.spdCtrl h)) 0) (R.spdConflictM h m) (port / 8) 48
  have hv : spdBump (Machine.quiet s) h (R.spdConflictM h m) (port / 8) =
      { Machine.quiet s with csr := (spdBump (Machine.quiet s) h (R.spdConflictM h m) (port / 8)).csr } := by
    unfold spdBump bump
    split <;> rfl
  obtain ⟨u, hu, hf⟩ := lead_act (f := fun t => bankLate t h m row port) hc hh
    (bankLate_granted (s := Machine.quiet s) hm hrow ht hgr) (hc.quiet.csr hv)
  have ho := RegsOnly.intro hc hf (by rw [quiet_eq hc.free] at hv ⊢; exact hv) hregs
  refine ⟨u, hu, by rw [ho.eq], ho.toSameRegs, fun hfrz => ?_⟩
  rw [hf.rd _ (by simp [noteRegs, R.prtErrLog, R.prtErrCount, R.spdConflictM, blkBase]; omega)]
  exact hcount.trans (by rw [rd_quiet, hfrz]; rfl)

end

/-- The due check of a tile that is late makes the abort of its task due, and records it (R168). -/
theorem dueCheck_late {e tile i : Nat} {st : Stream} (ha : RunsAlone s h r t gr) (hnext : (hget s h).next = none)
    (hst : (engGet (hget s h) e).cur = some st) (hown : st.own = r.id) (hlate : dueLate e tile st = some i) (hplan : r.plan = none) :
    attDue (dueCheck s h e tile) h e tile = reqAbort (engErr s h e 2 6 r.id i) h r.id 6 := by
  have hstart : (startOf (hget s h) r.id).isSome = true := by simp [startOf, ha.cur]
  have hhe : hget (engErr s h e 2 6 r.id i) h = hget s h := by rw [(noted_engErr (p := 0) s h e 2 6 r.id i).eq]; rfl
  have hdue : dueCheck s h e tile = reqAbort (engErr s h e 2 6 r.id i) h r.id 6 := by
    simp [dueCheck, hst, hstart, hlate, hown, engFail, engAbort, hhe, hnext]
  rw [hdue]
  simp [attDue, show hget (reqAbort (engErr s h e 2 6 r.id i) h r.id 6) h = hget s h from hhe, ha.cur, hplan]

end

/-- Settles O32: each of the four commands brings the abort of a task that runs alone (`abort_completes`, `watchdog_completes`), which is replayed
(`hearthAbort_replays`) or held (`hearthAbort_holds`); a read granted in time is counted (`bankLate_counts`). -/
theorem abortsTaken : Obligations.AbortsTaken := by
  unfold Obligations.AbortsTaken
  intro s h r t gr hh hc hcur hdrain hnext htask hgraph hstatus hrep P
  have ha : RunsAlone s h r t gr := ⟨hcur, hdrain, htask, hgraph, hstatus, hrep⟩
  have hP : ∀ {code : Nat} {c : Instr}, Completes c s (fun u => ∃ n, Aborted s h r t (replayed r code n) u) → Completes c s (P code) := by
    rintro code c ⟨u, hu, n, hab⟩
    refine ⟨u, hu, hab.cur, hab.drain, fun k hk hid => ?_, ⟨replayed r code n t, hab.task, taskGet_id (t := t) htask, rfl⟩, hab.other⟩
    obtain ⟨k0, rfl⟩ := hab.all k hk hid
    exact ⟨rfl, rfl⟩
  refine ⟨?abort, ?late, ?due, ?watchdog⟩
  case abort => exact fun code hcode => hP (taskAbort_completes hh hc ha hcode)
  case late =>
    intro m row port hm hrow ht
    refine ⟨fun hgr => hP ?_, bankLate_counts hh hc hm hrow ht⟩
    exact abort_completes (f := fun t => bankLate t h m row port) hc hh ha (by decide) (noted_spdErr _ _ _ _ _ _ _ _ _)
      (bankLate_refused (s := quiet s) hm hrow ht hgr)
  case due =>
    intro e tile st i he hst hown hlate hplan
    exact hP (abort_completes (f := fun t => attDue (dueCheck t h e tile) h e tile) hc (And.intro hh he) ha (by decide) (noted_engErr _ _ _ _ _ _ _)
      (dueCheck_late ha.quiet hnext hst hown hlate hplan))
  case watchdog =>
    intro hcomp hsus
    obtain ⟨u, hu, hab⟩ := watchdog_completes hh hc ha hcomp hsus
    refine ⟨u, hu, hab.cur, fun k hk hid => ?_⟩
    obtain ⟨k0, rfl⟩ := hab.all k hk hid
    exact ⟨rfl, rfl, rfl⟩

end Sys2Proof.Machine

/-!
SUPPORT and proofs for the descriptors of a stream (R160–R162, R171, R178–R180): the engines of a hearth, what a descriptor taken in hand leaves
unchanged, and O12.
-/

namespace Sys2Proof.Machine

/-! The engines of a hearth (R158). -/

section
variable (x : Hearth) (e : Nat) (g : Engine)

@[simp] theorem engGet_engPut_same : engGet (engPut x e g) e = g := by
  unfold engGet engPut
  split <;> exact tgetD_tput_same _ _ _ _

theorem engGet_engPut_other {j : Nat} (hj : j ≠ e) : engGet (engPut x e g) j = engGet x j := by
  unfold engGet engPut
  by_cases he : e < 8 <;> by_cases hj8 : j < 8 <;> simp only [he, hj8, if_true, if_false]
  · exact tgetD_tput_other _ hj _ _
  · exact tgetD_tput_other _ (by omega) _ _

theorem engPut_frame : engPut x e g = { x with flues := (engPut x e g).flues, bellows := (engPut x e g).bellows } := by
  unfold engPut
  split <;> rfl

@[simp] theorem engPut_spd : (engPut x e g).spd = x.spd := by rw [engPut_frame]

end

theorem streamPut_eq (s : State) (h e : Nat) (nx : Bool) (st : Stream) :
    streamPut s h e nx st = hput s h (engPut (hget s h) e (engineWith (hget s h) e nx st)) := rfl

/-! A stream that takes a descriptor (R159–R162). -/

/-- From `s` to `t` engine `e` of hearth `h` becomes `g`: of the device only that hearth, and the slices and groups that a member leaves, change; of the
hearth beside the engine only what it keeps of strides and hints. -/
structure EngineSet (s : State) (h e : Nat) (g : Engine) (t : State) : Prop where
  eq : t = { s with hearths := t.hearths, slices := t.slices, mcast := t.mcast }
  other : ∀ k, k ≠ h → hget t k = hget s k
  hearth : hget t h = { engPut (hget s h) e g with stride := (hget t h).stride, hints := (hget t h).hints }

section
variable {s t : State} {h e : Nat} {g : Engine}

theorem engineSet_streamPut (s : State) (h e : Nat) (nx : Bool) (st : Stream) :
    EngineSet s h e (engineWith (hget s h) e nx st) (streamPut s h e nx st) := by
  rw [streamPut_eq]
  exact ⟨rfl, fun k hk => hget_hput_other _ hk _, by rw [hget_hput_same]⟩

/-- What a hearth keeps of strides and hints is no part of the rest. -/
theorem EngineSet.learn (ht : EngineSet s h e g t) {f : Hearth → Hearth}
    (hf : ∀ x, f x = { x with stride := (f x).stride, hints := (f x).hints }) : EngineSet s h e g (hmod t h f) where
  eq := by
    have he := ht.eq
    rw [he]
    rfl
  other k hk := (hget_hmod_other _ hk _).trans (ht.other k hk)
  hearth := by
    rw [hget_hmod_same, hf, ht.hearth]

/-- From `s` to `t` only slices and multicast groups change. -/
structure Ungrouped (s t : State) : Prop where
  eq : t = { s with hearths := t.hearths, slices := t.slices, mcast := t.mcast }
  hearths : t.hearths = s.hearths

theorem Ungrouped.refl (s : State) : Ungrouped s s := ⟨rfl, rfl⟩

theorem Ungrouped.trans {u : State} (h1 : Ungrouped s t) (h2 : Ungrouped t u) : Ungrouped s u where
  eq := by
    have he := h2.eq
    rw [h1.eq] at he
    exact he
  hearths := h2.hearths.trans h1.hearths

theorem Ungrouped.foldl {α : Type} {f : State → α → State} (hf : ∀ a w, Ungrouped w (f w a)) (l : List α) (w : State) :
    Ungrouped w (l.foldl f w) := by
  induction l generalizing w with
  | nil => exact .refl w
  | cons a l ih => exact (hf a w).trans (ih (f w a))

theorem ungrouped_mcTrimAll (p g : Nat) (w : State) : Ungrouped w (mcTrimAll w p g) :=
  Ungrouped.foldl (fun sl w => (⟨rfl, rfl⟩ : Ungrouped w (slMod w sl _))) _ w

theorem ungrouped_mcPut (p g : Nat) (m : McGroup) (w : State) : Ungrouped w (mcPut w p g m) := ⟨rfl, rfl⟩

theorem ungrouped_mcLeave (j : Member) (w : State) : Ungrouped w (mcLeave w j) := by
  refine Ungrouped.foldl (fun key w => ?_) _ _
  unfold mcLeaveGroup
  dsimp only
  split_ifs
  · exact (ungrouped_mcPut _ _ _ _).trans (ungrouped_mcTrimAll _ _ _)
  · exact (ungrouped_mcPut _ _ _ _).trans (ungrouped_mcTrimAll _ _ _)
  · exact .refl w

theorem EngineSet.ungroup {u : State} (ht : EngineSet s h e g t) (hl : Ungrouped t u) : EngineSet s h e g u where
  eq := by
    have he := hl.eq
    rw [ht.eq] at he
    exact he
  other k hk := (hget_congr hl.hearths k).trans (ht.other k hk)
  hearth := by
    rw [hget_congr hl.hearths]
    exact ht.hearth

theorem engineSet_endTake (s : State) (h e : Nat) (nx : Bool) (st : Stream) :
    EngineSet s h e (engineWith (hget s h) e nx { descTake st none with buf := [], fly := [], ended := true }) (endTake s h e nx st) := by
  have h2 := (engineSet_streamPut s h e nx { descTake st none with buf := [], fly := [], ended := true }).ungroup
    (ungrouped_mcLeave ⟨h, e, st.own⟩ _)
  unfold endTake
  dsimp only
  split
  · exact h2.learn fun _ => rfl
  · exact h2

theorem EngineSet.strideLearn (ht : EngineSet s h e g t) (f d : Nat) : EngineSet s h e g (Machine.strideLearn t h f d) := by
  unfold Machine.strideLearn
  split
  · exact ht
  · exact ht.learn fun _ => rfl

theorem EngineSet.sinceStart (ht : EngineSet s h e g t) (own : Nat) : Machine.sinceStart t h own = Machine.sinceStart s h own := by
  have hnow : coreNow t = coreNow s := by rw [ht.eq]; rfl
  have hstart : startOf (hget t h) own = startOf (hget s h) own := by
    rw [ht.hearth, engPut_frame]
    rfl
  rw [Machine.sinceStart, hstart, hnow, Machine.sinceStart]

/-- The first due cycle of a descriptor reached for task `own` has not passed (R168). -/
def DueAhead (s : State) (h own : Nat) (en : Bool) (base : Int) : Prop := en = true → ∀ t, sinceStart s h own = some t → t ≤ base

theorem DueAhead.reach {own : Nat} {en : Bool} {base : Int} (hd : DueAhead s h own en base) (ht : EngineSet s h e g t) :
    dueAtReach t h e own en base = t := by
  unfold dueAtReach
  split
  case h_1 t' hs => exact if_neg (not_lt.2 (hd rfl _ (ht.sinceStart own ▸ hs)))
  case h_2 => rfl

/-- A command of one engine of a hearth: the rest of the hearth and of the device that O12 speaks of is as it was. -/
theorem EngineSet.completes {c : Prop} [Decidable c] {f : State → State} {v : State} (hv : EngineSet (quiet s) h e g v) (hc : Calm s) (hg : c)
    (hf : f (quiet s) = v) :
    ∃ u, act (only c f) s = .next u ∧ (∀ k, k ≠ h → hget u k = hget s k) ∧ u.hbm = s.hbm ∧ (hget u h).spd = (hget s h).spd ∧
      engGet (hget u h) e = g ∧ ∀ j, j < 10 → j ≠ e → engGet (hget u h) j = engGet (hget s h) j := by
  have hcv : Calm v := by
    rw [hv.eq]
    exact hc.quiet.of rfl rfl rfl rfl rfl rfl rfl
  obtain ⟨u, hu, hfol⟩ := lead_act hc hg hf hcv
  have hx : hget u h = { engPut (hget s h) e g with stride := (hget v h).stride, hints := (hget v h).hints } := (hfol.hget h).trans hv.hearth
  refine ⟨u, hu, fun k hk => (hfol.hget k).trans (hv.other k hk), ?_, ?_, ?_, fun j _ hj => ?_⟩
  · rw [hfol.eq, hv.eq]
    rfl
  · rw [hx]
    exact engPut_spd _ _ _
  · rw [hx]
    exact engGet_engPut_same _ _ _
  · rw [hx]
    exact engGet_engPut_other _ _ _ hj

end

/-! The descriptors (R161, R162, R171, R178–R180). -/

section
variable {s : State} {h e d : Nat} {st : Stream} {nx : Bool}

/-- A stream with the IN descriptor `d` in hand; the first of a stream is remembered (R176). -/
def inTake (st : Stream) (d : Nat) : Stream :=
  { descTake st (some d) with firstIn := if st.firstIn.isNone then some d else st.firstIn }

/-- A stream at its END (R159). -/
def endTaken (st : Stream) : Stream := { descTake st none with buf := [], fly := [], ended := true }

/-- The state once a flue has taken an IN descriptor, before it looks at the first due cycle: the first of a stream teaches its stride (R176). -/
def inTaken (s : State) (h e : Nat) (nx : Bool) (st : Stream) (d : Nat) : State :=
  if st.firstIn.isNone then strideLearn (streamPut s h e nx (inTake st d)) h e d else streamPut s h e nx (inTake st d)

theorem engineSet_inTaken (s : State) (h e : Nat) (nx : Bool) (st : Stream) (d : Nat) :
    EngineSet s h e (engineWith (hget s h) e nx (inTake st d)) (inTaken s h e nx st d) := by
  have h1 := engineSet_streamPut s h e nx (inTake st d)
  unfold inTaken
  split
  · exact h1.strideLearn e d
  · exact h1

variable (hd : descHead s h e = some (st, nx, d))
include hd

theorem flueIn_takes (hk : fdKind d = 1) (hb : fdInBad d = false)
    (hh : streamHdl (hget s h).spd st.own (fdHandle d) (fdTileRows d) = true) (hdue : DueAhead s h st.own (fdDueEn d) (fdDueBase d)) :
    flueIn s h e = inTaken s h e nx st d := by
  have hreach := hdue.reach (engineSet_inTaken s h e nx st d)
  rw [← hreach]
  simp [flueIn, hd, hk, hb, hh, inTaken, inTake]

theorem flueOut_takes (hk : fdKind d = 2) (hb : fdOutBad d = false)
    (hh : streamHdl (hget s h).spd st.own (fdHandle d) (fdTileRows d) = true) :
    flueOut s h e = streamPut s h e nx (descTake st (some d)) := by
  simp [flueOut, hd, hk, hb, hh]

theorem flueLink_takes (hk : fdKind d = 3) (hb : fdLinkBad d = false) : flueLink s h e = streamPut s h e nx (linkTake st (fdNext d)) := by
  simp [flueLink, hd, hk, hb]

theorem flueEnd_takes (hk : fdKind d = 4) (hb : fdEndBad d = false) (hs : st.skip = []) : flueEnd s h e = endTake s h e nx st := by
  simp [flueEnd, hd, hk, hb, hs]

end

section
variable {s : State} {h b d : Nat} {st : Stream} {nx : Bool}
variable (hd : descHead s h (8 + b) = some (st, nx, d))
include hd

theorem blwGather_takes (hk : fdKind d = 1) (hb : bdWorkBad d = false) (hh : blwHdls (hget s h).spd st.own d = true)
    (hdue : DueAhead s h st.own (bdDueEn d) (bdDueBase d)) :
    blwGather s h b = streamPut s h (8 + b) nx (descTake st (some d)) := by
  simp [blwGather, hd, hk, hb, hh, hdue.reach (engineSet_streamPut s h (8 + b) nx (descTake st (some d)))]

theorem blwScatter_takes (hk : fdKind d = 2) (hb : bdWorkBad d = false) (hh : blwHdls (hget s h).spd st.own d = true) :
    blwScatter s h b = streamPut s h (8 + b) nx (descTake st (some d)) := by
  simp [blwScatter, hd, hk, hb, hh]

theorem blwLink_takes (hk : fdKind d = 3) (hb : bdLinkBad d = false) : blwLink s h b = streamPut s h (8 + b) nx (linkTake st (bdNext d)) := by
  simp [blwLink, hd, hk, hb]

theorem blwEnd_takes (hk : fdKind d = 4) (hb : fdEndBad d = false) (hs : st.skip = []) : blwEnd s h b = endTake s h (8 + b) nx st := by
  simp [blwEnd, hd, hk, hb, hs]

end

/-- Settles O12: each descriptor that meets its checks sets its engine's issuing stream (`flueIn_takes` to `blwEnd_takes`) and nothing else that the
statement speaks of (`EngineSet.completes`). -/
theorem descriptorsTaken : Obligations.DescriptorsTaken := by
  unfold Obligations.DescriptorsTaken
  intro s h e d st nx hh he hc hd sp P notLate
  have put : ∀ st', EngineSet (quiet s) h e (engineWith (hget s h) e nx st') (streamPut (quiet s) h e nx st') :=
    engineSet_streamPut (quiet s) h e nx
  have ended : EngineSet (quiet s) h e (engineWith (hget s h) e nx (endTaken st)) (endTake (quiet s) h e nx st) :=
    engineSet_endTake (quiet s) h e nx st
  refine ⟨?flueIn, ?flueOut, ?flueLink, ?flueEnd, ?gather, ?scatter, ?blwLink, ?blwEnd⟩
  case flueIn =>
    intro h8 hk hb hhdl hdue
    exact (engineSet_inTaken (quiet s) h e nx st d).completes (f := fun t => flueIn t h e) hc (And.intro hh h8)
      (flueIn_takes (s := quiet s) hd hk hb hhdl hdue)
  case flueOut =>
    intro h8 hk hb hhdl
    exact (put _).completes (f := fun t => flueOut t h e) hc (And.intro hh h8) (flueOut_takes (s := quiet s) hd hk hb hhdl)
  case flueLink =>
    intro h8 hk hb
    exact (put _).completes (f := fun t => flueLink t h e) hc (And.intro hh h8) (flueLink_takes (s := quiet s) hd hk hb)
  case flueEnd =>
    intro h8 hk hb hs
    exact ended.completes (f := fun t => flueEnd t h e) hc (And.intro hh h8) (flueEnd_takes (s := quiet s) hd hk hb hs)
  all_goals
    intro h8
    obtain ⟨b, rfl⟩ := Nat.exists_eq_add_of_le h8
    rw [Nat.add_sub_cancel_left]
    have hb2 : h < 256 ∧ b < 2 := ⟨hh, by omega⟩
  case gather =>
    intro hk hb hhdl hdue
    exact (put _).completes (f := fun t => blwGather t h b) hc hb2 (blwGather_takes (s := quiet s) hd hk hb hhdl hdue)
  case scatter =>
    intro hk hb hhdl
    exact (put _).completes (f := fun t => blwScatter t h b) hc hb2 (blwScatter_takes (s := quiet s) hd hk hb hhdl)
  case blwLink =>
    intro hk hb
    exact (put _).completes (f := fun t => blwLink t h b) hc hb2 (blwLink_takes (s := quiet s) hd hk hb)
  case blwEnd =>
    intro hk hb hs
    exact ended.completes (f := fun t => blwEnd t h b) hc hb2 (blwEnd_takes (s := quiet s) hd hk hb hs)

end Sys2Proof.Machine

/-!
SUPPORT and proofs for the requests that leave a hearth (R162–R166, R171, R176, R179, R180, R214): what an issue cycle does beside the request, the
request in the queue of its home slice (log 16), and each way in which one leaves.
-/

namespace Sys2Proof.Machine

/-! Beside the request. -/

/-- From `s` to `t` hearth `h` has looked at its engines and its rows: their streams and causes, the marks of rows read, and counters may differ, an
armed injection does not. -/
structure Paced (h : Nat) (s t : State) : Prop where
  eq : t = { s with hearths := t.hearths, csr := t.csr }
  marked : Marked (hget s h) (hget t h)
  inject : rd t R.errInject = rd s R.errInject

/-- From `s` to `t` hearth `h` keeps its outstanding requests, their next number and its partition; beside hearths and registers nothing changes. -/
structure Beside (h : Nat) (s t : State) : Prop where
  eq : t = { s with hearths := t.hearths, csr := t.csr }
  reqs : (hget t h).reqs = (hget s h).reqs
  nextId : (hget t h).nextId = (hget s h).nextId
  part : (hget t h).part = (hget s h).part

section
variable {s t u : State} {h : Nat}

theorem Paced.refl (h : Nat) (s : State) : Paced h s s := ⟨rfl, rfl, rfl⟩

theorem Paced.trans (h1 : Paced h s t) (h2 : Paced h t u) : Paced h s u where
  eq := by
    have he := h2.eq
    rw [h1.eq] at he
    exact he
  marked := h1.marked.trans h2.marked
  inject := h2.inject.trans h1.inject

theorem paced_hput {x : Hearth} (hx : Marked (hget s h) x) : Paced h s (hput s h x) := ⟨rfl, by rwa [hget_hput_same], rfl⟩

theorem paced_bump (s : State) (h : Nat) (frz : Bool) {r : Reg} (hr : R.errInject.addr < r.addr) (n w : Nat) : Paced h s (bump s frz r n w) :=
  ⟨by cases frz <;> rfl, by rw [hget_bump]; rfl, rd_bump_other _ _ hr.ne _ _⟩

theorem Paced.foldl {α : Type} {f : State → α → State} (hf : ∀ a w, Paced h w (f w a)) (l : List α) (s : State) : Paced h s (l.foldl f s) := by
  induction l generalizing s with
  | nil => exact .refl h s
  | cons a l ih => exact (hf a s).trans (ih (f s a))

theorem Paced.injKind (hp : Paced h s t) (b i : Nat) : Machine.injKind t b i = Machine.injKind s b i := by
  unfold Machine.injKind
  rw [hp.inject]

theorem Paced.spd (hp : Paced h s t) : (hget t h).spd = (hget s h).spd := by rw [hp.marked]

theorem Paced.staleHit (hp : Paced h s t) (m row n : Nat) : Machine.staleHit (hget t h) m row n = Machine.staleHit (hget s h) m row n :=
  staleHit_congr (by rw [hp.marked]) m row n

theorem Paced.beside (hp : Paced h s t) : Beside h s t := ⟨hp.eq, by rw [hp.marked], by rw [hp.marked], by rw [hp.marked]⟩

theorem Beside.trans (h1 : Beside h s t) (h2 : Beside h t u) : Beside h s u where
  eq := by
    have he := h2.eq
    rw [h1.eq] at he
    exact he
  reqs := h2.reqs.trans h1.reqs
  nextId := h2.nextId.trans h1.nextId
  part := h2.part.trans h1.part

theorem beside_hput {x : Hearth} (hr : x.reqs = (hget s h).reqs) (hn : x.nextId = (hget s h).nextId) (hp : x.part = (hget s h).part) :
    Beside h s (hput s h x) := ⟨rfl, by rwa [hget_hput_same], by rwa [hget_hput_same], by rwa [hget_hput_same]⟩

theorem marked_engPut (x : Hearth) (e : Nat) (g : Engine) : Marked x (engPut x e g) := by
  unfold engPut
  split <;> rfl

theorem paced_engPut (s : State) (h e : Nat) (g : Engine) : Paced h s (hput s h (engPut (hget s h) e g)) := paced_hput (marked_engPut _ e g)

theorem paced_streamPut (s : State) (h e : Nat) (nx : Bool) (st : Stream) : Paced h s (streamPut s h e nx st) := paced_engPut s h e _

theorem paced_fluBump (s : State) (h : Nat) {r : Reg} (hr : R.errInject.addr < r.addr) (n w : Nat) : Paced h s (fluBump s h r n w) :=
  paced_bump s h _ hr n w

theorem paced_blwBump (s : State) (h : Nat) {r : Reg} (hr : R.errInject.addr < r.addr) (n w : Nat) : Paced h s (blwBump s h r n w) :=
  paced_bump s h _ hr n w

end

/-! The counters of the FLU_ and BLW_ blocks lie above ERR_INJECT. -/

section
variable (h i j : Nat)

theorem errInject_lt_flu {n : Nat} : R.errInject.addr < blkBase .flu h + n := by simp only [R.errInject, blkBase]; omega
theorem errInject_lt_blw {n : Nat} : R.errInject.addr < blkBase .blw h + n := by simp only [R.errInject, blkBase]; omega

theorem fluReqs_above : R.errInject.addr < (R.fluReqs h).addr := errInject_lt_flu h
theorem fluBursts_above : R.errInject.addr < (R.fluBursts h).addr := errInject_lt_flu h
theorem fluHintBytes_above : R.errInject.addr < (R.fluHintBytes h).addr := errInject_lt_flu h
theorem fluBytesOut_above : R.errInject.addr < (R.fluBytesOutF h i).addr := (errInject_lt_flu h).trans_le (Nat.le_add_right _ _)
theorem fluTiles_above : R.errInject.addr < (R.fluTilesF h i).addr := (errInject_lt_flu h).trans_le (Nat.le_add_right _ _)
theorem fluStall_above : R.errInject.addr < (R.fluStallC h i).addr := (errInject_lt_flu h).trans_le (Nat.le_add_right _ _)
theorem blwStall_above : R.errInject.addr < (R.blwStallBC h i j).addr :=
  (errInject_lt_blw h).trans_le ((Nat.le_add_right _ _).trans (Nat.le_add_right _ _))
theorem blwElems_above : R.errInject.addr < (R.blwElemsB h i).addr := (errInject_lt_blw h).trans_le (Nat.le_add_right _ _)
theorem blwBytes_above : R.errInject.addr < (R.blwBytesB h i).addr := (errInject_lt_blw h).trans_le (Nat.le_add_right _ _)

end

/-! The cycle of engines that issue nothing (R181). -/

section
variable {s : State} {h : Nat}

theorem paced_stall (s : State) (h e cause : Nat) : Paced h s (stall s h e cause) := by
  have h1 : Paced h s (hmod s h (fun x => engPut x e { engGet x e with cause := cause, seen := true })) := paced_engPut s h e _
  unfold stall
  dsimp only
  split_ifs
  · exact h1
  · exact h1.trans (paced_fluBump _ _ (fluStall_above h cause) _ _)
  · exact h1.trans (paced_blwBump _ _ (blwStall_above h _ cause) _ _)

theorem paced_stallLook (s : State) (h e : Nat) (l : Look) (lost : Bool) : Paced h s (stallLook s h e l lost) := by
  cases l with
  | idle =>
    simp only [stallLook]
    split
    · exact paced_stall s h e 15
    · exact .refl h s
  | other => exact .refl h s
  | wait c => exact paced_stall s h e c
  | ready c => exact paced_stall s h e _

theorem paced_stallAll (s : State) (h : Nat) (ls : List (Nat × Look)) (best : Option Cand) : Paced h s (stallAll s h ls best) := by
  refine Paced.foldl (fun e w => ?_) ls s
  cases best with
  | none => exact paced_stallLook w h e.1 e.2 false
  | some c =>
    dsimp only
    split
    · exact .refl h w
    · exact paced_stallLook w h e.1 e.2 _

/-- A read of rows with no injection armed and no stale source leaves marks only. -/
theorem portRead_paced {own port m : Nat} {segs : List (Nat × Nat)} (hi : injKind s 3 h = none)
    (hs : ∀ g ∈ segs, staleHit (hget s h) m g.1 g.2 = none) : ∃ t, portRead s h own port m segs = (t, true) ∧ Paced h s t := by
  obtain ⟨hok, ⟨-, hread⟩ | hread⟩ := portRead_ok (own := own) (port := port) hi segs hs
  · exact ⟨s, Prod.ext hread hok, .refl h s⟩
  · exact ⟨_, Prod.ext hread hok, paced_hput (marked_rowsReads port m segs _)⟩

end

/-! A request leaves for its home slice (R163, R197). -/

/-- The request `q` of hearth `h` as it stands in the queue of its home slice. -/
def queued (s : State) (h : Nat) (q : HReq) (data : List Byte) (alloc : Bool) (mc : Nat) (replay due : Bool) : MReq :=
  ⟨h, q.id, q.kind = .write, q.kind = .hint, hPart (hget s h), q.pa, q.len, data, alloc, mc, q.k, q.eng, q.own, replay, due, telNow s⟩

/-- From `s` to `t` hearth `h` has one more outstanding request, `q`, and the queue of its home slice one more, `r`. -/
structure ReqSent (s : State) (h : Nat) (q : HReq) (r : MReq) (t : State) : Prop where
  eq : t = { s with hearths := t.hearths, csr := t.csr, slices := t.slices }
  reqs : (hget t h).reqs = (hget s h).reqs ++ [q]
  nextId : (hget t h).nextId = (hget s h).nextId + 1
  slices : ∀ sl, (slGet t sl).reqs = if sl = homeSlice s.hbm.dead q.pa then (slGet s sl).reqs ++ [r] else (slGet s sl).reqs

section
variable {s w t u : State} {h : Nat} {q : HReq} {r : MReq}

theorem slGet_slMod_other (s : State) {sl k : Nat} (hk : k ≠ sl) (f : Slice → Slice) : slGet (slMod s sl f) k = slGet s k :=
  tgetD_tput_other _ hk _ _

theorem sendReq_sent (s : State) (h : Nat) (q : HReq) (data : List Byte) (alloc : Bool) (mc : Nat) (replay due : Bool) :
    ReqSent s h q (queued s h q data alloc mc replay due) (sendReq s h q data alloc mc replay due false) := by
  have hx : hget (sendReq s h q data alloc mc replay due false) h =
      { hget s h with reqs := (hget s h).reqs ++ [q], nextId := (hget s h).nextId + 1 } :=
    hget_hput_same s h { hget s h with reqs := (hget s h).reqs ++ [q], nextId := (hget s h).nextId + 1 }
  refine ⟨rfl, by rw [hx], by rw [hx], fun sl => ?_⟩
  simp only [sendReq, Bool.false_eq_true, if_false]
  split
  case isTrue hsl =>
    rw [hsl, slGet_slMod_same]
    rfl
  case isFalse hsl =>
    rw [slGet_slMod_other _ hsl]
    rfl

theorem Beside.queued (hb : Beside h w s) (q : HReq) (data : List Byte) (alloc : Bool) (mc : Nat) (replay due : Bool) :
    Machine.queued s h q data alloc mc replay due = Machine.queued w h q data alloc mc replay due := by
  have hnow : telNow s = telNow w := by rw [hb.eq]; rfl
  simp only [Machine.queued, hPart, hb.part, hnow]

theorem Beside.candReq (hb : Beside h w s) (c : Cand) (kind : ReqKind) (pool : Bool) :
    Machine.candReq s h c kind pool = Machine.candReq w h c kind pool := by
  have hdead : s.hbm = w.hbm := by rw [hb.eq]
  simp only [Machine.candReq, hb.nextId, hdead]

/-- What a hearth does beside the request may come before it. -/
theorem ReqSent.before (hr : ReqSent s h q r t) (hb : Beside h w s) : ReqSent w h q r t where
  eq := by
    have he := hr.eq
    rw [hb.eq] at he
    exact he
  reqs := by rw [hr.reqs, hb.reqs]
  nextId := by rw [hr.nextId, hb.nextId]
  slices sl := by
    have hsl : slGet s sl = slGet w sl := slGet_congr (by rw [hb.eq]) sl
    rw [hr.slices, hsl, show s.hbm = w.hbm by rw [hb.eq]]

/-- What a hearth does beside the request may come after it. -/
theorem ReqSent.after (hr : ReqSent s h q r t) (hb : Beside h t u) : ReqSent s h q r u where
  eq := by
    have hsl : u.slices = t.slices := by rw [hb.eq]
    have he := hb.eq
    rw [hr.eq] at he
    rw [hsl]
    exact he
  reqs := hb.reqs.trans hr.reqs
  nextId := hb.nextId.trans hr.nextId
  slices sl := by
    have hsl : slGet u sl = slGet t sl := slGet_congr (by rw [hb.eq]) sl
    rw [hsl, hr.slices]

/-- A request sent between what a hearth does before it and after it. -/
theorem sendReq_between {data : List Byte} {alloc : Bool} {mc : Nat} {replay due : Bool} (h1 : Beside h w s)
    (h2 : Beside h (sendReq s h q data alloc mc replay due false) u) : ReqSent w h q (Machine.queued w h q data alloc mc replay due) u := by
  rw [← h1.queued]
  exact ((sendReq_sent s h q data alloc mc replay due).before h1).after h2

end

/-! The five ways a request leaves. -/

section
variable {w : State} {h : Nat} {c : Cand}

/-- The rows that a request reads show no armed injection and no stale source (R147, R170). -/
def RowsOk (w : State) (h m : Nat) (rows : List Nat) : Prop := injKind w 3 h = none ∧ ∀ r ∈ rows, staleHit (hget w h) m r 1 = none

theorem RowsOk.paced {t : State} {m : Nat} {rows : List Nat} (hr : RowsOk w h m rows) (hp : Paced h w t) : RowsOk t h m rows :=
  ⟨(hp.injKind 3 h).trans hr.1, fun r hm => (hp.staleHit m r 1).trans (hr.2 r hm)⟩

theorem RowsOk.read {own m : Nat} {rows : List Nat} (hr : RowsOk w h m rows) : ∃ t, indexRead w h own m rows = (t, true) ∧ Paced h w t :=
  portRead_paced hr.1 (by simpa using hr.2)

theorem burstIssue_sends (w : State) (h : Nat) (c : Cand) :
    ReqSent w h (candReq w h c .burst false) (queued w h (candReq w h c .burst false) [] true 0 c.st.replay (streamDue c.eng c.st))
      (burstIssue w h c) :=
  sendReq_between (paced_streamPut w h c.eng c.nx _).beside
    ((paced_stall _ h c.eng 15).trans ((paced_fluBump _ h (fluReqs_above h) _ _).trans (paced_fluBump _ h (fluBursts_above h) _ _))).beside

theorem watchHold_frame (x : Hearth) (own eng tile frame gen : Nat) (keys : List Nat) :
    watchHold x own eng tile frame gen keys = { x with watch := (watchHold x own eng tile frame gen keys).watch } := by
  unfold watchHold
  split
  · split <;> rfl
  · rfl

/-- A read holds its watch entry, and where it starts a tile or slot reserves it: its hearth is beside that as it was (R137, R169). -/
theorem beside_watchHold (w : State) (h own eng tile frame gen : Nat) (keys : List Nat) :
    Beside h w (hput w h (watchHold (hget w h) own eng tile frame gen keys)) := by
  rw [watchHold_frame]
  exact beside_hput rfl rfl rfl

theorem beside_reserve (w : State) (h : Nat) (sp : Scratch) (new : List Nat) (first rows own eng tile frame gen : Nat) (keys : List Nat) :
    Beside h w (hput w h (watchHold (landNeed { hget w h with spd := sp } new first rows) own eng tile frame gen keys)) := by
  rw [watchHold_frame]
  exact beside_hput rfl rfl rfl

theorem flueIssue_sends (w : State) (h : Nat) (c : Cand) :
    ReqSent w h (candReq w h c .tile false)
      (queued w h (candReq w h c .tile false) [] (fdAlloc c.req.d) (fdMcast c.req.d) c.st.replay (fdDueEn c.req.d)) (flueIssue w h c) := by
  unfold flueIssue
  dsimp only
  refine sendReq_between (Beside.trans ?_ (paced_streamPut _ h c.eng c.nx _).beside)
    ((paced_stall _ h c.eng 15).trans (paced_fluBump _ h (fluReqs_above h) _ _)).beside
  split
  · exact beside_watchHold _ _ _ _ _ _ _ _
  · exact beside_reserve _ _ _ _ _ _ _ _ _ _ _ _

theorem gatherIssue_sends (hlen : c.req.len ≠ 0) (hidx : RowsOk w h (hdMem (hdl (hget w h).spd (bdIdx c.req.d))) c.idx) :
    ReqSent w h (candReq w h c .elem (!bdMode c.req.d))
      (queued w h (candReq w h c .elem (!bdMode c.req.d)) [] (bdAlloc c.req.d) 0 c.st.replay (bdDueEn c.req.d)) (gatherIssue w h c) := by
  obtain ⟨t, hread, hp⟩ := hidx.read (own := c.st.own)
  unfold gatherIssue
  simp only [hread, hlen, if_false, hp.beside.candReq]
  split
  · refine sendReq_between (hp.beside.trans (Beside.trans ?_ (paced_streamPut _ h c.eng c.nx _).beside))
      ((paced_stall _ h c.eng 15).trans (paced_fluBump _ h (fluReqs_above h) _ _)).beside
    exact beside_reserve _ _ _ _ _ _ _ _ _ _ _ _
  · refine sendReq_between (hp.beside.trans (Beside.trans ?_ (paced_streamPut _ h c.eng c.nx _).beside))
      (paced_stall _ h c.eng 15).beside
    exact beside_reserve _ _ _ _ _ _ _ _ _ _ _ _

/-- The request of a write, which has no destination on the hearth. -/
def writeReq (w : State) (h : Nat) (c : Cand) : HReq := { candReq w h c .write (decide (8 ≤ c.eng)) with dst := 0 }

theorem writeLost_no {e : Nat} (hi : injKind w (if e < 8 then 4 else 5) h ≠ some 4) : writeLost w h e = (false, w) := if_neg hi

theorem outIssue_sends (he : c.eng < 8) (hi : injKind w 4 h ≠ some 4) :
    ReqSent w h (writeReq w h c)
      (queued w h (writeReq w h c) ((c.st.outData.drop c.st.off).take c.req.len) (fdAlloc c.req.d) 0 c.st.replay false) (outIssue w h c) := by
  have hlost : writeLost w h c.eng = (false, w) := writeLost_no (by rwa [if_pos he])
  have hq : writeReq w h c = { candReq w h c .write false with dst := 0 } := by
    rw [writeReq, decide_eq_false (Nat.not_le.2 he)]
  unfold outIssue
  simp only [hlost, ← hq]
  have hbytes : ∀ v, Paced h v (fluBump (stall v h c.eng 15) h (R.fluBytesOutF h c.eng) c.req.len 64) := fun v =>
    (paced_stall v h c.eng 15).trans (paced_fluBump _ h (fluBytesOut_above h c.eng) c.req.len 64)
  split
  · exact sendReq_between (paced_streamPut w h c.eng c.nx _).beside ((hbytes _).trans (paced_fluBump _ h (fluTiles_above h c.eng) _ _)).beside
  · exact sendReq_between (paced_streamPut w h c.eng c.nx _).beside (hbytes _).beside

theorem scatterIssue_sends (he : 8 ≤ c.eng) (hlen : c.req.len ≠ 0) (hi : injKind w 5 h ≠ some 4)
    (hidx : RowsOk w h (hdMem (hdl (hget w h).spd (bdIdx c.req.d))) c.idx) (hsrc : RowsOk w h c.req.mem [c.req.row]) :
    ReqSent w h (writeReq w h c)
      (queued w h (writeReq w h c) (rowGet (hget w h).spd c.req.mem c.req.row) (bdAlloc c.req.d) 0 c.st.replay false) (scatterIssue w h c) := by
  obtain ⟨t, hread, hp⟩ := hidx.read (own := c.st.own)
  obtain ⟨v, hsource, hp'⟩ := portRead_paced (own := c.st.own) (port := 11) (m := c.req.mem) (segs := [(c.req.row, 1)])
    (hsrc.paced hp).1 (by simpa using (hsrc.paced hp).2)
  have hall : Paced h w v := hp.trans hp'
  have hlost : writeLost v h c.eng = (false, v) := writeLost_no (by rw [if_neg (Nat.not_lt.2 he), hall.injKind]; exact hi)
  have hq : { candReq v h c .write true with dst := 0 } = writeReq w h c := by
    rw [hall.beside.candReq, writeReq, decide_eq_true he]
  unfold scatterIssue
  simp only [hread, hsource, hlen, hlost, hq, hall.spd, if_false]
  have hbytes : ∀ v, Paced h v (blwBump (stall v h c.eng 15) h (R.blwBytesB h (c.eng - 8)) 64 64) := fun v =>
    (paced_stall v h c.eng 15).trans (paced_blwBump _ h (blwBytes_above h (c.eng - 8)) 64 64)
  have hbefore := hall.beside.trans (paced_streamPut v h c.eng c.nx c.next).beside
  split
  · exact sendReq_between hbefore ((hbytes _).trans (paced_blwBump _ h (blwElems_above h _) _ _)).beside
  · exact sendReq_between hbefore (hbytes _).beside

end

end Sys2Proof.Machine

/-!
SUPPORT and proofs for the cycles in which requests leave a hearth (R163–R165, R176, R179, R180): the engine that a candidate is of, the candidate that
a cycle issues, and O13.
-/

namespace Sys2Proof.Machine

/-! A candidate is of the engine that was looked at (R165). -/

/-- A candidate that engine `e` comes to is its own. -/
def Look.Of (e : Nat) : Look → Prop
  | .ready c => c.eng = e
  | _ => True

section
variable {e n : Nat} {c : Cand}

theorem Look.of_idle : Look.idle.Of e := trivial
theorem Look.of_other : Look.other.Of e := trivial
theorem Look.of_wait : (Look.wait n).Of e := trivial
theorem Look.of_ready (hc : c.eng = e) : (Look.ready c).Of e := hc
theorem Look.of_ite {p : Prop} [Decidable p] {a b : Look} (ha : a.Of e) (hb : b.Of e) : (if p then a else b).Of e := by split <;> assumption

end

section
variable (s : State) (h e : Nat) (nx : Bool) (st next : Stream)

theorem burstLook_of (va len : Nat) : (burstLook s h e st nx va len).1.Of e := by
  unfold burstLook
  dsimp only
  split
  · exact Look.of_ready rfl
  · exact Look.of_ite Look.of_idle Look.of_wait

theorem flueTry_of (r : ReadReq) : (flueTry s h e nx st next r).1.Of e := by
  unfold flueTry
  dsimp only
  split
  · exact Look.of_wait
  · split
    · exact Look.of_wait
    · split
      · exact Look.of_ready rfl
      · exact Look.of_ite Look.of_idle Look.of_wait

theorem flueSkips_of (n i : Nat) : (flueSkips s h e nx st n i).1.Of e := by
  induction n generalizing s i with
  | zero => exact Look.of_wait
  | succ n ih =>
    rw [flueSkips]
    split
    · exact Look.of_wait
    · split
      · exact ih _ _
      · exact flueTry_of _ _ _ _ _ _ _

theorem flueScan_of (n : Nat) : (flueScan s h e nx st n).1.Of e := by
  induction n generalizing s st with
  | zero =>
    unfold flueScan
    dsimp only
    split
    · contradiction
    · exact Look.of_ite Look.of_wait (Look.of_ite Look.of_wait Look.of_idle)
    · exact Look.of_wait
  | succ n ih =>
    unfold flueScan
    dsimp only
    split
    case h_1 m d hm hcur =>
      obtain rfl : n = m := Nat.succ.inj hm
      split
      · exact Look.of_ite Look.of_wait Look.of_other
      · split
        · split
          · exact ih _ _
          · exact Look.of_wait
        · exact flueTry_of _ _ _ _ _ _ _
    · exact Look.of_ite Look.of_wait (Look.of_ite Look.of_wait Look.of_idle)
    · contradiction

theorem flueLook_of : (flueLook s h e).1.Of e := by
  unfold flueLook
  split
  · exact Look.of_idle
  · exact burstLook_of _ _ _ _ _ _ _
  · split
    · exact flueScan_of _ _ _ _ _ _
    · split
      · exact Look.of_wait
      · exact flueSkips_of _ _ _ _ _ _ _

theorem gatherTry_of (r : ReadReq) (idx : List Nat) : (gatherTry s h e nx st next r idx).1.Of e := by
  unfold gatherTry
  dsimp only
  split
  · exact Look.of_wait
  · split
    · exact Look.of_wait
    · split
      · exact Look.of_ite Look.of_wait (Look.of_ready rfl)
      · split
        · exact Look.of_ite Look.of_wait (Look.of_ready rfl)
        · exact Look.of_ite Look.of_idle Look.of_wait

theorem gatherSkips_of (n i : Nat) : (gatherSkips s h e nx st n i).1.Of e := by
  induction n generalizing s i with
  | zero => exact Look.of_wait
  | succ n ih =>
    rw [gatherSkips]
    split
    · exact Look.of_wait
    · split
      · exact ih _ _
      · exact gatherTry_of _ _ _ _ _ _ _ _

theorem gatherScan_of (run : Bool) (idx : List Nat) (n : Nat) : (gatherScan s h e nx run st idx n).1.Of e := by
  induction n generalizing s st idx with
  | zero =>
    unfold gatherScan
    dsimp only
    split
    · contradiction
    · exact Look.of_ite Look.of_wait (Look.of_ite Look.of_other (Look.of_ite Look.of_wait Look.of_idle))
    · exact Look.of_wait
  | succ n ih =>
    unfold gatherScan
    dsimp only
    split
    case h_1 m d hm hcur =>
      obtain rfl : n = m := Nat.succ.inj hm
      split
      · exact Look.of_ite Look.of_wait Look.of_other
      · split
        · exact Look.of_wait
        · split
          · exact Look.of_idle
          · split
            · split
              · exact ih _ _ _
              · exact Look.of_wait
            · exact gatherTry_of _ _ _ _ _ _ _ _
    · exact Look.of_ite Look.of_wait (Look.of_ite Look.of_other (Look.of_ite Look.of_wait Look.of_idle))
    · contradiction

theorem runLook_of (b : Nat) : (runLook s h b).1.Of (8 + b) := by
  unfold runLook
  dsimp only
  split
  · exact Look.of_idle
  · exact burstLook_of _ _ _ _ _ _ _
  · split
    · exact gatherScan_of _ _ _ _ _ _ _ _
    · split
      · exact Look.of_wait
      · exact gatherSkips_of _ _ _ _ _ _ _

end

/-- Every look in a list is at one of the ten engines, and its candidate is of that engine. -/
def LooksOf (ls : List (Nat × Look)) : Prop := ∀ p ∈ ls, p.1 < 10 ∧ p.2.Of p.1

theorem lookAll_of (s : State) (h : Nat) {es : List Nat} (hes : ∀ e ∈ es, e < 10) {acc : List (Nat × Look)} (hacc : LooksOf acc) :
    LooksOf (lookAll s h es acc).1 := by
  induction es generalizing s acc with
  | nil => exact hacc
  | cons e es ih =>
    refine ih _ (fun k hk => hes k (.tail _ hk)) fun p hp => ?_
    obtain hp | hp := List.mem_append.1 hp
    · exact hacc p hp
    · rw [List.mem_singleton.1 hp]
      refine ⟨hes e (.head _), ?_⟩
      dsimp only
      split
      · exact flueLook_of s h e
      case isFalse h8 =>
        have hrun := runLook_of s h (e - 8)
        rwa [Nat.add_sub_cancel' (Nat.not_lt.1 h8)] at hrun

/-- The better of a candidate found so far and the next (R165). -/
def candPick (acc : Option Cand) (c : Cand) : Option Cand :=
  match acc with
  | none => some c
  | some a => if candLess c a then some c else some a

theorem candPick_mem {acc : Option Cand} {a c : Cand} (hp : candPick acc a = some c) : c = a ∨ acc = some c := by
  unfold candPick at hp
  split at hp
  · exact .inl (Option.some.inj hp).symm
  · split at hp
    · exact .inl (Option.some.inj hp).symm
    · exact .inr hp

theorem foldl_candPick_mem {cs : List Cand} {acc : Option Cand} {c : Cand} (hf : cs.foldl candPick acc = some c) : c ∈ cs ∨ acc = some c := by
  induction cs generalizing acc with
  | nil => exact .inr hf
  | cons a cs ih =>
    obtain hc | hp := ih hf
    · exact .inl (.tail _ hc)
    · obtain rfl | hacc := candPick_mem hp
      · exact .inl (.head _)
      · exact .inr hacc

theorem candBest_mem {cs : List Cand} {c : Cand} (hb : candBest cs = some c) : c ∈ cs :=
  (foldl_candPick_mem (acc := none) hb).resolve_right nofun

theorem LooksOf.eng_lt {ls : List (Nat × Look)} (hl : LooksOf ls) {c : Cand} (hc : c ∈ cands ls) : c.eng < 10 := by
  obtain ⟨⟨e, l⟩, hmem, hready⟩ := List.mem_filterMap.1 hc
  obtain ⟨he, hof⟩ := hl _ hmem
  cases l with
  | ready d =>
    obtain rfl : d = c := Option.some.inj hready
    exact hof.trans_lt he
  | idle | other | wait n => cases hready

/-! The cycles of issue. -/

section
variable {s w : State} {h : Nat} {l : List (Nat × Look)} {c : Cand}

/-- A cycle of the reads issues the best candidate, also where it is asked for as the burst of its engine (R165). -/
theorem readCycle_issues (hreset : (hget s h).inReset = false) (hl : lookAll s h (List.range 10) [] = (l, w))
    (hb : candBest (cands l) = some c) {only : Option Nat} (ho : ∀ e, only = some e → c.burst = true ∧ c.eng = e) :
    readCycle s h only = candIssue (stallAll w h l (some c)) h c := by
  unfold readCycle
  cases only with
  | none => simp [hreset, hl, hb]
  | some e =>
    obtain ⟨hburst, heng⟩ := ho e rfl
    simp [hreset, hl, hb, hburst, heng]

/-- A cycle of the writes issues the best candidate, also where it is asked for as its engine's (R165). -/
theorem writeCycle_issues (hreset : (hget s h).inReset = false) (hl : lookWr s h (List.range 10) [] = (l, w))
    (hb : candBest (cands l) = some c) {only : Option Nat} (ho : ∀ e, only = some e → c.eng = e) :
    writeCycle s h only = if c.eng < 8 then outIssue (stallAll w h l (some c)) h c else scatterIssue (stallAll w h l (some c)) h c := by
  unfold writeCycle
  cases only with
  | none => simp [hreset, hl, hb]
  | some e => simp [hreset, hl, hb, ho e rfl]

theorem candIssue_burst (s : State) (h : Nat) (hb : c.burst = true) : candIssue s h c = burstIssue s h c := if_pos hb

theorem candIssue_flue (s : State) (h : Nat) (hb : c.burst = false) (he : c.eng < 8) : candIssue s h c = flueIssue s h c := by
  simp [candIssue, hb, he]

theorem candIssue_gather (s : State) (h : Nat) (hb : c.burst = false) (he : 8 ≤ c.eng) : candIssue s h c = gatherIssue s h c := by
  simp [candIssue, hb, Nat.not_lt.2 he]

theorem elementRequest_issues {b : Nat} (hreset : (hget s h).inReset = false) (hb : b < 2) (hk : fdKind (curDesc s h (8 + b)) ≠ 2)
    (hl : elementLook s h b = (.ready c, w)) : blwElementRequest s h b = candIssue w h c := by
  simp [blwElementRequest, hreset, Nat.not_le.2 hb, hk, hl]

theorem elementRequest_writes {b : Nat} (hreset : (hget s h).inReset = false) (hb : b < 2) (hk : fdKind (curDesc s h (8 + b)) = 2) :
    blwElementRequest s h b = writeCycle s h (some (8 + b)) := by
  simp [blwElementRequest, hreset, Nat.not_le.2 hb, hk]

/-- A request sent once a hearth has done what stands beside it. -/
theorem ReqSent.beside {v t : State} {q : HReq} {data : List Byte} {alloc : Bool} {mc : Nat} {replay due : Bool}
    (hs : ReqSent v h q (queued v h q data alloc mc replay due) t) (hb : Beside h w v) :
    ReqSent w h q (queued w h q data alloc mc replay due) t := by
  rw [← hb.queued]
  exact hs.before hb

theorem ReqSent.cand {v t : State} {kind : ReqKind} {pool : Bool} {data : List Byte} {alloc : Bool} {mc : Nat} {replay due : Bool}
    (hs : ReqSent v h (candReq v h c kind pool) (queued v h (candReq v h c kind pool) data alloc mc replay due) t) (hb : Beside h w v) :
    ReqSent w h (candReq w h c kind pool) (queued w h (candReq w h c kind pool) data alloc mc replay due) t := by
  rw [hb.candReq] at hs
  exact hs.beside hb

end

/-! A command that sends a request. -/

section
variable {s w : State} {h : Nat} {q : HReq} {data : List Byte} {alloc : Bool} {mc : Nat} {replay due : Bool}

/-- What an engine's look leaves as it was: the slices, HBM and the time; nothing stays due. -/
structure Looked (s w : State) : Prop where
  calm : Calm w
  slices : w.slices = s.slices
  hbm : w.hbm = s.hbm
  now : w.now = s.now

/-- The request `q` has left hearth `h` for the queue of its home slice; `w` is the state that the look came to. -/
def Departs (s w : State) (h : Nat) (q : HReq) (data : List Byte) (alloc : Bool) (mc : Nat) (replay due : Bool) (u : State) : Prop :=
  (hget u h).reqs = (hget w h).reqs ++ [q] ∧ (hget u h).nextId = (hget w h).nextId + 1 ∧
    ∀ sl, (slGet u sl).reqs = if sl = homeSlice s.hbm.dead q.pa then
      (slGet s sl).reqs ++ [⟨h, q.id, q.kind = .write, q.kind = .hint, hPart (hget w h), q.pa, q.len, data, alloc, mc, q.k, q.eng, q.own, replay, due,
        telNow s⟩]
      else (slGet s sl).reqs

theorem ReqSent.completes {c : Prop} [Decidable c] {f : State → State} {v : State} (hs : ReqSent w h q (queued w h q data alloc mc replay due) v)
    (hw : Looked s w) (hc : Calm s) (hg : c) (hf : f (quiet s) = v) :
    ∃ u, act (only c f) s = .next u ∧ Departs s w h q data alloc mc replay due u := by
  have hcv : Calm v := by
    rw [hs.eq]
    exact hw.calm.of rfl rfl rfl rfl rfl rfl rfl
  obtain ⟨u, hu, hfol⟩ := lead_act hc hg hf hcv
  refine ⟨u, hu, by rw [hfol.hget, hs.reqs], by rw [hfol.hget, hs.nextId], fun sl => ?_⟩
  have hnow : telNow w = telNow s := congrArg (· / 275) hw.now
  rw [hfol.slGet, hs.slices, slGet_congr hw.slices, hw.hbm, queued, hnow]

/-- A hint that passes its checks leaves the hearth's list and is sent (R176). -/
theorem hintIssue_sends {f i : Nat} {n : Hint} {e : TlbEnt} (hfind : lfind (hget s h).hints (fun n => n.flue = f) = some i)
    (hhint : lget (hget s h).hints i = some n) (hen : bit (rd s (R.fluCtrl h)) 2 = true)
    (hroom : ((hget s h).reqs.filter (fun q => q.kind = .hint)).length < 8) (hready : readReady s h = false)
    (hx : hintXlate s h (hPart (hget s h)) n.va f = (some e, w))
    (hcap : ((readsOut (hget s h) ++ (hget s h).reqs.filter (fun q => q.kind = .hint)).filter
      (fun q => q.bg = bankGroup s.hbm.dead (65536 * e.frame + n.va % 65536))).length < 8)
    (hcredit : creditFree s h (homeSlice s.hbm.dead (65536 * e.frame + n.va % 65536)) = true) (hq : q =
      ⟨(hget s h).nextId, .hint, f, 0, false, n.va, 65536 * e.frame + n.va % 65536, e.k, n.len,
        bankGroup s.hbm.dead (65536 * e.frame + n.va % 65536), 0, false, 0, f⟩) :
    ReqSent w h q (queued w h q [] true 0 false false) (hintIssue s h f) := by
  have hi : hintIssue s h f = fluBump (sendReq (hmod w h (fun y => { y with hints := ldel y.hints i })) h q [] true 0 false false false) h
      (R.fluHintBytes h) n.len 64 := by
    unfold hintIssue
    simp only [hfind, hhint, hen, Nat.not_le.2 hroom, hready, hx, Nat.not_le.2 hcap, hcredit, hq, Bool.not_true, Bool.or_false, decide_false,
      Bool.false_eq_true, if_false]
  rw [hi]
  refine sendReq_between ?_ (paced_fluBump _ h (fluHintBytes_above h) _ _).beside
  exact beside_hput rfl rfl rfl

end

/-- Settles O13: the best candidate of a cycle issues (`readCycle_issues`, `writeCycle_issues`, `elementRequest_issues`), and each issue sends its
request (`burstIssue_sends` to `scatterIssue_sends`, `hintIssue_sends`) to the queue of its home slice in the same moment (log 16). -/
theorem requestsLeave : Obligations.RequestsLeave := by
  unfold Obligations.RequestsLeave
  intro s h hh hc hreset s0 looks sends rowsOk index element
  have looked : ∀ {w}, looks w → Looked s w := fun ⟨h1, h2, h3, h4⟩ => ⟨h1, h2, h3, h4⟩
  refine ⟨?reads, ?writes, ?elements, ?hints⟩
  case reads =>
    intro l w c hl hw hb
    have hlt : c.eng < 10 := by
      have hof := lookAll_of s0 h (es := List.range 10) (by simp) (acc := []) (by simp [LooksOf])
      rw [hl] at hof
      exact hof.eng_lt (candBest_mem hb)
    have hp : Paced h w (stallAll w h l (some c)) := paced_stallAll w h l (some c)
    have issue : ∀ {only}, (∀ e, only = some e → c.burst = true ∧ c.eng = e) → readCycle s0 h only = candIssue (stallAll w h l (some c)) h c :=
      readCycle_issues (s := s0) hreset hl hb
    refine ⟨fun hburst cmd hcmd => ?_, fun hburst he => ?_, fun hburst he hlen hidx => ?_⟩
    · have hs := (burstIssue_sends (stallAll w h l (some c)) h c).cand hp.beside
      rw [← candIssue_burst _ h hburst] at hs
      obtain rfl | rfl : cmd = .descBurst h c.eng ∨ cmd = .readRequestIssue h := by simpa using hcmd
      · exact hs.completes (f := fun t => descBurst t h c.eng) (looked hw) hc (And.intro hh hlt)
          (issue fun e he => ⟨hburst, Option.some.inj he⟩)
      · exact hs.completes (f := fun t => readRequestIssue t h) (looked hw) hc hh (issue nofun)
    · have hs := (flueIssue_sends (stallAll w h l (some c)) h c).cand hp.beside
      rw [← candIssue_flue _ h hburst he] at hs
      exact hs.completes (f := fun t => readRequestIssue t h) (looked hw) hc hh (issue nofun)
    · have hrows : RowsOk w h (hdMem (hdl (hget w h).spd (bdIdx c.req.d))) c.idx := hidx
      have hs := (gatherIssue_sends hlen (by rw [hp.spd]; exact hrows.paced hp)).cand hp.beside
      rw [← candIssue_gather _ h hburst he] at hs
      exact hs.completes (f := fun t => readRequestIssue t h) (looked hw) hc hh (issue nofun)
  case writes =>
    intro l w c hl hw hb q
    have hp : Paced h w (stallAll w h l (some c)) := paced_stallAll w h l (some c)
    have hq : writeReq (stallAll w h l (some c)) h c = q := by rw [writeReq, hp.beside.candReq]
    refine ⟨fun he hi => ?_, fun he hlen hi hidx hsrc => ?_⟩
    · have hs := outIssue_sends (w := stallAll w h l (some c)) (h := h) he (by rw [hp.injKind]; exact hi)
      rw [hq] at hs
      refine (hs.beside hp.beside).completes (f := fun t => writeRequestIssue t h) (looked hw) hc hh ?_
      exact (writeCycle_issues (s := s0) hreset hl hb (only := none) nofun).trans (if_pos he)
    · have hrows : RowsOk w h (hdMem (hdl (hget w h).spd (bdIdx c.req.d))) c.idx := hidx
      have hsrc' : RowsOk w h c.req.mem [c.req.row] := hsrc
      have hs := scatterIssue_sends (w := stallAll w h l (some c)) (h := h) he hlen (by rw [hp.injKind]; exact hi)
        (by rw [hp.spd]; exact hrows.paced hp) (hsrc'.paced hp)
      rw [hq, hp.spd] at hs
      have hs' := hs.beside hp.beside
      have issue : ∀ {only}, (∀ e, only = some e → c.eng = e) → writeCycle s0 h only = scatterIssue (stallAll w h l (some c)) h c :=
        fun ho => (writeCycle_issues (s := s0) hreset hl hb ho).trans (if_neg (Nat.not_lt.2 he))
      refine ⟨hs'.completes (f := fun t => writeRequestIssue t h) (looked hw) hc hh (issue nofun), fun b hb2 heng hk => ?_⟩
      rw [heng] at hk
      exact hs'.completes (f := fun t => blwElementRequest t h b) (looked hw) hc (And.intro hh hb2)
        ((elementRequest_writes (s := s0) hreset hb2 hk).trans (issue fun e he => heng.trans (Option.some.inj he)))
  case elements =>
    intro b w c hb hk hl hw hburst heng hlen hidx
    have hs := gatherIssue_sends hlen (w := w) (h := h) hidx
    rw [← candIssue_gather w h hburst (by omega)] at hs
    exact hs.completes (f := fun t => blwElementRequest t h b) (looked hw) hc (And.intro hh hb)
      (elementRequest_issues (s := s0) hreset hb hk hl)
  case hints =>
    intro f i n e w hf hfind hn hen hroom hready hx hw pa bg hcap hcredit
    exact (hintIssue_sends (s := s0) hfind hn hen hroom hready hx hcap hcredit rfl).completes (f := fun t => hintIssue t h f) (looked hw) hc
      (And.intro hh hf) rfl

end Sys2Proof.Machine

/-!
SUPPORT and proofs for what comes back to a hearth's streams (R159, R166, R171, R177): responses and acknowledgements, the tiles that leave, and O14.
-/

namespace Sys2Proof.Machine

section
variable {s : State} {h i : Nat} {r : Resp} {q : HReq}

/-- The hearth once response `i`, which answers the request of number `id`, has arrived: the request's credit is free (R166). -/
def answered (x : Hearth) (i id : Nat) : Hearth := { x with resps := ldel x.resps i, reqs := x.reqs.filter (fun p => p.id ≠ id) }

/-- The hearth once the data of the tile request `q` has landed (R166, R167). -/
def tileLanded (x : Hearth) (q : HReq) (data : List Byte) : Hearth :=
  tileGot (landRows x (q.dst / 65536) (q.dst % 65536) data) q.eng q.own (q.dst / 65536) (q.dst % 65536) (q.len / 64)

/-- Response `i` of hearth `h` is `r`, and answers its request `q`, which is not cancelled. -/
structure Answers (s : State) (h i : Nat) (r : Resp) (q : HReq) : Prop where
  resp : lget (hget s h).resps i = some r
  req : (hget s h).reqs.find? (fun q => q.id = r.id) = some q
  live : q.dead = false

theorem Answers.quiet (ha : Answers s h i r q) : Answers (Machine.quiet s) h i r q := ⟨ha.resp, ha.req, ha.live⟩

theorem readResponse_burst (ha : Answers s h i r q) (hu : r.ue = false) (hk : q.kind = .burst) :
    readResponse s h i = hput s h (burstLand (answered (hget s h) i r.id) q r.data) := by
  simp [readResponse, ha.resp, ha.req, ha.live, hu, hk, answered]

theorem readResponse_tile (ha : Answers s h i r q) (hu : r.ue = false) (hk : q.kind = .tile) (he : q.eng < 8) :
    readResponse s h i =
      fluBump (landCount (hput s h (tileLanded (answered (hget s h) i r.id) q r.data)) h q) h (R.fluBytesInF h q.eng) q.len 64 := by
  simp [readResponse, ha.resp, ha.req, ha.live, hu, hk, he, answered, tileLanded]

theorem colCount_none (hc : s.cols = []) (p va n : Nat) : colCount s p va n = s := by simp [colCount, hc]

theorem writeAck_returns (ha : Answers s h i r q) (hk : q.kind = .write) (hc : s.cols = []) :
    writeAck s h i = hput s h (answered (hget s h) i r.id) := by
  simp [writeAck, ha.resp, ha.req, hk, answered, colCount_none (s := hput s h _) hc]

/-- A flue's tile is counted when it is complete, and not otherwise. -/
theorem landCount_flue (he : q.eng < 8) : ∃ frz, landCount s h q = bump s frz (R.fluTilesF h q.eng) 1 := by
  unfold landCount fluBump
  simp only [he, if_true]
  split
  · exact ⟨_, rfl⟩
  · exact ⟨true, rfl⟩

/-- The tile counter and the byte counter of a flue, and what they are apart from. -/
theorem fluCounters_addr (h f : Nat) : (R.fluCtrl h).addr ≠ (R.fluTilesF h f).addr ∧ (R.fluBytesInF h f).addr ≠ (R.fluTilesF h f).addr ∧
    (R.fluBytesInF h f).addr ∉ noteRegs := by
  simp [noteRegs, R.fluCtrl, R.fluTilesF, R.fluBytesInF, R.prtErrLog, R.prtErrCount, blkBase]
  omega

/-- A tile's data lands in its rows, and the bytes count (R166, R186). -/
theorem tileResponse_completes (hh : h < 256) (hc : Calm s) (ha : Answers s h i r q) (hu : r.ue = false) (hk : q.kind = .tile) (he : q.eng < 8) :
    Completes (.readResponse h i) s (fun u => HearthOnly s u h [R.fluTilesF h q.eng, R.fluBytesInF h q.eng] ∧
      hget u h = tileLanded (answered (hget s h) i r.id) q r.data ∧
      (bit (rd s (R.fluCtrl h)) 0 = false → rd u (R.fluBytesInF h q.eng) = (rd s (R.fluBytesInF h q.eng) + q.len) % 2 ^ 64)) := by
  obtain ⟨hctrl, hne, hnote⟩ := fluCounters_addr h q.eng
  set x := tileLanded (answered (hget s h) i r.id) q r.data with hx
  obtain ⟨frz, hcount⟩ := landCount_flue (s := hput (quiet s) h x) (h := h) he
  have e : readResponse (quiet s) h i =
      bump (bump (hput (quiet s) h x) frz (R.fluTilesF h q.eng) 1) (bit (rd s (R.fluCtrl h)) 0) (R.fluBytesInF h q.eng) q.len 64 := by
    rw [readResponse_tile ha.quiet hu hk he, hget_quiet, ← hx, hcount, fluBump, rd_bump_other _ _ hctrl]
    rfl
  obtain ⟨u, hu, honly, hxu, hreg⟩ := act_hearthRegs (f := fun t => readResponse t h i) (h := h) (x := x)
    [R.fluTilesF h q.eng, R.fluBytesInF h q.eng] hc hh e
    (by rw [State.mk.injEq]; simp [quiet_eq hc.free])
    (fun k hk => by
      simp only [List.map_cons, List.map_nil, List.mem_cons, List.not_mem_nil, or_false, not_or] at hk
      rw [rd_bump_other _ _ hk.2, rd_bump_other _ _ hk.1]
      rfl)
  refine ⟨u, hu, honly, hxu, fun hfrz => ?_⟩
  rw [hreg _ hnote, rd_bump_same, hfrz, rd_bump_other _ _ hne]
  rfl

end

/-! Tiles that leave (R171). -/

section
variable {s : State} {h f d : Nat} {st : Stream} {nx : Bool}

/-- The memory, first row and slots of the next tile of an OUT stream (R161, R171). -/
def outMem (sp : Scratch) (d : Nat) : Nat := hdMem (hdl sp (fdHandle d))
def outRow (sp : Scratch) (st : Stream) (d : Nat) : Nat :=
  hdBase (hdl sp (fdHandle d)) + ringPlace (hdl sp (fdHandle d)) st.ring (fdTileRows d)
def outTileSlots (sp : Scratch) (st : Stream) (d : Nat) : List Nat := slotKeys (outMem sp d) (outRow sp st d) (fdTileRows d)

/-- The stream once its tile is read. -/
def outTaken (sp : Scratch) (st : Stream) (d : Nat) : Stream :=
  { st with outRead := true, outData := rowsGet sp (outMem sp d) (outRow sp st d) (fdTileRows d) }

/-- The hearth `z`, whose rows have been read, with the tile in its stream, and with RELEASE its slots EMPTY. -/
def outLeft (z : Hearth) (f : Nat) (nx : Bool) (st : Stream) (d : Nat) : Hearth :=
  let y := engPut z f (engineWith z f nx (outTaken z.spd st d))
  if fdRelease d then (emptySlots y (outTileSlots z.spd st d) slotEmpty false).1 else y

theorem outTileRead_reads (hiss : issuing (engGet (hget s h) f) = some (st, nx)) (hcur : st.cur = some d) (hk : fdKind d = 2)
    (hread : st.outRead = false) (hfull : slotsFull (hget s h).spd (outTileSlots (hget s h).spd st d) = true) (hport : portTaken s h f = false)
    (hi : injKind s 3 h = none)
    (hstale : staleHit (hget s h) (outMem (hget s h).spd d) (outRow (hget s h).spd st d) (fdTileRows d) = none) :
    ∃ z, Marked (hget s h) z ∧ outTileRead s h f = hput s h (outLeft z f nx st d) := by
  obtain ⟨z, t, hz, hread', hthen⟩ := portRead_hmod (s := s) (h := h) (own := st.own) (port := 11) (m := outMem (hget s h).spd d)
    (segs := [(outRow (hget s h).spd st d, fdTileRows d)]) hi (by simpa using hstale)
  have htz : hget t h = z := by simpa using congrArg (fun w => hget w h) (hthen id)
  have hspd : z.spd = (hget s h).spd := by rw [hz]
  have hput' : ∀ st', streamPut t h f nx st' = hput s h (engPut z f (engineWith z f nx st')) := fun st' => hthen _
  refine ⟨z, hz, ?_⟩
  unfold outTileSlots outMem outRow at hfull
  unfold outMem outRow at hread'
  unfold outTileRead outLeft
  simp only [hiss, hcur, hk, hread, hfull, hport, hread', htz, hput', Bool.not_true, Bool.or_false, ne_eq, not_true_eq_false, decide_false,
    Bool.false_eq_true, if_false, hspd, hmod, hget_hput_same, hput_hput, outTaken]
  split <;> rfl

theorem outLeft_spd (z : Hearth) (f : Nat) (nx : Bool) (st : Stream) (d : Nat) :
    (outLeft z f nx st d).spd = if fdRelease d then slotsMod z.spd (outTileSlots z.spd st d) slotEmpty else z.spd := by
  unfold outLeft
  dsimp only
  split
  · exact congrArg (fun sp => slotsMod sp (outTileSlots z.spd st d) slotEmpty) (engPut_spd z f _)
  · exact engPut_spd z f _

theorem engGet_outLeft (z : Hearth) (f : Nat) (nx : Bool) (st : Stream) (d : Nat) :
    engGet (outLeft z f nx st d) f = engineWith z f nx (outTaken z.spd st d) := by
  have hput' := engGet_engPut_same z f (engineWith z f nx (outTaken z.spd st d))
  unfold outLeft
  dsimp only
  split
  · exact hput'
  · exact hput'

end

theorem nextStreamStart_starts {s : State} {h e : Nat} {c n : Stream} (hcur : (engGet (hget s h) e).cur = some c)
    (hnext : (engGet (hget s h) e).next = some n) (hend : c.ended = true) :
    nextStreamStart s h e = hput s h (engPut (hget s h) e { engGet (hget s h) e with go := true }) := by
  simp [nextStreamStart, hmod, hcur, hnext, hend]

/-- Settles O14: data lands and credits return (`readResponse_burst`, `tileResponse_completes`, `writeAck_returns`), a tile is read
(`outTileRead_reads`), the next stream starts (`nextStreamStart_starts`), and HINT_CLR forgets. -/
theorem responsesLand : Obligations.ResponsesLand := by
  unfold Obligations.ResponsesLand
  refine ⟨?response, ?tileRead, ?next, ?hintClr⟩
  case response =>
    intro s h i r q hh hc hresp hreq hlive hue x x1
    have ha : Answers s h i r q := ⟨hresp, hreq, hlive⟩
    refine ⟨fun hk => ?_, fun hk he => tileResponse_completes hh hc ha hue hk he, fun hk hcols => ?_⟩
    · exact act_hput (f := fun t => readResponse t h i) hc hh (readResponse_burst ha.quiet hue hk)
    · exact act_hput (f := fun t => writeAck t h i) hc hh (writeAck_returns ha.quiet hk hcols)
  case tileRead =>
    intro s h f d st nx hh hf hc hiss hcur hk hread x v row ks hfull hport hi hstale
    obtain ⟨z, hz, e⟩ := outTileRead_reads (s := quiet s) hiss hcur hk hread hfull hport hi hstale
    obtain ⟨u, hu, honly, hx⟩ := act_hput (f := fun t => outTileRead t h f) hc (And.intro hh hf) e
    have hspd : z.spd = x.spd := by rw [hz]; rfl
    refine ⟨u, hu, honly, ?_, ?_⟩
    · rw [hx, outLeft_spd, hspd]
      rfl
    · rw [hx, engGet_outLeft, hspd]
      cases nx <;> rfl
  case next =>
    intro s h e c n hh he hc hcur hnext hend
    exact act_hput (f := fun t => nextStreamStart t h e) hc (And.intro hh he) (nextStreamStart_starts (s := quiet s) hcur hnext hend)
  case hintClr =>
    intro s h hh hc
    exact actStk_hput (f := fun t => fluHintClr t h) hc hh rfl

end Sys2Proof.Machine

/-!
SUPPORT and proofs for the chimney of chapter 07: hits (O19), fills and hints (O20), the upkeep of slices (O21), and resets (O22).
-/

namespace Sys2Proof.Machine

/-! What serving memory changes. -/

/-- From `s` to `t` memory is served: of the device only hearths, registers, slices, multicast groups, HBM and the counter of free values change. -/
def MemoryServed (s t : State) : Prop :=
  t = { s with csr := t.csr, hearths := t.hearths, slices := t.slices, mcast := t.mcast, hbm := t.hbm, fresh := t.fresh }

section
variable {s t u : State}

theorem MemoryServed.refl (s : State) : MemoryServed s s := rfl

theorem MemoryServed.trans (h1 : MemoryServed s t) (h2 : MemoryServed t u) : MemoryServed s u := by
  unfold MemoryServed at *
  rw [h2, h1]

theorem MemoryServed.foldl {α : Type} {f : State → α → State} (hf : ∀ a w, MemoryServed w (f w a)) (l : List α) (s : State) :
    MemoryServed s (l.foldl f s) := by
  induction l generalizing s with
  | nil => exact .refl s
  | cons a l ih => exact (hf a s).trans (ih (f s a))

theorem memoryServed_bump (s : State) (frz : Bool) (r : Reg) (n w : Nat) : MemoryServed s (bump s frz r n w) := by cases frz <;> rfl

theorem memoryServed_logErr (s : State) (log cnt : Reg) (v : Nat) : MemoryServed s (logErr s log cnt v) := by
  unfold logErr
  dsimp only
  split <;> split <;> rfl

theorem MemoryServed.calm (h : MemoryServed s t) (hc : Calm s) : Calm t := by
  rw [h]
  exact hc.of rfl rfl rfl rfl rfl rfl rfl

/-- What a command leaves whose operation serves memory: beside that, registers, the note of R448 and the host port's output. -/
theorem Follows.memory (hf : Follows s.pending t u) (hc : Calm s) (hv : MemoryServed (quiet s) t) :
    u = { s with csr := u.csr, parts := u.parts, tx := u.tx, fresh := u.fresh, hearths := u.hearths, slices := u.slices, mcast := u.mcast,
                 hbm := u.hbm } := by
  have e := hf.eq
  rw [hv, quiet_eq hc.free] at e
  rw [State.mk.injEq] at e ⊢
  simp [hc.aborts, hc.faults] at e ⊢
  tauto

theorem Follows.sameRegs {rs : List Reg} (hf : Follows s.pending t u) (hv : MemoryServed (quiet s) t)
    (hr : ∀ r : Reg, r.addr ∉ rs.map Reg.addr → Machine.rd t r = Machine.rd s r) : SameRegs s u rs :=
  ⟨fun r hrs hn => (hf.rd r hn).trans (hr r hrs), fun p => by rw [hf.parts p, hv]; rfl⟩

theorem Follows.changesOnly {f : State → State → State} {rs : List Reg} (hf : Follows s.pending t u) (hc : Calm s)
    (hv : MemoryServed (quiet s) t) (hr : ∀ r : Reg, r.addr ∉ rs.map Reg.addr → Machine.rd t r = Machine.rd s r)
    (hF : { s with hearths := u.hearths, slices := u.slices, mcast := u.mcast, hbm := u.hbm } = f s u) : ChangesOnly s u f rs := by
  refine ⟨hf.sameRegs hv hr, ?_⟩
  rw [← hF]
  exact hf.memory hc hv

/-- A command that serves memory on a calm device ends with what its operation leads to. -/
theorem act_serves {c : Prop} [Decidable c] {f : State → State} (hc : Calm s) (hg : c) (e : f (quiet s) = t) (hv : MemoryServed (quiet s) t) :
    ∃ u, act (only c f) s = .next u ∧ Follows s.pending t u := lead_act hc hg e (hv.calm hc.quiet)

end

/-! A slice and what stands beside it. -/

section
variable (s : State)

theorem slGet_slPut_other {sl k : Nat} (hk : k ≠ sl) (x : Slice) : slGet (slPut s sl x) k = slGet s k := tgetD_tput_other _ hk _ _
@[simp] theorem slGet_quiet (k : Nat) : slGet (quiet s) k = slGet s k := rfl
@[simp] theorem slGet_hmod (h : Nat) (f : Hearth → Hearth) (k : Nat) : slGet (hmod s h f) k = slGet s k := rfl
@[simp] theorem slGet_bump (frz : Bool) (r : Reg) (n w k : Nat) : slGet (bump s frz r n w) k = slGet s k := slGet_congr (bump_slices ..) k
@[simp] theorem rd_slPut (sl : Nat) (x : Slice) (r : Reg) : rd (slPut s sl x) r = rd s r := rfl
@[simp] theorem hget_slPut (sl : Nat) (x : Slice) (h : Nat) : hget (slPut s sl x) h = hget s h := rfl
@[simp] theorem slPut_slPut (sl : Nat) (x y : Slice) : slPut (slPut s sl x) sl y = slPut s sl y := by simp only [slPut, tput_tput]

/-- A slice's counter and a slice do not meet. -/
@[simp] theorem slMod_bump (frz : Bool) (r : Reg) (n w sl : Nat) (f : Slice → Slice) : slMod (bump s frz r n w) sl f = bump (slMod s sl f) frz r n w := by
  cases frz <;> rfl

end

/-! Lines (R195). -/

/-- The line of a partition that a multicast entry alone holds. -/
def entFind (p a : Nat) (e : McEnt) : Option Line :=
  if e.part = p then (e.lines.find? (fun d => d.addr = a)).map (fun d => ⟨p, a, e.k, d.data, false, d.ue, true⟩) else none

section
variable {x y : Slice} {p a : Nat}

theorem lineFind_eq (x : Slice) (p a : Nat) :
    lineFind x p a = (x.lines.find? (fun l => l.part = p && l.addr = a)).or (x.entries.findSome? (entFind p a)) := by
  unfold lineFind
  split
  next h => rw [h]; rfl
  next h => rw [h]; rfl

theorem lineFind_congr (hl : y.lines = x.lines) (he : y.entries = x.entries) (p a : Nat) : lineFind y p a = lineFind x p a := by
  rw [lineFind_eq, lineFind_eq, hl, he]

/-- The line found is the one that was looked for. -/
theorem lineFind_key {l : Line} (h : lineFind x p a = some l) : l.part = p ∧ l.addr = a := by
  rw [lineFind_eq, Option.or_eq_some_iff] at h
  rcases h with h | ⟨-, h⟩
  · simpa using List.find?_some h
  · obtain ⟨e, -, he⟩ := List.exists_of_findSome?_eq_some h
    unfold entFind at he
    split at he
    · obtain ⟨d, -, rfl⟩ := Option.map_eq_some_iff.1 he
      exact ⟨rfl, rfl⟩
    · cases he

/-- Entries that change without losing or gaining a line of a partition at an address. -/
theorem lineFind_entries {g : McEnt → McEnt} (hl : y.lines = x.lines) (hy : y.entries = x.entries.map g)
    (hg : ∀ e ∈ x.entries, entFind p a (g e) = entFind p a e) : lineFind y p a = lineFind x p a := by
  rw [lineFind_eq, lineFind_eq, hl, hy, List.findSome?_map]
  congr 1
  generalize x.entries = es at hg
  induction es with
  | nil => rfl
  | cons e es ih =>
    simp only [List.findSome?_cons, Function.comp_apply, hg e (by simp)]
    rw [ih fun e he => hg e (.tail _ he)]

/-- A line that joins the cached ones is found, where none was held before it. -/
theorem lineFind_snoc {n : Line} (hl : y.lines = x.lines ++ [n]) (he : y.entries = x.entries) (hn : lineFind x n.part n.addr = none) :
    lineFind y p a = if n.part = p ∧ n.addr = a then some n else lineFind x p a := by
  rw [lineFind_eq, Option.or_eq_none_iff] at hn
  rw [lineFind_eq, lineFind_eq, hl, he, List.find?_append]
  by_cases h : n.part = p ∧ n.addr = a
  · obtain ⟨rfl, rfl⟩ := h
    simp [hn.1]
  · simp [h]

end

/-! A line put (R200). -/

theorem find_replaced (ls : List Line) (l : Line) (p a : Nat) :
    (ls.map (fun m => if m.part = l.part ∧ m.addr = l.addr then l else m)).find? (fun m => m.part = p && m.addr = a) =
      (ls.find? (fun m => m.part = p && m.addr = a)).map (fun m => if l.part = p ∧ l.addr = a then l else m) := by
  have hkey : (fun m : Line => decide (m.part = p) && decide (m.addr = a)) ∘ (fun m => if m.part = l.part ∧ m.addr = l.addr then l else m) =
      fun m => decide (m.part = p) && decide (m.addr = a) := by
    funext m
    by_cases hm : m.part = l.part ∧ m.addr = l.addr <;> simp [hm]
  rw [List.find?_map, hkey]
  refine Option.map_congr fun m hm => ?_
  obtain ⟨rfl, rfl⟩ : m.part = p ∧ m.addr = a := by simpa using List.find?_some hm
  simp only [eq_comm]

theorem entFind_drop {p a q b : Nat} (h : ¬(q = p ∧ b = a)) (e : McEnt) :
    entFind p a (if e.part = q then { e with lines := e.lines.filter (fun d => d.addr ≠ b) } else e) = entFind p a e := by
  by_cases he : e.part = q
  · by_cases hp : e.part = p
    · have hb : b ≠ a := fun hb => h ⟨he.symm.trans hp, hb⟩
      simp only [entFind, he, he.symm.trans hp, if_true, List.find?_filter]
      congr 2
      funext d
      by_cases hd : d.addr = a
      · simp [hd, hb.symm]
      · simp [hd]
    · simp [entFind, he, he ▸ hp]
  · rw [if_neg he]

/-- A line that is put is the one then found under its key; every other is found as before. -/
theorem lineFind_linePut (x : Slice) (l : Line) (p a : Nat) :
    lineFind (linePut x l) p a = if l.part = p ∧ l.addr = a then some l else lineFind x p a := by
  unfold linePut
  split
  case isTrue h =>
    rw [lineFind_eq, lineFind_eq]
    dsimp only
    rw [find_replaced]
    by_cases hk : l.part = p ∧ l.addr = a
    · obtain ⟨rfl, rfl⟩ := hk
      have hs : (x.lines.find? (fun m => m.part = l.part && m.addr = l.addr)).isSome := by simpa [List.find?_isSome] using h
      obtain ⟨m, hm⟩ := Option.isSome_iff_exists.1 hs
      simp [hm]
    · simp [hk]
  case isFalse h =>
    set z : Slice := { x with entries := entsDrop x l.part l.addr } with hz
    have hnone : lineFind z l.part l.addr = none := by
      rw [lineFind_eq, Option.or_eq_none_iff]
      refine ⟨?_, ?_⟩
      · simpa [hz] using h
      · simp only [hz, entsDrop, List.findSome?_eq_none_iff, List.mem_map, forall_exists_index, and_imp, forall_apply_eq_imp_iff₂]
        intro e _
        by_cases he : e.part = l.part <;> simp [entFind, he]
    rw [lineFind_snoc (y := { x with lines := x.lines ++ [l], entries := entsDrop x l.part l.addr }) (x := z) rfl rfl hnone]
    split
    case isTrue => rfl
    case isFalse hk => exact lineFind_entries rfl rfl fun e _ => entFind_drop hk e

theorem linePut_frame (x : Slice) (l : Line) : linePut x l = { x with lines := (linePut x l).lines, entries := (linePut x l).entries } := by
  unfold linePut
  split <;> rfl

/-! A read that hits (R197). -/

/-- The data of those of the lines `as` that the slice holds. -/
def heldData (x : Slice) (p : Nat) (as : List Nat) : List LineData :=
  as.filterMap (fun a => (lineFind x p a).map (fun l => ⟨a, l.data, l.pois⟩))

section
variable {x : Slice} {p : Nat}

theorem find_heldData (x : Slice) (p : Nat) (as : List Nat) (a : Nat) :
    (heldData x p as).find? (fun d => d.addr = a) = if a ∈ as then (lineFind x p a).map (fun l => ⟨a, l.data, l.pois⟩) else none := by
  induction as with
  | nil => rfl
  | cons b as ih =>
    unfold heldData at ih ⊢
    rw [List.filterMap_cons]
    by_cases hb : b = a
    · subst hb
      cases hl : lineFind x p b with
      | none => simp [ih, hl]
      | some l => simp
    · have hba : a ≠ b := Ne.symm hb
      cases hl : lineFind x p b with
      | none => simp [ih, hba]
      | some l => simp [ih, hb, hba]

section
variable {as : List Nat} {got : List Line} (hgot : as.map (lineFind x p) = got.map some)
include hgot

theorem lineFind_isSome_of_map {a : Nat} (ha : a ∈ as) : (lineFind x p a).isSome := by
  have hm : lineFind x p a ∈ got.map some := hgot ▸ List.mem_map_of_mem ha
  obtain ⟨l, -, hl⟩ := List.mem_map.1 hm
  simp [← hl]

theorem any_heldData : (heldData x p as).any LineData.ue = got.any Line.pois := by
  induction as generalizing got with
  | nil =>
    obtain rfl : got = [] := by simpa using hgot.symm
    rfl
  | cons a as ih =>
    cases got with
    | nil => simp at hgot
    | cons l got =>
      obtain ⟨hl, hr⟩ := List.cons.inj hgot
      rw [List.any_cons, ← ih hr]
      simp [heldData, hl]

theorem flatMap_heldData (zero : List Byte) :
    as.flatMap (fun a => (((heldData x p as).find? (fun d => d.addr = a)).map LineData.data).getD zero) = got.flatMap Line.data := by
  calc as.flatMap (fun a => (((heldData x p as).find? (fun d => d.addr = a)).map LineData.data).getD zero)
      = as.flatMap (fun a => ((lineFind x p a).map Line.data).getD zero) :=
        List.flatMap_congr fun a ha => by simp [find_heldData, ha, Function.comp_def]
    _ = (as.map (lineFind x p)).flatMap (fun o => (o.map Line.data).getD zero) := by rw [List.flatMap_map]
    _ = got.flatMap Line.data := by rw [hgot, List.flatMap_map]; rfl

end

theorem gather_heldData {pa len : Nat} {got : List Line} (hgot : (reqLines pa len).map (lineFind x p) = got.map some) :
    gather pa len (heldData x p (reqLines pa len)) = ((got.flatMap Line.data).drop (pa % 256)).take len := by
  unfold gather
  dsimp only
  rw [flatMap_heldData hgot]

end

theorem chmInject_none {s : State} {sl : Nat} (hi : injKind s 16 sl = none) (a : Option Nat) : chmInject s sl a = (false, s) := by
  simp [chmInject, hi]

section
variable {s : State} {sl : Nat} {got : List Line}

theorem serveLines_held {p : Nat} {as : List Nat} (hi : injKind s 16 sl = none) (hgot : as.map (lineFind (slGet s sl) p) = got.map some) (k : Nat)
    (alloc : Bool) : serveLines s sl p k as alloc = (some ⟨slPut s sl (touch (slGet s sl) p as), heldData (slGet s sl) p as, [], true⟩, s) := by
  have hneed : as.filter (fun a => (lineFind (slGet s sl) p a).isNone) = [] := by
    simpa [List.filter_eq_nil_iff] using fun a ha => Option.isSome_iff_ne_none.1 (lineFind_isSome_of_map hgot ha)
  simp only [serveLines, chmInject_none hi, ite_self, hneed, Bool.false_and, Bool.false_eq_true, if_false, List.isEmpty_nil, if_true]
  rfl


end

/-! What a slice counts and answers. -/

section
variable (s : State) (sl : Nat)

theorem chmBump_eq (r : Reg) (n w : Nat) : chmBump s sl r n w = bump s (bit (rd s (R.chmCtrl sl)) 0) r n w := rfl

@[simp] theorem slGet_chmBump (r : Reg) (n w k : Nat) : slGet (chmBump s sl r n w) k = slGet s k := slGet_bump ..
@[simp] theorem hget_chmBump (r : Reg) (n w h : Nat) : hget (chmBump s sl r n w) h = hget s h := hget_bump ..
@[simp] theorem hbm_chmBump (r : Reg) (n w : Nat) : (chmBump s sl r n w).hbm = s.hbm := bump_hbm ..
@[simp] theorem mcast_chmBump (r : Reg) (n w : Nat) : (chmBump s sl r n w).mcast = s.mcast := bump_mcast ..
@[simp] theorem telNow_chmBump (r : Reg) (n w : Nat) : telNow (chmBump s sl r n w) = telNow s := congrArg (· / 275) (bump_now ..)

theorem memoryServed_chmBump (r : Reg) (n w : Nat) : MemoryServed s (chmBump s sl r n w) := memoryServed_bump ..

theorem rd_chmBump_same (r : Reg) (n w : Nat) :
    rd (chmBump s sl r n w) r = if bit (rd s (R.chmCtrl sl)) 0 then rd s r else (rd s r + n) % 2 ^ w := rd_bump_same ..

theorem rd_chmBump_other {r q : Reg} (h : q.addr ≠ r.addr) (n w : Nat) : rd (chmBump s sl r n w) q = rd s q := rd_bump_other _ _ h _ _

@[simp] theorem slGet_histCount (h t0 k : Nat) : slGet (histCount s h t0) k = slGet s k := slGet_bump ..
@[simp] theorem hget_histCount (h t0 k : Nat) : hget (histCount s h t0) k = hget s k := hget_bump ..
@[simp] theorem hbm_histCount (h t0 : Nat) : (histCount s h t0).hbm = s.hbm := bump_hbm ..
@[simp] theorem mcast_histCount (h t0 : Nat) : (histCount s h t0).mcast = s.mcast := bump_mcast ..

theorem memoryServed_histCount (h t0 : Nat) : MemoryServed s (histCount s h t0) := memoryServed_bump ..

theorem rd_histCount_other {h t0 : Nat} {q : Reg} (hq : q.addr ≠ (R.telHistHB h (histBin (telNow s - t0))).addr) :
    rd (histCount s h t0) q = rd s q := rd_bump_other _ _ hq _ _

section
variable (r : MReq) (got : List LineData)

/-- An answer reaches its hearth and nothing else. -/
theorem respond_hmod : ∃ f, respond s r got = hmod s r.h f := by
  unfold respond
  dsimp only
  split <;> exact ⟨_, rfl⟩

@[simp] theorem slGet_respond (k : Nat) : slGet (respond s r got) k = slGet s k := by obtain ⟨f, e⟩ := respond_hmod s r got; rw [e]; rfl
@[simp] theorem rd_respond (q : Reg) : rd (respond s r got) q = rd s q := by obtain ⟨f, e⟩ := respond_hmod s r got; rw [e]; rfl
@[simp] theorem hbm_respond : (respond s r got).hbm = s.hbm := by obtain ⟨f, e⟩ := respond_hmod s r got; rw [e]; rfl
@[simp] theorem mcast_respond : (respond s r got).mcast = s.mcast := by obtain ⟨f, e⟩ := respond_hmod s r got; rw [e]; rfl

theorem memoryServed_respond : MemoryServed s (respond s r got) := by obtain ⟨f, e⟩ := respond_hmod s r got; rw [e]; rfl

theorem respond_read (hw : r.wr = false) (hh : r.hint = false) :
    (hget (respond s r got) r.h).resps = (hget s r.h).resps ++ [⟨r.id, gather r.pa r.len got, got.any LineData.ue⟩] := by
  simp [respond, hw, hh]

theorem respond_write (hw : r.wr = true) (hh : r.hint = false) :
    (hget (respond s r []) r.h).resps = (hget s r.h).resps ++ [⟨r.id, [], false⟩] := by
  simp [respond, hw, hh]

end

end

/-! A hit (R197, R202). -/

/-- Read `r` hits: slice `sl` is left as `x`, and the answer and what it counts leave. -/
def readHit (s : State) (sl : Nat) (x : Slice) (r : MReq) (got : List LineData) : State :=
  downBytes (respond (histCount (chmBump (slPut s sl x) sl (R.chmHits sl) 1) (18 + sl) r.t0) r got) sl r.len

section
variable {s : State} {sl : Nat} {x : Slice} {r : MReq}

theorem readUni_held {i : Nat} {got : List Line} (hi : injKind s 16 sl = none)
    (hgot : (reqLines r.pa r.len).map (lineFind (slGet s sl) r.part) = got.map some) (tagged : Bool) :
    readUni s sl i r tagged false =
      let w := readHit s sl { touch (slGet s sl) r.part (reqLines r.pa r.len) with reqs := ldel (slGet s sl).reqs i } r
        (heldData (slGet s sl) r.part (reqLines r.pa r.len))
      if tagged then chmBump w sl (R.chmMcUnicast sl) 1 else w := by
  simp only [readUni, serveLines_held hi hgot, answer, served, slMod, slGet_slPut_same, slPut_slPut, List.isEmpty_nil, if_true,
    Bool.false_eq_true, if_false]
  rfl

/-- The counters of a hit are apart, and apart from the registers of R448. -/
theorem hitCounters_addr (hs : sl < 4) (b : Nat) :
    ([R.chmCtrl sl, R.chmHits sl, R.chmBytesDown sl, R.chmBytesUp sl, R.chmMcUnicast sl, R.telHistHB (18 + sl) b].map Reg.addr).Nodup ∧
      (R.chmHits sl).addr ∉ noteRegs ∧ (R.chmMcUnicast sl).addr ∉ noteRegs := by
  simp [noteRegs, R.chmCtrl, R.chmHits, R.chmBytesDown, R.chmBytesUp, R.chmMcUnicast, R.telHistHB, R.prtErrLog, R.prtErrCount, blkBase]
  omega

theorem memoryServed_readHit (got : List LineData) : MemoryServed s (readHit s sl x r got) :=
  .trans (t := slPut s sl x) rfl ((memoryServed_chmBump ..).trans ((memoryServed_histCount ..).trans ((memoryServed_respond ..).trans
    (memoryServed_chmBump ..))))

theorem rd_readHit_other {q : Reg} (got : List LineData)
    (hq : q.addr ∉ [R.chmHits sl, R.chmBytesDown sl, R.telHistHB (18 + sl) (histBin (telNow s - r.t0))].map Reg.addr) :
    rd (readHit s sl x r got) q = rd s q := by
  simp only [List.map_cons, List.map_nil, List.mem_cons, List.not_mem_nil, or_false, not_or] at hq
  obtain ⟨h1, h2, h3⟩ := hq
  rw [readHit, downBytes, rd_chmBump_other _ _ h2, rd_respond, rd_histCount_other, rd_chmBump_other _ _ h1, rd_slPut]
  rwa [telNow_chmBump]

end

section
variable {s : State} {sl i : Nat} {r : MReq}

/-- A read of lines that the slice holds is served at once, as unicast where its group is not VALID (R197, R205). -/
theorem chmRead_unicast (hr : lget (slGet s sl).reqs i = some r) (hhint : r.hint = false) (hblk : lineBlocked (slGet s sl) i r = false)
    (hdue : dueWaits s sl i r = false) (hwr : r.wr = false) (hmc : r.mcast = 0 ∨ bit (rd s (R.chmMcgPG sl r.part r.mcast)) 0 = false) :
    chmRead s sl i = readUni s sl i r (decide (r.mcast ≠ 0)) false := by
  by_cases h0 : r.mcast = 0
  · simp [chmRead, hr, hwr, hhint, hblk, hdue, h0]
  · simp [chmRead, hr, hwr, hhint, hblk, hdue, h0, hmc.resolve_left h0]

end

/-- The counters that a hit changes (R202, R481). -/
def hitRegs (s : State) (sl : Nat) (r : MReq) : List Reg :=
  [R.chmHits sl, R.chmBytesDown sl, R.chmMcUnicast sl, R.telHistHB (18 + sl) (histBin (telNow s - r.t0))]

/-- A read that hits, `tagged` for one of a multicast group, which counts as served as unicast too. -/
def uniHit (s : State) (sl : Nat) (x : Slice) (r : MReq) (got : List LineData) (tagged : Bool) : State :=
  if tagged then chmBump (readHit s sl x r got) sl (R.chmMcUnicast sl) 1 else readHit s sl x r got

section
variable (s : State) (sl : Nat) (x : Slice) (r : MReq) (got : List LineData) (tagged : Bool)

/-- Beside the count of unicast, a tagged hit is a hit. -/
theorem uniHit_bump : ∃ frz, uniHit s sl x r got tagged = bump (readHit s sl x r got) frz (R.chmMcUnicast sl) 1 := by
  cases tagged
  · exact ⟨true, rfl⟩
  · exact ⟨_, rfl⟩

theorem memoryServed_uniHit : MemoryServed s (uniHit s sl x r got tagged) := by
  obtain ⟨frz, e⟩ := uniHit_bump s sl x r got tagged
  rw [e]
  exact (memoryServed_readHit got).trans (memoryServed_bump ..)

theorem uniHit_units : (∀ k, slGet (uniHit s sl x r got tagged) k = slGet (slPut s sl x) k) ∧ (uniHit s sl x r got tagged).mcast = s.mcast ∧
    (uniHit s sl x r got tagged).hbm = s.hbm := by
  obtain ⟨frz, e⟩ := uniHit_bump s sl x r got tagged
  rw [e]
  simp [readHit, downBytes]

theorem uniHit_resps (hwr : r.wr = false) (hhint : r.hint = false) : (hget (uniHit s sl x r got tagged) r.h).resps =
    (hget s r.h).resps ++ [⟨r.id, gather r.pa r.len got, got.any LineData.ue⟩] := by
  obtain ⟨frz, e⟩ := uniHit_bump s sl x r got tagged
  rw [e, hget_bump, readHit, downBytes, hget_chmBump, respond_read _ _ _ hwr hhint]
  simp

theorem rd_uniHit_other {q : Reg} (hq : q.addr ∉ (hitRegs s sl r).map Reg.addr) : rd (uniHit s sl x r got tagged) q = rd s q := by
  obtain ⟨frz, e⟩ := uniHit_bump s sl x r got tagged
  simp only [hitRegs, List.map_cons, List.map_nil, List.mem_cons, List.not_mem_nil, or_false, not_or] at hq
  obtain ⟨h1, h2, h3, h4⟩ := hq
  rw [e, rd_bump_other _ _ h3, rd_readHit_other got (by simp [h1, h2, h4])]

variable {sl}

theorem rd_uniHit_hits (hs : sl < 4) (hf : bit (rd s (R.chmCtrl sl)) 0 = false) :
    rd (uniHit s sl x r got tagged) (R.chmHits sl) = (rd s (R.chmHits sl) + 1) % 2 ^ 48 := by
  obtain ⟨frz, e⟩ := uniHit_bump s sl x r got tagged
  have haddr := (hitCounters_addr hs (histBin (telNow s - r.t0))).1
  simp only [List.map_cons, List.map_nil, List.nodup_cons, List.mem_cons, List.not_mem_nil, or_false, not_or] at haddr
  obtain ⟨⟨hch, -⟩, ⟨hdown, -, huni, hbin⟩, -⟩ := haddr
  rw [e, rd_bump_other _ _ huni, readHit, downBytes, rd_chmBump_other _ _ hdown, rd_respond,
    rd_histCount_other _ (by rwa [telNow_chmBump]), rd_chmBump_same, rd_slPut, rd_slPut, hf]
  rfl

theorem rd_uniHit_unicast (hs : sl < 4) (hf : bit (rd s (R.chmCtrl sl)) 0 = false) :
    rd (uniHit s sl x r got true) (R.chmMcUnicast sl) = (rd s (R.chmMcUnicast sl) + 1) % 2 ^ 48 := by
  have haddr := (hitCounters_addr hs (histBin (telNow s - r.t0))).1
  simp only [List.map_cons, List.map_nil, List.nodup_cons, List.mem_cons, List.not_mem_nil, or_false, not_or] at haddr
  obtain ⟨⟨hch, hcd, -, -, hcb⟩, ⟨-, -, hhu, -⟩, ⟨-, hdu, -⟩, -, hub, -⟩ := haddr
  rw [uniHit, if_pos rfl, rd_chmBump_same, rd_readHit_other got (by simp [hch, hcd, hcb]), rd_readHit_other got (by simp [Ne.symm hhu, Ne.symm hdu, hub]),
    hf]
  rfl

theorem rd_uniHit_untagged (hs : sl < 4) : rd (uniHit s sl x r got false) (R.chmMcUnicast sl) = rd s (R.chmMcUnicast sl) := by
  have haddr := (hitCounters_addr hs (histBin (telNow s - r.t0))).1
  simp only [List.map_cons, List.map_nil, List.nodup_cons, List.mem_cons, List.not_mem_nil, or_false, not_or] at haddr
  obtain ⟨-, ⟨-, -, hhu, -⟩, ⟨-, hdu, -⟩, -, hub, -⟩ := haddr
  exact rd_readHit_other got (by simp [Ne.symm hhu, Ne.symm hdu, hub])

end

/-! A write that hits (R200). -/

/-- Write `r` hits: slice `sl` is left as `x`, the write is acknowledged, and what it counts. -/
def writeHit (s : State) (sl : Nat) (x : Slice) (r : MReq) : State :=
  respond (chmBump (chmBump (slPut s sl x) sl (R.chmHits sl) 1) sl (R.chmBytesUp sl) r.len 64) r []

theorem chmWrite_line {s : State} {sl i : Nat} {r : MReq} {a : Nat} {l : Line} (hr : lget (slGet s sl).reqs i = some r)
    (hblk : lineBlocked (slGet s sl) i r = false) (hdue : dueWaits s sl i r = false) (hwr : r.wr = true) (hlines : reqLines r.pa r.len = [a])
    (hl : lineFind (slGet s sl) r.part a = some l) :
    chmWrite s sl i =
      writeHit s sl { linePut (slGet s sl) (lineWrite l (linePart r.pa r.data a).1 (linePart r.pa r.data a).2) with reqs := ldel (slGet s sl).reqs i } r := by
  have hreqs : ∀ z, (linePut (slGet s sl) z).reqs = (slGet s sl).reqs := fun z => by rw [linePut_frame]
  simp [chmWrite, hr, hwr, hblk, hdue, hlines, hl, writeLines, served, slMod, hreqs, writeHit]

section
variable (s : State) (sl : Nat) (x : Slice) (r : MReq)

theorem memoryServed_writeHit : MemoryServed s (writeHit s sl x r) :=
  .trans (t := slPut s sl x) rfl ((memoryServed_chmBump ..).trans ((memoryServed_chmBump ..).trans (memoryServed_respond ..)))

theorem writeHit_units : (∀ k, slGet (writeHit s sl x r) k = slGet (slPut s sl x) k) ∧ (writeHit s sl x r).mcast = s.mcast ∧
    (writeHit s sl x r).hbm = s.hbm := by
  simp [writeHit]

theorem writeHit_resps (hwr : r.wr = true) (hhint : r.hint = false) :
    (hget (writeHit s sl x r) r.h).resps = (hget s r.h).resps ++ [⟨r.id, [], false⟩] := by
  rw [writeHit, respond_write _ _ hwr hhint]
  simp

theorem rd_writeHit_other {q : Reg} (hq : q.addr ∉ [R.chmHits sl, R.chmBytesUp sl].map Reg.addr) : rd (writeHit s sl x r) q = rd s q := by
  simp only [List.map_cons, List.map_nil, List.mem_cons, List.not_mem_nil, or_false, not_or] at hq
  rw [writeHit, rd_respond, rd_chmBump_other _ _ hq.2, rd_chmBump_other _ _ hq.1, rd_slPut]

end

/-- Settles O19: a read of held lines is a `uniHit` (`chmRead_unicast`, `readUni_held`), a write of a held line a `writeHit` that puts the merged line
(`chmWrite_line`, `lineFind_linePut`); both leave HBM and every other slice. -/
theorem sliceHits : Obligations.SliceHits := by
  unfold Obligations.SliceHits
  intro s sl i r hs hc hr hhint hblk hdue x F
  refine ⟨fun got hwr hmc hi hgot => ?read, fun a l hwr hlines hl => ?write⟩
  case read =>
    set y : Slice := { touch x r.part (reqLines r.pa r.len) with reqs := ldel x.reqs i } with hy
    set v := uniHit (quiet s) sl y r (heldData x r.part (reqLines r.pa r.len)) (decide (r.mcast ≠ 0)) with hv
    have e : chmRead (quiet s) sl i = v := (chmRead_unicast (s := quiet s) hr hhint hblk hdue hwr hmc).trans (readUni_held (s := quiet s) hi hgot _)
    have hserved : MemoryServed (quiet s) v := memoryServed_uniHit ..
    obtain ⟨hsl, hmcast, hhbm⟩ := uniHit_units (quiet s) sl y r (heldData x r.part (reqLines r.pa r.len)) (decide (r.mcast ≠ 0))
    obtain ⟨-, hnhits, hnuni⟩ := hitCounters_addr hs (histBin (telNow s - r.t0))
    obtain ⟨u, hu, hf⟩ := act_serves (f := fun t => chmRead t sl i) hc hs e hserved
    refine ⟨u, hu, hf.changesOnly hc hserved (fun q hq => rd_uniHit_other (quiet s) sl y r _ _ hq) ?_, ?_, ?_, fun k hk => ?_,
      fun hfrz => ⟨?_, fun h0 => ?_⟩, fun h0 => ?_⟩
    · rw [hf.eq]
      simp only [hmcast, hhbm, hv]
      rfl
    · rw [hf.hget, hv, uniHit_resps _ _ _ _ _ _ hwr hhint, gather_heldData hgot, any_heldData hgot]
      rfl
    · rw [hf.slGet, hv, hsl, slGet_slPut_same]
    · rw [hf.slGet, hv, hsl, slGet_slPut_other _ hk]
      rfl
    · rw [hf.rd _ hnhits]
      exact rd_uniHit_hits (quiet s) y r _ _ hs hfrz
    · rw [hf.rd _ hnuni, hv, decide_eq_true h0]
      exact rd_uniHit_unicast (quiet s) y r _ hs hfrz
    · rw [hf.rd _ hnuni, hv, decide_eq_false (not_not.2 h0)]
      exact rd_uniHit_untagged (quiet s) y r _ hs
  case write =>
    set z := lineWrite l (linePart r.pa r.data a).1 (linePart r.pa r.data a).2 with hz
    have hkey : l.part = r.part ∧ l.addr = a := lineFind_key hl
    obtain ⟨hzp, hza⟩ : z.part = r.part ∧ z.addr = a := hkey
    set y : Slice := { linePut x z with reqs := ldel x.reqs i } with hy
    set v := writeHit (quiet s) sl y r with hv
    have e : chmWrite (quiet s) sl i = v := chmWrite_line (s := quiet s) hr hblk hdue hwr hlines hl
    have hserved : MemoryServed (quiet s) v := memoryServed_writeHit ..
    obtain ⟨hsl, hmcast, hhbm⟩ := writeHit_units (quiet s) sl y r
    obtain ⟨u, hu, hf⟩ := act_serves (f := fun t => chmWrite t sl i) hc hs e hserved
    have hfind : ∀ p b, lineFind (slGet u sl) p b = if r.part = p ∧ a = b then some z else lineFind x p b := fun p b => by
      rw [hf.slGet, hv, hsl, slGet_slPut_same, ← hzp, ← hza, ← lineFind_linePut]
      rfl
    refine ⟨u, hu, hf.changesOnly hc hserved (fun q hq => rd_writeHit_other (quiet s) sl y r hq) ?_, ?_, fun p b hk => ?_, ?_, ?_, ?_, fun k hk => ?_⟩
    · rw [hf.eq]
      simp only [hmcast, hhbm, hv]
      rfl
    · rw [hfind, if_pos ⟨rfl, rfl⟩]
      rfl
    · rw [hfind, if_neg fun h => hk (by rw [h.1, h.2])]
    · rw [hf.hget, hv, writeHit_resps _ _ _ _ hwr hhint]
      rfl
    · rw [hf.slGet, hv, hsl, slGet_slPut_same]
    · rw [hf.slGet, hv, hsl, slGet_slPut_same, hy, linePut_frame]
    · rw [hf.slGet, hv, hsl, slGet_slPut_other _ hk]
      rfl

/-! Lines installed by a fill (R199). -/

/-- The line that fill `f` installs for the data `d`. -/
def filled (f : Fill) (d : LineData) : Line := ⟨f.part, d.addr, f.k, d.data, false, false, true⟩

/-- The slice once the lines of a fill's data are installed. -/
def installAll (x : Slice) (f : Fill) (ds : List LineData) : Slice := ds.foldl (fun x d => install x f d) x

section
variable {x : Slice} {f : Fill} {d : LineData} {p a : Nat} {l : Line}

theorem install_taken (ht : d.addr ∈ f.take) (hu : d.ue = false) (hn : lineFind x f.part d.addr = none) :
    install x f d = { x with lines := x.lines ++ [filled f d] } := by
  simp [install, ht, hu, hn, filled]

/-- A line is installed where one was taken for it, it came without error, and none is held; else the slice stays. -/
theorem install_cases (x : Slice) (f : Fill) (d : LineData) :
    install x f d = x ∨ d.addr ∈ f.take ∧ d.ue = false ∧ lineFind x f.part d.addr = none := by
  by_cases h : d.addr ∈ f.take ∧ d.ue = false ∧ lineFind x f.part d.addr = none
  · exact .inr h
  · refine .inl (if_neg ?_)
    simpa [and_assoc] using h

theorem lineFind_install_taken (ht : d.addr ∈ f.take) (hu : d.ue = false) (hn : lineFind x f.part d.addr = none) (p a : Nat) :
    lineFind (install x f d) p a = if f.part = p ∧ d.addr = a then some (filled f d) else lineFind x p a :=
  lineFind_snoc (x := x) (n := filled f d) (by rw [install_taken ht hu hn]) (by rw [install_taken ht hu hn]) hn

theorem lineFind_install_held (h : lineFind x p a = some l) : lineFind (install x f d) p a = some l := by
  rcases install_cases x f d with e | ⟨ht, hu, hn⟩
  · rw [e, h]
  · rw [lineFind_install_taken ht hu hn, if_neg, h]
    rintro ⟨rfl, rfl⟩
    exact Option.some_ne_none l (h.symm.trans hn)

theorem lineFind_install_new (ht : d.addr ∈ f.take) (hu : d.ue = false) (hn : lineFind x f.part d.addr = none) :
    lineFind (install x f d) f.part d.addr = some (filled f d) := by
  rw [lineFind_install_taken ht hu hn, if_pos ⟨rfl, rfl⟩]

theorem lineFind_install_other (ha : d.addr ≠ a) : lineFind (install x f d) p a = lineFind x p a := by
  rcases install_cases x f d with e | ⟨ht, hu, hn⟩
  · rw [e]
  · rw [lineFind_install_taken ht hu hn, if_neg fun h => ha h.2]

theorem mem_install (h : l ∈ (install x f d).lines) : l ∈ x.lines ∨ d.addr ∈ f.take ∧ d.ue = false ∧ l = filled f d := by
  rcases install_cases x f d with e | ⟨ht, hu, hn⟩
  · rw [e] at h
    exact .inl h
  · rw [install_taken ht hu hn] at h
    rcases List.mem_append.1 h with h | h
    · exact .inl h
    · exact .inr ⟨ht, hu, List.mem_singleton.1 h⟩

theorem install_frame (x : Slice) (f : Fill) (d : LineData) : install x f d = { x with lines := (install x f d).lines } := by
  unfold install
  split <;> rfl

theorem installAll_frame (x : Slice) (f : Fill) (ds : List LineData) : installAll x f ds = { x with lines := (installAll x f ds).lines } := by
  induction ds generalizing x with
  | nil => rfl
  | cons d ds ih =>
    have hlines : ∀ ls, ({ install x f d with lines := ls } : Slice) = { x with lines := ls } := fun ls => by rw [install_frame]
    exact (ih (install x f d)).trans (hlines _)

theorem lineFind_installAll_held (ds : List LineData) (h : lineFind x p a = some l) : lineFind (installAll x f ds) p a = some l := by
  induction ds generalizing x with
  | nil => exact h
  | cons d ds ih => exact ih (lineFind_install_held h)

theorem lineFind_installAll_new {ds : List LineData} (hnd : (ds.map LineData.addr).Nodup) (hd : d ∈ ds) (ht : d.addr ∈ f.take) (hu : d.ue = false)
    (hn : lineFind x f.part d.addr = none) : lineFind (installAll x f ds) f.part d.addr = some (filled f d) := by
  induction ds generalizing x with
  | nil => cases hd
  | cons b ds ih =>
    obtain ⟨hb, hnd⟩ := List.nodup_cons.1 hnd
    rcases List.mem_cons.1 hd with rfl | hd
    · exact lineFind_installAll_held ds (lineFind_install_new ht hu hn)
    · have hne : b.addr ≠ d.addr := fun h => hb (h ▸ List.mem_map_of_mem hd)
      exact ih hnd hd ((lineFind_install_other hne).trans hn)

theorem mem_installAll {ds : List LineData} (h : l ∈ (installAll x f ds).lines) :
    l ∈ x.lines ∨ ∃ d ∈ ds, d.addr ∈ f.take ∧ d.ue = false ∧ l = filled f d := by
  induction ds generalizing x with
  | nil => exact .inl h
  | cons b ds ih =>
    rcases ih h with h | ⟨d, hd, hx⟩
    · rcases mem_install h with h | hx
      · exact .inl h
      · exact .inr ⟨b, by simp, hx⟩
    · exact .inr ⟨d, .tail _ hd, hx⟩

/-! Entries that receive lines or deliver copies (R206, R207). -/

/-- An entry that receives lines gains none that the slice holds. -/
theorem entFind_entGive (q : Nat) (ds : List LineData) (h : lineFind x p a = some l) (e : McEnt) :
    entFind p a (entGive x q ds e) = entFind p a e := by
  unfold entGive
  split
  case isFalse => rfl
  case isTrue hq =>
    by_cases hp : e.part = p
    · obtain rfl : q = p := hq.symm.trans hp
      have hnone : (ds.filter (fun d => e.need.contains d.addr && (lineFind x q d.addr).isNone)).find? (fun d => d.addr = a) = none := by
        rw [List.find?_eq_none]
        intro d hd ha
        obtain ⟨-, hd⟩ := List.mem_filter.1 hd
        rw [show d.addr = a by simpa using ha, h] at hd
        simp at hd
      simp only [entFind, hp, if_true, List.find?_append, hnone, Option.or_none]
    · simp only [entFind, hp, if_false]

end

/-- An entry after the copies `out` (group, granule and firebox) crossed in the base-die cycle `now`. -/
def entCrossed (now : Nat) (out : List (Nat × Nat × Nat)) (e : McEnt) : McEnt :=
  let mine := (out.filter (fun c => c.1 = mcKey e.part e.group && c.2.1 = e.gran)).map (fun c => c.2.2)
  if mine.isEmpty then e else { e with cyc := now, boxes := mine }

/-- What an entry holds stays. -/
theorem entFind_entCrossed (now : Nat) (out : List (Nat × Nat × Nat)) (p a : Nat) (e : McEnt) : entFind p a (entCrossed now out e) = entFind p a e := by
  unfold entCrossed
  dsimp only
  split <;> rfl

/-- The slice once copies have crossed. -/
def sliceCrossed (now : Nat) (out : List (Nat × Nat × Nat)) (x : Slice) : Slice := { x with entries := x.entries.map (entCrossed now out) }

theorem lineFind_sliceCrossed (now : Nat) (out : List (Nat × Nat × Nat)) (x : Slice) (p a : Nat) :
    lineFind (sliceCrossed now out x) p a = lineFind x p a :=
  lineFind_entries rfl rfl fun e _ => entFind_entCrossed now out p a e

/-- The delivery of copies marks entries of its slice, and counts. -/
theorem mcDeliver_cases (s : State) (sl : Nat) (rs : List MReq) : ∃ out n m,
    mcDeliver s sl rs = slMod s sl (sliceCrossed (telNow s) out) ∨
      mcDeliver s sl rs = downBytes (chmBump (slMod s sl (sliceCrossed (telNow s) out)) sl (R.chmMcCopies sl) n) sl m := by
  unfold mcDeliver
  dsimp only
  split
  · exact ⟨_, 0, 0, .inl rfl⟩
  · exact ⟨_, _, _, .inr rfl⟩

theorem mcDeliver_crosses (s : State) (sl : Nat) (rs : List MReq) : ∃ out, slGet (mcDeliver s sl rs) sl = sliceCrossed (telNow s) out (slGet s sl) ∧
    MemoryServed s (mcDeliver s sl rs) ∧ (∀ h, hget (mcDeliver s sl rs) h = hget s h) ∧ (mcDeliver s sl rs).hbm = s.hbm := by
  obtain ⟨out, n, m, e | e⟩ := mcDeliver_cases s sl rs
  · rw [e]
    exact ⟨out, slGet_slMod_same .., rfl, fun _ => rfl, rfl⟩
  · rw [e]
    have hserved : MemoryServed s (slMod s sl (sliceCrossed (telNow s) out)) := rfl
    refine ⟨out, ?_, hserved.trans ((memoryServed_chmBump ..).trans (memoryServed_chmBump ..)), fun h => ?_, ?_⟩
    · simp [downBytes]
    · simp only [downBytes, hget_chmBump]
      rfl
    · simp only [downBytes, hbm_chmBump]
      rfl

/-! A fill that comes back (R199). -/

/-- The slice `x` once fill `i`, which is `f`, has left it with the data `ds`: lines installed, entries served, and no request waiting. -/
def fillLanded (x : Slice) (i : Nat) (f : Fill) (ds : List LineData) : Slice :=
  let x1 := installAll { x with fills := ldel x.fills i } f ds
  { x1 with waits := [], entries := x1.entries.map (entGive x1 f.part ds) }

section
variable {x : Slice} {i p a : Nat} {f : Fill} {ds : List LineData} {l : Line}

theorem lineFind_fillLanded (h : lineFind (installAll { x with fills := ldel x.fills i } f ds) p a = some l) :
    lineFind (fillLanded x i f ds) p a = some l :=
  (lineFind_entries (x := installAll { x with fills := ldel x.fills i } f ds) (y := fillLanded x i f ds) rfl rfl
    fun e _ => entFind_entGive f.part ds h e).trans h

theorem lineFind_fillLanded_held (h : lineFind x p a = some l) : lineFind (fillLanded x i f ds) p a = some l :=
  lineFind_fillLanded (lineFind_installAll_held ds h)

theorem lineFind_fillLanded_new {d : LineData} (hnd : (ds.map LineData.addr).Nodup) (hd : d ∈ ds) (ht : d.addr ∈ f.take) (hu : d.ue = false)
    (hn : lineFind x f.part d.addr = none) : lineFind (fillLanded x i f ds) f.part d.addr = some (filled f d) :=
  lineFind_fillLanded (lineFind_installAll_new hnd hd ht hu hn)

theorem fillLanded_fills (x : Slice) (i : Nat) (f : Fill) (ds : List LineData) : (fillLanded x i f ds).fills = ldel x.fills i := by
  unfold fillLanded
  rw [installAll_frame]

end

section
variable {s : State} {sl i : Nat} {f : Fill} {ds : List LineData} {w : MWait}

/-- The one waiting read takes the data that it needed. -/
theorem waitGive_whole (hpart : w.req.part = f.part) (hneed : ∀ a ∈ w.need, ∃ d ∈ ds, d.addr = a) :
    waitGive f.part ds w = { w with got := w.got ++ ds.filter (fun d => w.need.contains d.addr), need := [] } := by
  have h : w.need.filter (fun a => !ds.any (fun d => d.addr = a)) = [] := by
    simpa [List.filter_eq_nil_iff] using hneed
  simp only [waitGive, hpart, if_true, h]

/-- The fill `i` answers the one read that waited, with `got` of the lines; copies of a multicast read go on as copies do. -/
def fillAnswered (s : State) (sl : Nat) (x : Slice) (w : MWait) (got : List LineData) : State :=
  downBytes (mcDeliver (respond (histCount (slPut s sl x) (22 + sl) w.req.t0) w.req got) sl (if w.mc then [w.req] else [])) sl
    (if w.mc then 0 else w.req.len)

theorem chmFillComplete_answers (hf : lget (slGet s sl).fills i = some f) (hret : f.ret = some ds) (hw : (slGet s sl).waits = [w])
    (hwr : w.req.wr = false) (hhint : w.req.hint = false) (hpart : w.req.part = f.part) (hneed : ∀ a ∈ w.need, ∃ d ∈ ds, d.addr = a) :
    chmFillComplete s sl i =
      fillAnswered s sl (fillLanded (slGet s sl) i f ds) w (w.got ++ ds.filter (fun d => w.need.contains d.addr)) := by
  have hwaits : (installAll { slGet s sl with fills := ldel (slGet s sl).fills i } f ds).waits = [w] := by
    rw [installAll_frame]
    exact hw
  have hpass : passOn ds w = 0 := by simp [passOn, hwr]
  have hgive := waitGive_whole hpart hneed
  unfold chmFillComplete fillAnswered fillLanded
  simp only [hf, hret]
  rw [← installAll]
  generalize installAll { slGet s sl with fills := ldel (slGet s sl).fills i } f ds = x1 at hwaits
  simp only [hw, hwaits, List.map_cons, List.map_nil, hgive]
  cases w.mc <;> simp [hpart, hpass, hwr, hhint, finish]

end

section
variable (s : State) (sl : Nat) (x : Slice) (w : MWait) (got : List LineData)

theorem fillAnswered_units : ∃ now out, slGet (fillAnswered s sl x w got) sl = sliceCrossed now out x ∧
    MemoryServed s (fillAnswered s sl x w got) ∧ (fillAnswered s sl x w got).hbm = s.hbm := by
  unfold fillAnswered downBytes
  obtain ⟨out, hsl, hserved, -, hhbm⟩ := mcDeliver_crosses (respond (histCount (slPut s sl x) (22 + sl) w.req.t0) w.req got) sl
    (if w.mc then [w.req] else [])
  refine ⟨telNow (respond (histCount (slPut s sl x) (22 + sl) w.req.t0) w.req got), out, ?_, ?_, ?_⟩
  · rw [slGet_chmBump, hsl, slGet_respond, slGet_histCount, slGet_slPut_same]
  · exact .trans (t := slPut s sl x) rfl ((memoryServed_histCount ..).trans ((memoryServed_respond ..).trans (hserved.trans (memoryServed_chmBump ..))))
  · rw [hbm_chmBump, hhbm, hbm_respond, hbm_histCount]
    rfl

theorem fillAnswered_resps (hwr : w.req.wr = false) (hhint : w.req.hint = false) :
    (hget (fillAnswered s sl x w got) w.req.h).resps =
      (hget s w.req.h).resps ++ [⟨w.req.id, gather w.req.pa w.req.len got, got.any LineData.ue⟩] := by
  unfold fillAnswered downBytes
  obtain ⟨out, -, -, hhget, -⟩ := mcDeliver_crosses (respond (histCount (slPut s sl x) (22 + sl) w.req.t0) w.req got) sl
    (if w.mc then [w.req] else [])
  rw [hget_chmBump, hhget, respond_read _ _ _ hwr hhint, hget_histCount]
  rfl

end

/-- A fill that one read awaited comes back (R199). -/
theorem chmFillComplete_completes {s : State} {sl i : Nat} {f : Fill} {ds : List LineData} {w : MWait} (hs : sl < 4) (hc : Calm s)
    (hf : lget (slGet s sl).fills i = some f) (hret : f.ret = some ds) (hw : (slGet s sl).waits = [w]) (hwr : w.req.wr = false)
    (hhint : w.req.hint = false) (hpart : w.req.part = f.part) (hneed : ∀ a ∈ w.need, ∃ d ∈ ds, d.addr = a) :
    ∃ now out, Completes (.chmFillComplete sl i) s fun u => u.hbm = s.hbm ∧
      slGet u sl = sliceCrossed now out (fillLanded (slGet s sl) i f ds) ∧
      (hget u w.req.h).resps = (hget s w.req.h).resps ++
        [⟨w.req.id, gather w.req.pa w.req.len (w.got ++ ds.filter (fun d => w.need.contains d.addr)),
          (w.got ++ ds.filter (fun d => w.need.contains d.addr)).any LineData.ue⟩] := by
  have e : chmFillComplete (quiet s) sl i = fillAnswered (quiet s) sl (fillLanded (slGet s sl) i f ds) w _ :=
    chmFillComplete_answers (s := quiet s) hf hret hw hwr hhint hpart hneed
  obtain ⟨now, out, hsl, hserved, hhbm⟩ := fillAnswered_units (quiet s) sl (fillLanded (slGet s sl) i f ds) w
    (w.got ++ ds.filter (fun d => w.need.contains d.addr))
  obtain ⟨u, hu, hfol⟩ := act_serves (f := fun t => chmFillComplete t sl i) hc hs e hserved
  refine ⟨now, out, u, hu, ?_, ?_, ?_⟩
  · rw [hfol.eq]
    exact hhbm
  · rw [hfol.slGet, hsl]
  · rw [hfol.hget, fillAnswered_resps _ _ _ _ _ hwr hhint]
    rfl

/-! Hints (R204). -/

/-- Hint `i`, which is `r`, has left the queue of slice `sl`. -/
def hintGone (s : State) (sl i : Nat) (r : MReq) : State := respond (slPut s sl { slGet s sl with reqs := ldel (slGet s sl).reqs i }) r []

section
variable {s : State} {sl i : Nat} {r : MReq}

theorem hintGone_units (s : State) (sl i : Nat) (r : MReq) : slGet (hintGone s sl i r) sl = { slGet s sl with reqs := ldel (slGet s sl).reqs i } ∧
    (hintGone s sl i r).hbm = s.hbm ∧ (∀ q, rd (hintGone s sl i r) q = rd s q) ∧ MemoryServed s (hintGone s sl i r) := by
  refine ⟨?_, ?_, fun q => ?_, .trans (t := slPut s sl _) rfl (memoryServed_respond ..)⟩
  · rw [hintGone, slGet_respond, slGet_slPut_same]
  · rw [hintGone, hbm_respond]
    rfl
  · rw [hintGone, rd_respond, rd_slPut]

/-- The absent lines of a hint that the quota and the slice have room for. -/
def hintLines (s : State) (sl : Nat) (r : MReq) : List Nat :=
  (freshLines (slGet s sl) r.part (reqLines r.pa r.len)).take
    (min (chmQuota s sl r.part - (cachedUse (slGet s sl) r.part + pinnedUse (slGet s sl) r.part)) (generalLines - generalUse (slGet s sl)))

/-- What drops a hint: too few free fill lines, no room below quota, or a stack that does not serve. -/
def hintDropped (s : State) (sl : Nat) (r : MReq) : Bool :=
  (fillLines - fillUsed (slGet s sl)) * 16 < bits (rd s (R.chmCtrl sl)) 8 4 * fillLines ||
    min (chmQuota s sl r.part - (cachedUse (slGet s sl) r.part + pinnedUse (slGet s sl) r.part)) (generalLines - generalUse (slGet s sl)) = 0 ||
    !paServes s r.pa

theorem hintDropped_iff : hintDropped s sl r = true ↔
    (fillLines - fillUsed (slGet s sl)) * 16 < bits (rd s (R.chmCtrl sl)) 8 4 * fillLines ∨
      min (chmQuota s sl r.part - (cachedUse (slGet s sl) r.part + pinnedUse (slGet s sl) r.part)) (generalLines - generalUse (slGet s sl)) = 0 ∨
      paServes s r.pa = false := by
  simp only [hintDropped, Bool.or_eq_true, decide_eq_true_eq, Bool.not_eq_true', or_assoc]

theorem chmHint_eq (hr : lget (slGet s sl).reqs i = some r) (hhint : r.hint = true) (hblk : lineBlocked (slGet s sl) i r = false) :
    chmHint s sl i = if hintDropped s sl r then chmBump (hintGone s sl i r) sl (R.chmHintDrop sl) 1
      else if (hintLines s sl r).isEmpty then hintGone s sl i r
      else if fillLines - fillUsed (slGet s sl) < (hintLines s sl r).length then slPut s sl { slGet s sl with fillWait := true }
      else if !rqRoom s r.pa then qFull s r.pa false
      else fillStart (hintGone s sl i r) sl r.part r.k (hintLines s sl r) (hintLines s sl r) := by
  unfold chmHint
  simp only [hr, hhint, hblk, Bool.not_true, Bool.or_false, Bool.false_eq_true, if_false]
  rfl

theorem rd_chmBump_hintDrop (hf : bit (rd s (R.chmCtrl sl)) 0 = false) :
    rd (chmBump (hintGone s sl i r) sl (R.chmHintDrop sl) 1) (R.chmHintDrop sl) = (rd s (R.chmHintDrop sl) + 1) % 2 ^ 48 := by
  obtain ⟨-, -, hrd, -⟩ := hintGone_units s sl i r
  rw [rd_chmBump_same, hrd, hrd, hf]
  rfl

theorem chmHintDrop_noted (hs : sl < 4) : (R.chmHintDrop sl).addr ∉ noteRegs := by
  simp [noteRegs, R.chmHintDrop, R.prtErrLog, R.prtErrCount, blkBase]
  omega

/-- A fill that starts waits in its slice and in the read queue of its pseudo-channel (R199). -/
theorem fillStart_units (s : State) (sl p k : Nat) (fresh take : List Nat) :
    slGet (fillStart s sl p k fresh take) sl =
        { slGet s sl with fills := (slGet s sl).fills ++ [⟨(slGet s sl).nfill, p, k, fresh, take, none⟩], nfill := (slGet s sl).nfill + 1 } ∧
      pcGet (fillStart s sl p k fresh take) (hbmLoc s.hbm.dead (256 * fresh.head?.getD 0)).k (hbmLoc s.hbm.dead (256 * fresh.head?.getD 0)).p =
        { pcGet s (hbmLoc s.hbm.dead (256 * fresh.head?.getD 0)).k (hbmLoc s.hbm.dead (256 * fresh.head?.getD 0)).p with
          rq := (pcGet s (hbmLoc s.hbm.dead (256 * fresh.head?.getD 0)).k (hbmLoc s.hbm.dead (256 * fresh.head?.getD 0)).p).rq ++
            [⟨sl, (slGet s sl).nfill⟩] } ∧
      (fillStart s sl p k fresh take).hbm.mem = s.hbm.mem ∧ MemoryServed s (fillStart s sl p k fresh take) ∧
      ∀ q, rd (fillStart s sl p k fresh take) q = rd s q := by
  exact ⟨slGet_slPut_same .., tgetD_tput_same .., rfl, rfl, fun _ => rfl⟩

end

/-- Settles O20: the fill's lines are installed and its one read answered (`chmFillComplete_answers`), installs and copies keep every line held
(`lineFind_fillLanded`, `lineFind_sliceCrossed`); a hint has the three ends of `chmHint_eq`, of which the fill takes as many lines as there is room
for (log 67). -/
theorem fillsAndHints : Obligations.FillsAndHints := by
  unfold Obligations.FillsAndHints
  refine ⟨fun s sl i f ds w hs hc hf hret hw hwr hhint hpart hneed => ?fill, fun s sl i r hs hc hr hhint hblk => ?hint⟩
  case fill =>
    obtain ⟨now, out, u, hu, hhbm, hsl, hresps⟩ := chmFillComplete_completes hs hc hf hret hw hwr hhint hpart hneed
    refine ⟨u, hu, hhbm, ?_, ?_, hresps, fun p a l hl => ?_, fun hnd d hd ht hue hn => ?_, fun l hl => ?_⟩
    · rw [hsl]
      rfl
    · rw [hsl]
      exact fillLanded_fills ..
    · rw [hsl, lineFind_sliceCrossed]
      exact lineFind_fillLanded_held hl
    · rw [hsl, lineFind_sliceCrossed]
      exact lineFind_fillLanded_new hnd hd ht hue hn
    · rw [hsl] at hl
      exact mem_installAll (x := { slGet s sl with fills := ldel (slGet s sl).fills i }) hl
  case hint =>
    obtain ⟨hsl, hhbm, hrd, hserved⟩ := hintGone_units (quiet s) sl i r
    have heq := chmHint_eq (s := quiet s) hr hhint hblk
    have hserve : ∀ {v}, chmHint (quiet s) sl i = v → MemoryServed (quiet s) v → Completes (.chmHint sl i) s (Follows s.pending v) :=
      fun e hv => act_serves (f := fun t => chmHint t sl i) hc hs e hv
    refine ⟨fun hlow hroom hserves has hrq hfree => ?_, fun hlow hroom hserves has => ?_, fun hdrop => ?_⟩
    · have hd : ¬ hintDropped s sl r := by simp [hintDropped_iff, hlow, hroom, hserves]
      have hrq' : ¬ (!rqRoom (quiet s) r.pa) = true := by rw [show rqRoom (quiet s) r.pa = true from hrq]; simp
      obtain ⟨hfsl, hfpc, hfmem, hfserved, hfrd⟩ := fillStart_units (hintGone (quiet s) sl i r) sl r.part r.k (hintLines s sl r) (hintLines s sl r)
      rw [hhbm] at hfpc hfmem
      obtain ⟨u, hu, hf⟩ := hserve (heq.trans ((if_neg hd).trans ((if_neg (by rwa [List.isEmpty_iff])).trans
        ((if_neg (Nat.not_lt.2 hfree)).trans (if_neg hrq'))))) (hserved.trans hfserved)
      have husl := (hf.slGet sl).trans hfsl
      rw [hsl] at husl
      refine ⟨u, hu, ?_, ?_, ?_, ?_, ?_, hf.sameRegs (hserved.trans hfserved) fun q _ => (hfrd q).trans (hrd q)⟩
      · rw [husl]
        rfl
      · rw [show ∀ k p, pcGet u k p = pcGet (fillStart (hintGone (quiet s) sl i r) sl r.part r.k (hintLines s sl r) (hintLines s sl r)) k p from
          fun k p => by rw [hf.eq]; rfl]
        refine (congrArg PsCh.rq hfpc).trans ?_
        unfold pcGet
        rw [hhbm, hsl]
        rfl
      · rw [husl]
        rfl
      · rw [husl]
        rfl
      · rw [hf.eq]
        exact hfmem
    · have hd : ¬ hintDropped s sl r := by simp [hintDropped_iff, hlow, hroom, hserves]
      obtain ⟨u, hu, hf⟩ := hserve (heq.trans ((if_neg hd).trans (if_pos (List.isEmpty_iff.2 has)))) hserved
      refine ⟨u, hu, (hf.slGet sl).trans hsl, ?_, hf.sameRegs hserved fun q _ => hrd q⟩
      rw [hf.eq]
      exact hhbm
    · have hd : hintDropped s sl r := hintDropped_iff.2 hdrop
      have hbumped := hserved.trans (memoryServed_chmBump (hintGone (quiet s) sl i r) sl (R.chmHintDrop sl) 1 48)
      obtain ⟨u, hu, hf⟩ := hserve (heq.trans (if_pos hd)) hbumped
      refine ⟨u, hu, ?_, ?_, hf.sameRegs hbumped fun q hq => ?_, fun hfrz => ?_⟩
      · rw [hf.slGet, slGet_chmBump, hsl]
        rfl
      · rw [hf.eq]
        exact (hbm_chmBump ..).trans hhbm
      · rw [rd_chmBump_other _ _ (by simpa using hq), hrd]
        rfl
      · rw [hf.rd _ (chmHintDrop_noted hs)]
        exact rd_chmBump_hintDrop (s := quiet s) hfrz

/-! The time budget of a multicast group (R208). -/

/-- From `s` to `t` slices change, and none in its lines. -/
def LinesKept (s t : State) : Prop := t = { s with slices := t.slices } ∧ ∀ k, (slGet t k).lines = (slGet s k).lines

section
variable {s t u : State}

theorem LinesKept.trans (h1 : LinesKept s t) (h2 : LinesKept t u) : LinesKept s u := by
  refine ⟨?_, fun k => (h2.2 k).trans (h1.2 k)⟩
  rw [h2.1, h1.1]

theorem LinesKept.foldl {α : Type} {f : State → α → State} (hf : ∀ a w, LinesKept w (f w a)) (l : List α) (s : State) :
    LinesKept s (l.foldl f s) := by
  induction l generalizing s with
  | nil => exact ⟨rfl, fun _ => rfl⟩
  | cons a l ih => exact (hf a s).trans (ih (f s a))

theorem linesKept_slMod (s : State) (sl : Nat) {f : Slice → Slice} (hf : ∀ x, (f x).lines = x.lines) : LinesKept s (slMod s sl f) := by
  refine ⟨rfl, fun k => ?_⟩
  by_cases hk : k = sl
  · rw [hk, slGet_slMod_same, hf]
  · rw [slGet_slMod_other s hk]

theorem linesKept_mcTrimAll (s : State) (p g : Nat) : LinesKept s (mcTrimAll s p g) :=
  .foldl (fun sl w => linesKept_slMod w sl (f := fun x => mcTrim x (mcGet w p g) p g (mcMembers w sl p g)) fun _ => rfl) _ s

end

section
variable {s : State} {sl p g : Nat} {e : McEnt}

/-- The group once its oldest live entry `e` has reached its time budget: who has not taken it has left (R208, R209). -/
def groupPruned (m : McGroup) (e : McEnt) (room : Nat) : McGroup :=
  { m with joined := m.joined.filter (fun j => e.taken.contains j), left := m.left ++ m.joined.filter (fun j => !e.taken.contains j), gone := m.gone + room,
           pruned := m.pruned + ((m.joined.filter (fun j => !e.taken.contains j)).length + room) }

theorem mcPrune_oldest (h : mcOldest (mcEntries s p g) = some e) :
    mcPrune s sl p g =
      chmBump (mcTrimAll (mcPut s p g (groupPruned (mcGet s p g) e (mcRoom (mcGet s p g) (mcMembers s sl p g)))) p g) sl (R.chmMcPrunes sl)
        (((mcGet s p g).joined.filter (fun j => !e.taken.contains j)).length + mcRoom (mcGet s p g) (mcMembers s sl p g)) := by
  simp only [mcPrune, h, groupPruned]

theorem chmMcPrunes_noted (hs : sl < 4) : (R.chmMcPrunes sl).addr ∉ noteRegs := by
  simp [noteRegs, R.chmMcPrunes, R.prtErrLog, R.prtErrCount, blkBase]
  omega

theorem mcPrune_units (s : State) (sl p g n : Nat) (m : McGroup) :
    let v := chmBump (mcTrimAll (mcPut s p g m) p g) sl (R.chmMcPrunes sl) n
    MemoryServed s v ∧ v.hearths = s.hearths ∧ v.hbm = s.hbm ∧ mcGet v p g = m ∧ (∀ k, (slGet v k).lines = (slGet s k).lines) ∧
      (∀ q : Reg, q.addr ≠ (R.chmMcPrunes sl).addr → rd v q = rd s q) ∧
      (bit (rd s (R.chmCtrl sl)) 0 = false → rd v (R.chmMcPrunes sl) = (rd s (R.chmMcPrunes sl) + n) % 2 ^ 48) := by
  obtain ⟨heq, hlines⟩ := linesKept_mcTrimAll (mcPut s p g m) p g
  have hrd : ∀ q, rd (mcTrimAll (mcPut s p g m) p g) q = rd s q := fun q => by rw [heq]; rfl
  refine ⟨.trans (t := mcTrimAll (mcPut s p g m) p g) ?_ (memoryServed_chmBump ..), ?_, ?_, ?_, fun k => ?_, fun q hq => ?_, fun hf => ?_⟩
  · rw [heq]
    rfl
  · rw [chmBump_eq, bump_hearths, heq]
    rfl
  · rw [hbm_chmBump, heq]
    rfl
  · unfold mcGet
    rw [mcast_chmBump, heq]
    exact tgetD_tput_same ..
  · rw [slGet_chmBump, hlines]
    rfl
  · rw [rd_chmBump_other _ _ hq, hrd]
  · rw [rd_chmBump_same, hrd, hrd, hf]
    rfl

end

/-! A round of the arbiter (R214). -/

/-- The weights that a table takes from the positive values of `w`. -/
theorem tgetD_weights (w : Nat → Nat) (l : List Nat) (t : Tbl Nat) (p : Nat) :
    tgetD (l.foldl (fun t p => if w p = 0 then tdel t p else tput t p (w p)) t) p 0 = if p ∈ l then w p else tgetD t p 0 := by
  induction l generalizing t with
  | nil => simp
  | cons q l ih =>
    rw [List.foldl_cons, ih]
    by_cases hl : p ∈ l
    · simp [hl]
    · by_cases hq : p = q
      · subst hq
        by_cases hw : w p = 0 <;> simp [hl, hw, tgetD]
      · by_cases hw : w q = 0 <;> simp [hl, hq, hw, tgetD_tdel_other _ hq, tgetD_tput_other _ hq]

/-! The tenant scrub (R219). -/

section
variable {x : Slice} {p q a : Nat}

theorem findSome?_filter_of_none {α β : Type} {c : α → Bool} {f : α → Option β} (h : ∀ e, c e = false → f e = none) (l : List α) :
    (l.filter c).findSome? f = l.findSome? f := by
  induction l with
  | nil => rfl
  | cons e l ih =>
    cases hc : c e
    · rw [List.filter_cons_of_neg (by simp [hc]), List.findSome?_cons, h e hc, ih]
    · rw [List.filter_cons_of_pos hc, List.findSome?_cons, List.findSome?_cons, ih]

theorem lineFind_sliceDiscard_same (x : Slice) (p a : Nat) : lineFind (sliceDiscard x p) p a = none := by
  rw [lineFind_eq, Option.or_eq_none_iff]
  exact ⟨by simp +contextual [sliceDiscard], by simp +contextual [sliceDiscard, entFind]⟩

theorem lineFind_sliceDiscard_other (hq : q ≠ p) : lineFind (sliceDiscard x p) q a = lineFind x q a := by
  rw [lineFind_eq, lineFind_eq]
  congr 1
  · rw [sliceDiscard, List.find?_filter]
    congr 1
    grind
  · exact findSome?_filter_of_none (fun e he => if_neg fun h => hq (h.symm.trans (by simpa using he))) _

end

/-- Slice `sl` after a tenant scrub of partition `p`, whose groups are gone. -/
def sliceScrubbed (s : State) (sl p : Nat) : State :=
  slMod { s with mcast := s.mcast.filter (fun g => g.1 / 256 ≠ p) } sl (fun x => { sliceDiscard x p with scrub := true })

theorem chmScrub_unformed {s : State} {sl p : Nat} (h : prtFormed s p = false) : chmScrub s sl p = sliceScrubbed s sl p := by
  rw [chmScrub, h]
  rfl

theorem memoryServed_chmErr (s : State) (sl kind region abort part : Nat) (a : Option Nat) : MemoryServed s (chmErr s sl kind region abort part a) :=
  .trans (t := (freeBits s 33).2) rfl (memoryServed_logErr ..)

theorem chmErr_units (s : State) (sl kind region abort part : Nat) (a : Option Nat) :
    (chmErr s sl kind region abort part a).hearths = s.hearths ∧ (chmErr s sl kind region abort part a).slices = s.slices ∧
      (chmErr s sl kind region abort part a).mcast = s.mcast ∧ (chmErr s sl kind region abort part a).hbm = s.hbm := by
  unfold chmErr
  rw [logErr_eq]
  exact ⟨rfl, rfl, rfl, rfl⟩

theorem rd_chmErr_other (s : State) (sl kind region abort part : Nat) (a : Option Nat) {q : Reg}
    (hq : q.addr ∉ [R.chmErrLog sl, R.chmErrCount sl].map Reg.addr) : rd (chmErr s sl kind region abort part a) q = rd s q := by
  simp only [List.map_cons, List.map_nil, List.mem_cons, List.not_mem_nil, or_false, not_or] at hq
  exact rd_logErr_other _ hq.1 hq.2 _

/-- Settles O21: a prune is an update of the group, slices that lose entries only, and a counter (`mcPrune_oldest`, `mcPrune_units`; it stands at the
budget's expiry, log 18); the other commands update one slice, and a refused scrub writes the error log. -/
theorem sliceUpkeep : Obligations.SliceUpkeep := by
  unfold Obligations.SliceUpkeep
  intro s sl hs hc x F
  refine ⟨fun p g e he => ?prune, ?round, fun hctrl hi => ?patrol, fun p hp hformed => ?scrub, fun p hp hformed => ?refused, ?done⟩
  case prune =>
    obtain ⟨hserved, hhearths, hhbm, hgroup, hlines, hother, hcount⟩ := mcPrune_units (quiet s) sl p g
      (((mcGet s p g).joined.filter (fun j => !e.taken.contains j)).length + mcRoom (mcGet s p g) (mcMembers s sl p g))
      (groupPruned (mcGet s p g) e (mcRoom (mcGet s p g) (mcMembers s sl p g)))
    obtain ⟨u, hu, hf⟩ := act_serves (f := fun t => mcastTimeBudget t sl p g) hc hs (by exact mcPrune_oldest (s := quiet s) he) hserved
    refine ⟨u, hu, hf.changesOnly hc hserved (fun q hq => ?_) ?_, ?_, fun k _ => ?_, fun hfrz => ?_⟩
    · exact hother q (by simpa using hq)
    · rw [show u.hearths = s.hearths from by rw [hf.eq]; exact hhearths, show u.hbm = s.hbm from by rw [hf.eq]; exact hhbm]
    · unfold mcGet
      rw [hf.eq]
      exact hgroup
    · rw [hf.slGet, hlines]
      rfl
    · rw [hf.rd _ (chmMcPrunes_noted hs)]
      exact hcount hfrz
  case round =>
    have hserved : MemoryServed (quiet s) (arbRound (quiet s) sl) := rfl
    obtain ⟨u, hu, hf⟩ := act_serves (f := fun t => arbRound t sl) hc hs rfl hserved
    have hsl := hf.slGet sl
    rw [arbRound, slGet_slMod_same] at hsl
    refine ⟨u, hu, hf.changesOnly hc hserved (fun _ _ => rfl) ?_, ?_, ?_, fun p hp => ?_⟩
    · rw [hf.eq]
      rfl
    · rw [hsl]
      rfl
    · rw [hsl]
      rfl
    · rw [hsl]
      exact (tgetD_weights (fun p => bits (rd (quiet s) (R.chmPartRateP sl p)) 0 9) _ [] p).trans (if_pos (List.mem_range.2 hp))
  case patrol =>
    refine act_serves (f := fun t => chmPatrolRead t sl) hc hs ?_ rfl
    unfold chmPatrolRead
    rw [if_neg (by rw [show bit (rd (quiet s) (R.chmCtrl sl)) 3 = true from hctrl]; simp), chmInject_none (s := slMod (quiet s) sl _) hi]
    rfl
  case scrub =>
    have hserved : MemoryServed (quiet s) (sliceScrubbed (quiet s) sl p) := rfl
    obtain ⟨u, hu, hf⟩ := lead_stk (f := fun t => chmScrub t sl p) hc (And.intro hs hp) (chmScrub_unformed (s := quiet s) hformed) (hserved.calm hc.quiet)
    have hsl := hf.slGet sl
    rw [sliceScrubbed, slGet_slMod_same] at hsl
    refine ⟨u, hu, hf.changesOnly hc hserved (fun _ _ => rfl) ?_, ?_, fun a => ?_, fun q a hq => ?_⟩
    · rw [hf.eq]
      rfl
    · rw [hsl]
    · rw [hsl]
      exact (lineFind_congr rfl rfl p a).trans (lineFind_sliceDiscard_same x p a)
    · rw [hsl]
      exact (lineFind_congr rfl rfl q a).trans (lineFind_sliceDiscard_other hq)
  case refused =>
    have hserved := memoryServed_chmErr (quiet s) sl 7 0 0 p none
    obtain ⟨hhearths, hslices, hmcast, hhbm⟩ := chmErr_units (quiet s) sl 7 0 0 p none
    obtain ⟨u, hu, hf⟩ := lead_stk (f := fun t => chmScrub t sl p) hc (And.intro hs hp) (if_pos hformed) (hserved.calm hc.quiet)
    refine ⟨u, hu, hf.changesOnly hc hserved (fun q hq => rd_chmErr_other (quiet s) sl 7 0 0 p none hq) ?_⟩
    rw [hf.eq]
    simp only [hhearths, hslices, hmcast, hhbm]
    rfl
  case done => exact act_serves (f := fun t => chmScrubDone t sl) hc hs rfl rfl

/-! A device at rest, of whose slices none holds anything. -/

/-- What of a device holds lines, or acts at the end of a command; beside that a task bound to a hearth does. -/
def resting (s : State) : Tbl Slice × Bool × List (Nat × Nat × Nat) × List (Nat × HearthFaultCause) × List Nat × Tbl Part × Option Suspects ×
    Option Nat × Option Bool :=
  (s.slices, s.held, s.dueAborts, s.dueHrt, s.colUnl, s.parts, s.stk.susp, s.stk.service, s.stk.warmQ)

/-- From `s` to `t` the slices are kept, and what acts at the end of a command; no task is bound to a further hearth. -/
def RestKept (s t : State) : Prop := resting t = resting s ∧ ∀ h, (hget s h).next = none → (hget t h).next = none

/-- No slice holds anything, and nothing is due at the end of a command but that units leave and quotas are noted. -/
structure Rested (s : State) : Prop where
  slices : s.slices = []
  held : s.held = false
  aborts : s.dueAborts = []
  faults : s.dueHrt = []
  unl : s.colUnl = []
  parts : ∀ p, (partGet s p).sweep = 0 ∨ (partGet s p).sweep = 2
  susp : s.stk.susp = none
  service : s.stk.service = none
  warmQ : s.stk.warmQ = none
  next : ∀ h, (hget s h).next = none

section
variable {s t u : State}

theorem RestKept.refl (s : State) : RestKept s s := ⟨rfl, fun _ h => h⟩

theorem RestKept.trans (h1 : RestKept s t) (h2 : RestKept t u) : RestKept s u := ⟨h2.1.trans h1.1, fun h hn => h2.2 h (h1.2 h hn)⟩

theorem RestKept.frame (h : resting t = resting s) (hh : t.hearths = s.hearths) : RestKept s t := ⟨h, fun k hk => by rwa [hget_congr hh k]⟩

theorem RestKept.foldl {α : Type} {f : State → α → State} (hf : ∀ a w, RestKept w (f w a)) (l : List α) (s : State) : RestKept s (l.foldl f s) := by
  induction l generalizing s with
  | nil => exact .refl s
  | cons a l ih => exact (hf a s).trans (ih (f s a))

theorem RestKept.rested (h : RestKept s t) (hs : Rested s) : Rested t := by
  obtain ⟨hrest, hnext⟩ := h
  simp only [resting, Prod.mk.injEq] at hrest
  obtain ⟨hslices, hheld, haborts, hfaults, hunl, hparts, hsusp, hservice, hwarm⟩ := hrest
  exact ⟨hslices.trans hs.slices, hheld.trans hs.held, haborts.trans hs.aborts, hfaults.trans hs.faults, hunl.trans hs.unl,
    fun p => by rw [partGet_congr hparts]; exact hs.parts p, hsusp.trans hs.susp, hservice.trans hs.service, hwarm.trans hs.warmQ,
    fun k => hnext k (hs.next k)⟩

theorem Rested.foldl {α : Type} {f : State → α → State} (hf : ∀ a w, Rested w → Rested (f w a)) (l : List α) (hs : Rested s) :
    Rested (l.foldl f s) := by
  induction l generalizing s with
  | nil => exact hs
  | cons a l ih => exact ih (hf a s hs)

end

/-! What keeps rest. -/

section
variable (s : State)

theorem restKept_wr (r : Reg) (v : Nat) : RestKept s (wr s r v) := .frame rfl rfl
theorem restKept_wrf (r : Reg) (lo len v : Nat) : RestKept s (wrf s r lo len v) := .frame rfl rfl
theorem restKept_bump (frz : Bool) (r : Reg) (n w : Nat) : RestKept s (bump s frz r n w) := by cases frz <;> exact .frame rfl rfl
theorem restKept_logErr (l c : Reg) (v : Nat) : RestKept s (logErr s l c v) := by rw [logErr_eq]; exact .frame rfl rfl
theorem restKept_flErase (a : Nat) : RestKept s (flErase s a) := .frame rfl rfl
theorem restKept_flProgram (a : Nat) (bs : List Byte) : RestKept s (flProgram s a bs) := .frame rfl rfl
theorem restKept_lkPut (n : Nat) (x : Link) : RestKept s (lkPut s n x) := .frame rfl rfl
theorem restKept_stkPut (k : Nat) (x : Stack) : RestKept s (stkPut s k x) := .frame rfl rfl

theorem restKept_hmod (h : Nat) {f : Hearth → Hearth} (hf : ∀ x, (f x).next = x.next) : RestKept s (hmod s h f) := by
  refine ⟨rfl, fun k hk => ?_⟩
  by_cases hkh : k = h
  · subst hkh
    rw [hget_hmod_same, hf, hk]
  · rwa [hget_hmod_other _ hkh]

theorem restKept_healthWrite : RestKept s (healthWrite s) := (restKept_flErase ..).trans (restKept_flProgram ..)

theorem restKept_ashWrite (cls cause action inst part : Nat) (restart : Bool) : RestKept s (ashWrite s cls cause action inst part restart) := by
  unfold ashWrite
  dsimp only
  split_ifs <;> exact .frame rfl rfl

theorem restKept_copyCheck (c : Nat) : RestKept s (copyCheck s c).2 := by
  have hnote : RestKept s (copyNote s c (imgVerify s c)) := (restKept_wr ..).trans (.foldl (fun _ w => restKept_wr w _ _) _ _)
  unfold copyCheck
  dsimp only
  split
  · exact hnote
  · exact hnote.trans (restKept_logErr ..)

theorem restKept_routesAgain : RestKept s (routesAgain s) := by
  unfold routesAgain
  split_ifs
  · exact .refl s
  · exact .foldl (fun _ w => restKept_wr w _ _) _ s

theorem restKept_lnkErr (n kind lane : Nat) : RestKept s (lnkErr s n kind lane) := restKept_logErr ..

theorem restKept_linksStart : RestKept s (linksStart s) := by
  refine .trans (t := { s with links := [] }) (.frame rfl rfl) (.foldl (fun n w => ?_) _ _)
  dsimp only
  split_ifs
  · exact (restKept_wrf ..).trans ((restKept_lkPut ..).trans ((restKept_lnkErr ..).trans (restKept_lkPut ..)))
  · exact (restKept_wrf ..).trans (restKept_lkPut ..)
  · exact restKept_lkPut ..

theorem restKept_hbmFence (k p kind : Nat) : RestKept s (hbmFence s k p kind) := by
  unfold hbmFence
  dsimp only
  split
  · exact (restKept_logErr ..).trans (restKept_wr ..)
  · split_ifs
    · exact restKept_wr ..
    · exact .refl s
  · exact (restKept_logErr ..).trans (restKept_wr ..)
  · exact .refl s

theorem restKept_flashAbort : RestKept s (flashAbort s) := by
  unfold flashAbort
  split <;> exact .frame rfl rfl

theorem restKept_hostOut (m : HostMsg) : RestKept s (hostOut s m) :=
  .trans (t := { s with tx := s.tx ++ [frameOf s m] }) (.frame rfl rfl) ((restKept_bump ..).trans (restKept_bump ..))

/-- A template message that the transmit pool has no room for is dropped, so no sender waits. -/
theorem restKept_ipfixOut (b : List Byte) (n : Nat) : RestKept s (ipfixOut s b n) := by
  unfold ipfixOut
  dsimp only
  split
  · exact (restKept_bump ..).trans (restKept_logErr ..)
  next hroom =>
    have hemit : RestKept s (hostEmit s (.ipfix (ipfixMsg s b))) := by
      unfold hostEmit
      dsimp only
      rw [if_neg hroom]
      split
      · exact .frame rfl rfl
      · exact restKept_hostOut ..
    exact hemit.trans (.trans (t := { hostEmit s (.ipfix (ipfixMsg s b)) with hport := _ }) (.frame rfl rfl) (restKept_bump ..))

theorem restKept_ipfixRefresh : RestKept s (ipfixRefresh s) := by
  unfold ipfixRefresh
  split_ifs
  · exact restKept_ipfixOut ..
  · exact .refl s

theorem restKept_hearthSample (h : Nat) : RestKept s (hearthSample s h) := by
  refine .foldl (fun e w => ?_) _ s
  unfold sample owe
  dsimp only
  split_ifs <;> exact .frame rfl rfl

end

/-! Hearths that fail their self-test (R511, R545). -/

section
variable {s : State} {h : Nat}

theorem restKept_errBump (s : State) (r : Reg) (n : Nat) : RestKept s (errBump s r n) := restKept_bump ..
theorem restKept_unitLog (s : State) (kind h p task pos : Nat) : RestKept s (unitLog s kind h p task pos) := restKept_logErr ..

theorem restKept_faultNote (s : State) (h : Nat) (p : Option Nat) : RestKept s (faultNote s h p) := by
  unfold faultNote
  dsimp only
  exact (restKept_wr ..).trans ((restKept_errBump ..).trans ((restKept_hmod _ h (by exact fun _ => rfl)).trans (restKept_unitLog ..)))

theorem unbind_idle (hn : (hget s h).next = none) : unbind s h = s := by
  simp [unbind, hn]

theorem restKept_residDrop (s : State) (h : Nat) : RestKept s (residDrop (shootdownsAck s h) h) := .frame rfl rfl

theorem restKept_hearthOut (hn : (hget s h).next = none) : RestKept s (hearthOut s h) := by
  have hsample := restKept_hearthSample s h
  unfold hearthOut
  dsimp only
  rw [unbind_idle (hsample.2 h hn)]
  split_ifs
  · exact .refl s
  · exact hsample.trans ((restKept_residDrop _ h).trans ((restKept_hmod _ h (by exact fun _ => rfl)).trans ((restKept_wr ..).trans
      ((restKept_errBump ..).trans ((restKept_unitLog ..).trans (restKept_healthWrite ..))))))

theorem rested_selfTestsFail (hs : Rested s) (l : List Nat) : Rested (selfTestsFail s l) := by
  refine hs.foldl (fun h w hw => ?_) l
  dsimp only
  split_ifs
  · exact hw
  · have hlog : RestKept w (unitLog w 7 h ((hget w h).part.getD 0) 0 0) := restKept_unitLog ..
    have hnoted := (hlog.trans ((restKept_faultNote _ h (hget w h).part).trans (restKept_ashWrite _ 2 7 6 h (ashPartNo (hget w h).part) false))).rested hw
    exact (restKept_hearthOut (hnoted.next h)).rested hnoted

end

/-! What follows from a command on a device at rest. -/

section
variable {s : State}

theorem rested_partMod {p : Nat} {f : Part → Part} (hf : ∀ x, (f x).sweep = x.sweep) (hs : Rested s) : Rested (partMod s p f) := by
  refine ⟨hs.slices, hs.held, hs.aborts, hs.faults, hs.unl, fun q => ?_, hs.susp, hs.service, hs.warmQ, hs.next⟩
  have hq : (partGet (partMod s p f) q).sweep = (partGet s q).sweep := by
    by_cases hqp : q = p
    · subst hqp
      simp [partGet, partMod, hf]
    · simp [partGet, partMod, tgetD_tput_other _ hqp]
  rw [hq]
  exact hs.parts q

theorem rested_partStep (hs : Rested s) (p : Nat) : Rested (partStep s p) := by
  have hleave : Rested (unitsLeave s p) := by
    unfold unitsLeave
    dsimp only
    split_ifs
    · exact hs
    · exact hs
    · exact rested_partMod (fun _ => rfl) hs
  unfold partStep overNote
  dsimp only
  split_ifs
  · exact hleave
  · exact (restKept_logErr ..).rested (rested_partMod (fun _ => rfl) hleave)
  · exact rested_partMod (fun _ => rfl) hleave

theorem Rested.settleAborts_eq (hs : Rested s) : settleAborts s = s := by
  simp only [settleAborts, hs.aborts, List.foldl_nil]
  rw [← hs.aborts]

theorem Rested.settleFaults_eq (hs : Rested s) : settleFaults s = s := by
  simp only [settleFaults, hs.faults, List.foldl_nil]
  rw [← hs.faults]

theorem Rested.stokerStep_eq (hs : Rested s) : stokerStep s = s := by
  unfold stokerStep
  rw [sweepSteps_eq hs.parts]
  split_ifs
  · rfl
  · simp [serviceStep, warmNext, hs.service, hs.warmQ]

theorem Rested.settleRun_rested (hs : Rested s) : Rested (settleRun s) := by
  have hsus : suspectAgain s = s := by simp [suspectAgain, hs.susp]
  have hend : ∀ b, suspectSettle s b = s := fun b => by simp [suspectSettle, hs.susp]
  have hparts : Rested ((s.parts.map (·.1)).foldl partStep s) := Rested.foldl (fun p w hw => rested_partStep hw p) _ hs
  simp only [settleRun, hsus, hs.settleAborts_eq, hs.settleFaults_eq, hend, hs.unl, List.foldl_nil]
  rwa [hparts.stokerStep_eq, hparts.settleAborts_eq]

end

/-- What a command comes to when it leaves the device as `t`, by `ends`: no slice holds anything, and the command is not kept waiting. -/
def EndsEmpty (t : State) : Prop := (settle t).slices = [] ∧ (settle t).held = false

section
variable {s t : State}

theorem Rested.endsEmpty (hs : Rested s) : EndsEmpty s := by
  unfold EndsEmpty settle
  dsimp only
  split_ifs
  · exact ⟨hs.settleRun_rested.slices, hs.settleRun_rested.held⟩
  · exact ⟨hs.slices, hs.held⟩

theorem endsEmpty_of_stopped (hp : s.stk.phase ≠ .run) (hsl : s.slices = []) (hh : s.held = false) : EndsEmpty s := by
  unfold EndsEmpty settle
  rw [if_neg hp]
  exact ⟨hsl, hh⟩

/-- A command that the device takes in any phase ends with empty slices: the first use of any line misses. -/
theorem actAny_empty {f : State → State} (h : EndsEmpty (f (quiet s))) :
    ∃ u, actAny f s = .next u ∧ ∀ sl, slGet u sl = .empty ∧ ∀ p a, lineFind (slGet u sl) p a = none := by
  obtain ⟨hsl, hh⟩ := h
  have hu : ({ unlessHeld s (settle (f (quiet s))) with pending := s.pending } : State).slices = [] := by
    rw [unlessHeld, if_neg (by rw [hh]; simp)]
    exact hsl
  refine ⟨_, rfl, fun sl => ?_⟩
  have hempty : slGet { unlessHeld s (settle (f (quiet s))) with pending := s.pending } sl = .empty := by
    unfold slGet
    rw [hu]
    rfl
  exact ⟨hempty, fun p a => by rw [hempty]; rfl⟩

end

/-! The cold start (R543). -/

theorem rested_offState (s : State) : Rested (offState s) :=
  ⟨rfl, rfl, rfl, rfl, rfl, fun _ => .inl rfl, rfl, rfl, rfl, fun _ => rfl⟩

section
variable (s : State)

theorem restKept_stkMod {f : Stoker → Stoker} (hsusp : (f s.stk).susp = s.stk.susp) (hservice : (f s.stk).service = s.stk.service)
    (hwarm : (f s.stk).warmQ = s.stk.warmQ) : RestKept s (stkMod s f) := by
  refine .frame ?_ rfl
  simp only [resting, stkMod, hsusp, hservice, hwarm]

theorem restKept_coldStarts (n : Nat) : RestKept s { s with coldStarts := n } := .frame rfl rfl
theorem restKept_bootStop : RestKept s (bootStop s) := .frame rfl rfl
theorem restKept_bootAsh : RestKept s (bootAsh s) := restKept_wr ..
theorem restKept_bootCert : RestKept s (bootCert s) := by
  unfold bootCert
  dsimp only
  exact (restKept_wrf ..).trans (restKept_stkMod _ (by exact rfl) (by exact rfl) (by exact rfl))

theorem restKept_fwInfo : RestKept s (fwInfo s) := restKept_wr ..
theorem restKept_stkState (v : Nat) : RestKept s (stkState s v) := restKept_wrf ..

/-- The device's time, queue pairs and host port do not count. -/
theorem restKept_ports (n : Nat) (q : Tbl QPair) (x : HostPort) : RestKept s { s with now := n, qps := q, hport := x } := .frame rfl rfl

/-- Nor do its registers. -/
theorem restKept_csr (c : Tbl Nat) : RestKept s { s with csr := c } := .frame rfl rfl

end

/-- Hearth `h` at the start, out of service where the health record `b` says so (R547). -/
def healthOos (b : List Byte) (s : State) (h : Nat) : State :=
  if bit (lv b (104 + h / 8) 1) (h % 8) then
    wr (hput s h { Hearth.fresh with oos := true }) (R.errHrtOosI (h / 64)) (setBits (rd (hput s h { Hearth.fresh with oos := true })
      (R.errHrtOosI (h / 64))) (h % 64) 1 1)
  else s

theorem restKept_healthOos (b : List Byte) (s : State) (h : Nat) : RestKept s (healthOos b s h) := by
  unfold healthOos
  split_ifs
  · refine .trans (t := hput s h { Hearth.fresh with oos := true }) ⟨rfl, fun k hk => ?_⟩ (restKept_wr ..)
    by_cases hkh : k = h
    · subst hkh
      rw [hget_hput_same]
      rfl
    · rwa [hget_hput_other _ hkh]
  · exact .refl s

theorem restKept_bootHealth (s : State) : RestKept s (bootHealth s) := by
  unfold bootHealth
  split
  · exact .frame rfl rfl
  next b _ =>
    have hretired : ∀ w, RestKept w ((List.range 20).foldl (fun t k => wrf t (R.memRetired k) 0 32 (lv b (24 + 4 * k) 4)) w) :=
      .foldl (fun _ w => restKept_wrf w _ _ _ _) _
    have hoos : ∀ w, RestKept w ((List.range 256).foldl (healthOos b) w) := .foldl (fun h w => restKept_healthOos b w h) _
    exact ((restKept_wr s R.kndStatus _).trans ((hretired _).trans (hoos _))).trans (restKept_coldStarts ..)

theorem restKept_bootCopy (s : State) (inUse : Nat) : RestKept s (bootCopy s inUse).2 := by
  have h1 := restKept_copyCheck s inUse
  have h2 := h1.trans (restKept_copyCheck (copyCheck s inUse).2 (1 - inUse))
  unfold bootCopy
  dsimp only
  split
  · dsimp only
    exact h1
  · split <;> dsimp only <;> exact h2

/-- The pseudo-channels that fail their test are retired (R545). -/
def pcsRetired (s : State) (failed : List (Nat × Nat)) : State := failed.foldl (fun t f => if f.1 < 20 && f.2 < 32 then
    wr t (R.memRetired f.1) (setBits (rd t (R.memRetired f.1)) f.2 1 1) else t) s

theorem restKept_bootHbm (s : State) (failed : List (Nat × Nat)) : RestKept s (bootHbm s failed) := by
  have hretired : RestKept s (pcsRetired s failed) := by
    refine .foldl (fun f w => ?_) failed s
    split_ifs
    · exact restKept_wr ..
    · exact .refl w
  exact hretired.trans (.frame rfl rfl)

/-- A FATAL fault halts the device. -/
theorem fatal_halts (s : State) (kind inst : Nat) (canWrite : Bool) :
    (fatal s kind inst canWrite).stk.phase = .halted ∧ (fatal s kind inst canWrite).held = s.held ∧ (fatal s kind inst canWrite).slices = s.slices := by
  have hlog : ∀ w, RestKept w (devLog w kind inst 0) := fun w => restKept_logErr ..
  have hkept : RestKept s (if canWrite then ashWrite (devLog (flashAbort s) kind inst 0) 4 kind 5 inst 255 false else devLog (flashAbort s) kind inst 0) := by
    split_ifs
    · exact (restKept_flashAbort s).trans ((hlog _).trans (restKept_ashWrite ..))
    · exact (restKept_flashAbort s).trans (hlog _)
  obtain ⟨hrest, -⟩ := hkept
  simp only [resting, Prod.mk.injEq] at hrest
  exact ⟨rfl, hrest.2.1, hrest.1⟩

theorem bootRun_empty {s : State} (hs : Rested s) (b : BootInputs) (m : Img) (copy : Nat) : EndsEmpty (bootRun s b m copy) := by
  unfold bootRun
  extract_lets inUse s1 n s2 s3 s4 s5 s6 s7 s8 s9 c base s10 times s11 port s12
  have h1 : RestKept s s1 := restKept_wr ..
  have h2 : RestKept s1 s2 := (restKept_coldStarts s1 n).trans (restKept_healthWrite _)
  have h3 : RestKept s2 s3 := restKept_wr ..
  have h4 : RestKept s3 s4 := (restKept_bootAsh s3).trans (restKept_bootCert _)
  have h5 : RestKept s4 s5 := (restKept_stkMod s4 (by exact rfl) (by exact rfl) (by exact rfl)).trans (restKept_fwInfo _)
  have h6 : RestKept s5 s6 := restKept_wr ..
  have hrested : Rested s6 := (h1.trans (h2.trans (h3.trans (h4.trans (h5.trans h6))))).rested hs
  split_ifs
  · obtain ⟨hphase, hheld, hslices⟩ := fatal_halts s6 2 0 true
    exact endsEmpty_of_stopped (by rw [hphase]; decide) (hslices.trans hrested.slices) (hheld.trans hrested.held)
  · have h8 : Rested s8 := (restKept_bootHbm ..).rested (rested_selfTestsFail hrested _)
    have h9 : RestKept s8 s9 := by
      unfold s9
      split_ifs
      · exact .refl s8
      · exact restKept_healthWrite s8
    have h10 : RestKept s9 s10 := (restKept_csr s9 _).trans (restKept_stkMod _ (by exact rfl) (by exact rfl) (by exact rfl))
    have h11 : RestKept s10 s11 := .foldl (fun _ w => restKept_wr w _ _) _ s10
    have h12 : RestKept s11 s12 := (restKept_ports s11 _ _ _).trans (restKept_stkState _ 1)
    have hlast := (restKept_linksStart s12).trans ((restKept_routesAgain _).trans (restKept_ipfixRefresh _))
    exact ((h9.trans (h10.trans (h11.trans (h12.trans hlast)))).rested h8).endsEmpty

theorem boot_empty (s : State) (b : BootInputs) : EndsEmpty (boot s b) := by
  unfold boot
  extract_lets both s1 f s2 s3 r
  have h1 : RestKept (offState s) s1 := restKept_stkMod _ (by exact rfl) (by exact rfl) (by exact rfl)
  have h3 : Rested s3 := (h1.trans ((restKept_wr s1 _ _).trans (restKept_bootHealth s2))).rested (rested_offState s)
  have hr : Rested r.2 := (restKept_bootCopy ..).rested h3
  split
  · exact ((restKept_bootStop _).rested hr).endsEmpty
  · exact bootRun_empty hr ..

theorem coldStart_empty (s : State) (b : BootInputs) : EndsEmpty (coldStart s b) := by
  unfold coldStart
  dsimp only
  split_ifs
  · exact boot_empty ..
  · exact (((restKept_stkMod _ (by exact rfl) (by exact rfl) (by exact rfl)).trans (restKept_stkMod _ (by exact rfl) (by exact rfl) (by exact rfl))).rested
      (rested_offState (flashAbort s))).endsEmpty

theorem resetAssert_empty (s : State) : EndsEmpty (resetAssert s) := (rested_offState (flashAbort s)).endsEmpty

/-! The flush of a warm reset serves memory (R221, R245). -/

section
variable (s : State)

theorem memoryServed_memErr (pa kind : Nat) (part : Option Nat) (src : Nat) : MemoryServed s (memErr s pa kind part src) := memoryServed_logErr ..
theorem memoryServed_memBump (k : Nat) (r : Reg) (n w : Nat) : MemoryServed s (memBump s k r n w) := memoryServed_bump ..
theorem memoryServed_pcPut (k p : Nat) (x : PsCh) : MemoryServed s (pcPut s k p x) := rfl
theorem memoryServed_stkPut (k : Nat) (x : Stack) : MemoryServed s (stkPut s k x) := rfl

theorem memoryServed_wrf (r : Reg) (lo len v : Nat) : MemoryServed s (wrf s r lo len v) := rfl
theorem memoryServed_hbm (x : Hbm) (n : Nat) : MemoryServed s { s with hbm := x, fresh := n } := rfl

theorem memoryServed_fenceAccess (pa : Nat) (part : Option Nat) (src : Nat) : MemoryServed s (fenceAccess s pa part src) := by
  unfold fenceAccess
  dsimp only
  split_ifs
  · exact .refl s
  · exact (memoryServed_pcPut ..).trans (memoryServed_memErr ..)

theorem memoryServed_memUe (pa : Nat) (part : Option Nat) (src : Nat) : MemoryServed s (memUe s pa part src) := by
  have hgranule : ∀ w, MemoryServed w (ueGranule w pa) := fun w => by
    unfold ueGranule
    dsimp only
    split_ifs
    · exact .refl w
    · exact memoryServed_pcPut ..
  exact (memoryServed_memBump ..).trans ((memoryServed_memErr ..).trans (hgranule _))

theorem memoryServed_mergeReads (w : HbmWr) (words : List Nat) : MemoryServed s (mergeReads s w words).2 :=
  (MemoryServed.foldl (fun _ t => memoryServed_memUe t _ _ _) _ s).trans (.foldl (fun _ t => memoryServed_memErr t _ _ _ _) _ _)

theorem memoryServed_hbmApplyWr (w : HbmWr) : MemoryServed s (hbmApplyWr s w) := by
  have hmerge := memoryServed_mergeReads s w (wordsPart w.pa w.data.length)
  unfold hbmApplyWr
  dsimp only
  split
  · exact memoryServed_fenceAccess ..
  · exact hmerge.trans ((memoryServed_hbm ..).trans (memoryServed_memBump ..))

theorem memoryServed_hbmPop (k p : Nat) : MemoryServed s (hbmPop s k p) := by
  unfold hbmPop
  dsimp only
  split
  · exact .refl s
  · exact (memoryServed_pcPut ..).trans (memoryServed_hbmApplyWr ..)

theorem memoryServed_hbmDrain (k p n : Nat) : MemoryServed s (hbmDrain s k p n) := by
  induction n generalizing s with
  | zero => exact .refl s
  | succ n ih => exact (memoryServed_hbmPop s k p).trans (ih (hbmPop s k p))

theorem memoryServed_hbmFlush : MemoryServed s (hbmFlush s) := .foldl (fun _ w => memoryServed_hbmDrain w _ _ _) _ s

theorem memoryServed_writeBack (sl : Nat) (l : Line) : MemoryServed s (writeBack s sl l) :=
  (memoryServed_pcPut ..).trans ((memoryServed_chmBump ..).trans (memoryServed_chmBump ..))

theorem memoryServed_hbmCorrectionRewrite (k : Nat) : MemoryServed s (hbmCorrectionRewrite s k) := by
  unfold hbmCorrectionRewrite
  dsimp only
  split
  · exact .refl s
  · split_ifs
    · exact (memoryServed_stkPut ..).trans (memoryServed_fenceAccess ..)
    · exact (memoryServed_stkPut ..).trans ((memoryServed_wrf ..).trans (memoryServed_memBump ..))
    · exact (memoryServed_stkPut ..).trans (memoryServed_memBump ..)

theorem memoryServed_flushAll : MemoryServed s (flushAll s) := by
  have hlines : MemoryServed s (s.slices.foldl (fun t e =>
      if bit s.stk.slices e.1 then (e.2.lines.filter (·.dirty)).foldl (fun u l => writeBack u e.1 l) t else t) s) := by
    refine .foldl (fun e w => ?_) _ s
    split_ifs
    · exact .foldl (fun l w => memoryServed_writeBack w _ l) _ w
    · exact .refl w
  refine (hlines.trans (memoryServed_hbmFlush _)).trans (.foldl (fun k w => ?_) _ _)
  exact .foldl (fun _ w => memoryServed_hbmCorrectionRewrite w k) _ w

theorem memoryServed_slices (x : Tbl Slice) : MemoryServed s { s with slices := x } := rfl

theorem memoryServed_warmFlush : MemoryServed s (warmFlush s) := by
  unfold warmFlush
  split
  next start remap _ _ =>
    have hsleep : ∀ w, MemoryServed w
        ((List.range 20).foldl (fun t k => if (stkGet t k).st = 2 then stkPut t k { stkGet t k with st := 3 } else t) w) := by
      refine .foldl (fun k w => ?_) _
      split_ifs
      · exact memoryServed_stkPut ..
      · exact .refl w
    dsimp only
    split_ifs
    · exact .refl s
    · exact memoryServed_slices ..
    · exact (memoryServed_flushAll s).trans ((memoryServed_slices ..).trans (hsleep _))
  next => exact .refl s

end

theorem MemoryServed.kept {s t : State} (h : MemoryServed s t) :
    t.stk = s.stk ∧ t.parts = s.parts ∧ t.dueAborts = s.dueAborts ∧ t.dueHrt = s.dueHrt := by
  rw [h]
  exact ⟨rfl, rfl, rfl, rfl⟩

/-! The end of a warm reset (R503–R505). -/

theorem tgetD_map_invariant {α : Type} {P : α → Prop} {f : α → α} {t : Tbl α} {d : α} (hd : P d) (hf : ∀ x, P (f x)) (k : Nat) :
    P (tgetD (t.map (fun e => (e.1, f e.2))) k d) := by
  induction t with
  | nil => exact hd
  | cons e r ih =>
    by_cases hk : e.1 = k
    · simpa [tgetD, tget, hk] using hf e.2
    · simpa [tgetD, tget, hk] using ih

/-- The hearths that a warm reset leaves, from hearths `t` on. -/
def warmHearths (s : State) (remap : Bool) (hs : List Nat) (t : Tbl Hearth) : Tbl Hearth :=
  hs.foldl (fun t h => if (tget s.hearths h).isSome || holdBit s h then tput t h (warmHearth s remap h (hget s h)) else t) t

theorem warmHearth_next (s : State) (remap : Bool) (h : Nat) (x : Hearth) : (warmHearth s remap h x).next = none := by
  unfold warmHearth
  dsimp only
  split_ifs <;> rfl

theorem warmHearths_next (s : State) (remap : Bool) (hs : List Nat) {t : Tbl Hearth} (ht : ∀ k, (tgetD t k .fresh).next = none) (k : Nat) :
    (tgetD (warmHearths s remap hs t) k .fresh).next = none := by
  induction hs generalizing t with
  | nil => exact ht k
  | cons h hs ih =>
    refine ih fun k => ?_
    dsimp only
    split_ifs
    · by_cases hk : k = h
      · rw [hk, tgetD_tput_same, warmHearth_next]
      · rw [tgetD_tput_other _ hk, ht]
    · exact ht k

theorem restKept_hport (s : State) (q : Tbl QPair) (x : HostPort) : RestKept s { s with qps := q, hport := x } := .frame rfl rfl

theorem warmServing_empty {s : State} {start : Nat} {remap : Bool} (r : WarmResults) (hphase : s.stk.phase = .warm)
    (hrun : s.stk.warmRun = some (start, remap)) (ha : s.dueAborts = []) (hf : s.dueHrt = []) (hsusp : s.stk.susp = none)
    (hservice : s.stk.service = none) (hwarm : s.stk.warmQ = none) (hheld : s.held = false)
    (hparts : ∀ p, (partGet s p).sweep = 0 ∨ (partGet s p).sweep = 2) : EndsEmpty (warmServing s r) := by
  unfold warmServing
  simp -zeta only [hphase, hrun]
  split
  · obtain ⟨hhalted, hkept, -⟩ := fatal_halts s 7 0 true
    exact endsEmpty_of_stopped (by dsimp only; rw [hhalted]; decide) rfl (hkept.trans hheld)
  · extract_lets s0 st hs s1 s2 s3 s4 s5 port s6 s7 s8
    obtain ⟨hstk, hparts0, ha0, hf0⟩ : s0.stk = s.stk ∧ s0.parts = s.parts ∧ s0.dueAborts = s.dueAborts ∧ s0.dueHrt = s.dueHrt :=
      (memoryServed_warmFlush s).kept
    have hparts1 : ∀ p, (partGet s1 p).sweep = 0 ∨ (partGet s1 p).sweep = 2 := by
      intro p
      cases remap
      · have hp : partGet s1 p = partGet s p := partGet_congr hparts0 p
        rw [hp]
        exact hparts p
      · exact .inl (tgetD_map_invariant (P := fun x : Part => x.sweep = 0) rfl (fun _ => rfl) p)
    have hnext : ∀ h, (tgetD hs h .fresh).next = none := warmHearths_next s0 remap (List.range 256) (t := []) fun _ => rfl
    clear_value hs
    have hrested : Rested s1 :=
      ⟨rfl, rfl, ha0.trans ha, hf0.trans hf, rfl, hparts1, (congrArg Stoker.susp hstk).trans hsusp,
        (congrArg Stoker.service hstk).trans hservice, (congrArg Stoker.warmQ hstk).trans hwarm, hnext⟩
    have h6 : RestKept s1 s6 := (restKept_stkMod s1 (by exact rfl) (by exact rfl) (by exact rfl)).trans ((restKept_wr s2 _ _).trans
      ((restKept_bump s3 _ _ _ _).trans ((restKept_wrf s4 _ _ _ _).trans (restKept_hport s5 _ _))))
    have h7 : RestKept s6 s7 := by
      refine (restKept_linksStart s6).trans (.foldl (fun f w => ?_) r.failedPcs _)
      split_ifs
      · exact restKept_hbmFence ..
      · exact .refl w
    have h8 : RestKept s7 s8 := by
      refine .foldl (fun k w => ?_) _ s7
      split_ifs
      · exact restKept_stkPut ..
      · exact .refl w
    exact (rested_selfTestsFail ((h6.trans (h7.trans (h8.trans (restKept_routesAgain s8)))).rested hrested) _).endsEmpty

/-- Settles O22: a reset leaves a device at rest with no slice held (`Rested`), on which nothing that follows from the command uses a line; a warm
reset's flush only serves memory (`memoryServed_warmFlush`), and its failure halts the device. The warm reset is the one that WARM_RESET began
(log 48). -/
theorem resetEmptiesSlices : Obligations.ResetEmptiesSlices := by
  unfold Obligations.ResetEmptiesSlices
  refine ⟨fun s => ⟨actAny_empty (resetAssert_empty _), fun b => actAny_empty (f := fun t => coldStart t b) (coldStart_empty _ b)⟩, ?_⟩
  intro s start remap r hphase hrun ha hf hsusp hservice hwarm hparts
  exact actAny_empty (f := fun t => warmServing t r) (warmServing_empty (s := quiet s) r hphase hrun ha hf hsusp hservice hwarm rfl hparts)

end Sys2Proof.Machine

/-!
SUPPORT and proofs for HBM of chapter 08: queued reads and writes (O23), and the upkeep of its stacks and pseudo-channels (O24).
-/

namespace Sys2Proof.Machine

/-! Bits of a register. -/

theorem bit_eq_testBit (w i : Nat) : bit w i = w.testBit i := by rw [bit_eq_decide, Nat.testBit_eq_decide_div_mod_eq]

/-- Adding a power of two at a clear bit sets that bit and no other. -/
theorem testBit_add_two_pow {w p : Nat} (h : w.testBit p = false) (q : Nat) : (w + 2 ^ p).testBit q = (decide (q = p) || w.testBit q) := by
  have hlow : w % 2 ^ (p + 1) = w % 2 ^ p := by
    rw [Nat.testBit_eq_decide_div_mod_eq, decide_eq_false_iff_not] at h
    rw [Nat.mod_pow_succ, (Nat.mod_two_eq_zero_or_one _).resolve_right h, Nat.mul_zero, Nat.add_zero]
  have hw : w = 2 ^ (p + 1) * (w / 2 ^ (p + 1)) + w % 2 ^ p := by rw [← hlow, Nat.div_add_mod]
  have hlt : w % 2 ^ p < 2 ^ p := Nat.mod_lt _ (by positivity)
  have hlt' : 2 ^ p + w % 2 ^ p < 2 ^ (p + 1) := by omega
  rw [show w + 2 ^ p = 2 ^ (p + 1) * (w / 2 ^ (p + 1)) + (2 ^ p + w % 2 ^ p) by omega, Nat.testBit_two_pow_mul_add _ hlt']
  conv_rhs => rw [hw, Nat.testBit_two_pow_mul_add _ (by omega : w % 2 ^ p < 2 ^ (p + 1))]
  rcases Nat.lt_trichotomy q p with hq | rfl | hq
  · simp [Nat.lt_succ_of_lt hq, Nat.testBit_two_pow_add_gt hq, hq.ne]
  · simp [Nat.testBit_two_pow_add_eq]
  · simp [show ¬ q < p + 1 by omega, hq.ne']

/-- Setting one bit of a register. -/
theorem bit_setBits_one (w p q : Nat) : bit (setBits w p 1 1) q = (decide (q = p) || bit w q) := by
  rw [bit_eq_testBit, bit_eq_testBit]
  have hbit : bits w p 1 = (w.testBit p).toNat := by
    rw [bits, Nat.shiftRight_eq_div_pow, pow_one, Nat.testBit_eq_decide_div_mod_eq]
    rcases Nat.mod_two_eq_zero_or_one (w / 2 ^ p) with h | h <;> simp [h]
  cases h : w.testBit p with
  | true =>
    have hle := Nat.ge_two_pow_of_testBit h
    have hw : setBits w p 1 1 = w := by
      simp only [setBits, hbit, h, fieldAt, Nat.shiftLeft_eq, Bool.toNat_true, pow_one, Nat.one_mod, one_mul]
      omega
    by_cases hq : q = p
    · simp [hw, hq, h]
    · simp [hw, hq]
  | false =>
    rw [← testBit_add_two_pow h]
    simp [setBits, hbit, h, fieldAt, Nat.shiftLeft_eq]


/-! The registers and the parts of a stack. -/

/-- The registers of a stack are not those of the note of R448. -/
theorem memReg_noted {k off : Nat} (hk : k < 20) (ho : off < 0x10000) : blkBase .mem k + off ∉ noteRegs := by
  simp [noteRegs, R.prtErrLog, R.prtErrCount, blkBase]
  omega

section
variable (s : State)

@[simp] theorem pcGet_pcPut_same (k p : Nat) (x : PsCh) : pcGet (pcPut s k p x) k p = x := tgetD_tput_same _ _ _ _

theorem pcGet_pcPut (k p : Nat) (x : PsCh) (j q : Nat) :
    pcGet (pcPut s k p x) j q = if pcKey j q = pcKey k p then x else pcGet s j q := by
  by_cases h : pcKey j q = pcKey k p
  · rw [if_pos h]
    unfold pcGet
    rw [h]
    exact tgetD_tput_same _ _ _ _
  · rw [if_neg h]
    exact tgetD_tput_other _ h _ _

@[simp] theorem pcGet_stkPut (k : Nat) (x : Stack) (j q : Nat) : pcGet (stkPut s k x) j q = pcGet s j q := rfl
@[simp] theorem stkGet_stkPut_same (k : Nat) (x : Stack) : stkGet (stkPut s k x) k = x := tgetD_tput_same _ _ _ _
theorem stkGet_stkPut_other {j k : Nat} (h : j ≠ k) (x : Stack) : stkGet (stkPut s k x) j = stkGet s j := tgetD_tput_other _ h _ _

@[simp] theorem rd_stkPut (k : Nat) (x : Stack) (r : Reg) : rd (stkPut s k x) r = rd s r := rfl

theorem pcGet_congr {t : State} (h : t.hbm = s.hbm) (k p : Nat) : pcGet t k p = pcGet s k p := by rw [pcGet, pcGet, h]
theorem stkGet_congr {t : State} (h : t.hbm = s.hbm) (k : Nat) : stkGet t k = stkGet s k := by rw [stkGet, stkGet, h]

@[simp] theorem hbm_memBump (k : Nat) (r : Reg) (n w : Nat) : (memBump s k r n w).hbm = s.hbm := bump_hbm ..
@[simp] theorem slices_memBump (k : Nat) (r : Reg) (n w : Nat) : (memBump s k r n w).slices = s.slices := bump_slices ..

theorem rd_memBump_same (k : Nat) (r : Reg) (n w : Nat) :
    rd (memBump s k r n w) r = if bit (rd s (R.memCtrl k)) 0 then rd s r else (rd s r + n) % 2 ^ w := rd_bump_same ..

theorem rd_memBump_other (k : Nat) {r q : Reg} (h : q.addr ≠ r.addr) (n w : Nat) : rd (memBump s k r n w) q = rd s q := rd_bump_other _ _ h _ _

theorem rd_memErr_other (pa kind : Nat) (part : Option Nat) (src : Nat) {q : Reg}
    (hq : q.addr ∉ [R.memErrLog (hbmLoc s.hbm.dead pa).k, R.memErrCount (hbmLoc s.hbm.dead pa).k].map Reg.addr) :
    rd (memErr s pa kind part src) q = rd s q := by
  simp only [List.map_cons, List.map_nil, List.mem_cons, List.not_mem_nil, or_false, not_or] at hq
  exact rd_logErr_other _ hq.1 hq.2 _

theorem rd_fenceAccess_other (pa : Nat) (part : Option Nat) (src : Nat) {q : Reg}
    (hq : q.addr ∉ [R.memErrLog (hbmLoc s.hbm.dead pa).k, R.memErrCount (hbmLoc s.hbm.dead pa).k].map Reg.addr) :
    rd (fenceAccess s pa part src) q = rd s q := by
  unfold fenceAccess
  dsimp only
  split_ifs
  · rfl
  · exact rd_memErr_other (pcPut _ _ _ _) pa _ _ _ hq

end

section
variable {q : List Instr} {u v : State} (hf : Follows q v u)
include hf

theorem Follows.hbm : u.hbm = v.hbm := by rw [hf.eq]
theorem Follows.slices : u.slices = v.slices := by rw [hf.eq]
theorem Follows.pcGet (k p : Nat) : Machine.pcGet u k p = Machine.pcGet v k p := pcGet_congr v hf.hbm k p
theorem Follows.stkGet (k : Nat) : Machine.stkGet u k = Machine.stkGet v k := stkGet_congr v hf.hbm k

end

/-! A queued read (R234–R239). -/

/-- Neighbouring ranges of a memory are one range. -/
theorem memGetL_append (m : Mem) (a i j : Nat) : memGetL m a i ++ memGetL m (a + i) j = memGetL m a (i + j) := by
  simp [memGetL, List.range_add, Nat.add_assoc]

/-- Blocks read under the key they were written under give the bytes written (R451). -/
theorem blocksGet_keyed {hb : Hbm} {key : Nat} (hk : key ≠ 0) (fresh b n : Nat) (ht : ∀ i, i < n → blockTag hb (b + i) = key) :
    blocksGet hb fresh key b n = (memGetL hb.mem (16 * b) (16 * n), fresh) := by
  induction n generalizing b with
  | zero => rfl
  | succ n ih =>
    have hblock : blockGet hb fresh key b = (memGetL hb.mem (16 * b) 16, fresh) := by
      simp [blockGet, hk, show blockTag hb b = key from ht 0 n.succ_pos]
    have hrest := ih (b + 1) fun i hi => by
      rw [Nat.add_right_comm]
      exact ht (i + 1) (Nat.succ_lt_succ hi)
    rw [blocksGet, hblock, hrest, show 16 * (b + 1) = 16 * b + 16 by omega, memGetL_append, show 16 + 16 * n = 16 * (n + 1) by omega]

/-- A read of one line that meets no fence, no injection, no mark and no queued write, under the key that the line was written under. -/
theorem hbmReadLines_clean {s : State} {k p part slot a : Nat} (hk : (hbmLoc s.hbm.dead (256 * a)).k = k)
    (hp : (hbmLoc s.hbm.dead (256 * a)).p = p) (hfence : fenced s k p = false) (hinj : injKind s 17 k = none) (hwq : (pcGet s k p).wq = [])
    (hkey : keySer s part slot ≠ 0) (htag : ∀ b, b < 16 → blockTag s.hbm (16 * a + b) = keySer s part slot)
    (hpois : wordsIn s.hbm.pois [a] = []) (hues : wordsIn s.hbm.ues [a] = []) :
    hbmReadLines s part slot [a] = ([⟨a, memGetL s.hbm.mem (256 * a) 256, false⟩], memBump s k (R.memRdBytes k) 256 64) := by
  have hhead : 8 * (lineWords [a]).head?.getD 0 = 256 * a := by
    rw [show (lineWords [a]).head?.getD 0 = 32 * a from rfl]
    omega
  have hdecode : memDecode s s.hbm [a] (some part) 0 = ([], s) := by
    simp [memDecode, memInject, hhead, hk, hinj, hpois, hues]
  have hblocks := blocksGet_keyed hkey s.fresh (16 * a) 16 htag
  simp only [hbmReadLines, hk, hp, hfence, hwq, hbView, hdecode, List.foldl_cons, List.foldl_nil, hblocks]
  rw [show 16 * (16 * a) = 256 * a by omega]
  rfl

/-! A queued write (R235, R239). -/

theorem memPutL_append (m : Mem) (a : Nat) (xs ys : List Byte) : memPutL m a (xs ++ ys) = memPutL (memPutL m a xs) (a + xs.length) ys := by
  induction xs generalizing m a with
  | nil => rfl
  | cons x xs ih =>
    rw [List.cons_append, memPutL, memPutL, ih, List.length_cons]
    congr 1
    omega

/-- A write changes the bytes and the tags of the array, and nothing else of HBM. -/
theorem blocksPut_frame (hb : Hbm) (fresh key pa : Nat) (bs : List Byte) (n : Nat) :
    ∃ m t, (blocksPut hb fresh key pa bs n).1 = { hb with mem := m, tags := t } := by
  induction n generalizing hb fresh pa bs with
  | zero => exact ⟨_, _, rfl⟩
  | succ n ih =>
    rw [blocksPut]
    split_ifs
    · exact ⟨_, _, rfl⟩
    · obtain ⟨m, t, h⟩ := ih _ _ _ _
      exact ⟨m, t, h⟩

theorem hbApply_pcs (hb : Hbm) (fresh : Nat) (w : HbmWr) : (hbApply hb fresh w).1.pcs = hb.pcs := by
  obtain ⟨m, t, h⟩ := blocksPut_frame hb fresh w.key w.pa w.data (w.data.length / 16 + 2)
  simp only [hbApply, h]

/-- Whole blocks written: the bytes stand at their address, and their blocks are under the key. -/
theorem blocksPut_whole {pa : Nat} {bs : List Byte} {n : Nat} (hpa : pa % 16 = 0) (hlen : bs.length % 16 = 0) (hn : bs.length ≤ 16 * n)
    (hb : Hbm) (fresh key : Nat) :
    ∃ t, (blocksPut hb fresh key pa bs n).1 = { hb with mem := memPutL hb.mem pa bs, tags := t } ∧
      ∀ b, tget t b = if pa / 16 ≤ b ∧ b < (pa + bs.length) / 16 then some key else tget hb.tags b := by
  induction n generalizing hb fresh pa bs with
  | zero =>
    obtain rfl : bs = [] := List.length_eq_zero_iff.1 (by omega)
    exact ⟨hb.tags, rfl, fun b => (if_neg (by simp)).symm⟩
  | succ n ih =>
    rw [blocksPut]
    cases hbs : bs with
    | nil => exact ⟨hb.tags, rfl, fun b => (if_neg (by simp)).symm⟩
    | cons c r =>
      rw [← hbs]
      have hpos : 16 ≤ bs.length := by
        have : bs.length ≠ 0 := by simp [hbs]
        omega
      have hne : ¬ bs.isEmpty = true := by simp [hbs]
      have htake : (bs.take 16).length = 16 := by simp [hpos]
      have hdrop : (bs.drop 16).length = bs.length - 16 := List.length_drop
      obtain ⟨t, hx, ht⟩ := ih (pa := pa + 16) (bs := bs.drop 16) (by omega) (by omega) (by omega)
        { hb with mem := memPutL hb.mem (16 * (pa / 16)) (bs.take 16), tags := tput hb.tags (pa / 16) key } fresh
      have hmem : memPutL (memPutL hb.mem (16 * (pa / 16)) (bs.take 16)) (pa + 16) (bs.drop 16) = memPutL hb.mem pa bs := by
        rw [show 16 * (pa / 16) = pa by omega]
        conv_rhs => rw [← List.take_append_drop 16 bs, memPutL_append, htake]
      refine ⟨t, ?_, fun b => ?_⟩
      · rw [if_neg hne]
        simpa [hpa, hpos, htake, hmem] using hx
      · rw [ht, hdrop, show pa + 16 + (bs.length - 16) = pa + bs.length by omega, show (pa + 16) / 16 = pa / 16 + 1 by omega]
        by_cases hb0 : b = pa / 16
        · subst hb0
          rw [if_neg (by omega), if_pos (by omega)]
          exact tget_tput_same ..
        · rw [show tget (tput hb.tags (pa / 16) key) b = tget hb.tags b from tget_tput_other _ hb0 _]
          exact if_congr (by omega) rfl rfl

/-- Marks set on a list of words. -/
theorem tgetD_marksSet (l : List Nat) (t : Tbl Bool) (i : Nat) :
    tgetD (l.foldl (fun t i => tput t i true) t) i false = if i ∈ l then true else tgetD t i false := by
  induction l generalizing t with
  | nil => simp
  | cons j l ih =>
    rw [List.foldl_cons, ih]
    by_cases hij : i = j
    · simp [hij]
    · simp [hij, tgetD_tput_other _ hij]

/-- Marks cleared on a list of words. -/
theorem tgetD_marksCleared (l : List Nat) (t : Tbl Bool) (i : Nat) :
    tgetD (l.foldl (fun t i => tdel t i) t) i false = if i ∈ l then false else tgetD t i false := by
  induction l generalizing t with
  | nil => simp
  | cons j l ih =>
    rw [List.foldl_cons, ih]
    by_cases hij : i = j
    · simp [hij, tgetD]
    · simp [hij, tgetD_tdel_other _ hij]

section
variable {pa len : Nat} (hpa : pa % 16 = 0)
include hpa

theorem mem_wordsWhole {i : Nat} : i ∈ wordsWhole pa len ↔ pa / 8 ≤ i ∧ i < (pa + len) / 8 := by
  simp only [wordsWhole, List.mem_map, List.mem_range]
  constructor
  · rintro ⟨j, hj, rfl⟩
    omega
  · rintro ⟨h1, h2⟩
    exact ⟨i - pa / 8, by omega, by omega⟩

/-- A write of whole blocks covers no word in part. -/
theorem wordsPart_whole (hlen : len % 16 = 0) : wordsPart pa len = [] := by
  simp [wordsPart, show pa % 8 = 0 by omega, show (pa + len) % 8 = 0 by omega]

end

/-- What a write of whole blocks leaves in the array (R235, R239). -/
structure WholeWritten (hb hb' : Hbm) (w : HbmWr) : Prop where
  data : memGetL hb'.mem w.pa w.data.length = w.data
  kept : ∀ c, c < w.pa ∨ w.pa + w.data.length ≤ c → memGet hb'.mem c = memGet hb.mem c
  tagged : ∀ b, b < w.data.length / 16 → blockTag hb' (w.pa / 16 + b) = w.key
  tags : ∀ b, b < w.pa / 16 ∨ (w.pa + w.data.length) / 16 ≤ b → blockTag hb' b = blockTag hb b
  pois : ∀ i, tgetD hb'.pois i false = if w.pa / 8 ≤ i ∧ i < (w.pa + w.data.length) / 8 then w.pois else tgetD hb.pois i false
  pcs : hb'.pcs = hb.pcs

theorem hbApply_whole {w : HbmWr} (hpa : w.pa % 16 = 0) (hlen : w.data.length % 16 = 0) (hb : Hbm) (fresh : Nat) :
    WholeWritten hb (hbApply hb fresh w).1 w := by
  obtain ⟨t, hx, ht⟩ := blocksPut_whole (n := w.data.length / 16 + 2) hpa hlen (by omega) hb fresh w.key
  have htag : ∀ b, blockTag (hbApply hb fresh w).1 b = if w.pa / 16 ≤ b ∧ b < (w.pa + w.data.length) / 16 then w.key else blockTag hb b := by
    intro b
    simp only [blockTag, hbApply, hx, ht]
    by_cases h : w.pa / 16 ≤ b ∧ b < (w.pa + w.data.length) / 16 <;> simp [h]
  refine ⟨?_, fun c hc => ?_, fun b h => ?_, fun b h => ?_, fun i => ?_, hbApply_pcs ..⟩
  · simp only [hbApply, hx]
    exact memGetL_memPutL ..
  · simp only [hbApply, hx]
    exact memGet_memPutL_other _ _ _ hc
  · rw [htag, if_pos (by omega)]
  · rw [htag, if_neg (by omega)]
  · cases hw : w.pois <;> simp [hbApply, hx, hw, tgetD_marksSet, tgetD_marksCleared, mem_wordsWhole hpa]

/-- A controller makes a write of whole blocks to a pseudo-channel that is not fenced. -/
theorem hbmApplyWr_whole {s : State} {w : HbmWr} (hpa : w.pa % 16 = 0) (hlen : w.data.length % 16 = 0)
    (hfence : fenced s (hbmLoc s.hbm.dead w.pa).k (hbmLoc s.hbm.dead w.pa).p = false) :
    WholeWritten s.hbm (hbmApplyWr s w).hbm w ∧ (hbmApplyWr s w).slices = s.slices ∧
      ∀ r : Reg, r.addr ≠ (R.memWrBytes (hbmLoc s.hbm.dead w.pa).k).addr → rd (hbmApplyWr s w) r = rd s r := by
  have heq : hbmApplyWr s w = memBump { s with hbm := (hbApply s.hbm s.fresh w).1, fresh := (hbApply s.hbm s.fresh w).2 }
      (hbmLoc s.hbm.dead w.pa).k (R.memWrBytes (hbmLoc s.hbm.dead w.pa).k) w.data.length 64 := by
    simp only [hbmApplyWr, hfence, wordsPart_whole hpa hlen]
    rfl
  rw [heq, hbm_memBump, slices_memBump]
  exact ⟨hbApply_whole hpa hlen _ _, rfl, fun r hr => rd_memBump_other _ _ hr _ _⟩

/-- Behind a fence a controller makes no write. -/
theorem hbmApplyWr_fenced {s : State} {w : HbmWr} (hfence : fenced s (hbmLoc s.hbm.dead w.pa).k (hbmLoc s.hbm.dead w.pa).p = true) :
    hbmApplyWr s w = fenceAccess s w.pa (if w.pv then some w.part else none) 0 := by
  simp only [hbmApplyWr, hfence, if_true]

/-! Errors and accesses noted (R238, R242). -/

/-- From `s` to `t` accesses of HBM are noted: registers, marks of controllers and the counter of free values change, and no queue of writes. -/
structure AccessNoted (s t : State) : Prop where
  eq : t = { s with csr := t.csr, fresh := t.fresh, hbm := { s.hbm with pcs := t.hbm.pcs } }
  wq : ∀ k p, (pcGet t k p).wq = (pcGet s k p).wq

section
variable {s t u : State}

theorem AccessNoted.refl (s : State) : AccessNoted s s := ⟨rfl, fun _ _ => rfl⟩

theorem AccessNoted.trans (h1 : AccessNoted s t) (h2 : AccessNoted t u) : AccessNoted s u := by
  refine ⟨?_, fun k p => (h2.wq k p).trans (h1.wq k p)⟩
  rw [h2.eq, h1.eq]

theorem AccessNoted.foldl {α : Type} {f : State → α → State} (hf : ∀ a w, AccessNoted w (f w a)) (l : List α) (s : State) :
    AccessNoted s (l.foldl f s) := by
  induction l generalizing s with
  | nil => exact .refl s
  | cons a l ih => exact (hf a s).trans (ih (f s a))

theorem AccessNoted.stkGet (h : AccessNoted s t) (k : Nat) : Machine.stkGet t k = Machine.stkGet s k := by rw [h.eq]; rfl
theorem AccessNoted.mem (h : AccessNoted s t) : t.hbm.mem = s.hbm.mem := by rw [h.eq]
theorem AccessNoted.tags (h : AccessNoted s t) : t.hbm.tags = s.hbm.tags := by rw [h.eq]
theorem AccessNoted.served (h : AccessNoted s t) : MemoryServed s t := by rw [h.eq]; rfl

end

section
variable (s : State)

theorem accessNoted_bump (frz : Bool) (r : Reg) (n w : Nat) : AccessNoted s (bump s frz r n w) := by cases frz <;> exact ⟨rfl, fun _ _ => rfl⟩
theorem accessNoted_logErr (l c : Reg) (v : Nat) : AccessNoted s (logErr s l c v) := by
  rw [logErr_eq]
  exact ⟨rfl, fun _ _ => rfl⟩
theorem accessNoted_wr (r : Reg) (v : Nat) : AccessNoted s (wr s r v) := ⟨rfl, fun _ _ => rfl⟩
theorem accessNoted_fresh (n : Nat) : AccessNoted s { s with fresh := n } := ⟨rfl, fun _ _ => rfl⟩
theorem accessNoted_memBump (k : Nat) (r : Reg) (n w : Nat) : AccessNoted s (memBump s k r n w) := accessNoted_bump ..
theorem accessNoted_memErr (pa kind : Nat) (part : Option Nat) (src : Nat) : AccessNoted s (memErr s pa kind part src) := accessNoted_logErr ..

theorem accessNoted_pcPut {k p : Nat} {x : PsCh} (hx : x.wq = (pcGet s k p).wq) : AccessNoted s (pcPut s k p x) := by
  refine ⟨rfl, fun j q => ?_⟩
  rw [pcGet_pcPut]
  split_ifs with h
  · rw [hx, pcGet, pcGet, h]
  · rfl

theorem accessNoted_fenceAccess (pa : Nat) (part : Option Nat) (src : Nat) : AccessNoted s (fenceAccess s pa part src) := by
  unfold fenceAccess
  dsimp only
  split_ifs
  · exact .refl s
  · exact .trans (t := pcPut s _ _ { pcGet s _ _ with fenceHit := true }) (accessNoted_pcPut s rfl) (accessNoted_memErr _ pa 3 part src)

theorem accessNoted_ueGranule (pa : Nat) : AccessNoted s (ueGranule s pa) := by
  unfold ueGranule
  dsimp only
  split_ifs
  · exact .refl s
  · exact accessNoted_pcPut s rfl

theorem accessNoted_memUe (pa : Nat) (part : Option Nat) (src : Nat) : AccessNoted s (memUe s pa part src) :=
  (accessNoted_memBump ..).trans ((accessNoted_memErr ..).trans (accessNoted_ueGranule ..))

/-- A word that the patrol corrects is rewritten in place: no correction is queued (R241). -/
theorem accessNoted_memCe_patrol (pa : Nat) (two : Bool) (syn : Nat) : AccessNoted s (memCe s pa two syn true) := by
  unfold memCe
  rw [if_pos rfl]
  exact (accessNoted_memBump ..).trans ((accessNoted_wr ..).trans (accessNoted_memBump ..))

theorem accessNoted_memInject_patrol (hb : Hbm) (words : List Nat) (part : Option Nat) : AccessNoted s (memInject s hb words part 1).2 := by
  have hfired : ∀ n m, AccessNoted s (freeBits (injFired (freeBits s n).2) m).2 := fun n m =>
    (accessNoted_fresh s _).trans ((accessNoted_wr ..).trans (accessNoted_fresh ..))
  unfold memInject
  dsimp only
  split
  · exact .refl s
  · split_ifs <;> dsimp only
    · exact (hfired 8 16).trans (accessNoted_memUe ..)
    · exact hfired 8 16
    · rw [decide_eq_true (rfl : 1 = 1)]
      exact (hfired 8 16).trans (accessNoted_memCe_patrol ..)

theorem accessNoted_memDecode_patrol (hb : Hbm) (lines : List Nat) (part : Option Nat) : AccessNoted s (memDecode s hb lines part 1).2 :=
  (accessNoted_memInject_patrol ..).trans
    ((AccessNoted.foldl (fun _ t => accessNoted_memErr t _ _ _ _) _ _).trans (.foldl (fun _ t => accessNoted_memUe t _ _ _) _ _))

theorem accessNoted_patrolPc (k p slot : Nat) : AccessNoted s (patrolPc s k p slot) := by
  unfold patrolPc
  dsimp only
  split_ifs
  · exact .refl s
  · exact accessNoted_fenceAccess ..
  · exact (accessNoted_fresh s _).trans ((accessNoted_memDecode_patrol ..).trans (accessNoted_memBump ..))

theorem accessNoted_mergeReads (w : HbmWr) (words : List Nat) : AccessNoted s (mergeReads s w words).2 :=
  (AccessNoted.foldl (fun _ t => accessNoted_memUe t _ _ _) _ s).trans (.foldl (fun _ t => accessNoted_memErr t _ _ _ _) _ _)

theorem accessNoted_fenceSet (k p : Nat) : AccessNoted s (fenceSet s k p) := accessNoted_wr ..

end

/-! Reads and writes of a controller. -/

/-- The queue of a pseudo-channel without its read `i`. -/
def readTaken (s : State) (k p i : Nat) : State := pcPut s k p { pcGet s k p with rq := ldel (pcGet s k p).rq i, refR := false }

/-- The data `ds` of a read has returned to its fill. -/
def fillReturned (s : State) (r : HbmRd) (ds : List LineData) : State :=
  slMod s r.s (fun x => { x with fills := x.fills.map (fun g => if g.id = r.fid then { g with ret := some ds } else g) })

theorem hbmRead_eq {s : State} {k p i : Nat} {r : HbmRd} {f : Fill} (hserves : stkServes s k = true) (hr : lget (pcGet s k p).rq i = some r)
    (hf : (slGet s r.s).fills.find? (fun f => f.id = r.fid) = some f) {ds : List LineData} {t : State}
    (hread : hbmReadLines (readTaken s k p i) f.part f.k f.lines = (ds, t)) :
    hbmRead s k p i = chmBump (fillReturned t r ds) r.s (R.chmBytesHbmRd r.s) (256 * f.lines.length) 64 := by
  have hf' : (tgetD (readTaken s k p i).slices r.s .empty).fills.find? (fun f => f.id = r.fid) = some f := hf
  unfold readTaken at hread hf'
  simp only [hbmRead, hserves, hr, hf', hread, Bool.not_true, Bool.false_eq_true, if_false]
  rfl

/-- What an answered read changes beside its two byte counters. -/
theorem readAnswered_units (s : State) (k p i : Nat) (r : HbmRd) (ds : List LineData) (n m : Nat) :
    let v := chmBump (fillReturned (memBump (readTaken s k p i) k (R.memRdBytes k) n 64) r ds) r.s (R.chmBytesHbmRd r.s) m 64
    MemoryServed s v ∧ v.hbm = (readTaken s k p i).hbm ∧
      (slGet v r.s).fills = (slGet s r.s).fills.map (fun g => if g.id = r.fid then { g with ret := some ds } else g) ∧
      ∀ q : Reg, q.addr ∉ [R.memRdBytes k, R.chmBytesHbmRd r.s].map Reg.addr → rd v q = rd s q := by
  refine ⟨?_, (hbm_chmBump ..).trans (hbm_memBump ..), ?_, fun q hq => ?_⟩
  · exact (memoryServed_pcPut ..).trans ((memoryServed_memBump ..).trans ((memoryServed_slices ..).trans (memoryServed_chmBump ..)))
  · rw [slGet_chmBump, fillReturned, slGet_slMod_same, slGet_congr (slices_memBump ..)]
    rfl
  · simp only [List.map_cons, List.map_nil, List.mem_cons, List.not_mem_nil, or_false, not_or] at hq
    rw [rd_chmBump_other _ _ hq.2]
    exact rd_memBump_other _ _ hq.1 _ _

/-- The oldest write of a pseudo-channel, which it takes from its queue. -/
def writeTaken (s : State) (k p : Nat) (q : List HbmWr) : State := pcPut s k p { pcGet s k p with wq := q, refW := false }

theorem hbmPop_eq {s : State} {k p : Nat} {w : HbmWr} {q : List HbmWr} (hwq : (pcGet s k p).wq = w :: q) :
    hbmPop s k p = hbmApplyWr (writeTaken s k p q) w := by
  simp only [hbmPop, hwq]
  rfl

theorem hbmWrite_eq {s : State} {k p : Nat} {w : HbmWr} {q : List HbmWr} (hserves : stkServes s k = true) (hwq : (pcGet s k p).wq = w :: q) :
    hbmWrite s k p = hbmApplyWr (writeTaken s k p q) w := (if_pos hserves).trans (hbmPop_eq hwq)

/-- Settles O23: a read of a clean line gives the bytes of its blocks (`hbmReadLines_clean`, `hbmRead_eq`); a write of whole blocks is
`hbApply_whole`, and behind a fence (R242) it is dropped and recorded as it is served (log 20). -/
theorem hbmReadsAndWrites : Obligations.HbmReadsAndWrites := by
  unfold Obligations.HbmReadsAndWrites
  refine ⟨fun s k p i r f a hk hp hc hserves hr hf hl hlk hlp hfence hinj hwq hkey htag hpois hues => ?read,
    fun s k p w q hk hp hc hserves hwq hlk hlp hpa hlen => ?writes⟩
  case read =>
    have hread := hbmReadLines_clean (s := readTaken (quiet s) k p i) (part := f.part) (slot := f.k) hlk hlp hfence hinj
      (by rw [readTaken, pcGet_pcPut_same]; exact hwq) hkey htag hpois hues
    rw [← hl] at hread
    have heq := hbmRead_eq (s := quiet s) hserves hr hf hread
    obtain ⟨hserved, hhbm, hfills, hrd⟩ := readAnswered_units (quiet s) k p i r [⟨a, memGetL s.hbm.mem (256 * a) 256, false⟩] 256
      (256 * f.lines.length)
    obtain ⟨u, hu, hf⟩ := act_serves (f := fun t => hbmRead t k p i) hc (And.intro hk hp) heq hserved
    have huhbm := hf.hbm.trans hhbm
    refine ⟨u, hu, ?_, ?_, ?_, hf.sameRegs hserved hrd⟩
    · rw [huhbm]
      rfl
    · rw [pcGet_congr _ huhbm, readTaken, pcGet_pcPut_same]
      rfl
    · rw [hf.slGet]
      exact hfills
  case writes =>
    subst hlk hlp
    set k := (hbmLoc s.hbm.dead w.pa).k
    set p := (hbmLoc s.hbm.dead w.pa).p
    have hserved : MemoryServed (quiet s) (hbmApplyWr (writeTaken (quiet s) k p q) w) :=
      (memoryServed_pcPut ..).trans (memoryServed_hbmApplyWr ..)
    obtain ⟨u, hu, hf⟩ := act_serves (f := fun t => hbmWrite t k p) hc (And.intro hk hp)
      (hbmWrite_eq (s := quiet s) hserves hwq) hserved
    refine ⟨fun hfence => ?write, fun hfence => ?dropped⟩
    case write =>
      obtain ⟨hwritten, hslices, hrd⟩ := hbmApplyWr_whole (s := writeTaken (quiet s) k p q) hpa hlen hfence
      rw [← hf.hbm] at hwritten
      obtain ⟨hdata, hkept, htagged, htags, hpois, hpcs⟩ := hwritten
      refine ⟨u, hu, hdata, hkept, htagged, htags, hpois, ?_, hf.sameRegs hserved fun r hr => hrd r (List.ne_of_not_mem_cons hr),
        hf.slices.trans hslices⟩
      rw [pcGet, hpcs]
      exact congrArg PsCh.wq (pcGet_pcPut_same ..)
    case dropped =>
      have heq := hbmApplyWr_fenced (s := writeTaken (quiet s) k p q) hfence
      rw [heq] at hf hserved
      have hnoted := accessNoted_fenceAccess (writeTaken (quiet s) k p q) w.pa (if w.pv then some w.part else none) 0
      refine ⟨u, hu, ?_, ?_, ?_, hf.sameRegs hserved fun r hr => ?_⟩
      · rw [hf.hbm]
        exact hnoted.mem
      · rw [hf.hbm]
        exact hnoted.tags
      · rw [hf.pcGet, hnoted.wq, writeTaken, pcGet_pcPut_same]
      · exact rd_fenceAccess_other (writeTaken (quiet s) k p q) _ _ _ hr

/-! What upkeep changes: of HBM the controllers and the stacks (R237, R240–R246). -/

/-- `s` with the controllers and stacks of `t`. -/
def upkeepFrame (s t : State) : State := { s with hbm := { s.hbm with pcs := t.hbm.pcs, stk := t.hbm.stk } }

/-- From `s` to `t` only registers, controllers, stacks and the counter of free values change. -/
def UpkeepOnly (s t : State) : Prop :=
  t = { s with csr := t.csr, fresh := t.fresh, hbm := { s.hbm with pcs := t.hbm.pcs, stk := t.hbm.stk } }

section
variable {s t u : State}

theorem UpkeepOnly.refl (s : State) : UpkeepOnly s s := rfl

theorem UpkeepOnly.trans (h1 : UpkeepOnly s t) (h2 : UpkeepOnly t u) : UpkeepOnly s u := by
  unfold UpkeepOnly at *
  rw [h2, h1]

theorem UpkeepOnly.foldl {α : Type} {f : State → α → State} (hf : ∀ a w, UpkeepOnly w (f w a)) (l : List α) (s : State) :
    UpkeepOnly s (l.foldl f s) := by
  induction l generalizing s with
  | nil => exact .refl s
  | cons a l ih => exact (hf a s).trans (ih (f s a))

theorem AccessNoted.upkeep (h : AccessNoted s t) : UpkeepOnly s t := by
  have e := h.eq
  unfold UpkeepOnly
  rw [e]

theorem upkeepOnly_stkPut (s : State) (k : Nat) (x : Stack) : UpkeepOnly s (stkPut s k x) := rfl
theorem upkeepOnly_wr (s : State) (r : Reg) (v : Nat) : UpkeepOnly s (wr s r v) := rfl
theorem upkeepOnly_wrf (s : State) (r : Reg) (lo len v : Nat) : UpkeepOnly s (wrf s r lo len v) := rfl
theorem upkeepOnly_memBump (s : State) (k : Nat) (r : Reg) (n w : Nat) : UpkeepOnly s (memBump s k r n w) := (accessNoted_memBump ..).upkeep

theorem UpkeepOnly.served (h : UpkeepOnly s t) : MemoryServed s t := by rw [h]; rfl
theorem UpkeepOnly.mem (h : UpkeepOnly s t) : t.hbm.mem = s.hbm.mem := by rw [h]

/-- What a command leaves whose operation is upkeep. -/
theorem Follows.upkeepOnly {rs : List Reg} (hf : Follows s.pending t u) (hc : Calm s) (hv : UpkeepOnly (quiet s) t)
    (hr : ∀ r : Reg, r.addr ∉ rs.map Reg.addr → Machine.rd t r = Machine.rd s r) :
    ChangesOnly s u upkeepFrame rs := by
  have hhearths : u.hearths = s.hearths := by rw [hf.eq, hv]; rfl
  have hslices : u.slices = s.slices := by rw [hf.eq, hv]; rfl
  have hmcast : u.mcast = s.mcast := by rw [hf.eq, hv]; rfl
  have hhbm : u.hbm = { s.hbm with pcs := u.hbm.pcs, stk := u.hbm.stk } := by
    rw [hf.hbm]
    exact congrArg State.hbm hv
  refine hf.changesOnly hc hv.served hr ?_
  rw [hhearths, hslices, hmcast, upkeepFrame, ← hhbm]

/-- A command that serves memory, and is one that the Stoker performs. -/
theorem actStk_serves {c : Prop} [Decidable c] {f : State → State} (hc : Calm s) (hg : c) (e : f (quiet s) = t) (hv : MemoryServed (quiet s) t) :
    ∃ u, actStk (only c f) s = .next u ∧ Follows s.pending t u := lead_stk hc hg e (hv.calm hc.quiet)

end

/-! The correction queue (R237). -/

section
variable {s : State} {k w : Nat} {q : List Nat} (hcorr : (stkGet s k).corr = w :: q)
include hcorr

/-- A word that is rewritten leaves the queue, its record in MEM_CE_LOG is marked where it is the one recorded, and the bytes are counted. -/
theorem hbmCorrectionRewrite_open (hfence : fenced s k (hbmLoc s.hbm.dead (8 * w)).p = false) :
    ∃ t, hbmCorrectionRewrite s k = memBump t k (R.memWrBytes k) 8 64 ∧ UpkeepOnly s t ∧
      t.hbm = (stkPut s k { stkGet s k with corr := q }).hbm ∧ ∀ r : Reg, r.addr ≠ (R.memCeLog k).addr → rd t r = rd s r := by
  have hupkeep := upkeepOnly_stkPut s k { stkGet s k with corr := q }
  simp only [hbmCorrectionRewrite, hcorr, hfence, Bool.false_eq_true, if_false]
  refine ⟨_, rfl, ?_⟩
  split_ifs
  · exact ⟨hupkeep.trans (upkeepOnly_wrf ..), wrf_hbm .., fun r hr => rd_wr_other _ hr _⟩
  · exact ⟨hupkeep, rfl, fun _ _ => rd_stkPut ..⟩

theorem hbmCorrectionRewrite_fenced (hfence : fenced s k (hbmLoc s.hbm.dead (8 * w)).p = true) :
    hbmCorrectionRewrite s k = fenceAccess (stkPut s k { stkGet s k with corr := q }) (8 * w) none 0 := by
  simp only [hbmCorrectionRewrite, hcorr, hfence, if_true]

end

section
variable {s : State} {k : Nat} (hk : k < 20) (hc : Calm s)
include hk hc

theorem hbmCorrectionRewrite_rewrites {w : Nat} {q : List Nat} (hcorr : (stkGet s k).corr = w :: q)
    (hfence : fenced s k (hbmLoc s.hbm.dead (8 * w)).p = false) :
    Completes (.hbmCorrectionRewrite k) s (fun u =>
      ChangesOnly s u upkeepFrame [R.memCeLog k, R.memWrBytes k] ∧
        stkGet u k = { stkGet s k with corr := q } ∧
        (bit (rd s (R.memCtrl k)) 0 = false → rd u (R.memWrBytes k) = (rd s (R.memWrBytes k) + 8) % 2 ^ 64)) := by
  obtain ⟨t, heq, hup, hhbm, hrd⟩ := hbmCorrectionRewrite_open (s := quiet s) hcorr hfence
  have hv := hup.trans (upkeepOnly_memBump t k (R.memWrBytes k) 8 64)
  obtain ⟨u, hu, hf⟩ := act_serves (f := fun t => hbmCorrectionRewrite t k) hc hk heq hv.served
  refine ⟨u, hu, hf.upkeepOnly hc hv fun r hr => ?_, ?_, fun hfrz => ?_⟩
  · simp only [List.map_cons, List.map_nil, List.mem_cons, List.not_mem_nil, or_false, not_or] at hr
    exact (rd_memBump_other _ _ hr.2 _ _).trans (hrd r hr.1)
  · rw [hf.stkGet, stkGet_congr _ ((hbm_memBump ..).trans hhbm), stkGet_stkPut_same]
    rfl
  · rw [hf.rd _ (memReg_noted hk (by decide)), rd_memBump_same, hrd _ (by simp [R.memCtrl, R.memCeLog]), hrd _ (by simp [R.memWrBytes, R.memCeLog]),
      rd_quiet, rd_quiet, hfrz]
    rfl

theorem hbmCorrectionRewrite_discards {w : Nat} {q : List Nat} (hcorr : (stkGet s k).corr = w :: q)
    (hfence : fenced s k (hbmLoc s.hbm.dead (8 * w)).p = true) :
    Completes (.hbmCorrectionRewrite k) s (fun u =>
      ChangesOnly s u upkeepFrame
        [R.memErrLog (hbmLoc s.hbm.dead (8 * w)).k, R.memErrCount (hbmLoc s.hbm.dead (8 * w)).k] ∧
        stkGet u k = { stkGet s k with corr := q }) := by
  have heq := hbmCorrectionRewrite_fenced (s := quiet s) hcorr hfence
  have hnoted := accessNoted_fenceAccess (stkPut (quiet s) k { stkGet (quiet s) k with corr := q }) (8 * w) none 0
  have hv := (upkeepOnly_stkPut (quiet s) k _).trans hnoted.upkeep
  obtain ⟨u, hu, hf⟩ := act_serves (f := fun t => hbmCorrectionRewrite t k) hc hk heq hv.served
  refine ⟨u, hu, hf.upkeepOnly hc hv fun r hr => rd_fenceAccess_other (stkPut (quiet s) k _) _ _ _ hr, ?_⟩
  rw [hf.stkGet, hnoted.stkGet, stkGet_stkPut_same]
  rfl

/-! Refreshes (R240). -/

theorem hbmRefresh_completes {p b : Nat} (hp : p < 32) (hb : b < 64) :
    Completes (.hbmRefresh k p b) s (fun u =>
      ChangesOnly s u upkeepFrame [R.memRefForcedP k p] ∧
        (readWaits s k p b = false → tgetD (pcGet u k p).post b 0 = 0) ∧
        (readWaits s k p b = true → tgetD (pcGet s k p).post b 0 < 8 →
          tgetD (pcGet u k p).post b 0 = tgetD (pcGet s k p).post b 0 + 1 ∧ rd u (R.memRefForcedP k p) = rd s (R.memRefForcedP k p)) ∧
        (readWaits s k p b = true → 8 ≤ tgetD (pcGet s k p).post b 0 → bit (rd s (R.memCtrl k)) 0 = false →
          rd u (R.memRefForcedP k p) = (rd s (R.memRefForcedP k p) + 1) % 2 ^ 48)) := by
  have hnote : (R.memRefForcedP k p).addr ∉ noteRegs := by
    have := memReg_noted (off := 0x110 + p * 0x20) hk (by omega)
    rwa [← Nat.add_assoc] at this
  have hlead : ∀ {v}, hbmRefresh (quiet s) k p b = v → UpkeepOnly (quiet s) v → Completes (.hbmRefresh k p b) s (Follows s.pending v) :=
    fun e hv => act_serves (f := fun t => hbmRefresh t k p b) hc (And.intro hk (And.intro hp hb)) e hv.served
  by_cases hw : readWaits s k p b = true
  · by_cases hn : tgetD (pcGet s k p).post b 0 < 8
    · obtain ⟨u, hu, hf⟩ := hlead
        (v := pcPut (quiet s) k p { pcGet s k p with post := tput (pcGet s k p).post b (tgetD (pcGet s k p).post b 0 + 1) })
        ((if_pos hw).trans (if_pos hn)) rfl
      refine ⟨u, hu, hf.upkeepOnly hc rfl fun _ _ => rfl, fun h => absurd hw (by simp [h]), fun _ _ => ⟨?_, hf.rd _ hnote⟩,
        fun _ h => absurd hn (Nat.not_lt.2 h)⟩
      rw [hf.pcGet, pcGet_pcPut_same]
      exact tgetD_tput_same ..
    · have hv := upkeepOnly_memBump (quiet s) k (R.memRefForcedP k p) 1 48
      obtain ⟨u, hu, hf⟩ := hlead ((if_pos hw).trans (if_neg hn)) hv
      refine ⟨u, hu, hf.upkeepOnly hc hv fun r hr => rd_memBump_other _ _ (List.ne_of_not_mem_cons hr) _ _,
        fun h => absurd hw (by simp [h]), fun _ h => absurd h hn, fun _ _ hfrz => ?_⟩
      rw [hf.rd _ hnote, rd_memBump_same, rd_quiet, rd_quiet, hfrz]
      rfl
  · obtain ⟨u, hu, hf⟩ := hlead (v := pcPut (quiet s) k p { pcGet s k p with post := tdel (pcGet s k p).post b }) (if_neg hw) rfl
    refine ⟨u, hu, hf.upkeepOnly hc rfl fun _ _ => rfl, fun _ => ?_, fun h => absurd h hw, fun h => absurd h hw⟩
    rw [hf.pcGet, pcGet_pcPut_same]
    simp [tgetD]

end

/-! The patrol (R241). -/

/-- A pass notes what it reads, and goes on to the next slot. -/
theorem hbmPatrolRead_units {s : State} {k : Nat} (hon : bit (rd s (R.memCtrl k)) 2 = true) (hst : (stkGet s k).st = 2) :
    UpkeepOnly s (hbmPatrolRead s k) ∧
      (stkGet (hbmPatrolRead s k) k).patrol = if (stkGet s k).patrol + 1 < 585728 then (stkGet s k).patrol + 1 else 0 := by
  have hpass : ∃ t, AccessNoted s t ∧ hbmPatrolRead s k =
      if (stkGet s k).patrol + 1 < 585728 then stkPut t k { stkGet t k with patrol := (stkGet s k).patrol + 1 }
      else memBump (stkPut t k { stkGet t k with patrol := 0 }) k (R.memScrubPasses k) 1 := by
    refine ⟨_, .trans ?_ (.foldl (fun p w => accessNoted_patrolPc w k p (stkGet s k).patrol) _ _), if_neg (by simp [hon, hst])⟩
    split_ifs
    · refine .foldl (fun p w => ?_) _ s
      split_ifs
      · exact .refl w
      · exact accessNoted_pcPut w rfl
    · exact .refl s
  obtain ⟨t, hnoted, heq⟩ := hpass
  rw [heq]
  split_ifs
  · exact ⟨hnoted.upkeep.trans (upkeepOnly_stkPut ..), congrArg Stack.patrol (stkGet_stkPut_same ..)⟩
  · refine ⟨hnoted.upkeep.trans ((upkeepOnly_stkPut ..).trans (upkeepOnly_memBump ..)), ?_⟩
    rw [stkGet_congr _ (hbm_memBump ..), stkGet_stkPut_same]

theorem hbmPatrolRead_completes {s : State} {k : Nat} (hk : k < 20) (hc : Calm s)
    (hon : bit (rd s (R.memCtrl k)) 2 = true) (hst : (stkGet s k).st = 2) :
    Completes (.hbmPatrolRead k) s (fun u => u.hbm.mem = s.hbm.mem ∧
      (stkGet u k).patrol = if (stkGet s k).patrol + 1 < 585728 then (stkGet s k).patrol + 1 else 0) := by
  obtain ⟨hup, hpatrol⟩ := hbmPatrolRead_units (s := quiet s) hon hst
  obtain ⟨u, hu, hf⟩ := act_serves (f := fun t => hbmPatrolRead t k) hc hk rfl hup.served
  exact ⟨u, hu, (congrArg Hbm.mem hf.hbm).trans hup.mem, (congrArg Stack.patrol (hf.stkGet k)).trans hpatrol⟩

/-! Fences (R242). -/

theorem rd_fenceSet_same (s : State) (k p : Nat) : rd (fenceSet s k p) (R.memFence k) = setBits (rd s (R.memFence k)) p 1 1 := rd_wr_same ..
theorem rd_fenceSet_other (s : State) (k p : Nat) {r : Reg} (h : r.addr ≠ (R.memFence k).addr) : rd (fenceSet s k p) r = rd s r :=
  rd_wr_other s h _

/-- A pseudo-channel fenced for a training failure or a pin fault: an error is logged and its bit of MEM_FENCE is set. -/
structure FenceRaised (s t : State) (k p : Nat) : Prop where
  noted : AccessNoted s t
  hbm : t.hbm = s.hbm
  fence : rd t (R.memFence k) = setBits (rd s (R.memFence k)) p 1 1
  regs : ∀ r : Reg, r.addr ∉ [R.memErrLog k, R.memErrCount k, R.memFence k].map Reg.addr → rd t r = rd s r

theorem hbmFence_raised (s : State) (k p : Nat) {kind : Nat} (h : kind = 0 ∨ kind = 2) : FenceRaised s (hbmFence s k p kind) k p := by
  have hraised : ∀ v, FenceRaised s (fenceSet (logErr s (R.memErrLog k) (R.memErrCount k) v) k p) k p := fun v => by
    refine ⟨(accessNoted_logErr ..).trans (accessNoted_fenceSet ..), logErr_hbm .., ?_, fun r hr => ?_⟩
    · rw [rd_fenceSet_same, rd_logErr_other _ (by simp [R.memFence, R.memErrLog]) (by simp [R.memFence, R.memErrCount])]
    · simp only [List.map_cons, List.map_nil, List.mem_cons, List.not_mem_nil, or_false, not_or] at hr
      rw [rd_fenceSet_other _ _ _ hr.2.2, rd_logErr_other _ hr.1 hr.2.1]
  rcases h with rfl | rfl <;> exact hraised _

/-- Stack `k` with its pseudo-channel `p` fenced and recorded if it is among the failed ones, the bits of `f` (R246 step 4). -/
def fenceFailed (k f : Nat) (s : State) (p : Nat) : State := if bit f p then hbmFence s k p 0 else s

theorem fenceFailed_units (k f : Nat) (s : State) (p : Nat) :
    AccessNoted s (fenceFailed k f s p) ∧ (fenceFailed k f s p).hbm = s.hbm ∧
      ∀ q, bit (rd (fenceFailed k f s p) (R.memFence k)) q = (bit (rd s (R.memFence k)) q || (decide (q = p) && bit f q)) := by
  unfold fenceFailed
  split_ifs with hp
  · obtain ⟨hnoted, hhbm, hfence, -⟩ := hbmFence_raised s k p (kind := 0) (.inl rfl)
    refine ⟨hnoted, hhbm, fun q => ?_⟩
    rw [hfence, bit_setBits_one, Bool.or_comm]
    by_cases hq : q = p
    · simp [hq, hp]
    · simp [hq]
  · refine ⟨.refl s, rfl, fun q => ?_⟩
    by_cases hq : q = p
    · simp [hq, hp]
    · simp [hq]

/-- The pseudo-channels of `l` that failed are fenced, and no other. -/
theorem foldl_fenceFailed_units (k f : Nat) (l : List Nat) (s : State) :
    AccessNoted s (l.foldl (fenceFailed k f) s) ∧ (l.foldl (fenceFailed k f) s).hbm = s.hbm ∧
      ∀ q, bit (rd (l.foldl (fenceFailed k f) s) (R.memFence k)) q = (bit (rd s (R.memFence k)) q || (decide (q ∈ l) && bit f q)) := by
  induction l generalizing s with
  | nil => exact ⟨.refl s, rfl, fun q => by simp⟩
  | cons p l ih =>
    obtain ⟨hnoted, hhbm, hfence⟩ := fenceFailed_units k f s p
    obtain ⟨hnoted', hhbm', hfence'⟩ := ih (fenceFailed k f s p)
    refine ⟨hnoted.trans hnoted', hhbm'.trans hhbm, fun q => ?_⟩
    rw [List.foldl_cons, hfence', hfence, Bool.or_assoc, ← Bool.and_or_distrib_right]
    simp

section
variable {s : State} {k : Nat} (hk : k < 20) (hc : Calm s)
include hk hc

theorem hbmFence_completes {p kind : Nat} (hp : p < 32) (hkind : kind = 0 ∨ kind = 2) :
    Completes (.hbmFence k p kind) s (fun u =>
      ChangesOnly s u upkeepFrame [R.memErrLog k, R.memErrCount k, R.memFence k] ∧
        rd u (R.memFence k) = setBits (rd s (R.memFence k)) p 1 1) := by
  obtain ⟨hnoted, -, hfence, hregs⟩ := hbmFence_raised (quiet s) k p hkind
  obtain ⟨u, hu, hf⟩ := actStk_serves (f := fun t => hbmFence t k p kind) hc (And.intro hk hp) rfl hnoted.served
  exact ⟨u, hu, hf.upkeepOnly hc hnoted.upkeep hregs, (hf.rd _ (memReg_noted hk (by decide))).trans hfence⟩

/-- As many granules with an uncorrectable word as MEM_CTRL names fence a pseudo-channel. -/
theorem hbmFence_granules_completes {p : Nat} (hp : p < 32) (hn : bits (rd s (R.memCtrl k)) 8 8 ≤ (pcGet s k p).ueGr.length) :
    Completes (.hbmFence k p 1) s (fun u =>
      ChangesOnly s u upkeepFrame [R.memFence k] ∧
        rd u (R.memFence k) = setBits (rd s (R.memFence k)) p 1 1) := by
  have hnoted := accessNoted_fenceSet (quiet s) k p
  obtain ⟨u, hu, hf⟩ := actStk_serves (f := fun t => hbmFence t k p 1) hc (And.intro hk hp) (if_pos hn) hnoted.served
  exact ⟨u, hu, hf.upkeepOnly hc hnoted.upkeep fun r hr => rd_fenceSet_other _ _ _ (List.ne_of_not_mem_cons hr),
    (hf.rd _ (memReg_noted hk (by decide))).trans (rd_fenceSet_same ..)⟩

end

/-! The end of the zero fill (R244). -/

theorem memWrBytes_inj {j k : Nat} (h : (R.memWrBytes j).addr = (R.memWrBytes k).addr) : j = k := by
  simp only [R.memWrBytes, blkBase] at h
  omega

/-- Stack `k` ends its zero fill, where it is filling; the bytes of its live pseudo-channels outside `shut` are counted. -/
def fillEnded (shut : List Nat) (s : State) (k : Nat) : State :=
  if (stkGet s k).st = 1 then
    memBump (stkPut s k { stkGet s k with st := 2 }) k (R.memWrBytes k)
      (1199570944 * ((liveList s.hbm.dead).filter (fun i => i % 20 = k && !shut.contains i)).length) 64
  else s

theorem hbmInitFillDone_eq (s : State) : hbmInitFillDone s = (List.range 20).foldl (fillEnded (fencedLive s)) s := by
  unfold hbmInitFillDone fillEnded
  with_reducible rfl

theorem fillEnded_units (shut : List Nat) (s : State) (k : Nat) :
    UpkeepOnly s (fillEnded shut s k) ∧ (stkGet (fillEnded shut s k) k).st = (if (stkGet s k).st = 1 then 2 else (stkGet s k).st) ∧
      (∀ j, j ≠ k → stkGet (fillEnded shut s k) j = stkGet s j) ∧
      ∀ r : Reg, r.addr ≠ (R.memWrBytes k).addr ∨ (stkGet s k).st ≠ 1 → rd (fillEnded shut s k) r = rd s r := by
  unfold fillEnded
  split_ifs with h
  · refine ⟨(upkeepOnly_stkPut ..).trans (upkeepOnly_memBump ..), ?_, fun j hj => ?_, fun r hr => ?_⟩
    · rw [stkGet_congr _ (hbm_memBump ..), stkGet_stkPut_same]
    · rw [stkGet_congr _ (hbm_memBump ..), stkGet_stkPut_other _ hj]
    · rw [rd_memBump_other _ _ (hr.resolve_right (not_not.2 h)), rd_stkPut]
  · exact ⟨.refl s, rfl, fun _ _ => rfl, fun _ _ => rfl⟩

theorem fillsEnded_units (shut : List Nat) (l : List Nat) (hl : l.Nodup) (s : State) :
    UpkeepOnly s (l.foldl (fillEnded shut) s) ∧
      (∀ j, (stkGet (l.foldl (fillEnded shut) s) j).st = if j ∈ l ∧ (stkGet s j).st = 1 then 2 else (stkGet s j).st) ∧
      ∀ r : Reg, (∀ j ∈ l, r.addr ≠ (R.memWrBytes j).addr ∨ (stkGet s j).st ≠ 1) → rd (l.foldl (fillEnded shut) s) r = rd s r := by
  induction l generalizing s with
  | nil => exact ⟨.refl s, fun j => by simp, fun _ _ => rfl⟩
  | cons k l ih =>
    obtain ⟨hkl, hl⟩ := List.nodup_cons.1 hl
    obtain ⟨hup, hst, hother, hrd⟩ := fillEnded_units shut s k
    obtain ⟨hup', hst', hrd'⟩ := ih hl (fillEnded shut s k)
    rw [List.foldl_cons]
    refine ⟨hup.trans hup', fun j => ?_, fun r hr => ?_⟩
    · rw [hst']
      by_cases hj : j = k
      · subst hj
        rw [if_neg (fun h => hkl h.1), hst]
        simp
      · rw [hother j hj]
        simp [hj]
    · rw [hrd' r fun j hj => ?_, hrd r (hr k (by simp))]
      rw [hother j fun h => hkl (h ▸ hj)]
      exact hr j (by simp [hj])

theorem hbmInitFillDone_completes {s : State} (hc : Calm s) :
    Completes .hbmInitFillDone s (fun u =>
      ChangesOnly s u upkeepFrame ((List.range 20).map R.memWrBytes) ∧
        ∀ j, j < 20 → (stkGet u j).st = (if (stkGet s j).st = 1 then 2 else (stkGet s j).st) ∧
          ((stkGet s j).st ≠ 1 → rd u (R.memWrBytes j) = rd s (R.memWrBytes j))) := by
  obtain ⟨hup, hst, hrd⟩ := fillsEnded_units (fencedLive (quiet s)) (List.range 20) List.nodup_range (quiet s)
  obtain ⟨u, hu, hf⟩ := lead_all (f := hbmInitFillDone) hc (hbmInitFillDone_eq _) (hup.served.calm hc.quiet)
  refine ⟨u, hu, hf.upkeepOnly hc hup fun r hr => hrd r fun j hj => .inl fun h => hr ?_, fun j hj => ⟨?_, fun hidle => ?_⟩⟩
  · rw [h]
    exact List.mem_map_of_mem (List.mem_map_of_mem hj)
  · rw [hf.stkGet, hst]
    exact if_congr (and_iff_right (List.mem_range.2 hj)) rfl rfl
  · rw [hf.rd _ (memReg_noted hj (by decide)), hrd _ fun i _ => ?_, rd_quiet]
    by_cases hij : i = j
    · rw [hij]
      exact .inr hidle
    · exact .inl fun h => hij (memWrBytes_inj h).symm

/-! Live retraining (R246). -/

theorem hbmRetrain_completes {s : State} {k : Nat} (hk : k < 20) (hc : Calm s) (hidle : procBusy s = false)
    (hfree : ∀ j, j < 20 → bit (rd s (R.memTrain j)) 1 = false) :
    Completes (.hbmRetrain k) s (fun u => ChangesOnly s u (fun s _ => s) [R.memTrain k, R.stkStatus] ∧ rd u (R.memTrain k) = 2) := by
  have hhold : retrainHold (quiet s) = false := by simpa [retrainHold] using hfree
  have heq : retrainStart (quiet s) k = procSet (wr (quiet s) (R.memTrain k) 2) 3 := by
    have hgo : hbmRetrain (quiet s) k = wr (quiet s) (R.memTrain k) 2 := if_neg (by simpa [Nat.not_le.2 hk] using hfree)
    rw [retrainStart, hgo]
    refine if_neg ?_
    rw [hhold, show procBusy (quiet s) = false from hidle]
    simpa using hk
  have hserved : MemoryServed (quiet s) (procSet (wr (quiet s) (R.memTrain k) 2) 3) := rfl
  obtain ⟨u, hu, hf⟩ := actStk_serves (f := fun t => retrainStart t k) hc hk heq hserved
  have hstatus : (R.memTrain k).addr ≠ R.stkStatus.addr := by
    simp [R.memTrain, R.stkStatus, blkBase]
    omega
  refine ⟨u, hu, hf.changesOnly hc hserved (fun r hr => ?_) ?_, ?_⟩
  · simp only [List.map_cons, List.map_nil, List.mem_cons, List.not_mem_nil, or_false, not_or] at hr
    exact (rd_wr_other _ hr.2 _).trans (rd_wr_other _ hr.1 _)
  · rw [hf.eq]
    rfl
  · rw [hf.rd _ (memReg_noted hk (by decide))]
    exact (rd_wr_other _ hstatus _).trans (rd_wr_same ..)

/-! Queues that empty before a retrain (R246 step 2). -/

theorem pcKey_inj {k p q : Nat} : pcKey k q = pcKey k p ↔ q = p := by simp [pcKey]

section
variable (s : State)

/-- A write that is made takes nothing out of a queue. -/
theorem wq_hbmApplyWr (w : HbmWr) (j q : Nat) : (pcGet (hbmApplyWr s w) j q).wq = (pcGet s j q).wq := by
  have hmerge := accessNoted_mergeReads s w (wordsPart w.pa w.data.length)
  unfold hbmApplyWr
  dsimp only
  split
  · exact (accessNoted_fenceAccess ..).wq j q
  · rw [pcGet_congr _ (hbm_memBump ..), ← hmerge.wq, pcGet, pcGet, hbApply_pcs]

theorem wq_hbmPop (k p j q : Nat) :
    (pcGet (hbmPop s k p) j q).wq = if pcKey j q = pcKey k p then (pcGet s k p).wq.tail else (pcGet s j q).wq := by
  cases h : (pcGet s k p).wq with
  | nil =>
    have hpop : hbmPop s k p = s := by simp only [hbmPop, h]
    rw [hpop]
    split_ifs with hk
    · rw [pcGet, hk]
      exact h
    · rfl
  | cons w r =>
    rw [hbmPop_eq h, wq_hbmApplyWr, writeTaken, pcGet_pcPut]
    split_ifs <;> rfl

theorem wq_hbmDrain (k p n q : Nat) : (pcGet (hbmDrain s k p n) k q).wq = if q = p then (pcGet s k p).wq.drop n else (pcGet s k q).wq := by
  induction n generalizing s with
  | zero =>
    split_ifs with h
    · rw [h]
      rfl
    · rfl
  | succ n ih =>
    rw [hbmDrain, ih]
    simp only [wq_hbmPop, pcKey_inj, if_true]
    split_ifs
    · rw [List.drop_tail]
    · rfl

/-- The write queues of a stack's pseudo-channels `l`, each drained. -/
def drained (k : Nat) (l : List Nat) (s : State) : State := l.foldl (fun s p => hbmDrain s k p (pcGet s k p).wq.length) s

theorem wq_drained (k : Nat) (l : List Nat) (q : Nat) : (pcGet (drained k l s) k q).wq = if q ∈ l then [] else (pcGet s k q).wq := by
  induction l generalizing s with
  | nil => rfl
  | cons p l ih =>
    rw [drained, List.foldl_cons]
    refine (ih _).trans ?_
    rw [wq_hbmDrain]
    by_cases hq : q = p
    · simp [hq]
    · simp [hq]

theorem memoryServed_drained (k : Nat) (l : List Nat) : MemoryServed s (drained k l s) := .foldl (fun _ w => memoryServed_hbmDrain w _ _ _) _ s

/-- A rewritten correction takes no write out of a queue. -/
theorem wq_hbmCorrectionRewrite (k j q : Nat) : (pcGet (hbmCorrectionRewrite s k) j q).wq = (pcGet s j q).wq := by
  cases hcorr : (stkGet s k).corr with
  | nil => simp only [hbmCorrectionRewrite, hcorr]
  | cons w r =>
    cases hfence : fenced s k (hbmLoc s.hbm.dead (8 * w)).p with
    | true =>
      rw [hbmCorrectionRewrite_fenced hcorr hfence, (accessNoted_fenceAccess ..).wq, pcGet_stkPut]
    | false =>
      obtain ⟨t, heq, -, hhbm, -⟩ := hbmCorrectionRewrite_open hcorr hfence
      rw [heq, pcGet_congr _ ((hbm_memBump ..).trans hhbm), pcGet_stkPut]

theorem wq_correctionsRewritten (k : Nat) (l : List Nat) (j q : Nat) :
    (pcGet (l.foldl (fun w _ => hbmCorrectionRewrite w k) s) j q).wq = (pcGet s j q).wq := by
  induction l generalizing s with
  | nil => rfl
  | cons _ l ih => exact (ih _).trans (wq_hbmCorrectionRewrite ..)

end

section
variable {s : State} {k : Nat} (hk : k < 20) (hc : Calm s)
include hk hc

/-- A stack whose queues may be completed completes them, and is then in self-refresh. -/
theorem hbmRetrainSelfRefresh_completes (hbusy : bit (rd s (R.memTrain k)) 1 = true) (hserves : stkServes s k = true)
    (htasks : ∀ e ∈ s.hearths, e.2.cur = none ∧ e.2.drain = none) (hreads : ∀ p, p < 32 → (pcGet s k p).rq = []) :
    Completes (.hbmRetrainSelfRefresh k) s (fun u => (stkGet u k).st = 3 ∧ ∀ p, p < 32 → (pcGet u k p).wq = []) := by
  set t := drained k (List.range 32) (quiet s) with ht
  set v := (stkGet t k).corr.foldl (fun w _ => hbmCorrectionRewrite w k) t with hv
  have heq : hbmRetrainSelfRefresh (quiet s) k = stkPut v k { stkGet v k with st := 3 } := by
    have hany : s.hearths.any (fun e => e.2.cur.isSome || e.2.drain.isSome) = false := by
      simpa using fun h x hx => htasks (h, x) hx
    have hwaits : (List.range 32).any (fun p => !(pcGet (quiet s) k p).rq.isEmpty) = false := by
      simpa [pcGet] using hreads
    refine if_neg ?_
    rw [rd_quiet, hbusy, show stkServes (quiet s) k = true from hserves, show (quiet s).hearths = s.hearths from rfl, hany, hwaits]
    decide
  have hserved : MemoryServed (quiet s) v :=
    (memoryServed_drained (quiet s) k _).trans (.foldl (fun _ w => memoryServed_hbmCorrectionRewrite w k) _ t)
  obtain ⟨u, hu, hf⟩ := act_serves (f := fun t => hbmRetrainSelfRefresh t k) hc hk heq (hserved.trans (memoryServed_stkPut ..))
  refine ⟨u, hu, ?_, fun p hp => ?_⟩
  · rw [hf.stkGet, stkGet_stkPut_same]
  · rw [hf.pcGet, pcGet_stkPut, hv, wq_correctionsRewritten, ht, wq_drained, if_pos (List.mem_range.2 hp)]

end

/-- The RESULT of a retrain in which the pseudo-channels `f` failed: 1 when all pass, 3 when all fail, else 2 (R246). -/
def retrainResult (f : BitVec 32) : Nat := if f = 0 then 1 else if f = 4294967295#32 then 3 else 2

/-- MEM_TRAIN as a retrain leaves it: BUSY reads 0, and RESULT and the failed pseudo-channels stand in it. -/
theorem memTrain_ended (f : BitVec 32) : fieldAt 2 2 (retrainResult f) + fieldAt 32 32 f.toNat = 4 * retrainResult f + 2 ^ 32 * f.toNat := by
  have hres : retrainResult f < 2 ^ 2 := by
    unfold retrainResult
    split_ifs <;> decide
  rw [fieldAt, fieldAt, Nat.mod_eq_of_lt hres, Nat.mod_eq_of_lt f.isLt, Nat.shiftLeft_eq, Nat.shiftLeft_eq]
  omega

/-- From `s` to `t` a retrain of stack `k` has ended: the failed pseudo-channels are fenced, and MEM_TRAIN and the stack hold the result. -/
structure RetrainEnded (s t : State) (k : Nat) (f : BitVec 32) : Prop where
  served : MemoryServed s t
  mem : t.hbm.mem = s.hbm.mem
  st : (stkGet t k).st = if retrainResult f = 3 then 5 else 2
  train : rd t (R.memTrain k) = 4 * retrainResult f + 2 ^ 32 * f.toNat
  fence : ∀ p, p < 32 → bit (rd t (R.memFence k)) p = (bit (rd s (R.memFence k)) p || bit f.toNat p)

section
variable {s : State} {k : Nat} {f : BitVec 32}

theorem hbmRetrainDone_ended (hbusy : bit (rd s (R.memTrain k)) 1 = true) (hst : (stkGet s k).st = 3 ∨ (stkGet s k).st = 4) :
    RetrainEnded s (hbmRetrainDone s k f) k f := by
  obtain ⟨hnoted, -, hfence⟩ := foldl_fenceFailed_units k f.toNat (List.range 32) s
  set t := (List.range 32).foldl (fenceFailed k f.toNat) s
  have heq : hbmRetrainDone s k f = stkPut (wr t (R.memTrain k) (4 * retrainResult f + 2 ^ 32 * f.toNat)) k
      { stkGet t k with st := if retrainResult f = 3 then 5 else 2 } := by
    have hres : (if f.toNat = 0 then 1 else if f.toNat = 4294967295 then 3 else 2) = retrainResult f := by
      simp [retrainResult, ← BitVec.toNat_inj]
    rw [← memTrain_ended, ← hres]
    refine if_neg ?_
    rw [hbusy]
    rcases hst with h | h <;> simp [h]
  rw [heq]
  refine ⟨hnoted.served.trans ((upkeepOnly_wr ..).served.trans (memoryServed_stkPut ..)), ?_, ?_, ?_, fun p hp => ?_⟩
  · exact hnoted.mem
  · rw [stkGet_stkPut_same]
  · rw [rd_stkPut, rd_wr_same]
  · rw [rd_stkPut, rd_wr_other _ (by simp [R.memFence, R.memTrain]), hfence]
    simp [hp]

/-- STK_STATUS may show that no procedure runs any more. -/
theorem retrainDone_ended (hk : k < 20) (h : RetrainEnded s (hbmRetrainDone s k f) k f) : RetrainEnded s (retrainDone s k f) k f := by
  obtain ⟨hserved, hmem, hst, htrain, hfence⟩ := h
  have hstatus : (R.memTrain k).addr ≠ R.stkStatus.addr ∧ (R.memFence k).addr ≠ R.stkStatus.addr := by
    simp [R.memTrain, R.memFence, R.stkStatus, blkBase]
    omega
  unfold retrainDone
  dsimp only
  split
  · exact ⟨hserved.trans (memoryServed_wrf ..), hmem, hst, (rd_wr_other _ hstatus.1 _).trans htrain,
      fun p hp => (congrArg (bit · p) (rd_wr_other _ hstatus.2 _)).trans (hfence p hp)⟩
  · exact ⟨hserved, hmem, hst, htrain, hfence⟩

end

theorem hbmRetrainDone_completes {s : State} {k : Nat} (hk : k < 20) (hc : Calm s) (f : BitVec 32)
    (hbusy : bit (rd s (R.memTrain k)) 1 = true) (hst : (stkGet s k).st = 3 ∨ (stkGet s k).st = 4) :
    Completes (.hbmRetrainDone k f) s (fun u => (stkGet u k).st = (if retrainResult f = 3 then 5 else 2) ∧
      rd u (R.memTrain k) = 4 * retrainResult f + 2 ^ 32 * f.toNat ∧
      (∀ p, p < 32 → bit (rd u (R.memFence k)) p = (bit (rd s (R.memFence k)) p || bit f.toNat p)) ∧ u.hbm.mem = s.hbm.mem) := by
  obtain ⟨hserved, hmem, hend, htrain, hfence⟩ :=
    retrainDone_ended hk (hbmRetrainDone_ended (s := quiet s) (k := k) (f := f) hbusy hst)
  obtain ⟨u, hu, hf⟩ := act_serves (f := fun t => retrainDone t k f) hc hk rfl hserved
  refine ⟨u, hu, (congrArg Stack.st (hf.stkGet k)).trans hend, (hf.rd _ (memReg_noted hk (by decide))).trans htrain, fun p hp => ?_, ?_⟩
  · rw [hf.rd _ (memReg_noted hk (by decide))]
    exact hfence p hp
  · rw [hf.hbm]
    exact hmem

/-- Settles O24: each command is upkeep (`UpkeepOnly`), which changes controllers and stacks but no byte, or serves what waits before a retrain;
the registers, fences and queues it leaves are those of the lemma of its name. -/
theorem hbmUpkeep : Obligations.HbmUpkeep := by
  unfold Obligations.HbmUpkeep
  refine ⟨fun s k hk hc => ⟨fun w q hcorr => ⟨?_, ?_⟩, fun p b hp hb => ?_, fun hon hst => ?_, fun p kind hp hkind => ?_,
    fun p hp hn => ?_, ?_⟩,
    fun s k hk hc => ⟨fun hidle hfree => ?_, fun hbusy hserves htasks hreads => ?_, fun f hbusy hst => ?_⟩⟩
  · exact hbmCorrectionRewrite_rewrites hk hc hcorr
  · exact hbmCorrectionRewrite_discards hk hc hcorr
  · exact hbmRefresh_completes hk hc hp hb
  · exact hbmPatrolRead_completes hk hc hon hst
  · exact hbmFence_completes hk hc hp hkind
  · exact hbmFence_granules_completes hk hc hp hn
  · exact hbmInitFillDone_completes hc
  · exact hbmRetrain_completes hk hc hidle hfree
  · exact hbmRetrainSelfRefresh_completes hk hc hbusy hserves htasks hreads
  · exact hbmRetrainDone_completes hk hc f hbusy hst

end Sys2Proof.Machine

/-!
SUPPORT and proofs for translation and KV paging of chapter 09: the operation rings (O25), and walks, shootdowns and copies on write (O26).
-/

namespace Sys2Proof.Machine

/-! Lists by position. -/

theorem lfind_eq {α : Type} (l : List α) (f : α → Bool) : lfind l f = l.findIdx? f := by
  induction l with
  | nil => rfl
  | cons x l ih => rw [lfind, ih, List.findIdx?_cons]

/-- What `lfind` finds is an element with the property, and no earlier element has it. -/
theorem lfind_eq_some {α : Type} {l : List α} {f : α → Bool} {i : Nat} (h : lfind l f = some i) :
    (∃ x, lget l i = some x ∧ f x = true) ∧ ∀ j < i, ∃ x, lget l j = some x ∧ f x = false := by
  rw [lfind_eq, List.findIdx?_eq_some_iff_getElem] at h
  obtain ⟨hi, hfound, hbefore⟩ := h
  refine ⟨⟨l[i], by rw [lget_eq, List.getElem?_eq_getElem hi], hfound⟩, fun j hj => ⟨l[j], ?_, by simpa using hbefore j hj⟩⟩
  rw [lget_eq, List.getElem?_eq_getElem]

theorem lget_lt {α : Type} {l : List α} {i : Nat} {x : α} (h : lget l i = some x) : i < l.length := by
  rw [lget_eq] at h
  exact (List.getElem?_eq_some_iff.1 h).1

theorem ldel_ne {α : Type} {l : List α} {i : Nat} (h : i < l.length) : ldel l i ≠ l := by
  intro heq
  have hlen := congrArg List.length heq
  rw [ldel_eq, List.length_eraseIdx_of_lt h] at hlen
  omega

/-! The translation unit of a partition and its two rings (R260, R262). -/

section
variable (s : State) (p : Nat)

@[simp] theorem xlGet_xlPut_same (x : Xlt) : xlGet (xlPut s p x) p = x := tgetD_tput_same _ _ _ _
@[simp] theorem xlGet_xlMod_same (f : Xlt → Xlt) : xlGet (xlMod s p f) p = f (xlGet s p) := xlGet_xlPut_same _ _ _
@[simp] theorem xlGet_quiet : xlGet (quiet s) p = xlGet s p := rfl
@[simp] theorem rd_xlMod (f : Xlt → Xlt) (r : Reg) : rd (xlMod s p f) r = rd s r := rfl

@[simp] theorem xlGet_xltBump (q : Nat) (r : Reg) (n : Nat) : xlGet (xltBump s q r n) p = xlGet s p := by
  simp [xlGet, xltBump]

end

section
variable (x : Xlt) {g : Nat} (r : RingRun)

@[simp] theorem ringGet_ringSet_same (g : Nat) : ringGet (ringSet x g r) g = r := by
  unfold ringGet ringSet
  split <;> rfl

theorem ringGet_ringSet_other (hg : g < 2) : ringGet (ringSet x g r) (1 - g) = ringGet x (1 - g) := by
  obtain rfl | rfl : g = 0 ∨ g = 1 := by omega
  · rfl
  · rfl

@[simp] theorem ringSet_bPages (g : Nat) : (ringSet x g r).bPages = x.bPages := by
  unfold ringSet
  split <;> rfl

@[simp] theorem ringSet_bFrames (g : Nat) : (ringSet x g r).bFrames = x.bFrames := by
  unfold ringSet
  split <;> rfl

end

theorem Calm.xlMod {s : State} (hc : Calm s) (p : Nat) (f : Xlt → Xlt) : Calm (Machine.xlMod s p f) := hc.of rfl rfl rfl rfl rfl rfl rfl
theorem Calm.wr {s : State} (hc : Calm s) (r : Reg) (v : Nat) : Calm (Machine.wr s r v) := hc.of rfl rfl rfl rfl rfl rfl rfl
theorem Calm.xltBump {s : State} (hc : Calm s) (p : Nat) (r : Reg) (n : Nat) : Calm (Machine.xltBump s p r n) :=
  (memoryServed_bump s _ r n 48).calm hc

theorem Follows.xlGet {q : List Instr} {v u : State} (hf : Follows q v u) (p : Nat) : Machine.xlGet u p = Machine.xlGet v p := by
  rw [hf.eq]
  rfl

/-- The registers of translation lie above those of the note of R448. -/
theorem xltReg_noted {p a : Nat} (h : blkBase .xlt p ≤ a) : a ∉ noteRegs := by
  simp [noteRegs, R.prtErrLog, R.prtErrCount, blkBase] at h ⊢
  omega

theorem xltOpqTailG_noted (p g : Nat) : (R.xltOpqTailG p g).addr ∉ noteRegs :=
  xltReg_noted (p := p) ((Nat.le_add_right _ _).trans (Nat.le_add_right _ _))

theorem xltOpqHeadG_noted (p g : Nat) : (R.xltOpqHeadG p g).addr ∉ noteRegs :=
  xltReg_noted (p := p) ((Nat.le_add_right _ _).trans (Nat.le_add_right _ _))

/-! The end of an operation (R265, R268). -/

section
variable {s : State} {p g i : Nat}

theorem opEnd_ok : opEnd s p g 1 i =
    wr (xlMod (recordStatus s p g 1 i) p (fun x => ringSet x g .idle)) (R.xltOpqHeadG p g) ((rd s (R.xltOpqHeadG p g) + 1) % 2 ^ 32) := rfl

theorem opEnd_failed {st : Nat} (h : st ≠ 1) : opEnd s p g st i =
    ringHalt (xltErr (recordStatus s p g st i) p 6 g 0 0 ((rcVa (ringGet (xlGet s p) g).cmd / 65536 + i) % 2 ^ 32)) p g 1 := if_neg h

/-- Neither the batch nor the operation of ring `g` has pages or frames to shoot down. -/
structure NothingToShoot (s : State) (p g : Nat) : Prop where
  bPages : (xlGet s p).bPages = []
  bFrames : (xlGet s p).bFrames = []
  pages : (ringGet (xlGet s p) g).pages = []
  frames : (ringGet (xlGet s p) g).frames = []

theorem opFinish_noShootdown (h : NothingToShoot s p g) {st : Nat} {batch : Bool} (hb : st ≠ 1 ∨ batch = false) :
    opFinish s p g st i batch = opEnd s p g st i := by
  obtain ⟨hbPages, hbFrames, hpages, hframes⟩ := h
  have hnoBatch : (decide (st = 1) && batch) = false := by
    rcases hb with hst | hbatch
    · simp [hst]
    · simp [hbatch]
  simp [opFinish, hbPages, hbFrames, hpages, hframes, hnoBatch]

/-- A batch with room goes on (R268). -/
theorem batchClose_room (h : ((xlGet s p).bFrames ++ (ringGet (xlGet s p) g).frames).length < 4096) : batchClose s p g = s := if_pos h

end

/-! One page of an operation (R264, R265). -/

/-- A ring goes on to the page after `i`, and what page `i` adds joins the shootdown of its operation. -/
def pageTaken (s : State) (p g i : Nat) (pages frames : List Nat) : State :=
  xlMod s p (fun x =>
    let q := ringGet x g
    ringSet x g { q with page := some (i + 1), pages := q.pages ++ pages, frames := q.frames ++ frames })

section
variable {s w s2 : State} {p g rc i : Nat}

theorem pageTaken_nil :
    pageTaken s p g i [] [] = xlMod s p (fun x => ringSet x g { ringGet x g with page := some (i + 1) }) := by simp [pageTaken]

theorem NothingToShoot.pageTaken (h : NothingToShoot s p g) : NothingToShoot (Machine.pageTaken s p g i [] []) p g := by
  obtain ⟨hbPages, hbFrames, hpages, hframes⟩ := h
  refine ⟨?_, ?_, ?_, ?_⟩
  · simpa [Machine.pageTaken] using hbPages
  · simpa [Machine.pageTaken] using hbFrames
  · simpa [Machine.pageTaken] using hpages
  · simpa [Machine.pageTaken] using hframes

section
variable (hcmd : (ringGet (xlGet w p) g).cmd = rc)
include hcmd

/-- A page of an operation that has pages left, whose batch keeps room. -/
theorem ringPage_goesOn {pages frames : List Nat} (hpage : opPage w p g rc i = .ok s2 pages frames) (hop : rcOp rc ≠ 7) (hleft : i + 1 < rcPages rc)
    (hroom : rcBatch rc = true → ((xlGet s2 p).bFrames ++ (ringGet (xlGet s2 p) g).frames ++ frames).length < 4096) :
    ringPage w p g i = pageTaken s2 p g i pages frames := by
  have hstep : ringPage w p g i =
      if rcBatch rc then batchClose (pageTaken s2 p g i pages frames) p g else pageTaken s2 p g i pages frames := by
    simp only [ringPage, hcmd, hpage, Bool.or_eq_true, decide_eq_true_eq, hop, or_false, Nat.not_le.2 hleft, if_false]
    rfl
  rw [hstep]
  split_ifs with hbatch
  · refine batchClose_room ?_
    simpa [pageTaken, List.append_assoc, Nat.add_assoc] using hroom hbatch
  · rfl

/-- The last page of an operation without BATCH that leaves nothing to shoot down. -/
theorem ringPage_last (hpage : opPage w p g rc i = .ok s2 [] []) (hlast : i + 1 = rcPages rc) (hbatch : rcBatch rc = false)
    (hnone : NothingToShoot s2 p g) : ringPage w p g i = opEnd (pageTaken s2 p g i [] []) p g 1 (i + 1) := by
  rw [← opFinish_noShootdown hnone.pageTaken (.inr hbatch)]
  simp only [ringPage, hcmd, hpage, ← hlast, le_refl, decide_true, Bool.true_or, if_true]
  rfl

/-- A page that fails with nothing to shoot down. -/
theorem ringPage_fails {st : Nat} (hpage : opPage w p g rc i = .fail s2 st) (hst : st ≠ 1) (hnone : NothingToShoot s2 p g) :
    ringPage w p g i = opEnd s2 p g st i := by
  rw [← opFinish_noShootdown hnone (.inl hst) (batch := rcBatch rc)]
  simp only [ringPage, hcmd, hpage]

end

section
variable (hg : g < 2) (hformed : prtFormed s p = true) (hready : opqReady s p g = true) (hfree : unitBusy (xlGet s p) g = false)
include hg hformed hready hfree

/-- The operation has begun: its command does its next page. -/
theorem ringOp_begun (hpage : (ringGet (xlGet s p) g).page = some i) :
    ringOp s p g (rcOp (ringGet (xlGet s p) g).cmd) = ringPage s p g i := by
  simp [ringOp, Nat.not_le.2 hg, hformed, hready, hfree, hpage]

/-- The ring's turn has come: the record at its head is read, and its command does the first page that is to be done. -/
theorem ringOp_reads {bs : List Byte} (hpage : (ringGet (xlGet s p) g).page = none)
    (hturn : (xlGet s p).last ≠ g ∨ opqReady s p (1 - g) = false) (hread : recordRead s p g = (some bs, w)) (hgood : rcBad (leVal bs) = false) :
    ringOp s p g (rcOp (leVal bs)) =
      ringPage (xlMod w p (fun x => ringSet { x with last := g } g { ringGet x g with cmd := leVal bs, again := false })) p g
        (if (ringGet (xlGet s p) g).again then rcDone (leVal bs) else 0) := by
  have hown : ¬ ((xlGet s p).last = g ∧ opqReady s p (1 - g) = true) := by
    rintro ⟨hlast, hother⟩
    simp [hlast, hother] at hturn
  simp [ringOp, Nat.not_le.2 hg, hformed, hready, hfree, hpage, hown, hread, hgood]

end

/-- At a ring's head the update unit does page `i` of the record `rc`, by the command of its opcode. -/
theorem ringOp_head {op : Nat} (h : RingHead s p g rc i w) (hop : rcOp rc = op) :
    ringOp (quiet s) p g op = ringPage w p g i ∧ (ringGet (xlGet w p) g).cmd = rc := by
  obtain ⟨-, hg, hformed, hready, hfree, hturn⟩ := h
  subst hop
  rcases hturn with ⟨hpage, rfl, rfl⟩ | ⟨hpage, hlast, hgood, rfl, bs, w1, hread, rfl, rfl⟩
  · exact ⟨ringOp_begun (s := quiet s) hg hformed hready hfree hpage, rfl⟩
  · exact ⟨ringOp_reads (s := quiet s) hg hformed hready hfree hpage hlast hread hgood, by simp⟩

end

/-- The commands that do a page of an operation, each with its opcode (R263). -/
def ringCommands (p g : Nat) : List (Instr × Nat) :=
  [(.map p g, 1), (.unmap p g, 2), (.share p g, 3), (.protect p g, 4), (.unshare p g, 5), (.rekey p g, 6), (.rekeyMeta p g, 7)]

section
variable {s w s2 v : State} {p g rc i op : Nat} {c : Instr} (hc : Calm s) (hcmd : (c, op) ∈ ringCommands p g)
include hc hcmd

theorem ringCommand_leads (hp : p < 16) (hg : g < 2) (e : ringOp (quiet s) p g op = v) (hv : Calm v) : Leads c s v := by
  simp only [ringCommands, List.mem_cons, Prod.mk.injEq, List.not_mem_nil, or_false] at hcmd
  rcases hcmd with ⟨rfl, rfl⟩ | ⟨rfl, rfl⟩ | ⟨rfl, rfl⟩ | ⟨rfl, rfl⟩ | ⟨rfl, rfl⟩ | ⟨rfl, rfl⟩ | ⟨rfl, rfl⟩
  all_goals exact lead_act (f := fun t => ringOp t p g _) hc (And.intro hp hg) e hv

variable (hhead : RingHead s p g rc i w) (hop : rcOp rc = op)
include hhead hop

/-- A command of the page's opcode leads to what the page leads to. -/
theorem ringCommand_page (e : ringPage w p g i = v) (hv : Calm v) : Leads c s v :=
  ringCommand_leads hc hcmd hhead.part hhead.ring ((ringOp_head hhead hop).1.trans e) hv

theorem ringCommand_goesOn {pages frames : List Nat} (hmeta : op ≠ 7) (hleft : i + 1 < rcPages rc) (hpage : opPage w p g rc i = .ok s2 pages frames)
    (hc2 : Calm s2) (hroom : rcBatch rc = true → ((xlGet s2 p).bFrames ++ (ringGet (xlGet s2 p) g).frames ++ frames).length < 4096) :
    Leads c s (pageTaken s2 p g i pages frames) :=
  ringCommand_page hc hcmd hhead hop (ringPage_goesOn (ringOp_head hhead hop).2 hpage (hop ▸ hmeta) hleft hroom) (hc2.xlMod p _)

theorem ringCommand_last (hnone : NothingToShoot s2 p g) (hpage : opPage w p g rc i = .ok s2 [] []) (hlast : i + 1 = rcPages rc)
    (hbatch : rcBatch rc = false) {s3 : State}
    (hs3 : s3 = recordStatus (xlMod s2 p (fun x => ringSet x g { ringGet x g with page := some (i + 1) })) p g 1 (i + 1)) (hc3 : Calm s3) :
    Leads c s (wr (xlMod s3 p (fun x => ringSet x g .idle)) (R.xltOpqHeadG p g) ((rd s2 (R.xltOpqHeadG p g) + 1) % 2 ^ 32)) := by
  refine ringCommand_page hc hcmd hhead hop ?_ ((hc3.xlMod p _).wr _ _)
  rw [ringPage_last (ringOp_head hhead hop).2 hpage hlast hbatch hnone, opEnd_ok, pageTaken_nil, ← hs3, rd_xlMod]

theorem ringCommand_fails (hnone : NothingToShoot s2 p g) {st : Nat} (hpage : opPage w p g rc i = .fail s2 st) (hst : st ≠ 1)
    (hrc : (ringGet (xlGet s2 p) g).cmd = rc) {s3 : State}
    (hs3 : s3 = ringHalt (xltErr (recordStatus s2 p g st i) p 6 g 0 0 ((rcVa rc / 65536 + i) % 2 ^ 32)) p g 1) (hc3 : Calm s3) : Leads c s s3 := by
  refine ringCommand_page hc hcmd hhead hop ?_ hc3
  rw [ringPage_fails (ringOp_head hhead hop).2 hpage hst hnone, opEnd_failed hst, hrc, hs3]

end

/-! TAIL, RESUME and the release ring (R262, R265, R266). -/

/-- On a calm device no sweep waits for the REKEY of a ring, so that a skip is no news to one (R470). -/
theorem sweepSkip_calm {s : State} (hc : Calm s) (p g : Nat) : sweepSkip s p g = s := by
  unfold sweepSkip
  split
  next x hx =>
    have hsweep : x.sweep = 0 ∨ x.sweep = 2 := by simpa [partGet, tgetD, hx] using (hc.parts p).2
    refine if_neg ?_
    rcases hsweep with h | h
    · simp [h]
    · simp [h]
  next => rfl

section
variable {s : State} {p g : Nat} (hp : p < 16) (hg : g < 2) (hc : Calm s)
include hp hg hc

theorem opqTailWrite_fits {tail : Nat} (h : (tail % 2 ^ 32 + 2 ^ 32 - rd s (R.xltOpqHeadG p g)) % 2 ^ 32 ≤ opqSize s p g) :
    Leads (.xltOpqTailWrite p g tail) s (wr (quiet s) (R.xltOpqTailG p g) (tail % 2 ^ 32)) :=
  lead_stk (f := fun t => opqTailWrite t p g tail) hc (And.intro hp hg) (if_neg (Nat.not_lt.2 h)) (hc.quiet.wr _ _)

theorem opqTailWrite_overflows {tail : Nat} (h : opqSize s p g < (tail % 2 ^ 32 + 2 ^ 32 - rd s (R.xltOpqHeadG p g)) % 2 ^ 32) :
    Completes (.xltOpqTailWrite p g tail) s (fun u => RegsOnly s u [R.xltErrLog p, R.xltErrCount p] ∧
      rd u (R.xltOpqTailG p g) = rd s (R.xltOpqTailG p g)) := by
  obtain ⟨u, hu, honly, -⟩ := actStk_logErr (f := fun t => opqTailWrite t p g tail) hc (And.intro hp hg) (if_pos h)
  refine ⟨u, hu, honly, honly.regs _ ?_ (xltOpqTailG_noted p g)⟩
  simp [R.xltOpqTailG, R.xltErrLog, R.xltErrCount]
  omega

theorem xltResume_skips (h : (ringGet (xlGet s p) g).halt = 1) :
    Completes (.xltResume p g) s (fun u => ringGet (xlGet u p) g = .idle ∧
      ringGet (xlGet u p) (1 - g) = ringGet (xlGet s p) (1 - g) ∧ SameRegs s u [R.xltOpqHeadG p g] ∧
      rd u (R.xltOpqHeadG p g) = (rd s (R.xltOpqHeadG p g) + 1) % 2 ^ 32) := by
  set x := ringSet (xlGet s p) g .idle
  have heq : xltResume (quiet s) p g = wr (xlPut (quiet s) p x) (R.xltOpqHeadG p g) ((rd s (R.xltOpqHeadG p g) + 1) % 2 ^ 32) := by
    simp only [xltResume, xlGet_quiet, h, sweepSkip_calm hc.quiet]
    rfl
  obtain ⟨u, hu, hf⟩ := lead_stk (f := fun t => xltResume t p g) hc (And.intro hp hg) heq ((hc.quiet.xlMod p fun _ => x).wr _ _)
  have hx : xlGet u p = x := (hf.xlGet p).trans (xlGet_xlPut_same _ _ _)
  refine ⟨u, hu, ?_, ?_, ⟨fun r hr hn => ?_, hf.parts⟩, ?_⟩
  · rw [hx, ringGet_ringSet_same]
  · rw [hx, ringGet_ringSet_other _ _ hg]
  · exact (hf.rd r hn).trans (rd_wr_other _ (List.ne_of_not_mem_cons hr) _)
  · exact (hf.rd _ (xltOpqHeadG_noted p g)).trans (rd_wr_same ..)

theorem xltResume_interrupted (h : (ringGet (xlGet s p) g).halt = 3) :
    Leads (.xltResume p g) s (xlMod (quiet s) p (fun x => ringSet x g { RingRun.idle with again := true })) := by
  refine lead_stk (f := fun t => xltResume t p g) hc (And.intro hp hg) ?_ (hc.quiet.xlMod p _)
  simp only [xltResume, xlGet_quiet, h]

theorem xltResume_ringFault (h : (ringGet (xlGet s p) g).halt = 2) :
    Leads (.xltResume p g) s (xlMod (quiet s) p (fun x => ringSet x g { ringGet x g with halt := 0 })) := by
  refine lead_stk (f := fun t => xltResume t p g) hc (And.intro hp hg) ?_ (hc.quiet.xlMod p _)
  simp only [xltResume, xlGet_quiet, h]

end

theorem releaseRingHeadWrite_leads {s : State} {p : Nat} (hp : p < 16) (hc : Calm s) (head : Nat) (h : (xlGet s p).pend = []) :
    Leads (.releaseRingHeadWrite p head) s (wr (quiet s) (R.xltRelHead p) (head % 2 ^ 32)) := by
  refine lead_stk (f := fun t => releaseRingHeadWrite t p head) hc hp ?_ (hc.quiet.wr _ _)
  have hpend : (xlGet (wr (quiet s) (R.xltRelHead p) (head % 2 ^ 32)) p).pend = [] := h
  rw [releaseRingHeadWrite, hpend]
  rfl

/-- Settles O25: at a ring's head the command does one page (`ringOp_head`, log 21), after which the ring goes on (`ringPage_goesOn`) or its
operation ends with nothing to shoot down (`ringPage_last`, `ringPage_fails`); the registers and RESUME are the lemmas of their names. -/
theorem ringOperations : Obligations.RingOperations := by
  unfold Obligations.RingOperations
  refine ⟨⟨?more, ?ends⟩, fun s p g hp hg hc => ⟨fun tail => opqTailWrite_fits hp hg hc, fun tail => opqTailWrite_overflows hp hg hc,
    xltResume_skips hp hg hc, xltResume_ringFault hp hg hc, xltResume_interrupted hp hg hc, releaseRingHeadWrite_leads hp hc⟩⟩
  case more =>
    intro s w s2 p g rc i op pages frames c hc hhead hcmd hop hleft hpage hc2 hroom
    have hmeta : op ≠ 7 := by
      rintro rfl
      simp at hcmd
    exact ringCommand_goesOn hc (List.mem_append_left [(.rekeyMeta p g, 7)] hcmd) hhead hop hmeta hleft hpage hc2 hroom
  case ends =>
    intro s w s2 p g rc i op c hc hhead hcmd hop hbPages hbFrames hpages hframes
    have hnone : NothingToShoot s2 p g := ⟨hbPages, hbFrames, hpages, hframes⟩
    exact ⟨fun hpage hlast hbatch hc3 => ringCommand_last hc hcmd hhead hop hnone hpage hlast hbatch rfl hc3,
      fun st hpage hst hrc hc3 => ringCommand_fails hc hcmd hhead hop hnone hpage hst hrc rfl hc3⟩

/-! A walk that finds its leaf (R255, R256, R258). -/

/-- The walk `q` leaves its hearth, and its walker keeps the walks `l`. -/
def walkLeft (s : State) (d : Nat) (l : List WalkReq) (q : WalkReq) : State :=
  { hmod s q.h (fun x => { x with walks := x.walks.filter (· ≠ q.w) }) with walks := tput s.walks d l }

theorem hget_walkLeft (s : State) (d : Nat) (l : List WalkReq) (q : WalkReq) :
    hget (walkLeft s d l q) q.h = { hget s q.h with walks := (hget s q.h).walks.filter (· ≠ q.w) } := tgetD_tput_same ..

section
variable {s w : State} {d i e a b : Nat} {q : WalkReq}

theorem walkComplete_fills (hi : i < 64) (hq : lget (tgetD s.walks d []) i = some q) (hwalk : walk s d q.part q.w.vpn true = (.leaf e a b, w))
    (hheld : frameHeld s q.part (leFrame e) = false) (hwrite : q.w.wr = true → leW e = true ∨ leCow e = true) :
    walkComplete s d i = walkLeft (hmod w q.h (fun x => tlbFill x (tlbMake q.w.vpn q.part e))) d (ldel (tgetD s.walks d []) i) q := by
  have hallowed : (q.w.wr && !leW e && !leCow e) = false := by
    cases hwr : q.w.wr with
    | false => rfl
    | true =>
      rcases hwrite hwr with h | h
      · simp [h]
      · simp [h]
  simp only [walkComplete, hq, hwalk, hheld, hallowed, Nat.not_le.2 hi, if_false, Bool.false_eq_true]
  rfl

theorem walkComplete_completes (hd : d < 4) (hi : i < 64) (hc : Calm s) (hq : lget (tgetD s.walks d []) i = some q)
    (hwalk : walk (quiet s) d q.part q.w.vpn true = (.leaf e a b, w)) (hcw : Calm w) (hheld : frameHeld s q.part (leFrame e) = false)
    (hwrite : q.w.wr = true → leW e = true ∨ leCow e = true) :
    Completes (.walkComplete d i) s (fun u => tgetD u.walks d [] = ldel (tgetD s.walks d []) i ∧
      (hget u q.h).tlb = (tlbMake q.w.vpn q.part e ::
        (hget w q.h).tlb.filter (fun t => !(t.part = q.part && t.vpn = q.w.vpn))).take 128 ∧
      (hget u q.h).walks = (hget w q.h).walks.filter (· ≠ q.w)) := by
  obtain ⟨u, hu, hf⟩ := lead_act (f := fun t => walkComplete t d i) hc hd (walkComplete_fills (s := quiet s) hi hq hwalk hheld hwrite)
    (hcw.of rfl rfl rfl rfl rfl rfl rfl)
  have hx : hget u q.h = { tlbFill (hget w q.h) (tlbMake q.w.vpn q.part e) with walks := (hget w q.h).walks.filter (· ≠ q.w) } := by
    rw [hf.hget, hget_walkLeft, hget_hmod_same]
    rfl
  refine ⟨u, hu, ?_, ?_, ?_⟩
  · rw [hf.eq]
    exact tgetD_tput_same ..
  · rw [hx]
    rfl
  · rw [hx]

end

/-! A hearth acknowledges a shootdown (R268 step 3). -/

theorem shootdownAck_leads {s : State} {p h i : Nat} {d : Shoot} (hp : p < 16) (hh : h < 256) (hc : Calm s)
    (hfind : lfind (xlGet s p).sds (fun d => d.left.contains h) = some i) (hd : lget (xlGet s p).sds i = some d)
    (hdone : ∀ w ∈ d.writes, w.1 = h → ∀ q ∈ (hget s h).reqs, q.id ≠ w.2) :
    Leads (.shootdownAck p h) s
      (xlPut (quiet s) p { xlGet s p with sds := lset (xlGet s p).sds i { d with left := d.left.filter (· ≠ h) } }) := by
  refine lead_act (f := fun t => shootdownAck t p h) hc (And.intro hp hh) ?_ (hc.quiet.xlMod p fun _ => _)
  have hwrites : d.writes.any (fun w => decide (w.1 = h) && (hget s h).reqs.any (fun q => decide (q.id = w.2))) = false := by
    simpa using fun a b hmem ha => hdone (a, b) hmem ha
  simp only [shootdownAck, xlGet_quiet, hget_quiet, hfind, hd, hwrites, Bool.and_false, Bool.false_eq_true, if_false]

/-! The end of a shootdown (R268 step 4). -/

section
variable {s : State} {p i : Nat} {d : Shoot}

/-- The first shootdown that every hearth has acknowledged ends, if its frames find room and its end has not to wait. -/
theorem shootdownFrom_first (hfind : lfind (xlGet s p).sds (fun d => d.left.isEmpty) = some i) (hd : lget (xlGet s p).sds i = some d)
    (hfree : (shootdownEnd s p i d).held = false) (hgone : (xlGet (shootdownEnd s p i d) p).sds ≠ (xlGet s p).sds)
    {k n : Nat} (hk : k ≤ i) (hn : i < k + n) : shootdownFrom s p k n = shootdownEnd s p i d := by
  obtain ⟨⟨d', hd', hacked⟩, hbefore⟩ := lfind_eq_some hfind
  obtain rfl : d = d' := Option.some.inj (hd.symm.trans hd')
  induction n generalizing k with
  | zero => omega
  | succ n ih =>
    rcases Nat.lt_or_eq_of_le hk with hlt | rfl
    · obtain ⟨e, he, hwaits⟩ := hbefore k hlt
      simpa only [shootdownFrom, he, hwaits, Bool.not_false, if_true] using ih hlt (by omega)
    · simp only [shootdownFrom, hd, hacked, hfree, hgone, decide_false, Bool.or_self, Bool.not_true, Bool.false_eq_true, if_false]

theorem shootdownComplete_leads {u : State} (hp : p < 16) (hc : Calm s) (hfind : lfind (xlGet s p).sds (fun d => d.left.isEmpty) = some i)
    (hd : lget (xlGet s p).sds i = some d) (hend : shootdownEnd (quiet s) p i d = u) (hcu : Calm u)
    (hsds : (xlGet u p).sds = ldel (xlGet s p).sds i) : Leads (.shootdownComplete p) s u := by
  have hi : i < (xlGet s p).sds.length := lget_lt hd
  refine lead_act (f := fun t => shootdownComplete t p) hc hp (Eq.trans ?_ hend) hcu
  refine shootdownFrom_first (s := quiet s) hfind hd (hend ▸ hcu.free) ?_ (Nat.zero_le i) (by simpa using hi)
  rw [hend, hsds]
  exact ldel_ne hi

/-- Shootdown `i` is over: it leaves the list and is counted. -/
def shootdownGone (s : State) (p i : Nat) : State :=
  xltBump (xlMod s p (fun x => { x with sds := ldel x.sds i })) p (R.xltShootdowns p) 1

theorem Calm.shootdownGone {v : State} (hc : Calm v) : Calm (Machine.shootdownGone v p i) := (hc.xlMod p _).xltBump p _ _

theorem sds_shootdownGone (v : State) : (xlGet (shootdownGone v p i) p).sds = ldel (xlGet v p).sds i := by simp [shootdownGone]

variable {v : State} (hroom : relTake (if d.frames.isEmpty then s else relMove s p (xlGet s p).pend.length) p d.frames = ([], v))
include hroom

/-- A shootdown whose frames have all found room lets what waits for it go on. -/
theorem shootdownEnd_room : shootdownEnd s p i d =
    match d.why with
    | .op g st => opEnd (shootdownGone v p i) p g st (((ringGet (xlGet (shootdownGone v p i) p) g).page).getD 0)
    | .rekey => xlMod (shootdownGone v p i) p (fun x => { x with rk := x.rk.map (fun r => { r with ready := true }) })
    | .batch | .cow => shootdownGone v p i := by
  simp only [shootdownEnd, hroom]
  cases d.why <;> rfl

end

section
variable {s v : State} {p i : Nat} {d : Shoot} (hp : p < 16) (hc : Calm s) (hfind : lfind (xlGet s p).sds (fun d => d.left.isEmpty) = some i)
  (hd : lget (xlGet s p).sds i = some d)
  (hroom : relTake (if d.frames.isEmpty then quiet s else relMove (quiet s) p (xlGet s p).pend.length) p d.frames = ([], v))
  (hsds : (xlGet v p).sds = (xlGet s p).sds)
include hp hc hfind hd hroom hsds

theorem shootdownComplete_alone (hcv : Calm v) (hwhy : d.why = .cow ∨ d.why = .batch) : Leads (.shootdownComplete p) s (shootdownGone v p i) := by
  refine shootdownComplete_leads hp hc hfind hd ?_ hcv.shootdownGone (by rw [sds_shootdownGone, hsds])
  rw [shootdownEnd_room (s := quiet s) hroom]
  rcases hwhy with h | h
  · rw [h]
  · rw [h]

theorem shootdownComplete_rekey (hcv : Calm v) (hwhy : d.why = .rekey) :
    Leads (.shootdownComplete p) s (xlMod (shootdownGone v p i) p (fun x => { x with rk := x.rk.map (fun r => { r with ready := true }) })) := by
  refine shootdownComplete_leads hp hc hfind hd ?_ (hcv.shootdownGone.xlMod p _) ?_
  · rw [shootdownEnd_room (s := quiet s) hroom, hwhy]
  · rw [xlGet_xlMod_same, sds_shootdownGone, hsds]

theorem shootdownComplete_op {g st : Nat} (hwhy : d.why = .op g st) {t : State}
    (ht : t = opEnd (shootdownGone v p i) p g st (((ringGet (xlGet (shootdownGone v p i) p) g).page).getD 0)) (hct : Calm t)
    (hkept : (xlGet t p).sds = (xlGet (shootdownGone v p i) p).sds) : Leads (.shootdownComplete p) s t := by
  refine shootdownComplete_leads hp hc hfind hd ?_ hct (by rw [hkept, sds_shootdownGone, hsds])
  rw [shootdownEnd_room (s := quiet s) hroom, hwhy, ht]

end

/-! Copy-on-write (R270). -/

section
variable {s w : State} {p : Nat} {c : CowReq} {rest : List CowReq} (hp : p < 16) (hc : Calm s) (hcow : (xlGet s p).cow = c :: rest)
  (hrun : (xlGet s p).cowRun = none) (hrk : (xlGet s p).rk = none)
include hp hc hcow hrun hrk

theorem copyOnWrite_copies {src k f skip next : Nat}
    (hfind : cowFind (xlPut (quiet s) p { xlGet s p with cow := rest }) p c.vpn = (.copy src k f skip next, w)) {v : State}
    (hv : v = xlMod (frTake (rsvTake w p skip next) p f 1 1) p (fun x => { x with cowRun := some ⟨c, src, f, xCur w p⟩ })) (hcv : Calm v) :
    Leads (.copyOnWrite p) s v := by
  refine lead_act (f := fun t => copyOnWrite t p) hc hp ?_ hcv
  simp only [hrun, hrk] at hfind
  simp only [copyOnWrite, xlGet_quiet, hcow, hrun, hrk, hfind, hv]

theorem copyOnWrite_upgrades
    (hfind : (cowFind (xlPut (quiet s) p { xlGet s p with cow := rest }) p c.vpn).1 ∈ [CowRes.none, .upgraded])
    (hw : w = (cowFind (xlPut (quiet s) p { xlGet s p with cow := rest }) p c.vpn).2) (hcw : Calm w) :
    Leads (.copyOnWrite p) s (cowAgain w p c) := by
  refine lead_act (f := fun t => copyOnWrite t p) hc hp ?_ (hcw.hput _ _)
  simp only [hrun, hrk, List.mem_cons, List.not_mem_nil, or_false] at hfind
  rcases hfind with h | h
  · simp only [copyOnWrite, xlGet_quiet, hcow, hrun, hrk, h, hw]
  · simp only [copyOnWrite, xlGet_quiet, hcow, hrun, hrk, h, hw]

end

theorem cowCopyDone_remaps {s w w2 : State} {p e a b : Nat} {c : CowRun} (hp : p < 16) (hc : Calm s) (hrun : (xlGet s p).cowRun = some c)
    (hwalk : walk (xlPut (quiet s) p { xlGet s p with cowRun := none, cow := (xlGet s p).cow.filter (fun d => d ≠ c.req) }) 0 p c.req.vpn false
      = (.leaf e a b, w)) (hcopy : frameCopy w p c.src (leK e) c.frame c.k 256 = (true, w2)) {v : State}
    (hv : v = sdStart (cowRemap w2 p c.req.vpn c.frame c.k) p .cow [c.req.vpn] []) (hcv : Calm v) : Leads (.cowCopyDone p) s v := by
  refine lead_act (f := fun t => cowCopyDone t p) hc hp ?_ hcv
  simp only [cowCopyDone, xlGet_quiet, hrun, hwalk, hcopy, hv, if_true]

/-- Settles O26: a walk fills the TLB (`walkComplete_completes`), a hearth acknowledges (`shootdownAck_leads`), the first acknowledged shootdown ends
(`shootdownFrom_first`, `shootdownEnd_room`), and a copy-on-write upgrades, starts its copy or ends it (the lemmas of their names). -/
theorem walksAndShootdowns : Obligations.WalksAndShootdowns := by
  unfold Obligations.WalksAndShootdowns
  refine ⟨?walk, ?ack, ?complete, ?cow, ?copied⟩
  case walk =>
    intro s w d i e a b q hd hi hc hq hwalk hcw hheld hwrite
    exact walkComplete_completes hd hi hc hq hwalk hcw hheld hwrite
  case ack =>
    intro s p h i d hp hh hc hfind hd hdone
    exact shootdownAck_leads hp hh hc hfind hd hdone
  case complete =>
    intro s v p i d hp hc hfind hd hroom hcv hsds
    exact ⟨shootdownComplete_alone hp hc hfind hd hroom hsds hcv, shootdownComplete_rekey hp hc hfind hd hroom hsds hcv,
      fun g st hwhy hct hkept => shootdownComplete_op hp hc hfind hd hroom hsds hwhy rfl hct hkept⟩
  case cow =>
    intro s w p c rest hp hc hcow hrun hrk
    exact ⟨fun src k f skip next hfind hcv => copyOnWrite_copies hp hc hcow hrun hrk hfind rfl hcv,
      fun hfind hw hcw => copyOnWrite_upgrades hp hc hcow hrun hrk hfind hw hcw⟩
  case copied =>
    intro s w w2 p e a b c hp hc hrun hwalk hcopy v
    exact fun hcv => cowCopyDone_remaps hp hc hrun hwalk hcopy rfl hcv

end Sys2Proof.Machine

/-!
SUPPORT and proofs for graph execution of chapter 10: graph commands (O27), the load of graphs (O28), the placement, start and completion of tasks
(O29–O31), and mixed steps (O33).
-/

namespace Sys2Proof.Machine

/-! What graph execution changes. -/

/-- From `s` to `t` graphs are executed: of the device only registers, hearths, graph engines and queue pairs change. -/
def GraphsRun (s t : State) : Prop := t = { s with csr := t.csr, hearths := t.hearths, graphs := t.graphs, qps := t.qps }

section
variable {s t u : State}

theorem GraphsRun.refl (s : State) : GraphsRun s s := rfl

theorem GraphsRun.trans (h1 : GraphsRun s t) (h2 : GraphsRun t u) : GraphsRun s u := by
  unfold GraphsRun at *
  rw [h2, h1]

theorem GraphsRun.foldl {α : Type} {f : State → α → State} (hf : ∀ a w, GraphsRun w (f w a)) (l : List α) (s : State) :
    GraphsRun s (l.foldl f s) := by
  induction l generalizing s with
  | nil => exact .refl s
  | cons a l ih => exact (hf a s).trans (ih (f s a))

theorem graphsRun_bump (s : State) (frz : Bool) (r : Reg) (n w : Nat) : GraphsRun s (bump s frz r n w) := by cases frz <;> rfl

theorem graphsRun_logErr (s : State) (l c : Reg) (v : Nat) : GraphsRun s (logErr s l c v) := by
  rw [logErr_eq]
  rfl

theorem GraphsRun.calm (h : GraphsRun s t) (hc : Calm s) : Calm t := by
  rw [h]
  exact hc.of rfl rfl rfl rfl rfl rfl rfl

theorem GraphsRun.memory (h : GraphsRun s t) : t.hbm = s.hbm ∧ t.slices = s.slices := by
  rw [h]
  exact ⟨rfl, rfl⟩

theorem Follows.qpGet {q : List Instr} {v u : State} (h : Follows q v u) (k : Nat) : Machine.qpGet u k = Machine.qpGet v k := by rw [h.eq]; rfl

/-- The registers that a command of graph execution leaves. -/
theorem GraphsRun.sameRegs {rs : List Reg} (hv : GraphsRun (quiet s) t) (hf : Follows s.pending t u)
    (hr : ∀ r : Reg, r.addr ∉ rs.map Reg.addr → rd t r = rd s r) : SameRegs s u rs :=
  ⟨fun r hrs hn => (hf.rd r hn).trans (hr r hrs), fun p => by rw [hf.parts p, hv]; rfl⟩

end

section
variable {s : State} {q k : Nat}

theorem qpGet_qpPut_other (h : k ≠ q) (x : QPair) : qpGet (qpPut s q x) k = qpGet s k := tgetD_tput_other _ h _ _
@[simp] theorem qpGet_qpMod_same (f : QPair → QPair) : qpGet (qpMod s q f) q = f (qpGet s q) := qpGet_qpPut_same ..
theorem qpGet_qpMod_other (h : k ≠ q) (f : QPair → QPair) : qpGet (qpMod s q f) k = qpGet s k := qpGet_qpPut_other h _
theorem qpGet_congr {t : State} (h : t.qps = s.qps) (k : Nat) : qpGet t k = qpGet s k := by simp [qpGet, h]
@[simp] theorem qpGet_quiet (k : Nat) : qpGet (quiet s) k = qpGet s k := rfl
@[simp] theorem qpGet_gmod (p : Nat) (f : GraphEng → GraphEng) : qpGet (gmod s p f) k = qpGet s k := rfl
@[simp] theorem qpGet_bump (frz : Bool) (r : Reg) (n w : Nat) : qpGet (bump s frz r n w) k = qpGet s k := qpGet_congr (bump_qps ..) k
@[simp] theorem qpGet_logErr (l c : Reg) (v : Nat) : qpGet (logErr s l c v) k = qpGet s k := qpGet_congr (logErr_qps ..) k
@[simp] theorem gget_quiet (p : Nat) : gget (quiet s) p = gget s p := rfl
@[simp] theorem gget_qpPut (x : QPair) (p : Nat) : gget (qpPut s q x) p = gget s p := rfl
@[simp] theorem gget_qpMod (f : QPair → QPair) (p : Nat) : gget (qpMod s q f) p = gget s p := rfl
@[simp] theorem gget_hput (h : Nat) (x : Hearth) (p : Nat) : gget (hput s h x) p = gget s p := rfl
@[simp] theorem gget_bump (frz : Bool) (r : Reg) (n w p : Nat) : gget (bump s frz r n w) p = gget s p := gget_congr (bump_graphs ..) p
@[simp] theorem gget_logErr (l c : Reg) (v p : Nat) : gget (logErr s l c v) p = gget s p := gget_congr (logErr_graphs ..) p
@[simp] theorem rd_gmod (p : Nat) (f : GraphEng → GraphEng) (r : Reg) : rd (gmod s p f) r = rd s r := rfl
@[simp] theorem rd_qpMod (f : QPair → QPair) (r : Reg) : rd (qpMod s q f) r = rd s r := rfl

end

/-! Graph commands (R284, R309, R312, R423). -/

/-- A record under the time `t` of the graph command that it answers: a REJECT record keeps it (R481). -/
def recStamped (t : Nat) (r : Rec) : Rec := if r.kind = 3 then { r with acc := some t } else r

section
variable {s w : State} {q : Nat}

theorem recStamp_eq (n t : Nat) :
    recStamp s q n t = qpMod s q (fun x => { x with recs := x.recs.take n ++ (x.recs.drop n).map (recStamped t) }) := rfl

theorem graphsRun_recStamp (s : State) (q n t : Nat) : GraphsRun s (recStamp s q n t) := rfl

theorem recs_recStamp {old new : List Rec} (h : (qpGet s q).recs = old ++ new) (t : Nat) :
    (qpGet (recStamp s q old.length t) q).recs = old ++ new.map (recStamped t) := by
  rw [recStamp_eq, qpGet_qpMod_same]
  simp [h]

/-- A graph command of a queue pair that listens: `g` is its effect before its records are stamped, `w` what the effect leads to. -/
theorem hostCmd_graph (hc : Calm s) (hl : Listens s q) {i : Instr} (hi : cmdWaits (quiet s) q i = false) {g : Nat → State → State}
    (hg : g (telNow s) (quiet s) = w) (hrun : GraphsRun (quiet s) w) (hcmds : (qpGet w q).cmds = (qpGet s q).cmds) {op : State → State}
    (hop : op (quiet s) = hostCmd (quiet s) q i (fun t z => recStamp (g t z) q (qpGet z q).recs.length t)) :
    ∃ u, act (only (q ≤ 1024) op) s = .next u ∧ Follows s.pending (recStamp w q (qpGet s q).recs.length (telNow s)) u := by
  have hnow : g (telNow (quiet s)) (quiet s) = w := hg
  have hdone : op (quiet s) = recStamp w q (qpGet s q).recs.length (telNow s) := by
    rw [hop, hostCmd_listens hl.quiet hi]
    · rw [hnow]
      rfl
    · rw [hnow, recStamp_eq, qpGet_qpMod_same]
      exact hcmds.trans hl.cmds
  exact lead_act hc hl.qp hdone ((hrun.trans (graphsRun_recStamp ..)).calm hc.quiet)

/-- From `s` to `w` a graph command of queue pair `q` is taken, but for the time of its answer: the graph engine becomes `g`, the records `new`
answer, and registers outside `rs` are as they were. -/
structure GraphTaken (s w : State) (q : Nat) (g : GraphEng) (new : List Rec) (rs : List Reg) : Prop where
  run : GraphsRun s w
  engine : gget w (qpPart q) = g
  cmds : (qpGet w q).cmds = (qpGet s q).cmds
  recs : (qpGet w q).recs = (qpGet s q).recs ++ new
  regs : ∀ r : Reg, r.addr ∉ rs.map Reg.addr → rd w r = rd s r

theorem graphTaken_engine (s : State) (q : Nat) (f : GraphEng → GraphEng) :
    GraphTaken s (gmod s (qpPart q) f) q (f (gget s (qpPart q))) [] [] :=
  ⟨rfl, gget_gmod_same .., rfl, by simp, fun _ _ => rfl⟩

/-- A REJECT record, before its time is put in (R310). -/
def rejectRec (status : Nat) : Rec := ⟨3, 0, 0, status, 0, 0, 0, 0, 0, 0, 0, none, none⟩

theorem graphTaken_reject (s : State) (q status : Nat) : GraphTaken s (recReject s q status) q (gget s (qpPart q)) [rejectRec status] [] :=
  ⟨rfl, rfl, by simp [recReject, recPush], by simp [recReject, recPush, rejectRec], fun _ _ => rfl⟩

/-- A REJECT record beside an error that is logged. -/
theorem graphTaken_logReject (s : State) (q status : Nat) (l c : Reg) (v : Nat) :
    GraphTaken s (recReject (logErr s l c v) q status) q (gget s (qpPart q)) [rejectRec status] [l, c] := by
  refine ⟨(graphsRun_logErr s l c v).trans rfl, ?_, ?_, ?_, fun r hr => ?_⟩
  · simp [recReject, recPush]
  · simp [recReject, recPush]
  · simp [recReject, recPush, rejectRec]
  · simp only [List.map_cons, List.map_nil, List.mem_cons, List.not_mem_nil, or_false, not_or] at hr
    exact rd_logErr_other _ hr.1 hr.2 v

/-- What a graph command leaves that is taken. -/
theorem GraphTaken.completes {g : Nat → State → State} {e : GraphEng} {new : List Rec} {rs : List Reg}
    (h : GraphTaken (quiet s) w q e new rs) (hg : g (telNow s) (quiet s) = w) (hc : Calm s) (hl : Listens s q) {i : Instr}
    (hi : cmdWaits (quiet s) q i = false) {op : State → State}
    (hop : op (quiet s) = hostCmd (quiet s) q i (fun t z => recStamp (g t z) q (qpGet z q).recs.length t)) :
    ∃ u, act (only (q ≤ 1024) op) s = .next u ∧ gget u (qpPart q) = e ∧ SameRegs s u rs ∧
      (qpGet u q).recs = (qpGet s q).recs ++ new.map (recStamped (telNow s)) ∧ ∀ r : Reg, r.addr ∉ noteRegs → rd u r = rd w r := by
  obtain ⟨u, hu, hf⟩ := hostCmd_graph hc hl hi hg h.run h.cmds hop
  refine ⟨u, hu, (hf.gget _).trans h.engine, ?_, (congrArg QPair.recs (hf.qpGet q)).trans (recs_recStamp h.recs _), hf.rd⟩
  exact (h.run.trans (graphsRun_recStamp ..)).sameRegs hf h.regs

end

/-! GRAPH_SUBMIT and MIX_POST (R284, R312, R423). -/

section
variable {s w : State} {q : Nat} (hc : Calm s) (hl : Listens s q) (hq : q < 1024) (hroom : recRoom s q = true)
include hc hl hq hroom

theorem graphSubmit_completes {va : Nat} {ds : List Delivery} {e : GraphEng} {new : List Rec} {rs : List Reg}
    (h : GraphTaken (quiet s) w q e new rs) (hw : graphEnqueue (quiet s) (qpPart q) ⟨q, va, ds, none, none, some (telNow s)⟩ = w) (ctag : Nat) :
    Completes (.graphSubmit q va ctag ds) s (fun u => gget u (qpPart q) = e ∧ SameRegs s u rs ∧
      (qpGet u q).recs = (qpGet s q).recs ++ new.map (recStamped (telNow s))) := by
  obtain ⟨u, hu, he, hregs, hrecs, -⟩ := h.completes (g := fun t z => graphEnqueue z (qpPart q) ⟨q, va, ds, none, none, some t⟩)
    (i := .graphSubmit q va ctag ds) (op := fun t => graphSubmitOp t q va ctag ds) hw hc hl rfl (by
      have hroom' : recRoom (quiet s) q = true := hroom
      simp only [graphSubmitOp, hroom', Nat.not_le.2 hq, decide_false, Bool.not_true, Bool.or_false, Bool.false_eq_true, if_false]
      rfl)
  exact ⟨u, hu, he, hregs, hrecs⟩

theorem mixPost_completes {item : BitVec 256} {e : GraphEng} {new : List Rec} {rs : List Reg}
    (h : GraphTaken (quiet s) w q e new rs) (hw : mixPostOp (quiet s) q (qpPart q) item.toNat = w) :
    Completes (.mixPost q item) s (fun u => gget u (qpPart q) = e ∧ SameRegs s u rs ∧
      (qpGet u q).recs = (qpGet s q).recs ++ new.map (recStamped (telNow s)) ∧ ∀ r : Reg, r.addr ∉ noteRegs → rd u r = rd w r) :=
  h.completes (g := fun _ z => mixPostOp z q (qpPart q) item.toNat) (i := .mixPost q item) (op := fun t => mixPostCmd t q item) hw hc hl rfl (by
    have hroom' : recRoom (quiet s) q = true := hroom
    simp only [mixPostCmd, hroom', Nat.not_le.2 hq, decide_false, Bool.not_true, Bool.or_false, Bool.false_eq_true, if_false]
    rfl)

end

/-- The record of a bad command names its kind (R435). -/
theorem hstErr_badCommand (s : State) (q : Nat) (hv : bit (rd s R.hstErrLog) 0 = false) :
    bit (rd (hstErr s 4 q 0) R.hstErrLog) 0 = true ∧ rdf (hstErr s 4 q 0) R.hstErrLog 8 4 = 4 := by
  have hrec : rd (hstErr s 4 q 0) R.hstErrLog = (fieldAt 8 4 4 + fieldAt 16 11 q + fieldAt 27 3 0) / 2 * 2 + 1 :=
    rd_logErr_first (by decide) hv _
  simp only [rdf, hrec, bit, bits, fieldAt, Nat.shiftLeft_eq, Nat.shiftRight_eq_div_pow]
  constructor
  · simp
  · omega

/-! GRAPH_CANCEL of a loaded graph (R309). -/

section
variable {s : State} {p gid : Nat} {gr : Graph}

/-- The graph engine without the graph that it had loaded. -/
def loadedGone (gr : Graph) (g : GraphEng) : GraphEng := { g with loaded := none, mixRun := g.mixRun.filter (fun e => some e.1 ≠ gr.mix) }

theorem graphsRun_recPush (s : State) (k : Nat) (r : Rec) : GraphsRun s (recPush s k r) := rfl

theorem recs_recPush (k : Nat) (r : Rec) (j : Nat) : (qpGet (recPush s k r) j).recs = (qpGet s j).recs ++ if j = k then [r] else [] := by
  by_cases h : j = k
  · subst h
    simp [recPush]
  · simp [recPush, qpGet_qpMod_other h, h]

/-- A record that is no REJECT record is not stamped, on whichever queue pair it stands. -/
theorem recs_recPush_stamped {k : Nat} {r : Rec} (hr : r.kind ≠ 3) (q j t : Nat) :
    (qpGet (recStamp (recPush s k r) q (qpGet s q).recs.length t) j).recs = (qpGet s j).recs ++ if j = k then [r] else [] := by
  by_cases hj : j = q
  · subst hj
    rw [recs_recStamp (recs_recPush k r j)]
    split <;> simp [recStamped, hr]
  · rw [recStamp_eq, qpGet_qpMod_other hj, recs_recPush]

/-- The GRAPH record of a graph that is cancelled before it takes its slots. -/
def cancelledRec (gr : Graph) : Rec := graphRec gr.id 3 gr.failTask gr.failAbort gr.t0 gr.acc

theorem graphCancelOp_loaded (hids : ∀ x ∈ (gget s p).graphs, x.id ≠ gid) (hload : (gget s p).loaded = some gr) (hid : gr.id = gid)
    (hdels : gr.dels = []) :
    graphCancelOp s p gid = recPush (grfBump (gmod s p (loadedGone gr)) p (R.grfGraphsDone p) 1) gr.qp (cancelledRec gr) := by
  have hany : (gget s p).graphs.any (fun x => x.id = gid) = false := by simpa using hids
  have hgone : gmod (gmod s p (fun g => { g with loaded := none })) p (fun g => { g with mixRun := g.mixRun.filter (fun e => some e.1 ≠ gr.mix) }) =
      gmod s p (loadedGone gr) := by
    simp only [gmod, gput, gget, tgetD_tput_same, tput_tput, loadedGone]
  simp only [graphCancelOp, hany, hload, hid, graphClose, recDeliver, hdels, List.isEmpty_nil, Bool.true_or, if_true, Bool.false_eq_true, if_false, hgone]
  rw [← hid]
  rfl

end

/-- The state in which a graph that is cancelled before it takes its slots has left the graph engine, but for its record. -/
def graphGone (s : State) (p : Nat) (gr : Graph) : State := grfBump (gmod s p (loadedGone gr)) p (R.grfGraphsDone p) 1

theorem graphGone_units (s : State) (p : Nat) (gr : Graph) :
    GraphsRun s (graphGone s p gr) ∧ gget (graphGone s p gr) p = loadedGone gr (gget s p) ∧ (∀ k, qpGet (graphGone s p gr) k = qpGet s k) ∧
    ∀ r : Reg, r.addr ≠ (R.grfGraphsDone p).addr → rd (graphGone s p gr) r = rd s r := by
  refine ⟨.trans (t := gmod s p (loadedGone gr)) rfl (graphsRun_bump ..), ?_, fun k => ?_, fun r hr => rd_bump_other _ _ hr _ _⟩
  all_goals simp [graphGone, grfBump]

theorem graphCancel_completes {s : State} {q : Nat} {gid : Nat} {gr : Graph} (hc : Calm s) (hl : Listens s q) (hq : q < 1024)
    (hroom : recRoom s q = true) (hids : ∀ x ∈ (gget s (qpPart q)).graphs, x.id ≠ gid) (hload : (gget s (qpPart q)).loaded = some gr)
    (hid : gr.id = gid) (hdels : gr.dels = []) :
    Completes (.graphCancel q gid) s (fun u => gget u (qpPart q) = loadedGone gr (gget s (qpPart q)) ∧
      (∀ k, (qpGet u k).recs = (qpGet s k).recs ++ if k = gr.qp then [cancelledRec gr] else []) ∧ SameRegs s u [R.grfGraphsDone (qpPart q)]) := by
  obtain ⟨hgone, hengine, hqp, hregs⟩ := graphGone_units (quiet s) (qpPart q) gr
  have hop : graphCancelOp (quiet s) (qpPart q) gid = recPush (graphGone (quiet s) (qpPart q) gr) gr.qp (cancelledRec gr) :=
    graphCancelOp_loaded hids hload hid hdels
  generalize graphGone (quiet s) (qpPart q) gr = w at *
  have hcmds : (qpGet (recPush w gr.qp (cancelledRec gr)) q).cmds = (qpGet s q).cmds := by
    by_cases h : q = gr.qp
    · subst h
      simp [recPush, hqp]
    · simp [recPush, hqp, qpGet_qpMod_other h]
  obtain ⟨u, hu, hf⟩ := hostCmd_graph (g := fun _ z => graphCancelOp z (qpPart q) gid) (i := .graphCancel q gid)
    (op := fun t => graphCancelCmd t q gid) hc hl rfl hop (hgone.trans (graphsRun_recPush ..)) hcmds (by
      have hroom' : recRoom (quiet s) q = true := hroom
      simp only [graphCancelCmd, hroom', Nat.not_le.2 hq, decide_false, Bool.not_true, Bool.or_false, Bool.false_eq_true, if_false]
      rfl)
  refine ⟨u, hu, (hf.gget _).trans hengine, fun k => ?_,
    ((hgone.trans (graphsRun_recPush ..)).trans (graphsRun_recStamp ..)).sameRegs hf fun r hr => hregs r (by simpa using hr)⟩
  rw [hf.qpGet, ← qpGet_quiet q, ← hqp q, recs_recPush_stamped (by simp [cancelledRec, graphRec]), hqp, qpGet_quiet]

/-- Settles O27: each command is taken by a queue pair that listens (`GraphTaken.completes`), joins its queue or is answered with a REJECT record, and
the cancelled graph closes with its own record (`graphCancelOp_loaded`). -/
theorem graphCommands : Obligations.GraphCommands := by
  unfold Obligations.GraphCommands
  intro s q hc hl hq hroom p g reject
  refine ⟨?joins, ?full, ?posted, ?mixFull, ?bad, ?cancelled⟩
  case joins =>
    intro va ctag ds hlen
    obtain ⟨u, hu, he, hregs, hrecs⟩ := graphSubmit_completes hc hl hq hroom (va := va) (ds := ds) (graphTaken_engine ..) (if_neg (Nat.not_le.2 hlen)) ctag
    exact ⟨u, hu, he, hregs, by simpa using hrecs⟩
  case full =>
    intro va ctag ds hlen
    obtain ⟨u, hu, he, hregs, hrecs⟩ := graphSubmit_completes hc hl hq hroom (va := va) (ds := ds) (graphTaken_logReject ..) (if_pos hlen) ctag
    exact ⟨u, hu, he, hregs, hrecs⟩
  case posted =>
    intro item hbad hlen
    have hres : mixReserved item.toNat = false := by
      by_contra h
      simp [mixBad, h] at hbad
    obtain ⟨u, hu, he, hregs, hrecs, -⟩ := mixPost_completes hc hl hq hroom (item := item) (graphTaken_engine ..) (by
      simp only [mixPostOp, hres, hbad, Bool.false_eq_true, if_false]
      exact if_neg (Nat.not_le.2 hlen))
    exact ⟨u, hu, he, hregs, by simpa using hrecs⟩
  case mixFull =>
    intro item hbad hlen
    have hres : mixReserved item.toNat = false := by
      by_contra h
      simp [mixBad, h] at hbad
    obtain ⟨u, hu, he, hregs, hrecs, -⟩ := mixPost_completes hc hl hq hroom (item := item) (graphTaken_logReject ..) (by
      simp only [mixPostOp, hres, hbad, Bool.false_eq_true, if_false]
      exact if_pos hlen)
    exact ⟨u, hu, he, hregs, hrecs⟩
  case bad =>
    intro item hbad
    cases hres : mixReserved item.toNat with
    | false =>
      obtain ⟨u, hu, he, hregs, hrecs, -⟩ := mixPost_completes hc hl hq hroom (item := item) (graphTaken_reject ..) (by
        simp only [mixPostOp, hres, hbad, Bool.false_eq_true, if_false, if_true]
        rfl)
      exact ⟨u, hu, he, hrecs, fun _ => hregs, fun h => absurd h (by simp)⟩
    | true =>
      obtain ⟨u, hu, he, hregs, hrecs, hrd⟩ := mixPost_completes hc hl hq hroom (item := item) (graphTaken_logReject ..) (by
        simp only [mixPostOp, hres, if_true]
        rfl)
      refine ⟨u, hu, he, hrecs, fun h => absurd h (by simp), fun _ => ⟨hregs, fun hv => ?_⟩⟩
      rw [rdf, hrd R.hstErrLog (by decide)]
      exact hstErr_badCommand (quiet s) q hv
  case cancelled =>
    intro gid gr hids hload hid hdels
    obtain ⟨u, hu, hg, hrecs, hregs⟩ := graphCancel_completes hc hl hq hroom hids hload hid hdels
    refine ⟨u, hu, (congrArg GraphEng.loaded hg :), (congrArg GraphEng.loadq hg :), (congrArg GraphEng.graphs hg :), ?_, hregs⟩
    rw [hrecs, if_pos rfl, ← hid]
    rfl

end Sys2Proof.Machine

namespace Sys2Proof.Machine

/-! The work of a hearth: what the start and the completion of a task change (R291, R298). -/

/-- From `s` to `t` the task of hearth `h` changes: of the device that hearth, graph engines, queue pairs and registers of `rs`. -/
structure TaskTurns (h : Nat) (rs : List Reg) (s t : State) : Prop where
  run : GraphsRun s t
  other : ∀ k, k ≠ h → hget t k = hget s k
  regs : ∀ r : Reg, r.addr ∉ rs.map Reg.addr → rd t r = rd s r

@[simp] theorem hget_gmod (s : State) (p : Nat) (f : GraphEng → GraphEng) (k : Nat) : hget (gmod s p f) k = hget s k := rfl

section
variable {h : Nat} {rs : List Reg} {s t u : State}

theorem TaskTurns.refl (h : Nat) (rs : List Reg) (s : State) : TaskTurns h rs s s := ⟨.refl s, fun _ _ => rfl, fun _ _ => rfl⟩

theorem TaskTurns.trans (h1 : TaskTurns h rs s t) (h2 : TaskTurns h rs t u) : TaskTurns h rs s u :=
  ⟨h1.run.trans h2.run, fun k hk => (h2.other k hk).trans (h1.other k hk), fun r hr => (h2.regs r hr).trans (h1.regs r hr)⟩

theorem TaskTurns.foldl {α : Type} {f : State → α → State} (hf : ∀ a w, TaskTurns h rs w (f w a)) (l : List α) (s : State) :
    TaskTurns h rs s (l.foldl f s) := by
  induction l generalizing s with
  | nil => exact .refl h rs s
  | cons a l ih => exact (hf a s).trans (ih (f s a))

theorem taskTurns_hput (rs : List Reg) (s : State) (h : Nat) (x : Hearth) : TaskTurns h rs s (hput s h x) :=
  ⟨rfl, fun _ hk => hget_hput_other s hk x, fun _ _ => rfl⟩

theorem taskTurns_gmod (h : Nat) (rs : List Reg) (s : State) (p : Nat) (f : GraphEng → GraphEng) : TaskTurns h rs s (gmod s p f) :=
  ⟨rfl, fun _ _ => rfl, fun _ _ => rfl⟩

theorem taskTurns_recPush (h : Nat) (rs : List Reg) (s : State) (q : Nat) (r : Rec) : TaskTurns h rs s (recPush s q r) :=
  ⟨rfl, fun _ _ => rfl, fun _ _ => rfl⟩

theorem taskTurns_bump (h : Nat) (s : State) (frz : Bool) {r : Reg} (hr : r ∈ rs) (n w : Nat) : TaskTurns h rs s (bump s frz r n w) :=
  ⟨graphsRun_bump .., fun k _ => hget_bump .., fun _ hq => rd_bump_other s frz (fun e => hq (by rw [e]; exact List.mem_map_of_mem hr)) n w⟩

theorem TaskTurns.sameRegs {v : State} (hv : TaskTurns h rs (quiet s) v) (hf : Follows s.pending v u) : SameRegs s u rs :=
  hv.run.sameRegs hf hv.regs

end

/-- Hearth `y` is hearth `x` but for its stream engines. -/
def EnginesTurn (x y : Hearth) : Prop := y = { x with flues := y.flues, bellows := y.bellows }

theorem engShift_turns (x : Hearth) (e : Nat) (out : Stream → Bool) : EnginesTurn x (engShift x e out) := by
  unfold engShift
  dsimp only
  split_ifs
  · exact engPut_frame x e _
  · rfl
  · exact engPut_frame x e _

/-- At the start and at the completion of a task the streams of every engine move up (R159). -/
theorem enginesShift_turn (out : Hearth → Nat → Stream → Bool) (l : List Nat) (x : Hearth) :
    EnginesTurn x (l.foldl (fun x e => engShift x e (out x e)) x) := by
  induction l generalizing x with
  | nil => rfl
  | cons e l ih =>
    have h1 := engShift_turns x e (out x e)
    have h2 := ih (engShift x e (out x e))
    unfold EnginesTurn at *
    rw [List.foldl_cons, h2, h1]

/-! The start of a task (R298). -/

/-- A task as it starts to run. -/
def startedTask (s : State) (t : TaskRun) : TaskRun := { t with cvt := 0, sat := 0, passSeq := 0, invSeq := 0, start := coreNow s, mark := none }

/-- The registers that count the cycles for which a start is held back (R488, R489). -/
def gateRegs (h : Nat) : List Reg := [R.telHrtGateH h, R.pwrFbGateCyclesF (h / 64)]

/-- Hearth `h` after the start has been counted that a gate of `w` cycles held back. -/
def gateCounted (s : State) (h w : Nat) : State :=
  bump (bump s (bit (rd s R.telCtrl) 0) (R.telHrtGateH h) w) (bit (rd s R.pwrCtrl) 1) (R.pwrFbGateCyclesF (h / 64)) w 64

theorem gateCounted_turns (s : State) (h w : Nat) : TaskTurns h (gateRegs h) s (gateCounted s h w) :=
  (taskTurns_bump h s _ (by simp [gateRegs]) ..).trans (taskTurns_bump h _ _ (by simp [gateRegs]) ..)

/-- A hearth on which task `t` has started, before the streams of its engines move up (R137, R298). -/
def hearthStarted (s : State) (h : Nat) (t : TaskRun) : Hearth :=
  let x := hget s h
  let mine := x.spd.handles.filter (fun e => hdValid e.2 && hdOwned e.2 && hdOwner e.2 = t.id)
  { x with
    spd := slotsMod x.spd (mine.flatMap (fun e => hdlSlots e.2)) (fun k => { k with touched := false })
    vec := if x.vec.stateOwn = t.id + 1 then { x.vec with stateOwn := 0 } else x.vec
    next := none, cur := some (startedTask s t), drain := x.cur }

/-- The hearth that starts task `t`: the streams of its engines have moved up (R159). -/
def hearthTurned (s : State) (h : Nat) (t : TaskRun) : Hearth :=
  (List.range 10).foldl (fun x e => engShift x e (fun st => st.own ≠ t.id && streamFinished x e st)) (hearthStarted s h t)

/-- The graph engines note that task `t` runs on hearth `h` and that task `c` drains. -/
def startNoted (s : State) (h : Nat) (t : TaskRun) (c : Option TaskRun) : State :=
  let s1 := taskMod s t.part t.id (fun k => { k with place := .running h, hearth := h })
  match c with
  | some c => taskMod s1 c.part c.id (fun k => { k with place := .draining h })
  | none => s1

theorem startNoted_turns (rs : List Reg) (s : State) (h : Nat) (t : TaskRun) (c : Option TaskRun) : TaskTurns h rs s (startNoted s h t c) := by
  cases c with
  | none => exact ⟨rfl, fun _ _ => rfl, fun _ _ => rfl⟩
  | some c => exact ⟨rfl, fun _ _ => rfl, fun _ _ => rfl⟩

@[simp] theorem hget_startNoted (s : State) (h : Nat) (t : TaskRun) (c : Option TaskRun) (k : Nat) : hget (startNoted s h t c) k = hget s k := by
  cases c <;> rfl

theorem startRun_eq {s : State} {h : Nat} {t : TaskRun} (hm : t.mark = none) :
    startRun s h t = startNoted (if gateLevel s h = 0 then hput s h (hearthTurned s h t)
      else gateCounted (hput s h (hearthTurned s h t)) h ((hget s h).prevCycles * gateLevel s h / (64 - gateLevel s h))) h t (hget s h).cur := by
  simp only [startRun, hm]
  rfl

theorem startRun_starts {s : State} {h : Nat} {t : TaskRun} (hm : t.mark = none) :
    TaskTurns h (gateRegs h) s (startRun s h t) ∧ hget (startRun s h t) h = hearthTurned s h t := by
  have hput' := taskTurns_hput (gateRegs h) s h (hearthTurned s h t)
  rw [startRun_eq hm]
  refine ⟨.trans ?_ (startNoted_turns ..), ?_⟩
  · split
    · exact hput'
    · exact hput'.trans (gateCounted_turns ..)
  · split <;> simp [gateCounted]

/-- A task whose hearth may start it. -/
theorem taskStart_completes {s : State} {h : Nat} {t : TaskRun} (hh : h < 256) (hc : Calm s) (hnext : (hget s h).next = some t)
    (hok : startOk s h = true) (hm : t.mark = none) :
    Completes (.taskStart h) s (fun u => (hget u h).next = none ∧ (hget u h).drain = (hget s h).cur ∧ (hget u h).cur = some (startedTask s t) ∧
      SameRegs s u (gateRegs h) ∧ u.hbm = s.hbm ∧ u.slices = s.slices ∧ ∀ k, k ≠ h → hget u k = hget s k) := by
  obtain ⟨hturns, hself⟩ := startRun_starts (s := quiet s) (h := h) hm
  have hop : taskStartOp (quiet s) h = startRun (quiet s) h t := by
    have hok' : startOk (quiet s) h = true := hok
    simp only [taskStartOp, hget_quiet, hnext, hok', if_true]
  obtain ⟨u, hu, hf⟩ := lead_act (f := fun s => taskStartOp s h) hc hh hop (hturns.run.calm hc.quiet)
  have hshift : EnginesTurn (hearthStarted (quiet s) h t) (hearthTurned (quiet s) h t) := enginesShift_turn ..
  obtain ⟨hhbm, hslices⟩ := hturns.run.memory
  refine ⟨u, hu, ?_, ?_, ?_, hturns.sameRegs hf, ?_, ?_, fun k hk => (hf.hget k).trans (hturns.other k hk)⟩
  · rw [hf.hget, hself, hshift]
    rfl
  · rw [hf.hget, hself, hshift]
    rfl
  · rw [hf.hget, hself, hshift]
    rfl
  · rw [hf.eq]
    exact hhbm
  · rw [hf.eq]
    exact hslices

/-! SEMREL (R304). -/

theorem semUp_wrf {s : State} {p i : Nat} (hn : semGet s p i < 65535) (gid task : Nat) :
    semUp s p i gid task = wrf s (R.grfSemS p i) 0 16 (semGet s p i + 1) := if_neg hn.ne

theorem semGet_wrf {n : Nat} (hn : n < 65536) (s : State) (p i : Nat) : semGet (wrf s (R.grfSemS p i) 0 16 n) p i = n := by
  have hlow : ∀ w : Nat, bits (setBits w 0 16 n) 0 16 = n := by
    intro w
    simp only [setBits, bits, fieldAt, Nat.shiftLeft_eq, Nat.shiftRight_eq_div_pow]
    omega
  rw [semGet, rdf, wrf, rd_wr_same, hlow]

theorem semrelOp_releases {s : State} {h : Nat} {t : TaskRun} {e : SchedEnt} {r : List SchedEnt} (hcur : (hget s h).cur = some t)
    (hs : t.sched = e :: r) (hop : bits e.desc 0 8 = 6) (i : Nat) (hi : i = if bit e.desc 8 then tdSem1 t.desc else tdSem0 t.desc)
    (hmem : i ∈ t.sems) (hn : semGet s t.part i < 65535) :
    semrelOp s h = wrf (hput s h { hget s h with cur := some { t with sched := r, sems := t.sems.erase i } }) (R.grfSemS t.part i) 0 16
      (semGet s t.part i + 1) := by
  have htake := schedTake_head (ops := [6]) hcur hs (by simp [hop])
  subst hi
  simp only [semrelOp, htake, List.contains_iff_mem.2 hmem, Bool.not_true, Bool.false_eq_true, if_false]
  rw [semUp_wrf (by exact hn)]
  simp [hmod]
  rfl

theorem semrel_completes {s : State} {h : Nat} {t : TaskRun} {e : SchedEnt} {r : List SchedEnt} (hh : h < 256) (hc : Calm s)
    (hcur : (hget s h).cur = some t) (hs : t.sched = e :: r) (hop : bits e.desc 0 8 = 6) (i : Nat)
    (hi : i = if bit e.desc 8 then tdSem1 t.desc else tdSem0 t.desc) (hmem : i ∈ t.sems) (hn : semGet s t.part i < 65535) :
    Completes (.semrel h) s (fun u => HearthOnly s u h [R.grfSemS t.part i] ∧ semGet u t.part i = semGet s t.part i + 1 ∧
      (hget u h).cur = some { t with sched := r, sems := t.sems.erase i }) := by
  obtain ⟨u, hu, honly, hx, hregs⟩ := act_hearthRegs (f := fun s => semrelOp s h) [R.grfSemS t.part i] hc hh
    (semrelOp_releases (s := quiet s) hcur hs hop i hi hmem hn)
    (by rw [quiet_eq hc.free]; rfl)
    (fun q hq => rd_wr_other _ (by simpa using hq) _)
  refine ⟨u, hu, honly, ?_, by rw [hx]⟩
  have hnote : (R.grfSemS t.part i).addr ∉ noteRegs := by
    simp only [noteRegs, R.grfSemS, R.prtErrLog, R.prtErrCount, blkBase, List.mem_cons, List.not_mem_nil, or_false, not_or]
    omega
  rw [semGet, rdf, hregs _ hnote]
  exact semGet_wrf (n := semGet s t.part i + 1) (by omega) ..

/-- Settles O30: the start turns the hearth (`startRun_starts`), and the SEMREL entry at the head of the schedule writes back its semaphore's count
(`semrelOp_releases`). -/
theorem tasksRun : Obligations.TasksRun := by
  unfold Obligations.TasksRun
  refine ⟨fun s h t hh hc hnext hok hm => taskStart_completes hh hc hnext hok hm, ?_⟩
  intro s h t e r hh hc hcur hs hop i hmem hn
  exact semrel_completes hh hc hcur hs hop i rfl hmem hn

end Sys2Proof.Machine

namespace Sys2Proof.Machine

/-! The tasks of a graph engine: which become ready, which count a dependence less (R286, R291). -/

/-- Does a graph in flight let its tasks start: it waits for no other graph and has not failed. -/
def graphGoes (s : State) (p gid : Nat) : Bool := ((graphGet s p gid).map (fun gr => gr.after.isNone && decide (gr.status = 0))).getD false

/-- A task after the tasks of graph `gid` without open dependences have become ready, where the graph goes. -/
def readied (goes : Bool) (gid : Nat) (t : Task) : Task :=
  if goes = true ∧ t.gid = gid ∧ t.place = .waiting ∧ t.deps = 0 then { t with place := .ready } else t

/-- A task of graph `gid` counts one dependence less for each of its entries in a list of successors. -/
def succCounted (gid : Nat) (l : List Nat) (t : Task) : Task := if t.gid = gid then { t with deps := t.deps - l.count t.id } else t

/-- From `s` to `t` nothing changes but graph engines. -/
def GraphsOnly (s t : State) : Prop := t = { s with graphs := t.graphs }

section
variable {s t u : State} {p gid : Nat}

theorem GraphsOnly.trans (h1 : GraphsOnly s t) (h2 : GraphsOnly t u) : GraphsOnly s u := by
  unfold GraphsOnly at *
  rw [h2, h1]

theorem readyUp_only (s : State) (p gid : Nat) : GraphsOnly s (readyUp s p gid) := by
  unfold readyUp
  split
  · rfl
  · split <;> rfl

theorem gget_readyUp (s : State) (p gid : Nat) :
    gget (readyUp s p gid) p = { gget s p with tasks := (gget s p).tasks.map (readied (graphGoes s p gid) gid) } := by
  have hstay : (fun t => readied false gid t) = id := by
    funext t
    simp [readied]
  unfold readyUp graphGoes
  cases hgr : graphGet s p gid with
  | none => simp [hstay]
  | some gr =>
    by_cases hgo : gr.after.isNone ∧ gr.status = 0
    · simp [hgo, readied, Option.isNone_iff_eq_none.1 hgo.1]
    · have hwait : (gr.after.isSome || gr.status ≠ 0) = true := by
        cases ha : gr.after <;> simp_all
      have hgo' : (gr.after.isNone && decide (gr.status = 0)) = false := by simpa using hgo
      simp only [hwait, if_true, Option.map_some, Option.getD_some, hgo', hstay, List.map_id]

theorem succCounted_nil (gid : Nat) : succCounted gid [] = id := by
  funext t
  simp [succCounted]

/-- A task of graph `gid` counts one dependence less (R291). -/
def depDown (gid : Nat) (t : Task) : Task := if t.gid = gid then { t with deps := t.deps - 1 } else t

theorem succCounted_cons (gid i : Nat) (l : List Nat) :
    succCounted gid (i :: l) = succCounted gid l ∘ fun t => if t.id = i then depDown gid t else t := by
  funext t
  by_cases hi : t.id = i <;> by_cases hg : t.gid = gid
  · simp [succCounted, depDown, hi, hg, Nat.sub_sub, Nat.add_comm]
  · simp [succCounted, depDown, hi, hg]
  · simp [succCounted, hi, hg, Ne.symm hi]
  · simp [succCounted, hi, hg]

/-- The counters of the successors in a list go down in turn. -/
theorem succsCounted (l : List Nat) (s : State) :
    GraphsOnly s (l.foldl (fun s i => taskMod s p i (depDown gid)) s) ∧
    gget (l.foldl (fun s i => taskMod s p i (depDown gid)) s) p = { gget s p with tasks := (gget s p).tasks.map (succCounted gid l) } := by
  induction l generalizing s with
  | nil => exact ⟨rfl, by simp [succCounted_nil]⟩
  | cons i l ih =>
    obtain ⟨hframe, hg⟩ := ih (taskMod s p i (depDown gid))
    have hi : gget (taskMod s p i (depDown gid)) p = tasksMap i (depDown gid) (gget s p) := gget_gmod_same ..
    rw [List.foldl_cons]
    refine ⟨.trans (t := taskMod s p i (depDown gid)) rfl hframe, hg.trans ?_⟩
    rw [hi, succCounted_cons, tasksMap, List.map_map]

theorem succDown_only (s : State) (p gid : Nat) (l : List Nat) : GraphsOnly s (succDown s p gid l) :=
  (succsCounted l s).1.trans (readyUp_only ..)

theorem tasks_succDown (s : State) (p gid : Nat) (l : List Nat) :
    ∃ goes, (gget (succDown s p gid l) p).tasks = (gget s p).tasks.map (readied goes gid ∘ succCounted gid l) := by
  have hready := gget_readyUp (l.foldl (fun s i => taskMod s p i (depDown gid)) s) p gid
  rw [(succsCounted l s).2] at hready
  exact ⟨_, (congrArg GraphEng.tasks hready).trans (List.map_map ..)⟩

theorem readied_keeps (goes : Bool) (t : Task) :
    (readied goes gid t).id = t.id ∧ (readied goes gid t).gid = t.gid ∧ (readied goes gid t).desc = t.desc ∧ (readied goes gid t).deps = t.deps := by
  unfold readied
  split <;> simp

theorem succCounted_keeps (l : List Nat) (t : Task) :
    (succCounted gid l t).id = t.id ∧ (succCounted gid l t).gid = t.gid ∧ (succCounted gid l t).desc = t.desc ∧
    (succCounted gid l t).deps = if t.gid = gid then t.deps - l.count t.id else t.deps := by
  unfold succCounted
  split <;> simp

/-- A graph with a task in flight stays in flight. -/
theorem graphLeave_stays (h : ∃ k ∈ (gget s p).tasks, k.gid = gid) : graphLeave s p gid = s := by
  have hany : (gget s p).tasks.any (fun t => t.gid = gid) = true := by simpa using h
  unfold graphLeave
  split
  · rfl
  · exact if_pos hany

end

/-! The completion of a task (R291, R299). -/

/-- From `s` to `t` the DONE_ACTIONs of handles of hearth `h` are done (R142): the hearth keeps its tasks, and the graph engine of partition `p` changes
in its residency map alone (R295). -/
structure ActionsDone (h p : Nat) (s t : State) : Prop extends TaskTurns h [R.fluWastedBytes h] s t where
  tasks : (hget t h).cur = (hget s h).cur ∧ (hget t h).drain = (hget s h).drain
  engine : gget t p = { gget s p with resid := (gget t p).resid }
  qps : t.qps = s.qps

section
variable {h p : Nat} {s t u : State}

theorem ActionsDone.trans (h1 : ActionsDone h p s t) (h2 : ActionsDone h p t u) : ActionsDone h p s u where
  toTaskTurns := h1.toTaskTurns.trans h2.toTaskTurns
  tasks := ⟨h2.tasks.1.trans h1.tasks.1, h2.tasks.2.trans h1.tasks.2⟩
  engine := by
    have e := h2.engine
    rw [h1.engine] at e
    exact e
  qps := h2.qps.trans h1.qps

theorem actionsDone_hput (s : State) (h p : Nat) {x : Hearth} (hc : x.cur = (hget s h).cur) (hd : x.drain = (hget s h).drain) :
    ActionsDone h p s (hput s h x) :=
  ⟨taskTurns_hput _ s h x, by rw [hget_hput_same]; exact ⟨hc, hd⟩, rfl, rfl⟩

theorem actionsDone_wasted (s : State) (h p n : Nat) : ActionsDone h p s (wasted s h n) := by
  unfold wasted
  split
  · exact ⟨.refl h _ s, ⟨rfl, rfl⟩, rfl, rfl⟩
  · exact ⟨taskTurns_bump h s _ List.mem_cons_self n 64, by simp, by simp, by simp⟩

theorem actionsDone_resid (s : State) (h p : Nat) (f : GraphEng → List (Nat × Nat × Nat)) :
    ActionsDone h p s (gmod s p (fun g => { g with resid := f g })) :=
  ⟨taskTurns_gmod h _ s p _, ⟨rfl, rfl⟩, by rw [gget_gmod_same], rfl⟩

theorem doneActions_done (s : State) (p h own : Nat) (bufs : List Bound) : ActionsDone h p s (doneActions s p h own bufs) := by
  unfold doneActions
  generalize ownedBy (hget s h).spd own = l
  have hstart : ActionsDone h p s (hmod s h (fun x => { x with spd := { x.spd with ues := [] } })) := actionsDone_hput s h p rfl rfl
  generalize hmod s h _ = w at hstart
  induction l generalizing w with
  | nil => exact hstart
  | cons i l ih =>
    refine ih _ (hstart.trans ?_)
    refine .trans (.trans (actionsDone_hput w h p ?_ ?_) (actionsDone_wasted _ h p _)) (actionsDone_resid _ h p _)
    all_goals dsimp only; split <;> rfl

end

/-- A hearth that task `r` has left, when its handles are done with (R291). -/
def hearthLeft (x : Hearth) (r : TaskRun) : Hearth :=
  let out (o : Option TaskRun) : Option TaskRun := o.bind (fun u => if u.id = r.id then none else some u)
  let vec := { x.vec with tq := x.vec.tq.filter (fun e => e.own ≠ r.id), resv := x.vec.resv.filter (fun e => e.own ≠ r.id) }
  (List.range 10).foldl (fun x e => engShift x e (fun st => st.own = r.id))
    { x with cur := out x.cur, drain := out x.drain, vec := vec, prevCycles := tdCycles r.desc }

theorem hearthLeft_cur {x : Hearth} {r : TaskRun} (hcur : x.cur = some r) : (hearthLeft x r).cur = none := by
  have hshift : EnginesTurn _ (hearthLeft x r) := enginesShift_turn (fun _ _ st => st.own = r.id) _ _
  rw [hshift]
  simp [hcur]

/-- The TASK record of a task that completes (R310). -/
def doneRec (s : State) (r : TaskRun) (t : Task) : Rec := taskRec t 0 (r.cvt + 32 * r.sat) (coreNow s - r.start)

/-- The state when task `r` has left hearth `h`: its record is pushed when CR_EN asks for one. -/
def taskRecorded (s : State) (h : Nat) (r : TaskRun) (t : Task) (gr : Graph) : State :=
  let s1 := doneActions s r.part h r.id r.bufs
  let s2 := hput s1 h (hearthLeft (hget s1 h) r)
  if tdCrEn t.desc then recPush s2 gr.qp (doneRec s r t) else s2

/-- The state when the task is counted and has left flight, and its successors count one dependence less. -/
def taskLeft (s : State) (h : Nat) (r : TaskRun) (t : Task) (gr : Graph) : State :=
  succDown (taskDrop (grfBump (taskRecorded s h r t gr) r.part (R.grfTasksDone r.part) 1) r.part t.id) r.part t.gid t.succ

/-- The hypotheses of a completion: task `t` of graph `gr`, no suspect, runs alone on hearth `h` as `r`, its work done, and another task of its graph is
in flight. -/
structure TaskEnds (s : State) (h : Nat) (r : TaskRun) (t : Task) (gr : Graph) : Prop where
  cur : (hget s h).cur = some r
  done : completes (hget s h) r = true
  sems : r.sems = []
  att : r.att = 0
  task : taskGet s r.part r.id = some t
  graph : graphGet s r.part t.gid = some gr
  status : gr.status = 0
  sus : t.sus = none
  room : tdCrEn t.desc = true → recRoom s gr.qp = true
  another : ∃ k ∈ (gget s r.part).tasks, k.gid = t.gid ∧ k.id ≠ t.id

/-- The registers that a completion changes. -/
def doneRegs (h p : Nat) : List Reg := [R.fluWastedBytes h, R.grfTasksDone p]

section
variable {s : State} {h : Nat} {r : TaskRun} {t : Task} {gr : Graph}

/-- What holds when the record of a task that completes is pushed. -/
structure Recorded (s : State) (h : Nat) (r : TaskRun) (t : Task) (gr : Graph) (v : State) : Prop extends TaskTurns h [R.fluWastedBytes h] s v where
  cur : (hget s h).cur = some r → (hget v h).cur = none
  tasks : (gget v r.part).tasks = (gget s r.part).tasks
  recs : (qpGet v gr.qp).recs = (qpGet s gr.qp).recs ++ if tdCrEn t.desc then [doneRec s r t] else []

theorem taskRecorded_recorded (s : State) (h : Nat) (r : TaskRun) (t : Task) (gr : Graph) : Recorded s h r t gr (taskRecorded s h r t gr) := by
  have hdone := doneActions_done s r.part h r.id r.bufs
  unfold taskRecorded
  generalize doneActions s r.part h r.id r.bufs = w at hdone
  have hleft : (hget s h).cur = some r → (hget (hput w h (hearthLeft (hget w h) r)) h).cur = none := fun hcur =>
    (congrArg Hearth.cur (hget_hput_same ..)).trans (hearthLeft_cur (hdone.tasks.1.trans hcur))
  have hturns := hdone.toTaskTurns.trans (taskTurns_hput _ w h (hearthLeft (hget w h) r))
  have htasks : (gget w r.part).tasks = (gget s r.part).tasks := by rw [hdone.engine]
  have hold : (qpGet (hput w h (hearthLeft (hget w h) r)) gr.qp).recs = (qpGet s gr.qp).recs := congrArg QPair.recs (qpGet_congr hdone.qps gr.qp)
  dsimp only
  cases hcr : tdCrEn t.desc with
  | true => exact ⟨hturns.trans (taskTurns_recPush ..), hleft, htasks, by simp [recs_recPush, hold, hcr]⟩
  | false => exact ⟨hturns, hleft, htasks, by simp [hold, hcr]⟩

/-- What a task's completion leaves, when its successors count one dependence less. -/
structure Left (s : State) (h : Nat) (r : TaskRun) (t : Task) (gr : Graph) (v : State) : Prop extends TaskTurns h (doneRegs h r.part) s v where
  cur : (hget s h).cur = some r → (hget v h).cur = none
  tasks : ∃ goes, (gget v r.part).tasks = ((gget s r.part).tasks.filter (fun k => k.id ≠ t.id)).map (readied goes t.gid ∘ succCounted t.gid t.succ)
  recs : (qpGet v gr.qp).recs = (qpGet s gr.qp).recs ++ if tdCrEn t.desc then [doneRec s r t] else []
  counts : rd v (R.grfTasksDone r.part) = if bit (rd s (R.grfCtrl r.part)) 0 then rd s (R.grfTasksDone r.part) else
    (rd s (R.grfTasksDone r.part) + 1) % 2 ^ 48

theorem TaskTurns.mono {rs rs' : List Reg} {v : State} (h1 : TaskTurns h rs s v) (hsub : rs ⊆ rs') : TaskTurns h rs' s v :=
  ⟨h1.run, h1.other, fun q hq => h1.regs q fun hm => hq (List.map_subset _ hsub hm)⟩

theorem GraphsOnly.turns {v : State} (hv : GraphsOnly s v) (h : Nat) (rs : List Reg) : TaskTurns h rs s v := by
  rw [hv]
  exact ⟨rfl, fun _ _ => rfl, fun _ _ => rfl⟩

/-- The registers of a graph engine are none of a hearth's flues. -/
theorem grf_ne_wasted (h p : Nat) : (R.grfCtrl p).addr ≠ (R.fluWastedBytes h).addr ∧ (R.grfTasksDone p).addr ≠ (R.fluWastedBytes h).addr := by
  simp only [R.grfCtrl, R.grfTasksDone, R.fluWastedBytes, blkBase]
  omega

theorem taskLeft_left (s : State) (h : Nat) (r : TaskRun) (t : Task) (gr : Graph) : Left s h r t gr (taskLeft s h r t gr) := by
  have hrec := taskRecorded_recorded s h r t gr
  unfold taskLeft
  generalize taskRecorded s h r t gr = w at hrec
  obtain ⟨goes, htasks⟩ := tasks_succDown (taskDrop (grfBump w r.part (R.grfTasksDone r.part) 1) r.part t.id) r.part t.gid t.succ
  have honly := succDown_only (taskDrop (grfBump w r.part (R.grfTasksDone r.part) 1) r.part t.id) r.part t.gid t.succ
  generalize succDown _ r.part t.gid t.succ = v at *
  have hcount : TaskTurns h (doneRegs h r.part) w (grfBump w r.part (R.grfTasksDone r.part) 1) :=
    taskTurns_bump h w _ (by simp [doneRegs]) 1 48
  obtain ⟨hctrl, hdone⟩ := grf_ne_wasted h r.part
  refine ⟨((hrec.toTaskTurns.mono (by simp [doneRegs])).trans hcount).trans (.trans (taskTurns_gmod ..) (honly.turns ..)), fun hcur => ?_, ⟨goes, ?_⟩, ?_, ?_⟩
  · rw [honly]
    exact (congrArg Hearth.cur (hget_bump ..)).trans (hrec.cur hcur)
  · rw [htasks, ← hrec.tasks]
    simp [taskDrop, grfBump]
  · rw [honly, ← hrec.recs]
    exact congrArg QPair.recs (qpGet_bump ..)
  · rw [honly, ← hrec.regs _ (by simpa using hctrl), ← hrec.regs _ (by simpa using hdone)]
    exact rd_bump_same ..

theorem taskCompleteOp_leaves (he : TaskEnds s h r t gr) : taskCompleteOp s h false = taskLeft s h r t gr := by
  have hid := taskGet_id he.task
  have hroom : (tdCrEn t.desc && !recRoom s gr.qp) = false := by
    cases hcr : tdCrEn t.desc with
    | false => rfl
    | true => simp [he.room hcr]
  have hcomplete : complete s h r t gr = graphLeave (taskLeft s h r t gr) r.part t.gid := by
    simp only [complete, he.status, he.att, verdict, he.sus, if_true]
    rfl
  have hstays : ∃ k ∈ (gget (taskLeft s h r t gr) r.part).tasks, k.gid = t.gid := by
    obtain ⟨goes, htasks⟩ := (taskLeft_left s h r t gr).tasks
    obtain ⟨k, hk, hgid, hne⟩ := he.another
    refine ⟨_, htasks ▸ List.mem_map_of_mem (List.mem_filter.2 ⟨hk, by simpa using hne⟩), ?_⟩
    rw [Function.comp, (readied_keeps ..).2.1, (succCounted_keeps ..).2.1, hgid]
  simp only [taskCompleteOp, Bool.false_eq_true, if_false, he.cur, he.done, he.sems, List.isEmpty_nil, Bool.not_true, he.task, he.graph, hroom]
  rw [hcomplete, graphLeave_stays hstays]

theorem TaskEnds.quiet (he : TaskEnds s h r t gr) : TaskEnds (Machine.quiet s) h r t gr :=
  ⟨he.cur, he.done, he.sems, he.att, he.task, he.graph, he.status, he.sus, he.room, he.another⟩

end

/-- Settles O31: the completion leads to `taskLeft`, whose graph stays in flight with its other task (`taskCompleteOp_leaves`), and what that state holds
is gathered in `taskLeft_left`. -/
theorem tasksComplete : Obligations.TasksComplete := by
  unfold Obligations.TasksComplete
  intro s h r t gr hh hc hcur _ hdone hsems hatt htask hgraph hstatus hsus hroom hanother
  have hop := taskCompleteOp_leaves (TaskEnds.quiet ⟨hcur, hdone, hsems, hatt, htask, hgraph, hstatus, hsus, hroom, hanother⟩)
  have hleft := taskLeft_left (quiet s) h r t gr
  generalize taskLeft (quiet s) h r t gr = v at hop hleft
  obtain ⟨u, hu, hf⟩ := lead_act (f := fun s => taskCompleteOp s h false) hc hh hop (hleft.run.calm hc.quiet)
  obtain ⟨goes, htasks⟩ := hleft.tasks
  refine ⟨u, hu, ?_, fun k hk => ?_, fun k hk hne => ⟨readied goes t.gid (succCounted t.gid t.succ k), ?_, ?_⟩, ?_, fun hfrz => ?_⟩
  · rw [hf.hget]
    exact hleft.cur hcur
  · rw [hf.gget, htasks] at hk
    obtain ⟨k0, hk0, rfl⟩ := List.mem_map.1 hk
    rw [Function.comp, (readied_keeps ..).1, (succCounted_keeps ..).1]
    simpa using (List.mem_filter.1 hk0).2
  · rw [hf.gget, htasks]
    exact List.mem_map_of_mem (List.mem_filter.2 ⟨hk, by simpa using hne⟩)
  · obtain ⟨hid, -, hdesc, hdeps⟩ := readied_keeps (gid := t.gid) goes (succCounted t.gid t.succ k)
    obtain ⟨hid', -, hdesc', hdeps'⟩ := succCounted_keeps (gid := t.gid) t.succ k
    exact ⟨hid.trans hid', hdesc.trans hdesc', hdeps.trans hdeps'⟩
  · rw [hf.qpGet]
    exact hleft.recs
  · rw [hf.rd _ (by simp only [noteRegs, R.grfTasksDone, R.prtErrLog, R.prtErrCount, blkBase, List.mem_cons, List.not_mem_nil, or_false, not_or]; omega),
      hleft.counts, rd_quiet, hfrz]
    rfl

end Sys2Proof.Machine

namespace Sys2Proof.Machine

/-! Mixed steps (R314, R315, R318). -/

/-- A graph engine whose next mixed step is formed by graph `gid`: `rest` stays in the queue of items. -/
def stepTaken (gid : Nat) (rest : List MixItem) (g : GraphEng) : GraphEng :=
  { g with mixq := rest, step := (g.step + 1) % 2 ^ 32, mixRun := g.mixRun ++ [(g.step, gid)], mixLast := some gid }

/-- A mixed step whose table has been written in `w`: it is counted and its record is pushed. -/
def stepRecorded (w : State) (p gid pad q : Nat) (rest : List MixItem) (rec : Rec) : State :=
  recPush (grfBump (grfBump (gmod w p (stepTaken gid rest)) p (R.grfMixSteps p) 1) p (R.grfMixPadRows p) pad) q rec

/-- A mixed step is formed: its graph joins the load queue. -/
def stepFormed (w : State) (p gid pad : Nat) (rest : List MixItem) (rec : Rec) (r : LoadReq) : State :=
  gmod (stepRecorded w p gid pad r.qp rest rec) p (fun g => { g with loadq := g.loadq ++ [r] })

section
variable {w : State} {p gid pad : Nat} {rest : List MixItem} {rec : Rec}

theorem gget_stepRecorded (w : State) (p gid pad q : Nat) (rest : List MixItem) (rec : Rec) :
    gget (stepRecorded w p gid pad q rest rec) p = stepTaken gid rest (gget w p) := by
  simp [stepRecorded, recPush, grfBump]

/-- A step whose graph finds the load queue with room. -/
theorem step_enqueued (hroom : loadLen (gget w p) < 64) (r : LoadReq) :
    graphEnqueue (stepRecorded w p gid pad r.qp rest rec) p r = stepFormed w p gid pad rest rec r := by
  refine if_neg (Nat.not_le.2 ?_)
  rw [gget_stepRecorded]
  exact hroom

theorem gget_stepFormed (w : State) (p gid pad : Nat) (rest : List MixItem) (rec : Rec) (r : LoadReq) :
    gget (stepFormed w p gid pad rest rec r) p = { stepTaken gid rest (gget w p) with loadq := (gget w p).loadq ++ [r] } := by
  rw [stepFormed, gget_gmod_same, gget_stepRecorded]
  rfl

theorem recs_stepFormed (w : State) (p gid pad : Nat) (rest : List MixItem) (rec : Rec) (r : LoadReq) :
    (qpGet (stepFormed w p gid pad rest rec r) r.qp).recs = (qpGet w r.qp).recs ++ [rec] := by
  simp [stepFormed, stepRecorded, recs_recPush, grfBump]

end

theorem stepFormed_runs (w : State) (p gid pad : Nat) (rest : List MixItem) (rec : Rec) (r : LoadReq) :
    GraphsRun w (stepFormed w p gid pad rest rec r) := by
  have htaken : GraphsRun w (gmod w p (stepTaken gid rest)) := rfl
  exact ((htaken.trans (graphsRun_bump ..)).trans (graphsRun_bump ..)).trans (rfl : GraphsRun _ (stepFormed w p gid pad rest rec r))

/-- A step whose reads find what they ask for is formed. -/
theorem mixStepOp_forms {s w w1 w2 w3 : State} {p i c hva rva gid : Nat} {rows : List (List Byte)} {st : WrRes} {close : MixItem}
    {dec pre : Nat × List MixItem × List MixItem} (hi : lfind (gget s p).mixq (fun i => mxKind i.bits = 2) = some i)
    (hclose : (lget (gget s p).mixq i).getD ⟨0, 0⟩ = close) (hen : bit (rd s (R.grfMixCfg p)) 26 = true) (hhalt : (gget s p).mixHalt = false)
    (hrun : ∀ e ∈ (gget s p).mixRun, (e.1 + 2) % 2 ^ 32 ≠ (gget s p).step)
    (hdec : mixDecode ((gget s p).mixq.take i) 0 (bits (rd s (R.grfMixCfg p)) 13 13) false = dec)
    (hpre : mixPrefill dec.2.2 dec.1 (bits (rd s (R.grfMixCfg p)) 0 13) (bits (rd s (R.grfMixCfg p)) 13 13) false = pre) (hne : pre.1 ≠ 0)
    (hvar : mixVariant s p ((gget s p).step % 2) pre.1 0 16 = (some (c, hva, rva), w)) (hrows : mixRows w p (dec.2.1 ++ pre.2.1) = (rows, w1))
    (hput : vaPut w1 p rva (rows ++ List.replicate (32 * (c + 1) - pre.1) (mixRow 0 0 false false)).flatten = (st, w2))
    (hid : headerId w2 p hva = (some gid, w3)) (hroom : loadLen (gget w3 p) < 64) :
    mixStepOp s p = stepFormed w3 p gid (32 * (c + 1) - pre.1) (pre.2.2 ++ (gget s p).mixq.drop (i + 1))
      ⟨4, gid, (gget s p).step % 65536, 0, 0, 0, 0, 0, 0, pre.1 + fieldAt 16 13 (dec.2.1 ++ pre.2.1).length, 0, none, none⟩
      ⟨close.qp, hva, [], some (gget s p).step, (gget s p).mixLast, none⟩ := by
  have hfree : (gget s p).mixRun.any (fun e => (e.1 + 2) % 2 ^ 32 = (gget s p).step) = false := by simpa using hrun
  have hroom' : ¬ 64 ≤ loadLen (stepTaken gid (pre.2.2 ++ (gget s p).mixq.drop (i + 1)) (gget w3 p)) := Nat.not_le.2 hroom
  rw [← step_enqueued hroom]
  simp only [mixStepOp, hi, hclose, hen, hhalt, hfree, hdec, hpre, hne, hvar, hrows, hput, hid, Bool.not_true, Bool.or_false, Bool.false_eq_true, if_false,
    Option.getD_some]
  refine (if_neg ?_).trans rfl
  exact (gget_stepRecorded w3 p gid _ close.qp _ _) ▸ hroom'

theorem mixTableWrite_completes {s : State} {p va : Nat} (hp : p < 16) (hc : Calm s) (hrun : (gget s p).mixRun = []) (hva : va % 16 = 0)
    (hlt : va < 2 ^ 48) :
    Completes (.grfMixTableWrite p va) s (fun u => rd u (R.grfMixTable p) = va ∧ gget u p = { gget s p with mixHalt := false } ∧
      SameRegs s u [R.grfMixTable p]) := by
  have hop : mixTableOp (quiet s) p va = wr (gput (quiet s) p { gget s p with mixHalt := false }) (R.grfMixTable p) va := by
    have hrefuse : (!(gget s p).mixRun.isEmpty || va % 16 ≠ 0 || 2 ^ 48 ≤ va) = false := by
      simpa [hrun, hva] using hlt
    simp only [mixTableOp, gget_quiet, hrefuse, Bool.false_eq_true, if_false]
  have hgraphs : GraphsRun (quiet s) (wr (gput (quiet s) p { gget s p with mixHalt := false }) (R.grfMixTable p) va) := rfl
  have hnote : (R.grfMixTable p).addr ∉ noteRegs := by
    simp only [noteRegs, R.grfMixTable, R.prtErrLog, R.prtErrCount, blkBase, List.mem_cons, List.not_mem_nil, or_false, not_or]
    omega
  obtain ⟨u, hu, hf⟩ := lead_stk (f := fun s => mixTableOp s p va) hc hp hop (hgraphs.calm hc.quiet)
  refine ⟨u, hu, (hf.rd _ hnote).trans (rd_wr_same ..), (hf.gget p).trans (gget_gput_same ..), hgraphs.sameRegs hf fun r hr => ?_⟩
  exact rd_wr_other _ (by simpa using hr) _

/-- Settles O33: with each read of the step as assumed, the step is formed (`stepFormed`); the table's address is a register write that ends HALT
(`mixTableWrite_completes`). -/
theorem mixedSteps : Obligations.MixedSteps := by
  unfold Obligations.MixedSteps
  refine ⟨?formed, fun s p va hp hc hrun hva hlt => mixTableWrite_completes hp hc hrun hva hlt⟩
  intro s w w1 w2 w3 p i c hva rva gid rows st hp hc g cfg hi hen hhalt hrun dec pre close items pad hne hvar hrows hput hid hcw hgraphs hqps hroom
  have hg : gget w3 p = g := gget_congr hgraphs p
  have hop := mixStepOp_forms (s := quiet s) hi rfl hen hhalt hrun rfl rfl hne hvar hrows hput hid (hg.symm ▸ hroom)
  obtain ⟨u, hu, hf⟩ := lead_act (f := fun s => mixStepOp s p) hc hp hop ((stepFormed_runs ..).calm hcw)
  have hengine := (hf.gget p).trans (gget_stepFormed ..)
  rw [hg] at hengine
  refine ⟨u, hu, congrArg GraphEng.step hengine, congrArg GraphEng.mixq hengine, congrArg GraphEng.mixRun hengine, congrArg GraphEng.loadq hengine, ?_⟩
  rw [hf.qpGet, ← qpGet_congr hqps close.qp]
  exact recs_stepFormed ..

end Sys2Proof.Machine

namespace Sys2Proof.Machine

/-! The load of a graph (R285). -/

/-- The graph for which a graph with header `hd` waits, while that one is in flight (R285). -/
def awaitedGraph (s : State) (p hd : Nat) : Option Nat :=
  (if ghAfterEn hd then some (ghAfter hd) else none).bind (fun a => if (gget s p).graphs.any (fun x => x.id = a) then some a else none)

theorem awaitedGraph_eq (s : State) (p hd : Nat) :
    awaitedGraph s p hd = if ghAfterEn hd = true ∧ ∃ x ∈ (gget s p).graphs, x.id = ghAfter hd then some (ghAfter hd) else none := by
  unfold awaitedGraph
  cases ghAfterEn hd <;> simp

/-- A graph with header `hd` that passes its checks, loaded for request `r` at time `t`. -/
def soundGraph (w : State) (p hd t : Nat) (r : LoadReq) (l : List (Nat × List Nat)) (mcg : List Nat) : Graph :=
  ⟨ghId hd, r.qp, ghPrio hd, ghUrgent hd, awaitedGraph w p hd, 0, 0, 0, t, r.dels, mcg, l, none, r.acc⟩

theorem graphLoadOp_loads {s w1 w2 w3 : State} {p : Nat} {r : LoadReq} {rest : List LoadReq} {bs : List Byte} {ue : Bool}
    {l : List (Nat × List Nat)} {mcg : List Nat} (hfree : (gget s p).loaded = none) (hq : (gget s p).loadq = r :: rest) (hmix : r.mix = none)
    (hhead : vaGet (gput s p { gget s p with loadq := rest }) p r.va 64 false = (some bs, ue, w1)) {hd : Nat} (hhd : descBits bs = hd)
    (hbad : ghBad hd = false) (halign : r.va % 64 = 0) (hdescs : loadDescs w1 p (ghTaskVa hd) (ghTasks hd) = (.ok l, w2))
    (hmcg : loadMcg w2 p (ghMcgVa hd) (ghMcgCount hd) = (.ok mcg, w3)) (hwhole : graphWhole l mcg = true)
    (hids : ∀ x ∈ (gget w3 p).graphs, x.id ≠ ghId hd) :
    graphLoadOp s p = gmod w3 p (fun g => { g with loaded := some (soundGraph w3 p hd (telNow s) r l mcg) }) := by
  have hnew : (gget w3 p).graphs.any (fun x => x.id = ghId hd) = false := by simpa using hids
  simp only [hfree] at hhead
  simp only [graphLoadOp, hfree, hq, hmix, hhead, hhd, hbad, halign, hdescs, hmcg, hwhole, hnew, ne_eq, not_true_eq_false, decide_false, Bool.or_self,
    Bool.not_true, Bool.false_eq_true, if_false, Option.isSome_none]
  rfl

/-! The activation of a graph (R286). -/

theorem memoryServed_mcgSet (s : State) (p e : Nat) : MemoryServed s (mcgSet s p e) := by
  have hanew : MemoryServed s { s with mcast := tdel s.mcast (mcKey p (bits e 40 8)) } := rfl
  refine hanew.trans (.foldl (fun sl w => ?_) _ _)
  rfl

/-- The entry of a multicast list stands in all four slices (R205). -/
theorem rd_mcgSet (s : State) (p e : Nat) {sl : Nat} (hsl : sl < 4) :
    rd (mcgSet s p e) (R.chmMcgPG sl p (bits e 40 8)) = bits e 0 40 := by
  have hother : ∀ a b : Nat, a ≠ b → (R.chmMcgPG a p (bits e 40 8)).addr ≠ (R.chmMcgPG b p (bits e 40 8)).addr := by
    intro a b hab
    simp only [R.chmMcgPG, blkBase]
    omega
  have hkeeps : ∀ (w : State) (f : Slice → Slice) (k : Nat) (q : Reg), rd (slMod w k f) q = rd w q := fun _ _ _ _ => rfl
  simp only [mcgSet, List.foldl_cons, List.foldl_nil]
  interval_cases sl
  · rw [rd_wr_other _ (hother 0 3 (by decide)), hkeeps, rd_wr_other _ (hother 0 2 (by decide)), hkeeps, rd_wr_other _ (hother 0 1 (by decide)), hkeeps,
      rd_wr_same]
  · rw [rd_wr_other _ (hother 1 3 (by decide)), hkeeps, rd_wr_other _ (hother 1 2 (by decide)), hkeeps, rd_wr_same]
  · rw [rd_wr_other _ (hother 2 3 (by decide)), hkeeps, rd_wr_same]
  · rw [rd_wr_same]

/-- A task of a graph that takes its slots: the descriptor at `z.2` of its list (R286). -/
def taskTaken (gr : Graph) (z : (Nat × List Nat) × Nat) : Task :=
  ⟨tdId z.1.1, gr.id, z.2, z.1.1, z.1.2, tdDeps z.1.1, .waiting, gr.prio, gr.urgent, 0, 0, 0, 0, 0, [], none, 0⟩

/-- A task that has taken its slot is ready where it has no predecessors and its graph goes. -/
theorem taskTaken_readied (gr : Graph) (z : (Nat × List Nat) × Nat) :
    let t := readied (gr.after.isNone && decide (gr.status = 0)) gr.id (taskTaken gr z)
    t.id = tdId z.1.1 ∧ t.gid = gr.id ∧ t.desc = z.1.1 ∧ t.succ = z.1.2 ∧ t.deps = tdDeps z.1.1 ∧
    t.place = if gr.after = none ∧ gr.status = 0 ∧ tdDeps z.1.1 = 0 then .ready else .waiting := by
  by_cases hgo : gr.after = none ∧ gr.status = 0 ∧ tdDeps z.1.1 = 0
  · obtain ⟨hafter, hstatus, hdeps⟩ := hgo
    simp [readied, taskTaken, hafter, hstatus, hdeps]
  · simp [readied, taskTaken, and_assoc, hgo]

/-- A graph engine whose loaded graph takes its slots. -/
def slotsTaken (gr : Graph) (g : GraphEng) : GraphEng :=
  { g with loaded := none, graphs := g.graphs ++ [{ gr with tasks := [], mcg := [] }], tasks := g.tasks ++ gr.tasks.zipIdx.map (taskTaken gr) }

/-- The state in which graph `gr` has taken its slots. -/
def graphTakesSlots (s : State) (p : Nat) (gr : Graph) : State :=
  readyUp (gmod (gr.mcg.foldl (fun s e => mcgSet s p e) s) p (slotsTaken gr)) p gr.id

theorem graphActivateOp_takes {s : State} {p : Nat} {gr : Graph} (hload : (gget s p).loaded = some gr)
    (hfree : ∀ t ∈ (gget s p).tasks, ∀ e ∈ gr.tasks, t.id ≠ tdId e.1) (hleft : ∀ e ∈ gr.mcg, (mcGet s p (bits e 40 8)).joined = []) :
    graphActivateOp s p = graphTakesSlots s p gr := by
  have hbusy : (gget s p).tasks.any (fun t => (gr.tasks.map (fun e => tdId e.1)).contains t.id) = false := by
    simp only [List.any_eq_false, List.contains_iff_mem, List.mem_map, not_exists, not_and]
    exact fun t ht e he heq => hfree t ht e he heq.symm
  have hjoined : gr.mcg.any (fun e => !(mcGet s p (bits e 40 8)).joined.isEmpty) = false := by
    simpa using hleft
  simp only [graphActivateOp, hload, hbusy, hjoined, Bool.or_self, Bool.false_eq_true, if_false]
  rfl

theorem graphGoes_taken {w : State} {p : Nat} {gr : Graph} (hids : ∀ x ∈ (gget w p).graphs, x.id ≠ gr.id) :
    graphGoes (gmod w p (slotsTaken gr)) p gr.id = (gr.after.isNone && decide (gr.status = 0)) := by
  have hnone : (gget w p).graphs.find? (fun x => x.id = gr.id) = none := by simpa using hids
  simp [graphGoes, graphGet, slotsTaken, hnone]

/-- What holds when a graph has taken its slots, but for its multicast groups. -/
theorem gget_graphTakesSlots {s : State} {p : Nat} {gr : Graph} (hids : ∀ x ∈ (gget s p).graphs, x.id ≠ gr.id) :
    gget (graphTakesSlots s p gr) p = { slotsTaken gr (gget s p) with
      tasks := (slotsTaken gr (gget s p)).tasks.map (readied (gr.after.isNone && decide (gr.status = 0)) gr.id) } := by
  have hserved : MemoryServed s (gr.mcg.foldl (fun s e => mcgSet s p e) s) := .foldl (fun e w => memoryServed_mcgSet w p e) _ s
  have hg : gget (gr.mcg.foldl (fun s e => mcgSet s p e) s) p = gget s p := by
    rw [hserved]
    rfl
  rw [graphTakesSlots, gget_readyUp, graphGoes_taken (hg.symm ▸ hids), gget_gmod_same, hg]

theorem graphTakesSlots_calm {s : State} (hc : Calm s) (p : Nat) (gr : Graph) : Calm (graphTakesSlots s p gr) := by
  have hserved : MemoryServed s (gr.mcg.foldl (fun s e => mcgSet s p e) s) := .foldl (fun e w => memoryServed_mcgSet w p e) _ s
  have honly : GraphsOnly (gr.mcg.foldl (fun s e => mcgSet s p e) s) (graphTakesSlots s p gr) :=
    .trans (t := gmod (gr.mcg.foldl (fun s e => mcgSet s p e) s) p (slotsTaken gr)) rfl (readyUp_only ..)
  rw [honly]
  exact (hserved.calm hc).of rfl rfl rfl rfl rfl rfl rfl

theorem rd_graphTakesSlots (s : State) (p : Nat) (gr : Graph) (r : Reg) :
    rd (graphTakesSlots s p gr) r = rd (gr.mcg.foldl (fun s e => mcgSet s p e) s) r := by
  rw [graphTakesSlots, readyUp_only (gmod (gr.mcg.foldl (fun s e => mcgSet s p e) s) p (slotsTaken gr)) p gr.id]
  rfl

theorem chmMcgPG_notNoted {sl p g : Nat} (hp : p < 16) (hg : g < 256) : (R.chmMcgPG sl p g).addr ∉ noteRegs := by
  simp only [noteRegs, R.chmMcgPG, R.prtErrLog, R.prtErrCount, blkBase, List.mem_cons, List.not_mem_nil, or_false, not_or]
  omega

theorem graphActivate_completes {s : State} {p : Nat} {gr : Graph} (hp : p < 16) (hc : Calm s) (hload : (gget s p).loaded = some gr)
    (hids : ∀ x ∈ (gget s p).graphs, x.id ≠ gr.id) (hfree : ∀ t ∈ (gget s p).tasks, ∀ e ∈ gr.tasks, t.id ≠ tdId e.1)
    (hleft : ∀ e ∈ gr.mcg, (mcGet s p (bits e 40 8)).joined = []) :
    Completes (.graphActivate p) s (fun u => (gget u p).loaded = none ∧
      (gget u p).graphs = (gget s p).graphs ++ [{ gr with tasks := [], mcg := [] }] ∧
      (∀ e ∈ gr.tasks, ∃ t ∈ (gget u p).tasks, t.id = tdId e.1 ∧ t.gid = gr.id ∧ t.desc = e.1 ∧ t.succ = e.2 ∧ t.deps = tdDeps e.1 ∧
        t.place = if gr.after = none ∧ gr.status = 0 ∧ tdDeps e.1 = 0 then .ready else .waiting) ∧
      (∀ e, gr.mcg = [e] → ∀ sl, sl < 4 → rd u (R.chmMcgPG sl p (bits e 40 8)) = bits e 0 40)) := by
  obtain ⟨u, hu, hf⟩ := lead_act (f := fun s => graphActivateOp s p) hc hp (graphActivateOp_takes (s := quiet s) hload hfree hleft)
    (graphTakesSlots_calm hc.quiet p gr)
  have hengine := (hf.gget p).trans (gget_graphTakesSlots (s := quiet s) hids)
  refine ⟨u, hu, congrArg GraphEng.loaded hengine, congrArg GraphEng.graphs hengine, fun e he => ?_, fun e he sl hsl => ?_⟩
  · obtain ⟨z, hz, rfl⟩ := List.mem_map.1 ((List.zipIdx_map_fst 0 gr.tasks).symm ▸ he)
    refine ⟨readied (gr.after.isNone && decide (gr.status = 0)) gr.id (taskTaken gr z), ?_, ?_⟩
    · rw [hengine]
      exact List.mem_map_of_mem (List.mem_append_right _ (List.mem_map_of_mem hz))
    · exact taskTaken_readied gr z
  · rw [hf.rd _ (chmMcgPG_notNoted hp (by simp only [bits]; omega)), rd_graphTakesSlots, he, List.foldl_cons, List.foldl_nil]
    exact rd_mcgSet (quiet s) p e hsl

/-- Settles O28: a sound graph is loaded (`graphLoadOp_loads`), and takes its slots when they are free (`graphActivateOp_takes`). -/
theorem graphsLoad : Obligations.GraphsLoad := by
  unfold Obligations.GraphsLoad
  refine ⟨?loads, fun s p gr hp hc hload hids hfree hleft => graphActivate_completes hp hc hload hids hfree hleft⟩
  intro s w1 w2 w3 p r rest bs ue l mcg hp hc hfree hq hmix hhead hd hbad halign hdescs hmcg hwhole hids hcw
  obtain ⟨u, hu, hf⟩ := lead_act (f := fun s => graphLoadOp s p) hc hp
    (graphLoadOp_loads (s := quiet s) hfree hq hmix hhead rfl hbad halign hdescs hmcg hwhole hids) (hcw.of rfl rfl rfl rfl rfl rfl rfl)
  have hengine := (hf.gget p).trans (gget_gmod_same ..)
  exact ⟨u, hu, awaitedGraph w3 p hd, congrArg GraphEng.loaded hengine, awaitedGraph_eq w3 p hd⟩

end Sys2Proof.Machine

/-!
SUPPORT: what the accesses of agents on the base dies change (R577): the memory that serves them, walks of the tables, and reads by virtual address.
-/

namespace Sys2Proof.Machine

/-! What serving an agent changes. -/

/-- A register outside the host port's block. -/
def OffHost (r : Reg) : Prop := r.addr < blkBase .hst 0 ∨ blkBase .prt 0 ≤ r.addr

/-- From `s` to `t` accesses of agents are served: of the device only registers, slices, HBM, the walk cache and the counter of free values change, and
the host port's registers are as they were. An access may have found that it waits. -/
structure AgentServed (s t : State) : Prop where
  eq : t = { s with csr := t.csr, slices := t.slices, hbm := t.hbm, walkCache := t.walkCache, fresh := t.fresh, held := t.held }
  host : ∀ r : Reg, ¬ OffHost r → rd t r = rd s r

section
variable {s t u : State}

theorem AgentServed.refl (s : State) : AgentServed s s := ⟨rfl, fun _ _ => rfl⟩

theorem AgentServed.trans (h1 : AgentServed s t) (h2 : AgentServed t u) : AgentServed s u where
  eq := by
    have e := h2.eq
    rw [h1.eq] at e
    exact e
  host r hr := (h2.host r hr).trans (h1.host r hr)

theorem AgentServed.foldl {α : Type} {f : State → α → State} {l : List α} (hf : ∀ a ∈ l, ∀ w, AgentServed w (f w a)) (s : State) :
    AgentServed s (l.foldl f s) := by
  induction l generalizing s with
  | nil => exact .refl s
  | cons a l ih => exact (hf a (by simp) s).trans (ih (fun b hb => hf b (.tail _ hb)) _)

/-- A fold that gathers values and whose every step serves agents. -/
theorem AgentServed.foldSnd {α β : Type} {f : β × State → α → β × State} (hf : ∀ acc a, AgentServed acc.2 (f acc a).2) (l : List α)
    (acc : β × State) : AgentServed acc.2 (l.foldl f acc).2 := by
  induction l generalizing acc with
  | nil => exact .refl _
  | cons a l ih => exact (hf acc a).trans (ih (f acc a))

theorem offHost_ne {r q : Reg} (hr : OffHost r) (hq : ¬ OffHost q) : q.addr ≠ r.addr := fun h => hq (by rw [OffHost, h]; exact hr)

theorem agentServed_wr {r : Reg} (hr : OffHost r) (s : State) (v : Nat) : AgentServed s (wr s r v) :=
  ⟨rfl, fun _ hq => rd_wr_other s (offHost_ne hr hq) v⟩

theorem agentServed_bump {r : Reg} (hr : OffHost r) (s : State) (frz : Bool) (n w : Nat) : AgentServed s (bump s frz r n w) := by
  unfold bump
  split
  · exact .refl s
  · exact agentServed_wr hr s _

theorem agentServed_logErr {l c : Reg} (hl : OffHost l) (hc : OffHost c) (s : State) (v : Nat) : AgentServed s (logErr s l c v) :=
  ⟨by rw [logErr_eq], fun _ hq => rd_logErr_other s (offHost_ne hl hq) (offHost_ne hc hq) v⟩

theorem agentServed_hold (s : State) : AgentServed s (hold s) := ⟨rfl, fun _ _ => rfl⟩
theorem agentServed_freeBits (s : State) (n : Nat) : AgentServed s (freeBits s n).2 := ⟨rfl, fun _ _ => rfl⟩
theorem agentServed_slPut (s : State) (sl : Nat) (x : Slice) : AgentServed s (slPut s sl x) := ⟨rfl, fun _ _ => rfl⟩
theorem agentServed_slMod (s : State) (sl : Nat) (f : Slice → Slice) : AgentServed s (slMod s sl f) := ⟨rfl, fun _ _ => rfl⟩
theorem agentServed_pcPut (s : State) (k p : Nat) (x : PsCh) : AgentServed s (pcPut s k p x) := ⟨rfl, fun _ _ => rfl⟩
theorem agentServed_stkPut (s : State) (k : Nat) (x : Stack) : AgentServed s (stkPut s k x) := ⟨rfl, fun _ _ => rfl⟩
theorem agentServed_hbm (s : State) (x : Hbm) (n : Nat) : AgentServed s { s with hbm := x, fresh := n } := ⟨rfl, fun _ _ => rfl⟩
theorem agentServed_fresh (s : State) (n : Nat) : AgentServed s { s with fresh := n } := ⟨rfl, fun _ _ => rfl⟩
theorem agentServed_walkCache (s : State) (l : List WalkEnt) : AgentServed s { s with walkCache := l } := ⟨rfl, fun _ _ => rfl⟩
theorem agentServed_injFired (s : State) : AgentServed s (injFired s) := agentServed_wr (.inr (by decide)) s _

theorem agentServed_histCount (s : State) (h t0 : Nat) : AgentServed s (histCount s h t0) :=
  agentServed_bump (.inr (by simp only [R.telHistHB, blkBase]; omega)) ..

end

/-! The controllers of HBM (R234–R242). -/

theorem hbmLoc_k_lt (dead : List Nat) (pa : Nat) : (hbmLoc dead pa).k < 20 := Nat.mod_lt _ (by decide)

theorem hbmLoc_p_lt (dead : List Nat) (pa : Nat) : (hbmLoc dead pa).p < 32 := by
  have hlive : ∀ i, (lget (liveList dead) i).getD 0 < 640 := by
    intro i
    cases h : lget (liveList dead) i with
    | none => decide
    | some x =>
      rw [lget_eq] at h
      have hx := List.mem_of_getElem? h
      simp only [liveList, List.mem_filter, List.mem_range] at hx
      exact hx.1
  exact Nat.div_lt_of_lt_mul (hlive _)

theorem homeSlice_lt (dead : List Nat) (pa : Nat) : homeSlice dead pa < 4 := Nat.div_lt_of_lt_mul (hbmLoc_k_lt dead pa)

section
variable (s : State)

theorem agentServed_memBump {k : Nat} {r : Reg} (hr : OffHost r) (n w : Nat) : AgentServed s (memBump s k r n w) := agentServed_bump hr ..

theorem agentServed_memErr (pa kind : Nat) (part : Option Nat) (src : Nat) : AgentServed s (memErr s pa kind part src) := by
  have hk := hbmLoc_k_lt s.hbm.dead pa
  refine agentServed_logErr (.inl ?_) (.inl ?_) ..
  all_goals simp only [R.memErrLog, R.memErrCount, blkBase]; omega

theorem agentServed_fenceAccess (pa : Nat) (part : Option Nat) (src : Nat) : AgentServed s (fenceAccess s pa part src) := by
  unfold fenceAccess
  dsimp only
  split
  · exact .refl s
  · exact (agentServed_pcPut ..).trans (agentServed_memErr ..)

theorem agentServed_ueGranule (pa : Nat) : AgentServed s (ueGranule s pa) := by
  unfold ueGranule
  dsimp only
  split
  · exact .refl s
  · exact agentServed_pcPut ..

theorem agentServed_memUe (pa : Nat) (part : Option Nat) (src : Nat) : AgentServed s (memUe s pa part src) := by
  have hk := hbmLoc_k_lt s.hbm.dead pa
  have hp := hbmLoc_p_lt s.hbm.dead pa
  unfold memUe
  dsimp only
  refine ((agentServed_memBump s (.inl ?_) _ _).trans (agentServed_memErr ..)).trans (agentServed_ueGranule ..)
  simp only [R.memUeCountP, blkBase]
  omega

theorem agentServed_memCe (pa : Nat) (two : Bool) (syn : Nat) (patrol : Bool) : AgentServed s (memCe s pa two syn patrol) := by
  have hk := hbmLoc_k_lt s.hbm.dead pa
  have hp := hbmLoc_p_lt s.hbm.dead pa
  have hcount : OffHost (R.memCeCountP (hbmLoc s.hbm.dead pa).k (hbmLoc s.hbm.dead pa).p) := .inl (by simp only [R.memCeCountP, blkBase]; omega)
  have hlog : OffHost (R.memCeLog (hbmLoc s.hbm.dead pa).k) := .inl (by simp only [R.memCeLog, blkBase]; omega)
  have hwr : OffHost (R.memWrBytes (hbmLoc s.hbm.dead pa).k) := .inl (by simp only [R.memWrBytes, blkBase]; omega)
  have hdrop : OffHost (R.memCorrDrop (hbmLoc s.hbm.dead pa).k) := .inl (by simp only [R.memCorrDrop, blkBase]; omega)
  unfold memCe
  dsimp only
  have hbase := fun v => (agentServed_memBump s (k := (hbmLoc s.hbm.dead pa).k) hcount 1 48).trans (agentServed_wr hlog _ v)
  split_ifs
  · exact (hbase _).trans (agentServed_memBump _ hwr ..)
  · exact hbase _
  · exact (hbase _).trans (agentServed_memBump _ hdrop ..)
  · exact (hbase _).trans (agentServed_stkPut ..)

theorem agentServed_memInject (hb : Hbm) (words : List Nat) (part : Option Nat) (src : Nat) : AgentServed s (memInject s hb words part src).2 := by
  have hfree := ((agentServed_freeBits s 8).trans (agentServed_injFired _)).trans (agentServed_freeBits _ 16)
  unfold memInject
  dsimp only
  split
  · exact .refl s
  · split_ifs <;> dsimp only
    · exact hfree.trans (agentServed_memUe ..)
    · exact hfree
    · exact hfree.trans (agentServed_memCe ..)

theorem agentServed_memDecode (hb : Hbm) (lines : List Nat) (part : Option Nat) (src : Nat) : AgentServed s (memDecode s hb lines part src).2 :=
  .trans ((agentServed_memInject ..).trans (.foldl (fun _ _ w => agentServed_memErr w _ _ _ _) _)) (.foldl (fun _ _ w => agentServed_memUe w _ _ _) _)

theorem agentServed_hbmReadLines (part k : Nat) (lines : List Nat) : AgentServed s (hbmReadLines s part k lines).2 := by
  unfold hbmReadLines
  cases lines with
  | nil => exact .refl s
  | cons a l =>
    have hk := hbmLoc_k_lt s.hbm.dead (256 * a)
    dsimp only
    split
    · exact agentServed_fenceAccess ..
    · generalize hbView s.hbm s.fresh _ = v
      have hfresh : AgentServed s { s with fresh := v.2 } := agentServed_fresh ..
      have hdecode := hfresh.trans (agentServed_memDecode _ v.1 (a :: l) (some part) 0)
      generalize memDecode _ v.1 (a :: l) (some part) 0 = d at hdecode ⊢
      refine .trans (hdecode.trans (AgentServed.foldSnd (fun acc _ => ?_) _ ([], d.2))) (agentServed_memBump _ (.inl ?_) _ _)
      · exact ⟨rfl, fun _ _ => rfl⟩
      · simp only [R.memRdBytes, blkBase]
        omega

theorem agentServed_mergeReads (w : HbmWr) (words : List Nat) : AgentServed s (mergeReads s w words).2 :=
  (AgentServed.foldl (fun _ _ t => agentServed_memUe t _ _ _) s).trans (.foldl (fun _ _ t => agentServed_memErr t _ _ _ _) _)

theorem agentServed_hbmApplyWr (w : HbmWr) : AgentServed s (hbmApplyWr s w) := by
  have hk := hbmLoc_k_lt s.hbm.dead w.pa
  unfold hbmApplyWr
  dsimp only
  split
  · exact agentServed_fenceAccess ..
  · refine ((agentServed_mergeReads s w _).trans (agentServed_hbm ..)).trans (agentServed_memBump _ (.inl ?_) _ _)
    simp only [R.memWrBytes, blkBase]
    omega

theorem agentServed_hbmPop (k p : Nat) : AgentServed s (hbmPop s k p) := by
  unfold hbmPop
  dsimp only
  split
  · exact .refl s
  · exact (agentServed_pcPut ..).trans (agentServed_hbmApplyWr ..)

theorem agentServed_hbmDrain (k p n : Nat) : AgentServed s (hbmDrain s k p n) := by
  induction n generalizing s with
  | zero => exact .refl s
  | succ n ih => exact (agentServed_hbmPop ..).trans (ih _)

theorem agentServed_hbmWriteNow (w : HbmWr) : AgentServed s (hbmWriteNow s w) := by
  unfold hbmWriteNow
  dsimp only
  split
  · exact agentServed_hold s
  · exact (agentServed_hbmDrain ..).trans (agentServed_hbmApplyWr ..)

/-- The queued read of a slice of the device is made. -/
theorem agentServed_hbmRead (k p : Nat) {i : Nat} (hr : ∀ r, lget (pcGet s k p).rq i = some r → r.s < 4) : AgentServed s (hbmRead s k p i) := by
  unfold hbmRead
  dsimp only
  split
  · exact .refl s
  · split
    · exact .refl s
    · next r hget =>
      have hs := hr r hget
      split
      · exact agentServed_pcPut ..
      · refine .trans (.trans (.trans (agentServed_pcPut ..) (agentServed_hbmReadLines ..)) (agentServed_slPut _ r.s _)) (agentServed_bump (.inl ?_) ..)
        simp only [R.chmBytesHbmRd, blkBase]
        omega

end

end Sys2Proof.Machine

namespace Sys2Proof.Machine

/-! The slices of the chimney (R197–R217). -/

section
variable (s : State) {sl : Nat} (hsl : sl < 4)
include hsl

theorem offHost_chm {off : Nat} (hoff : off < 0x2000) : OffHost ⟨blkBase .chm sl + off, 0⟩ := .inl (by simp only [blkBase]; omega)

theorem agentServed_chmBump {off : Nat} (hoff : off < 0x2000) (n w : Nat) : AgentServed s (chmBump s sl ⟨blkBase .chm sl + off, 0⟩ n w) :=
  agentServed_bump (offHost_chm hsl hoff) ..

theorem agentServed_chmErr (kind region abort part : Nat) (a : Option Nat) : AgentServed s (chmErr s sl kind region abort part a) :=
  (agentServed_freeBits s 33).trans (agentServed_logErr (offHost_chm hsl (by decide)) (offHost_chm hsl (by decide)) ..)

theorem agentServed_chmCe (two : Bool) (a : Option Nat) : AgentServed s (chmCe s sl two a) :=
  ((agentServed_freeBits s 49).trans (agentServed_chmBump _ hsl (by decide) _ _)).trans (agentServed_wr (offHost_chm hsl (by decide)) ..)

theorem agentServed_chmUeLine (l : Line) (abort : Nat) : AgentServed s (chmUeLine s sl l abort) := by
  have hcount : AgentServed s (chmBump s sl (R.chmUeCount sl) 1) := agentServed_chmBump s hsl (by decide) ..
  unfold chmUeLine
  dsimp only
  split
  · exact (hcount.trans (agentServed_chmErr _ hsl ..)).trans (agentServed_slMod ..)
  · exact (hcount.trans (agentServed_chmErr _ hsl ..)).trans (agentServed_slMod ..)

theorem agentServed_chmInject (a : Option Nat) : AgentServed s (chmInject s sl a).2 := by
  unfold chmInject
  split
  · exact .refl s
  · split
    · exact agentServed_injFired s
    · exact (agentServed_injFired s).trans (agentServed_chmCe _ hsl ..)

theorem agentServed_writeBack (l : Line) : AgentServed s (writeBack s sl l) :=
  ((agentServed_pcPut ..).trans (agentServed_chmBump _ hsl (by decide) _ _)).trans (agentServed_chmBump _ hsl (by decide) _ _)

theorem agentServed_takeLine {p : Nat} {t : State} (h : (takeLine s sl p).1 = some t) : AgentServed s t := by
  unfold takeLine at h
  dsimp only at h
  split at h
  · cases h
    exact .refl s
  · split at h
    · cases h
    · split at h
      · cases h
      · cases h
        split
        · exact (agentServed_slPut ..).trans (agentServed_writeBack _ hsl _)
        · exact agentServed_slPut ..

theorem agentServed_takeFor {p a : Nat} {t : State} (h : (takeFor s sl p a).1 = some t) : AgentServed s t := by
  unfold takeFor at h
  split at h
  · cases h
    exact .refl s
  · exact agentServed_takeLine s hsl h

/-! The accesses of agents (R577). -/

theorem agentServed_agTake {part a : Nat} {t : State} (h : agTake s sl part a = some t) : AgentServed s t := by
  unfold agTake at h
  split at h
  · next t' _ htake =>
    cases h
    exact agentServed_takeFor s hsl (congrArg Prod.fst htake)
  · cases h
  · split at h
    · cases h
      exact agentServed_hold s
    · cases h
      generalize hpop : hbmPop s _ _ = w
      have hw : AgentServed s w := hpop ▸ agentServed_hbmPop ..
      cases htake : (takeFor w sl part a).1 with
      | none => exact agentServed_hold s
      | some t => exact hw.trans (agentServed_takeFor w hsl htake)

theorem agentServed_fillRead (f : Fill) : AgentServed s (fillRead s sl f) := by
  unfold fillRead
  dsimp only
  split
  · next i _ hfind =>
    refine agentServed_hbmRead s _ _ fun r hr => ?_
    obtain ⟨⟨r', hr', hslice⟩, -⟩ := lfind_eq_some hfind
    rw [hr] at hr'
    cases hr'
    simp only [Bool.and_eq_true, decide_eq_true_eq] at hslice
    omega
  · exact .refl s

theorem agentServed_agFill (part k a : Nat) (alloc : Bool) : AgentServed s (agFill s sl part k a alloc).st := by
  unfold agFill
  dsimp only
  split
  · exact agentServed_hold s
  · split
    · next f _ =>
      have hread := agentServed_fillRead s hsl f
      split
      · exact hread
      · split
        · next htake =>
          dsimp only
          exact (hread.trans (agentServed_agTake _ hsl htake)).trans (agentServed_slMod ..)
        · exact hread
    · have hread : AgentServed s (chmBump (hbmReadLines s part k [a]).2 sl (R.chmBytesHbmRd sl) 256 64) :=
        (agentServed_hbmReadLines ..).trans (agentServed_chmBump _ hsl (by decide) ..)
      split
      · exact hread
      · split
        · next htake =>
          dsimp only
          exact (hread.trans (agentServed_agTake _ hsl htake)).trans (agentServed_slMod ..)
        · exact hread

end

section
variable (s : State)

theorem agentServed_agLine (part k a : Nat) (alloc : Bool) : AgentServed s (agLine s part k a alloc).st := by
  have hsl := homeSlice_lt s.hbm.dead (256 * a)
  unfold agLine
  dsimp only
  generalize homeSlice s.hbm.dead (256 * a) = sl at *
  have hinj := agentServed_chmInject s hsl (some a)
  split
  · exact agentServed_hold s
  · split
    · dsimp only
      exact hinj.trans (agentServed_slMod ..)
    · have hline := fun l => hinj.trans (agentServed_chmUeLine _ hsl l 0)
      split
      · dsimp only
        exact (hline _).trans (agentServed_slMod ..)
      · exact (hline _).trans (agentServed_agFill _ hsl ..)
    · exact hinj.trans (agentServed_agFill _ hsl ..)
    · have hcount : AgentServed _ (chmBump (chmInject s sl (some a)).2 sl (R.chmUeCount sl) 1) := agentServed_chmBump _ hsl (by decide) ..
      dsimp only
      exact (hinj.trans hcount).trans (agentServed_chmErr _ hsl ..)

theorem agentServed_agLines (part k : Nat) (as : List Nat) (alloc : Bool) : AgentServed s (agLines s part k as alloc).2.2.2 := by
  induction as generalizing s with
  | nil => exact .refl s
  | cons a l ih => exact (agentServed_agLine ..).trans (ih _)

theorem agentServed_agCount {part : Nat} (hp : part < 16) (pa : Nat) (hit deny : Bool) : AgentServed s (agCount s part pa hit deny) := by
  have hsl := homeSlice_lt s.hbm.dead pa
  unfold agCount
  dsimp only
  generalize homeSlice s.hbm.dead pa = sl at *
  have hcount : AgentServed s (if hit then chmBump s sl (R.chmHits sl) 1 else chmBump s sl (R.chmMisses sl) 1) := by
    split
    · exact agentServed_chmBump s hsl (by decide) ..
    · exact agentServed_chmBump s hsl (by decide) ..
  generalize (if hit then _ else _) = w at hcount
  split
  · refine hcount.trans (agentServed_bump (.inl ?_) ..)
    simp only [R.chmPartDenyP, blkBase]
    omega
  · exact hcount

/-- A fold of reads whose every step serves agents. -/
theorem AgentServed.foldRead {α : Type} {f : AgRead → α → AgRead} (hf : ∀ acc a, AgentServed acc.st (f acc a).st) (l : List α) (acc : AgRead) :
    AgentServed acc.st (l.foldl f acc).st := by
  induction l generalizing acc with
  | nil => exact .refl _
  | cons a l ih => exact (hf acc a).trans (ih (f acc a))

theorem agentServed_agRead {part : Nat} (hp : part < 16) (k pa len : Nat) (alloc : Bool) : AgentServed s (agRead s part k pa len alloc).st := by
  refine AgentServed.foldRead (fun acc g => ?_) (granules pa len) ⟨[], false, false, s⟩
  exact ((agentServed_agLines acc.st ..).trans (agentServed_agCount _ hp ..)).trans (agentServed_histCount ..)

/-! Walks, and reads by virtual address (R256, R577). -/

theorem offHost_xlt (p off rst : Nat) : OffHost ⟨blkBase .xlt p + off, rst⟩ := .inr (by simp only [blkBase]; omega)

theorem agentServed_xltBump (p off n : Nat) : AgentServed s (xltBump s p ⟨blkBase .xlt p + off, 0⟩ n) := agentServed_bump (offHost_xlt ..) ..

variable {p : Nat} (hp : p < 16)
include hp

theorem agentServed_entRead (k pa n : Nat) : AgentServed s (entRead s p k pa n).2.2 := agentServed_agRead s hp ..

theorem agentServed_walkL1 (die vpn : Nat) (cache : Bool) : AgentServed s (walkL1 s die p vpn cache).2.2 := by
  unfold walkL1
  dsimp only
  split
  · exact .refl s
  · split
    · exact .refl s
    · have hread := fun k pa n => agentServed_entRead s hp k pa n
      split
      · exact hread ..
      · split
        · exact hread ..
        · dsimp only
          split
          · exact (hread ..).trans (agentServed_walkCache ..)
          · exact hread ..

/-- A walk is counted when it is a walker's (R278). -/
theorem agentServed_walk (die vpn : Nat) (count : Bool) : AgentServed s (walk s die p vpn count).2 := by
  have hfin : ∀ (res : WalkRes) (hbm : Bool) (t : State), AgentServed t
      (if !count then (res, t) else (res, if hbm then xltBump (xltBump t p (R.xltWalks p) 1) p (R.xltWalkHbm p) 1 else xltBump t p (R.xltWalks p) 1)).2 := by
    intro res hbm t
    have hcount : AgentServed t (xltBump t p (R.xltWalks p) 1) := agentServed_xltBump ..
    split
    · exact .refl t
    · dsimp only
      split
      · exact hcount.trans (agentServed_xltBump ..)
      · exact hcount
  have hl1 := agentServed_walkL1 s hp die vpn count
  unfold walk
  dsimp only
  split
  · exact hl1.trans (hfin ..)
  · exact hl1.trans (hfin ..)
  · have hread := fun k pa n => hl1.trans (agentServed_entRead _ hp k pa n)
    split
    · exact (hread ..).trans (hfin ..)
    · split
      · exact (hread ..).trans (hfin ..)
      · exact (hread ..).trans (hfin ..)

theorem agentServed_agWalk (die va : Nat) : AgentServed s (agWalk s die p va).2 := by
  have hwalk := fun vpn => agentServed_walk s hp die vpn true
  unfold agWalk
  dsimp only
  split
  · split
    · exact (hwalk _).trans (agentServed_hold _)
    · exact hwalk _
  · exact hwalk _

theorem agentServed_vaRead (die va len n : Nat) (alloc : Bool) : AgentServed s (vaRead s die p va len n alloc).2.2 := by
  induction n generalizing s va len with
  | zero => exact .refl s
  | succ n ih =>
    unfold vaRead
    split
    · exact .refl s
    · have hwalk := agentServed_agWalk s hp die va
      dsimp only
      split
      · have hread := fun k pa len => hwalk.trans (agentServed_agRead _ hp k pa len alloc)
        split
        · exact hread ..
        · exact (hread ..).trans (ih ..)
      · exact hwalk
      · exact hwalk

theorem agentServed_vaGet (va len : Nat) (alloc : Bool) : AgentServed s (vaGet s p va len alloc).2.2 := agentServed_vaRead s hp ..

end

end Sys2Proof.Machine

/-!
SUPPORT and proof for the placement and binding of tasks (R293–R296): O29.
-/

namespace Sys2Proof.Machine

/-! Handle lists (R289, R293). -/

theorem foldl_handles (es l : List Nat) (hnodup : ((l ++ es).map hlHandle).Nodup) :
    es.foldl (fun l e => if (l.map hlHandle).contains (hlHandle e) then l else l ++ [e]) l = l ++ es := by
  induction es generalizing l with
  | nil => simp
  | cons e es ih =>
    have hnew : (l.map hlHandle).contains (hlHandle e) = false := by
      rw [List.map_append, List.nodup_append] at hnodup
      obtain ⟨-, -, hne⟩ := hnodup
      rw [← Bool.not_eq_true, List.contains_iff_mem]
      exact fun hmem => hne _ hmem _ (by simp) rfl
    rw [List.foldl_cons, hnew]
    simpa using ih (l ++ [e]) (by simpa using hnodup)

/-- A handle list that R289 lets pass is considered as it stands (log 62). -/
theorem hlClean_sound {es : List Nat} (h : hlBad es = false) : hlClean es = es := by
  simp only [hlBad, ne_eq, Bool.or_eq_false_iff, decide_eq_false_iff_not, Decidable.not_not, List.any_eq_false, Bool.not_eq_true] at h
  obtain ⟨hlen, hent⟩ := h
  have hnodup : (es.map hlHandle).Nodup := by
    rw [← List.dedup_eq_self]
    exact (List.dedup_sublist _).eq_of_length (by simpa using hlen)
  have hkeep : es.filter (fun e => !hlEntBad e) = es := by simpa using hent
  rw [hlClean, hkeep]
  exact foldl_handles es [] hnodup

/-! Binding (R296). -/

theorem EnginesTurn.foldl {α : Type} {f : Hearth → α → Hearth} (hf : ∀ a x, EnginesTurn x (f x a)) (l : List α) (x : Hearth) :
    EnginesTurn x (l.foldl f x) := by
  induction l generalizing x with
  | nil => rfl
  | cons a l ih =>
    have h1 := hf a x
    have h2 := ih (f x a)
    unfold EnginesTurn at *
    rw [List.foldl_cons, h2, h1]

theorem streamsBind_turns (x : Hearth) (td own off : Nat) (replay : Bool) (es : List Nat) : EnginesTurn x (streamsBind x td own off replay es) :=
  .foldl (fun i x => engPut_frame x i _) _ x

theorem semDowns_csr (p : Nat) (l : List Nat) (s : State) :
    l.foldl (fun s i => semDown s p i) s = { s with csr := (l.foldl (fun s i => semDown s p i) s).csr } := by
  induction l generalizing s with
  | nil => rfl
  | cons i l ih => exact ih (semDown s p i)

/-- Hearth `h` has task `t` of partition `p` bound: as its next task, with its schedule, programs and semaphores. -/
structure TaskBound (p h : Nat) (t : Task) (l : List SchedEnt) (progs : List Nat) (v : State) : Prop where
  next : ∃ run, (hget v h).next = some run ∧ run.id = t.id ∧ run.part = p ∧ run.graph = t.gid ∧ run.sched = l ∧ run.progs = progs ∧
    run.sems = tdSems t.desc
  place : ∀ k ∈ (gget v p).tasks, k.id = t.id → k.place = .bound h

/-- A task's placement, when its hearth stands: the graph engine notes it and counts it. -/
theorem taskMod_binds (w : State) (p h sc : Nat) (t : Task) :
    GraphsRun w (placeCount (taskMod w p t.id (fun t => { t with place := .bound h, front := 0 })) p sc) ∧
    (∀ k, hget (placeCount (taskMod w p t.id (fun t => { t with place := .bound h, front := 0 })) p sc) k = hget w k) ∧
    ∀ k ∈ (gget (placeCount (taskMod w p t.id (fun t => { t with place := .bound h, front := 0 })) p sc) p).tasks, k.id = t.id →
      k.place = .bound h := by
  have hengine : gget (taskMod w p t.id (fun t => { t with place := .bound h, front := 0 })) p =
      tasksMap t.id (fun t => { t with place := .bound h, front := 0 }) (gget w p) := gget_gmod_same ..
  have hrun : GraphsRun w (taskMod w p t.id (fun t => { t with place := .bound h, front := 0 })) := rfl
  have hget' : ∀ k, hget (taskMod w p t.id (fun t => { t with place := .bound h, front := 0 })) k = hget w k := fun _ => rfl
  generalize taskMod w p t.id _ = v at *
  have hplace : ∀ k ∈ (gget v p).tasks, k.id = t.id → k.place = .bound h := by
    intro k hk hid
    rw [hengine] at hk
    obtain ⟨k0, -, -, rfl⟩ := mem_tasksMap hk hid
    rfl
  unfold placeCount grfBump
  split
  · exact ⟨hrun.trans (graphsRun_bump ..), fun k => (hget_bump ..).trans (hget' k), fun k hk => hplace k (by simpa using hk)⟩
  · exact ⟨hrun.trans (graphsRun_bump ..), fun k => (hget_bump ..).trans (hget' k), fun k hk => hplace k (by simpa using hk)⟩

/-- A task as it is bound to hearth `h`, with its schedule and programs (R296). -/
def boundRun (w : State) (p h : Nat) (t : Task) (es : List Nat) (l : List SchedEnt) (progs : List Nat) : TaskRun :=
  ⟨t.id, p, t.gid, t.desc, l, progs, boundOf w p h es, tdSems t.desc, 0, 0, 0, 0, srMix t.id (tdReplay t.desc), 0, none, 0, none⟩

theorem bindTask_binds (w : State) (p h : Nat) (t : Task) (es : List Nat) (l : List SchedEnt) (progs : List Nat) :
    GraphsRun w (bindTask w p h t es l progs t.desc none) ∧ TaskBound p h t l progs (bindTask w p h t es l progs t.desc none) := by
  unfold bindTask
  dsimp only
  generalize hx : streamsBind _ _ _ _ _ _ = x
  have hturn : EnginesTurn _ x := hx ▸ streamsBind_turns ..
  have hsems := semDowns_csr p (tdSems t.desc) (hput w h x)
  generalize List.foldl _ (hput w h x) _ = w1 at hsems
  obtain ⟨hrun, hhearths, hplace⟩ := taskMod_binds w1 p h (score w p h es) t
  have hnext : x.next = some (boundRun w p h t es l progs) := congrArg Hearth.next hturn
  have hself : hget w1 h = x := by
    rw [hsems]
    exact hget_hput_same w h x
  have hput' : GraphsRun w w1 := by
    rw [hsems]
    rfl
  refine ⟨hput'.trans hrun, ⟨boundRun w p h t es l progs, ?_, rfl, rfl, rfl, rfl, rfl, rfl⟩, hplace⟩
  rw [hhearths, hself, hnext]

/-! Placement (R293, R294). -/

/-- What binding reads and checks before task `t` is bound to hearth `h`. -/
structure BindReads (w1 w2 w3 : State) (p h : Nat) (t : Task) (l : List SchedEnt) (progs : List Nat) : Prop where
  sched : schedRead w1 p t.desc = (some l, w2)
  words : progsRead w2 p t.desc = (some progs, w3)
  ok : schedOk t.desc (bits (rd w1 (R.mxaCtrl h)) 0 2) progs l = true

section
variable {w1 w2 w3 : State} {p : Nat} {t : Task} {hs es : List Nat} {b : PlaceCand} {l : List SchedEnt} {progs : List Nat}

theorem bindOn_binds (hr : BindReads w1 w2 w3 p b.h t l progs) (es : List Nat) :
    bindOn w1 p b.h t es none none = bindTask w3 p b.h t es l progs t.desc none := by
  simp only [bindOn, hr.sched, hr.words, hr.ok, Bool.not_true, Bool.false_eq_true, if_false]

/-- A task whose held buffers stand on a hearth and whose semaphores have count goes to the best hearth with room. -/
theorem placeOn_binds (hheld : (∃ e ∈ es, hlKind e = 1) → ∃ h ∈ partHearths w1 p, ∀ e ∈ es, hlKind e = 1 → holds w1 p h e = true)
    (hsems : semsOk w1 p t.desc = true)
    (hbest : placeBest (((hs.filter (fun h => fitsHearth w1 p h es)).filter (fun h => (hget w1 h).next.isNone)).map (placeCand w1 p es)) = some b)
    (htaken : ∀ h ∈ hs.filter (fun h => fitsHearth w1 p h es), (hget w1 h).next ≠ none → score w1 p h es ≤ b.score) :
    placeOn w1 p t hs es none none = (true, bindOn w1 p b.h t es none none) := by
  have hstands : (es.any (fun e => hlKind e = 1) && !(partHearths w1 p).any (fun h => es.all (fun e => hlKind e ≠ 1 || holds w1 p h e))) = false := by
    cases hany : es.any (fun e => hlKind e = 1) with
    | false => rfl
    | true =>
      obtain ⟨h, hh, hall⟩ := hheld (by simpa using hany)
      have hholds : es.all (fun e => hlKind e ≠ 1 || holds w1 p h e) = true := by
        simp only [List.all_eq_true, Bool.or_eq_true, decide_eq_true_eq]
        exact fun e he => (em (hlKind e = 1)).symm.imp_right (hall e he)
      simp only [Bool.true_and, Bool.not_eq_false', List.any_eq_true]
      exact ⟨h, hh, hholds⟩
  have hbetter : ((hs.filter (fun h => fitsHearth w1 p h es)).filter (fun h => (hget w1 h).next.isSome)).any
      (fun h => b.score < score w1 p h es) = false := by
    simp only [List.any_eq_false, List.mem_filter, decide_eq_true_eq, Nat.not_lt]
    rintro h ⟨⟨hh, hfits⟩, hnext⟩
    exact htaken h (List.mem_filter.2 ⟨hh, hfits⟩) (by simpa [Option.isSome_iff_ne_none] using hnext)
  simp only [placeOn, hstands, hsems, hbest, hbetter, Bool.not_true, Bool.false_eq_true, if_false]

end

/-- A task whose handle list is sound, and which is no ATTEND task, is placed on the hearths that it may take. -/
theorem placeOne_places {s w1 : State} {p : Nat} {t : Task} {bs : List Byte} {ue : Bool}
    (hfixed : tdFixed t.desc = true → tdHearth t.desc < (partHearths s p).length)
    (hbare : bits t.desc 496 10 ≠ 0 ∨ tdHlistCount t.desc ≠ 0 ∨ tdProgCount t.desc ≠ 0 ∨ tdSems t.desc ≠ [])
    (hlist : vaGet s p (tdHlistVa t.desc) (16 * tdHlistCount t.desc) false = (some bs, ue, w1))
    (hsound : hlBad (hlEntries bs (tdHlistCount t.desc)) = false) :
    placeOne s p t = placeOn w1 p t (if tdFixed t.desc then ((partHearths s p).drop (tdHearth t.desc)).take 1 else partHearths s p)
      (hlEntries bs (tdHlistCount t.desc)) none none := by
  have hthere : (tdFixed t.desc && (partHearths s p).length ≤ tdHearth t.desc) = false := by
    cases hf : tdFixed t.desc with
    | false => rfl
    | true => simpa using hfixed hf
  have hfull : (bits t.desc 496 10 = 0 && tdHlistCount t.desc = 0 && tdProgCount t.desc = 0 && (tdSems t.desc).isEmpty) = false := by
    rw [← Bool.not_eq_true]
    simp only [Bool.and_eq_true, decide_eq_true_eq, List.isEmpty_iff]
    rintro ⟨⟨⟨hsched, hhandles⟩, hprogs⟩, hsems⟩
    exact hbare.elim (· hsched) (·.elim (· hhandles) (·.elim (· hprogs) (· hsems)))
  simp only [placeOne, hthere, hlist, hfull, Option.getD_some, Option.isNone_some, hsound, hlClean_sound hsound, Bool.or_self, Bool.not_false, if_true,
    Bool.false_eq_true, if_false]

/-- Settles O29: the first ready task reads its handle list, is placed (`placeOne_places`, `placeOn_binds`) and bound (`bindTask_binds`); reading the
list changes no hearth (`agentServed_vaGet`). -/
theorem tasksPlaced : Obligations.TasksPlaced := by
  unfold Obligations.TasksPlaced
  intro s w1 w2 w3 p t r bs ue b l progs hp hc hready hfixed hbare s0 hs hlist es hsound hheld hsems fit hbest htaken hsched hprogs hok hcw
  have hserved : AgentServed s0 w1 := by
    have h := agentServed_vaGet s0 hp (tdHlistVa t.desc) (16 * tdHlistCount t.desc) false
    rwa [hlist] at h
  have hhearths : partHearths w1 p = partHearths s p := by
    rw [hserved.eq]
    rfl
  have hop : taskPlaceOp (quiet s) p = bindTask w3 p b.h t es l progs t.desc none := by
    have hone : placeOne s0 p t = (true, bindTask w3 p b.h t es l progs t.desc none) :=
      calc placeOne s0 p t = placeOn w1 p t hs es none none := placeOne_places (s := s0) hfixed hbare hlist hsound
        _ = (true, bindOn w1 p b.h t es none none) := placeOn_binds (hhearths ▸ hheld) hsems hbest htaken
        _ = (true, bindTask w3 p b.h t es l progs t.desc none) := by rw [bindOn_binds ⟨hsched, hprogs, hok⟩]
    have hready' : readyQueue (gget (quiet s) p) = t :: r := hready
    simp only [taskPlaceOp, hready', placeLoop]
    exact congrArg (fun x : Bool × State => match x with | (true, s1) => s1 | (false, s1) => placeLoop s1 p r) hone
  obtain ⟨hrun, hbound⟩ := bindTask_binds w3 p b.h t es l progs
  obtain ⟨u, hu, hf⟩ := lead_act (f := fun s => taskPlaceOp s p) hc hp hop (hrun.calm hcw)
  refine ⟨u, hu, ?_, fun k hk => hbound.place k ((hf.gget p) ▸ hk)⟩
  rw [hf.hget]
  exact hbound.next

end Sys2Proof.Machine

/-!
SUPPORT: what the writes of agents change (R577), with the copy of a shared page (R270).
-/

namespace Sys2Proof.Machine

/-! Writes by physical address. -/

section
variable (s : State)

/-- A write that no line takes goes to HBM, or waits. -/
theorem agentServed_direct {sl : Nat} (hsl : sl < 4) (w : HbmWr) (n : Nat) :
    AgentServed s (if agFillShort s sl then hold s else chmBump (hbmWriteNow s w) sl (R.chmBytesHbmWr sl) n 64) := by
  split
  · exact agentServed_hold s
  · exact (agentServed_hbmWriteNow ..).trans (agentServed_chmBump _ hsl (by decide) ..)

theorem agentServed_agWriteLine (part k pa : Nat) (data : List Byte) (a : Nat) (alloc : Bool) :
    AgentServed s (agWriteLine s part k pa data a alloc).2 := by
  have hsl := homeSlice_lt s.hbm.dead (256 * a)
  unfold agWriteLine
  dsimp only
  generalize homeSlice s.hbm.dead (256 * a) = sl at *
  generalize hw0 : slPut s sl _ = w0
  have h0 : AgentServed s w0 := hw0 ▸ agentServed_slPut ..
  split
  · exact agentServed_hold s
  · split
    · exact h0.trans (agentServed_slPut ..)
    · split
      · exact h0.trans (agentServed_direct _ hsl ..)
      · split
        · exact h0.trans (agentServed_direct _ hsl ..)
        · next t htake =>
          have ht : AgentServed s t := by
            split at htake
            · cases htake
              exact h0
            · exact h0.trans (agentServed_agTake _ hsl htake)
          have hfill : AgentServed s (agFill t sl part k a false).st := ht.trans (agentServed_agFill _ hsl ..)
          split
          · dsimp only
            exact ht.trans (agentServed_slMod ..)
          · split
            · exact hfill
            · split
              · exact hfill.trans (agentServed_direct _ hsl ..)
              · dsimp only
                exact hfill.trans (agentServed_slMod ..)

theorem agentServed_agWriteLines (part k pa : Nat) (data : List Byte) (as : List Nat) (alloc deny : Bool) :
    AgentServed s (agWriteLines s part k pa data as alloc deny).2 := by
  induction as generalizing s deny with
  | nil => exact .refl s
  | cons a l ih => exact (agentServed_agWriteLine ..).trans (ih ..)

variable {p : Nat} (hp : p < 16)
include hp

theorem agentServed_agWrite (k pa : Nat) (data : List Byte) (alloc : Bool) : AgentServed s (agWrite s p k pa data alloc) := by
  refine AgentServed.foldl (fun g _ w => ?_) s
  exact (agentServed_agWriteLines w ..).trans (agentServed_agCount _ hp ..)

/-! Writes by virtual address, and the entries of tables and frames (R252, R253). -/

theorem agentServed_vaWrite (die va : Nat) (data : List Byte) (n : Nat) : AgentServed s (vaWrite s die p va data n).2 := by
  induction n generalizing s va data with
  | zero => exact .refl s
  | succ n ih =>
    unfold vaWrite
    split
    · exact .refl s
    · have hwalk := agentServed_agWalk s hp die va
      dsimp only
      split
      · split
        · exact (hwalk.trans (agentServed_agWrite _ hp ..)).trans (ih ..)
        · split
          · exact hwalk
          · exact hwalk
      · exact hwalk
      · exact hwalk

theorem agentServed_entWrite (k pa n v : Nat) : AgentServed s (entWrite s p k pa n v) := agentServed_agWrite s hp ..
theorem agentServed_frGet (f : Nat) : AgentServed s (frGet s p f).2 := agentServed_entRead s hp ..
theorem agentServed_frPut (f v : Nat) : AgentServed s (frPut s p f v) := agentServed_entWrite s hp ..

theorem agentServed_frTake (f refs st : Nat) : AgentServed s (frTake s p f refs st) :=
  (((agentServed_frGet s hp f).trans (agentServed_frPut _ hp ..)).trans (agentServed_wr (offHost_xlt ..) ..)).trans (agentServed_wr (offHost_xlt ..) ..)

theorem agentServed_frRefs (f refs : Nat) : AgentServed s (frRefs s p f refs) := (agentServed_frGet s hp f).trans (agentServed_frPut _ hp ..)

/-! The reserve ring (R266), rings of leaves (R254). -/

theorem agentServed_rsvScan (n left want : Nat) (acc : List Nat) (skip : Nat) (first : Option (Nat × Nat)) :
    AgentServed s (rsvScan s p n left want acc skip first).2 := by
  induction left generalizing s n want acc skip first with
  | zero =>
    unfold rsvScan
    split
    · exact .refl s
    · cases first with
      | none => exact .refl s
      | some _ => exact .refl s
  | succ left ih =>
    unfold rsvScan
    split
    · exact .refl s
    · have hread := agentServed_vaGet s hp (rd s (R.xltRsvBase p) + 4 * (n % rsvSize s p)) 4 true
      dsimp only
      split
      · exact hread
      · next d _ =>
        have hframe : AgentServed s (if inRange (vaGet s p (rd s (R.xltRsvBase p) + 4 * (n % rsvSize s p)) 4 true).2.2 p (leVal (d.take 3)) then
            frGet (vaGet s p (rd s (R.xltRsvBase p) + 4 * (n % rsvSize s p)) 4 true).2.2 p (leVal (d.take 3)) else
            (none, (vaGet s p (rd s (R.xltRsvBase p) + 4 * (n % rsvSize s p)) 4 true).2.2)).2 := by
          split
          · exact hread.trans (agentServed_frGet _ hp _)
          · exact hread
        generalize (if inRange _ p _ then _ else _) = e at hframe ⊢
        obtain ⟨_ | v, t⟩ := e
        · exact hframe.trans (ih ..)
        · dsimp only
          split
          · exact hframe.trans (ih ..)
          · exact hframe.trans (ih ..)

theorem agentServed_rsvFind (want : Nat) (avoid : List Nat) : AgentServed s (rsvFind s p want avoid).2 := by
  unfold rsvFind
  dsimp only
  split
  · exact .refl s
  · exact agentServed_rsvScan s hp ..

omit hp in
theorem agentServed_rsvTake (p skip head : Nat) : AgentServed s (rsvTake s p skip head) :=
  (agentServed_wr (offHost_xlt ..) ..).trans (agentServed_xltBump ..)

theorem agentServed_ringPages (start vpn n : Nat) (acc : List Nat) : AgentServed s (ringPages s p start vpn n acc).2 := by
  induction n generalizing s vpn acc with
  | zero => exact .refl s
  | succ n ih =>
    have hwalk := agentServed_walk s hp 0 vpn false
    unfold ringPages
    dsimp only
    split
    · split
      · exact hwalk
      · exact hwalk.trans (ih ..)
    · exact hwalk

theorem agentServed_leafMod (vpn : Nat) (f : Nat → Nat) : AgentServed s (leafMod s p vpn f) := by
  have hwalk := agentServed_walk s hp 0 vpn false
  unfold leafMod
  dsimp only
  split
  · exact hwalk.trans (agentServed_entWrite _ hp ..)
  · exact hwalk

theorem agentServed_ringOut (vpn refs next : Nat) : AgentServed s (ringOut s p vpn refs next) := by
  have hring : AgentServed s (ringOf s p vpn refs).2 := agentServed_ringPages s hp ..
  unfold ringOut
  dsimp only
  split
  · split
    · exact hring
    · exact hring.trans (agentServed_leafMod _ hp ..)
  · exact hring

/-! The copy of a shared page (R270). -/

theorem agentServed_frameCopy (src k dst k' n : Nat) : AgentServed s (frameCopy s p src k dst k' n).2 := by
  induction n generalizing s with
  | zero => exact .refl s
  | succ n ih => exact ((agentServed_agRead s hp ..).trans (agentServed_agWrite _ hp ..)).trans (ih _)

theorem agentServed_cowRemap (vpn f k : Nat) : AgentServed s (cowRemap s p vpn f k) := by
  have hwalk := agentServed_walk s hp 0 vpn false
  unfold cowRemap
  dsimp only
  split
  · next e _ _ _ =>
    have hfound := (hwalk.trans (agentServed_frGet _ hp (leFrame e))).trans (agentServed_frGet _ hp f)
    have hout := fun refs next => hfound.trans (agentServed_ringOut _ hp vpn refs next)
    exact (((hout ..).trans (agentServed_frRefs _ hp ..)).trans (agentServed_leafMod _ hp ..)).trans (agentServed_xltBump ..)
  · exact hwalk

theorem agentServed_cowFind (vpn : Nat) : AgentServed s (cowFind s p vpn).2 := by
  have hwalk := agentServed_walk s hp 0 vpn false
  unfold cowFind
  generalize walk s 0 p vpn false = w at hwalk ⊢
  dsimp only
  split
  · exact hwalk
  · exact hwalk
  · next e _ _ _ =>
    have hframe := hwalk.trans (agentServed_frGet w.2 hp (leFrame e))
    generalize frGet w.2 p (leFrame e) = fr at hframe ⊢
    split_ifs
    · exact hwalk
    · exact hframe
    · dsimp only
      exact (hframe.trans (agentServed_leafMod _ hp ..)).trans (agentServed_xltBump ..)
    · exact hframe
    · have hfind := hframe.trans (agentServed_rsvFind _ hp 1 [])
      generalize rsvFind fr.2 p 1 [] = q at hfind ⊢
      obtain ⟨r, t⟩ := q
      dsimp only at hfind ⊢
      split
      · exact hfind
      · dsimp only
        exact hfind.trans (agentServed_rsvTake ..)
      · exact hfind
      · exact hfind

theorem agentServed_cowWhole (vpn : Nat) : AgentServed s (cowWhole s p vpn).2.2 := by
  have hfind := agentServed_cowFind s hp vpn
  unfold cowWhole
  generalize cowFind s p vpn = c at hfind ⊢
  dsimp only
  split
  · exact hfind
  · exact hfind
  · next src k f skip next _ =>
    have hcopy := hfind.trans (agentServed_frameCopy c.2 hp src k f (xCur s p) 256)
    generalize frameCopy c.2 p src k f (xCur s p) 256 = cp at hcopy ⊢
    split
    · dsimp only
      exact ((hcopy.trans (agentServed_rsvTake ..)).trans (agentServed_frTake _ hp ..)).trans (agentServed_cowRemap _ hp ..)
    · exact hcopy
  · exact hfind

end

/-! Writes page by page, a shared page being copied first (R270, R419). -/

/-- From `s` to `t` the host port's queue pairs and registers are as they were. -/
structure HostKept (s t : State) : Prop where
  qps : t.qps = s.qps
  host : ∀ r : Reg, ¬ OffHost r → rd t r = rd s r

section
variable {s t u : State}

theorem HostKept.refl (s : State) : HostKept s s := ⟨rfl, fun _ _ => rfl⟩

theorem HostKept.trans (h1 : HostKept s t) (h2 : HostKept t u) : HostKept s u :=
  ⟨h2.qps.trans h1.qps, fun r hr => (h2.host r hr).trans (h1.host r hr)⟩

theorem AgentServed.kept (h : AgentServed s t) : HostKept s t := ⟨by rw [h.eq], h.host⟩

theorem HostKept.foldl {α : Type} {f : State → α → State} (hf : ∀ a w, HostKept w (f w a)) (l : List α) (s : State) : HostKept s (l.foldl f s) := by
  induction l generalizing s with
  | nil => exact .refl s
  | cons a l ih => exact (hf a s).trans (ih (f s a))

variable (s) {p : Nat} (hp : p < 16)

theorem hostKept_hmod (h : Nat) (f : Hearth → Hearth) : HostKept s (hmod s h f) := ⟨rfl, fun _ _ => rfl⟩

include hp

theorem hostKept_sdFrame (f : Nat) : HostKept s (sdFrame s p f) :=
  .trans ((agentServed_frGet s hp f).trans (agentServed_frPut _ hp ..)).kept (.foldl (fun _ _ => hostKept_hmod ..) _ _)

theorem hostKept_sdStart (why : SdWhy) (pages frames : List Nat) : HostKept s (sdStart s p why pages frames) := by
  have hframes : HostKept s (frames.foldl (fun s f => sdFrame s p f) s) := .foldl (fun f w => hostKept_sdFrame w hp f) _ _
  unfold sdStart
  dsimp only
  generalize List.foldl _ s frames = w at hframes ⊢
  have hdrop : HostKept w ((partHearths w p).foldl (fun s h => hmod s h (fun x =>
      { x with tlb := x.tlb.filter (fun t => !(t.part = p && sdCovers pages t.vpn)) })) w) := .foldl (fun _ _ => hostKept_hmod ..) _ _
  exact (hframes.trans hdrop).trans ⟨rfl, fun _ _ => rfl⟩

theorem hostKept_putPage (die va : Nat) (data : List Byte) : HostKept s (putPage s die p va data).2 := by
  have hwrite : AgentServed s (vaPutAt s die p va data).2 := agentServed_vaWrite s hp ..
  unfold putPage
  dsimp only
  split
  · exact hwrite.kept
  · exact hwrite.kept
  · exact hwrite.kept
  · exact hwrite.kept
  · have hcopy := hwrite.trans (agentServed_cowWhole _ hp (va / 65536 % 2 ^ 32))
    split
    · exact (hwrite.trans (agentServed_hold _)).kept
    · split
      · exact hcopy.kept
      · split
        · exact hcopy.kept
        · split
          · exact hcopy.kept
          · refine .trans (t := if _ then _ else _) ?_ (agentServed_vaWrite _ hp ..).kept
            split
            · exact hcopy.kept
            · exact hcopy.kept.trans (hostKept_sdStart _ hp ..)

theorem hostKept_putPages (die va : Nat) (data : List Byte) (n : Nat) : HostKept s (putPages s die p va data n).2 := by
  induction n generalizing s va data with
  | zero => exact .refl s
  | succ n ih =>
    have hpage := hostKept_putPage s hp die va
    unfold putPages
    split
    · exact .refl s
    · dsimp only
      split
      · exact hpage _
      · exact (hpage _).trans (ih ..)

end

end Sys2Proof.Machine

/-!
SUPPORT and proof for the queue pairs of chapter 14 (R421, R426, R427, R432): what leaves the port, acknowledgements, retries and errors, completion
records, and O46.
-/

namespace Sys2Proof.Machine

/-! What the host port changes. -/

/-- From `s` to `t` the host port works: of the device only registers, queue pairs and the port's own state change. -/
def HostWorks (s t : State) : Prop := t = { s with csr := t.csr, qps := t.qps, hport := t.hport, tx := t.tx }

/-- The registers that frames of queue pair `q` are made of are as they were. -/
structure FrameKept (q : Nat) (s t : State) : Prop where
  same : ∀ r ∈ frameRegs q, rd t r = rd s r

/-- A register that no frame of a queue pair is made of, by its place. -/
def OffFrame (r : Reg) : Prop := (blkBase .hst 0 + 0x10 ≤ r.addr ∧ r.addr < blkBase .hst 0 + 0x10000) ∨ blkBase .prt 0 ≤ r.addr

section
variable {s t u : State} {q : Nat}

theorem HostWorks.trans (h1 : HostWorks s t) (h2 : HostWorks t u) : HostWorks s u := by
  unfold HostWorks at *
  rw [h2, h1]

theorem HostWorks.calm (h : HostWorks s t) (hc : Calm s) : Calm t := by
  rw [h]
  exact hc.of rfl rfl rfl rfl rfl rfl rfl

theorem HostWorks.sameRegs {rs : List Reg} (hv : HostWorks (quiet s) t) (hf : Follows s.pending t u)
    (hr : ∀ r : Reg, r.addr ∉ rs.map Reg.addr → rd t r = rd s r) : SameRegs s u rs :=
  ⟨fun r hrs hn => (hf.rd r hn).trans (hr r hrs), fun p => by rw [hf.parts p, hv]; rfl⟩

theorem hostWorks_csr (h : t = { s with csr := t.csr }) : HostWorks s t := by
  unfold HostWorks
  rw [h]

theorem FrameKept.refl (q : Nat) (s : State) : FrameKept q s s := ⟨fun _ _ => rfl⟩

theorem FrameKept.trans (h1 : FrameKept q s t) (h2 : FrameKept q t u) : FrameKept q s u := ⟨fun r hr => (h2.same r hr).trans (h1.same r hr)⟩

theorem frameKept_qpPut (q : Nat) (s : State) (k : Nat) (x : QPair) : FrameKept q s (qpPut s k x) := ⟨fun _ _ => rfl⟩

theorem FrameKept.ctrl (h : FrameKept q s t) : rd t (R.hstQpCtrlQ q) = rd s (R.hstQpCtrlQ q) := h.same _ (by simp [frameRegs])

theorem FrameKept.state (h : FrameKept q s t) : qpState t q = qpState s q := by simp only [qpState, rdf, h.ctrl]

theorem FrameKept.prio (h : FrameKept q s t) : qpPrio t q = qpPrio s q := by simp only [qpPrio, rdf, h.ctrl]

theorem frameRegs_off (hq : q ≤ 1024) {r c : Reg} (hr : r ∈ frameRegs q) (hc : OffFrame c) : r.addr ≠ c.addr := by
  have haddr : r.addr = blkBase .hst 0 + 8 ∨ (blkBase .hst 0 + 0x10000 ≤ r.addr ∧ r.addr < blkBase .prt 0) := by
    simp only [frameRegs, List.mem_cons, List.not_mem_nil, or_false] at hr
    obtain rfl | rfl | rfl | rfl | rfl | rfl := hr
    · exact .inl rfl
    all_goals
      refine .inr ?_
      simp only [R.hstQpCtrlQ, R.hstQpPeerQ, R.hstQpMacQ, R.hstQpIpHiQ, R.hstQpIpLoQ, blkBase]
      omega
  simp only [OffFrame, blkBase] at hc haddr
  omega

theorem frameKept_bump (hq : q ≤ 1024) {c : Reg} (hc : OffFrame c) (s : State) (frz : Bool) (n w : Nat) : FrameKept q s (bump s frz c n w) :=
  ⟨fun _ hr => rd_bump_other s frz (frameRegs_off hq hr hc) n w⟩

theorem frameKept_hstErr (hq : q ≤ 1024) (s : State) (kind k prio : Nat) : FrameKept q s (hstErr s kind k prio) :=
  ⟨fun _ hr => rd_logErr_other s (frameRegs_off hq hr (.inl (by decide))) (frameRegs_off hq hr (.inl (by decide))) _⟩

theorem frameKept_histCount (hq : q ≤ 1024) (s : State) (h t0 : Nat) : FrameKept q s (histCount s h t0) :=
  frameKept_bump hq (.inr (by simp only [R.telHistHB, blkBase]; omega)) ..

theorem frameKept_hostOut (hq : q ≤ 1024) (s : State) (m : HostMsg) : FrameKept q s (hostOut s m) := by
  have hout : FrameKept q s { s with tx := s.tx ++ [frameOf s m] } := ⟨fun _ _ => rfl⟩
  exact (hout.trans (frameKept_bump hq (.inl (by decide)) ..)).trans (frameKept_bump hq (.inl (by decide)) ..)

theorem bump_csr (s : State) (frz : Bool) (r : Reg) (n w : Nat) : bump s frz r n w = { s with csr := (bump s frz r n w).csr } := by
  cases frz <;> rfl

end

/-! Messages that leave (R421, R487). -/

/-- From `s` to `t` messages of queue pair `q` leave, in its order: beside what the port sends only counters change, and in the queue pair its order and
the time from which it may send. -/
structure MessagesLeave (q : Nat) (s t : State) : Prop where
  eq : t = { s with csr := t.csr, qps := t.qps, tx := t.tx }
  qp : qpGet t q = { qpGet s q with pace := (qpGet t q).pace, freeAt := (qpGet t q).freeAt }
  regs : FrameKept q s t

section
variable {s t u : State} {q : Nat}

theorem MessagesLeave.refl (q : Nat) (s : State) : MessagesLeave q s s := ⟨rfl, rfl, .refl q s⟩

theorem MessagesLeave.trans (h1 : MessagesLeave q s t) (h2 : MessagesLeave q t u) : MessagesLeave q s u where
  eq := by
    have e := h2.eq
    rw [h1.eq] at e
    exact e
  qp := by
    have e := h2.qp
    rw [h1.qp] at e
    exact e
  regs := h1.regs.trans h2.regs

theorem MessagesLeave.works (h : MessagesLeave q s t) : HostWorks s t := by
  unfold HostWorks
  rw [h.eq]

/-- The host does not pause the queue pair's priority (R415). -/
def Unpaused (s : State) (q : Nat) : Prop := bit s.hport.paused (qpPrio s q) = false

theorem MessagesLeave.unpaused (h : MessagesLeave q s t) (hrun : Unpaused s q) : Unpaused t q := by
  have hport : t.hport = s.hport := by rw [h.eq]
  rw [Unpaused, hport, h.regs.prio]
  exact hrun

/-- The first message in a queue pair's order leaves. -/
theorem messagesLeave_hostOut (hq : q ≤ 1024) (s : State) (r : List TxMsg) (at_ : Nat) (m : HostMsg) :
    MessagesLeave q s (hostOut (qpPut s q { qpGet s q with pace := r, freeAt := at_ }) m) := by
  generalize hy : ({ qpGet s q with pace := r, freeAt := at_ } : QPair) = y
  have hout := hostOut_eq (qpPut s q y) m
  have hkept := (frameKept_qpPut q s q y).trans (frameKept_hostOut hq _ m)
  generalize hostOut (qpPut s q y) m = w at hout hkept ⊢
  have hsent : qpGet w q = y := by
    rw [hout]
    exact qpGet_qpPut_same ..
  exact ⟨by rw [hout]; rfl, by rw [hsent, ← hy], hkept⟩

theorem hostEmit_request (hrun : Unpaused s q) (x : QPair) (m : TxMsg) :
    hostEmit (qpPut s q x) (.request q m) = hostOut (qpPut s q x) (.request q m) := hostEmit_unpaused _ hrun

theorem paceRun_leaves (hq : q ≤ 1024) (n : Nat) (hrun : Unpaused s q) : MessagesLeave q s (paceRun s q n) := by
  induction n generalizing s with
  | zero => exact .refl q s
  | succ n ih =>
    unfold paceRun
    dsimp only
    split
    · exact .refl q s
    · next m r _ =>
      split
      · exact .refl q s
      · rw [hostEmit_request hrun]
        have hstep := messagesLeave_hostOut hq s r (telNow s + paceTime (qpGet s q).limit (msgSize s (.request q m)).2.2) (.request q m)
        exact hstep.trans (ih (hstep.unpaused hrun))

/-- With no rate and no RNR NAK to hold them, all messages leave at once. -/
theorem paceRun_all (hq : q ≤ 1024) {n : Nat} (hrun : Unpaused s q) (hs : qpState s q = 1) (hrnr : (qpGet s q).rnrWait = false)
    (hlim : (qpGet s q).limit = 0) (hn : (qpGet s q).pace.length ≤ n) :
    (paceRun s q n).tx = s.tx ++ (qpGet s q).pace.map (fun m => frameOf s (.request q m)) ∧ (qpGet (paceRun s q n) q).pace = [] := by
  induction n generalizing s with
  | zero =>
    have hnone : (qpGet s q).pace = [] := List.eq_nil_of_length_eq_zero (Nat.le_zero.1 hn)
    simp [paceRun, hnone]
  | succ n ih =>
    cases hpace : (qpGet s q).pace with
    | nil => simp [paceRun, hpace]
    | cons m r =>
      set w := hostOut (qpPut s q { qpGet s q with pace := r, freeAt := telNow s + paceTime (qpGet s q).limit (msgSize s (.request q m)).2.2 })
        (.request q m) with hw
      have hstep : MessagesLeave q s w := messagesLeave_hostOut hq ..
      have hgo : (qpState s q ≠ 1 || (qpGet s q).rnrWait || ((qpGet s q).limit ≠ 0 && telNow s < (qpGet s q).freeAt)) = false := by
        simp [hs, hrnr, hlim]
      have hnext : paceRun s q (n + 1) = paceRun w q n := by
        simp only [paceRun, hpace, hgo, Bool.false_eq_true, if_false]
        rw [hostEmit_request hrun]
      have hwpace : (qpGet w q).pace = r := by
        rw [hw, hostOut_eq]
        exact congrArg QPair.pace (qpGet_qpPut_same ..)
      have htx : w.tx = s.tx ++ [frameOf s (.request q m)] := by
        rw [hw, hostOut_eq]
        rfl
      obtain ⟨hall, hdone⟩ := ih (s := w) (hstep.unpaused hrun) (hstep.regs.state.trans hs) (by rw [hstep.qp]; exact hrnr)
        (by rw [hstep.qp]; exact hlim) (by rw [hwpace]; simpa [hpace] using hn)
      have hframes : (fun m => frameOf w (.request q m)) = fun m => frameOf s (.request q m) := funext fun m => frameOf_request_congr hstep.regs.same m
      rw [hnext]
      refine ⟨?_, hdone⟩
      rw [hall, hwpace, htx, hframes]
      simp

end

end Sys2Proof.Machine

namespace Sys2Proof.Machine

/-! The state of a queue pair (R426, R432). -/

theorem bits_setBits_state {n : Nat} (hn : n < 8) (w : Nat) : bits (setBits w 0 3 n) 0 3 = n := by
  simp only [setBits, bits, fieldAt, Nat.shiftLeft_eq, Nat.shiftRight_eq_div_pow]
  omega

section
variable {s : State} {q : Nat}

theorem qpState_wrf {n : Nat} (hn : n < 8) (s : State) (q : Nat) : qpState (wrf s (R.hstQpCtrlQ q) 0 3 n) q = n := by
  rw [qpState, rdf, wrf, rd_wr_same, bits_setBits_state hn]

theorem not_hasWaiting_waitDrop (s : State) (q : Nat) : ¬ hasWaiting (waitDrop s q) q := by
  rintro ⟨⟨prio, m⟩, hmem, hmine⟩
  have hkeep := (List.mem_filter.1 hmem).2
  cases m with
  | request r t => exact absurd hmine (by simpa using hkeep)
  | ack r psn syn msn => exact absurd hmine (by simpa using hkeep)
  | readData r psn d => exact absurd hmine (by simpa using hkeep)
  | cnp r => exact absurd hmine (by simpa using hkeep)
  | arpReply _ _ => exact hmine
  | neighborAdv _ _ => exact hmine
  | pfc _ _ => exact hmine
  | ipfix _ => exact hmine

/-- From `s` to `v` queue pair `q` has entered ERROR with a code: it has nothing more to send, and of the registers only its control register and the
error log change (R421). -/
structure QueueDead (s : State) (q code : Nat) (v : State) : Prop where
  works : HostWorks s v
  state : qpState v q = 2
  qp : qpGet v q = { qpGet s q with err := code }
  silent : ¬ hasWaiting v q
  regs : ∀ r : Reg, r.addr ∉ [R.hstQpCtrlQ q, R.hstErrLog, R.hstErrCount].map Reg.addr → rd v r = rd s r

/-- The control register of a queue pair is none of the error log. -/
theorem hstQpCtrlQ_ne_errLog (q : Nat) : (R.hstQpCtrlQ q).addr ≠ R.hstErrLog.addr ∧ (R.hstQpCtrlQ q).addr ≠ R.hstErrCount.addr := by
  simp only [R.hstQpCtrlQ, R.hstErrLog, R.hstErrCount, blkBase]
  omega

theorem hstErr_csr (s : State) (kind k prio : Nat) : hstErr s kind k prio = { s with csr := (hstErr s kind k prio).csr } := logErr_eq ..

theorem rd_hstErr_other (s : State) (kind k prio : Nat) {r : Reg} (h1 : r.addr ≠ R.hstErrLog.addr) (h2 : r.addr ≠ R.hstErrCount.addr) :
    rd (hstErr s kind k prio) r = rd s r := rd_logErr_other s h1 h2 _

theorem qpError_dead (s : State) (q code : Nat) : QueueDead s q code (qpError s q code) := by
  obtain ⟨hlog, hcount⟩ := hstQpCtrlQ_ne_errLog q
  have hstate : rd (hstErr (wrf s (R.hstQpCtrlQ q) 0 3 2) 1 q (qpPrio s q)) (R.hstQpCtrlQ q) = rd (wrf s (R.hstQpCtrlQ q) 0 3 2) (R.hstQpCtrlQ q) :=
    rd_hstErr_other _ _ _ _ hlog hcount
  have hrd : ∀ r : Reg, r.addr ∉ [R.hstQpCtrlQ q, R.hstErrLog, R.hstErrCount].map Reg.addr →
      rd (hstErr (wrf s (R.hstQpCtrlQ q) 0 3 2) 1 q (qpPrio s q)) r = rd s r := fun r hr => by
    simp only [List.map_cons, List.map_nil, List.mem_cons, List.not_mem_nil, or_false, not_or] at hr
    obtain ⟨hctrl, h1, h2⟩ := hr
    exact (rd_hstErr_other _ _ _ _ h1 h2).trans (rd_wr_other _ hctrl _)
  have hcsr := hstErr_csr (wrf s (R.hstQpCtrlQ q) 0 3 2) 1 q (qpPrio s q)
  have hon := qpState_wrf (n := 2) (by decide) s q
  unfold qpError
  generalize hstErr (wrf s (R.hstQpCtrlQ q) 0 3 2) 1 q (qpPrio s q) = w at hstate hrd hcsr ⊢
  have hworks : HostWorks s w := by
    rw [hcsr]
    rfl
  have hqp : qpGet w q = qpGet s q := by
    rw [hcsr]
    rfl
  refine ⟨hworks.trans rfl, ?_, ?_, not_hasWaiting_waitDrop _ q, hrd⟩
  · exact (congrArg (bits · 0 3) hstate).trans hon
  · rw [← hqp]
    exact qpGet_qpPut_same ..

/-! Sending again (R421). -/

theorem retransCounted (hq : q ≤ 1024) (l : List TxMsg) (s : State) :
    l.foldl (fun t m => hstBump t R.hstRetrans m.pkts) s = { s with csr := (l.foldl (fun t m => hstBump t R.hstRetrans m.pkts) s).csr } ∧
    FrameKept q s (l.foldl (fun t m => hstBump t R.hstRetrans m.pkts) s) := by
  induction l generalizing s with
  | nil => exact ⟨rfl, .refl q s⟩
  | cons m l ih =>
    obtain ⟨heq, hkept⟩ := ih (hstBump s R.hstRetrans m.pkts)
    rw [List.foldl_cons]
    refine ⟨?_, .trans (frameKept_bump hq (.inl (by decide)) ..) hkept⟩
    generalize List.foldl _ (hstBump s R.hstRetrans m.pkts) l = w at heq ⊢
    rw [heq, hstBump, bump_csr]

/-- Go-back-N: the queue pair's order becomes all that is unacknowledged, and what the rate lets go leaves. -/
theorem qpResend_leaves (hq : q ≤ 1024) (hrun : Unpaused s q) : MessagesLeave q s (qpResend s q) ∧
    (qpState s q = 1 → (qpGet s q).rnrWait = false → (qpGet s q).limit = 0 →
      (qpResend s q).tx = s.tx ++ (qpGet s q).sq.map (fun m => frameOf s (.request q m)) ∧ (qpGet (qpResend s q) q).pace = []) := by
  obtain ⟨heq, hkept⟩ := retransCounted hq (qpGet s q).sq s
  unfold qpResend
  dsimp only
  generalize List.foldl _ s (qpGet s q).sq = w at heq hkept ⊢
  have hqp : qpGet (qpPut w q { qpGet s q with pace := (qpGet s q).sq }) q = { qpGet s q with pace := (qpGet s q).sq } := qpGet_qpPut_same ..
  have hstart : MessagesLeave q s (qpPut w q { qpGet s q with pace := (qpGet s q).sq }) :=
    ⟨by rw [heq]; rfl, by rw [hqp], hkept.trans (frameKept_qpPut ..)⟩
  have htx : (qpPut w q { qpGet s q with pace := (qpGet s q).sq }).tx = s.tx := by
    rw [heq]
    rfl
  generalize qpPut w q { qpGet s q with pace := (qpGet s q).sq } = v at *
  have hrun' := hstart.unpaused hrun
  refine ⟨hstart.trans (paceRun_leaves hq _ hrun'), fun hs hrnr hlim => ?_⟩
  obtain ⟨hall, hdone⟩ := paceRun_all hq (n := (qpGet s q).sq.length) hrun' (hstart.regs.state.trans hs) (by rw [hqp]; exact hrnr)
    (by rw [hqp]; exact hlim) (by rw [hqp])
  have hframes : (fun m => frameOf v (.request q m)) = fun m => frameOf s (.request q m) := funext fun m => frameOf_request_congr hstart.regs.same m
  exact ⟨by rw [hall, htx, hqp, hframes], hdone⟩

/-- From `s` to `v` all that queue pair `q`, as it becomes `y`, has unacknowledged is sent again: at once, where no RNR NAK and no rate holds it. -/
structure Resent (s : State) (q : Nat) (y : QPair) (v : State) : Prop where
  works : HostWorks s v
  qp : qpGet v q = { y with pace := (qpGet v q).pace, freeAt := (qpGet v q).freeAt }
  all : y.rnrWait = false → y.limit = 0 → v.tx = s.tx ++ y.sq.map (fun m => frameOf s (.request q m)) ∧ (qpGet v q).pace = []

theorem qpResend_resent {w : State} (hq : q ≤ 1024) (hs : qpState s q = 1) (hrun : Unpaused s q) (hw : w = { s with csr := w.csr })
    (hkept : FrameKept q s w) (y : QPair) : Resent s q y (qpResend (qpPut w q y) q) := by
  have hqp : qpGet (qpPut w q y) q = y := qpGet_qpPut_same ..
  have hkept' := hkept.trans (frameKept_qpPut q w q y)
  have hrun' : Unpaused (qpPut w q y) q := by
    have hport : (qpPut w q y).hport = s.hport := by
      rw [hw]
      rfl
    rw [Unpaused, hport, hkept'.prio]
    exact hrun
  have hworks : HostWorks s (qpPut w q y) := by
    rw [hw]
    rfl
  have htx : (qpPut w q y).tx = s.tx := by
    rw [hw]
    rfl
  have hframes : (fun m => frameOf (qpPut w q y) (.request q m)) = fun m => frameOf s (.request q m) :=
    funext fun m => frameOf_request_congr hkept'.same m
  obtain ⟨hleave, hall⟩ := qpResend_leaves hq hrun'
  refine ⟨hworks.trans hleave.works, ?_, fun hrnr hlim => ?_⟩
  · rw [hleave.qp, hqp]
  · obtain ⟨hsent, hdone⟩ := hall (hkept'.state.trans hs) (by rw [hqp]; exact hrnr) (by rw [hqp]; exact hlim)
    exact ⟨by rw [hsent, htx, hqp, hframes], hdone⟩

/-! What is received on a queue pair (R416, R421). -/

/-- The registers that count a received frame. -/
def rxRegs : List Reg := [R.hstRxFrames, R.hstRxBytes]

/-- From `s` to `w` counters have advanced in which nothing else of the host port shows. -/
structure RxCounted (s : State) (q : Nat) (w : State) : Prop where
  eq : w = { s with csr := w.csr }
  frame : FrameKept q s w
  regs : ∀ r : Reg, r.addr ∉ rxRegs.map Reg.addr → rd w r = rd s r

theorem rxCounted_frame (hq : q ≤ 1024) (s : State) (n : Nat) : RxCounted s q (hstBump (hstBump s R.hstRxFrames 1) R.hstRxBytes n 64) := by
  refine ⟨?_, .trans (frameKept_bump hq (.inl (by decide)) ..) (frameKept_bump hq (.inl (by decide)) ..), fun r hr => ?_⟩
  · rw [hstBump, bump_csr, hstBump, bump_csr]
  · simp only [rxRegs, List.map_cons, List.map_nil, List.mem_cons, List.not_mem_nil, or_false, not_or] at hr
    exact (rd_bump_other _ _ hr.2 _ _).trans (rd_bump_other _ _ hr.1 _ _)

/-- A packet that is not counted as CE causes no CNP. -/
theorem ceSeen_none (h : NoCe s q) (k : Nat) : ceSeen s q false k = s := by
  obtain ⟨hecn, hcong⟩ := h
  refine if_neg ?_
  simp only [Bool.false_or, Bool.or_eq_true, Bool.and_eq_true, decide_eq_true_eq, not_or, not_and, Bool.not_eq_true]
  exact ⟨fun hbit hocc => hecn.elim (fun h0 => absurd hbit (by simp [h0])) (fun hlt => absurd hocc (Nat.not_le.2 hlt)), hcong⟩

theorem NoCe.counted {w : State} (h : NoCe s q) (hw : RxCounted s q w) : NoCe w q := by
  have hecn : rd w R.hstEcnCfg = rd s R.hstEcnCfg := hw.regs _ (by decide)
  have hdmp : rd w R.telDmpLim = rd s R.telDmpLim := hw.regs _ (by decide)
  have hport : w.hport = s.hport := by rw [hw.eq]
  simp only [NoCe, partCong, rxOcc, rdf, hecn, hdmp, hport, hw.frame.prio]
  exact h

/-- A queue pair that is RTS in a formed partition is addressed (R418). -/
theorem qpNone_false (hq : q ≤ 1024) (hs : qpState s q = 1) (hformed : q < 1024 → prtFormed s (qpPart q) = true) : qpNone s q = false := by
  by_cases hlt : q < 1024
  · simp [qpNone, hs, hformed hlt, Nat.not_lt.2 hq]
  · simp [qpNone, hs, hlt, Nat.not_lt.2 hq]

/-! Acknowledgements (R421, R425). -/

/-- An acknowledgement or NAK, once its frame is counted. -/
def ackServed (s : State) (q psn syn : Nat) : State :=
  if syn < 32 then sqAck s q psn ((qpGet s q).sq.length + 1)
  else
    let s1 := sqAck s q ((psn + 2 ^ 24 - 1) % 2 ^ 24) ((qpGet s q).sq.length + 1)
    if syn < 64 then qpMod s1 q (fun x => { x with rnrWait := !x.sq.isEmpty })
    else if syn = 96 then qpRetry s1 q
    else if 96 < syn && syn < 128 then qpError s1 q 3
    else s1

theorem roceAckReceive_served (hq : q ≤ 1024) (hup : s.hport.up = true) (hs : qpState s q = 1) (hformed : q < 1024 → prtFormed s (qpPart q) = true)
    (hce : NoCe s q) (psn syn : Nat) : ∃ w, RxCounted s q w ∧ roceAckReceive s q psn syn = ackServed w q psn syn := by
  have hcount := rxCounted_frame hq s (roceLen (qpIp s q) 4 0)
  refine ⟨_, hcount, ?_⟩
  unfold roceAckReceive
  generalize hstBump (hstBump s R.hstRxFrames 1) R.hstRxBytes (roceLen (qpIp s q) 4 0) 64 = w at hcount ⊢
  have hqp : qpGet s q = qpGet w q := by
    rw [hcount.eq]
    rfl
  simp only [hup, qpNone_false hq hs hformed, hs, ceSeen_none (hce.counted hcount), hqp, Bool.not_true, Bool.false_eq_true, if_false, ne_eq,
    not_true_eq_false]
  rfl

/-- The last message of a delivery run is acknowledged: its record is pending (R425). -/
theorem delAcked_last {d : DelRun} (hd : (qpGet s q).dels = [d]) (hleft : d.left = 1) :
    delAcked s q d.id = qpPut s q { qpGet s q with dels := [], recs := (qpGet s q).recs ++ [d.record] } := by
  simp [delAcked, hd, hleft, recPush, qpMod]

/-- What the acknowledgement of a message of a delivery run leaves. -/
theorem delAcked_eq (s : State) (q id : Nat) : ∃ ds rs, delAcked s q id = qpPut s q { qpGet s q with dels := ds, recs := rs } ∨ delAcked s q id = s := by
  unfold delAcked
  dsimp only
  split
  · exact ⟨[], [], .inr rfl⟩
  · next d _ =>
    split
    · refine ⟨(qpGet s q).dels.filter (fun e => e.id ≠ id), (qpGet s q).recs ++ [d.record], .inl ?_⟩
      rw [recPush, qpMod, qpGet_qpPut_same, qpPut_qpPut]
    · exact ⟨_, (qpGet s q).recs, .inl rfl⟩

end

end Sys2Proof.Machine

namespace Sys2Proof.Machine

/-! What commands of the host port leave on a calm device. -/

theorem hstQpCtrlQ_notNoted {q : Nat} (hq : q ≤ 1024) : (R.hstQpCtrlQ q).addr ∉ noteRegs := by
  simp [noteRegs, R.prtErrLog, R.prtErrCount, R.hstQpCtrlQ, blkBase]
  omega

theorem hostWorks_qpPut (s : State) (q : Nat) (x : QPair) : HostWorks s (qpPut s q x) := rfl

section
variable {s v u : State} {q : Nat}

theorem Follows.qpState {p : List Instr} (hf : Follows p v u) (hq : q ≤ 1024) : Machine.qpState u q = Machine.qpState v q :=
  congrArg (bits · 0 3) (hf.rd _ (hstQpCtrlQ_notNoted hq))

theorem Follows.waiting {p : List Instr} (hf : Follows p v u) (h : ¬ hasWaiting v q) : ¬ hasWaiting u q := by
  have hport : u.hport = v.hport := by rw [hf.eq]
  rw [hasWaiting, hport]
  exact h

/-- A queue pair that has entered ERROR sends nothing more. -/
theorem QueueDead.follows {code : Nat} {p : List Instr} (hd : QueueDead s q code v) (hq : q ≤ 1024) (hf : Follows p v u) :
    Machine.qpState u q = 2 ∧ (qpGet u q).err = code ∧ ¬ hasWaiting u q :=
  ⟨(hf.qpState hq).trans hd.state, by rw [hf.qpGet, hd.qp], hf.waiting hd.silent⟩

/-- What is sent again, as the device is left. -/
theorem Resent.follows {y : QPair} {p : List Instr} (hr : Resent (quiet s) q y v) (hf : Follows p v u) :
    qpGet u q = { y with pace := (qpGet u q).pace, freeAt := (qpGet u q).freeAt } ∧
    (y.rnrWait = false → y.limit = 0 → u.tx = y.sq.map (fun m => frameOf s (.request q m)) ∧ (qpGet u q).pace = []) := by
  have htx : u.tx = v.tx := by rw [hf.eq]
  rw [hf.qpGet, htx]
  refine ⟨hr.qp, fun hrnr hlim => ?_⟩
  obtain ⟨hsent, hdone⟩ := hr.all hrnr hlim
  exact ⟨hsent, hdone⟩

/-! Acknowledgements (R421). -/

theorem sqAck_nil (h : (qpGet s q).sq = []) (psn n : Nat) : sqAck s q psn n = s := by
  cases n with
  | zero => rfl
  | succ n => simp [sqAck, h]

/-- What comes before the first unacknowledged packet acknowledges nothing. -/
theorem sqAck_behind {m : TxMsg} {r : List TxMsg} (h : (qpGet s q).sq = m :: r) (hpsn : m.psn < 2 ^ 24) (n : Nat) :
    sqAck s q ((m.psn + 2 ^ 24 - 1) % 2 ^ 24) n = s := by
  have hd : ((m.psn + 2 ^ 24 - 1) % 2 ^ 24 + 1 + 2 ^ 24 - m.psn) % 2 ^ 24 = 0 := by omega
  cases n with
  | zero => rfl
  | succ n => simp only [sqAck, h, hd, decide_true, Bool.true_or, if_true]

/-- A queue pair in which all messages are acknowledged. -/
def qpAcked (x : QPair) : QPair := { x with sq := [], retry := 0, rnr := 0 }

/-- The last packet of the one message in flight acknowledges it. -/
theorem sqAck_covers {m : TxMsg} (h : (qpGet s q).sq = [m]) (h0 : 0 < m.pkts) (h1 : m.pkts < 2 ^ 23) (hpsn : m.psn < 2 ^ 24) :
    sqAck s q ((m.psn + m.pkts - 1) % 2 ^ 24) 2 =
      if m.del = 0 then qpPut s q (qpAcked (qpGet s q)) else delAcked (qpPut s q (qpAcked (qpGet s q))) q m.del := by
  have hd : ((m.psn + m.pkts - 1) % 2 ^ 24 + 1 + 2 ^ 24 - m.psn) % 2 ^ 24 = m.pkts := by omega
  have hin : (m.pkts = 0 || 2 ^ 23 ≤ m.pkts) = false := by simp; omega
  have hlast : ∀ t : State, (qpGet t q).sq = [] → sqAck t q ((m.psn + m.pkts - 1) % 2 ^ 24) 1 = t := fun t ht => sqAck_nil ht ..
  rw [sqAck, h]
  simp only [hd, hin, Bool.false_eq_true, Nat.lt_irrefl, if_false]
  refine hlast _ ?_
  split
  · exact congrArg QPair.sq (qpGet_qpPut_same ..)
  · obtain ⟨ds, rs, he | he⟩ := delAcked_eq (qpPut s q (qpAcked (qpGet s q))) q m.del
    · exact (congrArg (fun t => (qpGet t q).sq) he).trans (by simp [qpAcked])
    · exact (congrArg (fun t => (qpGet t q).sq) he).trans (by simp [qpAcked])

/-- From `s` to `v` message `m`, the one in flight on queue pair `q`, is acknowledged. -/
structure MessageAcked (s : State) (q : Nat) (m : TxMsg) (v : State) : Prop where
  works : HostWorks s v
  sq : (qpGet v q).sq = []
  retry : (qpGet v q).retry = 0
  delivered : m.del ≠ 0 → ∀ d : DelRun, (qpGet s q).dels = [d] → d.id = m.del → d.left = 1 →
    (qpGet v q).dels = [] ∧ (qpGet v q).recs = (qpGet s q).recs ++ [d.record]

theorem sqAck_acked {m : TxMsg} (h : (qpGet s q).sq = [m]) (h0 : 0 < m.pkts) (h1 : m.pkts < 2 ^ 23) (hpsn : m.psn < 2 ^ 24) :
    MessageAcked s q m (sqAck s q ((m.psn + m.pkts - 1) % 2 ^ 24) 2) := by
  rw [sqAck_covers h h0 h1 hpsn]
  have hqp : qpGet (qpPut s q (qpAcked (qpGet s q))) q = qpAcked (qpGet s q) := qpGet_qpPut_same ..
  split
  · next hdel => exact ⟨rfl, by rw [hqp]; rfl, by rw [hqp]; rfl, fun hne => absurd hdel hne⟩
  · have hdel : ∀ d : DelRun, (qpGet s q).dels = [d] → d.id = m.del → d.left = 1 →
        (qpGet (delAcked (qpPut s q (qpAcked (qpGet s q))) q m.del) q).dels = [] ∧
        (qpGet (delAcked (qpPut s q (qpAcked (qpGet s q))) q m.del) q).recs = (qpGet s q).recs ++ [d.record] := fun d hdels hid hleft => by
      rw [← hid, delAcked_last (d := d) (by rw [hqp]; exact hdels) hleft, qpGet_qpPut_same, hqp]
      exact ⟨rfl, rfl⟩
    obtain ⟨ds, rs, he | he⟩ := delAcked_eq (qpPut s q (qpAcked (qpGet s q))) q m.del
    · rw [he] at hdel ⊢
      exact ⟨rfl, by simp [qpAcked], by simp [qpAcked], fun _ => hdel⟩
    · rw [he] at hdel ⊢
      exact ⟨rfl, by rw [hqp]; rfl, by rw [hqp]; rfl, fun _ => hdel⟩

theorem RxCounted.works (h : RxCounted s q v) : HostWorks s v := hostWorks_csr h.eq

theorem RxCounted.qpGet (h : RxCounted s q v) : Machine.qpGet v q = Machine.qpGet s q := by
  rw [h.eq]
  rfl

/-- A queue pair whose peer asks again, or that waited too long, sends again what is unacknowledged. -/
theorem qpRetry_resent (hq : q ≤ 1024) (hs : qpState s q = 1) (hrun : Unpaused s q) (hv : v = { s with csr := v.csr }) (hkept : FrameKept q s v)
    (hsq : (qpGet s q).sq ≠ []) (hn : (qpGet s q).retry < rdf s (R.hstQpCtrlQ q) 17 3) :
    Resent s q { qpGet s q with retry := (qpGet s q).retry + 1 } (qpRetry v q) := by
  have hqp : qpGet v q = qpGet s q := by
    rw [hv]
    rfl
  have he : qpRetry v q = qpResend (qpPut v q { qpGet s q with retry := (qpGet s q).retry + 1 }) q := by
    simp [qpRetry, hqp, hsq, rdf, hkept.ctrl]
    exact fun h => absurd h (Nat.not_le.2 hn)
  rw [he]
  exact qpResend_resent hq hs hrun hv hkept _

/-- Retries that are used up end in ERROR. -/
theorem qpRetry_dead (hsq : (qpGet s q).sq ≠ []) (hn : rdf s (R.hstQpCtrlQ q) 17 3 ≤ (qpGet s q).retry) : QueueDead s q 1 (qpRetry s q) := by
  have he : qpRetry s q = qpError s q 1 := by simp [qpRetry, hsq, hn]
  rw [he]
  exact qpError_dead ..

/-! The timeouts (R421). -/

theorem qpAckTimeout_retries (hq : q ≤ 1024) (hs : qpState s q = 1) : qpAckTimeout s q = qpRetry s q := by
  simp [qpAckTimeout, hs, Nat.not_lt.2 hq]

/-- The queue pair once an RNR NAK has been waited out. -/
def rnrWaited (x : QPair) : QPair := { x with rnrWait := false, rnr := x.rnr + 1 }

theorem rnrRetryTimeout_resent (hq : q ≤ 1024) (hs : qpState s q = 1) (hrun : Unpaused s q) (hwait : (qpGet s q).rnrWait = true)
    (hn : (qpGet s q).rnr < rdf s (R.hstQpCtrlQ q) 20 3 ∨ rdf s (R.hstQpCtrlQ q) 20 3 = 7) :
    Resent s q (rnrWaited (qpGet s q)) (rnrRetryTimeout s q) := by
  have he : rnrRetryTimeout s q = qpResend (qpPut s q (rnrWaited (qpGet s q))) q := by
    simp only [rnrRetryTimeout, hs, hwait, Nat.not_lt.2 hq, decide_false, ne_eq, not_true_eq_false, Bool.not_true, Bool.or_self, Bool.false_eq_true,
      if_false]
    refine if_neg ?_
    simp only [Bool.and_eq_true, decide_eq_true_eq]
    omega
  rw [he]
  exact qpResend_resent hq hs hrun rfl (.refl q s) _

theorem rnrRetryTimeout_dead (hq : q ≤ 1024) (hs : qpState s q = 1) (hwait : (qpGet s q).rnrWait = true)
    (h7 : rdf s (R.hstQpCtrlQ q) 20 3 < 7) (hn : rdf s (R.hstQpCtrlQ q) 20 3 ≤ (qpGet s q).rnr) :
    QueueDead (qpPut s q (rnrWaited (qpGet s q))) q 2 (rnrRetryTimeout s q) := by
  have he : rnrRetryTimeout s q = qpError (qpPut s q (rnrWaited (qpGet s q))) q 2 := by
    simp [rnrRetryTimeout, hs, hwait, Nat.not_lt.2 hq, h7, hn]
    rfl
  rw [he]
  exact qpError_dead ..

/-! CNPs (R487). -/

/-- A CNP that is taken, once its frame is counted: it is counted itself, and cuts the rate, where the damper is on and the last cut long enough ago. -/
theorem cnpReceive_counted (hq : q ≤ 1024) (hup : s.hport.up = true) (hs : qpState s q = 1) (hformed : q < 1024 → prtFormed s (qpPart q) = true)
    (hce : NoCe s q) : ∃ w, RxCounted s q w ∧ cnpReceive s q =
      if !bit (rd s R.telDmpLim) 40 || cutRecent s (qpGet s q).cutAt then hstBump w R.hstCnpRecv 1
      else telBump (qpPut (hstBump w R.hstCnpRecv 1) q
        { qpGet s q with limit := rateCut s (qpGet s q).limit 100000 (dmpCfg s 12 8), cutAt := some (telNow s) }) R.telRateCuts 1 := by
  have hcount := rxCounted_frame hq s (roceLen (qpIp s q) 16 0)
  refine ⟨_, hcount, ?_⟩
  unfold cnpReceive
  generalize hstBump (hstBump s R.hstRxFrames 1) R.hstRxBytes (roceLen (qpIp s q) 16 0) 64 = w at hcount ⊢
  have hqp : qpGet (hstBump w R.hstCnpRecv 1) q = qpGet s q := by
    rw [hstBump, bump_csr]
    exact hcount.qpGet
  simp only [hup, qpNone_false hq hs hformed, hs, ceSeen_none (hce.counted hcount), hqp, Bool.not_true, Bool.false_eq_true, if_false, ne_eq,
    not_true_eq_false]

end

end Sys2Proof.Machine

namespace Sys2Proof.Machine

section
variable {s : State} {q : Nat} {m : TxMsg}

/-- A command of a queue pair in which the host port works is carried out. -/
theorem hostWorks_completes {f : State → State} {P : State → Prop} (hc : Calm s) (hq : q ≤ 1024) (hv : HostWorks (quiet s) (f (quiet s)))
    (hP : ∀ u, Follows s.pending (f (quiet s)) u → P u) : ∃ u, act (only (q ≤ 1024) f) s = .next u ∧ P u := by
  obtain ⟨u, hu, hf⟩ := lead_act hc hq rfl (hv.calm hc.quiet)
  exact ⟨u, hu, hP u hf⟩

/-! Acknowledgements and NAKs of the one message in flight (R421). -/

section
variable (hc : Calm s) (hq : q ≤ 1024) (hup : s.hport.up = true) (hs : qpState s q = 1) (hformed : q < 1024 → prtFormed s (qpPart q) = true)
  (hce : NoCe s q) (hsq : (qpGet s q).sq = [m]) (hpsn : m.psn < 2 ^ 24)
include hc hq hup hs hformed hce hsq hpsn

theorem ack_completes (h0 : 0 < m.pkts) (h1 : m.pkts < 2 ^ 23) {syn : Nat} (hsyn : syn < 32) :
    Completes (.roceAckReceive q ((m.psn + m.pkts - 1) % 2 ^ 24) syn) s (fun u => (qpGet u q).sq = [] ∧ (qpGet u q).retry = 0 ∧
      (m.del ≠ 0 → ∀ d : DelRun, (qpGet s q).dels = [d] → d.id = m.del → d.left = 1 →
        (qpGet u q).dels = [] ∧ (qpGet u q).recs = (qpGet s q).recs ++ [d.record])) := by
  obtain ⟨w, hw, he⟩ := roceAckReceive_served (s := quiet s) hq hup hs hformed hce ((m.psn + m.pkts - 1) % 2 ^ 24) syn
  have hqw : qpGet w q = qpGet s q := hw.qpGet
  have hserved : ackServed w q ((m.psn + m.pkts - 1) % 2 ^ 24) syn = sqAck w q ((m.psn + m.pkts - 1) % 2 ^ 24) 2 := by
    simp [ackServed, hsyn, hqw, hsq]
  have hack := sqAck_acked (s := w) (q := q) (m := m) (by rw [hqw]; exact hsq) h0 h1 hpsn
  rw [← hserved, ← he] at hack
  refine hostWorks_completes hc hq (hw.works.trans hack.works) fun u hf => ?_
  rw [hf.qpGet, ← hqw]
  exact ⟨hack.sq, hack.retry, hack.delivered⟩

omit hc in
/-- A NAK of the first packet acknowledges nothing; its syndrome tells what it asks for. -/
theorem nak_served (syn : Nat) (hsyn : 32 ≤ syn) : ∃ w, RxCounted (quiet s) q w ∧ roceAckReceive (quiet s) q m.psn syn =
    if syn < 64 then qpMod w q (fun x => { x with rnrWait := !x.sq.isEmpty })
    else if syn = 96 then qpRetry w q
    else if 96 < syn && syn < 128 then qpError w q 3
    else w := by
  obtain ⟨w, hw, he⟩ := roceAckReceive_served (s := quiet s) hq hup hs hformed hce m.psn syn
  have hqw : qpGet w q = qpGet s q := hw.qpGet
  refine ⟨w, hw, he.trans ?_⟩
  simp only [ackServed, Nat.not_lt.2 hsyn, if_false, sqAck_behind (hqw ▸ hsq) hpsn]

theorem rnrNak_completes {syn : Nat} (h1 : 32 ≤ syn) (h2 : syn < 64) :
    Completes (.roceAckReceive q m.psn syn) s (fun u => qpGet u q = { qpGet s q with rnrWait := true }) := by
  obtain ⟨w, hw, he⟩ := nak_served hq hup hs hformed hce hsq hpsn syn h1
  have hqw : qpGet w q = qpGet s q := hw.qpGet
  rw [if_pos h2] at he
  refine hostWorks_completes hc hq (by rw [he]; exact hw.works.trans (hostWorks_qpPut ..)) fun u hf => ?_
  have hsome : (qpGet s q).sq.isEmpty = false := by rw [hsq]; rfl
  rw [hf.qpGet, he, qpGet_qpMod_same, hqw, hsome]
  rfl

theorem seqNak_completes (hn : (qpGet s q).retry < rdf s (R.hstQpCtrlQ q) 17 3) (hrun : Unpaused s q) :
    Completes (.roceAckReceive q m.psn 96) s (fun u =>
      qpGet u q = { qpGet s q with retry := (qpGet s q).retry + 1, pace := (qpGet u q).pace, freeAt := (qpGet u q).freeAt } ∧
      ((qpGet s q).rnrWait = false → (qpGet s q).limit = 0 →
        u.tx = (qpGet s q).sq.map (fun m => frameOf s (.request q m)) ∧ (qpGet u q).pace = [])) := by
  obtain ⟨w, hw, he⟩ := nak_served hq hup hs hformed hce hsq hpsn 96 (by decide)
  have hres := qpRetry_resent (s := quiet s) hq hs hrun hw.eq hw.frame (by change (qpGet s q).sq ≠ []; simp [hsq]) hn
  have he : roceAckReceive (quiet s) q m.psn 96 = qpRetry w q := he
  rw [← he] at hres
  exact hostWorks_completes hc hq hres.works fun u hf => hres.follows hf

theorem errNak_completes {syn : Nat} (h1 : 96 < syn) (h2 : syn < 128) :
    Completes (.roceAckReceive q m.psn syn) s (fun u => qpState u q = 2 ∧ (qpGet u q).err = 3 ∧ ¬ hasWaiting u q) := by
  obtain ⟨w, hw, he⟩ := nak_served hq hup hs hformed hce hsq hpsn syn (by omega)
  rw [if_neg (by omega), if_neg (by omega), if_pos (by simp [h1, h2])] at he
  have hdead := qpError_dead w q 3
  rw [← he] at hdead
  exact hostWorks_completes hc hq (hw.works.trans hdead.works) fun u hf => hdead.follows hq hf

end

/-! CNPs (R487). -/

section
variable (hc : Calm s) (hq : q ≤ 1024) (hup : s.hport.up = true) (hs : qpState s q = 1) (hformed : q < 1024 → prtFormed s (qpPart q) = true)
  (hce : NoCe s q)
include hc hq hup hs hformed hce

theorem cnp_cuts (hon : bit (rd s R.telDmpLim) 40 = true) (hold : cutRecent s (qpGet s q).cutAt = false) :
    Completes (.cnpReceive q) s (fun u =>
      qpGet u q = { qpGet s q with limit := rateCut s (qpGet s q).limit 100000 (dmpCfg s 12 8), cutAt := some (telNow s) }) := by
  obtain ⟨w, hw, he⟩ := cnpReceive_counted (s := quiet s) hq hup hs hformed hce
  have hcut : (!bit (rd (quiet s) R.telDmpLim) 40 || cutRecent (quiet s) (qpGet (quiet s) q).cutAt) = false := by
    rw [Bool.or_eq_false_iff, Bool.not_eq_false']
    exact ⟨hon, hold⟩
  rw [hcut, if_neg Bool.false_ne_true] at he
  have hcnp : HostWorks w (hstBump w R.hstCnpRecv 1) := hostWorks_csr (bump_csr ..)
  refine hostWorks_completes hc hq ?_ fun u hf => ?_
  · rw [he]
    exact ((hw.works.trans hcnp).trans (hostWorks_qpPut ..)).trans (hostWorks_csr (bump_csr ..))
  · rw [hf.qpGet, he, telBump, bump_csr]
    exact qpGet_qpPut_same ..

theorem cnp_leaves (hoff : bit (rd s R.telDmpLim) 40 = false ∨ cutRecent s (qpGet s q).cutAt = true) :
    Completes (.cnpReceive q) s (fun u => qpGet u q = qpGet s q ∧
      (bit (rd s R.hstCtrl) 0 = false → rd u R.hstCnpRecv = (rd s R.hstCnpRecv + 1) % 2 ^ 48)) := by
  obtain ⟨w, hw, he⟩ := cnpReceive_counted (s := quiet s) hq hup hs hformed hce
  have hcut : (!bit (rd (quiet s) R.telDmpLim) 40 || cutRecent (quiet s) (qpGet (quiet s) q).cutAt) = true := by
    rw [Bool.or_eq_true, Bool.not_eq_true']
    exact hoff
  rw [if_pos hcut] at he
  have hctrl : rd w R.hstCtrl = rd s R.hstCtrl := hw.frame.same _ (.head _)
  have hrecv : rd w R.hstCnpRecv = rd s R.hstCnpRecv := hw.regs _ (by decide)
  refine hostWorks_completes hc hq ?_ fun u hf => ⟨?_, fun hrun => ?_⟩
  · rw [he]
    exact hw.works.trans (hostWorks_csr (bump_csr ..))
  · rw [hf.qpGet, he, hstBump, bump_csr]
    exact hw.qpGet
  · rw [hf.rd _ (by decide), he, hstBump, hctrl, hrun, rd_bump_same, hrecv]
    rfl

end

/-! Timeouts (R421). -/

section
variable (hc : Calm s) (hq : q ≤ 1024) (hs : qpState s q = 1)
include hc hq hs

theorem ackTimeout_resends (hsq : (qpGet s q).sq ≠ []) (hn : (qpGet s q).retry < rdf s (R.hstQpCtrlQ q) 17 3) (hrun : Unpaused s q) :
    Completes (.qpAckTimeout q) s (fun u =>
      qpGet u q = { qpGet s q with retry := (qpGet s q).retry + 1, pace := (qpGet u q).pace, freeAt := (qpGet u q).freeAt } ∧
      ((qpGet s q).rnrWait = false → (qpGet s q).limit = 0 →
        u.tx = (qpGet s q).sq.map (fun m => frameOf s (.request q m)) ∧ (qpGet u q).pace = [])) := by
  have hres := qpRetry_resent (s := quiet s) hq hs hrun rfl (.refl q _) hsq hn
  rw [← qpAckTimeout_retries (s := quiet s) hq hs] at hres
  exact hostWorks_completes hc hq hres.works fun u hf => hres.follows hf

theorem ackTimeout_ends (hsq : (qpGet s q).sq ≠ []) (hn : rdf s (R.hstQpCtrlQ q) 17 3 ≤ (qpGet s q).retry) :
    Completes (.qpAckTimeout q) s (fun u => (qpState u q = 2 ∧ (qpGet u q).err = 1 ∧ ¬ hasWaiting u q) ∧ qpGet u q = { qpGet s q with err := 1 } ∧
      SameRegs s u [R.hstQpCtrlQ q, R.hstErrLog, R.hstErrCount]) := by
  have hdead := qpRetry_dead (s := quiet s) hsq hn
  rw [← qpAckTimeout_retries (s := quiet s) hq hs] at hdead
  exact hostWorks_completes hc hq hdead.works fun u hf =>
    ⟨hdead.follows hq hf, (hf.qpGet q).trans hdead.qp, hdead.works.sameRegs hf hdead.regs⟩

theorem rnrTimeout_resends (hwait : (qpGet s q).rnrWait = true)
    (hn : (qpGet s q).rnr < rdf s (R.hstQpCtrlQ q) 20 3 ∨ rdf s (R.hstQpCtrlQ q) 20 3 = 7) (hrun : Unpaused s q) :
    Completes (.rnrRetryTimeout q) s (fun u =>
      qpGet u q = { qpGet s q with rnrWait := false, rnr := (qpGet s q).rnr + 1, pace := (qpGet u q).pace, freeAt := (qpGet u q).freeAt } ∧
      ((qpGet s q).limit = 0 → u.tx = (qpGet s q).sq.map (fun m => frameOf s (.request q m)) ∧ (qpGet u q).pace = [])) := by
  have hres := rnrRetryTimeout_resent (s := quiet s) hq hs hrun hwait hn
  refine hostWorks_completes hc hq hres.works fun u hf => ?_
  obtain ⟨hqp, hall⟩ := hres.follows hf
  exact ⟨hqp, hall rfl⟩

theorem rnrTimeout_ends (hwait : (qpGet s q).rnrWait = true) (h7 : rdf s (R.hstQpCtrlQ q) 20 3 < 7)
    (hn : rdf s (R.hstQpCtrlQ q) 20 3 ≤ (qpGet s q).rnr) :
    Completes (.rnrRetryTimeout q) s (fun u => qpState u q = 2 ∧ (qpGet u q).err = 2 ∧ ¬ hasWaiting u q) := by
  have hdead := rnrRetryTimeout_dead (s := quiet s) hq hs hwait h7 hn
  exact hostWorks_completes hc hq ((hostWorks_qpPut ..).trans hdead.works) fun u hf => hdead.follows hq hf

end

end

/-! A queue pair starts, and is reset (R426). -/

section
variable {s : State} {q : Nat}

theorem hstQpCtrlQ_host (hq : q ≤ 1024) : ¬ OffHost (R.hstQpCtrlQ q) := by
  simp only [OffHost, R.hstQpCtrlQ, blkBase]
  omega

/-- A queue pair as RTS leaves it: its PSNs are set, and SEQ starts at 1. -/
def qpStarted (s : State) (q : Nat) : QPair :=
  { QPair.reset with sqPsn := rdf s (R.hstQpPsnQ q) 0 24, rqPsn := rdf s (R.hstQpPsnQ q) 32 24, nextSeq := 1 }

theorem qpRts_started (hq : q < 1024) (hs : qpState s q = 0) (hformed : prtFormed s (qpPart q) = true) :
    HostKept (qpPut (wrf s (R.hstQpCtrlQ q) 0 3 1) q (qpStarted s q)) (qpRts s q) := by
  have he : qpRts s q = (putPages (qpPut (wrf s (R.hstQpCtrlQ q) 0 3 1) q (qpStarted s q)) 0 (qpPart q) (cqVa s q)
      (List.replicate (32 * cqSlots s q) 0) (pageFuel (32 * cqSlots s q))).2 := by
    rw [qpRts, if_neg (by simp [hs, hformed, hq])]
    rfl
  rw [he]
  exact hostKept_putPages _ (Nat.div_lt_of_lt_mul hq) ..

theorem qpRts_completes (hq : q < 1024) (hs : qpState s q = 0) (hformed : prtFormed s (qpPart q) = true) (hc : Calm s)
    (hend : Calm (qpRts (quiet s) q)) : Completes (.qpRts q) s (fun u => qpState u q = 1 ∧ qpGet u q = qpStarted s q) := by
  have hkept := qpRts_started (s := quiet s) hq hs hformed
  obtain ⟨u, hu, hf⟩ := lead_stk (f := fun t => qpRts t q) hc hq.le rfl hend
  refine ⟨u, hu, ?_, ?_⟩
  · have hctrl := hkept.host _ (hstQpCtrlQ_host hq.le)
    exact (hf.qpState hq.le).trans ((congrArg (bits · 0 3) hctrl).trans (qpState_wrf (by decide) (quiet s) q))
  · rw [hf.qpGet, qpGet_congr hkept.qps]
    exact qpGet_qpPut_same ..

theorem qpReset_completes (hq : q < 1024) (hc : Calm s) : Completes (.qpReset q) s (fun u =>
    qpState u q = 0 ∧ qpGet u q = QPair.reset ∧ SameRegs s u [R.hstQpCtrlQ q] ∧ ¬ hasWaiting u q) := by
  have he : qpReset (quiet s) q = qpDrop (quiet s) q := if_neg (Nat.not_le.2 hq)
  have hworks : HostWorks (quiet s) (qpDrop (quiet s) q) := rfl
  obtain ⟨u, hu, hf⟩ := lead_stk (f := fun t => qpReset t q) hc hq.le he (hworks.calm hc.quiet)
  refine ⟨u, hu, ?_, ?_, hworks.sameRegs hf fun r hr => ?_, hf.waiting (not_hasWaiting_waitDrop (quiet s) q)⟩
  · exact (hf.qpState hq.le).trans (qpState_wrf (by decide) (waitDrop (quiet s) q) q)
  · rw [hf.qpGet]
    exact congrArg (·.getD QPair.reset) (tget_tdel_same ..)
  · exact rd_wr_other _ (by simpa using hr) _

end

end Sys2Proof.Machine

namespace Sys2Proof.Machine

/-! Completion records (R310, R427). -/

/-- From `s` to `t` queue pair `q` sends and answers: of the device only registers, queue pairs and what the port sent change, and the queue pair's
pending records stand before those that have joined. -/
structure QueueAnswers (q : Nat) (s t : State) : Prop where
  eq : t = { s with csr := t.csr, qps := t.qps, tx := t.tx }
  recs : ∃ l, (qpGet t q).recs = (qpGet s q).recs ++ l
  seq : (qpGet t q).nextSeq = (qpGet s q).nextSeq
  frame : FrameKept q s t

section
variable {s t u : State} {q : Nat}

theorem QueueAnswers.trans (h1 : QueueAnswers q s t) (h2 : QueueAnswers q t u) : QueueAnswers q s u where
  eq := by
    have e := h2.eq
    rw [h1.eq] at e
    exact e
  recs := by
    obtain ⟨l1, hl1⟩ := h1.recs
    obtain ⟨l2, hl2⟩ := h2.recs
    exact ⟨l1 ++ l2, by rw [hl2, hl1, List.append_assoc]⟩
  seq := h2.seq.trans h1.seq
  frame := h1.frame.trans h2.frame

theorem QueueAnswers.unpaused (h : QueueAnswers q s t) (hrun : Unpaused s q) : Unpaused t q := by
  have hport : t.hport = s.hport := by rw [h.eq]
  rw [Unpaused, hport, h.frame.prio]
  exact hrun

theorem QueueAnswers.works (h : QueueAnswers q s t) : HostWorks s t := by
  unfold HostWorks
  rw [h.eq]

theorem queueAnswers_csr (h : t = { s with csr := t.csr }) (hkept : FrameKept q s t) : QueueAnswers q s t := by
  have hqp : qpGet t q = qpGet s q := by
    rw [h]
    rfl
  exact ⟨by rw [h], ⟨[], by rw [hqp, List.append_nil]⟩, by rw [hqp], hkept⟩

theorem QueueAnswers.refl (q : Nat) (s : State) : QueueAnswers q s s := queueAnswers_csr rfl (.refl q s)

theorem MessagesLeave.answers (h : MessagesLeave q s t) : QueueAnswers q s t :=
  ⟨h.eq, ⟨[], by rw [h.qp, List.append_nil]⟩, by rw [h.qp], h.regs⟩

theorem queueAnswers_qpPut {x : QPair} (l : List Rec) (hl : x.recs = (qpGet s q).recs ++ l) (hseq : x.nextSeq = (qpGet s q).nextSeq) :
    QueueAnswers q s (qpPut s q x) :=
  ⟨rfl, ⟨l, by rw [qpGet_qpPut_same]; exact hl⟩, by rw [qpGet_qpPut_same]; exact hseq, frameKept_qpPut ..⟩

theorem hostReq_answers (hq : q ≤ 1024) (hrun : Unpaused s q) (op : Nat) (data : List Byte) (va rkey imm del : Nat) :
    QueueAnswers q s (hostReq s q op data va rkey imm del) := by
  unfold hostReq
  split
  · exact .refl q s
  · have hjoin := queueAnswers_qpPut (s := s) (q := q) (x := qpJoined (qpGet s q) (reqMsg s q op data va rkey imm del)) []
      (List.append_nil _).symm rfl
    exact hjoin.trans (paceRun_leaves hq _ (hjoin.unpaused hrun)).answers

/-- A bad command is answered, or its record joins. -/
theorem cmdBad_answers (hq : q ≤ 1024) (hrun : Unpaused s q) (op ctag at_ : Nat) : QueueAnswers q s (cmdBad s q op ctag at_) := by
  have hnoted : QueueAnswers q s (hstErr s 4 q 0) := queueAnswers_csr (hstErr_csr ..) (frameKept_hstErr hq ..)
  unfold cmdBad
  dsimp only
  generalize hstErr s 4 q 0 = w at hnoted ⊢
  split
  · exact hnoted.trans (queueAnswers_qpPut _ rfl rfl)
  · have hsent : QueueAnswers q w (hostAnswer w q op 2 ctag 0 0) := hostReq_answers hq (hnoted.unpaused hrun) ..
    exact (hnoted.trans hsent).trans (queueAnswers_csr (bump_csr ..) (frameKept_histCount hq ..))

theorem cmdsPump_answers (hq : q ≤ 1024) (n : Nat) (hrun : Unpaused s q) : QueueAnswers q s (cmdsPump s q n) := by
  induction n generalizing s with
  | zero => exact .refl q s
  | succ n ih =>
    unfold cmdsPump
    split
    · next op ctag at_ r _ =>
      split
      · have htaken : QueueAnswers q s (qpMod s q (fun x => { x with cmds := r })) := queueAnswers_qpPut [] (List.append_nil _).symm rfl
        have hstep := htaken.trans (cmdBad_answers hq (htaken.unpaused hrun) op ctag at_)
        exact hstep.trans (ih (hstep.unpaused hrun))
      · exact .refl q s
    · exact .refl q s

/-- Where no bad command stands first, none is answered. -/
theorem cmdsPump_good (h : ∀ op ctag t r, (qpGet s q).cmds ≠ .bad op ctag t :: r) (n : Nat) : cmdsPump s q n = s := by
  cases n with
  | zero => rfl
  | succ n =>
    unfold cmdsPump
    split
    · next hcmds => exact absurd hcmds (h _ _ _ _)
    · rfl

/-- The queue pair once its first pending record is written, the rest being pending. -/
def qpRecorded (x : QPair) (rest : List Rec) : QPair := { x with recs := rest, nextSeq := (x.nextSeq + 1) % 2 ^ 32 }

/-- The first pending record of queue pair `q` is given; one that answers a command counts its latency. -/
def recordGive (w : State) (q : Nat) (rest : List Rec) (acc : Option Nat) : State :=
  match acc with
  | some t => histCount (qpPut w q (qpRecorded (qpGet w q) rest)) 26 t
  | none => qpPut w q (qpRecorded (qpGet w q) rest)

/-- From `w` to `t` the first pending record of queue pair `q` is given. -/
structure RecordGiven (q : Nat) (rest : List Rec) (w t : State) : Prop where
  eq : t = { w with csr := t.csr, qps := t.qps }
  qp : qpGet t q = qpRecorded (qpGet w q) rest
  frame : FrameKept q w t

theorem recordGive_given (hq : q ≤ 1024) (w : State) (rest : List Rec) (acc : Option Nat) : RecordGiven q rest w (recordGive w q rest acc) := by
  have hput := frameKept_qpPut q w q (qpRecorded (qpGet w q) rest)
  cases acc with
  | none => exact ⟨rfl, qpGet_qpPut_same .., hput⟩
  | some t =>
    have hkept := hput.trans (frameKept_histCount hq _ 26 t)
    have hcsr : histCount (qpPut w q (qpRecorded (qpGet w q) rest)) 26 t =
      { qpPut w q (qpRecorded (qpGet w q) rest) with csr := (histCount (qpPut w q (qpRecorded (qpGet w q) rest)) 26 t).csr } := bump_csr ..
    unfold recordGive
    dsimp only
    generalize histCount (qpPut w q (qpRecorded (qpGet w q) rest)) 26 t = v at hkept hcsr ⊢
    refine ⟨by rw [hcsr]; rfl, ?_, hkept⟩
    rw [hcsr]
    exact qpGet_qpPut_same ..

/-- A pending record is written into its EMPTY slot: then, where the queue pair asks for it, an immediate tells of it, and what waited for room is
answered. -/
theorem completionRecordWrite_given {r : Rec} {rest : List Rec} {ue : Bool} {w1 w2 : State} (hq : q < 1024) (hs : qpState s q = 1)
    (hrecs : (qpGet s q).recs = r :: rest)
    (hslot : vaGet s (qpPart q) (cqVa s q + 32 * ((qpGet s q).nextSeq % cqSlots s q)) 1 true = (some [0], ue, w1))
    (hput : vaPut w1 (qpPart q) (cqVa s q + 32 * ((qpGet s q).nextSeq % cqSlots s q)) (recBytes s r (qpGet s q).nextSeq) = (.ok, w2)) :
    ∃ v, RecordGiven q rest w2 v ∧ completionRecordWrite s q =
      cmdsPump (if bit (rd s (R.hstQpCtrlQ q)) 24 then hostReq v q 2 [] 0 0 (qpGet s q).nextSeq 0 else v) q 64 := by
  refine ⟨_, recordGive_given hq.le w2 rest r.acc, ?_⟩
  have hgo : (decide (1024 ≤ q) || decide (qpState s q ≠ 1)) = false := by simp [hs, hq]
  unfold completionRecordWrite
  simp only [hgo, hrecs, hslot, Bool.false_eq_true, if_false]
  split
  · rw [hput, if_neg (not_not.2 rfl)]
    rfl
  · next h => exact absurd rfl h

/-- A ring whose slot is not EMPTY holds the record back. -/
theorem completionRecordWrite_full {r : Rec} {rest : List Rec} {ue : Bool} {w1 : State} {b : Byte} (hq : q < 1024) (hs : qpState s q = 1)
    (hrecs : (qpGet s q).recs = r :: rest)
    (hslot : vaGet s (qpPart q) (cqVa s q + 32 * ((qpGet s q).nextSeq % cqSlots s q)) 1 true = (some [b], ue, w1)) (hb : b ≠ 0) :
    completionRecordWrite s q = s := by
  have hgo : (decide (1024 ≤ q) || decide (qpState s q ≠ 1)) = false := by simp [hs, hq]
  unfold completionRecordWrite
  simp only [hgo, hrecs, hslot, Bool.false_eq_true, if_false]
  split
  · next h => exact absurd (List.cons.inj (Option.some.inj h)).1 hb
  · rfl

end

end Sys2Proof.Machine

namespace Sys2Proof.Machine

section
variable {s w v : State} {q : Nat} {rest : List Rec}

theorem RecordGiven.works (h : RecordGiven q rest w v) : HostWorks w v := by
  unfold HostWorks
  rw [h.eq]

theorem RecordGiven.unpaused (h : RecordGiven q rest w v) (hrun : Unpaused w q) : Unpaused v q := by
  have hport : v.hport = w.hport := by rw [h.eq]
  rw [Unpaused, hport, h.frame.prio]
  exact hrun

/-- A request joins what its queue pair has unacknowledged, whether it leaves at once or later. -/
theorem hostReq_joins (hq : q ≤ 1024) (hs : qpState s q = 1) (hrun : Unpaused s q) (op : Nat) (data : List Byte) (va rkey imm del : Nat) :
    ∃ l n, qpGet (hostReq s q op data va rkey imm del) q =
      { qpJoined (qpGet s q) (reqMsg s q op data va rkey imm del) with pace := l, freeAt := n } := by
  rw [hostReq_eq hs]
  have hrun' : Unpaused (qpPut s q (qpJoined (qpGet s q) (reqMsg s q op data va rkey imm del))) q := hrun
  have hleave := (paceRun_leaves hq ((qpGet s q).pace.length + 1) hrun').qp
  rw [qpGet_qpPut_same] at hleave
  exact ⟨_, _, hleave⟩

/-- The immediate that tells of the record numbered `seq` (R427). -/
def recordTold (s : State) (q seq : Nat) (ask : Bool) : State := if ask then hostReq s q 2 [] 0 0 seq 0 else s

theorem recordTold_answers (hq : q ≤ 1024) (hrun : Unpaused s q) (seq : Nat) (ask : Bool) : QueueAnswers q s (recordTold s q seq ask) := by
  unfold recordTold
  split
  · exact hostReq_answers hq hrun ..
  · exact .refl q s

theorem recordTold_qp (hq : q ≤ 1024) (hs : qpState s q = 1) (hrun : Unpaused s q) (seq : Nat) (ask : Bool) :
    (qpGet (recordTold s q seq ask) q).cmds = (qpGet s q).cmds ∧ (qpGet (recordTold s q seq ask) q).recs = (qpGet s q).recs ∧
    (qpGet (recordTold s q seq ask) q).sq =
      if ask then (qpGet s q).sq ++ [⟨(qpGet s q).sqPsn, 1, 2, [], 0, 0, seq, 0⟩] else (qpGet s q).sq := by
  cases ask with
  | false => exact ⟨rfl, rfl, rfl⟩
  | true =>
    obtain ⟨l, n, hjoin⟩ := hostReq_joins hq hs hrun 2 [] 0 0 seq 0
    have htold : recordTold s q seq true = hostReq s q 2 [] 0 0 seq 0 := rfl
    rw [htold, hjoin]
    exact ⟨rfl, rfl, rfl⟩

theorem recordWrite_completes {r : Rec} {ue : Bool} {w1 : State} (hc : Calm s) (hq : q < 1024) (hs : qpState s q = 1)
    (hrecs : (qpGet s q).recs = r :: rest)
    (hslot : vaGet (quiet s) (qpPart q) (cqVa s q + 32 * ((qpGet s q).nextSeq % cqSlots s q)) 1 true = (some [0], ue, w1))
    (hput : vaPut w1 (qpPart q) (cqVa s q + 32 * ((qpGet s q).nextSeq % cqSlots s q)) (recBytes (quiet s) r (qpGet s q).nextSeq) = (.ok, w))
    (hcw : Calm w) (hqps : w.qps = s.qps) (hsw : qpState w q = 1) (hrun : Unpaused w q) :
    Completes (.completionRecordWrite q) s (fun u => (∃ l, (qpGet u q).recs = rest ++ l) ∧ (qpGet u q).nextSeq = ((qpGet s q).nextSeq + 1) % 2 ^ 32 ∧
      u.slices = w.slices ∧ u.hbm = w.hbm ∧
      ((∀ op ctag t r, (qpGet s q).cmds ≠ .bad op ctag t :: r) → (qpGet u q).recs = rest ∧
        (qpGet u q).sq = if bit (rd s (R.hstQpCtrlQ q)) 24 then (qpGet s q).sq ++ [⟨(qpGet s q).sqPsn, 1, 2, [], 0, 0, (qpGet s q).nextSeq, 0⟩]
          else (qpGet s q).sq)) := by
  obtain ⟨v, hv, he⟩ := completionRecordWrite_given (s := quiet s) hq hs hrecs hslot hput
  have he : completionRecordWrite (quiet s) q = cmdsPump (recordTold v q (qpGet s q).nextSeq (bit (rd s (R.hstQpCtrlQ q)) 24)) q 64 := he
  have hqp : qpGet v q = qpRecorded (qpGet s q) rest := by rw [hv.qp, qpGet_congr hqps]
  have hrunv := hv.unpaused hrun
  have htold := recordTold_answers hq.le hrunv (qpGet s q).nextSeq (bit (rd s (R.hstQpCtrlQ q)) 24)
  obtain ⟨hcmds, hrec, hsq⟩ := recordTold_qp hq.le (hv.frame.state.trans hsw) hrunv (qpGet s q).nextSeq (bit (rd s (R.hstQpCtrlQ q)) 24)
  have hall := htold.trans (cmdsPump_answers hq.le 64 (htold.unpaused hrunv))
  have hgood := cmdsPump_good (s := recordTold v q (qpGet s q).nextSeq (bit (rd s (R.hstQpCtrlQ q)) 24)) (q := q)
  rw [hqp] at hcmds hrec hsq
  rw [hcmds] at hgood
  generalize recordTold v q (qpGet s q).nextSeq (bit (rd s (R.hstQpCtrlQ q)) 24) = t at *
  have hworks := hv.works.trans hall.works
  obtain ⟨u, hu, hf⟩ := lead_act (f := fun t => completionRecordWrite t q) hc hq.le he (hworks.calm hcw)
  refine ⟨u, hu, ?_, ?_, ?_, ?_, fun hnone => ?_⟩
  · obtain ⟨l, hl⟩ := hall.recs
    exact ⟨l, by rw [hf.qpGet, hl, hqp]; rfl⟩
  · rw [hf.qpGet, hall.seq, hqp]
    rfl
  · rw [hf.slices, hworks]
  · rw [hf.hbm, hworks]
  · rw [hf.qpGet, hgood hnone]
    exact ⟨hrec, hsq⟩

theorem recordWrite_holds {r : Rec} {ue : Bool} {w1 : State} {b : Byte} (hc : Calm s) (hq : q < 1024) (hs : qpState s q = 1)
    (hrecs : (qpGet s q).recs = r :: rest)
    (hslot : vaGet (quiet s) (qpPart q) (cqVa s q + 32 * ((qpGet s q).nextSeq % cqSlots s q)) 1 true = (some [b], ue, w1)) (hb : b ≠ 0) :
    Leads (.completionRecordWrite q) s (quiet s) :=
  lead_act (f := fun t => completionRecordWrite t q) hc hq.le (completionRecordWrite_full (s := quiet s) hq hs hrecs hslot hb) hc.quiet

end

/-- Settles O46: each command is one of the cases proved above; a queue pair that resends or ends in ERROR does what `Resent` or `QueueDead` says. -/
theorem queuePairs : Obligations.QueuePairs := by
  unfold Obligations.QueuePairs
  intro s q hc hq
  dsimp only
  refine ⟨?_, ?_, ?_, ?_, ?_, ?_, ?_⟩
  · intro r rest ue w1 w2 hlt hs hrecs hslot hput hcw hqps hsw hrun
    exact recordWrite_completes hc hlt hs hrecs hslot hput hcw hqps hsw hrun
  · intro r rest ue w1 b hlt hs hrecs hslot hb
    exact recordWrite_holds hc hlt hs hrecs hslot hb
  · intro hup hs hformed hce
    refine ⟨fun m hsq h0 h1 hpsn => ⟨?_, ?_, ?_, ?_⟩, ?_, ?_⟩
    · exact fun syn hsyn => ack_completes hc hq hup hs hformed hce hsq hpsn h0 h1 hsyn
    · exact fun syn h1 h2 => rnrNak_completes hc hq hup hs hformed hce hsq hpsn h1 h2
    · exact fun hn hrun => seqNak_completes hc hq hup hs hformed hce hsq hpsn hn hrun
    · exact fun syn h1 h2 => errNak_completes hc hq hup hs hformed hce hsq hpsn h1 h2
    · exact cnp_cuts hc hq hup hs hformed hce
    · exact cnp_leaves hc hq hup hs hformed hce
  · exact fun hs hsq => ⟨ackTimeout_resends hc hq hs hsq, ackTimeout_ends hc hq hs hsq⟩
  · exact fun hs hwait => ⟨rnrTimeout_resends hc hq hs hwait, rnrTimeout_ends hc hq hs hwait⟩
  · exact fun hlt hs hformed hend => qpRts_completes hlt hs hformed hc hend
  · exact fun hlt => qpReset_completes hlt hc

end Sys2Proof.Machine

/-!
SUPPORT and proof for attention (chapter 11): the record of a segment partial (R336), what a row does with a segment that it may not see (R329), the
planner's plan (R332), the phases (R327, R331, R334), and O34.
-/

namespace Sys2Proof.Machine

/-! Records (R336). -/

theorem leVal_leBytes (n v : Nat) : leVal (leBytes n v) = v % 256 ^ n := by
  induction n generalizing v with
  | zero => simp [leBytes, leVal, Nat.mod_one]
  | succ n ih => rw [leBytes, leVal, ih, BitVec.toNat_ofNat, pow_succ' 256 n, Nat.mod_mul]

/-- The bytes of FP32 words, one after another. -/
def wordBytes (ws : List W32) : List Byte := ws.flatMap (fun w => leBytes 4 w.toNat)

/-- Word `i` of bytes. -/
def wordAt (bs : List Byte) (i : Nat) : W32 := BitVec.ofNat 32 (leVal ((bs.drop (4 * i)).take 4))

theorem wordBytes_cons (w : W32) (ws : List W32) : wordBytes (w :: ws) = leBytes 4 w.toNat ++ wordBytes ws := List.flatMap_cons

theorem length_wordBytes (ws : List W32) : (wordBytes ws).length = 4 * ws.length := by
  induction ws with
  | nil => rfl
  | cons w ws ih =>
    rw [wordBytes_cons, List.length_append, length_leBytes, ih, List.length_cons]
    omega

theorem wordAt_wordBytes (ws : List W32) (rest : List Byte) (i : Nat) (hi : i < ws.length) : wordAt (wordBytes ws ++ rest) i = ws[i] := by
  induction ws generalizing i with
  | nil => exact absurd hi (Nat.not_lt_zero i)
  | cons w ws ih =>
    rw [wordBytes_cons, List.append_assoc]
    cases i with
    | zero =>
      rw [wordAt, Nat.mul_zero, List.drop_zero, List.take_left' (length_leBytes ..), leVal_leBytes]
      exact BitVec.eq_of_toNat_eq (by simpa using w.isLt)
    | succ i =>
      have hskip : 4 * (i + 1) = (leBytes 4 w.toNat).length + 4 * i := by rw [length_leBytes]; omega
      rw [wordAt, hskip, List.drop_length_add_append, List.getElem_cons_succ]
      exact ih i (Nat.lt_of_succ_lt_succ hi)

/-- A record is the words of its partial, then m and l, then zeros. -/
theorem partBytes_eq (g : SegPart) : partBytes g = wordBytes (g.o ++ [g.m, g.l]) ++ List.replicate 56 0 := by
  simp [partBytes, wordBytes]

theorem partOf_eq (bs : List Byte) : partOf bs = ⟨wordAt bs 128, wordAt bs 129, (List.range 128).map (wordAt bs)⟩ := rfl

theorem length_partBytes {g : SegPart} (hg : g.o.length = 128) : (partBytes g).length = 576 := by
  simp [partBytes_eq, length_wordBytes, hg]

theorem wordAt_partBytes {g : SegPart} (i : Nat) (hi : i < (g.o ++ [g.m, g.l]).length) : wordAt (partBytes g) i = (g.o ++ [g.m, g.l])[i] := by
  rw [partBytes_eq]
  exact wordAt_wordBytes _ _ i hi

theorem partOf_partBytes {g : SegPart} (hg : g.o.length = 128) : partOf (partBytes g) = g := by
  have hm : wordAt (partBytes g) 128 = g.m := by rw [wordAt_partBytes 128 (by simp [hg])]; simp [hg]
  have hl : wordAt (partBytes g) 129 = g.l := by rw [wordAt_partBytes 129 (by simp [hg])]; simp [hg]
  have ho : (List.range 128).map (wordAt (partBytes g)) = g.o := by
    refine List.ext_getElem (by simp [hg]) fun i _ hi => ?_
    rw [List.getElem_map, List.getElem_range, wordAt_partBytes i (by rw [List.length_append]; omega), List.getElem_append_left hi]
  rw [partOf_eq, hm, hl, ho]

/-! Segments that a row may not see (R329). -/

theorem rowFold_unseen (r : SegPart) {g : SegPart} (hg : g.m = negInf) : rowFold r g = r := if_pos hg

section
variable {op : W32 → W32 → W32} {c : W32} (hop : op c c = c)
include hop

theorem pairFold_const : ∀ l : List W32, (∀ x ∈ l, x = c) → ∀ x ∈ pairFold op l, x = c
  | [], hl => hl
  | [_], hl => hl
  | a :: b :: r, hl => by
    rw [List.forall_mem_cons, List.forall_mem_cons] at hl
    obtain ⟨ha, hb, hr⟩ := hl
    rw [pairFold, List.forall_mem_cons, ha, hb]
    exact ⟨hop, pairFold_const r hr⟩

theorem treeFold_const (n : Nat) (l : List W32) (hl : ∀ x ∈ l, x = c) : ∀ x ∈ treeFold n op l, x = c := by
  induction n generalizing l with
  | zero => exact hl
  | succ n ih => exact ih _ (pairFold_const hop l hl)

/-- A reduction whose elements all are its identity gives the identity. -/
theorem reduce_const (l : List W32) (hl : ∀ x ∈ l, x = c) : reduce op c l = c := by
  have hpad : ∀ x ∈ l ++ List.replicate (2048 - l.length) c, x = c := fun x hx =>
    (List.mem_append.1 hx).elim (hl x) List.eq_of_mem_replicate
  unfold reduce
  cases hhead : (treeFold 11 op (l ++ List.replicate (2048 - l.length) c)).head? with
  | none => rfl
  | some x => exact treeFold_const hop 11 _ hpad x (List.mem_of_head? hhead)

end

theorem max32_negInf : max32 negInf negInf = negInf := by decide

/-- Under CAUSAL = 1 a row behind none of a segment's keys sees none of them: every score is −infinity, and so is their maximum. -/
theorem segPart_causal_unseen {d p j0 : Nat} (hk : Nat) (q ks : List Nat) (hd : adCausal d = true) (hp : p < j0) :
    (segPart d hk p j0 q ks).1.m = negInf := by
  unfold segPart
  dsimp only
  rw [if_pos (reduce_const max32_negInf _ fun x hx => ?_)]
  obtain ⟨z, -, rfl⟩ := List.mem_map.1 hx
  exact if_pos (by rw [hd, Bool.true_and, decide_eq_true_eq]; omega)

/-! The phases of a running ATTEND task (R327, R331, R334). -/

section
variable {s : State} {h phase : Nat} {t : TaskRun} {e : SchedEnt} {r : List SchedEnt} {pl : Plan}

theorem attTake_head (ht : (hget s h).cur = some t) (hs : t.sched = e :: r) (hop : bits e.desc 0 8 = 7) (hpl : t.plan = some pl) (hatt : t.att ≠ 0)
    (hphase : adPhase t.att = phase) : attTake s h phase = some (t, pl, hmod s h (fun x => { x with cur := some { t with sched := r } })) := by
  have htake := schedTake_head (ops := [7]) ht hs (by simp [hop])
  simp [attTake, ht, hatt, hphase, htake, hpl]

end

/-! The planner (R332). -/

section
variable {s w v : State} {p i : Nat} {pl : Plan}

theorem rd_atnBump_same (r : Reg) (n k : Nat) (hon : bit (rd s (R.atnCtrl p)) 0 = false) : rd (atnBump s p r n k) r = (rd s r + n) % 2 ^ k := by
  rw [atnBump, rd_bump_same, hon, if_neg Bool.false_ne_true]

theorem rd_atnBump_other {r q : Reg} (hq : q.addr ≠ r.addr) (n k : Nat) : rd (atnBump s p r n k) q = rd s q := rd_bump_other _ _ hq _ _

theorem graphsRun_atnBump (s : State) (p : Nat) (r : Reg) (n k : Nat) : GraphsRun s (atnBump s p r n k) := graphsRun_bump ..

@[simp] theorem gget_atnBump (r : Reg) (n k g : Nat) : gget (atnBump s p r n k) g = gget s g := gget_bump ..

/-- Slot `i` takes the plan, and the plan's group, units and split jobs are counted. -/
def planTaken (w : State) (p i : Nat) (pl : Plan) : State :=
  atnBump (atnBump (atnBump (gmod w p (fun g => { g with plans := tput g.plans i pl })) p (R.atnGroups p) 1) p (R.atnUnits p) pl.units) p
    (R.atnSplitJobs p) pl.splits

/-- A request whose length table is read and whose plan can be made ends with the plan taken. -/
theorem attendPlanOp_planned {r : PlanReq} {t : Task} {es : List Nat} (hreq : (gget s p).planReq = some r) (htask : taskGet s p r.task = some t)
    (hslot : planSlot (gget s p) = some i) (hread : ltRead (gput s p { gget s p with planReq := none }) p r.desc = (some es, w))
    (hmake : planMake r.graph r.desc es = .ok pl) : attendPlanOp s p = planTaken w p i pl := by
  unfold attendPlanOp
  simp only [hreq, htask, hslot, hread, hmake]
  rfl

theorem planTaken_calm (hc : Calm w) : Calm (planTaken w p i pl) := by
  have hput : GraphsRun w (gmod w p (fun g => { g with plans := tput g.plans i pl })) := rfl
  exact (((hput.trans (graphsRun_atnBump ..)).trans (graphsRun_atnBump ..)).trans (graphsRun_atnBump ..)).calm hc

theorem tget_planTaken : tget (gget (planTaken w p i pl) p).plans i = some pl := by
  simp [planTaken]

theorem rd_planTaken_groups (hon : bit (rd w (R.atnCtrl p)) 0 = false) :
    rd (planTaken w p i pl) (R.atnGroups p) = (rd w (R.atnGroups p) + 1) % 2 ^ 48 := by
  unfold planTaken
  rw [rd_atnBump_other (by simp [R.atnGroups, R.atnSplitJobs]), rd_atnBump_other (by simp [R.atnGroups, R.atnUnits]),
    rd_atnBump_same _ _ _ (by rw [rd_gmod]; exact hon), rd_gmod]

theorem rd_planTaken_units (hon : bit (rd w (R.atnCtrl p)) 0 = false) :
    rd (planTaken w p i pl) (R.atnUnits p) = (rd w (R.atnUnits p) + pl.units) % 2 ^ 48 := by
  have hctrl : ∀ u : State, rd (atnBump u p (R.atnGroups p) 1) (R.atnCtrl p) = rd u (R.atnCtrl p) := fun _ =>
    rd_atnBump_other (by simp [R.atnCtrl, R.atnGroups]) ..
  unfold planTaken
  rw [rd_atnBump_other (by simp [R.atnUnits, R.atnSplitJobs]), rd_atnBump_same _ _ _ (by rw [hctrl, rd_gmod]; exact hon),
    rd_atnBump_other (by simp [R.atnUnits, R.atnGroups]), rd_gmod]

theorem atnReg_notNoted (p : Nat) {a : Nat} (ha : blkBase .atn p ≤ a) : a ∉ noteRegs := by
  simp only [noteRegs, R.prtErrLog, R.prtErrCount, blkBase, List.mem_cons, List.not_mem_nil, or_false, not_or] at ha ⊢
  omega

theorem planTaken_completes (hf : Follows s.pending (planTaken w p i pl) v) :
    tget (gget v p).plans i = some pl ∧ (bit (rd w (R.atnCtrl p)) 0 = false →
      rd v (R.atnGroups p) = (rd w (R.atnGroups p) + 1) % 2 ^ 48 ∧ rd v (R.atnUnits p) = (rd w (R.atnUnits p) + pl.units) % 2 ^ 48) := by
  refine ⟨by rw [hf.gget, tget_planTaken], fun hon => ⟨?_, ?_⟩⟩
  · rw [hf.rd _ (atnReg_notNoted p (Nat.le_add_right ..)), rd_planTaken_groups hon]
  · rw [hf.rd _ (atnReg_notNoted p (Nat.le_add_right ..)), rd_planTaken_units hon]

end

/-- Settles O34: the planner's request ends with the plan taken; each phase is the running task's entry taken and its share of the plan done; records
and unseen segments are the facts proved above. -/
theorem attentionPhases : Obligations.AttentionPhases := by
  unfold Obligations.AttentionPhases
  refine ⟨⟨?_, ?_⟩, ?_, ?_, ?_⟩
  · intro s w p i r t es pl hp hc hreq htask hslot hread hmake hcw
    obtain ⟨u, hu, hf⟩ := lead_act (f := fun t => attendPlanOp t p) hc hp
      (attendPlanOp_planned (s := quiet s) hreq htask hslot hread hmake) (planTaken_calm hcw)
    exact ⟨u, hu, planTaken_completes hf⟩
  · intro s h t e r pl hh hc ht hs hop hpl hatt s1
    have htake {phase : Nat} (hphase : adPhase t.att = phase) : attTake (quiet s) h phase = some (t, pl, s1) :=
      attTake_head (s := quiet s) ht hs hop hpl hatt hphase
    refine ⟨fun w hphase hw hcw => ?_, fun w hphase hw hcw => ?_, fun w hphase hw hcw => ?_⟩
    · exact lead_act (f := (attendAppendOp · h)) hc hh (by simp only [attendAppendOp, htake hphase, hw]) hcw
    · exact lead_act (f := (attendWorkOp · h)) hc hh (by simp only [attendWorkOp, htake hphase, hw]) hcw
    · exact lead_act (f := (attendMergeOp · h)) hc hh (by simp only [attendMergeOp, htake hphase, hw]) hcw
  · exact fun g hg => ⟨partOf_partBytes hg, length_partBytes hg⟩
  · exact fun r g hg => rowFold_unseen r hg
  · exact fun d hk p j0 q ks hd hp => segPart_causal_unseen hk q ks hd hp

end Sys2Proof.Machine

/-!
SUPPORT and proofs for the device as a whole: commands run in order (O57), a stopped device stays as it is (O59, R513, R571), the state right after
reset (O60).
-/

namespace Sys2Proof.Machine

/-! A command ends: what waits is kept, and nothing is due (R307, R510). -/

theorem ite_ends (p : Prop) [Decidable p] (s a b : State) : ∃ u, (if p then ends s a else ends s b) = ends s u := by
  split
  · exact ⟨a, rfl⟩
  · exact ⟨b, rfl⟩

/-- Every command ends: in the forms `act` and `actStk` by its phase, in the form `actAny` in each. -/
theorem exec_ends (c : Instr) (s : State) : ∃ u, exec c s = ends s u := by
  cases c
  case hardThermalLimit | sliceTagParity | bridgeFailure | refclkALoss | refclkBLoss | refclkBothLoss | warmReset | warmResetServing | coldStart |
      resetAssert | refclkSample | refclkTimeout | jtagBypass | jtagIdcode | jtagSamplePreload | jtagExtest | stokerRestartDone | refclkReturn =>
    exact ⟨_, rfl⟩
  all_goals exact ite_ends _ _ _ _

/-- A command keeps the queue behind it. -/
theorem exec_pending (c : Instr) (s : State) : ∃ t, exec c s = .next t ∧ t.pending = s.pending := by
  obtain ⟨u, hu⟩ := exec_ends c s
  exact ⟨_, hu, rfl⟩

/-- A step with a command waiting performs it, and leaves the rest of the queue. -/
theorem step_pending {s : State} {c : Instr} {q : List Instr} (h : s.pending = c :: q) : ∃ t, step s = .next t ∧ t.pending = q := by
  obtain ⟨t, ht, hq⟩ := exec_pending c { s with pending := q }
  exact ⟨t, by simpa only [step, h] using ht, hq⟩

/-- Settles O57, by induction on the number of steps: each performs the command at the front and leaves the rest (`step_pending`). -/
theorem commandsRunInOrder : Obligations.CommandsRunInOrder := by
  unfold Obligations.CommandsRunInOrder
  intro n
  induction n with
  | zero => exact fun s _ => ⟨s, rfl, rfl⟩
  | succ n ih =>
    intro s hn
    obtain ⟨c, q, hs⟩ := List.exists_cons_of_length_pos (Nat.zero_lt_of_lt hn)
    obtain ⟨t, ht, hq⟩ := step_pending hs
    have hlen : n ≤ t.pending.length := by
      rw [hs, List.length_cons] at hn
      rw [hq]
      omega
    obtain ⟨u, hu, hrest⟩ := ih t hlen
    refine ⟨u, ?_, by rw [hrest, hq, hs, List.drop_succ_cons]⟩
    have hrun : core.run (n + 1) s = core.run n t := by
      simp only [Host.Core.run, show core.step s = .next t from ht]
    rw [hrun, hu]

/-! A device that is halted, or that the hard thermal limit has stopped (R513, R571). -/

/-- A stopped device: halted, or with every clock off. -/
def Stopped (s : State) : Prop := s.stk.phase = .halted ∨ s.stk.phase = .cut

/-- `v` is `s` as far as a stopped device holds anything, with nothing sent; no access waits. -/
structure StillStopped (s v : State) : Prop where
  phase : v.stk.phase = s.stk.phase
  links : v.links = s.links
  port : v.hport = s.hport
  quiet : v.tx = [] ∧ v.held = false
  csr : v.csr = s.csr
  hearths : v.hearths = s.hearths
  hbm : v.hbm = s.hbm
  flash : v.stk.flash = s.stk.flash
  fuses : v.stk.fuses = s.stk.fuses

section
variable {s : State}

theorem Stopped.not_run (h : Stopped s) : s.stk.phase ≠ .run := by
  rcases h with h | h <;> simp [h]

theorem Stopped.not_faultable (h : Stopped s) : faultable s = false := by
  rcases h with h | h <;> simp [faultable, h]

theorem stillStopped_quiet (s : State) : StillStopped s (quiet s) := ⟨rfl, rfl, rfl, ⟨rfl, rfl⟩, rfl, rfl, rfl, rfl, rfl⟩

/-- A change of the Stoker's own state that is neither its phase nor the flash or the fuses. -/
theorem stillStopped_stkMod {f : Stoker → Stoker} (hp : (f s.stk).phase = s.stk.phase) (hf : (f s.stk).flash = s.stk.flash)
    (hu : (f s.stk).fuses = s.stk.fuses) : StillStopped s (stkMod (quiet s) f) :=
  ⟨hp, rfl, rfl, ⟨rfl, rfl⟩, rfl, rfl, rfl, hf, hu⟩

/-- A gate that a stopped device does not meet. -/
theorem gate_stopped {p : Prop} [Decidable p] {a : State} (h : ¬ p) :
    ∃ v, (if p then ends s a else ends s (quiet s)) = ends s v ∧ StillStopped s v :=
  ⟨quiet s, if_neg h, stillStopped_quiet s⟩

/-- The loss of a reference input shows in ERR_REFCLK and does nothing else to a stopped device. -/
theorem refclkLoss_stopped (h : Stopped s) : StillStopped s (refclkBothLoss (quiet s)) ∧ StillStopped s (refclkALoss (quiet s)) ∧
    StillStopped s (refclkBLoss (quiet s)) := by
  have hfault : (!faultable (quiet s)) = true := by rw [show faultable (quiet s) = false from h.not_faultable]; rfl
  have hboth : StillStopped s (refclkBothLoss (quiet s)) := by
    simp only [refclkBothLoss, hfault, if_true]
    exact stillStopped_stkMod rfl rfl rfl
  have hone : ∀ (lost only : Bool) (t : State), StillStopped s t →
      StillStopped s (if lost then quiet s else if only then refclkBothLoss (quiet s) else t) := by
    intro lost only t ht
    cases lost <;> cases only
    · exact ht
    · exact hboth
    · exact stillStopped_quiet s
    · exact stillStopped_quiet s
  refine ⟨hboth, ?_, ?_⟩
  · simp only [refclkALoss, hfault, if_true]
    exact hone _ _ _ (stillStopped_stkMod rfl rfl rfl)
  · simp only [refclkBLoss, hfault, if_true]
    exact hone _ _ _ (stillStopped_stkMod rfl rfl rfl)

/-- No command but a reset, a cold start and the hard thermal limit reaches a stopped device. -/
theorem exec_stopped {c : Instr} (h : Stopped s) (hr : c ≠ .resetAssert) (hb : ∀ b, c ≠ .coldStart b) (ht : c ≠ .hardThermalLimit) :
    ∃ v, exec c s = ends s v ∧ StillStopped s v := by
  have hfault : faultable (quiet s) = false := h.not_faultable
  obtain ⟨hboth, hA, hB⟩ := refclkLoss_stopped h
  have hlow : s.stk.phase ≠ .low := by rcases h with h | h <;> simp [h]
  cases c
  case resetAssert => exact absurd rfl hr
  case coldStart b => exact absurd rfl (hb b)
  case hardThermalLimit => exact absurd rfl ht
  case sliceTagParity sl => exact ⟨_, rfl, by simpa [only, sliceTagParity, hfault] using stillStopped_quiet s⟩
  case bridgeFailure b => exact ⟨_, rfl, by simpa [only, bridgeFailure, hfault] using stillStopped_quiet s⟩
  case refclkALoss => exact ⟨_, rfl, hA⟩
  case refclkBLoss => exact ⟨_, rfl, hB⟩
  case refclkBothLoss => exact ⟨_, rfl, hboth⟩
  case refclkReturn a =>
    refine ⟨_, rfl, ?_⟩
    cases a <;> exact stillStopped_stkMod rfl rfl rfl
  case jtagBypass => exact ⟨_, rfl, stillStopped_stkMod (f := fun k => { k with jtag := { k.jtag with ir := 1 } }) rfl rfl rfl⟩
  case jtagIdcode => exact ⟨_, rfl, stillStopped_stkMod (f := fun k => { k with jtag := { k.jtag with ir := 0 } }) rfl rfl rfl⟩
  case jtagSamplePreload pins => exact ⟨_, rfl, by simpa [jtagSamplePreload, hlow] using stillStopped_quiet s⟩
  case jtagExtest => exact ⟨_, rfl, by simpa [jtagExtest, hlow] using stillStopped_quiet s⟩
  case warmReset remap =>
    refine ⟨quiet s, ?_, stillStopped_quiet s⟩
    rcases h with h | h <;> simp [exec, execWarmReset, actAny, warmReset, h]
  case warmResetServing r =>
    refine ⟨quiet s, ?_, stillStopped_quiet s⟩
    rcases h with h | h <;> simp [exec, execWarmResetServing, actAny, warmServing, h]
  case refclkSample a b =>
    refine ⟨quiet s, ?_, stillStopped_quiet s⟩
    rcases h with h | h <;> simp [exec, execRefclkSample, actAny, refclkSample, h]
  case refclkTimeout =>
    refine ⟨quiet s, ?_, stillStopped_quiet s⟩
    rcases h with h | h <;> simp [exec, execRefclkTimeout, actAny, refclkTimeout, h]
  case stokerRestartDone =>
    refine ⟨quiet s, ?_, stillStopped_quiet s⟩
    rcases h with h | h <;> simp [exec, execStokerRestartDone, actAny, stokerRestartDone, h]
  all_goals exact gate_stopped (by simp [h.not_run])

/-- Nothing follows from a command on a stopped device but that nothing stays due. -/
theorem ends_stopped {v : State} (h : v.stk.phase ≠ .run) (hv : v.held = false) (s : State) :
    ends s v = .next { v with dueAborts := [], dueHrt := [], pending := s.pending } := by
  simp [ends, unlessHeld, settle, h, hv]

/-- With no command waiting, time goes on where a halted device still has its clocks. -/
theorem tick_stopped (h : Stopped s) : tick s = s ∨ StillStopped s (tick s) := by
  rcases h with h | h
  · refine .inr ?_
    have hflush : ∀ n, warmFlush { quiet s with now := n } = { quiet s with now := n } := by
      intro n
      simp [warmFlush, h]
    simp only [tick, h, reduceCtorEq, if_false, hflush, ite_self]
    exact ⟨rfl, rfl, rfl, ⟨rfl, rfl⟩, rfl, rfl, rfl, rfl, rfl⟩
  · exact .inl (by simp [tick, h])

end

/-- The hard thermal limit stops the clocks of a stopped device; what it holds stays. -/
theorem hardThermal_stopped {s : State} (h : Stopped s) :
    ∃ v, exec .hardThermalLimit s = ends s v ∧ v.stk.phase = .cut ∧ v.links = [] ∧ v.hport.up = false ∧ v.tx = [] ∧ v.held = false ∧ v.csr = s.csr ∧
      v.hearths = s.hearths ∧ v.hbm = s.hbm ∧ v.stk.flash = s.stk.flash ∧ v.stk.fuses = s.stk.fuses := by
  refine ⟨_, rfl, ?_⟩
  rcases h with h | h <;> simp [hardThermal, h, stkMod]

/-- Settles O59: a command other than a reset or a cold start leaves a stopped device as it is (`exec_stopped`), but for the hard thermal limit, which
takes the rest of its clocks; with none waiting nothing but time goes on (`tick_stopped`). -/
theorem haltedUntilReset : Obligations.HaltedUntilReset := by
  unfold Obligations.HaltedUntilReset
  intro s t hstep h hr hb
  cases hs : s.pending with
  | nil =>
    have ht : t = tick s := by simpa only [step, hs, Host.Outcome.next.injEq, eq_comm] using hstep
    rcases tick_stopped h with htick | hv
    · rw [ht, htick]
      exact ⟨.inl rfl, id, id, id, rfl, rfl, rfl, rfl, rfl⟩
    · rw [ht]
      exact ⟨.inl hv.phase, fun hl => hv.links.trans hl, fun hu => by rw [hv.port, hu], fun _ => hv.quiet.1, hv.csr, hv.hearths, hv.hbm, hv.flash,
        hv.fuses⟩
  | cons c q =>
    have hexec : exec c { s with pending := q } = .next t := by simpa only [step, hs] using hstep
    by_cases hlimit : c = .hardThermalLimit
    · subst hlimit
      obtain ⟨v, hv, hphase, hlinks, hup, htx, hheld, hcsr, hhearths, hhbm, hflash, hfuses⟩ := hardThermal_stopped (s := { s with pending := q }) h
      rw [hv, ends_stopped (by simp [hphase]) hheld, Host.Outcome.next.injEq] at hexec
      subst hexec
      exact ⟨.inr ⟨hphase, q, rfl⟩, fun _ => hlinks, fun _ => hup, fun _ => htx, hcsr, hhearths, hhbm, hflash, hfuses⟩
    · obtain ⟨v, hv, still⟩ := exec_stopped (s := { s with pending := q }) h (fun hc => hr q (hc ▸ hs)) (fun b hc => hb b q (hc ▸ hs)) hlimit
      have hrun : v.stk.phase ≠ .run := still.phase ▸ Stopped.not_run (s := s) h
      rw [hv, ends_stopped hrun still.quiet.2, Host.Outcome.next.injEq] at hexec
      subst hexec
      exact ⟨.inl still.phase, fun hl => still.links.trans hl, fun hu => (congrArg HostPort.up still.port).trans hu, fun _ => still.quiet.1, still.csr,
        still.hearths, still.hbm, still.flash, still.fuses⟩

/-! The device right after reset (R445, R530, R552). -/

/-- Right after reset nothing is due. -/
theorem calm_reset : Calm State.reset := ⟨rfl, rfl, rfl, rfl, rfl, rfl, rfl, rfl, rfl, fun _ => ⟨rfl, .inl rfl⟩⟩

/-- Settles O60: each part of the state is read off `State.reset`, in which no table lists an entry but the registers and the management queue pair. -/
theorem resetServes : Obligations.ResetServes := by
  unfold Obligations.ResetServes
  have hserving : rdf State.reset R.stkStatus 0 3 = 1 ∧ bit (rd State.reset R.stkStatus) 4 = true := by decide
  have hmgmt : qpState State.reset 1024 = 1 ∧ rdf State.reset (R.hstQpCtrlQ 1024) 3 3 = 7 := by decide
  exact ⟨hserving.1, hserving.2, rfl, rfl, fun _ => rfl, fun _ => rfl, fun _ => ⟨rfl, rfl, rfl⟩, hmgmt.1, hmgmt.2, calm_reset⟩

end Sys2Proof.Machine

/-!
SUPPORT for the fabric, the host port, the partitions and the recovery: fields of registers, commands that count in registers, and what the state after a
command holds.
-/

namespace Sys2Proof.Machine

/-! Fields of a number (R6, R8). -/

theorem testBit_bits (w lo len i : Nat) : (bits w lo len).testBit i = (decide (i < len) && w.testBit (lo + i)) := by
  rw [bits, Nat.testBit_mod_two_pow, Nat.testBit_shiftRight]

theorem setBits_eq (w lo len v : Nat) :
    setBits w lo len v = 2 ^ lo * (2 ^ len * (w / 2 ^ lo / 2 ^ len) + v % 2 ^ len) + w % 2 ^ lo := by
  have h1 := Nat.div_add_mod w (2 ^ lo)
  have h2 := Nat.div_add_mod (w / 2 ^ lo) (2 ^ len)
  have h3 : w = 2 ^ lo * (2 ^ len * (w / 2 ^ lo / 2 ^ len)) + 2 ^ lo * (w / 2 ^ lo % 2 ^ len) + w % 2 ^ lo := by
    rw [← Nat.mul_add, h2, h1]
  have h4 : setBits w lo len v = w - 2 ^ lo * (w / 2 ^ lo % 2 ^ len) + 2 ^ lo * (v % 2 ^ len) := by
    simp only [setBits, fieldAt, bits, Nat.shiftRight_eq_div_pow, Nat.shiftLeft_eq, Nat.mod_mod, Nat.mul_comm (2 ^ lo)]
  rw [h4, Nat.mul_add]
  omega

theorem testBit_setBits (w lo len v i : Nat) :
    (setBits w lo len v).testBit i = if i < lo then w.testBit i else if i < lo + len then v.testBit (i - lo) else w.testBit i := by
  rw [setBits_eq, Nat.testBit_two_pow_mul_add _ (Nat.mod_lt _ (by positivity))]
  split
  case isTrue h => simp [Nat.testBit_mod_two_pow, h]
  case isFalse h =>
    rw [Nat.testBit_two_pow_mul_add _ (Nat.mod_lt _ (by positivity))]
    by_cases hi : i < lo + len
    · rw [if_pos hi, if_pos (by omega), Nat.testBit_mod_two_pow, decide_eq_true (by omega), Bool.true_and]
    · rw [if_neg hi, if_neg (by omega), Nat.testBit_div_two_pow, Nat.testBit_div_two_pow]
      congr 1
      omega

theorem bits_setBits_same (w lo len v : Nat) : bits (setBits w lo len v) lo len = v % 2 ^ len := by
  apply Nat.eq_of_testBit_eq
  intro i
  rw [testBit_bits, testBit_setBits, Nat.testBit_mod_two_pow]
  by_cases hi : i < len
  · simp [hi]
  · simp [hi]

theorem bits_setBits_other (w v : Nat) {lo len lo' len' : Nat} (h : lo' + len' ≤ lo ∨ lo + len ≤ lo') :
    bits (setBits w lo len v) lo' len' = bits w lo' len' := by
  apply Nat.eq_of_testBit_eq
  intro i
  rw [testBit_bits, testBit_bits, testBit_setBits]
  by_cases hi : i < len'
  · split
    · rfl
    · rw [if_neg (by omega)]
  · simp [hi]

theorem bit_setBits_same (w lo v : Nat) : bit (setBits w lo 1 v) lo = decide (v % 2 = 1) := by rw [bit, bits_setBits_same, pow_one]

theorem bit_setBits_other (w v : Nat) {lo len i : Nat} (h : i + 1 ≤ lo ∨ lo + len ≤ i) : bit (setBits w lo len v) i = bit w i := by
  rw [bit, bits_setBits_other w v h, bit]

/-- A number read as the fields below and from bit `k` on. -/
theorem bits_add_low {a b lo len k : Nat} (hb : b < 2 ^ k) (h : lo + len ≤ k) : bits (2 ^ k * a + b) lo len = bits b lo len := by
  apply Nat.eq_of_testBit_eq
  intro i
  rw [testBit_bits, testBit_bits, Nat.testBit_two_pow_mul_add _ hb]
  by_cases hi : i < len
  · rw [if_pos (by omega)]
  · simp [hi]

theorem bits_add_high {a b lo len k : Nat} (hb : b < 2 ^ k) (h : k ≤ lo) : bits (2 ^ k * a + b) lo len = bits a (lo - k) len := by
  apply Nat.eq_of_testBit_eq
  intro i
  rw [testBit_bits, testBit_bits, Nat.testBit_two_pow_mul_add _ hb, if_neg (by omega), show lo + i - k = lo - k + i by omega]

theorem bits_of_lt {v len : Nat} (h : v < 2 ^ len) : bits v 0 len = v := by rw [bits, Nat.shiftRight_zero, Nat.mod_eq_of_lt h]

/-! Registers that count. -/

/-- `t` is `s` but for the registers `rs` and the count of free values. -/
structure Counted (s t : State) (rs : List Reg) : Prop where
  eq : t = { s with csr := t.csr, fresh := t.fresh }
  regs : ∀ r : Reg, r.addr ∉ rs.map Reg.addr → rd t r = rd s r

theorem Counted.refl (s : State) (rs : List Reg) : Counted s s rs := ⟨rfl, fun _ _ => rfl⟩

theorem Counted.trans {s t u : State} {rs : List Reg} (h : Counted s t rs) (k : Counted t u rs) : Counted s u rs :=
  ⟨by rw [k.eq, h.eq], fun r hr => by rw [k.regs r hr, h.regs r hr]⟩

theorem Counted.mono {s t : State} {rs qs : List Reg} (h : Counted s t rs) (hs : ∀ r ∈ rs, r ∈ qs) : Counted s t qs :=
  ⟨h.eq, fun r hr => h.regs r fun hm => hr (List.map_subset _ hs hm)⟩

theorem counted_wr (s : State) (r : Reg) (v : Nat) : Counted s (wr s r v) [r] :=
  ⟨rfl, fun q hq => rd_wr_other s (by simpa using hq) v⟩

theorem counted_wrf (s : State) (r : Reg) (lo len v : Nat) : Counted s (wrf s r lo len v) [r] := counted_wr s r _

theorem counted_bump (s : State) (frz : Bool) (r : Reg) (n w : Nat) : Counted s (bump s frz r n w) [r] := by
  unfold bump
  split
  · exact .refl _ _
  · exact counted_wr s r _

theorem counted_logErr (s : State) (l c : Reg) (v : Nat) : Counted s (logErr s l c v) [l, c] := by
  have h1 : Counted s (if bit (rd s l) 0 then s else wr s l (v / 2 * 2 + 1)) [l, c] := by
    split
    · exact .refl _ _
    · exact (counted_wr s l _).mono (by simp)
  have h2 (t : State) : Counted t (if bits (rd t c) 0 16 < 65535 then wr t c (rd t c + 1) else wr t c (setBits (rd t c) 16 1 1)) [l, c] := by
    split
    all_goals exact (counted_wr t c _).mono (by simp)
  exact h1.trans (h2 _)

theorem counted_freeBits (s : State) (k : Nat) : Counted s (freeBits s k).2 [] := ⟨rfl, fun _ _ => rfl⟩

theorem Counted.calm {s t : State} {rs : List Reg} (h : Counted s t rs) (hc : Calm s) : Calm t := by
  rw [h.eq]
  exact hc.of rfl rfl rfl rfl rfl rfl rfl

/-! What a command leaves. -/

theorem SameRegs.intro {s v u : State} {q : List Instr} {rs : List Reg} (hf : Follows q v u) (hp : v.parts = s.parts)
    (hr : ∀ r : Reg, r.addr ∉ rs.map Reg.addr → rd v r = rd s r) : SameRegs s u rs :=
  ⟨fun r h hn => by rw [hf.rd r hn, hr r h], fun p => by rw [hf.parts p, partGet_congr hp]⟩

/-- A command whose operation leads to a calm state with `P`, which the note of R448 does not touch. -/
theorem completes_act {c : Prop} [Decidable c] {f : State → State} {s : State} {P : State → Prop} (hc : Calm s) (hg : c) (hv : Calm (f (quiet s)))
    (hP : ∀ u, Follows s.pending (f (quiet s)) u → P u) : ∃ t, act (only c f) s = .next t ∧ P t := by
  obtain ⟨t, ht, hf⟩ := act_only hc.run hg hv
  exact ⟨t, ht, hP t hf⟩

theorem completes_stk {c : Prop} [Decidable c] {f : State → State} {s : State} {P : State → Prop} (hc : Calm s) (hg : c) (hv : Calm (f (quiet s)))
    (hP : ∀ u, Follows s.pending (f (quiet s)) u → P u) : ∃ t, actStk (only c f) s = .next t ∧ P t := by
  obtain ⟨t, ht, hf⟩ := actStk_only hc.run hc.here hg hv
  exact ⟨t, ht, hP t hf⟩

end Sys2Proof.Machine

/-!
SUPPORT and proofs for fabric links: what a link holds after an update, what packets moving about change (R363, R364), a link's state and its port, and
the messages of a link (O36).
-/

namespace Sys2Proof.Machine

/-! A link after an update. -/

@[simp] theorem lkGet_lkPut_same (s : State) (n : Nat) (x : Link) : lkGet (lkPut s n x) n = x := by simp [lkGet]
theorem lkGet_lkPut_other (s : State) {n k : Nat} (hk : k ≠ n) (x : Link) : lkGet (lkPut s n x) k = lkGet s k := tgetD_tput_other _ hk _ _
@[simp] theorem lkGet_lkMod_same (s : State) (n : Nat) (f : Link → Link) : lkGet (lkMod s n f) n = f (lkGet s n) := by simp [lkMod]
theorem lkGet_lkMod_other (s : State) {n k : Nat} (hk : k ≠ n) (f : Link → Link) : lkGet (lkMod s n f) k = lkGet s k := lkGet_lkPut_other s hk _
theorem lkGet_lkMod (s : State) (n k : Nat) (f : Link → Link) : lkGet (lkMod s n f) k = if k = n then f (lkGet s n) else lkGet s k := by
  split
  case isTrue h => rw [h, lkGet_lkMod_same]
  case isFalse h => exact lkGet_lkMod_other s h f
@[simp] theorem lkPut_lkPut (s : State) (n : Nat) (x y : Link) : lkPut (lkPut s n x) n y = lkPut s n y := by simp [lkPut, tput_tput]
@[simp] theorem lkMod_lkPut (s : State) (n : Nat) (x : Link) (f : Link → Link) : lkMod (lkPut s n x) n f = lkPut s n (f x) := by simp [lkMod]
theorem lkGet_congr {s t : State} (h : t.links = s.links) (k : Nat) : lkGet t k = lkGet s k := by simp [lkGet, h]
@[simp] theorem lkGet_quiet (s : State) (k : Nat) : lkGet (quiet s) k = lkGet s k := rfl
@[simp] theorem lkGet_wr (s : State) (r : Reg) (v k : Nat) : lkGet (wr s r v) k = lkGet s k := rfl
@[simp] theorem lkGet_wrf (s : State) (r : Reg) (lo len v k : Nat) : lkGet (wrf s r lo len v) k = lkGet s k := rfl
@[simp] theorem lkGet_bump (s : State) (z : Bool) (r : Reg) (n w k : Nat) : lkGet (bump s z r n w) k = lkGet s k := lkGet_congr (by simp) k
@[simp] theorem lkGet_logErr (s : State) (l c : Reg) (v k : Nat) : lkGet (logErr s l c v) k = lkGet s k := lkGet_congr (by simp) k
@[simp] theorem lkGet_portMod (s : State) (p : Nat) (f : Port → Port) (k : Nat) : lkGet (portMod s p f) k = lkGet s k := rfl
@[simp] theorem rd_lkPut (s : State) (n : Nat) (x : Link) (r : Reg) : rd (lkPut s n x) r = rd s r := rfl
@[simp] theorem rd_lkMod (s : State) (n : Nat) (f : Link → Link) (r : Reg) : rd (lkMod s n f) r = rd s r := rfl
@[simp] theorem rd_portMod (s : State) (p : Nat) (f : Port → Port) (r : Reg) : rd (portMod s p f) r = rd s r := rfl
theorem Counted.lkGet {s t : State} {rs : List Reg} (h : Counted s t rs) (k : Nat) : lkGet t k = Machine.lkGet s k :=
  lkGet_congr (by rw [h.eq]) k
theorem Follows.lkGet {q : List Instr} {v u : State} (h : Follows q v u) (k : Nat) : Machine.lkGet u k = Machine.lkGet v k := by rw [h.eq]; rfl
theorem Calm.lkPut {s : State} (hc : Calm s) (n : Nat) (x : Link) : Calm (Machine.lkPut s n x) := hc.of rfl rfl rfl rfl rfl rfl rfl

/-- What a command leaves that counts in registers and gives one link a new value. -/
theorem Follows.lkPut_counted {q : List Instr} {s t u : State} {n : Nat} {x : Link} {rs : List Reg} (h : Counted (quiet s) t rs)
    (hf : Follows q (Machine.lkPut t n x) u) : Machine.lkGet u n = x ∧ (∀ k, k ≠ n → Machine.lkGet u k = Machine.lkGet s k) ∧ SameRegs s u rs := by
  refine ⟨by rw [hf.lkGet, lkGet_lkPut_same], fun k hk => by rw [hf.lkGet, lkGet_lkPut_other _ hk, h.lkGet, lkGet_quiet], ?_⟩
  exact .intro hf (by rw [lkPut_parts, h.eq, quiet_parts]) fun r hr => by rw [rd_lkPut, h.regs r hr, rd_quiet]

/-! Codewords of a control slot (R348, R351). -/

/-- The registers that count a codeword that decodes. -/
def fecRegs (n : Nat) : List Reg := (List.range 5).map (R.telFecNB n) ++ [R.lnkFecCorr n, R.lnkFecSym n]

theorem counted_cwGood (s : State) (n : Nat) {k : Nat} (hk : k < 5) : Counted s (cwGood s n k) (fecRegs n) := by
  have h0 : Counted s (telBump s (R.telFecNB n k) 1) (fecRegs n) :=
    (counted_bump ..).mono (by simpa [fecRegs] using Or.inl ⟨k, hk, rfl⟩)
  unfold cwGood
  split
  · exact h0
  · exact (h0.trans ((counted_bump ..).mono (by simp [fecRegs]))).trans ((counted_bump ..).mono (by simp [fecRegs]))

theorem counted_controlRx (s : State) (n : Nat) : Counted s (controlRx s n) (fecRegs n) :=
  ((counted_freeBits s 8).mono (by simp)).trans (counted_cwGood _ n (Nat.mod_lt _ (by decide)))

/-! Packets move about: they are queued on links, routed again, ended or dropped (R361, R363, R364, R379), and sampled by the damper (R484–R486). -/

/-- The registers that packets moving about may write: those of the ports of the links, of the fabric's routing, and of the telemetry. -/
def TrafficReg (a : Nat) : Prop := 0x3200000 ≤ a ∧ a < 0x3800000 ∨ 0x6000000 ≤ a ∧ a < 0x6400000

/-- Of a link, packets moving about change its queue and its receive pools. -/
def Link.queues (x y : Link) : Link := { x with txq := y.txq, rx := y.rx, freed := y.freed, chg := y.chg }

/-- `t` is `s` after packets have moved about. -/
structure PacketsMoved (s t : State) : Prop where
  eq : t = { s with csr := t.csr, links := t.links, ports := t.ports, nextPkt := t.nextPkt, sflows := t.sflows, ipfix := t.ipfix }
  regs : ∀ r : Reg, ¬ TrafficReg r.addr → rd t r = rd s r
  link : ∀ n, lkGet t n = (lkGet s n).queues (lkGet t n)

theorem PacketsMoved.refl (s : State) : PacketsMoved s s := ⟨rfl, fun _ _ => rfl, fun _ => rfl⟩

theorem PacketsMoved.trans {s t u : State} (h : PacketsMoved s t) (k : PacketsMoved t u) : PacketsMoved s u :=
  ⟨by rw [k.eq, h.eq], fun r hr => by rw [k.regs r hr, h.regs r hr], fun n => by rw [k.link, h.link]; rfl⟩

theorem PacketsMoved.calm {s t : State} (h : PacketsMoved s t) (hc : Calm s) : Calm t := by
  rw [h.eq]
  exact hc.of rfl rfl rfl rfl rfl rfl rfl

theorem PacketsMoved.foldl {α : Type} {f : State → α → State} (hf : ∀ t a, PacketsMoved t (f t a)) (l : List α) (s : State) :
    PacketsMoved s (l.foldl f s) := by
  induction l generalizing s with
  | nil => exact .refl s
  | cons a r ih => exact (hf s a).trans (ih _)

theorem ne_traffic {r q : Reg} (hr : TrafficReg r.addr) (hq : ¬ TrafficReg q.addr) : q.addr ≠ r.addr := fun e => hq (by rw [e]; exact hr)

section
variable (s : State)

theorem moved_bump {r : Reg} (hr : TrafficReg r.addr) (z : Bool) (n w : Nat) : PacketsMoved s (bump s z r n w) := by
  refine ⟨by rw [(counted_bump s z r n w).eq]; simp, fun q hq => rd_bump_other s z (ne_traffic hr hq) n w, fun k => by rw [lkGet_bump]; rfl⟩

theorem moved_wr {r : Reg} (hr : TrafficReg r.addr) (v : Nat) : PacketsMoved s (wr s r v) :=
  ⟨rfl, fun _ hq => rd_wr_other s (ne_traffic hr hq) v, fun _ => rfl⟩

theorem moved_logErr {l c : Reg} (hl : TrafficReg l.addr) (hc : TrafficReg c.addr) (v : Nat) : PacketsMoved s (logErr s l c v) :=
  ⟨by rw [(counted_logErr s l c v).eq]; simp, fun _ hq => rd_logErr_other s (ne_traffic hl hq) (ne_traffic hc hq) v,
    fun k => by rw [lkGet_logErr]; rfl⟩

theorem moved_lkMod (n : Nat) {f : Link → Link} (hf : ∀ x, f x = x.queues (f x)) : PacketsMoved s (lkMod s n f) := by
  refine ⟨rfl, fun _ _ => rfl, fun k => ?_⟩
  rw [lkGet_lkMod]
  split
  case isTrue h => rw [h]; exact hf _
  case isFalse => rfl

theorem moved_lkPut (n : Nat) {y : Link} (hy : y = (lkGet s n).queues y) : PacketsMoved s (lkPut s n y) := by
  refine ⟨rfl, fun _ _ => rfl, fun k => ?_⟩
  by_cases h : k = n
  · rw [h, lkGet_lkPut_same]
    exact hy
  · rw [lkGet_lkPut_other _ h]
    rfl

theorem moved_portMod (p : Nat) (f : Port → Port) : PacketsMoved s (portMod s p f) := ⟨rfl, fun _ _ => rfl, fun _ => rfl⟩

theorem trafficReg_fab {a : Nat} (h : a < 0x10000) : TrafficReg (blkBase .fab 0 + a) := by simp only [TrafficReg, blkBase]; omega
theorem trafficReg_tel {a : Nat} (h : a < 0x10000) : TrafficReg (blkBase .tel 0 + a) := by simp only [TrafficReg, blkBase]; omega

theorem moved_telBump (a : Nat) (h : a < 0x10000) (n : Nat) : PacketsMoved s (telBump s ⟨blkBase .tel 0 + a, 0⟩ n) :=
  moved_bump s (trafficReg_tel h) _ _ _

theorem moved_fabBump (a : Nat) (h : a < 0x10000) (n : Nat) : PacketsMoved s (fabBump s ⟨blkBase .fab 0 + a, 0⟩ n) :=
  moved_bump s (trafficReg_fab h) _ _ _

theorem moved_txPut (p : Nat) (q : TxPkt) : PacketsMoved s (txPut s p q) := by
  unfold txPut
  split
  · exact .refl s
  · exact moved_lkMod s _ fun _ => rfl

theorem moved_owe (k n : Nat) : PacketsMoved s (owe s k n) := by
  unfold owe
  split
  · exact .refl s
  · exact ⟨rfl, fun _ _ => rfl, fun _ => rfl⟩

theorem moved_rateApply (slice group spart dec dev : Nat) : PacketsMoved s (rateApply s slice group spart dec dev) := by
  have h1 := moved_telBump s 0x108 (by decide) 1
  unfold rateApply
  dsimp only
  split
  · exact h1.trans (moved_telBump _ 0x118 (by decide) 1)
  · exact (h1.trans (moved_telBump _ 0x120 (by decide) _)).trans ⟨rfl, fun _ _ => rfl, fun _ => rfl⟩

theorem moved_rateSend (port : Nat) (h : List Byte) : PacketsMoved s (rateSend s port h) := by
  unfold rateSend
  dsimp only
  split
  · exact moved_rateApply ..
  · split
    · exact moved_telBump _ 0x110 (by decide) 1
    · split
      · exact moved_telBump _ 0x110 (by decide) 1
      · exact (((⟨rfl, fun _ _ => rfl, fun _ => rfl⟩ : PacketsMoved s { s with nextPkt := s.nextPkt + 1 }).trans
          (moved_telBump _ 0x100 (by decide) 1)).trans (moved_owe ..)).trans (moved_txPut ..)

theorem moved_portSend (p : Nat) (h : List Byte) (q : TxPkt) : PacketsMoved s (portSend s p h q) := by
  have h1 := moved_txPut s p q
  have h2 := h1.trans (moved_portMod _ p fun x => { x with cnt := x.cnt + 1 })
  unfold portSend
  dsimp only
  split
  · split
    · exact h2.trans (moved_rateSend ..)
    · exact h2
  · exact h1

theorem moved_dropCount (why port vc : Nat) (h : List Byte) : PacketsMoved s (dropCount s why port vc h) := by
  unfold dropCount fabErr
  dsimp only
  refine .trans ?_ (moved_logErr _ (trafficReg_fab (a := 0x38) (by decide)) (trafficReg_fab (a := 0x40) (by decide)) _)
  split
  · exact moved_fabBump s 0x148 (by decide) 1
  · split
    · exact moved_fabBump s 0x140 (by decide) 1
    · exact moved_fabBump s 0x150 (by decide) 1

theorem queues_rxSet (x : Link) (vc : Nat) (l : List RxPkt) : rxSet x vc l = x.queues (rxSet x vc l) := rfl

theorem queues_rxFree (x : Link) (vc k : Nat) : rxFree x vc k = x.queues (rxFree x vc k) := by
  unfold rxFree
  split
  all_goals rfl

theorem moved_rxDrop (n vc id : Nat) : PacketsMoved s (rxDrop s n vc id) := by
  unfold rxDrop
  dsimp only
  apply moved_lkPut
  rw [queues_rxFree, queues_rxSet]
  rfl

theorem moved_rxMod (n vc id : Nat) (f : RxPkt → RxPkt) : PacketsMoved s (rxMod s n vc id f) := moved_lkMod s n fun _ => queues_rxSet ..

theorem moved_rxVoid (n vc id : Nat) : PacketsMoved s (rxVoid s n vc id) := by
  unfold rxVoid
  split
  · exact .refl s
  · split
    · exact moved_rxDrop ..
    · exact (moved_rxMod ..).trans (moved_lkMod _ n fun _ => queues_rxFree ..)

theorem moved_txMod (n id : Nat) (f : TxPkt → TxPkt) : PacketsMoved s (txMod s n id f) := moved_lkMod s n fun _ => rfl

theorem bits_lt (w lo len : Nat) : bits w lo len < 2 ^ len := Nat.mod_lt _ (by positivity)

theorem lkPort_lt (n : Nat) : lkPort s n < 32 := bits_lt ..

theorem trafficReg_stomps (n : Nat) : TrafficReg (R.lnkPortStompsP (lkPort s n)).addr := by
  have := lkPort_lt s n
  simp only [TrafficReg, R.lnkPortStompsP, blkBase]
  omega

theorem moved_txStomp (id : Nat) : PacketsMoved s (txStomp s id) := by
  unfold txStomp
  split
  · exact .refl s
  · split
    · exact .refl s
    · split
      · exact (moved_txMod ..).trans (moved_bump _ (trafficReg_stomps s _) _ _ _)
      · exact moved_lkMod s _ fun _ => rfl

theorem moved_rxDiscard (n vc : Nat) (q : RxPkt) : PacketsMoved s (rxDiscard s n vc q) := by
  unfold rxDiscard
  split
  · exact (moved_txStomp ..).trans (moved_rxDrop ..)
  · exact moved_rxDrop ..

theorem moved_freeSrc (q : TxPkt) : PacketsMoved s (match q.src with | some (l, v) => rxVoid s l v q.id | none => s) := by
  split
  · exact moved_rxVoid ..
  · exact .refl s

theorem moved_reroute (q : TxPkt) : PacketsMoved s (reroute s q) := by
  unfold reroute
  dsimp only
  split
  · exact moved_freeSrc s q
  · split
    · exact (moved_dropCount ..).trans (moved_freeSrc _ q)
    · refine .trans ?_ (moved_portSend ..)
      split
      · exact moved_fabBump s 0x160 (by decide) 1
      · exact .refl s

theorem moved_moveOn (p : Nat) (q : TxPkt) : PacketsMoved s (moveOn s p q) := by
  unfold moveOn
  split
  · exact moved_reroute ..
  · exact moved_txPut ..

theorem moved_portReroute (p : Nat) : PacketsMoved s (portReroute s p) :=
  (PacketsMoved.foldl (fun t n => moved_lkMod t n fun _ => rfl) _ s).trans (.foldl (fun t q => moved_reroute t q) _ _)

theorem moved_routesAgain : PacketsMoved s (routesAgain s) := by
  have hf : ∀ (l : List Nat), (∀ d ∈ l, d < 4096) → ∀ t, PacketsMoved t (l.foldl (fun t d => wr t (R.fabRouteD d) (routeWord s d)) t) := by
    intro l
    induction l with
    | nil => exact fun _ t => .refl t
    | cons d r ih =>
      intro hl t
      have hd : TrafficReg (R.fabRouteD d).addr := by
        have := hl d (by simp)
        simp only [TrafficReg, R.fabRouteD, blkBase]
        omega
      exact (moved_wr t hd _).trans (ih (fun e he => hl e (by simp [he])) _)
  unfold routesAgain
  split
  · exact .refl s
  · exact hf _ (fun d hd => List.mem_range.1 hd) s

theorem moved_linkLeaves (n : Nat) (qs : List TxPkt) : PacketsMoved s (linkLeaves s n qs) :=
  (PacketsMoved.foldl (fun t q => moved_moveOn t _ q) qs s).trans
    (.foldl (fun t vc => .foldl (fun t q => moved_rxDiscard t n vc q) _ t) _ _)

/-- A change of a link's state changes that state, and packets move about. -/
theorem moved_lkState (n st : Nat) : PacketsMoved (lkMod s n (fun x => { x with st := st })) (lkState s n st) := by
  have hp : ∀ {p : Nat}, p < 18 → TrafficReg (R.lnkPortNarrowP p).addr ∧ TrafficReg (R.fabAdjP p).addr := by
    intro p hp
    simp only [TrafficReg, R.lnkPortNarrowP, R.fabAdjP, blkBase]
    omega
  unfold lkState
  dsimp only
  split
  case isTrue h =>
    have h18 : lkPort s n < 18 := by simp_all
    have h2 := moved_bump (lkMod s n fun x => { x with st := st }) (hp h18).1 (bit (rd s (R.lnkCtrl n)) 0) 1 48
    split
    · exact ((h2.trans (moved_portMod ..)).trans (moved_wr _ (hp h18).2 _)).trans ((moved_routesAgain _).trans (moved_portReroute ..))
    · exact h2
  case isFalse h =>
    split
    case isTrue h' => exact moved_wr _ (hp (by simp_all)).2 _
    case isFalse => exact .refl _

end

/-! Control messages of a link that runs or trains. -/

section
variable {s : State} {n : Nat}

/-- A link takes control messages while it runs or trains. -/
theorem takes_quiet (h : lkRuns s n = true ∨ (lkGet s n).st = 1) (hn : n < 18) :
    ¬ (decide (18 ≤ n) || !(lkRuns (quiet s) n || decide ((lkGet (quiet s) n).st = 1))) = true := by
  have : lkRuns (quiet s) n = lkRuns s n := rfl
  rcases h with h | h <;> simp [this, h, hn]

/-- The value of PARAM in LNK_PARTNER. -/
theorem partner_value {dev link port cls : Nat} (h1 : dev < 65536) (h2 : link < 32) (h3 : port < 32) (h4 : cls < 4) :
    fieldAt 0 16 dev + fieldAt 16 5 link + fieldAt 21 5 port + fieldAt 26 2 cls + fieldAt 28 1 1 =
      dev + 2 ^ 16 * link + 2 ^ 21 * port + 2 ^ 26 * cls + 2 ^ 28 := by
  simp only [fieldAt, Nat.shiftLeft_eq]
  omega

theorem param_leaves (hc : Calm s) (hn : n < 18) (h : lkRuns s n = true ∨ (lkGet s n).st = 1) {dev link port cls : Nat} (links : Nat)
    (h1 : dev < 65536) (h2 : link < 32) (h3 : port < 32) (h4 : cls < 4) :
    Completes (.param n dev link port cls links) s (fun u => rd u (R.lnkPartner n) = dev + 2 ^ 16 * link + 2 ^ 21 * port + 2 ^ 26 * cls + 2 ^ 28 ∧
      lkGet u n = { lkGet s n with plinks := links % 8 } ∧ (∀ k, k ≠ n → lkGet u k = lkGet s k) ∧ SameRegs s u (R.lnkPartner n :: fecRegs n)) := by
  have hcnt : Counted (quiet s) (wr (controlRx (quiet s) n) (R.lnkPartner n) (dev + 2 ^ 16 * link + 2 ^ 21 * port + 2 ^ 26 * cls + 2 ^ 28))
      (R.lnkPartner n :: fecRegs n) :=
    ((counted_controlRx _ n).mono fun _ => List.mem_cons_of_mem _).trans ((counted_wr ..).mono (by simp))
  have e : paramRx (quiet s) n dev link port cls links =
      lkPut (wr (controlRx (quiet s) n) (R.lnkPartner n) (dev + 2 ^ 16 * link + 2 ^ 21 * port + 2 ^ 26 * cls + 2 ^ 28)) n
        { lkGet s n with plinks := links % 8 } := by
    rw [paramRx, if_neg (takes_quiet h hn), partner_value h1 h2 h3 h4, lkMod, hcnt.lkGet, lkGet_quiet]
  refine completes_act hc hn (e ▸ (hcnt.calm hc.quiet).lkPut ..) fun u hf => ?_
  rw [e] at hf
  refine ⟨?_, hf.lkPut_counted hcnt⟩
  rw [hf.rd _ (by simp [noteRegs, R.lnkPartner, R.prtErrLog, R.prtErrCount, blkBase]; omega), rd_lkPut, rd_wr_same]

theorem echo_leaves (hc : Calm s) (hn : n < 18) (h : lkRuns s n = true ∨ (lkGet s n).st = 1) (ts : W64) :
    Completes (.linkEcho n ts) s (fun u => lkGet u n = { lkGet s n with echoes := (lkGet s n).echoes ++ [ts.toNat] } ∧
      (∀ k, k ≠ n → lkGet u k = lkGet s k) ∧ SameRegs s u (fecRegs n)) := by
  have hcnt := counted_controlRx (quiet s) n
  have e : linkEcho (quiet s) n ts.toNat =
      lkPut (controlRx (quiet s) n) n { lkGet s n with echoes := (lkGet s n).echoes ++ [ts.toNat] } := by
    rw [linkEcho, if_neg (takes_quiet h hn), lkMod, hcnt.lkGet, lkGet_quiet]
  exact completes_act hc hn (e ▸ (hcnt.calm hc.quiet).lkPut ..) fun u hf => (e ▸ hf).lkPut_counted hcnt

theorem echoReply_leaves (hc : Calm s) (hn : n < 18) (h : lkRuns s n = true ∨ (lkGet s n).st = 1) (ts : W64) :
    Completes (.linkEchoReply n ts) s (fun u =>
      lkGet u n = (if (lkGet s n).st = 1 then { lkGet s n with rtt := max (lkGet s n).rtt ((telNow s - ts.toNat) * 5 / 8) } else lkGet s n) ∧
      (∀ k, k ≠ n → lkGet u k = lkGet s k) ∧ SameRegs s u (fecRegs n)) := by
  have hcnt := counted_controlRx (quiet s) n
  by_cases ht : (lkGet s n).st = 1
  · have e : linkEchoReply (quiet s) n ts.toNat =
        lkPut (controlRx (quiet s) n) n { lkGet s n with rtt := max (lkGet s n).rtt ((telNow s - ts.toNat) * 5 / 8) } := by
      rw [linkEchoReply, if_neg (takes_quiet h hn), if_pos (show (lkGet (quiet s) n).st = 1 from ht), lkMod, hcnt.lkGet, lkGet_quiet]
      rfl
    rw [if_pos ht]
    exact completes_act hc hn (e ▸ (hcnt.calm hc.quiet).lkPut ..) fun u hf => (e ▸ hf).lkPut_counted hcnt
  · have e : linkEchoReply (quiet s) n ts.toNat = controlRx (quiet s) n := by
      rw [linkEchoReply, if_neg (takes_quiet h hn), if_neg (show ¬ (lkGet (quiet s) n).st = 1 from ht)]
    rw [if_neg ht]
    refine completes_act hc hn (e ▸ hcnt.calm hc.quiet) fun u hf => ?_
    rw [e] at hf
    refine ⟨by rw [hf.lkGet, hcnt.lkGet, lkGet_quiet], fun k _ => by rw [hf.lkGet, hcnt.lkGet, lkGet_quiet], ?_⟩
    exact .intro hf (by rw [hcnt.eq, quiet_parts]) fun r hr => by rw [hcnt.regs r hr, rd_quiet]

end

theorem mem_portLive {s : State} {p m : Nat} : m ∈ portLive s p ↔ m ∈ portLinks s p ∧ (lkGet s m).st = 2 := by simp [portLive]

theorem portLinks_congr {s t : State} {p : Nat} (h : rd t (R.lnkPortCfgP p) = rd s (R.lnkPortCfgP p)) : portLinks t p = portLinks s p := by
  unfold portLinks
  rw [h]

/-- A link that is not the only live one of its port changes its state, and no packet moves (R364). -/
theorem lkState_links {s : State} {n : Nat} (st : Nat) (h : lkPort s n < 18 → ∃ m ∈ portLive s (lkPort s n), m ≠ n) (k : Nat) :
    lkGet (lkState s n st) k = lkGet (lkMod s n (fun x => { x with st := st })) k := by
  unfold lkState
  dsimp only
  split
  case isTrue hw =>
    have h18 : lkPort s n < 18 := by simp_all
    have hlive : portWidth (lkMod s n fun x => { x with st := st }) (lkPort s n) ≠ 0 := by
      obtain ⟨m, hm, hne⟩ := h h18
      rw [mem_portLive] at hm
      exact Nat.ne_of_gt (List.length_pos_of_mem (mem_portLive.2 ⟨hm.1, by rw [lkGet_lkMod_other _ hne]; exact hm.2⟩))
    rw [if_neg (by simp [hlive]), lkGet_bump]
  case isFalse =>
    split
    · exact lkGet_wrf ..
    · rfl

section
variable {s : State} {n : Nat}

theorem Counted.lkPort {t : State} {rs : List Reg} (h : Counted s t rs) (hr : (R.lnkCfg n).addr ∉ rs.map Reg.addr) :
    lkPort t n = Machine.lkPort s n := by simp only [Machine.lkPort, rdf, h.regs _ hr]

theorem Counted.portLive {t : State} {rs : List Reg} (h : Counted s t rs) {p : Nat} (hr : (R.lnkPortCfgP p).addr ∉ rs.map Reg.addr) :
    portLive t p = Machine.portLive s p := by
  unfold Machine.portLive
  rw [portLinks_congr (h.regs _ hr)]
  exact List.filter_congr fun m _ => by rw [h.lkGet]

theorem fecRegs_addr (hn : n < 18) {a : Nat} (h : a ∈ (fecRegs n).map Reg.addr) :
    0x6000000 ≤ a ∧ a < 0x6400000 ∨ a = blkBase .lnk n + 0x110 ∨ a = blkBase .lnk n + 0x118 := by
  simp only [fecRegs, List.map_append, List.map_map, List.mem_append, List.mem_map, List.mem_range, Function.comp, List.map_cons, List.map_nil,
    List.mem_cons, List.not_mem_nil, or_false] at h
  rcases h with ⟨k, hk, rfl⟩ | rfl | rfl
  · left
    simp only [R.telFecNB, blkBase]
    omega
  · exact .inr (.inl rfl)
  · exact .inr (.inr rfl)

theorem retrainReq_leaves (hc : Calm s) (hn : n < 18) (h : (lkGet s n).st = 2) :
    Completes (.retrainReq n) s (fun u => (lkGet u n).st = 3 ∧
      ((lkPort s n < 18 → ∃ m ∈ portLive s (lkPort s n), m ≠ n) →
        lkGet u n = { lkGet s n with st := 3 } ∧ ∀ k, k ≠ n → lkGet u k = lkGet s k)) := by
  have hcnt := counted_controlRx (quiet s) n
  have e : drainStart (quiet s) n = lkState (controlRx (quiet s) n) n 3 := by
    have hr : lkRuns (quiet s) n = true := by simp [lkRuns, h]
    rw [drainStart, if_pos (by simp [hn, hr]), if_pos (show (lkGet (quiet s) n).st = 2 from h)]
  have hm := moved_lkState (controlRx (quiet s) n) n 3
  have hst : (lkGet (lkState (controlRx (quiet s) n) n 3) n).st = 3 := by
    rw [hm.link n, lkGet_lkMod_same]
    rfl
  refine completes_act hc hn (e ▸ hm.calm ((hcnt.calm hc.quiet).lkPut ..)) fun u hf => ?_
  rw [e] at hf
  refine ⟨by rw [hf.lkGet, hst], fun hlive => ?_⟩
  have hp : lkPort (controlRx (quiet s) n) n = lkPort s n := by
    refine hcnt.lkPort fun ha => ?_
    have := fecRegs_addr hn ha
    simp only [R.lnkCfg, blkBase] at this
    omega
  have hl : portLive (controlRx (quiet s) n) (lkPort s n) = portLive s (lkPort s n) := by
    refine hcnt.portLive fun ha => ?_
    have := fecRegs_addr hn ha
    have := lkPort_lt s n
    simp only [R.lnkPortCfgP, blkBase] at *
    omega
  have hlinks := lkState_links (s := controlRx (quiet s) n) 3 (by rw [hp, hl]; exact hlive)
  refine ⟨?_, fun k hk => ?_⟩
  · rw [hf.lkGet, hlinks, lkGet_lkMod_same, hcnt.lkGet, lkGet_quiet]
  · rw [hf.lkGet, hlinks, lkGet_lkMod_other _ hk, hcnt.lkGet, lkGet_quiet]

end

/-- Settles O36: a message's codeword is counted (`counted_controlRx`), and besides it gives its link one new value (`Follows.lkPut_counted`); a drain
that the partner asks for changes the link's state (`moved_lkState`), and moves no packet while another link of the port is live (`lkState_links`). -/
theorem linkMessages : Obligations.LinkMessages := by
  unfold Obligations.LinkMessages
  intro s n hn hc
  refine ⟨fun h => ⟨?param, ?echo, ?reply⟩, retrainReq_leaves hc hn, ?down⟩
  case param => exact fun dev link port cls links h1 h2 h3 h4 => param_leaves hc hn h links h1 h2 h3 h4
  case echo => exact echo_leaves hc hn h
  case reply => exact echoReply_leaves hc hn h
  case down => exact lead_act hc hn rfl (hc.quiet.lkPut ..)

end Sys2Proof.Machine

/-!
SUPPORT and proofs for the states of a fabric link (O37): down, replays, training, retraining and disabling (R355, R360, R362–R366). Packets that move
about leave the rest of the device alone (`PacketsMoved`), so each event is read off a state in which they have not yet moved.
-/

namespace Sys2Proof.Machine

theorem lkMod_lkMod (s : State) (n : Nat) (f g : Link → Link) : lkMod (lkMod s n f) n g = lkMod s n (fun x => g (f x)) := by
  rw [lkMod, lkGet_lkMod_same, lkMod, lkPut_lkPut, lkMod]

/-! What packets moving about leave behind an update. -/

theorem PacketsMoved.of_eq {s t : State} (h : s = t) : PacketsMoved s t := h ▸ .refl s

theorem PacketsMoved.lkMod {s v : State} (h : PacketsMoved s v) (n : Nat) {f : Link → Link} (hf : ∀ x y, f (x.queues y) = (f x).queues y) :
    PacketsMoved (Machine.lkMod s n f) (Machine.lkMod v n f) := by
  refine ⟨?_, fun r hr => h.regs r hr, fun k => ?_⟩
  · have e := h.eq
    rw [State.mk.injEq] at e ⊢
    simpa using e
  · rw [lkGet_lkMod, lkGet_lkMod]
    have hq : ∀ x y : Link, x.queues (x.queues y) = x.queues y := fun _ _ => rfl
    split
    case isTrue => rw [h.link n, hf, hq]
    case isFalse => exact h.link k

/-- What a written register holds does not depend on what the other registers hold. -/
theorem rd_wr_addr (s t : State) {q r : Reg} (h : q.addr = r.addr) (v : Nat) : rd (wr s r v) q = rd (wr t r v) q := by
  simp only [rd, wr, csrPut, h]
  split
  · simp [tgetD]
  · simp

theorem PacketsMoved.wr {s v : State} (h : PacketsMoved s v) (r : Reg) (w : Nat) : PacketsMoved (Machine.wr s r w) (Machine.wr v r w) := by
  refine ⟨?_, fun q hq => ?_, fun k => h.link k⟩
  · have e := h.eq
    rw [State.mk.injEq] at e ⊢
    simpa using e
  · by_cases hk : q.addr = r.addr
    · exact rd_wr_addr v s hk w
    · rw [rd_wr_other _ hk, rd_wr_other _ hk, h.regs q hq]

theorem PacketsMoved.wrf {s v : State} (h : PacketsMoved s v) {r : Reg} (hr : ¬ TrafficReg r.addr) (lo len w : Nat) :
    PacketsMoved (Machine.wrf s r lo len w) (Machine.wrf v r lo len w) := by
  rw [Machine.wrf, Machine.wrf, h.regs r hr]
  exact h.wr r _

/-- Registers of a link are not written by packets moving about. -/
theorem not_trafficReg_lnk {n a : Nat} (hn : n < 18) (ha : a < 0x10000) : ¬ TrafficReg (blkBase .lnk n + a) := by
  simp only [TrafficReg, blkBase]
  omega

theorem not_noteRegs_lnk {n a : Nat} (hn : n < 18) (ha : a < 0x10000) : blkBase .lnk n + a ∉ noteRegs := by
  simp only [noteRegs, R.prtErrLog, R.prtErrCount, blkBase, List.mem_cons, List.not_mem_nil, or_false]
  omega

theorem PacketsMoved.lkBump {s v : State} (h : PacketsMoved s v) {n a : Nat} (hn : n < 18) (ha : a < 0x10000) (k : Nat) :
    PacketsMoved (Machine.lkBump s n ⟨blkBase .lnk n + a, 0⟩ k) (Machine.lkBump v n ⟨blkBase .lnk n + a, 0⟩ k) := by
  simp only [Machine.lkBump, bump, h.regs (R.lnkCtrl n) (not_trafficReg_lnk hn (by decide)), h.regs ⟨blkBase .lnk n + a, 0⟩ (not_trafficReg_lnk hn ha)]
  split
  · exact h
  · exact h.wr ..

theorem rd_lkBump_same {s : State} {n : Nat} (h : bit (rd s (R.lnkCtrl n)) 0 = false) (r : Reg) (k : Nat) :
    rd (lkBump s n r k) r = (rd s r + k) % 2 ^ 48 := by rw [lkBump, rd_bump_same, h]; rfl

@[simp] theorem lkGet_lkBump (s : State) (n : Nat) (r : Reg) (k m : Nat) : lkGet (lkBump s n r k) m = lkGet s m := lkGet_bump ..
@[simp] theorem lkGet_lnkErr (s : State) (n kind lane m : Nat) : lkGet (lnkErr s n kind lane) m = lkGet s m := lkGet_logErr ..
theorem counted_lnkErr (s : State) (n kind lane : Nat) : Counted s (lnkErr s n kind lane) [R.lnkErrLog n, R.lnkErrCount n] := counted_logErr ..

section
variable {s v u : State} {n : Nat} {q : List Instr}

/-- Registers of a link after packets have moved, and after the note of R448. -/
theorem rd_lnk_moved (hf : Follows q v u) {w : State} (hm : PacketsMoved w v) (hn : n < 18) {a : Nat} (ha : a < 0x10000) (rst : Nat) :
    rd u ⟨blkBase .lnk n + a, rst⟩ = rd w ⟨blkBase .lnk n + a, rst⟩ := by
  rw [hf.rd _ (not_noteRegs_lnk hn ha), hm.regs _ (not_trafficReg_lnk hn ha)]

theorem lkGet_moved (hf : Follows q v u) {w : State} (hm : PacketsMoved w v) (k : Nat) : lkGet u k = (lkGet w k).queues (lkGet v k) := by
  rw [hf.lkGet, hm.link]
  rfl

/-! A link goes down (R362, R363). -/

/-- What a link that goes down holds. -/
def downed (kind st : Nat) (auto : Bool) (x : Link) : Link :=
  { x with retry := [], txq := [], replay := none, replays := 0, nak := false, downTx := some kind, go := auto, msgs := [], echoes := [], fails := 0,
           cw := [], out := none, st := st }

/-- The device with a link down, before the link's packets go on. -/
def downState (s : State) (n kind lane st : Nat) : State :=
  lkMod (lkBump (if kind = 0 then s else lnkErr s n kind lane) n (R.lnkDownEvents n) 1) n (downed kind st (bit (rd s (R.lnkCtrl n)) 4 && decide (st = 4)))

theorem moved_linkDown (s : State) (n kind lane st : Nat) : PacketsMoved (downState s n kind lane st) (linkDown s n kind lane st) := by
  have hr (t : State) : TrafficReg (R.lnkPortReplayedP (lkPort t n)).addr := by
    have := lkPort_lt t n
    simp only [TrafficReg, R.lnkPortReplayedP, blkBase]
    omega
  unfold linkDown
  refine .trans ?_ (moved_linkLeaves ..)
  refine .trans ?_ (moved_bump _ (hr _) _ _ _)
  refine .trans (.of_eq ?_) (moved_lkState ..)
  rw [lkMod_lkMod, downState]
  rfl

/-- Link `n` has gone down with a cause, to state `st`: DOWN is sent, the retry buffer is empty, the event is counted. -/
structure WentDown (s u : State) (n kind st : Nat) : Prop where
  st : (lkGet u n).st = st
  retry : (lkGet u n).retry = []
  sends : (lkGet u n).downTx = some kind
  replay : (lkGet u n).replay = none
  counted : bit (rd s (R.lnkCtrl n)) 0 = false → rd u (R.lnkDownEvents n) = (rd s (R.lnkDownEvents n) + 1) % 2 ^ 48

theorem rd_downState_events {t : State} (kind lane st : Nat) (hc : rd t (R.lnkCtrl n) = rd s (R.lnkCtrl n))
    (he : rd t (R.lnkDownEvents n) = rd s (R.lnkDownEvents n)) (hz : bit (rd s (R.lnkCtrl n)) 0 = false) :
    rd (downState t n kind lane st) (R.lnkDownEvents n) = (rd s (R.lnkDownEvents n) + 1) % 2 ^ 48 := by
  have hcnt : Counted t (if kind = 0 then t else lnkErr t n kind lane) [R.lnkErrLog n, R.lnkErrCount n] := by
    split
    · exact .refl _ _
    · exact counted_lnkErr ..
  have h1 := hcnt.regs (R.lnkCtrl n) (by simp [R.lnkCtrl, R.lnkErrLog, R.lnkErrCount])
  have h2 := hcnt.regs (R.lnkDownEvents n) (by simp [R.lnkDownEvents, R.lnkErrLog, R.lnkErrCount])
  rw [downState, rd_lkMod, rd_lkBump_same (by rw [h1, hc]; exact hz), h2, he]

theorem Follows.wentDown (hf : Follows q v u) {w t : State} (hm : PacketsMoved w v) (hn : n < 18) {kind lane st : Nat}
    (hl : (Machine.lkGet w n).st = st ∧ (Machine.lkGet w n).retry = [] ∧ (Machine.lkGet w n).downTx = some kind ∧ (Machine.lkGet w n).replay = none)
    (he : Machine.rd w (R.lnkDownEvents n) = Machine.rd (downState t n kind lane st) (R.lnkDownEvents n))
    (h1 : Machine.rd t (R.lnkCtrl n) = Machine.rd s (R.lnkCtrl n)) (h2 : Machine.rd t (R.lnkDownEvents n) = Machine.rd s (R.lnkDownEvents n)) :
    WentDown s u n kind st := by
  obtain ⟨hst, hretry, hdown, hreplay⟩ := hl
  have hl := lkGet_moved hf hm n
  refine ⟨by rw [hl]; exact hst, by rw [hl]; exact hretry, by rw [hl]; exact hdown, by rw [hl]; exact hreplay, fun hz => ?_⟩
  rw [R.lnkDownEvents, rd_lnk_moved hf hm hn (by decide), ← R.lnkDownEvents, he, rd_downState_events kind lane st h1 h2 hz]

end

section
variable {s t u : State} {n : Nat} {q : List Instr}

theorem Calm.counted {rs : List Reg} (hc : Calm s) (h : Counted s t rs) : Calm t := h.calm hc

theorem counted_downErr (t : State) (n kind lane : Nat) :
    Counted t (lkBump (if kind = 0 then t else lnkErr t n kind lane) n (R.lnkDownEvents n) 1) [R.lnkErrLog n, R.lnkErrCount n, R.lnkDownEvents n] := by
  refine .trans ?_ ((counted_bump ..).mono (by simp))
  split
  · exact .refl _ _
  · exact (counted_lnkErr ..).mono (by simp)

theorem Calm.linkDown (hc : Calm t) (n kind lane st : Nat) : Calm (Machine.linkDown t n kind lane st) :=
  (moved_linkDown t n kind lane st).calm (((counted_downErr t n kind lane).calm hc).lkPut ..)

/-- A state that holds what `s` holds in the registers that a link going down counts in. -/
def DownRegs (s t : State) (n : Nat) : Prop := rd t (R.lnkCtrl n) = rd s (R.lnkCtrl n) ∧ rd t (R.lnkDownEvents n) = rd s (R.lnkDownEvents n)

theorem Counted.downRegs {rs : List Reg} (h : Counted (quiet s) t rs) (h1 : (R.lnkCtrl n).addr ∉ rs.map Reg.addr)
    (h2 : (R.lnkDownEvents n).addr ∉ rs.map Reg.addr) : DownRegs s t n := ⟨h.regs _ h1, h.regs _ h2⟩

theorem wentDown_linkDown (hn : n < 18) (ht : DownRegs s t n) {kind lane st : Nat} (hf : Follows q (linkDown t n kind lane st) u) :
    WentDown s u n kind st := by
  obtain ⟨h1, h2⟩ := ht
  exact hf.wentDown (moved_linkDown t n kind lane st) hn (by rw [downState, lkGet_lkMod_same]; exact ⟨rfl, rfl, rfl, rfl⟩) rfl h1 h2

/-- A command that takes its running link down. -/
theorem completes_linkDown {c : Prop} [Decidable c] {f : State → State} {kind lane : Nat} (hc : Calm s) (hg : c) (hn : n < 18)
    (e : f (quiet s) = linkDown (quiet s) n kind lane 4) :
    ∃ u, act (only c f) s = .next u ∧ WentDown s u n kind 4 :=
  completes_act hc hg (by rw [e]; exact hc.quiet.linkDown ..) fun _ hf => wentDown_linkDown (s := s) (t := quiet s) hn ⟨rfl, rfl⟩ (by rw [e] at hf; exact hf)

theorem down_goesDown (hc : Calm s) (hn : n < 18) (hr : lkRuns s n = true) (cause : Nat) :
    Completes (.down n cause) s (fun u => WentDown s u n 4 4) := by
  have hcnt := counted_controlRx (quiet s) n
  have e : downRx (quiet s) n = linkDown (controlRx (quiet s) n) n 4 0 4 := by
    rw [downRx, if_pos (by simp [hn, show lkRuns (quiet s) n = true from hr])]
  have hreg : DownRegs s (controlRx (quiet s) n) n := by
    refine hcnt.downRegs (fun ha => ?_) (fun ha => ?_)
    all_goals
      have := fecRegs_addr hn ha
      simp only [R.lnkCtrl, R.lnkDownEvents, blkBase] at this
      omega
  exact completes_act hc hn (e ▸ (hc.quiet.counted hcnt).linkDown ..) fun u hf => wentDown_linkDown hn hreg (e ▸ hf)

theorem los_goesDown (hc : Calm s) (hn : n < 18) (hr : lkRuns s n = true) {lane : Nat} (hl : lane < 4) :
    Completes (.linkLos n lane) s (fun u => WentDown s u n 1 4 ∧ bit (rd u (R.lnkLaneL n lane)) 0 = false) := by
  have hnt : ¬ TrafficReg (R.lnkLaneL n lane).addr := by simp only [TrafficReg, R.lnkLaneL, blkBase]; omega
  have hm := ((moved_linkDown (quiet s) n 1 lane 4).wrf hnt 0 1 0).lkMod n
    (f := fun x => { x with laneOk := setBits x.laneOk lane 1 0 }) fun _ _ => rfl
  have e : linkLos (quiet s) n lane =
      lkMod (wrf (linkDown (quiet s) n 1 lane 4) (R.lnkLaneL n lane) 0 1 0) n fun x => { x with laneOk := setBits x.laneOk lane 1 0 } := by
    rw [linkLos, if_pos (by simp [hn, hl, show lkRuns (quiet s) n = true from hr])]
  have hne : (R.lnkDownEvents n).addr ≠ (R.lnkLaneL n lane).addr := by simp only [R.lnkDownEvents, R.lnkLaneL]; omega
  refine completes_act hc hn (e ▸ Calm.lkPut (Calm.counted (hc.quiet.linkDown ..) (counted_wrf ..)) ..) fun u hf => ?_
  rw [e] at hf
  refine ⟨hf.wentDown (t := quiet s) (lane := lane) hm hn ?_ ?_ rfl rfl, ?_⟩
  · rw [lkGet_lkMod_same, lkGet_wrf, downState, lkGet_lkMod_same]
    exact ⟨rfl, rfl, rfl, rfl⟩
  · rw [rd_lkMod, wrf, rd_wr_other _ hne]
  · have hnn : (R.lnkLaneL n lane).addr ∉ noteRegs := by
      rw [R.lnkLaneL, Nat.add_assoc]
      exact not_noteRegs_lnk hn (by omega)
    rw [hf.rd _ hnn, hm.regs _ hnt, rd_lkMod, wrf, rd_wr_same, bit_setBits_same]
    rfl

theorem fecLimit_goesDown (hc : Calm s) (hn : n < 18) (hr : lkRuns s n = true)
    (h : bits (lkGet s n).lim 16 8 < ((lkGet s n).cw.filter (fun t => s.now < t + 440000000)).length) :
    Completes (.fecLimit n) s (fun u => WentDown s u n 2 4) := by
  refine completes_linkDown hc hn hn (lane := 0) ?_
  have : lkRuns (quiet s) n = true := hr
  simp only [fecLimit, lkGet_quiet, quiet_now]
  exact if_pos (by simp only [Bool.and_eq_true, decide_eq_true_eq]; exact ⟨⟨hn, this⟩, decide_eq_true h⟩)

theorem noSlot_goesDown (hc : Calm s) (hn : n < 18) (hr : lkRuns s n = true) :
    Completes (.noSlotTimeout n) s (fun u => WentDown s u n 5 4) :=
  completes_linkDown hc hn hn (lane := 0) (if_pos (by simp [hn, show lkRuns (quiet s) n = true from hr]))

theorem drainTimeout_goesDown (hc : Calm s) (hn : n < 18) (h3 : (lkGet s n).st = 3) (hb : (lkGet s n).retry ≠ []) :
    Completes (.linkDrainTimeout n) s (fun u => WentDown s u n 0 4) :=
  completes_linkDown hc hn hn (lane := 0) (if_pos (by simp [hn, h3, hb]))

theorem replayTimeout_eq (hn : n < 18) (hr : lkRuns s n = true) (hu : unacked (lkGet s n) ≠ []) :
    replayTimeout (quiet s) n = replayStart (quiet s) n (R.lnkReplayTo n) :=
  if_pos (by simp [hn, show lkRuns (quiet s) n = true from hr, hu])

theorem replayTimeout_goesDown (hc : Calm s) (hn : n < 18) (hr : lkRuns s n = true) (hu : unacked (lkGet s n) ≠ [])
    (h : replayLimit (lkGet s n) ≤ (lkGet s n).replays) : Completes (.replayTimeout n) s (fun u => WentDown s u n 3 4) :=
  completes_linkDown hc hn hn (lane := 0) ((replayTimeout_eq hn hr hu).trans (if_pos h))

theorem replayTimeout_replays (hc : Calm s) (hn : n < 18) (hr : lkRuns s n = true) (hu : unacked (lkGet s n) ≠ [])
    (h : (lkGet s n).replays < replayLimit (lkGet s n)) :
    Completes (.replayTimeout n) s (fun u => (lkGet u n).replay = some (oldestSeq (lkGet s n)) ∧ (lkGet u n).replays = (lkGet s n).replays + 1 ∧
      (lkGet u n).retry = (lkGet s n).retry ∧ (lkGet u n).st = (lkGet s n).st ∧ SameRegs s u [R.lnkReplayTo n]) := by
  have hcnt : Counted (quiet s) (lkBump (quiet s) n (R.lnkReplayTo n) 1) [R.lnkReplayTo n] := counted_bump ..
  have e := (replayTimeout_eq hn hr hu).trans (if_neg (by simpa using h))
  refine completes_act hc hn (e ▸ (hc.quiet.counted hcnt).lkPut ..) fun u hf => ?_
  rw [e] at hf
  obtain ⟨hx, -, hs⟩ := hf.lkPut_counted hcnt
  rw [hx]
  exact ⟨rfl, rfl, rfl, rfl, hs⟩

end

/-! A link trains (R360, R365). -/

section
variable {s t u v : State} {n : Nat} {q : List Instr}

theorem counted_foldl {α : Type} {f : State → α → State} {rs : List Reg} (l : List α) (hf : ∀ t, ∀ a ∈ l, Counted t (f t a) rs) (s : State) :
    Counted s (l.foldl f s) rs := by
  induction l generalizing s with
  | nil => exact .refl _ _
  | cons a r ih => exact (hf s a (by simp)).trans (ih (fun t b hb => hf t b (by simp [hb])) _)

/-- The lanes of a link. -/
def laneRegs (n : Nat) : List Reg := (List.range 4).map (R.lnkLaneL n)

/-- No lane of a link is locked. -/
def lanesOff (s : State) (n : Nat) : State := (List.range 4).foldl (fun t l => wrf t (R.lnkLaneL n l) 0 1 0) s

theorem counted_lanesOff (s : State) (n : Nat) : Counted s (lanesOff s n) (laneRegs n) :=
  counted_foldl _ (fun t l hl => (counted_wrf t _ 0 1 0).mono (by simpa [laneRegs] using ⟨l, List.mem_range.1 hl, rfl⟩)) s

theorem counted_lanesSet (s : State) (n : Nat) (r : TrainResult) : Counted s (lanesSet s n r) (laneRegs n) :=
  counted_foldl _ (fun t l hl => (counted_wr t _ _).mono (by simpa [laneRegs] using ⟨l, List.mem_range.1 hl, rfl⟩)) s

theorem laneRegs_addr {a : Nat} (h : a ∈ (laneRegs n).map Reg.addr) : ∃ l < 4, a = blkBase .lnk n + 0x80 + l * 8 := by
  simp only [laneRegs, List.map_map, List.mem_map, List.mem_range, Function.comp] at h
  obtain ⟨l, hl, rfl⟩ := h
  exact ⟨l, hl, rfl⟩

theorem PacketsMoved.lanesOff {w : State} (h : PacketsMoved w v) (hn : n < 18) : PacketsMoved (lanesOff w n) (lanesOff v n) := by
  have key : ∀ l : List Nat, (∀ i ∈ l, i < 4) → ∀ {w v : State}, PacketsMoved w v →
      PacketsMoved (l.foldl (fun t l => Machine.wrf t (R.lnkLaneL n l) 0 1 0) w) (l.foldl (fun t l => Machine.wrf t (R.lnkLaneL n l) 0 1 0) v) := by
    intro l
    induction l with
    | nil => exact fun _ _ _ h => h
    | cons i r ih =>
      intro hl w v h
      have hi := hl i (by simp)
      have ht : ¬ TrafficReg (R.lnkLaneL n i).addr := by simp only [TrafficReg, R.lnkLaneL, blkBase]; omega
      exact ih (fun j hj => hl j (by simp [hj])) (h.wrf ht 0 1 0)
  exact key _ (fun i hi => List.mem_range.1 hi) h

/-- What a link whose training begins holds. -/
def inTraining (param lim : Nat) (x : Link) : Link :=
  { x with st := 1, go := false, msgs := [(1, param)], echoes := [], lim := lim, rtt := 0, laneOk := 0, downTx := none }

/-- The device with a link in training, before the port's packets go on. -/
def trainState (s : State) (n : Nat) : State :=
  lkMod (lanesOff (wrf (lkBump s n (R.lnkRetrains n) 1) (R.lnkPartner n) 28 1 0) n) n (inTraining (paramOut s n) (rd s (R.lnkCfg n)))

theorem counted_trainState (s : State) (n : Nat) :
    Counted s (lanesOff (wrf (lkBump s n (R.lnkRetrains n) 1) (R.lnkPartner n) 28 1 0) n) (R.lnkRetrains n :: R.lnkPartner n :: laneRegs n) :=
  (((counted_bump ..).mono (by simp)).trans ((counted_wrf ..).mono (by simp))).trans
    ((counted_lanesOff ..).mono fun _ h => List.mem_cons_of_mem _ (List.mem_cons_of_mem _ h))

theorem lanesOff_lkMod (s : State) (n m : Nat) (f : Link → Link) : lanesOff (lkMod s m f) n = lkMod (lanesOff s n) m f := by
  have key (l : List Nat) : ∀ t : State, l.foldl (fun t l => wrf t (R.lnkLaneL n l) 0 1 0) (lkMod t m f) =
      lkMod (l.foldl (fun t l => wrf t (R.lnkLaneL n l) 0 1 0) t) m f := by
    induction l with
    | nil => exact fun _ => rfl
    | cons i r ih => exact fun t => ih (wrf t (R.lnkLaneL n i) 0 1 0)
  exact key _ s

theorem bump_lkMod (s : State) (m : Nat) (f : Link → Link) (z : Bool) (r : Reg) (k w : Nat) :
    bump (lkMod s m f) z r k w = lkMod (bump s z r k w) m f := by
  cases z with
  | true => rfl
  | false => rfl

theorem lkBump_lkMod (s : State) (n m : Nat) (f : Link → Link) (r : Reg) (k : Nat) : lkBump (lkMod s m f) n r k = lkMod (lkBump s n r k) m f :=
  bump_lkMod s m f _ r k 48

theorem wrf_lkMod (s : State) (m : Nat) (f : Link → Link) (r : Reg) (lo len v : Nat) : wrf (lkMod s m f) r lo len v = lkMod (wrf s r lo len v) m f := rfl

theorem moved_trainBegin (s : State) (hn : n < 18) : PacketsMoved (trainState s n) (trainBegin s n) := by
  have h1 := (moved_lkState s n 1).lkBump (n := n) (a := 0x160) hn (by decide) 1
  have h2 := (h1.wrf (r := R.lnkPartner n) (not_trafficReg_lnk hn (by decide)) 28 1 0).lanesOff hn
  have h3 := h2.lkMod n (f := fun x => { x with go := false, msgs := [(1, paramOut s n)], echoes := [], lim := rd s (R.lnkCfg n), rtt := 0, laneOk := 0,
                                                downTx := none }) fun _ _ => rfl
  rw [lkBump_lkMod, wrf_lkMod, lanesOff_lkMod, lkMod_lkMod] at h3
  exact h3

theorem Calm.trainBegin (hc : Calm s) (hn : n < 18) : Calm (Machine.trainBegin s n) :=
  (moved_trainBegin s hn).calm ((hc.counted (counted_trainState s n)).lkPut ..)

/-- What a command leaves whose operation begins the training of a link. -/
theorem Follows.trainBegin (hf : Follows q (Machine.trainBegin (quiet s) n) u) (hn : n < 18) :
    (∃ y, Machine.lkGet u n = (inTraining (paramOut s n) (Machine.rd s (R.lnkCfg n)) (Machine.lkGet s n)).queues y) ∧
      (bit (Machine.rd s (R.lnkCtrl n)) 0 = false → Machine.rd u (R.lnkRetrains n) = (Machine.rd s (R.lnkRetrains n) + 1) % 2 ^ 48) := by
  have hm := moved_trainBegin (quiet s) hn
  refine ⟨⟨Machine.lkGet (Machine.trainBegin (quiet s) n) n, ?_⟩, fun hz => ?_⟩
  · rw [lkGet_moved hf hm, trainState, lkGet_lkMod_same, (counted_trainState (quiet s) n).lkGet]
    rfl
  · have h1 : (R.lnkRetrains n).addr ∉ (laneRegs n).map Reg.addr := fun ha => by
      obtain ⟨l, hl, he⟩ := laneRegs_addr ha
      simp only [R.lnkRetrains] at he
      omega
    have h2 : (R.lnkRetrains n).addr ≠ (R.lnkPartner n).addr := by simp [R.lnkRetrains, R.lnkPartner]
    rw [R.lnkRetrains, rd_lnk_moved hf hm hn (by decide), ← R.lnkRetrains, trainState, rd_lkMod, (counted_lanesOff ..).regs _ h1, Machine.wrf,
      rd_wr_other _ h2, rd_lkBump_same (s := quiet s) hz]
    rfl

theorem trainStart_trains (hc : Calm s) (hn : n < 18) (hgo : (lkGet s n).go = true) (hr : lkRuns s n = false) (h1 : (lkGet s n).st ≠ 1)
    (hd : bit (rd s (R.lnkCtrl n)) 3 = false) (hp : lkPort s n < 18) (ho : portOn s (lkPort s n) = true) (hcl : classOn s n = true) :
    Completes (.linkTrainStart n) s (fun u => (lkGet u n).st = 1 ∧ (lkGet u n).msgs = [(1, paramOut s n)] ∧ (lkGet u n).go = false ∧
      (lkGet u n).rtt = 0 ∧ (lkGet u n).lim = rd s (R.lnkCfg n) ∧ (lkGet u n).laneOk = 0 ∧
      (bit (rd s (R.lnkCtrl n)) 0 = false → rd u (R.lnkRetrains n) = (rd s (R.lnkRetrains n) + 1) % 2 ^ 48)) := by
  have e : linkTrainStart (quiet s) n = trainBegin (quiet s) n := by
    have hg : (decide (18 ≤ n) || !(lkGet s n).go || lkRuns s n || decide ((lkGet s n).st = 1) || bit (rd s (R.lnkCtrl n)) 3 ||
      decide (18 ≤ lkPort s n) || !portOn s (lkPort s n)) = false := by simp [hgo, hr, h1, hd, ho, hn, hp]
    show (if _ then _ else if _ then _ else _) = _
    exact (if_neg (by rw [Bool.not_eq_true]; exact hg)).trans (if_neg (by rw [show classOn (quiet s) n = true from hcl]; simp))
  refine completes_act hc hn (by rw [e]; exact hc.quiet.trainBegin hn) fun u hf => ?_
  rw [e] at hf
  obtain ⟨⟨y, hy⟩, hcount⟩ := hf.trainBegin hn
  rw [hy]
  exact ⟨rfl, rfl, rfl, rfl, rfl, rfl, hcount⟩

theorem drainDone_trains (hc : Calm s) (hn : n < 18) (h3 : (lkGet s n).st = 3) (hb : (lkGet s n).retry = []) :
    Completes (.linkDrainDone n) s (fun u => (lkGet u n).st = 1 ∧ (lkGet u n).msgs = [(1, paramOut s n)]) := by
  have e : linkDrainDone (quiet s) n = trainBegin (quiet s) n := if_pos (by simp [hn, h3, hb])
  refine completes_act hc hn (by rw [e]; exact hc.quiet.trainBegin hn) fun u hf => ?_
  rw [e] at hf
  obtain ⟨⟨y, hy⟩, -⟩ := hf.trainBegin hn
  rw [hy]
  exact ⟨rfl, rfl⟩

/-- A link that has changed its state after its own fields: packets move about. -/
theorem moved_lkMod_lkState (t : State) (n st : Nat) (f : Link → Link) :
    PacketsMoved (lkMod t n (fun x => { f x with st := st })) (lkState (lkMod t n f) n st) := by
  refine .trans (.of_eq ?_) (moved_lkState ..)
  rw [lkMod_lkMod]

theorem trainStart_refused (hc : Calm s) (hn : n < 18) (hgo : (lkGet s n).go = true) (hr : lkRuns s n = false) (h1 : (lkGet s n).st ≠ 1)
    (hd : bit (rd s (R.lnkCtrl n)) 3 = false) (hp : lkPort s n < 18) (ho : portOn s (lkPort s n) = true) (hcl : classOn s n = false) :
    Completes (.linkTrainStart n) s (fun u => (lkGet u n).st = 6 ∧ (lkGet u n).refuse = 1 ∧ (lkGet u n).go = false) := by
  have e : linkTrainStart (quiet s) n = lkState (lkMod (lnkErr (quiet s) n 8 0) n (fun x => { x with go := false, refuse := 1 })) n 6 := by
    have hg : (decide (18 ≤ n) || !(lkGet s n).go || lkRuns s n || decide ((lkGet s n).st = 1) || bit (rd s (R.lnkCtrl n)) 3 ||
      decide (18 ≤ lkPort s n) || !portOn s (lkPort s n)) = false := by simp [hgo, hr, h1, hd, ho, hn, hp]
    show (if _ then _ else if _ then _ else _) = _
    exact (if_neg (by rw [Bool.not_eq_true]; exact hg)).trans (if_pos (by rw [show classOn (quiet s) n = false from hcl]; rfl))
  have hm := moved_lkMod_lkState (lnkErr (quiet s) n 8 0) n 6 fun x => { x with go := false, refuse := 1 }
  refine completes_act hc hn (by rw [e]; exact hm.calm ((hc.quiet.counted (counted_lnkErr ..)).lkPut ..)) fun u hf => ?_
  rw [e] at hf
  rw [lkGet_moved hf hm, lkGet_lkMod_same]
  exact ⟨rfl, rfl, rfl⟩

/-! The end of training (R360, R365). -/

theorem paramCheck_congr (hr : ∀ m, rd t (R.lnkPartner m) = rd s (R.lnkPartner m)) (hcfg : rd t (R.lnkCfg n) = rd s (R.lnkCfg n))
    (hport : ∀ p, rd t (R.lnkPortCfgP p) = rd s (R.lnkPortCfgP p)) (hl : (lkGet t n).plinks = (lkGet s n).plinks)
    (hst : ∀ m, (lkGet t m).st = (lkGet s m).st) : paramCheck t n = paramCheck s n := by
  have h1 : lkPort t n = lkPort s n := by simp only [lkPort, rdf, hcfg]
  have h2 : portLive t (lkPort s n) = portLive s (lkPort s n) := by
    unfold portLive
    rw [portLinks_congr (hport _)]
    exact List.filter_congr fun m _ => by rw [hst]
  have h3 : ownLinks t n = ownLinks s n := by rw [ownLinks, h1, portLinks_congr (hport _), ownLinks]
  simp only [paramCheck, hr, rdf, hcfg, hl, h1, h2, h3]

/-- The device with what training found of a link's lanes. -/
def lanesFound (s : State) (n : Nat) (r : TrainResult) : State :=
  lkMod (lanesSet s n r) n (fun x => { x with laneOk := r.lanesOk.toNat, rev := r.reversed })

theorem lkGet_lanesFound (s : State) (n : Nat) (r : TrainResult) :
    lkGet (lanesFound s n r) n = { lkGet s n with laneOk := r.lanesOk.toNat, rev := r.reversed } := by
  rw [lanesFound, lkGet_lkMod_same, (counted_lanesSet ..).lkGet]

theorem paramCheck_lanesFound (s : State) (n : Nat) (r : TrainResult) (hn : n < 18) : paramCheck (lanesFound s n r) n = paramCheck s n := by
  have hcnt := counted_lanesSet s n r
  have hother (a rst : Nat) (h : ∀ l < 4, a ≠ blkBase .lnk n + 0x80 + l * 8) : rd (lanesFound s n r) ⟨a, rst⟩ = rd s ⟨a, rst⟩ := by
    rw [lanesFound, rd_lkMod]
    refine hcnt.regs ⟨a, rst⟩ fun ha => ?_
    obtain ⟨l, hl, he⟩ := laneRegs_addr ha
    exact h l hl he
  refine paramCheck_congr (fun m => hother _ _ ?_) (hother _ _ ?_) (fun p => hother _ _ ?_) (by rw [lkGet_lanesFound]) fun m => ?_
  · simp only [blkBase]; omega
  · simp only [blkBase]; omega
  · simp only [blkBase]; omega
  · rw [lanesFound, lkGet_lkMod]
    split
    case isTrue h => rw [h, hcnt.lkGet]
    case isFalse => rw [hcnt.lkGet]

theorem Calm.lanesFound (hc : Calm s) (n : Nat) (r : TrainResult) : Calm (Machine.lanesFound s n r) :=
  (hc.counted (counted_lanesSet s n r)).lkPut ..

/-- What a link that comes UP holds. -/
def cameUp (rtt : Nat) (x : Link) : Link :=
  { x with tries := 0, fails := 0, cw := [], share := [], refuse := 0, win := 131072 < 100 * rtt, txSeq := 0, retry := [], replay := none, nakUntil := 0,
           replays := 0, rxExp := 0, nak := false, sent := [], cc := [], freed := [], chg := [], step := 0, msgs := [], echoes := [], downTx := none }

/-- The end of a training (R365): the lanes as found, then the check of R360. -/
theorem linkTrainDone_eq (s : State) (r : TrainResult) (hn : n < 18) (h1 : (lkGet s n).st = 1) :
    linkTrainDone s n r =
      if !r.physOk || r.lanesOk ≠ 15#4 then
        linkLeaves (lkState (lkMod (lnkErr (lanesFound s n r) n 7 (((List.range 4).find? (fun l => !bit r.lanesOk.toNat l)).getD 0)) n
          (fun x => { x with tries := min 15 (x.tries + 1), fails := x.fails + 1, go := !decide (trainTries (lkGet s n) ≤ (lkGet s n).fails + 1),
                             msgs := [], txq := [] })) n (if trainTries (lkGet s n) ≤ (lkGet s n).fails + 1 then 5 else 4)) n (lkGet s n).txq
      else if paramCheck (lanesFound s n r) n = 0 then
        lkState (lkMod (wr (lanesFound s n r) (R.lnkRtt n) (min (max (lkGet s n).rtt r.rttNs) 65535 +
          fieldAt 16 16 (min (2 * max (lkGet s n).rtt r.rttNs + 100) 65535))) n (cameUp (max (lkGet s n).rtt r.rttNs))) n 2
      else
        linkLeaves (lkState (lkMod (lnkErr (lanesFound s n r) n 8 0) n
          (fun x => { x with refuse := paramCheck (lanesFound s n r) n, msgs := [], txq := [] })) n 6) n (lkGet s n).txq := by
  rw [linkTrainDone, if_neg (by simp [hn, h1])]
  dsimp only
  rw [show lkMod (lanesSet s n r) n (fun x => { x with laneOk := r.lanesOk.toNat, rev := r.reversed }) = lanesFound s n r from rfl]
  generalize lanesFound s n r = t
  congr 1
  generalize paramCheck t n = c
  cases c
  · rfl
  · rfl

theorem trainDone_up (hc : Calm s) (hn : n < 18) {r : TrainResult} (h1 : (lkGet s n).st = 1) (hok : r.physOk = true) (hl : r.lanesOk = 15#4)
    (hp : paramCheck s n = 0) : Completes (.linkTrainDone n r) s (fun u => (lkGet u n).st = 2 ∧ (lkGet u n).txSeq = 0 ∧ (lkGet u n).rxExp = 0 ∧
      (lkGet u n).retry = [] ∧ (lkGet u n).laneOk = 15 ∧ bits (rd u (R.lnkRtt n)) 0 16 = min (max (lkGet s n).rtt r.rttNs) 65535) := by
  set rtt := max (lkGet s n).rtt r.rttNs with hrtt
  have e : linkTrainDone (quiet s) n r = lkState (lkMod (wr (lanesFound (quiet s) n r) (R.lnkRtt n)
      (min rtt 65535 + fieldAt 16 16 (min (2 * rtt + 100) 65535))) n (cameUp rtt)) n 2 := by
    have hpc : paramCheck (lanesFound (quiet s) n r) n = 0 := (paramCheck_lanesFound _ n r hn).trans hp
    rw [linkTrainDone_eq (quiet s) r hn h1, if_neg (by simp [hok, hl]), if_pos hpc, lkGet_quiet]
  have hm := moved_lkMod_lkState (wr (lanesFound (quiet s) n r) (R.lnkRtt n) (min rtt 65535 + fieldAt 16 16 (min (2 * rtt + 100) 65535))) n 2 (cameUp rtt)
  refine completes_act hc hn (by rw [e]; exact hm.calm (((hc.quiet.lanesFound n r).counted (counted_wr ..)).lkPut ..)) fun u hf => ?_
  rw [e] at hf
  refine and_assoc.1 (and_assoc.1 (and_assoc.1 (and_assoc.1 ⟨?_, ?_⟩)))
  · rw [lkGet_moved hf hm, lkGet_lkMod_same, lkGet_wr, lkGet_lanesFound, hl]
    exact ⟨⟨⟨⟨rfl, rfl⟩, rfl⟩, rfl⟩, rfl⟩
  · rw [R.lnkRtt, rd_lnk_moved hf hm hn (by decide), ← R.lnkRtt, rd_lkMod, rd_wr_same]
    have hlt : min rtt 65535 < 2 ^ 16 := by omega
    rw [fieldAt, Nat.shiftLeft_eq, Nat.add_comm, Nat.mul_comm, bits_add_low hlt (by decide), bits_of_lt hlt]

theorem trainDone_refused (hc : Calm s) (hn : n < 18) {r : TrainResult} (h1 : (lkGet s n).st = 1) (hok : r.physOk = true) (hl : r.lanesOk = 15#4)
    {c : Nat} (hp : paramCheck s n = c) (h0 : c ≠ 0) : Completes (.linkTrainDone n r) s (fun u => (lkGet u n).st = 6 ∧ (lkGet u n).refuse = c) := by
  have e : linkTrainDone (quiet s) n r = linkLeaves (lkState (lkMod (lnkErr (lanesFound (quiet s) n r) n 8 0) n
      (fun x => { x with refuse := c, msgs := [], txq := [] })) n 6) n (lkGet s n).txq := by
    have hpc : paramCheck (lanesFound (quiet s) n r) n = c := (paramCheck_lanesFound _ n r hn).trans hp
    rw [linkTrainDone_eq (quiet s) r hn h1, if_neg (by simp [hok, hl]), if_neg (by rw [hpc]; exact h0), hpc, lkGet_quiet]
  have hm := (moved_lkMod_lkState (lnkErr (lanesFound (quiet s) n r) n 8 0) n 6 fun x => { x with refuse := c, msgs := [], txq := [] }).trans
    (moved_linkLeaves _ n (lkGet s n).txq)
  refine completes_act hc hn (by rw [e]; exact hm.calm (((hc.quiet.lanesFound n r).counted (counted_lnkErr ..)).lkPut ..)) fun u hf => ?_
  rw [e] at hf
  rw [lkGet_moved hf hm, lkGet_lkMod_same]
  exact ⟨rfl, rfl⟩

theorem trainDone_fails (hc : Calm s) (hn : n < 18) {r : TrainResult} (h1 : (lkGet s n).st = 1) (hl : r.physOk = false ∨ r.lanesOk ≠ 15#4) :
    Completes (.linkTrainDone n r) s (fun u => (lkGet u n).st = (if trainTries (lkGet s n) ≤ (lkGet s n).fails + 1 then 5 else 4) ∧
      (lkGet u n).go = decide ((lkGet s n).fails + 1 < trainTries (lkGet s n)) ∧ (lkGet u n).tries = min 15 ((lkGet s n).tries + 1)) := by
  have hbad : (!r.physOk || decide (r.lanesOk ≠ 15#4)) = true := by
    rcases hl with h | h
    · simp [h]
    · simp [h]
  have e := (linkTrainDone_eq (quiet s) r hn h1).trans (if_pos hbad)
  have hm := (moved_lkMod_lkState (lnkErr (lanesFound (quiet s) n r) n 7 (((List.range 4).find? (fun l => !bit r.lanesOk.toNat l)).getD 0)) n
    (if trainTries (lkGet (quiet s) n) ≤ (lkGet (quiet s) n).fails + 1 then 5 else 4) fun x =>
      { x with tries := min 15 (x.tries + 1), fails := x.fails + 1,
               go := !decide (trainTries (lkGet (quiet s) n) ≤ (lkGet (quiet s) n).fails + 1), msgs := [], txq := [] }).trans
    (moved_linkLeaves _ n (lkGet (quiet s) n).txq)
  refine completes_act hc hn (by rw [e]; exact hm.calm (((hc.quiet.lanesFound n r).counted (counted_lnkErr ..)).lkPut ..)) fun u hf => ?_
  rw [e] at hf
  rw [lkGet_moved hf hm, lkGet_lkMod_same, lkGet_lnkErr, lkGet_lanesFound]
  refine ⟨rfl, ?_, rfl⟩
  show (!decide (trainTries (lkGet s n) ≤ (lkGet s n).fails + 1)) = _
  simp only [← decide_not, Nat.not_le]

/-! Retraining and disabling (R366). -/

theorem retrain_drains (hc : Calm s) (hn : n < 18) (h2 : (lkGet s n).st = 2) :
    Completes (.linkRetrain n) s (fun u => (lkGet u n).st = 3 ∧ (lkGet u n).msgs = (lkGet s n).msgs ++ [(5, 0)]) := by
  have hm := (moved_lkState (quiet s) n 3).lkMod n (f := fun x => { x with msgs := x.msgs ++ [(5, 0)] }) fun _ _ => rfl
  have e : linkRetrain (quiet s) n = lkMod (lkState (quiet s) n 3) n (fun x => { x with msgs := x.msgs ++ [(5, 0)] }) := by
    rw [linkRetrain, if_neg (by omega), lkGet_quiet, h2]
    rfl
  refine completes_stk hc hn (by rw [e]; exact hm.calm ((hc.quiet.lkPut ..).lkPut ..)) fun u hf => ?_
  rw [e] at hf
  rw [lkGet_moved hf hm, lkGet_lkMod_same, lkGet_lkMod_same, lkGet_quiet]
  exact ⟨rfl, rfl⟩

theorem ctrl_disable (t : State) (n : Nat) (b : Bool) : bit (rd (wrf t (R.lnkCtrl n) 3 1 (b1 b)) (R.lnkCtrl n)) 3 = b := by
  rw [wrf, rd_wr_same, bit_setBits_same]
  cases b
  · rfl
  · rfl

theorem linkDisable_running (s : State) (hn : n < 18) (hr : lkRuns s n = true) :
    linkDisable s n true = linkDown (wrf s (R.lnkCtrl n) 3 1 (b1 true)) n 6 0 0 := by
  rw [linkDisable, if_neg (by omega), if_pos rfl, if_pos hr]

theorem disable_down (hc : Calm s) (hn : n < 18) (hr : lkRuns s n = true) :
    Completes (.linkDisable n true) s (fun u => (lkGet u n).st = 0 ∧ (lkGet u n).downTx = some 6 ∧ bit (rd u (R.lnkCtrl n)) 3 = true) := by
  have e := linkDisable_running (quiet s) hn hr
  have hcalm := hc.quiet.counted (counted_wrf (quiet s) (R.lnkCtrl n) 3 1 (b1 true))
  have hctrl := ctrl_disable (quiet s) n true
  generalize wrf (quiet s) (R.lnkCtrl n) 3 1 (b1 true) = w at e hcalm hctrl
  have hm := moved_linkDown w n 6 0 0
  refine completes_stk hc hn (by rw [e]; exact hcalm.linkDown ..) fun u hf => ?_
  rw [e] at hf
  have hreg : rd (downState w n 6 0 0) (R.lnkCtrl n) = rd w (R.lnkCtrl n) :=
    (counted_downErr w n 6 0).regs _ (by simp [R.lnkCtrl, R.lnkErrLog, R.lnkErrCount, R.lnkDownEvents])
  rw [lkGet_moved hf hm, downState, lkGet_lkMod_same]
  refine ⟨rfl, rfl, ?_⟩
  rw [R.lnkCtrl, rd_lnk_moved hf hm hn (by decide), ← R.lnkCtrl, hreg, hctrl]

theorem linkDisable_idle (s : State) (hn : n < 18) (hr : lkRuns s n = false) :
    linkDisable s n true = linkLeaves (lkState (lkMod (wrf s (R.lnkCtrl n) 3 1 (b1 true)) n (fun x => { x with go := false, msgs := [], txq := [] })) n 0)
      n (lkGet s n).txq := by
  rw [linkDisable, if_neg (by omega), if_pos rfl, if_neg (by rw [hr]; simp)]

theorem disable_idle (hc : Calm s) (hn : n < 18) (hr : lkRuns s n = false) :
    Completes (.linkDisable n true) s (fun u => (lkGet u n).st = 0 ∧ (lkGet u n).go = false ∧ bit (rd u (R.lnkCtrl n)) 3 = true) := by
  have hm := (moved_lkMod_lkState (wrf (quiet s) (R.lnkCtrl n) 3 1 (b1 true)) n 0 fun x => { x with go := false, msgs := [], txq := [] }).trans
    (moved_linkLeaves _ n (lkGet (quiet s) n).txq)
  have e := linkDisable_idle (quiet s) hn hr
  refine completes_stk hc hn (by rw [e]; exact hm.calm ((hc.quiet.counted (counted_wrf ..)).lkPut ..)) fun u hf => ?_
  rw [e] at hf
  rw [lkGet_moved hf hm, lkGet_lkMod_same]
  refine ⟨rfl, rfl, ?_⟩
  rw [R.lnkCtrl, rd_lnk_moved hf hm hn (by decide), ← R.lnkCtrl, rd_lkMod, ctrl_disable]

theorem enable_starts (hc : Calm s) (hn : n < 18) (h0 : (lkGet s n).st = 0) (hd : bit (rd s (R.lnkCtrl n)) 3 = true) :
    Completes (.linkDisable n false) s (fun u => lkGet u n = { lkGet s n with go := true } ∧ bit (rd u (R.lnkCtrl n)) 3 = false) := by
  have e : linkDisable (quiet s) n false = lkPut (wrf (quiet s) (R.lnkCtrl n) 3 1 (b1 false)) n { lkGet s n with go := true } := by
    rw [linkDisable, if_neg (by omega), if_neg (by simp), if_pos (by simp [h0, hd])]
    rfl
  refine completes_stk hc hn (by rw [e]; exact (hc.quiet.counted (counted_wrf ..)).lkPut ..) fun u hf => ?_
  rw [e] at hf
  refine ⟨by rw [hf.lkGet, lkGet_lkPut_same], ?_⟩
  rw [hf.rd _ (not_noteRegs_lnk hn (by decide)), rd_lkPut, ctrl_disable]

theorem retrain_down (hc : Calm s) (hn : n < 18) (h : (lkGet s n).st = 4) :
    Leads (.linkRetrain n) s (lkPut (quiet s) n { lkGet s n with go := true }) := by
  refine lead_stk hc hn ?_ (hc.quiet.lkPut ..)
  rw [linkRetrain, if_neg (by omega), lkGet_quiet, h]
  rfl

theorem retrain_failed (hc : Calm s) (hn : n < 18) (h : (lkGet s n).st = 5) :
    Leads (.linkRetrain n) s (lkPut (quiet s) n { lkGet s n with go := true, fails := 0 }) := by
  refine lead_stk hc hn ?_ (hc.quiet.lkPut ..)
  rw [linkRetrain, if_neg (by omega), lkGet_quiet, h]
  rfl

end

/-- Settles O37: each event is read off the device before its packets go on, from which those differ in queues, receive pools and counters alone
(`moved_linkDown`, `moved_trainBegin`, `moved_lkMod_lkState`). -/
theorem linkStates : Obligations.LinkStates := by
  unfold Obligations.LinkStates
  refine ⟨?running, ?others⟩
  case running =>
    intro s n hn hc hr
    have hP {u : State} {kind : Nat} (h : WentDown s u n kind 4) : (lkGet u n).st = 4 ∧ (lkGet u n).retry = [] ∧ (lkGet u n).downTx = some kind ∧
        (lkGet u n).replay = none ∧
        (bit (rd s (R.lnkCtrl n)) 0 = false → rd u (R.lnkDownEvents n) = (rd s (R.lnkDownEvents n) + 1) % 2 ^ 48) :=
      ⟨h.st, h.retry, h.sends, h.replay, h.counted⟩
    have hC {c : Instr} {kind : Nat} : Completes c s (fun u => WentDown s u n kind 4) → Completes c s _ := fun ⟨t, ht, hd⟩ => ⟨t, ht, hP hd⟩
    refine ⟨fun cause => hC (down_goesDown hc hn hr cause), fun lane hl => ?_, fun h => hC (fecLimit_goesDown hc hn hr h), hC (noSlot_goesDown hc hn hr),
      fun h3 hb => hC (drainTimeout_goesDown hc hn h3 hb), fun hu h => hC (replayTimeout_goesDown hc hn hr hu h), replayTimeout_replays hc hn hr⟩
    obtain ⟨t, ht, hd, hlane⟩ := los_goesDown hc hn hr hl
    exact ⟨t, ht, hP hd, hlane⟩
  case others =>
    intro s n hn hc
    exact ⟨fun hgo hr h1 hd hp ho => ⟨trainStart_trains hc hn hgo hr h1 hd hp ho, trainStart_refused hc hn hgo hr h1 hd hp ho⟩,
      fun r h1 hok hl => ⟨trainDone_up hc hn h1 hok hl, fun c => trainDone_refused hc hn h1 hok hl⟩, fun r h1 => trainDone_fails hc hn h1,
      retrain_drains hc hn, retrain_down hc hn, retrain_failed hc hn, drainDone_trains hc hn, disable_down hc hn, disable_idle hc hn, enable_starts hc hn⟩

end Sys2Proof.Machine

/-!
SUPPORT and proofs for the slots of a fabric link (O35): what a link sends in a data slot and in a control slot, and what a slot that it receives leaves
(R343–R354).
-/

namespace Sys2Proof.Machine

/-! Commands that change the fabric and registers alone. -/

/-- `t` is `s` but for the fabric (links, ports, packets, flows, collectives) and registers. -/
def OnFabric (s t : State) : Prop :=
  t = { s with csr := t.csr, fresh := t.fresh, links := t.links, ports := t.ports, nextPkt := t.nextPkt, sflows := t.sflows, rflows := t.rflows,
               nextFlow := t.nextFlow, colIn := t.colIn, cols := t.cols, ipfix := t.ipfix }

theorem OnFabric.refl (s : State) : OnFabric s s := rfl

theorem OnFabric.trans {s t u : State} (h : OnFabric s t) (k : OnFabric t u) : OnFabric s u := by
  unfold OnFabric at *
  rw [k, h]

theorem OnFabric.calm {s t : State} (h : OnFabric s t) (hc : Calm s) : Calm t := by
  rw [show t = _ from h]
  exact hc.of rfl rfl rfl rfl rfl rfl rfl

theorem Counted.onFabric {s t : State} {rs : List Reg} (h : Counted s t rs) : OnFabric s t := by
  unfold OnFabric
  rw [h.eq]

theorem PacketsMoved.onFabric {s t : State} (h : PacketsMoved s t) : OnFabric s t := by
  unfold OnFabric
  rw [h.eq]

theorem onFabric_lkPut (s : State) (n : Nat) (x : Link) : OnFabric s (lkPut s n x) := rfl
theorem onFabric_lkMod (s : State) (n : Nat) (f : Link → Link) : OnFabric s (lkMod s n f) := rfl
theorem onFabric_portMod (s : State) (p : Nat) (f : Port → Port) : OnFabric s (portMod s p f) := rfl
theorem onFabric_bump (s : State) (z : Bool) (r : Reg) (n w : Nat) : OnFabric s (bump s z r n w) := (counted_bump ..).onFabric

/-! The link word (R347). -/

theorem linkWord_eq (x : Link) (type seq : Nat) : ∃ a, (linkWord x type seq).1 =
    2 ^ 2 * (2 ^ 12 * (2 ^ 12 * a + (x.rxExp + 4095) % 4096) + seq % 2 ^ 12) + type := by
  refine ⟨b1 x.nak % 2 + 2 * ((x.chg.headD x.step) % 2 ^ 5) + 2 ^ 6 * (tgetD x.freed (x.chg.headD x.step) 0 % 2 ^ 12) + 2 ^ 18 * (x.step % 2 ^ 5) +
    2 ^ 23 * (tgetD x.freed x.step 0 % 2 ^ 12), ?_⟩
  simp only [linkWord, fieldAt, Nat.shiftLeft_eq]
  omega

theorem bits_linkWord (x : Link) {type : Nat} (ht : type < 4) (seq : Nat) :
    bits (linkWord x type seq).1 0 2 = type ∧ bits (linkWord x type seq).1 2 12 = seq % 4096 ∧
      bits (linkWord x type seq).1 14 12 = (x.rxExp + 4095) % 4096 := by
  obtain ⟨a, ha⟩ := linkWord_eq x type seq
  have hs : seq % 2 ^ 12 < 2 ^ 12 := Nat.mod_lt _ (by decide)
  have hr : (x.rxExp + 4095) % 4096 < 2 ^ 12 := Nat.mod_lt _ (by decide)
  rw [ha]
  refine ⟨?_, ?_, ?_⟩
  · rw [bits_add_low ht (by decide), bits_of_lt ht]
  · rw [bits_add_high ht (by decide), bits_add_low hs (by decide), bits_of_lt hs]
    rfl
  · rw [bits_add_high ht (by decide), bits_add_high hs (by decide), bits_add_low hr (by decide), bits_of_lt hr]

/-! What a data slot that leaves leaves behind. -/

section
variable {s t u v : State} {n : Nat} {q : List Instr}

theorem onFabric_dataOut (t : State) (n type seq : Nat) (f : Option Flit) : OnFabric t (dataOut t n type seq f) := by
  unfold dataOut
  dsimp only
  split
  · exact ((onFabric_lkPut ..).trans (onFabric_bump ..)).trans (onFabric_portMod ..)
  · exact onFabric_lkPut ..

theorem lkGet_dataOut (t : State) (n type seq : Nat) (f : Option Flit) (k : Nat) : lkGet (dataOut t n type seq f) k =
    if k = n then { (linkWord (lkGet t n) type seq).2 with out := some (dataOf (linkWord (lkGet t n) type seq).1 f) } else lkGet t k := by
  have h : lkGet (dataOut t n type seq f) k =
      lkGet (lkPut t n { (linkWord (lkGet t n) type seq).2 with out := some (dataOf (linkWord (lkGet t n) type seq).1 f) }) k := by
    unfold dataOut
    dsimp only
    split
    · rw [lkGet_portMod, lkGet_lkBump]
    · rfl
  rw [h]
  split
  case isTrue hk => rw [hk, lkGet_lkPut_same]
  case isFalse hk => rw [lkGet_lkPut_other _ hk]

/-- A slot leaves, and the link goes on to the next position. -/
def nextPos (t : State) (n : Nat) : State := lkMod t n (fun x => { x with pos := (x.pos + 1) % 128 })

theorem linkSlotTx_data (hn : n < 18) (hr : lkRuns s n = true) (hp : (lkGet s n).pos ∉ [0, 43, 86]) : linkSlotTx s n = nextPos (dataSlot s n) n := by
  simp only [List.mem_cons, List.not_mem_nil, or_false, not_or] at hp
  rw [linkSlotTx, if_neg (by simp [hn, hr]), if_neg (by simp [hp]), if_pos hr, nextPos]

theorem linkSlotTx_control (hn : n < 18) (hr : lkRuns s n = true ∨ (lkGet s n).st = 1 ∨ (lkGet s n).downTx.isSome = true)
    (hp : (lkGet s n).pos ∈ [0, 43, 86]) : linkSlotTx s n = nextPos (controlSlot s n) n := by
  simp only [List.mem_cons, List.not_mem_nil, or_false] at hp
  rw [linkSlotTx, if_neg (by rcases hr with h | h | h <;> simp [hn, h]), if_pos (by rcases hp with h | h | h <;> simp [h]), nextPos]

/-- A running link's data slot. -/
theorem completes_dataSlot {P : State → Prop} (hc : Calm s) (hn : n < 18) (hr : lkRuns s n = true) (hp : (lkGet s n).pos ∉ [0, 43, 86])
    (hd : dataSlot (quiet s) n = t) (hv : OnFabric (quiet s) t) (hP : ∀ u, Follows s.pending (nextPos t n) u → P u) :
    Completes (.linkSlotTx n) s P := by
  have e : linkSlotTx (quiet s) n = nextPos t n := by rw [linkSlotTx_data (s := quiet s) hn hr hp, hd]
  exact completes_act hc hn (by rw [e]; exact (hv.trans (onFabric_lkMod ..)).calm hc.quiet) fun u hf => hP u (by rw [e] at hf; exact hf)

theorem lkGet_nextPos (t : State) (n k : Nat) : lkGet (nextPos t n) k = if k = n then { lkGet t n with pos := ((lkGet t n).pos + 1) % 128 } else lkGet t k :=
  lkGet_lkMod ..

end

/-! Receive pools (R211, R358). -/

theorem rxPool_rxSet_same (x : Link) (vc : Nat) (l : List RxPkt) : rxPool (rxSet x vc l) vc = l := by
  unfold rxPool rxSet
  split
  case isTrue h => simpa [tgetD] using h
  case isFalse => simp

theorem rxPool_rxSet_other (x : Link) {vc v : Nat} (h : v ≠ vc) (l : List RxPkt) : rxPool (rxSet x vc l) v = rxPool x v := by
  unfold rxPool rxSet
  dsimp only
  split
  · exact tgetD_tdel_other _ h _
  · exact tgetD_tput_other _ h _ _

theorem rxPool_rxFree (x : Link) (vc k v : Nat) : rxPool (rxFree x vc k) v = rxPool x v := by
  unfold rxFree
  split
  · rfl
  · rfl

theorem rxPool_rxDrop (s : State) (n vc id : Nat) : rxPool (lkGet (rxDrop s n vc id) n) vc = (rxPool (lkGet s n) vc).filter (fun q => q.id ≠ id) := by
  rw [rxDrop, lkGet_lkPut_same, rxPool_rxFree, rxPool_rxSet_same]

/-! What a link sends in a data slot (R344, R353, R354). -/

section
variable {s t u v : State} {n : Nat} {q : List Instr}

/-- In a replay, the flit due is sent again. -/
theorem dataSlot_again {k : Nat} {f : RetryFlit} (hk : (lkGet s n).replay = some k)
    (hf : (unacked (lkGet s n)).find? (fun f => (f.seq + 4096 - k) % 4096 < 2048) = some f) :
    dataSlot s n = dataOut (lkPut s n { lkGet s n with replay := some ((f.seq + 1) % 4096) }) n 1 f.seq (some f.flit) := by
  unfold dataSlot
  dsimp only
  rw [hk]
  dsimp only
  rw [hf]

/-- With no packet that waits, the slot is IDLE. -/
theorem dataSlot_idle (hk : (lkGet s n).replay = none) (hf : txFree s n = []) :
    dataSlot s n = dataOut (lkPut s n { lkGet s n with replay := none }) n 0 0 none := by
  unfold dataSlot
  dsimp only
  rw [hk]
  dsimp only
  rw [hf]

/-- The one packet that may go goes. -/
theorem txShare_one (s : State) (n : Nat) (q : TxPkt) : (txShare s n [q]).1 = [q] := by
  unfold txShare
  dsimp only
  split
  · rfl
  · split
    · rfl
    case isFalse h1 h2 =>
      have hs : q.src.isSome = true := by
        by_contra h
        simp [h] at h1
      have hok : tgetD (lkGet s n).share q.vc 0 < vcWeight s q.vc := by
        by_contra h
        simp [hs, h] at h2
      have hn : q.src.isNone = false := by
        cases hq : q.src
        · simp [hq] at hs
        · rfl
      simp [hs, hok, hn]

theorem dataSlot_new {q : TxPkt} (hk : (lkGet s n).replay = none) (hq : (txFree s n).filter (fun q => credit (lkGet s n) q.vc) = [q])
    (hr : (lkGet s n).retry.length < 512) :
    ∃ sh, dataSlot s n = sendNew (lkPut s n { lkGet s n with replay := none, share := sh }) n q := by
  obtain ⟨p, r, hp⟩ : ∃ p r, txFree s n = p :: r := by
    cases h : txFree s n with
    | nil => simp [h] at hq
    | cons p r => exact ⟨p, r, rfl⟩
  refine ⟨(txShare s n [q]).2, ?_⟩
  unfold dataSlot
  dsimp only
  rw [hk]
  dsimp only
  rw [hp]
  dsimp only
  rw [← hp, hq, if_neg (by omega)]
  dsimp only
  rw [txShare_one]
  dsimp only
  rw [lkMod_lkPut]

/-- The link with a new flit in its retry buffer. -/
def flitSent (x : Link) (q : TxPkt) (f : Flit) (r : List Flit) : Link :=
  { x with retry := x.retry ++ [⟨x.txSeq, q.id, f, false⟩], txSeq := (x.txSeq + 1) % 4096,
           sent := tput x.sent q.vc ((tgetD x.sent q.vc 0 + 1) % 4096),
           share := if q.src.isSome then tput x.share q.vc (tgetD x.share q.vc 0 + 1) else x.share,
           txq := if q.whole && r.isEmpty then x.txq.filter (fun t => t.id ≠ q.id)
                  else x.txq.map (fun t => if t.id = q.id then { t with flits := r, begun := true, seen := true } else t) }

/-- The slot of a new flit has left, before its packet's receive pool is told. -/
def flitOut (s : State) (n : Nat) (q : TxPkt) (f0 : Flit) (r : List Flit) : State :=
  dataOut (lkPut s n (flitSent (lkGet s n) q (onVc q.vc f0) r)) n 1 (lkGet s n).txSeq (some (onVc q.vc f0))

theorem histBin_lt (lat : Nat) : histBin lat < 32 := by
  have := List.length_filter_le (fun i => let k := i + 1; 2 ^ (5 + (k + 1) / 2) * (2 + (k + 1) % 2) / 2 ≤ lat) (List.range 31)
  rw [List.length_range] at this
  exact Nat.lt_succ_of_le this

theorem moved_histCount (s t : State) (n t0 : Nat) : PacketsMoved t (histCount t (lkPort s n) t0) := by
  refine moved_bump t ?_ _ _ _
  have h1 := lkPort_lt s n
  have h2 := histBin_lt (telNow t - t0)
  simp only [TrafficReg, R.telHistHB, blkBase]
  omega

/-- A packet whose flit has left: its transit is measured, and with its last flit it leaves its receive pool (R211, R481). -/
theorem sendNew_eq {q : TxPkt} {f0 : Flit} {r : List Flit} (hq : q.flits = f0 :: r) :
    (q.src = none → sendNew s n q = flitOut s n q f0 r) ∧
      ∀ l v, q.src = some (l, v) → ∃ t, PacketsMoved (flitOut s n q f0 r) t ∧
        sendNew s n q = if q.whole && r.isEmpty then rxDrop t l v q.id else t := by
  refine ⟨fun hs => ?_, fun l v hs => ?_⟩
  · unfold sendNew
    rw [hq, hs]
    dsimp only
    rw [flitOut, flitSent, hs]
  · have hm (t : State) : PacketsMoved t (fabBump (if q.seen then t else match (rxPool (lkGet t l) v).find? (fun r => r.id = q.id) with
        | some r => histCount t (lkPort s n) r.t0
        | none => t) R.fabTransitFlits 1) := by
      refine .trans ?_ (moved_fabBump _ 0x108 (by decide) 1)
      split
      · exact .refl t
      · split
        · exact moved_histCount ..
        · exact .refl t
    refine ⟨_, hm _, ?_⟩
    unfold sendNew
    rw [hq, hs]
    dsimp only
    rw [flitOut, flitSent, hs] <;> rfl

theorem moved_sendNew {q : TxPkt} {f0 : Flit} {r : List Flit} (hq : q.flits = f0 :: r) : PacketsMoved (flitOut s n q f0 r) (sendNew s n q) := by
  obtain ⟨hown, htransit⟩ := sendNew_eq (s := s) (n := n) hq
  cases hs : q.src with
  | none => exact .of_eq (hown hs).symm
  | some e =>
    obtain ⟨t, hm, he⟩ := htransit e.1 e.2 hs
    rw [he]
    split
    · exact hm.trans (moved_rxDrop ..)
    · exact hm

theorem slotTx_again (hc : Calm s) (hn : n < 18) (hr : lkRuns s n = true) (hp : (lkGet s n).pos ∉ [0, 43, 86]) {k : Nat} {f : RetryFlit}
    (hk : (lkGet s n).replay = some k) (hf : (unacked (lkGet s n)).find? (fun f => (f.seq + 4096 - k) % 4096 < 2048) = some f) (hs : f.seq < 4096) :
    Completes (.linkSlotTx n) s (fun u => (lkGet u n).pos = ((lkGet s n).pos + 1) % 128 ∧ (lkGet u n).replay = some ((f.seq + 1) % 4096) ∧
      (lkGet u n).retry = (lkGet s n).retry ∧ (lkGet u n).txSeq = (lkGet s n).txSeq ∧ (∀ k, k ≠ n → lkGet u k = lkGet s k) ∧
      ∃ w, (lkGet u n).out = some (dataOf w (some f.flit)) ∧ bits w 0 2 = 1 ∧ bits w 2 12 = f.seq) := by
  refine completes_dataSlot hc hn hr hp (dataSlot_again (s := quiet s) hk hf) ((onFabric_lkPut ..).trans (onFabric_dataOut ..)) fun u hu => ?_
  obtain ⟨h1, h2, -⟩ := bits_linkWord { lkGet s n with replay := some ((f.seq + 1) % 4096) } (type := 1) (by decide) f.seq
  have hl := hu.lkGet n
  rw [lkGet_nextPos, if_pos rfl, lkGet_dataOut, if_pos rfl, lkGet_lkPut_same] at hl
  rw [hl]
  refine ⟨rfl, rfl, rfl, rfl, fun k hk => ?_, _, rfl, h1, h2.trans (Nat.mod_eq_of_lt hs)⟩
  rw [hu.lkGet, lkGet_nextPos, if_neg hk, lkGet_dataOut, if_neg hk, lkGet_lkPut_other _ hk, lkGet_quiet]

theorem slotTx_idle (hc : Calm s) (hn : n < 18) (hr : lkRuns s n = true) (hp : (lkGet s n).pos ∉ [0, 43, 86]) (hk : (lkGet s n).replay = none)
    (hf : txFree s n = []) :
    Completes (.linkSlotTx n) s (fun u => (lkGet u n).pos = ((lkGet s n).pos + 1) % 128 ∧ (lkGet u n).retry = (lkGet s n).retry ∧
      (lkGet u n).txSeq = (lkGet s n).txSeq ∧ (∀ k, k ≠ n → lkGet u k = lkGet s k) ∧
      ∃ w, (lkGet u n).out = some (dataOf w none) ∧ bits w 0 2 = 0) := by
  refine completes_dataSlot hc hn hr hp (dataSlot_idle (s := quiet s) hk hf) ((onFabric_lkPut ..).trans (onFabric_dataOut ..)) fun u hu => ?_
  obtain ⟨h1, -, -⟩ := bits_linkWord { lkGet s n with replay := none } (type := 0) (by decide) 0
  have hl := hu.lkGet n
  rw [lkGet_nextPos, if_pos rfl, lkGet_dataOut, if_pos rfl, lkGet_lkPut_same] at hl
  rw [hl]
  refine ⟨rfl, rfl, rfl, fun k hk => ?_, _, rfl, h1⟩
  rw [hu.lkGet, lkGet_nextPos, if_neg hk, lkGet_dataOut, if_neg hk, lkGet_lkPut_other _ hk, lkGet_quiet]

theorem slotTx_new (hc : Calm s) (hn : n < 18) (hr : lkRuns s n = true) (hp : (lkGet s n).pos ∉ [0, 43, 86]) {q : TxPkt} {f : Flit} {r : List Flit}
    (hk : (lkGet s n).replay = none) (hq : (txFree s n).filter (fun q => credit (lkGet s n) q.vc) = [q]) (hfl : q.flits = f :: r)
    (hb : (lkGet s n).retry.length < 512) (hs : (lkGet s n).txSeq < 4096) :
    Completes (.linkSlotTx n) s (fun u => (lkGet u n).pos = ((lkGet s n).pos + 1) % 128 ∧ (lkGet u n).txSeq = ((lkGet s n).txSeq + 1) % 4096 ∧
      (lkGet u n).retry = (lkGet s n).retry ++ [⟨(lkGet s n).txSeq, q.id, onVc q.vc f, false⟩] ∧ (q.src = none → ∀ k, k ≠ n → lkGet u k = lkGet s k) ∧
      (∀ l v, q.src = some (l, v) → q.whole = true → r = [] → ∀ p ∈ rxPool (lkGet u l) v, p.id ≠ q.id) ∧
      ∃ w, (lkGet u n).out = some (dataOf w (some (onVc q.vc f))) ∧ bits w 0 2 = 1 ∧ bits w 2 12 = (lkGet s n).txSeq ∧
        bits w 14 12 = ((lkGet s n).rxExp + 4095) % 4096) := by
  obtain ⟨sh, e⟩ := dataSlot_new (s := quiet s) hk hq hb
  set x : Link := { lkGet (quiet s) n with replay := none, share := sh } with hx
  have hm := moved_sendNew (s := lkPut (quiet s) n x) (n := n) hfl
  have hout : OnFabric (quiet s) (flitOut (lkPut (quiet s) n x) n q f r) :=
    ((onFabric_lkPut ..).trans (onFabric_lkPut ..)).trans (onFabric_dataOut ..)
  refine completes_dataSlot hc hn hr hp e (hout.trans hm.onFabric) fun u hu => ?_
  obtain ⟨h1, h2, h3⟩ := bits_linkWord (flitSent x q (onVc q.vc f) r) (type := 1) (by decide) x.txSeq
  have hsend (k : Nat) : lkGet (flitOut (lkPut (quiet s) n x) n q f r) k = if k = n then
      { (linkWord (flitSent x q (onVc q.vc f) r) 1 x.txSeq).2 with
        out := some (dataOf (linkWord (flitSent x q (onVc q.vc f) r) 1 x.txSeq).1 (some (onVc q.vc f))) } else lkGet s k := by
    rw [flitOut, lkGet_dataOut, lkPut_lkPut, lkGet_lkPut_same, lkGet_lkPut_same]
    split
    · rfl
    case isFalse hk => rw [lkGet_lkPut_other _ hk, lkGet_quiet]
  have hl := hu.lkGet n
  rw [lkGet_nextPos, if_pos rfl, hm.link n, hsend, if_pos rfl] at hl
  have hother {k : Nat} (hk : k ≠ n) : lkGet u k = lkGet (sendNew (lkPut (quiet s) n x) n q) k := by
    rw [hu.lkGet, lkGet_nextPos, if_neg hk]
  refine ⟨by rw [hl]; rfl, by rw [hl]; rfl, by rw [hl]; rfl, fun hsrc k hk => ?_, fun l v hsrc hw hr0 p hpm => ?_, _, by rw [hl]; rfl, h1,
    h2.trans (Nat.mod_eq_of_lt hs), h3⟩
  · rw [hother hk, (sendNew_eq hfl).1 hsrc, hsend, if_neg hk]
  · obtain ⟨t, -, he⟩ := (sendNew_eq (s := lkPut (quiet s) n x) (n := n) hfl).2 l v hsrc
    rw [if_pos (by simp [hw, hr0])] at he
    have hpool : rxPool (lkGet u l) v = (rxPool (lkGet t l) v).filter (fun p => p.id ≠ q.id) := by
      rw [← rxPool_rxDrop, ← he, hu.lkGet, lkGet_nextPos]
      split
      case isTrue h => rw [h]; rfl
      case isFalse => rfl
    rw [hpool] at hpm
    simpa using (List.mem_filter.1 hpm).2

end

section
variable {s t u v : State} {n : Nat} {q : List Instr}

/-! Control slots (R351). -/

theorem controlSlot_down {c : Nat} (hd : (lkGet s n).downTx = some c) :
    controlSlot s n = lkPut s n { lkGet s n with out := some (controlOf (lkGet s n).pos 4 c) } := by
  unfold controlSlot
  dsimp only
  split
  case h_1 d h => cases hd.symm.trans h; rfl
  case h_2 h => cases hd.symm.trans h

theorem controlSlot_message {m : Nat × Nat} {r : List (Nat × Nat)} (hd : (lkGet s n).downTx = none) (hm : (lkGet s n).msgs = m :: r) :
    controlSlot s n = lkPut s n { lkGet s n with msgs := r, out := some (controlOf (lkGet s n).pos m.1 m.2) } := by
  unfold controlSlot
  dsimp only
  split
  case h_1 h => cases hd.symm.trans h
  case h_2 =>
    split
    case h_1 h => cases hm.symm.trans h; rfl
    case h_2 h => cases hm.symm.trans h

theorem controlSlot_none (hd : (lkGet s n).downTx = none) (hm : (lkGet s n).msgs = []) (he : (lkGet s n).echoes = []) :
    controlSlot s n = lkPut s n { lkGet s n with
      out := some (if (lkGet s n).st = 1 then controlOf (lkGet s n).pos 2 (telNow s) else controlOf (lkGet s n).pos 0 0) } := by
  unfold controlSlot
  dsimp only
  split
  case h_1 h => cases hd.symm.trans h
  case h_2 =>
    split
    case h_1 h => cases hm.symm.trans h
    case h_2 =>
      split
      case h_1 h => cases he.symm.trans h
      case h_2 => rfl

/-- A control slot that leaves by giving its link a new value. -/
theorem leads_control (hc : Calm s) (hn : n < 18) (hr : lkRuns s n = true ∨ (lkGet s n).st = 1 ∨ (lkGet s n).downTx.isSome = true)
    (hp : (lkGet s n).pos ∈ [0, 43, 86]) {x : Link} (e : controlSlot (quiet s) n = lkPut (quiet s) n x) :
    Leads (.linkSlotTx n) s (lkPut (quiet s) n { x with pos := (x.pos + 1) % 128 }) := by
  refine lead_act hc hn ?_ (hc.quiet.lkPut ..)
  rw [linkSlotTx_control (s := quiet s) hn hr hp, e, nextPos, lkMod_lkPut]

theorem slotTx_down (hc : Calm s) (hn : n < 18) (hp : (lkGet s n).pos ∈ [0, 43, 86]) {c : Nat} (hd : (lkGet s n).downTx = some c) :
    Leads (.linkSlotTx n) s (lkPut (quiet s) n
      { lkGet s n with out := some (controlOf (lkGet s n).pos 4 c), pos := ((lkGet s n).pos + 1) % 128 }) :=
  leads_control (x := { lkGet s n with out := some (controlOf (lkGet s n).pos 4 c) }) hc hn (.inr (.inr (by simp [hd]))) hp
    (controlSlot_down (s := quiet s) hd)

theorem slotTx_message (hc : Calm s) (hn : n < 18) (hp : (lkGet s n).pos ∈ [0, 43, 86]) {m : Nat × Nat} {r : List (Nat × Nat)}
    (hr : lkRuns s n = true ∨ (lkGet s n).st = 1) (hd : (lkGet s n).downTx = none) (hm : (lkGet s n).msgs = m :: r) :
    Leads (.linkSlotTx n) s (lkPut (quiet s) n
      { lkGet s n with msgs := r, out := some (controlOf (lkGet s n).pos m.1 m.2), pos := ((lkGet s n).pos + 1) % 128 }) :=
  leads_control (x := { lkGet s n with msgs := r, out := some (controlOf (lkGet s n).pos m.1 m.2) }) hc hn (hr.imp_right .inl) hp
    (controlSlot_message (s := quiet s) hd hm)

theorem lkRuns_iff : lkRuns s n = true ↔ (lkGet s n).st = 2 ∨ (lkGet s n).st = 3 := by simp [lkRuns]

theorem slotTx_none (hc : Calm s) (hn : n < 18) (hp : (lkGet s n).pos ∈ [0, 43, 86]) (hr : lkRuns s n = true) (hd : (lkGet s n).downTx = none)
    (hm : (lkGet s n).msgs = []) (he : (lkGet s n).echoes = []) :
    Leads (.linkSlotTx n) s (lkPut (quiet s) n
      { lkGet s n with out := some (controlOf (lkGet s n).pos 0 0), pos := ((lkGet s n).pos + 1) % 128 }) := by
  have h1 : (lkGet s n).st ≠ 1 := by
    have := lkRuns_iff.1 hr
    omega
  exact leads_control (x := { lkGet s n with out := some (controlOf (lkGet s n).pos 0 0) }) hc hn (.inl hr) hp
    ((controlSlot_none (s := quiet s) hd hm he).trans (by rw [if_neg (show ¬ (lkGet (quiet s) n).st = 1 from h1)]; rfl))

/-! Slots received (R348, R350, R353). -/

/-- A slot that does not decode, or with more symbols to correct than the code can. -/
theorem slotRx_garbled (hc : Calm s) (hn : n < 18) (hr : lkRuns s n = true) {k : SlotRx} (hk : k.decodes = false ∨ 4 < k.corrected) :
    Completes (.linkDataSlotRx n k) s (fun u =>
      lkGet u n = { lkGet s n with nak := true, cw := (lkGet s n).cw.filter (fun t => s.now < t + 440000000) ++ [s.now] } ∧
      SameRegs s u [R.telFecNB n 5, R.lnkFecUncorr n] ∧
      (bit (rd s (R.lnkCtrl n)) 0 = false → rd u (R.lnkFecUncorr n) = (rd s (R.lnkFecUncorr n) + 1) % 2 ^ 48)) := by
  have h1 : Counted (quiet s) (telBump (quiet s) (R.telFecNB n 5) 1) [R.telFecNB n 5] := counted_bump ..
  have h2 : Counted (quiet s) (lkBump (telBump (quiet s) (R.telFecNB n 5) 1) n (R.lnkFecUncorr n) 1) [R.telFecNB n 5, R.lnkFecUncorr n] :=
    (h1.mono (by simp)).trans ((counted_bump ..).mono (by simp))
  have hnow : (telBump (quiet s) (R.telFecNB n 5) 1).now = s.now := by rw [h1.eq]; rfl
  have e : linkDataSlotRx (quiet s) n k = lkPut (lkBump (telBump (quiet s) (R.telFecNB n 5) 1) n (R.lnkFecUncorr n) 1) n
      { lkGet s n with nak := true, cw := (lkGet s n).cw.filter (fun t => s.now < t + 440000000) ++ [s.now] } := by
    rw [linkDataSlotRx, if_neg (by simp [hn, show lkRuns (quiet s) n = true from hr])]
    refine (if_pos (by rcases hk with h | h <;> simp [h])).trans ?_
    dsimp only
    rw [cwBad, lkMod_lkMod, hnow, lkMod, h2.lkGet, lkGet_quiet]
  refine completes_act hc hn (by rw [e]; exact (h2.calm hc.quiet).lkPut ..) fun u hf => ?_
  rw [e] at hf
  obtain ⟨hl, -, hs⟩ := hf.lkPut_counted h2
  refine ⟨hl, hs, fun hz => ?_⟩
  have hne : ∀ a < 0x10000, blkBase .lnk n + a ∉ [R.telFecNB n 5].map Reg.addr := by
    intro a ha
    simp only [List.map_cons, List.map_nil, List.mem_singleton, R.telFecNB, blkBase]
    omega
  rw [hf.rd _ (not_noteRegs_lnk hn (by decide)), rd_lkPut, rd_lkBump_same (by rw [h1.regs _ (hne 8 (by decide))]; exact hz),
    h1.regs _ (hne 0x120 (by decide))]
  rfl

/-- A slot that decodes: its codeword is counted, and an injection fires. -/
def slotCounted (s : State) (n : Nat) (k : SlotRx) : State :=
  if bits k.linkWord.toNat 0 2 = 1 && injKind s 0x20 n = some 5 then injFired (cwGood s n k.corrected) else cwGood s n k.corrected

theorem counted_slotCounted (s : State) (n : Nat) {k : SlotRx} (hk : k.corrected ≤ 4) : Counted s (slotCounted s n k) (R.errInject :: fecRegs n) := by
  have h := (counted_cwGood s n (Nat.lt_succ_of_le hk)).mono (qs := R.errInject :: fecRegs n) fun _ => List.mem_cons_of_mem _
  unfold slotCounted
  split
  · exact h.trans ((counted_wr ..).mono (by simp))
  · exact h

/-- What a decoded slot leads to (R348, R350, R353). -/
theorem linkDataSlotRx_eq (hn : n < 18) (hr : lkRuns s n = true) {k : SlotRx} (hd : k.decodes = true) (hk : k.corrected ≤ 4) :
    linkDataSlotRx s n k =
      if !k.crcOk || (bits k.linkWord.toNat 0 2 = 1 && injKind s 0x20 n = some 5) then
        lkMod (lkBump (slotCounted s n k) n (R.lnkCrcErr n) 1) n (fun x => { x with nak := true })
      else
        let s3 := wordApply (slotCounted s n k) n k.linkWord.toNat
        if bits k.linkWord.toNat 0 2 ≠ 1 || !lkRuns s3 n then s3
        else if bits k.linkWord.toNat 2 12 ≠ (lkGet s3 n).rxExp then lkMod s3 n (fun x => { x with nak := true })
        else
          let f : Flit := ⟨k.header.toNat, k.body⟩
          let s4 := lkMod (lkBump s3 n (R.lnkRxFlits n) 1) n (fun x => { x with rxExp := (x.rxExp + 1) % 4096, nak := false })
          if flitOk (lkGet s4 n) f then flitTake s4 n f else flitBad s4 n f := by
  rw [linkDataSlotRx, if_neg (by simp [hn, hr])]
  exact if_neg (by simp [hd, hk])

theorem slotRx_badCrc (hc : Calm s) (hn : n < 18) (hr : lkRuns s n = true) {k : SlotRx} (hd : k.decodes = true) (hk : k.corrected ≤ 4)
    (hcrc : k.crcOk = false) :
    Completes (.linkDataSlotRx n k) s (fun u => (lkGet u n).nak = true ∧ (lkGet u n).rx = (lkGet s n).rx ∧ (lkGet u n).rxExp = (lkGet s n).rxExp ∧
      (bit (rd s (R.lnkCtrl n)) 0 = false → rd u (R.lnkCrcErr n) = (rd s (R.lnkCrcErr n) + 1) % 2 ^ 48)) := by
  have h1 := counted_slotCounted (quiet s) n hk
  have h2 : Counted (quiet s) (lkBump (slotCounted (quiet s) n k) n (R.lnkCrcErr n) 1) (R.lnkCrcErr n :: R.errInject :: fecRegs n) :=
    (h1.mono fun _ => List.mem_cons_of_mem _).trans ((counted_bump ..).mono (by simp))
  have e : linkDataSlotRx (quiet s) n k = lkPut (lkBump (slotCounted (quiet s) n k) n (R.lnkCrcErr n) 1) n { lkGet s n with nak := true } := by
    rw [linkDataSlotRx_eq (s := quiet s) hn hr hd hk, if_pos (by simp [hcrc]), lkMod, h2.lkGet, lkGet_quiet]
  refine completes_act hc hn (by rw [e]; exact (h2.calm hc.quiet).lkPut ..) fun u hf => ?_
  rw [e] at hf
  rw [(hf.lkPut_counted h2).1]
  refine ⟨rfl, rfl, rfl, fun hz => ?_⟩
  have hne {a : Nat} (ha : a < 0x10000) (h1 : a ≠ 0x110) (h2 : a ≠ 0x118) : blkBase .lnk n + a ∉ (R.errInject :: fecRegs n).map Reg.addr := by
    rw [List.map_cons, List.mem_cons, not_or]
    refine ⟨by simp only [R.errInject, blkBase]; omega, fun hm => ?_⟩
    have := fecRegs_addr hn hm
    simp only [blkBase] at this
    omega
  rw [hf.rd _ (not_noteRegs_lnk hn (by decide)), rd_lkPut,
    rd_lkBump_same (by rw [h1.regs _ (hne (a := 8) (by decide) (by decide) (by decide))]; exact hz),
    h1.regs _ (hne (a := 0x128) (by decide) (by decide) (by decide))]
  rfl

/-- What the acknowledgement and the credits of a slot leave of a link. -/
def wordTaken (x : Link) (w : Nat) : Link :=
  let a := ackUpTo x (bits w 14 12)
  { a with cc := tput (tput a.cc (bits w 27 5) (bits w 32 12)) (bits w 44 5) (bits w 49 12) }

theorem wordApply_eq {w : Nat} (hw : bit w 26 = false) : wordApply t n w = lkPut t n (wordTaken (lkGet t n) w) := by
  rw [wordApply]
  exact if_neg (by simp [hw])

theorem ackUpTo_keeps (x : Link) (a : Nat) : (ackUpTo x a).st = x.st ∧ (ackUpTo x a).rx = x.rx ∧ (ackUpTo x a).rxExp = x.rxExp := by
  unfold ackUpTo
  dsimp only
  split
  · exact ⟨rfl, rfl, rfl⟩
  · exact ⟨rfl, rfl, rfl⟩

end

/-! A slot that is accepted (R353). -/

section
variable {s t u v : State} {n : Nat} {k : SlotRx}

/-- A sound slot of a running link without a NAK. -/
structure SoundSlot (s : State) (n : Nat) (k : SlotRx) : Prop where
  lt : n < 18
  runs : lkRuns s n = true
  decodes : k.decodes = true
  corrected : k.corrected ≤ 4
  crc : k.crcOk = true
  nak : bit k.linkWord.toNat 26 = false

/-- The device with the words of a sound slot taken. -/
def slotTaken (s : State) (n : Nat) (k : SlotRx) : State := lkPut (slotCounted s n k) n (wordTaken (lkGet s n) k.linkWord.toNat)

theorem onFabric_slotTaken (h : SoundSlot s n k) : OnFabric (quiet s) (slotTaken (quiet s) n k) :=
  (counted_slotCounted _ n h.corrected).onFabric.trans (onFabric_lkPut ..)

theorem SoundSlot.eq (h : SoundSlot s n k) (hi : bits k.linkWord.toNat 0 2 = 1 → injKind s 0x20 n ≠ some 5) :
    linkDataSlotRx (quiet s) n k =
      let s3 := slotTaken (quiet s) n k
      if bits k.linkWord.toNat 0 2 ≠ 1 then s3
      else if bits k.linkWord.toNat 2 12 ≠ (lkGet s n).rxExp then lkMod s3 n (fun x => { x with nak := true })
      else
        let f : Flit := ⟨k.header.toNat, k.body⟩
        let s4 := lkMod (lkBump s3 n (R.lnkRxFlits n) 1) n (fun x => { x with rxExp := (x.rxExp + 1) % 4096, nak := false })
        if flitOk (lkGet s4 n) f then flitTake s4 n f else flitBad s4 n f := by
  obtain ⟨hst, -, hexp⟩ := ackUpTo_keeps (lkGet s n) (bits k.linkWord.toNat 14 12)
  have h3 : wordApply (slotCounted (quiet s) n k) n k.linkWord.toNat = slotTaken (quiet s) n k := by
    rw [wordApply_eq h.nak, (counted_slotCounted _ n h.corrected).lkGet, slotTaken]
  have hx : lkGet (slotTaken (quiet s) n k) n = wordTaken (lkGet s n) k.linkWord.toNat := lkGet_lkPut_same ..
  have hr : lkRuns (slotTaken (quiet s) n k) n = true := by
    rw [lkRuns_iff, hx]
    exact hst ▸ lkRuns_iff.1 h.runs
  rw [linkDataSlotRx_eq (s := quiet s) h.lt h.runs h.decodes h.corrected, if_neg ?inj, h3]
  case inj =>
    by_cases hb : bits k.linkWord.toNat 0 2 = 1
    · have hq : decide (injKind (quiet s) 0x20 n = some 5) = false := decide_eq_false (hi hb)
      rw [h.crc, hq]
      simp
    · simp [h.crc, hb]
  simp only [hr, Bool.not_true, Bool.or_false, decide_eq_true_eq, hx]
  rw [show (wordTaken (lkGet s n) k.linkWord.toNat).rxExp = (lkGet s n).rxExp from hexp]

theorem slotRx_noFlit (hc : Calm s) (h : SoundSlot s n k) (h1 : bits k.linkWord.toNat 0 2 ≠ 1) :
    Completes (.linkDataSlotRx n k) s (fun u => lkGet u n = wordTaken (lkGet s n) k.linkWord.toNat ∧ ∀ k, k ≠ n → lkGet u k = lkGet s k) := by
  have e := (h.eq fun hb => absurd hb h1).trans (if_pos h1)
  refine completes_act hc h.lt (by rw [e]; exact (onFabric_slotTaken h).calm hc.quiet) fun u hf => ?_
  rw [e] at hf
  obtain ⟨hl, ho, -⟩ := hf.lkPut_counted (counted_slotCounted _ n h.corrected)
  exact ⟨hl, ho⟩

theorem slotRx_outOfOrder (hc : Calm s) (h : SoundSlot s n k) (h1 : bits k.linkWord.toNat 0 2 = 1) (hi : injKind s 0x20 n ≠ some 5)
    (hs : bits k.linkWord.toNat 2 12 ≠ (lkGet s n).rxExp) :
    Completes (.linkDataSlotRx n k) s (fun u => (lkGet u n).nak = true ∧ (lkGet u n).rx = (lkGet s n).rx ∧ (lkGet u n).rxExp = (lkGet s n).rxExp ∧
      (lkGet u n).retry = (ackUpTo (lkGet s n) (bits k.linkWord.toNat 14 12)).retry) := by
  obtain ⟨-, hrx, hexp⟩ := ackUpTo_keeps (lkGet s n) (bits k.linkWord.toNat 14 12)
  have e := (h.eq fun _ => hi).trans ((if_neg (not_not_intro h1)).trans (if_pos hs))
  rw [slotTaken, lkMod_lkPut] at e
  refine completes_act hc h.lt (by rw [e]; exact ((counted_slotCounted _ n h.corrected).calm hc.quiet).lkPut ..) fun u hf => ?_
  rw [e] at hf
  rw [(hf.lkPut_counted (counted_slotCounted _ n h.corrected)).1]
  exact ⟨rfl, hrx, hexp, rfl⟩

/-- The link with the flit due acknowledged. -/
def flitDue (x : Link) (w : Nat) : Link := { wordTaken x w with rxExp := ((wordTaken x w).rxExp + 1) % 4096, nak := false }

/-- The device with the flit due acknowledged, before the flit joins its packet. -/
def flitState (s : State) (n : Nat) (k : SlotRx) : State :=
  lkPut (lkBump (slotCounted s n k) n (R.lnkRxFlits n) 1) n (flitDue (lkGet s n) k.linkWord.toNat)

theorem onFabric_flitState (h : SoundSlot s n k) : OnFabric (quiet s) (flitState (quiet s) n k) :=
  ((counted_slotCounted _ n h.corrected).onFabric.trans (onFabric_bump ..)).trans (onFabric_lkPut ..)

theorem rxPool_flitDue (x : Link) (w vc : Nat) : rxPool (flitDue x w) vc = rxPool x vc := by
  unfold rxPool flitDue wordTaken
  rw [show (ackUpTo x (bits w 14 12)).rx = x.rx from (ackUpTo_keeps ..).2.1]

theorem flitOk_congr {x y : Link} (h : ∀ vc, rxPool x vc = rxPool y vc) (f : Flit) : flitOk x f = flitOk y f := by simp only [flitOk, h]

theorem flitDue_rxExp (x : Link) (w : Nat) : (flitDue x w).rxExp = (x.rxExp + 1) % 4096 := by
  rw [← show (wordTaken x w).rxExp = x.rxExp from (ackUpTo_keeps x _).2.2]
  rfl

theorem lkBump_lkPut (s : State) (n m : Nat) (x : Link) (r : Reg) (k : Nat) : lkBump (lkPut s m x) n r k = lkPut (lkBump s n r k) m x :=
  lkBump_lkMod s n m (fun _ => x) r k

theorem SoundSlot.due (h : SoundSlot s n k) (h1 : bits k.linkWord.toNat 0 2 = 1) (hi : injKind s 0x20 n ≠ some 5)
    (hs : bits k.linkWord.toNat 2 12 = (lkGet s n).rxExp) {f : Flit} (hfe : f = ⟨k.header.toNat, k.body⟩) (hok : flitOk (lkGet s n) f = true) :
    linkDataSlotRx (quiet s) n k = flitTake (flitState (quiet s) n k) n f := by
  have e4 : lkMod (lkBump (slotTaken (quiet s) n k) n (R.lnkRxFlits n) 1) n (fun x => { x with rxExp := (x.rxExp + 1) % 4096, nak := false }) =
      flitState (quiet s) n k := by rw [slotTaken, lkBump_lkPut, lkMod_lkPut, flitState, flitDue]
  subst hfe
  refine (h.eq fun _ => hi).trans ((if_neg (not_not_intro h1)).trans ((if_neg (not_not_intro hs)).trans ?_))
  rw [e4]
  refine if_pos ?_
  rw [flitState, lkGet_lkPut_same, flitOk_congr (y := lkGet (quiet s) n) fun vc => rxPool_flitDue _ _ vc]
  exact hok

theorem nextPkt_flitState (h : SoundSlot s n k) : (flitState (quiet s) n k).nextPkt = s.nextPkt ∧ telNow (flitState (quiet s) n k) = telNow s := by
  have hcnt := (counted_slotCounted (quiet s) n h.corrected).mono (qs := R.lnkRxFlits n :: R.errInject :: fecRegs n) fun _ => List.mem_cons_of_mem _
  have hb := hcnt.trans ((counted_bump _ (bit (rd (slotCounted (quiet s) n k) (R.lnkCtrl n)) 0) (R.lnkRxFlits n) 1 48).mono (by simp))
  rw [flitState, lkPut_nextPkt, telNow, lkPut_now, lkBump, hb.eq]
  exact ⟨rfl, rfl⟩

theorem slotRx_sop (hc : Calm s) (h : SoundSlot s n k) (h1 : bits k.linkWord.toNat 0 2 = 1) (hi : injKind s 0x20 n ≠ some 5)
    (hs : bits k.linkWord.toNat 2 12 = (lkGet s n).rxExp) {f : Flit} (hfe : f = ⟨k.header.toNat, k.body⟩) (hok : flitOk (lkGet s n) f = true)
    (ha : flAbort f = false) (hsop : flSop f = true) :
    Completes (.linkDataSlotRx n k) s (fun u => (lkGet u n).nak = false ∧ (lkGet u n).rxExp = ((lkGet s n).rxExp + 1) % 4096 ∧
      rxPool (lkGet u n) (bits f.hdr 0 5) = rxPool (lkGet s n) (bits f.hdr 0 5) ++ [⟨s.nextPkt, [f], 1, flEop f, .fresh, telNow s⟩] ∧
      ∀ v, v ≠ bits f.hdr 0 5 → rxPool (lkGet u n) v = rxPool (lkGet s n) v) := by
  obtain ⟨hpkt, hnow⟩ := nextPkt_flitState h
  have hx : lkGet (flitState (quiet s) n k) n = flitDue (lkGet s n) k.linkWord.toNat := lkGet_lkPut_same ..
  have e : linkDataSlotRx (quiet s) n k = lkPut { flitState (quiet s) n k with nextPkt := (flitState (quiet s) n k).nextPkt + 1 } n
      (rxSet (flitDue (lkGet s n) k.linkWord.toNat) (bits f.hdr 0 5)
        (rxPool (lkGet s n) (bits f.hdr 0 5) ++ [⟨s.nextPkt, [f], 1, flEop f, .fresh, telNow s⟩])) := by
    rw [h.due h1 hi hs hfe hok, flitTake, if_pos hsop, if_neg (by simp [ha]), hx, rxPool_flitDue, hpkt, hnow]
  have hfab : OnFabric (quiet s) { flitState (quiet s) n k with nextPkt := (flitState (quiet s) n k).nextPkt + 1 } :=
    (onFabric_flitState h).trans rfl
  refine completes_act hc h.lt (by rw [e]; exact (hfab.calm hc.quiet).lkPut ..) fun u hf => ?_
  rw [e] at hf
  rw [hf.lkGet, lkGet_lkPut_same]
  exact ⟨rfl, flitDue_rxExp .., rxPool_rxSet_same .., fun v hv => by rw [rxPool_rxSet_other _ hv, rxPool_flitDue]⟩

theorem slotRx_joins (hc : Calm s) (h : SoundSlot s n k) (h1 : bits k.linkWord.toNat 0 2 = 1) (hi : injKind s 0x20 n ≠ some 5)
    (hs : bits k.linkWord.toNat 2 12 = (lkGet s n).rxExp) {f : Flit} (hfe : f = ⟨k.header.toNat, k.body⟩) (hok : flitOk (lkGet s n) f = true)
    (ha : flAbort f = false) {q : RxPkt} (hsop : flSop f = false) (hq : (rxPool (lkGet s n) (bits f.hdr 0 5)).find? (fun q => !q.whole) = some q)
    (hway : q.way = .fresh ∨ q.way = .local_) :
    Completes (.linkDataSlotRx n k) s (fun u => (lkGet u n).nak = false ∧ (lkGet u n).rxExp = ((lkGet s n).rxExp + 1) % 4096 ∧
      rxPool (lkGet u n) (bits f.hdr 0 5) = (rxPool (lkGet s n) (bits f.hdr 0 5)).map
        (fun p => if p.id = q.id then { p with flits := p.flits ++ [f], held := p.held + 1, whole := flEop f } else p) ∧
      ∀ v, v ≠ bits f.hdr 0 5 → rxPool (lkGet u n) v = rxPool (lkGet s n) v) := by
  have hx : lkGet (flitState (quiet s) n k) n = flitDue (lkGet s n) k.linkWord.toNat := lkGet_lkPut_same ..
  have e : linkDataSlotRx (quiet s) n k = lkPut (flitState (quiet s) n k) n (rxSet (flitDue (lkGet s n) k.linkWord.toNat) (bits f.hdr 0 5)
      ((rxPool (lkGet s n) (bits f.hdr 0 5)).map
        (fun p => if p.id = q.id then { p with flits := p.flits ++ [f], held := p.held + 1, whole := flEop f } else p))) := by
    rw [h.due h1 hi hs hfe hok, flitTake, if_neg (by simp [hsop]), hx, rxPool_flitDue]
    dsimp only
    rw [hq]
    rcases hway with hw | hw
    all_goals
      simp only [hw, ha, Bool.false_eq_true, if_false]
      rw [rxMod, lkMod, hx, rxPool_flitDue]
  refine completes_act hc h.lt (by rw [e]; exact ((onFabric_flitState h).calm hc.quiet).lkPut ..) fun u hf => ?_
  rw [e] at hf
  rw [hf.lkGet, lkGet_lkPut_same]
  exact ⟨rfl, flitDue_rxExp .., rxPool_rxSet_same .., fun v hv => by rw [rxPool_rxSet_other _ hv, rxPool_flitDue]⟩

end

/-- Settles O35: what a link sends is read off `dataSlot` and `controlSlot` (`slotTx_again`, `slotTx_new`, `slotTx_idle`, `leads_control`), what it
receives off the slot's words (`SoundSlot.eq`) and, when the flit is due, off `flitTake` (`SoundSlot.due`). -/
theorem slotsExchanged : Obligations.SlotsExchanged := by
  unfold Obligations.SlotsExchanged
  intro s n hn hc
  refine ⟨fun hr hp => ⟨?again, ?new, ?idle⟩, fun hp => ⟨?down, ?message, ?none⟩, ?garbled, ?crc, ?sound⟩
  case again => exact fun k f hk hf hs => slotTx_again hc hn hr hp hk hf hs
  case new => exact fun q f r hk hq hf hb hs => slotTx_new hc hn hr hp hk hq hf hb hs
  case idle => exact slotTx_idle hc hn hr hp
  case down => exact fun c => slotTx_down hc hn hp
  case message => exact fun m r hr => slotTx_message hc hn hp hr
  case none => exact slotTx_none hc hn hp
  case garbled => exact fun k hr => slotRx_garbled hc hn hr
  case crc => exact fun k hr => slotRx_badCrc hc hn hr
  case sound =>
    intro k hr hd hk hcrc hnak
    have h : SoundSlot s n k := ⟨hn, hr, hd, hk, hcrc, hnak⟩
    exact ⟨slotRx_noFlit hc h, fun h1 hi => ⟨slotRx_outOfOrder hc h h1 hi, fun hs hok ha =>
      ⟨slotRx_sop hc h h1 hi hs rfl hok ha, fun q hsop => slotRx_joins hc h h1 hi hs rfl hok ha hsop⟩⟩⟩

end Sys2Proof.Machine

/-!
SUPPORT and proofs for packets of the fabric (O38): routing on arrival and the escape network (R379, R380, R382).
-/

namespace Sys2Proof.Machine

/-! The fabric's counters, and a receive pool after an update. -/

theorem rd_fabBump_same {s : State} (h : bit (rd s R.fabCtrl) 0 = false) (r : Reg) (k : Nat) :
    rd (fabBump s r k) r = (rd s r + k) % 2 ^ 48 := by rw [fabBump, rd_bump_same, h]; rfl

@[simp] theorem lkGet_fabBump (s : State) (r : Reg) (k m : Nat) : lkGet (fabBump s r k) m = lkGet s m := lkGet_bump ..
@[simp] theorem lkGet_fabErr (s : State) (kind port dev vc slice m : Nat) : lkGet (fabErr s kind port dev vc slice) m = lkGet s m := lkGet_logErr ..

/-- The counter of a drop (R379). -/
def dropReg (why : Nat) : Reg := if why = 1 then R.fabVcMismatch else if why = 2 then R.fabTtlDrop else R.fabNoRoute

theorem dropCount_eq (s : State) (why port vc : Nat) (h : List Byte) :
    dropCount s why port vc h = fabErr (fabBump s (dropReg why) 1) why port (phSrc h) vc (phSlice h) := by
  unfold dropCount dropReg
  dsimp only
  split
  · rfl
  · split
    · rfl
    · rfl

@[simp] theorem lkGet_dropCount (s : State) (why port vc : Nat) (h : List Byte) (m : Nat) : lkGet (dropCount s why port vc h) m = lkGet s m := by
  rw [dropCount_eq, lkGet_fabErr, lkGet_fabBump]

theorem dropReg_cases (why : Nat) : dropReg why = R.fabVcMismatch ∨ dropReg why = R.fabTtlDrop ∨ dropReg why = R.fabNoRoute := by
  unfold dropReg
  split
  · exact .inl rfl
  · split
    · exact .inr (.inl rfl)
    · exact .inr (.inr rfl)

theorem rd_fabErr_other {s : State} {q : Reg} (h1 : q.addr ≠ R.fabErrLog.addr) (h2 : q.addr ≠ R.fabErrCount.addr) (kind port dev vc slice : Nat) :
    rd (fabErr s kind port dev vc slice) q = rd s q := rd_logErr_other s h1 h2 _

theorem rd_dropCount {s : State} (hz : bit (rd s R.fabCtrl) 0 = false) (why port vc : Nat) (h : List Byte) :
    rd (dropCount s why port vc h) (dropReg why) = (rd s (dropReg why) + 1) % 2 ^ 48 := by
  have hne : (dropReg why).addr ≠ R.fabErrLog.addr ∧ (dropReg why).addr ≠ R.fabErrCount.addr := by
    rcases dropReg_cases why with h | h | h <;> rw [h] <;> decide
  rw [dropCount_eq, rd_fabErr_other hne.1 hne.2, rd_fabBump_same hz]

section
variable {s : State} {n vc id : Nat}

theorem rd_rxMod (s : State) (n vc id : Nat) (f : RxPkt → RxPkt) (r : Reg) : rd (rxMod s n vc id f) r = rd s r := rfl

theorem rd_rxVoid (s : State) (n vc id : Nat) (r : Reg) : rd (rxVoid s n vc id) r = rd s r := by
  unfold rxVoid
  split
  · rfl
  · split
    · rfl
    · rfl

theorem rxPool_rxMod (s : State) (n vc id : Nat) (f : RxPkt → RxPkt) :
    rxPool (lkGet (rxMod s n vc id f) n) vc = (rxPool (lkGet s n) vc).map (fun q => if q.id = id then f q else q) := by
  rw [rxMod, lkGet_lkMod_same, rxPool_rxSet_same]

/-- A whole packet that is void leaves its pool (R211). -/
theorem rxPool_rxVoid {q : RxPkt} (hq : (rxPool (lkGet s n) vc).find? (fun p => p.id = id) = some q) (hw : q.whole = true) :
    ∀ p ∈ rxPool (lkGet (rxVoid s n vc id) n) vc, p.id ≠ id := by
  intro p hp
  have e : rxVoid s n vc id = rxDrop s n vc id := by
    unfold rxVoid
    rw [hq]
    exact if_pos hw
  rw [e, rxPool_rxDrop] at hp
  simpa using (List.mem_filter.1 hp).2

/-! The queues of links, which decide where a packet goes, do not depend on receive pools or counters. -/

theorem portLive_congr {s t : State} {p : Nat} (hr : rd t (R.lnkPortCfgP p) = rd s (R.lnkPortCfgP p)) (hst : ∀ m, (lkGet t m).st = (lkGet s m).st) :
    portLive t p = portLive s p := by
  unfold portLive
  rw [portLinks_congr hr]
  exact List.filter_congr fun m _ => by rw [hst]

theorem pickLink_congr {s t : State} (l : List Nat) (h : ∀ m, (lkGet t m).txq = (lkGet s m).txq) : pickLink t l = pickLink s l := by
  unfold pickLink
  have hw (m : Nat) : txWaiting (lkGet t m) = txWaiting (lkGet s m) := by simp only [txWaiting, h]
  simp only [hw]

end

/-- A packet joins the queue of the link that its port picks, and is sampled only while the port is congested (R361, R484). -/
theorem portSend_calmPort {s : State} {p l : Nat} {h : List Byte} {q : TxPkt} (hl : pickLink s (portLive s p) = some l)
    (hz : (portGet s p).cong = false) : portSend s p h q = lkMod s l (fun x => { x with txq := x.txq ++ [q] }) := by
  have ht : txPut s p q = lkMod s l (fun x => { x with txq := x.txq ++ [q] }) := by
    unfold txPut
    rw [hl]
  unfold portSend
  dsimp only
  rw [ht]
  exact if_neg (by simp [show (portGet (lkMod s l fun x => { x with txq := x.txq ++ [q] }) p).cong = false from hz])

/-! Routing on arrival (R379). -/

section
variable {s u : State} {n vc : Nat} {q : RxPkt}

/-- The oldest packet of a pool that is not yet routed, on a device with no injection armed there. -/
structure ToRoute (s : State) (n vc : Nat) (q : RxPkt) : Prop where
  lt : n < 18
  oldest : (rxPool (lkGet s n) vc).find? (fun q => q.way = .fresh) = some q
  itself : (rxPool (lkGet s n) vc).find? (fun p => p.id = q.id) = some q
  inj : injKind s 16 (linkSlice n) = none

theorem Counted.ports {s t : State} {rs : List Reg} (h : Counted s t rs) : t.ports = s.ports := by rw [h.eq]

/-- The header of a packet with one hop less. -/
def hopped (h : List Byte) : List Byte := setByte h 9 (phHops h - 1)

theorem ToRoute.eq (h : ToRoute s n vc q) : packetRoute (quiet s) n vc =
    if phHops (pktHdr q.flits) = 0 then rxVoid (dropCount (quiet s) 2 (lkPort s n) vc (pktHdr q.flits)) n vc q.id
    else if phDst (pktHdr q.flits) = ownDev s || (vc = 31 && phDst (pktHdr q.flits) = 65535) then
      rxMod (quiet s) n vc q.id (fun q' => { q' with flits := rehead (hopped (pktHdr q.flits)) q'.flits, way := .local_ })
    else
      match routeOf s (some (lkPort s n)) vc (hopped (pktHdr q.flits)) with
      | .drop w => rxVoid (dropCount (quiet s) w (lkPort s n) vc (pktHdr q.flits)) n vc q.id
      | .out p vc' h' alt =>
        match pickLink s (portLive s p) with
        | none => rxVoid (dropCount (quiet s) 3 (lkPort s n) vc (pktHdr q.flits)) n vc q.id
        | some l =>
          portSend (rxMod (fabBump (if alt then fabBump (quiet s) R.fabAltRouted 1 else quiet s) R.fabTransitPkts 1) n vc q.id
            (fun q' => { q' with flits := rehead h' q'.flits, way := .transit p l })) p h'
            ⟨q.id, vc', rehead h' q.flits, q.whole, some (n, vc), false, phDst h', none, false⟩ := by
  have hi : chmInject (quiet s) (linkSlice n) none = (false, quiet s) := chmInject_none (s := quiet s) h.inj none
  unfold packetRoute
  rw [lkGet_quiet, h.oldest]
  dsimp only
  rw [hi]
  rfl

/-- A packet that is dropped: it is counted, and leaves its pool when it is whole. -/
theorem ToRoute.dropped (h : ToRoute s n vc q) (hc : Calm s) {w : Nat}
    (e : packetRoute (quiet s) n vc = rxVoid (dropCount (quiet s) w (lkPort s n) vc (pktHdr q.flits)) n vc q.id) :
    Completes (.packetRoute n vc) s (fun u => (q.whole = true → ∀ p ∈ rxPool (lkGet u n) vc, p.id ≠ q.id) ∧
      (bit (rd s R.fabCtrl) 0 = false → rd u (dropReg w) = (rd s (dropReg w) + 1) % 2 ^ 48)) := by
  refine completes_act hc h.lt (by rw [e]; exact ((moved_dropCount ..).trans (moved_rxVoid ..)).calm hc.quiet) fun u hf => ?_
  rw [e] at hf
  refine ⟨fun hw => ?_, fun hz => ?_⟩
  · rw [hf.lkGet]
    exact rxPool_rxVoid (by rw [lkGet_dropCount, lkGet_quiet]; exact h.itself) hw
  · have hn : (dropReg w).addr ∉ noteRegs := by
      rcases dropReg_cases w with h | h | h <;> rw [h] <;> decide
    rw [hf.rd _ hn, rd_rxVoid, rd_dropCount (s := quiet s) hz]
    rfl

theorem ToRoute.local_ (h : ToRoute s n vc q) (hc : Calm s) (h0 : phHops (pktHdr q.flits) ≠ 0)
    (hd : phDst (pktHdr q.flits) = ownDev s ∨ (vc = 31 ∧ phDst (pktHdr q.flits) = 65535)) :
    Completes (.packetRoute n vc) s (fun u => rxPool (lkGet u n) vc = (rxPool (lkGet s n) vc).map (fun p => if p.id = q.id then
      { p with flits := rehead (hopped (pktHdr q.flits)) p.flits, way := .local_ } else p) ∧ SameRegs s u []) := by
  have e := h.eq.trans ((if_neg h0).trans (if_pos (by simpa using hd)))
  refine completes_act hc h.lt (by rw [e]; exact (moved_rxMod ..).calm hc.quiet) fun u hf => ?_
  rw [e] at hf
  exact ⟨by rw [hf.lkGet, rxPool_rxMod, lkGet_quiet], .intro hf rfl fun r _ => by rw [rd_rxMod, rd_quiet]⟩

/-! The port that a route gives (R379–R381). -/

theorem primaryOf_lt {d p : Nat} (h : primaryOf s d = some p) : p < 32 := by
  simp only [primaryOf, Option.ite_none_right_eq_some, Option.some.injEq] at h
  exact h.2 ▸ bits_lt ..

theorem altOf_lt {d p : Nat} (h : altOf s d = some p) : p < 32 := by
  simp only [altOf, Option.ite_none_right_eq_some, Option.some.injEq] at h
  exact h.2 ▸ bits_lt ..

theorem oppPort_lt {p : Nat} (h : p < 32) : oppPort p < 32 := by
  unfold oppPort
  split
  · omega
  · omega

/-- Every way out is by a port below 32. -/
def outPort (r : Route) : Prop := match r with
  | .out p _ _ _ => p < 32
  | .drop _ => True

theorem outPort_routeAlt {i : Option Nat} (hi : ∀ p, i = some p → p < 32) (v : Nat) (h : List Byte) : outPort (routeAlt s i v h) := by
  unfold routeAlt
  dsimp only
  split
  · split
    case h_1 p hp => exact altOf_lt hp
    case h_2 => trivial
  · split
    · trivial
    case h_2 q =>
      split
      · split
        · exact oppPort_lt (hi q rfl)
        · trivial
      · split
        case h_1 p hp => exact primaryOf_lt hp
        case h_2 =>
          split
          case h_1 p hp => exact altOf_lt hp
          case h_2 => trivial

theorem outPort_routeOf {i : Option Nat} (hi : ∀ p, i = some p → p < 32) (v : Nat) (h : List Byte) : outPort (routeOf s i v h) := by
  unfold routeOf
  split
  · trivial
  · split
    · exact outPort_routeAlt hi v h
    · split
      case h_1 p hp => exact primaryOf_lt hp
      case h_2 =>
        split
        case h_1 p hp => exact altOf_lt hp
        case h_2 => trivial

/-- A packet in transit. -/
structure InTransit (s : State) (vc : Nat) (h : List Byte) : Prop where
  hops : phHops h ≠ 0
  other : phDst h ≠ ownDev s
  notAll : ¬ (vc = 31 ∧ phDst h = 65535)

theorem InTransit.guard {h : List Byte} (ht : InTransit s vc h) : ¬ (phDst h = ownDev s || (vc = 31 && phDst h = 65535)) = true := by
  simpa using ⟨ht.other, fun hv hd => ht.notAll ⟨hv, hd⟩⟩

theorem ToRoute.noRoute (h : ToRoute s n vc q) (hc : Calm s) (ht : InTransit s vc (pktHdr q.flits)) {w : Nat}
    (hr : routeOf s (some (lkPort s n)) vc (hopped (pktHdr q.flits)) = .drop w) :
    Completes (.packetRoute n vc) s (fun u => (q.whole = true → ∀ p ∈ rxPool (lkGet u n) vc, p.id ≠ q.id) ∧
      (bit (rd s R.fabCtrl) 0 = false → rd u (dropReg w) = (rd s (dropReg w) + 1) % 2 ^ 48)) :=
  h.dropped hc (h.eq.trans ((if_neg ht.hops).trans ((if_neg ht.guard).trans (by rw [hr]))))

theorem rxMod_links (s : State) (n vc id m : Nat) (f : RxPkt → RxPkt) :
    (lkGet (rxMod s n vc id f) m).txq = (lkGet s m).txq ∧ (lkGet (rxMod s n vc id f) m).st = (lkGet s m).st := by
  rw [rxMod, lkGet_lkMod]
  split
  case isTrue h => rw [h]; exact ⟨rfl, rfl⟩
  case isFalse => exact ⟨rfl, rfl⟩

theorem ToRoute.transit (h : ToRoute s n vc q) (hc : Calm s) (ht : InTransit s vc (pktHdr q.flits)) {p v l : Nat} {h' : List Byte} {alt : Bool}
    (hr : routeOf s (some (lkPort s n)) vc (hopped (pktHdr q.flits)) = .out p v h' alt) (hl : pickLink s (portLive s p) = some l)
    (hz : (portGet s p).cong = false) :
    Completes (.packetRoute n vc) s (fun u =>
      rxPool (lkGet u n) vc = (rxPool (lkGet s n) vc).map (fun p' => if p'.id = q.id then
        { p' with flits := rehead h' p'.flits, way := .transit p l } else p') ∧
      (lkGet u l).txq = (lkGet s l).txq ++ [⟨q.id, v, rehead h' q.flits, q.whole, some (n, vc), false, phDst h', none, false⟩] ∧
      (bit (rd s R.fabCtrl) 0 = false → rd u R.fabTransitPkts = (rd s R.fabTransitPkts + 1) % 2 ^ 48)) := by
  obtain ⟨s0, hs0, hcnt⟩ : ∃ s0, (if alt then fabBump (quiet s) R.fabAltRouted 1 else quiet s) = s0 ∧ Counted (quiet s) s0 [R.fabAltRouted] := by
    refine ⟨_, rfl, ?_⟩
    split
    · exact counted_bump ..
    · exact .refl _ _
  have hk : s0.ports = s.ports := hcnt.ports
  set f : RxPkt → RxPkt := fun q' => { q' with flits := rehead h' q'.flits, way := .transit p l } with hf
  set w := rxMod (fabBump s0 R.fabTransitPkts 1) n vc q.id f with hw
  have hq (m : Nat) : (lkGet w m).txq = (lkGet s m).txq ∧ (lkGet w m).st = (lkGet s m).st := by
    have := rxMod_links (fabBump s0 R.fabTransitPkts 1) n vc q.id m f
    rwa [lkGet_fabBump, hcnt.lkGet, lkGet_quiet] at this
  have hcfg : rd w (R.lnkPortCfgP p) = rd s (R.lnkPortCfgP p) := by
    have hp : p < 32 := by
      have := outPort_routeOf (s := s) (i := some (lkPort s n)) (fun p hp => by cases hp; exact lkPort_lt s n) vc (hopped (pktHdr q.flits))
      rwa [hr] at this
    have hlt : (R.lnkPortCfgP p).addr < 0x3400000 := by simp only [R.lnkPortCfgP, blkBase]; omega
    have h1 : (R.lnkPortCfgP p).addr ≠ R.fabTransitPkts.addr := Nat.ne_of_lt (Nat.lt_of_lt_of_le hlt (by decide))
    have h2 : (R.lnkPortCfgP p).addr ∉ [R.fabAltRouted].map Reg.addr := fun hm =>
      Nat.ne_of_lt (Nat.lt_of_lt_of_le hlt (by decide)) (List.mem_singleton.1 hm)
    rw [hw, rd_rxMod, fabBump, rd_bump_other _ _ h1, hcnt.regs _ h2, rd_quiet]
  have hpick : pickLink w (portLive w p) = some l := by
    rw [portLive_congr hcfg fun m => (hq m).2, pickLink_congr _ fun m => (hq m).1, hl]
  have hcong : (portGet w p).cong = false := by
    have hports : w.ports = s.ports := by rw [hw, rxMod, lkMod_ports, fabBump, bump_ports, hk]
    rw [portGet, hports]
    exact hz
  have e : packetRoute (quiet s) n vc =
      lkMod w l (fun x => { x with txq := x.txq ++ [⟨q.id, v, rehead h' q.flits, q.whole, some (n, vc), false, phDst h', none, false⟩] }) := by
    refine h.eq.trans ((if_neg ht.hops).trans ((if_neg ht.guard).trans ?_))
    rw [hr]
    dsimp only
    rw [hl]
    dsimp only
    rw [hs0]
    exact portSend_calmPort hpick hcong
  have hcalm : Calm w := (((hcnt.onFabric).trans (onFabric_bump ..)).trans (moved_rxMod ..).onFabric).calm hc.quiet
  refine completes_act hc h.lt (by rw [e]; exact hcalm.lkPut ..) fun u hfu => ?_
  rw [e] at hfu
  refine ⟨?_, ?_, fun hz => ?_⟩
  · have hpool : rxPool (lkGet w n) vc = (rxPool (lkGet s n) vc).map (fun p' => if p'.id = q.id then f p' else p') := by
      rw [hw, rxPool_rxMod, lkGet_fabBump, hcnt.lkGet, lkGet_quiet]
    rw [hfu.lkGet, lkGet_lkMod]
    split
    case isTrue h => exact (congrArg (fun m => rxPool (lkGet w m) vc) h.symm).trans hpool
    case isFalse => exact hpool
  · rw [hfu.lkGet, lkGet_lkMod_same, (hq l).1]
  · have hother {r : Reg} (hr : r.addr ∉ [R.fabAltRouted].map Reg.addr) : rd s0 r = rd s r := by rw [hcnt.regs r hr, rd_quiet]
    rw [hfu.rd _ (by decide), rd_lkMod, hw, rd_rxMod, rd_fabBump_same (by rw [hother (by decide)]; exact hz), hother (by decide)]

theorem routeOf_mismatch {h : List Byte} {i : Option Nat} (hv : vc < 24) (ho : vcOwns s vc h = false) : routeOf s i vc h = .drop 1 :=
  if_pos (by simp [hv, ho])

theorem routeOf_primary {h : List Byte} {i : Option Nat} {p : Nat} (ho : vc < 24 → vcOwns s vc h = true) (ha : phAlt h = false)
    (hp : primaryOf s (phDst h) = some p) : routeOf s i vc h = .out p (primaryVc s i vc p) h false := by
  have h1 : ¬ (decide (vc < 24) && !vcOwns s vc h) = true := by
    by_cases hv : vc < 24
    · simp [ho hv]
    · simp [hv]
  rw [routeOf, if_neg h1, if_neg (by simp [ha]), hp]

/-! The escape network (R382). -/

theorem escape_moves {port l v : Nat} {r : List Nat} {k : TxPkt} (hc : Calm s) (hp : port < 18) (hv : v < 24) (hl : portLive s port = l :: r)
    (hk : (lkGet s l).txq.find? (fun q => q.vc = v) = some k) (hb : k.begun = false) (hf : k.flits ≠ []) (hcr : credit (lkGet s l) v = false) :
    Completes (.escapeTimeout port v) s (fun u =>
      (lkGet u l).txq = (lkGet s l).txq.filter (fun q => q.id ≠ k.id) ++
        [{ k with vc := escVc s 24 (k.src.map (fun e => lkPort s e.1)) v port, flits := rehead (setEsc (pktHdr k.flits)) k.flits }] ∧
      (bit (rd s R.fabCtrl) 0 = false → rd u R.fabEscEntries = (rd s R.fabEscEntries + 1) % 2 ^ 48)) := by
  have e : escapeTimeout (quiet s) port v = fabBump (lkMod (quiet s) l (fun x => { x with txq := x.txq.filter (fun q => q.id ≠ k.id) ++
      [{ k with vc := escVc s 24 (k.src.map (fun e => lkPort s e.1)) v port, flits := rehead (setEsc (pktHdr k.flits)) k.flits }] }))
      R.fabEscEntries 1 := by
    rw [escapeTimeout, if_neg (by simp [hv, hp]), show portLive (quiet s) port = l :: r from hl, List.filterMap_cons]
    dsimp only
    rw [lkGet_quiet, hk]
    dsimp only
    rw [if_pos (by simp [hb, hf, hcr])]
    rfl
  refine completes_act hc hp (by rw [e]; exact ((onFabric_lkMod ..).trans (onFabric_bump ..)).calm hc.quiet) fun u hfu => ?_
  rw [e] at hfu
  refine ⟨by rw [hfu.lkGet, lkGet_fabBump, lkGet_lkMod_same, lkGet_quiet], fun hz => ?_⟩
  rw [hfu.rd _ (by decide), rd_fabBump_same (by rw [rd_lkMod, rd_quiet]; exact hz), rd_lkMod, rd_quiet]

end

/-- Settles O38: each case of routing is one branch of `ToRoute.eq`; what leaves by a port joins the link that the port picks (`portSend_calmPort`). -/
theorem fabricPackets : Obligations.FabricPackets := by
  unfold Obligations.FabricPackets
  refine ⟨?routing, fun s port l v r k hc hp hv hl hk hb hf hcr => escape_moves hc hp hv hl hk hb hf hcr⟩
  intro s n vc q hn hc hq hid hi
  have h : ToRoute s n vc q := ⟨hn, hq, hid, hi⟩
  refine ⟨fun h0 => h.dropped hc (w := 2) (h.eq.trans (if_pos h0)), h.local_ hc, fun h0 hd ha => ?_⟩
  have ht : InTransit s vc (pktHdr q.flits) := ⟨h0, hd, ha⟩
  exact ⟨h.noRoute hc ht (w := 1), h.noRoute hc ht (w := 3), fun p v h' alt l => h.transit hc ht, routeOf_mismatch,
    fun p => routeOf_primary⟩

end Sys2Proof.Machine

/-!
SUPPORT and proofs for discovery (O40): what a port finds of its neighbour (R377, R378, R465).
-/

namespace Sys2Proof.Machine

/-! Ports of the fabric after an update. -/

@[simp] theorem portGet_portMod_same (s : State) (p : Nat) (f : Port → Port) : portGet (portMod s p f) p = f (portGet s p) := by simp [portGet]
theorem portGet_congr {s t : State} (h : t.ports = s.ports) (p : Nat) : portGet t p = portGet s p := by simp [portGet, h]
theorem Follows.portGet {q : List Instr} {v u : State} (h : Follows q v u) (p : Nat) : Machine.portGet u p = Machine.portGet v p := by rw [h.eq]; rfl
theorem Counted.portGet {s t : State} {rs : List Reg} (h : Counted s t rs) (p : Nat) : Machine.portGet t p = Machine.portGet s p :=
  portGet_congr h.ports p

/-- The registers of the routes. -/
def routeRegs : List Reg := (List.range 4096).map R.fabRouteD

theorem counted_routesAgain (s : State) : Counted s (routesAgain s) routeRegs := by
  unfold routesAgain
  split
  · exact .refl _ _
  · exact counted_foldl _ (fun t d hd => (counted_wr t _ _).mono (by simpa [routeRegs] using ⟨d, List.mem_range.1 hd, rfl⟩)) s

theorem routeRegs_addr {a : Nat} (h : a ∈ routeRegs.map Reg.addr) : 0x3402000 ≤ a ∧ a < 0x340A000 := by
  simp only [routeRegs, List.map_map, List.mem_map, List.mem_range, Function.comp, R.fabRouteD, blkBase] at h
  obtain ⟨d, hd, rfl⟩ := h
  omega

/-- A register outside the routes. -/
theorem rd_routesAgain (s : State) {r : Reg} (h : r.addr < 0x3402000 ∨ 0x340A000 ≤ r.addr) : rd (routesAgain s) r = rd s r :=
  (counted_routesAgain s).regs r fun hm => by
    have := routeRegs_addr hm
    omega

section
variable {s t u v : State} {p : Nat}

theorem fabAdj_lt (hp : p < 18) : (R.fabAdjP p).addr < 0x3402000 := by simp only [R.fabAdjP, blkBase]; omega

theorem fabAdj_note (hp : p < 18) : (R.fabAdjP p).addr ∉ noteRegs := by
  have h := fabAdj_lt hp
  intro hm
  simp only [noteRegs, R.prtErrLog, R.prtErrCount, blkBase, List.mem_cons, List.not_mem_nil, or_false] at hm
  omega

/-- FAB_ADJ_p after its STATE is set and the routes are computed again. -/
theorem rd_adjSet_routes (s : State) (hp : p < 18) (st : Nat) :
    rd (routesAgain (adjSet s p st)) (R.fabAdjP p) = setBits (rd s (R.fabAdjP p)) 22 2 st := by
  rw [rd_routesAgain _ (.inl (fabAdj_lt hp)), adjSet, wrf, rd_wr_same]

theorem adjState_routes (s : State) (hp : p < 18) {st : Nat} (hst : st < 4) : adjState (routesAgain (adjSet s p st)) p = st := by
  rw [adjState, rdf, rd_adjSet_routes s hp, bits_setBits_same]
  exact Nat.mod_eq_of_lt hst

theorem counted_adjSet_routes (s : State) (p st : Nat) : Counted s (routesAgain (adjSet s p st)) (R.fabAdjP p :: routeRegs) :=
  ((counted_wrf ..).mono (by simp)).trans ((counted_routesAgain _).mono fun _ => List.mem_cons_of_mem _)

/-- A port that matches and agrees is ACTIVE (R377). -/
theorem counted_portSettle (s : State) (p : Nat) : Counted s (portSettle s p) (R.fabAdjP p :: routeRegs) := by
  unfold portSettle
  dsimp only
  repeat' split
  · exact .refl _ _
  · exact .refl _ _
  · exact counted_adjSet_routes ..
  · exact .refl _ _

theorem portSettle_active (hp : p < 18) (hw : portWidth s p ≠ 0) (hm : (portGet s p).match_ = true) (hd : (portGet s p).disc = true)
    (hl : (portGet s p).lock = false) : adjState (portSettle s p) p = 1 := by
  unfold portSettle
  dsimp only
  rw [if_neg hw, if_pos (by simp [hm, hd, hl])]
  split
  case isTrue h => exact h
  case isFalse => exact adjState_routes s hp (by decide)

theorem counted_portMismatch (s : State) (p dev : Nat) :
    Counted s (portMismatch s p dev) (R.fabErrLog :: R.fabErrCount :: R.fabAdjP p :: routeRegs) :=
  ((counted_logErr ..).mono (by simp)).trans ((counted_adjSet_routes ..).mono fun _ h => List.mem_cons_of_mem _ (List.mem_cons_of_mem _ h))

theorem adjState_portMismatch (s : State) (hp : p < 18) (dev : Nat) : adjState (portMismatch s p dev) p = 2 := adjState_routes _ hp (by decide)

theorem Follows.adjState {q : List Instr} (h : Follows q v u) (hp : p < 18) : Machine.adjState u p = Machine.adjState v p := by
  rw [Machine.adjState, rdf, h.rd _ (fabAdj_note hp)]
  rfl

/-- Bit 24 of FAB_ADJ_p, PEER_CHANGED. -/
theorem bit24_adjSet (s : State) (hp : p < 18) (st : Nat) :
    bit (rd (routesAgain (adjSet s p st)) (R.fabAdjP p)) 24 = bit (rd s (R.fabAdjP p)) 24 := by
  rw [rd_adjSet_routes s hp, bit_setBits_other _ _ (by omega)]

theorem bit24_portSettle (s : State) (hp : p < 18) : bit (rd (portSettle s p) (R.fabAdjP p)) 24 = bit (rd s (R.fabAdjP p)) 24 := by
  unfold portSettle
  dsimp only
  repeat' split
  · rfl
  · rfl
  · exact bit24_adjSet s hp 1
  · rfl

theorem bit24_portMismatch (s : State) (hp : p < 18) (dev : Nat) :
    bit (rd (portMismatch s p dev) (R.fabAdjP p)) 24 = bit (rd s (R.fabAdjP p)) 24 := by
  have h1 : (R.fabAdjP p).addr ≠ R.fabErrLog.addr := Nat.ne_of_gt (by simp only [R.fabAdjP, R.fabErrLog, blkBase]; omega)
  have h2 : (R.fabAdjP p).addr ≠ R.fabErrCount.addr := Nat.ne_of_gt (by simp only [R.fabAdjP, R.fabErrCount, blkBase]; omega)
  rw [portMismatch, bit24_adjSet _ hp, rd_fabErr_other h1 h2]

end

section
variable {s t u v : State} {n vc p : Nat} {q : RxPkt}

/-- The identity that a live link sends (R378). -/
theorem discSend_sends (hc : Calm s) (hn : n < 18) (h2 : (lkGet s n).st = 2) (hs : stagingUse s (linkSlice n) < stagingFlits (linkSlice n)) :
    Completes (.discSend n) s (fun u =>
      lkGet u n = { lkGet s n with txq := (lkGet s n).txq ++ [⟨s.nextPkt, 31,
        flitsOf 31 (mkHdr 2 0 65535 (ownDev s) 0 0 0 0 1 0 (List.replicate 14 0 ++ beBytes 2 19) ++
          (beBytes 2 (ownDev s) ++ beBytes 1 (lkPort s n) ++ beBytes 8 (rd s R.fabTopoHash) ++ beBytes 8 deviceId)), true, none, false, 65535,
        some (linkSlice n), false⟩] } ∧
      SameRegs s u []) := by
  have e : discSend (quiet s) n = lkMod { quiet s with nextPkt := s.nextPkt + 1 } n (fun x => { x with txq := x.txq ++ [⟨s.nextPkt, 31,
      flitsOf 31 (mkHdr 2 0 65535 (ownDev s) 0 0 0 0 1 0 (List.replicate 14 0 ++ beBytes 2 19) ++
        (beBytes 2 (ownDev s) ++ beBytes 1 (lkPort s n) ++ beBytes 8 (rd s R.fabTopoHash) ++ beBytes 8 deviceId)), true, none, false, 65535,
      some (linkSlice n), false⟩] }) := by
    rw [discSend, if_neg (by simp [hn, h2])]
    exact if_neg (Nat.not_lt.2 hs)
  have hcalm : Calm { quiet s with nextPkt := s.nextPkt + 1 } := hc.quiet.of rfl rfl rfl rfl rfl rfl rfl
  refine completes_act hc hn (by rw [e]; exact hcalm.lkPut ..) fun u hf => ?_
  rw [e] at hf
  exact ⟨by rw [hf.lkGet, lkGet_lkMod_same]; rfl, .intro hf rfl fun r _ => rfl⟩

/-! A port's partner (R377). -/

theorem Calm.counted_portMod {rs : List Reg} (hc : Calm s) {f : Port → Port} (h : Counted (portMod s p f) t rs) : Calm t :=
  h.calm (hc.of rfl rfl rfl rfl rfl rfl rfl)

theorem portWidth_portMod (s : State) (p k : Nat) (f : Port → Port) : portWidth (portMod s p f) k = portWidth s k := rfl

theorem portDiscovery_eq (hc : Calm s) (hp : p < 18) {r : List Nat} (hl : portLive s p = n :: r) :
    portDiscovery (quiet s) p =
      if expected s p = some (bits (rd s (R.lnkPartner n)) 0 16, bits (rd s (R.lnkPartner n)) 21 5) then
        portSettle (portMod (quiet s) p (fun x => { x with match_ := true })) p
      else portMismatch (portMod (quiet s) p (fun x => { x with match_ := false })) p (bits (rd s (R.lnkPartner n)) 0 16) := by
  rw [portDiscovery, if_neg (by simp [hp, hc.here])]
  rw [show portLive (quiet s) p = n :: r from hl]
  rfl

theorem portDiscovery_matches (hc : Calm s) (hp : p < 18) {r : List Nat} (hl : portLive s p = n :: r)
    (he : expected s p = some (bits (rd s (R.lnkPartner n)) 0 16, bits (rd s (R.lnkPartner n)) 21 5)) (hd : (portGet s p).disc = true)
    (hk : (portGet s p).lock = false) :
    Completes (.portDiscovery p) s (fun u => adjState u p = 1 ∧ (portGet u p).match_ = true) := by
  have e := (portDiscovery_eq hc hp hl).trans (if_pos he)
  have hcnt := counted_portSettle (portMod (quiet s) p (fun x => { x with match_ := true })) p
  refine completes_act hc hp (by rw [e]; exact hc.quiet.counted_portMod hcnt) fun u hf => ?_
  rw [e] at hf
  have hw : portWidth (portMod (quiet s) p (fun x => { x with match_ := true })) p ≠ 0 := by
    rw [portWidth_portMod, portWidth, show portLive (quiet s) p = n :: r from hl]
    simp
  refine ⟨?_, by rw [hf.portGet, hcnt.portGet, portGet_portMod_same]⟩
  rw [hf.adjState hp]
  exact portSettle_active hp hw (by rw [portGet_portMod_same]) (by rw [portGet_portMod_same]; exact hd) (by rw [portGet_portMod_same]; exact hk)

theorem portDiscovery_differs (hc : Calm s) (hp : p < 18) {r : List Nat} (hl : portLive s p = n :: r)
    (he : expected s p ≠ some (bits (rd s (R.lnkPartner n)) 0 16, bits (rd s (R.lnkPartner n)) 21 5)) :
    Completes (.portDiscovery p) s (fun u => adjState u p = 2 ∧ (portGet u p).match_ = false) := by
  have e := (portDiscovery_eq hc hp hl).trans (if_neg he)
  have hcnt := counted_portMismatch (portMod (quiet s) p (fun x => { x with match_ := false })) p (bits (rd s (R.lnkPartner n)) 0 16)
  refine completes_act hc hp (by rw [e]; exact hc.quiet.counted_portMod hcnt) fun u hf => ?_
  rw [e] at hf
  exact ⟨by rw [hf.adjState hp, adjState_portMismatch _ hp], by rw [hf.portGet, hcnt.portGet, portGet_portMod_same]⟩

/-! A partner's identity (R378, R465). -/

theorem peerSeen_same (s : State) {id : Nat} (h : rd s (R.secPeerP p) = id) : peerSeen s p id = s := by
  rw [peerSeen]
  exact if_pos h

/-- A new identity is kept with the old one, and marked; the port may be locked in MISMATCH. -/
theorem peerSeen_new (s : State) (hp : p < 18) {id : Nat} (h : rd s (R.secPeerP p) ≠ id) (h0 : rd s (R.secPeerP p) ≠ 0) :
    bit (rd (peerSeen s p id) (R.fabAdjP p)) 24 = true ∧ rd (peerSeen s p id) (R.secPeerPrevP p) = rd s (R.secPeerP p) ∧
      rd (peerSeen s p id) (R.secPeerP p) = id ∧ OnFabric s (peerSeen s p id) := by
  have hadj := fabAdj_lt hp
  have hpeer : (R.secPeerP p).addr = 0x5802000 + p * 0x10 := rfl
  have hprev : (R.secPeerPrevP p).addr = 0x5802008 + p * 0x10 := rfl
  have hlog : R.secErrLog.addr = 0x5800018 ∧ R.secErrCount.addr = 0x5800020 := ⟨rfl, rfl⟩
  set w := secErr (wr (wr (wrf s (R.fabAdjP p) 24 1 1) (R.secPeerPrevP p) (rd s (R.secPeerP p))) (R.secPeerP p) id) 3 0 0 p id with hw
  have hlogged {r : Reg} (h1 : r.addr ≠ R.secErrLog.addr) (h2 : r.addr ≠ R.secErrCount.addr) :
      rd w r = rd (wr (wr (wrf s (R.fabAdjP p) 24 1 1) (R.secPeerPrevP p) (rd s (R.secPeerP p))) (R.secPeerP p) id) r := rd_logErr_other _ h1 h2 _
  have e : peerSeen s p id =
      if bit (rd s R.secCtrl) 2 then routesAgain (adjSet (portMod w p (fun x => { x with lock := true })) p 2) else w := by
    rw [peerSeen]
    exact (if_neg h).trans (if_neg h0)
  have h1 : bit (rd w (R.fabAdjP p)) 24 = true := by
    rw [hlogged (by omega) (by omega), rd_wr_other _ (by omega), rd_wr_other _ (by omega), wrf, rd_wr_same, bit_setBits_same]
    rfl
  have h2 : rd w (R.secPeerPrevP p) = rd s (R.secPeerP p) := by
    rw [hlogged (by omega) (by omega), rd_wr_other _ (by omega), rd_wr_same]
  have h3 : rd w (R.secPeerP p) = id := by
    rw [hlogged (by omega) (by omega), rd_wr_same]
  have h4 : OnFabric s w := (((counted_wrf ..).onFabric.trans (counted_wr ..).onFabric).trans (counted_wr ..).onFabric).trans
    (counted_logErr ..).onFabric
  rw [e]
  split
  · have hcnt := counted_adjSet_routes (portMod w p (fun x => { x with lock := true })) p 2
    have hout (a : Nat) (ha : 0x5800000 ≤ a) : a ∉ (R.fabAdjP p :: routeRegs).map Reg.addr := by
      rw [List.map_cons, List.mem_cons, not_or]
      refine ⟨by omega, fun hm => ?_⟩
      have := routeRegs_addr hm
      omega
    refine ⟨by rw [bit24_adjSet _ hp, rd_portMod]; exact h1, ?_, ?_, (h4.trans (onFabric_portMod ..)).trans hcnt.onFabric⟩
    · rw [hcnt.regs _ (hout _ (by omega)), rd_portMod, h2]
    · rw [hcnt.regs _ (hout _ (by omega)), rd_portMod, h3]
  · exact ⟨h1, h2, h3, h4⟩

/-- The oldest DISC packet of a pool, received by a port. -/
structure DiscAt (s : State) (n vc : Nat) (q : RxPkt) : Prop where
  lt : n < 18
  first : (rxPool (lkGet s n) vc).find? (fun q => q.way = .local_ && q.whole && phType (pktHdr q.flits) = 2) = some q
  port : lkPort s n < 18

theorem DiscAt.eq (h : DiscAt s n vc q) (hc : Calm s) :
    discReceive (quiet s) n vc =
      if hB ((bodyOf q.flits).drop 32) 3 8 = rd s R.fabTopoHash then
        portSettle (portMod (peerSeen (rxDrop (quiet s) n vc q.id) (lkPort s n) (hB ((bodyOf q.flits).drop 32) 11 8)) (lkPort s n)
          (fun x => { x with disc := true })) (lkPort s n)
      else
        portMismatch (portMod (peerSeen (rxDrop (quiet s) n vc q.id) (lkPort s n) (hB ((bodyOf q.flits).drop 32) 11 8)) (lkPort s n)
          (fun x => { x with disc := false })) (lkPort s n) (hB ((bodyOf q.flits).drop 32) 0 2) := by
  unfold discReceive
  rw [lkGet_quiet, h.first]
  exact if_neg (by have := h.port; simp [hc.here, show lkPort (quiet s) n = lkPort s n from rfl, this])

theorem lkGet_rxDrop_st (s : State) (n vc id m : Nat) : (lkGet (rxDrop s n vc id) m).st = (lkGet s m).st := by
  rw [(moved_rxDrop s n vc id).link m]
  rfl

theorem rxDrop_away {rs : List Reg} {f : Port → Port} {p : Nat} (hcnt : Counted (portMod (rxDrop (quiet s) n vc q.id) p f) v rs)
    {l : List Instr} (hf : Follows l v u) : ∀ p ∈ rxPool (lkGet u n) vc, p.id ≠ q.id := by
  intro r hr
  rw [hf.lkGet, hcnt.lkGet, lkGet_portMod, rxPool_rxDrop] at hr
  simpa using (List.mem_filter.1 hr).2

theorem DiscAt.differs (h : DiscAt s n vc q) (hc : Calm s) (hid : hB ((bodyOf q.flits).drop 32) 11 8 = rd s (R.secPeerP (lkPort s n)))
    (hh : hB ((bodyOf q.flits).drop 32) 3 8 ≠ rd s R.fabTopoHash) :
    Completes (.discReceive n vc) s (fun u => adjState u (lkPort s n) = 2 ∧ (portGet u (lkPort s n)).disc = false ∧
      ∀ p ∈ rxPool (lkGet u n) vc, p.id ≠ q.id) := by
  have e := (h.eq hc).trans (if_neg hh)
  rw [peerSeen_same (rxDrop (quiet s) n vc q.id) (p := lkPort s n) hid.symm] at e
  have hcnt := counted_portMismatch (portMod (rxDrop (quiet s) n vc q.id) (lkPort s n) (fun x => { x with disc := false })) (lkPort s n)
    (hB ((bodyOf q.flits).drop 32) 0 2)
  have hcalm : Calm (rxDrop (quiet s) n vc q.id) := (moved_rxDrop ..).calm hc.quiet
  refine completes_act hc h.lt (by rw [e]; exact hcalm.counted_portMod hcnt) fun u hf => ?_
  rw [e] at hf
  exact ⟨by rw [hf.adjState h.port, adjState_portMismatch _ h.port], by rw [hf.portGet, hcnt.portGet, portGet_portMod_same], rxDrop_away hcnt hf⟩

theorem DiscAt.agrees (h : DiscAt s n vc q) (hc : Calm s) (hid : hB ((bodyOf q.flits).drop 32) 11 8 = rd s (R.secPeerP (lkPort s n)))
    (hh : hB ((bodyOf q.flits).drop 32) 3 8 = rd s R.fabTopoHash) (hw : portWidth s (lkPort s n) ≠ 0)
    (hm : (portGet s (lkPort s n)).match_ = true) (hk : (portGet s (lkPort s n)).lock = false) :
    Completes (.discReceive n vc) s (fun u => adjState u (lkPort s n) = 1 ∧ (portGet u (lkPort s n)).disc = true ∧
      ∀ p ∈ rxPool (lkGet u n) vc, p.id ≠ q.id) := by
  have e := (h.eq hc).trans (if_pos hh)
  rw [peerSeen_same (rxDrop (quiet s) n vc q.id) (p := lkPort s n) hid.symm] at e
  have hcnt := counted_portSettle (portMod (rxDrop (quiet s) n vc q.id) (lkPort s n) (fun x => { x with disc := true })) (lkPort s n)
  have hcalm : Calm (rxDrop (quiet s) n vc q.id) := (moved_rxDrop ..).calm hc.quiet
  have hwidth : portWidth (portMod (rxDrop (quiet s) n vc q.id) (lkPort s n) (fun x => { x with disc := true })) (lkPort s n) ≠ 0 := by
    rw [portWidth_portMod, portWidth, portLive_congr (s := quiet s) (t := rxDrop (quiet s) n vc q.id) rfl (lkGet_rxDrop_st (quiet s) n vc q.id)]
    exact hw
  refine completes_act hc h.lt (by rw [e]; exact hcalm.counted_portMod hcnt) fun u hf => ?_
  rw [e] at hf
  refine ⟨?_, by rw [hf.portGet, hcnt.portGet, portGet_portMod_same], rxDrop_away hcnt hf⟩
  rw [hf.adjState h.port]
  exact portSettle_active h.port hwidth (by rw [portGet_portMod_same]; exact hm) (by rw [portGet_portMod_same])
    (by rw [portGet_portMod_same]; exact hk)

theorem DiscAt.newPeer (h : DiscAt s n vc q) (hc : Calm s) (hid : hB ((bodyOf q.flits).drop 32) 11 8 ≠ rd s (R.secPeerP (lkPort s n)))
    (h0 : rd s (R.secPeerP (lkPort s n)) ≠ 0) :
    Completes (.discReceive n vc) s (fun u => bit (rd u (R.fabAdjP (lkPort s n))) 24 = true ∧
      rd u (R.secPeerPrevP (lkPort s n)) = rd s (R.secPeerP (lkPort s n)) ∧ rd u (R.secPeerP (lkPort s n)) = hB ((bodyOf q.flits).drop 32) 11 8) := by
  obtain ⟨h1, h2, h3, h4⟩ := peerSeen_new (rxDrop (quiet s) n vc q.id) h.port (id := hB ((bodyOf q.flits).drop 32) 11 8) hid.symm h0
  have e := h.eq hc
  set w := peerSeen (rxDrop (quiet s) n vc q.id) (lkPort s n) (hB ((bodyOf q.flits).drop 32) 11 8)
  have hpeer : (R.secPeerP (lkPort s n)).addr = 0x5802000 + lkPort s n * 0x10 := rfl
  have hprev : (R.secPeerPrevP (lkPort s n)).addr = 0x5802008 + lkPort s n * 0x10 := rfl
  have hadj := fabAdj_lt h.port
  have hp := h.port
  have hnote {a : Nat} (ha : 0x5800000 ≤ a) : a ∉ noteRegs := by
    intro hm
    simp only [noteRegs, R.prtErrLog, R.prtErrCount, blkBase, List.mem_cons, List.not_mem_nil, or_false] at hm
    omega
  have hout {a : Nat} (ha : 0x5800000 ≤ a) : a ∉ (R.fabErrLog :: R.fabErrCount :: R.fabAdjP (lkPort s n) :: routeRegs).map Reg.addr := by
    simp only [List.map_cons, List.mem_cons, not_or]
    refine ⟨by simp only [R.fabErrLog, blkBase]; omega, by simp only [R.fabErrCount, blkBase]; omega, by omega, fun hm => ?_⟩
    have := routeRegs_addr hm
    omega
  have key {v : State} {f : Port → Port} (hv : discReceive (quiet s) n vc = v)
      (hcnt : Counted (portMod w (lkPort s n) f) v (R.fabErrLog :: R.fabErrCount :: R.fabAdjP (lkPort s n) :: routeRegs))
      (hb : bit (rd v (R.fabAdjP (lkPort s n))) 24 = bit (rd (portMod w (lkPort s n) f) (R.fabAdjP (lkPort s n))) 24) :
      Completes (.discReceive n vc) s (fun u => bit (rd u (R.fabAdjP (lkPort s n))) 24 = true ∧
        rd u (R.secPeerPrevP (lkPort s n)) = rd s (R.secPeerP (lkPort s n)) ∧ rd u (R.secPeerP (lkPort s n)) = hB ((bodyOf q.flits).drop 32) 11 8) := by
    have hcalm : Calm w := h4.calm ((moved_rxDrop ..).calm hc.quiet)
    refine completes_act hc h.lt (by rw [hv]; exact hcalm.counted_portMod hcnt) fun u hf => ?_
    rw [hv] at hf
    refine ⟨by rw [hf.rd _ (fabAdj_note h.port), hb, rd_portMod, h1], ?_, ?_⟩
    · rw [hf.rd _ (hnote (by omega)), hcnt.regs _ (hout (by omega)), rd_portMod, h2]
      rfl
    · rw [hf.rd _ (hnote (by omega)), hcnt.regs _ (hout (by omega)), rd_portMod, h3]
  by_cases hh : hB ((bodyOf q.flits).drop 32) 3 8 = rd s R.fabTopoHash
  · exact key (e.trans (if_pos hh)) ((counted_portSettle ..).mono fun _ hm => List.mem_cons_of_mem _ (List.mem_cons_of_mem _ hm))
      (bit24_portSettle _ h.port)
  · exact key (e.trans (if_neg hh)) (counted_portMismatch ..) (bit24_portMismatch _ h.port _)

/-! The mark of a changed peer (R465). -/

theorem bit24_cleared (s : State) (p : Nat) : bit (rd (wrf s (R.fabAdjP p) 24 1 0) (R.fabAdjP p)) 24 = false := by
  rw [wrf, rd_wr_same, bit_setBits_same]
  rfl

theorem peerCleared (hc : Calm s) (hp : p < 18) (hk : (portGet s p).lock = false) :
    Completes (.peerChangedClear p) s (fun u => bit (rd u (R.fabAdjP p)) 24 = false ∧ SameRegs s u [R.fabAdjP p]) := by
  have e : peerChangedClear (quiet s) p = wrf (quiet s) (R.fabAdjP p) 24 1 0 := by
    rw [peerChangedClear, if_neg (by omega)]
    exact if_neg (by simp [show (portGet (quiet s) p).lock = false from hk])
  have hcnt := counted_wrf (quiet s) (R.fabAdjP p) 24 1 0
  refine completes_stk hc hp (by rw [e]; exact hcnt.calm hc.quiet) fun u hf => ?_
  rw [e] at hf
  exact ⟨by rw [hf.rd _ (fabAdj_note hp), bit24_cleared], .intro hf (by rw [wrf_parts, quiet_parts]) fun r hr => by rw [hcnt.regs r hr, rd_quiet]⟩

theorem peerCleared_unlocks (hc : Calm s) (hp : p < 18) (hw : portWidth s p ≠ 0) (hm : (portGet s p).match_ = true)
    (hd : (portGet s p).disc = true) (hk : (portGet s p).lock = true) :
    Completes (.peerChangedClear p) s (fun u => bit (rd u (R.fabAdjP p)) 24 = false ∧ (portGet u p).lock = false ∧ adjState u p = 1) := by
  have e : peerChangedClear (quiet s) p = portSettle (portMod (wrf (quiet s) (R.fabAdjP p) 24 1 0) p (fun x => { x with lock := false })) p := by
    rw [peerChangedClear, if_neg (by omega)]
    exact if_pos hk
  have hclear := counted_wrf (quiet s) (R.fabAdjP p) 24 1 0
  have hbit := bit24_cleared (quiet s) p
  generalize wrf (quiet s) (R.fabAdjP p) 24 1 0 = w at e hclear hbit
  have hcnt := counted_portSettle (portMod w p (fun x => { x with lock := false })) p
  have hport : portGet w p = portGet s p := hclear.portGet p
  have hwidth : portWidth (portMod w p (fun x => { x with lock := false })) p ≠ 0 := by
    have hne : (R.lnkPortCfgP p).addr ≠ (R.fabAdjP p).addr := Nat.ne_of_lt (by simp only [R.lnkPortCfgP, R.fabAdjP, blkBase]; omega)
    rw [portWidth_portMod, portWidth, portLive_congr (s := s) (hclear.regs _ (by simpa using hne)) fun m => by rw [hclear.lkGet, lkGet_quiet]]
    exact hw
  refine completes_stk hc hp (by rw [e]; exact (hclear.calm hc.quiet).counted_portMod hcnt) fun u hf => ?_
  rw [e] at hf
  refine ⟨?_, by rw [hf.portGet, hcnt.portGet, portGet_portMod_same], ?_⟩
  · rw [hf.rd _ (fabAdj_note hp), bit24_portSettle _ hp, rd_portMod, hbit]
  · rw [hf.adjState hp]
    exact portSettle_active hp hwidth (by rw [portGet_portMod_same, hport]; exact hm) (by rw [portGet_portMod_same, hport]; exact hd)
      (by rw [portGet_portMod_same])

end

/-- Settles O40: what a port finds of its neighbour ends in `portSettle` or `portMismatch`, which set FAB_ADJ_p.STATE and the routes alone; a new
identity is kept by `peerSeen` (`peerSeen_new`). -/
theorem neighboursFound : Obligations.NeighboursFound := by
  unfold Obligations.NeighboursFound
  intro s hc
  refine ⟨fun n => discSend_sends hc, fun n vc q hn hq hp => ?_, fun p n r hp hl => ⟨portDiscovery_matches hc hp hl, portDiscovery_differs hc hp hl⟩,
    fun p => peerCleared hc, fun p => peerCleared_unlocks hc⟩
  have h : DiscAt s n vc q := ⟨hn, hq, hp⟩
  exact ⟨fun hid => ⟨h.differs hc hid, h.agrees hc hid⟩, h.newPeer hc⟩

end Sys2Proof.Machine

/-!
SUPPORT for flows (R386–R388, R400, R486): what a packet of this device's own leaves, and what a flow that sends what waits leaves. The links change in
their queues alone, and a flow keeps what it has not been acknowledged.
-/

namespace Sys2Proof.Machine

/-! A packet is queued. -/

/-- `t` is `s` with packets queued on links, and the damper's limits of its send flows cut. -/
structure PacketsQueued (s t : State) : Prop where
  moved : PacketsMoved s t
  link : ∀ n, lkGet t n = { lkGet s n with txq := (lkGet t n).txq }
  flows : ∃ g : SendFlow → SendFlow, t.sflows = s.sflows.map g ∧ ∀ f, g f = { f with limit := (g f).limit, cutAt := (g f).cutAt }

theorem PacketsQueued.refl (s : State) : PacketsQueued s s := ⟨.refl s, fun _ => rfl, id, (List.map_id _).symm, fun _ => rfl⟩

theorem damped_trans {x y z : SendFlow} (h : y = { x with limit := y.limit, cutAt := y.cutAt })
    (k : z = { y with limit := z.limit, cutAt := z.cutAt }) : z = { x with limit := z.limit, cutAt := z.cutAt } := by
  rw [h] at k
  exact k

theorem PacketsQueued.trans {s t u : State} (h : PacketsQueued s t) (k : PacketsQueued t u) : PacketsQueued s u := by
  obtain ⟨g, hg, hk⟩ := h.flows
  obtain ⟨g', hg', hk'⟩ := k.flows
  exact ⟨h.moved.trans k.moved, fun n => by rw [k.link, h.link], fun f => g' (g f), by rw [hg', hg, List.map_map]; rfl,
    fun f => damped_trans (hk f) (hk' (g f))⟩

/-- A step that changes neither links nor flows. -/
theorem PacketsQueued.of {s t : State} (h : PacketsMoved s t) (hl : t.links = s.links) (hf : t.sflows = s.sflows) : PacketsQueued s t :=
  ⟨h, fun n => by rw [lkGet_congr hl], id, by rw [hf, List.map_id], fun _ => rfl⟩

section
variable (s : State)

theorem queued_telBump (a : Nat) (h : a < 0x10000) (n : Nat) : PacketsQueued s (telBump s ⟨blkBase .tel 0 + a, 0⟩ n) :=
  .of (moved_telBump s a h n) (by simp [telBump]) (by simp [telBump])

theorem queued_fabBump (a : Nat) (h : a < 0x10000) (n : Nat) : PacketsQueued s (fabBump s ⟨blkBase .fab 0 + a, 0⟩ n) :=
  .of (moved_fabBump s a h n) (by simp [fabBump]) (by simp [fabBump])

theorem queued_txPut (p : Nat) (q : TxPkt) : PacketsQueued s (txPut s p q) := by
  refine ⟨moved_txPut s p q, fun n => ?_, id, ?_, fun _ => rfl⟩
  · unfold txPut
    split
    · rfl
    · rw [lkGet_lkMod]
      split
      case isTrue h => rw [h]
      case isFalse => rfl
  · unfold txPut
    split
    · simp
    · simp

theorem queued_owe (k n : Nat) : PacketsQueued s (owe s k n) := by
  refine .of (moved_owe s k n) ?_ ?_
  all_goals
    unfold owe
    split
    · rfl
    · rfl

theorem queued_rateApply (slice group spart dec dev : Nat) : PacketsQueued s (rateApply s slice group spart dec dev) := by
  have h1 := queued_telBump s 0x108 (by decide) 1
  have h := moved_rateApply s slice group spart dec dev
  unfold rateApply at h ⊢
  dsimp only at h ⊢
  split
  · exact h1.trans (queued_telBump _ 0x118 (by decide) 1)
  case isFalse hn =>
    rw [if_neg hn] at h
    refine ⟨h, fun n => ?_, _, rfl, fun f => ?_⟩
    · rw [lkGet_congr (s := s) (by simp [telBump])]
    · split
      · rfl
      · rfl

theorem queued_rateSend (port : Nat) (h : List Byte) : PacketsQueued s (rateSend s port h) := by
  unfold rateSend
  dsimp only
  split
  · exact queued_rateApply ..
  · split
    · exact queued_telBump _ 0x110 (by decide) 1
    · split
      · exact queued_telBump _ 0x110 (by decide) 1
      · exact (((PacketsQueued.of ⟨rfl, fun _ _ => rfl, fun _ => rfl⟩ rfl rfl : PacketsQueued s { s with nextPkt := s.nextPkt + 1 }).trans
          (queued_telBump _ 0x100 (by decide) 1)).trans (queued_owe ..)).trans (queued_txPut ..)

theorem queued_portSend (p : Nat) (h : List Byte) (q : TxPkt) : PacketsQueued s (portSend s p h q) := by
  have h1 := queued_txPut s p q
  have h2 := h1.trans (.of (moved_portMod (txPut s p q) p fun x => { x with cnt := x.cnt + 1 }) rfl rfl)
  unfold portSend
  dsimp only
  split
  · split
    · exact h2.trans (queued_rateSend ..)
    · exact h2
  · exact h1

theorem queued_dropCount (why port vc : Nat) (h : List Byte) : PacketsQueued s (dropCount s why port vc h) := by
  refine .of (moved_dropCount ..) ?_ ?_
  all_goals
    rw [dropCount_eq]
    simp [fabErr, fabBump]

/-! A packet of this device's own (R379, R388). -/

/-- A packet of this device's own, by its route: dropped, held back while its staging has no room, or queued. -/
theorem sendOwn_eq (vc : Nat) (h body : List Byte) : sendOwn s vc h body =
    match routeOf s none vc h with
    | .drop w => dropCount s w 0 vc h
    | .out p vc' h' alt =>
      if !stagingRoom s p (flitsOf vc' (h' ++ body)).length then hold s
      else portSend { (if alt then fabBump s R.fabAltRouted 1 else s) with nextPkt := s.nextPkt + 1 } p h'
        ⟨s.nextPkt, vc', flitsOf vc' (h' ++ body), true, none, false, phDst h, stageOf s p, false⟩ := by
  unfold sendOwn
  cases routeOf s none vc h with
  | drop w => rfl
  | out p vc' h' alt => rfl

theorem hold_self (h : s.held = true) : hold s = s := by
  unfold hold
  rw [← h]

variable {s}

theorem queued_alt (s : State) (alt : Bool) (n : Nat) :
    PacketsQueued s { (if alt then fabBump s R.fabAltRouted 1 else s) with nextPkt := n } := by
  refine .trans (t := if alt then fabBump s R.fabAltRouted 1 else s) ?_ (.of ⟨rfl, fun _ _ => rfl, fun _ => rfl⟩ rfl rfl)
  split
  · exact queued_fabBump s 0x160 (by decide) 1
  · exact .refl s

/-- A packet of this device's own has to wait, or it is queued or dropped. -/
theorem sendOwn_queued (s : State) (vc : Nat) (h body : List Byte) : sendOwn s vc h body = hold s ∨ PacketsQueued s (sendOwn s vc h body) := by
  rw [sendOwn_eq]
  split
  · exact .inr (queued_dropCount ..)
  · split
    · exact .inl rfl
    · exact .inr ((queued_alt ..).trans (queued_portSend ..))

theorem PacketsQueued.held {s t : State} (h : PacketsQueued s t) : t.held = s.held := by rw [h.moved.eq]

theorem queued_sendOwn {vc : Nat} {h body : List Byte} (hh : (sendOwn s vc h body).held = s.held) : PacketsQueued s (sendOwn s vc h body) := by
  rcases sendOwn_queued s vc h body with e | hq
  · rw [e] at hh ⊢
    rw [hold_self s hh.symm]
    exact .refl s
  · exact hq

theorem held_sendOwn {vc : Nat} {h body : List Byte} (hs : s.held = true) : (sendOwn s vc h body).held = true := by
  rcases sendOwn_queued s vc h body with e | hq
  · rw [e]
    rfl
  · rw [hq.held, hs]

end

/-! Flows that send (R386, R388). -/

/-- `g` is the flow `f` later: it holds what `f` had not been acknowledged, and numbers what it has sent since from `f.next` on. -/
structure FlowGrows (f g : SendFlow) : Prop where
  next : f.next ≤ g.next
  un : ∃ l, g.un = f.un ++ l ∧ ∀ x ∈ l, f.next ≤ x.seq

theorem FlowGrows.refl (f : SendFlow) : FlowGrows f f := ⟨le_refl _, [], (List.append_nil _).symm, fun _ h => nomatch h⟩

theorem FlowGrows.trans {f g h : SendFlow} (a : FlowGrows f g) (b : FlowGrows g h) : FlowGrows f h := by
  obtain ⟨l, hl, hx⟩ := a.un
  obtain ⟨m, hm, hy⟩ := b.un
  refine ⟨a.next.trans b.next, l ++ m, by rw [hm, hl, List.append_assoc], fun x hxm => ?_⟩
  rcases List.mem_append.1 hxm with h | h
  · exact hx x h
  · exact a.next.trans (hy x h)

/-- The flow of a number. -/
def flowGet (l : List SendFlow) (i : Nat) : Option SendFlow := l.find? (fun f => f.id = i)

/-- Every flow of a list is, in the other, later. -/
def FlowsGrow (l m : List SendFlow) : Prop := ∀ i f, flowGet l i = some f → ∃ g, flowGet m i = some g ∧ FlowGrows f g

theorem FlowsGrow.refl (l : List SendFlow) : FlowsGrow l l := fun _ f h => ⟨f, h, .refl f⟩

theorem FlowsGrow.trans {l m k : List SendFlow} (a : FlowsGrow l m) (b : FlowsGrow m k) : FlowsGrow l k := fun i f h => by
  obtain ⟨g, hg, hfg⟩ := a i f h
  obtain ⟨e, he, hge⟩ := b i g hg
  exact ⟨e, he, hfg.trans hge⟩

theorem flowGet_map {l : List SendFlow} {g : SendFlow → SendFlow} (hg : ∀ f, (g f).id = f.id) (i : Nat) :
    flowGet (l.map g) i = (flowGet l i).map g := by
  unfold flowGet
  rw [List.find?_map]
  congr 1
  congr 1
  funext f
  simp [hg]

theorem flowGet_id {l : List SendFlow} {i : Nat} {f : SendFlow} (h : flowGet l i = some f) : f.id = i := by
  simpa using List.find?_some h

/-- A change of each flow under which the one of each number grows. -/
theorem flowsGrow_map {l : List SendFlow} {g : SendFlow → SendFlow} (hid : ∀ f, (g f).id = f.id)
    (hg : ∀ i f, flowGet l i = some f → FlowGrows f (g f)) : FlowsGrow l (l.map g) := fun i f h =>
  ⟨g f, by rw [flowGet_map hid, h]; rfl, hg i f h⟩

theorem PacketsQueued.grow {s t : State} (h : PacketsQueued s t) : FlowsGrow s.sflows t.sflows := by
  obtain ⟨g, hg, hk⟩ := h.flows
  rw [hg]
  refine flowsGrow_map (fun f => by rw [hk]) fun i f _ => ?_
  rw [hk]
  exact ⟨le_refl _, [], (List.append_nil _).symm, fun _ h => nomatch h⟩

/-- `t` is `s` after flows have sent: the links change in their queues alone, a flow keeps what it has sent, and nothing is received. -/
structure FlowRun (s t : State) : Prop where
  fab : OnFabric s t
  link : ∀ n, lkGet t n = { lkGet s n with txq := (lkGet t n).txq }
  flows : FlowsGrow s.sflows t.sflows
  rflows : t.rflows = s.rflows
  colIn : t.colIn = s.colIn

theorem FlowRun.refl (s : State) : FlowRun s s := ⟨.refl s, fun _ => rfl, .refl _, rfl, rfl⟩

theorem FlowRun.trans {s t u : State} (h : FlowRun s t) (k : FlowRun t u) : FlowRun s u :=
  ⟨h.fab.trans k.fab, fun n => by rw [k.link, h.link], h.flows.trans k.flows, k.rflows.trans h.rflows, k.colIn.trans h.colIn⟩

theorem FlowRun.foldl {α : Type} {f : State → α → State} (hf : ∀ t a, FlowRun t (f t a)) (l : List α) (s : State) : FlowRun s (l.foldl f s) := by
  induction l generalizing s with
  | nil => exact .refl s
  | cons a r ih => exact (hf s a).trans (ih _)

theorem Counted.flowRun {s t : State} {rs : List Reg} (h : Counted s t rs) : FlowRun s t :=
  ⟨h.onFabric, fun n => by rw [h.lkGet], by rw [h.eq]; exact .refl _, by rw [h.eq], by rw [h.eq]⟩

theorem PacketsQueued.flowRun {s t : State} (h : PacketsQueued s t) : FlowRun s t :=
  ⟨h.moved.onFabric, h.link, h.grow, by rw [h.moved.eq], by rw [h.moved.eq]⟩

theorem FlowRun.held {s t : State} (h : FlowRun s t) : t.held = s.held := by rw [show t = _ from h.fab]

section
variable {s : State}

theorem flowRun_sfMod (i : Nat) {g : SendFlow → SendFlow} (hid : ∀ f, (g f).id = f.id) (hg : ∀ f, flowGet s.sflows i = some f → FlowGrows f (g f)) :
    FlowRun s (sfMod s i g) := by
  refine ⟨rfl, fun _ => rfl, flowsGrow_map (fun f => ?_) fun j f h => ?_, rfl, rfl⟩
  · split
    · exact hid f
    · rfl
  · split
    case isTrue hi => exact hg f (by rw [← hi, flowGet_id h]; exact h)
    case isFalse => exact .refl f

/-- A flow's own packet is numbered and sent by the route in force, unless it has to wait. -/
theorem flowRun_flowOut {f : SendFlow} {k : ColPkt} (hh : (flowOut s f k).held = s.held) :
    FlowRun s (flowOut s f k) := by
  unfold flowOut at hh ⊢
  dsimp only at hh ⊢
  refine .trans ?_ (queued_sendOwn ?_).flowRun
  · have hsent (t : State) : FlowRun t (fabBump t R.fabSent 1) := (counted_bump ..).flowRun
    have hbytes (t : State) : FlowRun t (colBump t R.colBytesSent k.data.length 64) := (counted_bump ..).flowRun
    refine .trans (.trans ?_ (hsent _)) (hbytes _)
    exact flowRun_sfMod f.id (fun _ => rfl) fun g _ => ⟨Nat.le_succ _, _, rfl, fun x hx => by rw [List.mem_singleton.1 hx]⟩
  · rw [hh]
    simp [colBump, fabBump, sfMod]

theorem held_flowOut {f : SendFlow} {k : ColPkt} (hs : s.held = true) : (flowOut s f k).held = true := by
  unfold flowOut
  exact held_sendOwn (by simp [colBump, fabBump, sfMod, hs])

/-- A flow sends what waits, while it may (R386). -/
theorem flowRun_flowPump (s : State) (i n : Nat) : FlowRun s (flowPump s i n) := by
  induction n generalizing s with
  | zero => exact .refl s
  | succ n ih =>
    unfold flowPump
    split
    · exact .refl s
    case h_2 f hf =>
      split
      · exact .refl s
      case h_2 k r hw =>
        split
        · exact .refl s
        · have h1 : FlowRun s (sfMod s i (fun f => { f with wait := r })) :=
            flowRun_sfMod i (fun _ => rfl) fun g _ => ⟨le_refl _, [], (List.append_nil _).symm, fun _ h => nomatch h⟩
          dsimp only
          split
          · exact .refl s
          case isFalse hheld =>
            have hh : (flowOut (sfMod s i (fun f => { f with wait := r })) { f with wait := r } k).held = s.held := by
              cases hs : s.held
              · simpa [hs] using hheld
              · exact held_flowOut hs
            exact (h1.trans (flowRun_flowOut hh)).trans (ih _)

end

/-! Trees (R400, R401): what was taken by a child lets others wait, or be pruned. -/

section
variable (s : State)

theorem flowRun_flowSend (p dev dpart vc : Nat) (k : ColPkt) : FlowRun s (flowSend s p dev dpart vc k) := by
  unfold flowSend
  split
  · exact .refl s
  · refine .trans ?_ (flowRun_flowPump ..)
    exact flowRun_sfMod _ (fun _ => rfl) fun f _ => ⟨le_refl _, [], (List.append_nil _).symm, fun _ h => nomatch h⟩

theorem flowRun_colPut (p c : Nat) (e : ColEnt) : FlowRun s (colPut s p c e) := ⟨rfl, fun _ => rfl, .refl _, rfl, rfl⟩

theorem flowRun_colMod (p c : Nat) (f : ColEnt → ColEnt) : FlowRun s (colMod s p c f) := by
  unfold colMod
  split
  · exact .refl s
  · exact flowRun_colPut ..

theorem flowRun_colCtl (p c : Nat) (e : ColEnt) (k kind b off : Nat) (data : List Byte) : FlowRun s (colCtl s p c e k kind b off data) := by
  unfold colCtl
  split
  · exact .refl s
  · exact flowRun_flowSend ..

theorem flowRun_bump (z : Bool) (r : Reg) (n w : Nat) : FlowRun s (bump s z r n w) := (counted_bump ..).flowRun
theorem flowRun_colBump (r : Reg) (n w : Nat) : FlowRun s (colBump s r n w) := flowRun_bump ..
theorem flowRun_chmBump (sl : Nat) (r : Reg) (n : Nat) : FlowRun s (chmBump s sl r n) := flowRun_bump ..

theorem flowRun_kidPrune (p c b off k : Nat) : FlowRun s (kidPrune s p c b off k) := by
  have hwait {t : State} (o : Option SendFlow) (g : ColPkt → Bool) : FlowRun t (match o with
      | some f => sfMod t f.id (fun f => { f with wait := f.wait.filter g })
      | none => t) := by
    split
    · exact flowRun_sfMod _ (fun _ => rfl) fun f _ => ⟨le_refl _, [], (List.append_nil _).symm, fun _ h => nomatch h⟩
    · exact .refl _
  unfold kidPrune
  split
  · exact .refl s
  · dsimp only
    refine .trans ?_ (flowRun_colCtl ..)
    refine .trans ?_ (flowRun_colBump ..)
    refine .trans ?_ (flowRun_colBump ..)
    refine .trans ?_ (flowRun_chmBump ..)
    exact (flowRun_colPut ..).trans (hwait _ _)

theorem flowRun_treeCheck (p c n : Nat) : FlowRun s (treeCheck s p c n) := by
  induction n generalizing s with
  | zero => exact .refl s
  | succ n ih =>
    have hents (t : State) (e : ColEnt) (l : List (Nat × Nat × Nat × Nat)) : FlowRun t (if l = e.ents then t else colPut t p c { e with ents := l }) := by
      split
      · exact .refl t
      · exact flowRun_colPut ..
    unfold treeCheck
    split
    · exact .refl s
    · dsimp only
      split
      · exact .refl s
      · split
        · exact hents ..
        · split
          · exact ((hents ..).trans (.foldl (fun t k => flowRun_kidPrune t ..) _ _)).trans (ih _)
          · exact hents ..

theorem flowRun_treesCheck : FlowRun s (treesCheck s) := .foldl (fun t _ => flowRun_treeCheck t ..) _ s

end

end Sys2Proof.Machine

/-!
SUPPORT and proofs for the host port's frames (R409–R413, R415): what a received frame counts, which frame a message becomes, and what leaves when a
priority resumes.
-/

namespace Sys2Proof.Machine

/-! Frames counted and sent. -/

theorem completes_all {f : State → State} {s : State} {P : State → Prop} (hc : Calm s) (hv : Calm (f (quiet s)))
    (hP : ∀ u, Follows s.pending (f (quiet s)) u → P u) : ∃ t, act f s = .next t ∧ P t := by
  obtain ⟨t, ht, hf⟩ := act_calm hc.run hv
  exact ⟨t, ht, hP t hf⟩

theorem rd_hstBump_same {s : State} (h : bit (rd s R.hstCtrl) 0 = false) (r : Reg) (k : Nat) :
    rd (hstBump s r k) r = (rd s r + k) % 2 ^ 48 := by rw [hstBump, rd_bump_same, h]; rfl

theorem counted_hstBump (s : State) (r : Reg) (n w : Nat) : Counted s (hstBump s r n w) [r] := counted_bump ..

theorem counted_hstErr (s : State) (kind q prio : Nat) : Counted s (hstErr s kind q prio) [R.hstErrLog, R.hstErrCount] := counted_logErr ..

/-- The registers that count a received frame. -/
def portRxRegs : List Reg := [R.hstRxFrames, R.hstRxBytes]

theorem counted_rx (s : State) (n k : Nat) : Counted s (hstBump (hstBump s R.hstRxFrames n) R.hstRxBytes k 64) portRxRegs :=
  ((counted_hstBump ..).mono (by simp [portRxRegs])).trans ((counted_hstBump ..).mono (by simp [portRxRegs]))

theorem counted_rxFree1 (s : State) : Counted s (rxFree1 s) portRxRegs :=
  ((counted_freeBits s 14).mono (by simp)).trans (counted_rx ..)

theorem Counted.hport {s t : State} {rs : List Reg} (h : Counted s t rs) : t.hport = s.hport := by rw [h.eq]
theorem Counted.tx {s t : State} {rs : List Reg} (h : Counted s t rs) : t.tx = s.tx := by rw [h.eq]
theorem Counted.parts {s t : State} {rs : List Reg} (h : Counted s t rs) : t.parts = s.parts := by rw [h.eq]
theorem Follows.hport {q : List Instr} {v u : State} (h : Follows q v u) : u.hport = v.hport := by rw [h.eq]
theorem Follows.tx {q : List Instr} {v u : State} (h : Follows q v u) : u.tx = v.tx := by rw [h.eq]

/-- The places of the registers that a frame is made of (R410, R417, R431). -/
def FrameReg (a : Nat) : Prop := a = R.hstCtrl.addr ∨ a = R.hstIpfixCfg.addr ∨ blkBase .hst 0 + 0x10000 ≤ a

theorem frameOf_congr {s t : State} (h : ∀ r : Reg, FrameReg r.addr → rd t r = rd s r) (m : HostMsg) : frameOf t m = frameOf s m := by
  have hqp (r : Reg) (hr : blkBase .hst 0 + 0x10000 ≤ r.addr) := h r (.inr (.inr hr))
  have hctl (q : Nat) := hqp (R.hstQpCtrlQ q) (by simp only [R.hstQpCtrlQ]; omega)
  have hpeer (q : Nat) : qpPeer t q = qpPeer s q := by
    simp only [qpPeer, rdf]
    rw [hqp (R.hstQpPeerQ q) (by simp only [R.hstQpPeerQ]; omega), hqp (R.hstQpMacQ q) (by simp only [R.hstQpMacQ]; omega),
      hqp (R.hstQpIpHiQ q) (by simp only [R.hstQpIpHiQ]; omega), hqp (R.hstQpIpLoQ q) (by simp only [R.hstQpIpLoQ]; omega)]
  have hprio (q : Nat) : qpPrio t q = qpPrio s q := by simp only [qpPrio, rdf, hctl]
  have hsize : (msgSize t m).1 = (msgSize s m).1 := by
    cases m
    case ipfix b => simp only [msgSize, rdf, h R.hstIpfixCfg (.inr (.inl rfl))]
    case request | ack | readData | cnp => exact hprio _
    all_goals rfl
  simp only [frameOf, hsize, rdf, h R.hstCtrl (.inl rfl), h R.hstIpfixCfg (.inr (.inl rfl)), hctl, funext hpeer]

/-- Registers below those of the queue pairs that no frame is made of. -/
def CountReg (a : Nat) : Prop := blkBase .hst 0 + 0x100 ≤ a ∧ a < blkBase .hst 0 + 0x10000


theorem Counted.frameOf {s t : State} {rs : List Reg} (h : Counted s t rs) (hr : ∀ r ∈ rs, CountReg r.addr) (m : HostMsg) :
    Machine.frameOf t m = Machine.frameOf s m := frameOf_congr (fun r hf => h.regs r fun hm => by
  obtain ⟨c, hc, he⟩ := List.mem_map.1 hm
  have := hr c hc
  simp only [FrameReg, CountReg, R.hstCtrl, R.hstIpfixCfg, blkBase] at hf this
  omega) m

theorem countReg_portRxRegs : ∀ r ∈ portRxRegs, CountReg r.addr := by
  simp only [portRxRegs, List.forall_mem_cons, List.not_mem_nil, false_imp_iff, implies_true, and_true]
  exact ⟨⟨by decide, by decide⟩, by decide, by decide⟩

/-- The registers that count a sent frame. -/
def portTxRegs : List Reg := [R.hstTxFrames, R.hstTxBytes]

theorem countReg_portTxRegs : ∀ r ∈ portTxRegs, CountReg r.addr := by
  simp only [portTxRegs, List.forall_mem_cons, List.not_mem_nil, false_imp_iff, implies_true, and_true]
  exact ⟨⟨by decide, by decide⟩, by decide, by decide⟩

theorem counted_hostOut (s : State) (m : HostMsg) : Counted { s with tx := s.tx ++ [frameOf s m] } (hostOut s m) portTxRegs :=
  ((counted_hstBump ..).mono (by simp [portTxRegs])).trans ((counted_hstBump ..).mono (by simp [portTxRegs]))

theorem rd_hostOut_frames {s : State} (h : bit (rd s R.hstCtrl) 0 = false) (m : HostMsg) :
    rd (hostOut s m) R.hstTxFrames = (rd s R.hstTxFrames + (msgSize s m).2.1) % 2 ^ 48 := by
  rw [hostOut, hstBump, rd_bump_other _ _ (by decide), rd_hstBump_same (by exact h)]
  rfl

section
variable {s w : State} {f : State → State}

/-- A frame that the port does not handle is dropped and counted (R411). -/
theorem dropped_other (hc : Calm s) (hw : Counted (quiet s) w portRxRegs) (e : f (quiet s) = hstBump w R.hstRxDropOther 1) :
    ∃ u, act f s = .next u ∧ u.tx = [] ∧
      (bit (rd s R.hstCtrl) 0 = false → rd u R.hstRxDropOther = (rd s R.hstRxDropOther + 1) % 2 ^ 48) ∧
      SameRegs s u [R.hstRxFrames, R.hstRxBytes, R.hstRxDropOther] := by
  have hall : Counted (quiet s) (hstBump w R.hstRxDropOther 1) [R.hstRxFrames, R.hstRxBytes, R.hstRxDropOther] :=
    (hw.mono (by simp [portRxRegs])).trans ((counted_hstBump ..).mono (by simp))
  refine completes_all hc (by rw [e]; exact hall.calm hc.quiet) fun u hf => ?_
  rw [e] at hf
  refine ⟨by rw [hf.tx, hall.tx]; rfl, fun on => ?_, .intro hf (by rw [hall.parts]; rfl) fun r hr => by rw [hall.regs r hr, rd_quiet]⟩
  rw [hf.rd _ (by decide), rd_hstBump_same (by rw [hw.regs R.hstCtrl (by decide)]; exact on), hw.regs _ (by decide), rd_quiet]

/-- The port answers a request for its address (R411). -/
theorem answered_request (hc : Calm s) (hw : Counted (quiet s) w portRxRegs) {m : HostMsg} (hm : (msgSize w m).1 = 0)
    (hp : bit s.hport.paused 0 = false) (e : f (quiet s) = hostEmit w m) :
    ∃ u, act f s = .next u ∧ u.tx = [frameOf s m] ∧ SameRegs s u [R.hstRxFrames, R.hstRxBytes, R.hstTxFrames, R.hstTxBytes] ∧
      (bit (rd s R.hstCtrl) 0 = false → rd u R.hstTxFrames = (rd s R.hstTxFrames + (msgSize w m).2.1) % 2 ^ 48) := by
  rw [hostEmit_unpaused m (by rw [hw.hport, hm]; exact hp)] at e
  have hout := counted_hostOut w m
  refine completes_all hc (by rw [e]; exact hout.calm ((hw.calm hc.quiet).of rfl rfl rfl rfl rfl rfl rfl)) fun u hf => ?_
  rw [e] at hf
  refine ⟨?_, .intro hf (by rw [hout.parts]; exact hw.parts) fun r hr => ?_, fun on => ?_⟩
  · rw [hf.tx, hout.tx, hw.tx, hw.frameOf countReg_portRxRegs]
    rfl
  · rw [hout.regs r fun h => hr (by simp only [portTxRegs, List.map_cons, List.mem_cons] at h ⊢; tauto)]
    exact (hw.regs r fun h => hr (by simp only [portRxRegs, List.map_cons, List.mem_cons] at h ⊢; tauto)).trans (rd_quiet s r)
  · rw [hf.rd _ (by decide), rd_hostOut_frames (by rw [hw.regs R.hstCtrl (by decide)]; exact on), hw.regs _ (by decide), rd_quiet]

end

/-! Requests for the port's address, and drops (R411, R412). -/

section
variable {s : State}

theorem arp_answered (hc : Calm s) (hup : s.hport.up = true) (hp : bit s.hport.paused 0 = false) {t : Nat} (ip mac : Nat)
    (hon : bit (rd s R.hstIpCfg) 32 = true) (ht : t = rdf s R.hstIpCfg 0 32) :
    Completes (.arpRequest t ip mac) s (fun u => u.tx = [frameOf s (.arpReply mac ip)] ∧
      SameRegs s u [R.hstRxFrames, R.hstRxBytes, R.hstTxFrames, R.hstTxBytes] ∧
      (bit (rd s R.hstCtrl) 0 = false → rd u R.hstTxFrames = (rd s R.hstTxFrames + 1) % 2 ^ 48)) := by
  refine answered_request (f := fun x => arpRequest x t ip mac) hc (counted_rx (quiet s) 1 64) (m := .arpReply mac ip) rfl hp ?_
  rw [arpRequest, if_neg (by simp [hup])]
  exact if_pos (by rw [rd_quiet, hon, Bool.true_and, decide_eq_true_eq]; exact ht)

theorem arp_other (hc : Calm s) (hup : s.hport.up = true) {t : Nat} (ip mac : Nat)
    (h : bit (rd s R.hstIpCfg) 32 = false ∨ t ≠ rdf s R.hstIpCfg 0 32) :
    Completes (.arpRequest t ip mac) s (fun u => u.tx = [] ∧
      (bit (rd s R.hstCtrl) 0 = false → rd u R.hstRxDropOther = (rd s R.hstRxDropOther + 1) % 2 ^ 48) ∧
      SameRegs s u [R.hstRxFrames, R.hstRxBytes, R.hstRxDropOther]) := by
  refine dropped_other (f := fun x => arpRequest x t ip mac) hc (counted_rx (quiet s) 1 64) ?_
  rw [arpRequest, if_neg (by simp [hup])]
  refine if_neg ?_
  rw [rd_quiet, Bool.and_eq_true, decide_eq_true_eq, not_and]
  rcases h with h | h
  · exact fun h1 => absurd h1 (by simp [h])
  · exact fun _ => h

theorem solicitation_answered (hc : Calm s) (hup : s.hport.up = true) (hp : bit s.hport.paused 0 = false) {t : Nat} (ip mac : Nat)
    (hon : bit (rd s R.hstIpCfg) 33 = true) (ht : t = 2 ^ 64 * rd s R.hstIp6Hi + rd s R.hstIp6Lo) :
    Completes (.neighborSolicitation t ip mac) s (fun u => u.tx = [frameOf s (.neighborAdv mac ip)] ∧
      SameRegs s u [R.hstRxFrames, R.hstRxBytes, R.hstTxFrames, R.hstTxBytes]) := by
  obtain ⟨u, hu, htx, hregs, -⟩ := answered_request (f := fun x => neighborSolicitation x t ip mac) hc (counted_rxFree1 (quiet s))
    (m := .neighborAdv mac ip) rfl hp (by
      rw [neighborSolicitation, if_neg (by simp [hup])]
      exact if_pos (by rw [rd_quiet, hon, Bool.true_and, decide_eq_true_eq]; exact ht))
  exact ⟨u, hu, htx, hregs⟩

theorem solicitation_other (hc : Calm s) (hup : s.hport.up = true) {t : Nat} (ip mac : Nat)
    (h : bit (rd s R.hstIpCfg) 33 = false ∨ t ≠ 2 ^ 64 * rd s R.hstIp6Hi + rd s R.hstIp6Lo) :
    Completes (.neighborSolicitation t ip mac) s (fun u => u.tx = [] ∧
      (bit (rd s R.hstCtrl) 0 = false → rd u R.hstRxDropOther = (rd s R.hstRxDropOther + 1) % 2 ^ 48) ∧
      SameRegs s u [R.hstRxFrames, R.hstRxBytes, R.hstRxDropOther]) := by
  refine dropped_other (f := fun x => neighborSolicitation x t ip mac) hc (counted_rxFree1 (quiet s)) ?_
  rw [neighborSolicitation, if_neg (by simp [hup])]
  refine if_neg ?_
  rw [rd_quiet, rd_quiet, rd_quiet, Bool.and_eq_true, decide_eq_true_eq, not_and]
  rcases h with h | h
  · exact fun h1 => absurd h1 (by simp [h])
  · exact fun _ => h

theorem frame_other (hc : Calm s) (hup : s.hport.up = true) {why : DropReason} (h : why = .badFrame ∨ why = .notHandled) :
    Completes (.ethFrameDrop why) s (fun u => u.tx = [] ∧
      (bit (rd s R.hstCtrl) 0 = false → rd u R.hstRxDropOther = (rd s R.hstRxDropOther + 1) % 2 ^ 48) ∧
      SameRegs s u [R.hstRxFrames, R.hstRxBytes, R.hstRxDropOther]) := by
  refine dropped_other (f := fun x => ethFrameDrop x why) hc (counted_rxFree1 (quiet s)) ?_
  rw [ethFrameDrop, if_neg (by simp [hup])]
  rcases h with rfl | rfl
  · rfl
  · rfl

theorem frame_icrc (hc : Calm s) (hup : s.hport.up = true) :
    Completes (.ethFrameDrop .icrc) s (fun u => u.tx = [] ∧
      (bit (rd s R.hstCtrl) 0 = false → rd u R.hstIcrcErr = (rd s R.hstIcrcErr + 1) % 2 ^ 48)) := by
  have e : ethFrameDrop (quiet s) .icrc = hstErr (hstBump (rxFree1 (quiet s)) R.hstIcrcErr 1) 3 0 0 := by
    rw [ethFrameDrop, if_neg (by simp [hup])]
  have hw := counted_rxFree1 (quiet s)
  have hb := counted_hstBump (rxFree1 (quiet s)) R.hstIcrcErr 1 48
  have hl := counted_hstErr (hstBump (rxFree1 (quiet s)) R.hstIcrcErr 1) 3 0 0
  refine completes_all (f := fun x => ethFrameDrop x .icrc) hc (by rw [e]; exact hl.calm (hb.calm (hw.calm hc.quiet))) fun u hf => ?_
  rw [e] at hf
  refine ⟨by rw [hf.tx, hl.tx, hb.tx, hw.tx]; rfl, fun on => ?_⟩
  rw [hf.rd _ (by decide), hl.regs _ (by decide), rd_hstBump_same (by rw [hw.regs R.hstCtrl (by decide)]; exact on), hw.regs _ (by decide), rd_quiet]

theorem frame_noRoom (hc : Calm s) (hup : s.hport.up = true) {p : Nat} (hp : p < 8) (hr : rxAdmit s p 9216 = false) :
    Completes (.ethFrameDrop (.poolFull p)) s (fun u => u.tx = [] ∧ u.hport = s.hport ∧
      (bit (rd s R.hstCtrl) 0 = false → rd u R.hstRxDropFull = (rd s R.hstRxDropFull + 1) % 2 ^ 48)) := by
  have e : ethFrameDrop (quiet s) (.poolFull p) = hstErr (hstBump (rxFree1 (quiet s)) R.hstRxDropFull 1) 2 0 p := by
    rw [ethFrameDrop, if_neg (by simp [hup])]
    exact if_pos (by rw [show rxAdmit (quiet s) p 9216 = false from hr]; simp [hp])
  have hw := counted_rxFree1 (quiet s)
  have hb := counted_hstBump (rxFree1 (quiet s)) R.hstRxDropFull 1 48
  have hl := counted_hstErr (hstBump (rxFree1 (quiet s)) R.hstRxDropFull 1) 2 0 p
  refine completes_all (f := fun x => ethFrameDrop x (.poolFull p)) hc (by rw [e]; exact hl.calm (hb.calm (hw.calm hc.quiet))) fun u hf => ?_
  rw [e] at hf
  refine ⟨by rw [hf.tx, hl.tx, hb.tx, hw.tx]; rfl, by rw [hf.hport, hl.hport, hb.hport, hw.hport]; rfl, fun on => ?_⟩
  rw [hf.rd _ (by decide), hl.regs _ (by decide), rd_hstBump_same (by rw [hw.regs R.hstCtrl (by decide)]; exact on), hw.regs _ (by decide), rd_quiet]

theorem frame_admitted (hc : Calm s) (hup : s.hport.up = true) {p : Nat} (hr : rxAdmit s p 9216 = true) :
    Leads (.ethFrameDrop (.poolFull p)) s (quiet s) := by
  refine lead_all (f := fun x => ethFrameDrop x (.poolFull p)) hc ?_ hc.quiet
  rw [ethFrameDrop, if_neg (by simp [hup])]
  exact if_neg (by rw [show rxAdmit (quiet s) p 9216 = true from hr]; simp)

/-! The port's link (R409). -/

theorem linkDown_logged (hc : Calm s) (hup : s.hport.up = true) :
    Completes (.hostLinkDown false) s (fun u => u.hport = { s.hport with up := false } ∧ SameRegs s u [R.hstErrLog, R.hstErrCount]) := by
  have e : hostLinkDown (quiet s) false = hstErr { quiet s with hport := { s.hport with up := false } } 6 0 0 := by
    rw [hostLinkDown]
    exact if_pos (by simp [hup])
  have hl := counted_hstErr { quiet s with hport := { s.hport with up := false } } 6 0 0
  refine completes_all (f := fun x => hostLinkDown x false) hc (by rw [e]; exact hl.calm (hc.quiet.of rfl rfl rfl rfl rfl rfl rfl)) fun u hf => ?_
  rw [e] at hf
  exact ⟨by rw [hf.hport, hl.hport], .intro hf (by rw [hl.parts]; rfl) fun r hr => by rw [hl.regs r hr]; rfl⟩

theorem linkUp_back (hc : Calm s) :
    Completes (.hostLinkDown true) s (fun u => u.hport.up = bit (rd s R.hstCtrl) 2 ∧ SameRegs s u []) := by
  have e : hostLinkDown (quiet s) true = { quiet s with hport := { s.hport with up := true && bit (rd (quiet s) R.hstCtrl) 2 } } := by
    rw [hostLinkDown]
    exact if_neg (by simp)
  refine completes_all (f := fun x => hostLinkDown x true) hc (by rw [e]; exact hc.quiet.of rfl rfl rfl rfl rfl rfl rfl) fun u hf => ?_
  rw [e] at hf
  exact ⟨by rw [hf.hport, rd_quiet, Bool.true_and], .intro hf rfl fun r _ => rfl⟩

/-! Pauses (R413, R415). -/

/-- Messages that leave the port one after another. -/
theorem counted_hostOuts (l : List (Nat × HostMsg)) (s : State) :
    Counted { s with tx := s.tx ++ l.map (fun e => frameOf s e.2) } (l.foldl (fun t e => hostOut t e.2) s) portTxRegs := by
  induction l generalizing s with
  | nil => simpa using Counted.refl s portTxRegs
  | cons e l ih =>
    have h1 := counted_hostOut s e.2
    have hf (m : HostMsg) : frameOf (hostOut s e.2) m = frameOf s m := (h1.frameOf countReg_portTxRegs m).trans rfl
    have h2 := ih (hostOut s e.2)
    simp only [hf] at h2
    have h3 : Counted { s with tx := s.tx ++ (e :: l).map (fun e => frameOf s e.2) }
        { hostOut s e.2 with tx := (hostOut s e.2).tx ++ l.map (fun e => frameOf s e.2) } portTxRegs :=
      ⟨by rw [h1.eq, List.append_assoc]; rfl, fun r hr => h1.regs r hr⟩
    exact h3.trans h2

/-- The port with a priority resumed: what waited for it waits no longer. -/
def resumed (s : State) (p : Nat) : State :=
  { s with hport := { s.hport with paused := setBits s.hport.paused p 1 0, wait := s.hport.wait.filter (fun e => e.1 ≠ p) } }

theorem counted_pauseEnd (s : State) (p : Nat) :
    Counted { resumed s p with tx := s.tx ++ (s.hport.wait.filter (fun e => e.1 = p)).map (fun e => frameOf s e.2) } (pauseEnd s p) portTxRegs :=
  counted_hostOuts (s.hport.wait.filter (fun e => e.1 = p)) (resumed s p)

theorem calm_pauseEnd (hc : Calm s) (p : Nat) : Calm (pauseEnd s p) :=
  (counted_pauseEnd s p).calm (hc.of rfl rfl rfl rfl rfl rfl rfl)

theorem pauseExpiry_resumes (hc : Calm s) {p : Nat} (hp : p < 8) (hb : bit s.hport.paused p = true) :
    Completes (.pfcPauseExpiry p) s (fun u => bit u.hport.paused p = false ∧
      u.tx = (s.hport.wait.filter (fun e => e.1 = p)).map (fun e => frameOf s e.2) ∧ u.hport.wait = s.hport.wait.filter (fun e => e.1 ≠ p)) := by
  have e : pfcPauseExpiry (quiet s) p = pauseEnd (quiet s) p := by
    rw [pfcPauseExpiry]
    exact if_pos (by simp [hp, hb])
  have hcnt := counted_pauseEnd (quiet s) p
  refine completes_act hc hp (by rw [e]; exact calm_pauseEnd hc.quiet p) fun u hf => ?_
  rw [e] at hf
  refine ⟨?_, ?_, by rw [hf.hport, hcnt.hport]; rfl⟩
  · rw [hf.hport, hcnt.hport, resumed, bit_setBits_same]
    rfl
  · rw [hf.tx, hcnt.tx]
    rfl

theorem refresh_sends (hc : Calm s) {p : Nat} (hp : p < 8) (hb : bit s.hport.xoff p = true) (hon : pfcOn s = true) :
    Completes (.pfcRefresh p) s (fun u => u.tx = [frameOf s (.pfc p 65535)] ∧ u.hport = s.hport) := by
  have e : pfcRefresh (quiet s) p = hostOut (hstBump (quiet s) (R.hstPauseTxI p) 1) (.pfc p 65535) := by
    rw [pfcRefresh]
    exact if_pos (by rw [show pfcOn (quiet s) = true from hon]; simp [hp, hb])
  have hw := counted_hstBump (quiet s) (R.hstPauseTxI p) 1 48
  have hreg : ∀ r ∈ [R.hstPauseTxI p], CountReg r.addr := by
    simp only [List.mem_singleton, forall_eq, CountReg, R.hstPauseTxI, blkBase]
    omega
  have hout := counted_hostOut (hstBump (quiet s) (R.hstPauseTxI p) 1) (.pfc p 65535)
  refine completes_act hc hp (by rw [e]; exact hout.calm ((hw.calm hc.quiet).of rfl rfl rfl rfl rfl rfl rfl)) fun u hf => ?_
  rw [e] at hf
  refine ⟨?_, by rw [hf.hport, hout.hport]; exact hw.hport⟩
  rw [hf.tx, hout.tx, hw.tx, hw.frameOf hreg]
  rfl

/-- What a received PFC frame does to priority `i`. -/
def pfcTake (named : BitVec 8) (quanta : Nat) (t : State) (i : Nat) : State :=
  if !bit named.toNat i then t
  else if quanta = 0 then pauseEnd t i
  else hstBump { t with hport := { t.hport with paused := setBits t.hport.paused i 1 1 } } (R.hstPauseRxI i) 1

theorem calm_pfcTake (hc : Calm s) (named : BitVec 8) (quanta i : Nat) : Calm (pfcTake named quanta s i) := by
  unfold pfcTake
  split
  · exact hc
  · split
    · exact calm_pauseEnd hc i
    · exact (counted_hstBump ..).calm (hc.of rfl rfl rfl rfl rfl rfl rfl)

theorem paused_pfcTake (s : State) (named : BitVec 8) (quanta i k : Nat) :
    bit (pfcTake named quanta s i).hport.paused k =
      if k = i ∧ bit named.toNat i = true then decide (quanta ≠ 0) else bit s.hport.paused k := by
  have hbit (v : Nat) : bit (setBits s.hport.paused i 1 v) k = if k = i then decide (v % 2 = 1) else bit s.hport.paused k := by
    split
    case isTrue h => rw [h, bit_setBits_same]
    case isFalse h => exact bit_setBits_other _ _ (by omega)
  unfold pfcTake
  cases hn : bit named.toNat i
  · simp
  · simp only [Bool.not_true, Bool.false_eq_true, if_false, and_true]
    split
    case isTrue h0 =>
      rw [(counted_pauseEnd s i).hport, resumed, hbit]
      simp [h0]
    case isFalse h0 =>
      rw [(counted_hstBump ..).hport, hbit]
      simp [h0]

theorem paused_pfcTakes (named : BitVec 8) (quanta k : Nat) (l : List Nat) (s : State) :
    bit (l.foldl (pfcTake named quanta) s).hport.paused k =
      if k ∈ l ∧ bit named.toNat k = true then decide (quanta ≠ 0) else bit s.hport.paused k := by
  induction l generalizing s with
  | nil => simp
  | cons i l ih =>
    rw [List.foldl_cons, ih, paused_pfcTake]
    by_cases hki : k = i
    · subst hki
      by_cases hn : bit named.toNat k = true
      · simp [hn]
      · simp [hn]
    · simp [hki]

theorem calm_pfcTakes (named : BitVec 8) (quanta : Nat) (l : List Nat) (hc : Calm s) : Calm (l.foldl (pfcTake named quanta) s) := by
  induction l generalizing s with
  | nil => exact hc
  | cons i l ih => exact ih (calm_pfcTake hc named quanta i)

theorem pfc_pauses (hc : Calm s) (hup : s.hport.up = true) (hon : pfcOn s = true) (named : BitVec 8) (quanta : Nat) :
    Completes (.pfcReceive named quanta) s (fun u =>
      ∀ i, i < 8 → bit u.hport.paused i = if bit named.toNat i then decide (quanta ≠ 0) else bit s.hport.paused i) := by
  have e : pfcReceive (quiet s) named quanta = (List.range 8).foldl (pfcTake named quanta)
      (hstBump (hstBump (quiet s) R.hstRxFrames 1) R.hstRxBytes 64 64) := by
    rw [pfcReceive, if_neg (by simp [hup])]
    exact if_neg (by rw [show pfcOn (quiet s) = true from hon]; simp)
  have hw := counted_rx (quiet s) 1 64
  refine completes_all (f := fun x => pfcReceive x named quanta) hc (by rw [e]; exact calm_pfcTakes _ _ _ (hw.calm hc.quiet)) fun u hf i hi => ?_
  rw [e] at hf
  rw [hf.hport, paused_pfcTakes, hw.hport]
  simp [hi]

end

/-- Settles O44: each frame changes the counters of the port, and a pause only the bits and the queue of the priorities it names; what waits leaves as the
frames that it was (`frameOf_congr`). -/
theorem hostFrames : Obligations.HostFrames := by
  unfold Obligations.HostFrames
  intro s hc
  refine ⟨fun hup hp => ⟨fun t ip mac => arp_answered hc hup hp ip mac, fun t ip mac => solicitation_answered hc hup hp ip mac⟩,
    fun hup => ⟨fun t ip mac => arp_other hc hup ip mac, fun t ip mac => solicitation_other hc hup ip mac, fun why => frame_other hc hup,
      frame_icrc hc hup, fun p => frame_noRoom hc hup, fun p _ => frame_admitted hc hup, fun named quanta hon => pfc_pauses hc hup hon named quanta,
      linkDown_logged hc hup⟩,
    fun p => refresh_sends hc, fun p => pauseExpiry_resumes hc, linkUp_back hc⟩

end Sys2Proof.Machine

/-!
SUPPORT and proofs for the measures (R431, R475, R477, R482, R492, R528, R575): registers written one after another, samples for IPFIX, and the
exported messages.
-/

namespace Sys2Proof.Machine

/-! Registers written one after another. -/

section
variable {α : Type} (g : α → Reg) (v : α → Nat)

/-- Each of the registers that `g` lists is given its value. -/
def wrAll (l : List α) (s : State) : State := l.foldl (fun t a => wr t (g a) (v a)) s

theorem counted_wrAll (l : List α) (s : State) : Counted s (wrAll g v l s) (l.map g) := by
  induction l generalizing s with
  | nil => exact .refl s _
  | cons a l ih => exact ((counted_wr s (g a) (v a)).mono (by simp)).trans ((ih (wr s (g a) (v a))).mono (by simp +contextual))

theorem rd_wrAll {l : List α} {a : α} (ha : a ∈ l) (hinj : ∀ b ∈ l, (g b).addr = (g a).addr → b = a) (s : State) :
    rd (wrAll g v l s) (g a) = v a := by
  induction l generalizing s with
  | nil => cases ha
  | cons b l ih =>
    by_cases hmem : a ∈ l
    · exact ih hmem (fun c hc => hinj c (List.mem_cons_of_mem _ hc)) _
    · have hb : a = b := (List.mem_cons.1 ha).resolve_right hmem
      subst hb
      refine ((counted_wrAll g v l _).regs _ fun hm => ?_).trans (rd_wr_same ..)
      obtain ⟨r, hr, he⟩ := List.mem_map.1 hm
      obtain ⟨c, hcl, rfl⟩ := List.mem_map.1 hr
      rw [hinj c (List.mem_cons_of_mem _ hcl) he] at hcl
      exact hmem hcl

end

/-! Samples (R477, R492). -/

/-- From `s` to `t` counters are sampled for IPFIX. -/
def Sampled (s t : State) : Prop := t = { s with ipfix := t.ipfix }

section
variable {s t : State}

theorem Sampled.refl (s : State) : Sampled s s := rfl

theorem Sampled.trans {u : State} (h : Sampled s t) (k : Sampled t u) : Sampled s u := by
  unfold Sampled at *
  rw [h] at k
  exact k

theorem Sampled.foldl {α : Type} {f : State → α → State} (hf : ∀ t a, Sampled t (f t a)) (l : List α) (s : State) : Sampled s (l.foldl f s) := by
  induction l generalizing s with
  | nil => exact .refl s
  | cons a l ih => exact (hf s a).trans (ih _)

theorem sampled_sample (s : State) (e : Nat × Reg × Nat) : Sampled s (sample s e) := by
  unfold sample owe
  dsimp only
  split_ifs <;> rfl

theorem sampled_sampleAll (s : State) (l : List (Nat × Reg × Nat)) : Sampled s (sampleAll s l) := .foldl sampled_sample l s

theorem sampled_blkSample (s : State) (lo n : Nat) : Sampled s (blkSample s lo n) := by
  refine .trans (.foldl (fun t h => ?_) (List.range 256) s) (sampled_sampleAll ..)
  split
  · exact sampled_sampleAll ..
  · exact .refl t

theorem sampled_allSample (s : State) : Sampled s (allSample s) := (Sampled.foldl (fun _ _ => sampled_sampleAll ..) _ s).trans (sampled_sampleAll ..)

theorem Sampled.rd (h : Sampled s t) (r : Reg) : Machine.rd t r = Machine.rd s r := by
  rw [show t = _ from h]
  rfl

theorem Sampled.calm (h : Sampled s t) (hc : Calm s) : Calm t := by
  rw [show t = _ from h]
  exact hc.of rfl rfl rfl rfl rfl rfl rfl

theorem completes_stkAll {f : State → State} {P : State → Prop} (hc : Calm s) (hv : Calm (f (quiet s)))
    (hP : ∀ u, Follows s.pending (f (quiet s)) u → P u) : ∃ t, actStk f s = .next t ∧ P t := by
  obtain ⟨t, ht, hf⟩ := actStk_calm hc.run hc.here hv
  exact ⟨t, ht, hP t hf⟩

/-! Counters and logs cleared (R477, R575). -/

theorem counterClear_clears (hc : Calm s) (b : Blk) (inst : Nat) :
    Completes (.counterClear b inst) s (fun u =>
      (∀ r : Reg, r.addr ∉ noteRegs →
        rd u r = if blkBase b inst ≤ r.addr ∧ r.addr < blkBase b inst + blkSize b ∧ isCounter r.addr = true then r.rst else rd s r) ∧
      u = { s with csr := u.csr, parts := u.parts, ipfix := u.ipfix, tx := [] }) := by
  have hw := sampled_blkSample (quiet s) (blkBase b inst) (blkSize b)
  have e : counterClear (quiet s) b inst = { quiet s with csr := (counterClear (quiet s) b inst).csr, ipfix := (counterClear (quiet s) b inst).ipfix } := by
    unfold counterClear
    dsimp only
    rw [show blkSample (quiet s) _ _ = _ from hw]
  have hrd (r : Reg) : rd (counterClear (quiet s) b inst) r =
      if blkBase b inst ≤ r.addr ∧ r.addr < blkBase b inst + blkSize b ∧ isCounter r.addr = true then r.rst else rd s r := by
    have hr : rd (blkSample (quiet s) (blkBase b inst) (blkSize b)) r = rd s r := hw.rd r
    simp only [rd, tgetD] at hr ⊢
    unfold counterClear
    dsimp only
    rw [tget_filter_key _ (fun a => decide (a < blkBase b inst) || decide (blkBase b inst + blkSize b ≤ a) || !isCounter a)]
    by_cases hin : blkBase b inst ≤ r.addr ∧ r.addr < blkBase b inst + blkSize b ∧ isCounter r.addr = true
    · obtain ⟨h1, h2, h3⟩ := hin
      rw [if_neg (by simp [h1, h2, h3]), if_pos ⟨h1, h2, h3⟩]
      rfl
    · rw [if_neg hin, if_pos, hr]
      cases hk : isCounter r.addr
      · simp
      · simp only [hk, and_true, not_and, not_lt] at hin
        simp only [Bool.not_true, Bool.or_false, Bool.or_eq_true, decide_eq_true_eq]
        omega
  have hcalm : Calm (counterClear (quiet s) b inst) := by
    rw [e]
    exact hc.quiet.of rfl rfl rfl rfl rfl rfl rfl
  refine completes_stkAll (f := fun x => counterClear x b inst) hc hcalm fun u hf => ⟨fun r hn => (hf.rd r hn).trans (hrd r), ?_⟩
  have he := hf.eq
  rw [e] at he
  rw [State.mk.injEq] at he ⊢
  simp [hc.aborts, hc.faults, hc.free] at he ⊢
  tauto

theorem errLog_clears (hc : Calm s) {b : Blk} {inst : Nat} {l c : Reg} (hlog : errLogOf b inst = some (l, c)) (hl : l.addr ∉ noteRegs)
    (hn : c.addr ∉ noteRegs) (hne : l.addr ≠ c.addr) :
    Completes (.errLogClear b inst) s (fun u => RegsOnly s u [l, c] ∧ rd u l = setBits (rd s l) 0 1 0 ∧ rd u c = 0) := by
  have e : errLogClear (quiet s) b inst = wr (wrf (quiet s) l 0 1 0) c 0 := by rw [errLogClear, hlog]
  have hcnt : Counted (quiet s) (wr (wrf (quiet s) l 0 1 0) c 0) [l, c] :=
    ((counted_wrf ..).mono (by simp)).trans ((counted_wr ..).mono (by simp))
  refine completes_stkAll (f := fun x => errLogClear x b inst) hc (by rw [e]; exact hcnt.calm hc.quiet) fun u hf => ?_
  rw [e] at hf
  refine ⟨.intro hc hf (by rw [quiet_eq hc.free]; rfl) fun r hr => hcnt.regs r hr, ?_, ?_⟩
  · rw [hf.rd l hl, rd_wr_other _ hne, wrf, rd_wr_same, rd_quiet]
  · rw [hf.rd c hn, rd_wr_same]

end

/-- Settles O17: the clear is a filter of the register file by address (`tget_filter_key`), after samples that change no register. -/
theorem countersAndLogsClear : Obligations.CountersAndLogsClear := by
  unfold Obligations.CountersAndLogsClear
  exact ⟨fun s b inst hc => counterClear_clears hc b inst, fun s b inst l c hc hlog hl hn hne => errLog_clears hc hlog hl hn hne⟩

theorem Sampled.parts {s t : State} (h : Sampled s t) : t.parts = s.parts := by rw [show t = _ from h]

/-! Histograms and clocks (R475, R482). -/

section
variable {s : State}

theorem mem_histRegs {h b : Nat} : (h, b) ∈ histRegs ↔ h < 27 ∧ b < 32 := by simp [histRegs]

/-- The places of the bins' counters do not meet: 0x100 bytes of live bins, then 0x100 of snapshots, for each histogram. -/
theorem bin_injective {a : Nat} {x y : Nat × Nat} (hx : x ∈ histRegs) (hy : y ∈ histRegs)
    (h : a + y.1 * 0x200 + y.2 * 8 = a + x.1 * 0x200 + x.2 * 8) : y = x := by
  obtain ⟨h1, b1⟩ := x
  obtain ⟨h2, b2⟩ := y
  rw [mem_histRegs] at hx hy
  dsimp only at h
  exact Prod.ext (show h2 = h1 by omega) (show b2 = b1 by omega)

theorem histReg_note {a h b : Nat} (ha : 0x6000000 ≤ a) : a + h * 0x200 + b * 8 ∉ noteRegs := by
  simp only [noteRegs, R.prtErrLog, R.prtErrCount, blkBase, List.mem_cons, List.not_mem_nil, or_false]
  omega

theorem histSnap_copies (hc : Calm s) : Completes .histSnap s (fun u =>
    (∀ h b, h < 27 → b < 32 → rd u (R.telHsnapHB h b) = rd s (R.telHistHB h b)) ∧
    SameRegs s u (histRegs.map (fun e => R.telHsnapHB e.1 e.2))) := by
  let g (e : Nat × Nat) : Reg := R.telHsnapHB e.1 e.2
  let v (e : Nat × Nat) : Nat := rd s (R.telHistHB e.1 e.2)
  have e : histSnap (quiet s) = wrAll g v histRegs (quiet s) := rfl
  have hcnt := counted_wrAll g v histRegs (quiet s)
  refine completes_stkAll hc (by rw [e]; exact hcnt.calm hc.quiet) fun u hf => ?_
  rw [e] at hf
  refine ⟨fun h b hh hb => ?_, .intro hf (by rw [hcnt.parts]; rfl) fun r hr => by rw [hcnt.regs r hr, rd_quiet]⟩
  have hm := mem_histRegs.2 ⟨hh, hb⟩
  exact (hf.rd _ (histReg_note (by decide))).trans (rd_wrAll g v hm (fun c hcm he => bin_injective hm hcm he) _)

theorem histClr_clears (hc : Calm s) : Completes .histClr s (fun u =>
    (∀ h b, h < 27 → b < 32 → rd u (R.telHistHB h b) = 0) ∧ SameRegs s u (histRegs.map (fun e => R.telHistHB e.1 e.2))) := by
  let g (e : Nat × Nat) : Reg := R.telHistHB e.1 e.2
  have hsmp := sampled_sampleAll (quiet s) histItems
  have hcnt := counted_wrAll g (fun _ => 0) histRegs (sampleAll (quiet s) histItems)
  have hz : Sampled (wrAll g (fun _ => 0) histRegs (sampleAll (quiet s) histItems)) (histClr (quiet s)) := rfl
  refine completes_stkAll hc (hz.calm (hcnt.calm (hsmp.calm hc.quiet))) fun u hf => ⟨fun h b hh hb => ?_, .intro hf ?_ fun r hr => ?_⟩
  · have hm := mem_histRegs.2 ⟨hh, hb⟩
    exact ((hf.rd _ (histReg_note (by decide))).trans (hz.rd _)).trans (rd_wrAll g _ hm (fun c hcm he => bin_injective hm hcm he) _)
  · rw [hz.parts, hcnt.parts, hsmp.parts, quiet_parts]
  · rw [hz.rd, hcnt.regs r hr, hsmp.rd, rd_quiet]

/-- What a measurement shows of a clock domain. -/
def clkShown (s : State) (khz : List Nat) (d : Nat) : Nat := if clkDown s d then 0 else khz.getD d 0 % 2 ^ 32

theorem clkShown_quiet (s : State) (khz : List Nat) : clkShown (quiet s) khz = clkShown s khz := rfl

theorem clocks_shown (hc : Calm s) (khz : List Nat) : Completes (.clockMeasure khz) s (fun u =>
    (∀ d, d < 23 → rd u (R.telClkD d) = if clkDown s d then 0 else khz.getD d 0 % 2 ^ 32) ∧ SameRegs s u ((List.range 23).map R.telClkD)) := by
  have e : clockMeasure (quiet s) khz = wrAll R.telClkD (clkShown (quiet s) khz) (List.range 23) (quiet s) := by
    rw [clockMeasure, if_neg (by simp [hc.here])]
    rfl
  rw [clkShown_quiet] at e
  have hcnt := counted_wrAll R.telClkD (clkShown s khz) (List.range 23) (quiet s)
  refine completes_stkAll (f := fun x => clockMeasure x khz) hc (by rw [e]; exact hcnt.calm hc.quiet) fun u hf => ?_
  rw [e] at hf
  refine ⟨fun d hd => ?_, .intro hf (by rw [hcnt.parts]; rfl) fun r hr => by rw [hcnt.regs r hr, rd_quiet]⟩
  rw [← clkShown]
  refine (hf.rd _ ?_).trans (rd_wrAll R.telClkD _ (List.mem_range.2 hd) (fun c _ he => ?_) _)
  · simp only [noteRegs, R.telClkD, R.prtErrLog, R.prtErrCount, blkBase, List.mem_cons, List.not_mem_nil, or_false]
    omega
  · simp only [R.telClkD] at he
    omega

end

/-! Exporting (R431, R492). -/

/-- The registers that the frame of an exported message is made of. -/
def exportRegs : List Reg := R.hstIpfixCfg :: frameRegs 1024

theorem frameOf_ipfix_congr {s t : State} (h : ∀ r ∈ exportRegs, rd t r = rd s r) (b : List Byte) :
    frameOf t (.ipfix b) = frameOf s (.ipfix b) := by
  simp only [exportRegs, frameRegs, List.forall_mem_cons, List.not_mem_nil, false_imp_iff, implies_true, and_true] at h
  obtain ⟨hcfg, hctrl, hqp, hpeer, hmac, hhi, hlo⟩ := h
  have hprio : (msgSize t (.ipfix b)).1 = (msgSize s (.ipfix b)).1 := by simp only [msgSize, rdf, hcfg]
  simp [frameOf, hprio, msgQp, qpPeer, rdf, hcfg, hctrl, hpeer, hmac, hhi, hlo]

/-- From `s` to `t` exported messages leave: of the device only counters, the port and what is kept for exporting change, and only IPFIX
messages are sent. -/
structure Exports (s t : State) : Prop where
  eq : t = { s with csr := t.csr, fresh := t.fresh, hport := t.hport, tx := t.tx, ipfix := t.ipfix }
  frame : ∀ r ∈ exportRegs, rd t r = rd s r
  sent : ∀ f ∈ t.tx, f ∈ s.tx ∨ ∃ b, f = frameOf s (.ipfix b)

section
variable {s t : State}

theorem Exports.refl (s : State) : Exports s s := ⟨rfl, fun _ _ => rfl, fun _ h => .inl h⟩

theorem Exports.trans {u : State} (h : Exports s t) (k : Exports t u) : Exports s u where
  eq := by
    have e := k.eq
    rw [h.eq] at e
    exact e
  frame := fun r hr => (k.frame r hr).trans (h.frame r hr)
  sent := fun f hf => by
    rcases k.sent f hf with hf | ⟨b, rfl⟩
    · exact h.sent f hf
    · exact .inr ⟨b, frameOf_ipfix_congr h.frame b⟩

theorem Exports.foldl {α : Type} {f : State → α → State} (hf : ∀ t a, Exports t (f t a)) (l : List α) (s : State) : Exports s (l.foldl f s) := by
  induction l generalizing s with
  | nil => exact .refl s
  | cons a l ih => exact (hf s a).trans (ih _)

theorem Exports.calm (h : Exports s t) (hc : Calm s) : Calm t := by
  rw [h.eq]
  exact hc.of rfl rfl rfl rfl rfl rfl rfl

theorem Counted.exports {rs : List Reg} (h : Counted s t rs) (hr : ∀ r ∈ exportRegs, r.addr ∉ rs.map Reg.addr) : Exports s t :=
  ⟨by rw [h.eq], fun r hm => h.regs r (hr r hm), fun f hf => .inl (by rwa [h.tx] at hf)⟩

theorem Sampled.exports (h : Sampled s t) : Exports s t :=
  ⟨by rw [show t = _ from h], fun r _ => h.rd r, fun f hf => .inl (by rw [show t = _ from h] at hf; exact hf)⟩

/-- An exported message that the transmit pool has room for leaves, or waits for its priority. -/
theorem exports_hostEmit (s : State) {b : List Byte} (hroom : ¬ 262144 < txPool s + (msgSize s (.ipfix b)).2.2) :
    Exports s (hostEmit s (.ipfix b)) := by
  unfold hostEmit
  dsimp only
  rw [if_neg hroom]
  split
  · exact ⟨rfl, fun _ _ => rfl, fun _ h => .inl h⟩
  · have hout := counted_hostOut s (.ipfix b)
    refine .trans (t := { s with tx := s.tx ++ [frameOf s (.ipfix b)] }) ⟨rfl, fun _ _ => rfl, fun f hf => ?_⟩ (hout.exports (by decide))
    rcases List.mem_append.1 hf with hf | hf
    · exact .inl hf
    · exact .inr ⟨b, List.mem_singleton.1 hf⟩

theorem exports_ipfixOut (s : State) (b : List Byte) (n : Nat) : Exports s (ipfixOut s b n) := by
  unfold ipfixOut
  dsimp only
  split
  · exact ((counted_hstBump s R.hstIpfixDrop 1 48).exports (by decide)).trans ((counted_hstErr ..).exports (by decide))
  case isFalse hroom =>
    have hnum (w : State) (x : HostPort) : Exports w { w with hport := x } := ⟨rfl, fun _ _ => rfl, fun _ h => .inl h⟩
    exact ((exports_hostEmit s hroom).trans (hnum _ _)).trans ((counted_bump (r := R.telIpfixRecords) ..).exports (by decide))

theorem exports_ipfixRecords (s : State) (k : Nat) (rs : List (List Byte)) : Exports s (ipfixRecords s k rs) :=
  .foldl (fun u _ => exports_ipfixOut u ..) _ s

theorem ipfixOn_quiet (hc : Calm s) : ipfixOn (quiet s) = bit (rd s R.hstIpfixCfg) 0 := by
  rw [ipfixOn, rd_quiet, show (quiet s).away = false from hc.here]
  simp

/-- Exporting is its messages, after which no increase is owed. -/
theorem ipfixExport_eq (hon : ipfixOn s = true) : ∃ w, Exports s w ∧ ipfixExport s = { w with ipfix := { w.ipfix with owed := [] } } := by
  have h0 : Exports s (freeBits (allSample s) 8).2 := (sampled_allSample s).exports.trans ((counted_freeBits _ 8).exports (by simp))
  unfold ipfixExport
  rw [if_neg (by simp [hon])]
  generalize freeBits (allSample s) 8 = f at h0
  refine ⟨_, ?_, rfl⟩
  exact (((((((h0.trans (exports_ipfixRecords ..)).trans (exports_ipfixRecords ..)).trans (exports_ipfixRecords ..)).trans
    (exports_ipfixRecords ..)).trans (exports_ipfixRecords ..)).trans (exports_ipfixRecords ..)).trans (exports_ipfixRecords ..))

theorem export_sends (hc : Calm s) (hon : bit (rd s R.hstIpfixCfg) 0 = true) :
    Completes .ipfixExport s (fun u => u.ipfix.owed = [] ∧ ∀ f ∈ u.tx, ∃ b, f = frameOf s (.ipfix b)) := by
  have hend (w : State) : Exports w { w with ipfix := { w.ipfix with owed := [] } } := ⟨rfl, fun _ _ => rfl, fun _ h => .inl h⟩
  obtain ⟨w, hw, e⟩ := ipfixExport_eq (s := quiet s) (by rw [ipfixOn_quiet hc, hon])
  have hall := hw.trans (hend w)
  refine completes_all hc (by rw [e]; exact hall.calm hc.quiet) fun u hf => ?_
  rw [e] at hf
  refine ⟨by rw [hf.eq], fun f hm => ?_⟩
  rw [hf.tx] at hm
  rcases hall.sent f hm with hm | hm
  · exact absurd hm (List.not_mem_nil)
  · exact hm

/-- The set of the templates, and the message that carries it (R431). -/
def templateSet (s : State) : List Byte := ipfixSet 2 ((List.range 7).flatMap (fun i => tplBytes s (256 + i)))
def templateBytes (s : State) : List Byte := ipfixMsg s (templateSet s)

theorem ipfixRefresh_on (hon : ipfixOn s = true) : ipfixRefresh s = ipfixOut s (templateSet s) 0 := if_pos hon

theorem ipfixOut_sends {b : List Byte} {n : Nat} (hroom : txPool s + (msgSize s (.ipfix (ipfixMsg s b))).2.2 ≤ 262144)
    (hp : bit s.hport.paused (msgSize s (.ipfix (ipfixMsg s b))).1 = false) :
    (ipfixOut s b n).tx = s.tx ++ [frameOf s (.ipfix (ipfixMsg s b))] ∧ (ipfixOut s b n).hport.wait = s.hport.wait := by
  have hout := counted_hostOut s (.ipfix (ipfixMsg s b))
  unfold ipfixOut
  dsimp only
  rw [if_neg (Nat.not_lt.2 hroom), hostEmit_unpaused _ hp, telBump, bump_tx, bump_hport]
  exact ⟨hout.tx, by rw [hout.hport]⟩

theorem templates_sent (hc : Calm s) (hon : bit (rd s R.hstIpfixCfg) 0 = true)
    (hroom : txPool s + (msgSize s (.ipfix (templateBytes s))).2.2 ≤ 262144)
    (hp : bit s.hport.paused (msgSize s (.ipfix (templateBytes s))).1 = false) :
    Completes .ipfixTemplateRefresh s (fun u => u.tx = [frameOf s (.ipfix (templateBytes s))] ∧ u.hport.wait = s.hport.wait) := by
  have e := ipfixRefresh_on (s := quiet s) (by rw [ipfixOn_quiet hc, hon])
  have hcalm := (exports_ipfixOut (quiet s) (templateSet (quiet s)) 0).calm hc.quiet
  obtain ⟨htx, hwait⟩ := ipfixOut_sends (s := quiet s) (b := templateSet (quiet s)) (n := 0) hroom hp
  refine completes_all hc (by rw [e]; exact hcalm) fun u hf => ?_
  rw [e] at hf
  exact ⟨hf.tx.trans htx, (congrArg HostPort.wait hf.hport).trans hwait⟩

theorem templates_dropped (hc : Calm s) (hon : bit (rd s R.hstIpfixCfg) 0 = true)
    (hroom : 262144 < txPool s + (msgSize s (.ipfix (templateBytes s))).2.2) :
    Completes .ipfixTemplateRefresh s (fun u => u.tx = [] ∧ u.hport = s.hport ∧
      (bit (rd s R.hstCtrl) 0 = false → rd u R.hstIpfixDrop = (rd s R.hstIpfixDrop + 1) % 2 ^ 48)) := by
  have e : ipfixRefresh (quiet s) = hstErr (hstBump (quiet s) R.hstIpfixDrop 1) 7 0 0 := by
    rw [ipfixRefresh_on (by rw [ipfixOn_quiet hc, hon]), ipfixOut]
    exact if_pos hroom
  have hb := counted_hstBump (quiet s) R.hstIpfixDrop 1 48
  have hl := counted_hstErr (hstBump (quiet s) R.hstIpfixDrop 1) 7 0 0
  refine completes_all hc (by rw [e]; exact hl.calm (hb.calm hc.quiet)) fun u hf => ?_
  rw [e] at hf
  refine ⟨by rw [hf.tx, hl.tx, hb.tx]; rfl, by rw [hf.hport, hl.hport, hb.hport]; rfl, fun on => ?_⟩
  rw [hf.rd _ (by decide), hl.regs _ (by decide), rd_hstBump_same (by exact on), rd_quiet]

theorem export_off (hc : Calm s) (hoff : bit (rd s R.hstIpfixCfg) 0 = false) :
    Leads .ipfixExport s (quiet s) ∧ Leads .ipfixTemplateRefresh s (quiet s) := by
  have h : ipfixOn (quiet s) = false := by rw [ipfixOn_quiet hc, hoff]
  exact ⟨lead_all hc (by rw [ipfixExport, if_pos (by simp [h])]) hc.quiet, lead_all hc (by rw [ipfixRefresh, if_neg (by simp [h])]) hc.quiet⟩

end

/-- Settles O49: bins and clocks are writes at places that do not meet (`rd_wrAll`); each step of exporting keeps the registers that its frames are made
of (`Exports`). -/
theorem measuresTaken : Obligations.MeasuresTaken := by
  unfold Obligations.MeasuresTaken
  exact fun s hc => ⟨histSnap_copies hc, histClr_clears hc, fun khz => clocks_shown hc khz,
    fun hon => ⟨export_sends hc hon, templates_sent hc hon, templates_dropped hc hon⟩, export_off hc⟩

end Sys2Proof.Machine

/-!
Proofs for the damper and the power loops (R484, R486–R488, R565): what a window, a RATE, a rise of a rate and a period of a power loop leave.
-/

namespace Sys2Proof.Machine

/-! The damper's window (R484). -/

section
variable {s : State} {p : Nat}

/-- What a window that ends leaves of its port; `c` is whether the port is congested in the next. -/
theorem window_ends (hc : Calm s) (hp : p < 18) {c : Bool}
    (h : (bit (rd s R.telDmpCfg) 0 && decide (0 < portWidth s p) && decide (dmpCfg s 1 7 * (windowFlits * portWidth s p) ≤ 100 *
      ((portGet s p).sent + portWaiting s p (fun _ => true))) && (List.range 24).any (fun v => dmpCfg s 44 12 ≤ portWaiting s p (fun u => u = v))) = c) :
    Completes (.damperWindow p) s (fun u =>
      portGet u p = { portGet s p with sent := 0, cong := c, cnt := if c && (portGet s p).cong then (portGet s p).cnt else 0 } ∧ SameRegs s u []) := by
  obtain ⟨w, e, hw⟩ : ∃ w, damperWindow (quiet s) p = w ∧ Sampled (portMod (quiet s) p (fun x =>
      { x with sent := 0, cong := c, cnt := if c && x.cong then x.cnt else 0 })) w := by
    subst h
    refine ⟨_, rfl, ?_⟩
    rw [damperWindow, if_neg (by omega)]
    dsimp only
    split
    · unfold owe
      split
      · exact .refl _
      · rfl
    · exact .refl _
  have hcalm : Calm w := hw.calm (hc.quiet.of rfl rfl rfl rfl rfl rfl rfl)
  refine completes_act hc hp (by rw [e]; exact hcalm) fun u hf => ?_
  rw [e] at hf
  refine ⟨?_, .intro hf (by rw [hw.parts]; rfl) fun r _ => (hw.rd r).trans rfl⟩
  have hports := congrArg State.ports (show w = _ from hw)
  rw [hf.portGet, portGet_congr (s := portMod (quiet s) p fun x => { x with sent := 0, cong := c, cnt := if c && x.cong then x.cnt else 0 }) hports,
    portGet_portMod_same]
  rfl

theorem window_calm (hc : Calm s) (hp : p < 18) (h : bit (rd s R.telDmpCfg) 0 = false ∨ portWidth s p = 0) :
    Completes (.damperWindow p) s (fun u => portGet u p = { portGet s p with sent := 0, cong := false, cnt := 0 } ∧ SameRegs s u []) := by
  refine window_ends hc hp (c := false) ?_
  rcases h with h | h
  · simp [h]
  · simp [h]

theorem window_congested (hc : Calm s) (hp : p < 18) (hon : bit (rd s R.telDmpCfg) 0 = true) (hw : 0 < portWidth s p)
    (hload : dmpCfg s 1 7 * (4000 * portWidth s p) ≤ 100 * ((portGet s p).sent + portWaiting s p (fun _ => true)))
    (hq : ∃ v, v < 24 ∧ dmpCfg s 44 12 ≤ portWaiting s p (fun x => x = v)) :
    Completes (.damperWindow p) s (fun u =>
      portGet u p = { portGet s p with sent := 0, cong := true, cnt := if (portGet s p).cong then (portGet s p).cnt else 0 } ∧ SameRegs s u []) := by
  refine window_ends hc hp (c := true) ?_
  obtain ⟨v, hv, hw24⟩ := hq
  have hany : (List.range 24).any (fun v => dmpCfg s 44 12 ≤ portWaiting s p (fun u => u = v)) = true :=
    List.any_eq_true.2 ⟨v, List.mem_range.2 hv, decide_eq_true hw24⟩
  have hlim : windowFlits = 4000 := rfl
  simp only [hon, hw, hany, hlim, hload, decide_true, Bool.and_self]

/-! A received RATE (R486). -/

/-- The flows that a RATE names. -/
def rateHit (s : State) (m : RateMsg) (f : SendFlow) : Bool :=
  f.vc < 24 && f.spart = m.spart && f.dev = m.origDst && bit (rd s (R.fabVcmapV f.vc)) 0 && bits (rd s (R.fabVcmapV f.vc)) 4 12 = m.slice
    && bits (rd s (R.fabVcmapV f.vc)) 16 4 = m.group

theorem rd_telBump_same {s : State} (h : bit (rd s R.telCtrl) 0 = false) (r : Reg) (k : Nat) : rd (telBump s r k) r = (rd s r + k) % 2 ^ 48 := by
  rw [telBump, rd_bump_same, h]
  rfl

theorem rate_noFlow (hc : Calm s) {m : RateMsg} (hon : bit (rd s R.telDmpCfg) 0 = true) (hno : ∀ f ∈ s.sflows, rateHit s m f = false) :
    Completes (.rate m) s (fun u => u.sflows = s.sflows ∧
      (bit (rd s R.telCtrl) 0 = false → rd u R.telRateNoflow = (rd s R.telRateNoflow + 1) % 2 ^ 48)) := by
  obtain ⟨w, hm, hflows, hrd, e⟩ : ∃ w, PacketsMoved (quiet s) w ∧ w.sflows = s.sflows ∧ (∀ r, rd w r = rd s r) ∧
      rateOp (quiet s) m = rateApply w m.slice m.group m.spart m.dec m.origDst := by
    unfold rateOp
    dsimp only
    rw [if_pos (by exact hon)]
    split
    · exact ⟨_, moved_rxDrop .., rfl, fun _ => rfl, rfl⟩
    · exact ⟨_, .refl _, rfl, fun _ => rfl, rfl⟩
  have hany : w.sflows.any (rateHit w m) = false := by
    rw [hflows, List.any_eq_false]
    intro f hf
    have hw : rateHit w m f = rateHit s m f := by simp only [rateHit, hrd]
    rw [hw, hno f hf]
    simp
  have ea : rateApply w m.slice m.group m.spart m.dec m.origDst = telBump (telBump w R.telRateRecv 1) R.telRateNoflow 1 := by
    rw [rateApply]
    exact if_pos (show (!w.sflows.any (rateHit w m)) = true by rw [hany]; rfl)
  rw [ea] at e
  have h1 := counted_bump w (bit (rd w R.telCtrl) 0) R.telRateRecv 1 48
  have h2 := counted_bump (telBump w R.telRateRecv 1) (bit (rd (telBump w R.telRateRecv 1) R.telCtrl) 0) R.telRateNoflow 1 48
  refine completes_all (f := fun x => rateOp x m) hc (by rw [e]; exact h2.calm (h1.calm (hm.calm hc.quiet))) fun u hf => ?_
  rw [e] at hf
  refine ⟨by rw [hf.eq, telBump, bump_sflows, telBump, bump_sflows, hflows], fun on => ?_⟩
  rw [hf.rd _ (by decide), rd_telBump_same (by rw [telBump, h1.regs R.telCtrl (by decide), hrd]; exact on), telBump, h1.regs _ (by decide), hrd]

theorem rate_cuts (hc : Calm s) {m : RateMsg} {f : SendFlow} (hon : bit (rd s R.telDmpCfg) 0 = true) (hf : f ∈ s.sflows)
    (hit : rateHit s m f = true) (hcut : cutRecent s f.cutAt = false) (hheld : rateHeld s m = none) :
    Completes (.rate m) s (fun u =>
      { f with limit := rateCut s f.limit (flowRate s m.origDst) m.dec, cutAt := some (telNow s) } ∈ u.sflows ∧
      (bit (rd s R.telCtrl) 0 = false → rd u R.telRateRecv = (rd s R.telRateRecv + 1) % 2 ^ 48)) := by
  have e : rateOp (quiet s) m = rateApply (quiet s) m.slice m.group m.spart m.dec m.origDst := by
    unfold rateOp
    dsimp only
    rw [if_pos (by exact hon), show rateHeld (quiet s) m = none from hheld]
  have hany : (quiet s).sflows.any (rateHit s m) = true := List.any_eq_true.2 ⟨f, hf, hit⟩
  let cut (g : SendFlow) : Bool := rateHit s m g && !cutRecent s g.cutAt
  have ea : rateApply (quiet s) m.slice m.group m.spart m.dec m.origDst =
      { telBump (telBump (quiet s) R.telRateRecv 1) R.telRateCuts (s.sflows.filter cut).length with sflows := s.sflows.map (fun g =>
          if cut g then { g with limit := rateCut s g.limit (flowRate s m.origDst) m.dec, cutAt := some (telNow s) } else g) } := by
    rw [rateApply]
    exact if_neg (show ¬ (!(quiet s).sflows.any (rateHit s m)) = true by rw [hany]; simp)
  rw [ea] at e
  have h1 := counted_bump (quiet s) (bit (rd (quiet s) R.telCtrl) 0) R.telRateRecv 1 48
  have h2 := counted_bump (telBump (quiet s) R.telRateRecv 1) (bit (rd (telBump (quiet s) R.telRateRecv 1) R.telCtrl) 0) R.telRateCuts
    (s.sflows.filter cut).length 48
  refine completes_all (f := fun x => rateOp x m) hc (by rw [e]; exact (h2.calm (h1.calm hc.quiet)).of rfl rfl rfl rfl rfl rfl rfl) fun u hu => ?_
  rw [e] at hu
  refine ⟨?_, fun on => ?_⟩
  · rw [hu.eq]
    refine List.mem_map.2 ⟨f, hf, if_pos ?_⟩
    simp only [cut, hit, hcut, Bool.not_false, Bool.and_self]
  · rw [hu.rd _ (by decide)]
    exact (h2.regs _ (by decide)).trans (rd_telBump_same (by exact on) ..)

/-! A rate that rises, or returns to unlimited (R486, R487). -/

/-- A rate of a flow or queue pair that a change of its limit leaves. -/
theorem limit_flow (hc : Calm s) {op : State → State} {f : SendFlow} {g : Nat → Nat} {free : Bool} (e : op (quiet s) = rateMod (quiet s) f.id g free)
    (hf : f ∈ s.sflows) (h0 : f.limit ≠ 0) (hid : f.id < 2 ^ 32) :
    ∃ u, act op s = .next u ∧ { f with limit := g f.limit, cutAt := if free then none else f.cutAt } ∈ u.sflows ∧ SameRegs s u [] := by
  have em : rateMod (quiet s) f.id g free = sfMod (quiet s) f.id (fun x =>
      if x.limit = 0 then x else { x with limit := g x.limit, cutAt := if free then none else x.cutAt }) := by
    rw [rateMod, show rateQp f.id = none from if_neg (by omega)]
  rw [em] at e
  refine completes_all hc (by rw [e]; exact hc.quiet.of rfl rfl rfl rfl rfl rfl rfl) fun u hu => ?_
  rw [e] at hu
  refine ⟨?_, .intro hu rfl fun r _ => rfl⟩
  rw [hu.eq]
  exact List.mem_map.2 ⟨f, hf, (if_pos rfl).trans (if_neg h0)⟩

theorem limit_qp (hc : Calm s) {op : State → State} {q : Nat} {x : QPair} {g : Nat → Nat} {free : Bool}
    (e : op (quiet s) = rateMod (quiet s) (2 ^ 32 + q) g free) (hx : tget s.qps q = some x) (h0 : x.limit ≠ 0) :
    ∃ u, act op s = .next u ∧ qpGet u q = { x with limit := g x.limit, cutAt := if free then none else x.cutAt } := by
  have hget : qpGet (quiet s) q = x := by rw [qpGet, tgetD, quiet_qps, hx, Option.getD_some]
  have em : rateMod (quiet s) (2 ^ 32 + q) g free =
      qpPut (quiet s) q { x with limit := g x.limit, cutAt := if free then none else x.cutAt } := by
    rw [rateMod, show rateQp (2 ^ 32 + q) = some q by rw [rateQp, if_pos (by omega), Nat.add_sub_cancel_left]]
    dsimp only
    rw [if_neg (by rw [quiet_qps, hx]; simp), qpMod, hget, if_neg h0]
  rw [em] at e
  refine completes_all hc (by rw [e]; exact hc.quiet.of rfl rfl rfl rfl rfl rfl rfl) fun u hu => ?_
  rw [e] at hu
  rw [hu.qpGet, qpGet_qpPut_same]

/-! A period of a power loop (R488, R565). -/

/-- The gate level in a value of PWR_FB_STATUS_f (R495). -/
theorem gate_status (pw mn tp g mv mx : Nat) (hg : g < 64) :
    bits (fieldAt 0 12 pw + fieldAt 12 12 mn + fieldAt 24 8 tp + fieldAt 32 6 g + fieldAt 40 12 mv + fieldAt 52 1 mx) 32 6 = g := by
  simp only [bits, fieldAt, Nat.shiftRight_eq_div_pow, Nat.shiftLeft_eq]
  omega

section
variable {f : Nat} {r : PowerReading} {g : Nat}

/-- The registers of a firebox that a period writes after its status. -/
def periodRegs (f : Nat) : List Reg := [R.pwrFbOverF f, R.pwrFbEnergyF f, R.pwrDevEnergy, R.pwrDevPower]

theorem status_kept (hf : f < 4) : (R.pwrFbStatusF f).addr ∉ (periodRegs f).map Reg.addr := by
  simp only [periodRegs, R.pwrFbStatusF, R.pwrFbOverF, R.pwrFbEnergyF, R.pwrDevEnergy, R.pwrDevPower, blkBase, List.map_cons, List.map_nil,
    List.mem_cons, List.not_mem_nil, or_false]
  omega

theorem counted_pwrBump (s : State) (r : Reg) (n w : Nat) : Counted s (pwrBump s r n w) [r] := counted_bump ..

/-- What a period counts after the status: `c`, whether the firebox was over a limit with its gate at the top. -/
def periodCounts (s : State) (f : Nat) (r : PowerReading) (c : Bool) : State :=
  wr (pwrBump (pwrBump (if c then pwrBump s (R.pwrFbOverF f) 1 else s) (R.pwrFbEnergyF f) r.fbEnergyMj 64) R.pwrDevEnergy r.devEnergyMj 64)
    R.pwrDevPower (r.devPowerW % 65536)

theorem counted_over (s : State) (f : Nat) (c : Bool) : Counted s (if c then pwrBump s (R.pwrFbOverF f) 1 else s) [R.pwrFbOverF f] := by
  split
  · exact counted_pwrBump ..
  · exact .refl _ _

theorem counted_periodCounts (s : State) (f : Nat) (r : PowerReading) (c : Bool) : Counted s (periodCounts s f r c) (periodRegs f) :=
  ((counted_over s f c).mono (by simp [periodRegs])).trans (((counted_pwrBump ..).mono (by simp [periodRegs])).trans
    (((counted_pwrBump ..).mono (by simp [periodRegs])).trans ((counted_wr ..).mono (by simp [periodRegs]))))

theorem energy_periodCounts (hf : f < 4) (c : Bool) (hon : bit (rd s R.pwrCtrl) 1 = false) :
    rd (periodCounts s f r c) (R.pwrFbEnergyF f) = (rd s (R.pwrFbEnergyF f) + r.fbEnergyMj) % 2 ^ 64 := by
  have h := counted_over s f c
  have hctrl := h.regs R.pwrCtrl (by simp only [R.pwrCtrl, R.pwrFbOverF, blkBase, List.map_cons, List.map_nil, List.mem_singleton]; omega)
  have henergy := h.regs (R.pwrFbEnergyF f) (by simp [R.pwrFbEnergyF, R.pwrFbOverF])
  unfold periodCounts
  generalize (if c then pwrBump s (R.pwrFbOverF f) 1 else s) = w at hctrl henergy ⊢
  have hne : (R.pwrFbEnergyF f).addr ≠ R.pwrDevPower.addr ∧ (R.pwrFbEnergyF f).addr ≠ R.pwrDevEnergy.addr := by
    simp only [R.pwrFbEnergyF, R.pwrDevEnergy, R.pwrDevPower, blkBase]
    omega
  rw [rd_wr_other _ hne.1, pwrBump, rd_bump_other _ _ hne.2, pwrBump, rd_bump_same, hctrl, hon, henergy]
  rfl

/-- A period of a loop whose gate level comes to `g`. -/
theorem powerPeriod (hc : Calm s) (hf : f < 4) (hg : g < 64)
    (h : (if bit (rd s R.pwrCtrl) 0 then gateNext s f (bits (rd s (R.pwrFbStatusF f)) 32 6) r else bits (rd s (R.pwrFbStatusF f)) 32 6) = g) :
    Completes (.powerLoopPeriod f r) s (fun u => bits (rd u (R.pwrFbStatusF f)) 32 6 = g ∧ (bit (rd s R.pwrCtrl) 1 = false →
      rd u (R.pwrFbEnergyF f) = (rd s (R.pwrFbEnergyF f) + r.fbEnergyMj) % 2 ^ 64)) := by
  obtain ⟨v, x, al, c, hv, e⟩ : ∃ v x al, ∃ c : Bool, bits v 32 6 = g ∧
      powerLoop (quiet s) f r = periodCounts { wr (quiet s) (R.pwrFbStatusF f) v with loops := x, alert := al } f r c := by
    subst h
    unfold powerLoop
    rw [if_neg (show ¬ 4 ≤ f by omega)]
    exact ⟨_, _, _, _, gate_status _ _ _ _ _ _ hg, rfl⟩
  have h1 : Counted { quiet s with loops := x, alert := al } { wr (quiet s) (R.pwrFbStatusF f) v with loops := x, alert := al } [R.pwrFbStatusF f] :=
    counted_wr { quiet s with loops := x, alert := al } _ v
  have hst : rd { wr (quiet s) (R.pwrFbStatusF f) v with loops := x, alert := al } (R.pwrFbStatusF f) = v := rd_wr_same (quiet s) _ v
  generalize ({ wr (quiet s) (R.pwrFbStatusF f) v with loops := x, alert := al } : State) = w at h1 hst e
  have hcnt := counted_periodCounts w f r c
  have hcalm : Calm (periodCounts w f r c) := hcnt.calm (h1.calm (hc.quiet.of rfl rfl rfl rfl rfl rfl rfl))
  have hnote : (R.pwrFbStatusF f).addr ∉ noteRegs ∧ (R.pwrFbEnergyF f).addr ∉ noteRegs := by
    simp only [noteRegs, R.pwrFbStatusF, R.pwrFbEnergyF, R.prtErrLog, R.prtErrCount, blkBase, List.mem_cons, List.not_mem_nil, or_false]
    omega
  refine completes_act hc hf (by rw [e]; exact hcalm) fun u hu => ?_
  rw [e] at hu
  refine ⟨by rw [hu.rd _ hnote.1, hcnt.regs _ (status_kept hf), hst, hv], fun on => ?_⟩
  have hctrl : rd w R.pwrCtrl = rd s R.pwrCtrl :=
    h1.regs _ (by simp only [R.pwrCtrl, R.pwrFbStatusF, blkBase, List.map_cons, List.map_nil, List.mem_singleton]; omega)
  rw [hu.rd _ hnote.2, energy_periodCounts hf c (by rw [hctrl]; exact on), h1.regs _ (by simp [R.pwrFbEnergyF, R.pwrFbStatusF])]
  rfl

/-- Outside the hold the gate level rises over a limit, falls below both, and else stays (R565). -/
theorem gateNext_cases (h0 : (loopGet s f).hold = 0) (hg : g ≤ fbCap s f 28 6) :
    gateNext s f g r = if fbOver s f r then min (g + 1) (fbCap s f 28 6) else if fbUnder s f r then g - 1 else g := by
  rw [gateNext]
  rw [if_neg (by simp [h0]), Nat.min_eq_left hg]

end

end

/-- Settles O50: each clause is one equation of the operation; the gate level that PWR_FB_STATUS_f shows is read back by `gate_status`. -/
theorem ratesAndPowerKept : Obligations.RatesAndPowerKept := by
  unfold Obligations.RatesAndPowerKept
  intro s hc
  refine ⟨fun p hp => ⟨window_calm hc hp, window_congested hc hp⟩, fun m hon => ⟨fun hno => rate_noFlow hc hon fun f hf => ?_,
    fun f hf hit hcut hheld => rate_cuts hc hon hf ?_ hcut hheld⟩, fun f hf h0 hid => ⟨limit_flow (op := fun x => rateIncrease x f.id) (free := false) hc rfl hf h0 hid,
      limit_flow (op := fun x => rateReset x f.id) (g := fun _ => 0) (free := true) hc rfl hf h0 hid⟩,
    fun q x hx h0 => ⟨limit_qp (op := fun x => rateIncrease x (2 ^ 32 + q)) (free := false) hc rfl hx h0,
      limit_qp (op := fun x => rateReset x (2 ^ 32 + q)) (g := fun _ => 0) (free := true) hc rfl hx h0⟩, fun f r hf => ⟨fun hoff => ?_, fun hon h0 hg => ?_⟩⟩
  · have hn := hno f hf
    rw [Bool.eq_false_iff]
    intro hh
    simp only [rateHit, Bool.and_eq_true, decide_eq_true_eq] at hh
    obtain ⟨⟨⟨⟨⟨h1, h2⟩, h3⟩, h4⟩, h5⟩, h6⟩ := hh
    exact hn ⟨h1, h2, h3, h4, h5, h6⟩
  · obtain ⟨h1, h2, h3, h4, h5, h6⟩ := hit
    simp only [rateHit, Bool.and_eq_true, decide_eq_true_eq]
    exact ⟨⟨⟨⟨⟨h1, h2⟩, h3⟩, h4⟩, h5⟩, h6⟩
  · exact powerPeriod hc hf (bits_lt ..) (if_neg (by simp [hoff]))
  · have hg64 : fbCap s f 28 6 < 64 := bits_lt ..
    have hnext := gateNext_cases (r := r) h0 hg
    refine ⟨fun ho => ?_, fun ho hu => ?_, fun ho hu => ?_⟩
    · exact powerPeriod hc hf (by omega) ((if_pos hon).trans (hnext.trans (if_pos ho)))
    · exact powerPeriod hc hf (by omega) ((if_pos hon).trans (hnext.trans ((if_neg (by simp [ho])).trans (if_pos hu))))
    · exact powerPeriod hc hf (by omega) ((if_pos hon).trans (hnext.trans ((if_neg (by simp [ho])).trans (if_neg (by simp [hu])))))

end Sys2Proof.Machine

/-!
SUPPORT and proofs for the window of a queue pair (R36, R446): what follows from a command on a device where nothing is due, and a refused access is
answered with no bit of a register.
-/

namespace Sys2Proof.Machine

/-! What follows from a command when nothing is due and no procedure waits (R443, R448). -/

/-- A device like a calm one, on which units may be leaving a partition and a sweep may have work. -/
structure Still (s : State) : Prop where
  run : s.stk.phase = .run
  here : s.away = false
  free : s.held = false
  aborts : s.dueAborts = []
  faults : s.dueHrt = []
  susp : s.stk.susp = none
  service : s.stk.service = none
  warmQ : s.stk.warmQ = none
  unl : s.colUnl = []

/-- No sweep has work to post (R452). -/
def NoSweep (s : State) : Prop := ∀ p, (partGet s p).sweep = 0 ∨ (partGet s p).sweep = 2

theorem Calm.still {s : State} (h : Calm s) : Still s := ⟨h.run, h.here, h.free, h.aborts, h.faults, h.susp, h.service, h.warmQ, h.unl⟩
theorem Calm.noSweep {s : State} (h : Calm s) : NoSweep s := fun p => (h.parts p).2

/-- From `s` to `t` units leave partitions, and OVER_QUOTA is noted. -/
structure PartSteps (s t : State) : Prop where
  eq : t = { s with csr := t.csr, parts := t.parts }
  regs : ∀ r : Reg, r.addr ∉ noteRegs → rd t r = rd s r
  parts : ∀ q, partGet t q = { partGet s q with units := (partGet t q).units, leaving := (partGet t q).leaving, over_ := (partGet t q).over_ }
  log : bit (rd s R.prtErrLog) 0 = true → rd t R.prtErrLog = rd s R.prtErrLog

section
variable {s t u : State}

theorem PartSteps.refl (s : State) : PartSteps s s := ⟨rfl, fun _ _ => rfl, fun _ => rfl, fun _ => rfl⟩

theorem PartSteps.trans (h : PartSteps s t) (k : PartSteps t u) : PartSteps s u where
  eq := by rw [k.eq, h.eq]
  regs r hr := by rw [k.regs r hr, h.regs r hr]
  parts q := by
    have e := k.parts q
    rw [h.parts q] at e
    exact e
  log hv := by
    have e := h.log hv
    rw [k.log (by rw [e]; exact hv), e]

theorem partSteps_partMod (s : State) (p : Nat) {f : Part → Part}
    (hf : ∀ x, f x = { x with units := (f x).units, leaving := (f x).leaving, over_ := (f x).over_ }) : PartSteps s (partMod s p f) := by
  refine ⟨rfl, fun _ _ => rfl, fun q => ?_, fun _ => rfl⟩
  by_cases hq : q = p
  · subst hq
    simpa [partGet, partMod] using hf (partGet s q)
  · simp [partGet, partMod, tgetD_tput_other _ hq]

theorem partSteps_prtErr (s : State) (kind p result addr : Nat) : PartSteps s (prtErr s kind p result addr) := by
  refine ⟨by rw [prtErr, logErr_eq], fun r hr => ?_, fun q => by rw [prtErr, logErr_eq]; rfl, fun hv => ?_⟩
  · simp only [noteRegs, List.mem_cons, not_or] at hr
    exact rd_logErr_other _ hr.1 hr.2.1 _
  · unfold prtErr logErr
    simp only [hv, if_true]
    split
    · rw [rd_wr_other _ (by decide)]
    · rw [rd_wr_other _ (by decide)]

theorem partSteps_overNote (s : State) (p : Nat) : PartSteps s (overNote s p) := by
  unfold overNote
  dsimp only
  split
  · exact .refl s
  · split
    · exact (partSteps_partMod s p fun _ => rfl).trans (partSteps_prtErr ..)
    · exact partSteps_partMod s p fun _ => rfl

theorem partSteps_partStep (s : State) (p : Nat) : PartSteps s (partStep s p) := by
  have hleave : PartSteps s (unitsLeave s p) := by
    unfold unitsLeave
    dsimp only
    split
    · exact .refl s
    · split
      · exact .refl s
      · exact partSteps_partMod s p fun _ => rfl
  exact hleave.trans (partSteps_overNote ..)

theorem partSteps_fold (l : List Nat) (s : State) : PartSteps s (l.foldl partStep s) := by
  induction l generalizing s with
  | nil => exact .refl s
  | cons p l ih => exact (partSteps_partStep s p).trans (ih _)

theorem PartSteps.still (k : PartSteps s t) (h : Still s) : Still t := by
  rw [k.eq]
  exact ⟨h.run, h.here, h.free, h.aborts, h.faults, h.susp, h.service, h.warmQ, h.unl⟩

theorem PartSteps.noSweep (k : PartSteps s t) (h : NoSweep s) : NoSweep t := fun p => by
  rw [k.parts p]
  exact h p

theorem settleAborts_still (h : s.dueAborts = []) : settleAborts s = s := by
  simp only [settleAborts, h, List.foldl_nil]
  rw [← h]

/-- The partitions' steps, taken one after another. -/
def partSteps (s : State) : State := (s.parts.map (·.1)).foldl partStep s

theorem settleRun_still (h : Still s) : settleRun s = settleAborts (stokerStep (partSteps s)) := by
  have h1 : suspectAgain s = s := by simp [suspectAgain, h.susp]
  have h2 : settleFaults s = s := by
    simp only [settleFaults, h.faults, List.foldl_nil]
    rw [← h.faults]
  have h3 : ∀ b, suspectSettle s b = s := fun b => by simp [suspectSettle, h.susp]
  simp only [settleRun, h1, settleAborts_still h.aborts, h2, h3, h.unl, List.foldl_nil]
  rfl

theorem stokerStep_still (h : Still s) (hs : NoSweep s) : stokerStep s = s := by
  unfold stokerStep
  rw [sweepSteps_eq hs]
  split
  · rfl
  · simp [serviceStep, warmNext, h.service, h.warmQ]

/-- Where no sweep has work, what follows from a command are the partitions' steps. -/
theorem settle_still (h : Still s) (hs : NoSweep s) : settle s = partSteps s := by
  have hk : PartSteps s (partSteps s) := partSteps_fold ..
  have hw := hk.still h
  have e : settleRun s = partSteps s := by
    rw [settleRun_still h, stokerStep_still hw (hk.noSweep hs)]
    exact settleAborts_still hw.aborts
  have hdue : ({ partSteps s with dueAborts := [], dueHrt := [] } : State) = partSteps s := by
    rw [← hw.aborts, ← hw.faults]
  simp only [settle, h.run, if_true, e, hdue]

/-- A command that leaves the device still, and no sweep with work, is followed by the partitions' steps. -/
theorem ends_still (s : State) {v : State} (h : Still v) (hs : NoSweep v) :
    ∃ w, ends s v = .next { w with pending := s.pending } ∧ w = partSteps v ∧ PartSteps v w := by
  have hk : PartSteps v (partSteps v) := partSteps_fold ..
  refine ⟨partSteps v, ?_, rfl, hk⟩
  rw [ends, settle_still h hs, unlessHeld, if_neg (by rw [(hk.still h).free]; simp)]

/-- A command of a calm device that leaves it calm: its effect, and an error that it has logged in PRT_ERR_LOG stays logged (R575). -/
theorem act_logKept {c : Prop} [Decidable c] {f : State → State} (hc : Calm s) (hg : c) (h : Calm (f (quiet s))) :
    ∃ t, act (only c f) s = .next t ∧ Follows s.pending (f (quiet s)) t ∧
      (bit (rd (f (quiet s)) R.prtErrLog) 0 = true → rd t R.prtErrLog = rd (f (quiet s)) R.prtErrLog) := by
  obtain ⟨t, ht, hf⟩ := act_only hc.run hg h
  obtain ⟨w, hw, -, hk⟩ := ends_still s h.still h.noSweep
  have e : act (only c f) s = ends s (f (quiet s)) := by simp [act, hc.run, only, hg]
  have htw : t = { w with pending := s.pending } := by
    rw [e, hw] at ht
    cases ht
    rfl
  exact ⟨t, ht, hf, fun hv => by rw [htw]; exact hk.log hv⟩

/-! An access outside the window (R446). -/

section
variable {q a : Nat}

/-- A command that names an address outside the queue pair's window is never held: a hearth's window belongs to the partition that holds the hearth. -/
theorem cmdWaits_outside (hr : reaches s q a = false) (ctag : Nat) (v : W64) :
    cmdWaits s q (.csrRead q a ctag) = false ∧ cmdWaits s q (.csrWrite q a v ctag) = false := by
  have h : (accessHeld s a && (q = 1024 || (windowHearth a).any (fun h => (hget s h).part = some (qpPart q)))) = false := by
    rw [Bool.and_eq_false_iff, accessHeld, windowHearth]
    split
    case isFalse => exact .inl rfl
    case isTrue ha =>
      refine .inr ?_
      have hlo : 0x100000000 ≤ a ∧ a < 0x110000000 := by simpa using ha
      obtain ⟨b, off, hl, hb⟩ : ∃ b off, locate a = some (b, (a - 0x100000000) / 0x100000, off) ∧
          (b = .mxa ∨ b = .vec ∨ b = .spd ∨ b = .flu ∨ b = .blw) := by
        unfold locate
        dsimp only
        rw [if_neg (by omega), if_neg (by omega), if_neg (by omega), if_neg (by simp; omega), if_neg (by simp; omega), if_neg (by simp; omega),
          if_neg (by simp; omega), if_neg (by simp; omega), if_neg (by simp; omega), if_neg (by simp; omega), if_neg (by simp; omega),
          if_neg (by simp; omega), if_neg (by simp; omega), if_neg (by simp; omega), if_neg (by simp; omega), if_pos (by simp; omega)]
        split
        · exact ⟨_, _, rfl, .inl rfl⟩
        split
        · exact ⟨_, _, rfl, .inr (.inl rfl)⟩
        split
        · exact ⟨_, _, rfl, .inr (.inr (.inl rfl))⟩
        split
        · exact ⟨_, _, rfl, .inr (.inr (.inr (.inl rfl)))⟩
        · exact ⟨_, _, rfl, .inr (.inr (.inr (.inr rfl)))⟩
      unfold reaches at hr
      split at hr
      · simp [hl] at hr
      case isFalse hq =>
        have hpart : decide ((hget s ((a - 0x100000000) / 0x100000)).part = some (qpPart q)) = false := by
          rw [← hr, csrWindow, hl]
          rcases hb with rfl | rfl | rfl | rfl | rfl <;> rfl
        simp only [Option.any_some, hpart, Bool.or_false, decide_eq_false_iff_not]
        exact hq
  exact ⟨h, h⟩

/-- The registers in which a refused access is counted and recorded. -/
def refusalRegs (q : Nat) : List Reg := [R.prtAccessErrP (qpPart q), R.prtErrLog, R.prtErrCount]

theorem counted_accessRefused (s : State) (q a : Nat) : Counted s (accessRefused s q a) (refusalRegs q) := by
  unfold accessRefused
  split
  · exact .refl _ _
  · exact ((counted_bump ..).mono (by simp [refusalRegs])).trans ((counted_logErr ..).mono (by simp [refusalRegs]))

theorem refusal_kept (hq : q ≤ 1024) : ∀ r ∈ frameRegs q, rd (accessRefused s q a) r = rd s r := fun r hr => by
  refine (counted_accessRefused s q a).regs r fun hm => ?_
  obtain ⟨c, hcr, he⟩ := List.mem_map.1 hm
  refine frameRegs_off hq hr (c := c) (.inr ?_) he.symm
  simp only [refusalRegs, List.mem_cons, List.not_mem_nil, or_false] at hcr
  rcases hcr with rfl | rfl | rfl
  · simp only [R.prtAccessErrP]; omega
  · decide
  · decide

/-- The record of a refused access (R446, R467). -/
theorem refusal_fields {p a : Nat} (hp : p < 16) (ha : a < 2 ^ 40) :
    let w := (fieldAt 8 4 2 + fieldAt 12 4 p + fieldAt 16 4 0 + fieldAt 24 40 a) / 2 * 2 + 1
    bit w 0 = true ∧ bits w 8 4 = 2 ∧ bits w 12 4 = p ∧ bits w 24 40 = a := by
  simp only [bit_eq_decide, bits, fieldAt, Nat.shiftRight_eq_div_pow, Nat.shiftLeft_eq, decide_eq_true_eq]
  omega

/-- An access outside the window is answered with an access error, after it has been counted and recorded. -/
theorem refused_answered (h : Listens s q) (op ctag : Nat) :
    Answered (accessRefused s q a) (histCount (hostAnswer (accessRefused s q a) q op 1 ctag 0 0) 26 (telNow s)) q (answerMsg s q op 1 ctag 0 0) := by
  have hcnt := counted_accessRefused s q a
  have hctl : rd (accessRefused s q a) (R.hstQpCtrlQ q) = rd s (R.hstQpCtrlQ q) := refusal_kept h.qp _ (by simp [frameRegs])
  have hcsr : accessRefused s q a = { s with csr := (accessRefused s q a).csr } := by
    unfold accessRefused
    split
    · rfl
    · rw [prtErr, logErr_eq, bump_csr]
  have hrts : qpState (accessRefused s q a) q = 1 := by
    rw [← h.rts]
    simp only [qpState, rdf, hctl]
  have hans := (hostAnswer_answered (h.toSends.csr hcsr hctl) hrts op 1 ctag 0 0).histCount
  have hnow : telNow (accessRefused s q a) = telNow s := by rw [hcsr]; rfl
  have hmsg : answerMsg (accessRefused s q a) q op 1 ctag 0 0 = answerMsg s q op 1 ctag 0 0 := by
    rw [answerMsg, answerMsg, show qpGet (accessRefused s q a) q = qpGet s q by rw [hcsr]; rfl]
  rwa [hnow, hmsg] at hans

theorem refusedOps (ha : s.away = false) (h : Listens s q) (hr : reaches s q a = false) (v : W64) (ctag : Nat) :
    csrReadOp s q a ctag = histCount (hostAnswer (accessRefused s q a) q 1 1 ctag 0 0) 26 (telNow s) ∧
      csrWriteOp s q a v ctag = histCount (hostAnswer (accessRefused s q a) q 2 1 ctag 0 0) 26 (telNow s) := by
  have hqp : qpGet (accessRefused s q a) q = qpGet s q := by rw [(counted_accessRefused s q a).eq]; rfl
  have hcmds (op : Nat) := (refused_answered (a := a) h op ctag).cmds.trans (by rw [hqp, h.cmds])
  have hwait := cmdWaits_outside hr ctag v
  have e1 : csrReadDo s q a ctag (telNow s) = histCount (hostAnswer (accessRefused s q a) q 1 1 ctag 0 0) 26 (telNow s) := by
    rw [csrReadDo, hr]
    rfl
  have e2 : csrWriteDo s q a v ctag (telNow s) = histCount (hostAnswer (accessRefused s q a) q 2 1 ctag 0 0) 26 (telNow s) := by
    rw [csrWriteDo, hr]
    rfl
  constructor
  · rw [csrReadOp, ha, ← e1]
    exact hostCmd_listens h hwait.1 (by rw [e1]; exact hcmds 1)
  · rw [csrWriteOp, ha, ← e2]
    exact hostCmd_listens h hwait.2 (by rw [e2]; exact hcmds 2)

/-- What the answer with an access error leaves, as the statement of R446 says it. -/
theorem refusal_leaves {f : State → State} {op ctag : Nat} (hc : Calm s) (h : Listens s q) (ha : a < 2 ^ 40)
    (e : f (quiet s) = histCount (hostAnswer (accessRefused (quiet s) q a) q op 1 ctag 0 0) 26 (telNow s)) :
    ∃ u, act (only (q ≤ 1024) f) s = .next u ∧ Sent s u q (answerMsg s q op 1 ctag 0 0) ∧ u.hearths = s.hearths ∧ u.slices = s.slices ∧
      u.hbm = s.hbm ∧ u.graphs = s.graphs ∧ u.xlts = s.xlts ∧
      (q < 1024 → rd u (R.prtAccessErrP (qpPart q)) = (rd s (R.prtAccessErrP (qpPart q)) + 1) % 2 ^ 48 ∧
        (bit (rd s R.prtErrLog) 0 = false → bit (rd u R.prtErrLog) 0 = true ∧ rdf u R.prtErrLog 8 4 = 2 ∧ rdf u R.prtErrLog 12 4 = qpPart q ∧
          rdf u R.prtErrLog 24 40 = a) ∧
        SameRegs s u (R.prtAccessErrP (qpPart q) :: answerRegs)) ∧
      (q = 1024 → SameRegs s u answerRegs) := by
  have hw := refused_answered (a := a) h.quiet op ctag
  rw [show telNow (quiet s) = telNow s from rfl, ← e] at hw
  have hcnt := counted_accessRefused (quiet s) q a
  obtain ⟨u, hu, hf, hlog⟩ := act_logKept hc h.qp (hw.calm (hcnt.calm hc.quiet))
  have hv : accessRefused (quiet s) q a = { quiet s with csr := (accessRefused (quiet s) q a).csr } := by
    unfold accessRefused
    split
    · rfl
    · rw [prtErr, logErr_eq, bump_csr]
  obtain ⟨hsent, hsame, h1, h2, h3⟩ := hw.completes hv (rs := refusalRegs q) (fun r hr => (hcnt.regs r hr).trans (rd_quiet s r))
    (refusal_kept h.qp) hf
  have hg : u.graphs = s.graphs ∧ u.xlts = s.xlts := by rw [hf.eq, hw.eq, hv]; exact ⟨rfl, rfl⟩
  refine ⟨u, hu, hsent, h1, h2, h3, hg.1, hg.2, fun hq => ⟨?_, fun hfirst => ?_, ?_⟩, fun hq => ?_⟩
  · have hlt : qpPart q < 16 := by rw [qpPart]; omega
    have haddr : (R.prtAccessErrP (qpPart q)).addr = 0x5001018 + qpPart q * 0x40 := rfl
    have k1 : (R.prtAccessErrP (qpPart q)).addr ∉ noteRegs := by
      simp only [noteRegs, R.prtErrLog, R.prtErrCount, blkBase, List.mem_cons, List.not_mem_nil, or_false]
      omega
    have k2 : (R.prtAccessErrP (qpPart q)).addr ∉ answerRegs.map Reg.addr := fun hm => by
      have hout : ∀ x ∈ answerRegs.map Reg.addr, x < 0x5000000 ∨ 0x6000000 ≤ x := by decide
      have := hout _ hm
      omega
    obtain ⟨k3, k4⟩ : (R.prtAccessErrP (qpPart q)).addr ≠ R.prtErrLog.addr ∧ (R.prtAccessErrP (qpPart q)).addr ≠ R.prtErrCount.addr := by
      simp only [R.prtErrLog, R.prtErrCount, blkBase]
      omega
    rw [hf.rd _ k1, hw.regs _ k2, accessRefused, if_neg (by omega), prtErr, rd_logErr_other _ k3 k4, rd_bump_same]
    rfl
  · have hrec : rd (f (quiet s)) R.prtErrLog =
        (fieldAt 8 4 2 + fieldAt 12 4 (qpPart q) + fieldAt 16 4 0 + fieldAt 24 40 a) / 2 * 2 + 1 := by
      have hlt : qpPart q < 16 := by rw [qpPart]; omega
      have hne : R.prtErrLog.addr ≠ (R.prtAccessErrP (qpPart q)).addr := by
        simp only [R.prtAccessErrP, R.prtErrLog, blkBase]
        omega
      rw [hw.regs _ (by decide), accessRefused, if_neg (by omega), prtErr, rd_logErr_first (by decide)]
      rw [rd_bump_other _ _ hne, rd_quiet]
      exact hfirst
    have hfields := refusal_fields (show qpPart q < 16 by rw [qpPart]; omega) ha
    rw [rdf, rdf, rdf, hlog (by rw [hrec]; exact hfields.1), hrec]
    exact hfields
  · refine ⟨fun r hr hn => hsame.regs r ?_ hn, hsame.parts⟩
    simp only [noteRegs, refusalRegs, List.map_cons, List.map_nil, List.map_append, List.mem_append, List.mem_cons, List.not_mem_nil, or_false,
      not_or] at hr hn ⊢
    exact ⟨⟨hr.1, hn.1, hn.2⟩, hr.2⟩
  · have e1 : accessRefused (quiet s) q a = quiet s := by rw [accessRefused, if_pos hq]
    rw [e1] at hw
    obtain ⟨-, hsame, -⟩ := hw.completes (s := s) (v := quiet s) (rs := []) rfl (fun r _ => rd_quiet s r) (fun r _ => rd_quiet s r) hf
    exact hsame

end

end

/-- Settles O18: no address outside a window is held (`cmdWaits_outside`), so the command is answered at once, and nothing that follows from it takes the
record out of PRT_ERR_LOG (`act_logKept`). -/
theorem windowKept : Obligations.WindowKept := by
  unfold Obligations.WindowKept
  intro s q a ctag v hc hl ha hr
  obtain ⟨e1, e2⟩ := refusedOps (s := quiet s) hc.here hl.quiet hr v ctag
  exact ⟨refusal_leaves (f := fun t => csrReadOp t q a ctag) hc hl ha e1, refusal_leaves (f := fun t => csrWriteOp t q a v ctag) hc hl ha e2⟩

end Sys2Proof.Machine

/-!
SUPPORT: the registers that accesses of agents on the base dies leave as they are (R577). `AgentServed` says what else such an access changes.
-/

namespace Sys2Proof.Machine

/-- A register that accesses of agents may count or log in: of the slices (but no quota or rate) and the memory controllers, of the measures and the injected faults, and of
translation the error log, the counters and the rings. -/
def MeterReg (r : Reg) : Prop :=
  (r.addr < blkBase .lnk 0 ∧ (r.addr % 0x100000 < 0x1000 ∨ r.addr % 16 = 8 ∨ blkBase .mem 0 ≤ r.addr)) ∨ (blkBase .tel 0 ≤ r.addr ∧ r.addr < blkBase .xlt 0) ∨ (blkBase .xlt 0 ≤ r.addr ∧ (r.addr % 0x1000000 < 0x28 ∨ 0x80 ≤ r.addr % 0x1000000))

/-- Every other register is as it was. -/
structure AgentKeeps (s t : State) : Prop where
  kept : ∀ r : Reg, ¬ MeterReg r → rd t r = rd s r

section
variable {s t u : State}

theorem AgentKeeps.refl (s : State) : AgentKeeps s s := ⟨fun _ _ => rfl⟩

theorem AgentKeeps.trans (h1 : AgentKeeps s t) (h2 : AgentKeeps t u) : AgentKeeps s u :=
  ⟨fun r hr => (h2.kept r hr).trans (h1.kept r hr)⟩

theorem AgentKeeps.foldl {α : Type} {f : State → α → State} {l : List α} (hf : ∀ a ∈ l, ∀ w, AgentKeeps w (f w a)) (s : State) :
    AgentKeeps s (l.foldl f s) := by
  induction l generalizing s with
  | nil => exact .refl s
  | cons a l ih => exact (hf a (by simp) s).trans (ih (fun b hb => hf b (.tail _ hb)) _)

/-- A fold that gathers values. -/
theorem AgentKeeps.foldSnd {α β : Type} {f : β × State → α → β × State} (hf : ∀ acc a, AgentKeeps acc.2 (f acc a).2) (l : List α)
    (acc : β × State) : AgentKeeps acc.2 (l.foldl f acc).2 := by
  induction l generalizing acc with
  | nil => exact .refl _
  | cons a l ih => exact (hf acc a).trans (ih (f acc a))

theorem meterReg_ne {r q : Reg} (hr : MeterReg r) (hq : ¬ MeterReg q) : q.addr ≠ r.addr := fun h => hq (by rw [MeterReg, h]; exact hr)

theorem agentKeeps_wr {r : Reg} (hr : MeterReg r) (s : State) (v : Nat) : AgentKeeps s (wr s r v) :=
  ⟨fun _ hq => rd_wr_other s (meterReg_ne hr hq) v⟩

theorem agentKeeps_bump {r : Reg} (hr : MeterReg r) (s : State) (frz : Bool) (n w : Nat) : AgentKeeps s (bump s frz r n w) :=
  ⟨fun _ hq => rd_bump_other s frz (meterReg_ne hr hq) n w⟩

theorem agentKeeps_logErr {l c : Reg} (hl : MeterReg l) (hc : MeterReg c) (s : State) (v : Nat) : AgentKeeps s (logErr s l c v) :=
  ⟨fun _ hq => rd_logErr_other s (meterReg_ne hl hq) (meterReg_ne hc hq) v⟩

theorem agentKeeps_hold (s : State) : AgentKeeps s (hold s) := ⟨fun _ _ => rfl⟩
theorem agentKeeps_freeBits (s : State) (n : Nat) : AgentKeeps s (freeBits s n).2 := ⟨fun _ _ => rfl⟩
theorem agentKeeps_slPut (s : State) (sl : Nat) (x : Slice) : AgentKeeps s (slPut s sl x) := ⟨fun _ _ => rfl⟩
theorem agentKeeps_slMod (s : State) (sl : Nat) (f : Slice → Slice) : AgentKeeps s (slMod s sl f) := ⟨fun _ _ => rfl⟩
theorem agentKeeps_pcPut (s : State) (k p : Nat) (x : PsCh) : AgentKeeps s (pcPut s k p x) := ⟨fun _ _ => rfl⟩
theorem agentKeeps_stkPut (s : State) (k : Nat) (x : Stack) : AgentKeeps s (stkPut s k x) := ⟨fun _ _ => rfl⟩
theorem agentKeeps_hbm (s : State) (x : Hbm) (n : Nat) : AgentKeeps s { s with hbm := x, fresh := n } := ⟨fun _ _ => rfl⟩
theorem agentKeeps_fresh (s : State) (n : Nat) : AgentKeeps s { s with fresh := n } := ⟨fun _ _ => rfl⟩
theorem agentKeeps_walkCache (s : State) (l : List WalkEnt) : AgentKeeps s { s with walkCache := l } := ⟨fun _ _ => rfl⟩

theorem meterReg_tel {a rst : Nat} (h : blkBase .tel 0 ≤ a ∧ a < blkBase .xlt 0) : MeterReg ⟨a, rst⟩ := .inr (.inl h)

theorem agentKeeps_injFired (s : State) : AgentKeeps s (injFired s) := agentKeeps_wr (meterReg_tel (by decide)) s _

theorem agentKeeps_histCount {h : Nat} (hh : h < 27) (s : State) (t0 : Nat) : AgentKeeps s (histCount s h t0) := by
  have hb := histBin_lt (telNow s - t0)
  exact agentKeeps_bump (.inr (.inl (by simp only [R.telHistHB, blkBase]; omega))) ..

end

/-! The controllers of HBM (R234–R242). -/

section
variable (s : State)

theorem agentKeeps_memBump {k : Nat} {r : Reg} (hr : MeterReg r) (n w : Nat) : AgentKeeps s (memBump s k r n w) := agentKeeps_bump hr ..

theorem agentKeeps_memErr (pa kind : Nat) (part : Option Nat) (src : Nat) : AgentKeeps s (memErr s pa kind part src) := by
  have hk := hbmLoc_k_lt s.hbm.dead pa
  refine agentKeeps_logErr (.inl ?_) (.inl ?_) ..
  all_goals simp only [R.memErrLog, R.memErrCount, blkBase]; omega

theorem agentKeeps_fenceAccess (pa : Nat) (part : Option Nat) (src : Nat) : AgentKeeps s (fenceAccess s pa part src) := by
  unfold fenceAccess
  dsimp only
  split
  · exact .refl s
  · exact (agentKeeps_pcPut ..).trans (agentKeeps_memErr ..)

theorem agentKeeps_ueGranule (pa : Nat) : AgentKeeps s (ueGranule s pa) := by
  unfold ueGranule
  dsimp only
  split
  · exact .refl s
  · exact agentKeeps_pcPut ..

theorem agentKeeps_memUe (pa : Nat) (part : Option Nat) (src : Nat) : AgentKeeps s (memUe s pa part src) := by
  have hk := hbmLoc_k_lt s.hbm.dead pa
  have hp := hbmLoc_p_lt s.hbm.dead pa
  unfold memUe
  dsimp only
  refine ((agentKeeps_memBump s (.inl ?_) _ _).trans (agentKeeps_memErr ..)).trans (agentKeeps_ueGranule ..)
  simp only [R.memUeCountP, blkBase]
  omega

theorem agentKeeps_memCe (pa : Nat) (two : Bool) (syn : Nat) (patrol : Bool) : AgentKeeps s (memCe s pa two syn patrol) := by
  have hk := hbmLoc_k_lt s.hbm.dead pa
  have hp := hbmLoc_p_lt s.hbm.dead pa
  have hcount : MeterReg (R.memCeCountP (hbmLoc s.hbm.dead pa).k (hbmLoc s.hbm.dead pa).p) := .inl (by simp only [R.memCeCountP, blkBase]; omega)
  have hlog : MeterReg (R.memCeLog (hbmLoc s.hbm.dead pa).k) := .inl (by simp only [R.memCeLog, blkBase]; omega)
  have hwr : MeterReg (R.memWrBytes (hbmLoc s.hbm.dead pa).k) := .inl (by simp only [R.memWrBytes, blkBase]; omega)
  have hdrop : MeterReg (R.memCorrDrop (hbmLoc s.hbm.dead pa).k) := .inl (by simp only [R.memCorrDrop, blkBase]; omega)
  unfold memCe
  dsimp only
  have hbase := fun v => (agentKeeps_memBump s (k := (hbmLoc s.hbm.dead pa).k) hcount 1 48).trans (agentKeeps_wr hlog _ v)
  split_ifs
  · exact (hbase _).trans (agentKeeps_memBump _ hwr ..)
  · exact hbase _
  · exact (hbase _).trans (agentKeeps_memBump _ hdrop ..)
  · exact (hbase _).trans (agentKeeps_stkPut ..)

theorem agentKeeps_memInject (hb : Hbm) (words : List Nat) (part : Option Nat) (src : Nat) : AgentKeeps s (memInject s hb words part src).2 := by
  have hfree := ((agentKeeps_freeBits s 8).trans (agentKeeps_injFired _)).trans (agentKeeps_freeBits _ 16)
  unfold memInject
  dsimp only
  split
  · exact .refl s
  · split_ifs <;> dsimp only
    · exact hfree.trans (agentKeeps_memUe ..)
    · exact hfree
    · exact hfree.trans (agentKeeps_memCe ..)

theorem agentKeeps_memDecode (hb : Hbm) (lines : List Nat) (part : Option Nat) (src : Nat) : AgentKeeps s (memDecode s hb lines part src).2 :=
  .trans ((agentKeeps_memInject ..).trans (.foldl (fun _ _ w => agentKeeps_memErr w _ _ _ _) _)) (.foldl (fun _ _ w => agentKeeps_memUe w _ _ _) _)

theorem agentKeeps_hbmReadLines (part k : Nat) (lines : List Nat) : AgentKeeps s (hbmReadLines s part k lines).2 := by
  unfold hbmReadLines
  cases lines with
  | nil => exact .refl s
  | cons a l =>
    have hk := hbmLoc_k_lt s.hbm.dead (256 * a)
    dsimp only
    split
    · exact agentKeeps_fenceAccess ..
    · generalize hbView s.hbm s.fresh _ = v
      have hfresh : AgentKeeps s { s with fresh := v.2 } := agentKeeps_fresh ..
      have hdecode := hfresh.trans (agentKeeps_memDecode _ v.1 (a :: l) (some part) 0)
      generalize memDecode _ v.1 (a :: l) (some part) 0 = d at hdecode ⊢
      refine .trans (hdecode.trans (AgentKeeps.foldSnd (fun acc _ => ?_) _ ([], d.2))) (agentKeeps_memBump _ (.inl ?_) _ _)
      · exact ⟨fun _ _ => rfl⟩
      · simp only [R.memRdBytes, blkBase]
        omega

theorem agentKeeps_mergeReads (w : HbmWr) (words : List Nat) : AgentKeeps s (mergeReads s w words).2 :=
  (AgentKeeps.foldl (fun _ _ t => agentKeeps_memUe t _ _ _) s).trans (.foldl (fun _ _ t => agentKeeps_memErr t _ _ _ _) _)

theorem agentKeeps_hbmApplyWr (w : HbmWr) : AgentKeeps s (hbmApplyWr s w) := by
  have hk := hbmLoc_k_lt s.hbm.dead w.pa
  unfold hbmApplyWr
  dsimp only
  split
  · exact agentKeeps_fenceAccess ..
  · refine ((agentKeeps_mergeReads s w _).trans (agentKeeps_hbm ..)).trans (agentKeeps_memBump _ (.inl ?_) _ _)
    simp only [R.memWrBytes, blkBase]
    omega

theorem agentKeeps_hbmPop (k p : Nat) : AgentKeeps s (hbmPop s k p) := by
  unfold hbmPop
  dsimp only
  split
  · exact .refl s
  · exact (agentKeeps_pcPut ..).trans (agentKeeps_hbmApplyWr ..)

theorem agentKeeps_hbmDrain (k p n : Nat) : AgentKeeps s (hbmDrain s k p n) := by
  induction n generalizing s with
  | zero => exact .refl s
  | succ n ih => exact (agentKeeps_hbmPop ..).trans (ih _)

theorem agentKeeps_hbmWriteNow (w : HbmWr) : AgentKeeps s (hbmWriteNow s w) := by
  unfold hbmWriteNow
  dsimp only
  split
  · exact agentKeeps_hold s
  · exact (agentKeeps_hbmDrain ..).trans (agentKeeps_hbmApplyWr ..)

/-- The queued read of a slice of the device is made. -/
theorem agentKeeps_hbmRead (k p : Nat) {i : Nat} (hr : ∀ r, lget (pcGet s k p).rq i = some r → r.s < 4) : AgentKeeps s (hbmRead s k p i) := by
  unfold hbmRead
  dsimp only
  split
  · exact .refl s
  · split
    · exact .refl s
    · next r hget =>
      have hs := hr r hget
      split
      · exact agentKeeps_pcPut ..
      · refine .trans (.trans (.trans (agentKeeps_pcPut ..) (agentKeeps_hbmReadLines ..)) (agentKeeps_slPut _ r.s _)) (agentKeeps_bump (.inl ?_) ..)
        simp only [R.chmBytesHbmRd, blkBase]
        omega

end

end Sys2Proof.Machine

namespace Sys2Proof.Machine

/-! The slices of the chimney (R197–R217). -/

section
variable (s : State) {sl : Nat} (hsl : sl < 4)
include hsl

theorem meterReg_chm {off : Nat} (hoff : off < 0x1000) : MeterReg ⟨blkBase .chm sl + off, 0⟩ := .inl (by simp only [blkBase]; omega)

theorem agentKeeps_chmBump {off : Nat} (hoff : off < 0x1000) (n w : Nat) : AgentKeeps s (chmBump s sl ⟨blkBase .chm sl + off, 0⟩ n w) :=
  agentKeeps_bump (meterReg_chm hsl hoff) ..

theorem agentKeeps_chmErr (kind region abort part : Nat) (a : Option Nat) : AgentKeeps s (chmErr s sl kind region abort part a) :=
  (agentKeeps_freeBits s 33).trans (agentKeeps_logErr (meterReg_chm hsl (by decide)) (meterReg_chm hsl (by decide)) ..)

theorem agentKeeps_chmCe (two : Bool) (a : Option Nat) : AgentKeeps s (chmCe s sl two a) :=
  ((agentKeeps_freeBits s 49).trans (agentKeeps_chmBump _ hsl (by decide) _ _)).trans (agentKeeps_wr (meterReg_chm hsl (by decide)) ..)

theorem agentKeeps_chmUeLine (l : Line) (abort : Nat) : AgentKeeps s (chmUeLine s sl l abort) := by
  have hcount : AgentKeeps s (chmBump s sl (R.chmUeCount sl) 1) := agentKeeps_chmBump s hsl (by decide) ..
  unfold chmUeLine
  dsimp only
  split
  · exact (hcount.trans (agentKeeps_chmErr _ hsl ..)).trans (agentKeeps_slMod ..)
  · exact (hcount.trans (agentKeeps_chmErr _ hsl ..)).trans (agentKeeps_slMod ..)

theorem agentKeeps_chmInject (a : Option Nat) : AgentKeeps s (chmInject s sl a).2 := by
  unfold chmInject
  split
  · exact .refl s
  · split
    · exact agentKeeps_injFired s
    · exact (agentKeeps_injFired s).trans (agentKeeps_chmCe _ hsl ..)

theorem agentKeeps_writeBack (l : Line) : AgentKeeps s (writeBack s sl l) :=
  ((agentKeeps_pcPut ..).trans (agentKeeps_chmBump _ hsl (by decide) _ _)).trans (agentKeeps_chmBump _ hsl (by decide) _ _)

theorem agentKeeps_takeLine {p : Nat} {t : State} (h : (takeLine s sl p).1 = some t) : AgentKeeps s t := by
  unfold takeLine at h
  dsimp only at h
  split at h
  · cases h
    exact .refl s
  · split at h
    · cases h
    · split at h
      · cases h
      · cases h
        split
        · exact (agentKeeps_slPut ..).trans (agentKeeps_writeBack _ hsl _)
        · exact agentKeeps_slPut ..

theorem agentKeeps_takeFor {p a : Nat} {t : State} (h : (takeFor s sl p a).1 = some t) : AgentKeeps s t := by
  unfold takeFor at h
  split at h
  · cases h
    exact .refl s
  · exact agentKeeps_takeLine s hsl h

/-! The accesses of agents (R577). -/

theorem agentKeeps_agTake {part a : Nat} {t : State} (h : agTake s sl part a = some t) : AgentKeeps s t := by
  unfold agTake at h
  split at h
  · next t' _ htake =>
    cases h
    exact agentKeeps_takeFor s hsl (congrArg Prod.fst htake)
  · cases h
  · split at h
    · cases h
      exact agentKeeps_hold s
    · cases h
      generalize hpop : hbmPop s _ _ = w
      have hw : AgentKeeps s w := hpop ▸ agentKeeps_hbmPop ..
      cases htake : (takeFor w sl part a).1 with
      | none => exact agentKeeps_hold s
      | some t => exact hw.trans (agentKeeps_takeFor w hsl htake)

theorem agentKeeps_fillRead (f : Fill) : AgentKeeps s (fillRead s sl f) := by
  unfold fillRead
  dsimp only
  split
  · next i _ hfind =>
    refine agentKeeps_hbmRead s _ _ fun r hr => ?_
    obtain ⟨⟨r', hr', hslice⟩, -⟩ := lfind_eq_some hfind
    rw [hr] at hr'
    cases hr'
    simp only [Bool.and_eq_true, decide_eq_true_eq] at hslice
    omega
  · exact .refl s

theorem agentKeeps_agFill (part k a : Nat) (alloc : Bool) : AgentKeeps s (agFill s sl part k a alloc).st := by
  unfold agFill
  dsimp only
  split
  · exact agentKeeps_hold s
  · split
    · next f _ =>
      have hread := agentKeeps_fillRead s hsl f
      split
      · exact hread
      · split
        · next htake =>
          dsimp only
          exact (hread.trans (agentKeeps_agTake _ hsl htake)).trans (agentKeeps_slMod ..)
        · exact hread
    · have hread : AgentKeeps s (chmBump (hbmReadLines s part k [a]).2 sl (R.chmBytesHbmRd sl) 256 64) :=
        (agentKeeps_hbmReadLines ..).trans (agentKeeps_chmBump _ hsl (by decide) ..)
      split
      · exact hread
      · split
        · next htake =>
          dsimp only
          exact (hread.trans (agentKeeps_agTake _ hsl htake)).trans (agentKeeps_slMod ..)
        · exact hread

end

section
variable (s : State)

theorem agentKeeps_agLine (part k a : Nat) (alloc : Bool) : AgentKeeps s (agLine s part k a alloc).st := by
  have hsl := homeSlice_lt s.hbm.dead (256 * a)
  unfold agLine
  dsimp only
  generalize homeSlice s.hbm.dead (256 * a) = sl at *
  have hinj := agentKeeps_chmInject s hsl (some a)
  split
  · exact agentKeeps_hold s
  · split
    · dsimp only
      exact hinj.trans (agentKeeps_slMod ..)
    · have hline := fun l => hinj.trans (agentKeeps_chmUeLine _ hsl l 0)
      split
      · dsimp only
        exact (hline _).trans (agentKeeps_slMod ..)
      · exact (hline _).trans (agentKeeps_agFill _ hsl ..)
    · exact hinj.trans (agentKeeps_agFill _ hsl ..)
    · have hcount : AgentKeeps _ (chmBump (chmInject s sl (some a)).2 sl (R.chmUeCount sl) 1) := agentKeeps_chmBump _ hsl (by decide) ..
      dsimp only
      exact (hinj.trans hcount).trans (agentKeeps_chmErr _ hsl ..)

theorem agentKeeps_agLines (part k : Nat) (as : List Nat) (alloc : Bool) : AgentKeeps s (agLines s part k as alloc).2.2.2 := by
  induction as generalizing s with
  | nil => exact .refl s
  | cons a l ih => exact (agentKeeps_agLine ..).trans (ih _)

theorem agentKeeps_agCount {part : Nat} (hp : part < 16) (pa : Nat) (hit deny : Bool) : AgentKeeps s (agCount s part pa hit deny) := by
  have hsl := homeSlice_lt s.hbm.dead pa
  unfold agCount
  dsimp only
  generalize homeSlice s.hbm.dead pa = sl at *
  have hcount : AgentKeeps s (if hit then chmBump s sl (R.chmHits sl) 1 else chmBump s sl (R.chmMisses sl) 1) := by
    split
    · exact agentKeeps_chmBump s hsl (by decide) ..
    · exact agentKeeps_chmBump s hsl (by decide) ..
  generalize (if hit then _ else _) = w at hcount
  split
  · refine hcount.trans (agentKeeps_bump (.inl ?_) ..)
    simp only [R.chmPartDenyP, blkBase]
    omega
  · exact hcount

/-- A fold of reads whose every step serves agents. -/
theorem AgentKeeps.foldRead {α : Type} {f : AgRead → α → AgRead} (hf : ∀ acc a, AgentKeeps acc.st (f acc a).st) (l : List α) (acc : AgRead) :
    AgentKeeps acc.st (l.foldl f acc).st := by
  induction l generalizing acc with
  | nil => exact .refl _
  | cons a l ih => exact (hf acc a).trans (ih (f acc a))

theorem agentKeeps_agRead {part : Nat} (hp : part < 16) (k pa len : Nat) (alloc : Bool) : AgentKeeps s (agRead s part k pa len alloc).st := by
  refine AgentKeeps.foldRead (fun acc g => ?_) (granules pa len) ⟨[], false, false, s⟩
  have hsl := homeSlice_lt s.hbm.dead g.1
  exact ((agentKeeps_agLines acc.st ..).trans (agentKeeps_agCount _ hp ..)).trans (agentKeeps_histCount (by split <;> omega) ..)

/-! Walks, and reads by virtual address (R256, R577). -/

theorem meterReg_xlt (p rst : Nat) {off : Nat} (h : (off < 0x28 ∨ 0x80 ≤ off) ∧ off < 0x1000000) : MeterReg ⟨blkBase .xlt p + off, rst⟩ :=
  .inr (.inr (by simp only [blkBase]; omega))

theorem agentKeeps_xltBump (p n : Nat) {off : Nat} (h : (off < 0x28 ∨ 0x80 ≤ off) ∧ off < 0x1000000) : AgentKeeps s (xltBump s p ⟨blkBase .xlt p + off, 0⟩ n) :=
  agentKeeps_bump (meterReg_xlt p 0 h) ..

variable {p : Nat} (hp : p < 16)
include hp

theorem agentKeeps_entRead (k pa n : Nat) : AgentKeeps s (entRead s p k pa n).2.2 := agentKeeps_agRead s hp ..

theorem agentKeeps_walkL1 (die vpn : Nat) (cache : Bool) : AgentKeeps s (walkL1 s die p vpn cache).2.2 := by
  unfold walkL1
  dsimp only
  split
  · exact .refl s
  · split
    · exact .refl s
    · have hread := fun k pa n => agentKeeps_entRead s hp k pa n
      split
      · exact hread ..
      · split
        · exact hread ..
        · dsimp only
          split
          · exact (hread ..).trans (agentKeeps_walkCache ..)
          · exact hread ..

/-- A walk is counted when it is a walker's (R278). -/
theorem agentKeeps_walk (die vpn : Nat) (count : Bool) : AgentKeeps s (walk s die p vpn count).2 := by
  have hfin : ∀ (res : WalkRes) (hbm : Bool) (t : State), AgentKeeps t
      (if !count then (res, t) else (res, if hbm then xltBump (xltBump t p (R.xltWalks p) 1) p (R.xltWalkHbm p) 1 else xltBump t p (R.xltWalks p) 1)).2 := by
    intro res hbm t
    have hcount : AgentKeeps t (xltBump t p (R.xltWalks p) 1) := agentKeeps_xltBump _ _ _ (by decide)
    split
    · exact .refl t
    · dsimp only
      split
      · exact hcount.trans (agentKeeps_xltBump _ _ _ (by decide))
      · exact hcount
  have hl1 := agentKeeps_walkL1 s hp die vpn count
  unfold walk
  dsimp only
  split
  · exact hl1.trans (hfin ..)
  · exact hl1.trans (hfin ..)
  · have hread := fun k pa n => hl1.trans (agentKeeps_entRead _ hp k pa n)
    split
    · exact (hread ..).trans (hfin ..)
    · split
      · exact (hread ..).trans (hfin ..)
      · exact (hread ..).trans (hfin ..)

theorem agentKeeps_agWalk (die va : Nat) : AgentKeeps s (agWalk s die p va).2 := by
  have hwalk := fun vpn => agentKeeps_walk s hp die vpn true
  unfold agWalk
  dsimp only
  split
  · split
    · exact (hwalk _).trans (agentKeeps_hold _)
    · exact hwalk _
  · exact hwalk _

end

end Sys2Proof.Machine

namespace Sys2Proof.Machine

/-! Writes by physical address. -/

section
variable (s : State)

/-- A write that no line takes goes to HBM, or waits. -/
theorem agentKeeps_direct {sl : Nat} (hsl : sl < 4) (w : HbmWr) (n : Nat) :
    AgentKeeps s (if agFillShort s sl then hold s else chmBump (hbmWriteNow s w) sl (R.chmBytesHbmWr sl) n 64) := by
  split
  · exact agentKeeps_hold s
  · exact (agentKeeps_hbmWriteNow ..).trans (agentKeeps_chmBump _ hsl (by decide) ..)

theorem agentKeeps_agWriteLine (part k pa : Nat) (data : List Byte) (a : Nat) (alloc : Bool) :
    AgentKeeps s (agWriteLine s part k pa data a alloc).2 := by
  have hsl := homeSlice_lt s.hbm.dead (256 * a)
  unfold agWriteLine
  dsimp only
  generalize homeSlice s.hbm.dead (256 * a) = sl at *
  generalize hw0 : slPut s sl _ = w0
  have h0 : AgentKeeps s w0 := hw0 ▸ agentKeeps_slPut ..
  split
  · exact agentKeeps_hold s
  · split
    · exact h0.trans (agentKeeps_slPut ..)
    · split
      · exact h0.trans (agentKeeps_direct _ hsl ..)
      · split
        · exact h0.trans (agentKeeps_direct _ hsl ..)
        · next t htake =>
          have ht : AgentKeeps s t := by
            split at htake
            · cases htake
              exact h0
            · exact h0.trans (agentKeeps_agTake _ hsl htake)
          have hfill : AgentKeeps s (agFill t sl part k a false).st := ht.trans (agentKeeps_agFill _ hsl ..)
          split
          · dsimp only
            exact ht.trans (agentKeeps_slMod ..)
          · split
            · exact hfill
            · split
              · exact hfill.trans (agentKeeps_direct _ hsl ..)
              · dsimp only
                exact hfill.trans (agentKeeps_slMod ..)

theorem agentKeeps_agWriteLines (part k pa : Nat) (data : List Byte) (as : List Nat) (alloc deny : Bool) :
    AgentKeeps s (agWriteLines s part k pa data as alloc deny).2 := by
  induction as generalizing s deny with
  | nil => exact .refl s
  | cons a l ih => exact (agentKeeps_agWriteLine ..).trans (ih ..)

variable {p : Nat} (hp : p < 16)
include hp

theorem agentKeeps_agWrite (k pa : Nat) (data : List Byte) (alloc : Bool) : AgentKeeps s (agWrite s p k pa data alloc) := by
  refine AgentKeeps.foldl (fun g _ w => ?_) s
  exact (agentKeeps_agWriteLines w ..).trans (agentKeeps_agCount _ hp ..)

/-! Writes by virtual address, and the entries of tables and frames (R252, R253). -/

theorem agentKeeps_vaWrite (die va : Nat) (data : List Byte) (n : Nat) : AgentKeeps s (vaWrite s die p va data n).2 := by
  induction n generalizing s va data with
  | zero => exact .refl s
  | succ n ih =>
    unfold vaWrite
    split
    · exact .refl s
    · have hwalk := agentKeeps_agWalk s hp die va
      dsimp only
      split
      · split
        · exact (hwalk.trans (agentKeeps_agWrite _ hp ..)).trans (ih ..)
        · split
          · exact hwalk
          · exact hwalk
      · exact hwalk
      · exact hwalk

theorem agentKeeps_frGet (f : Nat) : AgentKeeps s (frGet s p f).2 := agentKeeps_entRead s hp ..

end

end Sys2Proof.Machine

/-!
SUPPORT and proofs for keys and reports (R452, R455, R457, R461–R464): what a key command leaves in its partition, and that the sweep which a rotation
starts takes none of it back.
-/

namespace Sys2Proof.Machine

/-! The sweep (R452). -/

theorem partGet_partMod (s : State) (p : Nat) (f : Part → Part) (q : Nat) :
    partGet (partMod s p f) q = if q = p then f (partGet s p) else partGet s q := by
  split
  case isTrue h => subst h; simp [partGet, partMod]
  case isFalse h => simp [partGet, partMod, tgetD_tput_other _ h]

theorem partGet_partMod_same (s : State) (p : Nat) (f : Part → Part) : partGet (partMod s p f) p = f (partGet s p) := by
  rw [partGet_partMod, if_pos rfl]

/-- From `s` to `t` the sweep of partition `p` posts what it may: the partition keeps its keys, and every partition its XLT_KEY. -/
structure Sweeps (p : Nat) (s t : State) : Prop where
  eq : t = { s with csr := t.csr, slices := t.slices, hbm := t.hbm, walkCache := t.walkCache, fresh := t.fresh, held := t.held, parts := t.parts }
  key : ∀ q, rd t (R.xltKey q) = rd s (R.xltKey q)
  own : partGet t p = { partGet s p with sweep := (partGet t p).sweep, sweepVpn := (partGet t p).sweepVpn }
  other : ∀ q, q ≠ p → partGet t q = partGet s q

section
variable {s t u : State} {p : Nat}

theorem Sweeps.refl (p : Nat) (s : State) : Sweeps p s s := ⟨rfl, fun _ => rfl, rfl, fun _ _ => rfl⟩

theorem Sweeps.trans (h : Sweeps p s t) (k : Sweeps p t u) : Sweeps p s u where
  eq := by
    have e := k.eq
    rw [h.eq] at e
    exact e
  key q := by rw [k.key, h.key]
  own := by
    have e := k.own
    rw [h.own] at e
    exact e
  other q hq := by rw [k.other q hq, h.other q hq]

theorem xltKey_kept (q : Nat) : ¬ MeterReg (R.xltKey q) := by
  simp only [MeterReg, R.xltKey, blkBase]
  omega

theorem AgentServed.sweeps (h : AgentServed s t) (k : AgentKeeps s t) (p : Nat) : Sweeps p s t := by
  have hparts (q : Nat) : partGet t q = partGet s q := partGet_congr (by rw [h.eq]) q
  exact ⟨by rw [h.eq], fun q => k.kept _ (xltKey_kept q), by rw [hparts], fun q _ => hparts q⟩

theorem sweeps_wr {r : Reg} (hr : ∀ q, (R.xltKey q).addr ≠ r.addr) (s : State) (v p : Nat) : Sweeps p s (wr s r v) :=
  ⟨rfl, fun q => rd_wr_other s (hr q) v, rfl, fun _ _ => rfl⟩

theorem sweeps_partMod (s : State) {f : Part → Part} (hf : ∀ x, f x = { x with sweep := (f x).sweep, sweepVpn := (f x).sweepVpn }) :
    Sweeps p s (partMod s p f) :=
  ⟨rfl, fun _ => rfl, by rw [partGet_partMod_same]; exact hf _, fun q hq => by rw [partGet_partMod, if_neg hq]⟩

theorem agent_tablesMissing (s : State) (hp : p < 16) (vpn : Nat) :
    AgentServed s (tablesMissing s p vpn).2 ∧ AgentKeeps s (tablesMissing s p vpn).2 := by
  unfold tablesMissing
  dsimp only
  split
  · exact ⟨.refl s, .refl s⟩
  · exact ⟨agentServed_entRead s hp .., agentKeeps_entRead s hp ..⟩

theorem agent_sweepFind (s : State) (hp : p < 16) (vpn n : Nat) :
    AgentServed s (sweepFind s p vpn n).2 ∧ AgentKeeps s (sweepFind s p vpn n).2 := by
  induction n generalizing s vpn with
  | zero => exact ⟨.refl s, .refl s⟩
  | succ n ih =>
    obtain ⟨h1, k1⟩ := agent_tablesMissing s hp vpn
    unfold sweepFind
    dsimp only
    split
    · exact ⟨.refl s, .refl s⟩
    · split
      · exact ⟨h1.trans (ih _ _).1, k1.trans (ih _ _).2⟩
      · have h2 := h1.trans (agentServed_walk _ hp 0 vpn false)
        have k2 := k1.trans (agentKeeps_walk _ hp 0 vpn false)
        split
        · have h3 := fun f => h2.trans (agentServed_frGet _ hp f)
          have k3 := fun f => k2.trans (agentKeeps_frGet _ hp f)
          split
          · exact ⟨h3 _, k3 _⟩
          · exact ⟨(h3 _).trans (ih _ _).1, (k3 _).trans (ih _ _).2⟩
        · exact ⟨h2.trans (ih _ _).1, k2.trans (ih _ _).2⟩

theorem sweeps_sweepPut (s : State) (hp : p < 16) (op vpn : Nat) : Sweeps p s (sweepPut s p op vpn) := by
  unfold sweepPut
  dsimp only
  generalize leBytes 32 _ = bs
  have hput (va : Nat) : Sweeps p s (vaPut s p va bs).2 := (agentServed_vaWrite s hp ..).sweeps (agentKeeps_vaWrite s hp ..) p
  refine (hput (rd s (R.xltOpqBaseG p 1) + 32 * (rd s (R.xltOpqTailG p 1) % opqSize s p 1))).trans ?_
  have hne (off : Nat) (ho : off < 0x1000000 ∧ off ≠ 0x30) : ∀ q, (R.xltKey q).addr ≠ blkBase .xlt p + off := fun q => by
    simp only [R.xltKey, blkBase]
    omega
  unfold opqTailWrite
  dsimp only
  split
  · rw [xltErr, logErr_eq]
    exact ⟨rfl, fun q => rd_logErr_other _ (hne 0x18 (by decide) q) (hne 0x20 (by decide) q) _, rfl, fun _ _ => rfl⟩
  · exact sweeps_wr (hne 0xb0 (by decide)) ..

/-- One step of a sweep, however far it looks for the next page. -/
theorem sweeps_sweepStep (s : State) (hp : p < 16) : Sweeps p s (sweepStep s p) := by
  have hbump : Sweeps p s (secBump s R.secSweepPages 1) := by
    rw [secBump, bump]
    split
    · exact .refl p s
    · refine sweeps_wr (fun q => ?_) ..
      show blkBase .xlt q + 0x30 ≠ blkBase .sec 0 + 0x118
      simp only [blkBase]
      omega
  have hfrom : Sweeps p s (if (partGet s p).sweep = 4 then secBump s R.secSweepPages 1 else s) := by
    split
    · exact hbump
    · exact .refl p s
  have hfind (w : State) (vpn n : Nat) : Sweeps p w (sweepFind w p vpn n).2 :=
    (agent_sweepFind w hp vpn n).1.sweeps (agent_sweepFind w hp vpn n).2 p
  unfold sweepStep
  generalize 2 ^ 32 = fuel
  dsimp only
  split
  · exact .refl p s
  · split
    · exact ((hfrom.trans (hfind _ _ _)).trans (sweeps_sweepPut _ hp ..)).trans (sweeps_partMod _ fun _ => rfl)
    · exact ((hfrom.trans (hfind _ _ _)).trans (sweeps_sweepPut _ hp ..)).trans (sweeps_partMod _ fun _ => rfl)

/-- The Stoker's steps where only partition `p` has a sweep with work: no access of them leaves the device waiting. -/
theorem sweeps_stokerStep (hp : p < 16) (h : Still s) (hs : ∀ q, q ≠ p → (partGet s q).sweep = 0 ∨ (partGet s q).sweep = 2) :
    Sweeps p s (stokerStep s) ∧ (stokerStep s).held = false := by
  have hfold (l : List Nat) (t : State) (ht : Sweeps p s t) (hfree : t.held = false) :
      Sweeps p s (l.foldl (fun t q => tryStep (sweepStep · q) t) t) ∧ (l.foldl (fun t q => tryStep (sweepStep · q) t) t).held = false := by
    induction l generalizing t with
    | nil => exact ⟨ht, hfree⟩
    | cons q l ih =>
      have hstep : Sweeps p t (tryStep (sweepStep · q) t) := by
        by_cases hq : q = p
        · subst hq
          unfold tryStep
          dsimp only
          split
          · exact .refl q t
          · exact sweeps_sweepStep t hp
        · rw [tryStep_id (sweepStep_eq (by rw [ht.other q hq]; exact hs q hq))]
          exact .refl p t
      refine ih _ (ht.trans hstep) ?_
      unfold tryStep
      dsimp only
      split
      · exact hfree
      case isFalse hn => simpa [hfree] using hn
  obtain ⟨hk, hheld⟩ := hfold (s.parts.map (·.1)) s (.refl p s) h.free
  have hstk : (List.foldl (fun t q => tryStep (sweepStep · q) t) s (s.parts.map (·.1))).stk = s.stk := by rw [hk.eq]
  have e : stokerStep s = (s.parts.map (·.1)).foldl (fun t q => tryStep (sweepStep · q) t) s := by
    unfold stokerStep
    rw [if_neg (by simp [h.here]), serviceStep, hstk, h.service]
    dsimp only
    rw [warmNext, hstk, h.warmQ]
  rw [e]
  exact ⟨hk, hheld⟩

/-- What a key command's effect `v` and the device `u` after the command have in common. -/
structure KeysKept (v u : State) : Prop where
  keyRun : u.keyRun = v.keyRun
  nextKey : u.nextKey = v.nextKey
  cur : ∀ q, xCur u q = xCur v q
  parts : ∀ q, partGet u q = { partGet v q with sweep := (partGet u q).sweep, sweepVpn := (partGet u q).sweepVpn, units := (partGet u q).units,
                                                  leaving := (partGet u q).leaving, over_ := (partGet u q).over_ }

theorem KeysKept.memKey {v u : State} (h : KeysKept v u) (q k : Nat) : Machine.memKey (partGet u q) k = Machine.memKey (partGet v q) k := by
  rw [h.parts q]
  rfl

/-- A command that leaves the device still, with work for the sweep of one partition at most, keeps what it did to the keys. -/
theorem ends_keysKept {v : State} (hp : p < 16) (h : Still v) (hs : ∀ q, q ≠ p → (partGet v q).sweep = 0 ∨ (partGet v q).sweep = 2) (s : State) :
    ∃ u, ends s v = .next u ∧ KeysKept v u := by
  have hk : PartSteps v (partSteps v) := partSteps_fold ..
  have hw := hk.still h
  obtain ⟨hsw, hheld⟩ := sweeps_stokerStep hp hw fun q hq => by rw [hk.parts q]; exact hs q hq
  have haborts : (stokerStep (partSteps v)).dueAborts = [] := by rw [hsw.eq]; exact hw.aborts
  have e : settle v = { stokerStep (partSteps v) with dueAborts := [], dueHrt := [] } := by
    simp only [settle, h.run, if_true, settleRun_still h, settleAborts_still haborts]
  refine ⟨_, by rw [ends, e, unlessHeld, if_neg (by simp [hheld])], ?_⟩
  have hparts (q : Nat) : partGet (stokerStep (partSteps v)) q = { partGet v q with
      sweep := (partGet (stokerStep (partSteps v)) q).sweep, sweepVpn := (partGet (stokerStep (partSteps v)) q).sweepVpn,
      units := (partGet (stokerStep (partSteps v)) q).units, leaving := (partGet (stokerStep (partSteps v)) q).leaving,
      over_ := (partGet (stokerStep (partSteps v)) q).over_ } := by
    by_cases hq : q = p
    · subst hq
      have e1 := hsw.own
      rw [hk.parts q] at e1
      rw [e1]
    · have e1 := hsw.other q hq
      rw [hk.parts q] at e1
      rw [e1]
  refine ⟨?_, ?_, fun q => ?_, hparts⟩
  · have h1 : (stokerStep (partSteps v)).keyRun = (partSteps v).keyRun := by rw [hsw.eq]
    have h2 : (partSteps v).keyRun = v.keyRun := by rw [hk.eq]
    exact h1.trans h2
  · have h1 : (stokerStep (partSteps v)).nextKey = (partSteps v).nextKey := by rw [hsw.eq]
    have h2 : (partSteps v).nextKey = v.nextKey := by rw [hk.eq]
    exact h1.trans h2
  · have hn : (R.xltKey q).addr ∉ noteRegs := by
      simp only [noteRegs, R.xltKey, R.prtErrLog, R.prtErrCount, blkBase, List.mem_cons, List.not_mem_nil, or_false]
      omega
    exact congrArg (bits · 0 1) ((hsw.key q).trans (hk.regs _ hn))

end

/-! Key commands (R452, R455, R457). -/

section
variable {s t v u : State} {p k key : Nat}

/-- The registers in which a refused key command is counted and logged. -/
def keyRefusalRegs : List Reg := [R.secKeyRefused, R.secErrLog, R.secErrCount]

theorem counted_keyEnd (s : State) (op p result : Nat) : Counted { s with keyRun := some (op, p, result) } (keyEnd s op p result) keyRefusalRegs := by
  unfold keyEnd
  dsimp only
  split
  · exact .refl _ _
  · exact ((counted_bump ..).mono (by simp [keyRefusalRegs])).trans ((counted_logErr ..).mono (by simp [keyRefusalRegs]))

theorem xltKey_ge (q : Nat) : 0x200000000 ≤ (R.xltKey q).addr := by simp only [R.xltKey, blkBase]; omega

theorem Counted.xCur {rs : List Reg} (h : Counted s t rs) (hrs : ∀ x ∈ rs.map Reg.addr, x < 0x200000000) (q : Nat) :
    Machine.xCur t q = Machine.xCur s q :=
  congrArg (bits · 0 1) (h.regs _ fun hm => absurd (hrs _ hm) (by have := xltKey_ge q; omega))

theorem Counted.part {rs : List Reg} (h : Counted s t rs) (q : Nat) : partGet t q = partGet s q := by rw [h.eq]; rfl

theorem Follows.memKey {l : List Instr} (hf : Follows l v u) (q k : Nat) :
    Machine.memKey (partGet u q) k = Machine.memKey (partGet v q) k := by
  have h0 : (partGet u q).key0 = (partGet v q).key0 := by have h := congrArg Part.key0 (hf.parts q); exact h
  have h1 : (partGet u q).key1 = (partGet v q).key1 := by have h := congrArg Part.key1 (hf.parts q); exact h
  rw [Machine.memKey, Machine.memKey, h0, h1]

theorem Follows.fabKey {l : List Instr} (hf : Follows l v u) (q k : Nat) : Machine.fabKey u q k = Machine.fabKey v q k := by
  have h0 : (partGet u q).fab0 = (partGet v q).fab0 := by have h := congrArg Part.fab0 (hf.parts q); exact h
  have h1 : (partGet u q).fab1 = (partGet v q).fab1 := by have h := congrArg Part.fab1 (hf.parts q); exact h
  rw [Machine.fabKey, Machine.fabKey, h0, h1]

theorem Follows.xCur {l : List Instr} (hf : Follows l v u) (q : Nat) : Machine.xCur u q = Machine.xCur v q := by
  refine congrArg (bits · 0 1) (hf.rd _ ?_)
  simp only [noteRegs, R.xltKey, R.prtErrLog, R.prtErrCount, blkBase, List.mem_cons, List.not_mem_nil, or_false]
  omega

/-- From `s` to `v` partition `p` takes a key in the slot that was not current, which becomes current. -/
structure Rekeyed (p key : Nat) (s v : State) : Prop where
  eq : v = { s with csr := v.csr, parts := v.parts, keyRun := v.keyRun, fresh := v.fresh }
  cur : xCur v p = 1 - xCur s p
  new : memKey (partGet v p) (1 - xCur s p) = key
  old : memKey (partGet v p) (xCur s p) = memKey (partGet s p) (xCur s p)
  other : ∀ q, q ≠ p → partGet v q = partGet s q

theorem xCur_lt (s : State) (p : Nat) : xCur s p < 2 := bits_lt _ _ _

/-- The partition whose slot `c` is current with `key` in its other slot and a sweep to come. -/
def rekey (c key : Nat) (x : Part) : Part :=
  { (if 1 - c = 0 then { x with key0 := key } else { x with key1 := key }) with
    src := setBits x.src (1 - c) 1 (b1 (key % 2 = 1)), sweep := 1, sweepVpn := 0 }

theorem memKey_rekey {c : Nat} (hc : c < 2) (key : Nat) (x : Part) :
    memKey (rekey c key x) (1 - c) = key ∧ memKey (rekey c key x) c = memKey x c := by
  obtain rfl | rfl : c = 0 ∨ c = 1 := by omega
  · exact ⟨rfl, rfl⟩
  · exact ⟨rfl, rfl⟩

theorem rotateTo_eq (s : State) (p key : Nat) :
    rotateTo s p key = secBump (wrf (wr (partMod s p (rekey (xCur s p) key)) (R.secKcvPK p (1 - xCur s p)) (Config.kcv key).toNat)
      (R.xltKey p) 0 1 (1 - xCur s p)) R.secKeyLoads 1 := rfl

theorem rekeyed_rotateTo (s : State) (p key : Nat) : Rekeyed p key s (rotateTo s p key) := by
  have hlt := xCur_lt s p
  rw [rotateTo_eq]
  generalize Config.kcv key = kcv
  have hpart (q : Nat) : partGet (secBump (wrf (wr (partMod s p (rekey (xCur s p) key)) (R.secKcvPK p (1 - xCur s p)) kcv.toNat)
      (R.xltKey p) 0 1 (1 - xCur s p)) R.secKeyLoads 1) q = if q = p then rekey (xCur s p) key (partGet s p) else partGet s q := by
    rw [secBump, bump_csr]
    exact partGet_partMod ..
  have hkeys := memKey_rekey hlt key (partGet s p)
  refine ⟨by rw [secBump, bump_csr]; rfl, ?_, by rw [hpart, if_pos rfl]; exact hkeys.1, by rw [hpart, if_pos rfl]; exact hkeys.2,
    fun q hq => by rw [hpart, if_neg hq]⟩
  have hne : (R.xltKey p).addr ≠ R.secKeyLoads.addr := by
    have h := xltKey_ge p
    have h2 : R.secKeyLoads.addr < 0x200000000 := by decide
    omega
  rw [xCur, rdf, secBump, rd_bump_other _ _ hne, wrf, rd_wr_same, bits_setBits_same, pow_one]
  omega

/-- What ends a key command keeps the new key in its slot. -/
theorem Rekeyed.counted {rs : List Reg} (h : Rekeyed p key s t) (hk : Counted t v rs) (hrs : ∀ x ∈ rs.map Reg.addr, x < 0x200000000) :
    Rekeyed p key s v :=
  ⟨by rw [hk.eq, h.eq], by rw [hk.xCur hrs, h.cur], by rw [hk.part, h.new], by rw [hk.part, h.old], fun q hq => by rw [hk.part, h.other q hq]⟩

theorem Rekeyed.keyEnd (h : Rekeyed p key s t) (op result : Nat) : Rekeyed p key s (keyEnd t op p result) := by
  have hrun : Rekeyed p key s { t with keyRun := some (op, p, result) } :=
    ⟨by rw [h.eq], h.cur, h.new, h.old, h.other⟩
  exact hrun.counted (counted_keyEnd t op p result) (by decide)

theorem keyEnd_keyRun (s : State) (op p result : Nat) : (keyEnd s op p result).keyRun = some (op, p, result) := by
  rw [(counted_keyEnd s op p result).eq]

theorem keyEnd_part (s : State) (op p result q : Nat) : partGet (keyEnd s op p result) q = partGet s q := (counted_keyEnd s op p result).part q

/-- A rotation of a calm device completes: the sweep which it starts takes no key back. -/
theorem Rekeyed.completes {o : State} {c : Nat × Nat × Nat} (h : Rekeyed p key s v) (hp : p < 16) (hc : Calm s) (hrun : v.keyRun = some c) :
    ∃ u, ends o v = .next u ∧ u.keyRun = some c ∧ u.nextKey = s.nextKey ∧ xCur u p = 1 - xCur s p ∧ memKey (partGet u p) (1 - xCur s p) = key ∧
      memKey (partGet u p) (xCur s p) = memKey (partGet s p) (xCur s p) ∧ (partGet u p).seqMem = (partGet v p).seqMem := by
  have hstill : Still v := by
    have hs := hc.still
    rw [h.eq]
    exact ⟨hs.run, hs.here, hs.free, hs.aborts, hs.faults, hs.susp, hs.service, hs.warmQ, hs.unl⟩
  obtain ⟨u, hu, hk⟩ := ends_keysKept hp hstill (fun q hq => by rw [h.other q hq]; exact (hc.parts q).2) o
  refine ⟨u, hu, hk.keyRun.trans hrun, ?_, (hk.cur p).trans h.cur, (hk.memKey p _).trans h.new, (hk.memKey p _).trans h.old, ?_⟩
  · rw [hk.nextKey, h.eq]
  · rw [hk.parts p]

theorem keyFree (hp : p < 16) (hrun : s.keyRun = none) : (16 ≤ p || keyBusy (quiet s)) = false := by
  rw [keyBusy, show (quiet s).keyRun = none from hrun]
  simp [hp]

theorem calm_keyEnd (hc : Calm s) (op p result : Nat) : Calm (keyEnd s op p result) :=
  (counted_keyEnd s op p result).calm (hc.of rfl rfl rfl rfl rfl rfl rfl)

theorem keyEnd_xCur (s : State) (op p result q : Nat) : xCur (keyEnd s op p result) q = xCur s q :=
  (counted_keyEnd s op p result).xCur (by decide) q

/-- A key command that ends in a calm device with the result `c`. -/
theorem keyEnd_completes {f : State → State} {op c : Nat} (hc : Calm s) (hp : p < 16) (ht : Calm t) (e : f (quiet s) = keyEnd t op p c) :
    ∃ u, actStk (only (p < 16) f) s = .next u ∧ Follows s.pending (keyEnd t op p c) u := by
  rw [← e]
  exact actStk_only hc.run hc.here hp (by rw [e]; exact calm_keyEnd ht ..)

theorem Follows.keyEnd {l : List Instr} {op c : Nat} (h : Follows l (keyEnd t op p c) u) :
    u.keyRun = some (op, p, c) ∧ u.nextKey = t.nextKey ∧ (∀ q, Machine.xCur u q = Machine.xCur t q) ∧
      (∀ q, { partGet u q with over_ := false } = { partGet t q with over_ := false }) ∧ ∀ q k, Machine.fabKey u q k = Machine.fabKey t q k := by
  refine ⟨?_, ?_, fun q => by rw [h.xCur, keyEnd_xCur], fun q => by rw [h.parts q, keyEnd_part], fun q k => ?_⟩
  · rw [h.eq, (counted_keyEnd ..).eq]
  · rw [h.eq, (counted_keyEnd ..).eq]
  · rw [h.fabKey, Machine.fabKey, keyEnd_part, Machine.fabKey]

/-- A rotation to a generated key (R452). -/
theorem rotateGen_completes (hc : Calm s) (hp : p < 16) (hrun : s.keyRun = none) (hform : prtFormed s p = true) (hfree : slotBusy s p = false) :
    Completes (.rotateGen p) s (fun u => u.keyRun = some (2, p, 0) ∧ xCur u p = 1 - xCur s p ∧
      memKey (partGet u p) (1 - xCur s p) = 2 * s.nextKey ∧ u.nextKey = s.nextKey + 1 ∧ memKey (partGet u p) (xCur s p) = memKey (partGet s p) (xCur s p)) := by
  let w : State := { quiet s with nextKey := s.nextKey + 1 }
  have hw : Calm w := hc.quiet.of rfl rfl rfl rfl rfl rfl rfl
  have e : rotateGen (quiet s) p = keyEnd (rotateTo w p (2 * s.nextKey)) 2 p 0 := by
    have h1 : prtFormed (quiet s) p = true := hform
    have h2 : slotBusy (quiet s) p = false := hfree
    rw [rotateGen, keyFree hp hrun, h1, h2]
    rfl
  obtain ⟨u, hu, h1, h2, h3, h4, h5, -⟩ := ((rekeyed_rotateTo w p (2 * s.nextKey)).keyEnd 2 0).completes (o := s) hp hw (keyEnd_keyRun ..)
  refine ⟨u, ?_, h1, h3, h4, h2, h5⟩
  show actStk (only (p < 16) fun t => rotateGen t p) s = _
  rw [← hu, actStk, if_pos ⟨hc.run, hc.here⟩, only, if_pos hp, e]

/-- A rotation to an imported key (R452, R455). -/
theorem rotateImport_completes {va n slot : Nat} {w : State} (hc : Calm s) (hp : p < 16) (hrun : s.keyRun = none) (hform : prtFormed s p = true)
    (hfree : slotBusy s p = false) (hb : blobRead (quiet s) p va 0 (partGet s p).seqMem = (.ok (n, slot, key), w)) (hw : Calm w) :
    Completes (.rotateImport p va) s (fun u => u.keyRun = some (1, p, 0) ∧ xCur u p = 1 - xCur w p ∧
      memKey (partGet u p) (1 - xCur w p) = key ∧ u.nextKey = w.nextKey ∧ (partGet u p).seqMem = n) := by
  have e : rotateImport (quiet s) p va = keyEnd (keySeqSet (partMod (rotateTo w p key) p (fun x => { x with seqMem := n })) p) 1 p 0 := by
    have h1 : prtFormed (quiet s) p = true := hform
    have h2 : slotBusy (quiet s) p = false := hfree
    have h3 : blobRead (quiet s) p va 0 (partGet (quiet s) p).seqMem = (.ok (n, slot, key), w) := hb
    rw [rotateImport, keyFree hp hrun, h1, h2]
    simp only [h3]
    rfl
  have hseq : Rekeyed p key w (partMod (rotateTo w p key) p (fun x => { x with seqMem := n })) := by
    have h := rekeyed_rotateTo w p key
    refine ⟨by rw [h.eq]; rfl, h.cur, ?_, ?_, fun q hq => by rw [partGet_partMod, if_neg hq, h.other q hq]⟩
    · refine Eq.trans ?_ h.new
      rw [partGet_partMod_same]
      rfl
    · refine Eq.trans ?_ h.old
      rw [partGet_partMod_same]
      rfl
  have hset := counted_wr (partMod (rotateTo w p key) p (fun x => { x with seqMem := n })) (R.secKeySeqP p)
  have hlow : ∀ x ∈ [R.secKeySeqP p].map Reg.addr, x < 0x200000000 := by
    intro x hx
    simp only [List.map_cons, List.map_nil, List.mem_singleton, R.secKeySeqP, blkBase] at hx
    omega
  obtain ⟨u, hu, h1, h2, h3, h4, -, h6⟩ := ((hseq.counted (hset _) hlow).keyEnd 1 0).completes (o := s) hp hw (keyEnd_keyRun ..)
  refine ⟨u, ?_, h1, h3, h4, h2, ?_⟩
  · show actStk (only (p < 16) fun t => rotateImport t p va) s = _
    rw [← hu, actStk, if_pos ⟨hc.run, hc.here⟩, only, if_pos hp, e]
    rfl
  · rw [h6, keyEnd_part, (hset _).part, partGet_partMod_same]

/-- A rotation is refused while the other slot is in use (R452). -/
theorem rotate_refused (hc : Calm s) (hp : p < 16) (hrun : s.keyRun = none) (hform : prtFormed s p = true) (hbusy : slotBusy s p = true) :
    Completes (.rotateGen p) s (fun u => u.keyRun = some (2, p, 1) ∧ u.nextKey = s.nextKey ∧
      (bit (rd s R.secCtrl) 0 = false → rd u R.secKeyRefused = (rd s R.secKeyRefused + 1) % 2 ^ 48) ∧ xCur u p = xCur s p) ∧
    ∀ va, Completes (.rotateImport p va) s (fun u => u.keyRun = some (1, p, 1) ∧ xCur u p = xCur s p) := by
  have h1 : prtFormed (quiet s) p = true := hform
  have h2 : slotBusy (quiet s) p = true := hbusy
  have e1 : rotateGen (quiet s) p = keyEnd (quiet s) 2 p 1 := by
    rw [rotateGen, keyFree hp hrun, h1, h2]
    rfl
  have e2 (va : Nat) : rotateImport (quiet s) p va = keyEnd (quiet s) 1 p 1 := by
    rw [rotateImport, keyFree hp hrun, h1, h2]
    rfl
  refine ⟨?_, fun va => ?_⟩
  · obtain ⟨u, hu, hf⟩ := keyEnd_completes (f := fun t => rotateGen t p) hc hp hc.quiet e1
    obtain ⟨g1, g2, g3, -⟩ := hf.keyEnd
    refine ⟨u, hu, g1, g2, fun hcnt => ?_, g3 p⟩
    have hcnt' : bit (rd { quiet s with keyRun := some (2, p, 1) } R.secCtrl) 0 = false := hcnt
    rw [hf.rd _ (by decide), Machine.keyEnd]
    simp only [Nat.one_ne_zero, if_false]
    rw [secErr, rd_logErr_other _ (by decide) (by decide), secBump, rd_bump_same, hcnt']
    rfl
  · obtain ⟨u, hu, hf⟩ := keyEnd_completes (f := fun t => rotateImport t p va) hc hp hc.quiet (e2 va)
    obtain ⟨g1, g2, g3, -⟩ := hf.keyEnd
    exact ⟨u, hu, g1, g3 p⟩

/-- A blob that fails a check enters no key (R455). -/
theorem blob_refused {va c : Nat} {w : State} (hc : Calm s) (hp : p < 16) (hrun : s.keyRun = none) (hform : prtFormed s p = true) (hw : Calm w) :
    (slotBusy s p = false → blobRead (quiet s) p va 0 (partGet s p).seqMem = (.error c, w) →
      Completes (.rotateImport p va) s (fun u => u.keyRun = some (1, p, c) ∧ u.nextKey = w.nextKey ∧ xCur u p = xCur w p)) ∧
    (blobRead (quiet s) p va 1 (partGet s p).seqFab = (.error c, w) →
      Completes (.loadFab p va) s (fun u => u.keyRun = some (3, p, c) ∧ ∀ slot, fabKey u p slot = fabKey w p slot)) := by
  have h1 : prtFormed (quiet s) p = true := hform
  refine ⟨fun hfree hb => ?_, fun hb => ?_⟩
  · have e : rotateImport (quiet s) p va = keyEnd w 1 p c := by
      have h2 : slotBusy (quiet s) p = false := hfree
      have h3 : blobRead (quiet s) p va 0 (partGet (quiet s) p).seqMem = (.error c, w) := hb
      rw [rotateImport, keyFree hp hrun, h1, h2]
      simp only [h3]
      rfl
    obtain ⟨u, hu, hf⟩ := keyEnd_completes (f := fun t => rotateImport t p va) hc hp hw e
    obtain ⟨g1, g2, g3, -⟩ := hf.keyEnd
    exact ⟨u, hu, g1, g2, g3 p⟩
  · have e : loadFabOp (quiet s) p va = keyEnd w 3 p c := by
      have h3 : blobRead (quiet s) p va 1 (partGet (quiet s) p).seqFab = (.error c, w) := hb
      rw [loadFabOp, keyFree hp hrun, h1]
      simp only [h3]
      rfl
    obtain ⟨u, hu, hf⟩ := keyEnd_completes (f := fun t => loadFabOp t p va) hc hp hw e
    obtain ⟨g1, -, -, -, g5⟩ := hf.keyEnd
    exact ⟨u, hu, g1, g5 p⟩

/-- The partition with `key` in fabric slot `slot`, which has sent nothing yet. -/
def fabPut (slot key : Nat) (x : Part) : Part :=
  { (if slot = 0 then { x with fab0 := key } else { x with fab1 := key }) with used := setBits x.used slot 1 0 }

theorem fabSet_eq (s : State) (p slot key : Nat) :
    fabSet s p slot key = wr (partMod s p (fabPut slot key)) (R.secKcvPK p (2 + slot)) (if key = 0 then 0 else (Config.kcv key).toNat) := rfl

theorem fabSet_part (s : State) (p slot key q : Nat) :
    partGet (fabSet s p slot key) q = if q = p then fabPut slot key (partGet s p) else partGet s q := by
  rw [fabSet_eq]
  exact partGet_partMod ..

/-- A change of a partition that starts no sweep, with no unit leaving, keeps the device calm. -/
theorem Calm.partMod (hc : Calm s) {p : Nat} {f : Part → Part}
    (hf : (f (partGet s p)).leaving = 0 ∧ ((f (partGet s p)).sweep = 0 ∨ (f (partGet s p)).sweep = 2)) : Calm (Machine.partMod s p f) where
  run := hc.run
  here := hc.here
  free := hc.free
  aborts := hc.aborts
  faults := hc.faults
  susp := hc.susp
  service := hc.service
  warmQ := hc.warmQ
  unl := hc.unl
  parts q := by
    rw [partGet_partMod]
    split
    · exact hf
    · exact hc.parts q

theorem fabPut_calm (hc : Calm s) (p slot key : Nat) : (fabPut slot key (partGet s p)).leaving = 0 ∧
    ((fabPut slot key (partGet s p)).sweep = 0 ∨ (fabPut slot key (partGet s p)).sweep = 2) := by
  have h := hc.parts p
  unfold fabPut
  split
  · exact h
  · exact h

theorem calm_fabSet (hc : Calm s) (p slot key : Nat) : Calm (fabSet s p slot key) := by
  rw [fabSet_eq]
  exact (counted_wr ..).calm (hc.partMod (fabPut_calm hc p slot key))

/-- A blob's key enters its fabric slot (R455, R457). -/
theorem loadFab_completes {va n slot : Nat} {w : State} (hc : Calm s) (hp : p < 16) (hrun : s.keyRun = none) (hform : prtFormed s p = true)
    (hb : blobRead (quiet s) p va 1 (partGet s p).seqFab = (.ok (n, slot, key), w)) (hw : Calm w) :
    Completes (.loadFab p va) s (fun u =>
        u.keyRun = some (3, p, 0) ∧ fabKey u p slot = key ∧ bit (partGet u p).used slot = false ∧ (partGet u p).seqFab = n) := by
  generalize hv : partMod (fabSet w p slot key) p (fun x => { x with seqFab := n }) = v
  have hcv : Calm v := by
    have h := calm_fabSet hw p slot key
    rw [← hv]
    exact h.partMod (h.parts p)
  have hk : Counted v (secBump (keySeqSet v p) R.secKeyLoads 1) [R.secKeySeqP p, R.secKeyLoads] :=
    ((counted_wr ..).mono (by simp)).trans ((counted_bump ..).mono (by simp))
  have e : loadFabOp (quiet s) p va = keyEnd (secBump (keySeqSet v p) R.secKeyLoads 1) 3 p 0 := by
    have h1 : prtFormed (quiet s) p = true := hform
    have h3 : blobRead (quiet s) p va 1 (partGet (quiet s) p).seqFab = (.ok (n, slot, key), w) := hb
    rw [loadFabOp, keyFree hp hrun, h1]
    simp only [h3, hv]
    rfl
  obtain ⟨u, hu, hf⟩ := keyEnd_completes (f := fun t => loadFabOp t p va) hc hp (hk.calm hcv) e
  obtain ⟨g1, -, -, g4, g5⟩ := hf.keyEnd
  have hpart : partGet (secBump (keySeqSet v p) R.secKeyLoads 1) p = { fabPut slot key (partGet w p) with seqFab := n } := by
    rw [hk.part, ← hv, partGet_partMod_same, fabSet_part, if_pos rfl]
  have hused : (partGet u p).used = (fabPut slot key (partGet w p)).used := by
    have h := congrArg Part.used (g4 p)
    rw [hpart] at h
    exact h
  have hseq : (partGet u p).seqFab = n := by
    have h := congrArg Part.seqFab (g4 p)
    rw [hpart] at h
    exact h
  refine ⟨u, hu, g1, ?_, ?_, hseq⟩
  · rw [g5, fabKey, hpart, fabPut]
    split
    · rfl
    · rfl
  · rw [hused, fabPut]
    exact (bit_setBits_same ..).trans rfl

theorem kcv_addr (p k : Nat) : (R.secKcvPK p k).addr ∉ noteRegs ∧ (R.secKcvPK p k).addr ∉ keyRefusalRegs.map Reg.addr := by
  have h : 0x5801020 ≤ (R.secKcvPK p k).addr := by
    show 0x5801020 ≤ 0x5801020 + p * 0x40 + k * 8
    omega
  have h1 : ∀ x ∈ noteRegs, x < 0x5801020 := by decide
  have h2 : ∀ x ∈ keyRefusalRegs.map Reg.addr, x < 0x5801020 := by decide
  exact ⟨fun hm => by have := h1 _ hm; omega, fun hm => by have := h2 _ hm; omega⟩

/-- A fabric slot is erased unless it sends for a partition in fabric (R457). -/
theorem clearFab_completes (hc : Calm s) (hp : p < 16) (hrun : s.keyRun = none) (hform : prtFormed s p = true) :
    (∀ slot, slot < 2 → slot ≠ txSlot s p ∨ rdf s (R.colPartCtrlP p) 2 2 ≠ 2 → Completes (.clearFab p slot) s (fun u =>
      u.keyRun = some (4, p, 0) ∧ fabKey u p slot = 0 ∧ rd u (R.secKcvPK p (2 + slot)) = 0 ∧ fabKey u p (1 - slot) = fabKey s p (1 - slot))) ∧
    (rdf s (R.colPartCtrlP p) 2 2 = 2 → Completes (.clearFab p (txSlot s p)) s (fun u => u.keyRun = some (4, p, 6) ∧
      fabKey u p (txSlot s p) = fabKey s p (txSlot s p))) := by
  have h1 : prtFormed (quiet s) p = true := hform
  have hguard {slot : Nat} (hslot : slot < 2) : (16 ≤ p || 1 < slot || keyBusy (quiet s)) = false := by
    rw [keyBusy, show (quiet s).keyRun = none from hrun]
    simp [hp]
    omega
  refine ⟨fun slot hslot hok => ?_, fun hin => ?_⟩
  · have e : clearFabOp (quiet s) p slot = keyEnd (fabSet (quiet s) p slot 0) 4 p 0 := by
      have h2 : (slot = txSlot (quiet s) p && rdf (quiet s) (R.colPartCtrlP p) 2 2 = 2) = false := by
        simp only [Bool.and_eq_false_iff, decide_eq_false_iff_not]
        exact hok
      rw [clearFabOp, hguard hslot, h1]
      simp only [h2]
      rfl
    obtain ⟨u, hu, hf⟩ := keyEnd_completes (f := fun t => clearFabOp t p slot) hc hp (calm_fabSet hc.quiet p slot 0) e
    obtain ⟨g1, -, -, -, g5⟩ := hf.keyEnd
    have hpart : partGet (fabSet (quiet s) p slot 0) p = fabPut slot 0 (partGet s p) := (fabSet_part ..).trans (if_pos rfl)
    refine ⟨u, hu, g1, ?_, ?_, ?_⟩
    · rw [g5, fabKey, hpart, fabPut]
      split
      · rfl
      · rfl
    · have haddr : (R.secKcvPK p (2 + slot)).addr ∉ noteRegs ∧ (R.secKcvPK p (2 + slot)).addr ∉ keyRefusalRegs.map Reg.addr := kcv_addr ..
      rw [hf.rd _ haddr.1, (counted_keyEnd ..).regs _ haddr.2]
      show rd (wr (partMod (quiet s) p (fabPut slot 0)) (R.secKcvPK p (2 + slot)) 0) (R.secKcvPK p (2 + slot)) = 0
      exact rd_wr_same ..
    · rw [g5, fabKey, hpart, fabPut, fabKey]
      obtain rfl | rfl : slot = 0 ∨ slot = 1 := by omega
      · rfl
      · rfl
  · have hslot : txSlot s p < 2 := bits_lt _ _ _
    have e : clearFabOp (quiet s) p (txSlot s p) = keyEnd (quiet s) 4 p 6 := by
      have h2 : (txSlot s p = txSlot (quiet s) p && rdf (quiet s) (R.colPartCtrlP p) 2 2 = 2) = true := by
        simp only [Bool.and_eq_true, decide_eq_true_eq]
        exact ⟨rfl, hin⟩
      rw [clearFabOp, hguard hslot, h1]
      simp only [h2]
      rfl
    obtain ⟨u, hu, hf⟩ := keyEnd_completes (f := fun t => clearFabOp t p (txSlot s p)) hc hp hc.quiet e
    obtain ⟨g1, -, -, -, g5⟩ := hf.keyEnd
    exact ⟨u, hu, g1, g5 p _⟩

/-- What a key command of a partition that is not formed leaves (R455). -/
def NoKeys (s : State) (p op : Nat) (u : State) : Prop :=
  u.keyRun = some (op, p, 5) ∧ u.nextKey = s.nextKey ∧ xCur u p = xCur s p ∧ { partGet u p with over_ := false } = { partGet s p with over_ := false }

theorem noKeys_completes (hc : Calm s) (hp : p < 16) (hrun : s.keyRun = none) (hform : prtFormed s p = false) :
    Completes (.rotateGen p) s (NoKeys s p 2) ∧ (∀ va, Completes (.rotateImport p va) s (NoKeys s p 1) ∧ Completes (.loadFab p va) s (NoKeys s p 3)) ∧
      ∀ slot, slot < 2 → Completes (.clearFab p slot) s (NoKeys s p 4) := by
  have h1 : prtFormed (quiet s) p = false := hform
  have hends {f : State → State} {op : Nat} (e : f (quiet s) = keyEnd (quiet s) op p 5) :
      ∃ u, actStk (only (p < 16) f) s = .next u ∧ NoKeys s p op u := by
    obtain ⟨u, hu, hf⟩ := keyEnd_completes hc hp hc.quiet e
    obtain ⟨g1, g2, g3, g4, -⟩ := hf.keyEnd
    exact ⟨u, hu, g1, g2, g3 p, g4 p⟩
  refine ⟨hends (f := fun t => rotateGen t p) ?_, fun va => ⟨hends (f := fun t => rotateImport t p va) ?_, hends (f := fun t => loadFabOp t p va) ?_⟩,
    fun slot hslot => hends (f := fun t => clearFabOp t p slot) ?_⟩
  · show rotateGen (quiet s) p = _
    rw [rotateGen, keyFree hp hrun, h1]
    rfl
  · show rotateImport (quiet s) p va = _
    rw [rotateImport, keyFree hp hrun, h1]
    rfl
  · show loadFabOp (quiet s) p va = _
    rw [loadFabOp, keyFree hp hrun, h1]
    rfl
  · have hguard : (16 ≤ p || 1 < slot || keyBusy (quiet s)) = false := by
      rw [keyBusy, show (quiet s).keyRun = none from hrun]
      simp [hp]
      omega
    show clearFabOp (quiet s) p slot = _
    rw [clearFabOp, hguard, h1]
    rfl

/-- A key command's result appears when it is done (R471). -/
theorem secKeyCmdDone_completes {op r : Nat} (hc : Calm s) (hp : p < 16) (hrun : s.keyRun = some (op, p, r)) (hr : r < 16) :
    Completes .secKeyCmdDone s (fun u => u.keyRun = none ∧ rd u R.secKeyStatus = op + 16 * p + 256 * r ∧ SameRegs s u [R.secKeyStatus]) := by
  have hval : op + fieldAt 4 4 p + fieldAt 8 4 r = op + 16 * p + 256 * r := by
    simp only [fieldAt, Nat.shiftLeft_eq]
    omega
  have e : secKeyCmdDone (quiet s) = wr { quiet s with keyRun := none } R.secKeyStatus (op + 16 * p + 256 * r) := by
    rw [secKeyCmdDone, show (quiet s).keyRun = some (op, p, r) from hrun, ← hval]
  refine completes_stkAll (f := fun t => secKeyCmdDone t) hc (by rw [e]; exact hc.quiet.of rfl rfl rfl rfl rfl rfl rfl) fun u hf => ?_
  rw [e] at hf
  refine ⟨by rw [hf.eq]; rfl, by rw [hf.rd _ (by decide)]; exact rd_wr_same .., SameRegs.intro hf rfl fun q hq => ?_⟩
  exact rd_wr_other _ (by simpa using hq) _

/-- The partition whose slot `c` is current, with its other slot erased and its sweep at an end. -/
def eraseOld (c : Nat) (x : Part) : Part :=
  { (if 1 - c = 0 then { x with key0 := 0 } else { x with key1 := 0 }) with src := setBits x.src (1 - c) 1 0, sweep := 0 }

theorem memKey_eraseOld {c : Nat} (hc : c < 2) (x : Part) :
    memKey (eraseOld c x) (1 - c) = 0 ∧ memKey (eraseOld c x) c = memKey x c ∧ (eraseOld c x).leaving = x.leaving := by
  obtain rfl | rfl : c = 0 ∨ c = 1 := by omega
  · exact ⟨rfl, rfl, rfl⟩
  · exact ⟨rfl, rfl, rfl⟩

/-- A sweep that has left no frame under the old slot erases it (R452). -/
theorem keySweepDone_completes (hc : Calm s) (hp : p < 16) (hs : (partGet s p).sweep = 2) (hfr : frCount s p (1 - xCur s p) = 0) :
    Completes (.keySweepDone p) s (fun u => memKey (partGet u p) (1 - xCur s p) = 0 ∧ (partGet u p).sweep = 0 ∧
      memKey (partGet u p) (xCur s p) = memKey (partGet s p) (xCur s p) ∧ rd u (R.secKcvPK p (1 - xCur s p)) = 0) := by
  have e : keySweepDone (quiet s) p = wr (partMod (quiet s) p (eraseOld (xCur s p))) (R.secKcvPK p (1 - xCur s p)) 0 := by
    have hguard : (16 ≤ p || (partGet (quiet s) p).sweep = 0 || frCount (quiet s) p (1 - xCur (quiet s) p) ≠ 0 || (quiet s).away) = false := by
      have h1 : (partGet (quiet s) p).sweep = 2 := hs
      have h2 : frCount (quiet s) p (1 - xCur (quiet s) p) = 0 := hfr
      simp [hp, h1, h2, hc.here]
    rw [keySweepDone, hguard]
    rfl
  obtain ⟨hnew, hold, hleave⟩ := memKey_eraseOld (xCur_lt s p) (partGet s p)
  have hpart : partGet (keySweepDone (quiet s) p) p = eraseOld (xCur s p) (partGet s p) := by
    rw [e]
    exact partGet_partMod_same ..
  have hcalm : Calm (keySweepDone (quiet s) p) := by
    rw [e]
    exact (counted_wr ..).calm (hc.quiet.partMod ⟨hleave.trans (hc.parts p).1, .inl rfl⟩)
  refine completes_act (f := fun t => keySweepDone t p) hc hp hcalm fun u hf => ⟨?_, ?_, ?_, ?_⟩
  · rw [hf.memKey, hpart, hnew]
  · have h := congrArg Part.sweep (hf.parts p)
    rw [hpart] at h
    exact h
  · rw [hf.memKey, hpart, hold]
  · rw [hf.rd _ (kcv_addr ..).1, e]
    exact rd_wr_same ..

/-! Reports (R461–R464). -/

theorem counted_reportStat (s : State) (busy : Bool) (result len : Nat) : Counted s (reportStat s busy result len) [R.secReportStatus] :=
  counted_wr ..

/-- A report that starts: it is signed, the buffer is empty, and the status shows it in progress. -/
theorem reportStart_completes {f : State → State} {b : List Byte} {o : Host.Outcome State Fault Refusal} (hc : Calm s)
    (e : f (quiet s) = reportStart (quiet s) b) (ho : Calm (f (quiet s)) → ∃ u, o = .next u ∧ Follows s.pending (f (quiet s)) u) :
    ∃ u, o = .next u ∧ u.repRun = some (signed b) ∧ u.stk.report = [] ∧ bit (rd u R.secReportStatus) 0 = true ∧
      SameRegs s u [R.secReportStatus] := by
  rw [e, reportStart] at ho
  generalize hw : ({ stkMod (quiet s) (fun k => { k with report := [] }) with repRun := some (signed b) } : State) = w at ho
  have hcw : Calm w := by
    have h := hc.quiet
    rw [← hw]
    exact ⟨h.run, h.here, h.free, h.aborts, h.faults, h.susp, h.service, h.warmQ, h.unl, h.parts⟩
  have hk := counted_reportStat w true 0 0
  obtain ⟨u, hu, hf⟩ := ho (hk.calm hcw)
  refine ⟨u, hu, ?_, ?_, ?_, SameRegs.intro hf (by rw [hk.eq, ← hw]; rfl) fun r hr => ?_⟩
  · rw [hf.eq, hk.eq, ← hw]
  · rw [hf.eq, hk.eq, ← hw]; rfl
  · rw [hf.rd _ (by decide), reportStat, rd_wr_same]; rfl
  · rw [hk.regs r hr, ← hw]; rfl

theorem platformBytes_quiet (s : State) : platformBytes (quiet s) = platformBytes s := rfl
theorem tenantBytes_quiet (s : State) (p : Nat) : tenantBytes (quiet s) p = tenantBytes s p := rfl

theorem reports_complete (hc : Calm s) (hp : p < 16) (hrun : s.repRun = none) :
    Completes .platformReport s (fun u => u.repRun = some (signed (platformBytes s)) ∧ u.stk.report = [] ∧
      bit (rd u R.secReportStatus) 0 = true ∧ SameRegs s u [R.secReportStatus]) ∧
    (prtFormed s p = true → Completes (.tenantReport p) s (fun u => u.repRun = some (signed (tenantBytes s p)) ∧ u.stk.report = [] ∧
      bit (rd u R.secReportStatus) 0 = true ∧ SameRegs s u [R.secReportStatus])) ∧
    (prtFormed s p = false → Completes (.tenantReport p) s (fun u => u.repRun = none ∧ rdf u R.secReportStatus 1 3 = 1 ∧
      SameRegs s u [R.secReportStatus, R.secErrLog, R.secErrCount])) := by
  have hidle : (quiet s).repRun.isSome = false := by rw [show (quiet s).repRun = none from hrun]; rfl
  have hten {b : Bool} (hform : prtFormed s p = b) : tenantReport (quiet s) p =
      if !b then secErr (reportStat (quiet s) false 1 (rdf (quiet s) R.secReportStatus 16 16)) 4 p 1 0 0 else reportStart (quiet s) (tenantBytes (quiet s) p) := by
    rw [tenantReport, if_neg (by omega), hidle, show prtFormed (quiet s) p = b from hform]
    rfl
  refine ⟨?_, fun hform => ?_, fun hform => ?_⟩
  · refine reportStart_completes (f := fun t => platformReport t) hc ?_ fun h => actStk_calm hc.run hc.here h
    show platformReport (quiet s) = _
    rw [platformReport, hidle, platformBytes_quiet]
    rfl
  · refine reportStart_completes (f := fun t => tenantReport t p) hc ?_ fun h => actStk_only hc.run hc.here hp h
    show tenantReport (quiet s) p = _
    rw [hten hform, tenantBytes_quiet]
    rfl
  · have e : tenantReport (quiet s) p = secErr (reportStat (quiet s) false 1 (rdf (quiet s) R.secReportStatus 16 16)) 4 p 1 0 0 := by
      exact (hten hform).trans (if_pos (by decide))
    have hk : Counted (quiet s) (tenantReport (quiet s) p) [R.secReportStatus, R.secErrLog, R.secErrCount] := by
      rw [e]
      exact ((counted_reportStat ..).mono (by simp)).trans ((counted_logErr ..).mono (by simp))
    refine completes_stk (f := fun t => tenantReport t p) hc hp (hk.calm hc.quiet) fun u hf => ⟨?_, ?_, SameRegs.intro hf ?_ ?_⟩
    · rw [hf.eq, hk.eq]
      exact hrun
    · rw [rdf, hf.rd _ (by decide), e, secErr, rd_logErr_other _ (by decide) (by decide), reportStat, rd_wr_same]
      generalize rdf _ _ _ _ = len
      simp only [bits, fieldAt, b1, Nat.shiftLeft_eq, Nat.shiftRight_eq_div_pow, Bool.false_eq_true, if_false]
      omega
    · rw [hk.eq]
      rfl
    · exact hk.regs

/-- A report asked for while one is in progress shows BUSY (R471). -/
theorem reportBusy_completes {b : List Byte} (hc : Calm s) (hp : p < 16) (hrun : s.repRun = some b) :
    ∀ i ∈ [Instr.platformReport, .tenantReport p], Completes i s (fun u => u.repRun = some b ∧
      rdf u R.secReportStatus 1 3 = 2 ∧ SameRegs s u [R.secReportStatus]) := by
  have hbusy : (quiet s).repRun.isSome = true := by rw [show (quiet s).repRun = some b from hrun]; rfl
  have e1 : platformReport (quiet s) = reportWhileBusy (quiet s) := by rw [platformReport, hbusy]; rfl
  have e2 : tenantReport (quiet s) p = reportWhileBusy (quiet s) := by rw [tenantReport, if_neg (by omega), hbusy]; rfl
  have hk : Counted (quiet s) (reportWhileBusy (quiet s)) [R.secReportStatus] := counted_wrf ..
  have hP (u : State) (hf : Follows s.pending (reportWhileBusy (quiet s)) u) : u.repRun = some b ∧
      rdf u R.secReportStatus 1 3 = 2 ∧ SameRegs s u [R.secReportStatus] := by
    refine ⟨by rw [hf.eq, hk.eq]; exact hrun, ?_, SameRegs.intro hf (by rw [hk.eq]; rfl) hk.regs⟩
    rw [rdf, hf.rd _ (by decide), reportWhileBusy, wrf, rd_wr_same, bits_setBits_same]
    rfl
  intro i hi
  simp only [List.mem_cons, List.not_mem_nil, or_false] at hi
  rcases hi with rfl | rfl
  · exact completes_stkAll (f := fun t => platformReport t) hc (by rw [e1]; exact hk.calm hc.quiet) fun u hf => hP u (by rw [← e1]; exact hf)
  · exact completes_stk (f := fun t => tenantReport t p) hc hp (by rw [e2]; exact hk.calm hc.quiet) fun u hf => hP u (by rw [← e2]; exact hf)

/-- A report that is done is in its buffer (R464). -/
theorem reportDone_completes {b : List Byte} (hc : Calm s) (hrun : s.repRun = some b) (hb : b.length < 65536) :
    Completes .secReportDone s (fun u => u.stk.report = b ∧ u.repRun = none ∧
      rd u R.secReportStatus = 65536 * b.length ∧ SameRegs s u [R.secReportStatus, R.secReports]) := by
  generalize hw : ({ stkMod (quiet s) (fun k => { k with report := b }) with repRun := none } : State) = w
  have hcw : Calm w := by
    have h := hc.quiet
    rw [← hw]
    exact ⟨h.run, h.here, h.free, h.aborts, h.faults, h.susp, h.service, h.warmQ, h.unl, h.parts⟩
  have e : secReportDone (quiet s) = secBump (reportStat w false 0 b.length) R.secReports 1 := by
    rw [secReportDone, show (quiet s).repRun = some b from hrun, ← hw]
  have hk : Counted w (secBump (reportStat w false 0 b.length) R.secReports 1) [R.secReportStatus, R.secReports] :=
    ((counted_reportStat ..).mono (by simp)).trans ((counted_bump ..).mono (by simp))
  have hval : b1 false + fieldAt 1 3 0 + fieldAt 16 16 b.length = 65536 * b.length := by
    simp only [fieldAt, b1, Nat.shiftLeft_eq, Bool.false_eq_true, if_false]
    omega
  refine completes_stkAll (f := fun t => secReportDone t) hc (by rw [e]; exact hk.calm hcw) fun u hf => ?_
  rw [e] at hf
  refine ⟨?_, ?_, ?_, SameRegs.intro hf (by rw [hk.eq, ← hw]; rfl) fun r hr => ?_⟩
  · rw [hf.eq, hk.eq, ← hw]
    rfl
  · rw [hf.eq, hk.eq, ← hw]
  · rw [hf.rd _ (by decide), secBump, rd_bump_other _ _ (by decide), reportStat, rd_wr_same, hval]
  · rw [hk.regs r hr, ← hw]
    rfl

end

/-- Settles O48: a rotation's sweep takes no key back (`ends_keysKept`), and every other key command ends in a calm device (`keyEnd_completes`). -/
theorem keysAndReports : Obligations.KeysAndReports := by
  unfold Obligations.KeysAndReports
  intro s p hp hc
  refine ⟨fun hrun hform => ⟨rotateGen_completes hc hp hrun hform, fun hb => (rotate_refused hc hp hrun hform hb).1,
      fun hb => (rotate_refused hc hp hrun hform hb).2, fun va n slot key w hfree hb hw => rotateImport_completes hc hp hrun hform hfree hb hw,
      fun va c w hfree hb hw _ => (blob_refused hc hp hrun hform hw).1 hfree hb,
      fun va n slot key w hb _ hw => loadFab_completes hc hp hrun hform hb hw,
      fun va c w hb hw _ => (blob_refused hc hp hrun hform hw).2 hb, clearFab_completes hc hp hrun hform⟩,
    fun hrun hform => noKeys_completes hc hp hrun hform, fun op r hrun _ hr => secKeyCmdDone_completes hc hp hrun hr,
    keySweepDone_completes hc hp, reports_complete hc hp, fun b hrun => reportBusy_completes hc hp hrun,
    fun b hrun hb => reportDone_completes hc hrun hb⟩

end Sys2Proof.Machine

/-!
SUPPORT and proofs for the flash, the fuses and the test port (R550, R551, R553, R570): what a flash command does to the bytes, and how its status reads.
-/

namespace Sys2Proof.Machine

section
variable {s t : State}

/-! The status of a flash command (R550). -/

theorem flashStat_fields (busy : Bool) (op : Nat) {result : Nat} (hr : result < 16) :
    bit (b1 busy + fieldAt 1 3 op + fieldAt 4 4 result) 0 = busy ∧ bits (b1 busy + fieldAt 1 3 op + fieldAt 4 4 result) 4 4 = result := by
  simp only [bit_eq_decide, bits, fieldAt, Nat.shiftLeft_eq, Nat.shiftRight_eq_div_pow]
  cases busy
  · simp only [b1, Bool.false_eq_true, if_false, decide_eq_false_iff_not]
    omega
  · simp only [b1, if_true, decide_eq_true_eq]
    omega

theorem Calm.stkMod (hc : Calm s) {f : Stoker → Stoker}
    (hf : (f s.stk).phase = s.stk.phase ∧ (f s.stk).susp = s.stk.susp ∧ (f s.stk).service = s.stk.service ∧ (f s.stk).warmQ = s.stk.warmQ) :
    Calm (Machine.stkMod s f) := by
  obtain ⟨h1, h2, h3, h4⟩ := hf
  exact ⟨h1.trans hc.run, hc.here, hc.free, hc.aborts, hc.faults, h2.trans hc.susp, h3.trans hc.service, h4.trans hc.warmQ, hc.unl, hc.parts⟩

/-- A command of the Stoker that ends in the status of a flash command. -/
theorem flashStat_completes {f : State → State} {busy : Bool} {op result : Nat} {P : State → Prop} (hc : Calm s) (ht : Calm t)
    (e : f (quiet s) = flashStat t busy op result) (hr : result < 16)
    (hP : ∀ u, Follows s.pending (flashStat t busy op result) u → bit (rd u R.kndFlashStatus) 0 = busy → rdf u R.kndFlashStatus 4 4 = result →
      u.stk = t.stk → P u) :
    ∃ u, actStk f s = .next u ∧ P u := by
  refine completes_stkAll (f := f) hc (by rw [e]; exact (counted_wr ..).calm ht) fun u hf => ?_
  rw [e] at hf
  have hst : rd u R.kndFlashStatus = b1 busy + fieldAt 1 3 op + fieldAt 4 4 result := by
    rw [hf.rd _ (by decide), flashStat, rd_wr_same]
  obtain ⟨h1, h2⟩ := flashStat_fields busy op hr
  exact hP u hf (by rw [hst]; exact h1) (by rw [rdf, hst]; exact h2) (by rw [hf.eq]; rfl)

/-- What a flash command that has started leaves (R550). -/
def FlashStarted (s : State) (r : FlashRun) (u : State) : Prop :=
  u.stk.flashRun = some r ∧ bit (rd u R.kndFlashStatus) 0 = true ∧ u.stk.flash = s.stk.flash

theorem flash_starts {f : State → State} {r : FlashRun} (hc : Calm s)
    (e : f (quiet s) = flashStat (stkMod (quiet s) (fun k => { k with flashRun := some r })) true r.op 0) :
    ∃ u, actStk f s = .next u ∧ FlashStarted s r u :=
  flashStat_completes hc (hc.quiet.stkMod ⟨rfl, rfl, rfl, rfl⟩) e (by omega) fun u _ h1 _ h3 =>
    ⟨by rw [h3]; rfl, h1, by rw [h3]; rfl⟩

theorem flash_refused {f : State → State} {op result : Nat} (hc : Calm s) (hr : result < 16)
    (e : f (quiet s) = flashRefuse (quiet s) op result) : ∃ u, actStk f s = .next u ∧ rdf u R.kndFlashStatus 4 4 = result ∧ u.stk = s.stk :=
  flashStat_completes hc hc.quiet e hr fun u _ _ h2 h3 => ⟨h2, h3⟩

theorem flashStart_idle {r : FlashRun} (hrun : s.stk.flashRun = none) (htrial : s.stk.trial = none) :
    flashStart s r = if 0x8000000 ≤ r.addr || 2 ≤ r.copy || ((r.op = 2 || r.op = 3) && (r.addr % 256 ≠ 0 || r.len % 256 ≠ 0 || r.len = 0 ||
        65536 < r.len || 0x8000000 < r.addr + r.len)) then flashRefuse s r.op 3
      else if (r.op = 1 && !inIdleCopy s (r.addr / 65536 * 65536) 65536) || (r.op = 2 && !inIdleCopy s r.addr r.len) then flashRefuse s r.op 1
      else flashStat (stkMod s (fun k => { k with flashRun := some r })) true r.op 0 := by
  unfold flashStart
  dsimp only
  rw [hrun, htrial]
  exact if_neg (by simp)

/-- The clauses of the start of a flash command (R550). -/
theorem flash_start_clauses (hc : Calm s) (hrun : s.stk.flashRun = none) (htrial : s.stk.trial = none) :
    (∀ a, a < 0x8000000 →
      (inIdleCopy s (a / 65536 * 65536) 65536 = true → Completes (.erase a) s (FlashStarted s ⟨1, a, 0, 0⟩)) ∧
      (inIdleCopy s (a / 65536 * 65536) 65536 = false → Completes (.erase a) s (fun u => rdf u R.kndFlashStatus 4 4 = 1 ∧ u.stk = s.stk))) ∧
    (∀ a n, a % 256 = 0 → n % 256 = 0 → 0 < n → n ≤ 65536 → a + n ≤ 0x8000000 →
      (inIdleCopy s a n = true → Completes (.program a n) s (FlashStarted s ⟨2, a, n, 0⟩)) ∧
      Completes (.read a n) s (FlashStarted s ⟨3, a, n, 0⟩)) ∧
    (∀ c, c < 2 → Completes (.verify c) s (FlashStarted s ⟨4, 0, 0, c⟩)) := by
  have hidle (a n : Nat) : inIdleCopy (quiet s) a n = inIdleCopy s a n := rfl
  have hstart (r : FlashRun) := flashStart_idle (s := quiet s) (r := r) hrun htrial
  refine ⟨fun a ha => ⟨fun hin => flash_starts (f := fun t => flashErase t a) hc ?_,
    fun hin => flash_refused (f := fun t => flashErase t a) (op := 1) hc (by decide) ?_⟩,
    fun a n h1 h2 h3 h4 h5 => ⟨fun hin => flash_starts (f := fun t => flashProgram t a n) hc ?_,
      flash_starts (f := fun t => flashReadCmd t a n) hc ?_⟩,
    fun c h => flash_starts (f := fun t => flashVerify t c) hc ?_⟩
  · exact (hstart ⟨1, a, 0, 0⟩).trans ((if_neg (by simp; omega)).trans (if_neg (by simp [hidle, hin])))
  · exact (hstart ⟨1, a, 0, 0⟩).trans ((if_neg (by simp; omega)).trans (if_pos (by simp [hidle, hin])))
  · exact (hstart ⟨2, a, n, 0⟩).trans ((if_neg (by simp; omega)).trans (if_neg (by simp [hidle, hin])))
  · exact (hstart ⟨3, a, n, 0⟩).trans ((if_neg (by simp; omega)).trans (if_neg (by simp)))
  · exact (hstart ⟨4, 0, 0, c⟩).trans ((if_neg (by simp; omega)).trans (if_neg (by simp)))

end

/-! The end of a flash command (R550, R551). -/

section
variable {s t : State}

/-- What a flash command that has ended leaves with result `c`. -/
def FlashEnded (c : Nat) (u : State) : Prop := u.stk.flashRun = none ∧ rdf u R.kndFlashStatus 4 4 = c ∧ bit (rd u R.kndFlashStatus) 0 = false

/-- The device on which no flash command runs any more. -/
def flashIdle (s : State) : State := stkMod (quiet s) (fun k => { k with flashRun := none })

theorem calm_flashIdle (hc : Calm s) : Calm (flashIdle s) := hc.quiet.stkMod ⟨rfl, rfl, rfl, rfl⟩

/-- From `s` to `t` a flash command changed the bytes of the flash to `m`, and registers. -/
structure Flashed (s t : State) (m : Mem) : Prop where
  eq : t = { s with csr := t.csr, fresh := t.fresh, stk := { s.stk with flash := m } }

theorem Flashed.calm {m : Mem} (h : Flashed s t m) (hc : Calm s) : Calm t := by
  rw [h.eq]
  exact ⟨hc.run, hc.here, hc.free, hc.aborts, hc.faults, hc.susp, hc.service, hc.warmQ, hc.unl, hc.parts⟩

/-- A flash command that ends with its bytes as `m` holds them. -/
theorem flash_ends {ok : Bool} {m : Mem} {op c : Nat} {P : State → Prop} (hc : Calm s) (ht : Flashed (flashIdle s) t m) (hlt : c < 16)
    (e : flashCmdDone (quiet s) ok = flashStat t false op c)
    (hP : ∀ u, Follows s.pending (flashStat t false op c) u → FlashEnded c u → u.stk.flash = m → P u) :
    Completes (.flashCmdDone ok) s P :=
  flashStat_completes (f := fun t => flashCmdDone t ok) hc (ht.calm (calm_flashIdle hc)) e hlt fun u hf h1 h2 h3 =>
    hP u hf ⟨by rw [h3, ht.eq]; rfl, h2, h1⟩ (by rw [h3, ht.eq])

theorem flashCmdDone_ok {r : FlashRun} (hrun : s.stk.flashRun = some r) :
    (r.op = 1 → flashCmdDone (quiet s) true = flashStat (flErase (flashIdle s) r.addr) false 1 0) ∧
    (r.op = 2 → flashCmdDone (quiet s) true = flashStat (flProgram (flashIdle s) r.addr (flashBuf (flashIdle s) r.len)) false 2 0) ∧
    (r.op = 3 → flashCmdDone (quiet s) true = flashStat (bufPut (flashIdle s) (flRead (flashIdle s) r.addr r.len)) false 3 0) := by
  have h : (quiet s).stk.flashRun = some r := hrun
  obtain ⟨op, addr, len, copy⟩ := r
  refine ⟨?_, ?_, ?_⟩
  all_goals
    rintro rfl
    rw [flashCmdDone, h]
    rfl

/-- ERASE leaves a sector of ones. -/
theorem erase_ends {r : FlashRun} (hc : Calm s) (hrun : s.stk.flashRun = some r) (hop : r.op = 1) :
    Completes (.flashCmdDone true) s (fun u => FlashEnded 0 u ∧
        (∀ a, a / 65536 = r.addr / 65536 → memGet u.stk.flash a = 0) ∧ ∀ a, a / 65536 ≠ r.addr / 65536 → memGet u.stk.flash a = memGet s.stk.flash a) := by
  refine flash_ends (m := memZero s.stk.flash (r.addr / 65536 * 65536) 65536) hc ⟨rfl⟩ (by omega) ((flashCmdDone_ok hrun).1 hop)
    fun u _ hend hm => ⟨hend, fun a ha => ?_, fun a ha => ?_⟩
  · rw [hm, memGet_memZero, if_neg (by omega)]
  · rw [hm, memGet_memZero, if_pos (by omega)]

/-- PROGRAM clears bits and sets none: the flash holds its bytes inverted. -/
theorem program_ends {r : FlashRun} (hc : Calm s) (hrun : s.stk.flashRun = some r) (hop : r.op = 2) :
    Completes (.flashCmdDone true) s (fun u => FlashEnded 0 u ∧
        (∀ i, i < (flashBuf s r.len).length → memGet u.stk.flash (r.addr + i) = memGet s.stk.flash (r.addr + i) ||| ~~~ (flashBuf s r.len).getD i 0) ∧
        ∀ a, a < r.addr ∨ r.addr + (flashBuf s r.len).length ≤ a → memGet u.stk.flash a = memGet s.stk.flash a) := by
  generalize hb : flashBuf s r.len = b
  have hb' : flashBuf (flashIdle s) r.len = b := hb
  generalize hn : List.zipWith (fun o b => o ||| ~~~ b) (memGetL s.stk.flash r.addr b.length) b = new
  have hlen : new.length = b.length := by rw [← hn]; simp [memGetL]
  have e : flashCmdDone (quiet s) true = flashStat (flProgram (flashIdle s) r.addr b) false 2 0 := by
    rw [(flashCmdDone_ok hrun).2.1 hop, hb']
  refine flash_ends (m := memPutL s.stk.flash r.addr new) hc ⟨by rw [← hn]; rfl⟩ (by omega) e
    fun u _ hend hm => ⟨hend, fun i hi => ?_, fun a ha => ?_⟩
  · rw [hm, memGet_memPutL _ _ _ _ (by omega)]
    subst hn
    simp [memGetL, List.getElem?_eq_getElem hi]
  · rw [hm, memGet_memPutL_other _ _ _ (by rw [hlen]; exact ha)]

/-- READ fills the buffer. -/
theorem read_ends {r : FlashRun} (hc : Calm s) (hrun : s.stk.flashRun = some r) (hop : r.op = 3) (h8 : r.len % 8 = 0) :
    Completes (.flashCmdDone true) s (fun u => FlashEnded 0 u ∧ u.stk.flash = s.stk.flash ∧
        ∀ i, i < r.len / 8 → rd u (R.kndFlashBuf i) = bufWord (flRead s r.addr r.len) i) := by
  generalize hb : flRead s r.addr r.len = b
  have hb' : flRead (flashIdle s) r.addr r.len = b := hb
  have hlen : b.length = r.len := by rw [← hb]; simp [flRead, memGetL]
  have hput : bufPut (flashIdle s) b = wrAll R.kndFlashBuf (bufWord b) (List.range (cdiv b.length 8)) (flashIdle s) := rfl
  have hk := counted_wrAll R.kndFlashBuf (bufWord b) (List.range (cdiv b.length 8)) (flashIdle s)
  have e : flashCmdDone (quiet s) true = flashStat (bufPut (flashIdle s) b) false 3 0 := by
    rw [(flashCmdDone_ok hrun).2.2 hop, hb']
  refine flash_ends (m := s.stk.flash) hc ⟨by rw [hput, hk.eq]; rfl⟩ (by omega) e
    fun u hf hend hm => ⟨hend, hm, fun i hi => ?_⟩
  have haddr : (R.kndFlashBuf i).addr = 0x7010000 + i * 8 := rfl
  have h1 : (R.kndFlashBuf i).addr ∉ noteRegs := fun hm => by
    have h : ∀ x ∈ noteRegs, x < 0x7000000 := by decide
    have := h _ hm
    omega
  have h2 : (R.kndFlashBuf i).addr ≠ R.kndFlashStatus.addr := by
    show 0x7010000 + i * 8 ≠ 0x7000030
    omega
  rw [hf.rd _ h1, flashStat, rd_wr_other _ h2, hput]
  refine rd_wrAll _ _ (List.mem_range.2 ?_) (fun j _ he => ?_) _
  · rw [hlen, cdiv]
    omega
  · have hj : (R.kndFlashBuf j).addr = 0x7010000 + j * 8 := rfl
    omega

/-- The checks of a copy depend on the flash, the fuses and the registers. -/
theorem imgVerify_congr (hcsr : t.csr = s.csr) (hflash : t.stk.flash = s.stk.flash) (hfuses : t.stk.fuses = s.stk.fuses) (c : Nat) :
    imgVerify t c = imgVerify s c := by
  have hrd (r : Reg) : rd t r = rd s r := by rw [rd, rd, hcsr]
  have hread (a n : Nat) : flRead t a n = flRead s a n := by rw [flRead, flRead, hflash]
  have hbytes : secBytes t = secBytes s := by
    funext c x
    exact hread _ _
  have hdata (l : List Sec) (ty : Nat) : secData t c l ty = secData s c l ty := by rw [secData, secData, hbytes]
  have howner (b : List Byte) : ownerOk t b = ownerOk s b := by simp only [ownerOk, hrd, hfuses]
  have hfirm (b : List Byte) : firmwareOk t b = firmwareOk s b := by simp only [firmwareOk, hrd]
  have htuning (b : List Byte) : tuningOk t b = tuningOk s b := by simp only [tuningOk, rangeOk]
  have hconfig (l : List Sec) (b1 b2 b3 b4 b5 : List Byte) : configFail t l b1 b2 b3 b4 b5 = configFail s l b1 b2 b3 b4 b5 := by
    unfold configFail
    rw [htuning]
  simp only [imgVerify, hread, hbytes, hdata, howner, hfirm, hconfig]

theorem copyCheck_fst (s : State) (c : Nat) : (copyCheck s c).1 = imgVerify s c := by
  unfold copyCheck
  generalize imgVerify s c = r
  rfl

/-- The check of a copy is recorded in registers. -/
theorem copyCheck_csr (s : State) (c : Nat) : (copyCheck s c).2 = { s with csr := (copyCheck s c).2.csr, fresh := (copyCheck s c).2.fresh } := by
  have hnote (r : Except (Nat × Nat) Img) : copyNote s c r = { s with csr := (copyNote s c r).csr, fresh := (copyNote s c r).fresh } := by
    unfold copyNote
    extract_lets hd fw old v d
    exact (counted_wrAll (R.kndCopyDigCI c) (fun i => lv d (8 * i) 8) (List.range 4) (wr s (R.kndCopyInfoC c) v)).eq
  unfold copyCheck
  generalize imgVerify s c = r
  have h := hnote r
  dsimp only
  generalize copyNote s c r = w at h
  cases r with
  | ok m => exact h
  | error e =>
    show kndErr w e.1 c e.2 = { s with csr := (kndErr w e.1 c e.2).csr, fresh := (kndErr w e.1 c e.2).fresh }
    rw [kndErr, logErr_eq, h]

/-- The result of a VERIFY. -/
def verifyResult (r : Except (Nat × Nat) Img) : Nat := match r with | .ok _ => 0 | .error _ => 6

theorem flashCmdDone_verify {r : FlashRun} (hrun : s.stk.flashRun = some r) (hop : r.op = 4) :
    flashCmdDone (quiet s) true = flashStat (copyCheck (flashIdle s) r.copy).2 false 4 (verifyResult (copyCheck (flashIdle s) r.copy).1) := by
  obtain ⟨op, addr, len, copy⟩ := r
  obtain rfl : op = 4 := hop
  rw [flashCmdDone, show (quiet s).stk.flashRun = some ⟨4, addr, len, copy⟩ from hrun]
  simp only [Bool.not_true, Bool.false_eq_true, if_false]
  have h : copyCheck (stkMod (quiet s) fun k => { k with flashRun := none }) copy = copyCheck (flashIdle s) copy := by rw [flashIdle]
  rw [h]
  generalize copyCheck (flashIdle s) copy = v
  rfl

/-- VERIFY runs the checks. -/
theorem verify_ends {r : FlashRun} (hc : Calm s) (hrun : s.stk.flashRun = some r) (hop : r.op = 4) :
    Completes (.flashCmdDone true) s (fun u => u.stk.flash = s.stk.flash ∧ FlashEnded (verifyResult (copyCheck s r.copy).1) u) := by
  have hsame : (copyCheck (flashIdle s) r.copy).1 = (copyCheck s r.copy).1 := by
    rw [copyCheck_fst, copyCheck_fst]
    exact imgVerify_congr (s := s) (t := flashIdle s) rfl rfl rfl _
  have hcsr := copyCheck_csr (flashIdle s) r.copy
  have e := flashCmdDone_verify hrun hop
  rw [hsame] at e
  have hlt : verifyResult (copyCheck s r.copy).1 < 16 := by
    unfold verifyResult
    split
    · decide
    · decide
  generalize verifyResult (copyCheck s r.copy).1 = c at e hlt ⊢
  generalize (copyCheck (flashIdle s) r.copy).2 = t at hcsr e
  exact flash_ends hc (m := s.stk.flash) ⟨hcsr⟩ hlt e fun u hf hend hm => ⟨hm, hend⟩

end

section
variable {s t : State}

/-- A flash that does not answer ends the command with FLASH_ERROR. -/
theorem flash_fails {r : FlashRun} (hc : Calm s) (hrun : s.stk.flashRun = some r) :
    Completes (.flashCmdDone false) s (FlashEnded 5) := by
  have e : flashCmdDone (quiet s) false = flashStat (kndErr (flashPart (flashIdle s) r) 7 0 0) false r.op 5 := by
    rw [flashCmdDone, show (quiet s).stk.flashRun = some r from hrun]
    rfl
  have hpart : ∃ m, Flashed (flashIdle s) (kndErr (flashPart (flashIdle s) r) 7 0 0) m := by
    refine ⟨(flashPart (flashIdle s) r).stk.flash, ⟨?_⟩⟩
    rw [kndErr, logErr_eq]
    rfl
  obtain ⟨m, hm⟩ := hpart
  exact flash_ends hc hm (by omega) e fun u _ h _ => h

/-! The fuses (R553) and the test port (R570). -/

/-- The clauses of the fuse commands. -/
theorem fuses_lead (hc : Calm s) :
    let f := s.stk.fuses
    let d := (List.range 4).flatMap (fun i => leBytes 8 (rd s (R.kndOwnerDigestI i)))
    (f.owner = none → f.left ≠ 0 → Leads .ownerFuse s
      (wr (stkMod (quiet s) (fun k => { k with fuses := { f with owner := some d, left := f.left - 1 } })) R.kndCmdStatus 0)) ∧
    (f.owner ≠ none → Leads .ownerFuse s (wr (quiet s) R.kndCmdStatus 16)) ∧
    (f.svnMin ≠ (fwRun s).svn % 65536 → f.left ≠ 0 → Leads .svnRaise s
      (wr (stkMod (quiet s) (fun k => { k with fuses := { f with svnMin := (fwRun s).svn % 65536, left := f.left - 1 } })) R.kndCmdStatus 0)) ∧
    (f.svnMin = (fwRun s).svn % 65536 → Leads .svnRaise s (wr (quiet s) R.kndCmdStatus 32)) := by
  have hcalm {t : State} (v : Nat) (ht : Calm t) : Calm (wr t R.kndCmdStatus v) := (counted_wr ..).calm ht
  have hset (f : Fuses) : Calm (stkMod (quiet s) (fun k => { k with fuses := f })) := hc.quiet.stkMod ⟨rfl, rfl, rfl, rfl⟩
  have hfuses : (quiet s).stk.fuses = s.stk.fuses := rfl
  have hsvn : (fwRun (quiet s)).svn = (fwRun s).svn := rfl
  intro f d
  refine ⟨fun h1 h2 => ?_, fun h => ?_, fun h1 h2 => ?_, fun h => ?_⟩
  · refine lead_stkAll (f := ownerFuse) hc ?_ (hcalm 0 (hset _))
    rw [ownerFuse, hfuses, h1, Option.isSome_none, if_neg (by simp), if_neg h2]
    rfl
  · refine lead_stkAll (f := ownerFuse) hc ?_ (hcalm 16 hc.quiet)
    rw [ownerFuse, hfuses, if_pos (Option.isSome_iff_ne_none.2 h)]
    rfl
  · refine lead_stkAll (f := svnRaise) hc ?_ (hcalm 0 (hset _))
    rw [svnRaise, hfuses, hsvn, if_neg h1, if_neg h2]
    rfl
  · refine lead_stkAll (f := svnRaise) hc ?_ (hcalm 32 hc.quiet)
    rw [svnRaise, hfuses, hsvn, if_pos h]
    rfl

theorem lead_any {f : State → State} {v : State} (e : f (quiet s) = v) (hv : Calm v) : ∃ t, actAny f s = .next t ∧ Follows s.pending v t := by
  subst e
  exact ends_calm s hv

/-- Outside reset the test port takes the two instructions that drive no pin. -/
theorem jtag_leads (hc : Calm s) : Leads .jtagBypass s (stkMod (quiet s) (fun k => { k with jtag := { k.jtag with ir := 1 } })) ∧
    Leads .jtagIdcode s (stkMod (quiet s) (fun k => { k with jtag := { k.jtag with ir := 0 } })) ∧
    (∀ pins, Leads (.jtagSamplePreload pins) s (quiet s)) ∧ Leads .jtagExtest s (quiet s) := by
  have hset (ir : Nat) : Calm (stkMod (quiet s) (fun k => { k with jtag := { k.jtag with ir := ir } })) := hc.quiet.stkMod ⟨rfl, rfl, rfl, rfl⟩
  have hrun : ¬ (quiet s).stk.phase = .low := by
    rw [hc.quiet.run]
    simp
  refine ⟨lead_any (f := jtagBypass) rfl (hset 1), lead_any (f := jtagIdcode) rfl (hset 0), fun pins => ?_, ?_⟩
  · exact lead_any (f := fun t => jtagSamplePreload t pins.toNat) (if_neg hrun) hc.quiet
  · exact lead_any (f := jtagExtest) (if_neg hrun) hc.quiet

/-- Under reset it takes those that do. -/
theorem jtag_low (h : s.stk.phase = .low) :
    (∀ pins : W64, Completes (.jtagSamplePreload pins) s (fun u => u.stk = { s.stk with jtag := ⟨2, pins.toNat⟩ } ∧ u.csr = s.csr)) ∧
    Completes .jtagExtest s (fun u => u.stk = { s.stk with jtag := { s.stk.jtag with ir := 3 } } ∧ u.csr = s.csr) := by
  have hend {f : Stoker → Stoker} (hf : (f s.stk).phase = s.stk.phase) : ∃ u, ends s (stkMod (quiet s) f) = .next u ∧ u.stk = f s.stk ∧ u.csr = s.csr :=
    ⟨_, ends_stopped (v := stkMod (quiet s) f) (by show (f s.stk).phase ≠ _; rw [hf, h]; simp) rfl s, rfl, rfl⟩
  refine ⟨fun pins => ?_, ?_⟩
  · have e : jtagSamplePreload (quiet s) pins.toNat = stkMod (quiet s) (fun k => { k with jtag := ⟨2, pins.toNat⟩ }) := if_pos h
    show ∃ u, ends s (jtagSamplePreload (quiet s) pins.toNat) = .next u ∧ _
    rw [e]
    exact hend rfl
  · have e : jtagExtest (quiet s) = stkMod (quiet s) (fun k => { k with jtag := { k.jtag with ir := 3 } }) := if_pos h
    show ∃ u, ends s (jtagExtest (quiet s)) = .next u ∧ _
    rw [e]
    exact hend rfl

end

/-- Settles O55: each flash command ends in its status (`flash_ends`), with the bytes that it leaves. -/
theorem flashAndFusesKept : Obligations.FlashAndFusesKept := by
  unfold Obligations.FlashAndFusesKept
  refine ⟨fun s hc => ⟨fun hrun htrial => flash_start_clauses hc hrun htrial, fun r hrun => ?_, fuses_lead hc, jtag_leads hc⟩, fun s h => jtag_low h⟩
  refine ⟨fun a => ?_, erase_ends hc hrun, program_ends hc hrun, fun hop h8 _ => read_ends hc hrun hop h8, fun hop => ?_, ?_⟩
  · refine flash_refused (f := fun t => flashErase t a) (op := 1) hc (by simp) ?_
    show flashStart (quiet s) _ = _
    unfold flashStart
    dsimp only
    have h : (quiet s).stk.flashRun = some r := hrun
    rw [h]
    exact if_pos rfl
  · obtain ⟨u, hu, h1, h2⟩ := verify_ends hc hrun hop
    refine ⟨u, hu, h1, ?_⟩
    generalize (copyCheck s r.copy).1 = v at h2 ⊢
    cases v with
    | ok m => exact h2
    | error e => exact h2
  · exact flash_fails hc hrun

end Sys2Proof.Machine

/-!
SUPPORT and proofs for the cold start (R530–R532, R537, R538, R543, R552): what the start of the links, of the routes and of the exporter keeps, so that
the device that has booted serves.
-/

namespace Sys2Proof.Machine

section
variable {s t u : State}

/-- From `s` to `t` the start goes on: the Stoker, the partitions, the count of cold starts and STK_STATUS are kept. -/
structure StartKept (s t : State) : Prop where
  stk : t.stk = s.stk
  parts : t.parts = s.parts
  starts : t.coldStarts = s.coldStarts
  status : rd t R.stkStatus = rd s R.stkStatus

theorem StartKept.refl (s : State) : StartKept s s := ⟨rfl, rfl, rfl, rfl⟩

theorem StartKept.trans (h : StartKept s t) (k : StartKept t u) : StartKept s u :=
  ⟨k.stk.trans h.stk, k.parts.trans h.parts, k.starts.trans h.starts, k.status.trans h.status⟩

theorem StartKept.foldl {α : Type} {f : State → α → State} (hf : ∀ a w, StartKept w (f w a)) (l : List α) (s : State) : StartKept s (l.foldl f s) := by
  induction l generalizing s with
  | nil => exact .refl s
  | cons a l ih => exact (hf a s).trans (ih (f s a))

theorem Counted.startKept {rs : List Reg} (h : Counted s t rs) (hr : R.stkStatus.addr ∉ rs.map Reg.addr) : StartKept s t :=
  ⟨by rw [h.eq], by rw [h.eq], by rw [h.eq], h.regs _ hr⟩

/-- A register beyond the Stoker's block. -/
theorem startKept_wr (s : State) {r : Reg} (v : Nat) (hr : 0x200000 ≤ r.addr) : StartKept s (wr s r v) :=
  (counted_wr s r v).startKept (by
    simp only [List.map_cons, List.map_nil, List.mem_singleton, R.stkStatus, blkBase]
    omega)

theorem startKept_linksStart (s : State) : StartKept s (linksStart s) := by
  refine .trans (t := { s with links := [] }) ⟨rfl, rfl, rfl, rfl⟩ (.foldl (fun n w => ?_) _ _)
  have hput (w : State) (x : Link) : StartKept w (lkPut w n x) := ⟨rfl, rfl, rfl, rfl⟩
  have herr (w : State) : StartKept w (lnkErr w n 8 0) := (counted_logErr ..).startKept (by
    simp only [List.map_cons, List.map_nil, List.mem_cons, List.not_mem_nil, or_false, R.stkStatus, R.lnkErrLog, R.lnkErrCount, blkBase]
    omega)
  dsimp only
  split
  · exact (startKept_wr w _ (by simp only [R.lnkPortCfgP, blkBase]; omega)).trans ((hput ..).trans ((herr _).trans (hput ..)))
  · split
    · exact (startKept_wr w _ (by simp only [R.fabAdjP, blkBase]; omega)).trans (hput ..)
    · exact hput ..

theorem startKept_routesAgain (s : State) : StartKept s (routesAgain s) := by
  unfold routesAgain
  split
  · exact .refl s
  · exact .foldl (fun d w => startKept_wr w _ (by simp only [R.fabRouteD, blkBase]; omega)) _ s

theorem startKept_ipfixRefresh (s : State) : StartKept s (ipfixRefresh s) := by
  have hemit (w : State) (m : HostMsg) : StartKept w (hostEmit w m) := by
    unfold hostEmit
    dsimp only
    split
    · split
      · exact ⟨rfl, rfl, rfl, rfl⟩
      · exact ⟨rfl, rfl, rfl, rfl⟩
    · exact .trans (t := { w with tx := w.tx ++ [frameOf w m] }) ⟨rfl, rfl, rfl, rfl⟩ ((counted_hostOut w m).startKept (by decide))
  have hout (w : State) (b : List Byte) (n : Nat) : StartKept w (ipfixOut w b n) := by
    unfold ipfixOut
    dsimp only
    split
    · exact ((counted_hstBump ..).startKept (by decide)).trans ((counted_hstErr ..).startKept (by decide))
    · refine (hemit w (.ipfix (ipfixMsg w b))).trans ?_
      generalize hostEmit w (.ipfix (ipfixMsg w b)) = v
      refine .trans ?_ (Counted.startKept (rs := [R.telIpfixRecords]) (counted_bump ..) (by decide))
      exact ⟨rfl, rfl, rfl, rfl⟩
  unfold ipfixRefresh
  split
  · exact hout ..
  · exact .refl s

end

/-! The state that serves (R543, R552). -/

/-- A device that serves after a start with image `m`, `n` cold starts counted. -/
structure Served (m : Img) (n : Nat) (u : State) : Prop where
  rested : Rested u
  run : u.stk.phase = .run
  status : rdf u R.stkStatus 0 3 = 1
  starts : u.coldStarts = n
  digest : u.stk.imgDigest = m.digest
  faultN : u.stk.faultN = false
  parts : u.parts = []

theorem healthWrite_kept (s : State) :
    (healthWrite s).stk.faultN = s.stk.faultN ∧ (healthWrite s).parts = s.parts ∧ (healthWrite s).coldStarts = s.coldStarts := by
  simp only [healthWrite, flProgram, flErase, stkMod, and_self]

/-- The image's settings and the start of the links, routes and exporter serve: what stages 1 to 8 left is kept. -/
theorem serving_kept {s t : State} {base : Tbl Nat} {n : Nat} {q : Tbl QPair} {x : HostPort} (ht : t.stk = { s.stk with base := base })
    (hparts : t.parts = s.parts) (hstarts : t.coldStarts = s.coldStarts) :
    let u := ipfixRefresh (routesAgain (linksStart (stkState { t with now := n, qps := q, hport := x } 1)))
    u.stk = { s.stk with base := base } ∧ u.parts = s.parts ∧ u.coldStarts = s.coldStarts ∧ rdf u R.stkStatus 0 3 = 1 := by
  generalize hv : stkState { t with now := n, qps := q, hport := x } 1 = v
  have hvk : v.stk = t.stk ∧ v.parts = t.parts ∧ v.coldStarts = t.coldStarts ∧ rdf v R.stkStatus 0 3 = 1 := by
    rw [← hv]
    exact ⟨rfl, rfl, rfl, (congrArg (bits · 0 3) (rd_wr_same ..)).trans (bits_setBits_same ..)⟩
  obtain ⟨h1, h2, h3, h4⟩ := hvk
  have hend : StartKept v (ipfixRefresh (routesAgain (linksStart v))) :=
    (startKept_linksStart v).trans ((startKept_routesAgain _).trans (startKept_ipfixRefresh _))
  exact ⟨by rw [hend.stk, h1, ht], by rw [hend.parts, h2, hparts], by rw [hend.starts, h3, hstarts], by rw [rdf, hend.status]; exact h4⟩

theorem bootRun_serves {s : State} {b : BootInputs} {m : Img} {copy : Nat} (hb : b.bridgesOk = true) (hpcs : b.failedPcs = [])
    (hh : b.failedHearths = []) (hs : Rested s) (hparts : s.parts = []) (hf : s.stk.faultN = false) : Served m (s.coldStarts + 1) (bootRun s b m copy) := by
  unfold bootRun
  rw [hb]
  extract_lets inUse s1 n s2 s3 s4 s5 s6 s7 s8 s9 c base s10 times s11 port s12
  rw [if_neg (by simp)]
  have hrest2 : Rested s2 := ((restKept_wr s _ _).trans ((restKept_coldStarts s1 n).trans (restKept_healthWrite _))).rested hs
  have hrest6 : Rested s6 := ((restKept_wr s2 _ _).trans (((restKept_bootAsh s3).trans (restKept_bootCert _)).trans
    (((restKept_stkMod s4 (by exact rfl) (by exact rfl) (by exact rfl)).trans (restKept_fwInfo _)).trans (restKept_wr s5 _ _)))).rested hrest2
  obtain ⟨hfault, hpart, hn⟩ : s2.stk.faultN = s.stk.faultN ∧ s2.parts = s.parts ∧ s2.coldStarts = n :=
    healthWrite_kept { s1 with coldStarts := n }
  clear_value s2
  obtain ⟨h1, h2, h3, h4, h5⟩ : s6.stk.phase = .run ∧ s6.stk.imgDigest = m.digest ∧ s6.stk.faultN = s2.stk.faultN ∧ s6.parts = s2.parts ∧
      s6.coldStarts = s2.coldStarts := by
    simp only [s6, s5, s4, s3, fwInfo, bootCert, bootAsh, stkMod, wr_stk, wrf_stk, wr_parts, wrf_parts, wr_coldStarts, wrf_coldStarts, and_self]
  have h7 : s7 = s6 := by
    unfold s7
    rw [hh]
    rfl
  clear_value s6
  have h9 : s9 = { s6 with hbm := s8.hbm } := by
    unfold s9 s8
    rw [h7, hpcs]
    rfl
  have hrest9 : Rested s9 := by
    rw [h9]
    exact RestKept.rested (s := s6) (.frame rfl rfl) hrest6
  have hrest10 : Rested s10 :=
    ((restKept_csr s9 _).trans (restKept_stkMod _ (by exact rfl) (by exact rfl) (by exact rfl))).rested hrest9
  clear_value s9
  have h10 : s10.stk = { s9.stk with base := base } ∧ s10.parts = s9.parts ∧ s10.coldStarts = s9.coldStarts := ⟨rfl, rfl, rfl⟩
  obtain ⟨hk1, hk2, hk3⟩ := h10
  clear_value s10
  have h11 : StartKept s10 s11 := .foldl (fun i w => startKept_wr w _ (by simp only [R.kndStageTimeS, blkBase]; omega)) _ s10
  have hrest11 : Rested s11 := RestKept.rested (.foldl (fun _ w => restKept_wr w _ _) _ s10) hrest10
  have hrest12 : Rested s12 := ((restKept_ports s11 _ _ _).trans (restKept_stkState _ 1)).rested hrest11
  have hrested : Rested (ipfixRefresh (routesAgain (linksStart s12))) :=
    ((restKept_linksStart s12).trans ((restKept_routesAgain _).trans (restKept_ipfixRefresh _))).rested hrest12
  clear_value s11
  obtain ⟨k1, k2, k3, k4⟩ := serving_kept (s := s9) (t := s11) (n := 275 * times.getLastD 0) (q := [(1024, mgmtQp s11)])
    (x := { port with up := bit (rd s11 R.hstCtrl) 2 }) (h11.stk.trans hk1) (h11.parts.trans hk2) (h11.starts.trans hk3)
  rw [h9] at k1 k2 k3
  exact ⟨hrested, (congrArg Stoker.phase k1).trans h1, k4, (k3.trans h5).trans hn, (congrArg Stoker.imgDigest k1).trans h2,
    (congrArg Stoker.faultN k1).trans (h3.trans (hfault.trans hf)), by rw [k2, h4, hpart, hparts]⟩

/-- A command that leaves the device serving after a start ends so. -/
theorem Served.ends {m : Img} {n : Nat} {v : State} (h : Served m n v) (s : State) : ∃ u, ends s v = .next u ∧ u.stk.phase = .run ∧
    rdf u R.stkStatus 0 3 = 1 ∧ u.coldStarts = n ∧ u.stk.imgDigest = m.digest ∧ u.stk.faultN = false ∧ u.parts = [] := by
  have hs := h.rested
  have hrun : settleRun v = v := by
    have hsus : suspectAgain v = v := by simp [suspectAgain, hs.susp]
    have hend : ∀ b, suspectSettle v b = v := fun b => by simp [suspectSettle, hs.susp]
    simp only [settleRun, hsus, hs.settleAborts_eq, hs.settleFaults_eq, hend, hs.unl, h.parts, List.map_nil, List.foldl_nil]
    rw [hs.stokerStep_eq, hs.settleAborts_eq]
  refine ⟨_, rfl, ?_⟩
  have e : settle v = { v with dueAborts := [], dueHrt := [] } := by simp only [settle, h.run, if_true, hrun]
  rw [e, unlessHeld, if_neg (by simp [hs.held])]
  exact ⟨h.run, h.status, h.starts, h.digest, h.faultN, h.parts⟩

/-! A blank flash (R538). -/

theorem flRead_blank {s : State} (h : s.stk.flash = []) (a n : Nat) : flRead s a n = List.replicate n 0xFF := by
  rw [flRead, h, memGetL, List.map_map]
  refine List.eq_replicate_iff.2 ⟨by simp, fun b hb => ?_⟩
  obtain ⟨i, -, rfl⟩ := List.mem_map.1 hb
  show ~~~ (0 : Byte) = 0xFF
  decide

/-- The first word of a blank record. -/
theorem lv_blank {n : Nat} (hn : 4 ≤ n) : lv (List.replicate n (0xFF : Byte)) 0 4 = 0xFFFFFFFF := by
  rw [lv, List.drop_zero, List.take_replicate, Nat.min_eq_left hn]
  decide

theorem imgVerify_blank {s : State} (h : s.stk.flash = []) (c : Nat) : imgVerify s c = .error (1, 0) := by
  have hbad : headerOk (flRead s (copyBase c) 8192) = false := by
    rw [flRead_blank h, headerOk, lv_blank (by omega)]
    simp only [show decide (0xFFFFFFFF = 0x31444E4B) = false from by decide, Bool.false_and]
  unfold imgVerify
  extract_lets hd
  exact if_pos (by rw [show headerOk hd = false from hbad]; rfl)

/-- No copy of a blank flash verifies. -/
theorem bootCopy_blank {s : State} (h : s.stk.flash = []) (c : Nat) : (bootCopy s c).1 = none := by
  have h1 : (copyCheck s c).1 = .error (1, 0) := (copyCheck_fst s c).trans (imgVerify_blank h c)
  have hflash : (copyCheck s c).2.stk.flash = [] := by
    rw [copyCheck_csr]
    exact h
  have h2 : (copyCheck (copyCheck s c).2 (1 - c)).1 = .error (1, 0) := (copyCheck_fst ..).trans (imgVerify_blank hflash _)
  unfold bootCopy
  simp only [h1, h2]

theorem bootHealth_blank {s : State} (h : s.stk.flash = []) : (bootHealth s).stk.flash = [] := by
  have hslot (i : Nat) : slotRecord s i = none := by
    unfold slotRecord
    extract_lets b
    have hb : lv b 0 4 = 0xFFFFFFFF := by
      unfold b
      rw [flRead_blank h, lv_blank (by omega)]
    rw [hb]
    exact if_neg (by simp only [show decide (0xFFFFFFFF = 0x31544C48) = false from by decide, Bool.false_and, Bool.false_eq_true, not_false_eq_true])
  have hnone : healthNow s = none := by
    unfold healthNow
    simp only [hslot]
  unfold bootHealth
  rw [hnone]
  simp only [wr_stk, h]

/-- The command of a start whose flash holds no copy stops the device. -/
theorem boot_blank {s : State} (h : s.stk.flash = []) (b : BootInputs) :
    (boot s b).stk.phase = .stopped ∧ (boot s b).stk.faultN = true ∧ (boot s b).held = false := by
  unfold boot
  extract_lets both s1 f s2 s3 r
  have h2 : s2.stk.flash = [] := by simp only [s2, s1, wr_stk, stkMod, offState, stkOff, h]
  have h3 : (bootHealth s2).stk.flash = [] := bootHealth_blank h2
  have hr : r.1 = none := by
    unfold r s3
    exact bootCopy_blank (s := bootHealth s2) h3 _
  have hrest3 : Rested s3 := ((restKept_stkMod _ (by exact rfl) (by exact rfl) (by exact rfl)).trans ((restKept_wr s1 _ _).trans
    (restKept_bootHealth s2))).rested (rested_offState s)
  have hrest : Rested r.2 := (restKept_bootCopy ..).rested hrest3
  clear_value r
  rw [hr]
  exact ⟨rfl, rfl, hrest.held⟩

/-! The commands. -/

section
variable {s v : State}

/-- A command that leaves the device out of service ends as it left it. -/
theorem actAny_out {f : State → State} {P : State → Prop} (e : f (quiet s) = v) (h : v.stk.phase ≠ .run) (hheld : v.held = false)
    (hP : P { v with dueAborts := [], dueHrt := [], pending := s.pending }) : ∃ u, actAny f s = .next u ∧ P u := by
  subst e
  exact ⟨_, ends_stopped h hheld s, hP⟩

theorem flashAbort_idle (h : s.stk.flashRun = none) : flashAbort (quiet s) = quiet s := by
  rw [flashAbort, show (quiet s).stk.flashRun = none from h]

theorem resetAssert_completes (h : s.stk.flashRun = none) :
    Completes .resetAssert s (fun u => u.stk.phase = .low ∧ u.hearths = [] ∧ u.parts = [] ∧ u.csr = [] ∧ u.hbm = Hbm.zero ∧ u.qps = [] ∧
      u.stk.flash = s.stk.flash ∧ u.stk.fuses = s.stk.fuses ∧ u.hport.up = false) :=
  actAny_out (f := resetAssert) (v := offState (quiet s)) (by rw [resetAssert, flashAbort_idle h]) (by show Phase.low ≠ _; simp) rfl
    ⟨rfl, rfl, rfl, rfl, rfl, rfl, rfl, rfl, rfl⟩

theorem coldStart_idle (h : s.stk.flashRun = none) (b : BootInputs) : coldStart (quiet s) b =
    if b.refA || b.refB then boot (stkMod (offState (quiet s)) (fun k => { k with refA := b.refA, refB := b.refB, faultN := false, thermN := false })) b
    else stkMod (stkMod (offState (quiet s)) (fun k => { k with refA := b.refA, refB := b.refB, faultN := false, thermN := false }))
      (fun k => { k with phase := .sampling, bootIn := some b }) := by
  rw [coldStart, flashAbort_idle h]

/-- A start with no reference input samples on; with one, and a blank flash, it stops. -/
theorem coldStart_out (h : s.stk.flashRun = none) (b : BootInputs) :
    (b.refA = false → b.refB = false → Completes (.coldStart b) s (fun u => u.stk.phase = .sampling ∧ u.stk.bootIn = some b ∧
      u.stk.flash = s.stk.flash)) ∧
    (b.refA || b.refB → s.stk.flash = [] → Completes (.coldStart b) s (fun u => u.stk.phase = .stopped ∧ u.stk.faultN = true)) := by
  refine ⟨fun ha hb => ?_, fun href hflash => ?_⟩
  · refine actAny_out (f := fun t => coldStart t b) ((coldStart_idle h b).trans (if_neg (by rw [ha, hb]; simp))) (by show Phase.sampling ≠ _; simp) rfl
      ⟨rfl, rfl, rfl⟩
  · obtain ⟨h1, h2, h3⟩ := boot_blank (s := stkMod (offState (quiet s)) (fun k =>
      { k with refA := b.refA, refB := b.refB, faultN := false, thermN := false })) (by simp only [stkMod, offState, stkOff, quiet, hflash]) b
    have e := (coldStart_idle h b).trans (if_pos href)
    generalize boot _ b = v at h1 h2 h3 e
    exact actAny_out (f := fun t => coldStart t b) e (by rw [h1]; simp) h3 ⟨h1, h2⟩

/-- The device as the firmware finds it, once the reference inputs feed the PLLs. -/
def fedState (s : State) (b : BootInputs) : State :=
  let feed (x : Stoker) : Stoker := { x with coreB := !b.refA, serdesB := b.refA && b.refB || !b.refA }
  stkMod (offState s) (fun x => feed { x with refA := b.refA, refB := b.refB, faultN := false, thermN := false })

/-- The device as its copies are checked. -/
def fusedState (s : State) (b : BootInputs) : State :=
  bootHealth (wr (fedState s b) R.devFuses (b1 s.stk.fuses.owner.isSome + fieldAt 8 16 s.stk.fuses.svnMin))

/-- Which copy the firmware runs from. -/
def copyChosen (s : State) (b : BootInputs) : Option (Img × Nat) × State :=
  bootCopy (fusedState s b) (rdf (fusedState s b) R.kndStatus 0 1)

theorem boot_chosen {m : Img} {c : Nat} {w : State} (s : State) (b : BootInputs) (h : copyChosen s b = (some (m, c), w)) :
    boot (stkMod (offState (quiet s)) (fun k => { k with refA := b.refA, refB := b.refB, faultN := false, thermN := false })) b =
      bootRun w b m c := by
  generalize hv : stkMod (offState (quiet s)) (fun k => { k with refA := b.refA, refB := b.refB, faultN := false, thermN := false }) = v
  have hfed : stkMod (offState v) (fun k => { k with faultN := false, thermN := false, coreB := !k.refA, serdesB := (v.stk.refA && v.stk.refB) || !k.refA }) = fedState s b := by
    rw [← hv]
    rfl
  have hfuses : (fedState s b).stk.fuses = s.stk.fuses := rfl
  have e : bootCopy (bootHealth (wr (fedState s b) R.devFuses (b1 s.stk.fuses.owner.isSome + fieldAt 8 16 s.stk.fuses.svnMin)))
      (rdf (bootHealth (wr (fedState s b) R.devFuses (b1 s.stk.fuses.owner.isSome + fieldAt 8 16 s.stk.fuses.svnMin))) R.kndStatus 0 1) =
      (some (m, c), w) := h
  unfold boot
  simp only [hfed, hfuses, e]

theorem bootCopy_stk (s : State) (c : Nat) : (bootCopy s c).2.stk = s.stk := by
  have h1 : (copyCheck s c).2.stk = s.stk := by rw [copyCheck_csr]
  have h2 (k : Nat) : (copyCheck (copyCheck s c).2 k).2.stk = s.stk := by rw [copyCheck_csr, h1]
  unfold bootCopy
  generalize copyCheck s c = r at h1 h2
  obtain ⟨x, w⟩ := r
  cases x with
  | ok m => exact h1
  | error e =>
    have h3 := h2 (1 - c)
    dsimp only at h3 ⊢
    generalize copyCheck w (1 - c) = q at h3
    obtain ⟨y, v⟩ := q
    cases y with
    | ok m => exact h3
    | error e => exact h3

/-- From `s` to `t` the Stoker is kept. -/
structure StkSame (s t : State) : Prop where
  stk : t.stk = s.stk

theorem StkSame.trans {s t u : State} (h : StkSame s t) (k : StkSame t u) : StkSame s u := ⟨k.stk.trans h.stk⟩

theorem StkSame.foldl {α : Type} {f : State → α → State} (hf : ∀ a w, StkSame w (f w a)) (l : List α) (s : State) : StkSame s (l.foldl f s) := by
  induction l generalizing s with
  | nil => exact ⟨rfl⟩
  | cons a l ih => exact (hf a s).trans (ih (f s a))

theorem stkSame_healthOos (b : List Byte) (s : State) (h : Nat) : StkSame s (healthOos b s h) := by
  unfold healthOos
  split
  · exact ⟨by simp only [wr_stk, hput_stk]⟩
  · exact ⟨rfl⟩

theorem stkSame_bootHealth (s : State) : StkSame s (bootHealth s) := by
  have hstart (w : State) (n : Nat) : StkSame w { w with coldStarts := n } := ⟨rfl⟩
  have hwr (w : State) (r : Reg) (v : Nat) : StkSame w (wr w r v) := ⟨wr_stk w r v⟩
  unfold bootHealth
  split
  · exact (hwr s _ _).trans (hstart _ 0)
  next b _ =>
    have hretired : ∀ w, StkSame w ((List.range 20).foldl (fun t k => wrf t (R.memRetired k) 0 32 (lv b (24 + 4 * k) 4)) w) :=
      .foldl (fun _ w => ⟨wrf_stk w ..⟩) _
    have hoos : ∀ w, StkSame w ((List.range 256).foldl (healthOos b) w) := .foldl (fun h w => stkSame_healthOos b w h) _
    exact ((hwr s R.kndStatus _).trans ((hretired _).trans (hoos _))).trans (hstart _ _)

/-- A start with a copy that verifies serves. -/
theorem coldStart_serves {m : Img} {c : Nat} {w : State} {b : BootInputs} (h : s.stk.flashRun = none) (href : b.refA || b.refB)
    (hb : b.bridgesOk = true) (hpcs : b.failedPcs = []) (hh : b.failedHearths = []) (hcopy : copyChosen s b = (some (m, c), w)) :
    Completes (.coldStart b) s (fun u => u.stk.phase = .run ∧ rdf u R.stkStatus 0 3 = 1 ∧ u.coldStarts = w.coldStarts + 1 ∧
      u.stk.imgDigest = m.digest ∧ u.stk.faultN = false ∧ u.parts = []) := by
  have e : coldStart (quiet s) b = bootRun w b m c := ((coldStart_idle h b).trans (if_pos href)).trans (boot_chosen s b hcopy)
  have hw : Rested w ∧ w.parts = [] ∧ w.stk.faultN = false := by
    have hkept : RestKept (offState s) w := by
      rw [show w = (copyChosen s b).2 by rw [hcopy]]
      exact (restKept_stkMod _ (by exact rfl) (by exact rfl) (by exact rfl)).trans ((restKept_wr ..).trans ((restKept_bootHealth _).trans
        (restKept_bootCopy ..)))
    refine ⟨hkept.rested (rested_offState s), congrArg (·.2.2.2.2.2.1) hkept.1, ?_⟩
    rw [show w = (copyChosen s b).2 by rw [hcopy], copyChosen, bootCopy_stk, fusedState, (stkSame_bootHealth _).stk]
    rfl
  obtain ⟨hrest, hparts, hfault⟩ := hw
  have hserved := bootRun_serves (copy := c) (m := m) hb hpcs hh hrest hparts hfault
  rw [← e] at hserved
  exact hserved.ends s

/-- What the reference inputs decide while the device samples them (R532). -/
theorem sampling_clauses {i : BootInputs} (hs : s.stk.phase = .sampling) (hi : s.stk.bootIn = some i) :
    Completes (.refclkSample false false) s (fun u => u.stk.phase = .sampling ∧ u.stk.refA = false ∧ u.stk.refB = false) ∧
      (∀ a b, a || b → s.stk.flash = [] → Completes (.refclkSample a b) s (fun u => u.stk.phase = .stopped ∧ u.stk.faultN = true)) ∧
      Completes .refclkTimeout s (fun u => u.stk.phase = .stopped ∧ u.stk.faultN = true) := by
  have hq : (quiet s).stk.phase = .sampling := hs
  have hqi : (quiet s).stk.bootIn = some i := hi
  have e (a b : Bool) : refclkSample (quiet s) a b = if a || b then boot (stkMod (quiet s) (fun k => { k with refA := a, refB := b })) { i with refA := a, refB := b }
      else stkMod (quiet s) (fun k => { k with refA := a, refB := b }) := by
    rw [refclkSample, hq, hqi]
  refine ⟨?_, fun a b hab hflash => ?_, ?_⟩
  · exact actAny_out (f := fun t => refclkSample t false false) ((e false false).trans (if_neg (by simp))) (by show s.stk.phase ≠ _; rw [hs]; simp) rfl
      ⟨hs, rfl, rfl⟩
  · obtain ⟨h1, h2, h3⟩ := boot_blank (s := stkMod (quiet s) (fun k => { k with refA := a, refB := b })) hflash { i with refA := a, refB := b }
    have e' := (e a b).trans (if_pos hab)
    generalize boot _ _ = v at h1 h2 h3 e'
    exact actAny_out (f := fun t => refclkSample t a b) e' (by rw [h1]; simp) h3 ⟨h1, h2⟩
  · exact actAny_out (f := fun t => refclkTimeout t) (if_pos hq) (by show Phase.stopped ≠ _; simp) rfl ⟨rfl, rfl⟩

end

/-- Settles O54: no copy of a blank flash verifies (`imgVerify_blank`), and from one that does the start goes on to a device at rest (`Served`). -/
theorem coldStartsServe : Obligations.ColdStartsServe := by
  unfold Obligations.ColdStartsServe
  intro s h
  exact ⟨resetAssert_completes h, fun b => (coldStart_out h b).1, fun b => (coldStart_out h b).2,
    fun b m c w href hb hpcs hh hcopy => coldStart_serves h href hb hpcs hh hcopy, fun i hs hi => sampling_clauses hs hi⟩

end Sys2Proof.Machine

/-!
SUPPORT and proofs for the steps of the device: with no command waiting, what the clocks do makes nothing due and puts no command into the queue.
-/

namespace Sys2Proof.Machine

section
variable {s t u : State}

/-- From `s` to `t` the same commands wait, and the same aborts and hearth faults are due. -/
structure DueKept (s t : State) : Prop where
  pending : t.pending = s.pending
  aborts : t.dueAborts = s.dueAborts
  faults : t.dueHrt = s.dueHrt

theorem DueKept.refl (s : State) : DueKept s s := ⟨rfl, rfl, rfl⟩

theorem DueKept.trans (h : DueKept s t) (k : DueKept t u) : DueKept s u :=
  ⟨k.pending.trans h.pending, k.aborts.trans h.aborts, k.faults.trans h.faults⟩

theorem DueKept.foldl {α : Type} {f : State → α → State} (hf : ∀ a w, DueKept w (f w a)) (l : List α) (s : State) : DueKept s (l.foldl f s) := by
  induction l generalizing s with
  | nil => exact .refl s
  | cons a l ih => exact (hf a s).trans (ih (f s a))

theorem AgentServed.dueKept (h : AgentServed s t) : DueKept s t := by
  rw [h.eq]
  exact ⟨rfl, rfl, rfl⟩

theorem MemoryServed.dueKept (h : MemoryServed s t) : DueKept s t := by
  rw [show t = _ from h]
  exact ⟨rfl, rfl, rfl⟩

theorem Counted.dueKept {rs : List Reg} (h : Counted s t rs) : DueKept s t := by
  rw [h.eq]
  exact ⟨rfl, rfl, rfl⟩

theorem FlowRun.dueKept (h : FlowRun s t) : DueKept s t := by
  rw [show t = _ from h.fab]
  exact ⟨rfl, rfl, rfl⟩

theorem PartSteps.dueKept (h : PartSteps s t) : DueKept s t := by
  rw [h.eq]
  exact ⟨rfl, rfl, rfl⟩

/-! The clock of the cores (R88, R120, R181, R493). -/

theorem dueKept_hmod (s : State) (h : Nat) (f : Hearth → Hearth) : DueKept s (hmod s h f) := ⟨rfl, rfl, rfl⟩
theorem dueKept_bump (s : State) (z : Bool) (r : Reg) (n w : Nat) : DueKept s (bump s z r n w) := (counted_bump s z r n w).dueKept
theorem dueKept_wr (s : State) (r : Reg) (v : Nat) : DueKept s (wr s r v) := ⟨rfl, rfl, rfl⟩
theorem dueKept_logErr (s : State) (l c : Reg) (v : Nat) : DueKept s (logErr s l c v) := (counted_logErr s l c v).dueKept

theorem dueKept_arrIdle (s : State) (h a : Nat) : DueKept s (arrIdle s h a) := by
  have hld : DueKept s (ldCycle s h a) := by
    unfold ldCycle
    dsimp only
    split
    · exact .refl s
    · split
      · unfold ldFinish
        split
        · exact .refl s
        · exact (dueKept_hmod ..).trans (dueKept_bump ..)
      · exact dueKept_hmod ..
  unfold arrIdle
  split
  · exact (hld.trans (dueKept_hmod ..)).trans (dueKept_bump ..)
  · exact .refl s

theorem dueKept_engineTick (s : State) (h e : Nat) : DueKept s (engineTick s h e) := by
  have hstall (c : Nat) : DueKept s (stall s h e c) := by
    unfold stall
    dsimp only
    split
    · exact dueKept_hmod ..
    · split
      · exact (dueKept_hmod ..).trans (dueKept_bump ..)
      · exact (dueKept_hmod ..).trans (dueKept_bump ..)
  unfold engineTick
  dsimp only
  split
  · exact .refl s
  · split
    · exact dueKept_hmod ..
    · split
      · exact (hstall _).trans (dueKept_hmod ..)
      · split
        · exact .refl s
        · exact (hstall 15).trans (dueKept_hmod ..)

theorem dueKept_enginesTick (s : State) (h : Nat) : DueKept s (enginesTick s h) := by
  unfold enginesTick
  dsimp only
  split
  · exact .refl s
  · exact .foldl (fun e w => dueKept_engineTick w h e) _ s

theorem dueKept_coreTick (s : State) : DueKept s (coreTick s) := by
  refine .foldl (fun h w => ?_) _ s
  dsimp only
  have h0 : DueKept w (arrIdle (arrIdle w h 0) h 1) := (dueKept_arrIdle ..).trans (dueKept_arrIdle ..)
  have h1 : DueKept w (enginesTick (if (hget w h).vec.running then arrIdle (arrIdle w h 0) h 1
      else vecBump (arrIdle (arrIdle w h 0) h 1) h (R.vecIdle h) 1) h) := by
    refine .trans ?_ (dueKept_enginesTick ..)
    split
    · exact h0
    · exact h0.trans (dueKept_bump ..)
  split
  · exact h1
  · exact (h1.trans (dueKept_bump ..)).trans (dueKept_bump ..)

/-! The clock of the HBM controllers (R242, R248). -/

theorem dueKept_pcPut (s : State) (k p : Nat) (x : PsCh) : DueKept s (pcPut s k p x) := ⟨rfl, rfl, rfl⟩
theorem dueKept_stkPut (s : State) (k : Nat) (x : Stack) : DueKept s (stkPut s k x) := ⟨rfl, rfl, rfl⟩

theorem dueKept_hbmTick (s : State) : DueKept s (hbmTick s) := by
  unfold hbmTick
  refine .trans (.foldl (fun e w => ?_) _ s) (.foldl (fun e w => ?_) _ _)
  · have hb {c : Prop} [Decidable c] (r : Reg) : DueKept w (if c then memBump w (e.1 / 32) r 1 else w) := by
      split
      · exact dueKept_bump ..
      · exact .refl w
    dsimp only
    split
    · split
      · exact hb _
      · exact (hb _).trans (dueKept_pcPut ..)
    · exact .refl w
  · split
    · exact dueKept_stkPut ..
    · exact .refl w

/-! The host port (R412, R416–R423). -/

theorem dueKept_qpPut (s : State) (q : Nat) (x : QPair) : DueKept s (qpPut s q x) := ⟨rfl, rfl, rfl⟩

theorem dueKept_hport (s : State) (x : HostPort) : DueKept s { s with hport := x } := ⟨rfl, rfl, rfl⟩

theorem dueKept_hostOut (s : State) (m : HostMsg) : DueKept s (hostOut s m) :=
  .trans (t := { s with tx := s.tx ++ [frameOf s m] }) ⟨rfl, rfl, rfl⟩ (counted_hostOut s m).dueKept

theorem dueKept_hostEmit (s : State) (m : HostMsg) : DueKept s (hostEmit s m) := by
  unfold hostEmit
  dsimp only
  split
  · split
    · exact ⟨rfl, rfl, rfl⟩
    · exact ⟨rfl, rfl, rfl⟩
  · exact dueKept_hostOut ..

theorem dueKept_paceRun (s : State) (q n : Nat) : DueKept s (paceRun s q n) := by
  induction n generalizing s with
  | zero => exact .refl s
  | succ n ih =>
    unfold paceRun
    dsimp only
    split
    · exact .refl s
    · split
      · exact .refl s
      · exact ((dueKept_qpPut ..).trans (dueKept_hostEmit ..)).trans (ih _)

theorem dueKept_hostAnswer (s : State) (q op status ctag value extra : Nat) : DueKept s (hostAnswer s q op status ctag value extra) := by
  unfold hostAnswer hostReq
  split
  · exact .refl s
  · exact (dueKept_qpPut ..).trans (dueKept_paceRun ..)

theorem dueKept_cmdsPump (s : State) (q n : Nat) : DueKept s (cmdsPump s q n) := by
  have hbad (w : State) (op ctag t : Nat) : DueKept w (cmdBad w q op ctag t) := by
    unfold cmdBad
    dsimp only
    split
    · exact (dueKept_logErr ..).trans (dueKept_qpPut ..)
    · exact ((dueKept_logErr ..).trans (dueKept_hostAnswer ..)).trans (dueKept_bump ..)
  induction n generalizing s with
  | zero => exact .refl s
  | succ n ih =>
    unfold cmdsPump
    split
    · split
      · exact ((dueKept_qpPut ..).trans (hbad ..)).trans (ih _)
      · exact .refl s
    · exact .refl s

theorem dueKept_qpAck (s : State) (q pkts syndrome : Nat) : DueKept s (qpAck s q pkts syndrome) := by
  unfold qpAck
  dsimp only
  refine .trans ?_ (dueKept_hostEmit ..)
  split
  · exact dueKept_qpPut ..
  · exact (dueKept_qpPut ..).trans (dueKept_bump ..)

theorem dueKept_sendServe (s : State) (q : Nat) (data : List Byte) : DueKept s (sendServe s q data) := by
  unfold sendServe
  dsimp only
  split
  · exact dueKept_qpAck ..
  · split
    · exact (counted_freeBits s 5).dueKept.trans (dueKept_qpAck ..)
    · exact ((dueKept_qpPut ..).trans (dueKept_cmdsPump ..)).trans (dueKept_qpAck ..)

theorem dueKept_readServe (s : State) {q : Nat} (hq : q ≤ 1024) (rkey va len : Nat) : DueKept s (readServe s q rkey va len) := by
  unfold readServe
  dsimp only
  split
  · exact dueKept_qpAck ..
  case isFalse hn =>
    have hp : qpPart q < 16 := by
      simp only [Bool.or_eq_true, decide_eq_true_eq, not_or] at hn
      rw [qpPart]
      omega
    split
    · exact dueKept_qpAck ..
    · have hget := (agentServed_vaGet s hp va len false).dueKept
      split
      · exact hget.trans (dueKept_qpAck ..)
      · exact (hget.trans (dueKept_qpPut ..)).trans (dueKept_hostEmit ..)

/-! A write of the host: copies on write, shootdowns, and the bytes of collectives counted (R392, R419). -/

theorem dueKept_xlMod (s : State) (p : Nat) (f : Xlt → Xlt) : DueKept s (xlMod s p f) := ⟨rfl, rfl, rfl⟩
theorem dueKept_walkCache (s : State) (c : List WalkEnt) : DueKept s { s with walkCache := c } := ⟨rfl, rfl, rfl⟩

theorem dueKept_sdStart (s : State) {p : Nat} (hp : p < 16) (why : SdWhy) (pages frames : List Nat) : DueKept s (sdStart s p why pages frames) := by
  have hframe (w : State) (f : Nat) : DueKept w (sdFrame w p f) :=
    ((agentServed_frGet w hp f).trans (agentServed_frPut _ hp ..)).dueKept.trans (.foldl (fun _ _ => dueKept_hmod ..) _ _)
  have hframes : DueKept s (frames.foldl (fun s f => sdFrame s p f) s) := .foldl (fun f w => hframe w f) _ _
  unfold sdStart
  dsimp only
  generalize List.foldl _ s frames = w at hframes ⊢
  exact ((hframes.trans (.foldl (fun _ _ => dueKept_hmod ..) _ _)).trans (dueKept_walkCache ..)).trans (dueKept_xlMod ..)

theorem dueKept_putPage (s : State) {p : Nat} (hp : p < 16) (die va : Nat) (data : List Byte) : DueKept s (putPage s die p va data).2 := by
  have hwrite : AgentServed s (vaPutAt s die p va data).2 := agentServed_vaWrite s hp ..
  have hcopy := hwrite.trans (agentServed_cowWhole _ hp (va / 65536 % 2 ^ 32))
  unfold putPage
  dsimp only
  split
  · exact hwrite.dueKept
  · exact hwrite.dueKept
  · exact hwrite.dueKept
  · exact hwrite.dueKept
  · split
    · exact (hwrite.trans (agentServed_hold _)).dueKept
    · split
      · exact hcopy.dueKept
      · split
        · exact hcopy.dueKept
        · split
          · exact hcopy.dueKept
          · refine .trans (t := if _ then _ else _) ?_ (agentServed_vaWrite _ hp ..).dueKept
            split
            · exact hcopy.dueKept
            · exact hcopy.dueKept.trans (dueKept_sdStart _ hp ..)

theorem dueKept_putPages (s : State) {p : Nat} (hp : p < 16) (die va : Nat) (data : List Byte) (n : Nat) : DueKept s (putPages s die p va data n).2 := by
  induction n generalizing s va data with
  | zero => exact .refl s
  | succ n ih =>
    have hpage := dueKept_putPage s hp die va
    unfold putPages
    split
    · exact .refl s
    · dsimp only
      split
      · exact hpage _
      · exact (hpage _).trans (ih ..)

theorem dueKept_colFail (s : State) (p c code : Nat) : DueKept s (colFail s p c code) := by
  have hput (w : State) (n : Nat) (k : Nat × Nat × Nat) (l : List Byte) : DueKept w (digPut w p c n k l) :=
    (dueKept_wr ..).trans ((dueKept_wr ..).trans ((dueKept_wr ..).trans ((dueKept_wr ..).trans (dueKept_wr ..))))
  have hdig (w : State) (e : ColEnt) : DueKept w (digEnd w p c e) := .foldl (fun k v => hput v ..) _ w
  unfold colFail
  split
  · exact .refl s
  · dsimp only
    split
    · exact .refl s
    · exact (((hdig ..).trans (flowRun_colPut ..).dueKept).trans (dueKept_bump ..)).trans (dueKept_logErr ..)

theorem dueKept_colAdd (s : State) (p c off n fuel : Nat) : DueKept s (colAdd s p c off n fuel) := by
  induction fuel generalizing s off n with
  | zero => exact .refl s
  | succ fuel ih =>
    unfold colAdd
    split
    · exact .refl s
    · split
      · exact .refl s
      · dsimp only
        refine .trans ?_ (ih ..)
        split
        · exact ⟨rfl, rfl, rfl⟩
        · split
          · exact (dueKept_logErr ..).trans (dueKept_colFail ..)
          · split
            · exact .refl s
            · exact ⟨rfl, rfl, rfl⟩

theorem dueKept_colCount (s : State) (p va n : Nat) : DueKept s (colCount s p va n) := by
  refine .foldl (fun x w => ?_) _ s
  dsimp only
  split
  · exact dueKept_colAdd ..
  · exact .refl w

theorem dueKept_rangeBad (s : State) {p : Nat} (hp : p < 16) (va len : Nat) (write : Bool) : DueKept s (rangeBad s p va len write).2 := by
  unfold rangeBad
  split
  · exact .refl s
  · split
    · exact .refl s
    · have hfold (f : Bool × State → Nat → Bool × State) (hf : ∀ a i, DueKept a.2 (f a i).2) (l : List Nat) (a : Bool × State) :
          DueKept a.2 (l.foldl f a).2 := by
        induction l generalizing a with
        | nil => exact .refl _
        | cons i l ih => exact (hf a i).trans (ih _)
      refine hfold _ (fun a i => ?_) _ (false, s)
      split
      · exact .refl _
      · dsimp only
        split
        · exact (agentServed_agWalk a.2 hp ..).dueKept
        · exact (agentServed_agWalk a.2 hp ..).dueKept

theorem dueKept_ringRelease (s : State) {p : Nat} (hp : p < 16) (q va : Nat) (data : List Byte) : DueKept s (ringRelease s p q va data) := by
  have hget := (agentServed_vaGet s hp va 8 false).dueKept
  have hbad (w : State) : DueKept w (hstErr (hstBump w R.hstReleaseBad 1) 5 q 0) := (dueKept_bump ..).trans (dueKept_logErr ..)
  unfold ringRelease
  dsimp only
  split
  · exact hget.trans (hbad _)
  · split
    · exact hget.trans (agentServed_vaWrite _ hp ..).dueKept
    · exact hget.trans (hbad _)

theorem dueKept_writeServe (s : State) {q : Nat} (hq : q ≤ 1024) (rkey va : Nat) (data : List Byte) : DueKept s (writeServe s q rkey va data) := by
  unfold writeServe
  dsimp only
  split
  · exact dueKept_qpAck ..
  case isFalse hn =>
    have hp : qpPart q < 16 := by
      rw [qpPart]
      omega
    split
    · exact (agentServed_hold s).dueKept
    · split
      · exact dueKept_qpAck ..
      · split
        · split
          · exact (dueKept_ringRelease s hp ..).trans (dueKept_qpAck ..)
          · exact dueKept_qpAck ..
        · have hr := dueKept_rangeBad s hp va data.length true
          split
          · exact hr.trans (dueKept_qpAck ..)
          · have hw := hr.trans (dueKept_putPages _ hp 0 va data (pageFuel data.length))
            split
            · exact (hw.trans (dueKept_colCount ..)).trans (dueKept_qpAck ..)
            · exact hw.trans (dueKept_qpAck ..)

theorem dueKept_rxStep (s : State) (q : Nat) : DueKept s (rxStep s q) := by
  have hleave (w : State) (m : RxMsg) : DueKept w (rxLeave w m) := by
    unfold rxLeave
    dsimp only
    split
    · exact (dueKept_hport ..).trans (dueKept_hostOut ..)
    · exact dueKept_hport ..
  unfold rxStep
  split
  · exact .refl s
  · split
    · exact hleave ..
    case isFalse hn =>
      have hq : q ≤ 1024 := by
        simp only [cmdsRun, Bool.not_eq_true', Bool.not_eq_false, Bool.and_eq_true, decide_eq_true_eq] at hn
        exact hn.1.1
      have hserve (i : Instr) : DueKept s (rxServe s q i) := by
        unfold rxServe
        split
        · exact dueKept_writeServe s hq ..
        · exact dueKept_readServe s hq ..
        · exact dueKept_sendServe ..
        · exact .refl s
      dsimp only
      split
      · exact .refl s
      · exact (hserve _).trans (hleave ..)

/-! The clock of the base dies (R203, R339, R412, R486, R487). -/

theorem dueKept_tryStep {f : State → State} (hf : ∀ w, DueKept w (f w)) (s : State) : DueKept s (tryStep f s) := by
  unfold tryStep
  dsimp only
  split
  · exact .refl s
  · exact hf s

theorem dueKept_damperTick (s : State) : DueKept s (damperTick s) := by
  have hflows (l : List SendFlow) : DueKept s (treesCheck (l.foldl (fun t f => tryStep (flowPump · f.id f.wait.length) t) s)) :=
    .trans (.foldl (fun f w => dueKept_tryStep (fun v => (flowRun_flowPump v ..).dueKept) w) l s) (flowRun_treesCheck _).dueKept
  unfold damperTick
  dsimp only
  refine .trans (.trans (hflows _) (.foldl (fun p w => ?_) _ _)) (.foldl (fun e w => dueKept_tryStep (fun v => dueKept_paceRun v ..) w) _ _)
  split
  · exact dueKept_bump ..
  · exact .refl w

theorem dueKept_baseTick (s : State) : DueKept s (baseTick s) := by
  have hfill (w : State) (sl : Nat) : DueKept w (fillTick w sl) := by
    unfold fillTick
    dsimp only
    split
    · exact .refl w
    · split
      · exact dueKept_bump ..
      · exact ⟨rfl, rfl, rfl⟩
  have hpool (w : State) : DueKept w (poolStep w) := .foldl (fun q v => dueKept_rxStep v q) _ w
  unfold baseTick
  dsimp only
  refine .trans (.trans (.trans (.foldl (fun sl w => hfill w sl) _ s) (hpool _)) (.foldl (fun p w => ?_) _ _)) (dueKept_damperTick _)
  split
  · exact dueKept_bump ..
  · exact .refl w

/-- With no command waiting, time goes on, and nothing becomes due. -/
theorem dueKept_tick (s : State) : DueKept s (tick s) := by
  have hnow (n : Nat) : DueKept s { quiet s with now := n } := ⟨rfl, rfl, rfl⟩
  have hif {c : Prop} [Decidable c] {f : State → State} (hf : ∀ w, DueKept w (f w)) (w : State) : DueKept w (if c then f w else w) := by
    split
    · exact hf w
    · exact .refl w
  have hrun (n : Nat) : DueKept s
      (let n := n
       let s1 := { quiet s with now := n }
       if s.stk.phase = .run then
         let s2 := if n % 400 = 0 then coreTick s1 else s1
         let s3 := if n % 275 = 0 then baseTick s2 else s2
         if n % 352 = 0 then hbmTick s3 else s3
       else if n % 352 = 0 then warmFlush s1
       else s1) := by
    dsimp only
    split
    · exact ((hnow n).trans (hif dueKept_coreTick _)).trans ((hif dueKept_baseTick _).trans (hif dueKept_hbmTick _))
    · exact (hnow n).trans (hif (fun w => (memoryServed_warmFlush w).dueKept) _)
  unfold tick
  split
  · exact hrun _
  · exact hrun _
  · exact hrun _
  · exact .refl s
  · exact .refl s
  · exact .refl s
  · exact .refl s

end

/-- Settles O56: a step is `exec` of the front, and the clocks put nothing into the queue (`dueKept_tick`). -/
theorem stepRunsTheFront : Obligations.StepRunsTheFront := by
  unfold Obligations.StepRunsTheFront
  refine ⟨fun c q s => rfl, fun s h => ⟨by rw [step, h], ?_⟩⟩
  rw [(dueKept_tick s).pending, h]

/-- Settles O58: what a command makes due is taken at its end, and the clocks make nothing due (`dueKept_tick`). -/
theorem nothingStaysDue : Obligations.NothingStaysDue := by
  unfold Obligations.NothingStaysDue
  intro s t ha hf hstep
  unfold step at hstep
  split at hstep
  · cases hstep
    have h := dueKept_tick s
    exact ⟨h.aborts.trans ha, h.faults.trans hf⟩
  case h_2 c q _ =>
    obtain ⟨u, hu⟩ := exec_ends c { s with pending := q }
    rw [hu, ends] at hstep
    cases hstep
    unfold unlessHeld
    split
    · exact ⟨ha, hf⟩
    · exact ⟨rfl, rfl⟩

end Sys2Proof.Machine

/-!
SUPPORT: what the end of a hearth's tasks keeps (R172, R297, R307, R309, R310): of the registers all below the hearths' windows, of a hearth its place in
the device, of a graph its failure.
-/

namespace Sys2Proof.Machine

/-- A hearth that tasks leave: it may lose tasks, slots, streams and walks, but keeps its place in the device. -/
structure HearthLeaves (x y : Hearth) : Prop where
  place : (y.part, y.leaving, y.faults, y.inReset, y.oos, y.held, y.nextId, y.spd.ues) =
    (x.part, x.leaving, x.faults, x.inReset, x.oos, x.held, x.nextId, x.spd.ues)
  cur : y.cur = x.cur ∨ y.cur = none
  drain : y.drain = x.drain ∨ y.drain = none
  next : y.next = x.next ∨ y.next = none
  walks : ∀ w ∈ y.walks, w ∈ x.walks

theorem HearthLeaves.refl (x : Hearth) : HearthLeaves x x := ⟨rfl, .inl rfl, .inl rfl, .inl rfl, fun _ h => h⟩

theorem HearthLeaves.trans {x y z : Hearth} (h : HearthLeaves x y) (k : HearthLeaves y z) : HearthLeaves x z where
  place := k.place.trans h.place
  cur := by rcases k.cur with e | e; exacts [e ▸ h.cur, .inr e]
  drain := by rcases k.drain with e | e; exacts [e ▸ h.drain, .inr e]
  next := by rcases k.next with e | e; exacts [e ▸ h.next, .inr e]
  walks w hw := h.walks w (k.walks w hw)

/-- What of a hearth leaving tasks do not touch. -/
def hearthCore (x : Hearth) : (Option Nat × Bool × List Nat × Bool × Bool × Bool × Nat × List (Nat × Nat)) × Option TaskRun × Option TaskRun ×
    Option TaskRun × List Walk :=
  ((x.part, x.leaving, x.faults, x.inReset, x.oos, x.held, x.nextId, x.spd.ues), x.cur, x.drain, x.next, x.walks)

theorem HearthLeaves.of_core {x y : Hearth} (h : hearthCore y = hearthCore x) : HearthLeaves x y := by
  simp only [hearthCore, Prod.mk.injEq] at h
  obtain ⟨⟨h1, h2, h3, h4, h5, h6, h7, h8⟩, h9, h10, h11, h12⟩ := h
  exact ⟨by simp only [h1, h2, h3, h4, h5, h6, h7, h8], .inl h9, .inl h10, .inl h11, by rw [h12]; exact fun _ h => h⟩

/-- From `s` to `t` tasks leave their hearths and graphs end that have failed. -/
structure TasksLeave (s t : State) : Prop where
  eq : t = { s with csr := t.csr, hearths := t.hearths, graphs := t.graphs, slices := t.slices, mcast := t.mcast, xlts := t.xlts,
                    walks := t.walks, qps := t.qps, dueHrt := t.dueHrt }
  regs : ∀ r : Reg, r.addr < 0x100000000 → rd t r = rd s r
  hearth : ∀ k, HearthLeaves (hget s k) (hget t k)
  graph : ∀ p gid g, graphGet t p gid = some g → ∃ g0, graphGet s p gid = some g0 ∧ (g0.status ≠ 0 → g.status ≠ 0)

section
variable {s t u : State}

theorem TasksLeave.refl (s : State) : TasksLeave s s := ⟨rfl, fun _ _ => rfl, fun _ => .refl _, fun _ _ g h => ⟨g, h, id⟩⟩

theorem TasksLeave.trans (h : TasksLeave s t) (k : TasksLeave t u) : TasksLeave s u where
  eq := by
    have e := k.eq
    rw [h.eq] at e
    exact e
  regs r hr := (k.regs r hr).trans (h.regs r hr)
  hearth n := (h.hearth n).trans (k.hearth n)
  graph p gid g hg := by
    obtain ⟨g1, h1, hs1⟩ := k.graph p gid g hg
    obtain ⟨g0, h0, hs0⟩ := h.graph p gid g1 h1
    exact ⟨g0, h0, fun hne => hs1 (hs0 hne)⟩

theorem TasksLeave.foldl {α : Type} {f : State → α → State} (hf : ∀ a w, TasksLeave w (f w a)) (l : List α) (s : State) :
    TasksLeave s (l.foldl f s) := by
  induction l generalizing s with
  | nil => exact .refl s
  | cons a l ih => exact (hf a s).trans (ih (f s a))

/-- A failed graph stays failed while tasks leave. -/
theorem TasksLeave.failed {p gid : Nat} (h : TasksLeave s t) (hs : ∀ g, graphGet s p gid = some g → g.status ≠ 0) :
    ∀ g, graphGet t p gid = some g → g.status ≠ 0 := fun g hg => by
  obtain ⟨g0, h0, hk⟩ := h.graph p gid g hg
  exact hk (hs g0 h0)

/-! Registers, hearths and the units that serve them. -/

theorem graphGet_congr (h : t.graphs = s.graphs) (p gid : Nat) : graphGet t p gid = graphGet s p gid := by
  rw [graphGet, graphGet, gget, gget, h]

/-- A change of registers of the hearths' windows or of graph engines. -/
theorem Counted.leaves {rs : List Reg} (h : Counted s t rs) (hr : ∀ r ∈ rs, 0x100000000 ≤ r.addr) (hfresh : t.fresh = s.fresh) : TasksLeave s t where
  eq := by
    have e := h.eq
    rw [hfresh] at e
    rw [e]
  regs r hlt := h.regs r fun hm => by
    obtain ⟨q, hq, he⟩ := List.mem_map.1 hm
    have := hr q hq
    omega
  hearth k := by
    have hh : t.hearths = s.hearths := by rw [h.eq]
    rw [hget_congr hh k]
    exact .refl _
  graph p gid g hg := by
    have hg' : t.graphs = s.graphs := by rw [h.eq]
    exact ⟨g, by rwa [graphGet_congr hg'] at hg, id⟩

theorem leaves_wrf (s : State) {r : Reg} (hr : 0x100000000 ≤ r.addr) (lo len v : Nat) : TasksLeave s (wrf s r lo len v) :=
  (counted_wrf s r lo len v).leaves (by simpa using hr) rfl

theorem leaves_bump (s : State) {r : Reg} (hr : 0x100000000 ≤ r.addr) (z : Bool) (n w : Nat) : TasksLeave s (bump s z r n w) :=
  (counted_bump s z r n w).leaves (by simpa using hr) (by rw [bump_csr])

theorem leaves_logErr (s : State) {l c : Reg} (hl : 0x100000000 ≤ l.addr) (hc : 0x100000000 ≤ c.addr) (v : Nat) : TasksLeave s (logErr s l c v) :=
  (counted_logErr s l c v).leaves (by simp [hl, hc]) (by rw [logErr_eq])

theorem leaves_hput (s : State) {h : Nat} {x : Hearth} (hx : HearthLeaves (hget s h) x) : TasksLeave s (hput s h x) :=
  ⟨rfl, fun _ _ => rfl, fun k => by
    by_cases hk : k = h
    · subst hk
      rw [hget_hput_same]
      exact hx
    · rw [hget_hput_other _ hk]
      exact .refl _, fun _ _ g hg => ⟨g, hg, id⟩⟩

theorem leaves_slMod (s : State) (sl : Nat) (f : Slice → Slice) : TasksLeave s (slMod s sl f) :=
  ⟨rfl, fun _ _ => rfl, fun _ => .refl _, fun _ _ g hg => ⟨g, hg, id⟩⟩
theorem leaves_mcPut (s : State) (q g : Nat) (m : McGroup) : TasksLeave s (mcPut s q g m) :=
  ⟨rfl, fun _ _ => rfl, fun _ => .refl _, fun _ _ g hg => ⟨g, hg, id⟩⟩
theorem leaves_xlMod (s : State) (q : Nat) (f : Xlt → Xlt) : TasksLeave s (xlMod s q f) :=
  ⟨rfl, fun _ _ => rfl, fun _ => .refl _, fun _ _ g hg => ⟨g, hg, id⟩⟩
theorem leaves_walks (s : State) (l : Tbl (List WalkReq)) : TasksLeave s { s with walks := l } :=
  ⟨rfl, fun _ _ => rfl, fun _ => .refl _, fun _ _ g hg => ⟨g, hg, id⟩⟩
theorem leaves_recPush (s : State) (q : Nat) (r : Rec) : TasksLeave s (recPush s q r) :=
  ⟨rfl, fun _ _ => rfl, fun _ => .refl _, fun _ _ g hg => ⟨g, hg, id⟩⟩
theorem leaves_reqFault (s : State) (h : Nat) (c : HearthFaultCause) : TasksLeave s (reqFault s h c) :=
  ⟨rfl, fun _ _ => rfl, fun _ => .refl _, fun _ _ g hg => ⟨g, hg, id⟩⟩

/-- A change of a graph engine under which failed graphs stay failed. -/
theorem leaves_gmod (s : State) (p : Nat) {f : GraphEng → GraphEng}
    (hf : ∀ gid g, (f (gget s p)).graphs.find? (fun g => g.id = gid) = some g →
      ∃ g0, (gget s p).graphs.find? (fun g => g.id = gid) = some g0 ∧ (g0.status ≠ 0 → g.status ≠ 0)) : TasksLeave s (gmod s p f) := by
  refine ⟨rfl, fun _ _ => rfl, fun _ => .refl _, fun q gid g hg => ?_⟩
  by_cases hq : q = p
  · subst hq
    rw [graphGet, gget_gmod_same] at hg
    exact hf gid g hg
  · rw [graphGet, gget_gmod_other _ hq] at hg
    exact ⟨g, hg, id⟩

/-- A change of a graph engine that keeps its graphs. -/
theorem leaves_gmod_same (s : State) (p : Nat) {f : GraphEng → GraphEng} (hf : (f (gget s p)).graphs = (gget s p).graphs) :
    TasksLeave s (gmod s p f) :=
  leaves_gmod s p fun gid g hg => ⟨g, by rwa [hf] at hg, id⟩

theorem leaves_taskMod (s : State) (p id : Nat) (f : Task → Task) : TasksLeave s (taskMod s p id f) := leaves_gmod_same s p rfl
theorem leaves_taskDrop (s : State) (p id : Nat) : TasksLeave s (taskDrop s p id) := leaves_gmod_same s p rfl

theorem leaves_graphMod (s : State) (p gid : Nat) {f : Graph → Graph} (hid : ∀ g, (f g).id = g.id) (hst : ∀ g, g.status ≠ 0 → (f g).status ≠ 0) :
    TasksLeave s (graphMod s p gid f) := by
  refine leaves_gmod s p fun k g hg => ?_
  dsimp only at hg
  rw [List.find?_map] at hg
  obtain ⟨g0, h0, rfl⟩ := Option.map_eq_some_iff.1 hg
  have hpred : ((fun g : Graph => decide (g.id = k)) ∘ fun x => if x.id = gid then f x else x) = fun g => decide (g.id = k) := by
    funext x
    dsimp only [Function.comp]
    split
    · rw [hid]
    · rfl
  rw [hpred] at h0
  refine ⟨g0, h0, fun hne => ?_⟩
  split
  · exact hst g0 hne
  · exact hne

/-! Streams, handles, semaphores and slots of a task (R141, R172, R173, R297). -/

theorem leaves_mcLeave (s : State) (j : Member) : TasksLeave s (mcLeave s j) := by
  have htrim (w : State) (q g : Nat) : TasksLeave w (mcTrimAll w q g) := .foldl (fun sl v => leaves_slMod v sl _) _ w
  refine .foldl (fun key w => ?_) _ s
  unfold mcLeaveGroup
  dsimp only
  split
  · exact (leaves_mcPut ..).trans (htrim ..)
  · split
    · exact (leaves_mcPut ..).trans (htrim ..)
    · exact .refl w

theorem leaves_streamsStop (s : State) (h own : Nat) : TasksLeave s (streamsStop s h own) := by
  unfold streamsStop
  dsimp only
  refine .trans ?_ (.foldl (fun _ w => leaves_mcLeave w _) _ _)
  have hcore {x : Hearth} (hx : hearthCore x = hearthCore { hget s h with walks := (hget s h).walks.filter (fun w => w.hint || w.own ≠ own) })
      (l : Tbl (List WalkReq)) : TasksLeave s { hput s h x with walks := l } := by
    have hw : HearthLeaves (hget s h) { hget s h with walks := (hget s h).walks.filter (fun w => w.hint || w.own ≠ own) } :=
      ⟨rfl, .inl rfl, .inl rfl, .inl rfl, fun w hw => List.mem_of_mem_filter hw⟩
    exact (leaves_hput s (hw.trans (.of_core hx))).trans (leaves_walks ..)
  split
  · exact hcore (by rfl) _
  · exact (hcore (by rfl) _).trans (leaves_xlMod ..)

theorem leaves_wasted (s : State) (h n : Nat) : TasksLeave s (wasted s h n) := by
  unfold wasted
  split
  · exact .refl s
  · exact leaves_bump s (by simp only [R.fluWastedBytes, blkBase]; omega) ..

theorem slotsMod_ues (sp : Scratch) (ks : List Nat) (f : Slot → Slot) : (slotsMod sp ks f).ues = sp.ues := by
  unfold slotsMod
  induction ks generalizing sp with
  | nil => rfl
  | cons k ks ih => exact ih (slotPut sp k (f (slotGet sp k)))

theorem core_emptySlots (x : Hearth) (ks : List Nat) (f : Slot → Slot) (waste : Bool) : hearthCore (emptySlots x ks f waste).1 = hearthCore x := by
  simp only [emptySlots, watchTrim, hearthCore, slotsMod_ues]

theorem core_handle (x : Hearth) (i v : Nat) : hearthCore { x with spd := hdlPut x.spd i v } = hearthCore x := rfl

theorem leaves_handlesFree (s : State) (h : Nat) (bufs : List Bound) (empty : Bool) : TasksLeave s (handlesFree s h bufs empty) := by
  refine .foldl (fun b w => ?_) _ s
  dsimp only
  split
  · refine (leaves_hput w (.of_core ?_)).trans (leaves_wasted ..)
    rw [core_handle]
    split
    · exact core_emptySlots ..
    · rfl
  · exact leaves_hput w (.of_core (core_handle ..))

theorem grf_ge (p off : Nat) : 0x100000000 ≤ blkBase .grf p + off := by
  simp only [blkBase]
  omega

theorem leaves_semsFree (s : State) (p gid task : Nat) (l : List Nat) : TasksLeave s (semsFree s p gid task l) := by
  refine .foldl (fun i w => ?_) _ s
  unfold semUp
  split
  · exact leaves_logErr w (grf_ge ..) (grf_ge ..) _
  · refine leaves_wrf w ?_ ..
    simp only [R.grfSemS, blkBase]
    omega

theorem leaves_grfBump (s : State) (p : Nat) {r : Reg} (hr : 0x100000000 ≤ r.addr) (n : Nat) : TasksLeave s (grfBump s p r n) := leaves_bump s hr ..
theorem leaves_grfErr (s : State) (p kind abort gid task : Nat) : TasksLeave s (grfErr s p kind abort gid task) :=
  leaves_logErr s (grf_ge ..) (grf_ge ..) _

theorem leaves_unbind (s : State) (h : Nat) : TasksLeave s (unbind s h) := by
  unfold unbind
  split
  · exact .refl s
  · next r _ =>
    have hcore := HearthLeaves.of_core (core_emptySlots (hget s h) (streamSlots (hget s h) r.id) (fun _ => Slot.empty) true)
    have hx : HearthLeaves (hget s h) { (emptySlots (hget s h) (streamSlots (hget s h) r.id) (fun _ => Slot.empty) true).1 with next := none } :=
      ⟨hcore.place, hcore.cur, hcore.drain, .inr rfl, hcore.walks⟩
    exact ((((leaves_hput s hx).trans (leaves_wasted ..)).trans ((leaves_streamsStop ..).trans (leaves_handlesFree ..))).trans
      (leaves_semsFree ..)).trans ((leaves_taskMod ..).trans (leaves_grfBump _ _ (grf_ge ..) _))

theorem Freed.dueKept {h p : Nat} (hf : Freed h p s t) : DueKept s t where
  pending := by rw [hf.eq]
  aborts := by rw [hf.eq]
  faults := by rw [hf.eq]

/-- Unbinding makes no hearth fault due. -/
theorem dueKept_unbind (s : State) (h : Nat) : DueKept s (unbind s h) := by
  have hput (x : Hearth) : DueKept s (hput s h x) := ⟨rfl, rfl, rfl⟩
  have htask (w : State) (p id : Nat) (f : Task → Task) : DueKept w (taskMod w p id f) := ⟨rfl, rfl, rfl⟩
  unfold unbind
  split
  · exact .refl s
  · exact (((((hput _).trans (wasted_freed (p := 0) ..).dueKept).trans (streamsStop_freed (p := 0) ..).dueKept).trans
      (handlesFree_freed (p := 0) ..).dueKept).trans (semsFree_freed (h := h) ..).dueKept).trans ((htask ..).trans (dueKept_bump ..))

end

section
variable {s t u : State}

/-! A task that leaves its hearth, and a graph that fails (R307, R309, R310). -/

theorem leaves_graphsDrop (s : State) (p : Nat) {f : GraphEng → GraphEng} {q : Graph → Bool} (hf : (f (gget s p)).graphs = (gget s p).graphs.filter q)
    (hq : ∀ a b : Graph, a.id = b.id → q a = q b) : TasksLeave s (gmod s p f) := by
  refine leaves_gmod s p fun gid g hg => ⟨g, ?_, id⟩
  rw [hf] at hg
  generalize (gget s p).graphs = l at hg
  induction l with
  | nil => exact hg
  | cons a l ih =>
    rw [List.filter_cons] at hg
    by_cases ha : a.id = gid
    · split at hg
      · simpa [ha] using hg
      · next hqa =>
        have hm := List.mem_of_find?_eq_some hg
        have hid : g.id = gid := by simpa using List.find?_some hg
        rw [List.mem_filter] at hm
        rw [hq a g (by omega)] at hqa
        exact absurd hm.2 hqa
    · rw [List.find?_cons_of_neg (by simpa using ha)]
      refine ih ?_
      split at hg
      · rwa [List.find?_cons_of_neg (by simpa using ha)] at hg
      · exact hg

theorem leaves_graphClose (s : State) (p : Nat) {gr : Graph} (hs : gr.status ≠ 0) : TasksLeave s (graphClose s p gr) := by
  unfold graphClose
  dsimp only
  rw [recDeliver, if_pos (by simp [graphRec, hs])]
  exact ((leaves_gmod_same s p rfl).trans (leaves_grfBump _ _ (grf_ge ..) _)).trans (leaves_recPush ..)

theorem leaves_graphOut (s : State) (p : Nat) {gr : Graph} (hs : gr.status ≠ 0) : TasksLeave s (graphOut s p gr) :=
  (leaves_graphsDrop s p rfl fun a b hab => by simp [hab]).trans (leaves_graphClose _ p hs)

theorem leaves_afterEnd (p n : Nat) : ∀ (s : State) (gid : Nat) {status : Nat}, status ≠ 0 → TasksLeave s (afterEnd s p gid status n) := by
  induction n with
  | zero => exact fun s _ _ _ => .refl s
  | succ n ih =>
    intro s gid status hst
    unfold afterEnd
    extract_lets g mine s1
    have hfold : TasksLeave s s1 := by
      refine .foldl (fun x w => ?_) mine s
      rw [if_neg hst]
      exact ((leaves_gmod_same w p rfl).trans (leaves_graphOut _ p (by simp))).trans (ih _ _ (by decide))
    refine hfold.trans ?_
    clear_value s1
    split
    · exact .refl s1
    · split
      · exact .refl s1
      · exact (leaves_gmod_same s1 p rfl).trans (leaves_graphClose _ p (by simp))

theorem leaves_graphLeave (s : State) (p gid : Nat) (hs : ∀ g, graphGet s p gid = some g → g.status ≠ 0) : TasksLeave s (graphLeave s p gid) := by
  unfold graphLeave
  split
  · exact .refl s
  · next gr hg =>
    split
    · exact .refl s
    · exact (leaves_graphOut s p (hs gr hg)).trans (leaves_afterEnd p _ _ _ (hs gr hg))

theorem graphGet_graphMod (s : State) (p gid : Nat) {f : Graph → Graph} (hid : ∀ g, (f g).id = g.id) :
    graphGet (graphMod s p gid f) p gid = (graphGet s p gid).map f := by
  rw [graphGet, graphMod, gget_gmod_same, graphGet]
  dsimp only
  rw [List.find?_map]
  have hpred : ((fun g : Graph => decide (g.id = gid)) ∘ fun x => if x.id = gid then f x else x) = fun g => decide (g.id = gid) := by
    funext x
    dsimp only [Function.comp]
    split
    · rw [hid]
    · rfl
  rw [hpred]
  cases h : (gget s p).graphs.find? (fun g => g.id = gid) with
  | none => rfl
  | some g =>
    have hg : g.id = gid := by simpa using List.find?_some h
    simp [hg]

/-- A graph that is stopped has failed. -/
theorem graphStop_leaves (s : State) (p gid : Nat) {status : Nat} (hst : status ≠ 0) (task abort : Nat) :
    TasksLeave s (graphStop s p gid status task abort) ∧
      ∀ g, graphGet (graphStop s p gid status task abort) p gid = some g → g.status ≠ 0 := by
  unfold graphStop
  split
  · next h => exact ⟨.refl s, fun g hg => by rw [h] at hg; exact absurd hg (by simp)⟩
  · next gr hgr =>
    dsimp only
    have hmod : ∀ w, TasksLeave w (graphMod w p gid (fun y => { y with status := status, failTask := task, failAbort := abort })) := fun w =>
      leaves_graphMod w p gid (fun _ => rfl) fun _ _ => hst
    have h1 : TasksLeave s (if gr.status = 0 then graphMod s p gid (fun y => { y with status := status, failTask := task, failAbort := abort }) else s) ∧
        ∀ g, graphGet (if gr.status = 0 then graphMod s p gid (fun y => { y with status := status, failTask := task, failAbort := abort }) else s) p gid =
          some g → g.status ≠ 0 := by
      split
      · refine ⟨hmod s, fun g hg => ?_⟩
        have hm := graphGet_graphMod s p gid (f := fun y => { y with status := status, failTask := task, failAbort := abort }) fun _ => rfl
        rw [hm, hgr] at hg
        obtain rfl := Option.some.inj hg
        exact hst
      · next hne =>
        refine ⟨.refl s, fun g hg => ?_⟩
        rw [hgr] at hg
        obtain rfl := Option.some.inj hg
        exact hne
    obtain ⟨hl, hf⟩ := h1
    generalize (if gr.status = 0 then graphMod s p gid (fun y => { y with status := status, failTask := task, failAbort := abort }) else s) = s1 at hl hf ⊢
    have h2 := hl.trans (.foldl (fun h w => leaves_unbind w h)
      ((partHearths s1 p).filter (fun h => ((hget s1 h).next.map TaskRun.graph) = some gid)) s1)
    have h2f := TasksLeave.failed (.foldl (fun h w => leaves_unbind w h)
      ((partHearths s1 p).filter (fun h => ((hget s1 h).next.map TaskRun.graph) = some gid)) s1) hf
    generalize List.foldl unbind s1 _ = s2 at h2 h2f ⊢
    have h3 (f : GraphEng → GraphEng) (hg : (f (gget s2 p)).graphs = (gget s2 p).graphs) :
        TasksLeave s (graphLeave (gmod s2 p f) p gid) ∧ ∀ g, graphGet (graphLeave (gmod s2 p f) p gid) p gid = some g → g.status ≠ 0 := by
      have hm := leaves_gmod_same s2 p hg
      have hl := leaves_graphLeave (gmod s2 p f) p gid (hm.failed h2f)
      exact ⟨(h2.trans hm).trans hl, hl.failed (hm.failed h2f)⟩
    exact h3 _ rfl

theorem leaves_taskFail (s : State) (p id status abort count : Nat) : TasksLeave s (taskFail s p id status abort count) := by
  unfold taskFail
  split
  · exact .refl s
  · next tk _ =>
    have hrest {s1 : State} (h1 : TasksLeave s s1) (ab : Nat) :
        TasksLeave s (graphLeave (graphStop (taskDrop (grfBump s1 p (R.grfTasksFailed p) 1) p id) p tk.gid 2 id ab) p tk.gid) := by
      have hdrop := (h1.trans (leaves_grfBump s1 p (grf_ge ..) 1)).trans (leaves_taskDrop (grfBump s1 p (R.grfTasksFailed p) 1) p id)
      obtain ⟨hstop, hfail⟩ := graphStop_leaves (taskDrop (grfBump s1 p (R.grfTasksFailed p) 1) p id) p tk.gid (status := 2) (by decide) id ab
      exact (hdrop.trans hstop).trans (leaves_graphLeave _ p _ hfail)
    cases graphGet s p tk.gid with
    | none => exact hrest (.refl s) _
    | some gr => exact hrest (leaves_recPush ..) _

theorem leaves_requeue (s : State) (p id : Nat) (f : Task → Task) : TasksLeave s (requeue s p id f) :=
  (leaves_gmod_same s p rfl).trans (leaves_taskMod ..)

theorem leaves_preemptCount (s : State) (p id code : Nat) : TasksLeave s (preemptCount s p id code) := by
  unfold preemptCount
  split
  · exact (leaves_taskMod ..).trans (leaves_grfBump _ _ (grf_ge ..) _)
  · exact .refl s

theorem leaves_taskAborted (s : State) (p id h code count : Nat) : TasksLeave s (taskAborted s p id h code count) := by
  unfold taskAborted
  split
  · exact .refl s
  · next tk _ =>
    extract_lets failed s1 s2
    have h1 : TasksLeave s s1 := (leaves_taskMod ..).trans (leaves_preemptCount ..)
    have hrep (w : State) : TasksLeave w (grfBump w p (R.grfReplays p) 1) := leaves_grfBump w p (grf_ge ..) 1
    have h2 : TasksLeave s1 s2 := by
      unfold s2
      split
      · split
        · exact leaves_reqFault ..
        · exact leaves_taskMod ..
      · exact .refl s1
    clear_value failed s1 s2
    refine h1.trans ?_
    split
    · exact leaves_taskFail ..
    · split
      · refine h2.trans ?_
        split
        · exact (hrep s2).trans (leaves_requeue ..)
        · exact (leaves_grfErr ..).trans (leaves_taskFail ..)
      · split
        · exact (hrep s1).trans (leaves_requeue ..)
        · split
          · split
            · exact leaves_taskFail ..
            · exact leaves_taskMod ..
          · exact leaves_taskFail ..

theorem leaves_pairRequeue (s : State) (p id code count : Nat) : TasksLeave s (pairRequeue s p id code count) := by
  unfold pairRequeue
  split
  · exact .refl s
  · extract_lets failed s1
    have h1 : TasksLeave s s1 := (leaves_taskMod ..).trans (leaves_preemptCount ..)
    clear_value failed s1
    refine h1.trans ?_
    split
    · exact leaves_taskFail ..
    · exact leaves_requeue ..

theorem leaves_slotsAbort (s : State) (h : Nat) (owns : List Nat) : TasksLeave s (slotsAbort s h owns) := by
  unfold slotsAbort
  dsimp only
  refine (leaves_hput s (.of_core ?_)).trans (leaves_wasted ..)
  rw [core_emptySlots]
  simp only [hearthCore, slotsMod_ues]

theorem grfAborts_ge (p c : Nat) : 0x100000000 ≤ (R.grfAbortsC p c).addr := by
  simp only [R.grfAbortsC, blkBase]
  omega

theorem leaves_runAbort (s : State) (h : Nat) (r : TaskRun) (code : Nat) : TasksLeave s (runAbort s h r code) :=
  ((((leaves_taskMod ..).trans (leaves_streamsStop ..)).trans (leaves_handlesFree ..)).trans (leaves_semsFree ..)).trans
    (leaves_grfBump _ _ (grfAborts_ge ..) _)

theorem leaves_hearthStop (s : State) (h code : Nat) :
    TasksLeave s (hearthStop s h code) ∧ (hget (hearthStop s h code) h).cur = none ∧ (hget (hearthStop s h code) h).drain = none := by
  unfold hearthStop
  dsimp only
  generalize ((hget s h).cur.toList ++ (hget s h).drain.toList).map TaskRun.id = owns
  have hx : HearthLeaves (hget s h) { enginesAbort (hget s h) owns with cur := none, drain := none } := ⟨rfl, .inr rfl, .inr rfl, .inl rfl, fun _ h => h⟩
  have hcur : (hget (hput s h { enginesAbort (hget s h) owns with cur := none, drain := none }) h).cur = none ∧
      (hget (hput s h { enginesAbort (hget s h) owns with cur := none, drain := none }) h).drain = none := by
    rw [hget_hput_same]
    exact ⟨rfl, rfl⟩
  have hsput := leaves_hput s hx
  generalize hput s h { enginesAbort (hget s h) owns with cur := none, drain := none } = w at hsput hcur ⊢
  have hrun := (leaves_slotsAbort w h owns).trans (.foldl (fun r w => leaves_runAbort w h r code)
    ((hget s h).cur.toList ++ (hget s h).drain.toList) (slotsAbort w h owns))
  refine ⟨hsput.trans hrun, ?_, ?_⟩
  · rcases (hrun.hearth h).cur with e | e
    exacts [e.trans hcur.1, e]
  · rcases (hrun.hearth h).drain with e | e
    exacts [e.trans hcur.2, e]

/-- Hearth `h` runs no task and drains none. -/
def Idle (s : State) (h : Nat) : Prop := (hget s h).cur = none ∧ (hget s h).drain = none

theorem TasksLeave.idle {h : Nat} (hl : TasksLeave s t) (hi : Idle s h) : Idle t h := by
  refine ⟨?_, ?_⟩
  · rcases (hl.hearth h).cur with e | e
    exacts [e.trans hi.1, e]
  · rcases (hl.hearth h).drain with e | e
    exacts [e.trans hi.2, e]

theorem leaves_hearthAbort (s : State) (h own code : Nat) : TasksLeave s (hearthAbort s h own code) := by
  have hs := (leaves_hearthStop s h code).1
  unfold hearthAbort
  dsimp only
  split
  · exact .refl s
  · split
    · exact (hs.trans (leaves_taskAborted ..)).trans (leaves_pairRequeue ..)
    · exact hs.trans (leaves_taskAborted ..)
    · exact hs.trans (leaves_taskAborted ..)
    · exact hs

/-- An abort of a task that a hearth runs or drains leaves the hearth idle. -/
theorem hearthAbort_idle (s : State) {h own : Nat} (code : Nat) (ho : ∃ t ∈ (hget s h).cur.toList ++ (hget s h).drain.toList, t.id = own) :
    Idle (hearthAbort s h own code) h := by
  have hs : Idle (hearthStop s h code) h := (leaves_hearthStop s h code).2
  unfold hearthAbort
  dsimp only
  rw [if_neg (by
    obtain ⟨t, ht, hid⟩ := ho
    have hany : ((hget s h).cur.toList ++ (hget s h).drain.toList).any (fun t => t.id = own) := List.any_eq_true.2 ⟨t, ht, by simpa using hid⟩
    simp only [hany, Bool.not_true, Bool.false_eq_true, not_false_eq_true])]
  split
  · exact ((leaves_taskAborted ..).trans (leaves_pairRequeue ..)).idle hs
  · exact (leaves_taskAborted ..).idle hs
  · exact (leaves_taskAborted ..).idle hs
  · exact hs

theorem leaves_hearthDrop (s : State) (h : Nat) : TasksLeave s (hearthDrop s h) ∧ Idle (hearthDrop s h) h := by
  unfold hearthDrop
  extract_lets x
  have hx : x = hget s h := rfl
  clear_value x
  split
  · next c hc => exact ⟨leaves_hearthAbort .., hearthAbort_idle s 5 ⟨c, by simp [← hx, hc], rfl⟩⟩
  · obtain ⟨hs, hi⟩ := leaves_hearthStop s h 5
    exact ⟨hs.trans (leaves_pairRequeue ..), (leaves_pairRequeue ..).idle hi⟩
  · next hc hd => exact ⟨.refl s, by rw [← hx]; exact hc, by rw [← hx]; exact hd⟩

theorem hearthDrop_idle {h : Nat} (hi : Idle s h) : hearthDrop s h = s := by
  simp only [hearthDrop, hi.1, hi.2]

end

end Sys2Proof.Machine

/-!
SUPPORT: what the recovery of a hearth changes (R502, R505, R510, R511): its tasks leave it, the records of the stoker note it, and it goes into reset or
out of service.
-/

namespace Sys2Proof.Machine

section
variable {s t u : State} {rs qs : List Reg} {h : Nat}

/-! What the recovery of hearths touches. -/

/-- From `s` to `t` hearths, their tasks and the records of faults change: of the stoker only the flash and its copies of the ash records, of the
registers below the hearths' windows only those of `rs`. -/
structure Recovers (s t : State) (rs : List Reg) : Prop where
  eq : t = { s with csr := t.csr, hearths := t.hearths, graphs := t.graphs, slices := t.slices, mcast := t.mcast, xlts := t.xlts, walks := t.walks,
                    qps := t.qps, dueHrt := t.dueHrt, stk := t.stk, fresh := t.fresh, ipfix := t.ipfix }
  stk : t.stk = { s.stk with flash := t.stk.flash, ash := t.stk.ash }
  regs : ∀ r : Reg, r.addr < 0x100000000 → r.addr ∉ rs.map Reg.addr → rd t r = rd s r

theorem Recovers.refl (s : State) (rs : List Reg) : Recovers s s rs := ⟨rfl, rfl, fun _ _ _ => rfl⟩

theorem Recovers.trans (h : Recovers s t rs) (k : Recovers t u rs) : Recovers s u rs where
  eq := by
    have e := k.eq
    rw [h.eq] at e
    exact e
  stk := by
    have e := k.stk
    rw [h.stk] at e
    exact e
  regs r hr hm := (k.regs r hr hm).trans (h.regs r hr hm)

theorem Recovers.mono (h : Recovers s t rs) (hs : ∀ r ∈ rs, r ∈ qs) : Recovers s t qs :=
  ⟨h.eq, h.stk, fun r hr hm => h.regs r hr fun hx => hm (List.map_subset _ hs hx)⟩

theorem TasksLeave.recovers (h : TasksLeave s t) (rs : List Reg) : Recovers s t rs := by
  have hstk : t.stk = s.stk := by rw [h.eq]
  have hfresh : t.fresh = s.fresh := by rw [h.eq]
  have hipfix : t.ipfix = s.ipfix := by rw [h.eq]
  refine ⟨?_, by rw [hstk], fun r hr _ => h.regs r hr⟩
  have e := h.eq
  rw [hstk, hfresh, hipfix]
  exact e

theorem Counted.recovers (h : Counted s t rs) : Recovers s t rs := by
  refine ⟨?_, by rw [h.eq], fun r _ hm => h.regs r hm⟩
  have e := h.eq
  generalize t.csr = c, t.fresh = n at e
  subst e
  rfl

theorem Sampled.recovers (h : Sampled s t) (rs : List Reg) : Recovers s t rs := by
  refine ⟨?_, by rw [show t = _ from h], fun r _ _ => h.rd r⟩
  have e : t = _ := h
  generalize t.ipfix = c at e
  subst e
  rfl

theorem recovers_hmod (s : State) (h : Nat) (f : Hearth → Hearth) (rs : List Reg) : Recovers s (hmod s h f) rs := ⟨rfl, rfl, fun _ _ _ => rfl⟩
theorem recovers_residDrop (s : State) (h : Nat) (rs : List Reg) : Recovers s (residDrop (shootdownsAck s h) h) rs := ⟨rfl, rfl, fun _ _ _ => rfl⟩
theorem recovers_flash (s : State) (f : Stoker → Mem) (rs : List Reg) : Recovers s (stkMod s (fun k => { k with flash := f k })) rs :=
  ⟨rfl, rfl, fun _ _ _ => rfl⟩

theorem Recovers.calm (h : Recovers s t rs) (hc : Calm s) (hd : t.dueHrt = []) : Calm t := by
  have hparts : t.parts = s.parts := by rw [h.eq]
  have hstk := h.stk
  refine ⟨?_, ?_, ?_, ?_, hd, ?_, ?_, ?_, ?_, fun p => by rw [partGet_congr hparts]; exact hc.parts p⟩
  · rw [hstk]; exact hc.run
  · rw [h.eq]; exact hc.here
  · rw [h.eq]; exact hc.free
  · rw [h.eq]; exact hc.aborts
  · rw [hstk]; exact hc.susp
  · rw [hstk]; exact hc.service
  · rw [hstk]; exact hc.warmQ
  · rw [h.eq]; exact hc.unl

/-- A record of the stoker: no hearth changes and no hearth fault falls due. -/
structure Records (s t : State) (rs : List Reg) : Prop where
  kept : Recovers s t rs
  hearths : t.hearths = s.hearths
  due : t.dueHrt = s.dueHrt
  queues : t.qps = s.qps

theorem Records.refl (s : State) (rs : List Reg) : Records s s rs := ⟨.refl s rs, rfl, rfl, rfl⟩
theorem Records.trans (h : Records s t rs) (k : Records t u rs) : Records s u rs :=
  ⟨h.kept.trans k.kept, k.hearths.trans h.hearths, k.due.trans h.due, k.queues.trans h.queues⟩
theorem Records.mono (h : Records s t rs) (hs : ∀ r ∈ rs, r ∈ qs) : Records s t qs := ⟨h.kept.mono hs, h.hearths, h.due, h.queues⟩
theorem Counted.records (h : Counted s t rs) : Records s t rs := ⟨h.recovers, by rw [h.eq], by rw [h.eq], by rw [h.eq]⟩
theorem Sampled.records (h : Sampled s t) (rs : List Reg) : Records s t rs :=
  ⟨h.recovers rs, by rw [show t = _ from h], by rw [show t = _ from h], by rw [show t = _ from h]⟩
theorem Records.hget (h : Records s t rs) (k : Nat) : Machine.hget t k = Machine.hget s k := hget_congr h.hearths k
theorem Records.calm (h : Records s t rs) (hc : Calm s) : Calm t := h.kept.calm hc (h.due.trans hc.faults)

theorem records_flash (s : State) (f : Stoker → Mem) (rs : List Reg) : Records s (stkMod s (fun k => { k with flash := f k })) rs :=
  ⟨recovers_flash s f rs, rfl, rfl, rfl⟩

theorem records_healthWrite (s : State) (rs : List Reg) : Records s (healthWrite s) rs := by
  unfold healthWrite flProgram flErase
  extract_lets n
  exact (records_flash s (fun k => memZero k.flash (healthSlot n.1 / 65536 * 65536) 65536) rs).trans
    (records_flash _ (fun k => memPutL k.flash (healthSlot n.1)
      (List.zipWith (fun o b => o ||| ~~~ b) (memGetL k.flash (healthSlot n.1) (healthBytes s n.2).length) (healthBytes s n.2))) rs)

theorem records_ashWrite (s : State) (cls cause action inst part : Nat) (restart : Bool) :
    Records s (ashWrite s cls cause action inst part restart) [R.stkAshHead] := by
  unfold ashWrite
  extract_lets seq slot b s1 s2 s3
  have h1 : Records s s1 [R.stkAshHead] := ⟨⟨rfl, rfl, fun _ _ _ => rfl⟩, rfl, rfl, rfl⟩
  clear_value s1
  have h2 : Records s s2 [R.stkAshHead] := h1.trans (counted_wr s1 _ _).records
  clear_value s2
  have h3 : Records s s3 [R.stkAshHead] := by
    unfold s3
    split
    · exact h2.trans (records_flash ..)
    · exact h2
  clear_value s3
  split
  · exact h3.trans (records_flash ..)
  · exact h3

theorem records_unitLog (s : State) (kind h p task pos : Nat) : Records s (unitLog s kind h p task pos) [R.errUnitLog, R.errUnitCount] :=
  (counted_logErr ..).records

theorem records_errBump (s : State) (r : Reg) (n : Nat) : Records s (errBump s r n) [r] := (counted_bump ..).records

theorem records_hearthSample (s : State) (h : Nat) (rs : List Reg) : Records s (hearthSample s h) rs := (sampled_sampleAll ..).records rs

/-! A hearth that is reset, or taken out of service (R510, R511). -/

theorem unbind_next (s : State) (h : Nat) : (hget (unbind s h) h).next = none := by
  unfold unbind
  split
  · next hn => exact hn
  · next r _ =>
    extract_lets e y s0 s2
    have hnone : (hget (hput s h { y with next := none }) h).next = none := by rw [hget_hput_same]
    have hl : TasksLeave (hput s h { y with next := none }) s2 := by
      have h0 : TasksLeave (hput s h { y with next := none }) s0 := leaves_wasted ..
      clear_value s0
      exact ((h0.trans (leaves_streamsStop ..)).trans (leaves_handlesFree ..)).trans (leaves_semsFree ..)
    clear_value s2
    have hk := (hl.trans ((leaves_taskMod s2 r.part r.id (fun k => { k with place := .ready })).trans
      (leaves_grfBump _ r.part (r := R.grfUnbinds r.part) (grf_ge ..) 1))).hearth h
    rcases hk.next with hn | hn
    exacts [hn.trans hnone, hn]

theorem oosReg_addr (hh : h < 256) : 0x6800220 ≤ (R.errHrtOosI (h / 64)).addr ∧ (R.errHrtOosI (h / 64)).addr < 0x6800240 := by
  simp only [R.errHrtOosI, blkBase]
  omega

theorem faultReg_addr (hh : h < 256) : 0x6800200 ≤ (R.errHrtFaultI (h / 64)).addr ∧ (R.errHrtFaultI (h / 64)).addr < 0x6800220 := by
  simp only [R.errHrtFaultI, blkBase]
  omega

/-- Registers that the recovery counts in lie outside the two tables of hearths. -/
theorem notCounted {a : Nat} (h1 : 0x6800200 ≤ a) (h2 : a < 0x6800240) :
    a ∉ [R.errOosEvents, R.errHrtFaults, R.errUnitLog, R.errUnitCount, R.stkAshHead, R.stkHrtResets, R.errReqLost, R.stkCmdStatus, R.stkStatus].map
      Reg.addr := by
  have hout : ∀ b ∈ [R.errOosEvents, R.errHrtFaults, R.errUnitLog, R.errUnitCount, R.stkAshHead, R.stkHrtResets, R.errReqLost, R.stkCmdStatus,
      R.stkStatus].map Reg.addr, b < 0x6800200 ∨ 0x6800240 ≤ b := by decide
  intro hm
  have := hout a hm
  omega

/-- What a hearth keeps when it is taken out of service. -/
def outOf (x : Hearth) : Hearth := { x with oos := true, part := none, leaving := false, tlb := [], walks := [] }

def inReset (x : Hearth) : Hearth := { x with inReset := true }

theorem HearthLeaves.outOf {x y : Hearth} (h : HearthLeaves x y) : HearthLeaves (Machine.outOf x) (Machine.outOf y) := by
  obtain ⟨hp, hc, hd, hn, _⟩ := h
  simp only [Prod.mk.injEq] at hp
  obtain ⟨_, _, h3, h4, _, h6, h7, h8⟩ := hp
  exact ⟨by simp only [Machine.outOf, h3, h4, h6, h7, h8], hc, hd, hn, fun _ h => h⟩

def outRegs (h : Nat) : List Reg := [R.errHrtOosI (h / 64), R.errOosEvents, R.errUnitLog, R.errUnitCount]

theorem oosBit (s : State) (h : Nat) (v : Nat) : bit (rd (wr s (R.errHrtOosI (h / 64)) (setBits (rd s (R.errHrtOosI (h / 64))) (h % 64) 1 v))
    (R.errHrtOosI (h / 64))) (h % 64) = decide (v % 2 = 1) := by
  rw [rd_wr_same, bit_setBits_same]

structure OutOfService (s t : State) (h : Nat) : Prop where
  kept : Recovers s t (outRegs h)
  hearth : HearthLeaves (outOf (hget s h)) (hget t h)
  next : (hget t h).next = none
  due : t.dueHrt = s.dueHrt
  noted : bit (rd t (R.errHrtOosI (h / 64))) (h % 64) = true

/-- The task bound to the hearth is unbound, and what the device knows of the hearth is dropped. -/
structure Cleared (s t : State) (h : Nat) (rs : List Reg) : Prop where
  kept : Recovers s t rs
  hearth : HearthLeaves (hget s h) (hget t h)
  next : (hget t h).next = none
  due : t.dueHrt = s.dueHrt

theorem Cleared.residDrop {w : State} (hc : Cleared s w h rs) : Cleared s (Machine.residDrop (shootdownsAck w h) h) h rs :=
  ⟨hc.kept.trans (recovers_residDrop ..), hc.hearth, hc.next, hc.due⟩

theorem cleared_unbind (s : State) (h : Nat) (rs : List Reg) :
    Cleared s (residDrop (shootdownsAck (unbind (hearthSample s h) h) h) h) h rs := by
  have hs := records_hearthSample s h rs
  have hu := leaves_unbind (hearthSample s h) h
  have hx := hu.hearth h
  rw [hs.hget] at hx
  exact Cleared.residDrop ⟨hs.kept.trans (hu.recovers rs), hx, unbind_next .., (dueKept_unbind ..).faults.trans hs.due⟩

theorem oosReg_notIn (hh : h < 256) {l : List Reg} (hl : l ⊆ [R.errOosEvents, R.errHrtFaults, R.errUnitLog, R.errUnitCount, R.stkAshHead,
    R.stkHrtResets, R.errReqLost, R.stkCmdStatus, R.stkStatus]) : (R.errHrtOosI (h / 64)).addr ∉ l.map Reg.addr := fun hm =>
  notCounted (by have := (oosReg_addr hh).1; omega) (oosReg_addr hh).2 (List.map_subset _ hl hm)

def oosNote (s : State) (h p : Nat) : State :=
  healthWrite (unitLog (errBump (wr s (R.errHrtOosI (h / 64)) (setBits (rd s (R.errHrtOosI (h / 64))) (h % 64) 1 1)) R.errOosEvents 1) 2 h p 0 0)

/-- The hearth is noted in its table of the hearths out of service. -/
theorem oosNoted (hh : h < 256) (s : State) (p : Nat) :
    Records s (oosNote s h p) (outRegs h) ∧ bit (rd (oosNote s h p) (R.errHrtOosI (h / 64))) (h % 64) = true := by
  unfold oosNote
  have hw := (counted_wr s (R.errHrtOosI (h / 64)) (setBits (rd s (R.errHrtOosI (h / 64))) (h % 64) 1 1)).records.mono (qs := outRegs h) (by simp [outRegs])
  have hb := oosBit s h 1
  generalize wr s (R.errHrtOosI (h / 64)) (setBits (rd s (R.errHrtOosI (h / 64))) (h % 64) 1 1) = w at *
  have hu := (((records_errBump w R.errOosEvents 1).mono (qs := [R.errOosEvents, R.errUnitLog, R.errUnitCount]) (by simp)).trans
    ((records_unitLog _ 2 h p 0 0).mono (by simp))).trans (records_healthWrite ..)
  refine ⟨hw.trans (hu.mono (by simp [outRegs])), ?_⟩
  rw [hu.kept.regs _ (by have := (oosReg_addr hh).2; omega) (oosReg_notIn hh (by simp))]
  exact hb

theorem hearthOut_eq (hoos : (hget s h).oos = false) : hearthOut s h =
    oosNote (hmod (residDrop (shootdownsAck (unbind (hearthSample s h) h) h) h) h outOf) h ((hget s h).part.getD 0) := by
  unfold hearthOut
  exact if_neg (by rw [hoos]; decide)

theorem Cleared.oosNote {w : State} (hc : Cleared s w h (outRegs h)) (hh : h < 256) (p : Nat) :
    OutOfService s (Machine.oosNote (hmod w h outOf) h p) h := by
  obtain ⟨hr, hx, hn, hd⟩ := hc
  obtain ⟨h3, hb⟩ := oosNoted hh (hmod w h outOf) p
  have h2x : hget (hmod w h outOf) h = outOf (hget w h) := hget_hmod_same ..
  refine ⟨(hr.trans (recovers_hmod w h outOf _)).trans h3.kept, ?_, ?_, h3.due.trans hd, hb⟩
  · rw [h3.hget, h2x]
    exact hx.outOf
  · rw [h3.hget, h2x]
    exact hn

theorem hearthOut_out (hh : h < 256) (hoos : (hget s h).oos = false) : OutOfService s (hearthOut s h) h := by
  rw [hearthOut_eq hoos]
  exact (cleared_unbind ..).oosNote hh _

/-- A hearth that is being reset: idle, with no task bound to it, and else in its place. -/
structure InReset (s t : State) (h : Nat) : Prop where
  kept : Recovers s t [R.stkHrtResets]
  hearth : HearthLeaves (inReset (hget s h)) (hget t h)
  idle : Idle t h
  next : (hget t h).next = none
  due : Idle s h → t.dueHrt = s.dueHrt

theorem hearthReset_eq (hr : (hget s h).inReset = false) : hearthReset s h =
    stkBump (residDrop (shootdownsAck (unbind (hearthDrop (hmod s h inReset) h) h) h) h) R.stkHrtResets := by
  unfold hearthReset
  exact if_neg (by rw [hr]; decide)

theorem InReset.ends {w : State} (hk : Recovers s w [R.stkHrtResets]) (hx : HearthLeaves (inReset (hget s h)) (hget w h)) (hi : Idle w h)
    (hd : Idle s h → w.dueHrt = s.dueHrt) :
    InReset s (stkBump (residDrop (shootdownsAck (unbind w h) h) h) R.stkHrtResets) h := by
  have hu := leaves_unbind w h
  have hb := (counted_bump (residDrop (shootdownsAck (unbind w h) h) h) false R.stkHrtResets 1 48).records
  have hget : hget (bump (residDrop (shootdownsAck (unbind w h) h) h) false R.stkHrtResets 1 48) h = Machine.hget (unbind w h) h := hb.hget h
  have hdue := (dueKept_unbind w h).faults
  refine ⟨((hk.trans (hu.recovers _)).trans (recovers_residDrop ..)).trans hb.kept, ?_, ?_, ?_, fun hs => (hb.due.trans hdue).trans (hd hs)⟩
  · exact (congrArg _ hget).mpr (hx.trans (hu.hearth h))
  · have hiu := hu.idle hi
    exact ⟨(congrArg Hearth.cur hget).trans hiu.1, (congrArg Hearth.drain hget).trans hiu.2⟩
  · exact (congrArg Hearth.next hget).trans (unbind_next w h)

theorem hearthReset_inReset (hr : (hget s h).inReset = false) : InReset s (hearthReset s h) h := by
  obtain ⟨hl, hi⟩ := leaves_hearthDrop (hmod s h inReset) h
  have h1 : hget (hmod s h inReset) h = inReset (hget s h) := hget_hmod_same ..
  rw [hearthReset_eq hr]
  refine InReset.ends ((recovers_hmod s h inReset _).trans (hl.recovers _)) (h1 ▸ hl.hearth h) hi fun hs => ?_
  have hidle : Idle (hmod s h inReset) h := ⟨(congrArg Hearth.cur h1).trans hs.1, (congrArg Hearth.drain h1).trans hs.2⟩
  rw [hearthDrop_idle hidle]
  rfl

/-! The faults of a hearth (R510). -/

/-- The times of the faults of the window after one more. -/
def faultsAfter (s : State) (h : Nat) : List Nat :=
  (hget s h).faults.filter (fun t => telSec s < t + rdf s R.errCtrl 16 16) ++ [telSec s]

def faultRegs (h : Nat) : List Reg := [R.errHrtFaultI (h / 64), R.errHrtFaults, R.errUnitLog, R.errUnitCount]

structure FaultNoted (s t : State) (h : Nat) : Prop where
  kept : Recovers s t (faultRegs h)
  hearth : hget t h = { hget s h with faults := faultsAfter s h }
  due : t.dueHrt = s.dueHrt
  queues : t.qps = s.qps
  noted : bit (rd t (R.errHrtFaultI (h / 64))) (h % 64) = true

theorem faultReg_notIn (hh : h < 256) {l : List Reg} (hl : l ⊆ [R.errOosEvents, R.errHrtFaults, R.errUnitLog, R.errUnitCount, R.stkAshHead,
    R.stkHrtResets, R.errReqLost, R.stkCmdStatus, R.stkStatus]) : (R.errHrtFaultI (h / 64)).addr ∉ l.map Reg.addr := fun hm =>
  notCounted (faultReg_addr hh).1 (by have := (faultReg_addr hh).2; omega) (List.map_subset _ hl hm)

theorem faultReg_low (hh : h < 256) : (R.errHrtFaultI (h / 64)).addr < 0x100000000 := by
  have := (faultReg_addr hh).2
  omega

theorem FaultNoted.logged {v : State} (hh : h < 256) (hv : Records s v (faultRegs h)) (hb : bit (rd v (R.errHrtFaultI (h / 64))) (h % 64) = true) (p : Nat) :
    FaultNoted s (unitLog (hmod v h (fun x => { x with faults := x.faults.filter (fun t => telSec s < t + rdf s R.errCtrl 16 16) ++ [telSec s] }))
      1 h p 0 0) h := by
  have h1 : hget (hmod v h (fun x => { x with faults := x.faults.filter (fun t => telSec s < t + rdf s R.errCtrl 16 16) ++ [telSec s] })) h =
      { hget s h with faults := faultsAfter s h } := by
    rw [hget_hmod_same, hv.hget]
    rfl
  have hk := hv.kept.trans
    (recovers_hmod v h (fun x => { x with faults := x.faults.filter (fun t => telSec s < t + rdf s R.errCtrl 16 16) ++ [telSec s] }) _)
  have hd : (hmod v h (fun x => { x with faults := x.faults.filter (fun t => telSec s < t + rdf s R.errCtrl 16 16) ++ [telSec s] })).dueHrt = s.dueHrt := hv.due
  have hq : (hmod v h (fun x => { x with faults := x.faults.filter (fun t => telSec s < t + rdf s R.errCtrl 16 16) ++ [telSec s] })).qps = s.qps := hv.queues
  have hb' : bit (rd (hmod v h (fun x => { x with faults := x.faults.filter (fun t => telSec s < t + rdf s R.errCtrl 16 16) ++ [telSec s] }))
      (R.errHrtFaultI (h / 64))) (h % 64) = true := hb
  generalize hmod v h _ = w at *
  have h3 := records_unitLog w 1 h p 0 0
  refine ⟨hk.trans (h3.kept.mono (by simp [faultRegs])), (h3.hget h).trans h1, h3.due.trans hd, h3.queues.trans hq, ?_⟩
  rw [h3.kept.regs _ (faultReg_low hh) (faultReg_notIn hh (by simp))]
  exact hb'

theorem faultNote_noted (hh : h < 256) (s : State) (p : Option Nat) : FaultNoted s (faultNote s h p) h := by
  refine FaultNoted.logged hh (((counted_wr s (R.errHrtFaultI (h / 64)) (setBits (rd s (R.errHrtFaultI (h / 64))) (h % 64) 1 1)).records.mono
    (by simp [faultRegs])).trans ((records_errBump _ R.errHrtFaults 1).mono (by simp [faultRegs]))) ?_ _
  rw [(records_errBump _ R.errHrtFaults 1).kept.regs _ (faultReg_low hh) (faultReg_notIn hh (by simp)), rd_wr_same, bit_setBits_same]
  rfl

theorem Recovers.dropHigh (h : Recovers s t qs) (hq : ∀ r ∈ qs, 0x100000000 ≤ r.addr) (rs : List Reg) : Recovers s t rs :=
  ⟨h.eq, h.stk, fun r hr _ => h.regs r hr fun hm => by
    obtain ⟨q, hmem, he⟩ := List.mem_map.1 hm
    have := hq q hmem
    omega⟩

/-- The tasks of a hearth that faults have left it. -/
structure Dropped (s t : State) (h : Nat) : Prop where
  kept : Recovers s t []
  hearth : HearthLeaves (hget s h) (hget t h)
  idle : Idle t h
  due : Idle s h → t.dueHrt = s.dueHrt

theorem spdErr_ge (h : Nat) : ∀ r ∈ [R.spdErrLog h, R.spdErrCount h], 0x100000000 ≤ r.addr := by
  simp only [List.mem_cons, List.not_mem_nil, or_false, R.spdErrLog, R.spdErrCount, blkBase]
  rintro r (rfl | rfl)
  · dsimp only; omega
  · dsimp only; omega

theorem records_statePerr (s : State) (h : Nat) : Records s (statePerr s h) [R.spdErrLog h, R.spdErrCount h] :=
  (((counted_freeBits s 2).mono (by simp)).trans (counted_logErr ..)).records

theorem Records.drop {w : State} (hk : Records s w []) : Dropped s (hearthDrop w h) h := by
  obtain ⟨hl, hi⟩ := leaves_hearthDrop w h
  have hx := hl.hearth h
  rw [hk.hget] at hx
  refine ⟨hk.kept.trans (hl.recovers _), hx, hi, fun hs => ?_⟩
  have hidle : Idle w h := by rwa [Idle, hk.hget]
  rw [hearthDrop_idle hidle, hk.due]

theorem faultDrop_dropped (s : State) (h : Nat) (cause : HearthFaultCause) :
    Dropped s (hearthDrop (if cause = .stateParity then statePerr s h else s) h) h := by
  refine Records.drop ?_
  split
  · have hp := records_statePerr s h
    exact ⟨hp.kept.dropHigh (spdErr_ge h) [], hp.hearths, hp.due, hp.queues⟩
  · exact .refl s []

theorem faultsAfter_congr (ht : t.now = s.now) (hc : rd t R.errCtrl = rd s R.errCtrl) (hf : (hget t h).faults = (hget s h).faults) :
    faultsAfter t h = faultsAfter s h := by
  rw [faultsAfter, faultsAfter, hf, telSec, telSec, rdf, rdf, ht, hc]

theorem HearthLeaves.faults {x y : Hearth} (hl : HearthLeaves x y) : y.faults = x.faults := congrArg (fun p => p.2.2.1) hl.place
theorem HearthLeaves.inReset {x y : Hearth} (hl : HearthLeaves x y) : y.inReset = x.inReset := congrArg (fun p => p.2.2.2.1) hl.place
theorem HearthLeaves.oos {x y : Hearth} (hl : HearthLeaves x y) : y.oos = x.oos := congrArg (fun p => p.2.2.2.2.1) hl.place
theorem HearthLeaves.part {x y : Hearth} (hl : HearthLeaves x y) : y.part = x.part := congrArg (fun p => p.1) hl.place
theorem HearthLeaves.leaving {x y : Hearth} (hl : HearthLeaves x y) : y.leaving = x.leaving := congrArg (fun p => p.2.1) hl.place
theorem HearthLeaves.none {x y : Hearth} (hl : HearthLeaves x y) (hc : x.cur = none) (hd : x.drain = none) : y.cur = none ∧ y.drain = none :=
  ⟨by rcases hl.cur with e | e; exacts [e.trans hc, e], by rcases hl.drain with e | e; exacts [e.trans hd, e]⟩

theorem errCtrl_low : R.errCtrl.addr < 0x6800200 := by decide

theorem errCtrl_faults (hh : h < 256) : R.errCtrl.addr ∉ (faultRegs h).map Reg.addr := by
  have h1 := (faultReg_addr hh).1
  have h2 : R.errCtrl.addr ∉ [R.errHrtFaults, R.errUnitLog, R.errUnitCount].map Reg.addr := by decide
  have h3 := errCtrl_low
  intro hm
  rcases List.mem_cons.1 hm with e | hm
  · omega
  · exact h2 hm

/-- A fault of hearth `h` is noted: its tasks have left it, and an ash record is written. -/
structure FaultLogged (s t : State) (h : Nat) : Prop where
  kept : Recovers s t (R.stkAshHead :: faultRegs h)
  hearth : HearthLeaves { hget s h with faults := faultsAfter s h } (hget t h)
  idle : Idle t h
  due : Idle s h → t.dueHrt = s.dueHrt
  noted : bit (rd t (R.errHrtFaultI (h / 64))) (h % 64) = true

theorem Dropped.noted {w : State} (hh : h < 256) (hd : Dropped s w h) (p : Option Nat) (kind action : Nat) :
    FaultLogged s (ashWrite (faultNote w h p) 2 kind action h (ashPartNo p) false) h ∧
      faultLimit (faultNote w h p) h = decide (rdf s R.errCtrl 8 4 ≤ (faultsAfter s h).length) := by
  have hnow : w.now = s.now := by rw [hd.kept.eq]
  have hctrl : rd w R.errCtrl = rd s R.errCtrl := hd.kept.regs _ (by have := errCtrl_low; omega) (by simp)
  have hfaults := faultsAfter_congr hnow hctrl hd.hearth.faults
  have hn := faultNote_noted hh w p
  have hnx := hn.hearth
  rw [hfaults] at hnx
  have hctrl' : rd (faultNote w h p) R.errCtrl = rd s R.errCtrl :=
    (hn.kept.regs _ (by have := errCtrl_low; omega) (errCtrl_faults hh)).trans hctrl
  have hlimit : faultLimit (faultNote w h p) h = decide (rdf s R.errCtrl 8 4 ≤ (faultsAfter s h).length) := by
    rw [faultLimit, rdf, hctrl', hnx]
    rfl
  refine ⟨?_, hlimit⟩
  have ha := records_ashWrite (faultNote w h p) 2 kind action h (ashPartNo p) false
  have hax := (ha.hget h).trans hnx
  refine ⟨((hd.kept.mono (by simp)).trans (hn.kept.mono fun r hr => .tail _ hr)).trans (ha.kept.mono (by simp)), ?_, ?_, fun hs => ?_, ?_⟩
  · rw [hax]
    obtain ⟨hp, hc, hdr, hne, hw⟩ := hd.hearth
    simp only [Prod.mk.injEq] at hp
    obtain ⟨h1, h2, _, h4, h5, h6, h7, h8⟩ := hp
    exact ⟨by simp only [h1, h2, h4, h5, h6, h7, h8], hc, hdr, hne, hw⟩
  · rw [Idle, hax]
    exact hd.idle
  · rw [ha.due, hn.due, hd.due hs]
  · rw [ha.kept.regs _ (faultReg_low hh) (faultReg_notIn hh (by simp))]
    exact hn.noted

theorem hearthFaultOp_eq (hh : h < 256) (hr : (hget s h).inReset = false) (ho : (hget s h).oos = false) (cause : HearthFaultCause) :
    (rdf s R.errCtrl 8 4 ≤ (faultsAfter s h).length → ∃ a, FaultLogged s a h ∧ hearthFaultOp s h cause = hearthOut a h) ∧
      ((faultsAfter s h).length < rdf s R.errCtrl 8 4 → ∃ a, FaultLogged s a h ∧ hearthFaultOp s h cause = hearthReset a h) := by
  have hd := faultDrop_dropped s h cause
  have hg : ¬ ((decide (256 ≤ h) || (hget s h).inReset || (hget s h).oos) = true) := by
    rw [hr, ho]
    simpa using hh
  have hlim := (hd.noted hh (hget s h).part 0 0).2
  unfold hearthFaultOp
  dsimp only
  rw [if_neg hg, hlim]
  refine ⟨fun hc => ?_, fun hc => ?_⟩
  · exact ⟨_, (hd.noted hh (hget s h).part _ _).1, if_pos (decide_eq_true hc)⟩
  · exact ⟨_, (hd.noted hh (hget s h).part _ _).1, if_neg (by simpa using hc)⟩

end

end Sys2Proof.Machine

/-!
SUPPORT and proofs for hearths that fault, are reset, serviced, returned and released (R502, R508, R510, R511, R524), and O51.
-/

namespace Sys2Proof.Machine

section
variable {s t u v : State} {h : Nat}

/-! A fault that falls due in a command (R510). -/

/-- A hearth fault that fell due is taken before the command ends. -/
theorem settle_reqFault {cause : HearthFaultCause} (hv : Calm v) (hw : Calm (hearthFaultOp v h cause)) :
    settle (reqFault v h cause) = settle (hearthFaultOp v h cause) := by
  have hagain {w : State} (hn : w.stk.susp = none) : suspectAgain w = w := by simp [suspectAgain, hn]
  have hend {w : State} (hn : w.stk.susp = none) (b : Bool) : suspectSettle w b = w := by simp [suspectSettle, hn]
  have htake : settleFaults (reqFault v h cause) = hearthFaultOp v h cause := by
    have hv' : ({ reqFault v h cause with dueHrt := [] } : State) = v := by rw [reqFault, ← hv.faults]
    rw [settleFaults, hv', reqFault, hv.faults]
    rfl
  generalize hearthFaultOp v h cause = w at *
  have hnone : settleFaults w = w := by
    simp only [settleFaults, hw.faults, List.foldl_nil]
    rw [← hw.faults]
  have hrun : settleRun (reqFault v h cause) = settleRun w := by
    unfold settleRun
    dsimp only
    rw [hagain (w := reqFault v h cause) hv.susp, hagain hw.susp, settleAborts_still (s := reqFault v h cause) hv.aborts, settleAborts_still hw.aborts,
      htake, hnone, hend hw.susp, hend hw.susp]
  unfold settle
  rw [hrun, if_pos hw.run, if_pos (show (reqFault v h cause).stk.phase = .run from hv.run)]

/-- A hearth fault leads to what the stoker does about it. -/
theorem hearthFault_completes {cause : HearthFaultCause} {P : State → Prop} (hc : Calm s) (hh : h < 256) (hw : Calm (hearthFaultOp (quiet s) h cause))
    (hP : ∀ u, Follows s.pending (hearthFaultOp (quiet s) h cause) u → P u) : Completes (.hearthFault h cause) s P := by
  obtain ⟨u, hu, hf⟩ := ends_calm s hw
  refine ⟨u, ?_, hP u hf⟩
  show act (only (h < 256) (reqFault · h cause)) s = .next u
  rw [← hu, act, if_pos hc.run, only, if_pos hh, ends, ends, settle_reqFault hc.quiet hw]

theorem low_notNote {r : Reg} (hr : 0x6800000 ≤ r.addr) : r.addr ∉ noteRegs := by
  have hn : ∀ a ∈ noteRegs, a < 0x6800000 := by decide
  exact fun hm => absurd (hn _ hm) (by omega)

theorem hearthFault_resets {cause : HearthFaultCause} (hc : Calm s) (hh : h < 256) (hr : (hget s h).inReset = false) (ho : (hget s h).oos = false)
    (hi : Idle s h ∨ Calm (hearthFaultOp (quiet s) h cause)) (hl : (faultsAfter s h).length < rdf s R.errCtrl 8 4) :
    Completes (.hearthFault h cause) s (fun u => (hget u h).inReset = true ∧ (hget u h).oos = false ∧ Idle u h ∧
      (hget u h).faults = faultsAfter s h ∧ bit (rd u (R.errHrtFaultI (h / 64))) (h % 64) = true) := by
  obtain ⟨a, hlog, he⟩ := (hearthFaultOp_eq (s := quiet s) hh hr ho cause).2 hl
  have hreset : InReset a (hearthReset a h) h := hearthReset_inReset (hlog.hearth.inReset.trans hr)
  have hw : Calm (hearthFaultOp (quiet s) h cause) := by
    rcases hi with hi | hw
    · have hk := (hlog.kept.mono (qs := R.stkHrtResets :: R.stkAshHead :: faultRegs h) fun r hm => .tail _ hm).trans (hreset.kept.mono (by simp))
      rw [he]
      exact hk.calm hc.quiet (((hreset.due hlog.idle).trans (hlog.due hi)).trans hc.faults)
    · exact hw
  refine hearthFault_completes hc hh hw fun u hf => ?_
  rw [he] at hf
  have hx := hf.hget h
  have hnoted := hf.regs (R.errHrtFaultI (h / 64)) (low_notNote (by have := (faultReg_addr hh).1; omega))
  rw [hreset.kept.regs _ (faultReg_low hh) (faultReg_notIn hh (by simp))] at hnoted
  refine ⟨?_, ?_, ?_, ?_, ?_⟩
  · rw [hx]
    exact hreset.hearth.inReset
  · rw [hx]
    exact hreset.hearth.oos.trans (hlog.hearth.oos.trans ho)
  · rw [Idle, hx]
    exact hreset.idle
  · rw [hx]
    exact hreset.hearth.faults.trans hlog.hearth.faults
  · rw [hnoted]
    exact hlog.noted

theorem oosReg_low (hh : h < 256) : (R.errHrtOosI (h / 64)).addr < 0x100000000 := by
  have := (oosReg_addr hh).2
  omega

theorem hearthFault_out {cause : HearthFaultCause} (hc : Calm s) (hh : h < 256) (hr : (hget s h).inReset = false) (ho : (hget s h).oos = false)
    (hi : Idle s h ∨ Calm (hearthFaultOp (quiet s) h cause)) (hl : rdf s R.errCtrl 8 4 ≤ (faultsAfter s h).length) :
    Completes (.hearthFault h cause) s (fun u => (hget u h).oos = true ∧ (hget u h).part = none ∧ Idle u h ∧
      (hget u h).next = none ∧ bit (rd u (R.errHrtOosI (h / 64))) (h % 64) = true) := by
  obtain ⟨a, hlog, he⟩ := (hearthFaultOp_eq (s := quiet s) hh hr ho cause).1 hl
  have hout : OutOfService a (hearthOut a h) h := hearthOut_out hh (hlog.hearth.oos.trans ho)
  have hw : Calm (hearthFaultOp (quiet s) h cause) := by
    rcases hi with hi | hw
    · have hk := (hlog.kept.mono (qs := (R.stkAshHead :: faultRegs h) ++ outRegs h) fun r hm => List.mem_append_left _ hm).trans
        (hout.kept.mono fun r hm => List.mem_append_right _ hm)
      rw [he]
      exact hk.calm hc.quiet ((hout.due.trans (hlog.due hi)).trans hc.faults)
    · exact hw
  refine hearthFault_completes hc hh hw fun u hf => ?_
  rw [he] at hf
  have hx := hf.hget h
  refine ⟨?_, ?_, ?_, ?_, ?_⟩
  · rw [hx]
    exact hout.hearth.oos
  · rw [hx]
    exact hout.hearth.part
  · rw [Idle, hx]
    exact hout.hearth.none hlog.idle.1 hlog.idle.2
  · rw [hx]
    exact hout.next
  · rw [hf.regs _ (low_notNote (by have := (oosReg_addr hh).1; omega))]
    exact hout.noted

/-! Service, return and release (R508, R511). -/

theorem cmdStat_low : R.stkCmdStatus.addr < 0x100000000 ∧ R.stkCmdStatus.addr ∉ noteRegs ∧ R.stkCmdStatus.addr ∉ [R.stkHrtResets].map Reg.addr := by
  decide

/-- A hearth command that has started a reset of its hearth. -/
def Started (h : Nat) (u : State) : Prop := u.stk.tested = some h ∧ (hget u h).inReset = true ∧ Idle u h ∧ cmdBusy u = true

/-- The state in which a hearth command `op` resets its hearth. -/
def testing (s : State) (op h : Nat) : State := cmdStat (stkMod s (fun k => { k with tested := some h })) true op 0

theorem testing_resets {c : Prop} [Decidable c] {f : State → State} {op : Nat} (hc : Calm s) (hg : c) (hr : (hget s h).inReset = false)
    (hop : cmdBusy (testing s op h) = true) (e : f (quiet s) = hearthReset (testing (quiet s) op h) h) (hi : Idle s h ∨ Calm (f (quiet s))) :
    ∃ u, actStk (only c f) s = .next u ∧ Started h u := by
  have hreset : InReset (testing (quiet s) op h) (hearthReset (testing (quiet s) op h) h) h := hearthReset_inReset hr
  have hcalm : Calm (testing (quiet s) op h) := (hc.quiet.stkMod (f := fun k => { k with tested := some h }) ⟨rfl, rfl, rfl, rfl⟩).of rfl rfl rfl rfl rfl rfl rfl
  have hw : Calm (f (quiet s)) := by
    rcases hi with hi | hw
    · rw [e]
      exact hreset.kept.calm hcalm ((hreset.due hi).trans hcalm.faults)
    · exact hw
  refine completes_stk hc hg hw fun u hf => ?_
  rw [e] at hf
  have hx := hf.hget h
  obtain ⟨hlow, hnote, hnot⟩ := cmdStat_low
  refine ⟨?_, ?_, ?_, ?_⟩
  · rw [hf.eq]
    dsimp only
    rw [hreset.kept.stk]
    rfl
  · rw [hx]
    exact hreset.hearth.inReset
  · rw [Idle, hx]
    exact hreset.idle
  · rw [cmdBusy, hf.regs _ hnote, hreset.kept.regs _ hlow hnot]
    exact hop

/-- What a refused hearth command leaves: its result, and else nothing. -/
def Refused (s : State) (c : Nat) (u : State) : Prop := rdf u R.stkCmdStatus 8 4 = c ∧ u.hearths = s.hearths ∧ u.stk = s.stk

theorem refuse_completes {c : Prop} [Decidable c] {f : State → State} {op r : Nat} (hc : Calm s) (hg : c) (e : f (quiet s) = cmdRefuse (quiet s) op r)
    (hop : ∀ b, bits (b1 b + fieldAt 1 4 op + fieldAt 8 4 r) 8 4 = r) : ∃ u, actStk (only c f) s = .next u ∧ Refused s r u := by
  have hk : Counted (quiet s) (cmdRefuse (quiet s) op r) [R.stkCmdStatus] := counted_wr ..
  refine completes_stk hc hg (by rw [e]; exact hk.calm hc.quiet) fun u hf => ?_
  rw [e] at hf
  refine ⟨?_, ?_, ?_⟩
  · rw [rdf, hf.regs _ cmdStat_low.2.1, cmdRefuse, cmdStat, rd_wr_same]
    exact hop _
  · rw [hf.eq]
    rfl
  · rw [hf.eq]
    rfl

theorem cmdBusy_quiet (s : State) : cmdBusy (quiet s) = cmdBusy s := rfl
theorem procFree_quiet (s : State) : procFree (quiet s) = procFree s := rfl

theorem hrtReturn_starts (hc : Calm s) (hh : h < 256) (hb : cmdBusy s = false) (hr : (hget s h).inReset = false) (ho : (hget s h).oos = true)
    (hi : Idle s h ∨ Calm (hrtReturn (quiet s) h)) : Completes (.hrtReturn h) s (Started h) := by
  refine testing_resets (f := fun t => hrtReturn t h) (op := 3) hc hh hr (by rw [testing, cmdBusy, cmdStat, rd_wr_same]; decide) ?_ hi
  have hg : ¬ ((decide (256 ≤ h) || !(hget s h).oos || (hget s h).inReset) = true) := by
    rw [hr, ho]
    simpa using hh
  exact (if_neg (by rw [cmdBusy_quiet, hb]; decide)).trans (if_neg hg)

theorem releaseHold_starts (hc : Calm s) (hh : h < 256) (hb : cmdBusy s = false) (hr : (hget s h).inReset = false) (hd : (hget s h).held = true)
    (hi : Idle s h ∨ Calm (releaseHold (quiet s) h)) : Completes (.releaseHold h) s (Started h) := by
  refine testing_resets (f := fun t => releaseHold t h) (op := 6) hc hh hr (by rw [testing, cmdBusy, cmdStat, rd_wr_same]; decide) ?_ hi
  have hg : ¬ ((decide (256 ≤ h) || !(hget s h).held || (hget s h).inReset) = true) := by
    rw [hr, hd]
    simpa using hh
  exact (if_neg (by rw [cmdBusy_quiet, hb]; decide)).trans (if_neg hg)

theorem busy_refused (hc : Calm s) (hh : h < 256) (hb : cmdBusy s = true) :
    Completes (.hrtService h) s (Refused s 1) ∧ Completes (.hrtReturn h) s (Refused s 1) ∧ Completes (.releaseHold h) s (Refused s 1) := by
  refine ⟨refuse_completes (f := fun t => hrtService t h) (op := 2) hc hh (if_pos ?_) (by decide),
    refuse_completes (f := fun t => hrtReturn t h) (op := 3) hc hh (if_pos hb) (by decide),
    refuse_completes (f := fun t => releaseHold t h) (op := 6) hc hh (if_pos hb) (by decide)⟩
  rw [procFree_quiet, procFree, hb]
  simp

theorem misfit_refused (hc : Calm s) (hh : h < 256) :
    (procFree s = true → (hget s h).part = none ∨ (hget s h).leaving = true ∨ (hget s h).inReset = true ∨ (hget s h).oos = true ∨ (hget s h).held = true →
      Completes (.hrtService h) s (Refused s 2)) ∧
    (cmdBusy s = false → (hget s h).oos = false ∨ (hget s h).inReset = true → Completes (.hrtReturn h) s (Refused s 2)) ∧
    (cmdBusy s = false → (hget s h).held = false ∨ (hget s h).inReset = true → Completes (.releaseHold h) s (Refused s 2)) := by
  refine ⟨fun hp hx => ?_, fun hb hx => ?_, fun hb hx => ?_⟩
  · refine refuse_completes (f := fun t => hrtService t h) (op := 2) hc hh ?_ (by decide)
    refine (if_neg (by rw [procFree_quiet, hp]; decide)).trans (if_pos ?_)
    show (decide (256 ≤ h) || (hget s h).part.isNone || (hget s h).leaving || (hget s h).inReset || (hget s h).oos || (hget s h).held) = true
    rcases hx with e | e | e | e | e <;> simp [e]
  · refine refuse_completes (f := fun t => hrtReturn t h) (op := 3) hc hh ?_ (by decide)
    refine (if_neg (by rw [cmdBusy_quiet, hb]; decide)).trans (if_pos ?_)
    show (decide (256 ≤ h) || !(hget s h).oos || (hget s h).inReset) = true
    rcases hx with e | e <;> simp [e]
  · refine refuse_completes (f := fun t => releaseHold t h) (op := 6) hc hh ?_ (by decide)
    refine (if_neg (by rw [cmdBusy_quiet, hb]; decide)).trans (if_pos ?_)
    show (decide (256 ≤ h) || !(hget s h).held || (hget s h).inReset) = true
    rcases hx with e | e <;> simp [e]

/-- Hearth `h` runs and drains the same tasks. -/
structure SameTasks (h : Nat) (s t : State) : Prop where
  cur : (hget t h).cur = (hget s h).cur
  drain : (hget t h).drain = (hget s h).drain

theorem SameTasks.trans (h1 : SameTasks h s t) (h2 : SameTasks h t u) : SameTasks h s u := ⟨h2.cur.trans h1.cur, h2.drain.trans h1.drain⟩
theorem Freed.sameTasks {p : Nat} (hf : Freed h p s t) : SameTasks h s t := ⟨hf.tasks.1, hf.tasks.2⟩

/-- Unbinding keeps the tasks that a hearth runs and drains. -/
theorem unbind_sameTasks (s : State) (h : Nat) : SameTasks h s (unbind s h) := by
  have hbump (w : State) (z : Bool) (r : Reg) (n k : Nat) : SameTasks h w (bump w z r n k) := by
    refine ⟨?_, ?_⟩ <;> rw [hget_bump]
  have htask (w : State) (p id : Nat) (f : Task → Task) : SameTasks h w (taskMod w p id f) := ⟨rfl, rfl⟩
  have hput (x : Hearth) (hx : x.cur = (hget s h).cur) (hd : x.drain = (hget s h).drain) : SameTasks h s (hput s h x) := by
    refine ⟨?_, ?_⟩
    · rw [hget_hput_same, hx]
    · rw [hget_hput_same, hd]
  unfold unbind
  split
  · exact ⟨rfl, rfl⟩
  · exact (((((hput _ (by exact rfl) (by exact rfl)).trans (wasted_freed (p := 0) ..).sameTasks).trans (streamsStop_freed (p := 0) ..).sameTasks).trans
      (handlesFree_freed (p := 0) ..).sameTasks).trans (semsFree_freed (h := h) ..).sameTasks).trans ((htask ..).trans (hbump ..))

/-- What follows from a command where nothing is due, as long as no unload waits. -/
theorem settleRun_quietly (ha : s.dueAborts = []) (hf : s.dueHrt = []) (hs : s.stk.susp = none) (hu : s.colUnl = []) :
    settleRun s = settleAborts (stokerStep (partSteps s)) := by
  have h1 : suspectAgain s = s := by simp [suspectAgain, hs]
  have h2 : settleFaults s = s := by
    simp only [settleFaults, hf, List.foldl_nil]
    rw [← hf]
  have h3 : ∀ b, suspectSettle s b = s := fun b => by simp [suspectSettle, hs]
  simp only [settleRun, h1, settleAborts_still ha, h2, h3, hu, List.foldl_nil]
  rfl

/-- A device that is calm but for hearth `h`, which is to be reset for service when it is idle. -/
structure Serving (h : Nat) (s : State) : Prop where
  calm : Calm { s with stk := { s.stk with service := none } }
  service : s.stk.service = some h
  reset : (hget s h).inReset = false

/-- The hearth in service is reset once it is idle. -/
def serviced (s : State) (h : Nat) : State :=
  if (hget s h).cur.isSome || (hget s h).drain.isSome then s else hearthReset s h

theorem serviced_kept (hr : (hget s h).inReset = false) : Recovers s (serviced s h) [R.stkHrtResets] ∧ (serviced s h).dueHrt = s.dueHrt := by
  unfold serviced
  split
  · exact ⟨.refl .., rfl⟩
  · next hi =>
    simp only [Bool.or_eq_true, not_or, Bool.not_eq_true, Option.isSome_eq_false_iff, Option.isNone_iff_eq_none] at hi
    have hreset := hearthReset_inReset hr
    exact ⟨hreset.kept, hreset.due hi⟩

theorem settle_serving (hv : Serving h s) : settle s = serviced (partSteps s) h := by
  have hk : PartSteps s (partSteps s) := partSteps_fold ..
  have hstk : (partSteps s).stk = s.stk := by rw [hk.eq]
  have hget : hget (partSteps s) h = hget s h := hget_congr (by rw [hk.eq]) h
  have hsweep : NoSweep (partSteps s) := hk.noSweep hv.calm.noSweep
  obtain ⟨hkept, hdue⟩ := serviced_kept (s := partSteps s) (by rw [hget]; exact hv.reset)
  have haborts : (serviced (partSteps s) h).dueAborts = [] := by
    rw [hkept.eq]
    exact (congrArg State.dueAborts hk.eq).trans hv.calm.aborts
  have hfaults : (serviced (partSteps s) h).dueHrt = [] := by
    rw [hdue]
    exact (congrArg State.dueHrt hk.eq).trans hv.calm.faults
  have hwarm : (serviced (partSteps s) h).stk.warmQ = none := by
    rw [hkept.stk]
    exact (congrArg Stoker.warmQ hstk).trans hv.calm.warmQ
  have hstep : stokerStep (partSteps s) = serviced (partSteps s) h := by
    have hserve : serviceStep (partSteps s) = serviced (partSteps s) h := by
      simp only [serviceStep, hstk, hv.service, serviced, hget, hv.reset, Bool.false_or]
    have haway : (partSteps s).away = false := (congrArg State.away hk.eq).trans hv.calm.here
    rw [stokerStep, haway, if_neg (by decide), sweepSteps_eq hsweep, hserve, warmNext, hwarm]
  have ha : s.dueAborts = [] := hv.calm.aborts
  have hf : s.dueHrt = [] := hv.calm.faults
  have hs : s.stk.susp = none := hv.calm.susp
  have hu : s.colUnl = [] := hv.calm.unl
  have hrun : settleRun s = serviced (partSteps s) h := by
    rw [settleRun_quietly ha hf hs hu, hstep, settleAborts_still haborts]
  have hphase : s.stk.phase = .run := hv.calm.run
  rw [settle, if_pos hphase, hrun]
  show ({ serviced (partSteps s) h with dueAborts := [], dueHrt := [] } : State) = serviced (partSteps s) h
  rw [← haborts, ← hfaults]

theorem Serving.ends (hv : Serving h v) (s : State) : Machine.ends s v = .next { serviced (partSteps v) h with pending := s.pending } := by
  have hk : PartSteps v (partSteps v) := partSteps_fold ..
  have hget : hget (partSteps v) h = hget v h := hget_congr (by rw [hk.eq]) h
  obtain ⟨hkept, -⟩ := serviced_kept (s := partSteps v) (h := h) (by rw [hget]; exact hv.reset)
  have hheld : (serviced (partSteps v) h).held = false := by
    rw [hkept.eq]
    exact (congrArg State.held hk.eq).trans hv.calm.free
  rw [Machine.ends, settle_serving hv, unlessHeld, if_neg (by rw [hheld]; decide)]

/-- What a hearth in service is like after the command that takes it into service. -/
structure InService (s u : State) (h : Nat) : Prop where
  service : u.stk.service = some h
  leaving : (hget u h).leaving = true
  next : (hget u h).next = none
  cur : (hget u h).cur = (hget s h).cur
  drain : (hget u h).drain = (hget s h).drain
  reset : (hget u h).inReset = ((hget s h).cur.isNone && (hget s h).drain.isNone)
  busy : cmdBusy u = true

/-- The hearth of a command is leaving for service, with no task bound to it. -/
structure Leaves (s v : State) (h : Nat) : Prop where
  serving : Serving h v
  leaving : (hget v h).leaving = true
  next : (hget v h).next = none
  tasks : SameTasks h s v
  busy : cmdBusy v = true

theorem Leaves.inService (hl : Leaves s v h) (q : List Instr) : InService s { serviced (partSteps v) h with pending := q } h := by
  obtain ⟨hs, hleave, hnext, htasks, hbusy⟩ := hl
  have hk : PartSteps v (partSteps v) := partSteps_fold ..
  have hget : hget (partSteps v) h = hget v h := hget_congr (by rw [hk.eq]) h
  have hservice : (partSteps v).stk.service = some h := (congrArg (fun w => w.stk.service) hk.eq).trans hs.service
  have hbusy' : cmdBusy (partSteps v) = true := by rwa [cmdBusy, hk.regs _ cmdStat_low.2.1]
  have hreset : (Machine.hget (partSteps v) h).inReset = false := by rw [hget]; exact hs.reset
  generalize partSteps v = w at *
  obtain ⟨hkept, -⟩ := serviced_kept hreset
  have hserv : (serviced w h).stk.service = some h := by rw [hkept.stk]; exact hservice
  have hbus : cmdBusy (serviced w h) = true := by
    rwa [cmdBusy, hkept.regs _ cmdStat_low.1 cmdStat_low.2.2]
  have hrest : (Machine.hget (serviced w h) h).leaving = true ∧ (Machine.hget (serviced w h) h).next = none ∧
      (Machine.hget (serviced w h) h).cur = (Machine.hget s h).cur ∧ (Machine.hget (serviced w h) h).drain = (Machine.hget s h).drain ∧
      (Machine.hget (serviced w h) h).inReset = ((Machine.hget s h).cur.isNone && (Machine.hget s h).drain.isNone) := by
    rw [← htasks.cur, ← htasks.drain, ← hget]
    rw [← hget] at hleave hnext
    have hnone : ((Machine.hget w h).cur.isNone && (Machine.hget w h).drain.isNone) =
        !((Machine.hget w h).cur.isSome || (Machine.hget w h).drain.isSome) := by
      cases (Machine.hget w h).cur <;> cases (Machine.hget w h).drain <;> rfl
    unfold serviced
    split
    · next hi =>
      refine ⟨hleave, hnext, rfl, rfl, ?_⟩
      rw [hreset, hnone, hi]
      rfl
    · next hi =>
      simp only [Bool.or_eq_true, not_or, Bool.not_eq_true, Option.isSome_eq_false_iff, Option.isNone_iff_eq_none] at hi
      obtain ⟨hc, hd⟩ := hi
      have hr := hearthReset_inReset hreset
      refine ⟨hr.hearth.leaving.trans hleave, hr.next, hr.idle.1.trans hc.symm, hr.idle.2.trans hd.symm, ?_⟩
      rw [hr.hearth.inReset, hc, hd]
      rfl
  obtain ⟨h1, h2, h3, h4, h5⟩ := hrest
  exact ⟨hserv, h1, h2, h3, h4, h5, hbus⟩

theorem hrtService_serves {p : Nat} (hc : Calm s) (hh : h < 256) (hp : procFree s = true) (hpart : (hget s h).part = some p)
    (hl : (hget s h).leaving = false) (hr : (hget s h).inReset = false) (ho : (hget s h).oos = false) (hd : (hget s h).held = false) :
    Completes (.hrtService h) s (fun u => InService s u h) := by
  have hg : ¬ ((decide (256 ≤ h) || (hget s h).part.isNone || (hget s h).leaving || (hget s h).inReset || (hget s h).oos || (hget s h).held) = true) := by
    rw [hpart, hl, hr, ho, hd]
    simpa using hh
  have e : hrtService (quiet s) h =
      procSet (cmdStat (stkMod (unbind (hmod (quiet s) h (fun x => { x with leaving := true })) h) (fun k => { k with service := some h })) true 2 0) 2 :=
    (if_neg (by rw [procFree_quiet, hp]; decide)).trans (if_neg hg)
  have hx : hget (hmod (quiet s) h (fun x => { x with leaving := true })) h = { hget s h with leaving := true } := hget_hmod_same ..
  have hcalm : Calm (hmod (quiet s) h (fun x => { x with leaving := true })) := hc.quiet.of rfl rfl rfl rfl rfl rfl rfl
  have ht : SameTasks h s (hmod (quiet s) h (fun x => { x with leaving := true })) := ⟨by rw [hx], by rw [hx]⟩
  generalize hmod (quiet s) h (fun x => { x with leaving := true }) = w at *
  have hu := leaves_unbind w h
  have hcu : Calm (unbind w h) := (hu.recovers []).calm hcalm ((dueKept_unbind w h).faults.trans hcalm.faults)
  have htu := ht.trans (unbind_sameTasks w h)
  have hleaving : (hget (unbind w h) h).leaving = true := (hu.hearth h).leaving.trans (by rw [hx])
  have hreset : (hget (unbind w h) h).inReset = false := (hu.hearth h).inReset.trans (by rw [hx]; exact hr)
  have hnext := unbind_next w h
  generalize unbind w h = v at *
  have hleaves : Leaves s (procSet (cmdStat (stkMod v (fun k => { k with service := some h })) true 2 0) 2) h := by
    refine ⟨⟨⟨hcu.run, hcu.here, hcu.free, hcu.aborts, hcu.faults, hcu.susp, rfl, hcu.warmQ, hcu.unl, hcu.parts⟩, rfl, hreset⟩, hleaving, hnext,
      ⟨htu.cur, htu.drain⟩, ?_⟩
    rw [procSet, wrf, cmdBusy, rd_wr_other _ (by decide), cmdStat, rd_wr_same]
    decide
  refine ⟨_, ?_, hleaves.inService s.pending⟩
  show actStk (only (h < 256) (hrtService · h)) s = _
  rw [actStk, if_pos ⟨hc.run, hc.here⟩, only, if_pos hh, e]
  exact hleaves.serving.ends s

end

end Sys2Proof.Machine

/-!
SUPPORT and proofs for the end of a hearth's reset (R511), requests and walks past their age (R502), and O51.
-/

namespace Sys2Proof.Machine

section
variable {s t u v : State} {h : Nat} {rs : List Reg}

/-! The end of a reset (R511). -/

theorem hearthOut_same (ho : (hget s h).oos = true) : hearthOut s h = s := if_pos ho

theorem hearthOut_queues (ho : (hget s h).oos = false) (hn : (hget s h).next = none) (hh : h < 256) : (hearthOut s h).qps = s.qps := by
  have hs := records_hearthSample s h []
  have hu : unbind (hearthSample s h) h = hearthSample s h := unbind_idle (by rw [hs.hget]; exact hn)
  have hnote (w : State) (p : Nat) : (oosNote (hmod (residDrop (shootdownsAck w h) h) h outOf) h p).qps = w.qps := (oosNoted hh _ p).1.queues
  rw [hearthOut_eq ho, hnote, hu]
  exact hs.queues

/-- The registers of the hearth's window that a reset keeps. -/
def ctrlRegs (h : Nat) : List Nat := [R.mxaCtrl h, R.vecCtrl h, R.spdCtrl h, R.fluCtrl h, R.blwCtrl h].map Reg.addr

/-- Hearth `h` is as after reset, but in its place; its writes are cancelled. -/
structure Cleaned (s t : State) (h : Nat) : Prop where
  kept : Recovers s t [R.errReqLost]
  hearth : hget t h = hearthClean (hget s h)
  due : t.dueHrt = s.dueHrt
  queues : t.qps = s.qps
  window : ∀ r : Reg, blkBase .mxa h ≤ r.addr → r.addr < blkBase .mxa h + 0x100000 → r.addr ∉ ctrlRegs h → rd t r = r.rst

theorem records_writesCancel (s : State) (h : Nat) : Records s (writesCancel s h) [R.errReqLost] := by
  unfold writesCancel
  dsimp only
  refine Records.trans ?_ (records_errBump ..)
  exact ⟨⟨rfl, rfl, fun _ _ _ => rfl⟩, rfl, rfl, rfl⟩

/-- The registers that `q` does not keep, and the samples of a block, are reset. -/
def windowClear (s : State) (q : Nat → Bool) (lo n : Nat) : State := samplesZero { s with csr := s.csr.filter (fun e => q e.1) } lo n

/-- A register that a reset of hearth `h` keeps. -/
def windowKeeps (h a : Nat) : Bool :=
  a < blkBase .mxa h || blkBase .mxa h + 0x100000 ≤ a || ([R.mxaCtrl h, R.vecCtrl h, R.spdCtrl h, R.fluCtrl h, R.blwCtrl h].map Reg.addr).contains a

theorem hearthRegs_eq (s : State) (h : Nat) :
    hearthRegs s h = windowClear (hearthSample s h) (windowKeeps h) (blkBase .mxa h) 0x100000 := by
  unfold hearthRegs windowClear windowKeeps
  rfl

theorem rd_windowClear (s : State) (q : Nat → Bool) (lo n : Nat) (r : Reg) :
    rd (windowClear s q lo n) r = if q r.addr then rd s r else r.rst := by
  show tgetD (s.csr.filter fun e => q e.1) r.addr r.rst = _
  rw [tgetD, tget_filter_key]
  split
  · rfl
  · rfl

theorem windowClear_recovers (s : State) {q : Nat → Bool} (hq : ∀ a, a < 0x100000000 → q a = true) (lo n : Nat) (rs : List Reg) :
    Recovers s (windowClear s q lo n) rs :=
  ⟨rfl, rfl, fun r hr _ => by rw [rd_windowClear, hq _ hr, if_pos rfl]⟩

theorem windowKeeps_low {h a : Nat} (ha : a < 0x100000000) : windowKeeps h a = true := by
  have hlow : a < blkBase .mxa h := by
    simp only [blkBase]
    omega
  rw [windowKeeps, decide_eq_true hlow]
  rfl

theorem windowKeeps_window {h a : Nat} (h1 : blkBase .mxa h ≤ a) (h2 : a < blkBase .mxa h + 0x100000) (h3 : a ∉ ctrlRegs h) :
    windowKeeps h a = false := by
  have h3' : ([R.mxaCtrl h, R.vecCtrl h, R.spdCtrl h, R.fluCtrl h, R.blwCtrl h].map Reg.addr).contains a = false := by
    rw [← Bool.not_eq_true, List.contains_iff_mem]
    exact h3
  rw [windowKeeps, h3', decide_eq_false (Nat.not_lt.2 h1), decide_eq_false (Nat.not_le.2 h2)]
  rfl

theorem windowClear_cleaned (hs : Records s t []) (hq : ∀ a, a < 0x100000000 → windowKeeps h a = true) (lo n : Nat) :
    Cleaned s (hmod (windowClear t (windowKeeps h) lo n) h hearthClean) h := by
  have hk := windowClear_recovers t hq lo n [R.errReqLost]
  have hw := rd_windowClear t (windowKeeps h) lo n
  have hh : hget (windowClear t (windowKeeps h) lo n) h = hget s h := hs.hget h
  refine ⟨((hs.kept.mono (by simp)).trans hk).trans (recovers_hmod ..), ?_, hs.due, hs.queues, fun r h1 h2 h3 => ?_⟩
  · rw [hget_hmod_same, hh]
  · exact (hw r).trans (by rw [windowKeeps_window h1 h2 h3]; rfl)

theorem hearthRegs_cleaned (s : State) (h : Nat) : Cleaned s (hmod (hearthRegs s h) h hearthClean) h := by
  rw [hearthRegs_eq]
  exact windowClear_cleaned (records_hearthSample s h []) (fun _ => windowKeeps_low) ..

theorem Records.cleaned (hr : Records s t [R.errReqLost]) (hc : Cleaned t u h) : Cleaned s u h :=
  ⟨hr.kept.trans hc.kept, by rw [hc.hearth, hr.hget], hc.due.trans hr.due, hc.queues.trans hr.queues, hc.window⟩

/-- What a reset leaves of its hearth. -/
def cleaned (s : State) (h : Nat) : State := hmod (hearthRegs (writesCancel s h) h) h hearthClean

theorem cleaned_cleaned (s : State) (h : Nat) : Cleaned s (cleaned s h) h := (records_writesCancel s h).cleaned (hearthRegs_cleaned ..)

theorem Cleaned.calm (hc : Cleaned s t h) (hs : Calm s) : Calm t := hc.kept.calm hs (hc.due.trans hs.faults)

/-- A procedure that waited for the hearth ends. -/
structure ServiceEnded (s t : State) : Prop where
  hearths : t.hearths = s.hearths
  queues : t.qps = s.qps
  regs : ∀ r : Reg, r.addr ≠ R.stkCmdStatus.addr → rd t r = rd s r
  calm : Calm s → Calm t

theorem serviceEnd_ended (hs : s.stk.service = none) (h : Nat) (ok : Bool) : ServiceEnded s (serviceEnd s h ok) := by
  have hcmd (w : State) (c : Nat) : ServiceEnded w (cmdEnd w c) := by
    unfold cmdEnd
    split
    · exact ⟨rfl, rfl, fun r hr => rd_wr_other _ hr _, fun hc => hc.of rfl rfl rfl rfl rfl rfl rfl⟩
    · exact ⟨rfl, rfl, fun _ _ => rfl, id⟩
  unfold serviceEnd
  rw [if_neg (by rw [hs]; simp)]
  split
  · obtain ⟨h1, h2, h3, h4⟩ := hcmd (stkMod s (fun k => { k with tested := none })) (if ok then 0 else 5)
    exact ⟨h1, h2, h3, fun hc => h4 (hc.stkMod (f := fun k => { k with tested := none }) ⟨rfl, rfl, rfl, rfl⟩)⟩
  · exact ⟨rfl, rfl, fun _ _ => rfl, id⟩

theorem suspects_none {w : State} (hs : w.stk.susp = none) (g : Suspects → Suspects) : stkMod w (fun k => { k with susp := k.susp.map g }) = w := by
  have e : ({ w.stk with susp := w.stk.susp.map g } : Stoker) = w.stk := by
    rw [hs]
    exact congrArg (fun o => ({ w.stk with susp := o } : Stoker)) hs.symm
  exact congrArg (fun k => ({ w with stk := k } : State)) e

/-- The commands of queue pairs that the fault of a hearth holds: none. -/
def NoneHeld (s : State) : Prop := ∀ q i t r, (qpGet s q).cmds ≠ .held i t :: r

theorem heldRun_none (hq : NoneHeld s) (q n : Nat) : heldRun s q n = s := by
  cases n with
  | zero => rfl
  | succ n =>
    unfold heldRun
    split
    · next i t r e => exact absurd e (hq q i t r)
    · rfl

theorem heldRelease_none (hq : NoneHeld s) : heldRelease s = s := by
  unfold heldRelease
  generalize List.range 1025 = l
  induction l with
  | nil => rfl
  | cons q l ih => rw [List.foldl_cons, heldRun_none hq, ih]

theorem NoneHeld.of (hq : NoneHeld s) (ht : t.qps = s.qps) : NoneHeld t := fun q i c r => by
  rw [qpGet, ht]
  exact hq q i c r

/-- A reset that is done leads to what its end leaves. -/
theorem resetDone_completes {pass : Bool} {P : State → Prop} (hc : Calm s) (hh : h < 256) (hq : NoneHeld s)
    (e : hearthResetDone (quiet s) h pass = serviceEnd v h pass) (hv : Calm v) (hqv : v.qps = s.qps)
    (hP : ∀ u, u.hearths = v.hearths → (∀ r : Reg, r.addr ≠ R.stkCmdStatus.addr → r.addr ∉ noteRegs → rd u r = rd v r) → P u) :
    Completes (.hearthResetDone h pass) s P := by
  have hend := serviceEnd_ended hv.service h pass
  have hrel : heldRelease (serviceEnd v h pass) = serviceEnd v h pass := heldRelease_none (hq.of (hend.queues.trans hqv))
  refine completes_act (c := h < 256) (f := fun t => heldRelease (hearthResetDone t h pass)) hc hh (by rw [e, hrel]; exact hend.calm hv) fun u hf => ?_
  rw [e, hrel] at hf
  refine hP u ?_ fun r h1 h2 => (hf.regs r h2).trans (hend.regs r h1)
  rw [hf.eq]
  exact hend.hearths

theorem resetDone_steps (hc : Calm s) (hh : h < 256) (hr : (hget s h).inReset = true) (pass : Bool) : hearthResetDone s h pass =
    if pass then
      serviceEnd (if (hget s h).oos then
          healthWrite (hearthRejoin (hmod (wr (cleaned s h) (R.errHrtOosI (h / 64)) (setBits (rd (cleaned s h) (R.errHrtOosI (h / 64))) (h % 64) 1 0)) h
            (fun y => { y with oos := false })) h)
        else if (cleaned s h).stk.service = some h then serviceFree (cleaned s h) h
        else cleaned s h) h true
    else serviceEnd (hearthOut (ashWrite (faultNote (unitLog (cleaned s h) 7 h ((hget s h).part.getD 0) 0 0) h (hget s h).part) 2 7 6 h
      (ashPartNo (hget s h).part) false) h) h false := by
  have hg : ¬ ((decide (256 ≤ h) || !(hget s h).inReset) = true) := by
    rw [hr]
    simpa using hh
  have hsusp := suspects_none (w := cleaned s h) ((cleaned_cleaned s h).calm hc).susp
    (fun u => if (hget s h).part = some u.part then { u with ready := true } else u)
  unfold hearthResetDone
  refine (if_neg hg).trans ?_
  dsimp only
  rw [← cleaned, hsusp]

theorem resetDone_clean (hc : Calm s) (hh : h < 256) (hr : (hget s h).inReset = true) (hq : NoneHeld s) (ho : (hget s h).oos = false) :
    Completes (.hearthResetDone h true) s (fun u => hget u h = { Hearth.fresh with
        part := (hget s h).part, leaving := (hget s h).leaving, faults := (hget s h).faults, nextId := (hget s h).nextId,
        spd := { Scratch.reset with ues := (hget s h).spd.ues } } ∧
      ∀ r : Reg, blkBase .mxa h ≤ r.addr → r.addr < blkBase .mxa h + 0x100000 → r.addr ∉ ctrlRegs h → rd u r = r.rst) := by
  have hcl := cleaned_cleaned (quiet s) h
  have hv := hcl.calm hc.quiet
  have e : hearthResetDone (quiet s) h true = serviceEnd (cleaned (quiet s) h) h true := by
    rw [resetDone_steps hc.quiet hh hr, if_pos rfl, show (hget (quiet s) h).oos = false from ho, if_neg (by decide), hv.service, if_neg (by simp)]
  refine resetDone_completes hc hh hq e hv hcl.queues fun u hx hregs => ⟨?_, fun r h1 h2 h3 => ?_⟩
  · rw [hget_congr hx, hcl.hearth, hearthClean, show (hget (quiet s) h) = hget s h from rfl, ho]
    rfl
  · have hlow : 0x100000000 ≤ r.addr := le_trans (by simp only [blkBase]; omega) h1
    have hcmd : R.stkCmdStatus.addr < 0x100000000 := cmdStat_low.1
    rw [hregs r (by omega) (low_notNote (by omega)), hcl.window r h1 h2 h3]

/-- A hearth that passes its self-test joins the partition of its unit again. -/
structure Rejoined (s t : State) (h : Nat) : Prop where
  recs : Records { s with hearths := t.hearths } t []
  oos : (hget t h).oos = (hget s h).oos
  reset : (hget t h).inReset = (hget s h).inReset
  owner : ∀ p, unitOwner s h = some (p, false) → (hget t h).part = some p ∧ (hget t h).leaving = false

theorem hearthRejoin_rejoined (s : State) (h : Nat) : Rejoined s (hearthRejoin s h) h := by
  unfold hearthRejoin
  split
  · next p e =>
    refine ⟨.refl _ _, by rw [hget_hmod_same], by rw [hget_hmod_same], fun q hq => ?_⟩
    rw [e] at hq
    obtain ⟨rfl, -⟩ := Prod.mk.inj (Option.some.inj hq)
    rw [hget_hmod_same]
    exact ⟨rfl, rfl⟩
  · next hne => exact ⟨.refl _ _, rfl, rfl, fun q hq => absurd hq (hne q)⟩

theorem stkCmd_ne {r : Reg} (hr : 0x6800000 ≤ r.addr) : r.addr ≠ R.stkCmdStatus.addr := by
  have : R.stkCmdStatus.addr < 0x6800000 := by decide
  omega

theorem unitOwner_congr (ht : t.parts = s.parts) (h : Nat) : unitOwner t h = unitOwner s h := by
  simp only [unitOwner, partGet_congr ht]

/-- The hearth is back in service. -/
def rejoining (c : State) (h : Nat) : State :=
  hmod (wr c (R.errHrtOosI (h / 64)) (setBits (rd c (R.errHrtOosI (h / 64))) (h % 64) 1 0)) h (fun y => { y with oos := false })

theorem rejoining_inService {c : State} (hc : Calm c) (h : Nat) : Calm (rejoining c h) ∧ hget (rejoining c h) h = { hget c h with oos := false } ∧
    (rejoining c h).parts = c.parts ∧ (rejoining c h).qps = c.qps ∧ bit (rd (rejoining c h) (R.errHrtOosI (h / 64))) (h % 64) = false :=
  ⟨hc.of rfl rfl rfl rfl rfl rfl rfl, hget_hmod_same .., rfl, rfl, oosBit c h 0⟩

theorem rejoins_completes {c : State} (hc : Calm s) (hh : h < 256) (hq : NoneHeld s)
    (e : hearthResetDone (quiet s) h true = serviceEnd (healthWrite (hearthRejoin (rejoining c h) h)) h true) (hcalm : Calm c)
    (hx : hget c h = hearthClean (hget s h)) (hparts : c.parts = s.parts) (hqs : c.qps = s.qps) :
    Completes (.hearthResetDone h true) s (fun u => (hget u h).oos = false ∧ (hget u h).inReset = false ∧
      bit (rd u (R.errHrtOosI (h / 64))) (h % 64) = false ∧
      ∀ p, unitOwner s h = some (p, false) → (hget u h).part = some p ∧ (hget u h).leaving = false) := by
  obtain ⟨hw, hwx, hwp, hwq, hwb⟩ := rejoining_inService hcalm h
  have hj := hearthRejoin_rejoined (rejoining c h) h
  have hrecs := hj.recs.trans (records_healthWrite (hearthRejoin (rejoining c h) h) [])
  have hwcalm : Calm { rejoining c h with hearths := (hearthRejoin (rejoining c h) h).hearths } := hw.of rfl rfl rfl rfl rfl rfl rfl
  have hget : Machine.hget (healthWrite (hearthRejoin (rejoining c h) h)) h = Machine.hget (hearthRejoin (rejoining c h) h) h :=
    (records_healthWrite (hearthRejoin (rejoining c h) h) []).hget h
  refine resetDone_completes hc hh hq e (hrecs.calm hwcalm) (hrecs.queues.trans (hwq.trans hqs)) fun u hux hregs => ?_
  have hu : Machine.hget u h = Machine.hget (hearthRejoin (rejoining c h) h) h := (hget_congr hux h).trans hget
  have haddr : 0x6800000 ≤ (R.errHrtOosI (h / 64)).addr := by
    have := (oosReg_addr hh).1
    omega
  refine ⟨?_, ?_, ?_, fun p hp => ?_⟩
  · rw [hu, hj.oos, hwx]
  · rw [hu, hj.reset, hwx, hx]
    rfl
  · rw [hregs _ (stkCmd_ne haddr) (low_notNote haddr), hrecs.kept.regs _ (oosReg_low hh) (by simp)]
    exact hwb
  · rw [hu]
    exact hj.owner p ((unitOwner_congr (hwp.trans hparts) h).trans hp)

theorem resetDone_returns (hc : Calm s) (hh : h < 256) (hr : (hget s h).inReset = true) (hq : NoneHeld s) (ho : (hget s h).oos = true) :
    Completes (.hearthResetDone h true) s (fun u => (hget u h).oos = false ∧ (hget u h).inReset = false ∧
      bit (rd u (R.errHrtOosI (h / 64))) (h % 64) = false ∧
      ∀ p, unitOwner s h = some (p, false) → (hget u h).part = some p ∧ (hget u h).leaving = false) := by
  have hcl := cleaned_cleaned (quiet s) h
  have e := resetDone_steps hc.quiet hh hr true
  rw [if_pos rfl, show (hget (quiet s) h).oos = true from ho, if_pos rfl] at e
  have hparts : (cleaned (quiet s) h).parts = s.parts := by
    rw [hcl.kept.eq]
    rfl
  exact rejoins_completes hc hh hq e (hcl.calm hc.quiet) hcl.hearth hparts hcl.queues

theorem resetDone_fails (hc : Calm s) (hh : h < 256) (hr : (hget s h).inReset = true) (hq : NoneHeld s) :
    Completes (.hearthResetDone h false) s (fun u => (hget u h).oos = true ∧
      ((hget s h).oos = false → (hget u h).part = none ∧ bit (rd u (R.errHrtOosI (h / 64))) (h % 64) = true)) := by
  have hcl := cleaned_cleaned (quiet s) h
  have hclean := hcl.calm hc.quiet
  have e := resetDone_steps hc.quiet hh hr false
  rw [if_neg (by decide)] at e
  have hx : hget (cleaned (quiet s) h) h = hearthClean (hget s h) := hcl.hearth
  have hqs : (cleaned (quiet s) h).qps = s.qps := hcl.queues
  have hlog := records_unitLog (cleaned (quiet s) h) 7 h ((hget (quiet s) h).part.getD 0) 0 0
  generalize cleaned (quiet s) h = w at e hclean hx hqs hlog
  generalize unitLog w 7 h ((hget (quiet s) h).part.getD 0) 0 0 = l at e hlog
  have hn := faultNote_noted hh l (hget (quiet s) h).part
  generalize faultNote l h (hget (quiet s) h).part = n at e hn
  have ha := records_ashWrite n 2 7 6 h (ashPartNo (hget (quiet s) h).part) false
  generalize ashWrite n 2 7 6 h (ashPartNo (hget (quiet s) h).part) false = a at e ha
  have hax : hget a h = { hearthClean (hget s h) with faults := faultsAfter l h } := by
    rw [ha.hget, hn.hearth, hlog.hget, hx]
  have hac : Calm a := ha.calm (hn.kept.calm (hlog.calm hclean) (hn.due.trans (hlog.calm hclean).faults))
  have haq : a.qps = s.qps := ha.queues.trans (hn.queues.trans (hlog.queues.trans hqs))
  have haddr : 0x6800000 ≤ (R.errHrtOosI (h / 64)).addr := by
    have := (oosReg_addr hh).1
    omega
  cases ho : (hget s h).oos with
  | true =>
    have hoos : (hget a h).oos = true := by
      rw [hax]
      exact ho
    rw [hearthOut_same hoos] at e
    refine resetDone_completes hc hh hq e hac haq fun u hux hregs => ⟨?_, fun hf => absurd hf (by decide)⟩
    rw [hget_congr hux]
    exact hoos
  | false =>
    have hoos : (hget a h).oos = false := by
      rw [hax]
      exact ho
    have hout := hearthOut_out hh hoos
    have hqo := hearthOut_queues hoos (by rw [hax]; rfl) hh
    refine resetDone_completes hc hh hq e (hout.kept.calm hac (hout.due.trans hac.faults)) (hqo.trans haq) fun u hux hregs => ⟨?_, fun _ => ⟨?_, ?_⟩⟩
    · rw [hget_congr hux]
      exact hout.hearth.oos
    · rw [hget_congr hux]
      exact hout.hearth.part
    · rw [hregs _ (stkCmd_ne haddr) (low_notNote haddr)]
      exact hout.noted

end

section
variable {s t u v : State} {h : Nat}

/-! Requests and walks past their age (R502). -/

def lostRegs : List Reg := [R.errReqLost, R.errUnitLog, R.errUnitCount]

/-- A request of hearth `h` is counted as lost, and its task has left the hearth. -/
structure Lost (s t : State) (h task : Nat) : Prop where
  kept : Recovers s t lostRegs
  hearth : HearthLeaves (hget s h) (hget t h)
  count : bit (rd s R.errCtrl) 0 = false → rd t R.errReqLost = (rd s R.errReqLost + 1) % 2 ^ 48
  calm : Idle s h → t.dueHrt = s.dueHrt ∧ hget t h = hget s h
  gone : (∃ k ∈ (hget s h).cur.toList ++ (hget s h).drain.toList, k.id = task) → Idle t h

theorem any_task (l : List TaskRun) (own : Nat) : l.any (fun t => t.id = own) = true ↔ ∃ t ∈ l, t.id = own := by
  simp only [List.any_eq_true, decide_eq_true_eq]

theorem reqLost_lost (s : State) (h task pos : Nat) (own : Bool) : Lost s (reqLost s h task pos own) h task := by
  have hlog : Records s (unitLog (errBump s R.errReqLost 1) 3 h ((hget s h).part.getD 0) task pos) lostRegs :=
    ((records_errBump ..).mono (by simp [lostRegs])).trans ((records_unitLog ..).mono (by simp [lostRegs]))
  have hcount : bit (rd s R.errCtrl) 0 = false →
      rd (unitLog (errBump s R.errReqLost 1) 3 h ((hget s h).part.getD 0) task pos) R.errReqLost = (rd s R.errReqLost + 1) % 2 ^ 48 := fun hf => by
    rw [(records_unitLog (errBump s R.errReqLost 1) 3 h ((hget s h).part.getD 0) task pos).kept.regs _ (by decide) (by decide), errBump, hf, rd_bump_same,
      if_neg (by decide)]
  unfold reqLost
  dsimp only
  generalize unitLog (errBump s R.errReqLost 1) 3 h ((hget s h).part.getD 0) task pos = w at *
  have hend {t : State} (hl : TasksLeave w t) (hi : (∃ k ∈ (hget s h).cur.toList ++ (hget s h).drain.toList, k.id = task) → Idle t h)
      (hc : Idle s h → t = w) : Lost s t h task := by
    refine ⟨hlog.kept.trans (hl.recovers _), hlog.hget h ▸ hl.hearth h, fun hf => ?_, fun hs => ?_, hi⟩
    · rw [hl.regs _ (by decide)]
      exact hcount hf
    · rw [hc hs]
      exact ⟨hlog.due, hlog.hget h⟩
  split
  · next hn =>
    refine hend (.refl w) (fun hk => ?_) fun _ => rfl
    rw [← any_task] at hk
    rw [hk] at hn
    exact absurd hn (by decide)
  · next hn =>
    have hk : ∃ k ∈ (hget w h).cur.toList ++ (hget w h).drain.toList, k.id = task := by
      rw [hlog.hget, ← any_task]
      rwa [Bool.not_eq_true', Bool.not_eq_false] at hn
    have hnot : Idle s h → False := fun hs => by
      obtain ⟨k, hk, -⟩ := hk
      rw [hlog.hget, hs.1, hs.2] at hk
      exact absurd hk (by simp)
    have hidle := hearthAbort_idle w 7 hk
    have hl := leaves_hearthAbort w h task 7
    split
    · exact hend hl (fun _ => hidle) fun hs => (hnot hs).elim
    · exact hend (hl.trans (leaves_taskMod ..)) (fun _ => (leaves_taskMod ..).idle hidle) fun hs => (hnot hs).elim

theorem expiry_request {q : HReq} {i : Nat} (hi : lget (hget s h).reqs i = some q) : ∃ w pos,
    requestAgeExpiry s h i = reqLost w h (if q.kind = .hint then 65536 else q.own) pos true ∧
      Recovers s w lostRegs ∧ hget w h = { hget s h with reqs := ldel (hget s h).reqs i } ∧ w.dueHrt = s.dueHrt ∧ ∀ r, rd w r = rd s r := by
  unfold requestAgeExpiry
  dsimp only
  rw [hi]
  refine ⟨_, _, rfl, ⟨rfl, rfl, fun _ _ _ => rfl⟩, ?_, rfl, fun _ => rfl⟩
  rw [hget_hmod_same]
  rfl

theorem expiry_walk {e : Walk} {i : Nat} (hi : lget (hget s h).reqs i = none) (hw : lget (hget s h).walks (i - (hget s h).reqs.length) = some e) :
    ∃ w task, requestAgeExpiry s h i = reqLost w h task 0 false ∧
      Recovers s w lostRegs ∧ hget w h = { hget s h with walks := (hget s h).walks.filter (· ≠ e) } ∧ w.dueHrt = s.dueHrt ∧ ∀ r, rd w r = rd s r := by
  unfold requestAgeExpiry
  dsimp only
  rw [hi]
  dsimp only
  rw [hw]
  refine ⟨_, _, rfl, ⟨rfl, rfl, fun _ _ _ => rfl⟩, hget_hmod_same s h (fun x => { x with walks := x.walks.filter (· ≠ e) }), rfl, fun _ => rfl⟩

/-- A request or a walk of hearth `h` is past its age: what its loss leaves. -/
structure Expired (s t : State) (h task : Nat) (x : Hearth) : Prop where
  kept : Recovers s t lostRegs
  hearth : HearthLeaves x (hget t h)
  count : bit (rd s R.errCtrl) 0 = false → rd t R.errReqLost = (rd s R.errReqLost + 1) % 2 ^ 48
  idle : x.cur = none ∧ x.drain = none → t.dueHrt = s.dueHrt ∧ hget t h = x
  gone : (∃ k ∈ x.cur.toList ++ x.drain.toList, k.id = task) → Idle t h

theorem Lost.expired {w : State} {task : Nat} {x : Hearth} (hw : Recovers s w lostRegs) (hx : hget w h = x) (hd : w.dueHrt = s.dueHrt)
    (hr : ∀ r, rd w r = rd s r) (hl : Lost w t h task) : Expired s t h task x := by
  subst hx
  exact ⟨hw.trans hl.kept, hl.hearth, fun hf => by rw [hl.count (by rwa [hr]), hr], fun hi => ⟨(hl.calm hi).1.trans hd, (hl.calm hi).2⟩, hl.gone⟩

/-- Requests lost are counted, unless the counters are frozen. -/
def LostCounted (s u : State) : Prop := bit (rd s R.errCtrl) 0 = false → rd u R.errReqLost = (rd s R.errReqLost + 1) % 2 ^ 48

theorem Expired.completes {i task : Nat} {x : Hearth} {P : State → Prop} (hc : Calm s) (hh : h < 256)
    (he : Expired (quiet s) (requestAgeExpiry (quiet s) h i) h task x) (hcalm : Calm (requestAgeExpiry (quiet s) h i))
    (hP : ∀ u, hget u h = hget (requestAgeExpiry (quiet s) h i) h → LostCounted s u → P u) : Completes (.requestAgeExpiry h i) s P := by
  refine completes_act (c := h < 256) (f := fun t => requestAgeExpiry t h i) hc hh hcalm fun u hf => hP u (hf.hget h) fun hz => ?_
  rw [hf.regs _ (by decide)]
  exact he.count hz

theorem request_expires {q : HReq} {i : Nat} (hi : lget (hget s h).reqs i = some q) :
    Expired s (requestAgeExpiry s h i) h (if q.kind = .hint then 65536 else q.own) { hget s h with reqs := ldel (hget s h).reqs i } := by
  obtain ⟨w, pos, e, hw, hx, hd, hr⟩ := expiry_request hi
  rw [e]
  exact (reqLost_lost w h _ pos true).expired hw hx hd hr

theorem walk_expires {e : Walk} {i : Nat} (hi : lget (hget s h).reqs i = none) (hw : lget (hget s h).walks (i - (hget s h).reqs.length) = some e) :
    ∃ task, Expired s (requestAgeExpiry s h i) h task { hget s h with walks := (hget s h).walks.filter (· ≠ e) } := by
  obtain ⟨w, task, e, hw, hx, hd, hr⟩ := expiry_walk hi hw
  rw [e]
  exact ⟨task, (reqLost_lost w h task 0 false).expired hw hx hd hr⟩

theorem expiry_idle {q : HReq} {i : Nat} (hc : Calm s) (hh : h < 256) (hq : lget (hget s h).reqs i = some q) (hi : Idle s h) :
    Completes (.requestAgeExpiry h i) s (fun u => (hget u h).reqs = ldel (hget s h).reqs i ∧ LostCounted s u) := by
  have he := request_expires (s := quiet s) hq
  obtain ⟨hdue, hx⟩ := he.idle hi
  refine he.completes hc hh (he.kept.calm hc.quiet (hdue.trans hc.faults)) fun u hu hl => ⟨?_, hl⟩
  rw [hu, hx]
  rfl

theorem expiry_task {q : HReq} {i : Nat} (hc : Calm s) (hh : h < 256) (hq : lget (hget s h).reqs i = some q)
    (hcalm : Calm (requestAgeExpiry (quiet s) h i)) : Completes (.requestAgeExpiry h i) s (fun u => LostCounted s u ∧
      (q.kind ≠ .hint → (∃ t ∈ (hget s h).cur.toList ++ (hget s h).drain.toList, t.id = q.own) → Idle u h)) := by
  have he := request_expires (s := quiet s) hq
  refine he.completes hc hh hcalm fun u hu hl => ⟨hl, fun hk ht => ?_⟩
  rw [Idle, hu]
  exact he.gone (by rw [if_neg hk]; exact ht)

theorem expiry_walked {w : Walk} {i : Nat} (hc : Calm s) (hh : h < 256) (hi : lget (hget s h).reqs i = none)
    (hw : lget (hget s h).walks (i - (hget s h).reqs.length) = some w) (hcalm : Calm (requestAgeExpiry (quiet s) h i)) :
    Completes (.requestAgeExpiry h i) s (fun u => LostCounted s u ∧ w ∉ (hget u h).walks) := by
  obtain ⟨task, he⟩ := walk_expires (s := quiet s) hi hw
  refine he.completes hc hh hcalm fun u hu hl => ⟨hl, fun hm => ?_⟩
  rw [hu] at hm
  have := he.hearth.walks w hm
  simp at this

end

/-- Settles O51, from the frames of the tasks that leave a hearth and of the records of the stoker. -/
theorem hearthsReset : Obligations.HearthsReset := by
  intro s h hh hc
  refine ⟨fun hr ho cause hi => ⟨?_, ?_⟩, fun hr hq => ⟨?_, ?_, ?_⟩, fun p hp hpart hl hr ho hd => ?_, fun hb hr => ⟨fun ho hi => ?_, fun hd hi => ?_⟩,
    ⟨fun hb => busy_refused hc hh hb, misfit_refused hc hh⟩, fun i => ⟨?_, ?_, ?_⟩⟩
  · exact fun hl => hearthFault_resets hc hh hr ho hi hl
  · exact fun hl => hearthFault_out hc hh hr ho hi hl
  · exact fun ho => resetDone_clean hc hh hr hq ho
  · exact fun ho => resetDone_returns hc hh hr hq ho
  · exact resetDone_fails hc hh hr hq
  · obtain ⟨u, hu, hs⟩ := hrtService_serves hc hh hp hpart hl hr ho hd
    exact ⟨u, hu, hs.service, hs.leaving, hs.next, hs.cur, hs.drain, hs.reset, hs.busy⟩
  · exact hrtReturn_starts hc hh hb hr ho hi
  · exact releaseHold_starts hc hh hb hr hd hi
  · exact fun q hq hi => expiry_idle hc hh hq hi
  · exact fun q hq hcalm => expiry_task hc hh hq hcalm
  · exact fun w hn hw hcalm => expiry_walked hc hh hn hw hcalm

end Sys2Proof.Machine

/-!
SUPPORT and proofs for the partitions' commands (R441–R444, R447, R449, R468): what PRT_CMD_STATUS shows, refusals, quotas and rates.
-/

namespace Sys2Proof.Machine

section
variable {s t u v : State} {p : Nat}

/-! The status of a partition command (R468, R469). -/

theorem prtStat_bits : ∀ b : Bool, ∀ op < 8, ∀ p < 16, ∀ r < 8, bit (b1 b + fieldAt 1 3 op + fieldAt 4 4 p + fieldAt 8 4 r) 0 = b ∧
    bits (b1 b + fieldAt 1 3 op + fieldAt 4 4 p + fieldAt 8 4 r) 8 4 = r := by decide

/-- What PRT_CMD_STATUS shows: whether a command is in progress, and the result of the last one. -/
structure Shows (u : State) (busy : Bool) (result : Nat) : Prop where
  busy : prtBusy u = busy
  result : rdf u R.prtCmdStatus 8 4 = result

theorem prtStat_shows (s : State) (b : Bool) {op r : Nat} (hop : op < 8) (hp : p < 16) (hr : r < 8) : Shows (prtStat s b op p r) b r := by
  obtain ⟨h1, h2⟩ := prtStat_bits b op hop p hp r hr
  refine ⟨?_, ?_⟩
  · rw [prtBusy, prtStat, rd_wr_same]
    exact h1
  · rw [rdf, prtStat, rd_wr_same]
    exact h2

theorem counted_prtStat (s : State) (b : Bool) (op p r : Nat) : Counted s (prtStat s b op p r) [R.prtCmdStatus] := counted_wr ..
theorem counted_prtErr (s : State) (kind p r a : Nat) : Counted s (prtErr s kind p r a) [R.prtErrLog, R.prtErrCount] := counted_logErr ..

theorem prtCmdStatus_free : R.prtCmdStatus.addr ∉ noteRegs ∧ R.prtCmdStatus.addr ∉ [R.prtErrLog, R.prtErrCount].map Reg.addr := by decide

theorem Shows.congr {b : Bool} {r : Nat} (h : Shows s b r) (ht : rd t R.prtCmdStatus = rd s R.prtCmdStatus) : Shows t b r := by
  obtain ⟨h1, h2⟩ := h
  exact ⟨by rwa [prtBusy, ht], by rwa [rdf, ht]⟩

theorem Shows.follows {b : Bool} {r : Nat} {q : List Instr} (h : Shows v b r) (hf : Follows q v u) : Shows u b r :=
  h.congr (hf.regs _ prtCmdStatus_free.1)

def prtRefusalRegs : List Reg := [R.prtCmdStatus, R.prtErrLog, R.prtErrCount]

theorem prtRefuse_counted (s : State) (op p r : Nat) : Counted s (prtRefuse s op p r) prtRefusalRegs :=
  ((counted_prtStat ..).mono (by simp [prtRefusalRegs])).trans ((counted_prtErr ..).mono (by simp [prtRefusalRegs]))

theorem prtRefuse_shows (s : State) {op r : Nat} (hop : op < 8) (hp : p < 16) (hr : r < 8) : Shows (prtRefuse s op p r) false r :=
  (prtStat_shows s false hop hp hr).congr ((counted_prtErr ..).regs _ prtCmdStatus_free.2)

/-- A refused partition command leaves the hearths and the numbers of keys, and its result. -/
theorem refuse_shows {c : Prop} [Decidable c] {f : State → State} {op r : Nat} (hc : Calm s) (hg : c) (hop : op < 8) (hp : p < 16) (hr : r < 8)
    (e : f (quiet s) = prtRefuse (quiet s) op p r) :
    ∃ u, actStk (only c f) s = .next u ∧ rdf u R.prtCmdStatus 8 4 = r ∧ prtBusy u = false ∧ u.hearths = s.hearths ∧ u.nextKey = s.nextKey := by
  have hk := prtRefuse_counted (quiet s) op p r
  refine completes_stk hc hg (by rw [e]; exact hk.calm hc.quiet) fun u hf => ?_
  rw [e] at hf
  have hs := (prtRefuse_shows (quiet s) hop hp hr).follows hf
  refine ⟨hs.result, hs.busy, ?_, ?_⟩
  · rw [hf.eq]
    dsimp only
    rw [hk.eq]
    rfl
  · rw [hf.eq]
    dsimp only
    rw [hk.eq]
    rfl

theorem stateRefusal_lt (x : Part) : stateRefusal x < 8 := by
  unfold stateRefusal
  split <;> decide

/-! Quotas and rates (R447, R449). -/

/-- Slice `sl` gets the quota and the rate of partition `p`. -/
def slQuota (t : State) (p lines weight sl : Nat) : State := wrf (wrf t (R.chmPartQuotaP sl p) 0 20 lines) (R.chmPartRateP sl p) 0 9 weight

def slQuotas (s : State) (p lines weight : Nat) : State := [0, 1, 2, 3].foldl (fun t sl => slQuota t p lines weight sl) s

theorem quotaSet_eq (s : State) (p hbm lines weight : Nat) : quotaSet s p hbm lines weight =
    wrf (wr (wr (slQuotas s p lines weight) (R.prtQuotaP p) (hbm + fieldAt 32 20 lines)) (R.prtRateP p) weight) (R.xltFrames p) 32 24 hbm := rfl

/-- Registers in which a quota of a partition is written. -/
def slRegs (p sl : Nat) : List Reg := [R.chmPartQuotaP sl p, R.chmPartRateP sl p]
def quotaRegs (p : Nat) : List Reg := [0, 1, 2, 3].flatMap (slRegs p) ++ [R.prtQuotaP p, R.prtRateP p, R.xltFrames p]

theorem counted_slQuota (t : State) (p lines weight sl : Nat) : Counted t (slQuota t p lines weight sl) (slRegs p sl) :=
  ((counted_wrf ..).mono (by simp [slRegs])).trans ((counted_wrf ..).mono (by simp [slRegs]))

theorem Counted.foldl {α : Type} {f : State → α → State} {l : List α} {rs : List Reg} (hf : ∀ a ∈ l, ∀ w, Counted w (f w a) rs) (s : State) :
    Counted s (l.foldl f s) rs := by
  induction l generalizing s with
  | nil => exact .refl s rs
  | cons a l ih => exact (hf a (by simp) s).trans (ih (fun b hb => hf b (.tail _ hb)) _)

theorem counted_slQuotas (s : State) (p lines weight : Nat) : Counted s (slQuotas s p lines weight) ([0, 1, 2, 3].flatMap (slRegs p)) :=
  Counted.foldl (fun sl hsl w => (counted_slQuota w p lines weight sl).mono fun r hr => List.mem_flatMap.2 ⟨sl, hsl, hr⟩) s

theorem counted_quotaSet (s : State) (p hbm lines weight : Nat) : Counted s (quotaSet s p hbm lines weight) (quotaRegs p) := by
  rw [quotaSet_eq]
  refine ((((counted_slQuotas s p lines weight).mono ?_).trans ((counted_wr ..).mono ?_)).trans ((counted_wr ..).mono ?_)).trans ((counted_wrf ..).mono ?_)
  · exact fun r hr => List.mem_append_left _ hr
  · simp [quotaRegs]
  · simp [quotaRegs]
  · simp [quotaRegs]

/-- Slice `sl` holds the quota and the rate of partition `p`. -/
structure SlHolds (p lines weight sl : Nat) (t : State) : Prop where
  quota : chmQuota t sl p = lines % 2 ^ 20
  rate : rdf t (R.chmPartRateP sl p) 0 9 = weight % 2 ^ 9

theorem quota_ne_rate (a b p q : Nat) : (R.chmPartQuotaP a p).addr ≠ (R.chmPartRateP b q).addr := by
  simp only [R.chmPartQuotaP, R.chmPartRateP, blkBase]
  omega

theorem slQuota_holds (t : State) (p lines weight sl : Nat) : SlHolds p lines weight sl (slQuota t p lines weight sl) := by
  refine ⟨?_, ?_⟩
  · rw [chmQuota, slQuota, wrf, rd_wr_other _ (quota_ne_rate _ _ _ _), wrf, rd_wr_same, bits_setBits_same]
  · rw [rdf, slQuota, wrf, rd_wr_same, bits_setBits_same]

theorem slQuota_keeps {sl k lines weight : Nat} (hk : k ≠ sl) (hp : p < 16) (h : SlHolds p lines weight k t) :
    SlHolds p lines weight k (slQuota t p lines weight sl) := by
  have hq : (R.chmPartQuotaP k p).addr ≠ (R.chmPartQuotaP sl p).addr := by
    simp only [R.chmPartQuotaP, blkBase]
    omega
  have hr : (R.chmPartRateP k p).addr ≠ (R.chmPartRateP sl p).addr := by
    simp only [R.chmPartRateP, blkBase]
    omega
  obtain ⟨h1, h2⟩ := h
  refine ⟨?_, ?_⟩
  · rw [chmQuota, slQuota, wrf, rd_wr_other _ (quota_ne_rate _ _ _ _), wrf, rd_wr_other _ hq]
    exact h1
  · rw [rdf, slQuota, wrf, rd_wr_other _ hr, wrf, rd_wr_other _ (quota_ne_rate _ _ _ _).symm]
    exact h2

theorem slQuotas_holds (s : State) (hp : p < 16) (lines weight : Nat) {sl : Nat} (hsl : sl < 4) : SlHolds p lines weight sl (slQuotas s p lines weight) := by
  have step (l : List Nat) : ∀ t, (sl ∈ l ∨ SlHolds p lines weight sl t) → SlHolds p lines weight sl (l.foldl (fun t sl => slQuota t p lines weight sl) t) := by
    induction l with
    | nil =>
      intro t h
      rcases h with h | h
      · exact absurd h (by simp)
      · exact h
    | cons a l ih =>
      intro t h
      refine ih _ ?_
      by_cases ha : sl = a
      · exact .inr (ha ▸ slQuota_holds t p lines weight a)
      · rcases h with h | h
        · exact .inl ((List.mem_cons.1 h).resolve_left ha)
        · exact .inr (slQuota_keeps ha hp h)
  refine step [0, 1, 2, 3] s (.inl ?_)
  have : sl = 0 ∨ sl = 1 ∨ sl = 2 ∨ sl = 3 := by omega
  simpa using this

/-- The registers of the slices lie below those of the partitions. -/
theorem slReg_lt {sl : Nat} (hsl : sl < 4) (hp : p < 16) : (R.chmPartQuotaP sl p).addr < 0x2000000 ∧ (R.chmPartRateP sl p).addr < 0x2000000 := by
  simp only [R.chmPartQuotaP, R.chmPartRateP, blkBase]
  omega

theorem prtReg_ge (p : Nat) : 0x5000000 ≤ (R.prtQuotaP p).addr ∧ 0x5000000 ≤ (R.prtRateP p).addr ∧ 0x200000000 ≤ (R.xltFrames p).addr := by
  simp only [R.prtQuotaP, R.prtRateP, R.xltFrames, blkBase]
  omega

/-- What QUOTA and RATE of a partition come to when they are written. -/
structure Granted (t : State) (p hbm lines weight : Nat) : Prop where
  hbm : xQuota t p = hbm % 2 ^ 24
  slices : ∀ sl, sl < 4 → SlHolds p lines weight sl t

theorem SlHolds.congr {lines weight sl : Nat} (h : SlHolds p lines weight sl s) (hq : rd t (R.chmPartQuotaP sl p) = rd s (R.chmPartQuotaP sl p))
    (hr : rd t (R.chmPartRateP sl p) = rd s (R.chmPartRateP sl p)) : SlHolds p lines weight sl t := by
  obtain ⟨h1, h2⟩ := h
  exact ⟨by rwa [chmQuota, hq], by rwa [rdf, hr]⟩

theorem quotaSet_granted (s : State) (hp : p < 16) (hbm lines weight : Nat) : Granted (quotaSet s p hbm lines weight) p hbm lines weight := by
  rw [quotaSet_eq]
  refine ⟨?_, fun sl hsl => ?_⟩
  · rw [xQuota, rdf, wrf, rd_wr_same, bits_setBits_same]
  · obtain ⟨hq, hr⟩ := slReg_lt hsl hp
    obtain ⟨h1, h2, h3⟩ := prtReg_ge p
    refine (slQuotas_holds s hp lines weight hsl).congr ?_ ?_
    · rw [wrf, rd_wr_other _ (by omega), rd_wr_other _ (by omega), rd_wr_other _ (by omega)]
    · rw [wrf, rd_wr_other _ (by omega), rd_wr_other _ (by omega), rd_wr_other _ (by omega)]

theorem quota_note {sl : Nat} (hsl : sl < 4) (hp : p < 16) : (R.chmPartQuotaP sl p).addr ∉ noteRegs ∧ (R.chmPartRateP sl p).addr ∉ noteRegs := by
  have hn : ∀ a ∈ noteRegs, 0x2000000 ≤ a := by decide
  obtain ⟨hq, hr⟩ := slReg_lt hsl hp
  exact ⟨fun hm => absurd (hn _ hm) (by omega), fun hm => absurd (hn _ hm) (by omega)⟩

theorem frames_note (p : Nat) : (R.xltFrames p).addr ∉ noteRegs := low_notNote (by have := (prtReg_ge p).2.2; omega)

theorem Granted.congr {hbm lines weight : Nat} (h : Granted s p hbm lines weight) (hx : rd t (R.xltFrames p) = rd s (R.xltFrames p))
    (hs : ∀ sl, sl < 4 → rd t (R.chmPartQuotaP sl p) = rd s (R.chmPartQuotaP sl p) ∧ rd t (R.chmPartRateP sl p) = rd s (R.chmPartRateP sl p)) :
    Granted t p hbm lines weight :=
  ⟨by rw [xQuota, rdf, hx]; exact h.hbm, fun sl hsl => (h.slices sl hsl).congr (hs sl hsl).1 (hs sl hsl).2⟩

theorem Granted.follows {hbm lines weight : Nat} {q : List Instr} (h : Granted v p hbm lines weight) (hp : p < 16) (hf : Follows q v u) :
    Granted u p hbm lines weight :=
  h.congr (hf.regs _ (frames_note p)) fun _ hsl => ⟨hf.regs _ (quota_note hsl hp).1, hf.regs _ (quota_note hsl hp).2⟩

theorem Granted.lines {hbm lines weight : Nat} (h : Granted t p hbm lines weight) (hl : lines < 2 ^ 20) : quotaLines t p = lines := by
  rw [quotaLines, (h.slices 0 (by decide)).quota, Nat.mod_eq_of_lt hl]

theorem quotaLines_lt (s : State) (p : Nat) : quotaLines s p < 2 ^ 20 := bits_lt _ _ _

theorem quota_written (hp : p < 16) (hc : Calm s) (hform : prtFormed s p = true) (v : W64) :
    (bits v.toNat 0 24 ≤ hbmLimit s p → bits v.toNat 32 20 + otherLines s p ≤ 983040 → Completes (.prtQuotaWrite p v) s (fun u =>
      xQuota u p = bits v.toNat 0 24 ∧ (∀ sl, sl < 4 → chmQuota u sl p = bits v.toNat 32 20) ∧ partRate u p = partRate s p)) ∧
    (hbmLimit s p < bits v.toNat 0 24 ∨ 983040 < bits v.toNat 32 20 + otherLines s p → Leads (.prtQuotaWrite p v) s (quiet s)) ∧
    (bits v.toNat 0 9 ≤ 256 → Completes (.prtRateWrite p v) s (fun u => (∀ sl, sl < 4 → rdf u (R.chmPartRateP sl p) 0 9 = bits v.toNat 0 9) ∧
      quotaLines u p = quotaLines s p)) ∧
    (256 < bits v.toNat 0 9 → Leads (.prtRateWrite p v) s (quiet s)) := by
  have hformed : prtFormed (quiet s) p = true := hform
  have hbits (lo len : Nat) : bits v.toNat lo len % 2 ^ len = bits v.toNat lo len := Nat.mod_eq_of_lt (bits_lt _ _ _)
  refine ⟨fun h1 h2 => ?_, fun h => ?_, fun h => ?_, fun h => ?_⟩
  · have e : prtQuotaWrite (quiet s) p v.toNat = quotaSet (quiet s) p (bits v.toNat 0 24) (bits v.toNat 32 20) (partRate (quiet s) p) := by
      refine if_neg ?_
      have e1 : hbmLimit (quiet s) p = hbmLimit s p := rfl
      have e2 : otherLines (quiet s) p = otherLines s p := rfl
      simp only [hformed, e1, e2, Bool.or_eq_true, decide_eq_true_eq, Bool.not_true, Bool.false_eq_true, or_false]
      omega
    refine completes_stk (c := p < 16) (f := fun t => prtQuotaWrite t p v.toNat) hc hp (by rw [e]; exact (counted_quotaSet ..).calm hc.quiet) fun u hf => ?_
    rw [e] at hf
    have hg := (quotaSet_granted (quiet s) hp (bits v.toNat 0 24) (bits v.toNat 32 20) (partRate (quiet s) p)).follows hp hf
    refine ⟨hg.hbm.trans (hbits ..), fun sl hsl => (hg.slices sl hsl).quota.trans (hbits ..), ?_⟩
    exact ((hg.slices 0 (by decide)).rate).trans (Nat.mod_eq_of_lt (bits_lt _ _ _))
  · refine lead_stk (f := fun t => prtQuotaWrite t p v.toNat) hc hp (if_pos ?_) hc.quiet
    have e1 : hbmLimit (quiet s) p = hbmLimit s p := rfl
    have e2 : otherLines (quiet s) p = otherLines s p := rfl
    simp only [e1, e2, Bool.or_eq_true, decide_eq_true_eq]
    omega
  · have e : prtRateWrite (quiet s) p v.toNat = quotaSet (quiet s) p (xQuota (quiet s) p) (quotaLines (quiet s) p) (bits v.toNat 0 9) := by
      refine if_neg ?_
      simp only [hformed, Bool.or_eq_true, decide_eq_true_eq, Bool.not_true, Bool.false_eq_true, or_false]
      omega
    refine completes_stk (c := p < 16) (f := fun t => prtRateWrite t p v.toNat) hc hp (by rw [e]; exact (counted_quotaSet ..).calm hc.quiet) fun u hf => ?_
    rw [e] at hf
    have hg := (quotaSet_granted (quiet s) hp (xQuota (quiet s) p) (quotaLines (quiet s) p) (bits v.toNat 0 9)).follows hp hf
    exact ⟨fun sl hsl => (hg.slices sl hsl).rate.trans (hbits ..), hg.lines (quotaLines_lt s p)⟩
  · refine lead_stk (f := fun t => prtRateWrite t p v.toNat) hc hp (if_pos ?_) hc.quiet
    simp only [Bool.or_eq_true, decide_eq_true_eq]
    omega

end

section
variable {s t u v : State} {p : Nat}

/-! Commands that are refused, or meet one in progress (R444, R468). -/

theorem mask_free {n m : Nat} : ((List.range 16).any (fun u => bit m u && !bit n u)) = true ↔ ∃ i, i < 16 ∧ bit m i = true ∧ bit n i = false := by
  simp only [List.any_eq_true, List.mem_range, Bool.and_eq_true, Bool.not_eq_true']

theorem mask_zero (m : BitVec 16) : m.toNat = 0 ↔ m = 0 := by
  constructor
  · intro h
    exact BitVec.eq_of_toNat_eq h
  · rintro rfl
    rfl

theorem form_refused (hc : Calm s) (hp : p < 16) (hb : prtBusy s = false) (m : BitVec 16) (zf : Bool) {r : Nat} (hr : r < 8)
    (h : ((partGet s p).st ≠ 0 ∧ r = stateRefusal (partGet s p)) ∨ ((partGet s p).st = 0 ∧ m = 0 ∧ r = 4) ∨
      ((partGet s p).st = 0 ∧ m ≠ 0 ∧ (∃ i, i < 16 ∧ bit m.toNat i = true ∧ bit (unitsFree s) i = false) ∧ r = 2) ∨
      ((partGet s p).st = 0 ∧ m ≠ 0 ∧ ¬ (∃ i, i < 16 ∧ bit m.toNat i = true ∧ bit (unitsFree s) i = false) ∧
        blockRun s (popcount m.toNat) = none ∧ r = 3)) :
    Completes (.form p m zf) s (fun u => rdf u R.prtCmdStatus 8 4 = r ∧ prtBusy u = false ∧ u.hearths = s.hearths ∧ u.nextKey = s.nextKey) := by
  refine refuse_shows (f := fun t => formOp t p m.toNat zf) (op := 1) hc hp (by decide) hp hr ?_
  have hp' : ¬ 16 ≤ p := by omega
  have hb' : ¬ prtBusy (quiet s) = true := by
    rw [show prtBusy (quiet s) = prtBusy s from rfl, hb]
    decide
  have hx : partGet (quiet s) p = partGet s p := rfl
  have hu : unitsFree (quiet s) = unitsFree s := rfl
  have hrun : blockRun (quiet s) (popcount m.toNat) = blockRun s (popcount m.toNat) := rfl
  unfold formOp
  rw [if_neg hp', if_neg hb']
  dsimp only
  rw [hx, hu, hrun]
  rcases h with ⟨h1, rfl⟩ | ⟨h1, h2, rfl⟩ | ⟨h1, h2, h3, rfl⟩ | ⟨h1, h2, h3, h4, rfl⟩
  · rw [if_pos h1]
  · rw [if_neg (by simpa using h1), if_pos ((mask_zero m).2 h2)]
  · rw [if_neg (by simpa using h1), if_neg fun h => h2 ((mask_zero m).1 h), if_pos (mask_free.2 h3)]
  · rw [if_neg (by simpa using h1), if_neg fun h => h2 ((mask_zero m).1 h), if_neg fun h => h3 (mask_free.1 h), h4]

/-- A partition command that meets one in progress, or a partition that is FORMING or DISSOLVING. -/
structure WhileBusy (s u : State) (p : Nat) : Prop where
  busy : prtBusy u = true
  hearths : u.hearths = s.hearths
  keys : u.nextKey = s.nextKey
  part : { partGet u p with over_ := false } = { partGet s p with over_ := false }
  result : rdf u R.prtCmdStatus 8 4 = if (partGet s p).st = 1 ∨ (partGet s p).st = 3 then 6 else rdf s R.prtCmdStatus 8 4

theorem prtWhileBusy_counted (s : State) (p : Nat) : Counted s (prtWhileBusy s p) prtRefusalRegs := by
  unfold prtWhileBusy
  split
  · exact ((counted_wrf ..).mono (by simp [prtRefusalRegs])).trans ((counted_prtErr ..).mono (by simp [prtRefusalRegs]))
  · exact .refl s _

theorem stateRefusal_busy (x : Part) : stateRefusal x = 6 ↔ x.st = 1 ∨ x.st = 3 := by
  unfold stateRefusal
  simp only [Bool.or_eq_true, decide_eq_true_eq]
  split
  · next h => simp [h]
  · next h => simp [h]

theorem prtWhileBusy_status (s : State) (p : Nat) : prtBusy (prtWhileBusy s p) = prtBusy s ∧
    rdf (prtWhileBusy s p) R.prtCmdStatus 8 4 = if (partGet s p).st = 1 ∨ (partGet s p).st = 3 then 6 else rdf s R.prtCmdStatus 8 4 := by
  unfold prtWhileBusy
  by_cases h : stateRefusal (partGet s p) = 6
  · have e := (counted_prtErr (wrf s R.prtCmdStatus 8 4 6) 1 p 6 0).regs _ prtCmdStatus_free.2
    rw [if_pos h, if_pos ((stateRefusal_busy _).1 h)]
    refine ⟨?_, ?_⟩
    · rw [prtBusy, e, wrf, rd_wr_same, bit_setBits_other _ _ (by omega)]
      rfl
    · rw [rdf, e, wrf, rd_wr_same, bits_setBits_same]
      rfl
  · rw [if_neg h, if_neg fun hx => h ((stateRefusal_busy _).2 hx)]
    exact ⟨rfl, rfl⟩

theorem busy_meets {f : State → State} (hc : Calm s) (hp : p < 16) (hb : prtBusy s = true) (e : f (quiet s) = prtWhileBusy (quiet s) p) :
    ∃ u, actStk (only (p < 16) f) s = .next u ∧ WhileBusy s u p := by
  have hk := prtWhileBusy_counted (quiet s) p
  refine completes_stk hc hp (by rw [e]; exact hk.calm hc.quiet) fun u hf => ?_
  rw [e] at hf
  have hst : rd u R.prtCmdStatus = rd (prtWhileBusy (quiet s) p) R.prtCmdStatus := hf.regs _ prtCmdStatus_free.1
  obtain ⟨h1, h2⟩ := prtWhileBusy_status (quiet s) p
  refine ⟨?_, ?_, ?_, ?_, ?_⟩
  · rw [prtBusy, hst]
    exact h1.trans hb
  · rw [hf.eq]
    dsimp only
    rw [hk.eq]
    rfl
  · rw [hf.eq]
    dsimp only
    rw [hk.eq]
    rfl
  · have e1 := hf.parts p
    rw [hk.part] at e1
    exact e1
  · rw [rdf, hst]
    exact h2

theorem commands_busy (hc : Calm s) (hp : p < 16) (hb : prtBusy s = true) (m : BitVec 16) (zf : Bool) :
    ∀ i ∈ [Instr.form p m zf, .grow p m, .shrink p m, .dissolve p], Completes i s (fun u => WhileBusy s u p) := by
  have hp' : ¬ 16 ≤ p := by omega
  have hb' : prtBusy (quiet s) = true := hb
  intro i hi
  simp only [List.mem_cons, List.not_mem_nil, or_false] at hi
  rcases hi with rfl | rfl | rfl | rfl
  · exact busy_meets (f := fun t => formOp t p m.toNat zf) hc hp hb ((if_neg hp').trans (if_pos hb'))
  · exact busy_meets (f := fun t => growOp t p m.toNat) hc hp hb ((if_neg hp').trans (if_pos hb'))
  · exact busy_meets (f := fun t => shrinkOp t p m.toNat) hc hp hb ((if_neg hp').trans (if_pos hb'))
  · exact busy_meets (f := fun t => dissolveOp t p) hc hp hb ((if_neg hp').trans (if_pos hb'))

/-! A command in progress ends (R441, R444). -/

theorem prtDone_formed (hc : Calm s) (hp : p < 16) (hb : prtBusy s = true) (hpart : rdf s R.prtCmdStatus 4 4 = p) (hop : rdf s R.prtCmdStatus 1 3 = 1) :
    Completes .prtCmdDone s (fun u => (partGet u p).st = 2 ∧ prtBusy u = false ∧ rdf u R.prtCmdStatus 8 4 = 0) := by
  have e : prtCmdDone (quiet s) = partMod (prtStat (quiet s) false 1 p 0) p (fun x => { x with st := 2 }) := by
    have hop' : rdf (quiet s) R.prtCmdStatus 1 3 = 1 := hop
    have hpart' : rdf (quiet s) R.prtCmdStatus 4 4 = p := hpart
    unfold prtCmdDone
    rw [if_neg (by rw [show prtBusy (quiet s) = prtBusy s from rfl, hb]; decide)]
    dsimp only
    rw [hop', hpart', if_pos rfl]
  have hcalm : Calm (prtStat (quiet s) false 1 p 0) := (counted_prtStat ..).calm hc.quiet
  refine completes_stkAll (f := prtCmdDone) hc (by rw [e]; exact hcalm.partMod (hcalm.parts p)) fun u hf => ?_
  rw [e] at hf
  have hs := ((prtStat_shows (quiet s) false (op := 1) (p := p) (r := 0) (by decide) hp (by decide)).congr (t :=
    partMod (prtStat (quiet s) false 1 p 0) p (fun x => { x with st := 2 })) rfl).follows hf
  refine ⟨?_, hs.busy, hs.result⟩
  have e1 := congrArg Part.st (hf.parts p)
  rw [partGet_partMod_same] at e1
  exact e1

/-- The scrubs of a DISSOLVE end. -/
structure Scrubbed (s t : State) : Prop where
  eq : t = { s with hearths := t.hearths, slices := t.slices }

theorem Scrubbed.refl (s : State) : Scrubbed s s := ⟨rfl⟩
theorem Scrubbed.trans (h : Scrubbed s t) (k : Scrubbed t u) : Scrubbed s u := ⟨by
  have e := k.eq
  rw [h.eq] at e
  exact e⟩
theorem Scrubbed.foldl {α : Type} {f : State → α → State} (hf : ∀ a w, Scrubbed w (f w a)) (l : List α) (s : State) : Scrubbed s (l.foldl f s) := by
  induction l generalizing s with
  | nil => exact .refl s
  | cons a l ih => exact (hf a s).trans (ih (f s a))
theorem Scrubbed.calm (h : Scrubbed s t) (hc : Calm s) : Calm t := by
  rw [h.eq]
  exact hc.of rfl rfl rfl rfl rfl rfl rfl

theorem scrubbed_scrubsEnd (s : State) (p : Nat) : Scrubbed s (scrubsEnd s p) := by
  have h1 : Scrubbed s ((unitHearths (partGet s p).units).foldl spdScrubDone s) := .foldl (fun _ _ => ⟨rfl⟩) _ s
  exact h1.trans (.foldl (fun _ _ => ⟨rfl⟩) _ _)

/-- A partition after DISSOLVE. -/
def dissolved (x : Part) : Part := { x with st := 0, units := 0, leaving := 0, lo := 0, blks := 0, zeroed := false, over_ := false }

/-- The registers of quotas lie in the slices and in the partitions' own windows. -/
theorem quotaRegs_addr (hp : p < 16) {r : Reg} (hr : r ∈ quotaRegs p) : r.addr < 0x2000000 ∨ 0x5001008 ≤ r.addr := by
  rcases List.mem_append.1 hr with hr | hr
  · obtain ⟨sl, hsl, hm⟩ := List.mem_flatMap.1 hr
    have hlt : sl < 4 := by
      simp only [List.mem_cons, List.not_mem_nil, or_false] at hsl
      omega
    obtain ⟨h1, h2⟩ := slReg_lt hlt hp
    simp only [slRegs, List.mem_cons, List.not_mem_nil, or_false] at hm
    rcases hm with rfl | rfl
    exacts [.inl h1, .inl h2]
  · have hge : 0x5001008 ≤ (R.prtQuotaP p).addr ∧ 0x5001008 ≤ (R.prtRateP p).addr ∧ 0x5001008 ≤ (R.xltFrames p).addr := by
      simp only [R.prtQuotaP, R.prtRateP, R.xltFrames, blkBase]
      omega
    obtain ⟨h1, h2, h3⟩ := hge
    simp only [List.mem_cons, List.not_mem_nil, or_false] at hr
    rcases hr with rfl | rfl | rfl
    exacts [.inr h1, .inr h2, .inr h3]

theorem notQuota (hp : p < 16) {a : Nat} (h1 : 0x2000000 ≤ a) (h2 : a < 0x5001008) : a ∉ (quotaRegs p).map Reg.addr := fun hm => by
  obtain ⟨r, hr, rfl⟩ := List.mem_map.1 hm
  rcases quotaRegs_addr hp hr with h | h
  · omega
  · omega

theorem prtCmdStatus_quota (hp : p < 16) : R.prtCmdStatus.addr ∉ (quotaRegs p).map Reg.addr := notQuota hp (by decide) (by decide)

theorem prtDone_dissolved (hc : Calm s) (hp : p < 16) (hb : prtBusy s = true) (hpart : rdf s R.prtCmdStatus 4 4 = p)
    (hop : rdf s R.prtCmdStatus 1 3 = 4) : Completes .prtCmdDone s (fun u => (partGet u p).st = 0 ∧ (partGet u p).units = 0 ∧ (partGet u p).blks = 0 ∧
      quotaLines u p = 0 ∧ prtBusy u = false) := by
  have e : prtCmdDone (quiet s) = quotaSet (partMod (scrubsEnd (prtStat (quiet s) false 4 p 0) p) p dissolved) p 0 0 0 := by
    have hop' : rdf (quiet s) R.prtCmdStatus 1 3 = 4 := hop
    have hpart' : rdf (quiet s) R.prtCmdStatus 4 4 = p := hpart
    unfold prtCmdDone
    rw [if_neg (by rw [show prtBusy (quiet s) = prtBusy s from rfl, hb]; decide)]
    dsimp only
    rw [hop', hpart', if_neg (by decide)]
    rfl
  have hcalm : Calm (prtStat (quiet s) false 4 p 0) := (counted_prtStat ..).calm hc.quiet
  have hshows := prtStat_shows (quiet s) false (op := 4) (p := p) (r := 0) (by decide) hp (by decide)
  have hscrub := scrubbed_scrubsEnd (prtStat (quiet s) false 4 p 0) p
  have hs : Shows (scrubsEnd (prtStat (quiet s) false 4 p 0) p) false 0 := hshows.congr (by rw [hscrub.eq]; rfl)
  have hcs := hscrub.calm hcalm
  generalize scrubsEnd (prtStat (quiet s) false 4 p 0) p = w at e hs hcs
  have hcm : Calm (partMod w p dissolved) := hcs.partMod ⟨rfl, (hcs.parts p).2⟩
  have hk := counted_quotaSet (partMod w p dissolved) p 0 0 0
  have hg := quotaSet_granted (partMod w p dissolved) hp 0 0 0
  refine completes_stkAll (f := prtCmdDone) hc (by rw [e]; exact hk.calm hcm) fun u hf => ?_
  rw [e] at hf
  have hpu := hf.parts p
  rw [hk.part, partGet_partMod_same] at hpu
  have hsu := (hs.congr (t := quotaSet (partMod w p dissolved) p 0 0 0) (hk.regs _ ?_)).follows hf
  · exact ⟨congrArg Part.st hpu, congrArg Part.units hpu, congrArg Part.blks hpu, (hg.follows hp hf).lines (by decide), hsu.busy⟩
  · exact prtCmdStatus_quota hp

end

section
variable {s t u v : State} {p : Nat}

/-! Hearths join a partition (R441, R442). -/

/-- From `s` to `t` hearths change their partitions. -/
structure Moves (s t : State) : Prop where
  eq : t = { s with hearths := t.hearths, graphs := t.graphs, walks := t.walks, ipfix := t.ipfix }

theorem Moves.refl (s : State) : Moves s s := ⟨rfl⟩
theorem Moves.trans (h : Moves s t) (k : Moves t u) : Moves s u := ⟨by
  have e := k.eq
  rw [h.eq] at e
  exact e⟩
theorem Moves.foldl {α : Type} {f : State → α → State} (hf : ∀ a w, Moves w (f w a)) (l : List α) (s : State) : Moves s (l.foldl f s) := by
  induction l generalizing s with
  | nil => exact .refl s
  | cons a l ih => exact (hf a s).trans (ih (f s a))
theorem Moves.calm (h : Moves s t) (hc : Calm s) : Calm t := by
  rw [h.eq]
  exact hc.of rfl rfl rfl rfl rfl rfl rfl
theorem Moves.rd (h : Moves s t) (r : Reg) : rd t r = rd s r := by rw [h.eq]; rfl
theorem Moves.part (h : Moves s t) (q : Nat) : partGet t q = partGet s q := by rw [h.eq]; rfl

theorem moves_sampled (h : Sampled s t) : Moves s t := ⟨by
  have e : t = _ := h
  generalize t.ipfix = i at e
  subst e
  rfl⟩

theorem moves_hearthMoves (s : State) (h : Nat) (q : Option Nat) : Moves s (hearthMoves s h q) := ⟨rfl⟩

/-- A hearth after it changes its partition. -/
def movedTo (q : Option Nat) (x : Hearth) : Hearth := { x with part := q, leaving := false, stride := [], tlb := [], walks := [] }

theorem movedTo_scrub (q : Option Nat) (x : Hearth) : (movedTo q x).spd.scrub = x.spd.scrub := rfl

theorem hget_hearthMoves_same (s : State) (h : Nat) (q : Option Nat) : hget (hearthMoves s h q) h = movedTo q (hget s h) := hget_hmod_same ..
theorem hget_hearthMoves_other {h k : Nat} (s : State) (hk : k ≠ h) (q : Option Nat) : hget (hearthMoves s h q) k = hget s k := hget_hmod_other _ hk ..

theorem hget_hearthSample (s : State) (h k : Nat) : hget (hearthSample s h) k = hget s k := (records_hearthSample s h []).hget k

/-- Hearth `h` joins, unless it is out of service. -/
def joinStep (p : Nat) (t : State) (h : Nat) : State := if (hget t h).oos then t else hearthMoves (hearthSample t h) h (some p)

theorem moves_joinStep (p : Nat) (t : State) (h : Nat) : Moves t (joinStep p t h) := by
  unfold joinStep
  split
  · exact .refl t
  · exact (moves_sampled (sampled_sampleAll ..)).trans (moves_hearthMoves ..)

theorem joinStep_other {h k : Nat} (p : Nat) (t : State) (hk : k ≠ h) : hget (joinStep p t h) k = hget t k := by
  unfold joinStep
  split
  · rfl
  · rw [hget_hearthMoves_other _ hk, hget_hearthSample]

theorem joinStep_same (p : Nat) (t : State) (h : Nat) : (hget (joinStep p t h) h).oos = (hget t h).oos ∧
    ((hget t h).oos = false → (hget (joinStep p t h) h).part = some p) := by
  unfold joinStep
  split
  · next ho => exact ⟨rfl, fun hf => absurd (ho.symm.trans hf) (by decide)⟩
  · rw [hget_hearthMoves_same, hget_hearthSample]
    exact ⟨rfl, fun _ => rfl⟩

theorem joins_hearths (p : Nat) (l : List Nat) {h : Nat} : ∀ s, (hget s h).oos = false → (h ∈ l ∨ (hget s h).part = some p) →
    (hget (l.foldl (joinStep p) s) h).part = some p := by
  induction l with
  | nil =>
    intro s _ h
    rcases h with h | h
    · exact absurd h (by simp)
    · exact h
  | cons a l ih =>
    intro s ho hm
    by_cases ha : h = a
    · subst ha
      obtain ⟨h1, h2⟩ := joinStep_same p s h
      exact ih _ (h1.trans ho) (.inr (h2 ho))
    · have e := joinStep_other p s ha
      refine ih _ (by rw [e]; exact ho) ?_
      rw [e]
      exact hm.imp_left fun hm => (List.mem_cons.1 hm).resolve_left ha

theorem hearthsJoin_joins (s : State) (p mask : Nat) : Moves s (hearthsJoin s p mask) ∧
    ∀ h ∈ unitHearths mask, (hget s h).oos = false → (hget (hearthsJoin s p mask) h).part = some p :=
  ⟨.foldl (fun h w => moves_joinStep p w h) _ s, fun _ hm ho => joins_hearths p _ s ho (.inl hm)⟩

/-! GROW (R442). -/

theorem otherLines_congr (h : ∀ q, q < 16 → q ≠ p → rd t (R.chmPartQuotaP 0 q) = rd s (R.chmPartQuotaP 0 q)) : otherLines t p = otherLines s p := by
  unfold otherLines
  refine congrArg List.sum (List.map_congr_left fun q hq => ?_)
  obtain ⟨h1, h2⟩ := List.mem_filter.1 hq
  rw [quotaLines, quotaLines, chmQuota, chmQuota, h q (List.mem_range.1 h1) (by simpa using h2)]

theorem min_lines (a b : Nat) : min a (983040 - b) < 2 ^ 20 := by omega

theorem Granted.stat {hbm lines weight : Nat} {w j : State} (h : Granted w p hbm lines weight) (hp : p < 16) (hmv : Moves w j) (b : Bool) (op q r : Nat) :
    Granted (prtStat j b op q r) p hbm lines weight := by
  have hks := counted_prtStat j b op q r
  have hno : ∀ a, a ∈ [R.prtCmdStatus].map Reg.addr → a = R.prtCmdStatus.addr := fun a ha => List.mem_singleton.1 ha
  have hst : 0x2000000 ≤ R.prtCmdStatus.addr ∧ R.prtCmdStatus.addr < 0x200000000 := by decide
  refine (h.congr (hmv.rd _) fun sl _ => ⟨hmv.rd _, hmv.rd _⟩).congr (hks.regs _ fun hm => ?_) fun sl hsl => ⟨hks.regs _ fun hm => ?_, hks.regs _ fun hm => ?_⟩
  · have h1 := hno _ hm
    have := (prtReg_ge p).2.2
    omega
  · have h1 := hno _ hm
    have := (slReg_lt hsl hp).1
    omega
  · have h1 := hno _ hm
    have := (slReg_lt hsl hp).2
    omega

/-- Units join a partition, whose hearths follow; the command has ended. -/
theorem joins_completes {f : State → State} {w : State} {mask hbm lines weight op : Nat} {b : Bool} (hc : Calm s) (hp : p < 16)
    (e : f (quiet s) = prtStat (hearthsJoin w p mask) b op p 0) (hcalm : Calm (f (quiet s))) (hop : op < 8) (hg : Granted w p hbm lines weight)
    (hx : w.hearths = s.hearths) (hl : lines < 2 ^ 20) {P : State → Prop}
    (hP : ∀ u, { partGet u p with over_ := false } = { partGet w p with over_ := false } → u.nextKey = w.nextKey → Shows u b 0 →
      (∀ h ∈ unitHearths mask, (hget s h).oos = false → (hget u h).part = some p) → xQuota u p = hbm % 2 ^ 24 → quotaLines u p = lines → P u) :
    ∃ u, actStk (only (p < 16) f) s = .next u ∧ P u := by
  obtain ⟨hmv, hj⟩ := hearthsJoin_joins w p mask
  have hks := counted_prtStat (hearthsJoin w p mask) b op p 0
  have hs := prtStat_shows (hearthsJoin w p mask) b (op := op) (r := 0) hop hp (by decide)
  have hgs := hg.stat hp hmv b op p 0
  refine completes_stk hc hp hcalm fun u hf => ?_
  rw [e] at hf
  have hgu := hgs.follows hp hf
  refine hP u ?_ ?_ (hs.follows hf) (fun h hm ho => ?_) hgu.hbm (hgu.lines hl)
  · rw [hf.parts p, hks.part, hmv.part]
  · rw [hf.eq]
    dsimp only
    rw [hks.eq]
    dsimp only
    rw [hmv.eq]
  · have e2 : hget (prtStat (hearthsJoin w p mask) b op p 0) h = hget (hearthsJoin w p mask) h := rfl
    rw [hf.hget h, e2]
    exact hj h hm (by rw [hget_congr hx]; exact ho)

/-- A partition with the units of `mask` too. -/
def grown (mask : Nat) (x : Part) : Part := { x with units := x.units + mask }

/-- What GROW writes before the hearths join. -/
def growSet (s : State) (p mask : Nat) : State :=
  quotaSet (partMod s p (grown mask)) p (xQuota s p) (min (quotaLines s p + 61440 * popcount mask) (983040 - otherLines s p))
    (min 256 (partRate s p + 16 * popcount mask))

theorem growOp_eq {m : BitVec 16} (hp : p < 16) (hb : prtBusy s = false) (hst : (partGet s p).st = 2) (hm : m ≠ 0)
    (hfree : ¬ ∃ i, i < 16 ∧ bit m.toNat i = true ∧ bit (unitsFree s) i = false) :
    growOp s p m.toNat = prtStat (hearthsJoin (growSet s p m.toNat) p m.toNat) false 2 p 0 := by
  have hp' : ¬ 16 ≤ p := by omega
  have hb' : ¬ prtBusy s = true := by
    rw [hb]
    decide
  have hx : ¬ (partGet s p).st ≠ 2 := by simpa using hst
  exact (if_neg hp').trans ((if_neg hb').trans ((if_neg hx).trans ((if_neg fun h => hm ((mask_zero m).1 h)).trans
    (if_neg fun h => hfree (mask_free.1 h)))))

theorem grow_adds {m : BitVec 16} (hc : Calm s) (hp : p < 16) (hb : prtBusy s = false) (hst : (partGet s p).st = 2) (hm : m ≠ 0)
    (hfree : ¬ ∃ i, i < 16 ∧ bit m.toNat i = true ∧ bit (unitsFree s) i = false) :
    Completes (.grow p m) s (fun u => (partGet u p).units = (partGet s p).units + m.toNat ∧ rdf u R.prtCmdStatus 8 4 = 0 ∧ prtBusy u = false ∧
      (∀ h ∈ unitHearths m.toNat, (hget s h).oos = false → (hget u h).part = some p) ∧ xQuota u p = xQuota s p % 2 ^ 24 ∧
      quotaLines u p = min (quotaLines s p + 61440 * popcount m.toNat) (983040 - otherLines s p)) := by
  have e := growOp_eq (s := quiet s) hp hb hst hm hfree
  have hcm : Calm (partMod (quiet s) p (grown m.toNat)) := hc.quiet.partMod (hc.parts p)
  have hk : Counted (partMod (quiet s) p (grown m.toNat)) (growSet (quiet s) p m.toNat) (quotaRegs p) := counted_quotaSet ..
  have hg := quotaSet_granted (partMod (quiet s) p (grown m.toNat)) hp (xQuota s p) (min (quotaLines s p + 61440 * popcount m.toNat) (983040 - otherLines s p))
    (min 256 (partRate s p + 16 * popcount m.toNat))
  have hpart := (hk.part p).trans (partGet_partMod_same ..)
  have hcalm : Calm (growOp (quiet s) p m.toNat) := by
    rw [e]
    exact (counted_prtStat ..).calm ((hearthsJoin_joins ..).1.calm (hk.calm hcm))
  refine joins_completes (f := fun t => growOp t p m.toNat) hc hp e hcalm (by decide) hg ?_ (min_lines ..)
    fun u hpu _ hsu hj hx hl => ⟨?_, hsu.result, hsu.busy, hj, hx, hl⟩
  · rw [hk.eq]
    rfl
  · have e1 := congrArg Part.units hpu
    rw [hpart] at e1
    exact e1

/-! HEARTH_LEAVE (R443). -/

theorem spdScrubbed {h : Nat} (hcur : (hget s h).cur = none) (hdrain : (hget s h).drain = none) : Moves s (spdScrub s h) ∧
    ∀ k, (hget (spdScrub s h) h).spd.scrub = true ∧ (k ≠ h → hget (spdScrub s h) k = hget s k) := by
  unfold spdScrub
  dsimp only
  rw [if_neg (by rw [hcur, hdrain]; decide)]
  have hput (x : Hearth) (hx : x.spd.scrub = true) (k : Nat) :
      (hget (hput s h x) h).spd.scrub = true ∧ (k ≠ h → hget (hput s h x) k = hget s k) := by
    rw [hget_hput_same]
    exact ⟨hx, fun hk => hget_hput_other _ hk _⟩
  split
  · exact ⟨⟨rfl⟩, hput _ (by rfl)⟩
  · exact ⟨⟨rfl⟩, hput _ (by rfl)⟩

/-- A hearth that leaves its partition for its scrub. -/
theorem hearthLeave_leaves {h : Nat} (hc : Calm (partMod t p (fun x => { x with leaving := 0 }))) (hh : h < 256) (hl : (hget t h).leaving = true)
    (hcur : (hget t h).cur = none) (hdrain : (hget t h).drain = none) (hpart : (hget t h).part = some p) :
    Completes (.hearthLeave h) t (fun u => (hget u h).part = none ∧ (hget u h).leaving = false ∧ (hget u h).spd.scrub = true ∧
      ∀ k, k ≠ h → hget u k = hget t k) := by
  have hservice : t.stk.service = none := hc.service
  have e : hearthLeave (quiet t) h = hearthMoves (spdScrub (hearthSample (quiet t) h) h) h none := by
    have hg : ¬ ((decide (256 ≤ h) || !(hget t h).leaving || (hget t h).cur.isSome || (hget t h).drain.isSome || (hget t h).part.isNone ||
        decide (t.stk.service = some h)) = true) := by
      rw [hl, hcur, hdrain, hpart, hservice]
      simpa using hh
    exact if_neg hg
  obtain ⟨hx1, hx2⟩ := spdScrubbed (s := hearthSample (quiet t) h) (h := h) (by rw [hget_hearthSample]; exact hcur) (by rw [hget_hearthSample]; exact hdrain)
  have hmv := ((moves_sampled (sampled_sampleAll (quiet t) _)).trans hx1).trans (moves_hearthMoves (spdScrub (hearthSample (quiet t) h) h) h none)
  have hother (k : Nat) (hk : k ≠ h) : hget (hearthMoves (spdScrub (hearthSample (quiet t) h) h) h none) k = hget t k := by
    rw [hget_hearthMoves_other _ hk, (hx2 k).2 hk, hget_hearthSample]
    rfl
  have hown : hget (hearthMoves (spdScrub (hearthSample (quiet t) h) h) h none) h = movedTo none (hget (spdScrub (hearthSample (quiet t) h) h) h) :=
    hget_hearthMoves_same ..
  have hscrub := (hx2 h).1
  have hstill : Still (hearthMoves (spdScrub (hearthSample (quiet t) h) h) h none) := by
    rw [hmv.eq]
    exact ⟨hc.run, hc.here, rfl, hc.aborts, hc.faults, hc.susp, hc.service, hc.warmQ, hc.unl⟩
  have hsweep : NoSweep (hearthMoves (spdScrub (hearthSample (quiet t) h) h) h none) := fun q => by
    have := hc.noSweep q
    rw [partGet_partMod] at this
    rw [hmv.part]
    split at this
    · next hq => subst hq; exact this
    · exact this
  obtain ⟨w, hw, -, hk⟩ := ends_still t hstill hsweep
  have hget (k : Nat) : Machine.hget { w with pending := t.pending } k = Machine.hget (hearthMoves (spdScrub (hearthSample (quiet t) h) h) h none) k :=
    hget_congr (by rw [hk.eq]) k
  refine ⟨{ w with pending := t.pending }, ?_, ?_, ?_, ?_, fun k hk => ?_⟩
  · show act (only (h < 256) (hearthLeave · h)) t = _
    rw [act, if_pos (show t.stk.phase = .run from hc.run), only, if_pos hh, e]
    exact hw
  · rw [hget, hown]
    rfl
  · rw [hget, hown]
    rfl
  · rw [hget, hown, movedTo_scrub]
    exact hscrub
  · rw [hget, hother k hk]

end

section
variable {s t u v : State} {p : Nat}

/-! SHRINK (R443). -/

theorem sum_bits (m n : Nat) : ((List.range n).map (fun u => if bit m u then 2 ^ u else 0)).sum = m % 2 ^ n := by
  induction n with
  | zero => simp [Nat.mod_one]
  | succ n ih =>
    rw [List.range_succ, List.map_append, List.sum_append, ih, Nat.mod_pow_succ]
    simp only [List.map_cons, List.map_nil, List.sum_cons, List.sum_nil, Nat.add_zero]
    congr 1
    rw [bit_eq_testBit, Nat.testBit_eq_decide_div_mod_eq]
    have := Nat.mod_two_eq_zero_or_one (m / 2 ^ n)
    rcases this with h | h <;> simp [h]

theorem maskMinus_zero (m : Nat) : maskMinus m 0 = m % 2 ^ 16 := by
  rw [← sum_bits, maskMinus]
  simp only [bit_eq_testBit, Nat.zero_testBit, Bool.not_false, Bool.and_true]

theorem maskMinus_mod (a b : Nat) : maskMinus (a % 2 ^ 16) b = maskMinus a b := by
  unfold maskMinus
  refine congrArg List.sum (List.map_congr_left fun u hu => ?_)
  have hlt := List.mem_range.1 hu
  rw [bit_eq_testBit, bit_eq_testBit a, Nat.testBit_mod_two_pow, decide_eq_true hlt, Bool.true_and]

/-- A hearth of a unit that shrinks away is marked leaving, and no task stays bound to it. -/
def shrinkStep (t : State) (h : Nat) : State := unbind (hmod t h (fun y => { y with leaving := true })) h

/-- From `s` to `t` hearths are marked leaving, those of `l` among them. -/
structure Marks (l : List Nat) (s t : State) : Prop where
  kept : Recovers s t []
  due : t.dueHrt = s.dueHrt
  part : ∀ k, (hget t k).part = (hget s k).part
  scrub : ∀ k, (hget s k).leaving = true → (hget t k).leaving = true
  next : ∀ k, (hget s k).next = none → (hget t k).next = none
  done : ∀ k ∈ l, (hget t k).leaving = true ∧ (hget t k).next = none

theorem shrinkStep_marks (s : State) (h : Nat) : Marks [h] s (shrinkStep s h) := by
  have hu := leaves_unbind (hmod s h (fun y => { y with leaving := true })) h
  have hd := (dueKept_unbind (hmod s h (fun y => { y with leaving := true })) h).faults
  have hn := unbind_next (hmod s h (fun y => { y with leaving := true })) h
  have hx (k : Nat) : (hget (hmod s h (fun y => { y with leaving := true })) k).part = (hget s k).part ∧
      ((hget s k).leaving = true → (hget (hmod s h (fun y => { y with leaving := true })) k).leaving = true) ∧
      (hget (hmod s h (fun y => { y with leaving := true })) k).next = (hget s k).next := by
    by_cases hk : k = h
    · subst hk
      rw [hget_hmod_same]
      exact ⟨rfl, fun _ => rfl, rfl⟩
    · rw [hget_hmod_other _ hk]
      exact ⟨rfl, id, rfl⟩
  have hown : (hget (hmod s h (fun y => { y with leaving := true })) h).leaving = true := by rw [hget_hmod_same]
  have hm : Recovers s (hmod s h (fun y => { y with leaving := true })) [] := recovers_hmod ..
  have hdm : (hmod s h (fun y => { y with leaving := true })).dueHrt = s.dueHrt := rfl
  unfold shrinkStep
  generalize hmod s h (fun y => { y with leaving := true }) = w at *
  refine ⟨hm.trans (hu.recovers []), hd.trans hdm, fun k => (hu.hearth k).part.trans (hx k).1, fun k hk => (hu.hearth k).leaving.trans ((hx k).2.1 hk),
    fun k hk => ?_, fun k hk => ?_⟩
  · rcases (hu.hearth k).next with e | e
    exacts [e.trans ((hx k).2.2.trans hk), e]
  · obtain rfl := List.mem_singleton.1 hk
    exact ⟨(hu.hearth k).leaving.trans hown, hn⟩

theorem marks_fold (l : List Nat) : ∀ s, Marks l s (l.foldl shrinkStep s) := by
  induction l with
  | nil => exact fun s => ⟨.refl s [], rfl, fun _ => rfl, fun _ h => h, fun _ h => h, fun _ h => absurd h (by simp)⟩
  | cons a l ih =>
    intro s
    have h1 := shrinkStep_marks s a
    have h2 := ih (shrinkStep s a)
    refine ⟨h1.kept.trans h2.kept, h2.due.trans h1.due, fun k => (h2.part k).trans (h1.part k), fun k hk => h2.scrub k (h1.scrub k hk),
      fun k hk => h2.next k (h1.next k hk), fun k hk => ?_⟩
    rcases List.mem_cons.1 hk with rfl | hk
    · obtain ⟨hl, hn⟩ := h1.done k (by simp)
      exact ⟨h2.scrub k hl, h2.next k hn⟩
    · exact h2.done k hk

/-- Units that leave, of which each keeps a hearth in its partition. -/
def UnitsHeld (s : State) (p : Nat) : Prop := ∀ i, i < 16 → bit (partGet s p).leaving i = true → ∃ h ∈ unitHearths (2 ^ i), (hget s h).part = some p

theorem unitsLeave_held (h : UnitsHeld s p) : unitsLeave s p = s := by
  have hgone : (List.range 16).filter (fun u => bit (partGet s p).leaving u &&
      (unitHearths (2 ^ u)).all (fun h => (hget s h).part ≠ some p && !(hget s h).spd.scrub)) = [] := by
    refine List.filter_eq_nil_iff.2 fun u hu => ?_
    rw [Bool.and_eq_true, not_and]
    intro hb hall
    obtain ⟨k, hk, hp⟩ := h u (List.mem_range.1 hu) hb
    have := List.all_eq_true.1 hall k hk
    simp [hp] at this
  unfold unitsLeave
  dsimp only
  rw [hgone]
  split
  · rfl
  · rfl

theorem partStep_held (h : UnitsHeld s p) (q : Nat) : (partGet (partStep s q) p).leaving = (partGet s p).leaving ∧
    (partGet (partStep s q) p).units = (partGet s p).units ∧ (partStep s q).hearths = s.hearths := by
  have hover (w : State) : (partGet (overNote w q) p).leaving = (partGet w p).leaving ∧ (partGet (overNote w q) p).units = (partGet w p).units ∧
      (overNote w q).hearths = w.hearths := by
    have hm (o : Bool) : (partGet (partMod w q (fun x => { x with over_ := o })) p).leaving = (partGet w p).leaving ∧
        (partGet (partMod w q (fun x => { x with over_ := o })) p).units = (partGet w p).units := by
      rw [partGet_partMod]
      split
      · next e => subst e; exact ⟨rfl, rfl⟩
      · exact ⟨rfl, rfl⟩
    unfold overNote
    dsimp only
    split
    · exact ⟨rfl, rfl, rfl⟩
    · have hk := counted_prtErr (partMod w q (fun x => { x with over_ := hbmOver w q || chmOver w q })) 3 q 0 0
      split
      · rw [hk.part]
        exact ⟨(hm _).1, (hm _).2, by rw [hk.eq]; rfl⟩
      · exact ⟨(hm _).1, (hm _).2, rfl⟩
  unfold partStep
  obtain ⟨h1, h2, h3⟩ := hover (unitsLeave s q)
  by_cases hq : q = p
  · subst hq
    rw [unitsLeave_held h] at h1 h2 h3 ⊢
    exact ⟨h1, h2, h3⟩
  · have hu : partGet (unitsLeave s q) p = partGet s p ∧ (unitsLeave s q).hearths = s.hearths := by
      unfold unitsLeave
      dsimp only
      split
      · exact ⟨rfl, rfl⟩
      · split
        · exact ⟨rfl, rfl⟩
        · exact ⟨by rw [partGet_partMod, if_neg fun e => hq e.symm], rfl⟩
    rw [hu.1] at h1 h2
    exact ⟨h1, h2, h3.trans hu.2⟩

theorem partSteps_held (h : UnitsHeld s p) : (partGet (partSteps s) p).leaving = (partGet s p).leaving ∧
    (partGet (partSteps s) p).units = (partGet s p).units := by
  have step (l : List Nat) : ∀ w, UnitsHeld w p → (partGet (l.foldl partStep w) p).leaving = (partGet w p).leaving ∧
      (partGet (l.foldl partStep w) p).units = (partGet w p).units := by
    induction l with
    | nil => exact fun _ _ => ⟨rfl, rfl⟩
    | cons q l ih =>
      intro w hw
      obtain ⟨h1, h2, h3⟩ := partStep_held hw q
      have hw' : UnitsHeld (partStep w q) p := fun i hi hb => by
        rw [h1] at hb
        obtain ⟨k, hk, hp⟩ := hw i hi hb
        exact ⟨k, hk, by rw [hget_congr h3]; exact hp⟩
      obtain ⟨h4, h5⟩ := ih _ hw'
      exact ⟨h4.trans h1, h5.trans h2⟩
  exact step _ s h

/-- A partition of which the units of `mask` leave. -/
def shrunk (mask : Nat) (x : Part) : Part := { x with leaving := x.leaving + mask }

/-- What SHRINK writes before it marks the hearths. -/
def shrinkSet (s : State) (p mask : Nat) : State :=
  quotaSet (partMod s p (shrunk mask)) p (xQuota s p) (quotaLines s p - 61440 * popcount mask) (partRate s p - 16 * popcount mask)

def shrinkHearths (s : State) (p mask : Nat) : List Nat := (unitHearths mask).filter (fun h => (hget s h).part = some p)

theorem shrink_masks {m : BitVec 16} (hl : (partGet s p).leaving = 0) : maskMinus m.toNat (partGet s p).leaving = m.toNat ∧
    maskMinus (maskMinus (partGet s p).units (partGet s p).leaving) m.toNat = maskMinus (partGet s p).units m.toNat := by
  rw [hl, maskMinus_zero, maskMinus_zero, maskMinus_mod, Nat.mod_eq_of_lt m.isLt]
  exact ⟨rfl, rfl⟩

theorem shrinkOp_eq {m : BitVec 16} (hp : p < 16) (hb : prtBusy s = false) (hst : (partGet s p).st = 2) (hm : m ≠ 0) (hl : (partGet s p).leaving = 0)
    (hin : maskMinus m.toNat (partGet s p).units = 0) : shrinkOp s p m.toNat = if maskMinus (partGet s p).units m.toNat = 0 then prtRefuse s 3 p 5
      else prtStat ((shrinkHearths s p m.toNat).foldl shrinkStep (shrinkSet s p m.toNat)) false 3 p 0 := by
  have hp' : ¬ 16 ≤ p := by omega
  have hb' : ¬ prtBusy s = true := by
    rw [hb]
    decide
  have hx : ¬ (partGet s p).st ≠ 2 := by simpa using hst
  have hz : ¬ ((decide (m.toNat = 0) || decide (maskMinus m.toNat (partGet s p).units ≠ 0)) = true) := by
    have hm0 : m.toNat ≠ 0 := fun h => hm ((mask_zero m).1 h)
    simp [hm0, hin]
  obtain ⟨h1, h2⟩ := shrink_masks (m := m) hl
  unfold shrinkOp
  refine (if_neg hp').trans ((if_neg hb').trans ((if_neg hx).trans ((if_neg hz).trans ?_)))
  dsimp only
  rw [h1, h2]
  rfl

theorem shrink_refused {m : BitVec 16} (hc : Calm s) (hp : p < 16) (hb : prtBusy s = false) (hst : (partGet s p).st = 2) (hm : m ≠ 0)
    (hin : maskMinus m.toNat (partGet s p).units = 0) (hall : maskMinus (partGet s p).units m.toNat = 0) :
    Completes (.shrink p m) s (fun u => rdf u R.prtCmdStatus 8 4 = 5 ∧ u.hearths = s.hearths) := by
  obtain ⟨u, hu, h1, -, h2, -⟩ := refuse_shows (f := fun t => shrinkOp t p m.toNat) (c := p < 16) (op := 3) (r := 5) hc hp (by decide) hp (by decide)
    ((shrinkOp_eq (s := quiet s) hp hb hst hm (hc.parts p).1 hin).trans (if_pos hall))
  exact ⟨u, hu, h1, h2⟩

theorem Recovers.still {rs : List Reg} (h : Recovers s t rs) (hc : Still s) (hd : t.dueHrt = s.dueHrt) : Still t := by
  have hstk := h.stk
  refine ⟨?_, ?_, ?_, ?_, hd.trans hc.faults, ?_, ?_, ?_, ?_⟩
  · rw [hstk]; exact hc.run
  · rw [h.eq]; exact hc.here
  · rw [h.eq]; exact hc.free
  · rw [h.eq]; exact hc.aborts
  · rw [hstk]; exact hc.susp
  · rw [hstk]; exact hc.service
  · rw [hstk]; exact hc.warmQ
  · rw [h.eq]; exact hc.unl

/-- The device with hearths of the leaving units marked, before the command shows its result. -/
structure Shrinking (s t : State) (p mask lines : Nat) : Prop where
  still : Still t
  sweep : NoSweep t
  part : partGet t p = shrunk mask (partGet s p)
  held : ∀ k, (hget t k).part = (hget s k).part
  lines : quotaLines t p = lines
  done : ∀ h ∈ unitHearths mask, (hget s h).part = some p → (hget t h).leaving = true ∧ (hget t h).next = none

theorem Still.of_counted {rs : List Reg} (h : Still s) (hk : Counted s t rs) : Still t := by
  rw [hk.eq]
  exact ⟨h.run, h.here, h.free, h.aborts, h.faults, h.susp, h.service, h.warmQ, h.unl⟩

theorem shrinkSet_shrinks (hc : Calm s) (hp : p < 16) (mask : Nat) :
    Shrinking s ((shrinkHearths s p mask).foldl shrinkStep (shrinkSet s p mask)) p mask (quotaLines s p - 61440 * popcount mask) := by
  have hk : Counted (partMod s p (shrunk mask)) (shrinkSet s p mask) (quotaRegs p) := counted_quotaSet ..
  have hg : Granted (shrinkSet s p mask) p _ _ _ := quotaSet_granted (partMod s p (shrunk mask)) hp _ _ _
  have hstill : Still (partMod s p (shrunk mask)) :=
    ⟨hc.run, hc.here, hc.free, hc.aborts, hc.faults, hc.susp, hc.service, hc.warmQ, hc.unl⟩
  have hsweep (q : Nat) : (partGet (partMod s p (shrunk mask)) q).sweep = (partGet s q).sweep := by
    rw [partGet_partMod]
    split
    · next e => subst e; rfl
    · rfl
  have hm := marks_fold (shrinkHearths s p mask) (shrinkSet s p mask)
  have hparts (q : Nat) : partGet ((shrinkHearths s p mask).foldl shrinkStep (shrinkSet s p mask)) q = partGet (partMod s p (shrunk mask)) q := by
    rw [← hk.part q]
    exact partGet_congr (by rw [hm.kept.eq]) q
  have hget (k : Nat) : hget (shrinkSet s p mask) k = hget s k := hget_congr (by rw [hk.eq]; rfl) k
  refine ⟨hm.kept.still (hstill.of_counted hk) hm.due, fun q => ?_, ?_, fun k => (hm.part k).trans (by rw [hget]), ?_,
    fun h hh hpart => hm.done h (List.mem_filter.2 ⟨hh, by simpa using hpart⟩)⟩
  · rw [hparts, hsweep]
    exact hc.noSweep q
  · rw [hparts, partGet_partMod_same]
  · have hlow : (R.chmPartQuotaP 0 p).addr < 0x100000000 := by
      have := (slReg_lt (by decide : 0 < 4) hp).1
      omega
    have e : quotaLines ((shrinkHearths s p mask).foldl shrinkStep (shrinkSet s p mask)) p = quotaLines (shrinkSet s p mask) p :=
      congrArg (fun w => bits w 0 20) (hm.kept.regs _ hlow (by simp))
    rw [e]
    exact hg.lines (lt_of_le_of_lt (Nat.sub_le _ _) (quotaLines_lt s p))

theorem Shrinking.completes {f : State → State} {t : State} {mask lines : Nat} (hc : Calm s) (hp : p < 16) (h : Shrinking (quiet s) t p mask lines)
    (hl : (partGet s p).leaving = 0)
    (hheld : ∀ i, i < 16 → bit mask i = true → ∃ h ∈ unitHearths (2 ^ i), (hget s h).part = some p)
    (e : f (quiet s) = prtStat t false 3 p 0) : ∃ u, actStk (only (p < 16) f) s = .next u ∧ (partGet u p).leaving = mask ∧
      (partGet u p).units = (partGet s p).units ∧ rdf u R.prtCmdStatus 8 4 = 0 ∧ quotaLines u p = lines ∧
      ∀ h ∈ unitHearths mask, (hget s h).part = some p → (hget u h).leaving = true ∧ (hget u h).next = none := by
  have hks := counted_prtStat t false 3 p 0
  have hs := prtStat_shows t false (op := 3) (r := 0) (by decide) hp (by decide)
  have hquota : rd (prtStat t false 3 p 0) (R.chmPartQuotaP 0 p) = rd t (R.chmPartQuotaP 0 p) := hks.regs _ fun hm => by
    have h1 := List.mem_singleton.1 hm
    have h2 := (slReg_lt (by decide : 0 < 4) hp).1
    have h3 : 0x2000000 ≤ R.prtCmdStatus.addr := by decide
    omega
  have hpart : partGet (prtStat t false 3 p 0) p = shrunk mask (partGet s p) := (hks.part p).trans h.part
  have hleave : (partGet (prtStat t false 3 p 0) p).leaving = mask := by
    rw [hpart]
    exact (congrArg (· + mask) hl).trans (Nat.zero_add mask)
  obtain ⟨w, hw, hwe, hk⟩ := ends_still s (h.still.of_counted hks) fun q => by rw [hks.part]; exact h.sweep q
  have hunits : UnitsHeld (prtStat t false 3 p 0) p := fun i hi hb => by
    rw [hleave] at hb
    obtain ⟨k, hk, hkp⟩ := hheld i hi hb
    exact ⟨k, hk, (h.held k).trans hkp⟩
  obtain ⟨h1, h2⟩ := partSteps_held hunits
  rw [← hwe] at h1 h2
  refine ⟨{ w with pending := s.pending }, ?_, h1.trans hleave, h2.trans (by rw [hpart]; rfl), ?_, ?_, fun k hk' hkp => ?_⟩
  · rw [actStk, if_pos ⟨hc.run, hc.here⟩, only, if_pos hp, e]
    exact hw
  · exact (hs.congr (t := w) (hk.regs _ prtCmdStatus_free.1)).result
  · rw [← h.lines]
    exact congrArg (fun w => bits w 0 20) ((hk.regs _ (quota_note (by decide) hp).1).trans hquota)
  · have hget : hget { w with pending := s.pending } k = Machine.hget t k := hget_congr (by rw [hk.eq]; rfl) k
    rw [hget]
    exact h.done k hk' hkp

theorem shrink_marks {m : BitVec 16} (hc : Calm s) (hp : p < 16) (hb : prtBusy s = false) (hst : (partGet s p).st = 2) (hm : m ≠ 0)
    (hin : maskMinus m.toNat (partGet s p).units = 0) (hrest : maskMinus (partGet s p).units m.toNat ≠ 0)
    (hheld : ∀ i, i < 16 → bit m.toNat i = true → ∃ h ∈ unitHearths (2 ^ i), (hget s h).part = some p) :
    Completes (.shrink p m) s (fun u => (partGet u p).leaving = m.toNat ∧ (partGet u p).units = (partGet s p).units ∧ rdf u R.prtCmdStatus 8 4 = 0 ∧
      quotaLines u p = quotaLines s p - 61440 * popcount m.toNat ∧
      ∀ h ∈ unitHearths m.toNat, (hget s h).part = some p → (hget u h).leaving = true ∧ (hget u h).next = none) :=
  (shrinkSet_shrinks (s := quiet s) hc.quiet hp m.toNat).completes (f := fun t => shrinkOp t p m.toNat) hc hp (hc.parts p).1
    hheld ((shrinkOp_eq (s := quiet s) hp hb hst hm (hc.parts p).1 hin).trans (if_neg hrest))

end

section
variable {s t u v : State} {p : Nat}

/-! FORM (R441). -/

/-- The partitions, the hearths and the number of the next key are kept. -/
structure Base (s t : State) : Prop where
  parts : t.parts = s.parts
  hearths : t.hearths = s.hearths
  keys : t.nextKey = s.nextKey

theorem Base.refl (s : State) : Base s s := ⟨rfl, rfl, rfl⟩
theorem Base.trans (h : Base s t) (k : Base t u) : Base s u := ⟨k.parts.trans h.parts, k.hearths.trans h.hearths, k.keys.trans h.keys⟩
theorem Base.foldl {α : Type} {f : State → α → State} (hf : ∀ a w, Base w (f w a)) (l : List α) (s : State) : Base s (l.foldl f s) := by
  induction l generalizing s with
  | nil => exact .refl s
  | cons a l ih => exact (hf a s).trans (ih (f s a))

theorem AgentServed.base (h : AgentServed s t) : Base s t := by
  rw [h.eq]
  exact ⟨rfl, rfl, rfl⟩
theorem Counted.base {rs : List Reg} (h : Counted s t rs) : Base s t := by
  rw [h.eq]
  exact ⟨rfl, rfl, rfl⟩

theorem base_csrRange (s : State) (lo n : Nat) : Base s (csrRange s lo n) := ⟨rfl, rfl, rfl⟩
theorem base_wr (s : State) (r : Reg) (v : Nat) : Base s (wr s r v) := ⟨rfl, rfl, rfl⟩

theorem base_zeroFill (s : State) (key lo hi : Nat) : Base s (zeroFill s key lo hi) := by
  have hb (x : Hbm) : Base s { s with hbm := x } := ⟨rfl, rfl, rfl⟩
  have hf (w : State) (lo hi : Nat) : Base w (zeroFillFences w lo hi) := by
    refine .foldl (fun i w => ?_) _ w
    dsimp only
    split
    · exact (agentServed_fenceAccess ..).base
    · exact .refl w
  have hcnt (w : State) (lo hi : Nat) : Base w (zeroFillCount w lo hi) := by
    refine .foldl (fun k w => ?_) _ w
    dsimp only
    split
    · exact .refl w
    · exact (counted_bump ..).base
  exact ((hb _).trans (hf ..)).trans (hcnt ..)

theorem chmQuota_kept {q : Nat} (hq : q < 16) : ¬ MeterReg (R.chmPartQuotaP 0 q) := by
  simp only [MeterReg, R.chmPartQuotaP, blkBase]
  omega

/-- The state from which FORM starts: writes that still wait in a controller's queue are performed. -/
def formStart (s : State) : State := hbmFlush (if (List.range 20).all (fun k => stkServes s k) then s else hold s)

theorem formStart_kept (s : State) (p : Nat) : Base s (formStart s) ∧ otherLines (formStart s) p = otherLines s p := by
  have h1 : Base s (if (List.range 20).all (fun k => stkServes s k) then s else hold s) ∧
      AgentKeeps s (if (List.range 20).all (fun k => stkServes s k) then s else hold s) := by
    split
    · exact ⟨.refl s, .refl s⟩
    · exact ⟨⟨rfl, rfl, rfl⟩, agentKeeps_hold s⟩
  unfold formStart
  generalize (if (List.range 20).all (fun k => stkServes s k) then s else hold s) = w at h1
  have hflush : AgentKeeps w (hbmFlush w) := .foldl (fun e _ v => agentKeeps_hbmDrain v ..) w
  exact ⟨h1.1.trans (.foldl (fun e v => (agentServed_hbmDrain v ..).base) _ w), otherLines_congr fun q hq _ => (h1.2.trans hflush).kept _ (chmQuota_kept hq)⟩

/-- A partition that is FORMING. -/
def formingPart (s : State) (p mask blk n : Nat) (zf : Bool) : Part :=
  { Part.none_ with st := 1, key0 := 2 * s.nextKey, units := mask, lo := blk, blks := n, count := (partGet s p).count + 1, zeroed := zf,
                    fab0 := (partGet s p).fab0, fab1 := (partGet s p).fab1, used := (partGet s p).used, seqMem := (partGet s p).seqMem,
                    seqFab := (partGet s p).seqFab }

/-- What FORM writes before the hearths join. -/
structure Formed (s w : State) (p mask blk n : Nat) (zf : Bool) : Prop where
  part : partGet w p = formingPart s p mask blk n zf
  keys : w.nextKey = s.nextKey + 1
  hearths : w.hearths = s.hearths
  granted : ∃ hbm weight, Granted w p hbm (min (61440 * n) (983040 - otherLines s p)) weight

theorem formSteps_formed (s : State) (hp : p < 16) (mask blk n : Nat) (zf : Bool) :
    ∃ w, Formed s w p mask blk n zf ∧ formSteps s p mask blk n zf = hearthsJoin w p mask := by
  obtain ⟨hb, hl⟩ := formStart_kept s p
  have hpart : partGet (formStart s) p = partGet s p := partGet_congr hb.parts p
  unfold formSteps
  extract_lets s0 s' F lo hi ft key old y x s1 s2 s3 s4 s5 s6
  have hs' : s' = formStart s := rfl
  have hx : x = formingPart s p mask blk n zf := by
    have h1 : x = formingPart s' p mask blk n zf := rfl
    rw [h1, hs', formingPart, formingPart, hpart, hb.keys]
  have h1 : partGet s1 p = x ∧ s1.nextKey = s.nextKey + 1 ∧ s1.hearths = s.hearths := by
    refine ⟨tgetD_tput_same .., ?_, ?_⟩
    · show s'.nextKey + 1 = _
      rw [hs', hb.keys]
    · show s'.hearths = _
      rw [hs', hb.hearths]
  have hlines : otherLines s' p = otherLines s p := hl
  clear_value x s1
  have h6 : Base s1 s6 := by
    have h2 : Base s1 s2 := base_csrRange ..
    have h3 : Base s2 s3 := ((base_wr ..).trans (base_wr ..)).trans (base_wr ..)
    have h4 : Base s3 s4 := (base_zeroFill ..).trans (base_wr ..)
    have h5 : Base s4 s5 := .foldl (fun i w => (agentServed_frPut w hp ..).base) _ _
    have h6 : Base s5 s6 := .foldl (fun i w => (counted_wrf w ..).base) _ _
    exact (((h2.trans h3).trans h4).trans h5).trans h6
  clear_value s6
  have hk := counted_quotaSet s6 p (hi - lo - ft) (min (61440 * n) (983040 - otherLines s' p)) (16 * n)
  have hg := quotaSet_granted s6 hp (hi - lo - ft) (min (61440 * n) (983040 - otherLines s' p)) (16 * n)
  rw [hlines] at hg
  refine ⟨_, ⟨?_, ?_, ?_, _, _, hg⟩, by rw [hlines]⟩
  · rw [← hlines, hk.part, partGet_congr h6.parts, h1.1, hx]
  · rw [← hlines, hk.base.keys, h6.keys, h1.2.1]
  · rw [← hlines, hk.base.hearths, h6.hearths, h1.2.2]

theorem formOp_eq {m : BitVec 16} {b : Nat} (hp : p < 16) (hb : prtBusy s = false) (hst : (partGet s p).st = 0) (hm : m ≠ 0)
    (hfree : ¬ ∃ i, i < 16 ∧ bit m.toNat i = true ∧ bit (unitsFree s) i = false) (hrun : blockRun s (popcount m.toNat) = some b) (zf : Bool) :
    formOp s p m.toNat zf = prtStat (formSteps s p m.toNat b (popcount m.toNat) zf) true 1 p 0 := by
  have hp' : ¬ 16 ≤ p := by omega
  have hb' : ¬ prtBusy s = true := by
    rw [hb]
    decide
  have hx : ¬ (partGet s p).st ≠ 0 := by simpa using hst
  unfold formOp
  rw [if_neg hp', if_neg hb']
  dsimp only
  rw [if_neg hx, if_neg fun h => hm ((mask_zero m).1 h), if_neg fun h => hfree (mask_free.1 h), hrun]

theorem form_forms {m : BitVec 16} {b : Nat} {zf : Bool} (hc : Calm s) (hp : p < 16) (hb : prtBusy s = false) (hst : (partGet s p).st = 0) (hm : m ≠ 0)
    (hfree : ¬ ∃ i, i < 16 ∧ bit m.toNat i = true ∧ bit (unitsFree s) i = false) (hrun : blockRun s (popcount m.toNat) = some b)
    (hcalm : Calm (formOp (quiet s) p m.toNat zf)) : Completes (.form p m zf) s (fun u =>
      (partGet u p).st = 1 ∧ (partGet u p).units = m.toNat ∧ (partGet u p).lo = b ∧ (partGet u p).blks = popcount m.toNat ∧
      (partGet u p).key0 = 2 * s.nextKey ∧ u.nextKey = s.nextKey + 1 ∧ (partGet u p).count = (partGet s p).count + 1 ∧ prtBusy u = true ∧
      (∀ h ∈ unitHearths m.toNat, (hget s h).oos = false → (hget u h).part = some p) ∧
      quotaLines u p = min (61440 * popcount m.toNat) (983040 - otherLines s p)) := by
  obtain ⟨w, hw, e⟩ := formSteps_formed (quiet s) hp m.toNat b (popcount m.toNat) zf
  obtain ⟨hpart, hkeys, hhearths, hbm, weight, hg⟩ := hw
  refine joins_completes (f := fun t => formOp t p m.toNat zf) hc hp ((formOp_eq (s := quiet s) hp hb hst hm hfree hrun zf).trans (by rw [e]))
    hcalm (by decide) hg hhearths (min_lines ..) fun u hpu hk hsu hj _ hl => ?_
  rw [hpart] at hpu
  exact ⟨congrArg Part.st hpu, congrArg Part.units hpu, congrArg Part.lo hpu, congrArg Part.blks hpu, congrArg Part.key0 hpu, hk.trans hkeys,
    congrArg Part.count hpu, hsu.busy, hj, hl⟩

end

end Sys2Proof.Machine

/-!
SUPPORT and proofs for the dissolving of a partition (R444), and O47.
-/

namespace Sys2Proof.Machine

section
variable {s t u v : State} {p : Nat}

/-! DISSOLVE (R444). -/

/-- Hearths leave partitions: the partitions are kept, and no hearth joins one. -/
structure Empties (l : List Nat) (s t : State) : Prop where
  parts : t.parts = s.parts
  stays : ∀ k, (hget t k).part = (hget s k).part ∨ (hget t k).part = none
  done : ∀ k ∈ l, (hget t k).part = none

theorem Empties.trans {l m : List Nat} (h : Empties l s t) (k : Empties m t u) : Empties (l ++ m) s u where
  parts := k.parts.trans h.parts
  stays n := by
    rcases k.stays n with e | e
    · exact (h.stays n).imp e.trans e.trans
    · exact .inr e
  done n hn := by
    rcases List.mem_append.1 hn with hn | hn
    · rcases k.stays n with e | e
      exacts [e.trans (h.done n hn), e]
    · exact k.done n hn

theorem TasksLeave.empties (h : TasksLeave s t) : Empties [] s t :=
  ⟨by rw [h.eq], fun k => .inl (h.hearth k).part, fun _ hk => absurd hk (by simp)⟩

theorem Base.empties (h : Base s t) : Empties [] s t := ⟨h.parts, fun k => .inl (by rw [hget_congr h.hearths]), fun _ hk => absurd hk (by simp)⟩

theorem empties_spdScrub (s : State) (h : Nat) : Empties [] s (spdScrub s h) := by
  have hput (x : Hearth) (hx : x.part = (hget s h).part) (k : Nat) : (hget (hput s h x) k).part = (hget s k).part := by
    by_cases hk : k = h
    · subst hk
      rw [hget_hput_same, hx]
    · rw [hget_hput_other _ hk]
  unfold spdScrub
  dsimp only
  split
  · exact ⟨rfl, fun _ => .inl rfl, fun _ hk => absurd hk (by simp)⟩
  · split
    · exact ⟨rfl, fun k => .inl (hput _ (by rfl) k), fun _ hk => absurd hk (by simp)⟩
    · exact ⟨rfl, fun k => .inl (hput _ (by rfl) k), fun _ hk => absurd hk (by simp)⟩

theorem empties_moved (s : State) (h : Nat) (f : Hearth → Hearth) (hf : ∀ x, (f x).part = x.part) : Empties [h] s (hmod (hearthMoves s h none) h f) := by
  have hown : (hget (hmod (hearthMoves s h none) h f) h).part = none := by
    rw [hget_hmod_same, hf, hget_hearthMoves_same]
    rfl
  refine ⟨rfl, fun k => ?_, fun k hk => by rw [List.mem_singleton.1 hk]; exact hown⟩
  by_cases hk : k = h
  · exact .inr (hk ▸ hown)
  · rw [hget_hmod_other _ hk, hget_hearthMoves_other _ hk]
    exact .inl rfl

theorem empties_hearthDissolve (s : State) (h : Nat) : Empties [h] s (hearthDissolve s h) := by
  have h1 := leaves_unbind s h
  have h2 (w : State) (l : List Nat) : TasksLeave w (l.foldl (fun t own => hearthAbort t h own 14) w) := .foldl (fun own w => leaves_hearthAbort w h own 14) l w
  have h3 (w : State) : Base w (hearthSample w h) := by
    have e := records_hearthSample w h []
    exact ⟨by rw [e.kept.eq], e.hearths, by rw [e.kept.eq]⟩
  unfold hearthDissolve
  extract_lets s1 s2
  have h12 : TasksLeave s s2 := h1.trans (h2 ..)
  clear_value s2
  have h4 := (h12.empties.trans (h3 s2).empties).trans (empties_spdScrub (hearthSample s2 h) h)
  generalize spdScrub (hearthSample s2 h) h = w at h4 ⊢
  exact h4.trans (empties_moved w h (fun y => { y with reqs := [], resps := [], hints := [] }) fun _ => rfl)

theorem empties_fold (l : List Nat) : ∀ s, Empties l s (l.foldl hearthDissolve s) := by
  induction l with
  | nil => exact fun s => ⟨rfl, fun _ => .inl rfl, fun _ h => absurd h (by simp)⟩
  | cons a l ih =>
    intro s
    have h := (empties_hearthDissolve s a).trans (ih (hearthDissolve s a))
    rw [List.foldl_cons]
    exact h

theorem mem_partHearths {h : Nat} (hp : (hget s h).part = some p) : h ∈ partHearths s p := by
  have hmem {l : Tbl Hearth} (hl : (tgetD l h Hearth.fresh).part = some p) : h ∈ (l.filter (fun e => e.2.part = some p)).map (·.1) := by
    induction l with
    | nil => exact absurd hl (by simp [tgetD, tget, Hearth.fresh])
    | cons e l ih =>
      obtain ⟨k, x⟩ := e
      rw [tgetD, tget] at hl
      by_cases hk : k = h
      · rw [if_pos hk] at hl
        refine List.mem_map.2 ⟨(k, x), List.mem_filter.2 ⟨by simp, ?_⟩, hk⟩
        simpa using hl
      · rw [if_neg hk] at hl
        obtain ⟨e, he, hk⟩ := List.mem_map.1 (ih hl)
        obtain ⟨h1, h2⟩ := List.mem_filter.1 he
        exact List.mem_map.2 ⟨e, List.mem_filter.2 ⟨.tail _ h1, h2⟩, hk⟩
  exact hmem hp

/-- No hearth is in the partition. -/
def Deserted (s : State) (p : Nat) : Prop := ∀ h, (hget s h).part ≠ some p

theorem hearths_desert (s : State) (p : Nat) : Deserted ((partHearths s p).foldl hearthDissolve s) p := fun h hp => by
  have he := empties_fold (partHearths s p) s
  rcases he.stays h with e | e
  · have := he.done h (mem_partHearths (e.symm.trans hp))
    rw [this] at hp
    exact absurd hp (by simp)
  · rw [e] at hp
    exact absurd hp (by simp)

theorem base_slMod (s : State) (sl : Nat) (f : Slice → Slice) : Base s (slMod s sl f) := ⟨rfl, rfl, rfl⟩

theorem base_colDissolve (s : State) (p : Nat) : Base s (colDissolve s p) := by
  have hdig (w : State) (c e : Nat) (k : Nat × Nat × Nat) (b : List Byte) : Base w (digPut w p c e k b) := by
    unfold digPut
    extract_lets i w1 w2
    have h1 : Base w w1 := base_wr ..
    have h2 : Base w1 w2 := ((base_wr ..).trans (base_wr ..)).trans (base_wr ..)
    clear_value w1 w2
    exact (h1.trans h2).trans (base_wr ..)
  have hend (w : State) (c : Nat) (e : ColEnt) : Base w (digEnd w p c e) := by
    refine .foldl (fun k w => ?_) _ w
    exact hdig ..
  have hunl (w : State) : Base w (unloadNow w p) := by
    unfold unloadNow
    extract_lets s1
    have h1 : Base w s1 := ⟨rfl, rfl, rfl⟩
    exact h1.trans (.foldl (fun sl w => base_slMod ..) _ _)
  have hends (l : List (Nat × ColEnt)) : Base s (l.foldl (fun t e => digEnd t p (e.1 % 256) e.2) s) := by
    refine .foldl (fun e w => ?_) l s
    exact hend w (e.1 % 256) e.2
  unfold colDissolve
  exact (hends _).trans (hunl _)

theorem base_qpReset (s : State) (q : Nat) : Base s (qpReset s q) := by
  unfold qpReset
  split
  · exact .refl s
  · exact ⟨rfl, rfl, rfl⟩

theorem base_chmScrub (s : State) (sl p : Nat) : Base s (chmScrub s sl p) := by
  unfold chmScrub
  split
  · exact (counted_freeBits s 33).base.trans (counted_logErr ..).base
  · exact ⟨rfl, rfl, rfl⟩

/-- A partition that is DISSOLVING. -/
def dissolvingPart (x : Part) : Part := { x with st := 3, key0 := 0, key1 := 0, src := 0, fab0 := 0, fab1 := 0, used := 0, sweep := 0 }

/-- The queue pairs, the collectives and the slices lose what is the partition's. -/
theorem base_unitsDrop (s : State) (p : Nat) : Base s ([0, 1, 2, 3].foldl (fun t sl => csrRange (slMod (chmScrub t sl p) sl (fun x =>
      { x with reqs := x.reqs.filter (fun q => q.part ≠ p), waits := x.waits.filter (fun w => w.req.part ≠ p) }))
      (R.chmMcgPG sl p 0).addr 0x800) (colDissolve ((List.range 64).foldl (fun t i => qpReset t (64 * p + i)) s) p)) := by
  have h1 : Base s ((List.range 64).foldl (fun t i => qpReset t (64 * p + i)) s) := .foldl (fun i w => base_qpReset ..) _ s
  have h2 (w : State) (l : List Nat) : Base w (l.foldl (fun t sl => csrRange (slMod (chmScrub t sl p) sl (fun x =>
      { x with reqs := x.reqs.filter (fun q => q.part ≠ p), waits := x.waits.filter (fun w => w.req.part ≠ p) })) (R.chmMcgPG sl p 0).addr 0x800) w) :=
    .foldl (fun sl w => ((base_chmScrub ..).trans (base_slMod ..)).trans (base_csrRange ..)) l w
  exact (h1.trans (base_colDissolve ..)).trans (h2 ..)

theorem gget_csrRange (s : State) (lo n p : Nat) : gget (csrRange s lo n) p = gget s p := rfl

/-- The partition's graph engine, translation and walks are gone. -/
theorem gget_erased (s : State) (p : Nat) (x : Tbl Xlt) (c : List WalkEnt) (w : Tbl (List WalkReq)) :
    gget { s with graphs := tdel s.graphs p, xlts := x, walkCache := c, walks := w } p = .empty := by
  show tgetD (tdel s.graphs p) p .empty = .empty
  rw [tgetD, tget_tdel_same]
  rfl

theorem dissolveSteps_dissolves (s : State) (p : Nat) : partGet (dissolveSteps s p) p = dissolvingPart (partGet s p) ∧
    gget (dissolveSteps s p) p = .empty ∧ Deserted (dissolveSteps s p) p := by
  unfold dissolveSteps
  extract_lets s0 s1 s2 s3 s4 s5 s6
  have h0 : partGet s0 p = { partGet s p with st := 3 } := partGet_partMod_same ..
  clear_value s0
  have h1 : Deserted s1 p ∧ s1.parts = s0.parts := ⟨hearths_desert s0 p, (empties_fold ..).parts⟩
  clear_value s1
  have h3 : Base s1 s3 := base_unitsDrop s1 p
  clear_value s3
  have h4 : partGet s4 p = { partGet s3 p with key0 := 0, key1 := 0, src := 0, fab0 := 0, fab1 := 0, used := 0, sweep := 0 } ∧ s4.hearths = s3.hearths :=
    ⟨partGet_partMod_same .., rfl⟩
  clear_value s4
  have h5 : Base s4 s5 := .foldl (fun k w => base_wr ..) _ _
  clear_value s5
  have h6 : s6.parts = s5.parts ∧ s6.hearths = s5.hearths ∧ gget s6 p = .empty := ⟨rfl, rfl, gget_erased ..⟩
  clear_value s6
  have h7 := base_csrRange s6 (blkBase .xlt p) 0xC000
  refine ⟨?_, (gget_csrRange ..).trans h6.2.2, fun h hp => ?_⟩
  · rw [partGet_congr h7.parts, partGet_congr h6.1, partGet_congr h5.parts, h4.1, partGet_congr h3.parts, partGet_congr h1.2, h0]
    rfl
  · rw [hget_congr (h7.hearths.trans (h6.2.1.trans (h5.hearths.trans (h4.2.trans h3.hearths))))] at hp
    exact h1.1 h hp

theorem dissolve_empties (hc : Calm s) (hp : p < 16) (hb : prtBusy s = false) (hst : (partGet s p).st = 2) (hcalm : Calm (dissolveOp (quiet s) p)) :
    Completes (.dissolve p) s (fun u => (partGet u p).st = 3 ∧ prtBusy u = true ∧ (partGet u p).key0 = 0 ∧ (partGet u p).key1 = 0 ∧
      (partGet u p).fab0 = 0 ∧ (partGet u p).fab1 = 0 ∧ gget u p = .empty ∧ ∀ h, (hget u h).part ≠ some p) := by
  have e : dissolveOp (quiet s) p = prtStat (dissolveSteps (quiet s) p) true 4 p 0 := by
    have hp' : ¬ 16 ≤ p := by omega
    have hb' : ¬ prtBusy (quiet s) = true := by
      rw [show prtBusy (quiet s) = prtBusy s from rfl, hb]
      decide
    have hx : ¬ (partGet s p).st ≠ 2 := by simpa using hst
    exact (if_neg hp').trans ((if_neg hb').trans (if_neg hx))
  obtain ⟨h1, h2, h3⟩ := dissolveSteps_dissolves (quiet s) p
  generalize dissolveSteps (quiet s) p = w at e h1 h2 h3
  have hks := counted_prtStat w true 4 p 0
  have hs := prtStat_shows w true (op := 4) (r := 0) (by decide) hp (by decide)
  refine completes_stk (c := p < 16) (f := fun t => dissolveOp t p) hc hp hcalm fun u hf => ?_
  rw [e] at hf
  have hpu := hf.parts p
  rw [hks.part, h1] at hpu
  refine ⟨congrArg Part.st hpu, (hs.follows hf).busy, congrArg Part.key0 hpu, congrArg Part.key1 hpu, congrArg Part.fab0 hpu, congrArg Part.fab1 hpu, ?_,
    fun h hh => ?_⟩
  · rw [hf.gget]
    exact h2
  · rw [hf.hget] at hh
    exact h3 h hh

end

/-- Settles O47, command by command. -/
theorem partitionsHeld : Obligations.PartitionsHeld := by
  intro s p hp hc
  have hall {m : BitVec 16} (h : ∀ i, i < 16 → bit m.toNat i = true → bit (unitsFree s) i = true) :
      ¬ ∃ i, i < 16 ∧ bit m.toNat i = true ∧ bit (unitsFree s) i = false := fun ⟨i, hi, h1, h2⟩ => by
    rw [h i hi h1] at h2
    exact absurd h2 (by decide)
  have hsome {m : BitVec 16} (h : ¬ ∀ i, i < 16 → bit m.toNat i = true → bit (unitsFree s) i = true) :
      ∃ i, i < 16 ∧ bit m.toNat i = true ∧ bit (unitsFree s) i = false := by
    by_contra hn
    exact h fun i hi h1 => by
      by_contra h2
      exact hn ⟨i, hi, h1, Bool.not_eq_true _ ▸ h2⟩
  refine ⟨fun hb m zf => ⟨fun hst hm hfree => ⟨fun b hrun hcalm => ?_, fun hrun => ?_⟩, fun hst => ?_, fun hst hm => ?_, fun hst hm hfree => ?_,
    fun hst hm hfree => ?_, fun hst hm hin hrest hheld => ?_, fun hst hone hm hin => ?_, fun hst hcalm => ?_⟩, fun hb m zf i hi => ?_,
    fun hb hpart => ⟨fun hop => ?_, fun hop => ?_⟩, fun hform v => ?_, fun t h hcalm hh hl hcur hdrain hpart => ?_⟩
  · exact form_forms hc hp hb hst hm (hall hfree) hrun hcalm
  · exact form_refused hc hp hb m zf (by decide) (.inr (.inr (.inr ⟨hst, hm, hall hfree, hrun, rfl⟩)))
  · obtain ⟨u, hu, h1, -, h2⟩ := form_refused hc hp hb m zf (stateRefusal_lt _) (.inl ⟨hst, rfl⟩)
    exact ⟨u, hu, h1, h2⟩
  · obtain ⟨u, hu, h1, -, h2⟩ := form_refused hc hp hb m zf (by decide) (.inr (.inl ⟨hst, hm, rfl⟩))
    exact ⟨u, hu, h1, h2⟩
  · obtain ⟨u, hu, h1, -, h2⟩ := form_refused hc hp hb m zf (by decide) (.inr (.inr (.inl ⟨hst, hm, hsome hfree, rfl⟩)))
    exact ⟨u, hu, h1, h2⟩
  · exact grow_adds hc hp hb hst hm (hall hfree)
  · exact shrink_marks hc hp hb hst hm hin hrest hheld
  · exact shrink_refused hc hp hb hst hm hin hone
  · exact dissolve_empties hc hp hb hst hcalm
  · obtain ⟨u, hu, hw⟩ := commands_busy hc hp hb m zf i hi
    exact ⟨u, hu, hw.busy, hw.hearths, hw.keys, hw.part, hw.result⟩
  · exact prtDone_formed hc hp hb hpart hop
  · exact prtDone_dissolved hc hp hb hpart hop
  · exact quota_written hp hc hform v
  · exact hearthLeave_leaves hcalm hh hl hcur hdrain hpart

end Sys2Proof.Machine

/-!
SUPPORT for the procedures of the Stoker (R499, R514, R515, R522): what follows from a command that leaves a procedure going, the start of the suspect
procedure, and a firmware switch with its trial.
-/

namespace Sys2Proof.Machine

/-! What follows from a command that leaves a procedure going (R515, R517, R522). -/

/-- Nothing follows from a command that leads to such a state but the note of R448: no abort, fault, unload or sweep waits, the suspect procedure stays as it
is, and the Stoker restarts or finds no procedure to go on with. -/
structure Poised (s : State) : Prop where
  run : s.stk.phase = .run
  free : s.held = false
  aborts : s.dueAborts = []
  faults : s.dueHrt = []
  again : suspectAgain s = s
  susp : suspectSettle s false = s
  unl : s.colUnl = []
  stoker : s.away = true ∨ s.stk.service = none ∧ s.stk.warmQ = none
  parts : ∀ p, (partGet s p).leaving = 0 ∧ ((partGet s p).sweep = 0 ∨ (partGet s p).sweep = 2)

section
variable {s t u v : State}

theorem settleFaults_none (h : s.dueHrt = []) : settleFaults s = s := by
  simp only [settleFaults, h, List.foldl_nil]
  rw [← h]

/-- Where nothing is due, what follows starts with the suspect procedure. -/
theorem settleRun_suspects (ha : s.dueAborts = []) (hf : s.dueHrt = []) (hag : suspectAgain s = s)
    (hu : (suspectSettle s false).colUnl = []) : settleRun s = settleAborts (stokerStep (partSteps (suspectSettle s false))) := by
  simp only [settleRun, hag, settleAborts_still ha, settleFaults_none hf, hf, List.any_nil, hu, List.foldl_nil]
  rfl

theorem stokerStep_none (ha : s.away = true ∨ s.stk.service = none ∧ s.stk.warmQ = none) (hs : NoSweep s) : stokerStep s = s := by
  unfold stokerStep
  rw [sweepSteps_eq hs]
  rcases ha with ha | ⟨h1, h2⟩
  · rw [if_pos ha]
  · split
    · rfl
    · simp [serviceStep, warmNext, h1, h2]

theorem settle_poised (h : Poised s) : settle s = partSteps s := by
  have hk : PartSteps s (partSteps s) := partSteps_fold ..
  have hstk : (partSteps s).stk = s.stk := by rw [hk.eq]
  have haway : (partSteps s).away = s.away := by rw [hk.eq]
  have haborts : (partSteps s).dueAborts = [] := (congrArg State.dueAborts hk.eq).trans h.aborts
  have hfaults : (partSteps s).dueHrt = [] := (congrArg State.dueHrt hk.eq).trans h.faults
  have hstep : stokerStep (partSteps s) = partSteps s :=
    stokerStep_none (by rw [haway, hstk]; exact h.stoker) (hk.noSweep fun p => (h.parts p).2)
  have hrun : settleRun s = partSteps s := by
    rw [settleRun_suspects h.aborts h.faults h.again (by rw [h.susp]; exact h.unl), h.susp, hstep, settleAborts_still haborts]
  rw [settle, if_pos h.run, hrun]
  show ({ partSteps s with dueAborts := [], dueHrt := [] } : State) = partSteps s
  rw [← haborts, ← hfaults]

/-- A command that leaves the device poised has its effect and nothing else. -/
theorem ends_poised (s : State) (h : Poised v) : ∃ t, ends s v = .next t ∧ Follows s.pending v t := by
  have h0 : Follows s.pending v { v with pending := s.pending, dueAborts := [], dueHrt := [] } := ⟨rfl, fun _ _ => rfl, fun _ => rfl⟩
  have h1 : Follows s.pending v { partSteps v with pending := s.pending, dueAborts := [], dueHrt := [] } :=
    by exact follows_partSteps h.parts (v.parts.map (·.1)) h0
  have hk : PartSteps v (partSteps v) := partSteps_fold ..
  have hheld : (partSteps v).held = false := (congrArg State.held hk.eq).trans h.free
  have haborts : (partSteps v).dueAborts = [] := (congrArg State.dueAborts hk.eq).trans h.aborts
  have hfaults : (partSteps v).dueHrt = [] := (congrArg State.dueHrt hk.eq).trans h.faults
  refine ⟨_, by rw [ends, settle_poised h, unlessHeld, if_neg (by rw [hheld]; decide)], ?_⟩
  rw [← haborts, ← hfaults] at h1
  exact h1

/-- A state that is calm but for a suspect procedure, which stays as it is. -/
theorem Poised.suspects (hc : Calm { s with stk := { s.stk with susp := none } }) {p : Nat} {run : Option (Nat × Nat)} {ready : Bool}
    (hs : s.stk.susp = some ⟨p, run, ready⟩)
    (hgo : run = none ∧ heldTasks s p ≠ [] ∨ ∃ t h, run = some (t, h) ∧ suspectRuns s p t h = true) : Poised s where
  run := hc.run
  free := hc.free
  aborts := hc.aborts
  faults := hc.faults
  again := by
    have ha : s.dueAborts = [] := hc.aborts
    have hf : s.dueHrt = [] := hc.faults
    rcases hgo with ⟨rfl, -⟩ | ⟨t, h, rfl, -⟩
    · simp [suspectAgain, hs]
    · simp [suspectAgain, hs, ha, hf]
  susp := by
    rcases hgo with ⟨rfl, hne⟩ | ⟨t, h, rfl, hr⟩
    · have e : suspectSettle s false = stkMod s (fun k => { k with susp := some ⟨p, none, ready⟩ }) := by
        rw [suspectSettle, hs]
        exact (if_neg Bool.false_ne_true).trans (if_neg (by simpa using hne))
      rw [e, stkMod, ← hs]
    · rw [suspectSettle, hs]
      exact if_pos hr
  unl := hc.unl
  stoker := .inr ⟨hc.service, hc.warmQ⟩
  parts := hc.parts

/-- A calm device whose Stoker then restarts. -/
theorem Poised.away (hc : Calm { s with away := false }) : Poised s where
  run := hc.run
  free := hc.free
  aborts := hc.aborts
  faults := hc.faults
  again := by
    have h : s.stk.susp = none := hc.susp
    simp [suspectAgain, h]
  susp := by
    have h : s.stk.susp = none := hc.susp
    simp [suspectSettle, h]
  unl := hc.unl
  stoker := .inr ⟨hc.service, hc.warmQ⟩
  parts := hc.parts

/-- A command of the Stoker that leaves the device poised. -/
theorem completes_poised {f : State → State} {P : State → Prop} (hr : s.stk.phase = .run) (ha : s.away = false) (e : f (quiet s) = v) (hv : Poised v)
    (hP : ∀ u, Follows s.pending v u → P u) : ∃ t, actStk f s = .next t ∧ P t := by
  obtain ⟨t, ht, hf⟩ := ends_poised s hv
  exact ⟨t, by rw [actStk, if_pos ⟨hr, ha⟩, e, ht], hP t hf⟩

/-! The suspect procedure starts (R499, R514). -/

/-- What ends the procedures below the suspect procedure leaves: registers, stacks that serve again, and the Stoker's own state but for its procedures. -/
structure Lowered (s t : State) : Prop where
  eq : t = { s with csr := t.csr, hbm := t.hbm, stk := t.stk, fresh := t.fresh }
  stk : t.stk.phase = s.stk.phase ∧ t.stk.susp = s.stk.susp ∧ t.stk.service = s.stk.service ∧ t.stk.warmQ = s.stk.warmQ

theorem Lowered.refl (s : State) : Lowered s s := ⟨rfl, rfl, rfl, rfl, rfl⟩

theorem Lowered.trans (h : Lowered s t) (k : Lowered t u) : Lowered s u := by
  obtain ⟨h1, h2, h3, h4⟩ := h.stk
  obtain ⟨k1, k2, k3, k4⟩ := k.stk
  exact ⟨by rw [k.eq, h.eq], k1.trans h1, k2.trans h2, k3.trans h3, k4.trans h4⟩

theorem Counted.lowered {rs : List Reg} (h : Counted s t rs) : Lowered s t := by
  have e : t.stk = s.stk := by rw [h.eq]
  exact ⟨by rw [h.eq], by rw [e], by rw [e], by rw [e], by rw [e]⟩

theorem lowered_stkMod {f : Stoker → Stoker}
    (hf : (f s.stk).phase = s.stk.phase ∧ (f s.stk).susp = s.stk.susp ∧ (f s.stk).service = s.stk.service ∧ (f s.stk).warmQ = s.stk.warmQ) :
    Lowered s (stkMod s f) := ⟨rfl, hf⟩

theorem lowered_retrainDrop (s : State) : Lowered s (retrainDrop s) := by
  unfold retrainDrop
  generalize List.range 20 = l
  induction l generalizing s with
  | nil => exact .refl s
  | cons k l ih =>
    refine .trans ?_ (ih _)
    dsimp only
    split
    · refine (counted_wr s (R.memTrain k) 0).lowered.trans ?_
      split
      · exact ⟨rfl, rfl, rfl, rfl, rfl⟩
      · exact .refl _
    · exact .refl s

theorem lowered_trialBack (s : State) : Lowered s (trialBack s) := by
  unfold trialBack
  split
  · exact .refl s
  · exact (((counted_wr ..).lowered).trans (lowered_stkMod ⟨rfl, rfl, rfl, rfl⟩)).trans (counted_wrf ..).lowered

theorem counted_cmdEnd (s : State) (result : Nat) : Counted s (cmdEnd s result) [R.stkCmdStatus] := by
  unfold cmdEnd
  split
  · exact counted_wr ..
  · exact .refl ..

theorem lowered_lowerDrop (h : s.stk.service = none) : Lowered s (lowerDrop s) := by
  unfold lowerDrop
  rw [h]
  dsimp only
  have h1 : Lowered s (trialBack (retrainDrop (stkMod s (fun k => { k with digs := none })))) :=
    ((lowered_stkMod ⟨rfl, rfl, rfl, rfl⟩).trans (lowered_retrainDrop _)).trans (lowered_trialBack _)
  refine h1.trans (.trans ?_ (counted_wrf ..).lowered)
  split
  · exact (counted_cmdEnd ..).lowered
  · exact .refl _

theorem Lowered.calm (h : Lowered s t) (hc : Calm s) : Calm t := by
  obtain ⟨h1, h2, h3, h4⟩ := h.stk
  have hm : Calm (Machine.stkMod s (fun _ => t.stk)) := hc.stkMod ⟨h1, h2, h3, h4⟩
  rw [h.eq]
  exact hm.of rfl rfl rfl rfl rfl rfl rfl

theorem heldTasks_congr (h : t.graphs = s.graphs) (p : Nat) : heldTasks t p = heldTasks s p := by simp only [heldTasks, gget, h]

/-- The suspect procedure of a partition, just started in `t`. -/
def suspecting (t : State) (p : Nat) : State :=
  procSet (wrf (stkMod t (fun k => { k with susp := some ⟨p, none, false⟩ })) (R.grfCtrl p) 3 1 1) 1

theorem counted_suspecting (t : State) (p : Nat) :
    Counted (stkMod t (fun k => { k with susp := some ⟨p, none, false⟩ })) (suspecting t p) [R.grfCtrl p, R.stkStatus] :=
  ((counted_wrf ..).mono (by simp)).trans ((counted_wrf ..).mono (by simp))

theorem suspecting_susp (t : State) (p : Nat) : (suspecting t p).stk.susp = some ⟨p, none, false⟩ := by rw [(counted_suspecting t p).eq]; rfl

theorem poised_suspecting (hc : Calm t) {p : Nat} (hh : heldTasks t p ≠ []) : Poised (suspecting t p) := by
  have e := (counted_suspecting t p).eq
  refine .suspects ?_ (suspecting_susp t p) (.inl ⟨rfl, ?_⟩)
  · rw [e]
    exact ⟨hc.run, hc.here, hc.free, hc.aborts, hc.faults, rfl, hc.service, hc.warmQ, hc.unl, hc.parts⟩
  · rw [heldTasks_congr (s := t) (by rw [e]; rfl)]
    exact hh

theorem suspectStart_eq (hs : s.stk.susp = none) {p : Nat} (hp : p < 16) (hh : heldTasks s p ≠ []) :
    suspectStart s p = suspecting (lowerDrop s) p := by
  have hne : (heldTasks s p).isEmpty = false := by simpa using hh
  refine if_neg ?_
  rw [hs, hne]
  simpa using hp

theorem suspecting_regs (t : State) {p : Nat} (hp : p < 16) :
    rdf (suspecting t p) R.stkStatus 5 3 = 1 ∧ bit (rd (suspecting t p) (R.grfCtrl p)) 3 = true := by
  have hb : (R.grfCtrl p).addr ≠ R.stkStatus.addr := by
    simp only [R.stkStatus, R.grfCtrl, blkBase]
    omega
  constructor
  · rw [rdf, suspecting, procSet, wrf, rd_wr_same, bits_setBits_same]
    rfl
  · rw [suspecting, procSet, wrf, rd_wr_other _ hb, wrf, rd_wr_same, bit_setBits_same]
    rfl

theorem suspectStart_starts (hc : Calm s) {p : Nat} (hp : p < 16) (hh : heldTasks s p ≠ []) :
    Completes (.suspectStart p) s (fun u => u.stk.susp = some ⟨p, none, false⟩ ∧ rdf u R.stkStatus 5 3 = 1 ∧ bit (rd u (R.grfCtrl p)) 3 = true) := by
  have hl : Lowered (quiet s) (lowerDrop (quiet s)) := lowered_lowerDrop hc.service
  have hgraphs : (lowerDrop (quiet s)).graphs = s.graphs := by rw [hl.eq]; rfl
  have e : only (p < 16) (fun x => suspectStart x p) (quiet s) = suspecting (lowerDrop (quiet s)) p :=
    (if_pos hp).trans (suspectStart_eq (s := quiet s) hc.susp hp hh)
  have hv : Poised (suspecting (lowerDrop (quiet s)) p) :=
    poised_suspecting (hl.calm hc.quiet) (by rw [heldTasks_congr hgraphs]; exact hh)
  refine completes_poised (f := only (p < 16) fun x => suspectStart x p) hc.run hc.here e hv fun u hf => ?_
  obtain ⟨h1, h2⟩ := suspecting_regs (lowerDrop (quiet s)) hp
  have hn : (R.grfCtrl p).addr ∉ noteRegs := by
    simp only [R.grfCtrl, blkBase, noteRegs, R.prtErrLog, R.prtErrCount, List.mem_cons, List.not_mem_nil, or_false]
    omega
  exact ⟨by rw [hf.eq]; exact suspecting_susp .., by rw [rdf, hf.rd _ (by decide)]; exact h1, by rw [hf.rd _ hn]; exact h2⟩

/-! A firmware switch (R522). -/

/-- The firmware of an image. -/
def imageBank (m : Img) : FwBank := ⟨true, m.fwDigest, m.fwVersion, m.svn⟩

/-- The Stoker's own state once a copy's firmware is loaded into bank `other`, in trial. -/
def inTrial (other c : Nat) (m : Img) (k : Stoker) : Stoker :=
  if other = 0 then { k with fw0 := imageBank m, trial := some c } else { k with fw1 := imageBank m, trial := some c }

/-- The Stoker restarts from the other bank, whose firmware is that of a verified copy. -/
def fwSwitched (w : State) (c : Nat) (m : Img) : State :=
  let v := rd w R.stkStatus
  let other := 1 - bits v 3 1
  let s2 := wr (stkMod w (inTrial other c m)) R.stkStatus (setBits (setBits (setBits v 3 1 other) 4 1 0) 0 3 4)
  fwInfo { stkBump (procSet (cmdStat s2 true 4 0) 5) R.stkRestarts with away := true }

theorem fwSwitch_ok {c : Nat} {m : Img} {w : State} (hf : procFree s = true) (hc : c < 2) (e : copyCheck s c = (.ok m, w)) :
    fwSwitch s c = fwSwitched w c m := by
  unfold fwSwitch
  rw [if_neg (by simp [hf]), if_neg (by omega)]
  dsimp only
  rw [e]
  rfl

theorem fwSwitch_error {c : Nat} {k : Nat × Nat} {w : State} (hf : procFree s = true) (hc : c < 2) (e : copyCheck s c = (.error k, w)) :
    fwSwitch s c = cmdStat w false 4 3 := by
  unfold fwSwitch
  rw [if_neg (by simp [hf]), if_neg (by omega)]
  dsimp only
  rw [e]

/-- The registers of the Stoker's status and counters. -/
def fwRegs : List Reg := [R.stkStatus, R.stkCmdStatus, R.stkRestarts, R.stkFwInfo]

/-- The end of a firmware switch's command: the restart, its count, and the running firmware's version. -/
theorem counted_fwRestart (t : State) : Counted { t with away := true } (fwInfo { stkBump t R.stkRestarts with away := true }) fwRegs := by
  have h1 : Counted { t with away := true } { stkBump t R.stkRestarts with away := true } [R.stkRestarts] :=
    counted_bump { t with away := true } false R.stkRestarts 1 48
  exact (h1.mono (by simp [fwRegs])).trans ((counted_wr _ R.stkFwInfo _).mono (by simp [fwRegs]))

theorem Counted.restarting {rs : List Reg} (h : Counted s t rs) : Counted { s with away := true } { t with away := true } rs :=
  ⟨by rw [h.eq], h.regs⟩

theorem counted_fwSwitched (w : State) (c : Nat) (m : Img) :
    Counted { stkMod w (inTrial (1 - bits (rd w R.stkStatus) 3 1) c m) with away := true } (fwSwitched w c m) fwRegs := by
  unfold fwSwitched
  extract_lets src v other s2
  have h2 : Counted (stkMod w (inTrial other c m)) s2 fwRegs := (counted_wr _ R.stkStatus _).mono (by simp [fwRegs])
  have h3 : Counted s2 (procSet (cmdStat s2 true 4 0) 5) fwRegs :=
    ((counted_wr _ R.stkCmdStatus _).mono (by simp [fwRegs])).trans ((counted_wrf _ R.stkStatus ..).mono (by simp [fwRegs]))
  exact (h2.trans h3).restarting.trans (counted_fwRestart _)

theorem inTrial_kept (other c : Nat) (m : Img) (k : Stoker) :
    (inTrial other c m k).trial = some c ∧ (if other = 0 then (inTrial other c m k).fw0 else (inTrial other c m k).fw1) = imageBank m ∧
      (inTrial other c m k).phase = k.phase ∧ (inTrial other c m k).susp = k.susp ∧ (inTrial other c m k).service = k.service ∧
      (inTrial other c m k).warmQ = k.warmQ := by
  unfold inTrial
  split <;> simp

theorem rd_fwSwitched (w : State) (c : Nat) (m : Img) : rd (fwSwitched w c m) R.stkStatus =
    setBits (setBits (setBits (setBits (rd w R.stkStatus) 3 1 (1 - bits (rd w R.stkStatus) 3 1)) 4 1 0) 0 3 4) 5 3 5 := by
  unfold fwSwitched
  extract_lets v other s2
  have h2 : rd s2 R.stkStatus = setBits (setBits (setBits v 3 1 other) 4 1 0) 0 3 4 := rd_wr_same ..
  have hcmd : rd (cmdStat s2 true 4 0) R.stkStatus = rd s2 R.stkStatus := rd_wr_other _ (by decide) _
  have h3 : rd (procSet (cmdStat s2 true 4 0) 5) R.stkStatus = setBits (rd s2 R.stkStatus) 5 3 5 := by rw [procSet, wrf, rd_wr_same, hcmd]
  have h4 : rd (stkBump (procSet (cmdStat s2 true 4 0) 5) R.stkRestarts) R.stkStatus = setBits (rd s2 R.stkStatus) 5 3 5 := by
    rw [stkBump, rd_bump_other _ _ (by decide), h3]
  rw [← h2, ← h4]
  exact rd_wr_other _ (by decide) _

/-- The fields of STK_STATUS after a switch: the other bank, not confirmed, restarting. -/
theorem switched_fields (v b : Nat) :
    let w := setBits (setBits (setBits (setBits v 3 1 b) 4 1 0) 0 3 4) 5 3 5
    bits w 3 1 = b % 2 ∧ bits w 0 3 = 4 ∧ bit w 4 = false := by
  dsimp only
  refine ⟨?_, ?_, ?_⟩
  · rw [bits_setBits_other _ _ (by decide), bits_setBits_other _ _ (by decide), bits_setBits_other _ _ (by decide), bits_setBits_same, pow_one]
  · rw [bits_setBits_other _ _ (by decide), bits_setBits_same]
    rfl
  · rw [bit_setBits_other _ _ (by decide), bit_setBits_other _ _ (by decide), bit_setBits_same]
    rfl

/-- A copy that is checked: only registers change. -/
theorem copyCheck_state {c : Nat} {r : Except (Nat × Nat) Img} {w : State} (e : copyCheck s c = (r, w)) :
    w = { s with csr := w.csr, fresh := w.fresh } := by
  have h := copyCheck_csr s c
  rw [e] at h
  exact h

/-- The registers in which the check of copy `c` is recorded. -/
def copyRegs (c : Nat) : List Reg := [R.kndErrLog, R.kndErrCount, R.kndCopyInfoC c] ++ (List.range 4).map (R.kndCopyDigCI c)

theorem counted_copyNote (s : State) (c : Nat) (r : Except (Nat × Nat) Img) : Counted s (copyNote s c r) (copyRegs c) := by
  unfold copyNote
  extract_lets hd fw old v d
  exact ((counted_wr ..).mono (by simp [copyRegs])).trans
    (counted_foldl _ (fun t i hi => (counted_wr t (R.kndCopyDigCI c i) _).mono (by exact List.forall_mem_singleton.2 (List.mem_append_right _ (List.mem_map_of_mem hi)))) _)

theorem counted_copyCheck (s : State) (c : Nat) : Counted s (copyCheck s c).2 (copyRegs c) := by
  unfold copyCheck
  generalize imgVerify s c = r
  have h := counted_copyNote s c r
  dsimp only
  cases r with
  | ok m => exact h
  | error e => exact h.trans ((counted_logErr ..).mono (by simp [copyRegs]))

theorem rd_copyCheck {c : Nat} {r : Except (Nat × Nat) Img} {w : State} (e : copyCheck s c = (r, w)) : rd w R.stkStatus = rd s R.stkStatus := by
  have h := (counted_copyCheck s c).regs R.stkStatus (by
    simp [copyRegs, R.stkStatus, R.kndErrLog, R.kndErrCount, R.kndCopyInfoC, R.kndCopyDigCI, blkBase]
    exact ⟨by omega, fun x _ => by omega⟩)
  rw [e] at h
  exact h

theorem fwSwitch_switches (hc : Calm s) {c : Nat} {m : Img} {w : State} (h2 : c < 2) (hp : procFree s = true) (e : copyCheck (quiet s) c = (.ok m, w)) :
    Completes (.fwSwitch c) s (fun u => u.away = true ∧ u.stk.trial = some c ∧ rdf u R.stkStatus 3 1 = 1 - rdf s R.stkStatus 3 1 ∧
      rdf u R.stkStatus 0 3 = 4 ∧ bit (rd u R.stkStatus) 4 = false ∧
      (if 1 - rdf s R.stkStatus 3 1 = 0 then u.stk.fw0 else u.stk.fw1) = ⟨true, m.fwDigest, m.fwVersion, m.svn⟩) := by
  have hop : fwSwitch (quiet s) c = fwSwitched w c m := fwSwitch_ok (s := quiet s) hp h2 e
  have hw := copyCheck_state e
  have hwc : Calm w := by
    rw [hw]
    exact hc.quiet.of rfl rfl rfl rfl rfl rfl rfl
  have hcnt := counted_fwSwitched w c m
  obtain ⟨h1, h2, h3, h4, h5, h6⟩ := inTrial_kept (1 - bits (rd w R.stkStatus) 3 1) c m w.stk
  have hv : Poised (fwSwitched w c m) := by
    refine .away ?_
    rw [hcnt.eq]
    exact (hwc.stkMod (f := inTrial (1 - bits (rd w R.stkStatus) 3 1) c m) ⟨h3, h4, h5, h6⟩).of rfl hwc.here.symm rfl rfl rfl rfl rfl
  refine completes_poised (f := fun x => fwSwitch x c) (v := fwSwitched w c m) hc.run hc.here hop hv ?_
  intro u hf
  have hst : u.stk = inTrial (1 - bits (rd w R.stkStatus) 3 1) c m w.stk := by
    rw [hf.eq]
    show (fwSwitched w c m).stk = _
    rw [hcnt.eq]
    rfl
  have hreg := rd_fwSwitched w c m
  have hst0 : rd w R.stkStatus = rd s R.stkStatus := (rd_copyCheck e).trans (rd_quiet ..)
  obtain ⟨k1, k2, k3⟩ := switched_fields (rd s R.stkStatus) (1 - bits (rd s R.stkStatus) 3 1)
  rw [hst0, ← hf.rd _ (by decide)] at hreg
  rw [hst0] at hst h1 h2
  refine ⟨?_, by rw [hst]; exact h1, ?_, by rw [rdf, hreg]; exact k2, by rw [hreg]; exact k3, by rw [hst]; exact h2⟩
  · rw [hf.eq]
    show (fwSwitched w c m).away = true
    rw [hcnt.eq]
  · rw [rdf, hreg, k1, rdf, Nat.mod_eq_of_lt (by omega)]

theorem fwSwitch_refused (hc : Calm s) {c : Nat} {k : Nat × Nat} {w : State} (h2 : c < 2) (hp : procFree s = true)
    (e : copyCheck (quiet s) c = (.error k, w)) :
    Completes (.fwSwitch c) s (fun u => rdf u R.stkCmdStatus 8 4 = 3 ∧ u.away = false ∧ u.stk = s.stk) := by
  have hop : fwSwitch (quiet s) c = cmdStat w false 4 3 := fwSwitch_error (s := quiet s) hp h2 e
  have hw := copyCheck_state e
  have hwc : Calm (cmdStat w false 4 3) := by
    refine (counted_wr ..).calm ?_
    rw [hw]
    exact hc.quiet.of rfl rfl rfl rfl rfl rfl rfl
  refine completes_stkAll (f := fun x => fwSwitch x c) hc (by rw [hop]; exact hwc) fun u hf => ?_
  rw [hop] at hf
  refine ⟨?_, ?_, ?_⟩
  · rw [rdf, hf.rd _ (by decide), cmdStat, rd_wr_same]
    rfl
  · rw [hf.eq]
    exact hwc.here
  · rw [hf.eq]
    show w.stk = s.stk
    rw [hw]
    rfl

/-- The copy in trial becomes the copy in use and running, with image digest `d`. -/
def confirmed (s : State) (c : Nat) (d : List Byte) : State :=
  let s1 := stkMod s (fun k => { k with trial := none, imgDigest := d })
  let s2 := wr s1 R.stkStatus (setBits (setBits (rd s1 R.stkStatus) 4 1 1) 0 3 1)
  let s3 := wrf (wr s2 R.kndStatus (setBits (rd s2 R.kndStatus) 0 2 (3 * c))) R.devStatus 36 1 c
  cmdEnd (procSet s3 0) 0

theorem fwOkSet_eq {c : Nat} (h : s.stk.trial = some c) (ha : s.away = false) :
    fwOkSet s = healthWrite (confirmed s c ((List.range 4).flatMap (fun i => leBytes 8 (rd s (R.kndCopyDigCI c i))))) := by
  unfold fwOkSet
  rw [h]
  exact if_neg (by rw [ha]; decide)

theorem counted_confirmed (s : State) (c : Nat) (d : List Byte) :
    Counted (stkMod s (fun k => { k with trial := none, imgDigest := d })) (confirmed s c d)
      [R.stkStatus, R.kndStatus, R.devStatus, R.stkCmdStatus] := by
  unfold confirmed
  extract_lets s1 s2 s3
  have h2 : Counted s1 s2 [R.stkStatus] := counted_wr ..
  have h3 : Counted s2 s3 [R.kndStatus, R.devStatus] := ((counted_wr ..).mono (by simp)).trans ((counted_wrf ..).mono (by simp))
  have h4 : Counted s3 (procSet s3 0) [R.stkStatus] := counted_wrf ..
  exact (((h2.mono (by simp)).trans (h3.mono (by simp))).trans (h4.mono (by simp))).trans ((counted_cmdEnd ..).mono (by simp))

theorem confirmed_regs (s : State) {c : Nat} (h2 : c < 2) (d : List Byte) :
    bit (rd (confirmed s c d) R.stkStatus) 4 = true ∧ rdf (confirmed s c d) R.stkStatus 0 3 = 1 ∧
      rdf (confirmed s c d) R.kndStatus 0 1 = c ∧ rdf (confirmed s c d) R.kndStatus 1 1 = c := by
  unfold confirmed
  extract_lets s1 s2 s3
  have hst2 : rd s2 R.stkStatus = setBits (setBits (rd s1 R.stkStatus) 4 1 1) 0 3 1 := rd_wr_same ..
  have hst3 : rd s3 R.stkStatus = rd s2 R.stkStatus := (rd_wr_other _ (by decide) _).trans (rd_wr_other _ (by decide) _)
  have hst : rd (cmdEnd (procSet s3 0) 0) R.stkStatus = setBits (setBits (setBits (rd s1 R.stkStatus) 4 1 1) 0 3 1) 5 3 0 := by
    rw [(counted_cmdEnd ..).regs _ (by decide), procSet, wrf, rd_wr_same, hst3, hst2]
  have hk3 : rd s3 R.kndStatus = setBits (rd s2 R.kndStatus) 0 2 (3 * c) := (rd_wr_other _ (by decide) _).trans (rd_wr_same ..)
  have hk : rd (cmdEnd (procSet s3 0) 0) R.kndStatus = setBits (rd s2 R.kndStatus) 0 2 (3 * c) := by
    rw [(counted_cmdEnd ..).regs _ (by decide), procSet, wrf, rd_wr_other _ (by decide), hk3]
  have h3c : bits (setBits (rd s2 R.kndStatus) 0 2 (3 * c)) 0 2 = 3 * c := by
    rw [bits_setBits_same, Nat.mod_eq_of_lt (by omega)]
  have hlow (w i : Nat) (hi : i < 2) : bits w i 1 = bits (bits w 0 2) i 1 := by
    simp only [bits, Nat.shiftRight_eq_div_pow]
    interval_cases i <;> omega
  refine ⟨?_, ?_, ?_, ?_⟩
  · rw [hst, bit_setBits_other _ _ (by decide), bit_setBits_other _ _ (by decide), bit_setBits_same]
    rfl
  · rw [rdf, hst, bits_setBits_other _ _ (by decide), bits_setBits_same]
    rfl
  · rw [rdf, hk, hlow _ _ (by decide), h3c]
    interval_cases c <;> rfl
  · rw [rdf, hk, hlow _ _ (by decide), h3c]
    interval_cases c <;> rfl

theorem fwOkSet_confirms (hc : Calm s) {c : Nat} (ht : s.stk.trial = some c) (h2 : c < 2) :
    Completes .fwOkSet s (fun u => u.stk.trial = none ∧ bit (rd u R.stkStatus) 4 = true ∧ rdf u R.stkStatus 0 3 = 1 ∧
      rdf u R.kndStatus 0 1 = c ∧ rdf u R.kndStatus 1 1 = c) := by
  obtain ⟨d, e⟩ : ∃ d, fwOkSet (quiet s) = healthWrite (confirmed (quiet s) c d) := ⟨_, fwOkSet_eq (s := quiet s) ht hc.here⟩
  have hcnt := counted_confirmed (quiet s) c d
  have hrec := records_healthWrite (confirmed (quiet s) c d) []
  have hcalm : Calm (confirmed (quiet s) c d) := hcnt.calm (hc.quiet.stkMod ⟨rfl, rfl, rfl, rfl⟩)
  refine completes_stkAll (f := fwOkSet) hc (by rw [e]; exact hrec.calm hcalm) fun u hf => ?_
  rw [e] at hf
  have hreg {r : Reg} (hn : r.addr ∉ noteRegs) (hr : r.addr < 0x100000000) : rd u r = rd (confirmed (quiet s) c d) r := by
    rw [hf.rd _ hn, hrec.kept.regs r hr (by simp)]
  obtain ⟨k1, k2, k3, k4⟩ := confirmed_regs (quiet s) h2 d
  refine ⟨?_, by rw [hreg (by decide) (by decide)]; exact k1, by rw [rdf, hreg (by decide) (by decide)]; exact k2,
    by rw [rdf, hreg (by decide) (by decide)]; exact k3, by rw [rdf, hreg (by decide) (by decide)]; exact k4⟩
  rw [hf.eq]
  show (healthWrite (confirmed (quiet s) c d)).stk.trial = none
  rw [hrec.kept.stk]
  show (confirmed (quiet s) c d).stk.trial = none
  rw [hcnt.eq]
  rfl

/-- The Stoker's state once a trial is taken back. -/
def takenBack (s : State) : State := cmdEnd (procSet (trialBack s) 0) 4

theorem trialBack_eq {c : Nat} (h : s.stk.trial = some c) : trialBack s =
    stkState (wr (stkMod s (fun k => { k with trial := none })) R.stkStatus (setBits (rd s R.stkStatus) 3 1 (1 - bits (rd s R.stkStatus) 3 1))) 1 := by
  unfold trialBack
  rw [h]
  rfl

theorem counted_takenBack {c : Nat} (h : s.stk.trial = some c) :
    Counted (stkMod s (fun k => { k with trial := none })) (takenBack s) [R.stkStatus, R.stkCmdStatus] := by
  have h2 : Counted (stkMod s (fun k => { k with trial := none })) (trialBack s) [R.stkStatus] := by
    rw [trialBack_eq h]
    exact (counted_wr ..).trans (counted_wrf ..)
  exact ((h2.mono (by simp)).trans ((counted_wrf ..).mono (by simp))).trans ((counted_cmdEnd ..).mono (by simp))

theorem takenBack_bank {c : Nat} (h : s.stk.trial = some c) : rdf (takenBack s) R.stkStatus 3 1 = 1 - rdf s R.stkStatus 3 1 := by
  have h1 : rd (trialBack s) R.stkStatus = setBits (setBits (rd s R.stkStatus) 3 1 (1 - bits (rd s R.stkStatus) 3 1)) 0 3 1 := by
    rw [trialBack_eq h, stkState, wrf, rd_wr_same, rd_wr_same]
  rw [takenBack, rdf, (counted_cmdEnd ..).regs _ (by decide), procSet, wrf, rd_wr_same, h1, bits_setBits_other _ _ (by decide),
    bits_setBits_other _ _ (by decide), bits_setBits_same, pow_one, rdf, Nat.mod_eq_of_lt (by omega)]

theorem fwTrialTimeout_eq {c : Nat} (h : s.stk.trial = some c) :
    fwTrialTimeout s = fwInfo { stkBump (takenBack s) R.stkRestarts with away := true } := by
  unfold fwTrialTimeout
  rw [h]
  rfl

theorem Follows.stoker {q : List Instr} (h : Follows q v u) : u.stk = v.stk := by rw [h.eq]
theorem Follows.stokerAway {q : List Instr} (h : Follows q v u) : u.away = v.away := by rw [h.eq]

theorem rd_fwRestart (t : State) : rd (fwInfo { stkBump t R.stkRestarts with away := true }) R.stkStatus = rd t R.stkStatus := by
  rw [fwInfo, rd_wr_other _ (by decide)]
  show rd (stkBump t R.stkRestarts) R.stkStatus = rd t R.stkStatus
  rw [stkBump, rd_bump_other _ _ (by decide)]

/-- What a trial that is taken back leaves. -/
theorem restarted_kept (s : State) (hb : Calm s) {v : State} (hcnt : Counted { s with away := true } v fwRegs) :
    Poised v ∧ v.stk = s.stk ∧ v.away = true := by
  have e := hcnt.eq
  refine ⟨.away ?_, by rw [e], by rw [e]⟩
  rw [e]
  exact hb.of rfl hb.here.symm rfl rfl rfl rfl rfl

theorem fwTrialTimeout_goesBack (hc : Calm s) {c : Nat} (ht : s.stk.trial = some c) :
    Completes .fwTrialTimeout s (fun u => u.stk.trial = none ∧ u.away = true ∧ rdf u R.stkStatus 3 1 = 1 - rdf s R.stkStatus 3 1) := by
  have hback := counted_takenBack (s := quiet s) ht
  have hb : Calm (takenBack (quiet s)) := hback.calm (hc.quiet.stkMod ⟨rfl, rfl, rfl, rfl⟩)
  have htrial : (takenBack (quiet s)).stk.trial = none := by rw [hback.eq]; rfl
  have hbank : bits (rd (takenBack (quiet s)) R.stkStatus) 3 1 = 1 - rdf s R.stkStatus 3 1 := by
    have h := takenBack_bank (s := quiet s) ht
    rwa [rdf, rdf, rd_quiet, ← rdf] at h
  obtain ⟨hv, hstk, haway⟩ := restarted_kept _ hb (counted_fwRestart (takenBack (quiet s)))
  have hrun := rd_fwRestart (takenBack (quiet s))
  obtain ⟨u, hu, hf⟩ := ends_poised s hv
  refine ⟨u, ?_, ?_, ?_, ?_⟩
  · show act fwTrialTimeout s = .next u
    rw [act, if_pos hc.run, fwTrialTimeout_eq (s := quiet s) ht, hu]
  · rw [hf.stoker, hstk]
    exact htrial
  · exact hf.stokerAway.trans haway
  · rw [rdf, hf.rd _ (by decide), hrun]
    exact hbank

end
end Sys2Proof.Machine

/-!
SUPPORT and proofs for the procedures of the Stoker (R515, R518, R578): digest messages and the digest check, error injection, and the run of a suspect.
-/

namespace Sys2Proof.Machine

/-! A digest message (R373, R518). -/

theorem beBytes_length (n v : Nat) : (beBytes n v).length = n := by rw [beBytes, List.length_reverse, length_leBytes]

theorem beVal_beBytes (n v : Nat) : beVal (beBytes n v) = v % 256 ^ n := by rw [beVal, beBytes, List.reverse_reverse, leVal_leBytes]

section
variable {s t u v : State}

section
variable (ty flags dst src slice group dpart spart hops seq : Nat) (tail : List Byte)

/-- Bytes 0 to 3 of a header, and those after. -/
theorem mkHdr_front : ∃ r, mkHdr ty flags dst src slice group dpart spart hops seq tail = beBytes 1 (16 + ty) ++ (beBytes 1 flags ++ (beBytes 2 dst ++ r)) :=
  ⟨_, by simp only [mkHdr, List.append_assoc]; rfl⟩

theorem phType_mkHdr (h : ty < 16) : phType (mkHdr ty flags dst src slice group dpart spart hops seq tail) = ty := by
  obtain ⟨r, e⟩ := mkHdr_front ty flags dst src slice group dpart spart hops seq tail
  rw [phType, hB, e, List.drop_zero, List.take_left' (beBytes_length ..), beVal_beBytes]
  simp only [bits, Nat.shiftRight_zero]
  omega

theorem phAlt_mkHdr (h : bit flags 6 = false) (h8 : flags < 256) :
    phAlt (mkHdr ty flags dst src slice group dpart spart hops seq tail) = false := by
  obtain ⟨r, e⟩ := mkHdr_front ty flags dst src slice group dpart spart hops seq tail
  rw [phAlt, phFlags, hB, e, List.drop_left' (beBytes_length ..), List.take_left' (beBytes_length ..), beVal_beBytes, Nat.mod_eq_of_lt (by omega)]
  exact h

theorem phDst_mkHdr (h : dst < 65536) : phDst (mkHdr ty flags dst src slice group dpart spart hops seq tail) = dst := by
  obtain ⟨r, e⟩ := mkHdr_front ty flags dst src slice group dpart spart hops seq tail
  rw [phDst, hB, e, ← List.append_assoc, List.drop_left' (by simp [beBytes_length]), List.take_left' (beBytes_length ..), beVal_beBytes]
  omega

theorem mkHdr_length (h : tail.length = 16) : (mkHdr ty flags dst src slice group dpart spart hops seq tail).length = 32 := by
  simp only [mkHdr, List.length_append, beBytes_length, h]

end

/-- A packet of one flit. -/
theorem flitsOf_length {vc : Nat} {b : List Byte} (h0 : b ≠ []) (h : b.length ≤ 248) : (flitsOf vc b).length = 1 := by
  have h1 : 0 < b.length := List.length_pos_iff.2 h0
  have h2 : cdiv b.length 248 = 1 := by simp only [cdiv]; omega
  simp [flitsOf, pieces, h2]

/-- The header of a digest message. -/
def digHdr (s : State) (dst dpart spart msg coll epoch dir : Nat) : List Byte :=
  mkHdr 3 0 dst (ownDev s) 0 0 dpart spart (rdf s R.fabE2eCfg 32 8) 0
    (beBytes 1 msg ++ beBytes 1 coll ++ beBytes 4 epoch ++ beBytes 1 dir ++ List.replicate 7 0 ++ beBytes 2 16)

theorem digSend_eq (s : State) (msg dst dpart spart coll epoch dir : Nat) (body : List Byte) :
    digSend s msg dst dpart spart coll epoch dir body = sendOwn s 30 (digHdr s dst dpart spart msg coll epoch dir) body := rfl

theorem digHdr_length (s : State) (dst dpart spart msg coll epoch dir : Nat) : (digHdr s dst dpart spart msg coll epoch dir).length = 32 :=
  mkHdr_length _ _ _ _ _ _ _ _ _ _ _ (by simp [beBytes_length])

/-- A packet of VC 30 takes the primary port of its destination, where that is usable. -/
theorem sendOwn_management {h body : List Byte} {d port l : Nat} (hd : phDst h = d) (ha : phAlt h = false) (hp : primaryOf s d = some port)
    (hl : pickLink s (portLive s port) = some l) (hroom : stagingRoom s port (flitsOf 30 (h ++ body)).length = true) :
    sendOwn s 30 h body = portSend { s with nextPkt := s.nextPkt + 1 } port h
      ⟨s.nextPkt, 30, flitsOf 30 (h ++ body), true, none, false, d, some (linkSlice l), false⟩ := by
  have hroute : routeOf s none 30 h = .out port 30 h false := routeOf_primary (by omega) ha (by rw [hd]; exact hp)
  rw [sendOwn_eq, hroute]
  dsimp only
  rw [if_neg (by rw [hroom]; decide), stageOf, hl, hd]
  rfl

theorem portSend_management {p l : Nat} {h : List Byte} {q : TxPkt} (hl : pickLink s (portLive s p) = some l) (hq : q.vc = 30) :
    portSend s p h q = lkMod s l (fun x => { x with txq := x.txq ++ [q] }) := by
  have ht : txPut s p q = lkMod s l (fun x => { x with txq := x.txq ++ [q] }) := by
    unfold txPut
    rw [hl]
  unfold portSend
  dsimp only
  rw [ht]
  exact if_neg (by simp [hq])

theorem lset_length {α : Type} (l : List α) (i : Nat) (v : α) : (lset l i v).length = l.length := by rw [lset_eq, List.length_set]

/-- A packet of VC 30 that fills no more than a flit is queued or dropped: the staging has room. -/
theorem queued_management {h body : List Byte} (ha : phAlt h = false) (h0 : h ≠ []) (hlen : (h ++ body).length ≤ 248)
    (hroom : ∀ port, stagingRoom s port 1 = true) : PacketsQueued s (sendOwn s 30 h body) := by
  have hone {h' : List Byte} (e : h'.length = h.length) (vc : Nat) : (flitsOf vc (h' ++ body)).length = 1 := by
    refine flitsOf_length ?_ (by simpa [e] using hlen)
    intro hn
    rw [List.append_eq_nil_iff] at hn
    rw [hn.1] at e
    exact h0 (List.length_eq_zero_iff.1 e.symm)
  have hout {p vc : Nat} {h' : List Byte} {alt : Bool} (e : h'.length = h.length) (hr : routeOf s none 30 h = .out p vc h' alt) :
      PacketsQueued s (sendOwn s 30 h body) := by
    rw [sendOwn_eq, hr]
    dsimp only
    rw [if_neg (by rw [hone e, hroom]; decide)]
    exact (queued_alt ..).trans (queued_portSend ..)
  cases hp : primaryOf s (phDst h) with
  | some p => exact hout rfl (routeOf_primary (by omega) ha hp)
  | none =>
    have h1 : ¬ (decide (30 < 24) && !vcOwns s 30 h) = true := by simp
    have h2 : ¬ phAlt h = true := by simp [ha]
    cases ht : altOf s (phDst h) with
    | some p => exact hout (h' := setAlt h) (lset_length ..) (by rw [routeOf, if_neg h1, if_neg h2, hp, ht])
    | none =>
      rw [sendOwn_eq, show routeOf s none 30 h = .drop 3 by rw [routeOf, if_neg h1, if_neg h2, hp, ht]]
      exact queued_dropCount ..

/-! A digest message that has arrived (R518). -/

/-- Packets have left receive pools: of the links, what is sent is as it was. -/
structure PoolsLeft (s t : State) : Prop where
  eq : t = { s with links := t.links }
  txq : ∀ n, (lkGet t n).txq = (lkGet s n).txq
  st : ∀ n, (lkGet t n).st = (lkGet s n).st

theorem PoolsLeft.refl (s : State) : PoolsLeft s s := ⟨rfl, fun _ => rfl, fun _ => rfl⟩

theorem poolsLeft_rxDrop (s : State) (n vc id : Nat) : PoolsLeft s (rxDrop s n vc id) := by
  refine ⟨rfl, fun m => ?_, fun m => lkGet_rxDrop_st s n vc id m⟩
  unfold rxDrop
  dsimp only
  by_cases h : m = n
  · subst h
    rw [lkGet_lkPut_same]
    simp only [rxFree, rxSet]
    split <;> rfl
  · rw [lkGet_lkPut_other _ h]

theorem poolsLeft_digTaken (s : State) (msg : Nat) (m : DigMsg) : PoolsLeft s (digTaken s msg m) := by
  unfold digTaken
  dsimp only
  split
  · exact poolsLeft_rxDrop ..
  · exact .refl s

theorem PoolsLeft.calm (h : PoolsLeft s t) (hc : Calm s) : Calm t := by
  rw [h.eq]
  exact hc.of rfl rfl rfl rfl rfl rfl rfl

theorem PoolsLeft.rd (h : PoolsLeft s t) (r : Reg) : Machine.rd t r = Machine.rd s r := by rw [h.eq]; rfl

theorem PoolsLeft.primary (h : PoolsLeft s t) (d : Nat) : primaryOf t d = primaryOf s d := by
  rw [h.eq]
  rfl

theorem PoolsLeft.pick (h : PoolsLeft s t) (p : Nat) : pickLink t (portLive t p) = pickLink s (portLive s p) := by
  rw [portLive_congr (h.rd _) h.st, pickLink_congr _ h.txq]

theorem digReq_answers (hc : Calm s) {m : DigMsg} {port l : Nat} (hm : m.srcDev < 4096) (hp : primaryOf s m.srcDev = some port)
    (hl : pickLink s (portLive s port) = some l) (hroom : stagingRoom (digTaken (quiet s) 2 m) port 1 = true) {body : List Byte}
    (hb : body.length = 16) (e : digReq (quiet s) m = digSend (digTaken (quiet s) 2 m) 3 m.srcDev m.spart m.dpart m.coll m.epoch m.dir body) :
    Completes (.digReq m) s (fun u => ∃ h, (lkGet u l).txq = (lkGet s l).txq ++
      [⟨s.nextPkt, 30, flitsOf 30 (h ++ body), true, none, false, m.srcDev, some (linkSlice l), false⟩] ∧ phType h = 3 ∧ phDst h = m.srcDev) := by
  have hleft := poolsLeft_digTaken (quiet s) 2 m
  set t := digTaken (quiet s) 2 m with ht
  set h := digHdr t m.srcDev m.spart m.dpart 3 m.coll m.epoch m.dir with hh
  have hdst : phDst h = m.srcDev := phDst_mkHdr _ _ _ _ _ _ _ _ _ _ _ (by omega)
  have hlen : h.length = 32 := digHdr_length ..
  have hone : (flitsOf 30 (h ++ body)).length = 1 :=
    flitsOf_length (by intro hn; rw [List.append_eq_nil_iff] at hn; rw [hn.1] at hlen; simp at hlen) (by simp [hlen, hb])
  have hpick : pickLink t (portLive t port) = some l := (hleft.pick port).trans hl
  have hnext : t.nextPkt = s.nextPkt := by rw [hleft.eq]; rfl
  have hop : digReq (quiet s) m = lkMod { t with nextPkt := s.nextPkt + 1 } l (fun x => { x with txq := x.txq ++
      [⟨s.nextPkt, 30, flitsOf 30 (h ++ body), true, none, false, m.srcDev, some (linkSlice l), false⟩] }) := by
    rw [e, digSend_eq, sendOwn_management hdst (phAlt_mkHdr _ _ _ _ _ _ _ _ _ _ _ (by decide) (by decide)) ((hleft.primary _).trans hp) hpick
      (by rw [hone]; exact hroom), hnext]
    exact portSend_management hpick rfl
  refine completes_stkAll (f := fun x => digReq x m) hc ?_ fun u hf => ⟨h, ?_, phType_mkHdr _ _ _ _ _ _ _ _ _ _ _ (by decide), hdst⟩
  · rw [hop]
    exact (hleft.calm hc.quiet).of rfl rfl rfl rfl rfl rfl rfl
  · rw [hop] at hf
    rw [hf.lkGet, lkGet_lkMod_same]
    exact congrArg (· ++ _) (hleft.txq l)

/-! The digest check (R518). -/

def digRegs : List Reg := [R.stkDigResult, R.stkStatus, R.stkCmdStatus]

theorem counted_digResult (s : State) (v : Nat) : Counted (stkMod s (fun k => { k with digs := none })) (digResult s v) digRegs :=
  (((counted_wr ..).mono (by simp [digRegs])).trans ((counted_wrf _ R.stkStatus ..).mono (by simp [digRegs]))).trans
    ((counted_cmdEnd ..).mono (by simp [digRegs]))

theorem digResult_ends (s : State) (v : Nat) :
    (digResult s v).stk.digs = none ∧ rd (digResult s v) R.stkDigResult = v ∧ rdf (digResult s v) R.stkStatus 5 3 = 0 := by
  refine ⟨by rw [(counted_digResult s v).eq]; rfl, ?_, ?_⟩
  · rw [digResult, (counted_cmdEnd ..).regs _ (by decide), procSet, wrf, rd_wr_other _ (by decide), rd_wr_same]
  · rw [digResult, rdf, (counted_cmdEnd ..).regs _ (by decide), procSet, wrf, rd_wr_same, bits_setBits_same]
    rfl

theorem Calm.digResult (hc : Calm s) (v : Nat) : Calm (Machine.digResult s v) :=
  (counted_digResult s v).calm (hc.stkMod ⟨rfl, rfl, rfl, rfl⟩)

/-- A digest check in progress. -/
def digAsked (s : State) : State := procSet (cmdStat s true 5 0) 4

theorem counted_digAsked (s : State) : Counted s (digAsked s) digRegs :=
  ((counted_wr ..).mono (by simp [digRegs])).trans ((counted_wrf ..).mono (by simp [digRegs]))

/-- The entry that a word of STK_DIG_QUERY names. -/
def digEntry (s : State) (q : Nat) : Option (Nat × Nat × Nat) := digFind s (bits q 0 4) (bits q 8 8) (bits q 32 32) (bits q 4 1) (bits q 16 16)

theorem digCheck_none (hp : procFree s = true) (e : digEntry s (rd s R.stkDigQuery) = none) : digCheck s = digResult (digAsked s) 3 := by
  unfold digCheck
  rw [if_neg (by simp [hp])]
  dsimp only
  rw [digEntry] at e
  rw [e]
  rfl

/-- What the check waits for. -/
def digWaits (q n crc peer : Nat) : DigWait := ⟨some (n, crc), bits q 16 16, bits q 0 4, peer, bits q 8 8, bits q 32 32, 1 - bits q 4 1⟩

/-- A check that waits for the peer's digest. -/
def digWaiting (s : State) (w : DigWait) : State := wr (stkMod (digAsked s) (fun k => { k with digs := some w })) R.stkDigResult 0

theorem digCheck_some (hp : procFree s = true) {n crc peer : Nat} (e : digEntry s (rd s R.stkDigQuery) = some (n, crc, peer)) :
    let q := rd s R.stkDigQuery
    digCheck s = digSend (digWaiting s (digWaits q n crc peer)) 2 (bits q 16 16) peer (bits q 0 4) (bits q 8 8) (bits q 32 32) (1 - bits q 4 1)
      (List.replicate 16 0) := by
  unfold digCheck
  rw [if_neg (by simp [hp])]
  dsimp only
  rw [digEntry] at e
  rw [e]
  rfl

theorem counted_digWaiting (s : State) (w : DigWait) : Counted (stkMod s (fun k => { k with digs := some w })) (digWaiting s w) digRegs := by
  have h := counted_digAsked s
  refine .trans (t := stkMod (digAsked s) (fun k => { k with digs := some w })) ⟨?_, h.regs⟩ ((counted_wr ..).mono (by simp [digRegs]))
  rw [h.eq]
  rfl

theorem digWaiting_regs (s : State) (w : DigWait) :
    rd (digWaiting s w) R.stkDigResult = 0 ∧ rdf (digWaiting s w) R.stkStatus 5 3 = 4 ∧ (digWaiting s w).stk.digs = some w := by
  refine ⟨rd_wr_same .., ?_, by rw [(counted_digWaiting s w).eq]; rfl⟩
  rw [rdf, digWaiting, rd_wr_other _ (by decide)]
  show bits (rd (digAsked s) R.stkStatus) 5 3 = 4
  rw [digAsked, procSet, wrf, rd_wr_same, bits_setBits_same]
  rfl

theorem stagingRoom_congr {p k : Nat} (hl : t.links = s.links) (hr : rd t (R.lnkPortCfgP p) = rd s (R.lnkPortCfgP p)) :
    stagingRoom t p k = stagingRoom s p k := by
  have hk (m : Nat) : lkGet t m = lkGet s m := by simp only [lkGet, hl]
  have hlive : portLive t p = portLive s p := portLive_congr hr fun m => by rw [hk]
  have huse (sl : Nat) : stagingUse t sl = stagingUse s sl := by simp only [stagingUse, hl]
  have hpick : pickLink t (portLive s p) = pickLink s (portLive s p) := pickLink_congr _ fun m => by rw [hk]
  unfold stagingRoom
  rw [hlive, hpick]
  simp only [huse]

theorem portCfg_notDig (p : Nat) : (R.lnkPortCfgP p).addr ∉ digRegs.map Reg.addr := by
  simp only [digRegs, R.lnkPortCfgP, R.stkDigResult, R.stkStatus, R.stkCmdStatus, blkBase, List.map_cons, List.map_nil, List.mem_cons, List.not_mem_nil,
    or_false]
  omega

theorem digCheck_missing (hc : Calm s) (hp : procFree s = true) (e : digEntry s (rd s R.stkDigQuery) = none) :
    Completes .digCheck s (fun u => rd u R.stkDigResult = 3 ∧ u.stk.digs = none ∧ rdf u R.stkStatus 5 3 = 0) := by
  have hop : digCheck (quiet s) = digResult (digAsked (quiet s)) 3 := digCheck_none (s := quiet s) hp e
  refine completes_stkAll (f := digCheck) hc (by rw [hop]; exact ((counted_digAsked _).calm hc.quiet).digResult 3) fun u hf => ?_
  rw [hop] at hf
  obtain ⟨h1, h2, h3⟩ := digResult_ends (digAsked (quiet s)) 3
  exact ⟨by rw [hf.rd _ (by decide)]; exact h2, by rw [hf.stoker]; exact h1, by rw [rdf, hf.rd _ (by decide)]; exact h3⟩

theorem digCheck_asks (hc : Calm s) (hp : procFree s = true) {n crc peer : Nat} (e : digEntry s (rd s R.stkDigQuery) = some (n, crc, peer))
    (hroom : ∀ port, stagingRoom s port 1 = true) :
    Completes .digCheck s (fun u => rd u R.stkDigResult = 0 ∧ rdf u R.stkStatus 5 3 = 4 ∧
      u.stk.digs = some (digWaits (rd s R.stkDigQuery) n crc peer)) := by
  set w := digWaits (rd s R.stkDigQuery) n crc peer with hw
  obtain ⟨h, ha, hlen, hop'⟩ : ∃ h, phAlt h = false ∧ h.length = 32 ∧
      digCheck (quiet s) = sendOwn (digWaiting (quiet s) w) 30 h (List.replicate 16 0) :=
    ⟨digHdr _ _ _ _ _ _ _ _, phAlt_mkHdr _ _ _ _ _ _ _ _ _ _ _ (by decide) (by decide), digHdr_length ..,
      (digCheck_some (s := quiet s) hp e).trans (digSend_eq ..)⟩
  have hcnt := counted_digWaiting (quiet s) w
  obtain ⟨h1, h2, h3⟩ := digWaiting_regs (quiet s) w
  have hcalm : Calm (digWaiting (quiet s) w) := hcnt.calm (hc.quiet.stkMod ⟨rfl, rfl, rfl, rfl⟩)
  have hroom' (port : Nat) : stagingRoom (digWaiting (quiet s) w) port 1 = true := by
    rw [stagingRoom_congr (s := s) (by rw [hcnt.eq]; rfl) (hcnt.regs _ (portCfg_notDig port))]
    exact hroom port
  have hq : PacketsQueued (digWaiting (quiet s) w) (sendOwn (digWaiting (quiet s) w) 30 h (List.replicate 16 0)) :=
    queued_management ha (by intro h0; rw [h0] at hlen; simp at hlen) (by simp [hlen]) hroom'
  generalize digWaiting (quiet s) w = t at *
  generalize sendOwn t 30 h (List.replicate 16 0) = v at *
  refine completes_stkAll (f := digCheck) hc (by rw [hop']; exact hq.moved.calm hcalm) fun u hf => ?_
  rw [hop'] at hf
  have hreg {r : Reg} (hn : r.addr ∉ noteRegs) (ht : ¬ TrafficReg r.addr) : rd u r = rd t r := by rw [hf.rd _ hn, hq.moved.regs _ ht]
  refine ⟨by rw [hreg (by decide) (by unfold TrafficReg; decide)]; exact h1, by rw [rdf, hreg (by decide) (by unfold TrafficReg; decide)]; exact h2, ?_⟩
  rw [hf.stoker, hq.moved.eq]
  exact h3

theorem digResult_completes {c : Instr} {f : State → State} {t : State} {v : Nat} (hc : Calm s) (ht : Calm t) (hx : exec c s = act f s ∨ exec c s = actStk f s)
    (e : f (quiet s) = digResult t v) : Completes c s (fun u => u.stk.digs = none ∧ rd u R.stkDigResult = v) := by
  obtain ⟨h1, h2, -⟩ := digResult_ends t v
  have hv : Calm (f (quiet s)) := by rw [e]; exact ht.digResult v
  have hP (u : State) (hf : Follows s.pending (f (quiet s)) u) : u.stk.digs = none ∧ rd u R.stkDigResult = v := by
    rw [e] at hf
    exact ⟨by rw [hf.stoker]; exact h1, by rw [hf.rd _ (by decide)]; exact h2⟩
  rcases hx with hx | hx
  · exact Exists.imp (fun u h => ⟨hx.trans h.1, h.2⟩) (completes_all hc hv hP)
  · exact Exists.imp (fun u h => ⟨hx.trans h.1, h.2⟩) (completes_stkAll hc hv hP)

theorem digReplyTimeout_ends (hc : Calm s) {w : DigWait} (hw : s.stk.digs = some w) :
    Completes .digReplyTimeout s (fun u => u.stk.digs = none ∧ rd u R.stkDigResult = 4) :=
  digResult_completes (f := digReplyTimeout) hc hc.quiet (.inl rfl) (if_pos (by rw [show (quiet s).stk.digs = some w from hw]; rfl))

theorem digReply_eq {w : DigWait} (hw : s.stk.digs = some w) {m : DigMsg} (h1 : m.srcDev = w.dev) (h2 : m.coll = w.coll) (h3 : m.epoch = w.epoch)
    (n crc : Nat) : digReply s m n crc =
      if n = 0 && crc = 0 then digResult (digTaken s 3 m) 3 else if w.entry = some (n, crc) then digResult (digTaken s 3 m) 1
      else ashWrite (unitLog (digResult (digTaken s 3 m) 2) 6 0 w.part 0 0) 2 6 0 0 w.part false := by
  unfold digReply
  dsimp only
  rw [hw]
  exact if_neg (by simp [h1, h2, h3])

theorem digReply_ends (hc : Calm s) {w : DigWait} (hw : s.stk.digs = some w) {m : DigMsg} (h1 : m.srcDev = w.dev) (h2 : m.coll = w.coll)
    (h3 : m.epoch = w.epoch) (n crc : W64) :
    Completes (.digReply m n crc) s (fun u => u.stk.digs = none ∧ rd u R.stkDigResult =
      if n = 0 ∧ crc = 0 then 3 else if w.entry = some (n.toNat, crc.toNat) then 1 else 2) := by
  have e := digReply_eq (s := quiet s) hw h1 h2 h3 n.toNat crc.toNat
  have hct : Calm (digTaken (quiet s) 3 m) := (poolsLeft_digTaken ..).calm hc.quiet
  have hzero : (decide (n.toNat = 0) && decide (crc.toNat = 0)) = decide (n = 0 ∧ crc = 0) := by
    rw [← Bool.decide_and]
    refine decide_eq_decide.2 ?_
    rw [← BitVec.toNat_inj, ← BitVec.toNat_inj]
    rfl
  rw [hzero] at e
  by_cases h0 : n = 0 ∧ crc = 0
  · rw [if_pos (by simpa using h0)] at e
    simp only [if_pos h0]
    exact digResult_completes (f := fun t => digReply t m n.toNat crc.toNat) hc hct (.inr rfl) e
  · rw [if_neg (by simpa using h0)] at e
    simp only [if_neg h0]
    by_cases hent : w.entry = some (n.toNat, crc.toNat)
    · rw [if_pos hent] at e
      simp only [if_pos hent]
      exact digResult_completes (f := fun t => digReply t m n.toNat crc.toNat) hc hct (.inr rfl) e
    · rw [if_neg hent] at e
      simp only [if_neg hent]
      have hrec : Records (digResult (digTaken (quiet s) 3 m) 2) _ [R.errUnitLog, R.errUnitCount, R.stkAshHead] :=
        ((records_unitLog _ 6 0 w.part 0 0).mono (by simp)).trans ((records_ashWrite _ 2 6 0 0 w.part false).mono (by simp))
      obtain ⟨k1, k2, -⟩ := digResult_ends (digTaken (quiet s) 3 m) 2
      refine completes_stkAll (f := fun t => digReply t m n.toNat crc.toNat) hc (by rw [e]; exact hrec.calm (hct.digResult 2)) fun u hf => ?_
      rw [e] at hf
      refine ⟨?_, ?_⟩
      · rw [hf.stoker, hrec.kept.stk]
        exact k1
      · rw [hf.rd _ (by decide), hrec.kept.regs _ (by decide) (by decide)]
        exact k2

/-! Error injection (R578). -/

theorem errInject_armed (hc : Calm s) {v : W64} (h0 : bit v.toNat 0 = true) (hcap : bit (rd s R.errCap) 31 = true)
    (hok : injOk (bits v.toNat 1 3) (bits v.toNat 8 8) = true) :
    Completes (.errInjectArm v) s (fun u => rd u R.errInject = bits v.toNat 0 4 + 256 * bits v.toNat 8 24 ∧ SameRegs s u [R.errInject]) := by
  have e : errInjectArm (quiet s) v.toNat = wr (quiet s) R.errInject (bits v.toNat 0 4 + fieldAt 8 24 (bits v.toNat 8 24)) :=
    if_neg (by rw [rd_quiet, h0, hcap, hok]; decide)
  have hcnt := counted_wr (quiet s) R.errInject (bits v.toNat 0 4 + fieldAt 8 24 (bits v.toNat 8 24))
  refine completes_stkAll (f := fun t => errInjectArm t v.toNat) hc (by rw [e]; exact hcnt.calm hc.quiet) fun u hf => ?_
  rw [e] at hf
  refine ⟨?_, .intro hf (by rw [hcnt.eq]; rfl) hcnt.regs⟩
  rw [hf.rd _ (by decide), rd_wr_same]
  have h : bits v.toNat 8 24 < 2 ^ 24 := bits_lt ..
  simp only [fieldAt, Nat.shiftLeft_eq]
  omega

theorem errInject_refused (hc : Calm s) {v : W64} (h0 : bit v.toNat 0 = true)
    (h : bit (rd s R.errCap) 31 = false ∨ injOk (bits v.toNat 1 3) (bits v.toNat 8 8) = false) : Leads (.errInjectArm v) s (quiet s) := by
  refine lead_stkAll (f := fun t => errInjectArm t v.toNat) hc (if_pos ?_) hc.quiet
  rw [rd_quiet, h0]
  rcases h with h | h <;> simp [h]

/-! A suspect runs (R515). -/

/-- A suspect may run: the procedure of its partition waits, none of its tasks runs, no stack retrains, and the device has not tripped. -/
structure MayRun (s : State) (p : Nat) (ready : Bool) (t : Task) (l : List Task) : Prop where
  calm : Calm { s with stk := { s.stk with susp := none } }
  susp : s.stk.susp = some ⟨p, none, ready⟩
  held : heldTasks s p = t :: l
  idle : partRuns s p = false
  whole : retrainHold s = false
  cool : s.stk.trip = false

theorem MayRun.quiet {p : Nat} {ready : Bool} {t : Task} {l : List Task} (h : MayRun s p ready t l) : MayRun (quiet s) p ready t l :=
  ⟨h.calm.of rfl rfl rfl rfl rfl rfl h.calm.free.symm, h.susp, h.held, h.idle, h.whole, h.cool⟩

section
variable {p : Nat} {ready : Bool} {t : Task} {l : List Task}

theorem MayRun.guard (h : MayRun s p ready t l) :
    ¬ (decide ((⟨p, none, ready⟩ : Suspects).part ≠ p) || (⟨p, none, ready⟩ : Suspects).run.isSome || partRuns s p || retrainHold s || s.stk.trip) = true := by
  simp [h.idle, h.whole, h.cool]

theorem MayRun.sole (h : MayRun s p false t l) {k : Nat} (hs : (partHearths s p).filter (suspectIdle s) = [k]) (h1 : soleHearth s p = true) :
    suspectRun s p = hearthReset s k := by
  unfold suspectRun
  rw [h.susp, h.held]
  dsimp only
  rw [if_neg h.guard, hs]
  exact (if_pos h1).trans (if_neg Bool.false_ne_true)

theorem MayRun.several (h : MayRun s p ready t l) {a b k : Nat} {r : List Nat} (hs : (partHearths s p).filter (suspectIdle s) = a :: b :: r)
    (hk : (a :: b :: r).find? (· ≠ (t.sus.map (·.1)).getD t.hearth) = some k) : suspectRun s p = suspectGo s p k t := by
  unfold suspectRun
  rw [h.susp, h.held]
  dsimp only
  rw [if_neg h.guard, hs]
  dsimp only
  rw [hk]

/-- A suspect has been started alone. -/
def suspectStarted (w : State) (p id h : Nat) : State := stkBump (stkMod w (fun k => { k with susp := some ⟨p, some (id, h), false⟩ })) R.stkSuspectRuns

theorem suspectGo_starts {h : Nat} {lst : Option (List Nat)} {pl : Option (Nat × Plan)} {w1 w2 w3 : State} {k : TaskRun}
    (hl : hlistOf (unbind s h) p t = (lst, w1)) (hp : suspectPlan w1 p t = (pl, w2))
    (hfit : fitsHearth w2 p h (suspectHandles lst pl).1 = true)
    (hb : bindOn w2 p h t (suspectHandles lst pl).1 (suspectHandles lst pl).2 (pl.map (·.2)) = w3) (hn : (hget w3 h).next = some k) (hid : k.id = t.id) :
    suspectGo s p h t = suspectStarted (startRun w3 h k) p t.id h := by
  unfold suspectGo
  rw [hl]
  dsimp only
  rw [hp]
  dsimp only
  rw [if_neg (by simp [hfit]), hb, hn]
  exact if_neg (by simp [hid])
/-- What follows from a command whose end is that of the suspect procedure. -/
theorem ends_suspectDone (s : State) (hr : v.stk.phase = .run) (ha : v.dueAborts = []) (hf : v.dueHrt = []) (hag : suspectAgain v = v)
    (hd : Calm (suspectSettle v false)) : ∃ u, ends s v = .next u ∧ Follows s.pending (suspectSettle v false) u := by
  have e : settle v = settle (suspectSettle v false) := by
    rw [settle, if_pos hr, settle, if_pos hd.run, settleRun_suspects ha hf hag hd.unl, settleRun_still hd.still]
  have h := ends_calm s hd
  rw [ends, ← e, ← ends] at h
  exact h

theorem suspectAgain_waits (hs : s.stk.susp = some ⟨p, none, ready⟩) : suspectAgain s = s := by simp [suspectAgain, hs]

theorem suspectSettle_last (hs : s.stk.susp = some ⟨p, none, ready⟩) (hh : heldTasks s p = []) :
    suspectSettle s false = ashWrite (procSet (wrf (stkMod s (fun k => { k with susp := none })) (R.grfCtrl p) 3 1 0) 0) 2
      (unitKind (procSet (wrf (stkMod s (fun k => { k with susp := none })) (R.grfCtrl p) 3 1 0) 0)) 0 0 p false := by
  rw [suspectSettle, hs]
  exact (if_neg Bool.false_ne_true).trans ((if_pos (by rw [hh]; rfl)).trans (if_neg Bool.false_ne_true))

/-- Where no hearth is running a suspect, what follows from a command of the suspect procedure leaves every hearth as it is. -/
theorem ends_suspectWaits (s : State) (hc : Calm { v with stk := { v.stk with susp := none } }) (hs : v.stk.susp = some ⟨p, none, ready⟩) :
    ∃ u, ends s v = .next u ∧ u.hearths = v.hearths := by
  by_cases hh : heldTasks v p = []
  · have hlast := suspectSettle_last hs hh
    have hcnt : Counted (stkMod v (fun k => { k with susp := none })) (procSet (wrf (stkMod v (fun k => { k with susp := none })) (R.grfCtrl p) 3 1 0) 0)
        [R.grfCtrl p, R.stkStatus] := ((counted_wrf ..).mono (by simp)).trans ((counted_wrf ..).mono (by simp))
    have hrec := (hcnt.records.mono (qs := [R.grfCtrl p, R.stkStatus, R.stkAshHead]) (by simp)).trans
      ((records_ashWrite _ 2 (unitKind (procSet (wrf (stkMod v (fun k => { k with susp := none })) (R.grfCtrl p) 3 1 0) 0)) 0 0 p false).mono (by simp))
    rw [← hlast] at hrec
    obtain ⟨u, hu, hf⟩ := ends_suspectDone (v := v) s hc.run hc.aborts hc.faults (suspectAgain_waits hs) (hrec.calm hc)
    exact ⟨u, hu, by rw [hf.eq]; exact hrec.hearths⟩
  · obtain ⟨u, hu, hf⟩ := ends_poised s (Poised.suspects hc hs (.inl ⟨rfl, hh⟩))
    exact ⟨u, hu, by rw [hf.eq]⟩

theorem suspectRun_resets (hp : p < 16) (h : MayRun s p false t l) {k : Nat} (hs : (partHearths s p).filter (suspectIdle s) = [k])
    (h1 : soleHearth s p = true) : Completes (.suspectRun p) s (fun u => (hget u k).inReset = true) := by
  have hidle : suspectIdle s k = true := (List.mem_filter.1 (hs ▸ List.mem_singleton_self k)).2
  simp only [suspectIdle, Bool.and_eq_true, Bool.not_eq_true', Option.isNone_iff_eq_none] at hidle
  obtain ⟨⟨⟨⟨⟨hcur, hdrain⟩, hreset⟩, -⟩, -⟩, -⟩ := hidle
  have e : suspectRun (Machine.quiet s) p = hearthReset (Machine.quiet s) k := h.quiet.sole hs h1
  have hin : InReset (Machine.quiet s) (hearthReset (Machine.quiet s) k) k := hearthReset_inReset (s := Machine.quiet s) hreset
  have hdue := hin.due ⟨hcur, hdrain⟩
  generalize hearthReset (Machine.quiet s) k = v at *
  have hq := h.quiet
  have hstk := hin.kept.stk
  have hc : Calm { v with stk := { v.stk with susp := none } } := by
    have hcalm : Calm (stkMod (Machine.quiet s) (fun x => { x with susp := none })) := hq.calm
    have hk : Recovers (stkMod (Machine.quiet s) (fun x => { x with susp := none })) { v with stk := { v.stk with susp := none } } [R.stkHrtResets] :=
      ⟨by rw [hin.kept.eq]; rfl, by rw [hstk]; rfl, hin.kept.regs⟩
    exact hk.calm hcalm (hdue.trans hq.calm.faults)
  obtain ⟨u, hu, hh⟩ := ends_suspectWaits s hc (by rw [hstk]; exact hq.susp)
  refine ⟨u, ?_, ?_⟩
  · show actStk (only (p < 16) fun x => suspectRun x p) s = .next u
    rw [actStk, if_pos ⟨h.calm.run, h.calm.here⟩, only, if_pos hp, e, hu]
  · show (hget u k).inReset = true
    rw [hget_congr hh, hin.hearth.inReset]
    rfl

theorem stk_startRun (s : State) (h : Nat) (n : TaskRun) : (startRun s h n).stk = s.stk := by
  have hbump (x : State) (z : Bool) (r : Reg) (k w : Nat) : (bump x z r k w).stk = x.stk := by rw [(counted_bump ..).eq]
  unfold startRun
  extract_lets x mine sp src run src2 vec x1 x2 g s1 s2 s3
  have h1 : s1.stk = s.stk := by
    simp only [s1]
    split
    · rfl
    · rw [hbump, hbump]
      rfl
  have h3 : s3.stk = s.stk := by
    simp only [s3]
    split <;> exact h1
  split <;> exact h3

theorem counted_suspectStarted (w : State) (p id h : Nat) :
    Counted (stkMod w (fun k => { k with susp := some ⟨p, some (id, h), false⟩ })) (suspectStarted w p id h) [R.stkSuspectRuns] :=
  counted_bump _ false R.stkSuspectRuns 1 48

theorem poised_suspectStarted {w : State} {x : Stoker} (hc : Calm { w with stk := { x with susp := none } }) (hx : w.stk = x) {id k : Nat}
    (hr : suspectRuns w p id k = true) : Poised (suspectStarted w p id k) := by
  have e := (counted_suspectStarted w p id k).eq
  refine .suspects (p := p) (run := some (id, k)) (ready := false) ?_ (by rw [e]; rfl) (.inr ⟨id, k, rfl, ?_⟩)
  · rw [e]
    subst hx
    exact hc.of rfl rfl rfl rfl rfl rfl rfl
  · rw [e]
    exact hr

theorem suspectRun_starts (hp : p < 16) (h : MayRun s p ready t l) {a b k : Nat} {r : List Nat} {lst : Option (List Nat)} {pl : Option (Nat × Plan)}
    {w1 w2 w3 : State} {n : TaskRun} (hs : (partHearths s p).filter (suspectIdle s) = a :: b :: r)
    (hk : ((partHearths s p).filter (suspectIdle s)).find? (· ≠ (t.sus.map (·.1)).getD t.hearth) = some k)
    (hl : hlistOf (unbind (Machine.quiet s) k) p t = (lst, w1)) (hpl : suspectPlan w1 p t = (pl, w2))
    (hfit : fitsHearth w2 p k (suspectHandles lst pl).1 = true)
    (hb : bindOn w2 p k t (suspectHandles lst pl).1 (suspectHandles lst pl).2 (pl.map (·.2)) = w3) (hn : (hget w3 k).next = some n) (hid : n.id = t.id)
    (hc : Calm { startRun w3 k n with stk := { s.stk with susp := none } }) (hstk : w3.stk = s.stk)
    (hr : suspectRuns (startRun w3 k n) p t.id k = true) :
    Completes (.suspectRun p) s (fun u => u.stk.susp = some ⟨p, some (t.id, k), false⟩ ∧ u.hearths = (startRun w3 k n).hearths ∧
      u.graphs = (startRun w3 k n).graphs) := by
  have hop : suspectRun (Machine.quiet s) p = suspectGo (Machine.quiet s) p k t := h.quiet.several hs (by rw [← hs]; exact hk)
  rw [suspectGo_starts hl hpl hfit hb hn hid] at hop
  have hv := poised_suspectStarted hc ((stk_startRun ..).trans hstk) hr
  have e := (counted_suspectStarted (startRun w3 k n) p t.id k).eq
  refine completes_poised (f := only (p < 16) fun x => suspectRun x p) h.calm.run h.calm.here ((if_pos hp).trans hop) hv fun u hf => ⟨?_, ?_, ?_⟩
  · rw [hf.stoker, e]
    rfl
  · rw [hf.eq]
    show (suspectStarted (startRun w3 k n) p t.id k).hearths = _
    rw [e]
    rfl
  · rw [hf.eq]
    show (suspectStarted (startRun w3 k n) p t.id k).graphs = _
    rw [e]
    rfl
end

end

/-- Settles O53: a procedure that goes on leaves the device poised (`ends_poised`), so each command has its effect and no more; a digest message takes the
primary port of its destination (`sendOwn_management`), and a suspect is reset or started alone by the branch of `suspectRun` that its partition's idle
hearths choose (`MayRun.sole`, `MayRun.several`). -/
theorem proceduresRun : Obligations.ProceduresRun := by
  unfold Obligations.ProceduresRun
  refine ⟨fun s hc => ⟨?_, ?_, ?_, ?_, ?_, ?_, ?_, ?_⟩, ?_⟩
  · exact fun p hp hh => suspectStart_starts hc hp hh
  · exact fun c w m h2 hp e => fwSwitch_switches hc h2 hp e
  · exact fun c w k h2 hp e => fwSwitch_refused hc h2 hp e
  · exact fun c ht h2 => ⟨fwOkSet_confirms hc ht h2, fwTrialTimeout_goesBack hc ht⟩
  · exact fun hp => ⟨fun e => digCheck_missing hc hp e, fun n crc peer e hroom => digCheck_asks hc hp e hroom⟩
  · intro m port l hm hp hl hroom e
    have hlen (r : Option (Nat × Nat × Nat)) :
        (match r with | some (n, crc, _) => beBytes 8 n ++ beBytes 8 crc | none => List.replicate 16 0).length = 16 := by
      rcases r with _ | ⟨n, crc, d⟩
      · rfl
      · simp [beBytes_length]
    exact digReq_answers hc hm hp hl hroom (hlen e) rfl
  · exact fun w hw => ⟨fun m n crc h1 h2 h3 => digReply_ends hc hw h1 h2 h3 n crc, digReplyTimeout_ends hc hw⟩
  · exact fun v h0 => ⟨fun hcap hok => errInject_armed hc h0 hcap hok, fun h => errInject_refused hc h0 h⟩
  · intro s p ready t l hp hc hs hh hi hw ht
    have h : MayRun s p ready t l := ⟨hc, hs, hh, hi, hw, ht⟩
    refine ⟨?_, ?_⟩
    · rintro k hk h1 rfl
      exact suspectRun_resets hp h hk h1
    · intro k a b r lst w1 w2 w3 pl n hk hfind hl hpl es hfit hb hn hid hstk w hcw hr
      exact suspectRun_starts hp h hk hfind hl hpl hfit hb hn hid hcw hstk hr
end Sys2Proof.Machine

/-!
SUPPORT and proof for the faults of a device (R512): a write that names a partition no device has is served by a warm reset, and counted in a log.
-/

namespace Sys2Proof.Machine

/-! A write of a partition that no device has: its refusal is counted where ERR_DEV_LOG lies (R197, R526). -/

/-- A partition number whose CHM_PART_DENY of slice 0 has the address of ERR_DEV_LOG. -/
def farPart : Nat := 0x2BFF80

theorem farPart_deny : R.chmPartDenyP 0 farPart = R.errDevLog := by decide

/-- A write of one byte for that partition. -/
def farWrite : MReq :=
  { h := 0, id := 0, wr := true, hint := false, part := farPart, pa := 0, len := 1, data := [0], alloc := true, mcast := 0, k := 0, eng := 0, own := 0,
    replay := false, due := false, t0 := 0 }

/-- A slice that holds nothing but `n` such writes. -/
def farSlice (n : Nat) : Slice := { Slice.empty with reqs := List.replicate n farWrite }

section
variable {s t : State} {n : Nat}

theorem takeFor_farSlice (hx : slGet t 0 = farSlice n) (hq : chmQuota t 0 farPart = 0) (a : Nat) : takeFor t 0 farPart a = (none, none) := by
  unfold takeFor takeLine
  rw [hx, hq]
  rfl

theorem wrPass_farSlice (hx : slGet t 0 = farSlice n) {w : HbmWr} (hwq : (pcGet t (hbmLoc t.hbm.dead w.pa).k (hbmLoc t.hbm.dead w.pa).p).wq = []) :
    wrPass t 0 w ⟨none, 0⟩ = .ok (wqPush t 0 w, ⟨some (w.pa + w.data.length), 1⟩) := by
  have hroom : wqRoom t w.pa = true := by simp [wqRoom, hwq]
  unfold wrPass
  dsimp only
  rw [hx, hwq, hroom]
  rfl

/-- The byte of the write, as it passes on to the controller. -/
def farByte (t : State) : HbmWr := ⟨0, [0], keySer t farPart 0, false, farPart, true⟩

theorem writeLines_farSlice (hx : slGet t 0 = farSlice n) (hq : chmQuota t 0 farPart = 0)
    (hwq : (pcGet t (hbmLoc t.hbm.dead 0).k (hbmLoc t.hbm.dead 0).p).wq = []) :
    writeLines t 0 farWrite [0] [] false ⟨none, 0⟩ = .ok (wqPush t 0 (farByte t), [], true) := by
  have hpass := wrPass_farSlice hx (w := farByte t) hwq
  have hpart : linePart farWrite.pa farWrite.data 0 = (0, [0]) := by decide
  have hfind : lineFind (slGet t 0) farWrite.part 0 = none := by rw [hx]; rfl
  unfold writeLines
  dsimp only
  rw [hfind, hpart]
  dsimp only
  rw [if_neg (by decide), show takeFor t 0 farWrite.part 0 = (none, none) from takeFor_farSlice hx hq 0]
  dsimp only
  rw [show wrPass t 0 ⟨256 * 0 + 0, [0], keySer t farWrite.part farWrite.k, false, farWrite.part, true⟩ ⟨none, 0⟩ = _ from hpass]
  rfl

/-- What the slice makes of the first of its writes. -/
def farServed (t : State) : State :=
  respond (chmBump (chmBump (served (wqPush t 0 (farByte t)) 0 0 false) 0 (R.chmBytesUp 0) 1 64) 0 R.errDevLog 1) farWrite []

theorem chmWrite_farSlice (hx : slGet t 0 = farSlice (n + 1)) (hq : chmQuota t 0 farPart = 0) (hs : paServes t 0 = true)
    (hwq : (pcGet t (hbmLoc t.hbm.dead 0).k (hbmLoc t.hbm.dead 0).p).wq = []) : chmWrite t 0 0 = farServed t := by
  have hreq : lget (slGet t 0).reqs 0 = some farWrite := by rw [hx]; rfl
  have hlines : reqLines farWrite.pa farWrite.len = [0] := by decide
  have hblocked : lineBlocked (slGet t 0) 0 farWrite = false := by rw [hx]; rfl
  have hdue : dueWaits t 0 0 farWrite = false := by
    unfold dueWaits
    rw [hx, List.any_eq_false]
    rintro ⟨q, i⟩ hm
    have hfar : q = farWrite := List.eq_of_mem_replicate (List.fst_mem_of_mem_zipIdx hm)
    simp [hfar, farWrite]
  have habsent : ([0] : List Nat).filter (fun a => (lineFind (slGet t 0) farWrite.part a).isNone) = [0] := by rw [hx]; rfl
  unfold chmWrite
  dsimp only
  rw [hreq]
  dsimp only
  rw [hblocked, hdue, hlines, habsent, if_neg (by decide), show paServes t farWrite.pa = true from hs, if_neg (by decide),
    writeLines_farSlice hx hq hwq]
  dsimp only
  rw [show R.chmPartDenyP 0 farWrite.part = R.errDevLog from farPart_deny]
  exact if_pos rfl

/-! Every queued write of HBM is made (R245). -/

/-- A register outside the block of the memory controllers. -/
def OffMem (r : Reg) : Prop := r.addr < blkBase .mem 0 ∨ blkBase .lnk 0 ≤ r.addr

/-- Of HBM, its faulty positions and its stacks are as they were, and so are the slices and the registers outside the memory controllers. -/
structure StacksKept (s t : State) : Prop where
  served : MemoryServed s t
  keeps : ∀ r : Reg, OffMem r → rd t r = rd s r
  dead : t.hbm.dead = s.hbm.dead
  stk : t.hbm.stk = s.hbm.stk
  slices : t.slices = s.slices

theorem StacksKept.refl (s : State) : StacksKept s s := ⟨.refl s, fun _ _ => rfl, rfl, rfl, rfl⟩

theorem StacksKept.trans {u : State} (h : StacksKept s t) (k : StacksKept t u) : StacksKept s u :=
  ⟨h.served.trans k.served, fun r hr => (k.keeps r hr).trans (h.keeps r hr), k.dead.trans h.dead, k.stk.trans h.stk, k.slices.trans h.slices⟩

theorem StacksKept.foldl {α : Type} {f : State → α → State} (hf : ∀ a w, StacksKept w (f w a)) (l : List α) (s : State) : StacksKept s (l.foldl f s) := by
  induction l generalizing s with
  | nil => exact .refl s
  | cons a l ih => exact (hf a s).trans (ih _)

theorem offMem_ne {k a rst : Nat} (hk : k < 20) (ha : a < 0x10000) {q : Reg} (hq : OffMem q) : q.addr ≠ (⟨blkBase .mem k + a, rst⟩ : Reg).addr := by
  simp only [OffMem, blkBase] at hq ⊢
  omega

theorem stacksKept_pcPut (s : State) (k p : Nat) (x : PsCh) : StacksKept s (pcPut s k p x) := ⟨rfl, fun _ _ => rfl, rfl, rfl, rfl⟩

theorem stacksKept_memBump (s : State) {k a rst : Nat} (hk : k < 20) (ha : a < 0x10000) (n w : Nat) :
    StacksKept s (memBump s k ⟨blkBase .mem k + a, rst⟩ n w) :=
  ⟨memoryServed_memBump .., fun _ hr => rd_bump_other _ _ (offMem_ne hk ha hr) _ _, by rw [hbm_memBump], by rw [hbm_memBump], slices_memBump ..⟩

theorem stacksKept_memErr (s : State) (pa kind : Nat) (part : Option Nat) (src : Nat) : StacksKept s (memErr s pa kind part src) := by
  have hk := hbmLoc_k_lt s.hbm.dead pa
  have h := accessNoted_memErr s pa kind part src
  exact ⟨h.served, fun _ hr => rd_logErr_other _ (offMem_ne hk (by decide) hr) (offMem_ne hk (by decide) hr) _, by rw [h.eq], by rw [h.eq], by rw [h.eq]⟩

theorem stacksKept_fenceAccess (s : State) (pa : Nat) (part : Option Nat) (src : Nat) : StacksKept s (fenceAccess s pa part src) := by
  unfold fenceAccess
  dsimp only
  split_ifs
  · exact .refl s
  · exact (stacksKept_pcPut ..).trans (stacksKept_memErr ..)

theorem stacksKept_ueGranule (s : State) (pa : Nat) : StacksKept s (ueGranule s pa) := by
  unfold ueGranule
  dsimp only
  split_ifs
  · exact .refl s
  · exact stacksKept_pcPut ..

theorem stacksKept_memUe (s : State) (pa : Nat) (part : Option Nat) (src : Nat) : StacksKept s (memUe s pa part src) := by
  have hp := hbmLoc_p_lt s.hbm.dead pa
  have hcount : StacksKept s (memBump s (hbmLoc s.hbm.dead pa).k (R.memUeCountP (hbmLoc s.hbm.dead pa).k (hbmLoc s.hbm.dead pa).p) 1) := by
    unfold R.memUeCountP
    rw [Nat.add_assoc]
    exact stacksKept_memBump s (hbmLoc_k_lt ..) (by omega) 1 48
  exact hcount.trans ((stacksKept_memErr ..).trans (stacksKept_ueGranule ..))

theorem stacksKept_mergeReads (s : State) (w : HbmWr) (words : List Nat) : StacksKept s (mergeReads s w words).2 :=
  (StacksKept.foldl (fun _ t => stacksKept_memUe t _ _ _) _ s).trans (.foldl (fun _ t => stacksKept_memErr t _ _ _ _) _ _)

theorem hbApply_stacks (hb : Hbm) (fresh : Nat) (w : HbmWr) :
    (hbApply hb fresh w).1.dead = hb.dead ∧ (hbApply hb fresh w).1.stk = hb.stk := by
  obtain ⟨m, t, h⟩ := blocksPut_frame hb fresh w.key w.pa w.data (w.data.length / 16 + 2)
  simp only [hbApply, h, and_self]

theorem stacksKept_hbmApplyWr (s : State) (w : HbmWr) : StacksKept s (hbmApplyWr s w) := by
  unfold hbmApplyWr
  dsimp only
  split
  · exact stacksKept_fenceAccess ..
  · have hm := stacksKept_mergeReads s w (wordsPart w.pa w.data.length)
    refine hm.trans (.trans ?_ (stacksKept_memBump _ (hbmLoc_k_lt ..) (by decide) _ _))
    exact ⟨rfl, fun _ _ => rfl, (hbApply_stacks ..).1, (hbApply_stacks ..).2, rfl⟩

theorem stacksKept_hbmPop (s : State) (k p : Nat) : StacksKept s (hbmPop s k p) := by
  unfold hbmPop
  dsimp only
  split
  · exact .refl s
  · exact (stacksKept_pcPut ..).trans (stacksKept_hbmApplyWr ..)

theorem stacksKept_hbmDrain (s : State) (k p m : Nat) : StacksKept s (hbmDrain s k p m) := by
  induction m generalizing s with
  | zero => exact .refl s
  | succ m ih => exact (stacksKept_hbmPop ..).trans (ih _)

theorem stacksKept_hbmFlush (s : State) : StacksKept s (hbmFlush s) := by
  unfold hbmFlush
  generalize s.hbm.pcs = l
  induction l generalizing s with
  | nil => exact .refl s
  | cons e l ih => exact (stacksKept_hbmDrain ..).trans (ih _)

/-- The writes that wait at the pseudo-channel with key `c`. -/
def wqAt (s : State) (c : Nat) : List HbmWr := (tgetD s.hbm.pcs c .idle).wq

theorem pcKey_div (c : Nat) : pcKey (c / 32) (c % 32) = c := by
  simp only [pcKey]
  omega

theorem wqAt_hbmPop (s : State) (k p c : Nat) : wqAt (hbmPop s k p) c = if c = pcKey k p then (wqAt s c).tail else wqAt s c := by
  have h := wq_hbmPop s k p (c / 32) (c % 32)
  rw [pcKey_div] at h
  simp only [pcGet, pcKey_div] at h
  split_ifs at h ⊢ with hc
  · rw [hc] at h ⊢
    exact h
  · exact h

theorem wqAt_hbmDrain (s : State) (k p m c : Nat) : wqAt (hbmDrain s k p m) c = if c = pcKey k p then (wqAt s c).drop m else wqAt s c := by
  induction m generalizing s with
  | zero => simp [hbmDrain]
  | succ m ih =>
    rw [hbmDrain, ih, wqAt_hbmPop]
    split_ifs
    · exact List.drop_tail
    · rfl

/-- The writes of the pseudo-channels of a table are made. -/
def flushed (l : Tbl PsCh) (s : State) : State := l.foldl (fun t e => hbmDrain t (e.1 / 32) (e.1 % 32) e.2.wq.length) s

theorem wqAt_flushed_empty (l : Tbl PsCh) (c : Nat) (h : wqAt s c = []) : wqAt (flushed l s) c = [] := by
  induction l generalizing s with
  | nil => exact h
  | cons e l ih =>
    refine ih (s := hbmDrain s (e.1 / 32) (e.1 % 32) e.2.wq.length) ?_
    rw [wqAt_hbmDrain, h]
    simp

theorem wqAt_flushed {l : Tbl PsCh} {c : Nat} {x : PsCh} (h : tget l c = some x) (hx : (wqAt s c).length ≤ x.wq.length) : wqAt (flushed l s) c = [] := by
  induction l generalizing s with
  | nil => cases h
  | cons e l ih =>
    by_cases he : e.1 = c
    · obtain rfl : e.2 = x := by simpa [tget, he] using h
      refine wqAt_flushed_empty l c (s := hbmDrain s (e.1 / 32) (e.1 % 32) e.2.wq.length) ?_
      rw [wqAt_hbmDrain, pcKey_div, if_pos he.symm, List.drop_eq_nil_iff]
      exact hx
    · refine ih (s := hbmDrain s (e.1 / 32) (e.1 % 32) e.2.wq.length) (by simpa [tget, he] using h) ?_
      rw [wqAt_hbmDrain, pcKey_div, if_neg (Ne.symm he)]
      exact hx

theorem wqAt_hbmFlush (s : State) (c : Nat) : wqAt (hbmFlush s) c = [] := by
  cases h : tget s.hbm.pcs c with
  | none => exact wqAt_flushed_empty s.hbm.pcs c (by rw [wqAt, tgetD, h]; rfl)
  | some x => exact wqAt_flushed h (by rw [wqAt, tgetD, h]; exact le_refl _)

/-! The slice serves its writes one after another. -/

/-- What the slice's writes meet: no quota, a stack that serves, no counter frozen, and HBM's queues. -/
structure Denying (n : Nat) (t : State) : Prop where
  slice : slGet t 0 = farSlice n
  other : ∀ j, j ≠ 0 → slGet t j = Slice.empty
  quota : rd t (R.chmPartQuotaP 0 farPart) = 0
  count : bit (rd t (R.chmCtrl 0)) 0 = false
  serves : paServes t 0 = true

theorem Denying.kept (h : Denying n s) (hs : t.slices = s.slices) (hr : ∀ r : Reg, r = R.chmPartQuotaP 0 farPart ∨ r = R.chmCtrl 0 → rd t r = rd s r)
    (hd : t.hbm.dead = s.hbm.dead) (hk : t.hbm.stk = s.hbm.stk) : Denying n t := by
  refine ⟨?_, fun j hj => ?_, ?_, ?_, ?_⟩
  · rw [slGet_congr hs, h.slice]
  · rw [slGet_congr hs, h.other j hj]
  · rw [hr _ (.inl rfl), h.quota]
  · rw [hr _ (.inr rfl), h.count]
  · have hp := h.serves
    simp only [paServes, stkServes, stkGet, hd, hk] at hp ⊢
    exact hp

theorem Denying.flush (h : Denying n t) : Denying n (hbmFlush t) := by
  have hk := stacksKept_hbmFlush t
  refine h.kept hk.slices (fun r hr => hk.keeps r ?_) hk.dead hk.stk
  rcases hr with rfl | rfl
  · unfold OffMem; decide
  · unfold OffMem; decide

theorem Denying.chmBump (h : Denying n t) {r : Reg} (hr : r.addr ≠ (R.chmPartQuotaP 0 farPart).addr ∧ r.addr ≠ (R.chmCtrl 0).addr) (k w : Nat) :
    Denying n (Machine.chmBump t 0 r k w) := by
  have e := (counted_bump t (bit (rd t (R.chmCtrl 0)) 0) r k w).eq
  refine h.kept (by rw [Machine.chmBump, e]) (fun q hq => ?_) (by rw [Machine.chmBump, e]) (by rw [Machine.chmBump, e])
  rcases hq with rfl | rfl
  · exact rd_bump_other _ _ (Ne.symm hr.1) _ _
  · exact rd_bump_other _ _ (Ne.symm hr.2) _ _

theorem Denying.taken (h : Denying (n + 1) t) : Denying n (slMod t 0 (fun x => { x with reqs := ldel x.reqs 0 })) := by
  refine ⟨?_, fun j hj => ?_, h.quota, h.count, h.serves⟩
  · rw [slMod, slGet_slPut_same, h.slice]
    rfl
  · rw [slMod, slGet_slPut_other _ hj, h.other j hj]

/-- The first of the slice's writes, taken out of its queue and passed on to a pseudo-channel. -/
def farPassed (t : State) (k p : Nat) (x : PsCh) : State :=
  chmBump (chmBump (slMod (chmBump (pcPut t k p x) 0 (R.chmBytesHbmWr 0) 1 64) 0 (fun x => { x with reqs := ldel x.reqs 0 })) 0 (R.chmMisses 0) 1) 0
    (R.chmBytesUp 0) 1 64

theorem farServed_eq (t : State) : ∃ k p x, farServed t = respond (chmBump (farPassed t k p x) 0 R.errDevLog 1) farWrite [] := ⟨_, _, _, rfl⟩

theorem Denying.passed (h : Denying (n + 1) t) (k p : Nat) (x : PsCh) : Denying n (farPassed t k p x) := by
  have h0 : Denying (n + 1) (pcPut t k p x) := h.kept rfl (fun _ _ => rfl) rfl rfl
  have h1 := h0.chmBump (r := R.chmBytesHbmWr 0) (by decide) 1 64
  have h2 := h1.taken.chmBump (r := R.chmMisses 0) (by decide) 1 48
  exact h2.chmBump (r := R.chmBytesUp 0) (by decide) 1 64

theorem served_farPassed (t : State) (k p : Nat) (x : PsCh) :
    MemoryServed t (farPassed t k p x) ∧ rd (farPassed t k p x) R.errDevLog = rd t R.errDevLog := by
  refine ⟨?_, ?_⟩
  · have h1 : MemoryServed t (chmBump (pcPut t k p x) 0 (R.chmBytesHbmWr 0) 1 64) := (memoryServed_pcPut ..).trans (memoryServed_chmBump ..)
    have h2 : MemoryServed _ (slMod (chmBump (pcPut t k p x) 0 (R.chmBytesHbmWr 0) 1 64) 0 (fun x => { x with reqs := ldel x.reqs 0 })) := rfl
    exact ((h1.trans h2).trans (memoryServed_chmBump ..)).trans (memoryServed_chmBump ..)
  · unfold farPassed
    rw [chmBump, rd_bump_other _ _ (by decide), chmBump, rd_bump_other _ _ (by decide)]
    show rd (chmBump (pcPut t k p x) 0 (R.chmBytesHbmWr 0) 1 64) R.errDevLog = _
    rw [chmBump, rd_bump_other _ _ (by decide)]
    rfl

/-- One more write is refused its line: ERR_DEV_LOG counts it. -/
theorem Denying.serve (h : Denying (n + 1) t) (hwq : ∀ c, wqAt t c = []) :
    Denying n (chmWrite t 0 0) ∧ MemoryServed t (chmWrite t 0 0) ∧ rd (chmWrite t 0 0) R.errDevLog = (rd t R.errDevLog + 1) % 2 ^ 48 := by
  have e : chmWrite t 0 0 = farServed t := chmWrite_farSlice h.slice (by rw [chmQuota, h.quota]; rfl) h.serves (hwq _)
  obtain ⟨k, p, x, e'⟩ := farServed_eq t
  have hp := h.passed k p x
  obtain ⟨hm, hr⟩ := served_farPassed t k p x
  rw [e, e']
  generalize farPassed t k p x = w at hp hm hr
  refine ⟨?_, ?_, ?_⟩
  · refine (hp.chmBump (r := R.errDevLog) (by decide) 1 48).kept ?_ (fun q _ => rd_respond ..) ?_ ?_
    all_goals
      obtain ⟨f, hf⟩ := respond_hmod (Machine.chmBump w 0 R.errDevLog 1) farWrite []
      rw [hf]
      rfl
  · exact (hm.trans (memoryServed_chmBump ..)).trans (memoryServed_respond ..)
  · rw [rd_respond, Machine.chmBump, rd_bump_same, if_neg (by rw [hp.count]; decide), hr]

theorem Denying.round (h : Denying (n + 1) t) :
    Denying n (fillsEnd (chmWrite (hbmFlush t) 0 0) 0) ∧ MemoryServed t (fillsEnd (chmWrite (hbmFlush t) 0 0) 0) ∧
      rd (fillsEnd (chmWrite (hbmFlush t) 0 0) 0) R.errDevLog = (rd t R.errDevLog + 1) % 2 ^ 48 := by
  have hk := stacksKept_hbmFlush t
  obtain ⟨h1, h2, h3⟩ := h.flush.serve (wqAt_hbmFlush t)
  have e : fillsEnd (chmWrite (hbmFlush t) 0 0) 0 = chmWrite (hbmFlush t) 0 0 := by
    unfold fillsEnd
    rw [h1.slice]
    rfl
  rw [e]
  exact ⟨h1, hk.served.trans h2, by rw [h3, hk.keeps _ (by unfold OffMem; decide)]⟩

theorem Denying.rounds (l : List MReq) (h : Denying l.length t) :
    let v := l.foldl (fun t _ => fillsEnd (chmWrite (hbmFlush t) 0 0) 0) t
    Denying 0 v ∧ MemoryServed t v ∧ (l ≠ [] → rd v R.errDevLog = (rd t R.errDevLog + l.length) % 2 ^ 48) := by
  induction l generalizing t with
  | nil => exact ⟨h, .refl t, fun hn => absurd rfl hn⟩
  | cons q l ih =>
    obtain ⟨h1, h2, h3⟩ := h.round
    obtain ⟨k1, k2, k3⟩ := ih h1
    refine ⟨k1, h2.trans k2, fun _ => ?_⟩
    cases l with
    | nil => exact h3
    | cons q' l =>
      refine (k3 (by simp)).trans ?_
      rw [h3]
      simp only [List.length_cons]
      omega
/-! The warm reset of a device whose slice 0 holds such writes (R245, R503). -/

/-- A device at rest, with one of these writes after another at slice 0. -/
structure FarRest (s : State) : Prop where
  service : s.stk.service = none
  susp : s.stk.susp = none
  trial : s.stk.trial = none
  flash : s.stk.flashRun = none
  trains : ∀ k, k < 20 → bit (rd s (R.memTrain k)) 1 = false
  hearths : s.hearths = []
  awake : s.hbm.stk = []
  parts : s.parts = []
  qps : dataQps s = []
  on : bit s.stk.slices 0 = true
  deny : Denying 255 s

theorem retrainDrop_none (h : ∀ k, k < 20 → bit (rd s (R.memTrain k)) 1 = false) : retrainDrop s = s := by
  have hl (l : List Nat) (hl : ∀ k ∈ l, k < 20) : l.foldl (fun s k => if bit (rd s (R.memTrain k)) 1 then
      let s1 := wr s (R.memTrain k) 0
      if (stkGet s1 k).st = 3 || (stkGet s1 k).st = 4 then stkPut s1 k { stkGet s1 k with st := 2 } else s1
    else s) s = s := by
    induction l with
    | nil => rfl
    | cons k l ih =>
      rw [List.foldl_cons, if_neg (by rw [h k (hl k (by simp))]; decide)]
      exact ih fun j hj => hl j (.tail _ hj)
  exact hl _ fun k hk => List.mem_range.1 hk

theorem trialBack_none (h : s.stk.trial = none) : trialBack s = s := by simp only [trialBack, h]

/-- Where no procedure is under way, the end of the procedures is noted in the Stoker's status alone. -/
theorem counted_lowerDrop (h1 : s.stk.service = none) (h2 : s.stk.trial = none) (h3 : ∀ k, k < 20 → bit (rd s (R.memTrain k)) 1 = false) :
    Counted (stkMod s (fun k => { k with digs := none })) (lowerDrop s) [R.stkStatus, R.stkCmdStatus] := by
  have e : trialBack (retrainDrop (stkMod s (fun k => { k with digs := none }))) = stkMod s (fun k => { k with digs := none }) := by
    rw [retrainDrop_none (s := stkMod s _) h3]
    exact trialBack_none (s := stkMod s _) h2
  unfold lowerDrop
  rw [h1]
  dsimp only
  rw [e]
  refine .trans ?_ ((counted_wrf ..).mono (by simp))
  split
  · exact (counted_cmdEnd ..).mono (by simp)
  · exact .refl ..

theorem stacksWake_none (h : s.hbm.stk = []) : stacksWake s = s := by
  unfold stacksWake
  generalize List.range 20 = l
  have hst (k : Nat) : stkGet s k = Stack.serving := by rw [stkGet, h]; rfl
  induction l with
  | nil => rfl
  | cons k l ih =>
    rw [List.foldl_cons, if_neg (by rw [hst]; decide)]
    exact ih

theorem tasksStop_none (h : s.hearths = []) : tasksStop s = s := by
  unfold tasksStop
  rw [h]
  rfl

/-- The device when its slices' writes are to be served. -/
theorem FarRest.ready (h : FarRest s) : stacksWake (tasksStop (lowerDrop (suspectDrop s))) = lowerDrop s ∧
    Counted (stkMod s (fun k => { k with digs := none })) (lowerDrop s) [R.stkStatus, R.stkCmdStatus] := by
  have hd : suspectDrop s = s := by simp only [suspectDrop, h.susp]
  have hcnt := counted_lowerDrop h.service h.trial h.trains
  have h1 : (lowerDrop s).hearths = [] := by rw [hcnt.eq]; exact h.hearths
  have h2 : (lowerDrop s).hbm.stk = [] := by rw [hcnt.eq]; exact h.awake
  exact ⟨by rw [hd, tasksStop_none h1, stacksWake_none h2], hcnt⟩

theorem Denying.filtered (h : Denying n t) :
    Denying n (slMod t 0 (fun x => { x with reqs := x.reqs.filter MReq.wr, waits := x.waits.filter (fun w => w.req.wr) })) := by
  refine ⟨?_, fun j hj => ?_, h.quota, h.count, h.serves⟩
  · rw [slMod, slGet_slPut_same, h.slice]
    simp [farSlice, Slice.empty, farWrite]
  · rw [slMod, slGet_slPut_other _ hj, h.other j hj]

/-- The slice's writes are served: ERR_DEV_LOG has counted each of them. -/
theorem Denying.writesEnd (h : Denying n t) (hn : n ≠ 0) (hon : bit t.stk.slices 0 = true) :
    MemoryServed t (Machine.writesEnd t 0) ∧ rd (Machine.writesEnd t 0) R.errDevLog = (rd t R.errDevLog + n) % 2 ^ 48 ∧
      ∀ j, j ≠ 0 → slGet (Machine.writesEnd t 0) j = Slice.empty := by
  have hf := h.filtered
  have hfills : fillsEnd (slMod t 0 (fun x => { x with reqs := x.reqs.filter MReq.wr, waits := x.waits.filter (fun w => w.req.wr) })) 0 =
      slMod t 0 (fun x => { x with reqs := x.reqs.filter MReq.wr, waits := x.waits.filter (fun w => w.req.wr) }) := by
    unfold fillsEnd
    rw [hf.slice]
    rfl
  have hreqs : (slGet (slMod t 0 (fun x => { x with reqs := x.reqs.filter MReq.wr, waits := x.waits.filter (fun w => w.req.wr) })) 0).reqs =
      List.replicate n farWrite := by
    rw [hf.slice]
    rfl
  have e : Machine.writesEnd t 0 = slMod ((List.replicate n farWrite).foldl (fun t _ => fillsEnd (chmWrite (hbmFlush t) 0 0) 0)
      (slMod t 0 (fun x => { x with reqs := x.reqs.filter MReq.wr, waits := x.waits.filter (fun w => w.req.wr) }))) 0
      (fun x => { x with reqs := [], waits := [] }) := by
    unfold Machine.writesEnd
    rw [hon]
    refine (if_neg (by decide)).trans ?_
    dsimp only
    rw [hfills, hreqs]
  obtain ⟨h1, h2, h3⟩ := Denying.rounds (List.replicate n farWrite) (by rw [List.length_replicate]; exact hf)
  rw [e]
  refine ⟨?_, ?_, fun j hj => ?_⟩
  · exact MemoryServed.trans (t := slMod t 0 _) rfl (h2.trans rfl)
  · refine (h3 (by simpa using hn)).trans ?_
    rw [List.length_replicate]
    rfl
  · rw [slMod, slGet_slPut_other _ hj]
    exact h1.other j hj

theorem slGet_slMod_empty {j : Nat} (h : slGet s j = Slice.empty) {f : Slice → Slice} (hf : f Slice.empty = Slice.empty) (i : Nat) :
    slGet (slMod s j f) i = slGet s i := by
  by_cases hi : i = j
  · subst hi
    rw [slMod, slGet_slPut_same, h, hf]
  · rw [slMod, slGet_slPut_other _ hi]

/-- A slice that holds nothing has no write to serve. -/
theorem writesEnd_empty {j : Nat} (h : slGet s j = Slice.empty) :
    MemoryServed s (writesEnd s j) ∧ (∀ r, rd (writesEnd s j) r = rd s r) ∧ ∀ i, slGet (writesEnd s j) i = slGet s i := by
  by_cases hon : bit s.stk.slices j = true
  · have e : writesEnd s j = slMod (slMod s j (fun x => { x with reqs := x.reqs.filter MReq.wr, waits := x.waits.filter (fun w => w.req.wr) })) j
        (fun x => { x with reqs := [], waits := [] }) := by
      have hx := slGet_slMod_empty h (f := fun x => { x with reqs := x.reqs.filter MReq.wr, waits := x.waits.filter (fun w => w.req.wr) }) rfl j
      rw [h] at hx
      unfold writesEnd
      rw [hon]
      refine (if_neg (by decide)).trans ?_
      dsimp only
      generalize slMod s j (fun x => { x with reqs := x.reqs.filter MReq.wr, waits := x.waits.filter (fun w => w.req.wr) }) = t at hx ⊢
      have hfills : fillsEnd t j = t := by
        unfold fillsEnd
        rw [hx]
        rfl
      rw [hfills, hx]
      rfl
    rw [e]
    have h1 := slGet_slMod_empty h (f := fun x => { x with reqs := x.reqs.filter MReq.wr, waits := x.waits.filter (fun w => w.req.wr) }) rfl
    exact ⟨rfl, fun _ => rfl, fun i => (slGet_slMod_empty ((h1 j).trans h) (f := fun x => { x with reqs := [], waits := [] }) rfl i).trans (h1 i)⟩
  · have e : writesEnd s j = slMod s j (fun x => { x with reqs := [], waits := [], fills := [] }) := by
      unfold writesEnd
      exact if_pos (by simpa using hon)
    rw [e]
    exact ⟨rfl, fun _ => rfl, slGet_slMod_empty h rfl⟩
/-- The slices' writes are served before the warm reset, and slice 0 has counted each of its own. -/
theorem Denying.allWrites (h : Denying n t) (hn : n ≠ 0) (hon : bit t.stk.slices 0 = true) :
    MemoryServed t ([0, 1, 2, 3].foldl Machine.writesEnd t) ∧
      rd ([0, 1, 2, 3].foldl Machine.writesEnd t) R.errDevLog = (rd t R.errDevLog + n) % 2 ^ 48 := by
  obtain ⟨hm, hr, he⟩ := h.writesEnd hn hon
  obtain ⟨m1, r1, k1⟩ := writesEnd_empty (he 1 (by decide))
  obtain ⟨m2, r2, k2⟩ := writesEnd_empty ((k1 2).trans (he 2 (by decide)))
  obtain ⟨m3, r3, -⟩ := writesEnd_empty ((k2 3).trans ((k1 3).trans (he 3 (by decide))))
  exact ⟨((hm.trans m1).trans m2).trans m3, (r3 _).trans ((r2 _).trans ((r1 _).trans hr))⟩

/-- Procedures ended, tasks and queues stopped, and the update units of formed partitions stopped: steps 1 and 2 of a warm reset. -/
def warmStopped (s : State) : State :=
  let s1 := [0, 1, 2, 3].foldl writesEnd (stacksWake (tasksStop (lowerDrop (suspectDrop s))))
  (List.range 16).foldl (fun t p => if prtFormed t p then xltStop t p else t) ((dataQps s1).foldl qpReset s1)

/-- The slices of a device whose tasks and queues have stopped are flushed. -/
def flushBegin (s : State) : State :=
  [0, 1, 2, 3].foldl (fun t sl => if bit t.stk.slices sl then slMod t sl (fun x => { x with flush := true }) else t) s

theorem rd_flushBegin (s : State) (r : Reg) : rd (flushBegin s) r = rd s r := by
  unfold flushBegin
  generalize [0, 1, 2, 3] = l
  induction l generalizing s with
  | nil => rfl
  | cons j l ih =>
    rw [List.foldl_cons, ih]
    split <;> rfl

theorem rd_warmBegin (s : State) (start : Nat) (remap : Bool) {r : Reg} (hr : r.addr ≠ R.stkStatus.addr) :
    rd (warmBegin s start remap true) r = rd (flashAbort (warmStopped s)) r := by
  rw [← rd_flushBegin (flashAbort (warmStopped s))]
  unfold Machine.warmBegin
  extract_lets s1 s2 s3 s4
  have h4 : s4 = s3 := if_pos rfl
  show rd (stkState (stkMod s4 (fun k => { k with phase := .warm, warmRun := some (start, remap), tested := none, trip := false })) 3) r = rd s3 r
  rw [stkState, wrf, rd_wr_other _ hr, h4]
  rfl

/-- Where no partition is formed and no data queue pair is in use, a warm reset's first steps serve the slices' writes and no more. -/
theorem warmStopped_eq {t : State} (hm : MemoryServed t ([0, 1, 2, 3].foldl writesEnd t))
    (hx : stacksWake (tasksStop (lowerDrop (suspectDrop s))) = t) (hp : t.parts = []) (hq : dataQps t = []) :
    warmStopped s = [0, 1, 2, 3].foldl writesEnd t := by
  have hparts : ([0, 1, 2, 3].foldl writesEnd t).parts = [] := by rw [hm]; exact hp
  have hqps : dataQps ([0, 1, 2, 3].foldl writesEnd t) = [] := by
    rw [dataQps, show ([0, 1, 2, 3].foldl writesEnd t).qps = t.qps by rw [hm]]
    exact hq
  unfold warmStopped
  rw [hx]
  generalize [0, 1, 2, 3].foldl writesEnd t = v at hparts hqps ⊢
  dsimp only
  rw [hqps, List.foldl_nil]
  generalize List.range 16 = l
  induction l with
  | nil => rfl
  | cons p l ih =>
    rw [List.foldl_cons, if_neg (by rw [prtFormed, hparts]; exact Bool.false_ne_true)]
    exact ih

/-- The warm reset of such a device: ERR_DEV_LOG has counted the writes. -/
theorem FarRest.warmBegin (h : FarRest s) : rd (Machine.warmBegin s 3 false true) R.errDevLog = (rd s R.errDevLog + 255) % 2 ^ 48 := by
  obtain ⟨hx, hcnt⟩ := h.ready
  have hd : Denying 255 (lowerDrop s) := by
    refine h.deny.kept (by rw [hcnt.eq]; rfl) (fun r hr => ?_) (by rw [hcnt.eq]; rfl) (by rw [hcnt.eq]; rfl)
    rcases hr with rfl | rfl
    · exact hcnt.regs _ (by decide)
    · exact hcnt.regs _ (by decide)
  obtain ⟨hm, hr⟩ := hd.allWrites (by decide) (by rw [hcnt.eq]; exact h.on)
  have hstop := warmStopped_eq hm hx (by rw [hcnt.eq]; exact h.parts) (by rw [dataQps, hcnt.eq]; exact h.qps)
  have hflash : flashAbort (warmStopped s) = warmStopped s := by
    have hf : (warmStopped s).stk.flashRun = none := by
      rw [hstop, show ([0, 1, 2, 3].foldl writesEnd (lowerDrop s)).stk = (lowerDrop s).stk by rw [hm], hcnt.eq]
      exact h.flash
    simp only [flashAbort, hf]
  rw [rd_warmBegin s 3 false (by decide), hflash, hstop, hr, hcnt.regs _ (by decide)]
  rfl
/-! The device of the refutation. -/

theorem denying_farSlice {n : Nat} (hs : s.slices = [(0, farSlice n)]) (hc : s.csr = [(0x6800000, 0)]) (hk : s.hbm.stk = []) :
    Denying n s := by
  refine ⟨by rw [slGet, hs]; rfl, fun j hj => ?_, by rw [rd, hc]; rfl, by rw [rd, hc]; rfl, ?_⟩
  · rw [slGet, hs, tgetD, tget, if_neg (Ne.symm hj)]
    rfl
  · have hst (k : Nat) : stkGet s k = Stack.serving := by rw [stkGet, hk]; rfl
    rw [paServes, stkServes, hst]
    rfl

/-- A record of the Stoker changes registers, the records and the flash. -/
theorem ashWrite_frame (s : State) (cls cause action inst part : Nat) (restart : Bool) :
    ∃ c k n, ashWrite s cls cause action inst part restart = { s with csr := c, stk := k, fresh := n } := by
  unfold ashWrite
  extract_lets seq slot b s1 s2 s3
  have h3 : ∃ c k n, s3 = { s with csr := c, stk := k, fresh := n } := by
    simp only [s3]
    split <;> exact ⟨_, _, _, rfl⟩
  obtain ⟨c, k, n, h3⟩ := h3
  split
  · exact ⟨_, _, _, by rw [h3]; rfl⟩
  · exact ⟨_, _, _, h3⟩
end

/-- A device that serves, with 255 writes of that partition at slice 0. -/
def farState : State := { State.reset with csr := [(0x6800000, 0)], slices := [(0, farSlice 255)] }

theorem calm_farState : Calm farState := calm_reset.of rfl rfl rfl rfl rfl rfl rfl

/-- Its logs are clear, and no stack trains. -/
theorem rd_farState (a : Nat) : rd farState ⟨a, 0⟩ = 0 := by
  show (tget [(0x6800000, 0)] a).getD 0 = 0
  unfold tget
  split <;> rfl

theorem atRest_farState : AtRest farState where
  formed _ := rfl
  tasks _ := ⟨rfl, rfl⟩
  qps := rfl
  trains k := by
    rw [R.memTrain, rd_farState]
    rfl
  trial := rfl
  flash := rfl

/-- A bridge of that device has failed. -/
def farFailed : State := stkMod (quiet farState) (fun k => { k with bridges := setBits k.bridges 0 1 0 })

/-- The fault is recorded. -/
def farFault : State := ashWrite (devLog farFailed 2 0 0) 3 2 3 0 255 false

theorem bridgeFailure_farState : bridgeFailure (quiet farState) 0 = warmBegin farFault 3 false true := by
  unfold bridgeFailure devFault
  rfl

theorem farFault_records : Records farFailed farFault [R.errDevLog, R.errDevCount, R.stkAshHead] :=
  ((counted_logErr ..).records.mono (by simp)).trans ((records_ashWrite _ 3 2 3 0 255 false).mono (by simp))

theorem farFault_frame : ∃ c k n, farFault = { farFailed with csr := c, stk := k, fresh := n } := by
  obtain ⟨c, k, n, h⟩ := ashWrite_frame (devLog farFailed 2 0 0) 3 2 3 0 255 false
  exact ⟨c, k, n, by rw [farFault, h, devLog, logErr_eq]⟩

theorem farFault_log : rd farFault R.errDevLog = 2 ^ 48 + 0x201 := by
  have h := records_ashWrite (devLog farFailed 2 0 0) 3 2 3 0 255 false
  have hlog : rd farFailed R.errDevLog = 0 := rd_farState _
  have hseq : ashSeq farFailed = 0 := by
    rw [ashSeq, rdf, show rd farFailed R.stkAshHead = 0 from rd_farState _]
    rfl
  rw [farFault, h.kept.regs _ (by decide) (by decide), devLog, rd_logErr_first (by decide) (by rw [hlog]; rfl), hseq]
  rfl

theorem farRest_farFault : FarRest farFault := by
  have hrec := farFault_records
  obtain ⟨c, k, n, hframe⟩ := farFault_frame
  have hstk := hrec.kept.stk
  have hdeny : Denying 255 farFailed := denying_farSlice rfl rfl rfl
  refine ⟨by rw [hstk]; rfl, by rw [hstk]; rfl, by rw [hstk]; rfl, by rw [hstk]; rfl, fun j hj => ?_, by rw [hframe]; rfl, by rw [hframe]; rfl,
    by rw [hframe]; rfl, by rw [hframe]; rfl, by rw [hstk]; rfl, hdeny.kept (by rw [hframe]) (fun r hr => ?_) (by rw [hframe]) (by rw [hframe])⟩
  · rw [hrec.kept.regs _ (by simp only [R.memTrain, blkBase]; omega), show rd farFailed (R.memTrain j) = 0 from rd_farState _]
    · rfl
    · simp only [R.memTrain, R.errDevLog, R.errDevCount, R.stkAshHead, blkBase, List.map_cons, List.map_nil, List.mem_cons, List.not_mem_nil, or_false]
      omega
  · rcases hr with rfl | rfl
    · exact hrec.kept.regs _ (by decide) (by decide)
    · exact hrec.kept.regs _ (by decide) (by decide)

theorem warmBegin_warm (s : State) (start : Nat) (remap noted : Bool) :
    (warmBegin s start remap noted).stk.phase ≠ .run ∧ (warmBegin s start remap noted).held = false := by
  unfold warmBegin
  extract_lets s1 s2 s3 s4
  exact ⟨by show Phase.warm ≠ .run; decide, rfl⟩

/-- Refutes O52: a write of a partition that no device has, whose refusal is counted where ERR_DEV_LOG lies, is served by the warm reset of a device at rest;
255 of them carry into KIND. -/
theorem not_deviceFaultsReset : ¬ Obligations.DeviceFaultsReset := by
  unfold Obligations.DeviceFaultsReset
  intro ob
  obtain ⟨-, hbridge, -⟩ := ob.1 farState calm_farState
  obtain ⟨u, hu, -, hlogged⟩ := hbridge 0 (by decide)
  obtain ⟨⟨-, hlog⟩, -⟩ := hlogged atRest_farState
  obtain ⟨hkind, -⟩ := hlog (by rw [show rd farState R.errDevLog = 0 from rd_farState _]; rfl)
  obtain ⟨hphase, hheld⟩ := warmBegin_warm farFault 3 false true
  have hrun : exec (.bridgeFailure 0) farState = .next { warmBegin farFault 3 false true with dueAborts := [], dueHrt := [], pending := farState.pending } := by
    show actAny (only (0 < 6) fun t => bridgeFailure t 0) farState = _
    rw [actAny, only, if_pos (by decide), bridgeFailure_farState]
    exact ends_stopped hphase hheld farState
  have hcsr : u.csr = (warmBegin farFault 3 false true).csr := by rw [← Host.Outcome.next.inj (hrun.symm.trans hu)]
  have hrd : rd u R.errDevLog = (rd farFault R.errDevLog + 255) % 2 ^ 48 := by
    rw [← farRest_farFault.warmBegin, rd, rd, hcsr]
  rw [rdf, hrd, farFault_log] at hkind
  exact absurd hkind (by decide)

end Sys2Proof.Machine

/-!
SUPPORT and refutation for the requests of the host. R427 counts the pending records of every queue pair, and the model lets a bad graph command wait
while 64 of them are pending. On the management queue pair such a command is answered by a message, not a record, but the model makes it wait all
the same: with 64 records pending there, which the statement does not exclude, the command stays in the queue.
-/

namespace Sys2Proof.Machine

/-- A device as it serves after reset, but with 64 records pending on the management queue pair. -/
def crowded : State := { State.reset with qps := [(1024, { QPair.reset with recs := List.replicate 64 ⟨0, 0, 0, 0, 0, 0, 0, 0, 0, 0, 0, none, none⟩ })] }

/-- A SEND of 16 bytes with the OP of GRAPH_SUBMIT, which is bad on the management queue pair. -/
def badSend : List Byte := 16 :: List.replicate 15 0

theorem calm_crowded : Calm crowded := calm_reset.of rfl rfl rfl rfl rfl rfl rfl

theorem hears_crowded : Hears crowded 1024 where
  up := rfl
  inj := by decide
  pool := by decide
  ce := by unfold NoCe; decide
  prio := by decide

theorem sends_crowded : Sends crowded 1024 := ⟨by decide, by decide, by decide, by decide⟩

/-- The device once it has taken the message. -/
def crowdedSent : State := sendRx (quiet crowded) 1024 badSend false

/-- The command waits. -/
theorem cmds_crowdedSent : (qpGet crowdedSent 1024).cmds ≠ [] := by decide

theorem calm_crowdedSent : Calm crowdedSent :=
  calm_crowded.of (by decide) (by decide) (by decide) (by decide) (by decide) (by decide) (by decide)

/-- Refutes O45: on a management queue pair with 64 records pending a SEND with the OP of a graph command is acknowledged but not answered BAD_CMD. -/
theorem not_hostRequests : ¬ Obligations.HostRequests := by
  unfold Obligations.HostRequests
  intro h
  obtain ⟨hheard, -⟩ := h crowded 1024 calm_crowded (by decide) (by decide) (by decide)
  obtain ⟨hsend, -⟩ := hheard hears_crowded
  obtain ⟨htaken, -, -⟩ := hsend badSend (by decide)
  obtain ⟨-, hbad⟩ := htaken (by decide) (by decide) (by decide)
  obtain ⟨hanswer, -⟩ := hbad (by decide) (by decide)
  obtain ⟨t, ht, -, hcmds, -⟩ := hanswer sends_crowded (.inl rfl)
  obtain ⟨u, hu, hf⟩ := completes_act (c := 1024 ≤ 1024) (f := fun w => sendRx w 1024 badSend false) (P := Follows [] crowdedSent)
    calm_crowded (le_refl _) calm_crowdedSent fun _ hf => hf
  obtain rfl : u = t := by
    have he : exec (.send 1024 badSend false) crowded = .next u := hu
    rw [ht] at he
    injection he with he
    exact he.symm
  have hq : qpGet u 1024 = qpGet crowdedSent 1024 := by rw [hf.eq]; rfl
  rw [hq] at hcmds
  exact cmds_crowdedSent hcmds

end Sys2Proof.Machine

/-!
SUPPORT: the collective engine's accesses to partition memory (R389, R577). They leave the collective entries, the messages that wait for them, and the
count of late contributions as they are, and so do the flows that send.
-/

namespace Sys2Proof.Machine

/-- A register outside the collective engine's block. -/
def OffEngine (r : Reg) : Prop := r.addr < blkBase .col 0 ∨ blkBase .hst 0 ≤ r.addr

theorem OffEngine.ne_late {r : Reg} (h : OffEngine r) : R.colLate.addr ≠ r.addr := fun e =>
  absurd (show OffEngine R.colLate by rw [OffEngine, e]; exact h) (by unfold OffEngine; decide)

/-- From `s` to `t` memory of partition `p` is served: the collective entries, their messages and COL_LATE are as they were. -/
structure EntriesKept (p : Nat) (s t : State) : Prop where
  cols : t.cols = s.cols
  colIn : t.colIn = s.colIn
  late : p < 16 → rd t R.colLate = rd s R.colLate

section
variable {p : Nat} {s t u : State}

theorem EntriesKept.refl (s : State) : EntriesKept p s s := ⟨rfl, rfl, fun _ => rfl⟩

theorem EntriesKept.trans (h : EntriesKept p s t) (k : EntriesKept p t u) : EntriesKept p s u :=
  ⟨k.cols.trans h.cols, k.colIn.trans h.colIn, fun hp => (k.late hp).trans (h.late hp)⟩

theorem EntriesKept.foldl {α : Type} {f : State → α → State} (hf : ∀ t a, EntriesKept p t (f t a)) (l : List α) (s : State) :
    EntriesKept p s (l.foldl f s) := by
  induction l generalizing s with
  | nil => exact .refl s
  | cons a l ih => exact (hf s a).trans (ih (f s a))

theorem offEngine_meterReg {r : Reg} (h : MeterReg r) : OffEngine r := by
  rcases h with ⟨h, -⟩ | ⟨h, -⟩ | ⟨h, -⟩
  · exact .inl (lt_of_lt_of_le h (by decide))
  · exact .inr (le_trans (by decide) h)
  · exact .inr (le_trans (by decide) h)

theorem AgentServed.entriesKept (h : AgentServed s t) (k : AgentKeeps s t) : EntriesKept p s t :=
  ⟨by rw [h.eq], by rw [h.eq], fun _ => k.kept _ fun hm => absurd (offEngine_meterReg hm) (by unfold OffEngine; decide)⟩

variable (s)

theorem entriesKept_wr {r : Reg} (hr : p < 16 → R.colLate.addr ≠ r.addr) (v : Nat) : EntriesKept p s (wr s r v) :=
  ⟨rfl, rfl, fun hp => rd_wr_other s (hr hp) v⟩

theorem entriesKept_bump {r : Reg} (hr : p < 16 → R.colLate.addr ≠ r.addr) (z : Bool) (n w : Nat) : EntriesKept p s (bump s z r n w) := by
  unfold bump
  split
  · exact .refl s
  · exact entriesKept_wr s hr _

theorem entriesKept_logErr {l c : Reg} (hl : R.colLate.addr ≠ l.addr) (hc : R.colLate.addr ≠ c.addr) (v : Nat) : EntriesKept p s (logErr s l c v) :=
  ⟨by rw [logErr_eq], by rw [logErr_eq], fun _ => rd_logErr_other s hl hc v⟩

theorem entriesKept_hold : EntriesKept p s (hold s) := ⟨rfl, rfl, fun _ => rfl⟩
theorem entriesKept_slMod (sl : Nat) (f : Slice → Slice) : EntriesKept p s (slMod s sl f) := ⟨rfl, rfl, fun _ => rfl⟩
theorem entriesKept_hmod (h : Nat) (f : Hearth → Hearth) : EntriesKept p s (hmod s h f) := ⟨rfl, rfl, fun _ => rfl⟩
theorem entriesKept_xlMod (q : Nat) (f : Xlt → Xlt) : EntriesKept p s (xlMod s q f) := ⟨rfl, rfl, fun _ => rfl⟩
theorem entriesKept_walkCache (l : List WalkEnt) : EntriesKept p s { s with walkCache := l } := ⟨rfl, rfl, fun _ => rfl⟩

/-! Reads and writes by physical address. -/

theorem entriesKept_agCount (pa : Nat) (hit deny : Bool) : EntriesKept p s (agCount s p pa hit deny) := by
  have hsl := homeSlice_lt s.hbm.dead pa
  unfold agCount chmBump
  dsimp only
  generalize homeSlice s.hbm.dead pa = sl at *
  have hcount : EntriesKept p s (if hit then bump s (bit (rd s (R.chmCtrl sl)) 0) (R.chmHits sl) 1 48
      else bump s (bit (rd s (R.chmCtrl sl)) 0) (R.chmMisses sl) 1 48) := by
    split
    · exact entriesKept_bump s (fun _ => OffEngine.ne_late (.inl (by simp only [R.chmHits, blkBase]; omega))) ..
    · exact entriesKept_bump s (fun _ => OffEngine.ne_late (.inl (by simp only [R.chmMisses, blkBase]; omega))) ..
  generalize (if hit then _ else _) = w at hcount
  split
  · exact hcount.trans (entriesKept_bump _ (fun hp => OffEngine.ne_late (.inl (by simp only [R.chmPartDenyP, blkBase]; omega))) ..)
  · exact hcount

theorem entriesKept_histCount (h t0 : Nat) : EntriesKept p s (histCount s h t0) :=
  entriesKept_bump s (fun _ => OffEngine.ne_late (.inr (by simp only [R.telHistHB, blkBase]; omega))) ..

theorem entriesKept_agLines (part k : Nat) (as : List Nat) (alloc : Bool) : EntriesKept p s (agLines s part k as alloc).2.2.2 :=
  (agentServed_agLines ..).entriesKept (agentKeeps_agLines ..)

theorem entriesKept_agRead (k pa len : Nat) (alloc : Bool) : EntriesKept p s (agRead s p k pa len alloc).st := by
  have hfold (f : AgRead → Nat × Nat → AgRead) (hf : ∀ acc g, EntriesKept p acc.st (f acc g).st) (l : List (Nat × Nat)) (acc : AgRead) :
      EntriesKept p acc.st (l.foldl f acc).st := by
    induction l generalizing acc with
    | nil => exact .refl _
    | cons g l ih => exact (hf acc g).trans (ih (f acc g))
  exact hfold _ (fun acc g => ((entriesKept_agLines acc.st ..).trans (entriesKept_agCount ..)).trans (entriesKept_histCount ..)) _ ⟨[], false, false, s⟩

theorem entriesKept_agWrite (k pa : Nat) (data : List Byte) (alloc : Bool) : EntriesKept p s (agWrite s p k pa data alloc) :=
  .foldl (fun t _ => ((agentServed_agWriteLines t ..).entriesKept (agentKeeps_agWriteLines t ..)).trans (entriesKept_agCount ..)) _ s

theorem entriesKept_entRead (k pa n : Nat) : EntriesKept p s (entRead s p k pa n).2.2 := entriesKept_agRead ..
theorem entriesKept_entWrite (k pa n v : Nat) : EntriesKept p s (entWrite s p k pa n v) := entriesKept_agWrite ..
theorem entriesKept_frGet (f : Nat) : EntriesKept p s (frGet s p f).2 := entriesKept_entRead ..
theorem entriesKept_frPut (f v : Nat) : EntriesKept p s (frPut s p f v) := entriesKept_entWrite ..

/-! Walks, and accesses by virtual address. -/

theorem offEngine_xlt (q off rst : Nat) : OffEngine ⟨blkBase .xlt q + off, rst⟩ := .inr (by simp only [blkBase]; omega)

theorem entriesKept_xltBump (q off n : Nat) : EntriesKept p s (xltBump s q ⟨blkBase .xlt q + off, 0⟩ n) := entriesKept_bump s (fun _ => (offEngine_xlt ..).ne_late) ..

theorem entriesKept_walkL1 (die vpn : Nat) (cache : Bool) : EntriesKept p s (walkL1 s die p vpn cache).2.2 := by
  unfold walkL1
  dsimp only
  split
  · exact .refl s
  · split
    · exact .refl s
    · have hread (k pa n : Nat) := entriesKept_entRead (p := p) s k pa n
      split
      · exact hread ..
      · split
        · exact hread ..
        · dsimp only
          split
          · exact (hread ..).trans (entriesKept_walkCache ..)
          · exact hread ..

theorem entriesKept_walk (die vpn : Nat) (count : Bool) : EntriesKept p s (walk s die p vpn count).2 := by
  have hfin (res : WalkRes) (hbm : Bool) (t : State) : EntriesKept p t
      (if !count then (res, t) else (res, if hbm then xltBump (xltBump t p (R.xltWalks p) 1) p (R.xltWalkHbm p) 1 else xltBump t p (R.xltWalks p) 1)).2 := by
    split
    · exact .refl t
    · dsimp only
      split
      · exact (entriesKept_xltBump t ..).trans (entriesKept_xltBump ..)
      · exact entriesKept_xltBump t ..
  have hl1 := entriesKept_walkL1 (p := p) s die vpn count
  unfold walk
  dsimp only
  split
  · exact hl1.trans (hfin ..)
  · exact hl1.trans (hfin ..)
  · have hread (k pa n : Nat) := hl1.trans (entriesKept_entRead _ k pa n)
    split
    · exact (hread ..).trans (hfin ..)
    · split
      · exact (hread ..).trans (hfin ..)
      · exact (hread ..).trans (hfin ..)

theorem entriesKept_agWalk (die va : Nat) : EntriesKept p s (agWalk s die p va).2 := by
  have hwalk (vpn : Nat) := entriesKept_walk (p := p) s die vpn true
  unfold agWalk
  dsimp only
  split
  · split
    · exact (hwalk _).trans (entriesKept_hold _)
    · exact hwalk _
  · exact hwalk _

theorem entriesKept_vaRead (die va len n : Nat) (alloc : Bool) : EntriesKept p s (vaRead s die p va len n alloc).2.2 := by
  induction n generalizing s va len with
  | zero => exact .refl s
  | succ n ih =>
    unfold vaRead
    split
    · exact .refl s
    · have hwalk := entriesKept_agWalk (p := p) s die va
      dsimp only
      split
      · have hread (k pa len : Nat) := hwalk.trans (entriesKept_agRead _ k pa len alloc)
        split
        · exact hread ..
        · exact (hread ..).trans (ih ..)
      · exact hwalk
      · exact hwalk

theorem entriesKept_vaWrite (die va : Nat) (data : List Byte) (n : Nat) : EntriesKept p s (vaWrite s die p va data n).2 := by
  induction n generalizing s va data with
  | zero => exact .refl s
  | succ n ih =>
    unfold vaWrite
    split
    · exact .refl s
    · have hwalk := entriesKept_agWalk (p := p) s die va
      dsimp only
      split
      · split
        · exact (hwalk.trans (entriesKept_agWrite ..)).trans (ih ..)
        · split
          · exact hwalk
          · exact hwalk
      · exact hwalk
      · exact hwalk

/-! The copy of a shared page (R270). -/

theorem entriesKept_frTake (f refs st : Nat) : EntriesKept p s (frTake s p f refs st) :=
  (((entriesKept_frGet s f).trans (entriesKept_frPut ..)).trans (entriesKept_wr _ (fun _ => (offEngine_xlt ..).ne_late) _)).trans
    (entriesKept_wr _ (fun _ => (offEngine_xlt ..).ne_late) _)

theorem entriesKept_frRefs (f refs : Nat) : EntriesKept p s (frRefs s p f refs) := (entriesKept_frGet s f).trans (entriesKept_frPut ..)

theorem entriesKept_rsvScan (n left want : Nat) (acc : List Nat) (skip : Nat) (first : Option (Nat × Nat)) :
    EntriesKept p s (rsvScan s p n left want acc skip first).2 := by
  induction left generalizing s n want acc skip first with
  | zero =>
    unfold rsvScan
    split
    · exact .refl s
    · cases first with
      | none => exact .refl s
      | some _ => exact .refl s
  | succ left ih =>
    unfold rsvScan
    split
    · exact .refl s
    · have hread : EntriesKept p s (vaGet s p (rd s (R.xltRsvBase p) + 4 * (n % rsvSize s p)) 4 true).2.2 := entriesKept_vaRead ..
      generalize vaGet s p _ 4 true = r at hread ⊢
      dsimp only
      split
      · exact hread
      · next d _ =>
        have hframe : EntriesKept p s (if inRange r.2.2 p (leVal (d.take 3)) then frGet r.2.2 p (leVal (d.take 3)) else (none, r.2.2)).2 := by
          split
          · exact hread.trans (entriesKept_frGet ..)
          · exact hread
        generalize (if inRange _ p _ then _ else _) = e at hframe ⊢
        obtain ⟨_ | v, t⟩ := e
        · exact hframe.trans (ih ..)
        · dsimp only
          split
          · exact hframe.trans (ih ..)
          · exact hframe.trans (ih ..)

theorem entriesKept_rsvFind (want : Nat) (avoid : List Nat) : EntriesKept p s (rsvFind s p want avoid).2 := by
  unfold rsvFind
  dsimp only
  split
  · exact .refl s
  · exact entriesKept_rsvScan ..

theorem entriesKept_rsvTake (skip head : Nat) : EntriesKept p s (rsvTake s p skip head) :=
  (entriesKept_wr s (fun _ => (offEngine_xlt ..).ne_late) _).trans (entriesKept_xltBump ..)

theorem entriesKept_ringPages (start vpn n : Nat) (acc : List Nat) : EntriesKept p s (ringPages s p start vpn n acc).2 := by
  induction n generalizing s vpn acc with
  | zero => exact .refl s
  | succ n ih =>
    have hwalk := entriesKept_walk (p := p) s 0 vpn false
    unfold ringPages
    dsimp only
    split
    · split
      · exact hwalk
      · exact hwalk.trans (ih ..)
    · exact hwalk

theorem entriesKept_leafMod (vpn : Nat) (f : Nat → Nat) : EntriesKept p s (leafMod s p vpn f) := by
  have hwalk := entriesKept_walk (p := p) s 0 vpn false
  unfold leafMod
  dsimp only
  split
  · exact hwalk.trans (entriesKept_entWrite ..)
  · exact hwalk

theorem entriesKept_ringOut (vpn refs next : Nat) : EntriesKept p s (ringOut s p vpn refs next) := by
  have hring : EntriesKept p s (ringOf s p vpn refs).2 := entriesKept_ringPages ..
  unfold ringOut
  dsimp only
  split
  · split
    · exact hring
    · exact hring.trans (entriesKept_leafMod ..)
  · exact hring

theorem entriesKept_frameCopy (src k dst k' n : Nat) : EntriesKept p s (frameCopy s p src k dst k' n).2 := by
  induction n generalizing s with
  | zero => exact .refl s
  | succ n ih => exact ((entriesKept_agRead s ..).trans (entriesKept_agWrite ..)).trans (ih _)

theorem entriesKept_cowRemap (vpn f k : Nat) : EntriesKept p s (cowRemap s p vpn f k) := by
  have hwalk := entriesKept_walk (p := p) s 0 vpn false
  unfold cowRemap
  dsimp only
  split
  · next e _ _ _ =>
    have hfound := (hwalk.trans (entriesKept_frGet _ (leFrame e))).trans (entriesKept_frGet _ f)
    exact (((hfound.trans (entriesKept_ringOut ..)).trans (entriesKept_frRefs ..)).trans (entriesKept_leafMod ..)).trans (entriesKept_xltBump ..)
  · exact hwalk

theorem entriesKept_cowFind (vpn : Nat) : EntriesKept p s (cowFind s p vpn).2 := by
  have hwalk := entriesKept_walk (p := p) s 0 vpn false
  unfold cowFind
  generalize walk s 0 p vpn false = w at hwalk ⊢
  dsimp only
  split
  · exact hwalk
  · exact hwalk
  · next e _ _ _ =>
    have hframe := hwalk.trans (entriesKept_frGet w.2 (leFrame e))
    generalize frGet w.2 p (leFrame e) = fr at hframe ⊢
    split_ifs
    · exact hwalk
    · exact hframe
    · dsimp only
      exact (hframe.trans (entriesKept_leafMod ..)).trans (entriesKept_xltBump ..)
    · exact hframe
    · have hfind := hframe.trans (entriesKept_rsvFind _ 1 [])
      generalize rsvFind fr.2 p 1 [] = q at hfind ⊢
      obtain ⟨r, t⟩ := q
      dsimp only at hfind ⊢
      split
      · exact hfind
      · dsimp only
        exact hfind.trans (entriesKept_rsvTake ..)
      · exact hfind
      · exact hfind

theorem entriesKept_cowWhole (vpn : Nat) : EntriesKept p s (cowWhole s p vpn).2.2 := by
  have hfind := entriesKept_cowFind (p := p) s vpn
  unfold cowWhole
  generalize cowFind s p vpn = c at hfind ⊢
  dsimp only
  split
  · exact hfind
  · exact hfind
  · next src k f skip next _ =>
    have hcopy := hfind.trans (entriesKept_frameCopy c.2 src k f (xCur s p) 256)
    generalize frameCopy c.2 p src k f (xCur s p) 256 = cp at hcopy ⊢
    split
    · dsimp only
      exact ((hcopy.trans (entriesKept_rsvTake ..)).trans (entriesKept_frTake ..)).trans (entriesKept_cowRemap ..)
    · exact hcopy
  · exact hfind

/-- The start of a shootdown (R268). -/
theorem entriesKept_sdStart (why : SdWhy) (pages frames : List Nat) : EntriesKept p s (sdStart s p why pages frames) := by
  have hframe (t : State) (f : Nat) : EntriesKept p t (sdFrame t p f) :=
    ((entriesKept_frGet t f).trans (entriesKept_frPut ..)).trans (.foldl (fun _ _ => entriesKept_hmod ..) _ _)
  have hframes : EntriesKept p s (frames.foldl (fun s f => sdFrame s p f) s) := .foldl hframe _ _
  unfold sdStart
  dsimp only
  generalize List.foldl _ s frames = w at hframes ⊢
  have hdrop : EntriesKept p w ((partHearths w p).foldl (fun s h => hmod s h (fun x =>
      { x with tlb := x.tlb.filter (fun t => !(t.part = p && sdCovers pages t.vpn)) })) w) := .foldl (fun _ _ => entriesKept_hmod ..) _ _
  exact ((hframes.trans hdrop).trans (entriesKept_walkCache ..)).trans (entriesKept_xlMod ..)

theorem entriesKept_putPage (die va : Nat) (data : List Byte) : EntriesKept p s (putPage s die p va data).2 := by
  have hwrite : EntriesKept p s (vaPutAt s die p va data).2 := entriesKept_vaWrite ..
  unfold putPage
  dsimp only
  split
  · exact hwrite
  · exact hwrite
  · exact hwrite
  · exact hwrite
  · have hcopy := hwrite.trans (entriesKept_cowWhole _ (va / 65536 % 2 ^ 32))
    split
    · exact hwrite.trans (entriesKept_hold _)
    · split
      · exact hcopy
      · split
        · exact hcopy
        · split
          · exact hcopy
          · refine .trans (t := if _ then _ else _) ?_ (entriesKept_vaWrite ..)
            split
            · exact hcopy
            · exact hcopy.trans (entriesKept_sdStart ..)

/-! The engine's own accesses. -/

theorem entriesKept_colWalks (va : Nat) (dies : List Nat) : EntriesKept p s (colWalks s p va dies) := .foldl (fun t d => entriesKept_agWalk t d va) _ s

theorem entriesKept_colPages (va len n : Nat) : EntriesKept p s (colPages s p va len n).2.2 := by
  induction n generalizing s va len with
  | zero => exact .refl s
  | succ n ih =>
    unfold colPages
    split
    · exact .refl s
    · dsimp only
      generalize colDies s p va _ = dies
      have hread : EntriesKept p s (vaGetAt (colWalks s p va dies) (dies.headD 0) p va (min len (65536 - va % 65536)) false).2.2 :=
        (entriesKept_colWalks s va dies).trans (entriesKept_vaRead ..)
      split
      · exact hread
      · exact hread.trans (ih ..)

theorem entriesKept_colPut1 (va : Nat) (data : List Byte) (n : Nat) : EntriesKept p s (colPut1 s p va data n).2 := by
  induction n generalizing s va data with
  | zero => exact .refl s
  | succ n ih =>
    unfold colPut1
    split
    · exact .refl s
    · dsimp only
      generalize colDies s p va _ = dies
      have hpage : EntriesKept p s (putPage (colWalks s p va dies) (dies.headD 0) p va (data.take (min data.length (65536 - va % 65536)))).2 :=
        (entriesKept_colWalks s va dies).trans (entriesKept_putPage ..)
      split
      · exact hpage
      · exact hpage.trans (ih ..)

/-! Flows that send (R386). -/

theorem entriesKept_sfMod (i : Nat) (f : SendFlow → SendFlow) : EntriesKept p s (sfMod s i f) := ⟨rfl, rfl, fun _ => rfl⟩

theorem entriesKept_sendOwn (vc : Nat) (h body : List Byte) : EntriesKept p s (sendOwn s vc h body) := by
  rcases sendOwn_queued s vc h body with e | hq
  · rw [e]
    exact entriesKept_hold s
  · exact ⟨by rw [hq.moved.eq], by rw [hq.moved.eq], fun _ => hq.moved.regs _ (by unfold TrafficReg; decide)⟩

theorem entriesKept_flowOut (f : SendFlow) (k : ColPkt) : EntriesKept p s (flowOut s f k) :=
  (((entriesKept_sfMod s ..).trans (entriesKept_bump (r := R.fabSent) _ (fun _ => by decide) ..)).trans
    (entriesKept_bump (r := R.colBytesSent) _ (fun _ => by decide) ..)).trans (entriesKept_sendOwn ..)

theorem entriesKept_flowPump (i n : Nat) : EntriesKept p s (flowPump s i n) := by
  induction n generalizing s with
  | zero => exact .refl s
  | succ n ih =>
    unfold flowPump
    split
    · exact .refl s
    · split
      · exact .refl s
      · split
        · exact .refl s
        · dsimp only
          split
          · exact .refl s
          · exact ((entriesKept_sfMod s ..).trans (entriesKept_flowOut ..)).trans (ih _)

theorem entriesKept_flowSend (q dev dpart vc : Nat) (k : ColPkt) : EntriesKept p s (flowSend s q dev dpart vc k) := by
  unfold flowSend
  split
  · exact .refl s
  · exact (entriesKept_sfMod s ..).trans (entriesKept_flowPump ..)

theorem entriesKept_colCtl (q c : Nat) (e : ColEnt) (k kind b off : Nat) (data : List Byte) : EntriesKept p s (colCtl s q c e k kind b off data) := by
  unfold colCtl
  split
  · exact .refl s
  · exact entriesKept_flowSend ..

end

end Sys2Proof.Machine

/-!
SUPPORT: what the parts of the collective engine's operations make of a loaded entry (R396, R399–R402, R404). Data that goes out of a collective leaves all
of the entry but its digest, its contributions and the state of its tree; contributions that are taken change its results besides.
-/

namespace Sys2Proof.Machine

/-- `e'` is the entry `e` after data has gone out of it, or come in among its contributions: it may have failed since. -/
structure Outgoes (e e' : ColEnt) : Prop where
  eq : e' = { e with st := e'.st, fail := e'.fail, dig := e'.dig, held := e'.held, pruned := e'.pruned, ents := e'.ents, doneTx := e'.doneTx }
  st : e'.st = e.st ∨ e'.st = 3
  dig : ceTree e.raw = false → e'.st ≠ 3 → e.dig ⊆ e'.dig

/-- `e'` is the entry `e` after contributions have been taken, of a reduction those to bucket `b`. -/
structure Carries (b : Nat) (e e' : ColEnt) : Prop where
  eq : e' = { e with st := e'.st, fail := e'.fail, dig := e'.dig, held := e'.held, pruned := e'.pruned, ents := e'.ents, doneTx := e'.doneTx,
                     fetches := e'.fetches, flight := e'.flight, ended := e'.ended, wrote := e'.wrote, got := e'.got, sat := e'.sat }
  st : e'.st = e.st ∨ e'.st = 3
  dig : ceTree e.raw = false → e'.st ≠ 3 → e.dig ⊆ e'.dig
  ended : e.ended ⊆ e'.ended
  wrote : e.wrote ⊆ e'.wrote
  flight : e'.flight = e.flight ∨ b ∈ e'.ended

section
variable {e e' e'' : ColEnt} {b : Nat}

theorem Outgoes.refl (e : ColEnt) : Outgoes e e := ⟨rfl, .inl rfl, fun _ _ => List.Subset.refl _⟩

theorem Outgoes.raw (h : Outgoes e e') : e'.raw = e.raw := by rw [h.eq]

theorem st_trans (h : e'.st = e.st ∨ e'.st = 3) (k : e''.st = e'.st ∨ e''.st = 3) : e''.st = e.st ∨ e''.st = 3 := by
  rcases k with k | k
  · exact k ▸ h
  · exact .inr k

theorem dig_trans {P : Prop} (h : P → e'.st ≠ 3 → e.dig ⊆ e'.dig) (hst : e''.st = e'.st ∨ e''.st = 3) (k : P → e''.st ≠ 3 → e'.dig ⊆ e''.dig) (hp : P)
    (hn : e''.st ≠ 3) : e.dig ⊆ e''.dig := by
  rcases hst with hst | hst
  · exact List.Subset.trans (h hp (hst ▸ hn)) (k hp hn)
  · exact absurd hst hn

theorem Outgoes.trans (h : Outgoes e e') (k : Outgoes e' e'') : Outgoes e e'' where
  eq := by
    have he := k.eq
    rw [h.eq] at he
    exact he
  st := st_trans h.st k.st
  dig := dig_trans h.dig k.st fun ht => k.dig (h.raw ▸ ht)

theorem Outgoes.carries (h : Outgoes e e') (b : Nat) : Carries b e e' where
  eq := h.eq.trans (by rw [h.eq])
  st := h.st
  dig := h.dig
  ended := by
    rw [h.eq]
    exact List.Subset.refl _
  wrote := by
    rw [h.eq]
    exact List.Subset.refl _
  flight := .inl (by rw [h.eq])

theorem Carries.refl (b : Nat) (e : ColEnt) : Carries b e e := (Outgoes.refl e).carries b

theorem Carries.raw (h : Carries b e e') : e'.raw = e.raw := by rw [h.eq]

theorem Carries.trans (h : Carries b e e') (k : Carries b e' e'') : Carries b e e'' where
  eq := by
    have he := k.eq
    rw [h.eq] at he
    exact he
  st := st_trans h.st k.st
  dig := dig_trans h.dig k.st fun ht => k.dig (h.raw ▸ ht)
  ended := List.Subset.trans h.ended k.ended
  wrote := List.Subset.trans h.wrote k.wrote
  flight := by
    rcases k.flight with hk | hk
    · exact h.flight.imp (hk.trans ·) (k.ended ·)
    · exact .inr hk

end

/-! The state around an entry. -/

/-- From `s` to `t` entry `c` of partition `p`, if it is loaded, becomes one that `Q` relates it to; the messages that wait for the engine and COL_LATE are
as they were. -/
structure EntryGoes (p c : Nat) (Q : ColEnt → ColEnt → Prop) (s t : State) : Prop where
  entry : ∀ e, colGet s p c = some e → ∃ e', colGet t p c = some e' ∧ Q e e'
  colIn : t.colIn = s.colIn
  late : p < 16 → rd t R.colLate = rd s R.colLate

section
variable {p c b : Nat} {Q : ColEnt → ColEnt → Prop} {s t u : State}

theorem EntryGoes.trans (hQ : ∀ {x y z}, Q x y → Q y z → Q x z) (h : EntryGoes p c Q s t) (k : EntryGoes p c Q t u) : EntryGoes p c Q s u where
  entry e he := by
    obtain ⟨e', he', hr⟩ := h.entry e he
    obtain ⟨e'', he'', hr'⟩ := k.entry e' he'
    exact ⟨e'', he'', hQ hr hr'⟩
  colIn := k.colIn.trans h.colIn
  late hp := (k.late hp).trans (h.late hp)

theorem colGet_of_cols (h : t.cols = s.cols) (p c : Nat) : colGet t p c = colGet s p c := by rw [colGet, h, colGet]

theorem EntriesKept.goes (hQ : ∀ e, Q e e) (h : EntriesKept p s t) : EntryGoes p c Q s t :=
  ⟨fun e he => ⟨e, (colGet_of_cols h.cols p c).trans he, hQ e⟩, h.colIn, h.late⟩

/-- Data goes out of the entry. -/
abbrev Outgoing (p c : Nat) : State → State → Prop := EntryGoes p c Outgoes

/-- Contributions to the entry are taken. -/
abbrev Carrying (p c b : Nat) : State → State → Prop := EntryGoes p c (Carries b)

theorem EntryGoes.carrying (h : Outgoing p c s t) (b : Nat) : Carrying p c b s t where
  entry e he := (h.entry e he).imp fun _ ⟨hg, ho⟩ => ⟨hg, ho.carries b⟩
  colIn := h.colIn
  late := h.late

theorem EntriesKept.outgoing (h : EntriesKept p s t) : Outgoing p c s t := h.goes Outgoes.refl
theorem EntriesKept.carrying (h : EntriesKept p s t) : Carrying p c b s t := h.goes (Carries.refl b)

theorem outgoing_refl (s : State) : Outgoing p c s s := (EntriesKept.refl s).outgoing
theorem outgoing_trans (h : Outgoing p c s t) (k : Outgoing p c t u) : Outgoing p c s u := h.trans Outgoes.trans k
theorem carrying_refl (s : State) : Carrying p c b s s := (EntriesKept.refl s).carrying
theorem carrying_trans (h : Carrying p c b s t) (k : Carrying p c b t u) : Carrying p c b s u := h.trans Carries.trans k

theorem outgoing_foldl {α : Type} {f : State → α → State} (hf : ∀ t a, Outgoing p c t (f t a)) (l : List α) (s : State) : Outgoing p c s (l.foldl f s) := by
  induction l generalizing s with
  | nil => exact outgoing_refl s
  | cons a l ih => exact outgoing_trans (hf s a) (ih _)

theorem carrying_foldl {α : Type} {f : State → α → State} (hf : ∀ t a, Carrying p c b t (f t a)) (l : List α) (s : State) :
    Carrying p c b s (l.foldl f s) := by
  induction l generalizing s with
  | nil => exact carrying_refl s
  | cons a l ih => exact carrying_trans (hf s a) (ih _)

@[simp] theorem colGet_colPut_same (s : State) (p c : Nat) (e : ColEnt) : colGet (colPut s p c e) p c = some e := tget_tput_same ..

theorem colGet_colMod (h : colGet s p c = some e) (f : ColEnt → ColEnt) : colGet (colMod s p c f) p c = some (f e) := by simp [colMod, h]

theorem entryGoes_colPut {x : ColEnt} (h : ∀ e, colGet s p c = some e → Q e x) : EntryGoes p c Q s (colPut s p c x) :=
  ⟨fun e he => ⟨x, colGet_colPut_same .., h e he⟩, rfl, fun _ => rfl⟩

theorem colMod_none (h : colGet s p c = none) (f : ColEnt → ColEnt) : colMod s p c f = s := by simp [colMod, h]
theorem colMod_some {e : ColEnt} (h : colGet s p c = some e) (f : ColEnt → ColEnt) : colMod s p c f = colPut s p c (f e) := by simp [colMod, h]

theorem entryGoes_colMod {f : ColEnt → ColEnt} (h : ∀ e, Q e (f e)) (s : State) : EntryGoes p c Q s (colMod s p c f) := by
  cases hg : colGet s p c with
  | none =>
    rw [colMod_none hg]
    exact ⟨fun e he => by simp [hg] at he, rfl, fun _ => rfl⟩
  | some e =>
    rw [colMod_some hg]
    exact entryGoes_colPut fun e' he => by
      rw [hg] at he
      cases he
      exact h e

/-! Failure (R398, R404). -/

theorem late_ne_dig (i j : Nat) : R.colLate.addr ≠ (R.colDigI i j).addr := by
  have hlate : R.colLate.addr < 0x3880000 := by decide
  have hdig : (R.colDigI i j).addr = 0x3880000 + i * 0x20 + j * 8 := rfl
  omega

variable (s)

theorem entriesKept_digEnd (q c : Nat) (e : ColEnt) : EntriesKept p s (digEnd s q c e) := by
  have hput (t : State) (epoch : Nat) (k : Nat × Nat × Nat) (data : List Byte) : EntriesKept p t (digPut t q c epoch k data) := by
    unfold digPut
    dsimp only
    generalize rdf t R.colDigHead 0 12 = i
    have hdig (v : State) (j n : Nat) : EntriesKept p v (wr v (R.colDigI i j) n) :=
      entriesKept_wr v (fun _ => late_ne_dig i j) n
    exact ((((hdig ..).trans (hdig ..)).trans (hdig ..)).trans (hdig ..)).trans (entriesKept_wr _ (fun _ => by decide) _)
  exact .foldl (fun t k => hput t ..) _ s

theorem entriesKept_colBump {r : Reg} (hr : R.colLate.addr ≠ r.addr) (n w : Nat) : EntriesKept p s (colBump s r n w) := entriesKept_bump s (fun _ => hr) ..

theorem entriesKept_colErr (kind q c code : Nat) : EntriesKept p s (colErr s kind q c code) := entriesKept_logErr s (by decide) (by decide) _

/-- An entry once its collective has failed. -/
def ColEnt.failed (e : ColEnt) (code : Nat) : ColEnt := { e with st := 3, fail := code, dig := [] }

theorem Outgoes.failed (e : ColEnt) (code : Nat) : Outgoes e (e.failed code) := ⟨rfl, .inr rfl, fun _ h => absurd rfl h⟩

theorem colFail_loaded {e : ColEnt} (h : colGet s p c = some e) (hst : e.st ≠ 3) (code : Nat) :
    colFail s p c code = colErr (colBump (colPut (digEnd s p c e) p c (e.failed code)) R.colFailed 1) 6 p c code := by
  simp only [colFail, h, if_neg hst]
  rfl

theorem colFail_stopped {e : ColEnt} (h : colGet s p c = some e) (hst : e.st = 3) (code : Nat) : colFail s p c code = s := by
  simp only [colFail, h, if_pos hst]

theorem colFail_absent (h : colGet s p c = none) (code : Nat) : colFail s p c code = s := by simp only [colFail, h]

theorem colGet_colFail {e : ColEnt} (h : colGet s p c = some e) (hst : e.st ≠ 3) (code : Nat) : colGet (colFail s p c code) p c = some (e.failed code) := by
  rw [colFail_loaded s h hst]
  have hk := (entriesKept_colBump (p := p) (colPut (digEnd s p c e) p c (e.failed code)) (r := R.colFailed) (by decide) 1 48).trans
    (entriesKept_colErr _ 6 p c code)
  exact (colGet_of_cols hk.cols p c).trans (colGet_colPut_same ..)

/-- Whatever it was, the collective has failed. -/
theorem colFail_fails {e : ColEnt} (h : colGet s p c = some e) (code : Nat) : ∃ e', colGet (colFail s p c code) p c = some e' ∧ e'.st = 3 := by
  by_cases hst : e.st = 3
  · exact ⟨e, by rw [colFail_stopped s h hst]; exact h, hst⟩
  · exact ⟨_, colGet_colFail s h hst code, rfl⟩

theorem outgoing_colFail (code : Nat) : Outgoing p c s (colFail s p c code) := by
  cases h : colGet s p c with
  | none =>
    rw [colFail_absent s h]
    exact outgoing_refl s
  | some e =>
    by_cases hst : e.st = 3
    · rw [colFail_stopped s h hst]
      exact outgoing_refl s
    · rw [colFail_loaded s h hst]
      have hend := entriesKept_digEnd (p := p) s p c e
      refine outgoing_trans (outgoing_trans hend.outgoing (entryGoes_colPut fun e' he => ?_))
        ((entriesKept_colBump _ (by decide) ..).trans (entriesKept_colErr ..)).outgoing
      rw [colGet_of_cols hend.cols, h] at he
      cases he
      exact .failed e code

/-! Memory (R389). -/

theorem colRead_none {va len : Nat} (h : (colRead s p c va len).1 = none) : ∃ w code, EntriesKept p s w ∧ (colRead s p c va len).2 = colFail w p c code := by
  have hr := entriesKept_colPages (p := p) s va len (pageFuel len)
  unfold colRead at h ⊢
  dsimp only at h ⊢
  split at h
  · exact absurd h (Option.some_ne_none _)
  · next hn =>
    exact ⟨_, _, hr, rfl⟩

theorem colRead_some {va len : Nat} {bs : List Byte} (h : (colRead s p c va len).1 = some bs) : EntriesKept p s (colRead s p c va len).2 := by
  have hr := entriesKept_colPages (p := p) s va len (pageFuel len)
  unfold colRead at h ⊢
  dsimp only at h ⊢
  split at h
  · next hn =>
    exact hr
  · exact absurd h.symm (Option.some_ne_none _)

theorem outgoing_colRead (va len : Nat) : Outgoing p c s (colRead s p c va len).2 := by
  cases h : (colRead s p c va len).1 with
  | none =>
    obtain ⟨w, code, hw, he⟩ := colRead_none s h
    rw [he]
    exact outgoing_trans hw.outgoing (outgoing_colFail w code)
  | some bs => exact (colRead_some s h).outgoing

theorem colWrite_true {va : Nat} {data : List Byte} (h : (colWrite s p c va data).1 = true) : EntriesKept p s (colWrite s p c va data).2 := by
  have hr := entriesKept_colPut1 (p := p) s va data (pageFuel data.length)
  unfold colWrite at h ⊢
  dsimp only at h ⊢
  split at h
  · next hn =>
    exact hr
  · exact absurd h Bool.false_ne_true

theorem colWrite_false {va : Nat} {data : List Byte} (h : (colWrite s p c va data).1 = false) :
    ∃ w code, EntriesKept p s w ∧ (colWrite s p c va data).2 = colFail w p c code := by
  have hr := entriesKept_colPut1 (p := p) s va data (pageFuel data.length)
  unfold colWrite at h ⊢
  dsimp only at h ⊢
  split at h
  · exact absurd h.symm Bool.false_ne_true
  · next hn =>
    exact ⟨_, _, hr, rfl⟩

theorem outgoing_colWrite (va : Nat) (data : List Byte) : Outgoing p c s (colWrite s p c va data).2 := by
  cases h : (colWrite s p c va data).1 with
  | true => exact (colWrite_true s h).outgoing
  | false =>
    obtain ⟨w, code, hw, he⟩ := colWrite_false s h
    rw [he]
    exact outgoing_trans hw.outgoing (outgoing_colFail w code)

/-- After a refused write the collective has failed. -/
theorem colWrite_fails {va : Nat} {data : List Byte} {e : ColEnt} (hg : colGet s p c = some e) (h : (colWrite s p c va data).1 = false) :
    ∃ e', colGet (colWrite s p c va data).2 p c = some e' ∧ e'.st = 3 := by
  obtain ⟨w, code, hw, he⟩ := colWrite_false s h
  rw [he]
  exact colFail_fails w ((colGet_of_cols hw.cols p c).trans hg) code

/-- After a failed read the collective has failed. -/
theorem colRead_fails {va len : Nat} {e : ColEnt} (hg : colGet s p c = some e) (h : (colRead s p c va len).1 = none) :
    ∃ e', colGet (colRead s p c va len).2 p c = some e' ∧ e'.st = 3 := by
  obtain ⟨w, code, hw, he⟩ := colRead_none s h
  rw [he]
  exact colFail_fails w ((colGet_of_cols hw.cols p c).trans hg) code

/-! Sending (R396). -/

theorem Outgoes.dig_append (e : ColEnt) (l : List DigPart) : Outgoes e { e with dig := e.dig ++ l } :=
  ⟨rfl, .inl rfl, fun _ _ => List.subset_append_left ..⟩

theorem Outgoes.held_any (e : ColEnt) (l : List Contrib) : Outgoes e { e with held := l } := ⟨rfl, .inl rfl, fun _ _ => List.Subset.refl _⟩

theorem outgoing_digAdd (dev part dir b off : Nat) (data : List Byte) : Outgoing p c s (digAdd s p c dev part dir b off data) := by
  unfold digAdd
  split
  · exact outgoing_refl s
  · exact entryGoes_colMod (fun e => .dig_append e _) s

theorem outgoing_colCtl (e : ColEnt) (k kind b off : Nat) (data : List Byte) : Outgoing p c s (colCtl s p c e k kind b off data) :=
  (entriesKept_colCtl ..).outgoing

theorem outgoing_colData (e : ColEnt) (k kind b off : Nat) (data : List Byte) (bk : Bool) (rank : Nat) :
    Outgoing p c s (colData s p c e k kind b off data bk rank) := by
  unfold colData
  split
  · exact outgoing_refl s
  · exact outgoing_foldl (fun t i => outgoing_trans (entriesKept_flowSend ..).outgoing (outgoing_digAdd ..)) _ s

theorem outgoing_contribMark (e : ColEnt) (b rank : Nat) : Outgoes e (contribMark e b rank) := by
  unfold contribMark
  split
  · exact .refl e
  · exact .held_any e _

theorem outgoing_heldAdd (e : ColEnt) (b rank : Nat) (bk : Bool) (off : Nat) (data : List Byte) : Outgoes e (heldAdd e b rank bk off data) := by
  unfold heldAdd
  split
  · exact (Outgoes.held_any e _).trans (outgoing_contribMark ..)
  · exact (Outgoes.held_any e _).trans (outgoing_contribMark ..)

theorem outgoing_heldDrop (b rank : Nat) (bk : Bool) : Outgoing p c s (heldDrop s p c b rank bk) := by
  have hbump {r : Reg} (hr : R.colLate.addr ≠ r.addr) (t : State) (n w : Nat) : Outgoing p c t (colBump t r n w) := (entriesKept_colBump t hr n w).outgoing
  unfold heldDrop
  split
  · exact outgoing_refl s
  · next e he =>
    dsimp only
    have hput : Outgoing p c s (colPut s p c { e with held := e.held.filter (fun x => !(x.b = b && x.rank = rank)) }) :=
      entryGoes_colPut fun e' he' => by
        rw [he] at he'
        cases he'
        exact .held_any e _
    generalize colPut s p c _ = w at hput ⊢
    have hlost : Outgoing p c s (if ((e.held.filter (fun x => x.b = b && x.rank = rank && x.bk ≠ bk)).map gotBytes).sum = 0 then w else
        colBump w R.colBackupDiscard ((e.held.filter (fun x => x.b = b && x.rank = rank && x.bk ≠ bk)).map gotBytes).sum 64) := by
      split
      · exact hput
      · exact outgoing_trans hput (hbump (by decide) ..)
    split
    · exact outgoing_trans hlost (hbump (by decide) ..)
    · exact hlost

end

end Sys2Proof.Machine

/-!
SUPPORT: the operations of the collective engine on a loaded entry: contributions that are taken (R394, R399, R402), blocks (R396) and trees (R400, R401).
-/

namespace Sys2Proof.Machine

section
variable {p c : Nat} (s : State)

/-! Contributions and results. -/

theorem carries_results (b : Nat) (e : ColEnt) {fetches : List FetchReq} {flight ended wrote : List Nat} {got : Tbl Nat} {sat : Bool}
    (hended : e.ended ⊆ ended) (hwrote : e.wrote ⊆ wrote) (hflight : flight = e.flight ∨ b ∈ ended) :
    Carries b e { e with fetches := fetches, flight := flight, ended := ended, wrote := wrote, got := got, sat := sat } :=
  ⟨rfl, .inl rfl, fun _ _ => List.Subset.refl _, hended, hwrote, hflight⟩

theorem carrying_recvGot (b b' k need : Nat) : Carrying p c b s (recvGot s p c b' k need) := by
  refine entryGoes_colMod (fun e => ?_) s
  refine carries_results b e (List.Subset.refl _) ?_ (.inl rfl)
  split
  · exact List.subset_append_left ..
  · exact List.Subset.refl _

theorem carrying_fetchSend (b : Nat) (e : ColEnt) (k b' off len want : Nat) (bk : Bool) :
    Carrying p c b s (fetchSend s p c e k b' off len want bk) := by
  refine carrying_trans (carrying_trans (entryGoes_colMod (fun e => ?_) s) (entriesKept_colBump _ (by decide) ..).carrying)
    (entriesKept_colCtl ..).carrying
  exact carries_results b e (List.Subset.refl _) (List.Subset.refl _) (.inl rfl)

theorem carrying_backFetch (b : Nat) (e : ColEnt) (b' k : Nat) : Carrying p c b s (backFetch s p c e b' k) := by
  unfold backFetch
  split
  · exact carrying_refl s
  · split
    · exact carrying_refl s
    · split
      · extract_lets d
        have hd : Outgoing p c s d.2 := by
          unfold d ownShard
          dsimp only
          split
          · exact outgoing_colRead ..
          · split
            · exact outgoing_colRead ..
            · exact outgoing_colRead ..
        split
        · exact hd.carrying b
        · exact (outgoing_trans hd (entryGoes_colMod (fun e => outgoing_heldAdd ..) _)).carrying b
      · exact carrying_fetchSend ..

theorem entriesKept_nanNote (c b lo : Nat) (l : List (Nat × List W32 × Bool)) : EntriesKept p s (nanNote s p c b lo l) := by
  unfold nanNote
  split
  · exact .refl s
  · dsimp only
    have hbump := entriesKept_colBump (p := p) s (r := R.colNan) (by decide) 1 48
    split
    · exact hbump
    · refine hbump.trans (entriesKept_wr _ (fun hp => ?_) _)
      have hlate : R.colLate.addr < 0x3801018 := by decide
      have hlog : (R.colNanLogP p).addr = 0x3801018 + p * 0x40 := rfl
      omega

/-- A fold over slices that gathers values. -/
theorem EntriesKept.foldSlices {f : Bool × State → Nat → Bool × State} (hf : ∀ acc sl, sl < 4 → EntriesKept p acc.2 (f acc sl).2) {l : List Nat}
    (hl : ∀ sl ∈ l, sl < 4) (acc : Bool × State) : EntriesKept p acc.2 (l.foldl f acc).2 := by
  induction l generalizing acc with
  | nil => exact .refl _
  | cons sl l ih => exact (hf acc sl (hl sl (by simp))).trans (ih (fun k hk => hl k (.tail _ hk)) _)

/-- A reduction's staging is read slice by slice (R217). -/
theorem entriesKept_stageRead : EntriesKept p s (stageRead s p).2 := by
  unfold stageRead
  refine EntriesKept.foldSlices (fun acc sl hlt => ?_) (by decide) (false, s)
  have hinj : EntriesKept p acc.2 (chmInject acc.2 sl none).2 := (agentServed_chmInject _ hlt none).entriesKept (agentKeeps_chmInject _ hlt none)
  have hue (w : State) : EntriesKept p w (chmErr (chmBump w sl (R.chmUeCount sl) 1) sl 2 0 5 p none) :=
    AgentServed.entriesKept ((agentServed_chmBump w hlt (by decide) 1 48).trans (agentServed_chmErr _ hlt ..))
      ((agentKeeps_chmBump w hlt (by decide) 1 48).trans (agentKeeps_chmErr _ hlt ..))
  have hfree (w : State) : EntriesKept p w (freeBits w 1).2 := ⟨rfl, rfl, fun _ => rfl⟩
  dsimp only
  generalize chmInject acc.2 sl none = i at hinj ⊢
  split
  · exact .refl _
  · split
    · exact hinj.trans (hue _)
    · split
      · exact hinj
      · split
        · dsimp only
          exact (hinj.trans (hfree _)).trans (entriesKept_slMod ..)
        · exact hinj.trans (hfree _)

theorem carrying_redPick (b : Nat) (e : ColEnt) (b' : Nat) (l : List (Nat × List W32 × Bool)) : Carrying p c b s (redPick s p c e b' l).2.2 := by
  induction l generalizing s with
  | nil => exact carrying_refl s
  | cons x l ih =>
    obtain ⟨k, ws, bk⟩ := x
    unfold redPick
    split
    · exact ih s
    · split
      · exact carrying_refl s
      · extract_lets s1 e1
        have h1 : Carrying p c b s s1 := by
          unfold s1
          split
          · exact carrying_backFetch ..
          · exact carrying_refl s
        split
        · split
          · exact h1
          · exact carrying_trans h1 (ih s1)
        · exact carrying_trans h1 (carrying_backFetch ..)

theorem carrying_redDone (e : ColEnt) (b : Nat) (bs : List Byte) : Carrying p c b s (redDone s p c e b bs) := by
  have hend (w : State) : Carrying p c b w (colMod w p c (fun e => { e with flight := e.flight.filter (· ≠ b), ended := e.ended ++ [b] })) :=
    entryGoes_colMod (fun e => carries_results b e (List.subset_append_left ..) (List.Subset.refl _) (.inr (by simp))) w
  have hwrote (w : State) : Carrying p c b w (colMod w p c (fun e => { e with wrote := e.wrote ++ [b] })) :=
    entryGoes_colMod (fun e => carries_results b e (List.Subset.refl _) (List.subset_append_left ..) (.inl rfl)) w
  unfold redDone
  extract_lets m lo w s1 s2
  have hw : Carrying p c b s w.2 := (outgoing_colWrite ..).carrying b
  have h1 : Carrying p c b s s1 := carrying_trans hw (hend _)
  have h2 : Carrying p c b s s2 := carrying_trans h1 (carrying_recvGot ..)
  split
  · exact hw
  · split
    · exact carrying_trans h1 (hwrote _)
    · refine carrying_trans h2 (carrying_foldl (fun t k => ?_) _ _)
      split
      · exact carrying_refl t
      · exact (outgoing_colData ..).carrying b

theorem carrying_redTry (b : Nat) : Carrying p c b s (redTry s p c b) := by
  have hsat (w : State) (x : Bool) : Carrying p c b w (if x then colMod w p c (fun e => { e with sat := true }) else w) := by
    split
    · exact entryGoes_colMod (fun e => carries_results b e (List.Subset.refl _) (List.Subset.refl _) (.inl rfl)) w
    · exact carrying_refl w
  unfold redTry
  split
  · exact carrying_refl s
  · next e _ =>
    split
    · exact carrying_refl s
    · extract_lets others o lo fp
      have ho : Carrying p c b s o.2 := (outgoing_colRead ..).carrying b
      split
      · exact carrying_refl s
      · split
        · exact ho
        · extract_lets l pick s1
          have hpick : Carrying p c b s pick.2.2 := by
            unfold pick
            split
            · exact carrying_trans ho (carrying_redPick ..)
            · exact ho
          split
          · exact carrying_trans (carrying_trans hpick (entriesKept_nanNote ..).carrying) ((outgoing_colFail ..).carrying b)
          · split
            · exact hpick
            · next l' _ =>
              extract_lets r s2 s3
              have h1 : Carrying p c b s s1 := by
                unfold s1
                split
                · exact carrying_trans hpick (entriesKept_nanNote ..).carrying
                · exact hpick
              have hstage : Carrying p c b s (stageRead s1 p).2 := carrying_trans h1 (entriesKept_stageRead s1).carrying
              split
              · exact carrying_trans hstage ((outgoing_colFail ..).carrying b)
              · have h2 : Carrying p c b s s2 := carrying_trans hstage (carrying_foldl (fun t x => (outgoing_heldDrop ..).carrying b) _ _)
                exact carrying_trans (carrying_trans h2 (hsat ..)) (carrying_redDone ..)

theorem carrying_gatherTake (b b' rank : Nat) : Carrying p c b s (gatherTake s p c b' rank) := by
  unfold gatherTake
  split
  · exact carrying_refl s
  · next e _ =>
    extract_lets key
    split
    · exact carrying_refl s
    · split
      · exact carrying_refl s
      · next d bk _ =>
        extract_lets w s1
        have hw : Carrying p c b s w.2 := (outgoing_colWrite ..).carrying b
        have h1 : Carrying p c b s s1 := carrying_trans (carrying_trans hw ((outgoing_heldDrop ..).carrying b))
          (entryGoes_colMod (fun e => carries_results b e (List.Subset.refl _) (List.Subset.refl _) (.inl rfl)) _)
        split
        · exact hw
        · split
          · exact carrying_trans h1
              (entryGoes_colMod (fun e => carries_results b e (List.Subset.refl _) (List.subset_append_left ..) (.inl rfl)) _)
          · exact carrying_trans h1 (carrying_recvGot ..)

theorem carrying_colTry (b rank : Nat) : Carrying p c b s (colTry s p c b rank) := by
  unfold colTry
  split
  · exact carrying_refl s
  · split
    · exact carrying_redTry ..
    · split
      · exact carrying_refl s
      · exact carrying_gatherTake ..

/-! Blocks (R396). -/

theorem outgoing_blockSend (e : ColEnt) (k : Nat) (bs : List Byte) (bk : Bool) (rank : Nat) : Outgoing p c s (blockSend s p c e k bs bk rank) :=
  outgoing_foldl (fun _ _ => outgoing_colData ..) _ s

theorem outgoing_toRank (e : ColEnt) (a j : Nat) : Outgoing p c s (toRank s p c e a j) := by
  unfold toRank
  split
  · exact outgoing_refl s
  · extract_lets d s1
    have hd : Outgoing p c s d.2 := outgoing_colRead ..
    split
    · exact hd
    · extract_lets s2 s3
      have h2 : Outgoing p c s s2 := outgoing_trans (outgoing_trans hd (outgoing_colCtl ..)) (outgoing_blockSend ..)
      have h3 : Outgoing p c s s3 := by
        unfold s3
        split
        · split
          · exact h2
          · exact outgoing_trans h2 (outgoing_blockSend ..)
        · exact h2
      split
      · exact h3
      · refine outgoing_trans h3 (outgoing_foldl (fun t k => ?_) _ _)
        split
        · exact outgoing_refl t
        · exact outgoing_blockSend ..

/-! Trees (R400, R401). -/

theorem colDies_first (va len : Nat) : (colDies s p va len).headD 0 < 4 := by
  unfold colDies
  split
  · next e _ _ _ =>
    have hhome : ∀ x ∈ (List.range (granuleCount va len)).map (fun i =>
        homeSlice s.hbm.dead (65536 * leFrame e + (va % 65536 / 2048 + i) * 2048)), x < 4 := by
      simp only [List.mem_map]
      rintro x ⟨i, -, rfl⟩
      exact homeSlice_lt ..
    generalize (List.range (granuleCount va len)).map _ = l at hhome ⊢
    cases hl : l.dedup with
    | nil => decide
    | cons x r => exact hhome x (List.mem_dedup.1 (hl ▸ List.mem_cons_self))
  · decide

theorem outgoing_kidPrune (hp : ∀ e, colGet s p c = some e → ceTree e.raw = true) (b off k : Nat) : Outgoing p c s (kidPrune s p c b off k) := by
  unfold kidPrune
  split
  · exact outgoing_refl s
  · next e he =>
    extract_lets ws sl g gone s1 s2
    have h1 : Outgoing p c s s1 := entryGoes_colPut fun e' he' => by
      rw [he] at he'
      cases he'
      exact ⟨rfl, .inl rfl, fun ht => by simp [hp e he] at ht⟩
    have h2 : Outgoing p c s s2 := by
      unfold s2
      split
      · exact outgoing_trans h1 (entriesKept_sfMod ..).outgoing
      · exact h1
    have hsl : sl < 4 := colDies_first ..
    have hprunes : R.colLate.addr ≠ (R.chmMcPrunes sl).addr := OffEngine.ne_late (.inl (by simp only [R.chmMcPrunes, blkBase]; omega))
    have hbumps := ((entriesKept_bump (p := p) s2 (fun _ => hprunes) (bit (rd s2 (R.chmCtrl sl)) 0) 1 48).trans
      (entriesKept_colBump (r := R.colPrunes) _ (by decide) 1 48)).trans (entriesKept_colBump (r := R.colGaps) _ (by decide) 1 48)
    exact outgoing_trans (outgoing_trans h2 hbumps.outgoing) (outgoing_colCtl ..)

theorem outgoing_kidsPrune {e0 : ColEnt} (hs : colGet s p c = some e0) (ht : ceTree e0.raw = true) (b off : Nat) (l : List Nat) :
    Outgoing p c s (l.foldl (fun t k => kidPrune t p c b off k) s) := by
  induction l generalizing s e0 with
  | nil => exact outgoing_refl s
  | cons k l ih =>
    have hp : ∀ e, colGet s p c = some e → ceTree e.raw = true := fun e he => by
      rw [hs] at he
      cases he
      exact ht
    have hk := outgoing_kidPrune s hp b off k
    obtain ⟨e', he', ho⟩ := hk.entry e0 hs
    exact outgoing_trans hk (ih _ he' (ho.raw ▸ ht))

theorem outgoing_treeCheck (n : Nat) : Outgoing p c s (treeCheck s p c n) := by
  induction n generalizing s with
  | zero => exact outgoing_refl s
  | succ n ih =>
    unfold treeCheck
    split
    · exact outgoing_refl s
    · next e he =>
      split
      · exact outgoing_refl s
      · next htree =>
        simp only [Bool.or_eq_true, Bool.not_eq_true', decide_eq_true_eq, not_or, Bool.not_eq_false] at htree
        extract_lets live s1
        have h1 : Outgoing p c s s1 := by
          unfold s1
          split
          · exact outgoing_refl s
          · exact entryGoes_colPut fun e' he' => by
              rw [he] at he'
              cases he'
              exact ⟨rfl, .inl rfl, fun _ _ => List.Subset.refl _⟩
        obtain ⟨e1, he1, ho1⟩ := h1.entry e he
        clear_value s1 live
        split
        · exact h1
        · split
          · exact outgoing_trans (outgoing_trans h1 (outgoing_kidsPrune s1 he1 (ho1.raw ▸ htree.1) ..)) (ih _)
          · exact h1

theorem outgoing_toChild (b off : Nat) (bs : List Byte) (k : Nat) : Outgoing p c s (toChild s p c b off bs k) := by
  unfold toChild
  split
  · exact outgoing_refl s
  · split
    · exact outgoing_refl s
    · exact outgoing_colData ..

theorem outgoing_treeDown (e : ColEnt) (b off : Nat) (bs : List Byte) : Outgoing p c s (treeDown s p c e b off bs) :=
  outgoing_trans (outgoing_trans (outgoing_foldl (fun _ _ => outgoing_toChild ..) _ s) (outgoing_treeCheck ..))
    (outgoing_foldl (fun _ _ => outgoing_colData ..) _ _)

theorem outgoing_doneTry : Outgoing p c s (doneTry s p c) := by
  unfold doneTry
  split
  · exact outgoing_refl s
  · next e he =>
    split
    · exact outgoing_refl s
    · split
      · exact outgoing_refl s
      · refine outgoing_trans (entryGoes_colPut fun e' he' => ?_) (outgoing_colCtl ..)
        rw [he] at he'
        cases he'
        exact ⟨rfl, .inl rfl, fun _ _ => List.Subset.refl _⟩

end

end Sys2Proof.Machine

/-!
SUPPORT for the collective tables (R389, R392, R393, R397, R404): what loading and unloading a table, a flush, a bucket's start and the end of a collective
lead to.
-/

namespace Sys2Proof.Machine

section
variable {s t u v w : State} {p : Nat}

/-! Loading (R389–R391). -/

theorem ctrl_notNote (hp : p < 16) : (R.colPartCtrlP p).addr ∉ noteRegs := by
  have hn : ∀ a ∈ noteRegs, 0x4000000 < a := by decide
  have ha : (R.colPartCtrlP p).addr = 0x3801008 + p * 0x40 := rfl
  exact fun hm => absurd (hn _ hm) (by omega)

theorem Follows.cols {q : List Instr} (h : Follows q v u) : u.cols = v.cols := by rw [h.eq]
theorem Follows.colGet {q : List Instr} (h : Follows q v u) (k c : Nat) : Machine.colGet u k c = Machine.colGet v k c := colGet_of_cols h.cols k c
theorem Follows.colIn {q : List Instr} (h : Follows q v u) : u.colIn = v.colIn := by rw [h.eq]

/-- STATE of COL_PART_CTRL_p once it is written. -/
theorem Follows.ctrl {q : List Instr} {n : Nat} (h : Follows q (wrf t (R.colPartCtrlP p) 2 2 n) u) (hp : p < 16) (hn : n < 4) :
    rdf u (R.colPartCtrlP p) 2 2 = n := by
  rw [rdf, h.rd _ (ctrl_notNote hp), wrf, rd_wr_same, bits_setBits_same]
  exact Nat.mod_eq_of_lt hn

/-- Entry `c` of a table joins those of partition `p`. -/
def entryPut (l : List ColEnt) (p : Nat) (t : State) (c : Nat) : State := match lget l c with | some e => colPut t p c e | none => t

theorem flowRun_entryPut (l : List ColEnt) (t : State) (c : Nat) : FlowRun t (entryPut l p t c) := by
  unfold entryPut
  split
  · exact flowRun_colPut ..
  · exact .refl t

theorem colGet_colPut_other (s : State) (p : Nat) {c k : Nat} (h : k ≠ c) (e : ColEnt) : colGet (colPut s p c e) p k = colGet s p k :=
  tget_tput_other _ (by omega) e

theorem colGet_entriesPut (l : List ColEnt) (t : State) {n : Nat} (hn : n ≤ l.length) :
    ∀ c, c < n → colGet ((List.range n).foldl (entryPut l p) t) p c = lget l c := by
  induction n with
  | zero => exact fun c hc => absurd hc (Nat.not_lt_zero c)
  | succ n ih =>
    intro c hc
    rw [List.range_succ, List.foldl_append, List.foldl_cons, List.foldl_nil]
    have hget : lget l n = some l[n] := by rw [lget_eq]; exact List.getElem?_eq_getElem hn
    generalize hw : (List.range n).foldl (entryPut l p) t = w
    have hput : entryPut l p w n = colPut w p n l[n] := by simp only [entryPut, hget]
    rw [hput]
    by_cases h : c = n
    · subst h
      rw [colGet_colPut_same, hget]
    · rw [colGet_colPut_other _ _ h, ← hw]
      exact ih (by omega) c (by omega)

/-- The device once a sound table is loaded: the flows are made, the staging is pinned, the entries stand, and the key's slot is in use. -/
def tableLoaded (w : State) (p slot : Nat) (l : List ColEnt) : State :=
  wrf (partMod ((List.range l.length).foldl (entryPut l p) ([0, 1, 2, 3].foldl (fun t sl => stagePin t sl p (stageLines l)) (flowsMake w p (flowKeys l))))
    p (fun x => { x with used := setBits x.used slot 1 1 })) (R.colPartCtrlP p) 2 2 2

theorem colLoad_unloaded (hp : p < 16) (hf : prtFormed t p = true) (hst : rdf t (R.colPartCtrlP p) 2 2 ∉ [1, 2]) :
    (16 ≤ p || !prtFormed t p || rdf t (R.colPartCtrlP p) 2 2 = 1 || rdf t (R.colPartCtrlP p) 2 2 = 2) = false := by
  simp only [List.mem_cons, List.not_mem_nil, or_false, not_or] at hst
  simp [hf, hst.1, hst.2, hp]

/-- The table of a partition, as it is read. -/
def tableOf (s : State) (p : Nat) : Except (Nat × Nat) (List ColEnt) × State :=
  tableLoad s p (rdf s (R.colPartTableP p) 0 48) 0 (rdf s (R.colPartTableP p) 48 9)

variable (hp : p < 16) (hf : prtFormed t p = true) (hst : rdf t (R.colPartCtrlP p) 2 2 ∉ [1, 2])
include hp hf hst

theorem colLoad_bad {k i : Nat} (ht : tableOf t p = (.error (k, i), w)) : colLoad t p = loadFailed w p k i := by
  have ht' : tableLoad t p (bits (rd t (R.colPartTableP p)) 0 48) 0 (bits (rd t (R.colPartTableP p)) 48 9) = (.error (k, i), w) := ht
  unfold colLoad
  dsimp only
  rw [colLoad_unloaded hp hf hst]
  simp only [Bool.false_eq_true, if_false, ht']

theorem colLoad_read {l : List ColEnt} (ht : tableOf t p = (.ok l, w)) : colLoad t p =
    if fabKey w p (txSlot t p) = 0 || bit (partGet w p).used (txSlot t p) then loadFailed (secErr w 2 p 0 0 0) p 3 0
    else if 8192 < w.sflows.length + (flowKeys l).length || 8192 < w.rflows.length + (flowKeys l).length then loadFailed w p 3 0
    else if !stageFits w p (stageLines l) then loadFailed w p 4 0
    else tableLoaded w p (txSlot t p) l := by
  have ht' : tableLoad t p (bits (rd t (R.colPartTableP p)) 0 48) 0 (bits (rd t (R.colPartTableP p)) 48 9) = (.ok l, w) := ht
  unfold colLoad
  dsimp only
  rw [colLoad_unloaded hp hf hst]
  simp only [Bool.false_eq_true, if_false, ht']
  rfl

end

section
variable {s : State} {p : Nat} (hp : p < 16) (hc : Calm s) (hf : prtFormed s p = true) (hst : rdf s (R.colPartCtrlP p) 2 2 ∉ [1, 2])
include hp hc hf hst

/-- A sound table whose flows, staging and key there is room for is loaded. -/
theorem colLoad_loads {l : List ColEnt} {w : State} (ht : tableOf (quiet s) p = (.ok l, w)) (hkey : fabKey w p (txSlot s p) ≠ 0)
    (hused : bit (partGet w p).used (txSlot s p) = false) (hsend : w.sflows.length + (flowKeys l).length ≤ 8192)
    (hrecv : w.rflows.length + (flowKeys l).length ≤ 8192) (hfit : stageFits w p (stageLines l) = true)
    (hcalm : Calm ([0, 1, 2, 3].foldl (fun t sl => stagePin t sl p (stageLines l)) (flowsMake w p (flowKeys l)))) :
    Completes (.colLoad p) s (fun u => rdf u (R.colPartCtrlP p) 2 2 = 2 ∧ bit (partGet u p).used (txSlot s p) = true ∧
      ∀ c, c < l.length → colGet u p c = lget l c) := by
  have e : colLoad (quiet s) p = tableLoaded w p (txSlot s p) l := by
    have hkey' : fabKey w p (txSlot (quiet s) p) ≠ 0 := hkey
    have hused' : bit (partGet w p).used (txSlot (quiet s) p) = false := hused
    rw [colLoad_read (t := quiet s) hp hf hst ht]
    simp only [hkey', hused', hfit, Nat.not_lt.2 hsend, Nat.not_lt.2 hrecv, decide_false, Bool.or_self, Bool.not_true, Bool.false_eq_true, if_false]
    rfl
  have hfold : FlowRun _ ((List.range l.length).foldl (entryPut l p) _) := FlowRun.foldl (fun t c => flowRun_entryPut l t c) (List.range l.length)
    ([0, 1, 2, 3].foldl (fun t sl => stagePin t sl p (stageLines l)) (flowsMake w p (flowKeys l)))
  have hput := hfold.fab.calm hcalm
  have hv : Calm (tableLoaded w p (txSlot s p) l) := by
    have hpart := hput.partMod (p := p) (f := fun x => { x with used := setBits x.used (txSlot s p) 1 1 }) (hput.parts p)
    exact (counted_wrf ..).calm hpart
  refine completes_stk (f := fun t => colLoad t p) hc hp (by rw [e]; exact hv) fun u hu => ?_
  rw [e] at hu
  refine ⟨hu.ctrl hp (by decide), ?_, fun c hlt => ?_⟩
  · have hpart := congrArg Part.used (hu.parts p)
    have hsame := partGet_partMod_same ((List.range l.length).foldl (entryPut l p)
      ([0, 1, 2, 3].foldl (fun t sl => stagePin t sl p (stageLines l)) (flowsMake w p (flowKeys l)))) p
      (fun x => { x with used := setBits x.used (txSlot s p) 1 1 })
    have he : (partGet u p).used = (partGet (tableLoaded w p (txSlot s p) l) p).used := hpart
    rw [he]
    exact (congrArg (fun x : Part => bit x.used (txSlot s p)) hsame).trans (bit_setBits_same ..)
  · rw [hu.colGet]
    exact colGet_entriesPut l _ (le_refl _) c hlt

omit hf hst in
theorem loadFailed_completes {w : State} (hw : Calm w) {k i : Nat} (e : colLoad (quiet s) p = loadFailed w p k i) :
    Completes (.colLoad p) s (fun u => rdf u (R.colPartCtrlP p) 2 2 = 3 ∧ u.cols = w.cols ∧ u.sflows = w.sflows) := by
  have hk : Counted w (colErr w k p i 0) [R.colErrLog, R.colErrCount] := counted_logErr ..
  have hl : Counted w (loadFailed w p k i) [R.colErrLog, R.colErrCount, R.colPartCtrlP p] :=
    (hk.mono (by simp)).trans ((counted_wrf (colErr w k p i 0) (R.colPartCtrlP p) 2 2 3).mono (by simp))
  refine completes_stk (f := fun t => colLoad t p) hc hp (by rw [e]; exact hl.calm hw) fun u hu => ?_
  rw [e] at hu
  have hle : loadFailed w p k i = { w with csr := (loadFailed w p k i).csr, fresh := (loadFailed w p k i).fresh } := hl.eq
  refine ⟨Follows.ctrl (t := colErr w k p i 0) hu hp (by decide), ?_, ?_⟩
  · rw [hu.cols, hle]
  · exact (congrArg State.sflows hu.eq).trans (by rw [hle])

/-- A table without a key, or with too many flows or too much staging, is not loaded. -/
theorem colLoad_refuses {l : List ColEnt} {w : State} (ht : tableOf (quiet s) p = (.ok l, w))
    (hbad : fabKey w p (txSlot s p) = 0 ∨ bit (partGet w p).used (txSlot s p) = true ∨ 8192 < w.sflows.length + (flowKeys l).length ∨
      stageFits w p (stageLines l) = false) (hw : Calm w) :
    Completes (.colLoad p) s (fun u => rdf u (R.colPartCtrlP p) 2 2 = 3 ∧ u.cols = w.cols ∧ u.sflows = w.sflows) := by
  have e := colLoad_read (t := quiet s) hp hf hst ht
  have hsec : Counted w (secErr w 2 p 0 0 0) [R.secErrLog, R.secErrCount] := counted_logErr ..
  split_ifs at e with h1 h2 h3
  · refine (loadFailed_completes hp hc (hsec.calm hw) e).imp fun u ⟨hu, hst', hcols, hflows⟩ => ⟨hu, hst', ?_, ?_⟩
    · rw [hcols, hsec.eq]
    · rw [hflows, hsec.eq]
  · exact loadFailed_completes hp hc hw e
  · exact loadFailed_completes hp hc hw e
  · simp only [Bool.or_eq_true, decide_eq_true_eq, not_or] at h1 h2
    rcases hbad with h | h | h | h
    · exact absurd h h1.1
    · exact absurd h h1.2
    · exact absurd h h2.1
    · rw [h] at h3
      exact absurd rfl h3

end

/-! Unloading (R389). -/

/-- What an unload leaves: the staging that it frees stands in the slices alone. -/
theorem unloadNow_eq (t : State) (p : Nat) :
    unloadNow t p = { wrf { t with cols := t.cols.filter (fun e => e.1 / 256 ≠ p), sflows := t.sflows.filter (fun f => f.spart ≠ p),
                                   rflows := t.rflows.filter (fun f => f.dpart ≠ p), colIn := t.colIn.filter (fun m => m.part ≠ p),
                                   colUnl := t.colUnl.filter (· ≠ p) } (R.colPartCtrlP p) 2 2 0 with slices := (unloadNow t p).slices } := rfl

theorem calm_unloadNow {t : State} {p : Nat} (hc : Calm { t with colUnl := [] }) (hu : t.colUnl = [p]) : Calm (unloadNow t p) := by
  rw [unloadNow_eq]
  generalize (unloadNow t p).slices = l
  exact hc.of rfl rfl rfl rfl (by simp [wrf, wr, hu]) rfl rfl

section
variable {s : State} {p : Nat}

/-- The table of partition `p` is to be unloaded. -/
def unloadAsked (s : State) (p : Nat) : State := { s with colUnl := [p] }

theorem colUnload_asks (hp : p < 16) (hu : s.colUnl = []) (hst : rdf s (R.colPartCtrlP p) 2 2 = 2) : colUnload s p = unloadTry (unloadAsked s p) p := by
  have hload : ¬(16 ≤ p ∨ rdf s (R.colPartCtrlP p) 2 2 ≠ 2) := by omega
  unfold colUnload
  rw [hu]
  exact if_neg (by simpa using hload)

variable (hp : p < 16) (hc : Calm s) (hst : rdf s (R.colPartCtrlP p) 2 2 = 2)
include hp hc hst

/-- With no collective running the table goes, with its flows. -/
theorem colUnload_frees (hidle : ∀ x ∈ s.cols, x.1 / 256 = p → x.2.st ≠ 2) : Completes (.colUnload p) s (fun u =>
    rdf u (R.colPartCtrlP p) 2 2 = 0 ∧ (∀ c, c < 256 → colGet u p c = none) ∧ (∀ f ∈ u.sflows, f.spart ≠ p) ∧ (∀ f ∈ u.rflows, f.dpart ≠ p) ∧
    ∀ k c, k ≠ p → c < 256 → colGet u k c = colGet s k c) := by
  have e : colUnload (quiet s) p = unloadNow (unloadAsked (quiet s) p) p := by
    rw [colUnload_asks (s := quiet s) hp hc.unl hst]
    have hnone : (quiet s).cols.any (fun e => e.1 / 256 = p && e.2.st = 2) = false := by
      simp only [List.any_eq_false, Bool.and_eq_true, decide_eq_true_eq, not_and]
      exact hidle
    exact if_pos (by simpa [unloadAsked] using hnone)
  have hv : Calm (unloadNow (unloadAsked (quiet s) p) p) := calm_unloadNow (hc.quiet.of rfl rfl rfl rfl hc.unl.symm rfl rfl) rfl
  have hcols : (unloadNow (unloadAsked (quiet s) p) p).cols = s.cols.filter (fun e => e.1 / 256 ≠ p) := by rw [unloadNow_eq]; rfl
  have hget (k c : Nat) (hk : c < 256) (u : State) (hu : u.cols = s.cols.filter (fun e => e.1 / 256 ≠ p)) :
      colGet u k c = if k = p then none else colGet s k c := by
    rw [colGet, hu, colGet, tget_filter_key s.cols (fun i => decide (i / 256 ≠ p)) (k * 256 + c)]
    have hkey : (k * 256 + c) / 256 = k := by omega
    rw [hkey]
    by_cases h : k = p
    · simp [h]
    · simp [h]
  refine completes_stk (f := fun t => colUnload t p) hc hp (by rw [e]; exact hv) fun u hu => ?_
  rw [e] at hu
  have hu' : u.cols = s.cols.filter (fun e => e.1 / 256 ≠ p) := hu.cols.trans hcols
  refine ⟨?_, fun c hk => by rw [hget p c hk u hu', if_pos rfl], fun f hf => ?_, fun f hf => ?_, fun k c hne hk => by rw [hget k c hk u hu', if_neg hne]⟩
  · rw [rdf, hu.rd _ (ctrl_notNote hp), unloadNow_eq]
    exact (congrArg (bits · 2 2) (rd_wr_same ..)).trans (bits_setBits_same ..)
  · have hflows : u.sflows = s.sflows.filter (fun f => f.spart ≠ p) := by rw [hu.eq, unloadNow_eq]; rfl
    rw [hflows] at hf
    exact of_decide_eq_true (List.mem_filter.1 hf).2
  · have hflows : u.rflows = s.rflows.filter (fun f => f.dpart ≠ p) := by rw [hu.eq, unloadNow_eq]; rfl
    rw [hflows] at hf
    exact of_decide_eq_true (List.mem_filter.1 hf).2

end

/-- While an unload waits for a collective that runs, nothing follows from a command but the note of R448. -/
theorem ends_unloadWaits (s : State) {u : State} {p : Nat} (hu : Calm { u with colUnl := [] }) (hasked : u.colUnl = [p]) (hwaits : unloadTry u p = u) :
    ∃ t, ends s u = .next t ∧ Follows s.pending u t := by
  have hparts : ∀ q, (partGet u q).leaving = 0 ∧ ((partGet u q).sweep = 0 ∨ (partGet u q).sweep = 2) := hu.parts
  have haborts : u.dueAborts = [] := hu.aborts
  have hfaults : u.dueHrt = [] := hu.faults
  have hsusp : u.stk.susp = none := hu.susp
  have hk : PartSteps u (partSteps u) := partSteps_fold ..
  have hstk : (partSteps u).stk = u.stk := by rw [hk.eq]
  have haborts' : (partSteps u).dueAborts = [] := (congrArg State.dueAborts hk.eq).trans haborts
  have hfaults' : (partSteps u).dueHrt = [] := (congrArg State.dueHrt hk.eq).trans hfaults
  have hstep : stokerStep (partSteps u) = partSteps u :=
    stokerStep_none (.inr (by rw [hstk]; exact ⟨hu.service, hu.warmQ⟩)) (hk.noSweep fun q => (hparts q).2)
  have hunl : u.colUnl.foldl (fun t q => tryStep (unloadTry · q) t) u = u := by
    rw [hasked]
    exact tryStep_id (f := (unloadTry · p)) hwaits
  have hrun : settleRun u = partSteps u := by
    have hsettled : suspectSettle (settleFaults (settleAborts (suspectAgain u))) (u.dueHrt.any (fun f => f.2 = .verdict)) = u := by
      rw [show suspectAgain u = u by simp [suspectAgain, hsusp], settleAborts_still haborts, settleFaults_none hfaults]
      simp [suspectSettle, hsusp]
    unfold settleRun
    dsimp only
    rw [hsettled, hunl]
    exact (congrArg settleAborts hstep).trans (settleAborts_still haborts')
  have hsettle : settle u = partSteps u := by
    have hphase : u.stk.phase = .run := hu.run
    rw [settle, if_pos hphase, hrun]
    show ({ partSteps u with dueAborts := [], dueHrt := [] } : State) = partSteps u
    rw [← haborts', ← hfaults']
  have hheld : (partSteps u).held = false := (congrArg State.held hk.eq).trans hu.free
  have h0 : Follows s.pending u { u with pending := s.pending, dueAborts := [], dueHrt := [] } := ⟨rfl, fun _ _ => rfl, fun _ => rfl⟩
  have h1 : Follows s.pending u { partSteps u with pending := s.pending, dueAborts := [], dueHrt := [] } :=
    by exact follows_partSteps hparts (u.parts.map (·.1)) h0
  refine ⟨_, by rw [ends, hsettle, unlessHeld, if_neg (by rw [hheld]; decide)], ?_⟩
  rw [← haborts', ← hfaults'] at h1
  exact h1

/-- With a collective running the unload waits. -/
theorem colUnload_waits {s : State} {p : Nat} (hp : p < 16) (hc : Calm s) (hst : rdf s (R.colPartCtrlP p) 2 2 = 2)
    (hruns : ∃ x ∈ s.cols, x.1 / 256 = p ∧ x.2.st = 2) :
    Completes (.colUnload p) s (fun u => u.colUnl = [p] ∧ u.cols = s.cols ∧ SameRegs s u []) := by
  obtain ⟨x, hx, hkey, hrun⟩ := hruns
  have hwaits : unloadTry (unloadAsked (quiet s) p) p = unloadAsked (quiet s) p := by
    have hany : (quiet s).cols.any (fun e => e.1 / 256 = p && e.2.st = 2) = true := List.any_eq_true.2 ⟨x, hx, by simp [hkey, hrun]⟩
    exact if_neg (by simpa [unloadAsked] using hany)
  have e : only (p < 16) (fun t => colUnload t p) (quiet s) = unloadAsked (quiet s) p :=
    (if_pos hp).trans ((colUnload_asks (s := quiet s) hp hc.unl hst).trans hwaits)
  have hv : Calm { unloadAsked (quiet s) p with colUnl := [] } := hc.quiet.of rfl rfl rfl rfl hc.unl.symm rfl rfl
  obtain ⟨t, ht, hf⟩ := ends_unloadWaits s hv rfl hwaits
  have hex : actStk (only (p < 16) (fun t => colUnload t p)) s = .next t := by rw [actStk, if_pos ⟨hc.run, hc.here⟩, e, ht]
  exact ⟨t, hex, by rw [hf.eq]; rfl, by rw [hf.eq]; rfl, .intro hf rfl fun _ _ => rfl⟩

end Sys2Proof.Machine

/-!
SUPPORT and proof for the instances of a collective entry (R392, R393, R395, R397, R404): reset, flush, the start of a bucket, the end of a collective;
O41.
-/

namespace Sys2Proof.Machine

section
variable {s t : State} {p c : Nat} {e : ColEnt}

/-! What a collective's failure leaves of the registers (R398, R404). -/

/-- A register that neither the digest log nor the log and the count of failures is. -/
def OffFail (r : Reg) : Prop :=
  (r.addr < 0x3880000 ∨ 0x38A0000 ≤ r.addr) ∧ r.addr ∉ [R.colDigHead.addr, R.colErrLog.addr, R.colErrCount.addr, R.colFailed.addr]

theorem digPut_eq (s : State) (p c epoch : Nat) (k : Nat × Nat × Nat) (data : List Byte) :
    digPut s p c epoch k data = { s with csr := (digPut s p c epoch k data).csr } := by
  simp only [digPut, wr]

theorem digEnd_eq (s : State) (p c : Nat) (e : ColEnt) : digEnd s p c e = { s with csr := (digEnd s p c e).csr } := by
  unfold digEnd
  dsimp only
  generalize (e.dig.map (fun d => (d.dev, d.part, d.dir))).dedup = l
  induction l generalizing s with
  | nil => rfl
  | cons k l ih =>
    rw [List.foldl_cons]
    generalize List.flatMap _ _ = d
    have hput := digPut_eq s p c e.epoch k d
    generalize digPut s p c e.epoch k d = w at hput ⊢
    exact (ih w).trans (by rw [hput])

theorem rd_digPut {r : Reg} (hr : OffFail r) (t : State) (epoch : Nat) (k : Nat × Nat × Nat) (data : List Byte) :
    rd (digPut t p c epoch k data) r = rd t r := by
  obtain ⟨haddr, hlist⟩ := hr
  have hi : rdf t R.colDigHead 0 12 < 4096 := bits_lt ..
  unfold digPut
  dsimp only
  generalize rdf t R.colDigHead 0 12 = i at hi
  have hne (j : Nat) (hj : j < 4) : r.addr ≠ (R.colDigI i j).addr := by
    have hdig : (R.colDigI i j).addr = 0x3880000 + i * 0x20 + j * 8 := rfl
    omega
  have hhead : r.addr ≠ R.colDigHead.addr := fun h => hlist (h ▸ List.mem_cons_self)
  rw [rd_wr_other _ hhead, rd_wr_other _ (hne 3 (by decide)), rd_wr_other _ (hne 2 (by decide)), rd_wr_other _ (hne 1 (by decide)),
    rd_wr_other _ (hne 0 (by decide))]

theorem rd_digEnd {r : Reg} (hr : OffFail r) (s : State) (e : ColEnt) : rd (digEnd s p c e) r = rd s r := by
  unfold digEnd
  dsimp only
  generalize (e.dig.map (fun d => (d.dev, d.part, d.dir))).dedup = l
  induction l generalizing s with
  | nil => rfl
  | cons k l ih =>
    rw [List.foldl_cons, ih]
    exact rd_digPut hr ..

theorem counted_colBump (s : State) (r : Reg) (n w : Nat) : Counted s (colBump s r n w) [r] := counted_bump ..
theorem counted_colErr (s : State) (k p c n : Nat) : Counted s (colErr s k p c n) [R.colErrLog, R.colErrCount] := counted_logErr ..

theorem onFabric_colFail (s : State) (p c code : Nat) : OnFabric s (colFail s p c code) := by
  cases h : colGet s p c with
  | none =>
    rw [colFail_absent s h]
    exact .refl s
  | some e =>
    by_cases hst : e.st = 3
    · rw [colFail_stopped s h hst]
      exact .refl s
    · rw [colFail_loaded s h hst]
      have hput : OnFabric s (colPut (digEnd s p c e) p c (e.failed code)) := by
        rw [digEnd_eq]
        rfl
      exact (hput.trans (counted_colBump ..).onFabric).trans (counted_colErr ..).onFabric

theorem rd_colFail {r : Reg} (hr : OffFail r) (s : State) (p c code : Nat) : rd (colFail s p c code) r = rd s r := by
  cases h : colGet s p c with
  | none => rw [colFail_absent s h]
  | some e =>
    by_cases hst : e.st = 3
    · rw [colFail_stopped s h hst]
    · obtain ⟨-, hlist⟩ := id hr
      simp only [List.mem_cons, List.not_mem_nil, or_false, not_or] at hlist
      obtain ⟨-, hlog, hcount, hfailed⟩ := hlist
      rw [colFail_loaded s h hst, colErr, rd_logErr_other _ hlog hcount, (counted_colBump ..).regs r (by simpa using hfailed)]
      exact rd_digEnd hr s e

theorem rd_colOver {r : Reg} (hr : OffFail r) (s : State) (p c : Nat) : rd (colOver s p c) r = rd s r := by
  obtain ⟨-, hlist⟩ := id hr
  simp only [List.mem_cons, List.not_mem_nil, or_false, not_or] at hlist
  obtain ⟨-, hlog, hcount, -⟩ := hlist
  rw [colOver, rd_colFail hr, colErr, rd_logErr_other _ hlog hcount]

theorem onFabric_colOver (s : State) (p c : Nat) : OnFabric s (colOver s p c) := (counted_colErr ..).onFabric.trans (onFabric_colFail ..)

theorem colGet_colOver (h : colGet s p c = some e) (hst : e.st ≠ 3) : colGet (colOver s p c) p c = some (e.failed 10) := by
  have hcols : (colErr s 5 p c 10).cols = s.cols := by rw [(counted_colErr ..).eq]
  exact colGet_colFail _ ((colGet_of_cols hcols p c).trans h) hst 10

/-! Reset (R404). -/

theorem colReset_completes (hp : p < 16) (hc : Calm s) (h : colGet s p c = some e) (hst : e.st = 3) :
    Completes (.colReset p c) s (fun u => colGet u p c = some { e.rearm (actStart e.raw) with cnt := [], writ := [] } ∧ SameRegs s u []) := by
  have e1 : ∃ v, colReset (quiet s) p c = v ∧ v = { colPut (quiet s) p c { e.rearm (actStart e.raw) with cnt := [], writ := [] } with
      colIn := v.colIn, sflows := v.sflows } := by
    have h' : colGet (quiet s) p c = some e := h
    simp only [colReset, h', hst, ne_eq, not_true_eq_false, if_false]
    exact ⟨_, rfl, rfl⟩
  obtain ⟨v, e1, hv⟩ := e1
  have hcalm : Calm v := by
    rw [hv]
    exact hc.quiet.of rfl rfl rfl rfl rfl rfl rfl
  refine completes_stk (f := fun t => colReset t p c) hc hp (by rw [e1]; exact hcalm) fun u hu => ?_
  rw [e1] at hu
  refine ⟨?_, .intro hu (by rw [hv]; rfl) fun r _ => by rw [hv]; rfl⟩
  rw [hu.colGet, hv]
  exact colGet_colPut_same ..

/-! The flush (R393). -/

/-- A flush is taken by an entry that has not known its ACT_LEN. -/
theorem colCtlFlush_takes (h : colGet s p c = some e) (hctl : ceCtlEn e.raw = true) (hst : e.st ≠ 3) (hact : e.act = none) {a : Nat}
    (hlen : a ≤ ceLen e.raw) (hal : a % 256 = 0) :
    (ceOp e.raw ≠ 6 → colCtlFlush s p c e.epoch a = flushEnd s p c (flushEnt e a)) ∧
    ∀ bs w, ceOp e.raw = 6 → colRead s p c (ceAux e.raw + 64) 512 = (some bs, w) → colCtlFlush s p c e.epoch a =
      flushEnd w p c { flushEnt e a with mask := (List.range e.n).filter (fun k => bit (leVal ((bs.drop (k / 8)).take 1)) (k % 8)) } := by
  have hlen' : ¬ ceLen e.raw < a := Nat.not_lt.2 hlen
  refine ⟨fun hop => ?_, fun bs w hop hread => ?_⟩
  · simp [colCtlFlush, h, hctl, hst, hact, hlen', hal, hop]
  · simp [colCtlFlush, h, hctl, hst, hact, hlen', hal, hop, hread]

/-- What the flush lets happen carries the entry on. -/
theorem flushEnd_carries (s : State) (p c : Nat) (x : ColEnt) : ∃ e', colGet (flushEnd s p c x) p c = some e' ∧ Carries 0 x e' := by
  have hput := colGet_colPut_same s p c x
  unfold flushEnd
  dsimp only
  split
  · have hover : Outgoing p c (colPut s p c x) (colOver (colPut s p c x) p c) :=
      outgoing_trans (entriesKept_colErr ..).outgoing (outgoing_colFail ..)
    exact (hover.carrying 0).entry x hput
  · have hend : Carrying p c 0 (colPut s p c x) (doneTry (if ceOp x.raw = 2 then x.held.foldl (fun t y => gatherTake t p c y.b y.rank) (colPut s p c x)
        else colPut s p c x) p c) := by
      refine carrying_trans ?_ ((outgoing_doneTry ..).carrying 0)
      split
      · exact carrying_foldl (fun _ _ => carrying_gatherTake ..) _ _
      · exact carrying_refl _
    exact hend.entry x hput

theorem flushEnt_known (e : ColEnt) (a : Nat) : (flushEnt e a).act = some a ∧ (flushEnt e a).epoch = e.epoch ∧ (flushEnt e a).st = 2 ∧
    (flushEnt e a).raw = e.raw := by
  unfold flushEnt recvAgain ColEnt.run
  dsimp only
  split <;> split <;> exact ⟨rfl, rfl, rfl, rfl⟩

theorem flushed_known {x : ColEnt} {a : Nat} (hx : x = { flushEnt e a with mask := x.mask }) (s : State) :
    ∃ e', colGet (flushEnd s p c x) p c = some e' ∧ e'.act = some a ∧ e'.epoch = e.epoch ∧ (e'.st = 2 ∨ e'.st = 3) ∧ e'.mask = x.mask := by
  obtain ⟨hact, hepoch, hst, -⟩ := flushEnt_known e a
  have hxa : x.act = some a := by rw [hx]; exact hact
  have hxe : x.epoch = e.epoch := by rw [hx]; exact hepoch
  have hxs : x.st = 2 := by rw [hx]; exact hst
  obtain ⟨e', he, hcarry⟩ := flushEnd_carries s p c x
  refine ⟨e', he, ?_, ?_, hxs ▸ hcarry.st, ?_⟩
  · rw [hcarry.eq]
    exact hxa
  · rw [hcarry.eq]
    exact hxe
  · rw [hcarry.eq]

/-- A flush after which nothing else can happen. -/
theorem flushEnd_plain {x : ColEnt} (hop : ceOp x.raw ≠ 2) (hover : overfull x = false) (htree : ceTree x.raw = false ∨ treeHeld x = false) (s : State) :
    flushEnd s p c x = colPut s p c x := by
  have hdone : doneTry (colPut s p c x) p c = colPut s p c x := by
    unfold doneTry
    rw [colGet_colPut_same]
    refine if_pos ?_
    rcases htree with h | h
    · simp [h]
    · simp [h]
  unfold flushEnd
  simp only [hover, hop, Bool.false_eq_true, if_false]
  exact hdone

/-! Buckets (R395). -/

/-- A full bucket starts while fewer than 2 are in flight. -/
theorem bucketStart_starts (h : colGet s p c = some e) {b : Nat} (hst : e.st = 1 ∨ e.st = 2) (hop : ceOp e.raw ≠ 4)
    (hroot : ceTree e.raw = true → e.self = ceRoot e.raw) (hmask : ceOp e.raw = 6 → e.act ≠ none) (hsome : 0 < bucketLen e b)
    (hfull : bucketLen e b ≤ tgetD e.cnt b 0) (hfl : b ∉ e.flight) (hran : b ∉ e.ran) (htwo : e.flight.length < 2) :
    bucketStart s p c b = colPut s p c { e.run with flight := e.flight ++ [b] } := by
  have hst' : e.st ≠ 0 ∧ e.st ≠ 3 := by omega
  have hmask' : (decide (ceOp e.raw = 6) && e.act.isNone) = false := by
    by_cases h6 : ceOp e.raw = 6
    · simp [h6, Option.isSome_iff_ne_none, hmask h6]
    · simp [h6]
  unfold bucketStart
  rw [h]
  refine if_neg ?_
  simp [hst'.1, hst'.2, hop, hmask', hsome.ne', Nat.not_lt.2 hfull, hfl, hran, Nat.not_le.2 htwo]
  exact hroot

theorem bucketStart_idle (h : colGet s p c = some e) {b : Nat} (hno : 2 ≤ e.flight.length ∨ tgetD e.cnt b 0 < bucketLen e b) :
    bucketStart s p c b = s := by
  unfold bucketStart
  rw [h]
  refine if_pos ?_
  rcases hno with h | h
  · simp [h]
  · simp [h]

/-! The end of a collective (R397). -/

/-- The entry of a collective that has ended is armed again; it fails where bytes were written beyond full for the next one. -/
def entryArmed (s : State) (p c : Nat) (e : ColEnt) : State :=
  let s0 := colPut (digEnd s p c e) p c (e.rearm (actStart e.raw))
  if overfull (e.rearm (actStart e.raw)) then colOver s0 p c else s0

/-- The device once a collective has ended, before its semaphore rises. -/
def instanceEnded (s : State) (p c : Nat) (e : ColEnt) : State :=
  let s1 := entryArmed s p c e
  colBump { s1 with colIn := s1.colIn.filter (fun m => !(m.part = p && m.coll = c && m.epoch = e.epoch)) } R.colInstances 1

theorem colInstanceComplete_ends (h : colGet s p c = some e) (hu : s.colUnl = []) (hst : e.st = 2) (hwhole : colWhole e = true)
    (hack : colAcked s p c e.epoch = true) (hfab : OnFabric s (instanceEnded s p c e)) :
    colInstanceComplete s p c = if ceSemEn e.raw then semUp (instanceEnded s p c e) p (ceSem e.raw) 0 0 else instanceEnded s p c e := by
  have hsem : Counted (instanceEnded s p c e) (semUp (instanceEnded s p c e) p (ceSem e.raw) 0 0)
      [R.grfErrLog p, R.grfErrCount p, R.grfSemS p (ceSem e.raw)] := by
    unfold semUp
    split
    · exact Counted.mono (counted_logErr ..) (by simp)
    · exact Counted.mono (counted_wrf ..) (by simp)
  have hunl : (if ceSemEn e.raw then semUp (instanceEnded s p c e) p (ceSem e.raw) 0 0 else instanceEnded s p c e).colUnl = [] := by
    have he : (instanceEnded s p c e).colUnl = [] := by rw [show instanceEnded s p c e = _ from hfab, hu]
    split
    · rw [hsem.eq]
      exact he
    · exact he
  have hstep : colInstanceComplete s p c =
      unloadTry (if ceSemEn e.raw then semUp (instanceEnded s p c e) p (ceSem e.raw) 0 0 else instanceEnded s p c e) p := by
    unfold colInstanceComplete
    rw [h]
    exact if_neg (by simp [hst, hwhole, hack])
  rw [hstep]
  exact if_neg (by simp [hunl])

end

section
variable {s : State} {p c : Nat} {e : ColEnt}

theorem onFabric_entryArmed (s : State) (p c : Nat) (e : ColEnt) : OnFabric s (entryArmed s p c e) := by
  have hput : OnFabric s (colPut (digEnd s p c e) p c (e.rearm (actStart e.raw))) := by
    rw [digEnd_eq]
    rfl
  unfold entryArmed
  dsimp only
  split
  · exact hput.trans (onFabric_colOver ..)
  · exact hput

theorem colGet_entryArmed (s : State) (p c : Nat) (e : ColEnt) : colGet (entryArmed s p c e) p c =
    some (if overfull (e.rearm (actStart e.raw)) then (e.rearm (actStart e.raw)).failed 10 else e.rearm (actStart e.raw)) := by
  have hput := colGet_colPut_same (digEnd s p c e) p c (e.rearm (actStart e.raw))
  unfold entryArmed
  dsimp only
  split
  · exact colGet_colOver hput (by decide : (1 : Nat) ≠ 3)
  · exact hput

theorem rd_entryArmed {r : Reg} (hr : OffFail r) (s : State) (p c : Nat) (e : ColEnt) : rd (entryArmed s p c e) r = rd s r := by
  have hput : rd (colPut (digEnd s p c e) p c (e.rearm (actStart e.raw))) r = rd s r := rd_digEnd hr s e
  unfold entryArmed
  dsimp only
  split
  · exact (rd_colOver hr ..).trans hput
  · exact hput

theorem onFabric_instanceEnded (s : State) (p c : Nat) (e : ColEnt) : OnFabric s (instanceEnded s p c e) := by
  have harmed := onFabric_entryArmed s p c e
  unfold instanceEnded
  generalize entryArmed s p c e = w at harmed ⊢
  have hdrop : OnFabric w { w with colIn := w.colIn.filter (fun m => !(m.part = p && m.coll = c && m.epoch = e.epoch)) } := rfl
  exact (harmed.trans hdrop).trans (counted_colBump ..).onFabric

theorem colGet_instanceEnded (s : State) (p c : Nat) (e : ColEnt) : colGet (instanceEnded s p c e) p c =
    some (if overfull (e.rearm (actStart e.raw)) then (e.rearm (actStart e.raw)).failed 10 else e.rearm (actStart e.raw)) := by
  rw [← colGet_entryArmed s p c e]
  unfold instanceEnded
  generalize entryArmed s p c e = w
  exact colGet_of_cols (by rw [(counted_colBump ..).eq]) p c

theorem rd_instanceEnded {r : Reg} (hr : OffFail r) (hne : r.addr ≠ R.colInstances.addr) (s : State) (p c : Nat) (e : ColEnt) :
    rd (instanceEnded s p c e) r = rd s r := by
  rw [← rd_entryArmed (p := p) (c := c) hr s e]
  unfold instanceEnded
  generalize entryArmed s p c e = w
  exact (counted_colBump ..).regs r (by simpa using hne)

theorem rd_instances_instanceEnded (s : State) (p c : Nat) (e : ColEnt) (hon : bit (rd s R.colCtrl) 0 = false) :
    rd (instanceEnded s p c e) R.colInstances = (rd s R.colInstances + 1) % 2 ^ 48 := by
  have hcount := rd_entryArmed (r := R.colInstances) (by unfold OffFail; decide) s p c e
  have hctrl := rd_entryArmed (r := R.colCtrl) (by unfold OffFail; decide) s p c e
  unfold instanceEnded
  generalize entryArmed s p c e = w at hcount hctrl ⊢
  have hoff : bit (rd { w with colIn := w.colIn.filter (fun m => !(m.part = p && m.coll = c && m.epoch = e.epoch)) } R.colCtrl) 0 = false := by
    rw [← hctrl] at hon
    exact hon
  dsimp only
  rw [colBump, hoff, rd_bump_same, if_neg Bool.false_ne_true]
  exact congrArg (fun n => (n + 1) % 2 ^ 48) hcount

/-- A whole and acknowledged collective ends. -/
theorem colInstanceComplete_completes (hp : p < 16) (hc : Calm s) (h : colGet s p c = some e) (hst : e.st = 2) (hwhole : colWhole e = true)
    (hack : colAcked s p c e.epoch = true) {P : State → Prop} (hP : ∀ u, colGet u p c = colGet (instanceEnded (quiet s) p c e) p c →
      (bit (rd s R.colCtrl) 0 = false → rd u R.colInstances = (rd s R.colInstances + 1) % 2 ^ 48) →
      (ceSemEn e.raw = true → semGet s p (ceSem e.raw) < 65535 → semGet u p (ceSem e.raw) = semGet s p (ceSem e.raw) + 1) → P u) :
    Completes (.colInstanceComplete p c) s P := by
  have hfab := onFabric_instanceEnded (quiet s) p c e
  have e1 := colInstanceComplete_ends (s := quiet s) h hc.unl hst hwhole hack hfab
  have hinst := rd_instances_instanceEnded (quiet s) p c e
  have hsem : ceSem e.raw < 256 := bits_lt ..
  generalize ceSem e.raw = i at hsem e1 hP
  have hsemreg : (R.grfSemS p i).addr = 0x200004000 + p * 0x1000000 + 0x1000 + i * 8 := rfl
  have hlog : (R.grfErrLog p).addr = 0x200004000 + p * 0x1000000 + 0x18 := rfl
  have hcnt : (R.grfErrCount p).addr = 0x200004000 + p * 0x1000000 + 0x20 := rfl
  have hcol : R.colInstances.addr < 0x200000000 := by decide
  have hup : Counted (instanceEnded (quiet s) p c e) (semUp (instanceEnded (quiet s) p c e) p i 0 0) [R.grfErrLog p, R.grfErrCount p, R.grfSemS p i] := by
    unfold semUp
    split
    · exact Counted.mono (counted_logErr ..) (by simp)
    · exact Counted.mono (counted_wrf ..) (by simp)
  have hget : semGet (instanceEnded (quiet s) p c e) p i = semGet s p i := by
    refine congrArg (bits · 0 16) (rd_instanceEnded ?_ ?_ (quiet s) p c e)
    · have hlow : ∀ a ∈ [R.colDigHead.addr, R.colErrLog.addr, R.colErrCount.addr, R.colFailed.addr], a < 0x200000000 := by decide
      exact ⟨.inr (by omega), fun hm => absurd (hlow _ hm) (by omega)⟩
    · omega
  have hcalm : Calm (instanceEnded (quiet s) p c e) := hfab.calm hc.quiet
  generalize instanceEnded (quiet s) p c e = v at *
  have hv : Calm (if ceSemEn e.raw then semUp v p i 0 0 else v) := by
    split
    · exact hup.calm hcalm
    · exact hcalm
  refine completes_act (f := fun t => colInstanceComplete t p c) hc hp (by rw [e1]; exact hv) fun u hu => ?_
  rw [e1] at hu
  have hkept : Counted v (if ceSemEn e.raw then semUp v p i 0 0 else v) [R.grfErrLog p, R.grfErrCount p, R.grfSemS p i] := by
    split
    · exact hup
    · exact .refl v _
  have hcols : (if ceSemEn e.raw then semUp v p i 0 0 else v).cols = v.cols := by rw [hkept.eq]
  refine hP u (hu.colGet p c |>.trans (colGet_of_cols hcols p c)) (fun hon => ?_) fun hen hlt => ?_
  · rw [hu.rd _ (by decide), hkept.regs]
    · exact hinst hon
    · simp only [List.map_cons, List.map_nil, List.mem_cons, List.not_mem_nil, or_false]
      omega
  · have hrise : semUp v p i 0 0 = wrf v (R.grfSemS p i) 0 16 (semGet s p i + 1) := by
      rw [semUp, hget]
      exact if_neg (by omega)
    rw [if_pos hen, hrise] at hu
    have hnote : (R.grfSemS p i).addr ∉ noteRegs := low_notNote (by omega)
    rw [semGet, rdf, hu.rd _ hnote, wrf, rd_wr_same, bits_setBits_same]
    exact Nat.mod_eq_of_lt (by omega)

end

/-- Settles O41: the clauses of loading and unloading by the rules of those (`colLoad_loads`, `colUnload_frees`), a flush by what it lets happen
(`flushEnd_carries`), the end of a collective by `colInstanceComplete_completes`. -/
theorem collectiveTables : Obligations.CollectiveTables := by
  unfold Obligations.CollectiveTables
  intro s p hp hc
  refine ⟨fun hf hst => ⟨fun l hl => ⟨fun hlen hkey hused hsend hrecv hfit hcalm => ?_, fun hbad hcalm => ?_⟩, fun k i hk hcalm => ?_⟩,
    fun hst => ⟨fun hidle => colUnload_frees hp hc hst hidle, fun hruns => colUnload_waits hp hc hst hruns⟩,
    fun c e he => ⟨fun hst => colReset_completes hp hc he hst, fun a hctl hst hact hlen hal => ⟨fun hop hover htree => ?_, fun hop hcalm => ?_,
      fun w bs hop hread hcalm => ?_⟩, fun ep a hctl hep => ?_, fun b hst hop hroot hmask hsome hfull hfl hran htwo => ?_, fun b hno => ?_,
      fun hst hwhole hack => ⟨fun hover => ?_, fun hover => ?_⟩⟩⟩
  · exact colLoad_loads hp hc hf hst (Prod.ext hl rfl) hkey hused hsend hrecv hfit hcalm
  · exact colLoad_refuses hp hc hf hst (Prod.ext hl rfl) hbad hcalm
  · exact (loadFailed_completes hp hc hcalm (colLoad_bad (t := quiet s) hp hf hst (Prod.ext hk rfl))).imp fun u ⟨hu, h3, hcols, _⟩ => ⟨hu, h3, hcols⟩
  · obtain ⟨hplain, -⟩ := colCtlFlush_takes (s := quiet s) he hctl hst hact hlen hal
    simp only [List.mem_cons, List.not_mem_nil, or_false, not_or] at hop
    obtain ⟨-, -, -, hraw⟩ := flushEnt_known e a
    have e1 := (hplain hop.2).trans (flushEnd_plain (x := flushEnt e a) (by rw [hraw]; exact hop.1) hover (by rw [hraw]; exact htree) (quiet s))
    refine completes_act (f := fun t => colCtlFlush t p c e.epoch a) hc hp (by rw [e1]; exact hc.quiet.of rfl rfl rfl rfl rfl rfl rfl) fun u hu => ?_
    rw [e1] at hu
    exact ⟨(hu.colGet p c).trans (colGet_colPut_same ..), .intro hu rfl fun _ _ => rfl⟩
  · obtain ⟨hplain, -⟩ := colCtlFlush_takes (s := quiet s) he hctl hst hact hlen hal
    refine completes_act (f := fun t => colCtlFlush t p c e.epoch a) hc hp hcalm fun u hu => ?_
    rw [hplain hop] at hu
    obtain ⟨e', hget, hact', hepoch, hst', -⟩ := flushed_known (x := flushEnt e a) (a := a) rfl (p := p) (c := c) (quiet s)
    exact ⟨e', (hu.colGet p c).trans hget, hact', hepoch, hst'⟩
  · obtain ⟨-, hmask⟩ := colCtlFlush_takes (s := quiet s) he hctl hst hact hlen hal
    refine completes_act (f := fun t => colCtlFlush t p c e.epoch a) hc hp hcalm fun u hu => ?_
    rw [hmask bs w hop hread] at hu
    obtain ⟨e', hget, hrest⟩ := flushed_known (x := { flushEnt e a with
      mask := (List.range e.n).filter (fun k => bit (leVal ((bs.drop (k / 8)).take 1)) (k % 8)) }) (a := a) rfl (p := p) (c := c) w
    exact ⟨e', (hu.colGet p c).trans hget, hrest⟩
  · have e1 : colCtlFlush (quiet s) p c ep a = colErr (quiet s) 7 p c 0 := by
      have he' : colGet (quiet s) p c = some e := he
      simp [colCtlFlush, he', hctl, hep]
    have hk := counted_colErr (quiet s) 7 p c 0
    refine completes_act (f := fun t => colCtlFlush t p c ep a) hc hp (by rw [e1]; exact hk.calm hc.quiet) fun u hu => ?_
    rw [e1] at hu
    exact ⟨by rw [hu.cols, hk.eq]; rfl, .intro hu (by rw [hk.eq]; rfl) hk.regs⟩
  · have e1 := bucketStart_starts (s := quiet s) he hst hop hroot hmask hsome hfull hfl hran htwo
    refine completes_act (f := fun t => bucketStart t p c b) hc hp (by rw [e1]; exact hc.quiet.of rfl rfl rfl rfl rfl rfl rfl) fun u hu => ?_
    rw [e1] at hu
    exact ⟨(hu.colGet p c).trans (colGet_colPut_same ..), .intro hu rfl fun _ _ => rfl⟩
  · have e1 := bucketStart_idle (s := quiet s) he hno
    refine completes_act (f := fun t => bucketStart t p c b) hc hp (by rw [e1]; exact hc.quiet) fun u hu => ?_
    rw [e1] at hu
    exact ⟨by rw [hu.cols]; rfl, .intro hu rfl fun _ _ => rfl⟩
  · refine colInstanceComplete_completes hp hc he hst hwhole hack fun u hget hcount hsem => ⟨?_, hcount, hsem⟩
    rw [hget, colGet_instanceEnded, hover]
    rfl
  · refine colInstanceComplete_completes hp hc he hst hwhole hack fun u hget hcount _ => ⟨⟨(e.rearm (actStart e.raw)).failed 10, ?_, rfl, rfl, rfl⟩, hcount⟩
    rw [hget, colGet_instanceEnded, hover]
    rfl

end Sys2Proof.Machine

/-!
SUPPORT for the operations of chapter 13 (R396, R400): the pieces that go out to each rank, and the children of a tree, each of which is sent its piece or
pruned.
-/

namespace Sys2Proof.Machine

/-! Pieces that go out. -/

/-- `e'` is the entry `e` with pieces added to its digest. -/
structure DigGrows (e e' : ColEnt) : Prop where
  eq : e' = { e with dig := e'.dig }
  dig : e.dig ⊆ e'.dig

section
variable {e e' e'' : ColEnt}

theorem DigGrows.refl (e : ColEnt) : DigGrows e e := ⟨rfl, List.Subset.refl _⟩

theorem DigGrows.trans (h : DigGrows e e') (k : DigGrows e' e'') : DigGrows e e'' where
  eq := by
    have he := k.eq
    rw [h.eq] at he
    exact he
  dig := List.Subset.trans h.dig k.dig

end

section
variable {p c : Nat} {s t u : State}

/-- Pieces of the entry's data go out. -/
abbrev Sending (p c : Nat) : State → State → Prop := EntryGoes p c DigGrows

theorem EntriesKept.sending (h : EntriesKept p s t) : Sending p c s t := h.goes DigGrows.refl
theorem sending_refl (s : State) : Sending p c s s := (EntriesKept.refl s).sending
theorem sending_trans (h : Sending p c s t) (k : Sending p c t u) : Sending p c s u := h.trans DigGrows.trans k

theorem sending_foldl {α : Type} {f : State → α → State} (hf : ∀ t a, Sending p c t (f t a)) (l : List α) (s : State) : Sending p c s (l.foldl f s) := by
  induction l generalizing s with
  | nil => exact sending_refl s
  | cons a l ih => exact sending_trans (hf s a) (ih _)

theorem sending_digAdd (s : State) (dev part dir b off : Nat) (data : List Byte) : Sending p c s (digAdd s p c dev part dir b off data) := by
  unfold digAdd
  split
  · exact sending_refl s
  · exact entryGoes_colMod (fun e => ⟨rfl, List.subset_append_left ..⟩) s

theorem sending_colData (s : State) (e : ColEnt) (k kind b off : Nat) (data : List Byte) (bk : Bool) (rank : Nat) :
    Sending p c s (colData s p c e k kind b off data bk rank) := by
  unfold colData
  split
  · exact sending_refl s
  · exact sending_foldl (fun t i => sending_trans (entriesKept_flowSend ..).sending (sending_digAdd ..)) _ s

/-- What holds of an entry for each of a list of ranks, once each rank's step has made it so and no step undoes it. -/
theorem sending_each {A : Nat → ColEnt → Prop} (hA : ∀ {j x y}, DigGrows x y → A j x → A j y) {f : State → Nat → State}
    (hf : ∀ t j, Sending p c t (f t j)) {l : List Nat} (hmake : ∀ t j, j ∈ l → ∀ x, colGet t p c = some x → ∃ y, colGet (f t j) p c = some y ∧ A j y)
    {s : State} {x : ColEnt} (hx : colGet s p c = some x) :
    ∃ y, colGet (l.foldl f s) p c = some y ∧ DigGrows x y ∧ ∀ j ∈ l, A j y := by
  induction l generalizing s x with
  | nil => exact ⟨x, hx, .refl x, fun j hj => nomatch hj⟩
  | cons j l ih =>
    obtain ⟨y, hy, hxy⟩ := (hf s j).entry x hx
    obtain ⟨y', hy', hAy⟩ := hmake s j (List.mem_cons_self ..) x hx
    obtain rfl : y = y' := Option.some.inj (hy.symm.trans hy')
    obtain ⟨z, hz, hyz, hall⟩ := ih (fun t k hk => hmake t k (List.mem_cons_of_mem _ hk)) hy
    refine ⟨z, hz, hxy.trans hyz, fun k hk => ?_⟩
    rcases List.mem_cons.1 hk with rfl | hk
    · exact hA hyz hAy
    · exact hall k hk

/-- The digest piece of the first packet of `d`, sent to the rank of group entry `g`. -/
def firstPiece (g b off : Nat) (d : List Byte) : DigPart := ⟨geDev g, gePart g, 0, b, off, d.take 8192⟩

theorem pieces_first {d : List Byte} (hd : d ≠ []) : 0 < (pieces 8192 d).length ∧ (pieces 8192 d).getD 0 [] = d.take 8192 := by
  have hlen : 0 < d.length := List.length_pos_iff.2 hd
  have hn : 0 < cdiv d.length 8192 := by
    unfold cdiv
    omega
  refine ⟨by simpa [pieces] using hn, ?_⟩
  simp [pieces, List.getD_eq_getElem?_getD, List.getElem?_map, List.getElem?_range hn]

/-- Data that goes out to a rank leaves its first piece in the digest. -/
theorem colData_sent (s : State) {e x : ColEnt} (hx : colGet s p c = some x) {k g : Nat} (hg : lget e.grp k = some g) (kind b off : Nat) {d : List Byte}
    (hd : d ≠ []) (bk : Bool) (rank : Nat) :
    ∃ y, colGet (colData s p c e k kind b off d bk rank) p c = some y ∧ firstPiece g b off d ∈ y.dig := by
  obtain ⟨hlen, hfirst⟩ := pieces_first hd
  obtain ⟨n, hn⟩ : ∃ n, (pieces 8192 d).length = n + 1 := ⟨_, (Nat.succ_pred_eq_of_pos hlen).symm⟩
  have htake : (d.take 8192).isEmpty = false := by
    cases d with
    | nil => exact absurd rfl hd
    | cons a r => rfl
  simp only [colData, hg]
  rw [hn, List.range_succ_eq_map, List.foldl_cons, hfirst]
  have hsend := (entriesKept_flowSend (p := p) s p (geDev g) (gePart g) e.vc ⟨kind, c, rank, e.epoch, b, off + 8192 * 0, bk, d.take 8192⟩).sending (c := c)
  obtain ⟨x1, hx1, -⟩ := hsend.entry x hx
  generalize flowSend s p (geDev g) (gePart g) e.vc _ = w at hx1 ⊢
  have hadd : colGet (digAdd w p c (geDev g) (gePart g) 0 b (off + 8192 * 0) (d.take 8192)) p c =
      some { x1 with dig := x1.dig ++ [firstPiece g b off d] } := by
    rw [digAdd, htake, if_neg Bool.false_ne_true, colGet_colMod hx1]
    rfl
  obtain ⟨y, hy, hgrow⟩ := (sending_foldl (p := p) (c := c) (fun t i => sending_trans (entriesKept_flowSend ..).sending (sending_digAdd ..)) _
    (digAdd w p c (geDev g) (gePart g) 0 b (off + 8192 * 0) (d.take 8192))).entry _ hadd
  exact ⟨y, hy, hgrow.dig (by simp)⟩

end

/-! The children of a tree (R400). -/

/-- `x` is the entry `e` with another digest, other children pruned, and other live multicast entries. -/
def InTree (e x : ColEnt) : Prop := x = { e with dig := x.dig, pruned := x.pruned, ents := x.ents }

/-- Each child of the tree of `e` has been sent its piece, is pruned, or is among those about to be. -/
def KidsServed (e : ColEnt) (b : Nat) (d : List Byte) (l : List Nat) (x : ColEnt) : Prop :=
  ∀ k ∈ treeKids e, k ∈ x.pruned ∨ k ∈ l ∨ firstPiece (e.grp.getD k 0) b 0 d ∈ x.dig

section
variable {p c : Nat} {e x : ColEnt}

theorem InTree.kids (h : InTree e x) : treeKids x = treeKids e := by
  rw [show x = _ from h]
  rfl

theorem treeKids_lt {k : Nat} (h : k ∈ treeKids e) : k < e.n := by
  unfold treeKids at h
  split at h
  · exact nomatch h
  · obtain ⟨m, -, hm⟩ := List.mem_filterMap.1 h
    rw [lget_eq] at hm
    have hrank := List.mem_of_getElem? hm
    have hmem : ∀ l : List Nat, (l = (List.range e.n).filter (fun k => k = ceRoot e.raw || e.mask.contains k) ∨ l = List.range e.n) →
        k ∈ l.filter (fun k => ceRoot e.raw ≤ k) ++ l.filter (fun k => k < ceRoot e.raw) → k < e.n := by
      rintro l (rfl | rfl) hk
      · simp only [List.mem_append, List.mem_filter, List.mem_range] at hk
        omega
      · simp only [List.mem_append, List.mem_filter, List.mem_range] at hk
        omega
    unfold treeRanks at hrank
    dsimp only at hrank
    split at hrank
    · exact hmem _ (.inl rfl) hrank
    · exact hmem _ (.inr rfl) hrank

/-- Children at one device and partition take from one flow: the same pieces wait for them. -/
theorem kidWaits_peer (s : State) (hn : e.grp.length = e.n) {k k' : Nat} (hk : k < e.n) (hk' : k' < e.n)
    (hdev : geDev (e.grp.getD k 0) = geDev (e.grp.getD k' 0)) (hpart : gePart (e.grp.getD k 0) = gePart (e.grp.getD k' 0)) :
    kidWaits s p c e k = kidWaits s p c e k' := by
  have hget {j : Nat} (hj : j < e.n) : lget e.grp j = some (e.grp.getD j 0) := by
    rw [lget_eq, List.getD_eq_getElem?_getD, List.getElem?_eq_getElem (hn ▸ hj)]
    rfl
  simp only [kidWaits, kidFlow, hget hk, hget hk', hdev, hpart]

theorem getD_lget (l : List Nat) (k : Nat) : (lget l k).getD 0 = l.getD k 0 := by rw [lget_eq, List.getD_eq_getElem?_getD]

/-- The entry once child `k` is pruned: of its digest the pieces that wait for the child are gone. -/
theorem kidPrune_entry (s : State) {b' off k : Nat} (hx : colGet s p c = some x) : ∃ gone : DigPart → Bool,
    colGet (kidPrune s p c b' off k) p c = some { x with pruned := x.pruned ++ [k], dig := x.dig.filter (fun d => !gone d) } ∧
    ∀ d, gone d = true → d.dev = geDev (x.grp.getD k 0) ∧ d.part = gePart (x.grp.getD k 0) := by
  unfold kidPrune
  split
  · next h => exact absurd (hx.symm.trans h) (Option.some_ne_none x)
  · next y h =>
    obtain rfl : x = y := Option.some.inj (hx.symm.trans h)
    extract_lets ws sl g gone s1 s2
    have h2 : s2.cols = s1.cols := by
      unfold s2
      split
      · rfl
      · rfl
    refine ⟨gone, ?_, fun d hd => ?_⟩
    · refine (colGet_of_cols ?_ p c).trans (colGet_colPut_same s p c _)
      rw [(entriesKept_colCtl (p := p) _ p c x k 7 b' off []).cols, colBump, bump_cols, colBump, bump_cols, chmBump, bump_cols]
      exact h2
    · unfold gone at hd
      rw [Bool.and_eq_true, Bool.and_eq_true, Bool.and_eq_true] at hd
      obtain ⟨⟨⟨hdev, hpart⟩, -⟩, -⟩ := hd
      rw [← getD_lget]
      exact ⟨of_decide_eq_true hdev, of_decide_eq_true hpart⟩

variable {b : Nat} {d : List Byte}

/-- The children that have not taken a piece are pruned one by one. -/
theorem kidsPrune_served (b' off : Nat) {l : List Nat} {s : State} (hx : colGet s p c = some x) (hin : InTree e x)
    (hserved : KidsServed e b d l x)
    (hpeers : ∀ k ∈ treeKids e, ∀ k' ∈ l, geDev (e.grp.getD k 0) = geDev (e.grp.getD k' 0) → gePart (e.grp.getD k 0) = gePart (e.grp.getD k' 0) →
      k ∈ l ∨ k ∈ x.pruned) :
    ∃ y, colGet (l.foldl (fun t k => kidPrune t p c b' off k) s) p c = some y ∧ InTree e y ∧ KidsServed e b d [] y := by
  induction l generalizing s x with
  | nil => exact ⟨x, hx, hin, hserved⟩
  | cons k0 l ih =>
    obtain ⟨gone, hy, hgone⟩ := kidPrune_entry (b' := b') (off := off) (k := k0) s hx
    have hgrp : x.grp = e.grp := by rw [show x = _ from hin]
    rw [hgrp] at hgone
    refine ih hy ?_ (fun k hk => ?_) (fun k hk k' hk' hdev hpart => ?_)
    · unfold InTree at hin ⊢
      rw [hin]
    · simp only [List.mem_append, List.mem_singleton, List.mem_filter, Bool.not_eq_true']
      rcases hserved k hk with h | h | h
      · exact .inl (.inl h)
      · exact (List.mem_cons.1 h).imp .inr .inl
      · cases hg : gone (firstPiece (e.grp.getD k 0) b 0 d) with
        | false => exact .inr (.inr ⟨h, rfl⟩)
        | true =>
          obtain ⟨hdev, hpart⟩ := hgone _ hg
          rcases hpeers k hk k0 (List.mem_cons_self ..) hdev hpart with h' | h'
          · exact (List.mem_cons.1 h').imp .inr .inl
          · exact .inl (.inl h')
    · simp only [List.mem_append, List.mem_singleton]
      rcases hpeers k hk k' (List.mem_cons_of_mem _ hk') hdev hpart with h | h
      · exact (List.mem_cons.1 h).elim (fun h => .inr (.inr h)) .inl
      · exact .inr (.inl h)

/-- The budget's check prunes a child or leaves it its piece. -/
theorem treeCheck_served (he : e.grp.length = e.n) (n : Nat) {s : State} (hx : colGet s p c = some x) (hin : InTree e x)
    (hserved : KidsServed e b d [] x) : ∃ y, colGet (treeCheck s p c n) p c = some y ∧ InTree e y ∧ KidsServed e b d [] y := by
  induction n generalizing s x with
  | zero => exact ⟨x, hx, hin, hserved⟩
  | succ n ih =>
    unfold treeCheck
    simp only [hx]
    split
    · exact ⟨x, hx, hin, hserved⟩
    · generalize treeLive s p c x = live
      have hents : ∃ y, colGet (if live = x.ents then s else colPut s p c { x with ents := live }) p c = some y ∧ InTree e y ∧
          KidsServed e b d [] y ∧ y.pruned = x.pruned := by
        split
        · exact ⟨x, hx, hin, hserved, rfl⟩
        · refine ⟨_, colGet_colPut_same .., ?_, hserved, rfl⟩
          unfold InTree at hin ⊢
          rw [hin]
      generalize (if live = x.ents then s else colPut s p c { x with ents := live }) = s1 at hents ⊢
      obtain ⟨y, hy, hyin, hyserved, hpruned⟩ := hents
      split
      · exact ⟨y, hy, hyin, hyserved⟩
      · next piece _ =>
        split
        · have hkids := hin.kids
          have hgrp : x.grp = e.grp := by rw [show x = _ from hin]
          have hnum : x.n = e.n := by rw [show x = _ from hin]
          obtain ⟨z, hz, hzin, hzserved⟩ := kidsPrune_served (l := (treeKids x).filter (fun k => !x.pruned.contains k &&
              (kidWaits s p c x k).contains (piece.1, piece.2.1, piece.2.2.1))) piece.1 piece.2.1 hy hyin
            (fun k hk => (hyserved k hk).imp id (Or.imp (fun h => nomatch h) id)) fun k hk k' hk' hdev hpart => by
              rw [hkids, List.mem_filter] at hk'
              obtain ⟨hk', hwaits⟩ := hk'
              rw [hpruned, hkids, List.mem_filter]
              have hsame : kidWaits s p c x k = kidWaits s p c x k' :=
                kidWaits_peer s (by rw [hgrp, hnum, he]) (hnum ▸ treeKids_lt hk) (hnum ▸ treeKids_lt hk') (by rw [hgrp]; exact hdev)
                  (by rw [hgrp]; exact hpart)
              simp only [Bool.and_eq_true] at hwaits ⊢
              by_cases hp : k ∈ x.pruned
              · exact .inr hp
              · exact .inl ⟨hk, by simpa using hp, by rw [hsame]; exact hwaits.2⟩
          exact ih hz hzin hzserved
        · exact ⟨y, hy, hyin, hyserved⟩

theorem DigGrows.inTree {y : ColEnt} (h : DigGrows x y) (hin : InTree e x) : InTree e y := by
  have he := h.eq
  unfold InTree at hin ⊢
  rw [hin] at he
  rw [he]

theorem sending_toChild (s : State) (b off : Nat) (bs : List Byte) (k : Nat) : Sending p c s (toChild s p c b off bs k) := by
  unfold toChild
  split
  · exact sending_refl s
  · split
    · exact sending_refl s
    · exact sending_colData ..

/-- Data that goes down a tree is sent to each child that is not pruned. The entry `e0` at the start may be an earlier one, of the same tree. -/
theorem treeDown_served (he : e.grp.length = e.n) {e0 : ColEnt} (hkids : treeKids e0 = treeKids e) {s : State} (hx : colGet s p c = some e) (hd : d ≠ []) :
    ∃ y, colGet (treeDown s p c e0 b 0 d) p c = some y ∧ InTree e y ∧ KidsServed e b d [] y := by
  have hget {j : Nat} (hj : j < e.n) : lget e.grp j = some (e.grp.getD j 0) := by
    rw [lget_eq, List.getD_eq_getElem?_getD, List.getElem?_eq_getElem (he ▸ hj)]
    rfl
  obtain ⟨y, hy, hgrow, hall⟩ := sending_each (A := fun k x => x.grp = e.grp → k ∈ x.pruned ∨ firstPiece (e.grp.getD k 0) b 0 d ∈ x.dig)
    (fun hxy h hg => by
      have hgrp := congrArg ColEnt.grp hxy.eq
      have hpruned := congrArg ColEnt.pruned hxy.eq
      exact (h (hgrp ▸ hg)).imp (fun h => by rw [hpruned]; exact h) (hxy.dig ·))
    (f := fun t k => toChild t p c b 0 d k) (fun t k => sending_toChild ..) (l := treeKids e)
    (fun t k hk x hx => by
      by_cases hp : x.pruned.contains k = true
      · exact ⟨x, by simp only [toChild, hx, hp, if_true], fun _ => .inl (by simpa using hp)⟩
      · by_cases hg : x.grp = e.grp
        · obtain ⟨y, hy, hmem⟩ := colData_sent (p := p) (c := c) t (e := x) hx (by rw [hg]; exact hget (treeKids_lt hk)) 4 b 0 hd false x.self
          exact ⟨y, by simp only [toChild, hx, hp]; exact hy, fun _ => .inr hmem⟩
        · obtain ⟨y, hy, hxy⟩ := (sending_toChild t b 0 d k).entry x hx
          exact ⟨y, hy, fun h => absurd ((congrArg ColEnt.grp hxy.eq).symm.trans h) hg⟩) hx
  have hin : InTree e y := hgrow.inTree rfl
  have hserved : KidsServed e b d [] y := fun k hk => (hall k hk (by rw [hgrow.eq])).imp id .inr
  obtain ⟨z, hz, hzin, hzserved⟩ := treeCheck_served he 13 hy hin hserved
  obtain ⟨v, hv, hzv⟩ := (sending_foldl (p := p) (c := c) (fun t k => sending_colData t e0 k 4 b 0 d false e0.self) e0.uni _).entry z hz
  unfold treeDown
  rw [hkids]
  refine ⟨v, hv, hzv.inTree hzin, fun k hk => ?_⟩
  have hpruned := congrArg ColEnt.pruned hzv.eq
  exact (hzserved k hk).imp (fun h => by rw [hpruned]; exact h) (Or.imp id (hzv.dig ·))

end

end Sys2Proof.Machine

/-!
SUPPORT and proof for the operations of chapter 13 (R396, R400): O42.
-/

namespace Sys2Proof.Machine

section
variable {s w : State} {p c b : Nat} {e : ColEnt} {bs : List Byte}

theorem opReady_iff {op : Nat} : opReady e op b = true ↔ ceOp e.raw = op ∧ e.st = 2 ∧ b ∈ e.flight ∧ b ∉ e.ran := by
  simp only [opReady, Bool.and_eq_true, decide_eq_true_eq, Bool.not_eq_true', List.contains_eq_mem, decide_eq_false_iff_not]
  tauto

theorem lget_rank (hn : e.grp.length = e.n) {j : Nat} (hj : j < e.n) : lget e.grp j = some (e.grp.getD j 0) := by
  rw [lget_eq, List.getD_eq_getElem?_getD, List.getElem?_eq_getElem (hn ▸ hj)]
  rfl

/-- Bytes from rank to rank: what each rank but one's own is sent of the data `d j` from offset `off j` on. -/
theorem sending_ranks (hn : e.grp.length = e.n) (kind : Nat) (off : Nat → Nat) (d : Nat → List Byte) {t : State} {x : ColEnt}
    (hx : colGet t p c = some x) (bk : Bool) (rank : Nat) :
    ∃ y, colGet ((List.range e.n).foldl (fun t j => if j = e.self then t else colData t p c e j kind b (off j) (d j) bk rank) t) p c = some y ∧
      DigGrows x y ∧ ∀ j, j < e.n → j ≠ e.self → d j ≠ [] → firstPiece (e.grp.getD j 0) b (off j) (d j) ∈ y.dig := by
  have hsend (t : State) (j : Nat) : Sending p c t (if j = e.self then t else colData t p c e j kind b (off j) (d j) bk rank) := by
    split
    · exact sending_refl t
    · exact sending_colData ..
  obtain ⟨y, hy, hgrow, hall⟩ := sending_each
    (A := fun j x => j ≠ e.self → d j ≠ [] → firstPiece (e.grp.getD j 0) b (off j) (d j) ∈ x.dig) (fun hxy h hs hd => hxy.dig (h hs hd)) hsend
    (fun t j hj x hx => by
      by_cases hs : j = e.self
      · exact ⟨x, by rw [if_pos hs]; exact hx, fun h => absurd hs h⟩
      · by_cases hd : d j = []
        · obtain ⟨y, hy, -⟩ := (hsend t j).entry x hx
          exact ⟨y, hy, fun _ h => absurd hd h⟩
        · obtain ⟨y, hy, hmem⟩ := colData_sent (p := p) (c := c) t hx (lget_rank hn (List.mem_range.1 hj)) kind b (off j) hd bk rank
          exact ⟨y, by rw [if_neg hs]; exact hy, fun _ _ => hmem⟩) hx
  exact ⟨y, hy, hgrow, fun j hj => hall j (List.mem_range.2 hj)⟩

/-! Reductions (R395, R396). -/

theorem shard_ne {m n j : Nat} (hm : bs.length = m) (hlen : 0 < shardLen m n j) : (bs.drop (shardLo m n j)).take (shardLen m n j) ≠ [] := by
  have hlo : shardLo m n (j + 1) ≤ m := Nat.min_le_left ..
  have hpos : 0 < ((bs.drop (shardLo m n j)).take (shardLen m n j)).length := by
    unfold shardLen at hlen ⊢
    simp only [List.length_take, List.length_drop]
    omega
  exact List.length_pos_iff.1 hpos

theorem reduceOp_leaves {op : Nat} (hop : op = 1 ∨ op = 3) (he : colGet s p c = some e) (hready : opReady e op b = true)
    (hread : colRead s p c (ceSend e.raw + b * ceBucket e.raw) (bucketLen e b) = (some bs, w)) (hlen : bs.length = bucketLen e b)
    (hn : e.grp.length = e.n) :
    ∃ e', colGet (reduceOp s p c op b) p c = some e' ∧ e'.ran = e.ran ++ [b] ∧ (e'.st = 2 → (b ∈ e'.ended ∨ e'.flight = e.flight) ∧
      ∀ j, j < e.n → j ≠ e.self → 0 < shardLen (bucketLen e b) e.n j → firstPiece (e.grp.getD j 0) b (shardLo (bucketLen e b) e.n j)
        ((bs.drop (shardLo (bucketLen e b) e.n j)).take (shardLen (bucketLen e b) e.n j)) ∈ e'.dig) := by
  obtain ⟨hceop, -, -, -⟩ := opReady_iff.1 hready
  have htree : ceTree e.raw = false := by rcases hop with rfl | rfl <;> simp [ceTree, hceop]
  have hw : colGet w p c = some e := by
    have hk := (colRead_some s (congrArg Prod.fst hread)).cols
    rw [hread] at hk
    exact (colGet_of_cols hk p c).trans he
  unfold reduceOp
  simp only [he, hready, Bool.not_true, Bool.false_eq_true, if_false, hread]
  obtain ⟨x, hx, hgrow, hsent⟩ := sending_ranks (p := p) (c := c) (b := b) hn 1 (shardLo (bucketLen e b) e.n)
    (fun j => (bs.drop (shardLo (bucketLen e b) e.n j)).take (shardLen (bucketLen e b) e.n j))
    (colGet_colMod hw fun e => { e with ran := e.ran ++ [b] }) false e.self
  generalize List.foldl _ (colMod w p c fun e => { e with ran := e.ran ++ [b] }) _ = s2 at hx ⊢
  suffices hrest : ∀ s3, Outgoing p c s2 s3 → ∃ e', colGet (redTry s3 p c b) p c = some e' ∧ e'.ran = e.ran ++ [b] ∧
      (e'.st = 2 → (b ∈ e'.ended ∨ e'.flight = e.flight) ∧
        ∀ j, j < e.n → j ≠ e.self → 0 < shardLen (bucketLen e b) e.n j → firstPiece (e.grp.getD j 0) b (shardLo (bucketLen e b) e.n j)
          ((bs.drop (shardLo (bucketLen e b) e.n j)).take (shardLen (bucketLen e b) e.n j)) ∈ e'.dig) by
    refine hrest _ ?_
    split
    · exact outgoing_refl s2
    · refine outgoing_foldl (fun t k => outgoing_trans ?_ (outgoing_foldl (fun t j => ?_) _ _)) _ s2
      · split
        · exact outgoing_refl t
        · exact entryGoes_colMod (fun e => outgoing_heldAdd ..) t
      · split
        · exact outgoing_refl t
        · exact outgoing_colData ..
  intro s3 hback
  obtain ⟨e', he', hcarry⟩ := (carrying_trans (hback.carrying b) (carrying_redTry ..)).entry x hx
  have hran : e'.ran = x.ran := by rw [hcarry.eq]
  have hran' : x.ran = e.ran ++ [b] := by rw [hgrow.eq]
  have hflight : x.flight = e.flight := by rw [hgrow.eq]
  have hraw : x.raw = e.raw := by rw [hgrow.eq]
  refine ⟨e', he', hran.trans hran', fun hst => ⟨(hcarry.flight.imp (·.trans hflight) id).symm, fun j hj hs hpos => ?_⟩⟩
  exact hcarry.dig (by rw [hraw]; exact htree) (by rw [hst]; decide) (hsent j hj hs (shard_ne hlen hpos))

/-! ALL_GATHER (R396). -/

theorem allGather_leaves (he : colGet s p c = some e) (hready : opReady e 2 b = true)
    (hread : colRead s p c (ceSend e.raw + b * ceBucket e.raw) (bucketLen e b) = (some bs, w)) (hbs : bs ≠ []) (hn : e.grp.length = e.n) :
    ∃ e', colGet (allGather s p c b) p c = some e' ∧ b ∈ e'.ran ∧ b ∈ e'.ended ∧ b ∉ e'.flight ∧
      (e'.st = 2 → tgetD e'.got b 0 = tgetD e.got b 0 + bucketLen e b ∧ ∀ j, j < e.n → j ≠ e.self → firstPiece (e.grp.getD j 0) b 0 bs ∈ e'.dig) := by
  obtain ⟨hceop, -, -, -⟩ := opReady_iff.1 hready
  have htree : ceTree e.raw = false := by simp [ceTree, hceop]
  have hw : colGet w p c = some e := by
    have hk := (colRead_some s (congrArg Prod.fst hread)).cols
    rw [hread] at hk
    exact (colGet_of_cols hk p c).trans he
  unfold allGather
  simp only [he, hready, Bool.not_true, Bool.false_eq_true, if_false, hread]
  obtain ⟨x, hx, hgrow, hsent⟩ := sending_ranks (p := p) (c := c) (b := b) hn 1 (fun _ => 0) (fun _ => bs)
    (colGet_colMod hw fun e => { e with ran := e.ran ++ [b], flight := e.flight.filter (· ≠ b), ended := e.ended ++ [b] }) false e.self
  generalize List.foldl _ (colMod w p c _) _ = s2 at hx ⊢
  have hback : Outgoing p c s2 (if ceDemand e.raw then s2 else (backed e).foldl (fun t k =>
      (List.range e.n).foldl (fun t j => if j = e.self || j = k then t else colData t p c e j 1 b 0 bs true k)
        (colMod t p c (fun x => heldAdd x b k true 0 bs))) s2) := by
    split
    · exact outgoing_refl s2
    · refine outgoing_foldl (fun t k => outgoing_trans (entryGoes_colMod (fun e => outgoing_heldAdd ..) t) (outgoing_foldl (fun t j => ?_) _ _)) _ s2
      split
      · exact outgoing_refl t
      · exact outgoing_colData ..
  generalize (if ceDemand e.raw then s2 else _) = s3 at hback ⊢
  obtain ⟨y, hy, hxy⟩ := (outgoing_trans hback (outgoing_colWrite (p := p) (c := c) s3 (ceRecv e.raw + e.self * ceLen e.raw + b * ceBucket e.raw) bs)).entry x hx
  obtain ⟨z3, hz3, -⟩ := hback.entry x hx
  have hfails := colWrite_fails (p := p) (c := c) s3 (va := ceRecv e.raw + e.self * ceLen e.raw + b * ceBucket e.raw) (data := bs) hz3
  generalize colWrite s3 p c (ceRecv e.raw + e.self * ceLen e.raw + b * ceBucket e.raw) bs = v at hy hfails ⊢
  have hran : y.ran = x.ran := by rw [hxy.eq]
  have hended : y.ended = x.ended := by rw [hxy.eq]
  have hflight : y.flight = x.flight := by rw [hxy.eq]
  have hgot : y.got = x.got := by rw [hxy.eq]
  have hxran : x.ran = e.ran ++ [b] := by rw [hgrow.eq]
  have hxended : x.ended = e.ended ++ [b] := by rw [hgrow.eq]
  have hxflight : x.flight = e.flight.filter (· ≠ b) := by rw [hgrow.eq]
  have hxgot : x.got = e.got := by rw [hgrow.eq]
  have hxraw : x.raw = e.raw := by rw [hgrow.eq]
  have hrun : b ∈ y.ran ∧ b ∈ y.ended ∧ b ∉ y.flight := by
    rw [hran, hended, hflight, hxran, hxended, hxflight]
    simp
  obtain ⟨hin, hend, hout⟩ := hrun
  cases hv : v.1 with
  | false =>
    obtain ⟨y', hy', hst⟩ := hfails hv
    obtain rfl : y = y' := Option.some.inj (hy.symm.trans hy')
    rw [if_neg Bool.false_ne_true]
    exact ⟨y, hy, hin, hend, hout, fun h => absurd (hst.symm.trans h) (by decide)⟩
  | true =>
    rw [if_pos rfl]
    refine ⟨_, colGet_colMod hy _, hin, hend, hout, fun hst => ⟨?_, fun j hj hs => ?_⟩⟩
    · show tgetD (tput y.got b (tgetD y.got b 0 + bucketLen e b)) b 0 = _
      rw [tgetD_tput_same, hgot, hxgot]
    · have hst' : y.st = 2 := hst
      exact hxy.dig (by rw [hxraw]; exact htree) (by rw [hst']; decide) (hsent j hj hs hbs)

/-! Trees (R400). -/

theorem treeOp_leaves {op : Nat} (he : colGet s p c = some e) (hready : opReady e op b = true)
    (hread : colRead s p c (ceSend e.raw + b * ceBucket e.raw) (bucketLen e b) = (some bs, w)) (hbs : bs ≠ []) (hn : e.grp.length = e.n) :
    ∃ e', colGet (treeOp s p c op b) p c = some e' ∧ b ∈ e'.ran ∧ b ∉ e'.flight ∧
      (e'.st = 2 → b ∈ e'.wrote ∧ ∀ k ∈ treeKids e, k ∈ e'.pruned ∨ firstPiece (e.grp.getD k 0) b 0 bs ∈ e'.dig) := by
  have hw : colGet w p c = some e := by
    have hk := (colRead_some s (congrArg Prod.fst hread)).cols
    rw [hread] at hk
    exact (colGet_of_cols hk p c).trans he
  unfold treeOp
  simp only [he, hready, Bool.not_true, Bool.false_eq_true, if_false, hread]
  have hput := colGet_colMod hw fun e => { e with ran := e.ran ++ [b], flight := e.flight.filter (· ≠ b) }
  generalize colMod w p c _ = s1 at hput ⊢
  obtain ⟨x, hx, hin, hserved⟩ := treeDown_served (e := { e with ran := e.ran ++ [b], flight := e.flight.filter (· ≠ b) }) (b := b) hn (e0 := e) rfl hput hbs
  generalize treeDown s1 p c e b 0 bs = s2 at hx ⊢
  have hran : x.ran = e.ran ++ [b] := by rw [show x = _ from hin]
  have hflight : x.flight = e.flight.filter (· ≠ b) := by rw [show x = _ from hin]
  have hrun : b ∈ x.ran ∧ b ∉ x.flight := by
    rw [hran, hflight]
    simp
  have hfails := colWrite_fails (p := p) (c := c) s2 (va := ceRecv e.raw + b * ceBucket e.raw) (data := bs) hx
  have hwrites := colWrite_true (p := p) (c := c) s2 (va := ceRecv e.raw + b * ceBucket e.raw) (data := bs)
  have hgoes := (outgoing_colWrite (p := p) (c := c) s2 (ceRecv e.raw + b * ceBucket e.raw) bs).entry x hx
  generalize colWrite s2 p c (ceRecv e.raw + b * ceBucket e.raw) bs = v at hfails hwrites hgoes ⊢
  cases hv : v.1 with
  | false =>
    obtain ⟨y, hy, hst⟩ := hfails hv
    obtain ⟨y', hy', hxy⟩ := hgoes
    obtain rfl : y = y' := Option.some.inj (hy.symm.trans hy')
    rw [if_neg Bool.false_ne_true]
    have hyran : y.ran = x.ran := by rw [hxy.eq]
    have hyflight : y.flight = x.flight := by rw [hxy.eq]
    rw [← hyran, ← hyflight] at hrun
    exact ⟨y, hy, hrun.1, hrun.2, fun h => absurd (hst.symm.trans h) (by decide)⟩
  | true =>
    rw [if_pos rfl]
    have hy : colGet v.2 p c = some x := (colGet_of_cols (hwrites hv).cols p c).trans hx
    refine ⟨_, colGet_colMod hy _, hrun.1, hrun.2, fun _ => ⟨?_, fun k hk => (hserved k hk).imp id (·.elim (fun h => nomatch h) id)⟩⟩
    dsimp only
    split
    · simp
    · next hno =>
      have hm : bucketLen e b ≤ tgetD x.got b 0 + bucketLen e b := Nat.le_add_left ..
      simpa [hm] using hno

/-! ALL_TO_ALL (R396). -/

theorem colWrite_leaves {t : State} {y : ColEnt} (hy : colGet t p c = some y) (va : Nat) (data : List Byte) :
    ∃ z, colGet (colWrite t p c va data).2 p c = some z ∧ Outgoes y z ∧ ((colWrite t p c va data).1 = false → z.st = 3) := by
  obtain ⟨z, hz, hyz⟩ := (outgoing_colWrite (p := p) (c := c) t va data).entry y hy
  refine ⟨z, hz, hyz, fun h => ?_⟩
  obtain ⟨z', hz', hst⟩ := colWrite_fails t hy h
  exact Option.some.inj (hz.symm.trans hz') ▸ hst

theorem allToAll_leaves {a : Nat} (he : colGet s p c = some e) (hact : e.act = some a) (hop : ceOp e.raw = 4) (hst : e.st = 2) (hran : 0 ∉ e.ran) :
    ∃ e', colGet (allToAll s p c) p c = some e' ∧ e'.ran = [0] ∧ (e'.st = 2 → e.self ∈ e'.wrote) := by
  unfold allToAll
  split
  · next hnone => exact absurd (he.symm.trans hnone) nofun
  next e0 he0 =>
  obtain rfl : e = e0 := Option.some.inj (he.symm.trans he0)
  split
  · next hnone => exact absurd (hact.symm.trans hnone) nofun
  next a' ha' =>
  obtain rfl : a = a' := Option.some.inj (hact.symm.trans ha')
  rw [if_neg (by simp [hop, hst, hran])]
  extract_lets s1 s2 d
  obtain ⟨x, hx, hsent⟩ := (outgoing_foldl (p := p) (c := c) (fun t j => outgoing_toRank t e a j) (List.range e.n)
    s1).entry _ (colGet_colPut_same ..)
  have hxran : x.ran = [0] := by rw [hsent.eq]
  obtain ⟨y, hy, hxy⟩ := (outgoing_colRead (p := p) (c := c) s2 (ceSend e.raw + e.self * ceLen e.raw) a).entry x hx
  have hfails := colRead_fails (p := p) (c := c) s2 (va := ceSend e.raw + e.self * ceLen e.raw) (len := a) hx
  replace hy : colGet d.2 p c = some y := hy
  have hyran : y.ran = [0] := by rw [hxy.eq, hxran]
  replace hfails : d.1 = none → ∃ y, colGet d.2 p c = some y ∧ y.st = 3 := hfails
  clear_value d
  split
  · next hd =>
    obtain ⟨y', hy', hst⟩ := hfails hd
    obtain rfl : y = y' := Option.some.inj (hy.symm.trans hy')
    exact ⟨y, hy, hyran, fun h => absurd (hst.symm.trans h) (by decide)⟩
  next bs hd =>
  extract_lets w w2
  have hwrote : ∃ z, colGet w2.2 p c = some z ∧ Outgoes y z ∧ (w2.1 = false → z.st = 3) := by
    obtain ⟨z, hz, hyz, hfail⟩ := colWrite_leaves hy (ceRecv e.raw + e.self * ceLen e.raw) bs
    show ∃ z, colGet (if w.1 then colWrite w.2 p c (ceAux e.raw + 64 + 4 * e.self) (leBytes 4 a) else w).2 p c = some z ∧ Outgoes y z ∧
      ((if w.1 then colWrite w.2 p c (ceAux e.raw + 64 + 4 * e.self) (leBytes 4 a) else w).1 = false → z.st = 3)
    split
    · obtain ⟨z', hz', hzz, hfail'⟩ := colWrite_leaves hz (ceAux e.raw + 64 + 4 * e.self) (leBytes 4 a)
      exact ⟨z', hz', hyz.trans hzz, hfail'⟩
    · exact ⟨z, hz, hyz, hfail⟩
  clear_value w2
  obtain ⟨z, hz, hyz, hfail⟩ := hwrote
  have hzran : z.ran = [0] := by rw [hyz.eq, hyran]
  have hzself : z.self = e.self := by rw [hyz.eq, hxy.eq, hsent.eq]
  split
  · refine ⟨_, colGet_colMod hz _, hzran, fun _ => ?_⟩
    rw [hzself]
    exact List.mem_append_right _ (List.mem_singleton_self _)
  · next hw2 =>
    exact ⟨z, hz, hzran, fun h => absurd ((hfail (Bool.not_eq_true _ ▸ hw2)).symm.trans h) (by decide)⟩

end

/-- Settles O42: each operation's bytes are found in the entry's DIG parts right after they are sent, and what follows takes none away
(`reduceOp_leaves`, `allGather_leaves`, `treeOp_leaves`, `allToAll_leaves`). -/
theorem collectiveOperations : Obligations.CollectiveOperations := by
  unfold Obligations.CollectiveOperations
  refine ⟨fun s w p c b e bs hp hc he hread _ hlen hpos hn => ⟨fun i hi hready hcalm => ?_, fun hready hcalm => ?_, fun i hi hready hcalm => ?_⟩,
    fun s p c a e hp hc he hact hop hst hran hcalm => ?_⟩
  · have hi' : i = (.reduceScatter p c b, 1) ∨ i = (.allReduce p c b, 3) := by simpa using hi
    have hop : i.2 = 1 ∨ i.2 = 3 := hi'.imp (fun h => by rw [h]) (fun h => by rw [h])
    obtain ⟨e', hget, hleaves⟩ := reduceOp_leaves (s := quiet s) hop he hready hread hlen hn
    rcases hi' with rfl | rfl
    · exact completes_act (f := fun t => reduceScatter t p c b) hc hp hcalm fun u hu => ⟨e', (hu.colGet p c).trans hget, hleaves⟩
    · exact completes_act (f := fun t => allReduce t p c b) hc hp hcalm fun u hu => ⟨e', (hu.colGet p c).trans hget, hleaves⟩
  · obtain ⟨e', hget, hleaves⟩ := allGather_leaves (s := quiet s) he hready hread (List.length_pos_iff.1 (hlen ▸ hpos)) hn
    exact completes_act (f := fun t => allGather t p c b) hc hp hcalm fun u hu => ⟨e', (hu.colGet p c).trans hget, hleaves⟩
  · obtain ⟨e', hget, hleaves⟩ := treeOp_leaves (s := quiet s) he hready hread (List.length_pos_iff.1 (hlen ▸ hpos)) hn
    have hi' : i = (.broadcast p c b, 5) ∨ i = (.multicast p c b, 6) := by simpa using hi
    rcases hi' with rfl | rfl
    · exact completes_act (f := fun t => broadcast t p c b) hc hp hcalm fun u hu => ⟨e', (hu.colGet p c).trans hget, hleaves⟩
    · exact completes_act (f := fun t => multicast t p c b) hc hp hcalm fun u hu => ⟨e', (hu.colGet p c).trans hget, hleaves⟩
  · obtain ⟨e', hget, hleaves⟩ := allToAll_leaves (s := quiet s) he hact hop hst hran
    exact completes_act (f := fun t => allToAll t p c) hc hp hcalm fun u hu => ⟨e', (hu.colGet p c).trans hget, hleaves⟩

end Sys2Proof.Machine

/-!
SUPPORT for the messages of collectives (R396, R399): what the arrival of a message leaves of its collective, and what becomes of a piece.
-/

namespace Sys2Proof.Machine

section
variable {s t u : State} {i p c : Nat} {m : ColMsg} {e x : ColEnt}

/-! A message arrives. -/

/-- Message `i` is for the collective that entry `e` runs or is armed for. -/
structure Addressed (s : State) (i : Nat) (m : ColMsg) (e : ColEnt) : Prop where
  msg : lget s.colIn i = some m
  entry : colGet s m.part m.coll = some e
  epoch : e.epoch = m.epoch
  st : e.st = 1 ∨ e.st = 2

/-- `t` is `s` without message `i`, for whose collective the entry is now `x`. -/
structure Taken (s : State) (i : Nat) (m : ColMsg) (e x : ColEnt) (t : State) : Prop where
  entry : colGet t m.part m.coll = some x
  eq : x = { e with st := 2, sat := x.sat, dig := x.dig }
  colIn : t.colIn = ldel s.colIn i
  fab : OnFabric s t
  rd : ∀ r, rd t r = rd s r

theorem run_eq (e : ColEnt) : e.run = { e with st := 2, sat := e.run.sat } := by
  unfold ColEnt.run
  split
  · rfl
  · rfl

theorem lateCopy_run (e : ColEnt) (b rank : Nat) : lateCopy e.run b rank = lateCopy e b rank := by rw [run_eq]; rfl

theorem msgTake_some {kind : Nat} (h : Addressed s i m e) (hk : m.kind = kind) :
    (msgTake s i kind).1 = some (m, e.run) ∧ ∃ x, Taken s i m e x (msgTake s i kind).2 := by
  obtain ⟨hm, he, hep, hst⟩ := h
  have hst0 : e.st ≠ 0 := by omega
  have hst3 : e.st ≠ 3 := by omega
  have he' : colGet { s with colIn := ldel s.colIn i } m.part m.coll = some e := he
  have hput : Taken s i m e e.run (colPut { s with colIn := ldel s.colIn i } m.part m.coll e.run) :=
    ⟨colGet_colPut_same .., by unfold ColEnt.run; split <;> rfl, rfl, rfl, fun _ => rfl⟩
  have e1 : msgTake s i kind = (some (m, e.run), if kind ≤ 4 then
      digAdd (colPut { s with colIn := ldel s.colIn i } m.part m.coll e.run) m.part m.coll m.dev m.spart 1 m.b m.off m.data
      else colPut { s with colIn := ldel s.colIn i } m.part m.coll e.run) := by
    unfold msgTake
    split
    · next hnone => exact absurd (hm.symm.trans hnone) nofun
    next m0 hm0 =>
    obtain rfl : m = m0 := Option.some.inj (hm.symm.trans hm0)
    rw [if_neg (not_not.2 hk)]
    split
    · next hnone => exact absurd (he.symm.trans hnone) nofun
    next e0 he0 =>
    obtain rfl : e = e0 := Option.some.inj (he.symm.trans he0)
    rw [if_neg (by simp [hep, hst0, hst3])]
  rw [e1]
  refine ⟨rfl, ?_⟩
  generalize colPut { s with colIn := ldel s.colIn i } m.part m.coll e.run = w at hput ⊢
  dsimp only
  split
  · unfold digAdd
    split
    · exact ⟨_, hput⟩
    · rw [colMod_some hput.entry]
      refine ⟨_, colGet_colPut_same .., ?_, hput.colIn, hput.fab.trans rfl, hput.rd⟩
      unfold ColEnt.run
      split
      · rfl
      · rfl
  · exact ⟨_, hput⟩

/-- A message's command: what holds of its entry when the operation is done. -/
theorem message_completes {f : State → State} {Q : ColEnt → Prop} (hc : Calm s) (hv : Calm (f (quiet s))) (hin : (f (quiet s)).colIn = ldel s.colIn i)
    (hent : ∃ y, colGet (f (quiet s)) p c = some y ∧ Q y) :
    ∃ u, act f s = .next u ∧ Follows s.pending (f (quiet s)) u ∧ u.colIn = ldel s.colIn i ∧ ∃ e', colGet u p c = some e' ∧ Q e' := by
  obtain ⟨y, hy, hQ⟩ := hent
  exact completes_all hc hv fun u hu => ⟨hu, hu.colIn.trans hin, y, (hu.colGet p c).trans hy, hQ⟩

/-! Pieces of a contribution (R399). -/

/-- Entry `y` holds the piece `data` at `off` of a copy of `rank`'s contribution to bucket `b`. -/
def Piece (y : ColEnt) (b rank : Nat) (bk : Bool) (off : Nat) (data : List Byte) : Prop :=
  ∃ x ∈ y.held, x.b = b ∧ x.rank = rank ∧ x.bk = bk ∧ (off, data) ∈ x.got

theorem piece_contribMark {b rank off : Nat} {bk : Bool} {data : List Byte} (h : Piece e b rank bk off data) (b' rank' : Nat) :
    Piece (contribMark e b' rank') b rank bk off data := by
  obtain ⟨x, hx, hin⟩ := h
  unfold contribMark
  split
  · exact ⟨x, hx, hin⟩
  · refine ⟨_, List.mem_map_of_mem hx, ?_⟩
    split
    · exact hin
    · exact hin

theorem piece_heldAdd (e : ColEnt) (b rank : Nat) (bk : Bool) (off : Nat) (data : List Byte) : Piece (heldAdd e b rank bk off data) b rank bk off data := by
  unfold heldAdd
  refine piece_contribMark ?_ b rank
  split
  · next hfind =>
    obtain ⟨x, hx⟩ := Option.isSome_iff_exists.1 hfind
    have hin := List.mem_of_find?_eq_some hx
    have hid := List.find?_some hx
    refine ⟨_, List.mem_map_of_mem hin, ?_⟩
    rw [if_pos hid]
    simp only [Bool.and_eq_true, decide_eq_true_eq] at hid
    exact ⟨hid.1.1, hid.1.2, hid.2, by simp⟩
  · exact ⟨_, List.mem_append_right _ (List.mem_singleton_self _), rfl, rfl, rfl, List.mem_singleton_self _⟩

end

end Sys2Proof.Machine

/-!
SUPPORT for the messages of collectives (R396, R399, R400): what each accepted message leaves in its collective.
-/

namespace Sys2Proof.Machine

section
variable {s t u : State} {i p c b off rank : Nat} {m : ColMsg} {e x y : ColEnt}

/-! Copies that come late (R399). -/

theorem discarded_completes {f : State → State} (hc : Calm s) (hx : Taken (quiet s) i m e x t)
    (hf : f (quiet s) = colBump t R.colBackupDiscard m.data.length 64) :
    ∃ u, act f s = .next u ∧ (u.colIn = ldel s.colIn i ∧ ∃ e', colGet u m.part m.coll = some e' ∧ e'.st = 2 ∧ e'.held = e.held) ∧
      (bit (rd s R.colCtrl) 0 = false → rd u R.colBackupDiscard = (rd s R.colBackupDiscard + m.data.length) % 2 ^ 64) := by
  have hcount := counted_colBump t R.colBackupDiscard m.data.length 64
  have hent : ∃ y, colGet (f (quiet s)) m.part m.coll = some y ∧ y.st = 2 ∧ y.held = e.held := by
    rw [hf, hcount.eq]
    exact ⟨x, hx.entry, by rw [hx.eq], by rw [hx.eq]⟩
  obtain ⟨u, hu, hfol, hin, he⟩ := message_completes hc (by rw [hf]; exact hcount.calm (hx.fab.calm hc.quiet))
    (by rw [hf, hcount.eq]; exact hx.colIn) hent
  refine ⟨u, hu, ⟨hin, he⟩, fun hon => ?_⟩
  rw [hfol.rd _ (by decide), hf, colBump, rd_bump_same, hx.rd, hx.rd, rd_quiet, rd_quiet, hon]
  rfl

theorem contribIn_late (h : lateCopy e b m.rank = true) (t : State) (off : Nat) :
    contribIn t m e b off = colBump t R.colBackupDiscard m.data.length 64 := if_pos h

/-- The FETCHes that a piece does not answer. -/
def unanswered (e : ColEnt) (m : ColMsg) (b : Nat) : List FetchReq :=
  e.fetches.filter (fun f => !(f.b = b && m.bk && f.bk && backOf e m.rank = some f.rank))

/-- The entry `x` with a piece of a contribution. -/
def pieceTaken (x : ColEnt) (m : ColMsg) (b off : Nat) : ColEnt :=
  heldAdd { x with fetches := unanswered x m b } b m.rank m.bk off m.data

theorem contribIn_takes (hx : colGet t m.part m.coll = some x) (h : lateCopy e b m.rank = false) (off : Nat) :
    contribIn t m e b off = colTry (colPut t m.part m.coll (pieceTaken x m b off)) m.part m.coll b m.rank := by
  rw [contribIn, h, if_neg Bool.false_ne_true, colMod_some hx]
  rfl

theorem pieceTaken_eq (x : ColEnt) (m : ColMsg) (b off : Nat) :
    ∃ l, Outgoes { x with fetches := l } (pieceTaken x m b off) ∧ (pieceTaken x m b off).st = x.st := by
  refine ⟨_, outgoing_heldAdd .., ?_⟩
  unfold pieceTaken heldAdd contribMark
  split
  · split
    · rfl
    · rfl
  · split
    · rfl
    · rfl

theorem pieceTaken_piece (x : ColEnt) (m : ColMsg) (b off : Nat) : Piece (pieceTaken x m b off) b m.rank m.bk off m.data := piece_heldAdd ..

/-- A reduction waits for its own bucket (R396). -/
theorem colTry_waits (hx : colGet t p c = some x) (hred : ceRed x.raw = true) (hran : b ∉ x.ran) (rank : Nat) : colTry t p c b rank = t := by
  simp [colTry, hx, hred, redTry, hran]

/-- The key under which GOT of a gathered contribution stands. -/
def gotKey (raw b rank : Nat) : Nat := 2 ^ 32 + (if ceOp raw = 4 then rank else b * 4096 + rank)

/-- A gathered piece is held, or its contribution has been taken. -/
theorem gatherTake_leaves {bk : Bool} {data : List Byte} (hx : colGet t p c = some x) (hp : Piece x b rank bk off data)
    (hlate : tgetD x.got (gotKey x.raw b rank) 0 ≠ 1) :
    ∃ y, colGet (gatherTake t p c b rank) p c = some y ∧ y.raw = x.raw ∧ (y.st = 2 → Piece y b rank bk off data ∨
      (tgetD y.got (gotKey y.raw b rank) 0 = 1 ∧ (ceOp x.raw = 4 → rank ∈ y.wrote))) := by
  unfold gatherTake
  split
  · next hnone => exact absurd (hx.symm.trans hnone) nofun
  next x0 hx0 =>
  obtain rfl : x = x0 := Option.some.inj (hx.symm.trans hx0)
  extract_lets key
  have hkey : 2 ^ 32 + key = gotKey x.raw b rank := rfl
  rw [hkey]
  split
  · exact ⟨x, hx, rfl, fun _ => .inl hp⟩
  split
  · exact ⟨x, hx, rfl, fun _ => .inl hp⟩
  next d bk' _ =>
  extract_lets w s1
  obtain ⟨y, hy, hxy, hfail⟩ := colWrite_leaves hx (ceRecv x.raw + rank * ceLen x.raw + b * ceBucket x.raw) d
  split
  · next hw =>
    exact ⟨y, hy, hxy.raw, fun hst => absurd ((hfail ((Bool.not_eq_true' _).mp hw)).symm.trans hst) (by decide)⟩
  obtain ⟨z, hz, hyz⟩ := (outgoing_heldDrop (p := p) (c := c) w.2 b rank bk').entry y hy
  have hraw : z.raw = x.raw := hyz.raw.trans hxy.raw
  have hput : colGet s1 p c = some { z with got := tput z.got (gotKey x.raw b rank) 1 } := colGet_colMod hz _
  clear_value s1
  split
  · next hop =>
    refine ⟨_, colGet_colMod hput _, hraw, fun _ => .inr ⟨?_, fun _ => List.mem_append_right _ (List.mem_singleton_self _)⟩⟩
    show tgetD (tput z.got (gotKey x.raw b rank) 1) (gotKey z.raw b rank) 0 = 1
    rw [hraw, tgetD_tput_same]
  · next hop =>
    refine ⟨_, colGet_colMod hput _, hraw, fun _ => .inr ⟨?_, fun h => absurd h hop⟩⟩
    have hne : b ≠ gotKey x.raw b rank := by
      rw [gotKey, if_neg hop]
      omega
    show tgetD (tput (tput z.got (gotKey x.raw b rank) 1) b _) (gotKey z.raw b rank) 0 = 1
    rw [hraw, tgetD_tput_other _ hne.symm, tgetD_tput_same]

/-! CONTRIB and BLOCK (R396, R399). -/

theorem run_raw (e : ColEnt) : e.run.raw = e.raw := by rw [run_eq]

/-- The offset of a contribution's piece in the bucket, of a reduction's in this rank's shard. -/
def pieceOff (e : ColEnt) (m : ColMsg) : Nat := if ceRed e.raw then m.off - shardLo (bucketLen e m.b) e.n e.self else m.off

theorem contribMsg_eq (h : Addressed s i m e) (hk : m.kind = 1) : contribMsg s i = contribIn (msgTake s i 1).2 m e.run m.b (pieceOff e m) := by
  have hoff : pieceOff e.run m = pieceOff e m := by rw [run_eq]; rfl
  simp only [contribMsg, (msgTake_some h hk).1, ← hoff]
  rfl

/-- Is a block a backup's copy of another rank's slot (R396). -/
def BackCopy (e : ColEnt) (m : ColMsg) : Prop := m.bk = true ∧ ∃ g, lget e.grp m.rank = some g ∧ geDev g = m.dev ∧ gePart g = m.spart

theorem backCopy_iff : (m.bk && (lget e.grp m.rank).any (fun g => geDev g = m.dev && gePart g = m.spart)) = true ↔ BackCopy e m := by
  simp [BackCopy, Option.any_eq_true]

theorem blockMsg_eq (h : Addressed s i m e) (hk : m.kind = 3) :
    (BackCopy e m → blockMsg s i = colBump (msgTake s i 3).2 R.colBackupDiscard m.data.length 64) ∧
      (¬ BackCopy e m → blockMsg s i = contribIn (msgTake s i 3).2 m e.run 0 (m.b * ceBucket e.raw + m.off)) := by
  have hgrp : e.run.grp = e.grp := by rw [run_eq]
  refine ⟨fun hb => ?_, fun hb => ?_⟩
  · simp only [blockMsg, (msgTake_some h hk).1, hgrp, backCopy_iff.2 hb, if_true]
  · simp only [blockMsg, (msgTake_some h hk).1, hgrp, if_neg (mt backCopy_iff.1 hb), run_raw]

/-- A piece of a reduction whose own bucket is still to come. -/
theorem reducedPiece_completes {f : State → State} (hc : Calm s) (hx : Taken (quiet s) i m e x t)
    (hf : f (quiet s) = contribIn t m e.run b off) (hred : ceRed e.raw = true) (hended : b ∉ e.ended) (hran : b ∉ e.ran) :
    ∃ u, act f s = .next u ∧ u.colIn = ldel s.colIn i ∧ ∃ e', colGet u m.part m.coll = some e' ∧ e'.st = 2 ∧ Piece e' b m.rank m.bk off m.data := by
  have hlate : lateCopy e.run b m.rank = false := by
    rw [lateCopy_run, lateCopy, hred, if_pos rfl]
    simpa using hended
  obtain ⟨l, hgoes, hst⟩ := pieceTaken_eq x m b off
  have hraw : (pieceTaken x m b off).raw = e.raw := by rw [hgoes.raw, hx.eq]
  have hrun : (pieceTaken x m b off).ran = e.ran := by rw [hgoes.eq, hx.eq]
  have e1 : f (quiet s) = colPut t m.part m.coll (pieceTaken x m b off) := by
    rw [hf, contribIn_takes hx.entry hlate]
    exact colTry_waits (colGet_colPut_same ..) (hraw ▸ hred) (hrun ▸ hran) _
  obtain ⟨u, hu, -, hrest⟩ := message_completes (f := f) (Q := fun e' => e'.st = 2 ∧ Piece e' b m.rank m.bk off m.data) hc
    (by rw [e1]; exact (hx.fab.trans (flowRun_colPut ..).fab).calm hc.quiet) (by rw [e1]; exact hx.colIn)
    ⟨_, by rw [e1]; exact colGet_colPut_same .., by rw [hst, hx.eq], pieceTaken_piece ..⟩
  exact ⟨u, hu, hrest⟩

/-- A piece that is gathered. -/
theorem gatheredPiece_completes {f : State → State} (hc : Calm s) (hx : Taken (quiet s) i m e x t) (hcalm : Calm (f (quiet s)))
    (hf : f (quiet s) = contribIn t m e.run b off) (hop : ceOp e.raw = 2 ∨ ceOp e.raw = 4) (hlate : lateCopy e b m.rank = false) :
    ∃ u, act f s = .next u ∧ u.colIn = ldel s.colIn i ∧ ∃ e', colGet u m.part m.coll = some e' ∧ (e'.st = 2 → Piece e' b m.rank m.bk off m.data ∨
      (lateCopy e' b m.rank = true ∧ (ceOp e.raw = 4 → m.rank ∈ e'.wrote))) := by
  have hred : ceRed e.raw = false := by rcases hop with h | h <;> simp [ceRed, h]
  have htree : ceTree e.raw = false := by rcases hop with h | h <;> simp [ceTree, h]
  obtain ⟨l, hgoes, -⟩ := pieceTaken_eq x m b off
  have hraw : (pieceTaken x m b off).raw = e.raw := by rw [hgoes.raw, hx.eq]
  have hgot : (pieceTaken x m b off).got = e.got := by rw [hgoes.eq, hx.eq]
  have hget := colGet_colPut_same t m.part m.coll (pieceTaken x m b off)
  have e1 : f (quiet s) = gatherTake (colPut t m.part m.coll (pieceTaken x m b off)) m.part m.coll b m.rank := by
    rw [hf, contribIn_takes hx.entry (by rw [lateCopy_run]; exact hlate), colTry]
    simp only [hget, hraw, hred, htree, Bool.false_eq_true, if_false]
  have hnot : tgetD (pieceTaken x m b off).got (gotKey (pieceTaken x m b off).raw b m.rank) 0 ≠ 1 := by
    rw [hraw, hgot]
    rw [lateCopy, hred, if_neg Bool.false_ne_true] at hlate
    exact of_decide_eq_false hlate
  obtain ⟨y, hy, hyraw, hleaves⟩ := gatherTake_leaves hget (pieceTaken_piece x m b off) hnot
  have hy' : y.st = 2 → Piece y b m.rank m.bk off m.data ∨ (lateCopy y b m.rank = true ∧ (ceOp e.raw = 4 → m.rank ∈ y.wrote)) := fun hst => by
    refine (hleaves hst).imp id fun ⟨h, hw⟩ => ⟨?_, ?_⟩
    · rw [lateCopy, hyraw, hraw, hred, if_neg Bool.false_ne_true]
      rw [hyraw, hraw] at h
      exact decide_eq_true h
    · rw [hraw] at hw
      exact hw
  have hin := (carrying_gatherTake (s := colPut t m.part m.coll (pieceTaken x m b off)) (p := m.part) (c := m.coll) b b m.rank).colIn
  obtain ⟨u, hu, -, hrest⟩ := message_completes (Q := fun y => y.st = 2 → Piece y b m.rank m.bk off m.data ∨
    (lateCopy y b m.rank = true ∧ (ceOp e.raw = 4 → m.rank ∈ y.wrote))) hc hcalm (by rw [e1, hin]; exact hx.colIn) ⟨y, by rw [e1]; exact hy, hy'⟩
  exact ⟨u, hu, hrest⟩

end

end Sys2Proof.Machine

/-!
SUPPORT for the messages of collectives (R396, R400, R401): RESULT, BCAST, COUNTS, DONE, GAP and FETCH.
-/

namespace Sys2Proof.Machine

section
variable {s t u : State} {i p c b off rank : Nat} {m : ColMsg} {e x y : ColEnt}

/-! RESULT (R396). -/

theorem recvGot_entry (hx : colGet s p c = some x) (b k need : Nat) : ∃ y, colGet (recvGot s p c b k need) p c = some y ∧
    y = { x with got := tput x.got b (tgetD x.got b 0 + k), wrote := y.wrote } := ⟨_, colGet_colMod hx _, rfl⟩

theorem resultMsg_leaves (h : Addressed s i m e) (hk : m.kind = 2) : (resultMsg s i).colIn = ldel s.colIn i ∧
    ∃ y, colGet (resultMsg s i) m.part m.coll = some y ∧ (y.st = 2 → tgetD y.got m.b 0 = tgetD e.got m.b 0 + m.data.length) := by
  obtain ⟨htake, x, hx⟩ := msgTake_some h hk
  simp only [resultMsg, htake]
  generalize (msgTake s i 2).2 = t at hx ⊢
  obtain ⟨y, hy, hxy, hfail⟩ := colWrite_leaves hx.entry (ceRecv e.run.raw + m.b * ceBucket e.run.raw + m.off) m.data
  have hin := (outgoing_colWrite (p := m.part) (c := m.coll) t (ceRecv e.run.raw + m.b * ceBucket e.run.raw + m.off) m.data).colIn.trans hx.colIn
  generalize colWrite t m.part m.coll _ m.data = w at hy hfail hin ⊢
  split
  · refine ⟨(carrying_recvGot (p := m.part) (c := m.coll) (b := 0) ..).colIn.trans hin, _, colGet_colMod hy _, fun _ => ?_⟩
    have hgot : y.got = e.got := by rw [hxy.eq, hx.eq]
    show tgetD (tput y.got m.b (tgetD y.got m.b 0 + m.data.length)) m.b 0 = _
    rw [tgetD_tput_same, hgot]
  · next hw => exact ⟨hin, y, hy, fun hst => absurd ((hfail (Bool.not_eq_true _ ▸ hw)).symm.trans hst) (by decide)⟩

/-! COUNTS (R396). -/

theorem countsMsg_leaves (h : Addressed s i m e) (hk : m.kind = 5) : (countsMsg s i).colIn = ldel s.colIn i ∧
    ∃ y, colGet (countsMsg s i) m.part m.coll = some y ∧ (y.st = 2 → tget y.counts m.rank = some (leVal (m.data.take 4))) := by
  obtain ⟨htake, x, hx⟩ := msgTake_some h hk
  simp only [countsMsg, htake]
  generalize (msgTake s i 5).2 = t at hx ⊢
  obtain ⟨y, hy, hxy, hfail⟩ := colWrite_leaves hx.entry (ceAux e.run.raw + 64 + 4 * m.rank) (m.data.take 4)
  have hin := (outgoing_colWrite (p := m.part) (c := m.coll) t (ceAux e.run.raw + 64 + 4 * m.rank) (m.data.take 4)).colIn.trans hx.colIn
  generalize colWrite t m.part m.coll _ (m.data.take 4) = w at hy hfail hin ⊢
  split
  · next hw => exact ⟨hin, y, hy, fun hst => absurd ((hfail ((Bool.not_eq_true' _).mp hw)).symm.trans hst) (by decide)⟩
  · have hput := colGet_colMod hy fun e => { e with counts := tput e.counts m.rank (leVal (m.data.take 4)) }
    have hmod : (colMod w.2 m.part m.coll fun e => { e with counts := tput e.counts m.rank (leVal (m.data.take 4)) }).colIn = w.2.colIn := by
      rw [colMod_some hy]
      rfl
    generalize colMod w.2 m.part m.coll _ = v at hput hmod ⊢
    have htaken := carrying_gatherTake (s := v) (p := m.part) (c := m.coll) 0 0 m.rank
    obtain ⟨z, hz, hyz⟩ := htaken.entry _ hput
    refine ⟨htaken.colIn.trans (hmod.trans hin), z, hz, fun _ => ?_⟩
    have hcounts : z.counts = tput y.counts m.rank (leVal (m.data.take 4)) := by rw [hyz.eq]
    rw [hcounts, tget_tput_same]

/-! BCAST (R400). -/

/-- A BCAST waits at a node of a MULTICAST whose own flush has not come. -/
theorem bcastMsg_waits (h : Addressed s i m e) (hk : m.kind = 4) (hop : ceOp e.raw = 6) (hact : e.act = none) : bcastMsg s i = s := by
  have hact' : e.run.act = none := by rw [run_eq]; exact hact
  simp [bcastMsg, (msgTake_some h hk).1, run_raw, hop, hact']

theorem bcastMsg_leaves (h : Addressed s i m e) (hk : m.kind = 4) (hgo : ceOp e.raw ≠ 6 ∨ e.act ≠ none) : (bcastMsg s i).colIn = ldel s.colIn i ∧
    ∃ y, colGet (bcastMsg s i) m.part m.coll = some y ∧ (y.st = 2 → tgetD y.got m.b 0 = tgetD e.got m.b 0 + m.data.length ∧
      (m.b, m.off, m.data.length) ∈ y.pcs ∧ ∀ x ∈ y.fetches, m.b < x.b) := by
  obtain ⟨htake, x, hx⟩ := msgTake_some h hk
  have hact : e.run.act = e.act := by rw [run_eq]
  have hno : ¬ (decide (ceOp e.run.raw = 6) && e.run.act.isNone) = true := by
    rw [run_raw, hact]
    simpa [Decidable.imp_iff_not_or] using hgo
  simp only [bcastMsg, htake, if_neg hno]
  generalize (msgTake s i 4).2 = t at hx ⊢
  obtain ⟨y, hy, hxy, hfail⟩ := colWrite_leaves hx.entry (ceRecv e.run.raw + m.b * ceBucket e.run.raw + m.off) m.data
  have hin := (outgoing_colWrite (p := m.part) (c := m.coll) t (ceRecv e.run.raw + m.b * ceBucket e.run.raw + m.off) m.data).colIn.trans hx.colIn
  generalize colWrite t m.part m.coll _ m.data = w at hy hfail hin ⊢
  split
  · next hw => exact ⟨hin, y, hy, fun hst => absurd ((hfail ((Bool.not_eq_true' _).mp hw)).symm.trans hst) (by decide)⟩
  have hgot := (carrying_recvGot (s := w.2) (p := m.part) (c := m.coll) 0 m.b m.data.length (bucketLen e.run m.b)).colIn
  obtain ⟨z, hz, hzeq⟩ := recvGot_entry hy m.b m.data.length (bucketLen e.run m.b)
  generalize recvGot w.2 m.part m.coll m.b m.data.length (bucketLen e.run m.b) = v at hgot hz ⊢
  have hput := colGet_colMod hz fun e => { e with fetches := e.fetches.filter (fun f => !(f.b ≤ m.b)), pcs := e.pcs ++ [(m.b, m.off, m.data.length)] }
  have hmod : (colMod v m.part m.coll fun e => { e with
      fetches := e.fetches.filter (fun f => !(f.b ≤ m.b)), pcs := e.pcs ++ [(m.b, m.off, m.data.length)] }).colIn = v.colIn := by
    rw [colMod_some hz]
    rfl
  generalize colMod v m.part m.coll _ = v1 at hput hmod ⊢
  have hdown := outgoing_trans (outgoing_treeDown (s := v1) (p := m.part) (c := m.coll) e.run m.b m.off m.data) (outgoing_doneTry _)
  obtain ⟨y', hy', hzy⟩ := hdown.entry _ hput
  have hgot' : y'.got = z.got := by rw [hzy.eq]
  have hpcs : y'.pcs = z.pcs ++ [(m.b, m.off, m.data.length)] := by rw [hzy.eq]
  have hfetches : y'.fetches = z.fetches.filter (fun f => !(f.b ≤ m.b)) := by rw [hzy.eq]
  have hzgot : z.got = tput y.got m.b (tgetD y.got m.b 0 + m.data.length) := by rw [hzeq]
  have hygot : y.got = e.got := by rw [hxy.eq, hx.eq]
  refine ⟨hdown.colIn.trans (hmod.trans (hgot.trans hin)), y', hy', fun _ => ⟨?_, ?_, fun f hf => ?_⟩⟩
  · rw [hgot', hzgot, tgetD_tput_same, hygot]
  · simp [hpcs]
  · have hlate := (List.mem_filter.1 (hfetches ▸ hf)).2
    rw [Bool.not_eq_true', decide_eq_false_iff_not] at hlate
    omega

/-! DONE (R400). -/

theorem doneTry_leaves (hx : colGet t p c = some x) :
    FlowRun t (doneTry t p c) ∧ ∃ y, colGet (doneTry t p c) p c = some y ∧ y = { x with doneTx := y.doneTx } := by
  unfold doneTry
  split
  · exact ⟨.refl t, x, hx, rfl⟩
  next x0 hx0 =>
  obtain rfl : x = x0 := Option.some.inj (hx.symm.trans hx0)
  split
  · exact ⟨.refl t, x, hx, rfl⟩
  split
  · exact ⟨.refl t, x, hx, rfl⟩
  · next k _ =>
    have hput := colGet_colPut_same t p c { x with doneTx := true }
    have hfab := flowRun_colPut (s := t) p c { x with doneTx := true }
    generalize colPut t p c { x with doneTx := true } = v at hput hfab ⊢
    exact ⟨hfab.trans (flowRun_colCtl ..), _, (colGet_of_cols (entriesKept_colCtl (p := p) v ..).cols p c).trans hput, rfl⟩

theorem doneMsg_leaves (h : Addressed s i m e) (hk : m.kind = 6) : (doneMsg s i).colIn = ldel s.colIn i ∧ OnFabric s (doneMsg s i) ∧
    ∃ y, colGet (doneMsg s i) m.part m.coll = some y ∧ y.st = 2 ∧ y.kids = e.kids ++ [m.rank] := by
  obtain ⟨htake, x, hx⟩ := msgTake_some h hk
  simp only [doneMsg, htake]
  generalize (msgTake s i 6).2 = t at hx ⊢
  have hput := colGet_colMod hx.entry fun e => { e with kids := e.kids ++ [m.rank] }
  have hfab := flowRun_colMod (s := t) m.part m.coll fun e => { e with kids := e.kids ++ [m.rank] }
  generalize colMod t m.part m.coll _ = v at hput hfab ⊢
  obtain ⟨hrun, y, hy, hyeq⟩ := doneTry_leaves hput
  have hst : y.st = x.st := by rw [hyeq]
  have hkids : y.kids = x.kids ++ [m.rank] := by rw [hyeq]
  exact ⟨hrun.colIn.trans (hfab.colIn.trans hx.colIn), hx.fab.trans (hfab.trans hrun).fab, y, hy, by rw [hst, hx.eq], by rw [hkids, hx.eq]⟩

/-! GAP (R401). -/

/-- A register that sending writes not: neither of the fabric's traffic nor COL_BYTES_SENT. -/
def OffSending (r : Reg) : Prop := ¬ TrafficReg r.addr ∧ r.addr ≠ R.fabSent.addr ∧ r.addr ≠ R.colBytesSent.addr

section
variable {r : Reg} (hr : OffSending r)
include hr

theorem rd_sendOwn (s : State) (vc : Nat) (h body : List Byte) : rd (sendOwn s vc h body) r = rd s r := by
  rcases sendOwn_queued s vc h body with e | hq
  · rw [e]
    rfl
  · exact hq.moved.regs r hr.1

theorem rd_flowOut (s : State) (f : SendFlow) (k : ColPkt) : rd (flowOut s f k) r = rd s r := by
  rw [flowOut, rd_sendOwn hr, colBump, rd_bump_other _ _ hr.2.2, fabBump, rd_bump_other _ _ hr.2.1]
  rfl

theorem rd_flowPump (s : State) (j n : Nat) : rd (flowPump s j n) r = rd s r := by
  induction n generalizing s with
  | zero => rfl
  | succ n ih =>
    unfold flowPump
    split
    · rfl
    split
    · rfl
    split
    · rfl
    dsimp only
    split
    · rfl
    · rw [ih, rd_flowOut hr]
      rfl

theorem rd_colCtl (s : State) (p c : Nat) (e : ColEnt) (k kind b off : Nat) (data : List Byte) : rd (colCtl s p c e k kind b off data) r = rd s r := by
  unfold colCtl
  split
  · rfl
  unfold flowSend
  split
  · rfl
  · rw [rd_flowPump hr]
    rfl

end

theorem fetchSend_leaves (hx : colGet t p c = some x) (e : ColEnt) (k b off len want : Nat) (bk : Bool) :
    FlowRun t (fetchSend t p c e k b off len want bk) ∧
    colGet (fetchSend t p c e k b off len want bk) p c = some { x with fetches := x.fetches ++ [⟨b, off, k, bk⟩] } ∧
    (bit (rd t R.colCtrl) 0 = false → rd (fetchSend t p c e k b off len want bk) R.colFetches = (rd t R.colFetches + 1) % 2 ^ 48) := by
  have hput := colGet_colMod hx fun e => { e with fetches := e.fetches ++ [⟨b, off, k, bk⟩] }
  have hfab := flowRun_colMod (s := t) p c fun e => { e with fetches := e.fetches ++ [⟨b, off, k, bk⟩] }
  have hrd : ∀ r, rd (colMod t p c fun e => { e with fetches := e.fetches ++ [⟨b, off, k, bk⟩] }) r = rd t r := fun r => by
    rw [colMod_some hx]
    rfl
  unfold fetchSend
  dsimp only
  generalize colMod t p c _ = v at hput hfab hrd ⊢
  have hbump := flowRun_colBump (s := v) R.colFetches 1 48
  have hcols : (colBump v R.colFetches 1).cols = v.cols := by rw [(counted_colBump ..).eq]
  refine ⟨(hfab.trans hbump).trans (flowRun_colCtl ..), ?_, fun hon => ?_⟩
  · exact (colGet_of_cols ((entriesKept_colCtl (p := p) _ ..).cols.trans hcols) p c).trans hput
  · rw [rd_colCtl (by unfold OffSending TrafficReg; decide), colBump, rd_bump_same, hrd, hrd, hon]
    rfl

theorem gapMsg_leaves (h : Addressed s i m e) (hk : m.kind = 7) : (gapMsg s i).colIn = ldel s.colIn i ∧ OnFabric s (gapMsg s i) ∧
    (∃ y, colGet (gapMsg s i) m.part m.coll = some y ∧ y.st = 2 ∧ y.fetches = e.fetches ++ [⟨m.b, m.off, ceRoot e.raw, false⟩]) ∧
    (bit (rd s R.colCtrl) 0 = false → rd (gapMsg s i) R.colFetches = (rd s R.colFetches + 1) % 2 ^ 48) := by
  obtain ⟨htake, x, hx⟩ := msgTake_some h hk
  simp only [gapMsg, htake, run_raw]
  generalize (msgTake s i 7).2 = t at hx ⊢
  obtain ⟨hrun, hy, hcount⟩ := fetchSend_leaves hx.entry e.run (ceRoot e.raw) m.b m.off 4294967295 (ceRoot e.raw) false
  refine ⟨hrun.colIn.trans hx.colIn, hx.fab.trans hrun.fab, ⟨_, hy, by rw [hx.eq], by rw [hx.eq]⟩, fun hon => ?_⟩
  rw [hcount (by rw [hx.rd]; exact hon), hx.rd]

/-! FETCH (R399, R401). -/

theorem fetchMsg_tree (h : Addressed s i m e) (hk : m.kind = 8) (htree : ceTree e.raw = true) : (fetchMsg s i).colIn = ldel s.colIn i ∧
    ∃ y, colGet (fetchMsg s i) m.part m.coll = some y ∧ m.rank ∈ y.uni := by
  obtain ⟨htake, x, hx⟩ := msgTake_some h hk
  simp only [fetchMsg, htake, run_raw, htree, if_true]
  generalize (msgTake s i 8).2 = t at hx ⊢
  unfold fetchTree
  extract_lets root s1 all held
  have hput : colGet s1 m.part m.coll = some { x with uni := if x.uni.contains m.rank then x.uni else x.uni ++ [m.rank] } := colGet_colMod hx.entry _
  have hin : s1.colIn = t.colIn := (flowRun_colMod ..).colIn
  clear_value s1 held
  suffices hafter : ∀ v, Outgoing m.part m.coll s1 v → v.colIn = ldel s.colIn i ∧ ∃ y, colGet v m.part m.coll = some y ∧ m.rank ∈ y.uni by
    refine hafter _ (outgoing_foldl (fun t x => ?_) held s1)
    extract_lets off d
    have hread : Outgoing m.part m.coll t d.2 := outgoing_colRead ..
    split
    · exact hread
    · exact outgoing_trans hread (outgoing_colData ..)
  intro v hsent
  obtain ⟨y, hy, hxy⟩ := hsent.entry _ hput
  refine ⟨hsent.colIn.trans (hin.trans hx.colIn), y, hy, ?_⟩
  have huni : y.uni = if x.uni.contains m.rank then x.uni else x.uni ++ [m.rank] := by rw [hxy.eq]
  rw [huni]
  split
  · next hin => exact List.contains_iff_mem.1 hin
  · exact List.mem_append_right _ (List.mem_singleton_self _)

/-- Is a FETCH of a backup contribution answered: the bucket, or the slots, are full here. -/
def FetchFull (e : ColEnt) (b : Nat) : Prop := if ceOp e.raw = 4 then e.act ≠ none else bucketLen e b ≤ tgetD e.cnt b 0

theorem fetchMsg_flat (h : Addressed s i m e) (hk : m.kind = 8) (htree : ceTree e.raw = false) :
    (FetchFull e m.b → fetchMsg s i = fetchBack (msgTake s i 8).2 m e.run) ∧ (¬ FetchFull e m.b → fetchMsg s i = s) := by
  have hact : e.run.act = e.act := by rw [run_eq]
  have hcnt : e.run.cnt = e.cnt := by rw [run_eq]
  have hlen : bucketLen e.run m.b = bucketLen e m.b := by rw [run_eq]; rfl
  have e1 : fetchMsg s i = if (if ceOp e.raw = 4 then e.act.isNone else decide (tgetD e.cnt m.b 0 < bucketLen e m.b)) = true then s
      else fetchBack (msgTake s i 8).2 m e.run := by
    simp only [fetchMsg, (msgTake_some h hk).1, run_raw, htree, Bool.false_eq_true, if_false, hact, hcnt, hlen]
  have hiff : (if ceOp e.raw = 4 then e.act.isNone else decide (tgetD e.cnt m.b 0 < bucketLen e m.b)) = true ↔ ¬ FetchFull e m.b := by
    unfold FetchFull
    split
    · simp
    · simp
  exact ⟨fun hfull => by rw [e1, if_neg (fun hw => hiff.1 hw hfull)], fun hno => by rw [e1, if_pos (hiff.2 hno)]⟩

theorem outgoing_fetchBack (s : State) (m : ColMsg) (e : ColEnt) : Outgoing m.part m.coll s (fetchBack s m e) := by
  unfold fetchBack
  extract_lets len want a2a va d
  have hread : Outgoing m.part m.coll s d.2 := outgoing_colRead ..
  clear_value d
  split
  · exact hread
  · split
    · exact outgoing_trans hread (outgoing_blockSend ..)
    · exact outgoing_trans hread (outgoing_colData ..)

theorem fetchMsg_back (h : Addressed s i m e) (hk : m.kind = 8) (htree : ceTree e.raw = false) (hfull : FetchFull e m.b) :
    (fetchMsg s i).colIn = ldel s.colIn i ∧ ∃ y, colGet (fetchMsg s i) m.part m.coll = some y := by
  obtain ⟨-, x, hx⟩ := msgTake_some h hk
  rw [(fetchMsg_flat h hk htree).1 hfull]
  have hback := outgoing_fetchBack (msgTake s i 8).2 m e.run
  obtain ⟨y, hy, -⟩ := hback.entry x hx.entry
  exact ⟨hback.colIn.trans hx.colIn, y, hy⟩

end

end Sys2Proof.Machine

/-!
SUPPORT and proof for the messages and deadlines of collectives (R396, R399–R401, R404, R506): O43.
-/

namespace Sys2Proof.Machine

section
variable {s t u : State} {p c b rank : Nat} {e : ColEnt}

/-! BACKUP_DEADLINE (R399). -/

/-- The contribution of `rank` to bucket `b` of a running collective is awaited past its deadline. -/
structure Overdue (e : ColEnt) (b rank : Nat) : Prop where
  st : e.st = 2
  deadline : ceDeadline e.raw ≠ 0
  tree : ceTree e.raw = false
  lt : rank < e.n
  other : rank ≠ e.self
  taken : lateCopy e b rank = false
  whole : contribWhole e b rank false = none
  late : (b, rank) ∉ e.late

theorem backupDeadline_counts (he : colGet s p c = some e) (h : Overdue e b rank) (hback : backOf e rank = none) :
    backupDeadline s p c b rank = colBump s R.colLate 1 := by
  obtain ⟨hst, hd, htree, hrank, hother, htaken, hwhole, hlate⟩ := h
  simp [backupDeadline, he, hst, hd, htree, hrank, hother, htaken, hwhole, hlate, hback]

theorem backupDeadline_marks (he : colGet s p c = some e) (h : Overdue e b rank) {k : Nat} (hback : backOf e rank = some k) :
    Carrying p c b (colPut (colBump s R.colLate 1) p c (contribMark { e with late := e.late ++ [(b, rank)] } b rank)) (backupDeadline s p c b rank) := by
  obtain ⟨hst, hd, htree, hrank, hother, htaken, hwhole, hlate⟩ := h
  unfold backupDeadline
  simp only [he]
  rw [if_neg (by simp [hst, hd, htree, hrank, hother, htaken, hwhole, hlate]), hback]
  dsimp only
  generalize colPut (colBump s R.colLate 1) p c _ = v
  refine carrying_trans ?_ (carrying_colTry ..)
  split
  · exact carrying_backFetch ..
  · exact carrying_refl v

theorem contribMark_late (e : ColEnt) (b rank : Nat) : (contribMark e b rank).late = e.late := by rw [(outgoing_contribMark e b rank).eq]

/-- COL_LATE, and the rank marked late. -/
theorem backupDeadline_leaves (hp : p < 16) (he : colGet s p c = some e) (h : Overdue e b rank) {k : Nat} (hback : backOf e rank = some k) :
    (bit (rd s R.colCtrl) 0 = false → rd (backupDeadline s p c b rank) R.colLate = (rd s R.colLate + 1) % 2 ^ 48) ∧
      ∃ y, colGet (backupDeadline s p c b rank) p c = some y ∧ (b, rank) ∈ y.late := by
  have hmarks := backupDeadline_marks he h hback
  obtain ⟨y, hy, hcarry⟩ := hmarks.entry _ (colGet_colPut_same ..)
  refine ⟨fun hon => ?_, y, hy, ?_⟩
  · rw [hmarks.late hp]
    show rd (colBump s R.colLate 1) R.colLate = _
    rw [colBump, rd_bump_same, hon]
    rfl
  · have hlate : y.late = (contribMark { e with late := e.late ++ [(b, rank)] } b rank).late := by rw [hcarry.eq]
    rw [hlate, contribMark_late]
    exact List.mem_append_right _ (List.mem_singleton_self _)

/-! FETCH_TIMEOUT (R401). -/

theorem fetchTimeout_fails (he : colGet s p c = some e) (hst : e.st = 2) (htree : ceTree e.raw = true) {f : FetchReq} {r : List FetchReq}
    (hf : e.fetches = f :: r) (hno : f.bk = true ∨ backOf e (ceRoot e.raw) = none ∨ backOf e (ceRoot e.raw) = some e.self) :
    fetchTimeout s p c = colFail s p c 9 := by
  unfold fetchTimeout
  simp only [he, hst, htree, hf]
  rcases hno with h | h | h
  · simp [h]
  · simp [h]
  · cases f.bk
    · simp [h]
    · simp

theorem fetchTimeout_asks (he : colGet s p c = some e) (hst : e.st = 2) (htree : ceTree e.raw = true) {f : FetchReq} {r : List FetchReq}
    (hf : e.fetches = f :: r) (hbk : f.bk = false) {k : Nat} (hback : backOf e (ceRoot e.raw) = some k) (hk : k ≠ e.self) :
    fetchTimeout s p c = fetchSend (colPut s p c { e with fetches := r }) p c { e with fetches := r } k f.b f.off 4294967295 (ceRoot e.raw) true := by
  unfold fetchTimeout
  simp [he, hst, htree, hf, hbk, hback, hk]

/-! COLL_WATCHDOG (R506). -/

theorem collWatchdog_fails (he : colGet s p c = some e) (hst : e.st = 2) :
    colGet (collWatchdog s p c) p c = some (e.failed 9) ∧ OnFabric s (collWatchdog s p c) ∧
      rd (collWatchdog s p c) R.stkWdogColl = (rd s R.stkWdogColl + 1) % 2 ^ 48 := by
  have hlog := counted_logErr (bump s false R.stkWdogColl 1) R.errUnitLog R.errUnitCount (fieldAt 8 4 5 + fieldAt 24 4 p)
  have hbump := counted_bump s false R.stkWdogColl 1 48
  unfold collWatchdog
  simp only [he, hst, if_true]
  generalize logErr (bump s false R.stkWdogColl 1) R.errUnitLog R.errUnitCount _ = v at hlog ⊢
  have hcols : v.cols = s.cols := by rw [hlog.eq, hbump.eq]
  refine ⟨colGet_colFail v ((colGet_of_cols hcols p c).trans he) (by rw [hst]; decide) 9,
    (hbump.onFabric.trans hlog.onFabric).trans (onFabric_colFail ..), ?_⟩
  rw [rd_colFail (by unfold OffFail; decide), hlog.regs _ (by decide), rd_bump_same]
  rfl

/-! The commands. -/

theorem message_done {i : Nat} {f : State → State} {Q : ColEnt → Prop} (hc : Calm s) (hv : Calm (f (quiet s)))
    (h : (f (quiet s)).colIn = ldel s.colIn i ∧ ∃ y, colGet (f (quiet s)) p c = some y ∧ Q y) :
    ∃ u, act f s = .next u ∧ u.colIn = ldel s.colIn i ∧ ∃ e', colGet u p c = some e' ∧ Q e' :=
  (message_completes hc hv h.1 h.2).imp fun _ ⟨hu, _, hrest⟩ => ⟨hu, hrest⟩

/-- A message that waits. -/
theorem message_waits {f : State → State} (hc : Calm s) (h : f (quiet s) = quiet s) : ∃ u, act f s = .next u ∧ u.colIn = s.colIn ∧ u.cols = s.cols :=
  completes_all hc (by rw [h]; exact hc.quiet) fun u hu => ⟨by rw [hu.colIn, h]; rfl, by rw [hu.cols, h]; rfl⟩

theorem gap_completes {i : Nat} {m : ColMsg} (hc : Calm s) (h : Addressed (quiet s) i m e) (hk : m.kind = 7) :
    ∃ u, act (fun t => gapMsg t i) s = .next u ∧ (u.colIn = ldel s.colIn i ∧ ∃ e', colGet u m.part m.coll = some e' ∧ e'.st = 2 ∧
      e'.fetches = e.fetches ++ [⟨m.b, m.off, ceRoot e.raw, false⟩]) ∧
      (bit (rd s R.colCtrl) 0 = false → rd u R.colFetches = (rd s R.colFetches + 1) % 2 ^ 48) := by
  obtain ⟨hin, hfab, hent, hcount⟩ := gapMsg_leaves h hk
  obtain ⟨u, hu, hfol, hrest⟩ := message_completes (f := fun t => gapMsg t i) hc (hfab.calm hc.quiet) hin hent
  exact ⟨u, hu, hrest, fun hon => (hfol.rd _ (by decide)).trans (hcount hon)⟩

theorem fetchTimeout_completes (hp : p < 16) (hc : Calm s) (he : colGet s p c = some e) (hst : e.st = 2) (htree : ceTree e.raw = true) {f : FetchReq}
    {r : List FetchReq} (hf : e.fetches = f :: r) :
    (f.bk = true ∨ backOf e (ceRoot e.raw) = none ∨ backOf e (ceRoot e.raw) = some e.self →
      ∃ u, act (only (p < 16) (fun t => fetchTimeout t p c)) s = .next u ∧ ∃ e', colGet u p c = some e' ∧ e'.st = 3 ∧ e'.fail = 9) ∧
    (∀ k, f.bk = false → backOf e (ceRoot e.raw) = some k → k ≠ e.self → ∃ u, act (only (p < 16) (fun t => fetchTimeout t p c)) s = .next u ∧
      ∃ e', colGet u p c = some e' ∧ e'.st = 2 ∧ e'.fetches = r ++ [⟨f.b, f.off, k, true⟩]) := by
  have he' : colGet (quiet s) p c = some e := he
  refine ⟨fun hno => ?_, fun k hbk hback hk => ?_⟩
  · have e1 := fetchTimeout_fails he' hst htree hf hno
    refine completes_act (f := fun t => fetchTimeout t p c) hc hp (by rw [e1]; exact (onFabric_colFail ..).calm hc.quiet) fun u hu => ?_
    rw [e1] at hu
    exact ⟨e.failed 9, (hu.colGet p c).trans (colGet_colFail _ he' (by rw [hst]; decide) 9), rfl, rfl⟩
  · have e1 := fetchTimeout_asks he' hst htree hf hbk hback hk
    obtain ⟨hrun, hget, -⟩ := fetchSend_leaves (colGet_colPut_same (quiet s) p c { e with fetches := r }) { e with fetches := r } k f.b f.off 4294967295
      (ceRoot e.raw) true
    refine completes_act (f := fun t => fetchTimeout t p c) hc hp (by rw [e1]; exact ((flowRun_colPut ..).trans hrun).fab.calm hc.quiet) fun u hu => ?_
    rw [e1] at hu
    exact ⟨_, (hu.colGet p c).trans hget, hst, rfl⟩

end

/-- Settles O43: each message is taken from its collective's queue (`msgTake_some`); a contribution is discarded, held or gathered by the rules of its kind,
and the other messages leave what `resultMsg_leaves`, `bcastMsg_leaves`, `countsMsg_leaves`, `doneMsg_leaves`, `gapMsg_leaves` and the rules of FETCH
say. -/
theorem collectiveMessages : Obligations.CollectiveMessages := by
  unfold Obligations.CollectiveMessages
  refine ⟨fun s i m e hc hm he hep hst => ?_, fun s p c e hp hc he hst => ⟨fun b rank hd htree hlt hother htaken hwhole hlate => ?_,
    fun f r htree hf => (fetchTimeout_completes hp hc he hst htree hf).1, fun f r k htree hf => (fetchTimeout_completes hp hc he hst htree hf).2 k, ?_⟩⟩
  · have h : Addressed (quiet s) i m e := ⟨hm, he, hep, hst⟩
    refine ⟨fun hk => ?_, fun hk hop => ?_, fun hk hcalm => message_done (f := fun t => resultMsg t i) hc hcalm (resultMsg_leaves h hk),
      fun hk => ⟨fun hgo hcalm => ?_, fun hop hact => ?_⟩,
      fun hk hcalm => message_done (f := fun t => countsMsg t i) hc hcalm (countsMsg_leaves h hk), fun hk => ?_, fun hk => gap_completes hc h hk,
      fun hk => ⟨fun htree hcalm => ?_, fun htree hact hcnt => ?_, fun htree hact hcnt hcalm => ?_⟩⟩
    · obtain ⟨-, x, hx⟩ := msgTake_some h hk
      have e1 := contribMsg_eq h hk
      refine ⟨fun hlate => ?_, fun hred hended hran => ?_, fun hop hlate hcalm => ?_⟩
      · exact discarded_completes (f := fun t => contribMsg t i) hc hx (e1.trans (contribIn_late (by rw [lateCopy_run]; exact hlate) ..))
      · have hoff : pieceOff e m = m.off - shardLo (bucketLen e m.b) e.n e.self := if_pos hred
        rw [hoff] at e1
        exact reducedPiece_completes (f := fun t => contribMsg t i) hc hx e1 hred hended hran
      · have hoff : pieceOff e m = m.off := if_neg (by simp [ceRed, hop])
        rw [hoff] at e1
        obtain ⟨u, hu, hin, e', hget, hleaves⟩ := gatheredPiece_completes (f := fun t => contribMsg t i) hc hx hcalm e1 (.inl hop) hlate
        exact ⟨u, hu, hin, e', hget, fun hst => (hleaves hst).imp id And.left⟩
    · obtain ⟨-, x, hx⟩ := msgTake_some h hk
      obtain ⟨hcopy, hpiece⟩ := blockMsg_eq h hk
      refine ⟨fun hlost => ?_, fun hback hlate hcalm => ?_⟩
      · refine discarded_completes (f := fun t => blockMsg t i) hc hx ?_
        by_cases hb : BackCopy e m
        · exact hcopy hb
        · exact (hpiece hb).trans (contribIn_late (by rw [lateCopy_run]; exact hlost.resolve_left hb) ..)
      · obtain ⟨u, hu, hin, e', hget, hleaves⟩ := gatheredPiece_completes (f := fun t => blockMsg t i) hc hx hcalm (hpiece hback) (.inr hop) hlate
        exact ⟨u, hu, hin, e', hget, fun hst => (hleaves hst).imp id fun hw => hw.2 hop⟩
    · exact message_done (f := fun t => bcastMsg t i) hc hcalm (bcastMsg_leaves h hk hgo)
    · exact message_waits (f := fun t => bcastMsg t i) hc (bcastMsg_waits h hk hop hact)
    · obtain ⟨hin, hfab, hent⟩ := doneMsg_leaves h hk
      exact message_done (f := fun t => doneMsg t i) hc (hfab.calm hc.quiet) ⟨hin, hent⟩
    · exact message_done (f := fun t => fetchMsg t i) hc hcalm (fetchMsg_tree h hk htree)
    · refine message_waits (f := fun t => fetchMsg t i) hc ((fetchMsg_flat h hk htree).2 fun hfull => ?_)
      unfold FetchFull at hfull
      split at hfull
      · next hop => exact hfull (hact hop)
      · next hop => exact absurd (hcnt hop) (by omega)
    · have hfull : FetchFull e m.b := by
        unfold FetchFull
        split
        · next hop => exact hact hop
        · next hop => exact hcnt hop
      obtain ⟨hin, y, hy⟩ := fetchMsg_back h hk htree hfull
      exact message_done (f := fun t => fetchMsg t i) (Q := fun _ => True) hc hcalm ⟨hin, y, hy, trivial⟩
  · have hover : Overdue e b rank := ⟨hst, hd, htree, hlt, hother, htaken, hwhole, hlate⟩
    refine ⟨fun hback => ?_, fun k hback hcalm => ?_⟩
    · have e1 := backupDeadline_counts (s := quiet s) he hover hback
      have hcount := counted_colBump (quiet s) R.colLate 1 48
      refine completes_act (f := fun t => backupDeadline t p c b rank) hc hp (by rw [e1]; exact hcount.calm hc.quiet) fun u hu => ?_
      rw [e1] at hu
      refine ⟨by rw [hu.cols, hcount.eq]; rfl, .intro hu (by rw [hcount.eq]; rfl) hcount.regs, fun hon => ?_⟩
      rw [hu.rd _ (by decide), colBump, rd_bump_same, rd_quiet, rd_quiet, hon]
      rfl
    · obtain ⟨hcount, y, hy, hin⟩ := backupDeadline_leaves (s := quiet s) hp he hover hback
      exact completes_act (f := fun t => backupDeadline t p c b rank) hc hp hcalm fun u hu =>
        ⟨fun hon => (hu.rd _ (by decide)).trans (hcount hon), y, (hu.colGet p c).trans hy, hin⟩
  · obtain ⟨hget, hfab, hcount⟩ := collWatchdog_fails (s := quiet s) he hst
    exact completes_act (f := fun t => collWatchdog t p c) hc hp (hfab.calm hc.quiet) fun u hu =>
      ⟨⟨e.failed 9, (hu.colGet p c).trans hget, rfl, rfl⟩, (hu.rd _ (by decide)).trans hcount⟩

end Sys2Proof.Machine
